-- ==== Sys2Proof/Word.lean ====
section
/-! DEFINITION. The word types of the DG8-640: set-up registers are 32 bits wide (00_scope R11),
memories are bytes, pairs and counters are 64 bits. -/

namespace Sys2Proof

/-- One 32-bit set-up register, command word or core register (00 R11, 13 R457). -/
abbrev Word := BitVec 32

/-- One byte of a memory (00 R7: multi-byte structures are stored little-endian). -/
abbrev Byte := BitVec 8

/-- A 64-bit quantity: a `_LO`/`_HI` pair, a fence, a doorbell address (00 R10). -/
abbrev Quad := BitVec 64

end Sys2Proof
end

