-- ==== Sys2Proof/Config.lean ====
section
/-! DEFINITION. What one device fixes and the spec leaves open: free values with no body, so that nothing can be
proved of them.  A free value that an instruction leaves is one of these applied to the counter `Dev.free`. -/

namespace Sys2Proof

/-- A value the spec leaves undefined, by the count of such values drawn so far (DESIGN CHOICE, log 5). -/
opaque Config.freeWord : Nat → BitVec 32

/-- A byte the spec leaves undefined, by the count of such bytes drawn so far. -/
opaque Config.freeByte : Nat → BitVec 8

/-- An order or a choice the spec leaves to the device, by the count of choices made so far. -/
opaque Config.freeNat : Nat → Nat

/-- What a Scree cell that nothing has programmed holds, by its key (10 R342). -/
opaque Config.screeCell : Nat → Nat

/-- The trim of a column that nothing has calibrated, by its key (10 R364). -/
opaque Config.screeTrim : Nat → Nat

/-- The mismatch that a calibration leaves on a column, in units of 2^-10 LSB, by the count of values drawn so far (10 Table 10.4). -/
opaque Config.screeResidual : Nat → Int

/-- The level error of a T cell in units of 2^-10 half-levels, by its key and its block's program counter: it stays until the cell is
programmed again (10 R351, Table 10.4). -/
opaque Config.screeCellError : Nat → Nat → Int

/-- The sign of the drift of a column group, by its key and its macro's evaluations, and its size on a column in units of 2^-10 LSB
(10 Table 10.4). -/
opaque Config.screeDriftUp : Nat → Nat → Bool
opaque Config.screeDrift : Nat → Nat → Nat

/-- The read noise of one conversion in units of 2^-10 LSB, by the bounds in force on the column's error (its largest σ and mean, in
hundredths of an LSB) and the count of values drawn so far (10 R350, R352). -/
opaque Config.screeNoise : Nat → Nat → Nat → Int

/-- The hash that spreads flows over the ports of a route, by flow (16 R573) (DESIGN CHOICE, log 77). -/
opaque Config.flowHash : Nat → Nat

end Sys2Proof
end

