-- ==== Sys2Proof/Machine/Regs.lean ====
section
/-! DEFINITION. The fields of every set-up register of the spec, one constant each, as the field tables of
chapters 03 to 21 give them: BAR0 offset, strides of the arrays it lies in, lowest bit, width, type,
reset value and reserved encodings.  The value a field holds lives in the register file of the state. -/

namespace Sys2Proof.Machine

/-- Table 0.4 of 00_scope: the register field types.  `roc` is a counter of type RO, W1C (21 R746). -/
inductive RTy where
  | rw | ro | wo | w1c | sh | roc
deriving DecidableEq, Repr

/-- Which encodings of a field its table marks reserved (00 R16) (DEDUCED, log 14). -/
inductive Rsv where
  | none
  /-- every value from the bound up -/
  | ge (n : Nat)
  /-- every value below the bound -/
  | lt (n : Nat)
  /-- every value outside the range -/
  | rng (lo hi : Nat)
  /-- the listed values -/
  | vals (l : List Nat)
deriving DecidableEq, Repr

/-- A field of a set-up register: offset of its register, the (stride, count) of the arrays the register
lies in (outermost first), lowest bit, width, type, reset value, reserved encodings. -/
structure Fld where
  base : Nat
  dims : List (Nat × Nat)
  lo : Nat
  w : Nat
  ty : RTy
  rst : Nat
  rsv : Rsv
deriving DecidableEq, Repr

/-- Is the encoding reserved (00 R16)? -/
def Rsv.bad : Rsv → Nat → Bool
  | .none, _ => false
  | .ge n, v => decide (n ≤ v)
  | .lt n, v => decide (v < n)
  | .rng a b, v => decide (v < a) || decide (b < v)
  | .vals l, v => l.contains v

/-- The BAR0 offset of the register that holds the field, for the given indexes. -/
def Fld.off (f : Fld) (ix : List Nat) : Nat :=
  f.base + (List.zipWith (fun d i => d.1 * i) f.dims ix).sum

/-- The indexes at which a rest offset lies in nested arrays, if it does. -/
def dimIndex : List (Nat × Nat) → Nat → Option (List Nat)
  | [], r => if r = 0 then some [] else none
  | (st, n) :: ds, r =>
    if r / st < n then (dimIndex ds (r % st)).map (r / st :: ·) else none

/-- The indexes of the field at an offset, when the register at the offset holds it. -/
def Fld.index (f : Fld) (off : Nat) : Option (List Nat) :=
  if off < f.base then none else dimIndex f.dims (off - f.base)

namespace F
/-- 21 R750. -/
abbrev PART_NO : Fld := ⟨0x0, [], 0, 16, .ro, 0x0640, .none⟩
/-- 21 R750. -/
abbrev DIE_COUNT : Fld := ⟨0x0, [], 16, 8, .ro, 8, .none⟩
/-- 21 R750. -/
abbrev FAMILY : Fld := ⟨0x0, [], 24, 8, .ro, 0xD8, .none⟩
/-- 21 R750. -/
abbrev STEPPING : Fld := ⟨0x4, [], 0, 8, .ro, 0xA1, .none⟩
/-- 21 R750. -/
abbrev SERIAL_LO : Fld := ⟨0x8, [], 0, 32, .ro, 0, .none⟩
/-- 21 R750. -/
abbrev SERIAL_HI : Fld := ⟨0xC, [], 0, 32, .ro, 0, .none⟩
/-- 21 R750. -/
abbrev WIDTH_ERR : Fld := ⟨0x10, [], 0, 1, .w1c, 0, .none⟩
/-- 21 R750. -/
abbrev RSVD_WRITE : Fld := ⟨0x10, [], 1, 1, .w1c, 0, .none⟩
/-- 21 R750. -/
abbrev DIE_ACCESS : Fld := ⟨0x10, [], 2, 1, .w1c, 0, .none⟩
/-- 15 R550. -/
abbrev EXT_MODE : Fld := ⟨0x100, [], 0, 2, .rw, 0, .none⟩
/-- 15 R550. -/
abbrev EXT_IG : Fld := ⟨0x100, [], 2, 1, .rw, 0, .none⟩
/-- 15 R550. -/
abbrev EXT_APPLY : Fld := ⟨0x100, [], 8, 1, .wo, 0, .none⟩
/-- 15 R550. -/
abbrev EXT_BUSY : Fld := ⟨0x104, [], 0, 1, .ro, 0, .none⟩
/-- 15 R550. -/
abbrev EXT_DONE : Fld := ⟨0x104, [], 1, 1, .w1c, 0, .none⟩
/-- 15 R550. -/
abbrev EXT_CFG_ERR : Fld := ⟨0x104, [], 2, 1, .w1c, 0, .none⟩
/-- 15 R550. -/
abbrev EXT_MODE_NOW : Fld := ⟨0x104, [], 8, 8, .ro, 0, .none⟩
/-- 15 R550. -/
abbrev EXT_SIZE_GIB : Fld := ⟨0x108, [], 0, 10, .ro, 0, .none⟩
/-- 20 R737. -/
abbrev BOOT_STAGE : Fld := ⟨0x200, [], 0, 4, .ro, 0, .none⟩
/-- 20 R737. -/
abbrev BOOT_ERR : Fld := ⟨0x200, [], 8, 4, .ro, 0, .none⟩
/-- 20 R737. -/
abbrev BACKUP_USED : Fld := ⟨0x200, [], 12, 1, .ro, 0, .none⟩
/-- 20 R737. -/
abbrev HOST_LOADED : Fld := ⟨0x200, [], 13, 1, .ro, 0, .none⟩
/-- 20 R737. -/
abbrev SHUTDOWN_REFUSED : Fld := ⟨0x200, [], 14, 1, .w1c, 0, .none⟩
/-- 21 R750. -/
abbrev DIE_PRESENT : Fld := ⟨0x204, [], 0, 8, .ro, 0, .none⟩
/-- 21 R750. -/
abbrev DIE_LOST : Fld := ⟨0x204, [], 8, 8, .ro, 0, .none⟩
/-- 21 R750. -/
abbrev DIE_FUSED_OFF : Fld := ⟨0x204, [], 16, 8, .ro, 0, .none⟩
/-- 21 R750. -/
abbrev DIE_TEST_FAIL : Fld := ⟨0x204, [], 24, 8, .ro, 0, .none⟩
/-- 21 R750. -/
abbrev STRAP_HEAD : Fld := ⟨0x208, [], 0, 1, .ro, 0, .none⟩
/-- 21 R750. -/
abbrev STRAP_CHAIN_ID : Fld := ⟨0x208, [], 1, 8, .ro, 0, .none⟩
/-- 21 R750. -/
abbrev STRAP_BOOT : Fld := ⟨0x208, [], 9, 2, .ro, 0, .none⟩
/-- 20 R724. -/
abbrev BOOT_LOAD : Fld := ⟨0x20C, [], 0, 1, .wo, 0, .none⟩
/-- 20 R733. -/
abbrev SHUTDOWN_ARM : Fld := ⟨0x20C, [], 4, 1, .wo, 0, .none⟩
/-- 20 R733. -/
abbrev SHUTDOWN_GO : Fld := ⟨0x20C, [], 5, 1, .wo, 0, .none⟩
/-- 20 R733. -/
abbrev SHUTDOWN_ABORT : Fld := ⟨0x20C, [], 6, 1, .wo, 0, .none⟩
/-- 20 R724. -/
abbrev BOOT_IMG_ADDR_LO : Fld := ⟨0x210, [], 0, 32, .rw, 0, .none⟩
/-- 20 R724. -/
abbrev BOOT_IMG_ADDR_HI : Fld := ⟨0x214, [], 0, 32, .rw, 0, .none⟩
/-- 20 R724. -/
abbrev BOOT_IMG_LEN : Fld := ⟨0x218, [], 0, 25, .rw, 0, .none⟩
/-- 21 R751. -/
abbrev RUN : Fld := ⟨0x100000, [], 0, 1, .rw, 0, .none⟩
/-- 21 R751. -/
abbrev RESIGN : Fld := ⟨0x100000, [], 1, 1, .wo, 0, .none⟩
/-- 21 R751. -/
abbrev CLEAR_LOST : Fld := ⟨0x100000, [], 2, 1, .wo, 0, .none⟩
/-- 21 R751. -/
abbrev CAD_ROLE_NOW : Fld := ⟨0x100004, [], 0, 2, .ro, 0, .none⟩
/-- 21 R751. -/
abbrev RELAYING : Fld := ⟨0x100004, [], 2, 1, .ro, 0, .none⟩
/-- 21 R751. -/
abbrev LOCKED : Fld := ⟨0x100004, [], 3, 1, .ro, 0, .none⟩
/-- 21 R751. -/
abbrev CAD_LOST : Fld := ⟨0x100004, [], 4, 1, .ro, 0, .none⟩
/-- 21 R751. -/
abbrev CARD_LOST : Fld := ⟨0x100004, [], 5, 1, .ro, 0, .none⟩
/-- 21 R751. -/
abbrev STEP_END : Fld := ⟨0x100004, [], 6, 1, .ro, 0, .none⟩
/-- 21 R751. -/
abbrev FREE_RUN : Fld := ⟨0x100004, [], 7, 1, .ro, 0, .none⟩
/-- 21 R751. -/
abbrev VOTE_MISSING : Fld := ⟨0x100004, [], 8, 1, .w1c, 0, .none⟩
/-- 21 R751. -/
abbrev HANDOVER_FAIL : Fld := ⟨0x100004, [], 9, 1, .w1c, 0, .none⟩
/-- 21 R751. -/
abbrev LOST_EV : Fld := ⟨0x100004, [], 10, 1, .w1c, 0, .none⟩
/-- 21 R751. -/
abbrev RELOCK_EV : Fld := ⟨0x100004, [], 11, 1, .w1c, 0, .none⟩
/-- 21 R751. -/
abbrev EPOCH_EV : Fld := ⟨0x100004, [], 12, 1, .w1c, 0, .none⟩
/-- 21 R751. -/
abbrev ALARM_EV : Fld := ⟨0x100004, [], 13, 1, .ro, 0, .none⟩
/-- 21 R751. -/
abbrev NO_MASTER : Fld := ⟨0x100004, [], 14, 1, .ro, 0, .none⟩
/-- 03 R71. -/
abbrev CANDIDATE : Fld := ⟨0x100008, [], 0, 1, .sh, 0, .none⟩
/-- 03 R71. -/
abbrev PRIORITY : Fld := ⟨0x100008, [], 1, 4, .sh, 0xF, (.vals [0])⟩
/-- 03 R71. -/
abbrev CARD : Fld := ⟨0x100008, [], 5, 1, .sh, 0, .none⟩
/-- 03 R71. -/
abbrev RELAY : Fld := ⟨0x100008, [], 6, 1, .sh, 0, .none⟩
/-- 03 R71. -/
abbrev RELAY_PORT : Fld := ⟨0x100008, [], 7, 3, .sh, 0, (.ge 6)⟩
/-- 03 R74. -/
abbrev TICK_PERIOD : Fld := ⟨0x10000C, [], 0, 24, .rw, 1000, (.lt 200)⟩
/-- 03 R77. -/
abbrev CAD_LEAD : Fld := ⟨0x100010, [], 0, 32, .rw, 40000, .none⟩
/-- 21 R751. -/
abbrev ADV_NOTICE : Fld := ⟨0x100014, [], 0, 12, .sh, 0, .none⟩
/-- 21 R751. -/
abbrev PHASE_LAST : Fld := ⟨0x100018, [], 0, 4, .sh, 3, .none⟩
/-- 21 R748. -/
abbrev CAD_COMMIT : Fld := ⟨0x10001C, [], 0, 1, .wo, 0, .none⟩
/-- 03 R66. -/
abbrev POS_STEP_LO : Fld := ⟨0x100020, [], 0, 32, .ro, 0, .none⟩
/-- 03 R66. -/
abbrev POS_STEP_HI : Fld := ⟨0x100024, [], 0, 16, .ro, 0, .none⟩
/-- 03 R66. -/
abbrev POS_TICK : Fld := ⟨0x100028, [], 0, 20, .ro, 0, .none⟩
/-- 03 R66. -/
abbrev POS_PHASE : Fld := ⟨0x100028, [], 20, 4, .ro, 0, .none⟩
/-- 03 R70. -/
abbrev POS_END : Fld := ⟨0x10002C, [], 0, 20, .ro, 0, .none⟩
/-- 03 R79. -/
abbrev CYCLE_LO : Fld := ⟨0x100030, [], 0, 32, .ro, 0, .none⟩
/-- 03 R79. -/
abbrev CYCLE_HI : Fld := ⟨0x100034, [], 0, 32, .ro, 0, .none⟩
/-- 03 R79. -/
abbrev TICK_STAMP_LO : Fld := ⟨0x100038, [], 0, 32, .ro, 0, .none⟩
/-- 03 R79. -/
abbrev TICK_STAMP_HI : Fld := ⟨0x10003C, [], 0, 32, .ro, 0, .none⟩
/-- 03 Table 3.8. -/
abbrev DELAY_NOW : Fld := ⟨0x100040, [], 0, 32, .ro, 0, .none⟩
/-- 03 Table 3.8. -/
abbrev DELAY_MAX : Fld := ⟨0x100044, [], 0, 32, .roc, 0, .none⟩
/-- 03 R77. -/
abbrev TICK_LATE_COUNT : Fld := ⟨0x100048, [], 0, 32, .roc, 0, .none⟩
/-- 03 R87. -/
abbrev EPOCH : Fld := ⟨0x10004C, [], 0, 16, .ro, 0, .none⟩
/-- 03 R83. -/
abbrev CAD_PART_LO : Fld := ⟨0x100050, [], 0, 32, .sh, 0, .none⟩
/-- 03 R83. -/
abbrev CAD_PART_HI : Fld := ⟨0x100054, [], 0, 32, .sh, 0, .none⟩
/-- 03 R80. -/
abbrev VOTE_LO : Fld := ⟨0x100058, [], 0, 32, .rw, 0, .none⟩
/-- 03 R80. -/
abbrev VOTE_HI : Fld := ⟨0x10005C, [], 0, 32, .rw, 0, .none⟩
/-- 03 R105. -/
abbrev START_STEP_LO : Fld := ⟨0x100060, [], 0, 32, .rw, 0, .none⟩
/-- 03 R105. -/
abbrev START_STEP_HI : Fld := ⟨0x100064, [], 0, 16, .rw, 0, .none⟩
/-- 03 R91. -/
abbrev CAD_SUCCESSOR : Fld := ⟨0x100068, [], 0, 15, .rw, 0, .none⟩
/-- 03 R82. -/
abbrev VOTE_STALE_COUNT : Fld := ⟨0x10006C, [], 0, 32, .roc, 0, .none⟩
/-- 21 R751. -/
abbrev CAD_IRQ_EN : Fld := ⟨0x100070, [], 8, 6, .rw, 0, .none⟩
/-- 03 R69. -/
abbrev DEADLINE : Fld := ⟨0x100080, [(4, 16)], 0, 20, .sh, 1048575, (.vals [0])⟩
/-- 03 R101. -/
abbrev ALARM_EVENT : Fld := ⟨0x100100, [(4, 8)], 0, 32, .w1c, 0, .none⟩
/-- 03 R94. -/
abbrev AL_STEP_LO : Fld := ⟨0x101000, [(32, 256)], 0, 32, .rw, 0, .none⟩
/-- 03 R94. -/
abbrev AL_STEP_HI : Fld := ⟨0x101004, [(32, 256)], 0, 16, .rw, 0, .none⟩
/-- 03 R94. -/
abbrev AL_TICK : Fld := ⟨0x101008, [(32, 256)], 0, 20, .rw, 0, .none⟩
/-- 03 R94. -/
abbrev AL_PHASE : Fld := ⟨0x101008, [(32, 256)], 20, 4, .rw, 0, .none⟩
/-- 03 R94. -/
abbrev AL_KIND : Fld := ⟨0x101008, [(32, 256)], 24, 1, .rw, 0, .none⟩
/-- 03 R94. -/
abbrev AL_REPEAT : Fld := ⟨0x101008, [(32, 256)], 25, 1, .rw, 0, .none⟩
/-- 03 R94. -/
abbrev AL_ACTION : Fld := ⟨0x10100C, [(32, 256)], 0, 4, .rw, 0, (.ge 7)⟩
/-- 03 R94. -/
abbrev AL_OWNER : Fld := ⟨0x10100C, [(32, 256)], 4, 6, .rw, 0, .none⟩
/-- 03 R94. -/
abbrev AL_DEV_OWNED : Fld := ⟨0x10100C, [(32, 256)], 10, 1, .rw, 1, .none⟩
/-- 03 R94. -/
abbrev AL_NOTIFY : Fld := ⟨0x10100C, [(32, 256)], 11, 1, .rw, 0, .none⟩
/-- 03 R94. -/
abbrev AL_ARG : Fld := ⟨0x101010, [(32, 256)], 0, 32, .rw, 0, .none⟩
/-- 03 R94. -/
abbrev AL_ARM : Fld := ⟨0x101014, [(32, 256)], 0, 1, .wo, 0, .none⟩
/-- 03 R94. -/
abbrev AL_DISARM : Fld := ⟨0x101014, [(32, 256)], 1, 1, .wo, 0, .none⟩
/-- 03 R94. -/
abbrev AL_STATE : Fld := ⟨0x101018, [(32, 256)], 0, 2, .ro, 0, .none⟩
/-- 03 R94. -/
abbrev AL_LAST : Fld := ⟨0x101018, [(32, 256)], 4, 4, .ro, 0, .none⟩
/-- 03 R94. -/
abbrev AL_FIRED : Fld := ⟨0x101018, [(32, 256)], 16, 16, .ro, 0, .none⟩
/-- 21 R753. -/
abbrev CHAIN_HEAD : Fld := ⟨0x200000, [], 0, 1, .rw, 0, .none⟩
/-- 21 R753. -/
abbrev ENUM_START : Fld := ⟨0x200000, [], 1, 1, .wo, 0, .none⟩
/-- 21 R753. -/
abbrev CHAIN_MODE : Fld := ⟨0x200004, [], 0, 2, .ro, 3, .none⟩
/-- 21 R753. -/
abbrev U_STATE : Fld := ⟨0x200004, [], 2, 3, .ro, 0, .none⟩
/-- 21 R753. -/
abbrev D_STATE : Fld := ⟨0x200004, [], 5, 3, .ro, 0, .none⟩
/-- 21 R753. -/
abbrev ENUM_FAIL : Fld := ⟨0x200004, [], 8, 1, .w1c, 0, .none⟩
/-- 21 R753. -/
abbrev HEAD_CONFLICT : Fld := ⟨0x200004, [], 9, 1, .w1c, 0, .none⟩
/-- 21 R753. -/
abbrev ADDR_CHANGED : Fld := ⟨0x200004, [], 10, 1, .w1c, 0, .none⟩
/-- 21 R753. -/
abbrev BREAK_EV : Fld := ⟨0x200004, [], 11, 1, .w1c, 0, .none⟩
/-- 21 R753. -/
abbrev UNWRAP_EV : Fld := ⟨0x200004, [], 12, 1, .w1c, 0, .none⟩
/-- 21 R753. -/
abbrev DUP_ADDR : Fld := ⟨0x200004, [], 16, 1, .ro, 0, .none⟩
/-- 21 R753. -/
abbrev CHAIN_FULL : Fld := ⟨0x200004, [], 17, 1, .ro, 0, .none⟩
/-- 21 R753. -/
abbrev MISWIRE_U : Fld := ⟨0x200004, [], 18, 1, .ro, 0, .none⟩
/-- 21 R753. -/
abbrev MISWIRE_D : Fld := ⟨0x200004, [], 19, 1, .ro, 0, .none⟩
/-- 04 Table 4.9. -/
abbrev CHAIN_ADDR : Fld := ⟨0x200008, [], 0, 7, .ro, 0, .none⟩
/-- 04 Table 4.9. -/
abbrev CHAIN_ADDR_ID : Fld := ⟨0x200008, [], 7, 8, .ro, 0, .none⟩
/-- 04 Table 4.9. -/
abbrev CHAIN_GEN : Fld := ⟨0x200008, [], 16, 8, .ro, 0, .none⟩
/-- 21 R753. -/
abbrev PREF_ADDR : Fld := ⟨0x20000C, [], 0, 7, .rw, 0, (.vals [0, 127])⟩
/-- 21 R753. -/
abbrev PREF_EN : Fld := ⟨0x20000C, [], 8, 1, .rw, 0, .none⟩
/-- 04 Table 4.9. -/
abbrev CHAIN_ID : Fld := ⟨0x200010, [], 0, 8, .rw, 0, .none⟩
/-- 04 Table 4.9. -/
abbrev CHAIN_COUNT : Fld := ⟨0x200014, [], 0, 7, .ro, 0, .none⟩
/-- 21 R753. -/
abbrev NBR_ADDR : Fld := ⟨0x200018, [(4, 2)], 0, 7, .ro, 0, .none⟩
/-- 21 R753. -/
abbrev NBR_CHAIN_ID : Fld := ⟨0x200018, [(4, 2)], 8, 8, .ro, 0, .none⟩
/-- 21 R753. -/
abbrev NBR_PORT : Fld := ⟨0x200018, [(4, 2)], 16, 1, .ro, 0, .none⟩
/-- 21 R753. -/
abbrev NBR_VALID : Fld := ⟨0x200018, [(4, 2)], 31, 1, .ro, 0, .none⟩
/-- 04 Table 4.9. -/
abbrev CHAIN_MAP : Fld := ⟨0x200020, [(4, 4)], 0, 32, .ro, 0, .none⟩
/-- 21 R753. -/
abbrev CHAIN_TIMEOUT : Fld := ⟨0x200030, [], 0, 20, .rw, 1000, (.rng 10 1000000)⟩
/-- 04 Table 4.9. -/
abbrev CHAIN_EVT_DST : Fld := ⟨0x200034, [], 0, 7, .rw, 0, .none⟩
/-- 21 R753. -/
abbrev CHAIN_IRQ_EN : Fld := ⟨0x200038, [], 8, 5, .rw, 0, .none⟩
/-- 04 Table 4.9. -/
abbrev CRC_ERR_COUNT : Fld := ⟨0x200040, [], 0, 32, .roc, 0, .none⟩
/-- 04 Table 4.9. -/
abbrev FORMAT_ERR_COUNT : Fld := ⟨0x200044, [], 0, 32, .roc, 0, .none⟩
/-- 04 Table 4.9. -/
abbrev ORPHAN_COUNT : Fld := ⟨0x200048, [], 0, 32, .roc, 0, .none⟩
/-- 04 Table 4.9. -/
abbrev BID_FILTER_COUNT : Fld := ⟨0x20004C, [], 0, 32, .roc, 0, .none⟩
/-- 04 Table 4.9. -/
abbrev BREAK_COUNT : Fld := ⟨0x200050, [], 0, 32, .roc, 0, .none⟩
/-- 21 R753. -/
abbrev MB_DST : Fld := ⟨0x200100, [(0x80, 4)], 0, 7, .rw, 0, .none⟩
/-- 21 R753. -/
abbrev MB_OFFSET : Fld := ⟨0x200104, [(0x80, 4)], 0, 26, .rw, 0, .none⟩
/-- 21 R753. -/
abbrev MB_COUNT : Fld := ⟨0x200108, [(0x80, 4)], 0, 4, .rw, 0, .none⟩
/-- 21 R753. -/
abbrev MB_WAKE : Fld := ⟨0x200108, [(0x80, 4)], 4, 1, .rw, 0, .none⟩
/-- 21 R753. -/
abbrev MB_WRITE : Fld := ⟨0x200108, [(0x80, 4)], 5, 1, .rw, 0, .none⟩
/-- 21 R754. -/
abbrev MB_GO : Fld := ⟨0x200108, [(0x80, 4)], 8, 1, .wo, 0, .none⟩
/-- 21 R754. -/
abbrev MB_STATE : Fld := ⟨0x20010C, [(0x80, 4)], 0, 2, .ro, 0, .none⟩
/-- 21 R754. -/
abbrev MB_STATUS : Fld := ⟨0x20010C, [(0x80, 4)], 4, 4, .ro, 0, .none⟩
/-- 21 R753. -/
abbrev MB_DATA : Fld := ⟨0x200140, [(0x80, 4), (4, 16)], 0, 32, .rw, 0, .none⟩
/-- 21 R755. -/
abbrev LINK_DEGRADED : Fld := ⟨0x400000, [], 0, 1, .w1c, 0, .none⟩
/-- 21 R755. -/
abbrev LINK_DOWN_EV : Fld := ⟨0x400000, [], 1, 1, .w1c, 0, .none⟩
/-- 21 R755. -/
abbrev LINK_UP : Fld := ⟨0x400000, [], 2, 1, .ro, 0, .none⟩
/-- 21 R755. -/
abbrev PF_D3HOT : Fld := ⟨0x400000, [], 3, 1, .ro, 0, .none⟩
/-- 21 R755. -/
abbrev HI_RATE : Fld := ⟨0x400004, [], 0, 4, .ro, 0, .none⟩
/-- 21 R755. -/
abbrev HI_WIDTH : Fld := ⟨0x400004, [], 4, 5, .ro, 0, .none⟩
/-- 21 R755. -/
abbrev HI_CODING : Fld := ⟨0x400004, [], 9, 2, .ro, 0, .none⟩
/-- 21 R755. -/
abbrev HI_IRQ_EN : Fld := ⟨0x400008, [], 0, 2, .rw, 0, .none⟩
/-- 21 R755. -/
abbrev VF_OWNED_LO : Fld := ⟨0x400010, [], 0, 32, .ro, 0, .none⟩
/-- 21 R755. -/
abbrev VF_OWNED_HI : Fld := ⟨0x400014, [], 0, 32, .ro, 0, .none⟩
/-- 05 R183. -/
abbrev SQ_BASE_LO : Fld := ⟨0x800000, [(0x4000, 64), (0x40, 20)], 12, 20, .rw, 0, .none⟩
/-- 05 R183. -/
abbrev SQ_BASE_HI : Fld := ⟨0x800004, [(0x4000, 64), (0x40, 20)], 0, 32, .rw, 0, .none⟩
/-- 05 R183. -/
abbrev CQ_BASE_LO : Fld := ⟨0x800008, [(0x4000, 64), (0x40, 20)], 12, 20, .rw, 0, .none⟩
/-- 05 R183. -/
abbrev CQ_BASE_HI : Fld := ⟨0x80000C, [(0x4000, 64), (0x40, 20)], 0, 32, .rw, 0, .none⟩
/-- 05 R183. -/
abbrev SQ_LOG : Fld := ⟨0x800010, [(0x4000, 64), (0x40, 20)], 0, 4, .rw, 0, (.lt 4)⟩
/-- 05 R183. -/
abbrev CQ_LOG : Fld := ⟨0x800010, [(0x4000, 64), (0x40, 20)], 8, 4, .rw, 0, (.lt 4)⟩
/-- 05 R183. -/
abbrev Q_ENABLE : Fld := ⟨0x800014, [(0x4000, 64), (0x40, 20)], 0, 1, .wo, 0, .none⟩
/-- 05 R183. -/
abbrev Q_DISABLE : Fld := ⟨0x800014, [(0x4000, 64), (0x40, 20)], 1, 1, .wo, 0, .none⟩
/-- 05 R183. -/
abbrev IRQ_EN : Fld := ⟨0x800014, [(0x4000, 64), (0x40, 20)], 2, 1, .rw, 0, .none⟩
/-- 05 R183. -/
abbrev VECTOR : Fld := ⟨0x800014, [(0x4000, 64), (0x40, 20)], 8, 11, .rw, 0, .none⟩
/-- 05 R183. -/
abbrev COAL_COUNT : Fld := ⟨0x800018, [(0x4000, 64), (0x40, 20)], 0, 8, .rw, 1, .none⟩
/-- 05 R183. -/
abbrev COAL_TIME : Fld := ⟨0x800018, [(0x4000, 64), (0x40, 20)], 8, 10, .rw, 0, .none⟩
/-- 05 R183. -/
abbrev Q_STATE : Fld := ⟨0x80001C, [(0x4000, 64), (0x40, 20)], 0, 2, .ro, 0, .none⟩
/-- 05 R183. -/
abbrev DB_ERR : Fld := ⟨0x80001C, [(0x4000, 64), (0x40, 20)], 2, 1, .w1c, 0, .none⟩
/-- 05 R183. -/
abbrev CFG_IGNORED : Fld := ⟨0x80001C, [(0x4000, 64), (0x40, 20)], 3, 1, .w1c, 0, .none⟩
/-- 05 R183. -/
abbrev CFG_ERR : Fld := ⟨0x80001C, [(0x4000, 64), (0x40, 20)], 4, 1, .w1c, 0, .none⟩
/-- 05 R183. -/
abbrev FETCH_ERR : Fld := ⟨0x80001C, [(0x4000, 64), (0x40, 20)], 5, 1, .w1c, 0, .none⟩
/-- 05 R183. -/
abbrev Q_HEAD : Fld := ⟨0x80001C, [(0x4000, 64), (0x40, 20)], 16, 16, .ro, 0, .none⟩
/-- 05 R183. -/
abbrev Q_PROD : Fld := ⟨0x800020, [(0x4000, 64), (0x40, 20)], 0, 16, .ro, 0, .none⟩
/-- 05 R183. -/
abbrev Q_TAIL : Fld := ⟨0x800020, [(0x4000, 64), (0x40, 20)], 16, 16, .ro, 0, .none⟩
/-- 05 R183. -/
abbrev Q_CQ_HEAD : Fld := ⟨0x800024, [(0x4000, 64), (0x40, 20)], 0, 16, .ro, 0, .none⟩
/-- 06 R206. -/
abbrev P_EVENTS : Fld := ⟨0x800600, [(0x4000, 64)], 0, 9, .w1c, 0, .none⟩
/-- 06 R206. -/
abbrev P_EVT_EN : Fld := ⟨0x800604, [(0x4000, 64)], 0, 9, .rw, 0, .none⟩
/-- 06 R206. -/
abbrev VIOL_ADDR_LO : Fld := ⟨0x800700, [(0x4000, 64)], 0, 32, .ro, 0, .none⟩
/-- 06 R206. -/
abbrev VIOL_ADDR_HI : Fld := ⟨0x800704, [(0x4000, 64)], 0, 32, .ro, 0, .none⟩
/-- 06 R206. -/
abbrev VIOL_INFO : Fld := ⟨0x800708, [(0x4000, 64)], 0, 24, .ro, 0, .none⟩
/-- 06 R206. -/
abbrev VIOL_VALID : Fld := ⟨0x80070C, [(0x4000, 64)], 0, 1, .w1c, 0, .none⟩
/-- 06 R206. -/
abbrev VIOL_TICK : Fld := ⟨0x800710, [(0x4000, 64)], 0, 20, .ro, 0, .none⟩
/-- 06 R206. -/
abbrev VIOL_PHASE : Fld := ⟨0x800710, [(0x4000, 64)], 20, 4, .ro, 0, .none⟩
/-- 06 R206. -/
abbrev P_ENABLE : Fld := ⟨0x800800, [(0x4000, 64)], 0, 1, .wo, 0, .none⟩
/-- 06 R206. -/
abbrev P_DISABLE : Fld := ⟨0x800800, [(0x4000, 64)], 1, 1, .wo, 0, .none⟩
/-- 06 R206. -/
abbrev P_SCRUB : Fld := ⟨0x800800, [(0x4000, 64)], 2, 1, .wo, 0, .none⟩
/-- 06 R206. -/
abbrev P_RESHAPE : Fld := ⟨0x800800, [(0x4000, 64)], 3, 1, .wo, 0, .none⟩
/-- 06 R206. -/
abbrev SCRUB_T : Fld := ⟨0x800800, [(0x4000, 64)], 4, 1, .rw, 0, .none⟩
/-- 06 R206. -/
abbrev P_SLOT : Fld := ⟨0x800800, [(0x4000, 64)], 8, 4, .rw, 0, .none⟩
/-- 06 R206. -/
abbrev P_STATE : Fld := ⟨0x800804, [(0x4000, 64)], 0, 2, .ro, 0, .none⟩
/-- 06 R206. -/
abbrev RESHAPE_BUSY : Fld := ⟨0x800804, [(0x4000, 64)], 2, 1, .ro, 0, .none⟩
/-- 06 R206. -/
abbrev P_CAUSE : Fld := ⟨0x800804, [(0x4000, 64)], 4, 3, .ro, 0, .none⟩
/-- 06 R206. -/
abbrev ACTIVE_SLOT : Fld := ⟨0x800804, [(0x4000, 64)], 8, 4, .ro, 0, .none⟩
/-- 06 R206. -/
abbrev P_TARN_COUNT : Fld := ⟨0x800808, [(0x4000, 64)], 0, 9, .ro, 0, .none⟩
/-- 06 R207. -/
abbrev ACT_SUMMIT_MASK : Fld := ⟨0x800900, [(0x4000, 64), (4, 3)], 0, 24, .ro, 0, .none⟩
/-- 06 R207. -/
abbrev ACT_QSLOT : Fld := ⟨0x80090C, [(0x4000, 64)], 0, 15, .ro, 0, .none⟩
/-- 06 R207. -/
abbrev ACT_ZERO_ON_MOVE : Fld := ⟨0x80090C, [(0x4000, 64)], 16, 1, .ro, 0, .none⟩
/-- 06 R207. -/
abbrev ACT_COL_PORTS : Fld := ⟨0x800910, [(0x4000, 64)], 0, 12, .ro, 0, .none⟩
/-- 06 R207. -/
abbrev ACT_COL_CREDIT : Fld := ⟨0x800910, [(0x4000, 64)], 16, 8, .ro, 0, .none⟩
/-- 06 R207. -/
abbrev ACT_ENGINE_SHARE : Fld := ⟨0x800914, [(0x4000, 64), (4, 6)], 0, 24, .ro, 0, .none⟩
/-- 06 R207. -/
abbrev ACT_SCREE_GROUPS : Fld := ⟨0x80092C, [(0x4000, 64), (4, 6)], 0, 32, .ro, 0, .none⟩
/-- 06 R207. -/
abbrev ACT_GRAN_LO : Fld := ⟨0x800944, [(0x4000, 64), (8, 6)], 0, 32, .ro, 0, .none⟩
/-- 06 R207. -/
abbrev ACT_GRAN_HI : Fld := ⟨0x800948, [(0x4000, 64), (8, 6)], 0, 16, .ro, 0, .none⟩
/-- 06 R207. -/
abbrev SL_SUMMIT_MASK : Fld := ⟨0x801000, [(0x4000, 64), (0x80, 16), (4, 3)], 0, 24, .rw, 0, .none⟩
/-- 06 R207. -/
abbrev SL_QSLOT_SUMMIT : Fld := ⟨0x80100C, [(0x4000, 64), (0x80, 16)], 0, 3, .rw, 0, (.ge 5)⟩
/-- 06 R207. -/
abbrev SL_QSLOT_SCREE : Fld := ⟨0x80100C, [(0x4000, 64), (0x80, 16)], 3, 3, .rw, 0, (.ge 5)⟩
/-- 06 R207. -/
abbrev SL_QSLOT_CAIRN : Fld := ⟨0x80100C, [(0x4000, 64), (0x80, 16)], 6, 3, .rw, 0, (.ge 5)⟩
/-- 06 R207. -/
abbrev SL_QSLOT_SADDLE : Fld := ⟨0x80100C, [(0x4000, 64), (0x80, 16)], 9, 3, .rw, 0, (.ge 5)⟩
/-- 06 R207. -/
abbrev SL_QSLOT_COL : Fld := ⟨0x80100C, [(0x4000, 64), (0x80, 16)], 12, 3, .rw, 0, (.ge 5)⟩
/-- 06 R207. -/
abbrev SL_ZERO_ON_MOVE : Fld := ⟨0x80100C, [(0x4000, 64), (0x80, 16)], 16, 1, .rw, 0, .none⟩
/-- 06 R207. -/
abbrev SL_COL_PORTS : Fld := ⟨0x801010, [(0x4000, 64), (0x80, 16)], 0, 12, .rw, 0, .none⟩
/-- 06 R207. -/
abbrev SL_COL_CREDIT : Fld := ⟨0x801010, [(0x4000, 64), (0x80, 16)], 16, 8, .rw, 0, .none⟩
/-- 06 R207. -/
abbrev SL_ENGINE_SHARE : Fld := ⟨0x801014, [(0x4000, 64), (0x80, 16), (4, 6)], 0, 24, .rw, 0, .none⟩
/-- 06 R207. -/
abbrev SL_SCREE_GROUPS : Fld := ⟨0x80102C, [(0x4000, 64), (0x80, 16), (4, 6)], 0, 32, .rw, 0, .none⟩
/-- 06 R207. -/
abbrev SL_GRAN_LO : Fld := ⟨0x801044, [(0x4000, 64), (0x80, 16), (8, 6)], 0, 32, .rw, 0, .none⟩
/-- 06 R207. -/
abbrev SL_GRAN_HI : Fld := ⟨0x801048, [(0x4000, 64), (0x80, 16), (8, 6)], 0, 16, .rw, 0, .none⟩
/-- 07 R246. -/
abbrev FENCE_PEERS_LO : Fld := ⟨0x801800, [(0x4000, 64)], 0, 32, .rw, 0, .none⟩
/-- 07 R246. -/
abbrev FENCE_PEERS_HI : Fld := ⟨0x801804, [(0x4000, 64)], 0, 32, .rw, 0, .none⟩
/-- 07 R246. -/
abbrev FENCE_VAL_LO : Fld := ⟨0x802000, [(0x4000, 64), (8, 256)], 0, 32, .ro, 0, .none⟩
/-- 07 R246. -/
abbrev FENCE_VAL_HI : Fld := ⟨0x802004, [(0x4000, 64), (8, 256)], 0, 32, .ro, 0, .none⟩
/-- 11 Table 11.1. -/
abbrev CT_ROW_COUNT : Fld := ⟨0x802800, [(0x4000, 64), (0x20, 64)], 0, 32, .rw, 0, .none⟩
/-- 11 Table 11.1. -/
abbrev CT_ROW_UNITS : Fld := ⟨0x802804, [(0x4000, 64), (0x20, 64)], 0, 9, .rw, 0, (.ge 257)⟩
/-- 11 Table 11.1. -/
abbrev CT_FMT : Fld := ⟨0x802804, [(0x4000, 64), (0x20, 64)], 12, 4, .rw, 0, (.ge 10)⟩
/-- 11 Table 11.1. -/
abbrev CT_GEOM_GEN : Fld := ⟨0x802804, [(0x4000, 64), (0x20, 64)], 28, 4, .rw, 0, .none⟩
/-- 11 Table 11.1. -/
abbrev CT_PLACE_GEN : Fld := ⟨0x802808, [(0x4000, 64), (0x20, 64)], 0, 4, .rw, 0, .none⟩
/-- 11 Table 11.1. -/
abbrev CT_BASE_LO : Fld := ⟨0x802808, [(0x4000, 64), (0x20, 64)], 6, 26, .rw, 0, .none⟩
/-- 11 Table 11.1. -/
abbrev CT_BASE_HI : Fld := ⟨0x80280C, [(0x4000, 64), (0x20, 64)], 0, 32, .rw, 0, .none⟩
/-- 12 Table 12.8. -/
abbrev HT_BUCKET_LOG : Fld := ⟨0x803000, [(0x4000, 64), (0x20, 16)], 0, 5, .rw, 0, (.vals [1, 2, 3, 4, 5, 6, 7, 29, 30, 31])⟩
/-- 12 Table 12.8. -/
abbrev HT_KEY_WORDS : Fld := ⟨0x803000, [(0x4000, 64), (0x20, 16)], 8, 4, .rw, 0, .none⟩
/-- 12 Table 12.8. -/
abbrev HT_SHAPE_GEN : Fld := ⟨0x803000, [(0x4000, 64), (0x20, 16)], 28, 4, .rw, 0, .none⟩
/-- 12 Table 12.8. -/
abbrev HT_PLACE_GEN : Fld := ⟨0x803008, [(0x4000, 64), (0x20, 16)], 0, 4, .rw, 0, .none⟩
/-- 12 Table 12.8. -/
abbrev HT_BASE_LO : Fld := ⟨0x803008, [(0x4000, 64), (0x20, 16)], 6, 26, .rw, 0, .none⟩
/-- 12 Table 12.8. -/
abbrev HT_BASE_HI : Fld := ⟨0x80300C, [(0x4000, 64), (0x20, 16)], 0, 16, .rw, 0, .none⟩
/-- 12 Table 12.8. -/
abbrev HT_OVF_UNITS : Fld := ⟨0x80300C, [(0x4000, 64), (0x20, 16)], 16, 16, .rw, 0, .none⟩
/-- 12 Table 12.8. -/
abbrev HT_STATE : Fld := ⟨0x803010, [(0x4000, 64), (0x20, 16)], 0, 2, .ro, 0, .none⟩
/-- 12 Table 12.8. -/
abbrev HT_PROBES : Fld := ⟨0x803010, [(0x4000, 64), (0x20, 16)], 8, 8, .ro, 0, .none⟩
/-- 12 Table 12.8. -/
abbrev HT_ROWS : Fld := ⟨0x803014, [(0x4000, 64), (0x20, 16)], 0, 32, .ro, 0, .none⟩
/-- 12 Table 12.8. -/
abbrev HT_KEY_SIG : Fld := ⟨0x803018, [(0x4000, 64), (0x20, 16)], 0, 23, .ro, 0, .none⟩
/-- 15 Table 15.2. -/
abbrev XW_BASE_LO : Fld := ⟨0x803400, [(0x4000, 64)], 26, 6, .sh, 0, .none⟩
/-- 15 Table 15.2. -/
abbrev XW_BASE_HI : Fld := ⟨0x803404, [(0x4000, 64)], 0, 8, .sh, 0, .none⟩
/-- 15 Table 15.2. -/
abbrev XW_SIZE_LO : Fld := ⟨0x803408, [(0x4000, 64)], 26, 6, .sh, 0, .none⟩
/-- 15 Table 15.2. -/
abbrev XW_SIZE_HI : Fld := ⟨0x80340C, [(0x4000, 64)], 0, 8, .sh, 0, .none⟩
/-- 16 R579. -/
abbrev REMOTE_SIG : Fld := ⟨0x803500, [(0x4000, 64), (4, 8)], 0, 32, .rw, 0, .none⟩
/-- 21 R758. -/
abbrev REGION_ALIGN : Fld := ⟨0x1000000, [], 0, 1, .w1c, 0, .none⟩
/-- 21 R758. -/
abbrev MPU_COMMIT : Fld := ⟨0x1000004, [], 0, 1, .wo, 0, .none⟩
/-- 21 R758. -/
abbrev MPU_VIOL_ADDR_LO : Fld := ⟨0x1000010, [], 0, 32, .ro, 0, .none⟩
/-- 21 R758. -/
abbrev MPU_VIOL_ADDR_HI : Fld := ⟨0x1000014, [], 0, 32, .ro, 0, .none⟩
/-- 21 R758. -/
abbrev MPU_VIOL_INFO : Fld := ⟨0x1000018, [], 0, 24, .ro, 0, .none⟩
/-- 21 R758. -/
abbrev MPU_VIOL_VALID : Fld := ⟨0x100001C, [], 0, 1, .w1c, 0, .none⟩
/-- 21 R758. -/
abbrev MPU_VIOL_TICK : Fld := ⟨0x1000020, [], 0, 20, .ro, 0, .none⟩
/-- 21 R758. -/
abbrev MPU_VIOL_PHASE : Fld := ⟨0x1000020, [], 20, 4, .ro, 0, .none⟩
/-- 06 R215. -/
abbrev GR_BASE_LO : Fld := ⟨0x1001000, [(0x20, 16)], 0, 32, .sh, 0, .none⟩
/-- 06 R215. -/
abbrev GR_BASE_HI : Fld := ⟨0x1001004, [(0x20, 16)], 0, 32, .sh, 0, .none⟩
/-- 06 R215. -/
abbrev GR_TOP_LO : Fld := ⟨0x1001008, [(0x20, 16)], 0, 32, .sh, 0, .none⟩
/-- 06 R215. -/
abbrev GR_TOP_HI : Fld := ⟨0x100100C, [(0x20, 16)], 0, 32, .sh, 0, .none⟩
/-- 06 R215. -/
abbrev GR_EN : Fld := ⟨0x1001010, [(0x20, 16)], 0, 1, .sh, 0, .none⟩
/-- 06 R215. -/
abbrev GR_RWX : Fld := ⟨0x1001010, [(0x20, 16)], 1, 9, .sh, 0, .none⟩
/-- 06 R215. -/
abbrev GR_MATCH : Fld := ⟨0x1001014, [(0x20, 16)], 0, 10, .sh, 0, .none⟩
/-- 06 R215. -/
abbrev GR_MASK : Fld := ⟨0x1001014, [(0x20, 16)], 16, 10, .sh, 0, .none⟩
/-- 06 R215. -/
abbrev PR_BASE_LO : Fld := ⟨0x1010000, [(0x800, 64), (0x20, 64)], 0, 32, .sh, 0, .none⟩
/-- 06 R215. -/
abbrev PR_BASE_HI : Fld := ⟨0x1010004, [(0x800, 64), (0x20, 64)], 0, 32, .sh, 0, .none⟩
/-- 06 R215. -/
abbrev PR_TOP_LO : Fld := ⟨0x1010008, [(0x800, 64), (0x20, 64)], 0, 32, .sh, 0, .none⟩
/-- 06 R215. -/
abbrev PR_TOP_HI : Fld := ⟨0x101000C, [(0x800, 64), (0x20, 64)], 0, 32, .sh, 0, .none⟩
/-- 06 R215. -/
abbrev PR_EN : Fld := ⟨0x1010010, [(0x800, 64), (0x20, 64)], 0, 1, .sh, 0, .none⟩
/-- 06 R215. -/
abbrev PR_RWX : Fld := ⟨0x1010010, [(0x800, 64), (0x20, 64)], 1, 9, .sh, 0, .none⟩
/-- 06 R215. -/
abbrev PR_MATCH : Fld := ⟨0x1010014, [(0x800, 64), (0x20, 64)], 0, 10, .sh, 0, .none⟩
/-- 06 R215. -/
abbrev PR_MASK : Fld := ⟨0x1010014, [(0x800, 64), (0x20, 64)], 16, 10, .sh, 0, .none⟩
/-- 15 R550. -/
abbrev TARN_CE : Fld := ⟨0x2000000, [(0x400000, 6)], 0, 1, .w1c, 0, .none⟩
/-- 15 R550. -/
abbrev TARN_UE : Fld := ⟨0x2000000, [(0x400000, 6)], 1, 1, .w1c, 0, .none⟩
/-- 15 R550. -/
abbrev TARN_ADDR_ERR : Fld := ⟨0x2000000, [(0x400000, 6)], 2, 1, .w1c, 0, .none⟩
/-- 15 R550. -/
abbrev TARN_VALID : Fld := ⟨0x2000000, [(0x400000, 6)], 3, 1, .w1c, 0, .none⟩
/-- 15 R550. -/
abbrev TARN_CE_COUNT : Fld := ⟨0x2000004, [(0x400000, 6)], 0, 32, .roc, 0, .none⟩
/-- 15 R550. -/
abbrev TARN_UE_COUNT : Fld := ⟨0x2000008, [(0x400000, 6)], 0, 32, .roc, 0, .none⟩
/-- 15 R550. -/
abbrev TARN_ERR_ADDR_LO : Fld := ⟨0x2000010, [(0x400000, 6)], 0, 32, .ro, 0, .none⟩
/-- 15 R550. -/
abbrev TARN_ERR_ADDR_HI : Fld := ⟨0x2000014, [(0x400000, 6)], 0, 32, .ro, 0, .none⟩
/-- 15 R550. -/
abbrev TARN_ERR_MASTER : Fld := ⟨0x2000018, [(0x400000, 6)], 0, 10, .ro, 0, .none⟩
/-- 15 R550. -/
abbrev PATROL_EN : Fld := ⟨0x2000020, [(0x400000, 6)], 0, 1, .rw, 1, .none⟩
/-- 15 R550. -/
abbrev PATROL_LOG : Fld := ⟨0x2000020, [(0x400000, 6)], 8, 5, .rw, 14, (.rng 10 20)⟩
/-- 15 R550. -/
abbrev PATROL_POS : Fld := ⟨0x2000024, [(0x400000, 6)], 6, 26, .ro, 0, .none⟩
/-- 10 Table 10.13. -/
abbrev SC_BUDGET : Fld := ⟨0x2100000, [(0x400000, 6)], 0, 14, .rw, 8192, (.lt 16)⟩
/-- 10 Table 10.13. -/
abbrev CAL_LOG : Fld := ⟨0x2100004, [(0x400000, 6)], 0, 5, .rw, 24, (.rng 16 28)⟩
/-- 10 Table 10.13. -/
abbrev CAL_PHASES : Fld := ⟨0x2100004, [(0x400000, 6)], 16, 16, .rw, 0xFFFF, .none⟩
/-- 10 Table 10.13. -/
abbrev SC_EXH : Fld := ⟨0x2100008, [(0x400000, 6)], 0, 1, .w1c, 0, .none⟩
/-- 10 Table 10.13. -/
abbrev SC_RETIRED : Fld := ⟨0x2100008, [(0x400000, 6)], 1, 1, .w1c, 0, .none⟩
/-- 10 Table 10.13. -/
abbrev SC_OUT_OF_TRIM : Fld := ⟨0x2100008, [(0x400000, 6)], 2, 1, .w1c, 0, .none⟩
/-- 10 Table 10.13. -/
abbrev SC_CAL_FORCED : Fld := ⟨0x2100008, [(0x400000, 6)], 3, 1, .w1c, 0, .none⟩
/-- 10 Table 10.13. -/
abbrev SC_RESTORE_INVALID : Fld := ⟨0x2100008, [(0x400000, 6)], 4, 1, .w1c, 0, .none⟩
/-- 10 Table 10.13. -/
abbrev SC_RETIRE_COUNT : Fld := ⟨0x210000C, [(0x400000, 6)], 0, 32, .ro, 0, .none⟩
/-- 10 Table 10.13. -/
abbrev SC_EXH_COUNT : Fld := ⟨0x2100010, [(0x400000, 6)], 0, 32, .ro, 0, .none⟩
/-- 15 R550. -/
abbrev XP_PRESENT : Fld := ⟨0x2200000, [(0x400000, 6), (0x1000, 2)], 0, 1, .ro, 0, .none⟩
/-- 15 R550. -/
abbrev XP_LINK_UP : Fld := ⟨0x2200000, [(0x400000, 6), (0x1000, 2)], 1, 1, .ro, 0, .none⟩
/-- 15 R550. -/
abbrev XP_RATE : Fld := ⟨0x2200000, [(0x400000, 6), (0x1000, 2)], 2, 2, .ro, 0, .none⟩
/-- 15 R550. -/
abbrev XP_WIDTH : Fld := ⟨0x2200000, [(0x400000, 6), (0x1000, 2)], 4, 4, .ro, 0, .none⟩
/-- 15 R550. -/
abbrev XP_LOST : Fld := ⟨0x2200000, [(0x400000, 6), (0x1000, 2)], 8, 1, .w1c, 0, .none⟩
/-- 15 R550. -/
abbrev XP_CAP_GIB : Fld := ⟨0x2200004, [(0x400000, 6), (0x1000, 2)], 0, 7, .ro, 0, .none⟩
/-- 15 R550. -/
abbrev XP_POISON_COUNT : Fld := ⟨0x2200008, [(0x400000, 6), (0x1000, 2)], 0, 32, .roc, 0, .none⟩
/-- 15 R550. -/
abbrev XP_HEALTH : Fld := ⟨0x220000C, [(0x400000, 6), (0x1000, 2)], 0, 32, .ro, 0, .none⟩
/-- 17 Table 17.7. -/
abbrev WARDEN_MODE : Fld := ⟨0x3800000, [], 0, 2, .ro, 0, .none⟩
/-- 17 Table 17.7. -/
abbrev FENCED : Fld := ⟨0x3800000, [], 2, 3, .ro, 0, .none⟩
/-- 17 Table 17.7. -/
abbrev WD_PRESENT : Fld := ⟨0x3800000, [], 5, 3, .ro, 7, .none⟩
/-- 17 Table 17.7. -/
abbrev RESYNC_REFUSED : Fld := ⟨0x3800000, [], 8, 1, .w1c, 0, .none⟩
/-- 17 Table 17.7. -/
abbrev SS_RECORD : Fld := ⟨0x3800000, [], 16, 16, .ro, 0, .none⟩
/-- 17 Table 17.7. -/
abbrev RESYNC : Fld := ⟨0x3800004, [], 0, 1, .wo, 0, .none⟩
/-- 17 Table 17.7. -/
abbrev RESET_ARM : Fld := ⟨0x3800004, [], 1, 1, .wo, 0, .none⟩
/-- 17 Table 17.7. -/
abbrev RESET_GO : Fld := ⟨0x3800004, [], 2, 1, .wo, 0, .none⟩
/-- 17 Table 17.7. -/
abbrev FORCE_SAFE_STOP : Fld := ⟨0x3800004, [], 3, 1, .wo, 0, .none⟩
/-- 17 Table 17.7. -/
abbrev WD_NEW_RECORD_EN : Fld := ⟨0x3800008, [], 0, 1, .rw, 0, .none⟩
/-- 17 Table 17.7. -/
abbrev WD_MODE_CHANGE_EN : Fld := ⟨0x3800008, [], 1, 1, .rw, 0, .none⟩
/-- 17 Table 17.7. -/
abbrev FAULT_HEAD : Fld := ⟨0x380000C, [], 0, 16, .ro, 0, .none⟩
/-- 17 Table 17.7. -/
abbrev FAULT_ACK : Fld := ⟨0x3800010, [], 0, 16, .rw, 0, .none⟩
/-- 17 Table 17.7. -/
abbrev CC_DROPPED : Fld := ⟨0x3800014, [], 0, 16, .roc, 0, .none⟩
/-- 17 Table 17.7. -/
abbrev OVERWRITES : Fld := ⟨0x3800014, [], 16, 16, .roc, 0, .none⟩
/-- 17 Table 17.7. -/
abbrev FENCE_HISTORY : Fld := ⟨0x3800018, [], 0, 24, .ro, 0, .none⟩
/-- 17 Table 17.6. -/
abbrev FAULT_LOG : Fld := ⟨0x3801000, [(32, 256), (4, 8)], 0, 32, .ro, 0, .none⟩
/-- 17 Table 17.7. -/
abbrev FAULT_COUNT : Fld := ⟨0x3803000, [(4, 256)], 0, 32, .roc, 0, .none⟩
/-- 18 Table 18.10. -/
abbrev UNIT_STATE : Fld := ⟨0x3A00000, [], 0, 3, .ro, 0, .none⟩
/-- 18 Table 18.10. -/
abbrev SUPPLY_LOW : Fld := ⟨0x3A00000, [], 8, 1, .w1c, 0, .none⟩
/-- 18 Table 18.10. -/
abbrev SUPPLY_BACK : Fld := ⟨0x3A00000, [], 9, 1, .w1c, 0, .none⟩
/-- 18 Table 18.10. -/
abbrev THERM_WARN_EV : Fld := ⟨0x3A00000, [], 10, 1, .w1c, 0, .none⟩
/-- 18 Table 18.10. -/
abbrev THROTTLED : Fld := ⟨0x3A00000, [], 11, 1, .ro, 0, .none⟩
/-- 18 Table 18.10. -/
abbrev CAP_ACTIVE : Fld := ⟨0x3A00000, [], 12, 1, .ro, 0, .none⟩
/-- 18 Table 18.10. -/
abbrev PWR_OVER : Fld := ⟨0x3A00000, [], 13, 1, .w1c, 0, .none⟩
/-- 18 Table 18.10. -/
abbrev DOM_REFUSED : Fld := ⟨0x3A00000, [], 14, 1, .w1c, 0, .none⟩
/-- 18 Table 18.10. -/
abbrev SEC_RESTORE : Fld := ⟨0x3A00000, [], 15, 1, .ro, 0, .none⟩
/-- 18 R645. -/
abbrev PWR_REQ_STATE : Fld := ⟨0x3A00004, [], 0, 3, .wo, 0, .none⟩
/-- 18 R645. -/
abbrev PWR_REQ_DOMAIN : Fld := ⟨0x3A00004, [], 8, 8, .wo, 0, .none⟩
/-- 18 Table 18.10. -/
abbrev PWR_IRQ_EN : Fld := ⟨0x3A00008, [], 8, 8, .rw, 0, .none⟩
/-- 18 Table 18.10. -/
abbrev WAKE_IN_EDGE : Fld := ⟨0x3A0000C, [], 0, 1, .rw, 0, .none⟩
/-- 18 Table 18.10. -/
abbrev WAKE_TARGET : Fld := ⟨0x3A0000C, [], 1, 1, .rw, 0, .none⟩
/-- 18 Table 18.10. -/
abbrev AUX_IN_KEEP : Fld := ⟨0x3A0000C, [], 2, 1, .rw, 1, .none⟩
/-- 18 Table 18.10. -/
abbrev KEY_WAKE : Fld := ⟨0x3A0000C, [], 3, 1, .rw, 0, .none⟩
/-- 18 Table 18.10. -/
abbrev WAKE_SET : Fld := ⟨0x3A0000C, [], 16, 10, .rw, 0x3FF, .none⟩
/-- 18 Table 18.10. -/
abbrev WAKE_HOLD : Fld := ⟨0x3A00010, [], 0, 12, .rw, 0, .none⟩
/-- 18 Table 18.10. -/
abbrev WAKE_LOST_COUNT : Fld := ⟨0x3A00014, [], 0, 16, .roc, 0, .none⟩
/-- 18 Table 18.10. -/
abbrev WAKE_LATE_COUNT : Fld := ⟨0x3A00014, [], 16, 16, .roc, 0, .none⟩
/-- 18 Table 18.10. -/
abbrev DOM_STATE : Fld := ⟨0x3A00020, [(4, 12)], 0, 3, .ro, 0, .none⟩
/-- 18 Table 18.10. -/
abbrev DOM_REQUESTED : Fld := ⟨0x3A00020, [(4, 12)], 4, 3, .ro, 0, .none⟩
/-- 18 Table 18.10. -/
abbrev DOM_PENDING : Fld := ⟨0x3A00020, [(4, 12)], 8, 3, .ro, 7, .none⟩
/-- 18 Table 18.10. -/
abbrev DOM_BUSY : Fld := ⟨0x3A00020, [(4, 12)], 11, 1, .ro, 0, .none⟩
/-- 18 Table 18.10. -/
abbrev DOM_FLOOR : Fld := ⟨0x3A00020, [(4, 12)], 12, 3, .ro, 0, .none⟩
/-- 18 Table 18.10. -/
abbrev VIN_NOW : Fld := ⟨0x3A00060, [], 0, 32, .ro, 0, .none⟩
/-- 18 Table 18.10. -/
abbrev VIN_LOSS_MV : Fld := ⟨0x3A00064, [], 0, 32, .rw, 38000, .none⟩
/-- 18 Table 18.10. -/
abbrev VIN_OK_MV : Fld := ⟨0x3A00068, [], 0, 32, .rw, 42000, .none⟩
/-- 18 Table 18.10. -/
abbrev SUPPLY_GRACE : Fld := ⟨0x3A0006C, [], 0, 14, .rw, 2000, (.rng 0 10000)⟩
/-- 18 Table 18.10. -/
abbrev PWR_NOW_W : Fld := ⟨0x3A00070, [], 0, 16, .ro, 0, .none⟩
/-- 18 Table 18.10. -/
abbrev PWR_CAP_W : Fld := ⟨0x3A00074, [], 0, 16, .rw, 0, .none⟩
/-- 18 Table 18.10. -/
abbrev PWR_REPORT_DST : Fld := ⟨0x3A00078, [], 0, 7, .rw, 0, .none⟩
/-- 18 Table 18.10. -/
abbrev PWR_REPORT_MS : Fld := ⟨0x3A00078, [], 16, 16, .rw, 0, .none⟩
/-- 18 Table 18.10. -/
abbrev THERM_WARN : Fld := ⟨0x3A00080, [], 0, 8, .rw, 95, (.rng 60 105)⟩
/-- 18 Table 18.10. -/
abbrev THERM_THROTTLE : Fld := ⟨0x3A00084, [], 0, 8, .rw, 100, (.rng 60 105)⟩
/-- 18 Table 18.10. -/
abbrev TEMP : Fld := ⟨0x3A00090, [(4, 8)], 0, 8, .ro, 0, .none⟩
/-- 18 Table 18.10. -/
abbrev RES_CLEAR : Fld := ⟨0x3A000F0, [], 0, 1, .wo, 0, .none⟩
/-- 18 Table 18.11. -/
abbrev RAIL_TARGET : Fld := ⟨0x3A01000, [(0x40, 14)], 0, 16, .ro, 0, .none⟩
/-- 18 Table 18.11. -/
abbrev RAIL_NOW : Fld := ⟨0x3A01004, [(0x40, 14)], 0, 16, .ro, 0, .none⟩
/-- 18 Table 18.11. -/
abbrev RAIL_IN_FLIGHT : Fld := ⟨0x3A01008, [(0x40, 14)], 0, 1, .ro, 0, .none⟩
/-- 18 Table 18.11. -/
abbrev RAIL_PENDING_VALID : Fld := ⟨0x3A01008, [(0x40, 14)], 1, 1, .ro, 0, .none⟩
/-- 18 Table 18.11. -/
abbrev RAIL_ENABLED : Fld := ⟨0x3A01008, [(0x40, 14)], 2, 1, .ro, 0, .none⟩
/-- 18 Table 18.11. -/
abbrev RAIL_PENDING : Fld := ⟨0x3A01008, [(0x40, 14)], 16, 16, .ro, 0, .none⟩
/-- 18 Table 18.11. -/
abbrev RAIL_ACK_TIMEOUT : Fld := ⟨0x3A0100C, [(0x40, 14)], 0, 20, .rw, 100, .none⟩
/-- 18 Table 18.11. -/
abbrev RAIL_REPLACED : Fld := ⟨0x3A01010, [(0x40, 14)], 0, 16, .roc, 0, .none⟩
/-- 18 Table 18.11. -/
abbrev RAIL_EMERG : Fld := ⟨0x3A01010, [(0x40, 14)], 16, 16, .roc, 0, .none⟩
/-- 18 Table 18.11. -/
abbrev RAIL_ADDR : Fld := ⟨0x3A01014, [(0x40, 14)], 0, 7, .rw, 0, .none⟩
/-- 18 Table 18.11. -/
abbrev RAIL_SELECT : Fld := ⟨0x3A01014, [(0x40, 14)], 8, 4, .rw, 0, .none⟩
/-- 18 Table 18.10. -/
abbrev RES_CYC_LO : Fld := ⟨0x3A04000, [(0x100, 13), (0x20, 5)], 0, 32, .ro, 0, .none⟩
/-- 18 Table 18.10. -/
abbrev RES_CYC_HI : Fld := ⟨0x3A04004, [(0x100, 13), (0x20, 5)], 0, 32, .ro, 0, .none⟩
/-- 18 Table 18.10. -/
abbrev RES_TICK_LO : Fld := ⟨0x3A04008, [(0x100, 13), (0x20, 5)], 0, 32, .ro, 0, .none⟩
/-- 18 Table 18.10. -/
abbrev RES_TICK_HI : Fld := ⟨0x3A0400C, [(0x100, 13), (0x20, 5)], 0, 32, .ro, 0, .none⟩
/-- 19 Table 19.8. -/
abbrev KEY_ACT_EN : Fld := ⟨0x3C00000, [], 0, 4, .rw, 0xF, .none⟩
/-- 19 Table 19.8. -/
abbrev IDENT_ON : Fld := ⟨0x3C00000, [], 4, 1, .rw, 0, .none⟩
/-- 19 Table 19.8. -/
abbrev AUTO_GRANT : Fld := ⟨0x3C00000, [], 5, 1, .rw, 0, .none⟩
/-- 19 Table 19.8. -/
abbrev DISPLAY_EN : Fld := ⟨0x3C00000, [], 6, 1, .rw, 1, .none⟩
/-- 19 Table 19.8. -/
abbrev REBASE : Fld := ⟨0x3C00000, [], 8, 1, .wo, 0, .none⟩
/-- 19 Table 19.8. -/
abbrev KEY_ACTIVE : Fld := ⟨0x3C00004, [], 0, 4, .ro, 0, .none⟩
/-- 19 Table 19.8. -/
abbrev KEY_FAULT : Fld := ⟨0x3C00004, [], 4, 4, .ro, 0, .none⟩
/-- 19 Table 19.8. -/
abbrev MULTI_TOUCH : Fld := ⟨0x3C00004, [], 8, 1, .w1c, 0, .none⟩
/-- 19 Table 19.8. -/
abbrev GESTURE_EV : Fld := ⟨0x3C00004, [], 9, 1, .w1c, 0, .none⟩
/-- 19 Table 19.8. -/
abbrev DRAIN_EV : Fld := ⟨0x3C00004, [], 10, 1, .w1c, 0, .none⟩
/-- 19 Table 19.8. -/
abbrev DRAIN_SEEN_EV : Fld := ⟨0x3C00004, [], 11, 1, .w1c, 0, .none⟩
/-- 19 Table 19.8. -/
abbrev DISPLAY_ERR : Fld := ⟨0x3C00004, [], 12, 1, .w1c, 0, .none⟩
/-- 19 Table 19.8. -/
abbrev PAGE : Fld := ⟨0x3C00004, [], 13, 3, .ro, 0, .none⟩
/-- 19 Table 19.8. -/
abbrev PANEL_IRQ_EN : Fld := ⟨0x3C00008, [], 8, 5, .rw, 0, .none⟩
/-- 19 Table 19.8. -/
abbrev LG_KEY : Fld := ⟨0x3C0000C, [], 0, 2, .ro, 0, .none⟩
/-- 19 Table 19.8. -/
abbrev LG_GESTURE : Fld := ⟨0x3C0000C, [], 4, 4, .ro, 0, .none⟩
/-- 19 Table 19.8. -/
abbrev LG_TICK : Fld := ⟨0x3C0000C, [], 8, 20, .ro, 0, .none⟩
/-- 19 Table 19.8. -/
abbrev KEY_COUNT : Fld := ⟨0x3C00010, [(4, 4)], 0, 12, .ro, 0, .none⟩
/-- 19 Table 19.8. -/
abbrev KEY_BASELINE : Fld := ⟨0x3C00010, [(4, 4)], 16, 12, .ro, 0, .none⟩
/-- 19 Table 19.8. -/
abbrev TOUCH_THRESH : Fld := ⟨0x3C00020, [], 0, 8, .rw, 60, .none⟩
/-- 19 Table 19.8. -/
abbrev RELEASE_THRESH : Fld := ⟨0x3C00020, [], 8, 8, .rw, 30, .none⟩
/-- 19 Table 19.8. -/
abbrev NEG_THRESH : Fld := ⟨0x3C00020, [], 16, 8, .rw, 40, .none⟩
/-- 19 Table 19.8. -/
abbrev DRIFT_BAND : Fld := ⟨0x3C00020, [], 24, 8, .rw, 20, .none⟩
/-- 19 Table 19.8. -/
abbrev REBASE_COUNT : Fld := ⟨0x3C00024, [], 0, 16, .roc, 0, .none⟩
/-- 19 Table 19.8. -/
abbrev FORCED_COUNT : Fld := ⟨0x3C00024, [], 16, 16, .roc, 0, .none⟩
/-- 19 Table 19.8. -/
abbrev DRAIN_REQ : Fld := ⟨0x3C00040, [], 0, 1, .wo, 0, .none⟩
/-- 19 Table 19.8. -/
abbrev DRAIN_WITHDRAW : Fld := ⟨0x3C00040, [], 1, 1, .wo, 0, .none⟩
/-- 19 Table 19.8. -/
abbrev DRAIN_GRANT : Fld := ⟨0x3C00040, [], 2, 1, .wo, 0, .none⟩
/-- 19 Table 19.8. -/
abbrev DRAIN_STATE : Fld := ⟨0x3C00044, [], 0, 3, .ro, 0, .none⟩
/-- 19 Table 19.8. -/
abbrev CHAIN_WHOLE : Fld := ⟨0x3C00044, [], 3, 1, .ro, 0, .none⟩
/-- 19 Table 19.8. -/
abbrev GRANTED : Fld := ⟨0x3C00044, [], 4, 1, .ro, 0, .none⟩
/-- 19 Table 19.8. -/
abbrev IS_MASTER : Fld := ⟨0x3C00044, [], 5, 1, .ro, 0, .none⟩
/-- 19 Table 19.8. -/
abbrev IS_RELAY : Fld := ⟨0x3C00044, [], 6, 1, .ro, 0, .none⟩
/-- 19 Table 19.8. -/
abbrev LAMP : Fld := ⟨0x3C00044, [], 8, 2, .ro, 0, .none⟩
/-- 19 Table 19.8. -/
abbrev OPEN_BREAK : Fld := ⟨0x3C00050, [(4, 4)], 0, 32, .ro, 0, .none⟩
/-- 19 Table 19.8. -/
abbrev DRAIN_SEEN : Fld := ⟨0x3C00060, [(4, 4)], 0, 32, .ro, 0, .none⟩
/-- 19 Table 19.8. -/
abbrev DISP_ADDR : Fld := ⟨0x3C00080, [], 0, 7, .rw, 0x3C, .none⟩
/-- 19 Table 19.8. -/
abbrev PANEL_TEXT : Fld := ⟨0x3C00100, [(4, 10)], 0, 32, .rw, 0, .none⟩
/-- 18 R677. -/
abbrev AUX_EN : Fld := ⟨0x3C01000, [], 0, 1, .rw, 1, .none⟩
/-- 18 R677. -/
abbrev AUX_CLEAR : Fld := ⟨0x3C01000, [], 1, 1, .wo, 0, .none⟩
/-- 18 R677. -/
abbrev AUX_ON : Fld := ⟨0x3C01004, [], 0, 1, .ro, 0, .none⟩
/-- 18 R677. -/
abbrev AUX_LATCHED : Fld := ⟨0x3C01004, [], 1, 1, .ro, 0, .none⟩
/-- 18 R677. -/
abbrev AUX_ATTEMPTS : Fld := ⟨0x3C01004, [], 2, 2, .ro, 0, .none⟩
/-- 18 R677. -/
abbrev PANEL_PRESENT : Fld := ⟨0x3C01004, [], 4, 1, .ro, 0, .none⟩
/-- 15 R550. -/
abbrev SRAM_CE : Fld := ⟨0x3E00000, [(0x100000, 2)], 0, 1, .w1c, 0, .none⟩
/-- 15 R550. -/
abbrev SRAM_UE : Fld := ⟨0x3E00000, [(0x100000, 2)], 1, 1, .w1c, 0, .none⟩
/-- 15 R550. -/
abbrev SRAM_ADDR_ERR : Fld := ⟨0x3E00000, [(0x100000, 2)], 2, 1, .w1c, 0, .none⟩
/-- 15 R550. -/
abbrev SRAM_VALID : Fld := ⟨0x3E00000, [(0x100000, 2)], 3, 1, .w1c, 0, .none⟩
/-- 15 R550. -/
abbrev SRAM_CE_COUNT : Fld := ⟨0x3E00004, [(0x100000, 2)], 0, 32, .roc, 0, .none⟩
/-- 15 R550. -/
abbrev SRAM_UE_COUNT : Fld := ⟨0x3E00008, [(0x100000, 2)], 0, 32, .roc, 0, .none⟩
/-- 15 R550. -/
abbrev SRAM_ERR_ADDR_LO : Fld := ⟨0x3E00010, [(0x100000, 2)], 0, 32, .ro, 0, .none⟩
/-- 15 R550. -/
abbrev SRAM_ERR_ADDR_HI : Fld := ⟨0x3E00014, [(0x100000, 2)], 0, 32, .ro, 0, .none⟩
/-- 15 R550. -/
abbrev SRAM_ERR_MASTER : Fld := ⟨0x3E00018, [(0x100000, 2)], 0, 10, .ro, 0, .none⟩
/-- 15 R550. -/
abbrev SRAM_PATROL_EN : Fld := ⟨0x3E00020, [(0x100000, 2)], 0, 1, .rw, 1, .none⟩
/-- 15 R550. -/
abbrev SRAM_PATROL_LOG : Fld := ⟨0x3E00020, [(0x100000, 2)], 8, 5, .rw, 14, (.rng 10 20)⟩
/-- 15 R550. -/
abbrev SRAM_PATROL_POS : Fld := ⟨0x3E00024, [(0x100000, 2)], 6, 26, .ro, 0, .none⟩
/-- 21 R760. -/
abbrev PORT_ENABLE : Fld := ⟨0x3E01000, [(0x100000, 2), (0x400, 6)], 0, 1, .rw, 0, .none⟩
/-- 21 R760. -/
abbrev PORT_MODE : Fld := ⟨0x3E01000, [(0x100000, 2), (0x400, 6)], 1, 2, .rw, 0, (.ge 2)⟩
/-- 21 R760. -/
abbrev PORT_MEDIUM : Fld := ⟨0x3E01000, [(0x100000, 2), (0x400, 6)], 3, 1, .rw, 0, .none⟩
/-- 21 R760. -/
abbrev PORT_DIM : Fld := ⟨0x3E01000, [(0x100000, 2), (0x400, 6)], 4, 3, .rw, 7, .none⟩
/-- 21 R760. -/
abbrev PORT_STATE : Fld := ⟨0x3E01004, [(0x100000, 2), (0x400, 6)], 0, 2, .ro, 0, .none⟩
/-- 21 R760. -/
abbrev PORT_LOCKED : Fld := ⟨0x3E01004, [(0x100000, 2), (0x400, 6)], 2, 4, .ro, 0, .none⟩
/-- 21 R760. -/
abbrev MODE_MISMATCH : Fld := ⟨0x3E01004, [(0x100000, 2), (0x400, 6)], 8, 1, .w1c, 0, .none⟩
/-- 16 Table 16.13. -/
abbrev WEIGHT_1 : Fld := ⟨0x3E01008, [(0x100000, 2), (0x400, 6)], 0, 8, .rw, 4, .none⟩
/-- 16 Table 16.13. -/
abbrev WEIGHT_2 : Fld := ⟨0x3E01008, [(0x100000, 2), (0x400, 6)], 8, 8, .rw, 4, .none⟩
/-- 16 Table 16.13. -/
abbrev WEIGHT_3 : Fld := ⟨0x3E01008, [(0x100000, 2), (0x400, 6)], 16, 8, .rw, 1, .none⟩
/-- 21 R760. -/
abbrev PORT_DELAY : Fld := ⟨0x3E0100C, [(0x100000, 2), (0x400, 6)], 0, 16, .ro, 0, .none⟩
/-- 21 R760. -/
abbrev PARTNER_IDENTITY : Fld := ⟨0x3E01010, [(0x100000, 2), (0x400, 6)], 0, 15, .ro, 0, .none⟩
/-- 21 R760. -/
abbrev PARTNER_PORT : Fld := ⟨0x3E01010, [(0x100000, 2), (0x400, 6)], 16, 4, .ro, 0, .none⟩
/-- 21 R760. -/
abbrev PARTNER_VALID : Fld := ⟨0x3E01010, [(0x100000, 2), (0x400, 6)], 31, 1, .ro, 0, .none⟩
/-- 21 R760. -/
abbrev FEC_CE_COUNT : Fld := ⟨0x3E01014, [(0x100000, 2), (0x400, 6)], 0, 32, .roc, 0, .none⟩
/-- 21 R760. -/
abbrev FEC_UE_COUNT : Fld := ⟨0x3E01018, [(0x100000, 2), (0x400, 6)], 0, 32, .roc, 0, .none⟩
/-- 21 R760. -/
abbrev REPLAY_COUNT : Fld := ⟨0x3E0101C, [(0x100000, 2), (0x400, 6)], 0, 32, .roc, 0, .none⟩
/-- 21 R760. -/
abbrev FAB_PORT_UP : Fld := ⟨0x3E10000, [], 0, 1, .w1c, 0, .none⟩
/-- 21 R760. -/
abbrev FAB_PORT_DOWN : Fld := ⟨0x3E10000, [], 1, 1, .w1c, 0, .none⟩
/-- 21 R760. -/
abbrev PARTNER_LOST : Fld := ⟨0x3E10000, [], 2, 1, .w1c, 0, .none⟩
/-- 21 R760. -/
abbrev ENCAP_PEER_LOST : Fld := ⟨0x3E10000, [], 3, 1, .w1c, 0, .none⟩
/-- 21 R760. -/
abbrev FAB_IRQ_EN : Fld := ⟨0x3E10004, [], 0, 4, .rw, 0, .none⟩
/-- 16 Table 16.13. -/
abbrev ACK_TIMEOUT : Fld := ⟨0x3E10008, [], 0, 32, .rw, 1000, (.rng 10 1000000)⟩
/-- 16 Table 16.13. -/
abbrev FAB_FORMAT_COUNT : Fld := ⟨0x3E10010, [], 0, 32, .roc, 0, .none⟩
/-- 16 Table 16.13. -/
abbrev NO_ROUTE_COUNT : Fld := ⟨0x3E10014, [], 0, 32, .roc, 0, .none⟩
/-- 16 Table 16.13. -/
abbrev ENCAP_DROP_COUNT : Fld := ⟨0x3E10018, [], 0, 32, .roc, 0, .none⟩
/-- 16 Table 16.13. -/
abbrev MISROUTE_COUNT : Fld := ⟨0x3E1001C, [], 0, 32, .roc, 0, .none⟩
/-- 16 R570. -/
abbrev LR_PORT_MASK : Fld := ⟨0x3E20000, [(8, 128)], 0, 12, .rw, 0, .none⟩
/-- 16 R570. -/
abbrev LR_VC : Fld := ⟨0x3E20000, [(8, 128)], 12, 1, .rw, 0, .none⟩
/-- 16 R570. -/
abbrev LR_A_GEN : Fld := ⟨0x3E20000, [(8, 128)], 28, 4, .rw, 0, .none⟩
/-- 16 R570. -/
abbrev LR_DIM : Fld := ⟨0x3E20004, [(8, 128)], 0, 3, .rw, 7, (.vals [6])⟩
/-- 16 R570. -/
abbrev LR_CROSS : Fld := ⟨0x3E20004, [(8, 128)], 3, 1, .rw, 0, .none⟩
/-- 16 R570. -/
abbrev LR_B_GEN : Fld := ⟨0x3E20004, [(8, 128)], 28, 4, .rw, 0, .none⟩
/-- 16 R570. -/
abbrev CR_PORT_MASK : Fld := ⟨0x3E20400, [(8, 256)], 0, 12, .rw, 0, .none⟩
/-- 16 R570. -/
abbrev CR_VC : Fld := ⟨0x3E20400, [(8, 256)], 12, 1, .rw, 0, .none⟩
/-- 16 R570. -/
abbrev CR_A_GEN : Fld := ⟨0x3E20400, [(8, 256)], 28, 4, .rw, 0, .none⟩
/-- 16 R570. -/
abbrev CR_DIM : Fld := ⟨0x3E20404, [(8, 256)], 0, 3, .rw, 7, (.vals [6])⟩
/-- 16 R570. -/
abbrev CR_CROSS : Fld := ⟨0x3E20404, [(8, 256)], 3, 1, .rw, 0, .none⟩
/-- 16 R570. -/
abbrev CR_B_GEN : Fld := ⟨0x3E20404, [(8, 256)], 28, 4, .rw, 0, .none⟩
/-- 21 R760. -/
abbrev RELAY_PEER_ID : Fld := ⟨0x3E30000, [(4, 64)], 0, 15, .rw, 0, .none⟩
/-- 21 R760. -/
abbrev RELAY_PEER_VALID : Fld := ⟨0x3E30000, [(4, 64)], 31, 1, .rw, 0, .none⟩
/-- 21 R761. -/
abbrev ENCAP_MAC_LO : Fld := ⟨0x3E40000, [], 0, 32, .rw, 0, .none⟩
/-- 21 R761. -/
abbrev ENCAP_MAC_HI : Fld := ⟨0x3E40004, [], 0, 16, .rw, 0, .none⟩
/-- 21 R761. -/
abbrev ENCAP_IP : Fld := ⟨0x3E40010, [(4, 4)], 0, 32, .rw, 0, .none⟩
/-- 21 R761. -/
abbrev ENCAP_UDP_PORT : Fld := ⟨0x3E40020, [], 0, 16, .rw, 0xB9C8, .none⟩
/-- 21 R761. -/
abbrev ENCAP_MTU : Fld := ⟨0x3E40024, [], 0, 14, .rw, 1500, (.rng 1280 9216)⟩
/-- 21 R761. -/
abbrev ENCAP_DSCP_0 : Fld := ⟨0x3E40028, [], 0, 6, .rw, 0, .none⟩
/-- 21 R761. -/
abbrev ENCAP_DSCP_1 : Fld := ⟨0x3E40028, [], 8, 6, .rw, 0, .none⟩
/-- 21 R761. -/
abbrev ENCAP_DSCP_2 : Fld := ⟨0x3E40028, [], 16, 6, .rw, 0, .none⟩
/-- 21 R761. -/
abbrev ENCAP_DSCP_3 : Fld := ⟨0x3E40028, [], 24, 6, .rw, 0, .none⟩
/-- 21 R761. -/
abbrev ENCAP_VID : Fld := ⟨0x3E4002C, [], 0, 12, .rw, 0, .none⟩
/-- 21 R761. -/
abbrev ENCAP_PCP : Fld := ⟨0x3E4002C, [], 12, 3, .rw, 0, .none⟩
/-- 21 R761. -/
abbrev ENCAP_VLAN_EN : Fld := ⟨0x3E4002C, [], 15, 1, .rw, 0, .none⟩
/-- 21 R761. -/
abbrev ENCAP_RTO : Fld := ⟨0x3E40030, [], 0, 14, .rw, 100, (.rng 10 10000)⟩
/-- 21 R761. -/
abbrev ENCAP_WINDOW : Fld := ⟨0x3E40034, [], 0, 13, .rw, 256, (.rng 4 4096)⟩
/-- 21 R761. -/
abbrev EP_IDENTITY : Fld := ⟨0x3E50000, [(0x20, 1024)], 0, 15, .rw, 0, .none⟩
/-- 21 R761. -/
abbrev EP_VALID : Fld := ⟨0x3E50000, [(0x20, 1024)], 31, 1, .rw, 0, .none⟩
/-- 21 R761. -/
abbrev EP_IP : Fld := ⟨0x3E50004, [(0x20, 1024), (4, 4)], 0, 32, .rw, 0, .none⟩
/-- 21 R761. -/
abbrev EP_MAC_LO : Fld := ⟨0x3E50014, [(0x20, 1024)], 0, 32, .rw, 0, .none⟩
/-- 21 R761. -/
abbrev EP_MAC_HI : Fld := ⟨0x3E50018, [(0x20, 1024)], 0, 16, .rw, 0, .none⟩
end F

/-- Part 0 of the field list. -/
def fields0 : List Fld :=
  [F.PART_NO, F.DIE_COUNT, F.FAMILY, F.STEPPING, F.SERIAL_LO,
   F.SERIAL_HI, F.WIDTH_ERR, F.RSVD_WRITE, F.DIE_ACCESS, F.EXT_MODE,
   F.EXT_IG, F.EXT_APPLY, F.EXT_BUSY, F.EXT_DONE, F.EXT_CFG_ERR,
   F.EXT_MODE_NOW, F.EXT_SIZE_GIB, F.BOOT_STAGE, F.BOOT_ERR, F.BACKUP_USED,
   F.HOST_LOADED, F.SHUTDOWN_REFUSED, F.DIE_PRESENT, F.DIE_LOST, F.DIE_FUSED_OFF,
   F.DIE_TEST_FAIL, F.STRAP_HEAD, F.STRAP_CHAIN_ID, F.STRAP_BOOT, F.BOOT_LOAD,
   F.SHUTDOWN_ARM, F.SHUTDOWN_GO, F.SHUTDOWN_ABORT, F.BOOT_IMG_ADDR_LO, F.BOOT_IMG_ADDR_HI,
   F.BOOT_IMG_LEN, F.RUN, F.RESIGN, F.CLEAR_LOST, F.CAD_ROLE_NOW,
   F.RELAYING, F.LOCKED, F.CAD_LOST, F.CARD_LOST, F.STEP_END,
   F.FREE_RUN, F.VOTE_MISSING, F.HANDOVER_FAIL, F.LOST_EV, F.RELOCK_EV]

/-- Part 1 of the field list. -/
def fields1 : List Fld :=
  [F.EPOCH_EV, F.ALARM_EV, F.NO_MASTER, F.CANDIDATE, F.PRIORITY,
   F.CARD, F.RELAY, F.RELAY_PORT, F.TICK_PERIOD, F.CAD_LEAD,
   F.ADV_NOTICE, F.PHASE_LAST, F.CAD_COMMIT, F.POS_STEP_LO, F.POS_STEP_HI,
   F.POS_TICK, F.POS_PHASE, F.POS_END, F.CYCLE_LO, F.CYCLE_HI,
   F.TICK_STAMP_LO, F.TICK_STAMP_HI, F.DELAY_NOW, F.DELAY_MAX, F.TICK_LATE_COUNT,
   F.EPOCH, F.CAD_PART_LO, F.CAD_PART_HI, F.VOTE_LO, F.VOTE_HI,
   F.START_STEP_LO, F.START_STEP_HI, F.CAD_SUCCESSOR, F.VOTE_STALE_COUNT, F.CAD_IRQ_EN,
   F.DEADLINE, F.ALARM_EVENT, F.AL_STEP_LO, F.AL_STEP_HI, F.AL_TICK,
   F.AL_PHASE, F.AL_KIND, F.AL_REPEAT, F.AL_ACTION, F.AL_OWNER,
   F.AL_DEV_OWNED, F.AL_NOTIFY, F.AL_ARG, F.AL_ARM, F.AL_DISARM]

/-- Part 2 of the field list. -/
def fields2 : List Fld :=
  [F.AL_STATE, F.AL_LAST, F.AL_FIRED, F.CHAIN_HEAD, F.ENUM_START,
   F.CHAIN_MODE, F.U_STATE, F.D_STATE, F.ENUM_FAIL, F.HEAD_CONFLICT,
   F.ADDR_CHANGED, F.BREAK_EV, F.UNWRAP_EV, F.DUP_ADDR, F.CHAIN_FULL,
   F.MISWIRE_U, F.MISWIRE_D, F.CHAIN_ADDR, F.CHAIN_ADDR_ID, F.CHAIN_GEN,
   F.PREF_ADDR, F.PREF_EN, F.CHAIN_ID, F.CHAIN_COUNT, F.NBR_ADDR,
   F.NBR_CHAIN_ID, F.NBR_PORT, F.NBR_VALID, F.CHAIN_MAP, F.CHAIN_TIMEOUT,
   F.CHAIN_EVT_DST, F.CHAIN_IRQ_EN, F.CRC_ERR_COUNT, F.FORMAT_ERR_COUNT, F.ORPHAN_COUNT,
   F.BID_FILTER_COUNT, F.BREAK_COUNT, F.MB_DST, F.MB_OFFSET, F.MB_COUNT,
   F.MB_WAKE, F.MB_WRITE, F.MB_GO, F.MB_STATE, F.MB_STATUS,
   F.MB_DATA, F.LINK_DEGRADED, F.LINK_DOWN_EV, F.LINK_UP, F.PF_D3HOT]

/-- Part 3 of the field list. -/
def fields3 : List Fld :=
  [F.HI_RATE, F.HI_WIDTH, F.HI_CODING, F.HI_IRQ_EN, F.VF_OWNED_LO,
   F.VF_OWNED_HI, F.SQ_BASE_LO, F.SQ_BASE_HI, F.CQ_BASE_LO, F.CQ_BASE_HI,
   F.SQ_LOG, F.CQ_LOG, F.Q_ENABLE, F.Q_DISABLE, F.IRQ_EN,
   F.VECTOR, F.COAL_COUNT, F.COAL_TIME, F.Q_STATE, F.DB_ERR,
   F.CFG_IGNORED, F.CFG_ERR, F.FETCH_ERR, F.Q_HEAD, F.Q_PROD,
   F.Q_TAIL, F.Q_CQ_HEAD, F.P_EVENTS, F.P_EVT_EN, F.VIOL_ADDR_LO,
   F.VIOL_ADDR_HI, F.VIOL_INFO, F.VIOL_VALID, F.VIOL_TICK, F.VIOL_PHASE,
   F.P_ENABLE, F.P_DISABLE, F.P_SCRUB, F.P_RESHAPE, F.SCRUB_T,
   F.P_SLOT, F.P_STATE, F.RESHAPE_BUSY, F.P_CAUSE, F.ACTIVE_SLOT,
   F.P_TARN_COUNT, F.ACT_SUMMIT_MASK, F.ACT_QSLOT, F.ACT_ZERO_ON_MOVE, F.ACT_COL_PORTS]

/-- Part 4 of the field list. -/
def fields4 : List Fld :=
  [F.ACT_COL_CREDIT, F.ACT_ENGINE_SHARE, F.ACT_SCREE_GROUPS, F.ACT_GRAN_LO, F.ACT_GRAN_HI,
   F.SL_SUMMIT_MASK, F.SL_QSLOT_SUMMIT, F.SL_QSLOT_SCREE, F.SL_QSLOT_CAIRN, F.SL_QSLOT_SADDLE,
   F.SL_QSLOT_COL, F.SL_ZERO_ON_MOVE, F.SL_COL_PORTS, F.SL_COL_CREDIT, F.SL_ENGINE_SHARE,
   F.SL_SCREE_GROUPS, F.SL_GRAN_LO, F.SL_GRAN_HI, F.FENCE_PEERS_LO, F.FENCE_PEERS_HI,
   F.FENCE_VAL_LO, F.FENCE_VAL_HI, F.CT_ROW_COUNT, F.CT_ROW_UNITS, F.CT_FMT,
   F.CT_GEOM_GEN, F.CT_PLACE_GEN, F.CT_BASE_LO, F.CT_BASE_HI, F.HT_BUCKET_LOG,
   F.HT_KEY_WORDS, F.HT_SHAPE_GEN, F.HT_PLACE_GEN, F.HT_BASE_LO, F.HT_BASE_HI,
   F.HT_OVF_UNITS, F.HT_STATE, F.HT_PROBES, F.HT_ROWS, F.HT_KEY_SIG,
   F.XW_BASE_LO, F.XW_BASE_HI, F.XW_SIZE_LO, F.XW_SIZE_HI, F.REMOTE_SIG,
   F.REGION_ALIGN, F.MPU_COMMIT, F.MPU_VIOL_ADDR_LO, F.MPU_VIOL_ADDR_HI, F.MPU_VIOL_INFO]

/-- Part 5 of the field list. -/
def fields5 : List Fld :=
  [F.MPU_VIOL_VALID, F.MPU_VIOL_TICK, F.MPU_VIOL_PHASE, F.GR_BASE_LO, F.GR_BASE_HI,
   F.GR_TOP_LO, F.GR_TOP_HI, F.GR_EN, F.GR_RWX, F.GR_MATCH,
   F.GR_MASK, F.PR_BASE_LO, F.PR_BASE_HI, F.PR_TOP_LO, F.PR_TOP_HI,
   F.PR_EN, F.PR_RWX, F.PR_MATCH, F.PR_MASK, F.TARN_CE,
   F.TARN_UE, F.TARN_ADDR_ERR, F.TARN_VALID, F.TARN_CE_COUNT, F.TARN_UE_COUNT,
   F.TARN_ERR_ADDR_LO, F.TARN_ERR_ADDR_HI, F.TARN_ERR_MASTER, F.PATROL_EN, F.PATROL_LOG,
   F.PATROL_POS, F.SC_BUDGET, F.CAL_LOG, F.CAL_PHASES, F.SC_EXH,
   F.SC_RETIRED, F.SC_OUT_OF_TRIM, F.SC_CAL_FORCED, F.SC_RESTORE_INVALID, F.SC_RETIRE_COUNT,
   F.SC_EXH_COUNT, F.XP_PRESENT, F.XP_LINK_UP, F.XP_RATE, F.XP_WIDTH,
   F.XP_LOST, F.XP_CAP_GIB, F.XP_POISON_COUNT, F.XP_HEALTH, F.WARDEN_MODE]

/-- Part 6 of the field list. -/
def fields6 : List Fld :=
  [F.FENCED, F.WD_PRESENT, F.RESYNC_REFUSED, F.SS_RECORD, F.RESYNC,
   F.RESET_ARM, F.RESET_GO, F.FORCE_SAFE_STOP, F.WD_NEW_RECORD_EN, F.WD_MODE_CHANGE_EN,
   F.FAULT_HEAD, F.FAULT_ACK, F.CC_DROPPED, F.OVERWRITES, F.FENCE_HISTORY,
   F.FAULT_LOG, F.FAULT_COUNT, F.UNIT_STATE, F.SUPPLY_LOW, F.SUPPLY_BACK,
   F.THERM_WARN_EV, F.THROTTLED, F.CAP_ACTIVE, F.PWR_OVER, F.DOM_REFUSED,
   F.SEC_RESTORE, F.PWR_REQ_STATE, F.PWR_REQ_DOMAIN, F.PWR_IRQ_EN, F.WAKE_IN_EDGE,
   F.WAKE_TARGET, F.AUX_IN_KEEP, F.KEY_WAKE, F.WAKE_SET, F.WAKE_HOLD,
   F.WAKE_LOST_COUNT, F.WAKE_LATE_COUNT, F.DOM_STATE, F.DOM_REQUESTED, F.DOM_PENDING,
   F.DOM_BUSY, F.DOM_FLOOR, F.VIN_NOW, F.VIN_LOSS_MV, F.VIN_OK_MV,
   F.SUPPLY_GRACE, F.PWR_NOW_W, F.PWR_CAP_W, F.PWR_REPORT_DST, F.PWR_REPORT_MS]

/-- Part 7 of the field list. -/
def fields7 : List Fld :=
  [F.THERM_WARN, F.THERM_THROTTLE, F.TEMP, F.RES_CLEAR, F.RAIL_TARGET,
   F.RAIL_NOW, F.RAIL_IN_FLIGHT, F.RAIL_PENDING_VALID, F.RAIL_ENABLED, F.RAIL_PENDING,
   F.RAIL_ACK_TIMEOUT, F.RAIL_REPLACED, F.RAIL_EMERG, F.RAIL_ADDR, F.RAIL_SELECT,
   F.RES_CYC_LO, F.RES_CYC_HI, F.RES_TICK_LO, F.RES_TICK_HI, F.KEY_ACT_EN,
   F.IDENT_ON, F.AUTO_GRANT, F.DISPLAY_EN, F.REBASE, F.KEY_ACTIVE,
   F.KEY_FAULT, F.MULTI_TOUCH, F.GESTURE_EV, F.DRAIN_EV, F.DRAIN_SEEN_EV,
   F.DISPLAY_ERR, F.PAGE, F.PANEL_IRQ_EN, F.LG_KEY, F.LG_GESTURE,
   F.LG_TICK, F.KEY_COUNT, F.KEY_BASELINE, F.TOUCH_THRESH, F.RELEASE_THRESH,
   F.NEG_THRESH, F.DRIFT_BAND, F.REBASE_COUNT, F.FORCED_COUNT, F.DRAIN_REQ,
   F.DRAIN_WITHDRAW, F.DRAIN_GRANT, F.DRAIN_STATE, F.CHAIN_WHOLE, F.GRANTED]

/-- Part 8 of the field list. -/
def fields8 : List Fld :=
  [F.IS_MASTER, F.IS_RELAY, F.LAMP, F.OPEN_BREAK, F.DRAIN_SEEN,
   F.DISP_ADDR, F.PANEL_TEXT, F.AUX_EN, F.AUX_CLEAR, F.AUX_ON,
   F.AUX_LATCHED, F.AUX_ATTEMPTS, F.PANEL_PRESENT, F.SRAM_CE, F.SRAM_UE,
   F.SRAM_ADDR_ERR, F.SRAM_VALID, F.SRAM_CE_COUNT, F.SRAM_UE_COUNT, F.SRAM_ERR_ADDR_LO,
   F.SRAM_ERR_ADDR_HI, F.SRAM_ERR_MASTER, F.SRAM_PATROL_EN, F.SRAM_PATROL_LOG, F.SRAM_PATROL_POS,
   F.PORT_ENABLE, F.PORT_MODE, F.PORT_MEDIUM, F.PORT_DIM, F.PORT_STATE,
   F.PORT_LOCKED, F.MODE_MISMATCH, F.WEIGHT_1, F.WEIGHT_2, F.WEIGHT_3,
   F.PORT_DELAY, F.PARTNER_IDENTITY, F.PARTNER_PORT, F.PARTNER_VALID, F.FEC_CE_COUNT,
   F.FEC_UE_COUNT, F.REPLAY_COUNT, F.FAB_PORT_UP, F.FAB_PORT_DOWN, F.PARTNER_LOST,
   F.ENCAP_PEER_LOST, F.FAB_IRQ_EN, F.ACK_TIMEOUT, F.FAB_FORMAT_COUNT, F.NO_ROUTE_COUNT]

/-- Part 9 of the field list. -/
def fields9 : List Fld :=
  [F.ENCAP_DROP_COUNT, F.MISROUTE_COUNT, F.LR_PORT_MASK, F.LR_VC, F.LR_A_GEN,
   F.LR_DIM, F.LR_CROSS, F.LR_B_GEN, F.CR_PORT_MASK, F.CR_VC,
   F.CR_A_GEN, F.CR_DIM, F.CR_CROSS, F.CR_B_GEN, F.RELAY_PEER_ID,
   F.RELAY_PEER_VALID, F.ENCAP_MAC_LO, F.ENCAP_MAC_HI, F.ENCAP_IP, F.ENCAP_UDP_PORT,
   F.ENCAP_MTU, F.ENCAP_DSCP_0, F.ENCAP_DSCP_1, F.ENCAP_DSCP_2, F.ENCAP_DSCP_3,
   F.ENCAP_VID, F.ENCAP_PCP, F.ENCAP_VLAN_EN, F.ENCAP_RTO, F.ENCAP_WINDOW,
   F.EP_IDENTITY, F.EP_VALID, F.EP_IP, F.EP_MAC_LO, F.EP_MAC_HI]

/-- Every field of every set-up register (21 R743). -/
def allFields : List Fld :=
  fields0 ++ fields1 ++ fields2 ++ fields3 ++ fields4 ++ fields5 ++ fields6 ++ fields7 ++ fields8 ++ fields9

/-- The fields whose reset value is not 0 (21 R743). -/
def resetFields : List Fld :=
  [F.PART_NO, F.DIE_COUNT, F.FAMILY, F.STEPPING, F.PRIORITY, F.TICK_PERIOD,
   F.CAD_LEAD, F.PHASE_LAST, F.DEADLINE, F.AL_DEV_OWNED, F.CHAIN_MODE, F.CHAIN_TIMEOUT,
   F.COAL_COUNT, F.PATROL_EN, F.PATROL_LOG, F.SC_BUDGET, F.CAL_LOG, F.CAL_PHASES,
   F.WD_PRESENT, F.AUX_IN_KEEP, F.WAKE_SET, F.DOM_PENDING, F.VIN_LOSS_MV, F.VIN_OK_MV,
   F.SUPPLY_GRACE, F.THERM_WARN, F.THERM_THROTTLE, F.RAIL_ACK_TIMEOUT, F.KEY_ACT_EN, F.DISPLAY_EN,
   F.TOUCH_THRESH, F.RELEASE_THRESH, F.NEG_THRESH, F.DRIFT_BAND, F.DISP_ADDR, F.AUX_EN,
   F.SRAM_PATROL_EN, F.SRAM_PATROL_LOG, F.PORT_DIM, F.WEIGHT_1, F.WEIGHT_2, F.WEIGHT_3,
   F.ACK_TIMEOUT, F.LR_DIM, F.CR_DIM, F.ENCAP_UDP_PORT, F.ENCAP_MTU, F.ENCAP_RTO,
   F.ENCAP_WINDOW]

end Sys2Proof.Machine
end

