-- ==== Sys2Proof/Machine/Msg.lean ====
section
/-! DEFINITION. What travels to and from the unit: register requesters, chain frames and the cadence messages
they carry, fabric flits, and the descriptors of the environment's answers that commands carry as operands. -/

namespace Sys2Proof.Machine

/-- A requester of register accesses (21 R745); the host reaches set-up space through BAR0 and doorbells through BAR2 of a function
(05 Table 5.2). -/
inductive Req where
  | pf
  | vf (n : Nat)
  | pfDb
  | vfDb (n : Nat)
  | mgmt (core : Nat)
  | warden
  | chain (src : Nat)
deriving DecidableEq, Repr

/-- A number for each requester, used as part of the key of its captures and held writes. -/
def Req.code : Req → Nat
  | .pf => 0
  | .warden => 1
  | .pfDb => 2
  | .mgmt c => 16 + c % 256
  | .vf n => 512 + n % 65
  | .vfDb n => 640 + n % 65
  | .chain a => 1024 + a % 128

/-- A chain frame as it arrives or leaves (04 R118, Table 4.1): the header's fields, the payload words, and
whether its CRC32C checks. -/
structure Frame where
  dst : Nat
  src : Nat
  typ : Nat
  cls : Nat
  len : Nat
  tag : Nat
  hops : Nat
  chain : Nat
  sub : Nat
  data : List Word
  crcOk : Bool
deriving DecidableEq, Repr

/-- A cadence position (03 R66). -/
structure Pos where
  step : Nat
  phase : Nat
  tick : Nat
deriving DecidableEq, Repr

/-- The TICK payload (03 R75, Table 3.3). -/
structure TickMsg where
  epoch : Nat
  pos : Pos
  adv : Bool
  reason : Nat
  fromCard : Bool
  endT : Nat
  delay : Nat
  lead : Nat
  master : Nat
deriving DecidableEq, Repr

/-- The VOTE, JOIN and LEAVE payload (03 R81, Table 3.4). -/
structure VoteMsg where
  epoch : Nat
  phase : Nat
  level : Nat
  step : Nat
  source : Nat
deriving DecidableEq, Repr

/-- The BID payload (03 R88). -/
structure BidMsg where
  epoch : Nat
  pos : Pos
  prio : Nat
  noPos : Bool
  ident : Nat
deriving DecidableEq, Repr

/-- A Col flit (16 R563, Table 16.2): the header's fields, the payload words in use, and whether its CRC checks. -/
structure Flit where
  dst : Nat
  dstPart : Nat
  cls : Nat
  vc : Nat
  kind : Nat
  src : Nat
  srcPart : Nat
  last : Bool
  msg : Nat
  seqn : Nat
  data : List Word
  crcOk : Bool
deriving DecidableEq, Repr

/-- A link HELLO (16 R567, R568): identity, port number and MODE of the sender, its initial credits by class and VC, and
half the round trip measured with an echoed timestamp, in ns. -/
structure Hello where
  ident : Nat
  port : Nat
  mode : Nat
  credits : List Nat
  delay : Option Nat
deriving DecidableEq, Repr

/-- What a LINK flit delivers (16 R565, R566): credits by pair (class and VC) with a count of flits acknowledged, a NAK,
a HELLO, or the CTRL0 UNIT_LOST of a unit that stops (DESIGN CHOICE, log 73). -/
inductive LinkMsg where
  | credit (pairs : List (Nat × Nat)) (acked : Nat)
  | nak
  | hello (h : Hello)
  | unitLost
deriving DecidableEq, Repr

/-- An encapsulated frame (16 Table 16.8): destination and source MAC and the VLAN tag; destination and source IPv6 address, the DSCP of
its traffic class and its flow label; source and destination UDP port; whether the rest of it is as R588 demands; the CE mark; and the
encapsulation header. -/
structure EFrame where
  dmac : Nat
  smac : Nat
  vlan : Option Nat
  dip : List Word
  sip : List Word
  dscp : Nat
  flow : Nat
  sport : Nat
  udp : Nat
  sound : Bool
  ce : Bool
  psn : Nat
  ackPsn : Nat
  cls : Nat
  nak : Bool
  ece : Bool
  flits : List Flit
deriving DecidableEq, Repr

/-- A fault as a detector outside the model's own paths reports it (17 R619, Table 17.6). -/
structure Detect where
  code : Nat
  die : Nat
  mid : Nat
  part : Option Nat
  addr : Nat
  arg : Nat
deriving DecidableEq, Repr

/-- The board block of a boot image (20 Table 20.4). -/
structure BoardBlock where
  /-- RAIL_ADDR and RAIL_SELECT of rails 0 to 13, as stored -/
  rails : List Nat
  /-- PORT_INIT of ports 0 to 11 -/
  ports : List Nat
  extMode : Nat
  extIg : Bool
  waitMs : Nat
  noDefaultPart : Bool
  portsEarly : Bool
deriving DecidableEq, Repr

/-- What the board, the fuses and the self-tests answer during bring-up (20 Table 20.5). -/
structure BringAns where
  /-- straps (20 Table 20.2) -/
  head : Bool
  chainId : Nat
  boot : Nat
  /-- the boot image in flash, and its copy at 0x0100_0000 (20 Table 20.3) -/
  primary : List Byte
  backup : List Byte
  /-- rails 8 and 10 acknowledged -/
  colRails : Bool
  /-- Col-A's fuses readable and not fused off -/
  colA : Bool
  serial : Nat
  /-- Col-B answers and is not fused off -/
  colB : Bool
  /-- warden cores WA, WB, WC (bits 0 to 2) that fail their test -/
  wardenBad : Nat
  /-- dies fused off, by die index -/
  fusedOff : Nat
  /-- crest dies whose rail or self-test fails, and crest dies whose shelf links fail (20 R721, R725; 01 R33) -/
  crestBad : Nat
  linkBad : Nat
  /-- voltages in mV that rails 0 to 11 report once acknowledged -/
  volts : List Nat
  /-- CXL ports whose XP_PRSNT_N is low, one bit each -/
  plugged : Nat
deriving DecidableEq, Repr

/-- What every request to the host carries beside its address (05 R159, R160): the function of its Requester ID (0 the PF, k VF k), the
attributes Relaxed Ordering, ID-Based Ordering and No Snoop, and the Traffic Class. -/
structure ReqAttr where
  fn : Nat
  relaxed : Bool
  idOrder : Bool
  noSnoop : Bool
  tc : Nat
deriving DecidableEq, Repr

/-- The device sets no attribute and Traffic Class 0 (05 R159). -/
def ReqAttr.plain (fn : Nat) : ReqAttr := ⟨fn, false, false, false, 0⟩

/-- One request issued to the host: a memory write or read of so many bytes. -/
structure HostReq where
  write : Bool
  addr : Nat
  len : Nat
  attr : ReqAttr
deriving DecidableEq, Repr

/-- What the host has programmed in the PF's configuration space that bounds the device's requests (05 Table 5.1): the bytes a write
and a read request may carry, and the completion timeout: its range, A 0 to D 3, and whether it is disabled. -/
structure PcieCtl where
  maxPayload : Nat
  maxRead : Nat
  timeout : Nat
  timeoutOff : Bool
deriving DecidableEq, Repr

/-! ### Operands of commands -/

/-- Where an access to registers begins, and its bytes (00 R11). -/
structure Span where
  off : Nat
  size : Nat
deriving DecidableEq, Repr

/-- A write to a doorbell BAR: where it begins, its bytes, and what it writes (05 R176). -/
structure DbWrite where
  off : Nat
  size : Nat
  v : Nat
deriving DecidableEq, Repr

/-- A frame that arrives, the delay of the link it came on and the time it stays in the unit, in ns (03 R76). -/
structure Passing where
  frame : Frame
  link : Nat
  stay : Nat
deriving DecidableEq, Repr

/-- A queue whose commands have drained, and what its ring in host memory holds (empty: as known). -/
structure Drained where
  queue : Nat
  ring : List Byte
deriving DecidableEq, Repr

/-- What the host programs in the PF alone: whether it is in D3hot, and what bounds the device's requests. -/
structure PfControl where
  d3 : Bool
  ctl : PcieCtl
deriving DecidableEq, Repr

/-- The instance of a class and die that starts a chunk, and after how many of its engine's boundaries that chunk will reach its time limit,
if it does. -/
structure ChunkStart where
  idx : Nat
  limit : Option Nat
deriving DecidableEq, Repr

/-- The queue whose engine command acts, and the engine cycles that each chunk run by the row uses (07 R241). -/
structure EngineTurn where
  queue : Nat
  cycles : Nat
deriving DecidableEq, Repr

/-- A write of AUX_EN, and the level of AUX_VSNS after it (22 R796). -/
structure AuxWrite where
  on : Bool
  vsns : Bool
deriving DecidableEq, Repr

/-- One MSI-X message sent (05 R188): function (none: the PF), vector, address, data, and what its request carries. -/
structure MsixMsg where
  vf : Option Nat
  vector : Nat
  addr : Nat
  data : Nat
  attr : ReqAttr
deriving DecidableEq, Repr

end Sys2Proof.Machine
end

