-- ==== Sys2Proof/Machine/Tab.lean ====
section
/-! DEFINITION. The one sparse table of the model: keys strictly rising, no entry equal to what an
unlisted key reads as.  Memories, the register file, queues, partitions, cores and ports are such
tables, so equal contents are equal data. -/

namespace Sys2Proof.Machine

/-- A sparse table: pairs of key and value. -/
abbrev Tab (α : Type) := List (Nat × α)

/-- The value at a key; `d` is what an unlisted key reads as. -/
def Tab.get {α : Type} (d : α) : Tab α → Nat → α
  | [], _ => d
  | (k', v) :: t, k => if k = k' then v else Tab.get d t k

/-- Is the key listed? -/
def Tab.has {α : Type} : Tab α → Nat → Bool
  | [], _ => false
  | (k', _) :: t, k => k == k' || Tab.has t k

/-- Insert or replace, keeping the keys rising (no default removed). -/
def Tab.insert {α : Type} : Tab α → Nat → α → Tab α
  | [], k, v => [(k, v)]
  | (k', w) :: t, k, v =>
    if k < k' then (k, v) :: (k', w) :: t
    else if k = k' then (k, v) :: t
    else (k', w) :: Tab.insert t k v

/-- Remove a key, wherever it is listed. -/
def Tab.erase {α : Type} : Tab α → Nat → Tab α
  | [], _ => []
  | (k', w) :: t, k => if k = k' then Tab.erase t k else (k', w) :: Tab.erase t k

/-- Write: the entry is removed when the value is what the unlisted key reads as. -/
def Tab.set {α : Type} [DecidableEq α] (d : α) (t : Tab α) (k : Nat) (v : α) : Tab α :=
  if v = d then Tab.erase t k else Tab.insert t k v

/-- The keys rise strictly, and all are at least `lo`. -/
def Tab.rising {α : Type} : Nat → Tab α → Bool
  | _, [] => true
  | lo, (k, _) :: t => decide (lo ≤ k) && Tab.rising (k + 1) t

/-- No entry equals what its unlisted key reads as. -/
def Tab.noDefault {α : Type} [DecidableEq α] (d : Nat → α) (t : Tab α) : Bool :=
  t.all fun e => decide (e.2 ≠ d e.1)

/-- The canonical form of a table with default `d`. -/
def Tab.wf {α : Type} [DecidableEq α] (d : Nat → α) (t : Tab α) : Bool :=
  Tab.rising 0 t && Tab.noDefault d t

/-- Change the entry at a key by a function. -/
def Tab.upd {α : Type} [DecidableEq α] (d : α) (t : Tab α) (k : Nat) (f : α → α) : Tab α :=
  Tab.set d t k (f (Tab.get d t k))

/-- Write bytes (or values) at rising keys from `a`. -/
def Tab.setMany {α : Type} [DecidableEq α] (d : α) (t : Tab α) (a : Nat) : List α → Tab α
  | [] => t
  | v :: vs => Tab.setMany d (Tab.set d t a v) (a + 1) vs

/-- Read `n` values at rising keys from `a`. -/
def Tab.getMany {α : Type} (d : α) (t : Tab α) (a : Nat) : Nat → List α
  | 0 => []
  | n + 1 => Tab.get d t a :: Tab.getMany d t (a + 1) n

end Sys2Proof.Machine
end

