-- ==== Sys2Proof/Machine/StateCad.lean ====
section
/-! DEFINITION. State of the cadence unit, the alarms and the chain logic that no set-up register shows
(03_cadence, 04_chain).  What a register shows lives in the register file. -/

namespace Sys2Proof.Machine

/-- The position (0, 0, 0). -/
abbrev Pos.zero : Pos := ⟨0, 0, 0⟩

/-- A change of participation that waits for the phase it names (03 R83). -/
structure PartChange where
  join : Bool
  level : Nat
  id : Nat
  step : Nat
  phase : Nat
deriving DecidableEq, Repr

/-- The armed copy of an alarm (03 R94): what ARM copied from the staging fields. -/
structure AlarmCopy where
  step : Nat
  phase : Nat
  tick : Nat
  boundary : Bool
  rep : Bool
  action : Nat
  owner : Nat
  devOwned : Bool
  notify : Bool
  arg : Nat
deriving DecidableEq, Repr

/-- A dispatch that has begun and waits for the warden, in order (03 R100, R103). -/
structure Dispatch where
  alarm : Nat
  late : Bool
  copy : AlarmCopy
  cancelled : Bool
deriving DecidableEq, Repr

/-- The bid window and what it has recorded (03 R88 to R90). -/
structure BidWindow where
  isOpen : Bool
  best : Option (Nat × Nat)
  latest : Option Pos
  epoch : Option Nat
  bidding : Bool
deriving DecidableEq, Repr

/-- The cadence unit beyond its registers. -/
structure Cad where
  /-- some epoch has been seen (03 R70, R87) -/
  seen : Bool
  /-- some position has been applied since power-on reset (03 R70, 20 R729) -/
  joined : Bool
  /-- epoch of the applied position -/
  appliedEpoch : Nat
  /-- TICKs received and not yet applied, with the cycle count at which they fall due, the first due first (03 R76) -/
  due : List (Nat × TickMsg)
  /-- relock run: epoch, last position, consecutive count (03 R93) -/
  run : Option (Nat × Pos × Nat)
  /-- master's identity of the last TICK received -/
  master : Option Nat
  /-- the last TICK this unit issued as master (03 R84) -/
  issued : Option TickMsg
  /-- deadline latched at entry to the issued phase (03 R69) -/
  deadT : Nat
  /-- the early end has been announced for the issued phase (03 R84) -/
  early : Bool
  /-- participation of the unit's partitions since the phase entry (03 R83) -/
  partMask : Nat
  /-- the unit-level and the chain-level VOTE of this phase have been sent or counted (03 R81) -/
  unitVoted : Bool
  chainVoted : Bool
  /-- chain source: addresses that voted and that participate (03 R81, R83) -/
  unitVotes : List Nat
  unitPart : List Nat
  /-- master: chain ids that voted and that participate -/
  chainVotes : List Nat
  chainPart : List Nat
  /-- participation changes naming a phase not yet applied (03 R83) -/
  later : List PartChange
  win : BidWindow
  /-- RESIGN was written; the hand-over follows the next tick (03 R91) -/
  resign : Bool
  /-- HANDOVER was sent and the successor has not yet answered -/
  handing : Bool
  /-- HANDOVER was received: the position and the bitmap the successor goes on from -/
  taking : Option TickMsg
  /-- consecutive card strobe edges within tolerance since CARD_LOST (03 R92) -/
  cardEdges : Nat
  /-- alarms whose EVENT ALARM has been sent since the last applied tick (04 R143) -/
  alarmSent : List Nat
deriving DecidableEq, Repr

/-- The enumeration a head runs (04 R129, R130): pass 0 claim, 1 assign. -/
structure EnumRun where
  pass : Nat
  resends : Nat
  token : List Word
deriving DecidableEq, Repr

/-- One frame in a port's transmit queue (04 R123): `fwd` frames of a class go first. -/
structure TxEnt where
  fwd : Bool
  frame : Frame
deriving DecidableEq, Repr

/-- The chain logic beyond its registers. -/
structure Chain where
  /-- sticky address and chain id, in the always-on domain (04 R127) -/
  sticky : Option (Nat × Nat)
  /-- the claim of the last claim pass: its address, and the serial and GEN of its token (04 R129, R130) -/
  claimed : Option (Nat × Nat × Nat)
  /-- an assign pass has been received since the address became 0 (04 R131) -/
  assigned : Bool
  /-- address or chain id changed since the last ENUM_DONE -/
  changed : Bool
  enum : Option EnumRun
  /-- one further start is queued (04 R130) -/
  queued : Bool
  /-- always-on cycle of the last start -/
  lastStart : Option Nat
  /-- transmit queues of ports U and D (04 R123) -/
  txU : List TxEnt
  txD : List TxEnt
  /-- the BID sent on D in this TICK_PERIOD: priority, identity (04 R125) -/
  bidSent : Option (Nat × Nat)
  /-- a lower BID that waits for the next TICK_PERIOD (04 R125) -/
  bidNext : Option TxEnt
  /-- frames delivered to the unit that no register shows: EVENT PANEL, ALARM, AUX_LATCH, POWER REPORT and SUPPLY -/
  inbox : List Frame
deriving DecidableEq, Repr

/-- The cadence unit after power-on reset (03 R70, 20 R729). -/
def Cad.reset : Cad :=
  { seen := false, joined := false, appliedEpoch := 0, due := [], run := none, master := none, issued := none,
    deadT := 0, early := false, partMask := 0, unitVoted := false, chainVoted := false, unitVotes := [],
    unitPart := [], chainVotes := [], chainPart := [], later := [],
    win := ⟨false, none, none, none, false⟩, resign := false, handing := false, taking := none,
    cardEdges := 0, alarmSent := [] }

/-- The chain logic after power-on reset (04 R127: the sticky address does not survive it). -/
def Chain.reset : Chain :=
  { sticky := none, claimed := none, assigned := false, changed := false, enum := none, queued := false, lastStart := none,
    txU := [], txD := [], bidSent := none, bidNext := none, inbox := [] }

end Sys2Proof.Machine
end

