-- ==== Sys2Proof/Machine/StateCore.lean ====
section
/-! DEFINITION. State of one Ridge core: a spur core, the warden core or a lane core (13_ridge_isa, 14_core_pipelines). -/

namespace Sys2Proof.Machine

/-- A register write of the last cycles: what it wrote, when, by what kind of instruction, and the value before
(14 R496, R506).  Resources: 0 to 7 G, 8 to 11 B, 12 LC, 13 flags, 14 and 15 MX0 and MX1, 16 to 23 P, 24 GSEL and GINV.
Kinds: 0 plain, 1 load, 2 MOVB, 3 load of a base, 4 a write that a guard or a BLC sees late. -/
structure Hist where
  res : Nat
  cyc : Nat
  kind : Nat
  old : Nat
deriving DecidableEq, Repr

/-- A write to MX on its way: the cycle at whose end it lands, the half (0, 1; 2 both), the value (14 R498). -/
structure MxWrite where
  last : Nat
  half : Nat
  val : Nat
deriving DecidableEq, Repr

/-- A far load outstanding (14 R500): what it is for (0 a register, 1 MOVS, 2 SCNS, 3 RET, 4 RETI, 5 RETI with ST at address 0), its register (8 and
above: a base), sign extension, size, core address and device address. -/
structure FarLoad where
  kind : Nat
  reg : Nat
  sign : Bool
  size : Nat
  eff : Nat
  addr : Nat
deriving DecidableEq, Repr

/-- A posted far store (14 R500). -/
structure FarStore where
  eff : Nat
  addr : Nat
  bytes : List Byte
deriving DecidableEq, Repr

/-- An interrupt entry whose handler has not been fetched: IPL before it, its first cycle (14 R511). -/
structure CoreEntry where
  ipl : Nat
  line : Nat
  cyc : Nat
deriving DecidableEq, Repr

/-- The older instruction of a possible pair: class, registers read and written (14 R494). -/
structure Slot where
  cls : Nat
  writes : List Nat
deriving DecidableEq, Repr

/-- The loop buffer (14 R501): phase 0 idle, 1 marked and capturing, 2 running; the loop's target and branch. -/
structure LoopBuf where
  phase : Nat
  target : Nat
  branch : Nat
  words : Tab (Option Nat)
deriving DecidableEq, Repr

/-- A kernel invocation on a lane core (12 R430, R431): queue, KLIMIT, cycle of the first fetch. -/
structure Invocation where
  queue : Nat
  klimit : Nat
  start : Nat
deriving DecidableEq, Repr

structure Core where
  g : Tab Word
  b : Tab Word
  lc : Word
  /-- MX with every landed write, and the writes on their way -/
  mx : Nat
  mxw : List MxWrite
  /-- predicates; bit 0 is P0 and reads 1 (13 R457) -/
  p : Nat
  st : Word
  pc : Nat
  /-- control registers in force, by number (13 Table 13.15) -/
  ctl : Tab Word
  /-- control registers written and not yet in force (13 R480) -/
  pend : Tab (Option Word)
  /-- pending lines: software lines in bits 0 to 7, levels last seen above (13 R477) -/
  lines : Nat
  pmem : Tab Nat
  /-- words changed through PMD and not yet flushed: what they held (13 R481) -/
  stale : Tab (Option Nat)
  dmem : Tab Byte
  /-- 1: a REP precedes; 2: a REP without effect precedes (13 R473) -/
  rep : Nat
  /-- a repetition is under way: its condition is not evaluated again (13 R474) -/
  inRep : Bool
  halted : Bool
  /-- stack stop, or an invocation ended: nothing further executes (13 R471, 14 R508) -/
  stopped : Bool
  /-- how a lane invocation ended: 0 not, 1 returned, 2 trapped, 3 at its limit, 4 stopped -/
  done : Nat
  entry : Option CoreEntry
  farLoad : Option FarLoad
  posted : List FarStore
  /-- errors of posted stores that arrived: vector, core address (13 R476) -/
  errs : List (Nat × Nat)
  /-- core cycle of the last issue, and the earliest next one -/
  cyc : Nat
  free : Nat
  slot : Option Slot
  hist : List Hist
  /-- the decode window: first address beyond it at a cycle; it grows by 4 words a cycle (14 R492) -/
  winEnd : Nat
  winCyc : Nat
  loop : LoopBuf
  invoc : Option Invocation
deriving DecidableEq, Repr

abbrev LoopBuf.reset : LoopBuf := { phase := 0, target := 0, branch := 0, words := [] }

/-- A core after reset: every register 0 but P0 (13 R457) (DESIGN CHOICE, log 12). -/
abbrev Core.reset : Core :=
  { g := [], b := [], lc := 0, mx := 0, mxw := [], p := 1, st := 0, pc := 0, ctl := [], pend := [], lines := 0,
    pmem := [], stale := [], dmem := [], rep := 0, inRep := false, halted := false, stopped := false, done := 0,
    entry := none, farLoad := none, posted := [], errs := [], cyc := 0, free := 0, slot := none, hist := [],
    winEnd := 4, winCyc := 0, loop := LoopBuf.reset, invoc := none }

end Sys2Proof.Machine
end

