-- ==== Sys2Proof/Machine/StateFab.lean ====
section
/-! DEFINITION. State of the fabric switch and the Col engine that no set-up register shows (16_col_fabric). -/

namespace Sys2Proof.Machine

/-- A flit that waits at an output: the input it came from (2 × port + VC, or 24 for this unit), the partition it is charged to
(64: none), the flit with its output VC (16 R575, R576). -/
structure Waiting where
  input : Nat
  part : Nat
  flit : Flit
deriving DecidableEq, Repr

/-- The link layer of one fabric port.  A pair is 2 × class + VC. -/
structure Link where
  /-- credits held, and installed by the partner's HELLO, by pair (16 R565) -/
  credits : Tab Nat
  total : Tab Nat
  /-- flits routed to this port that wait for a credit or their turn -/
  waiting : List Waiting
  /-- sent and not acknowledged, oldest first (16 R566) -/
  replay : List Flit
  /-- successive replays of the oldest -/
  replays : Nat
  /-- partitions of flits sent and not credited back, by pair -/
  unfreed : Tab (List Nat)
  /-- class in turn and flits it may still send; input and VC last served, by class (16 R575) -/
  turn : Nat
  left : Nat
  lastIn : Tab Nat
  /-- a training timeout waits for its retry (16 Table 16.4) -/
  retry : Bool
  /-- LINK flits sent, oldest first (output) -/
  out : List LinkMsg
deriving DecidableEq, Repr

abbrev Link.reset : Link :=
  { credits := [], total := [], waiting := [], replay := [], replays := 0, unfreed := [], turn := 1, left := 0, lastIn := [],
    retry := false, out := [] }

/-- A message of this unit's Col queues that is not acknowledged (16 R577). -/
structure OutMsg where
  queue : Nat
  tag : Nat
  dst : Nat
  dstPart : Nat
  /-- flit kind: PUT, GET_REQ or COLL_DATA -/
  kind : Nat
  /-- where a GET writes -/
  addr : Nat
  bytes : Nat
  /-- port its flits left on; 12: none -/
  port : Nat
  /-- its ACK is discarded (16 R591) -/
  mute : Bool
deriving DecidableEq, Repr

/-- A message that arrives (16 R578). -/
structure InMsg where
  src : Nat
  srcPart : Nat
  tag : Nat
  kind : Nat
  dstPart : Nat
  port : Nat
  addr : Nat
  bytes : Nat
  got : Nat
  aux : Nat
  rvalue : Nat
  /-- status of its first piece that failed -/
  status : Nat
  data : List Byte
deriving DecidableEq, Repr

/-- A collective in progress on a queue (16 R581 to R584). -/
structure Coll where
  id : Nat
  kind : Nat
  red : Nat
  fmt : Nat
  count : Nat
  nmemb : Nat
  root : Nat
  self : Nat
  src : Nat
  dst : Nat
  group : List (Nat × Nat)
  digest : Nat
  /-- bytes that each member's READY and credits still let this one send -/
  grants : Tab (Option Nat)
  /-- members whose NAK makes the READY be repeated -/
  naks : List Nat
  /-- pieces produced and not sent: member, address in the data, bytes -/
  outq : List (Nat × Nat × List Byte)
  /-- own data: transfer and bytes of it already produced -/
  own : Nat × Nat
  /-- incoming: transfer and bytes of it already taken from staging -/
  inp : Nat × Nat
  /-- staging: messages in order, with the member they came from and their address -/
  stage : List (Nat × Nat × List Byte)
  /-- ALLTOALL: bytes written by others -/
  direct : Nat
  /-- members whose DONE has come -/
  dones : List Nat
  sentDone : Bool
deriving DecidableEq, Repr

/-- Encapsulated traffic of one class with one peer (16 R587). -/
structure Peer where
  port : Nat
  next : Nat
  expect : Nat
  unacked : List (Nat × List Flit)
  resends : Nat
  window : Nat
  /-- frames acknowledged since the window last grew -/
  grown : Nat
  /-- always-on cycle of the last halving -/
  halved : Option Nat
  waiting : List Flit
  /-- the next acknowledgement carries ECE -/
  ece : Bool
deriving DecidableEq, Repr

/-- The fabric beyond its registers. -/
structure Fab where
  /-- flits injected at this unit and not yet routed, oldest first -/
  inject : List Flit
  links : Tab Link
  nextTag : Nat
  outMsgs : List OutMsg
  inMsgs : List InMsg
  /-- flits that wait in an input buffer for a sleeping die (16 R605) -/
  heldIn : List (Nat × Flit)
  /-- collectives by queue -/
  colls : Tab (Option Coll)
  /-- encapsulation state by identity × 4 + class -/
  peers : Tab (Option Peer)
  /-- encapsulated frames sent, oldest first: port and frame (output) -/
  frames : List (Nat × EFrame)
deriving DecidableEq, Repr

def Fab.reset : Fab :=
  { inject := [], links := [], nextTag := 0, outMsgs := [], inMsgs := [], heldIn := [], colls := [], peers := [], frames := [] }

end Sys2Proof.Machine
end

