-- ==== Sys2Proof/Machine/StateMem.lean ====
section
/-! DEFINITION. State of memory configuration and of fault reporting that no set-up register shows
(15_memory, 17_warden). -/

namespace Sys2Proof.Machine

/-- A fault a detector has found: its code, the detector's die, the master identity, the partition it touches, the
address or link, and the code's argument (17 R619, Table 17.6). -/
structure Report where
  code : Nat
  die : Nat
  mid : Nat
  part : Option Nat
  addr : Nat
  arg : Nat
  /-- applied position and cycle count at detection -/
  at_ : Pos
  cyc : Nat
deriving DecidableEq, Repr

/-- External memory beyond its registers (15 R540 to R543). -/
structure Ext where
  /-- granularity in force: 4 KiB -/
  ig : Bool
  /-- layout being applied: mode and granularity (15 Table 15.7) -/
  applying : Option (Nat × Bool)
  /-- ports lost since the last APPLY -/
  lost : Tab Bool
deriving DecidableEq, Repr

def Ext.reset : Ext := { ig := false, applying := none, lost := [] }

end Sys2Proof.Machine
end

