-- ==== Sys2Proof/Machine/StatePwr.lean ====
section
/-! DEFINITION. State of the warden, the power manager, the ledge panel and bring-up that no set-up register shows
(17_warden, 18_power, 19_ledge_panel, 20_bringup). -/

namespace Sys2Proof.Machine

/-- A register access that waits for a sleeping domain (18 R650) or for a shelf link that retrains (01 R46): a write of a requester, a
read of `n` bytes from byte `lo` of a register, which become the bytes from `at_` of what it returns (00 R11), or a chain request. -/
inductive Access where
  | write (req : Req) (off v : Nat)
  | read (req : Req) (off lo n at_ : Nat)
  | chain (f : Frame)
deriving DecidableEq, Repr

/-- A request that the warden carries out (17 R617, R622): the commit of a block of Table 21.2 (0 cadence, 1 MPU), a
partition action, a power state of a domain. -/
inductive WReq where
  | commit (block : Nat)
  | enable (p : Nat)
  | disable (p : Nat)
  | reshape (p slot : Nat)
  | scrub (p : Nat)
  | power (state dom : Nat)
deriving DecidableEq, Repr

/-- The warden beyond its registers. -/
structure Warden where
  /-- requests that wait for the end of RESYNC or for MGMT to wake, in order (17 R615) -/
  wait : List WReq
  /-- faults detected during RESYNC whose reaction waits, in order, with the queues each touches (17 R615) -/
  acts : List (Report × List Nat)
  /-- always-on cycle of the last CC record, by code × 8 + die (17 R626) -/
  ccAt : Tab (Option Nat)
  /-- requester and always-on cycle of RESET_ARM (17 R627) and of SHUTDOWN_ARM (20 R733) -/
  arm : Option (Nat × Nat)
  shutArm : Option (Nat × Nat)
  /-- the record of the safe stop in progress, not yet written (17 R621) -/
  stop : Option (List Word)
  /-- shelf links: 0 whole, 1 at half rate, 2 down; 0 to 5 crest to Col-A, 6 to 11 crest to Col-B, 12 to 17 the crest
  ring, 18 and 19 between the col dies (01 R27 to R33) (DESIGN CHOICE, log 112) -/
  shelf : Tab Nat
  /-- shelf links whose module retrains: their traffic is held (01 R46) -/
  retraining : Tab Bool
deriving DecidableEq, Repr

def Warden.reset : Warden :=
  { wait := [], acts := [], ccAt := [], arm := none, shutArm := none, stop := none, shelf := [], retraining := [] }

/-- A transition in flight: the state it leads to, the always-on cycle of its acceptance, and its stage: 0 draining,
1 the rails are asked (18 R653). -/
structure Flight where
  target : Nat
  since : Nat
  stage : Nat
deriving DecidableEq, Repr

/-- The power manager beyond its registers. -/
structure Pwr where
  /-- why nothing runs: 0 it does; 1 Off after supply loss, 2 Off after an orderly shut-down, 3 held in reset by
  SYS_RESET_N (18 R670, 20 R734, R715) -/
  off : Nat
  /-- transitions in flight by domain (18 R646) -/
  flight : Tab (Option Flight)
  /-- wakes whose fixed delay has passed and that wait for a rail (18 R651) -/
  late : Tab Bool
  /-- the unit was asked for Keep: MGMT follows the others (18 R645) -/
  unitKeep : Bool
  /-- residency: always-on cycles and ticks by domain × 5 + state, 12 the unit (18 R668) -/
  resCyc : Tab Nat
  resTick : Tab Nat
  /-- thermal floors and cap floors by crest die (18 R665, R666) -/
  thermal : Tab Bool
  capped : Tab Bool
  /-- SC_BUDGET of each die before each halving, latest first (18 R666) -/
  halved : List (List Nat)
  /-- emergency sequence of a rail: 1 the minimum was sent, 2 the rail is being turned off (18 R661) -/
  emerg : Tab Nat
  /-- rails still to be turned off, in order, on the way to Off or to a warm bring-up (18 R670, 20 R716) -/
  offSeq : List Nat
  /-- what the end of that sequence leads to: the `off` it leaves -/
  offTo : Nat
  /-- a failed aux attempt waits for its retry (18 R673) -/
  auxRetry : Bool
  /-- the aux rail's gate is driven: an attempt is under way or has succeeded (18 R673) -/
  auxDrive : Bool
  /-- the aux rail is on although its gate is not driven: its FET has failed shorted (22 R796) -/
  auxShort : Bool
  /-- level of the WAKE_IN pin -/
  wakeIn : Bool
deriving DecidableEq, Repr

def Pwr.reset : Pwr :=
  { off := 0, flight := [], late := [], unitKeep := false, resCyc := [], resTick := [], thermal := [], capped := [],
    halved := [], emerg := [], offSeq := [], offTo := 0, auxRetry := false, auxDrive := false,
    auxShort := false, wakeIn := false }

/-- One key of the ledge panel (19 R689 to R695). -/
structure Key where
  /-- consecutive measurements that meet each condition: touch, release, negative, stuck -/
  touch : Nat
  release : Nat
  negative : Nat
  stuck : Nat
  /-- measurements of 5 ms since the key became active -/
  hold : Nat
  /-- capture in progress: sum and number of its measurements -/
  capture : Option (Nat × Nat)
  /-- sum and number of this second's measurements -/
  sum : Nat
  cnt : Nat
  /-- LONG has been reported since the key became active -/
  long : Bool
deriving DecidableEq, Repr

/-- A key at the start of the always-on domain: its baseline is being captured (19 R691). -/
abbrev Key.reset : Key :=
  { touch := 0, release := 0, negative := 0, stuck := 0, hold := 0, capture := some (0, 0), sum := 0, cnt := 0, long := false }

/-- The ledge panel beyond its registers. -/
structure Panel where
  keys : Tab Key
  /-- several keys have been touched at once and not all are released: no TAP and no LONG (19 R695) -/
  multi : Bool
  /-- participation is to stop, or has stopped, for a drain (19 R697) -/
  out : Bool
  /-- lines as last written to the display, by line, and the I²C address written to (output; 19 R704) -/
  lines : Tab (List Byte)
  addr : Nat
deriving DecidableEq, Repr

def Panel.reset : Panel := { keys := [], multi := false, out := false, lines := [], addr := 0 }

/-- Bring-up beyond its registers (20). -/
structure Boot where
  /-- the answers with which bring-up goes on after a host load -/
  ans : Option BringAns
  /-- the board block in use -/
  board : Option BoardBlock
  /-- a warm bring-up, which starts at step 4 of Table 20.5 -/
  warm : Bool
  /-- HOST has been released: step 8 of Table 20.5 -/
  hostUp : Bool
  /-- PERST_N is high -/
  perst : Bool
  /-- XP_PRSNT_N is low, and XP_PERST_N released, by port -/
  plugged : Tab Bool
  released : Tab Bool
  /-- steps 11 and 12: expanders are awaited -/
  extWait : Bool
deriving DecidableEq, Repr

def Boot.reset : Boot :=
  { ans := none, board := none, warm := false, hostUp := false, perst := false, plugged := [], released := [], extWait := false }

end Sys2Proof.Machine
end

