-- ==== Sys2Proof/Machine/StateRun.lean ====
section
/-! DEFINITION. State of the queues, the commands they run, the engine instances, the partitions and the host
interface that no set-up register shows (05_host_rings, 06_partitions, 07_command_lists). -/

namespace Sys2Proof.Machine

/-- A descriptor the device has copied, or whose read failed (05 R178). -/
structure Desc where
  index : Nat
  failed : Bool
  words : List Word
deriving DecidableEq, Repr

/-- An engine instance: class (0 Summit to 4 Col), die index and number on the die (06 R203). -/
structure Inst where
  cls : Nat
  die : Nat
  idx : Nat
deriving DecidableEq, Repr

/-- A chunk handed to an instance (07 R239, R242). -/
structure ChunkRun where
  chunk : Nat
  inst : Inst
deriving DecidableEq, Repr

/-- What a command on a queue is doing (07 R233, R234, R248, R252). -/
inductive CmdPhase where
  /-- checked, work not all done -/
  | running
  /-- WAIT: partition and fence, value, and whether a timeout runs -/
  | waitFence (owner fence value : Nat) (other timed : Bool)
  /-- CAD_WAIT: target step, phase, tick field, kind -/
  | waitCad (step phase tick : Nat) (boundary : Bool)
  /-- ended with a status and a detail -/
  | ended (status detail : Nat)
deriving DecidableEq, Repr

/-- The command at the front of a running descriptor (07 R233). -/
structure Cmd where
  words : List Word
  phase : CmdPhase
  /-- the engine's checks have passed and the command is split into chunks (07 R239) -/
  ready : Bool
  /-- chunks of the command, as its engine defines them -/
  chunks : Nat
  /-- chunks not yet handed to an instance -/
  todo : List Nat
  /-- chunks handed to an instance and not ended -/
  out : List ChunkRun
  /-- first failing status and detail (07 R242) -/
  fail : Option (Nat × Nat)
  /-- sticky flags of the command (08 R293) -/
  flags : Nat
  /-- a stop at the next chunk boundary: the DETAIL of its CANCELLED (07 R243) -/
  stop : Option Nat
  /-- chunks of one unit of output (a tile, a block of rows), which one instance runs (09 R317) -/
  per : Nat
  /-- the instances the command was split over, and the one each unit is given to (09 R317) -/
  insts : List Inst
  asg : List Inst
  /-- progress a command carries over its chunks (counts, rows done) -/
  carry : List Nat
  /-- slots of the combiner: an index and its positions in the batch (11 R392) -/
  slots : List (List Nat)
  /-- entries of a page table read already: page and address (09 R324) -/
  pages : List (Nat × Nat)
  /-- elements of a cut-off chunk that are done, by chunk (09 R337) -/
  done : Tab Nat
deriving DecidableEq, Repr

/-- The running descriptor of a queue (05 R170, 07 R232). -/
structure Run where
  index : Nat
  words : List Word
  /-- a host list is still to be read (05 R168) -/
  listPending : Bool
  /-- command words not yet started -/
  list : List Word
  cmd : Option Cmd
  /-- commands that completed (07 R234) -/
  result : Nat
  flags : Nat
  /-- status and detail of the command that stopped the list -/
  stop : Option (Nat × Nat)
  /-- detail of the first command that ended LATE -/
  late : Option Nat
deriving DecidableEq, Repr

/-- A queue beyond its registers (05 R183 to R189). -/
structure Queue where
  enabling : Bool
  /-- doorbells held while enabling: true submission, false completion -/
  heldDb : List (Bool × Nat)
  heldDisable : Bool
  /-- cut index and the DETAIL of its cancelled entries (05 R185, R186) -/
  cut : Option Nat
  cause : Nat
  ahead : List Desc
  readFailed : Bool
  run : Option Run
  /-- descriptors whose last command has ended and whose entries are still to be written, oldest first (07 R232) -/
  ended : List Run
  /-- entries written and not announced, and entries since the last message (05 R189) -/
  unannounced : Nat
  sinceMsg : Nat
  /-- the context's spur core: die, core (06 R209) -/
  home : Option (Nat × Nat)
  /-- P when the owner lost the host: descriptor and list reads issued before then may still end (05 R192) -/
  owed : Option Nat
deriving DecidableEq, Repr

/-- What an instance saves at a cut-off (09 R319, 10 R368): the unit, how far it came, and its accumulators. -/
structure Carry where
  unit : Nat
  pos : Nat
  vals : List Nat
deriving DecidableEq, Repr

/-- What a running chunk holds of the Scree arrays: a face that it reads, by die × 16384 + group (10 R357), or a column group that it
calibrates (10 R366, R370). -/
inductive Hold where
  | face (group face : Nat)
  | cal (key : Nat)
deriving DecidableEq, Repr

/-- The chunk an instance runs (07 R241, R242): its queue key and number, and the command as it stood when the chunk began.  What the
chunk reads it has read at its start (07 R264, R265); how it ends is reported at its end: a status but OK, its sticky flags, whether it
is cut off and goes on in a further chunk; and what of the Scree arrays it holds until then (DESIGN CHOICE, log 115). -/
structure Busy where
  queue : Nat
  chunk : Nat
  cmd : Cmd
  fail : Option (Nat × Nat)
  flags : Nat
  cut : Bool
  holds : List Hold
deriving DecidableEq, Repr

/-- An engine instance beyond its registers. -/
structure Engine where
  /-- the chunk it runs -/
  busy : Option Busy
  /-- engine cycles used per partition (07 R241) -/
  used : Tab Nat
  /-- partitions that had a chunk ready at the last pick -/
  ready : List Nat
  /-- last queue index served per partition -/
  last : Tab Nat
  /-- what is saved for each queue at a cut-off (09 R313) -/
  carry : Tab (Option Carry)
  /-- the FP32 accumulators of a Summit engine, in the row order of the tile they hold (09 R313) -/
  accs : List Nat
deriving DecidableEq, Repr

/-- A releasing resource or a claim (06 R210, R211): kind 0 Summit engine, 1 Scree, 2 Cairn, 3 Saddle weight,
4 macro group, 5 granule, 6 Col port; die; number. -/
structure Res where
  kind : Nat
  die : Nat
  idx : Nat
  /-- how many consecutive ones (macro groups come in ranges) -/
  cnt : Nat
deriving DecidableEq, Repr

/-- A partition beyond its registers. -/
structure Part where
  releasing : List Res
  /-- granules among them that are zeroed before they pass on: the set that released them asked for it (06 R211) -/
  zeroRel : List Res
  /-- engine chunks that were running when the release was dispatched: queue key, chunk -/
  grand : List (Nat × Nat)
  claims : List Res
  zeroing : List Res
  /-- slot whose reshape awaits its releases -/
  slot : Nat
  /-- state a scrub returns to, the granules and macro groups it zeroes, and whether it erases T-arrays (06 R222) -/
  prior : Nat
  scrub : List Res
  scrubT : Bool
deriving DecidableEq, Repr

/-- One entry of an MSI-X table. -/
structure Msix where
  addrLo : Word
  addrHi : Word
  data : Word
  ctrl : Word
deriving DecidableEq, Repr

/-- The host interface beyond its registers (05) (DESIGN CHOICE, log 105). -/
structure HostIf where
  vfEnable : Bool
  numVfs : Nat
  /-- Bus Master Enable of the PF (0) and of VF k (k) -/
  bme : Tab Bool
  /-- MSI-X enabled and not function-masked -/
  msixOn : Tab Bool
  pfTab : Tab Msix
  pfPba : Tab Bool
  vfTab : Tab Msix
  vfPba : Tab Bool
  /-- what bounds the device's requests (05 Table 5.1) -/
  ctl : PcieCtl
  linkDown : Bool
  /-- the link has been down and the host has performed no reset since (05 R202) -/
  cut : Bool
  /-- rate, width and coding of the link when it last trained (05 R158) -/
  trained : Nat × Nat × Nat
  l1 : Bool
  /-- configuration requests are answered with Request Retry Status -/
  rrs : Bool
  training : Bool
  /-- AER Uncorrectable Internal Error reported (17 R621) -/
  aer : Bool
  errFatal : Bool
  /-- requests issued to the host, oldest first (output) -/
  issued : List HostReq
  /-- MSI-X messages sent, oldest first (output) -/
  sent : List MsixMsg
deriving DecidableEq, Repr

abbrev Queue.reset : Queue :=
  { enabling := false, heldDb := [], heldDisable := false, cut := none, cause := 0, ahead := [],
    readFailed := false, run := none, ended := [], unannounced := 0, sinceMsg := 0, home := none, owed := none }

abbrev Engine.reset : Engine := { busy := none, used := [], ready := [], last := [], carry := [], accs := [] }

abbrev Part.reset : Part :=
  { releasing := [], zeroRel := [], grand := [], claims := [], zeroing := [], slot := 0, prior := 0, scrub := [], scrubT := false }

/-- An MSI-X entry after reset: masked (21 R755). -/
abbrev Msix.reset : Msix := ⟨0, 0, 0, 1⟩

/-- PRESUMED, log 10. -/
def HostIf.reset : HostIf :=
  { vfEnable := false, numVfs := 0, bme := [], msixOn := [], pfTab := [], pfPba := [], vfTab := [], vfPba := [],
    ctl := ⟨128, 512, 0, false⟩, linkDown := true, cut := false, trained := (0, 0, 0), l1 := false, rrs := true, training := false,
    aer := false, errFatal := false, issued := [], sent := [] }

end Sys2Proof.Machine
end

