-- ==== Sys2Proof/Machine/StateScree.lean ====
section
/-! DEFINITION. State of the Scree arrays (10_scree): macro groups and their faces, the contents of the cells, folded
scales, calibration and wear.  The T part is non-volatile (10 R363). -/

namespace Sys2Proof.Machine

/-- One macro group (10 R354, Table 10.11).  Face states: 0 INVALID, 1 VALID, 2 REWRITING, 3 DEAD. -/
structure Group where
  stA : Nat
  stB : Nat
  servB : Bool
  tagA : Nat
  tagB : Nat
  sValid : Bool
  sFmt : Nat
  tagS : Nat
  clips : Nat
  progStep : Nat
  /-- queues whose SC_PROGRAM_T rewrites face A and face B -/
  byA : Nat
  byB : Nat
deriving DecidableEq, Repr

abbrev Group.reset : Group :=
  { stA := 0, stB := 0, servB := false, tagA := 0, tagB := 0, sValid := false, sFmt := 0, tagS := 0, clips := 0,
    progStep := 0, byA := 0, byB := 0 }

/-- The calibration of a column: GAIN in units of 2^-14 and whether it was clamped, OFFSET in units of 2^-4 LSB, and the mismatch that it
leaves, in units of 2^-10 LSB (10 R346, R364, Table 10.4). -/
structure Trim where
  gain : Nat
  off : Int
  clamped : Bool
  resid : Int
deriving DecidableEq, Repr

/-- The Scree engines of the six crest dies.  A macro key is (die × 16384 + group) × 44 + position, S positions 0 to 31
and T positions 32 to 43. -/
structure Scree where
  groups : Tab Group
  /-- cell contents by (macro key × 512 + row) × 128 + output: an element or SC4 code -/
  cells : Tab (Option Nat)
  /-- folded scales by macro key × 128 + output -/
  scales : Tab Nat
  /-- by macro key × 128 + column -/
  trims : Tab (Option Trim)
  /-- evaluations served by macro key -/
  evals : Tab Nat
  /-- evaluations at the last calibration, and the die temperature then, by macro key × 8 + column group -/
  calAt : Tab Nat
  calTemp : Tab Nat
  /-- column groups being calibrated, by macro key × 8 + column group -/
  calibrating : List Nat
  /-- program counters by macro key × 514 + physical row -/
  wear : Tab Nat
  /-- physical row of a remapped row by macro key × 512 + row -/
  remap : Tab (Option Nat)
  /-- spares in use by macro key -/
  spares : Tab Nat
  /-- read-only macros by macro key -/
  readOnly : Tab Bool
deriving DecidableEq, Repr

/-- A new device: nothing programmed (DESIGN CHOICE, log 13). -/
def Scree.reset : Scree :=
  { groups := [], cells := [], scales := [], trims := [], evals := [], calAt := [], calTemp := [], calibrating := [],
    wear := [], remap := [], spares := [], readOnly := [] }

end Sys2Proof.Machine
end

