-- ==== Sys2Proof/Syntax.lean ====
section
/-! DEFINITION. The commands of the block: one constructor per row of the table of operations and events, with
its operands. -/

namespace Sys2Proof

open Sys2Proof.Machine

/-- The operations and events of the DG8-640. -/
inductive Instr where
  /-- REGISTER_WRITE: R12. -/
  | registerWrite (req : Req) (off size v : Nat)
  /-- PAIR_LO_READ: R10. -/
  | pairLoRead (req : Req) (at_ : Span)
  /-- PAIR_HI_READ: R24. -/
  | pairHiRead (req : Req) (at_ : Span)
  /-- PAIR_LO_WRITE: R10. -/
  | pairLoWrite (req : Req) (off v : Nat)
  /-- PAIR_HI_WRITE: R747. -/
  | pairHiWrite (req : Req) (off v : Nat)
  /-- COMMIT: R13. -/
  | commit (block : Nat)
  /-- TICK_TIMER_EXPIRY: R84. -/
  | tickTimerExpiry
  /-- CADIN_EDGE: R73. -/
  | cadinEdge (inTolerance : Bool)
  /-- CARD_LOST: R92. -/
  | cardLost
  /-- TICK: R76. -/
  | tick (port : Nat) (f : Frame) (link stay : Nat)
  /-- TICK_APPLY: R76. -/
  | tickApply
  /-- VOTE_WRITE: R80. -/
  | voteWrite (mask : Nat)
  /-- VOTE: R82. -/
  | vote (port : Nat) (f : Frame)
  /-- JOIN: R83. -/
  | join (port : Nat) (f : Frame)
  /-- LEAVE: R83. -/
  | leave (port : Nat) (f : Frame)
  /-- BID: R88. -/
  | bid (port : Nat) (f : Frame)
  /-- BID_TIMER: R89. -/
  | bidTimer
  /-- CAD_LOST: R92. -/
  | cadLost
  /-- FREE_RUN_TICK: R92. -/
  | freeRunTick
  /-- BID_WINDOW_END: R89. -/
  | bidWindowEnd
  /-- ELECTION_START: R729. -/
  | electionStart
  /-- RUN: R751. -/
  | run (on : Bool)
  /-- RESIGN: R91. -/
  | resign
  /-- HANDOVER: R91. -/
  | handover (port : Nat) (f : Frame)
  /-- HANDOVER_FAIL: R91. -/
  | handoverFail
  /-- CLEAR_LOST: R752. -/
  | clearLost
  /-- ARM: R96. -/
  | arm (n : Nat)
  /-- DISARM: R103. -/
  | disarm (n : Nat)
  /-- ALARM_DISPATCH: R97. -/
  | alarmDispatch
  /-- ALARM_NONE: R95. -/
  | alarmNone
  /-- ALARM_DOORBELL: R177. -/
  | alarmDoorbell
  /-- ALARM_FACE_SWAP: R356. -/
  | alarmFaceSwap
  /-- ALARM_POWER: R645. -/
  | alarmPower
  /-- ALARM_COMMIT: R748. -/
  | alarmCommit
  /-- ALARM_RESHAPE: R210. -/
  | alarmReshape
  /-- ALARM_INTERRUPT: R95. -/
  | alarmInterrupt
  /-- CHAIN_FRAME: R121. -/
  | chainFrame (port : Nat) (p : Passing)
  /-- CHAIN_SIGNAL_DETECT: R134. -/
  | chainSignalDetect (port : Nat)
  /-- CHAIN_TRAIN_TIMEOUT: R134. -/
  | chainTrainTimeout (port : Nat)
  /-- CHAIN_LINK_DOWN: R133. -/
  | chainLinkDown (port : Nat)
  /-- HOLDOFF_EXPIRY: R134. -/
  | holdoffExpiry
  /-- CHAIN_DRAIN_EXPIRY: R134. -/
  | chainDrainExpiry
  /-- HELLO_TIMER: R135. -/
  | helloTimer (port : Nat)
  /-- RING_HELLO: R135. -/
  | ringHello (port : Nat) (f : Frame) (locked : Bool)
  /-- RING_BREAK: R133. -/
  | ringBreak (port : Nat) (f : Frame)
  /-- RING_UNWRAP: R134. -/
  | ringUnwrap (port : Nat) (f : Frame)
  /-- ENUM_START: R130. -/
  | enumStart
  /-- HEAD_PORT_HOLD: R130. -/
  | headPortHold
  /-- ENUM_CLAIM: R129. -/
  | enumClaim (port : Nat) (f : Frame)
  /-- ENUM_ASSIGN: R129. -/
  | enumAssign (port : Nat) (f : Frame)
  /-- ENUM_TIMEOUT: R130. -/
  | enumTimeout
  /-- ATTACH_TIMER: R131. -/
  | attachTimer
  /-- EVENT_ATTACH: R130. -/
  | eventAttach (port : Nat) (f : Frame)
  /-- EVENT_ENUM_DONE: R129. -/
  | eventEnumDone (port : Nat) (f : Frame)
  /-- EVENT_BREAK: R700. -/
  | eventBreak (port : Nat) (f : Frame)
  /-- EVENT_UNWRAP_DONE: R130. -/
  | eventUnwrapDone (port : Nat) (f : Frame)
  /-- EVENT_SAFE_STOP: R621. -/
  | eventSafeStop (port : Nat) (f : Frame)
  /-- EVENT_DRAIN: R701. -/
  | eventDrain (port : Nat) (f : Frame)
  /-- EVENT_PANEL: R142. -/
  | eventPanel (port : Nat) (f : Frame)
  /-- EVENT_ALARM: R143. -/
  | eventAlarm (port : Nat) (f : Frame)
  /-- EVENT_AUX_LATCH: R142. -/
  | eventAuxLatch (port : Nat) (f : Frame)
  /-- RD_REQ: R137. -/
  | rdReq (port : Nat) (f : Frame)
  /-- WR_REQ: R137. -/
  | wrReq (port : Nat) (f : Frame)
  /-- RD_RSP: R139. -/
  | rdRsp (port : Nat) (f : Frame) (late : Bool)
  /-- WR_RSP: R139. -/
  | wrRsp (port : Nat) (f : Frame) (late : Bool)
  /-- CHAIN_REQ_GO: R754. -/
  | chainReqGo (n : Nat)
  /-- CHAIN_TIMEOUT: R139. -/
  | chainTimeout (n : Nat)
  /-- POWER_CAP: R667. -/
  | powerCap (port : Nat) (f : Frame)
  /-- POWER_REPORT: R667. -/
  | powerReport (port : Nat) (f : Frame)
  /-- POWER_SUPPLY: R667. -/
  | powerSupply (port : Nat) (f : Frame)
  /-- REPORT_TIMER: R667. -/
  | reportTimer
  /-- SQ_DB: R174. -/
  | sqDb (req : Req) (w : DbWrite)
  /-- CQ_DB: R175. -/
  | cqDb (req : Req) (w : DbWrite)
  /-- DESCRIPTOR_READ: R178. -/
  | descriptorRead (k : Nat) (data : List Byte) (fail : Bool)
  /-- DESCRIPTOR_START: R179. -/
  | descriptorStart (k : Nat)
  /-- LIST_READ: R168. -/
  | listRead (k : Nat) (data : List Byte) (fail : Bool)
  /-- FETCH_ERR: R185. -/
  | fetchErr (k : Nat)
  /-- DESCRIPTOR_COMPLETE: R170. -/
  | descriptorComplete (k : Nat)
  /-- COAL_TIME: R189. -/
  | coalTime (k : Nat)
  /-- Q_ENABLE: R184. -/
  | qEnable (k : Nat)
  /-- QUEUE_ENABLED: R184. -/
  | queueEnabled (k : Nat)
  /-- Q_DISABLE: R186. -/
  | qDisable (k : Nat)
  /-- QUEUE_DISABLE_DRAINED: R186. -/
  | queueDisableDrained (q : Drained)
  /-- VF_FLR: R190. -/
  | vfFlr (vf : Nat)
  /-- PF_FLR: R191. -/
  | pfFlr
  /-- BUS_MASTER_ENABLE: R192. -/
  | busMasterEnable (fn : Nat) (on msix : Bool) (pf : PfControl)
  /-- VF_ENABLE: R197. -/
  | vfEnable (en : Bool) (n : Nat)
  /-- LINK_DEGRADED: R158. -/
  | linkDegraded (rate width coding : Nat)
  /-- PCIE_LINK_DOWN: R202. -/
  | pcieLinkDown
  /-- HOST_RESET: R715. -/
  | hostReset (perst : Bool)
  /-- PARTITION_ENABLE: R208. -/
  | partitionEnable (p : Nat)
  /-- RESHAPE: R210. -/
  | reshape (p : Nat)
  /-- RELEASE_END: R210. -/
  | releaseEnd (p : Nat)
  /-- ZEROING_DONE: R211. -/
  | zeroingDone (p : Nat)
  /-- PARTITION_DISABLE: R220. -/
  | partitionDisable (p : Nat)
  /-- PARTITION_DISABLED: R220. -/
  | partitionDisabled (p : Nat)
  /-- SCRUB: R222. -/
  | scrub (p : Nat)
  /-- SCRUB_DONE: R222. -/
  | scrubDone (p : Nat)
  /-- NOP: R244. -/
  | nop (k : Nat)
  /-- WAIT: R248. -/
  | wait (k : Nat)
  /-- FENCE_TIMEOUT: R248. -/
  | fenceTimeout (k : Nat)
  /-- SIGNAL: R247. -/
  | signal (k : Nat)
  /-- CAD_WAIT: R252. -/
  | cadWait (k : Nat)
  /-- CAD_VOTE: R253. -/
  | cadVote (k : Nat)
  /-- CAD_ALARM: R254. -/
  | cadAlarm (k : Nat)
  /-- COPY: R245. -/
  | copy (k : Nat) (data : List Byte) (fail : Option Nat)
  /-- WRITE_IMM: R245. -/
  | writeImm (k : Nat)
  /-- COMMAND_START: R237. -/
  | commandStart (k : Nat)
  /-- CHUNK_DISPATCH: R241. -/
  | chunkDispatch (cls die : Nat) (c : ChunkStart)
  /-- CHUNK_END: R242. -/
  | chunkEnd (cls die idx cycles : Nat)
  /-- COMMAND_END: R234. -/
  | commandEnd (k : Nat)
  /-- STOP: R243. -/
  | stop (k : Nat)
  /-- DISABLE_GRACE: R243. -/
  | disableGrace (k : Nat)
  /-- MATMUL: R321. -/
  | matmul (t : EngineTurn)
  /-- CONVERT: R326. -/
  | convert (t : EngineTurn)
  /-- OPT_STEP: R329. -/
  | optStep (t : EngineTurn)
  /-- ROWOP: R327. -/
  | rowop (t : EngineTurn)
  /-- SUMMIT_CUTOFF: R319. -/
  | summitCutoff (die idx cycles : Nat)
  /-- SC_MVM: R368. -/
  | scMvm (t : EngineTurn)
  /-- SC_WRITE_S: R359. -/
  | scWriteS (t : EngineTurn)
  /-- SC_PROGRAM_T: R360. -/
  | scProgramT (k : Nat)
  /-- T_BLOCK_PROGRAM: R360. -/
  | tBlockProgram (k x : Nat) (pass : Bool)
  /-- SC_SWAP: R370. -/
  | scSwap (t : EngineTurn)
  /-- SC_CAL: R370. -/
  | scCal (t : EngineTurn)
  /-- SC_QUERY: R371. -/
  | scQuery (t : EngineTurn)
  /-- SCREE_CUTOFF: R368. -/
  | screeCutoff (die lane cycles : Nat)
  /-- CALIBRATION: R365. -/
  | calibration (die g pos cg : Nat)
  /-- CALIBRATION_DONE: R364. -/
  | calibrationDone (die g pos cg : Nat)
  /-- CN_GATHER: R389. -/
  | cnGather (t : EngineTurn)
  /-- CN_SCATTER: R390. -/
  | cnScatter (t : EngineTurn)
  /-- CN_UPDATE: R396. -/
  | cnUpdate (t : EngineTurn)
  /-- CAIRN_CUTOFF: R405. -/
  | cairnCutoff (die cycles : Nat)
  /-- SD_SELECT: R437. -/
  | sdSelect (t : EngineTurn)
  /-- SD_TAKE: R438. -/
  | sdTake (t : EngineTurn)
  /-- SD_BUILD: R439. -/
  | sdBuild (t : EngineTurn)
  /-- SD_PROBE: R439. -/
  | sdProbe (t : EngineTurn)
  /-- SD_GROUP: R440. -/
  | sdGroup (t : EngineTurn)
  /-- SD_NORM: R441. -/
  | sdNorm (t : EngineTurn)
  /-- SD_TOPK: R442. -/
  | sdTopk (t : EngineTurn)
  /-- SD_SORT: R443. -/
  | sdSort (t : EngineTurn)
  /-- SD_SAMPLE: R444. -/
  | sdSample (t : EngineTurn)
  /-- SADDLE_CUTOFF: R446. -/
  | saddleCutoff (die cycles : Nat)
  /-- KERNEL_INVOCATION: R430. -/
  | kernelInvocation (k c : Nat)
  /-- KERNEL_LIMIT: R431. -/
  | kernelLimit (c : Nat)
  /-- ADD: R466. -/
  | add (c : Nat)
  /-- SUB: R466. -/
  | sub (c : Nat)
  /-- ADC: R466. -/
  | adc (c : Nat)
  /-- PSET: R462. -/
  | pset (c : Nat)
  /-- AND: R466. -/
  | andI (c : Nat)
  /-- OR: R466. -/
  | orI (c : Nat)
  /-- XOR: R466. -/
  | xorI (c : Nat)
  /-- MOV: R463. -/
  | mov (c : Nat)
  /-- CMP: R466. -/
  | cmp (c : Nat)
  /-- ADDI: R466. -/
  | addi (c : Nat)
  /-- MOVI: R463. -/
  | movi (c : Nat)
  /-- CMPI: R466. -/
  | cmpi (c : Nat)
  /-- ADDX: R465. -/
  | addx (c : Nat)
  /-- ANDX: R465. -/
  | andx (c : Nat)
  /-- ORX: R465. -/
  | orx (c : Nat)
  /-- XORX: R465. -/
  | xorx (c : Nat)
  /-- CMPX: R465. -/
  | cmpx (c : Nat)
  /-- MOVX: R465. -/
  | movx (c : Nat)
  /-- MOVL: R465. -/
  | movl (c : Nat)
  /-- TSTX: R465. -/
  | tstx (c : Nat)
  /-- SHV: R467. -/
  | shv (c : Nat)
  /-- MULU: R468. -/
  | mulu (c : Nat)
  /-- NEG: R466. -/
  | neg (c : Nat)
  /-- NOT: R466. -/
  | notI (c : Nat)
  /-- SXTB: R463. -/
  | sxtb (c : Nat)
  /-- SXTH: R463. -/
  | sxth (c : Nat)
  /-- ZXTB: R463. -/
  | zxtb (c : Nat)
  /-- ZXTH: R463. -/
  | zxth (c : Nat)
  /-- SHL: R467. -/
  | shl (c : Nat)
  /-- SHR: R467. -/
  | shr (c : Nat)
  /-- SAR: R467. -/
  | sar (c : Nat)
  /-- ROR: R467. -/
  | ror (c : Nat)
  /-- LD: R464. -/
  | ld (c : Nat)
  /-- LDS: R464. -/
  | lds (c : Nat)
  /-- ST: R464. -/
  | st (c : Nat)
  /-- LEA: R464. -/
  | lea (c : Nat)
  /-- BR: R497. -/
  | br (c : Nat)
  /-- JMP: R497. -/
  | jmp (c : Nat)
  /-- CALL: R470. -/
  | call (c : Nat)
  /-- JMPR: R497. -/
  | jmpr (c : Nat)
  /-- CALLR: R470. -/
  | callr (c : Nat)
  /-- REP: R473. -/
  | rep (c : Nat)
  /-- BLC: R484. -/
  | blc (c : Nat)
  /-- MFC: R480. -/
  | mfc (c : Nat)
  /-- MTC: R480. -/
  | mtc (c : Nat)
  /-- RIDGE_NOP: R463. -/
  | ridgeNop (c : Nat)
  /-- RET: R472. -/
  | ret (c : Nat)
  /-- RETI: R474. -/
  | reti (c : Nat)
  /-- SYNC: R513. -/
  | sync (c : Nat)
  /-- IFLUSH: R481. -/
  | iflush (c : Nat)
  /-- HALT: R477. -/
  | halt (c : Nat)
  /-- BRK: R475. -/
  | brk (c : Nat)
  /-- TRAP: R475. -/
  | trap (c : Nat)
  /-- MUL: R468. -/
  | mul (c : Nat)
  /-- MAC: R498. -/
  | mac (c : Nat)
  /-- RDM: R468. -/
  | rdm (c : Nat)
  /-- WRM: R498. -/
  | wrm (c : Nat)
  /-- MOVS: R473. -/
  | movs (c n : Nat)
  /-- FILS: R473. -/
  | fils (c n : Nat)
  /-- SCNS: R473. -/
  | scns (c n : Nat)
  /-- MACM: R469. -/
  | macm (c n : Nat)
  /-- MACMU: R469. -/
  | macmu (c n : Nat)
  /-- MOVB: R463. -/
  | movb (c : Nat)
  /-- MOVG: R463. -/
  | movg (c : Nat)
  /-- GUARD: R462. -/
  | guard (c : Nat)
  /-- PNOT: R462. -/
  | pnot (c : Nat)
  /-- PCLR: R462. -/
  | pclr (c : Nat)
  /-- INTERRUPT_ENTRY: R477. -/
  | interruptEntry (c levels : Nat)
  /-- INTERRUPT_TAKEOVER: R511. -/
  | interruptTakeover (c levels b : Nat)
  /-- IMPRECISE_TRAP: R476. -/
  | impreciseTrap (c : Nat)
  /-- FAR_LOAD_DATA: R500. -/
  | farLoadData (c part lat : Nat) (err : Bool)
  /-- FAR_STORE_COMPLETE: R500. -/
  | farStoreComplete (c part : Nat) (err : Bool)
  /-- TIMER: R477. -/
  | timer (c : Nat)
  /-- LANE_STOP: R508. -/
  | laneStop (c : Nat)
  /-- EXT_APPLY: R541. -/
  | extApply
  /-- EXT_DONE: R541. -/
  | extDone (commitFails : Bool)
  /-- PATROL_READ: R536. -/
  | patrolRead (die : Nat)
  /-- CXL_PORT_LOST: R543. -/
  | cxlPortLost (p : Nat) (linkDown : Bool)
  /-- EXPANDER_EVENT: R542. -/
  | expanderEvent (p : Nat) (records : List Nat)
  /-- HEALTH_POLL: R542. -/
  | healthPoll (p status : Nat)
  /-- FLIT_ROUTE: R569. -/
  | flitRoute (port : Nat) (f : Flit) (stay : Nat)
  /-- LINK: R565. -/
  | link (port : Nat) (m : LinkMsg)
  /-- LINK_HELLO: R567. -/
  | linkHello (port : Nat) (h : Hello)
  /-- LINK_NAK: R566. -/
  | linkNak (port : Nat)
  /-- PUT: R578. -/
  | put (port : Nat) (f : Flit)
  /-- GET_REQ: R580. -/
  | getReq (port : Nat) (f : Flit)
  /-- GET_DATA: R580. -/
  | getData (port : Nat) (f : Flit)
  /-- ACK: R577. -/
  | ack (port : Nat) (f : Flit)
  /-- COLL_DATA: R582. -/
  | collData (port : Nat) (f : Flit)
  /-- COLL_READY: R581. -/
  | collReady (port : Nat) (f : Flit)
  /-- COLL_NAK: R581. -/
  | collNak (port : Nat) (f : Flit)
  /-- COLL_ABORT: R581. -/
  | collAbort (port : Nat) (f : Flit)
  /-- COLL_DONE: R584. -/
  | collDone (port : Nat) (f : Flit)
  /-- COLL_CREDIT: R581. -/
  | collCredit (port : Nat) (f : Flit)
  /-- CTRL0: R564. -/
  | ctrl0 (port : Nat) (f : Flit) (stay : Nat)
  /-- UNIT_LOST: R567. -/
  | unitLost (port : Nat) (f : Flit)
  /-- READY_REPEAT: R581. -/
  | readyRepeat (k : Nat)
  /-- ACK_TIMEOUT: R577. -/
  | ackTimeout (tag : Nat)
  /-- COLL_TIMEOUT: R581. -/
  | collTimeout (k : Nat)
  /-- CL_PUT: R589. -/
  | clPut (t : EngineTurn)
  /-- CL_GET: R580. -/
  | clGet (t : EngineTurn)
  /-- CL_COLL: R581. -/
  | clColl (t : EngineTurn)
  /-- COL_CUTOFF: R591. -/
  | colCutoff (die cycles : Nat)
  /-- PORT_ENABLE: R567. -/
  | portEnable (port : Nat) (on signal : Bool)
  /-- PORT_LOCK: R567. -/
  | portLock (port : Nat)
  /-- PORT_TRAIN_TIMEOUT: R567. -/
  | portTrainTimeout (port : Nat)
  /-- FABRIC_PORT_DOWN: R567. -/
  | fabricPortDown (port : Nat)
  /-- PORT_HELLO_TIMER: R568. -/
  | portHelloTimer (port : Nat)
  /-- ENCAP_FRAME: R587. -/
  | encapFrame (port : Nat) (f : EFrame)
  /-- ENCAP_RTO: R587. -/
  | encapRto (ident cls : Nat)
  /-- SHELF_DEGRADED: R33. -/
  | shelfDegraded (l : Nat)
  /-- SHELF_LINK_DOWN: R45. -/
  | shelfLinkDown (l : Nat) (qs : List Nat)
  /-- SHELF_RETRAIN_DONE: R46. -/
  | shelfRetrainDone (l : Nat)
  /-- VOTER_VERDICT: R613. -/
  | voterVerdict (sa sb sc cycle : Nat) (agree : Bool)
  /-- WARDEN_WATCHDOG: R616. -/
  | wardenWatchdog
  /-- RESYNC: R614. -/
  | resync
  /-- RESYNC_DONE: R614. -/
  | resyncDone (ok : Bool)
  /-- FORCE_SAFE_STOP: R623. -/
  | forceSafeStop
  /-- FAULT_REPORT: R619. -/
  | faultReport (d : Option Detect) (qs : List Nat)
  /-- SAFE_STOP: R621. -/
  | safeStop (code arg core : Nat)
  /-- SAFE_STOP_ENGINES_STOPPED: R621. -/
  | safeStopEnginesStopped
  /-- REFCLK_LOSS: R623. -/
  | refclkLoss
  /-- AON_CLOCK_LOSS: R623. -/
  | aonClockLoss
  /-- ENGINE_HANG: R623. -/
  | engineHang (cls die idx : Nat)
  /-- RESET_ARM: R627. -/
  | resetArm (req : Nat)
  /-- RESET_GO: R716. -/
  | resetGo (req : Nat)
  /-- POWER_REQ: R645. -/
  | powerReq (st dom : Nat)
  /-- DOMAIN_TRANSITION_DONE: R646. -/
  | domainTransitionDone (d : Nat)
  /-- WAKE: R649. -/
  | wake (d : Nat) (edge : Bool)
  /-- WAKE_IN: R649. -/
  | wakeIn (high : Bool)
  /-- WAKE_DELAY_DONE: R651. -/
  | wakeDelayDone (d : Nat)
  /-- RAIL_ACK: R659. -/
  | railAck (r now : Nat)
  /-- RAIL_FAULT: R663. -/
  | railFault (r : Nat)
  /-- AVS_ADJUST: R662. -/
  | avsAdjust (r mv : Nat)
  /-- THERMAL_THRESHOLD: R665. -/
  | thermalThreshold (die temp : Nat)
  /-- THERMAL_TRIP: R661. -/
  | thermalTrip (die : Nat)
  /-- THROTTLE_RELEASE: R665. -/
  | throttleRelease (die temp : Nat)
  /-- CAP_ESTIMATE: R666. -/
  | capEstimate (w avg : Nat) (step undo : Bool)
  /-- SUPPLY_LOW: R670. -/
  | supplyLow (mv : Nat)
  /-- SUPPLY_GRACE: R670. -/
  | supplyGrace
  /-- SUPPLY_RETURNED: R671. -/
  | supplyReturned (mv : Nat)
  /-- SUPPLY_RESTART: R670. -/
  | supplyRestart
  /-- AUX_EN: R673. -/
  | auxEn (w : AuxWrite)
  /-- AUX_FAIL: R673. -/
  | auxFail
  /-- AUX_RETRY: R673. -/
  | auxRetry
  /-- AUX_STABLE: R673. -/
  | auxStable
  /-- AUX_CLEAR: R674. -/
  | auxClear
  /-- RES_CLEAR: R668. -/
  | resClear
  /-- KEY_MEASURE: R690. -/
  | keyMeasure (k count : Nat)
  /-- LONG: R694. -/
  | long (k : Nat)
  /-- DRIFT_STEP: R692. -/
  | driftStep
  /-- REBASE: R691. -/
  | rebase
  /-- PANEL_PRESENT: R688. -/
  | panelPresent (high : Bool) (ms : Nat)
  /-- DRAIN_REQ: R697. -/
  | drainReq
  /-- DRAIN_WITHDRAW: R697. -/
  | drainWithdraw
  /-- DRAIN_GRANT: R699. -/
  | drainGrant
  /-- DRAINED: R697. -/
  | drained
  /-- SAFE: R699. -/
  | safe
  /-- PAGE_TIMEOUT: R703. -/
  | pageTimeout
  /-- DISPLAY_REFRESH: R704. -/
  | displayRefresh (acked : Bool)
  /-- POWER_ON_RESET: R715. -/
  | powerOnReset
  /-- BRINGUP: R721. -/
  | bringup (a : BringAns)
  /-- BOOT_LOAD: R724. -/
  | bootLoad (data : List Byte) (fail : Bool)
  /-- EXPANDER_ATTACH: R726. -/
  | expanderAttach (p cap rate width poison health : Nat)
  /-- XP_WAIT_EXPIRY: R721. -/
  | xpWaitExpiry
  /-- DIE_STARTUP: R731. -/
  | dieStartup (d : Nat) (ok : Bool)
  /-- SHUTDOWN_ARM: R733. -/
  | shutdownArm (req : Nat)
  /-- SHUTDOWN_GO: R733. -/
  | shutdownGo (req : Nat)
  /-- SHUTDOWN_ABORT: R734. -/
  | shutdownAbort
  /-- POINT_OF_NO_RETURN: R733. -/
  | pointOfNoReturn
  /-- RESERVED_ENCODING: R479. -/
  | reservedEncoding (c : Nat)
  /-- FACE_WAIT_TIMEOUT: R355. -/
  | faceWaitTimeout (k : Nat)
  /-- FABRIC_SIGNAL_PRESENT: R567. -/
  | fabricSignalPresent (port : Nat)
  /-- PORT_TRAIN_RETRY: R567. -/
  | portTrainRetry (port : Nat)
  /-- PERST_N_RELEASE: R728. -/
  | perstNRelease
  /-- HOST_LINK_L1: R645. -/
  | hostLinkL1 (on : Bool)
  /-- ENUM_QUEUED_START: R130. -/
  | enumQueuedStart
deriving DecidableEq, Repr

end Sys2Proof
end

