-- ==== Sys2Proof/Machine/State.lean ====
section
/-! DEFINITION. The state of one DG8-640 as plain data: every set-up register in the register file, and beside it
everything the spec gives the machine that no register shows; the queue of commands that wait; and the state
right after power-on reset. -/

namespace Sys2Proof.Machine

/-- Why the machine stops.  No command of the model stops with a fault: every rule of the spec gives its failing
cases an effect (a status, a flag, a trap), so this type is empty of uses and holds one name only (DESIGN CHOICE, log 107). -/
inductive Fault where
  /-- raised by no command; safe -/
  | none
deriving DecidableEq, Repr

/-- Why a command has no meaning. -/
inductive Refusal where
  /-- the command of that mnemonic is not modelled yet; safe -/
  | notModelled (mnemonic : String)
deriving DecidableEq, Repr

/-- The unit: registers, memories and engines. -/
structure Dev where
  /-- always-on cycles of 40 ns since power-on reset (00 R8) -/
  now : Nat
  /-- free values drawn so far: the model's own counter, not the spec's -/
  free : Nat
  /-- active registers by BAR0 offset (21 R743) -/
  regs : Tab Word
  /-- shadows of the SH fields by BAR0 offset (00 R13) -/
  shadow : Tab Word
  /-- captured _HI values by requester and offset (00 R10, R24) -/
  caps : Tab (Option Word)
  /-- held _LO writes by requester and offset (00 R10) -/
  held : Tab (Option Word)
  cad : Cad
  /-- armed copies of the alarms (03 R94) -/
  alarms : Tab (Option AlarmCopy)
  /-- dispatches begun, in order (03 R100) -/
  dispatch : List Dispatch
  chain : Chain
  fab : Fab
  host : HostIf
  /-- host memory, in the environment -/
  hostMem : Tab Byte
  /-- host 64 B blocks written with EP set (15 R544) -/
  hostPoison : Tab Bool
  /-- queue i of partition p at 32 p + i -/
  queues : Tab Queue
  engines : Tab Engine
  parts : Tab Part
  /-- tarn, Col SRAM, warden memory and expander memory by storage key (15 R524) -/
  mem : Tab Byte
  /-- state of the ECC words that are not clean, by storage key / 8: 1 correctable, 2 address error, 3 poisoned (15 R532) -/
  ecc : Tab Nat
  ext : Ext
  /-- the Scree arrays of the crest dies (10) -/
  scree : Scree
  /-- the Ridge cores by master identity (13 R456) -/
  cores : Tab Core
  /-- faults detected and not yet taken by the warden, oldest first (17 R619) -/
  reports : List Report
  /-- domains on which a wake has been requested (18 R649) -/
  wakes : Tab Bool
  /-- sticky flags of the chunk in progress (08 R293) -/
  flagAcc : Nat
  /-- what that chunk holds of the Scree arrays -/
  holdAcc : List Hold
  /-- why work is held: 0 supply low (18 R670), 1 drain (19 R698), 2 safe stop (17 R621), 3 shut-down (20 R733) -/
  pauses : Tab Bool
  /-- last matching pair of each pair-generation block, by the block's offset; not listed: the reset values (07 R265) -/
  pairs : Tab (List Word)
  /-- register accesses that wait for a domain to wake, in order (18 R650) -/
  waiting : List Access
  /-- what the last register read returned, in its low bytes (output) -/
  lastRead : Option Quad
  warden : Warden
  pwr : Pwr
  panel : Panel
  boot : Boot
deriving DecidableEq, Repr

/-- The machine: the unit and the queue of commands that wait, first in, first out. -/
structure State where
  dev : Dev
  pending : List Instr
deriving DecidableEq, Repr

/-- The unit after power-on reset (20 R715) (DESIGN CHOICE, log 9). -/
def Dev.reset : Dev :=
  { now := 0, free := 0, regs := [], shadow := [], caps := [], held := [], cad := Cad.reset, alarms := [],
    dispatch := [], chain := Chain.reset, fab := Fab.reset, host := HostIf.reset, hostMem := [], hostPoison := [], queues := [],
    engines := [], parts := [], mem := [], ecc := [], ext := Ext.reset, scree := Scree.reset, reports := [], wakes := [], flagAcc := 0, holdAcc := [], pauses := [],
    pairs := [], waiting := [], lastRead := none, cores := [], warden := Warden.reset, pwr := Pwr.reset, panel := Panel.reset, boot := Boot.reset }

/-- The machine right after reset: nothing commanded yet (DEDUCED, log 4). -/
def State.reset : State := { dev := Dev.reset, pending := [] }

end Sys2Proof.Machine
end

