-- ==== Sys2Proof/Machine/Ops.lean ====
section
/-! DEFINITION. The named operations over the register file, the interrupts and the position: every command reads
and writes registers through these. -/

namespace Sys2Proof.Machine

/-- Run a unit operation as a meaning, powered or not: always a next state, the queue untouched. -/
def onRaw (f : Dev → Dev) (s : State) : Host.Outcome State Fault Refusal :=
  .next { s with dev := f s.dev }

/-- Run a unit operation as a meaning; a unit that is Off or held in reset does nothing (18 R642, R670; 20 R715). -/
def onDev (f : Dev → Dev) (s : State) : Host.Outcome State Fault Refusal :=
  onRaw (fun d => if d.pwr.off = 0 then f d else d) s

/-! ### Bits and words -/

/-- Bits of a number: `w` bits from `lo`. -/
def bitsOf (v lo w : Nat) : Nat := v / 2 ^ lo % 2 ^ w

/-- The number with `w` bits from `lo` replaced. -/
def putBits (v lo w x : Nat) : Nat := v - bitsOf v lo w * 2 ^ lo + x % 2 ^ w * 2 ^ lo

/-- Bit `i` of a number. -/
def bitAt (v i : Nat) : Bool := bitsOf v i 1 == 1

/-- The number with bit `i` set. -/
def setBit (v i : Nat) : Nat := putBits v i 1 1

/-- The number with bit `i` clear. -/
def clearBit (v i : Nat) : Nat := putBits v i 1 0

/-- One for true. -/
def b2n (b : Bool) : Nat := if b then 1 else 0

/-- The `i`-th word of a list, zero beyond its end. -/
def wordAt (l : List Word) (i : Nat) : Nat := (l.getD i 0).toNat

/-- The words `n`, low word first (00 R7). -/
def words64 (v : Nat) : List Word := [BitVec.ofNat 32 v, BitVec.ofNat 32 (v / 2 ^ 32)]

/-- Little-endian bytes of a number (00 R7). -/
def leBytes (v : Nat) : Nat → List Byte
  | 0 => []
  | n + 1 => BitVec.ofNat 8 v :: leBytes (v / 256) n

/-- The number that little-endian bytes spell (00 R7). -/
def leNat : List Byte → Nat
  | [] => 0
  | b :: bs => b.toNat + 256 * leNat bs

/-- Words from little-endian bytes; bytes that fill no word are dropped. -/
def wordsOfBytes : List Byte → List Word
  | a :: b :: c :: d :: t => BitVec.ofNat 32 (leNat [a, b, c, d]) :: wordsOfBytes t
  | _ => []

/-- Little-endian bytes of words. -/
def bytesOfWords : List Word → List Byte
  | [] => []
  | w :: t => leBytes w.toNat 4 ++ bytesOfWords t

/-- Eight steps of the reflected CRC32C. -/
def crcBits : Nat → Nat → Nat
  | 0, v => v
  | n + 1, v => crcBits n (if v % 2 = 1 then v / 2 ^^^ 0x82F63B78 else v / 2)

/-- The CRC32C of bytes (04 R120, 12 R423). -/
def crc32c (bs : List Byte) : Nat :=
  bs.foldl (fun v b => crcBits 8 (v ^^^ b.toNat)) 0xFFFFFFFF ^^^ 0xFFFFFFFF

/-- A two's complement number of `w` bits. -/
def sext (v w : Nat) : Int := if v % 2 ^ w < 2 ^ (w - 1) then (v % 2 ^ w : Nat) else (v % 2 ^ w : Nat) - 2 ^ w

/-- The `w`-bit two's complement encoding of an integer. -/
def wrapInt (v : Int) (w : Nat) : Nat := (v % (2 ^ w : Nat)).toNat

/-! ### The register file -/

/-- The value after power-on reset that the field tables give the register at an offset (00 R12, R14: reserved
bits read 0) (DESIGN CHOICE, log 8). -/
def regDefault (off : Nat) : Word :=
  if 0x3A0100C ≤ off ∧ off < 0x3A01380 ∧ (off - 0x3A0100C) % 0x40 = 0 then
    -- RAIL_ACK_TIMEOUT: 100 µs on AVSBus rails, 2,000 µs on PMBus rails (18 R659)
    if [6, 7, 10, 11, 12, 13].contains ((off - 0x3A0100C) / 0x40) then 2000 else 100
  else
    BitVec.ofNat 32 ((resetFields.map fun f => if (f.index off).isSome then f.rst * 2 ^ f.lo else 0).sum)

/-- The active register at a BAR0 offset. -/
def Dev.reg (s : Dev) (off : Nat) : Word := Tab.get (regDefault off) s.regs off

/-- Set the active register at a BAR0 offset. -/
def Dev.setReg (s : Dev) (off : Nat) (w : Word) : Dev :=
  { s with regs := Tab.set (regDefault off) s.regs off w }

/-- The shadow register at a BAR0 offset (00 R13). -/
def Dev.shadowReg (s : Dev) (off : Nat) : Word := Tab.get (regDefault off) s.shadow off

/-- The active value of a field. -/
def Dev.get (s : Dev) (f : Fld) (ix : List Nat := []) : Nat := bitsOf (s.reg (f.off ix)).toNat f.lo f.w

/-- Is the one-bit field set? -/
def Dev.flag (s : Dev) (f : Fld) (ix : List Nat := []) : Bool := s.get f ix == 1

/-- Set the active value of a field. -/
def Dev.put (s : Dev) (f : Fld) (ix : List Nat) (v : Nat) : Dev :=
  s.setReg (f.off ix) (BitVec.ofNat 32 (putBits (s.reg (f.off ix)).toNat f.lo f.w v))

/-- Set a field of a register that lies in no array. -/
def Dev.put0 (s : Dev) (f : Fld) (v : Nat) : Dev := s.put f [] v

/-- A 64-bit pair of fields. -/
def Dev.get64 (s : Dev) (lo hi : Fld) (ix : List Nat := []) : Nat := s.get lo ix + 2 ^ 32 * s.get hi ix

/-- Set a 64-bit pair of fields. -/
def Dev.put64 (s : Dev) (lo hi : Fld) (ix : List Nat) (v : Nat) : Dev :=
  (s.put lo ix v).put hi ix (v / 2 ^ 32)

/-- Add one to a counter, which saturates at its largest value (21 R746). -/
def Dev.count (s : Dev) (f : Fld) (ix : List Nat := []) : Dev :=
  s.put f ix (min (s.get f ix + 1) (2 ^ f.w - 1))

/-- Add to a counter, which saturates (21 R746). -/
def Dev.countBy (s : Dev) (f : Fld) (ix : List Nat) (n : Nat) : Dev :=
  s.put f ix (min (s.get f ix + n) (2 ^ f.w - 1))

/-- Apply an operation for every index of a list, in order. -/
def Dev.forEach {α : Type} (s : Dev) (l : List α) (f : Dev → α → Dev) : Dev := l.foldl f s

/-! ### Free values -/

/-- Draw one word the spec leaves undefined. -/
def Dev.drawWord (s : Dev) : Word × Dev := (Config.freeWord s.free, { s with free := s.free + 1 })

/-- Draw one choice the spec leaves to the device, below a bound. -/
def Dev.drawBelow (s : Dev) (n : Nat) : Nat × Dev :=
  (Config.freeNat s.free % max n 1, { s with free := s.free + 1 })

/-! ### Power states and dies -/

/-- Power states of a domain (18 R642): 0 Run, 1 Trim, 2 Doze, 3 Keep, 4 Off. -/
abbrev stRun : Nat := 0
abbrev stTrim : Nat := 1
abbrev stDoze : Nat := 2
abbrev stKeep : Nat := 3
abbrev stOff : Nat := 4

/-- Is die `d` present (20 R727)? -/
def Dev.diePresent (s : Dev) (d : Nat) : Bool := bitAt (s.get F.DIE_PRESENT) d

/-- Has die `d` been lost (17 R620)? -/
def Dev.dieIsLost (s : Dev) (d : Nat) : Bool := bitAt (s.get F.DIE_LOST) d

/-- The power domain that holds crest die `d`'s engines and tarn, or a col die's switch (18 R641): domains 0 to 5
are CREST_0 to CREST_5, 6 and 7 the switches. -/
def dieDomain (d : Nat) : Nat := d

/-- Is the die absent, Off or lost (01 R44, 21 R744)? -/
def Dev.dieGone (s : Dev) (d : Nat) : Bool :=
  !s.diePresent d || s.dieIsLost d || s.get F.DOM_STATE [dieDomain d] == stOff

/-- Is the domain in Doze or Keep, or on its way there (18 R647)? -/
def Dev.domAsleep (s : Dev) (d : Nat) : Bool :=
  s.get F.DOM_STATE [d] == stDoze || s.get F.DOM_STATE [d] == stKeep ||
  match Tab.get none s.pwr.flight d with
  | some f => decide (stDoze ≤ f.target)
  | none => false

/-- Is the die in Doze or Keep (01 R44)? -/
def Dev.dieAsleep (s : Dev) (d : Nat) : Bool := s.domAsleep (dieDomain d)

/-- The state that a domain's residency counts in: of the two states of a transition the higher (18 R668); 12 is the
unit, whose state is that of MGMT (18 R642). -/
def Dev.resState (s : Dev) (d : Nat) : Nat :=
  let d := if d = 12 then 8 else d
  match Tab.get none s.pwr.flight d with
  | some f => min (s.get F.DOM_STATE [d]) f.target
  | none => s.get F.DOM_STATE [d]

/-- Add one to the residency of every domain and of the unit in a table (18 R668). -/
def Dev.residency (s : Dev) (t : Tab Nat) : Tab Nat :=
  (List.range 13).foldl (fun t d => Tab.upd 0 t (5 * d + s.resState d) fun n => (n + 1) % 2 ^ 64) t

/-! ### Interrupts (05 R188, R189) -/

/-- Has a safe stop or a regulator-disable step ended every host request (17 R621, 18 R670, 20 R733)? -/
def Dev.hostShut (s : Dev) : Bool := Tab.get false s.pauses 2 || Tab.get false s.pauses 4

/-- May function `fn` (0 the PF, k VF k) issue requests to the host (05 R192, R202)? -/
def Dev.canMaster (s : Dev) (fn : Nat) : Bool :=
  Tab.get false s.host.bme fn && !s.flag F.PF_D3HOT && !s.host.linkDown && !s.host.cut && !s.hostShut

/-- Is partition `p` owned by its VF (05 R160, R197)? -/
def Dev.vfOwned (s : Dev) (p : Nat) : Bool := bitAt (s.get64 F.VF_OWNED_LO F.VF_OWNED_HI) p

/-- The function that owns partition `p`: 0 the PF, or its VF number. -/
def Dev.owner (s : Dev) (p : Nat) : Nat := if s.vfOwned p then p + 1 else 0

/-- Send or hold pending one MSI-X message of the PF; vectors 8 to 15 are never raised, and there are 2,048 (05 R188, Table 5.10). -/
def Dev.raisePf (s : Dev) (v : Nat) : Dev :=
  if (8 ≤ v ∧ v < 16) ∨ 2048 ≤ v then s else
  let e := Tab.get Msix.reset s.host.pfTab v
  if Tab.get false s.host.msixOn 0 && e.ctrl.getLsbD 0 == false && s.canMaster 0 then
    { s with host := { s.host with
        sent := s.host.sent ++ [⟨none, v, e.addrLo.toNat + 2 ^ 32 * e.addrHi.toNat, e.data.toNat, .plain 0⟩]
        pfPba := Tab.set false s.host.pfPba v false } }
  else { s with host := { s.host with pfPba := Tab.set false s.host.pfPba v true } }

/-- Send or hold pending one MSI-X message of VF `k`, which has 32 vectors. -/
def Dev.raiseVf (s : Dev) (k v : Nat) : Dev :=
  if 32 ≤ v then s else
  let e := Tab.get Msix.reset s.host.vfTab (32 * k + v)
  if Tab.get false s.host.msixOn k && e.ctrl.getLsbD 0 == false && s.canMaster k then
    { s with host := { s.host with
        sent := s.host.sent ++ [⟨some k, v, e.addrLo.toNat + 2 ^ 32 * e.addrHi.toNat, e.data.toNat, .plain k⟩]
        vfPba := Tab.set false s.host.vfPba (32 * k + v) false } }
  else { s with host := { s.host with vfPba := Tab.set false s.host.vfPba (32 * k + v) true } }

/-- Raise vector `v` of the function that owns partition `p`. -/
def Dev.raiseOwner (s : Dev) (p v : Nat) : Dev :=
  if s.vfOwned p then s.raiseVf (p + 1) v else s.raisePf v

/-- The partition event vector: vector 0 of the VF, or PF vector 16 + p (05 R188). -/
def Dev.raiseEvent (s : Dev) (p : Nat) : Dev :=
  if s.vfOwned p then s.raiseVf (p + 1) 0 else s.raisePf (16 + p)

/-- Set bit `b` of the partition events (06 R206) and raise the event vector when its enable is set. -/
def Dev.partEvent (s : Dev) (p b : Nat) : Dev :=
  let s := s.put F.P_EVENTS [p] (setBit (s.get F.P_EVENTS [p]) b)
  if bitAt (s.get F.P_EVT_EN [p]) b then s.raiseEvent p else s

/-- Set an event bit of a status register and raise PF vector `v` when bit `b` of the enable field is set. -/
def Dev.event (s : Dev) (f en : Fld) (b v : Nat) : Dev :=
  let s := s.put0 f 1
  if bitAt (s.get en) b then s.raisePf v else s

/-- A cadence event: CAD_STATUS bit 8 + b, PF vector 1 (21 R751). -/
def Dev.cadEvent (s : Dev) (f : Fld) (b : Nat) : Dev := s.event f F.CAD_IRQ_EN b 1

/-- A chain event: CHAIN_STATUS bit 8 + b, PF vector 2 (21 R753). -/
def Dev.chainEvent (s : Dev) (f : Fld) (b : Nat) : Dev := s.event f F.CHAIN_IRQ_EN b 2

/-- A power event: bit 8 + b of the power status, PF vector 4 (18 R675). -/
def Dev.pwrEvent (s : Dev) (f : Fld) (b : Nat) : Dev := s.event f F.PWR_IRQ_EN b 4

/-- A panel event: PANEL_STATUS bit 8 + b, PF vector 5 (19 R705). -/
def Dev.panelEvent (s : Dev) (f : Fld) (b : Nat) : Dev := s.event f F.PANEL_IRQ_EN b 5

/-- A fabric event: FAB_STATUS bit b, PF vector 7 (21 R760). -/
def Dev.fabEvent (s : Dev) (f : Fld) (b : Nat) : Dev := s.event f F.FAB_IRQ_EN b 7

/-- The state of the drain changes: DRAIN_EV, page 2, and the queues' pause (19 R697, R698, R703). -/
def Dev.setDrain (s : Dev) (st : Nat) : Dev :=
  let s := { s with pauses := Tab.set false s.pauses 1 (decide (2 ≤ st)) }
  ((s.put0 F.DRAIN_STATE st).put0 F.PAGE 2).panelEvent F.DRAIN_EV 2

/-- The HOST domain follows the link and the PF's D-state: Run in L0, Doze in L1, Keep in D3hot or without a link
(18 R645). -/
def Dev.fixHost (s : Dev) : Dev :=
  s.put F.DOM_STATE [9] (if s.host.linkDown || s.flag F.PF_D3HOT then stKeep else if s.host.l1 then stDoze else stRun)

/-- Ask a sleeping domain to wake (18 R649, R650). -/
def Dev.wakeReq (s : Dev) (d : Nat) : Dev := { s with wakes := Tab.set false s.wakes d true }

/-- An edge source wakes a domain: lost in the first four cycles of an entry, without effect on a domain that is awake
(18 R649, R653, R680). -/
def Dev.edgeWake (s : Dev) (d : Nat) : Dev :=
  if !s.domAsleep d then s
  else match Tab.get none s.pwr.flight d with
  | some f => if stDoze ≤ f.target ∧ s.now < f.since + 4 then s.count F.WAKE_LOST_COUNT else s.wakeReq d
  | none => s.wakeReq d

/-- Ask the domains of WAKE_SET to wake (18 Table 18.3). -/
def Dev.wakeSet (s : Dev) : Dev :=
  s.forEach ((List.range 10).filter fun d => bitAt (s.get F.WAKE_SET) d && s.domAsleep d) fun s d => s.wakeReq d

/-! ### The position (03 R66, R67) -/

/-- One position precedes another. -/
def Pos.lt (a b : Pos) : Bool :=
  decide (a.step < b.step) || (a.step == b.step && (decide (a.phase < b.phase) ||
    (a.phase == b.phase && decide (a.tick < b.tick))))

/-- At or beyond. -/
def Pos.ge (a b : Pos) : Bool := !Pos.lt a b

/-- The applied position. -/
def Dev.pos (s : Dev) : Pos :=
  ⟨s.get64 F.POS_STEP_LO F.POS_STEP_HI, s.get F.POS_PHASE, s.get F.POS_TICK⟩

/-- The cycle counter at 1 GHz: 40 counts per always-on cycle (03 R79). -/
def Dev.cycle (s : Dev) : Nat := s.now * 40

/-- The unit's fabric identity: chain id and address, when it has one (04 R126). -/
def Dev.ident (s : Dev) : Nat := s.get F.CHAIN_ADDR_ID * 128 + s.get F.CHAIN_ADDR

end Sys2Proof.Machine
end

