-- ==== Sys2Proof/Machine/ChainBase.lean ====
section
/-! DEFINITION. The chain's transmitters and the payload layouts of cadence messages (04_chain, 03_cadence). -/

namespace Sys2Proof.Machine

/-! ### Frame types of Table 4.2 -/

abbrev tyTick : Nat := 1
abbrev tyVote : Nat := 2
abbrev tyJoin : Nat := 3
abbrev tyLeave : Nat := 4
abbrev tyBid : Nat := 5
abbrev tyHandover : Nat := 6
abbrev tyRdReq : Nat := 7
abbrev tyWrReq : Nat := 8
abbrev tyRdRsp : Nat := 9
abbrev tyWrRsp : Nat := 10
abbrev tyEnum : Nat := 11
abbrev tyEvent : Nat := 12
abbrev tyPower : Nat := 13
abbrev tyRing : Nat := 14
/-- The broadcast address (04 R118). -/
abbrev bcast : Nat := 127

/-- The class a TYPE (and SUB of an EVENT) requires, as the CLASS bit: 0 class 0, 1 class 3 (04 Tables 4.2, 4.8). -/
def reqClass (typ sub : Nat) : Nat :=
  if typ = tyEvent then (if sub = 3 ∨ sub = 5 ∨ sub = 6 then 0 else 1)
  else if (1 ≤ typ ∧ typ ≤ 6) ∨ typ = tyRing then 0 else 1

/-! ### The frame as words (04 R118, Table 4.1) -/

/-- A frame's header words, then its payload. -/
def Frame.toWords (f : Frame) : List Word :=
  BitVec.ofNat 32 (f.dst % 2 ^ 7 + f.src % 2 ^ 7 * 2 ^ 8 + f.typ % 2 ^ 4 * 2 ^ 16 + f.cls % 2 * 2 ^ 20 + f.len % 2 ^ 6 * 2 ^ 24) ::
  BitVec.ofNat 32 (f.tag % 2 ^ 8 + f.hops % 2 ^ 8 * 2 ^ 8 + f.chain % 2 ^ 8 * 2 ^ 16 + f.sub % 2 ^ 8 * 2 ^ 24) :: f.data

/-- The frame that received words spell; `crcOk` is what its CRC32C shows (04 R120). -/
def Frame.ofWords (l : List Word) (crcOk : Bool) : Frame :=
  let w0 := wordAt l 0
  let w1 := wordAt l 1
  { dst := bitsOf w0 0 7, src := bitsOf w0 8 7, typ := bitsOf w0 16 4, cls := bitsOf w0 20 1, len := bitsOf w0 24 6,
    tag := bitsOf w1 0 8, hops := bitsOf w1 8 8, chain := bitsOf w1 16 8, sub := bitsOf w1 24 8, data := l.drop 2, crcOk := crcOk }

/-! ### Ports and ring mode (04 R134) -/

/-- Port states of Table 4.5. -/
abbrev pDown : Nat := 0
abbrev pTrain : Nat := 1
abbrev pHoldoff : Nat := 2
abbrev pDrain : Nat := 3
abbrev pUp : Nat := 4

def Dev.uUp (s : Dev) : Bool := s.get F.U_STATE == pUp
def Dev.dUp (s : Dev) : Bool := s.get F.D_STATE == pUp

/-- The ring mode that the ports give: 0 RING, 1 WRAP_U, 2 WRAP_D, 3 ISOLATED. -/
def Dev.ringMode (s : Dev) : Nat :=
  if s.uUp then (if s.dUp then 0 else 2) else (if s.dUp then 1 else 3)

/-- Keep CHAIN_STATUS.MODE in step with the ports (21 R753). -/
def Dev.fixMode (s : Dev) : Dev := s.put0 F.CHAIN_MODE s.ringMode

/-! ### Transmit queues (04 R123) -/

/-- Rank of an entry: class 0 before class 3, forwarded frames of a class before own ones. -/
def TxEnt.rank (e : TxEnt) : Nat := 2 * e.frame.cls + b2n (!e.fwd)

/-- Put an entry behind every entry of its rank or a lower one. -/
def txInsert (e : TxEnt) : List TxEnt → List TxEnt
  | [] => [e]
  | x :: t => if e.rank < x.rank then e :: x :: t else x :: txInsert e t

/-- Queue a frame at port U or D. -/
def Dev.txU (s : Dev) (fwd : Bool) (f : Frame) : Dev :=
  { s with chain := { s.chain with txU := txInsert ⟨fwd, f⟩ s.chain.txU } }
def Dev.txD (s : Dev) (fwd : Bool) (f : Frame) : Dev :=
  { s with chain := { s.chain with txD := txInsert ⟨fwd, f⟩ s.chain.txD } }

/-- One always-on cycle of 40 ns with no command: time passes, residency counts, and each port that is not DOWN sends the frame at the
head of its queue; only an UP port has other frames than RING frames there (00 R8, 04 R123, R134, R135).  A unit that is Off or held in
reset has no such cycle (00 R8, 03 R79). -/
def Dev.alwaysOnCycle (s : Dev) : Dev :=
  if s.pwr.off ≠ 0 then s else
  { s with
    now := s.now + 1
    pwr := { s.pwr with resCyc := s.residency s.pwr.resCyc }
    chain := { s.chain with
      txU := if s.get F.U_STATE ≠ pDown then s.chain.txU.tail else s.chain.txU
      txD := if s.get F.D_STATE ≠ pDown then s.chain.txD.tail else s.chain.txD } }

/-- Send along the primary path: out of D, or out of U on the reverse path when D is wrapped (04 R133); an
isolated unit sends nothing (04 R152). -/
def Dev.txPrimary (s : Dev) (fwd : Bool) (f : Frame) : Dev :=
  if s.dUp then s.txD fwd f else if s.uUp then s.txU fwd f else s

/-- A frame of this unit (04 Table 4.1). -/
def Dev.ownFrame (s : Dev) (typ sub dst tag : Nat) (data : List Word) : Frame :=
  { dst := dst, src := s.get F.CHAIN_ADDR, typ := typ, cls := reqClass typ sub, len := data.length, tag := tag,
    hops := 0, chain := s.get F.CHAIN_ADDR_ID, sub := sub, data := data, crcOk := true }

/-- Send an own frame.  A unit without an address sends only EVENT ATTACH of this kind (04 R122). -/
def Dev.send (s : Dev) (typ sub dst tag : Nat) (data : List Word) : Dev :=
  if s.get F.CHAIN_ADDR == 0 && !(typ == tyEvent && sub == 1) then s
  else s.txPrimary false (s.ownFrame typ sub dst tag data)

/-- Send an EVENT: its argument and the applied tick (04 R142). -/
def Dev.sendEvent (s : Dev) (sub dst arg : Nat) : Dev :=
  s.send tyEvent sub dst 0 [BitVec.ofNat 32 arg, BitVec.ofNat 32 (s.get F.POS_TICK)]

/-- Send an EVENT to CHAIN_EVT_DST; 0 sends none (04 Table 4.9). -/
def Dev.notify (s : Dev) (sub arg : Nat) : Dev :=
  if s.get F.CHAIN_EVT_DST = 0 then s else s.sendEvent sub (s.get F.CHAIN_EVT_DST) arg

/-! ### Payloads (03 Tables 3.3 and 3.4, R88) -/

def TickMsg.toWords (m : TickMsg) : List Word :=
  [BitVec.ofNat 32 (m.epoch % 2 ^ 16 + m.pos.phase % 16 * 2 ^ 16 + b2n m.adv * 2 ^ 20 + m.reason % 4 * 2 ^ 21 +
      b2n m.fromCard * 2 ^ 23),
   BitVec.ofNat 32 m.pos.step, BitVec.ofNat 32 (m.pos.step / 2 ^ 32 % 2 ^ 16), BitVec.ofNat 32 (m.pos.tick % 2 ^ 20),
   BitVec.ofNat 32 (m.endT % 2 ^ 20), BitVec.ofNat 32 (m.delay % 2 ^ 24), BitVec.ofNat 32 m.lead,
   BitVec.ofNat 32 (m.master % 2 ^ 15)]

def TickMsg.ofWords (l : List Word) : TickMsg :=
  let w0 := wordAt l 0
  { epoch := bitsOf w0 0 16, pos := ⟨wordAt l 1 + 2 ^ 32 * bitsOf (wordAt l 2) 0 16, bitsOf w0 16 4,
      bitsOf (wordAt l 3) 0 20⟩, adv := bitAt w0 20, reason := bitsOf w0 21 2, fromCard := bitAt w0 23,
    endT := bitsOf (wordAt l 4) 0 20, delay := bitsOf (wordAt l 5) 0 24, lead := wordAt l 6,
    master := bitsOf (wordAt l 7) 0 15 }

def VoteMsg.toWords (m : VoteMsg) : List Word :=
  [BitVec.ofNat 32 (m.epoch % 2 ^ 16 + m.phase % 16 * 2 ^ 16 + m.level % 2 * 2 ^ 20), BitVec.ofNat 32 m.step,
   BitVec.ofNat 32 (m.step / 2 ^ 32 % 2 ^ 16), BitVec.ofNat 32 (m.source % 2 ^ 15)]

def VoteMsg.ofWords (l : List Word) : VoteMsg :=
  let w0 := wordAt l 0
  { epoch := bitsOf w0 0 16, phase := bitsOf w0 16 4, level := bitsOf w0 20 1,
    step := wordAt l 1 + 2 ^ 32 * bitsOf (wordAt l 2) 0 16, source := bitsOf (wordAt l 3) 0 15 }

def BidMsg.toWords (m : BidMsg) : List Word :=
  [BitVec.ofNat 32 (m.epoch % 2 ^ 16 + m.pos.phase % 16 * 2 ^ 16 + m.prio % 16 * 2 ^ 20), BitVec.ofNat 32 m.pos.step,
   BitVec.ofNat 32 (m.pos.step / 2 ^ 32 % 2 ^ 16), BitVec.ofNat 32 (m.pos.tick % 2 ^ 20 + b2n m.noPos * 2 ^ 20),
   BitVec.ofNat 32 (m.ident % 2 ^ 15)]

def BidMsg.ofWords (l : List Word) : BidMsg :=
  let w0 := wordAt l 0
  let w3 := wordAt l 3
  { epoch := bitsOf w0 0 16, prio := bitsOf w0 20 4, noPos := bitAt w3 20,
    pos := ⟨wordAt l 1 + 2 ^ 32 * bitsOf (wordAt l 2) 0 16, bitsOf w0 16 4, bitsOf w3 0 20⟩,
    ident := bitsOf (wordAt l 4) 0 15 }

/-! ### Cadence traffic between relays (16 R593) -/

/-- The payload of a CTRL0 flit in this model: the chain frame TYPE it carries, then that frame's payload (DESIGN CHOICE, log 30). -/
def ctrl0Words (typ : Nat) (data : List Word) : List Word := BitVec.ofNat 32 typ :: data

/-- Inject a flit at this unit; a unit without an identity injects none (16 R560, 04 R126). -/
def Dev.injectFlit (s : Dev) (f : Flit) : Dev :=
  if s.get F.CHAIN_ADDR = 0 then s else { s with fab := { s.fab with inject := s.fab.inject ++ [f] } }

/-- A CTRL0 flit of this unit. -/
def Dev.ctrl0 (s : Dev) (typ dst : Nat) (data : List Word) : Dev :=
  s.injectFlit { dst := dst, dstPart := 0, cls := 0, vc := 0, kind := 7, src := s.ident, srcPart := 0, last := true,
                 msg := 0, seqn := 0, data := ctrl0Words typ data, crcOk := true }

/-- The identities of the valid relay peers (21 Table 21.12). -/
def Dev.relayPeers (s : Dev) : List Nat :=
  ((List.range 64).filter fun k => s.flag F.RELAY_PEER_VALID [k]).map fun k => s.get F.RELAY_PEER_ID [k]

/-- Send a message to every valid relay peer. -/
def Dev.relayAll (s : Dev) (typ : Nat) (data : List Word) : Dev :=
  s.forEach s.relayPeers fun s d => s.ctrl0 typ d data

end Sys2Proof.Machine
end

