-- ==== Sys2Proof/Decode.lean ====
section
/-! DEFINITION. Words of the table: spec/opcode_table.json gives none of its rows bits (the block's operations and
events are no instruction words), so no word spells a command.  What does come to the unit as words is a chain frame, whose TYPE and SUB
say which row it is (04 Tables 4.1, 4.2, 4.7). -/

namespace Sys2Proof

/-- The command that a word spells by the table's bits: the table gives no row bits. -/
def decodeTableWord (_nbits _w : Nat) : Option Instr := none

open Sys2Proof.Machine in
/-- The row that a frame arriving at a port is, by its TYPE and SUB and the pass of an ENUM token; a frame of another TYPE or SUB only
passes.  `link` and `stay` are what R76 measures, `flag` whether the port holds lock or the response is late. -/
def frameCommand (port : Nat) (f : Frame) (link stay : Nat) (flag : Bool) : Instr :=
  match f.typ with
  | 1 => .tick port f link stay
  | 2 => .vote port f
  | 3 => .join port f
  | 4 => .leave port f
  | 5 => .bid port f
  | 6 => .handover port f
  | 7 => .rdReq port f
  | 8 => .wrReq port f
  | 9 => .rdRsp port f flag
  | 10 => .wrRsp port f flag
  | 11 => if bitAt (wordAt f.data 0) 8 then .enumAssign port f else .enumClaim port f
  | 12 => match f.sub with
    | 1 => .eventAttach port f
    | 2 => .eventEnumDone port f
    | 3 => .eventBreak port f
    | 4 => .eventUnwrapDone port f
    | 5 => .eventSafeStop port f
    | 6 => .eventDrain port f
    | 7 => .eventPanel port f
    | 8 => .eventAlarm port f
    | 9 => .eventAuxLatch port f
    | _ => .chainFrame port ⟨f, link, stay⟩
  | 13 => match f.sub with
    | 1 => .powerCap port f
    | 2 => .powerReport port f
    | 3 => .powerSupply port f
    | _ => .chainFrame port ⟨f, link, stay⟩
  | 14 => match f.sub with
    | 1 => .ringHello port f flag
    | 2 => .ringBreak port f
    | 3 => .ringUnwrap port f
    | _ => .chainFrame port ⟨f, link, stay⟩
  | _ => .chainFrame port ⟨f, link, stay⟩

end Sys2Proof
end

