-- ==== Sys2Proof/Machine/Cadence.lean ====
section
/-! DEFINITION. The cadence unit: votes and participation, applying a position, judging alarms, issuing ticks,
receiving ticks, election and hand-over (03_cadence). -/

namespace Sys2Proof.Machine

/-- Status codes (07 Table 7.8). -/
abbrev stOK : Nat := 0
abbrev stCANCELLED : Nat := 1
abbrev stSTATE : Nat := 2
abbrev stFAULT : Nat := 3
abbrev stLATE : Nat := 4
abbrev stPROT : Nat := 5
abbrev stNUMERIC : Nat := 6
abbrev stBUSYFACE : Nat := 7
abbrev stEXHAUSTED : Nat := 8

/-- Cadence roles (21 R751). -/
abbrev roleUnjoined : Nat := 0
abbrev roleFollower : Nat := 1
abbrev roleBidding : Nat := 2
abbrev roleMaster : Nat := 3

def Dev.isMaster (s : Dev) : Bool := s.get F.CAD_ROLE_NOW == roleMaster

/-- Epoch a is newer than epoch b (03, serial-number arithmetic) (DEDUCED, log 26). -/
def epochNewer (a b : Nat) : Bool :=
  let d := (a + 65536 - b % 65536) % 65536
  decide (1 ≤ d) && decide (d ≤ 32767)

/-- The position that follows the last tick of a phase (03 R68). -/
def nextPhase (p : Pos) (phaseLast : Nat) : Pos :=
  if phaseLast ≤ p.phase then ⟨p.step + 1, 0, 0⟩ else ⟨p.step, p.phase + 1, 0⟩

/-- The role of a unit that is neither bidding nor master. -/
def Dev.restRole (s : Dev) : Nat := if s.cad.joined then roleFollower else roleUnjoined

/-- The last step (03 R86). -/
abbrev stepMax : Nat := 2 ^ 48 - 1

def Cad.addVote (l : List Nat) (x : Nat) : List Nat := if l.contains x then l else l ++ [x]

/-- Is this unit the chain source of its chain: the master, or the relay of a chain that is not the master's? -/
def Dev.chainSource (s : Dev) : Bool :=
  s.isMaster || (s.flag F.RELAY && (match s.cad.master with
    | some m => m / 128 != s.get F.CHAIN_ADDR_ID
    | none => false))

/-! ### Votes (03 R80 to R84) -/

/-- The master judges whether the last chain vote of the phase has arrived, and announces the early end once
(03 R84, R107, R108). -/
def Dev.judgeMaster (s : Dev) : Dev :=
  match s.cad.issued with
  | none => s
  | some m =>
    if s.isMaster && !s.cad.early && !s.cad.chainPart.isEmpty && s.cad.chainPart.all s.cad.chainVotes.contains &&
        m.pos.step == s.pos.step && m.pos.phase == s.pos.phase then
      { s with cad := { s.cad with
          early := true,
          issued := some { m with endT := min s.cad.deadT (m.pos.tick + 1 + s.get F.ADV_NOTICE) } } }
    else s

/-- The chain source judges whether its last participating unit has voted (03 R81). -/
def Dev.judgeChain (s : Dev) : Dev :=
  if s.chainSource && !s.cad.chainVoted && !s.flag F.CAD_LOST && !s.cad.unitPart.isEmpty &&
      s.cad.unitPart.all s.cad.unitVotes.contains then
    let s := { s with cad := { s.cad with chainVoted := true } }
    if s.isMaster then
      ({ s with cad := { s.cad with
          chainVotes := Cad.addVote s.cad.chainVotes (s.get F.CHAIN_ADDR_ID) } }).judgeMaster
    else
      s.ctrl0 tyVote (s.cad.master.getD 0)
        (VoteMsg.toWords ⟨s.cad.appliedEpoch, s.pos.phase, 1, s.pos.step, s.ident⟩)
  else s

/-- The partitions whose votes are recorded. -/
def Dev.votes (s : Dev) : Nat := s.get64 F.VOTE_LO F.VOTE_HI

/-- Every participating partition of the unit has voted. -/
def Dev.allVoted (s : Dev) : Bool :=
  (List.range 64).all fun p => !bitAt s.cad.partMask p || bitAt s.votes p

/-- Send a unit-level message to the chain source: to the master when it is on this chain, else to the whole
chain, where its relay counts it. -/
def Dev.sendToSource (s : Dev) (typ : Nat) (data : List Word) : Dev :=
  match s.cad.master with
  | some m => if m / 128 = s.get F.CHAIN_ADDR_ID then s.send typ 0 (m % 128) 0 data else s.send typ 0 bcast 0 data
  | none => s.send typ 0 bcast 0 data

/-- One unit VOTE when the last participating partition has voted; none while free-running (03 R81, R92). -/
def Dev.unitVote (s : Dev) : Dev :=
  if s.cad.joined && !s.cad.unitVoted && !s.flag F.CAD_LOST && !s.hostShut && s.cad.partMask != 0 && s.allVoted then
    let s := { s with cad := { s.cad with unitVoted := true } }
    if s.chainSource then
      ({ s with cad := { s.cad with unitVotes := Cad.addVote s.cad.unitVotes (s.get F.CHAIN_ADDR) } }).judgeChain
    else s.sendToSource tyVote (VoteMsg.toWords ⟨s.cad.appliedEpoch, s.pos.phase, 0, s.pos.step, s.ident⟩)
  else s

/-- A vote of partition `p` for (step, phase): recorded when it names the applied ones and `p` participates, else
STATE (03 R80). -/
def Dev.recordVote (s : Dev) (p step phase : Nat) : Nat × Dev :=
  if s.cad.joined && step == s.pos.step && phase == s.pos.phase && bitAt s.cad.partMask p then
    (stOK, (s.put64 F.VOTE_LO F.VOTE_HI [] (setBit s.votes p)).unitVote)
  else (stSTATE, s)

/-- A VOTE received (03 R82). -/
def Dev.onVote (s : Dev) (m : VoteMsg) : Dev :=
  if m.epoch ≠ s.cad.appliedEpoch ∨ m.step ≠ s.pos.step ∨ m.phase ≠ s.pos.phase ∨ !s.cad.joined then
    s.count F.VOTE_STALE_COUNT
  else if m.level = 0 then
    -- the master's own chain too is judged against the tick issued (03 R107)
    if s.isMaster ∧ (s.cad.issued.map fun i => (i.pos.step, i.pos.phase)) ≠ some (m.step, m.phase) then s.count F.VOTE_STALE_COUNT
    else if s.chainSource && m.source / 128 == s.get F.CHAIN_ADDR_ID then
      ({ s with cad := { s.cad with unitVotes := Cad.addVote s.cad.unitVotes (m.source % 128) } }).judgeChain
    else s
  else if s.isMaster then
    if (s.cad.issued.map fun i => (i.pos.step, i.pos.phase)) = some (m.step, m.phase) then
      ({ s with cad := { s.cad with chainVotes := Cad.addVote s.cad.chainVotes (m.source / 128) } }).judgeMaster
    else s.count F.VOTE_STALE_COUNT
  else s

/-! ### Participation (03 R83) -/

/-- The chain as a whole begins or stops participating: the master counts it, a relay tells the master. -/
def Dev.chainPartChange (s : Dev) (join : Bool) : Dev :=
  if s.isMaster then
    { s with cad := { s.cad with
        chainPart :=
        if join then Cad.addVote s.cad.chainPart (s.get F.CHAIN_ADDR_ID)
        else s.cad.chainPart.erase (s.get F.CHAIN_ADDR_ID) } }
  else
    s.ctrl0 (if join then tyJoin else tyLeave) (s.cad.master.getD 0)
      (VoteMsg.toWords ⟨s.cad.appliedEpoch, s.pos.phase, 1, s.pos.step, s.ident⟩)

/-- Apply one change of participation at its count, and judge again. -/
def Dev.applyPart (s : Dev) (c : PartChange) : Dev :=
  if c.level = 0 then
    let old := s.cad.unitPart
    let new := if c.join then Cad.addVote old c.id else old.erase c.id
    let s : Dev := { s with cad := { s.cad with unitPart := new } }
    let s := if old.isEmpty != new.isEmpty then s.chainPartChange (!new.isEmpty) else s
    s.judgeChain.judgeMaster
  else
    ({ s with cad := { s.cad with
        chainPart :=
        if c.join then Cad.addVote s.cad.chainPart c.id else s.cad.chainPart.erase c.id } }).judgeMaster

/-- Does the change name a phase that the unit has not applied yet? -/
def Dev.isLater (s : Dev) (c : PartChange) : Bool :=
  Pos.lt ⟨s.pos.step, s.pos.phase, 0⟩ ⟨c.step, c.phase, 0⟩

/-- A JOIN or LEAVE received; one of an older epoch is discarded (03 R83) (DEDUCED, log 25). -/
def Dev.onPart (s : Dev) (join : Bool) (m : VoteMsg) : Dev :=
  if epochNewer (s.get F.EPOCH) m.epoch then s
  else
    let mine := if m.level = 0 then s.chainSource && m.source / 128 == s.get F.CHAIN_ADDR_ID else s.isMaster
    if mine = true then
      let c : PartChange := ⟨join, m.level, if m.level = 0 then m.source % 128 else m.source / 128, m.step, m.phase⟩
      if s.isLater c then { s with cad := { s.cad with later := s.cad.later ++ [c] } } else s.applyPart c
    else s

/-- This unit's JOIN or LEAVE, naming its applied position. -/
def Dev.sendPart (s : Dev) (join : Bool) : Dev :=
  if s.chainSource then s.applyPart ⟨join, 0, s.get F.CHAIN_ADDR, s.pos.step, s.pos.phase⟩
  else s.sendToSource (if join then tyJoin else tyLeave)
    (VoteMsg.toWords ⟨s.cad.appliedEpoch, s.pos.phase, 0, s.pos.step, s.ident⟩)

/-- A unit reported lost leaves its chain source's count at once (03 R83). -/
def Dev.unitGone (s : Dev) (addr : Nat) : Dev :=
  if s.chainSource && s.cad.unitPart.contains addr then s.applyPart ⟨false, 0, addr, 0, 0⟩ else s

/-! ### Alarms: targets (03 R97 to R99) -/

/-- A target: what an alarm or a CAD_WAIT waits for. -/
structure Target where
  step : Nat
  phase : Nat
  tick : Nat
  boundary : Bool
deriving DecidableEq, Repr

def AlarmCopy.target (c : AlarmCopy) : Target := ⟨c.step, c.phase, c.tick, c.boundary⟩

/-- Has the target already been applied at the moment of arming (03 R98, R99)? -/
def Dev.targetPast (s : Dev) (t : Target) : Bool :=
  let p := s.pos
  if t.boundary then
    if !s.cad.joined then false
    else if Pos.lt ⟨p.step, p.phase, 0⟩ ⟨t.step, t.phase, 0⟩ then false
    else if p.step = t.step ∧ p.phase = t.phase then decide (s.get F.POS_END - t.tick ≤ p.tick)
    else true
  else p.ge ⟨t.step, t.phase, t.tick⟩

/-- How a target stands after an application: not reached, or reached with or without LATE (03 R93, R97 to R99).
`old` and `oldEnd` are the position and end tick before it, `jump` says it is a lock or a relock. -/
def reached (t : Target) (old : Pos) (oldEnd : Nat) (q : Pos) (newEnd : Nat) (jump : Bool) : Option Bool :=
  if t.boundary then
    if Pos.lt ⟨q.step, q.phase, 0⟩ ⟨t.step, t.phase, 0⟩ then none
    else if q.step = t.step ∧ q.phase = t.phase then
      let tt := newEnd - t.tick
      if q.tick < tt then none
      else if jump then some (decide (tt < q.tick))
      else if old.step = q.step ∧ old.phase = q.phase ∧ newEnd ≠ oldEnd then some (decide (tt ≤ old.tick))
      else some false
    else some jump
  else
    if q.ge ⟨t.step, t.phase, t.tick⟩ then some (jump && Pos.lt ⟨t.step, t.phase, t.tick⟩ q) else none

/-- How the target of a CAD_WAIT stands after an application.  A phase that the domain does not have is passed over when the step after it
begins with the very next tick; such a wait lasts until it is stopped (07 R273) (DEDUCED, log 124). -/
def waitReached (t : Target) (old : Pos) (oldEnd : Nat) (q : Pos) (newEnd : Nat) (jump : Bool) : Option Bool :=
  if Pos.lt ⟨t.step, t.phase, 0⟩ ⟨old.step, old.phase, 0⟩ then none
  else if !jump ∧ old.step = t.step ∧ old.phase < t.phase ∧ q = ⟨old.step + 1, 0, 0⟩ ∧ old.tick + 1 = oldEnd then none
  else reached t old oldEnd q newEnd jump

/-- Begin an alarm's dispatch: its STATE reads 2 until its action has begun (03 R100, R103) (DEDUCED, log 29). -/
def Dev.beginDispatch (s : Dev) (n : Nat) (late : Bool) (c : AlarmCopy) : Dev :=
  -- an alarm whose target is applied during RESYNC fires late (17 R615)
  ({ s with dispatch := s.dispatch ++ [Dispatch.mk n (late || s.get F.WARDEN_MODE == 3) c false] }).put F.AL_STATE [n] 2

/-- Judge every armed alarm after an application, in ascending index (03 R100). -/
def Dev.judgeAlarms (s : Dev) (old : Pos) (oldEnd : Nat) (jump : Bool) : Dev :=
  s.forEach (s.alarms.filter fun e => decide (e.1 < 256)) fun s e =>
    match e.2 with
    | none => s
    | some c =>
      if s.get F.AL_STATE [e.1] = 1 then
        match reached c.target old oldEnd s.pos (s.get F.POS_END) jump with
        | some late => s.beginDispatch e.1 late c
        | none => s
      else s

/-- Judge every CAD_WAIT after an application (07 R252): one whose target is reached ends OK, or LATE when the target
lay at a position already applied. -/
def Dev.judgeWaits (s : Dev) (old : Pos) (oldEnd : Nat) (jump : Bool) : Dev :=
  { s with queues := s.queues.map fun e =>
      (e.1, { e.2 with run := e.2.run.map fun r => { r with cmd := r.cmd.map fun c =>
        match c.phase with
        | .waitCad st ph tk b =>
          match waitReached ⟨st, ph, tk, b⟩ old oldEnd s.pos (s.get F.POS_END) jump with
          | some true => { c with phase := .ended stLATE 0x17 }
          | some false => { c with phase := .ended stOK 0 }
          | none => c
        | _ => c } }) }

/-! ### Applying a position (03 R70, R76, R79, R83, R85) -/

/-- The active participation mask. -/
def Dev.cadPart (s : Dev) : Nat := s.get64 F.CAD_PART_LO F.CAD_PART_HI

/-- Entry to a phase: votes are cleared, participation takes effect, and its changes travel (03 R83).  A JOIN that the
first tick of an epoch sends anyway (`rejoin`) is sent once. -/
def Dev.enterPhase (s : Dev) (rejoin : Bool) : Dev :=
  let was := s.cad.partMask != 0
  let s := s.put64 F.VOTE_LO F.VOTE_HI [] 0
  let s := { s with cad := { s.cad with
                             unitVoted := false, chainVoted := false, unitVotes := [], chainVotes := [],
                             partMask := if s.panel.out then 0 else s.cadPart } }
  let s := if was != (s.cad.partMask != 0) && !(rejoin && !was) then s.sendPart (!was) else s
  let now := s.cad.later.filter fun c => !s.isLater c
  let s := { s with cad := { s.cad with later := s.cad.later.filter fun c => s.isLater c } }
  s.forEach now Dev.applyPart

/-- The first tick of a new epoch: votes are re-sent, and every participant joins again (03 Table 3.5 step 5). -/
def Dev.newEpochApplied (s : Dev) : Dev :=
  let s := { s with cad := { s.cad with unitVoted := false, chainVoted := false } }
  let s := if s.cad.partMask != 0 then s.sendPart true else s
  let s := if s.chainSource && !s.isMaster && !s.cad.unitPart.isEmpty then s.chainPartChange true else s
  s.unitVote.judgeChain

/-- Apply a position: `free` for a free-run tick.  The applied position never moves backwards and never repeats,
but for the first one (03 R70); a tick of an older epoch than the applied one is not applied (03 R110).  The first tick that a unit
applies which was elected while it free-ran is its relock (03 R93). -/
def Dev.applyPos (s : Dev) (m : TickMsg) (jump free : Bool) : Dev :=
  let first := !s.cad.joined
  let old := s.pos
  let oldEnd := s.get F.POS_END
  if !first && (!Pos.lt old m.pos || (!free && epochNewer s.cad.appliedEpoch m.epoch)) then s
  else
    let entering := first || old.step != m.pos.step || old.phase != m.pos.phase
    let relocks := s.isMaster && s.flag F.CAD_LOST && !free
    let jump := jump || first || relocks
    let missed := entering && !first && m.adv && m.reason == 2 && s.cad.partMask != 0 && !s.allVoted
    let s := s.put64 F.POS_STEP_LO F.POS_STEP_HI [] m.pos.step
    let s := (s.put0 F.POS_PHASE m.pos.phase).put0 F.POS_TICK m.pos.tick
    let s := s.put0 F.POS_END m.endT
    let s := s.put64 F.TICK_STAMP_LO F.TICK_STAMP_HI [] s.cycle
    let newEpoch := !free && (first || s.cad.appliedEpoch != m.epoch)
    let s := { s with cad := { s.cad with
                               joined := true, alarmSent := [],
                               appliedEpoch := if free then s.cad.appliedEpoch else m.epoch } }
    let s := { s with pwr := { s.pwr with resTick := s.residency s.pwr.resTick } }
    -- a requested drain begins with a tick that advances the phase (19 R697)
    let s := if m.adv && s.get F.DRAIN_STATE == 1 then s.setDrain 2 else s
    let s := if missed then s.cadEvent F.VOTE_MISSING 0 else s
    let s := if relocks then ((s.put0 F.CAD_LOST 0).put0 F.FREE_RUN 0).cadEvent F.RELOCK_EV 3 else s
    let s := if entering then s.enterPhase newEpoch else s
    let s := if newEpoch then s.newEpochApplied else s
    let s := if s.isMaster && !free then s.put0 F.LOCKED 1 else s
    (s.judgeAlarms old oldEnd jump).judgeWaits old oldEnd jump

/-! ### Issuing (03 R84, R86, R91) -/

/-- Send a TICK on the chain and, from a relay, to the other relays (03 R76, R113). -/
def Dev.sendTick (s : Dev) (m : TickMsg) : Dev :=
  let s := s.send tyTick 0 bcast 0 m.toWords
  if s.flag F.RELAY then s.relayAll tyTick m.toWords else s

/-- Put a position among those to be applied, in the order in which they fall due (03 R76). -/
def dueInsert (x : Nat × TickMsg) : List (Nat × TickMsg) → List (Nat × TickMsg)
  | [] => [x]
  | y :: t => if x.1 < y.1 then x :: y :: t else y :: dueInsert x t

/-- Issue one tick as master: send it and queue its own application at issue plus LEAD. -/
def Dev.emitTick (s : Dev) (m : TickMsg) : Dev :=
  let s := { s with cad := { s.cad with issued := some m, taking := none, due := dueInsert (s.cycle + m.lead, m) s.cad.due } }
  s.sendTick m

/-- The bitmap of recorded chain votes, words 8 to 15 of HANDOVER (03 R91). -/
def chainBitmap (l : List Nat) : List Word :=
  (List.range 8).map fun w =>
    BitVec.ofNat 32 ((List.range 32).map fun b => if l.contains (32 * w + b) then 2 ^ b else 0).sum

/-- The chain ids that a bitmap names. -/
def bitmapChains (l : List Word) : List Nat :=
  (List.range 256).filter fun c => (l.getD (8 + c / 32) 0).getLsbD (c % 32)

/-- After the tick that follows RESIGN: HANDOVER to the successor, and no further tick (03 R91). -/
def Dev.handOver (s : Dev) (m : TickMsg) : Dev :=
  let succ := s.get F.CAD_SUCCESSOR
  let data := ({ m with master := succ }).toWords ++ chainBitmap s.cad.chainVotes
  let s := { s with cad := { s.cad with resign := false, handing := true } }
  if succ % 128 = 0 then s
  else if succ / 128 = s.get F.CHAIN_ADDR_ID then s.send tyHandover 0 (succ % 128) 0 data
  else s.ctrl0 tyHandover succ data

/-- The master issues the next tick: one further in the phase, or tick 0 of the next phase at the end tick, or the
held last position (03 R84, R86). -/
def Dev.issueTick (s : Dev) (fromCard : Bool) : Dev :=
  if !s.isMaster || s.cad.handing then s
  else match s.cad.taking with
  | some m =>
    let m := { m with fromCard := fromCard }
    let s := s.emitTick m
    if s.cad.resign then s.handOver m else s
  | none =>
    match s.cad.issued with
    | none => s
    | some i =>
      let base := { i with delay := 0, lead := s.get F.CAD_LEAD, fromCard := fromCard, adv := false, reason := 0,
                           epoch := s.get F.EPOCH, master := s.ident }
      if i.pos.tick + 1 < i.endT then
        let m := { base with pos := { i.pos with tick := i.pos.tick + 1 } }
        let s := s.emitTick m
        if s.cad.resign then s.handOver m else s
      else if stepMax ≤ i.pos.step ∧ s.get F.PHASE_LAST ≤ i.pos.phase then
        let s := (s.put0 F.STEP_END 1).sendTick base
        if s.cad.resign then s.handOver base else s
      else
        let q := nextPhase i.pos (s.get F.PHASE_LAST)
        let t := s.get F.DEADLINE [q.phase]
        let m := { base with pos := q, adv := true, reason := if s.cad.early then 1 else 2, endT := t }
        let s := ({ s with cad := { s.cad with deadT := t, early := false } }).emitTick m
        if s.cad.resign then s.handOver m else s

/-! ### Receiving a TICK (03 R76, R77, R87, R92, R93) -/

/-- Does a position follow another in the sequence of ticks? -/
def consecutive (a b : Pos) : Bool :=
  (a.step == b.step && a.phase == b.phase && a.tick + 1 == b.tick) ||
  (b.tick == 0 && ((a.step == b.step && a.phase + 1 == b.phase) || (a.step + 1 == b.step && b.phase == 0)))

/-- Adopt a newer epoch (03 R87): a master stops issuing and becomes a follower at once. -/
def Dev.adoptEpoch (s : Dev) (e : Nat) : Dev :=
  let s := (s.put0 F.EPOCH e).cadEvent F.EPOCH_EV 4
  let s := if s.isMaster || s.cad.win.bidding then s.put0 F.CAD_ROLE_NOW s.restRole else s
  let s := s.put0 F.NO_MASTER 0
  { s with cad := { s.cad with
                    seen := true, issued := none, taking := none, handing := false, resign := false,
                    run := none, win := ⟨false, none, none, none, false⟩ } }

/-- A relock or a first lock: the unit moves to the master's position when it is beyond its own, sends the votes that
match and drops the others (03 R93, 20 R729) (DEDUCED, log 24). -/
def Dev.relock (s : Dev) (m : TickMsg) : Dev :=
  let was := s.flag F.CAD_LOST
  let s := (s.put0 F.CAD_LOST 0).put0 F.FREE_RUN 0
  let s := s.put0 F.LOCKED 1
  let s := if was then s.cadEvent F.RELOCK_EV 3 else s
  let s := s.put0 F.CAD_ROLE_NOW roleFollower
  let s := { s with cad := { s.cad with run := none, win := ⟨false, none, none, none, false⟩ } }
  let s := s.applyPos m true false
  if s.pos.step = m.pos.step ∧ s.pos.phase = m.pos.phase then s.unitVote.judgeChain
  else
    let s := s.put64 F.VOTE_LO F.VOTE_HI [] 0
    { s with cad := { s.cad with unitVoted := false } }

/-- A TICK received, with its DELAY brought up to this unit's receipt. -/
def Dev.onTick (s : Dev) (m : TickMsg) : Dev :=
  let known := s.cad.seen
  let cur := s.get F.EPOCH
  if known && m.epoch != cur && !epochNewer m.epoch cur then s
  else if known && m.epoch == cur && s.isMaster then s
  else
    let s := if !known || m.epoch != cur then s.adoptEpoch m.epoch else s
    let s := { s with cad := { s.cad with master := some m.master } }
    let s := s.put0 F.DELAY_NOW m.delay
    let s := if s.get F.DELAY_MAX < m.delay then s.put0 F.DELAY_MAX m.delay else s
    if s.flag F.CAD_LOST || !s.cad.joined then
      let n := match s.cad.run with
        | some (e, p, n) => if e = m.epoch ∧ consecutive p m.pos then n + 1 else 1
        | none => 1
      if 4 ≤ n then (if m.lead ≤ m.delay then s.count F.TICK_LATE_COUNT else s).relock m
      else { s with cad := { s.cad with run := some (m.epoch, m.pos, n) } }
    else if m.lead ≤ m.delay then (s.count F.TICK_LATE_COUNT).applyPos m false false
    else { s with cad := { s.cad with due := dueInsert (s.cycle + m.lead - m.delay, m) s.cad.due } }

/-- The position that falls due first is applied (03 R76, R110). -/
def Dev.tickApply (s : Dev) : Dev :=
  match s.cad.due with
  | [] => s
  | (_, m) :: t => ({ s with cad := { s.cad with due := t } }).applyPos m false false

/-! ### Loss, election and hand-over (03 R88 to R93) -/

/-- May the unit bid: RUN set, candidate or card unit, and not in a safe stop (21 R751, 17 R621)? -/
def Dev.mayBid (s : Dev) : Bool := s.flag F.RUN && (s.flag F.CANDIDATE || s.flag F.CARD) && !s.hostShut

/-- This unit's bid (03 R88). -/
def Dev.ownBid (s : Dev) : BidMsg :=
  { prio := if s.flag F.CARD then 0 else s.get F.PRIORITY, noPos := !s.cad.seen, ident := s.ident,
    epoch := if s.cad.seen then s.get F.EPOCH else 0, pos := if s.cad.seen then s.pos else Pos.zero }

/-- One bid is lower than another (03 R88). -/
def bidLower (a b : Nat × Nat) : Bool := decide (a.1 < b.1) || (a.1 == b.1 && decide (a.2 < b.2))

/-- Record a bid in the open window: the latest position, the newest epoch, the lowest bid. -/
def BidWindow.record (w : BidWindow) (m : BidMsg) : BidWindow :=
  let latest := if m.noPos then w.latest else match w.latest with
    | some p => some (if Pos.lt p m.pos then m.pos else p)
    | none => some m.pos
  let epoch := if m.noPos then w.epoch else match w.epoch with
    | some e => some (if epochNewer m.epoch e then m.epoch else e)
    | none => some m.epoch
  let best := match w.best with
    | some b => some (if bidLower (m.prio, m.ident) b then (m.prio, m.ident) else b)
    | none => some (m.prio, m.ident)
  { w with latest := latest, epoch := epoch, best := best }

/-- Priority and identity of a BID frame. -/
def Frame.bidKey (f : Frame) : Nat × Nat :=
  let m := BidMsg.ofWords f.data
  (m.prio, m.ident)

/-- A BID bound out of D: the first of a TICK_PERIOD goes at once; of those that follow, the lowest waits for the next
period when it is lower than the one sent, and the others are dropped and counted (04 R125). -/
def Dev.offerBid (s : Dev) (fwd : Bool) (f : Frame) : Dev :=
  match s.chain.bidSent with
  | none => ({ s with chain := { s.chain with bidSent := some f.bidKey } }).txPrimary fwd f
  | some b =>
    if !bidLower f.bidKey b then s.count F.BID_FILTER_COUNT
    else match s.chain.bidNext with
    | none => { s with chain := { s.chain with bidNext := some ⟨fwd, f⟩ } }
    | some x =>
      if bidLower f.bidKey x.frame.bidKey then
        ({ s with chain := { s.chain with bidNext := some ⟨fwd, f⟩ } }).count F.BID_FILTER_COUNT
      else s.count F.BID_FILTER_COUNT

/-- Send the own bid on the chain and, from a relay, to the other relays (DEDUCED, log 31). -/
def Dev.sendBid (s : Dev) : Dev :=
  let m := s.ownBid
  let s := if s.get F.CHAIN_ADDR = 0 then s else s.offerBid false (s.ownFrame tyBid 0 bcast 0 m.toWords)
  let s := { s with cad := { s.cad with win := s.cad.win.record m } }
  if s.flag F.RELAY then s.relayAll tyBid m.toWords else s

/-- Open a bid window; a unit that may bid bids (03 Table 3.5 step 1). -/
def Dev.openWindow (s : Dev) : Dev :=
  let s := { s with cad := { s.cad with win := ⟨true, none, none, none, s.mayBid⟩ } }
  if s.mayBid then (s.put0 F.CAD_ROLE_NOW roleBidding).sendBid else s

/-- A BID received (03 Table 3.5 step 2). -/
def Dev.onBid (s : Dev) (m : BidMsg) : Dev :=
  if !s.cad.win.isOpen then s
  else
    let mine := s.ownBid
    let stop := s.cad.win.bidding && bidLower (m.prio, m.ident) (mine.prio, mine.ident)
    let w := s.cad.win.record m
    let s := { s with cad := { s.cad with win := { w with bidding := w.bidding && !stop } } }
    if stop then s.put0 F.CAD_ROLE_NOW s.restRole else s

/-- Ticks per nanoseconds, rounded up. -/
def ceilDiv (a b : Nat) : Nat := if b = 0 then 0 else (a + b - 1) / b

/-- The winner's first position and end tick (03 Table 3.5 step 4, R105). -/
def Dev.firstTick (s : Dev) : Pos × Nat :=
  match s.cad.win.latest with
  | none => (⟨s.get64 F.START_STEP_LO F.START_STEP_HI, 0, 0⟩, s.get F.DEADLINE [0])
  | some p =>
    let e := if s.cad.joined && s.pos.step == p.step && s.pos.phase == p.phase then s.get F.POS_END
             else s.get F.DEADLINE [p.phase]
    let t := p.tick + 4 + ceilDiv (s.get F.CAD_LEAD) (s.get F.TICK_PERIOD * 10)
    if t ≤ e - 1 then (⟨p.step, p.phase, t⟩, e)
    else if stepMax ≤ p.step ∧ s.get F.PHASE_LAST ≤ p.phase then (⟨p.step, p.phase, e - 1⟩, e)
    else
      let q := nextPhase p (s.get F.PHASE_LAST)
      (q, s.get F.DEADLINE [q.phase])

/-- The elected candidate becomes master; its first TICK follows one P later (03 Table 3.5 steps 3 and 4).  An end tick that is not its own
DEADLINE counts as announced early (DESIGN CHOICE, log 118). -/
def Dev.becomeMaster (s : Dev) : Dev :=
  let newest := match s.cad.win.epoch with
    | some e => if s.cad.seen then (if epochNewer e (s.get F.EPOCH) then e else s.get F.EPOCH) else e
    | none => if s.cad.seen then s.get F.EPOCH else 0
  let ep := (newest + 1) % 65536
  let (p, e) := s.firstTick
  let s := ((s.put0 F.EPOCH ep).put0 F.CAD_ROLE_NOW roleMaster).put0 F.NO_MASTER 0
  { s with cad := { s.cad with
      seen := true, master := some s.ident, issued := none, chainVotes := [], chainPart := [], unitVotes := [],
      unitPart := [], deadT := s.get F.DEADLINE [p.phase], early := decide (e ≠ s.get F.DEADLINE [p.phase]),
      taking := some { epoch := ep, pos := p, adv := true, reason := 3, fromCard := false, endT := e, delay := 0,
                       lead := s.get F.CAD_LEAD, master := s.ident },
      win := ⟨false, none, none, none, false⟩, handing := false, resign := false } }

/-- The end of a bid window (03 Table 3.5 step 3, R90).  A window whose only bid was withdrawn elects no one; after a window that another
unit has won this one stays closed (DESIGN CHOICE, log 118). -/
def Dev.windowEnd (s : Dev) : Dev :=
  if !s.cad.win.isOpen then s
  else match s.cad.win.best with
  | none => (s.put0 F.NO_MASTER 1).openWindow
  | some b =>
    if s.cad.win.bidding && b == (s.ownBid.prio, s.ident) then s.becomeMaster
    else if b.2 = s.ident then (s.put0 F.NO_MASTER 1).openWindow
    else ({ s with cad := { s.cad with win := ⟨false, none, none, none, false⟩ } }).put0 F.NO_MASTER 0

/-- 64 intervals without a tick: the unit declares loss, free-runs and opens the election (03 R92). -/
def Dev.cadLost (s : Dev) : Dev :=
  if !s.cad.joined || s.isMaster || s.flag F.CAD_LOST then s
  else
    let s := ((s.put0 F.CAD_LOST 1).put0 F.LOCKED 0).put0 F.FREE_RUN 1
    (({ s with cad := { s.cad with run := none, due := [] } }).cadEvent F.LOST_EV 2).openWindow

/-- A free-run tick: TICK rises, the phase never advances (03 R92). -/
def Dev.freeRunTick (s : Dev) : Dev :=
  if s.flag F.FREE_RUN && s.cad.joined && s.pos.tick + 1 < s.get F.POS_END then
    s.applyPos { epoch := s.cad.appliedEpoch, pos := { s.pos with tick := s.pos.tick + 1 }, adv := false, reason := 0,
                 fromCard := false, endT := s.get F.POS_END, delay := 0, lead := 0, master := 0 } false true
  else s

/-- HANDOVER received: a candidate takes the role over, with the next epoch and the vote bitmap (03 R91); an end tick that is not its own
DEADLINE counts as announced early (DESIGN CHOICE, log 118). -/
def Dev.onHandover (s : Dev) (data : List Word) : Dev :=
  let m := TickMsg.ofWords data
  if m.master ≠ s.ident ∨ !s.mayBid ∨ s.isMaster ∨ (s.cad.seen ∧ epochNewer (s.get F.EPOCH) m.epoch) then s
  else
    let ep := (m.epoch + 1) % 65536
    -- at the last phase of the last step the position is held (03 R86)
    let held := decide (m.endT ≤ m.pos.tick + 1) && decide (stepMax ≤ m.pos.step) && decide (s.get F.PHASE_LAST ≤ m.pos.phase)
    let inPhase := decide (m.pos.tick + 1 < m.endT) || held
    let q := if held then m.pos else if inPhase then { m.pos with tick := m.pos.tick + 1 }
             else nextPhase m.pos (s.get F.PHASE_LAST)
    let t := s.get F.DEADLINE [q.phase]
    let e := if inPhase then m.endT else t
    let s := (s.put0 F.EPOCH ep).put0 F.CAD_ROLE_NOW roleMaster
    { s with cad := { s.cad with
        seen := true, master := some s.ident, issued := none,
        chainVotes := if inPhase then bitmapChains data else [], chainPart := [], unitVotes := [], unitPart := [],
        deadT := t, early := inPhase && decide (m.endT ≠ t),
        taking := some { m with epoch := ep, pos := q, adv := !inPhase, reason := if inPhase then 0 else 3, endT := e,
                                delay := 0, lead := s.get F.CAD_LEAD, master := s.ident },
        win := ⟨false, none, none, none, false⟩, handing := false, resign := false } }

end Sys2Proof.Machine
end

