-- ==== Sys2Proof/Machine/Chain.lean ====
section
/-! DEFINITION. The Porkor chain: checking, consuming and forwarding frames, port states, breaks and rejoin,
enumeration, events (04_chain). -/

namespace Sys2Proof.Machine

/-- Chain ports. -/
abbrev portU : Nat := 0
abbrev portD : Nat := 1

/-- The state field of a port. -/
def portField (port : Nat) : Fld := if port = portU then F.U_STATE else F.D_STATE

def Dev.portState (s : Dev) (port : Nat) : Nat := s.get (portField port)

def Dev.setPort (s : Dev) (port st : Nat) : Dev := (s.put0 (portField port) st).fixMode

/-! ### Frames (04 R119 to R121) -/

/-- A frame that R119 drops: reserved TYPE, wrong CLASS, or too long.  An EVENT of a reserved SUB has no required
class (04 R142). -/
def Frame.bad (f : Frame) : Bool :=
  f.typ == 0 || decide (15 ≤ f.typ) || decide (60 < f.len) ||
    (f.cls != reqClass f.typ f.sub && !(f.typ == tyEvent && (f.sub == 0 || decide (10 ≤ f.sub))))

/-- Forward a frame on the primary path: HOPS rises (04 R121). -/
def Dev.forward (s : Dev) (f : Frame) : Dev := s.txPrimary true { f with hops := f.hops + 1 }


/-- The TICK with its DELAY brought up by the link it arrived on, and by this unit's residence when it is sent on (DEDUCED, log 23). -/
def addDelay (data : List Word) (d : Nat) : List Word :=
  let m := TickMsg.ofWords data
  ({ m with delay := min (m.delay + d) (2 ^ 24 - 1) }).toWords

/-- A frame as it is sent on: a TICK's DELAY grows by the link it came on and the residence time (04 R148, 03 R76). -/
def Frame.delayed (f : Frame) (hop : Nat) : Frame := if f.typ = tyTick then { f with data := addDelay f.data hop } else f

/-- Pass a frame on the reverse path, out of U, without acting on it; a TICK counts this hop in its DELAY too (04 R148). -/
def Dev.passReverse (s : Dev) (f : Frame) (hop : Nat) : Dev := s.txU true { f.delayed hop with hops := f.hops + 1 }

/-- Does a port take traffic in: UP, or DRAIN, where the upstream end has unwrapped already (04 R134)? (DEDUCED, log 35). -/
def Dev.carries (s : Dev) (port : Nat) : Bool := s.portState port == pUp || s.portState port == pDrain

/-- A frame arrives at a port: the CRC first, then the format and the hop limit; on the reverse path of an unwrapped unit it passes;
on the primary path a unicast to this unit is consumed, a broadcast acted on and forwarded, an own broadcast
removed, and every other frame forwarded (04 R119 to R122, R133).  `act` is the unit's own action, `home` what the
return of an own broadcast does, `onward` how the frame is sent on, `hop` what a TICK on the reverse path adds to its DELAY
(DEDUCED, log 32). -/
def Dev.receive (s : Dev) (port : Nat) (f : Frame) (act home : Dev → Dev) (onward : Dev → Dev) (hop : Nat := 0) : Dev :=
  if !f.crcOk then s.count F.CRC_ERR_COUNT
  else if f.bad then s.count F.FORMAT_ERR_COUNT
  else if f.typ = tyRing then act s
  else if !s.carries port then s
  else if 252 ≤ f.hops then s.count F.ORPHAN_COUNT
  else if port = portD ∧ s.uUp then s.passReverse f hop
  else
    let me := s.get F.CHAIN_ADDR
    if f.typ = tyEnum then act s
    else if f.dst = bcast then
      if me ≠ 0 ∧ f.src = me then home s else onward (act s)
    else if me ≠ 0 ∧ f.dst = me then act s
    else onward s

/-- CHAIN_FRAME: a frame not consumed by the unit; a TICK's DELAY grows by `hop` (04 R148). -/
def Dev.chainFrame (s : Dev) (port : Nat) (f : Frame) (hop : Nat) : Dev :=
  s.receive port f id id (fun s => s.forward (f.delayed hop)) hop

/-- A relay passes a cadence message of its chain on to the fabric (16 R593). -/
def Dev.relayOn (s : Dev) (f : Frame) : Dev :=
  if s.flag F.RELAY then
    if f.typ = tyTick ∨ f.typ = tyBid then s.relayAll f.typ f.data
    else match s.cad.master with
      | some m => if m / 128 ≠ s.get F.CHAIN_ADDR_ID ∧ bitsOf (wordAt f.data 0) 20 1 = 1 then s.ctrl0 f.typ m f.data else s
      | none => s
  else s

/-- A TICK frame: received with the measured delay `link` of the link it arrived on, and forwarded with the
residence time `stay` added too (03 R76). -/
def Dev.tickFrame (s : Dev) (port : Nat) (f : Frame) (link stay : Nat) : Dev :=
  s.receive port f
    (fun s => if f.typ = tyTick then (s.onTick (TickMsg.ofWords (addDelay f.data link))) else s) id
    (fun s =>
      let f' := f.delayed (link + stay)
      (if f.typ = tyTick ∧ s.cad.master.any (· / 128 == s.get F.CHAIN_ADDR_ID) then s.relayOn f' else s).forward f') (link + stay)

def Dev.voteFrame (s : Dev) (port : Nat) (f : Frame) : Dev :=
  s.receive port f (fun s => if f.typ = tyVote then s.onVote (VoteMsg.ofWords f.data) else s) id fun s => s.forward f

def Dev.partFrame (s : Dev) (port : Nat) (f : Frame) (join : Bool) : Dev :=
  s.receive port f
    (fun s => if f.typ = (if join then tyJoin else tyLeave) then s.onPart join (VoteMsg.ofWords f.data) else s) id
    fun s => s.forward f

def Dev.bidFrame (s : Dev) (port : Nat) (f : Frame) : Dev :=
  s.receive port f
    (fun s => if f.typ = tyBid then (s.onBid (BidMsg.ofWords f.data)).relayOn f else s) id
    fun s => if f.typ = tyBid then s.offerBid true { f with hops := f.hops + 1 } else s.forward f

/-- DEDUCED, log 27. -/
def Dev.handoverFrame (s : Dev) (port : Nat) (f : Frame) : Dev :=
  s.receive port f (fun s => if f.typ = tyHandover then s.onHandover f.data else s) id fun s => s.forward f

/-! ### Ports, breaks and rejoin (04 R133 to R135) -/

/-- The RING payload (04 Table 4.6) sent from a port. -/
def Dev.ringWords (s : Dev) (port : Nat) : List Word :=
  [BitVec.ofNat 32 (s.get F.CHAIN_ADDR + s.get F.CHAIN_ADDR_ID * 2 ^ 8 + port * 2 ^ 16 + s.ringMode * 2 ^ 17),
   BitVec.ofNat 32 (s.get F.SERIAL_LO), BitVec.ofNat 32 (s.get F.SERIAL_HI), 0]

/-- Send a RING frame out of a port: SUB 1 HELLO, 2 BREAK, 3 UNWRAP.  Its DST is 127, since 0 is for ENUM frames only (04 Table 4.1). -/
def Dev.sendRing (s : Dev) (port sub : Nat) : Dev :=
  let f := s.ownFrame tyRing sub bcast 0 (s.ringWords port)
  if port = portU then s.txU false f else s.txD false f

/-- Signal on a port in DOWN: TRAIN (04 R134). -/
def Dev.signalDetect (s : Dev) (port : Nat) : Dev :=
  if s.portState port = pDown then s.setPort port pTrain else s

/-- OPEN_BREAK: the bit of the upstream end of a broken link (19 R700). -/
def Dev.markBreak (s : Dev) (a : Nat) (broken : Bool) : Dev :=
  if a < 128 then
    s.put F.OPEN_BREAK [a / 32] (putBits (s.get F.OPEN_BREAK [a / 32]) (a % 32) 1 (b2n broken))
  else s

/-- What waits at the transmitter of a port that goes DOWN: frames bound out of D are sent out of U on the reverse path, RING frames and
frames on their way up the failed link are lost with it (04 R133) (DEDUCED, log 113). -/
def Dev.rewrap (s : Dev) (port : Nat) : Dev :=
  let l := s.chain.txD.filter fun e => e.frame.typ != tyRing
  if port = portU then { s with chain := { s.chain with txU := [] } }
  else { s with chain := { s.chain with txD := [], txU := if s.uUp then l.foldl (fun t e => txInsert e t) s.chain.txU else s.chain.txU } }

/-- 1 ms in TRAIN without lock: DOWN, which BREAK_EV reports (04 Table 4.5; 21 Table 21.6). -/
def Dev.trainTimeout (s : Dev) (port : Nat) : Dev :=
  if s.portState port = pTrain then
    (((s.setPort port pDown).rewrap port).put0 (if port = portU then F.MISWIRE_U else F.MISWIRE_D) 0).chainEvent F.BREAK_EV 3
  else s

/-- A port loses its link: wrap, RING BREAK to the remaining neighbour, EVENT BREAK to all (04 R133, R155). -/
def Dev.linkDown (s : Dev) (port : Nat) : Dev :=
  if s.portState port = pDown then s
  else
    let nbr := s.get F.NBR_ADDR [port]
    let s := (s.setPort port pDown).rewrap port
    let s := (s.put F.NBR_VALID [port] 0).put0 (if port = portU then F.MISWIRE_U else F.MISWIRE_D) 0
    let s := (s.chainEvent F.BREAK_EV 3).count F.BREAK_COUNT
    let s := if s.portState (1 - port) = pUp then s.sendRing (1 - port) 2 else s
    let s := s.sendEvent 3 bcast (port + nbr * 2 ^ 8)
    -- the unit's own map follows the rule it applies to others' events (19 R700)
    s.markBreak (if port = portD then s.get F.CHAIN_ADDR else nbr) true

/-- 1 ms in HOLDOFF without loss: a D port goes UP, unwraps and sends RING UNWRAP. -/
def Dev.holdoffExpiry (s : Dev) : Dev :=
  if s.portState portD = pHoldoff then ((s.setPort portD pUp).sendRing portD 3).chainEvent F.UNWRAP_EV 4 else s

/-- The hello timer: HELLO on a port in TRAIN or UP (04 R135). -/
def Dev.helloTimer (s : Dev) (port : Nat) : Dev :=
  if s.portState port = pTrain ∨ s.portState port = pUp then s.sendRing port 1 else s

/-- RING HELLO: a locked training port with the opposite letter at its far end enters HOLDOFF; the same letter is a
miswire; an UP port refreshes its neighbour (04 R134, R153). -/
def Dev.ringHello (s : Dev) (port : Nat) (f : Frame) (locked : Bool) : Dev :=
  if f.sub ≠ 1 then s
  else
    let w := wordAt f.data 0
    let far := bitsOf w 16 1
    let record := fun (s : Dev) =>
      (((s.put F.NBR_ADDR [port] (bitsOf w 0 7)).put F.NBR_CHAIN_ID [port] (bitsOf w 8 8)).put F.NBR_PORT [port]
        far).put F.NBR_VALID [port] 1
    if s.portState port = pTrain then
      if far = port then s.put0 (if port = portU then F.MISWIRE_U else F.MISWIRE_D) 1
      else if locked then
        ((record s).put0 (if port = portU then F.MISWIRE_U else F.MISWIRE_D) 0).setPort port pHoldoff
      else s
    else if s.portState port = pDown then s
    else record s

/-- RING UNWRAP on a U port in HOLDOFF: DRAIN (04 R134). -/
def Dev.ringUnwrap (s : Dev) (port : Nat) (f : Frame) : Dev :=
  if f.sub = 3 ∧ port = portU ∧ s.portState portU = pHoldoff then s.setPort portU pDrain else s

/-! ### Enumeration (04 R127 to R132) -/

/-- The 128-bit TAKEN map of a token. -/
def tokenTaken (l : List Word) : Nat :=
  wordAt l 3 + 2 ^ 32 * wordAt l 4 + 2 ^ 64 * wordAt l 5 + 2 ^ 96 * wordAt l 6

/-- A token (04 Table 4.3). -/
def tokenWords (chainId pass gen cnt serialLo serialHi taken : Nat) : List Word :=
  [BitVec.ofNat 32 (chainId % 256 + pass % 2 * 2 ^ 8 + gen % 256 * 2 ^ 16 + cnt % 128 * 2 ^ 24), BitVec.ofNat 32 serialLo,
   BitVec.ofNat 32 serialHi, BitVec.ofNat 32 taken, BitVec.ofNat 32 (taken / 2 ^ 32), BitVec.ofNat 32 (taken / 2 ^ 64),
   BitVec.ofNat 32 (taken / 2 ^ 96), 0]

/-- Adopt an address and chain id, and keep them as the sticky address (04 R127, Table 4.4 step 4). -/
def Dev.adoptAddr (s : Dev) (a cid : Nat) : Dev :=
  let ch := s.get F.CHAIN_ADDR ≠ a ∨ s.get F.CHAIN_ADDR_ID ≠ cid
  let s := ((s.put0 F.CHAIN_ADDR a).put0 F.CHAIN_ADDR_ID cid).put0 F.DUP_ADDR 0
  let s := s.put0 F.CHAIN_FULL 0
  { s with chain := { s.chain with sticky := some (a, cid), changed := s.chain.changed || decide ch } }

/-- The address becomes 0: the unit asks for one again (04 R131). -/
def Dev.loseAddr (s : Dev) : Dev :=
  let ch := s.get F.CHAIN_ADDR ≠ 0
  let s := s.put0 F.CHAIN_ADDR 0
  { s with chain := { s.chain with changed := s.chain.changed || decide ch } }

/-- The head sends an ENUM token out of D. -/
def Dev.sendEnum (s : Dev) (tok : List Word) : Dev :=
  s.txPrimary false {
    dst := 0, src := 1, typ := tyEnum, cls := 1, len := 8, tag := 0, hops := 0, chain := s.get F.CHAIN_ID,
    sub := 0, data := tok, crcOk := true }

/-- A unit sends the token it has handled on (04 R129). -/
def Dev.passEnum (s : Dev) (f : Frame) (tok : List Word) : Dev := s.forward { f with data := tok }

def Dev.setEnum (s : Dev) (e : Option EnumRun) : Dev := { s with chain := { s.chain with enum := e } }

/-- The end of an enumeration at the head: the map, the count and EVENT ENUM_DONE (04 Table 4.4 step 5). -/
def Dev.enumDone (s : Dev) (taken cnt : Nat) : Dev :=
  let s := s.forEach [0, 1, 2, 3] fun s i => s.put F.CHAIN_MAP [i] (taken / 2 ^ (32 * i))
  let s := ((s.put0 F.CHAIN_COUNT cnt).setEnum none).sendEvent 2 bcast (s.get F.CHAIN_GEN)
  if s.chain.changed then
    ({ s with chain := { s.chain with changed := false } }).chainEvent F.ADDR_CHANGED 2
  else s

/-- One enumeration starts: GEN rises, the head takes address 1 and sends the claim pass; an isolated head
enumerates itself without sending a frame (04 R130, R152). -/
def Dev.enumBegin (s : Dev) : Dev :=
  let gen := (s.get F.CHAIN_GEN + 1) % 256
  let s := (s.put0 F.CHAIN_GEN gen).adoptAddr 1 (s.get F.CHAIN_ID)
  let tok := tokenWords (s.get F.CHAIN_ID) 0 gen 1 (s.get F.SERIAL_LO) (s.get F.SERIAL_HI) 2
  let s := { s with chain := { s.chain with lastStart := some s.now } }
  if s.ringMode = 3 then s.enumDone 2 1
  else (s.setEnum (some ⟨0, 0, tok⟩)).sendEnum tok

/-- 1 ms in always-on cycles (DESIGN CHOICE, log 2). -/
abbrev oneMs : Nat := 25000

/-- A reason to start: at most one enumeration per 1 ms, and at most one further start queued (04 R130). -/
def Dev.enumStart (s : Dev) : Dev :=
  if !s.flag F.CHAIN_HEAD then s
  else if s.chain.enum.isSome then { s with chain := { s.chain with queued := true } }
  else match s.chain.lastStart with
    | some t => if s.now < t + oneMs then { s with chain := { s.chain with queued := true } } else s.enumBegin
    | none => s.enumBegin

/-- The queued start begins once the interval has passed and no pass is out. -/
def Dev.enumQueued (s : Dev) : Dev :=
  if s.chain.queued && s.chain.enum.isNone && s.flag F.CHAIN_HEAD && (match s.chain.lastStart with
      | some t => decide (t + oneMs ≤ s.now)
      | none => true) then
    ({ s with chain := { s.chain with queued := false } }).enumBegin
  else s

/-- The serial a token carries, and this unit's. -/
def tokenSerial (l : List Word) : Nat := wordAt l 1 + 2 ^ 32 * wordAt l 2
def Dev.serial (s : Dev) : Nat := s.get64 F.SERIAL_LO F.SERIAL_HI

/-- The preferred address (04 R127); 0 is none. -/
def Dev.prefAddr (s : Dev) : Option Nat :=
  if s.flag F.PREF_EN ∧ s.get F.PREF_ADDR ≠ 0 then some (s.get F.PREF_ADDR) else none

/-- The claim of a unit in the claim pass (04 Table 4.4 step 2) (DEDUCED, log 33). -/
def Dev.enumClaimUnit (s : Dev) (f : Frame) : Dev :=
  let l := f.data
  let cid := bitsOf (wordAt l 0) 0 8
  let taken := tokenTaken l
  let want := match s.chain.sticky with
    | some (a, c) => if c = cid then some a else s.prefAddr
    | none => s.prefAddr
  let key := fun a => some (a, tokenSerial l, bitsOf (wordAt l 0) 16 8)
  let (s, taken) := match want with
    | some a =>
      if bitAt taken a then
        ((({ s with chain := { s.chain with claimed := none, assigned := false } }).loseAddr).put0 F.DUP_ADDR 1, taken)
      else ({ s with chain := { s.chain with claimed := key a } }, setBit taken a)
    | none => ({ s with chain := { s.chain with claimed := none } }, taken)
  s.passEnum f
      (tokenWords cid 0 (bitsOf (wordAt l 0) 16 8) (bitsOf (wordAt l 0) 24 7 + 1) (wordAt l 1) (wordAt l 2) taken)

/-- The assignment of a unit in the assign pass (04 Table 4.4 step 4). -/
def Dev.enumAssignUnit (s : Dev) (f : Frame) : Dev :=
  let l := f.data
  let cid := bitsOf (wordAt l 0) 0 8
  let gen := bitsOf (wordAt l 0) 16 8
  let taken := tokenTaken l
  let claim := match s.chain.claimed with
    | some (a, k) => if k = (tokenSerial l, gen) then some a else none
    | none => none
  let (addr, taken) := match claim with
    | some a => (some a, taken)
    | none => match ((List.range 127).drop 1).find? fun a => !bitAt taken a with
      | some a => (some a, setBit taken a)
      | none => (none, taken)
  let s := match addr with
    | some a => s.adoptAddr a cid
    | none => s.loseAddr.put0 F.CHAIN_FULL 1
  let s := ({ s with chain := { s.chain with assigned := true } }).put0 F.CHAIN_GEN gen
  s.passEnum f (tokenWords cid 1 gen (bitsOf (wordAt l 0) 24 7 + 1) (wordAt l 1) (wordAt l 2) taken)

/-- A head that meets another head's token with a lower serial than its own gives up the role (04 R132). -/
def Dev.headConflict (s : Dev) : Dev :=
  let s := (s.put0 F.CHAIN_HEAD 0).setEnum none
  ({ s with chain := { s.chain with queued := false } }).chainEvent F.HEAD_CONFLICT 1

/-- A claim-pass token arrives (04 R129, R132).  The assign pass has 8 resends of its own: R130 counts them by pass or by enumeration
and says not which (DESIGN CHOICE, log 121). -/
def Dev.enumClaim (s : Dev) (port : Nat) (f : Frame) : Dev :=
  s.receive port f
    (fun s =>
      if f.typ ≠ tyEnum ∨ bitAt (wordAt f.data 0) 8 then s
      else if s.flag F.CHAIN_HEAD then
        if tokenSerial f.data = s.serial then
          match s.chain.enum with
          | some e =>
            if e.pass = 0 ∧ bitsOf (wordAt f.data 0) 16 8 = s.get F.CHAIN_GEN then
              let tok := tokenWords (s.get F.CHAIN_ID) 1 (s.get F.CHAIN_GEN) 1 (s.get F.SERIAL_LO) (s.get F.SERIAL_HI)
                (tokenTaken f.data)
              (s.setEnum (some ⟨1, 0, tok⟩)).sendEnum tok
            else s
          | none => s
        else if s.serial < tokenSerial f.data then s
        else s.headConflict.enumClaimUnit f
      else s.enumClaimUnit f) id fun s => s.forward f

/-- An assign-pass token arrives. -/
def Dev.enumAssign (s : Dev) (port : Nat) (f : Frame) : Dev :=
  s.receive port f
    (fun s =>
      if f.typ ≠ tyEnum ∨ !bitAt (wordAt f.data 0) 8 then s
      else if s.flag F.CHAIN_HEAD then
        if tokenSerial f.data = s.serial then
          match s.chain.enum with
          | some e =>
            if e.pass = 1 ∧ bitsOf (wordAt f.data 0) 16 8 = s.get F.CHAIN_GEN then
              s.enumDone (tokenTaken f.data) (bitsOf (wordAt f.data 0) 24 7)
            else s
          | none => s
        else if s.serial < tokenSerial f.data then s
        else s.headConflict.enumAssignUnit f
      else s.enumAssignUnit f) id fun s => s.forward f

/-- A pass that has not returned within 1 ms is resent; after 8 resends ENUM_FAIL (04 R130). -/
def Dev.enumTimeout (s : Dev) : Dev :=
  match s.chain.enum with
  | none => s
  | some e =>
    if e.resends < 8 then (s.setEnum (some { e with resends := e.resends + 1 })).sendEnum e.token
    else (s.setEnum none).chainEvent F.ENUM_FAIL 0

/-- 512 µs in DRAIN: a U port goes UP, unwraps and broadcasts UNWRAP_DONE naming its upstream neighbour. -/
def Dev.drainExpiry (s : Dev) : Dev :=
  if s.portState portU = pDrain then
    let nbr := s.get F.NBR_ADDR [portU]
    let s := (s.setPort portU pUp).chainEvent F.UNWRAP_EV 4
    ((s.sendEvent 4 bcast (nbr * 2 ^ 8)).markBreak nbr false).enumStart
  else s

/-! ### Events (04 R142, Table 4.8) -/

/-- An EVENT frame of one SUB: its action, then the rule of R121. -/
def Dev.eventFrame (s : Dev) (port : Nat) (f : Frame) (sub : Nat) (act : Dev → Dev) : Dev :=
  s.receive port f (fun s => if f.typ = tyEvent ∧ f.sub = sub then act s else s) id fun s => s.forward f

/-- EVENT ENUM_DONE: a changed identity is reported (04 Table 4.4 step 6). -/
def Dev.onEnumDone (s : Dev) : Dev :=
  if s.chain.changed then ({ s with chain := { s.chain with changed := false } }).chainEvent F.ADDR_CHANGED 2 else s

/-- EVENT BREAK: OPEN_BREAK of the upstream end (19 R700). -/
def Dev.onBreak (s : Dev) (f : Frame) : Dev :=
  let a := wordAt f.data 0
  s.markBreak (if bitsOf a 0 1 = portD then f.src else bitsOf a 8 7) true

/-- EVENT UNWRAP_DONE: OPEN_BREAK clears, and the head enumerates (19 R700, 04 R130). -/
def Dev.onUnwrapDone (s : Dev) (f : Frame) : Dev :=
  (s.markBreak (bitsOf (wordAt f.data 0) 8 7) false).enumStart

/-- EVENT DRAIN: the sender's bit in DRAIN_SEEN (19 R701). -/
def Dev.onDrain (s : Dev) (f : Frame) : Dev :=
  let w := f.src / 32
  (s.put F.DRAIN_SEEN [w] (putBits (s.get F.DRAIN_SEEN [w]) (f.src % 32) 1 (bitsOf (wordAt f.data 0) 0 1))).panelEvent
    F.DRAIN_SEEN_EV 3

/-- EVENT ATTACH every 10 ms from a unit with address 0, until it receives an assign pass (04 R131). -/
def Dev.attachTimer (s : Dev) : Dev := if s.get F.CHAIN_ADDR = 0 ∧ !s.chain.assigned then s.sendEvent 1 1 0 else s

end Sys2Proof.Machine
end

