-- ==== Sys2Proof/Machine/Shelf.lean ====
section
/-! DEFINITION. Shelf links: which dies each joins, the path of a transaction between two dies, and what becomes of a path
whose links are down or retrain (01_package R26 to R33, R43 to R46). -/

namespace Sys2Proof.Machine

/-- The two dies that shelf link `l` joins (01 Table 1.3).  The spec numbers no link: the numbers are the model's, in the order of
the table's rows (DESIGN CHOICE, log 112). -/
def shelfEnds (l : Nat) : Nat × Nat :=
  if l < 6 then (l, 6) else if l < 12 then (l - 6, 7) else if l < 18 then (l - 12, (l - 11) % 6) else (6, 7)

/-- The links that end on a die: 4 on a crest die, 8 on a col die (01 Table 1.2). -/
def shelfLinksAt (d : Nat) : List Nat := (List.range 20).filter fun l => (shelfEnds l).1 == d || (shelfEnds l).2 == d

/-- The die that a record about a shelf link names: the crest end, the lower one of a ring link, Col-A for the links between the col
dies; the spec names no end (DESIGN CHOICE, log 112). -/
def shelfDie (l : Nat) : Nat := (shelfEnds l).1

/-- Ring neighbours (01 R29). -/
def ringNeighbours (a b : Nat) : Bool := decide (a < 6) && decide (b < 6) && ((a + 1) % 6 == b || (b + 1) % 6 == a)

/-- The ring link between neighbours. -/
def ringLink (a b : Nat) : Nat := 12 + (if (a + 1) % 6 = b then a else b)

/-- Does the link carry traffic, on one module or on both (01 R33)? -/
def Dev.shelfUp (s : Dev) (l : Nat) : Bool := Tab.get 0 s.warden.shelf l != 2

/-- May traffic cross the col die: it is present and not lost (01 R43)? -/
def Dev.colCrossed (s : Dev) (c : Nat) : Bool := s.diePresent c && !s.dieIsLost c

/-- The paths between the col dies: either link, while it is up (01 R30). -/
def Dev.colToCol (s : Dev) : List (List Nat) := ([18, 19].filter s.shelfUp).map fun l => [l]

/-- The paths from crest die `k` to col die `c`: the direct link, or through the other col die while that link is down (01 R33). -/
def Dev.colLeg (s : Dev) (k c : Nat) : List (List Nat) :=
  let l := fun c => k + 6 * (c - 6)
  if s.shelfUp (l c) then [[l c]]
  else if s.shelfUp (l (13 - c)) && s.colCrossed (13 - c) then s.colToCol.map fun p => l (13 - c) :: p
  else []

/-- The col die that a path between crest dies to `dst` crosses: by the parity of the destination, the other one while that one is
absent or lost (01 R30, R43). -/
def Dev.viaCol (s : Dev) (dst : Nat) : Nat := if s.colCrossed (6 + dst % 2) then 6 + dst % 2 else 7 - dst % 2

/-- The paths of a request from die `src` to die `dst`, each the links it crosses in order; several where the device spreads
traffic (01 R30, R33, R43). -/
def Dev.shelfPaths (s : Dev) (src dst : Nat) : List (List Nat) :=
  if src = dst ∨ 8 ≤ src ∨ 8 ≤ dst then [[]]
  else if 6 ≤ src ∧ 6 ≤ dst then s.colToCol
  else if 6 ≤ src then (s.colLeg dst src).map List.reverse
  else if 6 ≤ dst then s.colLeg src dst
  else if ringNeighbours src dst ∧ s.shelfUp (ringLink src dst) then [[ringLink src dst]]
  else
    let c := s.viaCol dst
    if s.colCrossed c then (s.colLeg src c).flatMap fun p => (s.colLeg dst c).map fun q => p ++ q.reverse else []

/-- Is traffic on the path held: does a module of one of its links retrain (01 R46)? -/
def Dev.shelfHeld (s : Dev) (p : List Nat) : Bool := p.any fun l => Tab.get false s.warden.retraining l && s.shelfUp l

/-- The path a request takes: one that is not held, where the device has the choice (DEDUCED, log 123). -/
def Dev.shelfPath (s : Dev) (src dst : Nat) : Option (List Nat) :=
  match (s.shelfPaths src dst).find? fun p => !s.shelfHeld p with
  | some p => some p
  | none => (s.shelfPaths src dst).head?

/-- A response returns by the reverse of its request's path (01 R30). -/
def responsePath (p : List Nat) : List Nat := p.reverse

/-- What a request from one die to another meets: a path, a path that is held, or none. -/
inductive ShelfWay where
  | open
  | held
  | none
deriving DecidableEq, Repr

def Dev.shelfWay (s : Dev) (src dst : Nat) : ShelfWay :=
  match s.shelfPath src dst with
  | some p => if s.shelfHeld p then .held else .open
  | none => .none

end Sys2Proof.Machine
end

