-- ==== Sys2Proof/Machine/Mem.lean ====
section
/-! DEFINITION. Memory: the device address map, translation, the MPU, poison and ECC, and the commands' own reads
and writes (15_memory, 06_partitions R214 to R219). -/

namespace Sys2Proof.Machine

/-- Why a command's work stops: it ends with a status and a detail, or it waits (07 R263). -/
inductive Stop where
  | ended (status detail : Nat)
  | wait
deriving DecidableEq, Repr

/-- The work of a command: what it did before it stopped stands (06 R217, 07 R242). -/
abbrev Act := EStateM Stop Dev

/-- The unit as it stands. -/
def theDev : Act Dev := get

/-- Change the unit. -/
def act (f : Dev → Dev) : Act Unit := modify f

/-- End with a status and a detail. -/
def stopWith {α : Type} (st detail : Nat) : Act α := throw (.ended st detail)

/-! ### DETAIL values of Table 7.9 -/

abbrev dBADOP : Nat := 0x10
abbrev dBADLEN : Nat := 0x11
abbrev dBADFIELD : Nat := 0x12
abbrev dNOTOWNED : Nat := 0x13
abbrev dMPU : Nat := 0x14
abbrev dFENCEPROT : Nat := 0x15
abbrev dFENCETIMEOUT : Nat := 0x16
abbrev dWAITLATE : Nat := 0x17
abbrev dVOTESTALE : Nat := 0x18
abbrev dALARMPROT : Nat := 0x19
abbrev dALARMLATE : Nat := 0x1A
abbrev dDIELOST : Nat := 0x1B
abbrev dHOSTACCESS : Nat := 0x1C
abbrev dPOISON : Nat := 0x1D
abbrev dNUMERICTRAP : Nat := 0x1E
abbrev dCHUNKFAULT : Nat := 0x1F

/-! ### Reports to the warden -/

/-- Hand a detected fault to the warden (17 R619). -/
def Dev.report (s : Dev) (code die mid : Nat) (part : Option Nat) (addr arg : Nat) : Dev :=
  { s with reports := s.reports ++ [⟨code, die, mid, part, addr, arg, s.pos, s.cycle⟩] }

/-- A memory in its canonical form: addresses strictly rising, and no byte listed that an unlisted address reads as, which is 0
(15: the spec gives RAM no contents after power-on; assumption 7) (DESIGN CHOICE, log 7). -/
abbrev Memory.wf (m : Tab Byte) : Bool := Tab.wf (fun _ => (0 : Byte)) m

/-! ### The device address map (15 R524, R540) -/

abbrev GiB : Nat := 2 ^ 30

/-- Where a device address leads. -/
inductive Route where
  | tarn (die : Nat)
  | sram (die : Nat)
  | setup (off : Nat)
  | warden
  | ext (port key : Nat)
  | unmapped
deriving DecidableEq, Repr

/-- Storage keys of expander memory lie above every device address of the map. -/
def extKey (port dpa : Nat) : Nat := 2 ^ 48 + port * 2 ^ 40 + dpa

/-- The port and the expander address behind an offset of the external window, in the mode in force (15 R540) (PRESUMED, log 11). -/
def Dev.extRoute (s : Dev) (off : Nat) : Option (Nat × Nat) :=
  let g := if s.ext.ig then 4096 else 256
  let cap := fun p => s.get F.XP_CAP_GIB [p / 2, p % 2] * GiB
  if s.flag F.EXT_BUSY then none
  else if s.get F.EXT_MODE_NOW = 1 then
    let p := off / (64 * GiB)
    let a := off % (64 * GiB)
    if p < 12 ∧ a < cap p then some (p, a) else none
  else if s.get F.EXT_MODE_NOW = 2 then
    let d := off / (128 * GiB)
    let o := off % (128 * GiB)
    if 6 ≤ d then none
    else if cap (2 * d) ≠ 0 ∧ cap (2 * d + 1) ≠ 0 then
      let a := o / (2 * g) * g + o % g
      if a < min (cap (2 * d)) (cap (2 * d + 1)) then some (2 * d + o / g % 2, a) else none
    else
      let p := if cap (2 * d) ≠ 0 then 2 * d else 2 * d + 1
      if o < cap p then some (p, o) else none
  else if s.get F.EXT_MODE_NOW = 3 then
    -- 12 ways: four by address bits, three by the remainder, as CXL decoders combine them (PRESUMED, log 11)
    let k := off / (4 * g) % 3 * 4 + off / g % 4
    let a := off / (12 * g) * g + off % g
    if a < ((List.range 12).map cap).foldl min (64 * GiB) then some (k, a) else none
  else none

/-- The target of a device address (15 Table 15.1). -/
def Dev.route (s : Dev) (a : Nat) : Route :=
  if a < 6 * 2 ^ 32 then (if a % 2 ^ 32 < 3 * GiB then .tarn (a / 2 ^ 32) else .unmapped)
  else if 0x600000000 ≤ a ∧ a < 0x600000000 + 2 * GiB then .sram 6
  else if 0x700000000 ≤ a ∧ a < 0x700000000 + 2 * GiB then .sram 7
  else if 0x800000000 ≤ a ∧ a < 0x800000000 + 2 ^ 26 then .setup (a - 0x800000000)
  else if 0x900000000 ≤ a ∧ a < 0x900000000 + 2 ^ 20 then .warden
  else if 2 ^ 40 ≤ a ∧ a < 2 ^ 40 + 768 * GiB then
    match s.extRoute (a - 2 ^ 40) with
    | some (p, k) => .ext p (extKey p k)
    | none => .unmapped
  else .unmapped

/-- The bank of a 64 B block (15 R530). -/
def tarnBank (o : Nat) : Nat :=
  bitsOf o 6 5 ^^^ bitsOf o 11 5 ^^^ bitsOf o 16 5 ^^^ bitsOf o 21 5 ^^^ bitsOf o 26 5 ^^^ bitsOf o 31 1

/-- Is the CXL port unusable: lost, or its die gone (15 R543)? -/
def Dev.portGone (s : Dev) (p : Nat) : Bool := Tab.get false s.ext.lost p || s.dieGone (p / 2)

/-- The window of a partition, cut at 768 GiB (15 R526, R528). -/
def Dev.xwBase (s : Dev) (n : Nat) : Nat := s.get F.XW_BASE_LO [n] * 2 ^ 26 + s.get F.XW_BASE_HI [n] * 2 ^ 32
def Dev.xwSize (s : Dev) (n : Nat) : Nat :=
  min (s.get F.XW_SIZE_LO [n] * 2 ^ 26 + s.get F.XW_SIZE_HI [n] * 2 ^ 32) (768 * GiB - s.xwBase n)

/-- A partition address as a device address (15 R526). -/
def Dev.translate (s : Dev) (n p : Nat) : Option Nat :=
  if p < 2 ^ 40 then some p
  else if p < 2 ^ 40 + s.xwSize n then some (p + s.xwBase n) else none

/-! ### Who accesses (06 R204, R205) -/

/-- An access's tags: acting partition, level (0 partition, 1 steward, 2 warden), master identity, and whether it
is made for a chunk that was running when a release was dispatched (06 R210). -/
structure Acc where
  part : Nat
  level : Nat
  mid : Nat
  grand : Bool
deriving DecidableEq, Repr

/-- Access kinds. -/
abbrev kRead : Nat := 0
abbrev kWrite : Nat := 1
abbrev kExec : Nat := 2

/-- A master identity: die, unit, core (06 R204). -/
def midOf (die unit core : Nat) : Nat := die * 128 + unit * 8 + core

/-! ### Ownership (06 R203, R210, R211) -/

def Dev.part (s : Dev) (p : Nat) : Part := Tab.get Part.reset s.parts p
def Dev.updPart (s : Dev) (p : Nat) (f : Part → Part) : Dev := { s with parts := Tab.upd Part.reset s.parts p f }

/-- Bit `g` of the granule mask of die `d` in the active set. -/
def Dev.activeGran (s : Dev) (p d : Nat) : Nat := s.get F.ACT_GRAN_LO [p, d] + 2 ^ 32 * s.get F.ACT_GRAN_HI [p, d]

/-- First group and count of the macro group range on die `d`. -/
def Dev.activeGroups (s : Dev) (p d : Nat) : Nat × Nat :=
  (bitsOf (s.get F.ACT_SCREE_GROUPS [p, d]) 0 16, bitsOf (s.get F.ACT_SCREE_GROUPS [p, d]) 16 16)

/-- Is a resource in the partition's active set? -/
def Dev.inActive (s : Dev) (p : Nat) (r : Res) : Bool :=
  match r.kind with
  | 0 => bitAt (s.get F.ACT_SUMMIT_MASK [p, r.die / 2]) (12 * (r.die % 2) + r.idx)
  | 1 => bitsOf (s.get F.ACT_ENGINE_SHARE [p, r.die]) 0 8 != 0
  | 2 => bitsOf (s.get F.ACT_ENGINE_SHARE [p, r.die]) 8 8 != 0
  | 3 => bitsOf (s.get F.ACT_ENGINE_SHARE [p, r.die]) 16 8 != 0
  | 4 => decide ((s.activeGroups p r.die).1 ≤ r.idx ∧ r.idx < (s.activeGroups p r.die).1 + (s.activeGroups p r.die).2)
  | 5 => bitAt (s.activeGran p r.die) r.idx
  | _ => bitAt (s.get F.ACT_COL_PORTS [p]) r.idx

/-- Does a resource (a range of them) cover one resource? -/
def Res.covers (r x : Res) : Bool :=
  r.kind == x.kind && r.die == x.die && decide (r.idx ≤ x.idx) && decide (x.idx < r.idx + r.cnt)

/-- Does the access count the resource as owned: in the active set and not releasing, or releasing and the chunk
was running when the release was dispatched? -/
def Dev.owns (s : Dev) (a : Acc) (r : Res) : Bool :=
  if (s.part a.part).releasing.any (·.covers r) then a.grand
  else s.inActive a.part r && !(s.part a.part).claims.any (·.covers r)

/-- Has a reshape given the resource to the partition, with its release still under way (06 R211)? -/
def Dev.claimed (s : Dev) (p : Nat) (r : Res) : Bool := (s.part p).claims.any (·.covers r)

/-! ### The MPU (06 R214) -/

/-- Causes of Table 6.9. -/
abbrev vNOREGION : Nat := 1
abbrev vPERMISSION : Nat := 2
abbrev vGRANULE : Nat := 3
abbrev vMACRO : Nat := 4
abbrev vDEVICE : Nat := 5

/-- A refusal: cause, deciding region, global. -/
structure Viol where
  cause : Nat
  region : Nat
  glob : Bool
deriving DecidableEq, Repr

/-- A region contains the address and matches the master (06 R215). -/
def regionHit (en base top mtch mask addr mid : Nat) : Bool :=
  en == 1 && decide (base ≤ addr) && decide (addr < top) && (mid &&& mask) == (mtch &&& mask)

def Dev.globalHit (s : Dev) (g addr mid : Nat) : Bool :=
  regionHit (s.get F.GR_EN [g]) (s.get64 F.GR_BASE_LO F.GR_BASE_HI [g]) (s.get64 F.GR_TOP_LO F.GR_TOP_HI [g])
    (s.get F.GR_MATCH [g]) (s.get F.GR_MASK [g]) addr mid

def Dev.partHit (s : Dev) (n r addr mid : Nat) : Bool :=
  regionHit (s.get F.PR_EN [n, r]) (s.get64 F.PR_BASE_LO F.PR_BASE_HI [n, r]) (s.get64 F.PR_TOP_LO F.PR_TOP_HI [n, r])
    (s.get F.PR_MATCH [n, r]) (s.get F.PR_MASK [n, r]) addr mid

/-- Is the address in device-only space (15 R524)? -/
def Route.deviceOnly : Route → Bool
  | .sram _ => true
  | .setup _ => true
  | .warden => true
  | _ => false

/-- Steps 3 and 4 of R214. -/
def Dev.regionCheck (s : Dev) (a : Acc) (kind addr : Nat) : Option Viol :=
  match (List.range 16).find? fun g => s.globalHit g addr a.mid with
  | some g =>
    if !bitAt (s.get F.GR_RWX [g]) (3 * a.level + kind) then some ⟨vPERMISSION, g, true⟩
    else if a.level ≠ 0 then none
    else match (List.range 64).find? fun r => s.partHit a.part r addr a.mid with
      | some r => if bitAt (s.get F.PR_RWX [a.part, r]) kind then none else some ⟨vPERMISSION, r, false⟩
      | none => some ⟨vNOREGION, 0, false⟩
  | none =>
    if a.level ≠ 0 then none
    else match (List.range 64).find? fun r => s.partHit a.part r addr a.mid with
      | some r => if bitAt (s.get F.PR_RWX [a.part, r]) kind then none else some ⟨vPERMISSION, r, false⟩
      | none => some ⟨vNOREGION, 0, false⟩

/-- The check of one piece by its first byte, a device address (06 R214, 15 R525). -/
def Dev.mpuCheck (s : Dev) (a : Acc) (kind addr : Nat) : Option Viol :=
  if a.level = 0 then
    match s.route addr with
    | .unmapped => some ⟨vNOREGION, 0, false⟩
    | .tarn d =>
      if s.owns a ⟨5, d, addr % 2 ^ 32 / 2 ^ 26, 1⟩ then s.regionCheck a kind addr else some ⟨vGRANULE, 0, false⟩
    | r => if r.deviceOnly then some ⟨vDEVICE, 0, false⟩ else s.regionCheck a kind addr
  else s.regionCheck a kind addr

/-- The word of a violation record at offset 0x708 (06 Table 6.4). -/
def violInfo (a : Acc) (kind : Nat) (v : Viol) : Nat :=
  a.mid % 1024 + a.level * 2 ^ 10 + kind * 2 ^ 12 + v.cause * 2 ^ 14 + v.region % 64 * 2 ^ 17 + b2n v.glob * 2 ^ 23

/-- Latch a violation while VALID is 0, in the acting partition's record or the global one (06 R218, R219). -/
def Dev.latchViol (s : Dev) (a : Acc) (kind : Nat) (v : Viol) (addr : Nat) : Dev :=
  if a.level = 0 then
    let n := a.part
    if s.flag F.VIOL_VALID [n] then s
    else
      let s := s.put64 F.VIOL_ADDR_LO F.VIOL_ADDR_HI [n] addr
      let s := (s.put F.VIOL_INFO [n] (violInfo a kind v)).put F.VIOL_VALID [n] 1
      let s := (s.put F.VIOL_TICK [n] s.pos.tick).put F.VIOL_PHASE [n] s.pos.phase
      s.partEvent n 4
  else if s.flag F.MPU_VIOL_VALID then s
  else
    let s := s.put64 F.MPU_VIOL_ADDR_LO F.MPU_VIOL_ADDR_HI [] addr
    let s := (s.put0 F.MPU_VIOL_INFO (violInfo a kind v)).put0 F.MPU_VIOL_VALID 1
    ((s.put0 F.MPU_VIOL_TICK s.pos.tick).put0 F.MPU_VIOL_PHASE s.pos.phase).raisePf 6

/-! ### ECC and poison (15 R532 to R535, R544, R545) -/

/-- States of an ECC word. -/
abbrev eCorrectable : Nat := 1
abbrev eAddress : Nat := 2
abbrev ePoison : Nat := 3

def Dev.eccAt (s : Dev) (key : Nat) : Nat := Tab.get 0 s.ecc (key / 8)
def Dev.setEcc (s : Dev) (key v : Nat) : Dev := { s with ecc := Tab.set 0 s.ecc (key / 8) v }

/-- The SRAM error fields of a die: its tarn, or a col die's SRAM. -/
def errField (tarn sram : Fld) (die : Nat) : Fld := if die < 6 then tarn else sram
def errIx (die : Nat) : List Nat := [if die < 6 then die else die - 6]

/-- Report the outcome of reading one ECC word of a die (15 Table 15.4, R535); TARN_CE and TARN_UE are codes
0x20 and 0x21, COLSRAM_CE and COLSRAM_UE 0x22 and 0x23 (17 Table 17.5). -/
def Dev.eccReport (s : Dev) (die key mid : Nat) (part : Option Nat) (out : Nat) : Dev :=
  let ix := errIx die
  if out = 0 then s
  else if out = eCorrectable then
    ((s.count (errField F.TARN_CE_COUNT F.SRAM_CE_COUNT die) ix).put (errField F.TARN_CE F.SRAM_CE die) ix 1).report
      (if die < 6 then 0x20 else 0x22) die mid part key 0
  else
    let s := s.count (errField F.TARN_UE_COUNT F.SRAM_UE_COUNT die) ix
    let s := s.put (if out = eAddress then errField F.TARN_ADDR_ERR F.SRAM_ADDR_ERR die
                    else errField F.TARN_UE F.SRAM_UE die) ix 1
    let s := if s.flag (errField F.TARN_VALID F.SRAM_VALID die) ix then s
      else
        let s := s.put64 (errField F.TARN_ERR_ADDR_LO F.SRAM_ERR_ADDR_LO die)
          (errField F.TARN_ERR_ADDR_HI F.SRAM_ERR_ADDR_HI die) ix key
        (s.put (errField F.TARN_ERR_MASTER F.SRAM_ERR_MASTER die) ix mid).put (errField F.TARN_VALID F.SRAM_VALID die) ix 1
    s.report (if die < 6 then 0x21 else 0x23) die mid part key 0

/-- The keys of the ECC words that `n` bytes from a key touch. -/
def eccWords (key n : Nat) : List Nat :=
  if n = 0 then [] else (List.range ((key + n - 1) / 8 - key / 8 + 1)).map fun i => (key / 8 + i) * 8

/-- Does a read of these bytes return poison? -/
def Dev.poisoned (s : Dev) (key n : Nat) : Bool := (eccWords key n).any fun k => decide (2 ≤ s.eccAt k)

/-- Read bytes from SRAM of a die: errors are counted and reported. -/
def Dev.readSram (s : Dev) (die key n mid : Nat) (part : Option Nat) : Option (List Byte) × Dev :=
  let bad := s.poisoned key n
  let s := s.forEach (eccWords key n) fun s k => s.eccReport die k mid part (s.eccAt k)
  (if bad then none else some (Tab.getMany 0 s.mem key n), s)

/-- Write bytes to SRAM: a partial write reads the word first, and what that finds is reported (15 R532); whole words
are clean afterwards, a partial write of an unreadable word leaves it poisoned and is discarded (15 R533). -/
def Dev.writeSram (s : Dev) (die key mid : Nat) (acting : Option Nat) (bs : List Byte) : Dev :=
  let n := bs.length
  s.forEach (eccWords key n) fun s k =>
    let lo := max k key
    let hi := min (k + 8) (key + n)
    let part := decide (hi - lo < 8)
    let bad := decide (2 ≤ s.eccAt k)
    let s := if part then s.eccReport die k mid acting (s.eccAt k) else s
    if part && bad then s.setEcc k ePoison
    else { s.setEcc k 0 with mem := Tab.setMany 0 s.mem lo ((bs.drop (lo - key)).take (hi - lo)) }

/-- Write bytes to expander memory: a whole 64 B line clears poison; what a partial write to a poisoned line does
is the expander's to decide, so both its landing and the line's poison are free (15 R545). -/
def Dev.writeExt (s : Dev) (key : Nat) (bs : List Byte) : Dev :=
  let line := key / 64 * 64
  let words := eccWords line 64
  if key % 64 = 0 ∧ bs.length = 64 then
    { s with ecc := words.foldl (fun t k => Tab.set 0 t (k / 8) 0) s.ecc, mem := Tab.setMany 0 s.mem key bs }
  else if s.poisoned line 64 then
    let (land, s) := s.drawBelow 2
    let (stays, s) := s.drawBelow 2
    let s := if land = 1 then { s with mem := Tab.setMany 0 s.mem key bs } else s
    if stays = 1 then s else { s with ecc := words.foldl (fun t k => Tab.set 0 t (k / 8) 0) s.ecc }
  else { s with mem := Tab.setMany 0 s.mem key bs }

/-- Mark a whole 64 B block poisoned (15 R544) (DESIGN CHOICE, log 40). -/
def Dev.poisonBlock (s : Dev) (key : Nat) : Dev :=
  { s with ecc := (eccWords (key / 64 * 64) 64).foldl (fun t k => Tab.set 0 t (k / 8) ePoison) s.ecc }

/-! ### Pieces of a command (06 R214, R217) -/

/-- Why a piece cannot proceed: the target is gone or no path leads to it, its die sleeps, or a link on the way retrains. -/
inductive Barred where
  | gone
  | asleep (die : Nat)
  | held
deriving DecidableEq, Repr

/-- An access from die `src` to what lies on die `d`: the die is there and awake, and a path to it carries traffic (01 R30, R44, R46). -/
def Dev.reach {α : Type} (s : Dev) (src d : Nat) (ok : α) : Except Barred α :=
  if s.dieGone d then .error .gone
  else if s.dieAsleep d then .error (.asleep d)
  else match s.shelfWay src d with
    | .open => .ok ok
    | .held => .error .held
    | .none => .error .gone

/-- The storage key of a piece from die `src` that may proceed. -/
def Dev.target (s : Dev) (src da : Nat) : Except Barred (Option Nat × Nat) :=
  match s.route da with
  | .tarn d => s.reach src d (some d, da)
  | .sram d => s.reach src d (some d, da)
  | .warden => .ok (some 6, da)
  | .ext p k => if s.portGone p then .error .gone else s.reach src (p / 2) (none, k)
  | _ => .error .gone

/-- Check one piece of a partition's command at a partition address and find where it leads. -/
def piece (a : Acc) (kind pa : Nat) : Act (Option Nat × Nat) := do
  let s ← get
  match s.translate a.part pa with
  | none =>
    set (s.latchViol a kind ⟨vNOREGION, 0, false⟩ pa)
    stopWith stPROT dMPU
  | some da =>
    match s.route da with
    | .tarn d =>
      if !s.owns a ⟨5, d, da % 2 ^ 32 / 2 ^ 26, 1⟩ && s.claimed a.part ⟨5, d, da % 2 ^ 32 / 2 ^ 26, 1⟩ then throw .wait
    | _ => pure ()
    match s.mpuCheck a kind da with
    | some v =>
      set (s.latchViol a kind v da)
      stopWith stPROT dMPU
    | none =>
      match s.target (a.mid / 128) da with
      | .error (.asleep d) =>
        set (s.wakeReq d)
        throw .wait
      | .error .held => throw .wait
      | .error .gone => stopWith stFAULT dDIELOST
      | .ok r => pure r

/-- Read one piece; none is poison (15 R544). -/
def readPiece (a : Acc) (kind pa n : Nat) : Act (Option (List Byte)) := do
  let (die, key) ← piece a kind pa
  match die with
  | some d =>
    let (r, s) := (← get).readSram d key n a.mid (some a.part)
    set s
    pure r
  | none =>
    let s ← get
    if s.poisoned key n then
      let port := (key - 2 ^ 48) / 2 ^ 40
      set ((s.countBy F.XP_POISON_COUNT [port / 2, port % 2] 1).report 0x44 (port / 2) a.mid (some a.part) key 0)
      pure none
    else pure (some (Tab.getMany 0 s.mem key n))

/-- Write one piece. -/
def writePiece (a : Acc) (pa : Nat) (bs : List Byte) : Act Unit := do
  let (die, key) ← piece a kWrite pa
  match die with
  | some d => act fun s => s.writeSram d key a.mid (some a.part) bs
  | none => act fun s => s.writeExt key bs

/-- Write one 64 B block as poisoned. -/
def poisonPiece (a : Acc) (pa : Nat) : Act Unit := do
  let (_, key) ← piece a kWrite pa
  act fun s => s.poisonBlock key

/-- The pieces of a range: address and length, each within one aligned block of `b` bytes. -/
def piecesFuel (b : Nat) : Nat → Nat → Nat → List (Nat × Nat)
  | 0, _, _ => []
  | f + 1, a, n =>
    if n = 0 then []
    else
      let k := min n (b - a % b)
      (a, k) :: piecesFuel b f (a + k) (n - k)

def piecesBy (b a n : Nat) : List (Nat × Nat) := piecesFuel b (n / b + 2) a n

/-- The pieces that the MPU checks, each within one 64 B block (06 R214). -/
def pieces (a n : Nat) : List (Nat × Nat) := piecesBy 64 a n

/-- Read a range; poison ends a command that computes from the data (15 R544). -/
def readMem (a : Acc) (pa n : Nat) : Act (List Byte) := do
  let l ← (pieces pa n).mapM fun (x, k) => do
    match ← readPiece a kRead x k with
    | some b => pure b
    | none => stopWith stFAULT dPOISON
  pure l.flatten

/-- Write a range, piece by piece. -/
def writeMem (a : Acc) (pa : Nat) (bs : List Byte) : Act Unit :=
  (pieces pa bs.length).forM fun (x, k) => writePiece a x ((bs.drop (x - pa)).take k)

/-- Read a little-endian number of `n` bytes. -/
def readNat (a : Acc) (pa n : Nat) : Act Nat := do
  let b ← readMem a pa n
  pure (leNat b)

/-- Write a little-endian number of `n` bytes. -/
def writeNat (a : Acc) (pa n v : Nat) : Act Unit := writeMem a pa (leBytes v n)

/-! ### Host memory (05 R160, R192; 07 R245) -/

/-- What host memory holds. -/
def Dev.readHost (s : Dev) (addr n : Nat) : List Byte := Tab.getMany 0 s.hostMem addr n

/-- Requests of function `fn` go out, each within the payload or read request size in force and within 4 KiB (05 R156, R159, R160). -/
def Dev.issue (s : Dev) (fn : Nat) (write : Bool) (addr n : Nat) : Dev :=
  let most := max 64 (if write then s.host.ctl.maxPayload else s.host.ctl.maxRead)
  { s with host := { s.host with
    issued := s.host.issued ++ (piecesBy most addr n).map fun x => ⟨write, x.1, x.2, .plain fn⟩ } }

/-- Bytes land in host memory; an earlier EP mark of the blocks goes. -/
def Dev.hostPut (s : Dev) (addr : Nat) (bs : List Byte) : Dev :=
  { s with
    hostMem := Tab.setMany 0 s.hostMem addr bs
    hostPoison := (pieces addr bs.length).foldl (fun t x => Tab.set false t (x.1 / 64) false) s.hostPoison }

/-- What the host has placed in its memory since, where the device now reads; the empty list says nothing new (DESIGN CHOICE, log 37). -/
def Dev.hostHolds (s : Dev) (addr : Nat) (bs : List Byte) : Dev := if bs.isEmpty then s else s.hostPut addr bs

/-- The device writes host memory for function `fn`. -/
def Dev.writeHost (s : Dev) (fn addr : Nat) (bs : List Byte) : Dev := (s.hostPut addr bs).issue fn true addr bs.length

/-- Is part of the range marked poisoned in host memory? -/
def Dev.hostBad (s : Dev) (addr n : Nat) : Bool := (pieces addr n).any fun x => Tab.get false s.hostPoison (x.1 / 64)

/-- Run work on the unit: the stop, if any, and the unit as the work left it.  Work that must wait has not begun: all it leaves is the
wakes it asked for (07 R263). -/
def runAct {α : Type} (x : Act α) (s : Dev) : Except Stop α × Dev :=
  match x s with
  | .ok a s' => (.ok a, s')
  | .error .wait s' => (.error .wait, { s with wakes := s'.wakes })
  | .error e s' => (.error e, s')

end Sys2Proof.Machine
end

