-- ==== Sys2Proof/Machine/Partition.lean ====
section
/-! DEFINITION. Partitions: applying share sets, reshapes and their releases, disabling and scrubbing
(06_partitions R203 to R231). -/

namespace Sys2Proof.Machine

/-! ### Share sets (06 R207) -/

/-- The register at an offset of slot `sl` of partition `p`. -/
def Dev.slotReg (s : Dev) (p sl x : Nat) : Nat := (s.reg (0x801000 + 0x4000 * p + 0x80 * sl + x)).toNat

/-- The register at an offset of the active set of partition `p`. -/
def Dev.actReg (s : Dev) (p x : Nat) : Nat := (s.reg (0x800900 + 0x4000 * p + x)).toNat

/-- The bits set among the first `n` of a mask. -/
def bitsIn (v n : Nat) : List Nat := if v = 0 then [] else (List.range n).filter fun i => bitAt v i

/-- The resources a share set names, read through `rd` by offset. -/
def setRes (rd : Nat → Nat) : List Res :=
  let dies := List.range 6
  (dies.flatMap fun d => (bitsIn (bitsOf (rd (4 * (d / 2))) (12 * (d % 2)) 12) 12).map fun e => ⟨0, d, e, 1⟩) ++
  (dies.flatMap fun d => ((List.range 3).filter fun c => bitsOf (rd (0x14 + 4 * d)) (8 * c) 8 != 0).map fun c => ⟨c + 1, d, 0, 1⟩) ++
  (dies.flatMap fun d =>
    if bitsOf (rd (0x2C + 4 * d)) 16 16 = 0 then []
    else [⟨4, d, bitsOf (rd (0x2C + 4 * d)) 0 16, bitsOf (rd (0x2C + 4 * d)) 16 16⟩]) ++
  (dies.flatMap fun d => (bitsIn (rd (0x44 + 8 * d) + 2 ^ 32 * bitsOf (rd (0x48 + 8 * d)) 0 16) 48).map fun g => ⟨5, d, g, 1⟩) ++
  (bitsIn (rd 0x10) 12).map fun n => ⟨6, if n < 6 then 6 else 7, n, 1⟩

/-- The part of a resource (range) that another does not cover. -/
def Res.sub (r x : Res) : List Res :=
  if x.kind = r.kind ∧ x.die = r.die ∧ x.idx < r.idx + r.cnt ∧ r.idx < x.idx + x.cnt then
    (if r.idx < x.idx then [{ r with cnt := x.idx - r.idx }] else []) ++
    (if x.idx + x.cnt < r.idx + r.cnt then
      [{ r with idx := x.idx + x.cnt, cnt := r.idx + r.cnt - (x.idx + x.cnt) }] else [])
  else [r]

/-- The part of a resource that a list of resources does not cover. -/
def Res.minus (r : Res) (l : List Res) : List Res := l.foldl (fun acc x => acc.flatMap fun y => y.sub x) [r]

/-- The resources of the first list that the second does not cover. -/
def resMinus (a b : List Res) : List Res := a.flatMap fun r => r.minus b

/-- Do two resources (ranges) meet? -/
def Res.meets (r x : Res) : Bool :=
  r.kind == x.kind && r.die == x.die && decide (x.idx < r.idx + r.cnt) && decide (r.idx < x.idx + x.cnt)

/-- Is the resource owned exclusively (06 Table 6.1)? -/
def Res.exclusive (r : Res) : Bool := r.kind == 0 || r.kind == 4 || r.kind == 5

/-- The resources of a partition's active set. -/
def Dev.activeRes (s : Dev) (p : Nat) : List Res := setRes (s.actReg p)

/-- Partition states (06 Table 6.4). -/
abbrev pDISABLED : Nat := 0
abbrev pENABLED : Nat := 1
abbrev pDISABLING : Nat := 2
abbrev pSCRUBBING : Nat := 3

/-- Causes of Table 6.6. -/
abbrev cTAKEN : Nat := 1
abbrev cCAPACITY : Nat := 2
abbrev cINUSE : Nat := 3
abbrev cFORMAT : Nat := 4
abbrev cSTATE : Nat := 5

/-! ### Queues of a partition -/

def qkey (p i : Nat) : Nat := 32 * p + i
/-- The queues are numbered 32 p + i for queue i of partition p; the table has 20 of each. -/
def queueOk (k : Nat) : Bool := decide (k / 32 < 64) && decide (k % 32 < 20)
def Dev.queue (s : Dev) (k : Nat) : Queue := Tab.get Queue.reset s.queues k
def Dev.updQ (s : Dev) (k : Nat) (f : Queue → Queue) : Dev := { s with queues := Tab.upd Queue.reset s.queues k f }
def Dev.qState (s : Dev) (k : Nat) : Nat := s.get F.Q_STATE [k / 32, k % 32]

/-- Is the queue DISABLED and not enabling? -/
def Dev.qIdle (s : Dev) (k : Nat) : Bool := s.qState k == 0 && !(s.queue k).enabling

/-- The QSLOT count of class `c` in a share set. -/
def qslotOf (rd : Nat → Nat) (c : Nat) : Nat := bitsOf (rd 0x0C) (3 * c) 3

/-- The die on which a set's queues of class `c` are placed (01 R34): none when it has no instance on a die that is not lost. -/
def placeDie (lost : Nat → Bool) (rd : Nat → Nat) (c : Nat) : Option Nat :=
  if c = 4 then
    if bitsOf (rd 0x10) 0 6 ≠ 0 then some 6 else if bitsOf (rd 0x10) 6 6 ≠ 0 && !lost 7 then some 7 else none
  else (List.range 6).find? fun d => !lost d &&
    if c = 0 then bitsOf (rd (4 * (d / 2))) (12 * (d % 2)) 12 != 0 else bitsOf (rd (0x14 + 4 * d)) (8 * (c - 1)) 8 != 0

/-- The queue contexts a die's spur cores hold (01 R34, R35; 06 R209). -/
def contextsOf (die : Nat) : Nat := if die < 6 then 512 else if die = 6 then 192 else 256

/-- How many contexts the queue slots of a set hold on a die: an enabled queue where its spur core is (01 R34), another one where it
would be placed (06 R209). -/
def Dev.slotsOn (s : Dev) (p : Nat) (rd : Nat → Nat) (die : Nat) : Nat :=
  ((List.range 5).map fun c => ((List.range (qslotOf rd c)).filter fun j =>
    match (s.queue (qkey p (4 * c + j))).home with
    | some h => h.1 == die
    | none => placeDie s.dieIsLost rd c == some die).length).sum

/-! ### Applying a set (06 R208 to R211) -/

/-- The first cause that refuses a set of partition `p`, in the order STATE, FORMAT, TAKEN, IN_USE, CAPACITY. -/
def Dev.setCause (s : Dev) (p : Nat) (rd : Nat → Nat) (needState : Nat) : Option Nat :=
  let new := setRes rd
  let others := (List.range 64).filter fun q => q != p
  let gone := fun d => !s.diePresent d || s.dieIsLost d
  let held := others.flatMap fun q => resMinus (s.activeRes q) (s.part q).claims ++ (s.part q).claims
  if s.get F.P_STATE [p] ≠ needState then some cSTATE
  else if ((List.range 5).any fun c => decide (5 ≤ qslotOf rd c)) ||
      (new.any fun r => (r.kind == 4 && decide (16384 < r.idx + r.cnt))) ||
      ((List.range 6).any fun d => bitsOf (rd (0x2C + 4 * d)) 16 16 != 0 && bitsOf (rd (0x14 + 4 * d)) 0 8 == 0) ||
      (new.any fun r => gone r.die) then some cFORMAT
  else if new.any fun r => r.exclusive && held.any fun x => x.meets r then some cTAKEN
  else if (List.range 20).any fun i => !s.qIdle (qkey p i) &&
      (decide (qslotOf rd (i / 4) ≤ i % 4) || (placeDie s.dieIsLost rd (i / 4)).isNone ||
        (match (s.queue (qkey p i)).run.bind (·.cmd) with
         | some c =>
           let h := wordAt c.words 1
           let d := bitsOf h 0 3
           decide (0x20 ≤ bitsOf (wordAt c.words 0) 0 8) && !bitAt h 3 && decide (i / 4 < 4) && decide (d < 6) &&
             (if i / 4 = 0 then bitsOf (rd (4 * (d / 2))) (12 * (d % 2)) 12 == 0
              else bitsOf (rd (0x14 + 4 * d)) (8 * (i / 4 - 1)) 8 == 0)
         | none => false)) then some cINUSE
  else if ((List.range 8).any fun d =>
        decide (contextsOf d < s.slotsOn p rd d + (others.map fun q => s.slotsOn q (s.actReg q) d).sum)) ||
      ((List.range 12).any fun n => bitAt (rd 0x10) n &&
        decide (256 < bitsOf (rd 0x10) 16 8 +
          ((others.filter fun q => bitAt (s.actReg q 0x10) n).map fun q => bitsOf (s.actReg q 0x10) 16 8).sum)) then
    some cCAPACITY
  else none

/-- Keep P_TARN_COUNT: granules owned. -/
def Dev.fixTarn (s : Dev) (p : Nat) : Dev :=
  let held := (resMinus ((s.activeRes p).filter fun r => r.kind == 5) (s.part p).claims).length
  s.put F.P_TARN_COUNT [p] (held + ((s.part p).releasing.filter fun r => r.kind == 5).length)

/-- Refuse an ENABLE or a reshape (06 R208). -/
def Dev.refuseSet (s : Dev) (p c : Nat) : Dev := (s.put F.P_CAUSE [p] c).partEvent p 6

/-- The chunks of partition `p` that engines run now. -/
def Dev.runningChunks (s : Dev) (p : Nat) : List (Nat × Nat) :=
  s.engines.filterMap fun e => match e.2.busy with
    | some b => if b.queue / 32 = p then some (b.queue, b.chunk) else none
    | none => none

/-- A reshape of the partition is complete once nothing is releasing or claimed (06 R210). -/
def Dev.reshapeCheck (s : Dev) (p : Nat) : Dev :=
  if s.flag F.RESHAPE_BUSY [p] && (s.part p).releasing.isEmpty && (s.part p).claims.isEmpty then
    ((s.put F.RESHAPE_BUSY [p] 0).put F.ACTIVE_SLOT [p] (s.part p).slot).partEvent p 5
  else s

/-- What Summit engines that leave a partition saved for its queues is discarded (09 R319). -/
def Dev.dropLeft (s : Dev) (p : Nat) (leave : List Res) : Dev :=
  { s with engines := s.engines.map fun e =>
      if leave.any fun r => r.kind == 0 && e.1 == r.die * 16 + r.idx then
        (e.1, { e.2 with carry := e.2.carry.filter fun c => c.1 / 32 != p })
      else e }

/-- Copy slot `sl` into the active set; what leaves becomes releasing, and what another partition is releasing
becomes a claim (06 R210, R211). -/
def Dev.applySet (s : Dev) (p sl : Nat) : Dev :=
  let old := s.activeRes p
  let rd := s.slotReg p sl
  let new := setRes rd
  let leave := resMinus (resMinus old (s.part p).claims) new
  let keep := resMinus (s.part p).releasing new
  let dropped := (s.part p).claims.filter fun r => new.any fun x => x.meets r
  let added := resMinus new old
  let claims := added.filter fun r => r.exclusive && (List.range 64).any fun q =>
    q != p && ((s.part q).releasing ++ (s.part q).zeroing).any fun x => x.meets r
  let grand := (s.part p).grand ++ (s.runningChunks p).filter fun c => !(s.part p).grand.contains c
  let zero := resMinus (s.part p).zeroRel new ++ (if s.flag F.ACT_ZERO_ON_MOVE [p] then leave.filter fun r => r.kind == 5 else [])
  let s := s.forEach (List.range 29) fun s x =>
    s.setReg (0x800900 + 0x4000 * p + 4 * x) (BitVec.ofNat 32 (rd (4 * x)))
  let s := s.updPart p fun t => { t with releasing := keep ++ leave, zeroRel := zero, claims := dropped ++ claims, grand := grand, slot := sl }
  (((s.put F.RESHAPE_BUSY [p] 1).dropLeft p leave).fixTarn p).reshapeCheck p

/-- ENABLE (06 R208, 07 R246): the slot applies to the empty set, and every fence is 0. -/
def Dev.partEnable (s : Dev) (p : Nat) : Dev :=
  let sl := s.get F.P_SLOT [p]
  match s.setCause p (s.slotReg p sl) pDISABLED with
  | some c => s.refuseSet p c
  | none =>
    let s := s.forEach (List.range 256) fun s f => s.put64 F.FENCE_VAL_LO F.FENCE_VAL_HI [p, f] 0
    -- every hash table header is EMPTY (12 R436)
    let s := s.forEach (List.range 16) fun s h =>
      ((s.put F.HT_STATE [p, h] 0).put F.HT_ROWS [p, h] 0).put F.HT_PROBES [p, h] 0
    (s.put F.P_STATE [p] pENABLED).applySet p sl

/-- A reshape to slot `sl`: refused with a cause, or applied; answers whether it was accepted. -/
def Dev.reshape (s : Dev) (p sl : Nat) : Bool × Dev :=
  match s.setCause p (s.slotReg p sl) pENABLED with
  | some c => (false, s.refuseSet p c)
  | none => (true, s.applySet p sl)

/-- Erase a range of keys from a table. -/
def Tab.eraseRange {α : Type} (t : Tab α) (lo hi : Nat) : Tab α := t.filter fun e => decide (e.1 < lo) || decide (hi ≤ e.1)

/-- A scrubber's accesses are made at steward level (06 Tables 6.2 and 6.3). -/
def scrubAcc (die : Nat) : Acc := ⟨0, 1, midOf die 6 0, false⟩

/-- The first 64 B piece of a range that the MPU refuses to a die's scrubber, and why (06 R214).  What decides changes only where a global
region begins or ends. -/
def Dev.scrubCheck (s : Dev) (die kind base len : Nat) : Option (Nat × Viol) :=
  let up := fun (x : Nat) => (x + 63) / 64 * 64
  let ends := (List.range 16).flatMap fun g => [up (s.get64 F.GR_BASE_LO F.GR_BASE_HI [g]), up (s.get64 F.GR_TOP_LO F.GR_TOP_HI [g])]
  let bad := (base :: ends.filter fun x => decide (base < x) && decide (x < base + len)).filterMap fun a =>
    (s.regionCheck (scrubAcc die) kind a).map fun v => (a, v)
  bad.foldl (fun best x => match best with
    | none => some x
    | some y => if x.1 < y.1 then some x else some y) none

/-- The MPU refuses a piece to a scrubber: the violation is recorded, and the warden learns of it (06 R217, R218; 17 Table 17.5). -/
def Dev.scrubRefused (s : Dev) (die kind addr : Nat) (v : Viol) : Dev :=
  (s.latchViol (scrubAcc die) kind v addr).report 0x50 die (midOf die 6 0) none addr 0

/-- Zero a granule with correct ECC (06 R222). -/
def Dev.zeroGranule (s : Dev) (d g : Nat) : Dev :=
  let a := d * 2 ^ 32 + g * 2 ^ 26
  { s with mem := Tab.eraseRange s.mem a (a + 2 ^ 26), ecc := Tab.eraseRange s.ecc (a / 8) ((a + 2 ^ 26) / 8) }

/-- Resources pass to their claimants: claims they cover end, and the claimants' reshapes may be complete. -/
def Dev.passOn (s : Dev) (rs : List Res) : Dev :=
  s.forEach (List.range 64) fun s q =>
    if (s.part q).claims.any fun c => rs.any fun r => r.meets c then
      ((s.updPart q fun t => { t with claims := resMinus t.claims rs }).fixTarn q).reshapeCheck q
    else s

/-- The accumulators and carry slots of Summit engines that leave their partition are cleared (09 R313, R319). -/
def Dev.clearPockets (s : Dev) (rs : List Res) : Dev :=
  { s with engines := s.engines.map fun e =>
      if rs.any fun r => r.kind == 0 && r.die * 16 + r.idx == e.1 then (e.1, { e.2 with carry := [], accs := [] }) else e }

/-- What a partition releases leaves it: to its claimant, or to zeroing first (06 R210, R211, R231). -/
def Dev.letGo (s : Dev) (p : Nat) (rs zero : List Res) : Dev :=
  ((s.clearPockets rs).updPart p fun t => { t with zeroing := t.zeroing ++ zero }).passOn (resMinus rs zero)

/-- RELEASE_END: once no chunk that was running at the dispatch still runs (06 R210). -/
def Dev.releaseEnd (s : Dev) (p : Nat) : Dev :=
  let t := s.part p
  if t.releasing.isEmpty || (t.grand.any fun c => (s.runningChunks p).contains c) then s
  else
    let s := s.updPart p fun t => { t with releasing := [], zeroRel := [], grand := [] }
    ((s.letGo p t.releasing t.zeroRel).fixTarn p).reshapeCheck p

/-- ZEROING_DONE: the zeroed granules pass on (06 R211). -/
def Dev.zeroingDone (s : Dev) (p : Nat) : Dev :=
  let z := (s.part p).zeroing
  -- a granule that the MPU keeps from the scrubber is not zeroed, and does not pass on (DESIGN CHOICE, log 116)
  match z.findSome? fun r => (s.scrubCheck r.die kWrite (r.die * 2 ^ 32 + r.idx * 2 ^ 26) (2 ^ 26)).map fun x => (r.die, x) with
  | some (d, a, v) => s.scrubRefused d kWrite a v
  | none =>
    let s := s.forEach z fun s r => s.zeroGranule r.die r.idx
    (s.updPart p fun t => { t with zeroing := [] }).passOn z

/-! ### Alarms of a disabled partition (03 R103) -/

/-- Disarm every alarm the partition owns: LAST reads CANCELLED, and none whose dispatch has not begun fires. -/
def Dev.disarmOwned (s : Dev) (p : Nat) : Dev :=
  let s := s.forEach (s.alarms.filter fun e => decide (e.1 < 256)) fun s e =>
    match e.2 with
    | some c =>
      if c.devOwned || c.owner != p || s.get F.AL_STATE [e.1] = 0 then s
      else
        let s := s.put F.AL_LAST [e.1] stCANCELLED
        if s.get F.AL_STATE [e.1] = 1 then
          ({ s with alarms := Tab.set none s.alarms e.1 none }).put F.AL_STATE [e.1] 0
        else s
    | none => s
  { s with dispatch := s.dispatch.map fun d =>
      if !d.copy.devOwned && d.copy.owner == p then { d with cancelled := true } else d }

/-- The granules and macro groups among some resources: what a scrub zeroes (06 R222). -/
def scrubbed (l : List Res) : List Res := l.filter fun r => r.kind == 4 || r.kind == 5

/-- SCRUB: accepted on an ENABLED partition with every queue DISABLED, or on a DISABLED one whose slot names no granule or macro group
of a partition that is not DISABLED (06 R222); what it zeroes is what the set names then. -/
def Dev.scrub (s : Dev) (p : Nat) : Dev :=
  let st := s.get F.P_STATE [p]
  let go := fun (l : List Res) =>
    (s.updPart p fun t => { t with prior := st, scrub := l, scrubT := s.flag F.SCRUB_T [p] }).put F.P_STATE [p] pSCRUBBING
  if st = pENABLED ∧ (List.range 20).all (fun i => s.qIdle (qkey p i)) then go (scrubbed (s.activeRes p))
  else if st = pDISABLED then
    let want := scrubbed (setRes (s.slotReg p (s.get F.P_SLOT [p])))
    if want.any fun r => (List.range 64).any fun q => q != p && s.get F.P_STATE [q] != pDISABLED &&
        (s.activeRes q ++ (s.part q).releasing ++ (s.part q).claims).any fun x => x.meets r then
      s.put F.P_CAUSE [p] cTAKEN
    else go want
  else s.put F.P_CAUSE [p] cSTATE

end Sys2Proof.Machine
end

