-- ==== Sys2Proof/Machine/Queue.lean ====
section
/-! DEFINITION. Queues, rings and doorbells: descriptors, completion entries, moderation, enabling, disabling,
function resets (05_host_rings R164 to R202). -/

namespace Sys2Proof.Machine

/-- Indexes of a queue's registers. -/
def qix (k : Nat) : List Nat := [k / 32, k % 32]

def Dev.sqSize (s : Dev) (k : Nat) : Nat := 2 ^ s.get F.SQ_LOG (qix k)
/-- The host address of the submission ring (05 Table 5.7). -/
def Dev.sqBase (s : Dev) (k : Nat) : Nat := s.get F.SQ_BASE_LO (qix k) * 2 ^ 12 + s.get F.SQ_BASE_HI (qix k) * 2 ^ 32
def Dev.cqSize (s : Dev) (k : Nat) : Nat := 2 ^ s.get F.CQ_LOG (qix k)
def Dev.qP (s : Dev) (k : Nat) : Nat := s.get F.Q_PROD (qix k)
def Dev.qH (s : Dev) (k : Nat) : Nat := s.get F.Q_HEAD (qix k)
def Dev.qT (s : Dev) (k : Nat) : Nat := s.get F.Q_TAIL (qix k)
def Dev.qK (s : Dev) (k : Nat) : Nat := s.get F.Q_CQ_HEAD (qix k)

/-- Index arithmetic modulo 65,536 (05 R165). -/
def idxSub (a b : Nat) : Nat := (a + 65536 - b % 65536) % 65536

/-- DETAIL values of Table 5.5. -/
abbrev dDESCFORMAT : Nat := 1
abbrev dDESCREAD : Nat := 2
abbrev dLISTREAD : Nat := 3
abbrev dLISTPROT : Nat := 4
abbrev dQDISABLE : Nat := 5
abbrev dPDISABLE : Nat := 6
abbrev dQHALT : Nat := 7

/-- Queue states. -/
abbrev qDISABLED : Nat := 0
abbrev qENABLED : Nat := 1
abbrev qDISABLING : Nat := 2
abbrev qHALTED : Nat := 3

/-- Set a W1C bit of Q_STATUS and the partition event of that name. -/
def Dev.qErr (s : Dev) (k : Nat) (f : Fld) (ev : Nat) : Dev := (s.put f (qix k) 1).partEvent (k / 32) ev

/-- The identity of spur core `c` of die `d` (06 Table 6.2). -/
def spurKey (d c : Nat) : Nat := if d < 6 then midOf d (4 + c / 8) (c % 8) else midOf d 3 (c % 8)

/-- The spur core's identity for a queue (06 Table 6.2). -/
def Dev.spurMid (s : Dev) (k : Nat) : Nat :=
  match (s.queue k).home with
  | some (d, c) => spurKey d c
  | none => 0

/-- A core is reloaded: it starts again at word 0 of its program (17 Table 17.5) (DESIGN CHOICE, log 111). -/
def Dev.reloadCore (s : Dev) (key : Nat) : Dev :=
  { s with cores := Tab.upd Core.reset s.cores key fun c => { Core.reset with pmem := c.pmem, cyc := c.cyc, free := c.free } }

/-- Spur cores that stopped are reloaded once their last queue is DISABLED (17 Table 17.5). -/
def Dev.fixCores (s : Dev) : Dev :=
  let homes := s.queues.filterMap fun e => e.2.home.map fun h => spurKey h.1 h.2
  let queueCores := (List.range 8).flatMap fun d =>
    (if d < 6 then List.range 16 else if d = 6 then (List.range 8).drop 2 else List.range 8).map (spurKey d)
  s.forEach ((s.cores.filter fun e => e.2.stopped && queueCores.contains e.1 && !homes.contains e.1 && !s.dieGone (e.1 / 128)).map
    (·.1)) Dev.reloadCore

/-- Accesses the queue's spur core makes. -/
def Dev.spurAcc (s : Dev) (k : Nat) : Acc := ⟨k / 32, 0, s.spurMid k, false⟩

/-! ### Doorbells (05 R174, R175) -/

/-- A submission doorbell judged against H and P; answers whether it was accepted or had no effect.  It is an edge that
wakes the die of the queue's spur core (18 Table 18.3, R654). -/
def Dev.sqJudge (s : Dev) (k v : Nat) : Bool × Dev :=
  let d := idxSub v (s.qH k)
  if s.sqSize k < d ∨ d < idxSub (s.qP k) (s.qH k) then (false, s.qErr k F.DB_ERR 0)
  else
    -- an index accepted before has no effect (05 R195)
    if v = s.qP k then (true, s)
    else
      let s := s.put F.Q_PROD (qix k) v
      (true, match (s.queue k).home with
        | some (d, _) => s.edgeWake d
        | none => s)

/-- A write to SQ_DB: held while enabling, ignored in DISABLING and DISABLED (05 R174, R184, R187). -/
def Dev.sqDb (s : Dev) (k v : Nat) : Bool × Dev :=
  if s.hostShut then (false, s)
  else if (s.queue k).enabling then (true, s.updQ k fun q => { q with heldDb := q.heldDb ++ [(true, v)] })
  else if s.qState k = qENABLED ∨ s.qState k = qHALTED then s.sqJudge k v
  else (false, s)

/-- A completion doorbell judged against T and K. -/
def Dev.cqJudge (s : Dev) (k v : Nat) : Dev :=
  if idxSub (s.qT k) v ≤ idxSub (s.qT k) (s.qK k) then s.put F.Q_CQ_HEAD (qix k) v else s.qErr k F.DB_ERR 0

/-- A write to CQ_DB: accepted in every state but DISABLED (05 R175, R198). -/
def Dev.cqDb (s : Dev) (k v : Nat) : Dev :=
  if s.hostShut then s
  else if (s.queue k).enabling then s.updQ k fun q => { q with heldDb := q.heldDb ++ [(false, v)] }
  else if s.qState k = qDISABLED then s
  else s.cqJudge k v

/-! ### Doorbell pages (05 Tables 5.2 and 5.6, R162, R173, R176, R197) -/

/-- The doorbell at an offset of a requester's doorbell BAR: whether it is a submission doorbell, and its queue.  The PF reaches page n of
every partition at 0x1000 n; a VF the page of its partition, once it owns it. -/
def Dev.doorbellAt (s : Dev) (req : Req) (off : Nat) : Option (Bool × Nat) :=
  let page := match req with
    | .pfDb => if off < 0x40000 then some (off / 0x1000) else none
    | .vfDb n => if 1 ≤ n ∧ n ≤ 64 ∧ off < 0x1000 ∧ s.vfOwned (n - 1) then some (n - 1) else none
    | _ => none
  let x := off % 0x1000
  page.bind fun p => if x < 0x800 ∧ x % 0x10 = 0 ∧ x % 0x400 / 0x10 < 20 then some (decide (x < 0x400), qkey p (x % 0x400 / 0x10)) else none

/-- A 32-bit write to a word of a doorbell page; the rest of the page is reserved. -/
def Dev.doorbellPut (s : Dev) (req : Req) (off v : Nat) : Dev :=
  match s.doorbellAt req off with
  | some (true, k) => (s.sqDb k (v % 65536)).2
  | some (false, k) => s.cqDb k (v % 65536)
  | none => s

/-- What a read of a word of a doorbell page returns: P, or K; it has no side effect. -/
def Dev.doorbellGet (s : Dev) (req : Req) (off : Nat) : Nat :=
  match s.doorbellAt req off with
  | some (true, k) => s.qP k
  | some (false, k) => s.qK k
  | none => 0

/-- A write of `size` bytes: each whole aligned word of it is a write of its own, in ascending order; what is narrower is ignored. -/
def Dev.doorbellWrite (s : Dev) (req : Req) (off size v : Nat) : Dev :=
  let first := (off + 3) / 4 * 4
  s.forEach ((List.range ((off + size) / 4 - first / 4)).map fun i => first + 4 * i) fun s a =>
    s.doorbellPut req a (bitsOf v (8 * (a - off)) 32)

/-! ### Completion entries (05 R169 to R171, R189) -/

/-- A completion entry (05 Table 5.4). -/
def Dev.entry (s : Dev) (k idx st detail result flags : Nat) (words : List Word) : List Word :=
  let phase := b2n (idx / s.cqSize k % 2 == 0)
  let p := s.pos
  [BitVec.ofNat 32 (phase + st % 16 * 2 + detail % 256 * 2 ^ 8 + s.qH k * 2 ^ 16),
   BitVec.ofNat 32 (idx % 65536 + k % 32 / 4 * 2 ^ 16 + k % 4 * 2 ^ 19 + k / 32 % 64 * 2 ^ 21),
   words.getD 4 0, words.getD 5 0, BitVec.ofNat 32 p.step, BitVec.ofNat 32 (p.tick % 2 ^ 20 + p.phase % 16 * 2 ^ 20),
   BitVec.ofNat 32 result, BitVec.ofNat 32 (flags % 32)]

/-- Raise the queue's vector: every entry before it is announced (05 R189). -/
def Dev.announce (s : Dev) (k : Nat) : Dev :=
  (s.updQ k fun q => { q with unannounced := 0, sinceMsg := 0 }).raiseOwner (k / 32) (s.get F.VECTOR (qix k))

/-- Write the next completion entry as one 32-byte write, then announce it when moderation says so. -/
def Dev.postEntry (s : Dev) (k st detail result flags : Nat) (words : List Word) : Dev :=
  let t := s.qT k
  let base := s.get F.CQ_BASE_LO (qix k) * 2 ^ 12 + s.get F.CQ_BASE_HI (qix k) * 2 ^ 32
  let s := s.writeHost (s.owner (k / 32)) (base + 32 * (t % s.cqSize k)) (bytesOfWords (s.entry k t st detail result flags words))
  let s := s.put F.Q_TAIL (qix k) ((t + 1) % 65536)
  let s := s.updQ k fun q => { q with unannounced := q.unannounced + 1, sinceMsg := q.sinceMsg + 1 }
  let due := bitAt (wordAt words 0) 5 || s.get F.COAL_TIME (qix k) == 0 ||
    decide (max 1 (s.get F.COAL_COUNT (qix k)) ≤ (s.queue k).sinceMsg)
  if s.flag F.IRQ_EN (qix k) && due then s.announce k else s

/-- COAL_TIME has elapsed for an unannounced entry. -/
def Dev.coalTime (s : Dev) (k : Nat) : Dev :=
  if s.flag F.IRQ_EN (qix k) && decide (0 < (s.queue k).unannounced) then s.announce k else s

/-- Is there completion space for index `d` (05 R179)? -/
def Dev.cqSpace (s : Dev) (k d : Nat) : Bool := decide (idxSub d (s.qK k) < s.cqSize k)

/-- May the queue's owner reach the host? -/
def Dev.qBus (s : Dev) (k : Nat) : Bool := s.canMaster (s.owner (k / 32))

/-- May a host read of the queue end now: its owner reaches the host, or the read was issued before the owner lost it (05 R192)? -/
def Dev.mayEnd (s : Dev) (k : Nat) : Bool := s.qBus k || (s.queue k).owed.isSome

/-- The bus mastering of the functions has changed since `old`: P is noted on a queue whose owner lost the host, and the note goes once
the owner has it back (05 R192). -/
def Dev.fixOwed (s old : Dev) : Dev :=
  s.forEach (s.queues.map (·.1)) fun s k =>
    if s.qBus k then s.updQ k fun q => { q with owed := none }
    else if old.qBus k then s.updQ k fun q => { q with owed := some (s.qP k) } else s

/-! ### Descriptors (05 R166 to R168, R178, R179) -/

/-- A run of a descriptor that has not begun a command. -/
def Run.start (d : Desc) (list : List Word) (pend : Bool) : Run :=
  { index := d.index, words := d.words, listPending := pend, list := list, cmd := none, result := 0, flags := 0,
    stop := none, late := none }

/-- A run that ended before its list. -/
def Run.failed (d : Desc) (st detail : Nat) : Run := { Run.start d [] false with stop := some (st, detail) }

/-- DESCRIPTOR_READ completes: the descriptor is copied and H advances, or its read failed (05 R178, R185). -/
def Dev.descRead (s : Dev) (k : Nat) (fail : Bool) : Dev :=
  let q := s.queue k
  let h := s.qH k
  let addr := s.sqBase k + 64 * (h % s.sqSize k)
  if s.qState k ≠ qENABLED ∨ q.readFailed ∨ h = s.qP k ∨ 16 ≤ q.ahead.length ∨ !s.mayEnd k ∨ (!s.qBus k ∧ q.owed = some h) then s
  else
  let s := s.issue (s.owner (k / 32)) false addr 64
  if fail ∨ s.hostBad addr 64 then
    s.updQ k fun q => { q with readFailed := true, ahead := q.ahead ++ [⟨h, true, []⟩] }
  else
    let w := wordsOfBytes (s.readHost addr 64)
    (s.updQ k fun q => { q with ahead := q.ahead ++ [⟨h, false, w⟩] }).put F.Q_HEAD (qix k) ((h + 1) % 65536)

/-- Does a descriptor fail the checks of R167? -/
def Desc.bad (d : Desc) : Bool :=
  let kind := bitsOf (wordAt d.words 0) 0 4
  let n := bitsOf (wordAt d.words 1) 0 24
  if kind = 1 then decide (n < 8) || decide (16777208 < n) || n % 8 != 0 || wordAt d.words 2 % 8 != 0
  else if kind = 2 then decide (n < 8) || decide (40 < n) || n % 8 != 0
  else kind != 3

/-- Do spur cores start no descriptor: a supply loss, a drain, a safe stop, a shut-down (18 R670, 19 R698, 17 R621,
20 R733)? -/
def Dev.startsHeld (s : Dev) : Bool := s.pauses.any (·.2)

/-- Is the die of the queue's spur core asleep or gone (18 R647)? -/
def Dev.homeSleeps (s : Dev) (k : Nat) : Bool :=
  match (s.queue k).home with
  | some (d, _) => s.dieAsleep d || s.dieGone d
  | none => false

/-- Has the run no command in progress and none left to run? -/
def Run.done (r : Run) : Bool := !r.listPending && r.cmd.isNone && (r.list.isEmpty || r.stop.isSome)

/-- DESCRIPTOR_START: the oldest descriptor read ahead starts once its completion slot is reserved and any barrier
is met; one queue runs one descriptor at a time, none while its owner may not master (05 R179, R192, R200; 07 R232).  The one before has
ended its last command; its entry may still be to come, unless BARRIER waits for it. -/
def Dev.descStart (s : Dev) (k : Nat) : Dev :=
  let q := s.queue k
  match q.ahead with
  | [] => s
  | d :: rest =>
    let barrier := bitAt (wordAt d.words 0) 6
    if s.startsHeld ∨ s.homeSleeps k ∨ !s.qBus k ∨ s.qState k ≠ qENABLED ∨ q.run.any (fun r => !r.done) ∨ d.failed ∨ !s.cqSpace k d.index ∨ (barrier ∧ s.qT k ≠ d.index) then s
    else
      let begin_ := fun (s : Dev) (r : Run) => s.updQ k fun q => { q with ahead := rest, run := some r, ended := q.ended ++ q.run.toList }
      let kind := bitsOf (wordAt d.words 0) 0 4
      let n := bitsOf (wordAt d.words 1) 0 24
      if d.bad then begin_ s (Run.failed d stFAULT dDESCFORMAT)
      else if kind = 3 then begin_ s (Run.start d [] false)
      else if kind = 2 then begin_ s (Run.start d ((d.words.drop 6).take (n / 4)) false)
      else if bitAt (wordAt d.words 0) 4 then
        let pa := wordAt d.words 2 + 2 ^ 32 * wordAt d.words 3
        let rd : Act (List Byte) := do
          let l ← (pieces pa n).mapM fun (x, m) => do
            match ← readPiece (s.spurAcc k) kExec x m with
            | some b => pure b
            | none => stopWith stFAULT dLISTREAD
          pure l.flatten
        match runAct rd s with
        | (.ok bs, s) => begin_ s (Run.start d (wordsOfBytes bs) false)
        | (.error .wait, s) => s
        | (.error (.ended st dt), s) =>
          begin_ s (Run.failed d st (if st = stPROT then dLISTPROT else dt))
      else begin_ s (Run.start d [] true)

/-- LIST_READ: the host list of a started descriptor arrives, or its read fails (05 R168, R196). -/
def Dev.listRead (s : Dev) (k : Nat) (fail : Bool) : Dev :=
  match (s.queue k).run with
  | none => s
  | some r =>
    let n := bitsOf (wordAt r.words 1) 0 24
    let addr := wordAt r.words 2 + 2 ^ 32 * wordAt r.words 3
    if !r.listPending ∨ !s.mayEnd k then s
    else
    let s := s.issue (s.owner (k / 32)) false addr n
    if fail ∨ s.hostBad addr n then
      s.updQ k fun q => { q with run := some { r with listPending := false, stop := some (stFAULT, dLISTREAD) } }
    else s.updQ k fun q => { q with run := some { r with listPending := false, list := wordsOfBytes (s.readHost addr n) } }

/-- FETCH_ERR: the descriptor whose read failed would be the next to start, so the queue halts (05 R185).  Its entry follows those of
the descriptors before it; the device never had the descriptor, and the entry's USER reads 0 (DESIGN CHOICE, log 114). -/
def Dev.fetchErr (s : Dev) (k : Nat) : Dev :=
  let q := s.queue k
  match q.ahead with
  | [] => s
  | d :: rest =>
    if s.qState k = qENABLED ∧ d.failed ∧ q.run.all Run.done ∧ s.qBus k ∧ s.cqSpace k d.index then
      let s := (s.updQ k fun q => { q with ahead := rest }).put F.Q_STATE (qix k) qHALTED
      let s := s.qErr k F.FETCH_ERR 2
      if q.run.isNone ∧ q.ended = [] then s.postEntry k stFAULT dDESCREAD 0 0 d.words
      else s.updQ k fun q => { q with run := none, ended := q.ended ++ q.run.toList ++ [Run.failed d stFAULT dDESCREAD] }
    else s

/-- The status of a run whose list has nothing left (07 R259). -/
def Run.status (r : Run) : Nat × Nat :=
  match r.stop with
  | some x => x
  | none => match r.late with
    | some d => (stLATE, d)
    | none => (stOK, 0)

/-- The entry of a run that is over (07 R259). -/
def Dev.postRun (s : Dev) (k : Nat) (r : Run) : Dev := s.postEntry k r.status.1 r.status.2 r.result r.flags r.words

/-- DESCRIPTOR_COMPLETE: the oldest entry due is written, after its descriptor's last command has ended: entries come in index order
(05 R170, R180). -/
def Dev.descComplete (s : Dev) (k : Nat) : Dev :=
  let q := s.queue k
  if !s.qBus k || !(s.qState k == qENABLED || s.qState k == qHALTED) then s
  else match q.ended, q.run with
  | r :: t, _ => (s.updQ k fun q => { q with ended := t }).postRun k r
  | [], some r => if r.done then (s.updQ k fun q => { q with run := none }).postRun k r else s
  | [], none => s

/-! ### Enabling and disabling (05 R184 to R187) -/

/-- The lowest-indexed spur core of a die with a free context (06 R209). -/
def Dev.freeCore (s : Dev) (die : Nat) : Option Nat :=
  let cores := if die < 6 then List.range 16 else if die = 6 then (List.range 8).drop 2 else List.range 8
  cores.find? fun c => decide ((s.queues.filter fun e => e.2.home == some (die, c)).length < 32)

/-- Is VECTOR in the range of the queue's owner (05 Table 5.7)? -/
def Dev.vectorOk (s : Dev) (k : Nat) : Bool :=
  let v := s.get F.VECTOR (qix k)
  if s.vfOwned (k / 32) then decide (1 ≤ v) && decide (v ≤ 31) else decide (16 ≤ v)

/-- ENABLE in Q_CTRL: refused with CFG_ERR, or the queue begins enabling (05 R184, 06 R209). -/
def Dev.qEnable (s : Dev) (k : Nat) : Dev :=
  let p := k / 32
  let c := k % 32 / 4
  if !s.qIdle k then s
  else
    let rd := s.actReg p
    match (placeDie s.dieIsLost rd c).bind fun d => (s.freeCore d).map fun core => (d, core) with
    | none => s.qErr k F.CFG_ERR 1
    | some home =>
      if s.get F.SQ_LOG (qix k) < 4 ∨ s.get F.CQ_LOG (qix k) < 4 ∨ s.get F.P_STATE [p] ≠ pENABLED ∨ !s.vectorOk k ∨
          qslotOf rd c ≤ k % 4 then s.qErr k F.CFG_ERR 1
      else
        let s := ((s.put F.Q_PROD (qix k) 0).put F.Q_HEAD (qix k) 0).put F.Q_TAIL (qix k) 0
        (s.put F.Q_CQ_HEAD (qix k) 0).updQ k fun _ => { Queue.reset with enabling := true, home := some home }

/-- A command stops with CANCELLED; it is not counted in RESULT (07 R243). -/
def Cmd.cancel (c : Cmd) (detail : Nat) : Cmd := { c with phase := .ended stCANCELLED detail }

/-- Stop waits at once; other commands keep running (queue disable), or stop at the next chunk boundary: chunks that no instance has
started are withdrawn (partition disable) (07 Table 7.3). -/
def Cmd.stopFor (c : Cmd) (detail : Nat) (atBoundary : Bool) : Cmd :=
  match c.phase with
  | .waitFence .. => c.cancel detail
  | .waitCad .. => c.cancel detail
  | .ended .. => c
  | .running =>
    -- a WAIT or CAD_WAIT that has started and is not evaluated yet stops like one that waits
    if c.words ≠ [] ∧ [1, 3].contains (bitsOf (wordAt c.words 0) 0 8) then c.cancel detail
    else if atBoundary then
      let c := { c with stop := some detail, todo := [] }
      if c.out.isEmpty then c.cancel detail else c
    else c

/-- What the instances saved for a queue's command is discarded (09 R319). -/
def Dev.dropCarry (s : Dev) (k : Nat) : Dev :=
  { s with engines := s.engines.map fun e => (e.1, { e.2 with carry := Tab.erase e.2.carry k }) }

/-- Change the command in progress on a queue. -/
def Dev.updCmd (s : Dev) (k : Nat) (f : Cmd → Cmd) : Dev :=
  s.updQ k fun q => { q with run := q.run.map fun r => { r with cmd := r.cmd.map f } }

/-- A disable takes effect: the cut index is fixed, and nothing further starts (05 R185, R186). -/
def Dev.disableNow (s : Dev) (k cause : Nat) (atBoundary : Bool) : Dev :=
  if s.qState k = qENABLED ∨ s.qState k = qHALTED then
    let cause := if s.qState k = qHALTED then dQHALT else cause
    let s := (s.put F.Q_STATE (qix k) qDISABLING).updQ k fun q => { q with cut := some (s.qP k), cause := cause }
    s.updCmd k fun c => c.stopFor cause atBoundary
  else s

/-- DISABLE in Q_CTRL (05 R184, R185, R199). -/
def Dev.qDisable (s : Dev) (k : Nat) : Dev :=
  if (s.queue k).enabling then s.updQ k fun q => { q with heldDisable := true } else s.disableNow k dQDISABLE false

/-- The accepted ENABLE completes: held doorbells are judged in order, and a held DISABLE takes effect (05 R184). -/
def Dev.queueEnabled (s : Dev) (k : Nat) : Dev :=
  let q := s.queue k
  if !q.enabling then s
  else
    let s := (s.updQ k fun q => { q with enabling := false, heldDb := [], heldDisable := false }).put F.Q_STATE (qix k) qENABLED
    let s := s.forEach q.heldDb fun s d => if d.1 then (s.sqJudge k d.2).2 else s.cqJudge k d.2
    if q.heldDisable then s.disableNow k dQDISABLE false else s

/-- Ownership follows VF Enable and NumVFs; a partition passes to its VF only once every queue of it is DISABLED
(05 R160, R197). -/
def Dev.fixOwners (s : Dev) : Dev :=
  s.put64 F.VF_OWNED_LO F.VF_OWNED_HI [] <|
    ((List.range 64).map fun p =>
      if s.host.vfEnable && decide (p < s.host.numVfs) &&
          (s.vfOwned p || (List.range 20).all fun i => s.qIdle (qkey p i)) then 2 ^ p else 0).sum

/-- The words of a descriptor that never started: the device's copy, or, of one it never copied, what its slot holds when the entry is
written (05 Table 5.4) (DESIGN CHOICE, log 114). -/
def Dev.slotWords (s : Dev) (k idx : Nat) : List Word :=
  match (s.queue k).ahead.find? fun d => d.index == idx && !d.failed with
  | some d => d.words
  | none => wordsOfBytes (s.readHost (s.sqBase k + 64 * (idx % s.sqSize k)) 64)

/-- Post the cancelled entries from T up to the cut index, as completion space allows.  H stands where reading stopped until the queue is
DISABLED, and SQ_HEAD of these entries shows it (DESIGN CHOICE, log 114). -/
def Dev.cancelTo (s : Dev) (k cut cause : Nat) : Nat → Dev
  | 0 => s
  | n + 1 =>
    if s.qT k = cut ∨ !s.cqSpace k (s.qT k) then s
    else
      Dev.cancelTo (s.postEntry k stCANCELLED cause 0 0 (s.slotWords k (s.qT k))) k cut cause n

/-- QUEUE_DISABLE_DRAINED: after the running command ends, the entries are posted in index order; after the last one
the queue is DISABLED with H = T = the cut index (05 Table 5.9). -/
def Dev.queueDrained (s : Dev) (k : Nat) : Dev :=
  let q := s.queue k
  match s.qState k == qDISABLING, q.cut with
  | true, some cut =>
    if (q.run.bind (·.cmd)).isSome ∨ !s.qBus k then s
    else
      let s := (s.forEach q.ended fun s r => s.postRun k r).updQ k fun q => { q with ended := [] }
      let s := match q.run with
        | none => s
        | some r =>
          let x := if r.done then r.status else (stCANCELLED, q.cause)
          (s.updQ k fun q => { q with run := none }).postEntry k x.1 x.2 r.result r.flags r.words
      let s := s.cancelTo k cut q.cause (idxSub cut (s.qT k))
      if s.qT k = cut then
        let s := (s.put F.Q_STATE (qix k) qDISABLED).put F.Q_HEAD (qix k) cut
        let s := s.updQ k fun q => { q with cut := none, ahead := [], readFailed := false, home := none }
        ((s.partEvent (k / 32) 3).fixOwners).fixCores
      else s
  | _, _ => s

/-! ### Function resets and the host's control (05 R190 to R192, R197, R202) -/

/-- The register offsets of a queue. -/
def queueOffsets (k : Nat) : List Nat := (List.range 10).map fun i => 0x800000 + 0x4000 * (k / 32) + 0x40 * (k % 32) + 4 * i

/-- Return a register to its reset value. -/
def Dev.resetReg (s : Dev) (off : Nat) : Dev := s.setReg off (regDefault off)

/-- The queues of partition `p` return to reset without an entry; its alarms are disarmed (05 R190).  Chunks that instances run go on to
their ends: an instance stays busy until then (07 Table 7.3) (DEDUCED, log 39). -/
def Dev.flrPartition (s : Dev) (p : Nat) : Dev :=
  let s := s.forEach (List.range 20) fun s i =>
    let s := s.dropCarry (qkey p i)
    let s := s.forEach (queueOffsets (qkey p i)) Dev.resetReg
    { s with queues := Tab.set Queue.reset s.queues (qkey p i) Queue.reset }
  s.disarmOwned p

/-- A Function Level Reset of VF k (05 R190, 06 R226). -/
def Dev.vfFlr (s : Dev) (k : Nat) : Dev :=
  if k = 0 ∨ 64 < k then s
  else
    let s := s.flrPartition (k - 1)
    let s := { s with
      host := { s.host with
        vfTab := Tab.eraseRange s.host.vfTab (32 * k) (32 * k + 32), vfPba := Tab.eraseRange s.host.vfPba (32 * k) (32 * k + 32)
        bme := Tab.set false s.host.bme k false, msixOn := Tab.set false s.host.msixOn k false } }
    s.fixOwners.fixCores

/-- HI_LINK_STATUS shows the link (05 R158). -/
def Dev.showLink (s : Dev) : Dev :=
  (((s.put0 F.HI_RATE s.host.trained.1).put0 F.HI_WIDTH s.host.trained.2.1).put0 F.HI_CODING s.host.trained.2.2).put0 F.LINK_UP 1

/-- A Function Level Reset of the PF: every partition's queues, and the host interface block (05 R191). -/
def Dev.pfFlr (s : Dev) : Dev :=
  let s := (s.forEach (List.range 64) Dev.flrPartition).fixCores
  let s := s.forEach [0x400000, 0x400004, 0x400008, 0x400010, 0x400014] Dev.resetReg
  let s := { s with
    host := { HostIf.reset with
      linkDown := s.host.linkDown, cut := s.host.cut, trained := s.host.trained, l1 := s.host.l1, rrs := s.host.rrs
      training := s.host.training, errFatal := s.host.errFatal, issued := s.host.issued, sent := s.host.sent } }
  -- the status of a link that is up follows the link
  (if s.host.linkDown then s else s.showLink).fixHost

/-- Messages held pending are sent when nothing holds them any more. -/
def Dev.flushMsix (s : Dev) : Dev :=
  let s := s.forEach (s.host.pfPba.map (·.1)) fun s v => s.raisePf v
  s.forEach (s.host.vfPba.map (·.1)) fun s x => s.raiseVf (x / 32) (x % 32)

/-- Max Payload Size, Max Read Request Size and the completion timeout's ranges that the device supports (05 Table 5.1). -/
def PcieCtl.supported (c : PcieCtl) : Bool :=
  [128, 256, 512].contains c.maxPayload && [128, 256, 512, 1024, 2048, 4096].contains c.maxRead && decide (c.timeout < 4)

/-- Bus Master Enable and MSI-X Enable of a function and the PF's D-state change; with the PF's come the sizes and the timeout that
bound the device's requests (05 R156, R188, R192). -/
def Dev.busMaster (s : Dev) (fn : Nat) (on msix d3 : Bool) (ctl : PcieCtl) : Dev :=
  let old := s
  let s := { s with host := { s.host with
    bme := Tab.set false s.host.bme fn on, msixOn := Tab.set false s.host.msixOn fn msix
    ctl := if fn = 0 ∧ ctl.supported then ctl else s.host.ctl } }
  let woken := decide (fn = 0) && s.flag F.PF_D3HOT && !d3
  let s := ((if fn = 0 then (s.put0 F.PF_D3HOT (b2n d3)).fixHost else s).fixOwed old).flushMsix
  -- a move from D3hot to D0 is a level wake (18 Table 18.3)
  if woken then s.wakeSet else s

/-- VF Enable is set or NumVFs changes (05 R197). -/
def Dev.setVfs (s : Dev) (en : Bool) (n : Nat) : Dev :=
  let s := { s with host := { s.host with vfEnable := en, numVfs := n } }
  let s := s.forEach (List.range 64) fun s p =>
    if en && decide (p < n) && !s.vfOwned p then s.forEach (List.range 20) fun s i => s.qDisable (qkey p i) else s
  s.fixOwners

/-- The host link trains: rate, width and coding are reported, and a lesser link is an event (05 R158). -/
def Dev.linkTrained (s : Dev) (rate width coding : Nat) : Dev :=
  let old := s
  let s := ({ s with host := { s.host with linkDown := false, training := false, trained := (rate, width, coding) } }).showLink.fixHost
  let s := s.fixOwed old
  let s := if rate = 6 ∧ width = 16 then s else s.event F.LINK_DEGRADED F.HI_IRQ_EN 0 0
  s.flushMsix

/-- The host link goes down: no function may master until the host has performed a reset (05 R202). -/
def Dev.pcieDown (s : Dev) : Dev :=
  let old := s
  let s := ({ s with host := { s.host with linkDown := true, cut := true } }).put0 F.LINK_UP 0
  let s := s.fixHost.fixOwed old
  s.event F.LINK_DOWN_EV F.HI_IRQ_EN 1 0

/-! ### Disabling a partition (06 R220) -/

/-- DISABLE in P_CTRL. -/
def Dev.partDisable (s : Dev) (p : Nat) : Dev :=
  if s.get F.P_STATE [p] ≠ pENABLED then s
  else
    let s := s.put F.P_STATE [p] pDISABLING
    let s := s.forEach (List.range 20) fun s i =>
      let k := qkey p i
      let s := s.queueEnabled k
      -- a queue that is DISABLING already keeps its cut, and its engines too stop at the boundary (05 R199; 06 Table 6.10)
      let cause := if (s.queue k).cause = dQHALT then dQHALT else dPDISABLE
      let s := if s.qState k = qDISABLING then
          (s.updQ k fun q => { q with cause := cause }).updCmd k fun c => c.stopFor cause true
        else s.disableNow k dPDISABLE true
      s.dropCarry k
    s.disarmOwned p

/-- The last queue is DISABLED: the active set is released, and the partition is DISABLED (06 Table 6.10). -/
def Dev.partDisabled (s : Dev) (p : Nat) : Dev :=
  if s.get F.P_STATE [p] = pDISABLING ∧ (List.range 20).all (fun i => s.qIdle (qkey p i)) ∧ s.runningChunks p = [] then
    let t := s.part p
    let rs := resMinus (s.activeRes p) t.claims ++ t.releasing
    let zero := t.zeroRel ++ (if s.flag F.ACT_ZERO_ON_MOVE [p] then rs.filter fun r => r.kind == 5 && !t.releasing.contains r else [])
    let s := s.forEach (List.range 29) fun s x => s.setReg (0x800900 + 0x4000 * p + 4 * x) 0
    let s := (s.updPart p fun t => { t with releasing := [], zeroRel := [], grand := [], claims := [] }).dropLeft p rs
    let s := ((s.letGo p rs zero).fixTarn p).put F.RESHAPE_BUSY [p] 0
    (s.put F.P_STATE [p] pDISABLED).partEvent p 8
  else s

end Sys2Proof.Machine
end

