-- ==== Sys2Proof/Machine/Alarms.lean ====
section
/-! DEFINITION. The alarms: arming, disarming, and the end of a dispatch (03_cadence R94 to R104). -/

namespace Sys2Proof.Machine

/-- What the staging fields of alarm `n` hold (03 Table 3.6). -/
def Dev.staged (s : Dev) (n : Nat) : AlarmCopy :=
  { step := s.get F.AL_STEP_LO [n] + 2 ^ 32 * s.get F.AL_STEP_HI [n], phase := s.get F.AL_PHASE [n],
    tick := s.get F.AL_TICK [n], boundary := s.flag F.AL_KIND [n], rep := s.flag F.AL_REPEAT [n],
    action := s.get F.AL_ACTION [n], owner := s.get F.AL_OWNER [n], devOwned := s.flag F.AL_DEV_OWNED [n],
    notify := s.flag F.AL_NOTIFY [n], arg := s.get F.AL_ARG [n] }

/-- The queue a DOORBELL argument names: of the owner, or of the partition in the argument (03 Table 3.7). -/
def AlarmCopy.queueKey (c : AlarmCopy) : Nat :=
  let p := if c.devOwned then bitsOf c.arg 21 6 else c.owner
  qkey p (4 * bitsOf c.arg 16 3 + bitsOf c.arg 19 2)

/-- Is what the action names held: a queue slot, by the partition it names, and a macro group, by the owner, or for the steward by some
partition (03 Table 3.7, R101; 06 R228)?  A queue of a partition that is not ENABLED is no removed one (05 R177) (DEDUCED, log 117). -/
def Dev.alarmHolds (s : Dev) (c : AlarmCopy) : Bool :=
  let p := c.queueKey / 32
  let group : Res := ⟨4, bitsOf c.arg 0 3, bitsOf c.arg 3 16, 1⟩
  match c.action with
  | 1 => (c.devOwned && s.get F.P_STATE [p] != pENABLED) || decide (bitsOf c.arg 19 2 < qslotOf (s.actReg p) (bitsOf c.arg 16 3))
  | 2 => if c.devOwned then (List.range 64).any fun q => s.owns ⟨q, 0, 0, false⟩ group else s.owns ⟨c.owner, 0, 0, false⟩ group
  | _ => true

/-- Does Table 3.7 allow the action and its argument for the owner (03 R95, R96)? -/
def Dev.alarmAllowed (s : Dev) (c : AlarmCopy) : Bool :=
  match c.action with
  | 0 => true
  | 1 => decide (bitsOf c.arg 16 3 < 5) && (c.devOwned || s.alarmHolds c)
  | 2 => decide (bitsOf c.arg 0 3 < 6) && decide (bitsOf c.arg 3 16 < 16384) && (c.devOwned || s.alarmHolds c)
  | 3 => c.devOwned && decide (bitsOf c.arg 0 3 < 4)
  | 4 => c.devOwned
  | 5 => c.devOwned
  | 6 => true
  | _ => false

/-- Arm alarm `n` from its staging fields: refused with PROT, or armed, and fired at once with LATE when the target is
already applied (03 R96, R98); answers the status. -/
def Dev.arm (s : Dev) (n : Nat) : Nat × Dev :=
  let c := s.staged n
  if !s.alarmAllowed c then (stPROT, s.put F.AL_LAST [n] stPROT)
  else
    let s := ({ s with alarms := Tab.set none s.alarms n (some c) }).put F.AL_STATE [n] 1
    if s.targetPast c.target then (stLATE, s.beginDispatch n true c) else (stOK, s)

/-- Disarm alarm `n`: idle without firing, unless its dispatch has begun; then the dispatch completes and the alarm is
idle afterwards (03 R103). -/
def Dev.disarm (s : Dev) (n : Nat) : Dev :=
  if s.get F.AL_STATE [n] = 2 then
    { s with
      alarms := Tab.set none s.alarms n none
      dispatch := s.dispatch.map fun d => if d.alarm = n then { d with cancelled := true } else d }
  else ({ s with alarms := Tab.set none s.alarms n none }).put F.AL_STATE [n] 0

/-- The bit of alarm `n` in ALARM_EVENT (03 R101). -/
def Dev.alarmEvent (s : Dev) (n : Nat) : Dev :=
  let s := s.put F.ALARM_EVENT [n / 32] (setBit (s.get F.ALARM_EVENT [n / 32]) (n % 32))
  if bitAt (s.get F.CAD_IRQ_EN) 5 then s.raisePf 1 else s

/-- EVENT ALARM to CHAIN_EVT_DST, once per alarm and tick (04 R143). -/
def Dev.alarmNotify (s : Dev) (n status : Nat) : Dev :=
  if s.cad.alarmSent.contains n then s
  else ({ s with cad := { s.cad with alarmSent := n :: s.cad.alarmSent } }).notify 8 (n + status * 2 ^ 8)

/-- A dispatch ends with its action's status: LAST, FIRED and the event, then the alarm re-arms for the next step or
returns to idle (03 R98, R101 to R103). -/
def Dev.endDispatch (s : Dev) (d : Dispatch) (status : Nat) : Dev :=
  let n := d.alarm
  let st := if status = stOK ∧ d.late then stLATE else status
  let s := s.put F.AL_FIRED [n] ((s.get F.AL_FIRED [n] + 1) % 65536)
  let s := s.put F.AL_LAST [n] st
  let s := if st ≠ stOK ∨ d.copy.notify then (s.alarmEvent n).alarmNotify n st else s
  match Tab.get none s.alarms n with
  | none => s.put F.AL_STATE [n] 0
  | some _ =>
    -- armed anew while the dispatch ran
    if s.get F.AL_STATE [n] = 1 ∨ s.dispatch.any (fun x => x.alarm == n) then s
    else if d.copy.rep ∧ !d.cancelled ∧ d.copy.step < stepMax then
      let c := { d.copy with step := d.copy.step + 1 }
      let s := ({ s with alarms := Tab.set none s.alarms n (some c) }).put F.AL_STATE [n] 1
      if s.targetPast c.target then s.beginDispatch n true c else s
    else ({ s with alarms := Tab.set none s.alarms n none }).put F.AL_STATE [n] 0

/-- A DOORBELL action (05 R177): its status.  On a queue that is neither ENABLED nor HALTED, an enabling one among them, it has no
effect. -/
def Dev.alarmDoorbell (s : Dev) (c : AlarmCopy) : Nat × Dev :=
  let k := c.queueKey
  if !s.alarmHolds c then (stPROT, s)
  else if (s.qState k ≠ qENABLED ∧ s.qState k ≠ qHALTED) ∨ (s.queue k).enabling then (stSTATE, s)
  else
    let r := s.sqJudge k (bitsOf c.arg 0 16)
    (if r.1 then stOK else stSTATE, r.2)

/-- A RESHAPE action (06 R210): its status. -/
def Dev.alarmReshape (s : Dev) (c : AlarmCopy) : Nat × Dev :=
  let r := s.reshape (bitsOf c.arg 0 6) (bitsOf c.arg 8 4)
  (if r.1 then stOK else stSTATE, r.2)

/-- An INTERRUPT action (03 Table 3.7). -/
def Dev.alarmInterrupt (s : Dev) (c : AlarmCopy) : Dev :=
  if c.devOwned then s.raisePf (bitsOf c.arg 0 11)
  else if s.vfOwned c.owner then s.raiseVf (c.owner + 1) (bitsOf c.arg 0 5)
  else s.raisePf (16 + c.owner)

end Sys2Proof.Machine
end

