-- ==== Sys2Proof/Machine/Commands.lean ====
section
/-! DEFINITION. Command lists: starting and ending a command, the common commands, fences, chunks and stops
(07_command_lists). -/

namespace Sys2Proof.Machine

/-! ### The header (07 R235 to R237) -/

/-- LEN of a command by its OP (07 Table 7.4 and the engines' tables); none for a reserved OP. -/
def opLen (op : Nat) : Option Nat :=
  if op < 0x20 then [1, 3, 3, 3, 2, 5, 4, 3][op]?
  else if op < 0x40 then
    (if op = 0x20 then some 14 else if op = 0x22 then some 8 else if op = 0x23 then some 12 else if op = 0x24 then some 8 else none)
  else if op < 0x60 then [8, 7, 7, 2, 2, 3][op - 0x40]?
  else if op < 0x80 then [6, 6, 14][op - 0x60]?
  else if op < 0xA0 then (if op < 0x89 then some 8 else none)
  else [6, 4, 7][op - 0xA0]?

/-- The class of an OP: none for a common command. -/
def opClass (op : Nat) : Option Nat := if op < 0x20 then none else some (op / 0x20 - 1)

/-- Class of a queue (05 R166): index 4 c + j. -/
def qClass (k : Nat) : Nat := k % 32 / 4

/-- Is a field of a common command out of its range, or an encoding reserved (07 R237, R244)? -/
def badCommon (w : List Word) : Bool :=
  match bitsOf (wordAt w 0) 0 8 with
  | 5 => !bitAt (wordAt w 2) 8 && decide (7 ≤ bitsOf (wordAt w 7) 0 4)
  | 6 => wordAt w 6 == 0
  | 7 => wordAt w 2 % 4 != 0
  | _ => false

/-- Does an engine command hold a ROUND it does not accept (07 R235, 08 R289)?  The optimiser writes accept 1: OPT_STEP, and CN_UPDATE
with an optimiser (11 R398). -/
def badRound (w : List Word) : Bool :=
  let op := bitsOf (wordAt w 0) 0 8
  let r := bitsOf (wordAt w 0) 16 2
  decide (0x20 ≤ op) && (r == 3 || (r == 1 && op != 0x23 && !(op == 0x62 && bitsOf (wordAt w 16) 8 2 != 0)))

/-- Is one of the format fields at these words and bits a reserved code (09 R314)? -/
def badFmt (w : List Word) (l : List (Nat × Nat)) : Bool := l.any fun x => decide (10 ≤ bitsOf (wordAt w x.1) x.2 4)

/-- Does an engine command hold an encoding that its table marks reserved (07 R237)? -/
def badEngine (w : List Word) : Bool :=
  let f := fun i lo n => bitsOf (wordAt w i) lo n
  let op := f 0 0 8
  -- only Summit spans dies (10 R367, 11 R385, 12 R415, 16 R589)
  (decide (0x40 ≤ op) && bitAt (wordAt w 1) 3) ||
  match op with
  | 0x20 => badFmt w [(25, 0), (25, 4), (25, 8), (25, 12)] || f 25 20 2 == 3 ||
      (bitAt (wordAt w 25) 22 && (decide (f 25 23 4 < 4) || decide (10 < f 25 23 4)))
  | 0x22 => badFmt w [(14, 0), (14, 4)]
  | 0x23 => badFmt w [(13, 4), (13, 8)]
  | 0x24 => badFmt w [(14, 0), (14, 4)] || decide (2 ≤ f 14 8 2)
  | 0x40 => badFmt w [(14, 0), (14, 4), (14, 8)] || f 8 17 2 == 3 || (!bitAt (wordAt w 8) 16 && f 8 17 2 != 0)
  | 0x41 => badFmt w [(6, 16)] || f 6 20 2 != 0
  | 0x42 => badFmt w [(6, 16)] || f 6 20 2 == 0 || f 6 20 2 == 3
  | 0x62 => badFmt w [(16, 12)] || decide (9 ≤ f 16 16 4)
  | 0xA2 => decide (5 ≤ f 9 0 4) || decide (3 ≤ f 9 4 4) || badFmt w [(9, 8)]
  | _ => false

/-- The DETAIL of a malformed header, or the words of the command (DESIGN CHOICE, log 43). -/
def checkHeader (cls : Nat) (list : List Word) : Except Nat (List Word) :=
  let w0 := wordAt list 0
  let op := bitsOf w0 0 8
  let n := bitsOf w0 8 8
  match opLen op with
  | none => .error dBADOP
  | some l =>
    if (opClass op).any (· != cls) then .error dBADOP
    else if n = 0 ∨ list.length < 2 * n ∨ n ≠ l then .error dBADLEN
    else
      let w := list.take (2 * n)
      if badCommon w || badRound w || badEngine w then .error dBADFIELD else .ok w

/-! ### The command in progress -/

def Dev.cmdOf (s : Dev) (k : Nat) : Option Cmd := (s.queue k).run.bind (·.cmd)

/-- The OP of a command. -/
def Cmd.opcode (c : Cmd) : Nat := bitsOf (wordAt c.words 0) 0 8

/-- The command in progress ends with a status and a detail. -/
def Dev.endCmd (s : Dev) (k st detail : Nat) : Dev := s.updCmd k fun c => { c with phase := .ended st detail }

/-- Is new work held: a supply loss or a safe stop (18 R670, 17 R621)? -/
def Dev.workHeld (s : Dev) : Bool := Tab.get false s.pauses 0 || s.hostShut

/-- COMMAND_START: the next command of the list begins, or is malformed, ends with FAULT and stops the list (07 R233,
R237); a queue whose owner may not master is paused here (05 R192). -/
def Dev.commandStart (s : Dev) (k : Nat) : Dev :=
  match (s.queue k).run with
  | none => s
  | some r =>
    if r.listPending ∨ r.cmd.isSome ∨ r.stop.isSome ∨ r.list.isEmpty ∨ s.qState k ≠ qENABLED ∨ !s.qBus k ∨ s.workHeld ∨ s.homeSleeps k then s
    else match checkHeader (qClass k) r.list with
    | .error d => s.updQ k fun q => { q with run := some { r with stop := some (stFAULT, d), list := [] } }
    | .ok w =>
      let c : Cmd := { words := w, phase := .running, ready := false, chunks := 0, todo := [], out := [], fail := none,
                       flags := 0, stop := none, per := 1, insts := [], asg := [], carry := [], slots := [], pages := [], done := [] }
      (s.dropCarry k).updQ k fun q => { q with run := some { r with cmd := some c, list := r.list.drop w.length } }

/-- The status with which a command of chunks ends, once every chunk has ended (07 R239, R242, R260). -/
def Cmd.outcome (c : Cmd) : Option (Nat × Nat) :=
  match c.phase with
  | .ended st d => if c.out.isEmpty then some (st, d) else none
  | .running =>
    if c.ready && c.todo.isEmpty && c.out.isEmpty then some (c.fail.getD (stOK, 0))
    else none
  | _ => none

/-- COMMAND_END: the command has ended; RESULT and FLAGS follow, and a status but OK or LATE stops the list (07 R234,
R258, R259) (DEDUCED, log 44). -/
def Dev.commandEnd (s : Dev) (k : Nat) : Dev :=
  match (s.queue k).run with
  | none => s
  | some r =>
    match r.cmd with
    | none => s
    | some c =>
      match c.outcome with
      | none => s
      | some (st, d) =>
        let r := { r with cmd := none, flags := r.flags ||| c.flags }
        let r := if st = stOK then { r with result := r.result + 1 }
          else if st = stLATE then { r with result := r.result + 1, late := some (r.late.getD d) }
          else { r with stop := some (st, d), list := [] }
        (s.dropCarry k).updQ k fun q => { q with run := some r }

/-- The words of the command in progress, when it is the common command of that OP and has not ended. -/
def Dev.common (s : Dev) (k op : Nat) : Option (List Word) :=
  match s.cmdOf k with
  | some c =>
    match c.phase with
    | .ended .. => none
    | _ => if bitsOf (wordAt c.words 0) 0 8 = op then some c.words else none
  | none => none

/-- NOP (07 R244). -/
def Dev.cmdNop (s : Dev) (k : Nat) : Dev := if (s.common k 0).isSome then s.endCmd k stOK 0 else s

/-! ### Fences (07 R246 to R248) -/

def Dev.fence (s : Dev) (p f : Nat) : Nat := s.get64 F.FENCE_VAL_LO F.FENCE_VAL_HI [p, f]
def Dev.setFence (s : Dev) (p f v : Nat) : Dev := s.put64 F.FENCE_VAL_LO F.FENCE_VAL_HI [p, f] v

/-- May partition `p` wait on fences of `o` (07 R248)? -/
def Dev.fencePeer (s : Dev) (o p : Nat) : Bool := bitAt (s.get64 F.FENCE_PEERS_LO F.FENCE_PEERS_HI [o]) p

/-- Evaluate the WAIT of queue `k`: refused, satisfied, or waiting (07 R248). -/
def Dev.evalWait (s : Dev) (k : Nat) : Dev :=
  match s.common k 1 with
  | none => s
  | some w =>
    let p := k / 32
    let other := bitAt (wordAt w 2) 14
    let o := if other then bitsOf (wordAt w 2) 8 6 else p
    let f := bitsOf (wordAt w 2) 0 8
    let v := wordAt w 4 + 2 ^ 32 * wordAt w 5
    if other && !s.fencePeer o p then s.endCmd k stPROT dFENCEPROT
    else if v ≤ s.fence o f then s.endCmd k stOK 0
    else s.updCmd k fun c => { c with phase := .waitFence o f v other (bitsOf (wordAt w 3) 0 24 != 0) }

/-- Is the queue in a WAIT? -/
def Dev.inWait (s : Dev) (k : Nat) : Bool :=
  match s.cmdOf k with
  | some c => (match c.phase with
    | .waitFence .. => true
    | _ => false)
  | none => false

/-- Every WAIT in progress is evaluated again (07 R248). -/
def Dev.wakeWaits (s : Dev) : Dev :=
  s.forEach (s.queues.map (·.1)) fun s k => if s.inWait k then s.evalWait k else s

/-- Raise a fence (mode 0) or add to it with saturation (mode 1), as one step (07 R247). -/
def Dev.signalFence (s : Dev) (p f v : Nat) (add : Bool) : Dev :=
  let old := s.fence p f
  (s.setFence p f (if add then min (old + v) (2 ^ 64 - 1) else max old v)).wakeWaits

/-- SIGNAL (07 R247). -/
def Dev.cmdSignal (s : Dev) (k : Nat) : Dev :=
  match s.common k 2 with
  | none => s
  | some w =>
    (s.signalFence (k / 32) (bitsOf (wordAt w 2) 0 8) (wordAt w 4 + 2 ^ 32 * wordAt w 5) (bitAt (wordAt w 2) 8)).endCmd k stOK 0

/-- FENCE_TIMEOUT: a timed WAIT whose time elapses first (07 R248). -/
def Dev.fenceTimeout (s : Dev) (k : Nat) : Dev :=
  match s.cmdOf k with
  | some c =>
    match c.phase with
    | .waitFence _ _ _ _ true => s.endCmd k stFAULT dFENCETIMEOUT
    | _ => s
  | none => s

/-! ### Cadence commands (07 R252 to R254) -/

/-- CAD_WAIT: LATE when the target is already applied, else waiting. -/
def Dev.cmdCadWait (s : Dev) (k : Nat) : Dev :=
  match s.cmdOf k, s.common k 3 with
  | some c, some w =>
    if c.phase ≠ .running then s
    else
      let t : Target := ⟨wordAt w 2 + 2 ^ 32 * bitsOf (wordAt w 3) 0 16, bitsOf (wordAt w 4) 20 4, bitsOf (wordAt w 4) 0 20,
        bitAt (wordAt w 4) 24⟩
      if s.targetPast t then s.endCmd k stLATE dWAITLATE
      else s.updCmd k fun c => { c with phase := .waitCad t.step t.phase t.tick t.boundary }
  | _, _ => s

/-- CAD_VOTE. -/
def Dev.cmdCadVote (s : Dev) (k : Nat) : Dev :=
  match s.common k 4 with
  | none => s
  | some w =>
    let r := s.recordVote (k / 32) (wordAt w 2 + 2 ^ 32 * bitsOf (wordAt w 3) 0 16) (bitsOf (wordAt w 3) 16 4)
    if r.1 = stOK then r.2.endCmd k stOK 0 else r.2.endCmd k stSTATE dVOTESTALE

/-- Write the staging fields of alarm `n` from CAD_ALARM's words 4 to 8, all but OWNER and DEV_OWNED. -/
def Dev.stage (s : Dev) (n : Nat) (w : List Word) : Dev :=
  let s := s.setReg (F.AL_STEP_LO.off [n]) (w.getD 4 0)
  let s := s.put F.AL_STEP_HI [n] (wordAt w 5)
  let s := s.setReg (F.AL_TICK.off [n]) (BitVec.ofNat 32 (bitsOf (wordAt w 6) 0 26))
  let s := (s.put F.AL_ACTION [n] (wordAt w 7)).put F.AL_NOTIFY [n] (bitsOf (wordAt w 7) 11 1)
  s.setReg (F.AL_ARG.off [n]) (w.getD 8 0)

/-- CAD_ALARM: arm or disarm an alarm given to the partition (DEDUCED, log 28). -/
def Dev.cmdCadAlarm (s : Dev) (k : Nat) : Dev :=
  match s.common k 5 with
  | none => s
  | some w =>
    let n := bitsOf (wordAt w 2) 0 8
    let st := s.staged n
    let refuse := (s.put F.AL_LAST [n] stPROT).endCmd k stPROT dALARMPROT
    if st.devOwned ∨ st.owner ≠ k / 32 then refuse
    else if bitAt (wordAt w 2) 8 then (s.disarm n).endCmd k stOK 0
    else if !(s.stage n w).alarmAllowed ((s.stage n w).staged n) then refuse
    else
      let r := (s.stage n w).arm n
      if r.1 = stLATE then r.2.endCmd k stLATE dALARMLATE else r.2.endCmd k stOK 0

/-! ### COPY and WRITE_IMM (07 R245) -/

/-- Write bytes to host memory, for the function that owns the partition, or to the partition's memory. -/
def putBytes (a : Acc) (host : Bool) (addr : Nat) (bs : List Byte) : Act Unit :=
  if host then act fun s => s.writeHost (s.owner a.part) addr bs else writeMem a addr bs

/-- Write the 64 B blocks that `n` bytes at an address touch as poisoned. -/
def putPoison (a : Acc) (host : Bool) (addr n : Nat) : Act Unit :=
  (pieces addr n).forM fun x =>
    if host then act fun s => ({ s with hostPoison := Tab.set false s.hostPoison (x.1 / 64) true }).issue (s.owner a.part) true addr n
    else poisonPiece a (x.1 / 64 * 64)

/-- Copy the bytes of one piece of the source; poison travels to the destination block (15 R544) (DEDUCED, log 38). -/
def copyPiece (a : Acc) (sh dh : Bool) (src dst n : Nat) : Act Unit := do
  let s ← theDev
  let got : Option (List Byte) ← if sh then pure (if s.hostBad src n then none else some (s.readHost src n)) else readPiece a kRead src n
  match got with
  | some bs => putBytes a dh dst bs
  | none =>
    putPoison a dh dst n
    stopWith stFAULT dPOISON

/-- Bytes a COPY moves in one chunk. -/
abbrev copyChunk : Nat := 65536

/-- One chunk of a COPY.  A host source is read by requests that PCIe bounds; `fail` is the one among this chunk's that ends in UR, CA or
a timeout, and the bytes it would have supplied are not written (07 R245).  A read may end that was issued before its function lost the
host (05 R192). -/
def copyOne (k : Nat) (w : List Word) (fail : Option Nat) (ch : Nat) : Act Unit := do
  let s ← theDev
  let a := s.spurAcc k
  let src := wordAt w 2 + 2 ^ 32 * wordAt w 3
  let dst := wordAt w 4 + 2 ^ 32 * wordAt w 5
  let n := wordAt w 6
  let sh := bitAt (wordAt w 7) 0
  let dh := bitAt (wordAt w 7) 1
  if (sh && !s.mayEnd k) || (dh && !s.qBus k) then throw .wait
  let lo := ch * copyChunk
  let m := min copyChunk (n - lo)
  let move := fun (x : Nat × Nat) => copyPiece a sh dh x.1 (dst + (x.1 - src)) x.2
  if sh then
    (piecesBy (max 64 s.host.ctl.maxRead) (src + lo) m).zipIdx.forM fun r => do
      act fun s => s.issue (s.owner (k / 32)) false r.1.1 r.1.2
      if fail == some r.2 then stopWith stFAULT dHOSTACCESS
      (pieces r.1.1 r.1.2).forM move
  else (pieces (src + lo) m).forM move

/-- A command's work is over, with its status; a wait leaves it in progress. -/
def Dev.finish (s : Dev) (k : Nat) (r : Except Stop Unit) : Dev :=
  match r with
  | .ok _ => s.endCmd k stOK 0
  | .error (.ended st d) => s.endCmd k st d
  | .error .wait => s

/-- COPY: its next chunk, at whose end a stop may fall (07 R243); after the last one the command ends. -/
def Dev.cmdCopy (s : Dev) (k : Nat) (fail : Option Nat) : Dev :=
  match s.cmdOf k, s.common k 6 with
  | some c, some w =>
    if s.workHeld ∨ c.stop.isSome then s
    else
      let ch := c.carry.headD 0
      let r := runAct (copyOne k w fail ch) s
      match r.1 with
      | .ok _ =>
        if (ch + 1) * copyChunk < wordAt w 6 then r.2.updCmd k fun c => { c with carry := [ch + 1] } else r.2.endCmd k stOK 0
      | x => r.2.finish k x
  | _, _ => s

/-- WRITE_IMM. -/
def Dev.cmdWriteImm (s : Dev) (k : Nat) : Dev :=
  match s.common k 7 with
  | none => s
  | some w =>
    if s.workHeld then s
    else
      let addr := wordAt w 2 + 2 ^ 32 * wordAt w 3
      let host := bitAt (wordAt w 5) 0
      let work : Act Unit := do
        let s ← theDev
        if host && !s.qBus k then throw .wait
        putBytes (s.spurAcc k) host addr (leBytes (wordAt w 4) 4)
      let r := runAct work s
      r.2.finish k r.1

/-! ### Instances and chunks (07 R238 to R242) -/

def Inst.key (i : Inst) : Nat := i.cls * 128 + i.die * 16 + i.idx

/-- The resource that an instance is (06 R203). -/
def Inst.res (i : Inst) : Res :=
  ⟨if i.cls = 4 then 6 else i.cls, i.die, if i.cls = 0 ∨ i.cls = 4 then i.idx else 0, 1⟩

/-- The master identity of an instance (06 Table 6.2). -/
def Inst.mid (i : Inst) : Nat :=
  match i.cls with
  | 0 => midOf i.die (i.idx / 8) (i.idx % 8)
  | 1 => midOf i.die 1 4
  | 2 => midOf i.die 1 5
  | 3 => midOf i.die 1 6
  | _ => midOf i.die 4 (i.idx % 6)

/-- Does a partition own the instance: in its active set and not releasing it (07 R238)? -/
def Dev.ownsInst (s : Dev) (p : Nat) (i : Inst) : Bool :=
  s.inActive p i.res && !(s.part p).releasing.any (·.covers i.res)

/-- The instances of a class on a die; of Scree's two lanes, the evaluation lane (0) takes SC_MVM and the write lane (1)
the other commands (10 R367). -/
def instsOn (cls die op : Nat) : List Inst :=
  if cls = 0 then (List.range 12).map fun e => ⟨0, die, e⟩
  else [⟨cls, die, if cls = 1 ∧ op ≠ 0x40 then 1 else 0⟩]

/-- The owned instances a command's header names (07 R235, R238). -/
def Dev.named (s : Dev) (k : Nat) (w : List Word) : List Inst :=
  let h := wordAt w 1
  let cls := qClass k
  -- a Col command runs on the Col half of its queue's spur core while the partition holds a port (16 R589, R576)
  if cls = 4 then
    if (List.range 12).any fun n => s.ownsInst (k / 32) ⟨4, if n < 6 then 6 else 7, n⟩ then
      [⟨4, ((s.queue k).home.getD (6, 0)).1, 0⟩] else []
  else
  let dies := if bitAt h 3 then List.range 6 else if bitsOf h 0 3 < 6 then [bitsOf h 0 3] else []
  let mask := bitsOf h 4 12
  (dies.flatMap fun d => instsOn cls d (bitsOf (wordAt w 0) 0 8)).filter fun i =>
    s.ownsInst (k / 32) i && (cls != 0 || mask == 0 || bitAt mask i.idx)

/-- The instances a command may use now; the command ends NOT_OWNED when it names none, and waits when all are still
being released to the partition (07 R238, Table 7.10). -/
def namedInsts (k : Nat) (w : List Word) : Act (List Inst) := do
  let s ← theDev
  let all := s.named k w
  if all.isEmpty then stopWith stPROT dNOTOWNED
  let ready := all.filter fun i => !s.claimed (k / 32) i.res
  if ready.isEmpty then throw .wait
  pure ready

/-- The die of a queue's spur core (01 R34). -/
def Dev.homeDie (s : Dev) (k : Nat) : Nat := ((s.queue k).home.getD (6, 0)).1

/-- An engine works only on a die that is there and awake, to which its spur core has a path (01 R30, R40, R44, R46; 07 R239). -/
def needDie (k d : Nat) : Act Unit := do
  let s ← theDev
  match s.reach (s.homeDie k) d () with
  | .ok _ => pure ()
  | .error .gone => stopWith stFAULT dDIELOST
  | .error (.asleep d) =>
    set (s.wakeReq d)
    throw .wait
  | .error .held => throw .wait

/-- The accesses of a chunk on an instance. -/
def Dev.chunkAcc (s : Dev) (k ch : Nat) (i : Inst) : Acc :=
  ⟨k / 32, 0, i.mid, (s.part (k / 32)).grand.contains (k, ch)⟩

/-- What an engine's chapter gives a command: the checks made once, answering how many units of output there are and
how many chunks each takes; and the effect of one chunk on an instance, up to a cut-off after a number of steps,
answering whether the chunk is done. -/
structure EngineOp where
  prep : Nat → Cmd → Act (Nat × Nat)
  chunk : Nat → Cmd → Inst → Nat → Option Nat → Act Bool

/-- The spur core splits the command into chunks and gives its units to the instances in turn (07 R239, 09 R317). -/
def Dev.prepare (s : Dev) (k : Nat) (e : EngineOp) : Dev :=
  match s.cmdOf k with
  | none => s
  | some c =>
    if c.ready ∨ c.phase ≠ .running then s
    else match runAct (e.prep k c) s with
    | (.ok (n, per), s) =>
      let is := s.named k c.words
      let asg := if is.isEmpty then [] else (List.range n).map fun u => is.getD (u % is.length) ⟨0, 0, 0⟩
      s.updCmd k fun c =>
        { c with ready := true, chunks := n * per, per := per, insts := is, asg := asg, todo := List.range (n * per) }
    | (.error (.ended st d), s) => s.endCmd k st d
    | (.error .wait, s) => s

/-- Units of instances that have left are given out again, in ascending order and in turn (09 R317). -/
def redeal (now : List Inst) (open_ : Nat → Bool) : Nat → Nat → List Inst → List Inst
  | _, _, [] => []
  | u, j, i :: t =>
    if now.contains i || !open_ u then i :: redeal now open_ (u + 1) j t
    else now.getD (j % now.length) i :: redeal now open_ (u + 1) (j + 1) t

/-- The instances on which a command continues: those it was split over that the partition still has, or, where the header names only
ones that have left, every one of its class on the dies named (06 R210, R212; 07 R276). -/
def Dev.remaining (s : Dev) (k : Nat) (c : Cmd) : List Inst :=
  let p := k / 32
  let dies := if bitAt (wordAt c.words 1) 3 then List.range 6 else [bitsOf (wordAt c.words 1) 0 3]
  match c.insts.filter (s.ownsInst p) with
  | [] =>
    if qClass k = 4 then s.named k c.words
    else (dies.flatMap fun d => instsOn (qClass k) d c.opcode).filter (s.ownsInst p)
  | l => l

/-- The assignment of units as the instances now stand. -/
def Dev.assignment (s : Dev) (k : Nat) (c : Cmd) : List Inst :=
  let now := s.remaining k c
  if now.isEmpty || c.asg.all now.contains then c.asg
  else redeal now (fun u => c.todo.any fun ch => ch / max 1 c.per == u) 0 0 c.asg

/-- The instance of a chunk. -/
def Dev.instOf (s : Dev) (k : Nat) (c : Cmd) (ch : Nat) : Inst :=
  (s.assignment k c).getD (ch / max 1 c.per) ⟨qClass k, bitsOf (wordAt c.words 1) 0 3, 0⟩

/-- The sticky flags of TRAP in the header (07 Table 7.1). -/
def Cmd.trap (c : Cmd) : Nat := bitsOf (wordAt c.words 0) 19 5

/-- Begin a chunk of a command on an instance: it reads the configuration, the memory and the faces it uses now (07 R264, R265), and what
it comes to is kept until its end.  None: it must wait, holds no instance and has done nothing (07 R263). -/
def Dev.beginChunk (s : Dev) (k : Nat) (e : EngineOp) (c : Cmd) (i : Inst) (ch : Nat) (limit : Option Nat) : Option Busy × Dev :=
  let r := runAct (do needDie k i.die; e.chunk k c i ch limit) { s with flagAcc := 0, holdAcc := [] }
  let b : Busy := { queue := k, chunk := ch, cmd := c, fail := none, flags := r.2.flagAcc, cut := false, holds := r.2.holdAcc }
  match r.1 with
  | .error .wait => (none, { s with wakes := r.2.wakes })
  | .error (.ended st d) => (some { b with fail := some (st, d) }, r.2)
  | .ok done => (some { b with cut := !done }, r.2)

/-! ### Dispatch by an instance (07 R241) -/

/-- The weight of a partition on an instance (06 Table 6.1). -/
def Dev.weight (s : Dev) (p : Nat) (i : Inst) : Nat :=
  match i.cls with
  | 0 => 1
  | 4 => max 1 (bitsOf (s.actReg p 0x10) 16 8)
  | c => max 1 (bitsOf (s.get F.ACT_ENGINE_SHARE [p, i.die]) (8 * (c - 1)) 8)

/-- The queues with a chunk that this instance may take. -/
def Dev.readyQueues (s : Dev) (i : Inst) : List Nat :=
  (s.queues.map (·.1)).filter fun k => qClass k == i.cls &&
    match s.cmdOf k with
    | some c => c.phase == .running && c.ready && c.stop.isNone && !s.claimed (k / 32) i.res &&
        c.todo.any fun ch => s.instOf k c ch == i
    | none => false

/-- The partition to serve: the lowest engine cycles used over weight, the lower number on equal values (DEDUCED, log 46). -/
def pickPart (used : Nat → Nat) (weight : Nat → Nat) : List Nat → Option Nat
  | [] => none
  | p :: t => match pickPart used weight t with
    | none => some p
    | some q =>
      if used q * weight p < used p * weight q ∨ (used q * weight p = used p * weight q ∧ q < p) then some q else some p

/-- The queue of a partition to serve: the next after the last one served, in a circle. -/
def pickQueue (last : Nat) (l : List Nat) : Option Nat :=
  match (l.filter fun k => decide (last < k)).min? with
  | some k => some k
  | none => l.min?

/-- Weighted round-robin over the partitions of some queues with a chunk ready on instance `i`, `all` being every queue that has one: the
instance's accounts after the choice, and the queue (07 R241).  A partition that becomes ready again is raised to the lowest scaled count
among the partitions ready. -/
def Dev.pick (s : Dev) (i : Inst) (all qs : List Nat) : Option (Engine × Nat) :=
  let e := Tab.get Engine.reset s.engines i.key
  let ready := (all.map (· / 32)).dedup
  let used := fun p => Tab.get 0 e.used p
  let w := fun p => s.weight p i
  let base := pickPart used w (ready.filter fun p => e.ready.contains p)
  let used' := fun p => if e.ready.contains p then used p else match base with
    | some b => max (used p) (ceilDiv (used b * w p) (w b))
    | none => used p
  match pickPart used' w (qs.map (· / 32)).dedup with
  | none => none
  | some p =>
    (pickQueue (Tab.get 0 e.last p) (qs.filter fun k => k / 32 == p)).map fun k =>
      ({ e with ready := ready, last := Tab.set 0 e.last p k, used := ready.foldl (fun t q => Tab.set 0 t q (used' q)) e.used }, k)

/-- Start chunk `ch` of queue `k` on an idle instance, with the instance's accounts `e`; answers whether it started. -/
def Dev.startChunk (s : Dev) (k : Nat) (op : EngineOp) (c : Cmd) (i : Inst) (ch : Nat) (limit : Option Nat) (e : Engine) : Bool × Dev :=
  let asg := s.assignment k c
  match s.beginChunk k op c i ch limit with
  | (none, s) => (false, s)
  | (some b, s) =>
    let s := s.updCmd k fun c => { c with todo := c.todo.erase ch, asg := asg, out := c.out ++ [⟨ch, i⟩] }
    (true, { s with engines := Tab.upd Engine.reset s.engines i.key fun x =>
      { x with busy := some b, used := e.used, ready := e.ready, last := e.last } })

/-- Start the first chunk that need not wait, in the order of the round-robin. -/
def Dev.startFirst (s : Dev) (i : Inst) (limit : Option Nat) (op : Nat → EngineOp) (all : List Nat) : Nat → List Nat → Dev
  | 0, _ => s
  | n + 1, qs =>
    match s.pick i all qs with
    | none => s
    | some (e, k) =>
      match s.cmdOf k with
      | none => s
      | some c =>
        match s.startChunk k (op c.opcode) c i ((c.todo.find? fun ch => s.instOf k c ch == i).getD 0) limit e with
        | (true, s) => s
        | (false, s) => Dev.startFirst s i limit op all n (qs.erase k)

/-- An instance picks its next chunk by weighted round-robin and starts it (07 R241); `limit` is after how many of its engine's
boundaries that chunk will reach its time limit, if it does (DESIGN CHOICE, log 115). -/
def Dev.dispatchOn (s : Dev) (i : Inst) (limit : Option Nat) (op : Nat → EngineOp) : Dev :=
  let e := Tab.get Engine.reset s.engines i.key
  if e.busy.isSome ∨ s.workHeld then s
  else
    let qs := s.readyQueues i
    if qs.isEmpty then { s with engines := Tab.set Engine.reset s.engines i.key { e with ready := [] } }
    else s.startFirst i limit op qs qs.length qs

/-- Put a chunk back among those to be dispatched, in ascending order (09 R317). -/
def insertAsc (ch : Nat) : List Nat → List Nat
  | [] => [ch]
  | x :: t => if ch ≤ x then ch :: x :: t else x :: insertAsc ch t

/-- A command learns how one of its chunks ended: the first failing status, or a trapped flag, stops further dispatch (07 R242, R260); a
chunk that was cut off goes on in a further one; a stopped command whose last chunk this was is CANCELLED, unless a fault had met it
before (07 R243, 17 R633). -/
def Cmd.chunkOver (c : Cmd) (i : Inst) (b : Busy) : Cmd :=
  let c := { c with out := c.out.filter (fun x => !(x.chunk == b.chunk && x.inst == i)), flags := c.flags ||| b.flags }
  let fail := match b.fail with
    | some x => some x
    | none => if b.flags &&& c.trap ≠ 0 then some (stNUMERIC, dNUMERICTRAP) else none
  let c := match fail with
    | some x => { c with fail := some (c.fail.getD x), todo := [] }
    | none => if b.cut ∧ c.fail.isNone ∧ c.stop.isNone then { c with todo := insertAsc b.chunk c.todo } else c
  match c.stop with
  | some d => if c.out.isEmpty && c.fail.isNone then c.cancel d else c
  | none => c

/-- An instance falls idle, having used some engine cycles; a partition's release no longer waits for its chunk (06 R210). -/
def Dev.freeInst (s : Dev) (i : Inst) (b : Busy) (cycles : Nat) : Dev :=
  let p := b.queue / 32
  ({ s with engines := Tab.upd Engine.reset s.engines i.key fun e =>
      { e with busy := none, used := Tab.set 0 e.used p (Tab.get 0 e.used p + cycles) } }).updPart p fun t =>
    { t with grand := t.grand.filter fun c => !(c == (b.queue, b.chunk)) }

/-- Does the chunk an instance runs belong to the command now on its queue?  After a Function Level Reset it runs to its end for none. -/
def Dev.ownsChunk (s : Dev) (i : Inst) (b : Busy) : Bool :=
  (s.cmdOf b.queue).any fun c => c.out.any fun x => x.chunk == b.chunk && x.inst == i

/-- The chunk that an instance runs ends with what `f` makes of its outcome. -/
def Dev.overWith (s : Dev) (i : Inst) (cycles : Nat) (f : Busy → Busy) : Dev :=
  match (Tab.get Engine.reset s.engines i.key).busy with
  | none => s
  | some b =>
    let owns := s.ownsChunk i b
    let s := s.freeInst i b cycles
    if owns then s.updCmd b.queue fun c => c.chunkOver i (f b) else s

/-- The chunk that an instance runs ends, having used some engine cycles. -/
def Dev.endOn (s : Dev) (i : Inst) (cycles : Nat) : Dev := s.overWith i cycles id

/-- The chunk that an instance runs is at its engine's time limit: it is cut off (07 R240). -/
def Dev.cutOn (s : Dev) (i : Inst) (cycles : Nat) : Dev :=
  if (Tab.get Engine.reset s.engines i.key).busy.any (·.cut) then s.endOn i cycles else s

/-- Macro groups of the Scree engines (10 R341). -/
def gkey (die g : Nat) : Nat := die * 16384 + g
def Dev.group (s : Dev) (die g : Nat) : Group := Tab.get Group.reset s.scree.groups (gkey die g)
def Dev.updGroup (s : Dev) (die g : Nat) (f : Group → Group) : Dev :=
  { s with scree := { s.scree with groups := Tab.upd Group.reset s.scree.groups (gkey die g) f } }

/-- A chunk of SC_WRITE_S that does not reach its end leaves its group's S-array INVALID (10 R359). -/
def Dev.lostWrite (s : Dev) (b : Busy) : Dev :=
  if b.cmd.opcode = 0x41 then
    s.updGroup (bitsOf (wordAt b.cmd.words 1) 0 3) (bitsOf (wordAt b.cmd.words 6) 0 16 + b.chunk) fun r => { r with sValid := false }
  else s

/-- The chunk that an instance runs ends with a status from outside the engine (17 R623, 07 R275). -/
def Dev.killChunk (s : Dev) (i : Inst) (st d : Nat) : Dev :=
  let s := (Tab.get Engine.reset s.engines i.key).busy.elim s s.lostWrite
  s.overWith i 0 fun b => { b with fail := some (st, d), cut := false }

/-- Run the chunks not yet handed out, in order, each on its instance, as long as the instance is idle, its round-robin serves this queue
and the chunk need not wait; each uses `cycles` engine cycles. -/
def Dev.runChunks (s : Dev) (k : Nat) (e : EngineOp) (cycles : Nat) : Nat → Dev
  | 0 => s
  | n + 1 =>
    match s.cmdOf k with
    | none => s
    | some c =>
      match c.todo with
      | [] => s
      | ch :: _ =>
        let i := s.instOf k c ch
        let qs := s.readyQueues i
        match s.pick i qs qs with
        | none => s
        | some (eng, k') =>
          if k' ≠ k ∨ (Tab.get Engine.reset s.engines i.key).busy.isSome then s
          else match s.startChunk k e c i ch none eng with
          | (true, s) => Dev.runChunks (s.endOn i cycles) k e cycles n
          | (false, s) => s

/-- An engine command of OP `op` on queue `k`: split into chunks, and run as far as nothing stands in its way; what is left goes on by
dispatch (DESIGN CHOICE, log 42). -/
def Dev.engineCmd (s : Dev) (k op cycles : Nat) (e : EngineOp) : Dev :=
  match s.common k op with
  | none => s
  | some _ =>
    if s.workHeld then s
    else
      let s := s.prepare k e
      match s.cmdOf k with
      | some c => if c.stop.isSome then s else s.runChunks k e cycles c.todo.length
      | none => s

/-! ### Stops (07 R243) -/

/-- A stop reaches the engines of a queue's command: unstarted chunks are withdrawn, and the command ends CANCELLED at
its chunk boundary. -/
def Dev.stopCmd (s : Dev) (k detail : Nat) : Dev := (s.updCmd k fun c => c.stopFor detail true).dropCarry k

/-- STOP: the stop of a partition's disable reaches the queue's engines (07 Table 7.3). -/
def Dev.stopReach (s : Dev) (k : Nat) : Dev :=
  if s.qState k = qDISABLING ∧ (s.queue k).cause = dPDISABLE then s.stopCmd k dPDISABLE else s

/-- DISABLE_GRACE: 2 ms after a queue disable's cut (07 Table 7.3). -/
def Dev.disableGrace (s : Dev) (k : Nat) : Dev :=
  if s.qState k = qDISABLING then s.stopCmd k (s.queue k).cause else s

end Sys2Proof.Machine
end

