-- ==== Sys2Proof/Machine/Numerics.lean ====
section
/-! DEFINITION. The ten number formats and the arithmetic on them: decoding, rounding, block scaling, sticky flags
(08_numerics R278 to R312). -/

namespace Sys2Proof.Machine

/-! ### Values -/

/-- An exact value: NaN, a signed infinity, or (−1)^neg × m × 2^e. -/
inductive Num where
  | nan
  | inf (neg : Bool)
  | fin (neg : Bool) (m : Nat) (e : Int)
deriving DecidableEq, Repr

abbrev Num.zero : Num := .fin false 0 0
abbrev Num.one : Num := .fin false 1 0

def Num.isNan : Num → Bool
  | .nan => true
  | _ => false
def Num.isInf : Num → Bool
  | .inf _ => true
  | _ => false
def Num.isZero : Num → Bool
  | .fin _ m _ => m == 0
  | _ => false
def Num.sign : Num → Bool
  | .nan => false
  | .inf n => n
  | .fin n _ _ => n
def Num.neg : Num → Num
  | .nan => .nan
  | .inf n => .inf !n
  | .fin n m e => .fin (!n) m e
def Num.abs : Num → Num
  | .nan => .nan
  | .inf _ => .inf false
  | .fin _ m e => .fin false m e

/-- An integer as a value. -/
def Num.ofInt (i : Int) : Num := .fin (decide (i < 0)) i.natAbs 0

/-- A finite value times a power of two. -/
def Num.scale (x : Num) (k : Int) : Num :=
  match x with
  | .fin n m e => .fin n m (e + k)
  | y => y

/-- The signed mantissa of a finite value at an exponent that is not above its own. -/
def sigAt (neg : Bool) (m : Nat) (e lo : Int) : Int :=
  let v : Int := m * 2 ^ (e - lo).toNat
  if neg then -v else v

/-- The order of two values without NaN: the sign of a − b as an integer. -/
def Num.diff (a b : Num) : Int :=
  match a, b with
  | .fin n m e, .fin n' m' e' => sigAt n m e (min e e') - sigAt n' m' e' (min e e')
  | .inf n, .inf n' => (if n then -1 else 1) - (if n' then -1 else 1)
  | .inf n, _ => if n then -1 else 1
  | _, .inf n => if n then 1 else -1
  | _, _ => 0

/-- a < b, for values without NaN. -/
def Num.lt (a b : Num) : Bool := decide (Num.diff a b < 0)

/-- a ≤ b, for values without NaN. -/
def Num.le (a b : Num) : Bool := decide (Num.diff a b ≤ 0)

/-! ### Sticky flags (08 R293): an operation's flags join those already raised -/

abbrev fINVALID : Nat := 1
abbrev fOVERFLOW : Nat := 2
abbrev fUNDERFLOW : Nat := 4
abbrev fINEXACT : Nat := 8
abbrev fSATURATED : Nat := 16

/-- A computation that may raise sticky flags. -/
abbrev Fl := StateM Nat

/-- Raise flags. -/
def raise (f : Nat) : Fl Unit := modify fun x => x ||| f

/-- Run arithmetic in a chunk: its flags join the chunk's. -/
def arith {α : Type} (x : Fl α) : Act α := do
  let r := x.run 0
  act fun s => { s with flagAcc := s.flagAcc ||| r.2 }
  pure r.1

/-! ### Formats (08 Tables 8.1 to 8.3) -/

inductive Fmt where
  | fp32 | fp16 | bf16 | e4m3 | e5m2 | e2m3 | e2m1 | int8 | int4 | sc4
deriving DecidableEq, Repr

def Fmt.width : Fmt → Nat
  | .fp32 => 32
  | .fp16 => 16
  | .bf16 => 16
  | .e4m3 => 8
  | .e5m2 => 8
  | .e2m3 => 6
  | .e2m1 => 4
  | .int8 => 8
  | .int4 => 4
  | .sc4 => 4

/-- Exponent bits, fraction bits, bias of the floating formats. -/
def Fmt.fields : Fmt → Nat × Nat × Nat
  | .fp32 => (8, 23, 127)
  | .fp16 => (5, 10, 15)
  | .bf16 => (8, 7, 127)
  | .e4m3 => (4, 3, 7)
  | .e5m2 => (5, 2, 15)
  | .e2m3 => (2, 3, 1)
  | .e2m1 => (2, 1, 1)
  | _ => (0, 0, 0)

/-- Is the format block-scaled? -/
def Fmt.block : Fmt → Bool
  | .fp32 => false
  | .fp16 => false
  | .bf16 => false
  | _ => true

/-- EMAX of an element format (08 Table 8.3). -/
def Fmt.emax : Fmt → Int
  | .e4m3 => 8
  | .e5m2 => 15
  | .e2m3 => 2
  | .e2m1 => 2
  | .sc4 => 2
  | _ => 0

/-- The encoding of the largest finite magnitude (08 Table 8.2). -/
def Fmt.maxEnc : Fmt → Nat
  | .fp32 => 0x7F7FFFFF
  | .fp16 => 0x7BFF
  | .bf16 => 0x7F7F
  | .e4m3 => 0x7E
  | .e5m2 => 0x7B
  | .e2m3 => 0x1F
  | .e2m1 => 0x7
  | .int8 => 127
  | .int4 => 7
  | .sc4 => 15

/-- The canonical NaN (08 Table 8.2); formats without NaN have none. -/
def Fmt.nanEnc : Fmt → Nat
  | .fp32 => 0x7FC00000
  | .fp16 => 0x7E00
  | .bf16 => 0x7FC0
  | .e4m3 => 0x7F
  | .e5m2 => 0x7E
  | _ => 0

/-- The value of an encoding of a floating format (08 R278). -/
def decodeFloat (eb fb bias : Nat) (hasInf hasNan : Bool) (v : Nat) : Num :=
  let s := bitAt v (eb + fb)
  let ex := bitsOf v fb eb
  let fr := bitsOf v 0 fb
  if hasInf ∧ ex = 2 ^ eb - 1 then (if fr = 0 then .inf s else .nan)
  else if hasNan ∧ !hasInf ∧ ex = 2 ^ eb - 1 ∧ fr = 2 ^ fb - 1 then .nan
  else if ex = 0 then .fin s fr (1 - bias - fb)
  else .fin s (2 ^ fb + fr) (ex - bias - fb)

/-- The value of an element or encoding (08 Table 8.1). -/
def Fmt.decode (f : Fmt) (v : Nat) : Num :=
  match f with
  | .int8 => let k := sext v 8; .fin (decide (k < 0)) k.natAbs (-6)
  | .int4 => let k := sext v 4; .fin (decide (k < 0)) k.natAbs (-2)
  | .sc4 => let k : Int := 2 * (v % 16 : Nat) - 15; .fin (decide (k < 0)) k.natAbs (-1)
  | .fp32 => decodeFloat 8 23 127 true true v
  | .fp16 => decodeFloat 5 10 15 true true v
  | .bf16 => decodeFloat 8 7 127 true true v
  | .e4m3 => decodeFloat 4 3 7 false true v
  | .e5m2 => decodeFloat 5 2 15 true true v
  | .e2m3 => decodeFloat 2 3 1 false false v
  | .e2m1 => decodeFloat 2 1 1 false false v

/-- Is the value an FP32, FP16 or BF16 subnormal (08 R292)? -/
def Fmt.subnormal (f : Fmt) (v : Nat) : Bool :=
  !f.block && bitsOf v f.fields.2.1 f.fields.1 == 0 && bitsOf v 0 f.fields.2.1 != 0

/-- Read an operand: with FLUSH a subnormal reads as zero of its sign (08 R292). -/
def Fmt.operand (f : Fmt) (flush : Bool) (v : Nat) : Num :=
  if flush && f.subnormal v then .fin (f.decode v).sign 0 0 else f.decode v

/-! ### Rounding (08 R289, R290) -/

/-- 16 bits from a seed and an element's index (08 R290). -/
def srBits (seed index : Nat) : Nat :=
  let m := 2 ^ 64
  let z := index % m ^^^ (seed % 2 ^ 32 * 2 ^ 32) ^^^ seed % 2 ^ 32
  let z := (z ^^^ z / 2 ^ 30) * 0xBF58476D1CE4E5B9 % m
  let z := (z ^^^ z / 2 ^ 27) * 0x94D049BB133111EB % m
  let z := z ^^^ z / 2 ^ 31
  z / 2 ^ 48

/-- A rounding: nearest-even, toward zero, or stochastic with its 16 bits. -/
inductive Rnd where
  | near
  | zero
  | stoch (u : Nat)
deriving DecidableEq, Repr

/-- Does n + r / 2^sh round up to n + 1? -/
def Rnd.up (rd : Rnd) (n r sh : Nat) : Bool :=
  match rd with
  | .near => decide (2 ^ sh < 2 * r) || (2 * r == 2 ^ sh && n % 2 == 1)
  | .zero => false
  | .stoch u => decide (65536 ≤ r * 65536 / 2 ^ sh + u)

/-- Round the magnitude m × 2^e to a multiple n of 2^q; answers n and whether it was inexact. -/
def roundMag (rd : Rnd) (m : Nat) (e q : Int) : Nat × Bool :=
  if q ≤ e then (m * 2 ^ (e - q).toNat, false)
  else
    let sh := (q - e).toNat
    let n := m / 2 ^ sh
    let r := m % 2 ^ sh
    (if rd.up n r sh then n + 1 else n, r != 0)

/-- The exponent of the smallest normal of a floating format. -/
def Fmt.emin (f : Fmt) : Int := 1 - f.fields.2.2

/-- The quantum of a magnitude in a floating format. -/
def Fmt.quantum (f : Fmt) (m : Nat) (e : Int) : Int := max (m.log2 + e - f.fields.2.1) (f.emin - f.fields.2.1)

/-- The encoding n × 2^q of a rounded magnitude, exponent unbounded. -/
def Fmt.encMag (f : Fmt) (n : Nat) (q : Int) : Nat := (q - (f.emin - f.fields.2.1)).toNat * 2 ^ f.fields.2.1 + n

def Fmt.signBit (f : Fmt) (neg : Bool) : Nat := if neg then 2 ^ (f.width - 1) else 0

/-- Write a value to FP32, FP16 or BF16 (08 R289, R292, R293, R296). -/
def Fmt.round (f : Fmt) (rd : Rnd) (flush : Bool) (x : Num) : Fl Nat := do
  match x with
  | .nan => pure f.nanEnc
  | .inf n => pure (f.signBit n + (2 ^ f.fields.1 - 1) * 2 ^ f.fields.2.1)
  | .fin s m e =>
    if m = 0 then pure (f.signBit s)
    else
      let tiny := decide ((m.log2 : Int) + e < f.emin)
      if flush && tiny then
        raise (fUNDERFLOW ||| fINEXACT)
        pure (f.signBit s)
      else
        let q := f.quantum m e
        let (n, inex) := roundMag rd m e q
        let enc := f.encMag n q
        if f.maxEnc < enc then
          raise (fOVERFLOW ||| fINEXACT)
          if rd = .zero then pure (f.signBit s + f.maxEnc)
          else pure (f.signBit s + (2 ^ f.fields.1 - 1) * 2 ^ f.fields.2.1)
        else
          if inex then raise (if tiny then fUNDERFLOW ||| fINEXACT else fINEXACT)
          pure (f.signBit s + enc)

/-- An FP32 rounding point under nearest-even, as a value. -/
def to32 (x : Num) : Fl Num := do
  let v ← Fmt.fp32.round .near false x
  pure (Fmt.fp32.decode v)

/-- A BF16 rounding point under nearest-even, as a value. -/
def toBf16 (x : Num) : Fl Num := do
  let v ← Fmt.bf16.round .near false x
  pure (Fmt.bf16.decode v)

/-! ### Exact operations (08 R297): the rounding follows where the class gives one -/

/-- Exact sum; opposite infinities are invalid, an exact zero sum is +0 (08 R282). -/
def addX (a b : Num) : Fl Num :=
  match a, b with
  | .nan, _ => pure .nan
  | _, .nan => pure .nan
  | .inf n, .inf n' => if n = n' then pure (.inf n) else do raise fINVALID; pure .nan
  | .inf n, _ => pure (.inf n)
  | _, .inf n => pure (.inf n)
  | .fin n m e, .fin n' m' e' =>
    if m = 0 ∧ m' = 0 then pure (.fin (n && n') 0 0)
    else
      let t := min e e'
      let v := sigAt n m e t + sigAt n' m' e' t
      pure (.fin (decide (v < 0)) v.natAbs t)

/-- Exact product; 0 × ∞ is invalid. -/
def mulX (a b : Num) : Fl Num :=
  match a, b with
  | .nan, _ => pure .nan
  | _, .nan => pure .nan
  | .inf n, y => if y.isZero then do raise fINVALID; pure .nan else pure (.inf (n != y.sign))
  | y, .inf n => if y.isZero then do raise fINVALID; pure .nan else pure (.inf (n != y.sign))
  | .fin n m e, .fin n' m' e' => pure (.fin (n != n') (m * m') (e + e'))

/-- Exact fused multiply-add; a NaN operand gives NaN and sets no flag (08 R281). -/
def fmaX (a b c : Num) : Fl Num :=
  if c.isNan then pure .nan
  else do
    let p ← mulX a b
    addX p c

/-- A value whose exact magnitude lies strictly between m × 2^e and (m + 1) × 2^e when `more`: a last bit keeps that
for the rounding. -/
def jam (neg : Bool) (m : Nat) (e : Int) (more : Bool) : Num := .fin neg (2 * m + b2n more) (e - 1)

/-- Quotient, kept to more bits than any rounding here looks at (08 R293: x / 0 raises overflow only). -/
def divX (a b : Num) : Fl Num :=
  match a, b with
  | .nan, _ => pure .nan
  | _, .nan => pure .nan
  | .inf _, .inf _ => do raise fINVALID; pure .nan
  | .inf n, y => pure (.inf (n != y.sign))
  | x, .inf n => pure (.fin (x.sign != n) 0 0)
  | .fin n m e, .fin n' m' e' =>
    if m' = 0 then
      (if m = 0 then do raise fINVALID; pure .nan else do raise fOVERFLOW; pure (.inf (n != n')))
    else
      let k := 128 + m'.log2
      let num := m * 2 ^ k
      pure (jam (n != n') (num / m') (e - e' - k) (num % m' != 0))

/-- Integer square root by binary digits from the highest. -/
def isqrtFrom (x : Nat) : Nat → Nat → Nat
  | 0, r => r
  | b + 1, r => let r' := r + 2 ^ b; if r' * r' ≤ x then isqrtFrom x b r' else isqrtFrom x b r

/-- The integer square root. -/
def isqrt (x : Nat) : Nat := isqrtFrom x (x.log2 / 2 + 1) 0

/-- The mantissa at an even exponent. -/
def evenExp (m : Nat) (e : Int) : Nat × Int := if e % 2 = 0 then (m, e) else (2 * m, e - 1)

/-- Square root. -/
def sqrtX (a : Num) : Fl Num :=
  match a with
  | .nan => pure .nan
  | .inf n => if n then do raise fINVALID; pure .nan else pure (.inf false)
  | .fin n m e =>
    if m = 0 then pure (.fin n 0 0)
    else if n then do raise fINVALID; pure .nan
    else
      let (m, e) := evenExp m e
      let x := m * 2 ^ 256
      let r := isqrt x
      pure (jam false r (e / 2 - 128) (r * r != x))

/-- Reciprocal square root; of zero it is a signed infinity and raises overflow. -/
def rsqrtX (a : Num) : Fl Num :=
  match a with
  | .nan => pure .nan
  | .inf n => if n then do raise fINVALID; pure .nan else pure (.fin false 0 0)
  | .fin n m e =>
    if m = 0 then do raise fOVERFLOW; pure (.inf n)
    else if n then do raise fINVALID; pure .nan
    else
      let (m, e) := evenExp m e
      let k := 128 + m.log2
      let r := isqrt (2 ^ (2 * k) / m)
      pure (jam false r (-(e / 2) - k) (r * r * m != 2 ^ (2 * k)))

/-! ### FP32 operations, one nearest-even rounding each -/

def add32 (a b : Num) : Fl Num := do let x ← addX a b; to32 x
def sub32 (a b : Num) : Fl Num := add32 a b.neg
def mul32 (a b : Num) : Fl Num := do let x ← mulX a b; to32 x
def fma32 (a b c : Num) : Fl Num := do let x ← fmaX a b c; to32 x
def div32 (a b : Num) : Fl Num := do let x ← divX a b; to32 x
def sqrt32 (a : Num) : Fl Num := do let x ← sqrtX a; to32 x
def rsqrt32 (a : Num) : Fl Num := do let x ← rsqrtX a; to32 x

/-! ### Comparison (08 R300) -/

/-- Maximum: NaN wins, −0 is below +0. -/
def Num.max (a b : Num) : Num :=
  if a.isNan || b.isNan then .nan
  else if a.isZero && b.isZero then .fin (a.sign && b.sign) 0 0
  else if a.lt b then b else a

/-- Minimum: NaN wins, −0 is below +0. -/
def Num.min (a b : Num) : Num :=
  if a.isNan || b.isNan then .nan
  else if a.isZero && b.isZero then .fin (a.sign || b.sign) 0 0
  else if b.lt a then b else a

/-- The key of an encoding in the total order −NaN, −∞, …, −0, +0, …, +∞, +NaN, given its width. -/
def orderKey (w v : Nat) : Nat :=
  if bitAt v (w - 1) then 2 ^ (w - 1) - 1 - bitsOf v 0 (w - 1) else 2 ^ (w - 1) + bitsOf v 0 (w - 1)

/-! ### Block scaling (08 R283 to R288) -/

/-- Elements in a block. -/
abbrev blockLen : Nat := 32

/-- The exact value of an element under a scale (08 R284); the scale 0xFF is NaN. -/
def blockValue (f : Fmt) (scale v : Nat) : Num := if scale = 0xFF then .nan else (f.decode v).scale ((scale : Int) - 127)

/-- Decode to FP32: beyond its range an infinity, with overflow and inexact. -/
def blockTo32 (f : Fmt) (scale v : Nat) : Fl Num := to32 (blockValue f scale v)

/-- floor(log2) of the magnitude of a finite non-zero value. -/
def Num.log2 : Num → Option Int
  | .fin _ m e => if m = 0 then none else some (m.log2 + e)
  | _ => none

/-- The scale of a block (08 R285). -/
def blockScale (f : Fmt) (vs : List Num) : Nat :=
  match (vs.filterMap Num.log2).max? with
  | none => 0
  | some l => (Max.max 0 (Min.min 254 (l - f.emax + 127))).toNat

/-- The element of largest magnitude of a sign. -/
def Fmt.maxElem (f : Fmt) (neg : Bool) : Nat :=
  match f with
  | .int8 => if neg then 256 - 127 else 127
  | .int4 => if neg then 16 - 7 else 7
  | .sc4 => if neg then 0 else 15
  | _ => f.signBit neg + f.maxEnc

/-- Write an integer element: magnitude k of a sign. -/
def Fmt.intElem (f : Fmt) (neg : Bool) (k : Nat) : Nat :=
  let w := f.width
  if neg then (2 ^ w - k) % 2 ^ w else k

/-- Quantise v / X to an element (08 R286) (DEDUCED, log 110). -/
def quantise (f : Fmt) (rd : Rnd) (x : Num) : Fl Nat := do
  match x with
  | .nan => pure f.nanEnc
  | .inf n => pure (f.signBit n + 0x7C)
  | .fin s m e =>
    match f with
    | .int8 | .int4 =>
      let q : Int := if f = .int8 then -6 else -2
      let (n, inex) := roundMag rd m e q
      if f.maxEnc < n then
        raise (fSATURATED ||| fINEXACT)
        pure (f.maxElem s)
      else
        if inex then raise (if n = 0 then fUNDERFLOW ||| fINEXACT else fINEXACT)
        pure (f.intElem s n)
    | .sc4 =>
      -- levels n + 1/2: the nearest is floor of the magnitude, but a whole number takes the level below it
      let (n, frac) := roundMag .zero m e 0
      let half := decide (Num.diff (.fin false m e) (.fin false (2 * n + 1) (-1)) = 0)
      let below := decide (Num.diff (.fin false m e) (.fin false (2 * n + 1) (-1)) < 0)
      let n := match rd with
        | .near => if frac then n else n - 1
        | _ => if below then n - 1 else n
      if 7 < n then
        raise (fSATURATED ||| fINEXACT)
        pure (f.maxElem s)
      else
        if !half then raise fINEXACT
        pure (if s then 7 - n else 8 + n)
    | _ =>
      if m = 0 then pure (f.signBit s)
      else
        let q := f.quantum m e
        let (n, inex) := roundMag rd m e q
        let enc := f.encMag n q
        if f.maxEnc < enc then
          raise (fSATURATED ||| fINEXACT)
          pure (f.maxElem s)
        else
          if inex then raise (if (m.log2 : Int) + e < f.emin then fUNDERFLOW ||| fINEXACT else fINEXACT)
          pure (f.signBit s + enc)

/-- The padding element (08 R283). -/
def Fmt.pad (f : Fmt) : Nat := if f = .sc4 then 8 else 0

/-- Write a block: its scale and its elements (08 R285 to R287, R306); `rd` gives the rounding of position i (DEDUCED, log 47; DEDUCED, log 49). -/
def writeBlock (f : Fmt) (rd : Nat → Rnd) (vs : List Num) : Fl (Nat × List Nat) := do
  if vs.any Num.isNan then pure (0xFF, vs.map fun _ => f.pad)
  else if (vs.any Num.isInf) && f != .e5m2 then
    raise fINVALID
    pure (0xFF, vs.map fun _ => f.pad)
  else if f = .sc4 ∧ vs.all Num.isZero then
    raise fINEXACT
    pure (0, vs.map fun _ => 8)
  else
    let sc := blockScale f vs
    let es ← vs.zipIdx.mapM fun (v, i) => quantise f (rd i) (v.scale (127 - (sc : Int)))
    pure (sc, es)

/-! ### Elements in memory (08 R279) -/

/-- The bytes that `n` elements take. -/
def Fmt.bytesFor (f : Fmt) (n : Nat) : Nat := (n * f.width + 7) / 8

/-- Element `i` of packed elements, from a number that holds their bytes little-endian. -/
def Fmt.elemAt (f : Fmt) (packed i : Nat) : Nat := bitsOf packed (i * f.width) f.width

/-- Pack elements, the first lowest. -/
def Fmt.packElems (f : Fmt) : List Nat → Nat
  | [] => 0
  | v :: t => v % 2 ^ f.width + 2 ^ f.width * f.packElems t

/-- Code of a format in a command field (09 Table 9.2 and its like). -/
def Fmt.ofCode : Nat → Option Fmt
  | 0 => some .fp32
  | 1 => some .fp16
  | 2 => some .bf16
  | 3 => some .e4m3
  | 4 => some .e5m2
  | 5 => some .e2m3
  | 6 => some .e2m1
  | 7 => some .int8
  | 8 => some .int4
  | 9 => some .sc4
  | _ => none

end Sys2Proof.Machine
end

