-- ==== Sys2Proof/Machine/Operands.lean ====
section
/-! DEFINITION. The operand forms of engine commands: fields of command words, rows of packed elements, block-scaled
rows, and the writes of results (08_numerics R279, R283; 09_summit R320). -/

namespace Sys2Proof.Machine

/-- A field of a command word. -/
def fld (w : List Word) (i lo n : Nat) : Nat := bitsOf (wordAt w i) lo n

/-- A 64-bit operand in words i and i + 1. -/
def addr64 (w : List Word) (i : Nat) : Nat := wordAt w i + 2 ^ 32 * wordAt w (i + 1)

/-- ROUND of the header as a rounding for the element with stochastic bits `u`. -/
def roundOf (w : List Word) (u : Nat) : Rnd :=
  match fld w 0 16 2 with
  | 0 => .near
  | 1 => .stoch u
  | _ => .zero

/-- FLUSH of the header (DEDUCED, log 48). -/
def flushOf (w : List Word) : Bool := bitAt (wordAt w 0) 18

/-- Read elements `off` to `off + n - 1` of the packed row at an address (08 R279). -/
def readElems (a : Acc) (f : Fmt) (addr off n : Nat) : Act (List Nat) := do
  let b0 := off * f.width / 8
  let b1 := ((off + n) * f.width + 7) / 8
  let bs ← readMem a (addr + b0) (b1 - b0)
  let v := leNat bs / 2 ^ (off * f.width - 8 * b0)
  pure ((List.range n).map fun i => f.elemAt v i)

/-- Read unscaled values, with FLUSH applied to subnormal operands (08 R292). -/
def readVals (a : Acc) (f : Fmt) (flush : Bool) (addr off n : Nat) : Act (List Num) := do
  let es ← readElems a f addr off n
  pure (es.map (f.operand flush))

/-- Bytes of scales that one row of `n` elements has (09 R320). -/
def scaleRow (n : Nat) : Nat := (n + 31) / 32

/-- Read values of a row of a matrix: unscaled, or block-scaled with the row's scales (08 R283, R284). -/
def readRow (a : Acc) (f : Fmt) (flush : Bool) (addr scales off n : Nat) : Act (List Num) :=
  if f.block then do
    let es ← readElems a f addr off n
    let sc ← readMem a (scales + off / 32) ((off + n + 31) / 32 - off / 32)
    pure (es.zipIdx.map fun (v, i) => blockValue f (sc.getD ((off + i) / 32 - off / 32) 0).toNat v)
  else readVals a f flush addr off n

/-- Cut a list into pieces of `n`; the fuel bounds the pieces. -/
def cutFuel {α : Type} (n : Nat) : Nat → List α → List (List α)
  | 0, _ => []
  | fuel + 1, l => if l.isEmpty then [] else l.take n :: cutFuel n fuel (l.drop n)

def cutBy {α : Type} (n : Nat) (l : List α) : List (List α) := cutFuel n (l.length + 1) l

/-- Round values to unscaled elements, element i with its own rounding. -/
def roundVals (f : Fmt) (rd : Nat → Rnd) (flush : Bool) (vs : List Num) : Fl (List Nat) :=
  vs.zipIdx.mapM fun (v, i) => f.round (rd i) flush v

/-- Bytes of packed elements; a row's last partial block is filled with the padding element (08 R283). -/
def Fmt.bytes (f : Fmt) (es : List Nat) : List Byte :=
  let es := if f.block then es ++ List.replicate ((32 - es.length % 32) % 32) f.pad else es
  leBytes (f.packElems es) (f.bytesFor es.length)

/-- Bytes the spec gives no contents to (09 R325). -/
def freeBytes (n : Nat) : Act (List Byte) := do
  let s ← theDev
  act fun s => { s with free := s.free + n }
  pure ((List.range n).map fun i => Config.freeByte (s.free + i))

/-- Write bytes, or bytes without defined contents. -/
def writeOr (a : Acc) (wild : Bool) (addr : Nat) (bs : List Byte) : Act Unit := do
  let bs ← if wild then freeBytes bs.length else pure bs
  writeMem a addr bs

/-- Write results to elements `off` onward of a row that is `room` bytes long: unscaled, or as blocks with their scales;
padding beyond the row's own bytes is not written.  `wild` writes bytes without defined contents instead. -/
def writeRow (a : Acc) (f : Fmt) (rd : Nat → Rnd) (flush wild : Bool) (addr scales off room : Nat) (vs : List Num) :
    Act Unit := do
  let b0 := off * f.width / 8
  if f.block then
    let bl ← arith ((cutBy 32 vs).zipIdx.mapM fun (b, j) => writeBlock f (fun i => rd (32 * j + i)) b)
    writeOr a wild (addr + b0) ((f.bytes (bl.flatMap (·.2))).take (room - b0))
    writeOr a wild (scales + off / 32) (bl.map fun b => BitVec.ofNat 8 b.1)
  else
    let es ← arith (roundVals f rd flush vs)
    writeOr a wild (addr + b0) (f.bytes es)

/-- Do two byte ranges meet? -/
def meets (a n b m : Nat) : Bool := decide (a < b + m) && decide (b < a + n) && n != 0 && m != 0

/-- Bytes from the first row to the end of the last of a matrix. -/
def extent (rows ld rowBytes : Nat) : Nat := if rows = 0 then 0 else (rows - 1) * ld + rowBytes

/-- An address that is not 64 B aligned, or a stride that is not a multiple of 64 or shorter than its row (09 R320). -/
def misaligned (addrs : List Nat) (strides : List (Nat × Nat)) : Bool :=
  addrs.any (fun a => a % 64 != 0) || strides.any fun s => s.1 % 64 != 0 || decide (s.1 < s.2)

/-- Rows of bytes at a stride: where the first lies, the stride, how many rows, and the bytes of each. -/
structure Area where
  base : Nat
  ld : Nat
  rows : Nat
  len : Nat

/-- Bytes one after another. -/
def Area.flat (base len : Nat) : Area := ⟨base, len, 1, len⟩

/-- Do two areas share a byte?  A row of `x` meets `y` in the first row of `y` that ends behind its beginning, or in none. -/
def Area.meets (x y : Area) : Bool :=
  Machine.meets x.base (extent x.rows x.ld x.len) y.base (extent y.rows y.ld y.len) && (List.range x.rows).any fun i =>
    let lo := x.base + i * x.ld
    let j := ceilDiv (lo + 1 - (y.base + y.len)) (max 1 y.ld)
    decide (j < y.rows) && Machine.meets lo x.len (y.base + j * y.ld) y.len

/-- Do areas of two lists share a byte? -/
def areasMeet (xs ys : List Area) : Bool := xs.any fun x => ys.any x.meets

/-- A format field: reserved codes end the command with BAD_FIELD (09 R314, 07 R237). -/
def fmtField (w : List Word) (i lo : Nat) : Act Fmt :=
  match Fmt.ofCode (fld w i lo 4) with
  | some f => pure f
  | none => stopWith stFAULT dBADFIELD

/-- End with a status and a detail when a check fails. -/
def failIf (b : Bool) (st d : Nat) : Act Unit := if b then stopWith st d else pure ()

/-- Transpose rows of equal length `n`. -/
def columns {α : Type} [Inhabited α] (n : Nat) (rows : List (List α)) : List (List α) :=
  (List.range n).map fun j => rows.map fun r => r.getD j default

end Sys2Proof.Machine
end

