-- ==== Sys2Proof/Machine/Summit.lean ====
section
/-! DEFINITION. The Summit tensor engines: MATMUL, CONVERT, ROWOP and OPT_STEP, in tiles, rows and blocks of elements
(09_summit R313 to R340). -/

namespace Sys2Proof.Machine

/-- DETAIL values of Table 9.9. -/
abbrev dSMFORMAT : Nat := 0x40
abbrev dSMLAYOUT : Nat := 0x41
abbrev dSMALIGN : Nat := 0x42
abbrev dSMSHAPE : Nat := 0x43

/-- Is the format one of the 8-bit or E2M3 floating elements? -/
def Fmt.small (f : Fmt) : Bool := f == .e4m3 || f == .e5m2 || f == .e2m3

/-- The operand pairs of Table 9.2: four times the rate factor, and the group size. -/
def pairRate (a b : Fmt) : Option (Nat × Nat) :=
  if a = .fp32 ∧ b = .fp32 then some (1, 8)
  else if a = b ∧ (a = .fp16 ∨ a = .bf16) then some (4, 8)
  else if a.small ∧ b.small then some (8, 32)
  else if (a = .e2m1 ∧ b.small) ∨ (b = .e2m1 ∧ a.small) then some (8, 32)
  else if a = .e2m1 ∧ b = .e2m1 then some (16, 32)
  else if a = .int4 ∧ b = .int4 then some (16, 32)
  else if (a = .int8 ∧ (b = .int8 ∨ b = .int4)) ∨ (b = .int8 ∧ a = .int4) then some (8, 32)
  else none

/-! ### The exponential procedure (09 R328) -/

def f32 (v : Nat) : Num := Fmt.fp32.decode v

/-- c_6 to c_0: the FP32 values nearest (ln 2)^k / k!. -/
def expCoeffs : List Nat := [0x39218489, 0x3AAEC3FF, 0x3C1D955B, 0x3D635847, 0x3E75FDF0, 0x3F317218, 0x3F800000]

/-- The nearest integer of a finite value, ties to even. -/
def nearestInt : Num → Int
  | .fin s m e => let n := (roundMag .near m e 0).1; if s then -(n : Int) else n
  | _ => 0

def expProc (z : Num) : Fl Num := do
  let t ← mul32 z (f32 0x3FB8AA3B)
  if t.isNan then pure .nan
  else if t.lt (Num.ofInt (-151)) then
    if !z.isInf then raise (fUNDERFLOW ||| fINEXACT)
    pure Num.zero
  else if (Num.ofInt 128).le t then
    if !z.isInf then raise (fOVERFLOW ||| fINEXACT)
    pure (.inf false)
  else
    let n := nearestInt t
    let r ← sub32 t (Num.ofInt n)
    let p ← expCoeffs.foldlM (fun p c => fma32 p r (f32 c)) (f32 0x377FE5FE)
    to32 (p.scale n)

/-- The FP32 encoding of a value that FP32 holds. -/
def bits32 (x : Num) : Nat := (Fmt.fp32.round .near false x |>.run 0).1

/-! ### MATMUL (09 R316 to R325) -/

/-- The fields of MATMUL that its chunks use (09 Table 9.4). -/
structure MM where
  w : List Word
  fa : Fmt
  fb : Fmt
  fd : Fmt
  fc : Fmt
  m : Nat
  n : Nat
  k : Nat
  rate4 : Nat
  group : Nat

def MM.transA (p : MM) : Bool := bitAt (wordAt p.w 25) 16
def MM.transB (p : MM) : Bool := bitAt (wordAt p.w 25) 17
def MM.acc (p : MM) : Bool := bitAt (wordAt p.w 25) 18
def MM.bias (p : MM) : Bool := bitAt (wordAt p.w 25) 19
def MM.act (p : MM) : Nat := fld p.w 25 20 2
def MM.paged (p : MM) : Bool := bitAt (wordAt p.w 25) 22
def MM.pageLog (p : MM) : Nat := fld p.w 25 23 4
def MM.groups (p : MM) : Nat := ceilDiv p.k p.group
/-- Groups in a slab of 512 r positions (09 R316). -/
def MM.slab (p : MM) : Nat := 128 * p.rate4 / p.group
def MM.tileCols (p : MM) : Nat := ceilDiv p.n 256
def MM.tiles (p : MM) : Nat := ceilDiv p.m 256 * p.tileCols
/-- Chunks of a tile: at most 8 slabs each. -/
def MM.chunks (p : MM) : Nat := ceilDiv p.groups (8 * p.slab)

/-- Read the fields: shapes, then formats (09 R315, R321). -/
def MM.parse (w : List Word) : Act MM := do
  let fa ← fmtField w 25 0
  let fb ← fmtField w 25 4
  let fd ← fmtField w 25 8
  let fc ← fmtField w 25 12
  failIf (fld w 18 0 24 == 0 || fld w 19 0 24 == 0 || fld w 20 0 24 == 0) stFAULT dSMSHAPE
  match pairRate fa fb with
  | none => stopWith stFAULT dSMFORMAT
  | some (r, g) => pure ⟨w, fa, fb, fd, fc, fld w 18 0 24, fld w 19 0 24, fld w 20 0 24, r, g⟩

/-- Rows of B, and the bytes of one. -/
def MM.bRows (p : MM) : Nat := if p.transB then p.n else p.k
def MM.bLen (p : MM) : Nat := p.fb.bytesFor (if p.transB then p.k else p.n)
/-- Pages of a paged B, and the rows of page `x`. -/
def MM.pageCount (p : MM) : Nat := ceilDiv p.bRows (2 ^ p.pageLog)
def MM.pageRows (p : MM) (x : Nat) : Nat := min (2 ^ p.pageLog) (p.bRows - x * 2 ^ p.pageLog)

/-- Bytes of a row that a write of `n` elements fills, its last partial block included (08 R283). -/
def Fmt.filled (f : Fmt) (n ld : Nat) : Nat := if f.block then min ld (f.bytesFor (32 * ceilDiv n 32)) else f.bytesFor n

/-- Does D, or its scales, overlap an operand other than the C that is D itself, given where the pages of B lie (09 R325)?
(DESIGN CHOICE, log 50) -/
def MM.wild (p : MM) (pages : List (Nat × Nat)) : Bool :=
  let a := fun i => addr64 p.w i
  let ld := fun i => wordAt p.w i
  let same := p.acc && a 14 == a 6 && ld 23 == ld 24 && p.fc == p.fd
  let d : Area := ⟨a 6, ld 24, p.m, p.fd.filled p.n (ld 24)⟩
  let sd := if p.fd.block then [Area.flat (a 12) (p.m * scaleRow p.n)] else []
  let ins : List Area :=
    [if p.transA then ⟨a 2, ld 21, p.k, p.fa.bytesFor p.m⟩ else ⟨a 2, ld 21, p.m, p.fa.bytesFor p.k⟩] ++
    (if p.paged then Area.flat (a 4) (8 * p.pageCount) :: pages.map fun e => ⟨e.2, ld 22, p.pageRows e.1, p.bLen⟩
      else [⟨a 4, ld 22, p.bRows, p.bLen⟩]) ++
    (if p.fa.block then [Area.flat (a 8) (p.m * scaleRow p.k)] else []) ++
    (if p.fb.block then [Area.flat (a 10) (p.n * scaleRow p.k)] else []) ++
    (if p.acc && !same then [⟨a 14, ld 23, p.m, p.fc.bytesFor p.n⟩] else []) ++
    (if p.bias then [Area.flat (a 16) (4 * p.n)] else [])
  areasMeet (d :: sd) ins || areasMeet [d] sd

/-- The checks before the first chunk (09 R315, R320 to R324, R331): tiles, and chunks of each. -/
def matmulPrep (k : Nat) (c : Cmd) : Act (Nat × Nat) := do
  let p ← MM.parse c.words
  let _ ← namedInsts k c.words
  failIf (p.fd == .sc4 || p.fc.block) stFAULT dSMFORMAT
  failIf ((p.fa.block && p.transA) || (p.fb.block && !p.transB) || (p.paged && p.fb.block)) stFAULT dSMLAYOUT
  let w := p.w
  let addrs := [addr64 w 2, addr64 w 4, addr64 w 6] ++ (if p.fa.block then [addr64 w 8] else []) ++
    (if p.fb.block then [addr64 w 10] else []) ++ (if p.fd.block then [addr64 w 12] else []) ++
    (if p.acc then [addr64 w 14] else []) ++ (if p.bias then [addr64 w 16] else [])
  let lds := [(wordAt w 21, p.fa.bytesFor (if p.transA then p.m else p.k)),
      (wordAt w 22, p.fb.bytesFor (if p.transB then p.k else p.n)), (wordAt w 24, p.fd.bytesFor p.n)] ++
    (if p.acc then [(wordAt w 23, p.fc.bytesFor p.n)] else [])
  failIf (misaligned addrs lds) stFAULT dSMALIGN
  pure (p.tiles, p.chunks)

/-- Pages of B that a tile needs, from column `j0` over `w` columns. -/
def MM.tilePages (p : MM) (j0 w : Nat) : List Nat :=
  if !p.paged then []
  else if p.transB then
    let lo := j0 / 2 ^ p.pageLog
    (List.range ((j0 + w - 1) / 2 ^ p.pageLog + 1 - lo)).map (lo + ·)
  else List.range p.pageCount

/-- The page table entries for a tile: the spur core reads an entry when the first tile that needs it starts, and a misaligned one ends
that tile (09 R324, R331). -/
def MM.readPages (p : MM) (k : Nat) (sa : Acc) (j0 w : Nat) : Act (List (Nat × Nat)) := do
  let s ← theDev
  let old := (s.cmdOf k).elim [] (·.pages)
  let new ← ((p.tilePages j0 w).filter fun x => !old.any (·.1 == x)).mapM fun x => do
    let e ← readNat sa (addr64 p.w 4 + 8 * x) 8
    failIf (e % 64 != 0) stFAULT dSMALIGN
    pure (x, e)
  Machine.act fun s => s.updCmd k fun c => { c with pages := c.pages ++ new }
  pure (old ++ new)

/-- Where the pages of B lie: those whose entries are read, and the others as the table stands. -/
def MM.allPages (p : MM) (s : Dev) (sa : Acc) (pages : List (Nat × Nat)) : List (Nat × Nat) :=
  if !p.paged then []
  else pages ++ (List.range p.pageCount).filterMap fun x =>
    if pages.any (·.1 == x) then none
    else match runAct (readNat sa (addr64 p.w 4 + 8 * x) 8) s with
      | (.ok e, _) => some (x, e)
      | _ => none

/-- The address of row `r` of B: direct, or in its page. -/
def MM.rowB (p : MM) (pages : List (Nat × Nat)) (r : Nat) : Nat :=
  if p.paged then ((pages.find? fun e => e.1 == r / 2 ^ p.pageLog).getD (0, 0)).2 + r % 2 ^ p.pageLog * wordAt p.w 22
  else addr64 p.w 4 + r * wordAt p.w 22

/-- Values of A for rows i0 to i0 + h - 1 over positions k0 to k0 + n - 1. -/
def MM.readA (p : MM) (a : Acc) (i0 h k0 n : Nat) : Act (List (List Num)) := do
  let fl := flushOf p.w
  if p.transA then
    let rows ← (List.range n).mapM fun x => readVals a p.fa fl (addr64 p.w 2 + (k0 + x) * wordAt p.w 21) i0 h
    pure ((List.range h).map fun j => rows.map fun r => r.getD j .zero)
  else
    (List.range h).mapM fun i =>
      readRow a p.fa fl (addr64 p.w 2 + (i0 + i) * wordAt p.w 21) (addr64 p.w 8 + (i0 + i) * scaleRow p.k) k0 n

/-- Values of B for columns j0 to j0 + w - 1 over positions k0 to k0 + n - 1. -/
def MM.readB (p : MM) (a : Acc) (pages : List (Nat × Nat)) (j0 w k0 n : Nat) : Act (List (List Num)) := do
  let fl := flushOf p.w
  if p.transB then
    (List.range w).mapM fun j => readRow a p.fb fl (p.rowB pages (j0 + j)) (addr64 p.w 10 + (j0 + j) * scaleRow p.k) k0 n
  else
    let rows ← (List.range n).mapM fun x => readVals a p.fb fl (p.rowB pages (k0 + x)) j0 w
    pure ((List.range w).map fun j => rows.map fun r => r.getD j .zero)

/-- The sum of the finite products of a group. -/
def finSum (ps : List Num) : Num :=
  ps.foldl (fun acc x => match acc, x with
    | .fin n m e, .fin n' m' e' =>
      let t := min e e'
      let v := sigAt n m e t + sigAt n' m' e' t
      .fin (decide (v < 0)) v.natAbs t
    | acc, _ => acc) Num.zero

/-- One group, whatever the order of its products: NaN and invalid where it holds both infinities or a product of 0 and an infinity, NaN
where it holds a NaN, else an infinity it holds or the exact sum, which is +0 when it is zero (08 R298). -/
def groupSum (xs ys : List Num) : Fl Num := do
  let ps ← (xs.zip ys).mapM fun xy => mulX xy.1 xy.2
  if ps.contains (.inf true) && ps.contains (.inf false) then
    raise fINVALID
    pure .nan
  else if ps.any Num.isNan then pure .nan
  else pure ((ps.find? Num.isInf).getD (finSum ps))

/-- Add one group to an accumulator with one rounding. -/
def addGroup (acc : Num) (xs ys : List Num) : Fl Num := do
  let g ← groupSum xs ys
  add32 acc g

/-- Add the group at positions k0 to k0 + n - 1 to every accumulator of a tile. -/
def MM.stepGroup (p : MM) (a : Acc) (pages : List (Nat × Nat)) (i0 h j0 w g : Nat) (accs : List Num) : Act (List Num) := do
  let k0 := g * p.group
  let n := min p.group (p.k - k0)
  let ra ← p.readA a i0 h k0 n
  let rb ← p.readB a pages j0 w k0 n
  arith (accs.zipIdx.mapM fun (x, t) => addGroup x (ra.getD (t / w) []) (rb.getD (t % w) []))

/-- The epilogue of one element (09 R323). -/
def MM.epilogue (p : MM) (acc c b : Num) : Fl Num := do
  let t ← fma32 (Fmt.fp32.operand (flushOf p.w) (wordAt p.w 26)) acc c
  let t ← if p.bias then add32 t b else pure t
  if p.act = 1 then pure (t.max Num.zero)
  else if p.act = 2 then do
    let e ← expProc t.neg
    let d ← add32 Num.one e
    div32 t d
  else pure t

/-- The epilogue of a tile, and its write: C is read before D is written (09 R323, R325). -/
def MM.finishTile (p : MM) (a : Acc) (wild : Bool) (i0 h j0 w : Nat) (accs : List Num) : Act Unit := do
  let fl := flushOf p.w
  let bs ← if p.bias then readVals a .fp32 fl (addr64 p.w 16) j0 w else pure []
  let cs ← (List.range h).mapM fun i =>
    if p.acc then readVals a p.fc fl (addr64 p.w 14 + (i0 + i) * wordAt p.w 23) j0 w else pure []
  let out ← arith (accs.zipIdx.mapM fun (x, t) =>
    p.epilogue x ((cs.getD (t / w) []).getD (t % w) Num.zero) (bs.getD (t % w) Num.zero))
  (List.range h).forM fun i =>
    writeRow a p.fd (fun _ => roundOf p.w 0) fl wild (addr64 p.w 6 + (i0 + i) * wordAt p.w 24)
      (addr64 p.w 12 + (i0 + i) * scaleRow p.n) j0 (wordAt p.w 24) ((out.drop (i * w)).take w)

/-- One chunk: a tile over at most 8 slabs, from where its carry stands, or from its first slab where the carry is gone; a cut-off after
some groups, and the end of a chunk that is not the tile's last, save the accumulators (09 R316, R318, R319). -/
def matmulChunk (k : Nat) (c : Cmd) (i : Inst) (ch : Nat) (limit : Option Nat) : Act Bool := do
  let p ← MM.parse c.words
  let s ← theDev
  let a := s.chunkAcc k ch i
  let t := ch / p.chunks
  let i0 := 256 * (t / p.tileCols)
  let j0 := 256 * (t % p.tileCols)
  let h := min 256 (p.m - i0)
  let w := min 256 (p.n - j0)
  let pages ← p.readPages k (s.spurAcc k) j0 w
  let eng := Tab.get Engine.reset s.engines i.key
  let (g0, acc0) := match Tab.get none eng.carry k with
    | some x => if x.unit = t then (x.pos, x.vals.map f32) else (0, List.replicate (h * w) Num.zero)
    | none => (0, List.replicate (h * w) Num.zero)
  -- where this chunk of the tile ends, and how far it comes
  let goal := min p.groups ((ch % p.chunks + 1) * (8 * p.slab))
  let stop := min goal ((g0 / p.slab + 8) * p.slab)
  let stop := match limit with
    | some n => min stop (g0 + n)
    | none => stop
  let accs ← (List.range (stop - g0)).foldlM (fun acc x => p.stepGroup a pages i0 h j0 w (g0 + x) acc) acc0
  let bits := accs.map bits32
  let save := fun (v : Option Carry) => act fun s => { s with
    engines := Tab.upd Engine.reset s.engines i.key fun e => { e with carry := Tab.set none e.carry k v, accs := bits } }
  if p.groups ≤ stop then
    p.finishTile a (p.wild (p.allPages s (s.spurAcc k) pages)) i0 h j0 w accs
    save none
    pure true
  else
    save (some ⟨t, stop, bits⟩)
    pure (decide (goal ≤ stop))

def matmulOp : EngineOp := ⟨matmulPrep, matmulChunk⟩

/-! ### CONVERT (09 R326) -/

def convertPrep (k : Nat) (c : Cmd) : Act (Nat × Nat) := do
  let w := c.words
  let fs ← fmtField w 14 0
  let fd ← fmtField w 14 4
  let _ ← namedInsts k w
  let m := fld w 10 0 24
  let n := fld w 11 0 24
  failIf (m == 0 || n == 0) stFAULT dSMSHAPE
  failIf (misaligned ([addr64 w 2, addr64 w 4] ++ (if fs.block then [addr64 w 6] else []) ++
      (if fd.block then [addr64 w 8] else [])) [(wordAt w 12, fs.bytesFor n), (wordAt w 13, fd.bytesFor n)])
    stFAULT dSMALIGN
  pure (m, 1)

/-- How far a chunk of `n` elements comes from where it stands, given the elements between two of its boundaries. -/
def Cmd.reachOf (c : Cmd) (ch n unit : Nat) (limit : Option Nat) : Nat :=
  match limit with
  | some l => min n (Tab.get 0 c.done ch + l * unit)
  | none => n

/-- A chunk of a queue's command has come so far. -/
def markDone (k ch n : Nat) : Act Unit := act fun s => s.updCmd k fun c => { c with done := Tab.set 0 c.done ch n }

/-- One chunk: one row, or as many of its elements (of its blocks, in a block format) as a cut-off lets it reach (09 R326, R337).  A
conversion to the same format with equal strides copies exactly, scales included. -/
def convertChunk (k : Nat) (c : Cmd) (i : Inst) (ch : Nat) (limit : Option Nat) : Act Bool := do
  let w := c.words
  let fs ← fmtField w 14 0
  let fd ← fmtField w 14 4
  let s ← theDev
  let a := s.chunkAcc k ch i
  let n := fld w 11 0 24
  let src := addr64 w 2 + ch * wordAt w 12
  let dst := addr64 w 4 + ch * wordAt w 13
  let ss := addr64 w 6 + ch * scaleRow n
  let sd := addr64 w 8 + ch * scaleRow n
  let lo := Tab.get 0 c.done ch
  let hi := c.reachOf ch n (if fd.block then 32 else 1) limit
  if fs = fd ∧ wordAt w 12 = wordAt w 13 then
    let es ← readElems a fs src lo (hi - lo)
    let b0 := lo * fs.width / 8
    writeMem a (dst + b0) ((fs.bytes es).take (wordAt w 13 - b0))
    if fs.block then
      let sc ← readMem a (ss + lo / 32) (scaleRow (hi - lo))
      writeMem a (sd + lo / 32) sc
  else
    let vs ← readRow a fs (flushOf w) src ss lo (hi - lo)
    -- a block value is decoded to FP32 on its way (08 R284)
    let vs ← if fs.block then arith (vs.mapM to32) else pure vs
    writeRow a fd (fun _ => roundOf w 0) (flushOf w) false dst sd lo (wordAt w 13) vs
  markDone k ch hi
  pure (decide (n ≤ hi))

/-- DEDUCED, log 45. -/
def convertOp : EngineOp := ⟨convertPrep, convertChunk⟩

/-! ### ROWOP (09 R327) -/

def rowopPrep (k : Nat) (c : Cmd) : Act (Nat × Nat) := do
  let w := c.words
  let fx ← fmtField w 14 0
  let fy ← fmtField w 14 4
  let _ ← namedInsts k w
  let m := fld w 10 0 24
  let n := fld w 11 0 17
  failIf (m == 0 || n == 0 || decide (65536 < n)) stFAULT dSMSHAPE
  failIf (fx.block || fy.block) stFAULT dSMFORMAT
  failIf (misaligned ([addr64 w 2, addr64 w 4] ++ (if fld w 14 8 2 = 1 then [addr64 w 6] else []) ++
      (if bitAt (wordAt w 14) 10 then [addr64 w 8] else [])) [(wordAt w 12, fx.bytesFor n), (wordAt w 13, fy.bytesFor n)])
    stFAULT dSMALIGN
  pure (m, 1)

/-- SOFTMAX of the valid values of a row. -/
def softmax (param : Num) (xs : List Num) : Fl (List Num) := do
  let xp ← xs.mapM fun x => mul32 param x
  let mx := xp.tail.foldl Num.max (xp.headD Num.zero)
  let es ← xp.mapM fun x => do let d ← sub32 x mx; expProc d
  let sum ← es.foldlM add32 Num.zero
  let q ← div32 Num.one sum
  es.mapM fun e => mul32 e q

/-- RMSNORM of the valid values of a row. -/
def rmsnorm (eps : Num) (gain xs : List Num) : Fl (List Num) := do
  let a ← xs.foldlM (fun a x => fma32 x x a) Num.zero
  let rn ← div32 Num.one (Num.ofInt xs.length)
  let v ← fma32 a rn eps
  let g ← rsqrt32 v
  (xs.zip gain).mapM fun xg => do let y ← mul32 xg.1 g; mul32 y xg.2

/-- One chunk: one row. -/
def rowopChunk (k : Nat) (c : Cmd) (i : Inst) (ch : Nat) (_limit : Option Nat) : Act Bool := do
  let w := c.words
  let fx ← fmtField w 14 0
  let fy ← fmtField w 14 4
  let s ← theDev
  let a := s.chunkAcc k ch i
  let fl := flushOf w
  let cols := fld w 11 0 17
  let n ← if bitAt (wordAt w 14) 10 then do
      let v ← readNat a (addr64 w 8 + 4 * ch) 4
      pure (min v cols)
    else pure cols
  let xs ← readVals a fx fl (addr64 w 2 + ch * wordAt w 12) 0 n
  let param := Fmt.fp32.operand fl (wordAt w 15)
  let ys ← if n = 0 then pure []
    else if fld w 14 8 2 = 0 then arith (softmax param xs)
    else do
      let g ← readVals a .fp32 fl (addr64 w 6) 0 n
      arith (rmsnorm param g xs)
  let same := addr64 w 2 == addr64 w 4 && wordAt w 12 == wordAt w 13 && fx == fy
  let m := fld w 10 0 24
  -- output that shares bytes with an input other than X in place has no defined contents (DESIGN CHOICE, log 50)
  let wild := areasMeet [⟨addr64 w 4, wordAt w 13, m, fy.bytesFor cols⟩]
    ((if same then [] else [⟨addr64 w 2, wordAt w 12, m, fx.bytesFor cols⟩]) ++
      (if fld w 14 8 2 = 1 then [Area.flat (addr64 w 6) (4 * cols)] else []) ++
      (if bitAt (wordAt w 14) 10 then [Area.flat (addr64 w 8) (4 * m)] else []))
  writeRow a fy (fun _ => roundOf w 0) fl wild (addr64 w 4 + ch * wordAt w 13) 0 0 (wordAt w 13)
    (ys ++ List.replicate (cols - n) Num.zero)
  pure true

def rowopOp : EngineOp := ⟨rowopPrep, rowopChunk⟩

/-! ### OPT_STEP (09 R329) -/

abbrev optChunk : Nat := 65536

def optPrep (k : Nat) (c : Cmd) : Act (Nat × Nat) := do
  let w := c.words
  let fg ← fmtField w 13 4
  let fw ← fmtField w 13 8
  let _ ← namedInsts k w
  let wc := bitAt (wordAt w 13) 1
  failIf (wordAt w 12 == 0) stFAULT dSMSHAPE
  failIf (fg.block || (fw != .fp16 && fw != .bf16)) stFAULT dSMFORMAT
  failIf (misaligned ([addr64 w 2, addr64 w 4, addr64 w 8] ++ (if bitAt (wordAt w 13) 0 then [] else [addr64 w 6]) ++
      (if wc then [addr64 w 10] else [])) []) stFAULT dSMALIGN
  pure (ceilDiv (wordAt w 12) optChunk, 1)

/-- The new first moment, second moment and weight of an element, each exact as its write rounds it; the steps that use a moment use it
rounded to nearest (09 R329, 08 R289, R292) (DEDUCED, log 49). -/
def optStep (w : List Word) (wv ma mb gv : Num) : Fl (Num × Num × Num) := do
  let fl := flushOf w
  let const := fun i => Fmt.fp32.operand fl (wordAt w (14 + i))
  let g ← mul32 gv (const 0)
  if bitAt (wordAt w 13) 0 then
    let mx ← fmaX (const 1) ma g
    let m ← to32 mx
    let u ← mul32 m (const 7)
    let d ← fma32 (const 8) wv u
    let x ← addX wv d.neg
    pure (mx, Num.zero, x)
  else
    let og ← mul32 (const 2) g
    let mx ← fmaX (const 1) ma og
    let m ← to32 mx
    let gg ← mul32 g g
    let ogg ← mul32 (const 4) gg
    let vx ← fmaX (const 3) mb ogg
    let v ← to32 vx
    let ms ← mul32 m (const 7)
    let r ← sqrt32 v
    let den ← fma32 r (const 5) (const 6)
    let u ← div32 ms den
    let d ← fma32 (const 8) wv u
    let x ← addX wv d.neg
    pure (mx, vx, x)

/-- One element: its four writes draw independent bits; the working copy is the new weight before FLUSH acts on its write (09 R329). -/
def optElem (a : Acc) (w : List Word) (fg fw : Fmt) (i : Nat) : Act Unit := do
  let fl := flushOf w
  let adam := !bitAt (wordAt w 13) 0
  let one := fun (f : Fmt) (base : Nat) => do
    let l ← readVals a f fl base i 1
    pure (l.headD Num.zero)
  let wv ← one .fp32 (addr64 w 2)
  let ma ← one .fp32 (addr64 w 4)
  let mb ← if adam then one .fp32 (addr64 w 6) else pure Num.zero
  let gv ← one fg (addr64 w 8)
  let rd := fun d => roundOf w (srBits (wordAt w 23) (d * 2 ^ 40 + i))
  let (m, v, x) ← arith (optStep w wv ma mb gv)
  let put := fun (d base : Nat) (y : Num) => do
    let b ← arith (Fmt.fp32.round (rd d) fl y)
    writeMem a (base + 4 * i) (leBytes b 4)
  put 0 (addr64 w 2) x
  put 1 (addr64 w 4) m
  if adam then put 2 (addr64 w 6) v
  if bitAt (wordAt w 13) 1 then
    let nw := f32 ((Fmt.fp32.round (rd 0) false x).run 0).1
    let cb ← arith (fw.round (rd 3) fl nw)
    writeMem a (addr64 w 10 + fw.width / 8 * i) (leBytes cb (fw.width / 8))

/-- One chunk: 65,536 elements, or as many as a cut-off lets it reach (09 R329, R337). -/
def optChunkRun (k : Nat) (c : Cmd) (i : Inst) (ch : Nat) (limit : Option Nat) : Act Bool := do
  let w := c.words
  let fg ← fmtField w 13 4
  let fw ← fmtField w 13 8
  let s ← theDev
  let a := s.chunkAcc k ch i
  let lo := Tab.get 0 c.done ch
  let n := min optChunk (wordAt w 12 - ch * optChunk)
  let hi := c.reachOf ch n 1 limit
  (List.range (hi - lo)).forM fun x => optElem a w fg fw (ch * optChunk + lo + x)
  markDone k ch hi
  pure (decide (n ≤ hi))

def optOp : EngineOp := ⟨optPrep, optChunkRun⟩

end Sys2Proof.Machine
end

