-- ==== Sys2Proof/Machine/Cairn.lean ====
section
/-! DEFINITION. The Cairn embedding engine: table descriptors, gathers, scatters and sparse updates with their
combiner (11_cairn R385 to R414). -/

namespace Sys2Proof.Machine

/-- DETAIL values of Table 11.8. -/
abbrev dCNFORMAT : Nat := 0x60
abbrev dCNSHAPE : Nat := 0x61
abbrev dCNALIGN : Nat := 0x62
abbrev dTABLEUNSET : Nat := 0x63
abbrev dTABLEFORMAT : Nat := 0x64
abbrev dCOMBINERFULL : Nat := 0x65
abbrev dWSPLACE : Nat := 0x66
abbrev dBADCOMBO : Nat := 0x67

/-! ### Pair-generation blocks (07 R265) -/

/-- Read a pair-generation block of `n` words: the pair as read when its generations match, else the last one that
did (DEDUCED, log 58). -/
def samplePair (off n : Nat) (gen : List Word → Nat × Nat) : Act (List Word) := do
  let s ← theDev
  let w := (List.range n).map fun i => s.reg (off + 4 * i)
  if (gen w).1 = (gen w).2 then
    act fun s => { s with pairs := Tab.set [] s.pairs off w }
    pure w
  else pure (Tab.get [] s.pairs off)

/-- A table as its descriptor describes it (11 Table 11.1). -/
structure CTable where
  rows : Nat
  units : Nat
  fmt : Nat
  base : Nat
deriving DecidableEq, Repr

/-- Generations of GEOM and PLACE. -/
def tableGen (w : List Word) : Nat × Nat := (bitsOf (wordAt w 1) 28 4, bitsOf (wordAt w 2) 0 4)

def CTable.ofWords (w : List Word) : CTable :=
  { rows := if wordAt w 0 = 0 then 2 ^ 32 else wordAt w 0
    units := bitsOf (wordAt w 1) 0 9
    fmt := bitsOf (wordAt w 1) 12 4
    base := wordAt w 2 / 64 * 64 + 2 ^ 32 * wordAt w 3 }

/-- Table `t` of partition `p`, sampled now; an unset one stops the command (11 R386, R391). -/
def sampleTable (p t : Nat) : Act CTable := do
  let w ← samplePair (0x802800 + 0x4000 * p + 0x20 * t) 4 tableGen
  let c := CTable.ofWords w
  failIf (c.units == 0) stSTATE dTABLEUNSET
  pure c

def CTable.rowBytes (t : CTable) : Nat := 16 * t.units
/-- MISSING, INVALID and VALID (11 Table 11.2). -/
def CTable.valid (t : CTable) (i : Nat) : Bool := i != 0xFFFFFFFF && decide (i < t.rows)
/-- Where ordinary row `i` lies (11 R387). -/
def CTable.rowAt (t : CTable) (i : Nat) : Nat := t.base + (i + 1) * t.rowBytes

/-! ### Progress and the statistics record (11 R403) -/

/-- The counts of Table 11.7, then the sweep, its stage (0 scan, 1 combine, 2 apply) and the position in the stage. -/
def Cmd.at (c : Cmd) (i : Nat) : Nat := c.carry.getD i 0

abbrev cINVALID : Nat := 0
abbrev cMISSING : Nat := 1
abbrev cUNIQUE : Nat := 2
abbrev cAPPLIED : Nat := 3
abbrev cMAXCOUNT : Nat := 4
abbrev cSWEEPS : Nat := 5
abbrev cSWEEP : Nat := 6
abbrev cSTAGE : Nat := 7
abbrev cPOS : Nat := 8

/-- The command in progress on a queue. -/
def theCmd (k : Nat) : Act Cmd := do
  let s ← theDev
  match s.cmdOf k with
  | some c => pure c
  | none => stopWith stOK 0

/-- Change the command in progress. -/
def updC (k : Nat) (f : Cmd → Cmd) : Act Unit := act fun s => s.updCmd k f

/-- Set a progress number. -/
def Cmd.put (c : Cmd) (i v : Nat) : Cmd :=
  { c with carry := (c.carry ++ List.replicate (9 - c.carry.length) 0).set i v }

/-- Count. -/
def Cmd.bump (c : Cmd) (i : Nat) : Cmd := c.put i (c.at i + 1)

/-- STAT of a Cairn command. -/
def cairnStat (w : List Word) : Nat := if fld w 0 0 8 = 0x62 then addr64 w 12 else addr64 w 6

/-- Write the statistics record (11 Table 11.7). -/
def cairnRecord (k : Nat) (c : Cmd) : Act Unit := do
  let s ← theDev
  let st := cairnStat c.words
  if st ≠ 0 then
    let a := s.chunkAcc k 0 ⟨2, fld c.words 1 0 3, 0⟩
    let vals := (List.range 5).map c.at ++ [c.at cSWEEPS % 256, 0, 0]
    writeMem a st (vals.flatMap fun v => leBytes v 4)

/-! ### Gathers and scatters (11 R389 to R391) -/

/-- The checks of a gather or a scatter. -/
def copyRowsPrep (k : Nat) (c : Cmd) : Act (Nat × Nat) := do
  let w := c.words
  let _ ← namedInsts k w
  failIf (fld w 8 0 24 == 0) stFAULT dCNSHAPE
  failIf (addr64 w 2 % 64 != 0 || addr64 w 4 % 64 != 0 || addr64 w 6 % 64 != 0 || wordAt w 9 % 16 != 0) stFAULT dCNALIGN
  let t ← sampleTable (k / 32) (fld w 10 0 6)
  failIf (decide (wordAt w 9 < t.rowBytes)) stFAULT dCNALIGN
  pure (1, 1)

/-- Copy bytes within the partition's memory piece by piece; poison travels (15 R544). -/
def copyRow (a : Acc) (src dst n : Nat) : Act Unit :=
  (pieces src n).forM fun x => copyPiece a false false x.1 (dst + (x.1 - src)) x.2

/-- The bytes that a table occupies (11 R387). -/
def CTable.area (t : CTable) : Area := .flat t.base ((t.rows + 1) * t.rowBytes)

/-- Copy one row, or leave bytes without defined contents. -/
def placeRow (a : Acc) (wild : Bool) (src dst n : Nat) : Act Unit :=
  if wild then writeOr a true dst (List.replicate n 0) else copyRow a src dst n

/-- One position of a gather or a scatter; `wild`: the output rows overlap the table (11 R412). -/
def copyPos (k : Nat) (a : Acc) (t : CTable) (w : List Word) (gather wild : Bool) (x : Nat) : Act Unit := do
  let i ← readNat a (addr64 w 2 + 4 * x) 4
  let out := addr64 w 4 + x * wordAt w 9
  let miss := decide (i = 0xFFFFFFFF)
  if !t.valid i then updC k (·.bump (if miss then cMISSING else cINVALID))
  if gather then
    placeRow a wild (if t.valid i then t.rowAt i else t.base) out t.rowBytes
    updC k (·.bump cAPPLIED)
  else if t.valid i then
    placeRow a wild out (t.rowAt i) t.rowBytes
    updC k (·.bump cAPPLIED)

/-- One chunk: the positions from where the command stands, up to a cut-off. -/
def copyRowsChunk (gather : Bool) (k : Nat) (c : Cmd) (i : Inst) (ch : Nat) (limit : Option Nat) : Act Bool := do
  let w := c.words
  let s ← theDev
  let a := s.chunkAcc k ch i
  let t ← sampleTable (k / 32) (fld w 10 0 6)
  let c ← theCmd k
  let from_ := c.at cPOS
  let left := fld w 8 0 24 - from_
  let n := match limit with
    | some l => min left l
    | none => left
  let wild := t.area.meets ⟨addr64 w 4, wordAt w 9, fld w 8 0 24, t.rowBytes⟩
  (List.range n).forM fun x => do
    copyPos k a t w gather wild (from_ + x)
    updC k (·.put cPOS (from_ + x + 1))
  pure (decide (n = left))

def gatherOp : EngineOp := ⟨copyRowsPrep, copyRowsChunk true⟩
def scatterOp : EngineOp := ⟨copyRowsPrep, copyRowsChunk false⟩

/-! ### Updates (11 R392 to R401) -/

def up64 (x : Nat) : Nat := (x + 63) / 64 * 64

/-- The fields of CN_UPDATE (11 Table 11.6). -/
structure CU where
  w : List Word
  fg : Fmt
  ft : Fmt
  t : CTable

def CU.count (u : CU) : Nat := fld u.w 14 0 24
def CU.opt (u : CU) : Nat := fld u.w 16 8 2
def CU.fast (u : CU) : Bool := bitAt (wordAt u.w 16) 10
def CU.mean (u : CU) : Bool := bitAt (wordAt u.w 16) 11
def CU.sweepLog (u : CU) : Nat := fld u.w 16 16 4
def CU.slots (u : CU) : Nat := fld u.w 17 0 17
def CU.ws (u : CU) : Nat := addr64 u.w 10
/-- Elements of a row (11 R387). -/
def CU.d (u : CU) : Nat := u.t.rowBytes * 8 / u.ft.width
/-- A constant of the command: GSCALE 0, BETA_A, OMB_A, BETA_B, OMB_B, RC_B, EPS, STEPSZ, LRWD 8. -/
def CU.const (u : CU) (i : Nat) : Num := Fmt.fp32.operand (flushOf u.w) (wordAt u.w (18 + i))
/-- Where the combined row of slot `x` lies (11 Table 11.3). -/
def CU.rowOf (u : CU) (x : Nat) : Nat := u.ws + up64 (8 * u.slots) + x * up64 (4 * u.d)
/-- Bytes behind the combined rows. -/
def CU.tail (u : CU) : Nat :=
  (if u.fast then 3 * u.slots * up64 (4 * u.d) else up64 (4 * u.count) + 96 * up64 (4 * u.d)) + 524288
def CU.wsBytes (u : CU) : Nat := u.rowOf u.slots - u.ws + u.tail

/-- Do the workspace, the gradients, the state and the table overlap one another (11 R412)?  What the command writes then has no defined
contents (DESIGN CHOICE, log 50). -/
def CU.wild (u : CU) : Bool :=
  let areas : List Area := [u.t.area, .flat u.ws u.wsBytes, ⟨addr64 u.w 4, wordAt u.w 15, u.count, u.d * u.fg.width / 8⟩] ++
    (if 2 ≤ u.opt then [.flat (addr64 u.w 6) (4 * u.d * u.t.rows)] else []) ++
    (if u.opt = 3 then [.flat (addr64 u.w 8) (4 * u.t.rows)] else [])
  areas.zipIdx.any fun x => areas.zipIdx.any fun y => decide (x.2 < y.2) && x.1.meets y.1

/-- The sweep of a VALID index (11 R392). -/
def CU.sweepOf (u : CU) (i : Nat) : Nat :=
  if u.sweepLog = 0 then 0 else i * 0x9E3779B1 % 2 ^ 32 / 2 ^ (32 - u.sweepLog)

/-- The formats of an update are FP32, FP16 and BF16. -/
def plainFmt (c : Nat) (d : Nat) (st : Nat) : Act Fmt :=
  match c with
  | 0 => pure .fp32
  | 1 => pure .fp16
  | 2 => pure .bf16
  | _ => stopWith st d

/-- The fields as a chunk reads them, with the table sampled. -/
def CU.parse (k : Nat) (w : List Word) : Act CU := do
  let fg ← plainFmt (fld w 16 12 4) dCNFORMAT stFAULT
  let t ← sampleTable (k / 32) (fld w 16 0 6)
  let ft ← plainFmt t.fmt dTABLEFORMAT stSTATE
  pure ⟨w, fg, ft, t⟩

/-- The checks before the first chunk (11 R398, R399, R402) (DEDUCED, log 56). -/
def updatePrep (k : Nat) (c : Cmd) : Act (Nat × Nat) := do
  let w := c.words
  let opt := fld w 16 8 2
  let _ ← namedInsts k w
  failIf (fld w 14 0 24 == 0 || fld w 17 0 17 == 0 || decide (65536 < fld w 17 0 17)) stFAULT dCNSHAPE
  let addrs := [addr64 w 2, addr64 w 4, addr64 w 10, addr64 w 12] ++ (if 2 ≤ opt then [addr64 w 6] else []) ++
    (if opt = 3 then [addr64 w 8] else [])
  failIf (addrs.any (fun a => a % 64 != 0) || wordAt w 15 % 16 != 0) stFAULT dCNALIGN
  failIf (opt == 0 && fld w 16 16 4 != 0) stFAULT dBADCOMBO
  let u ← CU.parse k w
  failIf (decide (wordAt w 15 < u.d * u.fg.width / 8)) stFAULT dCNALIGN
  let s ← theDev
  let die := fld w 1 0 3
  let g0 := u.ws % 2 ^ 32 / 2 ^ 26
  let g1 := (u.ws % 2 ^ 32 + u.wsBytes - 1) / 2 ^ 26
  let grans := (List.range (g1 + 1 - g0)).map fun g => (⟨5, die, g0 + g, 1⟩ : Res)
  failIf (u.ws / 2 ^ 32 != die || decide (3 * GiB < u.ws % 2 ^ 32 + u.wsBytes)) stFAULT dWSPLACE
  if grans.any fun r => s.claimed (k / 32) r then throw .wait
  failIf (!grans.all fun r => s.owns (s.chunkAcc k 0 ⟨2, die, 0⟩) r) stFAULT dWSPLACE
  pure (1, 1)

/-- Put a position into its slot, or open one; none when the combiner is full (11 R392, R393). -/
def slotIn (i x cap : Nat) (l : List (List Nat)) : Option (List (List Nat)) :=
  if l.any fun e => e.headD 0 == i then some (l.map fun e => if e.headD 0 = i then e ++ [x] else e)
  else if l.length < cap then some (l ++ [[i, x]]) else none

/-- Scan one position of the batch. -/
def CU.scan (u : CU) (k : Nat) (a : Acc) (sweep x : Nat) : Act Unit := do
  let i ← readNat a (addr64 u.w 2 + 4 * x) 4
  if u.t.valid i then
    if u.sweepOf i = sweep then
      let c ← theCmd k
      match slotIn i x (min 65536 u.slots) c.slots with
      | some l => updC k fun c => { c with slots := l }
      | none => stopWith stFAULT dCOMBINERFULL
  else if sweep = 0 then updC k (·.bump (if i = 0xFFFFFFFF then cMISSING else cINVALID))
  updC k (·.put cPOS (x + 1))

/-- Add two rows element by element. -/
def addRows (x y : List Num) : Fl (List Num) := (x.zip y).mapM fun v => add32 v.1 v.2

/-- One level of the deterministic tree. -/
def treeLevel : List (List Num) → Fl (List (List Num))
  | x :: y :: t => do
    let h ← addRows x y
    let r ← treeLevel t
    pure (h :: r)
  | l => pure l

/-- The deterministic tree (11 R394); the fuel is the number of levels. -/
def treeSum : Nat → List (List Num) → Fl (List Num)
  | 0, l => pure (l.headD [])
  | n + 1, l => if l.length ≤ 1 then pure (l.headD []) else do
      let l ← treeLevel l
      treeSum n l

/-- Add rows in order. -/
def rowSum : List (List Num) → Fl (List Num)
  | [] => pure []
  | x :: t => t.foldlM addRows x

/-- The fast order: occurrence k to lane k mod 4, then the lanes in order, empty ones skipped. -/
def fastSum (l : List (List Num)) : Fl (List Num) := do
  let lane := fun n => (l.zipIdx.filter fun x => x.2 % 4 == n).map (·.1)
  let ps ← ((List.range 4).filter fun n => !(lane n).isEmpty).mapM fun n => rowSum (lane n)
  rowSum ps

/-- An order that is not fixed: the list in the order of free choices (DESIGN CHOICE, log 57). -/
def anyOrder {α : Type} [Inhabited α] : Nat → List α → Act (List α)
  | 0, l => pure l
  | n + 1, l => do
    if l.isEmpty then pure []
    else
      let s ← theDev
      let r := s.drawBelow l.length
      set r.2
      let t ← anyOrder n (l.eraseIdx r.1)
      pure (l.getD r.1 default :: t)

/-- Combine slot `x`: its record and its row go to the workspace (11 R394, Table 11.3). -/
def CU.combine (u : CU) (k : Nat) (a : Acc) (x : Nat) (slot : List Nat) : Act Unit := do
  let ps := slot.tail
  let ps ← if u.fast then anyOrder ps.length ps else pure ps
  let rows ← ps.mapM fun p => readVals a u.fg (flushOf u.w) (addr64 u.w 4 + p * wordAt u.w 15) 0 u.d
  let sum ← arith (if u.fast then fastSum rows else treeSum rows.length rows)
  writeOr a u.wild (u.ws + 8 * x) (leBytes (slot.headD 0) 4 ++ leBytes ps.length 4)
  writeOr a u.wild (u.rowOf x) (sum.flatMap fun v => leBytes (bits32 v) 4)
  updC k (·.put cPOS (x + 1))

/-- The write of an operation's result: in FP32 it is the operation's own rounding point, in a narrower format a conversion of the FP32
result (08 R289, R297). -/
def writeOp (f : Fmt) (rd : Rnd) (flush : Bool) (x : Num) : Fl Nat := do
  let x ← if f = .fp32 then pure x else to32 x
  f.round rd flush x

/-- The optimiser on one row: the encodings of the new weights, of the new per-element state and of the new per-row state; the steps that
use a state use it rounded to nearest (11 R396) (DEDUCED, log 49). -/
def CU.optimise (u : CU) (r : Nat) (g wv ma : List Num) (mb : Num) : Fl (List Nat × List Nat × Nat) := do
  let fl := flushOf u.w
  let rd := fun i => roundOf u.w (srBits (wordAt u.w 27) i)
  let (v, den) ← if u.opt = 3 then do
      let s ← g.foldlM (fun s x => fma32 x x s) Num.zero
      let rdn ← div32 Num.one (Num.ofInt u.d)
      let q ← mul32 s rdn
      let q ← mul32 (u.const 4) q
      let vx ← fmaX (u.const 3) mb q
      let v ← to32 vx
      let sq ← sqrt32 v
      let den ← fma32 sq (u.const 5) (u.const 6)
      let vb ← writeOp .fp32 (rd (2 * 2 ^ 48 + r)) fl vx
      pure (vb, den)
    else pure (0, Num.one)
  let out ← (List.range u.d).mapM fun j => do
    let gj := g.getD j Num.zero
    let w := wv.getD j Num.zero
    let m0 := ma.getD j Num.zero
    let rm := rd (2 ^ 48 + r * u.d + j)
    let (m, x) ←
      if u.opt = 1 then do
        let x ← mul32 gj (u.const 7)
        pure (0, x)
      else if u.opt = 2 then do
        let mx ← fmaX gj gj m0
        let m ← to32 mx
        let n ← mul32 gj (u.const 7)
        let q ← sqrt32 m
        let q ← add32 q (u.const 6)
        let x ← div32 n q
        let m ← writeOp .fp32 rm fl mx
        pure (m, x)
      else do
        let og ← mul32 (u.const 2) gj
        let mx ← fmaX (u.const 1) m0 og
        let m ← to32 mx
        let n ← mul32 m (u.const 7)
        let x ← div32 n den
        let m ← writeOp .fp32 rm fl mx
        pure (m, x)
    let d ← fma32 (u.const 8) w x
    let nw ← addX w d.neg
    let bits ← writeOp u.ft (rd (r * u.d + j)) fl nw
    pure (bits, m)
  pure (out.map (·.1), out.map (·.2), v)

/-- Apply slot `x`: its row and state are written together; with OPT NONE the scaled row stays in the workspace
(11 R396, R401). -/
def CU.apply (u : CU) (k : Nat) (a : Acc) (x : Nat) (slot : List Nat) : Act Unit := do
  let fl := flushOf u.w
  let cs ← readVals a .fp32 false (u.rowOf x) 0 u.d
  let gx ← arith (cs.mapM fun c => do
    let c ← if u.mean then div32 c (Num.ofInt slot.tail.length) else pure c
    mulX c (u.const 0))
  let r := slot.headD 0
  if u.opt = 0 then
    let out ← arith (gx.mapM (writeOp .fp32 (roundOf u.w 0) fl))
    writeOr a u.wild (u.rowOf x) (out.flatMap fun v => leBytes v 4)
  else
    let g ← arith (gx.mapM to32)
    let row := u.t.rowAt r
    let ma := addr64 u.w 6 + 4 * u.d * r
    let mb := addr64 u.w 8 + 4 * r
    let wv ← readVals a u.ft fl row 0 u.d
    let mav ← if 2 ≤ u.opt then readVals a .fp32 fl ma 0 u.d else pure []
    let mbv ← if u.opt = 3 then readVals a .fp32 fl mb 0 1 else pure []
    let (nw, nm, nv) ← arith (u.optimise r g wv mav (mbv.headD Num.zero))
    writeOr a u.wild row (leBytes (u.ft.packElems nw) u.t.rowBytes)
    if 2 ≤ u.opt then writeOr a u.wild ma (nm.flatMap fun v => leBytes v 4)
    if u.opt = 3 then writeOr a u.wild mb (leBytes nv 4)
    updC k (·.bump cAPPLIED)
  updC k (·.put cPOS (x + 1))

/-- The rest of the workspace holds what the combiner left there, which the spec does not say (11 Table 11.3). -/
def CU.wildTail (u : CU) (a : Acc) : Act Unit := do
  let bs ← freeBytes u.tail
  writeMem a (u.rowOf u.slots) bs

/-- One boundary further: an index scanned, a slot combined, or a row applied; false when the command is done (DEDUCED, log 55). -/
def CU.step (u : CU) (k : Nat) (a : Acc) : Act Bool := do
  let c ← theCmd k
  let x := c.at cPOS
  let next := fun (i v : Nat) => updC k fun c => (c.put i v).put cPOS 0
  match c.at cSTAGE with
  | 0 =>
    if x < u.count then u.scan k a (c.at cSWEEP) x else next cSTAGE 1
    pure true
  | 1 =>
    if x < c.slots.length then u.combine k a x (c.slots.getD x [])
    else
      u.wildTail a
      let most := (c.slots.map fun e => e.length - 1).foldl max (c.at cMAXCOUNT)
      updC k fun c => (c.put cUNIQUE (c.at cUNIQUE + c.slots.length)).put cMAXCOUNT most
      next cSTAGE 2
    pure true
  | _ =>
    if x < c.slots.length then
      u.apply k a x (c.slots.getD x [])
      pure true
    else
      updC k fun c => { (c.bump cSWEEPS).put cSTAGE 0 with slots := [] }
      next cSWEEP (c.at cSWEEP + 1)
      pure (decide (c.at cSWEEP + 1 < 2 ^ u.sweepLog))

/-- Steps until the command is done or the steps are used up. -/
def CU.steps (u : CU) (k : Nat) (a : Acc) : Nat → Act Bool
  | 0 => pure false
  | n + 1 => do
    let more ← u.step k a
    if more then u.steps k a n else pure true

/-- One chunk of CN_UPDATE. -/
def updateChunk (k : Nat) (c : Cmd) (i : Inst) (ch : Nat) (limit : Option Nat) : Act Bool := do
  let s ← theDev
  let u ← CU.parse k c.words
  -- enough steps for every sweep when nothing cuts the chunk off
  let all := 2 ^ u.sweepLog * (3 * u.count + 3)
  u.steps k (s.chunkAcc k ch i) (limit.getD all)

def updateOp : EngineOp := ⟨updatePrep, updateChunk⟩

end Sys2Proof.Machine
end

