-- ==== Sys2Proof/Machine/Fabric.lean ====
section
/-! DEFINITION. The fabric switch: port states, the link layer, routing, arbitration and the UDP encapsulation
(16_col_fabric R560 to R576, R586 to R588). -/

namespace Sys2Proof.Machine

/-! ### Ports (16 R567, 21 R760) -/

abbrev fpDOWN : Nat := 0
abbrev fpTRAIN : Nat := 1
abbrev fpHELLO : Nat := 2
abbrev fpUP : Nat := 3

/-- Indexes of fabric port 6 p + n. -/
def fix (n : Nat) : List Nat := [n / 6, n % 6]

def Dev.fabSt (s : Dev) (n : Nat) : Nat := s.get F.PORT_STATE (fix n)
def Dev.fabUp (s : Dev) (n : Nat) : Bool := decide (n < 12) && s.fabSt n == fpUP
def Dev.link (s : Dev) (n : Nat) : Link := Tab.get Link.reset s.fab.links n
def Dev.updLink (s : Dev) (n : Nat) (f : Link → Link) : Dev :=
  { s with fab := { s.fab with links := Tab.upd Link.reset s.fab.links n f } }

/-- Send a LINK flit on a port. -/
def Dev.linkOut (s : Dev) (n : Nat) (m : LinkMsg) : Dev := s.updLink n fun l => { l with out := l.out ++ [m] }

/-- Does the port encapsulate (16 R586)? -/
def Dev.encapPort (s : Dev) (n : Nat) : Bool := decide (n < 2) && s.get F.PORT_MODE (fix n) == 1

/-- The pair of a class and a VC. -/
def pairOf (cls vc : Nat) : Nat := 2 * cls + vc

/-- Are the KIND and CLASS of Table 16.3? -/
def Flit.wellKind (f : Flit) : Bool :=
  match f.kind with
  | 0 => true
  | 1 => f.cls == 2 || f.cls == 3
  | 2 => f.cls == 3
  | 3 => f.cls == 2
  | 4 => f.cls == 3
  | 5 => f.cls == 1
  | 6 => f.cls == 3
  | 7 => f.cls == 0
  | _ => false

/-- The flits a port buffers for each pair (16 Table 16.12): the initial credits of its HELLO. -/
def ownCredits : List Nat := [32, 32, 4096, 4096, 4096, 4096, 4096, 4096]

/-! The fabric buffers of a col die (16 Table 16.12): a quarter KiB to a flit. -/

abbrev flitBytes : Nat := 256

/-- Flits that a port's replay buffer holds (16 R566), the staging of a Col queue (16 R581), and what a port may have to resend. -/
abbrev replayFlits : Nat := 2 ^ 21 / flitBytes
abbrev stagingBytes : Nat := 2 ^ 21
abbrev retransmitFlits : Nat := 2 ^ 27 / flitBytes

/-- SRAM that the fabric of a col die takes with so many Col queues placed on it (16 R592, Table 16.12); the ring caches have the other
half of the 2 GiB (01 R38). -/
def fabricBytes (colA : Bool) (queues : Nat) : Nat :=
  6 * (ownCredits.sum * flitBytes + replayFlits * flitBytes) + min queues 128 * stagingBytes + 2 ^ 22 +
    (if colA then 2 * (retransmitFlits * flitBytes) else 0)

/-- The HELLO that a port sends. -/
def Dev.ownHello (s : Dev) (n : Nat) : LinkMsg :=
  .hello { ident := s.ident, port := n, mode := s.get F.PORT_MODE (fix n), credits := ownCredits, delay := none }

/-! ### The ends of messages (16 R577, R601) -/

/-- A command's work fails: its first failing status stays, and nothing further is dispatched (07 R242). -/
def Dev.failCmd (s : Dev) (k st d : Nat) : Dev :=
  s.updCmd k fun c => { c with fail := some (c.fail.getD (st, d)), todo := [] }

/-- A message of this unit ends with a status. -/
def Dev.msgOver (s : Dev) (m : OutMsg) (st d : Nat) : Dev :=
  let s := { s with fab := { s.fab with outMsgs := s.fab.outMsgs.filter fun x => x != m } }
  if st = stOK ∨ m.mute then s else s.failCmd m.queue st d

/-- Messages that a test names end with FAULT. -/
def Dev.msgsOver (s : Dev) (p : OutMsg → Bool) (d : Nat) : Dev :=
  s.forEach (s.fab.outMsgs.filter p) fun s m => s.msgOver m stFAULT d

abbrev dLINKLOST : Nat := 0x89
abbrev dUNITLOST : Nat := 0x8A

/-- A port enters DOWN (16 Table 16.4): its buffers are discarded, and messages of this unit that left on it end with
LINK_LOST, or with UNIT_LOST toward a partner that sent UNIT_LOST. -/
def Dev.fabDown (s : Dev) (n : Nat) (lost : Bool) : Dev :=
  let was := s.fabSt n
  let partner := s.get F.PARTNER_IDENTITY (fix n)
  let s := (s.put F.PORT_STATE (fix n) fpDOWN).put F.PORT_LOCKED (fix n) 0
  let s := s.updLink n fun l => { Link.reset with out := l.out, retry := l.retry }
  let s := { s with fab := { s.fab with
    inMsgs := s.fab.inMsgs.filter fun m => m.port != n
    heldIn := s.fab.heldIn.filter fun x => x.1 / 2 != n } }
  let s := if lost then
      let s := s.msgsOver (fun m => m.dst == partner) dUNITLOST
      let s := s.forEach s.fab.colls fun s e => match e.2 with
        | some c => if c.group.any (·.1 == partner) then s.failCmd e.1 stFAULT dUNITLOST else s
        | none => s
      -- a unit of the own chain that the fabric reports lost leaves the phase (03 R83)
      let s := if s.flag F.PARTNER_VALID (fix n) ∧ partner / 128 = s.get F.CHAIN_ADDR_ID then s.unitGone (partner % 128) else s
      s.fabEvent F.PARTNER_LOST 2
    else s
  let s := s.msgsOver (fun m => m.port == n) dLINKLOST
  if was = fpDOWN then s else s.fabEvent F.FAB_PORT_DOWN 1

/-! ### Sending on a native link (16 R565, R575, R576) -/

/-- The credit share of a partition in 1/256 (06 Table 6.1). -/
def Dev.colCredit (s : Dev) (p : Nat) : Nat := bitsOf (s.actReg p 0x10) 16 8
def Dev.colPorts (s : Dev) (p : Nat) : Nat := bitsOf (s.actReg p 0x10) 0 12

/-- May the flit be sent: a credit of its pair, room to keep it until it is acknowledged, and its partition within its share? -/
def Dev.mayGo (s : Dev) (n : Nat) (w : Waiting) : Bool :=
  let l := s.link n
  let p := pairOf w.flit.cls w.flit.vc
  let lo := pairOf w.flit.cls 0
  let charged := ((Tab.get [] l.unfreed lo ++ Tab.get [] l.unfreed (lo + 1)).filter (· == w.part)).length
  decide (0 < Tab.get 0 l.credits p) && decide (l.replay.length < replayFlits) &&
    (w.part == 64 ||
      decide ((charged + 1) * 256 ≤ s.colCredit w.part * (Tab.get 0 l.total lo + Tab.get 0 l.total (lo + 1))))

/-- The flits of a class that an output may send now: the first of each input and VC, if it may go. -/
def firstOfEach (cls : Nat) : List Nat → List Waiting → List Waiting
  | _, [] => []
  | seen, w :: t =>
    if w.flit.cls = cls then
      if seen.contains w.input then firstOfEach cls seen t else w :: firstOfEach cls (w.input :: seen) t
    else firstOfEach cls seen t

def Dev.sendable (s : Dev) (n cls : Nat) : List Waiting := (firstOfEach cls [] (s.link n).waiting).filter (s.mayGo n)

/-- Round-robin over the inputs: the next after the last one served. -/
def nextInput (last : Nat) (l : List Waiting) : Option Waiting :=
  match ((l.map (·.input)).filter fun i => decide (last < i)).min? with
  | some i => l.find? fun w => w.input == i
  | none => match (l.map (·.input)).min? with
    | some i => l.find? fun w => w.input == i
    | none => none

/-- The weight of a class on a port; 0 means 1 (16 Table 16.13). -/
def Dev.classWeight (s : Dev) (n cls : Nat) : Nat :=
  max 1 (s.get (if cls = 1 then F.WEIGHT_1 else if cls = 2 then F.WEIGHT_2 else F.WEIGHT_3) (fix n))

/-- The class to serve next and what is left of its turn: class 0 first, else classes 1 to 3 in turn, skipping a class
with nothing ready. -/
def Dev.nextClass (s : Dev) (n : Nat) : Option (Nat × Nat) :=
  let l := s.link n
  if !(s.sendable n 0).isEmpty then some (0, l.left)
  else if l.left ≠ 0 ∧ !(s.sendable n l.turn).isEmpty then some (l.turn, l.left - 1)
  else
    let order := [l.turn % 3 + 1, (l.turn + 1) % 3 + 1, (l.turn + 2) % 3 + 1]
    (order.find? fun c => !(s.sendable n c).isEmpty).map fun c => (c, s.classWeight n c - 1)

/-- An input buffer is free again: its credit returns in a LINK flit (16 R565). -/
def Dev.freeInput (s : Dev) (input cls : Nat) : Dev :=
  if input < 24 ∧ !s.encapPort (input / 2) then s.linkOut (input / 2) (.credit [(pairOf cls (input % 2), 1)] 0) else s

/-- Send one flit of a port, if one may go. -/
def Dev.sendOne (s : Dev) (n : Nat) : Dev :=
  match s.nextClass n with
  | none => s
  | some (cls, left) =>
    match nextInput (Tab.get 0 (s.link n).lastIn cls) (s.sendable n cls) with
    | none => s
    | some w =>
      let p := pairOf w.flit.cls w.flit.vc
      let s := s.updLink n fun l => { l with
        waiting := l.waiting.erase w, credits := Tab.set 0 l.credits p (Tab.get 0 l.credits p - 1)
        unfreed := Tab.set [] l.unfreed p (Tab.get [] l.unfreed p ++ [w.part]), replay := l.replay ++ [w.flit]
        turn := if cls = 0 then l.turn else cls, left := left, lastIn := Tab.set 0 l.lastIn cls w.input }
      s.freeInput w.input w.flit.cls

/-- Send everything that may go. -/
def Dev.drainPort (s : Dev) (n : Nat) : Dev :=
  if s.fabUp n then (List.range (s.link n).waiting.length).foldl (fun s _ => s.sendOne n) s else s

/-! ### Encapsulation (16 R586, R587) -/

/-- The peer entry of a fabric identity. -/
def Dev.peerEntry (s : Dev) (ident : Nat) : Option Nat :=
  (List.range 1024).find? fun e => s.flag F.EP_VALID [e] && s.get F.EP_IDENTITY [e] == ident

def Dev.setPeer (s : Dev) (key : Nat) (p : Peer) : Dev :=
  { s with fab := { s.fab with peers := Tab.set none s.fab.peers key (some p) } }

/-- The state toward a peer and class, new on first use. -/
def Dev.peerOf (s : Dev) (key port : Nat) : Peer :=
  (Tab.get none s.fab.peers key).getD
    { port := port, next := 0, expect := 0, unacked := [], resends := 0, window := s.get F.ENCAP_WINDOW, grown := 0,
      halved := none, waiting := [], ece := false }

/-- Flits that one frame carries at most. -/
def Dev.frameFlits (s : Dev) : Nat := min 32 ((s.get F.ENCAP_MTU - 64) / 256)

/-- The flow of a flit. -/
def flowOf (src dst dstPart cls : Nat) : Nat := ((src * 2 ^ 15 + dst) * 64 + dstPart) * 4 + cls

/-- The flow hash of a frame: that of its first flit, or, where it carries none, of the unit toward its peer. -/
def Dev.frameHash (s : Dev) (e cls : Nat) (flits : List Flit) : Nat :=
  Config.flowHash (match flits with
    | f :: _ => flowOf f.src f.dst f.dstPart f.cls
    | [] => flowOf s.ident (s.get F.EP_IDENTITY [e]) 0 cls)

/-- ENCAP_DSCP of a class. -/
def Dev.dscpOf (s : Dev) (cls : Nat) : Nat := s.get ([F.ENCAP_DSCP_0, F.ENCAP_DSCP_1, F.ENCAP_DSCP_2].getD cls F.ENCAP_DSCP_3)

/-- A frame to a peer entry (16 Table 16.8). -/
def Dev.eframe (s : Dev) (e cls psn ackPsn : Nat) (nak ece : Bool) (flits : List Flit) : EFrame :=
  { dmac := s.get64 F.EP_MAC_LO F.EP_MAC_HI [e], smac := s.get64 F.ENCAP_MAC_LO F.ENCAP_MAC_HI
    vlan := if s.flag F.ENCAP_VLAN_EN then some (s.get F.ENCAP_PCP * 2 ^ 13 + s.get F.ENCAP_VID) else none
    dscp := s.dscpOf cls, flow := s.frameHash e cls flits % 2 ^ 20, sport := 0xC000 + s.frameHash e cls flits % 2 ^ 14
    dip := (List.range 4).map fun i => s.reg (F.EP_IP.off [e, i])
    sip := (List.range 4).map fun i => s.reg (F.ENCAP_IP.off [i])
    udp := s.get F.ENCAP_UDP_PORT, sound := true, ce := false, psn := psn, ackPsn := ackPsn, cls := cls, nak := nak
    ece := ece, flits := flits }

def Dev.sendFrame (s : Dev) (port : Nat) (f : EFrame) : Dev :=
  { s with fab := { s.fab with frames := s.fab.frames ++ [(port, f)] } }

/-- Flits that a port has sent encapsulated and that are not acknowledged. -/
def Dev.encapHeld (s : Dev) (port : Nat) : Nat :=
  (s.fab.peers.map fun e => e.2.elim 0 fun p => if p.port = port then (p.unacked.map (·.2.length)).sum else 0).sum

/-- Send frames to a peer while its window and the retransmit buffer of its port allow. -/
def Dev.encapSend (s : Dev) (key e : Nat) : Nat → Dev
  | 0 => s
  | n + 1 =>
    match Tab.get none s.fab.peers key with
    | none => s
    | some p =>
      if p.waiting.isEmpty ∨ p.window ≤ p.unacked.length ∨ !s.fabUp p.port ∨ retransmitFlits < s.encapHeld p.port + s.frameFlits then s
      else
        let k := s.frameFlits
        let fl := p.waiting.take k
        let s := s.sendFrame p.port (s.eframe e (key % 4) p.next p.expect false p.ece fl)
        Dev.encapSend (s.setPeer key { p with
          waiting := p.waiting.drop k, next := (p.next + 1) % 2 ^ 32, unacked := p.unacked ++ [(p.next, fl)], ece := false })
          key e n

/-- A flit leaves on an encapsulating port: to the peer its DST names, or dropped. -/
def Dev.toPeer (s : Dev) (n : Nat) (f : Flit) : Dev :=
  match s.peerEntry f.dst with
  | none => s.count F.NO_ROUTE_COUNT
  | some e =>
    let key := f.dst * 4 + f.cls
    let p := s.peerOf key n
    (s.setPeer key { p with port := n, waiting := p.waiting ++ [f] }).encapSend key e (p.waiting.length + 1)

/-- Send all unacknowledged frames of a peer again, oldest first. -/
def Dev.resend (s : Dev) (key e : Nat) (p : Peer) : Dev :=
  s.forEach p.unacked fun s u => s.sendFrame p.port (s.eframe e (key % 4) u.1 p.expect false p.ece u.2)

/-- ENCAP_RTO: no acknowledgement in time; after 8 resends the peer is unreachable (16 R587). -/
def Dev.encapRto (s : Dev) (ident cls : Nat) : Dev :=
  let key := ident * 4 + cls
  match Tab.get none s.fab.peers key, s.peerEntry ident with
  | some p, some e =>
    if p.unacked.isEmpty then s
    else if 8 ≤ p.resends then
      let s := s.setPeer key { p with unacked := [], waiting := [], resends := 0 }
      (s.msgsOver (fun m => m.dst == ident) dLINKLOST).fabEvent F.ENCAP_PEER_LOST 3
    else (s.setPeer key { p with resends := p.resends + 1 }).resend key e p
  | _, _ => s

/-- 1 µs in always-on cycles. -/
abbrev oneUs : Nat := 25

/-- Does PSN a come after b, within half the number space? -/
def psnAfter (a b : Nat) : Bool :=
  let d := (a + 2 ^ 32 - b) % 2 ^ 32
  decide (0 < d) && decide (d < 2 ^ 31)

/-- What an acknowledgement does at the sender: acknowledged frames go, ECE halves the window at most once per
ENCAP_RTO, and a window acknowledged grows it by one frame (DEDUCED, log 82). -/
def Dev.peerAck (s : Dev) (p : Peer) (ackPsn : Nat) (ece : Bool) : Peer :=
  let done := fun (u : Nat × List Flit) => psnAfter ackPsn u.1
  let n := (p.unacked.filter done).length
  let p := { p with unacked := p.unacked.filter fun u => !done u, resends := if n = 0 then p.resends else 0, grown := p.grown + n }
  if ece && (match p.halved with
      | some t => decide (t + oneUs * s.get F.ENCAP_RTO ≤ s.now)
      | none => true) then
    { p with window := max 4 (p.window / 2), halved := some s.now, grown := 0 }
  else if p.window ≤ p.grown then { p with window := min (s.get F.ENCAP_WINDOW) (p.window + 1), grown := 0 }
  else p

/-! ### Routing (16 R569 to R574) -/

/-- Generations of ROUTE_A and ROUTE_B. -/
def routeGen (w : List Word) : Nat × Nat := (bitsOf (wordAt w 0) 28 4, bitsOf (wordAt w 1) 28 4)

/-- The offset of the route entry toward an identity. -/
def Dev.routeOff (s : Dev) (dst : Nat) : Nat :=
  if s.get F.CHAIN_ADDR ≠ 0 ∧ dst / 128 = s.get F.CHAIN_ADDR_ID then 0x3E20000 + 8 * (dst % 128)
  else 0x3E20400 + 8 * (dst / 128 % 256)

/-- The route entry in force toward an identity: ROUTE_A and ROUTE_B. -/
def Dev.routeEntry (s : Dev) (dst : Nat) : Nat × Nat × Dev :=
  let r := runAct (samplePair (s.routeOff dst) 2 routeGen) s
  match r.1 with
  | .ok w => (wordAt w 0, wordAt w 1, r.2)
  | .error _ => (0, 0, r.2)

/-- The port of a mask that a flow takes: spread over the ports that are UP (16 R573). -/
def Dev.spread (s : Dev) (mask flow : Nat) : Option Nat :=
  let ups := (List.range 12).filter fun n => bitAt mask n && s.fabUp n
  ups[Config.flowHash flow % ups.length]?

/-- Kinds whose flits a partition injects, and is charged for (16 R576) (DEDUCED, log 74). -/
def Flit.charged (f : Flit) : Bool := f.kind == 1 || f.kind == 2 || f.kind == 5 || f.kind == 6

/-- The ports that a flit may leave on: those of its partition's COL_PORTS, and for the cadence of a relay its RELAY_PORT, where the route
has it (03 R71) (DEDUCED, log 81). -/
def Dev.flitMask (s : Dev) (mask input : Nat) (f : Flit) : Nat :=
  if input = 24 ∧ f.charged then mask &&& s.colPorts f.srcPart
  else if input = 24 ∧ f.kind = 7 ∧ s.flag F.RELAY ∧ wordAt f.data 0 ≤ tyHandover ∧ bitAt mask (s.get F.RELAY_PORT) ∧ s.fabUp (s.get F.RELAY_PORT) then
    2 ^ s.get F.RELAY_PORT
  else mask

/-- The VC of Rule R571. -/
def outVc (a b arrVc : Nat) (arrDim : Option Nat) : Nat :=
  let dim := bitsOf b 0 3
  if bitAt b 3 || (arrVc == 1 && arrDim == some dim && dim != 7) then 1 else bitsOf a 12 1

/-- A CTRL0 TICK in transit gathers the delay of its arrival port and the residence time (16 R568). -/
def Dev.passTick (s : Dev) (port : Nat) (stay : Nat) (f : Flit) : Flit :=
  if f.kind = 7 ∧ wordAt f.data 0 = tyTick then
    let m := TickMsg.ofWords (f.data.drop 1)
    let m' : TickMsg := { m with delay := min (m.delay + s.get F.PORT_DELAY (fix port) + stay) (2 ^ 24 - 1) }
    { f with data := ctrl0Words tyTick m'.toWords }
  else f

/-- Route a flit that is not for this unit, from an input key (2 × port + VC; 24: this unit) (DEDUCED, log 81). -/
def Dev.routeOn (s : Dev) (input : Nat) (f : Flit) (stay : Nat) : Dev :=
  let drop := fun (s : Dev) => (s.count F.NO_ROUTE_COUNT).freeInput input f.cls
  if f.dst % 128 = 0 ∨ f.dst % 128 = 127 then drop s
  else
    let (a, b, s) := s.routeEntry f.dst
    match s.spread (s.flitMask (bitsOf a 0 12) input f) (flowOf f.src f.dst f.dstPart f.cls) with
    | none => drop s
    | some n =>
      let dim := if input < 24 then some (s.get F.PORT_DIM (fix (input / 2))) else none
      let f' := if input < 24 then s.passTick (input / 2) stay f else f
      let f' := { f' with vc := outVc a b (input % 2) dim }
      let s := if input / 2 = n ∧ input < 24 then s.count F.MISROUTE_COUNT else s
      let s := if input = 24 then
          { s with fab := { s.fab with outMsgs := s.fab.outMsgs.map fun m =>
              if m.tag = f.msg ∧ m.kind = f.kind then { m with port := n } else m } }
        else s
      if s.encapPort n then (s.toPeer n f').freeInput input f.cls
      else
        let w : Waiting := ⟨input, if input = 24 ∧ f.charged then f.srcPart else 64, f'⟩
        (s.updLink n fun l => { l with waiting := l.waiting ++ [w] }).drainPort n

/-! ### LINK flits (16 R565 to R568) -/

/-- Credits return, and sent flits are acknowledged. -/
def Dev.linkCredit (s : Dev) (n : Nat) (pairs : List (Nat × Nat)) (acked : Nat) : Dev :=
  if !s.fabUp n then s
  else
    (s.updLink n fun l => pairs.foldl (fun l x => { l with
      credits := Tab.set 0 l.credits x.1 (Tab.get 0 l.credits x.1 + x.2)
      unfreed := Tab.set [] l.unfreed x.1 ((Tab.get [] l.unfreed x.1).drop x.2) })
      { l with replay := l.replay.drop acked, replays := if acked = 0 then l.replays else 0 }).drainPort n

/-- A NAK: replay from the first unacknowledged flit; after 16 successive replays of it the port goes DOWN (DEDUCED, log 76). -/
def Dev.linkNak (s : Dev) (n : Nat) : Dev :=
  if !s.fabUp n ∨ (s.link n).replay.isEmpty then s
  else
    let s := (s.count F.REPLAY_COUNT (fix n)).updLink n fun l => { l with replays := l.replays + 1 }
    if 16 ≤ (s.link n).replays then (s.fabDown n false).report 0x47 (6 + n / 6) 0 none n 0 else s

/-- A partner's HELLO (16 Table 16.4, R568). -/
def Dev.linkHello (s : Dev) (n : Nat) (h : Hello) : Dev :=
  if s.fabSt n = fpHELLO then
    if h.mode = s.get F.PORT_MODE (fix n) then
      let s := (s.put F.PORT_STATE (fix n) fpUP).put F.PARTNER_IDENTITY (fix n) h.ident
      let s := (s.put F.PARTNER_PORT (fix n) h.port).put F.PARTNER_VALID (fix n) 1
      let cr : Tab Nat := (List.range 8).foldl (fun t p => Tab.set 0 t p (h.credits.getD p 0)) []
      (s.updLink n fun l => { l with credits := cr, total := cr, unfreed := [] }).fabEvent F.FAB_PORT_UP 0
    else s.put F.MODE_MISMATCH (fix n) 1
  else if s.fabSt n = fpUP then
    match h.delay with
    | some d => s.put F.PORT_DELAY (fix n) (min d 65535)
    | none => s
  else s

/-- A LINK flit of a port. -/
def Dev.linkFlit (s : Dev) (n : Nat) (m : LinkMsg) : Dev :=
  if 12 ≤ n then s
  else match m with
  | .credit p a => s.linkCredit n p a
  | .nak => s.linkNak n
  | .hello h => s.linkHello n h
  | .unitLost => (s.fabDown n true).report 0x48 (6 + n / 6) 0 none n 0

/-! ### Training (16 Table 16.4) -/

/-- May the fabric ports train: not between steps 11 and 12 of bring-up unless PORTS_EARLY is set (20 R720, R721)? -/
def Dev.portsMay (s : Dev) : Bool :=
  !s.boot.extWait || match s.boot.board with
    | some b => b.portsEarly
    | none => true

/-- ENABLE in PORT_CTRL is set or cleared; `signal` says whether the port sees one. -/
def Dev.portEnable (s : Dev) (n : Nat) (on signal : Bool) : Dev :=
  if 12 ≤ n then s
  else
    let s := s.put F.PORT_ENABLE (fix n) (b2n on)
    if on then (if signal ∧ s.fabSt n = fpDOWN ∧ !s.hostShut ∧ s.portsMay ∧ !s.dieGone (6 + n / 6) then s.put F.PORT_STATE (fix n) fpTRAIN else s)
    else s.fabDown n false

/-- A signal appears on a port. -/
def Dev.portSignal (s : Dev) (n : Nat) : Dev :=
  if n < 12 ∧ s.flag F.PORT_ENABLE (fix n) ∧ s.fabSt n = fpDOWN ∧ !s.hostShut ∧ s.portsMay ∧ !s.dieGone (6 + n / 6) then
    s.put F.PORT_STATE (fix n) fpTRAIN else s

/-- FEC and PCS lock: HELLO is sent. -/
def Dev.portLock (s : Dev) (n : Nat) : Dev :=
  if n < 12 ∧ s.fabSt n = fpTRAIN then
    ((s.put F.PORT_STATE (fix n) fpHELLO).put F.PORT_LOCKED (fix n) 15).linkOut n (s.ownHello n) else s

/-- 500 ms without lock. -/
def Dev.portTrainTimeout (s : Dev) (n : Nat) : Dev :=
  if n < 12 ∧ s.fabSt n = fpTRAIN then (s.fabDown n false).updLink n fun l => { l with retry := true } else s

/-- 100 ms later, training is tried again. -/
def Dev.portRetry (s : Dev) (n : Nat) : Dev :=
  if n < 12 ∧ (s.link n).retry then
    let s := s.updLink n fun l => { l with retry := false }
    if s.flag F.PORT_ENABLE (fix n) ∧ s.fabSt n = fpDOWN ∧ !s.hostShut ∧ s.portsMay ∧ !s.dieGone (6 + n / 6) then
      s.put F.PORT_STATE (fix n) fpTRAIN
    else s
  else s

/-- An UP port loses lock. -/
def Dev.portLost (s : Dev) (n : Nat) : Dev :=
  if s.fabUp n then (s.fabDown n false).report 0x47 (6 + n / 6) 0 none n 0 else s

/-- Every 100 µs an UP port sends a HELLO with a timestamp. -/
def Dev.portHello (s : Dev) (n : Nat) : Dev := if s.fabUp n then s.linkOut n (s.ownHello n) else s

end Sys2Proof.Machine
end

