-- ==== Sys2Proof/Machine/FabricEnd.lean ====
section
/-! DEFINITION. The Col engine: inbound transfers, acknowledgements, collectives, class 0 traffic, and the Col commands
(16_col_fabric R577 to R593). -/

namespace Sys2Proof.Machine

/-- DETAIL values of Table 16.11. -/
abbrev dCLFORMAT : Nat := 0x80
abbrev dCLSHAPE : Nat := 0x81
abbrev dCLALIGN : Nat := 0x82
abbrev dBADGROUP : Nat := 0x83
abbrev dNOROUTE : Nat := 0x84
abbrev dROUTEPROT : Nat := 0x85
abbrev dREMOTEPROT : Nat := 0x86
abbrev dREMOTEFAULT : Nat := 0x87
abbrev dACKTIMEOUT : Nat := 0x88
abbrev dMISMATCH : Nat := 0x8B
abbrev dCLTIMEOUT : Nat := 0x8C
abbrev dABORT : Nat := 0x8D
abbrev dNOIDENTITY : Nat := 0x8E

/-- The identity of the transfer unit of a port (06 Table 6.2). -/
def xferMid (port : Nat) : Nat := midOf (6 + port / 6) 4 (port % 6)

/-- The half of the Col engine that serves a queue: the port whose unit acts where no port does (16 R589). -/
def Dev.halfPort (s : Dev) (k : Nat) : Nat := if ((s.queue k).home.getD (6, 0)).1 = 7 then 6 else 0

/-! ### Building messages (16 R563) -/

/-- Words of bytes, the last one filled with zeros. -/
def padWords (bs : List Byte) : List Word := wordsOfBytes (bs ++ List.replicate ((4 - bs.length % 4) % 4) 0)

/-- The 24-byte head: ADDR, BYTES, AUX, RVALUE. -/
def headWords (addr bytes aux rvalue : Nat) : List Word :=
  words64 addr ++ [BitVec.ofNat 32 bytes, BitVec.ofNat 32 aux] ++ words64 rvalue

/-- The flits of a message. -/
def flitsOf (base : Flit) (head : List Word) (bs : List Byte) : List Flit :=
  let ws := padWords bs
  let parts := (head ++ ws.take 54) :: cutBy 60 (ws.drop 54)
  (List.range parts.length).map fun i =>
    { base with seqn := i, last := i + 1 == parts.length, data := parts.getD i [] }

/-- A flit of this unit. -/
def Dev.ownFlit (s : Dev) (dst dstPart cls kind srcPart msg : Nat) (data : List Word) : Flit :=
  { dst := dst, dstPart := dstPart, cls := cls, vc := 0, kind := kind, src := s.ident, srcPart := srcPart, last := true
    msg := msg, seqn := 0, data := data, crcOk := true }

/-- Inject flits in order. -/
def Dev.injectAll (s : Dev) (l : List Flit) : Dev := s.forEach l Dev.injectFlit

/-- The ACK of a message, with its status (16 R577). -/
def Dev.ack (s : Dev) (f : Flit) (status : Nat) : Dev :=
  s.injectFlit (s.ownFlit f.src f.srcPart 3 4 f.dstPart f.msg [BitVec.ofNat 32 status])

/-! ### Inbound memory accesses (16 R578) -/

/-- Write one piece; a partly written word that holds poison is a fault of the target (15 R533, 16 R578). -/
def inboundPiece (a : Acc) (pa : Nat) (bs : List Byte) : Act Unit := do
  let (die, key) ← piece a kWrite pa
  match die with
  | some d =>
    let s ← theDev
    let bad := (eccWords key bs.length).any fun k =>
      (decide (k < key) || decide (key + bs.length < k + 8)) && decide (2 ≤ s.eccAt k)
    act fun s => s.writeSram d key a.mid (some a.part) bs
    if bad then stopWith stFAULT dPOISON
  | none => act fun s => s.writeExt key bs

/-- Write inbound bytes piece by piece: a refused piece is dropped and the others land; the first failure, or none when a
die must wake first. -/
def Dev.inboundWrite (s : Dev) (a : Acc) (pa : Nat) (bs : List Byte) : Option (Nat × Nat) × Dev :=
  (pieces pa bs.length).foldl (fun r x =>
    match r with
    | (none, s) => (none, s)
    | (some st, s) =>
      match runAct (inboundPiece a x.1 ((bs.drop (x.1 - pa)).take x.2)) s with
      | (.ok _, s) => (some st, s)
      | (.error (.ended e d), s) => (some (if st.1 = stOK then (e, d) else st), s)
      | (.error .wait, s) => (none, s)) (some (stOK, 0), s)

/-- The status that an ACK carries: OK, PROT or FAULT. -/
def ackStatus (st : Nat) : Nat := if st = stOK ∨ st = stPROT then st else stFAULT

/-! ### Collectives: lookup and control (16 R581) -/

/-- The collective of a partition with an ID. -/
def Dev.collOf (s : Dev) (part id : Nat) : Option (Nat × Coll) :=
  s.fab.colls.findSome? fun e => match e.2 with
    | some c => if e.1 / 32 = part ∧ c.id = id then some (e.1, c) else none
    | none => none

def Dev.setColl (s : Dev) (k : Nat) (c : Option Coll) : Dev :=
  { s with fab := { s.fab with colls := Tab.set none s.fab.colls k c } }
def Dev.updColl (s : Dev) (k : Nat) (f : Coll → Coll) : Dev := s.setColl k ((Tab.get none s.fab.colls k).map f)

/-- The member that a sender is. -/
def Coll.member (c : Coll) (ident part : Nat) : Option Nat := c.group.findIdx? (· == (ident, part))
def Coll.up (c : Coll) : Nat := (c.self + c.nmemb - 1) % c.nmemb
def Coll.down (c : Coll) : Nat := (c.self + 1) % c.nmemb

/-- Control codes of COLL_CTRL in this model: READY, NAK, window credit, ABORT, DONE. -/
abbrev ccREADY : Nat := 0
abbrev ccNAK : Nat := 1
abbrev ccCREDIT : Nat := 2
abbrev ccABORT : Nat := 3
abbrev ccDONE : Nat := 4

def ctrlWords (op id arg : Nat) : List Word := [BitVec.ofNat 32 (op + id % 65536 * 2 ^ 16), BitVec.ofNat 32 arg]

/-- Send COLL_CTRL to a member. -/
def Dev.sendCtrl (s : Dev) (k : Nat) (c : Coll) (m op arg : Nat) : Dev :=
  let g := c.group.getD m (0, 0)
  s.injectFlit (s.ownFlit g.1 g.2 3 6 (k / 32) 0 (ctrlWords op c.id arg))

/-- The members a READY goes to: the upstream one, or every other for ALLTOALL. -/
def Coll.readyTo (c : Coll) : List Nat :=
  if c.kind = 4 then (List.range c.nmemb).filter (· != c.self) else [c.up]

/-- ABORT to every member. -/
def Dev.abortAll (s : Dev) (k : Nat) (c : Coll) : Dev :=
  s.forEach ((List.range c.nmemb).filter (· != c.self)) fun s m => s.sendCtrl k c m ccABORT 0

/-- A collective ends with FAULT: its staging is discarded, and its members hear of it when `tell` says so. -/
def Dev.collFail (s : Dev) (k d : Nat) (tell : Bool) : Dev :=
  match Tab.get none s.fab.colls k with
  | none => s
  | some c =>
    let s := if tell then s.abortAll k c else s
    (s.failCmd k stFAULT d).setColl k none

/-! ### Collectives: segments (16 R582, R583) -/

/-- Bytes of an element. -/
def Coll.elem (c : Coll) : Nat := if c.kind ≤ 1 then (if c.fmt = 0 then 4 else 2) else 1

/-- Offset and length in bytes of segment (or block) `j` of the whole data. -/
def Coll.seg (c : Coll) (j : Nat) : Nat × Nat :=
  match c.kind with
  | 0 =>
    let n := ceilDiv c.count c.nmemb
    let lo := min (j * n) c.count
    let hi := min ((j + 1) * n) c.count
    (lo * c.elem, (hi - lo) * c.elem)
  | 1 => (j * c.count * c.elem, c.count * c.elem)
  | 2 => (j * c.count, c.count)
  | _ => (0, c.count)

/-- How many transfers arrive from upstream, and the segment of each. -/
def Coll.inCount (c : Coll) : Nat :=
  match c.kind with
  | 0 => 2 * (c.nmemb - 1)
  | 1 => c.nmemb - 1
  | 2 => c.nmemb - 1
  | 3 => if c.self = c.root then 0 else 1
  | _ => 0

def Coll.inSeg (c : Coll) (t : Nat) : Nat :=
  let n := c.nmemb
  if c.kind ≤ 1 ∧ t < n - 1 then (c.self + 2 * n - 2 - t) % n
  else
    let u := if c.kind = 0 then t - (n - 1) else t
    (c.self + 2 * n - 1 - u) % n

/-- Skip transfers of no bytes. -/
def Coll.skip (c : Coll) : Nat → Nat → Nat
  | 0, t => t
  | f + 1, t => if t < c.inCount ∧ (c.seg (c.inSeg t)).2 = 0 then Coll.skip c f (t + 1) else t

/-- Own transfers. -/
def Coll.ownCount (c : Coll) : Nat :=
  match c.kind with
  | 3 => if c.self = c.root then 1 else 0
  | 4 => c.nmemb
  | _ => 1

/-- Largest message (16 R577), and the staging grant of a READY (16 R581). -/
abbrev msgMax : Nat := 65536
abbrev grantBytes : Nat := 2 ^ 21

/-- The format of a reduction. -/
def Coll.format (c : Coll) : Fmt := if c.fmt = 0 then .fp32 else .bf16

/-- One hop of a reduction: what arrived, then the own contribution, one rounding (16 R582, 08 R297).  FLUSH acts on the own contribution
as it is read, and on the result of the last hop, which is written (08 R292); every hop rounds to nearest (08 R289). -/
def hop (red : Nat) (f : Fmt) (flush last : Bool) (a b : Nat) : Fl Nat := do
  let x := f.decode a
  let y := f.operand flush b
  let z ← if red = 0 then addX x y else pure (if red = 1 then Num.max x y else Num.min x y)
  f.round .near (flush && last) z

/-- Reduce two byte strings element by element; `last` at the member where the reduction ends. -/
def reduceBytes (c : Coll) (flush last : Bool) (a b : List Byte) : Act (List Byte) := do
  let n := c.elem
  let l ← ((cutBy n a).zip (cutBy n b)).mapM fun x =>
    arith (hop c.red c.format flush last (leNat x.1) (leNat x.2))
  pure (l.flatMap fun v => leBytes v n)

/-- The own contribution with which a segment starts: FLUSH acts on it as an operand (08 R292). -/
def ownBytes (c : Coll) (flush : Bool) (bs : List Byte) : List Byte :=
  if flush then (cutBy c.elem bs).flatMap fun b =>
    let v := leNat b
    leBytes (if c.format.subnormal v then v / 2 ^ (c.format.width - 1) * 2 ^ (c.format.width - 1) else v) c.elem
  else bs

/-! ### Sending messages (16 R576, R577) -/

/-- Unacknowledged messages toward a unit. -/
def Dev.unackedTo (s : Dev) (dst : Nat) : Nat := (s.fab.outMsgs.filter fun m => m.dst == dst).length

/-- Send a message of a queue: its flits are injected, and it waits for its ACK. -/
def Dev.sendMsg (s : Dev) (k dst dstPart cls kind addr bytes : Nat) (head : List Word) (bs : List Byte) : Dev :=
  let tag := s.fab.nextTag
  let m : OutMsg := { queue := k, tag := tag, dst := dst, dstPart := dstPart, kind := kind, addr := addr, bytes := bytes
                      port := 12, mute := false }
  let s := { s with fab := { s.fab with nextTag := (tag + 1) % 2 ^ 20, outMsgs := s.fab.outMsgs ++ [m] } }
  s.injectAll (flitsOf (s.ownFlit dst dstPart cls kind (k / 32) tag []) head bs)

/-- The port that a message of a queue leaves on, for the identity of its own memory accesses (16 R578, R589). -/
def Dev.msgPort (s : Dev) (k dst dstPart cls : Nat) : Nat :=
  if dst = s.ident then s.halfPort k
  else
    let mask := bitsOf (s.routeEntry dst).1 0 12 &&& s.colPorts (k / 32)
    (s.spread mask (flowOf s.ident dst dstPart cls)).getD (s.halfPort k)

/-- The accesses that a message's source side makes. -/
def Dev.msgAcc (s : Dev) (k dst dstPart cls : Nat) : Acc :=
  ⟨k / 32, 0, xferMid (s.msgPort k dst dstPart cls), (s.part (k / 32)).grand.contains (k, 0)⟩

/-- Is there a way to a unit (16 R569, R576, R586)? -/
def checkRoute (k dst : Nat) : Act Unit := do
  let s ← theDev
  if dst = s.ident then pure ()
  else
    if dst % 128 = 0 ∨ dst % 128 = 127 then stopWith stFAULT dNOROUTE
    let (a, _, s) := s.routeEntry dst
    set s
    let up := (List.range 12).filter fun n => bitAt (bitsOf a 0 12) n && s.fabUp n
    if up.isEmpty then stopWith stFAULT dNOROUTE
    if up.any s.encapPort && (s.peerEntry dst).isNone then stopWith stFAULT dNOROUTE
    if bitsOf a 0 12 &&& s.colPorts (k / 32) = 0 then stopWith stPROT dROUTEPROT
    if !up.any (bitAt (s.colPorts (k / 32))) then stopWith stFAULT dNOROUTE

/-! ### The work of a collective -/

/-- The collective of a queue; none: it is over. -/
def theColl (k : Nat) : Act (Option Coll) := do
  let s ← theDev
  pure (Tab.get none s.fab.colls k)

/-- Produce the next piece of the own data. -/
def collOwn (k : Nat) (c : Coll) (flush : Bool) : Act Unit := do
  let s ← theDev
  let g := c.group.getD c.down (0, 0)
  let a := s.msgAcc k g.1 g.2 1
  let (t, off) := c.own
  let (lo, len) : Nat × Nat := match c.kind with
    | 2 => (0, c.count)
    | 3 => (0, c.count)
    | 4 => ((c.self + t) % c.nmemb * c.count, c.count)
    | _ => c.seg c.up
  let n := min msgMax (len - off)
  let next := if off + n < len then (t, off + n) else (t + 1, 0)
  if n = 0 then act fun s => s.updColl k fun c => { c with own := next }
  else
    let bs ← readMem a (c.src + lo + off) n
    let push := fun (m addr : Nat) => act fun s => s.updColl k fun c => { c with outq := c.outq ++ [(m, addr, bs)] }
    match c.kind with
    | 2 =>
      writeMem a (c.dst + c.self * c.count + off) bs
      push c.down (c.self * c.count + off)
    | 3 =>
      writeMem a (c.dst + off) bs
      push c.down off
    | 4 =>
      let m := (c.self + t) % c.nmemb
      if m = c.self then writeMem a (c.dst + c.self * c.count + off) bs else push m (c.self * c.count + off)
    | _ => act fun s => s.updColl k fun c => { c with outq := c.outq ++ [(c.down, lo + off, ownBytes c flush bs)] }
    act fun s => s.updColl k fun c => { c with own := next }

/-- Take the oldest message from staging: reduce or write it, send it on, and give its room back (16 R582, R583). -/
def collTake (k : Nat) (c : Coll) (flush : Bool) : Act Unit := do
  match c.stage with
  | [] => pure ()
  | (_, _, bs) :: rest =>
    let s ← theDev
    let g := c.group.getD c.down (0, 0)
    let a := s.msgAcc k g.1 g.2 1
    let t := c.skip c.inCount c.inp.1
    let off := if t = c.inp.1 then c.inp.2 else 0
    let (lo, len) := c.seg (c.inSeg t)
    let n := c.nmemb
    let push := fun (b : List Byte) => act fun s => s.updColl k fun c => { c with outq := c.outq ++ [(c.down, lo + off, b)] }
    if c.kind ≤ 1 ∧ t < n - 1 then
      let own ← readMem a (c.src + lo + off) bs.length
      let v ← reduceBytes c flush (t + 2 == n) bs own
      if t + 2 = n then
        if c.kind = 0 then
          writeMem a (c.dst + lo + off) v
          push v
        else writeMem a (c.dst + off) v
      else push v
    else
      writeMem a (c.dst + lo + off) bs
      let on := if c.kind = 3 then c.down != c.root else
        decide ((if c.kind = 0 then t - (n - 1) else t) + 2 < n)
      if on then push bs
    let next := if off + bs.length < len then (t, off + bs.length) else (t + 1, 0)
    act fun s => s.updColl k fun c => { c with stage := rest, inp := next }
    act fun s => s.sendCtrl k c c.up ccCREDIT bs.length

/-- Is everything this member had to do done? -/
def Coll.complete (c : Coll) : Bool :=
  c.outq.isEmpty && decide (c.ownCount ≤ c.own.1) && decide (c.inCount ≤ c.skip c.inCount c.inp.1) &&
    (c.kind != 4 || decide ((c.nmemb - 1) * c.count ≤ c.direct))

/-- Work on the collective of a queue, at most `n` staging blocks: whether it is over, and whether it ran out of `n`. -/
def collPump (k : Nat) (flush : Bool) : Nat → Act (Bool × Bool)
  | 0 => pure (false, true)
  | n + 1 => do
    match ← theColl k with
    | none => pure (true, false)
    | some c =>
      let s ← theDev
      match c.outq with
      | (m, addr, bs) :: rest =>
        let g := c.group.getD m (0, 0)
        match Tab.get none c.grants m with
        | none => pure (false, false)
        | some room =>
          if room < bs.length ∨ 16 ≤ s.unackedTo g.1 then pure (false, false)
          else
            checkRoute k g.1
            act fun s => s.updColl k fun c => { c with
              outq := rest, grants := Tab.set none c.grants m (some (room - bs.length)) }
            act fun s => s.sendMsg k g.1 g.2 1 5 0 bs.length (headWords addr bs.length c.id 0) bs
            collPump k flush n
      | [] =>
        if c.own.1 < c.ownCount then
          collOwn k c flush
          collPump k flush n
        else if !c.stage.isEmpty then
          collTake k c flush
          collPump k flush n
        else if c.complete then
          if c.kind ≠ 3 then pure (true, false)
          else
            if !c.sentDone ∧ c.self ≠ c.root then act fun s => s.sendCtrl k c c.root ccDONE 0
            act fun s => s.updColl k fun c => { c with sentDone := true }
            pure (c.self != c.root || decide (c.nmemb ≤ c.dones.length + 1), false)
        else pure (false, false)

/-- Steps a pump may need for what is at hand. -/
def Dev.pumpFuel (s : Dev) (k : Nat) : Nat :=
  match Tab.get none s.fab.colls k with
  | some c => 4 * (c.stage.length + c.outq.length + 2) + 2 * (c.ownCount * (c.count * 4 / msgMax + 2))
  | none => 1

/-- The half of the Col engine that runs the commands of a queue (16 R589). -/
def Dev.colHalf (s : Dev) (k : Nat) : Inst := ⟨4, s.homeDie k, 0⟩

/-- Data or room has come: a collective goes on at once while a chunk of it runs, and the flags of its additions are that chunk's; a
failure ends the chunk (16 R582, R604; 08 R293). -/
def Dev.pump (s : Dev) (k : Nat) : Dev :=
  match (Tab.get Engine.reset s.engines (s.colHalf k).key).busy with
  | none => s
  | some b =>
    if b.queue = k ∧ b.fail.isNone ∧ s.ownsChunk (s.colHalf k) b ∧ (s.cmdOf k).any (·.fail.isNone) then
      let r := runAct (collPump k (flushOf b.cmd.words) (s.pumpFuel k)) { s with flagAcc := 0 }
      let fail := match r.1 with
        | .error (.ended st d) => some (st, d)
        | _ => none
      { r.2 with engines := Tab.upd Engine.reset r.2.engines (s.colHalf k).key fun e =>
          { e with busy := some { b with fail := fail, flags := b.flags ||| r.2.flagAcc } } }
    else s

/-! ### Inbound flits by kind -/

/-- The message that a flit belongs to, new with its first flit. -/
def Dev.inMsgOf (s : Dev) (input : Nat) (f : Flit) : Option InMsg :=
  if f.seqn = 0 then
    some { src := f.src, srcPart := f.srcPart, tag := f.msg, kind := f.kind, dstPart := f.dstPart, port := input / 2
           addr := wordAt f.data 0 + 2 ^ 32 * wordAt f.data 1, bytes := wordAt f.data 2, got := 0, aux := wordAt f.data 3
           rvalue := wordAt f.data 4 + 2 ^ 32 * wordAt f.data 5, status := 0, data := [] }
  else s.fab.inMsgs.find? fun m => m.src == f.src && m.srcPart == f.srcPart && m.tag == f.msg && m.kind == f.kind

/-- Keep a message that has more to come, or forget it. -/
def Dev.keepIn (s : Dev) (m : InMsg) (keep : Bool) : Dev :=
  let rest := s.fab.inMsgs.filter fun x => !(x.src == m.src && x.srcPart == m.srcPart && x.tag == m.tag && x.kind == m.kind)
  { s with fab := { s.fab with inMsgs := if keep then rest ++ [m] else rest } }

/-- The payload bytes of a flit that a message still wants. -/
def payload (f : Flit) (m : InMsg) : List Byte :=
  (bytesOfWords (if f.seqn = 0 then f.data.drop 6 else f.data)).take (m.bytes - m.got)

/-- Does the partition accept inbound traffic (16 R578)? -/
def Dev.partOpen (s : Dev) (p : Nat) : Bool := s.get F.P_STATE [p] == pENABLED

/-! The handling of a flit answers the new state, or, on the left, that a die must wake first (16 R605) (DEDUCED, log 75). -/

/-- PUT (16 R578, R579). -/
def Dev.onPut (s : Dev) (input mid : Nat) (f : Flit) : Except Dev Dev :=
  match s.inMsgOf input f with
  | none => .ok s
  | some m =>
    let bs := payload f m
    let a : Acc := ⟨f.dstPart, 0, mid, false⟩
    let r := if s.partOpen f.dstPart then s.inboundWrite a (m.addr + m.got) bs else (some (stFAULT, 0), s)
    match r.1 with
    | none => .error r.2
    | some st =>
      let s := r.2
      let m := { m with got := m.got + bs.length, status := if m.status = stOK then ackStatus st.1 else m.status }
      if !f.last then .ok (s.keepIn m true)
      else
        let s := s.keepIn m false
        let fence := bitsOf m.aux 0 8
        if m.status = stOK ∧ bitAt m.aux 8 then
          if bitAt (s.get F.REMOTE_SIG [f.dstPart, fence / 32]) (fence % 32) then
            .ok ((s.signalFence f.dstPart fence m.rvalue false).ack f stOK)
          else .ok (s.ack f stPROT)
        else .ok (s.ack f m.status)

/-- The GET_DATA reply to a request: data, or none with a status (16 R580). -/
def Dev.reply (s : Dev) (f : Flit) (status : Nat) (bs : List Byte) : Dev :=
  let addr := wordAt f.data 4 + 2 ^ 32 * wordAt f.data 5
  s.injectAll (flitsOf (s.ownFlit f.src f.srcPart 2 3 f.dstPart f.msg []) (headWords addr bs.length status 0) bs)

/-- GET_REQ: the holder reads with the named partition as acting partition (16 R580). -/
def Dev.onGetReq (s : Dev) (mid : Nat) (f : Flit) : Except Dev Dev :=
  if !s.partOpen f.dstPart then .ok (s.reply f stFAULT [])
  else
    let addr := wordAt f.data 0 + 2 ^ 32 * wordAt f.data 1
    match runAct (readMem ⟨f.dstPart, 0, mid, false⟩ addr (min (wordAt f.data 2) msgMax)) s with
    | (.ok bs, s) => .ok (s.reply f stOK bs)
    | (.error (.ended st _), s) => .ok (s.reply f (ackStatus st) [])
    | (.error .wait, s) => .error s

/-- The status and DETAIL with which a remote status ends the source command (16 R578). -/
def remoteEnd (st : Nat) : Nat × Nat :=
  if st = stOK then (stOK, 0) else if st = stPROT then (stPROT, dREMOTEPROT) else (stFAULT, dREMOTEFAULT)

/-- GET_DATA: written at the requester for the requesting partition (16 R580). -/
def Dev.onGetData (s : Dev) (input mid : Nat) (f : Flit) : Except Dev Dev :=
  match s.fab.outMsgs.find? fun o => o.tag == f.msg && o.kind == 2 && o.dst == f.src, s.inMsgOf input f with
  | some o, some m =>
    let bs := payload f m
    let rem := bitsOf m.aux 0 4
    let r := if rem = stOK ∧ !o.mute then s.inboundWrite ⟨o.queue / 32, 0, mid, false⟩ (o.addr + m.got) bs
      else (some (stOK, 0), s)
    match r.1 with
    | none => .error r.2
    | some st =>
      let s := r.2
      let m := { m with got := m.got + bs.length, status := if m.status = 0 then st.1 + 16 * st.2 else m.status }
      if !f.last then .ok (s.keepIn m true)
      else
        let s := s.keepIn m false
        let e := if rem ≠ stOK then remoteEnd rem else (m.status % 16, m.status / 16)
        .ok (s.msgOver o e.1 e.2)
  | _, _ => .ok s

/-- ACK: a message of this unit ends with its status (16 R577). -/
def Dev.onAck (s : Dev) (f : Flit) : Dev :=
  match s.fab.outMsgs.find? fun o => o.tag == f.msg && o.kind != 2 && o.dst == f.src with
  | some o =>
    let e := remoteEnd (bitsOf (wordAt f.data 0) 0 4)
    let s := s.msgOver o e.1 e.2
    if o.kind = 5 then s.pump o.queue else s
  | none => s

/-- COLL_DATA: into staging, or into the member's DST for ALLTOALL; then reduced or forwarded (16 R581 to R583). -/
def Dev.onCollData (s : Dev) (input mid : Nat) (f : Flit) : Except Dev Dev :=
  match s.inMsgOf input f with
  | none => .ok s
  | some m =>
    let bs := payload f m
    let m := { m with got := m.got + bs.length, data := m.data ++ bs }
    if !f.last then .ok (s.keepIn m true)
    else if !s.partOpen f.dstPart then .ok ((s.keepIn m false).ack f stFAULT)
    else match s.collOf f.dstPart (m.aux % 65536) with
    | none => .ok ((s.keepIn m false).ack f stOK)
    | some (k, c) =>
      match c.member f.src f.srcPart with
      | none => .ok ((s.keepIn m false).ack f stOK)
      | some who =>
        if c.kind = 4 then
          match s.inboundWrite ⟨f.dstPart, 0, mid, false⟩ (c.dst + m.addr) m.data with
          | (none, s) => .error s
          | (some st, s) =>
            let s := (s.keepIn m false).updColl k fun c => { c with direct := c.direct + m.data.length }
            let s := s.sendCtrl k c who ccCREDIT m.data.length
            .ok ((s.ack f (ackStatus st.1)).pump k)
        else
          let s := (s.keepIn m false).updColl k fun c => { c with stage := c.stage ++ [(who, m.addr, m.data)] }
          .ok ((s.ack f stOK).pump k)

/-- COLL_CTRL (16 R581, R584) (DEDUCED, log 79). -/
def Dev.onCollCtrl (s : Dev) (f : Flit) : Dev :=
  let w := wordAt f.data 0
  let op := bitsOf w 0 4
  let id := bitsOf w 16 16
  let arg := wordAt f.data 1
  match s.collOf f.dstPart id with
  | none =>
    if op = ccREADY then s.injectFlit (s.ownFlit f.src f.srcPart 3 6 f.dstPart 0 (ctrlWords ccNAK id 0)) else s
  | some (k, c) =>
    match c.member f.src f.srcPart with
    | none => s
    | some m =>
      let grant := fun (n : Nat) (s : Dev) =>
        (s.updColl k fun c => { c with grants := Tab.set none c.grants m (some ((Tab.get none c.grants m).getD 0 + n)) }).pump k
      if op = ccREADY then (if arg = c.digest then grant grantBytes s else s.collFail k dMISMATCH true)
      else if op = ccNAK then s.updColl k fun c => { c with naks := if c.naks.contains m then c.naks else c.naks ++ [m] }
      else if op = ccCREDIT then grant arg s
      else if op = ccABORT then s.collFail k dABORT false
      else if op = ccDONE then
        (s.updColl k fun c => { c with dones := if c.dones.contains m then c.dones else c.dones ++ [m] }).pump k
      else s

/-! ### Class 0 (16 R593, R596) -/

/-- CTRL0 codes of this model above the chain's TYPEs: the partner is lost; a stop for a spur core's line 15. -/
abbrev c0LOST : Nat := 15
abbrev c0STOP : Nat := 16

/-- Send a cadence message of the fabric on the own chain (03 R113, 16 R593). -/
def Dev.toChain (s : Dev) (typ : Nat) (data : List Word) : Dev := if s.flag F.RELAY then s.send typ 0 bcast 0 data else s

/-- A CTRL0 flit for this unit. -/
def Dev.onCtrl0 (s : Dev) (input : Nat) (f : Flit) (stay : Nat) : Dev :=
  let typ := wordAt f.data 0
  let data := f.data.drop 1
  let link := if input < 24 then s.get F.PORT_DELAY (fix (input / 2)) else 0
  let later := fun (d : Nat) =>
    let m := TickMsg.ofWords data
    { m with delay := min (m.delay + d) (2 ^ 24 - 1) }
  if typ = tyTick then (s.onTick (later link)).toChain tyTick (later (link + stay)).toWords
  else if typ = tyVote then s.onVote (VoteMsg.ofWords data)
  else if typ = tyJoin then s.onPart true (VoteMsg.ofWords data)
  else if typ = tyLeave then s.onPart false (VoteMsg.ofWords data)
  else if typ = tyBid then (s.onBid (BidMsg.ofWords data)).toChain tyBid data
  else if typ = tyHandover then s.onHandover data
  else if typ = c0LOST ∧ input < 24 then (s.fabDown (input / 2) true).report 0x48 (6 + input / 12) 0 none (input / 2) 0
  else if typ = c0STOP then
    let key := wordAt data 0
    if Tab.has s.cores key then
      { s with cores := Tab.upd Core.reset s.cores key fun c => { c with lines := setBit c.lines 15 } }
    else s
  else s

/-! ### Delivery -/

/-- The port whose transfer unit handles a flit: the one it came on, or the half of its queue inside the unit. -/
def Dev.unitPort (s : Dev) (input : Nat) (f : Flit) : Nat :=
  if input < 24 then input / 2
  else match s.fab.outMsgs.find? fun o => o.tag == f.msg with
  | some o => s.halfPort o.queue
  | none => 0

/-- Deliver a flit inside the unit; one whose die must wake waits in its input buffer, and so does all that follows it
from its source (16 R569, R605). -/
def Dev.consume (s : Dev) (input : Nat) (f : Flit) (stay : Nat) : Dev :=
  let hold := { s with fab := { s.fab with heldIn := s.fab.heldIn ++ [(input, f)] } }
  let mid := xferMid (s.unitPort input f)
  if s.fab.heldIn.any fun x => x.2.src == f.src && x.2.cls == f.cls then hold
  else
    let r : Except Dev Dev := match f.kind with
      | 1 => s.onPut input mid f
      | 2 => s.onGetReq mid f
      | 3 => s.onGetData input mid f
      | 4 => .ok (s.onAck f)
      | 5 => s.onCollData input mid f
      | 6 => .ok (s.onCollCtrl f)
      | 7 => .ok (s.onCtrl0 input f stay)
      | _ => .ok s
    match r with
    | .ok s => s.freeInput input f.cls
    | .error t => { hold with wakes := t.wakes }

/-- Try the flits that waited for a die again. -/
def Dev.retryHeld (s : Dev) : Dev :=
  let l := s.fab.heldIn
  ({ s with fab := { s.fab with heldIn := [] } }).forEach l fun s x => s.consume x.1 x.2 0

/-- Is the flit for this unit? -/
def Dev.isMine (s : Dev) (f : Flit) : Bool := s.get F.CHAIN_ADDR != 0 && f.dst == s.ident

/-- A flit past its checks. -/
def Dev.place (s : Dev) (input : Nat) (f : Flit) (stay : Nat) : Dev :=
  if s.isMine f then s.consume input f stay else s.routeOn input f stay

/-- A flit arrives at a port: CRC first, then KIND and CLASS (16 R563, R564, R566). -/
def Dev.arrive (s : Dev) (port : Nat) (f : Flit) (stay : Nat) : Dev :=
  if !s.fabUp port then s
  else if !f.crcOk then (s.linkOut port .nak).report 0x46 (6 + port / 6) 0 none port 0
  else
    let input := 2 * port + f.vc % 2
    let s := s.linkOut port (.credit [] 1)
    if !f.wellKind ∨ f.kind = 0 then (s.count F.FAB_FORMAT_COUNT).freeInput input f.cls
    else s.place input f stay

/-- FLIT_ROUTE: a flit that arrives, or the oldest flit injected at this unit. -/
def Dev.flitRoute (s : Dev) (port : Nat) (f : Flit) (stay : Nat) : Dev :=
  if port < 12 then s.arrive port f stay
  else match s.fab.inject with
  | [] => s
  | g :: t => ({ s with fab := { s.fab with inject := t } }).place 24 g 0

/-- A flit of one kind arrives; one of another kind is no such event. -/
def Dev.arriveKind (s : Dev) (kind port : Nat) (f : Flit) (stay : Nat) : Dev := if f.kind = kind then s.arrive port f stay else s

/-- A COLL_CTRL flit with one code arrives. -/
def Dev.arriveCtrl (s : Dev) (op port : Nat) (f : Flit) : Dev :=
  if f.kind = 6 ∧ bitsOf (wordAt f.data 0) 0 4 = op then s.arrive port f 0 else s

/-! ### Encapsulated frames (16 R587, R588, R607) -/

/-- Does the frame meet R588? -/
def Dev.frameOk (s : Dev) (f : EFrame) : Bool :=
  f.sound && f.dmac == s.get64 F.ENCAP_MAC_LO F.ENCAP_MAC_HI && f.dip == (List.range 4).map (fun i => s.reg (F.ENCAP_IP.off [i])) &&
    f.udp == s.get F.ENCAP_UDP_PORT

/-- The peer of a frame: the source of its flits, or the entry with its source address. -/
def Dev.framePeer (s : Dev) (f : EFrame) : Option Nat :=
  match f.flits with
  | g :: _ => some g.src
  | [] => ((List.range 1024).find? fun e =>
      s.flag F.EP_VALID [e] && f.sip == (List.range 4).map fun i => s.reg (F.EP_IP.off [e, i])).map fun e => s.get F.EP_IDENTITY [e]

/-- Flits from an encapsulating port that wait in its input buffers, of a class. -/
def Dev.inputUse (s : Dev) (port cls : Nat) : Nat :=
  (s.fab.links.map fun e => (e.2.waiting.filter fun w => w.input / 2 == port && w.flit.cls == cls).length).sum +
    (s.fab.heldIn.filter fun x => x.1 / 2 == port && x.2.cls == cls).length

/-- Answer a peer with an acknowledgement, where it has an entry. -/
def Dev.encapAck (s : Dev) (ident cls port : Nat) (nak ece : Bool) : Dev :=
  match s.peerEntry ident with
  | some e =>
    let p := s.peerOf (ident * 4 + cls) port
    s.sendFrame port (s.eframe e cls p.next p.expect nak ece [])
  | none => s

/-- ENCAP_FRAME (16 R587, R588). -/
def Dev.encapFrame (s : Dev) (port : Nat) (f : EFrame) : Dev :=
  if !s.fabUp port || !s.encapPort port then s
  else if !s.frameOk f then s.count F.ENCAP_DROP_COUNT
  else match s.framePeer f with
  | none => s
  | some ident =>
    let cls := f.cls % 4
    let key := ident * 4 + cls
    -- the acknowledgement it carries
    let p := s.peerAck (s.peerOf key port) f.ackPsn f.ece
    let s := s.setPeer key p
    let s := match s.peerEntry ident with
      | some e =>
        let s := if f.nak then s.resend key e p else s
        s.encapSend key e (p.waiting.length + 1)
      | none => s
    if f.flits.isEmpty then s
    else
      let p := s.peerOf key port
      let behind := psnAfter p.expect f.psn
      if f.psn = p.expect then
        if ownCredits.getD (2 * cls) 0 < s.inputUse port cls + f.flits.length then s
        else
          let s := s.setPeer key { p with expect := (p.expect + 1) % 2 ^ 32 }
          let s := s.forEach f.flits fun s g =>
            if !g.crcOk then s
            else if !g.wellKind ∨ g.kind = 0 then s.count F.FAB_FORMAT_COUNT
            else s.place (2 * port + g.vc % 2) g 0
          s.encapAck ident cls port false f.ce
      else s.encapAck ident cls port (!behind) f.ce

/-! ### The Col commands (16 R589, R590) -/

/-- Checks every Col command begins with: the partition holds a port, and the unit has an identity. -/
def colBegin (k : Nat) (w : List Word) : Act Unit := do
  let s ← theDev
  if (s.named k w).isEmpty then stopWith stPROT dNOTOWNED
  failIf (s.get F.CHAIN_ADDR == 0) stSTATE dNOIDENTITY

/-- CL_PUT and CL_GET: the checks. -/
def xferPrep (k : Nat) (c : Cmd) : Act (Nat × Nat) := do
  let w := c.words
  colBegin k w
  failIf (wordAt w 6 == 0) stFAULT dCLSHAPE
  failIf (misaligned [addr64 w 2, addr64 w 4] []) stFAULT dCLALIGN
  checkRoute k (fld w 7 0 15)
  pure (1, 1)

/-- Send the messages of a transfer from number `i` on, at most `n` of them and at most 16 that are not acknowledged; whether all are
sent (16 R577). -/
def xferGo (k : Nat) (send : Nat → Act Unit) (dst total : Nat) : Nat → Nat → Act Bool
  | 0, i => pure (decide (total ≤ i))
  | n + 1, i => do
    if total ≤ i then pure true
    else
      let s ← theDev
      if 16 ≤ s.unackedTo dst then pure false
      else
        checkRoute k dst
        send i
        act fun s => s.updCmd k fun c => { c with carry := [i + 1] }
        xferGo k send dst total n (i + 1)

/-- CL_PUT: message `i`; the last one carries the remote fence (16 R577 to R579). -/
def putMsg (k : Nat) (w : List Word) (i : Nat) : Act Unit := do
  let s ← theDev
  let peer := fld w 7 0 15
  let part := fld w 7 16 6
  let cls := if bitAt (wordAt w 7) 24 then 3 else 2
  let total := wordAt w 6
  let n := min msgMax (total - i * msgMax)
  let bs ← readMem (s.msgAcc k peer part cls) (addr64 w 2 + i * msgMax) n
  let last := decide (total ≤ (i + 1) * msgMax)
  let aux := if last then fld w 8 0 9 else 0
  let addr := addr64 w 4 + i * msgMax
  act fun s => s.sendMsg k peer part cls 1 addr n (headWords addr n aux (if last then addr64 w 10 else 0)) bs

/-- CL_GET: request `i`. -/
def getMsg (k : Nat) (w : List Word) (i : Nat) : Act Unit := do
  let n := min msgMax (wordAt w 6 - i * msgMax)
  let local_ := addr64 w 2 + i * msgMax
  act fun s => s.sendMsg k (fld w 7 0 15) (fld w 7 16 6) 3 2 local_ n (headWords (addr64 w 4 + i * msgMax) n 0 local_) []

/-- A transfer command. -/
def xferOp (send : Nat → List Word → Nat → Act Unit) : EngineOp :=
  { prep := xferPrep
    chunk := fun k c _ _ limit => do
      let total := ceilDiv (wordAt c.words 6) msgMax
      let i := c.carry.headD 0
      xferGo k (send k c.words) (fld c.words 7 0 15) total (match limit with
        | some n => min n (total - i)
        | none => total - i) i }

def putOp : EngineOp := xferOp putMsg
def getOp : EngineOp := xferOp getMsg

/-- The digest of a collective: the CRC32C of its fields as 32-bit words, and of the group array (16 R581) (DESIGN CHOICE, log 78). -/
def collDigest (id kind red fmt count nmemb root : Nat) (group : List Byte) : Nat :=
  crc32c (([id, kind, red, fmt, count, nmemb, root].flatMap fun v => leBytes v 4) ++ group)

/-- CL_COLL: the checks, and the start: READY to the members that need it (16 R581, R590). -/
def collPrep (k : Nat) (c : Cmd) : Act (Nat × Nat) := do
  let w := c.words
  colBegin k w
  let kind := fld w 9 0 4
  let red := fld w 9 4 4
  let fmt := fld w 9 8 4
  let root := fld w 9 16 12
  let n := fld w 10 0 13
  let self := fld w 10 16 13
  let count := wordAt w 8
  failIf (decide (kind ≤ 1) && fmt != 0 && fmt != 2) stFAULT dCLFORMAT
  -- a value outside its range is a shape (07 R237, 16 R590) (DEDUCED, log 74)
  failIf (count == 0 || decide (n < 2) || decide (4096 < n) || decide (n ≤ root) || decide (n ≤ self) ||
    ((kind == 1 || kind == 2) && decide (2 ^ 32 ≤ count * n))) stFAULT dCLSHAPE
  failIf (misaligned [addr64 w 2, addr64 w 4, addr64 w 6] []) stFAULT dCLALIGN
  let s ← theDev
  let raw ← readMem ⟨k / 32, 0, xferMid (s.halfPort k), false⟩ (addr64 w 6) (4 * n)
  let group := (cutBy 4 raw).map fun b => (bitsOf (leNat b) 0 15, bitsOf (leNat b) 16 6)
  failIf (group.getD self (0, 64) != (s.ident, k / 32) || !decide group.Nodup) stFAULT dBADGROUP
  let coll : Coll := {
    id := fld w 11 0 16, kind := kind, red := red, fmt := fmt, count := count, nmemb := n, root := root, self := self
    src := addr64 w 2, dst := addr64 w 4, group := group, digest := collDigest (fld w 11 0 16) kind red fmt count n root raw
    grants := [], naks := [], outq := [], own := (0, 0), inp := (0, 0), stage := [], direct := 0, dones := [], sentDone := false }
  let peers := if kind = 4 then (List.range n).filter (· != self) else [coll.up, coll.down]
  peers.forM fun m => checkRoute k (group.getD m (0, 0)).1
  act fun s => (s.setColl k (some coll)).forEach coll.readyTo fun s m => s.sendCtrl k coll m ccREADY coll.digest
  pure (1, 1)

/-- CL_COLL: its work as far as data and grants allow; the chunk goes on with what comes until its cut-off (16 R604). -/
def collOp : EngineOp :=
  { prep := collPrep
    chunk := fun k c _ _ limit => do
      let s ← theDev
      let r ← collPump k (flushOf c.words) (limit.getD (s.pumpFuel k))
      pure r.1 }

/-- Has a Col command of a queue messages that are not acknowledged (16 R584)? -/
def Dev.colBusy (s : Dev) (k : Nat) : Bool := s.fab.outMsgs.any fun m => m.queue == k && !m.mute

/-- A Col command is over: a collective that was stopped sends ABORT and discards its staging, and ACKs of messages still
out are discarded (16 R591). -/
def Dev.colOver (s : Dev) (k : Nat) (stopped : Bool) : Dev :=
  let s := match Tab.get none s.fab.colls k with
    | some c => (if stopped then s.abortAll k c else s).setColl k none
    | none => s
  { s with fab := { s.fab with outMsgs := s.fab.outMsgs.map fun m => if m.queue = k then { m with mute := true } else m } }

/-- READY_REPEAT: the READYs answered with NAK go out again. -/
def Dev.readyRepeat (s : Dev) (k : Nat) : Dev :=
  match Tab.get none s.fab.colls k with
  | none => s
  | some c => (s.updColl k fun c => { c with naks := [] }).forEach c.naks fun s m => s.sendCtrl k c m ccREADY c.digest

/-- COLL_TIMEOUT. -/
def Dev.collTimeout (s : Dev) (k : Nat) : Dev :=
  match s.cmdOf k with
  | some c => if fld c.words 12 0 24 = 0 then s else s.collFail k dCLTIMEOUT true
  | none => s

/-- ACK_TIMEOUT of a message. -/
def Dev.ackTimeout (s : Dev) (tag : Nat) : Dev := s.msgsOver (fun m => m.tag == tag) dACKTIMEOUT

end Sys2Proof.Machine
end

