-- ==== Sys2Proof/Machine/Flags.lean ====
section
/-! DEFINITION. The status register of a Ridge core: the condition flags as addition, logic and shifts set them, and the
conditions that read them (13 R461, R466, R467). -/

namespace Sys2Proof.Machine

/-- Z, N, C, V, MO of ST (13 Table 13.3). -/
abbrev fZ : Nat := 0
abbrev fN : Nat := 1
abbrev fC : Nat := 2
abbrev fV : Nat := 3
abbrev fMO : Nat := 4
abbrev fRPT : Nat := 5
abbrev fIE : Nat := 6

def Core.flagAt (c : Core) (i : Nat) : Bool := bitAt c.st.toNat i
def Core.setFlag (c : Core) (i : Nat) (v : Bool) : Core := { c with st := BitVec.ofNat 32 (putBits c.st.toNat i 1 (b2n v)) }

/-- N and Z from a result. -/
def Core.setNZ (c : Core) (r : Word) : Core := (c.setFlag fN (r.getLsbD 31)).setFlag fZ (r == 0)

/-- The addition of R466: the result, and the flags it sets. -/
def Core.add (c : Core) (a b : Word) (cin : Nat) : Word × Core :=
  let sum := a.toNat + b.toNat + cin
  let r := BitVec.ofNat 32 sum
  let v := (!(a.getLsbD 31 != b.getLsbD 31)) && (a.getLsbD 31 != r.getLsbD 31)
  (r, ((c.setNZ r).setFlag fC (decide (2 ^ 32 ≤ sum))).setFlag fV v)

/-- Subtraction: C is 1 when no borrow occurs. -/
def Core.sub (c : Core) (a b : Word) : Word × Core := c.add a (~~~b) 1

/-- A logical result: N and Z, with C and V unchanged. -/
def Core.logic (c : Core) (r : Word) : Word × Core := (r, c.setNZ r)

/-- A shift by n: kinds 0 SHL, 1 SHR, 2 SAR, 3 ROR (13 R467); a count of 0 leaves the value and C. -/
def Core.shift (c : Core) (kind n : Nat) (a : Word) : Word × Core :=
  if n = 0 then (a, c.setNZ a)
  else
    let r : Word := match kind with
      | 0 => a <<< n
      | 1 => a >>> n
      | 2 => a.sshiftRight n
      | _ => a.rotateRight n
    let carry := match kind with
      | 0 => a.getLsbD (32 - n)
      | 3 => r.getLsbD 31
      | _ => a.getLsbD (n - 1)
    (r, (c.setNZ r).setFlag fC carry)

/-- The conditions of Table 13.5. -/
def condHolds (st : Word) (cond : Nat) : Bool :=
  let z := st.getLsbD fZ
  let n := st.getLsbD fN
  let cy := st.getLsbD fC
  let v := st.getLsbD fV
  match cond with
  | 0 => true
  | 1 => z
  | 2 => !z
  | 3 => cy
  | 4 => !cy
  | 5 => n != v
  | 6 => n == v
  | _ => !z && n == v

end Sys2Proof.Machine
end

