-- ==== Sys2Proof/Machine/Ridge.lean ====
section
/-! DEFINITION. The Ridge cores: decoding of both forms, the instructions' effects, traps and entries, and the order and
cycles in which a core issues (13_ridge_isa, 14_core_pipelines). -/

namespace Sys2Proof.Machine

/-! ### Cores (13 Table 13.1, 06 Table 6.2): a core's number is its master identity -/

def coreDie (n : Nat) : Nat := n / 128
def coreUnit (n : Nat) : Nat := n / 8 % 16
def isLane (n : Nat) : Bool := decide (coreDie n < 6) && (coreUnit n == 2 || coreUnit n == 3)
def isWarden (n : Nat) : Bool := n == 6 * 128 + 2 * 8
def isSpur (n : Nat) : Bool :=
  (decide (coreDie n < 6) && (coreUnit n == 4 || coreUnit n == 5)) || ((coreDie n == 6 || coreDie n == 7) && coreUnit n == 3)
def isCore (n : Nat) : Bool := isLane n || isWarden n || isSpur n
/-- The two management spur cores of Col-A (06 R204, 01 R35). -/
def isManager (n : Nat) : Bool := n == 6 * 128 + 3 * 8 || n == 6 * 128 + 3 * 8 + 1

/-- Bits of a word, and words of program memory, of a form. -/
def wordBits (lane : Bool) : Nat := if lane then 12 else 14
def pmWords (lane : Bool) : Nat := if lane then 4096 else 16384

/-! ### Decoding (13 Table 13.6) -/

/-- The operations; `reserved` is every reserved encoding (13 R479). -/
inductive Rop where
  | add | sub | adc | pset | and | or | xor | mov | cmp
  | addi | movi | cmpi | addx | andx | orx | xorx | cmpx | movx | movl | tstx | shv | mulu
  | neg | not | sxtb | sxth | zxtb | zxth
  | shl | shr | sar | ror
  | ld | lds | st | lea
  | br | jmp | call | jmpr | callr | rep | blc | mfc | mtc
  | nop | ret | reti | sync | iflush | halt | brk | trap
  | mul | mac | rdm | wrm
  | movs | fils | scns | macm | macmu | movb | movg
  | guard | pnot | pclr
  | reserved
deriving DecidableEq, Repr

/-- A decoded instruction: the condition or guard bit, two register fields, an immediate, an access size or kind, and
its length in words. -/
structure Ri where
  op : Rop
  cond : Nat
  x : Nat
  y : Nat
  z : Int
  size : Nat
  len : Nat
deriving DecidableEq, Repr

/-- Counts of an immediate shift (13 R463). -/
def shiftCount (code : Nat) : Nat :=
  match code with
  | 0 => 1
  | 1 => 2
  | 2 => 3
  | 3 => 4
  | 4 => 8
  | 5 => 16
  | 6 => 24
  | _ => 31

/-- Is the control register defined for the form (13 Table 13.15)? -/
def ctlDefined (lane : Bool) (n : Nat) : Bool :=
  decide (n ≤ 7) || (!lane && (n == 8 || n == 9)) || (decide (10 ≤ n) && decide (n ≤ 14)) || (lane && n == 15)

/-- The long-immediate and unary group. -/
def decodeLong (lane : Bool) (cond body : Nat) (w : Nat → Nat) : Ri :=
  let n := wordBits lane
  let gd := bitsOf body 4 3
  let s := sext (w 1) n
  let z : Int := w 1
  let one := fun op => (⟨op, cond, gd, 0, 0, 0, 1⟩ : Ri)
  let ext := fun op v => (⟨op, cond, gd, 0, v, 0, 2⟩ : Ri)
  match bitsOf body 0 4 with
  | 0 => ext .addx s
  | 1 => ext .andx s
  | 2 => ext .orx z
  | 3 => ext .xorx z
  | 4 => ext .cmpx s
  | 5 => ext .movx s
  | 6 =>
    let v : Nat := if lane then bitsOf (w 1) 0 8 * 2 ^ 24 + w 2 * 2 ^ 12 + w 3 else bitsOf (w 1) 0 4 * 2 ^ 28 + w 2 * 2 ^ 14 + w 3
    ⟨.movl, cond, gd, 0, (v : Int), 0, 4⟩
  | 7 => ext .tstx z
  | 8 => ⟨.shv, cond, gd, bitsOf (w 1) 0 3, 0, bitsOf (w 1) (n - 2) 2, 2⟩
  | 9 => ⟨.mulu, cond, gd, bitsOf (w 1) 0 3, 0, 0, 2⟩
  | 10 => one .neg
  | 11 => one .not
  | 12 => one .sxtb
  | 13 => one .sxth
  | 14 => one .zxtb
  | _ => one .zxth

/-- The memory group: register 8 and above is a base. -/
def decodeMemory (lane : Bool) (cond body : Nat) (w : Nat → Nat) : Ri :=
  let n := wordBits lane
  let sz := bitsOf (w 1) (n - 2) 2
  let rk := bitAt body 0
  let op := bitsOf body 6 2
  let bad := sz == 3 || (rk && (bitAt body 3 || sz != 2 || op == 1))
  let reg := if rk then 8 + bitsOf body 1 2 else bitsOf body 1 3
  let d := sext (w 1) (n - 2) * (2 ^ sz : Nat)
  let o := match op with
    | 0 => Rop.ld
    | 1 => .lds
    | 2 => .st
    | _ => .lea
  ⟨if bad then .reserved else o, cond, reg, bitsOf body 4 2, d, 2 ^ sz, 2⟩

/-- The control group with a register. -/
def decodeControl (lane : Bool) (cond body : Nat) (w : Nat → Nat) : Ri :=
  let gr := bitsOf body 0 3
  let s := sext (w 1) (wordBits lane)
  let n := bitsOf (w 1) 0 5
  match bitsOf body 3 3 with
  | 0 => ⟨if gr ≠ 0 then .reserved else .jmp, cond, 0, 0, w 1, 0, 2⟩
  | 1 => ⟨if gr ≠ 0 then .reserved else .call, cond, 0, 0, w 1, 0, 2⟩
  | 2 => ⟨.jmpr, cond, gr, 0, 0, 0, 1⟩
  | 3 => ⟨.callr, cond, gr, 0, 0, 0, 1⟩
  | 4 => ⟨.rep, cond, gr, 0, 0, 0, 1⟩
  | 5 => ⟨if gr ≠ 0 then .reserved else .blc, cond, 0, 0, s, 0, 2⟩
  | 6 => ⟨if ctlDefined lane n then .mfc else .reserved, cond, gr, n, 0, 0, 2⟩
  | _ => ⟨if ctlDefined lane n then .mtc else .reserved, cond, gr, n, 0, 0, 2⟩

/-- The miscellaneous group. -/
def decodeMisc (lane : Bool) (cond body : Nat) : Ri :=
  let sub := bitsOf body 0 6
  let mk := fun op x y => (⟨op, cond, x, y, 0, 0, 1⟩ : Ri)
  if sub = 0 then mk .nop 0 0
  else if sub = 1 then mk .ret 0 0
  else if sub = 2 then mk .reti 0 0
  else if sub = 3 then mk .sync 0 0
  else if sub = 4 then mk .iflush 0 0
  else if sub = 5 then mk .halt 0 0
  else if sub = 6 then mk .brk 0 0
  else if 8 ≤ sub ∧ sub < 16 then mk .trap (sub - 8) 0
  else if lane ∧ 0x10 ≤ sub ∧ sub < 0x20 then mk .guard (sub % 8) (sub / 8 % 2)
  else if lane ∧ 0x20 ≤ sub ∧ sub < 0x28 then mk .pnot (sub % 8) 0
  else if lane ∧ 0x28 ≤ sub ∧ sub < 0x30 then mk .pclr (sub % 8) 0
  else mk .reserved 0 0

/-- The multiplier, accumulator, string and base groups. -/
def decodeMult (cond body : Nat) : Ri :=
  let a := bitsOf body 3 3
  let b := bitsOf body 0 3
  match bitsOf body 6 2 with
  | 0 => ⟨.mul, cond, a, b, 0, 0, 1⟩
  | 1 => ⟨.mac, cond, a, b, 0, 0, 1⟩
  | 2 =>
    if bitAt body 5 then
      let sz := bitsOf body 0 2
      let o := match bitsOf body 2 3 with
        | 0 => Rop.movs
        | 1 => .fils
        | 2 => .scns
        | 3 => .macm
        | 4 => .macmu
        | _ => .reserved
      ⟨if sz = 3 then .reserved else o, cond, 0, 0, 0, 2 ^ sz, 1⟩
    else ⟨if bitAt body 4 then .wrm else .rdm, cond, b, bitsOf body 3 1, 0, 0, 1⟩
  | _ => ⟨if bitAt body 5 then .movg else .movb, cond, b, bitsOf body 3 2, 0, 0, 1⟩

/-- The instruction that starts at word 0 of `w`, in either form. -/
def decodeRidge (lane : Bool) (w : Nat → Nat) : Ri :=
  let w0 := w 0
  let body := bitsOf w0 0 11
  let cond := if lane then bitsOf w0 11 1 else bitsOf w0 11 3
  let x := bitsOf body 3 3
  let y := bitsOf body 0 3
  if bitsOf body 9 2 = 0 then
    let o := match bitsOf body 6 3 with
      | 0 => Rop.add
      | 1 => .sub
      | 2 => if lane then .pset else .adc
      | 3 => .and
      | 4 => .or
      | 5 => .xor
      | 6 => .mov
      | _ => .cmp
    ⟨o, cond, x, y, 0, 0, 1⟩
  else match bitsOf body 8 3 with
  | 2 => ⟨if bitAt body 7 then .movi else .addi, cond, bitsOf body 4 3, 0, sext body 4, 0, 1⟩
  | 3 => if bitAt body 7 then decodeLong lane cond body w else ⟨.cmpi, cond, bitsOf body 4 3, 0, sext body 4, 0, 1⟩
  | 4 =>
    let o := match bitsOf body 6 2 with
      | 0 => Rop.shl
      | 1 => .shr
      | 2 => .sar
      | _ => .ror
    ⟨o, cond, x, 0, shiftCount y, 0, 1⟩
  | 5 => decodeMemory lane cond body w
  | 6 =>
    if !bitAt body 7 then ⟨.br, cond, 0, 0, sext body 7, 0, 1⟩
    else if bitAt body 6 then decodeMisc lane cond body
    else decodeControl lane cond body w
  | _ => decodeMult cond body

def Rop.isString : Rop → Bool
  | .movs => true
  | .fils => true
  | .scns => true
  | .macm => true
  | .macmu => true
  | _ => false

/-! ### Registers, with the distances of lane cores (14 R496, R505, R506) -/

/-- (DEDUCED, log 109.) Uses of a register: 0 an operand, 1 the target of JMPR or CALLR, 2 a base, 3 flags by a control transfer, 4 a reader
one cycle behind, 5 LC by BLC, 6 a guard's predicate. -/
def distOf (use kind : Nat) : Nat :=
  match use with
  | 0 => if kind = 1 then 2 else 1
  | 1 => 2
  | 2 => if kind = 2 then 2 else if kind = 3 then 3 else 1
  | 3 => 2
  | 5 => if kind = 4 then 2 else 1
  | 6 => if kind = 4 then 3 else 1
  | _ => 1

/-- The value as the latest writer left it, of those far enough away; newest first. -/
def lateFrom (cyc use : Nat) : List Hist → Nat → Nat
  | [], v => v
  | h :: t, v => if h.cyc + distOf use h.kind ≤ cyc then v else lateFrom cyc use t h.old

/-- Read a resource whose value now is `cur`. -/
def Core.late (c : Core) (use res cur : Nat) : Nat := lateFrom c.cyc use (c.hist.filter fun h => h.res == res) cur

/-- Note a write. -/
def Core.note (c : Core) (res kind old : Nat) : Core :=
  { c with hist := ⟨res, c.cyc, kind, old⟩ :: c.hist.filter fun h => decide (c.cyc < h.cyc + 4) }

def Core.gNow (c : Core) (n : Nat) : Word := Tab.get 0 c.g n
def Core.bNow (c : Core) (n : Nat) : Word := Tab.get 0 c.b n
/-- G[n] as an operand, and as a jump target. -/
def Core.rg (c : Core) (n : Nat) : Word := BitVec.ofNat 32 (c.late 0 n (c.gNow n).toNat)
def Core.rgJump (c : Core) (n : Nat) : Word := BitVec.ofNat 32 (c.late 1 n (c.gNow n).toNat)
/-- B[n] as a base, and as a value. -/
def Core.rb (c : Core) (n : Nat) : Word := BitVec.ofNat 32 (c.late 2 (8 + n) (c.bNow n).toNat)
def Core.setG (c : Core) (n kind : Nat) (v : Word) : Core :=
  { c.note n kind (c.gNow n).toNat with g := Tab.set 0 c.g n v }
def Core.setB (c : Core) (n kind : Nat) (v : Word) : Core :=
  { c.note (8 + n) kind (c.bNow n).toNat with b := Tab.set 0 c.b n v }
def Core.setLC (c : Core) (kind : Nat) (v : Word) : Core := { c.note 12 kind c.lc.toNat with lc := v }
def Core.setP (c : Core) (n : Nat) (v : Bool) : Core :=
  if n = 0 then c else { c.note (16 + n) 4 (bitsOf c.p n 1) with p := putBits c.p n 1 (b2n v) }

/-- An instruction's flags are noted when it changed ST. -/
def Core.noteFlags (c before : Core) : Core := if c.st = before.st then c else c.note 13 0 before.st.toNat

/-! ### MX (14 R498) -/

def mxApply (v : Nat) (w : MxWrite) : Nat :=
  match w.half with
  | 0 => putBits v 0 32 w.val
  | 1 => putBits v 32 32 w.val
  | _ => w.val

def mxInsert (w : MxWrite) : List MxWrite → List MxWrite
  | [] => [w]
  | x :: t => if w.last < x.last ∨ (w.last = x.last ∧ w.half < 2 ∧ x.half = 2) then w :: x :: t else x :: mxInsert w t

/-- MX once everything issued has landed. -/
def Core.mxAll (c : Core) : Nat := c.mxw.foldl mxApply c.mx

/-- MX as an RDM issued now reads it. -/
def Core.mxSeen (c : Core) : Nat := (c.mxw.filter fun w => decide (w.last < c.cyc)).foldl mxApply c.mx

/-- Let landed writes settle. -/
def Core.settle (c : Core) : Core := { c with mx := c.mxSeen, mxw := c.mxw.filter fun w => decide (c.cyc ≤ w.last) }

/-- A multiply-class result, issued now. -/
def Core.mulWrite (c : Core) (v : Nat) : Core := { c with mxw := mxInsert ⟨c.cyc + 2, 2, v % 2 ^ 64⟩ c.mxw }

/-- Multiply-accumulate; MO is sticky (13 Table 13.11). -/
def Core.accum (c : Core) (signed : Bool) (a b : Int) : Core :=
  if signed then
    let v := sext c.mxAll 64 + a * b
    let c' := c.mulWrite (wrapInt v 64)
    if v < -(2 ^ 63 : Nat) ∨ (2 ^ 63 : Nat) ≤ v then c'.setFlag fMO true else c'
  else
    let v := (c.mxAll : Int) + a * b
    let c' := c.mulWrite (wrapInt v 64)
    if (2 ^ 64 : Nat) ≤ v then c'.setFlag fMO true else c'

/-! ### Control registers (13 Table 13.15, R480, R481) -/

def Core.ctlAt (c : Core) (n : Nat) : Word := Tab.get 0 c.ctl n
def Core.setCtl (c : Core) (n : Nat) (v : Word) : Core := { c with ctl := Tab.set 0 c.ctl n v }

/-- Pending control register writes come into force. -/
def Core.syncCtl (c : Core) : Core :=
  { c with ctl := c.pend.foldl (fun t e => match e.2 with | some v => Tab.set 0 t e.1 v | none => t) c.ctl, pend := [] }

/-- The lines pending at the core: TIMER at 0 is line 9 (13 Table 13.14). -/
def Core.pendingLines (c : Core) : Nat := if c.ctlAt 7 = 0 then setBit c.lines 9 else clearBit c.lines 9

def Core.loopOff (c : Core) : Core := { c with loop := LoopBuf.reset }

/-- The word after a program memory access: PMA counts up and wraps. -/
def Core.bumpPma (c : Core) (lane : Bool) : Core :=
  c.setCtl 10 (BitVec.ofNat 32 (((c.ctlAt 10).toNat + 1) % pmWords lane))

/-- A PMA or PMD access takes the instruction port for a cycle, in which the decode window is not refilled, and leaves the loop buffer
(14 R503, R514). -/
def Core.portUsed (c : Core) : Core := { c.loopOff with winCyc := c.winCyc + 1 }

/-- MFC: the value, and the core after it (DEDUCED, log 69). -/
def Core.mfc (c : Core) (key n : Nat) : Word × Core :=
  match n with
  | 0 => (c.st, c)
  | 1 => (c.lc, c)
  | 5 => (BitVec.ofNat 32 c.pendingLines, c)
  | 6 => (0, c)
  | 10 => (c.ctlAt 10, c.portUsed)
  | 11 => (BitVec.ofNat 32 (Tab.get 0 c.pmem (c.ctlAt 10).toNat), (c.bumpPma (isLane key)).portUsed)
  | 14 => (BitVec.ofNat 32 key, c)
  | 15 => (BitVec.ofNat 32 c.p, c)
  | n => ((Tab.get none c.pend n).getD (c.ctlAt n), c)

/-- The bits of ST that a form has. -/
def stMask (lane : Bool) : Word := if lane then 0xF1F7F else 0x1F7F

/-- MTC: fields a form has not are ignored, as are read-only registers. -/
def Core.mtc (c : Core) (key n : Nat) (v : Word) : Core :=
  let lane := isLane key
  match n with
  | 0 => { (c.note 24 4 (bitsOf c.st.toNat 16 4)).note 13 0 c.st.toNat with st := v &&& stMask lane }
  | 1 => c.setLC 4 v
  | 2 => { c with pend := Tab.set none c.pend 2 (some v) }
  | 3 => { c with pend := Tab.set none c.pend 3 (some (v &&& ~~~1#32)) }
  | 4 => { c with pend := Tab.set none c.pend 4 (some (v &&& 0xFFFF#32)) }
  | 6 => { c with lines := c.lines ||| v.toNat % 256 }
  | 7 => c.setCtl 7 v
  | 8 => { c with pend := Tab.set none c.pend 8 (some (v &&& 0x80000000#32)) }
  | 9 => { c with pend := Tab.set none c.pend 9 (some v) }
  | 10 => (c.setCtl 10 (BitVec.ofNat 32 (v.toNat % pmWords lane))).portUsed
  | 11 =>
    let a := (c.ctlAt 10).toNat
    let old := Tab.get 0 c.pmem a
    let w := v.toNat % 2 ^ wordBits lane
    let c := { c with
      pmem := Tab.set 0 c.pmem a w
      stale := if (Tab.get none c.stale a).isSome then c.stale else Tab.set none c.stale a (some old) }
    (c.bumpPma lane).portUsed
  | 15 =>
    let c' := (List.range 8).foldl (fun c n => if n = 0 then c else c.note (16 + n) 4 (bitsOf c.p n 1)) c
    { c' with p := v.toNat % 256 ||| 1 }
  | _ => c

/-! ### Data memory (13 R458, R459) -/

/-- Where a data access goes. -/
inductive Place where
  | near
  | far (addr : Nat)
  | bad
deriving DecidableEq, Repr

/-- The device address of a far access (13 R459). -/
def Core.farAddr (c : Core) (a : Nat) : Nat :=
  (c.ctlAt 9).toNat * 2 ^ 32 + (c.ctlAt 8).toNat / 2 ^ 31 % 2 * 2 ^ 31 + a % 2 ^ 31

def Core.place (c : Core) (lane : Bool) (a size : Nat) : Place :=
  if a % size ≠ 0 then .bad
  else if a < 0x10000 then .near
  else if !lane ∧ 0x80000000 ≤ a then .far (c.farAddr a)
  else .bad

def Core.loadNear (c : Core) (a size : Nat) : Nat := leNat (Tab.getMany 0 c.dmem a size)

/-- How a store ends. -/
inductive Stored where
  | ok (c : Core)
  | bad
  | full
deriving DecidableEq, Repr

/-- Posted far stores a core holds (14 R500). -/
abbrev maxPosted : Nat := 8

def Core.store (c : Core) (lane : Bool) (a size v : Nat) : Stored :=
  match c.place lane a size with
  | .near => .ok { c with dmem := Tab.setMany 0 c.dmem a (leBytes v size) }
  | .far d =>
    if maxPosted ≤ c.posted.length then .full else .ok { c with posted := c.posted ++ [⟨a, d, leBytes v size⟩] }
  | .bad => .bad

/-! ### Traps and entries (13 R470, R471, R475, R477; 14 R510, R511) -/

abbrev vRSVD : Nat := 1
abbrev vSTACK : Nat := 2
abbrev vADDR : Nat := 3
abbrev vPROT : Nat := 4
abbrev vBUS : Nat := 5
abbrev vBRK : Nat := 6

/-- The stop of a core that cannot push a frame; on a lane core it ends the invocation. -/
def Core.stackStop (c : Core) (lane : Bool) : Core :=
  { c.loopOff with stopped := true, done := if lane then 2 else c.done }

/-- Push a frame and go to a vector (13 R471, R475); the first instruction of the handler issues 7 cycles on (DEDUCED, log 63; DEDUCED, log 65). -/
def Core.enter (c : Core) (lane : Bool) (vec saved : Nat) (st : Word) : Core :=
  let c := c.syncCtl.loopOff
  let s1 := (c.bNow 3).toNat + 2 ^ 32 - 4
  let s2 := (c.bNow 3).toNat + 2 ^ 32 - 8
  let lim := (c.ctlAt 2).toNat - 16
  if s1 % 2 ^ 32 < lim ∨ s2 % 2 ^ 32 < lim then c.stackStop lane
  else match c.store lane (s1 % 2 ^ 32) 4 st.toNat with
  | .ok c => match c.store lane (s2 % 2 ^ 32) 4 saved with
    | .ok c =>
      let c := { c with b := Tab.set 0 c.b 3 (BitVec.ofNat 32 (s2 % 2 ^ 32)), pc := ((c.ctlAt 3).toNat + 2 * vec) % pmWords lane }
      { c with rep := 0, inRep := false, slot := none, free := c.free + 5, winEnd := c.pc / 4 * 4 + 4, winCyc := c.free + 5 }
    | _ => c.stackStop lane
  | _ => c.stackStop lane

/-- The far interface has room for a frame, if SP lies in the far window (14 R500). -/
def Core.frameFits (c : Core) : Bool := decide ((c.bNow 3).toNat < 0x80000000) || decide (c.posted.length + 2 ≤ maxPosted)

/-- The frame's ST: RPT says that a repetition is in progress at the saved PC, its first element included (DEDUCED, log 70). -/
def Core.frameSt (c : Core) : Word := (c.setFlag fRPT (c.inRep || c.rep == 1)).st

/-- A precise trap; a lane core's ends its invocation (13 R475, R478). -/
def Core.trapTo (c : Core) (key vec saved : Nat) (xaddr : Option Nat) : Core :=
  let lane := isLane key
  let c := match xaddr with
    | some a => c.setCtl 12 (BitVec.ofNat 32 a)
    | none => c
  let c := c.setCtl 13 (BitVec.ofNat 32 (2 * vec))
  if lane then { c with stopped := true, done := 2, slot := none }
  else { (c.enter lane vec saved c.frameSt) with entry := none }

/-- IPL of ST. -/
def Core.ipl (c : Core) : Nat := bitsOf c.st.toNat 8 5

/-- The highest line that qualifies at a level (13 R477). -/
def Core.bestLine (c : Core) (ipl : Nat) : Option Nat :=
  (List.range 16).reverse.find? fun n =>
    c.flagAt fIE && bitAt (c.ctlAt 4).toNat n && bitAt c.pendingLines n && decide (ipl ≤ n)

def Core.setIpl (c : Core) (v : Nat) : Core := { c with st := BitVec.ofNat 32 (putBits c.st.toNat 8 5 v) }

/-- Enter line `n`: a software line is cleared by it. -/
def Core.takeLine (c : Core) (n : Nat) : Core :=
  let old := c.ipl
  let a := c.free
  let c' := c.enter false (16 + n) c.pc c.frameSt
  if c'.stopped then c'
  else
    let c' := (c'.setIpl (n + 1)).setFlag fRPT false
    { c' with
      lines := if n < 8 then clearBit c'.lines n else c'.lines
      halted := false
      entry := some ⟨old, n, a⟩ }

/-! ### One instruction -/

/-- What executing an instruction comes to: the core with its PC moved, and its issue cycles; a trap, with the saved PC
and the data address; or a wait, without effect. -/
inductive REnd where
  | go (c : Core) (cost : Nat)
  | trap (c : Core) (vec saved : Nat) (xaddr : Option Nat)
  | hold
deriving DecidableEq, Repr

/-- PC arithmetic wraps (13 R456). -/
def pcWrap (lane : Bool) (a : Int) : Nat := (a % (pmWords lane : Nat)).toNat

/-- The body of a loop: short, and free of what ends a capture (14 R501). -/
def loopBody (lane : Bool) (w : Nat → Nat) : Nat → Nat → Nat → Bool
  | 0, a, last => decide (last ≤ a)
  | n + 1, a, last =>
    if last ≤ a then true
    else
      let i := decodeRidge lane fun j => w (a + j)
      let bad := match i.op with
        | .call => true
        | .callr => true
        | .jmpr => true
        | .ret => true
        | .reti => true
        | .halt => true
        | .brk => true
        | .trap => true
        | .iflush => true
        | .mfc => i.y == 10 || i.y == 11
        | .mtc => i.y == 10 || i.y == 11
        | _ => false
      !bad && loopBody lane w n (a + i.len) last

/-- A taken transfer to `tgt`: cycles, the decode window, and the loop buffer of spur and warden cores. -/
def Core.jump (c : Core) (lane : Bool) (i : Ri) (tgt cost : Nat) : REnd :=
  let w := fun a => Tab.get 0 c.pmem a
  let last := c.pc + i.len
  let same := c.loop.target == tgt && c.loop.branch == c.pc
  let isLoop := !lane && (i.op == .br || i.op == .blc) && decide (tgt < c.pc) && decide (last - tgt ≤ 32)
  let running := c.loop.phase == 2
  let (lb, cost) :=
    if isLoop && same && running then (c.loop, 1)
    else if isLoop && same && c.loop.phase == 1 then ({ c.loop with phase := 2 }, cost)
    else
      let cost := if running then cost + 1 else cost
      if isLoop && loopBody lane w 33 tgt last then (⟨1, tgt, c.pc, []⟩, cost) else (LoopBuf.reset, cost)
  let at_ := c.cyc + cost
  .go { c with
    pc := tgt
    loop := lb
    winEnd := if lb.phase = 2 ∧ running then tgt + 64 else tgt / 4 * 4 + 4
    winCyc := at_ } cost

/-- A transfer not taken: the loop's own branch ends the capture, and leaving the buffer costs a cycle more (14 R501, R503). -/
def Core.fall (c : Core) (next : Nat) : REnd :=
  if c.loop.branch = c.pc then .go { c.loopOff with pc := next } (if c.loop.phase = 2 then 2 else 1) else .go { c with pc := next } 1

/-- A push that checks the limit (13 R470). -/
def Core.push (c : Core) (lane : Bool) (v : Nat) : Except (Option (Nat × Option Nat)) Core :=
  let s := ((c.bNow 3).toNat + 2 ^ 32 - 4) % 2 ^ 32
  if s < (c.ctlAt 2).toNat then .error (some (vSTACK, none))
  else match c.store lane s 4 v with
  | .ok c => .ok (c.setB 3 0 (BitVec.ofNat 32 s))
  | .bad => .error (some (vADDR, some s))
  | .full => .error none

/-- CALL and CALLR. -/
def Core.callTo (c : Core) (lane : Bool) (i : Ri) (next tgt : Nat) : REnd :=
  match c.push lane next with
  | .ok c' => c'.jump lane i tgt 2
  | .error (some (v, x)) => .trap c v c.pc x
  | .error none => .hold

/-- RET with the popped word: 0x0000FFFF ends a lane invocation (13 R472). -/
def Core.retWith (c : Core) (lane : Bool) (i : Ri) (w : Nat) : REnd :=
  let c := c.setB 3 0 (c.bNow 3 + 4)
  if lane ∧ w = 0xFFFF ∧ c.invoc.isSome then .go { c.loopOff with stopped := true, done := 1 } 3
  else c.jump lane i (w % pmWords lane) 3

/-- RETI with the popped words: a restored RPT goes on with the repetition (13 R474). -/
def Core.retiWith (c : Core) (lane : Bool) (i : Ri) (w st : Nat) : REnd :=
  let c := { c.syncCtl.setB 3 0 (c.bNow 3 + 8) with st := BitVec.ofNat 32 st &&& stMask lane }
  let rpt := c.flagAt fRPT
  let c := c.setFlag fRPT false
  match c.jump lane i (w % pmWords lane) 4 with
  | .go c n => .go { c with inRep := rpt } n
  | r => r

/-- A load outstanding from the far window. -/
def Core.waitFar (c : Core) (kind reg : Nat) (sign : Bool) (size eff addr : Nat) : REnd :=
  .go { c with farLoad := some ⟨kind, reg, sign, size, eff, addr⟩ } 1

/-- Write a loaded value to its register. -/
def Core.loaded (c : Core) (reg : Nat) (sign : Bool) (size v : Nat) (far : Bool) : Core :=
  let w : Word := if sign then BitVec.ofInt 32 (sext v (8 * size)) else BitVec.ofNat 32 v
  if reg < 8 then c.setG reg (if far then 0 else 1) w else c.setB (reg - 8) (if far then 0 else 3) w

/-- An element of a string instruction done: the bases advance. -/
def Core.advance (c : Core) (b0 b1 : Bool) (size : Nat) : Core :=
  let c := if b0 then c.setB 0 0 (c.bNow 0 + BitVec.ofNat 32 size) else c
  if b1 then c.setB 1 0 (c.bNow 1 + BitVec.ofNat 32 size) else c

/-- SCNS with its loaded value. -/
def Core.scanned (c : Core) (size v : Nat) : Core :=
  let hit := v == (c.gNow 0).toNat % 2 ^ (8 * size)
  ((c.setFlag fZ hit).note 13 0 c.st.toNat).advance true false size

/-- One element (13 Table 13.11, R469) (DEDUCED, log 70). -/
def Core.element (c : Core) (lane : Bool) (i : Ri) : REnd :=
  let a := (c.rb 0).toNat
  let b := (c.rb 1).toNat
  let n := i.size
  let bad := fun x => REnd.trap c vADDR c.pc (some x)
  match i.op with
  | .movs =>
    match c.place lane a n with
    | .bad => bad a
    | .far d => if c.place lane b n = .bad then bad b else c.waitFar 1 0 false n a d
    | .near => match c.store lane b n (c.loadNear a n) with
      | .ok c => .go (c.advance true true n) 1
      | .bad => bad b
      | .full => .hold
  | .fils =>
    match c.store lane b n (c.rg 0).toNat with
    | .ok c => .go (c.advance false true n) 1
    | .bad => bad b
    | .full => .hold
  | .scns =>
    match c.place lane a n with
    | .bad => bad a
    | .far d => c.waitFar 2 0 false n a d
    | .near => .go (c.scanned n (c.loadNear a n)) 1
  | _ =>
    if c.place lane a n ≠ .near then bad a
    else if c.place lane b n ≠ .near then bad b
    else
      let x := c.loadNear a n
      let y := c.loadNear b n
      let s := i.op == .macm
      let c' := if s then c.accum true (sext x (8 * n)) (sext y (8 * n)) else c.accum false x y
      .go (c'.advance true true n) (if a < 0x8000 ∧ 0x8000 ≤ b then 1 else 2)

/-- After an element of a repetition: LC counts, and the repetition goes on or ends; its end costs two cycles more
(13 R473, 14 R499). -/
def Core.repeated (c : Core) (i : Ri) (next cost : Nat) : REnd :=
  let c := c.setLC 0 (c.lc - 1)
  if c.lc = 0 ∨ (i.op = .scns ∧ c.flagAt fZ) then .go { c with pc := next, rep := 0, inRep := false } (cost + 2)
  else .go { c with rep := 0, inRep := true } cost

/-- A string instruction whose condition holds. -/
def Core.string (c : Core) (lane : Bool) (i : Ri) (next : Nat) : REnd :=
  if c.rep = 1 ∨ c.inRep then
    if c.lc = 0 then .go { c with pc := next, rep := 0, inRep := false } 1
    else match c.element lane i with
    | .go c' n => if c'.farLoad.isSome then .go c' n else c'.repeated i next n
    | r => r
  else match c.element lane i with
  | .go c' n => if c'.farLoad.isSome then .go c' n else .go { c' with pc := next } n
  | r => r

/-- The ALU, immediate, unary, shift, multiplier and move instructions: the result to G[x] or none, and the core. -/
def Core.alu (c : Core) (i : Ri) : Option Word × Core :=
  let a := c.rg i.x
  let b := c.rg i.y
  let e := BitVec.ofInt 32 i.z
  let keep := fun (r : Word × Core) => (some r.1, r.2)
  let drop := fun (r : Word × Core) => ((none : Option Word), r.2)
  match i.op with
  | .add => keep (c.add a b 0)
  | .sub => keep (c.sub a b)
  | .adc => keep (c.add a b (b2n (c.flagAt fC)))
  | .and => keep (c.logic (a &&& b))
  | .or => keep (c.logic (a ||| b))
  | .xor => keep (c.logic (a ^^^ b))
  | .mov => (some b, c)
  | .cmp => drop (c.sub a b)
  | .addi => keep (c.add a e 0)
  | .movi => (some e, c)
  | .cmpi => drop (c.sub a e)
  | .addx => keep (c.add a e 0)
  | .andx => keep (c.logic (a &&& e))
  | .orx => keep (c.logic (a ||| e))
  | .xorx => keep (c.logic (a ^^^ e))
  | .cmpx => drop (c.sub a e)
  | .movx => (some e, c)
  | .movl => (some e, c)
  | .tstx => drop (c.logic (a &&& e))
  | .shv => keep (c.shift i.size (b.toNat % 32) a)
  | .neg => keep (c.sub 0 a)
  | .not => keep (c.logic (~~~a))
  | .sxtb => (some (BitVec.ofInt 32 (sext a.toNat 8)), c)
  | .sxth => (some (BitVec.ofInt 32 (sext a.toNat 16)), c)
  | .zxtb => (some (a &&& 0xFF#32), c)
  | .zxth => (some (a &&& 0xFFFF#32), c)
  | .shl => keep (c.shift 0 i.z.toNat a)
  | .shr => keep (c.shift 1 i.z.toNat a)
  | .sar => keep (c.shift 2 i.z.toNat a)
  | .ror => keep (c.shift 3 i.z.toNat a)
  | .rdm => (some (BitVec.ofNat 32 (bitsOf c.mxSeen (32 * i.y) 32)), c)
  | .movg => (some (c.bNow i.y), c)
  | _ => (none, c)

/-- The memory instructions (13 Table 13.9). -/
def Core.memory (c : Core) (lane : Bool) (i : Ri) (next : Nat) : REnd :=
  let a := ((c.rb i.y) + BitVec.ofInt 32 i.z).toNat
  let reg := if i.x < 8 then c.rg i.x else c.bNow (i.x - 8)
  match i.op with
  | .lea =>
    let v := BitVec.ofNat 32 a
    let c := if i.x < 8 then c.setG i.x 0 v else c.setB (i.x - 8) 0 v
    .go { c with pc := next } 1
  | .st =>
    match c.store lane a i.size reg.toNat with
    | .ok c => .go { c with pc := next } 1
    | .bad => .trap c vADDR c.pc (some a)
    | .full => .hold
  | _ =>
    match c.place lane a i.size with
    | .near => .go { c.loaded i.x (i.op == .lds) i.size (c.loadNear a i.size) false with pc := next } 1
    | .far d => c.waitFar 0 i.x (i.op == .lds) i.size a d
    | .bad => .trap c vADDR c.pc (some a)

/-- The effect of an instruction whose condition or guard holds. -/
def Core.effect (c : Core) (key : Nat) (i : Ri) (next : Nat) : REnd :=
  let lane := isLane key
  let on := fun (c : Core) (n : Nat) => REnd.go { c with pc := next } n
  let s := c.bNow 3
  match i.op with
  | .pset => on (c.setP i.x (condHolds c.st i.y)) 1
  | .mulu => on (c.mulWrite ((c.rg i.x).toNat * (c.rg i.y).toNat)) 1
  | .mul => on (c.mulWrite (wrapInt ((c.rg i.x).toInt * (c.rg i.y).toInt) 64)) 1
  | .mac => on (c.accum true (c.rg i.x).toInt (c.rg i.y).toInt) 1
  | .wrm => on { c with mxw := mxInsert ⟨c.cyc, i.y, (c.rg i.x).toNat⟩ c.mxw } 1
  | .movb => on (c.setB i.y 2 (c.rg i.x)) 1
  | .ld => c.memory lane i next
  | .lds => c.memory lane i next
  | .st => c.memory lane i next
  | .lea => c.memory lane i next
  | .br => c.jump lane i (pcWrap lane (next + i.z)) 2
  | .jmp => c.jump lane i (pcWrap lane i.z) 2
  | .call => c.callTo lane i next (pcWrap lane i.z)
  | .jmpr => c.jump lane i ((c.rgJump i.x).toNat % pmWords lane) 2
  | .callr => c.callTo lane i next ((c.rgJump i.x).toNat % pmWords lane)
  | .rep => on { c.setLC 0 (c.rg i.x) with rep := 1 } 1
  | .blc =>
    let lc := BitVec.ofNat 32 (c.late 5 12 c.lc.toNat) - 1
    let c := c.setLC 4 lc
    if lc ≠ 0 then c.jump lane i (pcWrap lane (next + i.z)) 2 else c.fall next
  | .mfc =>
    let r := c.mfc key i.y
    on (r.2.setG i.x 0 r.1) 1
  | .mtc => on (c.mtc key i.y (c.rg i.x)) 1
  | .nop => on c 1
  | .ret =>
    match c.place lane s.toNat 4 with
    | .near => c.retWith lane i (c.loadNear s.toNat 4)
    | .far d => c.waitFar 3 0 false 4 s.toNat d
    | .bad => .trap c vADDR c.pc (some s.toNat)
  | .reti =>
    if !c.posted.isEmpty then .hold
    else
      let c := c.syncCtl
      match c.place lane s.toNat 4, c.place lane (s + 4).toNat 4 with
      | .near, .near => c.retiWith lane i (c.loadNear s.toNat 4) (c.loadNear (s + 4).toNat 4)
      | .far d, .far _ => c.waitFar 4 0 false 8 s.toNat d
      | .far d, .near => c.waitFar 5 0 false 4 s.toNat d
      | .bad, _ => .trap c vADDR c.pc (some s.toNat)
      | _, _ => .trap c vADDR c.pc (some (s + 4).toNat)
  | .sync => if c.posted.isEmpty then on c.syncCtl (if lane then 4 else 1) else .hold
  | .iflush => on { c.loopOff with stale := [], winEnd := next / 4 * 4 + 4, winCyc := c.cyc + 3 } 3
  | .halt => on { c.loopOff with halted := true } 1
  | .brk => .trap c vBRK next none
  | .trap => .trap c (8 + i.x) next none
  | .guard => on { c.note 24 0 (bitsOf c.st.toNat 16 4) with st := BitVec.ofNat 32 (putBits c.st.toNat 16 4 (i.x + 8 * i.y)) } 1
  | .pnot => on (c.setP i.x (!bitAt c.p i.x)) 1
  | .pclr => on (c.setP i.x false) 1
  | .reserved => .trap c vRSVD c.pc none
  | op =>
    if op.isString then c.string lane i next
    else
      let r := c.alu i
      let c' := r.2.noteFlags c
      match r.1 with
      | some v => on (c'.setG i.x 0 v) (if op = .movl then 2 else 1)
      | none => on c' 1

/-! ### Conditions, issue and pairing (13 R461, R462; 14 R492 to R497) -/

/-- Does the condition or the guard hold? -/
def Core.holds (c : Core) (lane : Bool) (i : Ri) : Bool :=
  if lane then
    if i.cond = 0 then true
    else
      let sel := c.late 6 24 (bitsOf c.st.toNat 16 4)
      let p := sel % 8
      let v := if p = 0 then 1 else c.late 6 (16 + p) (bitsOf c.p p 1)
      (v == 1) != (sel / 8 == 1)
  else condHolds c.st i.cond

/-- Pairing classes of Table 14.2: 0 A, 1 M, 2 X, 3 B, 4 S. -/
def Rop.cls : Rop → Nat
  | .ld => 1
  | .lds => 1
  | .st => 1
  | .mul => 2
  | .mulu => 2
  | .mac => 2
  | .rdm => 2
  | .wrm => 2
  | .br => 3
  | .blc => 3
  | .jmp => 3
  | .call => 4
  | .callr => 4
  | .jmpr => 4
  | .ret => 4
  | .reti => 4
  | .rep => 4
  | .movs => 4
  | .fils => 4
  | .scns => 4
  | .macm => 4
  | .macmu => 4
  | .movl => 4
  | .mfc => 4
  | .mtc => 4
  | .sync => 4
  | .iflush => 4
  | .halt => 4
  | .brk => 4
  | .trap => 4
  | .guard => 4
  | .pnot => 4
  | .pclr => 4
  | .pset => 4
  | .reserved => 4
  | _ => 0

/-- Registers an instruction reads, each with its use. -/
def Ri.reads (lane : Bool) (i : Ri) : List (Nat × Nat) :=
  let control := match i.op with
    | .br => true
    | .blc => true
    | .jmp => true
    | .call => true
    | .jmpr => true
    | .callr => true
    | _ => false
  let cond := if lane ∨ i.cond = 0 then [] else [(13, if control then 3 else 4)]
  let xs : List (Nat × Nat) := match i.op with
    | .add => [(i.x, 0), (i.y, 0)]
    | .sub => [(i.x, 0), (i.y, 0)]
    | .adc => [(i.x, 0), (i.y, 0), (13, 4)]
    | .and => [(i.x, 0), (i.y, 0)]
    | .or => [(i.x, 0), (i.y, 0)]
    | .xor => [(i.x, 0), (i.y, 0)]
    | .mov => [(i.y, 0)]
    | .cmp => [(i.x, 0), (i.y, 0)]
    | .shv => [(i.x, 0), (i.y, 0)]
    | .mulu => [(i.x, 0), (i.y, 0)]
    | .mul => [(i.x, 0), (i.y, 0)]
    | .mac => [(i.x, 0), (i.y, 0), (14, 4), (15, 4)]
    | .movi => []
    | .movx => []
    | .movl => []
    | .ld => [(8 + i.y, 2)]
    | .lds => [(8 + i.y, 2)]
    | .lea => [(8 + i.y, 2)]
    | .st => [(8 + i.y, 2), (i.x, if i.x < 8 then 0 else 4)]
    | .jmpr => [(i.x, 1)]
    | .callr => [(i.x, 1)]
    | .rep => [(i.x, 0)]
    | .blc => [(12, 5)]
    | .mtc => [(i.x, 0)]
    | .mfc => if i.y = 0 then [(13, 4)] else if i.y = 1 then [(12, 4)] else []
    | .rdm => [(14 + i.y, 4)]
    | .wrm => [(i.x, 0)]
    | .movb => [(i.x, 0)]
    | .movg => [(8 + i.y, 4)]
    | .movs => [(8, 2), (9, 2)]
    | .fils => [(9, 2), (0, 0)]
    | .scns => [(8, 2), (0, 0)]
    | .macm => [(8, 2), (9, 2)]
    | .macmu => [(8, 2), (9, 2)]
    | .addi => [(i.x, 0)]
    | .cmpi => [(i.x, 0)]
    | .addx => [(i.x, 0)]
    | .andx => [(i.x, 0)]
    | .orx => [(i.x, 0)]
    | .xorx => [(i.x, 0)]
    | .cmpx => [(i.x, 0)]
    | .tstx => [(i.x, 0)]
    | .neg => [(i.x, 0)]
    | .not => [(i.x, 0)]
    | .sxtb => [(i.x, 0)]
    | .sxth => [(i.x, 0)]
    | .zxtb => [(i.x, 0)]
    | .zxth => [(i.x, 0)]
    | .shl => [(i.x, 0)]
    | .shr => [(i.x, 0)]
    | .sar => [(i.x, 0)]
    | .ror => [(i.x, 0)]
    | _ => []
  cond ++ xs

/-- Registers that an instruction of class A, M, X or B writes. -/
def Ri.writes (i : Ri) : List Nat :=
  match i.op with
  | .add => [i.x, 13]
  | .sub => [i.x, 13]
  | .adc => [i.x, 13]
  | .and => [i.x, 13]
  | .or => [i.x, 13]
  | .xor => [i.x, 13]
  | .mov => [i.x]
  | .cmp => [13]
  | .addi => [i.x, 13]
  | .movi => [i.x]
  | .cmpi => [13]
  | .addx => [i.x, 13]
  | .andx => [i.x, 13]
  | .orx => [i.x, 13]
  | .xorx => [i.x, 13]
  | .cmpx => [13]
  | .movx => [i.x]
  | .tstx => [13]
  | .shv => [i.x, 13]
  | .neg => [i.x, 13]
  | .not => [i.x, 13]
  | .sxtb => [i.x]
  | .sxth => [i.x]
  | .zxtb => [i.x]
  | .zxth => [i.x]
  | .shl => [i.x, 13]
  | .shr => [i.x, 13]
  | .sar => [i.x, 13]
  | .ror => [i.x, 13]
  | .lea => [i.x]
  | .ld => [i.x]
  | .lds => [i.x]
  | .movb => [8 + i.y]
  | .movg => [i.x]
  | .mul => [14, 15]
  | .mulu => [14, 15]
  | .mac => [14, 15]
  | .rdm => [i.x]
  | .wrm => [14 + i.y]
  | .blc => [12]
  | _ => []

/-- The first cycle at which the operands of an instruction are ready: only spur and warden cores wait for them. -/
def Core.readyAt (c : Core) (lane : Bool) (i : Ri) : Nat :=
  if lane then 0
  else ((i.reads lane).map fun r =>
    match c.hist.find? fun h => h.res == r.1 with
    | some h => h.cyc + distOf r.2 h.kind
    | none => 0).foldl max 0

/-- The first cycle at which every word of an instruction is in the decode window. -/
def Core.windowAt (c : Core) (i : Ri) : Nat :=
  if c.pc + i.len ≤ c.winEnd then c.winCyc else c.winCyc + (c.pc + i.len - c.winEnd + 3) / 4

/-- The cycle in which the instruction issues, and whether it is slot 1 of a pair. -/
def Core.issue (c : Core) (lane : Bool) (i : Ri) : Nat × Bool :=
  let t := max (c.readyAt lane i) (c.windowAt i)
  match c.slot with
  | some s =>
    let k := i.op.cls
    if !lane ∧ k ≤ 3 ∧ t ≤ c.cyc ∧ !(k == s.cls && (k == 1 || k == 2)) ∧
        !((i.reads lane).any fun r => s.writes.contains r.1) ∧ !(i.writes.any fun r => s.writes.contains r) then (c.cyc, true)
    else (max c.free t, false)
  | none => (max c.free t, false)

/-- Time passes to cycle `u`: TIMER counts down (13 Table 13.15). -/
def Core.reach (c : Core) (u : Nat) : Core :=
  let t := (c.ctlAt 7).toNat - (u - c.cyc)
  { c with cyc := u, ctl := Tab.set 0 c.ctl 7 (BitVec.ofNat 32 t) }

/-- The word at a program address as the instruction port returns it: from the loop buffer, or from program memory, where
a word changed since the last IFLUSH may still read as it was (13 R481, 14 R502). -/
def Core.fetch (c : Core) (lane : Bool) (choice a : Nat) : Nat :=
  let a := a % pmWords lane
  let mem := match Tab.get none c.stale a with
    | some old => if bitAt choice (a % 16) then old else Tab.get 0 c.pmem a
    | none => Tab.get 0 c.pmem a
  if c.loop.phase = 2 then (Tab.get none c.loop.words a).getD mem else mem

/-- The instruction at PC. -/
def Core.current (c : Core) (key choice : Nat) : Ri :=
  decodeRidge (isLane key) fun j => c.fetch (isLane key) choice (c.pc + j)

/-- Words fetched while a loop is captured go into the buffer. -/
def Core.capture (c : Core) (lane : Bool) (choice : Nat) (i : Ri) : Core :=
  if c.loop.phase = 1 then
    let put := fun (t : Tab (Option Nat)) (j : Nat) =>
      Tab.set none t ((c.pc + j) % pmWords lane) (some (c.fetch lane choice (c.pc + j)))
    { c with loop := { c.loop with words := (List.range i.len).foldl put c.loop.words } }
  else c

/-- Does a pending line that IMASK lets through end a HALT without entry, since IE or IPL keeps it out (13 Table 13.10)?  A
kernel on a lane core has no lines (13 R478). -/
def Core.wakes (c : Core) : Bool :=
  c.invoc.isNone && (c.pendingLines &&& (c.ctlAt 4).toNat) % 65536 != 0 && (c.bestLine c.ipl).isNone

/-- May the core issue?  An error that has arrived is taken first, at an instruction boundary (13 R476). -/
def Core.runs (c : Core) : Bool :=
  !c.stopped && (!c.halted || c.wakes) && c.farLoad.isNone && (c.errs.isEmpty || c.inRep || c.rep != 0)

/-- The cycles of the instruction are known: the next may issue from then on. -/
def Core.issued (c : Core) (i : Ri) (u cost oldFree : Nat) (paired lane : Bool) : Core :=
  { c with
    free := if paired then max oldFree (u + cost) else u + cost
    slot := if !paired && !lane && decide (i.op.cls < 3) then some ⟨i.op.cls, i.writes⟩ else none }

/-- One instruction, or one element of a repetition; nothing when the core cannot issue or the instruction waits. -/
def Core.step (c : Core) (key choice : Nat) : Core :=
  if !c.runs then c
  else
    let lane := isLane key
    let i := c.current key choice
    let next := (c.pc + i.len) % pmWords lane
    let (u, paired) := c.issue lane i
    let c1 := ({ (c.reach u).settle with entry := none, halted := false }).capture lane choice i
    let misplaced := (c.rep != 0 || c.inRep) && !i.op.isString
    if i.op = .reserved ∨ misplaced then (if lane || c.frameFits then Core.trapTo { c1 with rep := 0 } key vRSVD c.pc none else c)
    else if c.rep = 2 then { c1 with pc := next, rep := 0, free := u + 1, slot := none }
    else if !c.inRep ∧ !c1.holds lane i then
      let c2 : Core × Nat := match i.op with
        | .br => match c1.fall next with
          | .go c n => (c, n)
          | _ => ({ c1 with pc := next }, 1)
        | .blc => match c1.fall next with
          | .go c n => (c, n)
          | _ => ({ c1 with pc := next }, 1)
        | .rep => ({ c1 with pc := next, rep := 2 }, 1)
        | _ => ({ c1 with pc := next, rep := 0 }, 1)
      c2.1.issued i u c2.2 c.free paired lane
    else match c1.effect key i next with
    | .go c2 cost => c2.issued i u cost c.free paired lane
    | .trap c2 vec saved x =>
      if lane || c.frameFits then Core.trapTo { c2 with free := max c.free (u + 1) } key vec saved x else c
    | .hold => c

/-- Would the next instruction join the last one as its pair?  An interrupt is never accepted there (14 R495). -/
def Core.midPair (c : Core) (key : Nat) : Bool :=
  c.slot.isSome && (c.issue (isLane key) (c.current key 0)).2

/-! ### Lane invocations (12 R430, R431; 13 R472) -/

/-- Begin a kernel at word 0, with X and Y filled, SLIM behind the inputs and a return address pushed. -/
def Core.invoke (c : Core) (queue klimit slim : Nat) (data : List (Nat × List Byte)) : Core :=
  let dm := data.foldl (fun t d => Tab.setMany 0 t d.1 d.2) c.dmem
  let dm := Tab.setMany 0 dm 0x7FFC (leBytes 0xFFFF 4)
  { c with
    b := Tab.set 0 c.b 3 0x7FFC
    ctl := Tab.set 0 c.ctl 2 (BitVec.ofNat 32 slim)
    pend := []
    dmem := dm
    pc := 0
    rep := 0
    inRep := false
    halted := false
    stopped := false
    done := 0
    slot := none
    free := c.free + 3
    winEnd := 4
    winCyc := c.free + 3
    invoc := some ⟨queue, klimit, c.free⟩ }

/-- Has an invocation used up its KLIMIT? -/
def Core.overLimit (c : Core) : Bool :=
  match c.invoc with
  | some v => !c.stopped && decide (v.start + v.klimit ≤ c.free)
  | none => false

/-- Run an invocation to its end: a return, a trap, or the limit. -/
def Core.runKernel (key seed : Nat) : Nat → Core → Core
  | 0, c => if c.stopped then c else { c with stopped := true, done := 3 }
  | n + 1, c =>
    if c.stopped then c
    else if c.overLimit then { c with stopped := true, done := 3 }
    else Core.runKernel key seed n (c.step key (Config.freeNat (seed + n)))

end Sys2Proof.Machine
end

