-- ==== Sys2Proof/Machine/Scree.lean ====
section
/-! DEFINITION. The Scree engine: layout, evaluation, faces, writes, programming, wear, calibration and queries
(10_scree R341 to R384). -/

namespace Sys2Proof.Machine

/-- DETAIL values of Table 10.12. -/
abbrev dSCFORMAT : Nat := 0x50
abbrev dSCSHAPE : Nat := 0x51
abbrev dSCALIGN : Nat := 0x52
abbrev dSCSCALE : Nat := 0x53
abbrev dSERVING : Nat := 0x54
abbrev dFACEINVALID : Nat := 0x55
abbrev dTAGMISMATCH : Nat := 0x56
abbrev dSWAPCOUNT : Nat := 0x57
abbrev dFACEBUSY : Nat := 0x58
abbrev dFACETIMEOUT : Nat := 0x59
abbrev dREADONLY : Nat := 0x5A
abbrev dSPAREFAIL : Nat := 0x5B

/-- Face states (10 Table 10.11). -/
abbrev fcINVALID : Nat := 0
abbrev fcVALID : Nat := 1
abbrev fcREWRITING : Nat := 2
abbrev fcDEAD : Nat := 3

/-! ### Groups and macros -/

def Dev.updScree (s : Dev) (f : Scree → Scree) : Dev := { s with scree := f s.scree }

/-- A macro's key; T position t of a group is 32 + t. -/
def mkey (die g pos : Nat) : Nat := gkey die g * 44 + pos

/-- Does an SC_PROGRAM_T run on the queue? -/
def Dev.programming (s : Dev) (k : Nat) : Bool :=
  match s.cmdOf k with
  | some c => bitsOf (wordAt c.words 0) 0 8 == 0x42 && c.ready && c.phase == .running && c.fail.isNone && c.stop.isNone
  | none => false

/-- The queue whose SC_PROGRAM_T rewrites a face. -/
def Group.by (r : Group) (face : Nat) : Nat := if face = 0 then r.byA else r.byB

/-- The state of a face (0 A, 1 B): a face whose rewrite has stopped is INVALID (10 Table 10.6). -/
def Dev.faceState (s : Dev) (die g face : Nat) : Nat :=
  let r := s.group die g
  let st := if face = 0 then r.stA else r.stB
  if st = fcREWRITING ∧ !s.programming (r.by face) then fcINVALID else st

/-- The faces that a queue's earlier SC_PROGRAM_T left under rewrite are INVALID for good (10 Table 10.6). -/
def Dev.settleFaces (s : Dev) (k : Nat) : Dev :=
  let settle := fun (st by_ : Nat) => if st = fcREWRITING ∧ by_ = k then fcINVALID else st
  s.updScree fun c => { c with
    groups := c.groups.map fun e => (e.1, { e.2 with stA := settle e.2.stA e.2.byA, stB := settle e.2.stB e.2.byB }) }

/-- How many faces of a die are under rewrite (10 R360). -/
def Dev.rewritingOn (s : Dev) (die : Nat) : Nat :=
  ((s.scree.groups.filter fun e => e.1 / 16384 == die).map fun e =>
    b2n (s.faceState die (e.1 % 16384) 0 == fcREWRITING) + b2n (s.faceState die (e.1 % 16384) 1 == fcREWRITING)).sum

/-- Does a chunk that runs on the die's evaluation lane read the face (10 R357)? -/
def Dev.faceRead (s : Dev) (die g face : Nat) : Bool :=
  (Tab.get Engine.reset s.engines (Inst.key ⟨1, die, 0⟩)).busy.any fun b => b.holds.contains (.face (gkey die g) face)

def Dev.setFace (s : Dev) (die g face st : Nat) : Dev :=
  s.updGroup die g fun r => if face = 0 then { r with stA := st } else { r with stB := st }

def Dev.faceTag (s : Dev) (die g face : Nat) : Nat :=
  let r := s.group die g
  if face = 0 then r.tagA else r.tagB

def Dev.setFaceTag (s : Dev) (die g face tag : Nat) : Dev :=
  s.updGroup die g fun r => if face = 0 then { r with tagA := tag } else { r with tagB := tag }

/-- The serving face and the standby face of a group. -/
def Dev.serving (s : Dev) (die g : Nat) : Nat := b2n (s.group die g).servB
def Dev.standby (s : Dev) (die g : Nat) : Nat := 1 - s.serving die g

/-! ### Layout (10 R342) -/

/-- A Scree matrix on a die. -/
structure Mat where
  die : Nat
  first : Nat
  tArr : Bool
  k : Nat
  n : Nat
  /-- element format: 7 INT8, 8 INT4, 9 SC4 -/
  fmt : Nat
deriving DecidableEq, Repr

def Mat.rows (m : Mat) : Nat := if m.tArr then 512 else 256
def Mat.outs (m : Mat) : Nat := if m.tArr then 128 else if m.fmt = 7 then 8 else 16
def Mat.perGroup (m : Mat) : Nat := if m.tArr then 6 else 32
def Mat.segs (m : Mat) : Nat := ceilDiv m.k m.rows
def Mat.sets (m : Mat) : Nat := ceilDiv m.n m.outs
def Mat.macros (m : Mat) : Nat := m.segs * m.sets
def Mat.groups (m : Mat) : Nat := ceilDiv m.macros m.perGroup
/-- Group of matrix macro `x`. -/
def Mat.groupOf (m : Mat) (x : Nat) : Nat := m.first + x / m.perGroup
/-- Key of matrix macro `x` on a face. -/
def Mat.key (m : Mat) (face x : Nat) : Nat :=
  mkey m.die (m.groupOf x) (if m.tArr then 32 + 6 * face + x % 6 else x % 32)
/-- Rows of matrix macro `x` that the matrix uses, its first row and first output. -/
def Mat.usedRows (m : Mat) (x : Nat) : Nat := min m.rows (m.k - x % m.segs * m.rows)
def Mat.row0 (m : Mat) (x : Nat) : Nat := x % m.segs * m.rows
def Mat.out0 (m : Mat) (x : Nat) : Nat := x / m.segs * m.outs
def Mat.usedOuts (m : Mat) (x : Nat) : Nat := min m.outs (m.n - m.out0 x)
/-- Bits of a weight on an S-array. -/
def Mat.wbits (m : Mat) : Nat := if m.fmt = 7 then 8 else 4

/-- The groups a matrix or a range uses. -/
def Mat.groupList (m : Mat) : List Nat := (List.range m.groups).map (m.first + ·)

/-! ### Ownership of groups (10 R367, 06 R214, R218) -/

/-- Check one group as a MACRO_GROUP piece; one being released to the partition waits. -/
def groupPiece (a : Acc) (kind die g : Nat) : Act Unit := do
  let s ← theDev
  let r : Res := ⟨4, die, g, 1⟩
  if s.owns a r then pure ()
  else if s.claimed a.part r then throw .wait
  else
    act fun s => s.latchViol a kind ⟨vMACRO, 0, false⟩ (g + die * 65536)
    stopWith stPROT dMPU

def groupPieces (a : Acc) (kind die : Nat) (gs : List Nat) : Act Unit := gs.forM fun g => groupPiece a kind die g

/-- The checks every Scree command makes of its header (10 R367, R368): ALL_DIES is reserved. -/
def screeHeader (k : Nat) (w : List Word) : Act Nat := do
  failIf (bitAt (wordAt w 1) 3) stFAULT dBADFIELD
  let _ ← namedInsts k w
  needDie k (fld w 1 0 3)
  pure (fld w 1 0 3)

/-! ### Cells, trims and evaluation (10 R343 to R352) -/

/-- The physical row of a T-block. -/
def Dev.physRow (s : Dev) (mk row : Nat) : Nat := (Tab.get none s.scree.remap (mk * 512 + row)).getD row

def Dev.wearOf (s : Dev) (mk phys : Nat) : Nat := Tab.get 0 s.scree.wear (mk * 514 + phys)

def Dev.cell (s : Dev) (mk row o : Nat) : Nat :=
  let x := (mk * 512 + row) * 128 + o
  (Tab.get none s.scree.cells x).getD (Config.screeCell x)

def Dev.setCell (s : Dev) (mk row o v : Nat) : Dev :=
  s.updScree fun c => { c with cells := Tab.set none c.cells ((mk * 512 + row) * 128 + o) (some v) }

/-- The calibration of a column; GAIN lies in 0.75 to 1.25. -/
def Dev.trim (s : Dev) (mk col : Nat) : Trim :=
  let x := mk * 128 + col
  (Tab.get none s.scree.trims x).getD
    ⟨12288 + Config.screeTrim x % 8193, sext (Config.screeTrim x / 8193) 16, false, Config.screeResidual (2 ^ 64 + x)⟩

/-- Is a column group due, and is it forced (10 R365)? -/
def Dev.calDue (s : Dev) (die mk cg mult deg : Nat) : Bool :=
  let served := Tab.get 0 s.scree.evals mk - Tab.get 0 s.scree.calAt (mk * 8 + cg)
  let t0 := Tab.get 0 s.scree.calTemp (mk * 8 + cg)
  let t := s.get F.TEMP [die]
  decide (mult * 2 ^ s.get F.CAL_LOG [die] ≤ served) || decide (deg ≤ t - t0) || decide (deg ≤ t0 - t)

/-- The bounds in force on the error of a column: the largest total σ and the largest mean, in hundredths of an LSB (10 R350, R352). -/
def Dev.errorBudget (s : Dev) (m : Mat) (mk col : Nat) : Nat × Nat :=
  match s.calDue m.die mk (col / 16) 1 5, m.tArr with
  | false, false => (58, 15)
  | false, true => (82, 25)
  | true, false => (75, 35)
  | true, true => (110, 60)

/-- The error of one conversion besides its quantisation, in units of 2^-10 LSB: the read noise, which is new each time; the drift, whose
sign a column group shares; and, on S, the mismatch that the last calibration left (10 R350, Table 10.4). -/
def Dev.columnError (s : Dev) (m : Mat) (mk col : Nat) : Int :=
  let b := s.errorBudget m mk col
  let n := Tab.get 0 s.scree.evals mk
  let drift : Int := Config.screeDrift (mk * 128 + col) n
  Config.screeNoise b.1 b.2 s.free + (if Config.screeDriftUp (mk * 8 + col / 16) n then drift else -drift) +
    (if m.tArr then 0 else (s.trim mk col).resid)

/-- An integer kept as a number in an accumulator that is saved. -/
def encInt (i : Int) : Nat := if i < 0 then 2 * i.natAbs + 1 else 2 * i.natAbs
def decInt (v : Nat) : Int := if v % 2 = 1 then -((v / 2 : Nat) : Int) else ((v / 2 : Nat) : Int)

/-- The code of a column whose charge is `sum` units and `level` / 2^10 units of its cells' level errors, with an error in units of 2^-10
LSB: the nearest to what its calibration undoes, within the converter's codes (10 R344, R346). -/
def codeOf (t : Trim) (lsb top sum level err : Int) : Int :=
  let v := 1024 * sum + level + err * lsb
  let d := 1024 * lsb * (t.gain : Int)
  max (-top) (min (top - 1) ((32 * 16384 * v + 2 * t.off * d + 16 * d) / (32 * d)))

/-- Convert one column sum: a sum beyond full scale takes the end code and counts as a clip; any other takes the nearest code to the
charge, with the error of Table 10.4 (10 R344, R348, R350).  Answers c′ in units of 2^-18 LSB (10 R346). -/
def convertCol (m : Mat) (g mk col : Nat) (range : Nat) (sum level : Int) : Act Int := do
  let fs : Int := 2 ^ ((if m.tArr then 20 else 15) - range)
  let lsb : Int := 2 ^ ((if m.tArr then 14 else 8) - range)
  let top : Int := if m.tArr then 64 else 128
  let s ← theDev
  let t := s.trim mk col
  let code : Int ←
    if fs < sum ∨ sum < -fs then do
      act fun s => s.updGroup m.die g fun r => { r with clips := min (r.clips + 1) (2 ^ 32 - 1) }
      pure (if 0 < sum then top - 1 else -top)
    else do
      act fun s => { s with free := s.free + 1 }
      pure (codeOf t lsb top sum level (s.columnError m mk col))
  pure ((16 * code - t.off) * t.gain)

/-- Combine output `o` of matrix macro `x` for the input integers of its segment (10 R346). -/
def evalOut (m : Mat) (face x range : Nat) (q : List Int) (o : Nat) : Act Int := do
  let s ← theDev
  let mk := m.key face x
  let qs := (q.drop (m.row0 x)).take (m.usedRows x)
  let g := m.groupOf x
  if m.tArr then
    let sum := (qs.zipIdx.map fun (v, r) => v * (2 * (s.cell mk r o % 16 : Nat) - 15)).sum
    let level := (qs.zipIdx.map fun (v, r) =>
      v * Config.screeCellError ((mk * 512 + r) * 128 + o) (s.wearOf mk (s.physRow mk r))).sum
    convertCol m g mk o range sum level
  else
    let w := m.wbits
    let cs ← (List.range w).mapM fun j => do
      let sum := (qs.zipIdx.map fun (v, r) => if bitAt (s.cell mk r o) j then v else 0).sum
      convertCol m g mk (o * w + j) range sum 0
    pure ((cs.zipIdx.map fun (c, j) => if j + 1 = w then -(c * 2 ^ j) else c * 2 ^ j).sum)

/-- One evaluation of matrix macro `x`: its outputs join the exact accumulators (10 R346) (DESIGN CHOICE, log 51). -/
def evalMacro (m : Mat) (face x range : Nat) (q : List Int) (accs : List Int) : Act (List Int) := do
  let vs ← (List.range (m.usedOuts x)).mapM (evalOut m face x range q)
  act fun s => s.updScree fun c => { c with evals := Tab.upd 0 c.evals (m.key face x) (· + 1) }
  pure (accs.zipIdx.map fun (a, n) =>
    if m.out0 x ≤ n ∧ n < m.out0 x + m.usedOuts x then a + vs.getD (n - m.out0 x) 0 else a)

/-- The input stage (10 R343): the integers and the exponent; none when the outputs are NaN. -/
def inputStage (xs : List Num) : Fl (Option (List Int × Int)) := do
  if xs.any Num.isNan then pure none
  else if xs.any Num.isInf then
    raise fINVALID
    pure none
  else
    let e : Int := match (xs.filterMap Num.log2).max? with
      | some l => l - 6
      | none => 0
    pure (some (xs.map fun x => Max.max (-127) (Min.min 127 (nearestScaled x e)), e))
where
  /-- x / 2^e rounded to nearest even. -/
  nearestScaled (x : Num) (e : Int) : Int :=
    match x.scale (-e) with
    | .fin sg mm ee => let n := (roundMag .near mm ee 0).1; if sg then -(n : Int) else n
    | _ => 0

/-- An output: C_n × 2^L × 2^e × X_n × u, rounded once into FMT_Y (10 R346). -/
def screeOut (m : Mat) (fy : Fmt) (rd : Rnd) (flush : Bool) (range : Nat) (e : Int) (xn : Nat) (c : Int) : Fl Nat :=
  let l : Int := (if m.tArr then 14 else 8) - range
  let u : Int := if m.tArr then -1 else if m.fmt = 7 then -6 else -2
  fy.round rd flush (.fin (decide (c < 0)) c.natAbs (l + e + (xn - 127) + u - 18))

/-! ### SC_MVM (10 R355, R366, R368) -/

structure Mvm where
  w : List Word
  m : Mat
  vecs : Nat
  fx : Fmt
  fy : Fmt

def Mvm.face (p : Mvm) : Nat := fld p.w 8 17 2
/-- DEDUCED, log 54. -/
def Mvm.waitFace (p : Mvm) : Bool := bitAt (wordAt p.w 8) 19
def Mvm.range (p : Mvm) : Nat := fld p.w 8 20 3
def Mvm.tag (p : Mvm) : Nat := wordAt p.w 15

/-- The fields, checked (10 Table 10.9, R367). -/
def Mvm.parse (w : List Word) : Act Mvm := do
  let fx ← fmtField w 14 0
  let fy ← fmtField w 14 4
  let _ ← fmtField w 14 8
  let fw := fld w 14 8 4
  let t := bitAt (wordAt w 8) 16
  failIf (fld w 8 17 2 == 3 || (!t && fld w 8 17 2 != 0)) stFAULT dBADFIELD
  let p : Mvm := ⟨w, ⟨fld w 1 0 3, fld w 8 0 16, t, fld w 10 0 24, fld w 11 0 24, fw⟩, fld w 9 0 24, fx, fy⟩
  failIf (p.m.k == 0 || p.m.n == 0 || p.vecs == 0) stFAULT dSCSHAPE
  failIf ((fx.block && fx != .int8) || fy.block || (if t then fw != 9 else fw != 7 && fw != 8)) stFAULT dSCFORMAT
  failIf (decide (16384 < p.m.first + p.m.groups)) stFAULT dSCSHAPE
  failIf (misaligned ([addr64 w 2, addr64 w 4] ++ (if fx.block then [addr64 w 6] else []))
      [(wordAt w 12, fx.bytesFor p.m.k), (wordAt w 13, fy.bytesFor p.m.n)]) stFAULT dSCALIGN
  pure p

/-- The face of a group that the read uses now (10 R355). -/
def Mvm.faceOf (p : Mvm) (s : Dev) (g : Nat) : Nat := if p.face = 0 then s.serving p.m.die g else p.face - 1

/-- Is a face that the read uses under rewrite? -/
def Mvm.rewriting (p : Mvm) (s : Dev) : Bool :=
  p.m.tArr && p.m.groupList.any fun g => s.faceState p.m.die g (p.faceOf s g) == fcREWRITING

/-- May the matrix be read now (10 R355, R368, R378)? -/
def Mvm.readable (p : Mvm) : Act Unit := do
  let s ← theDev
  let gs := p.m.groupList
  if p.m.tArr then
    failIf (gs.any fun g => let st := s.faceState p.m.die g (p.faceOf s g); st == fcINVALID || st == fcDEAD)
      stSTATE dFACEINVALID
    if p.rewriting s then
      if p.waitFace then throw .wait else stopWith stBUSYFACE dFACEBUSY
    failIf (p.tag != 0 && gs.any fun g => s.faceTag p.m.die g (p.faceOf s g) != p.tag) stSTATE dTAGMISMATCH
  else
    failIf (gs.any fun g => !(s.group p.m.die g).sValid) stSTATE dFACEINVALID
    failIf (gs.any fun g => (s.group p.m.die g).sFmt != p.m.fmt - 7) stSTATE dTAGMISMATCH
    failIf (p.tag != 0 && gs.any fun g => (s.group p.m.die g).tagS != p.tag) stSTATE dTAGMISMATCH

/-- The column groups of a die under calibration, one by one or by an SC_CAL (10 R364, R370). -/
def Dev.calsOn (s : Dev) (die : Nat) : List Nat :=
  (s.scree.calibrating.filter fun x => x / 8 / 44 / 16384 == die) ++
    ((Tab.get Engine.reset s.engines (Inst.key ⟨1, die, 1⟩)).busy.elim [] fun b => b.holds.filterMap fun h => match h with
      | .cal x => some x
      | .face .. => none)

/-- Power units of a column group (10 Table 10.2). -/
def calUnits (key : Nat) : Nat := if key / 8 % 44 < 32 then 1 else 2

/-- Power units that calibration holds on a die (10 R349). -/
def Dev.calHeld (s : Dev) (die : Nat) : Nat := ((s.calsOn die).map calUnits).sum

/-- Does the read need a macro that is being calibrated (10 R366)? -/
def Mvm.calBusy (p : Mvm) (s : Dev) : Bool :=
  (List.range p.m.macros).any fun x =>
    (s.calsOn p.m.die).any fun cg => cg / 8 == p.m.key (p.faceOf s (p.m.groupOf x)) x

def mvmPrep (k : Nat) (c : Cmd) : Act (Nat × Nat) := do
  let die ← screeHeader k c.words
  let p ← Mvm.parse c.words
  let s ← theDev
  groupPieces (s.chunkAcc k 0 ⟨1, die, 0⟩) kRead die p.m.groupList
  p.readable
  pure (ceilDiv p.vecs 256, 1)

/-- Power units of one macro of the matrix while it converts (10 Table 10.2). -/
def Mat.units (m : Mat) : Nat := if m.tArr then 16 else 4

/-- Macros in one round of the power budget that calibration leaves (10 R349). -/
def Mvm.perRound (p : Mvm) (s : Dev) : Nat := (s.get F.SC_BUDGET [p.m.die] - s.calHeld p.m.die) / p.m.units

/-- Power units that the chunk on a die's evaluation lane holds (10 R349). -/
def Dev.converting (s : Dev) (die : Nat) : Nat :=
  match (Tab.get Engine.reset s.engines (Inst.key ⟨1, die, 0⟩)).busy with
  | none => 0
  | some b => match runAct (Mvm.parse b.cmd.words) s with
    | (.ok p, _) => min p.m.macros (s.get F.SC_BUDGET [die] / p.m.units) * p.m.units
    | _ => 0

/-- Run rounds of one vector, `n` of its macros being done, as many as are left; answers the accumulators, the macros done and the rounds
left. -/
def runRounds (p : Mvm) (per : Nat) (faces : Nat → Nat) (q : List Int) : Nat → Nat → Nat → List Int → Act (List Int × Nat × Nat)
  | 0, n, left, accs => pure (accs, n, left)
  | fuel + 1, n, left, accs => do
    if left = 0 ∨ p.m.macros ≤ n then pure (accs, n, left)
    else
      let xs := ((List.range per).map (n + ·)).filter fun x => decide (x < p.m.macros)
      let accs ← xs.foldlM (fun acc x => evalMacro p.m (faces (p.m.groupOf x)) x p.range q acc) accs
      runRounds p per faces q fuel (n + per) (left - 1) accs

/-- The write of one vector's outputs. -/
def writeOutputs (p : Mvm) (a : Acc) (v : Nat) (bits : List Nat) : Act Unit :=
  writeMem a (addr64 p.w 4 + v * wordAt p.w 13) (leBytes (p.fy.packElems bits) (p.fy.bytesFor p.m.n))

/-- Vectors from `v` up to `last`, the first with `r` of its macros done and saved accumulators; `left` rounds until the cut-off.
Answers where the work stands when it was cut off. -/
def runVectors (p : Mvm) (a : Acc) (per : Nat) (faces : Nat → Nat) (last : Nat) :
    Nat → Nat → Nat → List Int → Nat → Act (Option (Nat × Nat × List Int))
  | 0, _, _, _, _ => pure none
  | fuel + 1, v, r, accs, left => do
    if last ≤ v then pure none
    else if left = 0 then pure (some (v, r, accs))
    else
      let w := p.w
      let xs ← readRow a p.fx (flushOf w) (addr64 w 2 + v * wordAt w 12) (addr64 w 6 + v * scaleRow p.m.k) 0 p.m.k
      let xs ← arith (xs.mapM to32)
      let zero := List.replicate p.m.n (0 : Int)
      match ← arith (inputStage xs) with
      | none =>
        writeOutputs p a v (List.replicate p.m.n p.fy.nanEnc)
        runVectors p a per faces last fuel (v + 1) 0 zero (left - 1)
      | some (q, e) =>
        let (accs, r, left) ← runRounds p per faces q (p.m.macros + 1) r left accs
        if p.m.macros ≤ r then
          let s ← theDev
          let bits ← if q.all (· == 0) then pure (List.replicate p.m.n 0)
            else arith (accs.zipIdx.mapM fun (c, n) =>
              let x := n / p.m.outs * p.m.segs
              screeOut p.m p.fy (roundOf w 0) (flushOf w) p.range e
                (Tab.get 0 s.scree.scales (p.m.key (faces (p.m.groupOf x)) x * 128 + n % p.m.outs)) c)
          writeOutputs p a v bits
          runVectors p a per faces last fuel (v + 1) 0 zero left
        else pure (some (v, r, accs))

/-- One chunk: at most 256 vectors, from where its carry stands (10 R368). -/
def mvmChunk (k : Nat) (c : Cmd) (i : Inst) (ch : Nat) (limit : Option Nat) : Act Bool := do
  let p ← Mvm.parse c.words
  let s ← theDev
  let a := s.chunkAcc k ch i
  groupPieces a kRead p.m.die p.m.groupList
  p.readable
  let per := p.perRound s
  if p.calBusy s || per == 0 then throw .wait
  let faces := fun g => p.faceOf s g
  if p.m.tArr then
    act fun s => { s with holdAcc := s.holdAcc ++ p.m.groupList.map fun g => .face (gkey p.m.die g) (faces g) }
  let rv := p.m.macros
  let last := min p.vecs (ch * 256 + 256)
  let eng := Tab.get Engine.reset s.engines i.key
  let (v, r, accs) := match Tab.get none eng.carry k with
    | some x => if x.unit = ch then (x.pos / (rv + 1), x.pos % (rv + 1), x.vals.map decInt)
                else (ch * 256, 0, List.replicate p.m.n 0)
    | none => (ch * 256, 0, List.replicate p.m.n 0)
  let left := match limit with
    | some n => n
    | none => (last - v + 1) * (rv + 1)
  let res ← runVectors p a per faces last (last - v + 1) v r accs left
  let save := fun (x : Option Carry) => act fun s => { s with
    engines := Tab.upd Engine.reset s.engines i.key fun e => { e with carry := Tab.set none e.carry k x } }
  match res with
  | none =>
    save none
    pure true
  | some (v, r, accs) =>
    save (some ⟨ch, v * (rv + 1) + r, accs.map encInt⟩)
    pure false

def mvmOp : EngineOp := ⟨mvmPrep, mvmChunk⟩

/-- FACE_WAIT_TIMEOUT: 34 ms of waiting on a face under rewrite (10 R355). -/
def Dev.faceWaitTimeout (s : Dev) (k : Nat) : Dev :=
  match s.cmdOf k with
  | some c =>
    if c.opcode ≠ 0x40 ∨ c.phase ≠ .running then s
    else match runAct (Mvm.parse c.words) s with
    | (.ok p, _) =>
      if p.waitFace && p.rewriting s then
        s.updCmd k fun c => { c with phase := .ended stBUSYFACE dFACETIMEOUT, todo := [] }
      else s
    | _ => s
  | none => s

/-! ### Sources and scale folding (10 R358) -/

structure ScProg where
  w : List Word
  m : Mat
  fmt : Fmt

def ScProg.tag (p : ScProg) : Nat := wordAt p.w 10
def ScProg.face (p : ScProg) : Nat := fld p.w 6 20 2 - 1

def ScProg.parse (w : List Word) (t : Bool) : Act ScProg := do
  let fmt ← fmtField w 6 16
  let f := fld w 6 20 2
  failIf (if t then f == 0 || f == 3 else f != 0) stFAULT dBADFIELD
  let p : ScProg := ⟨w, ⟨fld w 1 0 3, fld w 6 0 16, t, fld w 7 0 24, fld w 8 0 24, fld w 6 16 4⟩, fmt⟩
  failIf (p.m.k == 0 || p.m.n == 0) stFAULT dSCSHAPE
  failIf (if t then fmt != .sc4 else fmt != .int8 && fmt != .int4) stFAULT dSCFORMAT
  failIf (decide (16384 < p.m.first + p.m.groups)) stFAULT dSCSHAPE
  failIf (misaligned [addr64 w 2, addr64 w 4] [(wordAt w 9, fmt.bytesFor p.m.k)]) stFAULT dSCALIGN
  pure p

/-- The scales of source row `n`, and the folded scale: the largest of them. -/
def ScProg.fold (p : ScProg) (a : Acc) (n : Nat) : Act (List Nat × Nat) := do
  let sc ← readMem a (addr64 p.w 4 + n * scaleRow p.m.k) (scaleRow p.m.k)
  let sc := sc.map (·.toNat)
  failIf (sc.contains 0xFF) stFAULT dSCSCALE
  pure (sc, sc.foldl max 0)

/-- The element stored for source row `n` at position `k`, requantised to the folded scale. -/
def ScProg.elem (p : ScProg) (a : Acc) (n k : Nat) (sc : List Nat) (xn : Nat) : Act Nat := do
  let es ← readElems a p.fmt (addr64 p.w 2 + n * wordAt p.w 9) k 1
  let v := (p.fmt.decode (es.headD 0)).scale ((sc.getD (k / 32) 0 : Int) - xn)
  arith (quantise p.fmt (if p.m.tArr then roundOf p.w 0 else .near) v)

/-- The elements of one row-block of matrix macro `x`, with their folded scales. -/
def ScProg.rowBlock (p : ScProg) (a : Acc) (x row : Nat) : Act (List (Nat × Nat)) :=
  (List.range (p.m.usedOuts x)).mapM fun o => do
    let n := p.m.out0 x + o
    let (sc, xn) ← p.fold a n
    let e ← p.elem a n (p.m.row0 x + row) sc xn
    pure (e, xn)

/-- Store one row-block. -/
def Dev.storeRow (s : Dev) (mk row : Nat) (es : List (Nat × Nat)) : Dev :=
  s.forEach es.zipIdx fun s e =>
    (s.setCell mk row e.2 e.1.1).updScree fun c => { c with scales := Tab.set 0 c.scales (mk * 128 + e.2) e.1.2 }

/-- Work that leaves the unit changed by `f` when it ends early with a status. -/
def onEnd {α : Type} (f : Dev → Dev) (x : Act α) : Act α := fun s =>
  match x s with
  | .error (.ended st d) s' => .error (.ended st d) (f s')
  | r => r

/-! ### Calibration (10 R364 to R366) -/

/-- Set GAIN and OFFSET of a column from a measurement, which the spec leaves to the array: free, GAIN clamped. -/
def Dev.calColumn (s : Dev) (die mk col : Nat) : Dev :=
  let (raw, s) := s.drawBelow 32768
  let (off, s) := s.drawBelow 65536
  let gain := max 12288 (min 20480 raw)
  let t : Trim := ⟨gain, sext off 16, gain != raw, Config.screeResidual s.free⟩
  let s := { s with free := s.free + 1 }.updScree fun c => { c with trims := Tab.set none c.trims (mk * 128 + col) (some t) }
  if t.clamped then s.put F.SC_OUT_OF_TRIM [die] 1 else s

/-- Calibrate one column group of a macro. -/
def Dev.calGroup (s : Dev) (die g pos cg : Nat) : Dev :=
  let mk := mkey die g pos
  let s := s.forEach (List.range 16) fun s j => s.calColumn die mk (16 * cg + j)
  s.updScree fun c => { c with
    calAt := Tab.set 0 c.calAt (mk * 8 + cg) (Tab.get 0 c.evals mk)
    calTemp := Tab.set 0 c.calTemp (mk * 8 + cg) (s.get F.TEMP [die]) }

/-- Column groups of a macro: 4 on S, 8 on T. -/
def colGroups (pos : Nat) : Nat := if pos < 32 then 4 else 8

/-- Calibrate every column group of a macro. -/
def Dev.calMacro (s : Dev) (die g pos : Nat) : Dev :=
  s.forEach (List.range (colGroups pos)) fun s cg => s.calGroup die g pos cg

/-- Is the macro one of a VALID face or a VALID S-array? -/
def Dev.macroValid (s : Dev) (die g pos : Nat) : Bool :=
  if pos < 32 then (s.group die g).sValid else s.faceState die g ((pos - 32) / 6) == fcVALID

/-- Does a running or waiting SC_MVM use the macro (10 R366)? -/
def Dev.macroNeeded (s : Dev) (die g pos : Nat) : Bool :=
  s.queues.any fun e => match s.cmdOf e.1 with
    | some c =>
      c.opcode == 0x40 && c.phase == .running && c.ready && bitsOf (wordAt c.words 1) 0 3 == die &&
        (match runAct (Mvm.parse c.words) s with
         | (.ok p, _) => (List.range p.m.macros).any fun x => p.m.key (p.faceOf s (p.m.groupOf x)) x == mkey die g pos
         | _ => false)
    | none => false

/-- CALIBRATION: a due or forced column group begins calibrating (10 R364 to R366). -/
def Dev.calStart (s : Dev) (die g pos cg : Nat) : Dev :=
  let key := mkey die g pos * 8 + cg
  let forced := s.calDue die (mkey die g pos) cg 4 10
  let due := s.calDue die (mkey die g pos) cg 1 5 && bitAt (s.get F.CAL_PHASES [die]) s.pos.phase
  if decide (6 ≤ die) || decide (16384 ≤ g) || decide (44 ≤ pos) || decide (colGroups pos ≤ cg) || s.dieGone die ||
      !s.macroValid die g pos || s.macroNeeded die g pos || (s.calsOn die).contains key || !(forced || due) ||
      decide (s.get F.SC_BUDGET [die] < s.converting die + s.calHeld die + calUnits key) then s
  else
    let s := if forced then s.put F.SC_CAL_FORCED [die] 1 else s
    s.updScree fun c => { c with calibrating := c.calibrating ++ [key] }

/-- CALIBRATION_DONE: new GAIN and OFFSET (10 R364). -/
def Dev.calDone (s : Dev) (die g pos cg : Nat) : Dev :=
  let key := mkey die g pos * 8 + cg
  if s.scree.calibrating.contains key then
    (s.updScree fun c => { c with calibrating := c.calibrating.erase key }).calGroup die g pos cg
  else s

/-! ### SC_WRITE_S (10 R359) -/

def writeSPrep (k : Nat) (c : Cmd) : Act (Nat × Nat) := do
  let die ← screeHeader k c.words
  let p ← ScProg.parse c.words false
  let s ← theDev
  groupPieces (s.chunkAcc k 0 ⟨1, die, 1⟩) kWrite die p.m.groupList
  pure (p.m.groups, 1)

/-- One chunk: one group, in macro order and row order; TAG and format change with its last row-block. -/
def writeSChunk (k : Nat) (c : Cmd) (i : Inst) (ch : Nat) (_limit : Option Nat) : Act Bool := do
  let p ← ScProg.parse c.words false
  let s ← theDev
  let a := s.chunkAcc k ch i
  let g := p.m.first + ch
  groupPiece a kWrite p.m.die g
  let xs := ((List.range 32).map (32 * ch + ·)).filter fun x => decide (x < p.m.macros)
  onEnd (fun s => s.updGroup p.m.die g fun r => { r with sValid := false }) do
    xs.forM fun x => (List.range (p.m.usedRows x)).forM fun row => do
      let es ← p.rowBlock a x row
      act fun s => s.storeRow (p.m.key 0 x) row es
  act fun s => s.updGroup p.m.die g fun r => { r with sValid := true, sFmt := p.m.fmt - 7, tagS := p.tag }
  pure true

def writeSOp : EngineOp := ⟨writeSPrep, writeSChunk⟩

/-! ### SC_PROGRAM_T (10 R357, R360 to R362) -/

/-- Program cycles a T-block stands (DESIGN CHOICE, log 52). -/
abbrev endurance : Nat := 10000

/-- The matrix macros of group number `j` of a matrix. -/
def ScProg.macrosOf (p : ScProg) (j : Nat) : List Nat :=
  ((List.range p.m.perGroup).map (p.m.perGroup * j + ·)).filter fun x => decide (x < p.m.macros)

/-- Retirements by counter that macro `mk` needs for its first `rows` rows. -/
def Dev.retiring (s : Dev) (mk rows : Nat) : Nat :=
  ((List.range rows).filter fun r => decide (endurance ≤ s.wearOf mk (s.physRow mk r))).length

/-- Free spares of a macro that are not themselves at their endurance (10 R361). -/
def Dev.goodSpares (s : Dev) (mk : Nat) : Nat :=
  ((List.range 2).filter fun j => decide (Tab.get 0 s.scree.spares mk ≤ j) && decide (s.wearOf mk (512 + j) < endurance)).length

/-- A macro becomes read-only (10 R362). -/
def Dev.makeReadOnly (s : Dev) (die mk : Nat) : Dev :=
  let s := (s.put F.SC_EXH [die] 1).countBy F.SC_EXH_COUNT [die] (if Tab.get false s.scree.readOnly mk then 0 else 1)
  s.updScree fun c => { c with readOnly := Tab.set false c.readOnly mk true }

/-- Select group number `j` for programming: untouched when a macro is read-only or would exceed its spares, else REWRITING (10 R362, 02
R64).  A face under rewrite by another queue ends the command BUSY_FACE (DESIGN CHOICE, log 122). -/
def selectGroup (k : Nat) (p : ScProg) (a : Acc) (j : Nat) : Act Unit := do
  let g := p.m.first + j
  groupPiece a kWrite p.m.die g
  let s ← theDev
  let st := s.faceState p.m.die g p.face
  failIf (st == fcVALID && s.serving p.m.die g == p.face) stSTATE dSERVING
  failIf (st == fcDEAD) stSTATE dFACEINVALID
  failIf (st == fcREWRITING && (s.group p.m.die g).by p.face != k) stBUSYFACE dFACEBUSY
  let worn := (p.macrosOf j).filter fun x =>
    let mk := p.m.key p.face x
    Tab.get false s.scree.readOnly mk || decide (s.goodSpares mk < s.retiring mk (p.m.usedRows x))
  if !worn.isEmpty then
    act fun s => s.forEach worn fun s x => s.makeReadOnly p.m.die (p.m.key p.face x)
    stopWith stEXHAUSTED dREADONLY
  act fun s => (s.setFace p.m.die g p.face fcREWRITING).updGroup p.m.die g fun r =>
    if p.face = 0 then { r with byA := k } else { r with byB := k }

/-- Select groups in ascending order as long as the die rewrites fewer than ten (10 R360); the command carries how many it has selected,
before the rows done of each macro. -/
def fillGroups (k : Nat) (p : ScProg) (a : Acc) : Nat → Act Unit
  | 0 => pure ()
  | n + 1 => do
    let s ← theDev
    match (s.cmdOf k).map (·.carry) with
    | some (j :: t) =>
      if j < p.m.groups ∧ s.rewritingOn p.m.die < 10 then
        selectGroup k p a j
        act fun s => s.updCmd k fun c => { c with carry := (j + 1) :: t }
        fillGroups k p a n
    | _ => pure ()

/-- The checks of the whole range; no group is selected yet (10 R369, Table 10.6). -/
def programPrep (k : Nat) (c : Cmd) : Act (Nat × Nat) := do
  let die ← screeHeader k c.words
  let p ← ScProg.parse c.words true
  let s ← theDev
  let a := s.chunkAcc k 0 ⟨1, die, 1⟩
  groupPieces a kWrite die p.m.groupList
  failIf (p.m.groupList.any fun g => s.faceState die g p.face == fcVALID && s.serving die g == p.face) stSTATE dSERVING
  failIf (p.m.groupList.any fun g => s.faceState die g p.face == fcDEAD) stSTATE dFACEINVALID
  act fun s => (s.settleFaces k).updCmd k fun c => { c with carry := 0 :: List.replicate p.m.macros 0 }
  pure (1, 1)

/-- A program chunk ends at the first pulse boundary after 45 µs; the command goes on until its last group is done. -/
def programChunk (_k : Nat) (c : Cmd) (_i : Inst) (_ch : Nat) (_limit : Option Nat) : Act Bool := pure c.carry.isEmpty

def programOp : EngineOp := ⟨programPrep, programChunk⟩

/-- Take a spare row for a row of a macro: answers whether one was free (10 R361). -/
def Dev.retire (s : Dev) (die mk row : Nat) : Bool × Dev :=
  let used := Tab.get 0 s.scree.spares mk
  if 2 ≤ used then (false, s.makeReadOnly die mk)
  else
    let s := (s.put F.SC_RETIRED [die] 1).count F.SC_RETIRE_COUNT [die]
    (true, s.updScree fun c => { c with
      spares := Tab.set 0 c.spares mk (used + 1)
      remap := Tab.set none c.remap (mk * 512 + row) (some (512 + used)) })

/-- Is group number `j` complete: every macro of it has all its rows? -/
def ScProg.groupDone (p : ScProg) (carry : List Nat) (j : Nat) : Bool :=
  (p.macrosOf j).all fun x => decide (p.m.usedRows x ≤ carry.getD (x + 1) 0)

/-- A group's programming ends: its macros are calibrated, and the face is VALID (10 Table 10.6). -/
def Dev.groupProgrammed (s : Dev) (p : ScProg) (j : Nat) : Dev :=
  let g := p.m.first + j
  let s := s.forEach (p.macrosOf j) fun s x => s.calMacro p.m.die g (32 + 6 * p.face + x % 6)
  let s := (s.setFace p.m.die g p.face fcVALID).setFaceTag p.m.die g p.face p.tag
  s.updGroup p.m.die g fun r => { r with progStep := s.pos.step % 2 ^ 32 }

/-- Take spares for a row until its block is below its endurance (10 R361); none free ends the command. -/
def spareRow (die mk row : Nat) : Nat → Act Unit
  | 0 => pure ()
  | n + 1 => do
    let s ← theDev
    if endurance ≤ s.wearOf mk (s.physRow mk row) then
      let (ok, s) := s.retire die mk row
      set s
      failIf (!ok) stEXHAUSTED dSPAREFAIL
      spareRow die mk row n

/-- One programming of the next T-block of a macro: retired first when worn out; the counter rises; on a pass the row holds the new
elements, on a failed verify the block is retired and its programming repeated on the spare (10 R360, R361). -/
def programRow (k : Nat) (p : ScProg) (a : Acc) (x row : Nat) (pass : Bool) : Act Unit := do
  let mk := p.m.key p.face x
  groupPiece a kWrite p.m.die (p.m.groupOf x)
  spareRow p.m.die mk row 3
  let s ← theDev
  let ph := s.physRow mk row
  act fun s => s.updScree fun t => { t with wear := Tab.upd 0 t.wear (mk * 514 + ph) fun n => min (n + 1) 65535 }
  if pass then
    let es ← p.rowBlock a x row
    act fun s => (s.storeRow mk row es).updCmd k fun c => { c with carry := c.carry.set (x + 1) (row + 1) }
  else
    let s ← theDev
    let (ok, s) := s.retire p.m.die mk row
    set s
    failIf (!ok) stEXHAUSTED dSPAREFAIL

/-- The programming of the next T-block of matrix macro `x` completes, or fails verify (10 R360 to R362, R377).  It does not begin while a
chunk still reads the face (10 R357), nor while the write lane runs another queue's chunk (10 R367). -/
def programBlock (k : Nat) (c : Cmd) (x : Nat) (pass : Bool) : Act Unit := do
  let p ← ScProg.parse c.words true
  let s ← theDev
  let a := s.chunkAcc k 0 ⟨1, p.m.die, 1⟩
  if (Tab.get Engine.reset s.engines (Inst.key ⟨1, p.m.die, 1⟩)).busy.any (·.queue != k) then pure ()
  else
    needDie k p.m.die
    fillGroups k p a 10
    let s ← theDev
    let row := c.carry.getD (x + 1) 0
    let g := p.m.groupOf x
    if p.m.macros ≤ x ∨ p.m.usedRows x ≤ row ∨ s.faceState p.m.die g p.face ≠ fcREWRITING ∨ s.faceRead p.m.die g p.face then pure ()
    else
      onEnd (fun s => s.setFace p.m.die g p.face fcINVALID) (programRow k p a x row pass)
      let s ← theDev
      let carry := ((s.cmdOf k).map (·.carry)).getD []
      if p.groupDone carry (x / p.m.perGroup) then
        act fun s => s.groupProgrammed p (x / p.m.perGroup)
        if (List.range p.m.groups).all (p.groupDone carry) then act fun s => s.updCmd k fun c => { c with todo := [], carry := [] }
        else fillGroups k p a 10

/-- T_BLOCK_PROGRAM: on the SC_PROGRAM_T that queue `k` runs (DEDUCED, log 53). -/
def Dev.tBlock (s : Dev) (k x : Nat) (pass : Bool) : Dev :=
  if !s.programming k || s.workHeld then s
  else match s.cmdOf k with
  | none => s
  | some c =>
    let r := runAct (programBlock k c x pass) { s with flagAcc := 0 }
    let fl := r.2.flagAcc
    let s := r.2.updCmd k fun c => { c with flags := c.flags ||| fl }
    match r.1 with
    | .error (.ended st d) => s.updCmd k fun c => { c with fail := some (c.fail.getD (st, d)), todo := [], carry := [] }
    | .error .wait => s
    | .ok _ =>
      if fl &&& c.trap ≠ 0 then
        s.updCmd k fun c => { c with fail := some (c.fail.getD (stNUMERIC, dNUMERICTRAP)), todo := [], carry := [] }
      else s

/-- The first groups of an SC_PROGRAM_T whose checks have passed are selected. -/
def programFill (k : Nat) (c : Cmd) : Act Unit := do
  let p ← ScProg.parse c.words true
  let s ← theDev
  fillGroups k p (s.chunkAcc k 0 ⟨1, p.m.die, 1⟩) 10

/-- SC_PROGRAM_T on queue `k`: its checks, and its first groups begin; its T-blocks follow one by one. -/
def Dev.programStart (s : Dev) (k : Nat) : Dev :=
  match s.common k 0x42 with
  | none => s
  | some _ =>
    if s.workHeld then s
    else
      let s := s.prepare k programOp
      match s.cmdOf k with
      | none => s
      | some c =>
        if !s.programming k then s
        else match runAct (programFill k c) s with
        | (.error (.ended st d), s) => s.updCmd k fun c => { c with fail := some (c.fail.getD (st, d)), todo := [], carry := [] }
        | (_, s) => s

/-! ### Swaps (10 R356, R370) -/

/-- The partition that holds a group, if any. -/
def Dev.groupOwner (s : Dev) (die g : Nat) : Option Nat :=
  (List.range 64).find? fun p => s.owns ⟨p, 0, 0, false⟩ ⟨4, die, g, 1⟩

/-- The run of a swap set from group `g`: it goes on while the standby face is VALID with the tag. -/
def Dev.swapRun (s : Dev) (own : Nat → Bool) (die tag g : Nat) : Nat → List Nat
  | 0 => []
  | fuel + 1 =>
    let f := s.standby die g
    if decide (g < 16384) && own g && s.faceState die g f == fcVALID && s.faceTag die g f == tag then
      g :: Dev.swapRun s own die tag (g + 1) fuel
    else []

/-- The swap set of group `g`, over the groups of one owner (10 R356). -/
def Dev.swapSet (s : Dev) (own : Nat → Bool) (die g fuel : Nat) : List Nat :=
  s.swapRun own die (s.faceTag die g (s.standby die g)) g fuel

/-- Swap every group of a set as one step. -/
def Dev.swapAll (s : Dev) (die : Nat) (gs : List Nat) : Dev :=
  s.forEach gs fun s g => s.updGroup die g fun r => { r with servB := !r.servB }

/-- A FACE_SWAP action (03 Table 3.7, R101): its status. -/
def Dev.alarmFaceSwap (s : Dev) (c : AlarmCopy) : Nat × Dev :=
  let die := bitsOf c.arg 0 3
  let g := bitsOf c.arg 3 16
  if !s.alarmHolds c then (stPROT, s)
  else
    let own := fun g' =>
      if c.devOwned then s.groupOwner die g' == s.groupOwner die g
      else s.owns ⟨c.owner, 0, 0, false⟩ ⟨4, die, g', 1⟩
    match s.swapSet own die g 16384 with
    | [] => (stSTATE, s)
    | gs => (stOK, s.swapAll die gs)

/-- FIRST_GROUP and COUNT of SC_SWAP, SC_CAL; a zero COUNT or a range past the last group is BAD_SHAPE. -/
def groupRange (first count : Nat) : Act (List Nat) := do
  failIf (count == 0 || decide (16384 < first + count)) stFAULT dSCSHAPE
  pure ((List.range count).map (first + ·))

/-- SC_SWAP: one chunk. -/
def swapPrep (k : Nat) (c : Cmd) : Act (Nat × Nat) := do
  let w := c.words
  let die ← screeHeader k w
  let gs ← groupRange (fld w 2 0 16) (fld w 3 0 16)
  let s ← theDev
  groupPieces (s.chunkAcc k 0 ⟨1, die, 1⟩) kWrite die gs
  pure (1, 1)

def swapChunk (k : Nat) (c : Cmd) (_i : Inst) (_ch : Nat) (_limit : Option Nat) : Act Bool := do
  let w := c.words
  let die := fld w 1 0 3
  let s ← theDev
  let set := s.swapSet (fun g => s.owns ⟨k / 32, 0, 0, false⟩ ⟨4, die, g, 1⟩) die (fld w 2 0 16) 16384
  failIf set.isEmpty stSTATE dFACEINVALID
  failIf (set.length != fld w 3 0 16) stSTATE dSWAPCOUNT
  act fun s => s.swapAll die set
  pure true

def swapOp : EngineOp := ⟨swapPrep, swapChunk⟩

/-! ### SC_CAL and SC_QUERY (10 R370, R371) -/

def calPrep (k : Nat) (c : Cmd) : Act (Nat × Nat) := do
  let w := c.words
  let die ← screeHeader k w
  let gs ← groupRange (fld w 2 0 16) (fld w 3 0 16)
  let s ← theDev
  groupPieces (s.chunkAcc k 0 ⟨1, die, 1⟩) kWrite die gs
  pure (1, 1)

/-- As many column groups as the power units left allow, in order (10 R349). -/
def calRound : Nat → List Nat → List Nat
  | _, [] => []
  | room, x :: t => if calUnits x ≤ room then x :: calRound (room - calUnits x) t else []

/-- Calibrate a column group by its key. -/
def Dev.calKey (s : Dev) (key : Nat) : Dev :=
  let mk := key / 8
  s.calGroup (mk / 44 / 16384) (mk / 44 % 16384) (mk % 44) (key % 8)

/-- One calibration round of 40 µs: the next column groups of VALID macros that the power budget takes; the command goes on until its last
(10 R370).  It waits for power units, and for the chunks that need one of its macros (10 R366). -/
def calChunk (k : Nat) (c : Cmd) (i : Inst) (_ch : Nat) (_limit : Option Nat) : Act Bool := do
  let w := c.words
  let die := fld w 1 0 3
  let s ← theDev
  let gs := (List.range (fld w 3 0 16)).map (fld w 2 0 16 + ·)
  let from_ := (Tab.get none (Tab.get Engine.reset s.engines i.key).carry k).elim 0 (·.pos)
  groupPieces (s.chunkAcc k 0 i) kWrite die gs
  let all := gs.flatMap fun g => ((List.range 44).filter (s.macroValid die g)).flatMap fun pos =>
    (List.range (colGroups pos)).map fun cg => mkey die g pos * 8 + cg
  let left := all.filter fun x => decide (from_ ≤ x) && !(s.calsOn die).contains x
  let now := calRound (s.get F.SC_BUDGET [die] - s.converting die - s.calHeld die) left
  if left.isEmpty then pure true
  else if now.isEmpty || now.any fun x => s.macroNeeded die (x / 8 / 44 % 16384) (x / 8 % 44) then throw .wait
  else
    act fun s => { s.forEach now Dev.calKey with holdAcc := s.holdAcc ++ now.map Hold.cal }
    let done := decide (left.length ≤ now.length)
    act fun s => { s with engines := Tab.upd Engine.reset s.engines i.key fun e =>
      { e with carry := Tab.set none e.carry k (if done then none else some ⟨0, now.getLastD 0 + 1, []⟩) } }
    pure done

def calOp : EngineOp := ⟨calPrep, calChunk⟩

def queryPrep (k : Nat) (c : Cmd) : Act (Nat × Nat) := do
  let w := c.words
  let die ← screeHeader k w
  let gs ← groupRange (fld w 4 0 16) (fld w 5 0 16)
  failIf (addr64 w 2 % 64 != 0) stFAULT dSCALIGN
  let s ← theDev
  groupPieces (s.chunkAcc k 0 ⟨1, die, 1⟩) kRead die gs
  pure (gs.length, 1)

/-- Is the GAIN of a column of the group clamped (10 R364)? -/
def Dev.clamped (s : Dev) (die g : Nat) : Bool :=
  s.scree.trims.any fun e => e.1 / 128 / 44 == gkey die g && e.2.any (·.clamped)

/-- The record of a group (10 Table 10.11). -/
def Dev.groupRecord (s : Dev) (die g : Nat) : List Word :=
  let r := s.group die g
  let ts := (List.range 12).map fun t => mkey die g (32 + t)
  let ro := ts.any fun mk => Tab.get false s.scree.readOnly mk
  let spare := 2 - (ts.map fun mk => Tab.get 0 s.scree.spares mk).foldl max 0
  let wear := (ts.flatMap fun mk => (List.range 512).map fun row => s.wearOf mk (s.physRow mk row)).foldl max 0
  [BitVec.ofNat 32 (s.faceState die g 0 + s.faceState die g 1 * 4 + b2n r.servB * 16 + b2n r.sValid * 32 + r.sFmt % 4 * 64 +
      b2n ro * 256 + b2n (s.clamped die g) * 512 + spare * 4096),
   BitVec.ofNat 32 r.tagA, BitVec.ofNat 32 r.tagB, BitVec.ofNat 32 r.tagS, BitVec.ofNat 32 (wear % 65536),
   BitVec.ofNat 32 r.clips, BitVec.ofNat 32 r.progStep, 0]

/-- One chunk: the record of one group, and with CLEAR its CLIPS reset. -/
def queryChunk (k : Nat) (c : Cmd) (i : Inst) (ch : Nat) (_limit : Option Nat) : Act Bool := do
  let w := c.words
  let die := fld w 1 0 3
  let g := fld w 4 0 16 + ch
  let s ← theDev
  let a := s.chunkAcc k ch i
  groupPiece a kRead die g
  writeMem a (addr64 w 2 + 32 * ch) (bytesOfWords (s.groupRecord die g))
  if bitAt (wordAt w 5) 16 then act fun s => s.updGroup die g fun r => { r with clips := 0 }
  pure true

def queryOp : EngineOp := ⟨queryPrep, queryChunk⟩

/-! ### Scrub and restoration (06 R222, 10 R363, R382) -/

/-- Zero the S-array of a group. -/
def Dev.zeroSArray (s : Dev) (die g : Nat) : Dev :=
  let lo := mkey die g 0 * 512 * 128
  let hi := mkey die g 32 * 512 * 128
  s.updScree fun c => { c with
    cells := (List.range (32 * 256 * 16)).foldl (fun t i => Tab.set none t (lo + i / 4096 * 65536 + i / 16 % 256 * 128 + i % 16) (some 0))
      (Tab.eraseRange c.cells lo hi) }

/-- Erase the T-arrays of a group: one program cycle on every T-block; a face with a read-only macro is DEAD. -/
def Dev.eraseTArray (s : Dev) (die g : Nat) : Dev :=
  let lo := mkey die g 32 * 512 * 128
  let hi := mkey die g 44 * 512 * 128
  let s := s.updScree fun c => { c with
    cells := Tab.eraseRange c.cells lo hi
    wear := ((List.range 12).flatMap fun t => (List.range 514).map fun r => (mkey die g (32 + t)) * 514 + r).foldl
      (fun t x => Tab.upd 0 t x fun n => min (n + 1) 65535) c.wear }
  s.forEach [0, 1] fun s f =>
    if s.faceState die g f = fcDEAD then s
    else
      let ro := (List.range 6).any fun t => Tab.get false s.scree.readOnly (mkey die g (32 + 6 * f + t))
      (s.setFace die g f (if ro then fcDEAD else fcINVALID)).setFaceTag die g f 0

/-- SCRUB_DONE: the granules and S-arrays of the scrub are zero, with SCRUB_T the T-arrays erased (06 R222).  A granule that the MPU keeps
from the scrubber ends the scrub there, without SCRUB_DONE (06 R217; 17 Table 17.5). -/
def Dev.scrubDone (s : Dev) (p : Nat) : Dev :=
  if s.get F.P_STATE [p] ≠ pSCRUBBING then s
  else
    let t := s.part p
    let s := s.updPart p fun t => { t with scrub := [] }
    let back := fun (s : Dev) => s.put F.P_STATE [p] t.prior
    match t.scrub.findSome? fun r =>
        if r.kind = 5 then (s.scrubCheck r.die kWrite (r.die * 2 ^ 32 + r.idx * 2 ^ 26) (2 ^ 26)).map fun x => (r.die, x) else none with
    | some (d, a, v) => back (s.scrubRefused d kWrite a v)
    | none =>
      let s := s.forEach t.scrub fun s r =>
        if r.kind = 5 then s.zeroGranule r.die r.idx
        else s.forEach (List.range r.cnt) fun s i =>
          let s := s.zeroSArray r.die (r.idx + i)
          if t.scrubT then s.eraseTArray r.die (r.idx + i) else s
      (back s).partEvent p 7

/-- The arrays of a die lose power: S contents and states are lost (10 R363). -/
def Dev.screeOff (s : Dev) (die : Nat) : Dev :=
  let mine := fun (k : Nat) => k / 44 / 16384 == die
  s.updScree fun c => { c with
    groups := c.groups.map fun e => if e.1 / 16384 = die then (e.1, { e.2 with sValid := false }) else e
    cells := c.cells.filter fun e => !(mine (e.1 / 65536) && decide (e.1 / 65536 % 44 < 32))
    calibrating := c.calibrating.filter fun x => !mine (x / 8) }

/-- The arrays of a die return: a face that was being rewritten is INVALID, and every VALID face is calibrated (10
R363). -/
def Dev.screeRestore (s : Dev) (die : Nat) : Dev :=
  let gs := (s.scree.groups.filter fun e => e.1 / 16384 == die).map fun e => e.1 % 16384
  let bad := gs.any fun g => (s.group die g).stA == fcREWRITING || (s.group die g).stB == fcREWRITING
  let s := s.forEach gs fun s g => s.updGroup die g fun r => { r with
    stA := if r.stA = fcREWRITING then fcINVALID else r.stA, stB := if r.stB = fcREWRITING then fcINVALID else r.stB
    sValid := false }
  let s := if bad then s.put F.SC_RESTORE_INVALID [die] 1 else s
  s.forEach gs fun s g => s.forEach ((List.range 12).map (32 + ·)) fun s pos =>
    if s.macroValid die g pos then s.calMacro die g pos else s

end Sys2Proof.Machine
end

