-- ==== Sys2Proof/Machine/Warden.lean ====
section
/-! DEFINITION. The warden: rails it may need at once, the fault log, reactions, lost dies, the safe stop, voting and
RESYNC (17_warden; 18 R657 to R663). -/

namespace Sys2Proof.Machine

def Dev.updWarden (s : Dev) (f : Warden → Warden) : Dev := { s with warden := f s.warden }
def Dev.updPwr (s : Dev) (f : Pwr → Pwr) : Dev := { s with pwr := f s.pwr }

/-! ### Rails (18 R657 to R661) -/

/-- Is Col-B absent or lost: SEC_RESTORE holds the secondary rails (18 R658, 22 R795)? -/
def Dev.colBGone (s : Dev) : Bool := s.dieGone 7

/-- The rails on the secondary bus (18 Table 18.7). -/
def secondaryRail (r : Nat) : Bool := [3, 4, 5, 7, 9, 11].contains r

/-- May the rail be commanded: it has a bus, and rails 12 and 13 are only monitored? -/
def Dev.railFree (s : Dev) (r : Nat) : Bool := decide (r < 12) && !(secondaryRail r && s.colBGone)

/-- Issue a voltage request in mV; 0 turns the rail off (18 R660). -/
def Dev.railSend (s : Dev) (r mv : Nat) : Dev := (s.put F.RAIL_TARGET [r] mv).put F.RAIL_IN_FLIGHT [r] 1

/-- An ordinary request: issued at once, or the one pending request (18 R660); none reaches a rail in its emergency
sequence (DEDUCED, log 94). -/
def Dev.railReq (s : Dev) (r mv : Nat) : Dev :=
  if !s.railFree r || Tab.get 0 s.pwr.emerg r != 0 then s
  else if s.flag F.RAIL_IN_FLIGHT [r] then
    let s := if s.flag F.RAIL_PENDING_VALID [r] then s.count F.RAIL_REPLACED [r] else s
    (s.put F.RAIL_PENDING [r] mv).put F.RAIL_PENDING_VALID [r] 1
  else s.railSend r mv

/-- The emergency exception: the minimum at once, then off (18 R661, R684). -/
def Dev.railEmergency (s : Dev) (r : Nat) : Dev :=
  if !s.railFree r then s
  else
    let s := ((s.put F.RAIL_PENDING_VALID [r] 0).put F.RAIL_PENDING [r] 0).count F.RAIL_EMERG [r]
    (s.updPwr fun p => { p with emerg := Tab.set 0 p.emerg r 1 }).railSend r 450

/-- The rail of a lost die is turned off and stays off (18 R663). -/
def Dev.railLost (s : Dev) (r : Nat) : Dev :=
  if !s.railFree r || Tab.get 0 s.pwr.emerg r != 0 then s
  else
    let s := (s.put F.RAIL_PENDING_VALID [r] 0).put F.RAIL_PENDING [r] 0
    (s.updPwr fun p => { p with emerg := Tab.set 0 p.emerg r 2 }).railSend r 0

/-- A request is acknowledged; what comes without a request in flight is discarded (18 R659 to R661). -/
def Dev.railAck (s : Dev) (r now : Nat) : Dev :=
  if 12 ≤ r ∨ !s.flag F.RAIL_IN_FLIGHT [r] then s
  else
    let t := s.get F.RAIL_TARGET [r]
    let s := ((s.put F.RAIL_IN_FLIGHT [r] 0).put F.RAIL_NOW [r] now).put F.RAIL_ENABLED [r] (b2n (t != 0))
    if Tab.get 0 s.pwr.emerg r = 1 then (s.updPwr fun p => { p with emerg := Tab.set 0 p.emerg r 2 }).railSend r 0
    else if s.flag F.RAIL_PENDING_VALID [r] then
      let n := s.get F.RAIL_PENDING [r]
      let s := (s.put F.RAIL_PENDING_VALID [r] 0).put F.RAIL_PENDING [r] 0
      if n = t then s else s.railSend r n
    else s

/-! ### The fault log (17 R625, R626) -/

/-- The reactions of Table 17.5: 0 CC, 1 CP, 2 CD, 3 SS; none for a code that is not in the table. -/
def reactionOf (code : Nat) : Option Nat :=
  if [0x01, 0x07, 0x20, 0x22, 0x24, 0x30, 0x31, 0x40, 0x42, 0x43, 0x46, 0x49, 0x4A, 0x4C].contains code then some 0
  else if [0x21, 0x23, 0x25, 0x26, 0x27, 0x28, 0x29, 0x2A, 0x32, 0x33, 0x41, 0x44, 0x45, 0x47, 0x48, 0x4B,
      0x50].contains code then some 1
  else if [0x12, 0x13, 0x15, 0x34, 0x35].contains code then some 2
  else if [0x02, 0x03, 0x04, 0x05, 0x06, 0x08, 0x09, 0x10, 0x11, 0x14, 0x16, 0x51, 0x5F].contains code then some 3
  else none

/-- The words of a record (17 Table 17.6). -/
def recordWords (r : Report) (no react core : Nat) : List Word :=
  [BitVec.ofNat 32 (no % 65536 + r.code % 256 * 2 ^ 16 + react * 2 ^ 24),
   BitVec.ofNat 32 (r.mid % 1024 + r.part.getD 0 % 64 * 2 ^ 10 + b2n r.part.isSome * 2 ^ 16 + r.die % 8 * 2 ^ 17 +
     core % 8 * 2 ^ 20),
   BitVec.ofNat 32 r.addr, BitVec.ofNat 32 (r.addr / 2 ^ 32), BitVec.ofNat 32 r.at_.step,
   BitVec.ofNat 32 (r.at_.tick % 2 ^ 20 + r.at_.phase % 16 * 2 ^ 20), BitVec.ofNat 32 r.cyc, BitVec.ofNat 32 r.arg]

/-- Is the log full: 256 records or more not acknowledged? (DEDUCED, log 85). -/
def Dev.logFull (s : Dev) : Bool := decide (256 ≤ (s.get F.FAULT_HEAD + 65536 - s.get F.FAULT_ACK) % 65536)

/-- Write a record that is not dropped; vector 3 follows when enabled. -/
def Dev.putRecord (s : Dev) (w : List Word) : Dev :=
  let s := if s.logFull then s.count F.OVERWRITES else s
  let h := s.get F.FAULT_HEAD
  let s := s.forEach (List.range 8) fun s i => s.setReg (F.FAULT_LOG.off [h % 256, i]) (w.getD i 0)
  let s := s.put0 F.FAULT_HEAD ((h + 1) % 65536)
  if s.flag F.WD_NEW_RECORD_EN then s.raisePf 3 else s

/-- 10 ms in always-on cycles. -/
abbrev tenMs : Nat := 250000

/-- Codes whose ARG is the ECC syndrome, which the spec leaves to the code in use (17 Table 17.6) (DESIGN CHOICE, log 89). -/
def eccCode (c : Nat) : Bool := [0x07, 0x08, 0x20, 0x21, 0x22, 0x23, 0x24, 0x25, 0x26, 0x27, 0x28].contains c

/-- Record a fault: a CC record at most once per 10 ms per code and die, and none when the log is full. -/
def Dev.record (s : Dev) (r : Report) (react core : Nat) : Dev :=
  let (syn, s) := if eccCode r.code then s.drawWord else (BitVec.ofNat 32 r.arg, s)
  let w := recordWords { r with arg := syn.toNat } (s.get F.FAULT_HEAD) react core
  if react ≠ 0 then s.putRecord w
  else
    let key := r.code * 8 + r.die
    if (match Tab.get none s.warden.ccAt key with
        | some t => decide (s.now < t + tenMs)
        | none => false) then s
    else if s.logFull then s.count F.CC_DROPPED
    else (s.updWarden fun w => { w with ccAt := Tab.set none w.ccAt key (some s.now) }).putRecord w

/-- MODE changes; vector 3 follows when enabled (17 R626). -/
def Dev.setMode (s : Dev) (m : Nat) : Dev :=
  if s.get F.WARDEN_MODE = m then s
  else
    let s := s.put0 F.WARDEN_MODE m
    if s.flag F.WD_MODE_CHANGE_EN then s.raisePf 3 else s

/-- A report made now. -/
def Dev.reportNow (s : Dev) (d : Detect) : Report := ⟨d.code, d.die, d.mid, d.part, d.addr, d.arg, s.pos, s.cycle⟩

/-! ### Safe stop (17 R621) -/

/-- The fabric ports that are UP send UNIT_LOST and go DOWN. -/
def Dev.portsLost (s : Dev) : Dev :=
  s.forEach (List.range 12) fun s n => if s.fabUp n then (s.linkOut n .unitLost).fabDown n false else s

/-- The unit stops issuing ticks and gives up its role. -/
def Dev.stopMaster (s : Dev) : Dev :=
  if s.isMaster || s.cad.win.bidding then
    let s := s.put0 F.CAD_ROLE_NOW (if s.cad.joined then roleFollower else roleUnjoined)
    { s with cad := { s.cad with
        issued := none, taking := none, resign := false, handing := false, win := { s.cad.win with bidding := false } } }
  else s

/-- Steps 1 to 5 of Table 17.4. -/
def Dev.safeStop (s : Dev) (r : Report) (core : Nat) : Dev :=
  if s.get F.WARDEN_MODE = 2 then s
  else
    let no := s.get F.FAULT_HEAD
    let (syn, s) := if eccCode r.code then s.drawWord else (BitVec.ofNat 32 r.arg, s)
    let s := (s.setMode 2).put0 F.SS_RECORD no
    let s := s.updWarden fun w =>
      { w with stop := some (recordWords { r with arg := syn.toNat } no 3 core), wait := [], acts := [] }
    let s := (s.put0 F.PAGE 4).portsLost
    let s := (s.sendEvent 5 bcast no).stopMaster
    { s with
      pauses := Tab.set false s.pauses 2 true
      host := { s.host with aer := true, errFatal := true } }

/-- Step 6: with every engine at its chunk boundary, the sequencer writes the record. -/
def Dev.safeStopped (s : Dev) : Dev :=
  match s.warden.stop with
  | none => s
  | some w =>
    if s.engines.any (·.2.busy.isSome) then s
    else (s.updWarden fun x => { x with stop := none }).putRecord w

/-! ### Lost dies (17 R620) -/

/-- The running descriptor of a queue ends with a status, and the queue enters HALTED; one that is being disabled goes
on with its disable (17 R620, R633). -/
def Dev.haltQueue (s : Dev) (k st detail : Nat) : Dev :=
  let s := (s.dropCarry k).updQ k fun q => { q with run := q.run.map fun r =>
    { r with listPending := false, list := [], cmd := none, stop := some (r.stop.getD (st, detail)) } }
  if s.qState k = qENABLED then s.put F.Q_STATE (qix k) qHALTED else s

/-- The queues whose spur core a test names. -/
def Dev.queuesAt (s : Dev) (p : Nat × Nat → Bool) : List Nat :=
  (s.queues.filter fun e => queueOk e.1 && e.2.home.any p).map (·.1)

/-- The chunks that run on a die end with FAULT and DIE_LOST. -/
def Dev.killDie (s : Dev) (d : Nat) : Dev :=
  s.forEach s.engines fun s e =>
    let i : Inst := ⟨e.1 / 128, e.1 / 16 % 8, e.1 % 16⟩
    if i.die = d then s.killChunk i stFAULT dDIELOST else s

/-- WC is fenced because its die is lost (DEDUCED, log 86). -/
def Dev.fenceCore (s : Dev) (c : Nat) : Dev :=
  let h := s.get F.FENCE_HISTORY
  let s := s.put0 F.FENCE_HISTORY (putBits h (8 * c) 8 (min 255 (bitsOf h (8 * c) 8 + 1)))
  s.put0 F.FENCED (setBit (s.get F.FENCED) c)

/-- A die other than Col-A is lost, with what its loss takes with it. -/
def Dev.loseDie (s : Dev) (d : Nat) (emergency : Bool) : Dev :=
  if s.dieIsLost d ∨ !s.diePresent d then s
  else
    let s := (s.killDie d).forEach (s.queuesAt fun h => h.1 == d) fun s k =>
      -- the host interface then carries out the queue's DISABLE (17 R620, 05 R199)
      (s.haltQueue k stFAULT dDIELOST).disableNow k dQHALT false
    let s : Dev := { s with cores := s.cores.map fun e => if e.1 / 128 = d then (e.1, { e.2 with stopped := true }) else e }
    let s := s.put0 F.DIE_LOST (setBit (s.get F.DIE_LOST) d)
    let s := (s.put F.DOM_BUSY [d] 0).put F.DOM_PENDING [d] 7
    let s : Dev := { s with wakes := Tab.set false s.wakes d false }
    let s := s.updPwr fun p => { p with flight := Tab.set none p.flight d none }
    if d < 6 then
      let s := if emergency then s.railEmergency d else s.railLost d
      let s := (s.put F.DOM_STATE [d] stOff).screeOff d
      s.forEach [2 * d, 2 * d + 1] fun s p =>
        if s.flag F.XP_PRESENT [p / 2, p % 2] then
          let s : Dev := { s.put F.XP_LOST [p / 2, p % 2] 1 with ext := { s.ext with lost := Tab.set false s.ext.lost p true } }
          s.report 0x45 d 0 none p 0
        else s
    else
      let s := s.forEach ((List.range 12).drop 6) fun s n => s.fabDown n false
      let s := if bitAt (s.get F.FENCED) 2 then s else (s.fenceCore 2).setMode 1
      s.pwrEvent F.SEC_RESTORE 7

/-- The die that a fault contained to a die names (17 Table 17.5). -/
def Report.lostDie (r : Report) : Nat :=
  if r.code = 0x13 ∨ r.code = 0x34 then 7 else if r.code = 0x15 then r.arg else r.die

/-- Does the running pair include WC? -/
def Dev.pairHasWC (s : Dev) : Bool := s.get F.WARDEN_MODE != 0 && !bitAt (s.get F.FENCED) 2 && bitAt (s.get F.WD_PRESENT) 2

/-- The reaction performed: Col-A, and Col-B while the pair needs WC, stop the whole unit (17 R620). -/
def Dev.reactionTo (s : Dev) (r : Report) : Option Nat :=
  match reactionOf r.code with
  | some 2 => if r.lostDie = 6 ∨ (r.lostDie = 7 ∧ s.pairHasWC) then some 3 else some 2
  | x => x

/-! ### Containment (17 R619, Table 17.5) -/

/-- The command in progress on a queue is touched by a fault: it ends with FAULT (17 R619). -/
def Dev.touched (s : Dev) (k detail : Nat) : Dev :=
  match s.cmdOf k with
  | none => s
  | some c =>
    if c.ready then s.failCmd k stFAULT detail
    else match c.phase with
      | .ended .. => s
      | _ => s.endCmd k stFAULT detail

/-- DETAIL of the commands that a contained fault ends. -/
def detailOf (code : Nat) : Nat :=
  if [0x25, 0x26, 0x27, 0x28, 0x29, 0x2A].contains code then dCHUNKFAULT
  else if code = 0x32 ∨ code = 0x33 ∨ code = 0x45 then dDIELOST
  else if code = 0x41 then dHOSTACCESS
  else if code = 0x47 then dLINKLOST
  else if code = 0x48 then dUNITLOST
  else dPOISON

/-- A Col SRAM error touches a queue: a command whose flit is discarded ends ACK_TIMEOUT; where the queue has none under way, its ring cache
entry counts as a failed descriptor read, which FETCH_ERR carries through (17 Table 17.5, 05 R185) (DEDUCED, log 120). -/
def Dev.sramTouched (s : Dev) (k : Nat) : Dev :=
  if qClass k = 4 ∧ (s.cmdOf k).isSome then s.touched k dACKTIMEOUT
  else s.updQ k fun q => { q with ahead := match q.ahead with
    | d :: t => { d with failed := true } :: t
    | [] => [] }

/-- Contain a fault to the partition: the commands it touched end; what the device owns is restarted as the row says. -/
def Dev.containPart (s : Dev) (r : Report) (qs : List Nat) : Dev :=
  let d := detailOf r.code
  if r.code = 0x25 ∨ r.code = 0x29 then
    -- the queues that live on the core
    let s := s.forEach (s.queuesAt fun h => spurKey h.1 h.2 == r.mid) fun s k => s.haltQueue k stFAULT d
    -- a management spur core is reloaded, and its mailboxes in flight end FAULT
    if isManager r.mid then
      (s.reloadCore r.mid).forEach [0, 1] fun s m =>
        if s.get F.MB_STATE [m] = 1 then (s.put F.MB_STATUS [m] stFAULT).put F.MB_STATE [m] 2 else s
    else
      let s : Dev := { s with cores := Tab.upd Core.reset s.cores r.mid fun c => { c with stopped := true } }
      s.fixCores
  else if r.code = 0x23 then s.forEach qs Dev.sramTouched
  else if r.code = 0x4B then s -- the command that finds its spares exhausted ends so by itself (10 R362)
  else
    let s := s.forEach qs fun s k => s.touched k d
    if r.code = 0x28 then (s.setFace r.die (r.addr / 2 % 16384) (r.addr % 2) fcINVALID)
    else if r.code = 0x50 then
      let s := s.put (errField F.PATROL_EN F.SRAM_PATROL_EN r.die) (errIx r.die) 0
      s.forEach (List.range 64) fun s p => if s.get F.P_STATE [p] = pSCRUBBING ∧ (s.part p).scrub.any (·.die == r.die) then s.put F.P_STATE [p] (s.part p).prior else s
    else s

/-- The effect of a reaction that is not a safe stop. -/
def Dev.contain (s : Dev) (r : Report) (qs : List Nat) : Dev :=
  match reactionOf r.code with
  | some 1 => s.containPart r qs
  | some 2 => s.loseDie r.lostDie (r.code == 0x12)
  | _ => s

/-- React to a fault that is counted: nothing more during a safe stop, only a safe stop at once during RESYNC (17 R615,
R624). -/
def Dev.react (s : Dev) (r : Report) (core : Nat) (qs : List Nat) : Dev :=
  if s.get F.WARDEN_MODE = 2 then s
  else match s.reactionTo r with
  | none => s
  | some 3 => s.safeStop r core
  | some x =>
    let s := s.record r x core
    if s.get F.WARDEN_MODE = 3 then s.updWarden fun w => { w with acts := w.acts ++ [(r, qs)] } else s.contain r qs

/-- Count a fault and react to it. -/
def Dev.fault (s : Dev) (r : Report) (core : Nat) (qs : List Nat) : Dev :=
  if (reactionOf r.code).isNone then s else (s.count F.FAULT_COUNT [r.code]).react r core qs

/-- A fault that the warden's own hardware detects. -/
def Dev.faultNow (s : Dev) (code arg core : Nat) : Dev :=
  s.fault (s.reportNow ⟨code, 6, 0, none, 0, arg⟩) core []

/-- Faults on one resource, detected in the same cycle (17 R632). -/
def Report.same (a b : Report) : Bool := a.die == b.die && a.addr == b.addr && a.part == b.part && a.cyc == b.cyc

/-- The report of larger scope. -/
def largerOf (a b : Report) : Report := if (reactionOf a.code).getD 0 < (reactionOf b.code).getD 0 then b else a

/-- The warden takes the oldest report: all faults on its resource in its cycle are counted, and the largest reaction is
performed (DEDUCED, log 87). -/
def Dev.takeReport (s : Dev) (qs : List Nat) : Dev :=
  match s.reports with
  | [] => s
  | r :: t =>
    let same := (r :: t).filter r.same
    let s := { s with reports := t.filter fun x => !r.same x }
    let s := s.forEach same fun s x => if (reactionOf x.code).isSome then s.count F.FAULT_COUNT [x.code] else s
    s.react (same.foldl largerOf r) 0 qs

/-- FAULT_REPORT: a detector's fault, or the oldest report that waits; a sleeping MGMT is woken for all but a safe stop
(18 Table 18.3) (DEDUCED, log 88). -/
def Dev.faultReport (s : Dev) (d : Option Detect) (qs : List Nat) : Dev :=
  let s := match d with
    | some x => { s with reports := s.reports ++ [s.reportNow x] }
    | none => s
  if s.domAsleep 8 ∧ !(s.reports.any fun r => s.reactionTo r == some 3) then
    if s.reports.isEmpty then s else s.wakeReq 8
  else s.takeReport qs

/-! ### Voting (17 R613, R614) -/

/-- A verdict of the voters on the signatures of warden cycle `n`; `agree` is false when the two voters differ. -/
def Dev.verdict (s : Dev) (sa sb sc n : Nat) (agree : Bool) : Dev :=
  let mode := s.get F.WARDEN_MODE
  let fenced := s.get F.FENCED
  let run := [(0, sa), (1, sb), (2, sc)].filter fun x => !bitAt fenced x.1 && bitAt (s.get F.WD_PRESENT) x.1
  let cores := (run.map fun x => 2 ^ x.1).sum
  if mode = 2 then s
  else if !agree then s.faultNow 0x04 n 0
  else if run.all fun x => x.2 == (run.headD (0, 0)).2 then s
  else if mode = 1 then s.faultNow 0x02 n cores
  else if mode = 3 then s.faultNow 0x09 n cores
  else match (if sa = sb then some 2 else if sa = sc then some 1 else if sb = sc then some 0 else none) with
  | some c => ((s.fenceCore c).setMode 1).faultNow 0x01 n (2 ^ c)
  | none => s.faultNow 0x03 n cores

/-- The core that RESYNC would restore. -/
def Dev.fencedCore (s : Dev) : Option Nat := [0, 1, 2].find? fun c => bitAt (s.get F.FENCED) c

/-- RESYNC in WARDEN_CTRL (17 R614, R635). -/
def Dev.resync (s : Dev) : Dev :=
  let ok := s.get F.WARDEN_MODE == 1 && match s.fencedCore with
    | some c => !s.dieGone (if c = 2 then 7 else 6) && decide (bitsOf (s.get F.FENCE_HISTORY) (8 * c) 8 < 3)
    | none => false
  if ok then s.setMode 3 else s.put0 F.RESYNC_REFUSED 1

/-- The copy has ended: TRIPLE again and the deferred reactions in order, or a safe stop. -/
def Dev.resyncEnd (s : Dev) (ok : Bool) : Dev :=
  if s.get F.WARDEN_MODE ≠ 3 then s
  else if !ok then s.faultNow 0x09 0 0
  else
    let s := match s.fencedCore with
      | some c => s.put0 F.FENCED (clearBit (s.get F.FENCED) c)
      | none => s
    let l := s.warden.acts
    ((s.setMode 0).updWarden fun w => { w with acts := [] }).forEach l fun s x => s.contain x.1 x.2

/-! ### Shelf links (01 R33, R45, R46) -/

/-- A module of a link fails: the other carries its traffic at half rate, once the module's retraining no longer holds it (01 R33, R46). -/
def Dev.shelfDegraded (s : Dev) (l : Nat) : Dev :=
  if 20 ≤ l ∨ Tab.get 0 s.warden.shelf l = 2 then s
  else
    (s.updWarden fun w => { w with shelf := Tab.set 0 w.shelf l 1, retraining := Tab.set false w.retraining l true }).report
      0x31 (shelfDie l) 0 none l 0

/-- Both modules of a link are down: what is in flight ends with FAULT (DIE_LOST), and with both col-to-col links down
Col-B is lost. -/
def Dev.shelfDown (s : Dev) (l : Nat) (qs : List Nat) : Dev :=
  if 20 ≤ l then s
  else
    let s := s.updWarden fun w => { w with shelf := Tab.set 0 w.shelf l 2, retraining := Tab.set false w.retraining l true }
    let s := s.fault (s.reportNow ⟨0x33, shelfDie l, 0, none, l, 0⟩) 0 qs
    if Tab.get 0 s.warden.shelf 18 = 2 ∧ Tab.get 0 s.warden.shelf 19 = 2 then s.report 0x34 7 0 none l 0 else s

/-- A module's retraining completes: a link that was down runs at half rate, a degraded one is whole (DEDUCED, log 91). -/
def Dev.shelfDone (s : Dev) (l : Nat) : Dev :=
  if Tab.get false s.warden.retraining l then
    s.updWarden fun w => { w with
      shelf := Tab.set 0 w.shelf l (Tab.get 0 w.shelf l - 1), retraining := Tab.set false w.retraining l (Tab.get 0 w.shelf l == 2) }
  else s

/-- A chunk has not ended 60 µs after its start: it ends with CHUNK_FAULT, and the instance is reset (17 Table 17.5). -/
def Dev.engineHang (s : Dev) (i : Inst) : Dev :=
  match (Tab.get Engine.reset s.engines i.key).busy with
  | none => s
  | some b =>
    let s := s.killChunk i stFAULT dCHUNKFAULT
    let s := { s with engines := Tab.upd Engine.reset s.engines i.key fun e => { e with carry := [] } }
    s.report 0x2A i.die i.mid (some (b.queue / 32)) 0 0

end Sys2Proof.Machine
end

