-- ==== Sys2Proof/Machine/Power.lean ====
section
/-! DEFINITION. Power: domains and their transitions, wakes, rails, thermal floors and caps, supply loss, the aux rail; the
resets that leave the unit Off or begin it anew (18_power, 20 R715, R716). -/

namespace Sys2Proof.Machine

/-! ### Levels of the rails (18 Table 18.7) -/

def vcoreOf (st : Nat) : Nat := [750, 650, 600, 500].getD st 0
def vsramOf (st : Nat) : Nat := [800, 800, 700, 600].getD st 0

/-- The domains a rail feeds. -/
def railDoms (r : Nat) : List Nat :=
  if r < 6 then [r] else [[0, 1, 2], [3, 4, 5], [6, 8], [7], [], [0, 1, 2, 3, 4, 5]].getD (r - 6) []

/-- The rails that feed a domain. -/
def domRails (d : Nat) : List Nat :=
  if d < 6 then [d, if d < 3 then 6 else 7, 11] else if d = 6 ∨ d = 8 then [8] else if d = 7 then [9] else []

/-- The state whose level a domain needs: the target once the rails are asked, the present one before (18 R653). -/
def Dev.railState (s : Dev) (d : Nat) : Nat :=
  match Tab.get none s.pwr.flight d with
  | some f => if f.stage = 1 then f.target else s.get F.DOM_STATE [d]
  | none => s.get F.DOM_STATE [d]

/-- The level a rail must hold: the highest that any domain on it needs; an adaptive level within its band stays (18
R657, R662). -/
def Dev.railWant (s : Dev) (r : Nat) : Nat :=
  let sts := (railDoms r).map s.railState
  let v := if r = 11 then (if sts.any (· != stOff) then 2500 else 0)
    else (sts.map (if r = 6 ∨ r = 7 then vsramOf else vcoreOf)).foldl max 0
  let t := s.get F.RAIL_TARGET [r]
  if v = 750 ∧ 700 ≤ t ∧ t ≤ 850 then t else v

/-- Ask every rail of a domain for the level it must now hold. -/
def Dev.askRails (s : Dev) (d : Nat) : Dev :=
  s.forEach (domRails d) fun s r =>
    let cur := if s.flag F.RAIL_PENDING_VALID [r] then s.get F.RAIL_PENDING [r] else s.get F.RAIL_TARGET [r]
    if s.railWant r = cur then s else s.railReq r (s.railWant r)

/-- Have all rails of a domain acknowledged? -/
def Dev.railsReady (s : Dev) (d : Nat) : Bool :=
  (domRails d).all fun r => !s.railFree r || (!s.flag F.RAIL_IN_FLIGHT [r] && !s.flag F.RAIL_PENDING_VALID [r])

/-! ### Transitions (18 R645 to R653) -/

/-- A Run that a floor on the domain turns into Trim (18 R665). -/
def Dev.floored (s : Dev) (d t : Nat) : Nat := if d < 6 ∧ t = stRun ∧ s.get F.DOM_FLOOR [d] = 1 then stTrim else t

/-- Begin a transition.  A die on its way to a lower state than Trim drains first (DEDUCED, log 93). -/
def Dev.beginMove (s : Dev) (d t : Nat) : Dev :=
  let drain := decide (s.get F.DOM_STATE [d] < t) && decide (stDoze ≤ t)
  let s := (s.updPwr fun p => { p with flight := Tab.set none p.flight d (some ⟨t, s.now, if drain then 0 else 1⟩) }).put
    F.DOM_BUSY [d] 1
  if drain then s else s.askRails d

/-- A request that has been accepted meets the transition in flight and the one pending slot (18 R646, R679). -/
def Dev.applyReq (s : Dev) (d t : Nat) : Dev :=
  let s := s.put F.DOM_REQUESTED [d] t
  if s.flag F.DOM_BUSY [d] then s.put F.DOM_PENDING [d] t
  else
    let cur := s.get F.DOM_STATE [d]
    if cur = stOff ∧ t ≠ stOff ∧ t ≠ stRun then (s.beginMove d stRun).put F.DOM_PENDING [d] t
    else if cur = s.floored d t then s
    else s.beginMove d (s.floored d t)

/-- The state a wake leads to (18 R651). -/
def Dev.wakeTarget (s : Dev) (d : Nat) : Nat := if d < 6 && s.flag F.WAKE_TARGET then stTrim else stRun

/-- A domain at rest in Doze or Keep starts its exit. -/
def Dev.startExit (s : Dev) (d : Nat) : Dev :=
  let st := s.get F.DOM_STATE [d]
  if !s.flag F.DOM_BUSY [d] && (st == stDoze || st == stKeep) && decide (d < 9) then
    (s.put F.DOM_REQUESTED [d] (s.wakeTarget d)).beginMove d (s.floored d (s.wakeTarget d))
  else s

/-- Has the spur core or an engine of the die work that is ready (18 R647)? -/
def Dev.workOn (s : Dev) (d : Nat) : Bool :=
  (s.queues.any fun e =>
    (e.2.home.any (·.1 == d)) && s.qState e.1 == qENABLED &&
    match e.2.run with
    | none => !e.2.ahead.isEmpty && !s.startsHeld
    | some r => !r.listPending && !s.workHeld && match r.cmd with
      | none => true
      | some c => (match c.phase with
        | .waitFence .. => false
        | .waitCad .. => false
        | _ => true)) ||
  ((List.range 5).any fun cls => (instsOn cls d 0x40 ++ instsOn cls d 0).any fun i => !(s.readyQueues i).isEmpty)

/-- Is a level wake source of the domain asserted (18 Table 18.3)? -/
def Dev.levelWake (s : Dev) (d : Nat) : Bool :=
  Tab.get false s.wakes d || bitAt (s.get F.WAKE_HOLD) d ||
  (s.pwr.wakeIn && !s.flag F.WAKE_IN_EDGE && bitAt (s.get F.WAKE_SET) d) || (decide (d < 8) && s.workOn d)

/-- A detected wake: noted, and the exit starts unless the domain is still entering (18 R649, R651); a safe stop changes
no power state (17 R622). -/
def Dev.wake (s : Dev) (d : Nat) (edge : Bool) : Dev :=
  if 9 ≤ d ∨ s.get F.WARDEN_MODE = 2 then s
  else
    let s := if edge then s.edgeWake d else if s.domAsleep d then s.wakeReq d else s
    if Tab.get false s.wakes d then s.startExit d else s

/-- A wake of the domains of WAKE_SET. -/
def Dev.wakeAll (s : Dev) (edge : Bool) : Dev :=
  s.forEach ((List.range 9).filter fun d => bitAt (s.get F.WAKE_SET) d) fun s d => s.wake d edge

/-- WAKE_IN changes: a level while high, or an edge on rising (18 Table 18.3). -/
def Dev.wakeIn (s : Dev) (high : Bool) : Dev :=
  let rising := high && !s.pwr.wakeIn
  let s := s.updPwr fun p => { p with wakeIn := high }
  if s.flag F.WAKE_IN_EDGE then (if rising then s.wakeAll true else s) else if high then s.wakeAll false else s

/-- UNIT_STATE is the state of MGMT (18 R642). -/
def Dev.fixUnit (s : Dev) : Dev := s.put0 F.UNIT_STATE (s.get F.DOM_STATE [8])

/-! ### The aux rail (18 R673, R674) -/

/-- The on bit follows AUX_VSNS: high while the gate is driven, or the FET is shorted (22 R796). -/
def Dev.auxRail (s : Dev) : Dev := s.put0 F.AUX_ON (b2n (s.pwr.auxDrive || s.pwr.auxShort))

/-- AUX_VSNS is read: high with the gate not driven, the FET is shorted, and the device takes no further action (22 R796). -/
def Dev.auxSense (s : Dev) (vsns : Bool) : Dev :=
  (s.updPwr fun p => { p with auxShort := if p.auxDrive then p.auxShort else vsns }).put0 F.AUX_ON (b2n vsns)

/-- The gate is driven, or no longer. -/
def Dev.auxGate (s : Dev) (on : Bool) : Dev :=
  ((s.updPwr fun p => { p with auxDrive := on }).auxRail).put F.DOM_STATE [11] (if on then stRun else stOff)

def Dev.auxOff (s : Dev) : Dev := s.auxGate false

/-- An attempt starts (DEDUCED, log 98). -/
def Dev.auxTry (s : Dev) : Dev :=
  if s.flag F.AUX_EN && !s.flag F.AUX_LATCHED && !s.pwr.auxDrive && !s.pwr.auxRetry &&
      !(s.get F.UNIT_STATE == stKeep && !s.flag F.AUX_IN_KEEP) then s.auxGate true
  else s

/-- AUX_EN is written. -/
def Dev.auxEnable (s : Dev) (on : Bool) : Dev :=
  let s := s.put0 F.AUX_EN (b2n on)
  if on then s.auxTry else (s.updPwr fun p => { p with auxRetry := false }).auxOff

/-- An attempt fails; the third failure in a row latches the rail off. -/
def Dev.auxFail (s : Dev) : Dev :=
  if !s.pwr.auxDrive then s
  else
    let n := s.get F.AUX_ATTEMPTS + 1
    let s := s.auxOff.put0 F.AUX_ATTEMPTS (min n 3)
    if 3 ≤ n then ((s.put0 F.AUX_LATCHED 1).raisePf 5).notify 9 3 else s.updPwr fun p => { p with auxRetry := true }

def Dev.auxRetryNow (s : Dev) : Dev :=
  if s.pwr.auxRetry then (s.updPwr fun p => { p with auxRetry := false }).auxTry else s

def Dev.auxStable (s : Dev) : Dev := if s.pwr.auxDrive then (s.put0 F.AUX_ON 1).put0 F.AUX_ATTEMPTS 0 else s

/-- The latch clears, and a new attempt starts when AUX_EN is set. -/
def Dev.auxClear (s : Dev) : Dev :=
  ((s.put0 F.AUX_LATCHED 0).put0 F.AUX_ATTEMPTS 0).auxTry

/-! ### The end of a transition -/

/-- What a crest die holds is lost in Off: tarn, registers, engines, cores, S-arrays, and its CXL ports (18 R643, R648, 15 R543). -/
def Dev.dieOff (s : Dev) (d : Nat) : Dev :=
  let s := s.forEach [2 * d, 2 * d + 1] fun s p => if s.flag F.XP_PRESENT [p / 2, p % 2] then s.report 0x45 d 0 none p 0 else s
  let a := d * 2 ^ 32
  let w := 0x2000000 + 0x400000 * d
  let s := { s.screeOff d with
    mem := Tab.eraseRange s.mem a (a + 2 ^ 32)
    ecc := Tab.eraseRange s.ecc (a / 8) ((a + 2 ^ 32) / 8)
    regs := Tab.eraseRange s.regs w (w + 0x400000)
    caps := s.caps.filter fun e => !(decide (w ≤ e.1 % 2 ^ 26) && decide (e.1 % 2 ^ 26 < w + 0x400000))
    held := s.held.filter fun e => !(decide (w ≤ e.1 % 2 ^ 26) && decide (e.1 % 2 ^ 26 < w + 0x400000))
    cores := Tab.eraseRange s.cores (128 * d) (128 * d + 128)
    engines := s.engines.filter fun e => e.1 / 16 % 8 != d }
  s.forEach [2 * d, 2 * d + 1] fun s p => { s with ext := { s.ext with lost := Tab.set false s.ext.lost p true } }

/-- A domain reaches a state: the pending request is taken up or dropped, a floor or a wake goes on from there, and MGMT
follows a unit Keep (18 R645 to R647, R683). -/
def Dev.reachState (s : Dev) (d st : Nat) : Dev :=
  let s := (s.put F.DOM_STATE [d] st).put F.DOM_BUSY [d] 0
  let s := s.updPwr fun p => { p with flight := Tab.set none p.flight d none, late := Tab.set false p.late d false }
  let s := if st = stOff ∧ d < 6 then s.dieOff d else s
  let s := if st < stDoze then { s with wakes := Tab.set false s.wakes d false } else s
  let s := if d = 8 then (if st = stKeep && !s.flag F.AUX_IN_KEEP then s.fixUnit.auxOff else s.fixUnit.auxTry) else s
  let pend := s.get F.DOM_PENDING [d]
  let s := s.put F.DOM_PENDING [d] 7
  let s :=
    if pend ≠ 7 then (if s.floored d pend = st then s else s.beginMove d (s.floored d pend))
    else if s.floored d st ≠ st then s.beginMove d (s.floored d st)
    else if st = stDoze ∨ st = stKeep then (if s.levelWake d then s.startExit d else s)
    else s
  if s.pwr.unitKeep ∧ (List.range 8).all (fun x => decide (stKeep ≤ s.get F.DOM_STATE [x]) && !s.flag F.DOM_BUSY [x]) then
    (s.updPwr fun p => { p with unitKeep := false }).applyReq 8 stKeep
  else s

/-- Is no chunk running on the domain (18 R647)? -/
def Dev.drained (s : Dev) (d : Nat) : Bool :=
  !(s.engines.any fun e => e.2.busy.isSome && e.1 / 16 % 8 == d) || decide (8 ≤ d)

/-- DOMAIN_TRANSITION_DONE: a transition to a lower state goes on as far as it can: the chunks have reached their
boundaries, the rails are asked and have acknowledged, and the state is reached (18 Table 18.5). -/
def Dev.moveOn (s : Dev) (d : Nat) : Dev :=
  if s.get F.WARDEN_MODE = 2 then s
  else match Tab.get none s.pwr.flight d with
  | none => s
  | some f =>
    if f.target < s.get F.DOM_STATE [d] then s
    else if f.stage = 0 ∧ !s.drained d then s
    else
      let s := if f.stage = 0 then
          (s.updPwr fun p => { p with flight := Tab.set none p.flight d (some { f with stage := 1 }) }).askRails d else s
      if s.railsReady d then s.reachState d f.target else s

/-- WAKE_DELAY_DONE: the fixed delay of an exit has passed; a rail that has not acknowledged is waited for and counted
(18 R651). -/
def Dev.exitDone (s : Dev) (d : Nat) : Dev :=
  if s.get F.WARDEN_MODE = 2 then s
  else match Tab.get none s.pwr.flight d with
  | none => s
  | some f =>
    if s.get F.DOM_STATE [d] ≤ f.target ∨ s.get F.DOM_STATE [d] = stOff then s
    else if !s.railsReady d then
      if Tab.get false s.pwr.late d then s
      else (s.updPwr fun p => { p with late := Tab.set false p.late d true }).count F.WAKE_LATE_COUNT
    else (s.reachState d f.target).retryHeld

/-- DIE_STARTUP: a crest die returns from Off, or fails and stays Off (20 R731). -/
def Dev.dieStartup (s : Dev) (d : Nat) (ok : Bool) : Dev :=
  match Tab.get none s.pwr.flight d with
  | none => s
  | some f =>
    if 6 ≤ d ∨ s.get F.DOM_STATE [d] ≠ stOff ∨ f.target = stOff then s
    else if ok then ((s.screeRestore d).reachState d f.target)
    else
      let s := s.updPwr fun p => { p with flight := Tab.set none p.flight d none }
      let s := (s.put F.DOM_BUSY [d] 0).put F.DOM_PENDING [d] 7
      let s := (s.put0 F.DIE_PRESENT (clearBit (s.get F.DIE_PRESENT) d)).put0 F.DIE_TEST_FAIL (setBit (s.get F.DIE_TEST_FAIL) d)
      (s.railReq d 0).pwrEvent F.DOM_REFUSED 6

/-! ### Outputs without power (18 R656, Table 18.6; 22 R781, R782) -/

/-- Do the outputs of a group float: 0 to 5 the CXL lanes of CREST_k, 6 the fabric lanes of ports 6 to 11 and the secondary regulator bus,
7 the panel's display, LED and cage pins, any other the rest. -/
def Dev.floats (s : Dev) (group : Nat) : Bool :=
  s.pwr.off != 0 || (decide (group < 6) && s.dieGone group) || (group == 6 && s.colBGone) || (group == 7 && !s.flag F.AUX_ON)

/-- The level of XP_PERST_N_p: low while the port is not to be attached, or its crest die is Off, absent or lost. -/
def Dev.xpPerstN (s : Dev) (p : Nat) : Bool := Tab.get false s.boot.released p && !s.dieGone (p / 2)

/-! ### Requests (18 R645) -/

/-- States allowed (18 Table 18.1). -/
def stateAllowed (d t : Nat) : Bool :=
  if d < 6 then decide (t ≤ 4) else if d < 8 then [0, 2, 3].contains t else if d = 8 then [0, 3].contains t
  else if d = 10 then t == 0 else if d = 11 then [0, 4].contains t else decide (d = 255) && decide (t < 4)

/-- Does any partition own a resource on the die? -/
def Dev.dieOwned (s : Dev) (d : Nat) : Bool :=
  (List.range 64).any fun p =>
    ((s.activeRes p ++ (s.part p).releasing ++ (s.part p).claims).any fun r => r.die == d && r.kind != 6)

/-- Are the domain's rails on the secondary bus? -/
def domSecondary (d : Nat) : Bool := [3, 4, 5, 7].contains d

/-- Is a request refused?  A die that is lost, or absent, takes none. -/
def Dev.reqRefused (s : Dev) (t d : Nat) : Bool :=
  let down := fun (d : Nat) => decide (stKeep ≤ s.get F.DOM_STATE [d])
  !stateAllowed d t || d == 9 ||
  (decide (d < 6) && t == stOff && s.dieOwned d) ||
  (d == 255 && t == stKeep && s.get F.DOM_STATE [9] != stKeep) ||
  (d == 8 && t == stKeep && !((List.range 8).all down && s.get F.DOM_STATE [9] == stKeep)) ||
  (domSecondary d && t != stRun && s.colBGone) ||
  (decide (d < 6) && s.dieIsLost d)

/-- Apply one state to a list of domains, skipping those in Off and those whose rails cannot be reached. -/
def Dev.applyTo (s : Dev) (l : List Nat) (t : Nat) : Dev :=
  s.forEach (l.filter fun d => s.get F.DOM_STATE [d] != stOff && !(domSecondary d && t != stRun && s.colBGone)) fun s d =>
    s.applyReq d t

/-- A request for a state (0 to 4) of a domain; answers whether it was accepted (DEDUCED, log 92). -/
def Dev.powerReq (s : Dev) (t d : Nat) : Bool × Dev :=
  if s.get F.WARDEN_MODE = 2 then (false, s)
  else if s.reqRefused t d then (false, s.pwrEvent F.DOM_REFUSED 6)
  else (true,
    if d = 255 then
      if t = stKeep then
        let s := (s.updPwr fun p => { p with unitKeep := true }).applyTo [7, 6, 5, 4, 3, 2, 1, 0] stKeep
        if (List.range 8).all (fun x => decide (stKeep ≤ s.get F.DOM_STATE [x]) && !s.flag F.DOM_BUSY [x]) then
          (s.updPwr fun p => { p with unitKeep := false }).applyReq 8 stKeep
        else s
      else
        let s := s.updPwr fun p => { p with unitKeep := false }
        if t = stDoze then s.applyTo [7, 6, 5, 4, 3, 2, 1, 0] stDoze
        else if t = stTrim then s.applyTo [0, 1, 2, 3, 4, 5] stTrim
        else s.forEach ((List.range 9).filter fun d => bitAt (s.get F.WAKE_SET) d && s.get F.DOM_STATE [d] != stOff) fun s d =>
          s.applyReq d stRun
    else if d = 10 then s
    else if d = 11 then (if t = stOff then s.auxOff else s.auxTry)
    else s.applyReq d t)

/-! ### Floors (18 R665, R666, R683) -/

/-- The floor of a crest die follows the thermal floor and the cap floor. -/
def Dev.fixFloor (s : Dev) (d : Nat) : Dev :=
  let new := b2n (Tab.get false s.pwr.thermal d || Tab.get false s.pwr.capped d)
  if s.get F.DOM_FLOOR [d] = new then s
  else
    let s := s.put F.DOM_FLOOR [d] new
    let st := s.get F.DOM_STATE [d]
    let pend := s.get F.DOM_PENDING [d]
    let req := s.get F.DOM_REQUESTED [d]
    match Tab.get none s.pwr.flight d with
    | some f =>
      if new = 1 then (if f.target = stRun ∧ pend = 7 ∨ pend = stRun then s.put F.DOM_PENDING [d] stTrim else s)
      else if req = stRun ∧ ((f.target = stTrim ∧ pend = 7) ∨ pend = stTrim) then s.put F.DOM_PENDING [d] stRun else s
    | none =>
      if new = 1 then (if st = stRun then s.beginMove d stTrim else s)
      else if st = stTrim ∧ req = stRun then s.beginMove d stRun else s

/-- THERM_WARN and THERM_THROTTLE are compared with a die's hottest sensor. -/
def Dev.thermal (s : Dev) (die temp : Nat) : Dev :=
  if 8 ≤ die then s
  else
    let s := s.put F.TEMP [die] temp
    -- a thermal event wakes MGMT (18 Table 18.3)
    let s := if s.get F.THERM_WARN ≤ temp ∨ s.get F.THERM_THROTTLE ≤ temp then s.wake 8 false else s
    let s := if s.get F.THERM_WARN ≤ temp then s.pwrEvent F.THERM_WARN_EV 2 else s
    if die < 6 ∧ s.get F.THERM_THROTTLE ≤ temp then
      let s := s.updPwr fun p => { p with thermal := Tab.set false p.thermal die true }
      ((if s.flag F.THROTTLED then s else s.pwrEvent F.THROTTLED 3)).fixFloor die
    else s

/-- 110 °C (18 R665, R661). -/
def Dev.thermalTrip (s : Dev) (die : Nat) : Dev :=
  if 8 ≤ die then s
  else ((s.put F.TEMP [die] 110).wake 8 false).fault
    (s.reportNow ⟨if die < 6 then 0x12 else if die = 6 then 0x14 else 0x13, die, 0, none, 0, 0⟩) 0 []

/-- 10 ms below THERM_THROTTLE − 5 °C. -/
def Dev.throttleRelease (s : Dev) (die temp : Nat) : Dev :=
  if 6 ≤ die then s
  else
    let s := s.put F.TEMP [die] temp
    if temp < s.get F.THERM_THROTTLE - 5 then
      let s := s.updPwr fun p => { p with thermal := Tab.set false p.thermal die false }
      (s.put0 F.THROTTLED (b2n (!s.pwr.thermal.isEmpty))).fixFloor die
    else s

/-! ### Caps (18 R666, R667) -/

/-- SC_BUDGET of the crest dies. -/
def Dev.budgets (s : Dev) : List Nat := (List.range 6).map fun d => s.get F.SC_BUDGET [d]

/-- Keep CAP_ACTIVE: a step is in force. -/
def Dev.fixCap (s : Dev) : Dev :=
  if s.pwr.halved.isEmpty && s.pwr.capped.isEmpty then s.put0 F.CAP_ACTIVE 0
  else if s.flag F.CAP_ACTIVE then s else s.pwrEvent F.CAP_ACTIVE 4

/-- One step down. -/
def Dev.capStep (s : Dev) : Dev :=
  if s.budgets.any fun b => decide (1024 < b) then
    let old := s.budgets
    let s := s.forEach (List.range 6) fun s d =>
      let b := s.get F.SC_BUDGET [d]
      if 1024 < b then s.put F.SC_BUDGET [d] (max 1024 (b / 2)) else s
    (s.updPwr fun p => { p with halved := old :: p.halved }).fixCap
  else match [5, 4, 3, 2, 1, 0].find? fun d => !s.dieGone d && !Tab.get false s.pwr.capped d with
  | some d => ((s.updPwr fun p => { p with capped := Tab.set false p.capped d true }).fixFloor d).fixCap
  | none => s.pwrEvent F.PWR_OVER 5

/-- One step undone, in reverse order. -/
def Dev.capUndo (s : Dev) : Dev :=
  match (s.pwr.capped.map (·.1)).min? with
  | some d => ((s.updPwr fun p => { p with capped := Tab.set false p.capped d false }).fixFloor d).fixCap
  | none =>
    match s.pwr.halved with
    | [] => s
    | b :: t =>
      let s := s.forEach (List.range 6) fun s d => s.put F.SC_BUDGET [d] (b.getD d 8192)
      (s.updPwr fun p => { p with halved := t }).fixCap

/-- CAP_ESTIMATE: the estimate, the 1 ms average, and whether a step, or 10 ms for an undo, is due.  A cap that is removed
is undone like one that is kept (DEDUCED, log 95). -/
def Dev.capEstimate (s : Dev) (w avg : Nat) (step undo : Bool) : Dev :=
  let s := s.put0 F.PWR_NOW_W (min w 65535)
  let cap := s.get F.PWR_CAP_W
  if cap ≠ 0 ∧ cap < avg ∧ step then s.capStep
  else if undo ∧ (cap = 0 ∨ avg * 10 < cap * 9) then s.capUndo
  else s

/-- A POWER frame (18 Table 18.8). -/
def Dev.sendPower (s : Dev) (sub dst : Nat) (w : List Nat) : Dev :=
  s.send tyPower sub dst 0 ((w.map (BitVec.ofNat 32)) ++ List.replicate (4 - w.length) 0)

/-- The hottest die's temperature. -/
def Dev.hottest (s : Dev) : Nat := ((List.range 8).map fun d => s.get F.TEMP [d]).foldl max 0

/-- REPORT to PWR_REPORT_DST. -/
def Dev.sendReport (s : Dev) : Dev :=
  if s.get F.PWR_REPORT_DST = 0 ∨ s.get F.PWR_REPORT_MS = 0 then s
  else s.sendPower 2 (s.get F.PWR_REPORT_DST)
    [s.get F.PWR_NOW_W + s.get F.PWR_CAP_W * 2 ^ 16, s.get F.VIN_NOW / 10 % 65536,
     s.hottest + s.get F.UNIT_STATE * 2 ^ 8 + b2n (Tab.get false s.pauses 0) * 2 ^ 11 + s.get F.THROTTLED * 2 ^ 12 +
       s.get F.AUX_LATCHED * 2 ^ 13]

/-! ### Resets (20 R715, R716) -/

/-- The blocks of the always-on domain (21 Table 21.1). -/
def aonBlock (off : Nat) : Bool := decide (off < 0x400000) || (decide (0x3A00000 ≤ off) && decide (off < 0x3E00000))

/-- The T part of the Scree arrays, which every reset and Off keep (10 R363). -/
def Dev.keptScree (s : Dev) : Scree := (s.forEach (List.range 6) Dev.screeOff).scree

/-- The unit as power-on reset leaves it: what is outside the unit stays (host memory, messages sent, pins), and the
T-arrays. -/
def Dev.powerReset (s : Dev) : Dev :=
  { Dev.reset with
    free := s.free, hostMem := s.hostMem, hostPoison := s.hostPoison, scree := s.keptScree
    host := { HostIf.reset with sent := s.host.sent }
    pwr := { Pwr.reset with wakeIn := s.pwr.wakeIn }
    boot := { Boot.reset with plugged := s.boot.plugged, perst := s.boot.perst } }

/-- Held in power-on reset: Off (18 Table 18.9 step 6, 20 Table 20.8 step 5). -/
def Dev.powerOff (s : Dev) (how : Nat) : Dev :=
  let s := s.powerReset
  s.updPwr fun p => { p with off := how }

/-- Registers that a warm reset keeps (20 Table 20.1): the always-on blocks but CAD_CTRL, CAD_PART and the alarm entries;
of the warden block the log, its head and acknowledgement, the counts and FENCE_HISTORY (DEDUCED, log 97). -/
def warmKept (off : Nat) : Bool :=
  if 0x3800000 ≤ off ∧ off < 0x3A00000 then decide (0x380000C ≤ off)
  else aonBlock off && off != F.RUN.off [] && off != F.CAD_PART_LO.off [] && off != F.CAD_PART_HI.off [] &&
    !(decide (F.AL_STEP_LO.off [0] ≤ off) && decide (off < F.AL_STEP_LO.off [256])) &&
    !([F.EXT_MODE.off [], F.EXT_MODE_NOW.off [], F.EXT_SIZE_GIB.off [], F.BOOT_STAGE.off [], F.DIE_PRESENT.off []].contains off)

/-- The alarms are disarmed; LAST of those that were armed or dispatching reads CANCELLED (20 R716, R733). -/
def Dev.disarmAll (s : Dev) : Dev :=
  let live := (List.range 256).filter fun n => s.get F.AL_STATE [n] != 0
  let s : Dev := { s with alarms := [], dispatch := [] }
  s.forEach live fun s n => (s.put F.AL_STATE [n] 0).put F.AL_LAST [n] stCANCELLED

/-- A warm reset: every domain but AON and AUX begins anew, and bring-up runs from step 4 of Table 20.5. -/
def Dev.warmReset (s : Dev) : Dev :=
  let s := s.stopMaster
  let live := (List.range 256).filter fun n => s.get F.AL_STATE [n] != 0
  let hist := s.get F.FENCE_HISTORY
  let out := (List.range 3).filter fun c => decide (3 ≤ bitsOf hist (8 * c) 8)
  let n : Dev := { s.powerReset with
    now := s.now
    regs := s.regs.filter fun e => warmKept e.1
    shadow := s.shadow.filter fun e => warmKept e.1
    caps := s.caps.filter fun e => aonBlock (e.1 % 2 ^ 26)
    held := s.held.filter fun e => aonBlock (e.1 % 2 ^ 26)
    cad := { s.cad with partMask := 0, issued := none, taking := none, resign := false, handing := false }
    chain := s.chain
    mem := s.mem.filter fun e => decide (2 ^ 48 ≤ e.1)
    ecc := s.ecc.filter fun e => decide (2 ^ 48 ≤ e.1 * 8)
    warden := { Warden.reset with ccAt := s.warden.ccAt }
    pauses := Tab.set false [] 1 (decide (2 ≤ s.get F.DRAIN_STATE))
    pwr := { Pwr.reset with
      resCyc := s.pwr.resCyc, resTick := s.pwr.resTick, auxRetry := s.pwr.auxRetry, auxDrive := s.pwr.auxDrive, auxShort := s.pwr.auxShort
      wakeIn := s.pwr.wakeIn
      emerg := [] }
    panel := s.panel
    boot := { Boot.reset with board := s.boot.board, warm := true, plugged := s.boot.plugged, perst := s.boot.perst } }
  let n := n.forEach live fun n a => n.put F.AL_LAST [a] stCANCELLED
  -- rails 11, 0 to 5, 6 and 7 are turned off; 8, 9 and 10 stay on
  let n := n.forEach [11, 0, 1, 2, 3, 4, 5, 6, 7] fun n r =>
    ((((n.put F.RAIL_TARGET [r] 0).put F.RAIL_IN_FLIGHT [r] 0).put F.RAIL_ENABLED [r] 0).put F.RAIL_PENDING_VALID [r] 0).put
      F.RAIL_PENDING [r] 0
  let n := n.forEach (List.range 10) fun n d =>
    ((((n.put F.DOM_STATE [d] 0).put F.DOM_REQUESTED [d] 0).put F.DOM_PENDING [d] 7).put F.DOM_BUSY [d] 0).put F.DOM_FLOOR [d] 0
  let n := (n.put0 F.UNIT_STATE 0).put0 F.FENCED (out.map (2 ^ ·)).sum
  let n := if out.isEmpty then n else n.put0 F.WARDEN_MODE 1
  ((n.put0 F.BOOT_STAGE 2).put0 F.THROTTLED 0).put0 F.CAP_ACTIVE 0

/-- RESET_ARM (17 Table 17.7). -/
def Dev.resetArm (s : Dev) (req : Nat) : Dev := s.updWarden fun w => { w with arm := some (req, s.now) }

/-- RESET_GO within 1 ms of RESET_ARM from the same requester, while a warm reset is accepted (17 R627, 20 R716). -/
def Dev.resetGo (s : Dev) (req : Nat) : Dev :=
  match s.warden.arm with
  | none => s
  | some (r, t) =>
    if r = req ∧ s.now ≤ t + oneMs ∧ (s.get F.BOOT_STAGE = 9 ∨ s.get F.WARDEN_MODE = 2 ∨ s.get F.BOOT_ERR ≠ 0) then s.warmReset
    else s

/-! ### Supply (18 R669 to R671) -/

/-- The order in which rails are turned off (18 Table 18.9 step 5). -/
abbrev offOrder : List Nat := [11, 0, 1, 2, 3, 4, 5, 6, 7, 9, 8, 10]

/-- Turn off the next rail that is on and can be commanded; after the last one the unit is Off (DEDUCED, log 94). -/
def Dev.offRun (s : Dev) : List Nat → Dev
  | [] => s.powerOff s.pwr.offTo
  | r :: t =>
    if s.railFree r ∧ (s.flag F.RAIL_ENABLED [r] ∨ s.flag F.RAIL_IN_FLIGHT [r]) then
      ((s.updPwr fun p => { p with offSeq := r :: t, emerg := Tab.set 0 p.emerg r 2 }).put F.RAIL_PENDING_VALID [r] 0).railSend r 0
    else Dev.offRun s t

/-- The regulator-disable step: the point of no return (18 Table 18.9 step 4, 20 Table 20.8 step 3). -/
def Dev.regulatorOff (s : Dev) (how : Nat) : Dev :=
  let s := s.portsLost.stopMaster
  let s := { s with pauses := Tab.set false s.pauses 4 true }
  (s.updPwr fun p => { p with offTo := how }).offRun offOrder

/-- A rail acknowledges; a rail that is being turned off for good is followed by the next. -/
def Dev.railDone (s : Dev) (r now : Nat) : Dev :=
  let was := s.flag F.RAIL_IN_FLIGHT [r]
  let s := s.railAck r now
  match s.pwr.offSeq with
  | x :: t => if x = r ∧ was ∧ r < 12 then s.offRun t else s
  | [] => s

/-- A fault on a rail (18 R663): its request in flight ends; during bring-up the bring-up answers for it. -/
def Dev.railFault (s : Dev) (r : Nat) : Dev :=
  if 14 ≤ r then s
  else
    let s := if r < 12 then (s.put F.RAIL_IN_FLIGHT [r] 0) else s
    (s.wake 8 false).fault (s.reportNow ⟨if r < 6 then 0x15 else 0x16, 6, 0, none, 0, r⟩) 0 []

/-- AVS_ADJUST (18 R662): within the adaptive band, at most 10 mV. -/
def Dev.avsAdjust (s : Dev) (r mv : Nat) : Dev :=
  let t := s.get F.RAIL_TARGET [r]
  let run := (railDoms r).all fun d => s.get F.DOM_STATE [d] == stRun && !s.flag F.DOM_BUSY [d]
  if [0, 1, 2, 3, 4, 5, 8, 9].contains r ∧ run ∧ s.flag F.RAIL_ENABLED [r] ∧ 700 ≤ mv ∧ mv ≤ 850 ∧ mv ≤ t + 10 ∧ t ≤ mv + 10 ∧
      s.get F.WARDEN_MODE ≠ 2 then s.railReq r mv
  else s

/-- VIN stays below VIN_LOSS_MV (18 R669, R670; 20 R736; 22 R797). -/
def Dev.supplyLow (s : Dev) (mv : Nat) : Dev :=
  let s := s.put0 F.VIN_NOW (min mv 60000)
  if s.get F.VIN_LOSS_MV ≤ min mv 60000 ∨ Tab.get false s.pauses 0 ∨ Tab.get false s.pauses 4 then s
  else if s.get F.BOOT_STAGE < 5 then (s.updPwr fun p => { p with offTo := 1 }).offRun offOrder
  else
    let s := s.pwrEvent F.SUPPLY_LOW 0
    let s := s.sendPower 3 bcast [1]
    { s with pauses := Tab.set false s.pauses 0 true }

/-- SUPPLY_GRACE has passed: the sequence completes to Off; an orderly shut-down under way governs the restart (20 R737). -/
def Dev.supplyGrace (s : Dev) : Dev :=
  if !Tab.get false s.pauses 0 ∨ Tab.get false s.pauses 4 then s
  else (s.sendPower 3 bcast [3]).regulatorOff (if s.get F.BOOT_STAGE = 10 then 2 else 1)

/-- VIN is back before the regulator-disable step: everything paused resumes (18 R671). -/
def Dev.supplyBack (s : Dev) (mv : Nat) : Dev :=
  let s := s.put0 F.VIN_NOW (min mv 60000)
  if min mv 60000 < s.get F.VIN_OK_MV ∨ !Tab.get false s.pauses 0 ∨ Tab.get false s.pauses 4 then s
  else
    let s := { s with pauses := Tab.set false s.pauses 0 false }
    (s.pwrEvent F.SUPPLY_BACK 1).sendPower 3 bcast [0]

/-- The supply has been back for 10 ms after Off: a normal power-on begins (18 Table 18.9 step 7). -/
def Dev.supplyRestart (s : Dev) : Dev := if s.pwr.off = 1 then s.powerReset else s

/-! ### What the warden carries out (17 R615, R617, R622; 21 R748) -/

/-- The registers with SH fields of a block of Table 21.2: 0 cadence, 1 MPU. -/
def shReg (block off : Nat) : Bool :=
  if block = 0 then
    [0x100008, 0x100014, 0x100018, 0x100050, 0x100054].contains off || (decide (0x100080 ≤ off) && decide (off < 0x1000C0))
  else
    (decide (0x1001000 ≤ off) && decide (off < 0x1001200)) || (decide (0x1010000 ≤ off) && decide (off < 0x1030000)) ||
    (decide (0x800000 ≤ off) && decide (off < 0x900000) && [0x3400, 0x3404, 0x3408, 0x340C].contains ((off - 0x800000) % 0x4000))

/-- A commit copies the whole shadow of a block to its active registers (00 R13). -/
def Dev.commitBlock (s : Dev) (block : Nat) : Dev :=
  let offs := (s.shadow.map (·.1) ++ s.regs.map (·.1)).filter (shReg block)
  let s := s.forEach offs fun s off => s.setReg off (s.shadowReg off)
  -- a committed region that is not 64 B aligned, or a window that is cut, is flagged (06 R216, 15 R528)
  let odd := fun (e : Nat × Word) => shReg 1 e.1 && decide (0x1001000 ≤ e.1) && [0, 8].contains (e.1 % 0x20) && e.2.toNat % 64 != 0
  let cut := fun (p : Nat) => decide (768 * 2 ^ 30 < s.get F.XW_BASE_LO [p] * 2 ^ 26 + s.get F.XW_BASE_HI [p] * 2 ^ 32 +
    s.get F.XW_SIZE_LO [p] * 2 ^ 26 + s.get F.XW_SIZE_HI [p] * 2 ^ 32)
  if block = 1 ∧ (s.regs.any odd ∨ (List.range 64).any cut) then s.put0 F.REGION_ALIGN 1 else s

/-- Carry out a request. -/
def Dev.perform (s : Dev) (q : WReq) : Dev :=
  match q with
  | .commit b => s.commitBlock b
  | .enable p => s.partEnable p
  | .disable p => s.partDisable p
  | .reshape p sl => (s.reshape p sl).2
  | .scrub p => s.scrub p
  | .power t d => (s.powerReq t d).2

/-- A request reaches the warden: dropped during a safe stop; it waits during RESYNC, and, but for a power request,
while MGMT sleeps, which it wakes. -/
def Dev.ask (s : Dev) (q : WReq) : Dev :=
  let power := match q with
    | .power .. => true
    | _ => false
  if s.get F.WARDEN_MODE = 2 then s
  else if s.get F.WARDEN_MODE = 3 then s.updWarden fun w => { w with wait := w.wait ++ [q] }
  else if s.domAsleep 8 && !power then (s.updWarden fun w => { w with wait := w.wait ++ [q] }).wake 8 false
  else s.perform q

/-- POWER_REQ (18 R645): a reserved state or domain is an RSVD_WRITE and no request (00 R16). -/
def Dev.writePowerReq (s : Dev) (st dom : Nat) : Dev :=
  if F.PWR_REQ_STATE.rsv.bad (st % 8) ∨ F.PWR_REQ_DOMAIN.rsv.bad (dom % 256) then s.put0 F.RSVD_WRITE 1
  else s.ask (.power (st % 8) (dom % 256))

/-- RES_CLEAR (18 R668). -/
def Dev.resClear (s : Dev) : Dev := s.updPwr fun p => { p with resCyc := [], resTick := [] }

/-- The requests that waited are carried out in order. -/
def Dev.serveWaits (s : Dev) : Dev :=
  if s.get F.WARDEN_MODE = 2 ∨ s.get F.WARDEN_MODE = 3 ∨ s.domAsleep 8 then s
  else
    let l := s.warden.wait
    (s.updWarden fun w => { w with wait := [] }).forEach l Dev.perform

/-! ### Alarm dispatch (03 R100 to R104, 17 R615, R622) -/

/-- The domain an action's target lies in: DOORBELL a queue's die, FACE_SWAP a crest die, POWER the domain it names (03 R104) (DEDUCED, log 96). -/
def Dev.actionDomain (s : Dev) (c : AlarmCopy) : Option Nat :=
  match c.action with
  | 1 => ((s.queue c.queueKey).home).map (·.1)
  | 2 => some (bitsOf c.arg 0 3)
  | 3 => if bitsOf c.arg 8 8 < 9 then some (bitsOf c.arg 8 8) else none
  | _ => none

/-- The action of an armed copy: its status (DEDUCED, log 96). -/
def Dev.alarmAct (s : Dev) (c : AlarmCopy) : Nat × Dev :=
  match c.action with
  | 1 => s.alarmDoorbell c
  | 2 => s.alarmFaceSwap c
  | 3 =>
    let r := s.powerReq (bitsOf c.arg 0 3) (bitsOf c.arg 8 8)
    (if r.1 then stOK else stSTATE, r.2)
  | 4 =>
    if bitsOf c.arg 0 16 = 0x40 then (stOK, s.commitBlock 0)
    else if bitsOf c.arg 0 16 = 0x400 then (stOK, s.commitBlock 1) else (stSTATE, s)
  | 5 => s.alarmReshape c
  | 6 => (stOK, s.alarmInterrupt c)
  | _ => (stOK, s)

/-- The warden performs the oldest dispatch, when its action is one of `acts`: nothing during a safe stop, a wait during
RESYNC or while MGMT or the target sleeps, which it wakes. -/
def Dev.dispatchAlarm (s : Dev) (acts : List Nat) : Dev :=
  match s.dispatch with
  | [] => s
  | d :: t =>
    if !acts.contains d.copy.action ∨ s.get F.WARDEN_MODE = 2 ∨ s.get F.WARDEN_MODE = 3 then s
    else
      let doms := ((s.actionDomain d.copy).toList ++ [8]).filter s.domAsleep
      if doms.isEmpty then
        let r := ({ s with dispatch := t }).alarmAct d.copy
        r.2.endDispatch d r.1
      else s.forEach doms fun s x => s.wake x false

end Sys2Proof.Machine
end

