-- ==== Sys2Proof/Machine/AlarmRows.lean ====
section
/-! DEFINITION. The meanings of alarm dispatch, one row per action, and of a commit (03_cadence, 00_scope; rows ALARM_DISPATCH
to ALARM_INTERRUPT, COMMIT). -/

namespace Sys2Proof.Machine

def execAlarmDispatch (s : State) : Host.Outcome State Fault Refusal := onDev (·.dispatchAlarm [0, 1, 2, 3, 4, 5, 6]) s
def execAlarmNone (s : State) : Host.Outcome State Fault Refusal := onDev (·.dispatchAlarm [0]) s
def execAlarmDoorbell (s : State) : Host.Outcome State Fault Refusal := onDev (·.dispatchAlarm [1]) s
def execAlarmFaceSwap (s : State) : Host.Outcome State Fault Refusal := onDev (·.dispatchAlarm [2]) s
def execAlarmPower (s : State) : Host.Outcome State Fault Refusal := onDev (·.dispatchAlarm [3]) s
def execAlarmCommit (s : State) : Host.Outcome State Fault Refusal := onDev (·.dispatchAlarm [4]) s
def execAlarmReshape (s : State) : Host.Outcome State Fault Refusal := onDev (·.dispatchAlarm [5]) s
def execAlarmInterrupt (s : State) : Host.Outcome State Fault Refusal := onDev (·.dispatchAlarm [6]) s
/-- COMMIT: of the block numbered as in 21 Table 21.2 (0 cadence, 1 MPU). -/
def execCommit (block : Nat) (s : State) : Host.Outcome State Fault Refusal :=
  onDev (fun d => if block < 2 then d.ask (.commit block) else d) s

end Sys2Proof.Machine
end

