-- ==== Sys2Proof/Machine/ExtRows.lean ====
section
/-! DEFINITION. The commands of memory that are no engine's: applying an external layout, patrol, port loss and expander
housekeeping (15_memory; rows EXT_APPLY, PATROL_READ to HEALTH_POLL). -/

namespace Sys2Proof.Machine

/-- Indexes of CXL port 2 d + j. -/
def xpIx (p : Nat) : List Nat := [p / 2, p % 2]

/-- EXT_APPLY (15 R541): the whole window is unmapped while the layout of EXT_CFG is applied; refused while a partition
is ENABLED or a sequence is under way. -/
def Dev.extApply (s : Dev) : Dev :=
  if s.flag F.EXT_BUSY ∨ (List.range 64).any fun p => s.get F.P_STATE [p] == pENABLED then s.put0 F.EXT_CFG_ERR 1
  else
    let s := ((s.put0 F.EXT_BUSY 1).put0 F.EXT_MODE_NOW 0).put0 F.EXT_SIZE_GIB 0
    { s with ext := { s.ext with applying := some (s.get F.EXT_MODE, s.flag F.EXT_IG) } }

/-- The extent of the window under a mode, in GiB, from the capacities (15 Tables 15.6, 15.7). -/
def extSize (mode : Nat) (cap : Nat → Nat) : Nat :=
  match mode with
  | 1 => ((List.range 12).map fun p => if cap p = 0 then 0 else 64 * p + cap p).foldl max 0
  | 2 => ((List.range 6).map fun d =>
      let a := cap (2 * d)
      let b := cap (2 * d + 1)
      if a ≠ 0 ∧ b ≠ 0 then 128 * d + 2 * min a b else if a + b = 0 then 0 else 128 * d + (a + b)).foldl max 0
  | 3 => 12 * ((List.range 12).map cap).foldl min 64
  | _ => 0

/-- EXT_DONE (15 Table 15.7): the requirement is checked and every decoder has committed, or the mode stays NONE. -/
def Dev.extDone (s : Dev) (commitFails : Bool) : Dev :=
  match s.ext.applying with
  | none => s
  | some (mode, ig) =>
    let cap := fun p => if s.flag F.XP_PRESENT (xpIx p) then s.get F.XP_CAP_GIB (xpIx p) else 0
    let s := { s with ext := { s.ext with applying := none } }
    let s := s.put0 F.EXT_BUSY 0
    if commitFails || (mode == 3 && (List.range 12).any fun p => cap p == 0) then
      (s.put0 F.EXT_CFG_ERR 1).put0 F.EXT_MODE_NOW 0
    else
      let s := { s with ext := { s.ext with ig := ig, lost := [] } }
      ((s.put0 F.EXT_MODE_NOW mode).put0 F.EXT_SIZE_GIB (extSize mode cap)).put0 F.EXT_DONE 1

/-- Bytes of SRAM a scrubber patrols: tarn of a crest die, Col SRAM of a col die. -/
def sramSize (die : Nat) : Nat := if die < 6 then 3 * GiB else 2 * GiB

/-- The key of a die's SRAM at an offset. -/
def sramKey (die off : Nat) : Nat := die * 2 ^ 32 + off

/-- PATROL_READ (15 R536): the words of the block at PATROL_POS are read, a corrected one is rewritten, and the position
moves on; patrol pauses in Keep and Off. -/
def Dev.patrolRead (s : Dev) (die : Nat) : Dev :=
  let en := errField F.PATROL_EN F.SRAM_PATROL_EN die
  let pos := errField F.PATROL_POS F.SRAM_PATROL_POS die
  if 8 ≤ die ∨ !s.flag en (errIx die) ∨ s.dieGone die ∨ s.get F.DOM_STATE [dieDomain die] = stKeep ∨ s.hostShut ∨
      Tab.get false s.pauses 3 then s
  else
    let b := s.get pos (errIx die)
    let key := sramKey die (64 * b)
    match s.scrubCheck die kRead key 64 with
    | some (a, v) => s.scrubRefused die kRead a v
    | none =>
    let s := s.forEach (eccWords key 64) fun s k =>
      let out := s.eccAt k
      let s := s.eccReport die k (midOf die 6 0) none out
      if out = eCorrectable then s.setEcc k 0 else s
    s.put pos (errIx die) (if sramSize die ≤ 64 * (b + 1) then 0 else b + 1)

/-- CXL_PORT_LOST (15 R543) (DESIGN CHOICE, log 84). -/
def Dev.cxlPortLost (s : Dev) (p : Nat) (linkDown : Bool) : Dev :=
  if 12 ≤ p then s
  else
    let s := if linkDown then
        ((s.put F.XP_LINK_UP (xpIx p) 0).put F.XP_RATE (xpIx p) 0).put F.XP_WIDTH (xpIx p) 0 else s
    let s := { s with ext := { s.ext with lost := Tab.set false s.ext.lost p true } }
    (s.put F.XP_LOST (xpIx p) 1).report 0x45 (p / 2) 0 none p 0

/-- EXPANDER_EVENT (15 R542): firmware reads the records and clears them; each reaches the warden. -/
def Dev.expanderEvent (s : Dev) (p : Nat) (records : List Nat) : Dev :=
  if p < 12 ∧ s.flag F.XP_PRESENT (xpIx p) then s.forEach records fun s r => s.report 0x43 (p / 2) 0 none p r else s

/-- HEALTH_POLL (15 R542): Get Health Info while the port is up. -/
def Dev.healthPoll (s : Dev) (p status : Nat) : Dev :=
  if p < 12 ∧ s.flag F.XP_LINK_UP (xpIx p) then
    let s := s.put F.XP_HEALTH (xpIx p) status
    if status = 0 then s else s.report 0x43 (p / 2) 0 none p status
  else s

def execExtApply (s : State) : Host.Outcome State Fault Refusal := onDev Dev.extApply s
def execPatrolRead (die : Nat) (s : State) : Host.Outcome State Fault Refusal := onDev (·.patrolRead die) s
/-- CXL_PORT_LOST: the port, and whether its link went down. -/
def execCxlPortLost (p : Nat) (linkDown : Bool) (s : State) : Host.Outcome State Fault Refusal := onDev (·.cxlPortLost p linkDown) s
def execExpanderEvent (p : Nat) (records : List Nat) (s : State) : Host.Outcome State Fault Refusal :=
  onDev (·.expanderEvent p records) s
def execHealthPoll (p status : Nat) (s : State) : Host.Outcome State Fault Refusal := onDev (·.healthPoll p status) s

end Sys2Proof.Machine
end

