-- ==== Sys2Proof/Machine/Boot.lean ====
section
/-! DEFINITION. Bring-up, the default partition, expander attachment, host reset and orderly shut-down (20_bringup). -/

namespace Sys2Proof.Machine

/-- Set a shadow register (00 R13). -/
def Dev.setShadow (s : Dev) (off : Nat) (w : Word) : Dev := { s with shadow := Tab.set (regDefault off) s.shadow off w }

/-- What IDCODE of the test access port reads (22 R787); no command of the table reaches the port (DESIGN CHOICE, log 108). -/
abbrev tapIdcode : Word := 0x1D8640A3#32

/-! ### Boot errors (20 R722) -/

/-- A rail stands at its start-up set point, as it reports. -/
def Dev.railUp (s : Dev) (r mv now : Nat) : Dev :=
  ((s.put F.RAIL_TARGET [r] mv).put F.RAIL_NOW [r] now).put F.RAIL_ENABLED [r] 1

/-- A rail is off. -/
def Dev.railDown (s : Dev) (r : Nat) : Dev :=
  ((s.put F.RAIL_TARGET [r] 0).put F.RAIL_IN_FLIGHT [r] 0).put F.RAIL_ENABLED [r] 0

/-- Bring-up stops: every rail but VPHY and VCORE_COLA is turned off, and configuration requests are answered (DEDUCED, log 102). -/
def Dev.bootFail (s : Dev) (code : Nat) : Dev :=
  let s := (s.put0 F.BOOT_ERR code).forEach [0, 1, 2, 3, 4, 5, 6, 7, 9, 11] Dev.railDown
  { s with
    host := { s.host with rrs := false, training := s.boot.perst && s.host.linkDown }
    boot := { s.boot with hostUp := true } }

/-! ### The default partition (20 R730) -/

/-- SLOT_0 of partition 0, region 0 and the window, as the warden writes them. -/
def Dev.writeDefault (s : Dev) : Dev :=
  let dies := (List.range 6).filter s.diePresent
  let s := s.forEach [0, 1, 2] fun s k =>
    s.put F.SL_SUMMIT_MASK [0, 0, k] ((if s.diePresent (2 * k) then 0xFFF else 0) + (if s.diePresent (2 * k + 1) then 0xFFF000 else 0))
  let s := s.forEach [F.SL_QSLOT_SUMMIT, F.SL_QSLOT_SCREE, F.SL_QSLOT_CAIRN, F.SL_QSLOT_SADDLE, F.SL_QSLOT_COL] fun s f =>
    s.put f [0, 0] 4
  let s := s.forEach dies fun s d =>
    (((s.put F.SL_ENGINE_SHARE [0, 0, d] 0xFFFFFF).put F.SL_SCREE_GROUPS [0, 0, d] (16384 * 2 ^ 16)).put F.SL_GRAN_LO [0, 0, d]
      0xFFFFFFFF).put F.SL_GRAN_HI [0, 0, d] 0xFFFF
  let s := s.put F.SL_COL_PORTS [0, 0] ((if s.diePresent 6 then 0x3F else 0) + (if s.diePresent 7 then 0xFC0 else 0))
  let s := (s.put F.SL_COL_CREDIT [0, 0] 255).put F.SL_ZERO_ON_MOVE [0, 0] 0
  let size := s.get F.EXT_SIZE_GIB * 2 ^ 30
  let s := s.forEach [(F.PR_BASE_LO.off [0, 0], 0), (F.PR_BASE_HI.off [0, 0], 0), (F.PR_TOP_LO.off [0, 0], 0),
      (F.PR_TOP_HI.off [0, 0], 0x200), (F.PR_EN.off [0, 0], 0xF), (F.PR_MASK.off [0, 0], 0), (F.XW_BASE_LO.off [0], 0),
      (F.XW_BASE_HI.off [0], 0), (F.XW_SIZE_LO.off [0], size % 2 ^ 32), (F.XW_SIZE_HI.off [0], size / 2 ^ 32)]
    fun s (e : Nat × Nat) => s.setShadow e.1 (BitVec.ofNat 32 e.2)
  s.commitBlock 1

/-- Step 13: the default partition, and READY. -/
def Dev.bootReady (s : Dev) : Dev :=
  let none_ := match s.boot.board with
    | some b => b.noDefaultPart
    | none => true
  let s := if none_ then s else ((s.writeDefault).put F.P_SLOT [0] 0).partEnable 0
  { s.put0 F.BOOT_STAGE 9 with host := { s.host with rrs := false } }

/-! ### External memory (20 R721, R726) -/

/-- Step 12: the default layout is applied, unless its mode is NONE. -/
def Dev.bootExt (s : Dev) : Dev :=
  let s : Dev := { s with boot := { s.boot with extWait := false } }
  match s.boot.board with
  | some b =>
    if b.extMode % 4 = 0 then s.bootReady
    else ((s.put0 F.EXT_MODE b.extMode).put0 F.EXT_IG (b2n b.extIg)).extApply
  | none => s.bootReady

/-- Are all ports with an expander attached? -/
def Dev.allAttached (s : Dev) : Bool := s.boot.plugged.all fun e => !e.2 || s.flag F.XP_PRESENT (xpIx e.1)

/-- EXT_DONE during bring-up ends step 12 (DEDUCED, log 83). -/
def Dev.extEnd (s : Dev) (commitFails : Bool) : Dev :=
  if s.ext.applying.isNone then s
  else
    let s := s.extDone commitFails
    if s.get F.BOOT_STAGE = 8 ∧ !s.boot.extWait then s.bootReady else s

/-- EXPANDER_ATTACH (15 Table 15.8): capacity in GiB, rate, width, lines of poison, health. -/
def Dev.attach (s : Dev) (p cap rate width poison health : Nat) : Dev :=
  if 12 ≤ p ∨ !s.xpPerstN p then s
  else
    let ix := xpIx p
    let s := (((s.put F.XP_PRESENT ix 1).put F.XP_LINK_UP ix 1).put F.XP_RATE ix rate).put F.XP_WIDTH ix width
    let s := ((s.put F.XP_CAP_GIB ix (min cap 64)).put F.XP_POISON_COUNT ix poison).put F.XP_HEALTH ix health
    if s.boot.extWait && s.allAttached then s.bootExt else s

/-- XP_WAIT_EXPIRY. -/
def Dev.xpWaitOver (s : Dev) : Dev := if s.boot.extWait then s.bootExt else s

/-! ### The boot image (20 R719, R720) -/

/-- Program words, one per 16-bit unit, in its low 14 bits. -/
def halves : List Byte → List Nat
  | a :: b :: t => leNat [a, b] % 2 ^ 14 :: halves t
  | _ => []

/-- A word of an image. -/
def imageWord (img : List Byte) (i : Nat) : Nat := leNat ((img.drop (4 * i)).take 4)

/-- The header is valid (20 Table 20.3). -/
def headerOk (img : List Byte) : Bool :=
  decide (64 ≤ img.length) && imageWord img 0 == 0x4A4F5753 && imageWord img 1 == 1 && crc32c (img.take 60) == imageWord img 15

/-- The section whose offset, length and CRC start at word `i` of a valid header, when it is valid. -/
def imageSection (img : List Byte) (i max : Nat) : Option (List Byte) :=
  let o := imageWord img i
  let l := imageWord img (i + 1)
  let b := (img.drop o).take l
  if headerOk img ∧ l ≤ max ∧ o + l ≤ img.length ∧ crc32c b = imageWord img (i + 2) then some b else none

/-- The WARDEN and MGMT sections: at most 16,384 words each. -/
def imageFirmware (img : List Byte) : Option (List Nat × List Nat) :=
  match imageSection img 5 32768, imageSection img 8 32768 with
  | some w, some m => some (halves w, halves m)
  | _, _ => none

/-- The board block (20 Table 20.4). -/
def imageBoard (img : List Byte) : Option BoardBlock :=
  (imageSection img 2 img.length).map fun b =>
    let h := fun o n => leNat ((b.drop o).take n)
    { rails := (List.range 14).map fun r => h (2 * r) 2
      ports := (List.range 12).map fun n => h (0x20 + 4 * n) 4
      extMode := bitsOf (h 0x50 2) 0 2, extIg := bitAt (h 0x50 2) 2
      waitMs := min 800 (h 0x52 2)
      noDefaultPart := bitAt (h 0x54 2) 0, portsEarly := bitAt (h 0x54 2) 1 }

/-- Has an image every section that is needed: with STRAP_BOOT 1 the host supplies the firmware (20 R724)? -/
def BringAns.whole (a : BringAns) (img : List Byte) : Bool :=
  (imageBoard img).isSome && (a.boot % 4 == 1 || (imageFirmware img).isSome)

/-- The primary image is used when it is whole, else the backup. -/
def BringAns.image (a : BringAns) : List Byte := if a.whole a.primary then a.primary else a.backup

/-- The board block in use.  Where neither copy is whole, bring-up goes on to the step that needs what is missing with the board block that
is valid (DEDUCED, log 125). -/
def BringAns.board (a : BringAns) : Option BoardBlock := (imageBoard a.image).orElse fun _ => imageBoard a.primary

/-- The firmware in use: the sections of two copies are never combined. -/
def BringAns.firmware (a : BringAns) : Option (List Nat × List Nat) := if a.whole a.image then imageFirmware a.image else none

/-- Is the backup in use? -/
def BringAns.onBackup (a : BringAns) : Bool := !a.whole a.primary && (imageBoard a.backup).isSome

/-- Col-B is present: not fused off, its rail acknowledged, its sideband answering (20 Table 20.5 step 5). -/
def BringAns.hasColB (a : BringAns) : Bool := a.colB && !bitAt a.fusedOff 7

/-! ### Bring-up (20 Table 20.5) -/

/-- The sections of firmware go into program memory: the warden cores, and the two management spur cores. -/
def Dev.loadFirmware (s : Dev) (key : Nat) (words : List Nat) : Dev :=
  { s with cores := Tab.upd Core.reset s.cores key fun c =>
      { c with pmem := Tab.setMany 0 [] 0 ((words.take 16384).map fun w => w % 2 ^ 14) } }

/-- HOST is released: the link trains once PERST_N is high (20 R728). -/
def Dev.releaseHost (s : Dev) (rrs : Bool) : Dev :=
  { s with
    host := { s.host with rrs := rrs, training := s.host.training || (s.boot.perst && s.host.linkDown) }
    boot := { s.boot with hostUp := true } }

/-- Steps 7 (its end) to 11: the warden runs, the remaining rails, the dies, and the external step. -/
def Dev.bootGo (s : Dev) (a : BringAns) (fw : List Nat × List Nat) : Dev :=
  let s := (s.put0 F.BOOT_STAGE 5).loadFirmware (6 * 128 + 2 * 8) fw.1
  let s := (s.loadFirmware (6 * 128 + 3 * 8) fw.2).loadFirmware (6 * 128 + 3 * 8 + 1) fw.2
  let s := (s.releaseHost true).fixHost
  let v := fun r => a.volts.getD r 0
  let s := ((s.railUp 6 800 (v 6)).railUp 7 800 (v 7)).railUp 11 2500 (v 11)
  let fused := fun d => bitAt a.fusedOff d
  let up := (List.range 6).filter fun d => !fused d && !bitAt a.crestBad d && !bitAt a.linkBad d
  let s := s.forEach up fun s d => s.railUp d 750 (v d)
  let bits := fun (l : List Nat) => (l.map (2 ^ ·)).sum
  let colB := !bitAt (s.get F.SEC_RESTORE) 0
  let s := s.put0 F.DIE_PRESENT (bits up + 64 + (if colB then 128 else 0))
  let s := s.put0 F.DIE_FUSED_OFF (bits ((List.range 8).filter fused))
  let s := s.put0 F.DIE_TEST_FAIL (bits ((List.range 6).filter fun d => !fused d && !bitAt a.linkBad d && bitAt a.crestBad d))
  let s := s.forEach ((List.range 6).filter fun d => !up.contains d) fun s d =>
    (s.put F.DOM_STATE [d] stOff).put F.DOM_REQUESTED [d] stOff
  let s := (s.forEach up Dev.screeRestore).put0 F.BOOT_STAGE 8
  -- step 11: PORT_CTRL from PORT_INIT, and XP_PERST_N
  let plugged := (List.range 12).foldl (fun t p => Tab.set false t p (bitAt a.plugged p)) []
  let s : Dev := { s with boot := { s.boot with extWait := true, plugged := plugged, released := plugged } }
  let s := match s.boot.board with
    | none => s
    | some b => s.forEach (List.range 12) fun s n =>
      let w := b.ports.getD n 0
      let s := ((s.put F.PORT_MODE (fix n) (bitsOf w 1 2)).put F.PORT_MEDIUM (fix n) (bitsOf w 3 1)).put F.PORT_DIM (fix n) (bitsOf w 4 3)
      s.portEnable n (bitAt w 0) false
  if s.allAttached then s.bootExt else s

/-- Steps 4 to 7, which a warm reset runs again.  A firmware that the host loads is awaited. -/
def Dev.bootCol (s : Dev) (a : BringAns) : Dev :=
  let s := s.put0 F.BOOT_STAGE 2
  if !a.colRails then s.bootFail 2
  else
    let v := fun r => a.volts.getD r 0
    let s := (s.railUp 10 900 (v 10)).railUp 8 750 (v 8)
    let s := (if a.hasColB then s.railUp 9 750 (v 9) else s).put0 F.BOOT_STAGE 3
    if !a.colA ∨ bitAt a.fusedOff 6 then s.bootFail 3
    else
      let s := (s.put0 F.SERIAL_LO (a.serial % 2 ^ 32)).put0 F.SERIAL_HI (a.serial / 2 ^ 32 % 2 ^ 32)
      let s := s.put0 F.SEC_RESTORE (b2n (!a.hasColB))
      let s := s.put0 F.BOOT_STAGE 4
      -- 20 R723: WC alone may fail; a core fenced for good stays fenced
      let out := s.get F.FENCED
      let bad := fun c => bitAt a.wardenBad c
      if bad 0 ∨ bad 1 then s.bootFail 4
      else
        let lost := (!a.hasColB || bad 2) && !bitAt out 2
        if out ≠ 0 ∧ lost then s.bootFail 4
        else
          -- an absent WC is not fenced: it is not there (17 R629)
          let s := if lost && a.hasColB then s.fenceCore 2 else s
          let s := (s.put0 F.WD_PRESENT (if a.hasColB then 7 else 3)).put0 F.WARDEN_MODE (if s.get F.FENCED = 0 ∧ a.hasColB then 0 else 1)
          if s.get F.STRAP_BOOT = 1 then
            { (s.put0 F.BOOT_STAGE 6).releaseHost false with boot := { s.boot with ans := some a, hostUp := true } }
          else match a.firmware with
          | none => s.bootFail 5
          | some fw => s.bootGo a fw

/-- BRINGUP: SYS_RESET_N is released, and steps 2 and 3 run; after a warm reset bring-up starts at step 4 (DESIGN CHOICE, log 6; DESIGN CHOICE, log 101). -/
def Dev.bringUp (s : Dev) (a : BringAns) : Dev :=
  if s.boot.warm && s.pwr.off == 0 && s.get F.BOOT_STAGE == 2 then
    ({ s with boot := { s.boot with warm := false } }).bootCol a
  else if !(s.pwr.off == 3 || (s.pwr.off == 0 && s.get F.BOOT_STAGE == 0)) then s
  else
    let s := s.updPwr fun p => { p with off := 0 }
    let s := (((s.put0 F.STRAP_HEAD (b2n a.head)).put0 F.STRAP_CHAIN_ID a.chainId).put0 F.STRAP_BOOT a.boot).put0 F.BOOT_STAGE 1
    let s := (s.put0 F.CHAIN_HEAD (b2n a.head)).put0 F.CHAIN_ID a.chainId
    if 2 ≤ a.boot % 4 then s.bootFail 6
    else match a.board with
    | none => s.bootFail 1
    | some b =>
      let s : Dev := { s with boot := { s.boot with board := some b } }
      let s := s.forEach (List.range 14) fun s r =>
        (s.put F.RAIL_ADDR [r] (bitsOf (b.rails.getD r 0) 0 7)).put F.RAIL_SELECT [r] (bitsOf (b.rails.getD r 0) 8 4)
      ((s.put0 F.BACKUP_USED (b2n a.onBackup)).auxTry).bootCol a

/-- The WARDEN and MGMT sections of the image in host memory, when its header and both of them are valid (20 Table 20.3). -/
def Dev.hostImage (s : Dev) : Option (List Nat × List Nat) :=
  let a := s.get64 F.BOOT_IMG_ADDR_LO F.BOOT_IMG_ADDR_HI / 4096 * 4096
  let len := min (s.get F.BOOT_IMG_LEN) (2 ^ 24)
  imageFirmware (Tab.getMany 0 s.hostMem a len)

/-- BOOT_LOAD: the host's image is read and checked, and bring-up continues from step 7 (20 R724). -/
def Dev.bootLoad (s : Dev) (fail : Bool) : Dev :=
  if s.get F.BOOT_STAGE ≠ 6 ∨ s.get F.BOOT_ERR ≠ 0 then s
  else
  let s := if s.canMaster 0 then
      s.issue 0 false (s.get64 F.BOOT_IMG_ADDR_LO F.BOOT_IMG_ADDR_HI / 4096 * 4096) (min (s.get F.BOOT_IMG_LEN) (2 ^ 24)) else s
  match s.boot.ans, (if fail || !s.canMaster 0 then none else s.hostImage) with
  | some a, some fw =>
    let s : Dev := { s with boot := { s.boot with ans := none } }
    (s.put0 F.HOST_LOADED 1).bootGo a fw
  | _, _ => s.bootFail 7

/-! ### Host link (20 R728, R739; R715) -/

/-- PERST_N goes high. -/
def Dev.perstHigh (s : Dev) : Dev :=
  let s : Dev := { s with boot := { s.boot with perst := true } }
  if s.boot.hostUp && s.host.linkDown then { s with host := { s.host with training := true } } else s

/-- HOST_RESET: a PF Function Level Reset, and then the link goes down, so that LINK_DOWN_EV reads 1 after it; the spec does not order the
two (DESIGN CHOICE, log 114).  The host has performed its reset (05 R202); after a hot reset or a link disable the link trains again. -/
def Dev.hostReset (s : Dev) (perst : Bool) : Dev :=
  let s := s.pfFlr.pcieDown
  let up := s.boot.perst && !perst
  { s with boot := { s.boot with perst := up }, host := { s.host with cut := false, training := up && s.boot.hostUp } }

/-! ### Orderly shut-down (20 R732 to R737) -/

/-- SHUTDOWN_ARM. -/
def Dev.shutArm (s : Dev) (req : Nat) : Dev := s.updWarden fun w => { w with shutArm := some (req, s.now) }

/-- The CXL ports go down: every XP_PERST_N is asserted. -/
def Dev.cxlDown (s : Dev) : Dev :=
  let s : Dev := { s with boot := { s.boot with released := [] } }
  s.forEach ((List.range 12).filter fun p => s.flag F.XP_PRESENT (xpIx p)) fun s p => s.cxlPortLost p true

/-- SHUTDOWN_GO within 1 ms of SHUTDOWN_ARM from the same requester: refused, or steps 1 and 2 of Table 20.8 (DEDUCED, log 104). -/
def Dev.shutGo (s : Dev) (req : Nat) : Dev :=
  match s.warden.shutArm with
  | none => s
  | some (r, t) =>
    if r ≠ req ∨ t + oneMs < s.now then s
    else if s.get F.BOOT_STAGE ≠ 9 ∨ s.isMaster ∨ s.flag F.RELAY ∨ (List.range 64).any (fun p => s.get F.P_STATE [p] != pDISABLED) then
      s.put0 F.SHUTDOWN_REFUSED 1
    else
      let s := (s.put0 F.BOOT_STAGE 10).disarmAll
      ({ s with pauses := Tab.set false s.pauses 3 true }).cxlDown

/-- SHUTDOWN_ABORT before the point of no return. -/
def Dev.shutAbort (s : Dev) : Dev :=
  if s.get F.BOOT_STAGE = 10 ∧ !Tab.get false s.pauses 4 then
    { s.put0 F.BOOT_STAGE 9 with
      pauses := Tab.set false s.pauses 3 false
      boot := { s.boot with released := s.boot.plugged } }
  else s

/-- POINT_OF_NO_RETURN: the regulator-disable step, 10 ms after SHUTDOWN_GO. -/
def Dev.noReturn (s : Dev) : Dev :=
  if s.get F.BOOT_STAGE = 10 ∧ !Tab.get false s.pauses 4 then s.regulatorOff 2 else s

end Sys2Proof.Machine
end

