-- ==== Sys2Proof/Machine/BootRows.lean ====
section
/-! DEFINITION. The meanings of the commands of bring-up, host reset and shut-down (20_bringup; rows POWER_ON_RESET to
POINT_OF_NO_RETURN, HOST_RESET, PERST_N_RELEASE, EXT_DONE, DIE_STARTUP). -/

namespace Sys2Proof.Machine

/-- POWER_ON_RESET (20 R715): SYS_RESET_N low or VAON rising; the unit is held until SYS_RESET_N is released. -/
def execPowerOnReset (s : State) : Host.Outcome State Fault Refusal := onRaw (·.powerOff 3) s
/-- BRINGUP: SYS_RESET_N is released, or a warm bring-up begins; what the board, the fuses and the tests answer. -/
def execBringup (a : BringAns) (s : State) : Host.Outcome State Fault Refusal := onRaw (·.bringUp a) s
/-- BOOT_LOAD: what host memory holds at BOOT_IMG_ADDR (empty: as known), and whether the read fails. -/
def execBootLoad (data : List Byte) (fail : Bool) (s : State) : Host.Outcome State Fault Refusal :=
  onDev (fun d => (d.hostHolds (d.get64 F.BOOT_IMG_ADDR_LO F.BOOT_IMG_ADDR_HI / 4096 * 4096) data).bootLoad fail) s
/-- EXPANDER_ATTACH: the port, and what the expander's mailbox answers. -/
def execExpanderAttach (p cap rate width poison health : Nat) (s : State) : Host.Outcome State Fault Refusal :=
  onDev (·.attach p cap rate width poison health) s
def execXpWaitExpiry (s : State) : Host.Outcome State Fault Refusal := onDev Dev.xpWaitOver s
/-- EXT_DONE: whether an expander's decoder fails to commit. -/
def execExtDone (commitFails : Bool) (s : State) : Host.Outcome State Fault Refusal := onDev (·.extEnd commitFails) s
/-- DIE_STARTUP: the crest die, and whether it passes. -/
def execDieStartup (d : Nat) (ok : Bool) (s : State) : Host.Outcome State Fault Refusal := onDev (·.dieStartup d ok) s
/-- HOST_RESET: whether by PERST_N. -/
def execHostReset (perst : Bool) (s : State) : Host.Outcome State Fault Refusal := onDev (·.hostReset perst) s
/-- PERST_N_RELEASE: the pin is seen in every state of the unit. -/
def execPerstNRelease (s : State) : Host.Outcome State Fault Refusal := onRaw Dev.perstHigh s
/-- SHUTDOWN_ARM: by a requester's number. -/
def execShutdownArm (req : Nat) (s : State) : Host.Outcome State Fault Refusal := onDev (·.shutArm req) s
def execShutdownGo (req : Nat) (s : State) : Host.Outcome State Fault Refusal := onDev (·.shutGo req) s
def execShutdownAbort (s : State) : Host.Outcome State Fault Refusal := onDev Dev.shutAbort s
def execPointOfNoReturn (s : State) : Host.Outcome State Fault Refusal := onDev Dev.noReturn s

end Sys2Proof.Machine
end

