-- ==== Sys2Proof/Machine/CadenceRows.lean ====
section
/-! DEFINITION. The meanings of the cadence commands (03_cadence; rows TICK_TIMER_EXPIRY to DISARM). -/

namespace Sys2Proof.Machine

/-- Does the unit take its ticks from the strobe: card unit, master, and not CARD_LOST (03 R73, R92)? -/
def Dev.onStrobe (s : Dev) : Bool := s.isMaster && s.flag F.CARD && !s.flag F.CARD_LOST

/-- TICK_TIMER_EXPIRY (03 R84): a master that does not follow the strobe issues the next tick. -/
def Dev.timerExpiry (s : Dev) : Dev := if s.onStrobe then s else s.issueTick false

/-- CADIN_EDGE (03 R73, R92): a card master issues a tick on the edge; with CARD_LOST set, 16 consecutive edges within
the period tolerance return it to the strobe, from the next edge on (DESIGN CHOICE, log 118). -/
def Dev.cadinEdge (s : Dev) (inTolerance : Bool) : Dev :=
  if !s.isMaster || !s.flag F.CARD then s
  else if s.flag F.CARD_LOST then
    let n := if inTolerance then s.cad.cardEdges + 1 else 0
    if 16 ≤ n then ({ s with cad := { s.cad with cardEdges := 0 } }).put0 F.CARD_LOST 0
    else { s with cad := { s.cad with cardEdges := n } }
  else s.issueTick true

/-- CARD_LOST (03 R92): 4 intervals without an edge. -/
def Dev.cardLost (s : Dev) : Dev :=
  if s.onStrobe then ({ s with cad := { s.cad with cardEdges := 0 } }).put0 F.CARD_LOST 1 else s

/-- VOTE_WRITE (03 R80): a 1 votes for that partition in the current step and phase. -/
def Dev.voteWrite (s : Dev) (mask : Nat) : Dev :=
  s.forEach ((List.range 64).filter (bitAt mask)) fun s p => (s.recordVote p s.pos.step s.pos.phase).2

/-- A unit that may bid and has seen no lower BID bids. -/
def Dev.bidsNow (s : Dev) : Bool :=
  s.cad.win.isOpen && s.mayBid && (s.cad.win.bidding || (match s.cad.win.best with
    | some b => !bidLower b (s.ownBid.prio, s.ident)
    | none => true))

/-- BID_TIMER (03 R89, 04 R125): a TICK_PERIOD of the election passes; a BID that waited is sent, and a unit that bids
sends its BID again. -/
def Dev.bidTimer (s : Dev) : Dev :=
  let next := s.chain.bidNext
  let s := { s with chain := { s.chain with bidSent := none, bidNext := none } }
  let s := match next with
    | some e => s.offerBid e.fwd e.frame
    | none => s
  if s.bidsNow then
    (({ s with cad := { s.cad with win := { s.cad.win with bidding := true } } }).put0 F.CAD_ROLE_NOW roleBidding).sendBid
  else s

/-- ELECTION_START (20 R729): a candidate that has seen no epoch, 64 TICK_PERIOD after RUN. -/
def Dev.electionStart (s : Dev) : Dev := if s.mayBid && !s.cad.seen && !s.cad.win.isOpen then s.openWindow else s

/-- RUN (21 R751, R752): clearing it on a master resigns with no successor; a candidate without RUN bids no more. -/
def Dev.runWrite (s : Dev) (on : Bool) : Dev :=
  let s := s.put0 F.RUN (b2n on)
  if on then s
  else if s.isMaster then
    ({ s with cad := { s.cad with issued := none, taking := none, resign := false, handing := false } }).put0 F.CAD_ROLE_NOW
      s.restRole
  else if s.cad.win.bidding then
    ({ s with cad := { s.cad with win := { s.cad.win with bidding := false } } }).put0 F.CAD_ROLE_NOW s.restRole
  else s

/-- RESIGN (03 R91): the master hands over after its next tick. -/
def Dev.resignWrite (s : Dev) : Dev := if s.isMaster then { s with cad := { s.cad with resign := true } } else s

/-- HANDOVER_FAIL (03 R91): no answer within 4 P; the old master keeps issuing. -/
def Dev.handoverFail (s : Dev) : Dev :=
  if s.isMaster && s.cad.handing then ({ s with cad := { s.cad with handing := false } }).cadEvent F.HANDOVER_FAIL 1 else s

/-- CLEAR_LOST (21 R752): the free-run ticks stop until the unit relocks. -/
def Dev.clearLost (s : Dev) : Dev := if s.flag F.FREE_RUN then s.put0 F.FREE_RUN 0 else s

/-! ### Meanings -/

def execTickTimerExpiry (s : State) : Host.Outcome State Fault Refusal := onDev Dev.timerExpiry s
def execCadinEdge (inTolerance : Bool) (s : State) : Host.Outcome State Fault Refusal := onDev (·.cadinEdge inTolerance) s
def execCardLost (s : State) : Host.Outcome State Fault Refusal := onDev Dev.cardLost s
/-- TICK: the frame, the measured delay of the link it came on, and this unit's residence time in ns (03 R76). -/
def execTick (port : Nat) (f : Frame) (link stay : Nat) (s : State) : Host.Outcome State Fault Refusal :=
  onDev (·.tickFrame (port % 2) f link stay) s
def execTickApply (s : State) : Host.Outcome State Fault Refusal := onDev Dev.tickApply s
def execVoteWrite (mask : Nat) (s : State) : Host.Outcome State Fault Refusal := onDev (·.voteWrite mask) s
def execVote (port : Nat) (f : Frame) (s : State) : Host.Outcome State Fault Refusal := onDev (·.voteFrame (port % 2) f) s
def execJoin (port : Nat) (f : Frame) (s : State) : Host.Outcome State Fault Refusal := onDev (·.partFrame (port % 2) f true) s
def execLeave (port : Nat) (f : Frame) (s : State) : Host.Outcome State Fault Refusal := onDev (·.partFrame (port % 2) f false) s
def execBid (port : Nat) (f : Frame) (s : State) : Host.Outcome State Fault Refusal := onDev (·.bidFrame (port % 2) f) s
def execBidTimer (s : State) : Host.Outcome State Fault Refusal := onDev Dev.bidTimer s
def execCadLost (s : State) : Host.Outcome State Fault Refusal := onDev Dev.cadLost s
def execFreeRunTick (s : State) : Host.Outcome State Fault Refusal := onDev Dev.freeRunTick s
def execBidWindowEnd (s : State) : Host.Outcome State Fault Refusal := onDev Dev.windowEnd s
def execElectionStart (s : State) : Host.Outcome State Fault Refusal := onDev Dev.electionStart s
def execRun (on : Bool) (s : State) : Host.Outcome State Fault Refusal := onDev (·.runWrite on) s
def execResign (s : State) : Host.Outcome State Fault Refusal := onDev Dev.resignWrite s
def execHandover (port : Nat) (f : Frame) (s : State) : Host.Outcome State Fault Refusal := onDev (·.handoverFrame (port % 2) f) s
def execHandoverFail (s : State) : Host.Outcome State Fault Refusal := onDev Dev.handoverFail s
def execClearLost (s : State) : Host.Outcome State Fault Refusal := onDev Dev.clearLost s
def execArm (n : Nat) (s : State) : Host.Outcome State Fault Refusal := onDev (fun d => (d.arm (n % 256)).2) s
def execDisarm (n : Nat) (s : State) : Host.Outcome State Fault Refusal := onDev (·.disarm (n % 256)) s

end Sys2Proof.Machine
end

