-- ==== Sys2Proof/Machine/ChainRows.lean ====
section
/-! DEFINITION. The meanings of the chain's commands (04_chain; rows CHAIN_FRAME to EVENT_AUX_LATCH). -/

namespace Sys2Proof.Machine

/-- A frame is delivered to the unit where no register shows it (04 R142) (DESIGN CHOICE, log 34). -/
def Dev.deliver (s : Dev) (f : Frame) : Dev := { s with chain := { s.chain with inbox := s.chain.inbox ++ [f] } }

/-- HEAD_PORT_HOLD (04 R130): the head's ports have held their state for 1 ms after its reset. -/
def Dev.headPortHold (s : Dev) : Dev := s.enumStart

/-- CHAIN_FRAME: the port, the frame, and what the link it came on and the residence here add to a TICK's DELAY (04 R148). -/
def execChainFrame (port : Nat) (p : Passing) (s : State) : Host.Outcome State Fault Refusal :=
  onDev (·.chainFrame (port % 2) p.frame (p.link + p.stay)) s
def execChainSignalDetect (port : Nat) (s : State) : Host.Outcome State Fault Refusal := onDev (·.signalDetect (port % 2)) s
def execChainTrainTimeout (port : Nat) (s : State) : Host.Outcome State Fault Refusal := onDev (·.trainTimeout (port % 2)) s
def execChainLinkDown (port : Nat) (s : State) : Host.Outcome State Fault Refusal := onDev (·.linkDown (port % 2)) s
def execHoldoffExpiry (s : State) : Host.Outcome State Fault Refusal := onDev Dev.holdoffExpiry s
def execChainDrainExpiry (s : State) : Host.Outcome State Fault Refusal := onDev Dev.drainExpiry s
def execHelloTimer (port : Nat) (s : State) : Host.Outcome State Fault Refusal := onDev (·.helloTimer (port % 2)) s
/-- RING_HELLO: the frame, and whether the port's receiver holds lock (04 R134, R135). -/
def execRingHello (port : Nat) (f : Frame) (locked : Bool) (s : State) : Host.Outcome State Fault Refusal :=
  onDev (fun d => d.receive (port % 2) f (fun d => if f.typ = tyRing then d.ringHello (port % 2) f locked else d) id (·.forward f)) s
/-- RING_BREAK: the neighbour has wrapped.  This unit's wrap follows its own ports, and its neighbour record the last HELLO,
so the frame changes nothing (04 R133, R134, 21 R753). -/
def execRingBreak (port : Nat) (f : Frame) (s : State) : Host.Outcome State Fault Refusal :=
  onDev (fun d => d.receive (port % 2) f id id (·.forward f)) s
def execRingUnwrap (port : Nat) (f : Frame) (s : State) : Host.Outcome State Fault Refusal :=
  onDev (fun d => d.receive (port % 2) f (fun d => if f.typ = tyRing then d.ringUnwrap (port % 2) f else d) id (·.forward f)) s
def execEnumStart (s : State) : Host.Outcome State Fault Refusal := onDev Dev.enumStart s
def execHeadPortHold (s : State) : Host.Outcome State Fault Refusal := onDev Dev.headPortHold s
def execEnumClaim (port : Nat) (f : Frame) (s : State) : Host.Outcome State Fault Refusal := onDev (·.enumClaim (port % 2) f) s
def execEnumAssign (port : Nat) (f : Frame) (s : State) : Host.Outcome State Fault Refusal := onDev (·.enumAssign (port % 2) f) s
def execEnumTimeout (s : State) : Host.Outcome State Fault Refusal := onDev Dev.enumTimeout s
def execEnumQueuedStart (s : State) : Host.Outcome State Fault Refusal := onDev Dev.enumQueued s
def execAttachTimer (s : State) : Host.Outcome State Fault Refusal := onDev Dev.attachTimer s
def execEventAttach (port : Nat) (f : Frame) (s : State) : Host.Outcome State Fault Refusal :=
  onDev (·.eventFrame (port % 2) f 1 Dev.enumStart) s
def execEventEnumDone (port : Nat) (f : Frame) (s : State) : Host.Outcome State Fault Refusal :=
  onDev (·.eventFrame (port % 2) f 2 Dev.onEnumDone) s
def execEventBreak (port : Nat) (f : Frame) (s : State) : Host.Outcome State Fault Refusal :=
  onDev (·.eventFrame (port % 2) f 3 (·.onBreak f)) s
def execEventUnwrapDone (port : Nat) (f : Frame) (s : State) : Host.Outcome State Fault Refusal :=
  onDev (·.eventFrame (port % 2) f 4 (·.onUnwrapDone f)) s
/-- EVENT_SAFE_STOP (17 R621, 03 R83): a chain source removes the unit from its counts. -/
def execEventSafeStop (port : Nat) (f : Frame) (s : State) : Host.Outcome State Fault Refusal :=
  onDev (·.eventFrame (port % 2) f 5 (·.unitGone f.src)) s
def execEventDrain (port : Nat) (f : Frame) (s : State) : Host.Outcome State Fault Refusal :=
  onDev (·.eventFrame (port % 2) f 6 (·.onDrain f)) s
def execEventPanel (port : Nat) (f : Frame) (s : State) : Host.Outcome State Fault Refusal :=
  onDev (·.eventFrame (port % 2) f 7 (·.deliver f)) s
def execEventAlarm (port : Nat) (f : Frame) (s : State) : Host.Outcome State Fault Refusal :=
  onDev (·.eventFrame (port % 2) f 8 (·.deliver f)) s
def execEventAuxLatch (port : Nat) (f : Frame) (s : State) : Host.Outcome State Fault Refusal :=
  onDev (·.eventFrame (port % 2) f 9 (·.deliver f)) s

end Sys2Proof.Machine
end

