-- ==== Sys2Proof/Machine/HostRows.lean ====
section
/-! DEFINITION. The meanings of the ring and host-interface commands (05_host_rings; rows SQ_DB to PCIE_LINK_DOWN). -/

namespace Sys2Proof.Machine

/-- The host address of descriptor H of queue `k` (05 R166). -/
def Dev.descAddr (s : Dev) (k : Nat) : Nat := s.sqBase k + 64 * (s.qH k % s.sqSize k)

/-- The host address of the list of the descriptor that runs on queue `k` (05 R168). -/
def Dev.listAddr (s : Dev) (k : Nat) : Nat :=
  match (s.queue k).run with
  | some r => wordAt r.words 2 + 2 ^ 32 * wordAt r.words 3
  | none => 0

/-- Run an operation of queue `k`. -/
def onQueue (k : Nat) (f : Dev → Dev) (s : State) : Host.Outcome State Fault Refusal :=
  onDev (fun d => if queueOk k then f d else d) s

/-- SQ_DB: a write of `size` bytes through the doorbell BAR of a requester, from an offset of it. -/
def execSqDb (req : Req) (w : DbWrite) (s : State) : Host.Outcome State Fault Refusal :=
  onDev (·.doorbellWrite req w.off w.size w.v) s
/-- CQ_DB: such a write to completion doorbells. -/
def execCqDb (req : Req) (w : DbWrite) (s : State) : Host.Outcome State Fault Refusal :=
  onDev (·.doorbellWrite req w.off w.size w.v) s
/-- DESCRIPTOR_READ: what host memory holds at the descriptor (empty: as known), and whether the read fails. -/
def execDescriptorRead (k : Nat) (data : List Byte) (fail : Bool) (s : State) : Host.Outcome State Fault Refusal :=
  onQueue k (fun d => (d.hostHolds (d.descAddr k) (data.take 64)).descRead k fail) s
def execDescriptorStart (k : Nat) (s : State) : Host.Outcome State Fault Refusal := onQueue k (·.descStart k) s
/-- LIST_READ: what host memory holds at the list, and whether the read fails. -/
def execListRead (k : Nat) (data : List Byte) (fail : Bool) (s : State) : Host.Outcome State Fault Refusal :=
  onQueue k (fun d => (d.hostHolds (d.listAddr k) data).listRead k fail) s
def execFetchErr (k : Nat) (s : State) : Host.Outcome State Fault Refusal := onQueue k (·.fetchErr k) s
def execDescriptorComplete (k : Nat) (s : State) : Host.Outcome State Fault Refusal := onQueue k (·.descComplete k) s
def execCoalTime (k : Nat) (s : State) : Host.Outcome State Fault Refusal := onQueue k (·.coalTime k) s
def execQEnable (k : Nat) (s : State) : Host.Outcome State Fault Refusal := onQueue k (·.qEnable k) s
def execQueueEnabled (k : Nat) (s : State) : Host.Outcome State Fault Refusal := onQueue k (·.queueEnabled k) s
def execQDisable (k : Nat) (s : State) : Host.Outcome State Fault Refusal := onQueue k (·.qDisable k) s
/-- QUEUE_DISABLE_DRAINED: what the host holds in the submission ring (empty: as known). -/
def execQueueDisableDrained (q : Drained) (s : State) : Host.Outcome State Fault Refusal :=
  onQueue q.queue (fun d => (d.hostHolds (d.sqBase q.queue) (q.ring.take (64 * d.sqSize q.queue))).queueDrained q.queue) s
def execVfFlr (vf : Nat) (s : State) : Host.Outcome State Fault Refusal := onDev (·.vfFlr vf) s
def execPfFlr (s : State) : Host.Outcome State Fault Refusal := onDev Dev.pfFlr s
/-- BUS_MASTER_ENABLE: the function (0 the PF), its Bus Master Enable, its MSI-X Enable, and for the PF whether it is in D3hot and what
bounds its requests. -/
def execBusMasterEnable (fn : Nat) (on msix : Bool) (pf : PfControl) (s : State) : Host.Outcome State Fault Refusal :=
  onDev (·.busMaster fn on msix pf.d3 pf.ctl) s
def execVfEnable (en : Bool) (n : Nat) (s : State) : Host.Outcome State Fault Refusal := onDev (·.setVfs en (min n 64)) s
/-- LINK_DEGRADED: the link has trained, at a rate, width and coding (05 R158). -/
def execLinkDegraded (rate width coding : Nat) (s : State) : Host.Outcome State Fault Refusal :=
  onDev (·.linkTrained rate width coding) s
def execPcieLinkDown (s : State) : Host.Outcome State Fault Refusal := onDev Dev.pcieDown s

end Sys2Proof.Machine
end

