-- ==== Sys2Proof/Machine/CommandRows.lean ====
section
/-! DEFINITION. The meanings of the list commands every queue takes (07_command_lists; rows NOP to COMMAND_START,
STOP and DISABLE_GRACE). -/

namespace Sys2Proof.Machine

/-- The host address a COPY in progress reads. -/
def Dev.copySrc (s : Dev) (k : Nat) : Nat :=
  match s.cmdOf k with
  | some c => wordAt c.words 2 + 2 ^ 32 * wordAt c.words 3
  | none => 0

def execNop (k : Nat) (s : State) : Host.Outcome State Fault Refusal := onQueue k (·.cmdNop k) s
def execWait (k : Nat) (s : State) : Host.Outcome State Fault Refusal := onQueue k (·.evalWait k) s
def execFenceTimeout (k : Nat) (s : State) : Host.Outcome State Fault Refusal := onQueue k (·.fenceTimeout k) s
def execSignal (k : Nat) (s : State) : Host.Outcome State Fault Refusal := onQueue k (·.cmdSignal k) s
def execCadWait (k : Nat) (s : State) : Host.Outcome State Fault Refusal := onQueue k (·.cmdCadWait k) s
def execCadVote (k : Nat) (s : State) : Host.Outcome State Fault Refusal := onQueue k (·.cmdCadVote k) s
def execCadAlarm (k : Nat) (s : State) : Host.Outcome State Fault Refusal := onQueue k (·.cmdCadAlarm k) s
/-- COPY: what host memory holds at a host source (empty: as known), and the chunk whose host read fails, if any. -/
def execCopy (k : Nat) (data : List Byte) (fail : Option Nat) (s : State) : Host.Outcome State Fault Refusal :=
  onQueue k (fun d => (d.hostHolds (d.copySrc k) data).cmdCopy k fail) s
def execWriteImm (k : Nat) (s : State) : Host.Outcome State Fault Refusal := onQueue k (·.cmdWriteImm k) s
def execCommandStart (k : Nat) (s : State) : Host.Outcome State Fault Refusal := onQueue k (·.commandStart k) s
def execStop (k : Nat) (s : State) : Host.Outcome State Fault Refusal := onQueue k (·.stopReach k) s
def execDisableGrace (k : Nat) (s : State) : Host.Outcome State Fault Refusal := onQueue k (·.disableGrace k) s

end Sys2Proof.Machine
end

