-- ==== Sys2Proof/Machine/Panel.lean ====
section
/-! DEFINITION. The ledge panel: keys, gestures, the drain, lamps and display (19_ledge_panel). -/

namespace Sys2Proof.Machine

/-! ### Keys (19 R689 to R695) -/

def Dev.key (s : Dev) (k : Nat) : Key := Tab.get Key.reset s.panel.keys k
def Dev.updKey (s : Dev) (k : Nat) (f : Key → Key) : Dev :=
  { s with panel := { s.panel with keys := Tab.upd Key.reset s.panel.keys k f } }
def Dev.keyActive (s : Dev) (k : Nat) : Bool := bitAt (s.get F.KEY_ACTIVE) k

/-- Capture every key's baseline afresh: the keys are inactive meanwhile, and KEY_FAULT is clear (19 R691). -/
def Dev.rebase (s : Dev) : Dev :=
  let s : Dev := { s with panel := { s.panel with keys := [], multi := false } }
  (s.put0 F.KEY_ACTIVE 0).put0 F.KEY_FAULT 0

/-! ### The drain (19 R697 to R699) -/

/-- EVENT DRAIN to every unit. -/
def Dev.sendDrain (s : Dev) (on : Bool) : Dev := s.sendEvent 6 bcast (b2n on)

/-- A drain request: asked for, or forced at once by a second one; a unit in safe stop has no work left (19 R709) (DEDUCED, log 99). -/
def Dev.drainReq (s : Dev) : Dev :=
  let st := s.get F.DRAIN_STATE
  if st = 0 then
    let s : Dev := { s with panel := { s.panel with out := true } }
    let s := s.sendDrain true
    let s := if s.flag F.AUTO_GRANT then s.put0 F.GRANTED 1 else s
    s.setDrain (if s.get F.WARDEN_MODE = 2 then 3 else 1)
  else if st = 1 then s.setDrain 2
  else s

/-- A withdrawal: the queues resume at once, participation at the next phase entry. -/
def Dev.drainWithdraw (s : Dev) : Dev :=
  if s.get F.DRAIN_STATE = 0 then s
  else
    let s : Dev := { s with panel := { s.panel with out := false } }
    ((s.sendDrain false).put0 F.GRANTED 0).setDrain 0

/-- DRAIN_GRANT in REQUESTED, DRAINING or DRAINED. -/
def Dev.drainGrant (s : Dev) : Dev :=
  if 1 ≤ s.get F.DRAIN_STATE ∧ s.get F.DRAIN_STATE ≤ 3 then s.put0 F.GRANTED 1 else s

/-- CHAIN_WHOLE (19 R700). -/
def Dev.chainWhole (s : Dev) : Bool :=
  s.ringMode == 3 || (s.ringMode == 0 && (List.range 4).all fun i => s.get F.OPEN_BREAK [i] == 0)

/-- No descriptor runs, and no Col message awaits its ACK. -/
def Dev.drainedNow (s : Dev) : Dev :=
  if s.get F.DRAIN_STATE = 2 ∧ s.queues.all (·.2.run.isNone) ∧ s.fab.outMsgs.isEmpty then s.setDrain 3 else s

/-- The conditions of R699 in order: granted, not master, not relay, the chain whole; a safe stop meets all but the last. -/
def Dev.safeConds (s : Dev) : List Bool :=
  let ss := s.get F.WARDEN_MODE == 2
  [s.flag F.GRANTED || ss, !s.isMaster || ss, !s.flag F.RELAY || ss, s.chainWhole]

/-- SAFE is entered or left as the conditions stand. -/
def Dev.judgeSafe (s : Dev) : Dev :=
  let ok := s.safeConds.all id
  if s.get F.DRAIN_STATE = 3 ∧ ok then s.setDrain 4
  else if s.get F.DRAIN_STATE = 4 ∧ !ok then s.setDrain 3
  else s

/-! ### Gestures (19 R694 to R696) -/

/-- The action of a gesture on a key (19 Table 19.3): keys 0 IDENT, 1 HOLD, 2 FREE, 3 PAGE; gestures 1 TAP, 2 LONG. -/
def Dev.keyAction (s : Dev) (k g : Nat) : Dev :=
  match k, g with
  | 0, 1 => (s.put0 F.IDENT_ON (1 - s.get F.IDENT_ON)).put0 F.PAGE 0
  | 1, 1 => s.put0 F.PAGE 2
  | 1, 2 => s.drainReq
  | 2, 2 => s.drainWithdraw
  | 3, 1 => s.put0 F.PAGE ((s.get F.PAGE + 1) % 7)
  | 3, 2 => s.put0 F.PAGE 0
  | _, _ => s

/-- A gesture is reported, sent and acted on. -/
def Dev.gesture (s : Dev) (k g : Nat) : Dev :=
  let s := ((s.put0 F.LG_KEY k).put0 F.LG_GESTURE g).put0 F.LG_TICK s.pos.tick
  let s := (s.panelEvent F.GESTURE_EV 1).notify 7 (k + g * 2 ^ 4)
  if bitAt (s.get F.KEY_ACT_EN) k then s.keyAction k g else s

/-- A key becomes inactive; with the last one the suppression of R695 ends. -/
def Dev.keyRelease (s : Dev) (k : Nat) : Dev :=
  let s := s.put0 F.KEY_ACTIVE (clearBit (s.get F.KEY_ACTIVE) k)
  let s := s.updKey k fun x => { x with touch := 0, release := 0, negative := 0, stuck := 0, hold := 0, sum := 0, cnt := 0, long := false }
  if s.get F.KEY_ACTIVE = 0 then { s with panel := { s.panel with multi := false } } else s

/-- A key becomes active. -/
def Dev.keyTouch (s : Dev) (k : Nat) : Dev :=
  let other := s.get F.KEY_ACTIVE != 0
  let s := s.put0 F.KEY_ACTIVE (setBit (s.get F.KEY_ACTIVE) k)
  let s := s.updKey k fun x => { x with touch := 0, release := 0, negative := 0, hold := 0, long := false }
  let s := if other then
      { s.panelEvent F.MULTI_TOUCH 0 with panel := { s.panel with multi := true } } else s
  if s.flag F.KEY_WAKE then s.wakeAll true else s

/-- A measurement: the condition counters of Table 19.1, each judged on three in a row. -/
def Dev.keyMeasure (s : Dev) (k count : Nat) : Dev :=
  let n := min count 4095
  if 4 ≤ k ∨ !s.flag F.PANEL_PRESENT then s
  else
    let s := s.put F.KEY_COUNT [k] n
    let x := s.key k
    match x.capture with
    | some (sum, c) =>
      if c = 7 then (s.put F.KEY_BASELINE [k] ((sum + n) / 8)).updKey k fun x => { x with capture := none }
      else s.updKey k fun x => { x with capture := some (sum + n, c + 1) }
    | none =>
      if bitAt (s.get F.KEY_FAULT) k then s
      else
        let delta : Int := (s.get F.KEY_BASELINE [k] : Int) - n
        let stuck := if n = 0 ∨ n = 4095 then x.stuck + 1 else 0
        let s := s.updKey k fun x => { x with stuck := stuck }
        if 3 ≤ stuck then (s.put0 F.KEY_FAULT (setBit (s.get F.KEY_FAULT) k)).keyRelease k
        else if s.keyActive k then
          let hold := x.hold + 1
          let release := if delta < s.get F.RELEASE_THRESH then x.release + 1 else 0
          let s := s.updKey k fun x => { x with hold := hold, release := release }
          if 3 ≤ release then
            let tap := decide (hold ≤ 200) && !s.panel.multi && !x.long
            let s := s.keyRelease k
            if tap then s.gesture k 1 else s
          else if 6000 ≤ hold then
            (((s.keyRelease k).put F.KEY_BASELINE [k] n).count F.FORCED_COUNT).gesture k 3
          else s
        else
          let touch := if (s.get F.TOUCH_THRESH : Int) ≤ delta then x.touch + 1 else 0
          let negative := if delta ≤ -(s.get F.NEG_THRESH : Int) then x.negative + 1 else 0
          let s := s.updKey k fun x => { x with touch := touch, negative := negative, sum := x.sum + n, cnt := x.cnt + 1 }
          if 3 ≤ touch then s.keyTouch k
          else if 3 ≤ negative then
            ((s.put F.KEY_BASELINE [k] n).count F.REBASE_COUNT).updKey k fun x => { x with negative := 0 }
          else s

/-- LONG: the key is still active at 2 s; a panel that is not present is not sensed (19 R688) (DEDUCED, log 99). -/
def Dev.keyLong (s : Dev) (k : Nat) : Dev :=
  if k < 4 ∧ s.flag F.PANEL_PRESENT ∧ s.keyActive k ∧ !s.panel.multi ∧ !(s.key k).long then
    (s.updKey k fun x => { x with long := true }).gesture k 2
  else s

/-- Once per second: the baseline of an inactive key whose delta is small moves toward the second's mean (19 R692). -/
def Dev.driftStep (s : Dev) : Dev :=
  s.forEach [0, 1, 2, 3] fun s k =>
    let x := s.key k
    let b := s.get F.KEY_BASELINE [k]
    let n := s.get F.KEY_COUNT [k]
    let near := decide (b < n + s.get F.DRIFT_BAND) && decide (n < b + s.get F.DRIFT_BAND)
    let s :=
      if s.keyActive k || x.capture.isSome || bitAt (s.get F.KEY_FAULT) k || x.cnt == 0 || !near then s
      else
        let m := x.sum / x.cnt
        if b < m then s.put F.KEY_BASELINE [k] (b + 1) else if m < b then s.put F.KEY_BASELINE [k] (b - 1) else s
    s.updKey k fun x => { x with sum := 0, cnt := 0 }

/-- The panel's contact opens, or closes after `ms` of being open: a panel newly seated is captured afresh, and the aux
latch clears (19 R688, 18 R674). -/
def Dev.panelContact (s : Dev) (high : Bool) (ms : Nat) : Dev :=
  if high then
    let seated := !s.flag F.PANEL_PRESENT && decide (50 ≤ ms)
    let s := s.put0 F.PANEL_PRESENT 1
    if seated then s.rebase.auxClear else s
  else s.put0 F.PANEL_PRESENT 0

/-! ### Lamps and display (19 R702 to R704) -/

/-- What a lamp shows: 0 off, 1 slow blink, 2 fast blink, 3 steady; without the aux rail all are off. -/
def Dev.lampPwr (s : Dev) : Nat :=
  if s.pwr.off ≠ 0 || !s.flag F.AUX_ON then 0 else if s.get F.UNIT_STATE = stKeep then 1 else 3
def Dev.lampFault (s : Dev) : Nat :=
  if !s.flag F.AUX_ON then 0
  else if s.get F.WARDEN_MODE = 2 then 3 else if s.get F.BOOT_ERR ≠ 0 then 2
  else if s.get F.WARDEN_MODE ≠ 0 ∨ s.get F.DIE_LOST ≠ 0 then 1 else 0
def Dev.lampIdent (s : Dev) : Nat := if s.flag F.AUX_ON && s.flag F.IDENT_ON then 2 else 0
/-- HOLD as the drain state gives it, which DRAIN_STATUS reports. -/
def Dev.lampHold (s : Dev) : Nat := [0, 1, 1, 2, 3].getD (s.get F.DRAIN_STATE) 0

/-- A character of the display whose text the spec does not spell. -/
def Dev.drawChar (s : Dev) : Byte × Dev :=
  (BitVec.ofNat 8 (0x20 + (Config.freeByte s.free).toNat % 95), { s with free := s.free + 1 })

def Dev.drawChars (s : Dev) : Nat → List Byte × Dev
  | 0 => ([], s)
  | n + 1 =>
    let (c, s) := s.drawChar
    let (l, s) := Dev.drawChars s n
    (c :: l, s)

/-- The characters of a line: PANEL_TEXT on page 6, with other bytes replaced; "UNPLUG OK" in SAFE; elsewhere the text
that Table 19.6 names, whose spelling is free (DESIGN CHOICE, log 100). -/
def Dev.lineText (s : Dev) (line : Nat) : List Byte × Dev :=
  if s.get F.PAGE = 6 then
    let bytes := bytesOfWords ((List.range 10).map fun i => BitVec.ofNat 32 (s.get F.PANEL_TEXT [i]))
    (((bytes.drop (20 * line)).take 20).map fun b => if 0x20 ≤ b.toNat ∧ b.toNat ≤ 0x7E then b else 0x2E, s)
  else if s.get F.PAGE = 2 ∧ line = 1 ∧ s.get F.DRAIN_STATE = 4 then
    let (l, s) := s.drawChars 11
    ([0x55, 0x4E, 0x50, 0x4C, 0x55, 0x47, 0x20, 0x4F, 0x4B] ++ l, s)
  else s.drawChars 20

/-- Both lines are written to DISP_ADDR, each as one I²C write; without an acknowledgement DISPLAY_ERR. -/
def Dev.display (s : Dev) (acked : Bool) : Dev :=
  if !s.flag F.AUX_ON || !s.flag F.DISPLAY_EN then s
  else if !acked then s.panelEvent F.DISPLAY_ERR 4
  else s.forEach [0, 1] fun s line =>
    let (t, s) := s.lineText line
    { s with panel := { s.panel with
        lines := Tab.set [] s.panel.lines line (BitVec.ofNat 8 (0x40 + line) :: t), addr := s.get F.DISP_ADDR } }

end Sys2Proof.Machine
end

