-- ==== Sys2Proof/Machine/RegBus.lean ====
section
/-! DEFINITION. Register accesses: the gates in front of a block, field types, pairs, the actions of trigger fields, the MSI-X
tables, and chain requests (00 R10 to R24, 04 R137 to R141, 21_registers). -/

namespace Sys2Proof.Machine

/-! ### Which registers there are (21 R743, 00 R18) -/

/-- The fields of the register at an offset, with their indexes. -/
def fieldsAt (off : Nat) : List (Fld × List Nat) := allFields.filterMap fun f => (f.index off).map fun ix => (f, ix)

/-- The registers whose names end in _LO; each has its _HI behind it (00 R10; 11 R386 and 12 Table 12.8 name GEOM and
PLACE). -/
def loFields : List Fld :=
  [F.SERIAL_LO, F.BOOT_IMG_ADDR_LO, F.POS_STEP_LO, F.CYCLE_LO, F.TICK_STAMP_LO, F.CAD_PART_LO, F.VOTE_LO, F.START_STEP_LO,
   F.AL_STEP_LO, F.VF_OWNED_LO, F.SQ_BASE_LO, F.CQ_BASE_LO, F.VIOL_ADDR_LO, F.ACT_GRAN_LO, F.SL_GRAN_LO, F.FENCE_PEERS_LO,
   F.FENCE_VAL_LO, F.CT_ROW_COUNT, F.CT_BASE_LO, F.HT_BASE_LO, F.XW_BASE_LO, F.XW_SIZE_LO, F.MPU_VIOL_ADDR_LO, F.GR_BASE_LO,
   F.GR_TOP_LO, F.PR_BASE_LO, F.PR_TOP_LO, F.TARN_ERR_ADDR_LO, F.RES_CYC_LO, F.RES_TICK_LO, F.SRAM_ERR_ADDR_LO, F.ENCAP_MAC_LO,
   F.EP_MAC_LO]

def isLo (off : Nat) : Bool := loFields.any fun f => (f.index off).isSome
def isHi (off : Nat) : Bool := decide (4 ≤ off) && isLo (off - 4)

/-- The queue whose configuration a register holds: SQ_BASE, CQ_BASE or Q_SIZE (05 R183). -/
def queueCfg (off : Nat) : Option Nat :=
  let r := (off - 0x800000) % 0x4000
  if 0x800000 ≤ off ∧ off < 0x900000 ∧ r < 0x500 ∧ r % 0x40 ≤ 0x10 then some (32 * ((off - 0x800000) / 0x4000) + r / 0x40) else none

/-- The mailbox of a register (21 Table 21.7). -/
def mailboxAt (off : Nat) : Option Nat :=
  if 0x200100 ≤ off ∧ off < 0x200300 then some ((off - 0x200100) / 0x80) else none

/-! ### Gates (21 R744; 18 R650; 20 R722, R738; 04 R140, R141) -/

/-- The domain that holds a block; none: the always-on domain (21 Table 21.1). -/
def blockDomain (off : Nat) : Option Nat :=
  if off < 0x400000 then none
  else if off < 0x1000000 then some 9
  else if off < 0x2000000 then some 8
  else if off < 0x3800000 then some ((off - 0x2000000) / 0x400000)
  else if off < 0x3A00000 then some 8
  else if off < 0x3E00000 then none
  else if off < 0x3F00000 then some 6
  else some 7

/-- What stands before a register. -/
inductive Gate where
  | serve
  /-- the die is absent, Off or lost -/
  | dead
  /-- only some blocks are served after a boot error or while an image is awaited -/
  | hidden
  /-- the domain sleeps -/
  | asleep (d : Nat)
  /-- a shelf link on the way retrains (01 R46) -/
  | held
deriving DecidableEq, Repr

/-- The blocks served after a boot error: global, chain, power, panel. -/
def bootBlock (off : Nat) : Bool :=
  decide (off < 0x100000) || (decide (0x200000 ≤ off) && decide (off < 0x400000)) || (decide (0x3A00000 ≤ off) && decide (off < 0x3E00000))

/-- DEDUCED, log 103. -/
def Dev.bootLimited (s : Dev) : Bool := s.get F.BOOT_ERR != 0 || s.get F.BOOT_STAGE == 6

/-- Every requester's way to the registers starts on Col-A, die 6.  A safe stop serves every block as it is (DEDUCED, log 19). -/
def Dev.gate (s : Dev) (off : Nat) : Gate :=
  if s.bootLimited && !bootBlock off then .hidden
  else match blockDomain off with
  | none => .serve
  | some d =>
    if (d < 6 ∨ d = 7) ∧ (s.dieGone d ∨ s.shelfWay 6 d = .none) then .dead
    else if s.domAsleep d && s.get F.WARDEN_MODE != 2 then .asleep d
    else if d < 8 ∧ s.shelfWay 6 d = .held then .held
    else .serve

/-- A block of a sleeping domain is accessed: the domain is woken, HOST with it, whose exit the link does (18 R650). -/
def Dev.wakeFor (s : Dev) (d : Nat) : Dev :=
  if d = 9 then (if s.domAsleep 9 ∧ s.get F.WARDEN_MODE ≠ 2 then s.wakeReq 9 else s) else s.wake d false

/-! ### Reads (00 Table 0.4, R10, R14, R18) -/

/-- Fields whose value follows the state at every moment. -/
def Dev.liveValue (s : Dev) (off v : Nat) : Nat :=
  if off = F.CYCLE_LO.off [] then s.cycle % 2 ^ 32
  else if off = F.CYCLE_HI.off [] then s.cycle / 2 ^ 32 % 2 ^ 32
  else if off = F.RELAYING.off [] then
    putBits (putBits v F.RELAYING.lo 1 (s.get F.RELAY)) F.ALARM_EV.lo 1 (b2n ((List.range 8).any fun i => s.get F.ALARM_EVENT [i] != 0))
  else if off = F.CHAIN_WHOLE.off [] then
    putBits (putBits (putBits (putBits v F.CHAIN_WHOLE.lo 1 (b2n s.chainWhole)) F.IS_MASTER.lo 1 (b2n s.isMaster)) F.IS_RELAY.lo 1
      (s.get F.RELAY)) F.LAMP.lo 2 s.lampHold
  else match F.AL_STATE.index off with
  -- 2 until the dispatch has had its first effect, though the alarm be armed anew (03 R103)
  | some [n] => if s.dispatch.any fun x => x.alarm == n then putBits v 0 2 2 else v
  | _ => match F.RES_CYC_LO.index (off / 16 * 16) with
  | some [d, st] =>
    let c := Tab.get 0 s.pwr.resCyc (5 * d + st)
    let t := Tab.get 0 s.pwr.resTick (5 * d + st)
    [c % 2 ^ 32, c / 2 ^ 32, t % 2 ^ 32, t / 2 ^ 32].getD (off % 16 / 4) 0
  | _ => v

/-- A word of an MSI-X entry. -/
def Msix.word (e : Msix) (i : Nat) : Word := [e.addrLo, e.addrHi, e.data, e.ctrl].getD i 0

def Msix.setWord (e : Msix) (i : Nat) (w : Word) : Msix :=
  match i with
  | 0 => { e with addrLo := w }
  | 1 => { e with addrHi := w }
  | 2 => { e with data := w }
  | _ => { e with ctrl := w &&& 1 }

/-- Pending bits of 32 vectors. -/
def pbaWord (t : Tab Bool) (base : Nat) : Nat := ((List.range 32).map fun i => if Tab.get false t (base + i) then 2 ^ i else 0).sum

/-- The value at a BAR0 offset that is served. -/
def Dev.regValue (s : Dev) (off : Nat) : Word :=
  if 0x408000 ≤ off ∧ off < 0x410000 then (Tab.get Msix.reset s.host.pfTab ((off - 0x408000) / 16)).word (off % 16 / 4)
  else if 0x410000 ≤ off ∧ off < 0x410100 then BitVec.ofNat 32 (pbaWord s.host.pfPba (8 * (off - 0x410000)))
  else if (fieldsAt off).isEmpty then 0
  else BitVec.ofNat 32 (s.liveValue off (s.reg off).toNat)

/-- Does the requester reach a doorbell BAR? -/
def Req.isDoorbell : Req → Bool
  | .pfDb => true
  | .vfDb _ => true
  | _ => false

/-- The key of a requester's capture or held write (21 R745). -/
def capKey (req : Req) (off : Nat) : Nat := req.code * 2 ^ 26 + off

/-- The BAR0 offset of a requester's offset: a VF sees the block of its partition, once it owns it (05 R162, R197). -/
def Dev.accessOff (s : Dev) (req : Req) (off : Nat) : Option Nat :=
  match req with
  | .vf n => if 1 ≤ n ∧ n ≤ 64 ∧ off < 0x4000 ∧ s.vfOwned (n - 1) then some (0x800000 + 0x4000 * (n - 1) + off) else none
  | .pfDb => none
  | .vfDb _ => none
  | _ => if off < 2 ^ 26 then some off else none

/-- The MSI-X structures of a VF, through its own BAR0 only (21 R756). -/
def Dev.vfMsix (s : Dev) (req : Req) (off : Nat) : Option Word :=
  match req with
  | .vf n =>
    if 0x3800 ≤ off ∧ off < 0x3A00 then some ((Tab.get Msix.reset s.host.vfTab (32 * n + (off - 0x3800) / 16)).word (off % 16 / 4))
    else if off = 0x3C00 then some (BitVec.ofNat 32 (pbaWord s.host.vfPba (32 * n)))
    else none
  | _ => none

/-- A read that is served: a _LO read captures _HI, and a _HI read uses the capture up. -/
def Dev.readServed (s : Dev) (req : Req) (off : Nat) : Word × Dev :=
  if isLo off then (s.regValue off, { s with caps := Tab.set none s.caps (capKey req (off + 4)) (some (s.regValue (off + 4))) })
  else match Tab.get none s.caps (capKey req off) with
  | some w => (w, { s with caps := Tab.set none s.caps (capKey req off) none })
  | none => (s.regValue off, s)

/-- Bytes of a word join what the last read returns: `n` bytes from byte `lo` of the word, as its bytes from `at_` (00 R11). -/
def Dev.landRead (s : Dev) (w : Word) (lo n at_ : Nat) : Dev :=
  { s with lastRead := some (BitVec.ofNat 64 (putBits (s.lastRead.getD 0).toNat (8 * at_) (8 * n) (bitsOf w.toNat (8 * lo) (8 * n)))) }

/-- A read of bytes of one register, or of a doorbell: what it returns stands in `lastRead`, once it is served (DESIGN CHOICE, log 18). -/
def Dev.readReg (s : Dev) (req : Req) (off lo n at_ : Nat) : Dev :=
  match s.accessOff req off with
  | none => s.landRead (BitVec.ofNat 32 (s.doorbellGet req off)) lo n at_
  | some a =>
    match s.vfMsix req off with
    | some w => s.landRead w lo n at_
    | none =>
      let wait := { s with waiting := s.waiting ++ [Access.read req off lo n at_] }
      match s.gate a with
      | .serve =>
        let r := s.readServed req a
        r.2.landRead r.1 lo n at_
      | .dead => (s.put0 F.DIE_ACCESS 1).landRead 0 lo n at_
      | .hidden => s.landRead 0 lo n at_
      | .asleep d => wait.wakeFor d
      | .held => wait

/-- A read of `size` bytes, at most 8: 32-bit reads in ascending address order of the registers it touches, each giving the bytes
addressed (00 R11). -/
def Dev.readSized (s : Dev) (req : Req) (off size : Nat) : Dev :=
  let n := min size 8
  ({ s with lastRead := some 0 }).forEach (piecesBy 4 off n) fun s x => s.readReg req (x.1 / 4 * 4) (x.1 % 4) x.2 (x.1 - off)

/-! ### Writes (00 Table 0.4, R15, R16) -/

/-- One field takes its part of a write: the active and the shadow word, and whether the encoding was reserved. -/
def Fld.write (f : Fld) (v : Nat) (acc : Nat × Nat × Bool) : Nat × Nat × Bool :=
  let x := bitsOf v f.lo f.w
  let (a, sh, bad) := acc
  match f.ty with
  | .rw => if f.rsv.bad x then (a, sh, true) else (putBits a f.lo f.w x, sh, bad)
  | .sh => if f.rsv.bad x then (a, sh, true) else (a, putBits sh f.lo f.w x, bad)
  | .w1c => (a - (bitsOf a f.lo f.w &&& x) * 2 ^ f.lo, sh, bad)
  | .roc => (a - (bitsOf a f.lo f.w &&& x) * 2 ^ f.lo, sh, bad)
  | .wo => (a, sh, bad || (x != 0 && f.rsv.bad x))
  | .ro => (a, sh, bad)

/-- The plain effect of a 32-bit write: every field by its type (DESIGN CHOICE, log 80). -/
def Dev.plainWrite (s : Dev) (off v : Nat) : Dev :=
  let r := (fieldsAt off).foldl (fun acc f => f.1.write v acc) ((s.reg off).toNat, (s.shadowReg off).toNat, false)
  let s := s.setReg off (BitVec.ofNat 32 r.1)
  let s := if (fieldsAt off).any fun f => f.1.ty == .sh then s.setShadow off (BitVec.ofNat 32 r.2.1) else s
  if r.2.2 then s.put0 F.RSVD_WRITE 1 else s

/-- Is the whole write ignored, and with which flag?  Rules of the registers' own chapters. -/
def Dev.refusedWrite (s : Dev) (off v : Nat) : Option Dev :=
  match queueCfg off with
  | some k =>
    if s.get F.Q_STATE (qix k) ≠ 0 ∨ (s.queue k).enabling then some (s.put F.CFG_IGNORED (qix k) 1) else none
  | none =>
    match mailboxAt off with
    | some n => if s.get F.MB_STATE [n] = 1 then some s else none
    | none =>
      if off = F.TOUCH_THRESH.off [] then
        if bitsOf v 0 8 ≤ bitsOf v 8 8 ∨ bitsOf v 0 8 = 0 ∨ bitsOf v 16 8 = 0 then some (s.put0 F.RSVD_WRITE 1) else none
      else if off = F.THERM_WARN.off [] then
        if s.get F.THERM_THROTTLE < bitsOf v 0 8 then some (s.put0 F.RSVD_WRITE 1) else none
      else if off = F.THERM_THROTTLE.off [] then
        if bitsOf v 0 8 < s.get F.THERM_WARN then some (s.put0 F.RSVD_WRITE 1) else none
      else match F.AL_ARM.index off with
      | some _ => if v % 4 = 3 then some (s.put0 F.RSVD_WRITE 1) else none
      | none => none

/-- GO: a mailbox sends the request its fields hold (21 R754, 04 R138, R139).  A read by broadcast is refused, and so is a DST of
0, which names no unit (DEDUCED, log 21). -/
def Dev.chainGo (s : Dev) (n : Nat) : Dev :=
  if 4 ≤ n ∨ s.get F.MB_STATE [n] = 1 then s
  else
    let dst := s.get F.MB_DST [n]
    let cnt := s.get F.MB_COUNT [n]
    let wr := s.flag F.MB_WRITE [n]
    if (dst = bcast ∧ !wr) ∨ dst = 0 then (s.put F.MB_STATE [n] 2).put F.MB_STATUS [n] stSTATE
    else
      let w := [BitVec.ofNat 32 (s.get F.MB_OFFSET [n] / 4 * 4), BitVec.ofNat 32 (cnt + 16 * s.get F.MB_WAKE [n])]
      let data := if wr then (List.range (cnt + 1)).map fun i => BitVec.ofNat 32 (s.get F.MB_DATA [n, i]) else []
      (s.put F.MB_STATE [n] 1).send (if wr then tyWrReq else tyRdReq) 0 dst n (w ++ data)

/-- The action of a trigger field written with a value other than 0, by the register and bit it lies at (DESIGN CHOICE, log 15). -/
def Dev.trigger (s : Dev) (req : Req) (f : Fld) (ix : List Nat) : Dev :=
  let i := ix.headD 0
  let k := 32 * i + ix.getD 1 0
  match f.base, f.lo with
  | 0x100, _ => s.extApply
  | 0x20C, 0 => s.bootLoad false
  | 0x20C, 4 => s.shutArm req.code
  | 0x20C, 5 => s.shutGo req.code
  | 0x20C, _ => s.shutAbort
  | 0x100000, 1 => s.resignWrite
  | 0x100000, _ => s.clearLost
  | 0x10001C, _ => s.ask (.commit 0)
  | 0x101014, 0 => (s.arm i).2
  | 0x101014, _ => s.disarm i
  | 0x200000, _ => s.enumStart
  | 0x200108, _ => s.chainGo i
  | 0x800014, 0 => s.qEnable k
  | 0x800014, _ => s.qDisable k
  | 0x800800, 0 => s.ask (.enable i)
  | 0x800800, 1 => s.ask (.disable i)
  | 0x800800, 2 => s.ask (.scrub i)
  | 0x800800, _ => s.ask (.reshape i (s.get F.P_SLOT [i]))
  | 0x1000004, _ => s.ask (.commit 1)
  | 0x3800004, 0 => s.resync
  | 0x3800004, 1 => s.resetArm req.code
  | 0x3800004, 2 => s.resetGo req.code
  | 0x3800004, _ => s.faultNow 0x5F 0 0
  | 0x3A000F0, _ => s.resClear
  | 0x3C00000, _ => s.rebase
  | 0x3C00040, 0 => s.drainReq
  | 0x3C00040, 1 => s.drainWithdraw
  | 0x3C00040, _ => s.drainGrant
  | 0x3C01000, _ => s.auxClear
  | _, _ => s

/-- What a write to a plain field of certain registers brings about beside its value; `old` is the register before it. -/
def Dev.follow (s : Dev) (off old v : Nat) : Dev :=
  if off = F.RUN.off [] then s.runWrite (bitAt v 0)
  else if off = F.AUX_EN.off [] then (if bitAt v 0 = bitAt old 0 then s else s.auxEnable (bitAt v 0))
  else if off = F.WAKE_HOLD.off [] then s.forEach ((List.range 9).filter (bitAt v)) fun s d => s.wake d false
  else if off = F.AUX_IN_KEEP.off [] then
    if s.get F.UNIT_STATE = stKeep then (if s.flag F.AUX_IN_KEEP then s.auxTry else s.auxOff) else s
  else if off = F.AUTO_GRANT.off [] then (if s.flag F.AUTO_GRANT then s.drainGrant else s)
  -- a wait on a partition's fences is judged again (07 R248, R272)
  else if (F.FENCE_PEERS_HI.index off).isSome then s.wakeWaits
  else match F.PORT_ENABLE.index off with
  | some [p, n] => if bitAt v 0 = bitAt old 0 then s else s.portEnable (6 * p + n) (bitAt v 0) false
  | _ => s

/-- Mode 1 (ENCAP) is reserved but on ports 0 and 1 (21 Table 21.12). -/
def encapBad (off v : Nat) : Bool :=
  match F.PORT_ENABLE.index off with
  | some [p, n] => bitsOf v 1 2 == 1 && decide (2 ≤ 6 * p + n)
  | _ => false

/-- A 32-bit write that a block serves: ignored as a whole, or by its fields and then its triggers. -/
def Dev.writeServed (s : Dev) (req : Req) (off v : Nat) : Dev :=
  if 0x408000 ≤ off ∧ off < 0x410000 then
    ({ s with host := { s.host with
      pfTab := Tab.upd Msix.reset s.host.pfTab ((off - 0x408000) / 16) fun e => e.setWord (off % 16 / 4) (BitVec.ofNat 32 v) } }).flushMsix
  else match s.refusedWrite off v with
  | some s' => s'
  | none =>
    if off = F.PWR_REQ_STATE.off [] then s.writePowerReq (bitsOf v 0 3) (bitsOf v 8 8)
    else
      let old := (s.reg off).toNat
      let mode := bitsOf old 1 2
      let bad := encapBad off v
      let s := s.plainWrite off (if bad then putBits v 1 2 mode else v)
      let s := (if bad then s.put0 F.RSVD_WRITE 1 else s).follow off old v
      -- a drain request beside a withdrawal has no effect (19 R708)
      let v := if off = F.DRAIN_REQ.off [] ∧ bitAt v 1 then clearBit v 0 else v
      s.forEach ((fieldsAt off).filter fun f => f.1.ty == .wo && bitsOf v f.1.lo f.1.w != 0 && !f.1.rsv.bad (bitsOf v f.1.lo f.1.w))
        fun s f => s.trigger req f.1 f.2

/-- A pair takes effect: votes are cast, other pairs are written (00 R10; 03 R80) (DEDUCED, log 17). -/
def Dev.writePair (s : Dev) (req : Req) (off : Nat) (lo : Option Word) (hi : Nat) : Dev :=
  if off = F.VOTE_HI.off [] then s.voteWrite ((match lo with | some w => w.toNat | none => 0) + hi * 2 ^ 32)
  else
    let s := match lo with
      | some w => s.writeServed req (off - 4) w.toNat
      | none => s
    s.writeServed req off hi

/-- The registers of its block that a VF may write (21 Table 21.9). -/
def vfWrites (off : Nat) : Bool :=
  decide (off < 0x500) || off == 0x600 || off == 0x604 || (decide (0x700 ≤ off) && decide (off ≤ 0x710)) ||
  (decide (0x2800 ≤ off) && decide (off < 0x3200))

/-- A write at a BAR0 offset whose block serves it: a _LO write is held, a _HI write applies the pair (00 R10; 21 R747).  A
queue's configuration that is not DISABLED takes neither. -/
def Dev.writeAt (s : Dev) (req : Req) (off v : Nat) : Dev :=
  if (fieldsAt off).isEmpty ∧ !(0x408000 ≤ off ∧ off < 0x410000) then s
  else if isLo off then
    match s.refusedWrite off v with
    | some s' => s'
    | none => { s with held := Tab.set none s.held (capKey req off) (some (BitVec.ofNat 32 v)) }
  else if isHi off then
    let lo := Tab.get none s.held (capKey req (off - 4))
    ({ s with held := Tab.set none s.held (capKey req (off - 4)) none }).writePair req off lo v
  else s.writeServed req off v

/-- An aligned 32-bit write of a requester. -/
def Dev.writeReg (s : Dev) (req : Req) (off v : Nat) : Dev :=
  match s.accessOff req off with
  | none => s.doorbellPut req off v
  | some a =>
    match req with
    | .vf n =>
      if 0x3800 ≤ off ∧ off < 0x3A00 then
        ({ s with host := { s.host with
          vfTab := Tab.upd Msix.reset s.host.vfTab (32 * n + (off - 0x3800) / 16) fun e =>
            e.setWord (off % 16 / 4) (BitVec.ofNat 32 v) } }).flushMsix
      else if vfWrites off then s.writeAt req a v else s
    | _ =>
      match s.gate a with
      | .serve => s.writeAt req a v
      | .dead => s.put0 F.DIE_ACCESS 1
      | .hidden => s
      | .asleep d => ({ s with waiting := s.waiting ++ [Access.write req off v] }).wakeFor d
      | .held => { s with waiting := s.waiting ++ [Access.write req off v] }

/-- Is there a register at a requester's offset: in the field tables, or of an MSI-X structure? -/
def regThere (req : Req) (off a : Nat) : Bool :=
  !(fieldsAt a).isEmpty || match req with
    | .vf _ => (decide (0x3800 ≤ off) && decide (off < 0x3A00)) || off == 0x3C00
    | _ => decide (0x408000 ≤ a) && decide (a < 0x410100)

/-- A part of a narrow or misaligned write is ignored with a flag (00 R11, R20; 21 R744), and with a second one where the register takes
no writes in the queue's state (05 R183) (DEDUCED, log 16). -/
def Dev.narrowWrite (s : Dev) (req : Req) (off : Nat) : Dev :=
  match s.accessOff req off with
  | none => s
  | some a =>
    if s.gate a = .dead then (s.put0 F.DIE_ACCESS 1).put0 F.WIDTH_ERR 1
    else if s.gate a = .hidden ∨ !regThere req off a then s
    else
      let s := s.put0 F.WIDTH_ERR 1
      match queueCfg a with
      | some k => if s.get F.Q_STATE (qix k) ≠ 0 ∨ (s.queue k).enabling then s.put F.CFG_IGNORED (qix k) 1 else s
      | none => s

/-- A write of `size` bytes (00 R11). -/
def Dev.writeSized (s : Dev) (req : Req) (off size v : Nat) : Dev :=
  if req.isDoorbell then s.doorbellWrite req off size v
  else if size = 4 ∧ off % 4 = 0 then s.writeReg req off (v % 2 ^ 32)
  else if size = 8 ∧ off % 8 = 0 then (s.writeReg req off (v % 2 ^ 32)).writeReg req (off + 4) (v / 2 ^ 32 % 2 ^ 32)
  else if size ≤ 8 then
    s.forEach ((List.range 3).filter fun i => decide (off / 4 * 4 + 4 * i < off + size)) fun s i => s.narrowWrite req (off / 4 * 4 + 4 * i)
  else s

/-! ### Chain requests (04 R137 to R141; 20 R738) -/

/-- The registers of a request. -/
def chainOffs (f : Frame) : List Nat :=
  (List.range (bitsOf (wordAt f.data 1) 0 4 + 1)).map fun i => bitsOf (wordAt f.data 0) 2 24 * 4 + 4 * i

/-- How a request ends: its status, or that it waits, for a sleeping domain or for a link that retrains. -/
def Dev.chainJudge (s : Dev) (f : Frame) : Except (Option Nat) Nat :=
  let offs := chainOffs f
  let wake := bitAt (wordAt f.data 1) 4
  let gates := offs.map s.gate
  let up := s.get F.BOOT_STAGE == 9 || s.get F.BOOT_STAGE == 10 || s.bootLimited
  let stopped := s.get F.WARDEN_MODE == 2
  let keep := s.get F.UNIT_STATE == stKeep && !wake && !stopped
  let sleep := fun (d : Nat) => s.get F.DOM_STATE [d] == stKeep && !wake && !stopped
  if offs.any fun o => decide (2 ^ 26 ≤ o) then .ok stSTATE
  else if !up ∧ offs.any (fun o => (blockDomain o).isSome) then .ok stSTATE
  else if gates.any (· == .dead) then .ok stFAULT
  else if keep ∧ offs.any (fun o => (blockDomain o).isSome) then .ok stSTATE
  else match gates.findSome? (fun g => match g with | .asleep d => some d | _ => none) with
  | some d => if sleep d then .ok stSTATE else .error (some d)
  | none => if gates.any (· == .held) then .error none else .ok stOK

/-- A response, under the configuration that accepted the request (04 R154). -/
def Dev.respond (s : Dev) (f : Frame) (typ : Nat) (data : List Word) : Dev :=
  if f.dst = bcast then s else s.send typ 0 f.src f.tag data

/-- A request waits; what it waits for is woken, and with WAKE = 1 MGMT with it (18 Table 18.3). -/
def Dev.chainWait (s : Dev) (f : Frame) (d : Option Nat) : Dev :=
  let s := { s with waiting := s.waiting ++ [Access.chain f] }
  match d with
  | some d => if bitAt (wordAt f.data 1) 4 then (s.wakeFor d).wakeFor 8 else s.wakeFor d
  | none => s

/-- RD_REQ for this unit; a read by broadcast is none (DEDUCED, log 20). -/
def Dev.chainRead (s : Dev) (f : Frame) : Dev :=
  if f.typ ≠ tyRdReq ∨ f.dst = bcast then s
  else match s.chainJudge f with
  | .error d => s.chainWait f d
  | .ok st =>
    if st ≠ stOK then s.respond f tyRdRsp [BitVec.ofNat 32 st]
    else
      let r := (chainOffs f).foldl (fun (acc : List Word × Dev) o =>
        if acc.2.gate o = .hidden then (acc.1 ++ [0], acc.2)
        else
          let x := acc.2.readServed (.chain f.src) o
          (acc.1 ++ [x.1], x.2)) ([], s)
      r.2.respond f tyRdRsp (BitVec.ofNat 32 stOK :: r.1)

/-- WR_REQ for this unit: the response leaves before the writes take effect. -/
def Dev.chainWrite (s : Dev) (f : Frame) : Dev :=
  if f.typ ≠ tyWrReq then s
  else match s.chainJudge f with
  | .error d => s.chainWait f d
  | .ok st =>
    let s := s.respond f tyWrRsp [BitVec.ofNat 32 st]
    if st ≠ stOK then s
    else s.forEach ((chainOffs f).zip ((List.range 16).map fun i => wordAt f.data (2 + i))) fun s (e : Nat × Nat) =>
      s.writeReg (.chain f.src) e.1 e.2

/-- A mailbox completes. -/
def Dev.mailDone (s : Dev) (n st : Nat) : Dev := (s.put F.MB_STATE [n] 2).put F.MB_STATUS [n] st

/-- Does a response answer the request that a mailbox has outstanding (04 R139)?  The device checks no sender (04 R145). -/
def Dev.answers (s : Dev) (f : Frame) (wr : Bool) : Bool :=
  decide (f.tag < 4) && s.get F.MB_STATE [f.tag] == 1 && s.flag F.MB_WRITE [f.tag] == wr

/-- DESIGN CHOICE, log 22. -/
def Dev.rdRsp (s : Dev) (f : Frame) : Dev :=
  if f.typ ≠ tyRdRsp ∨ !s.answers f false then s
  else
    let st := bitsOf (wordAt f.data 0) 0 4
    let s := if st = stOK then s.forEach (List.range (s.get F.MB_COUNT [f.tag] + 1)) fun s i =>
        s.put F.MB_DATA [f.tag, i] (wordAt f.data (1 + i)) else s
    s.mailDone f.tag st

def Dev.wrRsp (s : Dev) (f : Frame) : Dev :=
  if f.typ ≠ tyWrRsp ∨ !s.answers f true then s else s.mailDone f.tag (bitsOf (wordAt f.data 0) 0 4)

/-- The unit's own broadcast write has come back.  It completes the broadcast write its mailbox has outstanding, a newer one too, by TAG
alone (DESIGN CHOICE, log 22). -/
def Dev.wrHome (s : Dev) (f : Frame) : Dev :=
  if f.typ = tyWrReq ∧ f.tag < 4 ∧ s.get F.MB_STATE [f.tag] = 1 ∧ s.get F.MB_DST [f.tag] = bcast then s.mailDone f.tag stOK else s

/-- CHAIN_TIMEOUT. -/
def Dev.chainTimeout (s : Dev) (n : Nat) : Dev :=
  if n < 4 ∧ s.get F.MB_STATE [n] = 1 then s.mailDone n stFAULT else s

/-! ### Accesses that waited (18 R650, R651) -/

/-- The accesses that waited are made again, in order; what still sleeps goes on waiting. -/
def Dev.serveAccesses (s : Dev) : Dev :=
  let l := s.waiting
  ({ s with waiting := [] }).forEach l fun s a =>
    match a with
    | .write r o v => s.writeReg r o v
    | .read r o lo n a => s.readReg r o lo n a
    | .chain f => if f.typ = tyRdReq then s.chainRead f else s.chainWrite f

/-- HOST has been woken by an access: it serves what waits, and follows the link and the PF's D-state again (18 R645, R650) (DEDUCED,
log 19). -/
def Dev.hostAwake (s : Dev) : Dev :=
  if !Tab.get false s.wakes 9 then s
  else
    let s := { s with wakes := Tab.set false s.wakes 9 false, host := { s.host with l1 := false } }
    (s.put F.DOM_STATE [9] stRun).serveAccesses.fixHost

/-- WAKE_DELAY_DONE: requests and accesses that waited follow the exit. -/
def Dev.wakeDone (s : Dev) (d : Nat) : Dev :=
  if d = 9 then s.hostAwake else ((s.exitDone d).serveWaits).serveAccesses

/-- SHELF_RETRAIN_DONE: the traffic that the link held goes on (01 R46). -/
def Dev.shelfServe (s : Dev) (l : Nat) : Dev := (s.shelfDone l).serveAccesses

end Sys2Proof.Machine
end

