-- ==== Sys2Proof/Machine/SaddleTable.lean ====
section
/-! DEFINITION. Saddle tables: the column types and buffers, reading and writing rows, normalised keys, the two hash
functions and the hash table headers (12_saddle R415 to R424, R433 to R436). -/

namespace Sys2Proof.Machine

/-- DETAIL values of Table 12.10. -/
abbrev dBADTABLE : Nat := 0x70
abbrev dBADEXPR : Nat := 0x71
abbrev dBADKEY : Nat := 0x72
abbrev dKEYWIDTH : Nat := 0x73
abbrev dOUTTYPE : Nat := 0x74
abbrev dOUTFULL : Nat := 0x75
abbrev dOUTNULL : Nat := 0x76
abbrev dHTFULL : Nat := 0x77
abbrev dKERNELTRAP : Nat := 0x78
abbrev dKERNELLIMIT : Nat := 0x79
abbrev dKERNELROW : Nat := 0x7A
abbrev dHTUNSET : Nat := 0x7B
abbrev dNOTBUILT : Nat := 0x7C
abbrev dHTBUSY : Nat := 0x7D
abbrev dKEYMISMATCH : Nat := 0x7E
abbrev dBADPARAM : Nat := 0x7F

/-! ### Column types (12 Table 12.1) -/

abbrev tyBOOL : Nat := 1
abbrev tyUINT32 : Nat := 8
abbrev tyUINT64 : Nat := 9
abbrev tyINT64 : Nat := 5
abbrev tyFP32 : Nat := 11
abbrev tyFIXED : Nat := 13
abbrev tyBINARY : Nat := 14
abbrev tyLIST : Nat := 15

/-- A column's type: TYPE, CHILD_TYPE of a LIST, WIDTH of a FIXED_BINARY. -/
structure Ty where
  ty : Nat
  child : Nat
  width : Nat
deriving DecidableEq, Repr

def Ty.plain (t : Nat) : Ty := ⟨t, 0, 0⟩
def tySigned (t : Nat) : Bool := decide (2 ≤ t) && decide (t ≤ 5)
def tyUnsigned (t : Nat) : Bool := decide (6 ≤ t) && decide (t ≤ 9)
def tyInt (t : Nat) : Bool := tySigned t || tyUnsigned t
def tyFloat (t : Nat) : Bool := decide (10 ≤ t) && decide (t ≤ 12)
def tyNumeric (t : Nat) : Bool := tyInt t || tyFloat t

/-- The float format of a type. -/
def tyFmt (t : Nat) : Fmt := if t = 10 then .fp16 else if t = 12 then .bf16 else .fp32

/-- Bytes of a fixed-width value; 0 for BOOL and the variable types. -/
def tyBytes (t width : Nat) : Nat :=
  if t = 2 ∨ t = 6 then 1 else if t = 3 ∨ t = 7 ∨ t = 10 ∨ t = 12 then 2 else if t = 4 ∨ t = 8 ∨ t = 11 then 4
  else if t = 5 ∨ t = 9 then 8 else if t = tyFIXED then width else 0

/-- Types compare by what their values are. -/
def Ty.same (a b : Ty) : Bool :=
  a.ty == b.ty && (a.ty != tyLIST || a.child == b.child) &&
    (!(a.ty == tyFIXED || (a.ty == tyLIST && a.child == tyFIXED)) || a.width == b.width)

/-! ### Descriptors (12 Table 12.2) -/

structure Col where
  t : Ty
  valid : Nat
  offsets : Nat
  values : Nat
  childValid : Nat
  cap : Nat
deriving DecidableEq, Repr

structure Tbl where
  addr : Nat
  rows : Nat
  cap : Nat
  cols : List Col
  /-- what is written into it has no defined contents (12 R451) -/
  wild : Bool
deriving DecidableEq, Repr

/-- Read a column descriptor; its buffers must be aligned to `al`. -/
def readCol (a : Acc) (addr al : Nat) : Act Col := do
  let b ← readMem a addr 64
  let w := wordsOfBytes b
  let c : Col := ⟨⟨fld w 0 0 5, fld w 0 5 5, fld w 0 16 10⟩, addr64 w 2, addr64 w 4, addr64 w 6, addr64 w 8, wordAt w 10⟩
  let list := c.t.ty == tyLIST
  let fixed := c.t.ty == tyFIXED || (list && c.t.child == tyFIXED)
  failIf (c.t.ty == 0 || decide (15 < c.t.ty) || (list && (c.t.child == 0 || decide (13 < c.t.child))) ||
    (fixed && (c.t.width == 0 || decide (1024 < c.t.width)))) stFAULT dBADTABLE
  failIf ([c.valid, c.offsets, c.values, c.childValid].any fun x => x % al != 0) stFAULT dBADTABLE
  pure { c with childValid := if list then c.childValid else 0 }

/-- Read a table descriptor: input buffers are 8 B aligned, output buffers 64 B (12 R418, R419). -/
def readTbl (a : Acc) (addr : Nat) (out : Bool) : Act Tbl := do
  failIf (addr % 64 != 0) stFAULT dBADPARAM
  let b ← readMem a addr 64
  let w := wordsOfBytes b
  let n := fld w 1 0 7
  failIf (n == 0 || decide (64 < n) || (!out && decide (2 ^ 31 ≤ wordAt w 0))) stFAULT dBADTABLE
  let cols ← (List.range n).mapM fun c => readCol a (addr + 64 + 64 * c) (if out then 64 else 8)
  pure ⟨addr, wordAt w 0, wordAt w 2, cols, false⟩

/-! ### Values -/

/-- A value of a row: null, the bytes of a fixed or BINARY value (a BOOL is one byte), or the items of a LIST with their
validity. -/
inductive Cell where
  | null
  | val (bs : List Byte)
  | list (items : List (Bool × List Byte))
deriving DecidableEq, Repr

def Cell.isNull : Cell → Bool
  | .null => true
  | _ => false
def Cell.bytes : Cell → List Byte
  | .val b => b
  | _ => []
def Cell.nat (c : Cell) : Nat := leNat c.bytes

/-- A fixed-width value as a cell. -/
def Cell.ofNat (t v : Nat) : Cell := .val (leBytes v (if t = tyBOOL then 1 else tyBytes t 0))

/-- Bit `i` of a bitmap; an address of 0 says that every bit is 1. -/
def readBit (a : Acc) (addr i : Nat) : Act Bool :=
  if addr = 0 then pure true
  else do
    let b ← readNat a (addr + i / 8) 1
    pure (bitAt b (i % 8))

/-- Item `i` of a buffer of fixed-width values or of BOOL. -/
def readItem (a : Acc) (t width addr i : Nat) : Act (List Byte) :=
  if t = tyBOOL then do
    let b ← readNat a (addr + i / 8) 1
    pure [if bitAt b (i % 8) then 1 else 0]
  else readMem a (addr + tyBytes t width * i) (tyBytes t width)

/-- The extent of a variable value; a negative or decreasing offset ends the chunk (12 R418). -/
def readSpan (a : Acc) (c : Col) (r : Nat) : Act (Nat × Nat) := do
  let x ← readNat a (c.offsets + 4 * r) 4
  let y ← readNat a (c.offsets + 4 * r + 4) 4
  failIf (decide (2 ^ 31 ≤ x) || decide (2 ^ 31 ≤ y) || decide (y < x)) stFAULT dBADTABLE
  pure (x, y - x)

/-- The value of column `c` in row `r`. -/
def readCell (a : Acc) (c : Col) (r : Nat) : Act Cell := do
  let v ← readBit a c.valid r
  if !v then pure .null
  else if c.t.ty = tyBINARY then do
    let (x, n) ← readSpan a c r
    let b ← readMem a (c.values + x) n
    pure (.val b)
  else if c.t.ty = tyLIST then do
    let (x, n) ← readSpan a c r
    let items ← (List.range n).mapM fun j => do
      let ok ← readBit a c.childValid (x + j)
      let b ← readItem a c.t.child c.t.width c.values (x + j)
      pure (ok, b)
    pure (.list items)
  else do
    let b ← readItem a c.t.ty c.t.width c.values r
    pure (.val b)

/-- The values of a row in some columns. -/
def readCells (a : Acc) (t : Tbl) (cols : List Nat) (r : Nat) : Act (List Cell) :=
  cols.mapM fun j => readCell a (t.cols.getD j ⟨⟨0, 0, 0⟩, 0, 0, 0, 0, 0⟩) r

/-- The type of column `j`. -/
def Tbl.ty (t : Tbl) (j : Nat) : Ty := (t.cols.getD j ⟨⟨0, 0, 0⟩, 0, 0, 0, 0, 0⟩).t

/-! ### Writing rows (12 R419)

A writer keeps, per column of its table: values or bytes written, nulls, and the bits of the bytes in progress of its
four bitmaps. -/

/-- Lists of a writer among the command's slots. -/
abbrev wPOS : Nat := 0
abbrev wNULLS : Nat := 1
abbrev wVALID : Nat := 2
abbrev wBOOL : Nat := 3
abbrev wCVALID : Nat := 4
abbrev wCBOOL : Nat := 5
/-- The rows a writer has written, in list `wROWS`. -/
abbrev wROWS : Nat := 6
abbrev wLISTS : Nat := 7

def Cmd.slotAt (c : Cmd) (l i : Nat) : Nat := (c.slots.getD l []).getD i 0

/-- Set entry `i` of a list of numbers, making room. -/
def setAt (l : List Nat) (i v : Nat) : List Nat := (l ++ List.replicate (i + 1 - l.length) 0).set i v

def Cmd.setSlot (c : Cmd) (l i v : Nat) : Cmd :=
  let ls := c.slots ++ List.replicate (l + 1 - c.slots.length) []
  { c with slots := ls.set l (setAt (ls.getD l []) i v) }

def getS (k l i : Nat) : Act Nat := do
  let c ← theCmd k
  pure (c.slotAt l i)
def putS (k l i v : Nat) : Act Unit := updC k (·.setSlot l i v)

/-- Append one bit to a bitmap at index `i`, through the byte in progress. -/
def putBit (k : Nat) (a : Acc) (wild : Bool) (l j addr i : Nat) (v : Bool) : Act Unit := do
  let cur ← getS k l j
  let cur := if i % 8 = 0 then b2n v else putBits cur (i % 8) 1 (b2n v)
  writeOr a wild (addr + i / 8) (leBytes cur 1)
  putS k l j cur

/-- Write the value of column `j` in row `r` of writer `o`. -/
def putCell (k o : Nat) (a : Acc) (wild : Bool) (j r : Nat) (c : Col) (v : Cell) : Act Unit := do
  let base := o * wLISTS
  failIf (v.isNull && c.valid == 0) stFAULT dOUTNULL
  if c.t.ty = tyBINARY ∨ c.t.ty = tyLIST then
    let p ← getS k (base + wPOS) j
    if r = 0 then writeOr a wild c.offsets (leBytes 0 4)
    let n ← match v with
      | .list items => do
        let size := if c.t.child = tyBOOL then (p + items.length + 7) / 8 else (p + items.length) * tyBytes c.t.child c.t.width
        failIf (decide (c.cap < size)) stFAULT dOUTFULL
        failIf (c.childValid == 0 && items.any fun x => !x.1) stFAULT dOUTNULL
        items.zipIdx.forM fun (x, i) => do
          if c.t.child = tyBOOL then putBit k a wild (base + wCBOOL) j c.values (p + i) (leNat x.2 != 0)
          else writeOr a wild (c.values + (p + i) * tyBytes c.t.child c.t.width) x.2
          if c.childValid ≠ 0 then putBit k a wild (base + wCVALID) j c.childValid (p + i) x.1
        pure items.length
      | v => do
        failIf (decide (c.cap < p + v.bytes.length)) stFAULT dOUTFULL
        writeOr a wild (c.values + p) v.bytes
        pure v.bytes.length
    writeOr a wild (c.offsets + 4 * r + 4) (leBytes (p + n) 4)
    putS k (base + wPOS) j (p + n)
  else if c.t.ty = tyBOOL then putBit k a wild (base + wBOOL) j c.values r (v.nat != 0)
  else
    let w := tyBytes c.t.ty c.t.width
    writeOr a wild (c.values + w * r) (if v.isNull then List.replicate w 0 else v.bytes)
  if c.valid ≠ 0 then putBit k a wild (base + wVALID) j c.valid r (!v.isNull)
  if v.isNull then
    let n ← getS k (base + wNULLS) j
    putS k (base + wNULLS) j (n + 1)

/-- Write one row; rows beyond the capacity end the command. -/
def putRow (k o : Nat) (a : Acc) (t : Tbl) (cells : List Cell) : Act Unit := do
  let r ← getS k (o * wLISTS + wROWS) 0
  failIf (decide (t.cap ≤ r)) stFAULT dOUTFULL
  (t.cols.zip cells).zipIdx.forM fun (x, j) => putCell k o a t.wild j r x.1 x.2
  putS k (o * wLISTS + wROWS) 0 (r + 1)

/-- The end of an output table: padded bitmaps, null counts, and ROWS last. -/
def closeTbl (k o : Nat) (a : Acc) (t : Tbl) (none_ : Bool) : Act Unit := do
  let base := o * wLISTS
  let r ← getS k (base + wROWS) 0
  if none_ then writeOr a t.wild t.addr (leBytes 0 4)
  else
    t.cols.zipIdx.forM fun (c, j) => do
      if r = 0 ∧ (c.t.ty = tyBINARY ∨ c.t.ty = tyLIST) then writeOr a t.wild c.offsets (leBytes 0 4)
      let have_ := (r + 7) / 8
      let room := min (up64 have_) ((t.cap + 7) / 8)
      if c.valid ≠ 0 then writeOr a t.wild (c.valid + have_) (List.replicate (room - have_) 0)
      let n ← getS k (base + wNULLS) j
      writeOr a t.wild (t.addr + 64 + 64 * j + 4) (leBytes n 4)
    writeOr a t.wild t.addr (leBytes r 4)

/-- The bytes of a column over `n` rows; an output's variable values up to its capacity, an input's up to its last offset. -/
def Col.areas (a : Acc) (c : Col) (n : Nat) (out : Bool) : Act (List Area) := do
  let bits := fun m => (m + 7) / 8
  let valid := if c.valid = 0 then [] else [Area.flat c.valid (bits n)]
  if c.t.ty = tyBINARY ∨ c.t.ty = tyLIST then
    let size := if c.t.ty = tyBINARY then 1 else tyBytes c.t.child c.t.width
    let items ← if out then pure (if size = 0 then 8 * c.cap else c.cap / size) else readNat a (c.offsets + 4 * n) 4
    let child := if c.childValid = 0 then [] else [Area.flat c.childValid (bits items)]
    pure (Area.flat c.offsets (4 * n + 4) :: Area.flat c.values (if size = 0 then bits items else size * items) :: valid ++ child)
  else
    pure (Area.flat c.values (if c.t.ty = tyBOOL then bits n else n * tyBytes c.t.ty c.t.width) :: valid)

/-- The bytes that a table occupies: its descriptor and its buffers. -/
def Tbl.areas (a : Acc) (t : Tbl) (out : Bool) : Act (List Area) := do
  let l ← t.cols.mapM fun c => c.areas a (if out then t.cap else t.rows) out
  pure (Area.flat t.addr (64 + 64 * t.cols.length) :: l.flatten)

/-- The output table holds just the columns a command produces (12 R419). -/
def outTypes (t : Tbl) (ts : List Ty) : Act Unit :=
  failIf (t.cols.length != ts.length || !(t.cols.zip ts).all fun x => x.1.t.same x.2) stFAULT dOUTTYPE

/-! ### Hash functions (12 R423, R424) -/

def rotl64 (v n : Nat) : Nat := v * 2 ^ n % 2 ^ 64 + v / 2 ^ (64 - n)

abbrev rillK1 : Nat := 0x8E315A7D24C9B6F1
abbrev rillK2 : Nat := 0xA74D93E10B6F58C5

/-- One 8-byte word of rill64. -/
def rillWord (h w : Nat) : Nat :=
  let w := w * rillK2 % 2 ^ 64
  let w := (w ^^^ w / 2 ^ 29) * rillK1 % 2 ^ 64
  (rotl64 (h ^^^ w) 27 * rillK1 + rillK2) % 2 ^ 64

def rill64 (seed : Nat) (bs : List Byte) : Nat :=
  let h := seed ^^^ bs.length * rillK1 % 2 ^ 64
  let h := (cutBy 8 bs).foldl (fun h b => rillWord h (leNat b)) h
  let h := (h ^^^ h / 2 ^ 31) * rillK2 % 2 ^ 64
  h ^^^ h / 2 ^ 33

/-! ### Keys (12 R421, R422) -/

def padTo8 (bs : List Byte) : List Byte := bs ++ List.replicate ((8 - bs.length % 8) % 8) 0

/-- A floating value as a key: −0 is +0, a NaN is the canonical NaN. -/
def normFloat (t v : Nat) : Nat :=
  let f := tyFmt t
  let x := f.decode v
  if x.isNan then f.nanEnc else if x.isZero then 0 else v

/-- The content of one value in a normalised key. -/
def keyPart (t : Ty) (c : Cell) : List Byte :=
  if tyFloat t.ty then leBytes (normFloat t.ty c.nat) 8
  else if t.ty = tyFIXED then padTo8 c.bytes
  else if t.ty = tyBINARY then padTo8 (leBytes c.bytes.length 4 ++ c.bytes)
  else leBytes c.nat 8

/-- The normalised key of a row, KEY_WORDS words long; none when a key column is null. -/
def normKey (words : Nat) (ts : List Ty) (cs : List Cell) : Act (Option (List Byte)) := do
  if cs.any Cell.isNull then pure none
  else
    let b := (ts.zip cs).flatMap fun x => keyPart x.1 x.2
    failIf (decide (8 * words < b.length)) stFAULT dKEYWIDTH
    pure (some (b ++ List.replicate (8 * words - b.length) 0))

/-- The bytes that an expression hashes for a value (12 R424, R426). -/
def hashBytes (t : Ty) (c : Cell) : List Byte :=
  match c with
  | .list items =>
    leBytes items.length 4 ++
      (if t.child = tyBOOL then (cutBy 8 items).map fun b =>
          BitVec.ofNat 8 ((b.zipIdx.map fun x => if leNat x.1.2 = 0 then 0 else 2 ^ x.2).sum)
       else items.flatMap (·.2))
  | c => if t.ty = tyBINARY then leBytes c.bytes.length 4 ++ c.bytes else keyPart t c

/-- The columns a KEYS word names. -/
def keyCols (w : Nat) : List Nat := [bitsOf w 0 6, bitsOf w 8 6, bitsOf w 16 6, bitsOf w 24 6].take (bitsOf w 30 2 + 1)

/-- The order of a fixed-width value: unsigned numbers that compare as the values do (08 R300). -/
def orderOf (t v : Nat) : Nat :=
  if tyFloat t then orderKey (tyFmt t).width v
  else if tySigned t then (v + 2 ^ (8 * tyBytes t 0 - 1)) % 2 ^ (8 * tyBytes t 0)
  else v

/-! ### Hash table headers (12 R434 to R436) -/

abbrev htEMPTY : Nat := 0
abbrev htBUILDING : Nat := 1
abbrev htBUILT : Nat := 2
abbrev htFAILED : Nat := 3

structure HT where
  p : Nat
  h : Nat
  log : Nat
  words : Nat
  base : Nat
  ovf : Nat
  pair : List Nat
deriving DecidableEq, Repr

def htGen (w : List Word) : Nat × Nat := (bitsOf (wordAt w 0) 28 4, bitsOf (wordAt w 2) 0 4)

/-- The table as a header's words describe it. -/
def HT.ofWords (p h : Nat) (w : List Word) : HT :=
  ⟨p, h, fld w 0 0 5, fld w 0 8 4, wordAt w 2 / 64 * 64 + 2 ^ 32 * fld w 3 0 16, fld w 3 16 16, w.map (·.toNat)⟩

/-- Where a header's last matching pair is kept. -/
def htPairAt (p h : Nat) : Nat := 0x803000 + 0x4000 * p + 0x20 * h

/-- Sample header `h`: a changed pair empties the table (12 Table 12.9); an unset one stops the command. -/
def sampleHT (p h : Nat) : Act HT := do
  let off := htPairAt p h
  let s ← theDev
  let old := Tab.get [] s.pairs off
  let w ← samplePair off 4 htGen
  if w ≠ old ∧ !(old.isEmpty && w.all (· == 0)) then
    act fun s => (s.put F.HT_STATE [p, h] htEMPTY).put F.HT_ROWS [p, h] 0
  failIf (fld w 0 0 5 == 0) stSTATE dHTUNSET
  pure (HT.ofWords p h w)

def HT.entrySize (h : HT) : Nat := 16 + 8 * h.words
def HT.entries (h : HT) : Nat := h.ovf * 65536 / h.entrySize
/-- The bucket array and the entry area (12 R435). -/
def HT.area (h : HT) : Area := .flat h.base (8 * 2 ^ h.log + h.ovf * 65536)
def HT.entryAt (h : HT) (i : Nat) : Nat := h.base + 8 * 2 ^ h.log + h.entrySize * i
def HT.bucketOf (h : HT) (hash : Nat) : Nat := h.base + 8 * (hash / 2 ^ (64 - h.log))

/-- The signature of key columns (12 Table 12.8). -/
def keySig (ts : List Ty) : Nat := (ts.zipIdx.map fun x => x.1.ty * 2 ^ (5 * x.2)).sum + (ts.length - 1) * 2 ^ 20

/-- Clear the bucket array. -/
def HT.clear (h : HT) (a : Acc) : Act Unit :=
  (List.range (2 ^ h.log)).forM fun i => writeMem a (h.base + 8 * i) (List.replicate 8 0)

/-- Follow a chain from entry `i` (counted from 1; 0 ends it), collecting the rows of the entries whose key is `key`. -/
def HT.chain (h : HT) (a : Acc) (hash : Nat) (key : List Byte) : Nat → Nat → Act (List Nat)
  | 0, _ => pure []
  | n + 1, i =>
    if i = 0 then pure []
    else do
      let b ← readMem a (h.entryAt (i - 1)) h.entrySize
      let next := leNat ((b.drop 4).take 4)
      let hit := leNat ((b.drop 8).take 8) == hash && b.drop 16 == key
      let t ← HT.chain h a hash key n next
      pure (if hit then leNat (b.take 4) :: t else t)

/-- The rows of the entries with a key, in ascending order. -/
def HT.lookup (h : HT) (a : Acc) (key : List Byte) : Act (List Nat) := do
  let hash := rill64 0 key
  let first ← readNat a (h.bucketOf hash) 4
  h.chain a hash key (h.entries + 1) first

/-- Append an entry: `n` is how many there are (12 R435). -/
def HT.insert (h : HT) (a : Acc) (n row : Nat) (key : List Byte) : Act Unit := do
  failIf (decide (h.entries ≤ n)) stFAULT dHTFULL
  let hash := rill64 0 key
  let head ← readMem a (h.bucketOf hash) 8
  let last := leNat (head.drop 4)
  writeMem a (h.entryAt n) (leBytes row 4 ++ leBytes 0 4 ++ leBytes hash 8 ++ key)
  if last ≠ 0 then writeMem a (h.entryAt (last - 1) + 4) (leBytes (n + 1) 4)
  let first := if last = 0 then n + 1 else leNat (head.take 4)
  writeMem a (h.bucketOf hash) (leBytes first 4 ++ leBytes (n + 1) 4)

end Sys2Proof.Machine
end

