-- ==== Sys2Proof/Machine/SaddleExpr.lean ====
section
/-! DEFINITION. Select programs: their layout, the checks of types and depth, and the expression operations
(12_saddle R425 to R428). -/

namespace Sys2Proof.Machine

/-- One op word. -/
structure EOp where
  opc : Nat
  arg : Nat
  ty : Nat
deriving DecidableEq, Repr

/-- A select program (12 Table 12.3). -/
structure Prog where
  outs : List (Nat × Nat)
  pred : Option Bool
  exprs : List (List EOp)
  kin : List Nat
  kout : List Nat
  consts : List Nat
deriving DecidableEq, Repr

def badExpr {α : Type} : Act α := stopWith stFAULT dBADEXPR

/-- Read expressions one behind the other: the expressions, and the address behind them. -/
def readExprs (a : Acc) : Nat → Nat → Act (List (List EOp) × Nat)
  | 0, addr => pure ([], addr)
  | n + 1, addr => do
    let h ← readNat a addr 4
    let k := bitsOf h 0 6
    failIf (k == 0 || decide (32 < k)) stFAULT dBADEXPR
    let ops ← (List.range k).mapM fun i => do
      let w ← readNat a (addr + 4 + 4 * i) 4
      pure (⟨bitsOf w 0 8, bitsOf w 8 8, bitsOf w 16 5⟩ : EOp)
    let r ← readExprs a n (addr + 4 + 4 * k)
    pure (ops :: r.1, r.2)

/-- Read the program at an address. -/
def readProg (a : Acc) (addr : Nat) : Act Prog := do
  let b ← readMem a addr 16
  let w := wordsOfBytes b
  let outs := fld w 0 0 7
  let nexpr := fld w 0 12 4
  let kin := fld w 0 16 3
  let kout := fld w 0 20 3
  let nconst := fld w 3 0 7
  failIf (outs == 0 || decide (64 < outs) || decide (8 < nexpr) || decide (4 < kin) || decide (4 < kout) ||
    decide (64 < nconst)) stFAULT dBADEXPR
  let os ← (List.range outs).mapM fun i => do
    let v ← readNat a (addr + 16 + 4 * i) 4
    pure (bitsOf v 0 2, bitsOf v 2 6)
  let (es, behind) ← readExprs a nexpr (addr + 16 + 4 * outs)
  let cbase := (behind + 7) / 8 * 8
  let cs ← (List.range nconst).mapM fun i => readNat a (cbase + 8 * i) 8
  pure { outs := os
         pred := if fld w 0 8 1 = 1 then some (fld w 0 9 1 == 1) else none
         exprs := es
         kin := (List.range kin).map fun i => fld w 1 (8 * i) 6
         kout := (List.range kout).map fun i => fld w 2 (8 * i) 5
         consts := cs }

/-! ### Types (12 R426) -/

/-- FP16 and BF16 operands are widened. -/
def widen (t : Ty) : Ty := if tyFloat t.ty then Ty.plain tyFP32 else t

/-- The types on the stack after an operation; none where it does not fit. -/
def opTypes (t : Tbl) (nconst : Nat) (o : EOp) (st : List Ty) : Option (List Ty) :=
  let col := t.ty o.arg
  let inCols := decide (o.arg < t.cols.length)
  let bool := Ty.plain tyBOOL
  match o.opc, st with
  | 0x01, st => if inCols && decide (col.ty ≤ 13) then some (col :: st) else none
  | 0x02, st => if decide (o.arg < nconst) && decide (1 ≤ o.ty) && decide (o.ty ≤ 12) then some (Ty.plain o.ty :: st) else none
  | 0x1A, x :: st => if x.ty = tyBOOL then some (bool :: st) else none
  | 0x1B, _ :: st => some (bool :: st)
  | 0x09, x :: st => if tyNumeric x.ty then some (widen x :: st) else none
  | 0x0A, x :: st => if tyNumeric x.ty then some (widen x :: st) else none
  | 0x20, x :: st => if tyNumeric x.ty && tyNumeric o.ty then some (Ty.plain o.ty :: st) else none
  | 0x21, st => if inCols then some (Ty.plain tyUINT32 :: st) else none
  | 0x22, st => if inCols then some (Ty.plain tyUINT64 :: st) else none
  | 0x23, y :: x :: st => if x.ty = tyUINT64 ∧ y.ty = tyUINT64 then some (Ty.plain tyUINT64 :: st) else none
  | 0x24, x :: st => if tyNumeric x.ty && decide (o.arg + 1 < nconst) then some (Ty.plain tyUINT32 :: st) else none
  | 0x25, st => if inCols && (col.ty == tyBINARY || col.ty == tyLIST) then some (Ty.plain tyUINT32 :: st) else none
  | c, y :: x :: st =>
    if !(widen x).same (widen y) then none
    else if 0x03 ≤ c ∧ c ≤ 0x08 then (if tyNumeric x.ty then some (widen x :: st) else none)
    else if c = 0x10 ∨ c = 0x11 then some (bool :: st)
    else if 0x12 ≤ c ∧ c ≤ 0x15 then (if tyNumeric x.ty || x.ty == tyBOOL then some (bool :: st) else none)
    else if c = 0x18 ∨ c = 0x19 then (if x.ty = tyBOOL then some (bool :: st) else none)
    else if c = 0x1C then some (widen x :: st)
    else none
  | _, _ => none

/-- The type of an expression, when it checks. -/
def exprType (t : Tbl) (nconst : Nat) : List EOp → List Ty → Option Ty
  | [], [x] => some x
  | [], _ => none
  | o :: os, st => match opTypes t nconst o st with
    | some st' => if 8 < st'.length then none else exprType t nconst os st'
    | none => none

/-! ### Integer operations (12 R427) -/

/-- The range of an integer type. -/
def intLo (t : Nat) : Int := if tySigned t then -(2 ^ (8 * tyBytes t 0 - 1) : Nat) else 0
def intHi (t : Nat) : Int := if tySigned t then (2 ^ (8 * tyBytes t 0 - 1) : Nat) - 1 else (2 ^ (8 * tyBytes t 0) : Nat) - 1

def toInt (t v : Nat) : Int := if tySigned t then sext v (8 * tyBytes t 0) else v

/-- An integer result: one outside the range saturates. -/
def ofIntSat (t : Nat) (v : Int) : Fl Nat :=
  let w := 8 * tyBytes t 0
  if v < intLo t then do
    raise (fSATURATED ||| fINEXACT)
    pure (wrapInt (intLo t) w)
  else if intHi t < v then do
    raise (fSATURATED ||| fINEXACT)
    pure (wrapInt (intHi t) w)
  else pure (wrapInt v w)

/-- The value of a floating operand. -/
def fval (t v : Nat) : Num := (tyFmt t).decode v

/-- A floating result in FP32. -/
def fres (rd : Rnd) (flush : Bool) (x : Num) : Fl (Option Nat) := do
  let v ← Fmt.fp32.round rd flush x
  pure (some v)

/-- ADD, SUB, MUL, DIV, MIN, MAX on valid operands; the operation that ends an output expression is the destination rounding (08 R289). -/
def arithOp (c t x y tx ty : Nat) (rd : Rnd) (flush : Bool) : Fl (Option Nat) := do
  if tyFloat t then
    let a := fval tx x
    let b := fval ty y
    let r ← match c with
      | 0x03 => addX a b
      | 0x04 => addX a b.neg
      | 0x05 => mulX a b
      | 0x06 => divX a b
      | 0x07 => pure (a.min b)
      | _ => pure (a.max b)
    fres rd flush r
  else
    let a := toInt t x
    let b := toInt t y
    if c = 0x06 ∧ b = 0 then
      raise fINVALID
      pure none
    else
      let v ← ofIntSat t (match c with
        | 0x03 => a + b
        | 0x04 => a - b
        | 0x05 => a * b
        | 0x06 => Int.tdiv a b
        | 0x07 => min a b
        | _ => max a b)
      pure (some v)

/-- The truncated integer of a finite value. -/
def truncNum : Num → Int
  | .fin s m e => let n := (roundMag .zero m e 0).1; if s then -(n : Int) else n
  | _ => 0

/-- CAST on a valid operand; `rd` is the rounding of a floating result (12 R427) (DEDUCED, log 59). -/
def castOp (to_ from_ v : Nat) (rd : Rnd) (flush : Bool) : Fl (Option Nat) := do
  if tyInt from_ ∧ tyInt to_ then
    let r ← ofIntSat to_ (toInt from_ v)
    pure (some r)
  else if tyInt from_ then
    let r ← (tyFmt to_).round rd flush (Num.ofInt (toInt from_ v))
    pure (some r)
  else if tyInt to_ then
    match fval from_ v with
    | .nan =>
      raise fINVALID
      pure none
    | .inf s =>
      raise (fSATURATED ||| fINEXACT)
      pure (some (wrapInt (if s then intLo to_ else intHi to_) (8 * tyBytes to_ 0)))
    | x =>
      let n := truncNum x
      if Num.diff x (Num.ofInt n) ≠ 0 then raise fINEXACT
      let r ← ofIntSat to_ n
      pure (some r)
  else
    let r ← (tyFmt to_).round rd flush (fval from_ v)
    pure (some r)

/-- A comparison of valid operands: EQ 0x10, NE, LT, LE, GT, GE (12 R428). -/
def compareOp (c t x y tx ty : Nat) : Bool :=
  if tyFloat t then
    let a := fval tx x
    let b := fval ty y
    if a.isNan || b.isNan then c == 0x11
    else
      let d := Num.diff a b
      match c with
      | 0x10 => d == 0
      | 0x11 => d != 0
      | 0x12 => decide (d < 0)
      | 0x13 => decide (d ≤ 0)
      | 0x14 => decide (0 < d)
      | _ => decide (0 ≤ d)
  else
    let a := if tySigned t then toInt t x else x
    let b := if tySigned t then toInt t y else y
    match c with
    | 0x10 => a == b
    | 0x11 => a != b
    | 0x12 => decide (a < b)
    | 0x13 => decide (a ≤ b)
    | 0x14 => decide (b < a)
    | _ => decide (b ≤ a)

/-- Three-valued AND and OR. -/
def logicOp (isAnd : Bool) (x y : Option Nat) : Option Nat :=
  let short := if isAnd then some 0 else some 1
  if x = short ∨ y = short then short
  else if x.isNone || y.isNone then none
  else if isAnd then some 1 else some 0

/-! ### Evaluation -/

/-- A value as FLUSH makes it: a subnormal is the zero of its sign (08 R292). -/
def Fmt.flushEnc (f : Fmt) (flush : Bool) (v : Nat) : Nat :=
  if flush && f.subnormal v then f.signBit (bitAt v (f.width - 1)) else v

/-- What an expression is evaluated in: the input table, its row, and the command's options. -/
structure EEnv where
  t : Tbl
  r : Nat
  consts : List Nat
  seed : Nat
  flush : Bool
  /-- rounding of the operation that ends an output expression -/
  last : Rnd

/-- The boundaries of a BUCKET: the address and the count come from two constants. -/
def readBounds (a : Acc) (t addr n : Nat) : Act (List Nat) := do
  let w := tyBytes t 0
  let b ← readMem a addr (w * n)
  pure ((cutBy w b).map fun x => orderOf t (leNat x))

/-- A value on the stack. -/
abbrev SVal := Ty × Option Nat

/-- One operation; the stack has passed the checks. -/
def evalOp (a : Acc) (e : EEnv) (isLast : Bool) (o : EOp) (st : List SVal) : Act (List SVal) := do
  let colTy := e.t.ty o.arg
  let cell := readCell a (e.t.cols.getD o.arg ⟨⟨0, 0, 0⟩, 0, 0, 0, 0, 0⟩) e.r
  let put := fun (t : Nat) (v : Option Nat) (st : List SVal) => pure ((Ty.plain t, v) :: st)
  match o.opc, st with
  | 0x01, st => do
    let c ← cell
    let v := if c.isNull then none
      else some (if tyFloat colTy.ty then (tyFmt colTy.ty).flushEnc e.flush c.nat else c.nat)
    pure ((colTy, v) :: st)
  | 0x02, st => put o.ty (some (bitsOf (e.consts.getD o.arg 0) 0 (if o.ty = tyBOOL then 1 else 8 * tyBytes o.ty 0))) st
  | 0x1A, x :: st => put tyBOOL (x.2.map fun v => 1 - v) st
  | 0x1B, x :: st => put tyBOOL (some (b2n x.2.isNone)) st
  | 0x09, x :: st => do
    let t := (widen x.1).ty
    let v ← match x.2 with
      | none => pure none
      | some v => arith (if tyFloat t then fres .near false (fval x.1.ty v).neg else do
          let r ← ofIntSat t (-(toInt t v))
          pure (some r))
    put t v st
  | 0x0A, x :: st => do
    let t := (widen x.1).ty
    let v ← match x.2 with
      | none => pure none
      | some v => arith (if tyFloat t then fres .near false (fval x.1.ty v).abs else do
          let r ← ofIntSat t (toInt t v).natAbs
          pure (some r))
    put t v st
  | 0x20, x :: st => do
    let v ← match x.2 with
      | none => pure none
      | some v => arith (castOp o.ty x.1.ty v (if isLast then e.last else .near) (isLast && e.flush))
    put o.ty v st
  | 0x21, st => do
    let c ← cell
    put tyUINT32 (if c.isNull then none else some (crc32c (hashBytes colTy c))) st
  | 0x22, st => do
    let c ← cell
    put tyUINT64 (if c.isNull then none else some (rill64 e.seed (hashBytes colTy c))) st
  | 0x23, y :: x :: st =>
    put tyUINT64 (match x.2, y.2 with
      | some u, some v => some (rill64 e.seed (leBytes u 8 ++ leBytes v 8))
      | _, _ => none) st
  | 0x24, x :: st => do
    let bs ← readBounds a x.1.ty (e.consts.getD o.arg 0) (e.consts.getD (o.arg + 1) 0)
    put tyUINT32 (x.2.map fun v => (bs.filter fun b => decide (b ≤ orderOf x.1.ty v)).length) st
  | 0x25, st => do
    let c ← cell
    put tyUINT32 (match c with
      | .null => none
      | .val b => some b.length
      | .list l => some l.length) st
  | c, y :: x :: st => do
    let t := (widen x.1).ty
    if c = 0x18 ∨ c = 0x19 then put tyBOOL (logicOp (c == 0x18) x.2 y.2) st
    else if c = 0x1C then do
      let pick := if x.2.isSome then x else y
      let v ← match pick.2 with
        | none => pure none
        | some v => if tyFloat t then arith (fres .near false (fval pick.1.ty v)) else pure (some v)
      pure ((widen x.1, v) :: st)
    else match x.2, y.2 with
    | some u, some v =>
      if c ≤ 0x08 then do
        let r ← arith (arithOp c t u v x.1.ty y.1.ty (if isLast then e.last else .near) (isLast && e.flush))
        put t r st
      else put tyBOOL (some (b2n (compareOp c t u v x.1.ty y.1.ty))) st
    | _, _ => put (if c ≤ 0x08 then t else tyBOOL) none st
  | _, st => pure st

/-- Evaluate an expression on a row. -/
def evalExpr (a : Acc) (e : EEnv) : List EOp → List SVal → Act SVal
  | [], st => pure (st.headD (Ty.plain tyBOOL, none))
  | o :: os, st => do
    let st ← evalOp a e os.isEmpty o st
    evalExpr a e os st

/-- A result as a value to write: FLUSH acts on a floating output (08 R292). -/
def exprCell (flush : Bool) (v : SVal) : Fl Cell :=
  match v.2 with
  | none => pure .null
  | some x => do
    let w := if v.1.ty = tyBOOL then 1 else tyBytes v.1.ty v.1.width
    if tyFloat v.1.ty && flush && (tyFmt v.1.ty).subnormal x then
      raise (fUNDERFLOW ||| fINEXACT)
      pure (.val (leBytes ((tyFmt v.1.ty).flushEnc true x) w))
    else pure (.val (leBytes x w))

end Sys2Proof.Machine
end

