-- ==== Sys2Proof/Machine/Saddle.lean ====
section
/-! DEFINITION. The Saddle commands: select with its kernels, take, joins, grouping, normalisation, order and sampling,
with their chunks, stops and hash table states (12_saddle R425 to R455). -/

namespace Sys2Proof.Machine

def sdIn (w : List Word) : Nat := addr64 w 2
def sdOut (w : List Word) : Nat := addr64 w 4
def sdAux (w : List Word) : Nat := addr64 w 6
def sdAux2 (w : List Word) : Nat := addr64 w 8

/-- The slice that runs a command. -/
def sliceOf (w : List Word) : Inst := ⟨3, fld w 1 0 3, 0⟩

/-- The accesses of a command's slice. -/
def sdAcc (k : Nat) (w : List Word) : Act Acc := do
  let s ← theDev
  pure (s.chunkAcc k 0 (sliceOf w))

/-- The checks every Saddle command starts with (12 R433). -/
def sdCommon (k : Nat) (w : List Word) (addrs : List Nat) : Act Acc := do
  let _ ← namedInsts k w
  failIf (addrs.any fun a => a % 64 != 0) stFAULT dBADPARAM
  sdAcc k w

/-- Column numbers within a table (DEDUCED, log 61). -/
def colsIn (t : Tbl) (cs : List Nat) : Act Unit := failIf (cs.any fun c => decide (t.cols.length ≤ c)) stFAULT dBADPARAM

/-- Rows from where the command stands, up to a cut-off; answers whether all are done (12 R446). -/
def rowLoop (k rows : Nat) (limit : Option Nat) (body : Nat → Act Unit) : Act Bool := do
  let c ← theCmd k
  let from_ := c.at cPOS
  let left := rows - from_
  let n := match limit with
    | some l => min left l
    | none => left
  (List.range n).forM fun x => do
    body (from_ + x)
    updC k (·.put cPOS (from_ + x + 1))
  pure (decide (n = left))

/-- Work that is done as a whole when the last row has been passed. -/
def wholeLoop (k rows : Nat) (limit : Option Nat) (work : Act Unit) : Act Bool := do
  let done ← rowLoop k rows limit fun _ => pure ()
  if done then work
  pure done

/-! ### Kernels (12 R429 to R431) -/

/-- Read bytes as an execute access. -/
def readExec (a : Acc) (addr n : Nat) : Act (List Byte) := do
  let l ← (pieces addr n).mapM fun (x, m) => do
    match ← readPiece a kExec x m with
    | some b => pure b
    | none => stopWith stFAULT dPOISON
  pure l.flatten

/-- Lane core `l` of a die. -/
def laneKey (die l : Nat) : Nat := midOf die (2 + l / 8) (l % 8)

/-- Load a kernel image into the lane cores of a slice, as a running chunk does (06 R210). -/
def loadKernel (k die addr : Nat) : Act Unit := do
  let s ← theDev
  let a : Acc := { s.chunkAcc k 0 ⟨3, die, 0⟩ with mid := laneKey die 0 }
  let h ← readExec a addr 8
  let n := leNat (h.take 4)
  failIf (n == 0 || decide (4096 < n)) stFAULT dBADPARAM
  let b ← readExec a (addr + 8) ((12 * n + 7) / 8)
  let v := leNat b
  let words := (List.range n).map fun i => bitsOf v (12 * i) 12
  act fun s => s.forEach (List.range 16) fun s l =>
    { s with cores := Tab.upd Core.reset s.cores (laneKey die l) fun c =>
        { c with pmem := Tab.setMany 0 c.pmem 0 words, stale := [] } }

def up8 (x : Nat) : Nat := (x + 7) / 8 * 8

/-- Bits packed into bytes, the first lowest. -/
def packBits (l : List Bool) : List Byte :=
  (cutBy 8 l).map fun b => BitVec.ofNat 8 ((b.zipIdx.map fun x => if x.1 then 2 ^ x.2 else 0).sum)

/-- The areas of an input column over the rows of a block: values, validity, offsets from 0. -/
def areasOf (t : Ty) (rows : List (Bool × Cell)) : List Byte × List Byte × List Byte :=
  let valid := packBits (rows.map (·.1))
  if t.ty = tyBINARY ∨ t.ty = tyLIST then
    let lens := rows.map fun x => match x.2 with
      | .list l => l.length
      | c => c.bytes.length
    let offs := lens.foldl (fun (acc : List Nat) n => acc ++ [acc.getLastD 0 + n]) [0]
    let items := rows.flatMap fun x => match x.2 with
      | .list l => l.map (·.2)
      | _ => []
    let vals := if t.ty = tyBINARY then rows.flatMap fun x => x.2.bytes
      else if t.child = tyBOOL then packBits (items.map fun b => leNat b != 0)
      else items.flatten
    (vals, valid, offs.flatMap fun o => leBytes o 4)
  else if t.ty = tyBOOL then (packBits (rows.map fun x => x.2.nat != 0), valid, [])
  else (rows.flatMap fun x => x.2.bytes, valid, [])

/-- Place areas one behind the other from an address, each 8 B aligned: their addresses (0 for an empty offsets area),
and the end (DESIGN CHOICE, log 60). -/
def placeAreas : Nat → List (List Byte × List Byte × List Byte) → List (Nat × Nat × Nat) × Nat
  | a, [] => ([], a)
  | a, (v, m, o) :: t =>
    let ma := up8 (a + v.length)
    let oa := up8 (ma + m.length)
    let last := if o.isEmpty then ma + m.length else oa + o.length
    let r := placeAreas (up8 last) t
    ((a, ma, if o.isEmpty then 0 else oa) :: r.1, if t.isEmpty then last else r.2)

/-- Bytes of a kernel output's values for n rows. -/
def outBytes (t : Ty) (n : Nat) : Nat := if t.ty = tyBOOL then (n + 7) / 8 else n * tyBytes t.ty t.width

/-- The output areas in Y for n rows. -/
def placeOuts (n : Nat) : Nat → List Ty → List (Nat × Nat) × Nat
  | a, [] => ([], a)
  | a, t :: ts =>
    let ma := up8 (a + outBytes t n)
    let last := up8 (ma + (n + 7) / 8)
    let r := placeOuts n last ts
    ((a, ma) :: r.1, r.2)

/-- Everything one invocation starts with: rows, header and areas to write, SLIM, and where the outputs are. -/
structure KBlock where
  rows : Nat
  data : List (Nat × List Byte)
  slim : Nat
  outs : List (Nat × Nat)

/-- The block of the first `n` of some rows, when it fits (12 R430, R472). -/
def kernelBlock (first n : Nat) (tys : List Ty) (cells : List (List (Bool × Cell))) (outs : List Ty) : Option KBlock :=
  let areas := (tys.zip cells).map fun x => areasOf x.1 (x.2.take n)
  let (ia, iEnd) := placeAreas 0x40 areas
  let (oa, oEnd) := placeOuts n 0x8000 outs
  if 0x7EFC < iEnd ∨ 0x10000 < oEnd then none
  else
    let head := leBytes n 4 ++ leBytes first 4
    let ins := ia.zipIdx.map fun (x, i) => (8 + 8 * i, leBytes x.1 2 ++ leBytes x.2.1 2 ++ leBytes x.2.2 2)
    let os := oa.zipIdx.map fun (x, j) => (0x28 + 4 * j, leBytes x.1 2 ++ leBytes x.2 2)
    let body := (ia.zip areas).flatMap fun (x, y) => [(x.1, y.1), (x.2.1, y.2.1), (x.2.2, y.2.2)].filter fun z => !z.2.isEmpty
    let preset := oa.map fun x => (x.2, List.replicate ((n + 7) / 8) 0xFF#8)
    some ⟨n, (0, List.replicate 0x40 0) :: (0, head) :: ins ++ os ++ body ++ preset, (iEnd + 3) / 4 * 4, oa⟩

/-- The largest block of at most `n` rows that fits. -/
def fitBlock (first : Nat) (tys : List Ty) (cells : List (List (Bool × Cell))) (outs : List Ty) : Nat → Option KBlock
  | 0 => none
  | n + 1 => match kernelBlock first (n + 1) tys cells outs with
    | some b => some b
    | none => fitBlock first tys cells outs n

/-- The value of kernel output `j` in row `r` of a block that has run. -/
def kernelCell (c : Core) (at_ : Nat × Nat) (t : Ty) (r : Nat) : Cell :=
  if !bitAt (Tab.get 0 c.dmem (at_.2 + r / 8)).toNat (r % 8) then .null
  else if t.ty = tyBOOL then .val [if bitAt (Tab.get 0 c.dmem (at_.1 + r / 8)).toNat (r % 8) then 1 else 0]
  else
    let w := tyBytes t.ty t.width
    .val (Tab.getMany 0 c.dmem (at_.1 + w * r) w)

/-! ### SD_SELECT (12 R425 to R432, R437) -/

structure Sel where
  w : List Word
  a : Acc
  i : Tbl
  o : Tbl
  p : Prog
  kout : List Ty

def Sel.kernel (q : Sel) : Nat := sdAux2 q.w
def Sel.klimit (q : Sel) : Nat := if fld q.w 10 0 14 = 0 then 9600 else fld q.w 10 0 14
def Sel.block (q : Sel) : Nat := if fld q.w 10 16 9 = 0 then 256 else fld q.w 10 16 9

/-- The types of the kernel outputs: a FIXED_BINARY has the width of the output column it goes to. -/
def koutTypes (p : Prog) (o : Tbl) : List Ty :=
  p.kout.zipIdx.map fun (t, j) =>
    match p.outs.zipIdx.find? fun x => x.1 == (2, j) with
    | some x => ⟨t, 0, (o.ty x.2).width⟩
    | none => ⟨t, 0, 1⟩

/-- Bytes of a select program (12 Table 12.3). -/
def Prog.bytes (p : Prog) : Nat :=
  up8 (16 + 4 * p.outs.length + (p.exprs.map fun e => 4 + 4 * e.length).sum) + 8 * p.consts.length

/-- What a command writes rows into, and what else it works on (12 R451). -/
def saddleAreas (k : Nat) (a : Acc) (w : List Word) : Act (List (List Area) × List Area) := do
  let tbl := fun addr out => do
    let t ← readTbl a addr out
    t.areas a out
  let s ← theDev
  let hash := (HT.ofWords (k / 32) (fld w 10 0 4) (Tab.get [] s.pairs (htPairAt (k / 32) (fld w 10 0 4)))).area
  let i ← readTbl a (sdIn w) false
  let ins ← i.areas a false
  let outs ← tbl (sdOut w) true
  match fld w 0 0 8 with
  | 0x80 => do
    let p ← readProg a (sdAux w)
    pure ([outs], Area.flat (sdAux w) p.bytes :: ins)
  | 0x81 => do
    let x ← tbl (sdAux w) false
    pure ([outs], ins ++ x)
  | 0x83 => pure ([outs], hash :: ins)
  | 0x84 => do
    let g ← if sdAux w = 0 then pure [] else tbl (sdAux w) true
    pure ([outs, g], hash :: ins)
  | 0x85 => pure ([outs], Area.flat (sdAux w) (32 * wordAt w 11) :: ins)
  | 0x87 => do
    let kb := ((keyCols (wordAt w 10)).map fun c => max 1 (tyBytes (i.ty c).ty 0) + 1).sum
    pure ([outs], Area.flat (sdAux w) (2 * i.rows * (kb + 4)) :: ins)
  | _ => pure ([outs], ins)

/-- Does an output of a command share a byte with another output or with anything the command reads? -/
def outsClash : List (List Area) → List Area → Bool
  | [], _ => false
  | o :: os, others => areasMeet o (os.flatten ++ others) || outsClash os others

/-- Read an output table of a command; its writes have no defined contents where the command's areas overlap (12 R451) (DESIGN CHOICE,
log 50). -/
def readOut (k : Nat) (a : Acc) (w : List Word) (addr : Nat) : Act Tbl := do
  let o ← readTbl a addr true
  let s ← theDev
  pure { o with wild := match (runAct (saddleAreas k a w) s).1 with
    | .ok (os, others) => outsClash os others
    | .error _ => false }

/-- Read everything a select names. -/
def Sel.parse (k : Nat) (w : List Word) : Act Sel := do
  let a ← sdAcc k w
  let i ← readTbl a (sdIn w) false
  let o ← readOut k a w (sdOut w)
  let p ← readProg a (sdAux w)
  pure ⟨w, a, i, o, p, koutTypes p o⟩

/-- Check the boundaries of each BUCKET of an expression (12 R426). -/
def checkBounds (q : Sel) : List EOp → List Ty → Act Unit
  | [], _ => pure ()
  | op :: ops, st => do
    if op.opc = 0x24 then
      let addr := q.p.consts.getD op.arg 0
      let n := q.p.consts.getD (op.arg + 1) 0
      failIf (addr % 64 != 0 || n == 0 || decide (65535 < n)) stFAULT dBADEXPR
      let bs ← readBounds q.a (st.headD (Ty.plain 0)).ty addr n
      failIf (!(bs.zip bs.tail).all fun x => decide (x.1 < x.2)) stFAULT dBADEXPR
    checkBounds q ops ((opTypes q.i q.p.consts.length op st).getD [])

def selectPrep (k : Nat) (c : Cmd) : Act (Nat × Nat) := do
  let w := c.words
  let _ ← sdCommon k w [sdIn w, sdOut w, sdAux w, sdAux2 w]
  failIf (decide (9600 < fld w 10 0 14) || decide (256 < fld w 10 16 9)) stFAULT dBADPARAM
  let q ← Sel.parse k w
  let nc := q.p.consts.length
  let types := q.p.exprs.map fun e => exprType q.i nc e []
  failIf (types.any (·.isNone)) stFAULT dBADEXPR
  failIf (q.p.outs.any fun x => x.1 == 3 || (x.1 == 0 && decide (q.i.cols.length ≤ x.2)) ||
    (x.1 == 1 && decide (q.p.exprs.length ≤ x.2)) || (x.1 == 2 && decide (q.p.kout.length ≤ x.2))) stFAULT dBADEXPR
  failIf (q.p.kin.any (fun j => decide (q.i.cols.length ≤ j)) || q.p.kout.any (fun t => t == 0 || decide (13 < t)))
    stFAULT dBADEXPR
  failIf (q.kernel == 0 && (q.p.outs.any (fun x => x.1 == 2) || q.p.pred == some true)) stFAULT dBADEXPR
  let predOk := match q.p.pred with
    | none => true
    | some true => q.p.kout.head? == some tyBOOL
    | some false => (types.head?.join).any fun t => t.ty == tyBOOL
  failIf (!predOk) stFAULT dBADEXPR
  failIf (q.o.cols.length != q.p.outs.length) stFAULT dOUTTYPE
  failIf ((q.p.outs.zip q.o.cols).any fun x =>
    x.1.1 == 1 && !((types.getD x.1.2 none).getD (Ty.plain 0)).same x.2.t) stFAULT dBADEXPR
  outTypes q.o (q.p.outs.zipIdx.map fun (x, j) =>
    if x.1 = 0 then q.i.ty x.2 else if x.1 = 1 then q.o.ty j else q.kout.getD x.2 (Ty.plain 0))
  q.p.exprs.forM fun e => checkBounds q e []
  if q.kernel ≠ 0 then
    let h ← readExec ⟨k / 32, 0, laneKey (fld w 1 0 3) 0, false⟩ q.kernel 8
    failIf (leNat (h.take 4) == 0 || decide (4096 < leNat (h.take 4))) stFAULT dBADPARAM
  updC k fun c => { c with carry := [], slots := [] }
  pure (1, 1)

/-- One row: the predicate, and the output columns of a row that is kept; `kc` gives a kernel output. -/
def Sel.row (q : Sel) (k : Nat) (kc : Nat → Cell) (r : Nat) : Act Unit := do
  let fl := flushOf q.w
  let env := fun rd => (⟨q.i, r, q.p.consts, wordAt q.w 11, fl, rd⟩ : EEnv)
  let keep ← match q.p.pred with
    | none => pure true
    | some true => pure ((kc 0).nat == 1)
    | some false => do
      let v ← evalExpr q.a (env .near) (q.p.exprs.getD 0 []) []
      pure (v.2 == some 1)
  if keep then
    let cells ← q.p.outs.mapM fun x =>
      if x.1 = 0 then readCell q.a (q.i.cols.getD x.2 ⟨⟨0, 0, 0⟩, 0, 0, 0, 0, 0⟩) r
      else if x.1 = 1 then do
        let v ← evalExpr q.a (env (roundOf q.w 0)) (q.p.exprs.getD x.2 []) []
        arith (exprCell fl v)
      else pure (kc x.2)
    putRow k 0 q.a q.o cells

/-- The next row block, with its invocation ready: what the lane core starts from (12 R430). -/
def Sel.nextBlock (q : Sel) (pos : Nat) : Act KBlock := do
  let n := min q.block (q.i.rows - pos)
  let cols := q.p.kin.map fun j => q.i.cols.getD j ⟨⟨0, 0, 0⟩, 0, 0, 0, 0, 0⟩
  let cells ← cols.mapM fun c => (List.range n).mapM fun x => do
    let v ← readBit q.a c.valid (pos + x)
    let b ← readCell q.a { c with valid := 0 } (pos + x)
    pure (v, b)
  match fitBlock pos (cols.map (·.t)) cells q.kout n with
  | some b => pure b
  | none => stopWith stFAULT dKERNELROW

/-- Run one row block on a free lane core, and its rows through the expressions. -/
def Sel.blockRun (q : Sel) (k pos : Nat) : Act Nat := do
  let b ← q.nextBlock pos
  let s ← theDev
  let (l, s) := s.drawBelow 16
  let key := laneKey (fld q.w 1 0 3) l
  let fuel := q.klimit + 8
  let c := (Tab.get Core.reset s.cores key).invoke k q.klimit b.slim b.data
  let c := Core.runKernel key s.free fuel c
  set { s with free := s.free + fuel + 1, cores := Tab.set Core.reset s.cores key { c with invoc := none } }
  failIf (c.done == 2) stFAULT dKERNELTRAP
  failIf (c.done != 1) stFAULT dKERNELLIMIT
  (List.range b.rows).forM fun x =>
    q.row k (fun j => kernelCell c (b.outs.getD j (0, 0)) (q.kout.getD j (Ty.plain 0)) x) (pos + x)
  pure b.rows

/-- Blocks from where the command stands, until the rows or the cut-off's blocks are used up. -/
def Sel.blocks (q : Sel) (k : Nat) : Nat → Act Unit
  | 0 => pure ()
  | n + 1 => do
    let c ← theCmd k
    if c.at cPOS < q.i.rows then
      let m ← q.blockRun k (c.at cPOS)
      updC k fun c => c.put cPOS (c.at cPOS + m)
      q.blocks k n

def selectChunk (k : Nat) (c : Cmd) (i : Inst) (_ch : Nat) (limit : Option Nat) : Act Bool := do
  let q ← Sel.parse k c.words
  if q.kernel = 0 then rowLoop k q.i.rows limit fun r => q.row k (fun _ => .null) r
  else
    loadKernel k i.die q.kernel
    q.blocks k (limit.getD q.i.rows)
    let c ← theCmd k
    pure (decide (q.i.rows ≤ c.at cPOS))

def selectOp : EngineOp := ⟨selectPrep, selectChunk⟩

/-! ### SD_TAKE (12 R438) -/

def takePrep (k : Nat) (c : Cmd) : Act (Nat × Nat) := do
  let w := c.words
  let a ← sdCommon k w [sdIn w, sdOut w, sdAux w]
  let i ← readTbl a (sdIn w) false
  let o ← readTbl a (sdOut w) true
  let x ← readTbl a (sdAux w) false
  failIf ((x.ty 0).ty != tyUINT32) stFAULT dBADTABLE
  outTypes o (i.cols.map (·.t))
  updC k fun c => { c with carry := [], slots := [] }
  pure (1, 1)

/-- Copy a value; poison goes on to the destination's 64 B block (15 R544). -/
def takeCell (k : Nat) (a : Acc) (i o : Col) (j r out : Nat) : Act Cell :=
  tryCatch (readCell a i r) fun e => do
    if e = .ended stFAULT dPOISON then
      let p ← getS k wPOS j
      let dst := if o.t.ty = tyBINARY then o.values + p
        else if o.t.ty = tyLIST then o.values + p * tyBytes o.t.child o.t.width
        else if o.t.ty = tyBOOL then o.values + out / 8 else o.values + out * tyBytes o.t.ty o.t.width
      poisonPiece a (dst / 64 * 64)
    throw e

def takeChunk (k : Nat) (c : Cmd) (_i : Inst) (_ch : Nat) (limit : Option Nat) : Act Bool := do
  let w := c.words
  let a ← sdAcc k w
  let i ← readTbl a (sdIn w) false
  let o ← readOut k a w (sdOut w)
  let x ← readTbl a (sdAux w) false
  rowLoop k x.rows limit fun r => do
    let v ← readCells a x [0] r
    let idx := (v.headD .null).nat
    if (v.headD .null).isNull ∨ i.rows ≤ idx then putRow k 0 a o (o.cols.map fun _ => Cell.null)
    else
      let cells ← (i.cols.zip o.cols).zipIdx.mapM fun (x, j) => takeCell k a x.1 x.2 j idx r
      putRow k 0 a o cells

def takeOp : EngineOp := ⟨takePrep, takeChunk⟩

/-! ### Hash joins (12 R435, R436, R439) -/

/-- Lists of a command beyond its writers: the header pair it began with, and its own: entries inserted, buckets cleared,
groups, the null group plus 1, the key signature. -/
abbrev lPAIR : Nat := 14
abbrev lOWN : Nat := 15
/-- Where groups begin. -/
abbrev lGROUPS : Nat := 16

/-- Key columns exist and are of a key type. -/
def keyTypes (t : Tbl) (cs : List Nat) : Act (List Ty) := do
  colsIn t cs
  failIf (cs.any fun c => (t.ty c).ty == tyLIST) stFAULT dBADKEY
  pure (cs.map t.ty)

/-- A command that fills a table starts: BUILDING (12 Table 12.9). -/
def startBuild (k : Nat) (h : HT) (ts : List Ty) : Act Unit := do
  let s ← theDev
  let st := s.get F.HT_STATE [h.p, h.h]
  failIf (st == htBUILDING || (st == htBUILT && s.get F.HT_PROBES [h.p, h.h] != 0)) stSTATE dHTBUSY
  updC k fun c => { c with carry := [], slots := List.replicate lPAIR [] ++ [h.pair, [0, 0, 0, 0, keySig ts]] }
  act fun s => s.put F.HT_STATE [h.p, h.h] htBUILDING

/-- The header at the start of a chunk: another pair than the command began with ends it (12 R436). -/
def chunkHT (k p h : Nat) : Act HT := do
  let t ← sampleHT p h
  let c ← theCmd k
  failIf (c.slots.getD lPAIR [] != t.pair) stSTATE dHTUNSET
  pure t

def buildPrep (k : Nat) (c : Cmd) : Act (Nat × Nat) := do
  let w := c.words
  let a ← sdCommon k w [sdIn w]
  let i ← readTbl a (sdIn w) false
  let ts ← keyTypes i (keyCols (wordAt w 11))
  let h ← sampleHT (k / 32) (fld w 10 0 4)
  startBuild k h ts
  pure (1, 1)

/-- The number of entries so far. -/
def entryCount (k : Nat) : Act Nat := getS k lOWN 0

def addEntry (k : Nat) (a : Acc) (h : HT) (row : Nat) (key : List Byte) : Act Unit := do
  let n ← entryCount k
  h.insert a n row key
  putS k lOWN 0 (n + 1)

/-- The bucket array is cleared before the first row. -/
def firstClear (k : Nat) (a : Acc) (h : HT) : Act Unit := do
  let done ← getS k lOWN 1
  if done = 0 then
    h.clear a
    putS k lOWN 1 1

def buildChunk (k : Nat) (c : Cmd) (_i : Inst) (_ch : Nat) (limit : Option Nat) : Act Bool := do
  let w := c.words
  let a ← sdAcc k w
  let i ← readTbl a (sdIn w) false
  let cs := keyCols (wordAt w 11)
  let h ← chunkHT k (k / 32) (fld w 10 0 4)
  firstClear k a h
  rowLoop k i.rows limit fun r => do
    let cells ← readCells a i cs r
    match ← normKey h.words (cs.map i.ty) cells with
    | some key => addEntry k a h r key
    | none => pure ()

def buildOp : EngineOp := ⟨buildPrep, buildChunk⟩

/-- The projected columns of a probe. -/
def projCols (w : List Word) : List Nat := (List.range 64).filter fun i => bitAt (addr64 w 12) i

def probePrep (k : Nat) (c : Cmd) : Act (Nat × Nat) := do
  let w := c.words
  let a ← sdCommon k w [sdIn w, sdOut w]
  failIf (fld w 10 4 2 == 3) stFAULT dBADPARAM
  let i ← readTbl a (sdIn w) false
  let o ← readTbl a (sdOut w) true
  let ts ← keyTypes i (keyCols (wordAt w 11))
  colsIn i (projCols w)
  let own := if fld w 10 4 2 = 0 then [Ty.plain tyUINT32, Ty.plain tyUINT32] else [Ty.plain tyUINT32]
  outTypes o (own ++ (projCols w).map i.ty)
  let h ← sampleHT (k / 32) (fld w 10 0 4)
  let s ← theDev
  failIf (s.get F.HT_STATE [h.p, h.h] != htBUILT) stSTATE dNOTBUILT
  failIf (s.get F.HT_KEY_SIG [h.p, h.h] != keySig ts) stSTATE dKEYMISMATCH
  updC k fun c => { c with carry := [], slots := List.replicate lPAIR [] ++ [h.pair] }
  act fun s => s.put F.HT_PROBES [h.p, h.h] (s.get F.HT_PROBES [h.p, h.h] + 1)
  pure (1, 1)

def probeChunk (k : Nat) (c : Cmd) (_i : Inst) (_ch : Nat) (limit : Option Nat) : Act Bool := do
  let w := c.words
  let a ← sdAcc k w
  let i ← readTbl a (sdIn w) false
  let o ← readOut k a w (sdOut w)
  let cs := keyCols (wordAt w 11)
  let h ← chunkHT k (k / 32) (fld w 10 0 4)
  let kind := fld w 10 4 2
  rowLoop k i.rows limit fun r => do
    let cells ← readCells a i cs r
    let key ← normKey h.words (cs.map i.ty) cells
    let rows ← match key with
      | some key => h.lookup a key
      | none => pure []
    let row := Cell.ofNat tyUINT32 r
    if kind = 0 then
      rows.forM fun b => do
        let proj ← readCells a i (projCols w) r
        putRow k 0 a o (row :: Cell.ofNat tyUINT32 b :: proj)
    else if (kind == 1) == !rows.isEmpty then
      let proj ← readCells a i (projCols w) r
      putRow k 0 a o (row :: proj)

def probeOp : EngineOp := ⟨probePrep, probeChunk⟩

/-! ### SD_GROUP (12 R440) -/

/-- The aggregates that AGG_A and AGG_B name: column and operation. -/
def aggsOf (w : List Word) : List (Nat × Nat) :=
  ([12, 13].flatMap fun i => [(fld w i 0 6, fld w i 8 3), (fld w i 16 6, fld w i 24 3)]).filter fun x => x.2 != 0 && x.2 != 7

/-- The type of an aggregate's result. -/
def aggType (t : Ty) (op : Nat) : Ty :=
  if op = 1 ∨ op = 2 then Ty.plain tyUINT64
  else if op = 3 then Ty.plain (if tySigned t.ty then tyINT64 else if tyUnsigned t.ty then tyUINT64 else tyFP32)
  else t

def groupPrep (k : Nat) (c : Cmd) : Act (Nat × Nat) := do
  let w := c.words
  let a ← sdCommon k w [sdIn w, sdOut w, sdAux w]
  let i ← readTbl a (sdIn w) false
  let o ← readTbl a (sdOut w) true
  let cs := keyCols (wordAt w 11)
  let ts ← keyTypes i cs
  let aggs := aggsOf w
  colsIn i (aggs.map (·.1))
  failIf (aggs.any fun x => decide (3 ≤ x.2) && decide (x.2 ≤ 5) && !tyNumeric (i.ty x.1).ty) stFAULT dBADKEY
  outTypes o (ts ++ [Ty.plain tyUINT32] ++ aggs.map fun x => aggType (i.ty x.1) x.2)
  if sdAux w ≠ 0 then
    let g ← readTbl a (sdAux w) true
    outTypes g [Ty.plain tyUINT32]
  let h ← sampleHT (k / 32) (fld w 10 0 4)
  startBuild k h ts
  pure (1, 1)

/-- An aggregate over the values of a group's rows, in order. -/
def aggregate (flush : Bool) (t : Ty) (op : Nat) (rows : Nat) (cells : List Cell) : Fl Cell := do
  let vals := (cells.filter fun c => !c.isNull).map Cell.nat
  if op = 1 then pure (Cell.ofNat tyUINT64 rows)
  else if op = 2 then pure (Cell.ofNat tyUINT64 vals.length)
  else if op = 6 then pure (cells.headD .null)
  else match vals with
  | [] => pure .null
  | v :: vs =>
    if op = 3 then
      if tyFloat t.ty then
        let rd := fun x => (tyFmt t.ty).operand flush x
        let s ← vs.foldlM (fun s x => add32 s (rd x)) (rd v)
        let b ← Fmt.fp32.round .near flush s
        pure (Cell.ofNat tyFP32 b)
      else
        let to_ := (aggType t 3).ty
        let s ← vs.foldlM (fun s x => do
          let r ← ofIntSat to_ (toInt to_ s + toInt t.ty x)
          pure r) (wrapInt (toInt t.ty v) 64)
        pure (Cell.ofNat to_ s)
    else
      let pick := fun a b =>
        if op = 4 then (if orderOf t.ty b < orderOf t.ty a then b else a)
        else (if orderOf t.ty a < orderOf t.ty b then b else a)
      if tyFloat t.ty then
        -- an arithmetic result: operands under FLUSH, a NaN written as the canonical one (08 R281, R292)
        let f := tyFmt t.ty
        let m := (vs.map (f.flushEnc flush)).foldl pick (f.flushEnc flush v)
        pure (Cell.ofNat t.ty (if (f.decode m).isNan then f.nanEnc else m))
      else pure (Cell.ofNat t.ty (vs.foldl pick v))

/-- The row of a group: its keys from its first row, FIRST_ROW, and the aggregates. -/
def groupRow (a : Acc) (i : Tbl) (w : List Word) (rows : List Nat) : Act (List Cell) := do
  let first := rows.headD 0
  let keys ← readCells a i (keyCols (wordAt w 11)) first
  let aggs ← (aggsOf w).mapM fun x => do
    let col := i.cols.getD x.1 ⟨⟨0, 0, 0⟩, 0, 0, 0, 0, 0⟩
    let cells ← if x.2 = 1 then pure []
      else if x.2 = 6 then do
        let c ← readCell a col first
        pure [c]
      else rows.mapM fun r => readCell a col r
    arith (aggregate (flushOf w) col.t x.2 rows.length cells)
  pure (keys ++ [Cell.ofNat tyUINT32 first] ++ aggs)

def groupChunk (k : Nat) (c : Cmd) (_i : Inst) (_ch : Nat) (limit : Option Nat) : Act Bool := do
  let w := c.words
  let a ← sdAcc k w
  let i ← readTbl a (sdIn w) false
  let o ← readOut k a w (sdOut w)
  let g ← if sdAux w = 0 then pure none else some <$> readOut k a w (sdAux w)
  let cs := keyCols (wordAt w 11)
  let h ← chunkHT k (k / 32) (fld w 10 0 4)
  firstClear k a h
  let done ← rowLoop k i.rows limit fun r => do
    let cells ← readCells a i cs r
    let key ← normKey h.words (cs.map i.ty) cells
    let groups ← getS k lOWN 2
    let nullG ← getS k lOWN 3
    let found ← match key with
      | some key => do
        let l ← h.lookup a key
        pure l.head?
      | none => pure (if nullG = 0 then none else some (nullG - 1))
    let gid ← match found with
      | some x => pure x
      | none => do
        failIf (decide (o.cap ≤ groups)) stFAULT dOUTFULL
        match key with
        | some key => addEntry k a h groups key
        | none => putS k lOWN 3 (groups + 1)
        putS k lOWN 2 (groups + 1)
        pure groups
    updC k fun c =>
      let ls := c.slots ++ List.replicate (lGROUPS + gid + 1 - c.slots.length) []
      { c with slots := ls.set (lGROUPS + gid) (ls.getD (lGROUPS + gid) [] ++ [r]) }
    match g with
    | some g => putRow k 1 a g [Cell.ofNat tyUINT32 gid]
    | none => pure ()
  if done then
    let c ← theCmd k
    (c.slots.drop lGROUPS).forM fun rows => do
      let cells ← groupRow a i w rows
      putRow k 0 a o cells
  pure done

def groupOp : EngineOp := ⟨groupPrep, groupChunk⟩

/-! ### SD_NORM (12 R441) -/

def normMode (w : List Word) : Bool := bitAt (wordAt w 10) 15
def normGroups (w : List Word) : Nat := wordAt w 11
def normVal (w : List Word) : Nat := fld w 10 0 6
def normGid (w : List Word) : Option Nat := if bitAt (wordAt w 10) 14 then some (fld w 10 8 6) else none

def normPrep (k : Nat) (c : Cmd) : Act (Nat × Nat) := do
  let w := c.words
  let a ← sdCommon k w ([sdIn w, sdAux w] ++ if normMode w then [sdOut w] else [])
  failIf (normGroups w == 0 || decide (2 ^ 24 < normGroups w)) stFAULT dBADPARAM
  let i ← readTbl a (sdIn w) false
  colsIn i (normVal w :: (normGid w).toList)
  failIf (!tyFloat (i.ty (normVal w)).ty) stFAULT dBADKEY
  failIf ((normGid w).any fun g => !tyInt (i.ty g).ty) stFAULT dBADKEY
  if normMode w then
    let o ← readTbl a (sdOut w) true
    outTypes o (i.cols.map (·.t) ++ [Ty.plain tyFP32])
  updC k fun c => { c with carry := [], slots := [] }
  pure (1, 1)

/-- The group of a row; none for a null group or one beyond GROUPS. -/
def normGroup (a : Acc) (i : Tbl) (w : List Word) (r : Nat) : Act (Option Nat) :=
  match normGid w with
  | none => pure (some 0)
  | some g => do
    let c ← readCells a i [g] r
    let v := toInt (i.ty g).ty (c.headD .null).nat
    pure (if (c.headD .null).isNull ∨ v < 0 ∨ (normGroups w : Int) ≤ v then none else some v.toNat)

/-- One value into a record's MEAN, MEAN_C, M2, M2_C: their encodings; FLUSH acts where they are written (08 R292). -/
def normAccum (fl : Bool) (n : Nat) (x mean meanC m2 m2C : Num) : Fl (List Nat) := do
  let d ← sub32 x mean
  let fn ← to32 (Num.ofInt n)
  let q ← div32 d fn
  let y ← sub32 q meanC
  let t ← add32 mean y
  let u ← sub32 t mean
  let mc ← sub32 u y
  let e ← sub32 x t
  let de ← mul32 d e
  let y2 ← sub32 de m2C
  let t2 ← add32 m2 y2
  let u2 ← sub32 t2 m2
  let m2c ← sub32 u2 y2
  [t, mc, t2, m2c].mapM (Fmt.fp32.round .near fl)

/-- The normalised value, rounded at the write; none where the record is empty. -/
def normApply (w : List Word) (n : Nat) (x mean meanC m2 m2C : Num) : Fl (Option Nat) := do
  let m ← sub32 mean meanC
  let q ← sub32 m2 m2C
  let fn ← to32 (Num.ofInt (if bitAt (wordAt w 10) 16 then n - 1 else n : Nat))
  let var ← if n < 2 then pure Num.zero else div32 q fn
  if n = 0 then pure none
  else
    let v ← add32 var (Fmt.fp32.operand (flushOf w) (wordAt w 12))
    let rs ← rsqrt32 v
    let dx ← sub32 x m
    let r ← mulX dx rs
    let b ← Fmt.fp32.round (roundOf w 0) (flushOf w) r
    pure (some b)

/-- A statistics record: COUNT, and its four FP32 numbers, operands under FLUSH (08 R292). -/
def readStat (fl : Bool) (a : Acc) (addr : Nat) : Act (Nat × List Num) := do
  let b ← readMem a addr 32
  pure (leNat (b.take 8), (List.range 4).map fun i => Fmt.fp32.operand fl (leNat ((b.drop (8 + 4 * i)).take 4)))

def normChunk (k : Nat) (c : Cmd) (_i : Inst) (_ch : Nat) (limit : Option Nat) : Act Bool := do
  let w := c.words
  let a ← sdAcc k w
  let i ← readTbl a (sdIn w) false
  let col := i.cols.getD (normVal w) ⟨⟨0, 0, 0⟩, 0, 0, 0, 0, 0⟩
  let val := fun r => do
    let v ← readCell a col r
    pure (if v.isNull then none else some ((tyFmt col.t.ty).operand (flushOf w) v.nat))
  if normMode w then
    let o ← readOut k a w (sdOut w)
    rowLoop k i.rows limit fun r => do
      let cells ← readCells a i (List.range i.cols.length) r
      let x ← val r
      let g ← normGroup a i w r
      let out ← match x, g with
        | some x, some g => do
          let (n, l) ← readStat (flushOf w) a (sdAux w + 32 * g)
          arith (normApply w n x (l.getD 0 .zero) (l.getD 1 .zero) (l.getD 2 .zero) (l.getD 3 .zero))
        | _, _ => pure none
      putRow k 0 a o (cells ++ [match out with | some b => Cell.ofNat tyFP32 b | none => .null])
  else
    let reset ← getS k lOWN 0
    if bitAt (wordAt w 10) 17 ∧ reset = 0 then
      (List.range (normGroups w)).forM fun g => writeMem a (sdAux w + 32 * g) (List.replicate 32 0)
      putS k lOWN 0 1
    rowLoop k i.rows limit fun r => do
      let x ← val r
      let g ← normGroup a i w r
      match x, g with
      | some x, some g => do
        let (n, l) ← readStat (flushOf w) a (sdAux w + 32 * g)
        let l' ← arith (normAccum (flushOf w) (n + 1) x (l.getD 0 .zero) (l.getD 1 .zero) (l.getD 2 .zero) (l.getD 3 .zero))
        writeMem a (sdAux w + 32 * g) (leBytes (n + 1) 8 ++ l'.flatMap fun v => leBytes v 4)
      | _, _ => pure ()

def normOp : EngineOp := ⟨normPrep, normChunk⟩

/-! ### Order (12 R442 to R444) -/

/-- Insert behind every element that does not come after. -/
def insertBy {α : Type} (before : α → α → Bool) (x : α) : List α → List α
  | [] => [x]
  | y :: t => if before x y then x :: y :: t else y :: insertBy before x t

/-- A stable sort: `before x y` says that x comes strictly first. -/
def stableSort {α : Type} (before : α → α → Bool) (l : List α) : List α := l.foldl (fun acc x => insertBy before x acc) []

/-- An index table's row. -/
def putIndex (k : Nat) (a : Acc) (o : Tbl) (r : Nat) : Act Unit := putRow k 0 a o [Cell.ofNat tyUINT32 r]

/-- A fixed-width key of an ordering. -/
def orderKeyOk (t : Ty) : Bool := t.ty == tyBOOL || tyNumeric t.ty

def topkPrep (k : Nat) (c : Cmd) : Act (Nat × Nat) := do
  let w := c.words
  let a ← sdCommon k w [sdIn w, sdOut w]
  failIf (wordAt w 11 == 0 || decide (65536 < wordAt w 11)) stFAULT dBADPARAM
  let i ← readTbl a (sdIn w) false
  let o ← readTbl a (sdOut w) true
  colsIn i (fld w 10 0 6 :: if bitAt (wordAt w 10) 14 then [fld w 10 8 6] else [])
  failIf (!orderKeyOk (i.ty (fld w 10 0 6))) stFAULT dBADKEY
  failIf (bitAt (wordAt w 10) 14 && (i.ty (fld w 10 8 6)).ty == tyLIST) stFAULT dBADKEY
  outTypes o [Ty.plain tyUINT32]
  updC k fun c => { c with carry := [], slots := [] }
  pure (1, 1)

/-- Rows in runs of equal segment. -/
def segments : List (Option (List Byte) × Nat) → List (Option (List Byte) × List Nat)
  | [] => []
  | (s, r) :: t => match segments t with
    | (s', rs) :: u => if s = s' then (s, r :: rs) :: u else (s, [r]) :: (s', rs) :: u
    | [] => [(s, [r])]

def topkWork (k : Nat) (a : Acc) (i o : Tbl) (w : List Word) : Act Unit := do
  let kt := (i.ty (fld w 10 0 6)).ty
  let segOn := bitAt (wordAt w 10) 14
  let rows ← (List.range i.rows).mapM fun r => do
    let kc ← readCells a i [fld w 10 0 6] r
    let sc ← if segOn then readCells a i [fld w 10 8 6] r else pure []
    let seg := match sc with
      | [c] => if c.isNull then none else some (keyPart (i.ty (fld w 10 8 6)) c)
      | _ => some []
    let key := kc.headD .null
    pure (seg, r, if key.isNull then none else some (orderOf kt key.nat))
  let before := fun (x y : Nat × Nat) => if bitAt (wordAt w 10) 6 then decide (y.2 < x.2) else decide (x.2 < y.2)
  (segments (rows.map fun x => (x.1, x.2.1))).forM fun s => do
    let cand := s.2.filterMap fun r => match rows.getD r (none, 0, none) with
      | (_, _, some v) => some (r, v)
      | _ => none
    ((stableSort before cand).take (wordAt w 11)).forM fun x => putIndex k a o x.1

def topkChunk (k : Nat) (c : Cmd) (_i : Inst) (_ch : Nat) (limit : Option Nat) : Act Bool := do
  let a ← sdAcc k c.words
  let i ← readTbl a (sdIn c.words) false
  let o ← readOut k a c.words (sdOut c.words)
  wholeLoop k i.rows limit (topkWork k a i o c.words)

def topkOp : EngineOp := ⟨topkPrep, topkChunk⟩

def sortPrep (k : Nat) (c : Cmd) : Act (Nat × Nat) := do
  let w := c.words
  let a ← sdCommon k w [sdIn w, sdOut w, sdAux w]
  let i ← readTbl a (sdIn w) false
  let o ← readTbl a (sdOut w) true
  let cs := keyCols (wordAt w 10)
  colsIn i cs
  failIf (!cs.all fun c => orderKeyOk (i.ty c)) stFAULT dBADKEY
  outTypes o [Ty.plain tyUINT32]
  updC k fun c => { c with carry := [], slots := [] }
  pure (1, 1)

/-- The place of a row for one key: nulls before or behind, then the value, ascending or descending. -/
def sortRank (t : Nat) (desc nullsFirst : Bool) (c : Cell) : Nat :=
  let top := 2 ^ 64
  if c.isNull then (if nullsFirst then 0 else 2 * top)
  else if desc then top + (top - 1 - orderOf t c.nat) else top + orderOf t c.nat

/-- Lexicographic order. -/
def lexLt : List Nat → List Nat → Bool
  | x :: xs, y :: ys => if x = y then lexLt xs ys else decide (x < y)
  | _, _ => false

/-- Bytes of the sort's scratch (12 R443). -/
def scratchBytes (i : Tbl) (cs : List Nat) : Nat :=
  let kb := (cs.map fun c => max 1 (tyBytes (i.ty c).ty 0) + 1).sum
  2 * i.rows * (kb + 4)

def sortWork (k : Nat) (a : Acc) (i o : Tbl) (w : List Word) : Act Unit := do
  let cs := keyCols (wordAt w 10)
  let rows ← (List.range i.rows).mapM fun r => do
    let cells ← readCells a i cs r
    let ranks := (cs.zip cells).zipIdx.map fun (x, j) =>
      sortRank (i.ty x.1).ty (bitAt (wordAt w 11) j) (bitAt (wordAt w 11) (4 + j)) x.2
    pure (r, ranks)
  let junk ← freeBytes (scratchBytes i cs)
  writeMem a (sdAux w) junk
  (stableSort (fun x y => lexLt x.2 y.2) rows).forM fun x => putIndex k a o x.1

def sortChunk (k : Nat) (c : Cmd) (_i : Inst) (_ch : Nat) (limit : Option Nat) : Act Bool := do
  let a ← sdAcc k c.words
  let i ← readTbl a (sdIn c.words) false
  let o ← readOut k a c.words (sdOut c.words)
  wholeLoop k i.rows limit (sortWork k a i o c.words)

def sortOp : EngineOp := ⟨sortPrep, sortChunk⟩

/-- floor(P × 2^64) for P in 0.0 to 1.0 (12 R444). -/
def sampleBound (p : Num) : Option Nat :=
  match p with
  | .fin s m e =>
    let n := (roundMag .zero m (e + 64) 0).1
    if (s && m != 0) || decide (2 ^ 64 < n) || (decide (n = 2 ^ 64) && Num.diff p Num.one != 0) then none else some n
  | _ => none

def samplePrep (k : Nat) (c : Cmd) : Act (Nat × Nat) := do
  let w := c.words
  let a ← sdCommon k w [sdIn w, sdOut w]
  let _ ← readTbl a (sdIn w) false
  let o ← readTbl a (sdOut w) true
  failIf (!bitAt (wordAt w 10) 0 && (sampleBound (f32 (wordAt w 11))).isNone) stFAULT dBADPARAM
  outTypes o [Ty.plain tyUINT32]
  updC k fun c => { c with carry := [], slots := [] }
  pure (1, 1)

def sampleDraw (w : List Word) (r : Nat) : Nat := rill64 (wordAt w 12) (leBytes r 8)

def sampleChunk (k : Nat) (c : Cmd) (_i : Inst) (_ch : Nat) (limit : Option Nat) : Act Bool := do
  let w := c.words
  let a ← sdAcc k w
  let i ← readTbl a (sdIn w) false
  let o ← readOut k a w (sdOut w)
  if bitAt (wordAt w 10) 0 then
    wholeLoop k i.rows limit do
      let ranked := stableSort (fun x y => decide (sampleDraw w x < sampleDraw w y)) (List.range i.rows)
      let chosen := ranked.take (wordAt w 11)
      ((List.range i.rows).filter fun r => chosen.contains r).forM fun r => putIndex k a o r
  else
    let bound := (sampleBound (f32 (wordAt w 11))).getD 0
    rowLoop k i.rows limit fun r => if sampleDraw w r < bound then putIndex k a o r else pure ()

def sampleOp : EngineOp := ⟨samplePrep, sampleChunk⟩

/-! ### The end of a command (12 R419, R436, R447) -/

/-- Does the command leave no rows unless it ends OK: SD_GROUP, SD_SORT, SD_TOPK and COUNT? -/
def allOrNone (w : List Word) : Bool :=
  match fld w 0 0 8 with
  | 0x84 => true
  | 0x86 => true
  | 0x87 => true
  | 0x88 => bitAt (wordAt w 10) 0
  | _ => false

/-- Close the output tables of a command that ends with a status. -/
def saddleTables (k : Nat) (w : List Word) (st : Nat) : Act Unit := do
  let op := fld w 0 0 8
  let a ← sdAcc k w
  let none_ := allOrNone w && st != stOK
  if op ≠ 0x82 ∧ !(op == 0x85 && !normMode w) then
    let o ← readOut k a w (sdOut w)
    closeTbl k 0 a o none_
  if op = 0x84 ∧ sdAux w ≠ 0 then
    let g ← readOut k a w (sdAux w)
    closeTbl k 1 a g none_

/-- The hash table's state at the end of a command. -/
def Dev.saddleHash (s : Dev) (k : Nat) (c : Cmd) (st : Nat) : Dev :=
  let w := c.words
  let op := fld w 0 0 8
  let ix := [k / 32, fld w 10 0 4]
  let pair := (Tab.get [] s.pairs (htPairAt (k / 32) (fld w 10 0 4))).map (·.toNat)
  if op = 0x82 ∨ op = 0x84 then
    -- a table emptied by a new pair meanwhile is not this command's any more (12 Table 12.9)
    if s.get F.HT_STATE ix ≠ htBUILDING ∨ pair ≠ c.slots.getD lPAIR [] then s
    else if st = stOK then
      ((s.put F.HT_STATE ix htBUILT).put F.HT_ROWS ix (c.slotAt lOWN 0)).put F.HT_KEY_SIG ix (c.slotAt lOWN 4)
    else s.put F.HT_STATE ix htFAILED
  else if op = 0x83 then s.put F.HT_PROBES ix (s.get F.HT_PROBES ix - 1)
  else s

end Sys2Proof.Machine
end

