-- ==== Sys2Proof/Machine/CoreRun.lean ====
section
/-! DEFINITION. The Ridge cores in the unit: which of them work, one instruction or element at a time, interrupts and imprecise
traps, far accesses with their checks, and kernel invocations (13_ridge_isa, 14_core_pipelines, 12 R430, R431). -/

namespace Sys2Proof.Machine

def Dev.core (s : Dev) (key : Nat) : Core := Tab.get Core.reset s.cores key
def Dev.setCore (s : Dev) (key : Nat) (c : Core) : Dev := { s with cores := Tab.set Core.reset s.cores key c }

/-- The power domain of a core (18 Table 18.1): the management spur cores and the warden lie in MGMT. -/
def coreDomain (key : Nat) : Nat := if isWarden key ∨ isManager key then 8 else coreDie key

/-- Does the core work: it exists, its die is there, its domain is awake, and no safe stop holds it (17 R621)? (DEDUCED, log 72). -/
def Dev.coreOn (s : Dev) (key : Nat) : Bool :=
  isCore key && !s.dieGone (coreDie key) && !s.domAsleep (coreDomain key) && !(isWarden key && s.get F.WARDEN_MODE == 2)

/-- The slice whose lane core this is. -/
def laneSlice (key : Nat) : Inst := ⟨3, coreDie key, 0⟩

/-- A lane core's invocation ends badly: so does the chunk it belongs to (12 R431). -/
def Dev.kernelFail (s : Dev) (key : Nat) (c : Core) (detail : Nat) : Dev :=
  match c.invoc, (Tab.get Engine.reset s.engines (laneSlice key).key).busy with
  | some v, some b => if b.queue = v.queue then s.killChunk (laneSlice key) stFAULT detail else s
  | _, _ => s

/-- A core has moved from `c` to `c'`: a stack stop is a fault of a spur core or of the warden, a trap of a lane core ends
its chunk (13 R471; 17 Table 17.5) (DEDUCED, log 90). -/
def Dev.coreMoved (s : Dev) (key : Nat) (c c' : Core) : Dev :=
  let s := s.setCore key c'
  if c'.stopped && !c.stopped then
    if isLane key then (if c'.done = 2 then s.kernelFail key c' dKERNELTRAP else s)
    else if isWarden key then s.faultNow 0x06 c'.pc 0
    else s.report 0x29 (coreDie key) key none c'.pc 0
  else s

/-- The choice between old and new words of program memory that have changed since the last IFLUSH is free (13 R481) (DESIGN CHOICE, log 67). -/
def Dev.staleChoice (s : Dev) (c : Core) : Nat × Dev := if c.stale.isEmpty then (0, s) else s.drawBelow 65536

/-- The instruction at a core's PC, when it is the operation named: it issues (DESIGN CHOICE, log 3). -/
def Dev.coreStep (s : Dev) (key : Nat) (op : Rop) : Dev :=
  let c := s.core key
  if !s.coreOn key || !c.runs then s
  else
    let r := s.staleChoice c
    if (c.current key r.1).op = op then r.2.coreMoved key c (c.step key r.1) else s

/-- Up to `n` elements of a string instruction that repeats. -/
def Dev.coreString (s : Dev) (key : Nat) (op : Rop) : Nat → Dev
  | 0 => s
  | n + 1 =>
    let s' := s.coreStep key op
    if (s'.core key).inRep then Dev.coreString s' key op n else s'

/-! ### Interrupts and imprecise traps (13 R476, R477; 14 R509 to R512) -/

/-- The level lines a core sees are those its sources hold (DESIGN CHOICE, log 66). -/
def Core.seeLevels (c : Core) (levels : Nat) : Core := { c with lines := c.lines % 256 + levels / 256 % 256 * 256 }

/-- An instruction or element boundary at which an entry may begin (DEDUCED, log 64). -/
def Core.boundary (c : Core) (key : Nat) : Bool :=
  !c.stopped && c.farLoad.isNone && !(c.rep != 0 && !c.inRep) && !(c.inRep && c.lc == 0) && !c.midPair key && c.frameFits

/-- INTERRUPT_ENTRY: the highest line that qualifies is accepted; an error that has arrived goes first (14 R512). -/
def Dev.irqEntry (s : Dev) (key levels : Nat) : Dev :=
  if !s.coreOn key || isLane key then s
  else
    let c := (s.core key).seeLevels levels
    if !c.boundary key || !c.errs.isEmpty then s.setCore key c
    else match c.bestLine c.ipl with
    | some n => s.coreMoved key c (c.takeLine n)
    | none => s.setCore key c

/-- INTERRUPT_TAKEOVER: a higher line that becomes visible `b` cycles into the window takes the entry mix. -/
def Dev.irqTakeover (s : Dev) (key levels b : Nat) : Dev :=
  if !s.coreOn key || isLane key then s
  else
    let c := (s.core key).seeLevels levels
    match c.entry with
    | none => s.setCore key c
    | some e =>
      match c.bestLine e.ipl with
      | none => s.setCore key c
      | some m =>
        if m ≤ e.line ∨ 3 < b then s.setCore key c
        else
          let c := c.setIpl (m + 1)
          let lines := if e.line < 8 then setBit c.lines e.line else c.lines
          let at_ := e.cyc + b
          let pc := ((c.ctlAt 3).toNat + 2 * (16 + m)) % pmWords false
          s.setCore key { c with
            pc := pc
            lines := if m < 8 then clearBit lines m else lines
            entry := some { e with line := m, cyc := at_ + 1 }
            free := at_ + 5
            winEnd := pc / 4 * 4 + 4
            winCyc := at_ + 5 }

/-- IMPRECISE_TRAP: the oldest error of a posted store is taken at an instruction boundary. -/
def Dev.imprecise (s : Dev) (key : Nat) : Dev :=
  let c := s.core key
  if !s.coreOn key || c.stopped || c.farLoad.isSome || c.inRep || c.rep != 0 || !c.frameFits then s
  else match c.errs with
  | [] => s
  | (vec, eff) :: t =>
    let c' := ({ c with errs := t, halted := false }).trapTo key vec c.pc (some eff)
    s.coreMoved key c (c'.setCtl 13 (BitVec.ofNat 32 (2 * vec + 1)))

/-! ### Far accesses (13 R459; 14 R500; 15 R529; 06 R205) -/

/-- The tags of a core's far access; a queue spur core acts for the partition of the queue context in use (DESIGN CHOICE, log 68). -/
def farAcc (key part : Nat) : Acc := ⟨part, if isWarden key then 2 else if isManager key then 1 else 0, key, false⟩

/-- The requester a core is at the set-up registers (21 R745). -/
def coreReq (key : Nat) : Req := if isWarden key then .warden else .mgmt (key % 8)

/-- The check of a far access. -/
def Dev.farCheck (s : Dev) (a : Acc) (kind addr : Nat) : Option Viol :=
  if a.level = 0 ∧ 2 ^ 40 ≤ addr ∧ addr < 2 ^ 40 + 768 * GiB ∧
      !(2 ^ 40 + s.xwBase a.part ≤ addr ∧ addr < 2 ^ 40 + s.xwBase a.part + s.xwSize a.part) then some ⟨vNOREGION, 0, false⟩
  else s.mpuCheck a kind addr

/-- Does a queue spur core reach for a granule that another partition still releases to its own: the access waits (06 R211)? -/
def Dev.farClaimed (s : Dev) (a : Acc) (addr : Nat) : Bool :=
  a.level == 0 && match s.route addr with
    | .tarn d => s.claimed a.part ⟨5, d, addr % 2 ^ 32 / 2 ^ 26, 1⟩ && !s.owns a ⟨5, d, addr % 2 ^ 32 / 2 ^ 26, 1⟩
    | _ => false

/-- How a far read ends. -/
inductive FarEnd where
  | data (v : Nat)
  | prot
  | bus
  | waits
deriving DecidableEq, Repr

/-- Bytes of posted stores over what memory holds: a later store covers an earlier one (14 R500). -/
def overlay (l : List FarStore) (addr : Nat) (bs : List Byte) : List Byte :=
  bs.zipIdx.map fun x =>
    let a := addr + x.2
    match l.reverse.find? fun p => decide (p.addr ≤ a) && decide (a < p.addr + p.bytes.length) with
    | some p => p.bytes.getD (a - p.addr) x.1
    | none => x.1

/-- A far read of at most one word. -/
def Dev.farRead (s : Dev) (key part addr n : Nat) (posted : List FarStore) : FarEnd × Dev :=
  let a := farAcc key part
  if s.farClaimed a addr then (.waits, s) else
  match s.farCheck a kRead addr with
  | some v => (.prot, s.latchViol a kRead v addr)
  | none =>
    let mix := fun bs => leNat (overlay posted addr bs)
    match s.route addr with
    | .setup off =>
      match s.gate off with
      | .serve =>
        let r := s.readServed (coreReq key) (off / 4 * 4)
        (.data (mix (((leBytes r.1.toNat 4).drop (off % 4)).take n)), r.2)
      | .dead => (.data (mix (List.replicate n 0)), s.put0 F.DIE_ACCESS 1)
      | .hidden => (.data (mix (List.replicate n 0)), s)
      | .asleep d => (.waits, s.wakeFor d)
      | .held => (.waits, s)
    | _ =>
      match s.target (coreDie key) addr with
      | .error (.asleep d) => (.waits, s.wake d false)
      | .error .held => (.waits, s)
      | .error .gone => (.bus, s)
      | .ok (some d, k) =>
        let r := s.readSram d k n key (if a.level = 0 then some part else none)
        (match r.1 with
          | some bs => .data (mix bs)
          | none => .bus, r.2)
      | .ok (none, k) => (if s.poisoned k n then .bus else .data (mix (Tab.getMany 0 s.mem k n)), s)

/-- The words of a far load, low word first. -/
def Dev.farWords (s : Dev) (key part : Nat) (posted : List FarStore) : List (Nat × Nat) → FarEnd × Dev
  | [] => (.data 0, s)
  | (addr, n) :: t =>
    match s.farRead key part addr n posted with
    | (.data v, s') =>
      match Dev.farWords s' key part posted t with
      | (.data w, s'') => (.data (v + 2 ^ 32 * w), s'')
      | r => r
    | r => r

/-- The instruction that waits for a load goes on with its data. -/
def Core.finishLoad (c : Core) (key : Nat) (l : FarLoad) (v : Nat) : REnd :=
  let c := { c with farLoad := none }
  let i := c.current key 0
  let next := (c.pc + i.len) % pmWords false
  let element := fun (c : Core) => if c.rep = 1 ∨ c.inRep then c.repeated i next 1 else .go { c with pc := next } 1
  match l.kind with
  | 0 => .go { c.loaded l.reg l.sign l.size v true with pc := next } 1
  | 1 =>
    match c.store false (c.rb 1).toNat l.size v with
    | .ok c => element (c.advance true true l.size)
    | .bad => .trap c vADDR c.pc (some (c.rb 1).toNat)
    | .full => .hold
  | 2 => element (c.scanned l.size v)
  | 3 => c.retWith false i v
  -- the frame lies across the top of the address space: its ST is local
  | 5 => c.retiWith false i v (c.loadNear 0 4)
  | _ => c.retiWith false i (v % 2 ^ 32) (v / 2 ^ 32)

/-- FAR_LOAD_DATA: `lat` cycles after the issue the data arrives, or an error of the path. -/
def Dev.farData (s : Dev) (key part lat : Nat) (err : Bool) : Dev :=
  let c := s.core key
  if !s.coreOn key then s
  else match c.farLoad with
  | none => s
  | some l =>
    let trap := fun (s : Dev) vec => if !c.frameFits then s else
      let c1 := { c.reach (c.cyc + lat) with farLoad := none }
      s.coreMoved key c ({ c1 with free := max c1.free c1.cyc }.trapTo key vec c.pc (some l.eff))
    if err then trap s vBUS
    else
      let ws := if l.size = 8 then [(l.addr, 4), (l.addr + 4, 4)] else [(l.addr, l.size)]
      match s.farWords key part c.posted ws with
      | (.waits, s) => s
      | (.prot, s) => trap s vPROT
      | (.bus, s) => trap s vBUS
      | (.data v, s) =>
        let c1 := c.reach (c.cyc + lat)
        match c1.finishLoad key l v with
        | .go c2 cost => s.coreMoved key c { c2 with free := c2.cyc + cost, slot := none }
        | .trap c2 vec saved x =>
          if c.frameFits then s.coreMoved key c (Core.trapTo { c2 with free := max c2.free c2.cyc } key vec saved x) else s
        | .hold => s

/-- FAR_STORE_COMPLETE: the oldest posted store of a core completes, or its error arrives. -/
def Dev.farStored (s : Dev) (key part : Nat) (err : Bool) : Dev :=
  let c := s.core key
  match c.posted with
  | [] => s
  | p :: t =>
    let a := farAcc key part
    let done := fun (s : Dev) => s.setCore key { c with posted := t }
    let bad := fun (s : Dev) vec => s.setCore key { c with posted := t, errs := c.errs ++ [(vec, p.eff)] }
    if !isCore key then s
    else if err then bad s vBUS
    else if s.farClaimed a p.addr then s
    else match s.farCheck a kWrite p.addr with
    | some v => bad (s.latchViol a kWrite v p.addr) vPROT
    | none =>
      match s.route p.addr with
      | .setup off =>
        match s.gate off with
        | .asleep d => s.wakeFor d
        | .held => s
        | _ => done (s.writeSized (coreReq key) off p.bytes.length (leNat p.bytes))
      | _ =>
        match s.target (coreDie key) p.addr with
        | .error (.asleep d) => s.wake d false
        | .error .held => s
        | .error .gone => bad s vBUS
        | .ok (some d, k) => done (s.writeSram d k key (if a.level = 0 then some part else none) p.bytes)
        | .ok (none, k) => done (s.writeExt k p.bytes)

/-! ### Time and kernels -/

/-- TIMER: a core's TIMER has counted down to 0 (13 Table 13.14) (DESIGN CHOICE, log 71). -/
def Dev.coreTimer (s : Dev) (key : Nat) : Dev :=
  let c := s.core key
  if !s.coreOn key then s
  else
    let c' := c.reach (c.cyc + (c.ctlAt 7).toNat)
    s.setCore key { c' with free := max c'.free c'.cyc }

/-- LANE_STOP (14 R508): an invocation stops at the next instruction or element boundary. -/
def Dev.laneStop (s : Dev) (key : Nat) : Dev :=
  let c := s.core key
  if isLane key && isCore key && c.invoc.isSome && !c.stopped then s.setCore key { c with stopped := true, done := 4 } else s

/-- KERNEL_INVOCATION (12 R430): the next row block of the select that runs on a slice goes to one of its free lane
cores (DESIGN CHOICE, log 62). -/
def Dev.kernelInvoke (s : Dev) (k key : Nat) : Dev :=
  let c := s.core key
  match (Tab.get Engine.reset s.engines (laneSlice key).key).busy with
  | none => s
  | some b =>
    -- the command as the chunk found it: the block at which the chunk began
    let cmd := b.cmd
    if !isLane key || !s.coreOn key || b.queue != k || (c.invoc.isSome && !c.stopped) || bitsOf (wordAt cmd.words 0) 0 8 != 0x80 then s
    else
      let work : Act (Option (Sel × KBlock)) := do
        let q ← Sel.parse k cmd.words
        if q.kernel = 0 ∨ q.i.rows ≤ cmd.at cPOS then pure none
        else
          loadKernel k (coreDie key) q.kernel
          let b ← q.nextBlock (cmd.at cPOS)
          pure (some (q, b))
      match runAct work s with
      | (.ok (some (q, b)), s) => s.setCore key ((s.core key).invoke k q.klimit b.slim b.data)
      | (.ok none, s) => s
      | (.error (.ended st d), s) => s.killChunk (laneSlice key) st d
      | (.error .wait, s) => s

/-- KERNEL_LIMIT (12 R431): an invocation has used up KLIMIT. -/
def Dev.kernelLimit (s : Dev) (key : Nat) : Dev :=
  let c := s.core key
  if isLane key && isCore key && c.overLimit then
    let c' := { c with stopped := true, done := 3 }
    (s.setCore key c').kernelFail key c' dKERNELLIMIT
  else s

end Sys2Proof.Machine
end

