-- ==== Sys2Proof/Machine/CoreRows.lean ====
section
/-! DEFINITION. The meanings of the core rows (13_ridge_isa, 14_core_pipelines, 12_saddle; rows ADD to RESERVED_ENCODING,
INTERRUPT_ENTRY to LANE_STOP, KERNEL_INVOCATION, KERNEL_LIMIT).  An instruction row names the core, by its master identity, whose
next instruction it is; a string row says how many elements of a repetition run at most. -/

namespace Sys2Proof.Machine

def execAdd (c : Nat) (s : State) : Host.Outcome State Fault Refusal := onDev (·.coreStep c .add) s
def execSub (c : Nat) (s : State) : Host.Outcome State Fault Refusal := onDev (·.coreStep c .sub) s
def execAdc (c : Nat) (s : State) : Host.Outcome State Fault Refusal := onDev (·.coreStep c .adc) s
def execPset (c : Nat) (s : State) : Host.Outcome State Fault Refusal := onDev (·.coreStep c .pset) s
def execAndI (c : Nat) (s : State) : Host.Outcome State Fault Refusal := onDev (·.coreStep c .and) s
def execOrI (c : Nat) (s : State) : Host.Outcome State Fault Refusal := onDev (·.coreStep c .or) s
def execXorI (c : Nat) (s : State) : Host.Outcome State Fault Refusal := onDev (·.coreStep c .xor) s
def execMov (c : Nat) (s : State) : Host.Outcome State Fault Refusal := onDev (·.coreStep c .mov) s
def execCmp (c : Nat) (s : State) : Host.Outcome State Fault Refusal := onDev (·.coreStep c .cmp) s
def execAddi (c : Nat) (s : State) : Host.Outcome State Fault Refusal := onDev (·.coreStep c .addi) s
def execMovi (c : Nat) (s : State) : Host.Outcome State Fault Refusal := onDev (·.coreStep c .movi) s
def execCmpi (c : Nat) (s : State) : Host.Outcome State Fault Refusal := onDev (·.coreStep c .cmpi) s
def execAddx (c : Nat) (s : State) : Host.Outcome State Fault Refusal := onDev (·.coreStep c .addx) s
def execAndx (c : Nat) (s : State) : Host.Outcome State Fault Refusal := onDev (·.coreStep c .andx) s
def execOrx (c : Nat) (s : State) : Host.Outcome State Fault Refusal := onDev (·.coreStep c .orx) s
def execXorx (c : Nat) (s : State) : Host.Outcome State Fault Refusal := onDev (·.coreStep c .xorx) s
def execCmpx (c : Nat) (s : State) : Host.Outcome State Fault Refusal := onDev (·.coreStep c .cmpx) s
def execMovx (c : Nat) (s : State) : Host.Outcome State Fault Refusal := onDev (·.coreStep c .movx) s
def execMovl (c : Nat) (s : State) : Host.Outcome State Fault Refusal := onDev (·.coreStep c .movl) s
def execTstx (c : Nat) (s : State) : Host.Outcome State Fault Refusal := onDev (·.coreStep c .tstx) s
def execShv (c : Nat) (s : State) : Host.Outcome State Fault Refusal := onDev (·.coreStep c .shv) s
def execMulu (c : Nat) (s : State) : Host.Outcome State Fault Refusal := onDev (·.coreStep c .mulu) s
def execNeg (c : Nat) (s : State) : Host.Outcome State Fault Refusal := onDev (·.coreStep c .neg) s
def execNotI (c : Nat) (s : State) : Host.Outcome State Fault Refusal := onDev (·.coreStep c .not) s
def execSxtb (c : Nat) (s : State) : Host.Outcome State Fault Refusal := onDev (·.coreStep c .sxtb) s
def execSxth (c : Nat) (s : State) : Host.Outcome State Fault Refusal := onDev (·.coreStep c .sxth) s
def execZxtb (c : Nat) (s : State) : Host.Outcome State Fault Refusal := onDev (·.coreStep c .zxtb) s
def execZxth (c : Nat) (s : State) : Host.Outcome State Fault Refusal := onDev (·.coreStep c .zxth) s
def execShl (c : Nat) (s : State) : Host.Outcome State Fault Refusal := onDev (·.coreStep c .shl) s
def execShr (c : Nat) (s : State) : Host.Outcome State Fault Refusal := onDev (·.coreStep c .shr) s
def execSar (c : Nat) (s : State) : Host.Outcome State Fault Refusal := onDev (·.coreStep c .sar) s
def execRor (c : Nat) (s : State) : Host.Outcome State Fault Refusal := onDev (·.coreStep c .ror) s
def execLd (c : Nat) (s : State) : Host.Outcome State Fault Refusal := onDev (·.coreStep c .ld) s
def execLds (c : Nat) (s : State) : Host.Outcome State Fault Refusal := onDev (·.coreStep c .lds) s
def execSt (c : Nat) (s : State) : Host.Outcome State Fault Refusal := onDev (·.coreStep c .st) s
def execLea (c : Nat) (s : State) : Host.Outcome State Fault Refusal := onDev (·.coreStep c .lea) s
def execBr (c : Nat) (s : State) : Host.Outcome State Fault Refusal := onDev (·.coreStep c .br) s
def execJmp (c : Nat) (s : State) : Host.Outcome State Fault Refusal := onDev (·.coreStep c .jmp) s
def execCall (c : Nat) (s : State) : Host.Outcome State Fault Refusal := onDev (·.coreStep c .call) s
def execJmpr (c : Nat) (s : State) : Host.Outcome State Fault Refusal := onDev (·.coreStep c .jmpr) s
def execCallr (c : Nat) (s : State) : Host.Outcome State Fault Refusal := onDev (·.coreStep c .callr) s
def execRep (c : Nat) (s : State) : Host.Outcome State Fault Refusal := onDev (·.coreStep c .rep) s
def execBlc (c : Nat) (s : State) : Host.Outcome State Fault Refusal := onDev (·.coreStep c .blc) s
def execMfc (c : Nat) (s : State) : Host.Outcome State Fault Refusal := onDev (·.coreStep c .mfc) s
def execMtc (c : Nat) (s : State) : Host.Outcome State Fault Refusal := onDev (·.coreStep c .mtc) s
def execRidgeNop (c : Nat) (s : State) : Host.Outcome State Fault Refusal := onDev (·.coreStep c .nop) s
def execRet (c : Nat) (s : State) : Host.Outcome State Fault Refusal := onDev (·.coreStep c .ret) s
def execReti (c : Nat) (s : State) : Host.Outcome State Fault Refusal := onDev (·.coreStep c .reti) s
def execSync (c : Nat) (s : State) : Host.Outcome State Fault Refusal := onDev (·.coreStep c .sync) s
def execIflush (c : Nat) (s : State) : Host.Outcome State Fault Refusal := onDev (·.coreStep c .iflush) s
def execHalt (c : Nat) (s : State) : Host.Outcome State Fault Refusal := onDev (·.coreStep c .halt) s
def execBrk (c : Nat) (s : State) : Host.Outcome State Fault Refusal := onDev (·.coreStep c .brk) s
def execTrap (c : Nat) (s : State) : Host.Outcome State Fault Refusal := onDev (·.coreStep c .trap) s
def execMul (c : Nat) (s : State) : Host.Outcome State Fault Refusal := onDev (·.coreStep c .mul) s
def execMac (c : Nat) (s : State) : Host.Outcome State Fault Refusal := onDev (·.coreStep c .mac) s
def execRdm (c : Nat) (s : State) : Host.Outcome State Fault Refusal := onDev (·.coreStep c .rdm) s
def execWrm (c : Nat) (s : State) : Host.Outcome State Fault Refusal := onDev (·.coreStep c .wrm) s
def execMovs (c n : Nat) (s : State) : Host.Outcome State Fault Refusal := onDev (·.coreString c .movs (max n 1)) s
def execFils (c n : Nat) (s : State) : Host.Outcome State Fault Refusal := onDev (·.coreString c .fils (max n 1)) s
def execScns (c n : Nat) (s : State) : Host.Outcome State Fault Refusal := onDev (·.coreString c .scns (max n 1)) s
def execMacm (c n : Nat) (s : State) : Host.Outcome State Fault Refusal := onDev (·.coreString c .macm (max n 1)) s
def execMacmu (c n : Nat) (s : State) : Host.Outcome State Fault Refusal := onDev (·.coreString c .macmu (max n 1)) s
def execMovb (c : Nat) (s : State) : Host.Outcome State Fault Refusal := onDev (·.coreStep c .movb) s
def execMovg (c : Nat) (s : State) : Host.Outcome State Fault Refusal := onDev (·.coreStep c .movg) s
def execGuard (c : Nat) (s : State) : Host.Outcome State Fault Refusal := onDev (·.coreStep c .guard) s
def execPnot (c : Nat) (s : State) : Host.Outcome State Fault Refusal := onDev (·.coreStep c .pnot) s
def execPclr (c : Nat) (s : State) : Host.Outcome State Fault Refusal := onDev (·.coreStep c .pclr) s
def execReservedEncoding (c : Nat) (s : State) : Host.Outcome State Fault Refusal := onDev (·.coreStep c .reserved) s

/-- INTERRUPT_ENTRY: the core, and its level lines (bits 8 to 15) as their sources hold them. -/
def execInterruptEntry (c levels : Nat) (s : State) : Host.Outcome State Fault Refusal := onDev (·.irqEntry c levels) s
/-- INTERRUPT_TAKEOVER: the core, its level lines, and the cycle of the window in which the higher line becomes visible. -/
def execInterruptTakeover (c levels b : Nat) (s : State) : Host.Outcome State Fault Refusal := onDev (·.irqTakeover c levels b) s
def execImpreciseTrap (c : Nat) (s : State) : Host.Outcome State Fault Refusal := onDev (·.imprecise c) s
/-- FAR_LOAD_DATA: the core, the partition of the queue context in use, the cycles since the issue, and whether the path
reports an error. -/
def execFarLoadData (c part lat : Nat) (err : Bool) (s : State) : Host.Outcome State Fault Refusal := onDev (·.farData c part lat err) s
def execFarStoreComplete (c part : Nat) (err : Bool) (s : State) : Host.Outcome State Fault Refusal := onDev (·.farStored c part err) s
def execTimer (c : Nat) (s : State) : Host.Outcome State Fault Refusal := onDev (·.coreTimer c) s
def execLaneStop (c : Nat) (s : State) : Host.Outcome State Fault Refusal := onDev (·.laneStop c) s
/-- KERNEL_INVOCATION: the queue of the select, and the lane core. -/
def execKernelInvocation (k c : Nat) (s : State) : Host.Outcome State Fault Refusal := onDev (·.kernelInvoke k c) s
def execKernelLimit (c : Nat) (s : State) : Host.Outcome State Fault Refusal := onDev (·.kernelLimit c) s

end Sys2Proof.Machine
end

