-- ==== Sys2Proof/Machine/PartitionRows.lean ====
section
/-! DEFINITION. The meanings of the partition commands (06_partitions; rows PARTITION_ENABLE to SCRUB). -/

namespace Sys2Proof.Machine

/-- Run an operation of partition `p`. -/
def onPart (p : Nat) (f : Dev → Dev) (s : State) : Host.Outcome State Fault Refusal :=
  onDev (fun d => if p < 64 then f d else d) s

/-- The warden performs what a P_CTRL write asks (17 R617). -/
def execPartitionEnable (p : Nat) (s : State) : Host.Outcome State Fault Refusal := onPart p (·.ask (.enable p)) s
/-- RESHAPE: by P_CTRL, to the slot of its SLOT field. -/
def execReshape (p : Nat) (s : State) : Host.Outcome State Fault Refusal :=
  onPart p (fun d => d.ask (.reshape p (d.get F.P_SLOT [p]))) s
def execReleaseEnd (p : Nat) (s : State) : Host.Outcome State Fault Refusal := onPart p (·.releaseEnd p) s
def execZeroingDone (p : Nat) (s : State) : Host.Outcome State Fault Refusal := onPart p (·.zeroingDone p) s
def execPartitionDisable (p : Nat) (s : State) : Host.Outcome State Fault Refusal := onPart p (·.ask (.disable p)) s
def execPartitionDisabled (p : Nat) (s : State) : Host.Outcome State Fault Refusal := onPart p (·.partDisabled p) s
def execScrub (p : Nat) (s : State) : Host.Outcome State Fault Refusal := onPart p (·.ask (.scrub p)) s

end Sys2Proof.Machine
end

