-- ==== Sys2Proof/Machine/EngineRows.lean ====
section
/-! DEFINITION. The engines' commands, their dispatch chunk by chunk, and the end of a command (07_command_lists,
09_summit, 10_scree, 11_cairn, 12_saddle, 16_col_fabric; rows CHUNK_DISPATCH, CHUNK_END, COMMAND_END, SCRUB_DONE, the
engine opcodes and the cut-offs). -/

namespace Sys2Proof.Machine

/-- The rules of an OP that no engine has: no command of it is ever accepted (07 R237). -/
def noOp : EngineOp := ⟨fun _ _ => stopWith stFAULT dBADOP, fun _ _ _ _ _ => pure true⟩

/-- The rules of each engine command (09 Table 9.2, 10 Table 10.8, 11 to 12, 16 Table 16.14). -/
def engineOp (op : Nat) : EngineOp :=
  match op with
  | 0x20 => matmulOp
  | 0x22 => convertOp
  | 0x23 => optOp
  | 0x24 => rowopOp
  | 0x40 => mvmOp
  | 0x41 => writeSOp
  | 0x42 => programOp
  | 0x43 => swapOp
  | 0x44 => calOp
  | 0x45 => queryOp
  | 0x60 => gatherOp
  | 0x61 => scatterOp
  | 0x62 => updateOp
  | 0x80 => selectOp
  | 0x81 => takeOp
  | 0x82 => buildOp
  | 0x83 => probeOp
  | 0x84 => groupOp
  | 0x85 => normOp
  | 0x86 => topkOp
  | 0x87 => sortOp
  | 0x88 => sampleOp
  | 0xA0 => putOp
  | 0xA1 => getOp
  | 0xA2 => collOp
  | _ => noOp

/-! ### Chunks one by one (07 R239 to R242) -/

/-- CHUNK_DISPATCH: the spur cores split what is waiting for this class, then the instance picks. -/
def Dev.chunkDispatch (s : Dev) (i : Inst) (limit : Option Nat) : Dev :=
  if s.workHeld then s
  else
    let ks := (s.queues.map (·.1)).filter fun k => qClass k == i.cls
    let s := s.forEach ks fun s k => match s.cmdOf k with
      | some c => if 0x20 ≤ c.opcode ∧ c.stop.isNone then s.prepare k (engineOp c.opcode) else s
      | none => s
    s.dispatchOn i limit engineOp

/-! ### The end of a command -/

/-- What a command that ends still does; answers the status it ends with, or that it has not ended. -/
def closing (k : Nat) (c : Cmd) (st : Nat) : Act Unit := do
  if !c.ready then pure ()
  else if 0x60 ≤ c.opcode ∧ c.opcode ≤ 0x62 then cairnRecord k c
  else if 0x80 ≤ c.opcode ∧ c.opcode ≤ 0x88 then saddleTables k c.words st
  else pure ()

/-- The end of a command of an engine: its records and tables are written and its messages are in; a refused write turns
OK into its status (11 R402, 12 R419, 16 R584). -/
def Dev.closeCmd (s : Dev) (k : Nat) : Dev :=
  match s.cmdOf k with
  | none => s
  | some c =>
    match c.outcome with
    | none => s
    | some (st, d) =>
      if c.opcode < 0x20 then s.commandEnd k
      else if 0xA0 ≤ c.opcode then
        if c.phase = .running ∧ s.colBusy k then s else (s.colOver k (st != stOK)).commandEnd k
      else
        let r := runAct (closing k c st) s
        match r.1 with
        | .error .wait => r.2
        | x =>
          let out := match x with
            | .error (.ended st' d') => if st = stOK then (st', d') else (st, d)
            | _ => (st, d)
          let s := if c.ready && 0x80 ≤ c.opcode then r.2.saddleHash k c out.1 else r.2
          (s.updCmd k fun c => { c with phase := .ended out.1 out.2 }).commandEnd k

/-! ### The meanings -/

def execScrubDone (p : Nat) (s : State) : Host.Outcome State Fault Refusal := onPart p (·.scrubDone p) s
def execCommandEnd (k : Nat) (s : State) : Host.Outcome State Fault Refusal := onQueue k (·.closeCmd k) s
/-- CHUNK_DISPATCH: the instance's class, die and number, and after how many of its engine's boundaries the chunk will reach its time
limit, if it does. -/
def execChunkDispatch (cls die : Nat) (c : ChunkStart) (s : State) : Host.Outcome State Fault Refusal :=
  onDev (·.chunkDispatch ⟨cls, die, c.idx⟩ c.limit) s
/-- CHUNK_END: the instance, and the engine cycles the chunk used. -/
def execChunkEnd (cls die idx cycles : Nat) (s : State) : Host.Outcome State Fault Refusal :=
  onDev (·.endOn ⟨cls, die, idx⟩ cycles) s
def execMatmul (t : EngineTurn) (s : State) : Host.Outcome State Fault Refusal :=
  onQueue t.queue (·.engineCmd t.queue 0x20 t.cycles matmulOp) s
def execConvert (t : EngineTurn) (s : State) : Host.Outcome State Fault Refusal :=
  onQueue t.queue (·.engineCmd t.queue 0x22 t.cycles convertOp) s
def execOptStep (t : EngineTurn) (s : State) : Host.Outcome State Fault Refusal :=
  onQueue t.queue (·.engineCmd t.queue 0x23 t.cycles optOp) s
def execRowop (t : EngineTurn) (s : State) : Host.Outcome State Fault Refusal :=
  onQueue t.queue (·.engineCmd t.queue 0x24 t.cycles rowopOp) s
/-- A Summit chunk at its 45 µs, having used so many engine cycles. -/
def execSummitCutoff (die idx cycles : Nat) (s : State) : Host.Outcome State Fault Refusal :=
  onDev (·.cutOn ⟨0, die, idx⟩ cycles) s
def execScMvm (t : EngineTurn) (s : State) : Host.Outcome State Fault Refusal :=
  onQueue t.queue (·.engineCmd t.queue 0x40 t.cycles mvmOp) s
def execScWriteS (t : EngineTurn) (s : State) : Host.Outcome State Fault Refusal :=
  onQueue t.queue (·.engineCmd t.queue 0x41 t.cycles writeSOp) s
def execScProgramT (k : Nat) (s : State) : Host.Outcome State Fault Refusal := onQueue k (·.programStart k) s
/-- T_BLOCK_PROGRAM: the command's queue, the matrix macro, and whether verify passed. -/
def execTBlockProgram (k x : Nat) (pass : Bool) (s : State) : Host.Outcome State Fault Refusal := onQueue k (·.tBlock k x pass) s
def execScSwap (t : EngineTurn) (s : State) : Host.Outcome State Fault Refusal :=
  onQueue t.queue (·.engineCmd t.queue 0x43 t.cycles swapOp) s
def execScCal (t : EngineTurn) (s : State) : Host.Outcome State Fault Refusal :=
  onQueue t.queue (·.engineCmd t.queue 0x44 t.cycles calOp) s
def execScQuery (t : EngineTurn) (s : State) : Host.Outcome State Fault Refusal :=
  onQueue t.queue (·.engineCmd t.queue 0x45 t.cycles queryOp) s
/-- A Scree chunk at its 45 µs; lane 0 is the evaluation lane. -/
def execScreeCutoff (die lane cycles : Nat) (s : State) : Host.Outcome State Fault Refusal :=
  onDev (·.cutOn ⟨1, die, lane⟩ cycles) s
/-- CALIBRATION: die, macro group, macro and column group. -/
def execCalibration (die g pos cg : Nat) (s : State) : Host.Outcome State Fault Refusal := onDev (·.calStart die g pos cg) s
def execCalibrationDone (die g pos cg : Nat) (s : State) : Host.Outcome State Fault Refusal := onDev (·.calDone die g pos cg) s
def execCnGather (t : EngineTurn) (s : State) : Host.Outcome State Fault Refusal :=
  onQueue t.queue (·.engineCmd t.queue 0x60 t.cycles gatherOp) s
def execCnScatter (t : EngineTurn) (s : State) : Host.Outcome State Fault Refusal :=
  onQueue t.queue (·.engineCmd t.queue 0x61 t.cycles scatterOp) s
def execCnUpdate (t : EngineTurn) (s : State) : Host.Outcome State Fault Refusal :=
  onQueue t.queue (·.engineCmd t.queue 0x62 t.cycles updateOp) s
/-- A Cairn chunk at its 45 µs. -/
def execCairnCutoff (die cycles : Nat) (s : State) : Host.Outcome State Fault Refusal := onDev (·.cutOn ⟨2, die, 0⟩ cycles) s
def execSdSelect (t : EngineTurn) (s : State) : Host.Outcome State Fault Refusal :=
  onQueue t.queue (·.engineCmd t.queue 0x80 t.cycles selectOp) s
def execSdTake (t : EngineTurn) (s : State) : Host.Outcome State Fault Refusal :=
  onQueue t.queue (·.engineCmd t.queue 0x81 t.cycles takeOp) s
def execSdBuild (t : EngineTurn) (s : State) : Host.Outcome State Fault Refusal :=
  onQueue t.queue (·.engineCmd t.queue 0x82 t.cycles buildOp) s
def execSdProbe (t : EngineTurn) (s : State) : Host.Outcome State Fault Refusal :=
  onQueue t.queue (·.engineCmd t.queue 0x83 t.cycles probeOp) s
def execSdGroup (t : EngineTurn) (s : State) : Host.Outcome State Fault Refusal :=
  onQueue t.queue (·.engineCmd t.queue 0x84 t.cycles groupOp) s
def execSdNorm (t : EngineTurn) (s : State) : Host.Outcome State Fault Refusal :=
  onQueue t.queue (·.engineCmd t.queue 0x85 t.cycles normOp) s
def execSdTopk (t : EngineTurn) (s : State) : Host.Outcome State Fault Refusal :=
  onQueue t.queue (·.engineCmd t.queue 0x86 t.cycles topkOp) s
def execSdSort (t : EngineTurn) (s : State) : Host.Outcome State Fault Refusal :=
  onQueue t.queue (·.engineCmd t.queue 0x87 t.cycles sortOp) s
def execSdSample (t : EngineTurn) (s : State) : Host.Outcome State Fault Refusal :=
  onQueue t.queue (·.engineCmd t.queue 0x88 t.cycles sampleOp) s
/-- A Saddle chunk at its 40 µs. -/
def execSaddleCutoff (die cycles : Nat) (s : State) : Host.Outcome State Fault Refusal := onDev (·.cutOn ⟨3, die, 0⟩ cycles) s
/-- A Col chunk at its 45 µs. -/
def execColCutoff (die cycles : Nat) (s : State) : Host.Outcome State Fault Refusal := onDev (·.cutOn ⟨4, die, 0⟩ cycles) s
def execFaceWaitTimeout (k : Nat) (s : State) : Host.Outcome State Fault Refusal := onQueue k (·.faceWaitTimeout k) s

end Sys2Proof.Machine
end

