-- ==== Sys2Proof/Machine/FabricRows.lean ====
section
/-! DEFINITION. The meanings of the fabric's commands (16_col_fabric; rows FLIT_ROUTE to ENCAP_RTO). -/

namespace Sys2Proof.Machine

/-- FLIT_ROUTE: a flit that arrives at a port (below 12) with its residence time, or (12) the oldest flit injected here. -/
def execFlitRoute (port : Nat) (f : Flit) (stay : Nat) (s : State) : Host.Outcome State Fault Refusal :=
  onDev (·.flitRoute port f stay) s
def execLink (port : Nat) (m : LinkMsg) (s : State) : Host.Outcome State Fault Refusal := onDev (·.linkFlit port m) s
def execLinkHello (port : Nat) (h : Hello) (s : State) : Host.Outcome State Fault Refusal := onDev (·.linkFlit port (.hello h)) s
def execLinkNak (port : Nat) (s : State) : Host.Outcome State Fault Refusal := onDev (·.linkFlit port .nak) s
def execPut (port : Nat) (f : Flit) (s : State) : Host.Outcome State Fault Refusal := onDev (·.arriveKind 1 port f 0) s
def execGetReq (port : Nat) (f : Flit) (s : State) : Host.Outcome State Fault Refusal := onDev (·.arriveKind 2 port f 0) s
def execGetData (port : Nat) (f : Flit) (s : State) : Host.Outcome State Fault Refusal := onDev (·.arriveKind 3 port f 0) s
def execAck (port : Nat) (f : Flit) (s : State) : Host.Outcome State Fault Refusal := onDev (·.arriveKind 4 port f 0) s
def execCollData (port : Nat) (f : Flit) (s : State) : Host.Outcome State Fault Refusal := onDev (·.arriveKind 5 port f 0) s
def execCollReady (port : Nat) (f : Flit) (s : State) : Host.Outcome State Fault Refusal := onDev (·.arriveCtrl ccREADY port f) s
def execCollNak (port : Nat) (f : Flit) (s : State) : Host.Outcome State Fault Refusal := onDev (·.arriveCtrl ccNAK port f) s
def execCollAbort (port : Nat) (f : Flit) (s : State) : Host.Outcome State Fault Refusal := onDev (·.arriveCtrl ccABORT port f) s
def execCollDone (port : Nat) (f : Flit) (s : State) : Host.Outcome State Fault Refusal := onDev (·.arriveCtrl ccDONE port f) s
def execCollCredit (port : Nat) (f : Flit) (s : State) : Host.Outcome State Fault Refusal := onDev (·.arriveCtrl ccCREDIT port f) s
def execCtrl0 (port : Nat) (f : Flit) (stay : Nat) (s : State) : Host.Outcome State Fault Refusal :=
  onDev (·.arriveKind 7 port f stay) s
/-- UNIT_LOST: the CTRL0 flit of the partner. -/
def execUnitLost (port : Nat) (f : Flit) (s : State) : Host.Outcome State Fault Refusal :=
  onDev (fun d => if wordAt f.data 0 = c0LOST then d.arriveKind 7 port f 0 else d) s
def execReadyRepeat (k : Nat) (s : State) : Host.Outcome State Fault Refusal := onQueue k (·.readyRepeat k) s
def execAckTimeout (tag : Nat) (s : State) : Host.Outcome State Fault Refusal := onDev (·.ackTimeout tag) s
def execCollTimeout (k : Nat) (s : State) : Host.Outcome State Fault Refusal := onQueue k (·.collTimeout k) s
def execClPut (t : EngineTurn) (s : State) : Host.Outcome State Fault Refusal := onQueue t.queue (·.engineCmd t.queue 0xA0 t.cycles putOp) s
def execClGet (t : EngineTurn) (s : State) : Host.Outcome State Fault Refusal := onQueue t.queue (·.engineCmd t.queue 0xA1 t.cycles getOp) s
def execClColl (t : EngineTurn) (s : State) : Host.Outcome State Fault Refusal := onQueue t.queue (·.engineCmd t.queue 0xA2 t.cycles collOp) s
/-- PORT_ENABLE: the value written to ENABLE, and whether the port sees a signal. -/
def execPortEnable (port : Nat) (on signal : Bool) (s : State) : Host.Outcome State Fault Refusal :=
  onDev (·.portEnable port on signal) s
def execPortLock (port : Nat) (s : State) : Host.Outcome State Fault Refusal := onDev (·.portLock port) s
def execPortTrainTimeout (port : Nat) (s : State) : Host.Outcome State Fault Refusal := onDev (·.portTrainTimeout port) s
def execFabricPortDown (port : Nat) (s : State) : Host.Outcome State Fault Refusal := onDev (·.portLost port) s
def execPortHelloTimer (port : Nat) (s : State) : Host.Outcome State Fault Refusal := onDev (·.portHello port) s
def execFabricSignalPresent (port : Nat) (s : State) : Host.Outcome State Fault Refusal := onDev (·.portSignal port) s
def execPortTrainRetry (port : Nat) (s : State) : Host.Outcome State Fault Refusal := onDev (·.portRetry port) s
def execEncapFrame (port : Nat) (f : EFrame) (s : State) : Host.Outcome State Fault Refusal := onDev (·.encapFrame port f) s
/-- ENCAP_RTO: the peer's identity and the class. -/
def execEncapRto (ident cls : Nat) (s : State) : Host.Outcome State Fault Refusal := onDev (·.encapRto ident (cls % 4)) s

end Sys2Proof.Machine
end

