-- ==== Sys2Proof/Machine/PanelRows.lean ====
section
/-! DEFINITION. The meanings of the ledge panel's commands (19_ledge_panel; rows KEY_MEASURE to DISPLAY_REFRESH). -/

namespace Sys2Proof.Machine

/-- KEY_MEASURE: the key, and the count measured. -/
def execKeyMeasure (k count : Nat) (s : State) : Host.Outcome State Fault Refusal := onDev (·.keyMeasure k count) s
def execLong (k : Nat) (s : State) : Host.Outcome State Fault Refusal := onDev (·.keyLong k) s
def execDriftStep (s : State) : Host.Outcome State Fault Refusal := onDev Dev.driftStep s
def execRebase (s : State) : Host.Outcome State Fault Refusal := onDev Dev.rebase s
/-- PANEL_PRESENT: the contact's new level, and how many ms the level before it lasted. -/
def execPanelPresent (high : Bool) (ms : Nat) (s : State) : Host.Outcome State Fault Refusal := onDev (·.panelContact high ms) s
def execDrainReq (s : State) : Host.Outcome State Fault Refusal := onDev Dev.drainReq s
def execDrainWithdraw (s : State) : Host.Outcome State Fault Refusal := onDev Dev.drainWithdraw s
def execDrainGrant (s : State) : Host.Outcome State Fault Refusal := onDev Dev.drainGrant s
def execDrained (s : State) : Host.Outcome State Fault Refusal := onDev Dev.drainedNow s
def execSafe (s : State) : Host.Outcome State Fault Refusal := onDev Dev.judgeSafe s
/-- PAGE_TIMEOUT (19 R703): 60 s without a gesture. -/
def execPageTimeout (s : State) : Host.Outcome State Fault Refusal := onDev (·.put0 F.PAGE 0) s
/-- DISPLAY_REFRESH: whether the display acknowledges. -/
def execDisplayRefresh (acked : Bool) (s : State) : Host.Outcome State Fault Refusal := onDev (·.display acked) s

end Sys2Proof.Machine
end

