-- ==== Sys2Proof/Machine/PowerRows.lean ====
section
/-! DEFINITION. The meanings of the power commands (18_power; rows POWER_REQ to RES_CLEAR, POWER_CAP to REPORT_TIMER,
HOST_LINK_L1). -/

namespace Sys2Proof.Machine

/-- A POWER frame at a port (18 R667). -/
def Dev.powerFrame (s : Dev) (port : Nat) (f : Frame) (sub : Nat) (act : Dev → Dev) : Dev :=
  s.receive port f (fun s => if f.typ = tyPower ∧ f.sub = sub then act s else s) id fun s => s.forward f

/-- HOST_LINK_L1 (18 R645): the link enters or leaves L1. -/
def Dev.linkL1 (s : Dev) (on : Bool) : Dev := ({ s with host := { s.host with l1 := on && !s.host.linkDown } }).fixHost

/-- POWER_REQ: the state and domain fields of the write. -/
def execPowerReq (st dom : Nat) (s : State) : Host.Outcome State Fault Refusal := onDev (·.writePowerReq st dom) s
def execDomainTransitionDone (d : Nat) (s : State) : Host.Outcome State Fault Refusal := onDev (·.moveOn d) s
/-- WAKE: the domain, and whether the source is an edge (18 Table 18.3). -/
def execWake (d : Nat) (edge : Bool) (s : State) : Host.Outcome State Fault Refusal := onDev (·.wake d edge) s
def execWakeIn (high : Bool) (s : State) : Host.Outcome State Fault Refusal := onDev (·.wakeIn high) s
/-- RAIL_ACK: the rail, and the voltage it reports. -/
def execRailAck (r now : Nat) (s : State) : Host.Outcome State Fault Refusal := onDev (·.railDone r now) s
def execRailFault (r : Nat) (s : State) : Host.Outcome State Fault Refusal := onDev (·.railFault r) s
def execAvsAdjust (r mv : Nat) (s : State) : Host.Outcome State Fault Refusal := onDev (·.avsAdjust r mv) s
def execThermalThreshold (die temp : Nat) (s : State) : Host.Outcome State Fault Refusal := onDev (·.thermal die temp) s
def execThermalTrip (die : Nat) (s : State) : Host.Outcome State Fault Refusal := onDev (·.thermalTrip die) s
def execThrottleRelease (die temp : Nat) (s : State) : Host.Outcome State Fault Refusal := onDev (·.throttleRelease die temp) s
/-- CAP_ESTIMATE: the estimate and its 1 ms average in W, and whether a step down or an undo is due. -/
def execCapEstimate (w avg : Nat) (step undo : Bool) (s : State) : Host.Outcome State Fault Refusal :=
  onDev (·.capEstimate w avg step undo) s
def execSupplyLow (mv : Nat) (s : State) : Host.Outcome State Fault Refusal := onDev (·.supplyLow mv) s
def execSupplyGrace (s : State) : Host.Outcome State Fault Refusal := onDev Dev.supplyGrace s
def execSupplyReturned (mv : Nat) (s : State) : Host.Outcome State Fault Refusal := onDev (·.supplyBack mv) s
def execSupplyRestart (s : State) : Host.Outcome State Fault Refusal := onRaw Dev.supplyRestart s
/-- AUX_EN: its new value, and the level of AUX_VSNS after it (22 R796). -/
def execAuxEn (w : AuxWrite) (s : State) : Host.Outcome State Fault Refusal := onDev (fun d => (d.auxEnable w.on).auxSense w.vsns) s
def execAuxFail (s : State) : Host.Outcome State Fault Refusal := onDev Dev.auxFail s
def execAuxRetry (s : State) : Host.Outcome State Fault Refusal := onDev Dev.auxRetryNow s
def execAuxStable (s : State) : Host.Outcome State Fault Refusal := onDev Dev.auxStable s
def execAuxClear (s : State) : Host.Outcome State Fault Refusal := onDev Dev.auxClear s
def execResClear (s : State) : Host.Outcome State Fault Refusal := onDev Dev.resClear s
/-- POWER_CAP: a CAP frame addressed to the unit, or broadcast, writes PWR_CAP_W. -/
def execPowerCap (port : Nat) (f : Frame) (s : State) : Host.Outcome State Fault Refusal :=
  onDev (·.powerFrame (port % 2) f 1 fun d => d.put0 F.PWR_CAP_W (bitsOf (wordAt f.data 0) 0 16)) s
def execPowerReport (port : Nat) (f : Frame) (s : State) : Host.Outcome State Fault Refusal :=
  onDev (·.powerFrame (port % 2) f 2 (·.deliver f)) s
def execPowerSupply (port : Nat) (f : Frame) (s : State) : Host.Outcome State Fault Refusal :=
  onDev (·.powerFrame (port % 2) f 3 (·.deliver f)) s
def execReportTimer (s : State) : Host.Outcome State Fault Refusal := onDev Dev.sendReport s
def execHostLinkL1 (on : Bool) (s : State) : Host.Outcome State Fault Refusal := onDev (·.linkL1 on) s

end Sys2Proof.Machine
end

