-- ==== Sys2Proof/Machine/RegRows.lean ====
section
/-! DEFINITION. The meanings of register accesses and chain requests (00_scope, 04_chain, 21_registers; rows REGISTER_WRITE to
PAIR_HI_WRITE, RD_REQ to CHAIN_TIMEOUT, WAKE_DELAY_DONE). -/

namespace Sys2Proof.Machine

/-- REGISTER_WRITE: the requester, its offset, the width in bytes and the value. -/
def execRegisterWrite (req : Req) (off size v : Nat) (s : State) : Host.Outcome State Fault Refusal :=
  onDev (·.writeSized req off size v) s
/-- PAIR_LO_READ: a read of `size` bytes that begins in a _LO register; a 64-bit one reads _HI after it. -/
def execPairLoRead (req : Req) (at_ : Span) (s : State) : Host.Outcome State Fault Refusal :=
  onDev (·.readSized req at_.off at_.size) s
/-- PAIR_HI_READ: a read of `size` bytes that begins in a _HI register. -/
def execPairHiRead (req : Req) (at_ : Span) (s : State) : Host.Outcome State Fault Refusal :=
  onDev (·.readSized req at_.off at_.size) s
def execPairLoWrite (req : Req) (off v : Nat) (s : State) : Host.Outcome State Fault Refusal :=
  onDev (fun d => d.writeReg req (off / 4 * 4) (v % 2 ^ 32)) s
def execPairHiWrite (req : Req) (off v : Nat) (s : State) : Host.Outcome State Fault Refusal :=
  onDev (fun d => d.writeReg req (off / 4 * 4) (v % 2 ^ 32)) s
def execRdReq (port : Nat) (f : Frame) (s : State) : Host.Outcome State Fault Refusal :=
  onDev (fun d => d.receive (port % 2) f (·.chainRead f) id (·.forward f)) s
def execWrReq (port : Nat) (f : Frame) (s : State) : Host.Outcome State Fault Refusal :=
  onDev (fun d => d.receive (port % 2) f (·.chainWrite f) (·.wrHome f) (·.forward f)) s
/-- RD_RSP: the port, the frame, and whether it answers a request whose mailbox has timed out or been reused. -/
def execRdRsp (port : Nat) (f : Frame) (late : Bool) (s : State) : Host.Outcome State Fault Refusal :=
  onDev (fun d => d.receive (port % 2) f (fun d => if late then d else d.rdRsp f) id (·.forward f)) s
def execWrRsp (port : Nat) (f : Frame) (late : Bool) (s : State) : Host.Outcome State Fault Refusal :=
  onDev (fun d => d.receive (port % 2) f (fun d => if late then d else d.wrRsp f) id (·.forward f)) s
def execChainReqGo (n : Nat) (s : State) : Host.Outcome State Fault Refusal := onDev (·.chainGo n) s
def execChainTimeout (n : Nat) (s : State) : Host.Outcome State Fault Refusal := onDev (·.chainTimeout n) s
def execWakeDelayDone (d : Nat) (s : State) : Host.Outcome State Fault Refusal := onDev (·.wakeDone d) s

end Sys2Proof.Machine
end

