-- ==== Sys2Proof/Machine/WardenRows.lean ====
section
/-! DEFINITION. The meanings of the warden's commands (17_warden, 01_shelf; rows VOTER_VERDICT to RESET_GO, SHELF_DEGRADED
to SHELF_RETRAIN_DONE). -/

namespace Sys2Proof.Machine

/-- WARDEN_WATCHDOG (17 R616): the watchdog runs while the warden runs. -/
def Dev.watchdog (s : Dev) : Dev :=
  if s.get F.WARDEN_MODE = 2 ∨ s.domAsleep 8 then s else s.faultNow 0x05 0 0

/-- SAFE_STOP (17 R621): by a code whose reaction is a safe stop. -/
def Dev.stopBy (s : Dev) (code arg core : Nat) : Dev := if reactionOf code = some 3 then s.faultNow code arg core else s

/-- RESYNC_DONE (17 R614, R615): the requests that waited are carried out after the deferred reactions. -/
def Dev.resyncDone (s : Dev) (ok : Bool) : Dev := (s.resyncEnd ok).serveWaits

/-- VOTER_VERDICT: the signatures of WA, WB and WC for a warden cycle, and whether the two voters agree. -/
def execVoterVerdict (sa sb sc cycle : Nat) (agree : Bool) (s : State) : Host.Outcome State Fault Refusal :=
  onDev (·.verdict sa sb sc cycle agree) s
def execWardenWatchdog (s : State) : Host.Outcome State Fault Refusal := onDev Dev.watchdog s
def execResync (s : State) : Host.Outcome State Fault Refusal := onDev Dev.resync s
/-- RESYNC_DONE: whether the copy succeeded. -/
def execResyncDone (ok : Bool) (s : State) : Host.Outcome State Fault Refusal := onDev (·.resyncDone ok) s
def execForceSafeStop (s : State) : Host.Outcome State Fault Refusal := onDev (·.stopBy 0x5F 0 0) s
/-- FAULT_REPORT: what a detector outside the model's own paths reports (none: the oldest report that waits), and the
queues whose work the fault touches. -/
def execFaultReport (d : Option Detect) (qs : List Nat) (s : State) : Host.Outcome State Fault Refusal :=
  onDev (·.faultReport d qs) s
/-- SAFE_STOP: the code, its argument and the warden cores involved. -/
def execSafeStop (code arg core : Nat) (s : State) : Host.Outcome State Fault Refusal := onDev (·.stopBy code arg core) s
def execSafeStopEnginesStopped (s : State) : Host.Outcome State Fault Refusal := onDev Dev.safeStopped s
def execRefclkLoss (s : State) : Host.Outcome State Fault Refusal := onDev (·.stopBy 0x10 0 0) s
def execAonClockLoss (s : State) : Host.Outcome State Fault Refusal := onDev (·.stopBy 0x11 0 0) s
/-- ENGINE_HANG: the instance's class, die and number. -/
def execEngineHang (cls die idx : Nat) (s : State) : Host.Outcome State Fault Refusal := onDev (·.engineHang ⟨cls, die, idx⟩) s
/-- RESET_ARM: by a requester's number. -/
def execResetArm (req : Nat) (s : State) : Host.Outcome State Fault Refusal := onDev (·.resetArm req) s
/-- RESET_GO: by a requester's number. -/
def execResetGo (req : Nat) (s : State) : Host.Outcome State Fault Refusal := onDev (·.resetGo req) s
def execShelfDegraded (l : Nat) (s : State) : Host.Outcome State Fault Refusal := onDev (·.shelfDegraded l) s
/-- SHELF_LINK_DOWN: the link, and the queues with transactions in flight on it. -/
def execShelfLinkDown (l : Nat) (qs : List Nat) (s : State) : Host.Outcome State Fault Refusal := onDev (·.shelfDown l qs) s
def execShelfRetrainDone (l : Nat) (s : State) : Host.Outcome State Fault Refusal := onDev (·.shelfServe l) s

end Sys2Proof.Machine
end

