-- ==== Sys2Proof/Machine/Dispatch.lean ====
section
/-! DEFINITION. One arm per command: the one place where commands meet their meanings. -/

namespace Sys2Proof.Machine

def exec (i : Instr) (s : State) : Host.Outcome State Fault Refusal :=
  match i with
  | .registerWrite req off size v => Sys2Proof.Machine.execRegisterWrite req off size v s
  | .pairLoRead req at_ => Sys2Proof.Machine.execPairLoRead req at_ s
  | .pairHiRead req at_ => Sys2Proof.Machine.execPairHiRead req at_ s
  | .pairLoWrite req off v => Sys2Proof.Machine.execPairLoWrite req off v s
  | .pairHiWrite req off v => Sys2Proof.Machine.execPairHiWrite req off v s
  | .commit block => Sys2Proof.Machine.execCommit block s
  | .tickTimerExpiry => Sys2Proof.Machine.execTickTimerExpiry s
  | .cadinEdge inTolerance => Sys2Proof.Machine.execCadinEdge inTolerance s
  | .cardLost => Sys2Proof.Machine.execCardLost s
  | .tick port f link stay => Sys2Proof.Machine.execTick port f link stay s
  | .tickApply => Sys2Proof.Machine.execTickApply s
  | .voteWrite mask => Sys2Proof.Machine.execVoteWrite mask s
  | .vote port f => Sys2Proof.Machine.execVote port f s
  | .join port f => Sys2Proof.Machine.execJoin port f s
  | .leave port f => Sys2Proof.Machine.execLeave port f s
  | .bid port f => Sys2Proof.Machine.execBid port f s
  | .bidTimer => Sys2Proof.Machine.execBidTimer s
  | .cadLost => Sys2Proof.Machine.execCadLost s
  | .freeRunTick => Sys2Proof.Machine.execFreeRunTick s
  | .bidWindowEnd => Sys2Proof.Machine.execBidWindowEnd s
  | .electionStart => Sys2Proof.Machine.execElectionStart s
  | .run on => Sys2Proof.Machine.execRun on s
  | .resign => Sys2Proof.Machine.execResign s
  | .handover port f => Sys2Proof.Machine.execHandover port f s
  | .handoverFail => Sys2Proof.Machine.execHandoverFail s
  | .clearLost => Sys2Proof.Machine.execClearLost s
  | .arm n => Sys2Proof.Machine.execArm n s
  | .disarm n => Sys2Proof.Machine.execDisarm n s
  | .alarmDispatch => Sys2Proof.Machine.execAlarmDispatch s
  | .alarmNone => Sys2Proof.Machine.execAlarmNone s
  | .alarmDoorbell => Sys2Proof.Machine.execAlarmDoorbell s
  | .alarmFaceSwap => Sys2Proof.Machine.execAlarmFaceSwap s
  | .alarmPower => Sys2Proof.Machine.execAlarmPower s
  | .alarmCommit => Sys2Proof.Machine.execAlarmCommit s
  | .alarmReshape => Sys2Proof.Machine.execAlarmReshape s
  | .alarmInterrupt => Sys2Proof.Machine.execAlarmInterrupt s
  | .chainFrame port p => Sys2Proof.Machine.execChainFrame port p s
  | .chainSignalDetect port => Sys2Proof.Machine.execChainSignalDetect port s
  | .chainTrainTimeout port => Sys2Proof.Machine.execChainTrainTimeout port s
  | .chainLinkDown port => Sys2Proof.Machine.execChainLinkDown port s
  | .holdoffExpiry => Sys2Proof.Machine.execHoldoffExpiry s
  | .chainDrainExpiry => Sys2Proof.Machine.execChainDrainExpiry s
  | .helloTimer port => Sys2Proof.Machine.execHelloTimer port s
  | .ringHello port f locked => Sys2Proof.Machine.execRingHello port f locked s
  | .ringBreak port f => Sys2Proof.Machine.execRingBreak port f s
  | .ringUnwrap port f => Sys2Proof.Machine.execRingUnwrap port f s
  | .enumStart => Sys2Proof.Machine.execEnumStart s
  | .headPortHold => Sys2Proof.Machine.execHeadPortHold s
  | .enumClaim port f => Sys2Proof.Machine.execEnumClaim port f s
  | .enumAssign port f => Sys2Proof.Machine.execEnumAssign port f s
  | .enumTimeout => Sys2Proof.Machine.execEnumTimeout s
  | .attachTimer => Sys2Proof.Machine.execAttachTimer s
  | .eventAttach port f => Sys2Proof.Machine.execEventAttach port f s
  | .eventEnumDone port f => Sys2Proof.Machine.execEventEnumDone port f s
  | .eventBreak port f => Sys2Proof.Machine.execEventBreak port f s
  | .eventUnwrapDone port f => Sys2Proof.Machine.execEventUnwrapDone port f s
  | .eventSafeStop port f => Sys2Proof.Machine.execEventSafeStop port f s
  | .eventDrain port f => Sys2Proof.Machine.execEventDrain port f s
  | .eventPanel port f => Sys2Proof.Machine.execEventPanel port f s
  | .eventAlarm port f => Sys2Proof.Machine.execEventAlarm port f s
  | .eventAuxLatch port f => Sys2Proof.Machine.execEventAuxLatch port f s
  | .rdReq port f => Sys2Proof.Machine.execRdReq port f s
  | .wrReq port f => Sys2Proof.Machine.execWrReq port f s
  | .rdRsp port f late => Sys2Proof.Machine.execRdRsp port f late s
  | .wrRsp port f late => Sys2Proof.Machine.execWrRsp port f late s
  | .chainReqGo n => Sys2Proof.Machine.execChainReqGo n s
  | .chainTimeout n => Sys2Proof.Machine.execChainTimeout n s
  | .powerCap port f => Sys2Proof.Machine.execPowerCap port f s
  | .powerReport port f => Sys2Proof.Machine.execPowerReport port f s
  | .powerSupply port f => Sys2Proof.Machine.execPowerSupply port f s
  | .reportTimer => Sys2Proof.Machine.execReportTimer s
  | .sqDb req w => Sys2Proof.Machine.execSqDb req w s
  | .cqDb req w => Sys2Proof.Machine.execCqDb req w s
  | .descriptorRead k data fail => Sys2Proof.Machine.execDescriptorRead k data fail s
  | .descriptorStart k => Sys2Proof.Machine.execDescriptorStart k s
  | .listRead k data fail => Sys2Proof.Machine.execListRead k data fail s
  | .fetchErr k => Sys2Proof.Machine.execFetchErr k s
  | .descriptorComplete k => Sys2Proof.Machine.execDescriptorComplete k s
  | .coalTime k => Sys2Proof.Machine.execCoalTime k s
  | .qEnable k => Sys2Proof.Machine.execQEnable k s
  | .queueEnabled k => Sys2Proof.Machine.execQueueEnabled k s
  | .qDisable k => Sys2Proof.Machine.execQDisable k s
  | .queueDisableDrained q => Sys2Proof.Machine.execQueueDisableDrained q s
  | .vfFlr vf => Sys2Proof.Machine.execVfFlr vf s
  | .pfFlr => Sys2Proof.Machine.execPfFlr s
  | .busMasterEnable fn on msix pf => Sys2Proof.Machine.execBusMasterEnable fn on msix pf s
  | .vfEnable en n => Sys2Proof.Machine.execVfEnable en n s
  | .linkDegraded rate width coding => Sys2Proof.Machine.execLinkDegraded rate width coding s
  | .pcieLinkDown => Sys2Proof.Machine.execPcieLinkDown s
  | .hostReset perst => Sys2Proof.Machine.execHostReset perst s
  | .partitionEnable p => Sys2Proof.Machine.execPartitionEnable p s
  | .reshape p => Sys2Proof.Machine.execReshape p s
  | .releaseEnd p => Sys2Proof.Machine.execReleaseEnd p s
  | .zeroingDone p => Sys2Proof.Machine.execZeroingDone p s
  | .partitionDisable p => Sys2Proof.Machine.execPartitionDisable p s
  | .partitionDisabled p => Sys2Proof.Machine.execPartitionDisabled p s
  | .scrub p => Sys2Proof.Machine.execScrub p s
  | .scrubDone p => Sys2Proof.Machine.execScrubDone p s
  | .nop k => Sys2Proof.Machine.execNop k s
  | .wait k => Sys2Proof.Machine.execWait k s
  | .fenceTimeout k => Sys2Proof.Machine.execFenceTimeout k s
  | .signal k => Sys2Proof.Machine.execSignal k s
  | .cadWait k => Sys2Proof.Machine.execCadWait k s
  | .cadVote k => Sys2Proof.Machine.execCadVote k s
  | .cadAlarm k => Sys2Proof.Machine.execCadAlarm k s
  | .copy k data fail => Sys2Proof.Machine.execCopy k data fail s
  | .writeImm k => Sys2Proof.Machine.execWriteImm k s
  | .commandStart k => Sys2Proof.Machine.execCommandStart k s
  | .chunkDispatch cls die c => Sys2Proof.Machine.execChunkDispatch cls die c s
  | .chunkEnd cls die idx cycles => Sys2Proof.Machine.execChunkEnd cls die idx cycles s
  | .commandEnd k => Sys2Proof.Machine.execCommandEnd k s
  | .stop k => Sys2Proof.Machine.execStop k s
  | .disableGrace k => Sys2Proof.Machine.execDisableGrace k s
  | .matmul t => Sys2Proof.Machine.execMatmul t s
  | .convert t => Sys2Proof.Machine.execConvert t s
  | .optStep t => Sys2Proof.Machine.execOptStep t s
  | .rowop t => Sys2Proof.Machine.execRowop t s
  | .summitCutoff die idx steps => Sys2Proof.Machine.execSummitCutoff die idx steps s
  | .scMvm t => Sys2Proof.Machine.execScMvm t s
  | .scWriteS t => Sys2Proof.Machine.execScWriteS t s
  | .scProgramT k => Sys2Proof.Machine.execScProgramT k s
  | .tBlockProgram k x pass => Sys2Proof.Machine.execTBlockProgram k x pass s
  | .scSwap t => Sys2Proof.Machine.execScSwap t s
  | .scCal t => Sys2Proof.Machine.execScCal t s
  | .scQuery t => Sys2Proof.Machine.execScQuery t s
  | .screeCutoff die lane steps => Sys2Proof.Machine.execScreeCutoff die lane steps s
  | .calibration die g pos cg => Sys2Proof.Machine.execCalibration die g pos cg s
  | .calibrationDone die g pos cg => Sys2Proof.Machine.execCalibrationDone die g pos cg s
  | .cnGather t => Sys2Proof.Machine.execCnGather t s
  | .cnScatter t => Sys2Proof.Machine.execCnScatter t s
  | .cnUpdate t => Sys2Proof.Machine.execCnUpdate t s
  | .cairnCutoff die steps => Sys2Proof.Machine.execCairnCutoff die steps s
  | .sdSelect t => Sys2Proof.Machine.execSdSelect t s
  | .sdTake t => Sys2Proof.Machine.execSdTake t s
  | .sdBuild t => Sys2Proof.Machine.execSdBuild t s
  | .sdProbe t => Sys2Proof.Machine.execSdProbe t s
  | .sdGroup t => Sys2Proof.Machine.execSdGroup t s
  | .sdNorm t => Sys2Proof.Machine.execSdNorm t s
  | .sdTopk t => Sys2Proof.Machine.execSdTopk t s
  | .sdSort t => Sys2Proof.Machine.execSdSort t s
  | .sdSample t => Sys2Proof.Machine.execSdSample t s
  | .saddleCutoff die steps => Sys2Proof.Machine.execSaddleCutoff die steps s
  | .kernelInvocation k c => Sys2Proof.Machine.execKernelInvocation k c s
  | .kernelLimit c => Sys2Proof.Machine.execKernelLimit c s
  | .add c => Sys2Proof.Machine.execAdd c s
  | .sub c => Sys2Proof.Machine.execSub c s
  | .adc c => Sys2Proof.Machine.execAdc c s
  | .pset c => Sys2Proof.Machine.execPset c s
  | .andI c => Sys2Proof.Machine.execAndI c s
  | .orI c => Sys2Proof.Machine.execOrI c s
  | .xorI c => Sys2Proof.Machine.execXorI c s
  | .mov c => Sys2Proof.Machine.execMov c s
  | .cmp c => Sys2Proof.Machine.execCmp c s
  | .addi c => Sys2Proof.Machine.execAddi c s
  | .movi c => Sys2Proof.Machine.execMovi c s
  | .cmpi c => Sys2Proof.Machine.execCmpi c s
  | .addx c => Sys2Proof.Machine.execAddx c s
  | .andx c => Sys2Proof.Machine.execAndx c s
  | .orx c => Sys2Proof.Machine.execOrx c s
  | .xorx c => Sys2Proof.Machine.execXorx c s
  | .cmpx c => Sys2Proof.Machine.execCmpx c s
  | .movx c => Sys2Proof.Machine.execMovx c s
  | .movl c => Sys2Proof.Machine.execMovl c s
  | .tstx c => Sys2Proof.Machine.execTstx c s
  | .shv c => Sys2Proof.Machine.execShv c s
  | .mulu c => Sys2Proof.Machine.execMulu c s
  | .neg c => Sys2Proof.Machine.execNeg c s
  | .notI c => Sys2Proof.Machine.execNotI c s
  | .sxtb c => Sys2Proof.Machine.execSxtb c s
  | .sxth c => Sys2Proof.Machine.execSxth c s
  | .zxtb c => Sys2Proof.Machine.execZxtb c s
  | .zxth c => Sys2Proof.Machine.execZxth c s
  | .shl c => Sys2Proof.Machine.execShl c s
  | .shr c => Sys2Proof.Machine.execShr c s
  | .sar c => Sys2Proof.Machine.execSar c s
  | .ror c => Sys2Proof.Machine.execRor c s
  | .ld c => Sys2Proof.Machine.execLd c s
  | .lds c => Sys2Proof.Machine.execLds c s
  | .st c => Sys2Proof.Machine.execSt c s
  | .lea c => Sys2Proof.Machine.execLea c s
  | .br c => Sys2Proof.Machine.execBr c s
  | .jmp c => Sys2Proof.Machine.execJmp c s
  | .call c => Sys2Proof.Machine.execCall c s
  | .jmpr c => Sys2Proof.Machine.execJmpr c s
  | .callr c => Sys2Proof.Machine.execCallr c s
  | .rep c => Sys2Proof.Machine.execRep c s
  | .blc c => Sys2Proof.Machine.execBlc c s
  | .mfc c => Sys2Proof.Machine.execMfc c s
  | .mtc c => Sys2Proof.Machine.execMtc c s
  | .ridgeNop c => Sys2Proof.Machine.execRidgeNop c s
  | .ret c => Sys2Proof.Machine.execRet c s
  | .reti c => Sys2Proof.Machine.execReti c s
  | .sync c => Sys2Proof.Machine.execSync c s
  | .iflush c => Sys2Proof.Machine.execIflush c s
  | .halt c => Sys2Proof.Machine.execHalt c s
  | .brk c => Sys2Proof.Machine.execBrk c s
  | .trap c => Sys2Proof.Machine.execTrap c s
  | .mul c => Sys2Proof.Machine.execMul c s
  | .mac c => Sys2Proof.Machine.execMac c s
  | .rdm c => Sys2Proof.Machine.execRdm c s
  | .wrm c => Sys2Proof.Machine.execWrm c s
  | .movs c n => Sys2Proof.Machine.execMovs c n s
  | .fils c n => Sys2Proof.Machine.execFils c n s
  | .scns c n => Sys2Proof.Machine.execScns c n s
  | .macm c n => Sys2Proof.Machine.execMacm c n s
  | .macmu c n => Sys2Proof.Machine.execMacmu c n s
  | .movb c => Sys2Proof.Machine.execMovb c s
  | .movg c => Sys2Proof.Machine.execMovg c s
  | .guard c => Sys2Proof.Machine.execGuard c s
  | .pnot c => Sys2Proof.Machine.execPnot c s
  | .pclr c => Sys2Proof.Machine.execPclr c s
  | .interruptEntry c levels => Sys2Proof.Machine.execInterruptEntry c levels s
  | .interruptTakeover c levels b => Sys2Proof.Machine.execInterruptTakeover c levels b s
  | .impreciseTrap c => Sys2Proof.Machine.execImpreciseTrap c s
  | .farLoadData c part lat err => Sys2Proof.Machine.execFarLoadData c part lat err s
  | .farStoreComplete c part err => Sys2Proof.Machine.execFarStoreComplete c part err s
  | .timer c => Sys2Proof.Machine.execTimer c s
  | .laneStop c => Sys2Proof.Machine.execLaneStop c s
  | .extApply => Sys2Proof.Machine.execExtApply s
  | .extDone commitFails => Sys2Proof.Machine.execExtDone commitFails s
  | .patrolRead die => Sys2Proof.Machine.execPatrolRead die s
  | .cxlPortLost p linkDown => Sys2Proof.Machine.execCxlPortLost p linkDown s
  | .expanderEvent p records => Sys2Proof.Machine.execExpanderEvent p records s
  | .healthPoll p status => Sys2Proof.Machine.execHealthPoll p status s
  | .flitRoute port f stay => Sys2Proof.Machine.execFlitRoute port f stay s
  | .link port m => Sys2Proof.Machine.execLink port m s
  | .linkHello port h => Sys2Proof.Machine.execLinkHello port h s
  | .linkNak port => Sys2Proof.Machine.execLinkNak port s
  | .put port f => Sys2Proof.Machine.execPut port f s
  | .getReq port f => Sys2Proof.Machine.execGetReq port f s
  | .getData port f => Sys2Proof.Machine.execGetData port f s
  | .ack port f => Sys2Proof.Machine.execAck port f s
  | .collData port f => Sys2Proof.Machine.execCollData port f s
  | .collReady port f => Sys2Proof.Machine.execCollReady port f s
  | .collNak port f => Sys2Proof.Machine.execCollNak port f s
  | .collAbort port f => Sys2Proof.Machine.execCollAbort port f s
  | .collDone port f => Sys2Proof.Machine.execCollDone port f s
  | .collCredit port f => Sys2Proof.Machine.execCollCredit port f s
  | .ctrl0 port f stay => Sys2Proof.Machine.execCtrl0 port f stay s
  | .unitLost port f => Sys2Proof.Machine.execUnitLost port f s
  | .readyRepeat k => Sys2Proof.Machine.execReadyRepeat k s
  | .ackTimeout tag => Sys2Proof.Machine.execAckTimeout tag s
  | .collTimeout k => Sys2Proof.Machine.execCollTimeout k s
  | .clPut t => Sys2Proof.Machine.execClPut t s
  | .clGet t => Sys2Proof.Machine.execClGet t s
  | .clColl t => Sys2Proof.Machine.execClColl t s
  | .colCutoff die steps => Sys2Proof.Machine.execColCutoff die steps s
  | .portEnable port on signal => Sys2Proof.Machine.execPortEnable port on signal s
  | .portLock port => Sys2Proof.Machine.execPortLock port s
  | .portTrainTimeout port => Sys2Proof.Machine.execPortTrainTimeout port s
  | .fabricPortDown port => Sys2Proof.Machine.execFabricPortDown port s
  | .portHelloTimer port => Sys2Proof.Machine.execPortHelloTimer port s
  | .encapFrame port f => Sys2Proof.Machine.execEncapFrame port f s
  | .encapRto ident cls => Sys2Proof.Machine.execEncapRto ident cls s
  | .shelfDegraded l => Sys2Proof.Machine.execShelfDegraded l s
  | .shelfLinkDown l qs => Sys2Proof.Machine.execShelfLinkDown l qs s
  | .shelfRetrainDone l => Sys2Proof.Machine.execShelfRetrainDone l s
  | .voterVerdict sa sb sc cycle agree => Sys2Proof.Machine.execVoterVerdict sa sb sc cycle agree s
  | .wardenWatchdog => Sys2Proof.Machine.execWardenWatchdog s
  | .resync => Sys2Proof.Machine.execResync s
  | .resyncDone ok => Sys2Proof.Machine.execResyncDone ok s
  | .forceSafeStop => Sys2Proof.Machine.execForceSafeStop s
  | .faultReport d qs => Sys2Proof.Machine.execFaultReport d qs s
  | .safeStop code arg core => Sys2Proof.Machine.execSafeStop code arg core s
  | .safeStopEnginesStopped => Sys2Proof.Machine.execSafeStopEnginesStopped s
  | .refclkLoss => Sys2Proof.Machine.execRefclkLoss s
  | .aonClockLoss => Sys2Proof.Machine.execAonClockLoss s
  | .engineHang cls die idx => Sys2Proof.Machine.execEngineHang cls die idx s
  | .resetArm req => Sys2Proof.Machine.execResetArm req s
  | .resetGo req => Sys2Proof.Machine.execResetGo req s
  | .powerReq st dom => Sys2Proof.Machine.execPowerReq st dom s
  | .domainTransitionDone d => Sys2Proof.Machine.execDomainTransitionDone d s
  | .wake d edge => Sys2Proof.Machine.execWake d edge s
  | .wakeIn high => Sys2Proof.Machine.execWakeIn high s
  | .wakeDelayDone d => Sys2Proof.Machine.execWakeDelayDone d s
  | .railAck r now => Sys2Proof.Machine.execRailAck r now s
  | .railFault r => Sys2Proof.Machine.execRailFault r s
  | .avsAdjust r mv => Sys2Proof.Machine.execAvsAdjust r mv s
  | .thermalThreshold die temp => Sys2Proof.Machine.execThermalThreshold die temp s
  | .thermalTrip die => Sys2Proof.Machine.execThermalTrip die s
  | .throttleRelease die temp => Sys2Proof.Machine.execThrottleRelease die temp s
  | .capEstimate w avg step undo => Sys2Proof.Machine.execCapEstimate w avg step undo s
  | .supplyLow mv => Sys2Proof.Machine.execSupplyLow mv s
  | .supplyGrace => Sys2Proof.Machine.execSupplyGrace s
  | .supplyReturned mv => Sys2Proof.Machine.execSupplyReturned mv s
  | .supplyRestart => Sys2Proof.Machine.execSupplyRestart s
  | .auxEn w => Sys2Proof.Machine.execAuxEn w s
  | .auxFail => Sys2Proof.Machine.execAuxFail s
  | .auxRetry => Sys2Proof.Machine.execAuxRetry s
  | .auxStable => Sys2Proof.Machine.execAuxStable s
  | .auxClear => Sys2Proof.Machine.execAuxClear s
  | .resClear => Sys2Proof.Machine.execResClear s
  | .keyMeasure k count => Sys2Proof.Machine.execKeyMeasure k count s
  | .long k => Sys2Proof.Machine.execLong k s
  | .driftStep => Sys2Proof.Machine.execDriftStep s
  | .rebase => Sys2Proof.Machine.execRebase s
  | .panelPresent high ms => Sys2Proof.Machine.execPanelPresent high ms s
  | .drainReq => Sys2Proof.Machine.execDrainReq s
  | .drainWithdraw => Sys2Proof.Machine.execDrainWithdraw s
  | .drainGrant => Sys2Proof.Machine.execDrainGrant s
  | .drained => Sys2Proof.Machine.execDrained s
  | .safe => Sys2Proof.Machine.execSafe s
  | .pageTimeout => Sys2Proof.Machine.execPageTimeout s
  | .displayRefresh acked => Sys2Proof.Machine.execDisplayRefresh acked s
  | .powerOnReset => Sys2Proof.Machine.execPowerOnReset s
  | .bringup a => Sys2Proof.Machine.execBringup a s
  | .bootLoad data fail => Sys2Proof.Machine.execBootLoad data fail s
  | .expanderAttach p cap rate width poison health => Sys2Proof.Machine.execExpanderAttach p cap rate width poison health s
  | .xpWaitExpiry => Sys2Proof.Machine.execXpWaitExpiry s
  | .dieStartup d ok => Sys2Proof.Machine.execDieStartup d ok s
  | .shutdownArm req => Sys2Proof.Machine.execShutdownArm req s
  | .shutdownGo req => Sys2Proof.Machine.execShutdownGo req s
  | .shutdownAbort => Sys2Proof.Machine.execShutdownAbort s
  | .pointOfNoReturn => Sys2Proof.Machine.execPointOfNoReturn s
  | .reservedEncoding c => Sys2Proof.Machine.execReservedEncoding c s
  | .faceWaitTimeout k => Sys2Proof.Machine.execFaceWaitTimeout k s
  | .fabricSignalPresent port => Sys2Proof.Machine.execFabricSignalPresent port s
  | .portTrainRetry port => Sys2Proof.Machine.execPortTrainRetry port s
  | .perstNRelease => Sys2Proof.Machine.execPerstNRelease s
  | .hostLinkL1 on => Sys2Proof.Machine.execHostLinkL1 on s
  | .enumQueuedStart => Sys2Proof.Machine.execEnumQueuedStart s

end Sys2Proof.Machine
end

