-- ==== Sys2Proof/Machine/Step.lean ====
section
/-! DEFINITION. One step: the command at the front of the queue acts; with no command waiting, one always-on cycle
passes. -/

namespace Sys2Proof.Machine

/-- One step of the block (DESIGN CHOICE, log 1; DESIGN CHOICE, log 41; DESIGN CHOICE, log 106). -/
def step (s : State) : Host.Outcome State Fault Refusal :=
  match s.pending with
  | [] => .next { s with dev := s.dev.alwaysOnCycle }
  | c :: rest => exec c { s with pending := rest }

/-- `s` with the command a table word spells in front of its queue; unchanged where the word spells none. -/
def State.withFetchWord (s : State) (nbits w : Nat) : State :=
  match decodeTableWord nbits w with
  | some c => { s with pending := c :: s.pending }
  | none => s

end Sys2Proof.Machine
end

