-- ==== Sys2Proof/Safety.lean ====
section
/-! DEFINITION. What a safe run is, and the words the statements use: a command that answers a next state with a given
effect, and what it leaves alone. -/

namespace Sys2Proof

open Machine

/-- The step from `s` answers a next state. -/
def Safe (s : State) : Prop := ∃ t, step s = .next t

/-- The unit has power and is not held in reset (18 R642, R670; 20 R715). -/
def Powered (d : Dev) : Prop := d.pwr.off = 0

/-- On the unit `d`, whatever waits in the queue, the command answers a next state whose queue is the same and whose unit
meets `P`. -/
def Gives (c : Instr) (d : Dev) (P : Dev → Prop) : Prop :=
  ∃ e, (∀ q, exec c ⟨d, q⟩ = .next ⟨e, q⟩) ∧ P e

/-- Every bit of every register outside the listed fields keeps its value. -/
def OnlyFields (l : List (Fld × List Nat)) (a b : Dev) : Prop :=
  ∀ off i, (∀ x ∈ l, ¬(off = x.1.off x.2 ∧ x.1.lo ≤ i ∧ i < x.1.lo + x.1.w)) →
    (b.reg off).getLsbD i = (a.reg off).getLsbD i

/-- Nothing but registers changed. -/
def OnlyRegs (a b : Dev) : Prop := b = { a with regs := b.regs }

/-- Nothing but registers and MSI-X messages sent or held pending changed. -/
def OnlyRegsIrq (a b : Dev) : Prop :=
  b = { a with regs := b.regs, host := { a.host with sent := b.host.sent, pfPba := b.host.pfPba, vfPba := b.host.vfPba } }

/-- Beside `b`'s own registers, interrupts and what it queued to send on the chain and the fabric, `b` is `a`. -/
def OnlyTalk (a b : Dev) : Prop :=
  b = { a with
    regs := b.regs, host := { a.host with sent := b.host.sent, pfPba := b.host.pfPba, vfPba := b.host.vfPba }
    chain := { a.chain with txU := b.chain.txU, txD := b.chain.txD }, fab := { a.fab with inject := b.fab.inject } }

/-- The same, but for the cadence unit's own state. -/
def OnlyCad (a b : Dev) : Prop := OnlyTalk { a with cad := b.cad } b

/-- The same, but for the chain logic's own state. -/
def OnlyChain (a b : Dev) : Prop := OnlyTalk { a with chain := b.chain } b

/-- A sound chain frame of the TYPE arrives on the primary path of a port that carries traffic, below the hop limit, and is
for this unit: sent to its address, or to all by another unit (04 R119 to R121, R133). -/
def Arrives (d : Dev) (port typ : Nat) (f : Frame) : Prop :=
  f.crcOk = true ∧ f.bad = false ∧ f.typ = typ ∧ d.carries port = true ∧ f.hops < 252 ∧ ¬(port = portD ∧ d.uUp = true) ∧
  d.get F.CHAIN_ADDR ≠ 0 ∧ ((f.dst = bcast ∧ f.src ≠ d.get F.CHAIN_ADDR) ∨ (f.dst ≠ bcast ∧ f.dst = d.get F.CHAIN_ADDR))

/-- The TICK that reaches the cadence unit: the payload of the frame with the delay of the link it came on added (03 R76). -/
def tickIn (f : Frame) (link : Nat) : TickMsg :=
  let m := TickMsg.ofWords f.data
  { m with delay := min (m.delay + link) (2 ^ 24 - 1) }

/-- The oldest alarm dispatch is `x`, the warden is not in a safe stop or RESYNC, and neither MGMT nor the action's target
sleeps: the warden may perform it (03 R100; 17 R615, R622). -/
def MayDispatch (d : Dev) (x : Dispatch) (rest : List Dispatch) : Prop :=
  Powered d ∧ d.dispatch = x :: rest ∧ x.alarm < 256 ∧ d.get F.WARDEN_MODE ≠ 2 ∧ d.get F.WARDEN_MODE ≠ 3 ∧
  d.domAsleep 8 = false ∧ ∀ t, d.actionDomain x.copy = some t → d.domAsleep t = false

/-- A dispatch of alarm `x` has ended with the action's status `st`: FIRED counts it and LAST reads LATE for an OK that came
late (03 R98, R102). -/
def DispatchEnds (x : Dispatch) (st : Nat) (d e : Dev) : Prop :=
  e.get F.AL_FIRED [x.alarm] = (d.get F.AL_FIRED [x.alarm] + 1) % 2 ^ 16 ∧
  e.get F.AL_LAST [x.alarm] = (if st = stOK ∧ x.late then stLATE else st)

/-- A start of the enumeration at a head: GEN rises, the head takes address 1 of its chain id, and the claim pass goes out;
an isolated head enumerates itself at once (04 R130, R152, Table 4.4). -/
def EnumBegun (d e : Dev) : Prop :=
  e.get F.CHAIN_GEN = (d.get F.CHAIN_GEN + 1) % 256 ∧ e.get F.CHAIN_ADDR = 1 ∧ e.get F.CHAIN_ADDR_ID = d.get F.CHAIN_ID ∧
  e.chain.lastStart = some d.now ∧
  (if d.ringMode = 3 then e.chain.enum = none ∧ e.get F.CHAIN_COUNT = 1 ∧ e.get F.CHAIN_MAP [0] = 2
   else ∃ tok, e.chain.enum = some ⟨0, 0, tok⟩) ∧
  e.mem = d.mem ∧ e.cad = d.cad

/-- An ENUM frame that a unit that is no head handles (04 R129). -/
def EnumArrives (d : Dev) (port : Nat) (f : Frame) : Prop :=
  f.crcOk = true ∧ f.bad = false ∧ f.typ = tyEnum ∧ d.carries port = true ∧ f.hops < 252 ∧ ¬(port = portD ∧ d.uUp = true) ∧
  d.get F.CHAIN_HEAD = 0

/-- The requester's offset is the register at `a` of its block, which is served, and is none of a VF's MSI-X structures (00 R9; 05 R161,
R162; 21 R744). -/
def Served (d : Dev) (req : Req) (off a : Nat) : Prop :=
  d.accessOff req off = some a ∧ d.vfMsix req off = none ∧ d.gate a = .serve

/-- … and the requester may write it: a VF only what Table 21.9 gives it. -/
def MayWrite (d : Dev) (req : Req) (off a : Nat) : Prop := Served d req off a ∧ ∀ n, req = .vf n → vfWrites off = true

/-- A register whose write does nothing beside what its fields' types say: it has fields, none of them is a trigger, and no rule of
a chapter of its own stands in front of it or follows from it. -/
def plainReg (off : Nat) : Bool :=
  !(fieldsAt off).isEmpty && (fieldsAt off).all (fun f => f.1.ty != .wo) && (queueCfg off).isNone && (mailboxAt off).isNone &&
  (F.AL_ARM.index off).isNone && (F.PORT_ENABLE.index off).isNone && (F.FENCE_PEERS_HI.index off).isNone && !(decide (0x408000 ≤ off) && decide (off < 0x410000)) &&
  !([F.TOUCH_THRESH.off [], F.THERM_WARN.off [], F.THERM_THROTTLE.off [], F.PWR_REQ_STATE.off [], F.RUN.off [], F.AUX_EN.off [],
    F.WAKE_HOLD.off [], F.AUX_IN_KEEP.off [], F.AUTO_GRANT.off [], F.RSVD_WRITE.off [], F.VOTE_LO.off [], F.VOTE_HI.off []].contains off)

/-- No two fields of the register share a bit. -/
def fieldsApart (off : Nat) : Bool :=
  decide ((fieldsAt off).Pairwise fun f g => f.1.lo + f.1.w ≤ g.1.lo ∨ g.1.lo + g.1.w ≤ f.1.lo)

/-- What a 32-bit write of `v` leaves in a field of the register at `off`, by the field's type (00 Table 0.4, R12, R13, R15, R16). -/
def FieldTakes (d e : Dev) (off v : Nat) (f : Fld) (ix : List Nat) : Prop :=
  let x := bitsOf v f.lo f.w
  match f.ty with
  | .rw => e.get f ix = if f.rsv.bad x then d.get f ix else x
  | .sh => e.get f ix = d.get f ix ∧
      bitsOf (e.shadowReg off).toNat f.lo f.w = if f.rsv.bad x then bitsOf (d.shadowReg off).toNat f.lo f.w else x
  | .w1c => e.get f ix = d.get f ix - (d.get f ix &&& x)
  | .roc => e.get f ix = d.get f ix - (d.get f ix &&& x)
  | .ro => e.get f ix = d.get f ix
  | .wo => True

/-- Entry T of the completion ring of queue `k` is written as 32 bytes and no other host byte changes; T advances (05 R169, R170). -/
def Posts (d e : Dev) (k st detail result flags : Nat) (words : List Word) : Prop :=
  let addr := d.get F.CQ_BASE_LO (qix k) * 2 ^ 12 + d.get F.CQ_BASE_HI (qix k) * 2 ^ 32 + 32 * (d.qT k % d.cqSize k)
  let bytes := bytesOfWords (d.entry k (d.qT k) st detail result flags words)
  bytes.length = 32 ∧ e.qT k = (d.qT k + 1) % 65536 ∧
  (∀ i < 32, Tab.get 0 e.hostMem (addr + i) = bytes.getD i 0) ∧
  (∀ a, a < addr ∨ addr + 32 ≤ a → Tab.get 0 e.hostMem a = Tab.get 0 d.hostMem a) ∧ e.mem = d.mem

/-- The warden takes requests: no safe stop, no RESYNC, and MGMT is awake (17 R615, R617, R622). -/
def WardenServes (d : Dev) : Prop :=
  Powered d ∧ d.get F.WARDEN_MODE ≠ 2 ∧ d.get F.WARDEN_MODE ≠ 3 ∧ d.domAsleep 8 = false

/-- The active set of partition `p` is what slot `sl` held. -/
def ActiveIs (d e : Dev) (p sl : Nat) : Prop := ∀ r < 29, e.actReg p (4 * r) = d.slotReg p sl (4 * r)

/-- What a power-on reset keeps (20 Table 20.1): nothing of the unit but its T-arrays; every register reads its reset value.
`off` is why the unit then stands still. -/
def AfterPowerReset (off : Nat) (d e : Dev) : Prop :=
  (∀ o, e.reg o = regDefault o) ∧
  (∀ k, 32 ≤ k / 65536 % 44 → Tab.get none e.scree.cells k = Tab.get none d.scree.cells k) ∧
  (∀ k, k / 65536 % 44 < 32 → k / 65536 / 44 / 16384 < 6 → Tab.get none e.scree.cells k = none) ∧
  e = { Dev.reset with
    free := d.free, hostMem := d.hostMem, hostPoison := d.hostPoison, scree := e.scree
    host := { HostIf.reset with sent := d.host.sent }
    pwr := { Pwr.reset with off := off, wakeIn := d.pwr.wakeIn }
    boot := { Boot.reset with plugged := d.boot.plugged, perst := d.boot.perst } }

/-- The error that stops bring-up, in the order of Table 20.5; 0: none (20 Tables 20.5, 20.6). -/
def bootErrOf (a : BringAns) : Nat :=
  if 2 ≤ a.boot % 4 then 6
  else if a.board = none then 1
  else if a.colRails = false then 2
  else if a.colA = false ∨ bitAt a.fusedOff 6 = true then 3
  else if bitAt a.wardenBad 0 ∨ bitAt a.wardenBad 1 then 4
  else if a.boot % 4 ≠ 1 ∧ a.firmware = none then 5 else 0

/-- Bring-up has stopped with a code: every rail but VCORE_COLA and VPHY is off, and Request Retry Status has ended (20 R722). -/
def BootStopped (code : Nat) (e : Dev) : Prop :=
  e.get F.BOOT_ERR = code ∧ (∀ r ∈ [0, 1, 2, 3, 4, 5, 6, 7, 9, 11], e.flag F.RAIL_ENABLED [r] = false) ∧ e.host.rrs = false

/-- The domain stands in state `st`, with no transition in flight, none pending and no floor. -/
def AtRest (d : Dev) (dom st : Nat) : Prop :=
  d.get F.DOM_STATE [dom] = st ∧ d.flag F.DOM_BUSY [dom] = false ∧ Tab.get none d.pwr.flight dom = none ∧
  d.get F.DOM_PENDING [dom] = 7

/-- A transition of the domain to `t` has begun, and the domain still stands where it stood. -/
def Moving (dom t : Nat) (d e : Dev) : Prop :=
  e.flag F.DOM_BUSY [dom] = true ∧ (Tab.get none e.pwr.flight dom).map (·.target) = some t ∧
  e.get F.DOM_STATE [dom] = d.get F.DOM_STATE [dom]

/-- A safe stop of this code has begun (17 R621, Table 17.4): counted, the mode, the record's number, every fabric port down, the
unit no master, its host told, and work held; no memory is touched. -/
def SafeStopBegun (code : Nat) (d e : Dev) : Prop :=
  e.get F.FAULT_COUNT [code] = min (d.get F.FAULT_COUNT [code] + 1) (2 ^ 32 - 1) ∧ e.get F.WARDEN_MODE = 2 ∧
  e.get F.SS_RECORD = d.get F.FAULT_HEAD ∧ e.warden.stop ≠ none ∧ (∀ n < 12, e.fabUp n = false) ∧ e.isMaster = false ∧
  e.host.errFatal = true ∧ e.hostShut = true ∧ e.workHeld = true ∧ e.mem = d.mem ∧ e.hostMem = d.hostMem

/-- Queue `k` runs the command `c` of this OP. -/
def RunsOp (d : Dev) (k op : Nat) (c : Cmd) : Prop :=
  Powered d ∧ queueOk k = true ∧ d.cmdOf k = some c ∧ c.phase = .running ∧ bitsOf (wordAt c.words 0) 0 8 = op

/-- The command of queue `k` has ended with a status and a detail, and no other queue has changed. -/
def EndedAs (k : Nat) (c : Cmd) (st detail : Nat) (d e : Dev) : Prop :=
  e.cmdOf k = some { c with phase := .ended st detail } ∧ ∀ j, j ≠ k → e.queue j = d.queue j

/-- A stop with this detail has reached queue `k`'s command `c`: with no chunk at an instance it is CANCELLED; else its chunks not yet
started are withdrawn and it goes on to the end of those that run, which no instance breaks off (07 R243, Table 7.3). -/
def StoppedBy (k : Nat) (c : Cmd) (detail : Nat) (d e : Dev) : Prop :=
  (∃ c', e.cmdOf k = some c' ∧ c'.words = c.words ∧ c'.out = c.out ∧ c'.flags = c.flags ∧
    (c.out = [] → c'.phase = .ended stCANCELLED detail) ∧
    (c.out ≠ [] → 0x20 ≤ c.opcode → c.phase = .running → c'.phase = .running ∧ c'.stop = some detail ∧ c'.todo = [])) ∧
  (∀ i, (Tab.get Engine.reset e.engines i).busy = (Tab.get Engine.reset d.engines i).busy) ∧
  (∀ j, j ≠ k → e.queue j = d.queue j) ∧ e = { d with queues := e.queues, engines := e.engines }

/-- What one chunk of a command on its instance does, and how it comes out (07 R239, R242): the engine's rules, on a die that the queue's
spur core reaches, from a unit with no sticky flag of its own. -/
def chunkWork (d : Dev) (k : Nat) (op : EngineOp) (c : Cmd) (i : Inst) (ch : Nat) (limit : Option Nat) : Except Stop Bool × Dev :=
  runAct (do needDie k i.die; op.chunk k c i ch limit) { d with flagAcc := 0, holdAcc := [] }

/-- The status with which a chunk failed, its trapped flags included (07 R242, R260). -/
def chunkFail (c : Cmd) (r : Except Stop Bool × Dev) : Option (Nat × Nat) :=
  match r.1 with
  | .error (.ended st detail) => some (st, detail)
  | _ => if r.2.flagAcc &&& c.trap ≠ 0 then some (stNUMERIC, dNUMERICTRAP) else none

/-- The chunks at an instance but this one. -/
def outBut (c : Cmd) (i : Inst) (ch : Nat) : List ChunkRun := c.out.filter fun x => !(x.chunk == ch && x.inst == i)

/-- Beside an instance and queue `k`, `e` is the unit `x`. -/
def OnlyChunk (i : Inst) (k : Nat) (x e : Dev) : Prop :=
  (∀ j, j ≠ k → e.queue j = x.queue j) ∧
  (∀ j, j ≠ i.key → Tab.get Engine.reset e.engines j = Tab.get Engine.reset x.engines j) ∧
  e = { x with queues := e.queues, engines := e.engines, parts := e.parts } ∧
  (∀ p, p ≠ k / 32 → e.part p = x.part p)

/-- Chunk `ch` of queue `k`'s command has begun, come to `r`, and ended on its idle instance, where `eng` are the accounts of the pick
that served it: its flags join the command's, a failing status or a trapped flag stops the dispatch of the rest, a chunk cut off is put
back among those to be dispatched, and its engine cycles are charged (07 R240 to R242, R260). -/
def ChunkRan (d : Dev) (k : Nat) (c : Cmd) (i : Inst) (ch cycles : Nat) (eng : Engine) (r : Except Stop Bool × Dev) (e : Dev) : Prop :=
  OnlyChunk i k r.2 e ∧ (Tab.get Engine.reset e.engines i.key).busy = none ∧
  Tab.get 0 (Tab.get Engine.reset e.engines i.key).used (k / 32) = Tab.get 0 eng.used (k / 32) + cycles ∧
  ∀ c1, r.2.cmdOf k = some c1 → c1.words = c.words → c1.stop = none →
    let todo := c1.todo.erase ch
    e.cmdOf k = some { c1 with
      asg := d.assignment k c, out := outBut c1 i ch, flags := c1.flags ||| r.2.flagAcc
      fail := match chunkFail c r with
        | some f => some (c1.fail.getD f)
        | none => c1.fail
      todo := match chunkFail c r, r.1 with
        | some _, _ => []
        | none, .ok false => if c1.fail.isNone then insertAsc ch todo else todo
        | none, _ => todo }

/-- A split command's next chunk `ch` may run: its instance is idle, and its round-robin serves this queue, with these accounts. -/
def ChunkMayRun (d : Dev) (k : Nat) (c : Cmd) (ch : Nat) (eng : Engine) : Prop :=
  let i := d.instOf k c ch
  c.ready = true ∧ c.stop = none ∧ c.todo.head? = some ch ∧ d.workHeld = false ∧
  (Tab.get Engine.reset d.engines i.key).busy = none ∧ d.pick i (d.readyQueues i) (d.readyQueues i) = some (eng, k)

/-- The end of the chunk `b` that instance `i` runs, for the command `c` it belongs to: `c'` is that command afterwards (07 R240, R242,
R243, R260). -/
def ChunkEnds (i : Inst) (b : Busy) (c c' : Cmd) : Prop :=
  let fail := match b.fail with
    | some f => some f
    | none => if b.flags &&& c.trap ≠ 0 then some (stNUMERIC, dNUMERICTRAP) else none
  let left := outBut c i b.chunk
  c' = { c with
    out := left, flags := c.flags ||| b.flags
    fail := match fail with
      | some f => some (c.fail.getD f)
      | none => c.fail
    todo := if fail.isSome then [] else if b.cut ∧ c.fail = none ∧ c.stop = none then insertAsc b.chunk c.todo else c.todo
    phase := match c.stop with
      | some detail => if left = [] ∧ fail = none ∧ c.fail = none then .ended stCANCELLED detail else c.phase
      | none => c.phase }

/-- The instruction at the PC of a core, as its instruction port returns it now (13 R481). -/
def Machine.Dev.nextRi (d : Dev) (key : Nat) : Ri := (d.core key).current key (d.staleChoice (d.core key)).1

/-- The address behind that instruction. -/
def Machine.Dev.nextPc (d : Dev) (key : Nat) : Nat := ((d.core key).pc + (d.nextRi key).len) % pmWords (isLane key)

/-- The core as that instruction issues: time has passed to its cycle, and multiplier results due by then have landed. -/
def Machine.Dev.atIssue (d : Dev) (key : Nat) : Core :=
  let c := d.core key
  let i := d.nextRi key
  ({ (c.reach (c.issue (isLane key) i).1).settle with entry := none, halted := false }).capture (isLane key) (d.staleChoice c).1 i

/-- The core works, may issue, is in no repetition, and its next instruction is of this operation. -/
def Issues (d : Dev) (key : Nat) (op : Rop) : Prop :=
  Powered d ∧ d.coreOn key = true ∧ (d.core key).runs = true ∧ (d.core key).rep = 0 ∧ (d.core key).inRep = false ∧
  (d.nextRi key).op = op

/-- Such an instruction whose condition or guard holds (13 R461, R462). -/
def Does (d : Dev) (key : Nat) (op : Rop) : Prop :=
  Issues d key op ∧ (d.atIssue key).holds (isLane key) (d.nextRi key) = true

/-- Nothing but this core changed, and the model's count of free values drawn. -/
def OnlyCore (key : Nat) (d e : Dev) : Prop :=
  e = { d with cores := e.cores, free := e.free } ∧ ∀ k, k ≠ key → e.core k = d.core k

/-- The core `c` is the core `c1` as it issued but for G, ST, the PC and the notes on timing. -/
def OnlyGSt (next : Nat) (c1 c : Core) : Prop :=
  c = { c1 with g := c.g, st := c.st, pc := next, hist := c.hist, free := c.free, slot := c.slot }

/-- Flag `i` of ST. -/
def StBit (c : Core) (i : Nat) : Bool := c.st.getLsbD i

/-- The core `c` is as it issued but for program flow: the PC, the loop buffer, the decode window and the notes on timing. -/
def OnlyFlow (c1 c : Core) : Prop :=
  c = { c1 with
    pc := c.pc, loop := c.loop, winEnd := c.winEnd, winCyc := c.winCyc, free := c.free, slot := c.slot, hist := c.hist }

/-- The core has room for a trap frame in its data memory: SP aligned, and SP − 8 not below SLIM − 16 (13 R471, R475). -/
def HasFrame (c : Core) : Prop :=
  let sp := (c.bNow 3).toNat
  sp % 4 = 0 ∧ 8 ≤ sp ∧ sp ≤ 0x10000 ∧ (c.syncCtl.ctlAt 2).toNat - 16 ≤ sp - 8 ∧ ∀ x ∈ c.pend, x.1 ≠ 12 ∧ x.1 ≠ 13

/-- A spur core or the warden has pushed a frame of `saved` and the status `st` and gone to a vector (13 R475, Table 13.13). -/
def FramePushed (vec saved : Nat) (st : Word) (c0 c : Core) : Prop :=
  let sp := (c0.bNow 3).toNat
  c.pc = ((c0.syncCtl.ctlAt 3).toNat + 2 * vec) % 16384 ∧ (c.bNow 3).toNat = sp - 8 ∧
  c.loadNear (sp - 4) 4 = st.toNat ∧ c.loadNear (sp - 8) 4 = saved % 2 ^ 32 ∧
  (∀ a, ¬(sp - 8 ≤ a ∧ a < sp) → Tab.get 0 c.dmem a = Tab.get 0 c0.dmem a) ∧ c.rep = 0 ∧ c.inRep = false ∧
  c.g = c0.g ∧ c.lc = c0.lc ∧ c.p = c0.p ∧ (∀ n < 3, c.bNow n = c0.bNow n) ∧ c.pmem = c0.pmem ∧ c.stopped = c0.stopped

/-- A precise trap of the core `c0` (13 R475, R478; 14 R508): on a spur core or the warden the frame is pushed, XCAUSE holds the vector
and XADDR the data address, if any; a lane core's invocation ends trapped. -/
def TrappedFrom (c0 : Core) (key vec saved : Nat) (xaddr : Option Nat) (d e : Dev) : Prop :=
  let c := e.core key
  c.ctlAt 13 = BitVec.ofNat 32 (2 * vec) ∧ (∀ a, xaddr = some a → c.ctlAt 12 = BitVec.ofNat 32 a) ∧ e.mem = d.mem ∧
  (∀ k, k ≠ key → e.core k = d.core k) ∧
  (isLane key = true → c.stopped = true ∧ c.done = 2 ∧ c.dmem = c0.dmem ∧ c.g = c0.g) ∧
  (isLane key = false → FramePushed vec saved c0.frameSt c0 c ∧ c.st = c0.st ∧ OnlyCore key d e)

/-- A precise trap of the core's next instruction. -/
def Trapped (key vec saved : Nat) (xaddr : Option Nat) (d e : Dev) : Prop := TrappedFrom (d.atIssue key) key vec saved xaddr d e

/-- Port `n` of `e` is as in `d` but for LINK flits `m` it has sent; the other ports are as they were. -/
def LinkTalk (n : Nat) (m : List LinkMsg) (d e : Dev) : Prop :=
  e.link n = { d.link n with out := (d.link n).out ++ m } ∧ ∀ k, k ≠ n → e.link k = d.link k

/-- The credit that goes back when the input buffer of a flit is free again (16 R565). -/
def creditBack (d : Dev) (n : Nat) (f : Flit) : List LinkMsg :=
  if d.encapPort n then [] else [.credit [(pairOf f.cls (f.vc % 2), 1)] 0]

/-- The commands of messages that a test names, where nothing failed yet, have failed with FAULT and `detail` (16 R577, R601). -/
def CommandsFail (p : OutMsg → Bool) (detail : Nat) (d e : Dev) : Prop :=
  ∀ m ∈ d.fab.outMsgs, p m = true → m.mute = false → ∀ c, d.cmdOf m.queue = some c → c.fail = none →
    ∃ c', e.cmdOf m.queue = some c' ∧ c'.fail = some (stFAULT, detail)

/-- Messages of this unit that a test names have ended: forgotten, and their commands fail. -/
def MessagesEnd (p : OutMsg → Bool) (detail : Nat) (d e : Dev) : Prop :=
  e.fab.outMsgs = d.fab.outMsgs.filter (fun m => !p m) ∧ CommandsFail p detail d e

/-- Fabric port `n` has gone DOWN: its buffers are empty, and messages of this unit that left on it have ended (16 Table 16.4,
R601). -/
def PortDown (n : Nat) (d e : Dev) : Prop :=
  e.get F.PORT_STATE (fix n) = 0 ∧ e.get F.PORT_LOCKED (fix n) = 0 ∧ (e.link n).replay = [] ∧ (e.link n).waiting = [] ∧
  (e.link n).credits = [] ∧ (∀ m, m ≠ n → e.link m = d.link m) ∧ (d.get F.PORT_STATE (fix n) ≠ 0 → e.get F.FAB_PORT_DOWN = 1) ∧
  e.fab.inMsgs = d.fab.inMsgs.filter (fun m => m.port != n) ∧ e.fab.inject = d.fab.inject ∧ e.mem = d.mem ∧ e.cad = d.cad

/-- A flit that arrives at an UP port with a sound CRC and a KIND and CLASS of Table 16.3. -/
def FlitTaken (d : Dev) (n : Nat) (f : Flit) : Prop :=
  Powered d ∧ n < 12 ∧ d.get F.PORT_STATE (fix n) = 3 ∧ f.crcOk = true ∧ f.wellKind = true ∧ f.kind ≠ 0

/-- Such a flit, for this unit, with none held back before it. -/
def ForUs (d : Dev) (n : Nat) (f : Flit) : Prop :=
  FlitTaken d n f ∧ d.get F.CHAIN_ADDR ≠ 0 ∧ f.dst = d.ident ∧ d.fab.heldIn = []

/-- The unit with the flit's receipt acknowledged on its link. -/
def heardOn (d : Dev) (n : Nat) : Dev := d.linkOut n (.credit [] 1)

/-- The flit has left its buffer: what `s` is, with `l` injected and the credit returned. -/
def Answered (n : Nat) (f : Flit) (l : List Flit) (s e : Dev) : Prop :=
  e.fab.inject = s.fab.inject ++ l ∧ LinkTalk n (creditBack s n f) s e ∧
  e = { s with fab := { s.fab with inject := e.fab.inject, links := e.fab.links, inMsgs := e.fab.inMsgs } }

/-- The ACK of a message. -/
def ackFlit (s : Dev) (f : Flit) (status : Nat) : Flit :=
  s.ownFlit f.src f.srcPart 3 4 f.dstPart f.msg [BitVec.ofNat 32 status]

/-! An encoder of Ridge instructions, written from 13 Tables 13.6 to 13.12. -/

/-- The commands that act on a unit without power or in reset: its power-on reset, bring-up, PERST_N and the supply's return. -/
def StartsUnit (c : Instr) : Prop := c = .powerOnReset ∨ c = .perstNRelease ∨ c = .supplyRestart ∨ ∃ a, c = .bringup a

/-- A signed number as the low `n` bits of a word. -/
def lowBits (z : Int) (n : Nat) : Nat := (z % (2 ^ n : Nat)).toNat

/-- The body of a one-word ALU operation, of SUB and of the size codes. -/
def aluOp : Rop → Nat
  | .sub => 1 | .adc => 2 | .pset => 2 | .and => 3 | .or => 4 | .xor => 5 | .mov => 6 | .cmp => 7 | _ => 0

def longSub : Rop → Nat
  | .andx => 1 | .orx => 2 | .xorx => 3 | .cmpx => 4 | .movx => 5 | .movl => 6 | .tstx => 7 | .shv => 8 | .mulu => 9
  | .neg => 10 | .not => 11 | .sxtb => 12 | .sxth => 13 | .zxtb => 14 | .zxth => 15 | _ => 0

def controlOp : Rop → Nat
  | .call => 1 | .jmpr => 2 | .callr => 3 | .rep => 4 | .blc => 5 | .mfc => 6 | .mtc => 7 | _ => 0

def miscSub (i : Ri) : Nat :=
  match i.op with
  | .ret => 1 | .reti => 2 | .sync => 3 | .iflush => 4 | .halt => 5 | .brk => 6 | .trap => 8 + i.x
  | .guard => 0x10 + 8 * i.y + i.x | .pnot => 0x20 + i.x | .pclr => 0x28 + i.x | _ => 0

def stringOp : Rop → Nat
  | .fils => 1 | .scns => 2 | .macm => 3 | .macmu => 4 | _ => 0

def sizeCode (n : Nat) : Nat := if n = 1 then 0 else if n = 2 then 1 else 2

def shiftCode (z : Int) : Nat := ((List.range 8).find? fun k => (shiftCount k : Int) == z).getD 0

/-- The body [10:0] and the extension words of an instruction. -/
def Machine.Ri.body (lane : Bool) (i : Ri) : Nat × List Nat :=
  let n := wordBits lane
  match i.op with
  | .addi => (2 * 256 + i.x * 16 + lowBits i.z 4, [])
  | .movi => (2 * 256 + 128 + i.x * 16 + lowBits i.z 4, [])
  | .cmpi => (3 * 256 + i.x * 16 + lowBits i.z 4, [])
  | .addx | .andx | .orx | .xorx | .cmpx | .movx | .tstx => (3 * 256 + 128 + i.x * 16 + longSub i.op, [lowBits i.z n])
  | .movl =>
    let v := i.z.toNat
    (3 * 256 + 128 + i.x * 16 + 6, [v / 2 ^ (2 * n), v / 2 ^ n % 2 ^ n, v % 2 ^ n])
  | .shv => (3 * 256 + 128 + i.x * 16 + 8, [i.size * 2 ^ (n - 2) + i.y])
  | .mulu => (3 * 256 + 128 + i.x * 16 + 9, [i.y])
  | .neg | .not | .sxtb | .sxth | .zxtb | .zxth => (3 * 256 + 128 + i.x * 16 + longSub i.op, [])
  | .shl => (4 * 256 + i.x * 8 + shiftCode i.z, [])
  | .shr => (4 * 256 + 64 + i.x * 8 + shiftCode i.z, [])
  | .sar => (4 * 256 + 128 + i.x * 8 + shiftCode i.z, [])
  | .ror => (4 * 256 + 192 + i.x * 8 + shiftCode i.z, [])
  | .ld | .lds | .st | .lea =>
    let o := if i.op = .ld then 0 else if i.op = .lds then 1 else if i.op = .st then 2 else 3
    (5 * 256 + o * 64 + i.y * 16 + (if i.x < 8 then 2 * i.x else 2 * (i.x - 8) + 1),
      [sizeCode i.size * 2 ^ (n - 2) + lowBits (i.z / (i.size : Nat)) (n - 2)])
  | .br => (6 * 256 + lowBits i.z 7, [])
  | .jmp | .call => (6 * 256 + 128 + controlOp i.op * 8, [i.z.toNat])
  | .blc => (6 * 256 + 128 + 5 * 8, [lowBits i.z n])
  | .jmpr | .callr | .rep => (6 * 256 + 128 + controlOp i.op * 8 + i.x, [])
  | .mfc | .mtc => (6 * 256 + 128 + controlOp i.op * 8 + i.x, [i.y])
  | .nop | .ret | .reti | .sync | .iflush | .halt | .brk | .trap | .guard | .pnot | .pclr => (6 * 256 + 192 + miscSub i, [])
  | .mul => (7 * 256 + i.x * 8 + i.y, [])
  | .mac => (7 * 256 + 64 + i.x * 8 + i.y, [])
  | .rdm => (7 * 256 + 128 + i.y * 8 + i.x, [])
  | .wrm => (7 * 256 + 128 + 16 + i.y * 8 + i.x, [])
  | .movs | .fils | .scns | .macm | .macmu => (7 * 256 + 128 + 32 + stringOp i.op * 4 + sizeCode i.size, [])
  | .movb => (7 * 256 + 192 + i.y * 8 + i.x, [])
  | .movg => (7 * 256 + 192 + 32 + i.y * 8 + i.x, [])
  | _ => (aluOp i.op * 64 + i.x * 8 + i.y, [])

/-- The words of an instruction: condition (three bits) or guard bit above the body. -/
def Machine.Ri.encode (lane : Bool) (i : Ri) : List Nat :=
  let b := i.body lane
  (i.cond * 2 ^ 11 + b.1) :: b.2

/-- An instruction with every operand in its field's range and nothing in fields it has not. -/
def Machine.Ri.WellFormed (lane : Bool) (i : Ri) : Prop :=
  let n := wordBits lane
  let plain := i.y = 0 ∧ i.z = 0 ∧ i.size = 0 ∧ i.len = 1
  let signed := fun (w : Nat) => -(2 ^ (w - 1) : Nat) ≤ i.z ∧ i.z < (2 ^ (w - 1) : Nat)
  let none2 := i.y = 0 ∧ i.size = 0
  i.cond < (if lane then 2 else 8) ∧ i.x < (if i.op = .ld ∨ i.op = .st ∨ i.op = .lea then 12 else 8) ∧
  match i.op with
  | .add | .sub | .and | .or | .xor | .mov | .cmp | .mul | .mac => i.y < 8 ∧ i.z = 0 ∧ i.size = 0 ∧ i.len = 1
  | .adc => lane = false ∧ i.y < 8 ∧ i.z = 0 ∧ i.size = 0 ∧ i.len = 1
  | .pset => lane = true ∧ i.y < 8 ∧ i.z = 0 ∧ i.size = 0 ∧ i.len = 1
  | .addi | .movi | .cmpi => signed 4 ∧ none2 ∧ i.len = 1
  | .addx | .andx | .cmpx | .movx => signed n ∧ none2 ∧ i.len = 2
  | .orx | .xorx | .tstx => 0 ≤ i.z ∧ i.z < (2 ^ n : Nat) ∧ none2 ∧ i.len = 2
  | .movl => 0 ≤ i.z ∧ i.z < (2 ^ 32 : Nat) ∧ none2 ∧ i.len = 4
  | .shv => i.y < 8 ∧ i.z = 0 ∧ i.size < 4 ∧ i.len = 2
  | .mulu => i.y < 8 ∧ i.z = 0 ∧ i.size = 0 ∧ i.len = 2
  | .neg | .not | .sxtb | .sxth | .zxtb | .zxth | .jmpr | .callr | .rep => plain
  | .shl | .shr | .sar | .ror => (∃ k < 8, i.z = shiftCount k) ∧ none2 ∧ i.len = 1
  | .ld | .lds | .st | .lea =>
    i.y < 4 ∧ i.size ∈ [1, 2, 4] ∧ (8 ≤ i.x → i.size = 4) ∧ i.len = 2 ∧
    ∃ k : Int, i.z = k * (i.size : Nat) ∧ -(2 ^ (n - 3) : Nat) ≤ k ∧ k < (2 ^ (n - 3) : Nat)
  | .br => i.x = 0 ∧ signed 7 ∧ none2 ∧ i.len = 1
  | .jmp | .call => i.x = 0 ∧ 0 ≤ i.z ∧ i.z < (2 ^ n : Nat) ∧ none2 ∧ i.len = 2
  | .blc => i.x = 0 ∧ signed n ∧ none2 ∧ i.len = 2
  | .mfc | .mtc => i.y < 32 ∧ ctlDefined lane i.y = true ∧ i.z = 0 ∧ i.size = 0 ∧ i.len = 2
  | .nop | .ret | .reti | .sync | .iflush | .halt | .brk => i.x = 0 ∧ plain
  | .trap => plain
  | .pnot | .pclr => lane = true ∧ plain
  | .guard => lane = true ∧ i.y < 2 ∧ i.z = 0 ∧ i.size = 0 ∧ i.len = 1
  | .rdm | .wrm => i.y < 2 ∧ i.z = 0 ∧ i.size = 0 ∧ i.len = 1
  | .movs | .fils | .scns | .macm | .macmu => i.x = 0 ∧ i.y = 0 ∧ i.z = 0 ∧ i.size ∈ [1, 2, 4] ∧ i.len = 1
  | .movb | .movg => i.y < 4 ∧ i.z = 0 ∧ i.size = 0 ∧ i.len = 1
  | .reserved => False

/-- Fields of the cadence payloads within their widths (03 Tables 3.3, 3.4, R88). -/
def PosFits (p : Pos) : Prop := p.step < 2 ^ 48 ∧ p.phase < 16 ∧ p.tick < 2 ^ 20

/-- What every Ridge core keeps: P0 is 1, the PC is an address of program memory, reserved bits of ST are 0, no more far stores are
posted than it holds, and a lane core waits for no far load (13 R456, R457, R459, Table 13.3; 14 R500). -/
def CoreOk (key : Nat) (c : Core) : Prop :=
  bitAt c.p 0 = true ∧ c.pc < pmWords (isLane key) ∧ c.st &&& ~~~stMask (isLane key) = 0 ∧ c.posted.length ≤ maxPosted ∧
  (isLane key = true → c.farLoad = none)

/-- An instruction row of a core, or an event of it within the unit; a string row with its limit of elements. -/
def CoreRow (key m levels b : Nat) (c : Instr) : Prop :=
  c ∈ ([.add key, .sub key, .adc key, .pset key, .andI key, .orI key, .xorI key, .mov key, .cmp key, .addi key, .movi key, .cmpi key,
    .addx key, .andx key, .orx key, .xorx key, .cmpx key, .movx key, .movl key, .tstx key, .shv key, .mulu key, .neg key,
    .notI key, .sxtb key, .sxth key, .zxtb key, .zxth key, .shl key, .shr key, .sar key, .ror key] : List Instr) ∨
  c ∈ ([.ld key, .lds key, .st key, .lea key, .br key, .jmp key, .call key, .jmpr key, .callr key, .rep key, .blc key, .mfc key,
    .mtc key, .ridgeNop key, .ret key, .reti key, .sync key, .iflush key, .halt key, .brk key, .trap key, .mul key, .mac key,
    .rdm key, .wrm key, .movb key, .movg key, .guard key, .pnot key, .pclr key, .reservedEncoding key] : List Instr) ∨
  c ∈ ([.movs key m, .fils key m, .scns key m, .macm key m, .macmu key m] : List Instr) ∨
  c ∈ ([.interruptEntry key levels, .interruptTakeover key levels b, .impreciseTrap key, .timer key, .laneStop key, .kernelLimit key] : List Instr)

end Sys2Proof
end

