-- ==== Sys2Proof/Certificates/Slice0/Obligations.lean ====
section
/-! DEFINITION. The statements for the provers. -/

open Sys2Proof Sys2Proof.Machine

/-- TICK_TIMER_EXPIRY and CADIN_EDGE (03 R68, R73, R84): a master that is not handing over issues the tick that follows the
last one it issued: the next tick of the phase or, at the end tick, tick 0 of the next phase with that phase's DEADLINE; its
own application falls due LEAD later. It names its epoch and identity, and no delay. CADIN_EDGE and CARD_LOST (03 R92): a
card master that follows the strobe sets CARD_LOST when it goes missing; the 16th consecutive edge within tolerance clears
it and issues no tick, and an edge outside begins the count again. The 16th edge's silence is the model's choice (log 118). -/
def Obligations.CadenceMasterTick : Prop :=
  (
  ∀ (d : Dev) (i : TickMsg), Powered d → d.isMaster = true → d.cad.handing = false → d.cad.resign = false →
    d.cad.taking = none → d.cad.issued = some i →
    ¬(i.endT ≤ i.pos.tick + 1 ∧ 2 ^ 48 - 1 ≤ i.pos.step ∧ d.get F.PHASE_LAST ≤ i.pos.phase) →
    let inPhase := decide (i.pos.tick + 1 < i.endT)
    let pos : Pos :=
      if inPhase then ⟨i.pos.step, i.pos.phase, i.pos.tick + 1⟩
      else if d.get F.PHASE_LAST ≤ i.pos.phase then ⟨i.pos.step + 1, 0, 0⟩
      else ⟨i.pos.step, i.pos.phase + 1, 0⟩
    let m := fun (card : Bool) => ({
      epoch := d.get F.EPOCH, pos := pos, adv := !inPhase, reason := if inPhase then 0 else if d.cad.early then 1 else 2
      fromCard := card, endT := if inPhase then i.endT else d.get F.DEADLINE [pos.phase], delay := 0, lead := d.get F.CAD_LEAD
      master := d.ident } : TickMsg)
    let effect := fun (card : Bool) (e : Dev) =>
      e.cad = { d.cad with
        issued := some (m card), due := dueInsert (d.cycle + d.get F.CAD_LEAD, m card) d.cad.due, deadT := e.cad.deadT
        early := e.cad.early } ∧
      OnlyCad d e ∧ e.regs = d.regs
    (d.onStrobe = false → Gives .tickTimerExpiry d (effect false)) ∧
    (d.flag F.CARD = true → d.flag F.CARD_LOST = false → ∀ b, Gives (.cadinEdge b) d (effect true))) ∧
  (
  ∀ d : Dev, Powered d → d.isMaster = true → d.flag F.CARD = true →
    (d.flag F.CARD_LOST = false → Gives .cardLost d fun e =>
      e.get F.CARD_LOST = 1 ∧ OnlyFields [(F.CARD_LOST, [])] d e ∧
      e = { d with regs := e.regs, cad := { d.cad with cardEdges := 0 } }) ∧
    (d.flag F.CARD_LOST = true →
      (15 ≤ d.cad.cardEdges → Gives (.cadinEdge true) d fun e =>
        e.get F.CARD_LOST = 0 ∧ OnlyFields [(F.CARD_LOST, [])] d e ∧
        e = { d with regs := e.regs, cad := { d.cad with cardEdges := 0 } }) ∧
      (d.cad.cardEdges < 15 → Gives (.cadinEdge true) d fun e =>
        e = { d with cad := { d.cad with cardEdges := d.cad.cardEdges + 1 } }) ∧
      Gives (.cadinEdge false) d fun e => e = { d with cad := { d.cad with cardEdges := 0 } }))

/-- TICK (03 R76, R77, R87, R110): a TICK of the unit's epoch, on a joined unit that is not the master and has not lost the
cadence, falls due LEAD less DELAY later; DELAY_NOW takes its DELAY, DELAY_MAX the largest. A TICK of an older epoch changes
no register and none of the cadence state (how a link's delay enters DELAY is read in log 23). TICK_APPLY and FREE_RUN_TICK (03 R70, R76,
R79, R92): the TICK that falls due first moves the applied position to its own, with its end tick, when it lies beyond the applied position and is of no older epoch;
else the position stays. A free-run tick moves the position one tick on within the phase and never to the next phase. -/
def Obligations.CadenceTickReceived : Prop :=
  (
  ∀ (d : Dev) (port : Nat) (f : Frame) (link stay : Nat), Powered d → Arrives d (port % 2) tyTick f → d.cad.seen = true →
    let m := tickIn f link
    (m.epoch = d.get F.EPOCH → d.isMaster = false → d.cad.joined = true → d.flag F.CAD_LOST = false → m.delay < m.lead →
      Gives (.tick port f link stay) d fun e =>
        e.cad = { d.cad with master := some m.master, due := dueInsert (d.cycle + m.lead - m.delay, m) d.cad.due } ∧
        e.get F.DELAY_NOW = m.delay ∧ e.get F.DELAY_MAX = max (d.get F.DELAY_MAX) m.delay ∧
        OnlyFields [(F.DELAY_NOW, []), (F.DELAY_MAX, [])] d e ∧ OnlyCad d e) ∧
    (m.epoch ≠ d.get F.EPOCH → epochNewer m.epoch (d.get F.EPOCH) = false →
      Gives (.tick port f link stay) d fun e => OnlyTalk d e ∧ e.regs = d.regs)) ∧
  (
  (∀ (d : Dev) (c : Nat) (m : TickMsg) (l : List (Nat × TickMsg)), Powered d → d.cad.due = (c, m) :: l →
    m.pos.step < 2 ^ 48 → m.pos.phase < 16 → m.pos.tick < 2 ^ 20 → m.endT < 2 ^ 20 →
    ((d.cad.joined = false ∨ (Pos.lt d.pos m.pos = true ∧ epochNewer d.cad.appliedEpoch m.epoch = false)) →
      Gives .tickApply d fun e => e.pos = m.pos ∧ e.get F.POS_END = m.endT ∧ e.cad.joined = true ∧
        e.cad.appliedEpoch = m.epoch ∧ e.cad.due = l ∧ e.get64 F.TICK_STAMP_LO F.TICK_STAMP_HI = d.cycle % 2 ^ 64 ∧
        e.mem = d.mem ∧ e.hostMem = d.hostMem) ∧
    (d.cad.joined = true → (Pos.lt d.pos m.pos = false ∨ epochNewer d.cad.appliedEpoch m.epoch = true) →
      Gives .tickApply d fun e => e = { d with cad := { d.cad with due := l } })) ∧
  (∀ d : Dev, Powered d → d.cad.joined = true → d.flag F.FREE_RUN = true →
    (d.pos.tick + 1 < d.get F.POS_END → Gives .freeRunTick d fun e =>
      e.pos = { d.pos with tick := d.pos.tick + 1 } ∧ e.get F.POS_END = d.get F.POS_END ∧
      e.cad.appliedEpoch = d.cad.appliedEpoch ∧ e.mem = d.mem ∧ e.hostMem = d.hostMem) ∧
    (d.get F.POS_END ≤ d.pos.tick + 1 → Gives .freeRunTick d fun e => e = d)))

/-- VOTE_WRITE (03 R80): on a joined unit a write records a vote for every participating partition it names, and no other; it
changes no other register. VOTE, JOIN and LEAVE (03 R82, R83): a VOTE of another step, phase or epoch is counted as stale and
has no other effect; a unit's VOTE of this one is recorded once by the chain source of its chain; a JOIN or LEAVE that names
a phase not later than the applied one changes the chain source's count at once, and one that names a later phase waits for
it. That such a change waits in a list, and that a LEVEL 0 VOTE beside a tick the master has issued since is stale, are readings (log 25;
03 R107). -/
def Obligations.CadenceVoteWrite : Prop :=
  (
  ∀ (d : Dev) (mask : Nat), Powered d → Gives (.voteWrite mask) d fun e =>
    (∀ p < 64, bitAt e.votes p = (bitAt d.votes p || (d.cad.joined && bitAt mask p && bitAt d.cad.partMask p))) ∧
    OnlyFields [(F.VOTE_LO, []), (F.VOTE_HI, [])] d e ∧ OnlyCad d e) ∧
  (
  ∀ (d : Dev) (port : Nat) (f : Frame), Powered d →
    let m := VoteMsg.ofWords f.data
    let now := m.epoch = d.cad.appliedEpoch ∧ m.step = d.pos.step ∧ m.phase = d.pos.phase ∧ d.cad.joined = true
    (Arrives d (port % 2) tyVote f →
      (¬now → Gives (.vote port f) d fun e =>
        e.get F.VOTE_STALE_COUNT = min (d.get F.VOTE_STALE_COUNT + 1) (2 ^ 32 - 1) ∧
        OnlyFields [(F.VOTE_STALE_COUNT, [])] d e ∧ OnlyTalk d e) ∧
      -- a VOTE of the phase still issued; a master that has issued another phase counts it as stale
      let issued := d.isMaster = true → d.cad.issued.map (fun i => (i.pos.step, i.pos.phase)) = some (m.step, m.phase)
      (now → ¬issued → m.level = 0 → Gives (.vote port f) d fun e =>
        e.get F.VOTE_STALE_COUNT = min (d.get F.VOTE_STALE_COUNT + 1) (2 ^ 32 - 1) ∧
        OnlyFields [(F.VOTE_STALE_COUNT, [])] d e ∧ OnlyTalk d e) ∧
      (now → issued → m.level = 0 → d.chainSource = true → m.source / 128 = d.get F.CHAIN_ADDR_ID → Gives (.vote port f) d fun e =>
        e.cad.unitVotes = (if m.source % 128 ∈ d.cad.unitVotes then d.cad.unitVotes else d.cad.unitVotes ++ [m.source % 128]) ∧
        e.regs = d.regs ∧ OnlyCad d e)) ∧
    (d.chainSource = true → m.level = 0 → m.source / 128 = d.get F.CHAIN_ADDR_ID → epochNewer (d.get F.EPOCH) m.epoch = false →
      let later := Pos.lt ⟨d.pos.step, d.pos.phase, 0⟩ ⟨m.step, m.phase, 0⟩
      let waits := fun (join : Bool) (e : Dev) =>
        e.cad = { d.cad with later := d.cad.later ++ [⟨join, 0, m.source % 128, m.step, m.phase⟩] } ∧ e.regs = d.regs ∧ OnlyCad d e
      (Arrives d (port % 2) tyJoin f →
        (later = true → Gives (.join port f) d (waits true)) ∧
        (later = false → Gives (.join port f) d fun e =>
          e.cad.unitPart = (if m.source % 128 ∈ d.cad.unitPart then d.cad.unitPart else d.cad.unitPart ++ [m.source % 128]) ∧
          e.cad.later = d.cad.later ∧ e.regs = d.regs ∧ OnlyCad d e)) ∧
      (Arrives d (port % 2) tyLeave f →
        (later = true → Gives (.leave port f) d (waits false)) ∧
        (later = false → Gives (.leave port f) d fun e =>
          e.cad.unitPart = d.cad.unitPart.erase (m.source % 128) ∧ e.cad.later = d.cad.later ∧ e.regs = d.regs ∧ OnlyCad d e))))

/-- CAD_LOST (03 R92): a joined unit that is not the master declares loss: CAD_LOST and FREE_RUN set, LOCKED clear, the TICKs
received and not applied dropped, LOST_EV set, and the bid window opens. CLEAR_LOST (21 R752) ends free running. RUN, RESIGN,
HANDOVER and HANDOVER_FAIL (21 R751, R752; 03 R91): RUN cleared on the master ends its role; RESIGN on the master asks for
the hand-over; a candidate named by a HANDOVER that is of no older epoch becomes master in the next epoch; a hand-over that
fails sets HANDOVER_FAIL and the master goes on. How the successor finds the early end announced is the model's choice (log 118). -/
def Obligations.CadenceLoss : Prop :=
  (
  (∀ d : Dev, Powered d → d.cad.joined = true → d.isMaster = false → d.flag F.CAD_LOST = false → Gives .cadLost d fun e =>
    e.get F.CAD_LOST = 1 ∧ e.get F.FREE_RUN = 1 ∧ e.get F.LOCKED = 0 ∧ e.get F.LOST_EV = 1 ∧ e.cad.due = [] ∧
    e.cad.win.isOpen = true ∧ (d.mayBid = true → e.get F.CAD_ROLE_NOW = roleBidding) ∧ e.pos = d.pos ∧
    e.mem = d.mem ∧ e.hostMem = d.hostMem) ∧
  (∀ d : Dev, Powered d → d.flag F.FREE_RUN = true → Gives .clearLost d fun e =>
    e.get F.FREE_RUN = 0 ∧ OnlyFields [(F.FREE_RUN, [])] d e ∧ OnlyRegs d e)) ∧
  (
  (∀ (d : Dev) (on : Bool), Powered d → Gives (.run on) d fun e =>
    e.get F.RUN = b2n on ∧ (on = false → d.isMaster = true → e.get F.CAD_ROLE_NOW = d.restRole ∧ e.cad.issued = none) ∧
    OnlyFields [(F.RUN, []), (F.CAD_ROLE_NOW, [])] d e ∧ OnlyCad d e) ∧
  (∀ d : Dev, Powered d → d.isMaster = true → Gives .resign d fun e =>
    e = { d with cad := { d.cad with resign := true } }) ∧
  (∀ (d : Dev) (port : Nat) (f : Frame), Powered d → Arrives d (port % 2) tyHandover f → d.mayBid = true → d.isMaster = false →
    let m := TickMsg.ofWords f.data
    m.master = d.ident → (d.cad.seen = true → epochNewer (d.get F.EPOCH) m.epoch = false) → Gives (.handover port f) d fun e =>
      e.get F.CAD_ROLE_NOW = roleMaster ∧ e.get F.EPOCH = (m.epoch + 1) % 2 ^ 16 ∧ e.cad.master = some d.ident ∧
      e.cad.win.isOpen = false ∧ OnlyFields [(F.CAD_ROLE_NOW, []), (F.EPOCH, [])] d e ∧ OnlyCad d e) ∧
  (∀ d : Dev, Powered d → d.isMaster = true → d.cad.handing = true → Gives .handoverFail d fun e =>
    e.get F.HANDOVER_FAIL = 1 ∧ e.cad = { d.cad with handing := false } ∧
    OnlyFields [(F.HANDOVER_FAIL, [])] d e ∧ OnlyCad d e))

/-- BID, BID_TIMER, ELECTION_START and BID_WINDOW_END (03 R88 to R90, Table 3.5): an open window keeps the lowest bid, and a
bidder that hears a lower one stops bidding; a new window bids when the unit may; at its end the unit whose own bid is the
lowest becomes master with the epoch after the newest seen; a window without bids sets NO_MASTER and opens again, and
so does one whose only bid, this unit's own, has been withdrawn; any other end closes it. The last two are the model's choices (log 118),
and how BIDs share a TICK_PERIOD is read in log 31. -/
def Obligations.CadenceElection : Prop :=
  (∀ (d : Dev) (port : Nat) (f : Frame), Powered d → Arrives d (port % 2) tyBid f → d.cad.win.isOpen = true →
    let m := BidMsg.ofWords f.data
    Gives (.bid port f) d fun e =>
      e.cad.win.best = some (match d.cad.win.best with
        | some b => if bidLower (m.prio, m.ident) b then (m.prio, m.ident) else b
        | none => (m.prio, m.ident)) ∧
      (d.cad.win.bidding = true → bidLower (m.prio, m.ident) (d.ownBid.prio, d.ident) = true →
        e.cad.win.bidding = false ∧ e.get F.CAD_ROLE_NOW = d.restRole) ∧
      OnlyFields [(F.CAD_ROLE_NOW, []), (F.BID_FILTER_COUNT, [])] d e ∧ e.mem = d.mem) ∧
  (∀ d : Dev, Powered d → d.bidsNow = true → Gives .bidTimer d fun e =>
    e.get F.CAD_ROLE_NOW = roleBidding ∧ e.cad.win.bidding = true ∧
    e.cad.win.best = some (match d.cad.win.best with
      | some b => if bidLower (d.ownBid.prio, d.ident) b then (d.ownBid.prio, d.ident) else b
      | none => (d.ownBid.prio, d.ident)) ∧
    OnlyFields [(F.CAD_ROLE_NOW, []), (F.BID_FILTER_COUNT, [])] d e ∧ e.mem = d.mem) ∧
  (∀ d : Dev, Powered d → d.bidsNow = false → Gives .bidTimer d fun e =>
    e.chain.bidNext = none ∧ e.cad = d.cad ∧ OnlyFields [(F.BID_FILTER_COUNT, [])] d e ∧ OnlyChain d e) ∧
  (∀ d : Dev, Powered d → d.mayBid = true → d.cad.seen = false → d.cad.win.isOpen = false → Gives .electionStart d fun e =>
    e.get F.CAD_ROLE_NOW = roleBidding ∧ e.cad.win.isOpen = true ∧ e.cad.win.bidding = true ∧
    e.cad.win.best = some (d.ownBid.prio, d.ident) ∧
    OnlyFields [(F.CAD_ROLE_NOW, []), (F.BID_FILTER_COUNT, [])] d e ∧ e.mem = d.mem) ∧
  (∀ d : Dev, Powered d → d.cad.win.isOpen = true →
    (∀ b, d.cad.win.best = some b → d.cad.win.bidding = true → b = (d.ownBid.prio, d.ident) → Gives .bidWindowEnd d fun e =>
      e.get F.CAD_ROLE_NOW = roleMaster ∧ e.get F.NO_MASTER = 0 ∧ e.cad.win.isOpen = false ∧ e.cad.master = some d.ident ∧
      (d.cad.seen = true → d.cad.win.epoch = none → e.get F.EPOCH = (d.get F.EPOCH + 1) % 2 ^ 16) ∧
      OnlyFields [(F.CAD_ROLE_NOW, []), (F.NO_MASTER, []), (F.EPOCH, [])] d e ∧ OnlyCad d e) ∧
    (d.cad.win.best = none → Gives .bidWindowEnd d fun e =>
      e.get F.NO_MASTER = 1 ∧ e.cad.win.isOpen = true ∧
      OnlyFields [(F.CAD_ROLE_NOW, []), (F.NO_MASTER, []), (F.BID_FILTER_COUNT, [])] d e ∧ e.mem = d.mem) ∧
    (∀ b, d.cad.win.best = some b → b.2 = d.ident → d.cad.win.bidding = false → Gives .bidWindowEnd d fun e =>
      e.get F.NO_MASTER = 1 ∧ e.cad.win.isOpen = true ∧
      OnlyFields [(F.CAD_ROLE_NOW, []), (F.NO_MASTER, []), (F.BID_FILTER_COUNT, [])] d e ∧ e.mem = d.mem) ∧
    (∀ b, d.cad.win.best = some b → b.2 ≠ d.ident → Gives .bidWindowEnd d fun e =>
      e.get F.NO_MASTER = 0 ∧ e.cad.win.isOpen = false ∧ OnlyFields [(F.NO_MASTER, [])] d e ∧ OnlyCad d e))

/-- ARM and DISARM (03 R94, R96, R98, R103): ARM copies the staging fields: refused with PROT in LAST and nothing else when
the action is not allowed; armed while the target lies ahead; dispatched at once as LATE when it is already applied. DISARM
makes an armed or idle alarm idle; the dispatch of one that has begun goes on and is marked to end in idle. That a dispatch holds a copy of
its own is read in log 29. -/
def Obligations.AlarmArmDisarm : Prop :=
  ∀ (d : Dev) (n : Nat), Powered d → n < 256 →
    let c := d.staged n
    let past := d.targetPast c.target
    (d.alarmAllowed c = false → Gives (.arm n) d fun e =>
      e.get F.AL_LAST [n] = stPROT ∧ OnlyFields [(F.AL_LAST, [n])] d e ∧ OnlyRegs d e) ∧
    (d.alarmAllowed c = true → past = false → Gives (.arm n) d fun e =>
      e.get F.AL_STATE [n] = 1 ∧ Tab.get none e.alarms n = some c ∧
      (∀ m, m ≠ n → Tab.get none e.alarms m = Tab.get none d.alarms m) ∧
      OnlyFields [(F.AL_STATE, [n])] d e ∧ e = { d with regs := e.regs, alarms := e.alarms }) ∧
    (d.alarmAllowed c = true → past = true → Gives (.arm n) d fun e =>
      e.get F.AL_STATE [n] = 2 ∧ Tab.get none e.alarms n = some c ∧ e.dispatch = d.dispatch ++ [⟨n, true, c, false⟩] ∧
      OnlyFields [(F.AL_STATE, [n])] d e ∧ e = { d with regs := e.regs, alarms := e.alarms, dispatch := e.dispatch }) ∧
    (d.get F.AL_STATE [n] ≠ 2 → Gives (.disarm n) d fun e =>
      e.get F.AL_STATE [n] = 0 ∧ Tab.get none e.alarms n = none ∧ e.dispatch = d.dispatch ∧
      OnlyFields [(F.AL_STATE, [n])] d e ∧ e = { d with regs := e.regs, alarms := e.alarms }) ∧
    (d.get F.AL_STATE [n] = 2 → Gives (.disarm n) d fun e =>
      Tab.get none e.alarms n = none ∧
      e = { d with
        alarms := e.alarms
        dispatch := d.dispatch.map fun x => if x.alarm = n then { x with cancelled := true } else x })

/-- ALARM_DISPATCH and ALARM_NONE (03 R101 to R103): an alarm without an action ends OK and changes nothing but its own
entry; with notify, or late, its bit in ALARM_EVENT is set; an alarm that does not repeat is idle afterwards, one that
repeats is armed for the next step when that still lies ahead. ALARM_DOORBELL, ALARM_INTERRUPT and ALARM_COMMIT (03 Table
3.7, 05 R174, 00 R13): the doorbell of a queue that is ENABLED and whose value is in range becomes its P; the interrupt of a
steward's alarm is sent as the PF's message of that vector, or held pending; a commit makes every active register of the
block equal to its shadow. Each ends OK; the doorbell of a queue slot the owner no longer has ends PROT and changes no queue. Which
slots count as held is read in log 117; vectors 8 to 15 are never raised (05 R188). -/
def Obligations.AlarmNone : Prop :=
  (
  ∀ (d : Dev) (x : Dispatch) (rest : List Dispatch), MayDispatch d x rest → x.copy.action = 0 →
    let n := x.alarm
    let next := { x.copy with step := x.copy.step + 1 }
    -- the alarm was not armed anew while it was dispatched
    let alone := Tab.get none d.alarms n = some x.copy ∧ d.get F.AL_STATE [n] = 2 ∧ ∀ y ∈ rest, y.alarm ≠ n
    let effect := fun (e : Dev) =>
      DispatchEnds x stOK d e ∧ e.dispatch.take rest.length = rest ∧
      (x.late = true ∨ x.copy.notify = true → bitAt (e.get F.ALARM_EVENT [n / 32]) (n % 32) = true) ∧
      (alone → x.copy.rep = false → e.get F.AL_STATE [n] = 0 ∧ Tab.get none e.alarms n = none) ∧
      (alone → x.copy.rep = true → x.cancelled = false → x.copy.step < 2 ^ 48 - 1 →
        Tab.get none e.alarms n = some next ∧ (d.targetPast next.target = false → e.get F.AL_STATE [n] = 1)) ∧
      OnlyFields [(F.AL_FIRED, [n]), (F.AL_LAST, [n]), (F.AL_STATE, [n]), (F.ALARM_EVENT, [n / 32])] d e ∧
      e.mem = d.mem ∧ e.hostMem = d.hostMem
    Gives .alarmNone d effect ∧ Gives .alarmDispatch d effect) ∧
  (
  ∀ (d : Dev) (x : Dispatch) (rest : List Dispatch), MayDispatch d x rest →
    let c := x.copy
    let k := c.queueKey
    let v := bitsOf c.arg 0 16
    (c.action = 1 → d.alarmHolds c = false → Gives .alarmDoorbell d fun e =>
        DispatchEnds x stPROT d e ∧ e.queues = d.queues ∧ e.mem = d.mem ∧ e.hostMem = d.hostMem) ∧
    (c.action = 1 → d.alarmHolds c = true → (d.queue k).enabling = false → d.qState k = qENABLED →
      (d.queue k).home = none → idxSub (d.qP k) (d.qH k) ≤ idxSub v (d.qH k) → idxSub v (d.qH k) ≤ d.sqSize k →
      k < 2048 → k % 32 < 20 → Gives .alarmDoorbell d fun e =>
        DispatchEnds x stOK d e ∧ e.qP k = v ∧ e.mem = d.mem ∧ e.hostMem = d.hostMem) ∧
    (c.action = 6 → c.devOwned = true → ¬(8 ≤ bitsOf c.arg 0 11 ∧ bitsOf c.arg 0 11 < 16) →
      let w := bitsOf c.arg 0 11
      let m := Tab.get Msix.reset d.host.pfTab w
      Gives .alarmInterrupt d fun e =>
        DispatchEnds x stOK d e ∧
        (if Tab.get false d.host.msixOn 0 = true ∧ m.ctrl.getLsbD 0 = false ∧ d.canMaster 0 = true then
          (⟨none, w, m.addrLo.toNat + 2 ^ 32 * m.addrHi.toNat, m.data.toNat, .plain 0⟩ : MsixMsg) ∈ e.host.sent
         else Tab.get false e.host.pfPba w = true) ∧ e.mem = d.mem ∧ e.hostMem = d.hostMem) ∧
    (c.action = 4 → bitsOf c.arg 0 16 = 0x40 → Gives .alarmCommit d fun e =>
      DispatchEnds x stOK d e ∧ (∀ o, shReg 0 o = true → e.reg o = d.shadowReg o) ∧ e.mem = d.mem ∧ e.hostMem = d.hostMem))

/-- ALARM_POWER, ALARM_RESHAPE and ALARM_FACE_SWAP (03 Table 3.7, R102): an action that is refused ends STATE, with FIRED
counted; a power request that is accepted starts the domain's transition; a reshape that is accepted copies the slot into the
partition's active set; a face swap turns the serving face of every group of its swap set and of no other; one whose group is held by
nobody ends PROT. That a POWER action's own domain is woken first is read in log 96, who holds a group in log 117. -/
def Obligations.AlarmStewardActions : Prop :=
  ∀ (d : Dev) (x : Dispatch) (rest : List Dispatch), MayDispatch d x rest →
    let c := x.copy
    let p := bitsOf c.arg 0 6
    (c.action = 3 → d.reqRefused (bitsOf c.arg 0 3) (bitsOf c.arg 8 8) = true → Gives .alarmPower d fun e =>
      DispatchEnds x stSTATE d e ∧ e.get F.DOM_REFUSED = 1 ∧ e.mem = d.mem ∧ e.hostMem = d.hostMem) ∧
    (c.action = 3 → bitsOf c.arg 0 3 = stRun → bitsOf c.arg 8 8 = 10 → Gives .alarmPower d fun e =>
      DispatchEnds x stOK d e ∧ e.mem = d.mem ∧ e.hostMem = d.hostMem) ∧
    (∀ cur, c.action = 3 → d.reqRefused (bitsOf c.arg 0 3) (bitsOf c.arg 8 8) = false → bitsOf c.arg 8 8 < 9 →
      AtRest d (bitsOf c.arg 8 8) cur → cur < stOff → cur ≠ bitsOf c.arg 0 3 →
      ¬(bitsOf c.arg 0 3 = stRun ∧ d.get F.DOM_FLOOR [bitsOf c.arg 8 8] = 1) → Gives .alarmPower d fun e =>
        DispatchEnds x stOK d e ∧ Moving (bitsOf c.arg 8 8) (bitsOf c.arg 0 3) d e ∧ e.mem = d.mem ∧ e.hostMem = d.hostMem) ∧
    (c.action = 5 →
      (∀ why, d.setCause p (d.slotReg p (bitsOf c.arg 8 4)) pENABLED = some why → Gives .alarmReshape d fun e =>
        DispatchEnds x stSTATE d e ∧ e.get F.P_CAUSE [p] = why % 8 ∧ e.mem = d.mem ∧ e.hostMem = d.hostMem) ∧
      (d.setCause p (d.slotReg p (bitsOf c.arg 8 4)) pENABLED = none → Gives .alarmReshape d fun e =>
        DispatchEnds x stOK d e ∧ (∀ r < 29, e.actReg p (4 * r) = d.slotReg p (bitsOf c.arg 8 4) (4 * r)) ∧
        e.mem = d.mem ∧ e.hostMem = d.hostMem)) ∧
    (c.action = 2 → d.alarmHolds c = true →
      let die := bitsOf c.arg 0 3
      let own := fun g =>
        if c.devOwned then d.groupOwner die g == d.groupOwner die (bitsOf c.arg 3 16)
        else d.owns ⟨c.owner, 0, 0, false⟩ ⟨4, die, g, 1⟩
      let swapped := d.swapSet own die (bitsOf c.arg 3 16) 16384
      swapped ≠ [] → Gives .alarmFaceSwap d fun e =>
        DispatchEnds x stOK d e ∧
        (∀ g < 16384, (e.group die g).servB = (if g ∈ swapped then !(d.group die g).servB else (d.group die g).servB)) ∧
        e.mem = d.mem ∧ e.hostMem = d.hostMem) ∧
    (c.action = 2 → d.alarmHolds c = false → Gives .alarmFaceSwap d fun e =>
      DispatchEnds x stPROT d e ∧ e.scree = d.scree ∧ e.mem = d.mem ∧ e.hostMem = d.hostMem)

/-- CHAIN_FRAME (04 R119 to R123): a frame whose CRC fails, whose format is wrong, or that has reached the hop limit is
dropped and counted, one each; any other frame of the primary path that is not for this unit goes on with HOPS one higher,
out of D, or out of U when D is wrapped, behind the frames of its rank; a frame that comes in at D of an unwrapped unit goes on out of U
(04 R133). A TICK that goes on carries a DELAY higher by its link and its stay (04 R148; the reading of log 23). -/
def Obligations.ChainForwarding : Prop :=
  ∀ (d : Dev) (port : Nat) (f : Frame) (link stay : Nat), Powered d →
    (f.crcOk = false → Gives (.chainFrame port ⟨f, link, stay⟩) d fun e =>
      e.get F.CRC_ERR_COUNT = min (d.get F.CRC_ERR_COUNT + 1) (2 ^ 32 - 1) ∧ OnlyFields [(F.CRC_ERR_COUNT, [])] d e ∧ OnlyRegs d e) ∧
    (f.crcOk = true → f.bad = true → Gives (.chainFrame port ⟨f, link, stay⟩) d fun e =>
      e.get F.FORMAT_ERR_COUNT = min (d.get F.FORMAT_ERR_COUNT + 1) (2 ^ 32 - 1) ∧
      OnlyFields [(F.FORMAT_ERR_COUNT, [])] d e ∧ OnlyRegs d e) ∧
    (f.crcOk = true → f.bad = false → f.typ ≠ tyRing → d.carries (port % 2) = true →
      (252 ≤ f.hops → Gives (.chainFrame port ⟨f, link, stay⟩) d fun e =>
        e.get F.ORPHAN_COUNT = min (d.get F.ORPHAN_COUNT + 1) (2 ^ 32 - 1) ∧ OnlyFields [(F.ORPHAN_COUNT, [])] d e ∧ OnlyRegs d e) ∧
      (f.hops < 252 → f.typ ≠ tyEnum → f.dst ≠ bcast → f.dst ≠ d.get F.CHAIN_ADDR → ¬(port % 2 = portD ∧ d.uUp = true) →
        let x : TxEnt := ⟨true, { f.delayed (link + stay) with hops := f.hops + 1 }⟩
        Gives (.chainFrame port ⟨f, link, stay⟩) d fun e =>
          e = { d with chain := { d.chain with
            txD := if d.dUp then txInsert x d.chain.txD else d.chain.txD
            txU := if !d.dUp && d.uUp then txInsert x d.chain.txU else d.chain.txU } }) ∧
      (f.hops < 252 → port % 2 = portD → d.uUp = true → Gives (.chainFrame port ⟨f, link, stay⟩) d fun e =>
        e = { d with chain := { d.chain with
          txU := txInsert ⟨true, { f.delayed (link + stay) with hops := f.hops + 1 }⟩ d.chain.txU } }))

/-- CHAIN_SIGNAL_DETECT, CHAIN_TRAIN_TIMEOUT, RING_HELLO, RING_UNWRAP, RING_BREAK and HELLO_TIMER (04 Table 4.5, R134, R135,
R153): signal takes a DOWN port to TRAIN, and 1 ms without lock back to DOWN, which BREAK_EV reports; a HELLO from the other letter takes a locked training
port to HOLDOFF and records the neighbour, one from the same letter sets the miswire flag; UNWRAP takes a U port from HOLDOFF
to DRAIN; BREAK changes nothing here; the hello timer queues a HELLO on a port in TRAIN or UP. CHAIN_LINK_DOWN,
HOLDOFF_EXPIRY and CHAIN_DRAIN_EXPIRY (04 R133, R134, R155): a port that loses its link is DOWN, its neighbour record is no
longer valid, and the break is counted and raises BREAK_EV; 1 ms in HOLDOFF takes D to UP; 512 µs in DRAIN take U to UP; each
unwrap raises UNWRAP_EV, and MODE follows the ports. -/
def Obligations.ChainPortStates : Prop :=
  (
  ∀ (d : Dev) (port : Nat), Powered d → port < 2 →
    let state := if port = 0 then F.U_STATE else F.D_STATE
    let miswire := if port = 0 then F.MISWIRE_U else F.MISWIRE_D
    (d.get state = pDown → Gives (.chainSignalDetect port) d fun e =>
      e.get state = pTrain ∧ OnlyFields [(state, []), (F.CHAIN_MODE, [])] d e ∧ OnlyRegs d e) ∧
    (d.get state = pTrain → Gives (.chainTrainTimeout port) d fun e =>
      e.get state = pDown ∧ e.get miswire = 0 ∧ e.get F.BREAK_EV = 1 ∧
      OnlyFields [(state, []), (F.CHAIN_MODE, []), (miswire, []), (F.BREAK_EV, [])] d e ∧ OnlyTalk d e) ∧
    (∀ f : Frame, f.crcOk = true → f.bad = false → f.typ = tyRing →
      let w := wordAt f.data 0
      (f.sub = 1 → d.get state = pTrain → bitsOf w 16 1 ≠ port → Gives (.ringHello port f true) d fun e =>
        e.get state = pHoldoff ∧ e.get F.NBR_ADDR [port] = bitsOf w 0 7 ∧ e.get F.NBR_CHAIN_ID [port] = bitsOf w 8 8 ∧
        e.get F.NBR_PORT [port] = bitsOf w 16 1 ∧ e.get F.NBR_VALID [port] = 1 ∧ e.get miswire = 0 ∧
        OnlyFields [(state, []), (F.CHAIN_MODE, []), (miswire, []), (F.NBR_ADDR, [port]), (F.NBR_CHAIN_ID, [port]),
          (F.NBR_PORT, [port]), (F.NBR_VALID, [port])] d e ∧ OnlyRegs d e) ∧
      (f.sub = 1 → d.get state = pTrain → bitsOf w 16 1 = port → ∀ locked, Gives (.ringHello port f locked) d fun e =>
        e.get miswire = 1 ∧ OnlyFields [(miswire, [])] d e ∧ OnlyRegs d e) ∧
      (f.sub = 3 → port = 0 → d.get F.U_STATE = pHoldoff → Gives (.ringUnwrap port f) d fun e =>
        e.get F.U_STATE = pDrain ∧ OnlyFields [(F.U_STATE, []), (F.CHAIN_MODE, [])] d e ∧ OnlyRegs d e) ∧
      Gives (.ringBreak port f) d fun e => e = d) ∧
    (d.get state = pTrain ∨ d.get state = pUp → Gives (.helloTimer port) d fun e =>
      (∃ x ∈ (if port = 0 then e.chain.txU else e.chain.txD), x.frame.typ = tyRing ∧ x.frame.sub = 1 ∧
        x.frame.src = d.get F.CHAIN_ADDR) ∧
      e = { d with chain := { d.chain with txU := e.chain.txU, txD := e.chain.txD } })) ∧
  (
  ∀ d : Dev, Powered d →
    (∀ port < 2, d.portState port ≠ pDown → Gives (.chainLinkDown port) d fun e =>
      e.portState port = pDown ∧ e.portState (1 - port) = d.portState (1 - port) ∧ e.get F.NBR_VALID [port] = 0 ∧
      e.get F.BREAK_EV = 1 ∧ e.get F.BREAK_COUNT = min (d.get F.BREAK_COUNT + 1) (2 ^ 32 - 1) ∧
      e.get F.CHAIN_MODE = (if d.portState (1 - port) = pUp then (if port = portU then 1 else 2) else 3) ∧
      e.mem = d.mem ∧ e.cad = d.cad) ∧
    (d.get F.D_STATE = pHoldoff → Gives .holdoffExpiry d fun e =>
      e.get F.D_STATE = pUp ∧ e.get F.UNWRAP_EV = 1 ∧ e.get F.CHAIN_MODE = (if d.uUp then 0 else 1) ∧
      OnlyFields [(F.D_STATE, []), (F.CHAIN_MODE, []), (F.UNWRAP_EV, [])] d e ∧ OnlyTalk d e) ∧
    (d.get F.U_STATE = pDrain → Gives .chainDrainExpiry d fun e =>
      e.get F.U_STATE = pUp ∧ e.get F.UNWRAP_EV = 1 ∧ e.get F.CHAIN_MODE = (if d.dUp then 0 else 2) ∧
      e.mem = d.mem ∧ e.cad = d.cad))

/-- ENUM_START, HEAD_PORT_HOLD, ENUM_QUEUED_START, EVENT_ATTACH, EVENT_UNWRAP_DONE and ENUM_TIMEOUT (04 R130, R131): each
start begins an enumeration at the head 1 ms or more after the last one; while one is out, or sooner, one further start is
queued; a pass that does not return is resent 8 times, then ENUM_FAIL. ENUM_CLAIM, ENUM_ASSIGN, ATTACH_TIMER and
EVENT_ENUM_DONE (04 R127 to R131, Table 4.4): in the claim pass a unit claims its sticky address when that is of the token's
chain, else its preferred one, if it is not taken, and loses its address with DUP_ADDR when it is; in the assign pass it
takes what it claimed, else the lowest free address of 1 to 126, else none with CHAIN_FULL; a unit without an address that no
assign pass has reached sends EVENT ATTACH; ENUM_DONE reports a changed address once. That a claim is kept for its token is read in
log 33; that each pass has resends of its own is the model's choice (log 121), and so is a millisecond in cycles (log 2). -/
def Obligations.ChainEnumerationStarts : Prop :=
  (
  ∀ d : Dev, Powered d →
    (d.get F.CHAIN_HEAD = 1 → d.chain.enum = none →
      (d.chain.lastStart = none ∨ (∃ t, d.chain.lastStart = some t ∧ t + 25000 ≤ d.now)) →
      Gives .enumStart d (EnumBegun d) ∧ Gives .headPortHold d (EnumBegun d) ∧
      (d.chain.queued = true → Gives .enumQueuedStart d fun e => EnumBegun d e ∧ e.chain.queued = false) ∧
      (∀ (port : Nat) (f : Frame), Arrives d (port % 2) tyEvent f →
        (f.sub = 1 → Gives (.eventAttach port f) d (EnumBegun d)) ∧
        (f.sub = 4 → Gives (.eventUnwrapDone port f) d (EnumBegun d)))) ∧
    (d.get F.CHAIN_HEAD = 1 → d.chain.enum ≠ none → Gives .enumStart d fun e =>
      e = { d with chain := { d.chain with queued := true } }) ∧
    (∀ x, d.chain.enum = some x →
      (x.resends < 8 → Gives .enumTimeout d fun e =>
        e.chain.enum = some { x with resends := x.resends + 1 } ∧ e.regs = d.regs ∧ OnlyChain d e) ∧
      (8 ≤ x.resends → Gives .enumTimeout d fun e =>
        e.chain.enum = none ∧ e.get F.ENUM_FAIL = 1 ∧ OnlyFields [(F.ENUM_FAIL, [])] d e ∧ OnlyChain d e))) ∧
  (
  ∀ (d : Dev) (port : Nat) (f : Frame), Powered d →
    let w := wordAt f.data 0
    let key := (tokenSerial f.data, bitsOf w 16 8)
    let want := match d.chain.sticky with
      | some (a, c) => if c = bitsOf w 0 8 then some a else d.prefAddr
      | none => d.prefAddr
    (EnumArrives d (port % 2) f →
      (bitAt w 8 = false →
        (∀ a, want = some a → bitAt (tokenTaken f.data) a = false → Gives (.enumClaim port f) d fun e =>
          e.chain.claimed = some (a, key) ∧ e.regs = d.regs ∧ OnlyChain d e) ∧
        (∀ a, want = some a → bitAt (tokenTaken f.data) a = true → Gives (.enumClaim port f) d fun e =>
          e.chain.claimed = none ∧ e.get F.CHAIN_ADDR = 0 ∧ e.get F.DUP_ADDR = 1 ∧
          OnlyFields [(F.CHAIN_ADDR, []), (F.DUP_ADDR, [])] d e ∧ OnlyChain d e) ∧
        (want = none → Gives (.enumClaim port f) d fun e => e.chain.claimed = none ∧ e.regs = d.regs ∧ OnlyChain d e)) ∧
      (bitAt w 8 = true →
        let free := ((List.range 127).drop 1).find? fun a => !bitAt (tokenTaken f.data) a
        let gets := fun (a : Nat) (e : Dev) =>
          e.get F.CHAIN_ADDR = a % 128 ∧ e.get F.CHAIN_ADDR_ID = bitsOf w 0 8 ∧ e.get F.CHAIN_GEN = bitsOf w 16 8 ∧
          e.chain.sticky = some (a, bitsOf w 0 8) ∧ e.chain.assigned = true ∧
          OnlyFields [(F.CHAIN_ADDR, []), (F.CHAIN_ADDR_ID, []), (F.CHAIN_GEN, []), (F.DUP_ADDR, []), (F.CHAIN_FULL, [])] d e ∧
          OnlyChain d e
        (∀ a, d.chain.claimed = some (a, key) → Gives (.enumAssign port f) d (gets a)) ∧
        (∀ a, (∀ b, d.chain.claimed ≠ some (b, key)) → free = some a → Gives (.enumAssign port f) d (gets a)) ∧
        ((∀ b, d.chain.claimed ≠ some (b, key)) → free = none → Gives (.enumAssign port f) d fun e =>
          e.get F.CHAIN_ADDR = 0 ∧ e.get F.CHAIN_FULL = 1 ∧ OnlyChain d e))) ∧
    (d.get F.CHAIN_ADDR = 0 → d.chain.assigned = false → d.dUp = true → Gives .attachTimer d fun e =>
      (∃ x ∈ e.chain.txD, x.frame.typ = tyEvent ∧ x.frame.sub = 1 ∧ x.frame.dst = 1 ∧ x.frame.src = 0) ∧
      e = { d with chain := { d.chain with txD := e.chain.txD } }) ∧
    (Arrives d (port % 2) tyEvent f → f.sub = 2 →
      (d.chain.changed = true → Gives (.eventEnumDone port f) d fun e =>
        e.get F.ADDR_CHANGED = 1 ∧ e.chain.changed = false ∧ OnlyFields [(F.ADDR_CHANGED, [])] d e ∧ OnlyChain d e) ∧
      (d.chain.changed = false → Gives (.eventEnumDone port f) d fun e => e.regs = d.regs ∧ OnlyTalk d e)))

/-- EVENT_BREAK, EVENT_DRAIN, EVENT_SAFE_STOP, EVENT_PANEL, EVENT_ALARM, EVENT_AUX_LATCH, POWER_REPORT, POWER_SUPPLY and
POWER_CAP (04 R142, Table 4.8; 18 R667; 19 R700, R701): a break marks its upstream end in OPEN_BREAK; a drain notice sets or
clears the sender's bit in DRAIN_SEEN with its event; a unit that stops safely leaves the chain source's count; notices
without a register are handed to the unit, in the model's own list (log 34); a cap becomes PWR_CAP_W. -/
def Obligations.ChainEvents : Prop :=
  ∀ (d : Dev) (port : Nat) (f : Frame), Powered d →
    let w := wordAt f.data 0
    let handed := fun (e : Dev) => e.chain.inbox = d.chain.inbox ++ [f] ∧ e.regs = d.regs ∧ OnlyChain d e
    (Arrives d (port % 2) tyEvent f →
      (f.sub = 3 → f.src < 128 →
        let a := if bitsOf w 0 1 = portD then f.src else bitsOf w 8 7
        Gives (.eventBreak port f) d fun e =>
          bitAt (e.get F.OPEN_BREAK [a / 32]) (a % 32) = true ∧ OnlyFields [(F.OPEN_BREAK, [a / 32])] d e ∧ OnlyTalk d e) ∧
      (f.sub = 6 → f.src < 128 → Gives (.eventDrain port f) d fun e =>
        bitAt (e.get F.DRAIN_SEEN [f.src / 32]) (f.src % 32) = bitAt w 0 ∧ e.get F.DRAIN_SEEN_EV = 1 ∧
        OnlyFields [(F.DRAIN_SEEN, [f.src / 32]), (F.DRAIN_SEEN_EV, [])] d e ∧ OnlyTalk d e) ∧
      (f.sub = 5 → d.chainSource = true → f.src ∈ d.cad.unitPart → Gives (.eventSafeStop port f) d fun e =>
        e.cad.unitPart = d.cad.unitPart.erase f.src ∧ e.regs = d.regs ∧ OnlyCad d e) ∧
      (f.sub = 7 → Gives (.eventPanel port f) d handed) ∧ (f.sub = 8 → Gives (.eventAlarm port f) d handed) ∧
      (f.sub = 9 → Gives (.eventAuxLatch port f) d handed)) ∧
    (Arrives d (port % 2) tyPower f →
      (f.sub = 1 → Gives (.powerCap port f) d fun e =>
        e.get F.PWR_CAP_W = bitsOf w 0 16 ∧ OnlyFields [(F.PWR_CAP_W, [])] d e ∧ OnlyTalk d e) ∧
      (f.sub = 2 → Gives (.powerReport port f) d handed) ∧ (f.sub = 3 → Gives (.powerSupply port f) d handed)) ∧
    (d.get F.PWR_REPORT_DST ≠ 0 → d.get F.PWR_REPORT_MS ≠ 0 → d.get F.CHAIN_ADDR ≠ 0 → d.dUp = true → Gives .reportTimer d fun e =>
      (∃ x ∈ e.chain.txD, x.frame.typ = tyPower ∧ x.frame.sub = 2 ∧ x.frame.dst = d.get F.PWR_REPORT_DST ∧
        bitsOf (wordAt x.frame.data 0) 0 16 = d.get F.PWR_NOW_W ∧ bitsOf (wordAt x.frame.data 0) 16 16 = d.get F.PWR_CAP_W) ∧
      e = { d with chain := { d.chain with txD := e.chain.txD } })

/-- CHAIN_REQ_GO, CHAIN_TIMEOUT, RD_RSP and WR_RSP (04 R137 to R139; 21 R754): a mailbox with a request for a unit is busy
once its frame is queued; one that names no unit, or a read by broadcast, ends with STATE at once; no answer in time ends it
with FAULT; an answer with its TAG ends it with the answer's status and data, and a late one is discarded. That an answer is told by its
TAG alone is the model's choice (log 22), and that DST 0 names no unit a reading (log 21). -/
def Obligations.ChainMailboxes : Prop :=
  ∀ (d : Dev) (n : Nat), Powered d → n < 4 →
    let ends := fun (st : Nat) (e : Dev) => e.get F.MB_STATE [n] = 2 ∧ e.get F.MB_STATUS [n] = st
    (d.get F.MB_STATE [n] ≠ 1 →
      (d.get F.MB_DST [n] = 0 ∨ (d.get F.MB_DST [n] = 127 ∧ d.get F.MB_WRITE [n] = 0) → Gives (.chainReqGo n) d fun e =>
        ends stSTATE e ∧ OnlyFields [(F.MB_STATE, [n]), (F.MB_STATUS, [n])] d e ∧ OnlyRegs d e) ∧
      (d.get F.MB_DST [n] ≠ 0 → (d.get F.MB_DST [n] = 127 → d.get F.MB_WRITE [n] = 1) → d.get F.CHAIN_ADDR ≠ 0 → d.dUp = true →
        Gives (.chainReqGo n) d fun e =>
          e.get F.MB_STATE [n] = 1 ∧
          (∃ x ∈ e.chain.txD, x.frame.typ = (if d.get F.MB_WRITE [n] = 1 then tyWrReq else tyRdReq) ∧
            x.frame.dst = d.get F.MB_DST [n] ∧ x.frame.tag = n ∧
            wordAt x.frame.data 0 = d.get F.MB_OFFSET [n] / 4 * 4 ∧ bitsOf (wordAt x.frame.data 1) 0 4 = d.get F.MB_COUNT [n]) ∧
          OnlyFields [(F.MB_STATE, [n])] d e ∧ OnlyTalk d e)) ∧
    (d.get F.MB_STATE [n] = 1 → Gives (.chainTimeout n) d fun e =>
      ends stFAULT e ∧ OnlyFields [(F.MB_STATE, [n]), (F.MB_STATUS, [n])] d e ∧ OnlyRegs d e) ∧
    (∀ (port : Nat) (f : Frame), f.dst ≠ bcast → f.tag = n → d.get F.MB_STATE [n] = 1 →
      (Arrives d (port % 2) tyRdRsp f → d.get F.MB_WRITE [n] = 0 →
        Gives (.rdRsp port f false) d (fun e =>
          ends (bitsOf (wordAt f.data 0) 0 4) e ∧
          (bitsOf (wordAt f.data 0) 0 4 = stOK → ∀ i ≤ d.get F.MB_COUNT [n], e.get F.MB_DATA [n, i] = wordAt f.data (1 + i)) ∧
          OnlyRegs d e) ∧
        Gives (.rdRsp port f true) d fun e => e = d) ∧
      (Arrives d (port % 2) tyWrRsp f → d.get F.MB_WRITE [n] = 1 →
        Gives (.wrRsp port f false) d (fun e =>
          ends (bitsOf (wordAt f.data 0) 0 4) e ∧ OnlyFields [(F.MB_STATE, [n]), (F.MB_STATUS, [n])] d e ∧ OnlyRegs d e) ∧
        Gives (.wrRsp port f true) d fun e => e = d))

/-- REGISTER_WRITE (00 R11 to R16, R20; 05 R161, R162; 21 R744): an aligned 32-bit write, from any requester that may make it, to a plain
register that is served gives every field what its type says, and no other register changes but for RSVD_WRITE, which a reserved
encoding sets; a write of 1 or 2 bytes changes nothing and sets WIDTH_ERR, and on the ring configuration of a queue that is not DISABLED
CFG_IGNORED too (05 R183); a write to a die that is absent, Off or lost changes nothing and sets DIE_ACCESS; what a VF may not write
keeps its value. That a narrow write sets the flag only where there is a register is read in log 16. -/
def Obligations.RegisterWriteByType : Prop :=
  ∀ (d : Dev) (req : Req) (off a v : Nat), Powered d → off % 4 = 0 → v < 2 ^ 32 →
    (MayWrite d req off a → plainReg a = true → isLo a = false → isHi a = false → fieldsApart a = true →
      Gives (.registerWrite req off 4 v) d fun e =>
        (∀ x ∈ fieldsAt a, FieldTakes d e a v x.1 x.2) ∧
        (∀ o, o ≠ a → o ≠ F.RSVD_WRITE.off [] → e.reg o = d.reg o) ∧
        ((∃ x ∈ fieldsAt a, (x.1.ty = .rw ∨ x.1.ty = .sh) ∧ x.1.rsv.bad (bitsOf v x.1.lo x.1.w) = true) →
          e.get F.RSVD_WRITE = 1) ∧
        e = { d with regs := e.regs, shadow := e.shadow }) ∧
    (Served d req off a → (∃ n, req = .vf n) → vfWrites off = false → ¬(0x3800 ≤ off ∧ off < 0x3A00) →
      Gives (.registerWrite req off 4 v) d fun e => e = d) ∧
    (Served d req off a → (fieldsAt a).isEmpty = false → ∀ size, size = 1 ∨ size = 2 →
      ((∀ k, queueCfg a = some k → d.get F.Q_STATE (qix k) = 0 ∧ (d.queue k).enabling = false) →
        Gives (.registerWrite req off size v) d fun e =>
          e.get F.WIDTH_ERR = 1 ∧ OnlyFields [(F.WIDTH_ERR, [])] d e ∧ OnlyRegs d e) ∧
      (∀ k, queueCfg a = some k → d.get F.Q_STATE (qix k) ≠ 0 ∨ (d.queue k).enabling = true →
        Gives (.registerWrite req off size v) d fun e =>
          e.get F.WIDTH_ERR = 1 ∧ e.get F.CFG_IGNORED (qix k) = 1 ∧
          OnlyFields [(F.WIDTH_ERR, []), (F.CFG_IGNORED, qix k)] d e ∧ OnlyRegs d e)) ∧
    (d.accessOff req off = some a → (∀ n, req ≠ .vf n) → d.gate a = .dead → Gives (.registerWrite req off 4 v) d fun e =>
      e.get F.DIE_ACCESS = 1 ∧ OnlyFields [(F.DIE_ACCESS, [])] d e ∧ OnlyRegs d e)

/-- PAIR_LO_READ, PAIR_HI_READ, PAIR_LO_WRITE and PAIR_HI_WRITE (00 R10, R11): reading _LO captures _HI for the requester, whose
next read of _HI returns the capture once; a 64-bit read returns both at one moment; a write of _LO is held, and the write of _HI puts both into effect, or, with
nothing held, _HI alone (21 R747). COMMIT (00 R13; 17 R615, R617): every active register of the block takes its shadow, and
no other register changes but the flag of a misaligned region; during RESYNC the request waits. Where a read's value stands (log 18), and
that _HI alone takes effect (log 17), are the model's. -/
def Obligations.RegisterPairs : Prop :=
  (
  ∀ (d : Dev) (req : Req) (off a v : Nat), Powered d → off % 4 = 0 → v < 2 ^ 32 →
    (Served d req off a → isLo a = true → Gives (.pairLoRead req ⟨off, 4⟩) d fun e =>
      e.lastRead = some (BitVec.ofNat 64 (d.regValue a).toNat) ∧
      Tab.get none e.caps (capKey req (a + 4)) = some (d.regValue (a + 4)) ∧
      e = { d with caps := e.caps, lastRead := e.lastRead }) ∧
    (Served d req off a → Served d req (off + 4) (a + 4) → isLo a = true → isLo (a + 4) = false →
      Gives (.pairLoRead req ⟨off, 8⟩) d fun e =>
        e.lastRead = some (BitVec.ofNat 64 ((d.regValue a).toNat + 2 ^ 32 * (d.regValue (a + 4)).toNat)) ∧
        Tab.get none e.caps (capKey req (a + 4)) = none ∧ e = { d with caps := e.caps, lastRead := e.lastRead }) ∧
    (Served d req off a → isLo a = false →
      (∀ w, Tab.get none d.caps (capKey req a) = some w → Gives (.pairHiRead req ⟨off, 4⟩) d fun e =>
        e.lastRead = some (BitVec.ofNat 64 w.toNat) ∧ Tab.get none e.caps (capKey req a) = none ∧
        e = { d with caps := e.caps, lastRead := e.lastRead }) ∧
      (Tab.get none d.caps (capKey req a) = none → Gives (.pairHiRead req ⟨off, 4⟩) d fun e =>
        e = { d with lastRead := some (BitVec.ofNat 64 (d.regValue a).toNat) })) ∧
    (MayWrite d req off a → plainReg a = true → isLo a = true → Gives (.pairLoWrite req off v) d fun e =>
      Tab.get none e.held (capKey req a) = some (BitVec.ofNat 32 v) ∧ e = { d with held := e.held }) ∧
    (MayWrite d req (off + 4) (a + 4) → plainReg a = true → plainReg (a + 4) = true → isLo a = true → isLo (a + 4) = false →
      ∀ lo, Tab.get none d.held (capKey req a) = some lo → Gives (.pairHiWrite req (off + 4) v) d fun e =>
        e.regs = ((d.plainWrite a lo.toNat).plainWrite (a + 4) v).regs ∧
        Tab.get none e.held (capKey req a) = none ∧ e = { d with regs := e.regs, shadow := e.shadow, held := e.held }) ∧
    (MayWrite d req (off + 4) (a + 4) → plainReg (a + 4) = true → isLo (a + 4) = false → isHi (a + 4) = true →
      Tab.get none d.held (capKey req a) = none → Gives (.pairHiWrite req (off + 4) v) d fun e =>
        e.regs = (d.plainWrite (a + 4) v).regs ∧ Tab.get none e.held (capKey req a) = none ∧
        e = { d with regs := e.regs, shadow := e.shadow, held := e.held })) ∧
  (
  ∀ (d : Dev) (block : Nat), Powered d → block < 2 →
    (d.get F.WARDEN_MODE ≠ 2 → d.get F.WARDEN_MODE ≠ 3 → d.domAsleep 8 = false → Gives (.commit block) d fun e =>
      (∀ o, shReg block o = true → e.reg o = d.shadowReg o) ∧
      (∀ o, shReg block o = false → o ≠ F.REGION_ALIGN.off [] → e.reg o = d.reg o) ∧ OnlyRegs d e) ∧
    (d.get F.WARDEN_MODE = 3 → Gives (.commit block) d fun e =>
      e = { d with warden := { d.warden with wait := d.warden.wait ++ [.commit block] } }))

/-- RD_REQ and WR_REQ (04 R137, R138, R140): a request for one served register is answered to its sender with the same TAG
and status OK: a read with the register's value, a write once accepted, after which the register takes the value by the types
of its fields. -/
def Obligations.ChainRegisterAccess : Prop :=
  ∀ (d : Dev) (port : Nat) (f : Frame), Powered d → f.dst ≠ bcast → d.dUp = true → d.chainJudge f = .ok stOK →
    bitsOf (wordAt f.data 1) 0 4 = 0 →
    let off := 4 * bitsOf (wordAt f.data 0) 2 24
    let answer := fun (typ : Nat) (data : List Word) =>
      txInsert ⟨false, d.ownFrame typ 0 f.src f.tag data⟩ d.chain.txD
    d.gate off = .serve →
    (Arrives d (port % 2) tyRdReq f → isLo off = false → Tab.get none d.caps (capKey (.chain f.src) off) = none →
      Gives (.rdReq port f) d fun e =>
        e = { d with chain := { d.chain with txD := answer tyRdRsp [BitVec.ofNat 32 stOK, d.regValue off] } }) ∧
    (Arrives d (port % 2) tyWrReq f → plainReg off = true → isLo off = false → isHi off = false →
      Gives (.wrReq port f) d fun e =>
        e.chain = { d.chain with txD := answer tyWrRsp [BitVec.ofNat 32 stOK] } ∧
        e.regs = (d.plainWrite off (wordAt f.data 2)).regs ∧ e = { d with regs := e.regs, shadow := e.shadow, chain := e.chain })

/-- SQ_DB and CQ_DB (05 R173 to R176, R184, R187): a 32-bit write through a doorbell BAR to the doorbell of queue k: a submission doorbell within the ring of an enabled or halted queue becomes
its P, a completion doorbell within the outstanding entries its K; a value out of range is ignored with DB_ERR and the
partition's event; while the queue is enabling both are held in order; a queue that is neither enabled nor halted takes no submission
doorbell, and a DISABLED one no completion doorbell; a write narrower than 32 bits is ignored. -/
def Obligations.QueueDoorbells : Prop :=
  (∀ (d : Dev) (req : Req) (off size v : Nat), Powered d → req.isDoorbell = true → size < 4 →
    Gives (.sqDb req ⟨off, size, v⟩) d (fun e => e = d) ∧ Gives (.cqDb req ⟨off, size, v⟩) d fun e => e = d) ∧
  ∀ (d : Dev) (req : Req) (sq cq k v : Nat), Powered d → queueOk k = true → v < 65536 → d.hostShut = false →
    d.doorbellAt req sq = some (true, k) → d.doorbellAt req cq = some (false, k) →
    let awake := ∀ x, (d.queue k).home = some x → d.domAsleep x.1 = false
    let refused := fun (e : Dev) =>
      e.get F.DB_ERR (qix k) = 1 ∧ bitAt (e.get F.P_EVENTS [k / 32]) 0 = true ∧
      OnlyFields [(F.DB_ERR, qix k), (F.P_EVENTS, [k / 32])] d e ∧ OnlyRegsIrq d e
    ((d.queue k).enabling = false → (d.qState k = qENABLED ∨ d.qState k = qHALTED) →
      (awake → idxSub (d.qP k) (d.qH k) ≤ idxSub v (d.qH k) → idxSub v (d.qH k) ≤ d.sqSize k → Gives (.sqDb req ⟨sq, 4, v⟩) d fun e =>
        e.qP k = v ∧ OnlyFields [(F.Q_PROD, qix k)] d e ∧ OnlyRegs d e) ∧
      (d.sqSize k < idxSub v (d.qH k) ∨ idxSub v (d.qH k) < idxSub (d.qP k) (d.qH k) → Gives (.sqDb req ⟨sq, 4, v⟩) d refused)) ∧
    ((d.queue k).enabling = false → d.qState k ≠ qDISABLED →
      (idxSub (d.qT k) v ≤ idxSub (d.qT k) (d.qK k) → Gives (.cqDb req ⟨cq, 4, v⟩) d fun e =>
        e.qK k = v ∧ OnlyFields [(F.Q_CQ_HEAD, qix k)] d e ∧ OnlyRegs d e) ∧
      (idxSub (d.qT k) (d.qK k) < idxSub (d.qT k) v → Gives (.cqDb req ⟨cq, 4, v⟩) d refused)) ∧
    ((d.queue k).enabling = true →
      Gives (.sqDb req ⟨sq, 4, v⟩) d (fun e => e = d.updQ k fun q => { q with heldDb := q.heldDb ++ [(true, v)] }) ∧
      Gives (.cqDb req ⟨cq, 4, v⟩) d fun e => e = d.updQ k fun q => { q with heldDb := q.heldDb ++ [(false, v)] }) ∧
    ((d.queue k).enabling = false → d.qState k ≠ qENABLED → d.qState k ≠ qHALTED → Gives (.sqDb req ⟨sq, 4, v⟩) d fun e => e = d) ∧
    ((d.queue k).enabling = false → d.qState k = qDISABLED → Gives (.cqDb req ⟨cq, 4, v⟩) d fun e => e = d)

/-- DESCRIPTOR_READ, DESCRIPTOR_START and LIST_READ (05 R167, R168, R178, R179): a descriptor at H is copied and H advances,
or its failed read is noted and H stays; the oldest descriptor read ahead starts, once the one before has ended its last command (07
R232), with its in-line words or with its list still to be read, and one that fails its checks ends FAULT without running; the list arrives, or its failed read ends the
descriptor. -/
def Obligations.QueueDescriptors : Prop :=
  ∀ (d : Dev) (k : Nat), Powered d → queueOk k = true → d.qState k = qENABLED →
    (∀ (data : List Byte) (fail : Bool),
      let x := d.hostHolds (d.descAddr k) (data.take 64)
      (d.queue k).readFailed = false → d.qH k ≠ d.qP k → (d.queue k).ahead.length < 16 → d.qBus k = true →
      (fail = false → x.hostBad (d.descAddr k) 64 = false → Gives (.descriptorRead k data fail) d fun e =>
        e.qH k = (d.qH k + 1) % 65536 ∧ OnlyFields [(F.Q_HEAD, qix k)] d e ∧
        (e.queue k).ahead = (d.queue k).ahead ++ [⟨d.qH k, false, wordsOfBytes (x.readHost (d.descAddr k) 64)⟩] ∧ e.mem = d.mem) ∧
      (fail = true → Gives (.descriptorRead k data fail) d fun e =>
        (e.queue k).readFailed = true ∧ (e.queue k).ahead = (d.queue k).ahead ++ [⟨d.qH k, true, []⟩] ∧ e.regs = d.regs ∧
        e.mem = d.mem)) ∧
    (∀ (y : Desc) (rest : List Desc), (d.queue k).ahead = y :: rest → d.startsHeld = false → d.homeSleeps k = false →
      d.qBus k = true → (d.queue k).run.all Run.done = true → y.failed = false → d.cqSpace k y.index = true →
      (bitAt (wordAt y.words 0) 6 = true → d.qT k = y.index) →
      let kind := bitsOf (wordAt y.words 0) 0 4
      let n := bitsOf (wordAt y.words 1) 0 24
      let starts := fun (r : Run) (e : Dev) =>
        e = d.updQ k fun q => { q with ahead := rest, run := some r, ended := q.ended ++ q.run.toList }
      (y.bad = true → Gives (.descriptorStart k) d (starts (Run.failed y stFAULT dDESCFORMAT))) ∧
      (y.bad = false →
        (kind = 1 → bitAt (wordAt y.words 0) 4 = false → Gives (.descriptorStart k) d (starts (Run.start y [] true))) ∧
        (kind = 2 → Gives (.descriptorStart k) d (starts (Run.start y ((y.words.drop 6).take (n / 4)) false))) ∧
        (kind = 3 → Gives (.descriptorStart k) d (starts (Run.start y [] false))))) ∧
    (∀ (r : Run) (data : List Byte) (fail : Bool), (d.queue k).run = some r → r.listPending = true → d.qBus k = true →
      let addr := wordAt r.words 2 + 2 ^ 32 * wordAt r.words 3
      let n := bitsOf (wordAt r.words 1) 0 24
      let x := d.hostHolds addr data
      (fail = false → x.hostBad addr n = false → Gives (.listRead k data fail) d fun e =>
        (e.queue k).run = some { r with listPending := false, list := wordsOfBytes (x.readHost addr n) } ∧ e.regs = d.regs ∧
        e.mem = d.mem) ∧
      (fail = true → Gives (.listRead k data fail) d fun e =>
        (e.queue k).run = some { r with listPending := false, stop := some (stFAULT, dLISTREAD) } ∧ e.regs = d.regs ∧
        e.mem = d.mem))

/-- DESCRIPTOR_COMPLETE, FETCH_ERR and COAL_TIME (05 R170, R185, R189): the oldest run with nothing left posts its entry with its
status; a descriptor whose read failed halts the queue with FETCH_ERR and an entry FAULT, after the entries of those before it; an
unannounced entry is announced when COAL_TIME has passed. What the failed descriptor's entry says of words the device never had is the
model's choice (log 114). -/
def Obligations.QueueCompletions : Prop :=
  ∀ (d : Dev) (k : Nat), Powered d → queueOk k = true → d.qBus k = true →
    (∀ r : Run, (d.queue k).run = some r → (d.queue k).ended = [] → r.listPending = false → r.cmd = none → (r.list = [] ∨ r.stop ≠ none) →
      (d.qState k = qENABLED ∨ d.qState k = qHALTED) → Gives (.descriptorComplete k) d fun e =>
        Posts d e k r.status.1 r.status.2 r.result r.flags r.words ∧ (e.queue k).run = none ∧
        OnlyFields [(F.Q_TAIL, qix k)] d e) ∧
    (∀ (r : Run) (t : List Run), (d.queue k).ended = r :: t → (d.qState k = qENABLED ∨ d.qState k = qHALTED) →
      Gives (.descriptorComplete k) d fun e =>
        Posts d e k r.status.1 r.status.2 r.result r.flags r.words ∧ (e.queue k).ended = t ∧ (e.queue k).run = (d.queue k).run ∧
        OnlyFields [(F.Q_TAIL, qix k)] d e) ∧
    (∀ (y : Desc) (rest : List Desc), (d.queue k).ahead = y :: rest → d.qState k = qENABLED → y.failed = true →
      (d.queue k).run = none → (d.queue k).ended = [] → d.cqSpace k y.index = true → Gives (.fetchErr k) d fun e =>
        Posts d e k stFAULT dDESCREAD 0 0 y.words ∧ e.qState k = qHALTED ∧ e.get F.FETCH_ERR (qix k) = 1 ∧
        (e.queue k).ahead = rest ∧
        OnlyFields [(F.Q_TAIL, qix k), (F.Q_STATE, qix k), (F.FETCH_ERR, qix k), (F.P_EVENTS, [k / 32])] d e) ∧
    (d.flag F.IRQ_EN (qix k) = true → 0 < (d.queue k).unannounced → Gives (.coalTime k) d fun e =>
      (e.queue k).unannounced = 0 ∧ (e.queue k).sinceMsg = 0 ∧ e.regs = d.regs ∧ e.mem = d.mem ∧ e.hostMem = d.hostMem)

/-- Q_ENABLE, QUEUE_ENABLED, Q_DISABLE and QUEUE_DISABLE_DRAINED (05 R184 to R187; 06 R209): an ENABLE that its partition can
place begins with empty indexes, one it cannot is CFG_ERR; the enabling ends ENABLED; a DISABLE fixes the cut at P, or is
held while enabling; once nothing runs and every entry up to the cut is posted, the queue is DISABLED with H and T at the
cut. Where H stands until then, and what an entry shows of a descriptor never read, are the model's choices (log 114). -/
def Obligations.QueueStates : Prop :=
  ∀ (d : Dev) (k : Nat), Powered d → queueOk k = true →
    let p := k / 32
    let home := (placeDie d.dieIsLost (d.actReg p) (k % 32 / 4)).bind fun x => (d.freeCore x).map fun c => (x, c)
    let ok := 4 ≤ d.get F.SQ_LOG (qix k) ∧ 4 ≤ d.get F.CQ_LOG (qix k) ∧ d.get F.P_STATE [p] = pENABLED ∧ d.vectorOk k = true ∧
      k % 4 < qslotOf (d.actReg p) (k % 32 / 4)
    (d.qIdle k = true →
      (∀ h, home = some h → ok → Gives (.qEnable k) d fun e =>
        e.qP k = 0 ∧ e.qH k = 0 ∧ e.qT k = 0 ∧ e.qK k = 0 ∧ e.queue k = { Queue.reset with enabling := true, home := some h } ∧
        OnlyFields [(F.Q_PROD, qix k), (F.Q_HEAD, qix k), (F.Q_TAIL, qix k), (F.Q_CQ_HEAD, qix k)] d e ∧
        e = { d with regs := e.regs, queues := e.queues }) ∧
      (home = none ∨ ¬ok → Gives (.qEnable k) d fun e =>
        e.get F.CFG_ERR (qix k) = 1 ∧ bitAt (e.get F.P_EVENTS [p]) 1 = true ∧
        OnlyFields [(F.CFG_ERR, qix k), (F.P_EVENTS, [p])] d e ∧ OnlyRegsIrq d e)) ∧
    ((d.queue k).enabling = true →
      ((d.queue k).heldDb = [] → (d.queue k).heldDisable = false → Gives (.queueEnabled k) d fun e =>
        e.qState k = qENABLED ∧ (e.queue k).enabling = false ∧ OnlyFields [(F.Q_STATE, qix k)] d e ∧
        e = { d with regs := e.regs, queues := e.queues }) ∧
      ((d.queue k).heldDb = [] → (d.queue k).heldDisable = true → Gives (.queueEnabled k) d fun e =>
        e.qState k = qDISABLING ∧ (e.queue k).enabling = false ∧ (e.queue k).cut = some (d.qP k) ∧
        OnlyFields [(F.Q_STATE, qix k)] d e) ∧
      Gives (.qDisable k) d fun e => e = d.updQ k fun q => { q with heldDisable := true }) ∧
    ((d.queue k).enabling = false → (d.qState k = qENABLED ∨ d.qState k = qHALTED) → Gives (.qDisable k) d fun e =>
      e.qState k = qDISABLING ∧ (e.queue k).cut = some (d.qP k) ∧ (e.queue k).ahead = (d.queue k).ahead ∧
      (e.queue k).cause = (if d.qState k = qHALTED then dQHALT else dQDISABLE) ∧ OnlyFields [(F.Q_STATE, qix k)] d e ∧
      e = { d with regs := e.regs, queues := e.queues }) ∧
    (∀ c < 65536, ∀ ring : List Byte, d.qState k = qDISABLING → (d.queue k).cut = some c → (d.queue k).run = none →
      (d.queue k).ended = [] → d.qBus k = true →
      (∀ j < idxSub c (d.qT k), d.cqSpace k ((d.qT k + j) % 65536) = true) → Gives (.queueDisableDrained ⟨k, ring⟩) d fun e =>
        e.qState k = qDISABLED ∧ e.qH k = c ∧ e.qT k = c ∧ (e.queue k).cut = none ∧ (e.queue k).home = none ∧
        bitAt (e.get F.P_EVENTS [p]) 3 = true ∧ e.mem = d.mem)

/-- VF_FLR, PF_FLR, VF_ENABLE and BUS_MASTER_ENABLE (05 R188, R190 to R192, R197): a reset of a VF returns its partition's
queues and its MSI-X table to reset; one of the PF those of every partition; VF Enable and NumVFs decide which partitions
their VFs own, once their queues are DISABLED; the enables of a function are as written. LINK_DEGRADED, PCIE_LINK_DOWN,
HOST_RESET, PERST_N_RELEASE and HOST_LINK_L1 (05 R158, R202; 18 R645; 20 R728, R739): a trained link is up at its rate and
width, with an event when it is less than the whole; a link that goes down is down with its event and HOST in Keep; a host
reset resets the PF and takes the link down; PERST_N high lets the link train once HOST is released; L1 is Doze. The order of the two
parts of a host reset is the model's choice (log 114). -/
def Obligations.HostFunctions : Prop :=
  (
  ∀ d : Dev, Powered d →
    let cleared := fun (e : Dev) (p : Nat) => ∀ i < 20,
      e.queue (32 * p + i) = Queue.reset ∧ ∀ o ∈ queueOffsets (32 * p + i), e.reg o = regDefault o
    (∀ vf, 1 ≤ vf → vf ≤ 64 → Gives (.vfFlr vf) d fun e =>
      cleared e (vf - 1) ∧ (∀ v < 32, Tab.get Msix.reset e.host.vfTab (32 * vf + v) = Msix.reset) ∧
      Tab.get false e.host.bme vf = false ∧ e.mem = d.mem ∧ e.hostMem = d.hostMem) ∧
    Gives .pfFlr d (fun e =>
      (∀ p < 64, cleared e p) ∧ e.host.pfTab = [] ∧ e.host.bme = [] ∧ e.host.vfEnable = false ∧
      (d.host.linkDown = false → e.get F.LINK_UP = 1) ∧ e.mem = d.mem ∧ e.hostMem = d.hostMem) ∧
    (∀ (en : Bool) (n : Nat), Gives (.vfEnable en n) d fun e =>
      (∀ p < 64, e.vfOwned p = (en && decide (p < n) && (d.vfOwned p || (List.range 20).all fun i => d.qIdle (qkey p i)))) ∧
      e.host.vfEnable = en ∧ e.host.numVfs = min n 64 ∧ e.mem = d.mem ∧ e.hostMem = d.hostMem) ∧
    (∀ (fn : Nat) (on msix d3 : Bool) (ctl : PcieCtl), Gives (.busMasterEnable fn on msix ⟨d3, ctl⟩) d fun e =>
      Tab.get false e.host.bme fn = on ∧ Tab.get false e.host.msixOn fn = msix ∧
      e.host.ctl = (if fn = 0 ∧ ctl.supported = true then ctl else d.host.ctl) ∧
      (fn = 0 → e.get F.PF_D3HOT = b2n d3) ∧ OnlyFields [(F.PF_D3HOT, []), (F.DOM_STATE, [9])] d e ∧
      e.mem = d.mem ∧ e.hostMem = d.hostMem)) ∧
  (
  (∀ (d : Dev) (rate width coding : Nat), Powered d → Gives (.linkDegraded rate width coding) d fun e =>
    e.get F.LINK_UP = 1 ∧ e.get F.HI_RATE = rate % 16 ∧ e.get F.HI_WIDTH = width % 32 ∧ e.host.linkDown = false ∧
    (¬(rate = 6 ∧ width = 16) → e.get F.LINK_DEGRADED = 1) ∧
    OnlyFields [(F.LINK_UP, []), (F.HI_RATE, []), (F.HI_WIDTH, []), (F.HI_CODING, []), (F.LINK_DEGRADED, []), (F.DOM_STATE, [9])] d e ∧
    e.mem = d.mem ∧ e.hostMem = d.hostMem) ∧
  (∀ d : Dev, Powered d → Gives .pcieLinkDown d fun e =>
    e.get F.LINK_UP = 0 ∧ e.get F.LINK_DOWN_EV = 1 ∧ e.host.linkDown = true ∧ e.get F.DOM_STATE [9] = stKeep ∧
    (∀ fn, e.canMaster fn = false) ∧ e.host.cut = true ∧ OnlyFields [(F.LINK_UP, []), (F.LINK_DOWN_EV, []), (F.DOM_STATE, [9])] d e ∧ e.mem = d.mem ∧ e.hostMem = d.hostMem) ∧
  (∀ (d : Dev) (perst : Bool), Powered d → Gives (.hostReset perst) d fun e =>
    e.get F.LINK_UP = 0 ∧ e.get F.LINK_DOWN_EV = 1 ∧ e.host.linkDown = true ∧ e.boot.perst = (d.boot.perst && !perst) ∧
    (∀ k < 2048, e.queue k = if k % 32 < 20 then Queue.reset else d.queue k) ∧ e.mem = d.mem ∧ e.hostMem = d.hostMem) ∧
  (∀ d : Dev, Gives .perstNRelease d fun e =>
    e.boot.perst = true ∧ (d.boot.hostUp = true → d.host.linkDown = true → e.host.training = true) ∧ e.regs = d.regs ∧
    e = { d with boot := { d.boot with perst := true }, host := { d.host with training := e.host.training } }) ∧
  (∀ (d : Dev) (on : Bool), Powered d → d.host.linkDown = false → d.get F.PF_D3HOT = 0 → Gives (.hostLinkL1 on) d fun e =>
    e.get F.DOM_STATE [9] = (if on then stDoze else stRun) ∧ e.host.l1 = on ∧ OnlyFields [(F.DOM_STATE, [9])] d e ∧
    e = { d with regs := e.regs, host := { d.host with l1 := on } }))

/-- PARTITION_ENABLE and RESHAPE (06 R208 to R210; 07 R246): a set that a cause refuses leaves its cause in P_CAUSE with the
refusal event and applies nothing; one that is accepted becomes the active set, and an ENABLE makes the partition ENABLED
with every fence 0. -/
def Obligations.PartitionSets : Prop :=
  ∀ (d : Dev) (p : Nat), WardenServes d → p < 64 →
    let sl := d.get F.P_SLOT [p]
    let refused := fun (c : Nat) (e : Dev) =>
      e.get F.P_CAUSE [p] = c ∧ bitAt (e.get F.P_EVENTS [p]) 6 = true ∧
      OnlyFields [(F.P_CAUSE, [p]), (F.P_EVENTS, [p])] d e ∧ OnlyRegsIrq d e
    (d.setCause p (d.slotReg p sl) pDISABLED = none → Gives (.partitionEnable p) d fun e =>
      e.get F.P_STATE [p] = pENABLED ∧ ActiveIs d e p sl ∧
      (∀ f < 256, e.get F.FENCE_VAL_LO [p, f] = 0 ∧ e.get F.FENCE_VAL_HI [p, f] = 0) ∧
      (∀ h < 16, e.get F.HT_STATE [p, h] = 0) ∧ e.mem = d.mem ∧ e.hostMem = d.hostMem) ∧
    (d.setCause p (d.slotReg p sl) pENABLED = none → Gives (.reshape p) d fun e =>
      ActiveIs d e p sl ∧ e.get F.P_STATE [p] = d.get F.P_STATE [p] ∧ e.mem = d.mem ∧ e.hostMem = d.hostMem) ∧
    (∀ c, d.setCause p (d.slotReg p sl) pDISABLED = some c → Gives (.partitionEnable p) d (refused c)) ∧
    (∀ c, d.setCause p (d.slotReg p sl) pENABLED = some c → Gives (.reshape p) d (refused c))

/-- RELEASE_END and ZEROING_DONE (06 R210, R211, R231): once no chunk of the old set runs, what was releasing has left the
partition, its granules by way of zeroing when its set says so; zeroing ends with every byte of the granules 0 and no other
byte changed. SCRUB and SCRUB_DONE (06 R222): a scrub of an ENABLED partition whose queues are all DISABLED begins; on one
with a queue in use, or that is on its way to another state, it is refused as STATE; at its end every granule of the set is
zero, the partition is in the state it came from, and SCRUB_DONE is set. A granule that a global region keeps from the scrubber is not
zeroed (06 R217); that it then stays with its partition is the model's choice (log 116). -/
def Obligations.PartitionRelease : Prop :=
  (
  ∀ (d : Dev) (p : Nat), Powered d → p < 64 →
    ((d.part p).releasing ≠ [] → (∀ c ∈ (d.part p).grand, c ∉ d.runningChunks p) → Gives (.releaseEnd p) d fun e =>
      (e.part p).releasing = [] ∧ (e.part p).grand = [] ∧
      (e.part p).zeroing = (d.part p).zeroing ++ (d.part p).zeroRel ∧ (e.part p).zeroRel = [] ∧
      e.mem = d.mem ∧ e.hostMem = d.hostMem) ∧
    ((∃ r ∈ (d.part p).zeroing, d.scrubCheck r.die kWrite (r.die * 2 ^ 32 + r.idx * 2 ^ 26) (2 ^ 26) ≠ none) →
      Gives (.zeroingDone p) d fun e => (e.part p).zeroing = (d.part p).zeroing ∧ e.mem = d.mem ∧ e.ecc = d.ecc) ∧
    ((∀ r ∈ (d.part p).zeroing, d.scrubCheck r.die kWrite (r.die * 2 ^ 32 + r.idx * 2 ^ 26) (2 ^ 26) = none) →
      Gives (.zeroingDone p) d fun e =>
      (e.part p).zeroing = [] ∧
      (∀ a, Tab.get 0 e.mem a =
        if (d.part p).zeroing.any (fun r => decide (r.die * 2 ^ 32 + r.idx * 2 ^ 26 ≤ a) &&
          decide (a < r.die * 2 ^ 32 + r.idx * 2 ^ 26 + 2 ^ 26)) then 0 else Tab.get 0 d.mem a) ∧ e.hostMem = d.hostMem)) ∧
  (
  ∀ (d : Dev) (p : Nat), p < 64 →
    (WardenServes d → d.get F.P_STATE [p] = pENABLED → (∀ i < 20, d.qIdle (qkey p i) = true) → Gives (.scrub p) d fun e =>
      e.get F.P_STATE [p] = pSCRUBBING ∧ (e.part p).prior = pENABLED ∧ (e.part p).scrub = scrubbed (d.activeRes p) ∧ OnlyFields [(F.P_STATE, [p])] d e ∧
      e = { d with regs := e.regs, parts := e.parts }) ∧
    (WardenServes d → (d.get F.P_STATE [p] = pDISABLING ∨ d.get F.P_STATE [p] = pSCRUBBING ∨
        (d.get F.P_STATE [p] = pENABLED ∧ ∃ i < 20, d.qIdle (qkey p i) = false)) → Gives (.scrub p) d fun e =>
      e.get F.P_CAUSE [p] = cSTATE ∧ OnlyFields [(F.P_CAUSE, [p])] d e ∧ OnlyRegs d e) ∧
    (Powered d → d.get F.P_STATE [p] = pSCRUBBING → (d.part p).prior = pENABLED →
      (∀ r ∈ (d.part p).scrub, r.kind = 5 → d.scrubCheck r.die kWrite (r.die * 2 ^ 32 + r.idx * 2 ^ 26) (2 ^ 26) = none) →
      Gives (.scrubDone p) d fun e =>
        e.get F.P_STATE [p] = pENABLED ∧ bitAt (e.get F.P_EVENTS [p]) 7 = true ∧ (e.part p).scrub = [] ∧
        (∀ r ∈ (d.part p).scrub, r.kind = 5 → ∀ a, r.die * 2 ^ 32 + r.idx * 2 ^ 26 ≤ a → a < r.die * 2 ^ 32 + (r.idx + 1) * 2 ^ 26 →
          Tab.get 0 e.mem a = 0) ∧ e.hostMem = d.hostMem))

/-- PARTITION_DISABLE and PARTITION_DISABLED (06 R220, Table 6.10; 03 R103): a DISABLE of an ENABLED partition makes it
DISABLING, cuts every enabled queue at its P, and disarms its alarms; with every queue DISABLED and no chunk running, its
active set is given up and it is DISABLED with its event. -/
def Obligations.PartitionDisabling : Prop :=
  ∀ (d : Dev) (p : Nat), p < 64 →
    (WardenServes d → d.get F.P_STATE [p] = pENABLED → Gives (.partitionDisable p) d fun e =>
      e.get F.P_STATE [p] = pDISABLING ∧
      (∀ i < 20, (d.queue (qkey p i)).enabling = false → d.qState (qkey p i) = qENABLED →
        e.qState (qkey p i) = qDISABLING ∧ (e.queue (qkey p i)).cut = some (d.qP (qkey p i))) ∧
      (∀ n < 256, ∀ c, Tab.get none d.alarms n = some c → c.devOwned = false → c.owner = p → d.get F.AL_STATE [n] = 1 →
        e.get F.AL_LAST [n] = stCANCELLED ∧ e.get F.AL_STATE [n] = 0) ∧ e.mem = d.mem ∧ e.hostMem = d.hostMem) ∧
    (Powered d → d.get F.P_STATE [p] = pDISABLING → (∀ i < 20, d.qIdle (qkey p i) = true) → d.runningChunks p = [] →
      Gives (.partitionDisabled p) d fun e =>
        e.get F.P_STATE [p] = pDISABLED ∧ (∀ r < 29, e.actReg p (4 * r) = 0) ∧ (e.part p).releasing = [] ∧
        bitAt (e.get F.P_EVENTS [p]) 8 = true ∧ e.mem = d.mem ∧ e.hostMem = d.hostMem)

/-- EXT_APPLY and EXT_DONE (15 R541, Table 15.7): an APPLY is refused with EXT_CFG_ERR while a partition is ENABLED or one is
under way; else the window is unmapped while it lasts; at its end the mode and the size are in force, or EXT_CFG_ERR with
mode NONE. PATROL_READ, CXL_PORT_LOST, EXPANDER_EVENT and HEALTH_POLL (15 R536, R542, R543): patrol reads the block at its
position, repairs its correctable words and moves on, back to 0 at the end; a lost port is marked lost, and down when its
link went; each expander event and each bad health status is reported to the warden. That an APPLY clears the lost marks, and what ends it
during bring-up, is read in log 83. -/
def Obligations.ExternalLayout : Prop :=
  (
  ∀ d : Dev, Powered d →
    (d.get F.EXT_BUSY = 0 → (∀ p < 64, d.get F.P_STATE [p] ≠ pENABLED) → Gives .extApply d fun e =>
      e.get F.EXT_BUSY = 1 ∧ e.get F.EXT_MODE_NOW = 0 ∧ e.get F.EXT_SIZE_GIB = 0 ∧
      e.ext.applying = some (d.get F.EXT_MODE, d.flag F.EXT_IG) ∧
      OnlyFields [(F.EXT_BUSY, []), (F.EXT_MODE_NOW, []), (F.EXT_SIZE_GIB, [])] d e ∧
      e = { d with regs := e.regs, ext := e.ext }) ∧
    (d.get F.EXT_BUSY = 1 ∨ (∃ p < 64, d.get F.P_STATE [p] = pENABLED) → Gives .extApply d fun e =>
      e.get F.EXT_CFG_ERR = 1 ∧ OnlyFields [(F.EXT_CFG_ERR, [])] d e ∧ OnlyRegs d e) ∧
    (∀ (mode : Nat) (ig : Bool), d.ext.applying = some (mode, ig) → mode < 4 → d.get F.BOOT_STAGE ≠ 8 →
      let cap := fun p => if d.get F.XP_PRESENT [p / 2, p % 2] = 1 then d.get F.XP_CAP_GIB [p / 2, p % 2] else 0
      let fails := ∃ p < 12, cap p = 0
      ((mode = 3 → ¬fails) → Gives (.extDone false) d fun e =>
        e.get F.EXT_BUSY = 0 ∧ e.get F.EXT_MODE_NOW = mode ∧ e.get F.EXT_SIZE_GIB = extSize mode cap % 2 ^ 10 ∧ e.get F.EXT_DONE = 1 ∧
        e.ext = ⟨ig, none, []⟩ ∧ e = { d with regs := e.regs, ext := e.ext }) ∧
      Gives (.extDone true) d fun e =>
        e.get F.EXT_BUSY = 0 ∧ e.get F.EXT_MODE_NOW = 0 ∧ e.get F.EXT_CFG_ERR = 1 ∧ e = { d with regs := e.regs, ext := e.ext })) ∧
  (
  (∀ (d : Dev) (die : Nat), Powered d → die < 8 →
    let en := if die < 6 then F.PATROL_EN else F.SRAM_PATROL_EN
    let pos := if die < 6 then F.PATROL_POS else F.SRAM_PATROL_POS
    let ix := [if die < 6 then die else die - 6]
    let b := d.get pos ix
    d.get en ix = 1 → d.dieGone die = false → d.get F.DOM_STATE [die] ≠ stKeep → d.hostShut = false →
    Tab.get false d.pauses 3 = false →
    (d.scrubCheck die kRead (die * 2 ^ 32 + 64 * b) 64 ≠ none → Gives (.patrolRead die) d fun e =>
      e.get pos ix = b ∧ e.ecc = d.ecc ∧ e.mem = d.mem ∧ e.hostMem = d.hostMem) ∧
    (d.scrubCheck die kRead (die * 2 ^ 32 + 64 * b) 64 = none → Gives (.patrolRead die) d fun e =>
      e.get pos ix = (if (if die < 6 then 3 else 2) * 2 ^ 30 ≤ 64 * (b + 1) then 0 else b + 1) ∧
      (∀ i < 8, d.eccAt (die * 2 ^ 32 + 64 * b + 8 * i) = 1 → e.eccAt (die * 2 ^ 32 + 64 * b + 8 * i) = 0) ∧
      e.mem = d.mem ∧ e.hostMem = d.hostMem)) ∧
  (∀ (d : Dev) (p : Nat), Powered d → p < 12 →
    (∀ down : Bool, Gives (.cxlPortLost p down) d fun e =>
      e.get F.XP_LOST (xpIx p) = 1 ∧ Tab.get false e.ext.lost p = true ∧ (down = true → e.get F.XP_LINK_UP (xpIx p) = 0) ∧
      OnlyFields [(F.XP_LOST, xpIx p), (F.XP_LINK_UP, xpIx p), (F.XP_RATE, xpIx p), (F.XP_WIDTH, xpIx p)] d e ∧
      e.reports.length = d.reports.length + 1 ∧ e.mem = d.mem) ∧
    (∀ records : List Nat, d.get F.XP_PRESENT (xpIx p) = 1 → Gives (.expanderEvent p records) d fun e =>
      e.reports.map (fun r => (r.code, r.arg)) = d.reports.map (fun r => (r.code, r.arg)) ++ records.map (fun r => (0x43, r)) ∧
      e = { d with reports := e.reports }) ∧
    (∀ status : Nat, d.get F.XP_LINK_UP (xpIx p) = 1 → Gives (.healthPoll p status) d fun e =>
      e.get F.XP_HEALTH (xpIx p) = status % 2 ^ 32 ∧ e.reports.length = d.reports.length + (if status = 0 then 0 else 1) ∧
      OnlyFields [(F.XP_HEALTH, xpIx p)] d e ∧ e = { d with regs := e.regs, reports := e.reports })))

/-- POWER_ON_RESET and SUPPLY_RESTART (20 R715, Table 20.1; 18 Table 18.9): both leave every register at its reset value and
only the T-arrays' contents; the first holds the unit until SYS_RESET_N is released, the second lets it begin again.
RESET_ARM and RESET_GO (17 R627, 20 R716): the arm is noted by requester and time; a go by the same requester within 1 ms,
where a warm reset is accepted, keeps the always-on registers named in Table 20.1, the chain, the fault log and expander
memory, and returns the rest to its reset values; bring-up begins at step 4 (which registers are kept is read in log 97). After power-on reset nothing waits, memory lists
nothing, every register reads its reset value, and the values of a few of the spec's tables are those (03, 04, 16 R593, R598,
20 R715); a core has P0 1 and everything else 0 (the model's choice where the spec gives a core register no reset value:
assumption 12). -/
def Obligations.ResetsKeepOnlyTheTArrays : Prop :=
  (
  (∀ d : Dev, Gives .powerOnReset d (AfterPowerReset 3 d)) ∧
  (∀ d : Dev, d.pwr.off = 1 → Gives .supplyRestart d (AfterPowerReset 0 d))) ∧
  (
  (∀ (d : Dev) (req : Nat), Powered d → Gives (.resetArm req) d fun e =>
    e = { d with warden := { d.warden with arm := some (req, d.now) } }) ∧
  (∀ (d : Dev) (req t : Nat), Powered d → d.warden.arm = some (req, t) → d.now ≤ t + oneMs →
    (d.get F.BOOT_STAGE = 9 ∨ d.get F.WARDEN_MODE = 2 ∨ d.get F.BOOT_ERR ≠ 0) → Gives (.resetGo req) d fun e =>
      e.get F.BOOT_STAGE = 2 ∧ e.boot.warm = true ∧ e.chain = d.chain ∧ e.get F.CHAIN_ADDR = d.get F.CHAIN_ADDR ∧
      e.get F.FAULT_HEAD = d.get F.FAULT_HEAD ∧ e.get F.FENCE_HISTORY = d.get F.FENCE_HISTORY ∧
      (∀ o, aonBlock o = false → ¬(0x3800000 ≤ o ∧ o < 0x3A00000) → e.reg o = regDefault o) ∧
      (∀ a, Tab.get 0 e.mem a = if 2 ^ 48 ≤ a then Tab.get 0 d.mem a else 0) ∧ e.queues = [] ∧ e.cores = [] ∧ e.parts = [] ∧
      e.engines = [] ∧ e.hostMem = d.hostMem)) ∧
  (
  let d := State.reset.dev
  State.reset.pending = [] ∧ d.mem = [] ∧ (∀ o, d.reg o = regDefault o) ∧
  (∀ p < 2, ∀ n < 6, d.get F.WEIGHT_1 [p, n] = 4 ∧ d.get F.WEIGHT_2 [p, n] = 4 ∧ d.get F.WEIGHT_3 [p, n] = 1 ∧
    d.get F.PORT_DIM [p, n] = 7 ∧ d.get F.PORT_STATE [p, n] = 0) ∧
  d.get F.ACK_TIMEOUT = 1000 ∧ d.get F.ENCAP_RTO = 100 ∧ d.get F.ENCAP_WINDOW = 256 ∧ d.get F.CHAIN_ADDR = 0 ∧
  d.get F.BOOT_STAGE = 0 ∧ d.get F.BOOT_ERR = 0 ∧ d.isMaster = false ∧ d.cad.joined = false ∧ ∀ key, CoreOk key (d.core key))

/-- BRINGUP (20 Table 20.5, R721 to R724, R730): from the held reset the first failing step sets BOOT_ERR and stops there;
with STRAP_BOOT 1 the unit waits for its host's image; else it goes on to READY when no external memory is to be laid out,
and waits for a plugged expander that has not attached. A die that is fused off, fails its test or has no working link is absent. That
the stages pass in one step is the model's choice (log 101); what an image without some section gives is read in log 125. -/
def Obligations.BringUp : Prop :=
  ∀ (d : Dev) (a : BringAns), d.pwr.off = 3 → d.get F.FENCED = 0 →
    let straps := fun (e : Dev) =>
      e.get F.STRAP_HEAD = b2n a.head ∧ e.get F.STRAP_CHAIN_ID = a.chainId % 256 ∧ e.get F.STRAP_BOOT = a.boot % 4
    let warden := fun (e : Dev) =>
      e.get F.SERIAL_LO = a.serial % 2 ^ 32 ∧ e.get F.SERIAL_HI = a.serial / 2 ^ 32 % 2 ^ 32 ∧
      e.get F.SEC_RESTORE = b2n (!a.hasColB) ∧ e.get F.BOOT_ERR = d.get F.BOOT_ERR
    (bootErrOf a ≠ 0 → Gives (.bringup a) d fun e =>
      BootStopped (bootErrOf a) e ∧ straps e ∧ e.pwr.off = 0 ∧ e.mem = d.mem ∧ e.hostMem = d.hostMem ∧
      e.get F.BOOT_STAGE = (if bootErrOf a = 2 then 2 else if bootErrOf a = 3 then 3 else
        if bootErrOf a = 4 ∨ bootErrOf a = 5 then 4 else 1)) ∧
    (bootErrOf a = 0 → a.boot % 4 = 1 → Gives (.bringup a) d fun e =>
      straps e ∧ warden e ∧ e.get F.BOOT_STAGE = 6 ∧ e.boot.ans = some a ∧ e.host.rrs = false ∧ e.pwr.off = 0 ∧
      e.mem = d.mem ∧ e.hostMem = d.hostMem) ∧
    (∀ b, bootErrOf a = 0 → a.boot % 4 = 0 → a.board = some b →
      let dies := (List.range 6).filter fun k => !bitAt a.fusedOff k && !bitAt a.crestBad k && !bitAt a.linkBad k
      let present := fun (e : Dev) => ∀ k < 8, bitAt (e.get F.DIE_PRESENT) k =
        (if k < 6 then dies.contains k else if k = 6 then true else a.hasColB)
      (b.extMode % 4 = 0 → b.noDefaultPart = true → a.plugged % 2 ^ 12 = 0 → Gives (.bringup a) d fun e =>
        straps e ∧ warden e ∧ present e ∧ e.get F.BOOT_STAGE = 9 ∧ e.host.rrs = false ∧ e.pwr.off = 0 ∧
        e.hostMem = d.hostMem) ∧
      (∀ p < 12, bitAt a.plugged p = true → d.flag F.XP_PRESENT [p / 2, p % 2] = false → Gives (.bringup a) d fun e =>
        straps e ∧ warden e ∧ present e ∧ e.get F.BOOT_STAGE = 8 ∧ e.boot.extWait = true ∧ e.host.rrs = true ∧
        e.pwr.off = 0 ∧ e.hostMem = d.hostMem))

/-- BOOT_LOAD (20 R724): in WAIT_HOST a read that fails, or an image that does not check, is BOOT_ERR 7; a good one sets
HOST_LOADED, and bring-up goes on with its sections. EXPANDER_ATTACH, XP_WAIT_EXPIRY and DIE_STARTUP (15 Table 15.8; 20 R726,
R731): an expander that answers after the wait is described in its port's registers and nothing else changes; when the wait
expires bring-up goes on without the others; a crest die that returns from Off holds its target state or, failing its test,
stays Off and is no longer present. Which stage fails first is read in log 102. -/
def Obligations.BootLoad : Prop :=
  (
  ∀ (d : Dev) (data : List Byte) (a : BringAns) (b : BoardBlock), Powered d → d.get F.BOOT_STAGE = 6 → d.get F.BOOT_ERR = 0 →
    d.boot.ans = some a → d.boot.board = some b →
    let held := d.hostHolds (d.get64 F.BOOT_IMG_ADDR_LO F.BOOT_IMG_ADDR_HI / 4096 * 4096) data
    Gives (.bootLoad data true) d (BootStopped 7) ∧
    (d.canMaster 0 = false ∨ held.hostImage = none → Gives (.bootLoad data false) d (BootStopped 7)) ∧
    (∀ img, d.canMaster 0 = true → held.hostImage = some img → b.extMode % 4 = 0 → b.noDefaultPart = true →
      a.plugged % 2 ^ 12 = 0 → Gives (.bootLoad data false) d fun e =>
        e.get F.HOST_LOADED = 1 ∧ e.get F.BOOT_STAGE = 9 ∧ e.get F.BOOT_ERR = 0 ∧ e.host.rrs = false)) ∧
  (
  (∀ (d : Dev) (p cap rate width poison health : Nat), Powered d → p < 12 → Tab.get false d.boot.released p = true →
    d.dieGone (p / 2) = false → d.boot.extWait = false → Gives (.expanderAttach p cap rate width poison health) d fun e =>
      let ix := [p / 2, p % 2]
      e.get F.XP_PRESENT ix = 1 ∧ e.get F.XP_LINK_UP ix = 1 ∧ e.get F.XP_RATE ix = rate % 4 ∧ e.get F.XP_WIDTH ix = width % 16 ∧
      e.get F.XP_CAP_GIB ix = min cap 64 ∧ e.get F.XP_POISON_COUNT ix = poison % 2 ^ 32 ∧
      e.get F.XP_HEALTH ix = health % 2 ^ 32 ∧ OnlyRegs d e ∧
      OnlyFields [(F.XP_PRESENT, ix), (F.XP_LINK_UP, ix), (F.XP_RATE, ix), (F.XP_WIDTH, ix), (F.XP_CAP_GIB, ix),
        (F.XP_POISON_COUNT, ix), (F.XP_HEALTH, ix)] d e) ∧
  (∀ (d : Dev) (b : BoardBlock), Powered d → d.boot.extWait = true → d.boot.board = some b → b.extMode % 4 = 0 →
    b.noDefaultPart = true → Gives .xpWaitExpiry d fun e =>
      e.get F.BOOT_STAGE = 9 ∧ OnlyFields [(F.BOOT_STAGE, [])] d e ∧
      e = { d with
        regs := e.regs, host := { d.host with rrs := false }, boot := { d.boot with extWait := false } }) ∧
  (∀ (d : Dev) (die : Nat) (f : Flight), Powered d → die < 6 → Tab.get none d.pwr.flight die = some f →
    d.get F.DOM_STATE [die] = stOff → f.target < stOff →
    (Gives (.dieStartup die true) d fun e => e.get F.DOM_STATE [die] = f.target ∧ e.mem = d.mem ∧ e.hostMem = d.hostMem) ∧
    (Gives (.dieStartup die false) d fun e =>
      e.get F.DOM_STATE [die] = stOff ∧ e.flag F.DOM_BUSY [die] = false ∧ e.diePresent die = false ∧
      bitAt (e.get F.DIE_TEST_FAIL) die = true ∧ e.get F.DOM_REFUSED = 1 ∧ e.mem = d.mem ∧ e.hostMem = d.hostMem)))

/-- SHUTDOWN_ARM, SHUTDOWN_GO, SHUTDOWN_ABORT and POINT_OF_NO_RETURN (20 R733, R734, Table 20.8): the arm is noted by
requester and time; a go by the same requester within 1 ms is refused, with the flag and nothing else, unless the unit is
READY, no master, no relay and without partitions; else the stage is SHUTDOWN, starts are held and the alarms are idle. An
abort before the regulator-disable step returns to READY; that step turns the rails off in order, or leaves the unit Off at
once. -/
def Obligations.OrderlyShutDown : Prop :=
  (∀ (d : Dev) (req : Nat), Powered d → Gives (.shutdownArm req) d fun e =>
    e = { d with warden := { d.warden with shutArm := some (req, d.now) } }) ∧
  (∀ (d : Dev) (req t : Nat), Powered d → d.warden.shutArm = some (req, t) → d.now ≤ t + oneMs →
    let refused := d.get F.BOOT_STAGE ≠ 9 ∨ d.isMaster = true ∨ d.flag F.RELAY = true ∨
      ∃ p < 64, d.get F.P_STATE [p] ≠ pDISABLED
    (refused → Gives (.shutdownGo req) d fun e =>
      e.get F.SHUTDOWN_REFUSED = 1 ∧ OnlyFields [(F.SHUTDOWN_REFUSED, [])] d e ∧ OnlyRegs d e) ∧
    (¬refused → Gives (.shutdownGo req) d fun e =>
      e.get F.BOOT_STAGE = 10 ∧ Tab.get false e.pauses 3 = true ∧ e.alarms = [] ∧ e.dispatch = [] ∧
      (∀ n < 256, e.get F.AL_STATE [n] = 0 ∧
        e.get F.AL_LAST [n] = (if d.get F.AL_STATE [n] ≠ 0 then stCANCELLED else d.get F.AL_LAST [n])) ∧
      (∀ p < 12, d.flag F.XP_PRESENT [p / 2, p % 2] = true → e.flag F.XP_LINK_UP [p / 2, p % 2] = false) ∧
      e.mem = d.mem ∧ e.hostMem = d.hostMem)) ∧
  (∀ d : Dev, Powered d → d.get F.BOOT_STAGE = 10 → Tab.get false d.pauses 4 = false →
    (Gives .shutdownAbort d fun e =>
      e.get F.BOOT_STAGE = 9 ∧ Tab.get false e.pauses 3 = false ∧ OnlyFields [(F.BOOT_STAGE, [])] d e ∧
      e = { d with
        regs := e.regs, pauses := e.pauses, boot := { d.boot with released := d.boot.plugged } }) ∧
    ((∀ r < 12, d.flag F.RAIL_ENABLED [r] = false ∧ d.flag F.RAIL_IN_FLIGHT [r] = false) → Gives .pointOfNoReturn d fun e =>
      e.pwr.off = 2 ∧ ∀ o, e.reg o = regDefault o) ∧
    (∀ r < 12, d.flag F.RAIL_ENABLED [r] = true → Gives .pointOfNoReturn d fun e =>
      e.pwr.offTo = 2 ∧ e.pwr.offSeq ≠ [] ∧ Tab.get false e.pauses 4 = true ∧ e.hostShut = true ∧ e.mem = d.mem ∧
      e.hostMem = d.hostMem ∧ (∀ n < 12, e.fabUp n = false)))

/-- POWER_REQ (18 R645, R646, R679): a request that Table 18.1 or a rule of R645 refuses sets DOM_REFUSED and nothing else;
one for a domain at rest in another state begins the transition; one for the state it holds changes nothing but REQUESTED;
one for a domain in transition takes the pending slot. How a domain is named is the model's choice (log 92). -/
def Obligations.PowerRequest : Prop :=
  ∀ (d : Dev) (st dom : Nat), Powered d → st < 8 → dom < 256 → d.get F.WARDEN_MODE ≠ 2 → d.get F.WARDEN_MODE ≠ 3 →
    (d.reqRefused st dom = true → Gives (.powerReq st dom) d fun e =>
      e.get F.DOM_REFUSED = 1 ∧ OnlyFields [(F.DOM_REFUSED, [])] d e ∧ OnlyRegsIrq d e) ∧
    (d.reqRefused st dom = false → dom < 9 →
      (∀ cur, AtRest d dom cur → cur < stOff → cur ≠ st → ¬(st = stRun ∧ d.get F.DOM_FLOOR [dom] = 1) →
        Gives (.powerReq st dom) d fun e =>
          Moving dom st d e ∧ e.get F.DOM_REQUESTED [dom] = st ∧ e.mem = d.mem ∧ e.hostMem = d.hostMem ∧
          ∀ x < 12, x ≠ dom → e.get F.DOM_STATE [x] = d.get F.DOM_STATE [x]) ∧
      (AtRest d dom st → ¬(st = stRun ∧ d.get F.DOM_FLOOR [dom] = 1) → Gives (.powerReq st dom) d fun e =>
        e.get F.DOM_REQUESTED [dom] = st ∧ OnlyFields [(F.DOM_REQUESTED, [dom])] d e ∧ OnlyRegs d e) ∧
      (d.flag F.DOM_BUSY [dom] = true → Gives (.powerReq st dom) d fun e =>
        e.get F.DOM_REQUESTED [dom] = st ∧ e.get F.DOM_PENDING [dom] = st ∧
        OnlyFields [(F.DOM_REQUESTED, [dom]), (F.DOM_PENDING, [dom])] d e ∧ OnlyRegs d e))

/-- DOMAIN_TRANSITION_DONE, WAKE, WAKE_IN and WAKE_DELAY_DONE (18 R647 to R653): a drained domain whose rails have
acknowledged reaches its lower state, and one that still runs a chunk waits; a wake of a domain at rest in Doze or Keep
begins its exit, and a wake of one that is awake changes nothing; at the end of the fixed delay the domain is in its target,
or waits for its rail and counts that once. What each row ends is read in log 93. -/
def Obligations.DomainTransitions : Prop :=
  ∀ (d : Dev) (dom : Nat), Powered d → dom < 9 → d.get F.WARDEN_MODE ≠ 2 →
    (∀ f, Tab.get none d.pwr.flight dom = some f → f.target < 5 → d.get F.DOM_STATE [dom] ≤ f.target →
      (f.stage = 1 → d.railsReady dom = true → Gives (.domainTransitionDone dom) d fun e =>
        e.get F.DOM_STATE [dom] = f.target ∧ e.hostMem = d.hostMem) ∧
      (f.stage = 1 → d.railsReady dom = false → Gives (.domainTransitionDone dom) d fun e => e = d) ∧
      (f.stage = 0 → d.drained dom = false → Gives (.domainTransitionDone dom) d fun e => e = d)) ∧
    (∀ st edge, AtRest d dom st → st = stDoze ∨ st = stKeep → Gives (.wake dom edge) d fun e =>
      Moving dom (d.floored dom (d.wakeTarget dom)) d e ∧ e.get F.DOM_REQUESTED [dom] = d.wakeTarget dom ∧
      e.mem = d.mem ∧ e.hostMem = d.hostMem) ∧
    (∀ edge, d.domAsleep dom = false → Tab.get false d.wakes dom = false → Gives (.wake dom edge) d fun e => e = d) ∧
    (∀ st, AtRest d dom st → st = stDoze ∨ st = stKeep → bitAt (d.get F.WAKE_SET) dom = true → d.pwr.wakeIn = false →
      Gives (.wakeIn true) d fun e =>
        Moving dom (d.floored dom (d.wakeTarget dom)) d e ∧ e.pwr.wakeIn = true ∧ e.mem = d.mem ∧ e.hostMem = d.hostMem) ∧
    (Gives (.wakeIn false) d fun e => e = { d with pwr := { d.pwr with wakeIn := false } }) ∧
    (∀ f, Tab.get none d.pwr.flight dom = some f → f.target < d.get F.DOM_STATE [dom] → d.get F.DOM_STATE [dom] ≠ stOff →
      d.waiting = [] → d.warden.wait = [] →
      (d.railsReady dom = true → d.fab.heldIn = [] → Gives (.wakeDelayDone dom) d fun e =>
        e.get F.DOM_STATE [dom] = f.target ∧ e.hostMem = d.hostMem) ∧
      (d.railsReady dom = false → Tab.get false d.pwr.late dom = false → Gives (.wakeDelayDone dom) d fun e =>
        e.get F.WAKE_LATE_COUNT = min (d.get F.WAKE_LATE_COUNT + 1) 65535 ∧ OnlyFields [(F.WAKE_LATE_COUNT, [])] d e ∧
        e = { d with regs := e.regs, pwr := { d.pwr with late := e.pwr.late } }))

/-- RAIL_ACK, AVS_ADJUST and RAIL_FAULT (18 R659 to R663): an acknowledged rail reports its voltage, and the pending request
follows when it asks for another level; an adjustment of at most 10 mV within the band is asked of a rail that is free; a
fault on a crest's own rail loses that die, one on a shared rail stops the unit. THERMAL_THRESHOLD, THROTTLE_RELEASE,
THERMAL_TRIP and CAP_ESTIMATE (18 R665, R666): a die at THERM_THROTTLE is floored to Trim, and released when it has cooled; a
trip loses a crest die and stops the unit for Col-A; a step of the cap halves every budget above 1,024 and its undoing
restores them; with no budget left to halve a crest die is floored to Trim, from C5 down. What waits at a rail, and which step is undone,
are readings (logs 94 and 95). -/
def Obligations.Rails : Prop :=
  (
  ∀ (d : Dev) (r : Nat), Powered d → r < 12 → Tab.get 0 d.pwr.emerg r = 0 →
    (d.flag F.RAIL_IN_FLIGHT [r] = true → d.pwr.offSeq = [] →
      ∀ now, (d.flag F.RAIL_PENDING_VALID [r] = false → Gives (.railAck r now) d fun e =>
        e.get F.RAIL_NOW [r] = now % 2 ^ 16 ∧ e.flag F.RAIL_IN_FLIGHT [r] = false ∧
        e.flag F.RAIL_ENABLED [r] = decide (d.get F.RAIL_TARGET [r] ≠ 0) ∧
        OnlyFields [(F.RAIL_NOW, [r]), (F.RAIL_IN_FLIGHT, [r]), (F.RAIL_ENABLED, [r])] d e ∧ OnlyRegs d e) ∧
      (d.flag F.RAIL_PENDING_VALID [r] = true → d.get F.RAIL_PENDING [r] ≠ d.get F.RAIL_TARGET [r] →
        Gives (.railAck r now) d fun e =>
          e.get F.RAIL_NOW [r] = now % 2 ^ 16 ∧ e.get F.RAIL_TARGET [r] = d.get F.RAIL_PENDING [r] ∧
          e.flag F.RAIL_IN_FLIGHT [r] = true ∧ e.flag F.RAIL_PENDING_VALID [r] = false ∧ OnlyRegs d e)) ∧
    (∀ mv, r ∈ [0, 1, 2, 3, 4, 5, 8, 9] → (∀ x ∈ railDoms r, AtRest d x stRun) → d.flag F.RAIL_ENABLED [r] = true →
      700 ≤ mv → mv ≤ 850 → mv ≤ d.get F.RAIL_TARGET [r] + 10 → d.get F.RAIL_TARGET [r] ≤ mv + 10 →
      d.get F.WARDEN_MODE ≠ 2 → d.railFree r = true → d.flag F.RAIL_IN_FLIGHT [r] = false → Gives (.avsAdjust r mv) d fun e =>
        e.get F.RAIL_TARGET [r] = mv ∧ e.flag F.RAIL_IN_FLIGHT [r] = true ∧
        OnlyFields [(F.RAIL_TARGET, [r]), (F.RAIL_IN_FLIGHT, [r])] d e ∧ OnlyRegs d e) ∧
    (d.get F.WARDEN_MODE < 2 →
      (r < 6 → d.diePresent r = true → d.dieIsLost r = false → Gives (.railFault r) d fun e =>
        e.get F.FAULT_COUNT [0x15] = min (d.get F.FAULT_COUNT [0x15] + 1) (2 ^ 32 - 1) ∧ e.dieIsLost r = true ∧
        e.get F.DOM_STATE [r] = stOff) ∧
      (6 ≤ r → Gives (.railFault r) d fun e =>
        e.get F.FAULT_COUNT [0x16] = min (d.get F.FAULT_COUNT [0x16] + 1) (2 ^ 32 - 1) ∧ e.get F.WARDEN_MODE = 2 ∧
        e.hostMem = d.hostMem))) ∧
  (
  (∀ (d : Dev) (die temp : Nat), Powered d → die < 6 → temp < 256 →
    (d.get F.THERM_THROTTLE ≤ temp → d.get F.DOM_FLOOR [die] = 0 → AtRest d die stRun → Gives (.thermalThreshold die temp) d fun e =>
      e.get F.TEMP [die] = temp ∧ e.get F.THROTTLED = 1 ∧ e.get F.DOM_FLOOR [die] = 1 ∧ Moving die stTrim d e ∧
      (d.get F.THERM_WARN ≤ temp → e.get F.THERM_WARN_EV = 1) ∧ e.mem = d.mem ∧ e.hostMem = d.hostMem) ∧
    (temp < d.get F.THERM_WARN → temp < d.get F.THERM_THROTTLE → Gives (.thermalThreshold die temp) d fun e =>
      e.get F.TEMP [die] = temp ∧ OnlyFields [(F.TEMP, [die])] d e ∧ OnlyRegs d e) ∧
    (temp + 5 < d.get F.THERM_THROTTLE → d.get F.DOM_FLOOR [die] = 1 → Tab.get false d.pwr.capped die = false →
      AtRest d die stTrim → d.get F.DOM_REQUESTED [die] = stRun → Gives (.throttleRelease die temp) d fun e =>
        e.get F.TEMP [die] = temp ∧ e.get F.DOM_FLOOR [die] = 0 ∧ Moving die stRun d e ∧
        Tab.get false e.pwr.thermal die = false ∧ e.mem = d.mem ∧ e.hostMem = d.hostMem)) ∧
  (∀ (d : Dev) (die : Nat), Powered d → d.get F.WARDEN_MODE < 2 →
    (die < 6 → d.diePresent die = true → d.dieIsLost die = false → Gives (.thermalTrip die) d fun e =>
      e.get F.TEMP [die] = 110 ∧ e.dieIsLost die = true) ∧
    (die = 6 → Gives (.thermalTrip die) d fun e =>
      e.get F.TEMP [die] = 110 ∧ e.get F.WARDEN_MODE = 2 ∧ e.hostMem = d.hostMem)) ∧
  (∀ (d : Dev) (w avg : Nat), Powered d →
    (∀ undo, d.get F.PWR_CAP_W ≠ 0 → d.get F.PWR_CAP_W < avg → (∃ x < 6, 1024 < d.get F.SC_BUDGET [x]) →
      Gives (.capEstimate w avg true undo) d fun e =>
        e.get F.PWR_NOW_W = min w 65535 ∧ e.get F.CAP_ACTIVE = 1 ∧ (∀ x < 6, e.get F.SC_BUDGET [x] =
          if 1024 < d.get F.SC_BUDGET [x] then max 1024 (d.get F.SC_BUDGET [x] / 2) else d.get F.SC_BUDGET [x]) ∧
        e.pwr = { d.pwr with halved := d.budgets :: d.pwr.halved } ∧ e.mem = d.mem ∧ e.hostMem = d.hostMem) ∧
    (∀ undo, d.get F.PWR_CAP_W ≠ 0 → d.get F.PWR_CAP_W < avg → (∀ x < 6, d.get F.SC_BUDGET [x] ≤ 1024) → d.dieGone 5 = false →
      Tab.get false d.pwr.capped 5 = false → Gives (.capEstimate w avg true undo) d fun e =>
        Tab.get false e.pwr.capped 5 = true ∧ e.get F.DOM_FLOOR [5] = 1 ∧ e.get F.CAP_ACTIVE = 1 ∧ e.mem = d.mem ∧
        e.hostMem = d.hostMem) ∧
    (∀ b l, d.get F.PWR_CAP_W ≠ 0 → avg * 10 < d.get F.PWR_CAP_W * 9 → d.pwr.capped = [] → d.pwr.halved = b :: l →
      Gives (.capEstimate w avg false true) d fun e =>
        e.get F.PWR_NOW_W = min w 65535 ∧ (∀ x < 6, e.get F.SC_BUDGET [x] = b.getD x 8192 % 2 ^ 14) ∧
        e.pwr = { d.pwr with halved := l } ∧ (l = [] → e.get F.CAP_ACTIVE = 0) ∧ e.mem = d.mem ∧ e.hostMem = d.hostMem) ∧
    (∀ step, (d.get F.PWR_CAP_W = 0 ∨ avg ≤ d.get F.PWR_CAP_W) → Gives (.capEstimate w avg step false) d fun e =>
      e.get F.PWR_NOW_W = min w 65535 ∧ OnlyFields [(F.PWR_NOW_W, [])] d e ∧ OnlyRegs d e)))

/-- SUPPLY_LOW, SUPPLY_GRACE, SUPPLY_RETURNED and RES_CLEAR (18 R668 to R671): a low supply is reported and work is held;
after the grace time the rails are turned off; a supply that returns before that lets work go on; RES_CLEAR empties the
residency counters and nothing else. AUX_EN, AUX_FAIL, AUX_RETRY, AUX_STABLE and AUX_CLEAR (18 R673, R674): a failed attempt
turns the rail off and is counted; the third in a row latches it off with vector 5, an earlier one waits for a retry; a
stable rail has no attempts counted; an enable, a retry or a clear starts an attempt, and a clear lifts the latch. AUX_ON shows AUX_VSNS:
a rail that is high while its gate is not driven is shorted, and stays reported as on (22 R796; its level comes with AUX_EN, log 98). -/
def Obligations.Supply : Prop :=
  (
  ∀ d : Dev, Powered d → Tab.get false d.pauses 4 = false →
    (∀ mv, Tab.get false d.pauses 0 = false → mv < d.get F.VIN_LOSS_MV → mv ≤ 60000 → 5 ≤ d.get F.BOOT_STAGE →
      Gives (.supplyLow mv) d fun e =>
        e.get F.VIN_NOW = mv ∧ e.get F.SUPPLY_LOW = 1 ∧ Tab.get false e.pauses 0 = true ∧ e.workHeld = true ∧
        OnlyFields [(F.VIN_NOW, []), (F.SUPPLY_LOW, [])] d e ∧ OnlyTalk { d with pauses := e.pauses } e) ∧
    (∀ mv, Tab.get false d.pauses 0 = true → d.get F.VIN_OK_MV ≤ mv → mv ≤ 60000 → Gives (.supplyReturned mv) d fun e =>
      e.get F.VIN_NOW = mv ∧ e.get F.SUPPLY_BACK = 1 ∧ Tab.get false e.pauses 0 = false ∧
      OnlyFields [(F.VIN_NOW, []), (F.SUPPLY_BACK, [])] d e ∧ OnlyTalk { d with pauses := e.pauses } e) ∧
    (Tab.get false d.pauses 0 = true → (∃ r < 12, d.railFree r = true ∧ d.flag F.RAIL_ENABLED [r] = true) → Gives .supplyGrace d fun e =>
      e.pwr.offTo = (if d.get F.BOOT_STAGE = 10 then 2 else 1) ∧ e.pwr.offSeq ≠ [] ∧ Tab.get false e.pauses 4 = true ∧
      e.hostShut = true ∧ e.mem = d.mem ∧ e.hostMem = d.hostMem) ∧
    (Gives .resClear d fun e => e = { d with pwr := { d.pwr with resCyc := [], resTick := [] } })) ∧
  (
  ∀ d : Dev, Powered d → d.get F.UNIT_STATE ≠ stKeep →
    let on := fun (e : Dev) => e.get F.AUX_ON = 1 ∧ e.get F.DOM_STATE [11] = stRun
    (∀ b vsns, (b = true → d.flag F.AUX_LATCHED = false ∧ d.pwr.auxRetry = false ∧ d.pwr.auxDrive = false) →
      Gives (.auxEn ⟨b, vsns⟩) d fun e =>
        e.get F.AUX_EN = b2n b ∧ e.get F.AUX_ON = b2n vsns ∧ e.get F.DOM_STATE [11] = (if b then stRun else stOff) ∧
        OnlyFields [(F.AUX_EN, []), (F.AUX_ON, []), (F.DOM_STATE, [11])] d e ∧
        e = { d with regs := e.regs, pwr := { d.pwr with auxDrive := b, auxShort := if b then d.pwr.auxShort else vsns, auxRetry := false } }) ∧
    (d.pwr.auxDrive = true →
      (d.get F.AUX_ATTEMPTS < 2 → Gives .auxFail d fun e =>
        e.get F.AUX_ATTEMPTS = d.get F.AUX_ATTEMPTS + 1 ∧ e.get F.AUX_ON = b2n d.pwr.auxShort ∧ e.get F.DOM_STATE [11] = stOff ∧
        OnlyFields [(F.AUX_ATTEMPTS, []), (F.AUX_ON, []), (F.DOM_STATE, [11])] d e ∧
        e = { d with regs := e.regs, pwr := { d.pwr with auxRetry := true, auxDrive := false } }) ∧
      (2 ≤ d.get F.AUX_ATTEMPTS → Gives .auxFail d fun e =>
        e.get F.AUX_ATTEMPTS = 3 ∧ e.get F.AUX_ON = b2n d.pwr.auxShort ∧ e.get F.AUX_LATCHED = 1 ∧ e.get F.DOM_STATE [11] = stOff ∧
        OnlyFields [(F.AUX_ATTEMPTS, []), (F.AUX_ON, []), (F.AUX_LATCHED, []), (F.DOM_STATE, [11])] d e ∧
        OnlyTalk { d with pwr := { d.pwr with auxDrive := false } } e) ∧
      Gives .auxStable d fun e =>
        e.get F.AUX_ATTEMPTS = 0 ∧ e.get F.AUX_ON = 1 ∧ OnlyFields [(F.AUX_ATTEMPTS, []), (F.AUX_ON, [])] d e ∧ OnlyRegs d e) ∧
    (d.flag F.AUX_EN = true → d.pwr.auxDrive = false →
      (d.pwr.auxRetry = true → d.flag F.AUX_LATCHED = false → Gives .auxRetry d fun e =>
        on e ∧ OnlyFields [(F.AUX_ON, []), (F.DOM_STATE, [11])] d e ∧
        e = { d with regs := e.regs, pwr := { d.pwr with auxRetry := false, auxDrive := true } }) ∧
      (d.pwr.auxRetry = false → Gives .auxClear d fun e =>
        on e ∧ e.get F.AUX_LATCHED = 0 ∧ e.get F.AUX_ATTEMPTS = 0 ∧
        OnlyFields [(F.AUX_ON, []), (F.AUX_LATCHED, []), (F.AUX_ATTEMPTS, []), (F.DOM_STATE, [11])] d e ∧
        e = { d with regs := e.regs, pwr := { d.pwr with auxDrive := true } })))

/-- VOTER_VERDICT, RESYNC and RESYNC_DONE (17 R613 to R615): with all cores running, agreement changes nothing, one core that
differs is fenced and the other two go on as a pair, and three different signatures stop the unit, as do a disagreement of
the pair, of the voters, or during RESYNC; a resync of the fenced core restores TRIPLE, or is refused with its flag and
nothing else. What is deferred during RESYNC is read in log 87. -/
def Obligations.WardenVoting : Prop :=
  ∀ d : Dev, Powered d → d.get F.WARDEN_MODE ≠ 2 →
    (∀ a b c n, Gives (.voterVerdict a b c n false) d (SafeStopBegun 0x04 d)) ∧
    (∀ a n, Gives (.voterVerdict a a a n true) d fun e => e = d) ∧
    (d.get F.WARDEN_MODE = 0 → d.get F.FENCED = 0 → d.get F.WD_PRESENT = 7 → ∀ a b c n,
      (∀ x, (x = 2 ∧ a = b ∧ a ≠ c) ∨ (x = 1 ∧ a = c ∧ a ≠ b) ∨ (x = 0 ∧ b = c ∧ a ≠ b) →
        Gives (.voterVerdict a b c n true) d fun e =>
          e.get F.WARDEN_MODE = 1 ∧ e.get F.FENCED = 2 ^ x ∧
          (∀ y < 3, bitsOf (e.get F.FENCE_HISTORY) (8 * y) 8 =
            min 255 (bitsOf (d.get F.FENCE_HISTORY) (8 * y) 8 + if y = x then 1 else 0)) ∧
          e.get F.FAULT_COUNT [1] = min (d.get F.FAULT_COUNT [1] + 1) (2 ^ 32 - 1) ∧ e.mem = d.mem ∧ e.hostMem = d.hostMem ∧
          e.queues = d.queues ∧ e.cores = d.cores) ∧
      (a ≠ b → a ≠ c → b ≠ c → Gives (.voterVerdict a b c n true) d (SafeStopBegun 0x03 d))) ∧
    (d.get F.WARDEN_MODE = 1 → d.get F.FENCED = 4 → bitsOf (d.get F.WD_PRESENT) 0 2 = 3 → ∀ a b c n, a ≠ b →
      Gives (.voterVerdict a b c n true) d (SafeStopBegun 0x02 d)) ∧
    (∀ x, d.fencedCore = some x →
      let may := d.get F.WARDEN_MODE = 1 ∧ d.dieGone (if x = 2 then 7 else 6) = false ∧
        bitsOf (d.get F.FENCE_HISTORY) (8 * x) 8 < 3
      (may → Gives .resync d fun e => e.get F.WARDEN_MODE = 3 ∧ OnlyFields [(F.WARDEN_MODE, [])] d e ∧ OnlyRegsIrq d e) ∧
      (¬may → Gives .resync d fun e =>
        e.get F.RESYNC_REFUSED = 1 ∧ OnlyFields [(F.RESYNC_REFUSED, [])] d e ∧ OnlyRegs d e) ∧
      (d.get F.WARDEN_MODE = 3 → d.warden.acts = [] → d.warden.wait = [] → Gives (.resyncDone true) d fun e =>
        e.get F.WARDEN_MODE = 0 ∧ bitAt (e.get F.FENCED) x = false ∧
        OnlyFields [(F.WARDEN_MODE, []), (F.FENCED, [])] d e ∧ OnlyRegsIrq d e)) ∧
    (d.get F.WARDEN_MODE = 3 → Gives (.resyncDone false) d (SafeStopBegun 0x09 d))

/-- FORCE_SAFE_STOP, SAFE_STOP, REFCLK_LOSS, AON_CLOCK_LOSS, WARDEN_WATCHDOG and SAFE_STOP_ENGINES_STOPPED (17 R616, R621,
Table 17.5): each begins the safe stop of its code; once no engine runs a chunk, the record is written at the head of the
log. -/
def Obligations.WardenSafeStop : Prop :=
  (∀ d : Dev, Powered d → d.get F.WARDEN_MODE ≠ 2 →
    Gives .forceSafeStop d (SafeStopBegun 0x5F d) ∧ Gives .refclkLoss d (SafeStopBegun 0x10 d) ∧
    Gives .aonClockLoss d (SafeStopBegun 0x11 d) ∧
    (d.domAsleep 8 = false → Gives .wardenWatchdog d (SafeStopBegun 0x05 d)) ∧
    (∀ code arg core, reactionOf code = some 3 → Gives (.safeStop code arg core) d (SafeStopBegun code d))) ∧
  (∀ (d : Dev) (w : List Word), Powered d → d.warden.stop = some w → (∀ x ∈ d.engines, x.2.busy = none) →
    Gives .safeStopEnginesStopped d fun e =>
      e.warden = { d.warden with stop := none } ∧ e.get F.FAULT_HEAD = (d.get F.FAULT_HEAD + 1) % 2 ^ 16 ∧
      (∀ i < 8, e.reg (F.FAULT_LOG.off [d.get F.FAULT_HEAD % 256, i]) = w.getD i 0) ∧
      OnlyRegsIrq { d with warden := e.warden } e)

/-- FAULT_REPORT and ENGINE_HANG (17 R619, R620, Table 17.5): a reported fault is counted and its reaction performed: a
corrected one is recorded and nothing stops; one contained to a partition ends the commands it touched; one contained to a
die loses it; any other stops the unit. A hung instance forgets its chunk, whose command ends with FAULT. SHELF_DEGRADED,
SHELF_LINK_DOWN and SHELF_RETRAIN_DONE (01 R33, R45, R46): a link that lost a module runs at half rate and retrains, with
code 0x31; one that lost both is down, with code 0x33 counted; retraining brings it up by one module. How links are numbered and
which end a record names are the model's choices (log 112), what retraining brings up is read in log 91, what a Col SRAM error ends in
log 120, what waits for MGMT in log 88, and ARG of an ECC code is free (log 89). -/
def Obligations.FaultReactions : Prop :=
  (
  (∀ (d : Dev) (x : Detect) (qs : List Nat), Powered d → d.reports = [] → d.get F.WARDEN_MODE < 2 → d.domAsleep 8 = false →
    x.code < 256 →
    let r := d.reportNow x
    let h := d.get F.FAULT_HEAD
    let counted := fun (e : Dev) =>
      e.get F.FAULT_COUNT [x.code] = min (d.get F.FAULT_COUNT [x.code] + 1) (2 ^ 32 - 1) ∧ e.reports = []
    (reactionOf x.code = some 0 → Gives (.faultReport (some x) qs) d fun e =>
      counted e ∧ e.queues = d.queues ∧ e.mem = d.mem ∧ e.hostMem = d.hostMem ∧ e.cores = d.cores ∧ e.parts = d.parts ∧
      (d.logFull = false → Tab.get none d.warden.ccAt (x.code * 8 + x.die) = none →
        e.get F.FAULT_HEAD = (h + 1) % 2 ^ 16 ∧
        e.reg (F.FAULT_LOG.off [h % 256, 0]) = BitVec.ofNat 32 (h + x.code * 2 ^ 16))) ∧
    (reactionOf x.code = some 1 → x.code ∉ [0x23, 0x25, 0x28, 0x29, 0x4B, 0x50] → Gives (.faultReport (some x) qs) d fun e =>
      counted e ∧ e.mem = d.mem ∧ e.hostMem = d.hostMem ∧ (∀ k, k ∉ qs → e.queue k = d.queue k) ∧
      ∀ k ∈ qs, ∀ c, d.cmdOf k = some c → c.phase = .running → ∃ c', e.cmdOf k = some c' ∧
        (if c.ready then c'.fail = some (c.fail.getD (stFAULT, detailOf x.code)) ∧ c'.todo = []
         else c'.phase = .ended stFAULT (detailOf x.code))) ∧
    (x.code = 0x4B → Gives (.faultReport (some x) qs) d fun e => counted e ∧ e.queues = d.queues ∧ e.mem = d.mem) ∧
    (d.reactionTo r = some 2 → d.diePresent r.lostDie = true → d.dieIsLost r.lostDie = false →
      Gives (.faultReport (some x) qs) d fun e =>
        e.get F.FAULT_COUNT [x.code] = min (d.get F.FAULT_COUNT [x.code] + 1) (2 ^ 32 - 1) ∧ e.dieIsLost r.lostDie = true) ∧
    (d.reactionTo r = some 3 → Gives (.faultReport (some x) qs) d (SafeStopBegun x.code d))) ∧
  (∀ (d : Dev) (cls die idx : Nat) (b : Busy) (c : Cmd), Powered d →
    let i : Inst := ⟨cls, die, idx⟩
    let k := b.queue
    (Tab.get Engine.reset d.engines i.key).busy = some b → d.cmdOf k = some c → d.ownsChunk i b = true → Gives (.engineHang cls die idx) d fun e =>
      (Tab.get Engine.reset e.engines i.key).busy = none ∧ (Tab.get Engine.reset e.engines i.key).carry = [] ∧
      (∃ c', e.cmdOf k = some c' ∧ c'.fail = some (c.fail.getD (stFAULT, dCHUNKFAULT)) ∧ c'.todo = []) ∧
      e.reports = d.reports ++ [d.reportNow ⟨0x2A, die, i.mid, some (k / 32), 0, 0⟩] ∧ e.regs = d.regs ∧ e.mem = d.mem ∧
      e.hostMem = d.hostMem)) ∧
  (
  ∀ (d : Dev) (l : Nat), Powered d → l < 20 →
    let shelf := fun (e : Dev) => Tab.get 0 e.warden.shelf l
    let retrains := fun (e : Dev) => Tab.get false e.warden.retraining l
    (shelf d ≠ 2 → Gives (.shelfDegraded l) d fun e =>
      shelf e = 1 ∧ retrains e = true ∧ (∀ x, x ≠ l → Tab.get 0 e.warden.shelf x = Tab.get 0 d.warden.shelf x) ∧
      e = { d with
        warden := { d.warden with shelf := e.warden.shelf, retraining := e.warden.retraining }
        reports := d.reports ++ [d.reportNow ⟨0x31, shelfDie l, 0, none, l, 0⟩] }) ∧
    (∀ qs, Gives (.shelfLinkDown l qs) d fun e =>
      shelf e = 2 ∧ retrains e = true ∧
      e.get F.FAULT_COUNT [0x33] = min (d.get F.FAULT_COUNT [0x33] + 1) (2 ^ 32 - 1) ∧ e.mem = d.mem ∧ e.hostMem = d.hostMem) ∧
    (retrains d = true → d.waiting = [] → Gives (.shelfRetrainDone l) d fun e =>
      shelf e = shelf d - 1 ∧ retrains e = decide (shelf d = 2) ∧
      (∀ x, x ≠ l → Tab.get 0 e.warden.shelf x = Tab.get 0 d.warden.shelf x) ∧
      e = { d with warden := { d.warden with shelf := e.warden.shelf, retraining := e.warden.retraining } }))

/-- KEY_MEASURE, LONG, DRIFT_STEP, REBASE and PANEL_PRESENT (19 R688 to R696, Table 19.1): a capture averages eight
measurements into the baseline; the third measurement in a row that meets the touch condition makes a key active; the third
that meets the release condition ends a touch of at most 1 s as a TAP, and 2 s make it a LONG; a gesture is reported; a
baseline drifts by one toward the second's mean; a rebase captures every key afresh, as does a panel newly seated. DRAIN_REQ,
DRAIN_WITHDRAW, DRAIN_GRANT, DRAINED, SAFE, PAGE_TIMEOUT and DISPLAY_REFRESH (19 R697 to R704): a request asks for the drain
and takes the unit out of participation, a second one forces it and holds the queues; a withdrawal ends it; a grant is noted;
the drain is done when nothing runs, safe while its conditions hold; the page times out to 0; the display is written line by
line, to the address that DISP_ADDR gives, PANEL_TEXT on page 6, or reports that it did not answer. That a LONG needs a panel is read in log
99; the text of the other pages is free (log 100). -/
def Obligations.PanelKeys : Prop :=
  (
  ∀ d : Dev, Powered d →
    (∀ k count, d.flag F.PANEL_PRESENT = true → k < 4 →
      let n := min count 4095
      let b := d.get F.KEY_BASELINE [k]
      let x := d.key k
      (∀ sum c, x.capture = some (sum, c) → Gives (.keyMeasure k count) d fun e =>
        e.get F.KEY_COUNT [k] = n ∧ e.get F.KEY_BASELINE [k] = (if c = 7 then (sum + n) / 8 % 4096 else b) ∧
        e.key k = { x with capture := if c = 7 then none else some (sum + n, c + 1) } ∧
        OnlyFields [(F.KEY_COUNT, [k]), (F.KEY_BASELINE, [k])] d e ∧ e = { d with regs := e.regs, panel := e.panel }) ∧
      (x.capture = none → bitAt (d.get F.KEY_FAULT) k = false → 0 < n → n < 4095 →
        (d.keyActive k = false → n + d.get F.TOUCH_THRESH ≤ b → 2 ≤ x.touch → d.get F.KEY_ACTIVE = 0 → d.flag F.KEY_WAKE = false →
          Gives (.keyMeasure k count) d fun e =>
            e.get F.KEY_COUNT [k] = n ∧ e.get F.KEY_ACTIVE = 2 ^ k ∧ (e.key k).hold = 0 ∧
            OnlyFields [(F.KEY_COUNT, [k]), (F.KEY_ACTIVE, [])] d e ∧ e = { d with regs := e.regs, panel := e.panel }) ∧
        (d.keyActive k = true → b < n + d.get F.RELEASE_THRESH → 2 ≤ x.release → x.hold < 200 → d.panel.multi = false →
          x.long = false → bitAt (d.get F.KEY_ACT_EN) k = false → Gives (.keyMeasure k count) d fun e =>
            e.keyActive k = false ∧ e.get F.LG_KEY = k ∧ e.get F.LG_GESTURE = 1 ∧ e.get F.LG_TICK = d.pos.tick ∧
            e.get F.GESTURE_EV = 1 ∧ OnlyTalk { d with panel := e.panel } e ∧
            OnlyFields [(F.KEY_COUNT, [k]), (F.KEY_ACTIVE, []), (F.LG_KEY, []), (F.LG_GESTURE, []), (F.LG_TICK, []),
              (F.GESTURE_EV, [])] d e))) ∧
    (∀ k < 4, d.flag F.PANEL_PRESENT = true → d.keyActive k = true → d.panel.multi = false → (d.key k).long = false → bitAt (d.get F.KEY_ACT_EN) k = false →
      Gives (.long k) d fun e =>
        (e.key k).long = true ∧ e.get F.LG_KEY = k ∧ e.get F.LG_GESTURE = 2 ∧ e.get F.GESTURE_EV = 1 ∧
        OnlyTalk { d with panel := e.panel } e ∧
        OnlyFields [(F.LG_KEY, []), (F.LG_GESTURE, []), (F.LG_TICK, []), (F.GESTURE_EV, [])] d e) ∧
    (Gives .driftStep d fun e =>
      (∀ k < 4, (e.key k).sum = 0 ∧ (e.key k).cnt = 0 ∧
        let b := d.get F.KEY_BASELINE [k]
        let n := d.get F.KEY_COUNT [k]
        let x := d.key k
        (d.keyActive k = false → x.capture = none → bitAt (d.get F.KEY_FAULT) k = false → x.cnt ≠ 0 →
          b < n + d.get F.DRIFT_BAND → n < b + d.get F.DRIFT_BAND → b < 4095 → e.get F.KEY_BASELINE [k] =
            (if b < x.sum / x.cnt then b + 1 else if x.sum / x.cnt < b then b - 1 else b)) ∧
        (d.keyActive k = true → e.get F.KEY_BASELINE [k] = b)) ∧
      OnlyFields ([0, 1, 2, 3].map fun k => (F.KEY_BASELINE, [k])) d e ∧ e = { d with regs := e.regs, panel := e.panel }) ∧
    (Gives .rebase d fun e =>
      e.get F.KEY_ACTIVE = 0 ∧ e.get F.KEY_FAULT = 0 ∧ (∀ k, e.key k = Key.reset) ∧
      OnlyFields [(F.KEY_ACTIVE, []), (F.KEY_FAULT, [])] d e ∧
      e = { d with regs := e.regs, panel := { d.panel with keys := [], multi := false } }) ∧
    (∀ ms, Gives (.panelPresent false ms) d fun e =>
      e.get F.PANEL_PRESENT = 0 ∧ OnlyFields [(F.PANEL_PRESENT, [])] d e ∧ OnlyRegs d e) ∧
    (∀ ms, d.flag F.PANEL_PRESENT = false →
      (ms < 50 → Gives (.panelPresent true ms) d fun e =>
        e.get F.PANEL_PRESENT = 1 ∧ OnlyFields [(F.PANEL_PRESENT, [])] d e ∧ OnlyRegs d e) ∧
      (50 ≤ ms → Gives (.panelPresent true ms) d fun e =>
        e.get F.PANEL_PRESENT = 1 ∧ (∀ k, e.key k = Key.reset) ∧ e.get F.AUX_LATCHED = 0 ∧ e.get F.KEY_ACTIVE = 0 ∧
        e.mem = d.mem ∧ e.hostMem = d.hostMem))) ∧
  (
  ∀ d : Dev, Powered d →
    let st := d.get F.DRAIN_STATE
    let goes := fun (nst : Nat) (d e : Dev) =>
      e.get F.DRAIN_STATE = nst ∧ e.get F.PAGE = 2 ∧ e.get F.DRAIN_EV = 1 ∧ Tab.get false e.pauses 1 = decide (2 ≤ nst) ∧
      OnlyFields [(F.DRAIN_STATE, []), (F.PAGE, []), (F.DRAIN_EV, []), (F.GRANTED, [])] d e ∧
      OnlyTalk { d with pauses := e.pauses, panel := { d.panel with out := e.panel.out } } e
    (st = 0 → d.get F.WARDEN_MODE ≠ 2 → Gives .drainReq d fun e =>
      goes 1 d e ∧ e.panel.out = true ∧ e.get F.GRANTED = (if d.flag F.AUTO_GRANT then 1 else d.get F.GRANTED)) ∧
    (st = 1 → Gives .drainReq d fun e => goes 2 d e ∧ e.panel = d.panel ∧ e.get F.GRANTED = d.get F.GRANTED) ∧
    (st ≠ 0 → Gives .drainWithdraw d fun e => goes 0 d e ∧ e.panel.out = false ∧ e.get F.GRANTED = 0) ∧
    (1 ≤ st → st ≤ 3 → Gives .drainGrant d fun e =>
      e.get F.GRANTED = 1 ∧ OnlyFields [(F.GRANTED, [])] d e ∧ OnlyRegs d e) ∧
    (st = 2 → (∀ x ∈ d.queues, x.2.run = none) → d.fab.outMsgs = [] → Gives .drained d fun e =>
      goes 3 d e ∧ e.panel = d.panel ∧ e.get F.GRANTED = d.get F.GRANTED) ∧
    (st = 3 → d.flag F.GRANTED = true → d.isMaster = false → d.flag F.RELAY = false → d.chainWhole = true →
      Gives .safe d fun e => goes 4 d e ∧ e.panel = d.panel ∧ e.get F.GRANTED = d.get F.GRANTED) ∧
    (st = 4 → d.chainWhole = false → Gives .safe d fun e => goes 3 d e ∧ e.panel = d.panel) ∧
    (Gives .pageTimeout d fun e => e.get F.PAGE = 0 ∧ OnlyFields [(F.PAGE, [])] d e ∧ OnlyRegs d e) ∧
    (d.flag F.AUX_ON = true → d.flag F.DISPLAY_EN = true →
      (Gives (.displayRefresh false) d fun e =>
        e.get F.DISPLAY_ERR = 1 ∧ OnlyFields [(F.DISPLAY_ERR, [])] d e ∧ OnlyRegsIrq d e) ∧
      (Gives (.displayRefresh true) d fun e =>
        (∀ line < 2, ∃ t : List Byte, Tab.get [] e.panel.lines line = BitVec.ofNat 8 (0x40 + line) :: t ∧ t.length = 20 ∧
          (∀ b ∈ t, 0x20 ≤ b.toNat ∧ b.toNat ≤ 0x7E) ∧
          (d.get F.PAGE = 6 → ∀ i < 20,
            let j := 20 * line + i
            let c := BitVec.ofNat 8 (d.get F.PANEL_TEXT [j / 4] / 2 ^ (8 * (j % 4)))
            t.getD i 0 = if 0x20 ≤ c.toNat ∧ c.toNat ≤ 0x7E then c else 0x2E)) ∧
        e = { d with free := e.free, panel := { d.panel with lines := e.panel.lines, addr := d.get F.DISP_ADDR } })))

/-- COMMAND_START, COMMAND_END, NOP, STOP and DISABLE_GRACE (07 R233, R234, R237, R243, R244): the next command of a list
that is well formed begins afresh, a malformed one stops the list with FAULT (how a header is judged: logs 43, 111); NOP ends OK; the end
of a common command counts it in RESULT when OK or LATE and stops the list otherwise (log 44); a stop cancels a command that waits or has
no chunk at an instance, and withdraws the chunks not started of one that has. -/
def Obligations.CommandLife : Prop :=
  (∀ (d : Dev) (k : Nat) (r : Run), Powered d → queueOk k = true → (d.queue k).run = some r →
    (r.listPending = false → r.cmd = none → r.stop = none → r.list ≠ [] → d.qState k = qENABLED → d.workHeld = false →
      d.homeSleeps k = false → d.qBus k = true →
      (∀ w, checkHeader (qClass k) r.list = .ok w → Gives (.commandStart k) d fun e =>
        (∃ c, (e.queue k).run = some { r with cmd := some c, list := r.list.drop w.length } ∧ c.words = w ∧
          c.phase = .running ∧ c.ready = false ∧ c.todo = [] ∧ c.out = [] ∧ c.fail = none ∧ c.flags = 0 ∧ c.stop = none) ∧
        (∀ j, j ≠ k → e.queue j = d.queue j) ∧
        (∀ i, (Tab.get Engine.reset e.engines i).busy = (Tab.get Engine.reset d.engines i).busy) ∧ e = { d with queues := e.queues, engines := e.engines }) ∧
      (∀ x, checkHeader (qClass k) r.list = .error x → Gives (.commandStart k) d fun e =>
        e = d.updQ k fun q => { q with run := some { r with stop := some (stFAULT, x), list := [] } })) ∧
    (∀ c st x, r.cmd = some c → c.phase = .ended st x → c.out = [] → bitsOf (wordAt c.words 0) 0 8 < 0x20 →
      let r' : Run := { r with cmd := none, flags := r.flags ||| c.flags }
      Gives (.commandEnd k) d fun e => e = (d.dropCarry k).updQ k fun q => { q with run := some (
        if st = stOK then { r' with result := r.result + 1 }
        else if st = stLATE then { r' with result := r.result + 1, late := some (r.late.getD x) }
        else { r' with stop := some (st, x), list := [] }) }) ∧
    (∀ c, r.cmd = some c → (∀ st x, c.phase ≠ .ended st x) → d.qState k = qDISABLING →
      ((d.queue k).cause = dPDISABLE → Gives (.stop k) d fun e => StoppedBy k c dPDISABLE d e) ∧
      (Gives (.disableGrace k) d fun e => StoppedBy k c (d.queue k).cause d e))) ∧
  (∀ (d : Dev) (k : Nat) (c : Cmd), RunsOp d k 0 c → Gives (.nop k) d fun e =>
    EndedAs k c stOK 0 d e ∧ e = { d with queues := e.queues })

/-- WAIT, SIGNAL and FENCE_TIMEOUT (07 R246 to R248): a WAIT on a fence that is not shared with the partition is refused, on
a value already reached ends OK, else waits; SIGNAL raises its fence to the larger value, or adds and saturates, changes no
other fence, and ends the waits of its partition that it meets; a timed wait that runs out ends FAULT. CAD_WAIT, CAD_VOTE and
CAD_ALARM (07 R252 to R254): a target already applied is LATE, else waited for; a vote for the applied step and phase by a
participating partition is recorded, any other is stale; an alarm that is not the partition's, or whose staging Table 3.7 does not
allow it, is refused with PROT in LAST (that LAST shows it: log 28); one that is may be disarmed, or takes its staging from the command's
words and is armed as ARM does, LATE when its target is already applied. -/
def Obligations.Fences : Prop :=
  (
  (∀ (d : Dev) (k : Nat) (c : Cmd), RunsOp d k 1 c →
    let w := c.words
    let other := bitAt (wordAt w 2) 14
    let o := if other then bitsOf (wordAt w 2) 8 6 else k / 32
    let f := bitsOf (wordAt w 2) 0 8
    let v := wordAt w 4 + 2 ^ 32 * wordAt w 5
    (other = true → d.fencePeer o (k / 32) = false → Gives (.wait k) d fun e =>
      EndedAs k c stPROT dFENCEPROT d e ∧ e = { d with queues := e.queues }) ∧
    ((other = false ∨ d.fencePeer o (k / 32) = true) →
      (v ≤ d.fence o f → Gives (.wait k) d fun e => EndedAs k c stOK 0 d e ∧ e = { d with queues := e.queues }) ∧
      (d.fence o f < v → Gives (.wait k) d fun e =>
        e.cmdOf k = some { c with phase := .waitFence o f v other (bitsOf (wordAt w 3) 0 24 != 0) } ∧
        (∀ j, j ≠ k → e.queue j = d.queue j) ∧ e = { d with queues := e.queues }))) ∧
  (∀ (d : Dev) (k : Nat) (c : Cmd), RunsOp d k 2 c →
    let w := c.words
    let p := k / 32
    let f := bitsOf (wordAt w 2) 0 8
    let v := wordAt w 4 + 2 ^ 32 * wordAt w 5
    let new := if bitAt (wordAt w 2) 8 then min (d.fence p f + v) (2 ^ 64 - 1) else max (d.fence p f) v
    Gives (.signal k) d fun e =>
      e.cmdOf k = some { c with phase := .ended stOK 0 } ∧ e.fence p f = new ∧
      (∀ g, g < 256 → g ≠ f → e.fence p g = d.fence p g) ∧
      OnlyFields [(F.FENCE_VAL_LO, [p, f]), (F.FENCE_VAL_HI, [p, f])] d e ∧ e = { d with regs := e.regs, queues := e.queues } ∧
      (∀ j, j ≠ k → d.inWait j = false → e.queue j = d.queue j) ∧
      (∀ j c', j ∈ d.queues.map (·.1) → j ≠ k → j / 32 = p → d.inWait j = true → d.cmdOf j = some c' →
        bitsOf (wordAt c'.words 0) 0 8 = 1 → bitAt (wordAt c'.words 2) 14 = false → bitsOf (wordAt c'.words 2) 0 8 = f →
        wordAt c'.words 4 + 2 ^ 32 * wordAt c'.words 5 ≤ new → e.cmdOf j = some { c' with phase := .ended stOK 0 })) ∧
  (∀ (d : Dev) (k : Nat) (c : Cmd) (o f v : Nat) (other : Bool), Powered d → queueOk k = true → d.cmdOf k = some c →
    c.phase = .waitFence o f v other true → Gives (.fenceTimeout k) d fun e =>
      EndedAs k c stFAULT dFENCETIMEOUT d e ∧ e = { d with queues := e.queues })) ∧
  (
  (∀ (d : Dev) (k : Nat) (c : Cmd), RunsOp d k 3 c →
    let w := c.words
    let t : Target := ⟨wordAt w 2 + 2 ^ 32 * bitsOf (wordAt w 3) 0 16, bitsOf (wordAt w 4) 20 4, bitsOf (wordAt w 4) 0 20,
      bitAt (wordAt w 4) 24⟩
    (d.targetPast t = true → Gives (.cadWait k) d fun e =>
      EndedAs k c stLATE dWAITLATE d e ∧ e = { d with queues := e.queues }) ∧
    (d.targetPast t = false → Gives (.cadWait k) d fun e =>
      e.cmdOf k = some { c with phase := .waitCad t.step t.phase t.tick t.boundary } ∧
      (∀ j, j ≠ k → e.queue j = d.queue j) ∧ e = { d with queues := e.queues })) ∧
  (∀ (d : Dev) (k : Nat) (c : Cmd), RunsOp d k 4 c →
    let w := c.words
    let now := d.cad.joined = true ∧ wordAt w 2 + 2 ^ 32 * bitsOf (wordAt w 3) 0 16 = d.pos.step ∧
      bitsOf (wordAt w 3) 16 4 = d.pos.phase ∧ bitAt d.cad.partMask (k / 32) = true
    (now → Gives (.cadVote k) d fun e =>
      EndedAs k c stOK 0 d e ∧ bitAt e.votes (k / 32) = true ∧
      (∀ p < 64, p ≠ k / 32 → bitAt e.votes p = bitAt d.votes p) ∧
      OnlyFields [(F.VOTE_LO, []), (F.VOTE_HI, [])] d e ∧ OnlyCad { d with queues := e.queues } e) ∧
    (¬now → Gives (.cadVote k) d fun e => EndedAs k c stSTATE dVOTESTALE d e ∧ e = { d with queues := e.queues })) ∧
  (∀ (d : Dev) (k : Nat) (c : Cmd), RunsOp d k 5 c →
    let w := c.words
    let n := bitsOf (wordAt w 2) 0 8
    let mine := (d.staged n).devOwned = false ∧ (d.staged n).owner = k / 32
    let cp : AlarmCopy := {
      step := wordAt w 4 + 2 ^ 32 * bitsOf (wordAt w 5) 0 16, tick := bitsOf (wordAt w 6) 0 20, phase := bitsOf (wordAt w 6) 20 4
      boundary := bitAt (wordAt w 6) 24, rep := bitAt (wordAt w 6) 25, action := bitsOf (wordAt w 7) 0 4, owner := k / 32
      devOwned := false, notify := bitAt (wordAt w 7) 11, arg := wordAt w 8 }
    (¬mine ∨ bitAt (wordAt w 2) 8 = false ∧ d.alarmAllowed cp = false → Gives (.cadAlarm k) d fun e =>
      EndedAs k c stPROT dALARMPROT d e ∧ e.get F.AL_LAST [n] = stPROT ∧ OnlyFields [(F.AL_LAST, [n])] d e ∧
      e = { d with regs := e.regs, queues := e.queues }) ∧
    (mine → bitAt (wordAt w 2) 8 = true → Gives (.cadAlarm k) d fun e =>
      EndedAs k c stOK 0 d e ∧ Tab.get none e.alarms n = none ∧ (d.get F.AL_STATE [n] ≠ 2 → e.get F.AL_STATE [n] = 0) ∧
      OnlyFields [(F.AL_STATE, [n])] d e ∧ e.mem = d.mem ∧ e.hostMem = d.hostMem) ∧
    (mine → bitAt (wordAt w 2) 8 = false → d.alarmAllowed cp = true → Gives (.cadAlarm k) d fun e =>
      e.staged n = cp ∧ Tab.get none e.alarms n = some cp ∧
      (∀ off, ¬(0x101000 + 32 * n ≤ off ∧ off < 0x10101C + 32 * n) → e.reg off = d.reg off) ∧
      e = { d with regs := e.regs, queues := e.queues, alarms := e.alarms, dispatch := e.dispatch } ∧
      (d.targetPast cp.target = false → EndedAs k c stOK 0 d e ∧ e.get F.AL_STATE [n] = 1 ∧ e.dispatch = d.dispatch) ∧
      (d.targetPast cp.target = true → EndedAs k c stLATE dALARMLATE d e ∧ e.get F.AL_STATE [n] = 2 ∧
        e.dispatch = d.dispatch ++ [⟨n, true, cp, false⟩]))))

/-- COPY and WRITE_IMM (07 R245): a copy between two ranges of host memory that do not meet, of at most one chunk, puts the
source's bytes at the destination and changes no other; a host read that fails ends it with HOST_ACCESS, nothing of it written; an
immediate word to host memory is its four bytes, low byte first; a form that touches device memory does there what one chunk's accesses,
or the word's, do, and a copy of several chunks goes on with the next (rows chunk by chunk, host data as the row's operand: log 37). -/
def Obligations.CopyAndWrite : Prop :=
  (∀ (d : Dev) (k : Nat) (c : Cmd), RunsOp d k 6 c → d.workHeld = false → c.stop = none →
    let w := c.words
    let src := wordAt w 2 + 2 ^ 32 * wordAt w 3
    let dst := wordAt w 4 + 2 ^ 32 * wordAt w 5
    let n := wordAt w 6
    let ch := c.carry.headD 0
    (c.carry = [] → 0 < n → n ≤ 65536 → bitsOf (wordAt w 7) 0 2 = 3 → d.qBus k = true → (src + n ≤ dst ∨ dst + n ≤ src) → d.hostBad src n = false →
      Gives (.copy k [] none) d fun e =>
        (∀ i < n, Tab.get 0 e.hostMem (dst + i) = Tab.get 0 d.hostMem (src + i)) ∧
        (∀ a, ¬(dst ≤ a ∧ a < dst + n) → Tab.get 0 e.hostMem a = Tab.get 0 d.hostMem a) ∧
        EndedAs k c stOK 0 d e ∧ e.regs = d.regs ∧ e.mem = d.mem) ∧
    (c.carry = [] → 0 < n → bitAt (wordAt w 7) 0 = true → d.qBus k = true → Gives (.copy k [] (some 0)) d fun e =>
      EndedAs k c stFAULT dHOSTACCESS d e ∧ e.hostMem = d.hostMem ∧ e.regs = d.regs ∧ e.mem = d.mem) ∧
    (∀ fail x, runAct (copyOne k w fail ch) d = (.ok (), x) → Gives (.copy k [] fail) d fun e =>
      e = if (ch + 1) * 65536 < n then x.updCmd k fun y => { y with carry := [ch + 1] } else x.endCmd k stOK 0) ∧
    (∀ fail x st detail, runAct (copyOne k w fail ch) d = (.error (.ended st detail), x) → Gives (.copy k [] fail) d fun e =>
      e = x.endCmd k st detail)) ∧
  (∀ (d : Dev) (k : Nat) (c : Cmd), RunsOp d k 7 c → d.workHeld = false →
    let w := c.words
    let addr := wordAt w 2 + 2 ^ 32 * wordAt w 3
    (bitAt (wordAt w 5) 0 = true → d.qBus k = true → Gives (.writeImm k) d fun e =>
      (∀ i < 4, Tab.get 0 e.hostMem (addr + i) = BitVec.ofNat 8 (wordAt w 4 / 2 ^ (8 * i))) ∧
      (∀ a, ¬(addr ≤ a ∧ a < addr + 4) → Tab.get 0 e.hostMem a = Tab.get 0 d.hostMem a) ∧
      EndedAs k c stOK 0 d e ∧ e.regs = d.regs ∧ e.mem = d.mem) ∧
    (bitAt (wordAt w 5) 0 = false → ∀ x, runAct (writeMem (d.spurAcc k) addr (leBytes (wordAt w 4) 4)) d = (.ok (), x) →
      Gives (.writeImm k) d fun e => e = x.endCmd k stOK 0))

/-- The engine commands MATMUL to SD_SAMPLE and CL_PUT, CL_GET and CL_COLL (07 R237 to R242; 09 Table 9.2, 10 Table 10.8, 11,
12, 16 Table 16.14): a command whose checks fail ends with their status; one that passes is split into its chunks, its units
given to its instances in turn, and goes on; its next chunk does what its engine's rules give, its flags join the command's,
and a failing status or a trapped flag stops the rest; a chunk that must wait does nothing but ask for wakes; a command of several chunks
goes on with the rest after the first. SC_PROGRAM_T is split likewise, its first groups are selected, and its T-blocks follow. That an engine row runs what nothing stands
in the way of is the model's choice (logs 42, 45, 46, 115). -/
def Obligations.EngineCommands : Prop :=
  (∀ row ∈ ([(Instr.matmul, 0x20, matmulOp), (Instr.convert, 0x22, convertOp), (Instr.optStep, 0x23, optOp),
      (Instr.rowop, 0x24, rowopOp), (Instr.scMvm, 0x40, mvmOp), (Instr.scWriteS, 0x41, writeSOp), (Instr.scSwap, 0x43, swapOp),
      (Instr.scCal, 0x44, calOp), (Instr.scQuery, 0x45, queryOp), (Instr.cnGather, 0x60, gatherOp),
      (Instr.cnScatter, 0x61, scatterOp), (Instr.cnUpdate, 0x62, updateOp), (Instr.sdSelect, 0x80, selectOp),
      (Instr.sdTake, 0x81, takeOp), (Instr.sdBuild, 0x82, buildOp), (Instr.sdProbe, 0x83, probeOp),
      (Instr.sdGroup, 0x84, groupOp), (Instr.sdNorm, 0x85, normOp), (Instr.sdTopk, 0x86, topkOp), (Instr.sdSort, 0x87, sortOp),
      (Instr.sdSample, 0x88, sampleOp), (Instr.clPut, 0xA0, putOp), (Instr.clGet, 0xA1, getOp), (Instr.clColl, 0xA2, collOp)] :
      List ((EngineTurn → Instr) × Nat × EngineOp)),
    ∀ (d : Dev) (k cycles : Nat) (c : Cmd), RunsOp d k row.2.1 c →
      (c.ready = false → d.workHeld = false →
        (∀ st detail x, runAct (row.2.2.prep k c) d = (.error (.ended st detail), x) →
          (∀ c', x.cmdOf k = some c' → c'.todo = []) → Gives (row.1 ⟨k, cycles⟩) d fun e =>
          e = x.endCmd k st detail) ∧
        (∀ n per x c', runAct (row.2.2.prep k c) d = (.ok (n, per), x) → x.cmdOf k = some c' → c'.phase = .running →
          c'.words = c.words → Powered x → x.workHeld = false →
          let is := x.named k c.words
          let y := x.updCmd k fun y => { y with
            ready := true, chunks := n * per, per := per, todo := List.range (n * per), insts := is
            asg := if is.isEmpty then [] else (List.range n).map fun u => is.getD (u % is.length) ⟨0, 0, 0⟩ }
          ∀ q, exec (row.1 ⟨k, cycles⟩) ⟨d, q⟩ = exec (row.1 ⟨k, cycles⟩) ⟨y, q⟩)) ∧
      (c.ready = true → c.todo = [] → Gives (row.1 ⟨k, cycles⟩) d fun e => e = d) ∧
      (∀ ch eng, ChunkMayRun d k c ch eng →
        let i := d.instOf k c ch
        let r := chunkWork d k row.2.2 c i ch none
        (r.1 = .error .wait → Gives (row.1 ⟨k, cycles⟩) d fun e => e = { d with wakes := r.2.wakes }) ∧
        (r.1 ≠ .error .wait → c.todo = [ch] → Gives (row.1 ⟨k, cycles⟩) d (ChunkRan d k c i ch cycles eng r)) ∧
        (r.1 ≠ .error .wait →
          let z := (d.startChunk k row.2.2 c i ch none eng).2.endOn i cycles
          ChunkRan d k c i ch cycles eng r z ∧
          (∀ c', z.cmdOf k = some c' → c'.todo = c.todo.tail → c'.words = c.words → c'.phase = c.phase → c'.ready = true →
            c'.stop = none → Powered z → z.workHeld = false → ∀ q,
            exec (row.1 ⟨k, cycles⟩) ⟨d, q⟩ = exec (row.1 ⟨k, cycles⟩) ⟨z, q⟩)))) ∧
  (∀ (d : Dev) (k : Nat) (c : Cmd), RunsOp d k 0x42 c → c.ready = false → d.workHeld = false →
    (∀ x c', runAct (programOp.prep k c) d = (.ok (1, 1), x) → x.cmdOf k = some c' → c'.words = c.words → c'.phase = .running →
      c'.fail = none → c'.stop = none →
      let is := x.named k c.words
      let c2 : Cmd := { c' with ready := true, chunks := 1, per := 1, todo := [0], insts := is, asg := is.take 1 }
      let r := runAct (programFill k c2) (x.updCmd k fun _ => c2)
      (r.1 = .ok () → Gives (.scProgramT k) d fun e => e = r.2) ∧
      (∀ st detail, r.1 = .error (.ended st detail) → Gives (.scProgramT k) d fun e => e = r.2.updCmd k fun y =>
        { y with fail := some (y.fail.getD (st, detail)), todo := [], carry := [] })) ∧
    (∀ st detail x, runAct (programOp.prep k c) d = (.error (.ended st detail), x) → Gives (.scProgramT k) d fun e =>
      e = x.endCmd k st detail))

/-- CHUNK_DISPATCH, CHUNK_END, the five cut-offs and COMMAND_END (07 R239 to R243, R260, R263 to R265, 09 R319, 10 R368, 11 R405, 12 R446,
16 R591): an idle instance takes its first chunk of the one queue that has one ready, and that chunk reads and does its work then; one that
must wait holds no instance; the end of a chunk frees its instance, charges its cycles, takes the chunk from the command and tells it how
the chunk came out; at a cut-off a chunk that has more to do ends the same way and goes back among those to be dispatched, and nothing
else happens; a chunk whose command a Function Level Reset took frees its instance only; a command all of whose chunks have ended is
counted as OK, or stops its list with its first failing status. That a chunk's effects stand at its start and its end is known by a row is
the model's choice (logs 42, 46, 115). -/
def Obligations.ChunkLife : Prop :=
  (∀ (d : Dev) (cls die idx k : Nat) (c : Cmd) (limit : Option Nat), Powered d →
    let i : Inst := ⟨cls, die, idx⟩
    (Tab.get Engine.reset d.engines i.key).busy = none → d.workHeld = false → d.readyQueues i = [k] →
    d.cmdOf k = some c → (∀ j ∈ d.queues.map (·.1), ∀ x, d.cmdOf j = some x → x.ready = true ∨ x.phase ≠ .running) →
    ∃ ch, c.todo.find? (fun x => d.instOf k c x == i) = some ch ∧
      let r := chunkWork d k (engineOp c.opcode) c i ch limit
      (r.1 = .error .wait → Gives (.chunkDispatch cls die ⟨idx, limit⟩) d fun e => e = { d with wakes := r.2.wakes }) ∧
      (r.1 ≠ .error .wait → Gives (.chunkDispatch cls die ⟨idx, limit⟩) d fun e => OnlyChunk i k r.2 e ∧ e.parts = r.2.parts ∧
        (Tab.get Engine.reset e.engines i.key).busy = some {
          queue := k, chunk := ch, cmd := c, flags := r.2.flagAcc, cut := decide (r.1 = .ok false), holds := r.2.holdAcc
          fail := match r.1 with
            | .error (.ended st detail) => some (st, detail)
            | _ => none } ∧
        ∀ c1, r.2.cmdOf k = some c1 → e.cmdOf k = some { c1 with
          todo := c1.todo.erase ch, asg := d.assignment k c, out := c1.out ++ [⟨ch, i⟩] })) ∧
  (∀ (d : Dev) (i : Inst) (b : Busy) (cycles : Nat), Powered d → (Tab.get Engine.reset d.engines i.key).busy = some b →
    let ended := fun (e : Dev) =>
      OnlyChunk i b.queue d e ∧
      Tab.get Engine.reset e.engines i.key = { Tab.get Engine.reset d.engines i.key with
        busy := none, used := (Tab.get Engine.reset e.engines i.key).used } ∧
      Tab.get 0 (Tab.get Engine.reset e.engines i.key).used (b.queue / 32) =
        Tab.get 0 (Tab.get Engine.reset d.engines i.key).used (b.queue / 32) + cycles ∧
      e.part (b.queue / 32) = { d.part (b.queue / 32) with
        grand := (d.part (b.queue / 32)).grand.filter fun x => !(x == (b.queue, b.chunk)) } ∧
      (∀ c, d.cmdOf b.queue = some c → ⟨b.chunk, i⟩ ∈ c.out → ∃ c', e.cmdOf b.queue = some c' ∧ ChunkEnds i b c c') ∧
      ((∀ c, d.cmdOf b.queue = some c → ⟨b.chunk, i⟩ ∉ c.out) → e.queues = d.queues)
    Gives (.chunkEnd i.cls i.die i.idx cycles) d ended ∧
    (∀ row ∈ [(Instr.summitCutoff i.die i.idx cycles, (⟨0, i.die, i.idx⟩ : Inst)),
        (Instr.screeCutoff i.die i.idx cycles, ⟨1, i.die, i.idx⟩), (Instr.cairnCutoff i.die cycles, ⟨2, i.die, 0⟩),
        (Instr.saddleCutoff i.die cycles, ⟨3, i.die, 0⟩), (Instr.colCutoff i.die cycles, ⟨4, i.die, 0⟩)], row.2 = i →
      (b.cut = true → Gives row.1 d ended) ∧ (b.cut = false → Gives row.1 d fun e => e = d))) ∧
  (∀ (d : Dev) (k : Nat) (r : Run) (c : Cmd), Powered d → queueOk k = true → (d.queue k).run = some r → r.cmd = some c →
    c.phase = .running → c.ready = true → c.todo = [] → c.out = [] → 0x20 ≤ bitsOf (wordAt c.words 0) 0 8 →
    bitsOf (wordAt c.words 0) 0 8 < 0x60 → Gives (.commandEnd k) d fun e =>
      (e.queue k).run = some (match c.fail with
        | none => { r with cmd := none, flags := r.flags ||| c.flags, result := r.result + 1 }
        | some (st, detail) =>
          if st = stOK then { r with cmd := none, flags := r.flags ||| c.flags, result := r.result + 1 }
          else if st = stLATE then
            { r with cmd := none, flags := r.flags ||| c.flags, result := r.result + 1, late := some (r.late.getD detail) }
          else { r with cmd := none, flags := r.flags ||| c.flags, stop := some (st, detail), list := [] }) ∧
      (∀ j, j ≠ k → e.queue j = d.queue j) ∧ e = { d with queues := e.queues, engines := e.engines } ∧
      (∀ i, (Tab.get Engine.reset e.engines i).busy = (Tab.get Engine.reset d.engines i).busy))

/-- T_BLOCK_PROGRAM, CALIBRATION, CALIBRATION_DONE and FACE_WAIT_TIMEOUT (10 R349, R355, R360, R361, R364 to R366): a T-block does what
the rules of R360 give, and its status or a trapped flag stops the command: on a row that is not worn out its counter rises, a passed
verify stores the row's elements, a failed one retires it to the next spare, or ends EXHAUSTED with the macro read-only when none is left;
a due column group of a valid macro begins calibrating when no read needs it and power units are free, a forced one sets CAL_FORCED; at its
end every column of the group has a GAIN of 0.75 to 1.25; a wait on a face that lasts too long ends BUSY_FACE. Values and readings of the
model's own: logs 51 to 54, 122. -/
def Obligations.ScreeSteps : Prop :=
  (∀ (d : Dev) (k x : Nat) (pass : Bool) (c : Cmd), Powered d → queueOk k = true → d.programming k = true → d.workHeld = false →
    d.cmdOf k = some c →
    let r := runAct (programBlock k c x pass) { d with flagAcc := 0 }
    let fl := r.2.flagAcc
    (∀ c', r.2.cmdOf k = some c' → c'.words = c.words → r.1 = .ok () → Gives (.tBlockProgram k x pass) d fun e =>
      e = r.2.updCmd k fun y =>
        if fl &&& c.trap = 0 then { y with flags := y.flags ||| fl }
        else { y with flags := y.flags ||| fl, fail := some (y.fail.getD (stNUMERIC, dNUMERICTRAP)), todo := [], carry := [] }) ∧
    (∀ st detail, r.1 = .error (.ended st detail) → Gives (.tBlockProgram k x pass) d fun e =>
      e = r.2.updCmd k fun y =>
        { y with flags := y.flags ||| fl, fail := some (y.fail.getD (st, detail)), todo := [], carry := [] })) ∧
  (∀ (d : Dev) (k : Nat) (p : ScProg) (a : Acc) (x row : Nat), p.m.die < 6 →
    let mk := p.m.key p.face x
    let ph := d.physRow mk row
    let used := Tab.get 0 d.scree.spares mk
    let worn : Dev := { d with scree := { d.scree with wear := Tab.set 0 d.scree.wear (mk * 514 + ph) (min (d.wearOf mk ph + 1) 65535) } }
    d.owns a ⟨4, p.m.die, p.m.groupOf x, 1⟩ = true → d.wearOf mk ph < endurance →
    (∀ es y, runAct (p.rowBlock a x row) worn = (.ok es, y) → runAct (programRow k p a x row true) d =
      (.ok (), (y.storeRow mk row es).updCmd k fun c => { c with carry := c.carry.set (x + 1) (row + 1) })) ∧
    (used < 2 → ∃ e, runAct (programRow k p a x row false) d = (.ok (), e) ∧ e.physRow mk row = 512 + used ∧
      Tab.get 0 e.scree.spares mk = used + 1 ∧ e.scree.wear = worn.scree.wear ∧ e.scree.cells = d.scree.cells ∧
      e.get F.SC_RETIRED [p.m.die] = 1 ∧ e = { d with regs := e.regs, scree := e.scree }) ∧
    (2 ≤ used → ∃ e, runAct (programRow k p a x row false) d = (.error (.ended stEXHAUSTED dSPAREFAIL), e) ∧
      Tab.get false e.scree.readOnly mk = true ∧ e.get F.SC_EXH [p.m.die] = 1 ∧ e.scree.cells = d.scree.cells ∧
      e = { d with regs := e.regs, scree := e.scree })) ∧
  (∀ (d : Dev) (die g pos cg : Nat), Powered d → die < 6 → g < 16384 → pos < 44 → cg < colGroups pos →
    let key := mkey die g pos * 8 + cg
    let units := if pos < 32 then 1 else 2
    let forced := d.calDue die (mkey die g pos) cg 4 10
    (d.dieGone die = false → d.macroValid die g pos = true → d.macroNeeded die g pos = false → key ∉ d.calsOn die →
      d.converting die + d.calHeld die + units ≤ d.get F.SC_BUDGET [die] →
      (forced = true ∨ (d.calDue die (mkey die g pos) cg 1 5 = true ∧ bitAt (d.get F.CAL_PHASES [die]) d.pos.phase = true)) →
      Gives (.calibration die g pos cg) d fun e =>
        e.scree = { d.scree with calibrating := d.scree.calibrating ++ [key] } ∧
        e.get F.SC_CAL_FORCED [die] = (if forced then 1 else d.get F.SC_CAL_FORCED [die]) ∧
        OnlyFields [(F.SC_CAL_FORCED, [die])] d e ∧ e = { d with regs := e.regs, scree := e.scree }) ∧
    (key ∈ d.scree.calibrating → Gives (.calibrationDone die g pos cg) d fun e =>
      e.scree.calibrating = d.scree.calibrating.erase key ∧
      (∀ j < 16, ∃ t, Tab.get none e.scree.trims (mkey die g pos * 128 + (16 * cg + j)) = some t ∧
        12288 ≤ t.gain ∧ t.gain ≤ 20480) ∧
      Tab.get 0 e.scree.calAt key = Tab.get 0 d.scree.evals (mkey die g pos) ∧
      Tab.get 0 e.scree.calTemp key = d.get F.TEMP [die] ∧ e.scree.cells = d.scree.cells ∧ e.scree.scales = d.scree.scales ∧
      OnlyFields [(F.SC_OUT_OF_TRIM, [die])] d e ∧ e.mem = d.mem ∧ e.hostMem = d.hostMem)) ∧
  (∀ (d : Dev) (k : Nat) (c : Cmd) (p : Mvm) (x : Dev), RunsOp d k 0x40 c → runAct (Mvm.parse c.words) d = (.ok p, x) →
    p.waitFace = true → p.rewriting d = true → Gives (.faceWaitTimeout k) d fun e =>
      e.cmdOf k = some { c with phase := .ended stBUSYFACE dFACETIMEOUT, todo := [] } ∧
      (∀ j, j ≠ k → e.queue j = d.queue j) ∧ e = { d with queues := e.queues })

/-- ADD, SUB, ADC, CMP, ADDI, CMPI, ADDX, CMPX and NEG (13 R466): the 32-bit sum of two operands and a carry goes to G[x],
unless the instruction compares; C is the carry out, V the signed overflow, N and Z follow the result, and nothing else of
the core changes. On a spur core and the warden the operands are the registers' latest values, whatever was issued before (14
R496). -/
def Obligations.RidgeArithmetic : Prop :=
  (∀ (d : Dev) (key : Nat),
    let i := d.nextRi key
    let c1 := d.atIssue key
    let a := c1.rg i.x
    let b := c1.rg i.y
    let z := BitVec.ofInt 32 i.z
    ∀ row ∈ ([(Instr.add key, Rop.add, a, b, 0, true), (Instr.sub key, Rop.sub, a, ~~~b, 1, true),
        (Instr.adc key, Rop.adc, a, b, b2n (StBit c1 fC), true), (Instr.cmp key, Rop.cmp, a, ~~~b, 1, false),
        (Instr.addi key, Rop.addi, a, z, 0, true), (Instr.cmpi key, Rop.cmpi, a, ~~~z, 1, false),
        (Instr.addx key, Rop.addx, a, z, 0, true), (Instr.cmpx key, Rop.cmpx, a, ~~~z, 1, false),
        (Instr.neg key, Rop.neg, 0, ~~~a, 1, true)] : List (Instr × Rop × Word × Word × Nat × Bool)),
      Does d key row.2.1 →
      let x := row.2.2.1
      let y := row.2.2.2.1
      let cin := row.2.2.2.2.1
      let r := BitVec.ofNat 32 (x.toNat + y.toNat + cin)
      Gives row.1 d fun e =>
        let c := e.core key
        OnlyCore key d e ∧ OnlyGSt (d.nextPc key) c1 c ∧
        (∀ n, c.gNow n = if row.2.2.2.2.2 ∧ n = i.x then r else c1.gNow n) ∧
        StBit c fZ = decide (r = 0) ∧ StBit c fN = r.msb ∧ StBit c fC = decide (2 ^ 32 ≤ x.toNat + y.toNat + cin) ∧
        StBit c fV = decide (x.toInt + y.toInt + cin < -2 ^ 31 ∨ (2 ^ 31 : Int) ≤ x.toInt + y.toInt + cin) ∧
        (∀ n, 4 ≤ n → StBit c n = StBit c1 n)) ∧
  (∀ (d : Dev) (key : Nat),
    let c := d.core key
    let c1 := d.atIssue key
    c1 = { c with
      cyc := c1.cyc, ctl := c1.ctl, mx := c1.mx, mxw := c1.mxw, entry := none, halted := false
      loop := { c.loop with words := c1.loop.words } } ∧
    (∀ n, n ≠ 7 → c1.ctlAt n = c.ctlAt n) ∧
    (isLane key = false → ∀ r ∈ (d.nextRi key).reads false, r.1 < 8 → r.2 = 0 → c1.rg r.1 = c.gNow r.1))

/-- AND, OR, XOR and their immediates, TSTX, NOT; MOV, MOVI, MOVX, MOVL, MOVG, RDM and the extensions; SHL, SHR, SAR, ROR and
SHV (13 R463, R466, R467): the value each gives goes to G[x], TSTX's nowhere; logic sets N and Z, a shift also C when its
count is not 0, a move no flag; nothing else of the core changes. -/
def Obligations.RidgeLogicMovesShifts : Prop :=
  ∀ (d : Dev) (key : Nat),
    let i := d.nextRi key
    let c1 := d.atIssue key
    let a := c1.rg i.x
    let b := c1.rg i.y
    let z := BitVec.ofInt 32 i.z
    let effect := fun (w : Bool) (r : Word) (e : Dev) =>
      OnlyCore key d e ∧ OnlyGSt (d.nextPc key) c1 (e.core key) ∧
      ∀ n, (e.core key).gNow n = if w ∧ n = i.x then r else c1.gNow n
    let flags := fun (l : List Nat) (c : Core) => ∀ n, n ∉ l → StBit c n = StBit c1 n
    (∀ row ∈ ([(Instr.andI key, Rop.and, a &&& b, true), (Instr.orI key, Rop.or, a ||| b, true),
        (Instr.xorI key, Rop.xor, a ^^^ b, true), (Instr.andx key, Rop.andx, a &&& z, true),
        (Instr.orx key, Rop.orx, a ||| z, true), (Instr.xorx key, Rop.xorx, a ^^^ z, true),
        (Instr.tstx key, Rop.tstx, a &&& z, false), (Instr.notI key, Rop.not, ~~~a, true)] :
        List (Instr × Rop × Word × Bool)), Does d key row.2.1 → Gives row.1 d fun e =>
      effect row.2.2.2 row.2.2.1 e ∧ StBit (e.core key) fZ = decide (row.2.2.1 = 0) ∧
      StBit (e.core key) fN = row.2.2.1.msb ∧ flags [fZ, fN] (e.core key)) ∧
    (∀ row ∈ ([(Instr.mov key, Rop.mov, b), (Instr.movi key, Rop.movi, z), (Instr.movx key, Rop.movx, z),
        (Instr.movl key, Rop.movl, z), (Instr.movg key, Rop.movg, c1.bNow i.y),
        (Instr.rdm key, Rop.rdm, BitVec.ofNat 32 (c1.mxSeen / 2 ^ (32 * i.y))),
        (Instr.sxtb key, Rop.sxtb, (a.setWidth 8).signExtend 32), (Instr.sxth key, Rop.sxth, (a.setWidth 16).signExtend 32),
        (Instr.zxtb key, Rop.zxtb, (a.setWidth 8).setWidth 32), (Instr.zxth key, Rop.zxth, (a.setWidth 16).setWidth 32)] :
        List (Instr × Rop × Word)), Does d key row.2.1 → Gives row.1 d fun e =>
      effect true row.2.2 e ∧ (e.core key).st = c1.st) ∧
    (∀ row ∈ ([(Instr.shl key, Rop.shl, 0, i.z.toNat), (Instr.shr key, Rop.shr, 1, i.z.toNat),
        (Instr.sar key, Rop.sar, 2, i.z.toNat), (Instr.ror key, Rop.ror, 3, i.z.toNat),
        (Instr.shv key, Rop.shv, i.size, b.toNat % 32)] : List (Instr × Rop × Nat × Nat)), Does d key row.2.1 →
      let kind := row.2.2.1
      let n := row.2.2.2
      let r := if kind = 0 then a <<< n else if kind = 1 then a >>> n else if kind = 2 then a.sshiftRight n else a.rotateRight n
      Gives row.1 d fun e =>
        effect true r e ∧ StBit (e.core key) fZ = decide (r = 0) ∧ StBit (e.core key) fN = r.msb ∧
        StBit (e.core key) fC = (if n = 0 then StBit c1 fC else if kind = 0 then a.getLsbD (32 - n)
          else if kind = 3 then r.msb else a.getLsbD (n - 1)) ∧
        flags [fZ, fN, fC] (e.core key))

/-- LD, LDS, ST and LEA, and MUL, MULU, MAC and WRM (13 R458, R459, R468, Table 13.9; 14 R498, R500): an access inside data
memory loads or stores the operand's bytes, low byte first, and no other byte changes; one in the far window of a spur core
waits, or is posted; one outside both, or not aligned, traps ADDR; LEA writes the address. A product or a sum of products is
on its way to MX, and MO is set by a sum that does not fit. -/
def Obligations.RidgeMemoryAndMultiplier : Prop :=
  ∀ (d : Dev) (key : Nat),
    let i := d.nextRi key
    let c1 := d.atIssue key
    let next := d.nextPc key
    let lane := isLane key
    let a := (c1.rb i.y + BitVec.ofInt 32 i.z).toNat
    let n := i.size
    let inside := a % n = 0 ∧ a < 0x10000
    let far := a % n = 0 ∧ 0x80000000 ≤ a ∧ lane = false
    let onlyRegs := fun (e : Dev) =>
      let c := e.core key
      OnlyCore key d e ∧ c = { c1 with g := c.g, b := c.b, pc := next, hist := c.hist, free := c.free, slot := c.slot }
    let reg := fun (v : Word) (e : Dev) => ∀ m,
      (e.core key).gNow m = (if i.x < 8 ∧ m = i.x then v else c1.gNow m) ∧
      (e.core key).bNow m = (if 8 ≤ i.x ∧ m = i.x - 8 then v else c1.bNow m)
    (∀ row ∈ [(Instr.ld key, Rop.ld, false), (Instr.lds key, Rop.lds, true)], Does d key row.2.1 →
      (inside → Gives row.1 d fun e => onlyRegs e ∧
        reg (if row.2.2 then BitVec.ofInt 32 (sext (c1.loadNear a n) (8 * n)) else BitVec.ofNat 32 (c1.loadNear a n)) e) ∧
      (far → Gives row.1 d fun e => OnlyCore key d e ∧
        (e.core key).farLoad = some ⟨0, i.x, row.2.2, n, a, c1.farAddr a⟩ ∧
        e.core key = { c1 with farLoad := (e.core key).farLoad, free := (e.core key).free, slot := (e.core key).slot })) ∧
    (Does d key .st →
      let v := (if i.x < 8 then c1.rg i.x else c1.bNow (i.x - 8)).toNat
      (inside → Gives (.st key) d fun e =>
        let c := e.core key
        OnlyCore key d e ∧ c = { c1 with dmem := c.dmem, pc := next, free := c.free, slot := c.slot } ∧
        (∀ j < n, Tab.get 0 c.dmem (a + j) = BitVec.ofNat 8 (v / 2 ^ (8 * j))) ∧
        (∀ x, ¬(a ≤ x ∧ x < a + n) → Tab.get 0 c.dmem x = Tab.get 0 c1.dmem x)) ∧
      (far → c1.posted.length < maxPosted → Gives (.st key) d fun e =>
        let c := e.core key
        OnlyCore key d e ∧ c = { c1 with posted := c.posted, pc := next, free := c.free, slot := c.slot } ∧
        c.posted = c1.posted ++ [⟨a, c1.farAddr a, leBytes v n⟩])) ∧
    (∀ row ∈ [(Instr.ld key, Rop.ld), (Instr.lds key, Rop.lds), (Instr.st key, Rop.st)], Does d key row.2 → ¬inside → ¬far →
      lane = true ∨ HasFrame c1 → Gives row.1 d (Trapped key vADDR (d.core key).pc (some a) d)) ∧
    (Does d key .lea → Gives (.lea key) d fun e => onlyRegs e ∧ reg (BitVec.ofNat 32 a) e) ∧
    (let x := c1.rg i.x
     let y := c1.rg i.y
     let sends := fun (w : MxWrite) (e : Dev) =>
      let c := e.core key
      OnlyCore key d e ∧
      c = { c1 with mxw := mxInsert w c1.mxw, st := c.st, pc := next, hist := c.hist, free := c.free, slot := c.slot }
     (Does d key .mul → Gives (.mul key) d fun e =>
       sends ⟨c1.cyc + 2, 2, (BitVec.ofInt 64 (x.toInt * y.toInt)).toNat⟩ e ∧ (e.core key).st = c1.st) ∧
     (Does d key .mulu → Gives (.mulu key) d fun e =>
       sends ⟨c1.cyc + 2, 2, x.toNat * y.toNat⟩ e ∧ (e.core key).st = c1.st) ∧
     (Does d key .mac →
       let v := (BitVec.ofNat 64 c1.mxAll).toInt + x.toInt * y.toInt
       Gives (.mac key) d fun e =>
         sends ⟨c1.cyc + 2, 2, (BitVec.ofInt 64 v).toNat⟩ e ∧
         StBit (e.core key) fMO = (StBit c1 fMO || decide (v < -2 ^ 63 ∨ (2 ^ 63 : Int) ≤ v)) ∧
         ∀ m, m ≠ fMO → StBit (e.core key) m = StBit c1 m) ∧
     (Does d key .wrm → Gives (.wrm key) d fun e => sends ⟨c1.cyc, i.y, x.toNat⟩ e ∧ (e.core key).st = c1.st))

/-- BR, JMP, JMPR, CALL, CALLR, RET, RETI, BLC and REP (13 R461, R470, R472 to R474): a taken transfer goes to its target; an
instruction whose condition fails only moves on, REP then holding off the next; a call pushes its return address below SP,
and a return pops it, the one of an invocation's end stopping a lane core; RETI also restores ST; BLC counts LC down and goes back while it is not 0; REP loads LC. -/
def Obligations.RidgeControl : Prop :=
  ∀ (d : Dev) (key : Nat),
    let i := d.nextRi key
    let c1 := d.atIssue key
    let next := d.nextPc key
    let lane := isLane key
    let words := pmWords lane
    let sp := (c1.bNow 3).toNat
    let rel := (((next : Int) + i.z) % (words : Int)).toNat
    (∀ row ∈ [(Instr.br key, Rop.br, rel), (Instr.jmp key, Rop.jmp, (i.z % (words : Int)).toNat),
        (Instr.jmpr key, Rop.jmpr, (c1.rgJump i.x).toNat % words)], Does d key row.2.1 → Gives row.1 d fun e =>
      OnlyCore key d e ∧ (e.core key).pc = row.2.2 ∧ OnlyFlow c1 (e.core key)) ∧
    (∀ row ∈ [(Instr.br key, Rop.br), (Instr.add key, Rop.add), (Instr.ld key, Rop.ld), (Instr.st key, Rop.st),
        (Instr.call key, Rop.call), (Instr.jmp key, Rop.jmp), (Instr.mtc key, Rop.mtc), (Instr.blc key, Rop.blc)],
      Issues d key row.2 → c1.holds lane i = false → Gives row.1 d fun e =>
        OnlyCore key d e ∧ (e.core key).pc = next ∧ OnlyFlow c1 (e.core key)) ∧
    (Issues d key .rep → c1.holds lane i = false → Gives (.rep key) d fun e =>
      OnlyCore key d e ∧ (e.core key).pc = next ∧ OnlyFlow { c1 with rep := 2 } (e.core key)) ∧
    (∀ row ∈ [(Instr.call key, Rop.call, (i.z % (words : Int)).toNat), (Instr.callr key, Rop.callr, (c1.rgJump i.x).toNat % words)],
      Does d key row.2.1 → sp % 4 = 0 → 4 ≤ sp → sp ≤ 0x10000 → (c1.ctlAt 2).toNat ≤ sp - 4 → Gives row.1 d fun e =>
        let c := e.core key
        OnlyCore key d e ∧ c.pc = row.2.2 ∧ OnlyFlow { c1 with b := c.b, dmem := c.dmem } c ∧
        c.loadNear (sp - 4) 4 = next ∧ (∀ x, ¬(sp - 4 ≤ x ∧ x < sp) → Tab.get 0 c.dmem x = Tab.get 0 c1.dmem x) ∧
        (c.bNow 3).toNat = sp - 4 ∧ ∀ n < 3, c.bNow n = c1.bNow n) ∧
    (Does d key .ret → sp % 4 = 0 → sp < 0x10000 → ¬(lane = true ∧ c1.loadNear sp 4 = 0xFFFF) → Gives (.ret key) d fun e =>
      let c := e.core key
      OnlyCore key d e ∧ c.pc = c1.loadNear sp 4 % words ∧ OnlyFlow { c1 with b := c.b } c ∧ (c.bNow 3).toNat = sp + 4 ∧
      ∀ n < 3, c.bNow n = c1.bNow n) ∧
    (Does d key .ret → sp % 4 = 0 → sp < 0x10000 → lane = true → c1.loadNear sp 4 = 0xFFFF → c1.invoc ≠ none → Gives (.ret key) d fun e =>
      let c := e.core key
      OnlyCore key d e ∧ c.stopped = true ∧ c.done = 1 ∧ (c.bNow 3).toNat = sp + 4 ∧ c.pc = c1.pc ∧ c.g = c1.g ∧ c.dmem = c1.dmem) ∧
    (Does d key .reti → c1.posted = [] → sp % 4 = 0 → sp + 4 < 0x10000 → lane = false → Gives (.reti key) d fun e =>
      let c := e.core key
      let st := BitVec.ofNat 32 (c1.loadNear (sp + 4) 4) &&& stMask false
      OnlyCore key d e ∧ c.pc = c1.loadNear sp 4 % words ∧ (c.bNow 3).toNat = sp + 8 ∧ (∀ n, n ≠ fRPT → StBit c n = st.getLsbD n) ∧
      StBit c fRPT = false ∧ c.inRep = st.getLsbD fRPT ∧ c.g = c1.g ∧ c.dmem = c1.dmem ∧ c.lc = c1.lc ∧ c.p = c1.p ∧
      ∀ n < 3, c.bNow n = c1.bNow n) ∧
    (Does d key .blc →
      let lc := BitVec.ofNat 32 (c1.late 5 12 c1.lc.toNat) - 1
      Gives (.blc key) d fun e =>
        OnlyCore key d e ∧ (e.core key).lc = lc ∧ (e.core key).pc = (if lc ≠ 0 then rel else next) ∧
        OnlyFlow { c1 with lc := lc } (e.core key)) ∧
    (Does d key .rep → Gives (.rep key) d fun e =>
      OnlyCore key d e ∧ (e.core key).lc = c1.rg i.x ∧ (e.core key).rep = 1 ∧ (e.core key).pc = next ∧
      OnlyFlow { c1 with lc := (e.core key).lc, rep := 1 } (e.core key))

/-- NOP, SYNC, IFLUSH, HALT, MFC, MTC, MOVB, PSET, PNOT, PCLR and GUARD (13 R456, R462, R477, R480, R481, Tables 13.3,
13.15): NOP only moves on; SYNC brings pending control registers into force when no far store is outstanding; IFLUSH ends
what old words remain; HALT halts; MFC and MTC move a control register; the others write a base, a predicate (P0 stays 1) or
the guard. -/
def Obligations.RidgeSystem : Prop :=
  ∀ (d : Dev) (key : Nat),
    let i := d.nextRi key
    let c1 := d.atIssue key
    let next := d.nextPc key
    let lane := isLane key
    let moves := fun (c' : Core) (e : Dev) =>
      let c := e.core key
      OnlyCore key d e ∧ c = { c' with pc := next, hist := c.hist, free := c.free, slot := c.slot }
    (Does d key .nop → Gives (.ridgeNop key) d (moves c1)) ∧
    (Does d key .sync → c1.posted = [] → Gives (.sync key) d fun e =>
      moves { c1 with ctl := (e.core key).ctl, pend := [] } e ∧ ((e.core key).ctl = c1.syncCtl.ctl)) ∧
    (Does d key .iflush → Gives (.iflush key) d fun e => moves { c1 with
      loop := LoopBuf.reset, stale := [], winEnd := (e.core key).winEnd, winCyc := (e.core key).winCyc } e) ∧
    (Does d key .halt → Gives (.halt key) d (moves { c1 with loop := LoopBuf.reset, halted := true })) ∧
    (Does d key .movb → Gives (.movb key) d fun e =>
      moves { c1 with b := (e.core key).b } e ∧ ∀ n, (e.core key).bNow n = if n = i.y then c1.rg i.x else c1.bNow n) ∧
    (Does d key .mfc → Gives (.mfc key) d fun e =>
      OnlyCore key d e ∧ (e.core key).pc = next ∧ (e.core key).gNow i.x = (c1.mfc key i.y).1 ∧
      (∀ n, n ≠ i.x → (e.core key).gNow n = c1.gNow n) ∧ (e.core key).b = c1.b ∧ (e.core key).dmem = c1.dmem ∧
      (e.core key).st = c1.st ∧ (e.core key).lc = c1.lc ∧ (i.y ≠ 10 → i.y ≠ 11 →
        moves { c1 with g := (e.core key).g } e)) ∧
    (Does d key .mtc →
      let v := c1.rg i.x
      (∀ row ∈ [(2, v), (3, v &&& ~~~1#32), (4, v &&& 0xFFFF#32), (8, v &&& 0x80000000#32), (9, v)], i.y = row.1 →
        Gives (.mtc key) d fun e =>
          moves { c1 with pend := (e.core key).pend } e ∧ Tab.get none (e.core key).pend row.1 = some row.2) ∧
      (i.y = 0 → Gives (.mtc key) d fun e => moves { c1 with st := v &&& stMask lane } e) ∧
      (i.y = 1 → Gives (.mtc key) d fun e => moves { c1 with lc := v } e) ∧
      (i.y = 6 → Gives (.mtc key) d fun e => moves { c1 with lines := c1.lines ||| v.toNat % 256 } e) ∧
      (i.y = 7 → Gives (.mtc key) d fun e =>
        moves { c1 with ctl := (e.core key).ctl } e ∧ ∀ n, (e.core key).ctlAt n = if n = 7 then v else c1.ctlAt n) ∧
      (i.y = 5 ∨ i.y = 12 ∨ i.y = 13 ∨ i.y = 14 → Gives (.mtc key) d (moves c1)) ∧
      (i.y = 10 → Gives (.mtc key) d fun e =>
        moves { c1 with ctl := (e.core key).ctl, loop := LoopBuf.reset, winCyc := (e.core key).winCyc } e ∧
        ∀ n, (e.core key).ctlAt n = if n = 10 then BitVec.ofNat 32 (v.toNat % pmWords lane) else c1.ctlAt n) ∧
      (i.y = 15 → Gives (.mtc key) d fun e =>
        moves { c1 with p := (e.core key).p } e ∧ bitAt (e.core key).p 0 = true ∧
        ∀ n, 0 < n → n < 8 → bitAt (e.core key).p n = v.getLsbD n) ∧
      (i.y = 11 → Gives (.mtc key) d fun e =>
        let a := (c1.ctlAt 10).toNat
        OnlyCore key d e ∧ Tab.get 0 (e.core key).pmem a = v.toNat % 2 ^ wordBits lane ∧
        (∀ x, x ≠ a → Tab.get 0 (e.core key).pmem x = Tab.get 0 c1.pmem x) ∧
        (e.core key).ctlAt 10 = BitVec.ofNat 32 ((a + 1) % pmWords lane) ∧ (e.core key).g = c1.g ∧ (e.core key).dmem = c1.dmem)) ∧
    (let pred := fun (v : Bool) (e : Dev) =>
      moves { c1 with p := (e.core key).p } e ∧
      ∀ n < 8, bitAt (e.core key).p n = if n = i.x ∧ n ≠ 0 then v else bitAt c1.p n
     (Does d key .pset → Gives (.pset key) d (pred (condHolds c1.st i.y))) ∧
     (Does d key .pnot → Gives (.pnot key) d (pred (!bitAt c1.p i.x))) ∧
     (Does d key .pclr → Gives (.pclr key) d (pred false))) ∧
    (Does d key .guard → Gives (.guard key) d fun e =>
      moves { c1 with st := (e.core key).st } e ∧ ∀ n < 32, StBit (e.core key) n =
        if 16 ≤ n ∧ n < 19 then i.x.testBit (n - 16) else if n = 19 then decide (i.y = 1) else StBit c1 n)

/-- MOVS, FILS, SCNS, MACM and MACMU (13 R469, R473, Table 13.11): without REP one element, in data memory, moves, fills,
compares or accumulates, and its bases advance by its size; under REP with LC 0 nothing happens; under REP a fill of spur
data memory runs LC times, to LC 0. -/
def Obligations.RidgeStrings : Prop :=
  (∀ (d : Dev) (key m : Nat),
    let i := d.nextRi key
    let c1 := d.atIssue key
    let next := d.nextPc key
    let n := i.size
    let a := (c1.rb 0).toNat
    let b := (c1.rb 1).toNat
    let inside := fun x => x % n = 0 ∧ x < 0x10000
    let moved := fun (b0 b1 : Bool) (e : Dev) =>
      let c := e.core key
      OnlyCore key d e ∧ c.pc = next ∧ c.g = c1.g ∧ c.lc = c1.lc ∧ c.p = c1.p ∧ c.rep = 0 ∧ c.inRep = false ∧
      c.bNow 0 = (if b0 then c1.bNow 0 + BitVec.ofNat 32 n else c1.bNow 0) ∧
      c.bNow 1 = (if b1 then c1.bNow 1 + BitVec.ofNat 32 n else c1.bNow 1) ∧ c.bNow 2 = c1.bNow 2 ∧ c.bNow 3 = c1.bNow 3
    let stores := fun (v : Nat) (e : Dev) =>
      (∀ j < n, Tab.get 0 (e.core key).dmem (b + j) = BitVec.ofNat 8 (v / 2 ^ (8 * j))) ∧
      (∀ x, ¬(b ≤ x ∧ x < b + n) → Tab.get 0 (e.core key).dmem x = Tab.get 0 c1.dmem x) ∧ (e.core key).st = c1.st
    (Does d key .movs → inside a → inside b → Gives (.movs key m) d fun e => moved true true e ∧ stores (c1.loadNear a n) e) ∧
    (Does d key .fils → inside b → Gives (.fils key m) d fun e => moved false true e ∧ stores (c1.rg 0).toNat e) ∧
    (Does d key .scns → inside a → Gives (.scns key m) d fun e =>
      moved true false e ∧ (e.core key).dmem = c1.dmem ∧
      StBit (e.core key) fZ = decide (c1.loadNear a n = (c1.gNow 0).toNat % 2 ^ (8 * n)) ∧
      ∀ x, x ≠ fZ → StBit (e.core key) x = StBit c1 x) ∧
    (Does d key .macm → inside a → inside b →
      let v := (BitVec.ofNat 64 c1.mxAll).toInt + sext (c1.loadNear a n) (8 * n) * sext (c1.loadNear b n) (8 * n)
      Gives (.macm key m) d fun e =>
        moved true true e ∧ (e.core key).dmem = c1.dmem ∧
        (e.core key).mxw = mxInsert ⟨c1.cyc + 2, 2, (BitVec.ofInt 64 v).toNat⟩ c1.mxw ∧
        StBit (e.core key) fMO = (StBit c1 fMO || decide (v < -2 ^ 63 ∨ (2 ^ 63 : Int) ≤ v))) ∧
    (Does d key .macmu → inside a → inside b →
      let v := c1.mxAll + c1.loadNear a n * c1.loadNear b n
      Gives (.macmu key m) d fun e =>
        moved true true e ∧ (e.core key).dmem = c1.dmem ∧
        (e.core key).mxw = mxInsert ⟨c1.cyc + 2, 2, v % 2 ^ 64⟩ c1.mxw ∧
        StBit (e.core key) fMO = (StBit c1 fMO || decide (2 ^ 64 ≤ v)))) ∧
  (∀ (d : Dev) (key m : Nat), Powered d → d.coreOn key = true → (d.core key).runs = true → (d.core key).rep = 1 →
    (d.core key).inRep = false →
    let i := d.nextRi key
    let c := d.core key
    (d.atIssue key).holds (isLane key) i = true →
    (c.lc = 0 → ∀ row ∈ [(Instr.movs key m, Rop.movs), (Instr.fils key m, Rop.fils), (Instr.scns key m, Rop.scns),
        (Instr.macm key m, Rop.macm), (Instr.macmu key m, Rop.macmu)], i.op = row.2 → Gives row.1 d fun e =>
      OnlyCore key d e ∧ (e.core key).pc = d.nextPc key ∧ (e.core key).rep = 0 ∧ (e.core key).inRep = false ∧
      (e.core key).g = c.g ∧ (e.core key).b = c.b ∧ (e.core key).lc = 0 ∧ (e.core key).dmem = c.dmem ∧
      (e.core key).st = c.st) ∧
    (isLane key = false → c.stale = [] → c.loop = LoopBuf.reset → i.op = .fils → 0 < c.lc.toNat → c.lc.toNat ≤ m →
      (c.bNow 1).toNat % i.size = 0 → (c.bNow 1).toNat + c.lc.toNat * i.size ≤ 0x10000 → Gives (.fils key m) d fun e =>
        let b := (c.bNow 1).toNat
        (e.core key).lc = 0 ∧ (e.core key).pc = d.nextPc key ∧ (e.core key).rep = 0 ∧ (e.core key).inRep = false ∧
        ((e.core key).bNow 1).toNat = b + c.lc.toNat * i.size ∧ (e.core key).g = c.g ∧
        (∀ j < c.lc.toNat * i.size, Tab.get 0 (e.core key).dmem (b + j) =
          BitVec.ofNat 8 ((c.gNow 0).toNat / 2 ^ (8 * (j % i.size)))) ∧
        (∀ x, ¬(b ≤ x ∧ x < b + c.lc.toNat * i.size) → Tab.get 0 (e.core key).dmem x = Tab.get 0 c.dmem x) ∧
        OnlyCore key d e))

/-- BRK, TRAP, a reserved encoding and an instruction misplaced after REP (13 R473, R475, R479): each traps to its vector,
the first two with the address behind them saved; no repetition is in progress at a misplaced one. -/
def Obligations.RidgeTraps : Prop :=
  ∀ (d : Dev) (key : Nat), isLane key = true ∨ HasFrame (d.atIssue key) →
    (Does d key .brk → Gives (.brk key) d (Trapped key vBRK (d.nextPc key) none d)) ∧
    (Does d key .trap → Gives (.trap key) d (Trapped key (8 + (d.nextRi key).x) (d.nextPc key) none d)) ∧
    (Issues d key .reserved → Gives (.reservedEncoding key) d (Trapped key vRSVD (d.core key).pc none d)) ∧
    (∀ row ∈ [(Instr.add key, Rop.add), (Instr.ld key, Rop.ld), (Instr.br key, Rop.br), (Instr.ridgeNop key, Rop.nop)],
      Powered d → d.coreOn key = true → (d.core key).runs = true → (d.core key).rep = 1 → (d.nextRi key).op = row.2 →
      Gives row.1 d (TrappedFrom { d.atIssue key with rep := 0 } key vRSVD (d.core key).pc none d))

/-- INTERRUPT_ENTRY, INTERRUPT_TAKEOVER, IMPRECISE_TRAP, FAR_LOAD_DATA, FAR_STORE_COMPLETE, TIMER, LANE_STOP, KERNEL_LIMIT
and KERNEL_INVOCATION (12 R430, R431; 13 R476, R477; 14 R500, R508 to R512): the highest line that qualifies is entered with
its frame, its level and, for a software line, its bit clear; a higher line that appears within the window takes the entry
over; an error of a posted store traps when it arrives at a boundary; a far load's data reach their register; a posted store
is written, or its error noted; the timer is at 0; a lane core stops, at its limit with its chunk. -/
def Obligations.CoreEvents : Prop :=
  ∀ (d : Dev) (key : Nat), Powered d →
    let c := d.core key
    (∀ levels n, d.coreOn key = true → isLane key = false →
      let c0 := c.seeLevels levels
      c0.boundary key = true → c.errs = [] → c0.bestLine c0.ipl = some n → HasFrame c0 → Gives (.interruptEntry key levels) d fun e =>
        FramePushed (16 + n) c.pc c0.frameSt c0 (e.core key) ∧ (e.core key).ipl = n + 1 ∧ (e.core key).halted = false ∧
        (∀ l < 16, bitAt (e.core key).lines l = if l = n ∧ n < 8 then false else bitAt c0.lines l) ∧
        (e.core key).entry = some ⟨c0.ipl, n, c.free⟩ ∧ OnlyCore key d e) ∧
    (∀ levels b x m, d.coreOn key = true → isLane key = false →
      let c0 := c.seeLevels levels
      c.entry = some x → c0.bestLine x.ipl = some m → x.line < m → m < 16 → b ≤ 3 → Gives (.interruptTakeover key levels b) d fun e =>
        (e.core key).pc = ((c.ctlAt 3).toNat + 2 * (16 + m)) % 16384 ∧ (e.core key).ipl = m + 1 ∧
        (e.core key).entry = some ⟨x.ipl, m, x.cyc + b + 1⟩ ∧ (e.core key).b = c.b ∧ (e.core key).dmem = c.dmem ∧
        (∀ l < 16, bitAt (e.core key).lines l =
          if l = m ∧ m < 8 then false else if l = x.line ∧ l < 8 then true else bitAt c0.lines l) ∧ OnlyCore key d e) ∧
    (∀ vec eff l, d.coreOn key = true → isLane key = false → c.stopped = false → c.farLoad = none → c.inRep = false → c.rep = 0 →
      c.errs = (vec, eff) :: l → HasFrame c → Gives (.impreciseTrap key) d fun e =>
        FramePushed vec c.pc c.frameSt c (e.core key) ∧ (e.core key).errs = l ∧ (e.core key).halted = false ∧
        (e.core key).ctlAt 12 = BitVec.ofNat 32 eff ∧ (e.core key).ctlAt 13 = BitVec.ofNat 32 (2 * vec + 1) ∧
        OnlyCore key d e) ∧
    (∀ part lat x v s, d.coreOn key = true → c.farLoad = some x → x.kind = 0 → x.reg < 12 →
      d.farWords key part c.posted [(x.addr, x.size)] = (.data v, s) → x.size ≠ 8 → s.core key = c →
      Gives (.farLoadData key part lat false) d fun e =>
        let w : Word := if x.sign then BitVec.ofInt 32 (sext v (8 * x.size)) else BitVec.ofNat 32 v
        (e.core key).farLoad = none ∧
        (∀ n < 8, (e.core key).gNow n = if n = x.reg then w else c.gNow n) ∧
        (∀ n < 4, (e.core key).bNow n = if n + 8 = x.reg then w else c.bNow n) ∧
        (e.core key).dmem = c.dmem ∧ e = { s with cores := e.cores }) ∧
    (∀ part x l, isCore key = true → c.posted = x :: l →
      (Gives (.farStoreComplete key part true) d fun e =>
        e.core key = { c with posted := l, errs := c.errs ++ [(vBUS, x.eff)] } ∧ OnlyCore key d e) ∧
      (∀ die k, d.farClaimed (farAcc key part) x.addr = false → d.farCheck (farAcc key part) kWrite x.addr = none →
        (∀ off, d.route x.addr ≠ .setup off) → d.target (coreDie key) x.addr = .ok (some die, k) → Gives (.farStoreComplete key part false) d fun e =>
          e = (d.writeSram die k key (if (farAcc key part).level = 0 then some part else none) x.bytes).setCore key
            { c with posted := l })) ∧
    (d.coreOn key = true → Gives (.timer key) d fun e =>
      (e.core key).ctlAt 7 = 0 ∧ (e.core key).cyc = c.cyc + (c.ctlAt 7).toNat ∧ (e.core key).pc = c.pc ∧ (e.core key).g = c.g ∧
      OnlyCore key d e) ∧
    (isLane key = true → isCore key = true →
      (c.invoc ≠ none → c.stopped = false → Gives (.laneStop key) d fun e =>
        e.core key = { c with stopped := true, done := 4 } ∧ OnlyCore key d e) ∧
      (c.overLimit = true → Gives (.kernelLimit key) d fun e =>
        e.core key = { c with stopped := true, done := 3 } ∧
        (∀ v b cmd, c.invoc = some v → (Tab.get Engine.reset d.engines (laneSlice key).key).busy = some b → b.queue = v.queue →
          d.cmdOf b.queue = some cmd → ⟨b.chunk, laneSlice key⟩ ∈ cmd.out → ∃ cmd', e.cmdOf b.queue = some cmd' ∧
          cmd'.fail = some (cmd.fail.getD (stFAULT, dKERNELLIMIT))) ∧
        e.mem = d.mem ∧ e.hostMem = d.hostMem ∧ e.regs = d.regs)) ∧
    (∀ busy q b s, isLane key = true → d.coreOn key = true →
      (Tab.get Engine.reset d.engines (laneSlice key).key).busy = some busy → (c.invoc = none ∨ c.stopped = true) →
      let k := busy.queue
      let cmd := busy.cmd
      cmd.opcode = 0x80 → runAct (Sel.parse k cmd.words) d = (.ok q, d) → q.kernel ≠ 0 → cmd.at cPOS < q.i.rows →
      runAct (do loadKernel k (coreDie key) q.kernel; q.nextBlock (cmd.at cPOS)) d = (.ok b, s) →
      Gives (.kernelInvocation k key) d fun e => e = s.setCore key ((s.core key).invoke k q.klimit b.slim b.data))

/-- PORT_ENABLE, FABRIC_SIGNAL_PRESENT, PORT_LOCK, PORT_TRAIN_TIMEOUT, PORT_TRAIN_RETRY, LINK_HELLO, PORT_HELLO_TIMER,
FABRIC_PORT_DOWN and UNIT_LOST (16 R567, R568, R601, Table 16.4; 03 R83): the states of a port, the events that move it, the HELLO
that installs credits and records the partner, and what a port that goes DOWN discards; a partner of the own chain that is reported lost
leaves the count of its chain source. -/
def Obligations.FabricPorts : Prop :=
  ∀ (d : Dev) (n : Nat), Powered d → n < 12 →
    let st := d.get F.PORT_STATE (fix n)
    let may : Bool := !d.hostShut && d.portsMay && !d.dieGone (6 + n / 6)
    let ours : OutMsg → Bool := fun m => m.port == n
    let hello := LinkMsg.hello ⟨d.ident, n, d.get F.PORT_MODE (fix n), ownCredits, none⟩
    (∀ signal, Gives (.portEnable n false signal) d fun e =>
      e.get F.PORT_ENABLE (fix n) = 0 ∧ PortDown n d e ∧ MessagesEnd ours dLINKLOST d e) ∧
    (∀ signal, Gives (.portEnable n true signal) d fun e =>
      e.get F.PORT_ENABLE (fix n) = 1 ∧ e.get F.PORT_STATE (fix n) = (if signal = true ∧ st = 0 ∧ may = true then 1 else st) ∧
      OnlyFields [(F.PORT_ENABLE, fix n), (F.PORT_STATE, fix n)] d e ∧ OnlyRegs d e) ∧
    (may = true → st = 0 → d.get F.PORT_ENABLE (fix n) = 1 → Gives (.fabricSignalPresent n) d fun e =>
      e.get F.PORT_STATE (fix n) = 1 ∧ OnlyFields [(F.PORT_STATE, fix n)] d e ∧ OnlyRegs d e) ∧
    (st = 1 → Gives (.portLock n) d fun e =>
      e.get F.PORT_STATE (fix n) = 2 ∧ e.get F.PORT_LOCKED (fix n) = 15 ∧ LinkTalk n [hello] d e ∧
      OnlyFields [(F.PORT_STATE, fix n), (F.PORT_LOCKED, fix n)] d e ∧
      e = { d with regs := e.regs, fab := { d.fab with links := e.fab.links } }) ∧
    (st = 1 → Gives (.portTrainTimeout n) d fun e =>
      PortDown n d e ∧ (e.link n).retry = true ∧ MessagesEnd ours dLINKLOST d e) ∧
    ((d.link n).retry = true → may = true → st = 0 → d.get F.PORT_ENABLE (fix n) = 1 → Gives (.portTrainRetry n) d fun e =>
      e.get F.PORT_STATE (fix n) = 1 ∧ (e.link n) = { d.link n with retry := false } ∧ (∀ k, k ≠ n → e.link k = d.link k) ∧
      OnlyFields [(F.PORT_STATE, fix n)] d e ∧ e = { d with regs := e.regs, fab := { d.fab with links := e.fab.links } }) ∧
    (∀ h : Hello, st = 2 →
      (h.mode = d.get F.PORT_MODE (fix n) → Gives (.linkHello n h) d fun e =>
        e.get F.PORT_STATE (fix n) = 3 ∧ e.get F.PARTNER_IDENTITY (fix n) = h.ident % 2 ^ 15 ∧
        e.get F.PARTNER_PORT (fix n) = h.port % 16 ∧ e.get F.PARTNER_VALID (fix n) = 1 ∧ e.get F.FAB_PORT_UP = 1 ∧
        (∀ p < 8, Tab.get 0 (e.link n).credits p = h.credits.getD p 0 ∧ Tab.get 0 (e.link n).total p = h.credits.getD p 0) ∧
        (∀ k, k ≠ n → e.link k = d.link k) ∧
        OnlyFields [(F.PORT_STATE, fix n), (F.PARTNER_IDENTITY, fix n), (F.PARTNER_PORT, fix n), (F.PARTNER_VALID, fix n),
          (F.FAB_PORT_UP, [])] d e ∧ e.mem = d.mem ∧ e.cad = d.cad ∧ e.queues = d.queues) ∧
      (h.mode ≠ d.get F.PORT_MODE (fix n) → Gives (.linkHello n h) d fun e =>
        e.get F.MODE_MISMATCH (fix n) = 1 ∧ OnlyFields [(F.MODE_MISMATCH, fix n)] d e ∧ OnlyRegs d e)) ∧
    (∀ h : Hello, ∀ t, st = 3 → h.delay = some t → Gives (.linkHello n h) d fun e =>
      e.get F.PORT_DELAY (fix n) = min t 65535 ∧ OnlyFields [(F.PORT_DELAY, fix n)] d e ∧ OnlyRegs d e) ∧
    (st = 3 → Gives (.portHelloTimer n) d fun e =>
      LinkTalk n [hello] d e ∧ e = { d with fab := { d.fab with links := e.fab.links } }) ∧
    (st = 3 → Gives (.fabricPortDown n) d fun e =>
      PortDown n d e ∧ MessagesEnd ours dLINKLOST d e ∧
      ∃ r, e.reports = d.reports ++ [r] ∧ r.code = 0x47 ∧ r.die = 6 + n / 6) ∧
    (let partner := d.get F.PARTNER_IDENTITY (fix n)
     let lost := fun (e : Dev) =>
      PortDown n d e ∧ e.get F.PARTNER_LOST = 1 ∧
      e.fab.outMsgs = d.fab.outMsgs.filter (fun m => !(m.port == n || m.dst == partner)) ∧
      CommandsFail (fun m => m.dst == partner) dUNITLOST d e ∧
      ∃ r, e.reports = d.reports ++ [r] ∧ r.code = 0x48 ∧ r.die = 6 + n / 6
     let leaves := d.get F.PARTNER_VALID (fix n) = 1 ∧ partner / 128 = d.get F.CHAIN_ADDR_ID ∧ d.chainSource = true ∧
      partner % 128 ∈ d.cad.unitPart
     (¬leaves → Gives (.link n .unitLost) d lost ∧
      ∀ f, ForUs d n f → f.kind = 7 → wordAt f.data 0 = c0LOST → Gives (.unitLost n f) d lost) ∧
     (leaves → Gives (.link n .unitLost) d fun e =>
      e.cad.unitPart = d.cad.unitPart.erase (partner % 128) ∧ e.get F.PORT_STATE (fix n) = 0 ∧ e.get F.PARTNER_LOST = 1 ∧
      (∃ r, e.reports = d.reports ++ [r] ∧ r.code = 0x48 ∧ r.die = 6 + n / 6) ∧ e.mem = d.mem))

/-- FLIT_ROUTE, LINK and LINK_NAK (16 R563 to R566, R569 to R571, R573, R574, R603): a flit whose CRC fails is dropped and
answered with a NAK, one of a wrong kind or class dropped and counted; one that is not for this unit leaves on an UP port of
its entry's mask, on the VC of R571, when it holds a credit and the replay buffer has room for it, waits otherwise, and is dropped without
such a port; the cadence of a relay leaves on its RELAY_PORT (03 R71; log 81); returned credits add up, and acknowledged flits leave the
replay buffer; a NAK is a replay, and the sixteenth takes the port DOWN. Readings of the model's own: logs 73, 74, 76, 81. -/
def Obligations.FabricLinkAndRouting : Prop :=
  (∀ (d : Dev) (n : Nat) (f : Flit) (stay : Nat), Powered d → n < 12 → d.get F.PORT_STATE (fix n) = 3 →
    (f.crcOk = false → Gives (.flitRoute n f stay) d fun e =>
      LinkTalk n [.nak] d e ∧ (∃ r, e.reports = d.reports ++ [r] ∧ r.code = 0x46 ∧ r.die = 6 + n / 6) ∧
      e = { d with fab := { d.fab with links := e.fab.links }, reports := e.reports }) ∧
    (f.crcOk = true → f.wellKind = false → Gives (.flitRoute n f stay) d fun e =>
      e.get F.FAB_FORMAT_COUNT = min (d.get F.FAB_FORMAT_COUNT + 1) (2 ^ 32 - 1) ∧
      LinkTalk n (.credit [] 1 :: creditBack d n f) d e ∧ OnlyFields [(F.FAB_FORMAT_COUNT, [])] d e ∧
      e = { d with regs := e.regs, fab := { d.fab with links := e.fab.links } }) ∧
    (∀ pairs acked, (d.link n).waiting = [] → Gives (.link n (.credit pairs acked)) d fun e =>
      (∀ p, Tab.get 0 (e.link n).credits p =
        Tab.get 0 (d.link n).credits p + ((pairs.filter fun x => x.1 == p).map (·.2)).sum) ∧
      (e.link n).replay = (d.link n).replay.drop acked ∧ (∀ k, k ≠ n → e.link k = d.link k) ∧
      e = { d with fab := { d.fab with links := e.fab.links } }) ∧
    ((d.link n).replay ≠ [] →
      ((d.link n).replays < 15 → Gives (.linkNak n) d fun e =>
        e.get F.REPLAY_COUNT (fix n) = min (d.get F.REPLAY_COUNT (fix n) + 1) (2 ^ 32 - 1) ∧
        e.link n = { d.link n with replays := (d.link n).replays + 1 } ∧ (∀ k, k ≠ n → e.link k = d.link k) ∧
        OnlyFields [(F.REPLAY_COUNT, fix n)] d e ∧ e = { d with regs := e.regs, fab := { d.fab with links := e.fab.links } }) ∧
      (15 ≤ (d.link n).replays → Gives (.linkNak n) d fun e =>
        PortDown n d e ∧ MessagesEnd (fun m => m.port == n) dLINKLOST d e ∧
        ∃ r, e.reports = d.reports ++ [r] ∧ r.code = 0x47 ∧ r.die = 6 + n / 6))) ∧
  (∀ (d : Dev) (n : Nat) (f : Flit) (stay : Nat), FlitTaken d n f → ¬(d.get F.CHAIN_ADDR ≠ 0 ∧ f.dst = d.ident) →
    let a := (d.routeEntry f.dst).1
    let b := (d.routeEntry f.dst).2.1
    let mask := bitsOf a 0 12
    let quiet := fun (e : Dev) => e.mem = d.mem ∧ e.cad = d.cad ∧ e.queues = d.queues ∧ e.fab.inject = d.fab.inject
    (f.dst % 128 = 0 ∨ f.dst % 128 = 127 ∨ (∀ m < 12, bitAt mask m = true → d.get F.PORT_STATE (fix m) ≠ 3) →
      Gives (.flitRoute n f stay) d fun e =>
        e.get F.NO_ROUTE_COUNT = min (d.get F.NO_ROUTE_COUNT + 1) (2 ^ 32 - 1) ∧
        LinkTalk n (.credit [] 1 :: creditBack d n f) d e ∧ OnlyFields [(F.NO_ROUTE_COUNT, [])] d e ∧ quiet e) ∧
    (f.dst % 128 ≠ 0 → f.dst % 128 ≠ 127 → ∀ m, d.spread mask (flowOf f.src f.dst f.dstPart f.cls) = some m →
      d.encapPort m = false → (d.link m).waiting = [] →
      let dim := bitsOf b 0 3
      let vc := if bitAt b 3 = true ∨ (f.vc % 2 = 1 ∧ d.get F.PORT_DIM (fix n) = dim ∧ dim ≠ 7) then 1 else bitsOf a 12 1
      let t := TickMsg.ofWords (f.data.drop 1)
      let data := if f.kind = 7 ∧ wordAt f.data 0 = tyTick then
          ctrl0Words tyTick
            { t with delay := min (t.delay + d.get F.PORT_DELAY (fix n) + stay) (2 ^ 24 - 1) : TickMsg }.toWords
        else f.data
      let g : Flit := { f with vc := vc, data := data }
      let pair := pairOf f.cls vc
      let counted := fun (e : Dev) =>
        (e.get F.MISROUTE_COUNT =
          if m = n then min (d.get F.MISROUTE_COUNT + 1) (2 ^ 32 - 1) else d.get F.MISROUTE_COUNT) ∧
        OnlyFields [(F.MISROUTE_COUNT, [])] d e ∧ quiet e ∧ (∀ k, k ≠ n → k ≠ m → e.link k = d.link k)
      (bitAt mask m = true ∧ d.get F.PORT_STATE (fix m) = 3) ∧
      (0 < Tab.get 0 (d.link m).credits pair → (d.link m).replay.length < 8192 → Gives (.flitRoute n f stay) d fun e =>
        counted e ∧ (e.link m).replay = (d.link m).replay ++ [g] ∧ (e.link m).waiting = [] ∧
        Tab.get 0 (e.link m).credits pair = Tab.get 0 (d.link m).credits pair - 1 ∧
        (∀ p, p ≠ pair → Tab.get 0 (e.link m).credits p = Tab.get 0 (d.link m).credits p) ∧
        (e.link n).out = (d.link n).out ++ .credit [] 1 :: creditBack d n f) ∧
      (Tab.get 0 (d.link m).credits pair = 0 ∨ 8192 ≤ (d.link m).replay.length → Gives (.flitRoute n f stay) d fun e =>
        counted e ∧ (e.link m).replay = (d.link m).replay ∧ (e.link m).credits = (d.link m).credits ∧
        (e.link m).waiting = [⟨2 * n + f.vc % 2, 64, g⟩] ∧ (e.link n).out = (d.link n).out ++ [.credit [] 1]))) ∧
  (∀ (d : Dev) (f g : Flit) (l : List Flit) (stay : Nat), Powered d → d.fab.inject = g :: l → g.dst ≠ d.ident →
    g.charged = true → g.dst % 128 ≠ 0 → g.dst % 128 ≠ 127 →
    (∀ m < 12, bitAt (bitsOf (d.routeEntry g.dst).1 0 12) m = true → bitAt (d.colPorts g.srcPart) m = true →
      d.get F.PORT_STATE (fix m) ≠ 3) →
    Gives (.flitRoute 12 f stay) d fun e =>
      e.fab = { d.fab with inject := l } ∧ e.get F.NO_ROUTE_COUNT = min (d.get F.NO_ROUTE_COUNT + 1) (2 ^ 32 - 1) ∧
      OnlyFields [(F.NO_ROUTE_COUNT, [])] d e ∧ e = { d with regs := e.regs, fab := e.fab, pairs := e.pairs }) ∧
  (∀ (d : Dev) (f g : Flit) (l : List Flit) (stay : Nat), Powered d → d.fab.inject = g :: l → g.dst ≠ d.ident →
    g.dst % 128 ≠ 0 → g.dst % 128 ≠ 127 → g.kind = 7 → g.cls = 0 → d.get F.RELAY = 1 → wordAt g.data 0 ≤ tyHandover →
    let p := d.get F.RELAY_PORT
    let a := (d.routeEntry g.dst).1
    let b := (d.routeEntry g.dst).2.1
    let vc := if bitAt b 3 = true then 1 else bitsOf a 12 1
    p < 12 → bitAt (bitsOf a 0 12) p = true → d.get F.PORT_STATE (fix p) = 3 → d.encapPort p = false → (d.link p).waiting = [] →
    (d.link p).replay.length < 8192 → 0 < Tab.get 0 (d.link p).credits (pairOf 0 vc) → Gives (.flitRoute 12 f stay) d fun e =>
      e.fab.inject = l ∧ (e.link p).replay = (d.link p).replay ++ [{ g with vc := vc }] ∧ (∀ k, k ≠ p → e.link k = d.link k) ∧
      e.regs = d.regs ∧ e.mem = d.mem ∧ e.cad = d.cad ∧ e.queues = d.queues)

/-- PUT, GET_REQ, GET_DATA, ACK and ACK_TIMEOUT (16 R577 to R580): a PUT writes piece by piece for its DST_PART and its ACK
carries the status, FAULT when that partition is not ENABLED, PROT when a remote fence is not allowed; a GET_REQ is answered
with the data read, or an empty GET_DATA with its status; GET_DATA lands at the requester; an ACK, or the want of one, ends
its message, and with a failing status its command too. -/
def Obligations.FabricTransfers : Prop :=
  (∀ (d : Dev) (n : Nat) (f : Flit), ForUs d n f → f.seqn = 0 → f.last = true →
    let h := heardOn d n
    let addr := wordAt f.data 0 + 2 ^ 32 * wordAt f.data 1
    let bytes := wordAt f.data 2
    let aux := wordAt f.data 3
    let at8 := wordAt f.data 4 + 2 ^ 32 * wordAt f.data 5
    let bs := (bytesOfWords (f.data.drop 6)).take bytes
    let port : Acc := ⟨f.dstPart, 0, xferMid n, false⟩
    let isOpen := d.get F.P_STATE [f.dstPart] = pENABLED
    let fence := bitsOf aux 0 8
    let allowed := fun (x : Dev) => bitAt (x.get F.REMOTE_SIG [f.dstPart, fence / 32]) (fence % 32)
    (f.kind = 1 →
      (¬isOpen → Gives (.put n f) d (Answered n f [ackFlit d f stFAULT] h)) ∧
      (isOpen → ∀ st detail x, h.inboundWrite port addr bs = (some (st, detail), x) → x.get F.CHAIN_ADDR ≠ 0 →
        (ackStatus st ≠ stOK ∨ bitAt aux 8 = false → Gives (.put n f) d (Answered n f [ackFlit x f (ackStatus st)] x)) ∧
        (ackStatus st = stOK → bitAt aux 8 = true →
          (allowed x = false → Gives (.put n f) d (Answered n f [ackFlit x f stPROT] x)) ∧
          (allowed x = true → x.fab.inMsgs = [] → (x.signalFence f.dstPart fence at8 false).get F.CHAIN_ADDR ≠ 0 →
            Gives (.put n f) d (Answered n f [ackFlit (x.signalFence f.dstPart fence at8 false) f stOK]
              (x.signalFence f.dstPart fence at8 false)))))) ∧
    (f.kind = 2 →
      let replies := fun (status : Nat) (b : List Byte) (x e : Dev) => ∃ l, l ≠ [] ∧
        l.flatMap (·.data) = headWords at8 b.length status 0 ++ padWords b ∧
        (∀ g ∈ l, g.kind = 3 ∧ g.cls = 2 ∧ g.dst = f.src ∧ g.dstPart = f.srcPart ∧ g.src = x.ident ∧ g.srcPart = f.dstPart ∧
          g.msg = f.msg ∧ g.data.length ≤ 60) ∧ Answered n f l x e
      (¬isOpen → Gives (.getReq n f) d (replies stFAULT [] h)) ∧
      (isOpen → ∀ x, x.get F.CHAIN_ADDR ≠ 0 →
        (∀ b, runAct (readMem port addr (min bytes msgMax)) h = (.ok b, x) → Gives (.getReq n f) d (replies stOK b x)) ∧
        (∀ st detail, runAct (readMem port addr (min bytes msgMax)) h = (.error (.ended st detail), x) →
          Gives (.getReq n f) d (replies (ackStatus st) [] x)))) ∧
    (f.kind = 3 → ∀ o, (d.fab.outMsgs.find? fun o => o.tag == f.msg && o.kind == 2 && o.dst == f.src) = some o → o.mute = false →
      let ended := fun (x : Dev) => { x with fab := { x.fab with outMsgs := x.fab.outMsgs.filter fun y => y != o } }
      (bitsOf aux 0 4 = stOK → ∀ st detail x, st < 16 →
        h.inboundWrite ⟨o.queue / 32, 0, xferMid n, false⟩ o.addr bs = (some (st, detail), x) →
        (st = stOK → Gives (.getData n f) d (Answered n f [] (ended x))) ∧
        (st ≠ stOK → Gives (.getData n f) d (Answered n f [] ((ended x).failCmd o.queue st detail)))) ∧
      (bitsOf aux 0 4 = stPROT → Gives (.getData n f) d (Answered n f [] ((ended h).failCmd o.queue stPROT dREMOTEPROT))) ∧
      (bitsOf aux 0 4 = stFAULT → Gives (.getData n f) d (Answered n f [] ((ended h).failCmd o.queue stFAULT dREMOTEFAULT)))) ∧
    (f.kind = 4 → ∀ o, (d.fab.outMsgs.find? fun o => o.tag == f.msg && o.kind != 2 && o.dst == f.src) = some o → o.kind = 1 →
      o.mute = false →
      let ended := { h with fab := { h.fab with outMsgs := h.fab.outMsgs.filter fun y => y != o } }
      let st := bitsOf (wordAt f.data 0) 0 4
      (st = stOK → Gives (.ack n f) d (Answered n f [] ended)) ∧
      (st = stPROT → Gives (.ack n f) d (Answered n f [] (ended.failCmd o.queue stPROT dREMOTEPROT))) ∧
      (st = stFAULT → Gives (.ack n f) d (Answered n f [] (ended.failCmd o.queue stFAULT dREMOTEFAULT))))) ∧
  (∀ (d : Dev) (tag : Nat), Powered d → Gives (.ackTimeout tag) d fun e =>
    MessagesEnd (fun m => m.tag == tag) dACKTIMEOUT d e ∧
    e = { d with fab := { d.fab with outMsgs := e.fab.outMsgs }, queues := e.queues })

/-- COLL_DATA, COLL_READY, COLL_NAK, COLL_CREDIT, COLL_ABORT, COLL_DONE, READY_REPEAT and COLL_TIMEOUT (16 R581 to R584,
R606): a READY to a member whose command has not started is answered with NAK and sent again later; one with another digest
ends the command with COLL_MISMATCH and an ABORT to every member, as TIMEOUT does with COLL_TIMEOUT; an ABORT ends it with
COLL_ABORT; a READY and a returned window are room to send; data are staged, or written to DST in ALLTOALL, and acknowledged;
and the collective goes on with what it was given. -/
def Obligations.FabricCollectives : Prop :=
  (∀ (d : Dev) (n : Nat) (f : Flit), ForUs d n f →
    let h := heardOn d n
    let id := bitsOf (wordAt f.data 0) 16 16
    let arg := wordAt f.data 1
    let code := fun (op : Nat) => f.kind = 6 ∧ bitsOf (wordAt f.data 0) 0 4 = op
    (code ccREADY → d.collOf f.dstPart id = none → Gives (.collReady n f) d (Answered n f
      [h.ownFlit f.src f.srcPart 3 6 f.dstPart 0 (ctrlWords ccNAK id 0)] h)) ∧
    (∀ k c m, d.collOf f.dstPart id = some (k, c) → c.member f.src f.srcPart = some m →
      Tab.get none d.fab.colls k = some c →
      let gone := fun (detail : Nat) => (h.failCmd k stFAULT detail).setColl k none
      let room := fun (bytes : Nat) => (h.updColl k fun c =>
        { c with grants := Tab.set none c.grants m (some ((Tab.get none c.grants m).getD 0 + bytes)) }).pump k
      (code ccREADY → arg ≠ c.digest → Gives (.collReady n f) d (Answered n f
        (((List.range c.nmemb).filter (· != c.self)).map fun j =>
          let g := c.group.getD j (0, 0)
          h.ownFlit g.1 g.2 3 6 (k / 32) 0 (ctrlWords ccABORT c.id 0)) (gone dMISMATCH))) ∧
      (code ccREADY → arg = c.digest → Gives (.collReady n f) d (Answered n f [] (room (2 ^ 21)))) ∧
      (code ccCREDIT → Gives (.collCredit n f) d (Answered n f [] (room arg))) ∧
      (code ccABORT → Gives (.collAbort n f) d (Answered n f [] (gone dABORT))) ∧
      (code ccNAK → m ∉ c.naks → Gives (.collNak n f) d (Answered n f []
        (h.setColl k ((Tab.get none d.fab.colls k).map fun c => { c with naks := c.naks ++ [m] })))) ∧
      (code ccDONE → m ∉ c.dones → Gives (.collDone n f) d (Answered n f []
        ((h.updColl k fun c => { c with dones := c.dones ++ [m] }).pump k)))) ∧
    (f.kind = 5 → f.seqn = 0 → f.last = true → d.fab.inMsgs = [] →
      let addr := wordAt f.data 0 + 2 ^ 32 * wordAt f.data 1
      let bs := (bytesOfWords (f.data.drop 6)).take (wordAt f.data 2)
      (d.get F.P_STATE [f.dstPart] ≠ pENABLED → Gives (.collData n f) d (Answered n f [ackFlit d f stFAULT] h)) ∧
      (d.get F.P_STATE [f.dstPart] = pENABLED → ∀ k c m, d.collOf f.dstPart (wordAt f.data 3 % 65536) = some (k, c) →
        c.member f.src f.srcPart = some m → Tab.get none d.fab.colls k = some c →
        (c.kind ≠ 4 →
          Gives (.collData n f) d (Answered n f []
            (((h.updColl k fun c => { c with stage := c.stage ++ [(m, addr, bs)] }).injectFlit (ackFlit h f stOK)).pump k))) ∧
        (c.kind = 4 → ∀ st detail x, x.fab.inMsgs = [] →
          h.inboundWrite ⟨f.dstPart, 0, xferMid n, false⟩ (c.dst + addr) bs = (some (st, detail), x) →
          let y := x.updColl k fun c => { c with direct := c.direct + bs.length }
          Gives (.collData n f) d (Answered n f []
            (((y.sendCtrl k c m ccCREDIT bs.length).injectFlit (ackFlit y f (ackStatus st))).pump k)))))) ∧
  (∀ (d : Dev) (k : Nat) (c : Coll), Powered d → queueOk k = true → Tab.get none d.fab.colls k = some c →
    d.get F.CHAIN_ADDR ≠ 0 →
    let ctrl := fun (op arg j : Nat) =>
      let g := c.group.getD j (0, 0)
      d.ownFlit g.1 g.2 3 6 (k / 32) 0 (ctrlWords op c.id arg)
    Gives (.readyRepeat k) d (fun e =>
      e.fab.inject = d.fab.inject ++ c.naks.map (ctrl ccREADY c.digest) ∧
      Tab.get none e.fab.colls k = some { c with naks := [] } ∧
      e = { d with fab := { d.fab with inject := e.fab.inject, colls := e.fab.colls } }) ∧
    (∀ cmd, d.cmdOf k = some cmd → bitsOf (wordAt cmd.words 12) 0 24 ≠ 0 → Gives (.collTimeout k) d fun e =>
      e.fab.inject = d.fab.inject ++ ((List.range c.nmemb).filter (· != c.self)).map (ctrl ccABORT 0) ∧
      Tab.get none e.fab.colls k = none ∧
      e.cmdOf k = some { cmd with fail := some (cmd.fail.getD (stFAULT, dCLTIMEOUT)), todo := [] } ∧
      (∀ j, j ≠ k → e.queue j = d.queue j) ∧
      e = { d with queues := e.queues, fab := { d.fab with inject := e.fab.inject, colls := e.fab.colls } }))

/-- CTRL0, ENCAP_FRAME and ENCAP_RTO (16 R568, R587, R588, R593, R607; 03 R76; 14 R510): a TICK on the fabric has the delay
of its port added before the cadence unit hears it; VOTE, JOIN, LEAVE, BID and HANDOVER reach the cadence unit, a stop the
line 15 of its core; a frame that R588 does not allow is dropped and counted; an acknowledgement frees the frames it covers;
a frame out of order is answered with a NAK, one in order is taken and acknowledged; a peer that does not answer gets its
frames again, and after eight times is lost. -/
def Obligations.FabricControlAndEncap : Prop :=
  (∀ (d : Dev) (n : Nat) (f : Flit) (stay : Nat), ForUs d n f → f.kind = 7 →
    let h := heardOn d n
    let typ := wordAt f.data 0
    let w := f.data.drop 1
    let t := TickMsg.ofWords w
    let link := d.get F.PORT_DELAY (fix n)
    (typ = tyTick → (h.onTick { t with delay := min (t.delay + link) (2 ^ 24 - 1) }).get F.RELAY = 0 →
      Gives (.ctrl0 n f stay) d (Answered n f [] (h.onTick { t with delay := min (t.delay + link) (2 ^ 24 - 1) }))) ∧
    (typ = tyVote → Gives (.ctrl0 n f stay) d (Answered n f [] (h.onVote (VoteMsg.ofWords w)))) ∧
    (typ = tyJoin → Gives (.ctrl0 n f stay) d (Answered n f [] (h.onPart true (VoteMsg.ofWords w)))) ∧
    (typ = tyLeave → Gives (.ctrl0 n f stay) d (Answered n f [] (h.onPart false (VoteMsg.ofWords w)))) ∧
    (typ = tyBid → (h.onBid (BidMsg.ofWords w)).get F.RELAY = 0 →
      Gives (.ctrl0 n f stay) d (Answered n f [] (h.onBid (BidMsg.ofWords w)))) ∧
    (typ = tyHandover → Gives (.ctrl0 n f stay) d (Answered n f [] (h.onHandover w))) ∧
    (typ = c0STOP → Tab.has d.cores (wordAt w 0) = true → Gives (.ctrl0 n f stay) d fun e =>
      bitAt (e.core (wordAt w 0)).lines 15 = true ∧ (∀ k, k ≠ wordAt w 0 → e.core k = d.core k) ∧
      (e.core (wordAt w 0)).pc = (d.core (wordAt w 0)).pc ∧ e.regs = d.regs ∧ e.mem = d.mem)) ∧
  (∀ (d : Dev) (n : Nat) (f : EFrame), Powered d → n < 12 → d.get F.PORT_STATE (fix n) = 3 → d.encapPort n = true →
    (d.frameOk f = false → Gives (.encapFrame n f) d fun e =>
      e.get F.ENCAP_DROP_COUNT = min (d.get F.ENCAP_DROP_COUNT + 1) (2 ^ 32 - 1) ∧
      OnlyFields [(F.ENCAP_DROP_COUNT, [])] d e ∧ OnlyRegs d e) ∧
    (d.frameOk f = true → ∀ ident entry p, d.framePeer f = some ident → d.peerEntry ident = some entry → f.cls < 4 →
      let key := ident * 4 + f.cls
      Tab.get none d.fab.peers key = some p → p.waiting = [] →
      let q := d.peerAck p f.ackPsn f.ece
      let left := p.unacked.filter fun u => !psnAfter f.ackPsn u.1
      let sends := fun (e : Dev) => e = { d with fab := { d.fab with peers := e.fab.peers, frames := e.fab.frames } }
      let again := if f.nak = true then
          q.unacked.map fun u => (q.port, d.eframe entry f.cls u.1 p.expect false q.ece u.2) else []
      let answer := fun (expect : Nat) (nak : Bool) =>
        (n, d.eframe entry f.cls q.next expect nak f.ce [])
      (q.unacked = left ∧ q.expect = p.expect ∧ q.waiting = [] ∧
        (f.ece = true → p.halved = none → q.window = max 4 (p.window / 2) ∧ q.halved = some d.now) ∧
        (f.ece = true → ∀ t, p.halved = some t → d.now < t + 25 * d.get F.ENCAP_RTO → q.halved = some t ∧
          q.window ≤ max p.window (min (d.get F.ENCAP_WINDOW) (p.window + 1)))) ∧
      (f.flits = [] → Gives (.encapFrame n f) d fun e =>
        Tab.get none e.fab.peers key = some q ∧ e.fab.frames = d.fab.frames ++ again ∧ sends e) ∧
      (f.flits ≠ [] → f.psn ≠ p.expect → Gives (.encapFrame n f) d fun e =>
        Tab.get none e.fab.peers key = some q ∧
        e.fab.frames = d.fab.frames ++ again ++ [answer p.expect (!psnAfter p.expect f.psn)] ∧ sends e) ∧
      (f.psn = p.expect → ∀ g, f.flits = [g] → g.crcOk = false → d.inputUse n f.cls + 1 ≤ ownCredits.getD (2 * f.cls) 0 →
        Gives (.encapFrame n f) d fun e =>
          Tab.get none e.fab.peers key = some { q with expect := (p.expect + 1) % 2 ^ 32 } ∧
          e.fab.frames = d.fab.frames ++ again ++ [answer ((p.expect + 1) % 2 ^ 32) false] ∧ sends e))) ∧
  (∀ (d : Dev) (ident cls entry : Nat) (p : Peer), Powered d → cls < 4 → Tab.get none d.fab.peers (ident * 4 + cls) = some p →
    d.peerEntry ident = some entry → p.unacked ≠ [] →
    (p.resends < 8 → Gives (.encapRto ident cls) d fun e =>
      e.fab.frames = d.fab.frames ++ p.unacked.map (fun u =>
        (p.port, d.eframe entry cls u.1 p.expect false p.ece u.2)) ∧
      Tab.get none e.fab.peers (ident * 4 + cls) = some { p with resends := p.resends + 1 } ∧
      e = { d with fab := { d.fab with peers := e.fab.peers, frames := e.fab.frames } }) ∧
    (8 ≤ p.resends → Gives (.encapRto ident cls) d fun e =>
      Tab.get none e.fab.peers (ident * 4 + cls) = some { p with unacked := [], waiting := [], resends := 0 } ∧
      MessagesEnd (fun m => m.dst == ident) dLINKLOST d e ∧ e.get F.ENCAP_PEER_LOST = 1 ∧
      OnlyFields [(F.ENCAP_PEER_LOST, [])] d e ∧ e.mem = d.mem ∧ e.cad = d.cad))

/-- A step takes the command at the front of the queue and runs its meaning with the rest of the queue; with no command
waiting, one always-on cycle passes: time and the residency counters go on, and each chain port that is not DOWN sends its first
frame; a unit that is Off or held in reset has no such cycle (the model's choice: assumption 1). -/
def Obligations.StepTakesFront : Prop :=
  (∀ (c : Instr) (q : List Instr) (d : Dev), step ⟨d, c :: q⟩ = exec c ⟨d, q⟩) ∧
  (∀ d : Dev, d.pwr.off = 0 → ∃ e, step ⟨d, []⟩ = .next ⟨e, []⟩ ∧ e.now = d.now + 1 ∧
    e.chain.txU = (if d.get F.U_STATE = 0 then d.chain.txU else d.chain.txU.tail) ∧
    e.chain.txD = (if d.get F.D_STATE = 0 then d.chain.txD else d.chain.txD.tail) ∧
    e = { d with now := e.now, pwr := { d.pwr with resCyc := e.pwr.resCyc }
                 chain := { d.chain with txU := e.chain.txU, txD := e.chain.txD } }) ∧
  (∀ d : Dev, d.pwr.off ≠ 0 → step ⟨d, []⟩ = .next ⟨d, []⟩)

/-- No step of the unit faults or is refused, and each takes exactly the command at the front of the queue; on a unit without
power or held in reset every command but those that start it changes nothing (18 R642, R670; 20 R715), so that a unit that is
Off stays as it is until one of them comes. -/
def Obligations.EveryStepCompletes : Prop :=
  (∀ s : State, ∃ t, step s = .next t ∧ t.pending = s.pending.tail) ∧
  (∀ (c : Instr) (q : List Instr) (d : Dev), d.pwr.off ≠ 0 → ¬StartsUnit c → step ⟨d, c :: q⟩ = .next ⟨d, q⟩)

/-- Every Ridge instruction with operands in their ranges, in both forms, is what its words decode to (13 R463 to R465,
Tables 13.6, 13.7); and the TICK, VOTE and BID payloads and the header of a chain frame carry every field they are given (03 Tables 3.3
and 3.4, R88; 04 R118, Table 4.1). -/
def Obligations.EncodingsRoundTrip : Prop :=
  (∀ (lane : Bool) (i : Ri), i.WellFormed lane →
    decodeRidge lane (fun j => (i.encode lane).getD j 0) = i ∧ (i.encode lane).length = i.len ∧
    ∀ w ∈ i.encode lane, w < 2 ^ wordBits lane) ∧
  (∀ m : TickMsg, PosFits m.pos → m.epoch < 2 ^ 16 → m.reason < 4 → m.endT < 2 ^ 20 → m.delay < 2 ^ 24 → m.lead < 2 ^ 32 →
    m.master < 2 ^ 15 → TickMsg.ofWords m.toWords = m ∧ m.toWords.length = 8) ∧
  (∀ m : VoteMsg, m.epoch < 2 ^ 16 → m.phase < 16 → m.level < 2 → m.step < 2 ^ 48 → m.source < 2 ^ 15 →
    VoteMsg.ofWords m.toWords = m ∧ m.toWords.length = 4) ∧
  (∀ m : BidMsg, PosFits m.pos → m.epoch < 2 ^ 16 → m.prio < 16 → m.ident < 2 ^ 15 →
    BidMsg.ofWords m.toWords = m ∧ m.toWords.length = 5) ∧
  (∀ f : Frame, f.dst < 2 ^ 7 → f.src < 2 ^ 7 → f.typ < 2 ^ 4 → f.cls < 2 → f.len < 2 ^ 6 → f.tag < 2 ^ 8 → f.hops < 2 ^ 8 →
    f.chain < 2 ^ 8 → f.sub < 2 ^ 8 → Frame.ofWords f.toWords f.crcOk = f ∧ f.toWords.length = f.data.length + 2)

/-- What every core keeps is kept by every instruction row of every core and by its interrupts, traps, timer and stops, from
any state, not only from those a run reaches; and no other core changes (13 R456 to R459, R470 to R479; 14 R500). The
warden's core is taken with room for a trap frame, since without it the unit stops safely. -/
def Obligations.CoresStayWell : Prop :=
  ∀ (d : Dev) (key m levels b : Nat), Powered d → CoreOk key (d.core key) → (isWarden key = true → HasFrame (d.core key)) →
    ∀ c, CoreRow key m levels b c → Gives c d fun e =>
      CoreOk key (e.core key) ∧ ∀ k, k ≠ key → e.core k = d.core k
end

