-- ==== Sys2Proof/Laws/Tab.lean ====
section
/-! SUPPORT. The laws of the sparse table: read after write, writes elsewhere, and the canonical form every write keeps. -/

namespace Sys2Proof.Machine

variable {α : Type}

/-! ### Reading after writing -/

@[simp] theorem Tab.get_nil (d : α) (k : Nat) : Tab.get d [] k = d := rfl

theorem Tab.get_insert (d : α) (t : Tab α) (k j : Nat) (v : α) :
    Tab.get d (Tab.insert t k v) j = if j = k then v else Tab.get d t j := by
  induction t with
  | nil => rfl
  | cons e t ih =>
    obtain ⟨k', w⟩ := e
    simp only [Tab.insert]
    split
    · simp only [Tab.get]
    · split
      · subst_vars
        simp only [Tab.get]
        split <;> rfl
      · simp only [Tab.get, ih]
        split
        · rw [if_neg (by omega)]
        · rfl

theorem Tab.get_erase (d : α) (t : Tab α) (k j : Nat) :
    Tab.get d (Tab.erase t k) j = if j = k then d else Tab.get d t j := by
  induction t with
  | nil => simp [Tab.erase]
  | cons e t ih =>
    obtain ⟨k', w⟩ := e
    simp only [Tab.erase]
    split
    · subst_vars
      rw [ih]
      simp only [Tab.get]
      split <;> rfl
    · simp only [Tab.get, ih]
      split
      · rw [if_neg (by omega)]
      · rfl

/-- Reading after a write: the value at its key, what was there at any other. -/
theorem Tab.get_set [DecidableEq α] (d : α) (t : Tab α) (k j : Nat) (v : α) :
    Tab.get d (Tab.set d t k v) j = if j = k then v else Tab.get d t j := by
  unfold Tab.set
  split
  · subst_vars
    exact Tab.get_erase _ _ _ _
  · exact Tab.get_insert _ _ _ _ _

/-- Reading the key that was written. -/
@[simp] theorem Tab.get_set_same [DecidableEq α] (d : α) (t : Tab α) (k : Nat) (v : α) :
    Tab.get d (Tab.set d t k v) k = v := by
  rw [Tab.get_set, if_pos rfl]

/-- Reading any other key, whatever the default it is read with. -/
theorem Tab.get_set_ne [DecidableEq α] (d d' : α) (t : Tab α) (k j : Nat) (v : α) (hj : j ≠ k) :
    Tab.get d' (Tab.set d t k v) j = Tab.get d' t j := by
  unfold Tab.set
  split
  · rw [Tab.get_erase, if_neg hj]
  · rw [Tab.get_insert, if_neg hj]

/-! ### The canonical form -/

theorem Tab.rising_mono (lo lo' : Nat) (t : Tab α) (hl : lo' ≤ lo) (h : Tab.rising lo t = true) :
    Tab.rising lo' t = true := by
  cases t with
  | nil => rfl
  | cons e t =>
    obtain ⟨k, v⟩ := e
    simp only [Tab.rising, Bool.and_eq_true, decide_eq_true_eq] at h ⊢
    exact ⟨by omega, h.2⟩

theorem Tab.rising_insert (lo : Nat) (t : Tab α) (k : Nat) (v : α) (hk : lo ≤ k) (h : Tab.rising lo t = true) :
    Tab.rising lo (Tab.insert t k v) = true := by
  induction t generalizing lo with
  | nil => simp [Tab.insert, Tab.rising, hk]
  | cons e t ih =>
    obtain ⟨k', w⟩ := e
    simp only [Tab.rising, Bool.and_eq_true, decide_eq_true_eq] at h
    simp only [Tab.insert]
    split
    · simp only [Tab.rising, Bool.and_eq_true, decide_eq_true_eq]
      exact ⟨hk, by omega, h.2⟩
    · split
      · subst_vars
        simp only [Tab.rising, Bool.and_eq_true, decide_eq_true_eq]
        exact ⟨hk, h.2⟩
      · simp only [Tab.rising, Bool.and_eq_true, decide_eq_true_eq]
        exact ⟨h.1, ih (k' + 1) (by omega) h.2⟩

theorem Tab.rising_erase (lo : Nat) (t : Tab α) (k : Nat) (h : Tab.rising lo t = true) :
    Tab.rising lo (Tab.erase t k) = true := by
  induction t generalizing lo with
  | nil => rfl
  | cons e t ih =>
    obtain ⟨k', w⟩ := e
    simp only [Tab.rising, Bool.and_eq_true, decide_eq_true_eq] at h
    simp only [Tab.erase]
    split
    · exact Tab.rising_mono (k' + 1) lo _ (by omega) (ih (k' + 1) h.2)
    · simp only [Tab.rising, Bool.and_eq_true, decide_eq_true_eq]
      exact ⟨h.1, ih (k' + 1) h.2⟩

theorem Tab.rising_set [DecidableEq α] (d : α) (t : Tab α) (k : Nat) (v : α) (h : Tab.rising 0 t = true) :
    Tab.rising 0 (Tab.set d t k v) = true := by
  unfold Tab.set
  split
  · exact Tab.rising_erase 0 t k h
  · exact Tab.rising_insert 0 t k v (by omega) h

theorem Tab.mem_insert (t : Tab α) (k : Nat) (v : α) (e : Nat × α) (h : e ∈ Tab.insert t k v) : e = (k, v) ∨ e ∈ t := by
  induction t with
  | nil => exact Or.inl (by simpa [Tab.insert] using h)
  | cons x t ih =>
    obtain ⟨k', w⟩ := x
    simp only [Tab.insert] at h
    split at h
    · simpa using h
    · split at h
      · simp only [List.mem_cons] at h ⊢
        tauto
      · simp only [List.mem_cons] at h ⊢
        rcases h with h | h
        · tauto
        · rcases ih h with h | h <;> tauto

theorem Tab.mem_erase (t : Tab α) (k : Nat) (e : Nat × α) (h : e ∈ Tab.erase t k) : e ∈ t := by
  induction t with
  | nil => simp [Tab.erase] at h
  | cons x t ih =>
    obtain ⟨k', w⟩ := x
    simp only [Tab.erase] at h
    split at h
    · exact List.mem_cons_of_mem _ (ih h)
    · simp only [List.mem_cons] at h ⊢
      rcases h with h | h
      · exact Or.inl h
      · exact Or.inr (ih h)

/-- Every write keeps the canonical form, the default being the one of the key written. -/
theorem Tab.wf_set [DecidableEq α] (d : Nat → α) (t : Tab α) (k : Nat) (v : α) (h : Tab.wf d t = true) :
    Tab.wf d (Tab.set (d k) t k v) = true := by
  simp only [Tab.wf, Tab.noDefault, Bool.and_eq_true, List.all_eq_true, decide_eq_true_eq] at h ⊢
  refine ⟨Tab.rising_set (d k) t k v h.1, fun e he => ?_⟩
  unfold Tab.set at he
  split at he
  · exact h.2 e (Tab.mem_erase t k e he)
  · rcases Tab.mem_insert t k v e he with he | he
    · subst he
      assumption
    · exact h.2 e he

theorem Tab.wf_nil [DecidableEq α] (d : Nat → α) : Tab.wf d ([] : Tab α) = true := rfl

theorem Tab.wf_upd [DecidableEq α] (d : Nat → α) (t : Tab α) (k : Nat) (f : α → α) (h : Tab.wf d t = true) :
    Tab.wf d (Tab.upd (d k) t k f) = true := Tab.wf_set d t k _ h

/-- A write of many values at rising keys keeps the canonical form of a table with one default. -/
theorem Tab.wf_setMany [DecidableEq α] (d : α) (l : List α) (t : Tab α) (a : Nat) (h : Tab.wf (fun _ => d) t = true) :
    Tab.wf (fun _ => d) (Tab.setMany d t a l) = true := by
  induction l generalizing t a with
  | nil => exact h
  | cons v l ih => exact ih _ _ (Tab.wf_set (fun _ => d) t a v h)

/-- A write of many values leaves every key outside its range alone. -/
theorem Tab.get_setMany_out [DecidableEq α] (d : α) (l : List α) (t : Tab α) (a j : Nat)
    (hj : j < a ∨ a + l.length ≤ j) : Tab.get d (Tab.setMany d t a l) j = Tab.get d t j := by
  induction l generalizing t a with
  | nil => rfl
  | cons v l ih =>
    simp only [List.length_cons] at hj
    rw [Tab.setMany, ih _ _ (by omega), Tab.get_set_ne d d t a j v (by omega)]

/-- A write of many values, read back. -/
theorem Tab.getMany_setMany [DecidableEq α] (d : α) (l : List α) (t : Tab α) (a : Nat) :
    Tab.getMany d (Tab.setMany d t a l) a l.length = l := by
  induction l generalizing t a with
  | nil => rfl
  | cons v l ih =>
    simp only [Tab.setMany, List.length_cons, Tab.getMany]
    rw [ih, Tab.get_setMany_out d l _ (a + 1) a (by omega), Tab.get_set_same]

end Sys2Proof.Machine
end

