-- ==== Sys2Proof/Laws/Regs.lean ====
section
/-! SUPPORT. The laws of bit fields and of the register file: a field reads back what was put, another field of the
same register and every other register keep their value. -/

namespace Sys2Proof.Machine

/-! ### Bit fields of numbers -/

theorem putBits_eq (v lo w x : Nat) :
    putBits v lo w x = 2 ^ lo * (2 ^ w * (v / 2 ^ lo / 2 ^ w) + x % 2 ^ w) + v % 2 ^ lo := by
  unfold putBits bitsOf
  have h1 := Nat.div_add_mod v (2 ^ lo)
  have h2 := Nat.div_add_mod (v / 2 ^ lo) (2 ^ w)
  generalize v / 2 ^ lo % 2 ^ w = b at *
  generalize v / 2 ^ lo / 2 ^ w = q at *
  generalize v % 2 ^ lo = r at *
  generalize x % 2 ^ w = y at *
  rw [← h2] at h1
  rw [← h1, Nat.mul_add, Nat.mul_add, Nat.mul_comm b, Nat.mul_comm y]
  omega

theorem bitsOf_lt (v lo w : Nat) : bitsOf v lo w < 2 ^ w := Nat.mod_lt _ (by positivity)

theorem bitsOf_putBits_same (v lo w x : Nat) : bitsOf (putBits v lo w x) lo w = x % 2 ^ w := by
  rw [putBits_eq, bitsOf, Nat.mul_add_div (by positivity), Nat.div_eq_of_lt (Nat.mod_lt _ (by positivity)), Nat.add_zero,
    Nat.mul_add_mod, Nat.mod_mod]

theorem bitsOf_putBits_above (v lo w x lo' w' : Nat) (h : lo + w ≤ lo') :
    bitsOf (putBits v lo w x) lo' w' = bitsOf v lo' w' := by
  obtain ⟨k, rfl⟩ := Nat.exists_eq_add_of_le h
  rw [putBits_eq, bitsOf, bitsOf, pow_add, pow_add, ← Nat.div_div_eq_div_mul, ← Nat.div_div_eq_div_mul,
    Nat.mul_add_div (by positivity), Nat.div_eq_of_lt (Nat.mod_lt _ (by positivity)), Nat.add_zero,
    Nat.mul_add_div (by positivity), Nat.div_eq_of_lt (Nat.mod_lt _ (by positivity)), Nat.add_zero,
    ← Nat.div_div_eq_div_mul, ← Nat.div_div_eq_div_mul]

theorem bitsOf_putBits_below (v lo w x lo' w' : Nat) (h : lo' + w' ≤ lo) :
    bitsOf (putBits v lo w x) lo' w' = bitsOf v lo' w' := by
  obtain ⟨k, rfl⟩ := Nat.exists_eq_add_of_le h
  rw [putBits_eq]
  conv_rhs => rw [← Nat.div_add_mod v (2 ^ (lo' + w' + k))]
  generalize 2 ^ w * _ + _ = a
  generalize v / 2 ^ (lo' + w' + k) = b
  generalize v % 2 ^ (lo' + w' + k) = r
  unfold bitsOf
  have e : ∀ c, 2 ^ (lo' + w' + k) * c + r = 2 ^ lo' * (2 ^ w' * (2 ^ k * c)) + r := by
    intro c
    rw [pow_add, pow_add]
    ring
  rw [e, e, Nat.mul_add_div (by positivity), Nat.mul_add_div (by positivity), Nat.mul_add_mod, Nat.mul_add_mod]

theorem bitsOf_mod (v n lo w : Nat) (h : lo + w ≤ n) : bitsOf (v % 2 ^ n) lo w = bitsOf v lo w := by
  obtain ⟨k, rfl⟩ := Nat.exists_eq_add_of_le h
  unfold bitsOf
  rw [pow_add, pow_add, Nat.mul_assoc, Nat.mod_mul_right_div_self, Nat.mod_mul_right_mod]

/-! ### The register file -/

theorem Dev.reg_setReg (s : Dev) (off o : Nat) (w : Word) : (s.setReg off w).reg o = if o = off then w else s.reg o := by
  unfold Dev.reg Dev.setReg
  dsimp only
  split
  · subst_vars
    exact Tab.get_set_same _ _ _ _
  · exact Tab.get_set_ne _ _ _ _ _ _ (by assumption)

/-- A put leaves every other register alone. -/
theorem Dev.reg_put_ne (s : Dev) (f : Fld) (ix : List Nat) (v o : Nat) (ho : o ≠ f.off ix) :
    (s.put f ix v).reg o = s.reg o := by
  unfold Dev.put
  rw [Dev.reg_setReg, if_neg ho]

/-! ### The register file as a table

Any expression over the unit comes to a chain of `putR` over the registers it began with; these lemmas read fields from
such a chain. -/

/-- The field of a register table. -/
def getR (t : Tab Word) (f : Fld) (ix : List Nat) : Nat := bitsOf (Tab.get (regDefault (f.off ix)) t (f.off ix)).toNat f.lo f.w

/-- The register table with a field put. -/
def putR (t : Tab Word) (f : Fld) (ix : List Nat) (v : Nat) : Tab Word :=
  Tab.set (regDefault (f.off ix)) t (f.off ix)
    (BitVec.ofNat 32 (putBits (Tab.get (regDefault (f.off ix)) t (f.off ix)).toNat f.lo f.w v))

theorem Dev.get_eq (s : Dev) (f : Fld) (ix : List Nat) : s.get f ix = getR s.regs f ix := rfl

@[simp] theorem Dev.put_regs (s : Dev) (f : Fld) (ix : List Nat) (v : Nat) : (s.put f ix v).regs = putR s.regs f ix v := rfl

@[simp] theorem Dev.put0_regs (s : Dev) (f : Fld) (v : Nat) : (s.put0 f v).regs = putR s.regs f [] v := rfl

theorem getR_putR_same (t : Tab Word) (f : Fld) (ix : List Nat) (v : Nat) (hw : f.lo + f.w ≤ 32) :
    getR (putR t f ix v) f ix = v % 2 ^ f.w := by
  unfold getR putR
  rw [Tab.get_set_same, BitVec.toNat_ofNat, bitsOf_mod _ _ _ _ hw, bitsOf_putBits_same]

theorem getR_putR_ne (t : Tab Word) (f g : Fld) (ix jx : List Nat) (v : Nat)
    (ho : g.off jx ≠ f.off ix) : getR (putR t f ix v) g jx = getR t g jx := by
  unfold getR putR
  rw [Tab.get_set_ne _ _ _ _ _ _ ho]

theorem getR_putR_disjoint (t : Tab Word) (f g : Fld) (ix jx : List Nat) (v : Nat)
    (ho : g.off jx = f.off ix) (hd : g.lo + g.w ≤ f.lo ∨ f.lo + f.w ≤ g.lo) (hg : g.lo + g.w ≤ 32) :
    getR (putR t f ix v) g jx = getR t g jx := by
  unfold getR putR
  rw [ho, Tab.get_set_same, BitVec.toNat_ofNat, bitsOf_mod _ _ _ _ hg]
  rcases hd with hd | hd
  · exact bitsOf_putBits_below _ _ _ _ _ _ hd
  · exact bitsOf_putBits_above _ _ _ _ _ _ hd

theorem reg_putR_ne (t : Tab Word) (f : Fld) (ix : List Nat) (v o : Nat) (ho : o ≠ f.off ix) :
    Tab.get (regDefault o) (putR t f ix v) o = Tab.get (regDefault o) t o := Tab.get_set_ne _ _ _ _ _ _ ho

/-- A field reads back what was put, cut to its width. -/
theorem Dev.get_put_same (s : Dev) (f : Fld) (ix : List Nat) (v : Nat) (hw : f.lo + f.w ≤ 32) :
    (s.put f ix v).get f ix = v % 2 ^ f.w := getR_putR_same _ _ _ _ hw

theorem Dev.get_put_ne (s : Dev) (f g : Fld) (ix jx : List Nat) (v : Nat) (ho : g.off jx ≠ f.off ix) :
    (s.put f ix v).get g jx = s.get g jx := getR_putR_ne _ _ _ _ _ _ ho

theorem Dev.get_put_disjoint (s : Dev) (f g : Fld) (ix jx : List Nat) (v : Nat) (ho : g.off jx = f.off ix)
    (hd : g.lo + g.w ≤ f.lo ∨ f.lo + f.w ≤ g.lo) (hg : g.lo + g.w ≤ 32) :
    (s.put f ix v).get g jx = s.get g jx := getR_putR_disjoint _ _ _ _ _ _ ho hd hg

/-- A field read is within its width. -/
theorem Dev.get_lt (s : Dev) (f : Fld) (ix : List Nat) : s.get f ix < 2 ^ f.w := bitsOf_lt _ _ _

/-- A put touches the register file only. -/
theorem Dev.put_only_regs (s : Dev) (f : Fld) (ix : List Nat) (v : Nat) :
    s.put f ix v = { s with regs := (s.put f ix v).regs } := rfl

end Sys2Proof.Machine
end

