-- ==== Sys2Proof/Laws/State.lean ====
section
/-! SUPPORT. One lemma per field of the unit and update of its registers, true by definition. -/

namespace Sys2Proof.Machine

@[simp] theorem Dev.setReg_now (s : Dev) (o : Nat) (w : Word) : (s.setReg o w).now = s.now := rfl
@[simp] theorem Dev.put_now (s : Dev) (f : Fld) (ix : List Nat) (v : Nat) : (s.put f ix v).now = s.now := rfl
@[simp] theorem Dev.put0_now (s : Dev) (f : Fld) (v : Nat) : (s.put0 f v).now = s.now := rfl
@[simp] theorem Dev.count_now (s : Dev) (f : Fld) (ix : List Nat) : (s.count f ix).now = s.now := rfl
@[simp] theorem Dev.put64_now (s : Dev) (lo hi : Fld) (ix : List Nat) (v : Nat) : (s.put64 lo hi ix v).now = s.now := rfl
@[simp] theorem Dev.setReg_free (s : Dev) (o : Nat) (w : Word) : (s.setReg o w).free = s.free := rfl
@[simp] theorem Dev.put_free (s : Dev) (f : Fld) (ix : List Nat) (v : Nat) : (s.put f ix v).free = s.free := rfl
@[simp] theorem Dev.put0_free (s : Dev) (f : Fld) (v : Nat) : (s.put0 f v).free = s.free := rfl
@[simp] theorem Dev.count_free (s : Dev) (f : Fld) (ix : List Nat) : (s.count f ix).free = s.free := rfl
@[simp] theorem Dev.put64_free (s : Dev) (lo hi : Fld) (ix : List Nat) (v : Nat) : (s.put64 lo hi ix v).free = s.free := rfl
@[simp] theorem Dev.setReg_shadow (s : Dev) (o : Nat) (w : Word) : (s.setReg o w).shadow = s.shadow := rfl
@[simp] theorem Dev.put_shadow (s : Dev) (f : Fld) (ix : List Nat) (v : Nat) : (s.put f ix v).shadow = s.shadow := rfl
@[simp] theorem Dev.put0_shadow (s : Dev) (f : Fld) (v : Nat) : (s.put0 f v).shadow = s.shadow := rfl
@[simp] theorem Dev.count_shadow (s : Dev) (f : Fld) (ix : List Nat) : (s.count f ix).shadow = s.shadow := rfl
@[simp] theorem Dev.put64_shadow (s : Dev) (lo hi : Fld) (ix : List Nat) (v : Nat) : (s.put64 lo hi ix v).shadow = s.shadow := rfl
@[simp] theorem Dev.setReg_caps (s : Dev) (o : Nat) (w : Word) : (s.setReg o w).caps = s.caps := rfl
@[simp] theorem Dev.put_caps (s : Dev) (f : Fld) (ix : List Nat) (v : Nat) : (s.put f ix v).caps = s.caps := rfl
@[simp] theorem Dev.put0_caps (s : Dev) (f : Fld) (v : Nat) : (s.put0 f v).caps = s.caps := rfl
@[simp] theorem Dev.count_caps (s : Dev) (f : Fld) (ix : List Nat) : (s.count f ix).caps = s.caps := rfl
@[simp] theorem Dev.put64_caps (s : Dev) (lo hi : Fld) (ix : List Nat) (v : Nat) : (s.put64 lo hi ix v).caps = s.caps := rfl
@[simp] theorem Dev.setReg_held (s : Dev) (o : Nat) (w : Word) : (s.setReg o w).held = s.held := rfl
@[simp] theorem Dev.put_held (s : Dev) (f : Fld) (ix : List Nat) (v : Nat) : (s.put f ix v).held = s.held := rfl
@[simp] theorem Dev.put0_held (s : Dev) (f : Fld) (v : Nat) : (s.put0 f v).held = s.held := rfl
@[simp] theorem Dev.count_held (s : Dev) (f : Fld) (ix : List Nat) : (s.count f ix).held = s.held := rfl
@[simp] theorem Dev.put64_held (s : Dev) (lo hi : Fld) (ix : List Nat) (v : Nat) : (s.put64 lo hi ix v).held = s.held := rfl
@[simp] theorem Dev.setReg_cad (s : Dev) (o : Nat) (w : Word) : (s.setReg o w).cad = s.cad := rfl
@[simp] theorem Dev.put_cad (s : Dev) (f : Fld) (ix : List Nat) (v : Nat) : (s.put f ix v).cad = s.cad := rfl
@[simp] theorem Dev.put0_cad (s : Dev) (f : Fld) (v : Nat) : (s.put0 f v).cad = s.cad := rfl
@[simp] theorem Dev.count_cad (s : Dev) (f : Fld) (ix : List Nat) : (s.count f ix).cad = s.cad := rfl
@[simp] theorem Dev.put64_cad (s : Dev) (lo hi : Fld) (ix : List Nat) (v : Nat) : (s.put64 lo hi ix v).cad = s.cad := rfl
@[simp] theorem Dev.setReg_alarms (s : Dev) (o : Nat) (w : Word) : (s.setReg o w).alarms = s.alarms := rfl
@[simp] theorem Dev.put_alarms (s : Dev) (f : Fld) (ix : List Nat) (v : Nat) : (s.put f ix v).alarms = s.alarms := rfl
@[simp] theorem Dev.put0_alarms (s : Dev) (f : Fld) (v : Nat) : (s.put0 f v).alarms = s.alarms := rfl
@[simp] theorem Dev.count_alarms (s : Dev) (f : Fld) (ix : List Nat) : (s.count f ix).alarms = s.alarms := rfl
@[simp] theorem Dev.put64_alarms (s : Dev) (lo hi : Fld) (ix : List Nat) (v : Nat) : (s.put64 lo hi ix v).alarms = s.alarms := rfl
@[simp] theorem Dev.setReg_dispatch (s : Dev) (o : Nat) (w : Word) : (s.setReg o w).dispatch = s.dispatch := rfl
@[simp] theorem Dev.put_dispatch (s : Dev) (f : Fld) (ix : List Nat) (v : Nat) : (s.put f ix v).dispatch = s.dispatch := rfl
@[simp] theorem Dev.put0_dispatch (s : Dev) (f : Fld) (v : Nat) : (s.put0 f v).dispatch = s.dispatch := rfl
@[simp] theorem Dev.count_dispatch (s : Dev) (f : Fld) (ix : List Nat) : (s.count f ix).dispatch = s.dispatch := rfl
@[simp] theorem Dev.put64_dispatch (s : Dev) (lo hi : Fld) (ix : List Nat) (v : Nat) : (s.put64 lo hi ix v).dispatch = s.dispatch := rfl
@[simp] theorem Dev.setReg_chain (s : Dev) (o : Nat) (w : Word) : (s.setReg o w).chain = s.chain := rfl
@[simp] theorem Dev.put_chain (s : Dev) (f : Fld) (ix : List Nat) (v : Nat) : (s.put f ix v).chain = s.chain := rfl
@[simp] theorem Dev.put0_chain (s : Dev) (f : Fld) (v : Nat) : (s.put0 f v).chain = s.chain := rfl
@[simp] theorem Dev.count_chain (s : Dev) (f : Fld) (ix : List Nat) : (s.count f ix).chain = s.chain := rfl
@[simp] theorem Dev.put64_chain (s : Dev) (lo hi : Fld) (ix : List Nat) (v : Nat) : (s.put64 lo hi ix v).chain = s.chain := rfl
@[simp] theorem Dev.setReg_fab (s : Dev) (o : Nat) (w : Word) : (s.setReg o w).fab = s.fab := rfl
@[simp] theorem Dev.put_fab (s : Dev) (f : Fld) (ix : List Nat) (v : Nat) : (s.put f ix v).fab = s.fab := rfl
@[simp] theorem Dev.put0_fab (s : Dev) (f : Fld) (v : Nat) : (s.put0 f v).fab = s.fab := rfl
@[simp] theorem Dev.count_fab (s : Dev) (f : Fld) (ix : List Nat) : (s.count f ix).fab = s.fab := rfl
@[simp] theorem Dev.put64_fab (s : Dev) (lo hi : Fld) (ix : List Nat) (v : Nat) : (s.put64 lo hi ix v).fab = s.fab := rfl
@[simp] theorem Dev.setReg_host (s : Dev) (o : Nat) (w : Word) : (s.setReg o w).host = s.host := rfl
@[simp] theorem Dev.put_host (s : Dev) (f : Fld) (ix : List Nat) (v : Nat) : (s.put f ix v).host = s.host := rfl
@[simp] theorem Dev.put0_host (s : Dev) (f : Fld) (v : Nat) : (s.put0 f v).host = s.host := rfl
@[simp] theorem Dev.count_host (s : Dev) (f : Fld) (ix : List Nat) : (s.count f ix).host = s.host := rfl
@[simp] theorem Dev.put64_host (s : Dev) (lo hi : Fld) (ix : List Nat) (v : Nat) : (s.put64 lo hi ix v).host = s.host := rfl
@[simp] theorem Dev.setReg_hostMem (s : Dev) (o : Nat) (w : Word) : (s.setReg o w).hostMem = s.hostMem := rfl
@[simp] theorem Dev.put_hostMem (s : Dev) (f : Fld) (ix : List Nat) (v : Nat) : (s.put f ix v).hostMem = s.hostMem := rfl
@[simp] theorem Dev.put0_hostMem (s : Dev) (f : Fld) (v : Nat) : (s.put0 f v).hostMem = s.hostMem := rfl
@[simp] theorem Dev.count_hostMem (s : Dev) (f : Fld) (ix : List Nat) : (s.count f ix).hostMem = s.hostMem := rfl
@[simp] theorem Dev.put64_hostMem (s : Dev) (lo hi : Fld) (ix : List Nat) (v : Nat) : (s.put64 lo hi ix v).hostMem = s.hostMem := rfl
@[simp] theorem Dev.setReg_hostPoison (s : Dev) (o : Nat) (w : Word) : (s.setReg o w).hostPoison = s.hostPoison := rfl
@[simp] theorem Dev.put_hostPoison (s : Dev) (f : Fld) (ix : List Nat) (v : Nat) : (s.put f ix v).hostPoison = s.hostPoison := rfl
@[simp] theorem Dev.put0_hostPoison (s : Dev) (f : Fld) (v : Nat) : (s.put0 f v).hostPoison = s.hostPoison := rfl
@[simp] theorem Dev.count_hostPoison (s : Dev) (f : Fld) (ix : List Nat) : (s.count f ix).hostPoison = s.hostPoison := rfl
@[simp] theorem Dev.put64_hostPoison (s : Dev) (lo hi : Fld) (ix : List Nat) (v : Nat) : (s.put64 lo hi ix v).hostPoison = s.hostPoison := rfl
@[simp] theorem Dev.setReg_queues (s : Dev) (o : Nat) (w : Word) : (s.setReg o w).queues = s.queues := rfl
@[simp] theorem Dev.put_queues (s : Dev) (f : Fld) (ix : List Nat) (v : Nat) : (s.put f ix v).queues = s.queues := rfl
@[simp] theorem Dev.put0_queues (s : Dev) (f : Fld) (v : Nat) : (s.put0 f v).queues = s.queues := rfl
@[simp] theorem Dev.count_queues (s : Dev) (f : Fld) (ix : List Nat) : (s.count f ix).queues = s.queues := rfl
@[simp] theorem Dev.put64_queues (s : Dev) (lo hi : Fld) (ix : List Nat) (v : Nat) : (s.put64 lo hi ix v).queues = s.queues := rfl
@[simp] theorem Dev.setReg_engines (s : Dev) (o : Nat) (w : Word) : (s.setReg o w).engines = s.engines := rfl
@[simp] theorem Dev.put_engines (s : Dev) (f : Fld) (ix : List Nat) (v : Nat) : (s.put f ix v).engines = s.engines := rfl
@[simp] theorem Dev.put0_engines (s : Dev) (f : Fld) (v : Nat) : (s.put0 f v).engines = s.engines := rfl
@[simp] theorem Dev.count_engines (s : Dev) (f : Fld) (ix : List Nat) : (s.count f ix).engines = s.engines := rfl
@[simp] theorem Dev.put64_engines (s : Dev) (lo hi : Fld) (ix : List Nat) (v : Nat) : (s.put64 lo hi ix v).engines = s.engines := rfl
@[simp] theorem Dev.setReg_parts (s : Dev) (o : Nat) (w : Word) : (s.setReg o w).parts = s.parts := rfl
@[simp] theorem Dev.put_parts (s : Dev) (f : Fld) (ix : List Nat) (v : Nat) : (s.put f ix v).parts = s.parts := rfl
@[simp] theorem Dev.put0_parts (s : Dev) (f : Fld) (v : Nat) : (s.put0 f v).parts = s.parts := rfl
@[simp] theorem Dev.count_parts (s : Dev) (f : Fld) (ix : List Nat) : (s.count f ix).parts = s.parts := rfl
@[simp] theorem Dev.put64_parts (s : Dev) (lo hi : Fld) (ix : List Nat) (v : Nat) : (s.put64 lo hi ix v).parts = s.parts := rfl
@[simp] theorem Dev.setReg_mem (s : Dev) (o : Nat) (w : Word) : (s.setReg o w).mem = s.mem := rfl
@[simp] theorem Dev.put_mem (s : Dev) (f : Fld) (ix : List Nat) (v : Nat) : (s.put f ix v).mem = s.mem := rfl
@[simp] theorem Dev.put0_mem (s : Dev) (f : Fld) (v : Nat) : (s.put0 f v).mem = s.mem := rfl
@[simp] theorem Dev.count_mem (s : Dev) (f : Fld) (ix : List Nat) : (s.count f ix).mem = s.mem := rfl
@[simp] theorem Dev.put64_mem (s : Dev) (lo hi : Fld) (ix : List Nat) (v : Nat) : (s.put64 lo hi ix v).mem = s.mem := rfl
@[simp] theorem Dev.setReg_ecc (s : Dev) (o : Nat) (w : Word) : (s.setReg o w).ecc = s.ecc := rfl
@[simp] theorem Dev.put_ecc (s : Dev) (f : Fld) (ix : List Nat) (v : Nat) : (s.put f ix v).ecc = s.ecc := rfl
@[simp] theorem Dev.put0_ecc (s : Dev) (f : Fld) (v : Nat) : (s.put0 f v).ecc = s.ecc := rfl
@[simp] theorem Dev.count_ecc (s : Dev) (f : Fld) (ix : List Nat) : (s.count f ix).ecc = s.ecc := rfl
@[simp] theorem Dev.put64_ecc (s : Dev) (lo hi : Fld) (ix : List Nat) (v : Nat) : (s.put64 lo hi ix v).ecc = s.ecc := rfl
@[simp] theorem Dev.setReg_ext (s : Dev) (o : Nat) (w : Word) : (s.setReg o w).ext = s.ext := rfl
@[simp] theorem Dev.put_ext (s : Dev) (f : Fld) (ix : List Nat) (v : Nat) : (s.put f ix v).ext = s.ext := rfl
@[simp] theorem Dev.put0_ext (s : Dev) (f : Fld) (v : Nat) : (s.put0 f v).ext = s.ext := rfl
@[simp] theorem Dev.count_ext (s : Dev) (f : Fld) (ix : List Nat) : (s.count f ix).ext = s.ext := rfl
@[simp] theorem Dev.put64_ext (s : Dev) (lo hi : Fld) (ix : List Nat) (v : Nat) : (s.put64 lo hi ix v).ext = s.ext := rfl
@[simp] theorem Dev.setReg_scree (s : Dev) (o : Nat) (w : Word) : (s.setReg o w).scree = s.scree := rfl
@[simp] theorem Dev.put_scree (s : Dev) (f : Fld) (ix : List Nat) (v : Nat) : (s.put f ix v).scree = s.scree := rfl
@[simp] theorem Dev.put0_scree (s : Dev) (f : Fld) (v : Nat) : (s.put0 f v).scree = s.scree := rfl
@[simp] theorem Dev.count_scree (s : Dev) (f : Fld) (ix : List Nat) : (s.count f ix).scree = s.scree := rfl
@[simp] theorem Dev.put64_scree (s : Dev) (lo hi : Fld) (ix : List Nat) (v : Nat) : (s.put64 lo hi ix v).scree = s.scree := rfl
@[simp] theorem Dev.setReg_cores (s : Dev) (o : Nat) (w : Word) : (s.setReg o w).cores = s.cores := rfl
@[simp] theorem Dev.put_cores (s : Dev) (f : Fld) (ix : List Nat) (v : Nat) : (s.put f ix v).cores = s.cores := rfl
@[simp] theorem Dev.put0_cores (s : Dev) (f : Fld) (v : Nat) : (s.put0 f v).cores = s.cores := rfl
@[simp] theorem Dev.count_cores (s : Dev) (f : Fld) (ix : List Nat) : (s.count f ix).cores = s.cores := rfl
@[simp] theorem Dev.put64_cores (s : Dev) (lo hi : Fld) (ix : List Nat) (v : Nat) : (s.put64 lo hi ix v).cores = s.cores := rfl
@[simp] theorem Dev.setReg_reports (s : Dev) (o : Nat) (w : Word) : (s.setReg o w).reports = s.reports := rfl
@[simp] theorem Dev.put_reports (s : Dev) (f : Fld) (ix : List Nat) (v : Nat) : (s.put f ix v).reports = s.reports := rfl
@[simp] theorem Dev.put0_reports (s : Dev) (f : Fld) (v : Nat) : (s.put0 f v).reports = s.reports := rfl
@[simp] theorem Dev.count_reports (s : Dev) (f : Fld) (ix : List Nat) : (s.count f ix).reports = s.reports := rfl
@[simp] theorem Dev.put64_reports (s : Dev) (lo hi : Fld) (ix : List Nat) (v : Nat) : (s.put64 lo hi ix v).reports = s.reports := rfl
@[simp] theorem Dev.setReg_wakes (s : Dev) (o : Nat) (w : Word) : (s.setReg o w).wakes = s.wakes := rfl
@[simp] theorem Dev.put_wakes (s : Dev) (f : Fld) (ix : List Nat) (v : Nat) : (s.put f ix v).wakes = s.wakes := rfl
@[simp] theorem Dev.put0_wakes (s : Dev) (f : Fld) (v : Nat) : (s.put0 f v).wakes = s.wakes := rfl
@[simp] theorem Dev.count_wakes (s : Dev) (f : Fld) (ix : List Nat) : (s.count f ix).wakes = s.wakes := rfl
@[simp] theorem Dev.put64_wakes (s : Dev) (lo hi : Fld) (ix : List Nat) (v : Nat) : (s.put64 lo hi ix v).wakes = s.wakes := rfl
@[simp] theorem Dev.setReg_flagAcc (s : Dev) (o : Nat) (w : Word) : (s.setReg o w).flagAcc = s.flagAcc := rfl
@[simp] theorem Dev.put_flagAcc (s : Dev) (f : Fld) (ix : List Nat) (v : Nat) : (s.put f ix v).flagAcc = s.flagAcc := rfl
@[simp] theorem Dev.put0_flagAcc (s : Dev) (f : Fld) (v : Nat) : (s.put0 f v).flagAcc = s.flagAcc := rfl
@[simp] theorem Dev.count_flagAcc (s : Dev) (f : Fld) (ix : List Nat) : (s.count f ix).flagAcc = s.flagAcc := rfl
@[simp] theorem Dev.put64_flagAcc (s : Dev) (lo hi : Fld) (ix : List Nat) (v : Nat) : (s.put64 lo hi ix v).flagAcc = s.flagAcc := rfl
@[simp] theorem Dev.setReg_holdAcc (s : Dev) (o : Nat) (w : Word) : (s.setReg o w).holdAcc = s.holdAcc := rfl
@[simp] theorem Dev.put_holdAcc (s : Dev) (f : Fld) (ix : List Nat) (v : Nat) : (s.put f ix v).holdAcc = s.holdAcc := rfl
@[simp] theorem Dev.put0_holdAcc (s : Dev) (f : Fld) (v : Nat) : (s.put0 f v).holdAcc = s.holdAcc := rfl
@[simp] theorem Dev.count_holdAcc (s : Dev) (f : Fld) (ix : List Nat) : (s.count f ix).holdAcc = s.holdAcc := rfl
@[simp] theorem Dev.put64_holdAcc (s : Dev) (lo hi : Fld) (ix : List Nat) (v : Nat) : (s.put64 lo hi ix v).holdAcc = s.holdAcc := rfl
@[simp] theorem Dev.setReg_pauses (s : Dev) (o : Nat) (w : Word) : (s.setReg o w).pauses = s.pauses := rfl
@[simp] theorem Dev.put_pauses (s : Dev) (f : Fld) (ix : List Nat) (v : Nat) : (s.put f ix v).pauses = s.pauses := rfl
@[simp] theorem Dev.put0_pauses (s : Dev) (f : Fld) (v : Nat) : (s.put0 f v).pauses = s.pauses := rfl
@[simp] theorem Dev.count_pauses (s : Dev) (f : Fld) (ix : List Nat) : (s.count f ix).pauses = s.pauses := rfl
@[simp] theorem Dev.put64_pauses (s : Dev) (lo hi : Fld) (ix : List Nat) (v : Nat) : (s.put64 lo hi ix v).pauses = s.pauses := rfl
@[simp] theorem Dev.setReg_pairs (s : Dev) (o : Nat) (w : Word) : (s.setReg o w).pairs = s.pairs := rfl
@[simp] theorem Dev.put_pairs (s : Dev) (f : Fld) (ix : List Nat) (v : Nat) : (s.put f ix v).pairs = s.pairs := rfl
@[simp] theorem Dev.put0_pairs (s : Dev) (f : Fld) (v : Nat) : (s.put0 f v).pairs = s.pairs := rfl
@[simp] theorem Dev.count_pairs (s : Dev) (f : Fld) (ix : List Nat) : (s.count f ix).pairs = s.pairs := rfl
@[simp] theorem Dev.put64_pairs (s : Dev) (lo hi : Fld) (ix : List Nat) (v : Nat) : (s.put64 lo hi ix v).pairs = s.pairs := rfl
@[simp] theorem Dev.setReg_waiting (s : Dev) (o : Nat) (w : Word) : (s.setReg o w).waiting = s.waiting := rfl
@[simp] theorem Dev.put_waiting (s : Dev) (f : Fld) (ix : List Nat) (v : Nat) : (s.put f ix v).waiting = s.waiting := rfl
@[simp] theorem Dev.put0_waiting (s : Dev) (f : Fld) (v : Nat) : (s.put0 f v).waiting = s.waiting := rfl
@[simp] theorem Dev.count_waiting (s : Dev) (f : Fld) (ix : List Nat) : (s.count f ix).waiting = s.waiting := rfl
@[simp] theorem Dev.put64_waiting (s : Dev) (lo hi : Fld) (ix : List Nat) (v : Nat) : (s.put64 lo hi ix v).waiting = s.waiting := rfl
@[simp] theorem Dev.setReg_lastRead (s : Dev) (o : Nat) (w : Word) : (s.setReg o w).lastRead = s.lastRead := rfl
@[simp] theorem Dev.put_lastRead (s : Dev) (f : Fld) (ix : List Nat) (v : Nat) : (s.put f ix v).lastRead = s.lastRead := rfl
@[simp] theorem Dev.put0_lastRead (s : Dev) (f : Fld) (v : Nat) : (s.put0 f v).lastRead = s.lastRead := rfl
@[simp] theorem Dev.count_lastRead (s : Dev) (f : Fld) (ix : List Nat) : (s.count f ix).lastRead = s.lastRead := rfl
@[simp] theorem Dev.put64_lastRead (s : Dev) (lo hi : Fld) (ix : List Nat) (v : Nat) : (s.put64 lo hi ix v).lastRead = s.lastRead := rfl
@[simp] theorem Dev.setReg_warden (s : Dev) (o : Nat) (w : Word) : (s.setReg o w).warden = s.warden := rfl
@[simp] theorem Dev.put_warden (s : Dev) (f : Fld) (ix : List Nat) (v : Nat) : (s.put f ix v).warden = s.warden := rfl
@[simp] theorem Dev.put0_warden (s : Dev) (f : Fld) (v : Nat) : (s.put0 f v).warden = s.warden := rfl
@[simp] theorem Dev.count_warden (s : Dev) (f : Fld) (ix : List Nat) : (s.count f ix).warden = s.warden := rfl
@[simp] theorem Dev.put64_warden (s : Dev) (lo hi : Fld) (ix : List Nat) (v : Nat) : (s.put64 lo hi ix v).warden = s.warden := rfl
@[simp] theorem Dev.setReg_pwr (s : Dev) (o : Nat) (w : Word) : (s.setReg o w).pwr = s.pwr := rfl
@[simp] theorem Dev.put_pwr (s : Dev) (f : Fld) (ix : List Nat) (v : Nat) : (s.put f ix v).pwr = s.pwr := rfl
@[simp] theorem Dev.put0_pwr (s : Dev) (f : Fld) (v : Nat) : (s.put0 f v).pwr = s.pwr := rfl
@[simp] theorem Dev.count_pwr (s : Dev) (f : Fld) (ix : List Nat) : (s.count f ix).pwr = s.pwr := rfl
@[simp] theorem Dev.put64_pwr (s : Dev) (lo hi : Fld) (ix : List Nat) (v : Nat) : (s.put64 lo hi ix v).pwr = s.pwr := rfl
@[simp] theorem Dev.setReg_panel (s : Dev) (o : Nat) (w : Word) : (s.setReg o w).panel = s.panel := rfl
@[simp] theorem Dev.put_panel (s : Dev) (f : Fld) (ix : List Nat) (v : Nat) : (s.put f ix v).panel = s.panel := rfl
@[simp] theorem Dev.put0_panel (s : Dev) (f : Fld) (v : Nat) : (s.put0 f v).panel = s.panel := rfl
@[simp] theorem Dev.count_panel (s : Dev) (f : Fld) (ix : List Nat) : (s.count f ix).panel = s.panel := rfl
@[simp] theorem Dev.put64_panel (s : Dev) (lo hi : Fld) (ix : List Nat) (v : Nat) : (s.put64 lo hi ix v).panel = s.panel := rfl
@[simp] theorem Dev.setReg_boot (s : Dev) (o : Nat) (w : Word) : (s.setReg o w).boot = s.boot := rfl
@[simp] theorem Dev.put_boot (s : Dev) (f : Fld) (ix : List Nat) (v : Nat) : (s.put f ix v).boot = s.boot := rfl
@[simp] theorem Dev.put0_boot (s : Dev) (f : Fld) (v : Nat) : (s.put0 f v).boot = s.boot := rfl
@[simp] theorem Dev.count_boot (s : Dev) (f : Fld) (ix : List Nat) : (s.count f ix).boot = s.boot := rfl
@[simp] theorem Dev.put64_boot (s : Dev) (lo hi : Fld) (ix : List Nat) (v : Nat) : (s.put64 lo hi ix v).boot = s.boot := rfl

end Sys2Proof.Machine
end

