-- ==== Sys2Proof/Laws/Ops.lean ====
section
/-! SUPPORT. What each shared operation can do at most: interrupts touch the host interface only, sent frames the transmit
queues only, injected flits the inject list only. -/

namespace Sys2Proof.Machine

/-! ### Interrupts -/

theorem Dev.raisePf_eq (s : Dev) (v : Nat) :
    ∃ m p, s.raisePf v = { s with host := { s.host with sent := m, pfPba := p } } := by
  unfold Dev.raisePf
  dsimp only
  split
  · exact ⟨s.host.sent, s.host.pfPba, rfl⟩
  · split
    · exact ⟨_, _, rfl⟩
    · exact ⟨s.host.sent, _, rfl⟩

theorem Dev.raiseVf_eq (s : Dev) (k v : Nat) :
    ∃ m p, s.raiseVf k v = { s with host := { s.host with sent := m, vfPba := p } } := by
  unfold Dev.raiseVf
  dsimp only
  split
  · exact ⟨s.host.sent, s.host.vfPba, rfl⟩
  · split
    · exact ⟨_, _, rfl⟩
    · exact ⟨s.host.sent, _, rfl⟩

theorem Dev.raiseOwner_eq (s : Dev) (p v : Nat) :
    ∃ m a b, s.raiseOwner p v = { s with host := { s.host with sent := m, pfPba := a, vfPba := b } } := by
  unfold Dev.raiseOwner
  split
  · obtain ⟨m, b, h⟩ := s.raiseVf_eq (p + 1) v
    exact ⟨m, s.host.pfPba, b, h⟩
  · obtain ⟨m, a, h⟩ := s.raisePf_eq v
    exact ⟨m, a, s.host.vfPba, h⟩

theorem Dev.raiseEvent_eq (s : Dev) (p : Nat) :
    ∃ m a b, s.raiseEvent p = { s with host := { s.host with sent := m, pfPba := a, vfPba := b } } := by
  unfold Dev.raiseEvent
  split
  · obtain ⟨m, b, h⟩ := s.raiseVf_eq (p + 1) 0
    exact ⟨m, s.host.pfPba, b, h⟩
  · obtain ⟨m, a, h⟩ := s.raisePf_eq (16 + p)
    exact ⟨m, a, s.host.vfPba, h⟩

/-- An event sets its status bit; beside it only the interrupt can show. -/
theorem Dev.event_eq (s : Dev) (f en : Fld) (b v : Nat) :
    ∃ m p, s.event f en b v = { s.put0 f 1 with host := { s.host with sent := m, pfPba := p } } := by
  unfold Dev.event
  dsimp only
  split
  · exact (s.put0 f 1).raisePf_eq v
  · exact ⟨s.host.sent, s.host.pfPba, rfl⟩

theorem Dev.cadEvent_eq (s : Dev) (f : Fld) (b : Nat) :
    ∃ m p, s.cadEvent f b = { s.put0 f 1 with host := { s.host with sent := m, pfPba := p } } := s.event_eq _ _ _ _

theorem Dev.chainEvent_eq (s : Dev) (f : Fld) (b : Nat) :
    ∃ m p, s.chainEvent f b = { s.put0 f 1 with host := { s.host with sent := m, pfPba := p } } := s.event_eq _ _ _ _

theorem Dev.pwrEvent_eq (s : Dev) (f : Fld) (b : Nat) :
    ∃ m p, s.pwrEvent f b = { s.put0 f 1 with host := { s.host with sent := m, pfPba := p } } := s.event_eq _ _ _ _

theorem Dev.panelEvent_eq (s : Dev) (f : Fld) (b : Nat) :
    ∃ m p, s.panelEvent f b = { s.put0 f 1 with host := { s.host with sent := m, pfPba := p } } := s.event_eq _ _ _ _

theorem Dev.fabEvent_eq (s : Dev) (f : Fld) (b : Nat) :
    ∃ m p, s.fabEvent f b = { s.put0 f 1 with host := { s.host with sent := m, pfPba := p } } := s.event_eq _ _ _ _

/-- A partition event sets its bit in P_EVENTS. -/
theorem Dev.partEvent_eq (s : Dev) (p b : Nat) :
    ∃ m x y, s.partEvent p b = { s.put F.P_EVENTS [p] (setBit (s.get F.P_EVENTS [p]) b) with
      host := { s.host with sent := m, pfPba := x, vfPba := y } } := by
  unfold Dev.partEvent
  dsimp only
  split
  · exact (s.put F.P_EVENTS [p] _).raiseEvent_eq p
  · exact ⟨s.host.sent, s.host.pfPba, s.host.vfPba, rfl⟩

/-! ### Frames and flits that leave -/

theorem Dev.txPrimary_eq (s : Dev) (fwd : Bool) (f : Frame) :
    ∃ u d, s.txPrimary fwd f = { s with chain := { s.chain with txU := u, txD := d } } := by
  unfold Dev.txPrimary
  split
  · exact ⟨s.chain.txU, _, rfl⟩
  · split
    · exact ⟨_, s.chain.txD, rfl⟩
    · exact ⟨s.chain.txU, s.chain.txD, rfl⟩

theorem Dev.send_eq (s : Dev) (typ sub dst tag : Nat) (data : List Word) :
    ∃ u d, s.send typ sub dst tag data = { s with chain := { s.chain with txU := u, txD := d } } := by
  unfold Dev.send
  split
  · exact ⟨s.chain.txU, s.chain.txD, rfl⟩
  · exact s.txPrimary_eq _ _

theorem Dev.sendEvent_eq (s : Dev) (sub dst arg : Nat) :
    ∃ u d, s.sendEvent sub dst arg = { s with chain := { s.chain with txU := u, txD := d } } := s.send_eq _ _ _ _ _

theorem Dev.notify_eq (s : Dev) (sub arg : Nat) :
    ∃ u d, s.notify sub arg = { s with chain := { s.chain with txU := u, txD := d } } := by
  unfold Dev.notify
  split
  · exact ⟨s.chain.txU, s.chain.txD, rfl⟩
  · exact s.sendEvent_eq _ _ _

theorem Dev.forward_eq (s : Dev) (f : Frame) :
    ∃ u d, s.forward f = { s with chain := { s.chain with txU := u, txD := d } } := s.txPrimary_eq _ _

theorem Dev.sendRing_eq (s : Dev) (port sub : Nat) :
    ∃ u d, s.sendRing port sub = { s with chain := { s.chain with txU := u, txD := d } } := by
  unfold Dev.sendRing
  dsimp only
  split
  · exact ⟨_, s.chain.txD, rfl⟩
  · exact ⟨s.chain.txU, _, rfl⟩

theorem Dev.sendEnum_eq (s : Dev) (tok : List Word) :
    ∃ u d, s.sendEnum tok = { s with chain := { s.chain with txU := u, txD := d } } := s.txPrimary_eq _ _

theorem Dev.injectFlit_eq (s : Dev) (f : Flit) : ∃ i, s.injectFlit f = { s with fab := { s.fab with inject := i } } := by
  unfold Dev.injectFlit
  split
  · exact ⟨s.fab.inject, rfl⟩
  · exact ⟨_, rfl⟩

theorem Dev.ctrl0_eq (s : Dev) (typ dst : Nat) (data : List Word) :
    ∃ i, s.ctrl0 typ dst data = { s with fab := { s.fab with inject := i } } := s.injectFlit_eq _

theorem Dev.ctrl0_list_eq (s : Dev) (typ : Nat) (data : List Word) (l : List Nat) :
    ∃ i, s.forEach l (fun s d => s.ctrl0 typ d data) = { s with fab := { s.fab with inject := i } } := by
  induction l generalizing s with
  | nil => exact ⟨s.fab.inject, rfl⟩
  | cons d l ih =>
    obtain ⟨i, h⟩ := s.ctrl0_eq typ d data
    obtain ⟨j, h'⟩ := ih (s.ctrl0 typ d data)
    refine ⟨j, ?_⟩
    change (s.ctrl0 typ d data).forEach l _ = _
    rw [h', h]

theorem Dev.relayAll_eq (s : Dev) (typ : Nat) (data : List Word) :
    ∃ i, s.relayAll typ data = { s with fab := { s.fab with inject := i } } := s.ctrl0_list_eq _ _ _

theorem Dev.sendTick_eq (s : Dev) (m : TickMsg) :
    ∃ u d i, s.sendTick m = { s with chain := { s.chain with txU := u, txD := d }, fab := { s.fab with inject := i } } := by
  unfold Dev.sendTick
  obtain ⟨u, d, h⟩ := s.send_eq tyTick 0 bcast 0 m.toWords
  dsimp only
  rw [h]
  split
  · obtain ⟨i, h'⟩ := Dev.relayAll_eq { s with chain := { s.chain with txU := u, txD := d } } tyTick m.toWords
    exact ⟨u, d, i, h'⟩
  · exact ⟨u, d, s.fab.inject, rfl⟩

theorem Dev.sendToSource_eq (s : Dev) (typ : Nat) (data : List Word) :
    ∃ u d, s.sendToSource typ data = { s with chain := { s.chain with txU := u, txD := d } } := by
  unfold Dev.sendToSource
  split
  · split <;> exact s.send_eq _ _ _ _ _
  · exact s.send_eq _ _ _ _ _

end Sys2Proof.Machine
end

