-- ==== Sys2Proof/Laws/Exec.lean ====
section
/-! SUPPORT. From a meaning to what a command gives. -/

namespace Sys2Proof

open Machine

/-- A command whose meaning runs `f` on a powered unit gives what `f` gives. -/
theorem gives_of_onDev {c : Instr} {d : Dev} {P : Dev → Prop} (f : Dev → Dev) (h : ∀ s, exec c s = onDev f s)
    (hp : Powered d) (hP : P (f d)) : Gives c d P := by
  refine ⟨f d, fun q => ?_, hP⟩
  rw [h, onDev, onRaw]
  simp only [show d.pwr.off = 0 from hp, if_true]

/-- A command whose meaning runs `f`, powered or not. -/
theorem gives_of_onRaw {c : Instr} {d : Dev} {P : Dev → Prop} (f : Dev → Dev) (h : ∀ s, exec c s = onRaw f s)
    (hP : P (f d)) : Gives c d P := ⟨f d, fun q => by rw [h, onRaw], hP⟩

/-- On a unit without power such a command changes nothing. -/
theorem onDev_off (f : Dev → Dev) (s : State) (h : s.dev.pwr.off ≠ 0) : onDev f s = .next s := by
  simp [onDev, onRaw, h]

/-- A frame that arrives is acted on, and sent on when it was for all. -/
theorem receive_arrives {d : Dev} {port typ : Nat} {f : Frame} (act home onward : Dev → Dev) (h : Arrives d port typ f)
    (h1 : typ ≠ tyRing) (h2 : typ ≠ tyEnum) :
    d.receive port f act home onward = if f.dst = bcast then onward (act d) else act d := by
  obtain ⟨hc, hb, ht, hu, hh, hr, ha, hd⟩ := h
  subst ht
  unfold Dev.receive
  rw [hc, hb, hu]
  simp only [Bool.not_true, Bool.false_eq_true, if_false, if_neg h1, if_neg h2, if_neg (show ¬252 ≤ f.hops by omega), if_neg hr]
  rcases hd with ⟨hd, hs⟩ | ⟨hd, hm⟩
  · rw [if_pos hd, if_pos hd, if_neg (fun h => hs h.2)]
  · rw [if_neg hd, if_neg hd, if_pos ⟨ha, hm⟩]

/-! ### What stays -/

theorem bitsOf_one (v i : Nat) : bitsOf v i 1 = (v.testBit i).toNat := by
  unfold bitsOf
  rw [Nat.testBit_eq_decide_div_mod_eq]
  rcases Nat.mod_two_eq_zero_or_one (v / 2 ^ i) with h | h <;> simp [h]

theorem testBit_putBits_ne (v lo w x i : Nat) (h : ¬(lo ≤ i ∧ i < lo + w)) : (putBits v lo w x).testBit i = v.testBit i := by
  have e : bitsOf (putBits v lo w x) i 1 = bitsOf v i 1 := by
    by_cases hi : lo + w ≤ i
    · exact bitsOf_putBits_above _ _ _ _ _ _ hi
    · exact bitsOf_putBits_below _ _ _ _ _ _ (by omega)
  rw [bitsOf_one, bitsOf_one] at e
  generalize (putBits v lo w x).testBit i = p at *
  generalize v.testBit i = q at *
  cases p <;> cases q <;> simp_all

theorem onlyFields_of_regs {l : List (Fld × List Nat)} {a b : Dev} (h : b.regs = a.regs) : OnlyFields l a b := by
  intro off i _
  simp only [Dev.reg, h]

theorem onlyFields_refl (l : List (Fld × List Nat)) (a : Dev) : OnlyFields l a a := fun _ _ _ => rfl

theorem onlyFields_trans {l : List (Fld × List Nat)} {a b c : Dev} (h : OnlyFields l a b) (h' : OnlyFields l b c) :
    OnlyFields l a c := fun off i hx => (h' off i hx).trans (h off i hx)

theorem onlyFields_mono {l l' : List (Fld × List Nat)} {a b : Dev} (hl : l ⊆ l') (h : OnlyFields l a b) : OnlyFields l' a b :=
  fun off i hx => h off i fun x hm => hx x (hl hm)

theorem onlyFields_put {l : List (Fld × List Nat)} {a b : Dev} {f : Fld} {ix : List Nat} (v : Nat) (h : OnlyFields l a b)
    (hf : (f, ix) ∈ l) : OnlyFields l a (b.put f ix v) := by
  intro off i hx
  rw [← h off i hx]
  by_cases ho : off = f.off ix
  · subst ho
    have hi := hx _ hf
    simp only [true_and] at hi
    unfold Dev.put
    rw [Dev.reg_setReg, if_pos rfl, BitVec.getLsbD_ofNat, BitVec.getLsbD, testBit_putBits_ne _ _ _ _ _ hi]
    by_cases h32 : i < 32
    · simp [h32]
    · rw [Nat.testBit_lt_two_pow]
      · simp
      · exact Nat.lt_of_lt_of_le (b.reg (f.off ix)).isLt (Nat.pow_le_pow_right (by omega) (by omega))
  · rw [Dev.reg_put_ne _ _ _ _ _ ho]

theorem onlyFields_put0 {l : List (Fld × List Nat)} {a b : Dev} {f : Fld} (v : Nat) (h : OnlyFields l a b) (hf : (f, []) ∈ l) :
    OnlyFields l a (b.put0 f v) := onlyFields_put v h hf

theorem onlyFields_count {l : List (Fld × List Nat)} {a b : Dev} {f : Fld} {ix : List Nat} (h : OnlyFields l a b)
    (hf : (f, ix) ∈ l) : OnlyFields l a (b.count f ix) := onlyFields_put _ h hf

/-! ### Effects in sequence -/

theorem onlyRegs_refl (a : Dev) : OnlyRegs a a := rfl

theorem onlyRegs_put (a : Dev) (f : Fld) (ix : List Nat) (v : Nat) : OnlyRegs a (a.put f ix v) := rfl

theorem onlyRegs_put0 (a : Dev) (f : Fld) (v : Nat) : OnlyRegs a (a.put0 f v) := rfl

theorem onlyRegs_count (a : Dev) (f : Fld) (ix : List Nat) : OnlyRegs a (a.count f ix) := rfl

theorem onlyRegs_trans {a b c : Dev} (h : OnlyRegs a b) (h' : OnlyRegs b c) : OnlyRegs a c := by
  unfold OnlyRegs at *
  rw [h] at h'
  exact h'

theorem OnlyRegs.irq {a b : Dev} (h : OnlyRegs a b) : OnlyRegsIrq a b := by
  unfold OnlyRegs OnlyRegsIrq at *
  generalize b.regs = r at h
  subst h
  rfl

theorem onlyRegsIrq_trans {a b c : Dev} (h : OnlyRegsIrq a b) (h' : OnlyRegsIrq b c) : OnlyRegsIrq a c := by
  unfold OnlyRegsIrq at *
  rw [h] at h'
  exact h'

theorem OnlyRegsIrq.talk {a b : Dev} (h : OnlyRegsIrq a b) : OnlyTalk a b := by
  unfold OnlyTalk OnlyRegsIrq at *
  generalize b.regs = r, b.host.sent = x, b.host.pfPba = y, b.host.vfPba = z at h
  subst h
  rfl

theorem onlyTalk_refl (a : Dev) : OnlyTalk a a := rfl

theorem onlyTalk_trans {a b c : Dev} (h : OnlyTalk a b) (h' : OnlyTalk b c) : OnlyTalk a c := by
  unfold OnlyTalk at *
  rw [h] at h'
  exact h'

theorem OnlyTalk.cad {a b : Dev} (h : OnlyTalk a b) : OnlyCad a b := by
  unfold OnlyCad OnlyTalk at *
  generalize b.regs = r, b.host.sent = x, b.host.pfPba = y, b.host.vfPba = z, b.chain.txU = u, b.chain.txD = v,
    b.fab.inject = w at h
  subst h
  rfl

theorem onlyCad_trans {a b c : Dev} (h : OnlyCad a b) (h' : OnlyCad b c) : OnlyCad a c := by
  unfold OnlyCad OnlyTalk at *
  rw [h] at h'
  exact h'

theorem onlyCad_cad (a : Dev) (c : Cad) : OnlyCad a { a with cad := c } := rfl

theorem OnlyTalk.chain {a b : Dev} (h : OnlyTalk a b) : OnlyChain a b := by
  unfold OnlyChain OnlyTalk at *
  generalize b.regs = r, b.host.sent = x, b.host.pfPba = y, b.host.vfPba = z, b.chain.txU = u, b.chain.txD = v,
    b.fab.inject = w at h
  subst h
  rfl

theorem onlyChain_trans {a b c : Dev} (h : OnlyChain a b) (h' : OnlyChain b c) : OnlyChain a c := by
  unfold OnlyChain OnlyTalk at *
  rw [h] at h'
  exact h'

theorem onlyChain_chain (a : Dev) (c : Chain) : OnlyChain a { a with chain := c } := rfl

theorem onlyRegsIrq_event (s : Dev) (f en : Fld) (b v : Nat) : OnlyRegsIrq s (s.event f en b v) := by
  obtain ⟨m, p, h⟩ := s.event_eq f en b v
  rw [h]
  rfl

theorem onlyRegsIrq_partEvent (s : Dev) (p b : Nat) : OnlyRegsIrq s (s.partEvent p b) := by
  obtain ⟨m, x, y, h⟩ := s.partEvent_eq p b
  rw [h]
  rfl

theorem onlyFields_event {l : List (Fld × List Nat)} {a s : Dev} {f : Fld} (en : Fld) (b v : Nat) (h : OnlyFields l a s)
    (hf : (f, []) ∈ l) : OnlyFields l a (s.event f en b v) := by
  obtain ⟨m, p, e⟩ := s.event_eq f en b v
  rw [e]
  exact onlyFields_trans (onlyFields_put0 1 h hf) (onlyFields_of_regs rfl)

theorem onlyTalk_send (s : Dev) (typ sub dst tag : Nat) (data : List Word) : OnlyTalk s (s.send typ sub dst tag data) := by
  obtain ⟨u, d, h⟩ := s.send_eq typ sub dst tag data
  rw [h]
  rfl

theorem onlyTalk_forward (s : Dev) (f : Frame) : OnlyTalk s (s.forward f) := by
  obtain ⟨u, d, h⟩ := s.forward_eq f
  rw [h]
  rfl

end Sys2Proof
end

