-- ==== Sys2Proof/Laws/Mem.lean ====
section
/-! SUPPORT. Every operation that writes device or host memory keeps its canonical form. -/

namespace Sys2Proof.Machine

variable {α β : Type}

theorem Tab.rising_filter (lo : Nat) (t : Tab α) (p : Nat × α → Bool) (h : Tab.rising lo t = true) :
    Tab.rising lo (t.filter p) = true := by
  induction t generalizing lo with
  | nil => rfl
  | cons x t ih =>
    obtain ⟨k, v⟩ := x
    simp only [Tab.rising, Bool.and_eq_true, decide_eq_true_eq] at h
    simp only [List.filter]
    split
    · simp only [Tab.rising, Bool.and_eq_true, decide_eq_true_eq]
      exact ⟨h.1, ih _ h.2⟩
    · exact Tab.rising_mono _ _ _ (by omega) (ih _ h.2)

theorem Tab.wf_filter [DecidableEq α] (d : Nat → α) (t : Tab α) (p : Nat × α → Bool) (h : Tab.wf d t = true) :
    Tab.wf d (t.filter p) = true := by
  simp only [Tab.wf, Tab.noDefault, Bool.and_eq_true, List.all_eq_true, decide_eq_true_eq] at h ⊢
  exact ⟨Tab.rising_filter 0 t p h.1, fun e he => h.2 e (List.mem_filter.mp he).1⟩

theorem Tab.wf_eraseRange [DecidableEq α] (d : Nat → α) (t : Tab α) (lo hi : Nat) (h : Tab.wf d t = true) :
    Tab.wf d (Tab.eraseRange t lo hi) = true := Tab.wf_filter d t _ h

theorem memory_wf_reset : Memory.wf State.reset.dev.mem = true ∧ Memory.wf State.reset.dev.hostMem = true := ⟨rfl, rfl⟩

theorem foldl_keeps (P : Dev → Prop) (f : Dev → β → Dev) (hf : ∀ s k, P s → P (f s k)) (l : List β) (s : Dev) (h : P s) :
    P (l.foldl f s) := by
  induction l generalizing s with
  | nil => exact h
  | cons x l ih => exact ih _ (hf s x h)

theorem writeHost_wf (s : Dev) (fn a : Nat) (bs : List Byte) (h : Memory.wf s.hostMem = true) :
    Memory.wf (s.writeHost fn a bs).hostMem = true := Tab.wf_setMany 0 bs s.hostMem a h

theorem eccReport_mem (s : Dev) (die key mid : Nat) (part : Option Nat) (kind : Nat) :
    (s.eccReport die key mid part kind).mem = s.mem := by
  have hr : ∀ (s : Dev) (c d m : Nat) (p : Option Nat) (a g : Nat), (s.report c d m p a g).mem = s.mem := fun _ _ _ _ _ _ _ => rfl
  have hc : ∀ (s : Dev) (f : Fld) (ix : List Nat), (s.count f ix).mem = s.mem := fun _ _ _ => rfl
  have hp : ∀ (s : Dev) (f : Fld) (ix : List Nat) (v : Nat), (s.put f ix v).mem = s.mem := fun _ _ _ _ => rfl
  have hq : ∀ (s : Dev) (l h : Fld) (ix : List Nat) (v : Nat), (s.put64 l h ix v).mem = s.mem := fun _ _ _ _ _ => rfl
  unfold Dev.eccReport
  dsimp only
  split
  · rfl
  · split
    · split <;> simp only [hr, hc, hp]
    · simp only [hr, apply_ite Dev.mem, hc, hp, hq, ite_self]

theorem writeSram_wf (s : Dev) (die key mid : Nat) (acting : Option Nat) (bs : List Byte) (h : Memory.wf s.mem = true) :
    Memory.wf (s.writeSram die key mid acting bs).mem = true := by
  unfold Dev.writeSram Dev.forEach
  refine foldl_keeps (fun s => Memory.wf s.mem = true) _ (fun s k hs => ?_) _ s h
  have hr : Memory.wf (if decide (min (k + 8) (key + bs.length) - max k key < 8) then
      s.eccReport die k mid acting (s.eccAt k) else s).mem = true := by
    split
    · rw [eccReport_mem]; exact hs
    · exact hs
  dsimp only
  split
  · exact hr
  · exact Tab.wf_setMany 0 _ _ _ hr

theorem drawBelow_mem (s : Dev) (n : Nat) : (s.drawBelow n).2.mem = s.mem := rfl

theorem writeExt_wf (s : Dev) (key : Nat) (bs : List Byte) (h : Memory.wf s.mem = true) :
    Memory.wf (s.writeExt key bs).mem = true := by
  unfold Dev.writeExt
  dsimp only
  repeat' split
  all_goals first | exact h | exact Tab.wf_setMany 0 _ _ _ h

theorem zeroGranule_wf (s : Dev) (d g : Nat) (h : Memory.wf s.mem = true) : Memory.wf (s.zeroGranule d g).mem = true :=
  Tab.wf_eraseRange _ _ _ _ h

end Sys2Proof.Machine
end

