-- ==== Sys2Proof/WellFormed.lean ====
section
/-! DEFINITION. Well-formed commands: every operand within the range the spec gives it.  A meaning is total all the same: a
command with an operand out of range acts on nothing, or takes the operand modulo its field. -/

namespace Sys2Proof

open Machine

/-- A number below a bound: a port, a partition, an alarm, a rail, a power domain, a field of that many codes. -/
def Wf.below (n x : Nat) : Bool := decide (x < n)

/-- A queue: partition p's queue i at 32 p + i (05 R166). -/
def Wf.queue (k : Nat) : Bool := Wf.below 2048 k

/-- A chain frame: each field of its width, and at most 63 payload words as LEN can count (04 Table 4.1). -/
def Wf.frame (f : Frame) : Bool :=
  Wf.below 128 f.dst && Wf.below 128 f.src && Wf.below 16 f.typ && Wf.below 2 f.cls && Wf.below 64 f.len && Wf.below 256 f.tag &&
    Wf.below 256 f.hops && Wf.below 256 f.chain && Wf.below 256 f.sub && Wf.below 64 f.data.length

/-- A Col flit: each field of its width, and at most 60 payload words (16 Table 16.2). -/
def Wf.flit (f : Flit) : Bool :=
  Wf.below 32768 f.dst && Wf.below 64 f.dstPart && Wf.below 4 f.cls && Wf.below 2 f.vc && Wf.below 16 f.kind &&
    Wf.below 32768 f.src && Wf.below 64 f.srcPart && Wf.below (2 ^ 20) f.msg && Wf.below 4096 f.seqn && Wf.below 61 f.data.length

/-- A HELLO: an identity, a port, a MODE and credits for eight pairs of class and VC (16 R567). -/
def Wf.hello (h : Hello) : Bool :=
  Wf.below 32768 h.ident && Wf.below 12 h.port && Wf.below 4 h.mode && decide (h.credits.length = 8)

/-- A LINK flit: credits of existing pairs, or a well-formed HELLO. -/
def Wf.linkMsg : LinkMsg → Bool
  | .credit pairs _ => pairs.all fun x => Wf.below 8 x.1
  | .nak => true
  | .hello h => Wf.hello h
  | .unitLost => true

/-- An encapsulated frame: counters of 32 bits, a class, at most 32 well-formed flits, IPv6 addresses of four words
(16 Table 16.8). -/
def Wf.eframe (f : EFrame) : Bool :=
  Wf.below (2 ^ 48) f.dmac && Wf.below (2 ^ 48) f.smac && f.vlan.all (Wf.below (2 ^ 16)) && Wf.below 64 f.dscp && Wf.below (2 ^ 20) f.flow &&
    Wf.below (2 ^ 16) f.sport && Wf.below (2 ^ 16) f.udp && Wf.below (2 ^ 32) f.psn && Wf.below (2 ^ 32) f.ackPsn && Wf.below 4 f.cls &&
    Wf.below 33 f.flits.length && f.flits.all Wf.flit && decide (f.dip.length = 4) && decide (f.sip.length = 4)

/-- What bring-up finds: straps of their widths, and voltages for the twelve rails (20 Table 20.2). -/
def Wf.answers (a : BringAns) : Bool :=
  Wf.below 256 a.chainId && Wf.below 4 a.boot && Wf.below (2 ^ 64) a.serial && Wf.below 8 a.wardenBad && Wf.below 256 a.fusedOff &&
    Wf.below 64 a.crestBad && Wf.below 64 a.linkBad && decide (a.volts.length = 12) && Wf.below 4096 a.plugged

/-- A detector's report: a code, a die, a partition if one is named (17 Table 17.6). -/
def Wf.detect : Option Detect → Bool
  | none => true
  | some x => Wf.below 256 x.code && Wf.below 8 x.die && (match x.part with
    | some p => Wf.below 64 p
    | none => true)

/-- A requester: a VF of 1 to 64 (64 also as 0), through either BAR, a management core 0 or 1, a chain address (21 R745, 05 R161). -/
def Wf.requester : Req → Bool
  | .pf => true
  | .warden => true
  | .mgmt n => Wf.below 2 n
  | .vf n => Wf.below 65 n
  | .pfDb => true
  | .vfDb n => Wf.below 65 n
  | .chain a => Wf.below 128 a

/-- A write access of 1, 2, 4 or 8 bytes within BAR0, aligned or not (00 R11; 21 R743). -/
def Wf.access (off size v : Nat) : Bool :=
  Wf.below (2 ^ 26 + 1) (off + size) && (size == 1 || size == 2 || size == 4 || size == 8) && Wf.below (2 ^ (8 * size)) v

/-- A read access of 1, 2, 4 or 8 bytes within BAR0, aligned or not (00 R11). -/
def Wf.readAccess (off size : Nat) : Bool :=
  Wf.below (2 ^ 26 + 1) (off + size) && (size == 1 || size == 2 || size == 4 || size == 8)

/-- A write through a doorbell BAR: within its 256 KiB, of one or more bytes (05 R161, R176). -/
def Wf.doorbell (off size v : Nat) : Bool := Wf.below (2 ^ 18 + 1) (off + size) && decide (1 ≤ size) && Wf.below (2 ^ (8 * size)) v

/-- What a host programs into Device Control: payloads of 128 to 512 B, read requests of 128 B to 4 KiB (05 R156). -/
def Wf.ctl (c : PcieCtl) : Bool :=
  [128, 256, 512].contains c.maxPayload && [128, 256, 512, 1024, 2048, 4096].contains c.maxRead

/-- A register of a pair: word aligned, in BAR0 (00 R10). -/
def Wf.pair (off : Nat) : Bool := Wf.below (2 ^ 26) off && off % 4 == 0

/-- A core of the unit: two lane core units and two spur core units on each crest die, the warden, and a spur core unit on each
col die (06 Table 6.2). -/
def Wf.laneCore (n : Nat) : Bool := Wf.below 6 (n / 128) && (n / 8 % 16 == 2 || n / 8 % 16 == 3)
def Wf.spurCore (n : Nat) : Bool :=
  (Wf.below 6 (n / 128) && (n / 8 % 16 == 4 || n / 8 % 16 == 5)) ||
    ((n / 128 == 6 || n / 128 == 7) && n / 8 % 16 == 3) || n == 6 * 128 + 2 * 8
def Wf.core (n : Nat) : Bool := Wf.laneCore n || Wf.spurCore n

/-- An engine instance: class 0 to 4, its die, its number below what the die has of them (07 R239). -/
def Wf.engine (cls die idx : Nat) : Bool :=
  Wf.below 16 idx && (match cls with
    | 0 => Wf.below 6 die
    | 1 => Wf.below 6 die
    | 2 => Wf.below 6 die && idx == 0
    | 3 => Wf.below 6 die && idx == 0
    | 4 => (die == 6 || die == 7)
    | _ => false)

/-- A column group of a macro (10 R342, R364). -/
def Wf.columns (die g pos cg : Nat) : Bool := Wf.below 6 die && Wf.below 16384 g && Wf.below 44 pos && Wf.below 8 cg

/-- Are the operands of a command within their ranges? (DESIGN CHOICE, log 36). -/
def Wf.command : Instr → Bool
  | .registerWrite req off size v => Wf.access off size v && Wf.requester req
  | .pairLoRead req x => Wf.readAccess x.off x.size && Wf.requester req
  | .pairHiRead req x => Wf.readAccess x.off x.size && Wf.requester req
  | .pairLoWrite req off v => Wf.pair off && Wf.below (2 ^ 32) v && Wf.requester req
  | .pairHiWrite req off v => Wf.pair off && Wf.below (2 ^ 32) v && Wf.requester req
  | .commit block => Wf.below 2 block
  | .tickTimerExpiry => true
  | .cadinEdge _ => true
  | .cardLost => true
  | .tick port f _ _ => Wf.below 2 port && Wf.frame f
  | .tickApply => true
  | .voteWrite mask => Wf.below (2 ^ 64) mask
  | .vote port f => Wf.below 2 port && Wf.frame f
  | .join port f => Wf.below 2 port && Wf.frame f
  | .leave port f => Wf.below 2 port && Wf.frame f
  | .bid port f => Wf.below 2 port && Wf.frame f
  | .bidTimer => true
  | .cadLost => true
  | .freeRunTick => true
  | .bidWindowEnd => true
  | .electionStart => true
  | .run _ => true
  | .resign => true
  | .handover port f => Wf.below 2 port && Wf.frame f
  | .handoverFail => true
  | .clearLost => true
  | .arm n => Wf.below 256 n
  | .disarm n => Wf.below 256 n
  | .alarmDispatch => true
  | .alarmNone => true
  | .alarmDoorbell => true
  | .alarmFaceSwap => true
  | .alarmPower => true
  | .alarmCommit => true
  | .alarmReshape => true
  | .alarmInterrupt => true
  | .chainFrame port p => Wf.below 2 port && Wf.frame p.frame
  | .chainSignalDetect port => Wf.below 2 port
  | .chainTrainTimeout port => Wf.below 2 port
  | .chainLinkDown port => Wf.below 2 port
  | .holdoffExpiry => true
  | .chainDrainExpiry => true
  | .helloTimer port => Wf.below 2 port
  | .ringHello port f _ => Wf.below 2 port && Wf.frame f
  | .ringBreak port f => Wf.below 2 port && Wf.frame f
  | .ringUnwrap port f => Wf.below 2 port && Wf.frame f
  | .enumStart => true
  | .headPortHold => true
  | .enumClaim port f => Wf.below 2 port && Wf.frame f
  | .enumAssign port f => Wf.below 2 port && Wf.frame f
  | .enumTimeout => true
  | .attachTimer => true
  | .eventAttach port f => Wf.below 2 port && Wf.frame f
  | .eventEnumDone port f => Wf.below 2 port && Wf.frame f
  | .eventBreak port f => Wf.below 2 port && Wf.frame f
  | .eventUnwrapDone port f => Wf.below 2 port && Wf.frame f
  | .eventSafeStop port f => Wf.below 2 port && Wf.frame f
  | .eventDrain port f => Wf.below 2 port && Wf.frame f
  | .eventPanel port f => Wf.below 2 port && Wf.frame f
  | .eventAlarm port f => Wf.below 2 port && Wf.frame f
  | .eventAuxLatch port f => Wf.below 2 port && Wf.frame f
  | .rdReq port f => Wf.below 2 port && Wf.frame f
  | .wrReq port f => Wf.below 2 port && Wf.frame f
  | .rdRsp port f _ => Wf.below 2 port && Wf.frame f
  | .wrRsp port f _ => Wf.below 2 port && Wf.frame f
  | .chainReqGo n => Wf.below 256 n
  | .chainTimeout n => Wf.below 256 n
  | .powerCap port f => Wf.below 2 port && Wf.frame f
  | .powerReport port f => Wf.below 2 port && Wf.frame f
  | .powerSupply port f => Wf.below 2 port && Wf.frame f
  | .reportTimer => true
  | .sqDb req w => Wf.doorbell w.off w.size w.v && Wf.requester req
  | .cqDb req w => Wf.doorbell w.off w.size w.v && Wf.requester req
  | .descriptorRead k _ _ => Wf.queue k
  | .descriptorStart k => Wf.queue k
  | .listRead k _ _ => Wf.queue k
  | .fetchErr k => Wf.queue k
  | .descriptorComplete k => Wf.queue k
  | .coalTime k => Wf.queue k
  | .qEnable k => Wf.queue k
  | .queueEnabled k => Wf.queue k
  | .qDisable k => Wf.queue k
  | .queueDisableDrained q => Wf.queue q.queue
  | .vfFlr vf => (Wf.below 65 vf && vf != 0)
  | .pfFlr => true
  | .busMasterEnable fn _ _ pf => Wf.below 65 fn && Wf.ctl pf.ctl
  | .vfEnable _ n => Wf.below 65 n
  | .linkDegraded rate _ _ => Wf.below 8 rate
  | .pcieLinkDown => true
  | .hostReset _ => true
  | .partitionEnable p => Wf.below 64 p
  | .reshape p => Wf.below 64 p
  | .releaseEnd p => Wf.below 64 p
  | .zeroingDone p => Wf.below 64 p
  | .partitionDisable p => Wf.below 64 p
  | .partitionDisabled p => Wf.below 64 p
  | .scrub p => Wf.below 64 p
  | .scrubDone p => Wf.below 64 p
  | .nop k => Wf.queue k
  | .wait k => Wf.queue k
  | .fenceTimeout k => Wf.queue k
  | .signal k => Wf.queue k
  | .cadWait k => Wf.queue k
  | .cadVote k => Wf.queue k
  | .cadAlarm k => Wf.queue k
  | .copy k _ _ => Wf.queue k
  | .writeImm k => Wf.queue k
  | .commandStart k => Wf.queue k
  | .chunkDispatch cls die c => Wf.engine cls die c.idx
  | .chunkEnd cls die idx _ => Wf.engine cls die idx
  | .commandEnd k => Wf.queue k
  | .stop k => Wf.queue k
  | .disableGrace k => Wf.queue k
  | .matmul t => Wf.queue t.queue
  | .convert t => Wf.queue t.queue
  | .optStep t => Wf.queue t.queue
  | .rowop t => Wf.queue t.queue
  | .summitCutoff die idx _ => Wf.engine 0 die idx
  | .scMvm t => Wf.queue t.queue
  | .scWriteS t => Wf.queue t.queue
  | .scProgramT k => Wf.queue k
  | .tBlockProgram k _ _ => Wf.queue k
  | .scSwap t => Wf.queue t.queue
  | .scCal t => Wf.queue t.queue
  | .scQuery t => Wf.queue t.queue
  | .screeCutoff die lane _ => Wf.engine 1 die lane
  | .calibration die g pos cg => Wf.columns die g pos cg
  | .calibrationDone die g pos cg => Wf.columns die g pos cg
  | .cnGather t => Wf.queue t.queue
  | .cnScatter t => Wf.queue t.queue
  | .cnUpdate t => Wf.queue t.queue
  | .cairnCutoff die _ => Wf.below 6 die
  | .sdSelect t => Wf.queue t.queue
  | .sdTake t => Wf.queue t.queue
  | .sdBuild t => Wf.queue t.queue
  | .sdProbe t => Wf.queue t.queue
  | .sdGroup t => Wf.queue t.queue
  | .sdNorm t => Wf.queue t.queue
  | .sdTopk t => Wf.queue t.queue
  | .sdSort t => Wf.queue t.queue
  | .sdSample t => Wf.queue t.queue
  | .saddleCutoff die _ => Wf.below 6 die
  | .kernelInvocation k c => Wf.queue k && Wf.laneCore c
  | .kernelLimit c => Wf.laneCore c
  | .add c => Wf.core c
  | .sub c => Wf.core c
  | .adc c => Wf.core c
  | .pset c => Wf.core c
  | .andI c => Wf.core c
  | .orI c => Wf.core c
  | .xorI c => Wf.core c
  | .mov c => Wf.core c
  | .cmp c => Wf.core c
  | .addi c => Wf.core c
  | .movi c => Wf.core c
  | .cmpi c => Wf.core c
  | .addx c => Wf.core c
  | .andx c => Wf.core c
  | .orx c => Wf.core c
  | .xorx c => Wf.core c
  | .cmpx c => Wf.core c
  | .movx c => Wf.core c
  | .movl c => Wf.core c
  | .tstx c => Wf.core c
  | .shv c => Wf.core c
  | .mulu c => Wf.core c
  | .neg c => Wf.core c
  | .notI c => Wf.core c
  | .sxtb c => Wf.core c
  | .sxth c => Wf.core c
  | .zxtb c => Wf.core c
  | .zxth c => Wf.core c
  | .shl c => Wf.core c
  | .shr c => Wf.core c
  | .sar c => Wf.core c
  | .ror c => Wf.core c
  | .ld c => Wf.core c
  | .lds c => Wf.core c
  | .st c => Wf.core c
  | .lea c => Wf.core c
  | .br c => Wf.core c
  | .jmp c => Wf.core c
  | .call c => Wf.core c
  | .jmpr c => Wf.core c
  | .callr c => Wf.core c
  | .rep c => Wf.core c
  | .blc c => Wf.core c
  | .mfc c => Wf.core c
  | .mtc c => Wf.core c
  | .ridgeNop c => Wf.core c
  | .ret c => Wf.core c
  | .reti c => Wf.core c
  | .sync c => Wf.core c
  | .iflush c => Wf.core c
  | .halt c => Wf.core c
  | .brk c => Wf.core c
  | .trap c => Wf.core c
  | .mul c => Wf.core c
  | .mac c => Wf.core c
  | .rdm c => Wf.core c
  | .wrm c => Wf.core c
  | .movs c _ => Wf.core c
  | .fils c _ => Wf.core c
  | .scns c _ => Wf.core c
  | .macm c _ => Wf.core c
  | .macmu c _ => Wf.core c
  | .movb c => Wf.core c
  | .movg c => Wf.core c
  | .guard c => Wf.core c
  | .pnot c => Wf.core c
  | .pclr c => Wf.core c
  | .interruptEntry c levels => Wf.spurCore c && Wf.below 65536 levels
  | .interruptTakeover c levels b => Wf.spurCore c && Wf.below 65536 levels && Wf.below 4 b
  | .impreciseTrap c => Wf.spurCore c
  | .farLoadData c part _ _ => Wf.spurCore c && Wf.below 64 part
  | .farStoreComplete c part _ => Wf.spurCore c && Wf.below 64 part
  | .timer c => Wf.core c
  | .laneStop c => Wf.laneCore c
  | .extApply => true
  | .extDone _ => true
  | .patrolRead die => Wf.below 8 die
  | .cxlPortLost p _ => Wf.below 12 p
  | .expanderEvent p _ => Wf.below 12 p
  | .healthPoll p _ => Wf.below 12 p
  | .flitRoute port f _ => Wf.below 13 port && Wf.flit f
  | .link port m => Wf.below 12 port && Wf.linkMsg m
  | .linkHello port h => Wf.below 12 port && Wf.hello h
  | .linkNak port => Wf.below 12 port
  | .put port f => Wf.below 12 port && Wf.flit f
  | .getReq port f => Wf.below 12 port && Wf.flit f
  | .getData port f => Wf.below 12 port && Wf.flit f
  | .ack port f => Wf.below 12 port && Wf.flit f
  | .collData port f => Wf.below 12 port && Wf.flit f
  | .collReady port f => Wf.below 12 port && Wf.flit f
  | .collNak port f => Wf.below 12 port && Wf.flit f
  | .collAbort port f => Wf.below 12 port && Wf.flit f
  | .collDone port f => Wf.below 12 port && Wf.flit f
  | .collCredit port f => Wf.below 12 port && Wf.flit f
  | .ctrl0 port f _ => Wf.below 12 port && Wf.flit f
  | .unitLost port f => Wf.below 12 port && Wf.flit f
  | .readyRepeat k => Wf.queue k
  | .ackTimeout tag => Wf.below 1048576 tag
  | .collTimeout k => Wf.queue k
  | .clPut t => Wf.queue t.queue
  | .clGet t => Wf.queue t.queue
  | .clColl t => Wf.queue t.queue
  | .colCutoff die _ => (die == 6 || die == 7)
  | .portEnable port _ _ => Wf.below 12 port
  | .portLock port => Wf.below 12 port
  | .portTrainTimeout port => Wf.below 12 port
  | .fabricPortDown port => Wf.below 12 port
  | .portHelloTimer port => Wf.below 12 port
  | .encapFrame port f => Wf.below 12 port && Wf.eframe f
  | .encapRto ident cls => Wf.below 32768 ident && Wf.below 4 cls
  | .shelfDegraded l => Wf.below 20 l
  | .shelfLinkDown l qs => Wf.below 20 l && qs.all Wf.queue
  | .shelfRetrainDone l => Wf.below 20 l
  | .voterVerdict sa sb sc _ _ => Wf.below (2 ^ 32) sa && Wf.below (2 ^ 32) sb && Wf.below (2 ^ 32) sc
  | .wardenWatchdog => true
  | .resync => true
  | .resyncDone _ => true
  | .forceSafeStop => true
  | .faultReport d qs => Wf.detect d && qs.all Wf.queue
  | .safeStop code _ _ => Wf.below 256 code
  | .safeStopEnginesStopped => true
  | .refclkLoss => true
  | .aonClockLoss => true
  | .engineHang cls die idx => Wf.engine cls die idx
  | .resetArm _ => true
  | .resetGo _ => true
  | .powerReq st dom => Wf.below 4 st && (Wf.below 12 dom || dom == 255)
  | .domainTransitionDone d => Wf.below 12 d
  | .wake d _ => Wf.below 12 d
  | .wakeIn _ => true
  | .wakeDelayDone d => Wf.below 12 d
  | .railAck r _ => Wf.below 12 r
  | .railFault r => Wf.below 12 r
  | .avsAdjust r _ => Wf.below 12 r
  | .thermalThreshold die _ => Wf.below 8 die
  | .thermalTrip die => Wf.below 8 die
  | .throttleRelease die _ => Wf.below 8 die
  | .capEstimate _ _ _ _ => true
  | .supplyLow _ => true
  | .supplyGrace => true
  | .supplyReturned _ => true
  | .supplyRestart => true
  | .auxEn _ => true
  | .auxFail => true
  | .auxRetry => true
  | .auxStable => true
  | .auxClear => true
  | .resClear => true
  | .keyMeasure k count => Wf.below 4 k && Wf.below 4096 count
  | .long k => Wf.below 4 k
  | .driftStep => true
  | .rebase => true
  | .panelPresent _ _ => true
  | .drainReq => true
  | .drainWithdraw => true
  | .drainGrant => true
  | .drained => true
  | .safe => true
  | .pageTimeout => true
  | .displayRefresh _ => true
  | .powerOnReset => true
  | .bringup a => Wf.answers a
  | .bootLoad _ _ => true
  | .expanderAttach p _ rate width _ _ => Wf.below 12 p && Wf.below 4 rate && Wf.below 16 width
  | .xpWaitExpiry => true
  | .dieStartup d _ => Wf.below 6 d
  | .shutdownArm _ => true
  | .shutdownGo _ => true
  | .shutdownAbort => true
  | .pointOfNoReturn => true
  | .reservedEncoding c => Wf.core c
  | .faceWaitTimeout k => Wf.queue k
  | .fabricSignalPresent port => Wf.below 12 port
  | .portTrainRetry port => Wf.below 12 port
  | .perstNRelease => true
  | .hostLinkL1 _ => true
  | .enumQueuedStart => true

/-- A well-formed command. -/
def Instr.wf (i : Instr) : Bool := Wf.command i

end Sys2Proof
end

