-- ==== Sys2Proof/Tests/Slice0.lean ====
section
/-! SUPPORT. The model's own tests: an ill-formed term that each check of WellFormed refuses, for each statement states and
operands that meet its hypotheses, and a few single steps with results worked out from the spec. -/

set_option Elab.async false

namespace Sys2Proof.Tests

open Machine

/-! ### Small states and messages -/

/-- The unit after reset but for these fields. -/
def unit (l : List (Fld × List Nat × Nat)) : Dev := l.foldl (fun d x => d.put x.1 x.2.1 x.2.2) Dev.reset

/-- A chain frame from address 9. -/
def frame (typ sub dst : Nat) (data : List Word) : Frame :=
  { dst := dst, src := 9, typ := typ, cls := reqClass typ sub, len := data.length, tag := 0, hops := 3, chain := 0, sub := sub, data := data,
    crcOk := true }

/-- A member of a ring: address 5, both ports up. -/
def member (l : List (Fld × List Nat × Nat)) : Dev :=
  unit ([(F.CHAIN_ADDR, [], 5), (F.U_STATE, [], pUp), (F.D_STATE, [], pUp)] ++ l)

/-- A command with these words that has not been split. -/
def cmd (w : List Word) (phase : CmdPhase) : Cmd := ⟨w, phase, false, 0, [], [], none, 0, none, 1, [], [], [], [], [], []⟩

/-! ### Hypotheses of the statements about the cadence -/

def aTick (p : Pos) : TickMsg :=
  { epoch := 0, pos := p, adv := false, reason := 0, fromCard := false, endT := 9, delay := 7, lead := 100, master := 0 }

def masterAt (p : Pos) (l : List (Fld × List Nat × Nat)) : Dev :=
  { unit ((F.CAD_ROLE_NOW, [], roleMaster) :: l) with
    cad := { Cad.reset with issued := some (aTick p), joined := true, seen := true } }

theorem hyp_CadenceMasterTick :
    ∀ p ∈ [(⟨4, 0, 3⟩ : Pos), ⟨4, 0, 8⟩, ⟨4, 15, 8⟩], ∀ card ∈ [0, 1],
    let d := masterAt p [(F.PHASE_LAST, [], 15), (F.CARD, [], card)]
    Powered d ∧ d.isMaster = true ∧ d.cad.handing = false ∧ d.cad.resign = false ∧ d.cad.taking = none ∧
      d.cad.issued = some (aTick p) ∧ ¬((aTick p).endT ≤ p.tick + 1 ∧ 2 ^ 48 - 1 ≤ p.step ∧ d.get F.PHASE_LAST ≤ p.phase) ∧
      (card = 0 → d.onStrobe = false) ∧ (card = 1 → d.flag F.CARD = true ∧ d.flag F.CARD_LOST = false) := by
  unfold Powered; decide +kernel

theorem hyp_CadenceStrobe :
    ∀ lost ∈ [0, 1], ∀ edges ∈ [14, 15],
    let d0 := masterAt ⟨4, 0, 3⟩ [(F.CARD, [], 1), (F.CARD_LOST, [], lost)]
    let d := { d0 with cad := { d0.cad with cardEdges := edges } }
    Powered d ∧ d.isMaster = true ∧ d.flag F.CARD = true ∧ d.flag F.CARD_LOST = decide (lost = 1) ∧ d.cad.cardEdges = edges := by
  unfold Powered; decide +kernel

theorem hyp_CadenceTickReceived :
    ∀ epoch ∈ [0, 1], let d := { member [(F.EPOCH, [], epoch)] with cad := { Cad.reset with seen := true, joined := true } }
    let f := frame tyTick 0 bcast (aTick ⟨4, 1, 2⟩).toWords
    Powered d ∧ Arrives d 0 tyTick f ∧ d.cad.seen = true ∧ (tickIn f 0).delay = 7 ∧
      (epoch = 0 → (tickIn f 0).epoch = d.get F.EPOCH ∧ d.isMaster = false ∧ d.cad.joined = true ∧ d.flag F.CAD_LOST = false ∧
        (tickIn f 0).delay < (tickIn f 0).lead) ∧
      (epoch = 1 → (tickIn f 0).epoch ≠ d.get F.EPOCH ∧ epochNewer (tickIn f 0).epoch (d.get F.EPOCH) = false) := by
  unfold Powered Arrives; decide +kernel

theorem hyp_CadencePositionMoves :
    (∀ joined ∈ [true, false], ∀ step ∈ [0, 2 ^ 48 - 1],
      let m := aTick ⟨step, 0, 3⟩
      let d := { unit [(F.POS_PHASE, [], 1)] with cad := { Cad.reset with joined := joined, due := [(3, m)] } }
      Powered d ∧ d.cad.due = [(3, m)] ∧ m.pos.step < 2 ^ 48 ∧ m.pos.phase < 16 ∧ m.pos.tick < 2 ^ 20 ∧ m.endT < 2 ^ 20 ∧
        (step ≠ 0 → Pos.lt d.pos m.pos = true ∧ epochNewer d.cad.appliedEpoch m.epoch = false) ∧
        (step = 0 → Pos.lt d.pos m.pos = false)) ∧
    (∀ last ∈ [0, 8],
      let d := { unit [(F.FREE_RUN, [], 1), (F.POS_END, [], last)] with cad := { Cad.reset with joined := true } }
      Powered d ∧ d.cad.joined = true ∧ d.flag F.FREE_RUN = true ∧
        (last = 8 → d.pos.tick + 1 < d.get F.POS_END) ∧ (last = 0 → d.get F.POS_END ≤ d.pos.tick + 1)) := by
  unfold Powered; decide +kernel

theorem hyp_CadenceVoteWrite : Powered (unit []) ∧ Powered Dev.reset := by unfold Powered; decide +kernel

def aVote (phase : Nat) : VoteMsg := { epoch := 0, phase := phase, level := 0, step := 0, source := 3 * 128 + 9 }

theorem hyp_CadenceVotesAndParticipation :
    ∀ phase ∈ [0, 1], ∀ typ ∈ [tyVote, tyJoin, tyLeave], ∀ at' ∈ [(⟨0, 0, 7⟩ : Pos), ⟨0, 1, 0⟩],
    let d := { member [(F.CHAIN_ADDR_ID, [], 3), (F.CHAIN_ADDR, [], 1), (F.CAD_ROLE_NOW, [], roleMaster)] with
      cad := { Cad.reset with joined := true, issued := some (aTick at') } }
    let f := frame typ 0 1 (aVote phase).toWords
    let m := VoteMsg.ofWords f.data
    Powered d ∧ Arrives d 0 typ f ∧ m = aVote phase ∧ d.chainSource = true ∧ m.level = 0 ∧
      m.source / 128 = d.get F.CHAIN_ADDR_ID ∧ epochNewer (d.get F.EPOCH) m.epoch = false ∧
      (phase = 0 ↔ (m.epoch = d.cad.appliedEpoch ∧ m.step = d.pos.step ∧ m.phase = d.pos.phase ∧ d.cad.joined = true)) ∧
      (d.isMaster = true ∧ (d.cad.issued.map (fun i => (i.pos.step, i.pos.phase)) = some (m.step, m.phase) ↔ at'.phase = phase)) ∧
      Pos.lt ⟨d.pos.step, d.pos.phase, 0⟩ ⟨m.step, m.phase, 0⟩ = decide (phase = 1) := by
  unfold Powered Arrives; decide +kernel

theorem hyp_CadenceLoss :
    (let d := { unit [] with cad := { Cad.reset with joined := true } }
     Powered d ∧ d.cad.joined = true ∧ d.isMaster = false ∧ d.flag F.CAD_LOST = false) ∧
    (let d := unit [(F.FREE_RUN, [], 1)]
     Powered d ∧ d.flag F.FREE_RUN = true) := by
  unfold Powered; decide +kernel

def bidder (open' bidding : Bool) (best : Option (Nat × Nat)) : Dev :=
  { member [(F.RUN, [], 1), (F.CANDIDATE, [], 1)] with
    cad := { Cad.reset with joined := true, win := ⟨open', best, none, none, bidding⟩ } }

theorem hyp_CadenceElection :
    (let d := bidder true true (some (5, 77))
     let f := frame tyBid 0 bcast ({ epoch := 0, pos := ⟨0, 0, 0⟩, prio := 0, noPos := false, ident := 2 } : BidMsg).toWords
     let m := BidMsg.ofWords f.data
     Powered d ∧ Arrives d 0 tyBid f ∧ d.cad.win.isOpen = true ∧ d.cad.win.bidding = true ∧
       bidLower (m.prio, m.ident) (d.ownBid.prio, d.ident) = true) ∧
    (let d := bidder true true none
     Powered d ∧ d.bidsNow = true) ∧
    (let d := bidder true false (some (5, 77))
     Powered d ∧ d.bidsNow = false) ∧
    (let d := bidder true false (some (5, (bidder true false none).ident))
     Powered d ∧ d.cad.win.isOpen = true ∧ d.cad.win.best = some (5, d.ident) ∧ d.cad.win.bidding = false) ∧
    (let d := bidder false false none
     Powered d ∧ d.mayBid = true ∧ d.cad.seen = false ∧ d.cad.win.isOpen = false) ∧
    (∀ best ∈ [none, some ((bidder true true none).ownBid.prio, (bidder true true none).ident), some (0, 77)],
      let d := bidder true true best
      Powered d ∧ d.cad.win.isOpen = true ∧ d.cad.win.best = best ∧ d.ident ≠ 77) := by
  unfold Powered Arrives; decide +kernel

theorem hyp_CadenceHandover :
    (let d := masterAt ⟨4, 0, 3⟩ []
     Powered d ∧ d.isMaster = true) ∧
    (let d := bidder false false none
     let f := frame tyHandover 0 5 ({ aTick ⟨4, 0, 3⟩ with master := d.ident } : TickMsg).toWords
     Powered d ∧ Arrives d 0 tyHandover f ∧ d.mayBid = true ∧ d.isMaster = false ∧
       (TickMsg.ofWords f.data).master = d.ident ∧
       (d.cad.seen = true → epochNewer (d.get F.EPOCH) (TickMsg.ofWords f.data).epoch = false)) ∧
    (let d0 := masterAt ⟨4, 0, 3⟩ []
     let d := { d0 with cad := { d0.cad with handing := true } }
     Powered d ∧ d.isMaster = true ∧ d.cad.handing = true) := by
  unfold Powered Arrives; decide +kernel

/-! ### Alarms -/

def staging (action dev arg : Nat) : List (Fld × List Nat × Nat) :=
  [(F.AL_ACTION, [7], action), (F.AL_DEV_OWNED, [7], dev), (F.AL_ARG, [7], arg), (F.AL_OWNER, [7], 2)]

theorem hyp_AlarmArmDisarm :
    (let d := unit (staging 4 0 0)
     Powered d ∧ d.alarmAllowed (d.staged 7) = false) ∧
    (let d := unit (staging 0 0 0 ++ [(F.AL_TICK, [7], 1)])
     d.alarmAllowed (d.staged 7) = true ∧ d.targetPast (d.staged 7).target = false ∧ d.get F.AL_STATE [7] ≠ 2) ∧
    (let d := unit (staging 0 0 0)
     d.alarmAllowed (d.staged 7) = true ∧ d.targetPast (d.staged 7).target = true) ∧
    (unit [(F.AL_STATE, [255], 2)]).get F.AL_STATE [255] = 2 := by
  unfold Powered; decide +kernel

def aCopy (action arg : Nat) (dev : Bool) : AlarmCopy :=
  { step := 0, phase := 0, tick := 0, boundary := false, rep := false, action := action, owner := 2, devOwned := dev,
    notify := false, arg := arg }

def dispatching (late : Bool) (c : AlarmCopy) (l : List (Fld × List Nat × Nat)) : Dev :=
  { unit l with dispatch := [⟨7, late, c, false⟩], alarms := [(7, some c)] }

theorem mayDispatch_of {d : Dev} {x : Dispatch} {rest : List Dispatch}
    (h : d.pwr.off = 0 ∧ d.dispatch = x :: rest ∧ x.alarm < 256 ∧ d.get F.WARDEN_MODE ≠ 2 ∧ d.get F.WARDEN_MODE ≠ 3 ∧
      d.domAsleep 8 = false ∧ ((d.actionDomain x.copy).all fun t => !d.domAsleep t) = true) : MayDispatch d x rest := by
  obtain ⟨h1, h2, h3, h4, h5, h6, h7⟩ := h
  refine ⟨h1, h2, h3, h4, h5, h6, fun t ht => ?_⟩
  rw [ht] at h7
  simpa using h7

theorem hyp_AlarmNone :
    ∀ late ∈ [true, false], ∀ rep ∈ [true, false],
    let c := { aCopy 0 0 false with rep := rep, notify := true }
    let d := dispatching late c [(F.AL_STATE, [7], 2)]
    MayDispatch d ⟨7, late, c, false⟩ [] ∧ c.action = 0 ∧ Tab.get none d.alarms 7 = some c ∧ d.get F.AL_STATE [7] = 2 ∧ c.step < 2 ^ 48 - 1 ∧
      d.targetPast { c with step := c.step + 1 }.target = false := by
  have h : ∀ late ∈ [true, false], ∀ rep ∈ [true, false],
      let c := { aCopy 0 0 false with rep := rep, notify := true }
      let x : Dispatch := ⟨7, late, c, false⟩
      let d := dispatching late c [(F.AL_STATE, [7], 2)]
      (d.pwr.off = 0 ∧ d.dispatch = [x] ∧ x.alarm < 256 ∧ d.get F.WARDEN_MODE ≠ 2 ∧ d.get F.WARDEN_MODE ≠ 3 ∧
        d.domAsleep 8 = false ∧ ((d.actionDomain x.copy).all fun t => !d.domAsleep t) = true) ∧ c.action = 0 ∧
        Tab.get none d.alarms 7 = some c ∧ d.get F.AL_STATE [7] = 2 ∧ c.step < 2 ^ 48 - 1 ∧ d.targetPast { c with step := c.step + 1 }.target = false := by
    decide +kernel
  exact fun l hl r hr => ⟨mayDispatch_of (h l hl r hr).1, (h l hl r hr).2⟩

/-- The hypotheses of MayDispatch, as a check. -/
def mayDo (d : Dev) (c : AlarmCopy) : Bool :=
  decide (d.pwr.off = 0 ∧ d.dispatch = [⟨7, false, c, false⟩] ∧ d.get F.WARDEN_MODE ≠ 2 ∧ d.get F.WARDEN_MODE ≠ 3 ∧
    d.domAsleep 8 = false) && (d.actionDomain c).all fun t => !d.domAsleep t

theorem hyp_AlarmActions :
    (let c := aCopy 1 (16 + 9 * 2 ^ 16) true
     let k := c.queueKey
     let d := dispatching false c [(F.Q_STATE, qix k, qENABLED), (F.SQ_LOG, qix k, 4)]
     mayDo d c = true ∧ c.action = 1 ∧ d.alarmHolds c = true ∧ d.hostShut = false ∧ (d.queue k).enabling = false ∧
       d.qState k = qENABLED ∧ (d.queue k).home = none ∧ idxSub (d.qP k) (d.qH k) ≤ idxSub (bitsOf c.arg 0 16) (d.qH k) ∧
       idxSub (bitsOf c.arg 0 16) (d.qH k) = d.sqSize k ∧ k < 2048 ∧ k % 32 < 20) ∧
    (let c := aCopy 1 (16 + 9 * 2 ^ 16) false
     mayDo (dispatching false c []) c = true ∧ c.action = 1 ∧ (dispatching false c []).alarmHolds c = false) ∧
    (∀ v ∈ [7, 16, 2047], let c := aCopy 6 v true
     mayDo (dispatching false c []) c = true ∧ c.action = 6 ∧ c.devOwned = true ∧ ¬(8 ≤ bitsOf c.arg 0 11 ∧ bitsOf c.arg 0 11 < 16)) ∧
    (let c := aCopy 4 0x40 true
     mayDo (dispatching false c []) c = true ∧ c.action = 4 ∧ bitsOf c.arg 0 16 = 0x40) := by
  decide +kernel

theorem hyp_AlarmStewardActions :
    (let c := aCopy 3 (2 + 9 * 256) true
     let d := dispatching false c []
     mayDo d c = true ∧ c.action = 3 ∧ d.reqRefused (bitsOf c.arg 0 3) (bitsOf c.arg 8 8) = true) ∧
    (let c := aCopy 3 (10 * 256) true
     mayDo (dispatching false c []) c = true ∧ c.action = 3 ∧ bitsOf c.arg 0 3 = stRun ∧ bitsOf c.arg 8 8 = 10) ∧
    (let c := aCopy 3 (1 + 5 * 256) true
     let d := dispatching false c [(F.DIE_PRESENT, [], 255)]
     mayDo d c = true ∧ c.action = 3 ∧ d.reqRefused (bitsOf c.arg 0 3) (bitsOf c.arg 8 8) = false ∧ bitsOf c.arg 8 8 = 5 ∧
       AtRest d 5 stRun ∧ stRun < stOff ∧ stRun ≠ bitsOf c.arg 0 3 ∧
       ¬(bitsOf c.arg 0 3 = stRun ∧ d.get F.DOM_FLOOR [bitsOf c.arg 8 8] = 1)) ∧
    (∀ st ∈ [pENABLED, pDISABLED],
      let c := aCopy 5 (63 + 15 * 256) true
      let d := dispatching false c [(F.P_STATE, [63], st)]
      mayDo d c = true ∧ c.action = 5 ∧ d.setCause 63 (d.slotReg 63 15) pENABLED = if st = pENABLED then none else some cSTATE) ∧
    (let c := aCopy 2 (5 + 16383 * 8) true
     let d0 := dispatching false c [(F.ACT_SCREE_GROUPS, [63, 5], 16383 + 2 ^ 16)]
     let d := d0.updGroup 5 16383 fun r => { r with stB := fcVALID }
     mayDo d c = true ∧ c.action = 2 ∧ d.alarmHolds c = true ∧
       d.swapSet (fun g => d.groupOwner 5 g == d.groupOwner 5 16383) 5 16383 16384 ≠ []) ∧
    (let c := aCopy 2 5 false
     let d := dispatching false c []
     mayDo d c = true ∧ c.action = 2 ∧ d.alarmHolds c = false) := by
  unfold AtRest; decide +kernel

/-! ### The chain -/

/-- A HELLO's, UNWRAP's or BREAK's first word: address, chain id, port. -/
def ringWord (addr chain port : Nat) : Word := BitVec.ofNat 32 (addr + chain * 256 + port * 65536)

theorem hyp_ChainForwarding :
    (∀ hops ∈ [251, 252], ∀ down ∈ [pDown, pUp],
      let d := member [(F.D_STATE, [], down)]
      let f := { frame tyEvent 2 99 [0] with hops := hops }
      Powered d ∧ f.crcOk = true ∧ f.bad = false ∧ f.typ ≠ tyRing ∧ d.carries 0 = true ∧ f.typ ≠ tyEnum ∧ f.dst ≠ bcast ∧
        f.dst ≠ d.get F.CHAIN_ADDR ∧ ¬(0 = portD ∧ d.uUp = true) ∧ (f.hops < 252 ↔ hops = 251) ∧ (d.dUp = true ↔ down = pUp) ∧
        (d.carries portD = true ↔ down = pUp) ∧ d.uUp = true) ∧
    ({ frame tyEvent 2 99 [0] with len := 61 }).bad = true := by
  unfold Powered; decide +kernel

theorem hyp_ChainPortStates :
    (∀ port ∈ [0, 1], ∀ st ∈ [pDown, pTrain, pUp],
      let state := if port = 0 then F.U_STATE else F.D_STATE
      let d := unit [(state, [], st)]
      Powered d ∧ d.get state = st) ∧
    (∀ port ∈ [0, 1], ∀ sub ∈ [1, 3], ∀ from' ∈ [0, 1],
      let f := frame tyRing sub 0 [ringWord 126 255 from']
      f.crcOk = true ∧ f.bad = false ∧ f.typ = tyRing ∧ f.sub = sub ∧ (bitsOf (wordAt f.data 0) 16 1 ≠ port ↔ from' ≠ port)) ∧
    (unit [(F.U_STATE, [], pHoldoff)]).get F.U_STATE = pHoldoff := by
  unfold Powered; decide +kernel

theorem hyp_ChainBreakAndRejoin :
    (∀ port ∈ [0, 1], let d := member []; Powered d ∧ d.portState port ≠ pDown) ∧
    (let d := member [(F.D_STATE, [], pHoldoff)]
     Powered d ∧ d.get F.D_STATE = pHoldoff) ∧
    (let d := member [(F.U_STATE, [], pDrain)]
     Powered d ∧ d.get F.U_STATE = pDrain) := by
  unfold Powered; decide +kernel

def anEnum (pass resends : Nat) : EnumRun := ⟨pass, resends, []⟩

theorem hyp_ChainEnumerationStarts :
    (∀ up ∈ [pDown, pUp], ∀ last ∈ [none, some 0],
      let d0 := unit [(F.CHAIN_HEAD, [], 1), (F.CHAIN_ADDR, [], 1), (F.D_STATE, [], up), (F.U_STATE, [], up)]
      let d := { d0 with now := 25000, chain := { d0.chain with lastStart := last, queued := true } }
      Powered d ∧ d.get F.CHAIN_HEAD = 1 ∧ d.chain.enum = none ∧ d.chain.queued = true ∧
        (d.chain.lastStart = none ∨ (last = some 0 ∧ 0 + 25000 ≤ d.now)) ∧
        (up = pUp → ∀ sub ∈ [1, 4], Arrives d 0 tyEvent (frame tyEvent sub 1 [0]))) ∧
    (∀ resends ∈ [7, 8],
      let d0 := unit [(F.CHAIN_HEAD, [], 1)]
      let d := { d0 with chain := { d0.chain with enum := some (anEnum 0 resends) } }
      Powered d ∧ d.get F.CHAIN_HEAD = 1 ∧ d.chain.enum ≠ none ∧ d.chain.enum = some (anEnum 0 resends)) := by
  unfold Powered Arrives; decide +kernel

def enumerated (sticky : Option (Nat × Nat)) (claimed : Option (Nat × Nat × Nat)) : Dev :=
  let d := member [(F.CHAIN_HEAD, [], 0), (F.PREF_EN, [], 1), (F.PREF_ADDR, [], 126)]
  { d with chain := { d.chain with sticky := sticky, claimed := claimed, changed := true } }

/-- An enumeration token: chain id 3, assign pass or not, GEN 7, a serial, and who is taken. -/
def token (assign : Bool) (taken : List Word) : List Word :=
  BitVec.ofNat 32 (3 + (if assign then 256 else 0) + 7 * 65536) :: 0x11 :: 0 :: taken

def enumFrame (assign : Bool) (taken : List Word) : Frame := frame tyEnum 0 0 (token assign taken)

theorem hyp_ChainAddresses :
    (∀ assign ∈ [true, false], ∀ taken ∈ [[0, 0, 0, 0], [0xFFFFFFFF, 0xFFFFFFFF, 0xFFFFFFFF, (0xFFFFFFFF : Word)]],
      let d := enumerated (some (9, 3)) none
      let f := enumFrame assign taken
      Powered d ∧ EnumArrives d 0 f ∧ bitAt (wordAt f.data 0) 8 = assign ∧ bitsOf (wordAt f.data 0) 0 8 = 3 ∧
        bitAt (tokenTaken f.data) 9 = (taken != [0, 0, 0, 0]) ∧
        (((List.range 127).drop 1).find? fun a => !bitAt (tokenTaken f.data) a) =
          (if taken = [0, 0, 0, 0] then some 1 else none) ∧
        (enumerated none none).prefAddr = some 126) ∧
    (let f := enumFrame true [0, 0, 0, 0]
     let d := enumerated none (some (126, (tokenSerial f.data, bitsOf (wordAt f.data 0) 16 8)))
     d.chain.claimed = some (126, (tokenSerial f.data, 7))) ∧
    (unit [(F.PREF_EN, [], 1)]).prefAddr = none ∧
    (let d := unit [(F.D_STATE, [], pUp)]
     d.get F.CHAIN_ADDR = 0 ∧ d.chain.assigned = false ∧ d.dUp = true) ∧
    (let f := frame tyEvent 2 bcast [0]
     Arrives (enumerated none none) 0 tyEvent f ∧ f.sub = 2 ∧ (enumerated none none).chain.changed = true ∧
       Arrives (member []) 0 tyEvent f ∧ (member []).chain.changed = false) := by
  unfold Powered EnumArrives Arrives
  refine ⟨?_, ?_, ?_, ?_, ?_⟩ <;> decide +kernel

theorem hyp_ChainEvents :
    (∀ sub ∈ [3, 6, 5, 7, 8, 9], ∀ from' ∈ [0, 1],
      let d0 := member [(F.CAD_ROLE_NOW, [], roleMaster)]
      let d := { d0 with cad := { d0.cad with unitPart := [9] } }
      let f := frame tyEvent sub bcast [ringWord from' 126 0]
      Powered d ∧ Arrives d 0 tyEvent f ∧ f.sub = sub ∧ f.src < 128 ∧ d.chainSource = true ∧ f.src ∈ d.cad.unitPart ∧
        (bitsOf (wordAt f.data 0) 0 1 = portD ↔ from' = 1)) ∧
    (∀ sub ∈ [1, 2, 3], Arrives (member []) 0 tyPower (frame tyPower sub 5 [0xFFFF])) ∧
    (let d := member [(F.PWR_REPORT_DST, [], 1), (F.PWR_REPORT_MS, [], 10)]
     d.get F.PWR_REPORT_DST ≠ 0 ∧ d.get F.PWR_REPORT_MS ≠ 0 ∧ d.get F.CHAIN_ADDR ≠ 0 ∧ d.dUp = true) := by
  unfold Powered Arrives; decide +kernel

theorem hyp_ChainMailboxes :
    (∀ dst ∈ [0, 9, 127], ∀ write ∈ [0, 1],
      let d := member [(F.MB_DST, [3], dst), (F.MB_WRITE, [3], write)]
      Powered d ∧ d.get F.MB_STATE [3] ≠ 1 ∧ d.get F.MB_DST [3] = dst ∧ d.get F.MB_WRITE [3] = write ∧ d.get F.CHAIN_ADDR ≠ 0 ∧
        d.dUp = true) ∧
    (∀ write ∈ [0, 1],
      let d := member [(F.MB_DST, [3], 9), (F.MB_WRITE, [3], write), (F.MB_STATE, [3], 1), (F.MB_COUNT, [3], 15)]
      let typ := if write = 0 then tyRdRsp else tyWrRsp
      let f := { frame typ 0 5 [0] with tag := 3 }
      Powered d ∧ d.get F.MB_STATE [3] = 1 ∧ Arrives d 0 typ f ∧ f.dst ≠ bcast ∧ f.tag = 3 ∧ d.get F.MB_DST [3] = f.src ∧
        d.get F.MB_WRITE [3] = write ∧ bitsOf (wordAt f.data 0) 0 4 = stOK) := by
  unfold Powered Arrives; decide +kernel

/-! ### Registers -/

/-- A unit that has come up: READY, with every die. -/
def ready (l : List (Fld × List Nat × Nat)) : Dev := unit ([(F.BOOT_STAGE, [], 9), (F.DIE_PRESENT, [], 255)] ++ l)

theorem hyp_RegisterWriteByType :
    (let d := ready []
     Powered d ∧ (∀ n, Req.pf ≠ .vf n) ∧ ∀ off ∈ [F.PHASE_LAST.off [], F.LOST_EV.off []],
       off % 4 = 0 ∧ MayWrite d .pf off off ∧ plainReg off = true ∧ isLo off = false ∧ isHi off = false ∧
         fieldsApart off = true ∧ (fieldsAt off).isEmpty = false ∧ queueCfg off = none) ∧
    (∀ st ∈ [qDISABLED, qENABLED],
      let k := 2016
      let a := F.VECTOR.off (qix k)
      let d := ready [(F.Q_STATE, qix k, st), (F.VF_OWNED_HI, [], 2 ^ 31)]
      Served d (.vf 64) (a - 0x8FC000) a ∧ vfWrites (a - 0x8FC000) = true ∧ MayWrite d (.vf 64) (a - 0x8FC000) a ∧
        (fieldsAt a).isEmpty = false) ∧
    (∀ st ∈ [qDISABLED, qENABLED],
      let k := 2016
      let a := F.SQ_BASE_LO.off (qix k)
      let d := ready [(F.Q_STATE, qix k, st)]
      Served d .pf a a ∧ queueCfg a = some k ∧ (fieldsAt a).isEmpty = false ∧ (d.queue k).enabling = false ∧ d.get F.Q_STATE (qix k) = st) ∧
    (let d := ready [(F.VF_OWNED_HI, [], 2 ^ 31)]
     Served d (.vf 64) 0x900 0x8FC900 ∧ vfWrites 0x900 = false ∧ ¬(0x3800 ≤ 0x900 ∧ 0x900 < 0x3A00)) ∧
    (∃ x ∈ fieldsAt (F.AL_ACTION.off [0]), (x.1.ty = .rw ∨ x.1.ty = .sh) ∧ x.1.rsv.bad (bitsOf 15 x.1.lo x.1.w) = true) ∧
    (let d := unit [(F.BOOT_STAGE, [], 9)]
     d.accessOff .pf 0x2000000 = some 0x2000000 ∧ d.gate 0x2000000 = .dead ∧ Powered d) := by
  unfold Powered MayWrite Served
  refine ⟨⟨by decide +kernel, by intro n; simp, ?_⟩, ?_, by decide +kernel, by decide +kernel, by decide +kernel, by decide +kernel⟩
  · intro off h
    have h' : ∀ off ∈ [F.PHASE_LAST.off [], F.LOST_EV.off []],
        off % 4 = 0 ∧ ((ready []).accessOff .pf off = some off ∧ (ready []).vfMsix .pf off = none ∧ (ready []).gate off = .serve) ∧
          plainReg off = true ∧ isLo off = false ∧ isHi off = false ∧ fieldsApart off = true ∧ (fieldsAt off).isEmpty = false ∧
          queueCfg off = none := by decide +kernel
    obtain ⟨h1, h2, h3⟩ := h' off h
    exact ⟨h1, ⟨h2, by intro n; simp⟩, h3⟩
  · intro st h
    have h' : ∀ st ∈ [qDISABLED, qENABLED],
        let k := 2016
        let a := F.VECTOR.off (qix k)
        let d := ready [(F.Q_STATE, qix k, st), (F.VF_OWNED_HI, [], 2 ^ 31)]
        (d.accessOff (.vf 64) (a - 0x8FC000) = some a ∧ d.vfMsix (.vf 64) (a - 0x8FC000) = none ∧ d.gate a = .serve) ∧
          vfWrites (a - 0x8FC000) = true ∧ (fieldsAt a).isEmpty = false := by decide +kernel
    obtain ⟨h1, h2, h3⟩ := h' st h
    exact ⟨h1, h2, ⟨h1, fun _ _ => h2⟩, h3⟩

theorem hyp_RegisterPairs :
    (∀ off ∈ [F.PHASE_LAST.off [], F.BOOT_IMG_ADDR_HI.off []],
      let d := { ready [] with caps := [(capKey .pf off, some 3)] }
      Powered d ∧ off % 4 = 0 ∧ Served d .pf off off ∧ isLo off = false ∧
        Tab.get none d.caps (capKey .pf off) = some 3 ∧ Tab.get none (ready []).caps (capKey .pf off) = none) ∧
    (let off := F.BOOT_IMG_ADDR_LO.off []
     let d := { ready [] with held := [(capKey .pf off, some 7)] }
     Powered d ∧ off % 4 = 0 ∧ Served d .pf off off ∧ Served d .pf (off + 4) (off + 4) ∧ plainReg off = true ∧
       plainReg (off + 4) = true ∧ isLo off = true ∧ isLo (off + 4) = false ∧ isHi (off + 4) = true ∧
       Tab.get none d.held (capKey .pf off) = some 7 ∧ Tab.get none (ready []).held (capKey .pf off) = none) ∧
    (∀ d off a, Served d .pf off a → MayWrite d .pf off a) := by
  unfold Powered MayWrite Served
  exact ⟨by decide +kernel, by decide +kernel, fun _ _ _ h => ⟨h, by intro n; simp⟩⟩

theorem hyp_CommitCopiesShadow :
    ∀ mode ∈ [0, 1, 3], ∀ block ∈ [0, 1],
    let d := unit [(F.WARDEN_MODE, [], mode)]
    Powered d ∧ block < 2 ∧ d.get F.WARDEN_MODE = mode ∧ d.get F.WARDEN_MODE ≠ 2 ∧ d.domAsleep 8 = false := by
  unfold Powered; decide +kernel

theorem hyp_ChainRegisterAccess :
    let d := { member [(F.BOOT_STAGE, [], 9), (F.DIE_PRESENT, [], 255)] with caps := [] }
    ∀ typ ∈ [tyRdReq, tyWrReq],
    let off := F.PHASE_LAST.off []
    let f := frame typ 0 5 [BitVec.ofNat 32 off, 0, 0xFFFFFFFF]
    Powered d ∧ f.dst ≠ bcast ∧ d.dUp = true ∧ d.chainJudge f = .ok stOK ∧ bitsOf (wordAt f.data 1) 0 4 = 0 ∧
      4 * bitsOf (wordAt f.data 0) 2 24 = off ∧ d.gate off = .serve ∧ Arrives d 0 typ f ∧ plainReg off = true ∧
      isLo off = false ∧ isHi off = false ∧ Tab.get none d.caps (capKey (.chain f.src) off) = none := by
  have h : let d := { member [(F.BOOT_STAGE, [], 9), (F.DIE_PRESENT, [], 255)] with caps := [] }
    ∀ typ ∈ [tyRdReq, tyWrReq],
    let off := F.PHASE_LAST.off []
    let f := frame typ 0 5 [BitVec.ofNat 32 off, 0, 0xFFFFFFFF]
    (match d.chainJudge f with | .ok s => s == stOK | .error _ => false) = true ∧
    d.pwr.off = 0 ∧ f.dst ≠ bcast ∧ d.dUp = true ∧ bitsOf (wordAt f.data 1) 0 4 = 0 ∧
      4 * bitsOf (wordAt f.data 0) 2 24 = off ∧ d.gate off = .serve ∧ plainReg off = true ∧
      isLo off = false ∧ isHi off = false ∧ Tab.get none d.caps (capKey (.chain f.src) off) = none := by decide +kernel
  intro d typ ht off f
  obtain ⟨h0, h1, h2, h3, h4, h5, h6, h7, h8, h9, h10⟩ := h typ ht
  refine ⟨h1, h2, h3, ?_, h4, h5, h6, ?_, h7, h8, h9, h10⟩
  · revert h0
    cases d.chainJudge f with
    | ok s => intro h; rw [beq_iff_eq.mp h]
    | error e => intro h; simp at h
  · unfold Arrives
    revert typ
    decide +kernel

/-! ### Queues and the host -/

/-- Queue `k` in a state, with its ring sizes, and what it holds beyond its registers; the host is there. -/
def queued (k st : Nat) (q : Queue) (l : List (Fld × List Nat × Nat)) : Dev :=
  let d := unit ([(F.Q_STATE, qix k, st), (F.SQ_LOG, qix k, 4), (F.CQ_LOG, qix k, 4)] ++ l)
  { d with queues := [(k, q)], host := { d.host with bme := [(0, true)], linkDown := false } }

theorem hyp_QueueDoorbells :
    (∀ st ∈ [qENABLED, qHALTED], ∀ v ∈ [65535, 15, 16],
      let d := queued 2035 st Queue.reset [(F.Q_HEAD, qix 2035, 65535), (F.Q_PROD, qix 2035, 65535), (F.Q_TAIL, qix 2035, 8),
        (F.Q_CQ_HEAD, qix 2035, 65528)]
      queueOk 2035 = true ∧ d.doorbellAt .pfDb (63 * 0x1000 + 0x130) = some (true, 2035) ∧
        d.doorbellAt .pfDb (63 * 0x1000 + 0x530) = some (false, 2035) ∧ d.hostShut = false ∧ (d.queue 2035).enabling = false ∧ d.qState 2035 = st ∧
        (d.queue 2035).home = none ∧ idxSub (d.qP 2035) (d.qH 2035) ≤ idxSub v (d.qH 2035) ∧
        (idxSub v (d.qH 2035) ≤ d.sqSize 2035 ↔ v ≠ 16) ∧
        idxSub (d.qT 2035) 8 ≤ idxSub (d.qT 2035) (d.qK 2035) ∧ idxSub (d.qT 2035) (d.qK 2035) < idxSub (d.qT 2035) 65527) ∧
    (let d := queued 0 0 { Queue.reset with enabling := true } []
     Powered d ∧ (d.queue 0).enabling = true) ∧
    (let d := queued 2035 qDISABLED Queue.reset [(F.VF_OWNED_HI, [], 2 ^ 31)]
     (d.queue 2035).enabling = false ∧ d.qState 2035 = qDISABLED ∧ Req.isDoorbell (.vfDb 64) = true ∧
       d.doorbellAt (.vfDb 64) 0x130 = some (true, 2035) ∧ d.doorbellAt (.vfDb 64) 0x530 = some (false, 2035)) := by
  unfold Powered; decide +kernel

/-- A descriptor of a kind, with a length and flags. -/
def aDesc (kind flags len index : Nat) : Desc :=
  ⟨index, false, BitVec.ofNat 32 (kind + flags * 16) :: BitVec.ofNat 32 len :: List.replicate 14 0⟩

theorem hyp_QueueDescriptors :
    (let d := queued 3 qENABLED Queue.reset [(F.Q_PROD, qix 3, 1)]
     let x := d.hostHolds (d.descAddr 3) ((List.replicate 64 0).take 64)
     Powered d ∧ queueOk 3 = true ∧ d.qState 3 = qENABLED ∧ (d.queue 3).readFailed = false ∧ d.qH 3 ≠ d.qP 3 ∧
       (d.queue 3).ahead.length < 16 ∧ d.qBus 3 = true ∧ x.hostBad (d.descAddr 3) 64 = false) ∧
    (∀ y ∈ [aDesc 1 0 16777208 0, aDesc 2 0 40 0, aDesc 3 4 0 0, aDesc 2 0 44 0, aDesc 0 0 0 0],
      let d := queued 3 qENABLED { Queue.reset with ahead := [y] } []
      (d.queue 3).ahead = [y] ∧ d.startsHeld = false ∧ d.homeSleeps 3 = false ∧ d.qBus 3 = true ∧ (d.queue 3).run.all Run.done = true ∧ y.failed = false ∧
        d.cqSpace 3 y.index = true ∧ (bitAt (wordAt y.words 0) 6 = true → d.qT 3 = y.index) ∧ (y.bad = (y == aDesc 2 0 44 0 || y == aDesc 0 0 0 0)) ∧
        (bitsOf (wordAt y.words 0) 0 4 = 1 → bitAt (wordAt y.words 0) 4 = false)) ∧
    (let r := Run.start (aDesc 1 0 16 0) [] true
     let d := queued 3 qENABLED { Queue.reset with run := some r } []
     let x := d.hostHolds (wordAt r.words 2 + 2 ^ 32 * wordAt r.words 3) []
     (d.queue 3).run = some r ∧ r.listPending = true ∧ d.qBus 3 = true ∧ x.hostBad 0 16 = false) := by
  unfold Powered; decide +kernel

theorem hyp_QueueCompletions :
    (∀ stop ∈ [none, some (stFAULT, 1)], ∀ st ∈ [qENABLED, qHALTED],
      let r := { Run.start (aDesc 2 0 8 0) [] false with stop := stop }
      let d := queued 3 st { Queue.reset with run := some r } []
      Powered d ∧ queueOk 3 = true ∧ d.qBus 3 = true ∧ (d.queue 3).run = some r ∧ (d.queue 3).ended = [] ∧ r.listPending = false ∧
        r.cmd = none ∧ r.list = [] ∧ d.qState 3 = st) ∧
    (∀ st ∈ [qENABLED, qHALTED],
      let r := Run.start (aDesc 2 0 8 0) [] false
      let d := queued 3 st { Queue.reset with run := some r, ended := [r] } []
      d.qBus 3 = true ∧ (d.queue 3).ended = [r] ∧ d.qState 3 = st) ∧
    (let y := { aDesc 0 0 0 0 with failed := true }
     let d := queued 3 qENABLED { Queue.reset with ahead := [y] } []
     (d.queue 3).ahead = [y] ∧ d.qState 3 = qENABLED ∧ y.failed = true ∧ (d.queue 3).run = none ∧
       (d.queue 3).ended = [] ∧ d.cqSpace 3 y.index = true) ∧
    (let d := queued 3 qENABLED { Queue.reset with unannounced := 1 } [(F.IRQ_EN, qix 3, 1)]
     d.flag F.IRQ_EN (qix 3) = true ∧ 0 < (d.queue 3).unannounced) := by
  unfold Powered; decide +kernel

/-- Partition 63 is ENABLED with one Summit engine on die 0 and one queue slot of class 0. -/
def enabling (sq : Nat) : Dev :=
  let d := queued 2016 0 Queue.reset [(F.P_STATE, [63], pENABLED), (F.VECTOR, qix 2016, 16), (F.SQ_LOG, qix 2016, sq),
    (F.DIE_PRESENT, [], 255)]
  (d.setReg (0x800900 + 0x4000 * 63) 1).setReg (0x800900 + 0x4000 * 63 + 0x0C) 1

theorem hyp_QueueStates :
    (∀ sq ∈ [3, 4],
      let d := enabling sq
      let home := (placeDie d.dieIsLost (d.actReg 63) 0).bind fun x => (d.freeCore x).map fun c => (x, c)
      Powered d ∧ queueOk 2016 = true ∧ d.qIdle 2016 = true ∧ home = some (0, 0) ∧
        ((4 ≤ d.get F.SQ_LOG (qix 2016) ∧ 4 ≤ d.get F.CQ_LOG (qix 2016) ∧ d.get F.P_STATE [63] = pENABLED ∧
          d.vectorOk 2016 = true ∧ 2016 % 4 < qslotOf (d.actReg 63) 0) ↔ sq = 4)) ∧
    (∀ dis ∈ [true, false],
      let d := queued 3 0 { Queue.reset with enabling := true, heldDisable := dis } []
      (d.queue 3).enabling = true ∧ (d.queue 3).heldDb = [] ∧ (d.queue 3).heldDisable = dis) ∧
    (∀ st ∈ [qENABLED, qHALTED],
      let d := queued 3 st Queue.reset []
      (d.queue 3).enabling = false ∧ d.qState 3 = st) ∧
    (let d := queued 3 qDISABLING { Queue.reset with cut := some 1 } [(F.Q_TAIL, qix 3, 0)]
     d.qState 3 = qDISABLING ∧ (d.queue 3).cut = some 1 ∧ (d.queue 3).run = none ∧ (d.queue 3).ended = [] ∧ d.qBus 3 = true ∧
       ∀ j < idxSub 1 (d.qT 3), d.cqSpace 3 ((d.qT 3 + j) % 65536) = true) := by
  unfold Powered; decide +kernel

theorem hyp_HostFunctions : Powered (unit []) ∧ (∀ vf ∈ [1, 64], 1 ≤ vf ∧ vf ≤ 64) := by unfold Powered; decide +kernel

theorem hyp_HostLink :
    let d := queued 0 0 Queue.reset []
    Powered d ∧ d.host.linkDown = false ∧ d.get F.PF_D3HOT = 0 ∧
      (let e := { Dev.reset with boot := { Boot.reset with hostUp := true } }
       e.boot.hostUp = true ∧ e.host.linkDown = true) := by
  unfold Powered; decide +kernel

/-! ### Partitions and memory -/

theorem hyp_PartitionSets :
    (∀ st ∈ [pDISABLED, pENABLED],
      let d := unit [(F.P_STATE, [63], st)]
      Powered d ∧ d.get F.WARDEN_MODE ≠ 2 ∧ d.get F.WARDEN_MODE ≠ 3 ∧ d.domAsleep 8 = false ∧
        d.setCause 63 (d.slotReg 63 (d.get F.P_SLOT [63])) st = none) ∧
    (∀ st ∈ [pDISABLED, pENABLED],
      let d := unit [(F.P_STATE, [0], pSCRUBBING)]
      d.setCause 0 (d.slotReg 0 (d.get F.P_SLOT [0])) st = some cSTATE) := by
  unfold Powered; decide +kernel

theorem hyp_PartitionRelease :
    let g : Res := ⟨5, 5, 47, 1⟩
    let d := { unit [(F.ACT_ZERO_ON_MOVE, [63], 1)] with
      parts := [(63, { Part.reset with releasing := [g], grand := [(2016, 0)], zeroing := [g] })] }
    Powered d ∧ (d.part 63).releasing ≠ [] ∧ (∀ c ∈ (d.part 63).grand, c ∉ d.runningChunks 63) ∧
      (∀ r ∈ (d.part 63).zeroing, d.scrubCheck r.die kWrite (r.die * 2 ^ 32 + r.idx * 2 ^ 26) (2 ^ 26) = none) ∧
      (let e := { unit [(F.GR_EN, [0], 1), (F.GR_BASE_HI, [0], 5), (F.GR_TOP_HI, [0], 6)] with parts := d.parts }
       ∃ r ∈ (e.part 63).zeroing, e.scrubCheck r.die kWrite (r.die * 2 ^ 32 + r.idx * 2 ^ 26) (2 ^ 26) ≠ none) := by
  unfold Powered; decide +kernel

theorem hyp_PartitionDisabling :
    (let d := { unit [(F.P_STATE, [63], pENABLED), (F.Q_STATE, [63, 19], qENABLED), (F.AL_STATE, [255], 1)] with
      alarms := [(255, some ⟨0, 0, 0, false, false, 0, 63, false, false, 0⟩)] }
     Powered d ∧ d.domAsleep 8 = false ∧ d.get F.P_STATE [63] = pENABLED ∧ (d.queue (qkey 63 19)).enabling = false ∧
       d.qState (qkey 63 19) = qENABLED ∧ d.get F.AL_STATE [255] = 1) ∧
    (let d := unit [(F.P_STATE, [63], pDISABLING)]
     d.get F.P_STATE [63] = pDISABLING ∧ (∀ i < 20, d.qIdle (qkey 63 i) = true) ∧ d.runningChunks 63 = []) := by
  unfold Powered; decide +kernel

theorem hyp_PartitionScrub :
    (∀ st ∈ [pENABLED, pDISABLING, pSCRUBBING],
      let d := { unit [(F.P_STATE, [63], st)] with parts := [(63, { Part.reset with prior := pENABLED, scrub := [⟨5, 5, 47, 1⟩] })] }
      Powered d ∧ d.domAsleep 8 = false ∧ d.get F.P_STATE [63] = st ∧ (d.part 63).prior = pENABLED ∧
        (∀ r ∈ (d.part 63).scrub, r.kind = 5 → d.scrubCheck r.die kWrite (r.die * 2 ^ 32 + r.idx * 2 ^ 26) (2 ^ 26) = none) ∧
        ∀ i < 20, d.qIdle (qkey 63 i) = true) ∧
    (let d := unit [(F.P_STATE, [63], pENABLED), (F.Q_STATE, [63, 19], qHALTED)]
     d.get F.P_STATE [63] = pENABLED ∧ d.qIdle (qkey 63 19) = false) := by
  unfold Powered; decide +kernel

theorem hyp_ExternalLayout :
    (∀ busy ∈ [0, 1], ∀ st ∈ [pDISABLED, pENABLED],
      let d := unit [(F.EXT_BUSY, [], busy), (F.P_STATE, [63], st)]
      Powered d ∧ d.get F.EXT_BUSY = busy ∧ d.get F.P_STATE [63] = st ∧ ∀ p < 63, d.get F.P_STATE [p] ≠ pENABLED) ∧
    (∀ mode ∈ [0, 1, 2, 3],
      let cards := (List.range 12).flatMap fun p => [(F.XP_PRESENT, xpIx p, 1), (F.XP_CAP_GIB, xpIx p, 64)]
      let d0 := unit cards
      let d := { d0 with ext := { d0.ext with applying := some (mode, true) } }
      d.ext.applying = some (mode, true) ∧ d.get F.BOOT_STAGE ≠ 8 ∧
        ∀ p < 12, (if d.get F.XP_PRESENT [p / 2, p % 2] = 1 then d.get F.XP_CAP_GIB [p / 2, p % 2] else 0) ≠ 0) := by
  unfold Powered; decide +kernel

theorem hyp_MemoryUpkeep :
    (∀ die ∈ [0, 5, 6, 7],
      let d := unit [(F.DIE_PRESENT, [], 255), (if die < 6 then F.PATROL_EN else F.SRAM_PATROL_EN, [if die < 6 then die else die - 6], 1)]
      Powered d ∧ d.get (if die < 6 then F.PATROL_EN else F.SRAM_PATROL_EN) [if die < 6 then die else die - 6] = 1 ∧
        d.dieGone die = false ∧ d.get F.DOM_STATE [die] ≠ stKeep ∧ d.hostShut = false ∧ Tab.get false d.pauses 3 = false ∧
        d.scrubCheck die kRead (die * 2 ^ 32) 64 = none) ∧
    (unit [(F.GR_EN, [0], 1), (F.GR_BASE_HI, [0], 5), (F.GR_TOP_HI, [0], 6)]).scrubCheck 5 kRead (5 * 2 ^ 32) 64 ≠ none ∧
    (let d := unit [(F.XP_PRESENT, xpIx 11, 1), (F.XP_LINK_UP, xpIx 11, 1)]
     d.get F.XP_PRESENT (xpIx 11) = 1 ∧ d.get F.XP_LINK_UP (xpIx 11) = 1) := by
  unfold Powered; decide +kernel

/-! ### Resets, bring-up and shut-down -/

theorem hyp_Resets :
    (∀ off ∈ [1, 3], { Dev.reset with pwr := { Pwr.reset with off := off } }.pwr.off = off) ∧
    (∀ b ∈ [[(F.BOOT_STAGE, [], 9)], [(F.WARDEN_MODE, [], 2)], [(F.BOOT_ERR, [], 2)]],
      let d := { unit b with now := oneMs, warden := { Warden.reset with arm := some (3, 0) } }
      Powered d ∧ d.warden.arm = some (3, 0) ∧ d.now ≤ 0 + oneMs ∧
        (d.get F.BOOT_STAGE = 9 ∨ d.get F.WARDEN_MODE = 2 ∨ d.get F.BOOT_ERR ≠ 0)) := by
  unfold Powered; decide +kernel

def aBoard : BoardBlock := { rails := List.replicate 14 0, ports := List.replicate 12 0, extMode := 0, extIg := false, waitMs := 0, noDefaultPart := true, portsEarly := false }

/-- A boot image with the board block of `aBoard` and two empty firmware sections, of which the first is sound when `fw` is (20 Tables
20.3, 20.4). -/
def flash (fw : Bool) : List Byte :=
  let board : List Byte := List.replicate 84 0 ++ [1]
  let h := [0x4A4F5753, 1, 64, 85, crc32c board, 64, 0, crc32c [] + (if fw then 0 else 1), 64, 0, crc32c [], 0, 0, 0, 0].flatMap fun v => leBytes v 4
  h ++ leBytes (crc32c h) 4 ++ board

def answers (boot : Nat) (image : List Byte) (plugged : Nat) : BringAns :=
  { head := true, chainId := 1, boot := boot, primary := image, backup := [], colRails := true, colA := true, serial := 0x11,
    colB := true, wardenBad := 0, fusedOff := 0, crestBad := 0, linkBad := 0, volts := List.replicate 12 750, plugged := plugged }

theorem hyp_BringUp :
    (let d := { Dev.reset with pwr := { Pwr.reset with off := 3 } }
     d.pwr.off = 3 ∧ d.get F.FENCED = 0 ∧ d.flag F.XP_PRESENT [5, 1] = false) ∧
    bootErrOf (answers 2 [] 0) = 6 ∧ bootErrOf (answers 0 [] 0) = 1 ∧
    bootErrOf { answers 0 (flash true) 0 with colRails := false } = 2 ∧ bootErrOf { answers 0 (flash true) 0 with colA := false } = 3 ∧
    bootErrOf { answers 0 (flash true) 0 with fusedOff := 64 } = 3 ∧ bootErrOf { answers 0 (flash true) 0 with wardenBad := 2 } = 4 ∧
    bootErrOf (answers 0 (flash false) 0) = 5 ∧ bootErrOf (answers 1 (flash false) 0) = 0 ∧ bootErrOf (answers 0 (flash true) 0) = 0 ∧
    (answers 0 (flash true) 0).board = some aBoard ∧
    bitAt (answers 0 (flash true) 2048).plugged 11 = true ∧ aBoard.extMode % 4 = 0 ∧ aBoard.noDefaultPart = true := by
  decide +kernel

/-- A boot image with two empty sections, its header with its CRC (20 Table 20.3). -/
def image : List Byte :=
  let w := [0x4A4F5753, 1, 0, 0, 0, 64, 0, crc32c [], 64, 0, crc32c [], 0, 0, 0, 0].flatMap fun v => leBytes v 4
  w ++ leBytes (crc32c w) 4

theorem hyp_BootLoad :
    let d0 := unit [(F.BOOT_STAGE, [], 6), (F.BOOT_IMG_ADDR_LO, [], 4096), (F.BOOT_IMG_LEN, [], 64)]
    let d := { d0 with
      host := { d0.host with bme := [(0, true)], linkDown := false }
      boot := { Boot.reset with ans := some (answers 1 (flash true) 0), board := some aBoard } }
    Powered d ∧ d.get F.BOOT_STAGE = 6 ∧ d.get F.BOOT_ERR = 0 ∧ d.boot.ans = some (answers 1 (flash true) 0) ∧
      d.boot.board = some aBoard ∧ d.canMaster 0 = true ∧ d0.canMaster 0 = false ∧
      (d.hostHolds 4096 image).hostImage = some ([], []) ∧ (d.hostHolds 4096 []).hostImage = none := by
  unfold Powered; decide +kernel

theorem hyp_LateParts :
    (let d := { unit [(F.DIE_PRESENT, [], 255)] with boot := { Boot.reset with released := [(11, true)] } }
     Powered d ∧ Tab.get false d.boot.released 11 = true ∧ d.dieGone (11 / 2) = false ∧ d.boot.extWait = false) ∧
    (let d := { unit [] with boot := { Boot.reset with extWait := true, board := some aBoard } }
     d.boot.extWait = true ∧ d.boot.board = some aBoard) ∧
    (let d := { unit [(F.DOM_STATE, [5], stOff)] with pwr := { Pwr.reset with flight := [(5, some ⟨stKeep, 0, 1⟩)] } }
     Tab.get none d.pwr.flight 5 = some ⟨stKeep, 0, 1⟩ ∧ d.get F.DOM_STATE [5] = stOff ∧ stKeep < stOff) := by
  unfold Powered; decide +kernel

theorem hyp_OrderlyShutDown :
    (∀ stage ∈ [5, 9],
      let d := { unit [(F.BOOT_STAGE, [], stage)] with now := oneMs, warden := { Warden.reset with shutArm := some (0, 0) } }
      Powered d ∧ d.warden.shutArm = some (0, 0) ∧ d.now ≤ 0 + oneMs ∧ (d.get F.BOOT_STAGE = 9 ↔ stage = 9) ∧
        d.isMaster = false ∧ d.flag F.RELAY = false ∧ ∀ p < 64, d.get F.P_STATE [p] = pDISABLED) ∧
    (∀ on ∈ [0, 1],
      let d := unit [(F.BOOT_STAGE, [], 10), (F.RAIL_ENABLED, [11], on)]
      d.get F.BOOT_STAGE = 10 ∧ Tab.get false d.pauses 4 = false ∧
        (on = 1 → d.flag F.RAIL_ENABLED [11] = true) ∧
        (on = 0 → ∀ r < 12, d.flag F.RAIL_ENABLED [r] = false ∧ d.flag F.RAIL_IN_FLIGHT [r] = false)) := by
  unfold Powered; decide +kernel

/-! ### Power -/

theorem hyp_PowerRequest :
    (let d := ready []
     Powered d ∧ d.get F.WARDEN_MODE ≠ 2 ∧ d.get F.WARDEN_MODE ≠ 3 ∧ d.reqRefused stRun 9 = true ∧ d.reqRefused 7 255 = true) ∧
    (∀ cur ∈ [stRun, stTrim, stDoze, stKeep], ∀ dom ∈ [0, 5],
      let d := ready [(F.DOM_STATE, [dom], cur)]
      AtRest d dom cur ∧ d.reqRefused stTrim dom = false ∧ d.reqRefused cur dom = false ∧ cur < stOff ∧
        ¬(stTrim = stRun ∧ d.get F.DOM_FLOOR [dom] = 1)) ∧
    (let d := ready [(F.DOM_BUSY, [6], 1)]
     d.reqRefused stDoze 6 = false ∧ d.flag F.DOM_BUSY [6] = true) := by
  unfold Powered AtRest; decide +kernel

def flying (dom st : Nat) (f : Flight) (l : List (Fld × List Nat × Nat)) : Dev :=
  { ready ([(F.DOM_STATE, [dom], st), (F.DOM_BUSY, [dom], 1)] ++ l) with pwr := { Pwr.reset with flight := [(dom, some f)] } }

theorem hyp_DomainTransitions :
    (∀ busy ∈ [0, 1], ∀ stage ∈ [0, 1],
      let d0 := flying 0 stRun ⟨stDoze, 0, stage⟩ [(F.RAIL_IN_FLIGHT, [0], busy)]
      let d := { d0 with engines := [((⟨0, 0, 3⟩ : Inst).key, { Engine.reset with busy := some ⟨0, 0, cmd [0x20] .running, none, 0, false, []⟩ })] }
      Powered d ∧ d.get F.WARDEN_MODE ≠ 2 ∧ Tab.get none d.pwr.flight 0 = some ⟨stDoze, 0, stage⟩ ∧ stDoze < 5 ∧
        d.get F.DOM_STATE [0] ≤ stDoze ∧ d.railsReady 0 = decide (busy = 0) ∧ d.drained 0 = false) ∧
    (∀ st ∈ [stDoze, stKeep],
      let d := ready [(F.DOM_STATE, [5], st), (F.WAKE_SET, [], 511)]
      AtRest d 5 st ∧ bitAt (d.get F.WAKE_SET) 5 = true ∧ d.pwr.wakeIn = false) ∧
    ((ready []).domAsleep 8 = false ∧ Tab.get false (ready []).wakes 8 = false) ∧
    (∀ busy ∈ [0, 1],
      let d := flying 5 stKeep ⟨stRun, 0, 1⟩ [(F.RAIL_IN_FLIGHT, [5], busy)]
      Tab.get none d.pwr.flight 5 = some ⟨stRun, 0, 1⟩ ∧ stRun < d.get F.DOM_STATE [5] ∧ d.get F.DOM_STATE [5] ≠ stOff ∧
        d.waiting = [] ∧ d.warden.wait = [] ∧ d.fab.heldIn = [] ∧ d.railsReady 5 = decide (busy = 0) ∧
        Tab.get false d.pwr.late 5 = false) := by
  unfold Powered AtRest; decide +kernel

theorem hyp_Rails :
    (∀ pend ∈ [0, 1],
      let d := ready [(F.RAIL_IN_FLIGHT, [11], 1), (F.RAIL_PENDING_VALID, [11], pend), (F.RAIL_PENDING, [11], 800), (F.RAIL_TARGET, [11], 750)]
      Powered d ∧ Tab.get 0 d.pwr.emerg 11 = 0 ∧ d.flag F.RAIL_IN_FLIGHT [11] = true ∧ d.pwr.offSeq = [] ∧
        d.flag F.RAIL_PENDING_VALID [11] = decide (pend = 1) ∧ d.get F.RAIL_PENDING [11] ≠ d.get F.RAIL_TARGET [11]) ∧
    (∀ r ∈ [0, 8, 9],
      let d := ready [(F.RAIL_ENABLED, [r], 1), (F.RAIL_TARGET, [r], 750)]
      (∀ x ∈ railDoms r, AtRest d x stRun) ∧ d.flag F.RAIL_ENABLED [r] = true ∧ 760 ≤ d.get F.RAIL_TARGET [r] + 10 ∧
        d.get F.RAIL_TARGET [r] ≤ 740 + 10 ∧ d.get F.WARDEN_MODE < 2 ∧ d.railFree r = true ∧ d.flag F.RAIL_IN_FLIGHT [r] = false) ∧
    ((ready []).diePresent 5 = true ∧ (ready []).dieIsLost 5 = false) := by
  unfold Powered AtRest; decide +kernel

theorem hyp_ThermalAndCaps :
    (∀ floor ∈ [0, 1], ∀ st ∈ [stRun, stTrim],
      let d := ready [(F.DOM_FLOOR, [5], floor), (F.DOM_STATE, [5], st), (F.THERM_WARN, [], 85), (F.THERM_THROTTLE, [], 95)]
      Powered d ∧ d.get F.THERM_THROTTLE ≤ 95 ∧ d.get F.DOM_FLOOR [5] = floor ∧ AtRest d 5 st ∧ d.get F.THERM_WARN ≤ 95 ∧
        84 < d.get F.THERM_WARN ∧ 84 < d.get F.THERM_THROTTLE ∧ 89 + 5 < d.get F.THERM_THROTTLE ∧ d.get F.WARDEN_MODE < 2 ∧
        Tab.get false d.pwr.capped 5 = false ∧ d.get F.DOM_REQUESTED [5] = stRun ∧ d.diePresent 5 = true ∧ d.dieIsLost 5 = false) ∧
    (∀ b ∈ [1024, 1025],
      let d := ready ((F.PWR_CAP_W, [], 1000) :: (List.range 6).map fun x => (F.SC_BUDGET, [x], b))
      d.get F.PWR_CAP_W ≠ 0 ∧ d.get F.PWR_CAP_W < 1001 ∧ (b = 1025 → ∃ x < 6, 1024 < d.get F.SC_BUDGET [x]) ∧
        (b = 1024 → ∀ x < 6, d.get F.SC_BUDGET [x] ≤ 1024) ∧ d.dieGone 5 = false ∧ Tab.get false d.pwr.capped 5 = false) ∧
    (let d0 := ready [(F.PWR_CAP_W, [], 1000)]
     let d := { d0 with pwr := { d0.pwr with halved := [[8192]] } }
     d.get F.PWR_CAP_W ≠ 0 ∧ 899 * 10 < d.get F.PWR_CAP_W * 9 ∧ d.pwr.capped = [] ∧ d.pwr.halved = [[8192]]) ∧
    (ready []).get F.PWR_CAP_W = 0 := by
  unfold Powered AtRest; decide +kernel

theorem hyp_Supply :
    (let d := unit [(F.VIN_LOSS_MV, [], 44000), (F.BOOT_STAGE, [], 5)]
     Powered d ∧ Tab.get false d.pauses 4 = false ∧ Tab.get false d.pauses 0 = false ∧ 43999 < d.get F.VIN_LOSS_MV ∧
       5 ≤ d.get F.BOOT_STAGE) ∧
    (let d := { unit [(F.VIN_OK_MV, [], 45000), (F.RAIL_ENABLED, [6], 1)] with pauses := [(0, true)] }
     Tab.get false d.pauses 0 = true ∧ d.get F.VIN_OK_MV ≤ 45000 ∧ d.railFree 6 = true ∧ d.flag F.RAIL_ENABLED [6] = true) := by
  unfold Powered; decide +kernel

theorem hyp_AuxRail :
    (∀ retry ∈ [true, false], ∀ n ∈ [0, 1, 2], ∀ drive ∈ [true, false],
      let d0 := unit [(F.AUX_EN, [], 1), (F.AUX_ATTEMPTS, [], n)]
      let d := { d0 with pwr := { d0.pwr with auxRetry := retry, auxDrive := drive } }
      Powered d ∧ d.get F.UNIT_STATE ≠ stKeep ∧ d.flag F.AUX_LATCHED = false ∧ d.pwr.auxRetry = retry ∧
        d.pwr.auxDrive = drive ∧ d.get F.AUX_ATTEMPTS = n ∧ d.flag F.AUX_EN = true) := by
  unfold Powered; decide +kernel

/-! ### The warden -/

theorem hyp_WardenVoting :
    (∀ mode ∈ [0, 1, 3], ∀ fenced ∈ [0, 4],
      let d := ready [(F.WARDEN_MODE, [], mode), (F.FENCED, [], fenced), (F.WD_PRESENT, [], 7)]
      Powered d ∧ d.get F.WARDEN_MODE = mode ∧ d.get F.FENCED = fenced ∧ d.get F.WD_PRESENT = 7 ∧
        bitsOf (d.get F.WD_PRESENT) 0 2 = 3 ∧ d.warden.acts = [] ∧ d.warden.wait = [] ∧
        d.fencedCore = (if fenced = 4 then some 2 else none) ∧ d.dieGone 7 = false ∧
        bitsOf (d.get F.FENCE_HISTORY) 16 8 < 3) ∧
    bitsOf ((ready [(F.FENCE_HISTORY, [], 3 * 65536)]).get F.FENCE_HISTORY) 16 8 = 3 := by
  unfold Powered; decide +kernel

theorem hyp_WardenSafeStop :
    (let d := ready []
     Powered d ∧ d.get F.WARDEN_MODE ≠ 2 ∧ d.domAsleep 8 = false ∧ reactionOf 0x5F = some 3) ∧
    (let d := { ready [] with warden := { Warden.reset with stop := some [1, 2] } }
     d.warden.stop = some [1, 2] ∧ ∀ x ∈ d.engines, x.2.busy = none) := by
  unfold Powered; decide +kernel

def aFault (code die : Nat) : Detect := ⟨code, die, 0, none, 0, 0⟩

theorem hyp_FaultReactions :
    (let d := ready []
     Powered d ∧ d.reports = [] ∧ d.get F.WARDEN_MODE < 2 ∧ d.domAsleep 8 = false ∧ reactionOf 0x01 = some 0 ∧ d.logFull = false ∧
       Tab.get none d.warden.ccAt (0x01 * 8 + 7) = none ∧ reactionOf 0x21 = some 1 ∧ (0x21 ∉ [0x23, 0x25, 0x28, 0x29, 0x4B, 0x50]) ∧
       d.reactionTo (d.reportNow (aFault 0x35 5)) = some 2 ∧ d.diePresent (d.reportNow (aFault 0x35 5)).lostDie = true ∧
       d.dieIsLost (d.reportNow (aFault 0x35 5)).lostDie = false ∧ d.reactionTo (d.reportNow (aFault 0x35 6)) = some 3) ∧
    (let c : Cmd := { cmd [0x20] .running with ready := true, chunks := 1, out := [⟨0, ⟨0, 5, 11⟩⟩] }
     let b : Busy := ⟨0, 0, c, none, 0, false, []⟩
     let d0 := ready []
     let d := { d0 with
       queues := [(0, { Queue.reset with run := some { Run.start (aDesc 2 0 8 0) [] false with cmd := some c } })]
       engines := [((⟨0, 5, 11⟩ : Inst).key, { Engine.reset with busy := some b })] }
     (Tab.get Engine.reset d.engines (⟨0, 5, 11⟩ : Inst).key).busy = some b ∧ d.cmdOf b.queue = some c ∧
       d.ownsChunk ⟨0, 5, 11⟩ b = true ∧ c.phase = .running ∧ c.ready = true) := by
  unfold Powered; decide +kernel

theorem hyp_ShelfLinks :
    ∀ x ∈ [0, 1, 2],
    let d := { unit [] with warden := { Warden.reset with shelf := [(19, x)], retraining := [(19, true)] } }
    Powered d ∧ Tab.get 0 d.warden.shelf 19 = x ∧ Tab.get false d.warden.retraining 19 = true ∧ d.waiting = [] := by
  unfold Powered; decide +kernel

/-! ### The panel -/

def keyed (k : Nat) (x : Key) (l : List (Fld × List Nat × Nat)) : Dev :=
  { unit ([(F.PANEL_PRESENT, [], 1), (F.KEY_BASELINE, [k], 2000), (F.TOUCH_THRESH, [], 100), (F.RELEASE_THRESH, [], 50)] ++ l) with
    panel := { Panel.reset with keys := [(k, x)] } }

def quiet : Key := { Key.reset with capture := none }

theorem hyp_PanelKeys :
    (∀ c ∈ [6, 7],
      let x := { quiet with capture := some (14000, c) }
      let d := keyed 3 x []
      Powered d ∧ d.flag F.PANEL_PRESENT = true ∧ (d.key 3).capture = some (14000, c)) ∧
    (let d := keyed 3 { quiet with touch := 2 } []
     (d.key 3).capture = none ∧ bitAt (d.get F.KEY_FAULT) 3 = false ∧ d.keyActive 3 = false ∧
       1900 + d.get F.TOUCH_THRESH ≤ d.get F.KEY_BASELINE [3] ∧ 2 ≤ (d.key 3).touch ∧ d.get F.KEY_ACTIVE = 0 ∧
       d.flag F.KEY_WAKE = false) ∧
    (let d := keyed 3 { quiet with release := 2, hold := 199, sum := 4000, cnt := 2 } [(F.KEY_ACTIVE, [], 8), (F.KEY_ACT_EN, [], 0)]
     d.keyActive 3 = true ∧ d.get F.KEY_BASELINE [3] < 1951 + d.get F.RELEASE_THRESH ∧ 2 ≤ (d.key 3).release ∧
       (d.key 3).hold < 200 ∧ d.panel.multi = false ∧ (d.key 3).long = false ∧ bitAt (d.get F.KEY_ACT_EN) 3 = false) ∧
    (let d := keyed 0 { quiet with sum := 4002, cnt := 2 } [(F.KEY_COUNT, [0], 2000), (F.DRIFT_BAND, [], 30)]
     d.keyActive 0 = false ∧ (d.key 0).capture = none ∧ bitAt (d.get F.KEY_FAULT) 0 = false ∧ (d.key 0).cnt ≠ 0 ∧
       d.get F.KEY_BASELINE [0] < d.get F.KEY_COUNT [0] + d.get F.DRIFT_BAND ∧
       d.get F.KEY_COUNT [0] < d.get F.KEY_BASELINE [0] + d.get F.DRIFT_BAND ∧ d.get F.KEY_BASELINE [0] < 4095) ∧
    (unit [(F.PANEL_PRESENT, [], 0)]).flag F.PANEL_PRESENT = false := by
  unfold Powered; decide +kernel

theorem hyp_PanelDrainAndDisplay :
    (∀ st ∈ [0, 1, 2, 3, 4],
      let d := unit [(F.DRAIN_STATE, [], st), (F.GRANTED, [], 1)]
      Powered d ∧ d.get F.DRAIN_STATE = st ∧ d.get F.WARDEN_MODE ≠ 2 ∧ (∀ x ∈ d.queues, x.2.run = none) ∧ d.fab.outMsgs = [] ∧
        d.flag F.GRANTED = true ∧ d.isMaster = false ∧ d.flag F.RELAY = false ∧ d.chainWhole = true) ∧
    (unit [(F.U_STATE, [], pUp)]).chainWhole = false ∧
    (let d := unit [(F.AUX_ON, [], 1), (F.DISPLAY_EN, [], 1), (F.PAGE, [], 6)]
     d.flag F.AUX_ON = true ∧ d.flag F.DISPLAY_EN = true ∧ d.get F.PAGE = 6) := by
  unfold Powered; decide +kernel

/-! ### Commands -/

/-- Queue `k` runs a command. -/
def running (k : Nat) (c : Cmd) (l : List (Fld × List Nat × Nat)) : Dev :=
  queued k qENABLED { Queue.reset with run := some { Run.start (aDesc 2 0 8 0) [] false with cmd := some c } } l

theorem hyp_CommandLife :
    (∀ w ∈ [[0x0100, 0], [0x0101, (0 : Word)]],
      let r := Run.start (aDesc 2 0 8 0) w false
      let d := queued 0 qENABLED { Queue.reset with run := some r } []
      Powered d ∧ queueOk 0 = true ∧ (d.queue 0).run = some r ∧ r.listPending = false ∧ r.cmd = none ∧ r.stop = none ∧
        r.list ≠ [] ∧ d.qState 0 = qENABLED ∧ d.workHeld = false ∧ d.homeSleeps 0 = false ∧ d.qBus 0 = true ∧
        (checkHeader (qClass 0) r.list).toOption = if w = [0x0100, 0] then some w else none) ∧
    (∀ st ∈ [stOK, stLATE, stFAULT],
      let c := cmd [2] (.ended st 0)
      c.phase = .ended st 0 ∧ c.out = [] ∧ bitsOf (wordAt c.words 0) 0 8 < 0x20) ∧
    (∀ cause ∈ [dPDISABLE, dQDISABLE], ∀ out ∈ [[], [⟨0, ⟨0, 0, 0⟩⟩]], ∀ phase ∈ [.running, .waitFence 0 0 1 false false],
      let c := { cmd [0x20] phase with ready := true, out := out, todo := [1] }
      let r := { Run.start (aDesc 2 0 8 0) [] false with cmd := some c }
      let d := queued 3 qDISABLING { Queue.reset with cause := cause, run := some r } []
      queueOk 3 = true ∧ (d.queue 3).run = some r ∧ r.cmd = some c ∧ (∀ st x, phase ≠ .ended st x) ∧ 0x20 ≤ c.opcode ∧
        d.qState 3 = qDISABLING ∧ (d.queue 3).cause = cause) ∧
    (let c := cmd [0x0100, 0] .running
     (running 0 c []).cmdOf 0 = some c ∧ c.phase = .running ∧ bitsOf (wordAt c.words 0) 0 8 = 0) := by
  refine ⟨by unfold Powered; decide +kernel, by decide +kernel, ?_, by decide +kernel⟩
  intro cause hc out ho phase hp
  have h : ∀ cause ∈ [dPDISABLE, dQDISABLE], ∀ out ∈ [[], [⟨0, ⟨0, 0, 0⟩⟩]], ∀ phase ∈ [.running, .waitFence 0 0 1 false false],
      let c := { cmd [0x20] phase with ready := true, out := out, todo := [1] }
      let r := { Run.start (aDesc 2 0 8 0) [] false with cmd := some c }
      let d := queued 3 qDISABLING { Queue.reset with cause := cause, run := some r } []
      queueOk 3 = true ∧ (d.queue 3).run = some r ∧ r.cmd = some c ∧ 0x20 ≤ c.opcode ∧ d.qState 3 = qDISABLING ∧
        (d.queue 3).cause = cause := by decide +kernel
  obtain ⟨h1, h2, h3, h4⟩ := h cause hc out ho phase hp
  refine ⟨h1, h2, h3, fun st x => ?_, h4⟩
  revert phase
  simp

theorem hyp_Fences :
    (∀ other ∈ [0, 1], ∀ v ∈ [5, 6],
      let c := cmd [1, 0, BitVec.ofNat 32 (255 + 63 * 256 + other * 16384), 0, BitVec.ofNat 32 v, 0] .running
      let d := running 2016 c [(F.FENCE_VAL_LO, [63, 255], 5)]
      Powered d ∧ queueOk 2016 = true ∧ d.cmdOf 2016 = some c ∧ bitAt (wordAt c.words 2) 14 = decide (other = 1) ∧
        d.fencePeer 63 63 = false ∧ (wordAt c.words 4 + 2 ^ 32 * wordAt c.words 5 ≤ d.fence 63 255 ↔ v = 5)) ∧
    (∀ mode ∈ [0, 1],
      let c := cmd [2, 0, BitVec.ofNat 32 (255 + mode * 256), 0, 0xFFFFFFFF, 0xFFFFFFFF] .running
      let w := cmd [1, 0, 255, 0, 7, 0] (.waitFence 63 255 7 false true)
      let d0 := running 2016 c []
      let d := { d0 with queues := d0.queues ++
        [(2017, { Queue.reset with run := some { Run.start (aDesc 2 0 8 0) [] false with cmd := some w } })] }
      d.cmdOf 2016 = some c ∧ c.phase = .running ∧ bitsOf (wordAt c.words 0) 0 8 = 2 ∧ d.inWait 2017 = true ∧
        d.cmdOf 2017 = some w ∧ 2017 / 32 = 63 ∧ bitsOf (wordAt w.words 0) 0 8 = 1 ∧ bitAt (wordAt w.words 2) 14 = false ∧
        bitsOf (wordAt w.words 2) 0 8 = 255 ∧ w.phase = .waitFence 63 255 7 false true) ∧
    (unit [(F.FENCE_PEERS_HI, [63], 0x80000000)]).fencePeer 63 63 = true := by
  unfold Powered; decide +kernel

theorem hyp_CadenceCommands :
    (∀ past ∈ [0, 1],
      let c := cmd [3, 0, 0, 0, BitVec.ofNat 32 (if past = 1 then 0 else 1), 0] .running
      let d := running 0 c []
      Powered d ∧ d.cmdOf 0 = some c ∧
        d.targetPast ⟨0, 0, if past = 1 then 0 else 1, false⟩ = decide (past = 1)) ∧
    (∀ phase ∈ [0, 1],
      let c := cmd [4, 0, 0, BitVec.ofNat 32 (phase * 65536)] .running
      let d0 := running 0 c []
      let d := { d0 with cad := { d0.cad with joined := true, partMask := 1 } }
      d.cmdOf 0 = some c ∧
        ((d.cad.joined = true ∧ wordAt c.words 2 + 2 ^ 32 * bitsOf (wordAt c.words 3) 0 16 = d.pos.step ∧
          bitsOf (wordAt c.words 3) 16 4 = d.pos.phase ∧ bitAt d.cad.partMask 0 = true) ↔ phase = 0)) ∧
    (∀ dev ∈ [0, 1], ∀ tick ∈ [0, 1], ∀ dis ∈ [0, 1], ∀ action ∈ [0, 3],
      let c := cmd [5, 0, BitVec.ofNat 32 (255 + dis * 256), 0, 0, 0, BitVec.ofNat 32 tick, BitVec.ofNat 32 action, 0] .running
      let d := running 2016 c [(F.AL_OWNER, [255], 63), (F.AL_DEV_OWNED, [255], dev)]
      let cp : AlarmCopy := {
        step := 0, tick := tick, phase := 0, boundary := false, rep := false, action := action, owner := 63, devOwned := false
        notify := false, arg := 0 }
      Powered d ∧ queueOk 2016 = true ∧ d.cmdOf 2016 = some c ∧
        (((d.staged 255).devOwned = false ∧ (d.staged 255).owner = 63) ↔ dev = 0) ∧ bitAt (wordAt c.words 2) 8 = decide (dis = 1) ∧
        d.alarmAllowed cp = decide (action = 0) ∧ d.targetPast cp.target = decide (tick = 0)) := by
  unfold Powered; decide +kernel

/-- The ending of work, as data: a status and a detail. -/
def failure {α : Type} (r : Except Stop α × Dev) : Option (Nat × Nat) :=
  match r.1 with
  | .error (.ended st d) => some (st, d)
  | _ => none

def answer {α : Type} (r : Except Stop α × Dev) : Option α := r.1.toOption

def waits {α : Type} (r : Except Stop α × Dev) : Bool :=
  match r.1 with
  | .error .wait => true
  | _ => false

/-- Queue 2016 runs a command on die 0, where partition 63 holds Summit engine 0 and granule 0, in a region over all of device memory. -/
def onMem (c : Cmd) : Dev :=
  let r := { Run.start (aDesc 2 0 8 0) [] false with cmd := some c }
  let d := queued 2016 qENABLED { Queue.reset with run := some r, home := some (0, 0) } [(F.DIE_PRESENT, [], 255),
    (F.P_STATE, [63], pENABLED), (F.ACT_GRAN_LO, [63, 0], 1), (F.PR_TOP_HI, [63, 0], 0x200), (F.PR_EN, [63, 0], 1), (F.PR_RWX, [63, 0], 7)]
  d.setReg (0x800900 + 0x4000 * 63) 1

def copies (n where' : Nat) : Cmd := cmd [6, 0, 0x1000, 0, 0x9000, 1, BitVec.ofNat 32 n, BitVec.ofNat 32 where'] .running

theorem hyp_CopyAndWrite :
    (∀ n ∈ [1, 65536],
      let c := copies n 3
      let d := running 0 c []
      Powered d ∧ queueOk 0 = true ∧ d.cmdOf 0 = some c ∧ c.phase = .running ∧ bitsOf (wordAt c.words 0) 0 8 = 6 ∧
        d.workHeld = false ∧ c.stop = none ∧ c.carry = [] ∧ 0 < n ∧ n ≤ 65536 ∧ bitsOf (wordAt c.words 7) 0 2 = 3 ∧
        d.qBus 0 = true ∧ 0x1000 + n ≤ wordAt c.words 4 + 2 ^ 32 * wordAt c.words 5 ∧ d.hostBad 0x1000 n = false) ∧
    (∀ device ∈ [0, 1],
      let c := cmd [7, 0, 0x1000, 0, 0x12345678, BitVec.ofNat 32 (1 - device)] .running
      let d := running 0 c []
      d.cmdOf 0 = some c ∧ bitAt (wordAt c.words 5) 0 = decide (device = 0) ∧ d.qBus 0 = true) ∧
    (let c := cmd [7, 0, 0x1000, 0, 0x12345678, 0] .running
     let d := onMem c
     d.cmdOf 2016 = some c ∧ (answer (runAct (writeMem (d.spurAcc 2016) 0x1000 (leBytes (wordAt c.words 4) 4)) d)).isSome = true) ∧
    (∀ fail ∈ [none, some 0],
      let c := { copies 65537 3 with carry := [1] }
      let d := running 0 c []
      let r := runAct (copyOne 0 c.words fail 1) d
      d.cmdOf 0 = some c ∧ c.carry.headD 0 = 1 ∧ (answer r).isSome = decide (fail = none) ∧ (failure r).isSome = decide (fail = some 0)) := by
  unfold Powered; decide +kernel

/-! ### Engines -/

/-- OPT_STEP over `n` elements, G in FP32 and W in FP16, all tables at address 0. -/
def opt (n : Nat) : Cmd :=
  cmd ([0x23, 0] ++ List.replicate 10 0 ++ [BitVec.ofNat 32 n, 0x100, 0, 0, 0, 0, 0, 0]) .running

/-- That command split into chunks, on its instance. -/
def optReady (chunks : Nat) : Cmd :=
  { opt 1 with
    ready := true, chunks := chunks, per := 1, todo := List.range chunks, asg := List.replicate chunks ⟨0, 0, 0⟩ }

/-- The accounts of the instance as the pick that serves a queue leaves them. -/
def pickOf (d : Dev) (i : Inst) : Engine := ((d.pick i (d.readyQueues i) (d.readyQueues i)).map (·.1)).getD Engine.reset

/-- SC_PROGRAM_T of one SC4 element into face A (or no face) of the last group of die 5. -/
def prog (face : Nat) : Cmd :=
  cmd [0x42, 5, 0, 0, 0, 0, BitVec.ofNat 32 (16383 + 9 * 65536 + face * 2 ^ 20), 1, 1, 64, 0, 0] .running

/-- Partition 63 holds that group and Scree of die 5, and queue 2020 runs the command. -/
def onScree (c : Cmd) (l : List (Fld × List Nat × Nat)) : Dev :=
  running 2020 c ([(F.DIE_PRESENT, [], 255), (F.P_STATE, [63], pENABLED), (F.ACT_SCREE_GROUPS, [63, 5], 16383 + 2 ^ 16),
    (F.ACT_ENGINE_SHARE, [63, 5], 1)] ++ l)

theorem hyp_EngineCommands :
    (∀ op ∈ [0x20, 0x22, 0x23, 0x24, 0x40, 0x41, 0x42, 0x43, 0x44, 0x45, 0x60, 0x61, 0x62, 0x80, 0x81, 0x82, 0x83, 0x84, 0x85, 0x86, 0x87,
        0x88, 0xA0, 0xA1, 0xA2],
      let c := cmd (BitVec.ofNat 32 op :: List.replicate 31 0) .running
      let d := running 0 c []
      let r := runAct ((engineOp op).prep 0 c) d
      Powered d ∧ queueOk 0 = true ∧ d.cmdOf 0 = some c ∧ c.phase = .running ∧ bitsOf (wordAt c.words 0) 0 8 = op ∧ c.ready = false ∧
        d.workHeld = false ∧ (failure r).isSome = true ∧ ((r.2.cmdOf 0).all fun c' => c'.todo == []) = true) ∧
    (let c := opt 1
     let d := onMem c
     let r := runAct (optOp.prep 2016 c) d
     answer r = some (1, 1) ∧ r.2.cmdOf 2016 = some c ∧ Powered r.2 ∧ r.2.workHeld = false) ∧
    (∀ st ∈ [stRun, stDoze],
      let c := optReady 1
      let d := (onMem c).put F.DOM_STATE [0] st
      let r := chunkWork d 2016 optOp c ⟨0, 0, 0⟩ 0 none
      d.instOf 2016 c 0 = ⟨0, 0, 0⟩ ∧ ChunkMayRun d 2016 c 0 (pickOf d ⟨0, 0, 0⟩) ∧
        answer r = (if st = stRun then some true else none) ∧ waits r = decide (st = stDoze)) ∧
    (let c := optReady 2
     let d := onMem c
     let z := (d.startChunk 2016 optOp c ⟨0, 0, 0⟩ 0 none (pickOf d ⟨0, 0, 0⟩)).2.endOn ⟨0, 0, 0⟩ 7
     ChunkMayRun d 2016 c 0 (pickOf d ⟨0, 0, 0⟩) ∧ ((z.cmdOf 2016).any fun c' => c'.todo == c.todo.tail && c'.words == c.words &&
       c'.phase == c.phase && c'.ready && c'.stop.isNone) = true ∧ Powered z ∧ z.workHeld = false) ∧
    (let c := { optReady 1 with todo := [] }
     (onMem c).cmdOf 2016 = some c ∧ c.ready = true ∧ c.todo = []) ∧
    (let d := onScree (prog 1) []
     let r := runAct (programOp.prep 2020 (prog 1)) d
     Powered d ∧ queueOk 2020 = true ∧ d.cmdOf 2020 = some (prog 1) ∧ answer r = some (1, 1) ∧
       ((r.2.cmdOf 2020).any fun c' => c'.words == (prog 1).words && c'.phase == .running && c'.fail.isNone && c'.stop.isNone) = true) := by
  unfold Powered ChunkMayRun
  refine ⟨?_, ?_, ?_, ?_, ?_, ?_⟩ <;> decide +kernel

theorem hyp_ChunkLife :
    (∀ st ∈ [stRun, stDoze],
      let c := optReady 1
      let d := (onMem c).put F.DOM_STATE [0] st
      let i : Inst := ⟨0, 0, 0⟩
      Powered d ∧ (Tab.get Engine.reset d.engines i.key).busy = none ∧ d.workHeld = false ∧ d.readyQueues i = [2016] ∧
        d.cmdOf 2016 = some c ∧ waits (chunkWork d 2016 (engineOp c.opcode) c i 0 none) = decide (st = stDoze) ∧
        c.ready = true ∧ ∀ j ∈ d.queues.map (·.1), j = 2016) ∧
    (∀ cut ∈ [true, false], ∀ out ∈ [[], [(⟨0, ⟨0, 0, 0⟩⟩ : ChunkRun)]],
      let c := { optReady 1 with todo := [], out := out }
      let i : Inst := ⟨0, 0, 0⟩
      let b : Busy := ⟨2016, 0, c, none, 1, cut, []⟩
      let d := { onMem c with engines := [(i.key, { Engine.reset with busy := some b })] }
      (Tab.get Engine.reset d.engines i.key).busy = some b ∧ d.cmdOf b.queue = some c ∧ (⟨b.chunk, i⟩ ∈ c.out ↔ out ≠ [])) ∧
    (∀ fail ∈ [none, some (stOK, 0), some (stLATE, 1), some (stFAULT, 2)],
      let c := { optReady 1 with todo := [], fail := fail }
      let d := onMem c
      d.cmdOf 2016 = some c ∧ c.phase = .running ∧ c.ready = true ∧ c.todo = [] ∧ c.out = [] ∧
        0x20 ≤ bitsOf (wordAt c.words 0) 0 8 ∧ bitsOf (wordAt c.words 0) 0 8 < 0x60) := by
  unfold Powered
  refine ⟨?_, ?_, ?_⟩ <;> decide +kernel

/-- SC_MVM of one vector on that group's serving face, waiting for it. -/
def mvm : Cmd :=
  cmd [0x40, 5, 0, 0, 0, 0, 0, 0, BitVec.ofNat 32 (16383 + 2 ^ 16 + 2 ^ 19), 1, 1, 1, 64, 64, 0x900, 0] .running

theorem hyp_ScreeSteps :
    (∀ face ∈ [0, 1],
      let c := { prog face with ready := true, carry := [0, 0] }
      let d := onScree c []
      let r := runAct (programBlock 2020 c 1 true) { d with flagAcc := 0 }
      Powered d ∧ queueOk 2020 = true ∧ d.programming 2020 = true ∧ d.workHeld = false ∧ d.cmdOf 2020 = some c ∧
        r.2.flagAcc &&& c.trap = 0 ∧ ((answer r).isSome = decide (face = 1)) ∧ ((failure r).isSome = decide (face = 0))) ∧
    (∀ used ∈ [0, 1, 2],
      let p : ScProg := ⟨(prog 1).words, ⟨5, 16383, true, 1, 1, 9⟩, .sc4⟩
      let d0 := onScree (prog 1) []
      let d := { d0 with scree := { d0.scree with spares := [(p.m.key p.face 0, used)] } }
      p.m.die < 6 ∧ d.owns (d.spurAcc 2020) ⟨4, p.m.die, p.m.groupOf 0, 1⟩ = true ∧
        d.wearOf (p.m.key p.face 0) (d.physRow (p.m.key p.face 0) 511) < endurance ∧
        Tab.get 0 d.scree.spares (p.m.key p.face 0) = used) ∧
    (let p : ScProg := ⟨[0x42, 0, 0, 0, 0x1000, 0], ⟨0, 0, true, 1, 1, 9⟩, .sc4⟩
     let d := onMem (prog 1)
     (answer (runAct (p.rowBlock (d.spurAcc 2016) 0 0) d)).isSome = true) ∧
    (∀ temp ∈ [5, 10],
      let d0 := ready [(F.TEMP, [5], temp), (F.CAL_PHASES, [5], 1)]
      let key := mkey 5 16383 43 * 8
      let d := ({ d0 with scree := { d0.scree with calibrating := [key + 1] } }).updGroup 5 16383 fun r => { r with stB := fcVALID }
      Powered d ∧ 0 < colGroups 43 ∧ d.dieGone 5 = false ∧ d.macroValid 5 16383 43 = true ∧ d.macroNeeded 5 16383 43 = false ∧
        key ∉ d.calsOn 5 ∧ key + 1 ∈ d.scree.calibrating ∧ d.converting 5 + d.calHeld 5 + 2 ≤ d.get F.SC_BUDGET [5] ∧
        d.calDue 5 (mkey 5 16383 43) 0 4 10 = decide (temp = 10) ∧ d.calDue 5 (mkey 5 16383 43) 0 1 5 = true ∧
        bitAt (d.get F.CAL_PHASES [5]) d.pos.phase = true) ∧
    (let d0 := running 2020 mvm []
     let q := { Queue.reset with run := some { Run.start (aDesc 2 0 8 0) [] false with cmd := some { prog 1 with ready := true } } }
     let d := ({ d0 with queues := d0.queues ++ [(2021, q)] }).updGroup 5 16383 fun r => { r with stA := fcREWRITING, byA := 2021 }
     d.cmdOf 2020 = some mvm ∧ mvm.phase = .running ∧ bitsOf (wordAt mvm.words 0) 0 8 = 0x40 ∧
       ((answer (runAct (Mvm.parse mvm.words) d)).any fun p => p.waitFace && p.rewriting d) = true) := by
  unfold Powered
  refine ⟨?_, ?_, ?_, ?_, ?_⟩ <;> decide +kernel

/-! ### Ridge cores: spur core 32, lane core 16 -/

/-- The unit after reset but for BOOT_STAGE 9 and DIE_PRESENT 255, written out (quicker to evaluate than `ready`). -/
def upDev : Dev := { Dev.reset with regs := [(512, 9), (516, 255)] }

/-- A unit that has come up, with an instruction at address 0 of a core. -/
def onCore (key : Nat) (i : Ri) (c : Core) : Dev :=
  { upDev with cores := [(key, { c with pmem := Tab.setMany 0 [] 0 (i.encode (isLane key)) })] }

/-- A core with a stack. -/
def stacked (sp : Nat) : Core := { Core.reset with b := [(3, BitVec.ofNat 32 sp)], ctl := [(2, 0x1000)] }

theorem hyp_Ridge_one_word : ∀ op ∈ [Rop.add, .sub, .and, .or, .xor, .mov, .cmp, .neg, .not, .sxtb, .sxth, .zxtb, .zxth, .mul, .mac,
      .jmpr, .callr, .rep, .trap], ∀ key ∈ [16, 32],
    let i : Ri := ⟨op, 0, 7, 0, 0, 0, 1⟩
    let d := onCore key i (stacked 0x10000)
    (d.nextRi key = i ∧ Does d key op) ∧ d.nextRi key = i ∧ (isLane key = true ∨ HasFrame (d.atIssue key)) := by
  unfold Does Issues Powered HasFrame; decide +kernel

theorem hyp_Ridge_extended : ∀ x ∈ [(Rop.addi, -8, 1), (.movi, 7, 1), (.cmpi, -1, 1), (.addx, -2048, 2), (.andx, -1, 2), (.cmpx, 5, 2),
      (.movx, -3, 2), (.orx, 4095, 2), (.xorx, 1, 2), (.tstx, 4095, 2), (.movl, 0xFFFFFFFF, 4), (.shl, 31, 1), (.shr, 1, 1),
      (.sar, 24, 1), (.ror, 16, 1)], ∀ key ∈ [16, 32],
    let i : Ri := ⟨x.1, 0, 7, 0, x.2.1, 0, x.2.2⟩
    let d := onCore key i Core.reset
    d.nextRi key = i ∧ Does d key x.1 := by
  unfold Does Issues Powered; decide +kernel

theorem hyp_Ridge_fields : ∀ i ∈ ([⟨.adc, 0, 7, 1, 0, 0, 1⟩, ⟨.shv, 0, 7, 1, 0, 3, 2⟩, ⟨.mulu, 0, 7, 1, 0, 0, 2⟩, ⟨.rdm, 0, 7, 1, 0, 0, 1⟩,
      ⟨.wrm, 0, 7, 1, 0, 0, 1⟩, ⟨.movb, 0, 7, 3, 0, 0, 1⟩, ⟨.movg, 0, 7, 3, 0, 0, 1⟩] : List Ri),
    let d := onCore 32 i Core.reset
    d.nextRi 32 = i ∧ Does d 32 i.op := by
  unfold Does Issues Powered; decide +kernel

theorem hyp_Ridge_lane : ∀ i ∈ ([⟨.pset, 1, 7, 1, 0, 0, 1⟩, ⟨.guard, 0, 7, 1, 0, 0, 1⟩, ⟨.pnot, 0, 7, 0, 0, 0, 1⟩,
      ⟨.pclr, 0, 0, 0, 0, 0, 1⟩] : List Ri),
    let d := onCore 16 i Core.reset
    d.nextRi 16 = i ∧ Does d 16 i.op := by
  unfold Does Issues Powered; decide +kernel

/-- Accesses inside data memory at its last word, far on a spur core, and bad on both. -/
theorem hyp_RidgeMemory : ∀ op ∈ [Rop.ld, .lds, .st, .lea],
    (∀ key ∈ [16, 32],
      let i : Ri := ⟨op, 0, 7, 0, -4, 4, 2⟩
      let d := onCore key i { Core.reset with b := [(0, 0x10000)] }
      let c1 := d.atIssue key
      let a := (c1.rb i.y + BitVec.ofInt 32 i.z).toNat
      d.nextRi key = i ∧ Does d key op ∧ a % 4 = 0 ∧ a < 0x10000) ∧
    (let i : Ri := ⟨op, 0, 7, 0, 0, 4, 2⟩
     let d := onCore 32 i { Core.reset with b := [(0, 0x80000000)] }
     let c1 := d.atIssue 32
     let a := (c1.rb i.y + BitVec.ofInt 32 i.z).toNat
     Does d 32 op ∧ a % 4 = 0 ∧ 0x80000000 ≤ a ∧ isLane 32 = false ∧ c1.posted.length < maxPosted) ∧
    (∀ key ∈ [16, 32],
      let i : Ri := ⟨op, 0, 7, 0, 0, 4, 2⟩
      let d := onCore key i { stacked 0x10000 with b := [(0, 0x10000), (3, 0x10000)] }
      let c1 := d.atIssue key
      let a := (c1.rb i.y + BitVec.ofInt 32 i.z).toNat
      Does d key op ∧ ¬(a % 4 = 0 ∧ a < 0x10000) ∧ ¬(a % 4 = 0 ∧ 0x80000000 ≤ a ∧ isLane key = false) ∧
        (isLane key = true ∨ HasFrame c1)) := by
  unfold Does Issues Powered HasFrame; decide +kernel

theorem hyp_RidgeControl_taken : ∀ key ∈ [16, 32],
    (∀ i ∈ ([⟨.br, 0, 0, 0, -64, 0, 1⟩, ⟨.jmp, 0, 0, 0, 4095, 0, 2⟩, ⟨.call, 0, 0, 0, 9, 0, 2⟩, ⟨.blc, 0, 0, 0, -2, 0, 2⟩,
        ⟨.callr, 0, 7, 0, 0, 0, 1⟩] : List Ri),
      let d := onCore key i (stacked 0x10000)
      let c1 := d.atIssue key
      let sp := (c1.bNow 3).toNat
      d.nextRi key = i ∧ Does d key i.op ∧ sp % 4 = 0 ∧ 4 ≤ sp ∧ sp ≤ 0x10000 ∧ (c1.ctlAt 2).toNat ≤ sp - 4) ∧
    (let d := onCore key ⟨.ret, 0, 0, 0, 0, 0, 1⟩ (stacked 0xFFFC)
     let sp := ((d.atIssue key).bNow 3).toNat
     Does d key .ret ∧ sp % 4 = 0 ∧ sp < 0x10000 ∧ (d.atIssue key).loadNear sp 4 = 0) ∧
    (let c := { stacked 0xFFFC with dmem := [(0xFFFC, 0xFF), (0xFFFD, 0xFF)], invoc := some ⟨2016, 9600, 0⟩ }
     let d := onCore 16 ⟨.ret, 0, 0, 0, 0, 0, 1⟩ c
     let sp := ((d.atIssue 16).bNow 3).toNat
     Does d 16 .ret ∧ sp % 4 = 0 ∧ sp < 0x10000 ∧ isLane 16 = true ∧ (d.atIssue 16).loadNear sp 4 = 0xFFFF ∧ (d.atIssue 16).invoc ≠ none) := by
  unfold Does Issues Powered; decide +kernel

theorem hyp_RidgeControl_reti :
    let d := onCore 32 ⟨.reti, 0, 0, 0, 0, 0, 1⟩ (stacked 0xFFF8)
    let sp := ((d.atIssue 32).bNow 3).toNat
    Does d 32 .reti ∧ (d.atIssue 32).posted = [] ∧ sp % 4 = 0 ∧ sp + 4 < 0x10000 ∧ isLane 32 = false := by
  unfold Does Issues Powered; decide +kernel

/-- Instructions whose condition (spur) or guard (lane) fails. -/
theorem hyp_RidgeControl_not_taken : ∀ key ∈ [16, 32], ∀ op ∈ [Rop.br, .add, .ld, .st, .call, .jmp, .mtc, .blc, .rep],
    let i : Ri := ⟨op, 1, 0, 0, 0, if op = .ld ∨ op = .st then 4 else 0, if op = .br ∨ op = .add ∨ op = .rep then 1 else 2⟩
    let d := onCore key i { Core.reset with st := if key = 16 then 0x10000 else 0 }
    d.nextRi key = i ∧ Issues d key op ∧ (d.atIssue key).holds (isLane key) i = false := by
  unfold Issues Powered; decide +kernel

theorem hyp_RidgeSystem :
    (∀ op ∈ [Rop.nop, .sync, .iflush, .halt], ∀ key ∈ [16, 32],
      let d := onCore key ⟨op, 0, 0, 0, 0, 0, 1⟩ Core.reset
      Does d key op ∧ (d.atIssue key).posted = []) ∧
    (∀ op ∈ [Rop.mfc, .mtc], ∀ n ∈ [0, 1, 2, 3, 4, 5, 6, 7, 8, 9, 10, 11, 12, 13, 14],
      let i : Ri := ⟨op, 0, 7, n, 0, 0, 2⟩
      let d := onCore 32 i Core.reset
      d.nextRi 32 = i ∧ Does d 32 op) ∧
    (∀ op ∈ [Rop.mfc, .mtc],
      let i : Ri := ⟨op, 0, 7, 15, 0, 0, 2⟩
      let d := onCore 16 i Core.reset
      d.nextRi 16 = i ∧ Does d 16 op) := by
  unfold Does Issues Powered; decide +kernel

theorem hyp_RidgeStrings_single : ∀ op ∈ [Rop.movs, .fils, .scns, .macm, .macmu], ∀ key ∈ [16, 32],
      let i : Ri := ⟨op, 0, 0, 0, 0, 4, 1⟩
      let d := onCore key i { Core.reset with b := [(0, 0xFFFC), (1, 0x8000)] }
      let c1 := d.atIssue key
      d.nextRi key = i ∧ Does d key op ∧ (c1.rb 0).toNat = 0xFFFC ∧ (c1.rb 1).toNat = 0x8000 := by
  unfold Does Issues Powered; decide +kernel

theorem hyp_RidgeStrings_repeated : ∀ op ∈ [Rop.movs, .fils, .scns, .macm, .macmu], ∀ key ∈ [16, 32], ∀ n ∈ [0, 3],
      let lc : Word := BitVec.ofNat 32 n
      let i : Ri := ⟨op, 0, 0, 0, 0, 2, 1⟩
      let d := onCore key i { Core.reset with rep := 1, lc := lc, b := [(1, 0xFFFA)] }
      let c := d.core key
      Powered d ∧ d.coreOn key = true ∧ c.runs = true ∧ c.rep = 1 ∧ c.inRep = false ∧ d.nextRi key = i ∧
        (d.atIssue key).holds (isLane key) i = true ∧ c.lc = lc ∧ c.stale = [] ∧ c.loop = LoopBuf.reset ∧
        (c.bNow 1).toNat % i.size = 0 ∧ (c.bNow 1).toNat + c.lc.toNat * i.size ≤ 0x10000 := by
  unfold Powered; decide +kernel

theorem hyp_RidgeTraps : ∀ key ∈ [16, 32],
    (∀ op ∈ [Rop.brk, .trap],
      let d := onCore key ⟨op, 0, if op = .trap then 7 else 0, 0, 0, 0, 1⟩ (stacked 0x10000)
      Does d key op ∧ (isLane key = true ∨ HasFrame (d.atIssue key))) ∧
    (let d := { upDev with cores := [(key, { stacked 0x10000 with pmem := [(0, 0x6FF)] })] }
     Issues d key .reserved ∧ (isLane key = true ∨ HasFrame (d.atIssue key))) ∧
    (∀ op ∈ [Rop.add, .ld, .br, .nop],
      let d := onCore key ⟨op, 0, 0, 0, 0, if op = .ld then 4 else 0, if op = .ld then 2 else 1⟩ { stacked 0x10000 with rep := 1 }
      Powered d ∧ d.coreOn key = true ∧ (d.core key).runs = true ∧ (d.core key).rep = 1 ∧ (d.nextRi key).op = op ∧
        (isLane key = true ∨ HasFrame (d.atIssue key))) := by
  unfold Does Issues Powered HasFrame; decide +kernel

/-- Interrupts: software line 7 pending at a core with IE and every line enabled; levels 8 and 15 from outside. -/
def taking (c : Core) : Core := { stacked 0x10000 with st := 0x40, lines := c.lines, ctl := [(2, 0x1000), (4, 0xFFFF)], entry := c.entry
                                                       errs := c.errs, posted := c.posted, farLoad := c.farLoad }

theorem hyp_CoreEvents_interrupts :
    (∀ levels ∈ [0, 256, 32768],
      let d := onCore 32 ⟨.nop, 0, 0, 0, 0, 0, 1⟩ (taking { Core.reset with lines := 128 })
      let c0 := (d.core 32).seeLevels levels
      Powered d ∧ d.coreOn 32 = true ∧ isLane 32 = false ∧ c0.boundary 32 = true ∧ (d.core 32).errs = [] ∧
        (c0.bestLine c0.ipl).isSome = true ∧ HasFrame c0) ∧
    (∀ b ≤ 3,
      let d := onCore 32 ⟨.nop, 0, 0, 0, 0, 0, 1⟩ (taking { Core.reset with entry := some ⟨0, 7, 0⟩ })
      let c0 := (d.core 32).seeLevels 32768
      Powered d ∧ d.coreOn 32 = true ∧ isLane 32 = false ∧ (d.core 32).entry = some ⟨0, 7, 0⟩ ∧ c0.bestLine 0 = some 15) ∧
    (let d := onCore 32 ⟨.nop, 0, 0, 0, 0, 0, 1⟩ (taking { Core.reset with errs := [(vBUS, 0x80000000)] })
     let c := d.core 32
     Powered d ∧ d.coreOn 32 = true ∧ isLane 32 = false ∧ c.stopped = false ∧ c.farLoad = none ∧ c.inRep = false ∧ c.rep = 0 ∧
       c.errs = [(vBUS, 0x80000000)] ∧ HasFrame c) := by
  unfold Powered HasFrame; decide +kernel

/-- Core 32 waits for a far load of a halfword into B3, or has posted a store, at the first granule of die 0, which partition 63 holds. -/
def onFar (posted : List FarStore) : Dev :=
  { onMem (cmd [0] .running) with cores := [(32, { Core.reset with farLoad := some ⟨0, 11, true, 2, 0x80000000, 0x40⟩, posted := posted })] }

theorem hyp_CoreEvents_far :
    (let d := onFar []
     let r := d.farWords 32 63 [] [(0x40, 2)]
     Powered d ∧ d.coreOn 32 = true ∧ (d.core 32).farLoad = some ⟨0, 11, true, 2, 0x80000000, 0x40⟩ ∧ r.1 = .data 0 ∧ r.2.core 32 = d.core 32) ∧
    (let d := onFar [⟨0x80000000, 0x40, [1, 2]⟩]
     isCore 32 = true ∧ (d.core 32).posted = [⟨0x80000000, 0x40, [1, 2]⟩] ∧ d.farClaimed (farAcc 32 63) 0x40 = false ∧
       d.farCheck (farAcc 32 63) kWrite 0x40 = none ∧ d.route 0x40 = .tarn 0 ∧
       (match d.target (coreDie 32) 0x40 with | .ok x => x == (some 0, 0x40) | .error _ => false) = true) := by
  unfold Powered; decide +kernel

/-- SD_SELECT of one row and one column through a kernel of one word: table at 0, output at 0x80, program at 0x100, kernel at 0x140. -/
def sel : Cmd :=
  { cmd [0x80, 0, 0, 0, 0x80, 0, 0x100, 0, 0x140, 0, 0, 0] .running with ready := true, out := [⟨0, ⟨3, 0, 0⟩⟩] }

def selMem : List (Nat × List Nat) :=
  [(0, [1, 1, 1]), (0x40, [2, 0, 0, 0, 0, 0, 0x400]), (0x80, [0, 1, 1]), (0xC0, [2, 0, 0, 0, 0, 0, 0x440]),
    (0x100, [1 + 2 ^ 16 + 2 ^ 20, 0, 2, 0, 2]), (0x140, [1, 0, 0x600])]

/-- Lane core 16 while its slice runs that command's chunk. -/
def onLane (c : Core) : Dev :=
  let b : Busy := ⟨2016, 0, sel, none, 0, false, []⟩
  { onMem sel with
    mem := selMem.foldl (fun t x => Tab.setMany 0 t x.1 (x.2.flatMap fun w => leBytes w 4)) [], cores := [(16, c)]
    engines := [((laneSlice 16).key, { Engine.reset with busy := some b })] }

theorem hyp_CoreEvents_lane :
    (∀ stopped ∈ [true, false], ∀ free ∈ [9599, 9600],
      let d := onLane { Core.reset with invoc := some ⟨2016, 9600, 0⟩, stopped := stopped, free := free }
      Powered d ∧ isLane 16 = true ∧ isCore 16 = true ∧ d.coreOn 16 = true ∧ (d.core 16).invoc = some ⟨2016, 9600, 0⟩ ∧
        (d.core 16).overLimit = (!stopped && decide (free = 9600)) ∧ d.cmdOf 2016 = some sel ∧ ⟨0, laneSlice 16⟩ ∈ sel.out ∧
        (Tab.get Engine.reset d.engines (laneSlice 16).key).busy = some ⟨2016, 0, sel, none, 0, false, []⟩) ∧
    (let d := onLane Core.reset
     let r := runAct (Sel.parse 2016 sel.words) d
     (d.core 16).invoc = none ∧ sel.opcode = 0x80 ∧ r.2 = d ∧ ((answer r).any fun q => q.kernel != 0 && decide (sel.at cPOS < q.i.rows) &&
       (answer (runAct (do loadKernel 2016 (coreDie 16) q.kernel; q.nextBlock (sel.at cPOS)) d)).isSome) = true) := by
  unfold Powered; decide +kernel

/-! ### The fabric -/

/-- A unit in a ring with identity 0 × 128 + 5, fabric port 11 in a state and port 0 UP, and switch state of its own. -/
def switch (st : Nat) (fab : Fab) (l : List (Fld × List Nat × Nat)) : Dev :=
  let d := unit ([(F.DIE_PRESENT, [], 255), (F.CHAIN_ADDR, [], 5), (F.PORT_STATE, fix 0, 3), (F.PORT_STATE, fix 11, st)] ++ l)
  { d with fab := fab }

/-- A flit from unit 9, partition 0, for partition 63 of unit `dst`. -/
def flit (dst kind cls : Nat) (data : List Word) : Flit :=
  { dst := dst, dstPart := 63, cls := cls, vc := 0, kind := kind, src := 9, srcPart := 0, last := true, msg := 7, seqn := 0, data := data,
    crcOk := true }

theorem hyp_FabricPorts :
    (∀ st ∈ [0, 1, 2, 3],
      let d := switch st Fab.reset [(F.PORT_ENABLE, fix 11, 1)]
      Powered d ∧ d.get F.PORT_STATE (fix 11) = st ∧ d.get F.PORT_ENABLE (fix 11) = 1 ∧
        (!d.hostShut && d.portsMay && !d.dieGone (6 + 11 / 6)) = true ∧ d.get F.PORT_MODE (fix 11) = 0) ∧
    (let d := switch 0 { Fab.reset with links := [(11, { Link.reset with retry := true })] } [(F.PORT_ENABLE, fix 11, 1)]
     (d.link 11).retry = true ∧ d.get F.PORT_STATE (fix 11) = 0 ∧ d.get F.PORT_ENABLE (fix 11) = 1 ∧
       (!d.hostShut && d.portsMay && !d.dieGone (6 + 11 / 6)) = true) ∧
    (∀ ident ∈ [9, 137],
      let d0 := switch 3 Fab.reset [(F.PARTNER_VALID, fix 11, 1), (F.PARTNER_IDENTITY, fix 11, ident), (F.CAD_ROLE_NOW, [], roleMaster)]
      let d := { d0 with cad := { d0.cad with unitPart := [9] } }
      (d.get F.PARTNER_VALID (fix 11) = 1 ∧ d.get F.PARTNER_IDENTITY (fix 11) / 128 = d.get F.CHAIN_ADDR_ID ∧ d.chainSource = true ∧
        d.get F.PARTNER_IDENTITY (fix 11) % 128 ∈ d.cad.unitPart) ↔ ident = 9) ∧
    (let d := switch 3 Fab.reset []
     let f := flit 5 7 0 [BitVec.ofNat 32 c0LOST]
     ForUs d 11 f ∧ f.kind = 7 ∧ wordAt f.data 0 = c0LOST) := by
  unfold ForUs FlitTaken Powered; decide +kernel

theorem hyp_FabricLink :
    (let d := switch 3 Fab.reset []
     let f := flit 9 1 3 []
     Powered d ∧ d.get F.PORT_STATE (fix 11) = 3 ∧ { f with crcOk := false }.crcOk = false ∧ { f with cls := 1 }.wellKind = false ∧
       (d.link 11).waiting = []) ∧
    (∀ n ∈ [0, 14, 15],
      let d := switch 3 { Fab.reset with links := [(11, { Link.reset with replay := [flit 9 1 3 []], replays := n })] } []
      Powered d ∧ d.get F.PORT_STATE (fix 11) = 3 ∧ (d.link 11).replay ≠ [] ∧ (d.link 11).replays = n) := by
  unfold Powered; decide +kernel

theorem hyp_FabricRouting_none :
    (∀ dst ∈ [128, 127, 9],
      let d := switch 3 Fab.reset []
      let f := flit dst 1 3 []
      FlitTaken d 11 f ∧ ¬(d.get F.CHAIN_ADDR ≠ 0 ∧ f.dst = d.ident) ∧ bitsOf (d.routeEntry f.dst).1 0 12 = 0) ∧
    (let g := flit 9 1 3 []
     let d := switch 3 { Fab.reset with inject := [g] } []
     d.fab.inject = [g] ∧ g.dst ≠ d.ident ∧ g.charged = true ∧ g.dst % 128 ≠ 0 ∧ g.dst % 128 ≠ 127 ∧
       bitsOf (d.routeEntry g.dst).1 0 12 = 0 ∧ d.colPorts g.srcPart = 0) := by
  unfold FlitTaken Powered; decide +kernel

/-- The entry toward unit 9 names port 0; one credit there, or none. -/
def routed (credits : Tab Nat) : Dev :=
  (switch 3 { Fab.reset with links := [(0, { Link.reset with credits := credits })] } []).setReg (0x3E20000 + 8 * 9) 1

theorem hyp_FabricRouting_some : ∀ credits ∈ [[], [(6, 1)]],
    let d := routed credits
    let f := flit 9 1 3 []
    let a := (d.routeEntry f.dst).1
    let b := (d.routeEntry f.dst).2.1
    FlitTaken d 11 f ∧ ¬(d.get F.CHAIN_ADDR ≠ 0 ∧ f.dst = d.ident) ∧ f.dst % 128 ≠ 0 ∧ f.dst % 128 ≠ 127 ∧
      ((List.range 12).filter fun n => bitAt (bitsOf a 0 12) n && d.fabUp n) = [0] ∧ d.encapPort 0 = false ∧
      (d.link 0).waiting = [] ∧ bitsOf b 0 3 = 7 ∧ bitAt b 3 = false ∧ bitsOf a 12 1 = 0 ∧
      Tab.get 0 (d.link 0).credits (pairOf f.cls 0) = Tab.get 0 credits 6 := by
  unfold FlitTaken Powered; decide +kernel

/-- A relay's BID of its own, with the entry toward its destination and the credit of its class. -/
theorem hyp_FabricRouting_relay :
    let g := { flit 9 7 0 [BitVec.ofNat 32 tyBid] with src := 5 }
    let d0 := routed [(pairOf 0 0, 1)]
    let d := { d0.put F.RELAY [] 1 with fab := { d0.fab with inject := [g] } }
    Powered d ∧ d.fab.inject = [g] ∧ g.dst ≠ d.ident ∧ g.dst % 128 ≠ 0 ∧ g.dst % 128 ≠ 127 ∧ g.kind = 7 ∧ g.cls = 0 ∧
      d.get F.RELAY = 1 ∧ wordAt g.data 0 ≤ tyHandover ∧ d.get F.RELAY_PORT = 0 ∧ bitAt (bitsOf (d.routeEntry g.dst).1 0 12) 0 = true ∧
      d.get F.PORT_STATE (fix 0) = 3 ∧ d.encapPort 0 = false ∧ (d.link 0).waiting = [] ∧ (d.link 0).replay.length < 8192 ∧
      0 < Tab.get 0 (d.link 0).credits (pairOf 0
        (if bitAt (d.routeEntry g.dst).2.1 3 = true then 1 else bitsOf (d.routeEntry g.dst).1 12 1)) := by
  unfold Powered; decide +kernel

/-- With one port left to choose from, every hash chooses it. -/
theorem hyp_FabricRouting_spread (flow : Nat) : (routed []).spread 1 flow = some 0 := by
  have h : ((List.range 12).filter fun n => bitAt 1 n && (routed []).fabUp n) = [0] := by decide +kernel
  unfold Dev.spread
  rw [h]
  simp [Nat.mod_one]

/-- Flits of every kind for this unit; PUT and GET_REQ of one byte at address 0, for a partition that is ENABLED or not. -/
def reqData (aux : Nat) : List Word := [0, 0, 1, BitVec.ofNat 32 aux, 5, 0, 0x11]

theorem hyp_FabricTransfers_remote : ∀ kind ∈ [1, 2], ∀ st ∈ [pDISABLED, pENABLED], ∀ aux ∈ [0, 256],
    let d := switch 3 Fab.reset [(F.P_STATE, [63], st)]
    let f := flit 5 kind 3 (reqData aux)
    let port : Acc := ⟨63, 0, xferMid 11, false⟩
    ForUs d 11 f ∧ f.seqn = 0 ∧ f.last = true ∧ d.get F.P_STATE [f.dstPart] = st ∧
      ((heardOn d 11).inboundWrite port 0 [0x11]).1 = some (stPROT, dMPU) ∧
      ((heardOn d 11).inboundWrite port 0 [0x11]).2.get F.CHAIN_ADDR = 5 ∧
      failure (runAct (readMem port 0 (min 1 msgMax)) (heardOn d 11)) = some (stPROT, dMPU) := by
  unfold ForUs FlitTaken Powered; decide +kernel

/-- Partition 63 owns the first granule of die 0, with a region of its own and a global one that let all through. -/
def owned : Dev :=
  switch 3 Fab.reset [(F.P_STATE, [63], pENABLED), (F.ACT_GRAN_LO, [63, 0], 1), (F.GR_EN, [0], 1), (F.GR_TOP_LO, [0], 0x10000),
    (F.GR_RWX, [0], 511), (F.PR_EN, [63, 0], 1), (F.PR_TOP_LO, [63, 0], 0x10000), (F.PR_RWX, [63, 0], 7)]

theorem hyp_FabricTransfers_ok :
    let port : Acc := ⟨63, 0, xferMid 11, false⟩
    let r := (heardOn owned 11).inboundWrite port 0 [0x11]
    let f := flit 5 1 3 (reqData 256)
    ForUs owned 11 f ∧ r.1 = some (stOK, 0) ∧ r.2.get F.CHAIN_ADDR = 5 ∧ r.2.fab.inMsgs = [] ∧
      bitAt (r.2.get F.REMOTE_SIG [63, 0]) 0 = false ∧
      bitAt ((r.2.put F.REMOTE_SIG [63, 0] 1).get F.REMOTE_SIG [63, 0]) 0 = true ∧
      (r.2.signalFence 63 0 5 false).get F.CHAIN_ADDR = 5 ∧
      answer (runAct (readMem port 0 (min 1 msgMax)) (heardOn owned 11)) = some [0] := by
  unfold ForUs FlitTaken Powered; decide +kernel

theorem hyp_FabricTransfers_answers : ∀ kind ∈ [1, 2], ∀ st ∈ [stOK, stPROT, stFAULT],
    let o : OutMsg := { queue := 0, tag := 7, dst := 9, dstPart := 0, kind := kind, addr := 0, bytes := 1, port := 11, mute := false }
    let d := switch 3 { Fab.reset with outMsgs := [o] } []
    let f := if kind = 2 then flit 5 3 2 (reqData st) else flit 5 4 3 [BitVec.ofNat 32 st]
    ForUs d 11 f ∧ f.seqn = 0 ∧ f.last = true ∧ bitsOf (wordAt (reqData st) 3) 0 4 = st ∧ bitsOf (BitVec.ofNat 32 st).toNat 0 4 = st ∧
      (d.fab.outMsgs.find? fun o => o.tag == f.msg && (if kind = 2 then o.kind == 2 else o.kind != 2) && o.dst == f.src) = some o ∧
      ((heardOn d 11).inboundWrite ⟨0, 0, xferMid 11, false⟩ 0 [0x11]).1 = some (stPROT, dMPU) := by
  unfold ForUs FlitTaken Powered; decide +kernel

/-- A collective of two members, this unit's partition 63 the first. -/
def aColl (kind : Nat) (naks : List Nat) : Coll :=
  { id := 3, kind := kind, red := 0, fmt := 0, count := 1, nmemb := 2, root := 0, self := 0, src := 0, dst := 0, group := [(5, 63), (9, 0)],
    digest := 77, grants := [], naks := naks, outq := [], own := (0, 0), inp := (0, 0), stage := [], direct := 0, dones := [],
    sentDone := false }

theorem hyp_FabricCollectives_control : ∀ op ∈ [ccREADY, ccNAK, ccCREDIT, ccABORT, ccDONE], ∀ arg ∈ [76, 77],
    let d0 := switch 3 Fab.reset []
    let d := { d0 with fab := { d0.fab with colls := [(2016, some (aColl 1 []))] } }
    let f := flit 5 6 3 (ctrlWords op 3 arg)
    ForUs d 11 f ∧ ForUs d0 11 f ∧ bitsOf (wordAt f.data 0) 16 16 = 3 ∧ bitsOf (wordAt f.data 0) 0 4 = op ∧
      d0.collOf f.dstPart 3 = none ∧ d.collOf f.dstPart 3 = some (2016, aColl 1 []) ∧ (aColl 1 []).member f.src f.srcPart = some 1 ∧
      Tab.get none d.fab.colls 2016 = some (aColl 1 []) ∧ wordAt f.data 1 = arg := by
  unfold ForUs FlitTaken Powered; decide +kernel

theorem hyp_FabricCollectives_data :
    (∀ kind ∈ [1, 4], ∀ st ∈ [pDISABLED, pENABLED],
      let d0 := switch 3 Fab.reset [(F.P_STATE, [63], st)]
      let d := { d0 with fab := { d0.fab with colls := [(2016, some (aColl kind []))] } }
      let f := flit 5 5 1 (reqData 3)
      let r := (heardOn d 11).inboundWrite ⟨63, 0, xferMid 11, false⟩ 0 [0x11]
      ForUs d 11 f ∧ f.seqn = 0 ∧ f.last = true ∧ d.fab.inMsgs = [] ∧ d.get F.P_STATE [63] = st ∧
        d.collOf 63 (wordAt f.data 3 % 65536) = some (2016, aColl kind []) ∧ r.1 = some (stPROT, dMPU) ∧ r.2.fab.inMsgs = []) ∧
    (let c := aColl 1 [1]
     let w := cmd ([0xA2] ++ List.replicate 11 0 ++ [100, 0, 0, 0]) .running
     let d0 := running 2016 w [(F.CHAIN_ADDR, [], 5)]
     let d := { d0 with fab := { d0.fab with colls := [(2016, some c)] } }
     Powered d ∧ queueOk 2016 = true ∧ Tab.get none d.fab.colls 2016 = some c ∧ d.get F.CHAIN_ADDR ≠ 0 ∧ d.cmdOf 2016 = some w ∧
       bitsOf (wordAt w.words 12) 0 24 = 100) := by
  unfold ForUs FlitTaken Powered; decide +kernel

theorem hyp_FabricControl : ∀ typ ∈ [tyTick, tyVote, tyJoin, tyLeave, tyBid, tyHandover, c0STOP],
    let d := { switch 3 Fab.reset [] with cores := [(32, Core.reset)] }
    let f := flit 5 7 0 (BitVec.ofNat 32 typ :: 32 :: List.replicate 7 0)
    let h := heardOn d 11
    ForUs d 11 f ∧ wordAt f.data 0 = typ ∧ (h.onTick (TickMsg.ofWords (f.data.drop 1))).get F.RELAY = 0 ∧
      (h.onBid (BidMsg.ofWords (f.data.drop 1))).get F.RELAY = 0 ∧ Tab.has d.cores (wordAt (f.data.drop 1) 0) = true := by
  unfold ForUs FlitTaken Powered; decide +kernel

/-- Port 0 encapsulates toward peer 9 of entry 0, with one frame not acknowledged, sent `resends` times again. -/
def encap (resends : Nat) (halved : Option Nat) : Dev :=
  let p : Peer := { port := 0, next := 4, expect := 2, unacked := [(3, [])], resends := resends, window := 5, grown := 0, halved := halved
                    waiting := [], ece := false }
  switch 0 { Fab.reset with peers := [(39, some p)] } [(F.PORT_MODE, fix 0, 1), (F.EP_VALID, [0], 1), (F.EP_IDENTITY, [0], 9)]

/-- A frame for this unit, with its acknowledgement and its flits, none of them sound. -/
def eframe (ack psn : Nat) (ece nak : Bool) (n : Nat) : EFrame :=
  { (encap 0 none).eframe 0 3 psn ack nak ece (List.replicate n { flit 5 1 3 [] with crcOk := false }) with
    dmac := (encap 0 none).get64 F.ENCAP_MAC_LO F.ENCAP_MAC_HI [], dip := List.replicate 4 0 }

theorem hyp_FabricEncap_frame : ∀ ece ∈ [false, true], ∀ halved ∈ [none, some 0], ∀ n ∈ [0, 1], ∀ psn ∈ [1, 2, 3],
    let d := encap 0 halved
    let f := { eframe 3 psn ece true n with sip := (List.range 4).map fun i => d.reg (F.EP_IP.off [0, i]) }
    Powered d ∧ d.get F.PORT_STATE (fix 0) = 3 ∧ d.encapPort 0 = true ∧ d.frameOk f = true ∧
      d.frameOk { f with sound := false } = false ∧ d.now < 0 + 25 * d.get F.ENCAP_RTO ∧ f.cls = 3 ∧ f.flits.length = n ∧
      (Tab.get none d.fab.peers 39).isSome = true ∧ d.inputUse 0 f.cls + 1 ≤ ownCredits.getD (2 * f.cls) 0 := by
  unfold Powered; decide +kernel

theorem hyp_FabricEncap_peer :
    (encap 0 none).peerEntry 9 = some 0 ∧ (encap 0 none).framePeer (eframe 3 2 false false 1) = some 9 ∧
      (∀ resends ∈ [0, 7, 8],
        ((Tab.get none (encap resends none).fab.peers (9 * 4 + 3)).any fun p => p.unacked == [(3, [])] && p.resends == resends) = true) := by
  decide +kernel

/-! ### The whole machine -/

theorem hyp_EveryStepCompletes :
    { Dev.reset with pwr := { Pwr.reset with off := 1 } }.pwr.off ≠ 0 ∧ ¬StartsUnit .tickApply := by
  constructor
  · decide +kernel
  · rintro (h | h | h | ⟨a, h⟩) <;> cases h

theorem hyp_EncodingsRoundTrip :
    (∀ lane ∈ [false, true], (⟨.movx, 0, 7, 0, -2048, 0, 2⟩ : Ri).WellFormed lane ∧ (⟨.movl, 1, 7, 0, 0xFFFFFFFF, 0, 4⟩ : Ri).WellFormed lane) ∧
    PosFits ⟨2 ^ 48 - 1, 15, 2 ^ 20 - 1⟩ ∧
    (let f := frame 15 255 127 [1]
     f.dst < 2 ^ 7 ∧ f.src < 2 ^ 7 ∧ f.typ < 2 ^ 4 ∧ f.cls < 2 ∧ f.len < 2 ^ 6 ∧ f.tag < 2 ^ 8 ∧ f.hops < 2 ^ 8 ∧ f.chain < 2 ^ 8 ∧ f.sub < 2 ^ 8) := by
  unfold Ri.WellFormed PosFits; decide +kernel

theorem hyp_CoresStayWell : ∀ key ∈ [16, 32, 784],
    CoreOk key Core.reset ∧ (isWarden key = true → HasFrame (stacked 0x10000)) ∧ CoreOk key (stacked 0x10000) := by
  unfold CoreOk HasFrame; decide +kernel

/-! ### Ill-formed commands: each check refuses one, and lets its last value through -/

theorem wf_below : Wf.command (.arm 256) = false ∧ Wf.command (.arm 255) = true := by decide
theorem wf_queue : Wf.command (.nop 2048) = false ∧ Wf.command (.nop 2047) = true := by decide
theorem wf_frame : Wf.command (.rdReq 0 (frame 16 0 5 [])) = false ∧ Wf.command (.rdReq 2 (frame 15 0 5 [])) = false ∧
    Wf.command (.rdReq 1 (frame 15 0 5 (List.replicate 63 0))) = true := by decide
theorem wf_flit : Wf.command (.put 0 (flit 32768 1 3 [])) = false ∧ Wf.command (.put 11 (flit 32767 1 3 [])) = true := by decide
theorem wf_hello : Wf.command (.linkHello 0 ⟨9, 0, 0, [], none⟩) = false ∧
    Wf.command (.linkHello 0 ⟨9, 0, 0, ownCredits, none⟩) = true := by decide
theorem wf_linkMsg : Wf.command (.link 0 (.credit [(8, 1)] 0)) = false ∧ Wf.command (.link 0 (.credit [(7, 1)] 0)) = true := by decide
theorem wf_eframe :
    let f := { eframe 3 2 false false 0 with flow := 2 ^ 20 - 1, sport := 65535 }
    Wf.eframe { f with dip := [] } = false ∧ Wf.eframe { f with cls := 4 } = false ∧ Wf.eframe f = true := by
  decide +kernel
theorem wf_answers : Wf.command (.bringup (answers 4 [] 0)) = false ∧ Wf.command (.bringup (answers 3 [] 4095)) = true := by
  decide
theorem wf_detect : Wf.detect (some ⟨0x43, 8, 0, none, 0, 0⟩) = false ∧ Wf.detect (some ⟨0x43, 7, 0, some 63, 0, 0⟩) = true := by decide
theorem wf_requester : Wf.requester (.mgmt 2) = false ∧ Wf.requester (.vf 64) = true := by decide
theorem wf_access : Wf.command (.registerWrite .pf 0 3 0) = false ∧ Wf.command (.registerWrite .pf (2 ^ 26 - 2) 4 0) = false ∧
    Wf.command (.registerWrite .pf (2 ^ 26 - 2) 2 65535) = true := by decide
theorem wf_pair : Wf.command (.pairLoRead .pf ⟨2 ^ 26, 4⟩) = false ∧ Wf.command (.pairLoRead .pf ⟨2 ^ 26 - 4, 4⟩) = true := by decide
theorem wf_core : Wf.command (.add 8) = false ∧ Wf.command (.add 16) = true ∧ Wf.command (.laneStop 32) = false ∧
    Wf.command (.impreciseTrap 16) = false ∧ Wf.command (.impreciseTrap 784) = true := by decide
theorem wf_engine : Wf.command (.engineHang 4 5 0) = false ∧ Wf.command (.engineHang 4 7 15) = true := by decide
theorem wf_columns : Wf.command (.calibration 0 0 44 0) = false ∧ Wf.command (.calibration 5 16383 43 7) = true := by decide

/-! ### Single steps and operations, with results worked out from the spec -/

/-- The check value of CRC-32C (04 R129): of the nine ASCII digits 1 to 9. -/
theorem test_crc32c : crc32c (leBytes 0x393837363534333231 9) = 0xE3069283 := by decide +kernel

/-- 13 Table 13.6: on a spur core the word of ADD G1, G2 with condition 5 is 101 00 000 001 010. -/
theorem test_decode_add : decodeRidge false (fun _ => 0x280A) = ⟨.add, 5, 1, 2, 0, 0, 1⟩ := by decide

/-- 13 Tables 13.6 and 13.7: LD G7, [B3 − 4] of a lane core is 0 101 00 11 111 0 with 10 1111111111 behind it. -/
theorem test_decode_ld : decodeRidge true (fun j => if j = 0 then 0x53E else 0xBFF) = ⟨.ld, 0, 7, 3, -4, 4, 2⟩ := by decide

/-- 13 Table 13.7: MOVL takes bits 31 to 28, 27 to 14 and 13 to 0 from its extension words on a spur core. -/
theorem test_decode_movl :
    decodeRidge false (fun j => if j = 0 then 0x3F6 else if j = 1 then 8 else if j = 2 then 0 else 1) = ⟨.movl, 0, 7, 0, 0x80000001, 0, 4⟩ := by
  decide

/-- What a step makes of a unit. -/
def after (c : Instr) (d : Dev) : Dev :=
  match step ⟨d, [c]⟩ with
  | .next s => s.dev
  | _ => d

/-- ADD of 0x7FFFFFFF and 1 (13 R466): 0x80000000 with N and V, without C and Z. -/
theorem test_add :
    let d := onCore 32 ⟨.add, 0, 0, 1, 0, 0, 1⟩ { Core.reset with g := [(0, 0x7FFFFFFF), (1, 1)] }
    let c := (after (.add 32) d).core 32
    c.gNow 0 = 0x80000000 ∧ StBit c fN = true ∧ StBit c fV = true ∧ StBit c fC = false ∧ StBit c fZ = false ∧ c.pc = 1 := by
  decide +kernel

/-- BLC with LC 0 (13 R472): LC becomes 0xFFFFFFFF, which is not 0, so it goes back. -/
theorem test_blc :
    let d := onCore 32 ⟨.blc, 0, 0, 0, -2, 0, 2⟩ Core.reset
    let c := (after (.blc 32) d).core 32
    c.lc = 0xFFFFFFFF ∧ c.pc = 0 := by
  decide +kernel

/-- TRAP 7 with VBASE 0x100 (13 R475, Table 13.13): vector 15, at 0x11E; the address behind it and ST are on the stack. -/
theorem test_trap :
    let d := onCore 32 ⟨.trap, 0, 7, 0, 0, 0, 1⟩ { stacked 0x10000 with ctl := [(2, 0x1000), (3, 0x100)], st := 0x40 }
    let c := (after (.trap 32) d).core 32
    c.pc = 0x11E ∧ c.bNow 3 = 0xFFF8 ∧ c.loadNear 0xFFF8 4 = 1 ∧ c.loadNear 0xFFFC 4 = 0x40 := by
  decide +kernel

/-- A write of two bytes, and one of four, of the PF to BOOT_IMG_ADDR_HI (00 R11): the first only sets WIDTH_ERR. -/
theorem test_register_write :
    let off := F.BOOT_IMG_ADDR_HI.off []
    (after (.registerWrite .pf off 2 0xFFFF) (ready [])).reg off = 0 ∧ (after (.registerWrite .pf off 2 0xFFFF) (ready [])).get F.WIDTH_ERR = 1 ∧
      (after (.registerWrite .pf off 4 0x12345678) (ready [])).reg off = 0x12345678 := by
  decide +kernel

/-- A PORT_LOCK sends HELLO with the initial credits of Table 16.12. -/
theorem test_port_lock :
    let e := after (.portLock 11) (switch 1 Fab.reset [])
    e.get F.PORT_STATE (fix 11) = 2 ∧
      (e.link 11).out = [.hello ⟨5, 11, 0, [32, 32, 4096, 4096, 4096, 4096, 4096, 4096], none⟩] := by
  decide +kernel

/-- An empty queue of commands: one always-on cycle (the model's own, assumption 1). -/
theorem test_idle : (match step ⟨Dev.reset, []⟩ with | .next s => s.dev.now | _ => 0) = 1 := by decide +kernel

end Sys2Proof.Tests
end

section
/-! SUPPORT. The laws of the Ridge cores: bytes of data memory, registers and flags after a write, what one instruction of a core
gives on the unit, and the statement about logic, moves and shifts (13 R461 to R467). -/

namespace Sys2Proof.Machine

/-! ### Bytes of data memory (13 R458) -/

@[simp] theorem leBytes_length (v n : Nat) : (leBytes v n).length = n := by
  induction n generalizing v with
  | zero => rfl
  | succ n ih => simp [leBytes, ih]

theorem leNat_leBytes (v n : Nat) : leNat (leBytes v n) = v % 256 ^ n := by
  induction n generalizing v with
  | zero => simp [leBytes, leNat, Nat.mod_one]
  | succ n ih =>
    rw [leBytes, leNat, ih, BitVec.toNat_ofNat, pow_succ' 256 n, Nat.mod_mul (x := v) (a := 256)]

theorem Core.loadNear_setMany (c : Core) (t : Tab Byte) (a v n : Nat) :
    ({ c with dmem := Tab.setMany 0 t a (leBytes v n) } : Core).loadNear a n = v % 256 ^ n := by
  have h := Tab.getMany_setMany 0 (leBytes v n) t a
  rw [leBytes_length] at h
  rw [Core.loadNear, h, leNat_leBytes]

theorem Core.place_near (c : Core) (lane : Bool) {a size : Nat} (ha : a % size = 0) (hn : a < 0x10000) :
    c.place lane a size = .near := by
  simp [Core.place, ha, hn]

theorem Core.store_near (c : Core) (lane : Bool) {a size : Nat} (v : Nat) (ha : a % size = 0) (hn : a < 0x10000) :
    c.store lane a size v = .ok { c with dmem := Tab.setMany 0 c.dmem a (leBytes v size) } := by
  simp only [Core.store, c.place_near lane ha hn]

/-! ### Registers after a write -/

@[simp] theorem Core.gNow_setG (c : Core) (n kind : Nat) (v : Word) (m : Nat) :
    (c.setG n kind v).gNow m = if m = n then v else c.gNow m := Tab.get_set 0 c.g n m v

@[simp] theorem Core.bNow_setB (c : Core) (n kind : Nat) (v : Word) (m : Nat) :
    (c.setB n kind v).bNow m = if m = n then v else c.bNow m := Tab.get_set 0 c.b n m v

/-! ### Results and flags (13 R463, R466, R467) -/

theorem StBit_congr {c c' : Core} (h : c.st = c'.st) (n : Nat) : StBit c n = StBit c' n := by
  rw [StBit, StBit, h]

theorem StBit_setFlag (c : Core) {i : Nat} (v : Bool) (n : Nat) (hi : i < 32) :
    StBit (c.setFlag i v) n = if n = i then v else StBit c n := by
  unfold StBit Core.setFlag
  rw [BitVec.getLsbD_ofNat]
  split
  · next h =>
    subst h
    have e := bitsOf_putBits_same c.st.toNat n 1 (b2n v)
    rw [bitsOf_one] at e
    cases v <;> simp_all [b2n]
  · next h =>
    rw [testBit_putBits_ne _ _ _ _ _ (by omega)]
    by_cases h32 : n < 32
    · simp [h32, BitVec.getLsbD]
    · simp [h32, BitVec.getLsbD_of_ge c.st n (by omega)]

theorem StBit_setNZ (c : Core) (r : Word) (n : Nat) :
    StBit (c.setNZ r) n = if n = fZ then decide (r = 0) else if n = fN then r.msb else StBit c n := by
  rw [Core.setNZ, StBit_setFlag _ _ _ (by decide), StBit_setFlag _ _ _ (by decide), BitVec.msb_eq_getLsbD_last]
  rfl

theorem flagAt_eq (c : Core) (i : Nat) : c.flagAt i = StBit c i := by
  rw [Core.flagAt, bitAt, bitsOf_one, StBit, BitVec.getLsbD]
  cases c.st.toNat.testBit i <;> rfl

theorem ofInt_sext (a : Word) {w : Nat} (hw : 0 < w) : BitVec.ofInt 32 (sext a.toNat w) = (a.setWidth w).signExtend 32 := by
  obtain ⟨w, rfl⟩ := Nat.exists_eq_succ_of_ne_zero hw.ne'
  rw [BitVec.signExtend, BitVec.toInt_eq_toNat_cond, BitVec.toNat_setWidth, sext, Nat.succ_sub_one]
  simp [pow_succ']

theorem and_mask (a : Word) {w : Nat} (hw : w < 32) : a &&& BitVec.ofNat 32 (2 ^ w - 1) = (a.setWidth w).setWidth 32 := by
  have h2 : 2 ^ w < 2 ^ 32 := Nat.pow_lt_pow_right (by decide) hw
  have ha : a.toNat % 2 ^ w < 2 ^ 32 := (Nat.mod_le _ _).trans_lt a.isLt
  apply BitVec.eq_of_toNat_eq
  rw [BitVec.toNat_and, BitVec.toNat_ofNat, Nat.mod_eq_of_lt (show 2 ^ w - 1 < 2 ^ 32 by omega), Nat.and_two_pow_sub_one_eq_mod,
    BitVec.toNat_setWidth, BitVec.toNat_setWidth, Nat.mod_eq_of_lt ha]

theorem ofNat_bitsOf (v lo : Nat) : BitVec.ofNat 32 (bitsOf v lo 32) = BitVec.ofNat 32 (v / 2 ^ lo) := by
  apply BitVec.eq_of_toNat_eq
  simp [bitsOf]

/-- What a shift of `a` by `n` gives: kinds 0 SHL, 1 SHR, 2 SAR, 3 ROR (13 R467). -/
def shiftValue (kind n : Nat) (a : Word) : Word :=
  if kind = 0 then a <<< n else if kind = 1 then a >>> n else if kind = 2 then a.sshiftRight n else a.rotateRight n

/-- The carry of such a shift when the count is not 0. -/
def shiftCarry (kind n : Nat) (a : Word) : Bool :=
  if kind = 0 then a.getLsbD (32 - n) else if kind = 3 then (shiftValue kind n a).msb else a.getLsbD (n - 1)

theorem shiftValue_zero (kind : Nat) (a : Word) : shiftValue kind 0 a = a := by
  unfold shiftValue
  split_ifs <;> simp [BitVec.rotateRight, BitVec.rotateRightAux]

/-- A shift is its value, with N and Z of it, and C too when the count is not 0. -/
theorem Core.shift_eq (c : Core) (kind n : Nat) (a : Word) :
    c.shift kind n a = (shiftValue kind n a,
      if n = 0 then c.setNZ (shiftValue kind n a) else (c.setNZ (shiftValue kind n a)).setFlag fC (shiftCarry kind n a)) := by
  by_cases hn : n = 0
  · subst hn
    simp [Core.shift, shiftValue_zero]
  · rcases kind with _ | _ | _ | _ | kind <;> simp [Core.shift, shiftValue, shiftCarry, hn, BitVec.msb_eq_getLsbD_last]

theorem StBit_shift (c : Core) (kind n : Nat) (a : Word) (m : Nat) :
    StBit (c.shift kind n a).2 m =
      if m = fZ then decide (shiftValue kind n a = 0) else if m = fN then (shiftValue kind n a).msb
      else if m = fC then (if n = 0 then StBit c fC else shiftCarry kind n a) else StBit c m := by
  rw [Core.shift_eq]
  split
  · rw [StBit_setNZ]
    grind
  · rw [StBit_setFlag _ _ _ (by decide), StBit_setNZ]
    grind

/-! ### One instruction of the ALU, the immediates, the shifts and the moves -/

/-- The operations whose result goes to G[x] or nowhere. -/
def aluOps : List Rop :=
  [.add, .sub, .adc, .and, .or, .xor, .mov, .cmp, .addi, .movi, .cmpi, .addx, .andx, .orx, .xorx, .cmpx, .movx, .movl, .tstx, .shv,
    .neg, .not, .sxtb, .sxth, .zxtb, .zxth, .shl, .shr, .sar, .ror, .rdm, .movg]

/-- The core behind such an instruction but for its PC. -/
def Core.afterAlu (c : Core) (i : Ri) : Core :=
  let c' := (c.alu i).2.noteFlags c
  (c.alu i).1.elim c' (c'.setG i.x 0)

theorem Core.effect_alu (c : Core) (key : Nat) {i : Ri} (next : Nat) (h : i.op ∈ aluOps) :
    ∃ cost, c.effect key i next = .go { c.afterAlu i with pc := next } cost := by
  have hs : i.op.isString = false := (by decide : ∀ op ∈ aluOps, op.isString = false) _ h
  unfold Core.effect Core.afterAlu
  split
  case h_32 => cases hv : (c.alu i).1 <;> simp [hs, hv]
  all_goals next h' => exact absurd (h' ▸ h) (by decide)

theorem Core.noteFlags_eq (c before : Core) : ∃ hist, c.noteFlags before = { c with hist := hist } := by
  unfold Core.noteFlags
  split <;> exact ⟨_, rfl⟩

theorem Core.afterAlu_eq {c : Core} {i : Ri} {w : Bool} {r st : Word} (h : c.alu i = (if w then some r else none, { c with st := st })) :
    (∃ g hist, c.afterAlu i = { c with g := g, st := st, hist := hist }) ∧
      ∀ n, (c.afterAlu i).gNow n = if w ∧ n = i.x then r else c.gNow n := by
  obtain ⟨hist, hn⟩ : ∃ hist, ({ c with st := st } : Core).noteFlags c = { c with st := st, hist := hist } := Core.noteFlags_eq _ c
  cases w
  · have e : c.afterAlu i = { c with st := st, hist := hist } := by
      rw [Core.afterAlu, h]
      exact hn
    rw [e]
    exact ⟨⟨_, _, rfl⟩, fun n => by simp [Core.gNow]⟩
  · have e : c.afterAlu i = ({ c with st := st, hist := hist } : Core).setG i.x 0 r := by
      rw [Core.afterAlu, h]
      exact congrArg (·.setG i.x 0 r) hn
    rw [e]
    exact ⟨⟨_, _, rfl⟩, fun n => by rw [Core.gNow_setG]; simp [Core.gNow]⟩

theorem Core.shift_onlySt (c : Core) (kind n : Nat) (a : Word) :
    (c.shift kind n a).2 = { c with st := (c.shift kind n a).2.st } := by
  rw [Core.shift_eq]
  split <;> rfl

/-! ### Issue -/

theorem Core.capture_eq (c : Core) (lane : Bool) (choice : Nat) (i : Ri) :
    c.capture lane choice i = { c with loop := (c.capture lane choice i).loop } := by
  unfold Core.capture
  split <;> rfl

theorem Core.runs_stopped {c : Core} (h : c.runs = true) : c.stopped = false := by
  simp only [Core.runs, Bool.and_eq_true, Bool.not_eq_true'] at h
  obtain ⟨⟨⟨hs, -⟩, -⟩, -⟩ := h
  exact hs

/-- A core that comes to no stop of its own, but at the end of a lane invocation that has not trapped, changes nothing else of the unit. -/
theorem Dev.coreMoved_quiet (s : Dev) (key : Nat) (c : Core) {c' : Core}
    (h : c'.stopped = true → isLane key = true ∧ c'.done ≠ 2) : s.coreMoved key c c' = s.setCore key c' := by
  unfold Dev.coreMoved
  cases hs : c'.stopped
  · simp
  · obtain ⟨hl, hd⟩ := h hs
    simp [hl, hd]

@[simp] theorem Dev.core_setCore_same (s : Dev) (key : Nat) (c : Core) : (s.setCore key c).core key = c :=
  Tab.get_set_same Core.reset s.cores key c

theorem Dev.core_setCore_ne (s : Dev) {key k : Nat} (c : Core) (h : k ≠ key) : (s.setCore key c).core k = s.core k :=
  Tab.get_set_ne Core.reset Core.reset s.cores key k c h

theorem Dev.staleChoice_snd (s : Dev) (c : Core) : (s.staleChoice c).2 = { s with free := (s.staleChoice c).2.free } := by
  unfold Dev.staleChoice
  split <;> rfl

end Sys2Proof.Machine

namespace Sys2Proof

open Machine

/-! ### Issue on the unit -/

theorem onlyCore_setCore (d : Dev) (key : Nat) (c0 c : Core) : OnlyCore key d ((d.staleChoice c0).2.setCore key c) := by
  rw [d.staleChoice_snd c0]
  exact ⟨rfl, fun k hk => Dev.core_setCore_ne _ c hk⟩

/-- Before its next instruction has its effect a core differs from what it was in time, in what has landed in MX and in the loop
buffer's words. -/
theorem atIssue_eq (d : Dev) (key : Nat) : ∃ cyc ctl mx mxw loop, d.atIssue key =
    { d.core key with cyc := cyc, ctl := ctl, mx := mx, mxw := mxw, entry := none, halted := false, loop := loop } := by
  rw [Machine.Dev.atIssue, Core.capture_eq]
  exact ⟨_, _, _, _, _, rfl⟩

theorem Issues.op_eq {d : Dev} {key : Nat} {op : Rop} (h : Issues d key op) : (d.nextRi key).op = op := by
  obtain ⟨-, -, -, -, -, ho⟩ := h
  exact ho

theorem Issues.atIssue_stopped {d : Dev} {key : Nat} {op : Rop} (h : Issues d key op) : (d.atIssue key).stopped = false := by
  obtain ⟨-, -, hr, -⟩ := h
  obtain ⟨_, _, _, _, _, e⟩ := atIssue_eq d key
  rw [e]
  exact (Core.runs_stopped hr : (d.core key).stopped = false)

theorem Issues.atIssue_rep {d : Dev} {key : Nat} {op : Rop} (h : Issues d key op) : (d.atIssue key).rep = 0 := by
  obtain ⟨-, -, -, hr, -⟩ := h
  obtain ⟨_, _, _, _, _, e⟩ := atIssue_eq d key
  rw [e]
  exact hr

theorem onlyFlow_issued {c0 c : Core} (h : OnlyFlow c0 c) (i : Ri) (u cost old : Nat) (paired lane : Bool) :
    OnlyFlow c0 (c.issued i u cost old paired lane) := by
  unfold OnlyFlow at *
  rw [h]
  rfl

theorem onlyFlow_fall (c : Core) (next : Nat) : ∃ c' n, c.fall next = .go c' n ∧ c'.pc = next ∧ OnlyFlow c c' := by
  unfold Core.fall
  split <;> exact ⟨_, _, rfl, rfl, rfl⟩

/-- The step of a core whose next instruction has its effect. -/
theorem Does.step_effect {d : Dev} {key : Nat} {op : Rop} (h : Does d key op) (hop : op ≠ .reserved) {c2 : Core} {cost : Nat}
    (he : (d.atIssue key).effect key (d.nextRi key) (d.nextPc key) = .go c2 cost) :
    ∃ u old paired, (d.core key).step key (d.staleChoice (d.core key)).1 = c2.issued (d.nextRi key) u cost old paired (isLane key) := by
  obtain ⟨⟨-, -, hr, h0, hn, ho⟩, hh⟩ := h
  refine ⟨((d.core key).issue (isLane key) (d.nextRi key)).1, (d.core key).free,
    ((d.core key).issue (isLane key) (d.nextRi key)).2, ?_⟩
  unfold Machine.Dev.nextPc Machine.Dev.atIssue Machine.Dev.nextRi at *
  have hi : ((d.core key).current key (d.staleChoice (d.core key)).1).op ≠ .reserved := fun e => hop (ho.symm.trans e)
  unfold Core.step
  simp only [hr, h0, hn, hi, hh, he, Bool.not_true, Bool.false_eq_true, if_false, bne_self_eq_false, Bool.or_false, Bool.false_and,
    or_false, and_false, OfNat.zero_ne_ofNat]

/-- What an instruction whose condition fails does instead of its effect (13 R461, R473). -/
def Machine.Core.skip (c : Core) (i : Ri) (next : Nat) : Core × Nat :=
  match i.op with
  | .br => match c.fall next with
    | .go c n => (c, n)
    | _ => ({ c with pc := next }, 1)
  | .blc => match c.fall next with
    | .go c n => (c, n)
    | _ => ({ c with pc := next }, 1)
  | .rep => ({ c with pc := next, rep := 2 }, 1)
  | _ => ({ c with pc := next, rep := 0 }, 1)

theorem skip_pc (c : Core) (i : Ri) (next : Nat) : (c.skip i next).1.pc = next := by
  obtain ⟨c', n, hf, hp, -⟩ := onlyFlow_fall c next
  unfold Core.skip
  rw [hf]
  split
  · exact hp
  · exact hp
  · rfl
  · rfl

theorem onlyFlow_skip_rep (c : Core) {i : Ri} (next : Nat) (h : i.op = .rep) : OnlyFlow { c with rep := 2 } (c.skip i next).1 := by
  unfold Core.skip
  rw [h]
  rfl

theorem onlyFlow_skip {c : Core} {i : Ri} (next : Nat) (hr : c.rep = 0) (h : i.op ≠ .rep) : OnlyFlow c (c.skip i next).1 := by
  obtain ⟨c', n, hf, -, hc⟩ := onlyFlow_fall c next
  unfold Core.skip
  rw [hf]
  split
  · exact hc
  · exact hc
  · contradiction
  · unfold OnlyFlow
    rw [← hr]

/-- The step of a core whose next instruction's condition fails. -/
theorem Issues.step_skip {d : Dev} {key : Nat} {op : Rop} (h : Issues d key op) (hop : op ≠ .reserved)
    (hh : (d.atIssue key).holds (isLane key) (d.nextRi key) = false) :
    ∃ u cost old paired, (d.core key).step key (d.staleChoice (d.core key)).1 =
      ((d.atIssue key).skip (d.nextRi key) (d.nextPc key)).1.issued (d.nextRi key) u cost old paired (isLane key) := by
  obtain ⟨-, -, hr, h0, hn, ho⟩ := h
  refine ⟨((d.core key).issue (isLane key) (d.nextRi key)).1, ((d.atIssue key).skip (d.nextRi key) (d.nextPc key)).2, (d.core key).free,
    ((d.core key).issue (isLane key) (d.nextRi key)).2, ?_⟩
  refine (if_neg ?_).trans ((if_neg ?_).trans ((if_neg ?_).trans (if_pos ⟨?_, ?_⟩)))
  · simp [hr]
  · rintro (e | e)
    · exact hop (ho.symm.trans e)
    · simp [h0, hn] at e
  · omega
  · simp [hn]
  · exact (congrArg (!·) hh)

/-- A row of the core's instructions gives what the core's step gives. -/
theorem Issues.gives {d : Dev} {key : Nat} {op : Rop} {ins : Instr} {P : Dev → Prop} (h : Issues d key op)
    (hrow : ∀ s, exec ins s = onDev (·.coreStep key op) s) {c : Core}
    (hc : (d.core key).step key (d.staleChoice (d.core key)).1 = c) (hq : c.stopped = true → isLane key = true ∧ c.done ≠ 2)
    (hP : ∀ e, OnlyCore key d e → e.core key = c → P e) : Gives ins d P := by
  obtain ⟨hp, hon, hr, -, -, ho⟩ := h
  refine gives_of_onDev _ hrow hp ?_
  have hs : d.coreStep key op = (d.staleChoice (d.core key)).2.setCore key c :=
    (if_neg (by simp [hon, hr])).trans ((if_pos ho).trans ((congrArg _ hc).trans (Dev.coreMoved_quiet _ _ _ hq)))
  rw [hs]
  exact hP _ (onlyCore_setCore d key _ c) (Dev.core_setCore_same _ key c)

/-- An instruction gives its effect, the core's next issue apart. -/
theorem Does.gives {d : Dev} {key : Nat} {op : Rop} {ins : Instr} {P : Dev → Prop} (h : Does d key op)
    (hrow : ∀ s, exec ins s = onDev (·.coreStep key op) s) (hop : op ≠ .reserved) {c2 : Core} {cost : Nat}
    (he : (d.atIssue key).effect key (d.nextRi key) (d.nextPc key) = .go c2 cost)
    (hq : c2.stopped = true → isLane key = true ∧ c2.done ≠ 2)
    (hP : ∀ e, OnlyCore key d e → (∃ free slot, e.core key = { c2 with free := free, slot := slot }) → P e) : Gives ins d P := by
  obtain ⟨u, old, paired, hs⟩ := h.step_effect hop he
  exact h.1.gives hrow hs hq fun e hc hk => hP e hc ⟨_, _, hk⟩

/-! ### Logic, moves and shifts (13 R463, R466, R467) -/

/-- The next instruction has written `r` to G[x], or nowhere, and changed at most ST beside. -/
def Wrote (d : Dev) (key : Nat) (w : Bool) (r : Word) (e : Dev) : Prop :=
  OnlyCore key d e ∧ OnlyGSt (d.nextPc key) (d.atIssue key) (e.core key) ∧
  ∀ n, (e.core key).gNow n = if w ∧ n = (d.nextRi key).x then r else (d.atIssue key).gNow n

/-- An instruction of the ALU writes its result. -/
theorem Does.gives_alu {d : Dev} {key : Nat} {op : Rop} {ins : Instr} {P : Dev → Prop} (h : Does d key op)
    (hrow : ∀ s, exec ins s = onDev (·.coreStep key op) s) (hop : op ∈ aluOps) (w : Bool) (r : Word) (st : Word)
    (ha : (d.atIssue key).alu (d.nextRi key) = (if w then some r else none, { d.atIssue key with st := st }))
    (hP : ∀ e, Wrote d key w r e → (e.core key).st = st → P e) : Gives ins d P := by
  have ho : (d.nextRi key).op = op := h.1.op_eq
  obtain ⟨cost, he⟩ := (d.atIssue key).effect_alu key (d.nextPc key) (ho ▸ hop)
  obtain ⟨⟨g, hist, hx⟩, hg⟩ := Core.afterAlu_eq ha
  refine h.gives hrow (fun e => absurd (e ▸ hop) (by decide)) he ?_ ?_
  · simp [hx, h.1.atIssue_stopped]
  · rintro e hc ⟨free, slot, hk⟩
    refine hP e ⟨hc, ?_, ?_⟩ ?_
    · rw [hk, hx]
      rfl
    · rw [hk]
      exact hg
    · rw [hk, hx]

/-- AND, OR, XOR, NOT, their immediates and TSTX. -/
theorem Does.gives_logic {d : Dev} {key : Nat} {op : Rop} {ins : Instr} (h : Does d key op)
    (hrow : ∀ s, exec ins s = onDev (·.coreStep key op) s) (hop : op ∈ aluOps) (w : Bool) (r : Word)
    (ha : (d.nextRi key).op = op → (d.atIssue key).alu (d.nextRi key) = (if w then some r else none, (d.atIssue key).setNZ r)) :
    Gives ins d fun e => Wrote d key w r e ∧ StBit (e.core key) fZ = decide (r = 0) ∧ StBit (e.core key) fN = r.msb ∧
      ∀ n, n ∉ [fZ, fN] → StBit (e.core key) n = StBit (d.atIssue key) n := by
  refine h.gives_alu hrow hop w r ((d.atIssue key).setNZ r).st (ha h.1.op_eq) fun e he hst => ⟨he, ?_⟩
  simp +contextual [StBit_congr hst, StBit_setNZ]

/-- The moves and the extensions. -/
theorem Does.gives_move {d : Dev} {key : Nat} {op : Rop} {ins : Instr} (h : Does d key op)
    (hrow : ∀ s, exec ins s = onDev (·.coreStep key op) s) (hop : op ∈ aluOps) (r : Word)
    (ha : (d.nextRi key).op = op → (d.atIssue key).alu (d.nextRi key) = (some r, d.atIssue key)) :
    Gives ins d fun e => Wrote d key true r e ∧ (e.core key).st = (d.atIssue key).st :=
  h.gives_alu hrow hop true r _ (ha h.1.op_eq) fun _ he hst => ⟨he, hst⟩

/-- The shifts. -/
theorem Does.gives_shift {d : Dev} {key : Nat} {op : Rop} {ins : Instr} (h : Does d key op)
    (hrow : ∀ s, exec ins s = onDev (·.coreStep key op) s) (hop : op ∈ aluOps) (kind n : Nat) (a : Word)
    (ha : (d.nextRi key).op = op → (d.atIssue key).alu (d.nextRi key) =
      (some ((d.atIssue key).shift kind n a).1, ((d.atIssue key).shift kind n a).2)) :
    Gives ins d fun e => Wrote d key true (shiftValue kind n a) e ∧
      StBit (e.core key) fZ = decide (shiftValue kind n a = 0) ∧ StBit (e.core key) fN = (shiftValue kind n a).msb ∧
      StBit (e.core key) fC = (if n = 0 then StBit (d.atIssue key) fC else shiftCarry kind n a) ∧
      ∀ m, m ∉ [fZ, fN, fC] → StBit (e.core key) m = StBit (d.atIssue key) m := by
  have hs := ha h.1.op_eq
  rw [Core.shift_onlySt, show ((d.atIssue key).shift kind n a).1 = shiftValue kind n a by rw [Core.shift_eq]] at hs
  refine h.gives_alu hrow hop true _ _ hs fun e he hst => ⟨he, ?_⟩
  simp +contextual [StBit_congr hst, StBit_shift]

/-- Settles O45: each row follows from one of three lemmas, for results that set N and Z, that leave ST, and that are shifted. A count
of 0 needs no case of its own, since a shift by 0 is the identity. -/
theorem ridgeLogicMovesShifts : Obligations.RidgeLogicMovesShifts := by
  intro d key
  refine ⟨?logic, ?moves, ?shifts⟩
  case logic =>
    intro row hrow h
    fin_cases hrow <;> exact h.gives_logic (fun _ => rfl) (by simp [aluOps]) _ _ fun ho => by simp only [Core.alu, ho]; rfl
  case moves =>
    intro row hrow h
    fin_cases hrow <;> refine h.gives_move (fun _ => rfl) (by simp [aluOps]) _ fun ho => ?_ <;> simp only [Core.alu, ho]
    · rw [ofNat_bitsOf]
    · rw [ofInt_sext _ (by decide)]
    · rw [ofInt_sext _ (by decide)]
    · rw [show 0xFF#32 = BitVec.ofNat 32 (2 ^ 8 - 1) from rfl, and_mask _ (by decide)]
    · rw [show 0xFFFF#32 = BitVec.ofNat 32 (2 ^ 16 - 1) from rfl, and_mask _ (by decide)]
  case shifts =>
    intro row hrow h
    fin_cases hrow <;> exact h.gives_shift (fun _ => rfl) (by simp [aluOps]) _ _ _ fun ho => by simp only [Core.alu, ho]

end Sys2Proof
end

section
/-! SUPPORT. Control flow of the Ridge cores: what a transfer, a push and a pop change, and the statement about them (13 R461,
R470, R472 to R474). -/

namespace Sys2Proof

open Machine

/-! ### Transfers, pushes and pops -/

theorem onlyFlow_jump (c : Core) (lane : Bool) (i : Ri) (tgt cost : Nat) :
    ∃ c' n, c.jump lane i tgt cost = .go c' n ∧ c'.pc = tgt ∧ OnlyFlow c c' := by
  unfold Core.jump
  exact ⟨_, _, rfl, rfl, rfl⟩

theorem OnlyFlow.stopped {c0 c : Core} (h : OnlyFlow c0 c) : c.stopped = c0.stopped := (congrArg Core.stopped h).trans rfl
theorem OnlyFlow.g {c0 c : Core} (h : OnlyFlow c0 c) : c.g = c0.g := (congrArg Core.g h).trans rfl
theorem OnlyFlow.b {c0 c : Core} (h : OnlyFlow c0 c) : c.b = c0.b := (congrArg Core.b h).trans rfl
theorem OnlyFlow.lc {c0 c : Core} (h : OnlyFlow c0 c) : c.lc = c0.lc := (congrArg Core.lc h).trans rfl
theorem OnlyFlow.p {c0 c : Core} (h : OnlyFlow c0 c) : c.p = c0.p := (congrArg Core.p h).trans rfl
theorem OnlyFlow.st {c0 c : Core} (h : OnlyFlow c0 c) : c.st = c0.st := (congrArg Core.st h).trans rfl
theorem OnlyFlow.rep {c0 c : Core} (h : OnlyFlow c0 c) : c.rep = c0.rep := (congrArg Core.rep h).trans rfl
theorem OnlyFlow.dmem {c0 c : Core} (h : OnlyFlow c0 c) : c.dmem = c0.dmem := (congrArg Core.dmem h).trans rfl
theorem OnlyFlow.inRep {c0 c : Core} (h : OnlyFlow c0 c) : c.inRep = c0.inRep := (congrArg Core.inRep h).trans rfl

theorem OnlyFlow.bNow {c0 c : Core} (h : OnlyFlow c0 c) (n : Nat) : c.bNow n = c0.bNow n := by
  rw [Core.bNow, h.b, Core.bNow]

theorem nextPc_lt (d : Dev) (key : Nat) : d.nextPc key < 2 ^ 32 := by
  unfold Machine.Dev.nextPc pmWords
  split <;> omega

/-- The core with a word pushed on the stack in its data memory (13 R470). -/
def Machine.Core.pushed (c : Core) (v : Nat) : Core :=
  let a := (c.bNow 3).toNat - 4
  ({ c with dmem := Tab.setMany 0 c.dmem a (leBytes v 4) } : Core).setB 3 0 (BitVec.ofNat 32 a)

theorem push_near {c : Core} (lane : Bool) (v : Nat) (h4 : (c.bNow 3).toNat % 4 = 0) (hlo : 4 ≤ (c.bNow 3).toNat)
    (hhi : (c.bNow 3).toNat ≤ 0x10000) (hlim : (c.ctlAt 2).toNat ≤ (c.bNow 3).toNat - 4) : c.push lane v = .ok (c.pushed v) := by
  have hs : ((c.bNow 3).toNat + 2 ^ 32 - 4) % 2 ^ 32 = (c.bNow 3).toNat - 4 := by omega
  have hst := c.store_near lane v (show ((c.bNow 3).toNat - 4) % 4 = 0 by omega) (by omega)
  unfold Core.push
  rw [hs, if_neg (Nat.not_lt.mpr hlim), hst]
  simp only [Core.pushed]

theorem callTo_of_push {c r : Core} {lane : Bool} {next : Nat} (i : Ri) (tgt : Nat) (h : c.push lane next = .ok r) :
    c.callTo lane i next tgt = r.jump lane i tgt 2 := by
  -- Unfolded as a function: applied, the kernel would evaluate the address arithmetic of `push` before it compares the two sides.
  have e : @Core.callTo = @Core.callTo := rfl
  conv at e => rhs; delta Core.callTo
  rw [e]
  beta_reduce
  rw [h]

theorem pushed_loadNear (c : Core) (v : Nat) (hv : v < 2 ^ 32) : (c.pushed v).loadNear ((c.bNow 3).toNat - 4) 4 = v :=
  (Core.loadNear_setMany c c.dmem _ v 4).trans (Nat.mod_eq_of_lt hv)

theorem pushed_dmem {c : Core} (v : Nat) {x : Nat} (hlo : 4 ≤ (c.bNow 3).toNat) (hx : ¬((c.bNow 3).toNat - 4 ≤ x ∧ x < (c.bNow 3).toNat)) :
    Tab.get 0 (c.pushed v).dmem x = Tab.get 0 c.dmem x :=
  Tab.get_setMany_out 0 (leBytes v 4) c.dmem _ x (by rw [leBytes_length]; omega)

theorem pushed_bNow (c : Core) (v n : Nat) :
    (c.pushed v).bNow n = if n = 3 then BitVec.ofNat 32 ((c.bNow 3).toNat - 4) else c.bNow n := Core.bNow_setB _ 3 0 _ n

/-- RET from anything but the end of a lane invocation (13 R472). -/
theorem onlyFlow_retWith (c : Core) {lane : Bool} (i : Ri) {w : Nat} (h : ¬(lane = true ∧ w = 0xFFFF)) :
    ∃ c' n, c.retWith lane i w = .go c' n ∧ c'.pc = w % pmWords lane ∧ OnlyFlow (c.setB 3 0 (c.bNow 3 + 4)) c' := by
  have hn : ¬(lane ∧ w = 0xFFFF ∧ (c.setB 3 0 (c.bNow 3 + 4)).invoc.isSome) := fun ⟨hl, hw, _⟩ => h ⟨hl, hw⟩
  unfold Core.retWith
  rw [if_neg hn]
  exact onlyFlow_jump _ _ _ _ _

/-- The core of a lane invocation that has returned. -/
def Machine.Core.returned (c : Core) : Core := { (c.setB 3 0 (c.bNow 3 + 4)).loopOff with stopped := true, done := 1 }

/-- RET at the end of a lane invocation (13 R472). -/
theorem retWith_returned (c : Core) {lane : Bool} (i : Ri) {w : Nat} (hl : lane = true) (hw : w = 0xFFFF) (hi : c.invoc ≠ none) :
    c.retWith lane i w = .go c.returned 3 := if_pos ⟨hl, hw, Option.isSome_iff_ne_none.mpr hi⟩

theorem returned_frame (c : Core) : c.returned.stopped = true ∧ c.returned.done = 1 ∧ c.returned.pc = c.pc ∧ c.returned.g = c.g ∧
    c.returned.dmem = c.dmem := ⟨rfl, rfl, rfl, rfl, rfl⟩

theorem returned_bNow (c : Core) (n : Nat) : c.returned.bNow n = if n = 3 then c.bNow 3 + 4 else c.bNow n := Core.bNow_setB c 3 0 _ n

/-- The core with a frame popped: SP, ST without RPT, and a repetition that goes on where RPT was set (13 R474). -/
def Machine.Core.restored (c : Core) (st : Word) : Core :=
  { ({ c.syncCtl.setB 3 0 (c.bNow 3 + 8) with st := st } : Core).setFlag fRPT false with inRep := st.getLsbD fRPT }

theorem onlyFlow_retiWith (c : Core) (lane : Bool) (i : Ri) (w st : Nat) :
    ∃ c' n, c.syncCtl.retiWith lane i w st = .go c' n ∧ c'.pc = w % pmWords lane ∧
      OnlyFlow (c.restored (BitVec.ofNat 32 st &&& stMask lane)) c' := by
  obtain ⟨c', n, hj, hp, hc⟩ := onlyFlow_jump
    (({ c.syncCtl.setB 3 0 (c.bNow 3 + 8) with st := BitVec.ofNat 32 st &&& stMask lane } : Core).setFlag fRPT false)
    lane i (w % pmWords lane) 4
  have hsync : c.syncCtl.syncCtl.setB 3 0 (c.syncCtl.bNow 3 + 8) = c.syncCtl.setB 3 0 (c.bNow 3 + 8) := rfl
  refine ⟨{ c' with inRep := (BitVec.ofNat 32 st &&& stMask lane).getLsbD fRPT }, n, ?_, hp, ?_⟩
  · simp only [Core.retiWith, hsync, hj, flagAt_eq]
    rfl
  · unfold OnlyFlow at *
    rw [hc]
    rfl

theorem restored_bNow (c : Core) (st : Word) (n : Nat) : (c.restored st).bNow n = if n = 3 then c.bNow 3 + 8 else c.bNow n :=
  Core.bNow_setB c.syncCtl 3 0 _ n

theorem StBit_restored (c : Core) (st : Word) (n : Nat) : StBit (c.restored st) n = if n = fRPT then false else st.getLsbD n :=
  StBit_setFlag _ false n (by decide)

theorem restored_frame (c : Core) (st : Word) : (c.restored st).stopped = c.stopped ∧ (c.restored st).g = c.g ∧
    (c.restored st).dmem = c.dmem ∧ (c.restored st).lc = c.lc ∧ (c.restored st).p = c.p := ⟨rfl, rfl, rfl, rfl, rfl⟩

theorem toNat_add_ofNat {v : Word} {n : Nat} (h : v.toNat + n < 2 ^ 32) : (v + BitVec.ofNat 32 n).toNat = v.toNat + n := by
  rw [BitVec.toNat_add, BitVec.toNat_ofNat]
  omega

/-! ### What a transfer gives -/

/-- An instruction that goes to `tgt`, with a core that is `c0` but for program flow. -/
theorem Does.gives_flow {d : Dev} {key : Nat} {op : Rop} {ins : Instr} {P : Dev → Prop} (h : Does d key op)
    (hrow : ∀ s, exec ins s = onDev (·.coreStep key op) s) (hop : op ≠ .reserved) {c0 : Core} {tgt : Nat}
    (he : ∃ c' n, (d.atIssue key).effect key (d.nextRi key) (d.nextPc key) = .go c' n ∧ c'.pc = tgt ∧ OnlyFlow c0 c')
    (hs : c0.stopped = (d.atIssue key).stopped)
    (hP : ∀ e, OnlyCore key d e → (e.core key).pc = tgt → OnlyFlow c0 (e.core key) → P e) : Gives ins d P := by
  obtain ⟨c', n, he, hp, hc⟩ := he
  have hstop : c'.stopped = false := hc.stopped.trans (hs.trans h.1.atIssue_stopped)
  refine h.gives hrow hop he (by simp [hstop]) ?_
  rintro e ho ⟨free, slot, hk⟩
  refine hP e ho (by rw [hk]; exact hp) ?_
  unfold OnlyFlow at *
  rw [hk, hc]

/-- An instruction whose condition fails only moves on (13 R461). -/
theorem Issues.gives_skip {d : Dev} {key : Nat} {op : Rop} {ins : Instr} (h : Issues d key op)
    (hrow : ∀ s, exec ins s = onDev (·.coreStep key op) s) (hop : op ≠ .reserved)
    (hh : (d.atIssue key).holds (isLane key) (d.nextRi key) = false) {c0 : Core} (hs : c0.stopped = (d.atIssue key).stopped)
    (hc : OnlyFlow c0 ((d.atIssue key).skip (d.nextRi key) (d.nextPc key)).1) :
    Gives ins d fun e => OnlyCore key d e ∧ (e.core key).pc = d.nextPc key ∧ OnlyFlow c0 (e.core key) := by
  obtain ⟨u, cost, old, paired, he⟩ := h.step_skip hop hh
  have hi := onlyFlow_issued hc (d.nextRi key) u cost old paired (isLane key)
  refine h.gives hrow he ?_ fun e ho hk => ⟨ho, ?_, ?_⟩
  · simp [hi.stopped.trans (hs.trans h.atIssue_stopped)]
  · rw [hk]
    exact skip_pc _ _ _
  · rw [hk]
    exact hi

/-- CALL and CALLR with room on the stack. -/
theorem Does.gives_call {d : Dev} {key : Nat} {op : Rop} {ins : Instr} (h : Does d key op)
    (hrow : ∀ s, exec ins s = onDev (·.coreStep key op) s) (hop : op ≠ .reserved) {tgt : Nat}
    (he : (d.nextRi key).op = op → (d.atIssue key).effect key (d.nextRi key) (d.nextPc key) =
      (d.atIssue key).callTo (isLane key) (d.nextRi key) (d.nextPc key) tgt)
    (h4 : ((d.atIssue key).bNow 3).toNat % 4 = 0) (hlo : 4 ≤ ((d.atIssue key).bNow 3).toNat)
    (hhi : ((d.atIssue key).bNow 3).toNat ≤ 0x10000) (hlim : ((d.atIssue key).ctlAt 2).toNat ≤ ((d.atIssue key).bNow 3).toNat - 4) :
    Gives ins d fun e =>
      let c1 := d.atIssue key
      let sp := (c1.bNow 3).toNat
      let c := e.core key
      OnlyCore key d e ∧ c.pc = tgt ∧ OnlyFlow { c1 with b := c.b, dmem := c.dmem } c ∧
      c.loadNear (sp - 4) 4 = d.nextPc key ∧ (∀ x, ¬(sp - 4 ≤ x ∧ x < sp) → Tab.get 0 c.dmem x = Tab.get 0 c1.dmem x) ∧
      (c.bNow 3).toNat = sp - 4 ∧ ∀ n < 3, c.bNow n = c1.bNow n := by
  refine h.gives_flow hrow hop (c0 := (d.atIssue key).pushed (d.nextPc key)) (tgt := tgt) ?_ rfl fun e ho hp hc => ?_
  · rw [he h.1.op_eq, callTo_of_push _ _ (push_near _ _ h4 hlo hhi hlim)]
    exact onlyFlow_jump _ _ _ _ _
  · refine ⟨ho, hp, ?_, ?_, fun x hx => ?_, ?_, fun n hn => ?_⟩
    · rw [hc.b, hc.dmem]
      exact hc
    · rw [Core.loadNear, hc.dmem]
      exact pushed_loadNear _ _ (nextPc_lt d key)
    · rw [hc.dmem]
      exact pushed_dmem _ hlo hx
    · rw [hc.bNow, pushed_bNow, if_pos rfl, BitVec.toNat_ofNat]
      omega
    · rw [hc.bNow, pushed_bNow, if_neg (by omega)]

theorem onlyFlow_b {c1 c : Core} {n kind : Nat} {v : Word} (h : OnlyFlow (c1.setB n kind v) c) : OnlyFlow { c1 with b := c.b } c := by
  rw [h.b]
  exact h

/-! ### Effects of the transfers -/

/-- RET with its return address in data memory. -/
theorem effect_ret (c : Core) (key : Nat) {i : Ri} (next : Nat) (ho : i.op = .ret) (h4 : (c.bNow 3).toNat % 4 = 0)
    (hsp : (c.bNow 3).toNat < 0x10000) :
    c.effect key i next = c.retWith (isLane key) i (c.loadNear (c.bNow 3).toNat 4) := by
  simp only [Core.effect, ho, Core.place_near _ _ h4 hsp]

/-- RETI with its frame in data memory and no far store outstanding. -/
theorem effect_reti (c : Core) (key : Nat) {i : Ri} (next : Nat) (ho : i.op = .reti) (hpost : c.posted = [])
    (h4 : (c.bNow 3).toNat % 4 = 0) (hsp : (c.bNow 3).toNat + 4 < 0x10000) :
    c.effect key i next =
      c.syncCtl.retiWith (isLane key) i (c.loadNear (c.bNow 3).toNat 4) (c.loadNear ((c.bNow 3).toNat + 4) 4) := by
  have hst : (c.bNow 3 + 4).toNat = (c.bNow 3).toNat + 4 := toNat_add_ofNat (n := 4) (by omega)
  have h4' : ((c.bNow 3).toNat + 4) % 4 = 0 := by omega
  simp only [Core.effect, ho, hpost, hst, Core.place_near _ _ h4 (show (c.bNow 3).toNat < 0x10000 by omega),
    Core.place_near _ _ h4' hsp, List.isEmpty_nil, Bool.not_true, Bool.false_eq_true, if_false]
  rfl

/-- BLC goes back or falls through (13 R472). -/
theorem effect_blc (c : Core) (key : Nat) {i : Ri} (next : Nat) (ho : i.op = .blc) :
    let lc := BitVec.ofNat 32 (c.late 5 12 c.lc.toNat) - 1
    ∃ c' n, c.effect key i next = .go c' n ∧ c'.pc = (if lc ≠ 0 then pcWrap (isLane key) (next + i.z) else next) ∧
      OnlyFlow (c.setLC 4 lc) c' := by
  intro lc
  simp only [Core.effect, ho]
  by_cases hlc : lc ≠ 0
  · rw [if_pos hlc, if_pos hlc]
    exact onlyFlow_jump _ _ _ _ _
  · rw [if_neg hlc, if_neg hlc]
    exact onlyFlow_fall _ _

/-- REP moves on, a repetition before it (13 R473). -/
theorem effect_rep (c : Core) (key : Nat) {i : Ri} (next : Nat) (ho : i.op = .rep) :
    ∃ c' n, c.effect key i next = .go c' n ∧ c'.pc = next ∧ OnlyFlow { c with lc := c.rg i.x, rep := 1 } c' := by
  simp only [Core.effect, ho]
  exact ⟨_, _, rfl, rfl, rfl⟩

/-- Settles O47: every transfer leaves a core that is, but for program flow, the one its push, pop or count makes; what the core then
holds follows from the laws of that core. -/
theorem ridgeControl : Obligations.RidgeControl := by
  intro d key
  refine ⟨?taken, ?skipped, ?heldOff, ?call, ?ret, ?ended, ?reti, ?blc, ?rep⟩
  case taken =>
    intro row hrow h
    fin_cases hrow <;> refine h.gives_flow (fun _ => rfl) (by simp) ?_ rfl fun e ho hp hc => ⟨ho, hp, hc⟩ <;>
      simp only [Core.effect, h.1.op_eq] <;> exact onlyFlow_jump _ _ _ _ _
  case skipped =>
    intro row hrow h hh
    fin_cases hrow <;> exact h.gives_skip (fun _ => rfl) (by simp) hh rfl
      (onlyFlow_skip _ h.atIssue_rep (by simp [h.op_eq]))
  case heldOff =>
    intro h hh
    exact h.gives_skip (fun _ => rfl) (by simp) hh rfl (onlyFlow_skip_rep _ _ h.op_eq)
  case call =>
    intro row hrow h h4 hlo hhi hlim
    fin_cases hrow
    · exact h.gives_call (fun _ => rfl) (by simp) (fun ho => by simp only [Core.effect, ho]; rfl) h4 hlo hhi hlim
    · exact h.gives_call (fun _ => rfl) (by simp) (fun ho => by simp only [Core.effect, ho]) h4 hlo hhi hlim
  case ret =>
    intro h h4 hsp hw
    refine h.gives_flow (fun _ => rfl) (by simp) (c0 := (d.atIssue key).setB 3 0 ((d.atIssue key).bNow 3 + 4)) ?_ rfl
      fun e ho hp hc => ⟨ho, hp, onlyFlow_b hc, ?_, fun n hn => ?_⟩
    · rw [effect_ret _ key _ h.1.op_eq h4 hsp]
      exact onlyFlow_retWith _ _ hw
    · rw [hc.bNow, Core.bNow_setB, if_pos rfl]
      exact toNat_add_ofNat (n := 4) (by omega)
    · rw [hc.bNow, Core.bNow_setB, if_neg (by omega)]
  case ended =>
    intro h h4 hsp hl hw hi
    obtain ⟨hstop, hdone, hpc, hg, hm⟩ := returned_frame (d.atIssue key)
    refine h.gives (fun _ => rfl) (by simp) ((effect_ret _ key _ h.1.op_eq h4 hsp).trans (retWith_returned _ _ hl hw hi))
      (fun _ => ⟨hl, by simp [hdone]⟩) ?_
    rintro e ho ⟨free, slot, hk⟩
    have hb : (e.core key).bNow 3 = (d.atIssue key).returned.bNow 3 := by rw [hk]; rfl
    refine ⟨ho, by rw [hk, hstop], by rw [hk, hdone], ?_, by rw [hk, hpc], by rw [hk, hg], by rw [hk, hm]⟩
    rw [hb, returned_bNow, if_pos rfl]
    exact toNat_add_ofNat (n := 4) (by omega)
  case reti =>
    intro h hpost h4 hsp hl
    generalize hst : BitVec.ofNat 32 ((d.atIssue key).loadNear (((d.atIssue key).bNow 3).toNat + 4) 4) &&& stMask false = st
    obtain ⟨hstop, hg, hm, hlc, hpr⟩ := restored_frame (d.atIssue key) st
    refine h.gives_flow (fun _ => rfl) (by simp) (c0 := (d.atIssue key).restored st)
      (tgt := (d.atIssue key).loadNear ((d.atIssue key).bNow 3).toNat 4 % pmWords (isLane key)) ?_ hstop fun e ho hp hc => ?_
    · rw [effect_reti _ key _ h.1.op_eq hpost h4 hsp, ← hst, ← hl]
      exact onlyFlow_retiWith _ _ _ _ _
    · refine ⟨ho, hp, ?_, fun n hn => ?_, ?_, hc.inRep, hc.g.trans hg, hc.dmem.trans hm, hc.lc.trans hlc, hc.p.trans hpr, fun n hn => ?_⟩
      · rw [hc.bNow, restored_bNow, if_pos rfl]
        exact toNat_add_ofNat (n := 8) (by omega)
      · rw [StBit_congr hc.st, StBit_restored, if_neg hn]
      · rw [StBit_congr hc.st, StBit_restored, if_pos rfl]
      · rw [hc.bNow, restored_bNow, if_neg (by omega)]
  case blc =>
    intro h lc
    exact h.gives_flow (fun _ => rfl) (by simp) (effect_blc _ key _ h.1.op_eq) rfl fun e ho hp hc => ⟨ho, hc.lc, hp, hc⟩
  case rep =>
    intro h
    refine h.gives_flow (fun _ => rfl) (by simp) (effect_rep _ key _ h.1.op_eq) rfl fun e ho hp hc => ⟨ho, hc.lc, hc.rep, hp, ?_⟩
    rw [hc.lc]
    exact hc

end Sys2Proof
end

section
/-! SUPPORT. Frames of the Ridge cores: what a trap or an entry pushes, and what leaves room for it (13 R471, R475; 14 R508). -/

namespace Sys2Proof

open Machine

/-! ### Control registers that come into force (13 R480) -/

theorem pendFold_get (l : Tab (Option Word)) (t : Tab Word) (n : Nat) (h : ∀ x ∈ l, x.1 ≠ n) :
    Tab.get 0 (l.foldl (fun t e => match e.2 with | some v => Tab.set 0 t e.1 v | none => t) t) n = Tab.get 0 t n := by
  induction l generalizing t with
  | nil => rfl
  | cons x l ih =>
    rw [List.foldl_cons, ih _ fun y hy => h y (List.mem_cons_of_mem _ hy)]
    have hx : n ≠ x.1 := (h x List.mem_cons_self).symm
    split
    · exact Tab.get_set_ne _ _ _ _ _ _ hx
    · rfl

/-- A control register for which no write is pending keeps its value. -/
theorem syncCtl_ctlAt (c : Core) {n : Nat} (h : ∀ x ∈ c.pend, x.1 ≠ n) : c.syncCtl.ctlAt n = c.ctlAt n :=
  pendFold_get c.pend c.ctl n h

theorem pendFold_congr (l : Tab (Option Word)) (t u : Tab Word) (n : Nat) (h : Tab.get 0 t n = Tab.get 0 u n) :
    Tab.get 0 (l.foldl (fun t e => match e.2 with | some v => Tab.set 0 t e.1 v | none => t) t) n =
      Tab.get 0 (l.foldl (fun t e => match e.2 with | some v => Tab.set 0 t e.1 v | none => t) u) n := by
  induction l generalizing t u with
  | nil => exact h
  | cons x l ih =>
    rw [List.foldl_cons, List.foldl_cons]
    refine ih _ _ ?_
    split
    · rw [Tab.get_set, Tab.get_set, h]
    · exact h

/-- What comes into force depends on what is in force and what is pending. -/
theorem syncCtl_ctlAt_congr {c c' : Core} {n : Nat} (hc : c'.ctlAt n = c.ctlAt n) (hp : c'.pend = c.pend) :
    c'.syncCtl.ctlAt n = c.syncCtl.ctlAt n := by
  unfold Core.ctlAt Core.syncCtl at *
  rw [hp]
  exact pendFold_congr _ _ _ _ hc

@[simp] theorem ctlAt_setCtl (c : Core) (n m : Nat) (v : Word) : (c.setCtl n v).ctlAt m = if m = n then v else c.ctlAt m :=
  Tab.get_set 0 c.ctl n m v

theorem hasFrame_congr {c c' : Core} (hb : c'.bNow 3 = c.bNow 3) (hc : c'.ctlAt 2 = c.ctlAt 2) (hp : c'.pend = c.pend)
    (h : HasFrame c) : HasFrame c' := by
  unfold HasFrame at *
  rw [hb, hp, syncCtl_ctlAt_congr hc hp]
  exact h

theorem HasFrame.syncCtl {c : Core} (h : HasFrame c) : HasFrame c.syncCtl := by
  obtain ⟨h4, hlo, hhi, hlim, -⟩ := h
  exact ⟨h4, hlo, hhi, hlim, fun x hx => absurd hx List.not_mem_nil⟩

/-! ### A frame pushed -/

/-- The core with a frame pushed in its data memory, at the first instruction of a handler (13 R471, R475). -/
def Machine.Core.entered (c : Core) (vec saved : Nat) (st : Word) : Core :=
  let sp := (c.bNow 3).toNat
  let pc := ((c.syncCtl.ctlAt 3).toNat + 2 * vec) % 16384
  { c.syncCtl with
    loop := LoopBuf.reset, b := Tab.set 0 c.b 3 (BitVec.ofNat 32 (sp - 8)), pc := pc
    dmem := Tab.setMany 0 (Tab.setMany 0 c.dmem (sp - 4) (leBytes st.toNat 4)) (sp - 8) (leBytes saved 4)
    rep := 0, inRep := false, slot := none, free := c.free + 5, winEnd := pc / 4 * 4 + 4, winCyc := c.free + 5 }

theorem enter_eq {c : Core} (h : HasFrame c) (vec saved : Nat) (st : Word) : c.enter false vec saved st = c.entered vec saved st := by
  obtain ⟨h4, hlo, hhi, hlim, -⟩ := h
  have h1 : ((c.bNow 3).toNat + 2 ^ 32 - 4) % 2 ^ 32 = (c.bNow 3).toNat - 4 := by omega
  have h2 : ((c.bNow 3).toNat + 2 ^ 32 - 8) % 2 ^ 32 = (c.bNow 3).toNat - 8 := by omega
  have hb : c.syncCtl.loopOff.bNow 3 = c.bNow 3 := rfl
  have hc : c.syncCtl.loopOff.ctlAt 2 = c.syncCtl.ctlAt 2 := rfl
  unfold Core.enter
  simp only [hb, hc, h1, h2]
  rw [if_neg (by omega), Core.store_near _ _ _ (by omega) (by omega)]
  simp only
  rw [Core.store_near _ _ _ (by omega) (by omega)]
  rfl

theorem setMany_get_of_mem (t : Tab Byte) (a : Nat) (l : List Byte) (j : Nat) (h : j < l.length) :
    Tab.get 0 (Tab.setMany 0 t a l) (a + j) = l.getD j 0 := by
  induction l generalizing t a j with
  | nil => simp at h
  | cons v l ih =>
    rw [Tab.setMany]
    cases j with
    | zero => rw [Tab.get_setMany_out 0 l _ (a + 1) (a + 0) (by omega)]; exact Tab.get_set_same _ _ _ _
    | succ j =>
      rw [show a + (j + 1) = a + 1 + j by omega, ih _ _ _ (by simpa using h)]
      rfl

theorem getMany_congr {t u : Tab Byte} (a n : Nat) (h : ∀ x, a ≤ x → x < a + n → Tab.get 0 t x = Tab.get 0 u x) :
    Tab.getMany 0 t a n = Tab.getMany 0 u a n := by
  induction n generalizing a with
  | zero => rfl
  | succ n ih =>
    rw [Tab.getMany, Tab.getMany, h a le_rfl (by omega), ih (a + 1) fun x h1 h2 => h x (by omega) (by omega)]

theorem entered_pushed {c : Core} (h : HasFrame c) (vec saved : Nat) (st : Word) :
    FramePushed vec saved st c (c.entered vec saved st) := by
  obtain ⟨-, hlo, hhi, -⟩ := h
  refine ⟨rfl, ?_, ?_, ?_, fun a ha => ?_, rfl, rfl, rfl, rfl, rfl, fun n hn => ?_, rfl, rfl⟩
  · rw [Core.entered, Core.bNow, Tab.get_set_same, BitVec.toNat_ofNat]
    omega
  · rw [← Nat.mod_eq_of_lt (show st.toNat < 256 ^ 4 from st.isLt), ← Core.loadNear_setMany c c.dmem ((c.bNow 3).toNat - 4)]
    refine congrArg leNat (getMany_congr _ _ fun x h1 h2 => ?_)
    exact Tab.get_setMany_out _ _ _ _ _ (by rw [leBytes_length]; omega)
  · exact Core.loadNear_setMany c _ _ saved 4
  · refine (Tab.get_setMany_out _ _ _ _ _ ?_).trans (Tab.get_setMany_out _ _ _ _ _ ?_) <;> rw [leBytes_length] <;> omega
  · exact Tab.get_set_ne _ _ _ _ _ _ (by omega)

end Sys2Proof
end

section
/-! SUPPORT. Precise traps of a core and of the unit it is in (13 R475, R478, R479). -/

namespace Sys2Proof

open Machine

/-- The core with the cause of a trap noted: the vector in XCAUSE and the data address, if any, in XADDR (13 R475). -/
def Machine.Core.blamed (c : Core) (vec : Nat) (xaddr : Option Nat) : Core :=
  (match xaddr with
    | some a => c.setCtl 12 (BitVec.ofNat 32 a)
    | none => c).setCtl 13 (BitVec.ofNat 32 (2 * vec))

theorem blamed_eq (c : Core) (vec : Nat) (xaddr : Option Nat) :
    ∃ t, c.blamed vec xaddr = { c with ctl := t } ∧ (∀ n, n ≠ 12 → n ≠ 13 → Tab.get 0 t n = c.ctlAt n) ∧
      Tab.get 0 t 13 = BitVec.ofNat 32 (2 * vec) ∧ ∀ a, xaddr = some a → Tab.get 0 t 12 = BitVec.ofNat 32 a := by
  refine ⟨(c.blamed vec xaddr).ctl, ?_, fun n h1 h2 => ?_, Tab.get_set_same _ _ _ _, ?_⟩
  · cases xaddr <;> rfl
  · refine (Tab.get_set_ne _ _ _ _ _ _ h2).trans ?_
    cases xaddr with
    | none => rfl
    | some a => exact Tab.get_set_ne _ _ _ _ _ _ h1
  · rintro a rfl
    exact (Tab.get_set_ne _ _ _ _ _ _ (by decide)).trans (Tab.get_set_same _ _ _ _)

theorem trapTo_spur {c : Core} {key : Nat} (hl : isLane key = false) (vec saved : Nat) (xaddr : Option Nat) :
    c.trapTo key vec saved xaddr = { (c.blamed vec xaddr).enter false vec saved c.frameSt with entry := none } := by
  unfold Core.trapTo
  rw [hl]
  cases xaddr <;> rfl

theorem trapTo_lane {c : Core} {key : Nat} (hl : isLane key = true) (vec saved : Nat) (xaddr : Option Nat) :
    c.trapTo key vec saved xaddr = { c.blamed vec xaddr with stopped := true, done := 2, slot := none } := by
  unfold Core.trapTo
  rw [hl]
  cases xaddr <;> rfl

/-- What a trap of a spur core or the warden with room for its frame leaves. -/
theorem trapTo_frame {c : Core} {key : Nat} (hl : isLane key = false) (h : HasFrame c) (vec saved : Nat) (xaddr : Option Nat) :
    FramePushed vec saved c.frameSt c (c.trapTo key vec saved xaddr) ∧ (c.trapTo key vec saved xaddr).st = c.st ∧
    (c.trapTo key vec saved xaddr).ctlAt 13 = BitVec.ofNat 32 (2 * vec) ∧
    (∀ a, xaddr = some a → (c.trapTo key vec saved xaddr).ctlAt 12 = BitVec.ofNat 32 a) ∧
    (c.trapTo key vec saved xaddr).errs = c.errs ∧ (c.trapTo key vec saved xaddr).halted = c.halted := by
  obtain ⟨t, he, ht, h13, h12⟩ := blamed_eq c vec xaddr
  obtain ⟨-, -, -, -, hpend⟩ := id h
  have hf : HasFrame { c with ctl := t } := hasFrame_congr (c := c) rfl (ht 2 (by decide) (by decide)) rfl h
  have h3 : ({ c with ctl := t } : Core).syncCtl.ctlAt 3 = c.syncCtl.ctlAt 3 :=
    syncCtl_ctlAt_congr (ht 3 (by decide) (by decide)) rfl
  rw [trapTo_spur hl, he, enter_eq hf]
  refine ⟨?_, rfl, ?_, fun a ha => ?_, rfl, rfl⟩
  · have hp := entered_pushed hf vec saved c.frameSt
    unfold FramePushed at *
    rw [h3] at hp
    exact hp
  · exact (syncCtl_ctlAt ({ c with ctl := t } : Core) fun x hx => (hpend x hx).2).trans h13
  · exact (syncCtl_ctlAt ({ c with ctl := t } : Core) fun x hx => (hpend x hx).1).trans (h12 a ha)

theorem HasFrame.fits {c : Core} (h : HasFrame c) : c.frameFits = true := by
  obtain ⟨-, -, hhi, -⟩ := h
  simp only [Core.frameFits, Bool.or_eq_true, decide_eq_true_eq]
  exact Or.inl (by omega)

/-! ### What a trap changes of the unit -/

theorem updCmd_eq (s : Dev) (k : Nat) (f : Cmd → Cmd) : ∃ q, s.updCmd k f = { s with queues := q } := ⟨_, rfl⟩

theorem lostWrite_eq (s : Dev) (b : Busy) : ∃ x, s.lostWrite b = { s with scree := x } := by
  unfold Dev.lostWrite
  split
  · exact ⟨_, rfl⟩
  · exact ⟨s.scree, rfl⟩

theorem overWith_eq (s : Dev) (i : Inst) (cycles : Nat) (f : Busy → Busy) :
    ∃ n p q, s.overWith i cycles f = { s with engines := n, parts := p, queues := q } := by
  unfold Dev.overWith
  split
  · exact ⟨s.engines, s.parts, s.queues, rfl⟩
  · dsimp only
    split
    · exact ⟨_, _, _, rfl⟩
    · exact ⟨_, _, s.queues, rfl⟩

/-- A chunk that ends badly changes engines, queues, partitions and its own Scree group only. -/
theorem killChunk_eq (s : Dev) (i : Inst) (st detail : Nat) :
    ∃ x n p q, s.killChunk i st detail = { s with scree := x, engines := n, parts := p, queues := q } := by
  unfold Dev.killChunk
  cases (Tab.get Engine.reset s.engines i.key).busy with
  | none =>
    obtain ⟨n, p, q, h⟩ := overWith_eq s i 0 fun b => { b with fail := some (st, detail), cut := false }
    exact ⟨s.scree, n, p, q, h⟩
  | some b =>
    obtain ⟨x, hx⟩ := lostWrite_eq s b
    obtain ⟨n, p, q, h⟩ := overWith_eq (s.lostWrite b) i 0 fun b => { b with fail := some (st, detail), cut := false }
    exact ⟨x, n, p, q, by rw [Option.elim_some, h, hx]⟩

theorem kernelFail_eq (s : Dev) (key : Nat) (c : Core) (detail : Nat) :
    ∃ x n p q, s.kernelFail key c detail = { s with scree := x, engines := n, parts := p, queues := q } := by
  unfold Dev.kernelFail
  split
  · split
    · exact killChunk_eq _ _ _ _
    · exact ⟨s.scree, s.engines, s.parts, s.queues, rfl⟩
  · exact ⟨s.scree, s.engines, s.parts, s.queues, rfl⟩

/-- A core's move changes no other core, unless it is the warden's and stops. -/
theorem coreMoved_cores (s : Dev) (key : Nat) (c c' : Core) (h : isWarden key = true → c'.stopped = c.stopped) :
    (s.coreMoved key c c').cores = (s.setCore key c').cores := by
  unfold Dev.coreMoved
  dsimp only
  split
  · next hs =>
    split
    · split
      · obtain ⟨x, n, p, q, e⟩ := kernelFail_eq (s.setCore key c') key c' dKERNELTRAP
        rw [e]
      · rfl
    · split
      · next hw =>
        rw [h hw] at hs
        simp at hs
      · rfl
  · rfl

end Sys2Proof
end

section
/-! SUPPORT. What every Ridge core keeps: each instruction, entry, trap and stop of a core keeps `CoreOk`, and the statement
about it (13 R456, R457, R459, Table 13.3; 14 R500). -/

namespace Sys2Proof

open Machine

-- One theorem at a time: elaborated side by side, those below wait for one another, each on a thread with a stack of its own.
set_option Elab.async false

/-! ### The bits of ST that a form has (13 Table 13.3) -/

theorem stFits_iff (st m : Word) : st &&& ~~~m = 0 ↔ ∀ i < 32, st.getLsbD i = true → m.getLsbD i = true := by
  constructor
  · intro h i hi hs
    have e := congrArg (·.getLsbD i) h
    simpa [hi, hs] using e
  · intro h
    apply BitVec.eq_of_getLsbD_eq
    intro i hi
    have := h i hi
    cases hs : st.getLsbD i <;> simp_all

theorem stFits_and (v m : Word) : (v &&& m) &&& ~~~m = 0 := by
  rw [stFits_iff]
  simp

theorem stFits_putBits {st m : Word} {lo w : Nat} (v : Nat) (h : st &&& ~~~m = 0) (hm : ∀ i < w, m.getLsbD (lo + i) = true) :
    BitVec.ofNat 32 (putBits st.toNat lo w v) &&& ~~~m = 0 := by
  rw [stFits_iff] at *
  intro i hi hb
  rw [BitVec.getLsbD_ofNat] at hb
  by_cases hr : lo ≤ i ∧ i < lo + w
  · rw [show i = lo + (i - lo) by omega]
    exact hm _ (by omega)
  · rw [testBit_putBits_ne _ _ _ _ _ hr] at hb
    exact h i hi (by simpa [BitVec.getLsbD, hi] using hb)

/-! ### Cores that agree where it matters -/

/-- `CoreOk` reads the predicates, the PC, ST, the posted stores and the far load only. -/
theorem CoreOk.congr {key : Nat} {c c' : Core} (h : CoreOk key c) (hp : c'.p = c.p := by rfl) (hpc : c'.pc = c.pc := by rfl)
    (hst : c'.st = c.st := by rfl) (hpo : c'.posted = c.posted := by rfl) (hf : c'.farLoad = c.farLoad := by rfl) : CoreOk key c' := by
  unfold CoreOk at *
  rw [hp, hpc, hst, hpo, hf]
  exact h

theorem CoreOk.withPc {key : Nat} {c : Core} (h : CoreOk key c) {a : Nat} (ha : a < pmWords (isLane key)) :
    CoreOk key { c with pc := a } := by
  obtain ⟨hp, -, hst, hpo, hf⟩ := h
  exact ⟨hp, ha, hst, hpo, hf⟩

theorem CoreOk.withSt {key : Nat} {c : Core} (h : CoreOk key c) {v : Word} (hv : v &&& ~~~stMask (isLane key) = 0) :
    CoreOk key { c with st := v } := by
  obtain ⟨hp, hpc, -, hpo, hf⟩ := h
  exact ⟨hp, hpc, hv, hpo, hf⟩

theorem CoreOk.withP {key : Nat} {c : Core} (h : CoreOk key c) {v : Nat} (hv : bitAt v 0 = true) : CoreOk key { c with p := v } := by
  obtain ⟨-, hpc, hst, hpo, hf⟩ := h
  exact ⟨hv, hpc, hst, hpo, hf⟩

theorem CoreOk.withFar {key : Nat} {c : Core} (h : CoreOk key c) {v : Option FarLoad} (hv : isLane key = true → v = none) :
    CoreOk key { c with farLoad := v } := by
  obtain ⟨hp, hpc, hst, hpo, -⟩ := h
  exact ⟨hp, hpc, hst, hpo, hv⟩

theorem pmWords_pos (lane : Bool) : 0 < pmWords lane := by
  unfold pmWords
  split <;> decide

theorem mod_pmWords_lt (lane : Bool) (a : Nat) : a % pmWords lane < pmWords lane := Nat.mod_lt _ (pmWords_pos lane)

theorem pcWrap_lt (lane : Bool) (a : Int) : pcWrap lane a < pmWords lane := by
  have h : (0 : Int) < (pmWords lane : Nat) := by exact_mod_cast pmWords_pos lane
  have hlt := Int.emod_lt_of_pos a h
  unfold pcWrap
  omega

theorem stMask_flag (lane : Bool) {i : Nat} (hi : i < 7) : (stMask lane).getLsbD i = true := by
  revert i lane
  decide

theorem stMask_ipl (lane : Bool) {i : Nat} (hi : i < 5) : (stMask lane).getLsbD (8 + i) = true := by
  revert i lane
  decide

theorem CoreOk.setFlag {key : Nat} {c : Core} (h : CoreOk key c) {i : Nat} (v : Bool) (hi : i < 7) : CoreOk key (c.setFlag i v) := by
  obtain ⟨-, -, hst, -⟩ := id h
  exact h.withSt (stFits_putBits _ hst fun j hj => stMask_flag _ (by omega))

theorem CoreOk.setNZ {key : Nat} {c : Core} (h : CoreOk key c) (r : Word) : CoreOk key (c.setNZ r) :=
  (h.setFlag _ (by decide)).setFlag _ (by decide)

theorem CoreOk.setIpl {key : Nat} {c : Core} (h : CoreOk key c) (v : Nat) : CoreOk key (c.setIpl v) := by
  obtain ⟨-, -, hst, -⟩ := id h
  exact h.withSt (stFits_putBits _ hst fun j hj => stMask_ipl _ hj)

theorem CoreOk.store {key : Nat} {c r : Core} (h : CoreOk key c) {a size v : Nat} (hs : c.store (isLane key) a size v = .ok r) :
    CoreOk key r := by
  unfold Core.store at hs
  split at hs
  · cases hs
    exact h.congr
  · split at hs
    · cases hs
    · next hn =>
      cases hs
      obtain ⟨hp, hpc, hst, -, hf⟩ := h
      refine ⟨hp, hpc, hst, ?_, hf⟩
      simp only [List.length_append, List.length_cons, List.length_nil]
      omega
  · cases hs

theorem store_frame {c r : Core} {lane : Bool} {a size v : Nat} (hs : c.store lane a size v = .ok r) :
    r.b = c.b ∧ r.ctl = c.ctl ∧ r.pend = c.pend ∧ r.stopped = c.stopped := by
  unfold Core.store at hs
  split at hs
  · cases hs
    exact ⟨rfl, rfl, rfl, rfl⟩
  · split at hs
    · cases hs
    · cases hs
      exact ⟨rfl, rfl, rfl, rfl⟩
  · cases hs

theorem CoreOk.push {key : Nat} {c r : Core} (h : CoreOk key c) {v : Nat} (hs : c.push (isLane key) v = .ok r) :
    CoreOk key r ∧ r.stopped = c.stopped := by
  -- The address becomes a variable: the kernel would else evaluate its arithmetic.
  obtain ⟨s, ha⟩ : ∃ s, ((c.bNow 3).toNat + 2 ^ 32 - 4) % 2 ^ 32 = s := ⟨_, rfl⟩
  rw [Core.push, ha] at hs
  split at hs
  · cases hs
  · split at hs
    · next r hr =>
      cases hs
      obtain ⟨-, -, -, hstop⟩ := store_frame hr
      exact ⟨(h.store hr).congr, hstop⟩
    · cases hs
    · cases hs

theorem CoreOk.setP {key : Nat} {c : Core} (h : CoreOk key c) (n : Nat) (v : Bool) : CoreOk key (c.setP n v) := by
  unfold Core.setP
  split
  · exact h
  · obtain ⟨hp, -⟩ := id h
    refine (h.congr : CoreOk key (c.note (16 + n) 4 (bitsOf c.p n 1))).withP ?_
    unfold bitAt at *
    rw [bitsOf_putBits_below _ _ _ _ _ _ (by omega)]
    exact hp

/-! ### Entries and traps -/

theorem CoreOk.enter {key : Nat} {c : Core} (h : CoreOk key c) (vec saved : Nat) (st : Word) :
    CoreOk key (c.enter (isLane key) vec saved st) := by
  have h1 : CoreOk key c.syncCtl.loopOff := h.congr
  have hstop : ∀ c : Core, CoreOk key c → CoreOk key (c.stackStop (isLane key)) := fun c h => h.congr
  obtain ⟨s1, ha1⟩ : ∃ s, ((c.syncCtl.loopOff.bNow 3).toNat + 2 ^ 32 - 4) % 2 ^ 32 = s := ⟨_, rfl⟩
  obtain ⟨s2, ha2⟩ : ∃ s, ((c.syncCtl.loopOff.bNow 3).toNat + 2 ^ 32 - 8) % 2 ^ 32 = s := ⟨_, rfl⟩
  rw [Core.enter, ha1, ha2]
  split
  · exact hstop _ h1
  · split
    · next c2 hs =>
      have h2 := h1.store hs
      split
      · next c3 hs =>
        exact ((h2.store hs).withPc (mod_pmWords_lt _ _)).congr
      · exact hstop _ h2
    · exact hstop _ h1

theorem CoreOk.trapTo {key : Nat} {c : Core} (h : CoreOk key c) (vec saved : Nat) (xaddr : Option Nat) :
    CoreOk key (c.trapTo key vec saved xaddr) := by
  obtain ⟨t, he, -⟩ := blamed_eq c vec xaddr
  have hb : CoreOk key (c.blamed vec xaddr) := by
    rw [he]
    exact h.congr
  cases hl : isLane key with
  | true =>
    rw [trapTo_lane hl]
    exact hb.congr
  | false =>
    rw [trapTo_spur hl]
    have hf := hb.enter vec saved c.frameSt
    rw [hl] at hf
    have hentry : ∀ r : Core, CoreOk key r → CoreOk key { r with entry := none } := fun r h => h.congr
    exact hentry _ hf

/-- The core `r` that an entry of line `n` has made, at its level and with its software line clear; it stays as it is when it stopped. -/
def Machine.Core.lineTaken (r : Core) (n old at_ : Nat) : Core :=
  if r.stopped then r
  else
    let r := (r.setIpl (n + 1)).setFlag fRPT false
    { r with lines := if n < 8 then clearBit r.lines n else r.lines, halted := false, entry := some ⟨old, n, at_⟩ }

theorem takeLine_eq (c : Core) (n : Nat) : c.takeLine n = (c.enter false (16 + n) c.pc c.frameSt).lineTaken n c.ipl c.free := rfl

theorem CoreOk.lineTaken {key : Nat} {r : Core} (h : CoreOk key r) (n old at_ : Nat) : CoreOk key (r.lineTaken n old at_) := by
  unfold Machine.Core.lineTaken
  split
  · exact h
  · exact ((h.setIpl (n + 1)).setFlag false (show fRPT < 7 by decide)).congr

theorem CoreOk.takeLine {key : Nat} {c : Core} (h : CoreOk key c) (hl : isLane key = false) (n : Nat) : CoreOk key (c.takeLine n) := by
  have he := h.enter (16 + n) c.pc c.frameSt
  rw [hl] at he
  rw [takeLine_eq]
  exact he.lineTaken _ _ _

/-! ### One instruction -/

/-- An end of an instruction that keeps what a core keeps: a spur core goes on, and a trap finds the room for its frame that there was. -/
def EndOk (key : Nat) (c : Core) : REnd → Prop
  | .go c' _ => CoreOk key c' ∧ (isLane key = false → c'.stopped = c.stopped)
  | .trap c' _ _ _ => CoreOk key c' ∧ (HasFrame c → HasFrame c') ∧ c'.stopped = c.stopped
  | .hold => True

theorem EndOk.on {key : Nat} {c c' : Core} {a n : Nat} (h : CoreOk key c') (ha : a < pmWords (isLane key)) (hs : c'.stopped = c.stopped := by rfl) :
    EndOk key c (.go { c' with pc := a } n) := ⟨h.withPc ha, fun _ => hs⟩

theorem EndOk.trapped {key : Nat} {c : Core} (h : CoreOk key c) (vec saved : Nat) (x : Option Nat) : EndOk key c (.trap c vec saved x) :=
  ⟨h, id, rfl⟩

theorem EndOk.jump {key : Nat} {c c' : Core} (h : CoreOk key c') (i : Ri) {tgt : Nat} (cost : Nat) (ht : tgt < pmWords (isLane key))
    (hs : c'.stopped = c.stopped := by rfl) : EndOk key c (c'.jump (isLane key) i tgt cost) := by
  obtain ⟨c2, n, hj, hpc, hc⟩ := onlyFlow_jump c' (isLane key) i tgt cost
  rw [hj]
  refine ⟨?_, fun _ => hc.stopped.trans hs⟩
  have h2 : CoreOk key { c' with pc := c2.pc } := h.withPc (by rw [hpc]; exact ht)
  unfold OnlyFlow at hc
  rw [hc]
  exact h2.congr

theorem EndOk.fall {key : Nat} {c c' : Core} (h : CoreOk key c') {next : Nat} (hn : next < pmWords (isLane key))
    (hs : c'.stopped = c.stopped := by rfl) : EndOk key c (c'.fall next) := by
  unfold Core.fall
  split
  · exact EndOk.on (c' := c'.loopOff) h.congr hn hs
  · exact EndOk.on h hn hs

theorem EndOk.callTo {key : Nat} {c : Core} (h : CoreOk key c) (i : Ri) (next : Nat) {tgt : Nat} (ht : tgt < pmWords (isLane key)) :
    EndOk key c (c.callTo (isLane key) i next tgt) := by
  -- Unfolded as a function: applied, the kernel would evaluate the address arithmetic of `push`.
  have e : @Core.callTo = @Core.callTo := rfl
  conv at e => rhs; delta Core.callTo
  obtain ⟨r, hr⟩ : ∃ r, c.push (isLane key) next = r := ⟨_, rfl⟩
  rw [e]
  beta_reduce
  rw [hr]
  split
  · obtain ⟨hk, hstop⟩ := h.push hr
    exact EndOk.jump hk i 2 ht hstop
  · exact EndOk.trapped h _ _ _
  · trivial

theorem EndOk.retWith {key : Nat} {c : Core} (h : CoreOk key c) (i : Ri) (w : Nat) : EndOk key c (c.retWith (isLane key) i w) := by
  unfold Core.retWith
  dsimp only
  split
  · next hl => exact ⟨h.congr, fun hs => absurd hl.1 (by simp [hs])⟩
  · exact EndOk.jump h.congr i 3 (mod_pmWords_lt _ _)

theorem EndOk.retiWith {key : Nat} {c : Core} (h : CoreOk key c) (i : Ri) (w st : Nat) :
    EndOk key c (c.syncCtl.retiWith (isLane key) i w st) := by
  obtain ⟨c', n, hr, hpc, hc⟩ := onlyFlow_retiWith c (isLane key) i w st
  have h1 : CoreOk key (c.restored (BitVec.ofNat 32 st &&& stMask (isLane key))) :=
    (((h.congr : CoreOk key (c.syncCtl.setB 3 0 (c.bNow 3 + 8))).withSt (stFits_and (BitVec.ofNat 32 st) _)).setFlag false
      (show fRPT < 7 by decide)).congr
  rw [hr]
  refine ⟨?_, fun _ => hc.stopped⟩
  have h2 := h1.withPc (a := c'.pc) (by rw [hpc]; exact mod_pmWords_lt _ _)
  unfold OnlyFlow at hc
  rw [hc]
  exact h2.congr

theorem place_far_spur {c : Core} {lane : Bool} {a size d : Nat} (h : c.place lane a size = .far d) : lane = false := by
  unfold Core.place at h
  split_ifs at h with h1 h2 h3
  simpa using h3.1

theorem EndOk.waitFar {key : Nat} {c : Core} (h : CoreOk key c) (hl : isLane key = false) (kind reg : Nat) (sign : Bool)
    (size eff addr : Nat) : EndOk key c (c.waitFar kind reg sign size eff addr) :=
  ⟨h.withFar fun ht => absurd ht (by simp [hl]), fun _ => rfl⟩

theorem CoreOk.loaded {key : Nat} {c : Core} (h : CoreOk key c) (reg : Nat) (sign : Bool) (size v : Nat) (far : Bool) :
    CoreOk key (c.loaded reg sign size v far) := by
  unfold Core.loaded
  dsimp only
  split <;> exact h.congr

theorem loaded_stopped (c : Core) (reg : Nat) (sign : Bool) (size v : Nat) (far : Bool) :
    (c.loaded reg sign size v far).stopped = c.stopped := by
  unfold Core.loaded
  dsimp only
  split <;> rfl

theorem EndOk.memory {key : Nat} {c : Core} (h : CoreOk key c) (i : Ri) {next : Nat} (hn : next < pmWords (isLane key)) :
    EndOk key c (c.memory (isLane key) i next) := by
  unfold Core.memory
  dsimp only
  split
  · split <;> exact EndOk.on h.congr hn
  · split
    · next hs =>
      obtain ⟨-, -, -, hstop⟩ := store_frame hs
      exact EndOk.on (h.store hs) hn hstop
    · exact EndOk.trapped h _ _ _
    · trivial
  · split
    · exact EndOk.on (h.loaded ..) hn (loaded_stopped ..)
    · next hp => exact EndOk.waitFar h (place_far_spur hp) _ _ _ _ _ _
    · exact EndOk.trapped h _ _ _

/-! ### Strings (13 R469, R473) -/

/-- Of what a frame needs, nothing differs: SP, SLIM, the pending control registers, and whether the core is stopped. -/
def StackKept (c c' : Core) : Prop :=
  c'.bNow 3 = c.bNow 3 ∧ c'.ctlAt 2 = c.ctlAt 2 ∧ c'.pend = c.pend ∧ c'.stopped = c.stopped

theorem StackKept.trans {c c1 c2 : Core} (h : StackKept c c1) (h' : StackKept c1 c2) : StackKept c c2 := by
  obtain ⟨hb, hc, hp, hs⟩ := h
  obtain ⟨hb', hc', hp', hs'⟩ := h'
  exact ⟨hb'.trans hb, hc'.trans hc, hp'.trans hp, hs'.trans hs⟩

theorem StackKept.frame {c c' : Core} (h : StackKept c c') (hf : HasFrame c) : HasFrame c' := by
  obtain ⟨hb, hc, hp, -⟩ := h
  exact hasFrame_congr hb hc hp hf

/-- An end of an element, or of a string instruction: what a core keeps, and the stack. -/
def StringEnd (key : Nat) (c : Core) : REnd → Prop
  | .go c' _ => CoreOk key c' ∧ StackKept c c'
  | .trap c' _ _ _ => c' = c
  | .hold => True

theorem StringEnd.endOk {key : Nat} {c : Core} (h : CoreOk key c) {r : REnd} (hr : StringEnd key c r) : EndOk key c r := by
  cases r with
  | go c' n =>
    obtain ⟨hc, -, -, -, hs⟩ := hr
    exact ⟨hc, fun _ => hs⟩
  | trap c' vec saved x =>
    have : c' = c := hr
    subst this
    exact ⟨h, id, rfl⟩
  | hold => trivial

theorem advance_ok {key : Nat} {c c' : Core} (h : CoreOk key c') (hk : StackKept c c') (b0 b1 : Bool) (size : Nat) :
    CoreOk key (c'.advance b0 b1 size) ∧ StackKept c (c'.advance b0 b1 size) := by
  have hb : ∀ {r : Core} (n : Nat) (v : Word), n ≠ 3 → CoreOk key r ∧ StackKept c r → CoreOk key (r.setB n 0 v) ∧ StackKept c (r.setB n 0 v) :=
    fun n v hn hr => ⟨hr.1.congr, hr.2.trans ⟨by rw [Core.bNow_setB, if_neg (Ne.symm hn)], rfl, rfl, rfl⟩⟩
  unfold Core.advance
  dsimp only
  have h0 : CoreOk key (if b0 then c'.setB 0 0 (c'.bNow 0 + BitVec.ofNat 32 size) else c') ∧
      StackKept c (if b0 then c'.setB 0 0 (c'.bNow 0 + BitVec.ofNat 32 size) else c') := by
    split
    · exact hb 0 _ (by decide) ⟨h, hk⟩
    · exact ⟨h, hk⟩
  split
  · exact hb 1 _ (by decide) h0
  · exact h0

theorem scanned_ok {key : Nat} {c : Core} (h : CoreOk key c) (size v : Nat) :
    CoreOk key (c.scanned size v) ∧ StackKept c (c.scanned size v) := by
  unfold Core.scanned
  exact advance_ok (h.setFlag _ (show fZ < 7 by decide)).congr ⟨rfl, rfl, rfl, rfl⟩ true false size

theorem accum_ok {key : Nat} {c : Core} (h : CoreOk key c) (signed : Bool) (a b : Int) :
    CoreOk key (c.accum signed a b) ∧ StackKept c (c.accum signed a b) := by
  have hw : ∀ v, CoreOk key (c.mulWrite v) ∧ StackKept c (c.mulWrite v) := fun v => ⟨h.congr, rfl, rfl, rfl, rfl⟩
  have hm : ∀ v, CoreOk key ((c.mulWrite v).setFlag fMO true) ∧ StackKept c ((c.mulWrite v).setFlag fMO true) :=
    fun v => ⟨(hw v).1.setFlag _ (show fMO < 7 by decide), rfl, rfl, rfl, rfl⟩
  unfold Core.accum
  dsimp only
  split
  · split
    · exact hm _
    · exact hw _
  · split
    · exact hm _
    · exact hw _

theorem store_kept {c r : Core} {lane : Bool} {a size v : Nat} (hs : c.store lane a size v = .ok r) : StackKept c r := by
  obtain ⟨hb, hc, hp, hst⟩ := store_frame hs
  exact ⟨by rw [Core.bNow, hb, Core.bNow], by rw [Core.ctlAt, hc, Core.ctlAt], hp, hst⟩

theorem StringEnd.waitFar {key : Nat} {c : Core} (h : CoreOk key c) (hl : isLane key = false) (kind reg : Nat) (sign : Bool)
    (size eff addr : Nat) : StringEnd key c (c.waitFar kind reg sign size eff addr) :=
  ⟨h.withFar fun ht => absurd ht (by simp [hl]), rfl, rfl, rfl, rfl⟩

theorem StringEnd.element {key : Nat} {c : Core} (h : CoreOk key c) (i : Ri) : StringEnd key c (c.element (isLane key) i) := by
  unfold Core.element
  dsimp only
  split
  · split
    · exact rfl
    · next hp =>
      split
      · exact rfl
      · exact StringEnd.waitFar h (place_far_spur hp) _ _ _ _ _ _
    · split
      · next hs => exact advance_ok (h.store hs) (store_kept hs) _ _ _
      · exact rfl
      · trivial
  · split
    · next hs => exact advance_ok (h.store hs) (store_kept hs) _ _ _
    · exact rfl
    · trivial
  · split
    · exact rfl
    · next hp => exact StringEnd.waitFar h (place_far_spur hp) _ _ _ _ _ _
    · exact scanned_ok h _ _
  · split
    · exact rfl
    · split
      · exact rfl
      · have hacc : ∀ s x y, CoreOk key (if s = true then c.accum true (sext x (8 * i.size)) (sext y (8 * i.size)) else c.accum false x y) ∧
            StackKept c (if s = true then c.accum true (sext x (8 * i.size)) (sext y (8 * i.size)) else c.accum false x y) := by
          intro s x y
          split
          · exact accum_ok h _ _ _
          · exact accum_ok h _ _ _
        exact advance_ok (hacc _ _ _).1 (hacc _ _ _).2 _ _ _

theorem StringEnd.repeated {key : Nat} {c c' : Core} (h : CoreOk key c') (hk : StackKept c c') (i : Ri) {next : Nat} (cost : Nat)
    (hn : next < pmWords (isLane key)) : StringEnd key c (c'.repeated i next cost) := by
  have h1 : CoreOk key (c'.setLC 0 (c'.lc - 1)) := h.congr
  unfold Core.repeated
  dsimp only
  split
  · exact ⟨(h1.withPc hn).congr, hk.trans ⟨rfl, rfl, rfl, rfl⟩⟩
  · exact ⟨h1.congr, hk.trans ⟨rfl, rfl, rfl, rfl⟩⟩

theorem StringEnd.string {key : Nat} {c : Core} (h : CoreOk key c) (i : Ri) {next : Nat} (hn : next < pmWords (isLane key)) :
    StringEnd key c (c.string (isLane key) i next) := by
  have he := StringEnd.element h i
  unfold Core.string
  split
  · split
    · exact ⟨(h.withPc hn).congr, rfl, rfl, rfl, rfl⟩
    · split
      · next hg =>
        rw [hg] at he
        obtain ⟨hc, hk⟩ := he
        split
        · exact ⟨hc, hk⟩
        · exact StringEnd.repeated hc hk i _ hn
      · exact he
  · split
    · next hg =>
      rw [hg] at he
      obtain ⟨hc, hk⟩ := he
      split
      · exact ⟨hc, hk⟩
      · exact ⟨hc.withPc hn, hk.trans ⟨rfl, rfl, rfl, rfl⟩⟩
    · exact he

/-! ### The ALU and the control registers -/

theorem CoreOk.addFlags {key : Nat} {c : Core} (h : CoreOk key c) (a b : Word) (n : Nat) : CoreOk key (c.add a b n).2 :=
  ((h.setNZ _).setFlag _ (show fC < 7 by decide)).setFlag _ (show fV < 7 by decide)

theorem CoreOk.shiftFlags {key : Nat} {c : Core} (h : CoreOk key c) (kind n : Nat) (a : Word) : CoreOk key (c.shift kind n a).2 := by
  rw [Core.shift_eq]
  dsimp only
  split
  · exact h.setNZ _
  · exact (h.setNZ _).setFlag _ (show fC < 7 by decide)

/-- What the ALU does to the core beside its result: the flags of a sum, of a logical result or of a shift, or nothing. -/
theorem alu_core {P : Core → Prop} {c : Core} (i : Ri) (hsum : ∀ a b n, P (c.add a b n).2) (hlogic : ∀ r, P (c.setNZ r))
    (hshift : ∀ k n a, P (c.shift k n a).2) (hmove : P c) : P (c.alu i).2 := by
  unfold Core.alu
  dsimp only
  split
  exacts [hsum _ _ _, hsum _ _ _, hsum _ _ _, hlogic _, hlogic _, hlogic _, hmove, hsum _ _ _, hsum _ _ _, hmove, hsum _ _ _,
    hsum _ _ _, hlogic _, hlogic _, hlogic _, hsum _ _ _, hmove, hmove, hlogic _, hshift _ _ _, hsum _ _ _, hlogic _, hmove, hmove,
    hmove, hmove, hshift _ _ _, hshift _ _ _, hshift _ _ _, hshift _ _ _, hmove, hmove, hmove]

theorem alu_ok {key : Nat} {c : Core} (h : CoreOk key c) (i : Ri) : CoreOk key (c.alu i).2 ∧ (c.alu i).2.stopped = c.stopped := by
  refine alu_core (P := fun r => CoreOk key r ∧ r.stopped = c.stopped) i (fun a b n => ⟨h.addFlags a b n, rfl⟩)
    (fun r => ⟨h.setNZ r, rfl⟩) (fun k n a => ⟨h.shiftFlags k n a, ?_⟩) ⟨h, rfl⟩
  rw [Core.shift_onlySt]

theorem EndOk.alu {key : Nat} {c : Core} (h : CoreOk key c) (i : Ri) {next : Nat} (hn : next < pmWords (isLane key)) (w : Nat) :
    EndOk key c (match (c.alu i).1 with
      | some v => .go { ((c.alu i).2.noteFlags c).setG i.x 0 v with pc := next } w
      | none => .go { (c.alu i).2.noteFlags c with pc := next } 1) := by
  obtain ⟨h1, hs⟩ := alu_ok h i
  obtain ⟨hist, he⟩ := Core.noteFlags_eq (c.alu i).2 c
  have h2 : CoreOk key ((c.alu i).2.noteFlags c) := by
    rw [he]
    exact h1.congr
  have hs2 : ((c.alu i).2.noteFlags c).stopped = c.stopped := by
    rw [he]
    exact hs
  split
  · exact EndOk.on (c' := ((c.alu i).2.noteFlags c).setG i.x 0 _) h2.congr hn hs2
  · exact EndOk.on h2 hn hs2

theorem CoreOk.mfc {key : Nat} {c : Core} (h : CoreOk key c) (n : Nat) : CoreOk key (c.mfc key n).2 ∧ (c.mfc key n).2.stopped = c.stopped := by
  have hp : CoreOk key c.portUsed ∧ c.portUsed.stopped = c.stopped := ⟨h.congr, rfl⟩
  have hd : CoreOk key (c.bumpPma (isLane key)).portUsed ∧ (c.bumpPma (isLane key)).portUsed.stopped = c.stopped := ⟨h.congr, rfl⟩
  unfold Core.mfc
  split
  exacts [⟨h, rfl⟩, ⟨h, rfl⟩, ⟨h, rfl⟩, ⟨h, rfl⟩, hp, hd, ⟨h, rfl⟩, ⟨h, rfl⟩, ⟨h, rfl⟩]

theorem noteFold_eq (l : List Nat) (c : Core) (f : Core → Nat → Core) (hf : ∀ c n, ∃ hist, f c n = { c with hist := hist }) :
    ∃ hist, l.foldl f c = { c with hist := hist } := by
  induction l generalizing c with
  | nil => exact ⟨c.hist, rfl⟩
  | cons n l ih =>
    obtain ⟨x, hx⟩ := hf c n
    obtain ⟨y, hy⟩ := ih (f c n)
    exact ⟨y, by rw [List.foldl_cons, hy, hx]⟩

theorem notePreds_eq (c : Core) : ∃ hist, (List.range 8).foldl (fun c n => if n = 0 then c else c.note (16 + n) 4 (bitsOf c.p n 1)) c =
    { c with hist := hist } := by
  refine noteFold_eq _ c _ fun c n => ?_
  split
  · exact ⟨c.hist, rfl⟩
  · exact ⟨_, rfl⟩

theorem bitAt_zero_or_one (v : Nat) : bitAt (v ||| 1) 0 = true := by
  rw [bitAt, bitsOf_one]
  simp

theorem CoreOk.mtc {key : Nat} {c : Core} (h : CoreOk key c) (n : Nat) (v : Word) :
    CoreOk key (c.mtc key n v) ∧ (c.mtc key n v).stopped = c.stopped := by
  unfold Core.mtc
  dsimp only
  split
  · exact ⟨(h.congr : CoreOk key ((c.note 24 4 (bitsOf c.st.toNat 16 4)).note 13 0 c.st.toNat)).withSt (stFits_and v _), rfl⟩
  case h_12 =>
    obtain ⟨hist, he⟩ := notePreds_eq c
    rw [he]
    exact ⟨(h.congr : CoreOk key { c with hist := hist }).withP (bitAt_zero_or_one _), rfl⟩
  all_goals exact ⟨h.congr, rfl⟩

/-! ### Every instruction -/

theorem decodeLong_guard (lane : Bool) (cond body : Nat) (w : Nat → Nat) : (decodeLong lane cond body w).op ≠ .guard := by
  unfold decodeLong
  dsimp only
  split <;> simp

theorem decodeMemory_guard (lane : Bool) (cond body : Nat) (w : Nat → Nat) : (decodeMemory lane cond body w).op ≠ .guard := by
  unfold decodeMemory
  dsimp only
  split
  · simp
  · split <;> simp

theorem decodeControl_guard (lane : Bool) (cond body : Nat) (w : Nat → Nat) : (decodeControl lane cond body w).op ≠ .guard := by
  unfold decodeControl
  dsimp only
  split <;> dsimp only <;> (try split) <;> simp

theorem decodeMisc_guard (cond body : Nat) : (decodeMisc false cond body).op ≠ .guard := by
  unfold decodeMisc
  dsimp only
  generalize bitsOf body 0 6 = sub
  simp only [Bool.false_eq_true, false_and, if_false, apply_ite Ri.op, ne_eq]
  repeat' split
  all_goals simp

theorem decodeMult_guard (cond body : Nat) : (decodeMult cond body).op ≠ .guard := by
  unfold decodeMult
  dsimp only
  split
  · simp
  · simp
  · split
    · dsimp only
      split
      · simp
      · split <;> simp
    · dsimp only
      split <;> simp
  · dsimp only
    split <;> simp

/-- GUARD is an instruction of lane cores only (13 Table 13.12). -/
theorem decodeRidge_guard (w : Nat → Nat) : (decodeRidge false w).op ≠ .guard := by
  unfold decodeRidge
  dsimp only
  split
  · dsimp only
    split <;> simp
  · split
    · dsimp only
      split <;> simp
    · split
      · exact decodeLong_guard _ _ _ _
      · simp
    · dsimp only
      split <;> simp
    · exact decodeMemory_guard _ _ _ _
    · split
      · simp
      · split
        · exact decodeMisc_guard _ _
        · exact decodeControl_guard _ _ _ _
    · exact decodeMult_guard _ _

theorem EndOk.effect {key : Nat} {c : Core} (h : CoreOk key c) {i : Ri} (hg : i.op = .guard → isLane key = true) {next : Nat}
    (hn : next < pmWords (isLane key)) : EndOk key c (c.effect key i next) := by
  unfold Core.effect
  dsimp only
  split
  case h_1 => exact EndOk.on (h.setP _ _) hn (by unfold Core.setP; split <;> rfl)
  case h_2 => exact ⟨(h.withPc hn).congr, fun _ => rfl⟩
  case h_3 => exact ⟨(h.withPc hn).congr, fun _ => rfl⟩
  case h_4 =>
    obtain ⟨ha, -, -, -, hs⟩ := accum_ok h true (c.rg i.x).toInt (c.rg i.y).toInt
    exact EndOk.on ha hn hs
  case h_5 => exact ⟨(h.withPc hn).congr, fun _ => rfl⟩
  case h_6 => exact ⟨(h.withPc hn).congr, fun _ => rfl⟩
  case h_7 => exact EndOk.memory h i hn
  case h_8 => exact EndOk.memory h i hn
  case h_9 => exact EndOk.memory h i hn
  case h_10 => exact EndOk.memory h i hn
  case h_11 => exact EndOk.jump h i 2 (pcWrap_lt _ _)
  case h_12 => exact EndOk.jump h i 2 (pcWrap_lt _ _)
  case h_13 => exact EndOk.callTo h i next (pcWrap_lt _ _)
  case h_14 => exact EndOk.jump h i 2 (mod_pmWords_lt _ _)
  case h_15 => exact EndOk.callTo h i next (mod_pmWords_lt _ _)
  case h_16 => exact ⟨(h.withPc hn).congr, fun _ => rfl⟩
  case h_17 =>
    have hl : ∀ v, CoreOk key (c.setLC 4 v) := fun v => h.congr
    split
    · exact EndOk.jump (hl _) i 2 (pcWrap_lt _ _)
    · exact EndOk.fall (hl _) hn
  case h_18 =>
    obtain ⟨hm, hs⟩ := h.mfc i.y
    exact EndOk.on (c' := (c.mfc key i.y).2.setG i.x 0 _) hm.congr hn hs
  case h_19 =>
    obtain ⟨hm, hs⟩ := h.mtc i.y (c.rg i.x)
    exact EndOk.on hm hn hs
  case h_20 => exact EndOk.on h hn
  case h_21 =>
    split
    · exact EndOk.retWith h i _
    · next hp => exact ⟨h.withFar fun ht => absurd ht (by simp [place_far_spur hp]), fun _ => rfl⟩
    · exact EndOk.trapped h _ _ _
  case h_22 =>
    have hs : CoreOk key c.syncCtl := h.congr
    have hwait : ∀ k n e a, isLane key = false → EndOk key c (c.syncCtl.waitFar k 0 false n e a) :=
      fun k n e a hl => ⟨hs.withFar fun ht => absurd ht (by simp [hl]), fun _ => rfl⟩
    have htrap : ∀ v p x, EndOk key c (.trap c.syncCtl v p x) := fun v p x => ⟨hs, HasFrame.syncCtl, rfl⟩
    split
    · trivial
    · split
      · exact EndOk.retiWith h i _ _
      · next hp _ => exact hwait _ _ _ _ (place_far_spur hp)
      · next hp _ => exact hwait _ _ _ _ (place_far_spur hp)
      · exact htrap _ _ _
      · exact htrap _ _ _
  case h_23 =>
    split
    · exact ⟨(h.withPc hn).congr, fun _ => rfl⟩
    · trivial
  case h_24 => exact ⟨(h.withPc hn).congr, fun _ => rfl⟩
  case h_25 => exact ⟨(h.withPc hn).congr, fun _ => rfl⟩
  case h_26 => exact EndOk.trapped h _ _ _
  case h_27 => exact EndOk.trapped h _ _ _
  case h_28 ho =>
    have hl := hg ho
    obtain ⟨-, -, hst, -⟩ := id h
    have hm : ∀ j < 4, (stMask (isLane key)).getLsbD (16 + j) = true := by
      rw [hl]
      decide
    exact ⟨((h.withSt (stFits_putBits (i.x + 8 * i.y) hst hm)).withPc hn).congr, fun _ => rfl⟩
  case h_29 => exact EndOk.on (h.setP _ _) hn (by unfold Core.setP; split <;> rfl)
  case h_30 => exact EndOk.on (h.setP _ _) hn (by unfold Core.setP; split <;> rfl)
  case h_31 => exact EndOk.trapped h _ _ _
  case h_32 =>
    split
    · exact (StringEnd.string h i hn).endOk h
    · exact EndOk.alu h i hn _

end Sys2Proof
end

section
/-! SUPPORT. What every Ridge core keeps, step by step, and the statement about it (13 R456 to R459, R470 to R479; 14 R500). -/

namespace Sys2Proof

open Machine

/-! ### One step of a core -/

/-- The core at the cycle in which its next instruction `i` issues: multiplier results due by then have landed. -/
def Machine.Core.begun (c : Core) (lane : Bool) (choice : Nat) (i : Ri) : Core :=
  ({ (c.reach (c.issue lane i).1).settle with entry := none, halted := false }).capture lane choice i

theorem begun_eq (c : Core) (lane : Bool) (choice : Nat) (i : Ri) : ∃ cyc t mx mxw loop, c.begun lane choice i =
    { c with cyc := cyc, ctl := Tab.set 0 c.ctl 7 t, mx := mx, mxw := mxw, entry := none, halted := false, loop := loop } := by
  rw [Machine.Core.begun, Core.capture_eq]
  exact ⟨_, _, _, _, _, rfl⟩

theorem begun_kept (c : Core) (lane : Bool) (choice : Nat) (i : Ri) : StackKept c (c.begun lane choice i) := by
  obtain ⟨_, _, _, _, _, e⟩ := begun_eq c lane choice i
  rw [e]
  exact ⟨rfl, Tab.get_set_ne _ _ _ _ _ _ (by decide), rfl, rfl⟩

theorem CoreOk.begun {key : Nat} {c : Core} (h : CoreOk key c) (lane : Bool) (choice : Nat) (i : Ri) : CoreOk key (c.begun lane choice i) := by
  obtain ⟨_, _, _, _, _, e⟩ := begun_eq c lane choice i
  rw [e]
  exact h.congr

theorem HasFrame.trapTo_lane {key : Nat} {c : Core} (hl : isLane key = true) (h : HasFrame c) (vec saved : Nat) (x : Option Nat) :
    HasFrame (c.trapTo key vec saved x) := by
  obtain ⟨t, he, ht, -⟩ := blamed_eq c vec x
  rw [Sys2Proof.trapTo_lane hl, he]
  exact hasFrame_congr (c := c) rfl (ht 2 (by decide) (by decide)) rfl h

/-- What one step of a core keeps: the core stays well; with room for a frame it does not stop, unless it is a lane core's; and the
repetition of a string instruction that goes on leaves that room. -/
def StepKeeps (key : Nat) (string : Bool) (c c' : Core) : Prop :=
  CoreOk key c' ∧ (isLane key = false → HasFrame c → c'.stopped = c.stopped) ∧
  (string = true → HasFrame c → c'.inRep = true → HasFrame c')

theorem StepKeeps.refl {key : Nat} {string : Bool} {c : Core} (h : CoreOk key c) : StepKeeps key string c c :=
  ⟨h, fun _ _ => rfl, fun _ hf _ => hf⟩

theorem StepKeeps.moved {key : Nat} {string : Bool} {c c' : Core} (h : CoreOk key c') (hk : StackKept c c') : StepKeeps key string c c' := by
  obtain ⟨-, -, -, hs⟩ := id hk
  exact ⟨h, fun _ _ => hs, fun _ hf _ => hk.frame hf⟩

theorem StepKeeps.trapTo {key : Nat} {string : Bool} {c c2 : Core} (h : CoreOk key c2) (hf : HasFrame c → HasFrame c2)
    (hs : c2.stopped = c.stopped) (vec saved : Nat) (x : Option Nat) : StepKeeps key string c (c2.trapTo key vec saved x) := by
  refine ⟨h.trapTo _ _ _, fun hk hc => ?_, fun _ hc hr => ?_⟩
  · obtain ⟨⟨-, -, -, -, -, -, -, -, -, -, -, -, hst⟩, -⟩ := trapTo_frame hk (hf hc) vec saved x
    exact hst.trans hs
  · cases hk : isLane key with
    | true => exact (hf hc).trapTo_lane hk _ _ _
    | false =>
      obtain ⟨⟨-, -, -, -, -, -, hin, -⟩, -⟩ := trapTo_frame hk (hf hc) vec saved x
      rw [hin] at hr
      cases hr

/-- An instruction whose condition fails leaves the core well. -/
theorem skip_kept {key : Nat} {c c1 : Core} (h : CoreOk key c1) (hk : StackKept c c1) (i : Ri) {next : Nat} (hn : next < pmWords (isLane key)) :
    CoreOk key (c1.skip i next).1 ∧ StackKept c (c1.skip i next).1 := by
  obtain ⟨c', n, hf, hp, hc⟩ := onlyFlow_fall c1 next
  have hfall : CoreOk key c' ∧ StackKept c c' := by
    have h2 := h.withPc hn
    rw [← hp] at h2
    unfold OnlyFlow at hc
    rw [hc]
    exact ⟨h2.congr, hk.trans ⟨rfl, rfl, rfl, rfl⟩⟩
  unfold Machine.Core.skip
  rw [hf]
  split
  · exact hfall
  · exact hfall
  · exact ⟨(h.withPc hn).congr, hk.trans ⟨rfl, rfl, rfl, rfl⟩⟩
  · exact ⟨(h.withPc hn).congr, hk.trans ⟨rfl, rfl, rfl, rfl⟩⟩

theorem effect_string (c : Core) (key : Nat) {i : Ri} (next : Nat) (h : i.op.isString = true) :
    c.effect key i next = c.string (isLane key) i next := by
  unfold Core.effect
  split
  case h_32 => exact if_pos h
  all_goals next h' => exact absurd (h' ▸ h) (by decide)

/-- What a step makes of the end `r` of its instruction, which issued in cycle `u`. -/
def Machine.Core.ends (c : Core) (key : Nat) (i : Ri) (u : Nat) (paired : Bool) : REnd → Core
  | .go c2 cost => c2.issued i u cost c.free paired (isLane key)
  | .trap c2 vec saved x =>
    if isLane key || c.frameFits then Core.trapTo { c2 with free := max c.free (u + 1) } key vec saved x else c
  | .hold => c

theorem StepKeeps.ends {key : Nat} {string : Bool} {c c1 : Core} (h : CoreOk key c) (hk : StackKept c c1) (i : Ri) (u : Nat)
    (paired : Bool) {r : REnd} (he : EndOk key c1 r) (hstr : string = true → StringEnd key c1 r) :
    StepKeeps key string c (c.ends key i u paired r) := by
  obtain ⟨-, -, -, hstop⟩ := id hk
  cases r with
  | go c2 n =>
    obtain ⟨hc, hgo⟩ := he
    refine ⟨hc.congr, fun hl _ => (hgo hl).trans hstop, fun hs hf _ => ?_⟩
    obtain ⟨-, hkept⟩ := hstr hs
    exact (hk.trans (hkept.trans (c2 := c2.issued i u n c.free paired (isLane key)) ⟨rfl, rfl, rfl, rfl⟩)).frame hf
  | trap c2 vec saved x =>
    obtain ⟨hc, hfr, hs⟩ := he
    have hc' : CoreOk key { c2 with free := max c.free (u + 1) } := hc.congr
    have hf' : HasFrame c → HasFrame { c2 with free := max c.free (u + 1) } :=
      fun hf => hasFrame_congr (c := c2) rfl rfl rfl (hfr (hk.frame hf))
    rw [Machine.Core.ends]
    split
    · exact StepKeeps.trapTo hc' hf' (hs.trans hstop) _ _ _
    · exact StepKeeps.refl h
  | hold => exact StepKeeps.refl h

theorem step_keeps {key : Nat} {c : Core} (h : CoreOk key c) (choice : Nat) :
    StepKeeps key (c.current key choice).op.isString c (c.step key choice) := by
  have h1 := h.begun (isLane key) choice (c.current key choice)
  have hk := begun_kept c (isLane key) choice (c.current key choice)
  have hn : (c.pc + (c.current key choice).len) % pmWords (isLane key) < pmWords (isLane key) := mod_pmWords_lt _ _
  have hg : (c.current key choice).op = .guard → isLane key = true := by
    intro ho
    cases hl : isLane key with
    | true => rfl
    | false =>
      rw [Core.current, hl] at ho
      exact absurd ho (decodeRidge_guard _)
  have he := EndOk.effect h1 hg hn
  have hstr : (c.current key choice).op.isString = true →
      StringEnd key (c.begun (isLane key) choice (c.current key choice)) ((c.begun (isLane key) choice (c.current key choice)).effect key
        (c.current key choice) ((c.pc + (c.current key choice).len) % pmWords (isLane key))) := by
    intro hs
    rw [effect_string _ key _ hs]
    exact StringEnd.string h1 _ hn
  obtain ⟨r, hr⟩ : ∃ r, (c.begun (isLane key) choice (c.current key choice)).effect key (c.current key choice)
    ((c.pc + (c.current key choice).len) % pmWords (isLane key)) = r := ⟨_, rfl⟩
  rw [hr] at he hstr
  unfold Machine.Core.begun at hr
  obtain ⟨-, -, -, hstop⟩ := id hk
  unfold Core.step
  split
  · exact StepKeeps.refl h
  · dsimp only
    split
    · split
      · exact StepKeeps.trapTo (c2 := { c.begun (isLane key) choice (c.current key choice) with rep := 0 }) h1.congr
          (fun hf => hasFrame_congr (c := c.begun (isLane key) choice (c.current key choice)) rfl rfl rfl (hk.frame hf)) hstop _ _ _
      · exact StepKeeps.refl h
    · split
      · exact StepKeeps.moved (h1.withPc hn).congr (hk.trans ⟨rfl, rfl, rfl, rfl⟩)
      · split
        · obtain ⟨h2, hk2⟩ := skip_kept h1 hk (c.current key choice) hn
          exact StepKeeps.moved h2.congr (hk2.trans (c2 := Core.issued _ _ _ _ _ _ _) ⟨rfl, rfl, rfl, rfl⟩)
        · rw [hr]
          exact StepKeeps.ends h hk _ _ _ he hstr

/-! ### The rows of a core -/

/-- On the unit: core `key` stays well, and every other core is as it was. -/
def WellStep (key : Nat) (d e : Dev) : Prop := CoreOk key (e.core key) ∧ ∀ k, k ≠ key → e.core k = d.core k

theorem WellStep.refl {key : Nat} {d : Dev} (h : CoreOk key (d.core key)) : WellStep key d d := ⟨h, fun _ _ => rfl⟩

theorem wellStep_of_cores {key : Nat} {s d e : Dev} {c : Core} (h : CoreOk key c) (hs : s.cores = d.cores)
    (he : e.cores = (s.setCore key c).cores) : WellStep key d e := by
  have hcore : ∀ k, e.core k = (s.setCore key c).core k := fun k => by rw [Dev.core, he, Dev.core]
  refine ⟨?_, fun k hk => ?_⟩
  · rw [hcore, Dev.core_setCore_same]
    exact h
  · rw [hcore, Dev.core_setCore_ne _ _ hk, Dev.core, hs, Dev.core]

theorem wellStep_setCore {key : Nat} (d : Dev) {c : Core} (h : CoreOk key c) : WellStep key d (d.setCore key c) :=
  wellStep_of_cores h rfl rfl

theorem wellStep_moved {key : Nat} {s d : Dev} (hs : s.cores = d.cores) (c : Core) {c' : Core} (h : CoreOk key c')
    (hw : isWarden key = true → c'.stopped = c.stopped) : WellStep key d (s.coreMoved key c c') :=
  wellStep_of_cores h hs (coreMoved_cores s key c c' hw)

theorem isLane_of_isWarden {key : Nat} (h : isWarden key = true) : isLane key = false := by
  simp only [isWarden, beq_iff_eq] at h
  subst h
  decide

/-- One instruction row: the core stays well, and the warden's keeps its room for a frame while a string goes on. -/
theorem coreStep_well {d : Dev} {key : Nat} (op : Rop) (h : CoreOk key (d.core key)) (hw : isWarden key = true → HasFrame (d.core key)) :
    WellStep key d (d.coreStep key op) ∧ (op.isString = true → isWarden key = true → ((d.coreStep key op).core key).inRep = true →
      HasFrame ((d.coreStep key op).core key)) := by
  unfold Dev.coreStep
  dsimp only
  split
  · exact ⟨WellStep.refl h, fun _ hk _ => hw hk⟩
  · split
    · next ho =>
      obtain ⟨hc, hstop, hfr⟩ := step_keeps h (d.staleChoice (d.core key)).1
      have hcores : (d.staleChoice (d.core key)).2.cores = d.cores := by rw [Dev.staleChoice_snd]
      have hmoved := coreMoved_cores (d.staleChoice (d.core key)).2 key (d.core key)
        ((d.core key).step key (d.staleChoice (d.core key)).1) fun hk => hstop (isLane_of_isWarden hk) (hw hk)
      have hcore : (((d.staleChoice (d.core key)).2.coreMoved key (d.core key) ((d.core key).step key (d.staleChoice (d.core key)).1))).core key =
          (d.core key).step key (d.staleChoice (d.core key)).1 := by
        rw [Dev.core, hmoved]
        exact Dev.core_setCore_same _ _ _
      refine ⟨wellStep_of_cores hc hcores hmoved, fun hs hk hin => ?_⟩
      rw [hcore] at hin ⊢
      exact hfr (by rw [ho]; exact hs) (hw hk) hin
    · exact ⟨WellStep.refl h, fun _ hk _ => hw hk⟩

theorem coreString_well {key : Nat} (op : Rop) (hop : op.isString = true) (n : Nat) {d : Dev} (h : CoreOk key (d.core key))
    (hw : isWarden key = true → HasFrame (d.core key)) : WellStep key d (d.coreString key op n) := by
  induction n generalizing d with
  | zero => exact WellStep.refl h
  | succ n ih =>
    obtain ⟨⟨hc, ho⟩, hf⟩ := coreStep_well op h hw
    unfold Dev.coreString
    dsimp only
    split
    · next hin =>
      obtain ⟨hc', ho'⟩ := ih hc fun hk => hf hop hk hin
      exact ⟨hc', fun k hk => (ho' k hk).trans (ho k hk)⟩
    · exact ⟨hc, ho⟩

theorem irqEntry_well {d : Dev} {key : Nat} (levels : Nat) (h : CoreOk key (d.core key)) (hw : isWarden key = true → HasFrame (d.core key)) :
    WellStep key d (d.irqEntry key levels) := by
  have h0 : CoreOk key ((d.core key).seeLevels levels) := h.congr
  unfold Dev.irqEntry
  dsimp only
  split
  · exact WellStep.refl h
  · next hl =>
    have hlane : isLane key = false := by
      cases hk : isLane key
      · rfl
      · simp [hk] at hl
    split
    · exact wellStep_setCore d h0
    · split
      · next n _ =>
        refine wellStep_moved rfl _ (h0.takeLine hlane n) fun hk => ?_
        have hf : HasFrame ((d.core key).seeLevels levels) := hasFrame_congr (c := d.core key) rfl rfl rfl (hw hk)
        rw [takeLine_eq, enter_eq hf, Machine.Core.lineTaken]
        split <;> rfl
      · exact wellStep_setCore d h0

theorem irqTakeover_well {d : Dev} {key : Nat} (levels b : Nat) (h : CoreOk key (d.core key)) : WellStep key d (d.irqTakeover key levels b) := by
  have h0 : CoreOk key ((d.core key).seeLevels levels) := h.congr
  unfold Dev.irqTakeover
  dsimp only
  split
  · exact WellStep.refl h
  · next hl =>
    have hlane : isLane key = false := by
      cases hk : isLane key
      · rfl
      · simp [hk] at hl
    split
    · exact wellStep_setCore d h0
    · split
      · exact wellStep_setCore d h0
      · next m _ =>
        split
        · exact wellStep_setCore d h0
        · refine wellStep_setCore d (((h0.setIpl (m + 1)).withPc ?_).congr)
          rw [hlane]
          exact mod_pmWords_lt _ _

theorem imprecise_well {d : Dev} {key : Nat} (h : CoreOk key (d.core key)) (hw : isWarden key = true → HasFrame (d.core key)) :
    WellStep key d (d.imprecise key) := by
  unfold Dev.imprecise
  dsimp only
  split
  · exact WellStep.refl h
  · split
    · exact WellStep.refl h
    · next vec eff t _ =>
      have h1 : CoreOk key { d.core key with errs := t, halted := false } := h.congr
      refine wellStep_moved rfl _ (h1.trapTo vec (d.core key).pc (some eff)).congr fun hk => ?_
      have hf : HasFrame { d.core key with errs := t, halted := false } := hasFrame_congr (c := d.core key) rfl rfl rfl (hw hk)
      obtain ⟨⟨-, -, -, -, -, -, -, -, -, -, -, -, hst⟩, -⟩ := trapTo_frame (isLane_of_isWarden hk) hf vec (d.core key).pc (some eff)
      exact hst

theorem coreTimer_well {d : Dev} {key : Nat} (h : CoreOk key (d.core key)) : WellStep key d (d.coreTimer key) := by
  unfold Dev.coreTimer
  dsimp only
  split
  · exact WellStep.refl h
  · exact wellStep_setCore d h.congr

theorem laneStop_well {d : Dev} {key : Nat} (h : CoreOk key (d.core key)) : WellStep key d (d.laneStop key) := by
  unfold Dev.laneStop
  dsimp only
  split
  · exact wellStep_setCore d h.congr
  · exact WellStep.refl h

theorem kernelLimit_well {d : Dev} {key : Nat} (h : CoreOk key (d.core key)) : WellStep key d (d.kernelLimit key) := by
  unfold Dev.kernelLimit
  dsimp only
  split
  · obtain ⟨x, n, p, q, e⟩ := kernelFail_eq (d.setCore key { d.core key with stopped := true, done := 3 }) key
      { d.core key with stopped := true, done := 3 } dKERNELLIMIT
    rw [e]
    exact wellStep_of_cores (s := d) (c := { d.core key with stopped := true, done := 3 }) h.congr rfl rfl
  · exact WellStep.refl h

/-- Settles O60: each row of a core either leaves it or sets it to a core that one of the lemmas above keeps well; the warden's, having
room for a frame, comes to no stop, so that no fault of its own reaches the rest of the unit. -/
theorem coresStayWell : Obligations.CoresStayWell := by
  intro d key m levels b hp h hw c hc
  change Gives c d (WellStep key d)
  have hstep : ∀ op : Rop, ∀ ins, (∀ s, exec ins s = onDev (·.coreStep key op) s) → Gives ins d (WellStep key d) :=
    fun op ins hrow => gives_of_onDev _ hrow hp (coreStep_well op h hw).1
  have hstring : ∀ op : Rop, ∀ ins, op.isString = true → (∀ s, exec ins s = onDev (·.coreString key op (max m 1)) s) →
      Gives ins d (WellStep key d) := fun op ins hop hrow => gives_of_onDev _ hrow hp (coreString_well op hop _ h hw)
  rcases hc with hc | hc | hc | hc
  · fin_cases hc <;> exact hstep _ _ fun _ => rfl
  · fin_cases hc <;> exact hstep _ _ fun _ => rfl
  · fin_cases hc <;> exact hstring _ _ rfl fun _ => rfl
  · fin_cases hc
    · exact gives_of_onDev (·.irqEntry key levels) (fun _ => rfl) hp (irqEntry_well levels h hw)
    · exact gives_of_onDev (·.irqTakeover key levels b) (fun _ => rfl) hp (irqTakeover_well levels b h)
    · exact gives_of_onDev (·.imprecise key) (fun _ => rfl) hp (imprecise_well h hw)
    · exact gives_of_onDev (·.coreTimer key) (fun _ => rfl) hp (coreTimer_well h)
    · exact gives_of_onDev (·.laneStop key) (fun _ => rfl) hp (laneStop_well h)
    · exact gives_of_onDev (·.kernelLimit key) (fun _ => rfl) hp (kernelLimit_well h)

end Sys2Proof
end

section
/-! SUPPORT. Encodings that round-trip: the words of Ridge instructions in both forms (13 R463 to R465, Tables 13.6, 13.7), the
cadence payloads (03 Tables 3.3, 3.4, R88) and the header of a chain frame (04 Table 4.1). -/

namespace Sys2Proof

open Machine

/-! ### Signed fields -/

theorem lowBits_lt (z : Int) (n : Nat) : lowBits z n < 2 ^ n := by
  have h : (0 : Int) < (2 ^ n : Nat) := by positivity
  have := Int.emod_lt_of_pos z h
  unfold lowBits
  omega

theorem sext_mul_add (a v n : Nat) : sext (a * 2 ^ n + v) n = sext v n := by
  unfold sext
  rw [Nat.mul_add_mod_self_right]

/-- A signed field reads back the number it was given. -/
theorem sext_lowBits {z : Int} {n : Nat} (h : -(2 ^ n : Nat) ≤ z ∧ z < (2 ^ n : Nat)) : sext (lowBits z (n + 1)) (n + 1) = z := by
  obtain ⟨hlo, hhi⟩ := h
  have hp : (2 ^ (n + 1) : Nat) = 2 * 2 ^ n := by rw [pow_succ]; omega
  have hpi : ((2 : Int) ^ (n + 1)) = 2 * (2 ^ n : Nat) := by push_cast; rw [pow_succ]; omega
  have hl : (lowBits z (n + 1) : Int) = z % (2 ^ (n + 1) : Nat) := by
    unfold lowBits
    exact Int.toNat_of_nonneg (Int.emod_nonneg _ (by positivity))
  have hlt := lowBits_lt z (n + 1)
  unfold sext
  rw [Nat.mod_eq_of_lt hlt, Nat.add_sub_cancel]
  rw [hp] at hl
  generalize (2 : Nat) ^ n = p at *
  rcases lt_or_ge z 0 with hz | hz
  · rw [← Int.add_emod_right, Int.emod_eq_of_lt (by omega) (by omega)] at hl
    rw [if_neg (by omega), hl, hpi]
    push_cast
    omega
  · rw [Int.emod_eq_of_lt hz (by omega)] at hl
    rw [if_pos (by omega), hl]

/-! ### The first word -/

section
variable {lane : Bool} {w : Nat → Nat} {c b : Nat}

theorem body_of_word (hb : b < 2 ^ 11) : bitsOf (c * 2 ^ 11 + b) 0 11 = b := by
  unfold bitsOf
  omega

theorem cond_of_word (hb : b < 2 ^ 11) (hc : c < if lane then 2 else 8) :
    (if lane = true then bitsOf (c * 2 ^ 11 + b) 11 1 else bitsOf (c * 2 ^ 11 + b) 11 3) = c := by
  unfold bitsOf
  split <;> simp_all <;> omega

/-! ### The groups of Table 13.6 -/

/-- The operation of an ALU body. -/
def aluRop (lane : Bool) : Nat → Rop
  | 0 => .add
  | 1 => .sub
  | 2 => if lane then .pset else .adc
  | 3 => .and
  | 4 => .or
  | 5 => .xor
  | 6 => .mov
  | _ => .cmp

theorem decodeRidge_alu {k x y : Nat} (h : w 0 = c * 2 ^ 11 + (k * 64 + x * 8 + y)) (hc : c < if lane then 2 else 8) (hk : k < 8)
    (hx : x < 8) (hy : y < 8) : decodeRidge lane w = ⟨aluRop lane k, c, x, y, 0, 0, 1⟩ := by
  have hb : k * 64 + x * 8 + y < 2 ^ 11 := by omega
  have h9 : bitsOf (k * 64 + x * 8 + y) 9 2 = 0 := by unfold bitsOf; omega
  have h6 : bitsOf (k * 64 + x * 8 + y) 6 3 = k := by unfold bitsOf; omega
  have h3 : bitsOf (k * 64 + x * 8 + y) 3 3 = x := by unfold bitsOf; omega
  have h0 : bitsOf (k * 64 + x * 8 + y) 0 3 = y := by unfold bitsOf; omega
  unfold decodeRidge aluRop
  simp only [h, body_of_word hb, cond_of_word hb hc, h9, h6, h3, h0, if_true] <;>
    rfl

theorem decodeRidge_imm {m x v : Nat} (h : w 0 = c * 2 ^ 11 + (512 + m * 128 + x * 16 + v)) (hc : c < if lane then 2 else 8) (hm : m < 2)
    (hx : x < 8) (hv : v < 16) : decodeRidge lane w = ⟨if m = 1 then .movi else .addi, c, x, 0, sext v 4, 0, 1⟩ := by
  have hb : 512 + m * 128 + x * 16 + v < 2 ^ 11 := by omega
  have h9 : bitsOf (512 + m * 128 + x * 16 + v) 9 2 = 1 := by unfold bitsOf; omega
  have h8 : bitsOf (512 + m * 128 + x * 16 + v) 8 3 = 2 := by unfold bitsOf; omega
  have h7 : bitsOf (512 + m * 128 + x * 16 + v) 7 1 = m := by unfold bitsOf; omega
  have h4 : bitsOf (512 + m * 128 + x * 16 + v) 4 3 = x := by unfold bitsOf; omega
  have hs : sext (512 + m * 128 + x * 16 + v) 4 = sext v 4 := by
    rw [← sext_mul_add (32 + m * 8 + x) v 4]
    exact congrArg (sext · 4) (by omega)
  unfold decodeRidge bitAt
  simp only [h, body_of_word hb, cond_of_word hb hc, h9, h8, h7, h4, hs]
  simp

theorem decodeRidge_cmpi {x v : Nat} (h : w 0 = c * 2 ^ 11 + (768 + x * 16 + v)) (hc : c < if lane then 2 else 8)
    (hx : x < 8) (hv : v < 16) : decodeRidge lane w = ⟨.cmpi, c, x, 0, sext v 4, 0, 1⟩ := by
  have hb : 768 + x * 16 + v < 2 ^ 11 := by omega
  have h9 : bitsOf (768 + x * 16 + v) 9 2 = 1 := by unfold bitsOf; omega
  have h8 : bitsOf (768 + x * 16 + v) 8 3 = 3 := by unfold bitsOf; omega
  have h7 : bitsOf (768 + x * 16 + v) 7 1 = 0 := by unfold bitsOf; omega
  have h4 : bitsOf (768 + x * 16 + v) 4 3 = x := by unfold bitsOf; omega
  have hs : sext (768 + x * 16 + v) 4 = sext v 4 := by
    rw [← sext_mul_add (48 + x) v 4]
    exact congrArg (sext · 4) (by omega)
  unfold decodeRidge bitAt
  simp only [h, body_of_word hb, cond_of_word hb hc, h9, h8, h7, h4, hs]
  simp

theorem decodeRidge_long {r : Nat} (h : w 0 = c * 2 ^ 11 + (896 + r)) (hc : c < if lane then 2 else 8) (hr : r < 128) :
    decodeRidge lane w = decodeLong lane c (896 + r) w := by
  have hb : 896 + r < 2 ^ 11 := by omega
  have h9 : bitsOf (896 + r) 9 2 = 1 := by unfold bitsOf; omega
  have h8 : bitsOf (896 + r) 8 3 = 3 := by unfold bitsOf; omega
  have h7 : bitsOf (896 + r) 7 1 = 1 := by unfold bitsOf; omega
  unfold decodeRidge bitAt
  simp only [h, body_of_word hb, cond_of_word hb hc, h9, h8, h7]
  simp

/-- The operation of a shift body. -/
def shiftRop : Nat → Rop
  | 0 => .shl
  | 1 => .shr
  | 2 => .sar
  | _ => .ror

theorem decodeRidge_shift {k x y : Nat} (h : w 0 = c * 2 ^ 11 + (1024 + k * 64 + x * 8 + y)) (hc : c < if lane then 2 else 8) (hk : k < 4)
    (hx : x < 8) (hy : y < 8) : decodeRidge lane w = ⟨shiftRop k, c, x, 0, shiftCount y, 0, 1⟩ := by
  have hb : 1024 + k * 64 + x * 8 + y < 2 ^ 11 := by omega
  have h9 : bitsOf (1024 + k * 64 + x * 8 + y) 9 2 = 2 := by unfold bitsOf; omega
  have h8 : bitsOf (1024 + k * 64 + x * 8 + y) 8 3 = 4 := by unfold bitsOf; omega
  have h6 : bitsOf (1024 + k * 64 + x * 8 + y) 6 2 = k := by unfold bitsOf; omega
  have h3 : bitsOf (1024 + k * 64 + x * 8 + y) 3 3 = x := by unfold bitsOf; omega
  have h0 : bitsOf (1024 + k * 64 + x * 8 + y) 0 3 = y := by unfold bitsOf; omega
  unfold decodeRidge shiftRop
  simp only [h, body_of_word hb, cond_of_word hb hc, h9, h8, h6, h3, h0, OfNat.ofNat_ne_zero, if_false] <;>
    rfl

theorem decodeRidge_memory {r : Nat} (h : w 0 = c * 2 ^ 11 + (1280 + r)) (hc : c < if lane then 2 else 8) (hr : r < 256) :
    decodeRidge lane w = decodeMemory lane c (1280 + r) w := by
  have hb : 1280 + r < 2 ^ 11 := by omega
  have h9 : bitsOf (1280 + r) 9 2 = 2 := by unfold bitsOf; omega
  have h8 : bitsOf (1280 + r) 8 3 = 5 := by unfold bitsOf; omega
  unfold decodeRidge
  simp only [h, body_of_word hb, cond_of_word hb hc, h9, h8]
  simp

theorem decodeRidge_br {v : Nat} (h : w 0 = c * 2 ^ 11 + (1536 + v)) (hc : c < if lane then 2 else 8) (hv : v < 128) :
    decodeRidge lane w = ⟨.br, c, 0, 0, sext v 7, 0, 1⟩ := by
  have hb : 1536 + v < 2 ^ 11 := by omega
  have h9 : bitsOf (1536 + v) 9 2 = 3 := by unfold bitsOf; omega
  have h8 : bitsOf (1536 + v) 8 3 = 6 := by unfold bitsOf; omega
  have h7 : bitsOf (1536 + v) 7 1 = 0 := by unfold bitsOf; omega
  have hs : sext (1536 + v) 7 = sext v 7 := by
    rw [← sext_mul_add 12 v 7]
    exact congrArg (sext · 7) (by omega)
  unfold decodeRidge bitAt
  simp only [h, body_of_word hb, cond_of_word hb hc, h9, h8, h7, hs]
  simp

theorem decodeRidge_control {r : Nat} (h : w 0 = c * 2 ^ 11 + (1664 + r)) (hc : c < if lane then 2 else 8) (hr : r < 64) :
    decodeRidge lane w = decodeControl lane c (1664 + r) w := by
  have hb : 1664 + r < 2 ^ 11 := by omega
  have h9 : bitsOf (1664 + r) 9 2 = 3 := by unfold bitsOf; omega
  have h8 : bitsOf (1664 + r) 8 3 = 6 := by unfold bitsOf; omega
  have h7 : bitsOf (1664 + r) 7 1 = 1 := by unfold bitsOf; omega
  have h6 : bitsOf (1664 + r) 6 1 = 0 := by unfold bitsOf; omega
  unfold decodeRidge bitAt
  simp only [h, body_of_word hb, cond_of_word hb hc, h9, h8, h7, h6]
  simp

theorem decodeRidge_misc {sub : Nat} (h : w 0 = c * 2 ^ 11 + (1728 + sub)) (hc : c < if lane then 2 else 8) (hr : sub < 64) :
    decodeRidge lane w = decodeMisc lane c (1728 + sub) := by
  have hb : 1728 + sub < 2 ^ 11 := by omega
  have h9 : bitsOf (1728 + sub) 9 2 = 3 := by unfold bitsOf; omega
  have h8 : bitsOf (1728 + sub) 8 3 = 6 := by unfold bitsOf; omega
  have h7 : bitsOf (1728 + sub) 7 1 = 1 := by unfold bitsOf; omega
  have h6 : bitsOf (1728 + sub) 6 1 = 1 := by unfold bitsOf; omega
  unfold decodeRidge bitAt
  simp only [h, body_of_word hb, cond_of_word hb hc, h9, h8, h7, h6]
  simp

theorem decodeRidge_mult {r : Nat} (h : w 0 = c * 2 ^ 11 + (1792 + r)) (hc : c < if lane then 2 else 8) (hr : r < 256) :
    decodeRidge lane w = decodeMult c (1792 + r) := by
  have hb : 1792 + r < 2 ^ 11 := by omega
  have h9 : bitsOf (1792 + r) 9 2 = 3 := by unfold bitsOf; omega
  have h8 : bitsOf (1792 + r) 8 3 = 7 := by unfold bitsOf; omega
  unfold decodeRidge
  simp only [h, body_of_word hb, cond_of_word hb hc, h9, h8]
  simp

end

/-! ### Whole instructions -/

/-- The words of an instruction decode to it, are as many as it says, and fit the form. -/
def RoundTrips (lane : Bool) (i : Ri) : Prop :=
  decodeRidge lane (fun j => (i.encode lane).getD j 0) = i ∧ (i.encode lane).length = i.len ∧ ∀ w ∈ i.encode lane, w < 2 ^ wordBits lane

theorem word_lt {lane : Bool} {c b : Nat} (hb : b < 2 ^ 11) (hc : c < if lane then 2 else 8) : c * 2 ^ 11 + b < 2 ^ wordBits lane := by
  unfold wordBits
  cases lane <;> simp_all <;> omega

theorem RoundTrips.ofBody {lane : Bool} {i : Ri} {b : Nat} {exts : List Nat} (he : i.body lane = (b, exts)) (hb : b < 2 ^ 11)
    (hc : i.cond < if lane then 2 else 8) (hlen : exts.length + 1 = i.len) (hext : ∀ v ∈ exts, v < 2 ^ wordBits lane)
    (hd : ∀ w : Nat → Nat, w 0 = i.cond * 2 ^ 11 + b → (∀ j, w (j + 1) = exts.getD j 0) → decodeRidge lane w = i) : RoundTrips lane i := by
  have hw : i.encode lane = (i.cond * 2 ^ 11 + b) :: exts := by rw [Machine.Ri.encode, he]
  refine ⟨?_, ?_, ?_⟩
  · rw [hw]
    exact hd _ rfl fun _ => rfl
  · rw [hw]
    exact hlen
  · rw [hw]
    intro v hv
    rcases List.mem_cons.mp hv with rfl | hv
    · exact word_lt hb hc
    · exact hext v hv

/-- An instruction of one word. -/
theorem RoundTrips.one {lane : Bool} {i : Ri} {b : Nat} (he : i.body lane = (b, [])) (hb : b < 2 ^ 11) (hc : i.cond < if lane then 2 else 8)
    (hlen : i.len = 1) (hd : ∀ w : Nat → Nat, w 0 = i.cond * 2 ^ 11 + b → decodeRidge lane w = i) : RoundTrips lane i :=
  .ofBody he hb hc hlen.symm (by simp) fun w h _ => hd w h

/-- An instruction of two words. -/
theorem RoundTrips.two {lane : Bool} {i : Ri} {b v : Nat} (he : i.body lane = (b, [v])) (hb : b < 2 ^ 11) (hc : i.cond < if lane then 2 else 8)
    (hlen : i.len = 2) (hv : v < 2 ^ wordBits lane)
    (hd : ∀ w : Nat → Nat, w 0 = i.cond * 2 ^ 11 + b → w 1 = v → decodeRidge lane w = i) : RoundTrips lane i :=
  .ofBody he hb hc hlen.symm (by simpa using hv) fun w h hj => hd w h (hj 0)

end Sys2Proof
end

section
/-! SUPPORT. Every Ridge instruction round-trips, and the statement about encodings (13 R463 to R465; 03 Tables 3.3, 3.4; 04 Table 4.1). -/

namespace Sys2Proof

open Machine

section
variable {lane : Bool} {op : Rop} {c x y : Nat} {z : Int}

theorem roundTrips_alu {k : Nat} (hc : c < if lane then 2 else 8) (hx : x < 8) (hy : y < 8) (hk : k < 8) (hop : aluRop lane k = op)
    (he : Ri.body lane ⟨op, c, x, y, 0, 0, 1⟩ = (k * 64 + x * 8 + y, [])) : RoundTrips lane ⟨op, c, x, y, 0, 0, 1⟩ :=
  .one he (by omega) hc rfl fun _ h => by rw [decodeRidge_alu h hc hk hx hy, hop]

theorem sext4 (h : -(8 : Int) ≤ z ∧ z < 8) : sext (lowBits z 4) 4 = z := sext_lowBits (n := 3) h

theorem roundTrips_imm {m : Nat} (hc : c < if lane then 2 else 8) (hx : x < 8) (hz : -(8 : Int) ≤ z ∧ z < 8) (hm : m < 2)
    (hop : (if m = 1 then Rop.movi else .addi) = op)
    (he : Ri.body lane ⟨op, c, x, 0, z, 0, 1⟩ = (512 + m * 128 + x * 16 + lowBits z 4, [])) : RoundTrips lane ⟨op, c, x, 0, z, 0, 1⟩ := by
  have hv : lowBits z 4 < 16 := lowBits_lt z 4
  exact .one he (by omega) hc rfl fun _ h => by rw [decodeRidge_imm h hc hm hx hv, hop, sext4 hz]

theorem roundTrips_cmpi (hc : c < if lane then 2 else 8) (hx : x < 8) (hz : -(8 : Int) ≤ z ∧ z < 8) :
    RoundTrips lane ⟨.cmpi, c, x, 0, z, 0, 1⟩ := by
  have hv : lowBits z 4 < 16 := lowBits_lt z 4
  exact .one (b := 768 + x * 16 + lowBits z 4) rfl (by omega) hc rfl fun _ h => by rw [decodeRidge_cmpi h hc hx hv, sext4 hz]

/-- The fields of a long or unary body. -/
theorem long_fields {s : Nat} (hx : x < 8) (hs : s < 16) :
    bitsOf (896 + (x * 16 + s)) 4 3 = x ∧ bitsOf (896 + (x * 16 + s)) 0 4 = s := by
  unfold bitsOf
  omega

theorem roundTrips_long {s : Nat} {i : Ri} {exts : List Nat} (hc : i.cond < if lane then 2 else 8) (hx : x < 8) (hs : s < 16)
    (he : i.body lane = (3 * 256 + 128 + x * 16 + s, exts)) (hlen : exts.length + 1 = i.len) (hext : ∀ v ∈ exts, v < 2 ^ wordBits lane)
    (hd : ∀ (b : Nat) (w : Nat → Nat), bitsOf b 4 3 = x → bitsOf b 0 4 = s → (∀ j, w (j + 1) = exts.getD j 0) →
      decodeLong lane i.cond b w = i) : RoundTrips lane i := by
  obtain ⟨h4, h0⟩ := long_fields hx hs
  refine .ofBody he (by omega) hc hlen hext fun w h hw => ?_
  rw [decodeRidge_long (r := x * 16 + s) (h.trans (by omega)) hc (by omega)]
  exact hd _ _ h4 h0 hw

/-- A long immediate that is a signed number. -/
theorem roundTrips_longSigned {s : Nat} (hc : c < if lane then 2 else 8) (hx : x < 8) (hs : s < 16)
    (hz : -(2 ^ (wordBits lane - 1) : Nat) ≤ z ∧ z < (2 ^ (wordBits lane - 1) : Nat))
    (he : Ri.body lane ⟨op, c, x, 0, z, 0, 2⟩ = (3 * 256 + 128 + x * 16 + s, [lowBits z (wordBits lane)]))
    (hd : ∀ (b : Nat) (w : Nat → Nat), bitsOf b 4 3 = x → bitsOf b 0 4 = s →
      decodeLong lane c b w = ⟨op, c, x, 0, sext (w 1) (wordBits lane), 0, 2⟩) : RoundTrips lane ⟨op, c, x, 0, z, 0, 2⟩ := by
  obtain ⟨n, hn⟩ : ∃ n, wordBits lane = n + 1 := by cases lane <;> exact ⟨_, rfl⟩
  refine roundTrips_long hc hx hs he rfl (by simpa using lowBits_lt _ _) fun b w h4 h0 hw => ?_
  have h1 : w 1 = lowBits z (wordBits lane) := hw 0
  rw [hn, Nat.add_sub_cancel] at hz
  rw [hd b w h4 h0, h1, hn, sext_lowBits hz]

/-- A long immediate that is a number without sign. -/
theorem roundTrips_longNat {s : Nat} (hc : c < if lane then 2 else 8) (hx : x < 8) (hs : s < 16)
    (hz : 0 ≤ z ∧ z < (2 ^ wordBits lane : Nat))
    (he : Ri.body lane ⟨op, c, x, 0, z, 0, 2⟩ = (3 * 256 + 128 + x * 16 + s, [lowBits z (wordBits lane)]))
    (hd : ∀ (b : Nat) (w : Nat → Nat), bitsOf b 4 3 = x → bitsOf b 0 4 = s → decodeLong lane c b w = ⟨op, c, x, 0, (w 1 : Int), 0, 2⟩) :
    RoundTrips lane ⟨op, c, x, 0, z, 0, 2⟩ := by
  obtain ⟨hlo, hhi⟩ := hz
  refine roundTrips_long hc hx hs he rfl (by simpa using lowBits_lt _ _) fun b w h4 h0 hw => ?_
  have h1 : w 1 = lowBits z (wordBits lane) := hw 0
  have hl : (lowBits z (wordBits lane) : Int) = z := by
    rw [lowBits, Int.emod_eq_of_lt hlo hhi, Int.toNat_of_nonneg hlo]
  rw [hd b w h4 h0, h1, hl]

theorem roundTrips_unary {s : Nat} (hc : c < if lane then 2 else 8) (hx : x < 8) (hs : s < 16)
    (he : Ri.body lane ⟨op, c, x, 0, 0, 0, 1⟩ = (3 * 256 + 128 + x * 16 + s, []))
    (hd : ∀ (b : Nat) (w : Nat → Nat), bitsOf b 4 3 = x → bitsOf b 0 4 = s → decodeLong lane c b w = ⟨op, c, x, 0, 0, 0, 1⟩) :
    RoundTrips lane ⟨op, c, x, 0, 0, 0, 1⟩ :=
  roundTrips_long hc hx hs he rfl (by simp) fun b w h4 h0 _ => hd b w h4 h0

theorem roundTrips_movl (hc : c < if lane then 2 else 8) (hx : x < 8) (hz : 0 ≤ z ∧ z < (2 ^ 32 : Nat)) :
    RoundTrips lane ⟨.movl, c, x, 0, z, 0, 4⟩ := by
  obtain ⟨hlo, hhi⟩ := hz
  obtain ⟨v, rfl⟩ := Int.eq_ofNat_of_zero_le hlo
  have hv : v < 2 ^ 32 := by exact_mod_cast hhi
  refine roundTrips_long (s := 6)
    (exts := [v / 2 ^ (2 * wordBits lane), v / 2 ^ wordBits lane % 2 ^ wordBits lane, v % 2 ^ wordBits lane]) hc hx (by omega) rfl rfl
    ?_ fun b w h4 h0 hw => ?_
  · intro u hu
    simp only [List.mem_cons, List.not_mem_nil, or_false] at hu
    cases lane <;> simp only [wordBits, Bool.false_eq_true, if_false, if_true] at hu ⊢ <;> omega
  · have h1 : w 1 = v / 2 ^ (2 * wordBits lane) := hw 0
    have h2 : w 2 = v / 2 ^ wordBits lane % 2 ^ wordBits lane := hw 1
    have h3 : w 3 = v % 2 ^ wordBits lane := hw 2
    unfold decodeLong
    simp only [h4, h0, h1, h2, h3]
    congr 1
    cases lane <;> simp only [wordBits, bitsOf, Bool.false_eq_true, if_false, if_true] <;> omega

theorem roundTrips_shv {size : Nat} (hc : c < if lane then 2 else 8) (hx : x < 8) (hy : y < 8) (hs : size < 4) :
    RoundTrips lane ⟨.shv, c, x, y, 0, size, 2⟩ := by
  refine roundTrips_long (s := 8) (exts := [size * 2 ^ (wordBits lane - 2) + y]) hc hx (by omega) rfl rfl ?_ fun b w h4 h0 hw => ?_
  · intro u hu
    rw [List.mem_singleton.mp hu]
    cases lane <;> simp only [wordBits, Bool.false_eq_true, if_false, if_true] <;> omega
  · have h1 : w 1 = size * 2 ^ (wordBits lane - 2) + y := hw 0
    have hy' : bitsOf (size * 2 ^ (wordBits lane - 2) + y) 0 3 = y := by
      cases lane <;> simp only [wordBits, bitsOf, Bool.false_eq_true, if_false, if_true] <;> omega
    have hs' : bitsOf (size * 2 ^ (wordBits lane - 2) + y) (wordBits lane - 2) 2 = size := by
      cases lane <;> simp only [wordBits, bitsOf, Bool.false_eq_true, if_false, if_true] <;> omega
    unfold decodeLong
    simp only [h4, h0, h1, hy', hs']

theorem roundTrips_mulu (hc : c < if lane then 2 else 8) (hx : x < 8) (hy : y < 8) : RoundTrips lane ⟨.mulu, c, x, y, 0, 0, 2⟩ := by
  refine roundTrips_long (s := 9) (exts := [y]) hc hx (by omega) rfl rfl ?_ fun b w h4 h0 hw => ?_
  · intro u hu
    rw [List.mem_singleton.mp hu]
    cases lane <;> simp only [wordBits, Bool.false_eq_true, if_false, if_true] <;> omega
  · have h1 : w 1 = y := hw 0
    have hy' : bitsOf y 0 3 = y := by unfold bitsOf; omega
    unfold decodeLong
    simp only [h4, h0, h1, hy']

/-! ### Shifts, memory and control -/

theorem shiftCount_shiftCode {k : Nat} (hk : k < 8) (h : z = shiftCount k) : shiftCode z = k := by
  subst h
  revert k
  decide

theorem roundTrips_shift {k : Nat} (hc : c < if lane then 2 else 8) (hx : x < 8) (hz : ∃ j < 8, z = (shiftCount j : Nat)) (hk : k < 4)
    (hop : shiftRop k = op) (he : Ri.body lane ⟨op, c, x, 0, z, 0, 1⟩ = (1024 + k * 64 + x * 8 + shiftCode z, [])) :
    RoundTrips lane ⟨op, c, x, 0, z, 0, 1⟩ := by
  obtain ⟨j, hj, hz⟩ := hz
  have hcode := shiftCount_shiftCode hj hz
  exact .one he (by omega) hc rfl fun _ h => by rw [decodeRidge_shift h hc hk hx (by omega), hop, hcode, hz]

/-- The operation of a memory body. -/
def memoryRop : Nat → Rop
  | 0 => .ld
  | 1 => .lds
  | 2 => .st
  | _ => .lea

/-- The register field of a memory body: a base is marked in its bit 0. -/
def memoryReg (x : Nat) : Nat := if x < 8 then 2 * x else 2 * (x - 8) + 1

theorem memoryReg_fields {o : Nat} (ho : o < 4) (hx : x < 12) (hy : y < 4) :
    let b := 1280 + (o * 64 + y * 16 + memoryReg x)
    bitsOf b 6 2 = o ∧ bitsOf b 4 2 = y ∧ bitsOf b 0 1 = (if x < 8 then 0 else 1) ∧
    (if x < 8 then bitsOf b 1 3 = x else 8 + bitsOf b 1 2 = x ∧ bitsOf b 3 1 = 0) := by
  unfold memoryReg bitsOf
  split <;> refine ⟨?_, ?_, ?_, ?_⟩ <;> omega

theorem roundTrips_memory {o size : Nat} {k : Int} (hc : c < if lane then 2 else 8) (hx : x < 12) (hy : y < 4) (ho : o < 4)
    (hsize : size ∈ [1, 2, 4]) (hbase : 8 ≤ x → size = 4) (hlds : o = 1 → x < 8) (hop : memoryRop o = op) (hz : z = k * (size : Nat))
    (hk : -(2 ^ (wordBits lane - 3) : Nat) ≤ k ∧ k < (2 ^ (wordBits lane - 3) : Nat))
    (he : Ri.body lane ⟨op, c, x, y, z, size, 2⟩ = (1280 + (o * 64 + y * 16 + memoryReg x),
      [sizeCode size * 2 ^ (wordBits lane - 2) + lowBits (z / (size : Nat)) (wordBits lane - 2)])) :
    RoundTrips lane ⟨op, c, x, y, z, size, 2⟩ := by
  obtain ⟨h6, h4, h0, hreg⟩ := memoryReg_fields ho hx hy
  obtain ⟨m, hm⟩ : ∃ m, wordBits lane = m + 3 := by cases lane <;> exact ⟨_, rfl⟩
  have hm2 : wordBits lane - 2 = m + 1 := by omega
  have hm3 : wordBits lane - 3 = m := by omega
  have hsz : sizeCode size < 3 ∧ 2 ^ sizeCode size = size ∧ 0 < size := by
    simp only [List.mem_cons, List.not_mem_nil, or_false] at hsize
    rcases hsize with rfl | rfl | rfl <;> decide
  obtain ⟨hs3, hs2, hspos⟩ := hsz
  have hk' : z / (size : Nat) = k := by rw [hz, Int.mul_ediv_cancel _ (by omega)]
  have hlow := lowBits_lt k (m + 1)
  rw [hm3] at hk
  rw [hm2, hk'] at he
  have hv : sizeCode size * 2 ^ (m + 1) + lowBits k (m + 1) < 2 ^ wordBits lane := by
    rw [hm, show m + 3 = (m + 1) + 2 by omega, pow_add _ (m + 1) 2]
    nlinarith
  have hfield : bitsOf (sizeCode size * 2 ^ (m + 1) + lowBits k (m + 1)) (m + 1) 2 = sizeCode size := by
    rw [bitsOf, mul_comm, Nat.mul_add_div (by positivity), Nat.div_eq_of_lt hlow]
    omega
  have hd : sext (sizeCode size * 2 ^ (m + 1) + lowBits k (m + 1)) (m + 1) = k := by rw [sext_mul_add, sext_lowBits hk]
  have hlt : memoryReg x < 16 := by
    unfold memoryReg
    split <;> omega
  refine .two he (by omega) hc rfl hv fun w hw0 hw1 => ?_
  rw [decodeRidge_memory hw0 hc (by omega)]
  unfold decodeMemory bitAt
  simp only [hw1, hm2, hfield, hd, h6, h4, h0, hs2]
  have hs3' : (sizeCode size == 3) = false := by simp; omega
  have hs2' : 8 ≤ x → (sizeCode size != 2) = false := fun h => by rw [hbase h]; rfl
  rw [← hop, hz]
  by_cases hx8 : x < 8
  · rw [if_pos hx8] at hreg
    simp only [hx8, if_true, hs3', hreg]
    rfl
  · rw [if_neg hx8] at hreg
    obtain ⟨hr, hb3⟩ := hreg
    have ho1 : (o == 1) = false := by simp; omega
    simp only [hx8, if_false, hs3', hs2' (by omega), hb3, ho1, hr]
    rfl

theorem roundTrips_br (hc : c < if lane then 2 else 8) (hz : -(64 : Int) ≤ z ∧ z < 64) : RoundTrips lane ⟨.br, c, 0, 0, z, 0, 1⟩ := by
  have hv : lowBits z 7 < 128 := lowBits_lt z 7
  have hs : sext (lowBits z 7) 7 = z := sext_lowBits (n := 6) hz
  exact .one (b := 1536 + lowBits z 7) rfl (by omega) hc rfl fun _ h => by rw [decodeRidge_br h hc hv, hs]

/-- The fields of a control body. -/
theorem control_fields {k r : Nat} (hk : k < 8) (hr : r < 8) :
    bitsOf (1664 + (k * 8 + r)) 3 3 = k ∧ bitsOf (1664 + (k * 8 + r)) 0 3 = r := by
  unfold bitsOf
  omega

theorem roundTrips_control {k r : Nat} {i : Ri} {exts : List Nat} (hc : i.cond < if lane then 2 else 8) (hk : k < 8) (hr : r < 8)
    (he : i.body lane = (1664 + (k * 8 + r), exts)) (hlen : exts.length + 1 = i.len) (hext : ∀ v ∈ exts, v < 2 ^ wordBits lane)
    (hd : ∀ (b : Nat) (w : Nat → Nat), bitsOf b 3 3 = k → bitsOf b 0 3 = r → (∀ j, w (j + 1) = exts.getD j 0) →
      decodeControl lane i.cond b w = i) : RoundTrips lane i := by
  obtain ⟨h3, h0⟩ := control_fields hk hr
  refine .ofBody he (by omega) hc hlen hext fun w h hw => ?_
  rw [decodeRidge_control h hc (by omega)]
  exact hd _ _ h3 h0 hw

theorem roundTrips_target {k : Nat} (hc : c < if lane then 2 else 8) (hz : 0 ≤ z ∧ z < (2 ^ wordBits lane : Nat)) (hk : k < 8)
    (he : Ri.body lane ⟨op, c, 0, 0, z, 0, 2⟩ = (1664 + (k * 8 + 0), [z.toNat]))
    (hd : ∀ (b : Nat) (w : Nat → Nat), bitsOf b 3 3 = k → bitsOf b 0 3 = 0 → decodeControl lane c b w = ⟨op, c, 0, 0, (w 1 : Int), 0, 2⟩) :
    RoundTrips lane ⟨op, c, 0, 0, z, 0, 2⟩ := by
  obtain ⟨hlo, hhi⟩ := hz
  obtain ⟨v, rfl⟩ := Int.eq_ofNat_of_zero_le hlo
  refine roundTrips_control hc hk (by omega) he rfl ?_ fun b w h3 h0 hw => ?_
  · intro u hu
    rw [List.mem_singleton.mp hu, Int.toNat_natCast]
    exact_mod_cast hhi
  · have h1 : w 1 = v := hw 0
    rw [hd b w h3 h0, h1]

theorem roundTrips_jumpReg {k : Nat} (hc : c < if lane then 2 else 8) (hx : x < 8) (hk : k < 8)
    (he : Ri.body lane ⟨op, c, x, 0, 0, 0, 1⟩ = (1664 + (k * 8 + x), []))
    (hd : ∀ (b : Nat) (w : Nat → Nat), bitsOf b 3 3 = k → bitsOf b 0 3 = x → decodeControl lane c b w = ⟨op, c, x, 0, 0, 0, 1⟩) :
    RoundTrips lane ⟨op, c, x, 0, 0, 0, 1⟩ :=
  roundTrips_control hc hk hx he rfl (by simp) fun b w h3 h0 _ => hd b w h3 h0

theorem roundTrips_blc (hc : c < if lane then 2 else 8)
    (hz : -(2 ^ (wordBits lane - 1) : Nat) ≤ z ∧ z < (2 ^ (wordBits lane - 1) : Nat)) : RoundTrips lane ⟨.blc, c, 0, 0, z, 0, 2⟩ := by
  obtain ⟨n, hn⟩ : ∃ n, wordBits lane = n + 1 := by cases lane <;> exact ⟨_, rfl⟩
  refine roundTrips_control (k := 5) (r := 0) (exts := [lowBits z (wordBits lane)]) hc (by omega) (by omega) rfl rfl
    (by simpa using lowBits_lt _ _) fun b w h3 h0 hw => ?_
  have h1 : w 1 = lowBits z (wordBits lane) := hw 0
  rw [hn, Nat.add_sub_cancel] at hz
  unfold decodeControl
  simp only [h3, h0, h1, hn, sext_lowBits hz, ne_eq, not_true_eq_false, if_false]

theorem roundTrips_ctl {k : Nat} (hc : c < if lane then 2 else 8) (hx : x < 8) (hy : y < 32) (hk : k < 8)
    (he : Ri.body lane ⟨op, c, x, y, 0, 0, 2⟩ = (1664 + (k * 8 + x), [y]))
    (hd : ∀ (b : Nat) (w : Nat → Nat), bitsOf b 3 3 = k → bitsOf b 0 3 = x → bitsOf (w 1) 0 5 = y →
      decodeControl lane c b w = ⟨op, c, x, y, 0, 0, 2⟩) : RoundTrips lane ⟨op, c, x, y, 0, 0, 2⟩ := by
  refine roundTrips_control hc hk hx he rfl ?_ fun b w h3 h0 hw => ?_
  · intro u hu
    rw [List.mem_singleton.mp hu]
    cases lane <;> simp only [wordBits, Bool.false_eq_true, if_false, if_true] <;> omega
  · have h1 : w 1 = y := hw 0
    refine hd b w h3 h0 ?_
    rw [h1, bitsOf]
    omega

/-- The miscellaneous group: `sub` is the body's low six bits. -/
theorem roundTrips_misc {sub : Nat} (hc : c < if lane then 2 else 8) (hs : sub < 64)
    (he : Ri.body lane ⟨op, c, x, y, 0, 0, 1⟩ = (1728 + sub, []))
    (hd : ∀ b, bitsOf b 0 6 = sub → decodeMisc lane c b = ⟨op, c, x, y, 0, 0, 1⟩) : RoundTrips lane ⟨op, c, x, y, 0, 0, 1⟩ :=
  .one he (by omega) hc rfl fun _ h => by
    rw [decodeRidge_misc h hc hs]
    exact hd _ (by unfold bitsOf; omega)

/-- The multiplier, accumulator, string and base groups. -/
theorem roundTrips_mult {r : Nat} {i : Ri} (hc : i.cond < if lane then 2 else 8) (hr : r < 256) (he : i.body lane = (1792 + r, []))
    (hlen : i.len = 1) (hd : decodeMult i.cond (1792 + r) = i) : RoundTrips lane i :=
  .one he (by omega) hc hlen fun _ h => (decodeRidge_mult h hc hr).trans hd

theorem decodeMult_product {k x y : Nat} (hk : k < 2) (hx : x < 8) (hy : y < 8) :
    decodeMult c (1792 + (k * 64 + x * 8 + y)) = ⟨if k = 0 then .mul else .mac, c, x, y, 0, 0, 1⟩ := by
  have h6 : bitsOf (1792 + (k * 64 + x * 8 + y)) 6 2 = k := by unfold bitsOf; omega
  have h3 : bitsOf (1792 + (k * 64 + x * 8 + y)) 3 3 = x := by unfold bitsOf; omega
  have h0 : bitsOf (1792 + (k * 64 + x * 8 + y)) 0 3 = y := by unfold bitsOf; omega
  unfold decodeMult
  simp only [h6, h3, h0]
  obtain rfl | rfl : k = 0 ∨ k = 1 := by omega
  · rfl
  · rfl

theorem decodeMult_move {k x y : Nat} (hk : k < 2) (hx : x < 8) (hy : y < 2) :
    decodeMult c (1792 + (128 + k * 16 + y * 8 + x)) = ⟨if k = 0 then .rdm else .wrm, c, x, y, 0, 0, 1⟩ := by
  have h6 : bitsOf (1792 + (128 + k * 16 + y * 8 + x)) 6 2 = 2 := by unfold bitsOf; omega
  have h5 : bitsOf (1792 + (128 + k * 16 + y * 8 + x)) 5 1 = 0 := by unfold bitsOf; omega
  have h4 : bitsOf (1792 + (128 + k * 16 + y * 8 + x)) 4 1 = k := by unfold bitsOf; omega
  have h3 : bitsOf (1792 + (128 + k * 16 + y * 8 + x)) 3 1 = y := by unfold bitsOf; omega
  have h0 : bitsOf (1792 + (128 + k * 16 + y * 8 + x)) 0 3 = x := by unfold bitsOf; omega
  unfold decodeMult bitAt
  simp only [h6, h5, h4, h3, h0]
  obtain rfl | rfl : k = 0 ∨ k = 1 := by omega
  · rfl
  · rfl

theorem decodeMult_base {k x y : Nat} (hk : k < 2) (hx : x < 8) (hy : y < 4) :
    decodeMult c (1792 + (192 + k * 32 + y * 8 + x)) = ⟨if k = 0 then .movb else .movg, c, x, y, 0, 0, 1⟩ := by
  have h6 : bitsOf (1792 + (192 + k * 32 + y * 8 + x)) 6 2 = 3 := by unfold bitsOf; omega
  have h5 : bitsOf (1792 + (192 + k * 32 + y * 8 + x)) 5 1 = k := by unfold bitsOf; omega
  have h3 : bitsOf (1792 + (192 + k * 32 + y * 8 + x)) 3 2 = y := by unfold bitsOf; omega
  have h0 : bitsOf (1792 + (192 + k * 32 + y * 8 + x)) 0 3 = x := by unfold bitsOf; omega
  unfold decodeMult bitAt
  simp only [h6, h5, h3, h0]
  obtain rfl | rfl : k = 0 ∨ k = 1 := by omega
  · rfl
  · rfl

/-- A string instruction: its operation and its size code are a small finite table. -/
theorem roundTrips_string {size : Nat} (hc : c < if lane then 2 else 8) (hsize : size ∈ [1, 2, 4])
    (hop : op ∈ [Rop.movs, .fils, .scns, .macm, .macmu]) : RoundTrips lane ⟨op, c, 0, 0, 0, size, 1⟩ := by
  have hsz : size = 1 ∨ size = 2 ∨ size = 4 := by simpa using hsize
  refine roundTrips_mult (r := 160 + (stringOp op * 4 + sizeCode size)) hc ?_ ?_ rfl ?_
  · have h1 : stringOp op < 5 := by fin_cases hop <;> decide
    have h2 : sizeCode size < 3 := by rcases hsz with rfl | rfl | rfl <;> decide
    omega
  · fin_cases hop <;> exact congrArg (·, []) (by dsimp only; omega)
  · rcases hsz with rfl | rfl | rfl <;> fin_cases hop <;> rfl

end

/-- Every well-formed instruction round-trips (13 Tables 13.6, 13.7): one lemma a group, with the operation's own code. -/
theorem roundTrips_of_wellFormed {lane : Bool} {i : Ri} (h : i.WellFormed lane) : RoundTrips lane i := by
  obtain ⟨op, c, x, y, z, size, len⟩ := i
  obtain ⟨hc, hx, hop⟩ := h
  cases op <;> simp only [reduceCtorEq, or_self, if_false, or_false, or_true, if_true] at hx hop
  case add => obtain ⟨hy, rfl, rfl, rfl⟩ := hop; exact roundTrips_alu (k := 0) hc hx hy (by omega) rfl rfl
  case sub => obtain ⟨hy, rfl, rfl, rfl⟩ := hop; exact roundTrips_alu (k := 1) hc hx hy (by omega) rfl rfl
  case adc => obtain ⟨rfl, hy, rfl, rfl, rfl⟩ := hop; exact roundTrips_alu (k := 2) hc hx hy (by omega) rfl rfl
  case pset => obtain ⟨rfl, hy, rfl, rfl, rfl⟩ := hop; exact roundTrips_alu (k := 2) hc hx hy (by omega) rfl rfl
  case and => obtain ⟨hy, rfl, rfl, rfl⟩ := hop; exact roundTrips_alu (k := 3) hc hx hy (by omega) rfl rfl
  case or => obtain ⟨hy, rfl, rfl, rfl⟩ := hop; exact roundTrips_alu (k := 4) hc hx hy (by omega) rfl rfl
  case xor => obtain ⟨hy, rfl, rfl, rfl⟩ := hop; exact roundTrips_alu (k := 5) hc hx hy (by omega) rfl rfl
  case mov => obtain ⟨hy, rfl, rfl, rfl⟩ := hop; exact roundTrips_alu (k := 6) hc hx hy (by omega) rfl rfl
  case cmp => obtain ⟨hy, rfl, rfl, rfl⟩ := hop; exact roundTrips_alu (k := 7) hc hx hy (by omega) rfl rfl
  case addi => obtain ⟨hz, ⟨rfl, rfl⟩, rfl⟩ := hop; exact roundTrips_imm (m := 0) hc hx hz (by omega) rfl rfl
  case movi => obtain ⟨hz, ⟨rfl, rfl⟩, rfl⟩ := hop; exact roundTrips_imm (m := 1) hc hx hz (by omega) rfl rfl
  case cmpi => obtain ⟨hz, ⟨rfl, rfl⟩, rfl⟩ := hop; exact roundTrips_cmpi hc hx hz
  case addx =>
    obtain ⟨hz, ⟨rfl, rfl⟩, rfl⟩ := hop
    exact roundTrips_longSigned (s := 0) hc hx (by omega) hz rfl fun b w h4 h0 => by simp only [decodeLong, h4, h0]
  case andx =>
    obtain ⟨hz, ⟨rfl, rfl⟩, rfl⟩ := hop
    exact roundTrips_longSigned (s := 1) hc hx (by omega) hz rfl fun b w h4 h0 => by simp only [decodeLong, h4, h0]
  case orx =>
    obtain ⟨hlo, hhi, ⟨rfl, rfl⟩, rfl⟩ := hop
    exact roundTrips_longNat (s := 2) hc hx (by omega) ⟨hlo, hhi⟩ rfl fun b w h4 h0 => by simp only [decodeLong, h4, h0]
  case xorx =>
    obtain ⟨hlo, hhi, ⟨rfl, rfl⟩, rfl⟩ := hop
    exact roundTrips_longNat (s := 3) hc hx (by omega) ⟨hlo, hhi⟩ rfl fun b w h4 h0 => by simp only [decodeLong, h4, h0]
  case cmpx =>
    obtain ⟨hz, ⟨rfl, rfl⟩, rfl⟩ := hop
    exact roundTrips_longSigned (s := 4) hc hx (by omega) hz rfl fun b w h4 h0 => by simp only [decodeLong, h4, h0]
  case movx =>
    obtain ⟨hz, ⟨rfl, rfl⟩, rfl⟩ := hop
    exact roundTrips_longSigned (s := 5) hc hx (by omega) hz rfl fun b w h4 h0 => by simp only [decodeLong, h4, h0]
  case tstx =>
    obtain ⟨hlo, hhi, ⟨rfl, rfl⟩, rfl⟩ := hop
    exact roundTrips_longNat (s := 7) hc hx (by omega) ⟨hlo, hhi⟩ rfl fun b w h4 h0 => by simp only [decodeLong, h4, h0]
  case movl => obtain ⟨hlo, hhi, ⟨rfl, rfl⟩, rfl⟩ := hop; exact roundTrips_movl hc hx ⟨hlo, hhi⟩
  case shv => obtain ⟨hy, rfl, hs, rfl⟩ := hop; exact roundTrips_shv hc hx hy hs
  case mulu => obtain ⟨hy, rfl, rfl, rfl⟩ := hop; exact roundTrips_mulu hc hx hy
  case neg =>
    obtain ⟨rfl, rfl, rfl, rfl⟩ := hop
    exact roundTrips_unary (s := 10) hc hx (by omega) rfl fun b w h4 h0 => by simp only [decodeLong, h4, h0]
  case not =>
    obtain ⟨rfl, rfl, rfl, rfl⟩ := hop
    exact roundTrips_unary (s := 11) hc hx (by omega) rfl fun b w h4 h0 => by simp only [decodeLong, h4, h0]
  case sxtb =>
    obtain ⟨rfl, rfl, rfl, rfl⟩ := hop
    exact roundTrips_unary (s := 12) hc hx (by omega) rfl fun b w h4 h0 => by simp only [decodeLong, h4, h0]
  case sxth =>
    obtain ⟨rfl, rfl, rfl, rfl⟩ := hop
    exact roundTrips_unary (s := 13) hc hx (by omega) rfl fun b w h4 h0 => by simp only [decodeLong, h4, h0]
  case zxtb =>
    obtain ⟨rfl, rfl, rfl, rfl⟩ := hop
    exact roundTrips_unary (s := 14) hc hx (by omega) rfl fun b w h4 h0 => by simp only [decodeLong, h4, h0]
  case zxth =>
    obtain ⟨rfl, rfl, rfl, rfl⟩ := hop
    exact roundTrips_unary (s := 15) hc hx (by omega) rfl fun b w h4 h0 => by simp only [decodeLong, h4, h0]
  case shl => obtain ⟨hz, ⟨rfl, rfl⟩, rfl⟩ := hop; exact roundTrips_shift (k := 0) hc hx hz (by omega) rfl rfl
  case shr => obtain ⟨hz, ⟨rfl, rfl⟩, rfl⟩ := hop; exact roundTrips_shift (k := 1) hc hx hz (by omega) rfl rfl
  case sar => obtain ⟨hz, ⟨rfl, rfl⟩, rfl⟩ := hop; exact roundTrips_shift (k := 2) hc hx hz (by omega) rfl rfl
  case ror => obtain ⟨hz, ⟨rfl, rfl⟩, rfl⟩ := hop; exact roundTrips_shift (k := 3) hc hx hz (by omega) rfl rfl
  case ld =>
    obtain ⟨hy, hs, hb, rfl, k, hz, hk⟩ := hop
    exact roundTrips_memory (o := 0) hc hx hy (by omega) hs hb (by omega) rfl hz hk
      (congrArg (·, _) (by simp only [memoryReg, if_true]; omega))
  case lds =>
    obtain ⟨hy, hs, hb, rfl, k, hz, hk⟩ := hop
    exact roundTrips_memory (o := 1) hc (by omega) hy (by omega) hs hb (by omega) rfl hz hk
      (congrArg (·, _) (by simp only [memoryReg, reduceCtorEq, if_false, if_true]; omega))
  case st =>
    obtain ⟨hy, hs, hb, rfl, k, hz, hk⟩ := hop
    exact roundTrips_memory (o := 2) hc hx hy (by omega) hs hb (by omega) rfl hz hk
      (congrArg (·, _) (by simp only [memoryReg, reduceCtorEq, if_false, if_true]; omega))
  case lea =>
    obtain ⟨hy, hs, hb, rfl, k, hz, hk⟩ := hop
    exact roundTrips_memory (o := 3) hc hx hy (by omega) hs hb (by omega) rfl hz hk
      (congrArg (·, _) (by simp only [memoryReg, reduceCtorEq, if_false]; omega))
  case br => obtain ⟨rfl, hz, ⟨rfl, rfl⟩, rfl⟩ := hop; exact roundTrips_br hc hz
  case jmp =>
    obtain ⟨rfl, hlo, hhi, ⟨rfl, rfl⟩, rfl⟩ := hop
    exact roundTrips_target (k := 0) hc ⟨hlo, hhi⟩ (by omega) rfl fun b w h3 h0 => by simp [decodeControl, h3, h0]
  case call =>
    obtain ⟨rfl, hlo, hhi, ⟨rfl, rfl⟩, rfl⟩ := hop
    exact roundTrips_target (k := 1) hc ⟨hlo, hhi⟩ (by omega) rfl fun b w h3 h0 => by simp [decodeControl, h3, h0]
  case jmpr =>
    obtain ⟨rfl, rfl, rfl, rfl⟩ := hop
    exact roundTrips_jumpReg (k := 2) hc hx (by omega) (congrArg (·, _) (Nat.add_assoc ..)) fun b w h3 h0 => by simp only [decodeControl, h3, h0]
  case callr =>
    obtain ⟨rfl, rfl, rfl, rfl⟩ := hop
    exact roundTrips_jumpReg (k := 3) hc hx (by omega) (congrArg (·, _) (Nat.add_assoc ..)) fun b w h3 h0 => by simp only [decodeControl, h3, h0]
  case rep =>
    obtain ⟨rfl, rfl, rfl, rfl⟩ := hop
    exact roundTrips_jumpReg (k := 4) hc hx (by omega) (congrArg (·, _) (Nat.add_assoc ..)) fun b w h3 h0 => by simp only [decodeControl, h3, h0]
  case blc => obtain ⟨rfl, hz, ⟨rfl, rfl⟩, rfl⟩ := hop; exact roundTrips_blc hc hz
  case mfc =>
    obtain ⟨hy, hd, rfl, rfl, rfl⟩ := hop
    exact roundTrips_ctl (k := 6) hc hx hy (by omega) (congrArg (·, _) (Nat.add_assoc ..)) fun b w h3 h0 h1 => by
      simp only [decodeControl, h3, h0, h1, hd, if_true]
  case mtc =>
    obtain ⟨hy, hd, rfl, rfl, rfl⟩ := hop
    exact roundTrips_ctl (k := 7) hc hx hy (by omega) (congrArg (·, _) (Nat.add_assoc ..)) fun b w h3 h0 h1 => by
      simp only [decodeControl, h3, h0, h1, hd, if_true]
  case nop => obtain ⟨rfl, rfl, rfl, rfl, rfl⟩ := hop; exact roundTrips_misc (sub := 0) hc (by omega) rfl fun b h => by simp [decodeMisc, h]
  case ret => obtain ⟨rfl, rfl, rfl, rfl, rfl⟩ := hop; exact roundTrips_misc (sub := 1) hc (by omega) rfl fun b h => by simp [decodeMisc, h]
  case reti => obtain ⟨rfl, rfl, rfl, rfl, rfl⟩ := hop; exact roundTrips_misc (sub := 2) hc (by omega) rfl fun b h => by simp [decodeMisc, h]
  case sync => obtain ⟨rfl, rfl, rfl, rfl, rfl⟩ := hop; exact roundTrips_misc (sub := 3) hc (by omega) rfl fun b h => by simp [decodeMisc, h]
  case iflush => obtain ⟨rfl, rfl, rfl, rfl, rfl⟩ := hop; exact roundTrips_misc (sub := 4) hc (by omega) rfl fun b h => by simp [decodeMisc, h]
  case halt => obtain ⟨rfl, rfl, rfl, rfl, rfl⟩ := hop; exact roundTrips_misc (sub := 5) hc (by omega) rfl fun b h => by simp [decodeMisc, h]
  case brk => obtain ⟨rfl, rfl, rfl, rfl, rfl⟩ := hop; exact roundTrips_misc (sub := 6) hc (by omega) rfl fun b h => by simp [decodeMisc, h]
  case trap =>
    obtain ⟨rfl, rfl, rfl, rfl⟩ := hop
    refine roundTrips_misc (sub := 8 + x) hc (by omega) rfl fun b h => ?_
    interval_cases x <;> simp [decodeMisc, h]
  case pnot =>
    obtain ⟨rfl, rfl, rfl, rfl, rfl⟩ := hop
    refine roundTrips_misc (sub := 0x20 + x) hc (by omega) rfl fun b h => ?_
    interval_cases x <;> simp [decodeMisc, h]
  case pclr =>
    obtain ⟨rfl, rfl, rfl, rfl, rfl⟩ := hop
    refine roundTrips_misc (sub := 0x28 + x) hc (by omega) rfl fun b h => ?_
    interval_cases x <;> simp [decodeMisc, h]
  case guard =>
    obtain ⟨rfl, hy, rfl, rfl, rfl⟩ := hop
    refine roundTrips_misc (sub := 0x10 + 8 * y + x) hc (by omega) rfl fun b h => ?_
    interval_cases x <;> interval_cases y <;> simp [decodeMisc, h]
  case mul =>
    obtain ⟨hy, rfl, rfl, rfl⟩ := hop
    exact roundTrips_mult hc (by omega) (congrArg (·, _) (by dsimp only; omega)) rfl (decodeMult_product (k := 0) (by omega) hx hy)
  case mac =>
    obtain ⟨hy, rfl, rfl, rfl⟩ := hop
    exact roundTrips_mult hc (by omega) (congrArg (·, _) (by dsimp only; omega)) rfl (decodeMult_product (k := 1) (by omega) hx hy)
  case rdm =>
    obtain ⟨hy, rfl, rfl, rfl⟩ := hop
    exact roundTrips_mult hc (by omega) (congrArg (·, _) (by dsimp only; omega)) rfl (decodeMult_move (k := 0) (by omega) hx hy)
  case wrm =>
    obtain ⟨hy, rfl, rfl, rfl⟩ := hop
    exact roundTrips_mult hc (by omega) (congrArg (·, _) (by dsimp only; omega)) rfl (decodeMult_move (k := 1) (by omega) hx hy)
  case movb =>
    obtain ⟨hy, rfl, rfl, rfl⟩ := hop
    exact roundTrips_mult hc (by omega) (congrArg (·, _) (by dsimp only; omega)) rfl (decodeMult_base (k := 0) (by omega) hx hy)
  case movg =>
    obtain ⟨hy, rfl, rfl, rfl⟩ := hop
    exact roundTrips_mult hc (by omega) (congrArg (·, _) (by dsimp only; omega)) rfl (decodeMult_base (k := 1) (by omega) hx hy)
  case movs => obtain ⟨rfl, rfl, rfl, hs, rfl⟩ := hop; exact roundTrips_string hc hs (by decide)
  case fils => obtain ⟨rfl, rfl, rfl, hs, rfl⟩ := hop; exact roundTrips_string hc hs (by decide)
  case scns => obtain ⟨rfl, rfl, rfl, hs, rfl⟩ := hop; exact roundTrips_string hc hs (by decide)
  case macm => obtain ⟨rfl, rfl, rfl, hs, rfl⟩ := hop; exact roundTrips_string hc hs (by decide)
  case macmu => obtain ⟨rfl, rfl, rfl, hs, rfl⟩ := hop; exact roundTrips_string hc hs (by decide)

/-! ### The cadence payloads and the frame header -/

theorem toNat_word (v : Nat) : (BitVec.ofNat 32 v).toNat = v % 2 ^ 32 := BitVec.toNat_ofNat v 32

theorem b2n_cases (b : Bool) : b2n b = 0 ∧ b = false ∨ b2n b = 1 ∧ b = true := by cases b <;> simp [b2n]

theorem bitAt_eq_of_b2n {v i : Nat} {b : Bool} (h : bitsOf v i 1 = b2n b) : bitAt v i = b := by
  unfold bitAt
  rw [h]
  cases b <;> rfl

theorem tickMsg_roundTrip (m : TickMsg) (hp : PosFits m.pos) (he : m.epoch < 2 ^ 16) (hr : m.reason < 4) (hend : m.endT < 2 ^ 20)
    (hd : m.delay < 2 ^ 24) (hl : m.lead < 2 ^ 32) (hm : m.master < 2 ^ 15) : TickMsg.ofWords m.toWords = m := by
  obtain ⟨epoch, ⟨step, phase, tick⟩, adv, reason, card, endT, delay, lead, master⟩ := m
  obtain ⟨hs, hph, ht⟩ := hp
  dsimp only at *
  have ha := b2n_cases adv
  have hc := b2n_cases card
  simp only [TickMsg.toWords, TickMsg.ofWords, wordAt, List.getD_cons_zero, List.getD_cons_succ, toNat_word, TickMsg.mk.injEq, Pos.mk.injEq]
  refine ⟨?_, ⟨?_, ?_, ?_⟩, bitAt_eq_of_b2n ?_, ?_, bitAt_eq_of_b2n ?_, ?_, ?_, ?_, ?_⟩ <;> (try unfold bitsOf) <;> omega

theorem voteMsg_roundTrip (m : VoteMsg) (he : m.epoch < 2 ^ 16) (hp : m.phase < 16) (hl : m.level < 2) (hs : m.step < 2 ^ 48)
    (hr : m.source < 2 ^ 15) : VoteMsg.ofWords m.toWords = m := by
  obtain ⟨epoch, phase, level, step, source⟩ := m
  dsimp only at *
  simp only [VoteMsg.toWords, VoteMsg.ofWords, wordAt, List.getD_cons_zero, List.getD_cons_succ, toNat_word, VoteMsg.mk.injEq]
  refine ⟨?_, ?_, ?_, ?_, ?_⟩ <;> unfold bitsOf <;> omega

theorem bidMsg_roundTrip (m : BidMsg) (hp : PosFits m.pos) (he : m.epoch < 2 ^ 16) (hpr : m.prio < 16) (hi : m.ident < 2 ^ 15) :
    BidMsg.ofWords m.toWords = m := by
  obtain ⟨epoch, ⟨step, phase, tick⟩, prio, noPos, ident⟩ := m
  obtain ⟨hs, hph, ht⟩ := hp
  dsimp only at *
  have hn := b2n_cases noPos
  simp only [BidMsg.toWords, BidMsg.ofWords, wordAt, List.getD_cons_zero, List.getD_cons_succ, toNat_word, BidMsg.mk.injEq, Pos.mk.injEq]
  refine ⟨?_, ⟨?_, ?_, ?_⟩, ?_, bitAt_eq_of_b2n ?_, ?_⟩ <;> unfold bitsOf <;> omega

theorem frame_roundTrip (f : Frame) (hd : f.dst < 2 ^ 7) (hs : f.src < 2 ^ 7) (ht : f.typ < 2 ^ 4) (hc : f.cls < 2) (hl : f.len < 2 ^ 6)
    (hg : f.tag < 2 ^ 8) (hh : f.hops < 2 ^ 8) (hn : f.chain < 2 ^ 8) (hb : f.sub < 2 ^ 8) : Frame.ofWords f.toWords f.crcOk = f := by
  obtain ⟨dst, src, typ, cls, len, tag, hops, chain, sub, data, crc⟩ := f
  dsimp only at *
  simp only [Frame.toWords, Frame.ofWords, wordAt, List.getD_cons_zero, List.getD_cons_succ, toNat_word, Frame.mk.injEq]
  refine ⟨?_, ?_, ?_, ?_, ?_, ?_, ?_, ?_, ?_, rfl, trivial⟩ <;> unfold bitsOf <;> omega

/-- Settles O59: the instructions group by group of Table 13.6, and each payload field by field. -/
theorem encodingsRoundTrip : Obligations.EncodingsRoundTrip := by
  refine ⟨fun lane i h => roundTrips_of_wellFormed h, ?_, ?_, ?_, ?_⟩
  · exact fun m hp he hr hend hd hl hm => ⟨tickMsg_roundTrip m hp he hr hend hd hl hm, rfl⟩
  · exact fun m he hp hl hs hr => ⟨voteMsg_roundTrip m he hp hl hs hr, rfl⟩
  · exact fun m hp he hpr hi => ⟨bidMsg_roundTrip m hp he hpr hi, rfl⟩
  · exact fun f hd hs ht hc hl hg hh hn hb => ⟨frame_roundTrip f hd hs ht hc hl hg hh hn hb, rfl⟩

end Sys2Proof
end

section
/-! SUPPORT. Sums, differences and compares of the Ridge cores, and the operands that a spur core waits for (13 R466; 14 R496). -/

namespace Sys2Proof

open Machine

/-! ### The flags of a sum (13 R466) -/

/-- A sum of two words and a carry overflows when the operands agree in sign and the result does not. -/
theorem add_overflow (a b : Word) {n : Nat} (hn : n ≤ 1) :
    ((!(a.getLsbD 31 != b.getLsbD 31)) && (a.getLsbD 31 != (BitVec.ofNat 32 (a.toNat + b.toNat + n)).getLsbD 31)) =
      decide (a.toInt + b.toInt + n < -2 ^ 31 ∨ (2 ^ 31 : Int) ≤ a.toInt + b.toInt + n) := by
  have hmsb : ∀ w : Word, w.getLsbD 31 = decide (2 ^ 31 ≤ w.toNat) := fun w => by
    rw [← BitVec.msb_eq_decide w, BitVec.msb_eq_getLsbD_last]
  have hint : ∀ w : Word, w.toInt = if 2 ^ 31 ≤ w.toNat then (w.toNat : Int) - 2 ^ 32 else (w.toNat : Int) := fun w => by
    rw [BitVec.toInt_eq_toNat_cond]
    split_ifs <;> omega
  have ha := a.isLt
  have hb := b.isLt
  rw [hmsb, hmsb, hmsb, hint, hint, BitVec.toNat_ofNat]
  by_cases h1 : 2 ^ 31 ≤ a.toNat <;> by_cases h2 : 2 ^ 31 ≤ b.toNat <;>
    by_cases h3 : 2 ^ 31 ≤ (a.toNat + b.toNat + n) % 2 ^ 32 <;> simp only [h1, h2, h3, if_true, if_false, decide_true, decide_false] <;>
    simp <;> omega

theorem StBit_add (c : Core) (a b : Word) {n : Nat} (hn : n ≤ 1) :
    let r := BitVec.ofNat 32 (a.toNat + b.toNat + n)
    StBit (c.add a b n).2 fZ = decide (r = 0) ∧ StBit (c.add a b n).2 fN = r.msb ∧
    StBit (c.add a b n).2 fC = decide (2 ^ 32 ≤ a.toNat + b.toNat + n) ∧
    StBit (c.add a b n).2 fV = decide (a.toInt + b.toInt + n < -2 ^ 31 ∨ (2 ^ 31 : Int) ≤ a.toInt + b.toInt + n) ∧
    ∀ m, 4 ≤ m → StBit (c.add a b n).2 m = StBit c m := by
  intro r
  have e : ∀ m, StBit (c.add a b n).2 m =
      if m = fV then decide (a.toInt + b.toInt + n < -2 ^ 31 ∨ (2 ^ 31 : Int) ≤ a.toInt + b.toInt + n)
      else if m = fC then decide (2 ^ 32 ≤ a.toNat + b.toNat + n) else if m = fZ then decide (r = 0) else if m = fN then r.msb
      else StBit c m := by
    intro m
    rw [Core.add]
    dsimp only
    rw [StBit_setFlag _ _ _ (by decide), StBit_setFlag _ _ _ (by decide), StBit_setNZ, add_overflow a b hn]
  refine ⟨?_, ?_, ?_, ?_, fun m hm => ?_⟩
  · simp [e]
  · simp [e]
  · simp [e]
  · simp [e]
  · rw [e, if_neg (show m ≠ 3 by omega), if_neg (show m ≠ 2 by omega), if_neg (show m ≠ 0 by omega), if_neg (show m ≠ 1 by omega)]

theorem add_fst (c : Core) (a b : Word) (n : Nat) : (c.add a b n).1 = BitVec.ofNat 32 (a.toNat + b.toNat + n) := rfl

theorem setFlag_onlySt (c : Core) (i : Nat) (v : Bool) : c.setFlag i v = { c with st := (c.setFlag i v).st } := rfl

theorem add_onlySt (c : Core) (a b : Word) (n : Nat) : (c.add a b n).2 = { c with st := (c.add a b n).2.st } := by
  rw [Core.add]
  rfl

/-- The sums, the differences and the compares. -/
theorem Does.gives_sum {d : Dev} {key : Nat} {op : Rop} {ins : Instr} (h : Does d key op)
    (hrow : ∀ s, exec ins s = onDev (·.coreStep key op) s) (hop : op ∈ aluOps) (w : Bool) (a b : Word) {n : Nat} (hn : n ≤ 1)
    (ha : (d.nextRi key).op = op → (d.atIssue key).alu (d.nextRi key) =
      (if w then some ((d.atIssue key).add a b n).1 else none, ((d.atIssue key).add a b n).2)) :
    Gives ins d fun e =>
      let c := e.core key
      let r := BitVec.ofNat 32 (a.toNat + b.toNat + n)
      OnlyCore key d e ∧ OnlyGSt (d.nextPc key) (d.atIssue key) c ∧
      (∀ m, c.gNow m = if w ∧ m = (d.nextRi key).x then r else (d.atIssue key).gNow m) ∧
      StBit c fZ = decide (r = 0) ∧ StBit c fN = r.msb ∧ StBit c fC = decide (2 ^ 32 ≤ a.toNat + b.toNat + n) ∧
      StBit c fV = decide (a.toInt + b.toInt + n < -2 ^ 31 ∨ (2 ^ 31 : Int) ≤ a.toInt + b.toInt + n) ∧
      ∀ m, 4 ≤ m → StBit c m = StBit (d.atIssue key) m := by
  have hs := ha h.1.op_eq
  rw [add_onlySt, add_fst] at hs
  obtain ⟨hz, hneg, hc, hv, hrest⟩ := StBit_add (d.atIssue key) a b hn
  refine h.gives_alu hrow hop w _ _ hs fun e he hst => ?_
  obtain ⟨hcore, hg, hr⟩ := he
  exact ⟨hcore, hg, hr, (StBit_congr hst _).trans hz, (StBit_congr hst _).trans hneg, (StBit_congr hst _).trans hc,
    (StBit_congr hst _).trans hv, fun m hm => (StBit_congr hst _).trans (hrest m hm)⟩

/-! ### Operands that are ready (14 R496) -/

theorem le_foldl_max (l : List Nat) (a x : Nat) (h : x ≤ a ∨ x ∈ l) : x ≤ l.foldl max a := by
  induction l generalizing a with
  | nil => simpa using h
  | cons y l ih =>
    refine ih (max a y) ?_
    rcases h with h | h
    · exact Or.inl (by omega)
    · rcases List.mem_cons.mp h with rfl | h
      · exact Or.inl (by omega)
      · exact Or.inr h

/-- The first cycle at which an operand is ready lies no later than the one at which all are. -/
theorem ready_le_readyAt (c : Core) {i : Ri} {r : Nat × Nat} {h : Hist} (hr : r ∈ i.reads false)
    (hf : c.hist.find? (fun h => h.res == r.1) = some h) : h.cyc + distOf r.2 h.kind ≤ c.readyAt false i := by
  unfold Core.readyAt
  rw [if_neg (by simp)]
  refine le_foldl_max _ _ _ (Or.inr (List.mem_map.mpr ⟨r, hr, ?_⟩))
  rw [hf]

theorem readyAt_le_issue (c : Core) (lane : Bool) (i : Ri) : c.readyAt lane i ≤ (c.issue lane i).1 := by
  unfold Core.issue
  dsimp only
  split
  · split
    · next h => omega
    · omega
  · omega

theorem lateFrom_filter (cyc use cur res : Nat) (l : List Hist)
    (h : ∀ x, l.find? (fun h => h.res == res) = some x → x.cyc + distOf use x.kind ≤ cyc) :
    lateFrom cyc use (l.filter fun h => h.res == res) cur = cur := by
  induction l with
  | nil => rfl
  | cons x l ih =>
    cases hx : x.res == res with
    | true =>
      have hx' := h x (by rw [List.find?_cons, hx])
      rw [List.filter_cons, if_pos (by simpa using hx), lateFrom, if_pos hx']
    | false =>
      rw [List.filter_cons, if_neg (by simp [hx])]
      refine ih fun y hy => h y ?_
      rw [List.find?_cons, hx]
      exact hy

theorem atIssue_hist (d : Dev) (key : Nat) : (d.atIssue key).hist = (d.core key).hist ∧ (d.atIssue key).g = (d.core key).g ∧
    (d.atIssue key).cyc = ((d.core key).issue (isLane key) (d.nextRi key)).1 := by
  rw [Machine.Dev.atIssue, Core.capture_eq]
  exact ⟨rfl, rfl, rfl⟩

theorem capture_words (c : Core) (lane : Bool) (choice : Nat) (i : Ri) :
    c.capture lane choice i = { c with loop := { c.loop with words := (c.capture lane choice i).loop.words } } := by
  unfold Core.capture
  split <;> rfl

theorem atIssue_words (d : Dev) (key : Nat) : ∃ cyc ctl mx mxw words, d.atIssue key = { d.core key with
    cyc := cyc, ctl := ctl, mx := mx, mxw := mxw, entry := none, halted := false, loop := { (d.core key).loop with words := words } } := by
  rw [Machine.Dev.atIssue, capture_words]
  exact ⟨_, _, _, _, _, rfl⟩

theorem atIssue_ctlAt (d : Dev) (key : Nat) {n : Nat} (hn : n ≠ 7) : (d.atIssue key).ctlAt n = (d.core key).ctlAt n := by
  rw [Machine.Dev.atIssue, Core.capture_eq]
  exact Tab.get_set_ne _ _ _ _ _ _ hn

/-- On a spur core or the warden an operand is the register's latest value. -/
theorem atIssue_rg {d : Dev} {key : Nat} (hl : isLane key = false) {r : Nat × Nat} (hr : r ∈ (d.nextRi key).reads false)
    (h0 : r.2 = 0) : (d.atIssue key).rg r.1 = (d.core key).gNow r.1 := by
  obtain ⟨hh, hg, hc⟩ := atIssue_hist d key
  have hgn : (d.atIssue key).gNow r.1 = (d.core key).gNow r.1 := by rw [Core.gNow, hg, Core.gNow]
  rw [Core.rg, Core.late, hgn, hh, hc, lateFrom_filter, BitVec.ofNat_toNat, BitVec.setWidth_eq]
  intro x hx
  have h1 := ready_le_readyAt (d.core key) hr hx
  have h2 := readyAt_le_issue (d.core key) (isLane key) (d.nextRi key)
  rw [hl, h0] at *
  omega

/-- Settles O44: the nine rows are sums of two operands and a carry, and an operand of a spur core has waited for its register. -/
theorem ridgeArithmetic : Obligations.RidgeArithmetic := by
  constructor
  · intro d key i c1 a b z row hrow h
    have hcarry : b2n (StBit c1 fC) ≤ 1 := by
      unfold b2n
      split <;> omega
    fin_cases hrow
    · exact h.gives_sum (fun _ => rfl) (by simp [aluOps]) true a b (Nat.zero_le 1) fun ho => by simp only [Core.alu, ho]; rfl
    · exact h.gives_sum (fun _ => rfl) (by simp [aluOps]) true a (~~~b) le_rfl fun ho => by simp only [Core.alu, ho]; rfl
    · refine h.gives_sum (fun _ => rfl) (by simp [aluOps]) true a b hcarry fun ho => ?_
      simp only [Core.alu, ho, flagAt_eq]
      rfl
    · exact h.gives_sum (fun _ => rfl) (by simp [aluOps]) false a (~~~b) le_rfl fun ho => by simp only [Core.alu, ho]; rfl
    · exact h.gives_sum (fun _ => rfl) (by simp [aluOps]) true a z (Nat.zero_le 1) fun ho => by simp only [Core.alu, ho]; rfl
    · exact h.gives_sum (fun _ => rfl) (by simp [aluOps]) false a (~~~z) le_rfl fun ho => by simp only [Core.alu, ho]; rfl
    · exact h.gives_sum (fun _ => rfl) (by simp [aluOps]) true a z (Nat.zero_le 1) fun ho => by simp only [Core.alu, ho]; rfl
    · exact h.gives_sum (fun _ => rfl) (by simp [aluOps]) false a (~~~z) le_rfl fun ho => by simp only [Core.alu, ho]; rfl
    · exact h.gives_sum (fun _ => rfl) (by simp [aluOps]) true 0 (~~~a) le_rfl fun ho => by simp only [Core.alu, ho]; rfl
  · intro d key c c1
    refine ⟨?_, fun n hn => ?_, fun hl r hr _ h0 => atIssue_rg hl hr h0⟩
    · obtain ⟨cyc, ctl, mx, mxw, words, e⟩ := atIssue_words d key
      subst c1
      rw [e]
    · exact atIssue_ctlAt d key hn

end Sys2Proof
end

section
/-! SUPPORT. Precise traps of the next instruction, and the statement about them (13 R473, R475, R479). -/

namespace Sys2Proof

open Machine

/-- A trap of a core, seen from the unit: a spur core or the warden enters its handler, a lane core ends its invocation. -/
theorem trappedFrom_moved {s d : Dev} {key : Nat} {c c0 c2 : Core} {vec saved : Nat} {xaddr : Option Nat}
    (hs : s = { d with free := s.free }) (hc : c.stopped = false) (h0 : c0.stopped = false) (f : Nat) (h2 : c2 = { c0 with free := f })
    (hf : isLane key = true ∨ HasFrame c0) : TrappedFrom c0 key vec saved xaddr d (s.coreMoved key c (c2.trapTo key vec saved xaddr)) := by
  cases hl : isLane key with
  | true =>
    obtain ⟨t, he, -, h13, h12⟩ := blamed_eq c2 vec xaddr
    obtain ⟨x, n, p, q, hk⟩ := kernelFail_eq (s.setCore key (c2.trapTo key vec saved xaddr)) key (c2.trapTo key vec saved xaddr) dKERNELTRAP
    have hmoved : s.coreMoved key c (c2.trapTo key vec saved xaddr) =
        { s.setCore key (c2.trapTo key vec saved xaddr) with scree := x, engines := n, parts := p, queues := q } := by
      rw [← hk, Dev.coreMoved, trapTo_lane hl]
      simp [hc, hl]
    have hcore : (s.coreMoved key c (c2.trapTo key vec saved xaddr)).core key = c2.trapTo key vec saved xaddr := by
      rw [hmoved]
      exact Dev.core_setCore_same s key _
    unfold TrappedFrom
    dsimp only
    rw [hcore, hmoved, trapTo_lane hl, he, h2]
    refine ⟨h13, h12, ?_, fun k hk => ?_, fun _ => ⟨rfl, rfl, rfl, rfl⟩, fun h => absurd h (by simp [hl])⟩
    · rw [hs]
      rfl
    · rw [hs]
      exact Dev.core_setCore_ne d _ hk
  | false =>
    have hfr : HasFrame c0 := hf.resolve_left (by simp [hl])
    have hfr2 : HasFrame c2 := h2 ▸ hasFrame_congr (c := c0) rfl rfl rfl hfr
    obtain ⟨hp, hst, h13, h12, -, -⟩ := trapTo_frame hl hfr2 vec saved xaddr
    have hstop : (c2.trapTo key vec saved xaddr).stopped = false := by
      obtain ⟨-, -, -, -, -, -, -, -, -, -, -, -, hstop⟩ := hp
      rw [hstop, h2]
      exact h0
    have hmoved : s.coreMoved key c (c2.trapTo key vec saved xaddr) = s.setCore key (c2.trapTo key vec saved xaddr) :=
      Dev.coreMoved_quiet _ _ _ fun h => absurd h (by simp [hstop])
    have honly : OnlyCore key d (s.setCore key (c2.trapTo key vec saved xaddr)) := by
      rw [hs]
      exact ⟨rfl, fun k hk => Dev.core_setCore_ne _ _ hk⟩
    obtain ⟨-, hother⟩ := id honly
    unfold TrappedFrom
    dsimp only
    rw [hmoved, Dev.core_setCore_same]
    have hmem : (s.setCore key (c2.trapTo key vec saved xaddr)).mem = d.mem := by
      rw [hs]
      rfl
    refine ⟨h13, h12, hmem, hother, fun h => absurd h (by simp [hl]), fun _ => ⟨?_, ?_, honly⟩⟩
    · rw [h2] at hp ⊢
      exact hp
    · rw [hst, h2]

/-- A row whose instruction traps. -/
theorem gives_trapped {d : Dev} {key : Nat} {op : Rop} {ins : Instr} (hp : Powered d) (hon : d.coreOn key = true)
    (hr : (d.core key).runs = true) (ho : (d.nextRi key).op = op) (hrow : ∀ s, exec ins s = onDev (·.coreStep key op) s)
    {c0 c2 : Core} {vec saved : Nat} {xaddr : Option Nat}
    (hs : (d.core key).step key (d.staleChoice (d.core key)).1 = c2.trapTo key vec saved xaddr)
    (h0 : c0.stopped = false) (f : Nat) (h2 : c2 = { c0 with free := f }) (hf : isLane key = true ∨ HasFrame c0) :
    Gives ins d (TrappedFrom c0 key vec saved xaddr d) := by
  refine gives_of_onDev _ hrow hp ?_
  have he : d.coreStep key op = (d.staleChoice (d.core key)).2.coreMoved key (d.core key) (c2.trapTo key vec saved xaddr) :=
    (if_neg (by simp [hon, hr])).trans ((if_pos ho).trans (congrArg _ hs))
  rw [he]
  exact trappedFrom_moved (Dev.staleChoice_snd _ _) (Core.runs_stopped hr) h0 f h2 hf

theorem atIssue_fits {d : Dev} {key : Nat} (h : isLane key = true ∨ HasFrame (d.atIssue key)) :
    (isLane key || (d.core key).frameFits) = true := by
  rcases h with h | h
  · rw [h, Bool.true_or]
  · obtain ⟨_, _, _, _, _, e⟩ := atIssue_eq d key
    rw [e] at h
    have hf : (d.core key).frameFits = true := h.fits
    rw [hf, Bool.or_true]

/-- The step of a core whose next instruction traps. -/
theorem Does.step_trap {d : Dev} {key : Nat} {op : Rop} (h : Does d key op) (hop : op ≠ .reserved)
    (hf : isLane key = true ∨ HasFrame (d.atIssue key)) {c2 : Core} {vec saved : Nat} {xaddr : Option Nat}
    (he : (d.atIssue key).effect key (d.nextRi key) (d.nextPc key) = .trap c2 vec saved xaddr) :
    ∃ f, (d.core key).step key (d.staleChoice (d.core key)).1 = ({ c2 with free := f } : Core).trapTo key vec saved xaddr := by
  have hfit := atIssue_fits hf
  obtain ⟨⟨-, -, hr, h0, hn, ho⟩, hh⟩ := h
  refine ⟨max (d.core key).free (((d.core key).issue (isLane key) (d.nextRi key)).1 + 1), ?_⟩
  unfold Machine.Dev.nextPc Machine.Dev.atIssue Machine.Dev.nextRi at *
  have hi : ((d.core key).current key (d.staleChoice (d.core key)).1).op ≠ .reserved := fun e => hop (ho.symm.trans e)
  unfold Core.step
  simp only [hr, h0, hn, hi, hh, he, hfit, Bool.not_true, Bool.false_eq_true, if_false, if_true, bne_self_eq_false, Bool.or_false,
    Bool.false_and, or_false, and_false, OfNat.zero_ne_ofNat]

/-- An instruction whose effect is a trap. -/
theorem Does.gives_trap {d : Dev} {key : Nat} {op : Rop} {ins : Instr} (h : Does d key op)
    (hrow : ∀ s, exec ins s = onDev (·.coreStep key op) s) (hop : op ≠ .reserved) (hf : isLane key = true ∨ HasFrame (d.atIssue key))
    {vec saved : Nat} {xaddr : Option Nat}
    (he : (d.nextRi key).op = op → (d.atIssue key).effect key (d.nextRi key) (d.nextPc key) = .trap (d.atIssue key) vec saved xaddr) :
    Gives ins d (Trapped key vec saved xaddr d) := by
  obtain ⟨f, hs⟩ := h.step_trap hop hf (he h.1.op_eq)
  have hstop := h.1.atIssue_stopped
  obtain ⟨⟨hp, hon, hr, -, -, ho⟩, -⟩ := h
  exact gives_trapped hp hon hr ho hrow hs hstop f rfl hf

/-- The step of a core at a reserved encoding, or at an instruction misplaced after REP (13 R473, R479). -/
theorem step_reserved {d : Dev} {key : Nat} (hr : (d.core key).runs = true)
    (hi : (d.nextRi key).op = .reserved ∨ ((d.core key).rep = 1 ∧ (d.nextRi key).op.isString = false))
    (hf : (isLane key || (d.core key).frameFits) = true) :
    (d.core key).step key (d.staleChoice (d.core key)).1 =
      ({ d.atIssue key with rep := 0 } : Core).trapTo key vRSVD (d.core key).pc none := by
  unfold Machine.Dev.nextRi at hi
  refine (if_neg (by simp [hr])).trans ((if_pos ?_).trans (if_pos hf))
  rcases hi with hi | ⟨h1, hs⟩
  · exact Or.inl hi
  · exact Or.inr (by simp [h1, hs])

/-- Settles O50: BRK and TRAP trap by their effect; a reserved encoding and a misplaced instruction before they have one. -/
theorem ridgeTraps : Obligations.RidgeTraps := by
  intro d key hf
  have hf0 : isLane key = true ∨ HasFrame { d.atIssue key with rep := 0 } :=
    hf.imp id (hasFrame_congr (c := d.atIssue key) rfl rfl rfl)
  refine ⟨fun h => ?_, fun h => ?_, fun h => ?_, fun row hrow hp hon hr h1 ho => ?_⟩
  · exact h.gives_trap (fun _ => rfl) (by simp) hf fun ho => by simp only [Core.effect, ho]
  · exact h.gives_trap (fun _ => rfl) (by simp) hf fun ho => by simp only [Core.effect, ho]
  · have hstop := h.atIssue_stopped
    have hrep := h.atIssue_rep
    obtain ⟨hp, hon, hr, -, -, ho⟩ := h
    have hs := step_reserved hr (Or.inl ho) (atIssue_fits hf)
    refine gives_trapped hp hon hr ho (fun _ => rfl) hs hstop (d.atIssue key).free ?_ hf
    rw [← hrep]
  · have hstop : (d.atIssue key).stopped = false := by
      obtain ⟨_, _, _, _, _, e⟩ := atIssue_eq d key
      rw [e]
      exact (Core.runs_stopped hr : (d.core key).stopped = false)
    have hstr : (d.nextRi key).op.isString = false := by
      rw [ho]
      fin_cases hrow <;> rfl
    have hs := step_reserved hr (Or.inr ⟨h1, hstr⟩) (atIssue_fits hf)
    have hrow' : ∀ s, exec row.1 s = onDev (·.coreStep key row.2) s := by
      fin_cases hrow <;> exact fun _ => rfl
    exact gives_trapped hp hon hr ho hrow' hs (c0 := { d.atIssue key with rep := 0 }) hstop (d.atIssue key).free rfl hf0

end Sys2Proof
end

section
/-! SUPPORT. What every step is, whatever the command: it completes, takes the front of the queue, and needs power (18 R642; 20 R715). -/

namespace Sys2Proof

open Machine

/-- The unit after a command. -/
def unitAfter (c : Instr) (d : Dev) : Dev :=
  match exec c ⟨d, []⟩ with
  | .next s => s.dev
  | _ => d

/-- Every command runs one operation on the unit and leaves the queue. -/
theorem exec_next (c : Instr) (d : Dev) (q : List Instr) : exec c ⟨d, q⟩ = .next ⟨unitAfter c d, q⟩ := by
  cases c <;> rfl

theorem next_ite_off {d : Dev} (e : Dev) (q : List Instr) (hoff : d.pwr.off ≠ 0) :
    (Host.Outcome.next ⟨if d.pwr.off = 0 then e else d, q⟩ : Host.Outcome State Fault Refusal) = .next ⟨d, q⟩ := by
  rw [if_neg hoff]

/-- A command that does not start the unit runs its operation on a powered unit only. -/
theorem exec_off {c : Instr} (h : ¬StartsUnit c) {d : Dev} (q : List Instr) (hoff : d.pwr.off ≠ 0) :
    exec c ⟨d, q⟩ = .next ⟨d, q⟩ := by
  cases c
  case powerOnReset => exact absurd (Or.inl rfl) h
  case perstNRelease => exact absurd (Or.inr (Or.inl rfl)) h
  case supplyRestart => exact absurd (Or.inr (Or.inr (Or.inl rfl))) h
  case bringup a => exact absurd (Or.inr (Or.inr (Or.inr ⟨a, rfl⟩))) h
  all_goals exact next_ite_off _ q hoff

theorem step_cons (c : Instr) (q : List Instr) (d : Dev) : step ⟨d, c :: q⟩ = exec c ⟨d, q⟩ := rfl

theorem step_nil (d : Dev) : step ⟨d, []⟩ = .next ⟨d.alwaysOnCycle, []⟩ := rfl

/-- Settles O57: with no command the step is the always-on cycle, which a unit without power does not have. -/
theorem stepTakesFront : Obligations.StepTakesFront := by
  refine ⟨step_cons, fun d h => ⟨_, step_nil d, ?_⟩, fun d h => ?_⟩
  · rw [Dev.alwaysOnCycle, if_neg (not_not_intro h), ite_not, ite_not]
    generalize d.residency d.pwr.resCyc = r
    exact ⟨rfl, rfl, rfl, rfl⟩
  · rw [step_nil, Dev.alwaysOnCycle, if_pos h]

/-- Settles O58: every command is one operation on the unit, and all but the four that start it run on a powered unit only. -/
theorem everyStepCompletes : Obligations.EveryStepCompletes := by
  refine ⟨fun ⟨d, q⟩ => ?_, fun c q d h hc => exec_off hc q h⟩
  cases q with
  | nil => exact ⟨_, step_nil d, rfl⟩
  | cons c q =>
    exact ⟨_, exec_next c d q, rfl⟩

end Sys2Proof
end

section
/-! SUPPORT. Control registers, predicates and idling of the Ridge cores (13 R456, R462, R477, R480, R481, Tables 13.3, 13.15). -/

namespace Sys2Proof

open Machine

/-! ### Bits -/

theorem bitAt_eq_testBit (v i : Nat) : bitAt v i = v.testBit i := by
  rw [bitAt, bitsOf_one]
  cases v.testBit i <;> rfl

/-- The bits of a number whose field has been replaced. -/
theorem testBit_putBits (v lo w x i : Nat) :
    (putBits v lo w x).testBit i = if lo ≤ i ∧ i < lo + w then x.testBit (i - lo) else v.testBit i := by
  split
  · next h =>
    have e := bitsOf_putBits_same v lo w x
    have hb : ∀ u : Nat, u.testBit i = (bitsOf u lo w).testBit (i - lo) := fun u => by
      rw [bitsOf, Nat.testBit_mod_two_pow, Nat.testBit_div_two_pow, show i - lo + lo = i by omega]
      simp [show i - lo < w by omega]
    rw [hb, e, Nat.testBit_mod_two_pow]
    simp [show i - lo < w by omega]
  · next h => exact testBit_putBits_ne _ _ _ _ _ h

theorem bitAt_putBits_one (v x n : Nat) (b : Bool) : bitAt (putBits v x 1 (b2n b)) n = if n = x then b else bitAt v n := by
  rw [bitAt_eq_testBit, bitAt_eq_testBit, testBit_putBits]
  by_cases h : n = x
  · subst h
    cases b <;> simp [b2n]
  · rw [if_neg (by omega), if_neg h]

/-! ### Writes of the control instructions -/

/-- The core's predicates after one is written: P0 stays (13 Table 13.3). -/
theorem setP_bits (c : Core) (x n : Nat) (v : Bool) : bitAt (c.setP x v).p n = if n = x ∧ n ≠ 0 then v else bitAt c.p n := by
  unfold Core.setP
  split
  · next h => rw [if_neg (by omega)]
  · next h =>
    refine (bitAt_putBits_one c.p x n v).trans ?_
    by_cases hn : n = x
    · rw [if_pos hn, if_pos ⟨hn, by omega⟩]
    · rw [if_neg hn, if_neg (fun e => hn e.1)]

theorem setP_eq (c : Core) (x : Nat) (v : Bool) : ∃ hist, c.setP x v = { c with p := (c.setP x v).p, hist := hist } := by
  unfold Core.setP
  split <;> exact ⟨_, rfl⟩

/-- GUARD's fields fit: a predicate and its sense (13 Table 13.12). -/
def GuardFits (i : Ri) : Prop := i.op = .guard → i.x < 8 ∧ i.y < 2

theorem GuardFits.ite {p : Prop} [Decidable p] {a b : Ri} (ha : GuardFits a) (hb : GuardFits b) : GuardFits (if p then a else b) := by
  split
  · exact ha
  · exact hb

theorem GuardFits.of_ne {i : Ri} (h : i.op ≠ .guard) : GuardFits i := fun e => absurd e h

theorem decodeMisc_guardFits (lane : Bool) (cond body : Nat) : GuardFits (decodeMisc lane cond body) := by
  have hg : ∀ s, GuardFits ⟨.guard, cond, s % 8, s / 8 % 2, 0, 0, 1⟩ := fun s _ => ⟨Nat.mod_lt _ (by decide), Nat.mod_lt _ (by decide)⟩
  unfold decodeMisc
  refine .ite (.of_ne ?_) <| .ite (.of_ne ?_) <| .ite (.of_ne ?_) <| .ite (.of_ne ?_) <| .ite (.of_ne ?_) <| .ite (.of_ne ?_) <|
    .ite (.of_ne ?_) <| .ite (.of_ne ?_) <| .ite (hg _) <| .ite (.of_ne ?_) <| .ite (.of_ne ?_) (.of_ne ?_) <;> simp

theorem decodeRidge_guardFits (lane : Bool) (w : Nat → Nat) : GuardFits (decodeRidge lane w) := by
  unfold decodeRidge
  dsimp only
  split
  · refine .of_ne ?_
    dsimp only
    split <;> simp
    split <;> simp
  · split
    · exact .of_ne (by dsimp only; split <;> simp)
    · exact .ite (.of_ne (decodeLong_guard _ _ _ _)) (.of_ne (by simp))
    · exact .of_ne (by dsimp only; split <;> simp)
    · exact .of_ne (decodeMemory_guard _ _ _ _)
    · exact .ite (.of_ne (by simp)) (.ite (decodeMisc_guardFits _ _ _) (.of_ne (decodeControl_guard _ _ _ _)))
    · exact .of_ne (decodeMult_guard _ _)

/-- The selection of a guard in ST (13 R462). -/
theorem StBit_guard (c : Core) {x y n : Nat} (hx : x < 8) (hy : y < 2) (hn : n < 32) :
    StBit { c with st := BitVec.ofNat 32 (putBits c.st.toNat 16 4 (x + 8 * y)) } n =
      if 16 ≤ n ∧ n < 19 then x.testBit (n - 16) else if n = 19 then decide (y = 1) else StBit c n := by
  have hk : ∀ k < 4, (x + 8 * y).testBit k = if k < 3 then x.testBit k else decide (y = 1) := by
    interval_cases x <;> interval_cases y <;> decide
  rw [StBit, StBit, BitVec.getLsbD_ofNat, testBit_putBits, decide_eq_true hn, Bool.true_and, BitVec.getLsbD]
  by_cases h : 16 ≤ n ∧ n < 16 + 4
  · rw [if_pos h, hk _ (by omega)]
    by_cases h3 : n < 19
    · rw [if_pos (by omega), if_pos (by omega)]
    · rw [if_neg (by omega), if_neg (by omega), if_pos (by omega)]
  · rw [if_neg h, if_neg (by omega), if_neg (by omega)]

/-- What a read of a control register changes beside its value: PMA and the instruction port (14 R503, R514). -/
theorem mfc_eq (c : Core) (key n : Nat) : (∃ ctl loop winCyc, (c.mfc key n).2 = { c with ctl := ctl, loop := loop, winCyc := winCyc }) ∧
    (n ≠ 10 → n ≠ 11 → (c.mfc key n).2 = c) := by
  unfold Core.mfc
  split
  case h_5 => exact ⟨⟨_, _, _, rfl⟩, fun h => absurd rfl h⟩
  case h_6 => exact ⟨⟨_, _, _, rfl⟩, fun _ h => absurd rfl h⟩
  all_goals exact ⟨⟨_, _, _, rfl⟩, fun _ _ => rfl⟩

/-- The core's predicates after MTC. -/
theorem mtc_preds (c : Core) (key : Nat) (v : Word) : ∃ hist, c.mtc key 15 v = { c with p := v.toNat % 256 ||| 1, hist := hist } := by
  obtain ⟨hist, he⟩ := notePreds_eq c
  refine ⟨hist, ?_⟩
  simp only [Core.mtc, he]

theorem preds_bits (v : Word) (n : Nat) (h0 : 0 < n) (h8 : n < 8) : bitAt (v.toNat % 256 ||| 1) n = v.getLsbD n := by
  have h1 : Nat.testBit 1 n = false := Nat.testBit_lt_two_pow (Nat.one_lt_two_pow (by omega))
  rw [bitAt_eq_testBit, Nat.testBit_or, show 256 = 2 ^ 8 from rfl, Nat.testBit_mod_two_pow, h1, Bool.or_false, decide_eq_true h8,
    Bool.true_and, BitVec.getLsbD]

/-- An instruction that moves on with the core `c'`, the notes on timing apart. -/
theorem Does.gives_on {d : Dev} {key : Nat} {op : Rop} {ins : Instr} {P : Dev → Prop} (h : Does d key op)
    (hrow : ∀ s, exec ins s = onDev (·.coreStep key op) s) (hop : op ≠ .reserved) {c' : Core} {cost : Nat}
    (he : (d.nextRi key).op = op → (d.atIssue key).effect key (d.nextRi key) (d.nextPc key) = .go { c' with pc := d.nextPc key } cost)
    (hs : c'.stopped = (d.atIssue key).stopped)
    (hP : ∀ e free slot, OnlyCore key d e → e.core key = { c' with pc := d.nextPc key, free := free, slot := slot } → P e) :
    Gives ins d P :=
  h.gives hrow hop (he h.1.op_eq) (fun hst => by simp [hs, h.1.atIssue_stopped] at hst) fun e ho ⟨free, slot, hk⟩ => hP e free slot ho hk

/-- The control registers that wait for SYNC (13 R480). -/
theorem mtc_pending (c : Core) (key : Nat) (v : Word) : ∀ row ∈ [(2, v), (3, v &&& ~~~1#32), (4, v &&& 0xFFFF#32), (8, v &&& 0x80000000#32), (9, v)],
    c.mtc key row.1 v = { c with pend := Tab.set none c.pend row.1 (some row.2) } := by
  intro row hrow
  fin_cases hrow <;> rfl

/-- The core behind MTC: nothing of it that a stop looks at has changed. -/
theorem mtc_stopped (c : Core) (key n : Nat) (v : Word) : (c.mtc key n v).stopped = c.stopped := by
  unfold Core.mtc
  dsimp only
  split
  case h_12 =>
    obtain ⟨hist, he⟩ := notePreds_eq c
    rw [he]
  all_goals rfl

/-- MTC gives the core with its control register written. -/
theorem gives_mtc {d : Dev} {key : Nat} {P : Dev → Prop} (h : Does d key .mtc) {c' : Core}
    (hc : (d.atIssue key).mtc key (d.nextRi key).y ((d.atIssue key).rg (d.nextRi key).x) = c')
    (hP : ∀ e free slot, OnlyCore key d e → e.core key = { c' with pc := d.nextPc key, free := free, slot := slot } → P e) :
    Gives (.mtc key) d P := by
  refine h.gives_on (cost := 1) (fun _ => rfl) (by simp) (fun ho => ?_) (by rw [← hc, mtc_stopped]) hP
  simp only [Core.effect, ho, hc]

/-- A predicate instruction. -/
theorem gives_pred {d : Dev} {key : Nat} {op : Rop} {ins : Instr} (h : Does d key op)
    (hrow : ∀ s, exec ins s = onDev (·.coreStep key op) s) (hop : op ≠ .reserved) (v : Bool)
    (he : (d.nextRi key).op = op → (d.atIssue key).effect key (d.nextRi key) (d.nextPc key) =
      .go { (d.atIssue key).setP (d.nextRi key).x v with pc := d.nextPc key } 1) :
    Gives ins d fun e => (OnlyCore key d e ∧ e.core key = { d.atIssue key with
      p := (e.core key).p, pc := d.nextPc key, hist := (e.core key).hist, free := (e.core key).free, slot := (e.core key).slot }) ∧
      ∀ n < 8, bitAt (e.core key).p n = if n = (d.nextRi key).x ∧ n ≠ 0 then v else bitAt (d.atIssue key).p n := by
  obtain ⟨hist, hp⟩ := setP_eq (d.atIssue key) (d.nextRi key).x v
  refine h.gives_on hrow hop he (by rw [hp]) fun e free slot ho hk => ⟨⟨ho, ?_⟩, fun n _ => ?_⟩
  · rw [hk, hp]
  · rw [hk]
    exact setP_bits _ _ _ _

/-- The core has moved on to the next instruction as `c'`, the notes on timing apart. -/
def MovesOn (d : Dev) (key : Nat) (c' : Core) (e : Dev) : Prop :=
  OnlyCore key d e ∧ e.core key = { c' with
    pc := d.nextPc key, hist := (e.core key).hist, free := (e.core key).free, slot := (e.core key).slot }

theorem movesOn_of_eq {d e : Dev} {key : Nat} {c c' : Core} {free : Nat} {slot : Option Slot} (ho : OnlyCore key d e)
    (hk : e.core key = { c with pc := d.nextPc key, free := free, slot := slot }) (hc : c = { c' with hist := c.hist }) :
    MovesOn d key c' e := by
  refine ⟨ho, ?_⟩
  rw [hk, hc]

section
variable {d : Dev} {key : Nat}

theorem mtc_at {v : Word} {n : Nat} {c' : Core} (hv : (d.atIssue key).rg (d.nextRi key).x = v) (hy : (d.nextRi key).y = n)
    (hc : (d.atIssue key).mtc key n v = c') : (d.atIssue key).mtc key (d.nextRi key).y ((d.atIssue key).rg (d.nextRi key).x) = c' := by
  rw [hy, hv]
  exact hc

theorem gives_mtc_pending (h : Does d key .mtc) {v : Word} (hv : (d.atIssue key).rg (d.nextRi key).x = v) : ∀ row ∈ [(2, v), (3, v &&& ~~~1#32), (4, v &&& 0xFFFF#32), (8, v &&& 0x80000000#32), (9, v)],
    (d.nextRi key).y = row.1 → Gives (.mtc key) d fun e =>
      MovesOn d key { d.atIssue key with pend := (e.core key).pend } e ∧ Tab.get none (e.core key).pend row.1 = some row.2 := by
  intro row hrow hy
  refine gives_mtc h (mtc_at hv hy (mtc_pending _ key v row hrow)) fun e free slot ho hk => ⟨movesOn_of_eq ho hk (by rw [hk]), ?_⟩
  rw [hk]
  exact Tab.get_set_same none (d.atIssue key).pend row.1 (some row.2)

theorem gives_mtc_plain (h : Does d key .mtc) {v : Word} (hv : (d.atIssue key).rg (d.nextRi key).x = v) {n : Nat} (hy : (d.nextRi key).y = n) {c' : Core}
    (hc : ∃ hist, (d.atIssue key).mtc key n v = { c' with hist := hist }) : Gives (.mtc key) d (MovesOn d key c') := by
  obtain ⟨hist, hc⟩ := hc
  refine gives_mtc h (mtc_at hv hy hc) fun e free slot ho hk => movesOn_of_eq ho hk rfl

theorem gives_mtc_timer (h : Does d key .mtc) {v : Word} (hv : (d.atIssue key).rg (d.nextRi key).x = v) (hy : (d.nextRi key).y = 7) :
    Gives (.mtc key) d fun e => MovesOn d key { d.atIssue key with ctl := (e.core key).ctl } e ∧
      ∀ n, (e.core key).ctlAt n = if n = 7 then v else (d.atIssue key).ctlAt n := by
  refine gives_mtc h (c' := (d.atIssue key).setCtl 7 v) (mtc_at hv hy rfl) fun e free slot ho hk => ⟨movesOn_of_eq ho hk (by rw [hk]; rfl), fun n => ?_⟩
  rw [hk]
  exact Tab.get_set 0 (d.atIssue key).ctl 7 n v

theorem gives_mtc_address (h : Does d key .mtc) {v : Word} (hv : (d.atIssue key).rg (d.nextRi key).x = v) (hy : (d.nextRi key).y = 10) :
    Gives (.mtc key) d fun e =>
      MovesOn d key { d.atIssue key with ctl := (e.core key).ctl, loop := LoopBuf.reset, winCyc := (e.core key).winCyc } e ∧
      ∀ n, (e.core key).ctlAt n = if n = 10 then BitVec.ofNat 32 (v.toNat % pmWords (isLane key)) else (d.atIssue key).ctlAt n := by
  refine gives_mtc h (c' := ((d.atIssue key).setCtl 10 (BitVec.ofNat 32 (v.toNat % pmWords (isLane key)))).portUsed) (mtc_at hv hy rfl)
    fun e free slot ho hk => ⟨movesOn_of_eq ho hk (by rw [hk]; rfl), fun n => ?_⟩
  rw [hk]
  exact Tab.get_set 0 (d.atIssue key).ctl 10 n _

theorem gives_mtc_preds (h : Does d key .mtc) {v : Word} (hv : (d.atIssue key).rg (d.nextRi key).x = v) (hy : (d.nextRi key).y = 15) :
    Gives (.mtc key) d fun e => MovesOn d key { d.atIssue key with p := (e.core key).p } e ∧ bitAt (e.core key).p 0 = true ∧
      ∀ n, 0 < n → n < 8 → bitAt (e.core key).p n = v.getLsbD n := by
  obtain ⟨hist, he⟩ := mtc_preds (d.atIssue key) key v
  refine gives_mtc h (mtc_at hv hy he) fun e free slot ho hk => ⟨movesOn_of_eq ho hk (by rw [hk]), ?_, fun n h0 h8 => ?_⟩
  · rw [hk]
    exact bitAt_zero_or_one _
  · rw [hk]
    exact preds_bits v n h0 h8

/-- The core after a word has gone to program memory (13 R481). -/
def Machine.Core.programmed (c : Core) (key : Nat) (v : Word) : Core := c.mtc key 11 v

theorem programmed_frame (c : Core) (key : Nat) (v : Word) :
    let a := (c.ctlAt 10).toNat
    let r := c.programmed key v
    Tab.get 0 r.pmem a = v.toNat % 2 ^ wordBits (isLane key) ∧ (∀ x, x ≠ a → Tab.get 0 r.pmem x = Tab.get 0 c.pmem x) ∧
    r.ctlAt 10 = BitVec.ofNat 32 ((a + 1) % pmWords (isLane key)) ∧ r.g = c.g ∧ r.dmem = c.dmem :=
  ⟨Tab.get_set_same 0 c.pmem _ _, fun x hx => Tab.get_set_ne 0 0 c.pmem _ x _ hx, Tab.get_set_same 0 c.ctl 10 _, rfl, rfl⟩

theorem gives_mtc_data (h : Does d key .mtc) {v : Word} (hv : (d.atIssue key).rg (d.nextRi key).x = v) (hy : (d.nextRi key).y = 11) :
    Gives (.mtc key) d fun e =>
      let a := ((d.atIssue key).ctlAt 10).toNat
      OnlyCore key d e ∧ Tab.get 0 (e.core key).pmem a = v.toNat % 2 ^ wordBits (isLane key) ∧
      (∀ x, x ≠ a → Tab.get 0 (e.core key).pmem x = Tab.get 0 (d.atIssue key).pmem x) ∧
      (e.core key).ctlAt 10 = BitVec.ofNat 32 ((a + 1) % pmWords (isLane key)) ∧ (e.core key).g = (d.atIssue key).g ∧
      (e.core key).dmem = (d.atIssue key).dmem := by
  refine gives_mtc h (c' := (d.atIssue key).programmed key v) (mtc_at hv hy rfl) fun e free slot ho hk => ?_
  rw [hk]
  exact ⟨ho, programmed_frame _ _ _⟩

end

/-- Settles O48: every instruction moves on with a core that one write has changed; what the core then holds is read off that write. -/
theorem ridgeSystem : Obligations.RidgeSystem := by
  intro d key i c1 next lane moves
  refine ⟨fun h => ?nop, fun h hp => ?sync, fun h => ?iflush, fun h => ?halt, fun h => ?movb, fun h => ?mfc, fun h => ?mtc, ?pred, fun h => ?guard⟩
  case nop =>
    exact h.gives_on (fun _ => rfl) (by simp) (cost := 1) (fun ho => by simp only [Core.effect, ho]) rfl fun e free slot ho hk => ⟨ho, by rw [hk]⟩
  case sync =>
    refine h.gives_on (fun _ => rfl) (by simp) (c' := c1.syncCtl) (cost := if lane then 4 else 1) (fun ho => ?_) rfl fun e free slot ho hk => ⟨⟨ho, by rw [hk]; rfl⟩, by rw [hk]⟩
    simp only [Core.effect, ho]
    exact if_pos (by rw [hp]; rfl)
  case iflush =>
    exact h.gives_on (fun _ => rfl) (by simp) (cost := 3) (c' := { c1.loopOff with stale := [], winEnd := next / 4 * 4 + 4, winCyc := c1.cyc + 3 })
      (fun ho => by simp only [Core.effect, ho]; rfl) rfl fun e free slot ho hk => ⟨ho, by rw [hk]; rfl⟩
  case halt =>
    exact h.gives_on (fun _ => rfl) (by simp) (cost := 1) (c' := { c1.loopOff with halted := true })
      (fun ho => by simp only [Core.effect, ho]; rfl) rfl fun e free slot ho hk => ⟨ho, by rw [hk]; rfl⟩
  case movb =>
    refine h.gives_on (fun _ => rfl) (by simp) (cost := 1) (c' := c1.setB i.y 2 (c1.rg i.x))
      (fun ho => by simp only [Core.effect, ho]; rfl) rfl fun e free slot ho hk => ⟨⟨ho, by rw [hk]; rfl⟩, fun n => ?_⟩
    rw [hk]
    exact Core.bNow_setB c1 i.y 2 _ n
  case mfc =>
    obtain ⟨⟨ctl, loop, winCyc, he⟩, hsame⟩ := mfc_eq c1 key i.y
    refine h.gives_on (fun _ => rfl) (by simp) (c' := (c1.mfc key i.y).2.setG i.x 0 (c1.mfc key i.y).1) (cost := 1) (fun ho => by simp only [Core.effect, ho]; rfl) (by rw [he]; rfl) fun e free slot ho hk => ?_
    have hg : ∀ n, (e.core key).gNow n = if n = i.x then (c1.mfc key i.y).1 else c1.gNow n := fun n => by
      rw [hk]
      exact (Core.gNow_setG _ i.x 0 _ n).trans (by rw [he]; rfl)
    refine ⟨ho, by rw [hk], by rw [hg, if_pos rfl], fun n hn => by rw [hg, if_neg hn], by rw [hk, he]; rfl, by rw [hk, he]; rfl, by rw [hk, he]; rfl, by rw [hk, he]; rfl,
      fun h10 h11 => ⟨ho, ?_⟩⟩
    rw [hk, hsame h10 h11]
    rfl
  case mtc =>
    intro v
    exact ⟨gives_mtc_pending h rfl, fun hy => gives_mtc_plain h rfl hy ⟨_, rfl⟩, fun hy => gives_mtc_plain h rfl hy ⟨_, rfl⟩,
      fun hy => gives_mtc_plain h rfl hy ⟨_, rfl⟩, gives_mtc_timer h rfl,
      fun hy => by rcases hy with hy | hy | hy | hy <;> exact gives_mtc_plain h rfl hy ⟨_, rfl⟩,
      gives_mtc_address h rfl, gives_mtc_preds h rfl, gives_mtc_data h rfl⟩
  case pred =>
    exact ⟨fun h => gives_pred h (fun _ => rfl) (by simp) (condHolds c1.st i.y) fun ho => by simp only [Core.effect, ho]; rfl,
      fun h => gives_pred h (fun _ => rfl) (by simp) (!bitAt c1.p i.x) fun ho => by simp only [Core.effect, ho]; rfl,
      fun h => gives_pred h (fun _ => rfl) (by simp) false fun ho => by simp only [Core.effect, ho]⟩
  case guard =>
    refine h.gives_on (cost := 1) (fun _ => rfl) (by simp)
      (c' := { c1.note 24 0 (bitsOf c1.st.toNat 16 4) with st := BitVec.ofNat 32 (putBits c1.st.toNat 16 4 (i.x + 8 * i.y)) })
      (fun ho => by simp only [Core.effect, ho]; rfl) rfl fun e free slot ho hk => ⟨⟨ho, by rw [hk]; rfl⟩, fun n hn => ?_⟩
    obtain ⟨hx, hy⟩ := decodeRidge_guardFits _ _ h.1.op_eq
    rw [hk]
    exact StBit_guard c1 hx hy hn

end Sys2Proof
end

section
/-! SUPPORT. Loads, stores and the multiplier of the Ridge cores (13 R458, R459, R468, Table 13.9; 14 R498, R500). -/

namespace Sys2Proof

open Machine

/-! ### The multiplier (13 R468; 14 R498) -/

theorem sext_eq_toInt (v : Nat) : sext v 64 = (BitVec.ofNat 64 v).toInt := by
  rw [BitVec.toInt_eq_toNat_cond, BitVec.toNat_ofNat, sext]
  split_ifs <;> omega

theorem wrapInt_eq_toNat (v : Int) : wrapInt v 64 % 2 ^ 64 = (BitVec.ofInt 64 v).toNat := by
  rw [BitVec.toNat_ofInt, wrapInt]
  omega

theorem mulWrite_wrap (c : Core) (v : Int) :
    c.mulWrite (wrapInt v 64) = { c with mxw := mxInsert ⟨c.cyc + 2, 2, (BitVec.ofInt 64 v).toNat⟩ c.mxw } := by
  rw [Core.mulWrite, wrapInt_eq_toNat]

theorem mulWrite_word (c : Core) (x y : Word) :
    c.mulWrite (x.toNat * y.toNat) = { c with mxw := mxInsert ⟨c.cyc + 2, 2, x.toNat * y.toNat⟩ c.mxw } := by
  have h : x.toNat * y.toNat < 2 ^ 64 := (Nat.mul_lt_mul'' x.isLt y.isLt).trans_le (by norm_num)
  rw [Core.mulWrite, Nat.mod_eq_of_lt h]

/-- A core whose accumulator is on its way, with MO set where the sum did not fit. -/
def Machine.Core.accumulated (c : Core) (w : Nat) (mo : Bool) : Core :=
  let c' : Core := { c with mxw := mxInsert ⟨c.cyc + 2, 2, w⟩ c.mxw }
  if mo then c'.setFlag fMO true else c'

theorem accumulated_eq (c : Core) (w : Nat) (mo : Bool) :
    c.accumulated w mo = { c with mxw := mxInsert ⟨c.cyc + 2, 2, w⟩ c.mxw, st := (c.accumulated w mo).st } := by
  unfold Core.accumulated
  split <;> rfl

/-- MO is sticky. -/
theorem StBit_accumulated (c : Core) (w : Nat) (mo : Bool) :
    StBit (c.accumulated w mo) fMO = (StBit c fMO || mo) ∧ ∀ m, m ≠ fMO → StBit (c.accumulated w mo) m = StBit c m := by
  unfold Core.accumulated
  cases mo
  · exact ⟨(Bool.or_false _).symm, fun m _ => rfl⟩
  · refine ⟨?_, fun m hm => ?_⟩
    · rw [Bool.or_true, if_pos rfl, StBit_setFlag _ _ _ (by decide), if_pos rfl]
    · rw [if_pos rfl, StBit_setFlag _ _ _ (by decide), if_neg hm]
      rfl

theorem accum_signed (c : Core) (a b : Int) :
    let v := (BitVec.ofNat 64 c.mxAll).toInt + a * b
    c.accum true a b = c.accumulated (BitVec.ofInt 64 v).toNat (decide (v < -2 ^ 63 ∨ (2 ^ 63 : Int) ≤ v)) := by
  intro v
  simp only [Core.accum, if_true, sext_eq_toInt, mulWrite_wrap, Core.accumulated, decide_eq_true_eq]
  rfl

theorem accum_unsigned (c : Core) (a b : Nat) :
    let v := c.mxAll + a * b
    c.accum false a b = c.accumulated (v % 2 ^ 64) (decide (2 ^ 64 ≤ v)) := by
  intro v
  have hv : (c.mxAll : Int) + a * b = (v : Int) := by push_cast; rfl
  have hw : (BitVec.ofInt 64 (v : Int)).toNat = v % 2 ^ 64 := by rw [BitVec.ofInt_natCast, BitVec.toNat_ofNat]
  simp only [Core.accum, Bool.false_eq_true, if_false, hv, mulWrite_wrap, hw, Core.accumulated, decide_eq_true_eq, Nat.cast_le]

/-! ### Data accesses (13 R458, R459) -/

theorem leBytes_getD (v : Nat) {n j : Nat} (h : j < n) : (leBytes v n).getD j 0 = BitVec.ofNat 8 (v / 2 ^ (8 * j)) := by
  induction n generalizing v j with
  | zero => omega
  | succ n ih =>
    cases j with
    | zero => simp [leBytes]
    | succ j =>
      rw [leBytes, List.getD_cons_succ, ih _ (by omega), Nat.div_div_eq_div_mul, show 256 = 2 ^ 8 from rfl, ← pow_add]
      congr 3
      omega

/-- Bytes of data memory after a store. -/
theorem get_setMany_leBytes (t : Tab Byte) (a v n : Nat) :
    (∀ j < n, Tab.get 0 (Tab.setMany 0 t a (leBytes v n)) (a + j) = BitVec.ofNat 8 (v / 2 ^ (8 * j))) ∧
    ∀ x, ¬(a ≤ x ∧ x < a + n) → Tab.get 0 (Tab.setMany 0 t a (leBytes v n)) x = Tab.get 0 t x :=
  ⟨fun j hj => by rw [setMany_get_of_mem _ _ _ _ (by rwa [leBytes_length]), leBytes_getD _ hj],
    fun x hx => Tab.get_setMany_out 0 _ _ _ _ (by rw [leBytes_length]; omega)⟩

theorem place_far (c : Core) {lane : Bool} {a size : Nat} (ha : a % size = 0) (hf : 0x80000000 ≤ a) (hl : lane = false) :
    c.place lane a size = .far (c.farAddr a) := by
  unfold Core.place
  rw [if_neg (not_not_intro ha), if_neg (by omega), if_pos ⟨by simp [hl], hf⟩]

theorem place_bad (c : Core) {lane : Bool} {a size : Nat} (hn : ¬(a % size = 0 ∧ a < 0x10000))
    (hf : ¬(a % size = 0 ∧ 0x80000000 ≤ a ∧ lane = false)) : c.place lane a size = .bad := by
  unfold Core.place
  by_cases ha : a % size = 0
  · rw [if_neg (not_not_intro ha), if_neg (fun h => hn ⟨ha, h⟩), if_neg (fun h => hf ⟨ha, h.2, by simpa using h.1⟩)]
  · rw [if_pos ha]

theorem store_far (c : Core) {lane : Bool} {a size d : Nat} (v : Nat) (hp : c.place lane a size = .far d) :
    c.store lane a size v =
      if maxPosted ≤ c.posted.length then .full else .ok { c with posted := c.posted ++ [⟨a, d, leBytes v size⟩] } := by
  simp only [Core.store, hp]

/-- A loaded value reaches its register. -/
theorem loaded_regs (c : Core) (reg : Nat) (sign : Bool) (size v : Nat) (far : Bool) :
    let w : Word := if sign then BitVec.ofInt 32 (sext v (8 * size)) else BitVec.ofNat 32 v
    ∀ m, (c.loaded reg sign size v far).gNow m = (if reg < 8 ∧ m = reg then w else c.gNow m) ∧
      (c.loaded reg sign size v far).bNow m = (if 8 ≤ reg ∧ m = reg - 8 then w else c.bNow m) := by
  intro w m
  unfold Core.loaded
  by_cases h : reg < 8
  · rw [if_pos h]
    exact ⟨(Core.gNow_setG _ _ _ _ _).trans (by simp [h, w]), Eq.symm (if_neg (by omega))⟩
  · rw [if_neg h]
    exact ⟨Eq.symm (if_neg (by omega)), (Core.bNow_setB _ _ _ _ _).trans (by simp [Nat.le_of_not_lt h, w])⟩

theorem loaded_eq (c : Core) (reg : Nat) (sign : Bool) (size v : Nat) (far : Bool) : ∃ hist, c.loaded reg sign size v far =
    { c with g := (c.loaded reg sign size v far).g, b := (c.loaded reg sign size v far).b, hist := hist } := by
  unfold Core.loaded
  dsimp only
  split <;> exact ⟨_, rfl⟩

/-- LEA is a load of its address (13 Table 13.9). -/
theorem lea_loaded (c : Core) (reg size v : Nat) :
    (if reg < 8 then c.setG reg 0 (BitVec.ofNat 32 v) else c.setB (reg - 8) 0 (BitVec.ofNat 32 v)) = c.loaded reg false size v true := rfl

section
variable {d : Dev} {key : Nat}

/-- Address of a memory instruction's operand. -/
def Machine.Core.dataAddr (c : Core) (i : Ri) : Nat := (c.rb i.y + BitVec.ofInt 32 i.z).toNat

/-- What a memory instruction that writes a register leaves. -/
def LoadedInto (d : Dev) (key : Nat) (v : Word) (e : Dev) : Prop :=
  (OnlyCore key d e ∧ e.core key = { d.atIssue key with
    g := (e.core key).g, b := (e.core key).b, pc := d.nextPc key, hist := (e.core key).hist, free := (e.core key).free, slot := (e.core key).slot }) ∧
  ∀ m, (e.core key).gNow m = (if (d.nextRi key).x < 8 ∧ m = (d.nextRi key).x then v else (d.atIssue key).gNow m) ∧
    (e.core key).bNow m = (if 8 ≤ (d.nextRi key).x ∧ m = (d.nextRi key).x - 8 then v else (d.atIssue key).bNow m)

/-- An instruction that moves on with a loaded register. -/
theorem Does.gives_loaded {op : Rop} {ins : Instr} (h : Does d key op) (hrow : ∀ s, exec ins s = onDev (·.coreStep key op) s)
    (hop : op ≠ .reserved) (sign : Bool) (size v : Nat) (far : Bool)
    (he : (d.nextRi key).op = op → (d.atIssue key).effect key (d.nextRi key) (d.nextPc key) =
      .go { (d.atIssue key).loaded (d.nextRi key).x sign size v far with pc := d.nextPc key } 1) :
    Gives ins d (LoadedInto d key (if sign then BitVec.ofInt 32 (sext v (8 * size)) else BitVec.ofNat 32 v)) := by
  obtain ⟨hist, hl⟩ := loaded_eq (d.atIssue key) (d.nextRi key).x sign size v far
  refine h.gives_on hrow hop he (by rw [hl]) fun e free slot ho hk => ⟨⟨ho, ?_⟩, fun m => ?_⟩
  · rw [hk, hl]
  · rw [hk]
    exact loaded_regs _ _ _ _ _ _ m

/-- The multiplier has been sent a result, and ST is `st`. -/
def Sent (d : Dev) (key : Nat) (w : MxWrite) (e : Dev) : Prop :=
  OnlyCore key d e ∧ e.core key = { d.atIssue key with
    mxw := mxInsert w (d.atIssue key).mxw, st := (e.core key).st, pc := d.nextPc key
    hist := (e.core key).hist, free := (e.core key).free, slot := (e.core key).slot }

/-- An instruction that sends the multiplier a result and leaves ST. -/
theorem Does.gives_sent {op : Rop} {ins : Instr} (h : Does d key op) (hrow : ∀ s, exec ins s = onDev (·.coreStep key op) s)
    (hop : op ≠ .reserved) (w : MxWrite)
    (he : (d.nextRi key).op = op → (d.atIssue key).effect key (d.nextRi key) (d.nextPc key) =
      .go { d.atIssue key with mxw := mxInsert w (d.atIssue key).mxw, pc := d.nextPc key } 1) :
    Gives ins d fun e => Sent d key w e ∧ (e.core key).st = (d.atIssue key).st :=
  h.gives_on (c' := { d.atIssue key with mxw := mxInsert w (d.atIssue key).mxw }) hrow hop he rfl fun e free slot ho hk =>
    ⟨⟨ho, by rw [hk]⟩, by rw [hk]⟩

theorem gives_mac (h : Does d key .mac) :
    let c1 := d.atIssue key
    let v := (BitVec.ofNat 64 c1.mxAll).toInt + (c1.rg (d.nextRi key).x).toInt * (c1.rg (d.nextRi key).y).toInt
    Gives (.mac key) d fun e => Sent d key ⟨c1.cyc + 2, 2, (BitVec.ofInt 64 v).toNat⟩ e ∧
      StBit (e.core key) fMO = (StBit c1 fMO || decide (v < -2 ^ 63 ∨ (2 ^ 63 : Int) ≤ v)) ∧
      ∀ m, m ≠ fMO → StBit (e.core key) m = StBit c1 m := by
  intro c1 v
  refine h.gives_on (cost := 1) (c' := c1.accumulated (BitVec.ofInt 64 v).toNat (decide (v < -2 ^ 63 ∨ (2 ^ 63 : Int) ≤ v)))
    (fun _ => rfl) (by simp) (fun ho => ?_) (by rw [accumulated_eq]) fun e free slot ho hk => ⟨⟨ho, ?_⟩, ?_⟩
  · simp only [Core.effect, ho, accum_signed]
    rfl
  · rw [hk, accumulated_eq]
  · rw [hk]
    exact StBit_accumulated c1 _ _

/-- LD and LDS in data memory. -/
theorem Does.gives_nearLoad {op : Rop} {ins : Instr} (h : Does d key op) (hrow : ∀ s, exec ins s = onDev (·.coreStep key op) s)
    (hop : op = .ld ∨ op = .lds)
    (hp : (d.atIssue key).place (isLane key) ((d.atIssue key).dataAddr (d.nextRi key)) (d.nextRi key).size = .near) :
    let n := (d.nextRi key).size
    let v := (d.atIssue key).loadNear ((d.atIssue key).dataAddr (d.nextRi key)) n
    Gives ins d (LoadedInto d key (if op == .lds then BitVec.ofInt 32 (sext v (8 * n)) else BitVec.ofNat 32 v)) := by
  unfold Machine.Core.dataAddr at *
  refine h.gives_loaded hrow (by rcases hop with rfl | rfl <;> simp) _ _ _ false fun ho => ?_
  rcases hop with rfl | rfl <;> simp only [Core.effect, ho, Core.memory, hp]

/-- LD and LDS in the far window wait for their data (14 R500). -/
theorem Does.gives_farLoad {op : Rop} {ins : Instr} (h : Does d key op) (hrow : ∀ s, exec ins s = onDev (·.coreStep key op) s)
    (hop : op = .ld ∨ op = .lds) {a far : Nat} (ha : (d.atIssue key).dataAddr (d.nextRi key) = a)
    (hp : (d.atIssue key).place (isLane key) a (d.nextRi key).size = .far far) :
    Gives ins d fun e => OnlyCore key d e ∧
      (e.core key).farLoad = some ⟨0, (d.nextRi key).x, op == .lds, (d.nextRi key).size, a, far⟩ ∧
      e.core key = { d.atIssue key with farLoad := (e.core key).farLoad, free := (e.core key).free, slot := (e.core key).slot } := by
  have he : (d.atIssue key).effect key (d.nextRi key) (d.nextPc key) =
      (d.atIssue key).waitFar 0 (d.nextRi key).x (op == .lds) (d.nextRi key).size a far := by
    unfold Machine.Core.dataAddr at ha
    have ho := h.1.op_eq
    rcases hop with rfl | rfl <;> simp only [Core.effect, ho, Core.memory, ha, hp]
  refine h.gives hrow (by rcases hop with rfl | rfl <;> simp) he (fun hst => by simp [h.1.atIssue_stopped] at hst) ?_
  rintro e ho ⟨free, slot, hk⟩
  exact ⟨ho, by rw [hk], by rw [hk]⟩

/-- ST that the core takes. -/
theorem gives_store (h : Does d key .st) {c' : Core}
    (hs : let x := (d.nextRi key).x
      (d.atIssue key).store (isLane key) ((d.atIssue key).dataAddr (d.nextRi key)) (d.nextRi key).size
        (if x < 8 then (d.atIssue key).rg x else (d.atIssue key).bNow (x - 8)).toNat = .ok c')
    {P : Dev → Prop} (hP : ∀ e free slot, OnlyCore key d e → e.core key = { c' with pc := d.nextPc key, free := free, slot := slot } → P e) :
    Gives (.st key) d P := by
  obtain ⟨-, -, -, hstop⟩ := store_frame hs
  refine h.gives_on (cost := 1) (fun _ => rfl) (by simp) (fun ho => ?_) hstop hP
  unfold Machine.Core.dataAddr at hs
  simp only [Core.effect, ho, Core.memory]
  rw [hs]

/-- A memory instruction whose operand is nowhere, or not aligned (13 R458). -/
theorem Does.gives_addrTrap {op : Rop} {ins : Instr} (h : Does d key op) (hrow : ∀ s, exec ins s = onDev (·.coreStep key op) s)
    (hop : op = .ld ∨ op = .lds ∨ op = .st)
    (hp : (d.atIssue key).place (isLane key) ((d.atIssue key).dataAddr (d.nextRi key)) (d.nextRi key).size = .bad)
    (hf : isLane key = true ∨ HasFrame (d.atIssue key)) :
    Gives ins d (Trapped key vADDR (d.core key).pc (some ((d.atIssue key).dataAddr (d.nextRi key))) d) := by
  have hpc : (d.atIssue key).pc = (d.core key).pc := by
    obtain ⟨_, _, _, _, _, e⟩ := atIssue_eq d key
    rw [e]
  unfold Machine.Core.dataAddr at *
  refine h.gives_trap hrow (by rcases hop with rfl | rfl | rfl <;> simp) hf fun ho => ?_
  rcases hop with rfl | rfl | rfl <;> simp only [Core.effect, ho, Core.memory, Core.store, hp, hpc]

end

/-- Settles O46: where an access goes decides what it does; a load then is a register write, a store bytes of data memory or a posted
store, and the multiplier's instructions send it one result. -/
theorem ridgeMemoryAndMultiplier : Obligations.RidgeMemoryAndMultiplier := by
  intro d key i c1 next lane a n inside far onlyRegs reg
  have hnear : inside → c1.place lane a n = .near := fun h => Core.place_near c1 lane h.1 h.2
  have hfar : far → c1.place lane a n = .far (c1.farAddr a) := fun h => place_far c1 h.1 h.2.1 h.2.2
  have hbad : ¬inside → ¬far → c1.place lane a n = .bad := place_bad c1
  refine ⟨?load, ?store, ?trap, ?lea, ?mul, ?mulu, ?mac, ?wrm⟩
  case load =>
    intro row hrow h
    fin_cases hrow
    · exact ⟨fun hi => h.gives_nearLoad (fun _ => rfl) (.inl rfl) (hnear hi), fun hf => h.gives_farLoad (fun _ => rfl) (.inl rfl) rfl (hfar hf)⟩
    · exact ⟨fun hi => h.gives_nearLoad (fun _ => rfl) (.inr rfl) (hnear hi), fun hf => h.gives_farLoad (fun _ => rfl) (.inr rfl) rfl (hfar hf)⟩
  case store =>
    intro h v
    refine ⟨fun hi => ?_, fun hf hlen => ?_⟩
    · refine gives_store h (Core.store_near c1 lane v hi.1 hi.2) fun e free slot ho hk => ⟨ho, by rw [hk], ?_⟩
      rw [hk]
      exact get_setMany_leBytes c1.dmem a v n
    · refine gives_store h (c' := { c1 with posted := c1.posted ++ [⟨a, c1.farAddr a, leBytes v n⟩] }) ?_ fun e free slot ho hk => ⟨ho, by rw [hk], by rw [hk]⟩
      exact (store_far c1 v (hfar hf)).trans (if_neg (Nat.not_le.mpr hlen))
  case trap =>
    intro row hrow h hi hf hs
    fin_cases hrow <;> exact h.gives_addrTrap (fun _ => rfl) (by simp) (hbad hi hf) hs
  case lea =>
    intro h
    exact h.gives_loaded (fun _ => rfl) (by simp) false 4 a true fun ho => by simp only [Core.effect, ho, Core.memory, lea_loaded]; rfl
  case mul =>
    intro h
    exact h.gives_sent (fun _ => rfl) (by simp) _ fun ho => by simp only [Core.effect, ho, mulWrite_wrap]; rfl
  case mulu =>
    intro h
    exact h.gives_sent (fun _ => rfl) (by simp) _ fun ho => by simp only [Core.effect, ho, mulWrite_word]; rfl
  case mac => exact gives_mac
  case wrm =>
    intro h
    exact h.gives_sent (fun _ => rfl) (by simp) _ fun ho => by simp only [Core.effect, ho]; rfl

end Sys2Proof
end

section
/-! SUPPORT. Strings and block repeat of the Ridge cores (13 R469, R473, Table 13.11). -/

namespace Sys2Proof

open Machine

/-! ### One element -/

theorem advance_eq (c : Core) (b0 b1 : Bool) (n : Nat) :
    ∃ hist, c.advance b0 b1 n = { c with b := (c.advance b0 b1 n).b, hist := hist } := by
  unfold Core.advance
  cases b0 <;> cases b1 <;> exact ⟨_, rfl⟩

/-- The bases after an element. -/
theorem advance_bNow (c : Core) (b0 b1 : Bool) (n m : Nat) : (c.advance b0 b1 n).bNow m =
    if m = 0 then (if b0 then c.bNow 0 + BitVec.ofNat 32 n else c.bNow 0)
    else if m = 1 then (if b1 then c.bNow 1 + BitVec.ofNat 32 n else c.bNow 1) else c.bNow m := by
  unfold Core.advance
  cases b0 <;> cases b1 <;>
    simp only [Bool.false_eq_true, if_false, if_true, Core.bNow_setB, one_ne_zero] <;> split_ifs <;> simp_all

/-- The core with `n` bytes of `v` in its data memory. -/
def Machine.Core.stored (c : Core) (a v n : Nat) : Core := { c with dmem := Tab.setMany 0 c.dmem a (leBytes v n) }

section
variable {c : Core} {lane : Bool} {i : Ri}

theorem element_movs (ho : i.op = .movs) (ha : c.place lane (c.rb 0).toNat i.size = .near) (hb : c.place lane (c.rb 1).toNat i.size = .near) :
    c.element lane i = .go ((c.stored (c.rb 1).toNat (c.loadNear (c.rb 0).toNat i.size) i.size).advance true true i.size) 1 := by
  simp only [Core.element, ho, ha, Core.store, hb]
  rfl

theorem element_fils (ho : i.op = .fils) (hb : c.place lane (c.rb 1).toNat i.size = .near) :
    c.element lane i = .go ((c.stored (c.rb 1).toNat (c.rg 0).toNat i.size).advance false true i.size) 1 := by
  simp only [Core.element, ho, Core.store, hb]
  rfl

/-- SCNS compares its element with G0. -/
def Machine.Core.compared (c : Core) (n v : Nat) : Core :=
  (c.setFlag fZ (v == (c.gNow 0).toNat % 2 ^ (8 * n))).note 13 0 c.st.toNat

theorem element_scns (ho : i.op = .scns) (ha : c.place lane (c.rb 0).toNat i.size = .near) :
    c.element lane i = .go ((c.compared i.size (c.loadNear (c.rb 0).toNat i.size)).advance true false i.size) 1 := by
  simp only [Core.element, ho, ha]
  rfl

theorem element_macm (ho : i.op = .macm) (ha : c.place lane (c.rb 0).toNat i.size = .near) (hb : c.place lane (c.rb 1).toNat i.size = .near) :
    ∃ cost, c.element lane i = .go ((c.accum true (sext (c.loadNear (c.rb 0).toNat i.size) (8 * i.size))
      (sext (c.loadNear (c.rb 1).toNat i.size) (8 * i.size))).advance true true i.size) cost := by
  simp only [Core.element, ho, ha, hb, ne_eq, not_true, if_false]
  exact ⟨_, rfl⟩

theorem element_macmu (ho : i.op = .macmu) (ha : c.place lane (c.rb 0).toNat i.size = .near) (hb : c.place lane (c.rb 1).toNat i.size = .near) :
    ∃ cost, c.element lane i = .go ((c.accum false (c.loadNear (c.rb 0).toNat i.size : Nat)
      (c.loadNear (c.rb 1).toNat i.size : Nat)).advance true true i.size) cost := by
  simp only [Core.element, ho, ha, hb, ne_eq, not_true, if_false]
  exact ⟨_, rfl⟩

end

/-! ### A string instruction on the unit -/

section
variable {d : Dev} {key : Nat}

theorem atIssue_farLoad (hr : (d.core key).runs = true) : (d.atIssue key).farLoad = none := by
  obtain ⟨_, _, _, _, _, e⟩ := atIssue_eq d key
  rw [e]
  simp only [Core.runs, Bool.and_eq_true, Option.isNone_iff_eq_none] at hr
  exact hr.1.2

theorem atIssue_stopped' (hr : (d.core key).runs = true) : (d.atIssue key).stopped = false := by
  obtain ⟨_, _, _, _, _, e⟩ := atIssue_eq d key
  rw [e]
  exact (Core.runs_stopped hr : (d.core key).stopped = false)

/-- The step of a core at a string instruction that may have its effect. -/
theorem step_string (hr : (d.core key).runs = true) (h2 : (d.core key).rep ≠ 2) (hs : (d.nextRi key).op.isString = true)
    (hh : (d.core key).inRep = true ∨ (d.atIssue key).holds (isLane key) (d.nextRi key) = true) {c2 : Core} {cost : Nat}
    (he : (d.atIssue key).string (isLane key) (d.nextRi key) (d.nextPc key) = .go c2 cost) :
    ∃ free slot, (d.core key).step key (d.staleChoice (d.core key)).1 = { c2 with free := free, slot := slot } := by
  rw [← effect_string _ key _ hs] at he
  have hop : (d.nextRi key).op ≠ .reserved := fun e => by rw [e] at hs; cases hs
  unfold Machine.Dev.nextPc Machine.Dev.atIssue Machine.Dev.nextRi at *
  unfold Core.step
  rcases hh with hh | hh <;>
    simp only [hr, h2, hop, hs, hh, he, Bool.not_true, Bool.false_eq_true, if_false, Bool.and_false, or_false, false_and, and_false]
  · exact ⟨_, _, rfl⟩
  · exact ⟨_, _, rfl⟩

theorem coreStep_string {op : Rop} (hon : d.coreOn key = true) (hr : (d.core key).runs = true) (h2 : (d.core key).rep ≠ 2)
    (ho : (d.nextRi key).op = op) (hs : op.isString = true)
    (hh : (d.core key).inRep = true ∨ (d.atIssue key).holds (isLane key) (d.nextRi key) = true) {c2 : Core} {cost : Nat}
    (he : (d.atIssue key).string (isLane key) (d.nextRi key) (d.nextPc key) = .go c2 cost) (hstop : c2.stopped = false) :
    OnlyCore key d (d.coreStep key op) ∧ ∃ free slot, (d.coreStep key op).core key = { c2 with free := free, slot := slot } := by
  obtain ⟨free, slot, hc⟩ := step_string hr h2 (ho ▸ hs) hh he
  have hd : d.coreStep key op = (d.staleChoice (d.core key)).2.setCore key { c2 with free := free, slot := slot } :=
    (if_neg (by simp [hon, hr])).trans ((if_pos ho).trans ((congrArg _ hc).trans
      (Dev.coreMoved_quiet _ _ _ fun h => absurd (hstop.symm.trans h) (by simp))))
  rw [hd]
  exact ⟨onlyCore_setCore d key _ _, free, slot, Dev.core_setCore_same _ key _⟩

/-- A string row of one element. -/
theorem coreString_one {op : Rop} {n : Nat} (hn : 0 < n) (h : ((d.coreStep key op).core key).inRep = false) :
    d.coreString key op n = d.coreStep key op := by
  obtain ⟨n, rfl⟩ := Nat.exists_eq_succ_of_ne_zero hn.ne'
  exact if_neg (by simp [h])

/-- A core has gone over one element of a string: its bases advance, and nothing else of what an element leaves alone has changed. -/
def ElementDone (d : Dev) (key : Nat) (b0 b1 : Bool) (e : Dev) : Prop :=
  let c1 := d.atIssue key
  let n := (d.nextRi key).size
  let c := e.core key
  OnlyCore key d e ∧ c.pc = d.nextPc key ∧ c.g = c1.g ∧ c.lc = c1.lc ∧ c.p = c1.p ∧ c.rep = 0 ∧ c.inRep = false ∧
  c.bNow 0 = (if b0 then c1.bNow 0 + BitVec.ofNat 32 n else c1.bNow 0) ∧
  c.bNow 1 = (if b1 then c1.bNow 1 + BitVec.ofNat 32 n else c1.bNow 1) ∧ c.bNow 2 = c1.bNow 2 ∧ c.bNow 3 = c1.bNow 3

/-- A string row without REP: the core `c'` of the element, and its bases advanced. -/
theorem Does.gives_element {op : Rop} {ins : Instr} {m : Nat} (h : Does d key op)
    (hrow : ∀ s, exec ins s = onDev (·.coreString key op (max m 1)) s) (hstr : op.isString = true) {c' : Core} {b0 b1 : Bool}
    (he : (d.nextRi key).op = op → ∃ cost, (d.atIssue key).element (isLane key) (d.nextRi key) = .go (c'.advance b0 b1 (d.nextRi key).size) cost)
    (hc : ∃ dmem mxw st hist, c' = { d.atIssue key with dmem := dmem, mxw := mxw, st := st, hist := hist }) :
    Gives ins d fun e => ElementDone d key b0 b1 e ∧ (e.core key).dmem = c'.dmem ∧ (e.core key).st = c'.st ∧ (e.core key).mxw = c'.mxw := by
  obtain ⟨⟨hp, hon, hr, h0, hn, ho⟩, hh⟩ := id h
  obtain ⟨cost, he⟩ := he ho
  obtain ⟨hist, ha⟩ := advance_eq c' b0 b1 (d.nextRi key).size
  have hb := advance_bNow c' b0 b1 (d.nextRi key).size
  obtain ⟨dmem, mxw, st, hist', rfl⟩ := hc
  have hrep := h.1.atIssue_rep
  have hin : (d.atIssue key).inRep = false := by
    obtain ⟨_, _, _, _, _, e⟩ := atIssue_eq d key
    rw [e]
    exact hn
  have hfar := atIssue_farLoad hr
  have hstop := h.1.atIssue_stopped
  generalize hc2 : Core.advance { d.atIssue key with dmem := dmem, mxw := mxw, st := st, hist := hist' } b0 b1 (d.nextRi key).size = c2 at *
  have hs : (d.atIssue key).string (isLane key) (d.nextRi key) (d.nextPc key) = .go { c2 with pc := d.nextPc key } cost := by
    have hfar2 : c2.farLoad.isSome = false := by
      rw [ha]
      simp [hfar]
    simp only [Core.string, hrep, hin, he, hfar2, zero_ne_one, Bool.false_eq_true, or_self, if_false]
  have hstop2 : c2.stopped = false := by
    rw [ha]
    exact hstop
  obtain ⟨honly, free, slot, hcore⟩ := coreStep_string hon hr (by omega) ho hstr (Or.inr hh) hs hstop2
  have hin2 : ((d.coreStep key op).core key).inRep = false := by
    rw [hcore, ha]
    exact hin
  refine gives_of_onDev _ hrow hp ?_
  rw [coreString_one (by omega) hin2, hcore]
  refine ⟨⟨honly, ?_⟩, ?_⟩
  · rw [hcore]
    refine ⟨rfl, ?_, ?_, ?_, ?_, ?_, (hb 0).trans ?_, (hb 1).trans ?_, hb 2, hb 3⟩
    · rw [ha]
    · rw [ha]
    · rw [ha]
    · rw [ha]
      exact hrep
    · rw [ha]
      exact hin
    · rfl
    · rfl
  · rw [ha]
    exact ⟨rfl, rfl, rfl⟩

/-- Data memory has `n` bytes of `v` where B1 pointed, and is otherwise as it was; ST is as it was. -/
def StoredAtB1 (d : Dev) (key v : Nat) (e : Dev) : Prop :=
  let c1 := d.atIssue key
  let b := (c1.rb 1).toNat
  let n := (d.nextRi key).size
  (∀ j < n, Tab.get 0 (e.core key).dmem (b + j) = BitVec.ofNat 8 (v / 2 ^ (8 * j))) ∧
  (∀ x, ¬(b ≤ x ∧ x < b + n) → Tab.get 0 (e.core key).dmem x = Tab.get 0 c1.dmem x) ∧ (e.core key).st = c1.st

theorem storedAtB1 {v : Nat} {e : Dev}
    (hd : (e.core key).dmem = ((d.atIssue key).stored ((d.atIssue key).rb 1).toNat v (d.nextRi key).size).dmem)
    (hs : (e.core key).st = (d.atIssue key).st) : StoredAtB1 d key v e := by
  obtain ⟨h1, h2⟩ := get_setMany_leBytes (d.atIssue key).dmem ((d.atIssue key).rb 1).toNat v (d.nextRi key).size
  refine ⟨fun j hj => ?_, fun x hx => ?_, hs⟩
  · rw [hd]
    exact h1 j hj
  · rw [hd]
    exact h2 x hx

/-- Base `r` points at an operand in data memory (13 R458). -/
def NearBase (d : Dev) (key r : Nat) : Prop :=
  let a := ((d.atIssue key).rb r).toNat
  a % (d.nextRi key).size = 0 ∧ a < 0x10000

theorem NearBase.place {r : Nat} (h : NearBase d key r) :
    (d.atIssue key).place (isLane key) ((d.atIssue key).rb r).toNat (d.nextRi key).size = .near := Core.place_near _ _ h.1 h.2

variable (m : Nat)

theorem gives_movs (h : Does d key .movs) (ha : NearBase d key 0) (hb : NearBase d key 1) : Gives (.movs key m) d fun e =>
    ElementDone d key true true e ∧ StoredAtB1 d key ((d.atIssue key).loadNear ((d.atIssue key).rb 0).toNat (d.nextRi key).size) e := by
  obtain ⟨e, hx, h1, h2, h3, -⟩ := h.gives_element (ins := .movs key m) (fun _ => rfl) rfl
    (fun ho => ⟨_, element_movs ho ha.place hb.place⟩) ⟨_, _, _, _, rfl⟩
  exact ⟨e, hx, h1, storedAtB1 h2 h3⟩

theorem gives_fils (h : Does d key .fils) (hb : NearBase d key 1) : Gives (.fils key m) d fun e =>
    ElementDone d key false true e ∧ StoredAtB1 d key ((d.atIssue key).rg 0).toNat e := by
  obtain ⟨e, hx, h1, h2, h3, -⟩ := h.gives_element (ins := .fils key m) (fun _ => rfl) rfl
    (fun ho => ⟨_, element_fils ho hb.place⟩) ⟨_, _, _, _, rfl⟩
  exact ⟨e, hx, h1, storedAtB1 h2 h3⟩

theorem gives_scns (h : Does d key .scns) (ha : NearBase d key 0) : Gives (.scns key m) d fun e =>
    let c1 := d.atIssue key
    let n := (d.nextRi key).size
    ElementDone d key true false e ∧ (e.core key).dmem = c1.dmem ∧
    StBit (e.core key) fZ = decide (c1.loadNear (c1.rb 0).toNat n = (c1.gNow 0).toNat % 2 ^ (8 * n)) ∧
    ∀ x, x ≠ fZ → StBit (e.core key) x = StBit c1 x := by
  obtain ⟨e, hx, h1, h2, h3, -⟩ := h.gives_element (ins := .scns key m) (fun _ => rfl) rfl
    (fun ho => ⟨_, element_scns ho ha.place⟩) ⟨_, _, _, _, rfl⟩
  have hst := fun x => (StBit_congr h3 x).trans (StBit_setFlag (d.atIssue key) _ x (by decide))
  exact ⟨e, hx, h1, h2, (hst fZ).trans (if_pos rfl), fun x hne => (hst x).trans (if_neg hne)⟩

theorem gives_macm (h : Does d key .macm) (ha : NearBase d key 0) (hb : NearBase d key 1) :
    let c1 := d.atIssue key
    let n := (d.nextRi key).size
    let v := (BitVec.ofNat 64 c1.mxAll).toInt + sext (c1.loadNear (c1.rb 0).toNat n) (8 * n) * sext (c1.loadNear (c1.rb 1).toNat n) (8 * n)
    Gives (.macm key m) d fun e => ElementDone d key true true e ∧ (e.core key).dmem = c1.dmem ∧
      (e.core key).mxw = mxInsert ⟨c1.cyc + 2, 2, (BitVec.ofInt 64 v).toNat⟩ c1.mxw ∧
      StBit (e.core key) fMO = (StBit c1 fMO || decide (v < -2 ^ 63 ∨ (2 ^ 63 : Int) ≤ v)) := by
  intro c1 n v
  obtain ⟨cost, he⟩ := element_macm h.1.op_eq ha.place hb.place
  rw [accum_signed, accumulated_eq] at he
  obtain ⟨e, hx, h1, h2, h3, h4⟩ := h.gives_element (ins := .macm key m) (fun _ => rfl) rfl (fun _ => ⟨_, he⟩) ⟨_, _, _, _, rfl⟩
  exact ⟨e, hx, h1, h2, h4, (StBit_congr h3 _).trans (StBit_accumulated c1 _ _).1⟩

theorem gives_macmu (h : Does d key .macmu) (ha : NearBase d key 0) (hb : NearBase d key 1) :
    let c1 := d.atIssue key
    let n := (d.nextRi key).size
    let v := c1.mxAll + c1.loadNear (c1.rb 0).toNat n * c1.loadNear (c1.rb 1).toNat n
    Gives (.macmu key m) d fun e => ElementDone d key true true e ∧ (e.core key).dmem = c1.dmem ∧
      (e.core key).mxw = mxInsert ⟨c1.cyc + 2, 2, v % 2 ^ 64⟩ c1.mxw ∧
      StBit (e.core key) fMO = (StBit c1 fMO || decide (2 ^ 64 ≤ v)) := by
  intro c1 n v
  obtain ⟨cost, he⟩ := element_macmu h.1.op_eq ha.place hb.place
  rw [accum_unsigned, accumulated_eq] at he
  obtain ⟨e, hx, h1, h2, h3, h4⟩ := h.gives_element (ins := .macmu key m) (fun _ => rfl) rfl (fun _ => ⟨_, he⟩) ⟨_, _, _, _, rfl⟩
  exact ⟨e, hx, h1, h2, h4, (StBit_congr h3 _).trans (StBit_accumulated c1 _ _).1⟩

end

end Sys2Proof
end

section
/-! SUPPORT. Repeated strings, a fill of data memory among them, and the statement about strings (13 R469, R473). -/

namespace Sys2Proof

open Machine

section
variable {d : Dev} {key : Nat}

/-- What the instruction's issue leaves of a core that repeats. -/
theorem atIssue_repeat (d : Dev) (key : Nat) :
    let c := d.core key
    let c1 := d.atIssue key
    c1.lc = c.lc ∧ c1.rep = c.rep ∧ c1.inRep = c.inRep ∧ c1.g = c.g ∧ c1.b = c.b ∧ c1.dmem = c.dmem ∧ c1.st = c.st := by
  intro c c1
  obtain ⟨_, _, _, _, _, e⟩ := atIssue_eq d key
  subst c1
  rw [e]
  exact ⟨rfl, rfl, rfl, rfl, rfl, rfl, rfl⟩

/-- Under REP with LC 0 a string instruction only moves on (13 R473). -/
theorem gives_repZero {op : Rop} {ins : Instr} {m : Nat} (hrow : ∀ s, exec ins s = onDev (·.coreString key op (max m 1)) s)
    (hstr : op.isString = true) (hp : Powered d) (hon : d.coreOn key = true) (hr : (d.core key).runs = true) (h1 : (d.core key).rep = 1)
    (hh : (d.atIssue key).holds (isLane key) (d.nextRi key) = true) (ho : (d.nextRi key).op = op) (hlc : (d.core key).lc = 0) :
    Gives ins d fun e =>
      OnlyCore key d e ∧ (e.core key).pc = d.nextPc key ∧ (e.core key).rep = 0 ∧ (e.core key).inRep = false ∧
      (e.core key).g = (d.core key).g ∧ (e.core key).b = (d.core key).b ∧ (e.core key).lc = 0 ∧
      (e.core key).dmem = (d.core key).dmem ∧ (e.core key).st = (d.core key).st := by
  obtain ⟨elc, erep, -, eg, eb, ed, est⟩ := atIssue_repeat d key
  have hs : (d.atIssue key).string (isLane key) (d.nextRi key) (d.nextPc key) =
      .go { d.atIssue key with pc := d.nextPc key, rep := 0, inRep := false } 1 := by
    unfold Core.string
    rw [if_pos (Or.inl (erep.trans h1)), if_pos (elc.trans hlc)]
  obtain ⟨honly, free, slot, hcore⟩ := coreStep_string hon hr (by omega) ho hstr (Or.inr hh) hs (atIssue_stopped' hr)
  refine gives_of_onDev _ hrow hp ?_
  rw [coreString_one (by omega) (by rw [hcore]), hcore]
  exact ⟨honly, rfl, rfl, rfl, eg, eb, elc.trans hlc, ed, est⟩

/-! ### A fill of spur data memory -/

theorem atIssue_late (hl : isLane key = false) {r : Nat × Nat} (hr : r ∈ (d.nextRi key).reads false) (cur : Nat) :
    (d.atIssue key).late r.2 r.1 cur = cur := by
  obtain ⟨hh, -, hc⟩ := atIssue_hist d key
  rw [Core.late, hh, hc]
  refine lateFrom_filter _ _ _ _ _ fun x hx => ?_
  have h1 := ready_le_readyAt (d.core key) hr hx
  have h2 := readyAt_le_issue (d.core key) (isLane key) (d.nextRi key)
  rw [hl] at *
  omega

/-- On a spur core a fill takes G0 and B1 as they are. -/
theorem atIssue_fillOperands (hl : isLane key = false) (ho : (d.nextRi key).op = .fils) :
    (d.atIssue key).rg 0 = (d.core key).gNow 0 ∧ (d.atIssue key).rb 1 = (d.core key).bNow 1 := by
  obtain ⟨-, -, -, eg, eb, -⟩ := atIssue_repeat d key
  have hg : (0, 0) ∈ (d.nextRi key).reads false := by simp [Ri.reads, ho]
  have hb : (9, 2) ∈ (d.nextRi key).reads false := by simp [Ri.reads, ho]
  refine ⟨?_, ?_⟩
  · rw [Core.rg, atIssue_late hl hg, Core.gNow, eg, Core.gNow]
    simp
  · rw [Core.rb, atIssue_late hl hb, Core.bNow, eb, Core.bNow]
    simp

/-- A spur core that is to fill the next element, its program memory read as written. -/
def Filling (d : Dev) (key : Nat) (i : Ri) : Prop :=
  let c := d.core key
  d.coreOn key = true ∧ c.runs = true ∧ (c.rep = 1 ∨ c.inRep = true) ∧ c.rep ≠ 2 ∧ c.stale = [] ∧ c.loop = LoopBuf.reset ∧
  d.nextRi key = i ∧ (c.inRep = true ∨ (d.atIssue key).holds (isLane key) i = true)

/-- The core after one element of a fill. -/
def Machine.Core.filledOnce (c : Core) (n : Nat) : Core :=
  ((c.stored (c.bNow 1).toNat (c.gNow 0).toNat n).advance false true n).setLC 0 (c.lc - 1)

theorem filledOnce_eq (c : Core) (n : Nat) : ∃ hist, c.filledOnce n = { c with
    dmem := (c.stored (c.bNow 1).toNat (c.gNow 0).toNat n).dmem, b := (c.filledOnce n).b, lc := c.lc - 1, hist := hist } := ⟨_, rfl⟩

theorem filledOnce_bNow (c : Core) (n : Nat) : (c.filledOnce n).bNow 1 = c.bNow 1 + BitVec.ofNat 32 n :=
  advance_bNow (c.stored (c.bNow 1).toNat (c.gNow 0).toNat n) false true n 1

/-- The core behind one element of a fill: the repetition ends with LC 0, or goes on. -/
def Machine.Core.fillEnds (c : Core) (n next : Nat) : Core :=
  if (c.filledOnce n).lc = 0 then { c.filledOnce n with pc := next, rep := 0, inRep := false }
  else { c.filledOnce n with rep := 0, inRep := true }

theorem fillEnds_stopped (c : Core) (n next : Nat) : (c.fillEnds n next).stopped = c.stopped := by
  unfold Machine.Core.fillEnds
  split <;> rfl

theorem repeated_fill (c : Core) {i : Ri} (next : Nat) (ho : i.op = .fils) :
    ∃ cost, ((c.stored (c.bNow 1).toNat (c.gNow 0).toNat i.size).advance false true i.size).repeated i next 1 = .go (c.fillEnds i.size next) cost := by
  unfold Core.repeated Machine.Core.fillEnds
  simp only [ho, false_and, or_false, reduceCtorEq]
  split
  · next h => exact ⟨3, congrArg₂ REnd.go (if_pos h).symm rfl⟩
  · next h => exact ⟨1, congrArg₂ REnd.go (if_neg h).symm rfl⟩

theorem string_fill {c : Core} {lane : Bool} {i : Ri} (next : Nat) (ho : i.op = .fils) (hrep : c.rep = 1 ∨ c.inRep = true) (hlc : c.lc ≠ 0)
    (hfar : c.farLoad = none) (hg : c.rg 0 = c.gNow 0) (hb : c.rb 1 = c.bNow 1)
    (hp : c.place lane (c.bNow 1).toNat i.size = .near) : ∃ cost, c.string lane i next = .go (c.fillEnds i.size next) cost := by
  have he := element_fils (c := c) (lane := lane) ho (by rw [hb]; exact hp)
  obtain ⟨cost, hr⟩ := repeated_fill c next ho
  rw [hg, hb] at he
  refine ⟨cost, ?_⟩
  unfold Core.string
  rw [if_pos hrep, if_neg hlc, he]
  exact (if_neg (ne_of_eq_of_ne (congrArg Option.isSome hfar) Bool.false_ne_true)).trans hr

/-- One element of a fill on the unit. -/
theorem coreStep_fill {i : Ri} (h : Filling d key i) (hl : isLane key = false) (ho : i.op = .fils) (hlc : (d.core key).lc ≠ 0)
    (ha : ((d.core key).bNow 1).toNat % i.size = 0) (hb : ((d.core key).bNow 1).toNat < 0x10000) :
    OnlyCore key d (d.coreStep key .fils) ∧ ∃ free slot, (d.coreStep key .fils).core key =
      { (d.atIssue key).fillEnds i.size (d.nextPc key) with free := free, slot := slot } := by
  obtain ⟨hon, hr, hrep, h2, -, -, hi, hh⟩ := h
  subst hi
  obtain ⟨elc, erep, ein, eg, eb, -, -⟩ := atIssue_repeat d key
  obtain ⟨og, ob⟩ := atIssue_fillOperands hl ho
  have hgn : (d.atIssue key).gNow 0 = (d.core key).gNow 0 := by rw [Core.gNow, eg, Core.gNow]
  have hbn : (d.atIssue key).bNow 1 = (d.core key).bNow 1 := by rw [Core.bNow, eb, Core.bNow]
  obtain ⟨cost, hs⟩ := string_fill (c := d.atIssue key) (lane := isLane key) (d.nextPc key) ho (by rw [erep, ein]; exact hrep)
    (by rw [elc]; exact hlc) (atIssue_farLoad hr) (og.trans hgn.symm) (ob.trans hbn.symm)
    (by rw [hbn]; exact Core.place_near _ _ ha hb)
  exact coreStep_string hon hr h2 ho rfl hh hs ((fillEnds_stopped _ _ _).trans (atIssue_stopped' hr))

/-- The instruction at the PC depends on the PC and on program memory alone, when no word of it has changed and no loop is captured. -/
theorem nextRi_congr {d e : Dev} (hpc : (e.core key).pc = (d.core key).pc) (hm : (e.core key).pmem = (d.core key).pmem)
    (hd : (d.core key).stale = []) (he : (e.core key).stale = []) (hl : (e.core key).loop = (d.core key).loop) : e.nextRi key = d.nextRi key := by
  have hc : ∀ (s : Dev) (c : Core), c.stale = [] → (s.staleChoice c).1 = 0 := by
    intro s c h
    rw [Dev.staleChoice, h]
    rfl
  unfold Machine.Dev.nextRi Core.current Core.fetch
  rw [hc _ _ hd, hc _ _ he, hpc, hm, hd, he, hl]

theorem capture_off (c : Core) (lane : Bool) (choice : Nat) (i : Ri) (h : ¬(c.loop.phase = 1)) : c.capture lane choice i = c := if_neg h

theorem atIssue_loop (hl : (d.core key).loop = LoopBuf.reset) : (d.atIssue key).loop = LoopBuf.reset ∧ (d.atIssue key).stale = (d.core key).stale ∧
    (d.atIssue key).pmem = (d.core key).pmem ∧ (d.atIssue key).pc = (d.core key).pc ∧ (d.atIssue key).halted = false := by
  have h1 : ¬((d.core key).loop.phase = 1) := by
    rw [hl]
    exact Nat.zero_ne_one
  have e : d.atIssue key = { ((d.core key).reach ((d.core key).issue (isLane key) (d.nextRi key)).1).settle with
      entry := none, halted := false } := by
    unfold Machine.Dev.atIssue
    exact capture_off _ _ _ _ h1
  rw [e]
  exact ⟨hl, rfl, rfl, rfl, rfl⟩

theorem filledOnce_frame (c : Core) (n : Nat) :
    let r := c.filledOnce n
    r.pc = c.pc ∧ r.pmem = c.pmem ∧ r.stale = c.stale ∧ r.loop = c.loop ∧ r.stopped = c.stopped ∧ r.farLoad = c.farLoad ∧ r.halted = c.halted :=
  ⟨rfl, rfl, rfl, rfl, rfl, rfl, rfl⟩

/-- A core that goes on with its fill is ready for the next element. -/
theorem Filling.next {i : Ri} {e : Dev} {free : Nat} {slot : Option Slot} (h : Filling d key i) (ho : OnlyCore key d e)
    (hk : e.core key = { (d.atIssue key).filledOnce i.size with rep := 0, inRep := true, free := free, slot := slot }) :
    Filling e key i ∧ e.nextPc key = d.nextPc key := by
  obtain ⟨hon, hr, -, -, hstale, hloop, hi, -⟩ := h
  obtain ⟨l1, l2, l3, l4, l5⟩ := atIssue_loop hloop
  obtain ⟨f1, f2, f3, f4, f5, f6, f7⟩ := filledOnce_frame (d.atIssue key) i.size
  have hstop := f5.trans (atIssue_stopped' hr)
  have hfar := f6.trans (atIssue_farLoad hr)
  generalize (d.atIssue key).filledOnce i.size = r at *
  have hpc : (e.core key).pc = (d.core key).pc := by rw [hk]; exact f1.trans l4
  have hst : (e.core key).stale = [] := by rw [hk]; exact f3.trans (l2.trans hstale)
  have hlp : (e.core key).loop = LoopBuf.reset := by rw [hk]; exact f4.trans l1
  have hri : e.nextRi key = i := by
    rw [← hi]
    refine nextRi_congr hpc ?_ hstale hst (hlp.trans hloop.symm)
    rw [hk]
    exact f2.trans l3
  have hruns : (e.core key).runs = true := by
    rw [hk]
    simp [Core.runs, hstop, hfar, f7, l5]
  refine ⟨⟨?_, hruns, Or.inr (by rw [hk]), by rw [hk]; exact Nat.zero_ne_add_one 1, hst, hlp, hri, Or.inl (by rw [hk])⟩, ?_⟩
  · rw [ho.1]
    exact hon
  · unfold Machine.Dev.nextPc
    rw [hri, hi, hpc]

/-- A fill of `k` elements has ended. -/
def FillDone (d : Dev) (key : Nat) (i : Ri) (k : Nat) (e : Dev) : Prop :=
  let c := d.core key
  let b := (c.bNow 1).toNat
  (e.core key).lc = 0 ∧ (e.core key).pc = d.nextPc key ∧ (e.core key).rep = 0 ∧ (e.core key).inRep = false ∧
  ((e.core key).bNow 1).toNat = b + k * i.size ∧ (e.core key).g = c.g ∧
  (∀ j < k * i.size, Tab.get 0 (e.core key).dmem (b + j) = BitVec.ofNat 8 ((c.gNow 0).toNat / 2 ^ (8 * (j % i.size)))) ∧
  (∀ x, ¬(b ≤ x ∧ x < b + k * i.size) → Tab.get 0 (e.core key).dmem x = Tab.get 0 c.dmem x) ∧ OnlyCore key d e

theorem onlyCore_trans {d e f : Dev} (h : OnlyCore key d e) (h' : OnlyCore key e f) : OnlyCore key d f := by
  obtain ⟨h1, h2⟩ := h
  obtain ⟨h3, h4⟩ := h'
  refine ⟨?_, fun k hk => (h4 k hk).trans (h2 k hk)⟩
  rw [h1] at h3
  exact h3

/-- One element of a fill: what the core then holds. -/
theorem filledOnce_holds (d : Dev) (key n : Nat) (hb : ((d.core key).bNow 1).toNat + n < 2 ^ 32) :
    let c := d.core key
    let r := (d.atIssue key).filledOnce n
    let b := (c.bNow 1).toNat
    r.lc = c.lc - 1 ∧ r.g = c.g ∧ (r.bNow 1).toNat = b + n ∧
    (∀ j < n, Tab.get 0 r.dmem (b + j) = BitVec.ofNat 8 ((c.gNow 0).toNat / 2 ^ (8 * j))) ∧
    ∀ x, ¬(b ≤ x ∧ x < b + n) → Tab.get 0 r.dmem x = Tab.get 0 c.dmem x := by
  intro c r b
  obtain ⟨elc, -, -, eg, eb, ed, -⟩ := atIssue_repeat d key
  have hgn : (d.atIssue key).gNow 0 = c.gNow 0 := by rw [Core.gNow, eg, Core.gNow]
  have hbn : (d.atIssue key).bNow 1 = c.bNow 1 := by rw [Core.bNow, eb, Core.bNow]
  obtain ⟨h1, h2⟩ := get_setMany_leBytes c.dmem b (c.gNow 0).toNat n
  have hd : r.dmem = Tab.setMany 0 c.dmem b (leBytes (c.gNow 0).toNat n) := by
    have : r.dmem = Tab.setMany 0 (d.atIssue key).dmem ((d.atIssue key).bNow 1).toNat (leBytes ((d.atIssue key).gNow 0).toNat n) := rfl
    rw [this, hgn, hbn, ed]
  refine ⟨congrArg (· - 1) elc, eg, ?_, fun j hj => ?_, fun x hx => ?_⟩
  · rw [filledOnce_bNow, hbn]
    exact toNat_add_ofNat hb
  · rw [hd]
    exact h1 j hj
  · rw [hd]
    exact h2 x hx

theorem toNat_sub_one {v : Word} (h : v ≠ 0) : (v - 1).toNat = v.toNat - 1 := by
  have hv : v.toNat ≠ 0 := fun e => h (BitVec.eq_of_toNat_eq e)
  have hlt := v.isLt
  rw [BitVec.toNat_sub, show (1 : Word).toNat = 1 from rfl]
  omega

theorem fill_inside {b n : Nat} (ha : b % n = 0) (hb : b + n ≤ 0x10000) : b < 0x10000 := by
  rcases Nat.eq_zero_or_pos n with rfl | hn
  · rw [Nat.mod_zero] at ha
    omega
  · omega

/-- A fill of spur data memory runs to LC 0 (13 R473). -/
theorem coreString_fill {i : Ri} (hl : isLane key = false) (ho : i.op = .fils) (k : Nat) : ∀ {d : Dev} {n : Nat}, Filling d key i →
    (d.core key).lc.toNat = k + 1 → k + 1 ≤ n → ((d.core key).bNow 1).toNat % i.size = 0 →
    ((d.core key).bNow 1).toNat + (k + 1) * i.size ≤ 0x10000 → FillDone d key i (k + 1) (d.coreString key .fils n) := by
  induction k with
  | zero =>
    intro d n h hlc hn ha hb
    rw [Nat.zero_add, Nat.one_mul] at hb
    have hne : (d.core key).lc ≠ 0 := fun e => by rw [e] at hlc; simp at hlc
    obtain ⟨honly, free, slot, hk⟩ := coreStep_fill h hl ho hne ha (fill_inside ha hb)
    obtain ⟨r1, r2, r3, r4, r5⟩ := filledOnce_holds d key i.size (by omega)
    have hz : ((d.atIssue key).filledOnce i.size).lc = 0 := by
      rw [r1]
      exact BitVec.eq_of_toNat_eq (by rw [toNat_sub_one hne, hlc]; rfl)
    rw [Machine.Core.fillEnds, if_pos hz] at hk
    rw [coreString_one (by omega) (by rw [hk])]
    unfold FillDone
    rw [hk, Nat.zero_add, Nat.one_mul]
    exact ⟨hz, rfl, rfl, rfl, r3, r2, fun j hj => by rw [Nat.mod_eq_of_lt hj]; exact r4 j hj, r5, honly⟩
  | succ k ih =>
    intro d n h hlc hn ha hb
    have hne : (d.core key).lc ≠ 0 := fun e => by rw [e] at hlc; simp at hlc
    have hsplit : (k + 1 + 1) * i.size = i.size + (k + 1) * i.size := by ring
    obtain ⟨honly, free, slot, hk⟩ := coreStep_fill h hl ho hne ha (fill_inside ha (by omega))
    obtain ⟨r1, r2, r3, r4, r5⟩ := filledOnce_holds d key i.size (by omega)
    have hlc' : ((d.atIssue key).filledOnce i.size).lc.toNat = k + 1 := by
      rw [r1, toNat_sub_one hne, hlc]
      rfl
    have hz : ((d.atIssue key).filledOnce i.size).lc ≠ 0 := fun e => by rw [e] at hlc'; simp at hlc'
    rw [Machine.Core.fillEnds, if_neg hz] at hk
    obtain ⟨hnext, hpc⟩ := h.next honly hk
    obtain ⟨n, rfl⟩ : ∃ n', n = n' + 1 := ⟨n - 1, by omega⟩
    have hstr : d.coreString key .fils (n + 1) = (d.coreStep key .fils).coreString key .fils n := if_pos (by rw [hk])
    have hb1 : (((d.coreStep key .fils).core key).bNow 1).toNat = ((d.core key).bNow 1).toNat + i.size := by rw [hk]; exact r3
    have hdone := ih (n := n) hnext (by rw [hk]; exact hlc') (by omega) (by rw [hb1, Nat.add_mod_right]; exact ha) (by rw [hb1]; omega)
    rw [hstr]
    obtain ⟨d1, d2, d3, d4, d5, d6, d7, d8, d9⟩ := hdone
    have hg : ((d.coreStep key .fils).core key).g = (d.core key).g := by rw [hk]; exact r2
    have hm : ((d.coreStep key .fils).core key).dmem = ((d.atIssue key).filledOnce i.size).dmem := by rw [hk]
    have hg0 : ((d.coreStep key .fils).core key).gNow 0 = (d.core key).gNow 0 := by rw [Core.gNow, hg, Core.gNow]
    rw [hb1] at d5 d7 d8
    rw [hg0] at d7
    rw [hm] at d8
    refine ⟨d1, d2.trans hpc, d3, d4, by rw [d5, hsplit, Nat.add_assoc], d6.trans hg, fun j hj => ?_, fun x hx => ?_, onlyCore_trans honly d9⟩
    · by_cases hjn : j < i.size
      · rw [d8 _ (by omega), r4 j hjn, Nat.mod_eq_of_lt hjn]
      · obtain ⟨j, rfl⟩ := Nat.exists_eq_add_of_le (Nat.le_of_not_lt hjn)
        rw [← Nat.add_assoc, d7 j (by omega), Nat.add_mod_left]
    · rw [d8 x (by omega), r5 x (by omega)]

end

/-- Settles O49: without REP each string is one element; under REP the element either does not happen, with LC 0, or happens LC times. -/
theorem ridgeStrings : Obligations.RidgeStrings := by
  refine ⟨fun d key m => ⟨gives_movs m, gives_fils m, gives_scns m, gives_macm m, gives_macmu m⟩, ?_⟩
  intro d key m hp hon hr h1 hn i c hh
  refine ⟨fun hlc row hrow ho => ?_, fun hl hstale hloop ho hpos hm ha hb => ?_⟩
  · fin_cases hrow <;> exact gives_repZero (m := m) (fun _ => rfl) rfl hp hon hr h1 hh ho hlc
  · refine gives_of_onDev (·.coreString key .fils (max m 1)) (fun _ => rfl) hp ?_
    obtain ⟨k, hk⟩ : ∃ k, c.lc.toNat = k + 1 := ⟨c.lc.toNat - 1, by omega⟩
    have hfill : Filling d key i := ⟨hon, hr, Or.inl h1, by omega, hstale, hloop, rfl, Or.inr hh⟩
    rw [hk] at hb hm ⊢
    exact coreString_fill hl ho k hfill hk (by omega) ha hb

end Sys2Proof
end

section
/-! SUPPORT. Interrupts, imprecise traps, far accesses, stops and kernels of the cores, and the statement about them (12 R430, R431;
13 R476, R477; 14 R500, R508 to R512). -/

namespace Sys2Proof

open Machine

/-! ### Queues and chunks -/

theorem queue_updQ (s : Dev) (k j : Nat) (f : Queue → Queue) : (s.updQ k f).queue j = if j = k then f (s.queue k) else s.queue j :=
  Tab.get_set _ _ _ _ _

theorem cmdOf_updCmd (s : Dev) (k j : Nat) (f : Cmd → Cmd) : (s.updCmd k f).cmdOf j = if j = k then (s.cmdOf k).map f else s.cmdOf j := by
  unfold Dev.cmdOf Dev.updCmd
  rw [queue_updQ]
  split
  · cases (s.queue k).run <;> rfl
  · rfl

/-- A chunk that ends with a status gives it to its command, unless one came before (07 R242). -/
theorem chunkOver_fail (c : Cmd) (i : Inst) {b : Busy} {x : Nat × Nat} (h : b.fail = some x) : (c.chunkOver i b).fail = some (c.fail.getD x) := by
  unfold Cmd.chunkOver
  rw [h]
  dsimp only
  split
  · simp
  · rfl

theorem lostWrite_queues (s : Dev) (b : Busy) : (s.lostWrite b).queues = s.queues ∧ (s.lostWrite b).engines = s.engines := by
  obtain ⟨x, hx⟩ := lostWrite_eq s b
  rw [hx]
  exact ⟨rfl, rfl⟩

/-- A chunk killed on its instance fails its command (17 R623). -/
theorem killChunk_fail {s : Dev} {i : Inst} {b : Busy} {cmd : Cmd} (st detail : Nat) (hb : (Tab.get Engine.reset s.engines i.key).busy = some b)
    (hc : s.cmdOf b.queue = some cmd) (hout : ⟨b.chunk, i⟩ ∈ cmd.out) :
    ∃ cmd', (s.killChunk i st detail).cmdOf b.queue = some cmd' ∧ cmd'.fail = some (cmd.fail.getD (st, detail)) := by
  obtain ⟨x, hx⟩ := lostWrite_eq s b
  have howns : ({ s with scree := x } : Dev).ownsChunk i b = true := by
    have hc' : ({ s with scree := x } : Dev).cmdOf b.queue = some cmd := hc
    rw [Dev.ownsChunk, hc', Option.any_some, List.any_eq_true]
    exact ⟨_, hout, by simp⟩
  have hb' : (Tab.get Engine.reset ({ s with scree := x } : Dev).engines i.key).busy = some b := hb
  have hk : s.killChunk i st detail = (({ s with scree := x } : Dev).freeInst i b 0).updCmd b.queue
      fun c => c.chunkOver i { b with fail := some (st, detail), cut := false } := by
    rw [Dev.killChunk, hb, Option.elim_some, hx, Dev.overWith, hb']
    exact if_pos howns
  refine ⟨cmd.chunkOver i { b with fail := some (st, detail), cut := false }, ?_, chunkOver_fail cmd i rfl⟩
  rw [hk, cmdOf_updCmd, if_pos rfl]
  exact congrArg (Option.map _) hc

/-! ### Levels and lines -/

theorem ipl_setIpl (c : Core) {v : Nat} (hv : v < 32) : (c.setIpl v).ipl = v := by
  have h : putBits c.st.toNat 8 5 v < 2 ^ 32 := by
    refine Nat.lt_pow_two_of_testBit _ fun j hj => ?_
    rw [testBit_putBits, if_neg (by omega)]
    exact Nat.testBit_lt_two_pow (lt_of_lt_of_le c.st.isLt (Nat.pow_le_pow_right (by decide) hj))
  rw [Core.ipl, Core.setIpl, BitVec.toNat_ofNat, Nat.mod_eq_of_lt h, bitsOf_putBits_same]
  exact Nat.mod_eq_of_lt hv

theorem ipl_setFlag (c : Core) {i : Nat} (v : Bool) (hi : i < 8) : (c.setFlag i v).ipl = c.ipl := by
  rw [Core.ipl, Core.setFlag, BitVec.toNat_ofNat, bitsOf_mod _ 32 8 5 (by decide), bitsOf_putBits_above _ _ _ _ _ _ (by omega)]
  rfl

theorem bitAt_setBit (v i n : Nat) : bitAt (setBit v i) n = if n = i then true else bitAt v n := bitAt_putBits_one v i n true

theorem bitAt_clearBit (v i n : Nat) : bitAt (clearBit v i) n = if n = i then false else bitAt v n := bitAt_putBits_one v i n false

theorem bestLine_lt {c : Core} {ipl n : Nat} (h : c.bestLine ipl = some n) : n < 16 := by
  have hm := List.mem_of_find?_eq_some h
  simpa using hm

/-- What is left of a core whose line `n` has been entered. -/
theorem lineTaken_eq {r : Core} (hs : r.stopped = false) {n : Nat} (hn : n < 16) (old at_ : Nat) :
    (∃ st lines, r.lineTaken n old at_ = { r with st := st, lines := lines, halted := false, entry := some ⟨old, n, at_⟩ }) ∧
    (r.lineTaken n old at_).ipl = n + 1 ∧
    ∀ l, bitAt (r.lineTaken n old at_).lines l = if l = n ∧ n < 8 then false else bitAt r.lines l := by
  have e : r.lineTaken n old at_ = { (r.setIpl (n + 1)).setFlag fRPT false with
      lines := if n < 8 then clearBit r.lines n else r.lines, halted := false, entry := some ⟨old, n, at_⟩ } := if_neg (by simp [hs])
  refine ⟨⟨_, _, e⟩, ?_, fun l => ?_⟩
  · rw [e]
    exact (ipl_setFlag _ false (by decide)).trans (ipl_setIpl r (by omega))
  · rw [e]
    dsimp only
    by_cases h8 : n < 8
    · rw [if_pos h8, bitAt_clearBit]
      simp [h8]
    · rw [if_neg h8, if_neg (fun h => h8 h.2)]

end Sys2Proof
end

section
/-! SUPPORT. The events of the cores, one by one (12 R430, R431; 13 R476, R477; 14 R500, R508 to R512). -/

namespace Sys2Proof

open Machine

section
variable {d : Dev} {key : Nat}

theorem onlyCore_set (d : Dev) (key : Nat) (c : Core) : OnlyCore key d (d.setCore key c) := ⟨rfl, fun _ hk => Dev.core_setCore_ne _ _ hk⟩

theorem gives_interruptEntry (hp : Powered d) {levels n : Nat} (hon : d.coreOn key = true) (hl : isLane key = false) :
    let c := d.core key
    let c0 := c.seeLevels levels
    c0.boundary key = true → c.errs = [] → c0.bestLine c0.ipl = some n → HasFrame c0 → Gives (.interruptEntry key levels) d fun e =>
      FramePushed (16 + n) c.pc c0.frameSt c0 (e.core key) ∧ (e.core key).ipl = n + 1 ∧ (e.core key).halted = false ∧
      (∀ l < 16, bitAt (e.core key).lines l = if l = n ∧ n < 8 then false else bitAt c0.lines l) ∧
      (e.core key).entry = some ⟨c0.ipl, n, c.free⟩ ∧ OnlyCore key d e := by
  intro c c0 hb he hbest hf
  have hn := bestLine_lt hbest
  have hstop : c0.stopped = false := by
    simp only [Core.boundary, Bool.and_eq_true, Bool.not_eq_true'] at hb
    obtain ⟨⟨⟨⟨⟨hs, -⟩, -⟩, -⟩, -⟩, -⟩ := hb
    exact hs
  have hpush := entered_pushed hf (16 + n) c.pc c0.frameSt
  have hent : c0.enter false (16 + n) c.pc c0.frameSt = c0.entered (16 + n) c.pc c0.frameSt := enter_eq hf _ _ _
  have hlines : (c0.entered (16 + n) c.pc c0.frameSt).lines = c0.lines := rfl
  have hes : (c0.entered (16 + n) c.pc c0.frameSt).stopped = false := hstop
  obtain ⟨r, hr⟩ : ∃ r, c0.entered (16 + n) c.pc c0.frameSt = r := ⟨_, rfl⟩
  rw [hr] at hpush hent hlines hes
  obtain ⟨⟨st, lines, ht⟩, hipl, hbits⟩ := lineTaken_eq hes hn c0.ipl c0.free
  have htake : c0.takeLine n = r.lineTaken n c0.ipl c0.free := (takeLine_eq c0 n).trans (congrArg (fun r => Core.lineTaken r n c0.ipl c0.free) hent)
  have hd : d.irqEntry key levels = d.setCore key (r.lineTaken n c0.ipl c0.free) := by
    have hq := Dev.coreMoved_quiet d key c0 (c' := r.lineTaken n c0.ipl c0.free) fun h => by rw [ht] at h; exact absurd (hes.symm.trans h) (by simp)
    refine (if_neg (by simp [hon, hl])).trans ((if_neg ?_).trans ?_)
    · rw [show c0.boundary key = true from hb, show c0.errs = [] from he]
      simp
    · rw [← hq, ← htake]
      change (match c0.bestLine c0.ipl with | some n => d.coreMoved key c0 (c0.takeLine n) | none => d.setCore key c0) = _
      rw [hbest]
  refine gives_of_onDev (·.irqEntry key levels) (fun _ => rfl) hp ?_
  rw [hd, Dev.core_setCore_same]
  refine ⟨?_, hipl, by rw [ht], fun l _ => (hbits l).trans (by rw [hlines]), by rw [ht]; rfl, onlyCore_set _ _ _⟩
  rw [ht]
  exact hpush

theorem gives_interruptTakeover (hp : Powered d) {levels b m : Nat} {x : CoreEntry} (hon : d.coreOn key = true) (hl : isLane key = false) :
    let c := d.core key
    let c0 := c.seeLevels levels
    c.entry = some x → c0.bestLine x.ipl = some m → x.line < m → m < 16 → b ≤ 3 → Gives (.interruptTakeover key levels b) d fun e =>
      (e.core key).pc = ((c.ctlAt 3).toNat + 2 * (16 + m)) % 16384 ∧ (e.core key).ipl = m + 1 ∧
      (e.core key).entry = some ⟨x.ipl, m, x.cyc + b + 1⟩ ∧ (e.core key).b = c.b ∧ (e.core key).dmem = c.dmem ∧
      (∀ l < 16, bitAt (e.core key).lines l =
        if l = m ∧ m < 8 then false else if l = x.line ∧ l < 8 then true else bitAt c0.lines l) ∧ OnlyCore key d e := by
  intro c c0 hx hbest hlt hm hb3
  let pc := ((c0.ctlAt 3).toNat + 2 * (16 + m)) % 16384
  let lines := if x.line < 8 then setBit c0.lines x.line else c0.lines
  let c' : Core := { c0.setIpl (m + 1) with
    pc := pc
    lines := if m < 8 then clearBit lines m else lines
    entry := some { x with line := m, cyc := x.cyc + b + 1 }
    free := x.cyc + b + 5
    winEnd := pc / 4 * 4 + 4
    winCyc := x.cyc + b + 5 }
  have hd : d.irqTakeover key levels b = d.setCore key c' := by
    refine (if_neg (by simp [hon, hl])).trans ?_
    change (match c.entry with | none => d.setCore key c0 | some e => match c0.bestLine e.ipl with | none => _ | some m => _) = _
    rw [hx]
    dsimp only
    rw [hbest]
    exact if_neg (by omega)
  refine gives_of_onDev (·.irqTakeover key levels b) (fun _ => rfl) hp ?_
  rw [hd, Dev.core_setCore_same]
  refine ⟨rfl, ipl_setIpl c0 (by omega), rfl, rfl, rfl, fun l _ => ?_, onlyCore_set _ _ _⟩
  have hlines : bitAt lines l = if l = x.line ∧ l < 8 then true else bitAt c0.lines l := by
    by_cases h8 : x.line < 8
    · rw [show lines = setBit c0.lines x.line from if_pos h8, bitAt_setBit]
      by_cases hx : l = x.line
      · rw [if_pos hx, if_pos ⟨hx, by omega⟩]
      · rw [if_neg hx, if_neg (fun h => hx h.1)]
    · rw [show lines = c0.lines from if_neg h8, if_neg (by omega)]
  change bitAt (if m < 8 then clearBit lines m else lines) l = _
  by_cases h8 : m < 8
  · rw [if_pos h8, bitAt_clearBit, hlines]
    simp [h8]
  · rw [if_neg h8, if_neg (fun h => h8 h.2), hlines]

theorem gives_impreciseTrap (hp : Powered d) {vec eff : Nat} {l : List (Nat × Nat)} (hon : d.coreOn key = true) (hl : isLane key = false) :
    let c := d.core key
    c.stopped = false → c.farLoad = none → c.inRep = false → c.rep = 0 → c.errs = (vec, eff) :: l → HasFrame c →
    Gives (.impreciseTrap key) d fun e =>
      FramePushed vec c.pc c.frameSt c (e.core key) ∧ (e.core key).errs = l ∧ (e.core key).halted = false ∧
      (e.core key).ctlAt 12 = BitVec.ofNat 32 eff ∧ (e.core key).ctlAt 13 = BitVec.ofNat 32 (2 * vec + 1) ∧ OnlyCore key d e := by
  intro c hs hfar hin hrep he hf
  have hf1 : HasFrame { c with errs := l, halted := false } := hasFrame_congr (c := c) rfl rfl rfl hf
  obtain ⟨hpush, -, -, h12, herr, hhalt⟩ := trapTo_frame hl hf1 vec c.pc (some eff)
  obtain ⟨r, hr⟩ : ∃ r, ({ c with errs := l, halted := false } : Core).trapTo key vec c.pc (some eff) = r := ⟨_, rfl⟩
  rw [hr] at hpush h12 herr hhalt
  have hstop : r.stopped = false := by
    obtain ⟨-, -, -, -, -, -, -, -, -, -, -, -, hst⟩ := hpush
    exact hst.trans hs
  have hd : d.imprecise key = d.setCore key (r.setCtl 13 (BitVec.ofNat 32 (2 * vec + 1))) := by
    have hq := Dev.coreMoved_quiet d key c (c' := r.setCtl 13 (BitVec.ofNat 32 (2 * vec + 1))) fun h => absurd (hstop.symm.trans h) (by simp)
    refine (if_neg ?_).trans ?_
    · simp only [hon, show (d.core key).stopped = false from hs, show (d.core key).farLoad = none from hfar,
        show (d.core key).inRep = false from hin, show (d.core key).rep = 0 from hrep, show (d.core key).frameFits = true from hf.fits]
      simp
    · rw [← hq, ← hr]
      change (match c.errs with | [] => d | (vec, eff) :: t => _) = _
      rw [he]
  refine gives_of_onDev (·.imprecise key) (fun _ => rfl) hp ?_
  rw [hd, Dev.core_setCore_same]
  refine ⟨?_, herr, hhalt, ?_, Tab.get_set_same _ _ _ _, onlyCore_set _ _ _⟩
  · exact hpush
  · exact (Tab.get_set_ne _ _ _ _ _ _ (by decide)).trans (h12 eff rfl)

theorem gives_timer (hp : Powered d) (hon : d.coreOn key = true) :
    let c := d.core key
    Gives (.timer key) d fun e =>
      (e.core key).ctlAt 7 = 0 ∧ (e.core key).cyc = c.cyc + (c.ctlAt 7).toNat ∧ (e.core key).pc = c.pc ∧ (e.core key).g = c.g ∧
      OnlyCore key d e := by
  intro c
  let c' := c.reach (c.cyc + (c.ctlAt 7).toNat)
  have hd : d.coreTimer key = d.setCore key { c' with free := max c'.free c'.cyc } := if_neg (by simp [hon])
  refine gives_of_onDev (·.coreTimer key) (fun _ => rfl) hp ?_
  rw [hd, Dev.core_setCore_same]
  refine ⟨(Tab.get_set_same _ _ _ _).trans ?_, rfl, rfl, rfl, onlyCore_set _ _ _⟩
  rw [Nat.add_sub_cancel_left, Nat.sub_self]
  rfl

theorem gives_laneStop (hp : Powered d) (hl : isLane key = true) (hc : isCore key = true) :
    let c := d.core key
    c.invoc ≠ none → c.stopped = false → Gives (.laneStop key) d fun e =>
      e.core key = { c with stopped := true, done := 4 } ∧ OnlyCore key d e := by
  intro c hi hs
  have hd : d.laneStop key = d.setCore key { c with stopped := true, done := 4 } := by
    refine if_pos ?_
    rw [hl, hc, show (d.core key).stopped = false from hs, Option.isSome_iff_ne_none.mpr hi]
    rfl
  refine gives_of_onDev (·.laneStop key) (fun _ => rfl) hp ?_
  rw [hd, Dev.core_setCore_same]
  exact ⟨rfl, onlyCore_set _ _ _⟩

theorem kernelFail_busy {s : Dev} {c : Core} {v : Invocation} {b : Busy} {detail : Nat} (hv : c.invoc = some v)
    (hb : (Tab.get Engine.reset s.engines (laneSlice key).key).busy = some b) (hq : b.queue = v.queue) :
    s.kernelFail key c detail = s.killChunk (laneSlice key) stFAULT detail := by
  rw [Dev.kernelFail, hv, hb]
  exact if_pos hq

theorem gives_kernelLimit (hp : Powered d) (hl : isLane key = true) (hc : isCore key = true) :
    let c := d.core key
    c.overLimit = true → Gives (.kernelLimit key) d fun e =>
      e.core key = { c with stopped := true, done := 3 } ∧
      (∀ v b cmd, c.invoc = some v → (Tab.get Engine.reset d.engines (laneSlice key).key).busy = some b → b.queue = v.queue →
        d.cmdOf b.queue = some cmd → ⟨b.chunk, laneSlice key⟩ ∈ cmd.out → ∃ cmd', e.cmdOf b.queue = some cmd' ∧
        cmd'.fail = some (cmd.fail.getD (stFAULT, dKERNELLIMIT))) ∧
      e.mem = d.mem ∧ e.hostMem = d.hostMem ∧ e.regs = d.regs := by
  intro c hover
  have hd : d.kernelLimit key = (d.setCore key { c with stopped := true, done := 3 }).kernelFail key { c with stopped := true, done := 3 } dKERNELLIMIT :=
    if_pos (by rw [hl, hc, show (d.core key).overLimit = true from hover]; rfl)
  obtain ⟨x, n, p, q, hk⟩ := kernelFail_eq (d.setCore key { c with stopped := true, done := 3 }) key { c with stopped := true, done := 3 } dKERNELLIMIT
  refine gives_of_onDev (·.kernelLimit key) (fun _ => rfl) hp ?_
  rw [hd]
  refine ⟨?_, fun v b cmd hv hb hq hcmd hout => ?_, ?_, ?_, ?_⟩
  · rw [hk]
    exact Dev.core_setCore_same d key _
  · rw [kernelFail_busy (s := d.setCore key { c with stopped := true, done := 3 }) (c := { c with stopped := true, done := 3 }) hv hb hq]
    exact killChunk_fail (s := d.setCore key { c with stopped := true, done := 3 }) _ _ hb hcmd hout
  all_goals
    rw [hk]
    rfl

theorem coreMoved_same (s : Dev) (key : Nat) {c c' : Core} (h : c'.stopped = c.stopped) : s.coreMoved key c c' = s.setCore key c' := by
  unfold Dev.coreMoved
  rw [h]
  cases c.stopped <;> rfl

theorem finishLoad_register (c : Core) (key : Nat) {x : FarLoad} (hk : x.kind = 0) (v : Nat) :
    let c0 : Core := { c with farLoad := none }
    c.finishLoad key x v =
      .go { c0.loaded x.reg x.sign x.size v true with pc := (c0.pc + (c0.current key 0).len) % pmWords false } 1 := by
  obtain ⟨kind, reg, sign, size, eff, addr⟩ := x
  subst hk
  rfl

/-- The data of a far load reach their register (14 R500). -/
theorem gives_farLoadData (hp : Powered d) {part lat : Nat} {x : FarLoad} {v : Nat} {s : Dev} (hon : d.coreOn key = true) :
    let c := d.core key
    c.farLoad = some x → x.kind = 0 → x.reg < 12 →
    d.farWords key part c.posted [(x.addr, x.size)] = (.data v, s) → x.size ≠ 8 → s.core key = c →
    Gives (.farLoadData key part lat false) d fun e =>
      let w : Word := if x.sign then BitVec.ofInt 32 (sext v (8 * x.size)) else BitVec.ofNat 32 v
      (e.core key).farLoad = none ∧
      (∀ n < 8, (e.core key).gNow n = if n = x.reg then w else c.gNow n) ∧
      (∀ n < 4, (e.core key).bNow n = if n + 8 = x.reg then w else c.bNow n) ∧
      (e.core key).dmem = c.dmem ∧ e = { s with cores := e.cores } := by
  intro c hx hkind hreg hwords hsize hs
  obtain ⟨c0, hc0⟩ : ∃ c0 : Core, { c.reach (c.cyc + lat) with farLoad := none } = c0 := ⟨_, rfl⟩
  obtain ⟨next, hn⟩ : ∃ next, (c0.pc + (c0.current key 0).len) % pmWords false = next := ⟨_, rfl⟩
  have hfin : (c.reach (c.cyc + lat)).finishLoad key x v = .go { c0.loaded x.reg x.sign x.size v true with pc := next } 1 := by
    rw [finishLoad_register _ _ hkind, ← hn, ← hc0]
  obtain ⟨hist, hl⟩ := loaded_eq c0 x.reg x.sign x.size v true
  have hregs := loaded_regs c0 x.reg x.sign x.size v true
  generalize c0.loaded x.reg x.sign x.size v true = r at *
  have hstop : r.stopped = c.stopped := by
    rw [hl, ← hc0]
    rfl
  have hd : d.farData key part lat false = s.setCore key { r with pc := next, free := r.cyc + 1, slot := none } := by
    refine (if_neg (by simp [hon])).trans ?_
    change (match c.farLoad with | none => d | some l => _) = _
    rw [hx]
    dsimp only
    rw [if_neg Bool.false_ne_true, if_neg hsize, hwords]
    dsimp only
    rw [hfin]
    exact coreMoved_same s key hstop
  refine gives_of_onDev (·.farData key part lat false) (fun _ => rfl) hp ?_
  rw [hd, Dev.core_setCore_same]
  have hg : ∀ n, c0.gNow n = c.gNow n ∧ c0.bNow n = c.bNow n := fun n => by
    rw [← hc0]
    exact ⟨rfl, rfl⟩
  refine ⟨?_, fun n hn8 => ((hregs n).1.trans ?_), fun n hn4 => ((hregs n).2.trans ?_), ?_, rfl⟩
  · rw [hl, ← hc0]
  · rw [(hg n).1]
    exact if_congr (by omega) rfl rfl
  · rw [(hg n).2]
    exact if_congr (by omega) rfl rfl
  · rw [hl, ← hc0]
    rfl

theorem gives_farStoreError (hp : Powered d) (part : Nat) {x : FarStore} {l : List FarStore} (hc : isCore key = true)
    (hx : (d.core key).posted = x :: l) : Gives (.farStoreComplete key part true) d fun e =>
      e.core key = { d.core key with posted := l, errs := (d.core key).errs ++ [(vBUS, x.eff)] } ∧ OnlyCore key d e := by
  have hd : d.farStored key part true = d.setCore key { d.core key with posted := l, errs := (d.core key).errs ++ [(vBUS, x.eff)] } := by
    rw [Dev.farStored]
    dsimp only
    rw [hx]
    exact (if_neg (by simp [hc])).trans (if_pos rfl)
  refine gives_of_onDev (·.farStored key part true) (fun _ => rfl) hp ?_
  rw [hd, Dev.core_setCore_same]
  exact ⟨rfl, onlyCore_set _ _ _⟩

theorem gives_farStored (hp : Powered d) {part : Nat} {x : FarStore} {l : List FarStore} (hc : isCore key = true)
    (hx : (d.core key).posted = x :: l) {die k : Nat} (hclaim : d.farClaimed (farAcc key part) x.addr = false)
    (hcheck : d.farCheck (farAcc key part) kWrite x.addr = none) (hroute : ∀ off, d.route x.addr ≠ .setup off)
    (ht : d.target (coreDie key) x.addr = .ok (some die, k)) : Gives (.farStoreComplete key part false) d fun e =>
      e = (d.writeSram die k key (if (farAcc key part).level = 0 then some part else none) x.bytes).setCore key
        { d.core key with posted := l } := by
  refine gives_of_onDev (·.farStored key part false) (fun _ => rfl) hp ?_
  rw [Dev.farStored]
  dsimp only
  rw [hx]
  dsimp only
  rw [if_neg (by simp [hc]), if_neg Bool.false_ne_true, if_neg (by simp [hclaim]), hcheck]
  dsimp only
  split
  · next off h => exact absurd h (hroute off)
  · rw [ht]

/-! Sequences of the engines' actions. -/

theorem runAct_ok {α : Type} {x : Act α} {s s' : Dev} {a : α} : runAct x s = (.ok a, s') ↔ x s = .ok a s' := by
  unfold runAct
  split
  · next h => simp [h]
  · next h => simp [h]
  · next h => simp [h]

theorem act_bind {α β : Type} {x : Act α} {f : α → Act β} {s s' : Dev} {a : α} (h : x s = .ok a s') : (x >>= f) s = f a s' := by
  change EStateM.bind x f s = _
  rw [EStateM.bind, h]

theorem act_of_bind {α β : Type} {x : Act α} {f : α → Act β} {s s' : Dev} {b : β} (h : (x >>= f) s = .ok b s') :
    ∃ a e, x s = .ok a e ∧ f a e = .ok b s' := by
  change EStateM.bind x f s = _ at h
  rw [EStateM.bind] at h
  split at h
  · next a e hx => exact ⟨a, e, hx, h⟩
  · cases h

/-- The work of an invocation: its select read, its kernel loaded, its block prepared (12 R430). -/
theorem gives_kernelInvocation (hp : Powered d) {busy : Busy} {q : Sel} {b : KBlock} {s : Dev} (hl : isLane key = true)
    (hon : d.coreOn key = true) (hb : (Tab.get Engine.reset d.engines (laneSlice key).key).busy = some busy)
    (hfree : (d.core key).invoc = none ∨ (d.core key).stopped = true) (hop : busy.cmd.opcode = 0x80)
    (hq : runAct (Sel.parse busy.queue busy.cmd.words) d = (.ok q, d)) (hk : q.kernel ≠ 0) (hpos : busy.cmd.at cPOS < q.i.rows)
    (hw : runAct (do loadKernel busy.queue (coreDie key) q.kernel; q.nextBlock (busy.cmd.at cPOS)) d = (.ok b, s)) :
    Gives (.kernelInvocation busy.queue key) d fun e => e = s.setCore key ((s.core key).invoke busy.queue q.klimit b.slim b.data) := by
  obtain ⟨a, e, hload, hnext⟩ := act_of_bind (runAct_ok.mp hw)
  have hwork : runAct (do
      let q ← Sel.parse busy.queue busy.cmd.words
      if q.kernel = 0 ∨ q.i.rows ≤ busy.cmd.at cPOS then pure none
      else
        loadKernel busy.queue (coreDie key) q.kernel
        let b ← q.nextBlock (busy.cmd.at cPOS)
        pure (some (q, b))) d = (.ok (some (q, b)), s) := by
    refine runAct_ok.mpr ((act_bind (runAct_ok.mp hq)).trans ?_)
    rw [if_neg (by omega)]
    exact (act_bind hload).trans (act_bind hnext)
  refine gives_of_onDev (·.kernelInvoke busy.queue key) (fun _ => rfl) hp ?_
  have hopc : bitsOf (wordAt busy.cmd.words 0) 0 8 = 0x80 := hop
  unfold Dev.kernelInvoke
  dsimp only
  rw [hb]
  dsimp only
  rw [if_neg ?_, hwork]
  rcases hfree with h | h <;> simp [hl, hon, hopc, h]

end

/-- Settles O51: each event, in the state that the statement describes, comes to one core set, or to the work that is named. -/
theorem coreEvents : Obligations.CoreEvents := by
  intro d key hp c
  exact ⟨fun _ _ hon hl => gives_interruptEntry hp hon hl, fun _ _ _ _ hon hl => gives_interruptTakeover hp hon hl,
    fun _ _ _ hon hl => gives_impreciseTrap hp hon hl, fun _ _ _ _ _ hon => gives_farLoadData hp hon,
    fun part x l hc hx => ⟨gives_farStoreError hp part hc hx, fun _ _ => gives_farStored hp hc hx⟩, gives_timer hp,
    fun hl hc => ⟨gives_laneStop hp hl hc, gives_kernelLimit hp hl hc⟩, fun _ _ _ _ hl hon hb hfree => gives_kernelInvocation hp hl hon hb hfree⟩

end Sys2Proof
end

section
/-! SUPPORT. Reading a field from a chain of writes: each write either put that field or lies apart from it. -/

namespace Sys2Proof.Machine

open Sys2Proof

/-- The field `g` at the indexes `jx` shares no bit with `f` at `ix`. -/
def Fld.apart (f : Fld) (ix : List Nat) (g : Fld) (jx : List Nat) : Bool :=
  (decide (g.off jx ≠ f.off ix) || decide (g.lo + g.w ≤ f.lo) || decide (f.lo + f.w ≤ g.lo)) && decide (g.lo + g.w ≤ 32)

theorem getR_putR_apart (t : Tab Word) {f g : Fld} {ix jx : List Nat} (v : Nat) (h : Fld.apart f ix g jx = true) :
    getR (putR t f ix v) g jx = getR t g jx := by
  simp only [Fld.apart, Bool.and_eq_true, Bool.or_eq_true, decide_eq_true_eq] at h
  obtain ⟨h, hg⟩ := h
  by_cases ho : g.off jx = f.off ix
  · exact getR_putR_disjoint _ _ _ _ _ _ ho (by tauto) hg
  · exact getR_putR_ne _ _ _ _ _ _ ho

/-- A field whose value fits reads back as it was put. -/
theorem getR_putR_fit (t : Tab Word) {f : Fld} {ix : List Nat} {v : Nat} (hw : f.lo + f.w ≤ 32) (hv : v < 2 ^ f.w) :
    getR (putR t f ix v) f ix = v := by
  rw [getR_putR_same _ _ _ _ hw, Nat.mod_eq_of_lt hv]

theorem getR_lt (t : Tab Word) (f : Fld) (ix : List Nat) : getR t f ix < 2 ^ f.w := bitsOf_lt _ _ _

theorem Dev.get_put_apart (s : Dev) {f g : Fld} {ix jx : List Nat} (v : Nat) (h : Fld.apart f ix g jx = true) :
    (s.put f ix v).get g jx = s.get g jx := getR_putR_apart _ _ h

theorem Dev.get_put0_apart (s : Dev) {f g : Fld} {jx : List Nat} (v : Nat) (h : Fld.apart f [] g jx = true) :
    (s.put0 f v).get g jx = s.get g jx := getR_putR_apart _ _ h

theorem Dev.get_put64_apart (s : Dev) {lo hi g : Fld} {ix jx : List Nat} (v : Nat) (hl : Fld.apart lo ix g jx = true)
    (hh : Fld.apart hi ix g jx = true) : (s.put64 lo hi ix v).get g jx = s.get g jx := by
  unfold Dev.put64
  rw [Dev.get_put_apart _ _ hh, Dev.get_put_apart _ _ hl]

theorem Dev.get_count_apart (s : Dev) {f g : Fld} {ix jx : List Nat} (h : Fld.apart f ix g jx = true) :
    (s.count f ix).get g jx = s.get g jx := Dev.get_put_apart _ _ h

theorem Dev.get_put0_fit (s : Dev) {f : Fld} {v : Nat} (hw : f.lo + f.w ≤ 32) (hv : v < 2 ^ f.w) : (s.put0 f v).get f = v :=
  getR_putR_fit _ hw hv

theorem Dev.get_put_fit (s : Dev) {f : Fld} {ix : List Nat} {v : Nat} (hw : f.lo + f.w ≤ 32) (hv : v < 2 ^ f.w) :
    (s.put f ix v).get f ix = v := getR_putR_fit _ hw hv

theorem Dev.flag_put0_apart (s : Dev) {f g : Fld} {jx : List Nat} (v : Nat) (h : Fld.apart f [] g jx = true) :
    (s.put0 f v).flag g jx = s.flag g jx := by
  unfold Dev.flag
  rw [Dev.get_put0_apart s v h]

theorem Dev.flag_eq (s : Dev) (f : Fld) (ix : List Nat) : s.flag f ix = (getR s.regs f ix == 1) := rfl

theorem Dev.get64_eq (s : Dev) (lo hi : Fld) (ix : List Nat) :
    s.get64 lo hi ix = getR s.regs lo ix + 2 ^ 32 * getR s.regs hi ix := rfl

theorem Dev.put64_regs (s : Dev) (lo hi : Fld) (ix : List Nat) (v : Nat) :
    (s.put64 lo hi ix v).regs = putR (putR s.regs lo ix v) hi ix (v / 2 ^ 32) := rfl

theorem Dev.count_regs (s : Dev) (f : Fld) (ix : List Nat) :
    (s.count f ix).regs = putR s.regs f ix (min (getR s.regs f ix + 1) (2 ^ f.w - 1)) := rfl

theorem Dev.event_regs (s : Dev) (f en : Fld) (b v : Nat) : (s.event f en b v).regs = (s.put0 f 1).regs := by
  obtain ⟨m, p, h⟩ := s.event_eq f en b v
  rw [h]

theorem Dev.event_cad (s : Dev) (f en : Fld) (b v : Nat) : (s.event f en b v).cad = s.cad := by
  obtain ⟨m, p, h⟩ := s.event_eq f en b v
  rw [h]
  exact s.put0_cad f 1

theorem Dev.event_mem (s : Dev) (f en : Fld) (b v : Nat) : (s.event f en b v).mem = s.mem := by
  obtain ⟨m, p, h⟩ := s.event_eq f en b v
  rw [h]
  exact s.put0_mem f 1

/-- An event's status bit reads 1. -/
theorem Dev.get_event_same (s : Dev) {f : Fld} (en : Fld) (b v : Nat) (hw : f.lo + f.w ≤ 32) (h1 : 1 < 2 ^ f.w) :
    (s.event f en b v).get f = 1 := by
  rw [Dev.get_eq, Dev.event_regs]
  exact Dev.get_put0_fit s hw h1

theorem Dev.get_event_apart (s : Dev) {f g : Fld} {jx : List Nat} (en : Fld) (b v : Nat) (h : Fld.apart f [] g jx = true) :
    (s.event f en b v).get g jx = s.get g jx := by
  rw [Dev.get_eq, Dev.event_regs]
  exact Dev.get_put0_apart s 1 h

theorem Dev.setReg_get_ne (s : Dev) (off : Nat) (w : Word) (g : Fld) (jx : List Nat) (h : g.off jx ≠ off) :
    (s.setReg off w).get g jx = s.get g jx := by
  unfold Dev.get
  rw [Dev.reg_setReg, if_neg h]

/-- A counter counts, up to its largest value. -/
theorem Dev.get_count_same (s : Dev) (f : Fld) (ix : List Nat) (hw : f.lo + f.w ≤ 32) :
    (s.count f ix).get f ix = min (s.get f ix + 1) (2 ^ f.w - 1) := by
  have h : min (s.get f ix + 1) (2 ^ f.w - 1) < 2 ^ f.w := by
    have := Nat.two_pow_pos f.w
    omega
  exact getR_putR_fit _ hw h

/-- A pair of registers reads back what was put, cut to its width. -/
theorem Dev.get64_put64 (s : Dev) {lo hi : Fld} (ix : List Nat) (v : Nat) (hl : lo.lo = 0 ∧ lo.w = 32) (hh : hi.lo + hi.w ≤ 32)
    (hd : Fld.apart hi ix lo ix = true) : (s.put64 lo hi ix v).get64 lo hi ix = v % 2 ^ (32 + hi.w) := by
  obtain ⟨h0, hw⟩ := hl
  rw [Dev.get64_eq, Dev.put64_regs, getR_putR_apart _ _ hd, getR_putR_same _ _ _ _ hh, getR_putR_same _ _ _ _ (by omega), hw,
    pow_add, Nat.mod_mul]

end Sys2Proof.Machine

namespace Sys2Proof

open Machine

theorem onlyFields_put64 {l : List (Fld × List Nat)} {a b : Dev} {lo hi : Fld} {ix : List Nat} (v : Nat) (h : OnlyFields l a b)
    (hl : (lo, ix) ∈ l) (hh : (hi, ix) ∈ l) : OnlyFields l a (b.put64 lo hi ix v) := onlyFields_put _ (onlyFields_put _ h hl) hh

/-! ### What a change of registers leaves alone -/

theorem OnlyRegs.cad {a b : Dev} (h : OnlyRegs a b) : b.cad = a.cad := by
  rw [h]

theorem OnlyRegs.now {a b : Dev} (h : OnlyRegs a b) : b.now = a.now := by
  rw [h]

theorem OnlyRegs.mem {a b : Dev} (h : OnlyRegs a b) : b.mem = a.mem ∧ b.hostMem = a.hostMem := by
  rw [h]
  exact ⟨rfl, rfl⟩

theorem onlyRegs_put64 (s : Dev) (lo hi : Fld) (ix : List Nat) (v : Nat) : OnlyRegs s (s.put64 lo hi ix v) := rfl

/-- Only the register files matter to what fields changed. -/
theorem onlyFields_congr {l : List (Fld × List Nat)} {a a' b b' : Dev} (ha : a'.regs = a.regs) (hb : b'.regs = b.regs)
    (h : OnlyFields l a b) : OnlyFields l a' b' := by
  intro off i hx
  simpa only [Dev.reg, ha, hb] using h off i hx

/-- What some fields' change leaves alone reads as before. -/
theorem OnlyFields.get {l : List (Fld × List Nat)} {a b : Dev} (h : OnlyFields l a b) (g : Fld) (jx : List Nat)
    (hg : ∀ x ∈ l, Fld.apart x.1 x.2 g jx = true) : b.get g jx = a.get g jx := by
  unfold Dev.get bitsOf
  apply Nat.eq_of_testBit_eq
  intro i
  rw [Nat.testBit_mod_two_pow, Nat.testBit_mod_two_pow, Nat.testBit_div_two_pow, Nat.testBit_div_two_pow]
  by_cases hi : i < g.w
  · have hx := h (g.off jx) (g.lo + i) (by
      intro x hx
      have := hg x hx
      simp only [Fld.apart, Bool.and_eq_true, Bool.or_eq_true, decide_eq_true_eq] at this
      omega)
    simp only [BitVec.getLsbD] at hx
    rw [Nat.add_comm i, hx]
  · simp only [decide_eq_false hi, Bool.false_and]

end Sys2Proof
end

section
/-! SUPPORT. The cadence master: issuing a tick, and the strobe of a card unit (03 R73, R84, R92). -/

namespace Sys2Proof

open Machine

/-- A tick issued is noted, falls due LEAD later, and is sent: nothing else happens (03 R76, R84). -/
theorem emitTick_eq (s : Dev) (m : TickMsg) :
    ∃ u d i, s.emitTick m = { s with
      cad := { s.cad with issued := some m, taking := none, due := dueInsert (s.cycle + m.lead, m) s.cad.due }
      chain := { s.chain with txU := u, txD := d }, fab := { s.fab with inject := i } } := by
  unfold Dev.emitTick
  obtain ⟨u, d, i, h⟩ := Dev.sendTick_eq { s with
    cad := { s.cad with issued := some m, taking := none, due := dueInsert (s.cycle + m.lead, m) s.cad.due } } m
  exact ⟨u, d, i, h⟩

/-- The next tick that a master issues after `i` (03 R68, R84). -/
def nextTick (d : Dev) (i : TickMsg) (card : Bool) : TickMsg :=
  let inPhase := decide (i.pos.tick + 1 < i.endT)
  let pos : Pos := if inPhase then ⟨i.pos.step, i.pos.phase, i.pos.tick + 1⟩ else nextPhase i.pos (d.get F.PHASE_LAST)
  { epoch := d.get F.EPOCH, pos := pos, adv := !inPhase, reason := if inPhase then 0 else if d.cad.early then 1 else 2
    fromCard := card, endT := if inPhase then i.endT else d.get F.DEADLINE [pos.phase], delay := 0, lead := d.get F.CAD_LEAD
    master := d.ident }

/-- A master in its run of ticks issues the next one and nothing else. -/
theorem issueTick_next {d : Dev} {i : TickMsg} (card : Bool) (hm : d.isMaster = true) (hh : d.cad.handing = false)
    (hr : d.cad.resign = false) (ht : d.cad.taking = none) (hi : d.cad.issued = some i)
    (hn : ¬(i.endT ≤ i.pos.tick + 1 ∧ 2 ^ 48 - 1 ≤ i.pos.step ∧ d.get F.PHASE_LAST ≤ i.pos.phase)) :
    ∃ x y, d.issueTick card = ({ d with cad := { d.cad with deadT := x, early := y } }).emitTick (nextTick d i card) := by
  have hnot : (!d.isMaster || d.cad.handing) = false := by simp [hm, hh]
  unfold Dev.issueTick
  rw [hnot, ht, hi]
  simp only [Bool.false_eq_true, if_false]
  by_cases hp : i.pos.tick + 1 < i.endT
  · refine ⟨d.cad.deadT, d.cad.early, ?_⟩
    obtain ⟨u, v, w, he⟩ := emitTick_eq d (nextTick d i card)
    simp only [if_pos hp, nextTick, decide_eq_true hp, if_true, Bool.not_true] at he ⊢
    rw [he]
    simp only [hr, Bool.false_eq_true, if_false]
  · rw [if_neg hp, if_neg (show ¬(stepMax ≤ i.pos.step ∧ d.get F.PHASE_LAST ≤ i.pos.phase) by simp only [stepMax]; omega)]
    refine ⟨d.get F.DEADLINE [(nextPhase i.pos (d.get F.PHASE_LAST)).phase], false, ?_⟩
    simp only [nextTick, decide_eq_false hp, Bool.false_eq_true, if_false, Bool.not_false]
    obtain ⟨u, v, w, he⟩ := emitTick_eq { d with cad := { d.cad with
      deadT := d.get F.DEADLINE [(nextPhase i.pos (d.get F.PHASE_LAST)).phase], early := false } } (nextTick d i card)
    simp only [nextTick, decide_eq_false hp, Bool.false_eq_true, if_false, Bool.not_false] at he
    rw [he]
    simp only [hr, Bool.false_eq_true, if_false]

/-- … which is what the statement says of it. -/
theorem issueTick_effect {d : Dev} {i : TickMsg} (card : Bool) (hm : d.isMaster = true) (hh : d.cad.handing = false)
    (hr : d.cad.resign = false) (ht : d.cad.taking = none) (hi : d.cad.issued = some i)
    (hn : ¬(i.endT ≤ i.pos.tick + 1 ∧ 2 ^ 48 - 1 ≤ i.pos.step ∧ d.get F.PHASE_LAST ≤ i.pos.phase)) :
    let e := d.issueTick card
    e.cad = { d.cad with
      issued := some (nextTick d i card), due := dueInsert (d.cycle + d.get F.CAD_LEAD, nextTick d i card) d.cad.due
      deadT := e.cad.deadT, early := e.cad.early } ∧ OnlyCad d e ∧ e.regs = d.regs := by
  obtain ⟨x, y, he⟩ := issueTick_next card hm hh hr ht hi hn
  obtain ⟨u, v, w, he'⟩ := emitTick_eq { d with cad := { d.cad with deadT := x, early := y } } (nextTick d i card)
  intro e
  have hx : e = _ := he.trans he'
  clear_value e
  subst hx
  refine ⟨?_, rfl, rfl⟩
  simp only [← ht]
  rfl

/-- The timer and the strobe each issue the master's tick (03 R73, R84). -/
theorem gives_masterTick {d : Dev} (hp : Powered d) (hm : d.isMaster = true)
    (effect : Bool → Dev → Prop) (he : ∀ card, effect card (d.issueTick card)) :
    (d.onStrobe = false → Gives .tickTimerExpiry d (effect false)) ∧
    (d.flag F.CARD = true → d.flag F.CARD_LOST = false → ∀ b, Gives (.cadinEdge b) d (effect true)) := by
  refine ⟨fun hs => ?_, fun hc hl b => ?_⟩
  · refine gives_of_onDev Dev.timerExpiry (fun _ => rfl) hp ?_
    rw [Dev.timerExpiry, hs]
    exact he false
  · refine gives_of_onDev (·.cadinEdge b) (fun _ => rfl) hp ?_
    simp only [Dev.cadinEdge, hm, hc, hl, Bool.not_true, Bool.or_self, Bool.false_eq_true, if_false]
    exact he true

theorem gives_cardLost {d : Dev} (hp : Powered d) (hm : d.isMaster = true) (hc : d.flag F.CARD = true) (hl : d.flag F.CARD_LOST = false) :
    Gives .cardLost d fun e =>
      e.get F.CARD_LOST = 1 ∧ OnlyFields [(F.CARD_LOST, [])] d e ∧
      e = { d with regs := e.regs, cad := { d.cad with cardEdges := 0 } } := by
  refine gives_of_onDev Dev.cardLost (fun _ => rfl) hp ?_
  have hs : d.onStrobe = true := by simp [Dev.onStrobe, hm, hc, hl]
  rw [Dev.cardLost, if_pos hs]
  exact ⟨Dev.get_put_same _ _ _ _ (by decide), onlyFields_put0 _ (onlyFields_of_regs rfl) (List.mem_singleton.mpr rfl), rfl⟩

/-- Counting the edges of a lost strobe. -/
theorem cadinEdge_lost {d : Dev} (b : Bool) (hm : d.isMaster = true) (hc : d.flag F.CARD = true) (hl : d.flag F.CARD_LOST = true) :
    d.cadinEdge b =
      let n := if b then d.cad.cardEdges + 1 else 0
      if 16 ≤ n then ({ d with cad := { d.cad with cardEdges := 0 } }).put0 F.CARD_LOST 0
      else { d with cad := { d.cad with cardEdges := n } } := by
  simp only [Dev.cadinEdge, hm, hc, hl, Bool.not_true, Bool.or_self, Bool.false_eq_true, if_false, if_true]

/-- Settles O1: a master issues the next tick, and a card master watches its strobe. -/
theorem cadenceMasterTick : Obligations.CadenceMasterTick := by
  unfold Obligations.CadenceMasterTick
  refine ⟨fun d i hp hm hh hr ht hi hn => ?_, fun d hp hm hc => ⟨gives_cardLost hp hm hc, fun hl => ⟨fun hn => ?_, fun hn => ?_, ?_⟩⟩⟩
  · intro inPhase pos m effect
    exact gives_masterTick hp hm effect fun card => issueTick_effect card hm hh hr ht hi hn
  · refine gives_of_onDev (·.cadinEdge true) (fun _ => rfl) hp ?_
    simp only [cadinEdge_lost true hm hc hl, if_true, if_pos (show 16 ≤ d.cad.cardEdges + 1 by omega)]
    exact ⟨Dev.get_put_same _ _ _ _ (by decide), onlyFields_put0 _ (onlyFields_of_regs rfl) (List.mem_singleton.mpr rfl), rfl⟩
  · refine gives_of_onDev (·.cadinEdge true) (fun _ => rfl) hp ?_
    simp only [cadinEdge_lost true hm hc hl, if_true, if_neg (show ¬16 ≤ d.cad.cardEdges + 1 by omega)]
  · refine gives_of_onDev (·.cadinEdge false) (fun _ => rfl) hp ?_
    rw [cadinEdge_lost false hm hc hl]
    rfl

end Sys2Proof
end

section
/-! SUPPORT. What is sent on the chain and the fabric, and what votes and participation may change (03 R80 to R84). -/

namespace Sys2Proof

open Machine

/-! ### Sending -/

/-- Nothing changed but what waits to be sent on the chain and the fabric. -/
def OnlySends (a b : Dev) : Prop :=
  b = { a with chain := { a.chain with txU := b.chain.txU, txD := b.chain.txD }, fab := { a.fab with inject := b.fab.inject } }

theorem onlySends_refl (a : Dev) : OnlySends a a := rfl

theorem onlySends_trans {a b c : Dev} (h : OnlySends a b) (h' : OnlySends b c) : OnlySends a c := by
  unfold OnlySends at *
  rw [h] at h'
  exact h'

theorem onlySends_of_eq {a b : Dev} (h : ∃ u d i, b = { a with
    chain := { a.chain with txU := u, txD := d }, fab := { a.fab with inject := i } }) : OnlySends a b := by
  obtain ⟨u, d, i, rfl⟩ := h
  rfl

theorem onlySends_of_chain {a b : Dev} (h : ∃ u d, b = { a with chain := { a.chain with txU := u, txD := d } }) : OnlySends a b := by
  obtain ⟨u, d, rfl⟩ := h
  rfl

theorem onlySends_of_fab {a b : Dev} (h : ∃ i, b = { a with fab := { a.fab with inject := i } }) : OnlySends a b := by
  obtain ⟨i, rfl⟩ := h
  rfl

theorem OnlySends.regs {a b : Dev} (h : OnlySends a b) : b.regs = a.regs := by
  rw [h]

theorem OnlySends.cad {a b : Dev} (h : OnlySends a b) : b.cad = a.cad := by
  rw [h]

theorem OnlySends.mem {a b : Dev} (h : OnlySends a b) : b.mem = a.mem := by
  rw [h]

theorem OnlySends.get {a b : Dev} (h : OnlySends a b) (f : Fld) (ix : List Nat) : b.get f ix = a.get f ix := by
  rw [Dev.get_eq, Dev.get_eq, h.regs]

theorem OnlySends.talk {a b : Dev} (h : OnlySends a b) : OnlyTalk a b := by
  unfold OnlySends OnlyTalk at *
  generalize b.chain.txU = u, b.chain.txD = v, b.fab.inject = w at h
  subst h
  rfl

theorem onlySends_forward (s : Dev) (f : Frame) : OnlySends s (s.forward f) := onlySends_of_chain (s.forward_eq f)

theorem onlySends_ctrl0 (s : Dev) (typ dst : Nat) (data : List Word) : OnlySends s (s.ctrl0 typ dst data) :=
  onlySends_of_fab (s.ctrl0_eq typ dst data)

theorem onlySends_relayAll (s : Dev) (typ : Nat) (data : List Word) : OnlySends s (s.relayAll typ data) :=
  onlySends_of_fab (s.relayAll_eq typ data)

theorem onlySends_toSource (s : Dev) (typ : Nat) (data : List Word) : OnlySends s (s.sendToSource typ data) :=
  onlySends_of_chain (s.sendToSource_eq typ data)

theorem onlySends_send (s : Dev) (typ sub dst tag : Nat) (data : List Word) : OnlySends s (s.send typ sub dst tag data) :=
  onlySends_of_chain (s.send_eq typ sub dst tag data)

theorem onlySends_relayOn (s : Dev) (f : Frame) : OnlySends s (s.relayOn f) := by
  unfold Dev.relayOn
  split
  · split
    · exact onlySends_relayAll _ _ _
    · split
      · split
        · exact onlySends_ctrl0 _ _ _ _
        · rfl
      · rfl
  · rfl

theorem onlyTalk_regs {a b : Dev} (h : OnlyRegs a b) : OnlyTalk a b := h.irq.talk

theorem onlyTalk_count (s : Dev) (f : Fld) (ix : List Nat) : OnlyTalk s (s.count f ix) := onlyTalk_regs (onlyRegs_count s f ix)

theorem onlyTalk_put64 (s : Dev) (lo hi : Fld) (ix : List Nat) (v : Nat) : OnlyTalk s (s.put64 lo hi ix v) :=
  onlyTalk_regs (show OnlyRegs s (s.put64 lo hi ix v) from rfl)

/-! ### Votes -/

/-- Nothing changed but the cadence unit's own state and what waits to be sent. -/
def CadSends (a b : Dev) : Prop := OnlySends { a with cad := b.cad } b

theorem cadSends_trans {a b c : Dev} (h : CadSends a b) (h' : CadSends b c) : CadSends a c := by
  unfold CadSends OnlySends at *
  rw [h] at h'
  exact h'

theorem OnlySends.cadSends {a b : Dev} (h : OnlySends a b) : CadSends a b := by
  unfold CadSends OnlySends at *
  generalize b.chain.txU = u, b.chain.txD = v, b.fab.inject = w at h
  subst h
  rfl

theorem CadSends.regs {a b : Dev} (h : CadSends a b) : b.regs = a.regs := by
  rw [h]

theorem CadSends.mem {a b : Dev} (h : CadSends a b) : b.mem = a.mem ∧ b.hostMem = a.hostMem := by
  rw [h]
  exact ⟨rfl, rfl⟩

theorem CadSends.onlyCad {a b : Dev} (h : CadSends a b) : OnlyCad a b := OnlySends.talk h

/-- Of the cadence state only what a judgement of votes may change has changed: the votes and participation of chains, and
the early end of the phase (03 R81, R84). -/
def Judges (a b : Dev) : Prop :=
  CadSends a b ∧ b.cad = { a.cad with
    chainVoted := b.cad.chainVoted, chainVotes := b.cad.chainVotes, chainPart := b.cad.chainPart, issued := b.cad.issued
    early := b.cad.early }

theorem judges_refl (a : Dev) : Judges a a := ⟨rfl, rfl⟩

theorem judges_trans {a b c : Dev} (h : Judges a b) (h' : Judges b c) : Judges a c := by
  refine ⟨cadSends_trans h.1 h'.1, ?_⟩
  have hb := h.2
  have hc := h'.2
  rw [hb] at hc
  exact hc

theorem OnlySends.judges {a b : Dev} (h : OnlySends a b) : Judges a b := by
  refine ⟨h.cadSends, ?_⟩
  rw [h.cad]

theorem judges_judgeMaster (s : Dev) : Judges s s.judgeMaster := by
  unfold Dev.judgeMaster
  split
  · exact judges_refl s
  · split
    · exact ⟨rfl, rfl⟩
    · exact judges_refl s

theorem judges_judgeChain (s : Dev) : Judges s s.judgeChain := by
  unfold Dev.judgeChain
  split
  · have h0 : Judges s { s with cad := { s.cad with chainVoted := true } } := ⟨rfl, rfl⟩
    dsimp only
    split
    · have h1 : Judges _ { s with cad := { s.cad with
        chainVoted := true, chainVotes := Cad.addVote s.cad.chainVotes (s.get F.CHAIN_ADDR_ID) } } := judges_trans h0 ⟨rfl, rfl⟩
      exact judges_trans h1 (judges_judgeMaster _)
    · exact judges_trans h0 (onlySends_ctrl0 _ _ _ _).judges
  · exact judges_refl s

theorem judges_chainPartChange (s : Dev) (join : Bool) : Judges s (s.chainPartChange join) := by
  unfold Dev.chainPartChange
  split
  · exact ⟨rfl, rfl⟩
  · exact (onlySends_ctrl0 _ _ _ _).judges

/-- Of the cadence state only votes and participation have changed, and what they bring about. -/
def OnlyVotes (a b : Dev) : Prop :=
  CadSends a b ∧ b.cad = { a.cad with
    chainVoted := b.cad.chainVoted, chainVotes := b.cad.chainVotes, chainPart := b.cad.chainPart, issued := b.cad.issued
    early := b.cad.early, unitVoted := b.cad.unitVoted, unitVotes := b.cad.unitVotes, unitPart := b.cad.unitPart }

theorem onlyVotes_refl (a : Dev) : OnlyVotes a a := ⟨rfl, rfl⟩

theorem onlyVotes_trans {a b c : Dev} (h : OnlyVotes a b) (h' : OnlyVotes b c) : OnlyVotes a c := by
  refine ⟨cadSends_trans h.1 h'.1, ?_⟩
  have hb := h.2
  have hc := h'.2
  rw [hb] at hc
  exact hc

theorem Judges.onlyVotes {a b : Dev} (h : Judges a b) : OnlyVotes a b := by
  refine ⟨h.1, ?_⟩
  have hb := h.2
  generalize b.cad = c at hb ⊢
  generalize c.chainVoted = x1, c.chainVotes = x2, c.chainPart = x3, c.issued = x4, c.early = x5 at hb
  subst hb
  rfl

theorem Judges.later {a b : Dev} (h : Judges a b) : b.cad.later = a.cad.later := by
  rw [h.2]

theorem Judges.unitPart {a b : Dev} (h : Judges a b) : b.cad.unitPart = a.cad.unitPart := by
  rw [h.2]

theorem Judges.unitVotes {a b : Dev} (h : Judges a b) : b.cad.unitVotes = a.cad.unitVotes := by
  rw [h.2]

theorem OnlyVotes.joined {a b : Dev} (h : OnlyVotes a b) : b.cad.joined = a.cad.joined := by
  rw [h.2]

theorem OnlyVotes.partMask {a b : Dev} (h : OnlyVotes a b) : b.cad.partMask = a.cad.partMask := by
  rw [h.2]

theorem OnlyVotes.applied {a b : Dev} (h : OnlyVotes a b) :
    b.cad.appliedEpoch = a.cad.appliedEpoch ∧ b.cad.due = a.cad.due := by
  rw [h.2]
  exact ⟨rfl, rfl⟩

theorem onlyVotes_unitVote (s : Dev) : OnlyVotes s s.unitVote := by
  unfold Dev.unitVote
  split
  · have h0 : OnlyVotes s { s with cad := { s.cad with unitVoted := true } } := ⟨rfl, rfl⟩
    dsimp only
    split
    · have h1 : OnlyVotes _ { s with cad := { s.cad with
        unitVoted := true, unitVotes := Cad.addVote s.cad.unitVotes (s.get F.CHAIN_ADDR) } } := onlyVotes_trans h0 ⟨rfl, rfl⟩
      exact onlyVotes_trans h1 (judges_judgeChain _).onlyVotes
    · exact onlyVotes_trans h0 (onlySends_toSource _ _ _).judges.onlyVotes
  · exact onlyVotes_refl s

/-- Applying a unit's change of participation: its chain source's count takes it, and what that brings about is judged. -/
theorem applyPart_unit (s : Dev) (c : PartChange) (h : c.level = 0) :
    Judges { s with cad := { s.cad with
      unitPart := if c.join then Cad.addVote s.cad.unitPart c.id else s.cad.unitPart.erase c.id } } (s.applyPart c) := by
  unfold Dev.applyPart
  rw [if_pos h]
  dsimp only
  generalize (if c.join = true then Cad.addVote s.cad.unitPart c.id else s.cad.unitPart.erase c.id) = new
  refine judges_trans ?_ (judges_trans (judges_judgeChain _) (judges_judgeMaster _))
  split
  · exact judges_chainPartChange _ _
  · exact judges_refl _

theorem onlyVotes_applyPart (s : Dev) (c : PartChange) : OnlyVotes s (s.applyPart c) := by
  by_cases h : c.level = 0
  · have h0 : OnlyVotes s { s with cad := { s.cad with
      unitPart := if c.join then Cad.addVote s.cad.unitPart c.id else s.cad.unitPart.erase c.id } } := ⟨rfl, rfl⟩
    exact onlyVotes_trans h0 (applyPart_unit s c h).onlyVotes
  · unfold Dev.applyPart
    rw [if_neg h]
    have h0 : OnlyVotes s { s with cad := { s.cad with
      chainPart := if c.join then Cad.addVote s.cad.chainPart c.id else s.cad.chainPart.erase c.id } } := ⟨rfl, rfl⟩
    exact onlyVotes_trans h0 (judges_judgeMaster _).onlyVotes

theorem onlyVotes_sendPart (s : Dev) (join : Bool) : OnlyVotes s (s.sendPart join) := by
  unfold Dev.sendPart
  split
  · exact onlyVotes_applyPart _ _
  · exact (onlySends_toSource _ _ _).judges.onlyVotes

theorem onlyVotes_forEach {α : Type} (f : Dev → α → Dev) (hf : ∀ s x, OnlyVotes s (f s x)) (s : Dev) (l : List α) :
    OnlyVotes s (s.forEach l f) :=
  foldl_keeps (OnlyVotes s) f (fun _ x h => onlyVotes_trans h (hf _ x)) l s (onlyVotes_refl s)

end Sys2Proof
end

section
/-! SUPPORT. Votes, joins and leaves (03 R80 to R83). -/

namespace Sys2Proof

open Machine

/-- A frame that arrives and whose act only sends, counts, or changes the cadence unit is acted on; whatever goes on is only sent. -/
theorem receive_forward {d : Dev} {port typ : Nat} {f : Frame} (act home : Dev → Dev) (h : Arrives d port typ f)
    (h1 : typ ≠ tyRing) (h2 : typ ≠ tyEnum) :
    OnlySends (act d) (d.receive port f act home fun s => s.forward f) := by
  rw [receive_arrives act home _ h h1 h2]
  split
  · exact onlySends_forward _ _
  · exact onlySends_refl _

/-! ### VOTE_WRITE -/

theorem votes_lt (s : Dev) : s.votes < 2 ^ 64 := by
  have h1 := s.get_lt F.VOTE_LO []
  have h2 := s.get_lt F.VOTE_HI []
  simp only [Dev.votes, Dev.get64] at h1 h2 ⊢
  omega

theorem setBit_lt (v : Nat) {i n : Nat} (hv : v < 2 ^ n) (hi : i < n) : setBit v i < 2 ^ n := by
  refine Nat.lt_pow_two_of_testBit _ fun j hj => ?_
  have h : bitAt (setBit v i) j = bitAt v j := by rw [bitAt_setBit, if_neg (by omega)]
  rw [bitAt_eq_testBit, bitAt_eq_testBit] at h
  rw [h]
  exact Nat.testBit_lt_two_pow (Nat.lt_of_lt_of_le hv (Nat.pow_le_pow_right (by omega) hj))

/-- Recording a vote sets the partition's bit, when the unit has joined and the partition participates. -/
theorem recordVote_now (s : Dev) {p : Nat} (hp : p < 64) :
    (∀ j, bitAt (s.recordVote p s.pos.step s.pos.phase).2.votes j =
      (bitAt s.votes j || (s.cad.joined && decide (j = p) && bitAt s.cad.partMask j))) ∧
    OnlyFields [(F.VOTE_LO, []), (F.VOTE_HI, [])] s (s.recordVote p s.pos.step s.pos.phase).2 ∧
    OnlyCad s (s.recordVote p s.pos.step s.pos.phase).2 ∧
    (s.recordVote p s.pos.step s.pos.phase).2.cad.joined = s.cad.joined ∧
    (s.recordVote p s.pos.step s.pos.phase).2.cad.partMask = s.cad.partMask := by
  unfold Dev.recordVote
  by_cases hc : s.cad.joined = true ∧ bitAt s.cad.partMask p = true
  · obtain ⟨hj, hm⟩ := hc
    rw [if_pos (by simp [hj, hm])]
    have hv := onlyVotes_unitVote (s.put64 F.VOTE_LO F.VOTE_HI [] (setBit s.votes p))
    have hr := hv.1.regs
    refine ⟨fun j => ?_, ?_, ?_, ?_, ?_⟩
    · have e : (s.put64 F.VOTE_LO F.VOTE_HI [] (setBit s.votes p)).unitVote.votes = setBit s.votes p := by
        rw [Dev.votes, Dev.get64_eq, hr, ← Dev.get64_eq, Dev.get64_put64 _ _ _ (by decide) (by decide) (by decide)]
        exact Nat.mod_eq_of_lt (setBit_lt _ (votes_lt s) hp)
      dsimp only
      rw [e, bitAt_setBit]
      by_cases h : j = p
      · subst h
        simp [hj, hm]
      · simp [h]
    · exact onlyFields_trans (onlyFields_put64 _ (onlyFields_refl _ _) (by decide) (by decide)) (onlyFields_of_regs hr)
    · exact onlyCad_trans (onlyTalk_put64 _ _ _ _ _).cad hv.1.onlyCad
    · exact hv.joined
    · exact hv.partMask
  · rw [if_neg (by simpa using hc)]
    refine ⟨fun j => ?_, onlyFields_refl _ _, (onlyTalk_refl _).cad, rfl, rfl⟩
    by_cases h : j = p
    · subst h
      cases hj : s.cad.joined <;> simp_all
    · simp [h]

/-- Recording the votes of a list of partitions. -/
theorem recordVotes (l : List Nat) (s : Dev) (hl : ∀ p ∈ l, p < 64) :
    let e := s.forEach l fun s p => (s.recordVote p s.pos.step s.pos.phase).2
    (∀ j, bitAt e.votes j = (bitAt s.votes j || (s.cad.joined && decide (j ∈ l) && bitAt s.cad.partMask j))) ∧
    OnlyFields [(F.VOTE_LO, []), (F.VOTE_HI, [])] s e ∧ OnlyCad s e := by
  induction l generalizing s with
  | nil => exact ⟨fun j => by simp [Dev.forEach], onlyFields_refl _ _, (onlyTalk_refl _).cad⟩
  | cons p l ih =>
    obtain ⟨hb, hf, hc, hj, hm⟩ := recordVote_now s (hl p (List.mem_cons_self ..))
    obtain ⟨hb', hf', hc'⟩ := ih (s.recordVote p s.pos.step s.pos.phase).2 fun q hq => hl q (List.mem_cons_of_mem _ hq)
    refine ⟨fun j => (hb' j).trans ?_, onlyFields_trans hf hf', onlyCad_trans hc hc'⟩
    rw [hb j, hj, hm]
    have hd : decide (j ∈ p :: l) = (decide (j = p) || decide (j ∈ l)) := by simp only [List.mem_cons, Bool.decide_or]
    rw [hd]
    generalize bitAt s.votes j = x, s.cad.joined = y, decide (j = p) = z, decide (j ∈ l) = w, bitAt s.cad.partMask j = v
    revert x y z w v
    decide

theorem gives_voteWrite {d : Dev} (mask : Nat) (hp : Powered d) : Gives (.voteWrite mask) d fun e =>
    (∀ p < 64, bitAt e.votes p = (bitAt d.votes p || (d.cad.joined && bitAt mask p && bitAt d.cad.partMask p))) ∧
    OnlyFields [(F.VOTE_LO, []), (F.VOTE_HI, [])] d e ∧ OnlyCad d e := by
  refine gives_of_onDev (·.voteWrite mask) (fun _ => rfl) hp ?_
  obtain ⟨hb, hf, hc⟩ := recordVotes ((List.range 64).filter (bitAt mask)) d (by simp +contextual)
  refine ⟨fun p hp => (hb p).trans ?_, hf, hc⟩
  simp [List.mem_filter, hp]

/-! ### VOTE, JOIN and LEAVE -/

/-- A VOTE that is stale is counted. -/
theorem stale_counts {d e : Dev} (h : OnlySends (d.count F.VOTE_STALE_COUNT) e) :
    e.get F.VOTE_STALE_COUNT = min (d.get F.VOTE_STALE_COUNT + 1) (2 ^ 32 - 1) ∧
    OnlyFields [(F.VOTE_STALE_COUNT, [])] d e ∧ OnlyTalk d e := by
  refine ⟨?_, onlyFields_trans (onlyFields_count (onlyFields_refl _ _) (by decide)) (onlyFields_of_regs h.regs), ?_⟩
  · rw [h.get, Dev.get_count_same _ _ _ (by decide)]
  · exact onlyTalk_trans (onlyTalk_count _ _ _) h.talk

theorem gives_vote {d : Dev} {port : Nat} {f : Frame} (hp : Powered d) (ha : Arrives d (port % 2) tyVote f) {P : Dev → Prop}
    (hP : ∀ e, OnlySends (d.onVote (VoteMsg.ofWords f.data)) e → P e) : Gives (.vote port f) d P := by
  refine gives_of_onDev (·.voteFrame (port % 2) f) (fun _ => rfl) hp (hP _ ?_)
  have h := receive_forward (fun s => if f.typ = tyVote then s.onVote (VoteMsg.ofWords f.data) else s) id ha (by decide) (by decide)
  rwa [if_pos ha.2.2.1] at h

/-- A VOTE of another step, phase or epoch, or beside the phase the master has issued, is stale (03 R82, R107). -/
theorem onVote_stale {d : Dev} {m : VoteMsg} (h : ¬(m.epoch = d.cad.appliedEpoch ∧ m.step = d.pos.step ∧ m.phase = d.pos.phase ∧
      d.cad.joined = true) ∨
    (m.level = 0 ∧ d.isMaster = true ∧ d.cad.issued.map (fun i => (i.pos.step, i.pos.phase)) ≠ some (m.step, m.phase))) :
    d.onVote m = d.count F.VOTE_STALE_COUNT := by
  unfold Dev.onVote
  split
  · rfl
  · rename_i hn
    have hnow : m.epoch = d.cad.appliedEpoch ∧ m.step = d.pos.step ∧ m.phase = d.pos.phase ∧ d.cad.joined = true := by
      simpa only [not_or, not_not, Bool.not_eq_true', Bool.not_eq_false, ne_eq] using hn
    obtain h | ⟨hl, hm, hi⟩ := h
    · exact absurd hnow h
    · rw [if_pos hl, if_pos ⟨hm, hi⟩]

/-- A unit's VOTE of this phase is recorded by the chain source. -/
theorem onVote_taken {d : Dev} {m : VoteMsg} (hn : m.epoch = d.cad.appliedEpoch ∧ m.step = d.pos.step ∧ m.phase = d.pos.phase ∧
      d.cad.joined = true) (hl : m.level = 0)
    (hi : d.isMaster = true → d.cad.issued.map (fun i => (i.pos.step, i.pos.phase)) = some (m.step, m.phase))
    (hs : d.chainSource = true) (hid : m.source / 128 = d.get F.CHAIN_ADDR_ID) :
    Judges { d with cad := { d.cad with unitVotes := Cad.addVote d.cad.unitVotes (m.source % 128) } } (d.onVote m) := by
  obtain ⟨he, hst, hph, hj⟩ := hn
  unfold Dev.onVote
  rw [if_neg (by simp [he, hst, hph, hj]), if_pos hl, if_neg (fun h => h.2 (hi h.1)), if_pos (by simp [hs, hid])]
  exact judges_judgeChain _

theorem addVote_eq (l : List Nat) (x : Nat) : Cad.addVote l x = if x ∈ l then l else l ++ [x] := by
  unfold Cad.addVote
  simp only [List.contains_iff_mem]

theorem gives_partChange {d : Dev} {port : Nat} {f : Frame} (join : Bool) (hp : Powered d)
    (ha : Arrives d (port % 2) (if join then tyJoin else tyLeave) f) {P : Dev → Prop}
    (hP : ∀ e, OnlySends (d.onPart join (VoteMsg.ofWords f.data)) e → P e) :
    Gives (if join then .join port f else .leave port f) d P := by
  refine gives_of_onDev (·.partFrame (port % 2) f join) (fun _ => by cases join <;> rfl) hp (hP _ ?_)
  have h := receive_forward (fun s => if f.typ = (if join then tyJoin else tyLeave) then s.onPart join (VoteMsg.ofWords f.data) else s) id
    ha (by cases join <;> decide) (by cases join <;> decide)
  rwa [if_pos ha.2.2.1] at h

/-- A unit's JOIN or LEAVE at the source of its chain: it waits for a later phase, or changes the count at once (03 R83). -/
theorem onPart_unit {d : Dev} {m : VoteMsg} (join : Bool) (hs : d.chainSource = true) (hl : m.level = 0)
    (hid : m.source / 128 = d.get F.CHAIN_ADDR_ID) (he : epochNewer (d.get F.EPOCH) m.epoch = false) :
    d.onPart join m =
      let c : PartChange := ⟨join, 0, m.source % 128, m.step, m.phase⟩
      if Pos.lt ⟨d.pos.step, d.pos.phase, 0⟩ ⟨m.step, m.phase, 0⟩ then { d with cad := { d.cad with later := d.cad.later ++ [c] } }
      else d.applyPart c := by
  unfold Dev.onPart
  simp only [he, hl, hs, hid, Bool.false_eq_true, if_false, if_true, beq_self_eq_true, Bool.and_self]
  rfl

theorem gives_partWaits {d : Dev} {port : Nat} {f : Frame} (join : Bool) (hp : Powered d) (m : VoteMsg) (hm : m = VoteMsg.ofWords f.data)
    (hs : d.chainSource = true) (hl : m.level = 0) (hid : m.source / 128 = d.get F.CHAIN_ADDR_ID)
    (he : epochNewer (d.get F.EPOCH) m.epoch = false) (hlater : Pos.lt ⟨d.pos.step, d.pos.phase, 0⟩ ⟨m.step, m.phase, 0⟩ = true)
    (ha : Arrives d (port % 2) (if join then tyJoin else tyLeave) f) :
    Gives (if join then .join port f else .leave port f) d fun e =>
      e.cad = { d.cad with later := d.cad.later ++ [⟨join, 0, m.source % 128, m.step, m.phase⟩] } ∧ e.regs = d.regs ∧ OnlyCad d e := by
  subst hm
  refine gives_partChange join hp ha fun e h => ?_
  rw [onPart_unit join hs hl hid he] at h
  simp only [hlater, if_true] at h
  exact ⟨h.cad, h.regs, onlyCad_trans (onlyCad_cad _ _) h.talk.cad⟩

theorem gives_partTakes {d : Dev} {port : Nat} {f : Frame} (join : Bool) (hp : Powered d) (m : VoteMsg) (hm : m = VoteMsg.ofWords f.data)
    (hs : d.chainSource = true) (hl : m.level = 0) (hid : m.source / 128 = d.get F.CHAIN_ADDR_ID)
    (he : epochNewer (d.get F.EPOCH) m.epoch = false) (hlater : Pos.lt ⟨d.pos.step, d.pos.phase, 0⟩ ⟨m.step, m.phase, 0⟩ = false)
    (ha : Arrives d (port % 2) (if join then tyJoin else tyLeave) f) :
    Gives (if join then .join port f else .leave port f) d fun e =>
      e.cad.unitPart = (if join then Cad.addVote d.cad.unitPart (m.source % 128) else d.cad.unitPart.erase (m.source % 128)) ∧
      e.cad.later = d.cad.later ∧ e.regs = d.regs ∧ OnlyCad d e := by
  subst hm
  refine gives_partChange join hp ha fun e h => ?_
  rw [onPart_unit join hs hl hid he] at h
  simp only [hlater, Bool.false_eq_true, if_false] at h
  have hj := judges_trans (applyPart_unit d _ rfl) h.judges
  exact ⟨hj.unitPart, hj.later, hj.1.regs, onlyCad_trans (onlyCad_cad _ _) hj.1.onlyCad⟩

/-- Settles O3: what VOTE_WRITE records, and what the chain source does with a VOTE, a JOIN and a LEAVE. -/
theorem cadenceVoteWrite : Obligations.CadenceVoteWrite := by
  unfold Obligations.CadenceVoteWrite
  refine ⟨fun d mask hp => gives_voteWrite mask hp, fun d port f hp => ?_⟩
  intro m now
  refine ⟨fun ha => ⟨fun hn => ?_, fun hn hi hl => ?_, fun hn hi hl hs hid => ?_⟩, fun hs hl hid he => ?_⟩
  · exact gives_vote hp ha fun e h => stale_counts (onVote_stale (.inl hn) ▸ h)
  · obtain ⟨hm, hi⟩ := Classical.not_imp.mp hi
    exact gives_vote hp ha fun e h => stale_counts (onVote_stale (.inr ⟨hl, hm, hi⟩) ▸ h)
  · refine gives_vote hp ha fun e h => ?_
    have hj := judges_trans (onVote_taken hn hl hi hs hid) h.judges
    exact ⟨hj.unitVotes.trans (addVote_eq _ _), hj.1.regs, onlyCad_trans (onlyCad_cad _ _) hj.1.onlyCad⟩
  · intro later waits
    refine ⟨fun ha => ⟨fun h => gives_partWaits true hp m rfl hs hl hid he h ha, fun h => ?_⟩,
      fun ha => ⟨fun h => gives_partWaits false hp m rfl hs hl hid he h ha, fun h => gives_partTakes false hp m rfl hs hl hid he h ha⟩⟩
    have h := gives_partTakes true hp m rfl hs hl hid he h ha
    simp only [if_true, addVote_eq] at h
    exact h

end Sys2Proof
end

section
/-! SUPPORT. A TICK received, and the position it moves (03 R70, R76, R79, R110). -/

namespace Sys2Proof

open Machine

/-! ### What applying a position leaves alone -/

/-- The fields of the applied position. -/
def posFields : List Fld :=
  [F.POS_STEP_LO, F.POS_STEP_HI, F.POS_PHASE, F.POS_TICK, F.POS_END, F.TICK_STAMP_LO, F.TICK_STAMP_HI]

/-- What follows from an application leaves the applied position, its epoch, the TICKs still due and memory alone. -/
structure PosKept (a b : Dev) : Prop where
  fields : ∀ g ∈ posFields, b.get g = a.get g
  joined : b.cad.joined = a.cad.joined
  epoch : b.cad.appliedEpoch = a.cad.appliedEpoch
  due : b.cad.due = a.cad.due
  mem : b.mem = a.mem
  hostMem : b.hostMem = a.hostMem

theorem posKept_refl (a : Dev) : PosKept a a := ⟨fun _ _ => rfl, rfl, rfl, rfl, rfl, rfl⟩

theorem posKept_trans {a b c : Dev} (h : PosKept a b) (h' : PosKept b c) : PosKept a c :=
  ⟨fun g hg => (h'.fields g hg).trans (h.fields g hg), h'.joined.trans h.joined, h'.epoch.trans h.epoch, h'.due.trans h.due,
    h'.mem.trans h.mem, h'.hostMem.trans h.hostMem⟩

theorem posKept_put (s : Dev) (f : Fld) (ix : List Nat) (v : Nat) (h : ∀ g ∈ posFields, Fld.apart f ix g [] = true) :
    PosKept s (s.put f ix v) := ⟨fun g hg => Dev.get_put_apart _ _ (h g hg), rfl, rfl, rfl, rfl, rfl⟩

theorem posKept_put0 (s : Dev) (f : Fld) (v : Nat) (h : ∀ g ∈ posFields, Fld.apart f [] g [] = true) :
    PosKept s (s.put0 f v) := posKept_put s f [] v h

theorem posKept_event (s : Dev) (f en : Fld) (b v : Nat) (h : ∀ g ∈ posFields, Fld.apart f [] g [] = true) :
    PosKept s (s.event f en b v) := by
  obtain ⟨m, p, e⟩ := s.event_eq f en b v
  rw [e]
  exact posKept_trans (posKept_put0 s f 1 h) ⟨fun _ _ => rfl, rfl, rfl, rfl, rfl, rfl⟩

theorem posKept_setDrain (s : Dev) (st : Nat) : PosKept s (s.setDrain st) := by
  have h0 : PosKept s { s with pauses := Tab.set false s.pauses 1 (decide (2 ≤ st)) } := ⟨fun _ _ => rfl, rfl, rfl, rfl, rfl, rfl⟩
  have h1 := posKept_trans h0 (posKept_put0 _ F.DRAIN_STATE st (by decide))
  have h2 := posKept_trans h1 (posKept_put0 _ F.PAGE 2 (by decide))
  exact posKept_trans h2 (posKept_event _ F.DRAIN_EV F.PANEL_IRQ_EN 2 _ (by decide))

theorem OnlyVotes.posKept {a b : Dev} (h : OnlyVotes a b) : PosKept a b :=
  ⟨fun g _ => by rw [Dev.get_eq, Dev.get_eq, h.1.regs], h.joined, h.applied.1, h.applied.2, h.1.mem.1, h.1.mem.2⟩

theorem posKept_put64 (s : Dev) (lo hi : Fld) (v : Nat)
    (h : ∀ g ∈ posFields, Fld.apart lo [] g [] = true ∧ Fld.apart hi [] g [] = true) : PosKept s (s.put64 lo hi [] v) :=
  posKept_trans (posKept_put s lo [] v fun g hg => (h g hg).1) (posKept_put _ hi [] _ fun g hg => (h g hg).2)

theorem posKept_cad (s : Dev) (c : Cad) (hj : c.joined = s.cad.joined) (he : c.appliedEpoch = s.cad.appliedEpoch)
    (hd : c.due = s.cad.due) : PosKept s { s with cad := c } := ⟨fun _ _ => rfl, hj, he, hd, rfl, rfl⟩

/-- One of two ways on, each of which leaves the position alone. -/
theorem posKept_ite {a x y : Dev} (c : Prop) [Decidable c] (hx : PosKept a x) (hy : PosKept a y) : PosKept a (if c then x else y) := by
  split
  · exact hx
  · exact hy

theorem posKept_enterPhase (s : Dev) (rejoin : Bool) : PosKept s (s.enterPhase rejoin) := by
  unfold Dev.enterPhase
  extract_lets was s1 src2 s2 s3 now src4 s4
  have h1 : PosKept s s1 := posKept_put64 s F.VOTE_LO F.VOTE_HI 0 (by decide)
  have h2 : PosKept s s2 := posKept_trans h1 (posKept_cad _ _ rfl rfl rfl)
  have h3 : PosKept s s3 := posKept_ite _ (posKept_trans h2 (onlyVotes_sendPart _ _).posKept) h2
  have h4 : PosKept s s4 := posKept_trans h3 (posKept_cad _ _ rfl rfl rfl)
  exact posKept_trans h4 (OnlyVotes.posKept (onlyVotes_forEach _ onlyVotes_applyPart _ _))

theorem posKept_newEpochApplied (s : Dev) : PosKept s s.newEpochApplied := by
  unfold Dev.newEpochApplied
  extract_lets src1 s1 s2 s3
  have h1 : PosKept s s1 := posKept_cad _ _ rfl rfl rfl
  have h2 : PosKept s s2 := posKept_ite _ (posKept_trans h1 (onlyVotes_sendPart _ _).posKept) h1
  have h3 : PosKept s s3 := posKept_ite _ (posKept_trans h2 (judges_chainPartChange _ _).onlyVotes.posKept) h2
  exact posKept_trans h3 (posKept_trans (onlyVotes_unitVote _).posKept (judges_judgeChain _).onlyVotes.posKept)

theorem posKept_beginDispatch (s : Dev) (n : Nat) (late : Bool) (c : AlarmCopy) (hn : n < 256) : PosKept s (s.beginDispatch n late c) := by
  unfold Dev.beginDispatch
  refine posKept_trans (b := { s with dispatch := s.dispatch ++ [Dispatch.mk n (late || s.get F.WARDEN_MODE == 3) c false] })
    ⟨fun _ _ => rfl, rfl, rfl, rfl, rfl, rfl⟩ (posKept_put _ _ _ _ fun g hg => ?_)
  simp only [posFields, List.mem_cons, List.not_mem_nil, or_false] at hg
  simp only [Fld.apart, Bool.and_eq_true, Bool.or_eq_true, decide_eq_true_eq]
  rcases hg with rfl | rfl | rfl | rfl | rfl | rfl | rfl <;> simp [Fld.off] <;> omega

theorem posKept_foldl {α : Type} (l : List α) (f : Dev → α → Dev) (hf : ∀ s, ∀ x ∈ l, PosKept s (f s x)) (s : Dev) :
    PosKept s (l.foldl f s) := by
  induction l generalizing s with
  | nil => exact posKept_refl s
  | cons x l ih =>
    exact posKept_trans (hf s x (List.mem_cons_self ..)) (ih (fun s y hy => hf s y (List.mem_cons_of_mem _ hy)) _)

theorem posKept_judgeAlarms (s : Dev) (old : Pos) (oldEnd : Nat) (jump : Bool) : PosKept s (s.judgeAlarms old oldEnd jump) := by
  unfold Dev.judgeAlarms Dev.forEach
  have hl : ∀ e ∈ s.alarms.filter fun e => decide (e.1 < 256), e.1 < 256 := by simp +contextual [List.mem_filter]
  generalize s.alarms.filter (fun e => decide (e.1 < 256)) = l at hl
  refine posKept_foldl l _ (fun s e he => ?_) s
  split
  · exact posKept_refl s
  · split
    · split
      · exact posKept_beginDispatch _ _ _ _ (hl e he)
      · exact posKept_refl s
    · exact posKept_refl s

theorem posKept_judgeWaits (s : Dev) (old : Pos) (oldEnd : Nat) (jump : Bool) : PosKept s (s.judgeWaits old oldEnd jump) :=
  ⟨fun _ _ => rfl, rfl, rfl, rfl, rfl, rfl⟩

theorem PosKept.pos {a b : Dev} (h : PosKept a b) : b.pos = a.pos := by
  have hf := h.fields
  simp only [posFields, List.mem_cons, List.not_mem_nil, or_false, forall_eq_or_imp, forall_eq] at hf
  obtain ⟨h1, h2, h3, h4, -⟩ := hf
  simp only [Dev.pos, Dev.get64, h1, h2, h3, h4]

theorem PosKept.stamp {a b : Dev} (h : PosKept a b) :
    b.get F.POS_END = a.get F.POS_END ∧ b.get64 F.TICK_STAMP_LO F.TICK_STAMP_HI = a.get64 F.TICK_STAMP_LO F.TICK_STAMP_HI := by
  have hf := h.fields
  simp only [posFields, List.mem_cons, List.not_mem_nil, or_false, forall_eq_or_imp, forall_eq] at hf
  obtain ⟨-, -, -, -, h5, h6, h7⟩ := hf
  simp only [Dev.get64, h5, h6, h7, and_self]

end Sys2Proof
end

section
/-! SUPPORT. Applying a position, and receiving a TICK (03 R70, R76, R77, R92). -/

namespace Sys2Proof

open Machine

/-! ### The position applied -/

/-- The registers of the applied position as a TICK puts them, at the unit's own count of cycles. -/
def putPos (s : Dev) (m : TickMsg) : Dev :=
  let s := s.put64 F.POS_STEP_LO F.POS_STEP_HI [] m.pos.step
  let s := (s.put0 F.POS_PHASE m.pos.phase).put0 F.POS_TICK m.pos.tick
  let s := s.put0 F.POS_END m.endT
  s.put64 F.TICK_STAMP_LO F.TICK_STAMP_HI [] s.cycle

theorem onlyRegs_putPos (s : Dev) (m : TickMsg) : OnlyRegs s (putPos s m) :=
  onlyRegs_trans (onlyRegs_put64 _ _ _ _ _) (onlyRegs_trans (onlyRegs_put0 _ _ _) (onlyRegs_trans (onlyRegs_put0 _ _ _)
    (onlyRegs_trans (onlyRegs_put0 _ _ _) (onlyRegs_put64 _ _ _ _ _))))

theorem putPos_reads (s : Dev) (m : TickMsg) (hs : m.pos.step < 2 ^ 48) (hp : m.pos.phase < 16) (ht : m.pos.tick < 2 ^ 20)
    (he : m.endT < 2 ^ 20) :
    (putPos s m).pos = m.pos ∧ (putPos s m).get F.POS_END = m.endT ∧
    (putPos s m).get64 F.TICK_STAMP_LO F.TICK_STAMP_HI = s.cycle % 2 ^ 64 := by
  unfold putPos
  extract_lets s1 s2 s3
  have hstep : s1.get64 F.POS_STEP_LO F.POS_STEP_HI = m.pos.step := by
    rw [Dev.get64_put64 _ _ _ (by decide) (by decide) (by decide)]
    exact Nat.mod_eq_of_lt hs
  have hcyc : s3.cycle = s.cycle := congrArg (· * 40) (onlyRegs_trans (onlyRegs_put64 s F.POS_STEP_LO F.POS_STEP_HI [] m.pos.step)
    (onlyRegs_trans (onlyRegs_put0 _ F.POS_PHASE m.pos.phase) (onlyRegs_trans (onlyRegs_put0 _ F.POS_TICK m.pos.tick)
      (onlyRegs_put0 _ F.POS_END m.endT)))).now
  have hphase : s2.get F.POS_PHASE = m.pos.phase := by
    rw [Dev.get_put0_apart _ _ (by decide), Dev.get_put0_fit _ (by decide) hp]
  have htick : s2.get F.POS_TICK = m.pos.tick := Dev.get_put0_fit _ (by decide) ht
  have hend : s3.get F.POS_END = m.endT := Dev.get_put0_fit _ (by decide) he
  refine ⟨?_, ?_, ?_⟩
  · have e3 : ∀ g ∈ [F.POS_STEP_LO, F.POS_STEP_HI, F.POS_PHASE, F.POS_TICK], s3.get g = s2.get g :=
      fun g hg => Dev.get_put0_apart _ _ ((by decide : ∀ g ∈ [F.POS_STEP_LO, F.POS_STEP_HI, F.POS_PHASE, F.POS_TICK],
        Fld.apart F.POS_END [] g [] = true) g hg)
    have e2 : ∀ g ∈ [F.POS_STEP_LO, F.POS_STEP_HI], s2.get g = s1.get g := fun g hg =>
      (Dev.get_put0_apart _ _ ((by decide : ∀ g ∈ [F.POS_STEP_LO, F.POS_STEP_HI], Fld.apart F.POS_TICK [] g [] = true) g hg)).trans
        (Dev.get_put0_apart _ _ ((by decide : ∀ g ∈ [F.POS_STEP_LO, F.POS_STEP_HI], Fld.apart F.POS_PHASE [] g [] = true) g hg))
    clear_value s1 s2 s3
    rw [Dev.get64] at hstep
    simp (disch := decide) only [Dev.pos, Dev.get64, Dev.get_put64_apart, e3, e2, hphase, htick]
    rw [hstep]
  · clear_value s3
    rw [Dev.get_put64_apart _ _ (by decide) (by decide), hend]
  · rw [Dev.get64_put64 _ _ _ (by decide) (by decide) (by decide), hcyc]
    rfl

/-- What follows once the position's registers stand: the drain, the events, the phase and the epoch entered (03 R79, R83, R85). -/
def settlePos (m : TickMsg) (free missed relocks entering newEpoch : Bool) (s : Dev) : Dev :=
  let s := if m.adv && s.get F.DRAIN_STATE == 1 then s.setDrain 2 else s
  let s := if missed then s.cadEvent F.VOTE_MISSING 0 else s
  let s := if relocks then ((s.put0 F.CAD_LOST 0).put0 F.FREE_RUN 0).cadEvent F.RELOCK_EV 3 else s
  let s := if entering then s.enterPhase newEpoch else s
  let s := if newEpoch then s.newEpochApplied else s
  if s.isMaster && !free then s.put0 F.LOCKED 1 else s

theorem posKept_settlePos (m : TickMsg) (free missed relocks entering newEpoch : Bool) (s : Dev) :
    PosKept s (settlePos m free missed relocks entering newEpoch s) := by
  unfold settlePos
  extract_lets s1 s2 s3 s4 s5
  have h1 : PosKept s s1 := posKept_ite _ (posKept_setDrain _ _) (posKept_refl _)
  have h2 : PosKept s s2 := posKept_ite _ (posKept_trans h1 (posKept_event _ F.VOTE_MISSING F.CAD_IRQ_EN 0 1 (by decide))) h1
  have h3 : PosKept s s3 := posKept_ite _ (posKept_trans h2 (posKept_trans (posKept_put0 _ F.CAD_LOST 0 (by decide))
    (posKept_trans (posKept_put0 _ F.FREE_RUN 0 (by decide)) (posKept_event _ F.RELOCK_EV F.CAD_IRQ_EN 3 1 (by decide))))) h2
  have h4 : PosKept s s4 := posKept_ite _ (posKept_trans h3 (posKept_enterPhase _ _)) h3
  have h5 : PosKept s s5 := posKept_ite _ (posKept_trans h4 (posKept_newEpochApplied _)) h4
  exact posKept_ite _ (posKept_trans h5 (posKept_put0 _ F.LOCKED 1 (by decide))) h5

/-- The unit as an application begins: the position's registers stand, and it has joined in the TICK's epoch. -/
def placed (s : Dev) (m : TickMsg) (free : Bool) : Dev :=
  let s := putPos s m
  let s := { s with cad := { s.cad with
                             joined := true, alarmSent := [],
                             appliedEpoch := if free then s.cad.appliedEpoch else m.epoch } }
  { s with pwr := { s.pwr with resTick := s.residency s.pwr.resTick } }

/-- Applying a position, in its parts. -/
theorem applyPos_eq {s : Dev} {m : TickMsg} (jump free : Bool)
    (h : (!(!s.cad.joined) && (!Pos.lt s.pos m.pos || (!free && epochNewer s.cad.appliedEpoch m.epoch))) = false) :
    ∃ missed relocks entering newEpoch old oldEnd jump', s.applyPos m jump free =
      ((settlePos m free missed relocks entering newEpoch (placed s m free)).judgeAlarms old oldEnd jump').judgeWaits old oldEnd jump' := by
  unfold Dev.applyPos
  rw [if_neg (by rw [h]; exact Bool.false_ne_true)]
  exact ⟨(!s.cad.joined || s.pos.step != m.pos.step || s.pos.phase != m.pos.phase) && !(!s.cad.joined) && m.adv && m.reason == 2 &&
      s.cad.partMask != 0 && !s.allVoted, s.isMaster && s.flag F.CAD_LOST && !free,
    !s.cad.joined || s.pos.step != m.pos.step || s.pos.phase != m.pos.phase,
    !free && (!s.cad.joined || (putPos s m).cad.appliedEpoch != m.epoch), s.pos, s.get F.POS_END,
    jump || !s.cad.joined || (s.isMaster && s.flag F.CAD_LOST && !free), rfl⟩

theorem placed_reads (s : Dev) (m : TickMsg) (free : Bool) :
    (placed s m free).regs = (putPos s m).regs ∧ (placed s m free).cad.joined = true ∧
    (placed s m free).cad.appliedEpoch = (if free then s.cad.appliedEpoch else m.epoch) ∧ (placed s m free).cad.due = s.cad.due ∧
    (placed s m free).mem = s.mem ∧ (placed s m free).hostMem = s.hostMem := by
  have h := onlyRegs_putPos s m
  unfold placed
  rw [← h.cad, ← h.mem.1, ← h.mem.2]
  generalize putPos s m = e
  exact ⟨rfl, rfl, rfl, rfl, rfl, rfl⟩

/-- What an applied position leaves: its registers, its epoch unless it is a free-run tick, and the TICKs still due. -/
theorem applyPos_moves {s : Dev} {m : TickMsg} (jump free : Bool) (hs : m.pos.step < 2 ^ 48) (hp : m.pos.phase < 16)
    (ht : m.pos.tick < 2 ^ 20) (he : m.endT < 2 ^ 20)
    (h : (!(!s.cad.joined) && (!Pos.lt s.pos m.pos || (!free && epochNewer s.cad.appliedEpoch m.epoch))) = false) :
    let e := s.applyPos m jump free
    e.pos = m.pos ∧ e.get F.POS_END = m.endT ∧ e.get64 F.TICK_STAMP_LO F.TICK_STAMP_HI = s.cycle % 2 ^ 64 ∧
    e.cad.joined = true ∧ e.cad.appliedEpoch = (if free then s.cad.appliedEpoch else m.epoch) ∧ e.cad.due = s.cad.due ∧
    e.mem = s.mem ∧ e.hostMem = s.hostMem := by
  obtain ⟨missed, relocks, entering, newEpoch, old, oldEnd, jump', e⟩ := applyPos_eq jump free h
  have hk := posKept_trans (posKept_settlePos m free missed relocks entering newEpoch (placed s m free))
    (posKept_trans (posKept_judgeAlarms _ old oldEnd jump') (posKept_judgeWaits _ old oldEnd jump'))
  rw [← e] at hk
  obtain ⟨hr, hj, hep, hd, hm, hh⟩ := placed_reads s m free
  have hk' : PosKept (placed s m free) (s.applyPos m jump free) := hk
  obtain ⟨h1, h2, h3⟩ := putPos_reads s m hs hp ht he
  obtain ⟨hend, hstamp⟩ := hk.stamp
  refine ⟨hk.pos.trans (Eq.trans ?_ h1), hend.trans (Eq.trans ?_ h2), hstamp.trans (Eq.trans ?_ h3), hk.joined.trans hj,
    hk.epoch.trans hep, hk.due.trans hd, hk.mem.trans hm, hk.hostMem.trans hh⟩
  · simp only [Dev.pos, Dev.get64, Dev.get_eq, hr]
  · simp only [Dev.get_eq, hr]
  · simp only [Dev.get64, Dev.get_eq, hr]

/-- A position that is not beyond the applied one, or of an older epoch, stays unapplied. -/
theorem applyPos_stays {s : Dev} {m : TickMsg} (jump : Bool) (hj : s.cad.joined = true)
    (h : Pos.lt s.pos m.pos = false ∨ epochNewer s.cad.appliedEpoch m.epoch = true) : s.applyPos m jump false = s := by
  unfold Dev.applyPos
  refine if_pos ?_
  rcases h with h | h <;> simp [hj, h]

/-! ### A TICK received -/

/-- What the frame's own delay adds on the reverse path is no matter on the primary path. -/
theorem receive_arrives_hop {d : Dev} {port typ : Nat} {f : Frame} (act home onward : Dev → Dev) (hop : Nat) (h : Arrives d port typ f)
    (h1 : typ ≠ tyRing) (h2 : typ ≠ tyEnum) :
    d.receive port f act home onward hop = if f.dst = bcast then onward (act d) else act d := by
  rw [← receive_arrives act home onward h h1 h2]
  obtain ⟨-, -, -, -, -, hr, -⟩ := h
  unfold Dev.receive
  simp only [if_neg hr]


/-- The TICK that the cadence unit hears is the one the frame carried, delayed by its link. -/
theorem ofWords_addDelay (f : Frame) (link : Nat) : TickMsg.ofWords (addDelay f.data link) = tickIn f link := by
  unfold addDelay tickIn
  have h0 : TickMsg.ofWords f.data = TickMsg.ofWords f.data := rfl
  refine tickMsg_roundTrip _ ⟨?_, ?_, ?_⟩ ?_ ?_ ?_ ?_ ?_ ?_
  · have h1 : wordAt f.data 1 < 2 ^ 32 := (f.data.getD 1 0).isLt
    have h2 := bitsOf_lt (wordAt f.data 2) 0 16
    simp only [TickMsg.ofWords]
    omega
  · exact bitsOf_lt _ _ _
  · exact bitsOf_lt _ _ _
  · exact bitsOf_lt _ _ _
  · exact bitsOf_lt _ _ _
  · exact bitsOf_lt _ _ _
  · dsimp only
    omega
  · exact (f.data.getD 6 0).isLt
  · exact bitsOf_lt _ _ _

theorem gives_tick {d : Dev} {port : Nat} {f : Frame} {link : Nat} (stay : Nat) (hp : Powered d) (ha : Arrives d (port % 2) tyTick f)
    {P : Dev → Prop} (hP : ∀ e, OnlySends (d.onTick (tickIn f link)) e → P e) : Gives (.tick port f link stay) d P := by
  refine gives_of_onDev (·.tickFrame (port % 2) f link stay) (fun _ => rfl) hp (hP _ ?_)
  rw [← ofWords_addDelay, Dev.tickFrame, receive_arrives_hop _ _ _ _ ha (by decide) (by decide)]
  simp only [ha.2.2.1, if_true]
  split
  · refine onlySends_trans ?_ (onlySends_forward _ _)
    split
    · exact onlySends_relayOn _ _
    · exact onlySends_refl _
  · exact onlySends_refl _

/-- The delays of a TICK heard (03 R76). -/
def noteDelay (s : Dev) (delay : Nat) : Dev :=
  let s := s.put0 F.DELAY_NOW delay
  if s.get F.DELAY_MAX < delay then s.put0 F.DELAY_MAX delay else s

theorem noteDelay_reads (s : Dev) {delay : Nat} (hd : delay < 2 ^ 24) :
    (noteDelay s delay).get F.DELAY_NOW = delay ∧ (noteDelay s delay).get F.DELAY_MAX = max (s.get F.DELAY_MAX) delay ∧
    OnlyFields [(F.DELAY_NOW, []), (F.DELAY_MAX, [])] s (noteDelay s delay) ∧ OnlyRegs s (noteDelay s delay) := by
  have h32 : delay < 2 ^ 32 := by omega
  have hmax : (s.put0 F.DELAY_NOW delay).get F.DELAY_MAX = s.get F.DELAY_MAX := Dev.get_put0_apart _ _ (by decide)
  have hnow : (s.put0 F.DELAY_NOW delay).get F.DELAY_NOW = delay := Dev.get_put0_fit _ (by decide) h32
  have hf : OnlyFields [(F.DELAY_NOW, []), (F.DELAY_MAX, [])] s (s.put0 F.DELAY_NOW delay) :=
    onlyFields_put0 _ (onlyFields_refl _ _) (by decide)
  unfold noteDelay
  dsimp only
  rw [hmax]
  by_cases h : s.get F.DELAY_MAX < delay
  · rw [if_pos h]
    exact ⟨by rw [Dev.get_put0_apart _ _ (by decide), hnow],
      by rw [Dev.get_put0_fit _ (by decide) h32]; exact (Nat.max_eq_right (Nat.le_of_lt h)).symm,
      onlyFields_put0 _ hf (by decide), onlyRegs_trans (onlyRegs_put0 _ _ _) (onlyRegs_put0 _ _ _)⟩
  · rw [if_neg h]
    exact ⟨hnow, hmax.trans (Nat.max_eq_left (Nat.le_of_not_lt h)).symm, hf, onlyRegs_put0 _ _ _⟩

/-- A TICK of the unit's own epoch, in time, joins those that are due (03 R76). -/
theorem onTick_due {d : Dev} {m : TickMsg} (hs : d.cad.seen = true) (he : m.epoch = d.get F.EPOCH) (hm : d.isMaster = false)
    (hj : d.cad.joined = true) (hl : d.flag F.CAD_LOST = false) (hlead : m.delay < m.lead) (hd : m.delay < 2 ^ 24) :
    let e := noteDelay { d with cad := { d.cad with master := some m.master } } m.delay
    d.onTick m = { e with cad := { e.cad with due := dueInsert (d.cycle + m.lead - m.delay, m) e.cad.due } } := by
  intro e
  obtain ⟨-, -, hf, hr⟩ := noteDelay_reads { d with cad := { d.cad with master := some m.master } } hd
  have hlost : e.flag F.CAD_LOST = false := by
    rw [← hl, Dev.flag, Dev.flag, hf.get F.CAD_LOST [] (by decide)]
    rfl
  have hjoin : e.cad.joined = true := by rw [hr.cad]; exact hj
  have hcyc : e.cycle = d.cycle := congrArg (· * 40) hr.now
  unfold Dev.onTick
  extract_lets known cur s1 src s2 s3 s4 run src5
  have h4 : s4 = e := by
    have h1 : s1 = d := if_neg (by simp [known, cur, hs, he])
    simp only [s4, s3, s2, src, h1]
    rfl
  rw [if_neg (by simp [known, cur, hs, he]), if_neg (by simp [known, cur, hs, he, hm]), h4,
    if_neg (show ¬(e.flag F.CAD_LOST || !e.cad.joined) = true by rw [hlost, hjoin]; exact Bool.false_ne_true),
    if_neg (by omega), hcyc, show src5 = e.cad from congrArg Dev.cad h4]

/-- A TICK of an older epoch is not heeded (03 R87). -/
theorem onTick_old {d : Dev} {m : TickMsg} (hs : d.cad.seen = true) (he : m.epoch ≠ d.get F.EPOCH)
    (hn : epochNewer m.epoch (d.get F.EPOCH) = false) : d.onTick m = d := by
  unfold Dev.onTick
  exact if_pos (by simp [hs, he, hn])

theorem gives_tickDue {d : Dev} {port : Nat} {f : Frame} {link : Nat} (stay : Nat) (hp : Powered d) (ha : Arrives d (port % 2) tyTick f)
    (m : TickMsg) (hm : m = tickIn f link) (hs : d.cad.seen = true) (he : m.epoch = d.get F.EPOCH) (hn : d.isMaster = false)
    (hj : d.cad.joined = true) (hl : d.flag F.CAD_LOST = false) (hlead : m.delay < m.lead) :
    Gives (.tick port f link stay) d fun e =>
      e.cad = { d.cad with master := some m.master, due := dueInsert (d.cycle + m.lead - m.delay, m) d.cad.due } ∧
      e.get F.DELAY_NOW = m.delay ∧ e.get F.DELAY_MAX = max (d.get F.DELAY_MAX) m.delay ∧
      OnlyFields [(F.DELAY_NOW, []), (F.DELAY_MAX, [])] d e ∧ OnlyCad d e := by
  have hd : m.delay < 2 ^ 24 := by
    rw [hm]
    simp only [tickIn]
    omega
  refine gives_tick stay hp ha fun e h => ?_
  rw [← hm, onTick_due hs he hn hj hl hlead hd] at h
  obtain ⟨h1, h2, h3, h4⟩ := noteDelay_reads { d with cad := { d.cad with master := some m.master } } hd
  generalize noteDelay { d with cad := { d.cad with master := some m.master } } m.delay = x at *
  dsimp only at h
  refine ⟨?_, (h.get _ _).trans h1, (h.get _ _).trans h2, ?_, ?_⟩
  · rw [h.cad, h4.cad]
  · exact onlyFields_congr (a := { d with cad := { d.cad with master := some m.master } }) rfl h.regs h3
  · exact onlyCad_trans (onlyCad_cad d _) (onlyCad_trans (onlyTalk_regs h4).cad (onlyCad_trans (onlyCad_cad _ _) h.talk.cad))

/-- The tick that a free-running unit gives itself (03 R92). -/
def freeTick (d : Dev) : TickMsg :=
  { epoch := d.cad.appliedEpoch, pos := { d.pos with tick := d.pos.tick + 1 }, adv := false, reason := 0
    fromCard := false, endT := d.get F.POS_END, delay := 0, lead := 0, master := 0 }

theorem pos_fits (d : Dev) : PosFits d.pos := by
  have h1 := d.get_lt F.POS_STEP_LO []
  have h2 := d.get_lt F.POS_STEP_HI []
  refine ⟨?_, d.get_lt F.POS_PHASE [], d.get_lt F.POS_TICK []⟩
  simp only [Dev.pos, Dev.get64] at h1 h2 ⊢
  omega

/-- Settles O2: a TICK of the unit's epoch falls due LEAD less DELAY later, and its application moves the position. -/
theorem cadenceTickReceived : Obligations.CadenceTickReceived := by
  unfold Obligations.CadenceTickReceived
  refine ⟨fun d port f link stay hp ha hs => ?_, fun d c m l hp hd h1 h2 h3 h4 => ?_, fun d hp hj hf => ?_⟩
  · intro m
    refine ⟨fun he hm hj hl hlead => gives_tickDue stay hp ha m rfl hs he hm hj hl hlead, fun he hn => ?_⟩
    refine gives_tick stay hp ha fun e h => ?_
    rw [onTick_old hs he hn] at h
    exact ⟨h.talk, h.regs⟩
  · have ht : d.tickApply = ({ d with cad := { d.cad with due := l } }).applyPos m false false := by
      rw [Dev.tickApply, hd]
    refine ⟨fun h => gives_of_onDev Dev.tickApply (fun _ => rfl) hp ?_, fun hj h => gives_of_onDev Dev.tickApply (fun _ => rfl) hp ?_⟩
    · rw [ht]
      have hc : (!(!d.cad.joined) && (!Pos.lt d.pos m.pos || (!false && epochNewer d.cad.appliedEpoch m.epoch))) = false := by
        rcases h with h | ⟨ha, hb⟩
        · simp [h]
        · simp [ha, hb]
      obtain ⟨r1, r2, r3, r4, r5, r6, r7, r8⟩ :=
        applyPos_moves (s := { d with cad := { d.cad with due := l } }) (m := m) false false h1 h2 h3 h4 hc
      exact ⟨r1, r2, r4, r5, r6, r3, r7, r8⟩
    · rw [ht, applyPos_stays (s := { d with cad := { d.cad with due := l } }) false hj h]
  · refine ⟨fun h => gives_of_onDev Dev.freeRunTick (fun _ => rfl) hp ?_, fun h => gives_of_onDev Dev.freeRunTick (fun _ => rfl) hp ?_⟩
    · rw [Dev.freeRunTick, if_pos (by simp [hf, hj, h])]
      obtain ⟨r1, r2, -, -, r5, -, r7, r8⟩ := applyPos_moves (s := d) (m := freeTick d) false true (pos_fits d).1 (pos_fits d).2.1
        (Nat.lt_trans h (d.get_lt F.POS_END [])) (d.get_lt F.POS_END []) (by simp [hj, freeTick, Pos.lt])
      exact ⟨r1, r2, r5, r7, r8⟩
    · rw [Dev.freeRunTick, if_neg (by simp [hf, hj]; omega)]

end Sys2Proof
end

section
/-! SUPPORT. The bid window, the election, and the loss of the cadence (03 R88 to R92, Table 3.5). -/

namespace Sys2Proof

open Machine

theorem OnlyTalk.mem {a b : Dev} (h : OnlyTalk a b) : b.mem = a.mem ∧ b.hostMem = a.hostMem := by
  rw [h]
  exact ⟨rfl, rfl⟩

theorem OnlyCad.mem {a b : Dev} (h : OnlyCad a b) : b.mem = a.mem ∧ b.hostMem = a.hostMem := by
  rw [h]
  exact ⟨rfl, rfl⟩

/-- Nothing changed but registers, interrupts, the cadence unit, the chain logic, and what waits to be sent. -/
def OnlyBids (a b : Dev) : Prop := OnlyTalk { a with cad := b.cad, chain := b.chain } b

theorem onlyBids_trans {a b c : Dev} (h : OnlyBids a b) (h' : OnlyBids b c) : OnlyBids a c := by
  unfold OnlyBids OnlyTalk at *
  rw [h] at h'
  exact h'

theorem OnlyTalk.bids {a b : Dev} (h : OnlyTalk a b) : OnlyBids a b := by
  unfold OnlyBids OnlyTalk at *
  generalize b.regs = r, b.host.sent = x, b.host.pfPba = y, b.host.vfPba = z, b.chain.txU = u, b.chain.txD = v,
    b.fab.inject = w at h
  subst h
  rfl

theorem onlyBids_cad (a : Dev) (c : Cad) : OnlyBids a { a with cad := c } := rfl

theorem OnlyBids.mem {a b : Dev} (h : OnlyBids a b) : b.mem = a.mem ∧ b.hostMem = a.hostMem := by
  rw [h]
  exact ⟨rfl, rfl⟩

theorem OnlyBids.pauses {a b : Dev} (h : OnlyBids a b) : b.pauses = a.pauses := by
  rw [h]

theorem OnlyChain.cad {a b : Dev} (h : OnlyChain a b) : b.cad = a.cad := by
  rw [h]

theorem OnlyChain.bids {a b : Dev} (h : OnlyChain a b) : OnlyBids a b := by
  have hc := h.cad
  unfold OnlyBids
  rw [hc]
  exact h

theorem onlySends_txPrimary (s : Dev) (fwd : Bool) (f : Frame) : OnlySends s (s.txPrimary fwd f) :=
  onlySends_of_chain (s.txPrimary_eq fwd f)

/-- A BID bound out of D is sent, kept for the next period, or counted (04 R125). -/
theorem offerBid_effect (s : Dev) (fwd : Bool) (f : Frame) :
    OnlyFields [(F.BID_FILTER_COUNT, [])] s (s.offerBid fwd f) ∧ OnlyChain s (s.offerBid fwd f) := by
  unfold Dev.offerBid
  split
  · have h := onlySends_txPrimary { s with chain := { s.chain with bidSent := some f.bidKey } } fwd f
    exact ⟨onlyFields_of_regs h.regs, onlyChain_trans (onlyChain_chain s _) h.talk.chain⟩
  · have hc : OnlyFields [(F.BID_FILTER_COUNT, [])] s (s.count F.BID_FILTER_COUNT) ∧ OnlyChain s (s.count F.BID_FILTER_COUNT) :=
      ⟨onlyFields_count (onlyFields_refl _ _) (by decide), (onlyTalk_count _ _ _).chain⟩
    split
    · exact hc
    · split
      · exact ⟨onlyFields_of_regs rfl, onlyChain_chain s _⟩
      · split
        · exact ⟨onlyFields_count (onlyFields_of_regs rfl) (by decide),
            onlyChain_trans (onlyChain_chain s { s.chain with bidNext := some ⟨fwd, f⟩ }) (onlyTalk_count _ _ _).chain⟩
        · exact hc

/-- The own bid is sent and recorded in the own window (03 R88, R89). -/
theorem sendBid_effect (s : Dev) :
    OnlyFields [(F.BID_FILTER_COUNT, [])] s s.sendBid ∧ OnlyBids s s.sendBid ∧
    s.sendBid.cad = { s.cad with win := s.cad.win.record s.ownBid } := by
  unfold Dev.sendBid
  extract_lets m s1 src s2
  obtain ⟨hf, hc⟩ : OnlyFields [(F.BID_FILTER_COUNT, [])] s s1 ∧ OnlyChain s s1 := by
    by_cases h : s.get F.CHAIN_ADDR = 0
    · rw [show s1 = s from if_pos h]
      exact ⟨onlyFields_refl _ _, (onlyTalk_refl _).chain⟩
    · rw [show s1 = _ from if_neg h]
      exact offerBid_effect _ _ _
  have h2 : OnlyBids s s2 ∧ s2.regs = s1.regs ∧ s2.cad = { s.cad with win := s.cad.win.record s.ownBid } := by
    refine ⟨onlyBids_trans hc.bids (onlyBids_cad s1 _), rfl, ?_⟩
    simp only [s2, src]
    rw [hc.cad]
  obtain ⟨hb, hr, hcad⟩ := h2
  have h3 : OnlySends s2 (if s2.flag F.RELAY then s2.relayAll tyBid m.toWords else s2) := by
    split
    · exact onlySends_relayAll _ _ _
    · exact onlySends_refl _
  exact ⟨onlyFields_trans hf (onlyFields_of_regs (h3.regs.trans hr)), onlyBids_trans hb h3.talk.bids, h3.cad.trans hcad⟩

/-- A bidder sends its bid. -/
theorem bids_effect (s : Dev) (w : BidWindow) :
    let e := (({ s with cad := { s.cad with win := w } }).put0 F.CAD_ROLE_NOW roleBidding).sendBid
    e.get F.CAD_ROLE_NOW = roleBidding ∧ e.cad = { s.cad with win := w.record s.ownBid } ∧
    OnlyFields [(F.CAD_ROLE_NOW, []), (F.BID_FILTER_COUNT, [])] s e ∧ OnlyBids s e := by
  intro e
  obtain ⟨x, hx⟩ : ∃ x, x = ({ s with cad := { s.cad with win := w } }).put0 F.CAD_ROLE_NOW roleBidding := ⟨_, rfl⟩
  have hrole : x.get F.CAD_ROLE_NOW = roleBidding := by
    rw [hx]
    exact Dev.get_put0_fit _ (by decide) (by decide)
  have hf : OnlyFields [(F.CAD_ROLE_NOW, [])] s x := by
    rw [hx]
    exact onlyFields_put0 _ (onlyFields_of_regs rfl) (by decide)
  have hc : x.cad = { s.cad with win := w } := by
    rw [hx]
    rfl
  have hown : x.ownBid = s.ownBid := by
    have hg : ∀ g ∈ [F.CARD, F.PRIORITY, F.CHAIN_ADDR_ID, F.CHAIN_ADDR, F.EPOCH, F.POS_STEP_LO, F.POS_STEP_HI, F.POS_PHASE, F.POS_TICK],
        x.get g = s.get g := fun g hg => hf.get g [] ((by decide : ∀ g ∈ [F.CARD, F.PRIORITY, F.CHAIN_ADDR_ID, F.CHAIN_ADDR, F.EPOCH,
          F.POS_STEP_LO, F.POS_STEP_HI, F.POS_PHASE, F.POS_TICK], ∀ x ∈ [(F.CAD_ROLE_NOW, ([] : List Nat))], Fld.apart x.1 x.2 g [] = true) g hg)
    simp only [List.mem_cons, List.not_mem_nil, or_false, forall_eq_or_imp, forall_eq] at hg
    obtain ⟨h1, h2, h3, h4, h5, h6, h7, h8, h9⟩ := hg
    simp only [Dev.ownBid, Dev.ident, Dev.pos, Dev.get64, Dev.flag, hc, h1, h2, h3, h4, h5, h6, h7, h8, h9] <;> rfl
  have hb : OnlyBids s x := by
    rw [hx]
    exact onlyBids_trans (onlyBids_cad s { s.cad with win := w }) (onlyTalk_regs (onlyRegs_put0 _ _ _)).bids
  obtain ⟨sf, sb, sc⟩ := sendBid_effect x
  have he : e = x.sendBid := by rw [hx]
  clear_value e
  subst he
  refine ⟨(sf.get _ _ (by decide)).trans hrole, ?_, ?_, onlyBids_trans hb sb⟩
  · rw [sc, hown, hc]
  · exact onlyFields_trans (onlyFields_mono (by decide) hf) (onlyFields_mono (by decide) sf)

/-- A window opens, and a unit that may bid bids (03 Table 3.5 step 1). -/
theorem openWindow_effect (s : Dev) :
    s.openWindow.cad.win.isOpen = true ∧ s.openWindow.cad.due = s.cad.due ∧
    (s.mayBid = true → s.openWindow.get F.CAD_ROLE_NOW = roleBidding ∧ s.openWindow.cad.win.bidding = true ∧
      s.openWindow.cad.win.best = some (s.ownBid.prio, s.ident)) ∧
    OnlyFields [(F.CAD_ROLE_NOW, []), (F.BID_FILTER_COUNT, [])] s s.openWindow ∧ OnlyBids s s.openWindow := by
  unfold Dev.openWindow
  by_cases h : s.mayBid = true
  · have h' : ({ s with cad := { s.cad with win := ⟨true, none, none, none, s.mayBid⟩ } } : Dev).mayBid = true := h
    dsimp only
    rw [if_pos h']
    obtain ⟨h1, h2, h3, h4⟩ := bids_effect s ⟨true, none, none, none, s.mayBid⟩
    refine ⟨?_, ?_, fun _ => ⟨h1, ?_, ?_⟩, h3, h4⟩
    · rw [h2]
      rfl
    · rw [h2]
    · rw [h2]
      exact h
    · rw [h2]
      rfl
  · have h' : ¬({ s with cad := { s.cad with win := ⟨true, none, none, none, s.mayBid⟩ } } : Dev).mayBid = true := h
    dsimp only
    rw [if_neg h']
    exact ⟨rfl, rfl, fun hb => absurd hb h, onlyFields_of_regs rfl, onlyBids_cad s _⟩

end Sys2Proof
end

section
/-! SUPPORT. Loss, hand-over and election of the cadence master (03 R88 to R92). -/

namespace Sys2Proof

open Machine

/-! ### Loss -/

theorem OnlyFields.flag {l : List (Fld × List Nat)} {a b : Dev} (h : OnlyFields l a b) (g : Fld) (jx : List Nat)
    (hg : ∀ x ∈ l, Fld.apart x.1 x.2 g jx = true) : b.flag g jx = a.flag g jx := by
  unfold Dev.flag
  rw [h.get g jx hg]

/-- Who may bid does not hang on the registers of the loss. -/
theorem mayBid_congr {l : List (Fld × List Nat)} {a b : Dev} (h : OnlyFields l a b) (hp : b.pauses = a.pauses)
    (hl : ∀ g ∈ [F.RUN, F.CANDIDATE, F.CARD], ∀ x ∈ l, Fld.apart x.1 x.2 g [] = true) : b.mayBid = a.mayBid := by
  simp only [List.mem_cons, List.not_mem_nil, or_false, forall_eq_or_imp, forall_eq] at hl
  obtain ⟨h1, h2, h3⟩ := hl
  simp only [Dev.mayBid, Dev.hostShut, hp, h.flag F.RUN [] h1, h.flag F.CANDIDATE [] h2, h.flag F.CARD [] h3]

theorem pos_congr {l : List (Fld × List Nat)} {a b : Dev} (h : OnlyFields l a b)
    (hl : ∀ g ∈ [F.POS_STEP_LO, F.POS_STEP_HI, F.POS_PHASE, F.POS_TICK], ∀ x ∈ l, Fld.apart x.1 x.2 g [] = true) : b.pos = a.pos := by
  simp only [List.mem_cons, List.not_mem_nil, or_false, forall_eq_or_imp, forall_eq] at hl
  obtain ⟨h1, h2, h3, h4⟩ := hl
  simp only [Dev.pos, Dev.get64, h.get _ [] h1, h.get _ [] h2, h.get _ [] h3, h.get _ [] h4]

/-- The registers of a loss (03 R92): CAD_LOST and FREE_RUN are set, LOCKED is clear, LOST_EV is set. -/
theorem lossDeclared (d : Dev) :
    let s := ((({ ((d.put0 F.CAD_LOST 1).put0 F.LOCKED 0).put0 F.FREE_RUN 1 with
      cad := { d.cad with run := none, due := [] } }) : Dev).cadEvent F.LOST_EV 2)
    s.get F.CAD_LOST = 1 ∧ s.get F.FREE_RUN = 1 ∧ s.get F.LOCKED = 0 ∧ s.get F.LOST_EV = 1 ∧ s.cad.due = [] ∧
    OnlyFields [(F.CAD_LOST, []), (F.LOCKED, []), (F.FREE_RUN, []), (F.LOST_EV, [])] d s ∧ OnlyBids d s := by
  intro s
  obtain ⟨x, hx⟩ : ∃ x, x = ((d.put0 F.CAD_LOST 1).put0 F.LOCKED 0).put0 F.FREE_RUN 1 := ⟨_, rfl⟩
  have h1 : x.get F.CAD_LOST = 1 := by
    rw [hx, Dev.get_put0_apart _ _ (by decide), Dev.get_put0_apart _ _ (by decide), Dev.get_put0_fit _ (by decide) (by decide)]
  have h2 : x.get F.LOCKED = 0 := by
    rw [hx, Dev.get_put0_apart _ _ (by decide), Dev.get_put0_fit _ (by decide) (by decide)]
  have h3 : x.get F.FREE_RUN = 1 := by
    rw [hx, Dev.get_put0_fit _ (by decide) (by decide)]
  have hf : OnlyFields [(F.CAD_LOST, []), (F.LOCKED, []), (F.FREE_RUN, []), (F.LOST_EV, [])] d x := by
    rw [hx]
    exact onlyFields_put0 _ (onlyFields_put0 _ (onlyFields_put0 _ (onlyFields_refl _ _) (by decide)) (by decide)) (by decide)
  have hr : OnlyRegs d x := by
    rw [hx]
    exact onlyRegs_trans (onlyRegs_put0 _ _ _) (onlyRegs_trans (onlyRegs_put0 _ _ _) (onlyRegs_put0 _ _ _))
  obtain ⟨y, hy⟩ : ∃ y : Dev, y = { x with cad := { d.cad with run := none, due := [] } } := ⟨_, rfl⟩
  have hyr : y.regs = x.regs := by rw [hy]
  have hs : s = y.event F.LOST_EV F.CAD_IRQ_EN 2 1 := by rw [hy, hx]; rfl
  clear_value s
  have hg : ∀ g, y.get g = x.get g := fun g => by rw [Dev.get_eq, Dev.get_eq, hyr]
  have hby : OnlyBids d y := by
    rw [hy]
    exact onlyBids_trans (onlyTalk_regs hr).bids (onlyBids_cad x _)
  subst hs
  refine ⟨?_, ?_, ?_, Dev.get_event_same _ _ _ _ (by decide) (by decide), ?_, ?_, onlyBids_trans hby (onlyRegsIrq_event _ _ _ _ _).talk.bids⟩
  · rw [Dev.get_event_apart _ _ _ _ (by decide), hg, h1]
  · rw [Dev.get_event_apart _ _ _ _ (by decide), hg, h3]
  · rw [Dev.get_event_apart _ _ _ _ (by decide), hg, h2]
  · rw [Dev.event_cad, hy]
  · exact onlyFields_event _ _ _ (onlyFields_congr rfl hyr hf) (by decide)

theorem gives_cadLost {d : Dev} (hp : Powered d) (hj : d.cad.joined = true) (hm : d.isMaster = false) (hl : d.flag F.CAD_LOST = false) :
    Gives .cadLost d fun e =>
      e.get F.CAD_LOST = 1 ∧ e.get F.FREE_RUN = 1 ∧ e.get F.LOCKED = 0 ∧ e.get F.LOST_EV = 1 ∧ e.cad.due = [] ∧
      e.cad.win.isOpen = true ∧ (d.mayBid = true → e.get F.CAD_ROLE_NOW = roleBidding) ∧ e.pos = d.pos ∧
      e.mem = d.mem ∧ e.hostMem = d.hostMem := by
  refine gives_of_onDev Dev.cadLost (fun _ => rfl) hp ?_
  rw [Dev.cadLost, if_neg (by simp [hj, hm, hl])]
  obtain ⟨h1, h2, h3, h4, h5, h6, h7⟩ := lossDeclared d
  simp only [Dev.put0_cad] at h1 h2 h3 h4 h5 h6 h7 ⊢
  generalize Dev.cadEvent _ F.LOST_EV 2 = s at *
  obtain ⟨o1, o2, o3, o4, o5⟩ := openWindow_effect s
  have hb : s.mayBid = d.mayBid := mayBid_congr h6 h7.pauses (by decide)
  refine ⟨(o4.get _ _ (by decide)).trans h1, (o4.get _ _ (by decide)).trans h2, (o4.get _ _ (by decide)).trans h3,
    (o4.get _ _ (by decide)).trans h4, o2.trans h5, o1, fun h => (o3 (hb.trans h)).1, (pos_congr o4 (by decide)).trans (pos_congr h6 (by decide)),
    o5.mem.1.trans h7.mem.1, o5.mem.2.trans h7.mem.2⟩

theorem gives_clearLost {d : Dev} (hp : Powered d) (hf : d.flag F.FREE_RUN = true) :
    Gives .clearLost d fun e => e.get F.FREE_RUN = 0 ∧ OnlyFields [(F.FREE_RUN, [])] d e ∧ OnlyRegs d e := by
  refine gives_of_onDev Dev.clearLost (fun _ => rfl) hp ?_
  rw [Dev.clearLost, if_pos hf]
  exact ⟨Dev.get_put0_fit _ (by decide) (by decide), onlyFields_put0 _ (onlyFields_refl _ _) (by decide), onlyRegs_put0 _ _ _⟩

/-! ### RUN, RESIGN and hand-over -/

theorem b2n_lt (b : Bool) : b2n b < 2 ^ 1 := by
  cases b <;> decide

theorem restRole_lt (d : Dev) : d.restRole < 2 ^ 2 := by
  unfold Dev.restRole
  split <;> decide

/-- A role taken or left beside what the cadence unit notes. -/
theorem rolePut (s : Dev) (c : Cad) {r : Nat} (hr : r < 2 ^ 2) :
    ((({ s with cad := c }) : Dev).put0 F.CAD_ROLE_NOW r).get F.CAD_ROLE_NOW = r ∧
    OnlyFields [(F.CAD_ROLE_NOW, [])] s ((({ s with cad := c }) : Dev).put0 F.CAD_ROLE_NOW r) ∧
    OnlyCad s ((({ s with cad := c }) : Dev).put0 F.CAD_ROLE_NOW r) ∧
    ((({ s with cad := c }) : Dev).put0 F.CAD_ROLE_NOW r).cad = c :=
  ⟨Dev.get_put0_fit _ (by decide) hr, onlyFields_put0 _ (onlyFields_of_regs rfl) (by decide),
    onlyCad_trans (onlyCad_cad s c) (onlyTalk_regs (onlyRegs_put0 _ _ _)).cad, rfl⟩

theorem gives_run {d : Dev} (on : Bool) (hp : Powered d) : Gives (.run on) d fun e =>
    e.get F.RUN = b2n on ∧ (on = false → d.isMaster = true → e.get F.CAD_ROLE_NOW = d.restRole ∧ e.cad.issued = none) ∧
    OnlyFields [(F.RUN, []), (F.CAD_ROLE_NOW, [])] d e ∧ OnlyCad d e := by
  refine gives_of_onDev (·.runWrite on) (fun _ => rfl) hp ?_
  have hrun : (d.put0 F.RUN (b2n on)).get F.RUN = b2n on := Dev.get_put0_fit _ (by decide) (b2n_lt on)
  have hrole : (d.put0 F.RUN (b2n on)).get F.CAD_ROLE_NOW = d.get F.CAD_ROLE_NOW := Dev.get_put0_apart _ _ (by decide)
  have hf : OnlyFields [(F.RUN, []), (F.CAD_ROLE_NOW, [])] d (d.put0 F.RUN (b2n on)) := onlyFields_put0 _ (onlyFields_refl _ _) (by decide)
  have hc : OnlyCad d (d.put0 F.RUN (b2n on)) := (onlyTalk_regs (onlyRegs_put0 _ _ _)).cad
  have hrest : (d.put0 F.RUN (b2n on)).restRole = d.restRole := rfl
  have hm : (d.put0 F.RUN (b2n on)).isMaster = d.isMaster := by rw [Dev.isMaster, hrole, Dev.isMaster]
  unfold Dev.runWrite
  extract_lets s
  change s.get F.RUN = _ at hrun
  change OnlyFields _ _ s at hf
  change OnlyCad _ s at hc
  change s.restRole = _ at hrest
  change s.isMaster = _ at hm
  clear_value s
  split
  · rename_i hon
    exact ⟨hrun, fun h => absurd (hon.symm.trans h) (by decide), hf, hc⟩
  · split
    · obtain ⟨r1, r2, r3, r4⟩ := rolePut s { s.cad with issued := none, taking := none, resign := false, handing := false } (restRole_lt s)
      refine ⟨(r2.get _ _ (by decide)).trans hrun, fun _ _ => ⟨r1.trans hrest, congrArg Cad.issued r4⟩,
        onlyFields_trans hf (onlyFields_mono (by decide) r2), onlyCad_trans hc r3⟩
    · rename_i hnm
      split
      · obtain ⟨r1, r2, r3, r4⟩ := rolePut s { s.cad with win := { s.cad.win with bidding := false } } (restRole_lt s)
        exact ⟨(r2.get _ _ (by decide)).trans hrun, fun _ h => absurd (hm.trans h) hnm,
          onlyFields_trans hf (onlyFields_mono (by decide) r2), onlyCad_trans hc r3⟩
      · exact ⟨hrun, fun _ h => absurd (hm.trans h) hnm, hf, hc⟩

/-- A new epoch begins, with this unit as master. -/
theorem masterPut (d : Dev) {ep : Nat} (he : ep < 2 ^ 16) :
    let s := (d.put0 F.EPOCH ep).put0 F.CAD_ROLE_NOW roleMaster
    s.get F.CAD_ROLE_NOW = roleMaster ∧ s.get F.EPOCH = ep ∧ s.ident = d.ident ∧
    OnlyFields [(F.CAD_ROLE_NOW, []), (F.EPOCH, [])] d s ∧ OnlyRegs d s := by
  intro s
  have hf : OnlyFields [(F.CAD_ROLE_NOW, []), (F.EPOCH, [])] d s :=
    onlyFields_put0 _ (onlyFields_put0 _ (onlyFields_refl _ _) (by decide)) (by decide)
  refine ⟨Dev.get_put0_fit _ (by decide) (by decide), ?_, ?_, hf, onlyRegs_trans (onlyRegs_put0 _ _ _) (onlyRegs_put0 _ _ _)⟩
  · rw [Dev.get_put0_apart _ _ (by decide), Dev.get_put0_fit _ (by decide) he]
  · simp only [Dev.ident, hf.get F.CHAIN_ADDR_ID [] (by decide), hf.get F.CHAIN_ADDR [] (by decide)]

theorem onHandover_effect {d : Dev} {data : List Word} (hb : d.mayBid = true) (hm : d.isMaster = false)
    (hi : (TickMsg.ofWords data).master = d.ident)
    (hn : d.cad.seen = true → epochNewer (d.get F.EPOCH) (TickMsg.ofWords data).epoch = false) :
    let e := d.onHandover data
    e.get F.CAD_ROLE_NOW = roleMaster ∧ e.get F.EPOCH = ((TickMsg.ofWords data).epoch + 1) % 2 ^ 16 ∧ e.cad.master = some d.ident ∧
    e.cad.win.isOpen = false ∧ OnlyFields [(F.CAD_ROLE_NOW, []), (F.EPOCH, [])] d e ∧ OnlyCad d e := by
  have hnot : ¬((TickMsg.ofWords data).master ≠ d.ident ∨ (!d.mayBid) = true ∨ d.isMaster = true ∨
      (d.cad.seen = true ∧ epochNewer (d.get F.EPOCH) (TickMsg.ofWords data).epoch = true)) := by
    rintro (h | h | h | ⟨h1, h2⟩)
    · exact h hi
    · rw [hb] at h
      exact absurd h (by decide)
    · exact absurd (hm.symm.trans h) (by decide)
    · exact absurd ((hn h1).symm.trans h2) (by decide)
  obtain ⟨h1, h2, h3, h4, h5⟩ := masterPut d (ep := ((TickMsg.ofWords data).epoch + 1) % 65536) (Nat.mod_lt _ (by decide))
  unfold Dev.onHandover
  extract_lets m ep held inPhase p q t x s src e
  have he : e = { s with cad := e.cad } := by
    simp only [e]
    rw [if_neg hnot]
  have hcad : e.cad.master = some s.ident ∧ e.cad.win.isOpen = false := by
    simp only [e]
    rw [if_neg hnot]
    exact ⟨rfl, rfl⟩
  change s.get _ = _ at h1
  change s.get _ = _ at h2
  change s.ident = _ at h3
  change OnlyFields _ _ s at h4
  change OnlyRegs _ s at h5
  clear_value e s
  have hr : e.regs = s.regs := by rw [he]
  refine ⟨?_, ?_, hcad.1.trans (congrArg some h3), hcad.2, onlyFields_trans h4 (onlyFields_of_regs hr), ?_⟩
  · rw [Dev.get_eq, hr, ← Dev.get_eq, h1]
  · rw [Dev.get_eq, hr]
    exact h2
  · rw [he]
    exact onlyCad_trans (onlyTalk_regs h5).cad (onlyCad_cad _ _)

theorem gives_handover {d : Dev} {port : Nat} {f : Frame} (hp : Powered d) (ha : Arrives d (port % 2) tyHandover f)
    (hb : d.mayBid = true) (hm : d.isMaster = false) (m : TickMsg) (hd : m = TickMsg.ofWords f.data) (hi : m.master = d.ident)
    (hn : d.cad.seen = true → epochNewer (d.get F.EPOCH) m.epoch = false) : Gives (.handover port f) d fun e =>
      e.get F.CAD_ROLE_NOW = roleMaster ∧ e.get F.EPOCH = (m.epoch + 1) % 2 ^ 16 ∧ e.cad.master = some d.ident ∧
      e.cad.win.isOpen = false ∧ OnlyFields [(F.CAD_ROLE_NOW, []), (F.EPOCH, [])] d e ∧ OnlyCad d e := by
  subst hd
  refine gives_of_onDev (·.handoverFrame (port % 2) f) (fun _ => rfl) hp ?_
  have hsend := receive_forward (fun s => if f.typ = tyHandover then s.onHandover f.data else s) id ha (by decide) (by decide)
  rw [if_pos ha.2.2.1] at hsend
  obtain ⟨h1, h2, h3, h4, h5, h6⟩ := onHandover_effect hb hm hi hn
  exact ⟨(hsend.get _ _).trans h1, (hsend.get _ _).trans h2, (congrArg Cad.master hsend.cad).trans h3,
    (congrArg (·.win.isOpen) hsend.cad).trans h4, onlyFields_trans h5 (onlyFields_of_regs hsend.regs), onlyCad_trans h6 hsend.talk.cad⟩

theorem gives_handoverFail {d : Dev} (hp : Powered d) (hm : d.isMaster = true) (hh : d.cad.handing = true) :
    Gives .handoverFail d fun e =>
      e.get F.HANDOVER_FAIL = 1 ∧ e.cad = { d.cad with handing := false } ∧
      OnlyFields [(F.HANDOVER_FAIL, [])] d e ∧ OnlyCad d e := by
  refine gives_of_onDev Dev.handoverFail (fun _ => rfl) hp ?_
  rw [Dev.handoverFail, if_pos (by simp [hm, hh])]
  exact ⟨Dev.get_event_same _ F.CAD_IRQ_EN 1 1 (by decide) (by decide), Dev.event_cad _ F.HANDOVER_FAIL F.CAD_IRQ_EN 1 1,
    onlyFields_event _ _ _ (onlyFields_of_regs rfl) (by decide), onlyCad_trans (onlyCad_cad d _) (onlyRegsIrq_event _ _ _ _ _).talk.cad⟩

/-- Settles O4: what a unit does that loses the cadence, and how the master's role ends and passes on. -/
theorem cadenceLoss : Obligations.CadenceLoss := by
  unfold Obligations.CadenceLoss
  refine ⟨⟨fun d hp hj hm hl => gives_cadLost hp hj hm hl, fun d hp hf => gives_clearLost hp hf⟩,
    fun d on hp => gives_run on hp, fun d hp hm => ?_, fun d port f hp ha hb hm => ?_, fun d hp hm hh => gives_handoverFail hp hm hh⟩
  · refine gives_of_onDev Dev.resignWrite (fun _ => rfl) hp ?_
    rw [Dev.resignWrite, if_pos hm]
  · intro m
    exact fun hi hn => gives_handover hp ha hb hm m rfl hi hn

end Sys2Proof
end

section
/-! SUPPORT. The election: bids heard and sent, and the end of the bid window (03 R88 to R90, Table 3.5). -/

namespace Sys2Proof

open Machine

/-- Sending on the chain or the relays is no matter to the election. -/
theorem OnlySends.bids {a b : Dev} (h : OnlySends a b) : OnlyBids a b := h.talk.bids

/-- A bid heard in an open window (03 Table 3.5 step 2). -/
theorem onBid_effect {d : Dev} (m : BidMsg) (ho : d.cad.win.isOpen = true) :
    let e := d.onBid m
    e.cad.win.best = (d.cad.win.record m).best ∧
    (d.cad.win.bidding = true → bidLower (m.prio, m.ident) (d.ownBid.prio, d.ident) = true →
      e.cad.win.bidding = false ∧ e.get F.CAD_ROLE_NOW = d.restRole) ∧
    OnlyFields [(F.CAD_ROLE_NOW, [])] d e ∧ OnlyCad d e := by
  unfold Dev.onBid
  extract_lets mine stop w src s e
  have hcond : ¬((!d.cad.win.isOpen) = true) := by simp [ho]
  have h1 : s.cad.win.best = (d.cad.win.record m).best := rfl
  have h2 : s.cad.win.bidding = (d.cad.win.bidding && !stop) := rfl
  have h3 : OnlyFields [(F.CAD_ROLE_NOW, [])] d s := onlyFields_of_regs rfl
  have h4 : OnlyCad d s := onlyCad_cad d _
  have hrest : s.restRole = d.restRole := rfl
  by_cases hstop : stop = true
  · have he : e = s.put0 F.CAD_ROLE_NOW s.restRole := by
      simp only [e]
      rw [if_neg hcond, if_pos hstop]
    clear_value e s
    subst he
    rw [Dev.put0_cad]
    refine ⟨h1, fun _ _ => ⟨?_, ?_⟩, onlyFields_put0 _ h3 (by decide), onlyCad_trans h4 (onlyTalk_regs (onlyRegs_put0 _ _ _)).cad⟩
    · rw [h2, hstop, Bool.not_true, Bool.and_false]
    · rw [Dev.get_put0_fit _ (by decide) (restRole_lt s), hrest]
  · have he : e = s := by
      simp only [e]
      rw [if_neg hcond, if_neg hstop]
    rw [he]
    exact ⟨h1, fun hb hl => absurd (by simp only [stop, hb]; exact hl) hstop, h3, h4⟩

theorem record_best (w : BidWindow) (m : BidMsg) : (w.record m).best = some (match w.best with
    | some b => if bidLower (m.prio, m.ident) b then (m.prio, m.ident) else b
    | none => (m.prio, m.ident)) := by
  unfold BidWindow.record
  cases w.best <;> rfl

/-- A BID that arrives is acted on; its frame is relayed, and offered on the ring when it was for all. -/
theorem gives_bid {d : Dev} {port : Nat} {f : Frame} (hp : Powered d) (ha : Arrives d (port % 2) tyBid f) {P : Dev → Prop}
    (hP : ∀ e, e.cad = (d.onBid (BidMsg.ofWords f.data)).cad →
      OnlyFields [(F.BID_FILTER_COUNT, [])] (d.onBid (BidMsg.ofWords f.data)) e → OnlyBids (d.onBid (BidMsg.ofWords f.data)) e → P e) :
    Gives (.bid port f) d P := by
  refine gives_of_onDev (·.bidFrame (port % 2) f) (fun _ => rfl) hp ?_
  rw [Dev.bidFrame, receive_arrives _ _ _ ha (by decide) (by decide)]
  simp only [ha.2.2.1, if_true]
  have hr := onlySends_relayOn (d.onBid (BidMsg.ofWords f.data)) f
  split
  · obtain ⟨hf, hc⟩ := offerBid_effect ((d.onBid (BidMsg.ofWords f.data)).relayOn f) true _
    exact hP _ (hc.cad.trans hr.cad) (onlyFields_trans (onlyFields_of_regs hr.regs) hf) (onlyBids_trans hr.bids hc.bids)
  · exact hP _ hr.cad (onlyFields_of_regs hr.regs) hr.bids

theorem gives_bidHeard {d : Dev} {port : Nat} {f : Frame} (hp : Powered d) (ha : Arrives d (port % 2) tyBid f)
    (ho : d.cad.win.isOpen = true) (m : BidMsg) (hm : m = BidMsg.ofWords f.data) : Gives (.bid port f) d fun e =>
      e.cad.win.best = some (match d.cad.win.best with
        | some b => if bidLower (m.prio, m.ident) b then (m.prio, m.ident) else b
        | none => (m.prio, m.ident)) ∧
      (d.cad.win.bidding = true → bidLower (m.prio, m.ident) (d.ownBid.prio, d.ident) = true →
        e.cad.win.bidding = false ∧ e.get F.CAD_ROLE_NOW = d.restRole) ∧
      OnlyFields [(F.CAD_ROLE_NOW, []), (F.BID_FILTER_COUNT, [])] d e ∧ e.mem = d.mem := by
  subst hm
  refine gives_bid hp ha fun e hc hf hb => ?_
  obtain ⟨h1, h2, h3, h4⟩ := onBid_effect (BidMsg.ofWords f.data) ho
  refine ⟨?_, fun hbid hlow => ?_, onlyFields_trans (onlyFields_mono (by decide) h3) (onlyFields_mono (by decide) hf),
    hb.mem.1.trans h4.mem.1⟩
  · rw [hc, h1, record_best]
  · obtain ⟨a, b⟩ := h2 hbid hlow
    rw [hc, hf.get F.CAD_ROLE_NOW [] (by decide)]
    exact ⟨a, b⟩

/-! ### The timer of the bids -/

/-- A period of the election passes: the BID that waited is sent. -/
theorem bidPeriod (d : Dev) :
    let s : Dev := { d with chain := { d.chain with bidSent := none, bidNext := none } }
    let e := match d.chain.bidNext with
      | some x => s.offerBid x.fwd x.frame
      | none => s
    e.chain.bidNext = none ∧ OnlyFields [(F.BID_FILTER_COUNT, [])] d e ∧ OnlyChain d e := by
  intro s
  split
  · rename_i x _
    have h : s.offerBid x.fwd x.frame = ({ s with chain := { s.chain with bidSent := some x.frame.bidKey } }).txPrimary x.fwd x.frame := by
      unfold Dev.offerBid
      rfl
    obtain ⟨u, v, hx⟩ := Dev.txPrimary_eq { s with chain := { s.chain with bidSent := some x.frame.bidKey } } x.fwd x.frame
    obtain ⟨hf, hc⟩ := offerBid_effect s x.fwd x.frame
    exact ⟨by rw [h, hx], hf, onlyChain_trans (onlyChain_chain d _) hc⟩
  · exact ⟨rfl, onlyFields_of_regs rfl, onlyChain_chain d _⟩

/-- The fields that a unit's bid and its right to bid hang on. -/
def bidFields : List Fld :=
  [F.RUN, F.CANDIDATE, F.CARD, F.PRIORITY, F.CHAIN_ADDR_ID, F.CHAIN_ADDR, F.EPOCH, F.POS_STEP_LO, F.POS_STEP_HI, F.POS_PHASE, F.POS_TICK]

/-- What a unit bids, and whether it bids now, does not hang on the BIDs it has filtered. -/
theorem bids_congr {l : List (Fld × List Nat)} {a b : Dev} (h : OnlyFields l a b) (hc : b.cad = a.cad) (hp : b.pauses = a.pauses)
    (hl : ∀ g ∈ bidFields, ∀ x ∈ l, Fld.apart x.1 x.2 g [] = true) :
    b.ownBid = a.ownBid ∧ b.ident = a.ident ∧ b.mayBid = a.mayBid ∧ b.bidsNow = a.bidsNow := by
  have hm := mayBid_congr h hp fun g hg => hl g ((by decide : [F.RUN, F.CANDIDATE, F.CARD] ⊆ bidFields) hg)
  have hpos := pos_congr h fun g hg => hl g ((by decide : [F.POS_STEP_LO, F.POS_STEP_HI, F.POS_PHASE, F.POS_TICK] ⊆ bidFields) hg)
  simp only [bidFields, List.mem_cons, List.not_mem_nil, or_false, forall_eq_or_imp, forall_eq] at hl
  obtain ⟨-, -, h3, h4, h5, h6, h7, -⟩ := hl
  have hi : b.ident = a.ident := by simp only [Dev.ident, h.get _ [] h5, h.get _ [] h6]
  have ho : b.ownBid = a.ownBid := by
    simp only [Dev.ownBid, hc, hpos, hi, h.flag _ [] h3, h.get _ [] h4, h.get _ [] h7]
  exact ⟨ho, hi, hm, by simp only [Dev.bidsNow, hc, hm, ho, hi]⟩

/-- BID_TIMER's period passes: nothing but the BIDs under way has changed, and what this unit bids has not. -/
theorem bidTimer_eq (d : Dev) : ∃ s, s.cad = d.cad ∧ s.chain.bidNext = none ∧ OnlyFields [(F.BID_FILTER_COUNT, [])] d s ∧ OnlyChain d s ∧
    s.ownBid = d.ownBid ∧ s.ident = d.ident ∧
    d.bidTimer = if d.bidsNow then
      (({ s with cad := { s.cad with win := { s.cad.win with bidding := true } } }).put0 F.CAD_ROLE_NOW roleBidding).sendBid
    else s := by
  obtain ⟨h1, h2, h3⟩ := bidPeriod d
  obtain ⟨hown, hid, -, hnow⟩ := bids_congr h2 h3.cad h3.bids.pauses (by decide)
  exact ⟨_, h3.cad, h1, h2, h3, hown, hid, by rw [← hnow]; rfl⟩

theorem gives_bidTimer {d : Dev} (hp : Powered d) (hb : d.bidsNow = true) : Gives .bidTimer d fun e =>
    e.get F.CAD_ROLE_NOW = roleBidding ∧ e.cad.win.bidding = true ∧
    e.cad.win.best = some (match d.cad.win.best with
      | some b => if bidLower (d.ownBid.prio, d.ident) b then (d.ownBid.prio, d.ident) else b
      | none => (d.ownBid.prio, d.ident)) ∧
    OnlyFields [(F.CAD_ROLE_NOW, []), (F.BID_FILTER_COUNT, [])] d e ∧ e.mem = d.mem := by
  refine gives_of_onDev Dev.bidTimer (fun _ => rfl) hp ?_
  obtain ⟨s, hc, -, hf, ho, hown, hid, he⟩ := bidTimer_eq d
  rw [he, if_pos hb]
  obtain ⟨h1, h2, h3, h4⟩ := bids_effect s { s.cad.win with bidding := true }
  refine ⟨h1, ?_, ?_, onlyFields_trans (onlyFields_mono (by decide) hf) h3, h4.mem.1.trans ho.bids.mem.1⟩
  · rw [h2]
    rfl
  · rw [h2]
    have h := record_best { s.cad.win with bidding := true } s.ownBid
    rw [hown, hc] at h
    rw [hown, hc]
    exact h

theorem gives_bidTimerIdle {d : Dev} (hp : Powered d) (hb : d.bidsNow = false) : Gives .bidTimer d fun e =>
    e.chain.bidNext = none ∧ e.cad = d.cad ∧ OnlyFields [(F.BID_FILTER_COUNT, [])] d e ∧ OnlyChain d e := by
  refine gives_of_onDev Dev.bidTimer (fun _ => rfl) hp ?_
  obtain ⟨s, hc, hn, hf, ho, -, -, he⟩ := bidTimer_eq d
  rw [he, hb]
  exact ⟨hn, hc, hf, ho⟩

theorem gives_electionStart {d : Dev} (hp : Powered d) (hb : d.mayBid = true) (hs : d.cad.seen = false) (ho : d.cad.win.isOpen = false) :
    Gives .electionStart d fun e =>
      e.get F.CAD_ROLE_NOW = roleBidding ∧ e.cad.win.isOpen = true ∧ e.cad.win.bidding = true ∧
      e.cad.win.best = some (d.ownBid.prio, d.ident) ∧
      OnlyFields [(F.CAD_ROLE_NOW, []), (F.BID_FILTER_COUNT, [])] d e ∧ e.mem = d.mem := by
  refine gives_of_onDev Dev.electionStart (fun _ => rfl) hp ?_
  rw [Dev.electionStart, if_pos (by simp [hb, hs, ho])]
  obtain ⟨h1, -, h3, h4, h5⟩ := openWindow_effect d
  obtain ⟨hr, hbid, hbest⟩ := h3 hb
  exact ⟨hr, h1, hbid, hbest, h4, h5.mem.1⟩

/-! ### The end of the window -/

/-- The epoch that follows the newest seen (03 Table 3.5 step 4). -/
def nextEpoch (d : Dev) : Nat :=
  let newest := match d.cad.win.epoch with
    | some e => if d.cad.seen then (if epochNewer e (d.get F.EPOCH) then e else d.get F.EPOCH) else e
    | none => if d.cad.seen then d.get F.EPOCH else 0
  (newest + 1) % 65536

theorem becomeMaster_eq (d : Dev) : ∃ c : Cad, c.win.isOpen = false ∧
    c.master = some (((d.put0 F.EPOCH (nextEpoch d)).put0 F.CAD_ROLE_NOW roleMaster).put0 F.NO_MASTER 0).ident ∧
    d.becomeMaster = { ((d.put0 F.EPOCH (nextEpoch d)).put0 F.CAD_ROLE_NOW roleMaster).put0 F.NO_MASTER 0 with cad := c } := by
  unfold Dev.becomeMaster
  rcases d.firstTick with ⟨p, x⟩
  exact ⟨_, rfl, rfl, rfl⟩

/-- The winner of the window becomes master, in the epoch after the newest seen (03 Table 3.5 steps 3 and 4). -/
theorem becomeMaster_effect (d : Dev) :
    let e := d.becomeMaster
    e.get F.CAD_ROLE_NOW = roleMaster ∧ e.get F.NO_MASTER = 0 ∧ e.cad.win.isOpen = false ∧ e.cad.master = some d.ident ∧
    (d.cad.seen = true → d.cad.win.epoch = none → e.get F.EPOCH = (d.get F.EPOCH + 1) % 2 ^ 16) ∧
    OnlyFields [(F.CAD_ROLE_NOW, []), (F.NO_MASTER, []), (F.EPOCH, [])] d e ∧ OnlyCad d e := by
  have hep : nextEpoch d < 2 ^ 16 := Nat.mod_lt _ (by decide)
  have hn : d.cad.seen = true → d.cad.win.epoch = none → nextEpoch d = (d.get F.EPOCH + 1) % 2 ^ 16 := by
    intro h1 h2
    simp only [nextEpoch, h1, h2, if_true] <;> rfl
  obtain ⟨c, hw, hm, he⟩ := becomeMaster_eq d
  obtain ⟨h1, h2, h3, h4, h5⟩ := masterPut d hep
  intro e
  obtain ⟨s, hs⟩ : ∃ s, s = (d.put0 F.EPOCH (nextEpoch d)).put0 F.CAD_ROLE_NOW roleMaster := ⟨_, rfl⟩
  rw [← hs] at h1 h2 h3 h4 h5 hm he
  have hf : OnlyFields [(F.CAD_ROLE_NOW, []), (F.NO_MASTER, []), (F.EPOCH, [])] d (s.put0 F.NO_MASTER 0) :=
    onlyFields_put0 _ (onlyFields_mono (by decide) h4) (by decide)
  have hi : (s.put0 F.NO_MASTER 0).ident = d.ident := by
    simp only [Dev.ident, hf.get F.CHAIN_ADDR_ID [] (by decide), hf.get F.CHAIN_ADDR [] (by decide)]
  have her : e = { s.put0 F.NO_MASTER 0 with cad := c } := he
  clear_value e
  have hg : ∀ g, e.get g = (s.put0 F.NO_MASTER 0).get g := fun g => by rw [her]; rfl
  refine ⟨?_, ?_, ?_, ?_, fun ha hb => ?_, ?_, ?_⟩
  · rw [hg, Dev.get_put0_apart _ _ (by decide), h1]
  · rw [hg, Dev.get_put0_fit _ (by decide) (by decide)]
  · rw [her]
    exact hw
  · rw [her]
    exact hm.trans (congrArg some hi)
  · rw [hg, Dev.get_put0_apart _ _ (by decide), h2, hn ha hb]
  · rw [her]
    exact onlyFields_congr rfl rfl hf
  · rw [her]
    exact onlyCad_trans (onlyTalk_regs (onlyRegs_trans h5 (onlyRegs_put0 _ _ _))).cad (onlyCad_cad _ _)

/-- The window opens again, without a master (03 R90). -/
theorem reopened (d : Dev) :
    let e := (d.put0 F.NO_MASTER 1).openWindow
    e.get F.NO_MASTER = 1 ∧ e.cad.win.isOpen = true ∧
    OnlyFields [(F.CAD_ROLE_NOW, []), (F.NO_MASTER, []), (F.BID_FILTER_COUNT, [])] d e ∧ e.mem = d.mem := by
  obtain ⟨h1, -, -, h4, h5⟩ := openWindow_effect (d.put0 F.NO_MASTER 1)
  refine ⟨?_, h1, ?_, h5.mem.1.trans (d.put0_mem _ _)⟩
  · rw [h4.get _ _ (by decide), Dev.get_put0_fit _ (by decide) (by decide)]
  · exact onlyFields_trans (onlyFields_put0 _ (onlyFields_refl _ _) (by decide)) (onlyFields_mono (by decide) h4)

/-- The four ends of a bid window (03 Table 3.5 step 3, R90). -/
theorem windowEnd_eq {d : Dev} (ho : d.cad.win.isOpen = true) :
    (∀ b, d.cad.win.best = some b → d.cad.win.bidding = true → b = (d.ownBid.prio, d.ident) → d.windowEnd = d.becomeMaster) ∧
    (d.cad.win.best = none → d.windowEnd = (d.put0 F.NO_MASTER 1).openWindow) ∧
    (∀ b, d.cad.win.best = some b → b.2 = d.ident → d.cad.win.bidding = false → d.windowEnd = (d.put0 F.NO_MASTER 1).openWindow) ∧
    (∀ b, d.cad.win.best = some b → b.2 ≠ d.ident → d.windowEnd =
      ({ d with cad := { d.cad with win := ⟨false, none, none, none, false⟩ } }).put0 F.NO_MASTER 0) := by
  unfold Dev.windowEnd
  rw [if_neg (by simp [ho])]
  refine ⟨fun b hb hbid h => ?_, fun hb => ?_, fun b hb hi hbid => ?_, fun b hb hi => ?_⟩
  · rw [hb]
    exact if_pos (by simp [hbid, h])
  · rw [hb]
  · rw [hb]
    exact (if_neg (by simp [hbid])).trans (if_pos hi)
  · rw [hb]
    refine (if_neg fun h => ?_).trans (if_neg hi)
    simp only [Bool.and_eq_true, beq_iff_eq] at h
    exact hi (congrArg Prod.snd h.2)

/-- Settles O5: bids heard and sent, and who becomes master at the end of the window. -/
theorem cadenceElection : Obligations.CadenceElection := by
  unfold Obligations.CadenceElection
  refine ⟨fun d port f hp ha ho => ?_, fun d hp hb => gives_bidTimer hp hb, fun d hp hb => gives_bidTimerIdle hp hb,
    fun d hp hb hs ho => gives_electionStart hp hb hs ho, fun d hp ho => ?_⟩
  · intro m
    exact gives_bidHeard hp ha ho m rfl
  · obtain ⟨h1, h2, h3, h4⟩ := windowEnd_eq ho
    refine ⟨fun b hb hbid h => gives_of_onDev Dev.windowEnd (fun _ => rfl) hp ?_,
      fun hb => gives_of_onDev Dev.windowEnd (fun _ => rfl) hp ?_, fun b hb hi hbid => gives_of_onDev Dev.windowEnd (fun _ => rfl) hp ?_,
      fun b hb hi => gives_of_onDev Dev.windowEnd (fun _ => rfl) hp ?_⟩
    · rw [h1 b hb hbid h]
      exact becomeMaster_effect d
    · rw [h2 hb]
      exact reopened d
    · rw [h3 b hb hi hbid]
      exact reopened d
    · rw [h4 b hb hi, Dev.put0_cad]
      exact ⟨Dev.get_put0_fit _ (by decide) (by decide), rfl, onlyFields_put0 _ (onlyFields_of_regs rfl) (by decide),
        onlyCad_trans (onlyCad_cad d _) (onlyTalk_regs (onlyRegs_put0 _ _ _)).cad⟩

end Sys2Proof
end

section
/-! SUPPORT. The registers of an alarm, and arming and disarming it (03 R94 to R103). -/

namespace Sys2Proof

open Machine

/-! ### Where fields lie -/

theorem apart_of_off {f g : Fld} {ix jx : List Nat} (h : g.off jx ≠ f.off ix) (hw : g.lo + g.w ≤ 32) : Fld.apart f ix g jx = true := by
  simp only [Fld.apart, Bool.and_eq_true, Bool.or_eq_true, decide_eq_true_eq]
  exact ⟨.inl (.inl h), hw⟩

theorem apart_of_bits {f g : Fld} {ix jx : List Nat} (h : g.lo + g.w ≤ f.lo ∨ f.lo + f.w ≤ g.lo) (hw : g.lo + g.w ≤ 32) :
    Fld.apart f ix g jx = true := by
  simp only [Fld.apart, Bool.and_eq_true, Bool.or_eq_true, decide_eq_true_eq]
  exact ⟨by tauto, hw⟩

/-- A register that none of the listed fields lies in is as before. -/
theorem OnlyFields.reg {l : List (Fld × List Nat)} {a b : Dev} (h : OnlyFields l a b) (o : Nat) (ho : ∀ x ∈ l, o ≠ x.1.off x.2) :
    b.reg o = a.reg o := BitVec.eq_of_getLsbD_eq fun i _ => h o i fun x hx he => ho x hx he.1

/-- The fields of an alarm's entry that its arming and its dispatch write. -/
def alFields : List Fld := [F.AL_STATE, F.AL_LAST, F.AL_FIRED]

theorem al_off {f : Fld} (hf : f ∈ alFields) (n : Nat) : f.off [n] = 0x101018 + 32 * n := by
  simp only [alFields, List.mem_cons, List.not_mem_nil, or_false] at hf
  rcases hf with rfl | rfl | rfl <;> simp [Fld.off]

/-- An alarm's entry lies apart from every register outside the alarm table. -/
theorem al_apart {f g : Fld} {n : Nat} {jx : List Nat} (hf : f ∈ alFields) (hn : n < 256) (h : g.off jx < 0x101000 ∨ 0x103000 ≤ g.off jx)
    (hw : g.lo + g.w ≤ 32) : Fld.apart f [n] g jx = true := apart_of_off (by rw [al_off hf]; omega) hw

/-! ### ARM and DISARM -/

/-- The fields a target is judged by. -/
theorem targetPast_congr {a b : Dev} (t : Target) (hpos : b.pos = a.pos) (hend : b.get F.POS_END = a.get F.POS_END)
    (hj : b.cad.joined = a.cad.joined) : b.targetPast t = a.targetPast t := by
  simp only [Dev.targetPast, hpos, hend, hj]

theorem targetPast_put_al (s : Dev) {f : Fld} (n v : Nat) (t : Target) (hf : f ∈ alFields) (hn : n < 256) :
    (s.put f [n] v).targetPast t = s.targetPast t := by
  have hg : ∀ g ∈ [F.POS_STEP_LO, F.POS_STEP_HI, F.POS_PHASE, F.POS_TICK, F.POS_END], (s.put f [n] v).get g = s.get g := by
    intro g hg
    obtain ⟨h1, h2⟩ := (by decide : ∀ g ∈ [F.POS_STEP_LO, F.POS_STEP_HI, F.POS_PHASE, F.POS_TICK, F.POS_END],
      g.off [] < 0x101000 ∧ g.lo + g.w ≤ 32) g hg
    exact Dev.get_put_apart _ _ (al_apart hf hn (.inl h1) h2)
  simp only [List.mem_cons, List.not_mem_nil, or_false, forall_eq_or_imp, forall_eq] at hg
  obtain ⟨h1, h2, h3, h4, h5⟩ := hg
  exact targetPast_congr t (by simp only [Dev.pos, Dev.get64, h1, h2, h3, h4]) h5 rfl

/-- ARM, in its three ways (03 R96, R98). -/
theorem arm_eq (d : Dev) {n : Nat} (hn : n < 256) :
    (d.arm n).2 =
      if d.alarmAllowed (d.staged n) then
        let s := ({ d with alarms := Tab.set none d.alarms n (some (d.staged n)) }).put F.AL_STATE [n] 1
        if d.targetPast (d.staged n).target then s.beginDispatch n true (d.staged n) else s
      else d.put F.AL_LAST [n] stPROT := by
  have ht : (({ d with alarms := Tab.set none d.alarms n (some (d.staged n)) } : Dev).put F.AL_STATE [n] 1).targetPast
      (d.staged n).target = d.targetPast (d.staged n).target :=
    (targetPast_put_al _ n 1 _ (by decide) hn).trans (targetPast_congr _ rfl rfl rfl)
  unfold Dev.arm
  cases h : d.alarmAllowed (d.staged n)
  · simp only [h, Bool.not_false, if_true, Bool.false_eq_true, if_false]
  · simp only [h, Bool.not_true, Bool.false_eq_true, if_false, if_true, ht]
    split <;> rfl

theorem gives_arm {d : Dev} {n : Nat} (hp : Powered d) (hn : n < 256) {P : Dev → Prop} (h : P (d.arm n).2) : Gives (.arm n) d P := by
  refine gives_of_onDev (fun d => (d.arm (n % 256)).2) (fun _ => rfl) hp ?_
  rw [Nat.mod_eq_of_lt hn]
  exact h

theorem gives_disarm {d : Dev} {n : Nat} (hp : Powered d) (hn : n < 256) {P : Dev → Prop} (h : P (d.disarm n)) : Gives (.disarm n) d P := by
  refine gives_of_onDev (·.disarm (n % 256)) (fun _ => rfl) hp ?_
  rw [Nat.mod_eq_of_lt hn]
  exact h

/-- An alarm's entry holds `v` and its STATE reads `k`. -/
theorem alarmEntry (d : Dev) (n : Nat) (v : Option AlarmCopy) {k : Nat} (hk : k < 2 ^ 2) :
    let s := ({ d with alarms := Tab.set none d.alarms n v }).put F.AL_STATE [n] k
    s.get F.AL_STATE [n] = k ∧ Tab.get none s.alarms n = v ∧ (∀ m, m ≠ n → Tab.get none s.alarms m = Tab.get none d.alarms m) ∧
    s.dispatch = d.dispatch ∧ OnlyFields [(F.AL_STATE, [n])] d s ∧ s = { d with regs := s.regs, alarms := s.alarms } := by
  intro s
  have ha : s.alarms = Tab.set none d.alarms n v := Dev.put_alarms _ _ _ _
  refine ⟨Dev.get_put_fit _ (by decide) hk, ?_, fun m hm => ?_, Dev.put_dispatch _ _ _ _,
    onlyFields_put _ (onlyFields_of_regs rfl) (List.mem_singleton.mpr rfl), rfl⟩
  · rw [ha, Tab.get_set_same]
  · rw [ha, Tab.get_set_ne _ _ _ _ _ _ hm]

/-- A dispatch begins: it is the last of those under way, and the alarm's STATE reads 2 (03 R100). -/
theorem beginDispatch_reads (s : Dev) (n : Nat) (c : AlarmCopy) :
    let e := s.beginDispatch n true c
    e.get F.AL_STATE [n] = 2 ∧ e.dispatch = s.dispatch ++ [⟨n, true, c, false⟩] ∧ e.alarms = s.alarms ∧
    OnlyFields [(F.AL_STATE, [n])] s e ∧ e = { s with regs := e.regs, dispatch := e.dispatch } :=
  ⟨Dev.get_put_fit _ (by decide) (by decide), Dev.put_dispatch _ _ _ _, Dev.put_alarms _ _ _ _,
    onlyFields_put _ (onlyFields_of_regs rfl) (List.mem_singleton.mpr rfl), rfl⟩

/-- Settles O6: what ARM copies, arms or refuses, and what DISARM ends. -/
theorem alarmArmDisarm : Obligations.AlarmArmDisarm := by
  unfold Obligations.AlarmArmDisarm
  intro d n hp hn
  extract_lets c past
  have harm : (d.arm n).2 = if d.alarmAllowed c = true then _ else _ := arm_eq d hn
  refine ⟨fun ha => gives_arm hp hn ?_, fun ha ht => gives_arm hp hn ?_, fun ha ht => gives_arm hp hn ?_,
    fun hs => gives_disarm hp hn ?_, fun hs => gives_disarm hp hn ?_⟩
  · rw [harm, ha]
    exact ⟨Dev.get_put_fit _ (by decide) (by decide), onlyFields_put _ (onlyFields_refl _ _) (List.mem_singleton.mpr rfl), rfl⟩
  · obtain ⟨h1, h2, h3, -, h5, h6⟩ := alarmEntry d n (some c) (k := 1) (by decide)
    have hpast : ¬d.targetPast (d.staged n).target = true := fun h => absurd (ht.symm.trans h) (by decide)
    simp only [ha, if_true, if_neg hpast] at harm
    rw [harm]
    exact ⟨h1, h2, h3, h5, h6⟩
  · obtain ⟨-, h2, -, h4, h5, h6⟩ := alarmEntry d n (some c) (k := 1) (by decide)
    have hpast : d.targetPast (d.staged n).target = true := ht
    simp only [ha, if_true, if_pos hpast] at harm
    rw [harm]
    obtain ⟨b1, b2, b3, b4, b5⟩ := beginDispatch_reads
      (({ d with alarms := Tab.set none d.alarms n (some c) } : Dev).put F.AL_STATE [n] 1) n c
    generalize (({ d with alarms := Tab.set none d.alarms n (some c) } : Dev).put F.AL_STATE [n] 1) = s at *
    generalize s.beginDispatch n true (d.staged n) = e at *
    refine ⟨b1, by rw [b3, h2], by rw [b2, h4], onlyFields_trans h5 b4, ?_⟩
    rw [h6] at b5
    exact b5.trans (by rw [b3])
  · rw [Dev.disarm, if_neg hs]
    obtain ⟨h1, h2, -, h4, h5, h6⟩ := alarmEntry d n none (k := 0) (by decide)
    exact ⟨h1, h2, h4, h5, h6⟩
  · rw [Dev.disarm, if_pos hs]
    exact ⟨Tab.get_set_same none d.alarms n none, rfl⟩

end Sys2Proof
end

section
/-! SUPPORT. The end of an alarm's dispatch (03 R98, R101 to R103). -/

namespace Sys2Proof

open Machine

/-- Beside the alarm's own entry, what its end tells the unit's host and neighbours, and the dispatches, `b` is `a`. -/
def OnlyEnds (a b : Dev) : Prop :=
  b = { a with
    regs := b.regs, alarms := b.alarms, dispatch := b.dispatch, cad := { a.cad with alarmSent := b.cad.alarmSent }
    host := { a.host with sent := b.host.sent, pfPba := b.host.pfPba }
    chain := { a.chain with txU := b.chain.txU, txD := b.chain.txD } }

theorem onlyEnds_refl (a : Dev) : OnlyEnds a a := rfl

theorem onlyEnds_trans {a b c : Dev} (h : OnlyEnds a b) (h' : OnlyEnds b c) : OnlyEnds a c := by
  unfold OnlyEnds at *
  rw [h] at h'
  exact h'

theorem onlyEnds_of_regs {a b : Dev} (h : OnlyRegs a b) : OnlyEnds a b := by
  unfold OnlyRegs at h
  generalize b.regs = r at h
  subst h
  rfl

theorem OnlyEnds.mem {a b : Dev} (h : OnlyEnds a b) : b.mem = a.mem ∧ b.hostMem = a.hostMem ∧ b.queues = a.queues ∧ b.scree = a.scree ∧
    b.pwr = a.pwr := by
  rw [h]
  exact ⟨rfl, rfl, rfl, rfl, rfl⟩

/-- What the end of a dispatch records of itself. -/
def noteEnd (s : Dev) (x : Dispatch) (status : Nat) : Dev :=
  (s.put F.AL_FIRED [x.alarm] ((s.get F.AL_FIRED [x.alarm] + 1) % 65536)).put F.AL_LAST [x.alarm]
    (if status = stOK ∧ x.late then stLATE else status)

/-- Whom the end of a dispatch tells. -/
def tellEnd (s : Dev) (x : Dispatch) (status : Nat) : Dev :=
  let st := if status = stOK ∧ x.late then stLATE else status
  if st ≠ stOK ∨ x.copy.notify then (s.alarmEvent x.alarm).alarmNotify x.alarm st else s

/-- The alarm armed for the step after its copy's (03 R102). -/
def armNext (s : Dev) (x : Dispatch) : Dev :=
  let c := { x.copy with step := x.copy.step + 1 }
  let s := ({ s with alarms := Tab.set none s.alarms x.alarm (some c) }).put F.AL_STATE [x.alarm] 1
  if s.targetPast c.target then s.beginDispatch x.alarm true c else s

/-- The alarm armed again, or idle, at the end of a dispatch. -/
def rearm (s : Dev) (x : Dispatch) : Dev :=
  match Tab.get none s.alarms x.alarm with
  | none => s.put F.AL_STATE [x.alarm] 0
  | some _ =>
    if s.get F.AL_STATE [x.alarm] = 1 ∨ s.dispatch.any (fun y => y.alarm == x.alarm) then s
    else if x.copy.rep ∧ !x.cancelled ∧ x.copy.step < stepMax then armNext s x
    else ({ s with alarms := Tab.set none s.alarms x.alarm none }).put F.AL_STATE [x.alarm] 0

theorem endDispatch_eq (s : Dev) (x : Dispatch) (status : Nat) :
    s.endDispatch x status = rearm (tellEnd (noteEnd s x status) x status) x := rfl

/-! ### The parts -/

theorem noteEnd_reads (s : Dev) (x : Dispatch) {status : Nat} (hs : status < 2 ^ 4) :
    DispatchEnds x status s (noteEnd s x status) ∧ OnlyFields [(F.AL_FIRED, [x.alarm]), (F.AL_LAST, [x.alarm])] s (noteEnd s x status) ∧
    OnlyRegs s (noteEnd s x status) := by
  have hst : (if status = stOK ∧ x.late then stLATE else status) < 2 ^ 4 := by
    split
    · decide
    · exact hs
  refine ⟨⟨?_, Dev.get_put_fit _ (by decide) hst⟩, ?_, onlyRegs_trans (onlyRegs_put _ _ _ _) (onlyRegs_put _ _ _ _)⟩
  · unfold noteEnd
    rw [Dev.get_put_apart _ _ (apart_of_bits (by decide) (by decide))]
    exact Dev.get_put_fit _ (by decide) (Nat.mod_lt _ (by decide))
  · exact onlyFields_put _ (onlyFields_put _ (onlyFields_refl _ _) (by simp)) (by simp)

/-- The event register of an alarm lies below the alarm table. -/
theorem alarmEvent_off (n : Nat) : F.ALARM_EVENT.off [n / 32] = 0x100100 + 4 * (n / 32) := by
  simp [Fld.off]

theorem alarmEvent_apart {g : Fld} {n : Nat} {jx : List Nat} (hn : n < 256) (h : g.off jx < 0x100100 ∨ 0x100120 ≤ g.off jx)
    (hw : g.lo + g.w ≤ 32) : Fld.apart F.ALARM_EVENT [n / 32] g jx = true := by
  refine apart_of_off ?_ hw
  rw [alarmEvent_off]
  omega

/-- What a message to the host hangs on has not changed. -/
def SameHost (a b : Dev) : Prop := b.host = a.host ∧ b.canMaster 0 = a.canMaster 0

/-- The host has been told no more than one message of the cadence's vector. -/
def ToldCadence (a b : Dev) : Prop := b.host = a.host ∨ ∃ s, SameHost a s ∧ b.host = (s.raisePf 1).host

theorem alarmNotify_only (s : Dev) (n st : Nat) :
    (s.alarmNotify n st).regs = s.regs ∧ (s.alarmNotify n st).host = s.host ∧ (s.alarmNotify n st).alarms = s.alarms ∧
    (s.alarmNotify n st).dispatch = s.dispatch ∧ OnlyEnds s (s.alarmNotify n st) := by
  unfold Dev.alarmNotify
  split
  · exact ⟨rfl, rfl, rfl, rfl, onlyEnds_refl s⟩
  · obtain ⟨u, v, h⟩ := Dev.notify_eq { s with cad := { s.cad with alarmSent := n :: s.cad.alarmSent } } 8 (n + st * 2 ^ 8)
    rw [h]
    exact ⟨rfl, rfl, rfl, rfl, rfl⟩

theorem alarmEvent_reads (s : Dev) {n : Nat} (hn : n < 256) :
    bitAt ((s.alarmEvent n).get F.ALARM_EVENT [n / 32]) (n % 32) = true ∧
    OnlyFields [(F.ALARM_EVENT, [n / 32])] s (s.alarmEvent n) ∧ OnlyEnds s (s.alarmEvent n) ∧
    (s.alarmEvent n).alarms = s.alarms ∧ (s.alarmEvent n).dispatch = s.dispatch ∧ ToldCadence s (s.alarmEvent n) := by
  obtain ⟨x, hx⟩ : ∃ x, x = s.put F.ALARM_EVENT [n / 32] (setBit (s.get F.ALARM_EVENT [n / 32]) (n % 32)) := ⟨_, rfl⟩
  have hbit : bitAt (x.get F.ALARM_EVENT [n / 32]) (n % 32) = true := by
    rw [hx, Dev.get_put_fit _ (by decide) (setBit_lt _ (s.get_lt _ _) (Nat.mod_lt _ (by decide))), bitAt_setBit, if_pos rfl]
  have hf : OnlyFields [(F.ALARM_EVENT, [n / 32])] s x := by
    rw [hx]
    exact onlyFields_put _ (onlyFields_refl _ _) (List.mem_singleton.mpr rfl)
  have hr : OnlyRegs s x := by
    rw [hx]
    exact onlyRegs_put _ _ _ _
  have hhost : x.host = s.host := by rw [hx]; exact Dev.put_host _ _ _ _
  have hal : x.alarms = s.alarms ∧ x.dispatch = s.dispatch ∧ x.pauses = s.pauses := by
    rw [hx]
    exact ⟨Dev.put_alarms _ _ _ _, Dev.put_dispatch _ _ _ _, Dev.put_pauses _ _ _ _⟩
  obtain ⟨h1, h2, h3⟩ := hal
  have hd3 : x.flag F.PF_D3HOT = s.flag F.PF_D3HOT := hf.flag _ _ fun y hy => by
    rw [List.mem_singleton.mp hy]
    exact alarmEvent_apart hn (.inr (by decide)) (by decide)
  have hm : x.canMaster 0 = s.canMaster 0 := by
    simp only [Dev.canMaster, Dev.hostShut, hhost, hd3, h3]
  unfold Dev.alarmEvent
  rw [← hx]
  dsimp only
  split
  · obtain ⟨m, p, he⟩ := x.raisePf_eq 1
    have hregs : (x.raisePf 1).regs = x.regs := by rw [he]
    have hends : OnlyEnds x (x.raisePf 1) := by rw [he]; rfl
    have hkeep : (x.raisePf 1).alarms = x.alarms ∧ (x.raisePf 1).dispatch = x.dispatch := by
      rw [he]
      exact ⟨rfl, rfl⟩
    refine ⟨?_, onlyFields_trans hf (onlyFields_of_regs hregs), onlyEnds_trans (onlyEnds_of_regs hr) hends, hkeep.1.trans h1,
      hkeep.2.trans h2, .inr ⟨x, ⟨hhost, hm⟩, rfl⟩⟩
    rw [Dev.get_eq, hregs]
    exact hbit
  · exact ⟨hbit, hf, onlyEnds_of_regs hr, h1, h2, .inl hhost⟩

theorem tellEnd_reads (s : Dev) (x : Dispatch) (status : Nat) (hn : x.alarm < 256) :
    (x.late = true ∨ x.copy.notify = true → bitAt ((tellEnd s x status).get F.ALARM_EVENT [x.alarm / 32]) (x.alarm % 32) = true) ∧
    OnlyFields [(F.ALARM_EVENT, [x.alarm / 32])] s (tellEnd s x status) ∧ OnlyEnds s (tellEnd s x status) ∧
    (tellEnd s x status).alarms = s.alarms ∧ (tellEnd s x status).dispatch = s.dispatch ∧ ToldCadence s (tellEnd s x status) := by
  unfold tellEnd
  extract_lets st
  split
  · obtain ⟨h1, h2, h3, h4, h5, h6⟩ := alarmEvent_reads s hn
    obtain ⟨n1, n2, n3, n4, n5⟩ := alarmNotify_only (s.alarmEvent x.alarm) x.alarm st
    refine ⟨fun _ => ?_, onlyFields_trans h2 (onlyFields_of_regs n1), onlyEnds_trans h3 n5, n3.trans h4, n4.trans h5, ?_⟩
    · rw [Dev.get_eq, n1]
      exact h1
    · rcases h6 with h6 | ⟨y, hy, h6⟩
      · exact .inl (n2.trans h6)
      · exact .inr ⟨y, hy, n2.trans h6⟩
  · rename_i hno
    refine ⟨fun h => absurd ?_ hno, onlyFields_refl _ _, onlyEnds_refl s, rfl, rfl, .inl rfl⟩
    rcases h with h | h
    · refine .inl ?_
      simp only [st, h, and_true]
      split
      · decide
      · assumption
    · exact .inr h

/-- Nothing but registers, the alarms' entries and the dispatches under way has changed. -/
def OnlyAlarm (a b : Dev) : Prop := b = { a with regs := b.regs, alarms := b.alarms, dispatch := b.dispatch }

theorem onlyAlarm_trans {a b c : Dev} (h : OnlyAlarm a b) (h' : OnlyAlarm b c) : OnlyAlarm a c := by
  unfold OnlyAlarm at *
  rw [h] at h'
  exact h'

theorem onlyAlarm_of_entry {a b : Dev} (h : b = { a with regs := b.regs, alarms := b.alarms }) : OnlyAlarm a b := by
  unfold OnlyAlarm
  generalize b.regs = r, b.alarms = t at h
  subst h
  rfl

theorem onlyAlarm_of_dispatch {a b : Dev} (h : b = { a with regs := b.regs, dispatch := b.dispatch }) : OnlyAlarm a b := by
  unfold OnlyAlarm
  generalize b.regs = r, b.dispatch = t at h
  subst h
  rfl

theorem OnlyAlarm.ends {a b : Dev} (h : OnlyAlarm a b) : OnlyEnds a b := by
  unfold OnlyAlarm OnlyEnds at *
  generalize b.regs = r, b.alarms = t, b.dispatch = u at h
  subst h
  rfl

theorem OnlyAlarm.host {a b : Dev} (h : OnlyAlarm a b) : b.host = a.host := by
  rw [h]

/-- Only the alarm's STATE, its entry and the dispatches are touched when it is armed again. -/
theorem rearm_only (s : Dev) (x : Dispatch) :
    OnlyFields [(F.AL_STATE, [x.alarm])] s (rearm s x) ∧ OnlyAlarm s (rearm s x) ∧ ∃ l, (rearm s x).dispatch = s.dispatch ++ l := by
  unfold rearm
  split
  · exact ⟨onlyFields_put _ (onlyFields_refl _ _) (List.mem_singleton.mpr rfl), rfl, [], by simp⟩
  · split
    · exact ⟨onlyFields_refl _ _, rfl, [], by simp⟩
    · split
      · unfold armNext
        extract_lets copy c y
        obtain ⟨-, -, -, h4, h5, h6⟩ := alarmEntry s x.alarm (some c) (k := 1) (by decide)
        have hy : OnlyAlarm s y := onlyAlarm_of_entry h6
        change y.dispatch = _ at h4
        change OnlyFields _ s y at h5
        clear_value y
        split
        · obtain ⟨-, b2, -, b4, b5⟩ := beginDispatch_reads y x.alarm c
          exact ⟨onlyFields_trans h5 b4, onlyAlarm_trans hy (onlyAlarm_of_dispatch b5), _, by rw [b2, h4]⟩
        · exact ⟨h5, hy, [], by rw [h4, List.append_nil]⟩
      · obtain ⟨-, -, -, h4, h5, h6⟩ := alarmEntry s x.alarm none (k := 0) (by decide)
        exact ⟨h5, onlyAlarm_of_entry h6, [], by rw [h4, List.append_nil]⟩

/-- An alarm that was not armed anew: it is idle, or armed for the next step when it repeats (03 R102). -/
theorem rearm_alone {s : Dev} {x : Dispatch} (hn : x.alarm < 256) (ha : Tab.get none s.alarms x.alarm = some x.copy)
    (hs : s.get F.AL_STATE [x.alarm] = 2) (hd : ∀ y ∈ s.dispatch, y.alarm ≠ x.alarm) :
    (x.copy.rep = false → (rearm s x).get F.AL_STATE [x.alarm] = 0 ∧ Tab.get none (rearm s x).alarms x.alarm = none) ∧
    (x.copy.rep = true → x.cancelled = false → x.copy.step < stepMax →
      Tab.get none (rearm s x).alarms x.alarm = some { x.copy with step := x.copy.step + 1 } ∧
      (s.targetPast ({ x.copy with step := x.copy.step + 1 } : AlarmCopy).target = false → (rearm s x).get F.AL_STATE [x.alarm] = 1)) := by
  have hno : ¬(s.get F.AL_STATE [x.alarm] = 1 ∨ s.dispatch.any (fun y => y.alarm == x.alarm) = true) := by
    rw [hs]
    simp only [List.any_eq_true, beq_iff_eq, not_or, not_exists, not_and]
    exact ⟨by decide, hd⟩
  have he : rearm s x = if x.copy.rep ∧ !x.cancelled ∧ x.copy.step < stepMax then armNext s x
      else ({ s with alarms := Tab.set none s.alarms x.alarm none }).put F.AL_STATE [x.alarm] 0 := by
    unfold rearm
    rw [ha]
    exact if_neg hno
  rw [he]
  refine ⟨fun hr => ?_, fun hr hc hstep => ?_⟩
  · rw [if_neg (by simp [hr])]
    obtain ⟨h1, h2, -⟩ := alarmEntry s x.alarm none (k := 0) (by decide)
    exact ⟨h1, h2⟩
  · rw [if_pos ⟨hr, by simp [hc], hstep⟩]
    unfold armNext
    extract_lets copy c y
    obtain ⟨h1, h2, -⟩ := alarmEntry s x.alarm (some c) (k := 1) (by decide)
    have ht : y.targetPast c.target = s.targetPast c.target :=
      (targetPast_put_al _ x.alarm 1 _ (by decide) hn).trans (targetPast_congr _ rfl rfl rfl)
    change y.get _ _ = _ at h1
    change Tab.get none y.alarms _ = _ at h2
    clear_value y
    split
    · rename_i hp
      obtain ⟨-, -, b3, -⟩ := beginDispatch_reads y x.alarm c
      exact ⟨by rw [b3]; exact h2, fun hf => absurd (hp.symm.trans (ht.trans hf)) (by decide)⟩
    · exact ⟨h2, fun _ => h1⟩

/-! ### The whole -/

/-- What the end of a dispatch is, whatever the action did (03 R98, R102). -/
theorem endDispatch_reads (s : Dev) (x : Dispatch) {status : Nat} (hs : status < 2 ^ 4) (hn : x.alarm < 256) :
    let e := s.endDispatch x status
    DispatchEnds x status s e ∧ (∃ l, e.dispatch = s.dispatch ++ l) ∧
    (x.late = true ∨ x.copy.notify = true → bitAt (e.get F.ALARM_EVENT [x.alarm / 32]) (x.alarm % 32) = true) ∧
    OnlyFields [(F.AL_FIRED, [x.alarm]), (F.AL_LAST, [x.alarm]), (F.AL_STATE, [x.alarm]), (F.ALARM_EVENT, [x.alarm / 32])] s e ∧
    OnlyEnds s e ∧ ToldCadence s e := by
  rw [endDispatch_eq]
  obtain ⟨⟨n1, n2⟩, n3, n4⟩ := noteEnd_reads s x hs
  have hnh : SameHost s (noteEnd s x status) := by
    have hh : (noteEnd s x status).host = s.host ∧ (noteEnd s x status).pauses = s.pauses := by rw [n4]; exact ⟨rfl, rfl⟩
    have hd : (noteEnd s x status).flag F.PF_D3HOT = s.flag F.PF_D3HOT := n3.flag _ _ fun y hy => by
      simp only [List.mem_cons, List.not_mem_nil, or_false] at hy
      rcases hy with rfl | rfl <;> exact al_apart (by simp [alFields]) hn (.inr (by decide)) (by decide)
    refine ⟨hh.1, ?_⟩
    simp only [Dev.canMaster, Dev.hostShut, hh.1, hh.2, hd]
  have hnd : (noteEnd s x status).dispatch = s.dispatch := by rw [n4]
  generalize noteEnd s x status = a at *
  obtain ⟨t1, t2, t3, -, t5, t6⟩ := tellEnd_reads a x status hn
  generalize tellEnd a x status = b at *
  obtain ⟨r1, r2, l, r3⟩ := rearm_only b x
  generalize rearm b x = e at *
  have hev : ∀ f ∈ alFields, b.get f [x.alarm] = a.get f [x.alarm] := fun f hf => t2.get _ _ fun y hy => by
    rw [List.mem_singleton.mp hy]
    refine apart_of_off ?_ ((by decide : ∀ f ∈ alFields, f.lo + f.w ≤ 32) f hf)
    rw [al_off hf, alarmEvent_off]
    omega
  have hst : ∀ f ∈ [F.AL_LAST, F.AL_FIRED], e.get f [x.alarm] = b.get f [x.alarm] := fun f hf => r1.get _ _ fun y hy => by
    rw [List.mem_singleton.mp hy]
    obtain ⟨h1, h2⟩ := (by decide : ∀ f ∈ [F.AL_LAST, F.AL_FIRED], F.AL_STATE.lo + F.AL_STATE.w ≤ f.lo ∧ f.lo + f.w ≤ 32) f hf
    exact apart_of_bits (.inr h1) h2
  refine ⟨⟨?_, ?_⟩, ⟨l, by rw [r3, t5, hnd]⟩, fun h => ?_, ?_, ?_, ?_⟩
  · rw [hst _ (by decide), hev _ (by decide), n1]
  · rw [hst _ (by decide), hev _ (by decide), n2]
  · rw [r1.get _ _ fun y hy => ?_]
    · exact t1 h
    · rw [List.mem_singleton.mp hy]
      refine al_apart (f := F.AL_STATE) (by decide) hn (.inl ?_) (by decide)
      rw [alarmEvent_off]
      omega
  · exact onlyFields_trans (onlyFields_mono (by simp) n3)
      (onlyFields_trans (onlyFields_mono (by simp) t2) (onlyFields_mono (by simp) r1))
  · exact onlyEnds_trans (onlyEnds_of_regs n4) (onlyEnds_trans t3 r2.ends)
  · rcases t6 with h | ⟨y, ⟨h1, h2⟩, h3⟩
    · exact .inl (r2.host.trans (h.trans hnh.1))
    · exact .inr ⟨y, ⟨h1.trans hnh.1, h2.trans hnh.2⟩, r2.host.trans h3⟩

end Sys2Proof
end

section
/-! SUPPORT. The dispatch of alarms: without an action, doorbells, interrupts and commits (03 R100 to R103, Table 3.7). -/

namespace Sys2Proof

open Machine

/-- The oldest dispatch, where nothing stands in its way: its action, then its end (03 R100). -/
theorem dispatchAlarm_eq {d : Dev} {x : Dispatch} {rest : List Dispatch} {acts : List Nat} (h : MayDispatch d x rest)
    (ha : x.copy.action ∈ acts) :
    d.dispatchAlarm acts =
      (({ d with dispatch := rest } : Dev).alarmAct x.copy).2.endDispatch x (({ d with dispatch := rest } : Dev).alarmAct x.copy).1 := by
  obtain ⟨-, hd, -, h2, h3, h8, ht⟩ := h
  have hc : acts.contains x.copy.action = true := List.contains_iff_mem.mpr ha
  have hdoms : ((d.actionDomain x.copy).toList ++ [8]).filter d.domAsleep = [] := by
    rw [List.filter_eq_nil_iff]
    intro t hm
    simp only [List.mem_append, Option.mem_toList, List.mem_singleton] at hm
    rcases hm with hm | rfl
    · rw [ht t hm]
      decide
    · rw [h8]
      decide
  unfold Dev.dispatchAlarm
  rw [hd]
  dsimp only
  rw [if_neg (by simp [ha, h2, h3]), hdoms]
  exact if_pos (show ([] : List Nat).isEmpty = true from rfl)

/-- A command that dispatches alarms with these actions gives what the end of the dispatch gives. -/
theorem gives_dispatch {i : Instr} {d : Dev} {x : Dispatch} {rest : List Dispatch} (acts : List Nat) (hi : ∀ s, exec i s = onDev (·.dispatchAlarm acts) s)
    (h : MayDispatch d x rest) (ha : x.copy.action ∈ acts) {P : Dev → Prop} (s : Dev) (st : Nat)
    (hs : ({ d with dispatch := rest } : Dev).alarmAct x.copy = (st, s)) (hP : P (s.endDispatch x st)) : Gives i d P := by
  refine gives_of_onDev (·.dispatchAlarm acts) hi h.1 ?_
  rw [dispatchAlarm_eq h ha, hs]
  exact hP

/-- An alarm without an action. -/
theorem alarmAct_none (s : Dev) {c : AlarmCopy} (h : c.action = 0) : s.alarmAct c = (stOK, s) := by
  obtain ⟨step, phase, tick, boundary, rep, action, owner, devOwned, notify, arg⟩ := c
  cases h
  rfl

/-- What the end of a dispatch leaves, with nothing said of the alarm's state. -/
theorem endDispatch_keeps {d s : Dev} {x : Dispatch} {st : Nat} (hst : st < 2 ^ 4) (hn : x.alarm < 256)
    (hf : s.get F.AL_FIRED [x.alarm] = d.get F.AL_FIRED [x.alarm]) (hm : s.mem = d.mem) (hh : s.hostMem = d.hostMem) :
    DispatchEnds x st d (s.endDispatch x st) ∧ (s.endDispatch x st).mem = d.mem ∧ (s.endDispatch x st).hostMem = d.hostMem := by
  obtain ⟨⟨h1, h2⟩, -, -, -, h5, -⟩ := endDispatch_reads s x hst hn
  obtain ⟨m1, m2, -⟩ := h5.mem
  exact ⟨⟨h1.trans (by rw [hf]), h2⟩, m1.trans hm, m2.trans hh⟩

/-- A field outside the alarm's entry and event register is as the action left it. -/
theorem endDispatch_get {s : Dev} {x : Dispatch} {st : Nat} (hst : st < 2 ^ 4) (hn : x.alarm < 256) (g : Fld) (jx : List Nat)
    (h : g.off jx < 0x100100 ∨ 0x103000 ≤ g.off jx) (hw : g.lo + g.w ≤ 32) :
    (s.endDispatch x st).get g jx = s.get g jx := by
  obtain ⟨-, -, -, h4, -, -⟩ := endDispatch_reads s x hst hn
  refine h4.get g jx fun y hy => ?_
  have hal : g.off jx < 0x101000 ∨ 0x103000 ≤ g.off jx := by omega
  simp only [List.mem_cons, List.not_mem_nil, or_false] at hy
  rcases hy with rfl | rfl | rfl | rfl
  · exact al_apart (by simp [alFields]) hn hal hw
  · exact al_apart (by simp [alFields]) hn hal hw
  · exact al_apart (by simp [alFields]) hn hal hw
  · exact alarmEvent_apart hn (by omega) hw

/-! ### Alarms without an action -/

/-- The end of a dispatch, told to the alarm that was not armed anew (03 R102). -/
theorem endDispatch_alone {s : Dev} {x : Dispatch} {st : Nat} (hst : st < 2 ^ 4) (hn : x.alarm < 256)
    (ha : Tab.get none s.alarms x.alarm = some x.copy) (hs : s.get F.AL_STATE [x.alarm] = 2) (hd : ∀ y ∈ s.dispatch, y.alarm ≠ x.alarm) :
    (x.copy.rep = false → (s.endDispatch x st).get F.AL_STATE [x.alarm] = 0 ∧ Tab.get none (s.endDispatch x st).alarms x.alarm = none) ∧
    (x.copy.rep = true → x.cancelled = false → x.copy.step < stepMax →
      Tab.get none (s.endDispatch x st).alarms x.alarm = some { x.copy with step := x.copy.step + 1 } ∧
      (s.targetPast ({ x.copy with step := x.copy.step + 1 } : AlarmCopy).target = false →
        (s.endDispatch x st).get F.AL_STATE [x.alarm] = 1)) := by
  rw [endDispatch_eq]
  obtain ⟨-, n3, n4⟩ := noteEnd_reads s x hst
  have hna : (noteEnd s x st).alarms = s.alarms ∧ (noteEnd s x st).dispatch = s.dispatch ∧ (noteEnd s x st).cad = s.cad := by
    rw [n4]
    exact ⟨rfl, rfl, rfl⟩
  have hns : (noteEnd s x st).get F.AL_STATE [x.alarm] = s.get F.AL_STATE [x.alarm] := n3.get _ _ fun y hy => by
    simp only [List.mem_cons, List.not_mem_nil, or_false] at hy
    rcases hy with rfl | rfl
    · exact apart_of_bits (f := F.AL_FIRED) (by decide) (by decide)
    · exact apart_of_bits (f := F.AL_LAST) (by decide) (by decide)
  have hnt : ∀ t, (noteEnd s x st).targetPast t = s.targetPast t := fun t =>
    (targetPast_put_al _ x.alarm _ t (by decide) hn).trans (targetPast_put_al _ x.alarm _ t (by decide) hn)
  generalize noteEnd s x st = a at *
  obtain ⟨-, t2, t3, t4, t5, -⟩ := tellEnd_reads a x st hn
  have htf : ∀ (g : Fld) (jx : List Nat), (g.off jx < 0x100100 ∨ 0x100120 ≤ g.off jx) → g.lo + g.w ≤ 32 →
      (tellEnd a x st).get g jx = a.get g jx := fun g jx h hw => t2.get _ _ fun y hy => by
    rw [List.mem_singleton.mp hy]
    exact alarmEvent_apart hn h hw
  have htt : ∀ t, (tellEnd a x st).targetPast t = a.targetPast t := fun t => by
    refine targetPast_congr t ?_ (htf _ _ (by decide) (by decide)) ?_
    · simp only [Dev.pos, Dev.get64, htf F.POS_STEP_LO [] (by decide) (by decide), htf F.POS_STEP_HI [] (by decide) (by decide),
        htf F.POS_PHASE [] (by decide) (by decide), htf F.POS_TICK [] (by decide) (by decide)]
    · rw [t3]
  have hts : (tellEnd a x st).get F.AL_STATE [x.alarm] = a.get F.AL_STATE [x.alarm] := by
    refine htf _ _ (.inr ?_) (by decide)
    rw [al_off (by decide)]
    omega
  obtain ⟨h1, h2⟩ := rearm_alone (s := tellEnd a x st) hn (by rw [t4, hna.1, ha]) (by rw [hts, hns, hs])
    (by rw [t5, hna.2.1]; exact hd)
  refine ⟨h1, fun hr hc hstep => ?_⟩
  obtain ⟨g1, g2⟩ := h2 hr hc hstep
  exact ⟨g1, fun hp => g2 (by rw [htt, hnt, hp])⟩

theorem gives_alarmNone {d : Dev} {x : Dispatch} {rest : List Dispatch} (h : MayDispatch d x rest) {i : Instr} (acts : List Nat)
    (hi : ∀ s, exec i s = onDev (·.dispatchAlarm acts) s) (ha : x.copy.action ∈ acts) (h0 : x.copy.action = 0) :
    Gives i d fun e =>
      DispatchEnds x stOK d e ∧ e.dispatch.take rest.length = rest ∧
      (x.late = true ∨ x.copy.notify = true → bitAt (e.get F.ALARM_EVENT [x.alarm / 32]) (x.alarm % 32) = true) ∧
      (Tab.get none d.alarms x.alarm = some x.copy ∧ d.get F.AL_STATE [x.alarm] = 2 ∧ (∀ y ∈ rest, y.alarm ≠ x.alarm) →
        x.copy.rep = false → e.get F.AL_STATE [x.alarm] = 0 ∧ Tab.get none e.alarms x.alarm = none) ∧
      (Tab.get none d.alarms x.alarm = some x.copy ∧ d.get F.AL_STATE [x.alarm] = 2 ∧ (∀ y ∈ rest, y.alarm ≠ x.alarm) →
        x.copy.rep = true → x.cancelled = false → x.copy.step < 2 ^ 48 - 1 →
        Tab.get none e.alarms x.alarm = some { x.copy with step := x.copy.step + 1 } ∧
        (d.targetPast ({ x.copy with step := x.copy.step + 1 } : AlarmCopy).target = false → e.get F.AL_STATE [x.alarm] = 1)) ∧
      OnlyFields [(F.AL_FIRED, [x.alarm]), (F.AL_LAST, [x.alarm]), (F.AL_STATE, [x.alarm]), (F.ALARM_EVENT, [x.alarm / 32])] d e ∧
      e.mem = d.mem ∧ e.hostMem = d.hostMem := by
  have hn : x.alarm < 256 := h.2.2.1
  refine gives_dispatch acts hi h ha _ _ (alarmAct_none _ h0) ?_
  obtain ⟨k1, k2, k3⟩ := endDispatch_keeps (d := d) (s := { d with dispatch := rest }) (x := x) (st := stOK) (by decide) hn rfl rfl rfl
  obtain ⟨-, ⟨l, h2⟩, h3, h4, -, -⟩ := endDispatch_reads { d with dispatch := rest } x (status := stOK) (by decide) hn
  refine ⟨k1, ?_, h3, fun ⟨ha, hs, hd⟩ hr => ?_, fun ⟨ha, hs, hd⟩ hr hc hstep => ?_, onlyFields_congr rfl rfl h4, k2, k3⟩
  · rw [h2]
    exact List.take_left
  · exact (endDispatch_alone (s := { d with dispatch := rest }) (by decide) hn ha hs hd).1 hr
  · exact (endDispatch_alone (s := { d with dispatch := rest }) (by decide) hn ha hs hd).2 hr hc hstep

/-! ### Commits -/

/-- Copying shadows to a list of registers. -/
theorem commitList (l : List Nat) (s : Dev) :
    let e := s.forEach l fun s off => s.setReg off (s.shadowReg off)
    (∀ o, e.reg o = if o ∈ l then s.shadowReg o else s.reg o) ∧ OnlyRegs s e := by
  induction l generalizing s with
  | nil => exact ⟨fun o => by simp [Dev.forEach], rfl⟩
  | cons k l ih =>
    obtain ⟨h1, h2⟩ := ih (s.setReg k (s.shadowReg k))
    refine ⟨fun o => (h1 o).trans ?_, onlyRegs_trans (b := s.setReg k (s.shadowReg k)) rfl h2⟩
    rw [Dev.reg_setReg, show (s.setReg k (s.shadowReg k)).shadowReg o = s.shadowReg o from rfl]
    by_cases hl : o ∈ l
    · simp [hl]
    · by_cases hk : o = k
      · subst hk
        simp
      · simp [hl, hk]

theorem tabGet_of_not_mem {α : Type} (v : α) (t : Tab α) (k : Nat) (h : k ∉ t.map (·.1)) : Tab.get v t k = v := by
  induction t with
  | nil => rfl
  | cons e t ih =>
    obtain ⟨j, w⟩ := e
    simp only [List.map_cons, List.mem_cons, not_or] at h
    rw [Tab.get, if_neg h.1]
    exact ih h.2

/-- A commit of the cadence's block: its active registers are their shadows, and every other register stays (00 R13). -/
theorem commitBlock_cadence (s : Dev) :
    (∀ o, shReg 0 o = true → (s.commitBlock 0).reg o = s.shadowReg o) ∧
    (∀ o, shReg 0 o = false → (s.commitBlock 0).reg o = s.reg o) ∧ OnlyRegs s (s.commitBlock 0) := by
  obtain ⟨h1, h2⟩ := commitList ((s.shadow.map (·.1) ++ s.regs.map (·.1)).filter (shReg 0)) s
  have he : s.commitBlock 0 = s.forEach ((s.shadow.map (·.1) ++ s.regs.map (·.1)).filter (shReg 0)) fun s off =>
      s.setReg off (s.shadowReg off) := by
    unfold Dev.commitBlock
    exact if_neg (fun h => absurd h.1 (by decide))
  rw [he]
  refine ⟨fun o ho => (h1 o).trans ?_, fun o ho => (h1 o).trans (if_neg ?_), h2⟩
  · split
    · rfl
    · rename_i hn
      simp only [List.mem_filter, List.mem_append, ho, and_true, not_or] at hn
      rw [Dev.reg, Dev.shadowReg, tabGet_of_not_mem _ _ _ hn.1, tabGet_of_not_mem _ _ _ hn.2]
  · simp only [List.mem_filter, ho, Bool.false_eq_true, and_false, not_false_eq_true]

theorem alarmAct_commit (s : Dev) {c : AlarmCopy} (h : c.action = 4) (ha : bitsOf c.arg 0 16 = 0x40) :
    s.alarmAct c = (stOK, s.commitBlock 0) := by
  obtain ⟨step, phase, tick, boundary, rep, action, owner, devOwned, notify, arg⟩ := c
  cases h
  exact if_pos ha

theorem shReg_alarm (n : Nat) : shReg 0 (0x101018 + 32 * n) = false := by
  simp only [shReg, if_true, Bool.or_eq_false_iff, Bool.and_eq_false_iff, decide_eq_false_iff_not]
  refine ⟨?_, .inr (by omega)⟩
  rw [Bool.eq_false_iff]
  intro h
  simp only [List.contains_iff_mem, List.mem_cons, List.not_mem_nil, or_false] at h
  omega

theorem shReg_lt {o : Nat} (h : shReg 0 o = true) : o < 0x100100 := by
  simp only [shReg, if_true, Bool.or_eq_true, Bool.and_eq_true, decide_eq_true_eq, List.contains_iff_mem, List.mem_cons,
    List.not_mem_nil, or_false] at h
  omega

theorem gives_alarmCommit {d : Dev} {x : Dispatch} {rest : List Dispatch} (h : MayDispatch d x rest) (ha : x.copy.action = 4)
    (harg : bitsOf x.copy.arg 0 16 = 0x40) : Gives .alarmCommit d fun e =>
      DispatchEnds x stOK d e ∧ (∀ o, shReg 0 o = true → e.reg o = d.shadowReg o) ∧ e.mem = d.mem ∧ e.hostMem = d.hostMem := by
  have hn : x.alarm < 256 := h.2.2.1
  refine gives_dispatch [4] (fun _ => rfl) h (by simp [ha]) _ _ (alarmAct_commit _ ha harg) ?_
  obtain ⟨c1, c2, c3⟩ := commitBlock_cadence { d with dispatch := rest }
  have hf : (({ d with dispatch := rest } : Dev).commitBlock 0).get F.AL_FIRED [x.alarm] = d.get F.AL_FIRED [x.alarm] := by
    have hr := c2 (F.AL_FIRED.off [x.alarm]) (by rw [al_off (by decide)]; exact shReg_alarm _)
    rw [Dev.get, hr]
    rfl
  obtain ⟨k1, k2, k3⟩ := endDispatch_keeps (x := x) (st := stOK) (by decide) hn hf c3.mem.1 c3.mem.2
  refine ⟨k1, fun o ho => ?_, k2, k3⟩
  obtain ⟨-, -, -, h4, -, -⟩ := endDispatch_reads (({ d with dispatch := rest } : Dev).commitBlock 0) x (status := stOK) (by decide) hn
  have hlt := shReg_lt ho
  rw [h4.reg o fun y hy => ?_]
  · exact c1 o ho
  · simp only [List.mem_cons, List.not_mem_nil, or_false] at hy
    rcases hy with rfl | rfl | rfl | rfl
    · rw [al_off (f := F.AL_FIRED) (by decide)]
      omega
    · rw [al_off (f := F.AL_LAST) (by decide)]
      omega
    · rw [al_off (f := F.AL_STATE) (by decide)]
      omega
    · rw [alarmEvent_off]
      omega

/-! ### Doorbells -/

theorem alarmAct_doorbell (s : Dev) {c : AlarmCopy} (h : c.action = 1) : s.alarmAct c = s.alarmDoorbell c := by
  obtain ⟨step, phase, tick, boundary, rep, action, owner, devOwned, notify, arg⟩ := c
  cases h
  rfl

theorem gives_alarmDoorbell_gone {d : Dev} {x : Dispatch} {rest : List Dispatch} (h : MayDispatch d x rest) (ha : x.copy.action = 1)
    (hh : d.alarmHolds x.copy = false) : Gives .alarmDoorbell d fun e =>
      DispatchEnds x stPROT d e ∧ e.queues = d.queues ∧ e.mem = d.mem ∧ e.hostMem = d.hostMem := by
  have hn : x.alarm < 256 := h.2.2.1
  have hact : ({ d with dispatch := rest } : Dev).alarmAct x.copy = (stPROT, { d with dispatch := rest }) := by
    rw [alarmAct_doorbell _ ha]
    have hh' : ({ d with dispatch := rest } : Dev).alarmHolds x.copy = false := hh
    unfold Dev.alarmDoorbell
    simp only [hh', Bool.not_false, if_true]
  refine gives_dispatch [1] (fun _ => rfl) h (by simp [ha]) _ _ hact ?_
  obtain ⟨k1, k2, k3⟩ := endDispatch_keeps (d := d) (s := { d with dispatch := rest }) (x := x) (st := stPROT) (by decide) hn rfl rfl rfl
  obtain ⟨-, -, -, -, h5, -⟩ := endDispatch_reads { d with dispatch := rest } x (status := stPROT) (by decide) hn
  exact ⟨k1, h5.mem.2.2.1, k2, k3⟩

/-- The offset of a field of queue `k`'s registers. -/
theorem queueFld_off {f : Fld} (hf : f.dims = [(0x4000, 64), (0x40, 20)]) (k : Nat) :
    f.off (qix k) = f.base + (0x4000 * (k / 32) + 0x40 * (k % 32)) := by
  simp [Fld.off, hf, qix]

/-- A doorbell in range is accepted, and becomes the queue's P (05 R174). -/
theorem sqJudge_taken {s : Dev} {k v : Nat} (hhome : (s.queue k).home = none) (h1 : idxSub (s.qP k) (s.qH k) ≤ idxSub v (s.qH k))
    (h2 : idxSub v (s.qH k) ≤ s.sqSize k) (hv : v < 2 ^ 16) :
    ∃ e, s.sqJudge k v = (true, e) ∧ e.qP k = v ∧ OnlyFields [(F.Q_PROD, qix k)] s e ∧ OnlyRegs s e := by
  unfold Dev.sqJudge
  dsimp only
  rw [if_neg (by omega)]
  by_cases hp : v = s.qP k
  · rw [if_pos hp]
    exact ⟨s, rfl, hp.symm, onlyFields_refl _ _, rfl⟩
  · rw [if_neg hp]
    have hq : (s.put F.Q_PROD (qix k) v).queue k = s.queue k := by
      simp only [Dev.queue, Dev.put_queues]
    rw [hq, hhome]
    exact ⟨_, rfl, Dev.get_put_fit _ (by decide) hv, onlyFields_put _ (onlyFields_refl _ _) (List.mem_singleton.mpr rfl), onlyRegs_put _ _ _ _⟩

theorem gives_alarmDoorbell {d : Dev} {x : Dispatch} {rest : List Dispatch} (h : MayDispatch d x rest) (ha : x.copy.action = 1)
    (hh : d.alarmHolds x.copy = true) (hen : (d.queue x.copy.queueKey).enabling = false) (hs : d.qState x.copy.queueKey = qENABLED)
    (hhome : (d.queue x.copy.queueKey).home = none)
    (h1 : idxSub (d.qP x.copy.queueKey) (d.qH x.copy.queueKey) ≤ idxSub (bitsOf x.copy.arg 0 16) (d.qH x.copy.queueKey))
    (h2 : idxSub (bitsOf x.copy.arg 0 16) (d.qH x.copy.queueKey) ≤ d.sqSize x.copy.queueKey) : Gives .alarmDoorbell d fun e =>
      DispatchEnds x stOK d e ∧ e.qP x.copy.queueKey = bitsOf x.copy.arg 0 16 ∧ e.mem = d.mem ∧ e.hostMem = d.hostMem := by
  have hn : x.alarm < 256 := h.2.2.1
  obtain ⟨e, hj, hq, hf, hr⟩ := sqJudge_taken (s := { d with dispatch := rest }) (k := x.copy.queueKey) hhome h1 h2 (bitsOf_lt _ _ _)
  have hact : ({ d with dispatch := rest } : Dev).alarmAct x.copy = (stOK, e) := by
    rw [alarmAct_doorbell _ ha]
    have hh' : ({ d with dispatch := rest } : Dev).alarmHolds x.copy = true := hh
    have hs' : ({ d with dispatch := rest } : Dev).qState x.copy.queueKey = qENABLED := hs
    have hen' : (({ d with dispatch := rest } : Dev).queue x.copy.queueKey).enabling = false := hen
    unfold Dev.alarmDoorbell
    simp only [hh', Bool.not_true, Bool.false_eq_true, if_false, hs', hen', ne_eq, not_true_eq_false, false_and, or_self, hj, if_true]
  have hoff : F.Q_PROD.off (qix x.copy.queueKey) = 0x800020 + (0x4000 * (x.copy.queueKey / 32) + 0x40 * (x.copy.queueKey % 32)) :=
    queueFld_off rfl _
  refine gives_dispatch [1] (fun _ => rfl) h (by simp [ha]) _ _ hact ?_
  have hfired : e.get F.AL_FIRED [x.alarm] = d.get F.AL_FIRED [x.alarm] := hf.get _ _ fun y hy => by
    rw [List.mem_singleton.mp hy]
    refine apart_of_off ?_ (by decide)
    rw [al_off (by decide), hoff]
    omega
  obtain ⟨k1, k2, k3⟩ := endDispatch_keeps (x := x) (st := stOK) (by decide) hn hfired hr.mem.1 hr.mem.2
  refine ⟨k1, ?_, k2, k3⟩
  rw [Dev.qP, endDispatch_get (by decide) hn _ _ (.inr (by rw [hoff]; omega)) (by decide)]
  exact hq

/-! ### Interrupts -/

theorem alarmAct_interrupt (s : Dev) {c : AlarmCopy} (h : c.action = 6) : s.alarmAct c = (stOK, s.alarmInterrupt c) := by
  obtain ⟨step, phase, tick, boundary, rep, action, owner, devOwned, notify, arg⟩ := c
  cases h
  rfl

/-- A message of the PF is sent, or held pending (05 R188). -/
theorem raisePf_host (s : Dev) {v : Nat} (hv : ¬((8 ≤ v ∧ v < 16) ∨ 2048 ≤ v)) :
    (s.raisePf v).host =
      let m := Tab.get Msix.reset s.host.pfTab v
      if Tab.get false s.host.msixOn 0 = true ∧ m.ctrl.getLsbD 0 = false ∧ s.canMaster 0 = true then
        { s.host with
          sent := s.host.sent ++ [⟨none, v, m.addrLo.toNat + 2 ^ 32 * m.addrHi.toNat, m.data.toNat, .plain 0⟩]
          pfPba := Tab.set false s.host.pfPba v false }
      else { s.host with pfPba := Tab.set false s.host.pfPba v true } := by
  unfold Dev.raisePf
  rw [if_neg hv]
  dsimp only
  have hc : (Tab.get false s.host.msixOn 0 && (Tab.get Msix.reset s.host.pfTab v).ctrl.getLsbD 0 == false && s.canMaster 0) = true ↔
      Tab.get false s.host.msixOn 0 = true ∧ (Tab.get Msix.reset s.host.pfTab v).ctrl.getLsbD 0 = false ∧ s.canMaster 0 = true := by
    simp only [Bool.and_eq_true, beq_iff_eq, and_assoc]
  by_cases h : Tab.get false s.host.msixOn 0 = true ∧ (Tab.get Msix.reset s.host.pfTab v).ctrl.getLsbD 0 = false ∧ s.canMaster 0 = true
  · rw [if_pos h, if_pos (hc.mpr h)]
  · rw [if_neg h, if_neg (fun h' => h (hc.mp h'))]

/-- What has been sent stays sent, and what is pending for want of a way stays pending, when the cadence's vector is raised. -/
theorem toldCadence_keeps {a e : Dev} (h : ToldCadence a e) {w : Nat} :
    (∀ m ∈ a.host.sent, m ∈ e.host.sent) ∧
    (¬(Tab.get false a.host.msixOn 0 = true ∧ (Tab.get Msix.reset a.host.pfTab w).ctrl.getLsbD 0 = false ∧ a.canMaster 0 = true) →
      Tab.get false a.host.pfPba w = true → Tab.get false e.host.pfPba w = true) := by
  rcases h with h | ⟨s, ⟨hs, hm⟩, h⟩
  · rw [h]
    exact ⟨fun _ hm => hm, fun _ hp => hp⟩
  · rw [h, raisePf_host s (by decide), hs, hm]
    dsimp only
    split
    · rename_i hc
      refine ⟨fun m hm => List.mem_append_left _ hm, fun hn hp => ?_⟩
      have hw : w ≠ 1 := by
        rintro rfl
        exact hn hc
      exact (Tab.get_set_ne false false a.host.pfPba 1 w false hw).trans hp
    · refine ⟨fun m hm => hm, fun _ hp => ?_⟩
      dsimp only
      rw [Tab.get_set]
      split
      · rfl
      · exact hp

theorem gives_alarmInterrupt {d : Dev} {x : Dispatch} {rest : List Dispatch} (h : MayDispatch d x rest) (ha : x.copy.action = 6)
    (hdev : x.copy.devOwned = true) (hv : ¬(8 ≤ bitsOf x.copy.arg 0 11 ∧ bitsOf x.copy.arg 0 11 < 16)) :
    let w := bitsOf x.copy.arg 0 11
    let m := Tab.get Msix.reset d.host.pfTab w
    Gives .alarmInterrupt d fun e =>
      DispatchEnds x stOK d e ∧
      (if Tab.get false d.host.msixOn 0 = true ∧ m.ctrl.getLsbD 0 = false ∧ d.canMaster 0 = true then
        (⟨none, w, m.addrLo.toNat + 2 ^ 32 * m.addrHi.toNat, m.data.toNat, .plain 0⟩ : MsixMsg) ∈ e.host.sent
       else Tab.get false e.host.pfPba w = true) ∧ e.mem = d.mem ∧ e.hostMem = d.hostMem := by
  intro w m
  have hn : x.alarm < 256 := h.2.2.1
  obtain ⟨s, hs⟩ : ∃ s : Dev, s = { d with dispatch := rest } := ⟨_, rfl⟩
  have hsh : s.host = d.host ∧ s.mem = d.mem ∧ s.hostMem = d.hostMem ∧ s.regs = d.regs ∧ s.canMaster 0 = d.canMaster 0 := by
    rw [hs]
    exact ⟨rfl, rfl, rfl, rfl, rfl⟩
  obtain ⟨hh, hm, hhm, hr, hcm⟩ := hsh
  have hact : ({ d with dispatch := rest } : Dev).alarmAct x.copy = (stOK, s.raisePf w) := by
    rw [alarmAct_interrupt _ ha, Dev.alarmInterrupt, if_pos hdev, hs]
  refine gives_dispatch [6] (fun _ => rfl) h (by simp [ha]) _ _ hact ?_
  obtain ⟨m', p', he⟩ := s.raisePf_eq w
  have hk : (s.raisePf w).mem = d.mem ∧ (s.raisePf w).hostMem = d.hostMem ∧ (s.raisePf w).regs = d.regs := by
    rw [he]
    exact ⟨hm, hhm, hr⟩
  have hcan : (s.raisePf w).canMaster 0 = d.canMaster 0 := by
    rw [← hcm, he]
    rfl
  have hlt : w < 2 ^ 11 := bitsOf_lt _ _ _
  have hhost := raisePf_host s (v := w) (by rintro (hb | hb) <;> omega)
  rw [hh, hcm] at hhost
  generalize s.raisePf w = y at *
  obtain ⟨k1, k2, k3⟩ := endDispatch_keeps (d := d) (s := y) (x := x) (st := stOK) (by decide) hn
    (by rw [Dev.get_eq, Dev.get_eq, hk.2.2]) hk.1 hk.2.1
  obtain ⟨-, -, -, -, -, h6⟩ := endDispatch_reads y x (status := stOK) (by decide) hn
  refine ⟨k1, ?_, k2, k3⟩
  obtain ⟨t1, t2⟩ := toldCadence_keeps h6 (w := w)
  by_cases hc : Tab.get false d.host.msixOn 0 = true ∧ m.ctrl.getLsbD 0 = false ∧ d.canMaster 0 = true
  · rw [if_pos hc]
    dsimp only at hhost
    rw [if_pos hc] at hhost
    refine t1 _ ?_
    rw [hhost]
    exact List.mem_append_right _ (List.mem_singleton.mpr rfl)
  · rw [if_neg hc]
    dsimp only at hhost
    rw [if_neg hc] at hhost
    refine t2 ?_ ?_
    · rw [hhost, hcan]
      exact hc
    · rw [hhost]
      exact Tab.get_set_same false d.host.pfPba w true

/-- Settles O7: the dispatch of alarms without an action, and of doorbells, interrupts and commits. -/
theorem alarmNone : Obligations.AlarmNone := by
  unfold Obligations.AlarmNone
  refine ⟨fun d x rest h h0 => ?_, fun d x rest h => ?_⟩
  · exact ⟨gives_alarmNone h [0] (fun _ => rfl) (by simp [h0]) h0,
      gives_alarmNone h [0, 1, 2, 3, 4, 5, 6] (fun _ => rfl) (by simp [h0]) h0⟩
  · exact ⟨fun ha hh => gives_alarmDoorbell_gone h ha hh, fun ha hh hen hs hhome h1 h2 _ _ => gives_alarmDoorbell h ha hh hen hs hhome h1 h2,
      fun ha hdev hv => gives_alarmInterrupt h ha hdev hv, fun ha harg => gives_alarmCommit h ha harg⟩

end Sys2Proof
end

section
/-! SUPPORT. Power domains: what a request for a rail and the beginning of a transition change (18 R645 to R660). -/

namespace Sys2Proof

open Machine

/-! ### Registers -/

theorem get_of_reg {a b : Dev} {g : Fld} {jx : List Nat} (h : b.reg (g.off jx) = a.reg (g.off jx)) : b.get g jx = a.get g jx := by
  unfold Dev.get; rw [h]

theorem flag_of_get {a b : Dev} {g : Fld} {jx : List Nat} (h : b.get g jx = a.get g jx) : b.flag g jx = a.flag g jx := by
  unfold Dev.flag; rw [h]

theorem flag_of_one {a : Dev} {g : Fld} {jx : List Nat} (h : a.get g jx = 1) : a.flag g jx = true := by
  unfold Dev.flag; rw [h]; rfl

/-- The registers of the rails (18 Table 18.8). -/
def isRail (off : Nat) : Prop := 0x3A01000 ≤ off ∧ off < 0x3A01380

/-- The fields of a domain's register. -/
def domFields : List Fld := [F.DOM_STATE, F.DOM_REQUESTED, F.DOM_PENDING, F.DOM_BUSY, F.DOM_FLOOR]

theorem dom_off {f : Fld} (hf : f ∈ domFields) (n : Nat) : f.off [n] = 0x3A00020 + 4 * n := by
  simp only [domFields, List.mem_cons, List.not_mem_nil, or_false] at hf
  rcases hf with rfl | rfl | rfl | rfl | rfl <;> simp [Fld.off]

theorem dom_not_rail {f : Fld} (hf : f ∈ domFields) {n : Nat} (hn : n < 12) : ¬isRail (f.off [n]) := by
  rw [dom_off hf, isRail]; omega

theorem dom_apart {f g : Fld} {n m : Nat} (hf : f ∈ domFields) (hg : g ∈ domFields) (h : m ≠ n) : Fld.apart f [n] g [m] = true := by
  refine apart_of_off (by rw [dom_off hf, dom_off hg]; omega) ?_
  revert g; decide

theorem dom_apart_base {f g : Fld} {n : Nat} {jx : List Nat} (hf : f ∈ domFields) (hn : n < 12)
    (h : g.off jx < 0x3A00020 ∨ 0x3A00050 ≤ g.off jx) (hw : g.lo + g.w ≤ 32) : Fld.apart f [n] g jx = true :=
  apart_of_off (by rw [dom_off hf]; omega) hw

/-! ### Rails -/

/-- Nothing but registers of rails changed. -/
def RailsOnly (a b : Dev) : Prop := OnlyRegs a b ∧ ∀ off, ¬isRail off → b.reg off = a.reg off

theorem railsOnly_refl (s : Dev) : RailsOnly s s := ⟨onlyRegs_refl s, fun _ _ => rfl⟩

theorem railsOnly_trans {a b c : Dev} (h : RailsOnly a b) (h' : RailsOnly b c) : RailsOnly a c :=
  ⟨onlyRegs_trans h.1 h'.1, fun off ho => (h'.2 off ho).trans (h.2 off ho)⟩

theorem RailsOnly.get {a b : Dev} (h : RailsOnly a b) {g : Fld} {jx : List Nat} (hg : ¬isRail (g.off jx)) : b.get g jx = a.get g jx :=
  get_of_reg (h.2 _ hg)

theorem railsOnly_put (s : Dev) {f : Fld} {ix : List Nat} (v : Nat) (h : isRail (f.off ix)) : RailsOnly s (s.put f ix v) :=
  ⟨onlyRegs_put _ _ _ _, fun off ho => Dev.reg_put_ne _ _ _ _ _ (by rintro rfl; exact ho h)⟩

theorem isRail_off {f : Fld} (hf : f ∈ [F.RAIL_TARGET, F.RAIL_NOW, F.RAIL_IN_FLIGHT, F.RAIL_PENDING_VALID, F.RAIL_ENABLED, F.RAIL_PENDING,
    F.RAIL_REPLACED, F.RAIL_EMERG]) {r : Nat} (hr : r < 14) : isRail (f.off [r]) := by
  simp only [List.mem_cons, List.not_mem_nil, or_false] at hf
  rcases hf with rfl | rfl | rfl | rfl | rfl | rfl | rfl | rfl <;> simp [Fld.off, isRail] <;> omega

theorem railsOnly_railSend (s : Dev) {r : Nat} (mv : Nat) (hr : r < 14) : RailsOnly s (s.railSend r mv) :=
  railsOnly_trans (railsOnly_put _ _ (isRail_off (by simp) hr)) (railsOnly_put _ _ (isRail_off (by simp) hr))

theorem Dev.railFree_lt {s : Dev} {r : Nat} (h : s.railFree r = true) : r < 12 := by
  simp only [Dev.railFree, Bool.and_eq_true, decide_eq_true_eq] at h
  exact h.1

theorem railsOnly_railReq (s : Dev) (r mv : Nat) : RailsOnly s (s.railReq r mv) := by
  unfold Dev.railReq
  split
  · exact railsOnly_refl s
  · rename_i h
    have hr : r < 14 := by
      simp only [Bool.or_eq_true, Bool.not_eq_true', bne_iff_ne, not_or, Bool.not_eq_false, not_not] at h
      exact Nat.lt_trans (Dev.railFree_lt h.1) (by decide)
    split
    · refine railsOnly_trans (b := if s.flag F.RAIL_PENDING_VALID [r] then s.count F.RAIL_REPLACED [r] else s) ?_
        (railsOnly_trans (railsOnly_put _ _ (isRail_off (by simp) hr)) (railsOnly_put _ _ (isRail_off (by simp) hr)))
      split
      · exact railsOnly_put _ _ (isRail_off (by simp) hr)
      · exact railsOnly_refl s
    · exact railsOnly_railSend _ _ hr

/-- What every step of a walk over a list keeps, the walk keeps. -/
theorem forEach_keeps {α : Type} {R : Dev → Dev → Prop} (refl : ∀ s, R s s) (trans : ∀ {a b c}, R a b → R b c → R a c) (l : List α)
    (f : Dev → α → Dev) (h : ∀ s, ∀ x ∈ l, R s (f s x)) (s : Dev) : R s (s.forEach l f) := by
  unfold Dev.forEach
  induction l generalizing s with
  | nil => exact refl s
  | cons x l ih =>
    exact trans (h s x (List.mem_cons_self ..)) (ih (fun s y hy => h s y (List.mem_cons_of_mem _ hy)) (f s x))

theorem railsOnly_askRails (s : Dev) (d : Nat) : RailsOnly s (s.askRails d) := by
  refine forEach_keeps railsOnly_refl railsOnly_trans _ _ (fun s r _ => ?_) s
  change RailsOnly s (if s.railWant r = (if s.flag F.RAIL_PENDING_VALID [r] then _ else _) then s else s.railReq r (s.railWant r))
  by_cases h : s.railWant r = if s.flag F.RAIL_PENDING_VALID [r] then s.get F.RAIL_PENDING [r] else s.get F.RAIL_TARGET [r]
  · rw [if_pos h]; exact railsOnly_refl s
  · rw [if_neg h]; exact railsOnly_railReq s r _

/-! ### Transitions -/

/-- Only the register of domain `x`, the count of lost wakes, the rails, the transitions in flight and the wakes changed; no other
domain's transition did. -/
def DomMoves (x : Nat) (a b : Dev) : Prop :=
  b = { a with regs := b.regs, wakes := b.wakes, pwr := { a.pwr with flight := b.pwr.flight } } ∧
  (∀ off, off ≠ 0x3A00020 + 4 * x → off ≠ 0x3A00014 → ¬isRail off → b.reg off = a.reg off) ∧
  ∀ y, y ≠ x → Tab.get none b.pwr.flight y = Tab.get none a.pwr.flight y

theorem domMoves_refl (x : Nat) (s : Dev) : DomMoves x s s := ⟨rfl, fun _ _ _ _ => rfl, fun _ _ => rfl⟩

theorem domMoves_trans {x : Nat} {a b c : Dev} (h : DomMoves x a b) (h' : DomMoves x b c) : DomMoves x a c := by
  obtain ⟨h1, h2, h3⟩ := h
  obtain ⟨h1', h2', h3'⟩ := h'
  refine ⟨?_, fun off o1 o2 o3 => (h2' off o1 o2 o3).trans (h2 off o1 o2 o3), fun y hy => (h3' y hy).trans (h3 y hy)⟩
  rw [h1] at h1'
  exact h1'

theorem domMoves_regs {x : Nat} {a b : Dev} (h : OnlyRegs a b)
    (hr : ∀ off, off ≠ 0x3A00020 + 4 * x → off ≠ 0x3A00014 → ¬isRail off → b.reg off = a.reg off) : DomMoves x a b := by
  refine ⟨?_, hr, fun y _ => ?_⟩
  · unfold OnlyRegs at h
    generalize b.regs = r at h
    subst h; rfl
  · rw [h]

theorem domMoves_rails {x : Nat} {a b : Dev} (h : RailsOnly a b) : DomMoves x a b := domMoves_regs h.1 fun off _ _ h3 => h.2 off h3

theorem domMoves_put (s : Dev) {x : Nat} {f : Fld} (hf : f ∈ domFields) (v : Nat) : DomMoves x s (s.put f [x] v) :=
  domMoves_regs (onlyRegs_put _ _ _ _) fun off h _ _ => Dev.reg_put_ne _ _ _ _ _ (by rwa [dom_off hf])

theorem domMoves_flight (s : Dev) (x : Nat) (v : Option Flight) :
    DomMoves x s (s.updPwr fun p => { p with flight := Tab.set none p.flight x v }) :=
  ⟨rfl, fun _ _ _ _ => rfl, fun y hy => Tab.get_set_ne none none s.pwr.flight x y v hy⟩

theorem domMoves_wakes (s : Dev) (x : Nat) (t : Tab Bool) : DomMoves x s { s with wakes := t } := ⟨rfl, fun _ _ _ _ => rfl, fun _ _ => rfl⟩

theorem DomMoves.mem {x : Nat} {a b : Dev} (h : DomMoves x a b) : b.mem = a.mem ∧ b.hostMem = a.hostMem := by
  rw [h.1]; exact ⟨rfl, rfl⟩

theorem DomMoves.pwrIn {x : Nat} {a b : Dev} (h : DomMoves x a b) : b.pwr.wakeIn = a.pwr.wakeIn ∧ b.pwr.unitKeep = a.pwr.unitKeep := by
  rw [h.1]; exact ⟨rfl, rfl⟩

/-- A domain's fields stand while another domain moves. -/
theorem DomMoves.dom {x y : Nat} {a b : Dev} (h : DomMoves x a b) {g : Fld} (hg : g ∈ domFields) (hy : y < 12) (hxy : y ≠ x) :
    b.get g [y] = a.get g [y] :=
  get_of_reg (h.2.1 _ (by rw [dom_off hg]; omega) (by rw [dom_off hg]; omega) (dom_not_rail hg hy))

/-- Fields apart from the domains, the lost wakes and the rails stand. -/
theorem DomMoves.get {x : Nat} {a b : Dev} (h : DomMoves x a b) (hx : x < 12) {g : Fld} {jx : List Nat}
    (hg : (g.off jx < 0x3A00020 ∨ 0x3A00050 ≤ g.off jx) ∧ g.off jx ≠ 0x3A00014 ∧ (g.off jx < 0x3A01000 ∨ 0x3A01380 ≤ g.off jx)) :
    b.get g jx = a.get g jx :=
  get_of_reg (h.2.1 _ (by omega) hg.2.1 (by unfold isRail; omega))

/-! ### The beginning of a transition -/

/-- Does a transition of domain `x` to `t` drain its engines first? -/
def moveDrains (s : Dev) (x t : Nat) : Bool := decide (s.get F.DOM_STATE [x] < t) && decide (stDoze ≤ t)

/-- The state with the transition noted, before its rails are asked. -/
def noteMove (s : Dev) (x t : Nat) : Dev :=
  (s.updPwr fun p => { p with flight := Tab.set none p.flight x (some ⟨t, s.now, if moveDrains s x t then 0 else 1⟩) }).put F.DOM_BUSY [x] 1

theorem beginMove_eq (s : Dev) (x t : Nat) :
    s.beginMove x t = if moveDrains s x t then noteMove s x t else (noteMove s x t).askRails x := rfl

theorem noteMove_beginMove (s : Dev) (x t : Nat) : RailsOnly (noteMove s x t) (s.beginMove x t) := by
  rw [beginMove_eq]
  split
  · exact railsOnly_refl _
  · exact railsOnly_askRails _ _

theorem domMoves_noteMove (s : Dev) (x t : Nat) : DomMoves x s (noteMove s x t) :=
  domMoves_trans (domMoves_flight s x _) (domMoves_put _ (f := F.DOM_BUSY) (by simp [domFields]) 1)

theorem domMoves_beginMove (s : Dev) (x t : Nat) : DomMoves x s (s.beginMove x t) :=
  domMoves_trans (domMoves_noteMove s x t) (domMoves_rails (noteMove_beginMove s x t))

/-- A field of the domain's register other than BUSY stands at the beginning of a transition. -/
theorem beginMove_get (s : Dev) {x : Nat} (t : Nat) (hx : x < 12) {g : Fld} (hg : g ∈ domFields)
    (ha : Fld.apart F.DOM_BUSY [x] g [x] = true) : (s.beginMove x t).get g [x] = s.get g [x] := by
  rw [(noteMove_beginMove s x t).get (dom_not_rail hg hx), noteMove, Dev.get_put_apart _ _ ha]
  rfl

theorem beginMove_flight (s : Dev) (x t : Nat) :
    Tab.get none (s.beginMove x t).pwr.flight x = some ⟨t, s.now, if moveDrains s x t then 0 else 1⟩ := by
  have h : (s.beginMove x t).pwr = (noteMove s x t).pwr := by rw [(noteMove_beginMove s x t).1]
  rw [h]
  exact Tab.get_set_same none s.pwr.flight x (some ⟨t, s.now, if moveDrains s x t then 0 else 1⟩)

theorem beginMove_moving (s : Dev) {x : Nat} (t : Nat) (hx : x < 12) : Moving x t s (s.beginMove x t) := by
  refine ⟨flag_of_one ?_, by rw [beginMove_flight]; rfl, beginMove_get s t hx (by simp [domFields]) (apart_of_bits (by decide) (by decide))⟩
  rw [(noteMove_beginMove s x t).get (dom_not_rail (by simp [domFields]) hx)]
  exact Dev.get_put_fit _ (by decide) (by decide)

/-! ### Requests -/

theorem powerReq_dom {d : Dev} {st dom : Nat} (hd : dom < 9) (h2 : d.get F.WARDEN_MODE ≠ 2) (hr : d.reqRefused st dom = false) :
    (d.powerReq st dom).2 = d.applyReq dom st := by
  simp [Dev.powerReq, h2, hr, show dom ≠ 255 by omega, show dom ≠ 10 by omega, show dom ≠ 11 by omega]

theorem gives_powerReq {d : Dev} {st dom : Nat} {P : Dev → Prop} (hp : Powered d) (hs : st < 8) (hd : dom < 256) (h2 : d.get F.WARDEN_MODE ≠ 2)
    (h3 : d.get F.WARDEN_MODE ≠ 3) (h : P (d.powerReq st dom).2) : Gives (.powerReq st dom) d P := by
  refine gives_of_onDev (·.writePowerReq st dom) (fun _ => rfl) hp ?_
  have : d.writePowerReq st dom = (d.powerReq st dom).2 := by
    simp [Dev.writePowerReq, Rsv.bad, Dev.ask, h2, h3, Dev.perform, Nat.mod_eq_of_lt hs, Nat.mod_eq_of_lt hd]
  rw [this]
  exact h

theorem allowed_fits {d : Dev} {st dom : Nat} (hd : dom < 9) (hr : d.reqRefused st dom = false) : st < 5 := by
  by_contra hc
  have : stateAllowed dom st = false := by
    unfold stateAllowed
    split
    · simp; omega
    · split
      · simp; omega
      · rw [if_pos (by omega)]; simp; omega
  simp [Dev.reqRefused, this] at hr

/-- A request that names no other state than the domain's own begins nothing. -/
theorem floored_self (s : Dev) (dom t : Nat) (h : ¬(t = stRun ∧ s.get F.DOM_FLOOR [dom] = 1)) : s.floored dom t = t := by
  unfold Dev.floored
  rw [if_neg (fun hc => h hc.2)]

theorem floored_congr {a b : Dev} (dom t : Nat) (h : b.get F.DOM_FLOOR [dom] = a.get F.DOM_FLOOR [dom]) :
    b.floored dom t = a.floored dom t := by
  unfold Dev.floored; rw [h]

/-- Settles O30: a request is refused with DOM_REFUSED, begins its transition, or is only noted. -/
theorem powerRequest : Obligations.PowerRequest := by
  unfold Obligations.PowerRequest
  intro d st dom hp hs hd h2 h3
  refine ⟨fun hr => gives_powerReq hp hs hd h2 h3 ?_, fun hr hd9 => ?_⟩
  · rw [show (d.powerReq st dom).2 = d.pwrEvent F.DOM_REFUSED 6 by simp [Dev.powerReq, h2, hr]]
    exact ⟨Dev.get_event_same _ _ _ _ (by decide) (by decide), onlyFields_event _ _ _ (onlyFields_refl _ _) (by decide),
      onlyRegsIrq_event _ _ _ _ _⟩
  have hd12 : dom < 12 := by omega
  have hfit : st < 2 ^ 3 := Nat.lt_trans (allowed_fits hd9 hr) (by decide)
  obtain ⟨s, hsr⟩ : ∃ s, s = d.put F.DOM_REQUESTED [dom] st := ⟨_, rfl⟩
  have hreq : s.get F.DOM_REQUESTED [dom] = st := by rw [hsr]; exact Dev.get_put_fit _ (by decide) hfit
  have hm : DomMoves dom d s := by rw [hsr]; exact domMoves_put _ (by simp [domFields]) _
  have hg : ∀ g ∈ [F.DOM_STATE, F.DOM_BUSY, F.DOM_FLOOR], s.get g [dom] = d.get g [dom] := fun g hg => by
    rw [hsr]
    refine Dev.get_put_apart _ _ (apart_of_bits ?_ ?_) <;> (revert g; decide)
  have hst := hg F.DOM_STATE (by simp)
  have hbusy : s.flag F.DOM_BUSY [dom] = d.flag F.DOM_BUSY [dom] := flag_of_get (hg F.DOM_BUSY (by simp))
  have hfl := floored_congr (a := d) (b := s) dom st (hg F.DOM_FLOOR (by simp))
  have happ : d.applyReq dom st = if s.flag F.DOM_BUSY [dom] then s.put F.DOM_PENDING [dom] st
      else if s.get F.DOM_STATE [dom] = stOff ∧ st ≠ stOff ∧ st ≠ stRun then (s.beginMove dom stRun).put F.DOM_PENDING [dom] st
      else if s.get F.DOM_STATE [dom] = s.floored dom st then s
      else s.beginMove dom (s.floored dom st) := by rw [hsr]; rfl
  have hof : OnlyFields [(F.DOM_REQUESTED, [dom])] d s := by
    rw [hsr]; exact onlyFields_put _ (onlyFields_refl _ _) (by simp)
  have hor : OnlyRegs d s := by rw [hsr]; exact onlyRegs_put _ _ _ _
  refine ⟨fun cur hrest hc hne hnf => ?_, fun hrest hnf => ?_, fun hb => ?_⟩ <;> refine gives_powerReq hp hs hd h2 h3 ?_ <;>
    rw [powerReq_dom hd9 h2 hr, happ, hbusy]
  · obtain ⟨hcur, hbz, -, -⟩ := hrest
    rw [if_neg (by simp [hbz]), if_neg (by rw [hst, hcur]; simp only [stOff] at hc ⊢; omega), if_neg (by rw [hst, hcur, hfl, floored_self _ _ _ hnf]; exact hne),
      hfl, floored_self _ _ _ hnf]
    obtain ⟨m1, m2, m3⟩ := beginMove_moving s st hd12
    have hmv := domMoves_trans hm (domMoves_beginMove s dom st)
    refine ⟨⟨m1, m2, m3.trans hst⟩, ?_, hmv.mem.1, hmv.mem.2, fun x hx hxd => hmv.dom (by simp [domFields]) hx hxd⟩
    exact (beginMove_get s st hd12 (by simp [domFields]) (apart_of_bits (by decide) (by decide))).trans hreq
  · obtain ⟨hcur, hbz, -, -⟩ := hrest
    rw [if_neg (by simp [hbz]), if_neg (by rw [hst, hcur]; tauto), if_pos (by rw [hst, hcur, hfl, floored_self _ _ _ hnf])]
    exact ⟨hreq, hof, hor⟩
  · rw [if_pos hb]
    refine ⟨?_, Dev.get_put_fit _ (by decide) hfit, onlyFields_put _ (onlyFields_mono (by simp) hof) (by simp), onlyRegs_trans hor (onlyRegs_put _ _ _ _)⟩
    rw [Dev.get_put_apart _ _ (apart_of_bits (by decide) (by decide)), hreq]

end Sys2Proof
end

section
/-! SUPPORT. Transitions end and wakes begin (18 R645 to R653). -/

namespace Sys2Proof

open Machine

/-! ### What the end of a transition keeps -/

/-- The domain's state, host memory and what waits elsewhere are as they were. -/
def KeepsState (x : Nat) (a b : Dev) : Prop :=
  b.get F.DOM_STATE [x] = a.get F.DOM_STATE [x] ∧ b.hostMem = a.hostMem ∧ b.fab = a.fab ∧ b.waiting = a.waiting ∧ b.warden = a.warden

theorem keepsState_refl (x : Nat) (s : Dev) : KeepsState x s s := ⟨rfl, rfl, rfl, rfl, rfl⟩

theorem keepsState_trans {x : Nat} {a b c : Dev} (h : KeepsState x a b) (h' : KeepsState x b c) : KeepsState x a c :=
  ⟨h'.1.trans h.1, h'.2.1.trans h.2.1, h'.2.2.1.trans h.2.2.1, h'.2.2.2.1.trans h.2.2.2.1, h'.2.2.2.2.trans h.2.2.2.2⟩

theorem keepsState_put (s : Dev) {x : Nat} {f : Fld} {ix : List Nat} (v : Nat) (h : Fld.apart f ix F.DOM_STATE [x] = true) :
    KeepsState x s (s.put f ix v) := ⟨Dev.get_put_apart _ _ h, rfl, rfl, rfl, rfl⟩

theorem keepsState_pwr (s : Dev) (x : Nat) (f : Pwr → Pwr) : KeepsState x s (s.updPwr f) := keepsState_refl x s

theorem DomMoves.keepsState {x y : Nat} {a b : Dev} (h : DomMoves x a b) (hg : b.get F.DOM_STATE [y] = a.get F.DOM_STATE [y]) :
    KeepsState y a b := by
  refine ⟨hg, ?_, ?_, ?_, ?_⟩ <;> rw [h.1]

theorem keepsState_beginMove (s : Dev) {x y : Nat} (t : Nat) (hy : y < 12) : KeepsState y s (s.beginMove x t) := by
  refine (domMoves_beginMove s x t).keepsState ?_
  by_cases h : y = x
  · subst h
    exact beginMove_get s t hy (by simp [domFields]) (apart_of_bits (by decide) (by decide))
  · exact (domMoves_beginMove s x t).dom (by simp [domFields]) hy h

/-- The fields of a domain's register other than its state lie apart from every domain's state. -/
theorem dom_apart_state {f : Fld} (hf : f ∈ [F.DOM_REQUESTED, F.DOM_PENDING, F.DOM_BUSY]) (x y : Nat) :
    Fld.apart f [x] F.DOM_STATE [y] = true := by
  refine apart_of_bits ?_ (by decide)
  revert f; decide

theorem keepsState_applyReq (s : Dev) {x y : Nat} (t : Nat) (hy : y < 12) : KeepsState y s (s.applyReq x t) := by
  unfold Dev.applyReq
  have h1 : KeepsState y s (s.put F.DOM_REQUESTED [x] t) := keepsState_put _ _ (dom_apart_state (by simp) x y)
  refine keepsState_trans h1 ?_
  generalize s.put F.DOM_REQUESTED [x] t = s'
  dsimp only
  split_ifs
  · exact keepsState_put _ _ (dom_apart_state (by simp) x y)
  · exact keepsState_trans (keepsState_beginMove _ _ hy) (keepsState_put _ _ (dom_apart_state (by simp) x y))
  · exact keepsState_refl y s'
  · exact keepsState_beginMove _ _ hy

theorem keepsState_startExit (s : Dev) {x y : Nat} (hy : y < 12) : KeepsState y s (s.startExit x) := by
  unfold Dev.startExit
  dsimp only
  split_ifs
  · exact keepsState_trans (keepsState_put _ _ (dom_apart_state (by simp) x y)) (keepsState_beginMove _ _ hy)
  · exact keepsState_refl y s

theorem keepsState_auxGate (s : Dev) {y : Nat} (on : Bool) (hy : y < 11) : KeepsState y s (s.auxGate on) := by
  unfold Dev.auxGate Dev.auxRail
  refine keepsState_trans (keepsState_trans (keepsState_pwr s y _) (keepsState_put _ _ ?_))
    (keepsState_put _ _ (dom_apart (by simp [domFields]) (by simp [domFields]) hy.ne))
  exact apart_of_off (by rw [dom_off (by simp [domFields])]; simp [Fld.off]; omega) (by decide)

theorem keepsState_auxTry (s : Dev) {y : Nat} (hy : y < 11) : KeepsState y s s.auxTry := by
  unfold Dev.auxTry
  split
  · exact keepsState_auxGate s true hy
  · exact keepsState_refl y s

theorem keepsState_fixUnit (s : Dev) (y : Nat) : KeepsState y s s.fixUnit :=
  keepsState_put _ _ (apart_of_off (by rw [dom_off (by simp [domFields])]; simp [Fld.off]; omega) (by decide))

/-! ### A die that is turned off -/

theorem Tab.get_filter {α : Type} (d : α) (t : Tab α) (p : Nat × α → Bool) (k : Nat) (h : ∀ v, p (k, v) = true) :
    Tab.get d (t.filter p) k = Tab.get d t k := by
  induction t with
  | nil => rfl
  | cons e t ih =>
    obtain ⟨k', v⟩ := e
    rw [List.filter_cons]
    by_cases hk : k = k'
    · subst hk
      rw [if_pos (h v)]
      simp [Tab.get]
    · split <;> simp [Tab.get, hk, ih]

/-- Nothing but registers in the die's window changed among what a domain's state hangs on. -/
theorem keepsState_of {a b : Dev} {y : Nat} (hr : b.regs = a.regs) (h : b.hostMem = a.hostMem ∧ b.fab = a.fab ∧ b.waiting = a.waiting ∧
    b.warden = a.warden) : KeepsState y a b := ⟨by rw [Dev.get_eq, Dev.get_eq, hr], h⟩

theorem keepsState_window {a b : Dev} {x y : Nat} (hx : x < 6)
    (hr : b.regs = Tab.eraseRange a.regs (0x2000000 + 0x400000 * x) (0x2000000 + 0x400000 * x + 0x400000))
    (h : b.hostMem = a.hostMem ∧ b.fab = a.fab ∧ b.waiting = a.waiting ∧ b.warden = a.warden) : KeepsState y a b := by
  refine ⟨get_of_reg ?_, h⟩
  have : 0x2000000 + 0x400000 * x + 0x400000 ≤ F.DOM_STATE.off [y] := by
    rw [dom_off (by simp [domFields])]; omega
  unfold Dev.reg
  rw [hr]
  exact Tab.get_filter _ _ _ _ fun v => by simp [this]

/-- What a die turned off leaves: registers outside its window, and what is not the die's. -/
theorem keepsState_dieOff (s : Dev) {x y : Nat} (hx : x < 6) : KeepsState y s (s.dieOff x) := by
  unfold Dev.dieOff
  extract_lets s1 a w s0 s2
  have h1 : KeepsState y s s1 := by
    refine forEach_keeps (keepsState_refl y) keepsState_trans _ _ (fun s p _ => ?_) s
    split
    · exact keepsState_of rfl ⟨rfl, rfl, rfl, rfl⟩
    · exact keepsState_refl y s
  have h2 : KeepsState y s1 s2 := keepsState_window hx rfl ⟨rfl, rfl, rfl, rfl⟩
  clear_value s2
  refine keepsState_trans (keepsState_trans h1 h2) (forEach_keeps (keepsState_refl y) keepsState_trans _ _ (fun s p _ => ?_) s2)
  exact keepsState_of rfl ⟨rfl, rfl, rfl, rfl⟩

/-- The state a domain reaches is the one it was asked for, and nothing of the host, the fabric or what waits changes. -/
theorem reachState_reads (s : Dev) {x st : Nat} (hx : x < 9) (hst : st < 8) :
    (s.reachState x st).get F.DOM_STATE [x] = st ∧ (s.reachState x st).hostMem = s.hostMem ∧ (s.reachState x st).fab = s.fab ∧
    (s.reachState x st).waiting = s.waiting ∧ (s.reachState x st).warden = s.warden := by
  have hx12 : x < 12 := by omega
  unfold Dev.reachState
  extract_lets s1 s2 s3 s4 s5 pend s6 s7
  have h1 : s1.get F.DOM_STATE [x] = st := by
    change ((s.put F.DOM_STATE [x] st).put F.DOM_BUSY [x] 0).get F.DOM_STATE [x] = st
    rw [Dev.get_put_apart _ _ (dom_apart_state (by simp) x x), Dev.get_put_fit _ (by decide) hst]
  have h2 : KeepsState x s1 s2 := keepsState_pwr s1 x _
  have h3 : KeepsState x s2 s3 := by
    change KeepsState x s2 (if st = stOff ∧ x < 6 then s2.dieOff x else s2)
    split
    · exact keepsState_dieOff s2 (by tauto)
    · exact keepsState_refl x s2
  have h4 : KeepsState x s3 s4 := by
    change KeepsState x s3 (if st < stDoze then _ else s3)
    split
    · exact keepsState_refl x s3
    · exact keepsState_refl x s3
  have h5 : KeepsState x s4 s5 := by
    change KeepsState x s4 (if x = 8 then (if st = stKeep && !s4.flag F.AUX_IN_KEEP then s4.fixUnit.auxOff else s4.fixUnit.auxTry) else s4)
    split_ifs
    · exact keepsState_trans (keepsState_fixUnit s4 x) (keepsState_auxGate _ false (by omega))
    · exact keepsState_trans (keepsState_fixUnit s4 x) (keepsState_auxTry _ (by omega))
    · exact keepsState_refl x s4
  have h6 : KeepsState x s5 s6 := keepsState_put _ _ (dom_apart_state (by simp) x x)
  have h7 : KeepsState x s6 s7 := by
    change KeepsState x s6 (if pend ≠ 7 then (if s6.floored x pend = st then s6 else s6.beginMove x (s6.floored x pend))
      else if s6.floored x st ≠ st then s6.beginMove x (s6.floored x st)
      else if st = stDoze ∨ st = stKeep then (if s6.levelWake x then s6.startExit x else s6)
      else s6)
    split_ifs
    · exact keepsState_refl x s6
    · exact keepsState_beginMove _ _ hx12
    · exact keepsState_beginMove _ _ hx12
    · exact keepsState_startExit _ hx12
    · exact keepsState_refl x s6
    · exact keepsState_refl x s6
  have h8 : KeepsState x s7 (if s7.pwr.unitKeep ∧ (List.range 8).all (fun y => decide (stKeep ≤ s7.get F.DOM_STATE [y]) && !s7.flag F.DOM_BUSY [y])
      then (s7.updPwr fun p => { p with unitKeep := false }).applyReq 8 stKeep else s7) := by
    split
    · exact keepsState_trans (keepsState_pwr s7 x _) (keepsState_applyReq _ _ hx12)
    · exact keepsState_refl x s7
  obtain ⟨k1, k2, k3, k4, k5⟩ := keepsState_trans (keepsState_trans (keepsState_trans (keepsState_trans h2 h3) (keepsState_trans h4 h5))
    (keepsState_trans h6 h7)) h8
  exact ⟨k1.trans h1, k2, k3, k4, k5⟩

/-! ### Wakes -/

theorem domMoves_startExit (s : Dev) (x : Nat) : DomMoves x s (s.startExit x) := by
  unfold Dev.startExit
  dsimp only
  split_ifs
  · exact domMoves_trans (domMoves_put _ (f := F.DOM_REQUESTED) (by simp [domFields]) _) (domMoves_beginMove _ _ _)
  · exact domMoves_refl x s

theorem domMoves_edgeWake (s : Dev) (x : Nat) : DomMoves x s (s.edgeWake x) := by
  unfold Dev.edgeWake
  split
  · exact domMoves_refl x s
  · split
    · split
      · exact domMoves_regs (onlyRegs_put _ _ _ _) fun off _ h _ => Dev.reg_put_ne _ _ _ _ _ h
      · exact domMoves_wakes s x _
    · exact domMoves_wakes s x _

theorem domMoves_wake (s : Dev) (x : Nat) (edge : Bool) : DomMoves x s (s.wake x edge) := by
  unfold Dev.wake
  split
  · exact domMoves_refl x s
  · dsimp only
    have h : DomMoves x s (if edge then s.edgeWake x else if s.domAsleep x then s.wakeReq x else s) := by
      split_ifs
      · exact domMoves_edgeWake s x
      · exact domMoves_wakes s x _
      · exact domMoves_refl x s
    generalize (if edge then s.edgeWake x else if s.domAsleep x then s.wakeReq x else s) = s' at h
    refine domMoves_trans h ?_
    split
    · exact domMoves_startExit s' x
    · exact domMoves_refl x s'

theorem atRest_asleep {s : Dev} {x st : Nat} (h : AtRest s x st) (hst : st = stDoze ∨ st = stKeep) : s.domAsleep x = true := by
  obtain ⟨h1, -, h3, -⟩ := h
  simp only [Dev.domAsleep, h1, h3]
  rcases hst with rfl | rfl <;> decide

/-- A wake of a domain at rest in Doze or Keep begins its exit. -/
theorem wake_rest (s : Dev) {x st : Nat} (edge : Bool) (hx : x < 9) (hw : s.get F.WARDEN_MODE ≠ 2) (h : AtRest s x st)
    (hst : st = stDoze ∨ st = stKeep) :
    Moving x (s.floored x (s.wakeTarget x)) s (s.wake x edge) ∧ (s.wake x edge).get F.DOM_REQUESTED [x] = s.wakeTarget x := by
  have hx12 : x < 12 := by omega
  have ha := atRest_asleep h hst
  obtain ⟨h1, h2, h3, -⟩ := h
  have hreq : (if edge then s.edgeWake x else if s.domAsleep x then s.wakeReq x else s) = s.wakeReq x := by
    simp [Dev.edgeWake, ha, h3]
  have hb : (s.flag F.DOM_BUSY [x]) = false := h2
  have he : s.wake x edge = ((s.wakeReq x).put F.DOM_REQUESTED [x] (s.wakeTarget x)).beginMove x (s.floored x (s.wakeTarget x)) := by
    rw [Dev.wake, if_neg (by omega), hreq]
    dsimp only
    rw [if_pos (by rw [Dev.wakeReq]; exact Tab.get_set_same false s.wakes x true), Dev.startExit]
    rw [show (s.wakeReq x).flag F.DOM_BUSY [x] = false from hb, show (s.wakeReq x).get F.DOM_STATE [x] = st from h1,
      if_pos (by rcases hst with rfl | rfl <;> simp [hx])]
    rfl
  have ht : s.wakeTarget x < 2 ^ 3 := by unfold Dev.wakeTarget; split <;> decide
  rw [he]
  generalize hs' : (s.wakeReq x).put F.DOM_REQUESTED [x] (s.wakeTarget x) = s'
  have hg : s'.get F.DOM_STATE [x] = s.get F.DOM_STATE [x] := by
    rw [← hs', Dev.get_put_apart _ _ (dom_apart_state (by simp) x x)]
    rfl
  obtain ⟨m1, m2, m3⟩ := beginMove_moving s' (s.floored x (s.wakeTarget x)) hx12
  refine ⟨⟨m1, m2, m3.trans hg⟩, ?_⟩
  rw [beginMove_get s' _ hx12 (by simp [domFields]) (apart_of_bits (by decide) (by decide)), ← hs', Dev.get_put_fit _ (by decide) ht]

/-- What a domain's wake hangs on is as it was. -/
def WakeKept (x : Nat) (a b : Dev) : Prop :=
  (∀ g ∈ domFields, b.get g [x] = a.get g [x]) ∧ Tab.get none b.pwr.flight x = Tab.get none a.pwr.flight x ∧
  b.get F.WARDEN_MODE = a.get F.WARDEN_MODE ∧ b.get F.WAKE_TARGET = a.get F.WAKE_TARGET ∧ b.pwr.wakeIn = a.pwr.wakeIn ∧
  b.mem = a.mem ∧ b.hostMem = a.hostMem

theorem wakeKept_refl (x : Nat) (s : Dev) : WakeKept x s s := ⟨fun _ _ => rfl, rfl, rfl, rfl, rfl, rfl, rfl⟩

theorem wakeKept_trans {x : Nat} {a b c : Dev} (h : WakeKept x a b) (h' : WakeKept x b c) : WakeKept x a c := by
  obtain ⟨h1, h2, h3, h4, h5, h6, h7⟩ := h
  obtain ⟨g1, g2, g3, g4, g5, g6, g7⟩ := h'
  exact ⟨fun g hg => (g1 g hg).trans (h1 g hg), g2.trans h2, g3.trans h3, g4.trans h4, g5.trans h5, g6.trans h6, g7.trans h7⟩

theorem DomMoves.wakeKept {x y : Nat} {a b : Dev} (h : DomMoves y a b) (hx : x < 12) (hy : y < 12) (hxy : x ≠ y) : WakeKept x a b :=
  ⟨fun _ hg => h.dom hg hx hxy, h.2.2 x hxy, h.get hy (by decide), h.get hy (by decide), h.pwrIn.1, h.mem.1, h.mem.2⟩

theorem WakeKept.atRest {x st : Nat} {a b : Dev} (h : WakeKept x a b) (hr : AtRest a x st) : AtRest b x st := by
  obtain ⟨hg, hf, -⟩ := h
  obtain ⟨r1, r2, r3, r4⟩ := hr
  exact ⟨(hg _ (by simp [domFields])).trans r1, (flag_of_get (hg _ (by simp [domFields]))).trans r2, hf.trans r3,
    (hg _ (by simp [domFields])).trans r4⟩

theorem WakeKept.target {x : Nat} {a b : Dev} (h : WakeKept x a b) : b.floored x (b.wakeTarget x) = a.floored x (a.wakeTarget x) := by
  obtain ⟨hg, -, -, ht, -⟩ := h
  have : b.wakeTarget x = a.wakeTarget x := by unfold Dev.wakeTarget; rw [flag_of_get ht]
  rw [this]
  exact floored_congr _ _ (hg _ (by simp [domFields]))

theorem WakeKept.moving {x t : Nat} {s a b : Dev} (h : WakeKept x a b) (hm : Moving x t s a) : Moving x t s b := by
  obtain ⟨hg, hf, -⟩ := h
  obtain ⟨m1, m2, m3⟩ := hm
  exact ⟨(flag_of_get (hg _ (by simp [domFields]))).trans m1, by rw [hf]; exact m2, (hg _ (by simp [domFields])).trans m3⟩

/-- The wake of other domains. -/
theorem wakes_others {x : Nat} (hx : x < 12) (edge : Bool) (l : List Nat) (hl : ∀ y ∈ l, y < 12 ∧ x ≠ y) (s : Dev) :
    WakeKept x s (s.forEach l fun s y => s.wake y edge) :=
  forEach_keeps (wakeKept_refl x) wakeKept_trans l _ (fun s y hy => (domMoves_wake s y edge).wakeKept hx (hl y hy).1 (hl y hy).2) s

/-- A wake of the domains of WAKE_SET begins the exit of one of them that is at rest. -/
theorem wakeAll_rest (s : Dev) {x st : Nat} (edge : Bool) (hx : x < 9) (hw : s.get F.WARDEN_MODE ≠ 2) (h : AtRest s x st)
    (hst : st = stDoze ∨ st = stKeep) (hset : bitAt (s.get F.WAKE_SET) x = true) :
    Moving x (s.floored x (s.wakeTarget x)) s (s.wakeAll edge) ∧ (s.wakeAll edge).pwr.wakeIn = s.pwr.wakeIn ∧
    (s.wakeAll edge).mem = s.mem ∧ (s.wakeAll edge).hostMem = s.hostMem := by
  have hx12 : x < 12 := by omega
  unfold Dev.wakeAll
  have hm : x ∈ (List.range 9).filter fun d => bitAt (s.get F.WAKE_SET) d := by simp [hx, hset]
  have hnd : ((List.range 9).filter fun d => bitAt (s.get F.WAKE_SET) d).Nodup := List.Nodup.filter _ List.nodup_range
  have hlt : ∀ y ∈ (List.range 9).filter fun d => bitAt (s.get F.WAKE_SET) d, y < 12 := fun y hy => by
    have := List.mem_range.1 (List.mem_filter.1 hy).1
    omega
  generalize (List.range 9).filter (fun d => bitAt (s.get F.WAKE_SET) d) = l at hm hnd hlt
  obtain ⟨l1, l2, rfl⟩ := List.append_of_mem hm
  rw [List.nodup_append, List.nodup_cons] at hnd
  obtain ⟨-, ⟨n2, -⟩, n3⟩ := hnd
  have hsplit : s.forEach (l1 ++ x :: l2) (fun s d => s.wake d edge) =
      ((s.forEach l1 fun s d => s.wake d edge).wake x edge).forEach l2 fun s d => s.wake d edge := by
    simp [Dev.forEach]
  rw [hsplit]
  have k1 := wakes_others hx12 edge l1 (fun y hy => ⟨hlt y (by simp [hy]), fun e => n3 y hy x (by simp) e.symm⟩) s
  generalize s.forEach l1 (fun s d => s.wake d edge) = s1 at k1 ⊢
  have r1 := k1.atRest h
  have ⟨m, _⟩ := wake_rest s1 edge hx (by rw [k1.2.2.1]; exact hw) r1 hst
  have k2 := wakes_others hx12 edge l2 (fun y hy => ⟨hlt y (by simp [hy]), fun e => n2 (e ▸ hy)⟩) (s1.wake x edge)
  have hd := domMoves_wake s1 x edge
  rw [k1.target] at m
  obtain ⟨-, -, -, -, a1, a2, a3⟩ := k1
  obtain ⟨m1, m2, m3⟩ := m
  have hm' := k2.moving (s := s) ⟨m1, m2, m3.trans (r1.1.trans h.1.symm)⟩
  obtain ⟨-, -, -, -, b1, b2, b3⟩ := k2
  exact ⟨hm', b1.trans (hd.pwrIn.1.trans a1), b2.trans (hd.mem.1.trans a2), b3.trans (hd.mem.2.trans a3)⟩

/-! ### The rows -/

theorem moveOn_eq {d : Dev} {x : Nat} {f : Flight} (h2 : d.get F.WARDEN_MODE ≠ 2) (hf : Tab.get none d.pwr.flight x = some f)
    (hle : d.get F.DOM_STATE [x] ≤ f.target) (h1 : f.stage = 1) :
    d.moveOn x = if d.railsReady x then d.reachState x f.target else d := by
  simp [Dev.moveOn, h2, hf, h1, Nat.not_lt.2 hle]

theorem serveWaits_nothing {s : Dev} (hq : s.warden.wait = []) : s.serveWaits = s := by
  unfold Dev.serveWaits
  split
  · rfl
  · have he : (s.updWarden fun w => { w with wait := [] }) = s := by
      unfold Dev.updWarden
      rw [← hq]
    rw [hq, he]
    rfl

theorem serveAccesses_nothing {s : Dev} (hw : s.waiting = []) : s.serveAccesses = s := by
  have he : ({ s with waiting := [] } : Dev) = s := by rw [← hw]
  unfold Dev.serveAccesses
  rw [he, hw]
  rfl

theorem serve_nothing {s : Dev} (hw : s.waiting = []) (hq : s.warden.wait = []) : (s.serveWaits).serveAccesses = s := by
  rw [serveWaits_nothing hq, serveAccesses_nothing hw]

/-- Settles O31: what ends a transition, what a wake begins, and what waits. -/
theorem domainTransitions : Obligations.DomainTransitions := by
  unfold Obligations.DomainTransitions
  intro d dom hp hd h2
  have hd12 : dom < 12 := by omega
  refine ⟨fun f hf ht hle => ⟨fun hs hr => ?_, fun hs hr => ?_, fun hs hdr => ?_⟩, fun st edge hrest hst => ?_, fun edge ha hw => ?_,
    fun st hrest hst hset hin => ?_, ?_, fun f hf hlt hoff hw hq => ⟨fun hr hh => ?_, fun hr hl => ?_⟩⟩
  · refine gives_of_onDev (·.moveOn dom) (fun _ => rfl) hp ?_
    rw [moveOn_eq h2 hf hle hs, if_pos hr]
    obtain ⟨r1, r2, -⟩ := reachState_reads d hd (show f.target < 8 by omega)
    exact ⟨r1, r2⟩
  · refine gives_of_onDev (·.moveOn dom) (fun _ => rfl) hp ?_
    rw [moveOn_eq h2 hf hle hs, if_neg (by simp [hr])]
  · refine gives_of_onDev (·.moveOn dom) (fun _ => rfl) hp ?_
    simp [Dev.moveOn, h2, hf, hs, hdr]
  · refine gives_of_onDev (·.wake dom edge) (fun _ => rfl) hp ?_
    obtain ⟨m, r⟩ := wake_rest d edge hd h2 hrest hst
    exact ⟨m, r, (domMoves_wake d dom edge).mem⟩
  · refine gives_of_onDev (·.wake dom edge) (fun _ => rfl) hp ?_
    have hn : ¬(9 ≤ dom ∨ d.get F.WARDEN_MODE = 2) := by omega
    simp [Dev.wake, hn, Dev.edgeWake, ha, hw]
  · refine gives_of_onDev (·.wakeIn true) (fun _ => rfl) hp ?_
    have he : d.wakeIn true = (d.updPwr fun p => { p with wakeIn := true }).wakeAll (d.flag F.WAKE_IN_EDGE) := by
      have : (d.updPwr fun p => { p with wakeIn := true }).flag F.WAKE_IN_EDGE = d.flag F.WAKE_IN_EDGE := rfl
      unfold Dev.wakeIn
      dsimp only
      rw [this]
      cases d.flag F.WAKE_IN_EDGE <;> simp [hin]
    rw [he]
    exact wakeAll_rest (d.updPwr fun p => { p with wakeIn := true }) _ hd h2 hrest hst hset
  · refine gives_of_onDev (·.wakeIn false) (fun _ => rfl) hp ?_
    simp [Dev.wakeIn, Dev.updPwr]
  · refine gives_of_onDev (·.wakeDone dom) (fun _ => rfl) hp ?_
    have hn : ¬(d.get F.DOM_STATE [dom] ≤ f.target ∨ d.get F.DOM_STATE [dom] = stOff) := by omega
    have h8 : d.get F.DOM_STATE [dom] < 8 := bitsOf_lt _ _ _
    obtain ⟨r1, r2, r3, r4, r5⟩ := reachState_reads d hd (show f.target < 8 by omega)
    have he : d.exitDone dom = (d.reachState dom f.target).retryHeld := by simp [Dev.exitDone, h2, hf, hn, hr]
    have hh' : (d.reachState dom f.target).retryHeld = d.reachState dom f.target := by
      generalize d.reachState dom f.target = s at r3
      have hs : s.fab.heldIn = [] := by rw [r3, hh]
      have he : ({ s with fab := { s.fab with heldIn := [] } } : Dev) = s := by rw [← hs]
      unfold Dev.retryHeld
      rw [he, hs]
      rfl
    rw [Dev.wakeDone, if_neg (by omega), he, hh', serve_nothing (r4.trans hw) (by rw [r5, hq])]
    exact ⟨r1, r2⟩
  · refine gives_of_onDev (·.wakeDone dom) (fun _ => rfl) hp ?_
    have hn : ¬(d.get F.DOM_STATE [dom] ≤ f.target ∨ d.get F.DOM_STATE [dom] = stOff) := by omega
    have he : d.exitDone dom = (d.updPwr fun p => { p with late := Tab.set false p.late dom true }).count F.WAKE_LATE_COUNT := by
      simp [Dev.exitDone, h2, hf, hn, hr, hl]
    have hk := serve_nothing (s := (d.updPwr fun p => { p with late := Tab.set false p.late dom true }).count F.WAKE_LATE_COUNT) hw hq
    rw [Dev.wakeDone, if_neg (by omega), he, hk]
    exact ⟨Dev.get_count_same _ _ _ (by decide), onlyFields_count (onlyFields_of_regs rfl) (by simp), rfl⟩

end Sys2Proof
end

section
/-! SUPPORT. The safe stop and the fault log (17 R619 to R626). -/

namespace Sys2Proof

open Machine

/-! ### Registers that stand -/

/-- The registers of a set are as they were. -/
def Stands (K : Nat → Prop) (a b : Dev) : Prop := ∀ off, K off → b.reg off = a.reg off

theorem stands_refl (K : Nat → Prop) (a : Dev) : Stands K a a := fun _ _ => rfl

theorem stands_trans {K : Nat → Prop} {a b c : Dev} (h : Stands K a b) (h' : Stands K b c) : Stands K a c :=
  fun off ho => (h' off ho).trans (h off ho)

theorem stands_of_regs {K : Nat → Prop} {a b : Dev} (h : b.regs = a.regs) : Stands K a b := fun off _ => by
  unfold Dev.reg; rw [h]

theorem stands_put {K : Nat → Prop} (s : Dev) {f : Fld} {ix : List Nat} (v : Nat) (h : ¬K (f.off ix)) : Stands K s (s.put f ix v) :=
  fun off ho => Dev.reg_put_ne _ _ _ _ _ (by rintro rfl; exact h ho)

theorem stands_put0 {K : Nat → Prop} (s : Dev) {f : Fld} (v : Nat) (h : ¬K (f.off [])) : Stands K s (s.put0 f v) := stands_put s v h

theorem stands_count {K : Nat → Prop} (s : Dev) {f : Fld} {ix : List Nat} (h : ¬K (f.off ix)) : Stands K s (s.count f ix) :=
  stands_put s _ h

theorem stands_event {K : Nat → Prop} (s : Dev) {f : Fld} (en : Fld) (b v : Nat) (h : ¬K (f.off [])) : Stands K s (s.event f en b v) :=
  stands_trans (stands_put0 s 1 h) (stands_of_regs (s.event_regs f en b v))

theorem stands_setReg {K : Nat → Prop} (s : Dev) (o : Nat) (w : Word) (h : ¬K o) : Stands K s (s.setReg o w) := fun off ho => by
  rw [Dev.reg_setReg, if_neg (by rintro rfl; exact h ho)]

theorem Stands.get {K : Nat → Prop} {a b : Dev} (h : Stands K a b) (g : Fld) (jx : List Nat) (hg : K (g.off jx)) : b.get g jx = a.get g jx :=
  get_of_reg (h _ hg)

theorem stands_mono {K K' : Nat → Prop} {a b : Dev} (h : Stands K a b) (hk : ∀ off, K' off → K off) : Stands K' a b :=
  fun off ho => h off (hk off ho)

/-- What every step of a walk establishes for its own element and no step undoes holds for all at the end. -/
theorem forEach_all {α : Type} {Q : α → Dev → Prop} (f : Dev → α → Dev) (hs : ∀ s x, Q x (f s x)) (hk : ∀ s x y, Q y s → Q y (f s x))
    (l : List α) (s : Dev) : ∀ x ∈ l, Q x (s.forEach l f) := by
  unfold Dev.forEach
  have keep : ∀ (l : List α) (s : Dev) (y : α), Q y s → Q y (l.foldl f s) := fun l => by
    induction l with
    | nil => exact fun _ _ h => h
    | cons x l ih => exact fun s y h => ih _ y (hk s x y h)
  induction l generalizing s with
  | nil => simp
  | cons x l ih =>
    intro y hy
    rcases List.mem_cons.1 hy with rfl | hy
    · exact keep l _ y (hs s y)
    · exact ih _ y hy

/-! ### Ports that go DOWN -/

/-- Only registers, fabric state, queues and PF messages changed. -/
def OnlyPorts (a b : Dev) : Prop :=
  b = { a with regs := b.regs, fab := b.fab, queues := b.queues,
               host := { a.host with sent := b.host.sent, pfPba := b.host.pfPba, vfPba := b.host.vfPba } }

theorem onlyPorts_refl (a : Dev) : OnlyPorts a a := rfl

theorem onlyPorts_trans {a b c : Dev} (h : OnlyPorts a b) (h' : OnlyPorts b c) : OnlyPorts a c := by
  unfold OnlyPorts at *
  rw [h] at h'
  exact h'

theorem OnlyRegsIrq.ports {a b : Dev} (h : OnlyRegsIrq a b) : OnlyPorts a b := by
  unfold OnlyPorts OnlyRegsIrq at *
  generalize b.regs = r, b.host.sent = x, b.host.pfPba = y, b.host.vfPba = z at h
  subst h
  rfl

theorem onlyPorts_msgOver (s : Dev) (m : OutMsg) (st d : Nat) : OnlyPorts s (s.msgOver m st d) := by
  unfold Dev.msgOver
  dsimp only
  split <;> rfl

theorem msgOver_regs (s : Dev) (m : OutMsg) (st d : Nat) : (s.msgOver m st d).regs = s.regs := by
  unfold Dev.msgOver
  dsimp only
  split <;> rfl

theorem msgsOver_only (s : Dev) (p : OutMsg → Bool) (d : Nat) : OnlyPorts s (s.msgsOver p d) ∧ (s.msgsOver p d).regs = s.regs :=
  ⟨forEach_keeps onlyPorts_refl onlyPorts_trans _ _ (fun s m _ => onlyPorts_msgOver s m _ d) s,
    forEach_keeps (R := fun a b => b.regs = a.regs) (fun _ => rfl) (fun h h' => h'.trans h) _ _ (fun s m _ => msgOver_regs s m _ d) s⟩

/-- The port's buffers emptied, before its messages end. -/
def portEmptied (s : Dev) (n : Nat) : Dev :=
  let s := (s.put F.PORT_STATE (fix n) fpDOWN).put F.PORT_LOCKED (fix n) 0
  let s := s.updLink n fun l => { Link.reset with out := l.out, retry := l.retry }
  { s with fab := { s.fab with
    inMsgs := s.fab.inMsgs.filter fun m => m.port != n
    heldIn := s.fab.heldIn.filter fun x => x.1 / 2 != n } }

theorem fabDown_eq (s : Dev) (n : Nat) :
    s.fabDown n false = if s.fabSt n = fpDOWN then (portEmptied s n).msgsOver (fun m => m.port == n) dLINKLOST
      else ((portEmptied s n).msgsOver (fun m => m.port == n) dLINKLOST).fabEvent F.FAB_PORT_DOWN 1 := rfl

theorem portEmptied_regs (s : Dev) (n : Nat) :
    (portEmptied s n).regs = ((s.put F.PORT_STATE (fix n) fpDOWN).put F.PORT_LOCKED (fix n) 0).regs := rfl

theorem portEmptied_only (s : Dev) (n : Nat) : OnlyPorts s (portEmptied s n) := rfl

theorem port_off {f : Fld} (hf : f = F.PORT_STATE ∨ f = F.PORT_LOCKED) (n : Nat) :
    f.off (fix n) = 0x3E01004 + 0x100000 * (n / 6) + 0x400 * (n % 6) := by
  rcases hf with rfl | rfl <;> simp [Fld.off, fix, Nat.add_assoc]

/-- A port that goes DOWN: its state, and no other port's. -/
theorem fabDown_reads (s : Dev) (n : Nat) :
    OnlyPorts s (s.fabDown n false) ∧ Stands (fun off => off < 0x3E00000) s (s.fabDown n false) ∧ (s.fabDown n false).fabSt n = fpDOWN ∧
    ∀ m, (s.fabDown n false).fabSt m = fpDOWN ∨ (s.fabDown n false).fabSt m = s.fabSt m := by
  obtain ⟨x, hx⟩ : ∃ x, x = (portEmptied s n).msgsOver (fun m => m.port == n) dLINKLOST := ⟨_, rfl⟩
  have hxr : x.regs = ((s.put F.PORT_STATE (fix n) fpDOWN).put F.PORT_LOCKED (fix n) 0).regs := by
    rw [hx, (msgsOver_only _ _ _).2, portEmptied_regs]
  have hxo : OnlyPorts s x := by rw [hx]; exact onlyPorts_trans (portEmptied_only s n) (msgsOver_only _ _ _).1
  have hst : ∀ m, x.fabSt m = if F.PORT_STATE.off (fix m) = F.PORT_STATE.off (fix n) then fpDOWN else s.fabSt m := fun m => by
    unfold Dev.fabSt
    rw [Dev.get_eq, hxr, ← Dev.get_eq, Dev.get_put_apart _ _ (apart_of_bits (by decide) (by decide))]
    split
    · rename_i ho
      rw [show (s.put F.PORT_STATE (fix n) fpDOWN).get F.PORT_STATE (fix m) = (s.put F.PORT_STATE (fix n) fpDOWN).get F.PORT_STATE (fix n) by
        unfold Dev.get; rw [ho], Dev.get_put_fit _ (by decide) (by decide)]
    · rename_i ho
      exact Dev.get_put_apart _ _ (apart_of_off ho (by decide))
  have hxs : Stands (fun off => off < 0x3E00000) s x :=
    stands_trans (stands_trans (stands_put s fpDOWN (by rw [port_off (.inl rfl)]; omega)) (stands_put _ 0 (by rw [port_off (.inr rfl)]; omega)))
      (stands_of_regs hxr)
  have hev : ∀ m, (x.fabEvent F.FAB_PORT_DOWN 1).fabSt m = x.fabSt m := fun m => by
    unfold Dev.fabSt
    refine Dev.get_event_apart _ _ _ _ (apart_of_off ?_ (by decide))
    rw [port_off (.inl rfl)]
    change _ ≠ 0x3E10000
    omega
  rw [fabDown_eq, ← hx]
  split
  · refine ⟨hxo, hxs, (hst n).trans (if_pos rfl), fun m => ?_⟩
    rw [hst m]
    split <;> simp
  · refine ⟨onlyPorts_trans hxo (onlyRegsIrq_event _ _ _ _ _).ports, stands_trans hxs (stands_event _ _ _ _ (by decide)), ?_, fun m => ?_⟩
    · rw [hev, hst, if_pos rfl]
    · rw [hev, hst]
      split <;> simp

/-- Every port down: what a safe stop and the regulator-disable step do to the fabric. -/
theorem portsLost_reads (s : Dev) :
    OnlyPorts s s.portsLost ∧ Stands (fun off => off < 0x3E00000) s s.portsLost ∧ ∀ n < 12, s.portsLost.fabUp n = false := by
  have step : ∀ (s : Dev) (n : Nat), OnlyPorts s (if s.fabUp n then (s.linkOut n .unitLost).fabDown n false else s) ∧
      Stands (fun off => off < 0x3E00000) s (if s.fabUp n then (s.linkOut n .unitLost).fabDown n false else s) ∧
      (if s.fabUp n then (s.linkOut n .unitLost).fabDown n false else s).fabUp n = false ∧
      ∀ m, s.fabUp m = false → (if s.fabUp n then (s.linkOut n .unitLost).fabDown n false else s).fabUp m = false := fun s n => by
    split
    · obtain ⟨h1, h2, h3, h4⟩ := fabDown_reads (s.linkOut n .unitLost) n
      refine ⟨onlyPorts_trans (b := s.linkOut n .unitLost) rfl h1, stands_trans (stands_of_regs rfl) h2, ?_, fun m hm => ?_⟩
      · unfold Dev.fabUp; rw [h3]; simp
      · rcases h4 m with h | h
        · unfold Dev.fabUp; rw [h]; simp
        · unfold Dev.fabUp at hm ⊢; rw [h]; exact hm
    · rename_i h
      exact ⟨onlyPorts_refl s, stands_refl _ s, by simpa using h, fun _ h => h⟩
  refine ⟨forEach_keeps onlyPorts_refl onlyPorts_trans _ _ (fun s n _ => (step s n).1) s,
    forEach_keeps (stands_refl _) stands_trans _ _ (fun s n _ => (step s n).2.1) s, fun n hn => ?_⟩
  exact forEach_all (Q := fun n e => e.fabUp n = false) _ (fun s n => (step s n).2.2.1) (fun s n m h => (step s n).2.2.2 m h) _ s n
    (List.mem_range.2 hn)

end Sys2Proof
end

section
/-! SUPPORT. The safe stop and the fault log, continued: steps 1 to 5 of Table 17.4, and the record of a fault. -/

namespace Sys2Proof

open Machine

theorem onlyRegsIrq_refl (s : Dev) : OnlyRegsIrq s s := rfl

theorem onlyRegsIrq_raisePf (s : Dev) (v : Nat) : OnlyRegsIrq s (s.raisePf v) ∧ (s.raisePf v).regs = s.regs := by
  obtain ⟨m, p, h⟩ := s.raisePf_eq v
  rw [h]
  exact ⟨rfl, rfl⟩

theorem OnlyRegsIrq.mem {a b : Dev} (h : OnlyRegsIrq a b) : b.mem = a.mem ∧ b.hostMem = a.hostMem := by
  rw [h]; exact ⟨rfl, rfl⟩

theorem OnlyPorts.mem {a b : Dev} (h : OnlyPorts a b) : b.mem = a.mem ∧ b.hostMem = a.hostMem ∧ b.warden = a.warden := by
  rw [h]; exact ⟨rfl, rfl, rfl⟩

/-! ### The mode -/

theorem setMode_reads (s : Dev) {m : Nat} (hm : m < 4) :
    (s.setMode m).get F.WARDEN_MODE = m ∧ OnlyFields [(F.WARDEN_MODE, [])] s (s.setMode m) ∧ OnlyRegsIrq s (s.setMode m) := by
  unfold Dev.setMode
  split
  · rename_i h
    exact ⟨h, onlyFields_refl _ _, onlyRegsIrq_refl s⟩
  · have h1 : (s.put0 F.WARDEN_MODE m).get F.WARDEN_MODE = m := Dev.get_put0_fit _ (by decide) hm
    have h2 : OnlyFields [(F.WARDEN_MODE, [])] s (s.put0 F.WARDEN_MODE m) := onlyFields_put0 _ (onlyFields_refl _ _) (by simp)
    dsimp only
    split
    · obtain ⟨r1, r2⟩ := onlyRegsIrq_raisePf (s.put0 F.WARDEN_MODE m) 3
      exact ⟨by rw [Dev.get_eq, r2, ← Dev.get_eq, h1], onlyFields_congr rfl r2 h2, onlyRegsIrq_trans (onlyRegs_put0 s _ m).irq r1⟩
    · exact ⟨h1, h2, (onlyRegs_put0 s _ m).irq⟩

/-- Registers that no field of the list lies in stand. -/
theorem OnlyFields.stands {l : List (Fld × List Nat)} {a b : Dev} (h : OnlyFields l a b) {K : Nat → Prop} (hk : ∀ x ∈ l, ¬K (x.1.off x.2)) :
    Stands K a b := fun off ho => h.reg off fun x hx e => hk x hx (e ▸ ho)

/-! ### The master -/

/-- A unit that stops as master, or as bidder, takes the role of a unit that is neither. -/
theorem stopMaster_reads (s : Dev) :
    s.stopMaster.isMaster = false ∧ Stands (fun off => off ≠ 0x100004) s s.stopMaster ∧
    s.stopMaster = { s with regs := s.stopMaster.regs, cad := s.stopMaster.cad } := by
  unfold Dev.stopMaster
  split
  · refine ⟨?_, ?_, rfl⟩
    · have hr : s.restRole < 2 := by unfold Dev.restRole; split <;> decide
      have hg : (s.put0 F.CAD_ROLE_NOW s.restRole).get F.CAD_ROLE_NOW = s.restRole :=
        Dev.get_put0_fit _ (by decide) (Nat.lt_trans hr (by decide))
      have hm : (s.put0 F.CAD_ROLE_NOW s.restRole).isMaster = false := by
        unfold Dev.isMaster
        rw [hg]
        simp only [roleMaster, beq_eq_false_iff_ne]
        omega
      exact hm
    · exact stands_trans (stands_put0 s _ (by decide)) (stands_of_regs rfl)
  · rename_i h
    simp only [Bool.or_eq_true, not_or, Bool.not_eq_true] at h
    exact ⟨h.1, stands_refl _ s, rfl⟩

/-! ### The safe stop -/

/-- Steps 1 to 5 of Table 17.4, the record's words at hand. -/
def stopSteps (s : Dev) (no : Nat) (w : List Word) : Dev :=
  let s := (s.setMode 2).put0 F.SS_RECORD no
  let s := s.updWarden fun x => { x with stop := some w, wait := [], acts := [] }
  let s := (s.put0 F.PAGE 4).portsLost
  let s := (s.sendEvent 5 bcast no).stopMaster
  { s with
    pauses := Tab.set false s.pauses 2 true
    host := { s.host with aer := true, errFatal := true } }

/-- What the safe stop draws for the record's ARG. -/
def stopDraw (s : Dev) (r : Report) : Word × Dev := if eccCode r.code then s.drawWord else (BitVec.ofNat 32 r.arg, s)

theorem safeStop_eq (s : Dev) (r : Report) (core : Nat) (h : s.get F.WARDEN_MODE ≠ 2) :
    s.safeStop r core = stopSteps (stopDraw s r).2 (s.get F.FAULT_HEAD)
      (recordWords { r with arg := (stopDraw s r).1.toNat } (s.get F.FAULT_HEAD) 3 core) := by
  rw [Dev.safeStop, if_neg h]
  rfl

theorem stopDraw_regs (s : Dev) (r : Report) :
    (stopDraw s r).2.regs = s.regs ∧ (stopDraw s r).2.mem = s.mem ∧ (stopDraw s r).2.hostMem = s.hostMem := by
  unfold stopDraw
  split <;> exact ⟨rfl, rfl, rfl⟩

theorem stopSteps_reads (s : Dev) {no : Nat} (w : List Word) (hn : no < 2 ^ 16) :
    (stopSteps s no w).get F.WARDEN_MODE = 2 ∧ (stopSteps s no w).get F.SS_RECORD = no ∧ (stopSteps s no w).warden.stop ≠ none ∧
    (∀ n < 12, (stopSteps s no w).fabUp n = false) ∧ (stopSteps s no w).isMaster = false ∧ (stopSteps s no w).host.errFatal = true ∧
    (stopSteps s no w).hostShut = true ∧ (stopSteps s no w).workHeld = true ∧ (stopSteps s no w).mem = s.mem ∧
    (stopSteps s no w).hostMem = s.hostMem ∧
    Stands (fun off => off ≠ 0x100004 ∧ off ≠ 0x3800000 ∧ off < 0x3C00000) s (stopSteps s no w) := by
  unfold stopSteps
  extract_lets s1 s2 s3 s4 src
  obtain ⟨m1, m2, m3⟩ := setMode_reads s (m := 2) (by decide)
  have h1m : s1.get F.WARDEN_MODE = 2 := (Dev.get_put0_apart _ _ (by decide)).trans m1
  have h1r : s1.get F.SS_RECORD = no := Dev.get_put0_fit _ (by decide) hn
  have h1 : OnlyRegsIrq s s1 := onlyRegsIrq_trans m3 (onlyRegs_put0 _ _ _).irq
  have k1 : Stands (fun off => off ≠ 0x3800000) s s1 :=
    stands_trans (m2.stands (by simp [Fld.off])) (stands_put0 (s.setMode 2) no (by decide))
  have h2 : s2.regs = s1.regs ∧ s2.mem = s1.mem ∧ s2.hostMem = s1.hostMem ∧ s2.warden.stop = some w := ⟨rfl, rfl, rfl, rfl⟩
  obtain ⟨p1, p2, p3⟩ := portsLost_reads (s2.put0 F.PAGE 4)
  have k3 : Stands (fun off => off < 0x3C00000) s1 s3 :=
    stands_trans (stands_of_regs h2.1) (stands_trans (stands_put0 s2 4 (by decide)) (stands_mono p2 (by intro off h; omega)))
  have h3 : s3.mem = s2.mem ∧ s3.hostMem = s2.hostMem ∧ s3.warden = s2.warden := p1.mem
  have e4 := onlySends_send s3 tyEvent 5 bcast 0 [BitVec.ofNat 32 no, BitVec.ofNat 32 (s3.get F.POS_TICK)]
  obtain ⟨q1, q2, q3⟩ := stopMaster_reads (s3.sendEvent 5 bcast no)
  have k4 : Stands (fun off => off ≠ 0x100004) s3 s4 := stands_trans (stands_of_regs e4.regs) q2
  have h4 : s4.mem = s3.mem ∧ s4.hostMem = s3.hostMem ∧ s4.warden = s3.warden := by
    have e5 : s4 = { s3.sendEvent 5 bcast no with regs := s4.regs, cad := s4.cad } := q3
    have e6 : OnlySends s3 (s3.sendEvent 5 bcast no) := e4
    rw [e5, e6]
    exact ⟨rfl, rfl, rfl⟩
  have hm : s4.isMaster = false := q1
  have hp : ∀ n < 12, s3.fabUp n = false := p3
  clear_value src s4 s3 s2 s1
  have k : Stands (fun off => off ≠ 0x100004 ∧ off ≠ 0x3800000 ∧ off < 0x3C00000) s s4 :=
    stands_trans (stands_mono k1 fun _ h => h.2.1) (stands_trans (stands_mono k3 fun _ h => h.2.2) (stands_mono k4 fun _ h => h.1))
  have hs : Tab.get false (Tab.set false s4.pauses 2 true) 2 = true := Tab.get_set_same _ _ _ _
  refine ⟨?_, ?_, ?_, fun n hn => ?_, hm, rfl, ?_, ?_, ?_, ?_, stands_trans k (stands_of_regs rfl)⟩
  · exact (k4.get F.WARDEN_MODE [] (by decide)).trans ((k3.get F.WARDEN_MODE [] (by decide)).trans h1m)
  · exact (k4.get F.SS_RECORD [] (by decide)).trans ((k3.get F.SS_RECORD [] (by decide)).trans h1r)
  · change s4.warden.stop ≠ none
    rw [h4.2.2, h3.2.2, h2.2.2.2]
    exact Option.some_ne_none w
  · have e : s4.fabUp n = s3.fabUp n := by
      unfold Dev.fabUp Dev.fabSt
      rw [k4.get F.PORT_STATE (fix n) (by rw [port_off (.inl rfl)]; omega)]
    exact e.trans (hp n hn)
  · unfold Dev.hostShut
    rw [hs]; rfl
  · unfold Dev.workHeld Dev.hostShut
    rw [hs]; simp
  · exact h4.1.trans (h3.1.trans (h2.2.1.trans h1.mem.1))
  · exact h4.2.1.trans (h3.2.1.trans (h2.2.2.1.trans h1.mem.2))

/-! ### A fault that stops the unit -/

/-- The registers of the counts of faults. -/
def isCount (off : Nat) : Prop := 0x3803000 ≤ off ∧ off < 0x3803400

theorem count_off (c : Nat) : F.FAULT_COUNT.off [c] = 0x3803000 + 4 * c := by simp [Fld.off]

theorem isCount_off {c : Nat} (hc : c < 256) : isCount (F.FAULT_COUNT.off [c]) := by rw [count_off, isCount]; omega

/-- The counted fault. -/
theorem counted_reads (s : Dev) (c : Nat) :
    (s.count F.FAULT_COUNT [c]).get F.FAULT_COUNT [c] = min (s.get F.FAULT_COUNT [c] + 1) (2 ^ 32 - 1) ∧
    Stands (fun off => off < 0x3803000) s (s.count F.FAULT_COUNT [c]) :=
  ⟨Dev.get_count_same _ _ _ (by decide), stands_count s (by rw [count_off]; omega)⟩

theorem reactionTo_congr {a b : Dev} (r : Report) (h : ∀ g ∈ [F.WARDEN_MODE, F.FENCED, F.WD_PRESENT], b.get g = a.get g) :
    b.reactionTo r = a.reactionTo r := by
  simp only [List.mem_cons, List.not_mem_nil, or_false, forall_eq_or_imp, forall_eq] at h
  obtain ⟨h1, h2, h3⟩ := h
  unfold Dev.reactionTo Dev.pairHasWC
  rw [h1, h2, h3]

theorem reaction_isSome {s : Dev} {r : Report} {x : Nat} (h : s.reactionTo r = some x) : (reactionOf r.code).isNone = false := by
  unfold Dev.reactionTo at h
  cases hr : reactionOf r.code with
  | none => rw [hr] at h; cases h
  | some y => rfl

theorem code_lt {s : Dev} {r : Report} {x : Nat} (h : s.reactionTo r = some x) : r.code < 256 := by
  have hs := reaction_isSome h
  by_contra hc
  have : reactionOf r.code = none := by
    unfold reactionOf
    simp only [List.contains_eq_mem, List.mem_cons, List.not_mem_nil, or_false, decide_eq_true_eq]
    rw [if_neg (by omega), if_neg (by omega), if_neg (by omega), if_neg (by omega)]
  simp [this] at hs

/-- A fault whose reaction is a safe stop begins it, and leaves the registers below the panel's but three. -/
theorem fault_stops_reads (s : Dev) (r : Report) (core : Nat) (qs : List Nat) (h2 : s.get F.WARDEN_MODE ≠ 2) (h3 : s.reactionTo r = some 3) :
    SafeStopBegun r.code s (s.fault r core qs) ∧
    Stands (fun off => off ≠ 0x100004 ∧ off ≠ 0x3800000 ∧ off < 0x3C00000 ∧ ¬isCount off) s (s.fault r core qs) := by
  obtain ⟨c1, c2⟩ := counted_reads s r.code
  have hg : ∀ g, g.off [] < 0x3803000 → (s.count F.FAULT_COUNT [r.code]).get g = s.get g := fun g hg => c2.get g [] hg
  have he : s.fault r core qs = (s.count F.FAULT_COUNT [r.code]).safeStop r core := by
    rw [Dev.fault, if_neg (by rw [reaction_isSome h3]; simp), Dev.react, if_neg (by rw [hg _ (by decide)]; exact h2),
      reactionTo_congr (a := s) r fun g hm => hg g (by revert g; decide), h3]
    rfl
  obtain ⟨n, hn⟩ : ∃ n, n = s.count F.FAULT_COUNT [r.code] := ⟨_, rfl⟩
  rw [he, safeStop_eq _ _ _ (by rw [hg _ (by decide)]; exact h2), hg F.FAULT_HEAD (by decide)]
  rw [← hn] at c1 c2 ⊢
  have hmem : n.mem = s.mem ∧ n.hostMem = s.hostMem := by rw [hn]; exact ⟨rfl, rfl⟩
  obtain ⟨d1, d2, d3⟩ := stopDraw_regs n r
  obtain ⟨t1, t2, t3, t4, t5, t6, t7, t8, t9, t10, t11⟩ := stopSteps_reads (stopDraw n r).2 (no := s.get F.FAULT_HEAD)
    (recordWords { r with arg := (stopDraw n r).1.toNat } (s.get F.FAULT_HEAD) 3 core) (bitsOf_lt _ _ _)
  have hcl := code_lt h3
  refine ⟨⟨?_, t1, t2, t3, t4, t5, t6, t7, t8, t9.trans (d2.trans hmem.1), t10.trans (d3.trans hmem.2)⟩, ?_⟩
  · rw [t11.get F.FAULT_COUNT [r.code] (by rw [count_off]; omega), Dev.get_eq, d1, ← Dev.get_eq, c1]
  · have cn : Stands (fun off => ¬isCount off) s n := by rw [hn]; exact stands_count s (fun h => h (isCount_off hcl))
    exact stands_trans (stands_mono cn fun _ h => h.2.2.2) (stands_trans (stands_of_regs d1) (stands_mono t11 fun _ h => ⟨h.1, h.2.1, h.2.2.1⟩))

theorem fault_stops (s : Dev) (r : Report) (core : Nat) (qs : List Nat) (h2 : s.get F.WARDEN_MODE ≠ 2) (h3 : s.reactionTo r = some 3) :
    SafeStopBegun r.code s (s.fault r core qs) := (fault_stops_reads s r core qs h2 h3).1

theorem faultNow_stops (s : Dev) {code arg core : Nat} (h2 : s.get F.WARDEN_MODE ≠ 2) (h3 : reactionOf code = some 3) :
    SafeStopBegun code s (s.faultNow code arg core) :=
  fault_stops s (s.reportNow ⟨code, 6, 0, none, 0, arg⟩) core [] h2 (by
    unfold Dev.reactionTo
    rw [show (s.reportNow ⟨code, 6, 0, none, 0, arg⟩).code = code from rfl, h3]
    rfl)

/-! ### Records -/

/-- Only registers, PF messages, the free values drawn and the times of records changed. -/
def OnlyRecords (a b : Dev) : Prop :=
  b = { a with regs := b.regs, free := b.free, warden := { a.warden with ccAt := b.warden.ccAt },
               host := { a.host with sent := b.host.sent, pfPba := b.host.pfPba, vfPba := b.host.vfPba } }

theorem onlyRecords_trans {a b c : Dev} (h : OnlyRecords a b) (h' : OnlyRecords b c) : OnlyRecords a c := by
  unfold OnlyRecords at *
  rw [h] at h'
  exact h'

theorem OnlyRegsIrq.records {a b : Dev} (h : OnlyRegsIrq a b) : OnlyRecords a b := by
  unfold OnlyRecords OnlyRegsIrq at *
  generalize b.regs = r, b.host.sent = x, b.host.pfPba = y, b.host.vfPba = z at h
  subst h
  rfl

/-- The registers that a record leaves: outside the log, its head and the two counts of records. -/
def offLog (off : Nat) : Prop := off < 0x380000C ∨ 0x380000C < off ∧ off < 0x3800014 ∨ 0x3800014 < off ∧ off < 0x3801000 ∨ 0x3803000 ≤ off

theorem log_off (h i : Nat) : F.FAULT_LOG.off [h, i] = 0x3801000 + (32 * h + 4 * i) := by simp [Fld.off]

/-- The eight words of a record, written at its place. -/
theorem logWords_reads (s : Dev) (h : Nat) (w : List Word) (n : Nat) :
    let e := s.forEach (List.range n) fun s i => s.setReg (F.FAULT_LOG.off [h, i]) (w.getD i 0)
    OnlyRegs s e ∧ (∀ i < n, e.reg (F.FAULT_LOG.off [h, i]) = w.getD i 0) ∧
    ∀ off, (∀ i < n, off ≠ F.FAULT_LOG.off [h, i]) → e.reg off = s.reg off := by
  induction n with
  | zero => exact ⟨onlyRegs_refl s, by simp, fun _ _ => rfl⟩
  | succ n ih =>
    intro e
    have he : e = (s.forEach (List.range n) fun s i => s.setReg (F.FAULT_LOG.off [h, i]) (w.getD i 0)).setReg (F.FAULT_LOG.off [h, n]) (w.getD n 0) := by
      change (s.forEach (List.range (n + 1)) _) = _
      rw [List.range_succ, Dev.forEach, List.foldl_append]
      rfl
    obtain ⟨i1, i2, i3⟩ := ih
    generalize s.forEach (List.range n) (fun s i => s.setReg (F.FAULT_LOG.off [h, i]) (w.getD i 0)) = x at he i1 i2 i3
    refine ⟨by rw [he]; exact onlyRegs_trans i1 rfl, fun i hi => ?_, fun off ho => ?_⟩
    · rw [he, Dev.reg_setReg]
      split
      · rename_i h'
        rw [log_off, log_off] at h'
        rw [show i = n by omega]
      · rename_i h'
        exact i2 i (Nat.lt_of_le_of_ne (Nat.le_of_lt_succ hi) (by rintro rfl; exact h' rfl))
    · rw [he, Dev.reg_setReg, if_neg (ho n (Nat.lt_succ_self n))]
      exact i3 off fun i hi => ho i (Nat.lt_succ_of_lt hi)

/-- A record at the head of the log. -/
theorem putRecord_reads (s : Dev) (w : List Word) :
    OnlyRegsIrq s (s.putRecord w) ∧ Stands offLog s (s.putRecord w) ∧
    (s.putRecord w).get F.FAULT_HEAD = (s.get F.FAULT_HEAD + 1) % 2 ^ 16 ∧
    ∀ i < 8, (s.putRecord w).reg (F.FAULT_LOG.off [s.get F.FAULT_HEAD % 256, i]) = w.getD i 0 := by
  unfold Dev.putRecord
  extract_lets s1 h s2 s3
  have o1 : OnlyRegs s s1 := by
    change OnlyRegs s (if s.logFull then s.count F.OVERWRITES else s)
    split
    · exact onlyRegs_count _ _ _
    · exact onlyRegs_refl s
  have k1 : Stands (fun off => off ≠ 0x3800014) s s1 := by
    change Stands _ s (if s.logFull then s.count F.OVERWRITES else s)
    split
    · exact stands_count s (by decide)
    · exact stands_refl _ s
  have hh : h = s.get F.FAULT_HEAD := k1.get F.FAULT_HEAD [] (by decide)
  obtain ⟨l1, l2, l3⟩ := logWords_reads s1 (h % 256) w 8
  have e2 : s2 = s1.forEach (List.range 8) fun s i => s.setReg (F.FAULT_LOG.off [h % 256, i]) (w.getD i 0) := rfl
  rw [← e2] at l1 l2 l3
  have k2 : Stands offLog s1 s2 := fun off ho => l3 off fun i hi he => by
    rw [log_off] at he
    unfold offLog at ho
    omega
  have h3 : s3.get F.FAULT_HEAD = (h + 1) % 2 ^ 16 := Dev.get_put0_fit _ (by decide) (Nat.mod_lt _ (by decide))
  have k3 : Stands (fun off => off ≠ 0x380000C) s2 s3 := stands_put0 s2 _ (by decide)
  have o3 : OnlyRegs s s3 := onlyRegs_trans o1 (onlyRegs_trans l1 (onlyRegs_put0 s2 _ _))
  have k : Stands offLog s s3 := stands_trans (stands_mono k1 (by unfold offLog; omega)) (stands_trans k2 (stands_mono k3 (by unfold offLog; omega)))
  have hw : ∀ i < 8, s3.reg (F.FAULT_LOG.off [h % 256, i]) = w.getD i 0 := fun i hi => by
    rw [k3 _ (by rw [log_off]; omega), l2 i hi]
  clear_value s3 s2 s1
  rw [← hh]
  split
  · obtain ⟨r1, r2⟩ := onlyRegsIrq_raisePf s3 3
    refine ⟨onlyRegsIrq_trans o3.irq r1, stands_trans k (stands_of_regs r2), ?_, fun i hi => ?_⟩
    · rw [Dev.get_eq, r2, ← Dev.get_eq, h3]
    · rw [stands_of_regs (K := fun _ => True) r2 _ trivial, hw i hi]
  · exact ⟨o3.irq, k, h3, hw⟩

/-- The record with its words at hand: written, or dropped as a corrected fault that came too soon or found the log full. -/
def recordWith (x : Dev) (r : Report) (react : Nat) (w : List Word) : Dev :=
  if react ≠ 0 then x.putRecord w
  else if (match Tab.get none x.warden.ccAt (r.code * 8 + r.die) with
      | some t => decide (x.now < t + tenMs)
      | none => false) then x
  else if x.logFull then x.count F.CC_DROPPED
  else (x.updWarden fun y => { y with ccAt := Tab.set none y.ccAt (r.code * 8 + r.die) (some x.now) }).putRecord w

theorem record_eq (s : Dev) (r : Report) (react core : Nat) : s.record r react core = recordWith (stopDraw s r).2 r react
    (recordWords { r with arg := (stopDraw s r).1.toNat } ((stopDraw s r).2.get F.FAULT_HEAD) react core) := rfl

/-- What a record changes, written or dropped. -/
theorem record_keeps (s : Dev) (r : Report) (react core : Nat) :
    OnlyRecords s (s.record r react core) ∧ Stands offLog s (s.record r react core) := by
  have hp : ∀ (x : Dev) (w : List Word), OnlyRecords x (x.putRecord w) ∧ Stands offLog x (x.putRecord w) := fun x w =>
    ⟨(putRecord_reads x w).1.records, (putRecord_reads x w).2.1⟩
  have hd : OnlyRecords s (stopDraw s r).2 ∧ Stands offLog s (stopDraw s r).2 :=
    ⟨by unfold stopDraw; split <;> rfl, stands_of_regs (stopDraw_regs s r).1⟩
  have step : ∀ {a b c : Dev}, OnlyRecords a b ∧ Stands offLog a b → OnlyRecords b c ∧ Stands offLog b c → OnlyRecords a c ∧ Stands offLog a c :=
    fun h h' => ⟨onlyRecords_trans h.1 h'.1, stands_trans h.2 h'.2⟩
  refine step hd ?_
  rw [record_eq]
  generalize recordWords { r with arg := (stopDraw s r).1.toNat } ((stopDraw s r).2.get F.FAULT_HEAD) react core = w
  generalize (stopDraw s r).2 = x
  unfold recordWith
  split_ifs
  · exact hp x w
  · exact ⟨rfl, stands_refl _ x⟩
  · exact ⟨(onlyRegs_count x _ _).irq.records, stands_count x (by unfold offLog; decide)⟩
  · exact step (b := x.updWarden fun y => { y with ccAt := Tab.set none y.ccAt (r.code * 8 + r.die) (some x.now) })
      ⟨rfl, stands_of_regs rfl⟩ (hp _ w)

end Sys2Proof
end

section
/-! SUPPORT. The warden's voters, its safe stop and RESYNC (17 R613 to R621). -/

namespace Sys2Proof

open Machine

/-! ### The safe stop -/

theorem stopBy_stops (d : Dev) {code arg core : Nat} (h2 : d.get F.WARDEN_MODE ≠ 2) (hc : reactionOf code = some 3) :
    SafeStopBegun code d (d.stopBy code arg core) := by
  rw [Dev.stopBy, if_pos hc]
  exact faultNow_stops d h2 hc

/-- Settles O35: each of the six begins the safe stop of its code, and the record is written once no engine runs a chunk. -/
theorem wardenSafeStop : Obligations.WardenSafeStop := by
  unfold Obligations.WardenSafeStop
  refine ⟨fun d hp h2 => ⟨?_, ?_, ?_, fun ha => ?_, fun code arg core hc => ?_⟩, fun d w hp hw hb => ?_⟩
  · exact gives_of_onDev (·.stopBy 0x5F 0 0) (fun _ => rfl) hp (stopBy_stops d h2 (by decide))
  · exact gives_of_onDev (·.stopBy 0x10 0 0) (fun _ => rfl) hp (stopBy_stops d h2 (by decide))
  · exact gives_of_onDev (·.stopBy 0x11 0 0) (fun _ => rfl) hp (stopBy_stops d h2 (by decide))
  · refine gives_of_onDev Dev.watchdog (fun _ => rfl) hp ?_
    rw [Dev.watchdog, if_neg (by simp [h2, ha])]
    exact faultNow_stops d h2 (by decide)
  · exact gives_of_onDev (·.stopBy code arg core) (fun _ => rfl) hp (stopBy_stops d h2 hc)
  · refine gives_of_onDev Dev.safeStopped (fun _ => rfl) hp ?_
    have hn : (d.engines.any (·.2.busy.isSome)) = false := by
      rw [List.any_eq_false]
      intro x hx
      simp [hb x hx]
    have he : d.safeStopped = (d.updWarden fun x => { x with stop := none }).putRecord w := by simp [Dev.safeStopped, hw, hn]
    rw [he]
    obtain ⟨r1, -, r3, r4⟩ := putRecord_reads (d.updWarden fun x => { x with stop := none }) w
    have hwd : ((d.updWarden fun x => { x with stop := none }).putRecord w).warden = { d.warden with stop := none } := by
      rw [r1]; rfl
    refine ⟨hwd, r3, r4, ?_⟩
    rw [hwd]
    exact r1

/-! ### The voters -/

theorem verdict_agree (d : Dev) (a n : Nat) : d.verdict a a a n true = d := by
  have key : ∀ l : List (Nat × Nat), (∀ x ∈ l, x.2 = a) → (l.all fun x => x.2 == (l.headD (0, 0)).2) = true := by
    intro l hl
    cases l with
    | nil => rfl
    | cons y l =>
      rw [List.all_eq_true]
      intro x hx
      rw [hl x hx, List.headD_cons, hl y (List.mem_cons_self ..), beq_self_eq_true]
  unfold Dev.verdict
  extract_lets mode fenced run cores
  have hrun : ∀ x ∈ run, x.2 = a := fun x hx => by
    have := (List.mem_filter.1 hx).1
    simp only [List.mem_cons, List.not_mem_nil, or_false] at this
    rcases this with rfl | rfl | rfl <;> rfl
  split
  · rfl
  · rw [if_neg (by simp), if_pos (key run hrun)]

/-- The history of the warden's fences, one byte to a core. -/
theorem history_fence (h x y : Nat) :
    bitsOf (putBits h (8 * x) 8 (min 255 (bitsOf h (8 * x) 8 + 1))) (8 * y) 8 =
      min 255 (bitsOf h (8 * y) 8 + if y = x then 1 else 0) := by
  by_cases hxy : y = x
  · subst hxy
    rw [bitsOf_putBits_same, if_pos rfl]
    omega
  · rw [if_neg hxy]
    have hb : bitsOf h (8 * y) 8 < 2 ^ 8 := bitsOf_lt _ _ _
    rcases Nat.lt_or_gt_of_ne hxy with hlt | hgt
    · rw [bitsOf_putBits_below _ _ _ _ _ _ (by omega)]; omega
    · rw [bitsOf_putBits_above _ _ _ _ _ _ (by omega)]; omega

theorem fenceCore_reads (s : Dev) {c : Nat} (hc : c < 3) (hf : s.get F.FENCED = 0) :
    (s.fenceCore c).get F.FENCED = 2 ^ c ∧ (s.fenceCore c).get F.FENCE_HISTORY =
      putBits (s.get F.FENCE_HISTORY) (8 * c) 8 (min 255 (bitsOf (s.get F.FENCE_HISTORY) (8 * c) 8 + 1)) ∧
    OnlyRegs s (s.fenceCore c) ∧ OnlyFields [(F.FENCED, []), (F.FENCE_HISTORY, [])] s (s.fenceCore c) := by
  unfold Dev.fenceCore
  extract_lets h t
  have ht : t.get F.FENCED = 0 := (Dev.get_put0_apart _ _ (by decide)).trans hf
  have hh : h < 2 ^ 24 := bitsOf_lt _ _ _
  have hfit : putBits h (8 * c) 8 (min 255 (bitsOf h (8 * c) 8 + 1)) < 2 ^ 24 := by
    rw [putBits_eq]
    have h1 : h / 2 ^ (8 * c) / 2 ^ 8 * 2 ^ (8 * c + 8) + 2 ^ (8 * c + 8) ≤ 2 ^ 24 := by
      interval_cases c <;> omega
    have h2 : h % 2 ^ (8 * c) < 2 ^ (8 * c) := Nat.mod_lt _ (by positivity)
    interval_cases c <;> omega
  have h1 : t.get F.FENCE_HISTORY = putBits h (8 * c) 8 (min 255 (bitsOf h (8 * c) 8 + 1)) := Dev.get_put0_fit _ (by decide) hfit
  refine ⟨?_, (Dev.get_put0_apart _ _ (by decide)).trans h1, onlyRegs_trans (onlyRegs_put0 s _ _) (onlyRegs_put0 t _ _),
    onlyFields_put0 _ (onlyFields_put0 _ (onlyFields_refl _ s) (by simp)) (by simp)⟩
  rw [ht]
  have hv : setBit 0 c = 2 ^ c := by interval_cases c <;> decide
  rw [hv]
  exact Dev.get_put0_fit _ (by decide) (by interval_cases c <;> decide)

/-- A reaction other than the safe stop: the record, then the containment, at once or after RESYNC. -/
theorem react_other (s : Dev) {r : Report} {core x : Nat} {qs : List Nat} (h2 : s.get F.WARDEN_MODE < 2) (h : s.reactionTo r = some x) (hx : x ≠ 3) :
    s.react r core qs = (s.record r x core).contain r qs := by
  have hm : (s.record r x core).get F.WARDEN_MODE = s.get F.WARDEN_MODE :=
    (record_keeps s r x core).2.get F.WARDEN_MODE [] (by unfold offLog; decide)
  rw [Dev.react, if_neg (by omega), h]
  split
  · contradiction
  · simp_all
  · rename_i y hy
    cases hy
    rw [if_neg (by omega)]

/-- A fault of the warden that is only recorded. -/
theorem faultNow_records (s : Dev) {code arg core : Nat} (h2 : s.get F.WARDEN_MODE < 2) (hc : reactionOf code = some 0) (h256 : code < 256) :
    OnlyRecords s (s.faultNow code arg core) ∧ Stands (fun off => offLog off ∧ off < 0x3803000) s (s.faultNow code arg core) ∧
    (s.faultNow code arg core).get F.FAULT_COUNT [code] = min (s.get F.FAULT_COUNT [code] + 1) (2 ^ 32 - 1) := by
  obtain ⟨c1, c2⟩ := counted_reads s code
  obtain ⟨n, hn⟩ : ∃ n, n = s.count F.FAULT_COUNT [code] := ⟨_, rfl⟩
  have hm : n.get F.WARDEN_MODE = s.get F.WARDEN_MODE := by rw [hn]; exact c2.get F.WARDEN_MODE [] (by decide)
  obtain ⟨r1, r2⟩ := record_keeps n (s.reportNow ⟨code, 6, 0, none, 0, arg⟩) 0 core
  have he : s.faultNow code arg core = n.record (s.reportNow ⟨code, 6, 0, none, 0, arg⟩) 0 core := by
    rw [Dev.faultNow, Dev.fault, show (s.reportNow ⟨code, 6, 0, none, 0, arg⟩).code = code from rfl, hc, ← hn]
    have hr : n.reactionTo (s.reportNow ⟨code, 6, 0, none, 0, arg⟩) = some 0 := by
      unfold Dev.reactionTo
      rw [show (s.reportNow ⟨code, 6, 0, none, 0, arg⟩).code = code from rfl, hc]
      rfl
    rw [if_neg (by simp), react_other n (by omega) hr (by decide), Dev.contain,
      show (s.reportNow ⟨code, 6, 0, none, 0, arg⟩).code = code from rfl, hc]
    rfl
  rw [he]
  rw [← hn] at c1 c2
  refine ⟨onlyRecords_trans (by rw [hn]; exact (onlyRegs_count s _ _).irq.records) r1,
    stands_trans (stands_mono c2 fun _ h => h.2) (stands_mono r2 fun _ h => h.1), ?_⟩
  rw [r2.get F.FAULT_COUNT [code] (by rw [count_off, offLog]; omega), c1]

theorem updWarden_acts_nil {s : Dev} (h : s.warden.acts = []) : (s.updWarden fun w => { w with acts := [] }) = s := by
  unfold Dev.updWarden
  rw [← h]

/-- With all cores running, one that differs from the two others is fenced, and they go on as a pair. -/
theorem verdict_fences {d : Dev} (hp : Powered d) (hm : d.get F.WARDEN_MODE = 0) (hf : d.get F.FENCED = 0) (hw : d.get F.WD_PRESENT = 7)
    {a b c x : Nat} (n : Nat) (hx : (x = 2 ∧ a = b ∧ a ≠ c) ∨ (x = 1 ∧ a = c ∧ a ≠ b) ∨ (x = 0 ∧ b = c ∧ a ≠ b)) :
    Gives (.voterVerdict a b c n true) d fun e =>
      e.get F.WARDEN_MODE = 1 ∧ e.get F.FENCED = 2 ^ x ∧
      (∀ y < 3, bitsOf (e.get F.FENCE_HISTORY) (8 * y) 8 =
        min 255 (bitsOf (d.get F.FENCE_HISTORY) (8 * y) 8 + if y = x then 1 else 0)) ∧
      e.get F.FAULT_COUNT [1] = min (d.get F.FAULT_COUNT [1] + 1) (2 ^ 32 - 1) ∧ e.mem = d.mem ∧ e.hostMem = d.hostMem ∧
      e.queues = d.queues ∧ e.cores = d.cores := by
  refine gives_of_onDev (·.verdict a b c n true) (fun _ => rfl) hp ?_
  have hx3 : x < 3 := by omega
  have he : d.verdict a b c n true = ((d.fenceCore x).setMode 1).faultNow 0x01 n (2 ^ x) := by
    unfold Dev.verdict
    rw [hm, hf, hw]
    rcases hx with ⟨rfl, rfl, h⟩ | ⟨rfl, rfl, h⟩ | ⟨rfl, rfl, h⟩
    · simp [bitAt, bitsOf, Ne.symm h]
    · simp [bitAt, bitsOf, h, Ne.symm h]
    · simp [bitAt, bitsOf, h, Ne.symm h]
  rw [he]
  obtain ⟨f1, f2, f3, f4⟩ := fenceCore_reads d hx3 hf
  obtain ⟨m1, m2, m3⟩ := setMode_reads (d.fenceCore x) (m := 1) (by decide)
  generalize (d.fenceCore x).setMode 1 = s at m1 m2 m3 ⊢
  obtain ⟨r1, r2, r3⟩ := faultNow_records s (code := 0x01) (arg := n) (core := 2 ^ x) (by rw [m1]; decide) (by decide) (by decide)
  have hcount : s.get F.FAULT_COUNT [1] = d.get F.FAULT_COUNT [1] :=
    (m2.get _ _ (by decide)).trans (f4.get _ _ (by decide))
  have hall : OnlyRecords d (s.faultNow 0x01 n (2 ^ x)) := onlyRecords_trans (onlyRegsIrq_trans f3.irq m3).records r1
  refine ⟨(r2.get F.WARDEN_MODE [] (by unfold offLog; decide)).trans m1,
    (r2.get F.FENCED [] (by unfold offLog; decide)).trans ((m2.get _ _ (by decide)).trans f1), fun y hy => ?_, by rw [r3, hcount], ?_, ?_, ?_, ?_⟩
  · rw [r2.get F.FENCE_HISTORY [] (by unfold offLog; decide), m2.get _ _ (by decide), f2, history_fence]
  all_goals rw [hall]

/-- Three different signatures stop the unit. -/
theorem verdict_differs {d : Dev} (hp : Powered d) (h2 : d.get F.WARDEN_MODE ≠ 2) (hm : d.get F.WARDEN_MODE = 0) (hf : d.get F.FENCED = 0)
    (hw : d.get F.WD_PRESENT = 7) {a b c : Nat} (n : Nat) (hab : a ≠ b) (hac : a ≠ c) (hbc : b ≠ c) :
    Gives (.voterVerdict a b c n true) d (SafeStopBegun 0x03 d) := by
  refine gives_of_onDev (·.verdict a b c n true) (fun _ => rfl) hp ?_
  have he : d.verdict a b c n true = d.faultNow 0x03 n 7 := by
    unfold Dev.verdict
    rw [hm, hf, hw]
    simp [bitAt, bitsOf, hab, hac, hbc, Ne.symm hab]
  rw [he]
  exact faultNow_stops d h2 (by decide)

/-- So does a disagreement of the pair. -/
theorem verdict_pair {d : Dev} (hp : Powered d) (h2 : d.get F.WARDEN_MODE ≠ 2) (hm : d.get F.WARDEN_MODE = 1) (hf : d.get F.FENCED = 4)
    (hw : bitsOf (d.get F.WD_PRESENT) 0 2 = 3) {a b : Nat} (c n : Nat) (hab : a ≠ b) :
    Gives (.voterVerdict a b c n true) d (SafeStopBegun 0x02 d) := by
  refine gives_of_onDev (·.verdict a b c n true) (fun _ => rfl) hp ?_
  have h0 : bitAt (d.get F.WD_PRESENT) 0 = true := by
    unfold bitAt bitsOf at *; simp only [beq_iff_eq]; omega
  have h1 : bitAt (d.get F.WD_PRESENT) 1 = true := by
    unfold bitAt bitsOf at *; simp only [beq_iff_eq]; omega
  have he : d.verdict a b c n true = d.faultNow 0x02 n 3 := by
    unfold Dev.verdict
    rw [hm, hf]
    simp [List.filter, h0, h1, show bitAt 4 0 = false by decide, show bitAt 4 1 = false by decide, show bitAt 4 2 = true by decide, Ne.symm hab]
  rw [he]
  exact faultNow_stops d h2 (by decide)

/-- May the fenced core `x` be brought back (17 R615)? -/
def Machine.Dev.mayResync (d : Dev) (x : Nat) : Prop :=
  d.get F.WARDEN_MODE = 1 ∧ d.dieGone (if x = 2 then 7 else 6) = false ∧ bitsOf (d.get F.FENCE_HISTORY) (8 * x) 8 < 3

/-- RESYNC of the fenced core, and its end. -/
theorem resync_restores {d : Dev} (hp : Powered d) {x : Nat} (hx : d.fencedCore = some x) :
    (d.mayResync x → Gives .resync d fun e => e.get F.WARDEN_MODE = 3 ∧ OnlyFields [(F.WARDEN_MODE, [])] d e ∧ OnlyRegsIrq d e) ∧
    (¬d.mayResync x → Gives .resync d fun e =>
      e.get F.RESYNC_REFUSED = 1 ∧ OnlyFields [(F.RESYNC_REFUSED, [])] d e ∧ OnlyRegs d e) ∧
    (d.get F.WARDEN_MODE = 3 → d.warden.acts = [] → d.warden.wait = [] → Gives (.resyncDone true) d fun e =>
      e.get F.WARDEN_MODE = 0 ∧ bitAt (e.get F.FENCED) x = false ∧
      OnlyFields [(F.WARDEN_MODE, []), (F.FENCED, [])] d e ∧ OnlyRegsIrq d e) := by
  have hok : ((d.get F.WARDEN_MODE == 1 && match d.fencedCore with
      | some c => !d.dieGone (if c = 2 then 7 else 6) && decide (bitsOf (d.get F.FENCE_HISTORY) (8 * c) 8 < 3)
      | none => false) = true) ↔ d.mayResync x := by
    rw [hx]
    simp [Dev.mayResync]
  refine ⟨fun hmay => ?_, fun hmay => ?_, fun h3 ha hw => ?_⟩
  · refine gives_of_onDev Dev.resync (fun _ => rfl) hp ?_
    have he : d.resync = d.setMode 3 := by
      rw [Dev.resync]
      exact if_pos (hok.2 hmay)
    rw [he]
    exact setMode_reads d (by decide)
  · refine gives_of_onDev Dev.resync (fun _ => rfl) hp ?_
    have he : d.resync = d.put0 F.RESYNC_REFUSED 1 := by
      rw [Dev.resync]
      exact if_neg fun h => hmay (hok.1 h)
    rw [he]
    exact ⟨Dev.get_put0_fit _ (by decide) (by decide), onlyFields_put0 _ (onlyFields_refl _ _) (by simp), onlyRegs_put0 _ _ _⟩
  · refine gives_of_onDev (·.resyncDone true) (fun _ => rfl) hp ?_
    obtain ⟨s, hs⟩ : ∃ s, s = d.put0 F.FENCED (clearBit (d.get F.FENCED) x) := ⟨_, rfl⟩
    have hx3 : x < 3 := by
      have := List.mem_of_find?_eq_some hx
      simp only [List.mem_cons, List.not_mem_nil, or_false] at this
      omega
    have hsf : bitAt (s.get F.FENCED) x = false := by
      have hlt : clearBit (d.get F.FENCED) x < 2 ^ 3 := by
        have : d.get F.FENCED < 2 ^ 3 := bitsOf_lt _ _ _
        generalize d.get F.FENCED = v at this
        revert this
        interval_cases x <;> revert v <;> decide
      rw [hs, Dev.get_put0_fit _ (by decide) hlt, bitAt_clearBit]
      simp
    have hsr : OnlyRegs d s := by rw [hs]; exact onlyRegs_put0 _ _ _
    have hsl : OnlyFields [(F.WARDEN_MODE, []), (F.FENCED, [])] d s := by
      rw [hs]; exact onlyFields_put0 _ (onlyFields_refl _ _) (by simp)
    obtain ⟨m1, m2, m3⟩ := setMode_reads s (m := 0) (by decide)
    have hirq := onlyRegsIrq_trans hsr.irq m3
    have hwd : (s.setMode 0).warden = d.warden := by rw [hirq]
    have he : d.resyncEnd true = s.setMode 0 := by
      rw [Dev.resyncEnd, if_neg (by simp [h3]), if_neg (by simp), hx]
      dsimp only
      rw [← hs]
      have ha' : s.warden.acts = [] := by rw [hsr]; exact ha
      rw [ha', updWarden_acts_nil (by rw [hwd]; exact ha)]
      rfl
    have hserve : (s.setMode 0).serveWaits = s.setMode 0 := serveWaits_nothing (by rw [hwd]; exact hw)
    rw [Dev.resyncDone, he, hserve]
    refine ⟨m1, ?_, onlyFields_trans hsl (onlyFields_mono (by simp) m2), hirq⟩
    rw [m2.get _ _ (by decide)]
    exact hsf

/-- Settles O34: the voters fence one core, or stop the unit, and RESYNC restores the fenced one. -/
theorem wardenVoting : Obligations.WardenVoting := by
  unfold Obligations.WardenVoting
  intro d hp h2
  refine ⟨fun a b c n => ?_, fun a n => gives_of_onDev (·.verdict a a a n true) (fun _ => rfl) hp (verdict_agree d a n),
    fun hm hf hw a b c n => ⟨fun x hx => verdict_fences hp hm hf hw n hx, fun hab hac hbc => verdict_differs hp h2 hm hf hw n hab hac hbc⟩,
    fun hm hf hw a b c n hab => verdict_pair hp h2 hm hf hw c n hab, fun x hx => resync_restores hp hx, fun h3 => ?_⟩
  · refine gives_of_onDev (·.verdict a b c n false) (fun _ => rfl) hp ?_
    have : d.verdict a b c n false = d.faultNow 0x04 n 0 := by simp [Dev.verdict, h2]
    rw [this]
    exact faultNow_stops d h2 (by decide)
  · refine gives_of_onDev (·.resyncDone false) (fun _ => rfl) hp ?_
    have hb := faultNow_stops d (code := 0x09) (arg := 0) (core := 0) h2 (by decide)
    have he : d.resyncEnd false = d.faultNow 0x09 0 0 := by simp [Dev.resyncEnd, h3]
    rw [Dev.resyncDone, he, Dev.serveWaits, if_pos (.inl hb.2.1)]
    exact hb

end Sys2Proof
end

section
/-! SUPPORT. Dies that are lost, faults contained to a partition, hung engines and the shelf links (17 R619, R620, Table 17.5; 01 R33,
R45, R46). -/

namespace Sys2Proof

open Machine

/-! ### A die that is lost -/

/-- The counts of faults and the temperatures. -/
def lossKept (off : Nat) : Prop := isCount off ∨ 0x3A00090 ≤ off ∧ off < 0x3A000B0

/-- And DIE_LOST. -/
def lossShown (off : Nat) : Prop := lossKept off ∨ off = 0x204

theorem killChunk_regs (s : Dev) (i : Inst) (st d : Nat) : (s.killChunk i st d).regs = s.regs := by
  obtain ⟨x, n, p, q, h⟩ := killChunk_eq s i st d
  rw [h]

theorem killDie_regs (s : Dev) (d : Nat) : (s.killDie d).regs = s.regs := by
  unfold Dev.killDie
  refine forEach_keeps (R := fun a b => b.regs = a.regs) (fun _ => rfl) (fun h h' => h'.trans h) _ _ (fun s e _ => ?_) s
  dsimp only
  split
  · exact killChunk_regs _ _ _ _
  · rfl

theorem queue_state_off {k : Nat} (hk : queueOk k = true) : F.Q_STATE.off (qix k) < 0x1000000 := by
  simp only [queueOk, Bool.and_eq_true, decide_eq_true_eq] at hk
  simp [Fld.off, qix]
  omega

theorem stands_haltQueue (s : Dev) {k : Nat} (st d : Nat) (hk : queueOk k = true) :
    Stands (fun off => 0x1000000 ≤ off) s (s.haltQueue k st d) := by
  unfold Dev.haltQueue
  dsimp only
  split
  · exact stands_trans (stands_of_regs rfl) (stands_put _ _ (by have := queue_state_off hk; omega))
  · exact stands_of_regs rfl

theorem stands_disableNow (s : Dev) {k : Nat} (cause : Nat) (b : Bool) (hk : queueOk k = true) :
    Stands (fun off => 0x1000000 ≤ off) s (s.disableNow k cause b) := by
  unfold Dev.disableNow
  split
  · exact stands_trans (stands_put s qDISABLING (by have := queue_state_off hk; omega)) (stands_of_regs rfl)
  · exact stands_refl _ s

theorem stands_updSend {K : Nat → Prop} (s : Dev) (f : Pwr → Pwr) {r : Nat} (mv : Nat) (h1 : ¬K (F.RAIL_TARGET.off [r]))
    (h2 : ¬K (F.RAIL_IN_FLIGHT.off [r])) : Stands K s ((s.updPwr f).railSend r mv) :=
  stands_trans (b := s.updPwr f) (stands_of_regs rfl) (stands_trans (stands_put _ mv h1) (stands_put _ 1 h2))

theorem stands_railEmergency (s : Dev) (r : Nat) : Stands lossShown s (s.railEmergency r) := by
  unfold Dev.railEmergency
  split
  · exact stands_refl _ s
  · rename_i h
    have hr : r < 14 := by
      have := Dev.railFree_lt (s := s) (r := r) (by simpa using h)
      omega
    have hk : ∀ f ∈ [F.RAIL_TARGET, F.RAIL_IN_FLIGHT, F.RAIL_PENDING_VALID, F.RAIL_PENDING, F.RAIL_EMERG], ¬lossShown (f.off [r]) := fun f hf hs => by
      have := isRail_off (f := f) (r := r) (by simp only [List.mem_cons, List.not_mem_nil, or_false] at hf ⊢; tauto) hr
      unfold isRail at this
      unfold lossShown lossKept isCount at hs
      omega
    refine stands_trans (stands_trans (stands_put s 0 (hk F.RAIL_PENDING_VALID (by simp))) (stands_put _ 0 (hk F.RAIL_PENDING (by simp))))
      (stands_trans (stands_count _ (hk F.RAIL_EMERG (by simp))) ?_)
    exact stands_updSend _ _ _ (hk F.RAIL_TARGET (by simp)) (hk F.RAIL_IN_FLIGHT (by simp))

theorem stands_railLost (s : Dev) (r : Nat) : Stands lossShown s (s.railLost r) := by
  unfold Dev.railLost
  split
  · exact stands_refl _ s
  · rename_i h
    have hr : r < 14 := by
      have := Dev.railFree_lt (s := s) (r := r) (by
        simp only [Bool.or_eq_true, not_or, Bool.not_eq_true', Bool.not_eq_false] at h
        exact h.1)
      omega
    have hk : ∀ f ∈ [F.RAIL_TARGET, F.RAIL_IN_FLIGHT, F.RAIL_PENDING_VALID, F.RAIL_PENDING], ¬lossShown (f.off [r]) := fun f hf hs => by
      have := isRail_off (f := f) (r := r) (by simp only [List.mem_cons, List.not_mem_nil, or_false] at hf ⊢; tauto) hr
      unfold isRail at this
      unfold lossShown lossKept isCount at hs
      omega
    refine stands_trans (stands_trans (stands_put s 0 (hk F.RAIL_PENDING_VALID (by simp))) (stands_put _ 0 (hk F.RAIL_PENDING (by simp)))) ?_
    exact stands_updSend _ _ _ (hk F.RAIL_TARGET (by simp)) (hk F.RAIL_IN_FLIGHT (by simp))

theorem bitAt_lt {v i n : Nat} (hv : v < 2 ^ n) (h : bitAt v i = true) : i < n := by
  by_contra hc
  rw [bitAt_eq_testBit, Nat.testBit_lt_two_pow (lt_of_lt_of_le hv (Nat.pow_le_pow_right (by decide) (by omega)))] at h
  cases h

theorem dom_shown {f : Fld} (hf : f ∈ domFields) {d : Nat} (hd : d < 8) : ¬lossShown (f.off [d]) := by
  rw [dom_off hf]
  unfold lossShown lossKept isCount
  omega

/-- The expander ports of a lost crest die. -/
theorem stands_portsOfDie (s : Dev) {d : Nat} (hd : d < 6) (K : Nat → Prop) (hK : ∀ off, K off → off < 0x2000000 ∨ 0x3800000 ≤ off) :
    Stands K s (s.forEach [2 * d, 2 * d + 1] fun s p =>
      if s.flag F.XP_PRESENT [p / 2, p % 2] then
        let s : Dev := { s.put F.XP_LOST [p / 2, p % 2] 1 with ext := { s.ext with lost := Tab.set false s.ext.lost p true } }
        s.report 0x45 d 0 none p 0
      else s) := by
  refine forEach_keeps (stands_refl K) stands_trans _ _ (fun s p hp => ?_) s
  have ho : 0x2000000 ≤ F.XP_LOST.off [p / 2, p % 2] ∧ F.XP_LOST.off [p / 2, p % 2] < 0x3800000 := by
    simp only [List.mem_cons, List.not_mem_nil, or_false] at hp
    simp [Fld.off]
    omega
  split
  · exact stands_trans (stands_put s 1 (fun h => by have := hK _ h; omega)) (stands_of_regs rfl)
  · exact stands_refl K s

/-- What the loss of a die does to its queues, its cores and its flag (17 R620). -/
def lossBegun (s : Dev) (d : Nat) : Dev :=
  let s := (s.killDie d).forEach (s.queuesAt fun h => h.1 == d) fun s k => (s.haltQueue k stFAULT dDIELOST).disableNow k dQHALT false
  let s : Dev := { s with cores := s.cores.map fun e => if e.1 / 128 = d then (e.1, { e.2 with stopped := true }) else e }
  let s := s.put0 F.DIE_LOST (setBit (s.get F.DIE_LOST) d)
  let s := (s.put F.DOM_BUSY [d] 0).put F.DOM_PENDING [d] 7
  let s : Dev := { s with wakes := Tab.set false s.wakes d false }
  s.updPwr fun p => { p with flight := Tab.set none p.flight d none }

/-- The rails, the arrays and the ports of a lost die. -/
def lossEnded (s : Dev) (d : Nat) (emergency : Bool) : Dev :=
  if d < 6 then
    let s := if emergency then s.railEmergency d else s.railLost d
    let s := (s.put F.DOM_STATE [d] stOff).screeOff d
    s.forEach [2 * d, 2 * d + 1] fun s p =>
      if s.flag F.XP_PRESENT [p / 2, p % 2] then
        let s : Dev := { s.put F.XP_LOST [p / 2, p % 2] 1 with ext := { s.ext with lost := Tab.set false s.ext.lost p true } }
        s.report 0x45 d 0 none p 0
      else s
  else
    let s := s.forEach ((List.range 12).drop 6) fun s n => s.fabDown n false
    let s := if bitAt (s.get F.FENCED) 2 then s else (s.fenceCore 2).setMode 1
    s.pwrEvent F.SEC_RESTORE 7

theorem loseDie_eq (s : Dev) (d : Nat) (em : Bool) (h : s.dieIsLost d = false) (hp : s.diePresent d = true) :
    s.loseDie d em = lossEnded (lossBegun s d) d em := by
  rw [Dev.loseDie, if_neg (by simp [h, hp])]
  rfl

theorem lossBegun_reads (s : Dev) {d : Nat} (hd : d < 8) : (lossBegun s d).dieIsLost d = true ∧ Stands lossKept s (lossBegun s d) := by
  unfold lossBegun
  extract_lets s1 s2 s3 s4 s5
  have k1 : Stands (fun off => 0x1000000 ≤ off) s s1 := by
    refine stands_trans (stands_of_regs (killDie_regs s d)) (forEach_keeps (stands_refl _) stands_trans _ _ (fun s k hk => ?_) (s.killDie d))
    have hq : queueOk k = true := by
      simp only [Dev.queuesAt, List.mem_map, List.mem_filter, Bool.and_eq_true] at hk
      obtain ⟨e, ⟨-, h, -⟩, rfl⟩ := hk
      exact h
    exact stands_trans (stands_haltQueue s _ _ hq) (stands_disableNow _ _ _ hq)
  have h2 : s2.regs = s1.regs := rfl
  have h3 : s3.get F.DIE_LOST = setBit (s2.get F.DIE_LOST) d := Dev.get_put0_fit _ (by decide) (setBit_lt _ (bitsOf_lt _ _ _) hd)
  have k3 : Stands (fun off => 0x1000000 ≤ off) s2 s3 := stands_put0 s2 _ (by decide)
  have k4 : Stands lossShown s3 s4 :=
    stands_trans (stands_put s3 0 (dom_shown (f := F.DOM_BUSY) (by simp [domFields]) hd)) (stands_put _ 7 (dom_shown (f := F.DOM_PENDING) (by simp [domFields]) hd))
  clear_value s4 s3 s2 s1
  have h5 : s5.regs = s4.regs := rfl
  clear_value s5
  have hk : ∀ off, lossKept off → 0x1000000 ≤ off := fun off ho => by unfold lossKept isCount at ho; omega
  refine ⟨?_, ?_⟩
  · have hl : s5.dieIsLost d = true := by
      unfold Dev.dieIsLost
      rw [Dev.get_eq, h5, ← Dev.get_eq, k4.get F.DIE_LOST [] (by right; decide), h3, bitAt_setBit, if_pos rfl]
    exact hl
  · refine stands_trans (stands_mono (stands_trans k1 (stands_trans (stands_of_regs h2) k3)) hk) ?_
    exact stands_trans (stands_mono k4 fun off ho => .inl ho) (stands_of_regs h5)

theorem lossEnded_reads (s : Dev) {d : Nat} (hd : d < 8) (em : Bool) :
    Stands lossShown s (lossEnded s d em) ∧ (d < 6 → (lossEnded s d em).get F.DOM_STATE [d] = stOff) := by
  unfold lossEnded
  split
  · rename_i h6
    extract_lets s1 s2
    have k1 : Stands lossShown s s1 := by
      change Stands _ s (if em then s.railEmergency d else s.railLost d)
      split
      · exact stands_railEmergency s d
      · exact stands_railLost s d
    have h2 : s2.regs = (s1.put F.DOM_STATE [d] stOff).regs := rfl
    have hst : s2.get F.DOM_STATE [d] = stOff := by
      rw [Dev.get_eq, h2, ← Dev.get_eq]
      exact Dev.get_put_fit _ (by decide) (by decide)
    clear_value s2 s1
    have k3 := stands_portsOfDie s2 h6 (fun off => off < 0x2000000 ∨ 0x3800000 ≤ off) fun _ h => h
    refine ⟨stands_trans k1 (stands_trans (stands_trans (stands_put s1 stOff (dom_shown (f := F.DOM_STATE) (by simp [domFields]) hd)) (stands_of_regs h2))
      (stands_mono k3 fun off ho => ?_)), fun _ => ?_⟩
    · unfold lossShown lossKept isCount at ho; omega
    · rw [k3.get F.DOM_STATE [d] (by rw [dom_off (by simp [domFields])]; omega), hst]
  · rename_i h6
    refine ⟨?_, fun h => absurd h h6⟩
    extract_lets s1 s2
    have k1 : Stands lossShown s s1 := by
      refine forEach_keeps (stands_refl _) stands_trans _ _ (fun s n _ => ?_) s
      refine stands_mono (fabDown_reads s n).2.1 fun off ho => ?_
      unfold lossShown lossKept isCount at ho; omega
    have k2 : Stands lossShown s1 s2 := by
      change Stands _ s1 (if bitAt (s1.get F.FENCED) 2 then s1 else (s1.fenceCore 2).setMode 1)
      split
      · exact stands_refl _ s1
      · refine stands_trans (stands_trans (stands_put0 s1 _ ?_) (stands_put0 _ _ ?_)) ((setMode_reads _ (by decide)).2.1.stands ?_)
        · unfold lossShown lossKept isCount; decide
        · unfold lossShown lossKept isCount; decide
        · simp only [List.mem_singleton, forall_eq]
          unfold lossShown lossKept isCount; decide
    refine stands_trans (stands_trans k1 k2) (stands_event _ _ _ _ ?_)
    unfold lossShown lossKept isCount; decide

/-- A die that is lost: its flag, and the counts and temperatures that stand. -/
theorem loseDie_reads (s : Dev) {d : Nat} (em : Bool) (h : s.dieIsLost d = false) (hp : s.diePresent d = true) :
    (s.loseDie d em).dieIsLost d = true ∧ Stands lossKept s (s.loseDie d em) ∧ (d < 6 → (s.loseDie d em).get F.DOM_STATE [d] = stOff) := by
  have hd : d < 8 := bitAt_lt (bitsOf_lt _ _ _) hp
  rw [loseDie_eq s d em h hp]
  obtain ⟨b1, b2⟩ := lossBegun_reads s hd
  obtain ⟨e1, e2⟩ := lossEnded_reads (lossBegun s d) hd em
  refine ⟨?_, stands_trans b2 (stands_mono e1 fun off ho => .inl ho), e2⟩
  unfold Dev.dieIsLost at b1 ⊢
  rw [e1.get F.DIE_LOST [] (by right; decide), b1]

end Sys2Proof
end

section
/-! SUPPORT. Reactions to faults (17 R619, R620, Table 17.5), hung engines and the shelf links (01 R33, R45, R46). -/

namespace Sys2Proof

open Machine

/-! ### A fault that is recorded and contained -/

theorem fault_contained (s : Dev) {r : Report} {core x : Nat} {qs : List Nat} (h2 : s.get F.WARDEN_MODE < 2) (h : s.reactionTo r = some x)
    (hx : x ≠ 3) : ∃ n : Dev, s.fault r core qs = n.contain r qs ∧ n = (s.count F.FAULT_COUNT [r.code]).record r x core ∧ OnlyRecords s n ∧
      Stands (fun off => offLog off ∧ (off < 0x3803000 ∨ 0x3803400 ≤ off)) s n ∧
      n.get F.FAULT_COUNT [r.code] = min (s.get F.FAULT_COUNT [r.code] + 1) (2 ^ 32 - 1) := by
  have hc := code_lt h
  have c1 : (s.count F.FAULT_COUNT [r.code]).get F.FAULT_COUNT [r.code] = min (s.get F.FAULT_COUNT [r.code] + 1) (2 ^ 32 - 1) :=
    Dev.get_count_same _ _ _ (by decide)
  have c2 : Stands (fun off => off < 0x3803000 ∨ 0x3803400 ≤ off) s (s.count F.FAULT_COUNT [r.code]) :=
    stands_count s (by rw [count_off]; omega)
  have c3 : OnlyRecords s (s.count F.FAULT_COUNT [r.code]) := (onlyRegs_count s _ _).irq.records
  have hg : ∀ g ∈ [F.WARDEN_MODE, F.FENCED, F.WD_PRESENT], (s.count F.FAULT_COUNT [r.code]).get g = s.get g := fun g hm =>
    c2.get g [] (by revert g; decide)
  have hm : (s.count F.FAULT_COUNT [r.code]).get F.WARDEN_MODE < 2 := by rw [hg _ (by simp)]; exact h2
  refine ⟨(s.count F.FAULT_COUNT [r.code]).record r x core, ?_, rfl, ?_⟩
  · rw [Dev.fault, if_neg (by rw [reaction_isSome h]; simp), react_other _ hm ((reactionTo_congr r hg).trans h) hx]
  · obtain ⟨r1, r2⟩ := record_keeps (s.count F.FAULT_COUNT [r.code]) r x core
    refine ⟨onlyRecords_trans c3 r1, stands_trans (stands_mono c2 fun _ h => h.2) (stands_mono r2 fun _ h => h.1), ?_⟩
    rw [r2.get F.FAULT_COUNT [r.code] (by rw [count_off, offLog]; omega), c1]

theorem reactionOf_of_to {s : Dev} {r : Report} {x : Nat} (h : s.reactionTo r = some x) (hx : x ≠ 3) : reactionOf r.code = some x := by
  unfold Dev.reactionTo at h
  split at h
  · rename_i he
    split at h
    · exact absurd (Option.some.inj h).symm hx
    · rw [he, h]
  · exact h

theorem to_of_reactionOf {s : Dev} {r : Report} {x : Nat} (h : reactionOf r.code = some x) (hx : x ≠ 2) : s.reactionTo r = some x := by
  unfold Dev.reactionTo
  split
  · rename_i he
    rw [h] at he
    exact absurd (Option.some.inj he) hx
  · exact h

/-- A fault contained to a die loses it. -/
theorem fault_loses (s : Dev) {r : Report} {core : Nat} {qs : List Nat} (h2 : s.get F.WARDEN_MODE < 2) (h : s.reactionTo r = some 2)
    (hp : s.diePresent r.lostDie = true) (hl : s.dieIsLost r.lostDie = false) :
    (s.fault r core qs).get F.FAULT_COUNT [r.code] = min (s.get F.FAULT_COUNT [r.code] + 1) (2 ^ 32 - 1) ∧
    (s.fault r core qs).dieIsLost r.lostDie = true ∧ Stands (fun off => 0x3A00090 ≤ off ∧ off < 0x3A000B0) s (s.fault r core qs) ∧
    (r.lostDie < 6 → (s.fault r core qs).get F.DOM_STATE [r.lostDie] = stOff) := by
  obtain ⟨n, he, -, -, hs, hc⟩ := fault_contained s (core := core) (qs := qs) h2 h (by decide)
  have hr := reactionOf_of_to h (by decide)
  have hcon : n.contain r qs = n.loseDie r.lostDie (r.code == 0x12) := by
    unfold Dev.contain
    rw [hr]
    rfl
  have hp' : n.diePresent r.lostDie = true := by
    unfold Dev.diePresent at hp ⊢
    rw [hs.get F.DIE_PRESENT [] (by unfold offLog; decide), hp]
  have hl' : n.dieIsLost r.lostDie = false := by
    unfold Dev.dieIsLost at hl ⊢
    rw [hs.get F.DIE_LOST [] (by unfold offLog; decide), hl]
  obtain ⟨l1, l2, l3⟩ := loseDie_reads n (r.code == 0x12) hl' hp'
  rw [he, hcon]
  refine ⟨?_, l1, stands_trans (stands_mono hs fun off ho => by unfold offLog; omega) (stands_mono l2 fun off ho => .inr ho), l3⟩
  rw [l2.get F.FAULT_COUNT [r.code] (.inl (isCount_off (code_lt h))), hc]

/-! ### Faults contained to a partition -/

/-- A fault that touches a queue: a command with chunks fails, any other ends (17 R619). -/
def touchCmd (d : Nat) (c : Cmd) : Cmd :=
  if c.ready then { c with fail := some (c.fail.getD (stFAULT, d)), todo := [] }
  else match c.phase with
    | .ended .. => c
    | _ => { c with phase := .ended stFAULT d }

theorem touched_eq (s : Dev) (k d : Nat) : ∃ q, s.touched k d = { s with queues := q } ∧
    (s.touched k d).cmdOf k = (s.cmdOf k).map (touchCmd d) ∧ ∀ j, j ≠ k → (s.touched k d).queue j = s.queue j := by
  unfold Dev.touched
  cases hc : s.cmdOf k with
  | none => exact ⟨s.queues, rfl, hc, fun _ _ => rfl⟩
  | some c =>
    dsimp only
    have hfail : ∀ f : Cmd → Cmd, (s.updCmd k f).cmdOf k = some (f c) ∧ ∀ j, j ≠ k → (s.updCmd k f).queue j = s.queue j := fun f =>
      ⟨by rw [cmdOf_updCmd, if_pos rfl, hc]; rfl, fun j hj => by rw [Dev.updCmd, queue_updQ, if_neg hj]⟩
    split
    · rename_i hr
      obtain ⟨f1, f2⟩ := hfail fun c => { c with fail := some (c.fail.getD (stFAULT, d)), todo := [] }
      exact ⟨_, rfl, by rw [Option.map_some, touchCmd, if_pos hr]; exact f1, f2⟩
    · rename_i hr
      obtain ⟨f1, f2⟩ := hfail fun c => { c with phase := .ended stFAULT d }
      cases hph : c.phase with
      | ended st' d' => exact ⟨s.queues, rfl, by rw [Option.map_some, touchCmd, if_neg hr, hph]; exact hc, fun _ _ => rfl⟩
      | _ => exact ⟨_, rfl, by rw [Option.map_some, touchCmd, if_neg hr, hph]; exact f1, f2⟩

/-- The command of a queue has been touched. -/
def IsTouched (d : Nat) (c : Cmd) (k : Nat) (e : Dev) : Prop :=
  ∃ c', e.cmdOf k = some c' ∧ c'.ready = c.ready ∧
    (if c.ready then c'.fail = some (c.fail.getD (stFAULT, d)) ∧ c'.todo = [] else c'.phase = .ended stFAULT d)

theorem touchCmd_running (d : Nat) {c : Cmd} (h : c.phase = .running) :
    (touchCmd d c).ready = c.ready ∧ if c.ready then (touchCmd d c).fail = some (c.fail.getD (stFAULT, d)) ∧ (touchCmd d c).todo = []
      else (touchCmd d c).phase = .ended stFAULT d := by
  unfold touchCmd
  cases c.ready <;> simp [h]

theorem touchCmd_again (d : Nat) {c c' : Cmd} (hr : c'.ready = c.ready)
    (h : if c.ready then c'.fail = some (c.fail.getD (stFAULT, d)) ∧ c'.todo = [] else c'.phase = .ended stFAULT d) :
    (touchCmd d c').ready = c.ready ∧ if c.ready then (touchCmd d c').fail = some (c.fail.getD (stFAULT, d)) ∧ (touchCmd d c').todo = []
      else (touchCmd d c').phase = .ended stFAULT d := by
  unfold touchCmd
  cases hc : c.ready <;> simp_all

theorem touchedAll (qs : List Nat) (d : Nat) (s : Dev) :
    let e := s.forEach qs fun s k => s.touched k d
    (∃ q, e = { s with queues := q }) ∧ (∀ k, k ∉ qs → e.queue k = s.queue k) ∧
    ∀ k ∈ qs, ∀ c, s.cmdOf k = some c → c.phase = .running → IsTouched d c k e := by
  intro e
  refine ⟨?_, fun k hk => ?_, fun k hk c hc hr => ?_⟩
  · refine forEach_keeps (R := fun a b => ∃ q, b = { a with queues := q }) (fun a => ⟨a.queues, rfl⟩) ?_ _ _ (fun s k _ => ?_) s
    · rintro a b c ⟨q, rfl⟩ ⟨q', rfl⟩
      exact ⟨q', rfl⟩
    · obtain ⟨q, h, -⟩ := touched_eq s k d
      exact ⟨q, h⟩
  · refine forEach_keeps (R := fun a b => b.queue k = a.queue k) (fun _ => rfl) (fun h h' => h'.trans h) _ _ (fun s j hj => ?_) s
    obtain ⟨q, -, -, h⟩ := touched_eq s j d
    exact h k (by rintro rfl; exact hk hj)
  · have step : ∀ (s : Dev) (j : Nat), (s.cmdOf k = some c ∨ IsTouched d c k s) → IsTouched d c k (s.touched k d) ∧
        ((s.touched j d).cmdOf k = some c ∨ IsTouched d c k (s.touched j d)) := fun s j hs => by
      have h1 : IsTouched d c k (s.touched k d) := by
        obtain ⟨q, -, h, -⟩ := touched_eq s k d
        rcases hs with hs | ⟨c', hs, hr', hf⟩
        · exact ⟨_, by rw [h, hs]; rfl, touchCmd_running d hr⟩
        · exact ⟨_, by rw [h, hs]; rfl, touchCmd_again d hr' hf⟩
      refine ⟨h1, ?_⟩
      by_cases hj : k = j
      · subst hj; exact .inr h1
      · obtain ⟨q, -, -, h⟩ := touched_eq s j d
        have hkj : (s.touched j d).cmdOf k = s.cmdOf k := by unfold Dev.cmdOf; rw [h k hj]
        unfold IsTouched
        rw [hkj]
        exact hs
    have walk : ∀ (l : List Nat) (s : Dev), (s.cmdOf k = some c ∨ IsTouched d c k s) →
        (k ∈ l → IsTouched d c k (l.foldl (fun s k => s.touched k d) s)) ∧
        (IsTouched d c k s → IsTouched d c k (l.foldl (fun s k => s.touched k d) s)) := fun l => by
      induction l with
      | nil => exact fun s _ => ⟨fun h => absurd h (List.not_mem_nil), id⟩
      | cons j l ih =>
        intro s hs
        obtain ⟨i1, i2⟩ := ih (s.touched j d) (step s j hs).2
        refine ⟨fun hm => ?_, fun ht => ?_⟩
        · rcases List.mem_cons.1 hm with rfl | hm
          · exact i2 (step s k hs).1
          · exact i1 hm
        · refine i2 ?_
          by_cases hj : k = j
          · subst hj; exact (step s k hs).1
          · obtain ⟨q, -, -, h⟩ := touched_eq s j d
            have hkj : (s.touched j d).cmdOf k = s.cmdOf k := by unfold Dev.cmdOf; rw [h k hj]
            unfold IsTouched at ht ⊢
            rw [hkj]
            exact ht
    exact (walk qs s (.inl hc)).1 hk

theorem containPart_touches (s : Dev) {r : Report} (qs : List Nat) (h : r.code ∉ [0x23, 0x25, 0x28, 0x29, 0x4B, 0x50]) :
    s.containPart r qs = s.forEach qs fun s k => s.touched k (detailOf r.code) := by
  simp only [List.mem_cons, List.not_mem_nil, or_false, not_or] at h
  obtain ⟨h1, h2, h3, h4, h5, h6⟩ := h
  unfold Dev.containPart
  simp only [h1, h2, h3, h4, h5, h6, or_self, if_false]

/-! ### Reports -/

theorem largerOf_self (r : Report) : largerOf r r = r := by unfold largerOf; rw [ite_self]

/-- The warden takes the only report that waits. -/
theorem takeReport_one {s : Dev} {r : Report} (qs : List Nat) (h : s.reports = [r]) (hs : (reactionOf r.code).isSome = true) :
    s.takeReport qs = ({ s with reports := [] } : Dev).fault r 0 qs := by
  have hsame : r.same r = true := by simp [Report.same]
  unfold Dev.takeReport
  rw [h]
  dsimp only
  rw [List.filter_cons_of_pos hsame, List.filter_nil, List.filter_nil, Dev.fault, if_neg (by rw [← Option.not_isSome, hs]; simp)]
  change Dev.react (if (reactionOf r.code).isSome then _ else _) (largerOf r r) 0 qs = _
  rw [largerOf_self, if_pos hs]

/-- A fault reported while none waits and MGMT is awake is counted and met at once. -/
theorem faultReport_eq (d : Dev) (x : Detect) (qs : List Nat) (hr : d.reports = []) (ha : d.domAsleep 8 = false)
    (hs : (reactionOf x.code).isSome = true) : d.faultReport (some x) qs = d.fault (d.reportNow x) 0 qs := by
  obtain ⟨s, hse⟩ : ∃ s : Dev, s = { d with reports := d.reports ++ [d.reportNow x] } := ⟨_, rfl⟩
  have h1 : s.reports = [d.reportNow x] := by rw [hse, hr]; rfl
  have h2 : s.domAsleep 8 = false := by rw [hse]; exact ha
  have h3 : ({ s with reports := [] } : Dev) = d := by
    rw [hse, ← hr]
  have he : d.faultReport (some x) qs = if s.domAsleep 8 ∧ !(s.reports.any fun r => s.reactionTo r == some 3) then
      (if s.reports.isEmpty then s else s.wakeReq 8) else s.takeReport qs := by rw [hse]; rfl
  rw [he, if_neg (by simp [h2]), takeReport_one qs h1 hs, h3]

theorem head_recordWord (r : Report) {no : Nat} (core : Nat) (hn : no < 2 ^ 16) (hc : r.code < 256) :
    (recordWords r no 0 core).getD 0 0 = BitVec.ofNat 32 (no + r.code * 2 ^ 16) := by
  unfold recordWords
  rw [List.getD_cons_zero]
  congr 1
  omega

/-- A record of a corrected fault that is not dropped. -/
theorem record_written (s : Dev) (r : Report) (core : Nat) (hf : s.logFull = false)
    (hc : Tab.get none s.warden.ccAt (r.code * 8 + r.die) = none) (hcode : r.code < 256) :
    (s.record r 0 core).get F.FAULT_HEAD = (s.get F.FAULT_HEAD + 1) % 2 ^ 16 ∧
    (s.record r 0 core).reg (F.FAULT_LOG.off [s.get F.FAULT_HEAD % 256, 0]) = BitVec.ofNat 32 (s.get F.FAULT_HEAD + r.code * 2 ^ 16) := by
  rw [record_eq]
  have hx : (stopDraw s r).2.regs = s.regs ∧ (stopDraw s r).2.warden = s.warden := by unfold stopDraw; split <;> exact ⟨rfl, rfl⟩
  generalize (stopDraw s r).2 = x at hx
  obtain ⟨hxr, hxw⟩ := hx
  have hg : ∀ g, x.get g = s.get g := fun g => by rw [Dev.get_eq, Dev.get_eq, hxr]
  have hw := head_recordWord { r with arg := (stopDraw s r).1.toNat } (no := x.get F.FAULT_HEAD) core (bitsOf_lt _ _ _) hcode
  generalize recordWords { r with arg := (stopDraw s r).1.toNat } (x.get F.FAULT_HEAD) 0 core = w at hw
  have hlf : x.logFull = false := by
    unfold Dev.logFull at hf ⊢
    rw [hg, hg, hf]
  have he : recordWith x r 0 w = (x.updWarden fun y => { y with ccAt := Tab.set none y.ccAt (r.code * 8 + r.die) (some x.now) }).putRecord w := by
    unfold recordWith
    rw [if_neg (by simp), hxw, hc, hlf]
    rfl
  obtain ⟨-, -, p3, p4⟩ := putRecord_reads (x.updWarden fun y => { y with ccAt := Tab.set none y.ccAt (r.code * 8 + r.die) (some x.now) }) w
  have hh : (x.updWarden fun y => { y with ccAt := Tab.set none y.ccAt (r.code * 8 + r.die) (some x.now) }).get F.FAULT_HEAD = s.get F.FAULT_HEAD := hg _
  rw [hh] at p3 p4
  rw [he]
  refine ⟨p3, (p4 0 (by decide)).trans ?_⟩
  rw [hw, hg]

end Sys2Proof
end

section
/-! SUPPORT. The statement about reactions to faults (17 R619, R620, Table 17.5; 01 R33, R45, R46). -/

namespace Sys2Proof

open Machine

/-! ### Engines that hang -/

/-- A chunk that ends with a status stops its command's dispatch (07 R242). -/
theorem chunkOver_todo (c : Cmd) (i : Inst) {b : Busy} {x : Nat × Nat} (h : b.fail = some x) : (c.chunkOver i b).todo = [] := by
  unfold Cmd.chunkOver
  rw [h]
  dsimp only
  split
  · simp
  · rfl

theorem killChunk_owned {s : Dev} {i : Inst} {b : Busy} (st d : Nat) (hb : (Tab.get Engine.reset s.engines i.key).busy = some b)
    (ho : s.ownsChunk i b = true) : ∃ x, s.killChunk i st d = (({ s with scree := x } : Dev).freeInst i b 0).updCmd b.queue
      fun c => c.chunkOver i { b with fail := some (st, d), cut := false } := by
  obtain ⟨x, hx⟩ := lostWrite_eq s b
  have hb' : (Tab.get Engine.reset ({ s with scree := x } : Dev).engines i.key).busy = some b := hb
  refine ⟨x, ?_⟩
  rw [Dev.killChunk, hb, Option.elim_some, hx, Dev.overWith, hb']
  exact if_pos ho

theorem freeInst_idle (s : Dev) (i : Inst) (b : Busy) (n : Nat) : (Tab.get Engine.reset (s.freeInst i b n).engines i.key).busy = none := by
  have h : (s.freeInst i b n).engines = Tab.upd Engine.reset s.engines i.key fun e =>
      { e with busy := none, used := Tab.set 0 e.used (b.queue / 32) (Tab.get 0 e.used (b.queue / 32) + n) } := rfl
  rw [h, Tab.upd, Tab.get_set_same]

theorem engineHang_reads {d : Dev} {i : Inst} {b : Busy} {c : Cmd} (hb : (Tab.get Engine.reset d.engines i.key).busy = some b)
    (hc : d.cmdOf b.queue = some c) (ho : d.ownsChunk i b = true) :
    (Tab.get Engine.reset (d.engineHang i).engines i.key).busy = none ∧ (Tab.get Engine.reset (d.engineHang i).engines i.key).carry = [] ∧
    (∃ c', (d.engineHang i).cmdOf b.queue = some c' ∧ c'.fail = some (c.fail.getD (stFAULT, dCHUNKFAULT)) ∧ c'.todo = []) ∧
    (d.engineHang i).reports = d.reports ++ [d.reportNow ⟨0x2A, i.die, i.mid, some (b.queue / 32), 0, 0⟩] ∧
    (d.engineHang i).regs = d.regs ∧ (d.engineHang i).mem = d.mem ∧ (d.engineHang i).hostMem = d.hostMem := by
  obtain ⟨x, hk⟩ := killChunk_owned stFAULT dCHUNKFAULT hb ho
  obtain ⟨s, hs⟩ : ∃ s : Dev, s = { d with scree := x } := ⟨_, rfl⟩
  obtain ⟨n, hn⟩ : ∃ n, n = s.freeInst i b 0 := ⟨_, rfl⟩
  obtain ⟨k, hke⟩ : ∃ k, k = n.updCmd b.queue fun c => c.chunkOver i { b with fail := some (stFAULT, dCHUNKFAULT), cut := false } := ⟨_, rfl⟩
  have he : d.engineHang i = ({ k with engines := Tab.upd Engine.reset k.engines i.key fun e => { e with carry := [] } } : Dev).report
      0x2A i.die i.mid (some (b.queue / 32)) 0 0 := by
    rw [Dev.engineHang, hb, hke, hn, hs, ← hk]
  have hidle : (Tab.get Engine.reset k.engines i.key).busy = none := by
    rw [hke, show (n.updCmd b.queue _).engines = n.engines from rfl, hn]
    exact freeInst_idle s i b 0
  have hcmd : k.cmdOf b.queue = some (c.chunkOver i { b with fail := some (stFAULT, dCHUNKFAULT), cut := false }) := by
    rw [hke, cmdOf_updCmd, if_pos rfl, hn, show (s.freeInst i b 0).cmdOf b.queue = s.cmdOf b.queue from rfl, hs,
      show ({ d with scree := x } : Dev).cmdOf b.queue = d.cmdOf b.queue from rfl, hc]
    rfl
  have hkeep : k.reports = d.reports ∧ k.regs = d.regs ∧ k.mem = d.mem ∧ k.hostMem = d.hostMem ∧ k.now = d.now := by
    rw [hke, hn, hs]
    exact ⟨rfl, rfl, rfl, rfl, rfl⟩
  clear hke
  obtain ⟨k1, k2, k3, k4, k5⟩ := hkeep
  have hg : ∀ g, k.get g = d.get g := fun g => by rw [Dev.get_eq, Dev.get_eq, k2]
  have hpos : k.pos = d.pos := by simp only [Dev.pos, Dev.get64, hg]
  rw [he]
  refine ⟨?_, ?_, ⟨_, hcmd, chunkOver_fail c i rfl, chunkOver_todo c i rfl⟩, ?_, k2, k3, k4⟩
  · change (Tab.get Engine.reset (Tab.upd Engine.reset k.engines i.key fun e => { e with carry := [] }) i.key).busy = none
    rw [Tab.upd, Tab.get_set_same]
    exact hidle
  · change (Tab.get Engine.reset (Tab.upd Engine.reset k.engines i.key fun e => { e with carry := [] }) i.key).carry = []
    rw [Tab.upd, Tab.get_set_same]
  · change k.reports ++ [⟨0x2A, i.die, i.mid, some (b.queue / 32), 0, 0, k.pos, k.now * 40⟩] = _
    rw [k1, hpos, k5]
    rfl

/-! ### Shelf links -/

/-- A link at half rate, or down, and retraining. -/
def shelfSet (d : Dev) (l v : Nat) : Dev :=
  d.updWarden fun w => { w with shelf := Tab.set 0 w.shelf l v, retraining := Tab.set false w.retraining l true }

theorem shelfSet_reads (d : Dev) (l v : Nat) :
    Tab.get 0 (shelfSet d l v).warden.shelf l = v ∧ Tab.get false (shelfSet d l v).warden.retraining l = true ∧
    ∀ x, x ≠ l → Tab.get 0 (shelfSet d l v).warden.shelf x = Tab.get 0 d.warden.shelf x :=
  ⟨Tab.get_set_same 0 d.warden.shelf l v, Tab.get_set_same false d.warden.retraining l true,
    fun x hx => Tab.get_set_ne 0 0 d.warden.shelf l x v hx⟩

/-- A reaction other than the safe stop: the record, then the containment, which waits during RESYNC (17 R615). -/
theorem react_recorded (s : Dev) {r : Report} {core x : Nat} {qs : List Nat} (h2 : s.get F.WARDEN_MODE ≠ 2) (h : s.reactionTo r = some x)
    (hx : x ≠ 3) : s.react r core qs = if (s.record r x core).get F.WARDEN_MODE = 3 then
      (s.record r x core).updWarden fun w => { w with acts := w.acts ++ [(r, qs)] } else (s.record r x core).contain r qs := by
  rw [Dev.react, if_neg h2, h]
  split
  · contradiction
  · simp_all
  · rename_i y hy
    cases hy
    rfl

/-- A fault of a link that is down touches the queues with transactions on it: no memory, and the link's state stands. -/
theorem fault_shelf (s : Dev) (l : Nat) (qs : List Nat) :
    let e := s.fault (s.reportNow ⟨0x33, shelfDie l, 0, none, l, 0⟩) 0 qs
    e.get F.FAULT_COUNT [0x33] = min (s.get F.FAULT_COUNT [0x33] + 1) (2 ^ 32 - 1) ∧ e.mem = s.mem ∧ e.hostMem = s.hostMem ∧
    e.warden.shelf = s.warden.shelf ∧ e.warden.retraining = s.warden.retraining := by
  generalize hr : s.reportNow ⟨0x33, shelfDie l, 0, none, l, 0⟩ = r
  have hcode : r.code = 0x33 := by rw [← hr]; rfl
  have hto : ∀ s' : Dev, s'.reactionTo r = some 1 := fun s' => to_of_reactionOf (by rw [hcode]; decide) (by decide)
  obtain ⟨n, hn⟩ : ∃ n, n = s.count F.FAULT_COUNT [0x33] := ⟨_, rfl⟩
  have hc : n.get F.FAULT_COUNT [0x33] = min (s.get F.FAULT_COUNT [0x33] + 1) (2 ^ 32 - 1) := by
    rw [hn]; exact Dev.get_count_same _ _ _ (by decide)
  have hk : n.mem = s.mem ∧ n.hostMem = s.hostMem ∧ n.warden = s.warden := by rw [hn]; exact ⟨rfl, rfl, rfl⟩
  obtain ⟨k1, k2, k3⟩ := hk
  have hf : s.fault r 0 qs = n.react r 0 qs := by
    rw [Dev.fault, hcode, if_neg (by decide), hn]
  intro e
  have he : e = n.react r 0 qs := hf
  clear_value e
  subst he
  by_cases h2 : n.get F.WARDEN_MODE = 2
  · rw [Dev.react, if_pos h2]
    exact ⟨hc, k1, k2, by rw [k3], by rw [k3]⟩
  · rw [react_recorded n h2 (hto n) (by decide)]
    obtain ⟨r1, r2⟩ := record_keeps n r 1 0
    have hc' : (n.record r 1 0).get F.FAULT_COUNT [0x33] = min (s.get F.FAULT_COUNT [0x33] + 1) (2 ^ 32 - 1) := by
      rw [r2.get F.FAULT_COUNT [0x33] (by unfold offLog; decide), hc]
    have hm : (n.record r 1 0).mem = s.mem ∧ (n.record r 1 0).hostMem = s.hostMem ∧ (n.record r 1 0).warden.shelf = s.warden.shelf ∧
        (n.record r 1 0).warden.retraining = s.warden.retraining := by
      rw [r1, ← k3]
      exact ⟨k1, k2, rfl, rfl⟩
    generalize n.record r 1 0 = m at hc' hm
    obtain ⟨m1, m2, m3, m4⟩ := hm
    split
    · exact ⟨hc', m1, m2, m3, m4⟩
    · have hcon : m.contain r qs = m.forEach qs fun s k => s.touched k (detailOf r.code) := by
        rw [Dev.contain, show reactionOf r.code = some 1 by rw [hcode]; decide]
        exact containPart_touches m qs (by rw [hcode]; decide)
      obtain ⟨⟨q, hq⟩, -, -⟩ := touchedAll qs (detailOf r.code) m
      rw [hcon, hq]
      exact ⟨hc', m1, m2, m3, m4⟩

/-! ### A report met -/

/-- A report of a code has been counted, and none waits. -/
def ReportCounted (code : Nat) (d e : Dev) : Prop :=
  e.get F.FAULT_COUNT [code] = min (d.get F.FAULT_COUNT [code] + 1) (2 ^ 32 - 1) ∧ e.reports = []

section
variable {d : Dev} {r : Report} (hrep : d.reports = []) (hm : d.get F.WARDEN_MODE < 2)
include hrep hm

/-- A corrected fault is counted and recorded, and nothing stops. -/
theorem fault_corrected (qs : List Nat) (h0 : reactionOf r.code = some 0) (hc256 : r.code < 256) :
    ReportCounted r.code d (d.fault r 0 qs) ∧ (d.fault r 0 qs).queues = d.queues ∧ (d.fault r 0 qs).mem = d.mem ∧
    (d.fault r 0 qs).hostMem = d.hostMem ∧ (d.fault r 0 qs).cores = d.cores ∧ (d.fault r 0 qs).parts = d.parts ∧
    (d.logFull = false → Tab.get none d.warden.ccAt (r.code * 8 + r.die) = none →
      (d.fault r 0 qs).get F.FAULT_HEAD = (d.get F.FAULT_HEAD + 1) % 2 ^ 16 ∧
      (d.fault r 0 qs).reg (F.FAULT_LOG.off [d.get F.FAULT_HEAD % 256, 0]) = BitVec.ofNat 32 (d.get F.FAULT_HEAD + r.code * 2 ^ 16)) := by
  have hreports : ∀ {n : Dev}, OnlyRecords d n → n.reports = [] := fun hn => by rw [hn]; exact hrep
  have hto : d.reactionTo r = some 0 := to_of_reactionOf h0 (by decide)
  obtain ⟨n, he, hne, hn, -, hc⟩ := fault_contained d (core := 0) (qs := qs) hm hto (by decide)
  have hcon : n.contain r qs = n := by
    rw [Dev.contain, h0]
    rfl
  rw [he, hcon]
  refine ⟨⟨hc, hreports hn⟩, by rw [hn], by rw [hn], by rw [hn], by rw [hn], by rw [hn], fun hf hcc => ?_⟩
  have hcs : ∀ g, g.off [] < 0x3803000 → (d.count F.FAULT_COUNT [r.code]).get g = d.get g := fun g hg =>
    (counted_reads d r.code).2.get g [] hg
  have hlf : (d.count F.FAULT_COUNT [r.code]).logFull = false := by
    unfold Dev.logFull at hf ⊢
    rw [hcs _ (by decide), hcs _ (by decide), hf]
  obtain ⟨w1, w2⟩ := record_written (d.count F.FAULT_COUNT [r.code]) r 0 hlf hcc hc256
  rw [← hne, hcs _ (by decide)] at w1 w2
  exact ⟨w1, w2⟩

/-- One contained to a partition ends the commands it touched (17 R620). -/
theorem fault_partition (qs : List Nat) (h1 : reactionOf r.code = some 1) (hex : r.code ∉ [0x23, 0x25, 0x28, 0x29, 0x4B, 0x50]) :
    ReportCounted r.code d (d.fault r 0 qs) ∧ (d.fault r 0 qs).mem = d.mem ∧ (d.fault r 0 qs).hostMem = d.hostMem ∧
    (∀ k, k ∉ qs → (d.fault r 0 qs).queue k = d.queue k) ∧
    ∀ k ∈ qs, ∀ c, d.cmdOf k = some c → c.phase = .running → ∃ c', (d.fault r 0 qs).cmdOf k = some c' ∧
      (if c.ready then c'.fail = some (c.fail.getD (stFAULT, detailOf r.code)) ∧ c'.todo = []
       else c'.phase = .ended stFAULT (detailOf r.code)) := by
  have hreports : ∀ {n : Dev}, OnlyRecords d n → n.reports = [] := fun hn => by rw [hn]; exact hrep
  have hto : d.reactionTo r = some 1 := to_of_reactionOf h1 (by decide)
  obtain ⟨n, he, -, hn, -, hc⟩ := fault_contained d (core := 0) (qs := qs) hm hto (by decide)
  have hcon : n.contain r qs = n.forEach qs fun s k => s.touched k (detailOf r.code) := by
    rw [Dev.contain, h1]
    change n.containPart r qs = _
    rw [containPart_touches n qs hex]
  obtain ⟨⟨q, hq⟩, t2, t3⟩ := touchedAll qs (detailOf r.code) n
  have hqn : ∀ k, n.queue k = d.queue k := fun k => by rw [hn]; rfl
  rw [he, hcon]
  have hregs : (n.forEach qs fun s k => s.touched k (detailOf r.code)).regs = n.regs := by rw [hq]
  refine ⟨⟨?_, ?_⟩, ?_, ?_, fun k hk => (t2 k hk).trans (hqn k), fun k hk c hck hph => ?_⟩
  · rw [Dev.get_eq, hregs, ← Dev.get_eq, hc]
  · have := hreports hn
    rw [hq]; exact this
  · rw [hq, hn]
  · rw [hq, hn]
  · obtain ⟨c', c1, -, c3⟩ := t3 k hk c (by unfold Dev.cmdOf at hck ⊢; rw [hqn]; exact hck) hph
    exact ⟨c', c1, c3⟩

theorem fault_noted (qs : List Nat) (h4b : r.code = 0x4B) : ReportCounted r.code d (d.fault r 0 qs) ∧ (d.fault r 0 qs).queues = d.queues ∧
    (d.fault r 0 qs).mem = d.mem := by
  have hreports : ∀ {n : Dev}, OnlyRecords d n → n.reports = [] := fun hn => by rw [hn]; exact hrep
  have hto : d.reactionTo r = some 1 := to_of_reactionOf (by rw [h4b]; decide) (by decide)
  obtain ⟨n, he, -, hn, -, hc⟩ := fault_contained d (core := 0) (qs := qs) hm hto (by decide)
  have hcon : n.contain r qs = n := by
    rw [Dev.contain, h4b]
    change n.containPart r qs = n
    simp [Dev.containPart, h4b]
  rw [he, hcon]
  exact ⟨⟨hc, hreports hn⟩, by rw [hn], by rw [hn]⟩

end

/-! ### Shelf links -/

section
variable {d : Dev} {l : Nat} (hp : Powered d)
include hp

theorem shelf_degrades (hne : Tab.get 0 d.warden.shelf l ≠ 2) (hl : l < 20) : Gives (.shelfDegraded l) d fun e =>
    Tab.get 0 e.warden.shelf l = 1 ∧ Tab.get false e.warden.retraining l = true ∧
    (∀ x, x ≠ l → Tab.get 0 e.warden.shelf x = Tab.get 0 d.warden.shelf x) ∧
    e = { d with
      warden := { d.warden with shelf := e.warden.shelf, retraining := e.warden.retraining }
      reports := d.reports ++ [d.reportNow ⟨0x31, shelfDie l, 0, none, l, 0⟩] } := by
  refine gives_of_onDev (·.shelfDegraded l) (fun _ => rfl) hp ?_
  have he : d.shelfDegraded l = (shelfSet d l 1).report 0x31 (shelfDie l) 0 none l 0 := by
    rw [Dev.shelfDegraded, if_neg (by omega)]
    rfl
  obtain ⟨s1, s2, s3⟩ := shelfSet_reads d l 1
  rw [he]
  exact ⟨s1, s2, s3, rfl⟩

theorem shelf_goesDown (hl : l < 20) (qs : List Nat) : Gives (.shelfLinkDown l qs) d fun e =>
    Tab.get 0 e.warden.shelf l = 2 ∧ Tab.get false e.warden.retraining l = true ∧
    e.get F.FAULT_COUNT [0x33] = min (d.get F.FAULT_COUNT [0x33] + 1) (2 ^ 32 - 1) ∧ e.mem = d.mem ∧ e.hostMem = d.hostMem := by
  refine gives_of_onDev (·.shelfDown l qs) (fun _ => rfl) hp ?_
  obtain ⟨s1, s2, -⟩ := shelfSet_reads d l 2
  obtain ⟨f1, f2, f3, f4, f5⟩ := fault_shelf (shelfSet d l 2) l qs
  obtain ⟨e, hee⟩ : ∃ e, e = (shelfSet d l 2).fault ((shelfSet d l 2).reportNow ⟨0x33, shelfDie l, 0, none, l, 0⟩) 0 qs := ⟨_, rfl⟩
  rw [← hee] at f1 f2 f3 f4 f5
  have he : d.shelfDown l qs = if Tab.get 0 e.warden.shelf 18 = 2 ∧ Tab.get 0 e.warden.shelf 19 = 2 then e.report 0x34 7 0 none l 0 else e := by
    rw [Dev.shelfDown, if_neg (by omega), hee]
    rfl
  have hP : Tab.get 0 e.warden.shelf l = 2 ∧ Tab.get false e.warden.retraining l = true ∧ e.get F.FAULT_COUNT [0x33] = min (d.get F.FAULT_COUNT [0x33] + 1) (2 ^ 32 - 1) ∧
      e.mem = d.mem ∧ e.hostMem = d.hostMem := by
    refine ⟨?_, ?_, f1, f2, f3⟩
    · rw [f4, s1]
    · rw [f5, s2]
  rw [he]
  split
  · exact hP
  · exact hP

theorem shelf_retrains (hr : Tab.get false d.warden.retraining l = true) (hw : d.waiting = []) : Gives (.shelfRetrainDone l) d fun e =>
    Tab.get 0 e.warden.shelf l = Tab.get 0 d.warden.shelf l - 1 ∧ Tab.get false e.warden.retraining l = decide (Tab.get 0 d.warden.shelf l = 2) ∧
    (∀ x, x ≠ l → Tab.get 0 e.warden.shelf x = Tab.get 0 d.warden.shelf x) ∧
    e = { d with warden := { d.warden with shelf := e.warden.shelf, retraining := e.warden.retraining } } := by
  refine gives_of_onDev (·.shelfServe l) (fun _ => rfl) hp ?_
  have he : d.shelfServe l = d.updWarden fun w => { w with
      shelf := Tab.set 0 w.shelf l (Tab.get 0 w.shelf l - 1), retraining := Tab.set false w.retraining l (Tab.get 0 w.shelf l == 2) } := by
    have hd : d.shelfDone l = d.updWarden fun w => { w with
        shelf := Tab.set 0 w.shelf l (Tab.get 0 w.shelf l - 1), retraining := Tab.set false w.retraining l (Tab.get 0 w.shelf l == 2) } := by
      rw [Dev.shelfDone, if_pos hr]
    rw [Dev.shelfServe, hd]
    exact serveAccesses_nothing hw
  rw [he]
  refine ⟨Tab.get_set_same 0 d.warden.shelf l _, ?_, fun x hx => Tab.get_set_ne 0 0 d.warden.shelf l x _ hx, rfl⟩
  change Tab.get false (Tab.set false d.warden.retraining l (Tab.get 0 d.warden.shelf l == 2)) l = decide (Tab.get 0 d.warden.shelf l = 2)
  rw [Tab.get_set_same]
  rfl

end

/-- Settles O36: a reported fault is counted and met; a hung engine forgets its chunk; a shelf link degrades, goes down, and retrains. -/
theorem faultReactions : Obligations.FaultReactions := by
  unfold Obligations.FaultReactions
  refine ⟨⟨?_, ?_⟩, ?_⟩
  · intro d x qs hp hrep hm ha hc256 r h counted
    have row : ∀ {P : Dev → Prop}, (reactionOf x.code).isSome = true → P (d.fault r 0 qs) → Gives (.faultReport (some x) qs) d P := fun hs hP => by
      refine gives_of_onDev (·.faultReport (some x) qs) (fun _ => rfl) hp ?_
      rw [faultReport_eq d x qs hrep ha hs]
      exact hP
    have some_of : ∀ {y}, d.reactionTo r = some y → (reactionOf x.code).isSome = true := fun hy => by
      rw [← Option.not_isNone, ← show r.code = x.code from rfl, reaction_isSome hy]; rfl
    exact ⟨fun h0 => row (by rw [h0]; rfl) (fault_corrected (r := r) hrep hm qs h0 hc256),
      fun h1 hex => row (by rw [h1]; rfl) (fault_partition (r := r) hrep hm qs h1 hex),
      fun h4b => row (by rw [h4b]; decide) (fault_noted (r := r) hrep hm qs h4b),
      fun h2 hpr hl => row (some_of h2) ⟨(fault_loses d (core := 0) (qs := qs) hm h2 hpr hl).1, (fault_loses d (core := 0) (qs := qs) hm h2 hpr hl).2.1⟩,
      fun h3 => row (some_of h3) (fault_stops d r 0 qs (by omega) h3)⟩
  · intro d cls die idx b c hp i k hb hc ho
    refine gives_of_onDev (·.engineHang ⟨cls, die, idx⟩) (fun _ => rfl) hp ?_
    exact engineHang_reads (i := ⟨cls, die, idx⟩) hb hc ho
  · intro d l hp hl shelf retrains
    exact ⟨fun hne => shelf_degrades hp hne hl, fun qs => shelf_goesDown hp hl qs, fun hr hw => shelf_retrains hp hr hw⟩

end Sys2Proof
end

section
/-! SUPPORT. Rails that acknowledge, are adjusted, or fail; temperatures and their floors; the power cap (18 R659 to R666). -/

namespace Sys2Proof

open Machine

/-! ### Fields of a rail -/

/-- The fields of a rail's registers that a request and its acknowledgement write. -/
def railFields : List Fld := [F.RAIL_TARGET, F.RAIL_NOW, F.RAIL_IN_FLIGHT, F.RAIL_PENDING_VALID, F.RAIL_ENABLED, F.RAIL_PENDING]

theorem rail_off {f : Fld} (hf : f ∈ railFields) (r : Nat) : f.off [r] = f.base + 0x40 * r := by
  simp only [railFields, List.mem_cons, List.not_mem_nil, or_false] at hf
  rcases hf with rfl | rfl | rfl | rfl | rfl | rfl <;> simp [Fld.off]

/-- Two fields of one rail share no bit. -/
theorem rail_apart {f g : Fld} (hf : f ∈ railFields) (hg : g ∈ railFields) (h : f ≠ g) (r : Nat) : Fld.apart f [r] g [r] = true := by
  have key : ∀ f ∈ railFields, ∀ g ∈ railFields, f ≠ g → (g.base ≠ f.base ∨ g.lo + g.w ≤ f.lo ∨ f.lo + f.w ≤ g.lo) ∧ g.lo + g.w ≤ 32 := by decide
  obtain ⟨h1, h2⟩ := key f hf g hg h
  rcases h1 with h1 | h1
  · exact apart_of_off (by rw [rail_off hf, rail_off hg]; omega) h2
  · exact apart_of_bits h1 h2

theorem get_put_mod (s : Dev) (f : Fld) (ix : List Nat) (v : Nat) (hw : f.lo + f.w ≤ 32) : (s.put f ix v).get f ix = v % 2 ^ f.w :=
  getR_putR_same _ _ _ _ hw

theorem flag_of_b2n {s : Dev} {f : Fld} {ix : List Nat} {b : Bool} (h : s.get f ix = b2n b) : s.flag f ix = b := by
  unfold Dev.flag
  rw [h]
  cases b <;> rfl

theorem flag_of_zero {s : Dev} {f : Fld} {ix : List Nat} (h : s.get f ix = 0) : s.flag f ix = false := by
  unfold Dev.flag
  rw [h]; rfl

/-! ### Acknowledgements -/

/-- The registers of an acknowledged request (18 R659). -/
def acked (s : Dev) (r now : Nat) : Dev :=
  ((s.put F.RAIL_IN_FLIGHT [r] 0).put F.RAIL_NOW [r] now).put F.RAIL_ENABLED [r] (b2n (s.get F.RAIL_TARGET [r] != 0))

theorem acked_reads (s : Dev) (r now : Nat) :
    (acked s r now).get F.RAIL_NOW [r] = now % 2 ^ 16 ∧ (acked s r now).get F.RAIL_IN_FLIGHT [r] = 0 ∧
    (acked s r now).get F.RAIL_ENABLED [r] = b2n (s.get F.RAIL_TARGET [r] != 0) ∧
    (∀ g ∈ [F.RAIL_TARGET, F.RAIL_PENDING_VALID, F.RAIL_PENDING], (acked s r now).get g [r] = s.get g [r]) ∧
    OnlyFields [(F.RAIL_NOW, [r]), (F.RAIL_IN_FLIGHT, [r]), (F.RAIL_ENABLED, [r])] s (acked s r now) ∧ OnlyRegs s (acked s r now) := by
  have ha : ∀ {f g : Fld}, f ∈ railFields → g ∈ railFields → f ≠ g → Fld.apart f [r] g [r] = true := fun hf hg h => rail_apart hf hg h r
  unfold acked
  refine ⟨?_, ?_, ?_, fun g hg => ?_, ?_, onlyRegs_trans (onlyRegs_put s _ _ _) (onlyRegs_trans (onlyRegs_put _ _ _ _) (onlyRegs_put _ _ _ _))⟩
  · rw [Dev.get_put_apart _ _ (ha (by decide) (by decide) (by decide)), get_put_mod _ _ _ _ (by decide)]
  · rw [Dev.get_put_apart _ _ (ha (by decide) (by decide) (by decide)), Dev.get_put_apart _ _ (ha (by decide) (by decide) (by decide)),
      Dev.get_put_fit _ (by decide) (by decide)]
  · rw [Dev.get_put_fit _ (by decide) (b2n_lt _)]
  · have key : ∀ g ∈ [F.RAIL_TARGET, F.RAIL_PENDING_VALID, F.RAIL_PENDING], g ∈ railFields ∧ F.RAIL_IN_FLIGHT ≠ g ∧ F.RAIL_NOW ≠ g ∧
        F.RAIL_ENABLED ≠ g := by decide
    obtain ⟨k0, k1, k2, k3⟩ := key g hg
    rw [Dev.get_put_apart _ _ (ha (by decide) k0 k3), Dev.get_put_apart _ _ (ha (by decide) k0 k2), Dev.get_put_apart _ _ (ha (by decide) k0 k1)]
  · exact onlyFields_put _ (onlyFields_put _ (onlyFields_put _ (onlyFields_refl _ s) (by simp)) (by simp)) (by simp)

theorem railSend_reads (s : Dev) (r : Nat) {mv : Nat} (hv : mv < 2 ^ 16) :
    (s.railSend r mv).get F.RAIL_TARGET [r] = mv ∧ (s.railSend r mv).get F.RAIL_IN_FLIGHT [r] = 1 ∧
    (∀ g ∈ [F.RAIL_NOW, F.RAIL_PENDING_VALID, F.RAIL_ENABLED], (s.railSend r mv).get g [r] = s.get g [r]) ∧
    OnlyFields [(F.RAIL_TARGET, [r]), (F.RAIL_IN_FLIGHT, [r])] s (s.railSend r mv) ∧ OnlyRegs s (s.railSend r mv) := by
  unfold Dev.railSend
  refine ⟨?_, Dev.get_put_fit _ (by decide) (by decide), fun g hg => ?_, ?_, onlyRegs_trans (onlyRegs_put s _ _ _) (onlyRegs_put _ _ _ _)⟩
  · rw [Dev.get_put_apart _ _ (rail_apart (by decide) (by decide) (by decide) r), Dev.get_put_fit _ (by decide) hv]
  · have key : ∀ g ∈ [F.RAIL_NOW, F.RAIL_PENDING_VALID, F.RAIL_ENABLED], g ∈ railFields ∧ F.RAIL_IN_FLIGHT ≠ g ∧ F.RAIL_TARGET ≠ g := by decide
    obtain ⟨k0, k1, k2⟩ := key g hg
    rw [Dev.get_put_apart _ _ (rail_apart (by decide) k0 k1 r), Dev.get_put_apart _ _ (rail_apart (by decide) k0 k2 r)]
  · exact onlyFields_put _ (onlyFields_put _ (onlyFields_refl _ s) (by simp)) (by simp)

theorem railAck_eq {s : Dev} {r now : Nat} (hr : r < 12) (hf : s.flag F.RAIL_IN_FLIGHT [r] = true) (he : Tab.get 0 s.pwr.emerg r = 0) :
    s.railAck r now = if s.flag F.RAIL_PENDING_VALID [r] then
      (if s.get F.RAIL_PENDING [r] = s.get F.RAIL_TARGET [r] then
        ((acked s r now).put F.RAIL_PENDING_VALID [r] 0).put F.RAIL_PENDING [r] 0
      else (((acked s r now).put F.RAIL_PENDING_VALID [r] 0).put F.RAIL_PENDING [r] 0).railSend r (s.get F.RAIL_PENDING [r]))
    else acked s r now := by
  obtain ⟨-, -, -, h4, -, h6⟩ := acked_reads s r now
  have hv : (acked s r now).flag F.RAIL_PENDING_VALID [r] = s.flag F.RAIL_PENDING_VALID [r] := flag_of_get (h4 _ (by simp))
  have hn : (acked s r now).get F.RAIL_PENDING [r] = s.get F.RAIL_PENDING [r] := h4 _ (by simp)
  have hem : Tab.get 0 (acked s r now).pwr.emerg r = 0 := by rw [h6]; exact he
  rw [Dev.railAck, if_neg (by simp [hf, hr])]
  change (if Tab.get 0 (acked s r now).pwr.emerg r = 1 then _ else if (acked s r now).flag F.RAIL_PENDING_VALID [r] then
    (if (acked s r now).get F.RAIL_PENDING [r] = s.get F.RAIL_TARGET [r] then _ else
      (((acked s r now).put F.RAIL_PENDING_VALID [r] 0).put F.RAIL_PENDING [r] 0).railSend r ((acked s r now).get F.RAIL_PENDING [r])) else acked s r now) = _
  rw [hem, if_neg (by decide), hv, hn]
  rfl

/-- RAIL_ACK, AVS_ADJUST and RAIL_FAULT. -/
theorem rails_first (d : Dev) (r : Nat) (hp : Powered d) (hr : r < 12) (hem : Tab.get 0 d.pwr.emerg r = 0) :
    (d.flag F.RAIL_IN_FLIGHT [r] = true → d.pwr.offSeq = [] →
      ∀ now, (d.flag F.RAIL_PENDING_VALID [r] = false → Gives (.railAck r now) d fun e =>
        e.get F.RAIL_NOW [r] = now % 2 ^ 16 ∧ e.flag F.RAIL_IN_FLIGHT [r] = false ∧
        e.flag F.RAIL_ENABLED [r] = decide (d.get F.RAIL_TARGET [r] ≠ 0) ∧
        OnlyFields [(F.RAIL_NOW, [r]), (F.RAIL_IN_FLIGHT, [r]), (F.RAIL_ENABLED, [r])] d e ∧ OnlyRegs d e) ∧
      (d.flag F.RAIL_PENDING_VALID [r] = true → d.get F.RAIL_PENDING [r] ≠ d.get F.RAIL_TARGET [r] →
        Gives (.railAck r now) d fun e =>
          e.get F.RAIL_NOW [r] = now % 2 ^ 16 ∧ e.get F.RAIL_TARGET [r] = d.get F.RAIL_PENDING [r] ∧
          e.flag F.RAIL_IN_FLIGHT [r] = true ∧ e.flag F.RAIL_PENDING_VALID [r] = false ∧ OnlyRegs d e)) := by
  intro hf hoff now
  obtain ⟨a1, a2, a3, a4, a5, a6⟩ := acked_reads d r now
  have row : ∀ {P : Dev → Prop}, (d.railAck r now).pwr.offSeq = [] → P (d.railAck r now) → Gives (.railAck r now) d P := fun h hP => by
    refine gives_of_onDev (·.railDone r now) (fun _ => rfl) hp ?_
    rw [Dev.railDone, h]
    exact hP
  refine ⟨fun hv => ?_, fun hv hne => ?_⟩
  · have he : d.railAck r now = acked d r now := by rw [railAck_eq hr hf hem, if_neg (by simp [hv])]
    refine row (by rw [he, a6]; exact hoff) ?_
    rw [he]
    refine ⟨a1, flag_of_zero a2, ?_, a5, a6⟩
    rw [flag_of_b2n a3]
    by_cases h : d.get F.RAIL_TARGET [r] = 0 <;> simp [h]
  · obtain ⟨p, hpe⟩ : ∃ p, p = ((acked d r now).put F.RAIL_PENDING_VALID [r] 0).put F.RAIL_PENDING [r] 0 := ⟨_, rfl⟩
    have hpn : p.get F.RAIL_NOW [r] = now % 2 ^ 16 := by
      rw [hpe, Dev.get_put_apart _ _ (rail_apart (by decide) (by decide) (by decide) r),
        Dev.get_put_apart _ _ (rail_apart (by decide) (by decide) (by decide) r), a1]
    have hpv : p.get F.RAIL_PENDING_VALID [r] = 0 := by
      rw [hpe, Dev.get_put_apart _ _ (rail_apart (by decide) (by decide) (by decide) r), Dev.get_put_fit _ (by decide) (by decide)]
    have hpr : OnlyRegs d p := by
      rw [hpe]
      exact onlyRegs_trans a6 (onlyRegs_trans (onlyRegs_put _ _ _ _) (onlyRegs_put _ _ _ _))
    have he : d.railAck r now = p.railSend r (d.get F.RAIL_PENDING [r]) := by
      rw [railAck_eq hr hf hem, if_pos hv, if_neg hne, hpe]
    have hlt : d.get F.RAIL_PENDING [r] < 2 ^ 16 := bitsOf_lt _ _ _
    obtain ⟨s1, s2, s3, -, s5⟩ := railSend_reads p r hlt
    have hall := onlyRegs_trans hpr s5
    rw [← he] at s1 s2 s3 hall
    refine row (by rw [hall]; exact hoff) ⟨(s3 _ (by simp)).trans hpn, s1, flag_of_one s2, flag_of_zero ((s3 _ (by simp)).trans hpv), hall⟩

theorem avs_reads (d : Dev) (r mv : Nat) (hp : Powered d) (hem : Tab.get 0 d.pwr.emerg r = 0) (hr : r ∈ [0, 1, 2, 3, 4, 5, 8, 9])
    (hrest : ∀ x ∈ railDoms r, AtRest d x stRun) (hen : d.flag F.RAIL_ENABLED [r] = true) (h1 : 700 ≤ mv) (h2 : mv ≤ 850)
    (h3 : mv ≤ d.get F.RAIL_TARGET [r] + 10) (h4 : d.get F.RAIL_TARGET [r] ≤ mv + 10) (hm : d.get F.WARDEN_MODE ≠ 2)
    (hfree : d.railFree r = true) (hfl : d.flag F.RAIL_IN_FLIGHT [r] = false) : Gives (.avsAdjust r mv) d fun e =>
      e.get F.RAIL_TARGET [r] = mv ∧ e.flag F.RAIL_IN_FLIGHT [r] = true ∧
      OnlyFields [(F.RAIL_TARGET, [r]), (F.RAIL_IN_FLIGHT, [r])] d e ∧ OnlyRegs d e := by
  refine gives_of_onDev (·.avsAdjust r mv) (fun _ => rfl) hp ?_
  have hrun : ((railDoms r).all fun x => d.get F.DOM_STATE [x] == stRun && !d.flag F.DOM_BUSY [x]) = true := by
    rw [List.all_eq_true]
    intro x hx
    obtain ⟨r1, r2, -, -⟩ := hrest x hx
    rw [r1, r2]; rfl
  have he : d.avsAdjust r mv = d.railSend r mv := by
    rw [Dev.avsAdjust, if_pos ⟨by simpa using hr, hrun, hen, h1, h2, h3, h4, hm⟩, Dev.railReq, if_neg (by simp [hfree, hem]), if_neg (by simp [hfl])]
  obtain ⟨s1, s2, -, s4, s5⟩ := railSend_reads d r (mv := mv) (by omega)
  rw [he]
  exact ⟨s1, flag_of_one s2, s4, s5⟩

/-! ### Rails that fail -/

/-- A rail's fault as the warden meets it: the request in flight has ended, and MGMT is woken. -/
def railDown (d : Dev) (r : Nat) : Dev := (d.put F.RAIL_IN_FLIGHT [r] 0).wake 8 false

theorem railDown_reads (d : Dev) {r : Nat} (hr : r < 12) :
    Stands (fun off => off < 0x3A00000) d (railDown d r) ∧ (railDown d r).hostMem = d.hostMem := by
  have hm := domMoves_trans (domMoves_rails (x := 8) (railsOnly_put d 0 (isRail_off (f := F.RAIL_IN_FLIGHT) (r := r) (by simp) (by omega))))
    (domMoves_wake (d.put F.RAIL_IN_FLIGHT [r] 0) 8 false)
  exact ⟨fun off ho => hm.2.1 off (by omega) (by omega) (by unfold isRail; omega), hm.mem.2⟩

theorem railFault_eq (d : Dev) {r : Nat} (hr : r < 12) : d.railFault r = (railDown d r).fault
    ((d.put F.RAIL_IN_FLIGHT [r] 0).reportNow ⟨if r < 6 then 0x15 else 0x16, 6, 0, none, 0, r⟩) 0 [] := by
  rw [Dev.railFault, if_neg (by omega), if_pos hr]
  rfl

theorem railFault_die (d : Dev) {r : Nat} (hp : Powered d) (hm : d.get F.WARDEN_MODE < 2) (h6 : r < 6) (hpr : d.diePresent r = true)
    (hl : d.dieIsLost r = false) : Gives (.railFault r) d fun e =>
      e.get F.FAULT_COUNT [0x15] = min (d.get F.FAULT_COUNT [0x15] + 1) (2 ^ 32 - 1) ∧ e.dieIsLost r = true ∧ e.get F.DOM_STATE [r] = stOff := by
  refine gives_of_onDev (·.railFault r) (fun _ => rfl) hp ?_
  obtain ⟨s1, -⟩ := railDown_reads d (r := r) (by omega)
  rw [railFault_eq d (by omega), if_pos h6]
  generalize hrep : (d.put F.RAIL_IN_FLIGHT [r] 0).reportNow ⟨0x15, 6, 0, none, 0, r⟩ = rep
  have hcode : rep.code = 0x15 := by rw [← hrep]; rfl
  have hld : rep.lostDie = r := by rw [← hrep]; rfl
  have hto : (railDown d r).reactionTo rep = some 2 := by
    unfold Dev.reactionTo
    rw [hcode, hld, show reactionOf 0x15 = some 2 by decide]
    change (if r = 6 ∨ (r = 7 ∧ (railDown d r).pairHasWC = true) then some 3 else some 2) = some 2
    rw [if_neg (by omega)]
  obtain ⟨f1, f2, -, f4⟩ := fault_loses (railDown d r) (core := 0) (qs := []) (by rw [s1.get F.WARDEN_MODE [] (by decide)]; exact hm) hto
    (by rw [hld]; unfold Dev.diePresent at hpr ⊢; rw [s1.get F.DIE_PRESENT [] (by decide)]; exact hpr)
    (by rw [hld]; unfold Dev.dieIsLost at hl ⊢; rw [s1.get F.DIE_LOST [] (by decide)]; exact hl)
  rw [hcode, s1.get F.FAULT_COUNT [0x15] (by decide)] at f1
  rw [hld] at f2 f4
  exact ⟨f1, f2, f4 h6⟩

theorem railFault_unit (d : Dev) {r : Nat} (hp : Powered d) (hm : d.get F.WARDEN_MODE < 2) (hr : r < 12) (h6 : 6 ≤ r) :
    Gives (.railFault r) d fun e =>
      e.get F.FAULT_COUNT [0x16] = min (d.get F.FAULT_COUNT [0x16] + 1) (2 ^ 32 - 1) ∧ e.get F.WARDEN_MODE = 2 ∧ e.hostMem = d.hostMem := by
  refine gives_of_onDev (·.railFault r) (fun _ => rfl) hp ?_
  obtain ⟨s1, s2⟩ := railDown_reads d hr
  rw [railFault_eq d hr, if_neg (by omega)]
  generalize hrep : (d.put F.RAIL_IN_FLIGHT [r] 0).reportNow ⟨0x16, 6, 0, none, 0, r⟩ = rep
  have hcode : rep.code = 0x16 := by rw [← hrep]; rfl
  obtain ⟨b1, b2, -, -, -, -, -, -, -, -, b11⟩ := fault_stops (railDown d r) rep 0 [] (by rw [s1.get F.WARDEN_MODE [] (by decide)]; omega)
    (to_of_reactionOf (by rw [hcode]; decide) (by decide))
  rw [hcode, s1.get F.FAULT_COUNT [0x16] (by decide)] at b1
  exact ⟨b1, b2, b11.trans s2⟩

end Sys2Proof
end

section
/-! SUPPORT. Temperatures and their floors, and the power cap (18 R665, R666). -/

namespace Sys2Proof

open Machine

/-! ### Floors -/

theorem b2n_fits (b : Bool) {n : Nat} (hn : 0 < n) : b2n b < 2 ^ n := lt_of_lt_of_le (b2n_lt b) (Nat.pow_le_pow_right (by decide) hn)

/-- Is a crest die floored to Trim, by its temperature or by the cap? -/
def floorWanted (s : Dev) (d : Nat) : Bool := Tab.get false s.pwr.thermal d || Tab.get false s.pwr.capped d

/-- A floor that changes, with no transition under way: the die goes to Trim, or back to the Run that was asked for. -/
theorem fixFloor_rest (s : Dev) {d st : Nat} (hr : AtRest s d st) (hne : s.get F.DOM_FLOOR [d] ≠ b2n (floorWanted s d)) :
    s.fixFloor d = if floorWanted s d then
        (if st = stRun then (s.put F.DOM_FLOOR [d] 1).beginMove d stTrim else s.put F.DOM_FLOOR [d] 1)
      else if st = stTrim ∧ s.get F.DOM_REQUESTED [d] = stRun then (s.put F.DOM_FLOOR [d] 0).beginMove d stRun
      else s.put F.DOM_FLOOR [d] 0 := by
  obtain ⟨r1, -, r3, -⟩ := hr
  have hg : ∀ v, (s.put F.DOM_FLOOR [d] v).get F.DOM_STATE [d] = st ∧
      (s.put F.DOM_FLOOR [d] v).get F.DOM_REQUESTED [d] = s.get F.DOM_REQUESTED [d] := fun v =>
    ⟨by rw [Dev.get_put_apart _ _ (apart_of_bits (by decide) (by decide)), r1], Dev.get_put_apart _ _ (apart_of_bits (by decide) (by decide))⟩
  have hf : ∀ v, Tab.get none (s.put F.DOM_FLOOR [d] v).pwr.flight d = none := fun v => r3
  unfold Dev.fixFloor
  extract_lets new s' st' pend req
  have hnew : new = b2n (floorWanted s d) := rfl
  rw [if_neg (by rw [hnew]; exact hne)]
  have hs' : s' = s.put F.DOM_FLOOR [d] (b2n (floorWanted s d)) := rfl
  have hst : st' = st := (hg new).1
  have hreq : req = s.get F.DOM_REQUESTED [d] := (hg new).2
  have hfl : Tab.get none s'.pwr.flight d = none := hf new
  clear_value new s' st' pend req
  rw [hfl]
  subst hnew hst hreq
  rw [hs']
  cases floorWanted s d <;> rfl

theorem domMoves_fixFloor (s : Dev) (d : Nat) : DomMoves d s (s.fixFloor d) := by
  unfold Dev.fixFloor
  extract_lets new s' st pend req
  have h1 : DomMoves d s s' := domMoves_put s (f := F.DOM_FLOOR) (by simp [domFields]) new
  have hp : ∀ v, DomMoves d s (s'.put F.DOM_PENDING [d] v) := fun v =>
    domMoves_trans h1 (domMoves_put s' (f := F.DOM_PENDING) (by simp [domFields]) v)
  have hb : ∀ t, DomMoves d s (s'.beginMove d t) := fun t => domMoves_trans h1 (domMoves_beginMove s' d t)
  clear_value s'
  split
  · exact domMoves_refl d s
  · split <;> split_ifs
    · exact hp _
    · exact h1
    · exact hp _
    · exact h1
    · exact hb _
    · exact h1
    · exact hb _
    · exact h1

theorem fixFloor_floor (s : Dev) {d : Nat} (hd : d < 12) : (s.fixFloor d).get F.DOM_FLOOR [d] = b2n (floorWanted s d) := by
  unfold Dev.fixFloor
  extract_lets new s' st pend req
  have hnew : new = b2n (floorWanted s d) := rfl
  have h1 : s'.get F.DOM_FLOOR [d] = new := Dev.get_put_fit _ (by decide) (by rw [hnew]; exact b2n_fits _ (by decide))
  have hp : ∀ v, (s'.put F.DOM_PENDING [d] v).get F.DOM_FLOOR [d] = new := fun v => by
    rw [Dev.get_put_apart _ _ (apart_of_bits (by decide) (by decide)), h1]
  have hb : ∀ t, (s'.beginMove d t).get F.DOM_FLOOR [d] = new := fun t => by
    rw [beginMove_get s' t hd (by simp [domFields]) (apart_of_bits (by decide) (by decide)), h1]
  clear_value s'
  rw [← hnew]
  split
  · assumption
  · split <;> split_ifs
    · exact hp _
    · exact h1
    · exact hp _
    · exact h1
    · exact hb _
    · exact h1
    · exact hb _
    · exact h1

/-! ### Temperatures -/

theorem temp_off (d : Nat) : F.TEMP.off [d] = 0x3A00090 + 4 * d := by simp [Fld.off]

/-- The registers that a wake of MGMT leaves. -/
theorem wakeMgmt_stands (s : Dev) : Stands (fun off => off < 0x3A01000 ∧ off ≠ 0x3A00014 ∧ off ≠ 0x3A00040) s (s.wake 8 false) :=
  fun off ho => (domMoves_wake s 8 false).2.1 off (by omega) ho.2.1 (by unfold isRail; omega)

/-- Registers and PF messages alone leave what a domain's floor hangs on. -/
theorem wakeKept_regs {x : Nat} {a b : Dev} (h : OnlyRegsIrq a b) (hx : x < 12)
    (hs : Stands (fun off => 0x3A00020 ≤ off ∧ off < 0x3A00050 ∨ off = 0x3800000 ∨ off = 0x3A0000C) a b) : WakeKept x a b := by
  refine ⟨fun g hg => hs.get g [x] (by rw [dom_off hg]; omega), ?_, hs.get _ _ (by decide), hs.get _ _ (by decide), ?_, ?_, ?_⟩ <;> rw [h]

theorem thermal_hot {d : Dev} {die temp : Nat} (hp : Powered d) (hd : die < 6) (ht : temp < 256) (hth : d.get F.THERM_THROTTLE ≤ temp)
    (hf : d.get F.DOM_FLOOR [die] = 0) (hr : AtRest d die stRun) : Gives (.thermalThreshold die temp) d fun e =>
      e.get F.TEMP [die] = temp ∧ e.get F.THROTTLED = 1 ∧ e.get F.DOM_FLOOR [die] = 1 ∧ Moving die stTrim d e ∧
      (d.get F.THERM_WARN ≤ temp → e.get F.THERM_WARN_EV = 1) ∧ e.mem = d.mem ∧ e.hostMem = d.hostMem := by
  refine gives_of_onDev (·.thermal die temp) (fun _ => rfl) hp ?_
  have hd12 : die < 12 := by omega
  obtain ⟨s1, h1⟩ : ∃ s1, s1 = d.put F.TEMP [die] temp := ⟨_, rfl⟩
  obtain ⟨s2, h2⟩ : ∃ s2, s2 = s1.wake 8 false := ⟨_, rfl⟩
  obtain ⟨s3, h3⟩ : ∃ s3, s3 = if s2.get F.THERM_WARN ≤ temp then s2.pwrEvent F.THERM_WARN_EV 2 else s2 := ⟨_, rfl⟩
  obtain ⟨s4, h4⟩ : ∃ s4, s4 = s3.updPwr fun p => { p with thermal := Tab.set false p.thermal die true } := ⟨_, rfl⟩
  obtain ⟨s5, h5⟩ : ∃ s5, s5 = if s4.flag F.THROTTLED then s4 else s4.pwrEvent F.THROTTLED 3 := ⟨_, rfl⟩
  -- registers
  have k1 : Stands (fun off => off ≠ F.TEMP.off [die]) d s1 := by rw [h1]; exact stands_put d temp (fun h => h rfl)
  have k2 : Stands (fun off => off < 0x3A01000 ∧ off ≠ 0x3A00014 ∧ off ≠ 0x3A00040) s1 s2 := by rw [h2]; exact wakeMgmt_stands s1
  have k3 : OnlyFields [(F.THERM_WARN_EV, [])] s2 s3 ∧ OnlyRegsIrq s2 s3 := by
    rw [h3]
    split
    · exact ⟨onlyFields_event _ _ _ (onlyFields_refl _ _) (by simp), onlyRegsIrq_event _ _ _ _ _⟩
    · exact ⟨onlyFields_refl _ _, onlyRegsIrq_refl s2⟩
  have k4 : s4.regs = s3.regs := by rw [h4]; rfl
  have k5 : OnlyFields [(F.THROTTLED, [])] s4 s5 ∧ OnlyRegsIrq s4 s5 ∧ s5.get F.THROTTLED = 1 := by
    rw [h5]
    split
    · rename_i hfl
      exact ⟨onlyFields_refl _ _, onlyRegsIrq_refl s4, by simpa [Dev.flag] using hfl⟩
    · exact ⟨onlyFields_event _ _ _ (onlyFields_refl _ _) (by simp), onlyRegsIrq_event _ _ _ _ _, Dev.get_event_same _ _ _ _ (by decide) (by decide)⟩
  have g2 : ∀ g, g.off [] < 0x3A00090 → g.off [] ≠ 0x3A00014 → g.off [] ≠ 0x3A00040 → s2.get g = d.get g := fun g ha hb hc => by
    rw [k2.get g [] (by omega), k1.get g [] (by rw [temp_off]; omega)]
  have hthr : s3.get F.THERM_THROTTLE = d.get F.THERM_THROTTLE := by
    rw [k3.1.get _ _ (by decide), g2 _ (by decide) (by decide) (by decide)]
  have hwarn : s2.get F.THERM_WARN = d.get F.THERM_WARN := g2 _ (by decide) (by decide) (by decide)
  have hw1 : s1.get F.THERM_THROTTLE = d.get F.THERM_THROTTLE := k1.get F.THERM_THROTTLE [] (by rw [temp_off]; simp [Fld.off]; omega)
  have he : d.thermal die temp = s5.fixFloor die := by
    rw [Dev.thermal, if_neg (by omega)]
    dsimp only
    have hc : s1.get F.THERM_WARN ≤ temp ∨ s1.get F.THERM_THROTTLE ≤ temp := .inr (by rw [hw1]; exact hth)
    rw [← h1, if_pos hc, ← h2, ← h3, if_pos ⟨hd, by rw [hthr]; exact hth⟩, ← h4, ← h5]
  -- the domain
  have w1 : WakeKept die d s1 := wakeKept_regs (by rw [h1]; exact (onlyRegs_put d _ _ _).irq) hd12 (stands_mono k1 fun off ho => by rw [temp_off]; omega)
  have w2 : WakeKept die s1 s2 := by rw [h2]; exact (domMoves_wake s1 8 false).wakeKept hd12 (by decide) (by omega)
  have w3 : WakeKept die s2 s3 := wakeKept_regs k3.2 hd12 (k3.1.stands (by simp [Fld.off]))
  have w4 : WakeKept die s3 s4 := by
    rw [h4]; exact wakeKept_refl die s3
  have w5 : WakeKept die s4 s5 := wakeKept_regs k5.2.1 hd12 (k5.1.stands (by simp [Fld.off]))
  have w := wakeKept_trans w1 (wakeKept_trans w2 (wakeKept_trans w3 (wakeKept_trans w4 w5)))
  have hwant : floorWanted s5 die = true := by
    have : s5.pwr = s4.pwr := by rw [k5.2.1]
    unfold floorWanted
    rw [this, h4, show (s3.updPwr fun p => { p with thermal := Tab.set false p.thermal die true }).pwr.thermal = Tab.set false s3.pwr.thermal die true from rfl,
      Tab.get_set_same]
    rfl
  have hrest := w.atRest hr
  have hfl5 : s5.get F.DOM_FLOOR [die] = 0 := (w.1 _ (by simp [domFields])).trans hf
  have hfix : s5.fixFloor die = (s5.put F.DOM_FLOOR [die] 1).beginMove die stTrim := by
    rw [fixFloor_rest s5 hrest (by rw [hfl5, hwant]; decide), if_pos hwant, if_pos rfl]
  have hdm := domMoves_fixFloor s5 die
  have hfloor := fixFloor_floor s5 hd12
  have htemp : s5.get F.TEMP [die] = temp := by
    have ha : ∀ f : Fld, f.off [] = 0x3A00000 → ∀ x ∈ [(f, ([] : List Nat))], Fld.apart x.1 x.2 F.TEMP [die] = true := fun f hf x hx => by
      rw [List.mem_singleton] at hx
      subst hx
      exact apart_of_off (by rw [temp_off, hf]; omega) (by decide)
    rw [k5.1.get _ _ (ha _ (by decide)), Dev.get_eq, k4, ← Dev.get_eq, k3.1.get _ _ (ha _ (by decide)), k2.get F.TEMP [die] (by rw [temp_off]; omega), h1]
    exact Dev.get_put_fit _ (by decide) ht
  rw [he]
  refine ⟨?_, ?_, by rw [hfloor, hwant]; rfl, ?_, fun hwt => ?_, ?_, ?_⟩
  · rw [hdm.get hd12 (by rw [temp_off]; omega), htemp]
  · rw [hdm.get hd12 (by decide), k5.2.2]
  · rw [hfix]
    obtain ⟨m1, m2, m3⟩ := beginMove_moving (s5.put F.DOM_FLOOR [die] 1) stTrim hd12
    refine ⟨m1, m2, m3.trans ?_⟩
    rw [Dev.get_put_apart _ _ (apart_of_bits (by decide) (by decide))]
    exact w.1 _ (by simp [domFields])
  · have : s3.get F.THERM_WARN_EV = 1 := by
      rw [h3, if_pos (by rw [hwarn]; exact hwt)]
      exact Dev.get_event_same _ _ _ _ (by decide) (by decide)
    rw [hdm.get hd12 (by decide), k5.1.get _ _ (by decide), Dev.get_eq, k4, ← Dev.get_eq, this]
  · exact hdm.mem.1.trans w.2.2.2.2.2.1
  · exact hdm.mem.2.trans w.2.2.2.2.2.2

theorem thermal_cool {d : Dev} {die temp : Nat} (hp : Powered d) (hd : die < 6) (ht : temp < 256) (hw : temp < d.get F.THERM_WARN)
    (hth : temp < d.get F.THERM_THROTTLE) : Gives (.thermalThreshold die temp) d fun e =>
      e.get F.TEMP [die] = temp ∧ OnlyFields [(F.TEMP, [die])] d e ∧ OnlyRegs d e := by
  refine gives_of_onDev (·.thermal die temp) (fun _ => rfl) hp ?_
  have k1 : Stands (fun off => off ≠ F.TEMP.off [die]) d (d.put F.TEMP [die] temp) := stands_put d temp (fun h => h rfl)
  have g1 : ∀ g ∈ [F.THERM_WARN, F.THERM_THROTTLE], (d.put F.TEMP [die] temp).get g = d.get g := fun g hg => by
    refine k1.get g [] ?_
    have : g.off [] < 0x3A00090 := by revert g; decide
    rw [temp_off]; omega
  have he : d.thermal die temp = d.put F.TEMP [die] temp := by
    rw [Dev.thermal, if_neg (by omega)]
    dsimp only
    have hw' := g1 F.THERM_WARN (by simp)
    have ht' := g1 F.THERM_THROTTLE (by simp)
    generalize d.put F.TEMP [die] temp = s1 at hw' ht' ⊢
    have hc : ¬(s1.get F.THERM_WARN ≤ temp ∨ s1.get F.THERM_THROTTLE ≤ temp) := by omega
    have hc' : ¬(s1.get F.THERM_WARN ≤ temp) := by omega
    have hc'' : ¬(die < 6 ∧ s1.get F.THERM_THROTTLE ≤ temp) := by omega
    rw [if_neg hc, if_neg hc', if_neg hc'']
  rw [he]
  exact ⟨Dev.get_put_fit _ (by decide) ht, onlyFields_put _ (onlyFields_refl _ _) (by simp), onlyRegs_put _ _ _ _⟩

theorem throttle_release {d : Dev} {die temp : Nat} (hp : Powered d) (hd : die < 6) (ht : temp < 256) (hth : temp + 5 < d.get F.THERM_THROTTLE)
    (hf : d.get F.DOM_FLOOR [die] = 1) (hc : Tab.get false d.pwr.capped die = false) (hr : AtRest d die stTrim)
    (hq : d.get F.DOM_REQUESTED [die] = stRun) : Gives (.throttleRelease die temp) d fun e =>
      e.get F.TEMP [die] = temp ∧ e.get F.DOM_FLOOR [die] = 0 ∧ Moving die stRun d e ∧
      Tab.get false e.pwr.thermal die = false ∧ e.mem = d.mem ∧ e.hostMem = d.hostMem := by
  refine gives_of_onDev (·.throttleRelease die temp) (fun _ => rfl) hp ?_
  have hd12 : die < 12 := by omega
  obtain ⟨s1, h1⟩ : ∃ s1, s1 = d.put F.TEMP [die] temp := ⟨_, rfl⟩
  obtain ⟨s2, h2⟩ : ∃ s2, s2 = s1.updPwr fun p => { p with thermal := Tab.set false p.thermal die false } := ⟨_, rfl⟩
  obtain ⟨s3, h3⟩ : ∃ s3, s3 = s2.put0 F.THROTTLED (b2n (!s2.pwr.thermal.isEmpty)) := ⟨_, rfl⟩
  have k1 : Stands (fun off => off ≠ F.TEMP.off [die]) d s1 := by rw [h1]; exact stands_put d temp (fun h => h rfl)
  have k3 : Stands (fun off => off ≠ 0x3A00000) s2 s3 := by rw [h3]; exact stands_put0 s2 _ (by decide)
  have hthr : s1.get F.THERM_THROTTLE = d.get F.THERM_THROTTLE := k1.get F.THERM_THROTTLE [] (by rw [temp_off]; simp [Fld.off]; omega)
  have he : d.throttleRelease die temp = s3.fixFloor die := by
    rw [Dev.throttleRelease, if_neg (by omega)]
    dsimp only
    rw [← h1, if_pos (by rw [hthr]; omega), ← h2, ← h3]
  have w1 : WakeKept die d s1 := wakeKept_regs (by rw [h1]; exact (onlyRegs_put d _ _ _).irq) hd12 (stands_mono k1 fun off ho => by rw [temp_off]; omega)
  have w2 : WakeKept die s1 s2 := by rw [h2]; exact wakeKept_refl die s1
  have w3 : WakeKept die s2 s3 := wakeKept_regs (by rw [h3]; exact (onlyRegs_put0 s2 _ _).irq) hd12 (stands_mono k3 fun off ho => by omega)
  have w := wakeKept_trans w1 (wakeKept_trans w2 w3)
  have hp3 : s3.pwr = { d.pwr with thermal := Tab.set false d.pwr.thermal die false } := by rw [h3, h2, h1]; rfl
  have hth3 : Tab.get false s3.pwr.thermal die = false := by rw [hp3]; exact Tab.get_set_same false d.pwr.thermal die false
  have hwant : floorWanted s3 die = false := by
    have hcap : s3.pwr.capped = d.pwr.capped := by rw [hp3]
    unfold floorWanted
    rw [hth3, hcap, hc]
    rfl
  have hfl3 : s3.get F.DOM_FLOOR [die] = 1 := (w.1 _ (by simp [domFields])).trans hf
  have hfix : s3.fixFloor die = (s3.put F.DOM_FLOOR [die] 0).beginMove die stRun := by
    rw [fixFloor_rest s3 (w.atRest hr) (by rw [hfl3, hwant]; decide), if_neg (by rw [hwant]; decide),
      if_pos ⟨rfl, (w.1 _ (by simp [domFields])).trans hq⟩]
  have hdm := domMoves_fixFloor s3 die
  have hfloor := fixFloor_floor s3 hd12
  rw [he]
  refine ⟨?_, by rw [hfloor, hwant]; rfl, ?_, ?_, hdm.mem.1.trans w.2.2.2.2.2.1, hdm.mem.2.trans w.2.2.2.2.2.2⟩
  · rw [hdm.get hd12 (by rw [temp_off]; omega), k3.get F.TEMP [die] (by rw [temp_off]; omega), h2,
      show (s1.updPwr fun p => { p with thermal := Tab.set false p.thermal die false }).get F.TEMP [die] = s1.get F.TEMP [die] from rfl, h1]
    exact Dev.get_put_fit _ (by decide) ht
  · rw [hfix]
    obtain ⟨m1, m2, m3⟩ := beginMove_moving (s3.put F.DOM_FLOOR [die] 0) stRun hd12
    refine ⟨m1, m2, m3.trans ?_⟩
    rw [Dev.get_put_apart _ _ (apart_of_bits (by decide) (by decide))]
    exact w.1 _ (by simp [domFields])
  · have : (s3.fixFloor die).pwr.thermal = s3.pwr.thermal := by rw [hdm.1]
    rw [this, hth3]

end Sys2Proof
end

section
/-! SUPPORT. Thermal trips and the power cap (18 R665, R666). -/

namespace Sys2Proof

open Machine

/-! ### Trips -/

theorem thermalTrip_eq (d : Dev) {die : Nat} (hd : die < 8) : d.thermalTrip die = ((d.put F.TEMP [die] 110).wake 8 false).fault
    (d.reportNow ⟨if die < 6 then 0x12 else if die = 6 then 0x14 else 0x13, die, 0, none, 0, 0⟩) 0 [] := by
  rw [Dev.thermalTrip, if_neg (by omega)]

/-- The die's temperature at its trip, MGMT woken. -/
theorem tripped_reads (d : Dev) {die : Nat} (hd : die < 8) :
    ((d.put F.TEMP [die] 110).wake 8 false).get F.TEMP [die] = 110 ∧
    Stands (fun off => off < 0x3A00000) d ((d.put F.TEMP [die] 110).wake 8 false) ∧
    ((d.put F.TEMP [die] 110).wake 8 false).hostMem = d.hostMem := by
  have hw := wakeMgmt_stands (d.put F.TEMP [die] 110)
  refine ⟨?_, stands_trans (stands_put d 110 (by rw [temp_off]; omega)) (stands_mono hw fun off ho => by omega),
    (domMoves_wake (d.put F.TEMP [die] 110) 8 false).mem.2⟩
  rw [hw.get F.TEMP [die] (by rw [temp_off]; omega)]
  exact Dev.get_put_fit _ (by decide) (by decide)

theorem trip_die {d : Dev} {die : Nat} (hp : Powered d) (hm : d.get F.WARDEN_MODE < 2) (hd : die < 6) (hpr : d.diePresent die = true)
    (hl : d.dieIsLost die = false) : Gives (.thermalTrip die) d fun e => e.get F.TEMP [die] = 110 ∧ e.dieIsLost die = true := by
  refine gives_of_onDev (·.thermalTrip die) (fun _ => rfl) hp ?_
  obtain ⟨t1, t2, -⟩ := tripped_reads d (die := die) (by omega)
  rw [thermalTrip_eq d (by omega), if_pos hd]
  generalize (d.put F.TEMP [die] 110).wake 8 false = s at t1 t2 ⊢
  generalize hrep : d.reportNow ⟨0x12, die, 0, none, 0, 0⟩ = rep
  have hcode : rep.code = 0x12 := by rw [← hrep]; rfl
  have hld : rep.lostDie = die := by rw [← hrep]; rfl
  have hto : s.reactionTo rep = some 2 := by
    unfold Dev.reactionTo
    rw [hcode, hld, show reactionOf 0x12 = some 2 by decide]
    change (if die = 6 ∨ (die = 7 ∧ s.pairHasWC = true) then some 3 else some 2) = some 2
    rw [if_neg (by omega)]
  obtain ⟨-, f2, f3, -⟩ := fault_loses s (core := 0) (qs := []) (by rw [t2.get F.WARDEN_MODE [] (by decide)]; exact hm) hto
    (by rw [hld]; unfold Dev.diePresent at hpr ⊢; rw [t2.get F.DIE_PRESENT [] (by decide)]; exact hpr)
    (by rw [hld]; unfold Dev.dieIsLost at hl ⊢; rw [t2.get F.DIE_LOST [] (by decide)]; exact hl)
  rw [hld] at f2
  exact ⟨(f3.get F.TEMP [die] (by rw [temp_off]; omega)).trans t1, f2⟩

theorem trip_unit {d : Dev} (hp : Powered d) (hm : d.get F.WARDEN_MODE < 2) : Gives (.thermalTrip 6) d fun e =>
    e.get F.TEMP [6] = 110 ∧ e.get F.WARDEN_MODE = 2 ∧ e.hostMem = d.hostMem := by
  refine gives_of_onDev (·.thermalTrip 6) (fun _ => rfl) hp ?_
  obtain ⟨t1, t2, t3⟩ := tripped_reads d (die := 6) (by omega)
  rw [thermalTrip_eq d (by omega), if_neg (by decide), if_pos rfl]
  generalize (d.put F.TEMP [6] 110).wake 8 false = s at t1 t2 t3 ⊢
  generalize hrep : d.reportNow ⟨0x14, 6, 0, none, 0, 0⟩ = rep
  have hcode : rep.code = 0x14 := by rw [← hrep]; rfl
  obtain ⟨⟨-, b2, -, -, -, -, -, -, -, -, b11⟩, k⟩ := fault_stops_reads s rep 0 [] (by rw [t2.get F.WARDEN_MODE [] (by decide)]; omega)
    (to_of_reactionOf (by rw [hcode]; decide) (by decide))
  exact ⟨(k.get F.TEMP [6] (by unfold isCount; decide)).trans t1, b2, b11.trans t3⟩

/-! ### Budgets -/

theorem budget_off (x : Nat) : F.SC_BUDGET.off [x] = 0x2100000 + 0x400000 * x := by simp [Fld.off]

theorem budget_apart {x y : Nat} (h : y ≠ x) : Fld.apart F.SC_BUDGET [x] F.SC_BUDGET [y] = true :=
  apart_of_off (by rw [budget_off, budget_off]; omega) (by decide)

/-- A walk that writes each crest die's budget, from its old value. -/
theorem budgets_walk (h : Nat → Nat → Nat) (f : Dev → Nat → Dev) (hf : ∀ s x, (f s x).get F.SC_BUDGET [x] = h x (s.get F.SC_BUDGET [x]) ∧
      (∀ y, y ≠ x → (f s x).get F.SC_BUDGET [y] = s.get F.SC_BUDGET [y]) ∧ OnlyRegs s (f s x) ∧
      Stands (fun off => ∀ y, off ≠ F.SC_BUDGET.off [y]) s (f s x)) (n : Nat) (s : Dev) :
    (∀ x, (s.forEach (List.range n) f).get F.SC_BUDGET [x] = if x < n then h x (s.get F.SC_BUDGET [x]) else s.get F.SC_BUDGET [x]) ∧
    OnlyRegs s (s.forEach (List.range n) f) ∧ Stands (fun off => ∀ y, off ≠ F.SC_BUDGET.off [y]) s (s.forEach (List.range n) f) := by
  induction n with
  | zero => exact ⟨fun x => by rw [if_neg (by omega)]; rfl, onlyRegs_refl s, stands_refl _ s⟩
  | succ n ih =>
    have he : s.forEach (List.range (n + 1)) f = f (s.forEach (List.range n) f) n := by
      rw [Dev.forEach, List.range_succ, List.foldl_append]; rfl
    obtain ⟨i1, i2, i3⟩ := ih
    rw [he]
    generalize s.forEach (List.range n) f = a at i1 i2 i3 ⊢
    obtain ⟨f1, f2, f3, f4⟩ := hf a n
    refine ⟨fun x => ?_, onlyRegs_trans i2 f3, stands_trans i3 f4⟩
    by_cases hx : x = n
    · subst hx
      rw [f1, i1, if_neg (by omega), if_pos (by omega)]
    · rw [f2 x hx, i1]
      by_cases hlt : x < n
      · rw [if_pos hlt, if_pos (by omega)]
      · rw [if_neg hlt, if_neg (by omega)]

theorem budget_put (s : Dev) (x v : Nat) : (s.put F.SC_BUDGET [x] v).get F.SC_BUDGET [x] = v % 2 ^ 14 ∧
    (∀ y, y ≠ x → (s.put F.SC_BUDGET [x] v).get F.SC_BUDGET [y] = s.get F.SC_BUDGET [y]) ∧ OnlyRegs s (s.put F.SC_BUDGET [x] v) ∧
    Stands (fun off => ∀ y, off ≠ F.SC_BUDGET.off [y]) s (s.put F.SC_BUDGET [x] v) :=
  ⟨get_put_mod _ _ _ _ (by decide), fun _ hy => Dev.get_put_apart _ _ (budget_apart hy), onlyRegs_put _ _ _ _, stands_put s v (fun h => h x rfl)⟩

/-- A budget halved, but not below 1,024. -/
def halvedBudget (b : Nat) : Nat := if 1024 < b then max 1024 (b / 2) else b

theorem budget_halve (s : Dev) (x : Nat) :
    let e := if 1024 < s.get F.SC_BUDGET [x] then s.put F.SC_BUDGET [x] (max 1024 (s.get F.SC_BUDGET [x] / 2)) else s
    e.get F.SC_BUDGET [x] = halvedBudget (s.get F.SC_BUDGET [x]) ∧
    (∀ y, y ≠ x → e.get F.SC_BUDGET [y] = s.get F.SC_BUDGET [y]) ∧ OnlyRegs s e ∧ Stands (fun off => ∀ y, off ≠ F.SC_BUDGET.off [y]) s e := by
  intro e
  have hb : s.get F.SC_BUDGET [x] < 2 ^ 14 := bitsOf_lt _ _ _
  unfold halvedBudget
  by_cases h : 1024 < s.get F.SC_BUDGET [x]
  · have he : e = s.put F.SC_BUDGET [x] (max 1024 (s.get F.SC_BUDGET [x] / 2)) := if_pos h
    obtain ⟨p1, p2, p3, p4⟩ := budget_put s x (max 1024 (s.get F.SC_BUDGET [x] / 2))
    rw [he, if_pos h]
    refine ⟨?_, p2, p3, p4⟩
    rw [p1, Nat.mod_eq_of_lt (by omega)]
  · have he : e = s := if_neg h
    rw [he, if_neg h]
    exact ⟨rfl, fun _ _ => rfl, onlyRegs_refl s, stands_refl _ s⟩

/-! ### Steps of the cap -/

/-- CAP_ACTIVE while a step is in force. -/
theorem fixCap_reads (s : Dev) : OnlyFields [(F.CAP_ACTIVE, [])] s s.fixCap ∧ OnlyRegsIrq s s.fixCap ∧
    s.fixCap.get F.CAP_ACTIVE = if s.pwr.halved.isEmpty && s.pwr.capped.isEmpty then 0 else 1 := by
  unfold Dev.fixCap
  split
  · exact ⟨onlyFields_put0 _ (onlyFields_refl _ _) (by simp), (onlyRegs_put0 _ _ _).irq, Dev.get_put0_fit _ (by decide) (by decide)⟩
  · split
    · rename_i h
      exact ⟨onlyFields_refl _ _, onlyRegsIrq_refl s, by simpa [Dev.flag] using h⟩
    · exact ⟨onlyFields_event _ _ _ (onlyFields_refl _ _) (by simp), onlyRegsIrq_event _ _ _ _ _, Dev.get_event_same _ _ _ _ (by decide) (by decide)⟩

/-- The estimate as it is shown. -/
theorem estimate_reads (d : Dev) (w : Nat) : (d.put0 F.PWR_NOW_W (min w 65535)).get F.PWR_NOW_W = min w 65535 ∧
    Stands (fun off => off ≠ 0x3A00070) d (d.put0 F.PWR_NOW_W (min w 65535)) ∧ OnlyRegs d (d.put0 F.PWR_NOW_W (min w 65535)) ∧
    OnlyFields [(F.PWR_NOW_W, [])] d (d.put0 F.PWR_NOW_W (min w 65535)) :=
  ⟨Dev.get_put0_fit _ (by decide) (show min w 65535 < 2 ^ 16 by omega), stands_put0 d _ (by decide), onlyRegs_put0 _ _ _, onlyFields_put0 _ (onlyFields_refl _ _) (by simp)⟩

theorem budgets_congr {a b : Dev} (h : ∀ x, b.get F.SC_BUDGET [x] = a.get F.SC_BUDGET [x]) : b.budgets = a.budgets := by
  unfold Dev.budgets
  exact List.map_congr_left fun x _ => h x

theorem anyBudget (s : Dev) : (s.budgets.any fun b => decide (1024 < b)) = true ↔ ∃ x < 6, 1024 < s.get F.SC_BUDGET [x] := by
  unfold Dev.budgets
  rw [List.any_map, List.any_eq_true]
  simp

theorem cap_step {d : Dev} {w avg : Nat} (undo : Bool) (hp : Powered d) (h0 : d.get F.PWR_CAP_W ≠ 0) (h1 : d.get F.PWR_CAP_W < avg)
    (hx : ∃ x < 6, 1024 < d.get F.SC_BUDGET [x]) : Gives (.capEstimate w avg true undo) d fun e =>
        e.get F.PWR_NOW_W = min w 65535 ∧ e.get F.CAP_ACTIVE = 1 ∧ (∀ x < 6, e.get F.SC_BUDGET [x] =
          if 1024 < d.get F.SC_BUDGET [x] then max 1024 (d.get F.SC_BUDGET [x] / 2) else d.get F.SC_BUDGET [x]) ∧
        e.pwr = { d.pwr with halved := d.budgets :: d.pwr.halved } ∧ e.mem = d.mem ∧ e.hostMem = d.hostMem := by
  refine gives_of_onDev (·.capEstimate w avg true undo) (fun _ => rfl) hp ?_
  obtain ⟨e1, e2, e3, -⟩ := estimate_reads d w
  obtain ⟨s1, hs1⟩ : ∃ s1, s1 = d.put0 F.PWR_NOW_W (min w 65535) := ⟨_, rfl⟩
  rw [← hs1] at e1 e2 e3
  have hcap : s1.get F.PWR_CAP_W = d.get F.PWR_CAP_W := e2.get F.PWR_CAP_W [] (by decide)
  have hbud : ∀ x, s1.get F.SC_BUDGET [x] = d.get F.SC_BUDGET [x] := fun x => e2.get F.SC_BUDGET [x] (by rw [budget_off]; omega)
  have hstep : d.capEstimate w avg true undo = s1.capStep := by
    rw [Dev.capEstimate, ← hs1, hcap, if_pos ⟨h0, h1, rfl⟩]
  have hany : (s1.budgets.any fun b => decide (1024 < b)) = true := by
    rw [budgets_congr hbud]; exact (anyBudget d).2 hx
  obtain ⟨w1, w2, w3⟩ := budgets_walk (fun _ b => halvedBudget b) (fun s x =>
    if 1024 < s.get F.SC_BUDGET [x] then s.put F.SC_BUDGET [x] (max 1024 (s.get F.SC_BUDGET [x] / 2)) else s) budget_halve 6 s1
  obtain ⟨s2, hs2⟩ : ∃ s2, s2 = s1.forEach (List.range 6) fun s x =>
    if 1024 < s.get F.SC_BUDGET [x] then s.put F.SC_BUDGET [x] (max 1024 (s.get F.SC_BUDGET [x] / 2)) else s := ⟨_, rfl⟩
  obtain ⟨s3, hs3⟩ : ∃ s3, s3 = s2.updPwr fun p => { p with halved := s1.budgets :: p.halved } := ⟨_, rfl⟩
  have hcs : s1.capStep = s3.fixCap := by
    rw [Dev.capStep, if_pos hany, hs3, hs2]
  rw [← hs2] at w1 w2 w3
  have h3r : s3.regs = s2.regs := by rw [hs3]; rfl
  obtain ⟨f1, f2, f3⟩ := fixCap_reads s3
  have hpwr : s3.pwr = { d.pwr with halved := d.budgets :: d.pwr.halved } := by
    have h2p : s2.pwr = d.pwr := by rw [w2, e3]
    rw [hs3, ← budgets_congr hbud]
    change ({ s2.pwr with halved := s1.budgets :: s2.pwr.halved } : Pwr) = _
    rw [h2p]
  have hmem : s3.mem = d.mem ∧ s3.hostMem = d.hostMem := by
    rw [hs3]
    exact ⟨w2.mem.1.trans e3.mem.1, w2.mem.2.trans e3.mem.2⟩
  have hb : ∀ x, s3.fixCap.get F.SC_BUDGET [x] = s2.get F.SC_BUDGET [x] := fun x => by
    rw [f1.get F.SC_BUDGET [x] (fun y hy => by
      rw [List.mem_singleton] at hy
      subst hy
      exact apart_of_off (by rw [budget_off]; simp [Fld.off]; omega) (by decide)), Dev.get_eq, h3r, ← Dev.get_eq]
  rw [hstep, hcs]
  refine ⟨?_, ?_, fun x hx6 => ?_, ?_, ?_, ?_⟩
  · rw [f1.get F.PWR_NOW_W [] (by decide), Dev.get_eq, h3r, ← Dev.get_eq, w3.get F.PWR_NOW_W [] (fun y => by rw [budget_off]; simp [Fld.off]; omega), e1]
  · rw [f3, hpwr]; rfl
  · rw [hb, w1, if_pos hx6, hbud]; rfl
  · have : s3.fixCap.pwr = s3.pwr := by rw [f2]
    rw [this, hpwr]
  · exact f2.mem.1.trans hmem.1
  · exact f2.mem.2.trans hmem.2

theorem Tab.isEmpty_of_get {α : Type} {d : α} {t : Tab α} {k : Nat} (h : Tab.get d t k ≠ d) : t.isEmpty = false := by
  cases t with
  | nil => exact absurd rfl h
  | cons e t => rfl

theorem cap_floor {d : Dev} {w avg : Nat} (undo : Bool) (hp : Powered d) (h0 : d.get F.PWR_CAP_W ≠ 0) (h1 : d.get F.PWR_CAP_W < avg)
    (hx : ∀ x < 6, d.get F.SC_BUDGET [x] ≤ 1024) (hg : d.dieGone 5 = false) (hc : Tab.get false d.pwr.capped 5 = false) :
    Gives (.capEstimate w avg true undo) d fun e =>
        Tab.get false e.pwr.capped 5 = true ∧ e.get F.DOM_FLOOR [5] = 1 ∧ e.get F.CAP_ACTIVE = 1 ∧ e.mem = d.mem ∧ e.hostMem = d.hostMem := by
  refine gives_of_onDev (·.capEstimate w avg true undo) (fun _ => rfl) hp ?_
  obtain ⟨-, e2, e3, -⟩ := estimate_reads d w
  obtain ⟨s1, hs1⟩ : ∃ s1, s1 = d.put0 F.PWR_NOW_W (min w 65535) := ⟨_, rfl⟩
  rw [← hs1] at e2 e3
  have hcap : s1.get F.PWR_CAP_W = d.get F.PWR_CAP_W := e2.get F.PWR_CAP_W [] (by decide)
  have hbud : ∀ x, s1.get F.SC_BUDGET [x] = d.get F.SC_BUDGET [x] := fun x => e2.get F.SC_BUDGET [x] (by rw [budget_off]; omega)
  have hstep : d.capEstimate w avg true undo = s1.capStep := by
    rw [Dev.capEstimate, ← hs1, hcap, if_pos ⟨h0, h1, rfl⟩]
  have hany : ¬(s1.budgets.any fun b => decide (1024 < b)) = true := by
    rw [budgets_congr hbud, anyBudget]
    rintro ⟨x, hx6, hb⟩
    exact absurd (hx x hx6) (by omega)
  have hgone : s1.dieGone 5 = false := by
    unfold Dev.dieGone Dev.diePresent Dev.dieIsLost at hg ⊢
    rw [e2.get F.DIE_PRESENT [] (by decide), e2.get F.DIE_LOST [] (by decide), e2.get F.DOM_STATE [dieDomain 5] (by decide)]
    exact hg
  have hp1 : s1.pwr = d.pwr := by rw [e3]
  obtain ⟨s2, hs2⟩ : ∃ s2, s2 = s1.updPwr fun p => { p with capped := Tab.set false p.capped 5 true } := ⟨_, rfl⟩
  have hcs : s1.capStep = (s2.fixFloor 5).fixCap := by
    have hfind : ([5, 4, 3, 2, 1, 0].find? fun d => !s1.dieGone d && !Tab.get false s1.pwr.capped d) = some 5 :=
      List.find?_cons_of_pos (by rw [hgone, hp1, hc]; rfl)
    rw [Dev.capStep, if_neg hany, hfind, hs2]
  have hc2 : Tab.get false s2.pwr.capped 5 = true := by
    rw [hs2]; exact Tab.get_set_same false s1.pwr.capped 5 true
  have hdm := domMoves_fixFloor s2 5
  have hfl := fixFloor_floor s2 (d := 5) (by decide)
  have hwant : floorWanted s2 5 = true := by unfold floorWanted; rw [hc2, Bool.or_true]
  obtain ⟨s3, hs3⟩ : ∃ s3, s3 = s2.fixFloor 5 := ⟨_, rfl⟩
  rw [← hs3] at hdm hfl
  have hc3 : Tab.get false s3.pwr.capped 5 = true := by
    have : s3.pwr.capped = s2.pwr.capped := by rw [hdm.1]
    rw [this, hc2]
  obtain ⟨f1, f2, f3⟩ := fixCap_reads s3
  rw [hstep, hcs, ← hs3]
  refine ⟨?_, ?_, ?_, ?_, ?_⟩
  · have : s3.fixCap.pwr = s3.pwr := by rw [f2]
    rw [this, hc3]
  · rw [f1.get F.DOM_FLOOR [5] (by decide), hfl, hwant]; rfl
  · rw [f3, Tab.isEmpty_of_get (d := false) (k := 5) (by rw [hc3]; decide), Bool.and_false]; rfl
  · rw [f2.mem.1, hdm.mem.1, hs2]; exact e3.mem.1
  · rw [f2.mem.2, hdm.mem.2, hs2]; exact e3.mem.2

theorem cap_undo {d : Dev} {w avg : Nat} {b : List Nat} {l : List (List Nat)} (hp : Powered d)
    (h1 : avg * 10 < d.get F.PWR_CAP_W * 9) (hc : d.pwr.capped = []) (hh : d.pwr.halved = b :: l) :
      Gives (.capEstimate w avg false true) d fun e =>
        e.get F.PWR_NOW_W = min w 65535 ∧ (∀ x < 6, e.get F.SC_BUDGET [x] = b.getD x 8192 % 2 ^ 14) ∧
        e.pwr = { d.pwr with halved := l } ∧ (l = [] → e.get F.CAP_ACTIVE = 0) ∧ e.mem = d.mem ∧ e.hostMem = d.hostMem := by
  refine gives_of_onDev (·.capEstimate w avg false true) (fun _ => rfl) hp ?_
  obtain ⟨e1, e2, e3, -⟩ := estimate_reads d w
  obtain ⟨s1, hs1⟩ : ∃ s1, s1 = d.put0 F.PWR_NOW_W (min w 65535) := ⟨_, rfl⟩
  rw [← hs1] at e1 e2 e3
  have hcap : s1.get F.PWR_CAP_W = d.get F.PWR_CAP_W := e2.get F.PWR_CAP_W [] (by decide)
  have hp1 : s1.pwr = d.pwr := by rw [e3]
  have hstep : d.capEstimate w avg false true = s1.capUndo := by
    rw [Dev.capEstimate, ← hs1, hcap, if_neg (fun h => Bool.noConfusion h.2.2), if_pos ⟨rfl, .inr h1⟩]
  obtain ⟨w1, w2, w3⟩ := budgets_walk (fun x _ => b.getD x 8192 % 2 ^ 14) (fun s x => s.put F.SC_BUDGET [x] (b.getD x 8192))
    (fun s x => budget_put s x _) 6 s1
  obtain ⟨s2, hs2⟩ : ∃ s2, s2 = s1.forEach (List.range 6) fun s x => s.put F.SC_BUDGET [x] (b.getD x 8192) := ⟨_, rfl⟩
  obtain ⟨s3, hs3⟩ : ∃ s3, s3 = s2.updPwr fun p => { p with halved := l } := ⟨_, rfl⟩
  have hcs : s1.capUndo = s3.fixCap := by
    rw [Dev.capUndo, hp1, hc, hh, hs3, hs2]
    rfl
  rw [← hs2] at w1 w2 w3
  have h3r : s3.regs = s2.regs := by rw [hs3]; rfl
  obtain ⟨f1, f2, f3⟩ := fixCap_reads s3
  have hpwr : s3.pwr = { d.pwr with halved := l } := by
    have h2p : s2.pwr = d.pwr := by rw [w2, hp1]
    rw [hs3]
    change ({ s2.pwr with halved := l } : Pwr) = _
    rw [h2p]
  have hmem : s3.mem = d.mem ∧ s3.hostMem = d.hostMem := by
    rw [hs3]
    exact ⟨w2.mem.1.trans e3.mem.1, w2.mem.2.trans e3.mem.2⟩
  rw [hstep, hcs]
  refine ⟨?_, fun x hx6 => ?_, ?_, fun hl => ?_, f2.mem.1.trans hmem.1, f2.mem.2.trans hmem.2⟩
  · rw [f1.get F.PWR_NOW_W [] (by decide), Dev.get_eq, h3r, ← Dev.get_eq, w3.get F.PWR_NOW_W [] (fun y => by rw [budget_off]; simp [Fld.off]; omega), e1]
  · rw [f1.get F.SC_BUDGET [x] (fun y hy => by
      rw [List.mem_singleton] at hy
      subst hy
      exact apart_of_off (by rw [budget_off]; simp [Fld.off]; omega) (by decide)), Dev.get_eq, h3r, ← Dev.get_eq, w1, if_pos hx6]
  · have : s3.fixCap.pwr = s3.pwr := by rw [f2]
    rw [this, hpwr]
  · rw [f3, hpwr]
    simp [hl, hc]

/-- Settles O32: what a rail's acknowledgement, adjustment and fault, a die's temperature, and the power cap do. -/
theorem rails : Obligations.Rails := by
  unfold Obligations.Rails
  refine ⟨fun d r hp hr hem => ⟨rails_first d r hp hr hem, ?_, fun hm => ⟨fun h6 hpr hl => ?_, fun h6 => ?_⟩⟩,
    fun d die temp hp hd ht => ⟨fun h1 h2 h3 => ?_, fun h1 h2 => ?_, fun h1 h2 h3 h4 h5 => ?_⟩,
    fun d die hp hm => ⟨fun hd hpr hl => ?_, fun hd => ?_⟩, fun d w avg hp => ⟨fun undo h0 h1 hx => ?_, fun undo h0 h1 hx hg hc => ?_,
      fun b l _ h1 hc hh => ?_, fun step h => ?_⟩⟩
  · intro mv hmem hrest hen h1 h2 h3 h4 hm hfree hfl
    exact avs_reads d r mv hp hem hmem hrest hen h1 h2 h3 h4 hm hfree hfl
  · exact railFault_die d hp hm h6 hpr hl
  · exact railFault_unit d hp hm hr h6
  · exact thermal_hot hp hd ht h1 h2 h3
  · exact thermal_cool hp hd ht h1 h2
  · exact throttle_release hp hd ht h1 h2 h3 h4 h5
  · exact trip_die hp hm hd hpr hl
  · subst hd
    exact trip_unit hp hm
  · exact cap_step undo hp h0 h1 hx
  · exact cap_floor undo hp h0 h1 hx hg hc
  · exact cap_undo hp h1 hc hh
  · refine gives_of_onDev (·.capEstimate w avg step false) (fun _ => rfl) hp ?_
    obtain ⟨e1, e2, e3, e4⟩ := estimate_reads d w
    have hcap := e2.get F.PWR_CAP_W [] (by decide)
    have he : d.capEstimate w avg step false = d.put0 F.PWR_NOW_W (min w 65535) := by
      rw [Dev.capEstimate]
      generalize d.put0 F.PWR_NOW_W (min w 65535) = s1 at hcap ⊢
      rw [hcap, if_neg (by omega), if_neg (by simp)]
    rw [he]
    exact ⟨e1, e4, e3⟩

end Sys2Proof
end

section
/-! SUPPORT. The supply and the auxiliary rail (18 R668 to R674; 22 R796). -/

namespace Sys2Proof

open Machine

/-! ### Messages and pauses -/

theorem onlyTalk_pauses {a b : Dev} (h : OnlyTalk a b) (t : Tab Bool) : OnlyTalk { a with pauses := t } { b with pauses := t } := by
  unfold OnlyTalk at *
  generalize b.regs = r, b.host.sent = x, b.host.pfPba = y, b.host.vfPba = z, b.chain.txU = u, b.chain.txD = v, b.fab.inject = w at h
  subst h
  rfl

theorem OnlyTalk.pwr {a b : Dev} (h : OnlyTalk a b) : b.pwr = a.pwr ∧ b.pauses = a.pauses := by
  rw [h]; exact ⟨rfl, rfl⟩

theorem onlySends_sendPower (s : Dev) (sub dst : Nat) (w : List Nat) : OnlySends s (s.sendPower sub dst w) := onlySends_send _ _ _ _ _ _

/-! ### The rails turned off -/

/-- The walk that turns the rails off stops at the first that is on and can be commanded. -/
theorem offRun_stops (l : List Nat) (s : Dev) (h : ∃ r ∈ l, s.railFree r = true ∧ s.flag F.RAIL_ENABLED [r] = true) :
    (s.offRun l).pwr.offSeq ≠ [] ∧ (s.offRun l).pwr.offTo = s.pwr.offTo ∧ (s.offRun l).pauses = s.pauses ∧
    (s.offRun l).mem = s.mem ∧ (s.offRun l).hostMem = s.hostMem := by
  induction l with
  | nil => obtain ⟨r, hr, -⟩ := h; exact absurd hr List.not_mem_nil
  | cons x l ih =>
    rw [Dev.offRun]
    split
    · exact ⟨List.cons_ne_nil _ _, rfl, rfl, rfl, rfl⟩
    · rename_i hx
      refine ih ?_
      obtain ⟨r, hr, h1, h2⟩ := h
      rcases List.mem_cons.1 hr with rfl | hr
      · exact absurd ⟨h1, .inl h2⟩ hx
      · exact ⟨r, hr, h1, h2⟩

theorem railFree_congr {a b : Dev} {r : Nat} (h : Stands (fun off => off = 0x204 ∨ off = 0x3A0003C) a b) : b.railFree r = a.railFree r := by
  unfold Dev.railFree Dev.colBGone Dev.dieGone Dev.diePresent Dev.dieIsLost
  rw [h.get F.DIE_PRESENT [] (by decide), h.get F.DIE_LOST [] (by decide), h.get F.DOM_STATE [dieDomain 7] (by decide)]

/-- The regulator-disable step has told the fabric and given up the role before it comes to the rails. -/
theorem regulatorOff_rails (s : Dev) (how : Nat) : ∃ x : Dev, s.regulatorOff how = x.offRun offOrder ∧
    Stands (fun off => off < 0x3E00000 ∧ off ≠ 0x100004) s x ∧ x.pwr.offTo = how ∧ Tab.get false x.pauses 4 = true ∧
    x.mem = s.mem ∧ x.hostMem = s.hostMem := by
  obtain ⟨p1, p2, -⟩ := portsLost_reads s
  obtain ⟨-, m2, m3⟩ := stopMaster_reads s.portsLost
  obtain ⟨x, hx⟩ : ∃ x : Dev, x = { s.portsLost.stopMaster with
      pauses := Tab.set false s.portsLost.stopMaster.pauses 4 true, pwr := { s.portsLost.stopMaster.pwr with offTo := how } } := ⟨_, rfl⟩
  have hxm : x.mem = s.mem ∧ x.hostMem = s.hostMem := by
    rw [hx]
    change s.portsLost.stopMaster.mem = s.mem ∧ s.portsLost.stopMaster.hostMem = s.hostMem
    rw [m3]
    exact ⟨p1.mem.1, p1.mem.2.1⟩
  refine ⟨x, by rw [hx]; rfl, ?_, by rw [hx], ?_, hxm.1, hxm.2⟩
  · exact stands_trans (stands_mono p2 fun _ h => h.1) (stands_trans (stands_mono m2 fun _ h => h.2) (stands_of_regs (by rw [hx])))
  · rw [hx]
    exact Tab.get_set_same false s.portsLost.stopMaster.pauses 4 true

/-- The regulator-disable step, while some rail is on: the point of no return. -/
theorem regulatorOff_reads (s : Dev) (how : Nat) (h : ∃ r < 12, s.railFree r = true ∧ s.flag F.RAIL_ENABLED [r] = true) :
    (s.regulatorOff how).pwr.offTo = how ∧ (s.regulatorOff how).pwr.offSeq ≠ [] ∧ Tab.get false (s.regulatorOff how).pauses 4 = true ∧
    (s.regulatorOff how).mem = s.mem ∧ (s.regulatorOff how).hostMem = s.hostMem := by
  obtain ⟨x, he, hk, hx1, hx2, hx3, hx4⟩ := regulatorOff_rails s how
  obtain ⟨r, hr, h1, h2⟩ := h
  have hoff : F.RAIL_ENABLED.off [r] = 0x3A01008 + 0x40 * r := by simp [Fld.off]
  have hon : ∃ r ∈ offOrder, x.railFree r = true ∧ x.flag F.RAIL_ENABLED [r] = true := by
    refine ⟨r, by interval_cases r <;> decide, ?_, ?_⟩
    · rw [railFree_congr (stands_mono hk fun off ho => by omega), h1]
    · rw [flag_of_get (hk.get F.RAIL_ENABLED [r] (by rw [hoff]; omega)), h2]
  obtain ⟨o1, o2, o3, o4, o5⟩ := offRun_stops offOrder x hon
  rw [he]
  exact ⟨o2.trans hx1, o1, by rw [o3]; exact hx2, o4.trans hx3, o5.trans hx4⟩

/-! ### The supply -/

theorem supply_first (d : Dev) (hp : Powered d) (h4 : Tab.get false d.pauses 4 = false) :
    (∀ mv, Tab.get false d.pauses 0 = false → mv < d.get F.VIN_LOSS_MV → mv ≤ 60000 → 5 ≤ d.get F.BOOT_STAGE →
      Gives (.supplyLow mv) d fun e =>
        e.get F.VIN_NOW = mv ∧ e.get F.SUPPLY_LOW = 1 ∧ Tab.get false e.pauses 0 = true ∧ e.workHeld = true ∧
        OnlyFields [(F.VIN_NOW, []), (F.SUPPLY_LOW, [])] d e ∧ OnlyTalk { d with pauses := e.pauses } e) ∧
    (∀ mv, Tab.get false d.pauses 0 = true → d.get F.VIN_OK_MV ≤ mv → mv ≤ 60000 → Gives (.supplyReturned mv) d fun e =>
      e.get F.VIN_NOW = mv ∧ e.get F.SUPPLY_BACK = 1 ∧ Tab.get false e.pauses 0 = false ∧
      OnlyFields [(F.VIN_NOW, []), (F.SUPPLY_BACK, [])] d e ∧ OnlyTalk { d with pauses := e.pauses } e) := by
  have vin : ∀ mv, mv ≤ 60000 → (d.put0 F.VIN_NOW mv).get F.VIN_NOW = mv ∧ (∀ g ∈ [F.VIN_LOSS_MV, F.VIN_OK_MV, F.BOOT_STAGE],
      (d.put0 F.VIN_NOW mv).get g = d.get g) ∧ OnlyFields [(F.VIN_NOW, [])] d (d.put0 F.VIN_NOW mv) ∧ OnlyRegs d (d.put0 F.VIN_NOW mv) :=
    fun mv hmv => ⟨Dev.get_put0_fit _ (by decide) (show mv < 2 ^ 32 by omega), fun g hg => Dev.get_put0_apart _ _ (by revert g; decide),
      onlyFields_put0 _ (onlyFields_refl _ _) (by simp), onlyRegs_put0 _ _ _⟩
  refine ⟨fun mv h0 hlt hmv hb => ?_, fun mv h0 hle hmv => ?_⟩
  · refine gives_of_onDev (·.supplyLow mv) (fun _ => rfl) hp ?_
    obtain ⟨v1, v2, v3, v4⟩ := vin mv hmv
    obtain ⟨s1, hs1⟩ : ∃ s1, s1 = d.put0 F.VIN_NOW mv := ⟨_, rfl⟩
    rw [← hs1] at v1 v2 v3 v4
    have hpz : s1.pauses = d.pauses := by rw [v4]
    obtain ⟨s2, hs2⟩ : ∃ s2, s2 = s1.pwrEvent F.SUPPLY_LOW 0 := ⟨_, rfl⟩
    obtain ⟨s3, hs3⟩ : ∃ s3, s3 = s2.sendPower 3 bcast [1] := ⟨_, rfl⟩
    have he : d.supplyLow mv = { s3 with pauses := Tab.set false s3.pauses 0 true } := by
      rw [Dev.supplyLow, Nat.min_eq_left hmv, ← hs1, v2 F.VIN_LOSS_MV (by simp), hpz, h0, h4, if_neg (by simp; omega),
        v2 F.BOOT_STAGE (by simp), if_neg (by omega), hs3, hs2]
    have k2 : OnlyFields [(F.VIN_NOW, []), (F.SUPPLY_LOW, [])] d s2 := by
      rw [hs2]; exact onlyFields_event _ _ _ (onlyFields_mono (by simp) v3) (by simp)
    have t2 : OnlyTalk d s2 := by rw [hs2]; exact (onlyRegsIrq_trans v4.irq (onlyRegsIrq_event _ _ _ _ _)).talk
    have k3 : OnlySends s2 s3 := by rw [hs3]; exact onlySends_sendPower _ _ _ _
    have h0' : Tab.get false (Tab.set false s3.pauses 0 true) 0 = true := Tab.get_set_same _ _ _ _
    rw [he]
    refine ⟨?_, ?_, h0', ?_, onlyFields_congr rfl k3.regs k2, onlyTalk_pauses (onlyTalk_trans t2 k3.talk) _⟩
    · refine (k3.get F.VIN_NOW []).trans ?_
      rw [hs2, Dev.pwrEvent, Dev.get_event_apart _ _ _ _ (by decide), v1]
    · refine (k3.get F.SUPPLY_LOW []).trans ?_
      rw [hs2]
      exact Dev.get_event_same _ _ _ _ (by decide) (by decide)
    · unfold Dev.workHeld
      rw [h0']; rfl
  · refine gives_of_onDev (·.supplyBack mv) (fun _ => rfl) hp ?_
    obtain ⟨v1, v2, v3, v4⟩ := vin mv hmv
    obtain ⟨s1, hs1⟩ : ∃ s1, s1 = d.put0 F.VIN_NOW mv := ⟨_, rfl⟩
    rw [← hs1] at v1 v2 v3 v4
    have hpz : s1.pauses = d.pauses := by rw [v4]
    obtain ⟨s2, hs2⟩ : ∃ s2 : Dev, s2 = { s1 with pauses := Tab.set false s1.pauses 0 false } := ⟨_, rfl⟩
    obtain ⟨s3, hs3⟩ : ∃ s3, s3 = s2.pwrEvent F.SUPPLY_BACK 1 := ⟨_, rfl⟩
    have he : d.supplyBack mv = s3.sendPower 3 bcast [0] := by
      rw [Dev.supplyBack, Nat.min_eq_left hmv, ← hs1, v2 F.VIN_OK_MV (by simp), hpz, h0, h4, if_neg (by simp; omega), hs3, hs2]
      rw [hpz]
    have r2 : s2.regs = s1.regs := by rw [hs2]
    have k3 : OnlyFields [(F.VIN_NOW, []), (F.SUPPLY_BACK, [])] d s3 := by
      rw [hs3]; exact onlyFields_event _ _ _ (onlyFields_congr rfl r2 (onlyFields_mono (by simp) v3)) (by simp)
    have t2 : OnlyTalk { d with pauses := s2.pauses } s2 := by rw [hs2]; exact onlyTalk_pauses v4.irq.talk _
    have t3 : OnlyTalk { d with pauses := s2.pauses } s3 := onlyTalk_trans t2 (by rw [hs3]; exact (onlyRegsIrq_event _ _ _ _ _).talk)
    have k4 := onlySends_sendPower s3 3 bcast [0]
    have t4 := onlyTalk_trans t3 k4.talk
    have hpe : (s3.sendPower 3 bcast [0]).pauses = s2.pauses := t4.pwr.2
    rw [he]
    refine ⟨?_, ?_, ?_, onlyFields_congr rfl k4.regs k3, by rw [hpe]; exact t4⟩
    · rw [k4.get, hs3, Dev.pwrEvent, Dev.get_event_apart _ _ _ _ (by decide), Dev.get_eq, r2, ← Dev.get_eq, v1]
    · rw [k4.get, hs3]
      exact Dev.get_event_same _ _ _ _ (by decide) (by decide)
    · rw [hpe, hs2]
      exact Tab.get_set_same false s1.pauses 0 false

theorem supply_grace (d : Dev) (hp : Powered d) (h4 : Tab.get false d.pauses 4 = false) (h0 : Tab.get false d.pauses 0 = true)
    (hr : ∃ r < 12, d.railFree r = true ∧ d.flag F.RAIL_ENABLED [r] = true) : Gives .supplyGrace d fun e =>
      e.pwr.offTo = (if d.get F.BOOT_STAGE = 10 then 2 else 1) ∧ e.pwr.offSeq ≠ [] ∧ Tab.get false e.pauses 4 = true ∧
      e.hostShut = true ∧ e.mem = d.mem ∧ e.hostMem = d.hostMem := by
  refine gives_of_onDev Dev.supplyGrace (fun _ => rfl) hp ?_
  obtain ⟨s1, hs1⟩ : ∃ s1, s1 = d.sendPower 3 bcast [3] := ⟨_, rfl⟩
  have k1 : OnlySends d s1 := by rw [hs1]; exact onlySends_sendPower _ _ _ _
  have he : d.supplyGrace = s1.regulatorOff (if d.get F.BOOT_STAGE = 10 then 2 else 1) := by
    rw [Dev.supplyGrace, h0, h4, if_neg (by simp), hs1]
  have hr1 : ∃ r < 12, s1.railFree r = true ∧ s1.flag F.RAIL_ENABLED [r] = true := by
    obtain ⟨r, hr, h1, h2⟩ := hr
    exact ⟨r, hr, by rw [railFree_congr (stands_of_regs k1.regs), h1], by rw [flag_of_get (k1.get _ _), h2]⟩
  obtain ⟨o1, o2, o3, o4, o5⟩ := regulatorOff_reads s1 (if d.get F.BOOT_STAGE = 10 then 2 else 1) hr1
  rw [he]
  refine ⟨o1, o2, o3, ?_, o4.trans k1.mem, o5.trans k1.talk.mem.2⟩
  unfold Dev.hostShut
  rw [o3, Bool.or_true]

/-! ### The auxiliary rail -/

/-- The gate driven, or no longer: the rail's level as reported, its domain's state, and nothing else. -/
theorem auxGate_reads (s : Dev) (on : Bool) :
    (s.auxGate on).get F.AUX_ON = b2n (on || s.pwr.auxShort) ∧ (s.auxGate on).get F.DOM_STATE [11] = (if on then stRun else stOff) ∧
    OnlyFields [(F.AUX_ON, []), (F.DOM_STATE, [11])] s (s.auxGate on) ∧
    s.auxGate on = { s with regs := (s.auxGate on).regs, pwr := { s.pwr with auxDrive := on } } := by
  obtain ⟨x, hx⟩ : ∃ x, x = s.updPwr fun p => { p with auxDrive := on } := ⟨_, rfl⟩
  have he : s.auxGate on = (x.put0 F.AUX_ON (b2n (on || s.pwr.auxShort))).put F.DOM_STATE [11] (if on then stRun else stOff) := by
    rw [hx]; rfl
  have hxr : x.regs = s.regs := by rw [hx]; rfl
  refine ⟨?_, ?_, ?_, rfl⟩
  · rw [he, Dev.get_put_apart _ _ (by decide), Dev.get_put0_fit _ (by decide) (b2n_lt _)]
  · rw [he]
    exact Dev.get_put_fit _ (by decide) (by split <;> decide)
  · rw [he]
    exact onlyFields_put _ (onlyFields_put0 _ (onlyFields_of_regs hxr) (by simp)) (by simp)

theorem auxTry_eq {s : Dev} (h1 : s.flag F.AUX_EN = true) (h2 : s.flag F.AUX_LATCHED = false) (h3 : s.pwr.auxDrive = false)
    (h4 : s.pwr.auxRetry = false) (h5 : s.get F.UNIT_STATE ≠ stKeep) : s.auxTry = s.auxGate true := by
  unfold Dev.auxTry
  rw [h1, h2, h3, h4, if_pos (by simp [h5])]

theorem auxEn_reads (d : Dev) (hk : d.get F.UNIT_STATE ≠ stKeep) (b vsns : Bool)
    (hb : b = true → d.flag F.AUX_LATCHED = false ∧ d.pwr.auxRetry = false ∧ d.pwr.auxDrive = false) :
    let e := (d.auxEnable b).auxSense vsns
    e.get F.AUX_EN = b2n b ∧ e.get F.AUX_ON = b2n vsns ∧ e.get F.DOM_STATE [11] = (if b then stRun else stOff) ∧
    OnlyFields [(F.AUX_EN, []), (F.AUX_ON, []), (F.DOM_STATE, [11])] d e ∧
    e = { d with regs := e.regs, pwr := { d.pwr with auxDrive := b, auxShort := if b then d.pwr.auxShort else vsns, auxRetry := false } } := by
  intro e
  obtain ⟨s1, hs1⟩ : ∃ s1, s1 = d.put0 F.AUX_EN (b2n b) := ⟨_, rfl⟩
  have g1 : s1.get F.AUX_EN = b2n b := by rw [hs1]; exact Dev.get_put0_fit _ (by decide) (b2n_lt _)
  have k1 : OnlyFields [(F.AUX_EN, [])] d s1 := by rw [hs1]; exact onlyFields_put0 _ (onlyFields_refl _ _) (by simp)
  have r1 : OnlyRegs d s1 := by rw [hs1]; exact onlyRegs_put0 _ _ _
  have hp1 : s1.pwr = d.pwr := by rw [r1]
  -- the gate follows the enable
  obtain ⟨s2, hs2⟩ : ∃ s2 : Dev, s2 = { s1 with pwr := { s1.pwr with auxRetry := false } } := ⟨_, rfl⟩
  have hen : d.auxEnable b = s2.auxGate b := by
    cases b with
    | false => rw [hs2, hs1]; rfl
    | true =>
      obtain ⟨b1, b2, b3⟩ := hb rfl
      have h2e : s2 = s1 := by rw [hs2, hp1, ← b2, ← hp1]
      rw [Dev.auxEnable, if_pos rfl, ← hs1, h2e]
      exact auxTry_eq (flag_of_b2n g1) ((k1.flag _ _ (by decide)).trans b1) (by rw [hp1, b3]) (by rw [hp1, b2]) (by rw [k1.get _ _ (by decide)]; exact hk)
  obtain ⟨a1, a2, a3, a4⟩ := auxGate_reads s2 b
  have hr2 : s2.regs = s1.regs := by rw [hs2]
  obtain ⟨s3, hs3⟩ : ∃ s3, s3 = s2.auxGate b := ⟨_, rfl⟩
  rw [← hs3] at a1 a2 a3 a4
  have hp3 : s3.pwr = { d.pwr with auxDrive := b, auxRetry := false } := by rw [a4, hs2, hp1]
  have he : e = ({ s3 with pwr := { s3.pwr with auxShort := if s3.pwr.auxDrive then s3.pwr.auxShort else vsns } } : Dev).put0 F.AUX_ON (b2n vsns) := by
    change (d.auxEnable b).auxSense vsns = _
    rw [hen, hs3]
    rfl
  have hpe : e.pwr = { d.pwr with auxDrive := b, auxShort := if b then d.pwr.auxShort else vsns, auxRetry := false } := by
    rw [he]
    change ({ s3.pwr with auxShort := if s3.pwr.auxDrive then s3.pwr.auxShort else vsns } : Pwr) = _
    rw [hp3]
  obtain ⟨s4, hs4⟩ : ∃ s4 : Dev, s4 = { s3 with pwr := { s3.pwr with auxShort := if s3.pwr.auxDrive then s3.pwr.auxShort else vsns } } := ⟨_, rfl⟩
  rw [← hs4] at he
  have hr4 : s4.regs = s3.regs := by rw [hs4]
  have hg4 : ∀ g jx, s4.get g jx = s3.get g jx := fun g jx => by rw [Dev.get_eq, Dev.get_eq, hr4]
  clear_value e
  have hfields : OnlyFields [(F.AUX_EN, []), (F.AUX_ON, []), (F.DOM_STATE, [11])] d e := by
    rw [he]
    refine onlyFields_put0 _ (onlyFields_congr rfl hr4 (onlyFields_trans (onlyFields_mono (by simp) (onlyFields_congr rfl hr2 k1))
      (onlyFields_mono (by simp) a3))) (by simp)
  refine ⟨?_, ?_, ?_, hfields, ?_⟩
  · rw [he, Dev.get_put0_apart _ _ (by decide), hg4, a3.get _ _ (by decide), Dev.get_eq, hr2, ← Dev.get_eq, g1]
  · rw [he]; exact Dev.get_put0_fit _ (by decide) (b2n_lt _)
  · rw [he, Dev.get_put0_apart _ _ (by decide), hg4, a2]
  · have hrest : e = { d with regs := e.regs, pwr := e.pwr } := by
      rw [he, hs4]
      rw [a4, hs2, r1]
      rfl
    rw [← hpe]
    exact hrest

end Sys2Proof
end

section
/-! SUPPORT. Attempts of the auxiliary rail, and the statement about the supply (18 R668 to R674; 22 R796). -/

namespace Sys2Proof

open Machine

/-- A failed attempt, counted, its gate no longer driven. -/
theorem auxFailed_reads (d : Dev) {n : Nat} (hn : n < 4) :
    let s := d.auxOff.put0 F.AUX_ATTEMPTS n
    s.get F.AUX_ATTEMPTS = n ∧ s.get F.AUX_ON = b2n d.pwr.auxShort ∧ s.get F.DOM_STATE [11] = stOff ∧
    OnlyFields [(F.AUX_ATTEMPTS, []), (F.AUX_ON, []), (F.DOM_STATE, [11])] d s ∧
    s = { d with regs := s.regs, pwr := { d.pwr with auxDrive := false } } := by
  intro s
  obtain ⟨a1, a2, a3, a4⟩ := auxGate_reads d false
  have hs : s = (d.auxGate false).put0 F.AUX_ATTEMPTS n := rfl
  clear_value s
  generalize d.auxGate false = x at a1 a2 a3 a4 hs
  refine ⟨by rw [hs]; exact Dev.get_put0_fit _ (by decide) hn, ?_, ?_, ?_, ?_⟩
  · rw [hs, Dev.get_put0_apart _ _ (by decide), a1]; rfl
  · rw [hs, Dev.get_put0_apart _ _ (by decide), a2]; rfl
  · rw [hs]
    exact onlyFields_put0 _ (onlyFields_mono (by simp) a3) (by simp)
  · have h : s = { x with regs := s.regs } := by rw [hs]; rfl
    rw [a4] at h
    exact h

theorem auxFail_early {d : Dev} (hp : Powered d) (hd : d.pwr.auxDrive = true) (ha : d.get F.AUX_ATTEMPTS < 2) : Gives .auxFail d fun e =>
    e.get F.AUX_ATTEMPTS = d.get F.AUX_ATTEMPTS + 1 ∧ e.get F.AUX_ON = b2n d.pwr.auxShort ∧ e.get F.DOM_STATE [11] = stOff ∧
    OnlyFields [(F.AUX_ATTEMPTS, []), (F.AUX_ON, []), (F.DOM_STATE, [11])] d e ∧
    e = { d with regs := e.regs, pwr := { d.pwr with auxRetry := true, auxDrive := false } } := by
  refine gives_of_onDev Dev.auxFail (fun _ => rfl) hp ?_
  obtain ⟨f1, f2, f3, f4, f5⟩ := auxFailed_reads d (n := min (d.get F.AUX_ATTEMPTS + 1) 3) (by omega)
  have he : d.auxFail = (d.auxOff.put0 F.AUX_ATTEMPTS (min (d.get F.AUX_ATTEMPTS + 1) 3)).updPwr fun p => { p with auxRetry := true } := by
    rw [Dev.auxFail, hd, if_neg (by decide), if_neg (by omega)]
  rw [he]
  generalize d.auxOff.put0 F.AUX_ATTEMPTS (min (d.get F.AUX_ATTEMPTS + 1) 3) = s at f1 f2 f3 f4 f5 ⊢
  refine ⟨?_, f2, f3, onlyFields_congr rfl rfl f4, ?_⟩
  · change s.get F.AUX_ATTEMPTS = _
    omega
  · have h : (s.updPwr fun p => { p with auxRetry := true }) = { s with pwr := { s.pwr with auxRetry := true } } := rfl
    rw [h, f5]

theorem auxFail_latch {d : Dev} (hp : Powered d) (hd : d.pwr.auxDrive = true) (ha : 2 ≤ d.get F.AUX_ATTEMPTS) : Gives .auxFail d fun e =>
    e.get F.AUX_ATTEMPTS = 3 ∧ e.get F.AUX_ON = b2n d.pwr.auxShort ∧ e.get F.AUX_LATCHED = 1 ∧ e.get F.DOM_STATE [11] = stOff ∧
    OnlyFields [(F.AUX_ATTEMPTS, []), (F.AUX_ON, []), (F.AUX_LATCHED, []), (F.DOM_STATE, [11])] d e ∧
    OnlyTalk { d with pwr := { d.pwr with auxDrive := false } } e := by
  refine gives_of_onDev Dev.auxFail (fun _ => rfl) hp ?_
  obtain ⟨f1, f2, f3, f4, f5⟩ := auxFailed_reads d (n := 3) (by decide)
  have hn : d.get F.AUX_ATTEMPTS < 4 := bitsOf_lt _ _ _
  have he : d.auxFail = (((d.auxOff.put0 F.AUX_ATTEMPTS 3).put0 F.AUX_LATCHED 1).raisePf 5).notify 9 3 := by
    rw [Dev.auxFail, hd, if_neg (by decide), if_pos (by omega), Nat.min_eq_right (by omega)]
  rw [he]
  generalize d.auxOff.put0 F.AUX_ATTEMPTS 3 = s at f1 f2 f3 f4 f5 ⊢
  obtain ⟨x, hx⟩ : ∃ x, x = s.put0 F.AUX_LATCHED 1 := ⟨_, rfl⟩
  obtain ⟨r1, r2⟩ := onlyRegsIrq_raisePf x 5
  have hn' : OnlySends (x.raisePf 5) ((x.raisePf 5).notify 9 3) := by
    unfold Dev.notify
    split
    · exact onlySends_refl _
    · exact onlySends_send _ _ _ _ _ _
  rw [← hx]
  have hg : ∀ g jx, ((x.raisePf 5).notify 9 3).get g jx = x.get g jx := fun g jx => by
    rw [hn'.get, Dev.get_eq, r2, ← Dev.get_eq]
  have ht : OnlyTalk { d with pwr := { d.pwr with auxDrive := false } } s := by
    rw [f5]; rfl
  refine ⟨?_, ?_, ?_, ?_, ?_, ?_⟩
  · rw [hg, hx, Dev.get_put0_apart _ _ (by decide), f1]
  · rw [hg, hx, Dev.get_put0_apart _ _ (by decide), f2]
  · rw [hg, hx]; exact Dev.get_put0_fit _ (by decide) (by decide)
  · rw [hg, hx, Dev.get_put0_apart _ _ (by decide), f3]
  · refine onlyFields_congr rfl (hn'.regs.trans r2) ?_
    rw [hx]
    exact onlyFields_put0 _ (onlyFields_mono (by simp) f4) (by simp)
  · refine onlyTalk_trans ht (onlyTalk_trans (onlyRegsIrq_trans ?_ r1).talk hn'.talk)
    rw [hx]
    exact (onlyRegs_put0 s _ _).irq

theorem aux_restarts {d : Dev} (hp : Powered d) (hk : d.get F.UNIT_STATE ≠ stKeep) (hen : d.flag F.AUX_EN = true) (hd : d.pwr.auxDrive = false) :
    let on := fun (e : Dev) => e.get F.AUX_ON = 1 ∧ e.get F.DOM_STATE [11] = stRun
    (d.pwr.auxRetry = true → d.flag F.AUX_LATCHED = false → Gives .auxRetry d fun e =>
      on e ∧ OnlyFields [(F.AUX_ON, []), (F.DOM_STATE, [11])] d e ∧
      e = { d with regs := e.regs, pwr := { d.pwr with auxRetry := false, auxDrive := true } }) ∧
    (d.pwr.auxRetry = false → Gives .auxClear d fun e =>
      on e ∧ e.get F.AUX_LATCHED = 0 ∧ e.get F.AUX_ATTEMPTS = 0 ∧
      OnlyFields [(F.AUX_ON, []), (F.AUX_LATCHED, []), (F.AUX_ATTEMPTS, []), (F.DOM_STATE, [11])] d e ∧
      e = { d with regs := e.regs, pwr := { d.pwr with auxDrive := true } }) := by
  intro on
  refine ⟨fun hr hl => ?_, fun hr => ?_⟩
  · refine gives_of_onDev Dev.auxRetryNow (fun _ => rfl) hp ?_
    obtain ⟨s, hs⟩ : ∃ s, s = d.updPwr fun p => { p with auxRetry := false } := ⟨_, rfl⟩
    have hg : ∀ g jx, s.get g jx = d.get g jx := fun g jx => by rw [hs]; rfl
    have he : d.auxRetryNow = s.auxGate true := by
      rw [Dev.auxRetryNow, if_pos hr, ← hs]
      refine auxTry_eq ((flag_of_get (hg _ _)).trans hen) ((flag_of_get (hg _ _)).trans hl) (by rw [hs]; exact hd) (by rw [hs]; rfl) ?_
      rw [hg]; exact hk
    obtain ⟨a1, a2, a3, a4⟩ := auxGate_reads s true
    rw [he]
    refine ⟨⟨a1, a2⟩, onlyFields_trans (onlyFields_of_regs (by rw [hs]; rfl)) a3, ?_⟩
    generalize s.auxGate true = e at a4 ⊢
    rw [hs] at a4
    exact a4
  · refine gives_of_onDev Dev.auxClear (fun _ => rfl) hp ?_
    obtain ⟨s, hs⟩ : ∃ s, s = (d.put0 F.AUX_LATCHED 0).put0 F.AUX_ATTEMPTS 0 := ⟨_, rfl⟩
    have l1 : s.get F.AUX_LATCHED = 0 := by
      rw [hs, Dev.get_put0_apart _ _ (by decide)]; exact Dev.get_put0_fit _ (by decide) (by decide)
    have l2 : s.get F.AUX_ATTEMPTS = 0 := by rw [hs]; exact Dev.get_put0_fit _ (by decide) (by decide)
    have k : OnlyFields [(F.AUX_LATCHED, []), (F.AUX_ATTEMPTS, [])] d s := by
      rw [hs]; exact onlyFields_put0 _ (onlyFields_put0 _ (onlyFields_refl _ _) (by simp)) (by simp)
    have r : OnlyRegs d s := by rw [hs]; exact onlyRegs_trans (onlyRegs_put0 _ _ _) (onlyRegs_put0 _ _ _)
    have hpw : s.pwr = d.pwr := by rw [r]
    have he : d.auxClear = s.auxGate true := by
      rw [Dev.auxClear, ← hs]
      refine auxTry_eq ((k.flag _ _ (by decide)).trans hen) (flag_of_zero l1) (by rw [hpw]; exact hd) (by rw [hpw]; exact hr) ?_
      rw [k.get _ _ (by decide)]; exact hk
    obtain ⟨a1, a2, a3, a4⟩ := auxGate_reads s true
    rw [he]
    refine ⟨⟨a1, a2⟩, (a3.get _ _ (by decide)).trans l1, (a3.get _ _ (by decide)).trans l2,
      onlyFields_trans (onlyFields_mono (by simp) k) (onlyFields_mono (by simp) a3), ?_⟩
    generalize s.auxGate true = e at a4 ⊢
    rw [r] at a4
    exact a4

/-- Settles O33: what a low supply, its return, and the attempts of the auxiliary rail do. -/
theorem supply : Obligations.Supply := by
  unfold Obligations.Supply
  refine ⟨fun d hp h4 => ⟨(supply_first d hp h4).1, (supply_first d hp h4).2, fun h0 hr => supply_grace d hp h4 h0 hr, ?_⟩, ?_⟩
  · exact gives_of_onDev Dev.resClear (fun _ => rfl) hp rfl
  · intro d hp hk on
    refine ⟨fun b vsns hb => ?_, fun hd => ⟨fun ha => auxFail_early hp hd ha, fun ha => auxFail_latch hp hd ha, ?_⟩, fun hen hd => aux_restarts hp hk hen hd⟩
    · exact gives_of_onDev (fun d => (d.auxEnable b).auxSense vsns) (fun _ => rfl) hp (auxEn_reads d hk b vsns hb)
    · refine gives_of_onDev Dev.auxStable (fun _ => rfl) hp ?_
      rw [Dev.auxStable, if_pos hd]
      refine ⟨Dev.get_put0_fit _ (by decide) (by decide), ?_, onlyFields_put0 _ (onlyFields_put0 _ (onlyFields_refl _ _) (by simp)) (by simp),
        onlyRegs_trans (onlyRegs_put0 _ _ _) (onlyRegs_put0 _ _ _)⟩
      rw [Dev.get_put0_apart _ _ (by decide)]
      exact Dev.get_put0_fit _ (by decide) (by decide)

end Sys2Proof
end

section
/-! SUPPORT. Partitions: a set is applied whole, or refused whole (06 R208 to R210). -/

namespace Sys2Proof

open Machine

/-! ### Walks over registers -/

/-- A walk that writes `n` registers, each at its own offset. -/
theorem setWords_reads (s : Dev) (at_ : Nat → Nat) (val : Nat → Word) (hi : ∀ i j, at_ i = at_ j → i = j) (n : Nat) :
    let e := s.forEach (List.range n) fun s i => s.setReg (at_ i) (val i)
    OnlyRegs s e ∧ (∀ i < n, e.reg (at_ i) = val i) ∧ ∀ off, (∀ i < n, off ≠ at_ i) → e.reg off = s.reg off := by
  induction n with
  | zero => exact ⟨onlyRegs_refl s, by simp, fun _ _ => rfl⟩
  | succ n ih =>
    intro e
    have he : e = (s.forEach (List.range n) fun s i => s.setReg (at_ i) (val i)).setReg (at_ n) (val n) := by
      change (s.forEach (List.range (n + 1)) _) = _
      rw [List.range_succ, Dev.forEach, List.foldl_append]
      rfl
    obtain ⟨i1, i2, i3⟩ := ih
    generalize s.forEach (List.range n) (fun s i => s.setReg (at_ i) (val i)) = x at he i1 i2 i3
    refine ⟨by rw [he]; exact onlyRegs_trans i1 rfl, fun i hlt => ?_, fun off ho => ?_⟩
    · rw [he, Dev.reg_setReg]
      split
      · rename_i h'
        rw [hi i n h']
      · rename_i h'
        exact i2 i (Nat.lt_of_le_of_ne (Nat.le_of_lt_succ hlt) (by rintro rfl; exact h' rfl))
    · rw [he, Dev.reg_setReg, if_neg (ho n (Nat.lt_succ_self n))]
      exact i3 off fun i hlt => ho i (Nat.lt_succ_of_lt hlt)

/-- A walk whose every step changes registers only, and those of a set not. -/
theorem regsWalk {α : Type} {K : Nat → Prop} (l : List α) (f : Dev → α → Dev) (h : ∀ s, ∀ x ∈ l, OnlyRegs s (f s x) ∧ Stands K s (f s x)) (s : Dev) :
    OnlyRegs s (s.forEach l f) ∧ Stands K s (s.forEach l f) :=
  ⟨forEach_keeps onlyRegs_refl onlyRegs_trans l f (fun s x hx => (h s x hx).1) s,
    forEach_keeps (stands_refl K) stands_trans l f (fun s x hx => (h s x hx).2) s⟩

/-! ### A partition's registers -/

/-- The fields of a partition's control registers. -/
def partFields : List Fld := [F.P_EVENTS, F.P_EVT_EN, F.P_STATE, F.RESHAPE_BUSY, F.P_CAUSE, F.ACTIVE_SLOT, F.P_TARN_COUNT, F.P_SLOT, F.SCRUB_T]

theorem part_off {f : Fld} (hf : f ∈ partFields) (p : Nat) : f.off [p] = f.base + 0x4000 * p := by
  simp only [partFields, List.mem_cons, List.not_mem_nil, or_false] at hf
  rcases hf with rfl | rfl | rfl | rfl | rfl | rfl | rfl | rfl | rfl <;> simp [Fld.off]

theorem part_apart {f g : Fld} (hf : f ∈ partFields) (hg : g ∈ partFields) (h : f ≠ g) (p : Nat) : Fld.apart f [p] g [p] = true := by
  have key : ∀ f ∈ partFields, ∀ g ∈ partFields, f ≠ g → (g.base ≠ f.base ∨ g.lo + g.w ≤ f.lo ∨ f.lo + f.w ≤ g.lo) ∧ g.lo + g.w ≤ 32 := by decide
  obtain ⟨h1, h2⟩ := key f hf g hg h
  rcases h1 with h1 | h1
  · exact apart_of_off (by rw [part_off hf, part_off hg]; omega) h2
  · exact apart_of_bits h1 h2

theorem stands_partEvent {K : Nat → Prop} (s : Dev) (p b : Nat) (h : ¬K (F.P_EVENTS.off [p])) : Stands K s (s.partEvent p b) := by
  obtain ⟨m, x, y, he⟩ := s.partEvent_eq p b
  rw [he]
  exact stands_trans (stands_put s _ h) (stands_of_regs rfl)

theorem partEvent_regs (s : Dev) (p b : Nat) : (s.partEvent p b).regs = (s.put F.P_EVENTS [p] (setBit (s.get F.P_EVENTS [p]) b)).regs := by
  obtain ⟨m, x, y, he⟩ := s.partEvent_eq p b
  rw [he]

theorem partEvent_get (s : Dev) (p b : Nat) {g : Fld} {jx : List Nat} (h : Fld.apart F.P_EVENTS [p] g jx = true) :
    (s.partEvent p b).get g jx = s.get g jx := by
  rw [Dev.get_eq, partEvent_regs, ← Dev.get_eq]
  exact Dev.get_put_apart _ _ h

/-- A partition event sets its bit. -/
theorem partEvent_bit (s : Dev) (p : Nat) {b : Nat} (hb : b < 9) : bitAt ((s.partEvent p b).get F.P_EVENTS [p]) b = true := by
  have hv : (s.put F.P_EVENTS [p] (setBit (s.get F.P_EVENTS [p]) b)).get F.P_EVENTS [p] = setBit (s.get F.P_EVENTS [p]) b :=
    Dev.get_put_fit _ (by decide) (setBit_lt _ (bitsOf_lt _ _ _) hb)
  rw [Dev.get_eq, partEvent_regs, ← Dev.get_eq, hv, bitAt_setBit, if_pos rfl]

theorem partEvent_fields (s : Dev) (p b : Nat) : OnlyFields [(F.P_EVENTS, [p])] s (s.partEvent p b) := by
  obtain ⟨m, x, y, he⟩ := s.partEvent_eq p b
  rw [he]
  exact onlyFields_congr (b := s.put F.P_EVENTS [p] (setBit (s.get F.P_EVENTS [p]) b)) rfl rfl (onlyFields_put _ (onlyFields_refl _ s) (by simp))

/-! ### What applying a set changes -/

/-- Only registers, partitions, engines and interrupts changed. -/
def OnlySet (a b : Dev) : Prop :=
  b = { a with regs := b.regs, parts := b.parts, engines := b.engines,
               host := { a.host with sent := b.host.sent, pfPba := b.host.pfPba, vfPba := b.host.vfPba } }

theorem onlySet_refl (a : Dev) : OnlySet a a := rfl

theorem onlySet_trans {a b c : Dev} (h : OnlySet a b) (h' : OnlySet b c) : OnlySet a c := by
  unfold OnlySet at *
  rw [h] at h'
  exact h'

theorem OnlyRegsIrq.set {a b : Dev} (h : OnlyRegsIrq a b) : OnlySet a b := by
  unfold OnlySet OnlyRegsIrq at *
  generalize b.regs = r, b.host.sent = x, b.host.pfPba = y, b.host.vfPba = z at h
  subst h
  rfl

theorem OnlySet.mem {a b : Dev} (h : OnlySet a b) : b.mem = a.mem ∧ b.hostMem = a.hostMem ∧ b.ecc = a.ecc := by
  rw [h]; exact ⟨rfl, rfl, rfl⟩

/-- The registers that applying a set, or releasing, leaves: all but the active set, and four of the partition's control registers. -/
def setKept (p off : Nat) : Prop :=
  off < 0x800600 + 0x4000 * p ∨ 0x800600 + 0x4000 * p < off ∧ off < 0x800804 + 0x4000 * p ∨ 0x800808 + 0x4000 * p < off ∧ off < 0x800900 + 0x4000 * p ∨
    0x800974 + 0x4000 * p ≤ off

/-- All but the four control registers. -/
def ctlKept (p off : Nat) : Prop := off ≠ 0x800600 + 0x4000 * p ∧ off ≠ 0x800804 + 0x4000 * p ∧ off ≠ 0x800808 + 0x4000 * p

theorem not_ctlKept {f : Fld} (hf : f ∈ [F.P_EVENTS, F.P_STATE, F.RESHAPE_BUSY, F.P_CAUSE, F.ACTIVE_SLOT, F.P_TARN_COUNT]) (p : Nat) :
    ¬ctlKept p (f.off [p]) := by
  simp only [List.mem_cons, List.not_mem_nil, or_false] at hf
  rcases hf with rfl | rfl | rfl | rfl | rfl | rfl <;> simp [Fld.off, ctlKept]

theorem fixTarn_reads (s : Dev) (p : Nat) :
    OnlyRegs s (s.fixTarn p) ∧ Stands (ctlKept p) s (s.fixTarn p) ∧ ∀ q, (s.fixTarn p).get F.P_STATE [q] = s.get F.P_STATE [q] := by
  refine ⟨onlyRegs_put _ _ _ _, stands_put _ _ (not_ctlKept (by simp) p), fun q => Dev.get_put_apart _ _ ?_⟩
  exact apart_of_off (by rw [part_off (by decide), part_off (by decide)]; simp only; omega) (by decide)

theorem reshapeCheck_reads (s : Dev) (p : Nat) :
    OnlyRegsIrq s (s.reshapeCheck p) ∧ Stands (ctlKept p) s (s.reshapeCheck p) ∧
    ∀ q, (s.reshapeCheck p).get F.P_STATE [q] = s.get F.P_STATE [q] := by
  unfold Dev.reshapeCheck
  split
  · have hb : ∀ f ∈ [F.RESHAPE_BUSY, F.ACTIVE_SLOT], ∀ q, Fld.apart f [p] F.P_STATE [q] = true := fun f hf q => by
      refine apart_of_bits ?_ (by decide)
      revert f; decide
    have he : ∀ q, Fld.apart F.P_EVENTS [p] F.P_STATE [q] = true := fun q =>
      apart_of_off (by rw [part_off (by decide), part_off (by decide)]; simp only; omega) (by decide)
    refine ⟨onlyRegsIrq_trans (onlyRegs_trans (onlyRegs_put s _ _ _) (onlyRegs_put _ _ _ _)).irq (onlyRegsIrq_partEvent _ _ _),
      stands_trans (stands_trans (stands_put s 0 (not_ctlKept (f := F.RESHAPE_BUSY) (by simp) p)) (stands_put _ _ (not_ctlKept (f := F.ACTIVE_SLOT) (by simp) p)))
        (stands_partEvent _ _ _ (not_ctlKept (f := F.P_EVENTS) (by simp) p)), fun q => ?_⟩
    rw [partEvent_get _ _ _ (he q), Dev.get_put_apart _ _ (hb _ (by simp) q), Dev.get_put_apart _ _ (hb _ (by simp) q)]
  · exact ⟨onlyRegsIrq_refl s, stands_refl _ s, fun _ => rfl⟩

theorem onlySet_updPart (s : Dev) (p : Nat) (f : Machine.Part → Machine.Part) : OnlySet s (s.updPart p f) ∧ (s.updPart p f).regs = s.regs := ⟨rfl, rfl⟩

theorem onlySet_dropLeft (s : Dev) (p : Nat) (l : List Res) : OnlySet s (s.dropLeft p l) ∧ (s.dropLeft p l).regs = s.regs := ⟨rfl, rfl⟩

/-- The active set is what the slot holds, and the partition is in the state it was. -/
theorem applySet_reads (s : Dev) (p sl : Nat) :
    OnlySet s (s.applySet p sl) ∧ Stands (setKept p) s (s.applySet p sl) ∧ ActiveIs s (s.applySet p sl) p sl ∧
    ∀ q, (s.applySet p sl).get F.P_STATE [q] = s.get F.P_STATE [q] := by
  unfold Dev.applySet
  extract_lets old rd new leave keep dropped added claims grand zero s1 s2
  obtain ⟨w1, w2, w3⟩ := setWords_reads s (fun x => 0x800900 + 0x4000 * p + 4 * x) (fun x => BitVec.ofNat 32 (rd (4 * x))) (by intro i j h; omega) 29
  have hs1 : s1 = s.forEach (List.range 29) fun s i => s.setReg (0x800900 + 0x4000 * p + 4 * i) (BitVec.ofNat 32 (rd (4 * i))) := rfl
  rw [← hs1] at w1 w2 w3
  clear_value s1
  have h2 : OnlySet s1 s2 ∧ s2.regs = s1.regs := onlySet_updPart s1 p _
  have hrd : ∀ x, rd x = s.slotReg p sl x := fun _ => rfl
  clear_value s2 zero grand claims added dropped keep leave new rd old
  obtain ⟨s3, hs3⟩ : ∃ s3, s3 = (s2.put F.RESHAPE_BUSY [p] 1).dropLeft p leave := ⟨_, rfl⟩
  have h3 : OnlySet s2 s3 ∧ s3.regs = (s2.put F.RESHAPE_BUSY [p] 1).regs := by
    obtain ⟨h, hr⟩ := onlySet_dropLeft (s2.put F.RESHAPE_BUSY [p] 1) p leave
    rw [hs3]
    exact ⟨onlySet_trans (onlyRegs_put s2 _ _ _).irq.set h, hr⟩
  rw [← hs3]
  obtain ⟨f1, f2, f3⟩ := fixTarn_reads s3 p
  obtain ⟨r1, r2, r3⟩ := reshapeCheck_reads (s3.fixTarn p) p
  have hall : OnlySet s ((s3.fixTarn p).reshapeCheck p) :=
    onlySet_trans w1.irq.set (onlySet_trans h2.1 (onlySet_trans h3.1 (onlySet_trans f1.irq.set r1.set)))
  have k3 : Stands (ctlKept p) s1 s3 := stands_trans (stands_of_regs h2.2)
    (stands_trans (stands_put s2 1 (not_ctlKept (f := F.RESHAPE_BUSY) (by simp) p)) (stands_of_regs h3.2))
  have k : Stands (ctlKept p) s1 ((s3.fixTarn p).reshapeCheck p) := stands_trans k3 (stands_trans f2 r2)
  refine ⟨hall, ?_, fun r hr => ?_, fun q => ?_⟩
  · refine stands_trans (fun off ho => w3 off fun i hi => ?_) (stands_mono k fun off ho => ?_)
    · unfold setKept at ho; omega
    · unfold setKept at ho; unfold ctlKept; omega
  · unfold Dev.actReg
    rw [k _ (by unfold ctlKept; omega), w2 r hr, hrd, BitVec.toNat_ofNat]
    exact Nat.mod_eq_of_lt (BitVec.isLt _)
  · rw [r3, f3, Dev.get_eq, h3.2, ← Dev.get_eq, Dev.get_put_apart _ _ (apart_of_bits (by decide) (by decide)), Dev.get_eq, h2.2, ← Dev.get_eq]
    exact get_of_reg (w3 _ fun i hi => by rw [part_off (by decide)]; simp only; omega)

/-! ### Refusals -/

theorem setCause_lt {s : Dev} {p : Nat} {rd : Nat → Nat} {n c : Nat} (h : s.setCause p rd n = some c) : c < 8 := by
  unfold Dev.setCause at h
  dsimp only at h
  split at h
  · cases h; decide
  · split at h
    · cases h; decide
    · split at h
      · cases h; decide
      · split at h
        · cases h; decide
        · split at h
          · cases h; decide
          · cases h

theorem refuseSet_reads (s : Dev) (p : Nat) {c : Nat} (hc : c < 8) :
    (s.refuseSet p c).get F.P_CAUSE [p] = c ∧ bitAt ((s.refuseSet p c).get F.P_EVENTS [p]) 6 = true ∧
    OnlyFields [(F.P_CAUSE, [p]), (F.P_EVENTS, [p])] s (s.refuseSet p c) ∧ OnlyRegsIrq s (s.refuseSet p c) := by
  unfold Dev.refuseSet
  refine ⟨?_, partEvent_bit _ _ (by decide), ?_, onlyRegsIrq_trans (onlyRegs_put s _ _ _).irq (onlyRegsIrq_partEvent _ _ _)⟩
  · rw [partEvent_get _ _ _ (part_apart (by decide) (by decide) (by decide) p)]
    exact Dev.get_put_fit _ (by decide) hc
  · exact onlyFields_trans (onlyFields_put _ (onlyFields_refl _ s) (by simp)) (onlyFields_mono (by simp) (partEvent_fields _ p 6))

/-! ### The statement -/

theorem gives_ask {i : Instr} {d : Dev} {p : Nat} {q : Dev → WReq} {P : Dev → Prop} (h : ∀ s, exec i s = onPart p (fun d => d.ask (q d)) s)
    (hw : WardenServes d) (hp : p < 64) (hP : P (d.perform (q d))) : Gives i d P := by
  obtain ⟨h1, h2, h3, h4⟩ := hw
  refine gives_of_onDev (fun d => if p < 64 then d.ask (q d) else d) h h1 ?_
  have : d.ask (q d) = d.perform (q d) := by
    unfold Dev.ask
    rw [if_neg h2, if_neg h3, h4]
    rfl
  rw [if_pos hp, this]
  exact hP

theorem fence_off (p f : Nat) : F.FENCE_VAL_LO.off [p, f] = 0x802000 + (0x4000 * p + 8 * f) ∧
    F.FENCE_VAL_HI.off [p, f] = 0x802004 + (0x4000 * p + 8 * f) := by
  constructor <;> simp [Fld.off]

/-- The registers of a partition's fences. -/
def isFence (p off : Nat) : Prop := 0x802000 + 0x4000 * p ≤ off ∧ off < 0x802800 + 0x4000 * p

/-- The registers of a partition's hash tables. -/
def isTable (p off : Nat) : Prop := 0x803000 + 0x4000 * p ≤ off ∧ off < 0x803200 + 0x4000 * p

theorem clearFences (s : Dev) (p : Nat) :
    let e := s.forEach (List.range 256) fun s f => s.put64 F.FENCE_VAL_LO F.FENCE_VAL_HI [p, f] 0
    OnlyRegs s e ∧ Stands (fun off => ¬isFence p off) s e ∧ ∀ f < 256, e.get F.FENCE_VAL_LO [p, f] = 0 ∧ e.get F.FENCE_VAL_HI [p, f] = 0 := by
  intro e
  obtain ⟨w1, w2⟩ := regsWalk (K := fun off => ¬isFence p off) (List.range 256) (fun s f => s.put64 F.FENCE_VAL_LO F.FENCE_VAL_HI [p, f] 0)
    (fun s f hf => by
      have hf' := List.mem_range.1 hf
      refine ⟨onlyRegs_put64 s _ _ _ _, stands_trans (stands_put s 0 ?_) (stands_put _ _ ?_)⟩
      · rw [(fence_off p f).1, isFence]; omega
      · rw [(fence_off p f).2, isFence]; omega) s
  refine ⟨w1, w2, fun f hf => ?_⟩
  have hz : ∀ s : Dev, ∀ f, (s.put64 F.FENCE_VAL_LO F.FENCE_VAL_HI [p, f] 0).get F.FENCE_VAL_LO [p, f] = 0 ∧
      (s.put64 F.FENCE_VAL_LO F.FENCE_VAL_HI [p, f] 0).get F.FENCE_VAL_HI [p, f] = 0 := fun s f => by
    unfold Dev.put64
    refine ⟨?_, Dev.get_put_fit _ (by decide) (by decide)⟩
    rw [Dev.get_put_apart _ _ (apart_of_off (by rw [(fence_off p f).1, (fence_off p f).2]; omega) (by decide))]
    exact Dev.get_put_fit _ (by decide) (by decide)
  refine forEach_all (Q := fun f e => e.get F.FENCE_VAL_LO [p, f] = 0 ∧ e.get F.FENCE_VAL_HI [p, f] = 0) _ hz (fun s g f h => ?_) _ s f (List.mem_range.2 hf)
  by_cases hfg : f = g
  · subst hfg; exact hz s f
  · unfold Dev.put64
    have ha : ∀ x ∈ [F.FENCE_VAL_LO, F.FENCE_VAL_HI], ∀ y ∈ [F.FENCE_VAL_LO, F.FENCE_VAL_HI], Fld.apart x [p, g] y [p, f] = true := by
      intro x hx y hy
      simp only [List.mem_cons, List.not_mem_nil, or_false] at hx hy
      refine apart_of_off ?_ (by rcases hy with rfl | rfl <;> decide)
      rcases hx with rfl | rfl <;> rcases hy with rfl | rfl <;> simp only [fence_off] <;> omega
    rw [Dev.get_put_apart _ _ (ha _ (by simp) _ (by simp)), Dev.get_put_apart _ _ (ha _ (by simp) _ (by simp)),
      Dev.get_put_apart _ _ (ha _ (by simp) _ (by simp)), Dev.get_put_apart _ _ (ha _ (by simp) _ (by simp))]
    exact h

theorem table_off {f : Fld} (hf : f ∈ [F.HT_STATE, F.HT_PROBES, F.HT_ROWS]) (p h : Nat) : f.off [p, h] = f.base + (0x4000 * p + 0x20 * h) := by
  simp only [List.mem_cons, List.not_mem_nil, or_false] at hf
  rcases hf with rfl | rfl | rfl <;> simp [Fld.off]

/-- One hash table header, EMPTY. -/
def emptyTable (p : Nat) (s : Dev) (h : Nat) : Dev := ((s.put F.HT_STATE [p, h] 0).put F.HT_ROWS [p, h] 0).put F.HT_PROBES [p, h] 0

theorem clearTables (s : Dev) (p : Nat) :
    OnlyRegs s (s.forEach (List.range 16) (emptyTable p)) ∧ Stands (fun off => ¬isTable p off) s (s.forEach (List.range 16) (emptyTable p)) ∧
    ∀ h < 16, (s.forEach (List.range 16) (emptyTable p)).get F.HT_STATE [p, h] = 0 := by
  obtain ⟨w1, w2⟩ := regsWalk (K := fun off => ¬isTable p off) (List.range 16) (emptyTable p)
    (fun s h hh => by
      have hh' := List.mem_range.1 hh
      have hin : ∀ f ∈ [F.HT_STATE, F.HT_PROBES, F.HT_ROWS], ¬¬isTable p (f.off [p, h]) := fun f hf => by
        have hb : 0x803000 ≤ f.base ∧ f.base < 0x803020 := by revert f; decide
        rw [table_off hf, isTable]; omega
      exact ⟨onlyRegs_trans (onlyRegs_put s _ _ _) (onlyRegs_trans (onlyRegs_put _ _ _ _) (onlyRegs_put _ _ _ _)),
        stands_trans (stands_put s 0 (hin F.HT_STATE (by simp))) (stands_trans (stands_put _ 0 (hin F.HT_ROWS (by simp))) (stands_put _ 0 (hin F.HT_PROBES (by simp))))⟩) s
  refine ⟨w1, w2, fun h hh => ?_⟩
  have ha : ∀ f ∈ [F.HT_ROWS, F.HT_PROBES], ∀ g h, Fld.apart f [p, g] F.HT_STATE [p, h] = true := fun f hf g h => by
    simp only [List.mem_cons, List.not_mem_nil, or_false] at hf
    rcases hf with rfl | rfl
    · exact apart_of_off (by rw [table_off (by simp), table_off (by simp)]; simp only; omega) (by decide)
    · exact apart_of_bits (by decide) (by decide)
  have hz : ∀ (s : Dev) (h : Nat), (emptyTable p s h).get F.HT_STATE [p, h] = 0 := fun s h => by
    unfold emptyTable
    rw [Dev.get_put_apart _ _ (ha _ (by simp) h h), Dev.get_put_apart _ _ (ha _ (by simp) h h)]
    exact Dev.get_put_fit _ (by decide) (by decide)
  refine forEach_all (Q := fun h e => e.get F.HT_STATE [p, h] = 0) _ hz (fun s g h hs => ?_) _ s h (List.mem_range.2 hh)
  by_cases hgh : h = g
  · subst hgh; exact hz s h
  · unfold emptyTable
    rw [Dev.get_put_apart _ _ (ha _ (by simp) g h), Dev.get_put_apart _ _ (ha _ (by simp) g h),
      Dev.get_put_apart _ _ (apart_of_off (by rw [table_off (by simp), table_off (by simp)]; omega) (by decide))]
    exact hs

/-- An ENABLE whose set is accepted. -/
theorem partEnable_accepted {d : Dev} {p : Nat} (hc : d.setCause p (d.slotReg p (d.get F.P_SLOT [p])) pDISABLED = none) :
    (d.partEnable p).get F.P_STATE [p] = pENABLED ∧ ActiveIs d (d.partEnable p) p (d.get F.P_SLOT [p]) ∧
    (∀ f < 256, (d.partEnable p).get F.FENCE_VAL_LO [p, f] = 0 ∧ (d.partEnable p).get F.FENCE_VAL_HI [p, f] = 0) ∧
    (∀ h < 16, (d.partEnable p).get F.HT_STATE [p, h] = 0) ∧ (d.partEnable p).mem = d.mem ∧ (d.partEnable p).hostMem = d.hostMem := by
  obtain ⟨a1, a2, a3⟩ := clearFences d p
  obtain ⟨s1, hs1⟩ : ∃ s1, s1 = d.forEach (List.range 256) fun s f => s.put64 F.FENCE_VAL_LO F.FENCE_VAL_HI [p, f] 0 := ⟨_, rfl⟩
  rw [← hs1] at a1 a2 a3
  obtain ⟨b1, b2, b3⟩ := clearTables s1 p
  obtain ⟨s2, hs2⟩ : ∃ s2, s2 = s1.forEach (List.range 16) (emptyTable p) := ⟨_, rfl⟩
  rw [← hs2] at b1 b2 b3
  obtain ⟨s3, hs3⟩ : ∃ s3, s3 = s2.put F.P_STATE [p] pENABLED := ⟨_, rfl⟩
  have he : d.partEnable p = s3.applySet p (d.get F.P_SLOT [p]) := by
    rw [Dev.partEnable]
    dsimp only
    rw [hc, hs3, hs2, hs1]
    rfl
  have c1 : OnlyRegs s2 s3 := by rw [hs3]; exact onlyRegs_put _ _ _ _
  have c2 : Stands (fun off => off ≠ 0x800804 + 0x4000 * p) s2 s3 := by
    rw [hs3]; exact stands_put s2 _ (by rw [part_off (by decide)]; simp)
  have c3 : s3.get F.P_STATE [p] = pENABLED := by rw [hs3]; exact Dev.get_put_fit _ (by decide) (by decide)
  obtain ⟨t1, t2, t3, t4⟩ := applySet_reads s3 p (d.get F.P_SLOT [p])
  have hsl : d.get F.P_SLOT [p] < 16 := bitsOf_lt _ _ _
  have hslot : ∀ r < 29, s3.slotReg p (d.get F.P_SLOT [p]) (4 * r) = d.slotReg p (d.get F.P_SLOT [p]) (4 * r) := fun r hr => by
    unfold Dev.slotReg
    rw [c2 _ (by omega), b2 _ (by unfold isTable; omega), a2 _ (by unfold isFence; omega)]
  have ho : OnlyRegs d s3 := onlyRegs_trans a1 (onlyRegs_trans b1 c1)
  rw [he]
  refine ⟨(t4 p).trans c3, fun r hr => (t3 r hr).trans (hslot r hr), fun f hf => ?_, fun h hh => ?_, t1.mem.1.trans ho.mem.1, t1.mem.2.1.trans ho.mem.2⟩
  · have hk : ∀ g ∈ [F.FENCE_VAL_LO, F.FENCE_VAL_HI], (s3.applySet p (d.get F.P_SLOT [p])).get g [p, f] = s1.get g [p, f] := fun g hg => by
      have hg' : 0x802000 + 0x4000 * p ≤ g.off [p, f] ∧ g.off [p, f] < 0x802800 + 0x4000 * p := by
        simp only [List.mem_cons, List.not_mem_nil, or_false] at hg
        rcases hg with rfl | rfl <;> simp only [fence_off] <;> omega
      rw [t2.get g [p, f] (by unfold setKept; omega), c2.get g [p, f] (by omega), b2.get g [p, f] (by unfold isTable; omega)]
    rw [hk _ (by simp), hk _ (by simp)]
    exact a3 f hf
  · have hg : F.HT_STATE.off [p, h] = 0x803010 + (0x4000 * p + 0x20 * h) := table_off (by simp) p h
    rw [t2.get F.HT_STATE [p, h] (by rw [hg, setKept]; omega), c2.get F.HT_STATE [p, h] (by rw [hg]; omega)]
    exact b3 h hh

/-- Settles O22: a set is applied whole, or refused whole with its cause. -/
theorem partitionSets : Obligations.PartitionSets := by
  unfold Obligations.PartitionSets
  intro d p hw hp sl refused
  have ref : ∀ {n c : Nat}, d.setCause p (d.slotReg p sl) n = some c → refused c (d.refuseSet p c) := fun h => refuseSet_reads d p (setCause_lt h)
  refine ⟨fun hc => gives_ask (q := fun _ => .enable p) (fun _ => rfl) hw hp (partEnable_accepted hc),
    fun hc => gives_ask (q := fun d => .reshape p (d.get F.P_SLOT [p])) (fun _ => rfl) hw hp ?_,
    fun c hc => gives_ask (q := fun _ => .enable p) (fun _ => rfl) hw hp ?_,
    fun c hc => gives_ask (q := fun d => .reshape p (d.get F.P_SLOT [p])) (fun _ => rfl) hw hp ?_⟩
  · obtain ⟨t1, -, t3, t4⟩ := applySet_reads d p sl
    have he : d.perform (.reshape p (d.get F.P_SLOT [p])) = d.applySet p sl := by
      change (d.reshape p sl).2 = _
      rw [Dev.reshape, hc]
    rw [he]
    exact ⟨t3, t4 p, t1.mem.1, t1.mem.2.1⟩
  · have he : d.perform (.enable p) = d.refuseSet p c := by
      change d.partEnable p = _
      rw [Dev.partEnable]
      dsimp only
      rw [hc]
    rw [he]
    exact ref hc
  · have he : d.perform (.reshape p (d.get F.P_SLOT [p])) = d.refuseSet p c := by
      change (d.reshape p sl).2 = _
      rw [Dev.reshape, hc]
    rw [he]
    exact ref hc

end Sys2Proof
end

section
/-! SUPPORT. Partitions: releases, zeroing and scrubs (06 R210, R211, R222, R231). -/

namespace Sys2Proof

open Machine

theorem part_updPart (s : Dev) (p q : Nat) (f : Machine.Part → Machine.Part) : (s.updPart p f).part q = if q = p then f (s.part p) else s.part q :=
  Tab.get_set _ _ _ _ _

theorem part_congr {a b : Dev} (h : b.parts = a.parts) (q : Nat) : b.part q = a.part q := by
  unfold Dev.part
  rw [h]

theorem OnlyRegsIrq.part {a b : Dev} (h : OnlyRegsIrq a b) (q : Nat) : b.part q = a.part q := part_congr (by rw [h]) q

/-! ### What passes on -/

/-- The registers that no partition's upkeep writes: all but the control registers. -/
def upkeepKept (off : Nat) : Prop := ∀ q, ctlKept q off

/-- Only the upkeep of reshapes: claims, engines, control registers and interrupts changed, and no partition's state. -/
structure Upkeep (a b : Dev) : Prop where
  only : OnlySet a b
  regs : Stands upkeepKept a b
  state : ∀ q, b.get F.P_STATE [q] = a.get F.P_STATE [q]
  parts : ∀ q, { b.part q with claims := (a.part q).claims } = a.part q

theorem Upkeep.part {a b : Dev} (h : Upkeep a b) (q : Nat) : (b.part q).releasing = (a.part q).releasing ∧ (b.part q).zeroRel = (a.part q).zeroRel ∧
    (b.part q).grand = (a.part q).grand ∧ (b.part q).zeroing = (a.part q).zeroing := by
  have := h.parts q
  generalize b.part q = x, a.part q = y at this ⊢
  rw [← this]
  exact ⟨rfl, rfl, rfl, rfl⟩

theorem upkeep_refl (s : Dev) : Upkeep s s := ⟨onlySet_refl s, stands_refl _ s, fun _ => rfl, fun _ => rfl⟩

theorem upkeep_trans {a b c : Dev} (h : Upkeep a b) (h' : Upkeep b c) : Upkeep a c := by
  refine ⟨onlySet_trans h.only h'.only, stands_trans h.regs h'.regs, fun q => (h'.state q).trans (h.state q), fun q => ?_⟩
  rw [← h.parts q, ← h'.parts q]

theorem upkeep_fix (s : Dev) (p : Nat) : Upkeep s ((s.fixTarn p).reshapeCheck p) := by
  obtain ⟨f1, f2, f3⟩ := fixTarn_reads s p
  obtain ⟨r1, r2, r3⟩ := reshapeCheck_reads (s.fixTarn p) p
  refine ⟨onlySet_trans f1.irq.set r1.set, stands_mono (stands_trans f2 r2) fun off h => h p, fun q => (r3 q).trans (f3 q), fun q => ?_⟩
  rw [r1.part q, f1.irq.part q]

theorem upkeep_claims (s : Dev) (p : Nat) (f : List Res → List Res) : Upkeep s (s.updPart p fun t => { t with claims := f t.claims }) := by
  obtain ⟨o, hr⟩ := onlySet_updPart s p fun t => { t with claims := f t.claims }
  refine ⟨o, stands_of_regs hr, fun q => by rw [Dev.get_eq, hr, ← Dev.get_eq], fun q => ?_⟩
  rw [part_updPart]
  split
  · rename_i h; rw [h]
  · rfl

theorem upkeep_passOn (s : Dev) (rs : List Res) : Upkeep s (s.passOn rs) := by
  refine forEach_keeps upkeep_refl upkeep_trans _ _ (fun s q _ => ?_) s
  split
  · exact upkeep_trans (upkeep_claims s q fun l => resMinus l rs) (upkeep_fix _ q)
  · exact upkeep_refl s

theorem upkeep_clearPockets (s : Dev) (rs : List Res) : Upkeep s (s.clearPockets rs) :=
  ⟨rfl, stands_of_regs rfl, fun _ => rfl, fun _ => rfl⟩

/-! ### The end of a release -/

/-- What is let go is put to zeroing where it asks for it, and the rest of every partition but its claims stands. -/
theorem letGo_reads (s : Dev) (p : Nat) (rs zero : List Res) :
    OnlySet s (s.letGo p rs zero) ∧ Stands upkeepKept s (s.letGo p rs zero) ∧ (∀ q, (s.letGo p rs zero).get F.P_STATE [q] = s.get F.P_STATE [q]) ∧
    ((s.letGo p rs zero).part p).releasing = (s.part p).releasing ∧ ((s.letGo p rs zero).part p).zeroRel = (s.part p).zeroRel ∧
    ((s.letGo p rs zero).part p).grand = (s.part p).grand ∧ ((s.letGo p rs zero).part p).zeroing = (s.part p).zeroing ++ zero := by
  obtain ⟨s1, hs1⟩ : ∃ s1, s1 = (s.clearPockets rs).updPart p fun t => { t with zeroing := t.zeroing ++ zero } := ⟨_, rfl⟩
  have he : s.letGo p rs zero = s1.passOn (resMinus rs zero) := by rw [hs1]; rfl
  have u := upkeep_passOn s1 (resMinus rs zero)
  have c := upkeep_clearPockets s rs
  obtain ⟨o, hr⟩ := onlySet_updPart (s.clearPockets rs) p fun t => { t with zeroing := t.zeroing ++ zero }
  rw [← hs1] at o hr
  have hp : s1.part p = { s.part p with zeroing := (s.part p).zeroing ++ zero } := by rw [hs1, part_updPart, if_pos rfl]; rfl
  obtain ⟨q1, q2, q3, q4⟩ := u.part p
  rw [hp] at q1 q2 q3 q4
  rw [he]
  refine ⟨onlySet_trans c.only (onlySet_trans o u.only), stands_trans c.regs (stands_trans (stands_of_regs hr) u.regs), fun q => ?_, q1, q2, q3, q4⟩
  · rw [u.state, Dev.get_eq, hr, ← Dev.get_eq, c.state]

theorem releaseEnd_reads {s : Dev} {p : Nat} (hr : (s.part p).releasing ≠ []) (hg : ∀ c ∈ (s.part p).grand, c ∉ s.runningChunks p) :
    ((s.releaseEnd p).part p).releasing = [] ∧ ((s.releaseEnd p).part p).grand = [] ∧
    ((s.releaseEnd p).part p).zeroing = (s.part p).zeroing ++ (s.part p).zeroRel ∧ ((s.releaseEnd p).part p).zeroRel = [] ∧
    (s.releaseEnd p).mem = s.mem ∧ (s.releaseEnd p).hostMem = s.hostMem := by
  have hc : ((s.part p).releasing.isEmpty || ((s.part p).grand.any fun c => (s.runningChunks p).contains c)) = false := by
    rw [Bool.or_eq_false_iff, List.isEmpty_eq_false_iff, List.any_eq_false]
    exact ⟨hr, fun c hc => by rw [List.contains_iff_mem]; exact hg c hc⟩
  obtain ⟨s1, hs1⟩ : ∃ s1, s1 = s.updPart p fun t => { t with releasing := [], zeroRel := [], grand := [] } := ⟨_, rfl⟩
  have he : s.releaseEnd p = ((s1.letGo p (s.part p).releasing (s.part p).zeroRel).fixTarn p).reshapeCheck p := by
    unfold Dev.releaseEnd
    dsimp only
    rw [hc, hs1]
    rfl
  obtain ⟨l1, l2, l3, l4, l5, l6, l7⟩ := letGo_reads s1 p (s.part p).releasing (s.part p).zeroRel
  have u := upkeep_fix (s1.letGo p (s.part p).releasing (s.part p).zeroRel) p
  have o := (onlySet_updPart s p fun t => { t with releasing := [], zeroRel := [], grand := [] }).1
  rw [← hs1] at o
  have hp : s1.part p = { s.part p with releasing := [], zeroRel := [], grand := [] } := by rw [hs1, part_updPart, if_pos rfl]
  rw [hp] at l4 l5 l6 l7
  have hall := onlySet_trans o (onlySet_trans l1 u.only)
  obtain ⟨q1, q2, q3, q4⟩ := u.part p
  rw [he]
  exact ⟨q1.trans l4, q3.trans l6, q4.trans l7, q2.trans l5, hall.mem.1, hall.mem.2.1⟩

/-! ### Zeroing -/

theorem Tab.get_eraseRange {α : Type} (d : α) (t : Tab α) (lo hi k : Nat) :
    Tab.get d (Tab.eraseRange t lo hi) k = if lo ≤ k ∧ k < hi then d else Tab.get d t k := by
  split
  · rename_i h
    unfold Tab.eraseRange
    induction t with
    | nil => rfl
    | cons e t ih =>
      rw [List.filter_cons]
      split
      · rename_i he
        have : k ≠ e.1 := by rintro rfl; simp at he; omega
        simp [Tab.get, this, ih]
      · exact ih
  · rename_i h
    exact Tab.get_filter d t _ k fun v => by simp; omega

/-- Is the address in a granule of the list? -/
def inGranules (z : List Res) (a : Nat) : Bool :=
  z.any fun r => decide (r.die * 2 ^ 32 + r.idx * 2 ^ 26 ≤ a) && decide (a < r.die * 2 ^ 32 + r.idx * 2 ^ 26 + 2 ^ 26)

theorem zeroGranule_get (s : Dev) (d g a : Nat) : Tab.get 0 (s.zeroGranule d g).mem a =
    if d * 2 ^ 32 + g * 2 ^ 26 ≤ a ∧ a < d * 2 ^ 32 + g * 2 ^ 26 + 2 ^ 26 then 0 else Tab.get 0 s.mem a :=
  Tab.get_eraseRange _ _ _ _ _

theorem zeroGranules_reads (z : List Res) (s : Dev) :
    (∀ a, Tab.get 0 (s.forEach z fun s r => s.zeroGranule r.die r.idx).mem a = if inGranules z a then 0 else Tab.get 0 s.mem a) ∧
    (s.forEach z fun s r => s.zeroGranule r.die r.idx).hostMem = s.hostMem ∧ (s.forEach z fun s r => s.zeroGranule r.die r.idx).parts = s.parts := by
  unfold Dev.forEach
  induction z generalizing s with
  | nil => exact ⟨fun a => rfl, rfl, rfl⟩
  | cons r z ih =>
    obtain ⟨i1, i2, i3⟩ := ih (s.zeroGranule r.die r.idx)
    refine ⟨fun a => ?_, i2, i3⟩
    rw [List.foldl_cons, i1 a]
    rw [zeroGranule_get]
    unfold inGranules
    rw [List.any_cons]
    by_cases h1 : r.die * 2 ^ 32 + r.idx * 2 ^ 26 ≤ a ∧ a < r.die * 2 ^ 32 + r.idx * 2 ^ 26 + 2 ^ 26
    · have h2 : (decide (r.die * 2 ^ 32 + r.idx * 2 ^ 26 ≤ a) && decide (a < r.die * 2 ^ 32 + r.idx * 2 ^ 26 + 2 ^ 26)) = true := by
        rw [← Bool.decide_and]; exact decide_eq_true h1
      rw [if_pos h1, h2, Bool.true_or, ite_self, if_pos rfl]
    · have h2 : (decide (r.die * 2 ^ 32 + r.idx * 2 ^ 26 ≤ a) && decide (a < r.die * 2 ^ 32 + r.idx * 2 ^ 26 + 2 ^ 26)) = false := by
        rw [← Bool.decide_and]; exact decide_eq_false h1
      rw [if_neg h1, h2, Bool.false_or]

theorem latchViol_only (s : Dev) (a : Acc) (kind : Nat) (v : Viol) (addr : Nat) : OnlyRegsIrq s (s.latchViol a kind v addr) := by
  unfold Dev.latchViol
  dsimp only
  split
  · split
    · exact onlyRegsIrq_refl s
    · exact onlyRegsIrq_trans (onlyRegs_trans (onlyRegs_put64 s _ _ _ _) (onlyRegs_trans (onlyRegs_put _ _ _ _) (onlyRegs_trans (onlyRegs_put _ _ _ _)
        (onlyRegs_trans (onlyRegs_put _ _ _ _) (onlyRegs_put _ _ _ _))))).irq (onlyRegsIrq_partEvent _ _ _)
  · split
    · exact onlyRegsIrq_refl s
    · exact onlyRegsIrq_trans (onlyRegs_trans (onlyRegs_put64 s _ _ _ _) (onlyRegs_trans (onlyRegs_put0 _ _ _) (onlyRegs_trans (onlyRegs_put0 _ _ _)
        (onlyRegs_trans (onlyRegs_put0 _ _ _) (onlyRegs_put0 _ _ _))))).irq (onlyRegsIrq_raisePf _ _).1

theorem scrubRefused_reads (s : Dev) (die kind addr : Nat) (v : Viol) :
    (s.scrubRefused die kind addr v).parts = s.parts ∧ (s.scrubRefused die kind addr v).mem = s.mem ∧
    (s.scrubRefused die kind addr v).ecc = s.ecc := by
  have h := latchViol_only s (scrubAcc die) kind v addr
  unfold Dev.scrubRefused
  generalize s.latchViol (scrubAcc die) kind v addr = x at h
  refine ⟨?_, h.set.mem.1, h.set.mem.2.2⟩
  change x.parts = _
  rw [h]

/-- What the scrubbers of a list of granules are refused. -/
def zeroRefused (s : Dev) (z : List Res) : Option (Nat × Nat × Viol) :=
  z.findSome? fun r => (s.scrubCheck r.die kWrite (r.die * 2 ^ 32 + r.idx * 2 ^ 26) (2 ^ 26)).map fun x => (r.die, x)

theorem zeroingDone_refused {s : Dev} {p : Nat}
    (h : ∃ r ∈ (s.part p).zeroing, s.scrubCheck r.die kWrite (r.die * 2 ^ 32 + r.idx * 2 ^ 26) (2 ^ 26) ≠ none) :
    ((s.zeroingDone p).part p).zeroing = (s.part p).zeroing ∧ (s.zeroingDone p).mem = s.mem ∧ (s.zeroingDone p).ecc = s.ecc := by
  obtain ⟨⟨d, a, v⟩, hx⟩ : ∃ x, zeroRefused s (s.part p).zeroing = some x := by
    rw [← Option.isSome_iff_exists, zeroRefused, List.findSome?_isSome_iff]
    obtain ⟨r, hr, hn⟩ := h
    exact ⟨r, hr, by rw [Option.isSome_map, Option.isSome_iff_ne_none]; exact hn⟩
  have he : s.zeroingDone p = s.scrubRefused d kWrite a v := by
    unfold Dev.zeroingDone
    dsimp only
    rw [show List.findSome? _ _ = _ from hx]
  obtain ⟨h1, h2, h3⟩ := scrubRefused_reads s d kWrite a v
  rw [he]
  exact ⟨by rw [part_congr h1], h2, h3⟩

theorem zeroingDone_zeroes {s : Dev} {p : Nat}
    (h : ∀ r ∈ (s.part p).zeroing, s.scrubCheck r.die kWrite (r.die * 2 ^ 32 + r.idx * 2 ^ 26) (2 ^ 26) = none) :
    ((s.zeroingDone p).part p).zeroing = [] ∧
    (∀ a, Tab.get 0 (s.zeroingDone p).mem a = if inGranules (s.part p).zeroing a then 0 else Tab.get 0 s.mem a) ∧
    (s.zeroingDone p).hostMem = s.hostMem := by
  have hx : zeroRefused s (s.part p).zeroing = none := by
    rw [zeroRefused, List.findSome?_eq_none_iff]
    exact fun r hr => by rw [h r hr]; rfl
  obtain ⟨s1, hs1⟩ : ∃ s1, s1 = s.forEach (s.part p).zeroing fun s r => s.zeroGranule r.die r.idx := ⟨_, rfl⟩
  obtain ⟨s2, hs2⟩ : ∃ s2, s2 = s1.updPart p fun t => { t with zeroing := [] } := ⟨_, rfl⟩
  have he : s.zeroingDone p = s2.passOn (s.part p).zeroing := by
    unfold Dev.zeroingDone
    dsimp only
    rw [show List.findSome? _ _ = _ from hx, hs2, hs1]
  obtain ⟨z1, z2, -⟩ := zeroGranules_reads (s.part p).zeroing s
  rw [← hs1] at z1 z2
  obtain ⟨o, -⟩ := onlySet_updPart s1 p fun t => { t with zeroing := [] }
  rw [← hs2] at o
  have u := upkeep_passOn s2 (s.part p).zeroing
  have hp : (s2.part p).zeroing = [] := by rw [hs2, part_updPart, if_pos rfl]
  have ho := onlySet_trans o u.only
  rw [he]
  exact ⟨(u.part p).2.2.2.trans hp, fun a => by rw [ho.mem.1, z1 a], ho.mem.2.1.trans z2⟩

/-! ### The scrub -/

/-- Only granules and arrays changed. -/
def OnlyScrub (a b : Dev) : Prop := b = { a with mem := b.mem, ecc := b.ecc, scree := b.scree }

theorem onlyScrub_refl (a : Dev) : OnlyScrub a a := rfl

theorem OnlyScrub.rest {a b : Dev} (h : OnlyScrub a b) : b.hostMem = a.hostMem ∧ b.parts = a.parts := by
  rw [h]; exact ⟨rfl, rfl⟩

theorem onlyScrub_trans {a b c : Dev} (h : OnlyScrub a b) (h' : OnlyScrub b c) : OnlyScrub a c := by
  unfold OnlyScrub at *
  rw [h] at h'
  exact h'

/-- Only arrays changed. -/
def OnlyScree (a b : Dev) : Prop := b = { a with scree := b.scree }

theorem OnlyScree.scrub {a b : Dev} (h : OnlyScree a b) : OnlyScrub a b := by
  unfold OnlyScrub OnlyScree at *
  generalize b.scree = x at h
  subst h
  rfl

theorem onlyScree_refl (a : Dev) : OnlyScree a a := rfl

theorem onlyScree_trans {a b c : Dev} (h : OnlyScree a b) (h' : OnlyScree b c) : OnlyScree a c := by
  unfold OnlyScree at *
  rw [h] at h'
  exact h'

theorem onlyScree_updScree (s : Dev) (f : Scree → Scree) : OnlyScree s (s.updScree f) := rfl

theorem onlyScree_zeroSArray (s : Dev) (die g : Nat) : OnlyScree s (s.zeroSArray die g) := by
  unfold Dev.zeroSArray
  exact onlyScree_updScree s _

theorem OnlyScree.mem {a b : Dev} (h : OnlyScree a b) : b.mem = a.mem := by
  rw [h]

theorem onlyScree_eraseTArray (s : Dev) (die g : Nat) : OnlyScree s (s.eraseTArray die g) := by
  refine onlyScree_trans (onlyScree_updScree s _) (forEach_keeps onlyScree_refl onlyScree_trans _ _ (fun s f _ => ?_) _)
  dsimp only
  split
  · exact onlyScree_refl s
  · exact onlyScree_trans (b := s.setFace die g f _) rfl rfl

/-- A scrub of one resource. -/
def scrubOne (t : Bool) (s : Dev) (r : Res) : Dev :=
  if r.kind = 5 then s.zeroGranule r.die r.idx
  else s.forEach (List.range r.cnt) fun s i =>
    let s := s.zeroSArray r.die (r.idx + i)
    if t then s.eraseTArray r.die (r.idx + i) else s

theorem scrubOne_arrays (t : Bool) (s : Dev) {r : Res} (h : r.kind ≠ 5) : OnlyScree s (scrubOne t s r) := by
  unfold scrubOne
  rw [if_neg h]
  refine forEach_keeps onlyScree_refl onlyScree_trans _ _ (fun s i _ => ?_) s
  dsimp only
  split
  · exact onlyScree_trans (onlyScree_zeroSArray s _ _) (onlyScree_eraseTArray _ _ _)
  · exact onlyScree_zeroSArray s _ _

theorem scrubOne_only (t : Bool) (s : Dev) (r : Res) : OnlyScrub s (scrubOne t s r) := by
  by_cases h : r.kind = 5
  · rw [scrubOne, if_pos h]; rfl
  · exact (scrubOne_arrays t s h).scrub

/-- The bytes of a granule are all zero. -/
def granuleZero (r : Res) (s : Dev) : Prop :=
  r.kind = 5 → ∀ a, r.die * 2 ^ 32 + r.idx * 2 ^ 26 ≤ a → a < r.die * 2 ^ 32 + (r.idx + 1) * 2 ^ 26 → Tab.get 0 s.mem a = 0

theorem scrubOne_zeroes (t : Bool) (s : Dev) (r : Res) : granuleZero r (scrubOne t s r) := by
  intro hk a h1 h2
  have h3 : a < r.die * 2 ^ 32 + r.idx * 2 ^ 26 + 2 ^ 26 := by rw [Nat.add_mul, ← Nat.add_assoc, Nat.one_mul] at h2; exact h2
  rw [scrubOne, if_pos hk, zeroGranule_get, if_pos ⟨h1, h3⟩]

theorem scrubOne_keepsZero (t : Bool) (s : Dev) (r y : Res) (h : granuleZero y s) : granuleZero y (scrubOne t s r) := by
  intro hk a h1 h2
  by_cases hr : r.kind = 5
  · rw [scrubOne, if_pos hr, zeroGranule_get]
    split
    · rfl
    · exact h hk a h1 h2
  · rw [(scrubOne_arrays t s hr).mem]
    exact h hk a h1 h2

theorem globalHit_congr {a b : Dev} (h : b.regs = a.regs) (g addr mid : Nat) : b.globalHit g addr mid = a.globalHit g addr mid := by
  simp only [Dev.globalHit, Dev.get64, Dev.get_eq, h]

theorem partHit_congr {a b : Dev} (h : b.regs = a.regs) (p r addr mid : Nat) : b.partHit p r addr mid = a.partHit p r addr mid := by
  simp only [Dev.partHit, Dev.get64, Dev.get_eq, h]

theorem scrubCheck_congr {a b : Dev} (h : b.regs = a.regs) (die k x l : Nat) : b.scrubCheck die k x l = a.scrubCheck die k x l := by
  simp only [Dev.scrubCheck, Dev.regionCheck, globalHit_congr h, partHit_congr h, Dev.get64, Dev.get_eq, h]
  rfl

theorem scrubDone_reads {s : Dev} {p : Nat} (hs : s.get F.P_STATE [p] = pSCRUBBING) (hp : (s.part p).prior = pENABLED)
    (h : ∀ r ∈ (s.part p).scrub, r.kind = 5 → s.scrubCheck r.die kWrite (r.die * 2 ^ 32 + r.idx * 2 ^ 26) (2 ^ 26) = none) :
    (s.scrubDone p).get F.P_STATE [p] = pENABLED ∧ bitAt ((s.scrubDone p).get F.P_EVENTS [p]) 7 = true ∧ ((s.scrubDone p).part p).scrub = [] ∧
    (∀ r ∈ (s.part p).scrub, granuleZero r (s.scrubDone p)) ∧ (s.scrubDone p).hostMem = s.hostMem := by
  obtain ⟨s1, hs1⟩ : ∃ s1, s1 = s.updPart p fun t => { t with scrub := [] } := ⟨_, rfl⟩
  obtain ⟨s2, hs2⟩ : ∃ s2, s2 = s1.forEach (s.part p).scrub (scrubOne (s.part p).scrubT) := ⟨_, rfl⟩
  obtain ⟨s3, hs3⟩ : ∃ s3, s3 = s2.put F.P_STATE [p] (s.part p).prior := ⟨_, rfl⟩
  have hn : (s.part p).scrub.findSome? (fun r =>
      if r.kind = 5 then (s1.scrubCheck r.die kWrite (r.die * 2 ^ 32 + r.idx * 2 ^ 26) (2 ^ 26)).map fun x => (r.die, x) else none) = none := by
    have h1 : ∀ die k b l, s1.scrubCheck die k b l = s.scrubCheck die k b l := by rw [hs1]; exact fun _ _ _ _ => rfl
    rw [List.findSome?_eq_none_iff]
    intro r hr
    split
    · rename_i hk
      rw [h1, h r hr hk]; rfl
    · rfl
  have he : s.scrubDone p = s3.partEvent p 7 := by
    rw [Dev.scrubDone, if_neg (by rw [hs]; simp)]
    dsimp only
    rw [← hs1, hn, hs3, hs2]
    rfl
  have o2 : OnlyScrub s1 s2 := by
    rw [hs2]; exact forEach_keeps onlyScrub_refl onlyScrub_trans _ _ (fun s r _ => scrubOne_only _ s r) s1
  have z2 : ∀ r ∈ (s.part p).scrub, granuleZero r s2 := by
    rw [hs2]; exact forEach_all _ (scrubOne_zeroes _) (scrubOne_keepsZero _) _ s1
  have o3 : OnlyRegs s2 s3 := by rw [hs3]; exact onlyRegs_put _ _ _ _
  have o4 := onlyRegsIrq_trans o3.irq (onlyRegsIrq_partEvent s3 p 7)
  have g3 : s3.get F.P_STATE [p] = pENABLED := by rw [hs3, hp]; exact Dev.get_put_fit _ (by decide) (by decide)
  have hp2 : s2.part p = s1.part p := part_congr o2.rest.2 p
  rw [he]
  refine ⟨?_, partEvent_bit _ _ (by decide), ?_, fun r hr hk a h1 h2 => by rw [o4.mem.1]; exact z2 r hr hk a h1 h2, ?_⟩
  · rw [partEvent_get _ _ _ (part_apart (by decide) (by decide) (by decide) p), g3]
  · rw [o4.part, hp2, hs1, part_updPart, if_pos rfl]
  · rw [o4.mem.2, o2.rest.1, hs1]; rfl

/-- A scrub of an ENABLED partition whose queues are all DISABLED begins. -/
theorem scrub_begins {s : Dev} {p : Nat} (hs : s.get F.P_STATE [p] = pENABLED) (hq : ∀ i < 20, s.qIdle (qkey p i) = true) :
    (s.scrub p).get F.P_STATE [p] = pSCRUBBING ∧ ((s.scrub p).part p).prior = pENABLED ∧ ((s.scrub p).part p).scrub = scrubbed (s.activeRes p) ∧
    OnlyFields [(F.P_STATE, [p])] s (s.scrub p) ∧ s.scrub p = { s with regs := (s.scrub p).regs, parts := (s.scrub p).parts } := by
  have hc : s.get F.P_STATE [p] = pENABLED ∧ (List.range 20).all (fun i => s.qIdle (qkey p i)) = true :=
    ⟨hs, List.all_eq_true.2 fun i hi => hq i (List.mem_range.1 hi)⟩
  obtain ⟨s1, hs1⟩ : ∃ s1, s1 = s.updPart p fun t =>
      { t with prior := s.get F.P_STATE [p], scrub := scrubbed (s.activeRes p), scrubT := s.flag F.SCRUB_T [p] } := ⟨_, rfl⟩
  have he : s.scrub p = s1.put F.P_STATE [p] pSCRUBBING := by
    unfold Dev.scrub
    dsimp only
    rw [if_pos hc, hs1]
  have hr : s1.regs = s.regs := by rw [hs1]; rfl
  have hp : ((s1.put F.P_STATE [p] pSCRUBBING).part p) = _ := (congrArg (Dev.part · p) hs1).trans ((part_updPart _ _ _ _).trans (if_pos rfl))
  rw [he]
  refine ⟨Dev.get_put_fit _ (by decide) (by decide), by rw [hp]; exact hs, by rw [hp], ?_, ?_⟩
  · exact onlyFields_congr hr.symm rfl (onlyFields_put _ (onlyFields_refl _ s1) (by simp))
  · rw [hs1]; rfl

/-- A scrub of a partition with a queue in use, or on its way to another state. -/
theorem scrub_refused {s : Dev} {p : Nat} (h : s.get F.P_STATE [p] = pDISABLING ∨ s.get F.P_STATE [p] = pSCRUBBING ∨
    s.get F.P_STATE [p] = pENABLED ∧ ∃ i < 20, s.qIdle (qkey p i) = false) : s.scrub p = s.put F.P_CAUSE [p] cSTATE := by
  have hn : ¬(s.get F.P_STATE [p] = pENABLED ∧ (List.range 20).all (fun i => s.qIdle (qkey p i)) = true) := by
    rintro ⟨he, ha⟩
    rcases h with h | h | ⟨-, i, hi, h⟩
    · rw [he] at h; cases h
    · rw [he] at h; cases h
    · rw [List.all_eq_true.1 ha i (List.mem_range.2 hi)] at h; cases h
  have hd : ¬s.get F.P_STATE [p] = pDISABLED := by
    rcases h with h | h | ⟨h, -⟩ <;> rw [h] <;> decide
  unfold Dev.scrub
  dsimp only
  rw [if_neg hn, if_neg hd]

theorem gives_onPart {i : Instr} {d : Dev} {p : Nat} {f : Dev → Dev} {P : Dev → Prop} (h : ∀ s, exec i s = onPart p f s)
    (hw : Powered d) (hp : p < 64) (hP : P (f d)) : Gives i d P :=
  gives_of_onDev (fun d => if p < 64 then f d else d) h hw (by rw [if_pos hp]; exact hP)

/-- Settles O23: releases, zeroing and scrubs of a partition. -/
theorem partitionRelease : Obligations.PartitionRelease := by
  unfold Obligations.PartitionRelease
  refine ⟨fun d p hw hp => ⟨fun hr hg => gives_onPart (f := (·.releaseEnd p)) (fun _ => rfl) hw hp (releaseEnd_reads hr hg),
    fun h => gives_onPart (f := (·.zeroingDone p)) (fun _ => rfl) hw hp (zeroingDone_refused h),
    fun h => gives_onPart (f := (·.zeroingDone p)) (fun _ => rfl) hw hp (zeroingDone_zeroes h)⟩,
    fun d p hp => ⟨fun hw hs hq => gives_ask (q := fun _ => .scrub p) (fun _ => rfl) hw hp (scrub_begins hs hq),
      fun hw h => gives_ask (q := fun _ => .scrub p) (fun _ => rfl) hw hp ?_,
      fun hw hs hpr h => gives_onPart (f := (·.scrubDone p)) (fun _ => rfl) hw hp (scrubDone_reads hs hpr h)⟩⟩
  have he : d.perform (.scrub p) = d.put F.P_CAUSE [p] cSTATE := scrub_refused h
  rw [he]
  exact ⟨Dev.get_put_fit _ (by decide) (by decide), onlyFields_put _ (onlyFields_refl _ d) (by simp), onlyRegs_put _ _ _ _⟩

end Sys2Proof
end

section
/-! SUPPORT. Queues: what an operation on one queue leaves of the others. -/

namespace Sys2Proof

open Machine

/-- The fields of a queue's registers that operations write. -/
def qFields : List Fld := [F.Q_STATE, F.DB_ERR, F.CFG_ERR, F.FETCH_ERR, F.Q_HEAD, F.Q_PROD, F.Q_TAIL, F.Q_CQ_HEAD]

theorem q_off {f : Fld} (hf : f ∈ qFields) (k : Nat) : f.off (qix k) = f.base + (0x4000 * (k / 32) + 0x40 * (k % 32)) := by
  simp only [qFields, List.mem_cons, List.not_mem_nil, or_false] at hf
  rcases hf with rfl | rfl | rfl | rfl | rfl | rfl | rfl | rfl <;> simp [Fld.off, qix]

/-- The registers of queue `k`. -/
def qWindow (k off : Nat) : Prop := 0x800000 + 0x4000 * (k / 32) + 0x40 * (k % 32) ≤ off ∧ off < 0x800040 + 0x4000 * (k / 32) + 0x40 * (k % 32)

theorem q_window {f : Fld} (hf : f ∈ qFields) (k : Nat) : qWindow k (f.off (qix k)) := by
  have hb : ∀ f ∈ qFields, 0x800000 ≤ f.base ∧ f.base < 0x800040 := by decide
  obtain ⟨h1, h2⟩ := hb f hf
  rw [q_off hf, qWindow]
  omega

theorem q_apart {f g : Fld} (hf : f ∈ qFields) (hg : g ∈ qFields) (h : f ≠ g) (k : Nat) : Fld.apart f (qix k) g (qix k) = true := by
  have key : ∀ f ∈ qFields, ∀ g ∈ qFields, f ≠ g → (g.base ≠ f.base ∨ g.lo + g.w ≤ f.lo ∨ f.lo + f.w ≤ g.lo) ∧ g.lo + g.w ≤ 32 := by decide
  obtain ⟨h1, h2⟩ := key f hf g hg h
  rcases h1 with h1 | h1
  · exact apart_of_off (by rw [q_off hf, q_off hg]; omega) h2
  · exact apart_of_bits h1 h2

theorem qkey_parts {p i : Nat} (hi : i < 32) : qkey p i / 32 = p ∧ qkey p i % 32 = i := by
  unfold qkey; omega

/-- The registers that no operation on queue `k` changes. -/
def offQueue (k off : Nat) : Prop := ¬qWindow k off ∧ off ≠ F.P_EVENTS.off [k / 32] ∧ off ≠ F.WAKE_LOST_COUNT.off []

theorem not_offQueue {f : Fld} (hf : f ∈ qFields) (k : Nat) : ¬offQueue k (f.off (qix k)) := fun h => h.1 (q_window hf k)

/-- Only registers, queues, engines, wakes and interrupts changed. -/
def OnlyQueues (a b : Dev) : Prop :=
  b = { a with regs := b.regs, queues := b.queues, engines := b.engines, wakes := b.wakes,
               host := { a.host with sent := b.host.sent, pfPba := b.host.pfPba, vfPba := b.host.vfPba } }

theorem onlyQueues_refl (a : Dev) : OnlyQueues a a := rfl

theorem onlyQueues_trans {a b c : Dev} (h : OnlyQueues a b) (h' : OnlyQueues b c) : OnlyQueues a c := by
  unfold OnlyQueues at *
  rw [h] at h'
  exact h'

theorem OnlyRegsIrq.queues {a b : Dev} (h : OnlyRegsIrq a b) : OnlyQueues a b ∧ b.queues = a.queues := by
  unfold OnlyQueues OnlyRegsIrq at *
  generalize b.regs = r, b.host.sent = x, b.host.pfPba = y, b.host.vfPba = z at h
  subst h
  exact ⟨rfl, rfl⟩

theorem OnlyQueues.mem {a b : Dev} (h : OnlyQueues a b) : b.mem = a.mem ∧ b.hostMem = a.hostMem := by
  rw [h]; exact ⟨rfl, rfl⟩

theorem OnlyQueues.alarms {a b : Dev} (h : OnlyQueues a b) : b.alarms = a.alarms := by
  rw [h]

theorem queue_congr {a b : Dev} (h : b.queues = a.queues) (k : Nat) : b.queue k = a.queue k := by
  unfold Dev.queue
  rw [h]

/-- Only queue `k`, its registers and its partition's events changed, with engines, wakes and interrupts. -/
structure QueueMoves (k : Nat) (a b : Dev) : Prop where
  only : OnlyQueues a b
  regs : Stands (offQueue k) a b
  others : ∀ j, j ≠ k → b.queue j = a.queue j

theorem queueMoves_refl (k : Nat) (s : Dev) : QueueMoves k s s := ⟨onlyQueues_refl s, stands_refl _ s, fun _ _ => rfl⟩

theorem queueMoves_trans {k : Nat} {a b c : Dev} (h : QueueMoves k a b) (h' : QueueMoves k b c) : QueueMoves k a c :=
  ⟨onlyQueues_trans h.only h'.only, stands_trans h.regs h'.regs, fun j hj => (h'.others j hj).trans (h.others j hj)⟩

theorem queueMoves_put {f : Fld} (hf : f ∈ qFields) (s : Dev) (k v : Nat) : QueueMoves k s (s.put f (qix k) v) :=
  ⟨rfl, stands_put s v (not_offQueue hf k), fun _ _ => rfl⟩

theorem queueMoves_updQ (s : Dev) (k : Nat) (f : Queue → Queue) : QueueMoves k s (s.updQ k f) :=
  ⟨rfl, stands_of_regs rfl, fun j hj => by rw [queue_updQ, if_neg hj]⟩

theorem queueMoves_updCmd (s : Dev) (k : Nat) (f : Cmd → Cmd) : QueueMoves k s (s.updCmd k f) := queueMoves_updQ s k _

theorem queueMoves_dropCarry (s : Dev) (k : Nat) : QueueMoves k s (s.dropCarry k) := ⟨rfl, stands_of_regs rfl, fun _ _ => rfl⟩

theorem queueMoves_irq {k : Nat} {a b : Dev} (h : OnlyRegsIrq a b) (hr : Stands (offQueue k) a b) : QueueMoves k a b :=
  ⟨h.queues.1, hr, fun j _ => queue_congr h.queues.2 j⟩

theorem queueMoves_partEvent (s : Dev) (k b : Nat) : QueueMoves k s (s.partEvent (k / 32) b) :=
  queueMoves_irq (onlyRegsIrq_partEvent _ _ _) (stands_partEvent s _ b fun h => h.2.1 rfl)

theorem queueMoves_qErr {f : Fld} (hf : f ∈ qFields) (s : Dev) (k ev : Nat) : QueueMoves k s (s.qErr k f ev) :=
  queueMoves_trans (queueMoves_put hf s k 1) (queueMoves_partEvent _ k ev)

theorem queueMoves_edgeWake (s : Dev) (k d : Nat) : QueueMoves k s (s.edgeWake d) := by
  unfold Dev.edgeWake
  have hw : QueueMoves k s (s.wakeReq d) := ⟨rfl, stands_of_regs rfl, fun _ _ => rfl⟩
  split
  · exact queueMoves_refl k s
  · split
    · split
      · exact ⟨rfl, stands_put s _ fun h => h.2.2 rfl, fun _ _ => rfl⟩
      · exact hw
    · exact hw

theorem queueMoves_sqJudge (s : Dev) (k v : Nat) : QueueMoves k s (s.sqJudge k v).2 := by
  unfold Dev.sqJudge
  dsimp only
  split
  · exact queueMoves_qErr (by decide) s k 0
  · split
    · exact queueMoves_refl k s
    · have h := queueMoves_put (f := F.Q_PROD) (by decide) s k v
      dsimp only
      split
      · exact queueMoves_trans h (queueMoves_edgeWake _ k _)
      · exact h

theorem queueMoves_cqJudge (s : Dev) (k v : Nat) : QueueMoves k s (s.cqJudge k v) := by
  unfold Dev.cqJudge
  split
  · exact queueMoves_put (by decide) s k v
  · exact queueMoves_qErr (by decide) s k 0

theorem queueMoves_disableNow (s : Dev) (k cause : Nat) (b : Bool) : QueueMoves k s (s.disableNow k cause b) := by
  unfold Dev.disableNow
  split
  · exact queueMoves_trans (queueMoves_put (by decide) s k qDISABLING) (queueMoves_trans (queueMoves_updQ _ k _) (queueMoves_updCmd _ k _))
  · exact queueMoves_refl k s

theorem queueMoves_queueEnabled (s : Dev) (k : Nat) : QueueMoves k s (s.queueEnabled k) := by
  unfold Dev.queueEnabled
  dsimp only
  split
  · exact queueMoves_refl k s
  · have h1 := queueMoves_trans (queueMoves_updQ s k fun q => { q with enabling := false, heldDb := [], heldDisable := false })
      (queueMoves_put (f := F.Q_STATE) (by decide) _ k qENABLED)
    have h2 := queueMoves_trans h1 (forEach_keeps (queueMoves_refl k) queueMoves_trans (s.queue k).heldDb
      (fun s d => if d.1 then (s.sqJudge k d.2).2 else s.cqJudge k d.2) (fun s d _ => by
        split
        · exact queueMoves_sqJudge s k d.2
        · exact queueMoves_cqJudge s k d.2) _)
    split
    · exact queueMoves_trans h2 (queueMoves_disableNow _ k _ _)
    · exact h2

theorem QueueMoves.get {k : Nat} {a b : Dev} (h : QueueMoves k a b) {g : Fld} {jx : List Nat} (hg : offQueue k (g.off jx)) : b.get g jx = a.get g jx :=
  h.regs.get g jx hg

/-- A disable of an ENABLED queue cuts it at its P. -/
theorem disableNow_enabled {s : Dev} {k : Nat} (cause : Nat) (b : Bool) (h : s.qState k = qENABLED) :
    (s.disableNow k cause b).qState k = qDISABLING ∧ ((s.disableNow k cause b).queue k).cut = some (s.qP k) := by
  have he : s.disableNow k cause b = ((s.put F.Q_STATE (qix k) qDISABLING).updQ k fun q =>
      { q with cut := some (s.qP k), cause := cause }).updCmd k fun c => c.stopFor cause b := by
    rw [Dev.disableNow, if_pos (.inl h)]
    dsimp only
    rw [if_neg (by rw [h]; decide)]
  rw [he]
  refine ⟨?_, ?_⟩
  · exact Dev.get_put_fit s (by decide) (by decide)
  · rw [Dev.updCmd, queue_updQ, if_pos rfl]
    dsimp only
    rw [queue_updQ, if_pos rfl]

/-! ### A walk that reaches one of its places once -/

/-- What the step at `y` makes of a state it finds, when the steps elsewhere leave both. -/
theorem forEach_at {α : Type} {P Q : Dev → Prop} (f : Dev → α → Dev) (y : α) (l : List α) (hy : ∀ s, P s → Q (f s y))
    (hp : ∀ s, ∀ x ∈ l, x ≠ y → P s → P (f s x)) (hq : ∀ s, ∀ x ∈ l, x ≠ y → Q s → Q (f s x)) (hn : l.Nodup) (hm : y ∈ l) (s : Dev) (h : P s) :
    Q (s.forEach l f) := by
  unfold Dev.forEach
  have keep : ∀ (l' : List α) (s : Dev), (∀ x ∈ l', x ∈ l) → y ∉ l' → Q s → Q (l'.foldl f s) := fun l' => by
    induction l' with
    | nil => exact fun _ _ _ h => h
    | cons x l' ih =>
      intro s hs hx h
      rw [List.mem_cons, not_or] at hx
      exact ih _ (fun z hz => hs z (List.mem_cons_of_mem _ hz)) hx.2 (hq s x (hs x (List.mem_cons_self ..)) (Ne.symm hx.1) h)
  have walk : ∀ (l' : List α) (s : Dev), (∀ x ∈ l', x ∈ l) → l'.Nodup → y ∈ l' → P s → Q (l'.foldl f s) := fun l' => by
    induction l' with
    | nil => exact fun _ _ _ hm _ => absurd hm List.not_mem_nil
    | cons x l' ih =>
      intro s hs hn hm h
      rw [List.nodup_cons] at hn
      have hs' : ∀ z ∈ l', z ∈ l := fun z hz => hs z (List.mem_cons_of_mem _ hz)
      by_cases hx : x = y
      · subst hx
        exact keep l' _ hs' hn.1 (hy s h)
      · exact ih _ hs' hn.2 ((List.mem_cons.1 hm).resolve_left (Ne.symm hx)) (hp s x (hs x (List.mem_cons_self ..)) hx h)
  exact walk l s (fun _ h => h) hn hm h

end Sys2Proof
end

section
/-! SUPPORT. Disabling a partition (06 R220; 03 R103). -/

namespace Sys2Proof

open Machine

/-! ### The alarms of a disabled partition -/

/-- One entry of the alarms, when its owner is disabled. -/
def disarmOne (p : Nat) (s : Dev) (e : Nat × Option AlarmCopy) : Dev :=
  match e.2 with
  | some c =>
    if c.devOwned || c.owner != p || s.get F.AL_STATE [e.1] = 0 then s
    else
      let s := s.put F.AL_LAST [e.1] stCANCELLED
      if s.get F.AL_STATE [e.1] = 1 then
        ({ s with alarms := Tab.set none s.alarms e.1 none }).put F.AL_STATE [e.1] 0
      else s
  | none => s

theorem alState_off (n : Nat) : F.AL_STATE.off [n] = 0x101018 + 32 * n ∧ F.AL_LAST.off [n] = 0x101018 + 32 * n := by
  constructor <;> simp [Fld.off]

/-- Only registers, alarms and dispatches changed. -/
def OnlyAlarms (a b : Dev) : Prop := b = { a with regs := b.regs, alarms := b.alarms, dispatch := b.dispatch }

theorem onlyAlarms_refl (a : Dev) : OnlyAlarms a a := rfl

theorem onlyAlarms_trans {a b c : Dev} (h : OnlyAlarms a b) (h' : OnlyAlarms b c) : OnlyAlarms a c := by
  unfold OnlyAlarms at *
  rw [h] at h'
  exact h'

theorem OnlyAlarms.rest {a b : Dev} (h : OnlyAlarms a b) : b.mem = a.mem ∧ b.hostMem = a.hostMem ∧ b.queues = a.queues := by
  rw [h]; exact ⟨rfl, rfl, rfl⟩

theorem disarmOne_keeps (p : Nat) (s : Dev) (e : Nat × Option AlarmCopy) :
    OnlyAlarms s (disarmOne p s e) ∧ Stands (fun off => off ≠ 0x101018 + 32 * e.1) s (disarmOne p s e) := by
  have h1 : Stands (fun off => off ≠ 0x101018 + 32 * e.1) s (s.put F.AL_LAST [e.1] stCANCELLED) :=
    stands_put s _ fun h => h (alState_off e.1).2
  unfold disarmOne
  split
  · split
    · exact ⟨onlyAlarms_refl s, stands_refl _ s⟩
    · dsimp only
      split
      · exact ⟨rfl, stands_trans h1 (stands_trans (stands_of_regs (a := s.put F.AL_LAST [e.1] stCANCELLED)
          (b := { s.put F.AL_LAST [e.1] stCANCELLED with alarms := Tab.set none (s.put F.AL_LAST [e.1] stCANCELLED).alarms e.1 none }) rfl)
          (stands_put _ 0 fun h => h (alState_off e.1).1))⟩
      · exact ⟨rfl, h1⟩
  · exact ⟨onlyAlarms_refl s, stands_refl _ s⟩

/-- An alarm that is disarmed stays so. -/
theorem disarmOne_disarmed (p n : Nat) (s : Dev) (e : Nat × Option AlarmCopy) (h1 : s.get F.AL_LAST [n] = stCANCELLED) (h2 : s.get F.AL_STATE [n] = 0) :
    (disarmOne p s e).get F.AL_LAST [n] = stCANCELLED ∧ (disarmOne p s e).get F.AL_STATE [n] = 0 := by
  by_cases hn : e.1 = n
  · have : disarmOne p s e = s := by
      unfold disarmOne
      split
      · rw [if_pos (by rw [hn, h2]; simp)]
      · rfl
    rw [this]
    exact ⟨h1, h2⟩
  · obtain ⟨-, hs⟩ := disarmOne_keeps p s e
    rw [hs.get F.AL_LAST [n] (by rw [(alState_off n).2]; omega), hs.get F.AL_STATE [n] (by rw [(alState_off n).1]; omega)]
    exact ⟨h1, h2⟩

/-- An armed alarm of the partition is disarmed. -/
theorem disarmOne_armed {p n : Nat} {s : Dev} {c : AlarmCopy} (hd : c.devOwned = false) (ho : c.owner = p) (ha : s.get F.AL_STATE [n] = 1) :
    (disarmOne p s (n, some c)).get F.AL_LAST [n] = stCANCELLED ∧ (disarmOne p s (n, some c)).get F.AL_STATE [n] = 0 := by
  have hc : ¬(c.devOwned || c.owner != p || decide (s.get F.AL_STATE [n] = 0)) = true := by rw [hd, ho, ha]; simp
  have hst : (s.put F.AL_LAST [n] stCANCELLED).get F.AL_STATE [n] = 1 := by
    rw [Dev.get_put_apart s _ (apart_of_bits (by decide) (by decide))]; exact ha
  have hap : Fld.apart F.AL_STATE [n] F.AL_LAST [n] = true := apart_of_bits (by decide) (by decide)
  obtain ⟨s1, hs1⟩ : ∃ s1, s1 = s.put F.AL_LAST [n] stCANCELLED := ⟨_, rfl⟩
  have he : disarmOne p s (n, some c) = ({ s1 with alarms := Tab.set none s1.alarms n none }).put F.AL_STATE [n] 0 := by
    unfold disarmOne
    dsimp only
    rw [if_neg (by simpa using hc), hs1, if_pos hst]
  have hl : s1.get F.AL_LAST [n] = stCANCELLED := by rw [hs1]; exact Dev.get_put_fit s (by decide) (by decide)
  rw [he]
  exact ⟨(Dev.get_put_apart _ 0 hap).trans hl, Dev.get_put_fit _ (by decide) (by decide)⟩

theorem disarmWalk {p n : Nat} {c : AlarmCopy} (hd : c.devOwned = false) (ho : c.owner = p) (l : Tab (Option AlarmCopy)) (s : Dev)
    (hl : Tab.get none l n = some c) (ha : s.get F.AL_STATE [n] = 1) :
    (s.forEach l (disarmOne p)).get F.AL_LAST [n] = stCANCELLED ∧ (s.forEach l (disarmOne p)).get F.AL_STATE [n] = 0 := by
  unfold Dev.forEach
  have keep : ∀ (l : Tab (Option AlarmCopy)) (s : Dev), s.get F.AL_LAST [n] = stCANCELLED ∧ s.get F.AL_STATE [n] = 0 →
      (l.foldl (disarmOne p) s).get F.AL_LAST [n] = stCANCELLED ∧ (l.foldl (disarmOne p) s).get F.AL_STATE [n] = 0 := fun l => by
    induction l with
    | nil => exact fun _ h => h
    | cons e l ih => exact fun s h => ih _ (disarmOne_disarmed p n s e h.1 h.2)
  induction l generalizing s with
  | nil => cases hl
  | cons e l ih =>
    obtain ⟨k, v⟩ := e
    rw [Tab.get] at hl
    split at hl
    · rename_i hk
      subst hk hl
      exact keep l _ (disarmOne_armed hd ho ha)
    · rename_i hk
      refine ih _ hl ?_
      rw [(disarmOne_keeps p s (k, v)).2.get F.AL_STATE [n] (by rw [(alState_off n).1]; dsimp only; omega)]
      exact ha

/-- The registers of the alarms. -/
def isAlarm (off : Nat) : Prop := 0x101000 ≤ off ∧ off < 0x103000

theorem disarmOwned_reads (s : Dev) (p : Nat) :
    OnlyAlarms s (s.disarmOwned p) ∧ Stands (fun off => ¬isAlarm off) s (s.disarmOwned p) ∧
    ∀ n < 256, ∀ c, Tab.get none s.alarms n = some c → c.devOwned = false → c.owner = p → s.get F.AL_STATE [n] = 1 →
      (s.disarmOwned p).get F.AL_LAST [n] = stCANCELLED ∧ (s.disarmOwned p).get F.AL_STATE [n] = 0 := by
  obtain ⟨s1, hs1⟩ : ∃ s1, s1 = s.forEach (s.alarms.filter fun e => decide (e.1 < 256)) (disarmOne p) := ⟨_, rfl⟩
  have he : s.disarmOwned p = { s1 with dispatch := s1.dispatch.map fun d =>
      if !d.copy.devOwned && d.copy.owner == p then { d with cancelled := true } else d } := by rw [hs1]; rfl
  have h1 : OnlyAlarms s s1 := by
    rw [hs1]; exact forEach_keeps onlyAlarms_refl onlyAlarms_trans _ _ (fun s e _ => (disarmOne_keeps p s e).1) s
  have h2 : Stands (fun off => ¬isAlarm off) s s1 := by
    rw [hs1]
    refine forEach_keeps (stands_refl _) stands_trans _ _ (fun s e he => ?_) s
    have := (List.mem_filter.1 he).2
    simp only [decide_eq_true_eq] at this
    exact stands_mono (disarmOne_keeps p s e).2 fun off ho => by unfold isAlarm at ho; omega
  rw [he]
  refine ⟨onlyAlarms_trans h1 rfl, stands_trans h2 (stands_of_regs rfl), fun n hn c hc hd ho ha => ?_⟩
  have := disarmWalk hd ho (s.alarms.filter fun e => decide (e.1 < 256)) s
    ((Tab.get_filter none s.alarms _ n fun v => decide_eq_true hn).trans hc) ha
  rw [← hs1] at this
  exact this

/-! ### DISABLE -/

/-- What a DISABLE of its partition does to one queue. -/
def disableOne (p : Nat) (s : Dev) (i : Nat) : Dev :=
  let k := qkey p i
  let s := s.queueEnabled k
  let cause := if (s.queue k).cause = dQHALT then dQHALT else dPDISABLE
  let s := if s.qState k = qDISABLING then
      (s.updQ k fun q => { q with cause := cause }).updCmd k fun c => c.stopFor cause true
    else s.disableNow k dPDISABLE true
  s.dropCarry k

theorem queueMoves_disableOne (p : Nat) (s : Dev) (i : Nat) : QueueMoves (qkey p i) s (disableOne p s i) := by
  unfold disableOne
  dsimp only
  refine queueMoves_trans (queueMoves_queueEnabled s (qkey p i)) ?_
  generalize s.queueEnabled (qkey p i) = s1
  refine queueMoves_trans ?_ (queueMoves_dropCarry _ _)
  split
  · exact queueMoves_trans (queueMoves_updQ s1 _ _) (queueMoves_updCmd _ _ _)
  · exact queueMoves_disableNow s1 _ _ _

theorem disableOne_enabled {p i : Nat} {s : Dev} (he : (s.queue (qkey p i)).enabling = false) (hs : s.qState (qkey p i) = qENABLED) :
    (disableOne p s i).qState (qkey p i) = qDISABLING ∧ ((disableOne p s i).queue (qkey p i)).cut = some (s.qP (qkey p i)) := by
  have h1 : s.queueEnabled (qkey p i) = s := by
    unfold Dev.queueEnabled
    dsimp only
    rw [he]
    rfl
  have h2 : disableOne p s i = (s.disableNow (qkey p i) dPDISABLE true).dropCarry (qkey p i) := by
    unfold disableOne
    dsimp only
    rw [h1, if_neg (by rw [hs]; decide)]
  rw [h2]
  exact disableNow_enabled dPDISABLE true hs

/-- Queue `i`'s registers are not those of queue `j`. -/
theorem offQueue_q {f : Fld} (hf : f ∈ qFields) {p i j : Nat} (hi : i < 20) (hj : j < 20) (hij : i ≠ j) : offQueue (qkey p j) (f.off (qix (qkey p i))) := by
  have hb : ∀ f ∈ qFields, 0x80001C ≤ f.base ∧ f.base ≤ 0x800024 := by decide
  obtain ⟨h1, h2⟩ := hb f hf
  obtain ⟨a1, a2⟩ := qkey_parts (p := p) (i := i) (by omega)
  obtain ⟨b1, b2⟩ := qkey_parts (p := p) (i := j) (by omega)
  rw [q_off hf, a1, a2]
  unfold offQueue qWindow
  rw [b1, b2, part_off (by decide)]
  have hw : F.WAKE_LOST_COUNT.off [] = 0x3A00014 := by decide
  rw [hw]
  refine ⟨by omega, ?_, ?_⟩
  · simp only; omega
  · intro h
    have hp : (f.base + (0x4000 * p + 0x40 * i)) % 0x4000 = f.base - 0x800000 + 0x40 * i := by omega
    rw [h] at hp
    omega

/-- The registers that a DISABLE's walk over the queues of a partition leaves. -/
def walkKept (p off : Nat) : Prop := (off < 0x800000 + 0x4000 * p ∨ 0x800600 + 0x4000 * p < off) ∧ off ≠ F.WAKE_LOST_COUNT.off []

theorem offQueue_of_kept {p i off : Nat} (hi : i < 20) (h : walkKept p off) : offQueue (qkey p i) off := by
  obtain ⟨a1, a2⟩ := qkey_parts (p := p) (i := i) (by omega)
  unfold walkKept at h
  unfold offQueue qWindow
  rw [a1, a2, part_off (by decide)]
  refine ⟨by omega, ?_, h.2⟩
  simp only; omega

theorem partDisable_reads {s : Dev} {p : Nat} (hp : p < 64) (hst : s.get F.P_STATE [p] = pENABLED) :
    (s.partDisable p).get F.P_STATE [p] = pDISABLING ∧
    (∀ i < 20, (s.queue (qkey p i)).enabling = false → s.qState (qkey p i) = qENABLED →
      (s.partDisable p).qState (qkey p i) = qDISABLING ∧ ((s.partDisable p).queue (qkey p i)).cut = some (s.qP (qkey p i))) ∧
    (∀ n < 256, ∀ c, Tab.get none s.alarms n = some c → c.devOwned = false → c.owner = p → s.get F.AL_STATE [n] = 1 →
      (s.partDisable p).get F.AL_LAST [n] = stCANCELLED ∧ (s.partDisable p).get F.AL_STATE [n] = 0) ∧
    (s.partDisable p).mem = s.mem ∧ (s.partDisable p).hostMem = s.hostMem := by
  obtain ⟨s1, hs1⟩ : ∃ s1, s1 = s.put F.P_STATE [p] pDISABLING := ⟨_, rfl⟩
  obtain ⟨s2, hs2⟩ : ∃ s2, s2 = s1.forEach (List.range 20) (disableOne p) := ⟨_, rfl⟩
  have he : s.partDisable p = s2.disarmOwned p := by
    rw [Dev.partDisable, if_neg (by rw [hst]; simp), hs2, hs1]
    rfl
  have o1 : OnlyQueues s s1 := by rw [hs1]; rfl
  have r1 : Stands (fun off => off ≠ 0x800804 + 0x4000 * p) s s1 := by
    rw [hs1]; exact stands_put s _ (by rw [part_off (by decide)]; simp)
  have o2 : OnlyQueues s1 s2 := by
    rw [hs2]; exact forEach_keeps onlyQueues_refl onlyQueues_trans _ _ (fun s i _ => (queueMoves_disableOne p s i).only) s1
  have r2 : Stands (walkKept p) s1 s2 := by
    rw [hs2]
    exact forEach_keeps (stands_refl _) stands_trans _ _
      (fun s i hi => stands_mono (queueMoves_disableOne p s i).regs fun off ho => offQueue_of_kept (List.mem_range.1 hi) ho) s1
  obtain ⟨o3, r3, hal⟩ := disarmOwned_reads s2 p
  have hw : F.WAKE_LOST_COUNT.off [] = 0x3A00014 := by decide
  rw [he]
  refine ⟨?_, fun i hi hen hq => ?_, fun n hn c hc hd ho ha => hal n hn c ?_ hd ho ?_, ?_, ?_⟩
  · have hof : F.P_STATE.off [p] = 0x800804 + 0x4000 * p := part_off (by decide) p
    rw [r3.get F.P_STATE [p] (by rw [hof, isAlarm]; omega), r2.get F.P_STATE [p] (by rw [hof, walkKept, hw]; omega), hs1]
    exact Dev.get_put_fit s (by decide) (by decide)
  · have hoff : ∀ f ∈ qFields, 0x800000 + 0x4000 * p ≤ f.off (qix (qkey p i)) ∧ f.off (qix (qkey p i)) < 0x800600 + 0x4000 * p := fun f hf => by
      have hb : ∀ f ∈ qFields, 0x800000 ≤ f.base ∧ f.base < 0x800040 := by decide
      obtain ⟨h1, h2⟩ := hb f hf
      obtain ⟨a1, a2⟩ := qkey_parts (p := p) (i := i) (by omega)
      rw [q_off hf, a1, a2]
      omega
    have hQ : s2.qState (qkey p i) = qDISABLING ∧ (s2.queue (qkey p i)).cut = some (s.qP (qkey p i)) := by
      rw [hs2]
      have keep : ∀ t : Dev, ∀ x ∈ List.range 20, x ≠ i → (∀ f ∈ qFields, (disableOne p t x).get f (qix (qkey p i)) = t.get f (qix (qkey p i))) ∧
          (disableOne p t x).queue (qkey p i) = t.queue (qkey p i) := fun t x hx hxi => by
        have hx := List.mem_range.1 hx
        have m := queueMoves_disableOne p t x
        refine ⟨fun f hf => m.get (offQueue_q hf hi hx (Ne.symm hxi)), m.others _ ?_⟩
        unfold qkey; omega
      refine forEach_at (P := fun t => (t.queue (qkey p i)).enabling = false ∧ t.qState (qkey p i) = qENABLED ∧ t.qP (qkey p i) = s.qP (qkey p i))
        (Q := fun t => t.qState (qkey p i) = qDISABLING ∧ (t.queue (qkey p i)).cut = some (s.qP (qkey p i))) _ i _ ?_ ?_ ?_ List.nodup_range
        (List.mem_range.2 hi) s1 ?_
      · rintro t ⟨h1, h2, h3⟩
        rw [← h3]
        exact disableOne_enabled h1 h2
      · rintro t x hx hxi ⟨h1, h2, h3⟩
        obtain ⟨k1, k2⟩ := keep t x hx hxi
        exact ⟨by rw [k2]; exact h1, (k1 F.Q_STATE (by decide)).trans h2, (k1 F.Q_PROD (by decide)).trans h3⟩
      · rintro t x hx hxi ⟨h1, h2⟩
        obtain ⟨k1, k2⟩ := keep t x hx hxi
        exact ⟨(k1 F.Q_STATE (by decide)).trans h1, by rw [k2]; exact h2⟩
      · have hk : ∀ f ∈ qFields, s1.get f (qix (qkey p i)) = s.get f (qix (qkey p i)) := fun f hf =>
          r1.get f _ (by have := hoff f hf; omega)
        refine ⟨?_, (hk F.Q_STATE (by decide)).trans hq, hk F.Q_PROD (by decide)⟩
        rw [hs1]; exact hen
    have h3 := r3.get F.Q_STATE (qix (qkey p i)) (by have := hoff F.Q_STATE (by decide); unfold isAlarm; omega)
    exact ⟨h3.trans hQ.1, by rw [queue_congr o3.rest.2.2]; exact hQ.2⟩
  · rw [o2.alarms, o1.alarms]; exact hc
  · have hof := (alState_off n).1
    rw [r2.get F.AL_STATE [n] (by rw [hof, walkKept, hw]; omega), r1.get F.AL_STATE [n] (by omega)]
    exact ha
  · rw [o3.rest.1, o2.mem.1, o1.mem.1]
  · rw [o3.rest.2.1, o2.mem.2, o1.mem.2]

/-! ### The last queue is DISABLED -/

theorem partDisabled_reads {s : Dev} {p : Nat} (hst : s.get F.P_STATE [p] = pDISABLING) (hq : ∀ i < 20, s.qIdle (qkey p i) = true)
    (hr : s.runningChunks p = []) :
    (s.partDisabled p).get F.P_STATE [p] = pDISABLED ∧ (∀ r < 29, (s.partDisabled p).actReg p (4 * r) = 0) ∧
    ((s.partDisabled p).part p).releasing = [] ∧ bitAt ((s.partDisabled p).get F.P_EVENTS [p]) 8 = true ∧
    (s.partDisabled p).mem = s.mem ∧ (s.partDisabled p).hostMem = s.hostMem := by
  have hc : s.get F.P_STATE [p] = pDISABLING ∧ (List.range 20).all (fun i => s.qIdle (qkey p i)) = true ∧ s.runningChunks p = [] :=
    ⟨hst, List.all_eq_true.2 fun i hi => hq i (List.mem_range.1 hi), hr⟩
  obtain ⟨rs, zero, he⟩ : ∃ rs zero, s.partDisabled p = ((((((((s.forEach (List.range 29) fun s x => s.setReg (0x800900 + 0x4000 * p + 4 * x) 0).updPart p
      fun t => { t with releasing := [], zeroRel := [], grand := [], claims := [] }).dropLeft p rs).letGo p rs zero).fixTarn p).put F.RESHAPE_BUSY [p] 0).put
      F.P_STATE [p] pDISABLED).partEvent p 8) := ⟨_, _, by rw [Dev.partDisabled, if_pos hc]⟩
  obtain ⟨w1, w2, w3⟩ := setWords_reads s (fun x => 0x800900 + 0x4000 * p + 4 * x) (fun _ => 0) (by intro i j h; omega) 29
  obtain ⟨s1, hs1⟩ : ∃ s1, s1 = s.forEach (List.range 29) fun s x => s.setReg (0x800900 + 0x4000 * p + 4 * x) 0 := ⟨_, rfl⟩
  rw [← hs1] at w1 w2 w3 he
  obtain ⟨s2, hs2⟩ : ∃ s2, s2 = s1.updPart p fun t => { t with releasing := [], zeroRel := [], grand := [], claims := [] } := ⟨_, rfl⟩
  rw [← hs2] at he
  obtain ⟨u2, r2⟩ := onlySet_updPart s1 p fun t => { t with releasing := [], zeroRel := [], grand := [], claims := [] }
  rw [← hs2] at u2 r2
  obtain ⟨u3, r3⟩ := onlySet_dropLeft s2 p rs
  have p3 : ((s2.dropLeft p rs).part p).releasing = [] := by
    change (s2.part p).releasing = []
    rw [hs2, part_updPart, if_pos rfl]
  generalize s2.dropLeft p rs = s3 at he u3 r3 p3
  obtain ⟨l1, l2, -, l4, -⟩ := letGo_reads s3 p rs zero
  rw [p3] at l4
  generalize s3.letGo p rs zero = s4 at he l1 l2 l4
  obtain ⟨f1, f2, -⟩ := fixTarn_reads s4 p
  generalize s4.fixTarn p = s5 at he f1 f2
  obtain ⟨s7, hs7⟩ : ∃ s7, s7 = (s5.put F.RESHAPE_BUSY [p] 0).put F.P_STATE [p] pDISABLED := ⟨_, rfl⟩
  rw [← hs7] at he
  have o7 : OnlyRegs s5 s7 := by rw [hs7]; exact onlyRegs_trans (onlyRegs_put s5 _ _ _) (onlyRegs_put _ _ _ _)
  have k7 : Stands (ctlKept p) s5 s7 := by
    rw [hs7]
    exact stands_trans (stands_put s5 0 (not_ctlKept (f := F.RESHAPE_BUSY) (by simp) p)) (stands_put _ _ (not_ctlKept (f := F.P_STATE) (by simp) p))
  have g7 : s7.get F.P_STATE [p] = pDISABLED := by rw [hs7]; exact Dev.get_put_fit _ (by decide) (by decide)
  have o8 := onlyRegsIrq_trans o7.irq (onlyRegsIrq_partEvent s7 p 8)
  have k : Stands upkeepKept s1 (s7.partEvent p 8) := stands_trans (stands_of_regs r2) (stands_trans (stands_of_regs r3) (stands_trans l2
    (stands_mono (stands_trans f2 (stands_trans k7 (stands_partEvent s7 p 8 (not_ctlKept (f := F.P_EVENTS) (by simp) p)))) fun off h => h p)))
  have hall : OnlySet s (s7.partEvent p 8) := onlySet_trans w1.irq.set (onlySet_trans u2 (onlySet_trans u3 (onlySet_trans l1 (onlySet_trans f1.irq.set o8.set))))
  rw [he]
  refine ⟨?_, fun r hr => ?_, ?_, partEvent_bit _ _ (by decide), hall.mem.1, hall.mem.2.1⟩
  · rw [partEvent_get _ _ _ (part_apart (by decide) (by decide) (by decide) p), g7]
  · unfold Dev.actReg
    rw [k _ (fun q => by unfold ctlKept; omega), w2 r hr]
    rfl
  · rw [o8.part, f1.irq.part, l4]

/-- Settles O24: a DISABLE of a partition, and its end. -/
theorem partitionDisabling : Obligations.PartitionDisabling := by
  unfold Obligations.PartitionDisabling
  exact fun d p hp => ⟨fun hw hst => gives_ask (q := fun _ => .disable p) (fun _ => rfl) hw hp (partDisable_reads hp hst),
    fun hw hst hq hr => gives_onPart (f := (·.partDisabled p)) (fun _ => rfl) hw hp (partDisabled_reads hst hq hr)⟩

end Sys2Proof
end

section
/-! SUPPORT. The dispatch of power, reshape and face-swap alarms (03 R102, Table 3.7). -/

namespace Sys2Proof

open Machine

/-- What the end of a dispatch leaves of the action's effects, beside the alarm's own entry. -/
theorem endDispatch_pwr {s : Dev} {x : Dispatch} {st : Nat} (hst : st < 2 ^ 4) (hn : x.alarm < 256) :
    (s.endDispatch x st).scree = s.scree ∧ (s.endDispatch x st).pwr = s.pwr := by
  obtain ⟨-, -, -, -, h5, -⟩ := endDispatch_reads s x hst hn
  exact ⟨h5.mem.2.2.2.1, h5.mem.2.2.2.2⟩

theorem fired_off {n : Nat} (hn : n < 256) : F.AL_FIRED.off [n] < 0x103000 := by
  rw [al_off (by simp [alFields])]; omega

/-! ### Power -/

theorem alarmAct_power (s : Dev) {c : AlarmCopy} (h : c.action = 3) :
    s.alarmAct c = (if (s.powerReq (bitsOf c.arg 0 3) (bitsOf c.arg 8 8)).1 then stOK else stSTATE,
      (s.powerReq (bitsOf c.arg 0 3) (bitsOf c.arg 8 8)).2) := by
  obtain ⟨step, phase, tick, boundary, rep, action, owner, devOwned, notify, arg⟩ := c
  cases h
  rfl

/-- A request for another state of a domain at rest begins its transition, and moves nothing else. -/
theorem powerReq_moves {d : Dev} {st dom cur : Nat} (hd9 : dom < 9) (h2 : d.get F.WARDEN_MODE ≠ 2) (hr : d.reqRefused st dom = false)
    (hrest : AtRest d dom cur) (hc : cur < stOff) (hne : cur ≠ st) (hnf : ¬(st = stRun ∧ d.get F.DOM_FLOOR [dom] = 1)) :
    Moving dom st d (d.powerReq st dom).2 ∧ DomMoves dom d (d.powerReq st dom).2 := by
  obtain ⟨s, hsr⟩ : ∃ s, s = d.put F.DOM_REQUESTED [dom] st := ⟨_, rfl⟩
  have hm : DomMoves dom d s := by rw [hsr]; exact domMoves_put _ (by simp [domFields]) _
  have hg : ∀ g ∈ [F.DOM_STATE, F.DOM_BUSY, F.DOM_FLOOR], s.get g [dom] = d.get g [dom] := fun g hg => by
    rw [hsr]
    refine Dev.get_put_apart _ _ (apart_of_bits ?_ ?_) <;> (revert g; decide)
  have hst := hg F.DOM_STATE (by simp)
  have hfl : s.floored dom st = st := (floored_congr dom st (hg F.DOM_FLOOR (by simp))).trans (floored_self _ _ _ hnf)
  obtain ⟨hcur, hbz, -, -⟩ := hrest
  have hbusy : s.flag F.DOM_BUSY [dom] = false := (flag_of_get (hg F.DOM_BUSY (by simp))).trans hbz
  have he : d.applyReq dom st = s.beginMove dom st := by
    unfold Dev.applyReq
    dsimp only
    rw [← hsr, hbusy, hst, hcur, hfl, if_neg (by simp), if_neg (by simp only [stOff] at hc ⊢; omega), if_neg hne]
  rw [powerReq_dom hd9 h2 hr, he]
  obtain ⟨m1, m2, m3⟩ := beginMove_moving s st (x := dom) (by omega)
  exact ⟨⟨m1, m2, m3.trans hst⟩, domMoves_trans hm (domMoves_beginMove s dom st)⟩

theorem powerReq_accepted {d : Dev} {st dom : Nat} (h2 : d.get F.WARDEN_MODE ≠ 2) (hr : d.reqRefused st dom = false) : (d.powerReq st dom).1 = true := by
  rw [Dev.powerReq, if_neg h2, hr]
  rfl

theorem gives_alarmPower {d : Dev} {x : Dispatch} {rest : List Dispatch} (h : MayDispatch d x rest) (ha : x.copy.action = 3) {P : Dev → Prop}
    (st : Nat) (s : Dev) (hs : ({ d with dispatch := rest } : Dev).powerReq (bitsOf x.copy.arg 0 3) (bitsOf x.copy.arg 8 8) = (decide (st = stOK), s))
    (hst : st = stOK ∨ st = stSTATE) (hP : P (s.endDispatch x st)) : Gives .alarmPower d P := by
  refine gives_dispatch [3] (fun _ => rfl) h (by simp [ha]) s st ?_ hP
  rw [alarmAct_power _ ha, hs]
  rcases hst with rfl | rfl <;> rfl

/-- The unit without the dispatch that is being carried out. -/
def taken (d : Dev) (rest : List Dispatch) : Dev := { d with dispatch := rest }

theorem taken_get (d : Dev) (rest : List Dispatch) (f : Fld) (ix : List Nat) : (taken d rest).get f ix = d.get f ix := rfl

theorem taken_mem (d : Dev) (rest : List Dispatch) : (taken d rest).mem = d.mem ∧ (taken d rest).hostMem = d.hostMem := ⟨rfl, rfl⟩

theorem taken_reqRefused (d : Dev) (rest : List Dispatch) (st dom : Nat) : (taken d rest).reqRefused st dom = d.reqRefused st dom := rfl

theorem alarmPower_refused {d : Dev} {x : Dispatch} {rest : List Dispatch} (h : MayDispatch d x rest) (ha : x.copy.action = 3)
    (hr : d.reqRefused (bitsOf x.copy.arg 0 3) (bitsOf x.copy.arg 8 8) = true) :
    Gives .alarmPower d fun e => DispatchEnds x stSTATE d e ∧ e.get F.DOM_REFUSED = 1 ∧ e.mem = d.mem ∧ e.hostMem = d.hostMem := by
  have h2 : d.get F.WARDEN_MODE ≠ 2 := h.2.2.2.1
  have hn : x.alarm < 256 := h.2.2.1
  have hs : (taken d rest).powerReq (bitsOf x.copy.arg 0 3) (bitsOf x.copy.arg 8 8) =
      (decide (stSTATE = stOK), (taken d rest).pwrEvent F.DOM_REFUSED 6) := by
    rw [Dev.powerReq, taken_get, if_neg h2, taken_reqRefused, if_pos hr]
    rfl
  refine gives_alarmPower h ha stSTATE _ hs (.inr rfl) ?_
  have hf : ((taken d rest).pwrEvent F.DOM_REFUSED 6).get F.AL_FIRED [x.alarm] = (taken d rest).get F.AL_FIRED [x.alarm] :=
    Dev.get_event_apart _ _ _ _ (apart_of_off (by have := fired_off hn; have ho : F.DOM_REFUSED.off [] = 0x3A00000 := by decide
                                                  omega) (by decide))
  have hm : ((taken d rest).pwrEvent F.DOM_REFUSED 6).mem = (taken d rest).mem ∧ ((taken d rest).pwrEvent F.DOM_REFUSED 6).hostMem = (taken d rest).hostMem :=
    (onlyRegsIrq_event _ _ _ _ _).mem
  have hd : ((taken d rest).pwrEvent F.DOM_REFUSED 6).get F.DOM_REFUSED = 1 := Dev.get_event_same _ _ _ _ (by decide) (by decide)
  rw [taken_get] at hf
  obtain ⟨m1, m2⟩ := taken_mem d rest
  rw [m1, m2] at hm
  generalize (taken d rest).pwrEvent F.DOM_REFUSED 6 = s at hf hm hd
  obtain ⟨k1, k2, k3⟩ := endDispatch_keeps (st := stSTATE) (by decide) hn hf hm.1 hm.2
  refine ⟨k1, ?_, k2, k3⟩
  rw [endDispatch_get (by decide) hn F.DOM_REFUSED [] (.inr (by decide)) (by decide)]
  exact hd

theorem alarmPower_unit {d : Dev} {x : Dispatch} {rest : List Dispatch} (h : MayDispatch d x rest) (ha : x.copy.action = 3)
    (hst : bitsOf x.copy.arg 0 3 = stRun) (hdom : bitsOf x.copy.arg 8 8 = 10) :
    Gives .alarmPower d fun e => DispatchEnds x stOK d e ∧ e.mem = d.mem ∧ e.hostMem = d.hostMem := by
  have hn : x.alarm < 256 := h.2.2.1
  have hs : (taken d rest).powerReq (bitsOf x.copy.arg 0 3) (bitsOf x.copy.arg 8 8) = (decide (stOK = stOK), taken d rest) := by
    have h2 : d.get F.WARDEN_MODE ≠ 2 := h.2.2.2.1
    rw [Dev.powerReq, taken_get, if_neg h2, hst, hdom]
    simp [Dev.reqRefused, stateAllowed, domSecondary]
  obtain ⟨m1, m2⟩ := taken_mem d rest
  exact gives_alarmPower h ha stOK _ hs (.inl rfl) (endDispatch_keeps (by decide) hn (taken_get _ _ _ _) m1 m2)

theorem alarmPower_moves {d : Dev} {x : Dispatch} {rest : List Dispatch} (h : MayDispatch d x rest) (ha : x.copy.action = 3) {cur : Nat}
    (hr : d.reqRefused (bitsOf x.copy.arg 0 3) (bitsOf x.copy.arg 8 8) = false) (hd9 : bitsOf x.copy.arg 8 8 < 9)
    (hrest : AtRest d (bitsOf x.copy.arg 8 8) cur) (hc : cur < stOff) (hne : cur ≠ bitsOf x.copy.arg 0 3)
    (hnf : ¬(bitsOf x.copy.arg 0 3 = stRun ∧ d.get F.DOM_FLOOR [bitsOf x.copy.arg 8 8] = 1)) :
    Gives .alarmPower d fun e =>
      DispatchEnds x stOK d e ∧ Moving (bitsOf x.copy.arg 8 8) (bitsOf x.copy.arg 0 3) d e ∧ e.mem = d.mem ∧ e.hostMem = d.hostMem := by
  have hn : x.alarm < 256 := h.2.2.1
  have h2 : (taken d rest).get F.WARDEN_MODE ≠ 2 := h.2.2.2.1
  obtain ⟨⟨v1, v2, v3⟩, v4⟩ := powerReq_moves (d := taken d rest) hd9 h2 hr hrest hc hne hnf
  have v0 := powerReq_accepted h2 ((taken_reqRefused d rest _ _).trans hr)
  obtain ⟨⟨ok, s⟩, hs⟩ : ∃ r, (taken d rest).powerReq (bitsOf x.copy.arg 0 3) (bitsOf x.copy.arg 8 8) = r := ⟨_, rfl⟩
  rw [hs] at v0 v1 v2 v3 v4
  dsimp only at v0 v1 v2 v3 v4
  subst v0
  refine gives_alarmPower h ha stOK s hs (.inl rfl) ?_
  have ho := al_off (f := F.AL_FIRED) (by simp [alFields]) x.alarm
  have hf : s.get F.AL_FIRED [x.alarm] = d.get F.AL_FIRED [x.alarm] := v4.get (by omega) (by rw [ho]; omega)
  obtain ⟨m1, m2⟩ := taken_mem d rest
  obtain ⟨k1, k2, k3⟩ := endDispatch_keeps (st := stOK) (by decide) hn hf (v4.mem.1.trans m1) (v4.mem.2.trans m2)
  have hdom : ∀ f ∈ [F.DOM_STATE, F.DOM_BUSY], (s.endDispatch x stOK).get f [bitsOf x.copy.arg 8 8] = s.get f [bitsOf x.copy.arg 8 8] := fun f hf => by
    have hb : 0x3A00020 ≤ f.off [bitsOf x.copy.arg 8 8] := by
      rw [dom_off (by revert f; decide)]; omega
    have hw : ∀ f ∈ [F.DOM_STATE, F.DOM_BUSY], f.lo + f.w ≤ 32 := by decide
    exact endDispatch_get (by decide) hn f _ (.inr (by omega)) (hw f hf)
  refine ⟨k1, ⟨(flag_of_get (hdom F.DOM_BUSY (by simp))).trans v1, ?_, ?_⟩, k2, k3⟩
  · rw [(endDispatch_pwr (by decide) hn).2]; exact v2
  · rw [hdom F.DOM_STATE (by simp)]; exact v3

/-! ### Reshapes -/

theorem alarmAct_reshape (s : Dev) {c : AlarmCopy} (h : c.action = 5) : s.alarmAct c = s.alarmReshape c := by
  obtain ⟨step, phase, tick, boundary, rep, action, owner, devOwned, notify, arg⟩ := c
  cases h
  rfl

theorem taken_setCause (d : Dev) (rest : List Dispatch) (p sl need : Nat) :
    (taken d rest).setCause p ((taken d rest).slotReg p sl) need = d.setCause p (d.slotReg p sl) need := rfl

theorem alarmReshape_refused {d : Dev} {x : Dispatch} {rest : List Dispatch} (h : MayDispatch d x rest) (ha : x.copy.action = 5) {why : Nat}
    (hc : d.setCause (bitsOf x.copy.arg 0 6) (d.slotReg (bitsOf x.copy.arg 0 6) (bitsOf x.copy.arg 8 4)) pENABLED = some why) :
    Gives .alarmReshape d fun e =>
      DispatchEnds x stSTATE d e ∧ e.get F.P_CAUSE [bitsOf x.copy.arg 0 6] = why % 8 ∧ e.mem = d.mem ∧ e.hostMem = d.hostMem := by
  have hn : x.alarm < 256 := h.2.2.1
  have hlt := setCause_lt hc
  generalize hp : bitsOf x.copy.arg 0 6 = p at *
  have hs : (taken d rest).alarmAct x.copy = (stSTATE, (taken d rest).refuseSet p why) := by
    rw [alarmAct_reshape _ ha, Dev.alarmReshape, hp, Dev.reshape, taken_setCause, hc]
    rfl
  refine gives_dispatch [5] (fun _ => rfl) h (by simp [ha]) _ _ hs ?_
  obtain ⟨r1, -, r3, r4⟩ := refuseSet_reads (taken d rest) p hlt
  have hpo : ∀ f ∈ [F.P_CAUSE, F.P_EVENTS], 0x800000 ≤ f.off [p] := fun f hf => by
    rw [part_off (by revert f; decide)]; revert f; simp; omega
  have hf : ((taken d rest).refuseSet p why).get F.AL_FIRED [x.alarm] = d.get F.AL_FIRED [x.alarm] := r3.get _ _ fun y hy => by
    simp only [List.mem_cons, List.not_mem_nil, or_false] at hy
    have ho := al_off (f := F.AL_FIRED) (by simp [alFields]) x.alarm
    rcases hy with rfl | rfl
    · exact apart_of_off (by have := hpo F.P_CAUSE (by simp); dsimp only at *; omega) (by decide)
    · exact apart_of_off (by have := hpo F.P_EVENTS (by simp); dsimp only at *; omega) (by decide)
  obtain ⟨k1, k2, k3⟩ := endDispatch_keeps (st := stSTATE) (by decide) hn hf r4.mem.1 r4.mem.2
  refine ⟨k1, ?_, k2, k3⟩
  rw [endDispatch_get (by decide) hn F.P_CAUSE [p] (.inr (by have := hpo F.P_CAUSE (by simp); omega)) (by decide), r1, Nat.mod_eq_of_lt hlt]

/-- A register outside the alarms' is as the action left it. -/
theorem endDispatch_reg {s : Dev} {x : Dispatch} {st off : Nat} (hst : st < 2 ^ 4) (hn : x.alarm < 256) (h : off < 0x100100 ∨ 0x103000 ≤ off) :
    (s.endDispatch x st).reg off = s.reg off := by
  obtain ⟨-, -, -, h4, -, -⟩ := endDispatch_reads s x hst hn
  refine h4.reg off fun y hy => ?_
  have hev := alarmEvent_off x.alarm
  simp only [List.mem_cons, List.not_mem_nil, or_false] at hy
  rcases hy with rfl | rfl | rfl | rfl
  · dsimp only; rw [al_off (by simp [alFields])]; omega
  · dsimp only; rw [al_off (by simp [alFields])]; omega
  · dsimp only; rw [al_off (by simp [alFields])]; omega
  · dsimp only; rw [hev]; omega

theorem alarmReshape_applied {d : Dev} {x : Dispatch} {rest : List Dispatch} (h : MayDispatch d x rest) (ha : x.copy.action = 5)
    (hc : d.setCause (bitsOf x.copy.arg 0 6) (d.slotReg (bitsOf x.copy.arg 0 6) (bitsOf x.copy.arg 8 4)) pENABLED = none) :
    Gives .alarmReshape d fun e =>
      DispatchEnds x stOK d e ∧ ActiveIs d e (bitsOf x.copy.arg 0 6) (bitsOf x.copy.arg 8 4) ∧ e.mem = d.mem ∧ e.hostMem = d.hostMem := by
  have hn : x.alarm < 256 := h.2.2.1
  generalize hp : bitsOf x.copy.arg 0 6 = p at *
  generalize hsl : bitsOf x.copy.arg 8 4 = sl at *
  have hs : (taken d rest).alarmAct x.copy = (stOK, (taken d rest).applySet p sl) := by
    rw [alarmAct_reshape _ ha, Dev.alarmReshape, hp, hsl, Dev.reshape, taken_setCause, hc]
    rfl
  refine gives_dispatch [5] (fun _ => rfl) h (by simp [ha]) _ _ hs ?_
  obtain ⟨t1, t2, t3, -⟩ := applySet_reads (taken d rest) p sl
  generalize (taken d rest).applySet p sl = s at *
  have ho := al_off (f := F.AL_FIRED) (by simp [alFields]) x.alarm
  have hf : s.get F.AL_FIRED [x.alarm] = d.get F.AL_FIRED [x.alarm] := t2.get _ _ (by unfold setKept; omega)
  obtain ⟨k1, k2, k3⟩ := endDispatch_keeps (st := stOK) (by decide) hn hf t1.mem.1 t1.mem.2.1
  refine ⟨k1, fun r hr => ?_, k2, k3⟩
  unfold Dev.actReg
  rw [endDispatch_reg (by decide) hn (.inr (by omega))]
  exact t3 r hr

/-! ### Face swaps -/

theorem alarmAct_faceSwap (s : Dev) {c : AlarmCopy} (h : c.action = 2) : s.alarmAct c = s.alarmFaceSwap c := by
  obtain ⟨step, phase, tick, boundary, rep, action, owner, devOwned, notify, arg⟩ := c
  cases h
  rfl

theorem group_updGroup (s : Dev) (die g h : Nat) (f : Group → Group) :
    (s.updGroup die g f).group die h = if h = g then f (s.group die g) else s.group die h := by
  refine (Tab.get_set _ _ _ _ _).trans ?_
  have hk : gkey die h = gkey die g ↔ h = g := by unfold gkey; omega
  simp only [hk]
  rfl

/-- A swap set rises from its first group. -/
theorem swapRun_rises (s : Dev) (own : Nat → Bool) (die tag g fuel : Nat) :
    (s.swapRun own die tag g fuel).Nodup ∧ ∀ x ∈ s.swapRun own die tag g fuel, g ≤ x := by
  induction fuel generalizing g with
  | zero => exact ⟨List.nodup_nil, fun x hx => absurd hx List.not_mem_nil⟩
  | succ n ih =>
    obtain ⟨i1, i2⟩ := ih (g + 1)
    rw [Dev.swapRun]
    split
    · refine ⟨List.nodup_cons.2 ⟨fun hm => ?_, i1⟩, fun x hx => ?_⟩
      · have := i2 g hm; omega
      · rcases List.mem_cons.1 hx with rfl | hx
        · exact Nat.le_refl _
        · have := i2 x hx; omega
    · exact ⟨List.nodup_nil, fun x hx => absurd hx List.not_mem_nil⟩

theorem swapAll_reads (die : Nat) (gs : List Nat) (hn : gs.Nodup) (s : Dev) :
    OnlyScree s (s.swapAll die gs) ∧ ∀ g, ((s.swapAll die gs).group die g).servB = if g ∈ gs then !(s.group die g).servB else (s.group die g).servB := by
  unfold Dev.swapAll Dev.forEach
  induction gs generalizing s with
  | nil => exact ⟨onlyScree_refl s, fun g => by simp⟩
  | cons x gs ih =>
    rw [List.nodup_cons] at hn
    obtain ⟨i1, i2⟩ := ih hn.2 (s.updGroup die x fun r => { r with servB := !r.servB })
    refine ⟨onlyScree_trans (b := s.updGroup die x _) rfl i1, fun g => ?_⟩
    rw [List.foldl_cons, i2 g, group_updGroup]
    by_cases hg : g = x
    · subst hg
      simp [hn.1]
    · simp [hg]

theorem taken_owns (d : Dev) (rest : List Dispatch) (a : Acc) (r : Res) : (taken d rest).owns a r = d.owns a r := rfl

theorem taken_groupOwner (d : Dev) (rest : List Dispatch) (die g : Nat) : (taken d rest).groupOwner die g = d.groupOwner die g := rfl

theorem taken_swapRun (d : Dev) (rest : List Dispatch) (own : Nat → Bool) (die tag g fuel : Nat) :
    (taken d rest).swapRun own die tag g fuel = d.swapRun own die tag g fuel := by
  induction fuel generalizing g with
  | zero => rfl
  | succ n ih =>
    rw [Dev.swapRun, Dev.swapRun, ih]
    rfl

/-- The groups that an owner swaps together with `g`. -/
def swapOwn (d : Dev) (c : AlarmCopy) (g' : Nat) : Bool :=
  if c.devOwned then d.groupOwner (bitsOf c.arg 0 3) g' == d.groupOwner (bitsOf c.arg 0 3) (bitsOf c.arg 3 16)
  else d.owns ⟨c.owner, 0, 0, false⟩ ⟨4, bitsOf c.arg 0 3, g', 1⟩

theorem taken_faceSwap (d : Dev) (rest : List Dispatch) (c : AlarmCopy) (hh : d.alarmHolds c = true)
    (hne : d.swapSet (swapOwn d c) (bitsOf c.arg 0 3) (bitsOf c.arg 3 16) 16384 ≠ []) :
    (taken d rest).alarmFaceSwap c = (stOK, (taken d rest).swapAll (bitsOf c.arg 0 3) (d.swapSet (swapOwn d c) (bitsOf c.arg 0 3) (bitsOf c.arg 3 16) 16384)) := by
  have hh' : (taken d rest).alarmHolds c = true := hh
  have hs : (taken d rest).swapSet (swapOwn d c) (bitsOf c.arg 0 3) (bitsOf c.arg 3 16) 16384 =
      d.swapSet (swapOwn d c) (bitsOf c.arg 0 3) (bitsOf c.arg 3 16) 16384 := taken_swapRun d rest _ _ _ _ _
  unfold Dev.alarmFaceSwap
  rw [hh']
  simp only [taken_groupOwner, taken_owns]
  change (match (taken d rest).swapSet (swapOwn d c) (bitsOf c.arg 0 3) (bitsOf c.arg 3 16) 16384 with
    | [] => (stSTATE, taken d rest)
    | gs => (stOK, (taken d rest).swapAll (bitsOf c.arg 0 3) gs)) = _
  rw [hs]
  split
  · rename_i h; exact absurd h hne
  · rfl

theorem onlyScree_taken {d s : Dev} {rest : List Dispatch} (h : OnlyScree (taken d rest) s) :
    (∀ f ix, s.get f ix = d.get f ix) ∧ s.mem = d.mem ∧ s.hostMem = d.hostMem := by
  rw [h]
  exact ⟨fun _ _ => rfl, rfl, rfl⟩

theorem group_congr {a b : Dev} (h : b.scree = a.scree) (die g : Nat) : b.group die g = a.group die g := by
  unfold Dev.group
  rw [h]

theorem alarmFaceSwap_swaps {d : Dev} {x : Dispatch} {rest : List Dispatch} (h : MayDispatch d x rest) (ha : x.copy.action = 2)
    (hh : d.alarmHolds x.copy = true)
    (hne : d.swapSet (swapOwn d x.copy) (bitsOf x.copy.arg 0 3) (bitsOf x.copy.arg 3 16) 16384 ≠ []) :
    Gives .alarmFaceSwap d fun e =>
      DispatchEnds x stOK d e ∧
      (∀ g < 16384, (e.group (bitsOf x.copy.arg 0 3) g).servB =
        (if g ∈ d.swapSet (swapOwn d x.copy) (bitsOf x.copy.arg 0 3) (bitsOf x.copy.arg 3 16) 16384
         then !(d.group (bitsOf x.copy.arg 0 3) g).servB else (d.group (bitsOf x.copy.arg 0 3) g).servB)) ∧
      e.mem = d.mem ∧ e.hostMem = d.hostMem := by
  have hn : x.alarm < 256 := h.2.2.1
  refine gives_dispatch [2] (fun _ => rfl) h (by simp [ha]) _ stOK ((alarmAct_faceSwap _ ha).trans (taken_faceSwap d rest x.copy hh hne)) ?_
  obtain ⟨v1, v2⟩ := swapAll_reads (bitsOf x.copy.arg 0 3) _ (swapRun_rises d (swapOwn d x.copy) (bitsOf x.copy.arg 0 3)
    (d.faceTag (bitsOf x.copy.arg 0 3) (bitsOf x.copy.arg 3 16) (d.standby (bitsOf x.copy.arg 0 3) (bitsOf x.copy.arg 3 16)))
    (bitsOf x.copy.arg 3 16) 16384).1 (taken d rest)
  obtain ⟨hf, hm, hhm⟩ := onlyScree_taken v1
  unfold Dev.swapSet
  generalize (taken d rest).swapAll (bitsOf x.copy.arg 0 3) _ = s at *
  obtain ⟨k1, k2, k3⟩ := endDispatch_keeps (st := stOK) (by decide) hn (hf F.AL_FIRED [x.alarm]) hm hhm
  exact ⟨k1, fun g _ => by rw [group_congr (endDispatch_pwr (by decide) hn).1, v2 g]; rfl, k2, k3⟩

theorem alarmFaceSwap_gone {d : Dev} {x : Dispatch} {rest : List Dispatch} (h : MayDispatch d x rest) (ha : x.copy.action = 2)
    (hh : d.alarmHolds x.copy = false) :
    Gives .alarmFaceSwap d fun e => DispatchEnds x stPROT d e ∧ e.scree = d.scree ∧ e.mem = d.mem ∧ e.hostMem = d.hostMem := by
  have hn : x.alarm < 256 := h.2.2.1
  have hs : (taken d rest).alarmAct x.copy = (stPROT, taken d rest) := by
    have hh' : (taken d rest).alarmHolds x.copy = false := hh
    rw [alarmAct_faceSwap _ ha]
    unfold Dev.alarmFaceSwap
    rw [hh']
    rfl
  refine gives_dispatch [2] (fun _ => rfl) h (by simp [ha]) _ _ hs ?_
  obtain ⟨m1, m2⟩ := taken_mem d rest
  obtain ⟨k1, k2, k3⟩ := endDispatch_keeps (s := taken d rest) (x := x) (st := stPROT) (by decide) hn (taken_get d rest F.AL_FIRED [x.alarm]) m1 m2
  exact ⟨k1, (endDispatch_pwr (by decide) hn).1, k2, k3⟩

/-- Settles O8: the dispatch of power, reshape and face-swap alarms. -/
theorem alarmStewardActions : Obligations.AlarmStewardActions := by
  unfold Obligations.AlarmStewardActions
  intro d x rest h c p
  exact ⟨fun ha hr => alarmPower_refused h ha hr, fun ha hst hdom => alarmPower_unit h ha hst hdom,
    fun cur ha hr hd9 hrest hc hne hnf => alarmPower_moves h ha hr hd9 hrest hc hne hnf,
    fun ha => ⟨fun why hw => alarmReshape_refused h ha hw, fun hc => alarmReshape_applied h ha hc⟩,
    fun ha hh hne => alarmFaceSwap_swaps h ha hh hne, fun ha hh => alarmFaceSwap_gone h ha hh⟩

end Sys2Proof
end

section
/-! SUPPORT. The regulator-disable step with no rail that can be commanded (18 R659; 20 Table 20.8). -/

namespace Sys2Proof

open Machine

/-- With no rail left that can be commanded and is not off, the unit is Off at once. -/
theorem offRun_done (l : List Nat) (s : Dev) (h : ∀ r ∈ l, s.railFree r = true → s.flag F.RAIL_ENABLED [r] = false ∧ s.flag F.RAIL_IN_FLIGHT [r] = false) :
    s.offRun l = s.powerOff s.pwr.offTo := by
  induction l with
  | nil => rfl
  | cons r l ih =>
    rw [Dev.offRun, if_neg ?_]
    · exact ih fun r hr => h r (List.mem_cons_of_mem _ hr)
    · rintro ⟨hf, he⟩
      obtain ⟨h1, h2⟩ := h r (List.mem_cons_self ..) hf
      rw [h1, h2] at he
      simp at he

/-- What a command gives is what its meaning makes of the unit. -/
theorem gives_is {c : Instr} {d e : Dev} (f : Dev → Dev) (h : ∀ s, exec c s = onDev f s) (hp : Powered d)
    (he : ∀ q, exec c ⟨d, q⟩ = .next ⟨e, q⟩) : e = f d := by
  obtain ⟨e', h1, h2⟩ := gives_of_onDev (P := fun e' => e' = f d) f h hp rfl
  have := (he []).symm.trans (h1 [])
  simp only [Host.Outcome.next.injEq, State.mk.injEq, and_true] at this
  rw [this, h2]

/-- A powered unit in an orderly shut-down whose one rail that is on hangs on the secondary bus, with Col-B gone. -/
def secondaryRailLeft : Dev := (Dev.reset.put0 F.BOOT_STAGE 10).put F.RAIL_ENABLED [11] 1

theorem secondaryRailLeft_rails : ∀ r ∈ offOrder, secondaryRailLeft.railFree r = true →
    secondaryRailLeft.flag F.RAIL_ENABLED [r] = false ∧ secondaryRailLeft.flag F.RAIL_IN_FLIGHT [r] = false := by decide

/-- Refutes O29: the last clause asks for the rails' sequence whenever some rail is on; where that rail hangs on the secondary bus and
Col-B, which commands that bus, is gone, no rail can be commanded, and the unit is Off at once. -/
theorem not_orderlyShutDown : ¬Obligations.OrderlyShutDown := by
  unfold Obligations.OrderlyShutDown
  intro h
  obtain ⟨-, -, h⟩ := h
  have hp : Powered secondaryRailLeft := rfl
  obtain ⟨-, -, h⟩ := h secondaryRailLeft hp (by decide) (by decide)
  obtain ⟨e, he, -, hseq, -⟩ := h 11 (by decide) (by decide)
  obtain ⟨x, hx, hk, -⟩ := regulatorOff_rails secondaryRailLeft 2
  have hn : secondaryRailLeft.noReturn = secondaryRailLeft.regulatorOff 2 := if_pos (by decide)
  have hd : x.offRun offOrder = x.powerOff x.pwr.offTo := offRun_done _ _ fun r hr hf => by
    have hlt : r < 12 := (show ∀ r ∈ offOrder, r < 12 by decide) r hr
    have ho : F.RAIL_ENABLED.off [r] = 0x3A01008 + 0x40 * r ∧ F.RAIL_IN_FLIGHT.off [r] = 0x3A01008 + 0x40 * r := by
      constructor <;> simp [Fld.off]
    rw [railFree_congr (stands_mono hk fun off ho => by omega)] at hf
    rw [flag_of_get (hk.get F.RAIL_ENABLED [r] (by omega)), flag_of_get (hk.get F.RAIL_IN_FLIGHT [r] (by omega))]
    exact secondaryRailLeft_rails r hr hf
  rw [gives_is Dev.noReturn (fun _ => rfl) hp he, hn, hx, hd] at hseq
  exact hseq rfl

end Sys2Proof
end

section
/-! SUPPORT. Queue doorbells (05 R173 to R176, R184, R187). -/

namespace Sys2Proof

open Machine

theorem doorbellWrite_narrow (d : Dev) (req : Req) (off v : Nat) {size : Nat} (h : size < 4) : d.doorbellWrite req off size v = d := by
  have hz : (off + size) / 4 - (off + 3) / 4 * 4 / 4 = 0 := by omega
  unfold Dev.doorbellWrite
  dsimp only
  rw [hz]
  rfl

/-- A doorbell of a page lies at a multiple of 16. -/
theorem doorbellAt_aligned {d : Dev} {req : Req} {off : Nat} {x : Bool × Nat} (h : d.doorbellAt req off = some x) : off % 4 = 0 := by
  unfold Dev.doorbellAt at h
  dsimp only at h
  rw [Option.bind_eq_some_iff] at h
  obtain ⟨p, -, h⟩ := h
  split at h
  · omega
  · cases h

theorem doorbellWrite_word {d : Dev} {req : Req} {off v : Nat} {x : Bool × Nat} (h : d.doorbellAt req off = some x) (hv : v < 65536) :
    d.doorbellWrite req off 4 v = d.doorbellPut req off v := by
  have ha := doorbellAt_aligned h
  have hf : (off + 3) / 4 * 4 = off := by omega
  have hn : (off + 4) / 4 - off / 4 = 1 := by omega
  unfold Dev.doorbellWrite
  dsimp only
  rw [hf, hn]
  have hb : bitsOf v (8 * (off - off)) 32 = v := by
    rw [Nat.sub_self]; unfold bitsOf; simp; omega
  change d.doorbellPut req (off + 4 * 0) (bitsOf v (8 * (off + 4 * 0 - off)) 32) = _
  rw [Nat.mul_zero, Nat.add_zero, hb]

theorem doorbellPut_sq {d : Dev} {req : Req} {off k v : Nat} (h : d.doorbellAt req off = some (true, k)) (hv : v < 65536) :
    d.doorbellPut req off v = (d.sqDb k v).2 := by
  unfold Dev.doorbellPut
  rw [h, Nat.mod_eq_of_lt hv]

theorem doorbellPut_cq {d : Dev} {req : Req} {off k v : Nat} (h : d.doorbellAt req off = some (false, k)) (hv : v < 65536) :
    d.doorbellPut req off v = d.cqDb k v := by
  unfold Dev.doorbellPut
  rw [h, Nat.mod_eq_of_lt hv]

theorem gives_sqDb {d : Dev} {req : Req} {off k v : Nat} {P : Dev → Prop} (hp : Powered d) (h : d.doorbellAt req off = some (true, k)) (hv : v < 65536)
    (hP : P (d.sqDb k v).2) : Gives (.sqDb req ⟨off, 4, v⟩) d P := by
  refine gives_of_onDev (·.doorbellWrite req off 4 v) (fun _ => rfl) hp ?_
  rw [doorbellWrite_word h hv, doorbellPut_sq h hv]
  exact hP

theorem gives_cqDb {d : Dev} {req : Req} {off k v : Nat} {P : Dev → Prop} (hp : Powered d) (h : d.doorbellAt req off = some (false, k)) (hv : v < 65536)
    (hP : P (d.cqDb k v)) : Gives (.cqDb req ⟨off, 4, v⟩) d P := by
  refine gives_of_onDev (·.doorbellWrite req off 4 v) (fun _ => rfl) hp ?_
  rw [doorbellWrite_word h hv, doorbellPut_cq h hv]
  exact hP

/-- An error of a queue: its flag and its partition's event. -/
theorem qErr_reads {f : Fld} (hf : f ∈ [F.DB_ERR, F.CFG_ERR, F.FETCH_ERR]) (s : Dev) (k : Nat) {b : Nat} (hb : b < 9) :
    (s.qErr k f b).get f (qix k) = 1 ∧ bitAt ((s.qErr k f b).get F.P_EVENTS [k / 32]) b = true ∧
    OnlyFields [(f, qix k), (F.P_EVENTS, [k / 32])] s (s.qErr k f b) ∧ OnlyRegsIrq s (s.qErr k f b) := by
  have hq : f ∈ qFields := by revert f; decide
  have hfit : f.lo + f.w ≤ 32 ∧ 1 < 2 ^ f.w := by revert f; decide
  have hp : Fld.apart F.P_EVENTS [k / 32] f (qix k) = true := by
    have hb : f.base = 0x80001C := by revert f; decide
    refine apart_of_off ?_ hfit.1
    rw [q_off hq, part_off (by decide), hb]
    simp only
    omega
  unfold Dev.qErr
  refine ⟨?_, partEvent_bit _ _ hb, ?_, onlyRegsIrq_trans (onlyRegs_put s _ _ _).irq (onlyRegsIrq_partEvent _ _ _)⟩
  · rw [partEvent_get _ _ _ hp]
    exact Dev.get_put_fit _ hfit.1 hfit.2
  · exact onlyFields_trans (onlyFields_put _ (onlyFields_refl _ s) (by simp)) (onlyFields_mono (by simp) (partEvent_fields _ (k / 32) b))

/-- A submission doorbell in range, to a queue whose die is awake. -/
theorem sqJudge_accepts {s : Dev} {k v : Nat} (hk : queueOk k = true) (hv : v < 65536) (haw : ∀ x, (s.queue k).home = some x → s.domAsleep x.1 = false)
    (h1 : idxSub (s.qP k) (s.qH k) ≤ idxSub v (s.qH k)) (h2 : idxSub v (s.qH k) ≤ s.sqSize k) :
    (s.sqJudge k v).2.qP k = v ∧ OnlyFields [(F.Q_PROD, qix k)] s (s.sqJudge k v).2 ∧ OnlyRegs s (s.sqJudge k v).2 := by
  have hput : (s.put F.Q_PROD (qix k) v).qP k = v ∧ OnlyFields [(F.Q_PROD, qix k)] s (s.put F.Q_PROD (qix k) v) ∧ OnlyRegs s (s.put F.Q_PROD (qix k) v) :=
    ⟨Dev.get_put_fit _ (by decide) hv, onlyFields_put _ (onlyFields_refl _ s) (by simp), onlyRegs_put _ _ _ _⟩
  unfold Dev.sqJudge
  dsimp only
  rw [if_neg (by omega)]
  split
  · rename_i he
    exact ⟨he.symm, onlyFields_refl _ s, onlyRegs_refl s⟩
  · have hq : (s.put F.Q_PROD (qix k) v).queue k = s.queue k := rfl
    rw [hq]
    dsimp only
    split
    · rename_i x c hx
      have hsl : (s.put F.Q_PROD (qix k) v).domAsleep x = false := by
        refine Eq.trans ?_ (haw _ hx)
        have hd : (s.put F.Q_PROD (qix k) v).get F.DOM_STATE [x] = s.get F.DOM_STATE [x] := by
          refine get_of_reg (Dev.reg_put_ne _ _ _ _ _ ?_)
          simp only [queueOk, Bool.and_eq_true, decide_eq_true_eq] at hk
          rw [dom_off (by simp [domFields]), q_off (by decide)]
          simp only
          omega
        unfold Dev.domAsleep
        rw [hd]
        rfl
      have : (s.put F.Q_PROD (qix k) v).edgeWake x = s.put F.Q_PROD (qix k) v := by
        unfold Dev.edgeWake
        rw [hsl]
        rfl
      rw [this]
      exact hput
    · exact hput

/-- Settles O17: submission and completion doorbells. -/
theorem queueDoorbells : Obligations.QueueDoorbells := by
  unfold Obligations.QueueDoorbells
  refine ⟨fun d req off size v hp _ hs => ⟨?_, ?_⟩, ?_⟩
  · exact gives_of_onDev (·.doorbellWrite req off size v) (fun _ => rfl) hp (doorbellWrite_narrow d req off v hs)
  · exact gives_of_onDev (·.doorbellWrite req off size v) (fun _ => rfl) hp (doorbellWrite_narrow d req off v hs)
  intro d req sq cq k v hp hk hv hshut hsq hcq awake refused
  have hsh : ¬d.hostShut = true := by rw [hshut]; decide
  refine ⟨fun hen hst => ⟨fun haw h1 h2 => gives_sqDb hp hsq hv ?_, fun h => gives_sqDb hp hsq hv ?_⟩,
    fun hen hst => ⟨fun h => gives_cqDb hp hcq hv ?_, fun h => gives_cqDb hp hcq hv ?_⟩,
    fun hen => ⟨gives_sqDb hp hsq hv ?_, gives_cqDb hp hcq hv ?_⟩, fun hen h1 h2 => gives_sqDb hp hsq hv ?_, fun hen h => gives_cqDb hp hcq hv ?_⟩
  · rw [Dev.sqDb, if_neg hsh, hen, if_neg (by simp), if_pos hst]
    exact sqJudge_accepts hk hv haw h1 h2
  · rw [Dev.sqDb, if_neg hsh, hen, if_neg (by simp), if_pos hst, Dev.sqJudge]
    dsimp only
    rw [if_pos h]
    exact qErr_reads (by simp) d k (by decide)
  · rw [Dev.cqDb, if_neg hsh, hen, if_neg (by simp), if_neg hst, Dev.cqJudge, if_pos h]
    exact ⟨Dev.get_put_fit _ (by decide) hv, onlyFields_put _ (onlyFields_refl _ d) (by simp), onlyRegs_put _ _ _ _⟩
  · rw [Dev.cqDb, if_neg hsh, hen, if_neg (by simp), if_neg hst, Dev.cqJudge, if_neg (by omega)]
    exact qErr_reads (by simp) d k (by decide)
  · rw [Dev.sqDb, if_neg hsh, if_pos hen]
  · rw [Dev.cqDb, if_neg hsh, if_pos hen]
  · rw [Dev.sqDb, if_neg hsh, hen, if_neg (by simp), if_neg (by tauto)]
  · rw [Dev.cqDb, if_neg hsh, hen, if_neg (by simp), if_pos h]

end Sys2Proof
end

section
/-! SUPPORT. Descriptors are read, started and given their lists (05 R167, R168, R178, R179). -/

namespace Sys2Proof

open Machine

theorem gives_onQueue {i : Instr} {d : Dev} {k : Nat} {f : Dev → Dev} {P : Dev → Prop} (h : ∀ s, exec i s = onQueue k f s) (hw : Powered d)
    (hk : queueOk k = true) (hP : P (f d)) : Gives i d P :=
  gives_of_onDev (fun d => if queueOk k then f d else d) h hw (by rw [if_pos hk]; exact hP)

/-- Only what host memory is taken to hold changed. -/
def OnlyHostMem (a b : Dev) : Prop := b = { a with hostMem := b.hostMem, hostPoison := b.hostPoison }

theorem onlyHostMem_holds (s : Dev) (addr : Nat) (bs : List Byte) : OnlyHostMem s (s.hostHolds addr bs) := by
  unfold Dev.hostHolds
  split
  · rfl
  · rfl

theorem OnlyHostMem.rest {a b : Dev} (h : OnlyHostMem a b) : b.regs = a.regs ∧ b.queues = a.queues ∧ b.host = a.host ∧ b.pauses = a.pauses ∧
    b.mem = a.mem := by
  rw [h]; exact ⟨rfl, rfl, rfl, rfl, rfl⟩

theorem canMaster_congr {a b : Dev} (hr : b.regs = a.regs) (hh : b.host = a.host) (hp : b.pauses = a.pauses) (fn : Nat) :
    b.canMaster fn = a.canMaster fn := by
  simp only [Dev.canMaster, Dev.hostShut, Dev.flag, Dev.get_eq, hr, hh, hp]

theorem OnlyHostMem.qBus {a b : Dev} (h : OnlyHostMem a b) (k : Nat) : b.qBus k = a.qBus k := by
  obtain ⟨h1, -, h3, h4, -⟩ := h.rest
  simp only [Dev.qBus, Dev.owner, Dev.vfOwned, Dev.get64, Dev.get_eq, h1, canMaster_congr h1 h3 h4]
  rfl

/-! ### Reading -/

theorem descRead_reads {s : Dev} {k : Nat} (fail : Bool) (hq : s.qState k = qENABLED) (hr : (s.queue k).readFailed = false) (hp : s.qH k ≠ s.qP k)
    (hl : (s.queue k).ahead.length < 16) (hb : s.qBus k = true) :
    (fail = false → s.hostBad (s.descAddr k) 64 = false →
      (s.descRead k fail).qH k = (s.qH k + 1) % 65536 ∧ OnlyFields [(F.Q_HEAD, qix k)] s (s.descRead k fail) ∧
      ((s.descRead k fail).queue k).ahead = (s.queue k).ahead ++ [⟨s.qH k, false, wordsOfBytes (s.readHost (s.descAddr k) 64)⟩] ∧
      (s.descRead k fail).mem = s.mem) ∧
    (fail = true → ((s.descRead k fail).queue k).readFailed = true ∧ ((s.descRead k fail).queue k).ahead = (s.queue k).ahead ++ [⟨s.qH k, true, []⟩] ∧
      (s.descRead k fail).regs = s.regs ∧ (s.descRead k fail).mem = s.mem) := by
  have hc : ¬(s.qState k ≠ qENABLED ∨ (s.queue k).readFailed = true ∨ s.qH k = s.qP k ∨ 16 ≤ (s.queue k).ahead.length ∨
      (!s.mayEnd k) = true ∨ (!s.qBus k) = true ∧ (s.queue k).owed = some (s.qH k)) := by
    simp [hq, hr, hp, Dev.mayEnd, hb, hl]
  obtain ⟨s1, hs1⟩ : ∃ s1, s1 = s.issue (s.owner (k / 32)) false (s.descAddr k) 64 := ⟨_, rfl⟩
  have h1 : s1.regs = s.regs ∧ s1.queues = s.queues ∧ s1.mem = s.mem ∧ s1.hostBad (s.descAddr k) 64 = s.hostBad (s.descAddr k) 64 ∧
      s1.readHost (s.descAddr k) 64 = s.readHost (s.descAddr k) 64 := by rw [hs1]; exact ⟨rfl, rfl, rfl, rfl, rfl⟩
  obtain ⟨r1, r2, r3, r4, r5⟩ := h1
  have he : s.descRead k fail = if fail = true ∨ s1.hostBad (s.descAddr k) 64 = true then
        s1.updQ k fun q => { q with readFailed := true, ahead := q.ahead ++ [⟨s.qH k, true, []⟩] }
      else (s1.updQ k fun q => { q with ahead := q.ahead ++ [⟨s.qH k, false, wordsOfBytes (s1.readHost (s.descAddr k) 64)⟩] }).put F.Q_HEAD (qix k)
        ((s.qH k + 1) % 65536) := by
    unfold Dev.descRead
    dsimp only
    rw [if_neg hc, hs1]
    rfl
  have hqk : s1.queue k = s.queue k := queue_congr r2 k
  refine ⟨fun hf hg => ?_, fun hf => ?_⟩
  · rw [he, if_neg (by simp [hf, r4, hg]), r5]
    obtain ⟨s2, hs2⟩ : ∃ s2, s2 = s1.updQ k fun q => { q with ahead := q.ahead ++ [⟨s.qH k, false, wordsOfBytes (s.readHost (s.descAddr k) 64)⟩] } := ⟨_, rfl⟩
    have hr2 : s2.regs = s.regs ∧ s2.mem = s.mem := by rw [hs2]; exact ⟨r1, r3⟩
    have hq2 : (s2.queue k).ahead = (s.queue k).ahead ++ [⟨s.qH k, false, wordsOfBytes (s.readHost (s.descAddr k) 64)⟩] := by
      rw [hs2, queue_updQ, if_pos rfl, hqk]
    rw [← hs2]
    exact ⟨Dev.get_put_fit _ (by decide) (Nat.mod_lt _ (by decide)), onlyFields_put _ (onlyFields_of_regs hr2.1) (by simp), hq2, hr2.2⟩
  · rw [he, if_pos (.inl hf)]
    refine ⟨?_, ?_, r1, r3⟩ <;> rw [queue_updQ, if_pos rfl]
    rw [hqk]

/-! ### Starting -/

/-- The run `r` of the oldest descriptor read ahead begins. -/
def beginRun (k : Nat) (rest : List Desc) (s : Dev) (r : Run) : Dev :=
  s.updQ k fun q => { q with ahead := rest, run := some r, ended := q.ended ++ q.run.toList }

theorem descStart_eq {s : Dev} {k : Nat} {y : Desc} {rest : List Desc} (ha : (s.queue k).ahead = y :: rest) (h1 : s.startsHeld = false)
    (h2 : s.homeSleeps k = false) (h3 : s.qBus k = true) (h4 : s.qState k = qENABLED) (h5 : (s.queue k).run.all Run.done = true)
    (h6 : y.failed = false) (h7 : s.cqSpace k y.index = true) (h8 : bitAt (wordAt y.words 0) 6 = true → s.qT k = y.index) :
    (y.bad = true → s.descStart k = beginRun k rest s (Run.failed y stFAULT dDESCFORMAT)) ∧
    (y.bad = false →
      (bitsOf (wordAt y.words 0) 0 4 = 3 → s.descStart k = beginRun k rest s (Run.start y [] false)) ∧
      (bitsOf (wordAt y.words 0) 0 4 = 2 →
        s.descStart k = beginRun k rest s (Run.start y ((y.words.drop 6).take (bitsOf (wordAt y.words 1) 0 24 / 4)) false)) ∧
      (bitsOf (wordAt y.words 0) 0 4 = 1 → bitAt (wordAt y.words 0) 4 = false → s.descStart k = beginRun k rest s (Run.start y [] true))) := by
  have h5' : (s.queue k).run.any (fun r => !r.done) = false := by
    cases hr : (s.queue k).run with
    | none => rfl
    | some r =>
      rw [hr] at h5
      have : r.done = true := h5
      simp [this]
  have hc : ¬(s.startsHeld = true ∨ s.homeSleeps k = true ∨ (!s.qBus k) = true ∨ s.qState k ≠ qENABLED ∨ (s.queue k).run.any (fun r => !r.done) = true ∨
      y.failed = true ∨ (!s.cqSpace k y.index) = true ∨ bitAt (wordAt y.words 0) 6 = true ∧ s.qT k ≠ y.index) := by
    simp only [h1, h2, h3, h4, h5', h6, h7]
    simpa using h8
  refine ⟨fun hb => ?_, fun hb => ⟨fun hk => ?_, fun hk => ?_, fun hk h4 => ?_⟩⟩
  all_goals
    unfold Dev.descStart
    dsimp only
    rw [ha]
    dsimp only
    rw [if_neg hc]
  · rw [if_pos hb]; rfl
  · rw [hb, if_neg (by simp), if_pos hk]; rfl
  · rw [hb, if_neg (by simp), if_neg (by omega), if_pos hk]; rfl
  · rw [hb, if_neg (by simp), if_neg (by omega), if_neg (by omega), h4, if_neg (by simp)]; rfl

/-! ### Lists -/

theorem listRead_reads {s : Dev} {k : Nat} {r : Run} (fail : Bool) (hr : (s.queue k).run = some r) (hl : r.listPending = true) (hb : s.qBus k = true) :
    (fail = false → s.hostBad (wordAt r.words 2 + 2 ^ 32 * wordAt r.words 3) (bitsOf (wordAt r.words 1) 0 24) = false →
      ((s.listRead k fail).queue k).run = some { r with listPending := false, list := wordsOfBytes (s.readHost (wordAt r.words 2 + 2 ^ 32 * wordAt r.words 3)
        (bitsOf (wordAt r.words 1) 0 24)) } ∧ (s.listRead k fail).regs = s.regs ∧ (s.listRead k fail).mem = s.mem) ∧
    (fail = true → ((s.listRead k fail).queue k).run = some { r with listPending := false, stop := some (stFAULT, dLISTREAD) } ∧
      (s.listRead k fail).regs = s.regs ∧ (s.listRead k fail).mem = s.mem) := by
  generalize hA : wordAt r.words 2 + 2 ^ 32 * wordAt r.words 3 = addr
  generalize hN : bitsOf (wordAt r.words 1) 0 24 = n
  obtain ⟨s1, hs1⟩ : ∃ s1, s1 = s.issue (s.owner (k / 32)) false addr n := ⟨_, rfl⟩
  have h1 : s1.regs = s.regs ∧ s1.mem = s.mem ∧ s1.hostBad addr n = s.hostBad addr n ∧ s1.readHost addr n = s.readHost addr n := by
    rw [hs1]; exact ⟨rfl, rfl, rfl, rfl⟩
  obtain ⟨r1, r3, r4, r5⟩ := h1
  have he : s.listRead k fail = if fail = true ∨ s1.hostBad addr n = true then
        s1.updQ k fun q => { q with run := some { r with listPending := false, stop := some (stFAULT, dLISTREAD) } }
      else s1.updQ k fun q => { q with run := some { r with listPending := false, list := wordsOfBytes (s1.readHost addr n) } } := by
    unfold Dev.listRead
    rw [hr]
    dsimp only
    rw [if_neg (by simp [hl, Dev.mayEnd, hb]), hA, hN, ← hs1]
  refine ⟨fun hf hg => ?_, fun hf => ?_⟩
  · rw [he, if_neg (by simp [hf, r4, hg]), r5]
    exact ⟨by rw [queue_updQ, if_pos rfl], r1, r3⟩
  · rw [he, if_pos (.inl hf)]
    exact ⟨by rw [queue_updQ, if_pos rfl], r1, r3⟩

theorem listAddr_eq {s : Dev} {k : Nat} {r : Run} (hr : (s.queue k).run = some r) : s.listAddr k = wordAt r.words 2 + 2 ^ 32 * wordAt r.words 3 := by
  unfold Dev.listAddr
  rw [hr]

/-- Settles O18: descriptors are read, started and given their lists. -/
theorem queueDescriptors : Obligations.QueueDescriptors := by
  unfold Obligations.QueueDescriptors
  intro d k hp hk hq
  refine ⟨?_, ?_, ?_⟩
  · intro data fail x hr hh hl hb
    have hf : ∀ {P : Dev → Prop}, P (x.descRead k fail) → Gives (.descriptorRead k data fail) d P := fun h =>
      gives_onQueue (f := fun d => (d.hostHolds (d.descAddr k) (data.take 64)).descRead k fail) (fun _ => rfl) hp hk h
    have hx : OnlyHostMem d x := onlyHostMem_holds d _ _
    clear_value x
    obtain ⟨r1, r2, -, -, r5⟩ := hx.rest
    have hg : ∀ f ix, x.get f ix = d.get f ix := fun f ix => by rw [Dev.get_eq, r1, ← Dev.get_eq]
    have hqk := queue_congr r2 k
    have hda : x.descAddr k = d.descAddr k := by simp only [Dev.descAddr, Dev.sqBase, Dev.sqSize, Dev.qH, hg]
    obtain ⟨k1, k2⟩ := descRead_reads (s := x) (k := k) fail ((hg _ _).trans hq) (by rw [hqk]; exact hr)
      (by simp only [Dev.qH, Dev.qP, hg]; exact hh) (by rw [hqk]; exact hl) (by rw [hx.qBus]; exact hb)
    have hH : x.qH k = d.qH k := hg _ _
    rw [hda, hqk, hH, r5] at k1
    rw [hqk, hH, r5, r1] at k2
    refine ⟨fun h1 h2 => hf ?_, fun h1 => hf (k2 h1)⟩
    obtain ⟨e1, e2, e3, e4⟩ := k1 h1 h2
    exact ⟨e1, onlyFields_trans (onlyFields_of_regs r1) e2, e3, e4⟩
  · intro y rest ha h1 h2 h3 h5 h6 h7 h8 kind n starts
    obtain ⟨s1, s2⟩ := descStart_eq ha h1 h2 h3 hq h5 h6 h7 h8
    refine ⟨fun hb => gives_onQueue (f := (·.descStart k)) (fun _ => rfl) hp hk (s1 hb), fun hb => ?_⟩
    obtain ⟨s3, s4, s5⟩ := s2 hb
    exact ⟨fun hk1 h4 => gives_onQueue (f := (·.descStart k)) (fun _ => rfl) hp hk (s5 hk1 h4),
      fun hk2 => gives_onQueue (f := (·.descStart k)) (fun _ => rfl) hp hk (s4 hk2),
      fun hk3 => gives_onQueue (f := (·.descStart k)) (fun _ => rfl) hp hk (s3 hk3)⟩
  · intro r data fail hr hl hb addr n x
    have hx : OnlyHostMem d x := onlyHostMem_holds d _ _
    have hf : ∀ {P : Dev → Prop}, P (x.listRead k fail) → Gives (.listRead k data fail) d P := fun h =>
      gives_onQueue (f := fun d => (d.hostHolds (d.listAddr k) data).listRead k fail) (fun _ => rfl) hp hk
        (by rw [listAddr_eq hr]; exact h)
    clear_value x
    obtain ⟨r1, r2, -, -, r5⟩ := hx.rest
    obtain ⟨k1, k2⟩ := listRead_reads (s := x) (k := k) fail (by rw [queue_congr r2]; exact hr) hl (by rw [hx.qBus]; exact hb)
    rw [r1, r5] at k1 k2
    exact ⟨fun h1 h2 => hf (k1 h1 h2), fun h1 => hf (k2 h1)⟩

end Sys2Proof
end

section
/-! SUPPORT. Completion entries (05 R169 to R171, R185, R189). -/

namespace Sys2Proof

open Machine

/-- Only registers, queues, host memory and messages changed. -/
def OnlyPosts (a b : Dev) : Prop :=
  b = { a with regs := b.regs, queues := b.queues, hostMem := b.hostMem, hostPoison := b.hostPoison,
               host := { a.host with sent := b.host.sent, pfPba := b.host.pfPba, vfPba := b.host.vfPba, issued := b.host.issued } }

theorem onlyPosts_refl (a : Dev) : OnlyPosts a a := rfl

theorem onlyPosts_trans {a b c : Dev} (h : OnlyPosts a b) (h' : OnlyPosts b c) : OnlyPosts a c := by
  unfold OnlyPosts at *
  rw [h] at h'
  exact h'

theorem OnlyRegsIrq.posts {a b : Dev} (h : OnlyRegsIrq a b) : OnlyPosts a b := by
  unfold OnlyPosts OnlyRegsIrq at *
  generalize b.regs = r, b.host.sent = x, b.host.pfPba = y, b.host.vfPba = z at h
  subst h
  rfl

theorem OnlyPosts.mem {a b : Dev} (h : OnlyPosts a b) : b.mem = a.mem := by
  rw [h]

/-! ### Announcements -/

/-- Announcing the entries of a queue: no register and no memory changes, nor of the queue anything but its counts. -/
theorem announce_reads (s : Dev) (k : Nat) :
    ((s.announce k).queue k).unannounced = 0 ∧ ((s.announce k).queue k).sinceMsg = 0 ∧ (s.announce k).regs = s.regs ∧
    (s.announce k).hostMem = s.hostMem ∧ OnlyPosts s (s.announce k) ∧
    (∃ u m, (s.announce k).queue k = { s.queue k with unannounced := u, sinceMsg := m }) := by
  obtain ⟨s1, hs1⟩ : ∃ s1, s1 = s.updQ k fun q => { q with unannounced := 0, sinceMsg := 0 } := ⟨_, rfl⟩
  have hq : s1.queue k = { s.queue k with unannounced := 0, sinceMsg := 0 } := by rw [hs1, queue_updQ, if_pos rfl]
  have h1 : OnlyPosts s s1 ∧ s1.regs = s.regs ∧ s1.hostMem = s.hostMem := by rw [hs1]; exact ⟨rfl, rfl, rfl⟩
  obtain ⟨o1, r1, m1⟩ := h1
  have he : s.announce k = s1.raiseOwner (k / 32) (s.get F.VECTOR (qix k)) := by rw [hs1]; rfl
  obtain ⟨m, a, b, h2⟩ := s1.raiseOwner_eq (k / 32) (s.get F.VECTOR (qix k))
  have hq2 : (s1.raiseOwner (k / 32) (s.get F.VECTOR (qix k))).queue k = s1.queue k := by rw [h2]; rfl
  have h3 : OnlyPosts s1 (s1.raiseOwner (k / 32) (s.get F.VECTOR (qix k))) := by rw [h2]; rfl
  have r3 : (s1.raiseOwner (k / 32) (s.get F.VECTOR (qix k))).regs = s1.regs := by rw [h2]
  have m3 : (s1.raiseOwner (k / 32) (s.get F.VECTOR (qix k))).hostMem = s1.hostMem := by rw [h2]
  rw [he, hq2, hq]
  exact ⟨rfl, rfl, r3.trans r1, m3.trans m1, onlyPosts_trans o1 h3, 0, 0, rfl⟩

/-! ### Entries -/

/-- What an entry's place and words are read from. -/
def SameEntry (k : Nat) (a b : Dev) : Prop :=
  (∀ f ∈ [F.CQ_BASE_LO, F.CQ_BASE_HI, F.CQ_LOG, F.Q_HEAD, F.Q_TAIL], b.get f (qix k) = a.get f (qix k)) ∧ b.pos = a.pos ∧
  b.hostMem = a.hostMem ∧ b.mem = a.mem

theorem entry_congr {a b : Dev} {k : Nat} (h : SameEntry k a b) (idx st detail result flags : Nat) (words : List Word) :
    b.entry k idx st detail result flags words = a.entry k idx st detail result flags words := by
  obtain ⟨hg, hp, -, -⟩ := h
  simp only [Dev.entry, Dev.cqSize, Dev.qH, hp, hg F.CQ_LOG (by simp), hg F.Q_HEAD (by simp)]

theorem posts_congr {a b e : Dev} {k st detail result flags : Nat} {words : List Word} (h : SameEntry k a b)
    (hp : Posts b e k st detail result flags words) : Posts a e k st detail result flags words := by
  have he := entry_congr h
  obtain ⟨hg, -, hh, hm⟩ := h
  have ht : b.qT k = a.qT k := hg _ (by simp)
  unfold Posts at *
  simp only [he, ht, hh, hm, Dev.cqSize, hg F.CQ_BASE_LO (by simp), hg F.CQ_BASE_HI (by simp), hg F.CQ_LOG (by simp)] at hp
  exact hp

theorem sameEntry_of {a b : Dev} {k : Nat} (hr : b.regs = a.regs) (hh : b.hostMem = a.hostMem) (hm : b.mem = a.mem) : SameEntry k a b := by
  have hg : ∀ f ix, b.get f ix = a.get f ix := fun f ix => by rw [Dev.get_eq, hr, ← Dev.get_eq]
  exact ⟨fun f _ => hg f _, by simp only [Dev.pos, Dev.get64, hg], hh, hm⟩

theorem bytesOfWords_length (l : List Word) : (bytesOfWords l).length = 4 * l.length := by
  induction l with
  | nil => rfl
  | cons w l ih => rw [bytesOfWords, List.length_append, leBytes_length, ih, List.length_cons]; omega

/-- The posting of a completion entry: its bytes, and T one further. -/
theorem postEntry_reads (s : Dev) (k st detail result flags : Nat) (words : List Word) :
    let e := s.postEntry k st detail result flags words
    Posts s e k st detail result flags words ∧ OnlyFields [(F.Q_TAIL, qix k)] s e ∧ OnlyPosts s e ∧
    ∃ u m, e.queue k = { s.queue k with unannounced := u, sinceMsg := m } := by
  intro e
  obtain ⟨base, hb⟩ : ∃ b, b = s.get F.CQ_BASE_LO (qix k) * 2 ^ 12 + s.get F.CQ_BASE_HI (qix k) * 2 ^ 32 := ⟨_, rfl⟩
  obtain ⟨bs, hbs⟩ : ∃ b, b = bytesOfWords (s.entry k (s.qT k) st detail result flags words) := ⟨_, rfl⟩
  obtain ⟨addr, ha⟩ : ∃ a, a = base + 32 * (s.qT k % s.cqSize k) := ⟨_, rfl⟩
  obtain ⟨s1, hs1⟩ : ∃ s1, s1 = s.writeHost (s.owner (k / 32)) addr bs := ⟨_, rfl⟩
  have h1 : OnlyPosts s s1 ∧ s1.regs = s.regs ∧ s1.hostMem = Tab.setMany 0 s.hostMem addr bs ∧ s1.queues = s.queues := by
    rw [hs1]; exact ⟨rfl, rfl, rfl, rfl⟩
  obtain ⟨o1, r1, m1, q1⟩ := h1
  obtain ⟨s2, hs2⟩ : ∃ s2, s2 = s1.put F.Q_TAIL (qix k) ((s.qT k + 1) % 65536) := ⟨_, rfl⟩
  have h2 : OnlyPosts s1 s2 ∧ OnlyFields [(F.Q_TAIL, qix k)] s s2 ∧ s2.hostMem = s1.hostMem ∧ s2.queues = s1.queues ∧
      s2.qT k = (s.qT k + 1) % 65536 := by
    rw [hs2]
    exact ⟨rfl, onlyFields_put _ (onlyFields_of_regs r1) (by simp), rfl, rfl, Dev.get_put_fit _ (by decide) (Nat.mod_lt _ (by decide))⟩
  obtain ⟨o2, k2, m2, q2, t2⟩ := h2
  obtain ⟨s3, hs3⟩ : ∃ s3, s3 = s2.updQ k fun q => { q with unannounced := q.unannounced + 1, sinceMsg := q.sinceMsg + 1 } := ⟨_, rfl⟩
  have h3 : OnlyPosts s2 s3 ∧ s3.regs = s2.regs ∧ s3.hostMem = s2.hostMem := by rw [hs3]; exact ⟨rfl, rfl, rfl⟩
  obtain ⟨o3, r3, m3⟩ := h3
  have q3 : ∃ u m, s3.queue k = { s.queue k with unannounced := u, sinceMsg := m } := by
    rw [hs3, queue_updQ, if_pos rfl, queue_congr (q2.trans q1)]
    exact ⟨_, _, rfl⟩
  obtain ⟨due, hd⟩ : ∃ due : Bool, e = if due then s3.announce k else s3 :=
    ⟨_, by rw [hs3, hs2, hs1, ha, hb, hbs]; rfl⟩
  have h4 : OnlyPosts s3 e ∧ e.regs = s3.regs ∧ e.hostMem = s3.hostMem ∧ ∃ u m, e.queue k = { s3.queue k with unannounced := u, sinceMsg := m } := by
    rw [hd]
    split
    · obtain ⟨-, -, a1, a2, a3, a4⟩ := announce_reads s3 k
      exact ⟨a3, a1, a2, a4⟩
    · exact ⟨onlyPosts_refl s3, rfl, rfl, _, _, rfl⟩
  obtain ⟨o4, r4, m4, u, m, q4⟩ := h4
  have hall := onlyPosts_trans o1 (onlyPosts_trans o2 (onlyPosts_trans o3 o4))
  have hlen : bs.length = 32 := by rw [hbs, bytesOfWords_length]; rfl
  have hmem : e.hostMem = Tab.setMany 0 s.hostMem addr bs := by rw [m4, m3, m2, m1]
  refine ⟨?_, onlyFields_trans k2 (onlyFields_of_regs (r4.trans r3)), hall, ?_⟩
  · unfold Posts
    rw [← hb, ← hbs]
    dsimp only
    rw [← ha, hmem]
    refine ⟨hlen, ?_, fun i hi => setMany_get_of_mem _ _ _ _ (by omega), fun a hx => Tab.get_setMany_out _ _ _ _ _ (by omega), hall.mem⟩
    rw [← t2, Dev.qT, Dev.get_eq, r4, r3, ← Dev.get_eq, Dev.qT]
  · obtain ⟨u', m', q3⟩ := q3
    rw [q4, q3]
    exact ⟨_, _, rfl⟩

/-! ### Fields apart -/

/-- Two fields of a queue's registers that share no bit. -/
theorem qreg_apart {f g : Fld} (hf : f.dims = [(0x4000, 64), (0x40, 20)]) (hg : g.dims = [(0x4000, 64), (0x40, 20)])
    (h : g.base ≠ f.base ∨ g.lo + g.w ≤ f.lo ∨ f.lo + f.w ≤ g.lo) (hw : g.lo + g.w ≤ 32) (k : Nat) : Fld.apart f (qix k) g (qix k) = true := by
  rcases h with h | h
  · exact apart_of_off (by rw [queueFld_off hf, queueFld_off hg]; omega) hw
  · exact apart_of_bits h hw

/-- A queue's registers are not its partition's events. -/
theorem qreg_event_apart {g : Fld} (hg : g.dims = [(0x4000, 64), (0x40, 20)]) (hb : 0x800000 < g.base ∧ g.base < 0x800040) (hw : g.lo + g.w ≤ 32)
    (k : Nat) : Fld.apart F.P_EVENTS [k / 32] g (qix k) = true := by
  refine apart_of_off ?_ hw
  rw [queueFld_off hg, part_off (by decide)]
  simp only
  omega

/-- What an entry is read from stands when only flags, states and events of the queue changed. -/
theorem sameEntry_flags {a b : Dev} {k : Nat} (h : OnlyFields [(F.Q_STATE, qix k), (F.FETCH_ERR, qix k), (F.P_EVENTS, [k / 32])] a b)
    (hh : b.hostMem = a.hostMem) (hm : b.mem = a.mem) : SameEntry k a b := by
  have key : ∀ f ∈ [F.CQ_BASE_LO, F.CQ_BASE_HI, F.CQ_LOG, F.Q_HEAD, F.Q_TAIL], f.dims = [(0x4000, 64), (0x40, 20)] ∧ f.lo + f.w ≤ 32 ∧
      (0x800000 < f.base ∧ f.base < 0x800040) ∧
      ∀ g ∈ [F.Q_STATE, F.FETCH_ERR], f.base ≠ g.base ∨ f.lo + f.w ≤ g.lo ∨ g.lo + g.w ≤ f.lo := by decide
  have hpos : ∀ f ∈ [F.POS_STEP_LO, F.POS_STEP_HI, F.POS_PHASE, F.POS_TICK], b.get f = a.get f := fun f hf => by
    have hk : f.off [] < 0x800000 ∧ f.lo + f.w ≤ 32 := by
      revert f; decide
    refine h.get f [] fun x hx => ?_
    simp only [List.mem_cons, List.not_mem_nil, or_false] at hx
    rcases hx with rfl | rfl | rfl
    · exact apart_of_off (by rw [queueFld_off rfl]; simp only; omega) hk.2
    · exact apart_of_off (by rw [queueFld_off rfl]; simp only; omega) hk.2
    · exact apart_of_off (by rw [part_off (f := F.P_EVENTS) (by decide)]; simp only; omega) hk.2
  refine ⟨fun f hf => h.get f _ fun x hx => ?_, ?_, hh, hm⟩
  · obtain ⟨k1, k2, k3, k4⟩ := key f hf
    simp only [List.mem_cons, List.not_mem_nil, or_false] at hx
    rcases hx with rfl | rfl | rfl
    · exact qreg_apart rfl k1 (k4 _ (by simp)) k2 k
    · exact qreg_apart rfl k1 (k4 _ (by simp)) k2 k
    · exact qreg_event_apart k1 k3 k2 k
  · simp only [Dev.pos, Dev.get64, hpos F.POS_STEP_LO (by simp), hpos F.POS_STEP_HI (by simp), hpos F.POS_PHASE (by simp), hpos F.POS_TICK (by simp)]

/-! ### The statement -/

/-- An entry after a change to the queue alone. -/
theorem updQ_post (s : Dev) (k : Nat) (f : Queue → Queue) (st detail result flags : Nat) (words : List Word) :
    let e := (s.updQ k f).postEntry k st detail result flags words
    Posts s e k st detail result flags words ∧ OnlyFields [(F.Q_TAIL, qix k)] s e ∧
    ∃ u m, e.queue k = { f (s.queue k) with unannounced := u, sinceMsg := m } := by
  intro e
  obtain ⟨p1, p2, -, u, m, p4⟩ := postEntry_reads (s.updQ k f) k st detail result flags words
  rw [queue_updQ, if_pos rfl] at p4
  exact ⟨posts_congr (sameEntry_of rfl rfl rfl) p1, onlyFields_trans (onlyFields_of_regs rfl) p2, u, m, p4⟩

theorem descComplete_ended {d : Dev} {k : Nat} {r : Run} {t : List Run} (hb : d.qBus k = true) (he : (d.queue k).ended = r :: t)
    (hs : d.qState k = qENABLED ∨ d.qState k = qHALTED) :
    d.descComplete k = (d.updQ k fun q => { q with ended := t }).postRun k r := by
  unfold Dev.descComplete
  dsimp only
  rw [if_neg (by rcases hs with hs | hs <;> simp [hb, hs]), he]

theorem descComplete_run {d : Dev} {k : Nat} {r : Run} (hb : d.qBus k = true) (he : (d.queue k).ended = []) (hr : (d.queue k).run = some r)
    (hdone : r.done = true) (hs : d.qState k = qENABLED ∨ d.qState k = qHALTED) :
    d.descComplete k = (d.updQ k fun q => { q with run := none }).postRun k r := by
  unfold Dev.descComplete
  dsimp only
  rw [if_neg (by rcases hs with hs | hs <;> simp [hb, hs]), he, hr]
  exact if_pos hdone

/-- A queue whose oldest descriptor could not be read halts. -/
theorem fetchErr_eq {d : Dev} {k : Nat} {y : Desc} {rest : List Desc} (hb : d.qBus k = true) (ha : (d.queue k).ahead = y :: rest)
    (hs : d.qState k = qENABLED) (hf : y.failed = true) (hr : (d.queue k).run = none) (hn : (d.queue k).ended = []) (hc : d.cqSpace k y.index = true) :
    d.fetchErr k = ((((d.updQ k fun q => { q with ahead := rest }).put F.Q_STATE (qix k) qHALTED).qErr k F.FETCH_ERR 2).postEntry k stFAULT dDESCREAD 0 0 y.words) := by
  have hcond : d.qState k = qENABLED ∧ y.failed = true ∧ (d.queue k).run.all Run.done = true ∧ d.qBus k = true ∧ d.cqSpace k y.index = true :=
    ⟨hs, hf, by rw [hr]; rfl, hb, hc⟩
  unfold Dev.fetchErr
  dsimp only
  rw [ha]
  dsimp only
  rw [if_pos hcond, if_pos (by rw [hr, hn]; simp)]

theorem fetchErr_reads {d : Dev} {k : Nat} {y : Desc} {rest : List Desc} (hb : d.qBus k = true) (ha : (d.queue k).ahead = y :: rest)
    (hs : d.qState k = qENABLED) (hf : y.failed = true) (hr : (d.queue k).run = none) (hn : (d.queue k).ended = []) (hc : d.cqSpace k y.index = true) :
    Posts d (d.fetchErr k) k stFAULT dDESCREAD 0 0 y.words ∧ (d.fetchErr k).qState k = qHALTED ∧ (d.fetchErr k).get F.FETCH_ERR (qix k) = 1 ∧
    ((d.fetchErr k).queue k).ahead = rest ∧
    OnlyFields [(F.Q_TAIL, qix k), (F.Q_STATE, qix k), (F.FETCH_ERR, qix k), (F.P_EVENTS, [k / 32])] d (d.fetchErr k) := by
  obtain ⟨s1, hs1⟩ : ∃ s1, s1 = d.updQ k fun q => { q with ahead := rest } := ⟨_, rfl⟩
  obtain ⟨s2, hs2⟩ : ∃ s2, s2 = s1.put F.Q_STATE (qix k) qHALTED := ⟨_, rfl⟩
  have h1 : s1.regs = d.regs ∧ s1.hostMem = d.hostMem ∧ s1.mem = d.mem := by rw [hs1]; exact ⟨rfl, rfl, rfl⟩
  have hq1 : (s1.queue k).ahead = rest := by rw [hs1, queue_updQ, if_pos rfl]
  have h2 : s2.hostMem = s1.hostMem ∧ s2.mem = s1.mem ∧ s2.queues = s1.queues ∧ s2.qState k = qHALTED := by
    rw [hs2]; exact ⟨rfl, rfl, rfl, Dev.get_put_fit _ (by decide) (by decide)⟩
  have k2 : OnlyFields [(F.Q_STATE, qix k)] d s2 := by
    rw [hs2]; exact onlyFields_put _ (onlyFields_of_regs h1.1) (by simp)
  obtain ⟨e1, e2, e3, e4⟩ := qErr_reads (f := F.FETCH_ERR) (by simp) s2 k (b := 2) (by decide)
  obtain ⟨s3, hs3⟩ : ∃ s3, s3 = s2.qErr k F.FETCH_ERR 2 := ⟨_, rfl⟩
  rw [← hs3] at e1 e2 e3 e4
  have he : d.fetchErr k = s3.postEntry k stFAULT dDESCREAD 0 0 y.words := by
    rw [fetchErr_eq hb ha hs hf hr hn hc, hs3, hs2, hs1]
  have k3 : OnlyFields [(F.Q_STATE, qix k), (F.FETCH_ERR, qix k), (F.P_EVENTS, [k / 32])] d s3 :=
    onlyFields_trans (onlyFields_mono (by simp) k2) (onlyFields_mono (by simp) e3)
  obtain ⟨p1, p2, -, u, m, p4⟩ := postEntry_reads s3 k stFAULT dDESCREAD 0 0 y.words
  have hq3 : (s3.queue k).ahead = rest := by rw [queue_congr e4.queues.2, queue_congr h2.2.2.1, hq1]
  have hst : s3.qState k = qHALTED := (e3.get F.Q_STATE (qix k) fun x hx => by
    simp only [List.mem_cons, List.not_mem_nil, or_false] at hx
    rcases hx with rfl | rfl
    · exact qreg_apart (f := F.FETCH_ERR) rfl rfl (by decide) (by decide) k
    · exact qreg_event_apart rfl (by decide) (by decide) k).trans h2.2.2.2
  have hpost : ∀ f ∈ [F.Q_STATE, F.FETCH_ERR], (s3.postEntry k stFAULT dDESCREAD 0 0 y.words).get f (qix k) = s3.get f (qix k) := fun f hf => by
    have hk : f.dims = [(0x4000, 64), (0x40, 20)] ∧ f.base ≠ 0x800020 ∧ f.lo + f.w ≤ 32 := by revert f; decide
    exact p2.get f _ fun x hx => by rw [List.mem_singleton.1 hx]; exact qreg_apart rfl hk.1 (.inl hk.2.1) hk.2.2 k
  rw [he]
  refine ⟨posts_congr (sameEntry_flags k3 (by rw [e4.mem.2, h2.1, h1.2.1]) (by rw [e4.mem.1, h2.2.1, h1.2.2])) p1,
    (hpost _ (by simp)).trans hst, (hpost _ (by simp)).trans e1, by rw [p4]; exact hq3,
    onlyFields_trans (onlyFields_mono (by simp) k3) (onlyFields_mono (by simp) p2)⟩

/-- Settles O19: completion entries are posted where and when they are due. -/
theorem queueCompletions : Obligations.QueueCompletions := by
  unfold Obligations.QueueCompletions
  intro d k hp hk hb
  refine ⟨fun r hr he h1 h2 h3 hs => gives_onQueue (f := (·.descComplete k)) (fun _ => rfl) hp hk ?_,
    fun r t he hs => gives_onQueue (f := (·.descComplete k)) (fun _ => rfl) hp hk ?_,
    fun y rest ha hs hf hr hn hc => gives_onQueue (f := (·.fetchErr k)) (fun _ => rfl) hp hk (fetchErr_reads hb ha hs hf hr hn hc),
    fun hi hu => gives_onQueue (f := (·.coalTime k)) (fun _ => rfl) hp hk ?_⟩
  · have hdone : r.done = true := by
      unfold Run.done
      rw [h1, h2]
      rcases h3 with h3 | h3
      · simp [h3]
      · simp [Option.isSome_iff_ne_none.2 h3]
    rw [descComplete_run hb he hr hdone hs]
    obtain ⟨p1, p2, u, m, p4⟩ := updQ_post d k (fun q => { q with run := none }) r.status.1 r.status.2 r.result r.flags r.words
    exact ⟨p1, by rw [Dev.postRun, p4], p2⟩
  · rw [descComplete_ended hb he hs]
    obtain ⟨p1, p2, u, m, p4⟩ := updQ_post d k (fun q => { q with ended := t }) r.status.1 r.status.2 r.result r.flags r.words
    exact ⟨p1, by rw [Dev.postRun, p4], by rw [Dev.postRun, p4], p2⟩
  · have he : d.coalTime k = d.announce k := by
      rw [Dev.coalTime, hi, if_pos (by simpa using hu)]
    obtain ⟨a1, a2, a3, a4, a5, -⟩ := announce_reads d k
    rw [he]
    exact ⟨a1, a2, a3, a5.mem, a4⟩

end Sys2Proof
end

section
/-! SUPPORT. Queue states: enabling, disabling and draining (05 R184 to R187; 06 R209). -/

namespace Sys2Proof

open Machine

/-! ### ENABLE -/

theorem onlyRegs_updQ {a b : Dev} (h : OnlyRegs a b) (k : Nat) (f : Queue → Queue) :
    b.updQ k f = { a with regs := (b.updQ k f).regs, queues := (b.updQ k f).queues } := by
  unfold OnlyRegs at h
  generalize b.regs = r at h
  subst h
  rfl

/-- Where an ENABLE would place the queue (06 R209). -/
def queueHome (d : Dev) (k : Nat) : Option (Nat × Nat) :=
  (placeDie d.dieIsLost (d.actReg (k / 32)) (k % 32 / 4)).bind fun x => (d.freeCore x).map fun c => (x, c)

/-- What an ENABLE needs beside a place. -/
def EnableOk (d : Dev) (k : Nat) : Prop :=
  4 ≤ d.get F.SQ_LOG (qix k) ∧ 4 ≤ d.get F.CQ_LOG (qix k) ∧ d.get F.P_STATE [k / 32] = pENABLED ∧ d.vectorOk k = true ∧
  k % 4 < qslotOf (d.actReg (k / 32)) (k % 32 / 4)

/-- The four indexes at zero. -/
def zeroIndexes (d : Dev) (k : Nat) : Dev :=
  (((d.put F.Q_PROD (qix k) 0).put F.Q_HEAD (qix k) 0).put F.Q_TAIL (qix k) 0).put F.Q_CQ_HEAD (qix k) 0

theorem qEnable_eq {d : Dev} {k : Nat} (hi : d.qIdle k = true) :
    (∀ h, queueHome d k = some h → EnableOk d k →
      d.qEnable k = (zeroIndexes d k).updQ k fun _ => { Queue.reset with enabling := true, home := some h }) ∧
    (queueHome d k = none ∨ ¬EnableOk d k → d.qEnable k = d.qErr k F.CFG_ERR 1) := by
  have hc : (d.get F.SQ_LOG (qix k) < 4 ∨ d.get F.CQ_LOG (qix k) < 4 ∨ d.get F.P_STATE [k / 32] ≠ pENABLED ∨ (!d.vectorOk k) = true ∨
      qslotOf (d.actReg (k / 32)) (k % 32 / 4) ≤ k % 4) ↔ ¬EnableOk d k := by
    unfold EnableOk
    cases d.vectorOk k
    · simp
    · simp; omega
  have he : d.qEnable k = match queueHome d k with
      | none => d.qErr k F.CFG_ERR 1
      | some h => if (d.get F.SQ_LOG (qix k) < 4 ∨ d.get F.CQ_LOG (qix k) < 4 ∨ d.get F.P_STATE [k / 32] ≠ pENABLED ∨ (!d.vectorOk k) = true ∨
          qslotOf (d.actReg (k / 32)) (k % 32 / 4) ≤ k % 4) then d.qErr k F.CFG_ERR 1
        else (zeroIndexes d k).updQ k fun _ => { Queue.reset with enabling := true, home := some h } := by
    unfold Dev.qEnable
    dsimp only
    rw [if_neg (by rw [hi]; decide)]
    rfl
  refine ⟨fun h hh ho => ?_, fun h => ?_⟩
  · rw [he, hh]
    exact if_neg fun h => hc.1 h ho
  · rw [he]
    rcases h with h | h
    · rw [h]
    · split
      · rfl
      · exact if_pos (hc.2 h)

theorem zeroIndexes_reads (d : Dev) (k : Nat) :
    (∀ f ∈ [F.Q_PROD, F.Q_HEAD, F.Q_TAIL, F.Q_CQ_HEAD], (zeroIndexes d k).get f (qix k) = 0) ∧
    OnlyFields [(F.Q_PROD, qix k), (F.Q_HEAD, qix k), (F.Q_TAIL, qix k), (F.Q_CQ_HEAD, qix k)] d (zeroIndexes d k) ∧ OnlyRegs d (zeroIndexes d k) := by
  refine ⟨fun f hf => ?_, ?_, rfl⟩
  · have ha : ∀ g ∈ qFields, ∀ f ∈ qFields, f ≠ g → Fld.apart g (qix k) f (qix k) = true := fun g hg f hf h => q_apart hg hf (Ne.symm h) k
    unfold zeroIndexes
    simp only [List.mem_cons, List.not_mem_nil, or_false] at hf
    rcases hf with rfl | rfl | rfl | rfl
    · rw [Dev.get_put_apart _ _ (ha _ (by decide) _ (by decide) (by decide)), Dev.get_put_apart _ _ (ha _ (by decide) _ (by decide) (by decide)),
        Dev.get_put_apart _ _ (ha _ (by decide) _ (by decide) (by decide))]
      exact Dev.get_put_fit _ (by decide) (by decide)
    · rw [Dev.get_put_apart _ _ (ha _ (by decide) _ (by decide) (by decide)), Dev.get_put_apart _ _ (ha _ (by decide) _ (by decide) (by decide))]
      exact Dev.get_put_fit _ (by decide) (by decide)
    · rw [Dev.get_put_apart _ _ (ha _ (by decide) _ (by decide) (by decide))]
      exact Dev.get_put_fit _ (by decide) (by decide)
    · exact Dev.get_put_fit _ (by decide) (by decide)
  · exact onlyFields_put _ (onlyFields_put _ (onlyFields_put _ (onlyFields_put _ (onlyFields_refl _ d) (by simp)) (by simp)) (by simp)) (by simp)

/-- A queue whose indexes are zero takes a new state. -/
theorem zeroed_queue {d s : Dev} {k : Nat} (z1 : ∀ f ∈ [F.Q_PROD, F.Q_HEAD, F.Q_TAIL, F.Q_CQ_HEAD], s.get f (qix k) = 0)
    (z2 : OnlyFields [(F.Q_PROD, qix k), (F.Q_HEAD, qix k), (F.Q_TAIL, qix k), (F.Q_CQ_HEAD, qix k)] d s) (z3 : OnlyRegs d s) (q : Queue) :
    (s.updQ k fun _ => q).qP k = 0 ∧ (s.updQ k fun _ => q).qH k = 0 ∧ (s.updQ k fun _ => q).qT k = 0 ∧ (s.updQ k fun _ => q).qK k = 0 ∧
    (s.updQ k fun _ => q).queue k = q ∧
    OnlyFields [(F.Q_PROD, qix k), (F.Q_HEAD, qix k), (F.Q_TAIL, qix k), (F.Q_CQ_HEAD, qix k)] d (s.updQ k fun _ => q) ∧
    (s.updQ k fun _ => q) = { d with regs := (s.updQ k fun _ => q).regs, queues := (s.updQ k fun _ => q).queues } := by
  have hq : (s.updQ k fun _ => q).queue k = q := by rw [queue_updQ, if_pos rfl]
  have ho := onlyRegs_updQ z3 k fun _ => q
  have hr : (s.updQ k fun _ => q).regs = s.regs := rfl
  have hg : ∀ g ∈ [F.Q_PROD, F.Q_HEAD, F.Q_TAIL, F.Q_CQ_HEAD], (s.updQ k fun _ => q).get g (qix k) = 0 := fun g hg => by
    rw [Dev.get_eq, hr, ← Dev.get_eq]
    exact z1 g hg
  exact ⟨hg F.Q_PROD (by simp), hg F.Q_HEAD (by simp), hg F.Q_TAIL (by simp), hg F.Q_CQ_HEAD (by simp), hq,
    onlyFields_trans z2 (onlyFields_of_regs hr), ho⟩

theorem qEnable_begins {d : Dev} {k : Nat} {h : Nat × Nat} (hi : d.qIdle k = true) (hh : queueHome d k = some h) (ho : EnableOk d k) :
    (d.qEnable k).qP k = 0 ∧ (d.qEnable k).qH k = 0 ∧ (d.qEnable k).qT k = 0 ∧ (d.qEnable k).qK k = 0 ∧
    (d.qEnable k).queue k = { Queue.reset with enabling := true, home := some h } ∧
    OnlyFields [(F.Q_PROD, qix k), (F.Q_HEAD, qix k), (F.Q_TAIL, qix k), (F.Q_CQ_HEAD, qix k)] d (d.qEnable k) ∧
    d.qEnable k = { d with regs := (d.qEnable k).regs, queues := (d.qEnable k).queues } := by
  rw [(qEnable_eq hi).1 h hh ho]
  obtain ⟨z1, z2, z3⟩ := zeroIndexes_reads d k
  generalize zeroIndexes d k = s at *
  exact zeroed_queue z1 z2 z3 _

/-! ### The end of enabling, and DISABLE -/

theorem disableNow_reads {s : Dev} {k : Nat} (cause : Nat) (b : Bool) (h : s.qState k = qENABLED ∨ s.qState k = qHALTED) :
    (s.disableNow k cause b).qState k = qDISABLING ∧ ((s.disableNow k cause b).queue k).cut = some (s.qP k) ∧
    ((s.disableNow k cause b).queue k).ahead = (s.queue k).ahead ∧ ((s.disableNow k cause b).queue k).enabling = (s.queue k).enabling ∧
    ((s.disableNow k cause b).queue k).cause = (if s.qState k = qHALTED then dQHALT else cause) ∧
    OnlyFields [(F.Q_STATE, qix k)] s (s.disableNow k cause b) ∧
    s.disableNow k cause b = { s with regs := (s.disableNow k cause b).regs, queues := (s.disableNow k cause b).queues } := by
  obtain ⟨s1, hs1⟩ : ∃ s1, s1 = (s.put F.Q_STATE (qix k) qDISABLING).updQ k fun q =>
      { q with cut := some (s.qP k), cause := if s.qState k = qHALTED then dQHALT else cause } := ⟨_, rfl⟩
  have he : s.disableNow k cause b = s1.updCmd k fun c => c.stopFor (if s.qState k = qHALTED then dQHALT else cause) b := by
    rw [hs1, Dev.disableNow, if_pos h]
  have hq1 : s1.queue k = { s.queue k with cut := some (s.qP k), cause := if s.qState k = qHALTED then dQHALT else cause } := by
    rw [hs1, queue_updQ, if_pos rfl]
    rfl
  have hk : OnlyFields [(F.Q_STATE, qix k)] s s1 := by
    rw [hs1]
    exact onlyFields_trans (onlyFields_put qDISABLING (onlyFields_refl _ s) (by simp)) (onlyFields_of_regs rfl)
  have hst : s1.qState k = qDISABLING := by
    rw [hs1]
    exact Dev.get_put_fit s (by decide) (by decide)
  have ho : s1 = { s with regs := s1.regs, queues := s1.queues } := by rw [hs1]; rfl
  rw [he, Dev.updCmd, queue_updQ, if_pos rfl, hq1]
  refine ⟨hst, rfl, rfl, rfl, rfl, onlyFields_trans hk (onlyFields_of_regs rfl), ?_⟩
  unfold Dev.updQ
  rw [ho]

theorem queueEnabled_reads {s : Dev} {k : Nat} (he : (s.queue k).enabling = true) (hd : (s.queue k).heldDb = []) :
    ∃ s1, (s1.qState k = qENABLED ∧ (s1.queue k).enabling = false ∧ OnlyFields [(F.Q_STATE, qix k)] s s1 ∧
        s1 = { s with regs := s1.regs, queues := s1.queues } ∧ s1.qP k = s.qP k) ∧
      s.queueEnabled k = if (s.queue k).heldDisable then s1.disableNow k dQDISABLE false else s1 := by
  obtain ⟨s1, hs1⟩ : ∃ s1, s1 = (s.updQ k fun q => { q with enabling := false, heldDb := [], heldDisable := false }).put F.Q_STATE (qix k) qENABLED := ⟨_, rfl⟩
  refine ⟨s1, ⟨?_, ?_, ?_, ?_, ?_⟩, ?_⟩
  · rw [hs1]; exact Dev.get_put_fit _ (by decide) (by decide)
  · have : s1.queue k = (s.updQ k fun q => { q with enabling := false, heldDb := [], heldDisable := false }).queue k := by rw [hs1]; rfl
    rw [this, queue_updQ, if_pos rfl]
  · rw [hs1]
    exact onlyFields_put _ (onlyFields_of_regs rfl) (by simp)
  · rw [hs1]; rfl
  · rw [hs1]
    exact Dev.get_put_apart _ _ (q_apart (by decide) (by decide) (by decide) k)
  · unfold Dev.queueEnabled
    dsimp only
    rw [he, hd, ← hs1]
    rfl

/-! ### Draining -/

/-- A cancelled entry is posted at T. -/
theorem cancelOne_reads (s : Dev) (k cause : Nat) (words : List Word) :
    let e := s.postEntry k stCANCELLED cause 0 0 words
    e.qT k = (s.qT k + 1) % 65536 ∧ (∀ x, e.cqSpace k x = s.cqSpace k x) ∧ OnlyFields [(F.Q_TAIL, qix k)] s e ∧ OnlyPosts s e ∧
    (e.queue k).cut = (s.queue k).cut := by
  intro e
  obtain ⟨p1, p2, p3, u, m, p4⟩ := postEntry_reads s k stCANCELLED cause 0 0 words
  have hg : ∀ f ∈ [F.Q_CQ_HEAD, F.CQ_LOG], e.get f (qix k) = s.get f (qix k) := fun f hf => by
    have hk : f.dims = [(0x4000, 64), (0x40, 20)] ∧ f.base ≠ 0x800020 ∧ f.lo + f.w ≤ 32 := by revert f; decide
    exact p2.get f _ fun x hx => by rw [List.mem_singleton.1 hx]; exact qreg_apart rfl hk.1 (.inl hk.2.1) hk.2.2 k
  refine ⟨p1.2.1, fun x => ?_, p2, p3, by rw [p4]⟩
  simp only [Dev.cqSpace, Dev.qK, Dev.cqSize, hg F.Q_CQ_HEAD (by simp), hg F.CQ_LOG (by simp)]
  rfl

theorem idxSub_succ {c t n : Nat} (hc : c < 65536) (h : idxSub c t = n + 1) : idxSub c ((t + 1) % 65536) = n := by
  unfold idxSub at *
  omega

theorem idxSub_zero {c t : Nat} (hc : c < 65536) (ht : t < 65536) (h : idxSub c t = 0) : t = c := by
  unfold idxSub at h
  omega

/-- With completion space for every entry up to the cut, T comes to it. -/
theorem cancelTo_reads (k cause : Nat) {cut : Nat} (hc : cut < 65536) (n : Nat) (s : Dev) (hn : idxSub cut (s.qT k) = n)
    (hsp : ∀ j < n, s.cqSpace k ((s.qT k + j) % 65536) = true) :
    (s.cancelTo k cut cause n).qT k = cut ∧ OnlyPosts s (s.cancelTo k cut cause n) := by
  induction n generalizing s with
  | zero => exact ⟨idxSub_zero hc (bitsOf_lt _ _ _) hn, onlyPosts_refl s⟩
  | succ n ih =>
    have ht : s.qT k < 65536 := bitsOf_lt _ _ _
    have hne : ¬(s.qT k = cut ∨ (!s.cqSpace k (s.qT k)) = true) := by
      have h0 := hsp 0 (by omega)
      rw [Nat.add_zero, Nat.mod_eq_of_lt ht] at h0
      rw [h0]
      rintro (h | h)
      · rw [h] at hn; unfold idxSub at hn; omega
      · cases h
    rw [Dev.cancelTo, if_neg hne]
    obtain ⟨c1, c2, -, c4, -⟩ := cancelOne_reads s k cause (s.slotWords k (s.qT k))
    generalize s.postEntry k stCANCELLED cause 0 0 (s.slotWords k (s.qT k)) = x at *
    obtain ⟨i1, i2⟩ := ih x (by rw [c1]; exact idxSub_succ hc hn) fun j hj => by
      have := hsp (j + 1) (by omega)
      rw [c1, c2, show ((s.qT k + 1) % 65536 + j) % 65536 = (s.qT k + (j + 1)) % 65536 by omega]
      exact this
    exact ⟨i1, onlyPosts_trans c4 i2⟩

theorem fixCores_reads (s : Dev) : s.fixCores = { s with cores := s.fixCores.cores } := by
  have h : ∀ a b c : Dev, b = { a with cores := b.cores } → c = { b with cores := c.cores } → c = { a with cores := c.cores } := fun a b c h h' => by
    rw [h] at h'
    exact h'
  exact forEach_keeps (R := fun a b => b = { a with cores := b.cores }) (fun _ => rfl) (fun h1 h2 => h _ _ _ h1 h2) _ _ (fun s x _ => rfl) s

/-- The last entry is posted: the queue is DISABLED, with H at the cut. -/
def drainEnd (k c : Nat) (s : Dev) : Dev :=
  (((((s.put F.Q_STATE (qix k) qDISABLED).put F.Q_HEAD (qix k) c).updQ k fun q =>
    { q with cut := none, ahead := [], readFailed := false, home := none }).partEvent (k / 32) 3).fixOwners).fixCores

/-- What follows once entries have been posted as far as completion space allows. -/
def drainedAt (k c : Nat) (s : Dev) : Dev := if s.qT k = c then drainEnd k c s else s

theorem queueDrained_reads {s : Dev} {k c : Nat} (hc : c < 65536) (hs : s.qState k = qDISABLING) (hcut : (s.queue k).cut = some c)
    (hr : (s.queue k).run = none) (he : (s.queue k).ended = []) (hb : s.qBus k = true)
    (hsp : ∀ j < idxSub c (s.qT k), s.cqSpace k ((s.qT k + j) % 65536) = true) :
    let e := s.queueDrained k
    e.qState k = qDISABLED ∧ e.qH k = c ∧ e.qT k = c ∧ (e.queue k).cut = none ∧ (e.queue k).home = none ∧
    bitAt (e.get F.P_EVENTS [k / 32]) 3 = true ∧ e.mem = s.mem := by
  intro e
  obtain ⟨s1, hs1⟩ : ∃ s1, s1 = s.updQ k fun q => { q with ended := [] } := ⟨_, rfl⟩
  have hT : s1.qT k = s.qT k := by rw [hs1]; rfl
  have h1 : OnlyPosts s s1 := by rw [hs1]; rfl
  have hcs : ∀ x, s1.cqSpace k x = s.cqSpace k x := by rw [hs1]; exact fun _ => rfl
  obtain ⟨c1, c2⟩ := cancelTo_reads k (s.queue k).cause hc _ s1 rfl (by rw [hT]; exact fun j hj => (hcs _).trans (hsp j hj))
  obtain ⟨s2, hs2⟩ : ∃ s2, s2 = s1.cancelTo k c (s.queue k).cause (idxSub c (s1.qT k)) := ⟨_, rfl⟩
  rw [← hs2] at c1 c2
  obtain ⟨s3, hs3⟩ : ∃ s3, s3 = (s2.put F.Q_STATE (qix k) qDISABLED).put F.Q_HEAD (qix k) c := ⟨_, rfl⟩
  obtain ⟨s4, hs4⟩ : ∃ s4, s4 = s3.updQ k fun q => { q with cut := none, ahead := [], readFailed := false, home := none } := ⟨_, rfl⟩
  have hE : e = ((s4.partEvent (k / 32) 3).fixOwners).fixCores := by
    change s.queueDrained k = _
    unfold Dev.queueDrained
    dsimp only
    rw [hs, hcut]
    rw [hr, he, hb]
    refine (if_neg (c := (Option.bind (none : Option Run) (·.cmd)).isSome = true ∨ (!true) = true) (by simp)).trans ?_
    change drainedAt k c (Dev.cancelTo (s.updQ k fun q => { q with ended := [] }) k c (s.queue k).cause
      (idxSub c ((s.updQ k fun q => { q with ended := [] }).qT k))) = _
    rw [← hs1, ← hs2, drainedAt, if_pos c1, drainEnd, ← hs3, ← hs4]
  have hg3 : s3.qState k = qDISABLED ∧ s3.qH k = c ∧ s3.qT k = c ∧ OnlyPosts s2 s3 := by
    rw [hs3]
    refine ⟨?_, Dev.get_put_fit _ (by decide) hc, ?_, rfl⟩
    · exact (Dev.get_put_apart _ _ (q_apart (by decide) (by decide) (by decide) k)).trans (Dev.get_put_fit _ (by decide) (by decide))
    · exact (Dev.get_put_apart _ _ (q_apart (by decide) (by decide) (by decide) k)).trans
        ((Dev.get_put_apart _ _ (q_apart (by decide) (by decide) (by decide) k)).trans c1)
  have h4 : s4.regs = s3.regs ∧ OnlyPosts s3 s4 := by rw [hs4]; exact ⟨rfl, rfl⟩
  have hq4 : (s4.queue k).cut = none ∧ (s4.queue k).home = none := by
    rw [hs4, queue_updQ, if_pos rfl]
    exact ⟨rfl, rfl⟩
  obtain ⟨s5, hs5⟩ : ∃ s5, s5 = s4.partEvent (k / 32) 3 := ⟨_, rfl⟩
  have o5 : OnlyRegsIrq s4 s5 := by rw [hs5]; exact onlyRegsIrq_partEvent _ _ _
  have k5 : ∀ f ∈ [F.Q_STATE, F.Q_HEAD, F.Q_TAIL], s5.get f (qix k) = s3.get f (qix k) := fun f hf => by
    have hk : f.dims = [(0x4000, 64), (0x40, 20)] ∧ (0x800000 < f.base ∧ f.base < 0x800040) ∧ f.lo + f.w ≤ 32 := by revert f; decide
    rw [hs5, partEvent_get _ _ _ (qreg_event_apart hk.1 hk.2.1 hk.2.2 k), Dev.get_eq, h4.1, ← Dev.get_eq]
  have e5 : bitAt (s5.get F.P_EVENTS [k / 32]) 3 = true := by rw [hs5]; exact partEvent_bit _ _ (by decide)
  obtain ⟨s6, hs6⟩ : ∃ s6, s6 = s5.fixOwners := ⟨_, rfl⟩
  have o6 : OnlyRegs s5 s6 := by rw [hs6]; exact onlyRegs_put64 _ _ _ _ _
  have r6 : Stands (fun off => 0x800000 ≤ off) s5 s6 := by
    rw [hs6]
    exact stands_trans (stands_put s5 _ (by decide)) (stands_put _ _ (by decide))
  have h7 := fixCores_reads s6
  rw [← hs5, ← hs6] at hE
  have r7 : e.regs = s6.regs ∧ e.queues = s6.queues ∧ e.mem = s6.mem := by
    rw [hE, h7]; exact ⟨rfl, rfl, rfl⟩
  have hget : ∀ g jx, 0x800000 ≤ g.off jx → e.get g jx = s5.get g jx := fun g jx hg => by
    rw [Dev.get_eq, r7.1, ← Dev.get_eq]
    exact r6.get g jx hg
  have hq : e.queue k = s4.queue k := by
    rw [queue_congr r7.2.1, queue_congr o6.irq.queues.2, queue_congr o5.queues.2]
  have hoff : ∀ f ∈ [F.Q_STATE, F.Q_HEAD, F.Q_TAIL], e.get f (qix k) = s3.get f (qix k) := fun f hf => by
    have hk : f.dims = [(0x4000, 64), (0x40, 20)] ∧ 0x800000 ≤ f.base := by revert f; decide
    rw [hget f _ (by rw [queueFld_off hk.1]; omega), k5 f hf]
  refine ⟨(hoff F.Q_STATE (by simp)).trans hg3.1, (hoff F.Q_HEAD (by simp)).trans hg3.2.1, (hoff F.Q_TAIL (by simp)).trans hg3.2.2.1,
    by rw [hq]; exact hq4.1, by rw [hq]; exact hq4.2, ?_, ?_⟩
  · rw [hget F.P_EVENTS _ (by rw [part_off (by decide)]; simp only; omega)]
    exact e5
  · rw [r7.2.2, o6.mem.1, o5.mem.1, h4.2.mem, hg3.2.2.2.mem, c2.mem, h1.mem]

/-! ### The statement -/

theorem onlyHostMem_cqSpace {a b : Dev} (h : OnlyHostMem a b) (k x : Nat) : b.cqSpace k x = a.cqSpace k x ∧ b.qT k = a.qT k ∧ b.qState k = a.qState k := by
  have hg : ∀ f ix, b.get f ix = a.get f ix := fun f ix => by rw [Dev.get_eq, h.rest.1, ← Dev.get_eq]
  simp only [Dev.cqSpace, Dev.qK, Dev.cqSize, Dev.qT, Dev.qState, hg, and_self, and_true]
  rfl

/-- Settles O20: queues are enabled, disabled and drained. -/
theorem queueStates : Obligations.QueueStates := by
  unfold Obligations.QueueStates
  intro d k hp hk p home ok
  refine ⟨fun hi => ⟨fun h hh ho => gives_onQueue (f := (·.qEnable k)) (fun _ => rfl) hp hk (qEnable_begins hi hh ho),
      fun h => gives_onQueue (f := (·.qEnable k)) (fun _ => rfl) hp hk ?_⟩,
    fun he => ⟨fun h1 h2 => gives_onQueue (f := (·.queueEnabled k)) (fun _ => rfl) hp hk ?_,
      fun h1 h2 => gives_onQueue (f := (·.queueEnabled k)) (fun _ => rfl) hp hk ?_,
      gives_onQueue (f := (·.qDisable k)) (fun _ => rfl) hp hk ?_⟩,
    fun he hs => gives_onQueue (f := (·.qDisable k)) (fun _ => rfl) hp hk ?_, ?_⟩
  · rw [(qEnable_eq hi).2 h]
    exact qErr_reads (by simp) d k (by decide)
  · obtain ⟨s1, ⟨e1, e2, e3, e4, -⟩, e6⟩ := queueEnabled_reads he h1
    rw [e6, h2]
    exact ⟨e1, e2, e3, e4⟩
  · obtain ⟨s1, ⟨e1, e2, e3, -, e5⟩, e6⟩ := queueEnabled_reads he h1
    obtain ⟨d1, d2, -, d4, -, d6, -⟩ := disableNow_reads dQDISABLE false (.inl e1)
    rw [e6, h2, ← e5]
    exact ⟨d1, d4.trans e2, d2, onlyFields_trans e3 d6⟩
  · rw [Dev.qDisable, if_pos he]
  · rw [Dev.qDisable, if_neg (by rw [he]; decide)]
    obtain ⟨d1, d2, d3, -, d5, d6, d7⟩ := disableNow_reads dQDISABLE false hs
    exact ⟨d1, d2, d3, d5, d6, d7⟩
  · intro c hc ring hs hcut hr he hb hsp
    have hx := onlyHostMem_holds d (d.sqBase k) (ring.take (64 * d.sqSize k))
    refine gives_onQueue (f := fun d => (d.hostHolds (d.sqBase k) (ring.take (64 * d.sqSize k))).queueDrained k) (fun _ => rfl) hp hk ?_
    generalize d.hostHolds (d.sqBase k) (ring.take (64 * d.sqSize k)) = x at *
    have hq := queue_congr hx.rest.2.1 k
    have hv := onlyHostMem_cqSpace hx k
    rw [← hx.rest.2.2.2.2]
    exact queueDrained_reads hc ((hv 0).2.2.trans hs) (by rw [hq]; exact hcut) (by rw [hq]; exact hr) (by rw [hq]; exact he)
      (by rw [hx.qBus]; exact hb) fun j hj => by
        rw [(hv 0).2.1] at hj ⊢
        rw [(hv _).1]
        exact hsp j hj

end Sys2Proof
end

section
/-! SUPPORT. Function level resets (05 R190, R191). -/

namespace Sys2Proof

open Machine

/-- Only registers, queues, engines, alarms and dispatches changed. -/
def OnlyFlr (a b : Dev) : Prop :=
  b = { a with regs := b.regs, queues := b.queues, engines := b.engines, alarms := b.alarms, dispatch := b.dispatch }

theorem onlyFlr_refl (a : Dev) : OnlyFlr a a := rfl

theorem onlyFlr_trans {a b c : Dev} (h : OnlyFlr a b) (h' : OnlyFlr b c) : OnlyFlr a c := by
  unfold OnlyFlr at *
  rw [h] at h'
  exact h'

theorem OnlyFlr.rest {a b : Dev} (h : OnlyFlr a b) : b.mem = a.mem ∧ b.hostMem = a.hostMem ∧ b.host = a.host ∧ b.boot = a.boot ∧ b.pauses = a.pauses := by
  rw [h]; exact ⟨rfl, rfl, rfl, rfl, rfl⟩

theorem OnlyAlarms.flr {a b : Dev} (h : OnlyAlarms a b) : OnlyFlr a b := by
  unfold OnlyFlr OnlyAlarms at *
  generalize b.regs = r, b.alarms = x, b.dispatch = y at h
  subst h
  rfl

/-! ### Registers returned to reset -/

theorem resetRegs_reads (l : List Nat) (s : Dev) :
    OnlyRegs s (s.forEach l Dev.resetReg) ∧ ∀ off, (s.forEach l Dev.resetReg).reg off = if off ∈ l then regDefault off else s.reg off := by
  unfold Dev.forEach
  induction l generalizing s with
  | nil => exact ⟨onlyRegs_refl s, fun off => by simp⟩
  | cons x l ih =>
    obtain ⟨i1, i2⟩ := ih (s.resetReg x)
    have h1 : OnlyRegs s (s.resetReg x) := rfl
    refine ⟨onlyRegs_trans h1 i1, fun off => ?_⟩
    rw [List.foldl_cons, i2 off]
    have hr : (s.resetReg x).reg off = if off = x then regDefault x else s.reg off := Dev.reg_setReg _ _ _ _
    rw [hr]
    by_cases hx : off = x
    · subst hx; simp
    · simp [hx]

theorem queueOffsets_window {k off : Nat} (h : off ∈ queueOffsets k) : qWindow k off := by
  simp only [queueOffsets, List.mem_map, List.mem_range] at h
  obtain ⟨i, hi, rfl⟩ := h
  unfold qWindow
  omega

theorem qWindow_apart {j k off : Nat} (hj : qWindow j off) (hjk : j ≠ k) : ¬qWindow k off := by
  unfold qWindow at *
  omega

/-! ### One queue -/

/-- A queue and its registers are as after a reset. -/
def Cleared (k : Nat) (e : Dev) : Prop := e.queue k = Queue.reset ∧ ∀ o ∈ queueOffsets k, e.reg o = regDefault o

/-- A function level reset of one queue. -/
def flrOne (p : Nat) (s : Dev) (i : Nat) : Dev :=
  let s := s.dropCarry (qkey p i)
  let s := s.forEach (queueOffsets (qkey p i)) Dev.resetReg
  { s with queues := Tab.set Queue.reset s.queues (qkey p i) Queue.reset }

theorem flrOne_reads (p : Nat) (s : Dev) (i : Nat) :
    OnlyFlr s (flrOne p s i) ∧ Stands (fun off => ¬qWindow (qkey p i) off) s (flrOne p s i) ∧
    (∀ j, j ≠ qkey p i → (flrOne p s i).queue j = s.queue j) ∧ Cleared (qkey p i) (flrOne p s i) := by
  obtain ⟨s1, hs1⟩ : ∃ s1, s1 = (s.dropCarry (qkey p i)).forEach (queueOffsets (qkey p i)) Dev.resetReg := ⟨_, rfl⟩
  obtain ⟨r1, r2⟩ := resetRegs_reads (queueOffsets (qkey p i)) (s.dropCarry (qkey p i))
  rw [← hs1] at r1 r2
  have he : flrOne p s i = { s1 with queues := Tab.set Queue.reset s1.queues (qkey p i) Queue.reset } := by rw [hs1]; rfl
  have h1 : OnlyFlr s s1 := by rw [r1]; rfl
  have hq : s1.queues = s.queues := by rw [r1]; rfl
  have hr : ∀ off, (flrOne p s i).reg off = if off ∈ queueOffsets (qkey p i) then regDefault off else s.reg off := by rw [he]; exact r2
  have hQ : ∀ j, (flrOne p s i).queue j = if j = qkey p i then Queue.reset else s1.queue j := by
    rw [he]; exact fun j => Tab.get_set Queue.reset s1.queues (qkey p i) j Queue.reset
  refine ⟨by rw [he]; exact onlyFlr_trans h1 rfl, fun off ho => ?_, fun j hj => ?_, ?_, fun o ho => ?_⟩
  · rw [hr, if_neg fun h => ho (queueOffsets_window h)]
  · rw [hQ, if_neg hj, queue_congr hq]
  · rw [hQ, if_pos rfl]
  · rw [hr, if_pos ho]

theorem cleared_keeps {k : Nat} {a b : Dev} (hr : ∀ off, qWindow k off → b.reg off = a.reg off) (hq : b.queue k = a.queue k) (h : Cleared k a) :
    Cleared k b := ⟨hq.trans h.1, fun o ho => (hr o (queueOffsets_window ho)).trans (h.2 o ho)⟩

theorem flrOne_keeps (p : Nat) (s : Dev) (i k : Nat) (h : Cleared k s) : Cleared k (flrOne p s i) := by
  obtain ⟨-, f2, f3, f4⟩ := flrOne_reads p s i
  by_cases hk : k = qkey p i
  · rw [hk]; exact f4
  · exact cleared_keeps (fun off ho => f2 off (qWindow_apart ho hk)) (f3 k hk) h

/-! ### One partition -/

/-- The registers of a partition's queues. -/
def isQueues (p off : Nat) : Prop := 0x800000 + 0x4000 * p ≤ off ∧ off < 0x800500 + 0x4000 * p

theorem flrPartition_reads (s : Dev) (p : Nat) :
    OnlyFlr s (s.flrPartition p) ∧ Stands (fun off => ¬isQueues p off ∧ ¬isAlarm off) s (s.flrPartition p) ∧
    (∀ j, (∀ i < 20, j ≠ qkey p i) → (s.flrPartition p).queue j = s.queue j) ∧ ∀ i < 20, Cleared (qkey p i) (s.flrPartition p) := by
  obtain ⟨s1, hs1⟩ : ∃ s1, s1 = s.forEach (List.range 20) (flrOne p) := ⟨_, rfl⟩
  have he : s.flrPartition p = s1.disarmOwned p := by rw [hs1]; rfl
  have h1 : OnlyFlr s s1 := by
    rw [hs1]; exact forEach_keeps onlyFlr_refl onlyFlr_trans _ _ (fun s i _ => (flrOne_reads p s i).1) s
  have h2 : Stands (fun off => ¬isQueues p off) s s1 := by
    rw [hs1]
    refine forEach_keeps (stands_refl _) stands_trans _ _ (fun s i hi => ?_) s
    have hi := List.mem_range.1 hi
    obtain ⟨a1, a2⟩ := qkey_parts (p := p) (i := i) (by omega)
    refine stands_mono (flrOne_reads p s i).2.1 fun off ho => ?_
    unfold qWindow
    unfold isQueues at ho
    rw [a1, a2]
    omega
  have h3 : ∀ j, (∀ i < 20, j ≠ qkey p i) → s1.queue j = s.queue j := fun j hj => by
    rw [hs1]
    exact forEach_keeps (R := fun a b => b.queue j = a.queue j) (fun _ => rfl) (fun h h' => h'.trans h) _ _
      (fun s i hi => (flrOne_reads p s i).2.2.1 j (hj i (List.mem_range.1 hi))) s
  have h4 : ∀ i < 20, Cleared (qkey p i) s1 := fun i hi => by
    rw [hs1]
    exact forEach_all (Q := fun i e => Cleared (qkey p i) e) _ (fun s i => (flrOne_reads p s i).2.2.2) (fun s x y h => flrOne_keeps p s x _ h) _ s i
      (List.mem_range.2 hi)
  obtain ⟨d1, d2, -⟩ := disarmOwned_reads s1 p
  have hq : (s1.disarmOwned p).queues = s1.queues := d1.rest.2.2
  rw [he]
  refine ⟨onlyFlr_trans h1 d1.flr, stands_trans (stands_mono h2 fun _ h => h.1) (stands_mono d2 fun _ h => h.2),
    fun j hj => (queue_congr hq j).trans (h3 j hj), fun i hi => cleared_keeps (fun off ho => d2 off ?_) (queue_congr hq _) (h4 i hi)⟩
  unfold qWindow at ho
  unfold isAlarm
  omega

theorem flrPartition_keeps (s : Dev) (p k : Nat) (h : Cleared k s) : Cleared k (s.flrPartition p) := by
  obtain ⟨-, f2, f3, f4⟩ := flrPartition_reads s p
  by_cases hk : ∃ i < 20, k = qkey p i
  · obtain ⟨i, hi, rfl⟩ := hk
    exact f4 i hi
  · refine cleared_keeps (fun off ho => f2 off ⟨fun hq => hk ⟨k % 32, ?_, ?_⟩, ?_⟩) (f3 k fun i hi hj => hk ⟨i, hi, hj⟩) h
    · unfold qWindow at ho; unfold isQueues at hq; omega
    · unfold qWindow at ho; unfold isQueues at hq; unfold qkey; omega
    · unfold qWindow at ho; unfold isAlarm; omega

/-! ### VF_FLR -/

theorem fixOwners_reads (s : Dev) : OnlyRegs s s.fixOwners ∧ Stands (fun off => 0x400018 ≤ off) s s.fixOwners := by
  unfold Dev.fixOwners
  have hn : ∀ f ∈ [F.VF_OWNED_LO, F.VF_OWNED_HI], ¬0x400018 ≤ f.off [] := by decide
  exact ⟨onlyRegs_put64 s _ _ _ _, stands_trans (stands_put s _ (hn F.VF_OWNED_LO (by simp))) (stands_put _ _ (hn F.VF_OWNED_HI (by simp)))⟩

theorem fixCores_rest (s : Dev) : s.fixCores.regs = s.regs ∧ s.fixCores.queues = s.queues ∧ s.fixCores.mem = s.mem ∧ s.fixCores.hostMem = s.hostMem ∧
    s.fixCores.host = s.host ∧ s.fixCores.boot = s.boot := by
  rw [fixCores_reads s]
  exact ⟨rfl, rfl, rfl, rfl, rfl, rfl⟩

theorem qWindow_ge {k off : Nat} (h : qWindow k off) : 0x800000 ≤ off := by unfold qWindow at h; omega

theorem vfFlr_reads (d : Dev) {vf : Nat} (h1 : 1 ≤ vf) (h2 : vf ≤ 64) :
    (∀ i < 20, Cleared (qkey (vf - 1) i) (d.vfFlr vf)) ∧ (∀ v < 32, Tab.get Msix.reset (d.vfFlr vf).host.vfTab (32 * vf + v) = Msix.reset) ∧
    Tab.get false (d.vfFlr vf).host.bme vf = false ∧ (d.vfFlr vf).mem = d.mem ∧ (d.vfFlr vf).hostMem = d.hostMem := by
  obtain ⟨f1, -, -, f4⟩ := flrPartition_reads d (vf - 1)
  obtain ⟨s1, hs1⟩ : ∃ s1, s1 = d.flrPartition (vf - 1) := ⟨_, rfl⟩
  rw [← hs1] at f1 f4
  obtain ⟨s2, hs2⟩ : ∃ s2 : Dev, s2 = { s1 with
      host := { s1.host with
        vfTab := Tab.eraseRange s1.host.vfTab (32 * vf) (32 * vf + 32), vfPba := Tab.eraseRange s1.host.vfPba (32 * vf) (32 * vf + 32)
        bme := Tab.set false s1.host.bme vf false, msixOn := Tab.set false s1.host.msixOn vf false } } := ⟨_, rfl⟩
  have he : d.vfFlr vf = s2.fixOwners.fixCores := by
    rw [Dev.vfFlr, if_neg (by omega), hs2, hs1]
  have hr2 : s2.regs = s1.regs ∧ s2.queues = s1.queues ∧ s2.mem = s1.mem ∧ s2.hostMem = s1.hostMem := by rw [hs2]; exact ⟨rfl, rfl, rfl, rfl⟩
  have hh : (∀ v < 32, Tab.get Msix.reset s2.host.vfTab (32 * vf + v) = Msix.reset) ∧ Tab.get false s2.host.bme vf = false := by
    rw [hs2]
    exact ⟨fun v hv => (Tab.get_eraseRange _ _ _ _ _).trans (if_pos (by omega)), Tab.get_set_same false s1.host.bme vf false⟩
  obtain ⟨o1, o2⟩ := fixOwners_reads s2
  obtain ⟨c1, c2, c3, c4, c5, -⟩ := fixCores_rest s2.fixOwners
  have hho : s2.fixOwners.host = s2.host := by rw [o1]
  rw [he, c3, c4, c5, hho, o1.mem.1, o1.mem.2, hr2.2.2.1, hr2.2.2.2, f1.rest.1, f1.rest.2.1]
  refine ⟨fun i hi => cleared_keeps (fun off ho => ?_) ?_ (f4 i hi), hh.1, hh.2, rfl, rfl⟩
  · unfold Dev.reg
    rw [c1]
    refine (o2 off (by have := qWindow_ge ho; omega)).trans ?_
    unfold Dev.reg
    rw [hr2.1]
  · rw [queue_congr c2, queue_congr o1.irq.queues.2, queue_congr hr2.2.1]

/-! ### PF_FLR -/

theorem showLink_reads (s : Dev) : s.showLink.get F.LINK_UP = 1 ∧ s.showLink.get F.HI_RATE = s.host.trained.1 % 16 ∧
    s.showLink.get F.HI_WIDTH = s.host.trained.2.1 % 32 ∧ OnlyRegs s s.showLink ∧
    OnlyFields [(F.LINK_UP, []), (F.HI_RATE, []), (F.HI_WIDTH, []), (F.HI_CODING, [])] s s.showLink := by
  unfold Dev.showLink
  refine ⟨Dev.get_put0_fit _ (by decide) (by decide), ?_, ?_, rfl, ?_⟩
  · rw [Dev.get_put0_apart _ _ (by decide), Dev.get_put0_apart _ _ (by decide), Dev.get_put0_apart _ _ (by decide)]
    exact Dev.get_put_same s F.HI_RATE [] _ (by decide)
  · rw [Dev.get_put0_apart _ _ (by decide), Dev.get_put0_apart _ _ (by decide)]
    exact Dev.get_put_same (s.put0 F.HI_RATE s.host.trained.1) F.HI_WIDTH [] _ (by decide)
  · exact onlyFields_put0 _ (onlyFields_put0 _ (onlyFields_put0 _ (onlyFields_put0 _ (onlyFields_refl _ s) (by simp)) (by simp)) (by simp)) (by simp)

theorem pfFlr_reads (d : Dev) :
    let e := d.pfFlr
    (∀ p < 64, ∀ i < 20, Cleared (qkey p i) e) ∧ (∀ j, (∀ p < 64, ∀ i < 20, j ≠ qkey p i) → e.queue j = d.queue j) ∧ e.host.pfTab = [] ∧
    e.host.bme = [] ∧ e.host.vfEnable = false ∧ (d.host.linkDown = false → e.get F.LINK_UP = 1) ∧ e.boot = d.boot ∧ e.mem = d.mem ∧ e.hostMem = d.hostMem := by
  intro e
  obtain ⟨s1, hs1⟩ : ∃ s1, s1 = d.forEach (List.range 64) Dev.flrPartition := ⟨_, rfl⟩
  have h1 : OnlyFlr d s1 := by
    rw [hs1]; exact forEach_keeps onlyFlr_refl onlyFlr_trans _ _ (fun s p _ => (flrPartition_reads s p).1) d
  have h2 : ∀ p < 64, ∀ i < 20, Cleared (qkey p i) s1 := fun p hp => by
    rw [hs1]
    exact forEach_all (Q := fun p e => ∀ i < 20, Cleared (qkey p i) e) _ (fun s p => (flrPartition_reads s p).2.2.2)
      (fun s x y h i hi => flrPartition_keeps s x _ (h i hi)) _ d p (List.mem_range.2 hp)
  have h3 : ∀ j, (∀ p < 64, ∀ i < 20, j ≠ qkey p i) → s1.queue j = d.queue j := fun j hj => by
    rw [hs1]
    exact forEach_keeps (R := fun a b => b.queue j = a.queue j) (fun _ => rfl) (fun h h' => h'.trans h) _ _
      (fun s p hp => (flrPartition_reads s p).2.2.1 j (hj p (List.mem_range.1 hp))) d
  obtain ⟨c1, c2, c3, c4, c5, c6⟩ := fixCores_rest s1
  obtain ⟨s2, hs2⟩ : ∃ s2, s2 = s1.fixCores.forEach [0x400000, 0x400004, 0x400008, 0x400010, 0x400014] Dev.resetReg := ⟨_, rfl⟩
  obtain ⟨r1, r2⟩ := resetRegs_reads [0x400000, 0x400004, 0x400008, 0x400010, 0x400014] s1.fixCores
  rw [← hs2] at r1 r2
  obtain ⟨s3, hs3⟩ : ∃ s3 : Dev, s3 = { s2 with
      host := { HostIf.reset with
        linkDown := s2.host.linkDown, cut := s2.host.cut, trained := s2.host.trained, l1 := s2.host.l1, rrs := s2.host.rrs
        training := s2.host.training, errFatal := s2.host.errFatal, issued := s2.host.issued, sent := s2.host.sent } } := ⟨_, rfl⟩
  have h4 : s3.regs = s2.regs ∧ s3.queues = s2.queues ∧ s3.mem = s2.mem ∧ s3.hostMem = s2.hostMem ∧ s3.boot = s2.boot := by
    rw [hs3]; exact ⟨rfl, rfl, rfl, rfl, rfl⟩
  have h5 : s3.host.pfTab = [] ∧ s3.host.bme = [] ∧ s3.host.vfEnable = false ∧ s3.host.linkDown = s2.host.linkDown := by
    rw [hs3]; exact ⟨rfl, rfl, rfl, rfl⟩
  have hE : e = (if s3.host.linkDown then s3 else s3.showLink).fixHost := by rw [hs3, hs2, hs1]; rfl
  have hho : s2.host = d.host := by
    rw [r1]
    exact c5.trans h1.rest.2.2.1
  obtain ⟨l1, -, -, l4, l5⟩ := showLink_reads s3
  obtain ⟨s4, hs4⟩ : ∃ s4, s4 = if s3.host.linkDown then s3 else s3.showLink := ⟨_, rfl⟩
  rw [← hs4] at hE
  have h6 : OnlyRegs s3 s4 ∧ Stands (fun off => 0x400008 ≤ off) s3 s4 ∧ (d.host.linkDown = false → s4.get F.LINK_UP = 1) := by
    rw [hs4, h5.2.2.2, hho]
    split
    · rename_i hl
      exact ⟨onlyRegs_refl s3, stands_refl _ s3, fun h => by rw [h] at hl; cases hl⟩
    · refine ⟨l4, fun off ho => l5.reg off fun x hx => ?_, fun _ => l1⟩
      have : ∀ x ∈ [(F.LINK_UP, ([] : List Nat)), (F.HI_RATE, []), (F.HI_WIDTH, []), (F.HI_CODING, [])], x.1.off x.2 < 0x400008 := by decide
      have := this x hx
      omega
  have h7 : OnlyRegs s4 e ∧ Stands (fun off => off ≠ 0x3A00044) s4 e ∧ e.get F.LINK_UP = s4.get F.LINK_UP := by
    rw [hE]
    exact ⟨onlyRegs_put _ _ _ _, stands_put s4 _ (by decide), Dev.get_put_apart _ _ (by decide)⟩
  have ho : OnlyRegs s3 e := onlyRegs_trans h6.1 h7.1
  have hreg : ∀ off, 0x800000 ≤ off → off < 0x1000000 → e.reg off = s1.reg off := fun off hlo hhi => by
    rw [h7.2.1 off (by omega), h6.2.1 off (by omega)]
    have : s3.reg off = s2.reg off := by unfold Dev.reg; rw [h4.1]
    rw [this, r2 off, if_neg (by simp; omega)]
    unfold Dev.reg
    rw [c1]
  have hq : ∀ k, e.queue k = s1.queue k := fun k => by
    have : s2.queues = s1.fixCores.queues := by rw [r1]
    rw [queue_congr ho.irq.queues.2, queue_congr h4.2.1, queue_congr this, queue_congr c2]
  have hrest : e.host = s3.host ∧ e.boot = s3.boot := by rw [ho]; exact ⟨rfl, rfl⟩
  have hb : s2.boot = s1.fixCores.boot ∧ s2.mem = s1.fixCores.mem ∧ s2.hostMem = s1.fixCores.hostMem := by rw [r1]; exact ⟨rfl, rfl, rfl⟩
  rw [hrest.1, hrest.2, ho.mem.1, ho.mem.2, h4.2.2.1, h4.2.2.2.1, h4.2.2.2.2, hb.1, hb.2.1, hb.2.2, c3, c4, c6, h1.rest.1, h1.rest.2.1, h1.rest.2.2.2.1]
  refine ⟨fun p hp i hi => cleared_keeps (fun off how => ?_) (hq _) (h2 p hp i hi), fun j hj => (hq j).trans (h3 j hj), h5.1, h5.2.1, h5.2.2.1,
    fun hl => h7.2.2.trans (h6.2.2 hl), rfl, rfl, rfl⟩
  obtain ⟨a1, a2⟩ := qkey_parts (p := p) (i := i) (by omega)
  unfold qWindow at how
  rw [a1, a2] at how
  exact hreg off (by omega) (by omega)

end Sys2Proof
end

section
/-! SUPPORT. The enables of functions, and the host link (05 R158, R192, R197, R202). -/

namespace Sys2Proof

open Machine

/-! ### Messages held pending, and reads owed -/

/-- Only messages sent or held pending changed. -/
def OnlyIrq (a b : Dev) : Prop := b = { a with host := { a.host with sent := b.host.sent, pfPba := b.host.pfPba, vfPba := b.host.vfPba } }

theorem onlyIrq_refl (a : Dev) : OnlyIrq a a := rfl

theorem onlyIrq_trans {a b c : Dev} (h : OnlyIrq a b) (h' : OnlyIrq b c) : OnlyIrq a c := by
  unfold OnlyIrq at *
  rw [h] at h'
  exact h'

theorem onlyIrq_raisePf (s : Dev) (v : Nat) : OnlyIrq s (s.raisePf v) := by
  obtain ⟨m, p, h⟩ := s.raisePf_eq v
  rw [h]; rfl

theorem onlyIrq_raiseVf (s : Dev) (k v : Nat) : OnlyIrq s (s.raiseVf k v) := by
  obtain ⟨m, p, h⟩ := s.raiseVf_eq k v
  rw [h]; rfl

theorem onlyIrq_flushMsix (s : Dev) : OnlyIrq s s.flushMsix := by
  unfold Dev.flushMsix
  exact onlyIrq_trans (forEach_keeps onlyIrq_refl onlyIrq_trans _ _ (fun s v _ => onlyIrq_raisePf s v) s)
    (forEach_keeps onlyIrq_refl onlyIrq_trans _ _ (fun s x _ => onlyIrq_raiseVf s _ _) _)

/-- Of the host interface, what no message changes. -/
theorem OnlyIrq.rest {a b : Dev} (h : OnlyIrq a b) : b.regs = a.regs ∧ b.queues = a.queues ∧ b.mem = a.mem ∧ b.hostMem = a.hostMem ∧
    b.host.bme = a.host.bme ∧ b.host.msixOn = a.host.msixOn ∧ b.host.ctl = a.host.ctl ∧ b.host.linkDown = a.host.linkDown ∧ b.host.cut = a.host.cut ∧
    b.pauses = a.pauses ∧ b.boot = a.boot := by
  rw [h]; exact ⟨rfl, rfl, rfl, rfl, rfl, rfl, rfl, rfl, rfl, rfl, rfl⟩

theorem fixOwed_reads (s old : Dev) : s.fixOwed old = { s with queues := (s.fixOwed old).queues } := by
  have h : ∀ a b c : Dev, b = { a with queues := b.queues } → c = { b with queues := c.queues } → c = { a with queues := c.queues } := fun a b c h h' => by
    rw [h] at h'
    exact h'
  refine forEach_keeps (R := fun a b => b = { a with queues := b.queues }) (fun _ => rfl) (fun h1 h2 => h _ _ _ h1 h2) _ _ (fun s k _ => ?_) s
  split
  · rfl
  · split
    · rfl
    · rfl

theorem fixOwed_rest (s old : Dev) : (s.fixOwed old).regs = s.regs ∧ (s.fixOwed old).host = s.host ∧ (s.fixOwed old).mem = s.mem ∧
    (s.fixOwed old).hostMem = s.hostMem ∧ (s.fixOwed old).pauses = s.pauses ∧ (s.fixOwed old).boot = s.boot := by
  rw [fixOwed_reads s old]
  exact ⟨rfl, rfl, rfl, rfl, rfl, rfl⟩

/-- Where no function may or might master, nothing becomes owed. -/
theorem fixOwed_none {s old : Dev} (h : ∀ k, s.qBus k = false) (h' : ∀ k, old.qBus k = false) :
    s.fixOwed old = s := by
  unfold Dev.fixOwed Dev.forEach
  generalize s.queues.map (·.1) = l
  induction l with
  | nil => rfl
  | cons k l ih =>
    rw [List.foldl_cons, h k, h' k]
    exact ih

/-! ### The link goes down -/

theorem fixHost_reads (s : Dev) : s.fixHost.get F.DOM_STATE [9] = (if s.host.linkDown || s.flag F.PF_D3HOT then stKeep else if s.host.l1 then stDoze else stRun) ∧
    OnlyFields [(F.DOM_STATE, [9])] s s.fixHost ∧ OnlyRegs s s.fixHost := by
  refine ⟨Dev.get_put_fit _ (by decide) ?_, onlyFields_put _ (onlyFields_refl _ s) (by simp), onlyRegs_put _ _ _ _⟩
  split
  · decide
  · split <;> decide

theorem pcieDown_reads (d : Dev) :
    d.pcieDown.get F.LINK_UP = 0 ∧ d.pcieDown.get F.LINK_DOWN_EV = 1 ∧ d.pcieDown.host.linkDown = true ∧ d.pcieDown.get F.DOM_STATE [9] = stKeep ∧
    d.pcieDown.host.cut = true ∧ OnlyFields [(F.LINK_UP, []), (F.LINK_DOWN_EV, []), (F.DOM_STATE, [9])] d d.pcieDown ∧ d.pcieDown.mem = d.mem ∧
    d.pcieDown.hostMem = d.hostMem ∧ d.pcieDown.boot = d.boot ∧
    ((∀ k, d.qBus k = false) → d.pcieDown.queues = d.queues) := by
  obtain ⟨s1, hs1⟩ : ∃ s1 : Dev, s1 = { d with host := { d.host with linkDown := true, cut := true } } := ⟨_, rfl⟩
  obtain ⟨s2, hs2⟩ : ∃ s2, s2 = s1.put0 F.LINK_UP 0 := ⟨_, rfl⟩
  obtain ⟨s3, hs3⟩ : ∃ s3, s3 = s2.fixHost := ⟨_, rfl⟩
  obtain ⟨s4, hs4⟩ : ∃ s4, s4 = s3.fixOwed d := ⟨_, rfl⟩
  have he : d.pcieDown = s4.event F.LINK_DOWN_EV F.HI_IRQ_EN 1 0 := by rw [hs4, hs3, hs2, hs1]; rfl
  have h1 : s1.regs = d.regs ∧ s1.mem = d.mem ∧ s1.hostMem = d.hostMem ∧ s1.boot = d.boot ∧ s1.queues = d.queues ∧
      s1.host.linkDown = true ∧ s1.host.cut = true ∧ s1.host.bme = d.host.bme := by rw [hs1]; exact ⟨rfl, rfl, rfl, rfl, rfl, rfl, rfl, rfl⟩
  have o2 : OnlyRegs s1 s2 := by rw [hs2]; exact onlyRegs_put0 _ _ _
  have g2 : s2.get F.LINK_UP = 0 := by rw [hs2]; exact Dev.get_put0_fit _ (by decide) (by decide)
  have k2 : OnlyFields [(F.LINK_UP, [])] d s2 := by rw [hs2]; exact onlyFields_put0 _ (onlyFields_of_regs h1.1) (by simp)
  obtain ⟨g3, k3, o3⟩ := fixHost_reads s2
  rw [← hs3] at g3 k3 o3
  have hh : s3.host = s1.host ∧ s3.boot = s1.boot ∧ s3.queues = s1.queues := by
    have := onlyRegs_trans o2 o3
    rw [this]; exact ⟨rfl, rfl, rfl⟩
  obtain ⟨w1, w2, w3, w4, w5, w6⟩ := fixOwed_rest s3 d
  rw [← hs4] at w1 w2 w3 w4 w5 w6
  have hl2 : s2.host.linkDown = true := by rw [o2]; exact h1.2.2.2.2.2.1
  have ho := onlyRegsIrq_event s4 F.LINK_DOWN_EV F.HI_IRQ_EN 1 0
  have hoh : (s4.event F.LINK_DOWN_EV F.HI_IRQ_EN 1 0).host.linkDown = s4.host.linkDown ∧ (s4.event F.LINK_DOWN_EV F.HI_IRQ_EN 1 0).host.cut = s4.host.cut ∧
      (s4.event F.LINK_DOWN_EV F.HI_IRQ_EN 1 0).boot = s4.boot := by rw [ho]; exact ⟨rfl, rfl, rfl⟩
  have hg : ∀ f ix, s4.get f ix = s3.get f ix := fun f ix => by rw [Dev.get_eq, w1, ← Dev.get_eq]
  rw [he]
  refine ⟨?_, Dev.get_event_same _ _ _ _ (by decide) (by decide), ?_, ?_, ?_, ?_, ?_, ?_, ?_, fun hb => ?_⟩
  · rw [Dev.get_event_apart _ _ _ _ (by decide), hg, k3.get F.LINK_UP [] (by decide), g2]
  · rw [hoh.1, w2, hh.1]; exact h1.2.2.2.2.2.1
  · rw [Dev.get_event_apart _ _ _ _ (by decide), hg, g3, hl2]; rfl
  · rw [hoh.2.1, w2, hh.1]; exact h1.2.2.2.2.2.2.1
  · exact onlyFields_event _ _ _ (onlyFields_trans (onlyFields_trans (onlyFields_mono (by simp) k2) (onlyFields_mono (by simp) k3)) (onlyFields_of_regs w1)) (by simp)
  · rw [ho.mem.1, w3, o3.mem.1, o2.mem.1, h1.2.1]
  · rw [ho.mem.2, w4, o3.mem.2, o2.mem.2, h1.2.2.1]
  · rw [hoh.2.2, w6, hh.2.1, h1.2.2.2.1]
  · rw [ho.queues.2, hs4, fixOwed_none (fun k => ?_) hb, hh.2.2, h1.2.2.2.2.1]
    have : s3.host.linkDown = true := by rw [hh.1]; exact h1.2.2.2.2.2.1
    simp [Dev.qBus, Dev.canMaster, this]

theorem canMaster_cut {s : Dev} (h : s.host.linkDown = true) (fn : Nat) : s.canMaster fn = false := by
  simp [Dev.canMaster, h]

/-! ### The link trains -/

theorem linkTrained_reads (d : Dev) (rate width coding : Nat) :
    let e := d.linkTrained rate width coding
    e.get F.LINK_UP = 1 ∧ e.get F.HI_RATE = rate % 16 ∧ e.get F.HI_WIDTH = width % 32 ∧ e.host.linkDown = false ∧
    (¬(rate = 6 ∧ width = 16) → e.get F.LINK_DEGRADED = 1) ∧
    OnlyFields [(F.LINK_UP, []), (F.HI_RATE, []), (F.HI_WIDTH, []), (F.HI_CODING, []), (F.LINK_DEGRADED, []), (F.DOM_STATE, [9])] d e ∧
    e.mem = d.mem ∧ e.hostMem = d.hostMem := by
  intro e
  obtain ⟨s1, hs1⟩ : ∃ s1 : Dev, s1 = { d with host := { d.host with linkDown := false, training := false, trained := (rate, width, coding) } } := ⟨_, rfl⟩
  obtain ⟨s2, hs2⟩ : ∃ s2, s2 = s1.showLink := ⟨_, rfl⟩
  obtain ⟨s3, hs3⟩ : ∃ s3, s3 = s2.fixHost := ⟨_, rfl⟩
  obtain ⟨s4, hs4⟩ : ∃ s4, s4 = s3.fixOwed d := ⟨_, rfl⟩
  obtain ⟨s5, hs5⟩ : ∃ s5, s5 = if rate = 6 ∧ width = 16 then s4 else s4.event F.LINK_DEGRADED F.HI_IRQ_EN 0 0 := ⟨_, rfl⟩
  have he : e = s5.flushMsix := by rw [hs5, hs4, hs3, hs2, hs1]; rfl
  have h1 : s1.regs = d.regs ∧ s1.mem = d.mem ∧ s1.hostMem = d.hostMem ∧ s1.host.linkDown = false ∧ s1.host.trained = (rate, width, coding) := by
    rw [hs1]; exact ⟨rfl, rfl, rfl, rfl, rfl⟩
  obtain ⟨l1, l2, l3, l4, l5⟩ := showLink_reads s1
  rw [← hs2] at l1 l2 l3 l4 l5
  rw [h1.2.2.2.2] at l2 l3
  obtain ⟨-, k3, o3⟩ := fixHost_reads s2
  rw [← hs3] at k3 o3
  obtain ⟨w1, w2, w3, w4, -, -⟩ := fixOwed_rest s3 d
  rw [← hs4] at w1 w2 w3 w4
  have hh : s3.host = s1.host := by
    have := onlyRegs_trans l4 o3
    rw [this]
  have hg4 : ∀ f ∈ [F.LINK_UP, F.HI_RATE, F.HI_WIDTH], s4.get f = s2.get f := fun f hf => by
    rw [Dev.get_eq, w1, ← Dev.get_eq]
    exact k3.get f [] (by revert f; decide)
  have h5 : OnlyRegsIrq s4 s5 ∧ OnlyFields [(F.LINK_DEGRADED, [])] s4 s5 ∧ (¬(rate = 6 ∧ width = 16) → s5.get F.LINK_DEGRADED = 1) := by
    rw [hs5]
    split
    · rename_i hc
      exact ⟨onlyRegsIrq_refl s4, onlyFields_refl _ s4, fun h => absurd hc h⟩
    · exact ⟨onlyRegsIrq_event _ _ _ _ _, onlyFields_event _ _ _ (onlyFields_refl _ s4) (by simp), fun _ => Dev.get_event_same _ _ _ _ (by decide) (by decide)⟩
  obtain ⟨o5, k5, v5⟩ := h5
  obtain ⟨f1, -, f3, f4, -, -, -, f8, -⟩ := (onlyIrq_flushMsix s5).rest
  have hg : ∀ f ∈ [F.LINK_UP, F.HI_RATE, F.HI_WIDTH], s5.flushMsix.get f = s2.get f := fun f hf => by
    rw [Dev.get_eq, f1, ← Dev.get_eq, ← hg4 f hf]
    exact k5.get f [] (by revert f; decide)
  have hl : s5.host.linkDown = s4.host.linkDown := by rw [o5]
  rw [he]
  refine ⟨(hg F.LINK_UP (by simp)).trans l1, (hg F.HI_RATE (by simp)).trans l2, (hg F.HI_WIDTH (by simp)).trans l3, ?_, fun hn => ?_, ?_, ?_, ?_⟩
  · rw [f8, hl, w2, hh]; exact h1.2.2.2.1
  · rw [Dev.get_eq, f1, ← Dev.get_eq]; exact v5 hn
  · exact onlyFields_trans (onlyFields_trans (onlyFields_trans (onlyFields_trans (onlyFields_of_regs h1.1) (onlyFields_mono (by simp) l5))
      (onlyFields_mono (by simp) k3)) (onlyFields_of_regs w1)) (onlyFields_trans (onlyFields_mono (by simp) k5) (onlyFields_of_regs f1))
  · rw [f3, o5.mem.1, w3, o3.mem.1, l4.mem.1, h1.2.1]
  · rw [f4, o5.mem.2, w4, o3.mem.2, l4.mem.2, h1.2.2.1]

end Sys2Proof
end

section
/-! SUPPORT. Ownership of partitions, the enables of functions, and host resets (05 R160, R192, R197, R202). -/

namespace Sys2Proof

open Machine

/-! ### Ownership -/

/-- The sum of the powers of two at the places of a set. -/
theorem bitAt_sum_pow (b : Nat → Bool) (n : Nat) :
    ((List.range n).map fun p => if b p then 2 ^ p else 0).sum < 2 ^ n ∧
    ∀ p < n, bitAt ((List.range n).map fun p => if b p then 2 ^ p else 0).sum p = b p := by
  induction n with
  | zero => exact ⟨by simp, fun p hp => absurd hp (Nat.not_lt_zero p)⟩
  | succ n ih =>
    obtain ⟨i1, i2⟩ := ih
    rw [List.range_succ, List.map_append, List.sum_append]
    generalize ((List.range n).map fun p => if b p then 2 ^ p else 0).sum = x at i1 i2
    simp only [List.map_cons, List.map_nil, List.sum_cons, List.sum_nil, Nat.add_zero]
    have hx : x.testBit n = false := Nat.testBit_lt_two_pow i1
    refine ⟨by split <;> omega, fun p hp => ?_⟩
    rw [bitAt_eq_testBit]
    by_cases hn : b n = true
    · rw [if_pos hn, Nat.add_comm]
      rcases Nat.lt_succ_iff_lt_or_eq.1 hp with h | rfl
      · rw [Nat.testBit_two_pow_add_gt h, ← bitAt_eq_testBit, i2 p h]
      · rw [Nat.testBit_two_pow_add_eq, hx, hn]; rfl
    · rw [if_neg hn, Nat.add_zero]
      rcases Nat.lt_succ_iff_lt_or_eq.1 hp with h | rfl
      · rw [← bitAt_eq_testBit, i2 p h]
      · rw [hx]; simpa using hn

theorem fixOwners_owned (s : Dev) {p : Nat} (hp : p < 64) :
    s.fixOwners.vfOwned p = (s.host.vfEnable && decide (p < s.host.numVfs) && (s.vfOwned p || (List.range 20).all fun i => s.qIdle (qkey p i))) := by
  obtain ⟨b1, b2⟩ := bitAt_sum_pow (fun p => s.host.vfEnable && decide (p < s.host.numVfs) &&
    (s.vfOwned p || (List.range 20).all fun i => s.qIdle (qkey p i))) 64
  rw [← b2 p hp, Dev.vfOwned, Dev.fixOwners, Dev.get64_put64 _ _ _ (by decide) (by decide) (by decide), Nat.mod_eq_of_lt (by simpa using b1)]

/-! ### A DISABLE and the idle queues -/

theorem queueMoves_qDisable (s : Dev) (k : Nat) : QueueMoves k s (s.qDisable k) := by
  unfold Dev.qDisable
  split
  · exact queueMoves_updQ s k _
  · exact queueMoves_disableNow s k _ _

/-- Queue `j`'s registers are not those of queue `k`. -/
theorem offQueue_other {f : Fld} (hf : f ∈ qFields) {j k : Nat} (hjk : j ≠ k) : offQueue k (f.off (qix j)) := by
  have hw := q_window hf j
  have hb : ∀ f ∈ qFields, 0x80001C ≤ f.base ∧ f.base ≤ 0x800024 := by decide
  obtain ⟨h1, h2⟩ := hb f hf
  have hl : F.WAKE_LOST_COUNT.off [] = 0x3A00014 := by decide
  refine ⟨qWindow_apart hw hjk, ?_, ?_⟩
  · rw [q_off hf, part_off (by decide)]
    simp only
    omega
  · rw [q_off hf, hl]
    omega

theorem qDisable_idle (s : Dev) (k j : Nat) : (s.qDisable k).qIdle j = s.qIdle j := by
  by_cases hjk : j = k
  · subst hjk
    unfold Dev.qDisable
    split
    · rename_i he
      have : ((s.updQ j fun q => { q with heldDisable := true }).queue j).enabling = true := by rw [queue_updQ, if_pos rfl]; exact he
      unfold Dev.qIdle
      rw [this, he]
      simp
    · by_cases hs : s.qState j = qENABLED ∨ s.qState j = qHALTED
      · obtain ⟨d1, -⟩ := disableNow_reads dQDISABLE false hs
        unfold Dev.qIdle
        rw [d1]
        rcases hs with hs | hs <;> rw [hs] <;> rfl
      · rw [Dev.disableNow, if_neg hs]
  · have m := queueMoves_qDisable s k
    unfold Dev.qIdle
    rw [m.others j hjk, show (s.qDisable k).qState j = s.qState j from m.get (offQueue_other (by decide) hjk)]

/-- What VF Enable leaves: ownership's own state, and which queues are idle. -/
structure VfKept (a b : Dev) : Prop where
  only : OnlyQueues a b
  idle : ∀ j, queueOk j = true → b.qIdle j = a.qIdle j
  owned : ∀ p, b.vfOwned p = a.vfOwned p

theorem vfKept_refl (s : Dev) : VfKept s s := ⟨onlyQueues_refl s, fun _ _ => rfl, fun _ => rfl⟩

theorem vfKept_trans {a b c : Dev} (h : VfKept a b) (h' : VfKept b c) : VfKept a c :=
  ⟨onlyQueues_trans h.only h'.only, fun j hj => (h'.idle j hj).trans (h.idle j hj), fun p => (h'.owned p).trans (h.owned p)⟩

theorem vfKept_qDisable (s : Dev) (k : Nat) : VfKept s (s.qDisable k) := by
  have m := queueMoves_qDisable s k
  have hl : F.WAKE_LOST_COUNT.off [] = 0x3A00014 := by decide
  have ho : ∀ f ∈ [F.VF_OWNED_LO, F.VF_OWNED_HI], offQueue k (f.off []) := fun f hf => by
    have hb : f.off [] < 0x800000 := by revert f; decide
    refine ⟨fun h => ?_, ?_, ?_⟩
    · have := qWindow_ge h; omega
    · rw [part_off (by decide)]; simp only; omega
    · rw [hl]; omega
  refine ⟨m.only, fun j _ => qDisable_idle s k j, fun p => ?_⟩
  unfold Dev.vfOwned Dev.get64
  rw [m.get (ho F.VF_OWNED_LO (by simp)), m.get (ho F.VF_OWNED_HI (by simp))]

theorem setVfs_reads (d : Dev) (en : Bool) (n : Nat) :
    (∀ p < 64, (d.setVfs en n).vfOwned p = (en && decide (p < n) && (d.vfOwned p || (List.range 20).all fun i => d.qIdle (qkey p i)))) ∧
    (d.setVfs en n).host.vfEnable = en ∧ (d.setVfs en n).host.numVfs = n ∧ (d.setVfs en n).mem = d.mem ∧ (d.setVfs en n).hostMem = d.hostMem := by
  obtain ⟨s1, hs1⟩ : ∃ s1 : Dev, s1 = { d with host := { d.host with vfEnable := en, numVfs := n } } := ⟨_, rfl⟩
  obtain ⟨s2, hs2⟩ : ∃ s2, s2 = s1.forEach (List.range 64) fun s p =>
      if en && decide (p < n) && !s.vfOwned p then s.forEach (List.range 20) fun s i => s.qDisable (qkey p i) else s := ⟨_, rfl⟩
  have he : d.setVfs en n = s2.fixOwners := by rw [hs2, hs1]; rfl
  have h1 : s1.host.vfEnable = en ∧ s1.host.numVfs = n ∧ s1.mem = d.mem ∧ s1.hostMem = d.hostMem ∧ s1.regs = d.regs ∧ s1.queues = d.queues := by
    rw [hs1]; exact ⟨rfl, rfl, rfl, rfl, rfl, rfl⟩
  have h2 : VfKept s1 s2 := by
    rw [hs2]
    refine forEach_keeps vfKept_refl vfKept_trans _ _ (fun s p _ => ?_) s1
    split
    · exact forEach_keeps vfKept_refl vfKept_trans _ _ (fun s i _ => vfKept_qDisable s _) s
    · exact vfKept_refl s
  have hh : s2.host.vfEnable = s1.host.vfEnable ∧ s2.host.numVfs = s1.host.numVfs := by rw [h2.only]; exact ⟨rfl, rfl⟩
  obtain ⟨o1, -⟩ := fixOwners_reads s2
  have ho : s2.fixOwners.host = s2.host := by rw [o1]
  have hv : ∀ p, s1.vfOwned p = d.vfOwned p := fun p => by simp only [Dev.vfOwned, Dev.get64, Dev.get_eq, h1.2.2.2.2.1]
  have hi : ∀ j, s1.qIdle j = d.qIdle j := fun j => by simp only [Dev.qIdle, Dev.qState, Dev.get_eq, h1.2.2.2.2.1, queue_congr h1.2.2.2.2.2]
  rw [he]
  refine ⟨fun p hp => ?_, by rw [ho, hh.1, h1.1], by rw [ho, hh.2, h1.2.1], by rw [o1.mem.1, h2.only.mem.1, h1.2.2.1], by rw [o1.mem.2, h2.only.mem.2, h1.2.2.2.1]⟩
  have hall : ((List.range 20).all fun i => s2.qIdle (qkey p i)) = (List.range 20).all fun i => d.qIdle (qkey p i) := by
    rw [Bool.eq_iff_iff, List.all_eq_true, List.all_eq_true]
    refine forall₂_congr fun i hi' => ?_
    have hi20 := List.mem_range.1 hi'
    obtain ⟨a1, a2⟩ := qkey_parts (p := p) (i := i) (by omega)
    rw [h2.idle _ (by simp [queueOk, a1, a2, hp, hi20]), hi]
  rw [fixOwners_owned s2 hp, hh.1, hh.2, h1.1, h1.2.1, h2.owned, hv, hall]

/-! ### Bus mastering -/

theorem wakeSet_rest (s : Dev) : s.wakeSet = { s with wakes := s.wakeSet.wakes } := by
  have h : ∀ a b c : Dev, b = { a with wakes := b.wakes } → c = { b with wakes := c.wakes } → c = { a with wakes := c.wakes } := fun a b c h h' => by
    rw [h] at h'
    exact h'
  exact forEach_keeps (R := fun a b => b = { a with wakes := b.wakes }) (fun _ => rfl) (fun h1 h2 => h _ _ _ h1 h2) _ _ (fun s x _ => rfl) s

theorem busMaster_reads (d : Dev) (fn : Nat) (on msix d3 : Bool) (ctl : PcieCtl) :
    let e := d.busMaster fn on msix d3 ctl
    Tab.get false e.host.bme fn = on ∧ Tab.get false e.host.msixOn fn = msix ∧
    e.host.ctl = (if fn = 0 ∧ ctl.supported = true then ctl else d.host.ctl) ∧
    (fn = 0 → e.get F.PF_D3HOT = b2n d3) ∧ OnlyFields [(F.PF_D3HOT, []), (F.DOM_STATE, [9])] d e ∧ e.mem = d.mem ∧ e.hostMem = d.hostMem := by
  intro e
  obtain ⟨s1, hs1⟩ : ∃ s1 : Dev, s1 = { d with host := { d.host with
      bme := Tab.set false d.host.bme fn on, msixOn := Tab.set false d.host.msixOn fn msix
      ctl := if fn = 0 ∧ ctl.supported then ctl else d.host.ctl } } := ⟨_, rfl⟩
  obtain ⟨s2, hs2⟩ : ∃ s2, s2 = if fn = 0 then (s1.put0 F.PF_D3HOT (b2n d3)).fixHost else s1 := ⟨_, rfl⟩
  obtain ⟨s3, hs3⟩ : ∃ s3, s3 = s2.fixOwed d := ⟨_, rfl⟩
  obtain ⟨w, he⟩ : ∃ w : Bool, e = if w then s3.flushMsix.wakeSet else s3.flushMsix := ⟨_, by rw [hs3, hs2, hs1]; rfl⟩
  have h1 : s1.regs = d.regs ∧ s1.mem = d.mem ∧ s1.hostMem = d.hostMem ∧ Tab.get false s1.host.bme fn = on ∧ Tab.get false s1.host.msixOn fn = msix ∧
      s1.host.ctl = if fn = 0 ∧ ctl.supported = true then ctl else d.host.ctl := by
    rw [hs1]
    exact ⟨rfl, rfl, rfl, Tab.get_set_same false d.host.bme fn on, Tab.get_set_same false d.host.msixOn fn msix, rfl⟩
  have h2 : OnlyRegs s1 s2 ∧ OnlyFields [(F.PF_D3HOT, []), (F.DOM_STATE, [9])] s1 s2 ∧ (fn = 0 → s2.get F.PF_D3HOT = b2n d3) := by
    rw [hs2]
    split
    · obtain ⟨-, k3, o3⟩ := fixHost_reads (s1.put0 F.PF_D3HOT (b2n d3))
      refine ⟨onlyRegs_trans (onlyRegs_put0 s1 _ _) o3, onlyFields_trans (onlyFields_put0 _ (onlyFields_refl _ s1) (by simp)) (onlyFields_mono (by simp) k3), fun _ => ?_⟩
      rw [k3.get F.PF_D3HOT [] (by decide)]
      exact Dev.get_put0_fit _ (by decide) (b2n_lt _)
    · rename_i hn
      exact ⟨onlyRegs_refl s1, onlyFields_refl _ s1, fun h => absurd h hn⟩
  obtain ⟨o2, k2, v2⟩ := h2
  obtain ⟨w1, w2, w3, w4, -, -⟩ := fixOwed_rest s2 d
  rw [← hs3] at w1 w2 w3 w4
  obtain ⟨f1, -, f3, f4, f5, f6, f7, -⟩ := (onlyIrq_flushMsix s3).rest
  have h4 : e.regs = s3.flushMsix.regs ∧ e.mem = s3.flushMsix.mem ∧ e.hostMem = s3.flushMsix.hostMem ∧ e.host = s3.flushMsix.host := by
    rw [he]
    split
    · rw [wakeSet_rest]; exact ⟨rfl, rfl, rfl, rfl⟩
    · exact ⟨rfl, rfl, rfl, rfl⟩
  have hr : e.regs = s2.regs := h4.1.trans (f1.trans w1)
  have hh : s2.host = s1.host := by rw [o2]
  rw [h4.2.2.2, f5, f6, f7, w2, hh, h4.2.1, h4.2.2.1, f3, f4, w3, w4, o2.mem.1, o2.mem.2, h1.2.1, h1.2.2.1]
  exact ⟨h1.2.2.2.1, h1.2.2.2.2.1, h1.2.2.2.2.2, fun h => by rw [Dev.get_eq, hr, ← Dev.get_eq]; exact v2 h,
    onlyFields_trans (onlyFields_trans (onlyFields_of_regs h1.1) k2) (onlyFields_of_regs hr), rfl, rfl⟩

/-! ### Host resets -/

theorem hostReset_reads (d : Dev) (perst : Bool) :
    let e := d.hostReset perst
    e.get F.LINK_UP = 0 ∧ e.get F.LINK_DOWN_EV = 1 ∧ e.host.linkDown = true ∧ e.boot.perst = (d.boot.perst && !perst) ∧
    (∀ k < 2048, e.queue k = if k % 32 < 20 then Queue.reset else d.queue k) ∧ e.mem = d.mem ∧ e.hostMem = d.hostMem := by
  intro e
  obtain ⟨f1, f2, -, f4, -, -, f7, f8, f9⟩ := pfFlr_reads d
  generalize hs1 : d.pfFlr = s1 at f1 f2 f4 f7 f8 f9
  obtain ⟨p1, p2, p3, -, -, -, p7, p8, p9, p10⟩ := pcieDown_reads s1
  generalize hs2 : s1.pcieDown = s2 at p1 p2 p3 p7 p8 p9 p10
  have hb : ∀ k, s1.qBus k = false := fun k => by simp [Dev.qBus, Dev.canMaster, f4, Tab.get_nil]
  obtain ⟨h, hh, he⟩ : ∃ h : HostIf, h.linkDown = s2.host.linkDown ∧ e = { s2 with boot.perst := s2.boot.perst && !perst, host := h } :=
    ⟨e.host, by rw [← hs2, ← hs1]; rfl, by rw [← hs2, ← hs1]; rfl⟩
  have h3 : e.regs = s2.regs ∧ e.host.linkDown = s2.host.linkDown ∧ e.boot.perst = (s2.boot.perst && !perst) ∧ e.queues = s2.queues ∧ e.mem = s2.mem ∧
      e.hostMem = s2.hostMem := by rw [he]; exact ⟨rfl, hh, rfl, rfl, rfl, rfl⟩
  obtain ⟨r1, r2, r3, r4, r5, r6⟩ := h3
  have hg : ∀ f, e.get f = s2.get f := fun f => by rw [Dev.get_eq, r1, ← Dev.get_eq]
  rw [hg, hg, r2, r3, r5, r6, p7, p8, p9, f7, f8, f9]
  refine ⟨p1, p2, p3, rfl, fun k hk => ?_, rfl, rfl⟩
  rw [queue_congr r4, queue_congr (p10 hb)]
  have hkey : k = qkey (k / 32) (k % 32) := by unfold qkey; omega
  split
  · rename_i h
    have := (f1 (k / 32) (by omega) (k % 32) h).1
    rwa [← hkey] at this
  · rename_i h
    refine f2 k fun p hp i hi hc => h ?_
    rw [hc, (qkey_parts (p := p) (i := i) (by omega)).2]
    exact hi

/-- Settles O21: function resets and enables, and the host link. -/
theorem hostFunctions : Obligations.HostFunctions := by
  unfold Obligations.HostFunctions
  refine ⟨fun d hp => ?_, fun d rate width coding hp => ?_, fun d hp => ?_, fun d perst hp => ?_, fun d => ?_, fun d on hp hl h3 => ?_⟩
  · intro cleared
    refine ⟨fun vf h1 h2 => gives_of_onDev (·.vfFlr vf) (fun _ => rfl) hp (vfFlr_reads d h1 h2), gives_of_onDev Dev.pfFlr (fun _ => rfl) hp ?_,
      fun en n => gives_of_onDev (·.setVfs en (min n 64)) (fun _ => rfl) hp ?_,
      fun fn on msix d3 ctl => gives_of_onDev (·.busMaster fn on msix d3 ctl) (fun _ => rfl) hp (busMaster_reads d fn on msix d3 ctl)⟩
    · obtain ⟨f1, -, f3, f4, f5, f6, -, f8, f9⟩ := pfFlr_reads d
      exact ⟨f1, f3, f4, f5, f6, f8, f9⟩
    · obtain ⟨s1, s2, s3, s4, s5⟩ := setVfs_reads d en (min n 64)
      refine ⟨fun p hp => (s1 p hp).trans ?_, s2, s3, s4, s5⟩
      have : decide (p < min n 64) = decide (p < n) := by simp only [decide_eq_decide]; omega
      rw [this]
  · exact gives_of_onDev (·.linkTrained rate width coding) (fun _ => rfl) hp (linkTrained_reads d rate width coding)
  · obtain ⟨p1, p2, p3, p4, p5, p6, p7, p8, -, -⟩ := pcieDown_reads d
    exact gives_of_onDev Dev.pcieDown (fun _ => rfl) hp ⟨p1, p2, p3, p4, fun fn => canMaster_cut p3 fn, p5, p6, p7, p8⟩
  · exact gives_of_onDev (·.hostReset perst) (fun _ => rfl) hp (hostReset_reads d perst)
  · refine gives_of_onRaw Dev.perstHigh (fun _ => rfl) ?_
    unfold Dev.perstHigh
    dsimp only
    split
    · exact ⟨rfl, fun _ _ => rfl, rfl, rfl⟩
    · rename_i h
      exact ⟨rfl, fun h1 h2 => absurd (by rw [h1, h2]; rfl) h, rfl, rfl⟩
  · refine gives_of_onDev (·.linkL1 on) (fun _ => rfl) hp ?_
    obtain ⟨s1, hs1⟩ : ∃ s1 : Dev, s1 = { d with host := { d.host with l1 := on && !d.host.linkDown } } := ⟨_, rfl⟩
    have he : d.linkL1 on = s1.fixHost := by rw [hs1]; rfl
    have h1 : s1.host = { d.host with l1 := on } ∧ s1.regs = d.regs := by rw [hs1, hl]; exact ⟨by simp, rfl⟩
    obtain ⟨k1, k2, k3⟩ := fixHost_reads s1
    have hD : s1.flag F.PF_D3HOT = false := by
      rw [flag_of_get (a := d) (by rw [Dev.get_eq, h1.2, ← Dev.get_eq]), Dev.flag, h3]
      rfl
    have hh : s1.fixHost.host = s1.host := by rw [k3]
    rw [he]
    rw [h1.1, hD] at k1
    dsimp only at k1
    rw [hl] at k1
    refine ⟨k1, by rw [hh, h1.1], onlyFields_trans (onlyFields_of_regs h1.2) k2, ?_⟩
    rw [k3, hs1, hl]
    simp

end Sys2Proof
end

section
/-! SUPPORT. The external layout, patrol, and the upkeep of the expanders (15 R536, R541 to R543). -/

namespace Sys2Proof

open Machine

/-! ### The layout -/

theorem extApply_accepts {d : Dev} (hb : d.get F.EXT_BUSY = 0) (hp : ∀ p < 64, d.get F.P_STATE [p] ≠ pENABLED) :
    let e := d.extApply
    e.get F.EXT_BUSY = 1 ∧ e.get F.EXT_MODE_NOW = 0 ∧ e.get F.EXT_SIZE_GIB = 0 ∧
    e.ext.applying = some (d.get F.EXT_MODE, d.flag F.EXT_IG) ∧
    OnlyFields [(F.EXT_BUSY, []), (F.EXT_MODE_NOW, []), (F.EXT_SIZE_GIB, [])] d e ∧ e = { d with regs := e.regs, ext := e.ext } := by
  intro e
  obtain ⟨s1, hs1⟩ : ∃ s1, s1 = ((d.put0 F.EXT_BUSY 1).put0 F.EXT_MODE_NOW 0).put0 F.EXT_SIZE_GIB 0 := ⟨_, rfl⟩
  have hn : ¬(d.flag F.EXT_BUSY ∨ (List.range 64).any fun p => d.get F.P_STATE [p] == pENABLED) := by
    rintro (h | h)
    · rw [Dev.flag, hb] at h; exact absurd h (by decide)
    · obtain ⟨p, hp', h⟩ := List.any_eq_true.1 h
      exact hp p (List.mem_range.1 hp') (by simpa using h)
  have he : e = { s1 with ext := { s1.ext with applying := some (s1.get F.EXT_MODE, s1.flag F.EXT_IG) } } := by
    change d.extApply = _
    unfold Dev.extApply
    rw [if_neg hn, hs1]
  have k : OnlyFields [(F.EXT_BUSY, []), (F.EXT_MODE_NOW, []), (F.EXT_SIZE_GIB, [])] d s1 := by
    rw [hs1]
    exact onlyFields_put0 _ (onlyFields_put0 _ (onlyFields_put0 _ (onlyFields_refl _ d) (by simp)) (by simp)) (by simp)
  have v : s1.get F.EXT_BUSY = 1 ∧ s1.get F.EXT_MODE_NOW = 0 ∧ s1.get F.EXT_SIZE_GIB = 0 := by
    rw [hs1]
    refine ⟨?_, ?_, Dev.get_put0_fit _ (by decide) (by decide)⟩
    · rw [Dev.get_put0_apart _ _ (by decide), Dev.get_put0_apart _ _ (by decide)]
      exact Dev.get_put0_fit _ (by decide) (by decide)
    · rw [Dev.get_put0_apart _ _ (by decide)]
      exact Dev.get_put0_fit _ (by decide) (by decide)
  have o : OnlyRegs d s1 := by rw [hs1]; exact onlyRegs_trans (onlyRegs_put0 _ _ _) (onlyRegs_trans (onlyRegs_put0 _ _ _) (onlyRegs_put0 _ _ _))
  have hr : e.regs = s1.regs := by rw [he]
  have hg : ∀ f, e.get f = s1.get f := fun f => by rw [Dev.get_eq, hr, ← Dev.get_eq]
  have ha : e.ext.applying = some (s1.get F.EXT_MODE, s1.flag F.EXT_IG) := by rw [he]
  rw [hg, hg, hg, ha, k.get F.EXT_MODE [] (by decide), flag_of_get (k.get F.EXT_IG [] (by decide))]
  refine ⟨v.1, v.2.1, v.2.2, rfl, onlyFields_trans k (onlyFields_of_regs hr), ?_⟩
  rw [he, o]

theorem extApply_refuses {d : Dev} (h : d.get F.EXT_BUSY = 1 ∨ ∃ p < 64, d.get F.P_STATE [p] = pENABLED) :
    d.extApply = d.put0 F.EXT_CFG_ERR 1 := by
  unfold Dev.extApply
  refine if_pos (h.imp (fun h => flag_of_one h) ?_)
  rintro ⟨p, hp, h⟩
  exact List.any_eq_true.2 ⟨p, List.mem_range.2 hp, by simp [h]⟩

/-- The capacity of a port as EXT_DONE takes it: that of an expander that is present. -/
def Machine.Dev.xpCap (d : Dev) (p : Nat) : Nat := if d.flag F.XP_PRESENT (xpIx p) then d.get F.XP_CAP_GIB (xpIx p) else 0

theorem extDone_reads {d : Dev} {mode : Nat} {ig : Bool} (ha : d.ext.applying = some (mode, ig)) (hm : mode < 4) (fails : Bool) :
    let e := d.extDone fails
    e.get F.EXT_BUSY = 0 ∧ e.get F.BOOT_STAGE = d.get F.BOOT_STAGE ∧ e = { d with regs := e.regs, ext := e.ext } ∧
    (fails = true → e.get F.EXT_MODE_NOW = 0 ∧ e.get F.EXT_CFG_ERR = 1) ∧
    (fails = false → (mode = 3 → ¬∃ p < 12, d.xpCap p = 0) → e.get F.EXT_MODE_NOW = mode ∧
      e.get F.EXT_SIZE_GIB = extSize mode d.xpCap % 2 ^ 10 ∧ e.get F.EXT_DONE = 1 ∧ e.ext = ⟨ig, none, []⟩) := by
  intro e
  obtain ⟨s1, hs1⟩ : ∃ s1 : Dev, s1 = { d with ext := { d.ext with applying := none } } := ⟨_, rfl⟩
  have h1 : s1.regs = d.regs ∧ s1 = { d with regs := s1.regs, ext := s1.ext } := by rw [hs1]; exact ⟨rfl, rfl⟩
  have hd : e = if fails || (mode == 3 && (List.range 12).any fun p => d.xpCap p == 0) then
      ((s1.put0 F.EXT_BUSY 0).put0 F.EXT_CFG_ERR 1).put0 F.EXT_MODE_NOW 0
    else ((({ s1.put0 F.EXT_BUSY 0 with ext := ⟨ig, none, []⟩ } : Dev).put0 F.EXT_MODE_NOW mode).put0 F.EXT_SIZE_GIB
      (extSize mode d.xpCap)).put0 F.EXT_DONE 1 := by
    change d.extDone fails = _
    unfold Dev.extDone
    rw [ha, hs1]
    rfl
  obtain ⟨s2, hs2⟩ : ∃ s2, s2 = s1.put0 F.EXT_BUSY 0 := ⟨_, rfl⟩
  rw [← hs2] at hd
  have hb : s2.get F.EXT_BUSY = 0 ∧ s2.get F.BOOT_STAGE = d.get F.BOOT_STAGE := by
    rw [hs2]
    exact ⟨Dev.get_put0_fit _ (by decide) (by decide), by rw [Dev.get_put0_apart _ _ (by decide), Dev.get_eq, h1.1, ← Dev.get_eq]⟩
  have h2 : s2 = { d with regs := s2.regs, ext := s2.ext } := by
    have : OnlyRegs s1 s2 := by rw [hs2]; exact onlyRegs_put0 _ _ _
    rw [this]
    rw [h1.2]
  by_cases hc : (fails || (mode == 3 && (List.range 12).any fun p => d.xpCap p == 0)) = true
  · rw [if_pos hc] at hd
    rw [hd]
    refine ⟨by rw [Dev.get_put0_apart _ _ (by decide), Dev.get_put0_apart _ _ (by decide), hb.1],
      by rw [Dev.get_put0_apart _ _ (by decide), Dev.get_put0_apart _ _ (by decide), hb.2], ?_, fun _ => ⟨?_, ?_⟩, fun hf hno => ?_⟩
    · have : OnlyRegs s2 ((s2.put0 F.EXT_CFG_ERR 1).put0 F.EXT_MODE_NOW 0) := onlyRegs_trans (onlyRegs_put0 _ _ _) (onlyRegs_put0 _ _ _)
      generalize (s2.put0 F.EXT_CFG_ERR 1).put0 F.EXT_MODE_NOW 0 = x at this
      rw [this, h2]
    · exact Dev.get_put0_fit _ (by decide) (by decide)
    · rw [Dev.get_put0_apart _ _ (by decide)]
      exact Dev.get_put0_fit _ (by decide) (by decide)
    · rw [hf, Bool.false_or, Bool.and_eq_true, beq_iff_eq, List.any_eq_true] at hc
      obtain ⟨h3, p, hp, h0⟩ := hc
      exact absurd ⟨p, List.mem_range.1 hp, by simpa using h0⟩ (hno h3)
  · rw [if_neg hc] at hd
    obtain ⟨s3, hs3⟩ : ∃ s3 : Dev, s3 = { s2 with ext := ⟨ig, none, []⟩ } := ⟨_, rfl⟩
    rw [← hs3] at hd
    have hg : ∀ f, s3.get f = s2.get f := fun f => by rw [hs3]; rfl
    have h3 : s3 = { d with regs := s3.regs, ext := ⟨ig, none, []⟩ } ∧ s3.ext = ⟨ig, none, []⟩ := by
      rw [hs3]
      refine ⟨?_, rfl⟩
      rw [h2]
    have o : OnlyRegs s3 e := by
      rw [hd]
      exact onlyRegs_trans (onlyRegs_put0 _ _ _) (onlyRegs_trans (onlyRegs_put0 _ _ _) (onlyRegs_put0 _ _ _))
    have k : OnlyFields [(F.EXT_MODE_NOW, []), (F.EXT_SIZE_GIB, []), (F.EXT_DONE, [])] s3 e := by
      rw [hd]
      exact onlyFields_put0 _ (onlyFields_put0 _ (onlyFields_put0 _ (onlyFields_refl _ s3) (by simp)) (by simp)) (by simp)
    refine ⟨by rw [k.get F.EXT_BUSY [] (by decide), hg, hb.1], by rw [k.get F.BOOT_STAGE [] (by decide), hg, hb.2], ?_, fun hf => ?_, fun hf _ => ⟨?_, ?_, ?_, ?_⟩⟩
    · rw [o, h3.1]
    · rw [hf] at hc; exact absurd rfl hc
    · rw [hd, Dev.get_put0_apart _ _ (by decide), Dev.get_put0_apart _ _ (by decide)]
      exact Dev.get_put0_fit _ (by decide) (by change mode < 256; omega)
    · rw [hd, Dev.get_put0_apart _ _ (by decide)]
      exact Dev.get_put_same _ _ _ _ (by decide)
    · rw [hd]
      exact Dev.get_put0_fit _ (by decide) (by decide)
    · rw [o]
      exact h3.2

/-- EXT_DONE outside bring-up ends the sequence and nothing more. -/
theorem extEnd_eq {d : Dev} {m : Nat × Bool} (ha : d.ext.applying = some m) {fails : Bool} (hs : (d.extDone fails).get F.BOOT_STAGE ≠ 8) :
    d.extEnd fails = d.extDone fails := by
  unfold Dev.extEnd
  rw [ha]
  dsimp only [Option.isNone]
  rw [if_neg (by decide), if_neg fun h => hs h.1]

/-! ### Patrol -/

/-- The fields that say where patrol stands. -/
def posField (die : Nat) : Fld := errField F.PATROL_POS F.SRAM_PATROL_POS die

/-- The registers that the report of an ECC word's outcome writes. -/
def eccFields : List Fld :=
  [F.TARN_CE_COUNT, F.TARN_CE, F.TARN_UE_COUNT, F.TARN_ADDR_ERR, F.TARN_UE, F.TARN_VALID, F.TARN_ERR_ADDR_LO, F.TARN_ERR_ADDR_HI,
    F.TARN_ERR_MASTER, F.SRAM_CE_COUNT, F.SRAM_CE, F.SRAM_UE_COUNT, F.SRAM_ADDR_ERR, F.SRAM_UE, F.SRAM_VALID, F.SRAM_ERR_ADDR_LO,
    F.SRAM_ERR_ADDR_HI, F.SRAM_ERR_MASTER]

theorem errField_mem {f g : Fld} (hf : f ∈ eccFields) (hg : g ∈ eccFields) (die : Nat) : errField f g die ∈ eccFields := by
  unfold errField
  split <;> assumption

theorem ecc_apart : ∀ die < 8, ∀ f ∈ eccFields, Fld.apart f (errIx die) (posField die) (errIx die) = true := by decide

/-- What reading the words of a block changes: registers and reports, and not where patrol stands. -/
structure Patrols (die : Nat) (a b : Dev) : Prop where
  pos : b.get (posField die) (errIx die) = a.get (posField die) (errIx die)
  mem : b.mem = a.mem ∧ b.hostMem = a.hostMem

theorem patrols_refl (die : Nat) (a : Dev) : Patrols die a a := ⟨rfl, rfl, rfl⟩

theorem patrols_trans {die : Nat} {a b c : Dev} (h : Patrols die a b) (h' : Patrols die b c) : Patrols die a c :=
  ⟨h'.pos.trans h.pos, h'.mem.1.trans h.mem.1, h'.mem.2.trans h.mem.2⟩

/-- A read's outcome shows in the error registers of its die and in the reports. -/
structure EccShows (die : Nat) (a b : Dev) : Prop where
  patrols : Patrols die a b
  ecc : b.ecc = a.ecc

theorem eccShows_trans {die : Nat} {a b c : Dev} (h : EccShows die a b) (h' : EccShows die b c) : EccShows die a c :=
  ⟨patrols_trans h.patrols h'.patrols, h'.ecc.trans h.ecc⟩

theorem eccShows_put {die : Nat} (hd : die < 8) (s : Dev) {f : Fld} (hf : f ∈ eccFields) (v : Nat) : EccShows die s (s.put f (errIx die) v) :=
  ⟨⟨Dev.get_put_apart _ _ (ecc_apart die hd f hf), rfl, rfl⟩, rfl⟩

theorem eccShows_report {die : Nat} (s : Dev) (c i m : Nat) (p : Option Nat) (a g : Nat) : EccShows die s (s.report c i m p a g) :=
  ⟨⟨rfl, rfl, rfl⟩, rfl⟩

theorem eccReport_shows {die : Nat} (hd : die < 8) (s : Dev) (key mid : Nat) (part : Option Nat) (out : Nat) :
    EccShows die s (s.eccReport die key mid part out) := by
  have hput : ∀ (s : Dev) {f g : Fld} (_ : f ∈ eccFields) (_ : g ∈ eccFields) (v : Nat), EccShows die s (s.put (errField f g die) (errIx die) v) :=
    fun s _ _ hf hg v => eccShows_put hd s (errField_mem hf hg die) v
  unfold Dev.eccReport
  dsimp only
  split
  · exact ⟨patrols_refl die s, rfl⟩
  split
  · exact eccShows_trans (hput s (f := F.TARN_CE_COUNT) (g := F.SRAM_CE_COUNT) (by simp [eccFields]) (by simp [eccFields]) _)
      (eccShows_trans (hput _ (f := F.TARN_CE) (g := F.SRAM_CE) (by simp [eccFields]) (by simp [eccFields]) _) (eccShows_report _ _ _ _ _ _ _))
  · refine eccShows_trans ?_ (eccShows_report _ _ _ _ _ _ _)
    have h1 := hput s (f := F.TARN_UE_COUNT) (g := F.SRAM_UE_COUNT) (by simp [eccFields]) (by simp [eccFields])
      (min (s.get (errField F.TARN_UE_COUNT F.SRAM_UE_COUNT die) (errIx die) + 1) (2 ^ (errField F.TARN_UE_COUNT F.SRAM_UE_COUNT die).w - 1))
    change EccShows die s (s.count (errField F.TARN_UE_COUNT F.SRAM_UE_COUNT die) (errIx die)) at h1
    generalize s.count (errField F.TARN_UE_COUNT F.SRAM_UE_COUNT die) (errIx die) = s1 at h1
    have h2 : EccShows die s1 (s1.put (if out = eAddress then errField F.TARN_ADDR_ERR F.SRAM_ADDR_ERR die
        else errField F.TARN_UE F.SRAM_UE die) (errIx die) 1) := by
      split
      · exact hput s1 (by simp [eccFields]) (by simp [eccFields]) 1
      · exact hput s1 (by simp [eccFields]) (by simp [eccFields]) 1
    generalize s1.put (if out = eAddress then errField F.TARN_ADDR_ERR F.SRAM_ADDR_ERR die
        else errField F.TARN_UE F.SRAM_UE die) (errIx die) 1 = s2 at h2
    refine eccShows_trans h1 (eccShows_trans h2 ?_)
    split
    · exact ⟨patrols_refl die s2, rfl⟩
    · refine eccShows_trans ?_ (eccShows_trans (hput _ (f := F.TARN_ERR_MASTER) (g := F.SRAM_ERR_MASTER) (by simp [eccFields]) (by simp [eccFields]) _)
        (hput _ (f := F.TARN_VALID) (g := F.SRAM_VALID) (by simp [eccFields]) (by simp [eccFields]) _))
      exact eccShows_trans (hput s2 (f := F.TARN_ERR_ADDR_LO) (g := F.SRAM_ERR_ADDR_LO) (by simp [eccFields]) (by simp [eccFields]) _)
        (hput _ (f := F.TARN_ERR_ADDR_HI) (g := F.SRAM_ERR_ADDR_HI) (by simp [eccFields]) (by simp [eccFields]) _)

/-- One word of the block: its outcome is reported, and a correctable one is rewritten. -/
def Machine.Dev.patrolWord (die : Nat) (s : Dev) (k : Nat) : Dev :=
  let x := s.eccReport die k (midOf die 6 0) none (s.eccAt k)
  if s.eccAt k = eCorrectable then x.setEcc k 0 else x

theorem patrolWord_reads {die : Nat} (hd : die < 8) (s : Dev) (k : Nat) :
    Patrols die s (s.patrolWord die k) ∧
    ∀ j, (s.patrolWord die k).eccAt j = if j / 8 = k / 8 ∧ s.eccAt k = eCorrectable then 0 else s.eccAt j := by
  have h := eccReport_shows hd s k (midOf die 6 0) none (s.eccAt k)
  unfold Dev.patrolWord
  dsimp only
  generalize s.eccReport die k (midOf die 6 0) none (s.eccAt k) = x at h
  have hx : ∀ j, x.eccAt j = s.eccAt j := fun j => by unfold Dev.eccAt; rw [h.ecc]
  split
  · rename_i hc
    refine ⟨⟨h.patrols.pos, h.patrols.mem⟩, fun j => ?_⟩
    unfold Dev.eccAt Dev.setEcc
    rw [Tab.get_set]
    by_cases hj : j / 8 = k / 8
    · rw [if_pos hj, if_pos ⟨hj, hc⟩]
    · rw [if_neg hj, if_neg fun h => hj h.1]; exact hx j
  · rename_i hc
    exact ⟨h.patrols, fun j => by rw [hx, if_neg fun h => hc h.2]⟩

/-- After a walk over some words, each of them is repaired if it was correctable, and no word has become so. -/
theorem patrolWords_repair {die : Nat} (hd : die < 8) (l : List Nat) (s : Dev) :
    Patrols die s (s.forEach l (Dev.patrolWord die)) ∧
    (∀ j, s.eccAt j = 0 → (s.forEach l (Dev.patrolWord die)).eccAt j = 0) ∧
    ∀ k ∈ l, s.eccAt k = 1 → (s.forEach l (Dev.patrolWord die)).eccAt k = 0 := by
  unfold Dev.forEach
  induction l generalizing s with
  | nil => exact ⟨patrols_refl die s, fun _ h => h, fun k hk => absurd hk (List.not_mem_nil)⟩
  | cons x l ih =>
    obtain ⟨w1, w2⟩ := patrolWord_reads hd s x
    obtain ⟨i1, i2, i3⟩ := ih (s.patrolWord die x)
    rw [List.foldl_cons]
    refine ⟨patrols_trans w1 i1, fun j hj => i2 j ?_, fun k hk h1 => ?_⟩
    · rw [w2 j, hj, ite_self]
    · rcases List.mem_cons.1 hk with rfl | hk
      · exact i2 k (by rw [w2, if_pos ⟨rfl, h1⟩])
      · by_cases hc : k / 8 = x / 8 ∧ s.eccAt x = eCorrectable
        · exact i2 k (by rw [w2, if_pos hc])
        · exact i3 k hk (by rw [w2, if_neg hc, h1])

/-- The registers of the steward's violation record. -/
def stewardViol : List (Fld × List Nat) :=
  [(F.MPU_VIOL_ADDR_LO, []), (F.MPU_VIOL_ADDR_HI, []), (F.MPU_VIOL_INFO, []), (F.MPU_VIOL_VALID, []), (F.MPU_VIOL_TICK, []), (F.MPU_VIOL_PHASE, [])]

theorem onlyFields_raisePf (l : List (Fld × List Nat)) (s : Dev) (v : Nat) : OnlyFields l s (s.raisePf v) := by
  obtain ⟨m, p, he⟩ := s.raisePf_eq v
  exact onlyFields_of_regs (by rw [he])

theorem latchViol_steward (s : Dev) (die kind addr : Nat) (v : Viol) : OnlyFields stewardViol s (s.latchViol (scrubAcc die) kind v addr) := by
  have hl : ¬(scrubAcc die).level = 0 := by simp [scrubAcc]
  unfold Dev.latchViol
  rw [if_neg hl]
  split
  · exact onlyFields_refl _ s
  · refine onlyFields_trans ?_ (onlyFields_raisePf _ _ _)
    exact onlyFields_put0 _ (onlyFields_put0 _ (onlyFields_put0 _ (onlyFields_put0 _ (onlyFields_put64 _ (onlyFields_refl _ s)
      (by simp [stewardViol]) (by simp [stewardViol])) (by simp [stewardViol])) (by simp [stewardViol])) (by simp [stewardViol])) (by simp [stewardViol])

theorem scrubRefused_pos {die : Nat} (hd : die < 8) (s : Dev) (kind addr : Nat) (v : Viol) :
    Patrols die s (s.scrubRefused die kind addr v) := by
  have h := latchViol_only s (scrubAcc die) kind v addr
  have ha : ∀ die < 8, ∀ x ∈ stewardViol, Fld.apart x.1 x.2 (posField die) (errIx die) = true := by decide
  have hp := (latchViol_steward s die kind addr v).get (posField die) (errIx die) (ha die hd)
  unfold Dev.scrubRefused
  generalize s.latchViol (scrubAcc die) kind v addr = x at h hp
  exact ⟨hp, h.mem⟩

theorem Machine.Dev.put_memory (s : Dev) (f : Fld) (ix : List Nat) (v : Nat) :
    (s.put f ix v).mem = s.mem ∧ (s.put f ix v).hostMem = s.hostMem ∧ ∀ k, (s.put f ix v).eccAt k = s.eccAt k := ⟨rfl, rfl, fun _ => rfl⟩

theorem patrolRead_reads {d : Dev} {die : Nat} (hd : die < 8) (hen : d.get (errField F.PATROL_EN F.SRAM_PATROL_EN die) (errIx die) = 1)
    (hg : d.dieGone die = false) (hk : d.get F.DOM_STATE [die] ≠ stKeep) (hs : d.hostShut = false) (hp : Tab.get false d.pauses 3 = false) :
    let b := d.get (posField die) (errIx die)
    let e := d.patrolRead die
    (d.scrubCheck die kRead (die * 2 ^ 32 + 64 * b) 64 ≠ none → e.get (posField die) (errIx die) = b ∧ e.ecc = d.ecc ∧ e.mem = d.mem ∧ e.hostMem = d.hostMem) ∧
    (d.scrubCheck die kRead (die * 2 ^ 32 + 64 * b) 64 = none →
      e.get (posField die) (errIx die) = (if (if die < 6 then 3 else 2) * 2 ^ 30 ≤ 64 * (b + 1) then 0 else b + 1) ∧
      (∀ i < 8, d.eccAt (die * 2 ^ 32 + 64 * b + 8 * i) = 1 → e.eccAt (die * 2 ^ 32 + 64 * b + 8 * i) = 0) ∧ e.mem = d.mem ∧ e.hostMem = d.hostMem) := by
  intro b e
  have hn : ¬(8 ≤ die ∨ !d.flag (errField F.PATROL_EN F.SRAM_PATROL_EN die) (errIx die) ∨ d.dieGone die ∨ d.get F.DOM_STATE [dieDomain die] = stKeep ∨
      d.hostShut ∨ Tab.get false d.pauses 3) := by
    rw [flag_of_one hen, hg, hs, hp]
    simp only [Bool.not_true, Bool.false_eq_true, false_or, or_false, not_or]
    exact ⟨by omega, hk⟩
  have hw : posField die = if die < 6 then F.PATROL_POS else F.SRAM_PATROL_POS := rfl
  have hwidth : (posField die).w = 26 ∧ (posField die).lo + (posField die).w ≤ 32 := by rw [hw]; split <;> exact ⟨rfl, by decide⟩
  have hb : b < 2 ^ 26 := by have := Dev.get_lt d (posField die) (errIx die); rwa [hwidth.1] at this
  have hkey : sramKey die (64 * b) = die * 2 ^ 32 + 64 * b := by rw [sramKey]
  constructor
  · intro hc
    obtain ⟨⟨a, v⟩, hx⟩ := Option.ne_none_iff_exists'.1 hc
    have he : e = d.scrubRefused die kRead a v := by
      change d.patrolRead die = _
      unfold Dev.patrolRead
      rw [if_neg hn]
      dsimp only
      rw [← hkey] at hx
      split
      · rename_i h
        obtain ⟨rfl, rfl⟩ := Prod.mk.inj (Option.some.inj (hx.symm.trans h))
        rfl
      · rename_i h
        exact absurd (hx.symm.trans h) (by simp)
    obtain ⟨q1, q2⟩ := scrubRefused_pos hd d kRead a v
    rw [he]
    exact ⟨q1, (scrubRefused_reads d die kRead a v).2.2, q2⟩
  · intro hc
    have he : e = (d.forEach (eccWords (sramKey die (64 * b)) 64) (Dev.patrolWord die)).put (posField die) (errIx die)
        (if sramSize die ≤ 64 * (b + 1) then 0 else b + 1) := by
      change d.patrolRead die = _
      unfold Dev.patrolRead
      rw [if_neg hn]
      dsimp only
      rw [← hkey] at hc
      split
      · rename_i h
        exact absurd (hc.symm.trans h) (by simp)
      · rfl
    obtain ⟨q1, -, q3⟩ := patrolWords_repair hd (eccWords (sramKey die (64 * b)) 64) d
    generalize d.forEach (eccWords (sramKey die (64 * b)) 64) (Dev.patrolWord die) = x at he q1 q3
    have hsz : sramSize die = (if die < 6 then 3 else 2) * 2 ^ 30 := by unfold sramSize; split <;> rfl
    have hl : (if sramSize die ≤ 64 * (b + 1) then 0 else b + 1) < 2 ^ 26 := by
      rw [hsz]
      split <;> split <;> omega
    rw [← hsz]
    generalize (if sramSize die ≤ 64 * (b + 1) then 0 else b + 1) = v at he hl
    rw [← hwidth.1] at hl
    rw [he]
    obtain ⟨m1, m2, m3⟩ := Dev.put_memory x (posField die) (errIx die) v
    rw [m1, m2]
    refine ⟨Dev.get_put_fit _ hwidth.2 hl, fun i hi h1 => (m3 _).trans (q3 _ ?_ h1), q1.mem.1, q1.mem.2⟩
    rw [eccWords, if_neg (by decide), List.mem_map, sramKey]
    exact ⟨i, List.mem_range.2 (by omega), by omega⟩

/-! ### Expanders -/

theorem xp_apart : ∀ p < 12, ∀ f ∈ [F.XP_LINK_UP, F.XP_RATE, F.XP_WIDTH], Fld.apart f (xpIx p) F.XP_LOST (xpIx p) = true ∧
    (f ≠ F.XP_LINK_UP → Fld.apart f (xpIx p) F.XP_LINK_UP (xpIx p) = true) := by decide

theorem cxlPortLost_reads (d : Dev) {p : Nat} (hp : p < 12) (down : Bool) :
    let e := d.cxlPortLost p down
    e.get F.XP_LOST (xpIx p) = 1 ∧ Tab.get false e.ext.lost p = true ∧ (down = true → e.get F.XP_LINK_UP (xpIx p) = 0) ∧
    OnlyFields [(F.XP_LOST, xpIx p), (F.XP_LINK_UP, xpIx p), (F.XP_RATE, xpIx p), (F.XP_WIDTH, xpIx p)] d e ∧
    e.reports.length = d.reports.length + 1 ∧ e.mem = d.mem := by
  intro e
  obtain ⟨s1, hs1⟩ : ∃ s1, s1 = if down then ((d.put F.XP_LINK_UP (xpIx p) 0).put F.XP_RATE (xpIx p) 0).put F.XP_WIDTH (xpIx p) 0 else d := ⟨_, rfl⟩
  obtain ⟨s2, hs2⟩ : ∃ s2 : Dev, s2 = { s1 with ext := { s1.ext with lost := Tab.set false s1.ext.lost p true } } := ⟨_, rfl⟩
  have he : e = (s2.put F.XP_LOST (xpIx p) 1).report 0x45 (p / 2) 0 none p 0 := by
    change d.cxlPortLost p down = _
    unfold Dev.cxlPortLost
    rw [if_neg (by omega), hs2, hs1]
  have h1 : OnlyRegs d s1 ∧ OnlyFields [(F.XP_LOST, xpIx p), (F.XP_LINK_UP, xpIx p), (F.XP_RATE, xpIx p), (F.XP_WIDTH, xpIx p)] d s1 ∧
      (down = true → s1.get F.XP_LINK_UP (xpIx p) = 0) := by
    rw [hs1]
    split
    · refine ⟨onlyRegs_trans (onlyRegs_put _ _ _ _) (onlyRegs_trans (onlyRegs_put _ _ _ _) (onlyRegs_put _ _ _ _)),
        onlyFields_put _ (onlyFields_put _ (onlyFields_put _ (onlyFields_refl _ d) (by simp)) (by simp)) (by simp), fun _ => ?_⟩
      rw [Dev.get_put_apart _ _ ((xp_apart p hp F.XP_WIDTH (by simp)).2 (by decide)),
        Dev.get_put_apart _ _ ((xp_apart p hp F.XP_RATE (by simp)).2 (by decide))]
      exact Dev.get_put_fit _ (by decide) (by decide)
    · rename_i h
      exact ⟨onlyRegs_refl d, onlyFields_refl _ d, fun h' => absurd h' h⟩
  obtain ⟨o1, k1, v1⟩ := h1
  have h2 : s2.regs = s1.regs ∧ s2.ext.lost = Tab.set false s1.ext.lost p true ∧ s2.reports = s1.reports ∧ s2.mem = s1.mem := by
    rw [hs2]; exact ⟨rfl, rfl, rfl, rfl⟩
  have hg : e.get F.XP_LINK_UP (xpIx p) = s2.get F.XP_LINK_UP (xpIx p) := by
    have hr : e.regs = (s2.put F.XP_LOST (xpIx p) 1).regs := by rw [he]; rfl
    rw [Dev.get_eq, hr, ← Dev.get_eq]
    exact Dev.get_put_apart _ _ ((by decide : ∀ p < 12, Fld.apart F.XP_LOST (xpIx p) F.XP_LINK_UP (xpIx p) = true) p hp)
  have hr : s1.reports = d.reports := by rw [o1]
  refine ⟨?_, ?_, fun hd => ?_, ?_, ?_, ?_⟩
  · have hr : e.regs = (s2.put F.XP_LOST (xpIx p) 1).regs := by rw [he]; rfl
    rw [Dev.get_eq, hr, ← Dev.get_eq]
    exact Dev.get_put_fit _ (by decide) (by decide)
  · have : e.ext = s2.ext := by rw [he]; rfl
    rw [this, h2.2.1]
    exact Tab.get_set_same _ _ _ _
  · rw [hg, Dev.get_eq, h2.1, ← Dev.get_eq, v1 hd]
  · rw [he]
    exact onlyFields_trans (onlyFields_put _ (onlyFields_trans k1 (onlyFields_of_regs h2.1)) (by simp)) (onlyFields_of_regs rfl)
  · have : e.reports = s2.reports ++ [⟨0x45, p / 2, 0, none, p, 0, (s2.put F.XP_LOST (xpIx p) 1).pos, (s2.put F.XP_LOST (xpIx p) 1).cycle⟩] := by
      rw [he]; rfl
    rw [this, h2.2.2.1, hr, List.length_append]
    rfl
  · have : e.mem = s2.mem := by rw [he]; rfl
    rw [this, h2.2.2.2, o1.mem.1]

theorem reportEach_reads (d : Dev) (die p : Nat) (records : List Nat) :
    let e := d.forEach records fun s r => s.report 0x43 die 0 none p r
    e.reports.map (fun r => (r.code, r.arg)) = d.reports.map (fun r => (r.code, r.arg)) ++ records.map (fun r => (0x43, r)) ∧
    e = { d with reports := e.reports } := by
  unfold Dev.forEach
  induction records generalizing d with
  | nil => exact ⟨by simp, rfl⟩
  | cons r l ih =>
    obtain ⟨i1, i2⟩ := ih (d.report 0x43 die 0 none p r)
    dsimp only [List.foldl_cons] at i1 i2 ⊢
    refine ⟨?_, i2⟩
    rw [i1]
    simp [Dev.report]

theorem healthPoll_reads (d : Dev) {p : Nat} (hp : p < 12) (hu : d.get F.XP_LINK_UP (xpIx p) = 1) (status : Nat) :
    let e := d.healthPoll p status
    e.get F.XP_HEALTH (xpIx p) = status % 2 ^ 32 ∧ e.reports.length = d.reports.length + (if status = 0 then 0 else 1) ∧
    OnlyFields [(F.XP_HEALTH, xpIx p)] d e ∧ e = { d with regs := e.regs, reports := e.reports } := by
  have hs : (d.put F.XP_HEALTH (xpIx p) status).get F.XP_HEALTH (xpIx p) = status % 2 ^ 32 := Dev.get_put_same _ _ _ _ (by decide)
  have k : OnlyFields [(F.XP_HEALTH, xpIx p)] d (d.put F.XP_HEALTH (xpIx p) status) := onlyFields_put _ (onlyFields_refl _ d) (by simp)
  unfold Dev.healthPoll
  rw [if_pos ⟨hp, flag_of_one hu⟩]
  dsimp only
  by_cases h0 : status = 0
  · rw [if_pos h0, if_pos h0]
    exact ⟨hs, rfl, k, rfl⟩
  · rw [if_neg h0, if_neg h0]
    refine ⟨hs, ?_, onlyFields_trans k (onlyFields_of_regs rfl), rfl⟩
    unfold Dev.report
    rw [List.length_append]
    rfl

/-- Settles O25: an APPLY is refused or taken whole and ends with its layout or none; patrol repairs and moves on; port losses,
records and bad health reach the warden. -/
theorem externalLayout : Obligations.ExternalLayout := by
  unfold Obligations.ExternalLayout
  refine ⟨fun d hp => ⟨fun hb hs => ?_, fun h => ?_, fun mode ig ha hm hs => ?_⟩, fun d die hp hd => ?_, fun d p hp hp12 => ⟨fun down => ?_, fun records hx => ?_, fun status hu => ?_⟩⟩
  · exact gives_of_onDev Dev.extApply (fun _ => rfl) hp (extApply_accepts hb hs)
  · refine gives_of_onDev Dev.extApply (fun _ => rfl) hp ?_
    rw [extApply_refuses h]
    exact ⟨Dev.get_put0_fit _ (by decide) (by decide), onlyFields_put0 _ (onlyFields_refl _ d) (by simp), onlyRegs_put0 _ _ _⟩
  · intro cap fails
    have hcap : cap = d.xpCap := by
      funext p
      unfold cap Dev.xpCap Dev.flag xpIx
      simp only [beq_iff_eq]
    refine ⟨fun hno => ?_, ?_⟩
    · obtain ⟨r1, r2, r3, -, r5⟩ := extDone_reads ha hm false
      obtain ⟨r6, r7, r8, r9⟩ := r5 rfl (hcap ▸ hno)
      refine gives_of_onDev (·.extEnd false) (fun _ => rfl) hp ?_
      rw [extEnd_eq ha (by rw [r2]; exact hs)]
      exact ⟨r1, r6, by rw [hcap]; exact r7, r8, r9, r3⟩
    · obtain ⟨r1, r2, r3, r4, -⟩ := extDone_reads ha hm true
      refine gives_of_onDev (·.extEnd true) (fun _ => rfl) hp ?_
      rw [extEnd_eq ha (by rw [r2]; exact hs)]
      exact ⟨r1, (r4 rfl).1, (r4 rfl).2, r3⟩
  · intro en pos ix b hen hg hk hs hps
    obtain ⟨r1, r2⟩ := patrolRead_reads hd hen hg hk hs hps
    exact ⟨fun hc => gives_of_onDev (·.patrolRead die) (fun _ => rfl) hp (r1 hc), fun hc => gives_of_onDev (·.patrolRead die) (fun _ => rfl) hp (r2 hc)⟩
  · exact gives_of_onDev (·.cxlPortLost p down) (fun _ => rfl) hp (cxlPortLost_reads d hp12 down)
  · refine gives_of_onDev (·.expanderEvent p records) (fun _ => rfl) hp ?_
    unfold Dev.expanderEvent
    rw [if_pos ⟨hp12, flag_of_one hx⟩]
    exact reportEach_reads d (p / 2) p records
  · exact gives_of_onDev (·.healthPoll p status) (fun _ => rfl) hp (healthPoll_reads d hp12 hu status)

end Sys2Proof
end

section
/-! SUPPORT. Register accesses: what a read returns, what a plain write does, pairs and commits (00 R10, R11, R13; 21 R744, R747). -/

namespace Sys2Proof

open Machine

/-! ### Reads -/

theorem piecesBy_word {off : Nat} (h : off % 4 = 0) : piecesBy 4 off 4 = [(off, 4)] := by
  simp [piecesBy, piecesFuel, h]

theorem piecesBy_pair {off : Nat} (h : off % 4 = 0) : piecesBy 4 off 8 = [(off, 4), (off + 4, 4)] := by
  have h4 : (off + 4) % 4 = 0 := by omega
  simp [piecesBy, piecesFuel, h, h4]

/-- A whole register that is served is read: the capture or the value, into the bytes from `at_`. -/
theorem readReg_served {s : Dev} {req : Req} {off a : Nat} (h : Served s req off a) (lo n at_ : Nat) :
    s.readReg req off lo n at_ = (s.readServed req a).2.landRead (s.readServed req a).1 lo n at_ := by
  obtain ⟨h1, h2, h3⟩ := h
  unfold Dev.readReg
  rw [h1]
  dsimp only
  rw [h2]
  dsimp only
  rw [h3]

/-- What decides an access does not look at what was last read or captured. -/
theorem served_read {d : Dev} {req : Req} {off a : Nat} (c : Tab (Option Word)) (r : Option (BitVec 64)) (h : Served d req off a) :
    Served { d with caps := c, lastRead := r } req off a := h

theorem readServed_lo {s : Dev} {req : Req} {off : Nat} (h : isLo off = true) :
    s.readServed req off = (s.regValue off, { s with caps := Tab.set none s.caps (capKey req (off + 4)) (some (s.regValue (off + 4))) }) := by
  unfold Dev.readServed
  rw [if_pos h]

theorem readServed_capture {s : Dev} {req : Req} {off : Nat} {w : Word} (h : isLo off = false) (hc : Tab.get none s.caps (capKey req off) = some w) :
    s.readServed req off = (w, { s with caps := Tab.set none s.caps (capKey req off) none }) := by
  unfold Dev.readServed
  rw [if_neg (by rw [h]; decide), hc]

theorem readServed_plain {s : Dev} {req : Req} {off : Nat} (h : isLo off = false) (hc : Tab.get none s.caps (capKey req off) = none) :
    s.readServed req off = (s.regValue off, s) := by
  unfold Dev.readServed
  rw [if_neg (by rw [h]; decide), hc]

theorem bitsOf_word (w : Word) : bitsOf w.toNat 0 32 = w.toNat := by
  rw [bitsOf, Nat.pow_zero, Nat.div_one, Nat.mod_eq_of_lt w.isLt]

/-- A first word lands in the low half. -/
theorem landRead_low (s : Dev) (w : Word) (h : s.lastRead = some 0) : s.landRead w 0 4 0 = { s with lastRead := some (BitVec.ofNat 64 w.toNat) } := by
  unfold Dev.landRead
  rw [h, bitsOf_word]
  simp only [Option.getD_some]
  rw [putBits_eq]
  simp [Nat.mod_eq_of_lt w.isLt]

theorem putBits_high {v w : Nat} (hv : v < 2 ^ 32) (hw : w < 2 ^ 32) : putBits v 32 32 w = v + 2 ^ 32 * w := by
  rw [putBits_eq, Nat.div_eq_of_lt (by omega), Nat.mod_eq_of_lt hv, Nat.mod_eq_of_lt hw]
  omega

/-- A second word lands in the high half. -/
theorem landRead_high (s : Dev) (v w : Word) (h : s.lastRead = some (BitVec.ofNat 64 v.toNat)) :
    s.landRead w 0 4 4 = { s with lastRead := some (BitVec.ofNat 64 (v.toNat + 2 ^ 32 * w.toNat)) } := by
  have hv : v.toNat < 2 ^ 32 := v.isLt
  have hw : w.toNat < 2 ^ 32 := w.isLt
  unfold Dev.landRead
  rw [h, bitsOf_word]
  simp only [Option.getD_some, BitVec.toNat_ofNat]
  rw [Nat.mod_eq_of_lt (a := v.toNat) (b := 2 ^ 64) (by omega), show 8 * 4 = 32 from rfl, putBits_high hv hw]

theorem readSized_word {d : Dev} {req : Req} {off a : Nat} (ho : off % 4 = 0) (h : Served d req off a) :
    d.readSized req off 4 = (({ d with lastRead := some 0 } : Dev).readServed req a).2.landRead
      (({ d with lastRead := some 0 } : Dev).readServed req a).1 0 4 0 := by
  unfold Dev.readSized
  dsimp only
  rw [show min 4 8 = 4 from rfl, piecesBy_word ho, Dev.forEach, List.foldl_cons, List.foldl_nil]
  dsimp only
  rw [show off / 4 * 4 = off from by omega, ho, Nat.sub_self]
  exact readReg_served (served_read d.caps (some 0) h) 0 4 0

theorem readSized_lo {d : Dev} {req : Req} {off a : Nat} (ho : off % 4 = 0) (h : Served d req off a) (hl : isLo a = true) :
    d.readSized req off 4 = { d with
      caps := Tab.set none d.caps (capKey req (a + 4)) (some (d.regValue (a + 4))), lastRead := some (BitVec.ofNat 64 (d.regValue a).toNat) } := by
  rw [readSized_word ho h, readServed_lo hl, landRead_low _ _ rfl]
  rfl

theorem pairLoRead_pair {d : Dev} {req : Req} {off a : Nat} (ho : off % 4 = 0) (h : Served d req off a) (h4 : Served d req (off + 4) (a + 4))
    (hl : isLo a = true) (hl4 : isLo (a + 4) = false) :
    let e := d.readSized req off 8
    e.lastRead = some (BitVec.ofNat 64 ((d.regValue a).toNat + 2 ^ 32 * (d.regValue (a + 4)).toNat)) ∧
    Tab.get none e.caps (capKey req (a + 4)) = none ∧ e = { d with caps := e.caps, lastRead := e.lastRead } := by
  obtain ⟨c, hc⟩ : ∃ c, c = Tab.set none d.caps (capKey req (a + 4)) (some (d.regValue (a + 4))) := ⟨_, rfl⟩
  obtain ⟨s1, hs1⟩ : ∃ s1 : Dev, s1 = { d with caps := c, lastRead := some (BitVec.ofNat 64 (d.regValue a).toNat) } := ⟨_, rfl⟩
  have h1 : ({ d with lastRead := some 0 } : Dev).readReg req off 0 4 0 = s1 := by
    rw [readReg_served (served_read d.caps (some 0) h), readServed_lo hl, landRead_low _ _ rfl, hs1, hc]
    rfl
  have hv : Tab.get none s1.caps (capKey req (a + 4)) = some (d.regValue (a + 4)) := by
    rw [hs1, hc]
    exact Tab.get_set_same (none : Option Word) d.caps (capKey req (a + 4)) (some (d.regValue (a + 4)))
  have h2 : d.readSized req off 8 = { d with
      caps := Tab.set none c (capKey req (a + 4)) none
      lastRead := some (BitVec.ofNat 64 ((d.regValue a).toNat + 2 ^ 32 * (d.regValue (a + 4)).toNat)) } := by
    unfold Dev.readSized
    dsimp only
    rw [show min 8 8 = 8 from rfl, piecesBy_pair ho, Dev.forEach, List.foldl_cons, List.foldl_cons, List.foldl_nil]
    dsimp only
    rw [show off / 4 * 4 = off from by omega, ho, Nat.sub_self, show (off + 4) / 4 * 4 = off + 4 from by omega,
      show (off + 4) % 4 = 0 from by omega, show off + 4 - off = 4 from by omega, h1,
      readReg_served (by rw [hs1]; exact served_read c _ h4), readServed_capture hl4 hv]
    dsimp only
    rw [landRead_high _ (d.regValue a) _ (by rw [hs1]), hs1]
  intro e
  have hr : e.caps = Tab.set none c (capKey req (a + 4)) none ∧ e.lastRead = some (BitVec.ofNat 64 ((d.regValue a).toNat + 2 ^ 32 * (d.regValue (a + 4)).toNat)) := by
    rw [show e = _ from h2]
    exact ⟨rfl, rfl⟩
  rw [hr.1, hr.2]
  exact ⟨rfl, Tab.get_set_same (none : Option Word) c (capKey req (a + 4)) none, h2⟩

theorem readSized_capture {d : Dev} {req : Req} {off a : Nat} {w : Word} (ho : off % 4 = 0) (h : Served d req off a) (hl : isLo a = false)
    (hc : Tab.get none d.caps (capKey req a) = some w) :
    d.readSized req off 4 = { d with caps := Tab.set none d.caps (capKey req a) none, lastRead := some (BitVec.ofNat 64 w.toNat) } := by
  rw [readSized_word ho h, readServed_capture (s := { d with lastRead := some 0 }) hl hc, landRead_low _ _ rfl]

theorem readSized_plain {d : Dev} {req : Req} {off a : Nat} (ho : off % 4 = 0) (h : Served d req off a) (hl : isLo a = false)
    (hc : Tab.get none d.caps (capKey req a) = none) :
    d.readSized req off 4 = { d with lastRead := some (BitVec.ofNat 64 (d.regValue a).toNat) } := by
  rw [readSized_word ho h, readServed_plain (s := { d with lastRead := some 0 }) hl hc, landRead_low _ _ rfl]
  rfl

/-! ### Plain writes -/

/-- What makes a register plain, condition by condition. -/
structure Plain (off : Nat) : Prop where
  fields : (fieldsAt off).isEmpty = false
  noTrigger : ∀ f ∈ fieldsAt off, f.1.ty ≠ .wo
  queue : queueCfg off = none
  mailbox : mailboxAt off = none
  alarm : F.AL_ARM.index off = none
  port : F.PORT_ENABLE.index off = none
  peers : F.FENCE_PEERS_HI.index off = none
  msix : ¬(0x408000 ≤ off ∧ off < 0x410000)
  ruled : off ∉ [F.TOUCH_THRESH.off [], F.THERM_WARN.off [], F.THERM_THROTTLE.off [], F.PWR_REQ_STATE.off [], F.RUN.off [], F.AUX_EN.off [],
    F.WAKE_HOLD.off [], F.AUX_IN_KEEP.off [], F.AUTO_GRANT.off [], F.RSVD_WRITE.off [], F.VOTE_LO.off [], F.VOTE_HI.off []]

theorem plainReg_iff {off : Nat} (h : plainReg off = true) : Plain off := by
  unfold plainReg at h
  simp only [Bool.and_eq_true, Bool.not_eq_true', Option.isNone_iff_eq_none, List.all_eq_true, bne_iff_ne, Bool.and_eq_false_iff,
    decide_eq_false_iff_not] at h
  obtain ⟨⟨⟨⟨⟨⟨⟨⟨h1, h2⟩, h3⟩, h4⟩, h5⟩, h6⟩, h7⟩, h8⟩, h9⟩ := h
  refine ⟨h1, h2, h3, h4, h5, h6, h7, fun h => ?_, fun h => ?_⟩
  · rcases h8 with h8 | h8
    · exact h8 h.1
    · exact h8 h.2
  · rw [List.contains_iff_mem.2 h] at h9
    exact absurd h9 (by decide)

theorem refusedWrite_plain (s : Dev) {off : Nat} (h : Plain off) (v : Nat) : s.refusedWrite off v = none := by
  have hr := h.ruled
  simp only [List.mem_cons, not_or] at hr
  obtain ⟨r1, r2, r3, -⟩ := hr
  unfold Dev.refusedWrite
  rw [h.queue]
  dsimp only
  rw [h.mailbox]
  dsimp only
  rw [if_neg r1, if_neg r2, if_neg r3, h.alarm]

theorem follow_plain (s : Dev) {off : Nat} (h : Plain off) (old v : Nat) : s.follow off old v = s := by
  have hr := h.ruled
  simp only [List.mem_cons, not_or] at hr
  obtain ⟨-, -, -, -, r5, r6, r7, r8, r9, -⟩ := hr
  unfold Dev.follow
  rw [if_neg r5, if_neg r6, if_neg r7, if_neg r8, if_neg r9, h.peers, if_neg (by decide), h.port]

theorem writeServed_plain (s : Dev) (req : Req) {off : Nat} (h : Plain off) (v : Nat) : s.writeServed req off v = s.plainWrite off v := by
  have hr := h.ruled
  simp only [List.mem_cons, not_or] at hr
  obtain ⟨-, -, -, r4, -⟩ := hr
  have hbad : encapBad off v = false := by unfold encapBad; rw [h.port]
  have hno : ∀ v, (fieldsAt off).filter (fun f => f.1.ty == .wo && bitsOf v f.1.lo f.1.w != 0 && !f.1.rsv.bad (bitsOf v f.1.lo f.1.w)) = [] := by
    intro v
    refine List.filter_eq_nil_iff.2 fun f hf hc => ?_
    simp only [Bool.and_eq_true, beq_iff_eq] at hc
    exact h.noTrigger f hf hc.1.1
  unfold Dev.writeServed
  rw [if_neg h.msix, refusedWrite_plain s h v]
  dsimp only
  rw [if_neg r4, hbad]
  rw [if_neg (by decide), if_neg (by decide), follow_plain _ h, hno]
  rfl

/-- An aligned write by one who may make it reaches the block. -/
theorem writeReg_may {s : Dev} {req : Req} {off a : Nat} (h : MayWrite s req off a) (v : Nat) : s.writeReg req off v = s.writeAt req a v := by
  obtain ⟨⟨h1, h2, h3⟩, h4⟩ := h
  unfold Dev.writeReg
  rw [h1]
  dsimp only
  split
  · rename_i n
    have hx : ¬(0x3800 ≤ off ∧ off < 0x3A00) := fun hx => by
      unfold Dev.vfMsix at h2
      dsimp only at h2
      rw [if_pos hx] at h2
      exact absurd h2 (by simp)
    rw [if_neg hx, if_pos (h4 n rfl)]
  · rw [h3]

theorem writeAt_plain (s : Dev) (req : Req) {off : Nat} (h : Plain off) (hl : isLo off = false) (hh : isHi off = false) (v : Nat) :
    s.writeAt req off v = s.plainWrite off v := by
  unfold Dev.writeAt
  rw [h.fields, if_neg (by simp), if_neg (by rw [hl]; decide), if_neg (by rw [hh]; decide), writeServed_plain s req h]

theorem writeAt_lo (s : Dev) (req : Req) {off : Nat} (h : Plain off) (hl : isLo off = true) (v : Nat) :
    s.writeAt req off v = { s with held := Tab.set none s.held (capKey req off) (some (BitVec.ofNat 32 v)) } := by
  unfold Dev.writeAt
  rw [h.fields, if_neg (by simp), if_pos hl, refusedWrite_plain s h]

theorem isHi_succ {a : Nat} (h : isLo a = true) : isHi (a + 4) = true := by
  unfold isHi
  rw [Nat.add_sub_cancel, h]
  simp

/-- A write of _HI applies the pair with what is held of _LO, which is held no more. -/
theorem writeAt_hi (s : Dev) (req : Req) {a : Nat} (h : Plain (a + 4)) (hl : isLo (a + 4) = false) (hh : isHi (a + 4) = true) (v : Nat) :
    s.writeAt req (a + 4) v =
      ({ s with held := Tab.set none s.held (capKey req a) none } : Dev).writePair req (a + 4) (Tab.get none s.held (capKey req a)) v := by
  unfold Dev.writeAt
  rw [h.fields, if_neg (by simp), if_neg (by rw [hl]; decide), if_pos hh, Nat.add_sub_cancel]

theorem plain_not_vote {a : Nat} (h : Plain a) : a ≠ F.VOTE_HI.off [] := by
  have hr := h.ruled
  simp only [List.mem_cons, not_or] at hr
  obtain ⟨-, -, -, -, -, -, -, -, -, -, -, r, -⟩ := hr
  exact r

theorem writePair_some (s : Dev) (req : Req) {a : Nat} (hp : Plain a) (h : Plain (a + 4)) (w : Word) (v : Nat) :
    s.writePair req (a + 4) (some w) v = (s.plainWrite a w.toNat).plainWrite (a + 4) v := by
  unfold Dev.writePair
  rw [if_neg (plain_not_vote h), Nat.add_sub_cancel]
  dsimp only
  rw [writeServed_plain _ req hp, writeServed_plain _ req h]

theorem writePair_none (s : Dev) (req : Req) {a : Nat} (h : Plain (a + 4)) (v : Nat) :
    s.writePair req (a + 4) none v = s.plainWrite (a + 4) v := by
  unfold Dev.writePair
  rw [if_neg (plain_not_vote h)]
  exact writeServed_plain s req h v

/-- What a write makes of a register's active and shadow word, and whether an encoding was reserved. -/
def writeFold (off v a sh : Nat) : Nat × Nat × Bool := (fieldsAt off).foldl (fun acc f => f.1.write v acc) (a, sh, false)

/-- Does the register have a shadow? -/
def shadowed (off : Nat) : Bool := (fieldsAt off).any fun f => f.1.ty == .sh

/-- The registers after a plain write. -/
def plainRegs (s : Dev) (off v : Nat) : Dev :=
  s.setReg off (BitVec.ofNat 32 (writeFold off v (s.reg off).toNat (s.shadowReg off).toNat).1)

/-- … and the shadows. -/
def plainShadow (s : Dev) (off v : Nat) : Dev :=
  if shadowed off then s.setShadow off (BitVec.ofNat 32 (writeFold off v (s.reg off).toNat (s.shadowReg off).toNat).2.1) else s

/-- Was an encoding reserved? -/
def plainBad (s : Dev) (off v : Nat) : Bool := (writeFold off v (s.reg off).toNat (s.shadowReg off).toNat).2.2

theorem plainWrite_eq (s : Dev) (off v : Nat) :
    s.plainWrite off v = { s with
      regs := (if plainBad s off v then (plainRegs s off v).put0 F.RSVD_WRITE 1 else plainRegs s off v).regs
      shadow := (plainShadow s off v).shadow } := by
  unfold Dev.plainWrite plainBad plainShadow plainRegs writeFold shadowed
  dsimp only
  generalize (fieldsAt off).foldl (fun acc f => f.1.write v acc) ((s.reg off).toNat, (s.shadowReg off).toNat, false) = r
  obtain ⟨r1, r2, r3⟩ := r
  cases (fieldsAt off).any fun f => f.1.ty == .sh <;> cases r3 <;> rfl

theorem plainWrite_rest (s : Dev) (off v : Nat) :
    s.plainWrite off v = { s with regs := (s.plainWrite off v).regs, shadow := (s.plainWrite off v).shadow } := by
  rw [plainWrite_eq]

/-- A plain write looks at the registers and their shadows only. -/
theorem plainWrite_congr {a b : Dev} (hr : b.regs = a.regs) (hs : b.shadow = a.shadow) (off v : Nat) :
    (b.plainWrite off v).regs = (a.plainWrite off v).regs ∧ (b.plainWrite off v).shadow = (a.plainWrite off v).shadow := by
  have h1 : b.reg off = a.reg off := by unfold Dev.reg; rw [hr]
  have h2 : b.shadowReg off = a.shadowReg off := by unfold Dev.shadowReg; rw [hs]
  have h3 : (plainRegs b off v).regs = (plainRegs a off v).regs := by
    unfold plainRegs
    rw [h1, h2]
    unfold Dev.setReg
    rw [hr]
  have h4 : plainBad b off v = plainBad a off v := by unfold plainBad; rw [h1, h2]
  have h5 : (plainShadow b off v).shadow = (plainShadow a off v).shadow := by
    unfold plainShadow
    rw [h1, h2]
    unfold Dev.setShadow
    split
    · dsimp only; rw [hs]
    · exact hs
  rw [plainWrite_eq, plainWrite_eq a]
  refine ⟨?_, h5⟩
  dsimp only
  rw [h4]
  split
  · unfold Dev.put0 Dev.put Dev.setReg Dev.reg
    dsimp only
    rw [h3]
  · exact h3

/-! ### Commits -/

theorem commitBlock_reads (s : Dev) (block : Nat) :
    (∀ o, shReg block o = true → (s.commitBlock block).reg o = s.shadowReg o) ∧
    (∀ o, shReg block o = false → o ≠ F.REGION_ALIGN.off [] → (s.commitBlock block).reg o = s.reg o) ∧ OnlyRegs s (s.commitBlock block) := by
  obtain ⟨h1, h2⟩ := commitList ((s.shadow.map (·.1) ++ s.regs.map (·.1)).filter (shReg block)) s
  obtain ⟨x, hx⟩ : ∃ x, x = s.forEach ((s.shadow.map (·.1) ++ s.regs.map (·.1)).filter (shReg block)) fun s off =>
      s.setReg off (s.shadowReg off) := ⟨_, rfl⟩
  rw [← hx] at h1 h2
  have h0 : (∀ o, shReg block o = true → x.reg o = s.shadowReg o) ∧ (∀ o, shReg block o = false → x.reg o = s.reg o) := by
    refine ⟨fun o ho => (h1 o).trans ?_, fun o ho => (h1 o).trans (if_neg ?_)⟩
    · split
      · rfl
      · rename_i hn
        simp only [List.mem_filter, List.mem_append, ho, and_true, not_or] at hn
        rw [Dev.reg, Dev.shadowReg, tabGet_of_not_mem _ _ _ hn.1, tabGet_of_not_mem _ _ _ hn.2]
    · simp only [List.mem_filter, ho, Bool.false_eq_true, and_false, not_false_eq_true]
  obtain ⟨p, hp⟩ : ∃ p : Prop, ∃ _ : Decidable p, s.commitBlock block = if block = 1 ∧ p then x.put0 F.REGION_ALIGN 1 else x := by
    rw [hx]
    exact ⟨_, inferInstance, rfl⟩
  obtain ⟨_, he⟩ := hp
  by_cases hc : block = 1 ∧ p
  · rw [if_pos hc] at he
    rw [he]
    have ha : shReg block (F.REGION_ALIGN.off []) = false := by rw [hc.1]; decide
    refine ⟨fun o ho => ?_, fun o ho hn => ?_, onlyRegs_trans h2 (onlyRegs_put0 _ _ _)⟩
    · rw [Dev.put0, Dev.reg_put_ne _ _ _ _ _ (by rintro rfl; rw [ha] at ho; exact absurd ho (by decide)), h0.1 o ho]
    · rw [Dev.put0, Dev.reg_put_ne _ _ _ _ _ hn, h0.2 o ho]
  · rw [if_neg hc] at he
    rw [he]
    exact ⟨h0.1, fun o ho _ => h0.2 o ho, h2⟩

/-- A write of _HI with its _LO held: both, in that order, take effect. -/
theorem writeAt_pair (s : Dev) (req : Req) {a : Nat} {lo : Word} (hp : Plain a) (h : Plain (a + 4)) (hl : isLo a = true) (hh : isLo (a + 4) = false)
    (hc : Tab.get none s.held (capKey req a) = some lo) (v : Nat) :
    let e := s.writeAt req (a + 4) v
    e.regs = ((s.plainWrite a lo.toNat).plainWrite (a + 4) v).regs ∧ Tab.get none e.held (capKey req a) = none ∧
    e = { s with regs := e.regs, shadow := e.shadow, held := e.held } := by
  obtain ⟨s1, hs1⟩ : ∃ s1 : Dev, s1 = { s with held := Tab.set none s.held (capKey req a) none } := ⟨_, rfl⟩
  have he : s.writeAt req (a + 4) v = (s1.plainWrite a lo.toNat).plainWrite (a + 4) v := by
    rw [writeAt_hi s req h hh (isHi_succ hl), hc, ← hs1, writePair_some s1 req hp h]
  have h1 : s1.regs = s.regs ∧ s1.shadow = s.shadow ∧ Tab.get none s1.held (capKey req a) = none ∧ s1 = { s with held := s1.held } := by
    rw [hs1]
    exact ⟨rfl, rfl, Tab.get_set_same (none : Option Word) s.held (capKey req a) none, rfl⟩
  obtain ⟨c1, c2⟩ := plainWrite_congr h1.1 h1.2.1 a lo.toNat
  obtain ⟨c3, -⟩ := plainWrite_congr c1 c2 (a + 4) v
  intro e
  have k2 : e = { s1 with regs := e.regs, shadow := e.shadow } := by
    have p1 := plainWrite_rest s1 a lo.toNat
    have p2 := plainWrite_rest (s1.plainWrite a lo.toNat) (a + 4) v
    rw [← he] at p2
    generalize s1.plainWrite a lo.toNat = s2 at p1 p2
    rw [p1] at p2
    exact p2
  have hh : e.held = s1.held := by rw [k2]
  refine ⟨by rw [← c3, ← he], by rw [hh]; exact h1.2.2.1, ?_⟩
  rw [hh]
  rw [h1.2.2.2] at k2
  exact k2

/-- A write of _HI with nothing held takes effect alone. -/
theorem writeAt_alone (s : Dev) (req : Req) {a : Nat} (h : Plain (a + 4)) (hl : isLo (a + 4) = false) (hh : isHi (a + 4) = true)
    (hc : Tab.get none s.held (capKey req a) = none) (v : Nat) :
    let e := s.writeAt req (a + 4) v
    e.regs = (s.plainWrite (a + 4) v).regs ∧ Tab.get none e.held (capKey req a) = none ∧
    e = { s with regs := e.regs, shadow := e.shadow, held := e.held } := by
  obtain ⟨s1, hs1⟩ : ∃ s1 : Dev, s1 = { s with held := Tab.set none s.held (capKey req a) none } := ⟨_, rfl⟩
  have he : s.writeAt req (a + 4) v = s1.plainWrite (a + 4) v := by
    rw [writeAt_hi s req h hl hh, hc, ← hs1, writePair_none s1 req h]
  have h1 : s1.regs = s.regs ∧ s1.shadow = s.shadow ∧ Tab.get none s1.held (capKey req a) = none ∧ s1 = { s with held := s1.held } := by
    rw [hs1]
    exact ⟨rfl, rfl, Tab.get_set_same (none : Option Word) s.held (capKey req a) none, rfl⟩
  obtain ⟨c1, -⟩ := plainWrite_congr h1.1 h1.2.1 (a + 4) v
  intro e
  have k2 : e = { s1 with regs := e.regs, shadow := e.shadow } := by
    have p2 := plainWrite_rest s1 (a + 4) v
    rw [← he] at p2
    exact p2
  have hh : e.held = s1.held := by rw [k2]
  refine ⟨by rw [← c1, ← he], by rw [hh]; exact h1.2.2.1, ?_⟩
  rw [hh]
  rw [h1.2.2.2] at k2
  exact k2

/-- Settles O15: reads and writes of register pairs, by the requester's captures and held halves, and commits. -/
theorem registerPairs : Obligations.RegisterPairs := by
  unfold Obligations.RegisterPairs
  refine ⟨fun d req off a v hp ho hv => ⟨fun hs hl => ?_, fun hs h4 hl hl4 => ?_, fun hs hl => ⟨fun w hc => ?_, fun hc => ?_⟩, fun hm hp' hl => ?_,
    fun hm hpa hp4 hl hl4 lo hc => ?_, fun hm hp4 hl4 hh hc => ?_⟩, fun d block hp hb => ⟨fun h2 h3 hz => ?_, fun h3 => ?_⟩⟩
  · refine gives_of_onDev (·.readSized req off 4) (fun _ => rfl) hp ?_
    rw [readSized_lo ho hs hl]
    exact ⟨rfl, Tab.get_set_same (none : Option Word) d.caps (capKey req (a + 4)) (some (d.regValue (a + 4))), rfl⟩
  · exact gives_of_onDev (·.readSized req off 8) (fun _ => rfl) hp (pairLoRead_pair ho hs h4 hl hl4)
  · refine gives_of_onDev (·.readSized req off 4) (fun _ => rfl) hp ?_
    rw [readSized_capture ho hs hl hc]
    exact ⟨rfl, Tab.get_set_same (none : Option Word) d.caps (capKey req a) none, rfl⟩
  · exact gives_of_onDev (·.readSized req off 4) (fun _ => rfl) hp (readSized_plain ho hs hl hc)
  · refine gives_of_onDev (fun d => d.writeReg req (off / 4 * 4) (v % 2 ^ 32)) (fun _ => rfl) hp ?_
    rw [show off / 4 * 4 = off from by omega, Nat.mod_eq_of_lt hv, writeReg_may hm, writeAt_lo d req (plainReg_iff hp') hl]
    exact ⟨Tab.get_set_same (none : Option Word) d.held (capKey req a) (some (BitVec.ofNat 32 v)), rfl⟩
  · refine gives_of_onDev (fun d => d.writeReg req ((off + 4) / 4 * 4) (v % 2 ^ 32)) (fun _ => rfl) hp ?_
    rw [show (off + 4) / 4 * 4 = off + 4 from by omega, Nat.mod_eq_of_lt hv, writeReg_may hm]
    exact writeAt_pair d req (plainReg_iff hpa) (plainReg_iff hp4) hl hl4 hc v
  · refine gives_of_onDev (fun d => d.writeReg req ((off + 4) / 4 * 4) (v % 2 ^ 32)) (fun _ => rfl) hp ?_
    rw [show (off + 4) / 4 * 4 = off + 4 from by omega, Nat.mod_eq_of_lt hv, writeReg_may hm]
    exact writeAt_alone d req (plainReg_iff hp4) hl4 hh hc v
  · refine gives_of_onDev (fun d => if block < 2 then d.ask (.commit block) else d) (fun _ => rfl) hp ?_
    have : d.ask (.commit block) = d.commitBlock block := by
      unfold Dev.ask
      rw [if_neg h2, if_neg h3, hz]
      rfl
    rw [if_pos hb, this]
    exact commitBlock_reads d block
  · refine gives_of_onDev (fun d => if block < 2 then d.ask (.commit block) else d) (fun _ => rfl) hp ?_
    rw [if_pos hb]
    unfold Dev.ask
    rw [if_neg (by rw [h3]; decide), if_pos h3]
    rfl

end Sys2Proof
end

section
/-! SUPPORT. What a write leaves in each field of a register, by its type, and chain requests (00 Table 0.4, R11 to R16; 04 R137, R138). -/

namespace Sys2Proof

open Machine

/-! ### One field's part of a write -/

/-- What a write of `v` makes of the field's value `b`. -/
def Machine.Fld.after (f : Fld) (v b : Nat) : Nat :=
  match f.ty with
  | .rw => if f.rsv.bad (bitsOf v f.lo f.w) then b else bitsOf v f.lo f.w
  | .w1c => b - (b &&& bitsOf v f.lo f.w)
  | .roc => b - (b &&& bitsOf v f.lo f.w)
  | _ => b

/-- … and of its shadow's. -/
def Machine.Fld.afterShadow (f : Fld) (v b : Nat) : Nat :=
  if f.ty = .sh then (if f.rsv.bad (bitsOf v f.lo f.w) then b else bitsOf v f.lo f.w) else b

/-- Is the encoding reserved for the field? -/
def Machine.Fld.reserved (f : Fld) (v : Nat) : Bool :=
  match f.ty with
  | .rw => f.rsv.bad (bitsOf v f.lo f.w)
  | .sh => f.rsv.bad (bitsOf v f.lo f.w)
  | .wo => bitsOf v f.lo f.w != 0 && f.rsv.bad (bitsOf v f.lo f.w)
  | _ => false

theorem Machine.Fld.after_lt (f : Fld) (v : Nat) {b : Nat} (h : b < 2 ^ f.w) : f.after v b < 2 ^ f.w := by
  have hx := bitsOf_lt v f.lo f.w
  unfold Fld.after
  split
  · split <;> assumption
  · omega
  · omega
  · exact h

theorem Machine.Fld.afterShadow_lt (f : Fld) (v : Nat) {b : Nat} (h : b < 2 ^ f.w) : f.afterShadow v b < 2 ^ f.w := by
  have hx := bitsOf_lt v f.lo f.w
  unfold Fld.afterShadow
  split
  · split <;> assumption
  · exact h

theorem bitsOf_mul_le (a lo w : Nat) : bitsOf a lo w * 2 ^ lo ≤ a :=
  (Nat.mul_le_mul_right _ (Nat.mod_le _ _)).trans (Nat.div_mul_le_self a (2 ^ lo))

theorem putBits_bitsOf (a lo w : Nat) : putBits a lo w (bitsOf a lo w) = a := by
  have := bitsOf_mul_le a lo w
  rw [putBits, Nat.mod_eq_of_lt (bitsOf_lt a lo w)]
  omega

theorem putBits_clear (a lo w x : Nat) :
    putBits a lo w (bitsOf a lo w - (bitsOf a lo w &&& x)) = a - (bitsOf a lo w &&& x) * 2 ^ lo := by
  have h1 := bitsOf_mul_le a lo w
  have h2 : bitsOf a lo w &&& x ≤ bitsOf a lo w := Nat.and_le_left
  have h3 := bitsOf_lt a lo w
  rw [putBits, Nat.mod_eq_of_lt (by omega), Nat.sub_mul]
  have := Nat.mul_le_mul_right (2 ^ lo) h2
  omega

theorem Machine.Fld.write_eq (f : Fld) (v a sh : Nat) (bad : Bool) :
    f.write v (a, sh, bad) = (putBits a f.lo f.w (f.after v (bitsOf a f.lo f.w)), putBits sh f.lo f.w (f.afterShadow v (bitsOf sh f.lo f.w)), bad || f.reserved v) := by
  unfold Fld.write Fld.after Fld.afterShadow Fld.reserved
  cases f.ty <;> dsimp only
  case rw =>
    rw [if_neg (c := RTy.rw = RTy.sh) (by decide), putBits_bitsOf]
    cases f.rsv.bad (bitsOf v f.lo f.w)
    · simp
    · simp [putBits_bitsOf]
  case sh =>
    rw [if_pos (c := RTy.sh = RTy.sh) rfl, putBits_bitsOf]
    cases f.rsv.bad (bitsOf v f.lo f.w)
    · simp
    · simp [putBits_bitsOf]
  case w1c => rw [if_neg (by decide), putBits_bitsOf, putBits_clear, Bool.or_false]
  case roc => rw [if_neg (by decide), putBits_bitsOf, putBits_clear, Bool.or_false]
  case wo => rw [if_neg (by decide), putBits_bitsOf, putBits_bitsOf]
  case ro => rw [if_neg (by decide), putBits_bitsOf, putBits_bitsOf, Bool.or_false]

/-! ### All fields of a register -/

theorem putBits_lt {a lo w x : Nat} (ha : a < 2 ^ 32) (h : lo + w ≤ 32) : putBits a lo w x < 2 ^ 32 := by
  refine Nat.lt_pow_two_of_testBit _ fun i hi => ?_
  rw [testBit_putBits, if_neg (by omega)]
  exact Nat.testBit_lt_two_pow (lt_of_lt_of_le ha (Nat.pow_le_pow_right (by decide) hi))

/-- Two fields share no bit. -/
abbrev bitsApart (f g : Fld) : Prop := f.lo + f.w ≤ g.lo ∨ g.lo + g.w ≤ f.lo

theorem bitsOf_putBits_apart {f g : Fld} (h : bitsApart f g) (a x : Nat) : bitsOf (putBits a f.lo f.w x) g.lo g.w = bitsOf a g.lo g.w := by
  rcases h with h | h
  · exact bitsOf_putBits_above _ _ _ _ _ _ h
  · exact bitsOf_putBits_below _ _ _ _ _ _ h

/-- Fields written one after another, none sharing a bit with another: each takes its part. -/
theorem writeList_reads (v : Nat) (l : List (Fld × List Nat)) (hp : l.Pairwise fun f g => bitsApart f.1 g.1)
    (hw : ∀ f ∈ l, f.1.lo + f.1.w ≤ 32) (a sh : Nat) (bad : Bool) (ha : a < 2 ^ 32) (hs : sh < 2 ^ 32) :
    let r := l.foldl (fun acc f => f.1.write v acc) (a, sh, bad)
    r.1 < 2 ^ 32 ∧ r.2.1 < 2 ^ 32 ∧ (r.2.2 = true ↔ bad = true ∨ ∃ f ∈ l, f.1.reserved v = true) ∧
    (∀ g : Fld, (∀ f ∈ l, bitsApart f.1 g) → bitsOf r.1 g.lo g.w = bitsOf a g.lo g.w ∧ bitsOf r.2.1 g.lo g.w = bitsOf sh g.lo g.w) ∧
    ∀ f ∈ l, bitsOf r.1 f.1.lo f.1.w = f.1.after v (bitsOf a f.1.lo f.1.w) ∧
      bitsOf r.2.1 f.1.lo f.1.w = f.1.afterShadow v (bitsOf sh f.1.lo f.1.w) := by
  induction l generalizing a sh bad with
  | nil => exact ⟨ha, hs, by simp, fun g _ => ⟨rfl, rfl⟩, fun f hf => absurd hf List.not_mem_nil⟩
  | cons x l ih =>
    obtain ⟨hx, hl⟩ := List.pairwise_cons.1 hp
    have hw0 := hw x (List.mem_cons_self ..)
    rw [List.foldl_cons, Fld.write_eq]
    obtain ⟨i1, i2, i3, i4, i5⟩ := ih hl (fun f hf => hw f (List.mem_cons_of_mem _ hf)) _ _ (bad || x.1.reserved v) (putBits_lt (x := x.1.after v (bitsOf a x.1.lo x.1.w)) ha hw0)
      (putBits_lt (x := x.1.afterShadow v (bitsOf sh x.1.lo x.1.w)) hs hw0)
    refine ⟨i1, i2, i3.trans ?_, fun g hg => ?_, fun f hf => ?_⟩
    · simp only [Bool.or_eq_true, List.mem_cons, exists_eq_or_imp, or_assoc]
    · have h0 := hg x (List.mem_cons_self ..)
      obtain ⟨j1, j2⟩ := i4 g fun f hf => hg f (List.mem_cons_of_mem _ hf)
      exact ⟨j1.trans (bitsOf_putBits_apart h0 _ _), j2.trans (bitsOf_putBits_apart h0 _ _)⟩
    · rcases List.mem_cons.1 hf with rfl | hf
      · obtain ⟨j1, j2⟩ := i4 f.1 fun g hg => (hx g hg).symm
        rw [j1, j2, bitsOf_putBits_same, bitsOf_putBits_same, Nat.mod_eq_of_lt (f.1.after_lt v (bitsOf_lt _ _ _)),
          Nat.mod_eq_of_lt (f.1.afterShadow_lt v (bitsOf_lt _ _ _))]
        exact ⟨rfl, rfl⟩
      · obtain ⟨j1, j2⟩ := i5 f hf
        rw [j1, j2, bitsOf_putBits_apart (hx f hf), bitsOf_putBits_apart (hx f hf)]
        exact ⟨rfl, rfl⟩

/-! ### The fields of a register -/

theorem dimIndex_off (l : List (Nat × Nat)) (r : Nat) {ix : List Nat} (h : dimIndex l r = some ix) :
    (List.zipWith (fun (d : Nat × Nat) i => d.1 * i) l ix).sum = r := by
  induction l generalizing r ix with
  | nil =>
    unfold dimIndex at h
    split at h
    · rename_i hr
      rw [hr]
      simp
    · exact absurd h (by simp)
  | cons d l ih =>
    obtain ⟨st, n⟩ := d
    unfold dimIndex at h
    split at h
    · obtain ⟨jx, hj, rfl⟩ := Option.map_eq_some_iff.1 h
      rw [List.zipWith_cons_cons, List.sum_cons, ih _ hj]
      exact Nat.div_add_mod r st
    · exact absurd h (by simp)

theorem index_off {f : Fld} {off : Nat} {ix : List Nat} (h : f.index off = some ix) : f.off ix = off := by
  unfold Fld.index at h
  split at h
  · exact absurd h (by simp)
  · rw [Fld.off, dimIndex_off _ _ h]
    omega

theorem mem_fieldsAt {off : Nat} {x : Fld × List Nat} (h : x ∈ fieldsAt off) : x.1 ∈ allFields ∧ x.1.off x.2 = off := by
  unfold fieldsAt at h
  obtain ⟨f, hf, hx⟩ := List.mem_filterMap.1 h
  obtain ⟨ix, hi, rfl⟩ := Option.map_eq_some_iff.1 hx
  exact ⟨hf, index_off hi⟩

theorem allFields_fit : ∀ f ∈ allFields, f.lo + f.w ≤ 32 := by decide +kernel

theorem fieldsApart_iff {off : Nat} (h : fieldsApart off = true) : (fieldsAt off).Pairwise fun f g => bitsApart f.1 g.1 := by
  unfold fieldsApart at h
  exact of_decide_eq_true h

theorem reg_plainWrite (d : Dev) {off : Nat} (h : Plain off) (v o : Nat) :
    (o = off → ((d.plainWrite off v).reg o).toNat = (writeFold off v (d.reg off).toNat (d.shadowReg off).toNat).1 % 2 ^ 32) ∧
    (o ≠ off → o ≠ F.RSVD_WRITE.off [] → (d.plainWrite off v).reg o = d.reg o) ∧
    (plainBad d off v = true → (d.plainWrite off v).get F.RSVD_WRITE = 1) := by
  have hne : off ≠ F.RSVD_WRITE.off [] := by
    have hr := h.ruled
    simp only [List.mem_cons, not_or] at hr
    exact hr.2.2.2.2.2.2.2.2.2.1
  have hreg : ∀ o, (d.plainWrite off v).reg o = (if plainBad d off v then (plainRegs d off v).put0 F.RSVD_WRITE 1 else plainRegs d off v).reg o := fun o => by
    rw [plainWrite_eq]
    rfl
  have hx : ∀ o, (plainRegs d off v).reg o = if o = off then BitVec.ofNat 32 (writeFold off v (d.reg off).toNat (d.shadowReg off).toNat).1 else d.reg o :=
    fun o => Dev.reg_setReg _ _ _ _
  generalize plainRegs d off v = x at hreg hx
  refine ⟨?_, fun h1 h2 => ?_, fun hb => ?_⟩
  · rintro rfl
    rw [hreg]
    split
    · rw [Dev.put0, Dev.reg_put_ne _ _ _ _ _ hne, hx, if_pos rfl, BitVec.toNat_ofNat]
    · rw [hx, if_pos rfl, BitVec.toNat_ofNat]
  · rw [hreg]
    split
    · rw [Dev.put0, Dev.reg_put_ne _ _ _ _ _ h2, hx, if_neg h1]
    · rw [hx, if_neg h1]
  · have hg : (d.plainWrite off v).get F.RSVD_WRITE = (x.put0 F.RSVD_WRITE 1).get F.RSVD_WRITE := by
      unfold Dev.get
      rw [hreg, if_pos hb]
    rw [hg]
    exact Dev.get_put0_fit _ (by decide) (by decide)

theorem shadowReg_plainWrite (d : Dev) {off : Nat} (v : Nat) (h : shadowed off = true) :
    ((d.plainWrite off v).shadowReg off).toNat = (writeFold off v (d.reg off).toNat (d.shadowReg off).toNat).2.1 % 2 ^ 32 := by
  have : (d.plainWrite off v).shadowReg off = BitVec.ofNat 32 (writeFold off v (d.reg off).toNat (d.shadowReg off).toNat).2.1 := by
    rw [plainWrite_eq]
    unfold plainShadow
    rw [if_pos h]
    exact Tab.get_set_same (regDefault off) d.shadow off _
  rw [this, BitVec.toNat_ofNat]

/-- The plain effect of a write: each field of the register takes its part, and a reserved encoding is flagged. -/
theorem plainWrite_reads (d : Dev) {off : Nat} (h : Plain off) (ha : fieldsApart off = true) (v : Nat) :
    let e := d.plainWrite off v
    (∀ x ∈ fieldsAt off, FieldTakes d e off v x.1 x.2) ∧
    (∀ o, o ≠ off → o ≠ F.RSVD_WRITE.off [] → e.reg o = d.reg o) ∧
    ((∃ x ∈ fieldsAt off, (x.1.ty = .rw ∨ x.1.ty = .sh) ∧ x.1.rsv.bad (bitsOf v x.1.lo x.1.w) = true) → e.get F.RSVD_WRITE = 1) ∧
    e = { d with regs := e.regs, shadow := e.shadow } := by
  intro e
  obtain ⟨w1, w2, w3, -, w5⟩ := writeList_reads v (fieldsAt off) (fieldsApart_iff ha) (fun f hf => allFields_fit _ (mem_fieldsAt hf).1)
    (d.reg off).toNat (d.shadowReg off).toNat false (d.reg off).isLt (d.shadowReg off).isLt
  change (writeFold off v (d.reg off).toNat (d.shadowReg off).toNat).1 < _ at w1
  change (writeFold off v (d.reg off).toNat (d.shadowReg off).toNat).2.1 < _ at w2
  change plainBad d off v = true ↔ _ at w3
  refine ⟨fun x hx => ?_, fun o => (reg_plainWrite d h v o).2.1, ?_, plainWrite_rest d off v⟩
  · obtain ⟨-, ho⟩ := mem_fieldsAt hx
    obtain ⟨k1, k2⟩ := w5 x hx
    have hd : d.get x.1 x.2 = bitsOf (d.reg off).toNat x.1.lo x.1.w := by unfold Dev.get; rw [ho]
    have hg : e.get x.1 x.2 = x.1.after v (d.get x.1 x.2) := by
      have : e.get x.1 x.2 = bitsOf (e.reg off).toNat x.1.lo x.1.w := by unfold Dev.get; rw [ho]
      rw [this, (reg_plainWrite d h v off).1 rfl, Nat.mod_eq_of_lt w1, hd]
      exact k1
    have hs : x.1.ty = .sh → bitsOf (e.shadowReg off).toNat x.1.lo x.1.w = x.1.afterShadow v (bitsOf (d.shadowReg off).toNat x.1.lo x.1.w) := fun ht => by
      rw [shadowReg_plainWrite d v (List.any_eq_true.2 ⟨x, hx, by rw [ht]; rfl⟩), Nat.mod_eq_of_lt w2]
      exact k2
    have hty := h.noTrigger x hx
    unfold FieldTakes
    unfold Fld.after at hg
    unfold Fld.afterShadow at hs
    dsimp only
    cases ht : x.1.ty <;> rw [ht] at hg hs <;> dsimp only at hg ⊢
    case sh =>
      have hs := hs rfl
      rw [if_pos rfl] at hs
      exact ⟨hg, hs⟩
    all_goals exact hg
  · rintro ⟨x, hx, ht, hb⟩
    refine (reg_plainWrite d h v off).2.2 (w3.2 (.inr ⟨x, hx, ?_⟩))
    unfold Fld.reserved
    rcases ht with ht | ht <;> rw [ht] <;> exact hb

/-! ### Narrow writes -/

theorem not_doorbell {d : Dev} {req : Req} {off a : Nat} (h : d.accessOff req off = some a) : req.isDoorbell = false := by
  cases req
  case pfDb => exact absurd h (by simp [Dev.accessOff])
  case vfDb => exact absurd h (by simp [Dev.accessOff])
  all_goals rfl

theorem writeSized_word {d : Dev} {req : Req} {off a : Nat} (h : d.accessOff req off = some a) (ho : off % 4 = 0) {v : Nat} (hv : v < 2 ^ 32) :
    d.writeSized req off 4 v = d.writeReg req off v := by
  unfold Dev.writeSized
  rw [if_neg (by rw [not_doorbell h]; decide), if_pos ⟨rfl, ho⟩, Nat.mod_eq_of_lt hv]

theorem writeSized_narrow {d : Dev} {req : Req} {off a : Nat} (h : d.accessOff req off = some a) (ho : off % 4 = 0) {size : Nat}
    (hs : size = 1 ∨ size = 2) (v : Nat) : d.writeSized req off size v = d.narrowWrite req off := by
  have hf : (List.range 3).filter (fun i => decide (off / 4 * 4 + 4 * i < off + size)) = [0] := by
    have h0 : off / 4 * 4 = off := by omega
    rw [h0]
    rcases hs with rfl | rfl <;> simp [List.range, List.range.loop]
  unfold Dev.writeSized
  rw [if_neg (by rw [not_doorbell h]; decide), if_neg (by omega), if_neg (by omega), if_pos (by omega), hf, Dev.forEach, List.foldl_cons, List.foldl_nil]
  rw [show off / 4 * 4 + 4 * 0 = off by omega]

/-- What follows a narrow write in the configuration of a queue that is in use. -/
def narrowQueue (s : Dev) (a : Nat) : Dev :=
  match queueCfg a with
  | some k => if s.get F.Q_STATE (qix k) ≠ 0 ∨ (s.queue k).enabling then s.put F.CFG_IGNORED (qix k) 1 else s
  | none => s

theorem narrowWrite_served {d : Dev} {req : Req} {off a : Nat} (h : Served d req off a) (hf : (fieldsAt a).isEmpty = false) :
    d.narrowWrite req off = narrowQueue (d.put0 F.WIDTH_ERR 1) a := by
  obtain ⟨h1, h2, h3⟩ := h
  have hr : regThere req off a = true := by unfold regThere; rw [hf]; rfl
  unfold Dev.narrowWrite
  rw [h1]
  dsimp only
  rw [h3, if_neg (by decide), hr, if_neg (by decide)]
  rfl

theorem widthErr_off (k : Nat) : ∀ f ∈ [F.Q_STATE, F.CFG_IGNORED], f.off (qix k) ≠ F.WIDTH_ERR.off [] := by
  intro f hf
  simp only [List.mem_cons, List.not_mem_nil, or_false] at hf
  rcases hf with rfl | rfl <;> simp only [Fld.off, qix, List.zipWith_cons_cons, List.zipWith_nil_left, List.sum_cons, List.sum_nil] <;> omega

theorem queueState_widthErr (d : Dev) (k : Nat) : (d.put0 F.WIDTH_ERR 1).get F.Q_STATE (qix k) = d.get F.Q_STATE (qix k) :=
  Dev.get_put0_apart _ _ (apart_of_off (widthErr_off k F.Q_STATE (by simp)) (by decide))

/-- A narrow write to a register of no queue that is in use sets the flag only. -/
theorem narrowQueue_idle {d : Dev} {a : Nat} (h : ∀ k, queueCfg a = some k → d.get F.Q_STATE (qix k) = 0 ∧ (d.queue k).enabling = false) :
    narrowQueue (d.put0 F.WIDTH_ERR 1) a = d.put0 F.WIDTH_ERR 1 := by
  unfold narrowQueue
  split
  · rename_i k hk
    obtain ⟨h1, h2⟩ := h k hk
    rw [queueState_widthErr, h1, show ((d.put0 F.WIDTH_ERR 1).queue k).enabling = false from h2]
    exact if_neg (by simp)
  · rfl

/-- One to the configuration of a queue in use sets the queue's flag too. -/
theorem narrowQueue_used {d : Dev} {a k : Nat} (hk : queueCfg a = some k) (h : d.get F.Q_STATE (qix k) ≠ 0 ∨ (d.queue k).enabling = true) :
    narrowQueue (d.put0 F.WIDTH_ERR 1) a = (d.put0 F.WIDTH_ERR 1).put F.CFG_IGNORED (qix k) 1 := by
  unfold narrowQueue
  rw [hk]
  dsimp only
  rw [queueState_widthErr]
  exact if_pos h

/-- Settles O14: each field takes what its type says; narrow writes, writes of a VF that may not, and writes to a dead die only flag. -/
theorem registerWriteByType : Obligations.RegisterWriteByType := by
  unfold Obligations.RegisterWriteByType
  refine fun d req off a v hp ho hv => ⟨fun hm hpl hl hh ha => ?_, fun hs ⟨n, hn⟩ hvf hx => ?_, fun hs hf size hsz => ⟨fun hq => ?_, fun k hk hq => ?_⟩, fun hs hn hg => ?_⟩
  · refine gives_of_onDev (·.writeSized req off 4 v) (fun _ => rfl) hp ?_
    have h := plainReg_iff hpl
    rw [writeSized_word hm.1.1 ho hv, writeReg_may hm, writeAt_plain d req h hl hh]
    exact plainWrite_reads d h ha v
  · refine gives_of_onDev (·.writeSized req off 4 v) (fun _ => rfl) hp ?_
    rw [writeSized_word hs.1 ho hv]
    unfold Dev.writeReg
    rw [hs.1, hn]
    dsimp only
    rw [if_neg hx, hvf]
    rfl
  · refine gives_of_onDev (·.writeSized req off size v) (fun _ => rfl) hp ?_
    rw [writeSized_narrow hs.1 ho hsz, narrowWrite_served hs hf, narrowQueue_idle hq]
    exact ⟨Dev.get_put0_fit _ (by decide) (by decide), onlyFields_put0 _ (onlyFields_refl _ d) (by simp), onlyRegs_put0 _ _ _⟩
  · refine gives_of_onDev (·.writeSized req off size v) (fun _ => rfl) hp ?_
    rw [writeSized_narrow hs.1 ho hsz, narrowWrite_served hs hf, narrowQueue_used hk hq]
    refine ⟨?_, Dev.get_put_fit _ (by decide) (by decide), onlyFields_put _ (onlyFields_put0 _ (onlyFields_refl _ d) (by simp)) (by simp),
      onlyRegs_trans (onlyRegs_put0 _ _ _) (onlyRegs_put _ _ _ _)⟩
    rw [Dev.get_put_apart _ _ (apart_of_off (widthErr_off k F.CFG_IGNORED (by simp)).symm (by decide))]
    exact Dev.get_put0_fit _ (by decide) (by decide)
  · refine gives_of_onDev (·.writeSized req off 4 v) (fun _ => rfl) hp ?_
    have he : d.writeReg req off v = d.put0 F.DIE_ACCESS 1 := by
      unfold Dev.writeReg
      rw [hs]
      dsimp only
      split
      · rename_i n
        exact absurd rfl (hn n)
      · rw [hg]
    rw [writeSized_word hs ho hv, he]
    exact ⟨Dev.get_put0_fit _ (by decide) (by decide), onlyFields_put0 _ (onlyFields_refl _ d) (by simp), onlyRegs_put0 _ _ _⟩

/-! ### Chain requests -/

theorem send_dUp {d : Dev} (hd : d.dUp = true) (ha : d.get F.CHAIN_ADDR ≠ 0) (typ sub dst tag : Nat) (data : List Word) :
    d.send typ sub dst tag data = { d with chain := { d.chain with txD := txInsert ⟨false, d.ownFrame typ sub dst tag data⟩ d.chain.txD } } := by
  unfold Dev.send
  rw [if_neg (by simp [ha])]
  unfold Dev.txPrimary
  rw [if_pos hd]
  rfl

theorem chainOffs_one {f : Frame} (h : bitsOf (wordAt f.data 1) 0 4 = 0) : chainOffs f = [4 * bitsOf (wordAt f.data 0) 2 24] := by
  unfold chainOffs
  rw [h]
  simp [Nat.mul_comm]

/-- Settles O16: a chain request for one served register is answered to its sender with OK, and a write then takes effect. -/
theorem chainRegisterAccess : Obligations.ChainRegisterAccess := by
  unfold Obligations.ChainRegisterAccess
  intro d port f hp hb hd hj h1 off answer hg
  have hoff : chainOffs f = [off] := chainOffs_one h1
  refine ⟨fun hr hl hc => ?_, fun hr hpl hl hh => ?_⟩
  · refine gives_of_onDev (fun d => d.receive (port % 2) f (·.chainRead f) id (·.forward f)) (fun _ => rfl) hp ?_
    have ha : d.get F.CHAIN_ADDR ≠ 0 := hr.2.2.2.2.2.2.1
    have ht : f.typ = tyRdReq := hr.2.2.1
    dsimp only
    rw [receive_arrives _ _ _ hr (by decide) (by decide), if_neg hb]
    unfold Dev.chainRead
    rw [if_neg (by rw [ht]; exact fun h => h.elim (fun h => h rfl) hb), hj]
    dsimp only
    rw [if_neg (by simp), hoff, List.foldl_cons, List.foldl_nil]
    dsimp only
    rw [hg, if_neg (by decide), readServed_plain hl hc]
    unfold Dev.respond
    rw [if_neg hb, send_dUp hd ha]
    rfl
  · refine gives_of_onDev (fun d => d.receive (port % 2) f (·.chainWrite f) (·.wrHome f) (·.forward f)) (fun _ => rfl) hp ?_
    have ha : d.get F.CHAIN_ADDR ≠ 0 := hr.2.2.2.2.2.2.1
    have ht : f.typ = tyWrReq := hr.2.2.1
    have hlt : off < 2 ^ 26 := by have := bitsOf_lt (wordAt f.data 0) 2 24; omega
    obtain ⟨s1, hs1⟩ : ∃ s1 : Dev, s1 = { d with chain := { d.chain with txD := answer tyWrRsp [BitVec.ofNat 32 stOK] } } := ⟨_, rfl⟩
    have h2 : s1.regs = d.regs ∧ s1.shadow = d.shadow ∧ s1.gate off = .serve ∧ s1 = { d with chain := s1.chain } := by
      rw [hs1]
      exact ⟨rfl, rfl, hg, rfl⟩
    have hm : MayWrite s1 (.chain f.src) off off := by
      refine ⟨⟨?_, rfl, h2.2.2.1⟩, fun n hn => absurd hn (by simp)⟩
      unfold Dev.accessOff
      exact if_pos hlt
    dsimp only
    rw [receive_arrives _ _ _ hr (by decide) (by decide), if_neg hb]
    have he : d.chainWrite f = s1.plainWrite off (wordAt f.data 2) := by
      unfold Dev.chainWrite
      rw [if_neg (by rw [ht]; exact fun h => h rfl), hj]
      dsimp only
      rw [if_neg (by simp), hoff]
      unfold Dev.respond
      rw [if_neg hb, send_dUp hd ha, ← hs1]
      change s1.writeReg (.chain f.src) off (wordAt f.data 2) = _
      rw [writeReg_may hm, writeAt_plain s1 _ (plainReg_iff hpl) hl hh]
    rw [he]
    have hr := plainWrite_rest s1 off (wordAt f.data 2)
    obtain ⟨c1, -⟩ := plainWrite_congr h2.1 h2.2.1 off (wordAt f.data 2)
    generalize s1.plainWrite off (wordAt f.data 2) = e at hr c1
    have hc : e.chain = s1.chain := by rw [hr]
    refine ⟨by rw [hc, hs1], c1, ?_⟩
    rw [hc]
    rw [h2.2.2.2] at hr
    exact hr

end Sys2Proof
end

section
/-! SUPPORT. Forwarding of chain frames and the mailboxes (04 R119 to R123, R133, R137 to R139, R148). -/

namespace Sys2Proof

open Machine

/-! ### Forwarding -/

theorem get_count_fit (s : Dev) {f : Fld} (hw : f.lo + f.w ≤ 32) (h32 : f.w = 32) (ix : List Nat) :
    (s.count f ix).get f ix = min (s.get f ix + 1) (2 ^ 32 - 1) := by
  rw [Dev.get_count_same _ _ _ hw, h32]

theorem delayed_hops (f : Frame) (n : Nat) : (f.delayed n).hops = f.hops := by
  unfold Frame.delayed
  split <;> rfl

theorem receive_badCrc {d : Dev} {f : Frame} (port : Nat) (act home onward : Dev → Dev) (hop : Nat) (h : f.crcOk = false) :
    d.receive port f act home onward hop = d.count F.CRC_ERR_COUNT := by
  unfold Dev.receive
  rw [h]
  rfl

theorem receive_badFormat {d : Dev} {f : Frame} (port : Nat) (act home onward : Dev → Dev) (hop : Nat) (h : f.crcOk = true) (hb : f.bad = true) :
    d.receive port f act home onward hop = d.count F.FORMAT_ERR_COUNT := by
  unfold Dev.receive
  rw [h, hb]
  rfl

/-- A sound frame that is no RING frame, on a port that carries traffic: an orphan, on the reverse path, or on the primary path. -/
theorem receive_sound {d : Dev} {f : Frame} {port : Nat} (act home onward : Dev → Dev) (hop : Nat) (h : f.crcOk = true) (hb : f.bad = false)
    (hr : f.typ ≠ tyRing) (hc : d.carries port = true) :
    d.receive port f act home onward hop = if 252 ≤ f.hops then d.count F.ORPHAN_COUNT
      else if port = portD ∧ d.uUp then d.passReverse f hop
      else if f.typ = tyEnum then act d
      else if f.dst = bcast then (if d.get F.CHAIN_ADDR ≠ 0 ∧ f.src = d.get F.CHAIN_ADDR then home d else onward (act d))
      else if d.get F.CHAIN_ADDR ≠ 0 ∧ f.dst = d.get F.CHAIN_ADDR then act d else onward d := by
  unfold Dev.receive
  rw [h, hb, hc, if_neg (by decide), if_neg (by decide), if_neg hr, if_neg (by decide)]

theorem forward_reads (d : Dev) (f : Frame) :
    d.forward f = { d with chain := { d.chain with
      txD := if d.dUp then txInsert ⟨true, { f with hops := f.hops + 1 }⟩ d.chain.txD else d.chain.txD
      txU := if !d.dUp && d.uUp then txInsert ⟨true, { f with hops := f.hops + 1 }⟩ d.chain.txU else d.chain.txU } } := by
  unfold Dev.forward Dev.txPrimary
  cases d.dUp <;> cases d.uUp <;> rfl

/-- Settles O9: bad and orphaned frames are counted and dropped; any other goes on, one hop further. -/
theorem chainForwarding : Obligations.ChainForwarding := by
  unfold Obligations.ChainForwarding
  refine fun d port f link stay hp => ⟨fun h => ?_, fun h hb => ?_, fun h hb hr hc => ⟨fun ho => ?_, fun ho he hd hm hn => ?_, fun ho hpd hu => ?_⟩⟩
  all_goals refine gives_of_onDev (·.chainFrame (port % 2) f (link + stay)) (fun _ => rfl) hp ?_
  all_goals unfold Dev.chainFrame
  · rw [receive_badCrc _ _ _ _ _ h]
    exact ⟨get_count_fit d (by decide) rfl [], onlyFields_count (onlyFields_refl _ d) (by simp), onlyRegs_count _ _ _⟩
  · rw [receive_badFormat _ _ _ _ _ h hb]
    exact ⟨get_count_fit d (by decide) rfl [], onlyFields_count (onlyFields_refl _ d) (by simp), onlyRegs_count _ _ _⟩
  · rw [receive_sound _ _ _ _ h hb hr hc, if_pos ho]
    exact ⟨get_count_fit d (by decide) rfl [], onlyFields_count (onlyFields_refl _ d) (by simp), onlyRegs_count _ _ _⟩
  · rw [receive_sound _ _ _ _ h hb hr hc, if_neg (by omega), if_neg hn, if_neg he, if_neg hd, if_neg fun h => hm h.2, forward_reads, delayed_hops]
  · rw [receive_sound _ _ _ _ h hb hr hc, if_neg (by omega), if_pos ⟨hpd, hu⟩]
    rfl

/-! ### Mailboxes -/

theorem mem_txInsert (e x : TxEnt) (l : List TxEnt) : x ∈ txInsert e l ↔ x = e ∨ x ∈ l := by
  induction l with
  | nil => simp [txInsert]
  | cons y l ih =>
    unfold txInsert
    split
    · simp
    · simp only [List.mem_cons, ih]
      tauto

theorem mb_apart {n : Nat} (hn : n < 4) : ∀ f ∈ [F.MB_STATE, F.MB_STATUS], ∀ g ∈ [F.CHAIN_ADDR, F.U_STATE, F.D_STATE, F.CHAIN_ADDR_ID],
    Fld.apart f [n] g [] = true := by
  have key : ∀ n < 4, ∀ f ∈ [F.MB_STATE, F.MB_STATUS], ∀ g ∈ [F.CHAIN_ADDR, F.U_STATE, F.D_STATE, F.CHAIN_ADDR_ID],
    Fld.apart f [n] g [] = true := by decide
  exact key n hn

theorem mailDone_reads (s : Dev) {n st : Nat} (hst : st < 16) :
    (s.mailDone n st).get F.MB_STATE [n] = 2 ∧ (s.mailDone n st).get F.MB_STATUS [n] = st ∧
    OnlyFields [(F.MB_STATE, [n]), (F.MB_STATUS, [n])] s (s.mailDone n st) ∧ OnlyRegs s (s.mailDone n st) := by
  refine ⟨?_, Dev.get_put_fit _ (by decide) hst, onlyFields_put _ (onlyFields_put _ (onlyFields_refl _ s) (by simp)) (by simp), rfl⟩
  unfold Dev.mailDone
  rw [Dev.get_put_apart _ _ (apart_of_bits (by decide) (by decide))]
  exact Dev.get_put_fit _ (by decide) (by decide)

theorem chainGo_refuses {d : Dev} {n : Nat} (hn : n < 4) (hs : d.get F.MB_STATE [n] ≠ 1)
    (h : d.get F.MB_DST [n] = 0 ∨ (d.get F.MB_DST [n] = 127 ∧ d.get F.MB_WRITE [n] = 0)) : d.chainGo n = d.mailDone n stSTATE := by
  unfold Dev.chainGo
  rw [if_neg (by omega)]
  refine if_pos (h.symm.imp (fun h => ⟨h.1, ?_⟩) id)
  simp [Dev.flag, h.2]

theorem chainGo_sends {d : Dev} {n : Nat} (hn : n < 4) (hs : d.get F.MB_STATE [n] ≠ 1) (h0 : d.get F.MB_DST [n] ≠ 0)
    (h : d.get F.MB_DST [n] = 127 → d.get F.MB_WRITE [n] = 1) (ha : d.get F.CHAIN_ADDR ≠ 0) (hd : d.dUp = true) :
    let e := d.chainGo n
    e.get F.MB_STATE [n] = 1 ∧
    (∃ x ∈ e.chain.txD, x.frame.typ = (if d.get F.MB_WRITE [n] = 1 then tyWrReq else tyRdReq) ∧ x.frame.dst = d.get F.MB_DST [n] ∧ x.frame.tag = n ∧
      wordAt x.frame.data 0 = d.get F.MB_OFFSET [n] / 4 * 4 ∧ bitsOf (wordAt x.frame.data 1) 0 4 = d.get F.MB_COUNT [n]) ∧
    OnlyFields [(F.MB_STATE, [n])] d e ∧ OnlyTalk d e := by
  intro e
  obtain ⟨s1, hs1⟩ : ∃ s1, s1 = d.put F.MB_STATE [n] 1 := ⟨_, rfl⟩
  obtain ⟨data, hdata⟩ : ∃ l : List Word, l = if d.flag F.MB_WRITE [n] then (List.range (d.get F.MB_COUNT [n] + 1)).map fun i =>
      BitVec.ofNat 32 (d.get F.MB_DATA [n, i]) else [] := ⟨_, rfl⟩
  have he : e = s1.send (if d.flag F.MB_WRITE [n] then tyWrReq else tyRdReq) 0 (d.get F.MB_DST [n]) n
      ([BitVec.ofNat 32 (d.get F.MB_OFFSET [n] / 4 * 4), BitVec.ofNat 32 (d.get F.MB_COUNT [n] + 16 * d.get F.MB_WAKE [n])] ++ data) := by
    change d.chainGo n = _
    unfold Dev.chainGo
    rw [if_neg (by omega), hs1, hdata]
    refine if_neg ?_
    rintro (⟨h1, h2⟩ | h1)
    · rw [flag_of_one (h h1)] at h2
      exact absurd h2 (by decide)
    · exact h0 h1
  have k : OnlyFields [(F.MB_STATE, [n])] d s1 := by rw [hs1]; exact onlyFields_put _ (onlyFields_refl _ d) (by simp)
  have v : s1.get F.MB_STATE [n] = 1 := by rw [hs1]; exact Dev.get_put_fit _ (by decide) (by decide)
  have o : OnlyRegs d s1 := by rw [hs1]; exact onlyRegs_put _ _ _ _
  have hd1 : s1.dUp = true := by
    have : s1.get F.D_STATE = d.get F.D_STATE := k.get F.D_STATE [] (by simpa using mb_apart hn F.MB_STATE (by simp) F.D_STATE (by simp))
    unfold Dev.dUp
    rw [this]
    exact hd
  have ha1 : s1.get F.CHAIN_ADDR ≠ 0 := by
    rw [k.get F.CHAIN_ADDR [] (by simpa using mb_apart hn F.MB_STATE (by simp) F.CHAIN_ADDR (by simp))]
    exact ha
  rw [send_dUp hd1 ha1] at he
  have hr : e.regs = s1.regs := by rw [he]
  have hx : e.chain.txD = txInsert ⟨false, s1.ownFrame (if d.flag F.MB_WRITE [n] then tyWrReq else tyRdReq) 0 (d.get F.MB_DST [n]) n
      ([BitVec.ofNat 32 (d.get F.MB_OFFSET [n] / 4 * 4), BitVec.ofNat 32 (d.get F.MB_COUNT [n] + 16 * d.get F.MB_WAKE [n])] ++ data)⟩ s1.chain.txD := by
    rw [he]
  have hoff : d.get F.MB_OFFSET [n] < 2 ^ 26 := d.get_lt F.MB_OFFSET [n]
  have hcnt : d.get F.MB_COUNT [n] < 2 ^ 4 := d.get_lt F.MB_COUNT [n]
  have hwk : d.get F.MB_WAKE [n] < 2 ^ 1 := d.get_lt F.MB_WAKE [n]
  refine ⟨by rw [Dev.get_eq, hr, ← Dev.get_eq]; exact v, ⟨_, by rw [hx]; exact (mem_txInsert _ _ _).2 (.inl rfl), ?_, rfl, rfl, ?_, ?_⟩,
    onlyFields_trans k (onlyFields_of_regs hr), ?_⟩
  · change (if d.flag F.MB_WRITE [n] then tyWrReq else tyRdReq) = _
    unfold Dev.flag
    simp only [beq_iff_eq]
  · change (BitVec.ofNat 32 (d.get F.MB_OFFSET [n] / 4 * 4)).toNat = _
    rw [BitVec.toNat_ofNat, Nat.mod_eq_of_lt (by omega)]
  · change bitsOf (BitVec.ofNat 32 (d.get F.MB_COUNT [n] + 16 * d.get F.MB_WAKE [n])).toNat 0 4 = _
    rw [BitVec.toNat_ofNat, Nat.mod_eq_of_lt (by omega), bitsOf]
    omega
  · refine onlyTalk_trans (onlyTalk_regs o) ?_
    rw [he]
    rfl

/-- The answer's data words go to the mailbox, one each. -/
theorem mailData_reads (s : Dev) {n : Nat} (hn : n < 4) (m : Nat) (hm : m ≤ 16) (w : Nat → Nat) (hw : ∀ i, w i < 2 ^ 32) :
    let e := s.forEach (List.range m) fun s i => s.put F.MB_DATA [n, i] (w i)
    (∀ i < m, e.get F.MB_DATA [n, i] = w i) ∧ OnlyRegs s e := by
  have hap : ∀ n < 4, ∀ i < 16, ∀ j < 16, i ≠ j → Fld.apart F.MB_DATA [n, i] F.MB_DATA [n, j] = true := by decide
  induction m with
  | zero => exact ⟨fun i hi => absurd hi (Nat.not_lt_zero i), rfl⟩
  | succ m ih =>
    obtain ⟨i1, i2⟩ := ih (by omega)
    intro e
    have he : e = (s.forEach (List.range m) fun s i => s.put F.MB_DATA [n, i] (w i)).put F.MB_DATA [n, m] (w m) := by
      change Dev.forEach _ _ _ = _
      rw [Dev.forEach, List.range_succ, List.foldl_append]
      rfl
    generalize (s.forEach (List.range m) fun s i => s.put F.MB_DATA [n, i] (w i)) = x at i1 i2 he
    rw [he]
    refine ⟨fun i hi => ?_, onlyRegs_trans i2 (onlyRegs_put _ _ _ _)⟩
    rcases Nat.lt_succ_iff_lt_or_eq.1 hi with hlt | rfl
    · rw [Dev.get_put_apart _ _ (hap n hn m (by omega) i (by omega) (by omega)), i1 i hlt]
    · exact Dev.get_put_fit _ (by decide) (hw i)

theorem rdRsp_reads {d : Dev} {n : Nat} {f : Frame} (hn : n < 4) (ht : f.typ = tyRdRsp) (hg : f.tag = n) (hs : d.get F.MB_STATE [n] = 1)
    (hw : d.get F.MB_WRITE [n] = 0) :
    let e := d.rdRsp f
    (e.get F.MB_STATE [n] = 2 ∧ e.get F.MB_STATUS [n] = bitsOf (wordAt f.data 0) 0 4) ∧
    (bitsOf (wordAt f.data 0) 0 4 = stOK → ∀ i ≤ d.get F.MB_COUNT [n], e.get F.MB_DATA [n, i] = wordAt f.data (1 + i)) ∧ OnlyRegs d e := by
  intro e
  obtain ⟨st, hst⟩ : ∃ st, st = bitsOf (wordAt f.data 0) 0 4 := ⟨_, rfl⟩
  obtain ⟨s1, hs1⟩ : ∃ s1, s1 = if st = stOK then d.forEach (List.range (d.get F.MB_COUNT [n] + 1)) fun s i =>
      s.put F.MB_DATA [n, i] (wordAt f.data (1 + i)) else d := ⟨_, rfl⟩
  have hc : d.get F.MB_COUNT [n] < 16 := d.get_lt F.MB_COUNT [n]
  have hst16 : st < 16 := by rw [hst]; exact bitsOf_lt _ _ _
  have he : e = s1.mailDone n st := by
    change d.rdRsp f = _
    unfold Dev.rdRsp
    have ha : d.answers f false = true := by
      unfold Dev.answers Dev.flag
      rw [hg, hs, hw]
      simp [hn]
    rw [if_neg (by rw [ha, ht]; simp), hg, hs1, hst]
  obtain ⟨m1, m2, m3, m4⟩ := mailDone_reads s1 (n := n) hst16
  rw [← he] at m1 m2 m3 m4
  obtain ⟨d1, d2⟩ := mailData_reads d hn (d.get F.MB_COUNT [n] + 1) (by omega) (fun i => wordAt f.data (1 + i)) (fun i => BitVec.isLt _)
  rw [← hst]
  refine ⟨⟨m1, m2⟩, fun ho i hi => ?_, onlyRegs_trans ?_ m4⟩
  · have hap : ∀ n < 4, ∀ i < 16, ∀ x ∈ [(F.MB_STATE, [n]), (F.MB_STATUS, [n])], Fld.apart x.1 x.2 F.MB_DATA [n, i] = true := by decide
    rw [m3.get F.MB_DATA [n, i] (hap n hn i (by omega)), hs1, if_pos ho]
    exact d1 i (by omega)
  · rw [hs1]
    split
    · exact d2
    · exact onlyRegs_refl d

/-- Settles O13: a request ends at once, by its answer, or by its timeout, with the status of each. -/
theorem chainMailboxes : Obligations.ChainMailboxes := by
  unfold Obligations.ChainMailboxes
  intro d n hp hn ends
  refine ⟨fun hs => ⟨fun h => ?_, fun h0 h ha hd => ?_⟩, fun hs => ?_, fun port f hb hg hs => ⟨fun hr hw => ⟨?_, ?_⟩, fun hr hw => ⟨?_, ?_⟩⟩⟩
  · refine gives_of_onDev (·.chainGo n) (fun _ => rfl) hp ?_
    obtain ⟨m1, m2, m3, m4⟩ := mailDone_reads d (n := n) (st := stSTATE) (by decide)
    rw [chainGo_refuses hn hs h]
    exact ⟨⟨m1, m2⟩, m3, m4⟩
  · exact gives_of_onDev (·.chainGo n) (fun _ => rfl) hp (chainGo_sends hn hs h0 h ha hd)
  · refine gives_of_onDev (·.chainTimeout n) (fun _ => rfl) hp ?_
    obtain ⟨m1, m2, m3, m4⟩ := mailDone_reads d (n := n) (st := stFAULT) (by decide)
    unfold Dev.chainTimeout
    rw [if_pos ⟨hn, hs⟩]
    exact ⟨⟨m1, m2⟩, m3, m4⟩
  · refine gives_of_onDev (fun d => d.receive (port % 2) f (fun d => if false then d else d.rdRsp f) id (·.forward f)) (fun _ => rfl) hp ?_
    rw [receive_arrives _ _ _ hr (by decide) (by decide), if_neg hb]
    exact rdRsp_reads hn hr.2.2.1 hg hs hw
  · refine gives_of_onDev (fun d => d.receive (port % 2) f (fun d => if true then d else d.rdRsp f) id (·.forward f)) (fun _ => rfl) hp ?_
    rw [receive_arrives _ _ _ hr (by decide) (by decide), if_neg hb]
    rfl
  · refine gives_of_onDev (fun d => d.receive (port % 2) f (fun d => if false then d else d.wrRsp f) id (·.forward f)) (fun _ => rfl) hp ?_
    rw [receive_arrives _ _ _ hr (by decide) (by decide), if_neg hb]
    have hw' : (if (false : Bool) = true then d else d.wrRsp f) = d.mailDone n (bitsOf (wordAt f.data 0) 0 4) := by
      change d.wrRsp f = _
      have ha : d.answers f true = true := by
        unfold Dev.answers Dev.flag
        rw [hg, hs, hw]
        simp [hn]
      unfold Dev.wrRsp
      rw [if_neg (by rw [ha, hr.2.2.1]; simp), hg]
    rw [hw']
    obtain ⟨m1, m2, m3, m4⟩ := mailDone_reads d (n := n) (st := bitsOf (wordAt f.data 0) 0 4) (bitsOf_lt _ _ _)
    exact ⟨⟨m1, m2⟩, m3, m4⟩
  · refine gives_of_onDev (fun d => d.receive (port % 2) f (fun d => if true then d else d.wrRsp f) id (·.forward f)) (fun _ => rfl) hp ?_
    rw [receive_arrives _ _ _ hr (by decide) (by decide), if_neg hb]
    rfl

end Sys2Proof
end

section
/-! SUPPORT. Chain events and power messages (04 R142, Table 4.8; 18 R667; 19 R700, R701). -/

namespace Sys2Proof

open Machine

/-- An event or power frame that arrives: the unit's own action, then it may be sent on. -/
theorem receive_acts {d : Dev} {port typ : Nat} {f : Frame} (act : Dev → Dev) (sub : Nat) (h : Arrives d port typ f) (h1 : typ ≠ tyRing) (h2 : typ ≠ tyEnum)
    (hs : f.sub = sub) :
    OnlySends (act d) (d.receive port f (fun s => if f.typ = typ ∧ f.sub = sub then act s else s) id fun s => s.forward f) := by
  have hr := receive_forward (fun s => if f.typ = typ ∧ f.sub = sub then act s else s) id h h1 h2
  rwa [if_pos ⟨h.2.2.1, hs⟩] at hr

theorem gives_event {i : Instr} {d : Dev} {port sub : Nat} {f : Frame} {P : Dev → Prop} (act : Dev → Dev)
    (hi : ∀ s, exec i s = onDev (·.eventFrame (port % 2) f sub act) s) (hp : Powered d) (h : Arrives d (port % 2) tyEvent f) (hs : f.sub = sub)
    (hP : ∀ e, OnlySends (act d) e → P e) : Gives i d P :=
  gives_of_onDev (·.eventFrame (port % 2) f sub act) hi hp (hP _ (receive_acts act sub h (by decide) (by decide) hs))

theorem gives_power {i : Instr} {d : Dev} {port sub : Nat} {f : Frame} {P : Dev → Prop} (act : Dev → Dev)
    (hi : ∀ s, exec i s = onDev (·.powerFrame (port % 2) f sub act) s) (hp : Powered d) (h : Arrives d (port % 2) tyPower f) (hs : f.sub = sub)
    (hP : ∀ e, OnlySends (act d) e → P e) : Gives i d P :=
  gives_of_onDev (·.powerFrame (port % 2) f sub act) hi hp (hP _ (receive_acts act sub h (by decide) (by decide) hs))

/-- What an action leaves in registers stands when it is only sent on after it. -/
theorem OnlySends.fields {a b c : Dev} {l : List (Fld × List Nat)} (h : OnlySends b c) (hf : OnlyFields l a b) : OnlyFields l a c :=
  onlyFields_trans hf (onlyFields_of_regs h.regs)

/-- A frame handed to the unit stands in its list, and nothing else changes. -/
theorem handed_of_sends {d e : Dev} {f : Frame} (h : OnlySends (d.deliver f) e) :
    e.chain.inbox = d.chain.inbox ++ [f] ∧ e.regs = d.regs ∧ OnlyChain d e := by
  refine ⟨?_, h.regs, onlyChain_trans (onlyChain_chain d _) h.talk.chain⟩
  rw [h]
  rfl

theorem map128_lt {a : Nat} (h : a < 128) : a / 32 < 4 ∧ a % 32 < 32 := by omega

/-- The mark of a broken link: one bit of OPEN_BREAK. -/
theorem markBreak_reads (s : Dev) {a : Nat} (h : a < 128) (broken : Bool) :
    bitAt ((s.markBreak a broken).get F.OPEN_BREAK [a / 32]) (a % 32) = broken ∧
    OnlyFields [(F.OPEN_BREAK, [a / 32])] s (s.markBreak a broken) ∧ OnlyRegs s (s.markBreak a broken) := by
  have hb : putBits (s.get F.OPEN_BREAK [a / 32]) (a % 32) 1 (b2n broken) < 2 ^ F.OPEN_BREAK.w :=
    putBits_lt (s.get_lt F.OPEN_BREAK [a / 32]) (by omega)
  unfold Dev.markBreak
  rw [if_pos h]
  refine ⟨?_, onlyFields_put _ (onlyFields_refl _ s) (by simp), onlyRegs_put _ _ _ _⟩
  rw [Dev.get_put_fit _ (by decide) hb, bitAt_putBits_one, if_pos rfl]

theorem onDrain_reads (d : Dev) {f : Frame} (h : f.src < 128) :
    bitAt ((d.onDrain f).get F.DRAIN_SEEN [f.src / 32]) (f.src % 32) = bitAt (wordAt f.data 0) 0 ∧ (d.onDrain f).get F.DRAIN_SEEN_EV = 1 ∧
    OnlyFields [(F.DRAIN_SEEN, [f.src / 32]), (F.DRAIN_SEEN_EV, [])] d (d.onDrain f) ∧ OnlyTalk d (d.onDrain f) := by
  obtain ⟨s1, hs1⟩ : ∃ s1, s1 = d.put F.DRAIN_SEEN [f.src / 32] (putBits (d.get F.DRAIN_SEEN [f.src / 32]) (f.src % 32) 1
      (bitsOf (wordAt f.data 0) 0 1)) := ⟨_, rfl⟩
  have he : d.onDrain f = s1.event F.DRAIN_SEEN_EV F.PANEL_IRQ_EN 3 5 := by rw [hs1]; rfl
  have hap : ∀ i < 4, Fld.apart F.DRAIN_SEEN_EV [] F.DRAIN_SEEN [i] = true := by decide
  have hb : putBits (d.get F.DRAIN_SEEN [f.src / 32]) (f.src % 32) 1 (bitsOf (wordAt f.data 0) 0 1) < 2 ^ F.DRAIN_SEEN.w :=
    putBits_lt (d.get_lt F.DRAIN_SEEN [f.src / 32]) (by omega)
  have hbit : bitsOf (wordAt f.data 0) 0 1 = b2n (bitAt (wordAt f.data 0) 0) := by
    rw [bitsOf_one, bitAt_eq_testBit]
    cases (wordAt f.data 0).testBit 0 <;> rfl
  have h1 : bitAt (s1.get F.DRAIN_SEEN [f.src / 32]) (f.src % 32) = bitAt (wordAt f.data 0) 0 := by
    rw [hs1, Dev.get_put_fit _ (by decide) hb, hbit, bitAt_putBits_one, if_pos rfl]
  rw [he]
  refine ⟨by rw [Dev.get_event_apart _ _ _ _ (hap _ (map128_lt h).1)]; exact h1, Dev.get_event_same _ _ _ _ (by decide) (by decide), ?_, ?_⟩
  · rw [hs1]
    exact onlyFields_event _ _ _ (onlyFields_put _ (onlyFields_refl _ d) (by simp)) (by simp)
  · rw [hs1]
    exact onlyTalk_trans (onlyTalk_regs (onlyRegs_put _ _ _ _)) (onlyRegsIrq_event _ _ _ _ _).talk

/-- Settles O12: what each chain event and power message leaves in the unit that hears it. -/
theorem chainEvents : Obligations.ChainEvents := by
  unfold Obligations.ChainEvents
  intro d port f hp w handed
  refine ⟨fun h => ⟨fun hs hsrc => ?_, fun hs hsrc => ?_, fun hs hc hm => ?_, fun hs => ?_, fun hs => ?_, fun hs => ?_⟩,
    fun h => ⟨fun hs => ?_, fun hs => ?_, fun hs => ?_⟩, fun hr hms ha hd => ?_⟩
  · intro a
    have ha : a < 128 := by
      have := bitsOf_lt w 8 7
      change (if bitsOf w 0 1 = portD then f.src else bitsOf w 8 7) < 128
      split <;> omega
    refine gives_event (·.onBreak f) (fun _ => rfl) hp h hs fun e he => ?_
    obtain ⟨b1, b2, b3⟩ := markBreak_reads d ha true
    change OnlySends (d.markBreak a true) e at he
    exact ⟨by rw [he.get]; exact b1, he.fields b2, onlyTalk_trans (onlyTalk_regs b3) he.talk⟩
  · refine gives_event (·.onDrain f) (fun _ => rfl) hp h hs fun e he => ?_
    obtain ⟨b1, b2, b3, b4⟩ := onDrain_reads d hsrc
    exact ⟨by rw [he.get]; exact b1, by rw [he.get]; exact b2, he.fields b3, onlyTalk_trans b4 he.talk⟩
  · refine gives_event (·.unitGone f.src) (fun _ => rfl) hp h hs fun e he => ?_
    have hu : d.unitGone f.src = d.applyPart ⟨false, 0, f.src, 0, 0⟩ := by
      unfold Dev.unitGone
      rw [hc, List.contains_iff_mem.2 hm]
      rfl
    rw [hu] at he
    have hj := applyPart_unit d ⟨false, 0, f.src, 0, 0⟩ rfl
    have hj2 := hj.2
    refine ⟨?_, he.regs.trans hj.1.regs, onlyCad_trans (onlyCad_trans (onlyCad_cad d _) hj.1.onlyCad) he.talk.cad⟩
    rw [he.cad, hj2]
    rfl
  · exact gives_event (·.deliver f) (fun _ => rfl) hp h hs fun e he => handed_of_sends he
  · exact gives_event (·.deliver f) (fun _ => rfl) hp h hs fun e he => handed_of_sends he
  · exact gives_event (·.deliver f) (fun _ => rfl) hp h hs fun e he => handed_of_sends he
  · refine gives_power (fun d => d.put0 F.PWR_CAP_W (bitsOf (wordAt f.data 0) 0 16)) (fun _ => rfl) hp h hs fun e he => ?_
    exact ⟨by rw [he.get]; exact Dev.get_put0_fit _ (by decide) (bitsOf_lt _ _ _), he.fields (onlyFields_put0 _ (onlyFields_refl _ d) (by simp)),
      onlyTalk_trans (onlyTalk_regs (onlyRegs_put0 _ _ _)) he.talk⟩
  · exact gives_power (·.deliver f) (fun _ => rfl) hp h hs fun e he => handed_of_sends he
  · exact gives_power (·.deliver f) (fun _ => rfl) hp h hs fun e he => handed_of_sends he
  · refine gives_of_onDev Dev.sendReport (fun _ => rfl) hp ?_
    have hn : d.get F.PWR_NOW_W < 2 ^ 16 := d.get_lt F.PWR_NOW_W []
    have hcap : d.get F.PWR_CAP_W < 2 ^ 16 := d.get_lt F.PWR_CAP_W []
    unfold Dev.sendReport
    rw [if_neg (fun h => h.elim hr hms)]
    unfold Dev.sendPower
    rw [send_dUp hd ha]
    have hw0 : ∀ l : List Word, wordAt (BitVec.ofNat 32 (d.get F.PWR_NOW_W + d.get F.PWR_CAP_W * 2 ^ 16) :: l) 0 =
        d.get F.PWR_NOW_W + d.get F.PWR_CAP_W * 2 ^ 16 := fun l => by
      change (BitVec.ofNat 32 (d.get F.PWR_NOW_W + d.get F.PWR_CAP_W * 2 ^ 16)).toNat = _
      rw [BitVec.toNat_ofNat, Nat.mod_eq_of_lt (by omega)]
    refine ⟨⟨_, (mem_txInsert _ _ _).2 (.inl rfl), rfl, rfl, rfl, ?_, ?_⟩, rfl⟩
    · change bitsOf (wordAt (List.map _ _ ++ _) 0) _ _ = _
      rw [List.map_cons, List.cons_append, hw0, bitsOf]
      omega
    · change bitsOf (wordAt (List.map _ _ ++ _) 0) _ _ = _
      rw [List.map_cons, List.cons_append, hw0, bitsOf]
      omega

end Sys2Proof
end

section
/-! SUPPORT. The states of the chain's ports (04 Table 4.5, R133 to R135, R153). -/

namespace Sys2Proof

open Machine

/-- The MISWIRE flag of a port. -/
def miswire (port : Nat) : Fld := if port = portU then F.MISWIRE_U else F.MISWIRE_D

/-- The mode that the two ports' states give: RING, WRAP_U, WRAP_D, ISOLATED. -/
theorem ringMode_eq (s : Dev) : s.ringMode = if s.get F.U_STATE = pUp then (if s.get F.D_STATE = pUp then 0 else 2) else if s.get F.D_STATE = pUp then 1 else 3 := by
  unfold Dev.ringMode Dev.uUp Dev.dUp
  simp only [beq_iff_eq]

theorem setPort_only (s : Dev) (port st : Nat) :
    OnlyFields [(portField port, []), (F.CHAIN_MODE, [])] s (s.setPort port st) ∧ OnlyRegs s (s.setPort port st) :=
  ⟨onlyFields_put0 _ (onlyFields_put0 _ (onlyFields_refl _ s) (by simp)) (by simp), onlyRegs_trans (onlyRegs_put0 _ _ _) (onlyRegs_put0 _ _ _)⟩

theorem setPort_reads (s : Dev) (port : Nat) {st : Nat} (hst : st < 8) :
    (s.setPort port st).get (portField port) = st ∧ (s.setPort port st).get F.CHAIN_MODE = (s.put0 (portField port) st).ringMode := by
  have hp : portField port = F.U_STATE ∨ portField port = F.D_STATE := by unfold portField; split <;> simp
  have hm : (s.put0 (portField port) st).ringMode < 2 ^ F.CHAIN_MODE.w := by
    rw [ringMode_eq]
    change _ < 4
    split <;> split <;> omega
  unfold Dev.setPort Dev.fixMode
  refine ⟨?_, Dev.get_put0_fit _ (by decide) hm⟩
  rcases hp with hp | hp <;> rw [hp, Dev.get_put0_apart _ _ (by decide)] <;> exact Dev.get_put0_fit _ (by decide) hst

theorem rewrap_sends (s : Dev) (port : Nat) : OnlySends s (s.rewrap port) := by
  unfold Dev.rewrap
  dsimp only
  split
  · rfl
  · rfl

theorem sendRing_sends (s : Dev) (port sub : Nat) : OnlySends s (s.sendRing port sub) := by
  unfold Dev.sendRing
  dsimp only
  split <;> rfl

theorem miswire_cases (port : Nat) : miswire port = F.MISWIRE_U ∨ miswire port = F.MISWIRE_D := by
  unfold miswire
  split <;> simp

theorem portField_cases (port : Nat) : portField port = F.U_STATE ∨ portField port = F.D_STATE := by
  unfold portField
  split <;> simp

/-- The fields of the port's status register that the port's rules write share no bit. -/
theorem status_apart (port : Nat) :
    Fld.apart (miswire port) [] (portField port) [] = true ∧ Fld.apart (miswire port) [] F.CHAIN_MODE [] = true ∧
    Fld.apart F.BREAK_EV [] (portField port) [] = true ∧ Fld.apart F.BREAK_EV [] (miswire port) [] = true ∧
    Fld.apart (portField port) [] (miswire port) [] = true ∧ Fld.apart F.CHAIN_MODE [] (miswire port) [] = true := by
  rcases miswire_cases port with h | h <;> rcases portField_cases port with h' | h' <;> rw [h, h'] <;> decide

theorem miswire_fit (port : Nat) : (miswire port).lo + (miswire port).w ≤ 32 ∧ (miswire port).w = 1 := by
  rcases miswire_cases port with h | h <;> rw [h] <;> decide

theorem trainTimeout_reads {d : Dev} {port : Nat} (h : d.get (portField port) = pTrain) :
    let e := d.trainTimeout port
    e.get (portField port) = pDown ∧ e.get (miswire port) = 0 ∧ e.get F.BREAK_EV = 1 ∧
    OnlyFields [(portField port, []), (F.CHAIN_MODE, []), (miswire port, []), (F.BREAK_EV, [])] d e ∧ OnlyTalk d e := by
  intro e
  obtain ⟨s1, hs1⟩ : ∃ s1, s1 = d.setPort port pDown := ⟨_, rfl⟩
  obtain ⟨s2, hs2⟩ : ∃ s2, s2 = s1.rewrap port := ⟨_, rfl⟩
  obtain ⟨s3, hs3⟩ : ∃ s3, s3 = s2.put0 (miswire port) 0 := ⟨_, rfl⟩
  have he : e = s3.event F.BREAK_EV F.CHAIN_IRQ_EN 3 2 := by
    change d.trainTimeout port = _
    unfold Dev.trainTimeout Dev.portState
    rw [if_pos h, hs3, hs2, hs1]
    rfl
  obtain ⟨k1, o1⟩ := setPort_only d port pDown
  obtain ⟨v1, -⟩ := setPort_reads d port (st := pDown) (by decide)
  rw [← hs1] at k1 o1 v1
  have w2 := rewrap_sends s1 port
  rw [← hs2] at w2
  obtain ⟨a1, -, a3, a4, -, -⟩ := status_apart port
  have v3 : s3.get (miswire port) = 0 := by rw [hs3]; exact Dev.get_put0_fit _ (miswire_fit port).1 (by rw [(miswire_fit port).2]; decide)
  have v3' : s3.get (portField port) = pDown := by rw [hs3, Dev.get_put0_apart _ _ a1, w2.get, v1]
  have k3 : OnlyFields [(portField port, []), (F.CHAIN_MODE, []), (miswire port, []), (F.BREAK_EV, [])] d s3 := by
    rw [hs3]
    exact onlyFields_put0 _ (w2.fields (onlyFields_mono (by simp) k1)) (by simp)
  rw [he]
  refine ⟨by rw [Dev.get_event_apart _ _ _ _ a3, v3'], by rw [Dev.get_event_apart _ _ _ _ a4, v3], Dev.get_event_same _ _ _ _ (by decide) (by decide),
    onlyFields_event _ _ _ k3 (by simp), ?_⟩
  refine onlyTalk_trans (onlyTalk_trans (onlyTalk_trans (onlyTalk_regs o1) w2.talk) ?_) (onlyRegsIrq_event _ _ _ _ _).talk
  rw [hs3]
  exact onlyTalk_regs (onlyRegs_put0 _ _ _)

/-! ### RING frames -/

theorem receive_ring {d : Dev} {f : Frame} (port : Nat) (act home onward : Dev → Dev) (h : f.crcOk = true) (hb : f.bad = false) (ht : f.typ = tyRing) :
    d.receive port f act home onward = act d := by
  unfold Dev.receive
  rw [h, hb, if_neg (by decide), if_neg (by decide), if_pos ht]

/-- The record that a HELLO leaves of its sender. -/
def recordHello (s : Dev) (port w : Nat) : Dev :=
  (((s.put F.NBR_ADDR [port] (bitsOf w 0 7)).put F.NBR_CHAIN_ID [port] (bitsOf w 8 8)).put F.NBR_PORT [port] (bitsOf w 16 1)).put F.NBR_VALID [port] 1

theorem recordHello_reads (s : Dev) {port : Nat} (hp : port < 2) (w : Nat) :
    let e := recordHello s port w
    e.get F.NBR_ADDR [port] = bitsOf w 0 7 ∧ e.get F.NBR_CHAIN_ID [port] = bitsOf w 8 8 ∧ e.get F.NBR_PORT [port] = bitsOf w 16 1 ∧ e.get F.NBR_VALID [port] = 1 ∧
    OnlyFields [(F.NBR_ADDR, [port]), (F.NBR_CHAIN_ID, [port]), (F.NBR_PORT, [port]), (F.NBR_VALID, [port])] s e ∧ OnlyRegs s e := by
  have ha : ∀ p < 2, ∀ f ∈ [F.NBR_ADDR, F.NBR_CHAIN_ID, F.NBR_PORT, F.NBR_VALID], ∀ g ∈ [F.NBR_ADDR, F.NBR_CHAIN_ID, F.NBR_PORT, F.NBR_VALID], f ≠ g →
    Fld.apart f [p] g [p] = true := by decide
  have ha := ha port hp
  unfold recordHello
  refine ⟨?_, ?_, ?_, Dev.get_put_fit _ (by decide) (by decide),
    onlyFields_put _ (onlyFields_put _ (onlyFields_put _ (onlyFields_put _ (onlyFields_refl _ s) (by simp)) (by simp)) (by simp)) (by simp),
    onlyRegs_trans (onlyRegs_put _ _ _ _) (onlyRegs_trans (onlyRegs_put _ _ _ _) (onlyRegs_trans (onlyRegs_put _ _ _ _) (onlyRegs_put _ _ _ _)))⟩
  · rw [Dev.get_put_apart _ _ (ha F.NBR_VALID (by simp) F.NBR_ADDR (by simp) (by decide)), Dev.get_put_apart _ _ (ha F.NBR_PORT (by simp) F.NBR_ADDR (by simp) (by decide)),
      Dev.get_put_apart _ _ (ha F.NBR_CHAIN_ID (by simp) F.NBR_ADDR (by simp) (by decide))]
    exact Dev.get_put_fit _ (by decide) (bitsOf_lt _ _ _)
  · rw [Dev.get_put_apart _ _ (ha F.NBR_VALID (by simp) F.NBR_CHAIN_ID (by simp) (by decide)),
      Dev.get_put_apart _ _ (ha F.NBR_PORT (by simp) F.NBR_CHAIN_ID (by simp) (by decide))]
    exact Dev.get_put_fit _ (by decide) (bitsOf_lt _ _ _)
  · rw [Dev.get_put_apart _ _ (ha F.NBR_VALID (by simp) F.NBR_PORT (by simp) (by decide))]
    exact Dev.get_put_fit _ (by decide) (bitsOf_lt _ _ _)

theorem ringHello_holds {d : Dev} {port : Nat} {f : Frame} (hp : port < 2) (hs : f.sub = 1) (ht : d.get (portField port) = pTrain)
    (hw : bitsOf (wordAt f.data 0) 16 1 ≠ port) :
    let w := wordAt f.data 0
    let e := d.ringHello port f true
    e.get (portField port) = pHoldoff ∧ e.get F.NBR_ADDR [port] = bitsOf w 0 7 ∧ e.get F.NBR_CHAIN_ID [port] = bitsOf w 8 8 ∧
    e.get F.NBR_PORT [port] = bitsOf w 16 1 ∧ e.get F.NBR_VALID [port] = 1 ∧ e.get (miswire port) = 0 ∧
    OnlyFields [(portField port, []), (F.CHAIN_MODE, []), (miswire port, []), (F.NBR_ADDR, [port]), (F.NBR_CHAIN_ID, [port]),
      (F.NBR_PORT, [port]), (F.NBR_VALID, [port])] d e ∧ OnlyRegs d e := by
  intro w e
  obtain ⟨s1, hs1⟩ : ∃ s1, s1 = recordHello d port w := ⟨_, rfl⟩
  obtain ⟨s2, hs2⟩ : ∃ s2, s2 = s1.put0 (miswire port) 0 := ⟨_, rfl⟩
  have he : e = s2.setPort port pHoldoff := by
    change d.ringHello port f true = _
    unfold Dev.ringHello Dev.portState
    rw [if_neg (by rw [hs]; decide)]
    dsimp only
    rw [if_pos ht, if_neg hw, if_pos rfl, hs2, hs1]
    rfl
  obtain ⟨r1, r2, r3, r4, k1, o1⟩ := recordHello_reads d hp w
  rw [← hs1] at r1 r2 r3 r4 k1 o1
  obtain ⟨k3, o3⟩ := setPort_only s2 port pHoldoff
  obtain ⟨v3, -⟩ := setPort_reads s2 port (st := pHoldoff) (by decide)
  rw [← he] at k3 o3 v3
  have k2 : OnlyFields [(miswire port, [])] s1 s2 := by rw [hs2]; exact onlyFields_put0 _ (onlyFields_refl _ s1) (by simp)
  have v2 : s2.get (miswire port) = 0 := by rw [hs2]; exact Dev.get_put0_fit _ (miswire_fit port).1 (by rw [(miswire_fit port).2]; decide)
  obtain ⟨-, -, -, -, a5, a6⟩ := status_apart port
  have hn : ∀ g ∈ [F.NBR_ADDR, F.NBR_CHAIN_ID, F.NBR_PORT, F.NBR_VALID], e.get g [port] = s1.get g [port] := by
    intro g hg
    have hk : ∀ p < 2, ∀ g ∈ [F.NBR_ADDR, F.NBR_CHAIN_ID, F.NBR_PORT, F.NBR_VALID], ∀ x ∈ [(F.U_STATE, []), (F.D_STATE, []), (F.CHAIN_MODE, []),
      (F.MISWIRE_U, []), (F.MISWIRE_D, [])], Fld.apart x.1 x.2 g [p] = true := by decide
    have hk := hk port hp g hg
    have h1 : ∀ x ∈ [(portField port, []), (F.CHAIN_MODE, [])], Fld.apart x.1 x.2 g [port] = true := by
      rcases portField_cases port with h | h <;> rw [h] <;> exact fun x hx => hk x (by revert x; simp)
    have h2 : ∀ x ∈ [(miswire port, [])], Fld.apart x.1 x.2 g [port] = true := by
      rcases miswire_cases port with h | h <;> rw [h] <;> exact fun x hx => hk x (by revert x; simp)
    rw [k3.get g [port] h1, k2.get g [port] h2]
  refine ⟨v3, ?_, ?_, ?_, ?_, ?_, ?_, onlyRegs_trans o1 (onlyRegs_trans ?_ o3)⟩
  · rw [hn _ (by simp), r1]
  · rw [hn _ (by simp), r2]
  · rw [hn _ (by simp), r3]
  · rw [hn _ (by simp), r4]
  · rw [k3.get (miswire port) [] (by simp [a5, a6]), v2]
  · exact onlyFields_trans (onlyFields_mono (by simp) k1) (onlyFields_trans (onlyFields_mono (by simp) k2) (onlyFields_mono (by simp) k3))
  · rw [hs2]; exact onlyRegs_put0 _ _ _

theorem ringHello_miswire {d : Dev} {port : Nat} {f : Frame} (hs : f.sub = 1) (ht : d.get (portField port) = pTrain)
    (hw : bitsOf (wordAt f.data 0) 16 1 = port) (locked : Bool) : d.ringHello port f locked = d.put0 (miswire port) 1 := by
  unfold Dev.ringHello Dev.portState
  rw [if_neg (by rw [hs]; decide)]
  dsimp only
  rw [if_pos ht, if_pos hw]
  rfl

/-! ### Breaks and rejoins -/

theorem portField_other {port : Nat} (h : port < 2) : Fld.apart (portField port) [] (portField (1 - port)) [] = true ∧
    Fld.apart F.CHAIN_MODE [] (portField (1 - port)) [] = true ∧ Fld.apart (miswire port) [] (portField (1 - port)) [] = true := by
  have key : ∀ port < 2, Fld.apart (portField port) [] (portField (1 - port)) [] = true ∧
    Fld.apart F.CHAIN_MODE [] (portField (1 - port)) [] = true ∧ Fld.apart (miswire port) [] (portField (1 - port)) [] = true := by decide
  exact key port h

/-- The mode after one port has gone DOWN. -/
theorem ringMode_down {s : Dev} {port : Nat} (hp : port < 2) (h : s.get (portField port) = pDown) :
    s.ringMode = if s.get (portField (1 - port)) = pUp then (if port = portU then 1 else 2) else 3 := by
  rw [ringMode_eq]
  have hc : port = 0 ∨ port = 1 := by omega
  rcases hc with rfl | rfl
  · rw [show s.get F.U_STATE = pDown from h, if_neg (by decide)]
    rfl
  · have hd : s.get F.D_STATE = pDown := h
    have hu : portField (1 - 1) = F.U_STATE := rfl
    rw [hd, hu]
    split <;> rfl

/-- The registers that a lost link does not write keep what the DOWN port left: the fields of the port's status register. -/
theorem linkDown_reads {d : Dev} {port : Nat} (hp : port < 2) (h : d.portState port ≠ pDown) :
    let e := d.linkDown port
    e.portState port = pDown ∧ e.portState (1 - port) = d.portState (1 - port) ∧ e.get F.NBR_VALID [port] = 0 ∧ e.get F.BREAK_EV = 1 ∧
    e.get F.BREAK_COUNT = min (d.get F.BREAK_COUNT + 1) (2 ^ 32 - 1) ∧
    e.get F.CHAIN_MODE = (if d.portState (1 - port) = pUp then (if port = portU then 1 else 2) else 3) ∧ e.mem = d.mem ∧ e.cad = d.cad := by
  intro e
  obtain ⟨s1, hs1⟩ : ∃ s1, s1 = d.setPort port pDown := ⟨_, rfl⟩
  obtain ⟨s2, hs2⟩ : ∃ s2, s2 = s1.rewrap port := ⟨_, rfl⟩
  obtain ⟨s3, hs3⟩ : ∃ s3, s3 = (s2.put F.NBR_VALID [port] 0).put0 (miswire port) 0 := ⟨_, rfl⟩
  obtain ⟨s4, hs4⟩ : ∃ s4, s4 = s3.event F.BREAK_EV F.CHAIN_IRQ_EN 3 2 := ⟨_, rfl⟩
  obtain ⟨s5, hs5⟩ : ∃ s5, s5 = s4.count F.BREAK_COUNT := ⟨_, rfl⟩
  obtain ⟨s6, hs6⟩ : ∃ s6, s6 = if s5.portState (1 - port) = pUp then s5.sendRing (1 - port) 2 else s5 := ⟨_, rfl⟩
  obtain ⟨s7, hs7⟩ : ∃ s7, s7 = s6.sendEvent 3 bcast (port + d.get F.NBR_ADDR [port] * 2 ^ 8) := ⟨_, rfl⟩
  obtain ⟨a, ha, he⟩ : ∃ a, a < 128 ∧ e = s7.markBreak a true := by
    refine ⟨if port = portD then s7.get F.CHAIN_ADDR else d.get F.NBR_ADDR [port], ?_, ?_⟩
    · split
      · exact s7.get_lt F.CHAIN_ADDR []
      · exact d.get_lt F.NBR_ADDR [port]
    · change d.linkDown port = _
      unfold Dev.linkDown
      rw [if_neg h, hs7, hs6, hs5, hs4, hs3, hs2, hs1]
      rfl
  obtain ⟨k1, o1⟩ := setPort_only d port pDown
  obtain ⟨v1, m1⟩ := setPort_reads d port (st := pDown) (by decide)
  rw [← hs1] at k1 o1 v1 m1
  have w2 := rewrap_sends s1 port
  rw [← hs2] at w2
  have k3 : OnlyFields [(F.NBR_VALID, [port]), (miswire port, [])] s2 s3 ∧ OnlyRegs s2 s3 ∧ s3.get F.NBR_VALID [port] = 0 := by
    rw [hs3]
    have ha : ∀ p < 2, Fld.apart (miswire p) [] F.NBR_VALID [p] = true := by decide
    refine ⟨onlyFields_put0 _ (onlyFields_put _ (onlyFields_refl _ s2) (by simp)) (by simp), onlyRegs_trans (onlyRegs_put _ _ _ _) (onlyRegs_put0 _ _ _), ?_⟩
    rw [Dev.get_put0_apart _ _ (ha port hp)]
    exact Dev.get_put_fit _ (by decide) (by decide)
  obtain ⟨k3, o3, v3⟩ := k3
  have k4 : OnlyFields [(F.BREAK_EV, [])] s3 s4 ∧ s4.get F.BREAK_EV = 1 ∧ OnlyTalk s3 s4 := by
    rw [hs4]
    exact ⟨onlyFields_event _ _ _ (onlyFields_refl _ s3) (by simp), Dev.get_event_same _ _ _ _ (by decide) (by decide), (onlyRegsIrq_event _ _ _ _ _).talk⟩
  obtain ⟨k4, v4, o4⟩ := k4
  have k5 : OnlyFields [(F.BREAK_COUNT, [])] s4 s5 ∧ s5.get F.BREAK_COUNT = min (s4.get F.BREAK_COUNT + 1) (2 ^ 32 - 1) ∧ OnlyTalk s4 s5 := by
    rw [hs5]
    exact ⟨onlyFields_count (onlyFields_refl _ s4) (by simp), get_count_fit _ (by decide) rfl [], onlyTalk_count _ _ _⟩
  obtain ⟨k5, v5, o5⟩ := k5
  have w6 : OnlySends s5 s6 := by
    rw [hs6]
    split
    · exact sendRing_sends _ _ _
    · rfl
  have w7 : OnlySends s6 s7 := by rw [hs7]; exact onlySends_send _ _ _ _ _ _
  obtain ⟨-, k8, o8⟩ := markBreak_reads s7 ha true
  rw [← he] at k8 o8
  have w57 := onlySends_trans w6 w7
  -- what the last steps leave of the registers they do not write
  have last : ∀ (g : Fld) (jx : List Nat), (∀ i < 4, Fld.apart F.OPEN_BREAK [i] g jx = true) → Fld.apart F.BREAK_COUNT [] g jx = true →
      e.get g jx = s4.get g jx := fun g jx h1 h2 => by
    rw [k8.get g jx (by simpa using h1 (a / 32) (by omega)), w57.get, k5.get g jx (by simpa using h2)]
  have first : ∀ (g : Fld) (jx : List Nat), Fld.apart F.BREAK_EV [] g jx = true → Fld.apart (miswire port) [] g jx = true →
      Fld.apart F.NBR_VALID [port] g jx = true → s4.get g jx = s1.get g jx := fun g jx h1 h2 h3 => by
    rw [k4.get g jx (by simpa using h1), k3.get g jx (by simp [h2, h3]), w2.get]
  have hall : ∀ p < 2, (∀ i < 4, Fld.apart F.OPEN_BREAK [i] (portField p) [] = true) ∧ Fld.apart F.BREAK_COUNT [] (portField p) [] = true ∧
      Fld.apart F.BREAK_EV [] (portField p) [] = true ∧ ∀ q < 2, Fld.apart (miswire q) [] (portField p) [] = true ∧ Fld.apart F.NBR_VALID [q] (portField p) [] = true := by decide
  have hport : ∀ p < 2, e.get (portField p) = s1.get (portField p) := fun p hp' => by
    obtain ⟨b1, b2, b3, b4⟩ := hall p hp'
    rw [last _ _ b1 b2, first _ _ b3 (b4 port hp).1 (b4 port hp).2]
  have hmode : e.get F.CHAIN_MODE = s1.get F.CHAIN_MODE := by
    have hm : ∀ q < 2, Fld.apart (miswire q) [] F.CHAIN_MODE [] = true ∧ Fld.apart F.NBR_VALID [q] F.CHAIN_MODE [] = true := by decide
    rw [last _ _ (by decide) (by decide), first _ _ (by decide) (hm port hp).1 (hm port hp).2]
  obtain ⟨q1, q2, -⟩ := portField_other hp
  refine ⟨(hport port hp).trans v1, ?_, ?_, ?_, ?_, ?_, ?_, ?_⟩
  · exact (hport (1 - port) (by omega)).trans (k1.get _ _ (by simp [q1, q2]))
  · have hn : ∀ q < 2, (∀ i < 4, Fld.apart F.OPEN_BREAK [i] F.NBR_VALID [q] = true) ∧ Fld.apart F.BREAK_COUNT [] F.NBR_VALID [q] = true ∧
      Fld.apart F.BREAK_EV [] F.NBR_VALID [q] = true := by decide
    obtain ⟨b1, b2, b3⟩ := hn port hp
    rw [last _ _ b1 b2, k4.get F.NBR_VALID [port] (by simpa using b3), v3]
  · rw [last _ _ (by decide) (by decide), v4]
  · have hb : ∀ q < 2, Fld.apart (miswire q) [] F.BREAK_COUNT [] = true ∧ Fld.apart F.NBR_VALID [q] F.BREAK_COUNT [] = true ∧
      Fld.apart (portField q) [] F.BREAK_COUNT [] = true := by decide
    have ho : ∀ i < 4, Fld.apart F.OPEN_BREAK [i] F.BREAK_COUNT [] = true := by decide
    rw [k8.get F.BREAK_COUNT [] (by simpa using ho (a / 32) (by omega)), w57.get, v5, first _ _ (by decide) (hb port hp).1 (hb port hp).2.1,
      k1.get F.BREAK_COUNT [] (by simp [(hb port hp).2.2]; decide)]
  · have hd : (d.put0 (portField port) pDown).get (portField (1 - port)) = d.get (portField (1 - port)) := Dev.get_put0_apart _ _ q1
    have hs : (d.put0 (portField port) pDown).get (portField port) = pDown :=
      Dev.get_put0_fit _ (by rcases portField_cases port with h | h <;> rw [h] <;> decide) (by rcases portField_cases port with h | h <;> rw [h] <;> decide)
    rw [hmode, m1, ringMode_down hp hs, hd]
    rfl
  · have ht := onlyTalk_trans (onlyTalk_trans (onlyTalk_trans (onlyTalk_regs o1) w2.talk) (onlyTalk_regs o3)) (onlyTalk_trans o4 o5)
    have hm : s5.mem = d.mem := by rw [ht]
    rw [o8.mem.1, w57.mem, hm]
  · have ht := onlyTalk_trans (onlyTalk_trans (onlyTalk_trans (onlyTalk_regs o1) w2.talk) (onlyTalk_regs o3)) (onlyTalk_trans o4 o5)
    have hc : s5.cad = d.cad := by rw [ht]
    rw [o8.cad, w57.cad, hc]

theorem holdoffExpiry_reads {d : Dev} (h : d.get F.D_STATE = pHoldoff) :
    let e := d.holdoffExpiry
    e.get F.D_STATE = pUp ∧ e.get F.UNWRAP_EV = 1 ∧ e.get F.CHAIN_MODE = (if d.uUp then 0 else 1) ∧
    OnlyFields [(F.D_STATE, []), (F.CHAIN_MODE, []), (F.UNWRAP_EV, [])] d e ∧ OnlyTalk d e := by
  intro e
  obtain ⟨s1, hs1⟩ : ∃ s1, s1 = d.setPort portD pUp := ⟨_, rfl⟩
  obtain ⟨s2, hs2⟩ : ∃ s2, s2 = s1.sendRing portD 3 := ⟨_, rfl⟩
  have he : e = s2.event F.UNWRAP_EV F.CHAIN_IRQ_EN 4 2 := by
    change d.holdoffExpiry = _
    unfold Dev.holdoffExpiry Dev.portState
    rw [if_pos (c := d.get (portField portD) = pHoldoff) h, hs2, hs1]
    rfl
  obtain ⟨k1, o1⟩ := setPort_only d portD pUp
  obtain ⟨v1, m1⟩ := setPort_reads d portD (st := pUp) (by decide)
  rw [← hs1] at k1 o1 v1 m1
  have w2 := sendRing_sends s1 portD 3
  rw [← hs2] at w2
  have hm : (d.put0 (portField portD) pUp).ringMode = if d.uUp then 0 else 1 := by
    have hd : (d.put0 F.D_STATE pUp).get F.D_STATE = pUp := Dev.get_put0_fit _ (by decide) (by decide)
    have hu : (d.put0 F.D_STATE pUp).get F.U_STATE = d.get F.U_STATE := Dev.get_put0_apart _ _ (by decide)
    change (d.put0 F.D_STATE pUp).ringMode = _
    rw [ringMode_eq, hd, hu]
    unfold Dev.uUp
    simp only [beq_iff_eq, if_true]
  rw [he]
  refine ⟨by rw [Dev.get_event_apart _ _ _ _ (by decide), w2.get]; exact v1, Dev.get_event_same _ _ _ _ (by decide) (by decide), ?_,
    onlyFields_event _ _ _ (w2.fields (onlyFields_mono (by decide) k1)) (by simp), onlyTalk_trans (onlyTalk_trans (onlyTalk_regs o1) w2.talk) (onlyRegsIrq_event _ _ _ _ _).talk⟩
  rw [Dev.get_event_apart _ _ _ _ (by decide), w2.get, m1, hm]

theorem helloTimer_reads {d : Dev} {port : Nat} (h : d.get (portField port) = pTrain ∨ d.get (portField port) = pUp) :
    (∃ x ∈ (if port = 0 then (d.helloTimer port).chain.txU else (d.helloTimer port).chain.txD), x.frame.typ = tyRing ∧ x.frame.sub = 1 ∧
      x.frame.src = d.get F.CHAIN_ADDR) ∧
    d.helloTimer port = { d with chain := { d.chain with txU := (d.helloTimer port).chain.txU, txD := (d.helloTimer port).chain.txD } } := by
  have he : d.helloTimer port = d.sendRing port 1 := by
    unfold Dev.helloTimer Dev.portState
    exact if_pos h
  rw [he]
  unfold Dev.sendRing
  dsimp only
  by_cases hp : port = 0
  · rw [if_pos hp, if_pos hp]
    exact ⟨⟨_, (mem_txInsert _ _ _).2 (.inl rfl), rfl, rfl, rfl⟩, rfl⟩
  · rw [if_neg hp, if_neg hp]
    exact ⟨⟨_, (mem_txInsert _ _ _).2 (.inl rfl), rfl, rfl, rfl⟩, rfl⟩

end Sys2Proof
end

section
/-! SUPPORT. Enumeration: starts, resends, claims and assignments (04 R127 to R131, Table 4.4), and the last of the port states. -/

namespace Sys2Proof

open Machine

/-- The registers that enumeration writes. -/
def enumRegs : List (Fld × List Nat) :=
  [(F.CHAIN_GEN, []), (F.CHAIN_ADDR, []), (F.CHAIN_ADDR_ID, []), (F.DUP_ADDR, []), (F.CHAIN_FULL, []), (F.CHAIN_MAP, [0]), (F.CHAIN_MAP, [1]),
    (F.CHAIN_MAP, [2]), (F.CHAIN_MAP, [3]), (F.CHAIN_COUNT, []), (F.ADDR_CHANGED, [])]

theorem onlyChain_regs {a b : Dev} (h : OnlyRegs a b) : OnlyChain a b := (onlyTalk_regs h).chain

theorem OnlyChain.mem {a b : Dev} (h : OnlyChain a b) : b.mem = a.mem ∧ b.cad = a.cad := by
  rw [h]
  exact ⟨rfl, rfl⟩

/-! ### Addresses -/

theorem adoptAddr_reads (s : Dev) (a : Nat) {cid : Nat} (hc : cid < 256) :
    let e := s.adoptAddr a cid
    e.get F.CHAIN_ADDR = a % 128 ∧ e.get F.CHAIN_ADDR_ID = cid ∧ e.chain.sticky = some (a, cid) ∧
    (∃ ch, e.chain = { s.chain with sticky := some (a, cid), changed := ch }) ∧
    OnlyFields [(F.CHAIN_ADDR, []), (F.CHAIN_ADDR_ID, []), (F.DUP_ADDR, []), (F.CHAIN_FULL, [])] s e ∧ OnlyChain s e := by
  intro e
  obtain ⟨s1, hs1⟩ : ∃ s1, s1 = (((s.put0 F.CHAIN_ADDR a).put0 F.CHAIN_ADDR_ID cid).put0 F.DUP_ADDR 0).put0 F.CHAIN_FULL 0 := ⟨_, rfl⟩
  obtain ⟨ch, he⟩ : ∃ ch, e = { s1 with chain := { s1.chain with sticky := some (a, cid), changed := ch } } := ⟨_, by rw [hs1]; rfl⟩
  have v : s1.get F.CHAIN_ADDR = a % 128 ∧ s1.get F.CHAIN_ADDR_ID = cid := by
    rw [hs1]
    constructor
    · rw [Dev.get_put0_apart _ _ (by decide), Dev.get_put0_apart _ _ (by decide), Dev.get_put0_apart _ _ (by decide)]
      exact Dev.get_put_same _ _ _ _ (by decide)
    · rw [Dev.get_put0_apart _ _ (by decide), Dev.get_put0_apart _ _ (by decide)]
      exact Dev.get_put0_fit _ (by decide) hc
  have o : OnlyRegs s s1 := by
    rw [hs1]
    exact onlyRegs_trans (onlyRegs_put0 _ _ _) (onlyRegs_trans (onlyRegs_put0 _ _ _) (onlyRegs_trans (onlyRegs_put0 _ _ _) (onlyRegs_put0 _ _ _)))
  have k : OnlyFields [(F.CHAIN_ADDR, []), (F.CHAIN_ADDR_ID, []), (F.DUP_ADDR, []), (F.CHAIN_FULL, [])] s s1 := by
    rw [hs1]
    exact onlyFields_put0 _ (onlyFields_put0 _ (onlyFields_put0 _ (onlyFields_put0 _ (onlyFields_refl _ s) (by simp)) (by simp)) (by simp)) (by simp)
  have hr : e.regs = s1.regs := by rw [he]
  have hc1 : s1.chain = s.chain := by rw [o]
  refine ⟨by rw [Dev.get_eq, hr, ← Dev.get_eq]; exact v.1, by rw [Dev.get_eq, hr, ← Dev.get_eq]; exact v.2, by rw [he], ⟨ch, by rw [he, ← hc1]⟩,
    onlyFields_trans k (onlyFields_of_regs hr), onlyChain_trans (onlyChain_regs o) ?_⟩
  rw [he]
  exact onlyChain_chain s1 _

theorem loseAddr_reads (s : Dev) :
    s.loseAddr.get F.CHAIN_ADDR = 0 ∧ (∃ ch, s.loseAddr.chain = { s.chain with changed := ch }) ∧ OnlyFields [(F.CHAIN_ADDR, [])] s s.loseAddr ∧
    OnlyChain s s.loseAddr := by
  obtain ⟨s1, hs1⟩ : ∃ s1, s1 = s.put0 F.CHAIN_ADDR 0 := ⟨_, rfl⟩
  obtain ⟨ch, he⟩ : ∃ ch, s.loseAddr = { s1 with chain := { s1.chain with changed := ch } } := ⟨_, by rw [hs1]; rfl⟩
  have v : s1.get F.CHAIN_ADDR = 0 := by rw [hs1]; exact Dev.get_put0_fit _ (by decide) (by decide)
  have o : OnlyRegs s s1 := by rw [hs1]; exact onlyRegs_put0 _ _ _
  have k : OnlyFields [(F.CHAIN_ADDR, [])] s s1 := by rw [hs1]; exact onlyFields_put0 _ (onlyFields_refl _ s) (by simp)
  have hc1 : s1.chain = s.chain := by rw [o]
  have hr : s.loseAddr.regs = s1.regs := by rw [he]
  refine ⟨by rw [Dev.get_eq, hr, ← Dev.get_eq]; exact v, ⟨ch, by rw [he, ← hc1]⟩, onlyFields_trans k (onlyFields_of_regs hr), onlyChain_trans (onlyChain_regs o) ?_⟩
  rw [he]
  exact onlyChain_chain s1 _

/-! ### Starts -/

theorem txPrimary_sends (s : Dev) (fwd : Bool) (f : Frame) : OnlySends s (s.txPrimary fwd f) := onlySends_of_chain (s.txPrimary_eq fwd f)

/-- What only sends leaves of the chain's own state. -/
theorem OnlySends.chain {a b : Dev} (h : OnlySends a b) : b.chain = { a.chain with txU := b.chain.txU, txD := b.chain.txD } := by
  rw [h]

theorem event_chain (s : Dev) (f en : Fld) (b v : Nat) : (s.event f en b v).chain = s.chain := by
  obtain ⟨m, p, h⟩ := s.event_eq f en b v
  rw [h]
  rfl

/-- The map of assigned addresses, as the head writes it. -/
def putMap (s : Dev) (taken : Nat) : Dev := s.forEach [0, 1, 2, 3] fun s i => s.put F.CHAIN_MAP [i] (taken / 2 ^ (32 * i))

theorem putMap_reads (s : Dev) {taken : Nat} (ht : taken < 2 ^ 32) :
    (putMap s taken).get F.CHAIN_MAP [0] = taken ∧
    OnlyFields [(F.CHAIN_MAP, [0]), (F.CHAIN_MAP, [1]), (F.CHAIN_MAP, [2]), (F.CHAIN_MAP, [3])] s (putMap s taken) ∧ OnlyRegs s (putMap s taken) := by
  obtain ⟨s1, h1⟩ : ∃ s1, s1 = s.put F.CHAIN_MAP [0] (taken / 2 ^ (32 * 0)) := ⟨_, rfl⟩
  obtain ⟨s2, h2⟩ : ∃ s2, s2 = s1.put F.CHAIN_MAP [1] (taken / 2 ^ (32 * 1)) := ⟨_, rfl⟩
  obtain ⟨s3, h3⟩ : ∃ s3, s3 = s2.put F.CHAIN_MAP [2] (taken / 2 ^ (32 * 2)) := ⟨_, rfl⟩
  have he : putMap s taken = s3.put F.CHAIN_MAP [3] (taken / 2 ^ (32 * 3)) := by rw [h3, h2, h1]; rfl
  have v1 : s1.get F.CHAIN_MAP [0] = taken := by
    rw [Nat.mul_zero, Nat.pow_zero, Nat.div_one] at h1
    rw [h1]
    exact Dev.get_put_fit _ (by decide) ht
  rw [he]
  refine ⟨?_, onlyFields_put _ ?_ (by simp), onlyRegs_trans ?_ (onlyRegs_put _ _ _ _)⟩
  · rw [Dev.get_put_apart _ _ (by decide), h3, Dev.get_put_apart _ _ (by decide), h2, Dev.get_put_apart _ _ (by decide), v1]
  · rw [h3, h2, h1]
    exact onlyFields_put _ (onlyFields_put _ (onlyFields_put _ (onlyFields_refl _ s) (by simp)) (by simp)) (by simp)
  · rw [h3, h2, h1]
    exact onlyRegs_trans (onlyRegs_put _ _ _ _) (onlyRegs_trans (onlyRegs_put _ _ _ _) (onlyRegs_put _ _ _ _))

/-- The end of an enumeration at the head. -/
theorem enumDone_reads (s : Dev) {taken cnt : Nat} (ht : taken < 2 ^ 32) (hc : cnt < 128) :
    let e := s.enumDone taken cnt
    e.chain.enum = none ∧ e.chain.lastStart = s.chain.lastStart ∧ e.chain.queued = s.chain.queued ∧ e.get F.CHAIN_COUNT = cnt ∧
    e.get F.CHAIN_MAP [0] = taken ∧
    OnlyFields [(F.CHAIN_MAP, [0]), (F.CHAIN_MAP, [1]), (F.CHAIN_MAP, [2]), (F.CHAIN_MAP, [3]), (F.CHAIN_COUNT, []), (F.ADDR_CHANGED, [])] s e ∧
    OnlyChain s e := by
  intro e
  obtain ⟨s1, hs1⟩ : ∃ s1, s1 = putMap s taken := ⟨_, rfl⟩
  obtain ⟨p1, p2, p3⟩ := putMap_reads s ht
  rw [← hs1] at p1 p2 p3
  obtain ⟨s2, hs2⟩ : ∃ s2, s2 = s1.put0 F.CHAIN_COUNT cnt := ⟨_, rfl⟩
  obtain ⟨s3, hs3⟩ : ∃ s3, s3 = s2.setEnum none := ⟨_, rfl⟩
  obtain ⟨s4, hs4⟩ : ∃ s4, s4 = s3.sendEvent 2 bcast (s1.get F.CHAIN_GEN) := ⟨_, rfl⟩
  have he : e = if s4.chain.changed then ({ s4 with chain := { s4.chain with changed := false } } : Dev).event F.ADDR_CHANGED F.CHAIN_IRQ_EN 2 2 else s4 := by
    change s.enumDone taken cnt = _
    rw [hs4, hs3, hs2, hs1]
    rfl
  have k1 : OnlyFields [(F.CHAIN_MAP, [0]), (F.CHAIN_MAP, [1]), (F.CHAIN_MAP, [2]), (F.CHAIN_MAP, [3]), (F.CHAIN_COUNT, []), (F.ADDR_CHANGED, [])] s s2 := by
    rw [hs2]
    exact onlyFields_put0 _ (onlyFields_mono (by decide) p2) (by simp)
  have o2 : OnlyRegs s s2 := by
    rw [hs2]
    exact onlyRegs_trans p3 (onlyRegs_put0 _ _ _)
  have v2 : s2.get F.CHAIN_COUNT = cnt ∧ s2.get F.CHAIN_MAP [0] = taken := by
    rw [hs2]
    exact ⟨Dev.get_put0_fit _ (by decide) hc, by rw [Dev.get_put0_apart _ _ (by decide), p1]⟩
  have h3 : s3.regs = s2.regs ∧ s3.chain = { s2.chain with enum := none } ∧ OnlyChain s2 s3 := by
    rw [hs3]
    exact ⟨rfl, rfl, onlyChain_chain s2 _⟩
  have w4 : OnlySends s3 s4 := by rw [hs4]; exact onlySends_send _ _ _ _ _ _
  have hc4 : s4.chain.enum = none ∧ s4.chain.lastStart = s.chain.lastStart ∧ s4.chain.queued = s.chain.queued := by
    rw [w4.chain, h3.2.1, o2]
    exact ⟨rfl, rfl, rfl⟩
  have hg4 : ∀ f ix, s4.get f ix = s2.get f ix := fun f ix => by rw [w4.get, Dev.get_eq, h3.1, ← Dev.get_eq]
  have k4 := w4.fields (onlyFields_trans k1 (onlyFields_of_regs h3.1))
  have o4 : OnlyChain s s4 := onlyChain_trans (onlyChain_regs o2) (onlyChain_trans h3.2.2 w4.talk.chain)
  rw [he]
  split
  · rename_i hch
    obtain ⟨x, hx⟩ : ∃ x : Dev, x = { s4 with chain := { s4.chain with changed := false } } := ⟨_, rfl⟩
    have h5 : x.regs = s4.regs ∧ x.chain = { s4.chain with changed := false } ∧ OnlyChain s4 x := by
      rw [hx]
      exact ⟨rfl, rfl, onlyChain_chain s4 _⟩
    rw [← hx]
    have hg : ∀ f ix, x.get f ix = s2.get f ix := fun f ix => by rw [Dev.get_eq, h5.1, ← Dev.get_eq, hg4]
    rw [event_chain, h5.2.1, Dev.get_event_apart _ _ _ _ (by decide), Dev.get_event_apart _ _ _ _ (by decide), hg, hg]
    exact ⟨hc4.1, hc4.2.1, hc4.2.2, v2.1, v2.2, onlyFields_event _ _ _ (onlyFields_trans k4 (onlyFields_of_regs h5.1)) (by simp),
      onlyChain_trans o4 (onlyChain_trans h5.2.2 (onlyRegsIrq_event _ _ _ _ _).talk.chain)⟩
  · rw [hg4, hg4]
    exact ⟨hc4.1, hc4.2.1, hc4.2.2, v2.1, v2.2, k4, o4⟩

/-- What an enumeration's start leaves beside what EnumBegun states. -/
structure Begins (d e : Dev) : Prop where
  begun : EnumBegun d e
  queued : e.chain.queued = d.chain.queued
  fields : OnlyFields enumRegs d e
  only : OnlyChain d e

theorem enumBegin_reads (d : Dev) : Begins d d.enumBegin := by
  obtain ⟨s1, hs1⟩ : ∃ s1, s1 = d.put0 F.CHAIN_GEN ((d.get F.CHAIN_GEN + 1) % 256) := ⟨_, rfl⟩
  obtain ⟨s2, hs2⟩ : ∃ s2, s2 = s1.adoptAddr 1 (d.get F.CHAIN_ID) := ⟨_, rfl⟩
  obtain ⟨s3, hs3⟩ : ∃ s3 : Dev, s3 = { s2 with chain := { s2.chain with lastStart := some s2.now } } := ⟨_, rfl⟩
  obtain ⟨tok, he⟩ : ∃ tok, d.enumBegin = if s3.ringMode = 3 then s3.enumDone 2 1 else (s3.setEnum (some ⟨0, 0, tok⟩)).sendEnum tok := by
    rw [hs3, hs2, hs1]
    exact ⟨_, rfl⟩
  have k1 : OnlyFields enumRegs d s1 ∧ OnlyRegs d s1 ∧ s1.get F.CHAIN_GEN = (d.get F.CHAIN_GEN + 1) % 256 := by
    rw [hs1]
    exact ⟨onlyFields_put0 _ (onlyFields_refl _ d) (by simp [enumRegs]), onlyRegs_put0 _ _ _,
      Dev.get_put0_fit _ (by decide) (Nat.mod_lt _ (by decide))⟩
  obtain ⟨k1, o1, v1⟩ := k1
  have hlt : d.get F.CHAIN_ID < 256 := d.get_lt F.CHAIN_ID []
  obtain ⟨a1, a2, -, ⟨ch, a3⟩, k2, o2⟩ := adoptAddr_reads s1 1 hlt
  rw [← hs2] at a1 a2 a3 k2 o2
  have h3 : s3.regs = s2.regs ∧ s3.chain = { s2.chain with lastStart := some s2.now } ∧ OnlyChain s2 s3 := by
    rw [hs3]
    exact ⟨rfl, rfl, onlyChain_chain s2 _⟩
  have k3 : OnlyFields enumRegs d s3 := onlyFields_trans k1 (onlyFields_trans (onlyFields_mono (by decide) k2) (onlyFields_of_regs h3.1))
  have o3 : OnlyChain d s3 := onlyChain_trans (onlyChain_regs o1) (onlyChain_trans o2 h3.2.2)
  have hnow : s2.now = d.now := by rw [onlyChain_trans (onlyChain_regs o1) o2]
  have hg : ∀ f ix, s3.get f ix = s2.get f ix := fun f ix => by rw [Dev.get_eq, h3.1, ← Dev.get_eq]
  have v3 : s3.get F.CHAIN_GEN = (d.get F.CHAIN_GEN + 1) % 256 ∧ s3.get F.CHAIN_ADDR = 1 ∧ s3.get F.CHAIN_ADDR_ID = d.get F.CHAIN_ID := by
    rw [hg, hg, hg, k2.get F.CHAIN_GEN [] (by decide), v1, a1, a2]
    exact ⟨rfl, rfl, rfl⟩
  have hc3 : s3.chain.lastStart = some d.now ∧ s3.chain.queued = d.chain.queued := by
    rw [h3.2.1, ← hnow, a3, o1]
    exact ⟨rfl, rfl⟩
  have hm : s3.ringMode = d.ringMode := by
    rw [ringMode_eq, ringMode_eq, k3.get F.U_STATE [] (by decide), k3.get F.D_STATE [] (by decide)]
  rw [he]
  by_cases h : d.ringMode = 3
  · rw [if_pos (hm.trans h)]
    obtain ⟨b1, b2, b3, b4, b5, b6, b7⟩ := enumDone_reads s3 (taken := 2) (cnt := 1) (by decide) (by decide)
    have o := onlyChain_trans o3 b7
    refine ⟨⟨?_, ?_, ?_, b2.trans hc3.1, ?_, o.mem.1, o.mem.2⟩, b3.trans hc3.2, onlyFields_trans k3 (onlyFields_mono (by decide) b6), o⟩
    · rw [b6.get F.CHAIN_GEN [] (by decide), v3.1]
    · rw [b6.get F.CHAIN_ADDR [] (by decide), v3.2.1]
    · rw [b6.get F.CHAIN_ADDR_ID [] (by decide), v3.2.2]
    · rw [if_pos h]
      exact ⟨b1, b4, b5⟩
  · rw [if_neg (by rw [hm]; exact h)]
    obtain ⟨s4, hs4⟩ : ∃ s4, s4 = s3.setEnum (some ⟨0, 0, tok⟩) := ⟨_, rfl⟩
    have h4 : s4.regs = s3.regs ∧ s4.chain = { s3.chain with enum := some ⟨0, 0, tok⟩ } ∧ OnlyChain s3 s4 := by
      rw [hs4]
      exact ⟨rfl, rfl, onlyChain_chain s3 _⟩
    have w : OnlySends s4 (s4.sendEnum tok) := txPrimary_sends _ _ _
    rw [← hs4]
    generalize s4.sendEnum tok = e at w
    have o : OnlyChain d e := onlyChain_trans o3 (onlyChain_trans h4.2.2 w.talk.chain)
    have hge : ∀ f ix, e.get f ix = s3.get f ix := fun f ix => by rw [w.get, Dev.get_eq, h4.1, ← Dev.get_eq]
    refine ⟨⟨by rw [hge]; exact v3.1, by rw [hge]; exact v3.2.1, by rw [hge]; exact v3.2.2, ?_, ?_, o.mem.1, o.mem.2⟩, ?_,
      onlyFields_trans k3 (w.fields (onlyFields_of_regs h4.1)), o⟩
    · rw [w.chain, h4.2.1]
      exact hc3.1
    · rw [if_neg h]
      exact ⟨tok, by rw [w.chain, h4.2.1]⟩
    · rw [w.chain, h4.2.1]
      exact hc3.2

/-- A start at a head where none is out and 1 ms has passed. -/
theorem enumStart_begins {d : Dev} (h : d.get F.CHAIN_HEAD = 1) (hn : d.chain.enum = none)
    (hl : d.chain.lastStart = none ∨ ∃ t, d.chain.lastStart = some t ∧ t + 25000 ≤ d.now) : d.enumStart = d.enumBegin := by
  unfold Dev.enumStart
  rw [flag_of_one h, hn]
  rcases hl with hl | ⟨t, hl, ht⟩
  · rw [hl]
    rfl
  · rw [hl]
    dsimp only [Bool.not_true, Option.isSome]
    rw [if_neg (by decide), if_neg (by decide)]
    exact if_neg (by change ¬d.now < t + 25000; omega)

/-- Whatever a start does, it keeps the registers it does not write, and all but the chain logic. -/
theorem enumStart_keeps (d : Dev) : OnlyFields enumRegs d d.enumStart ∧ OnlyChain d d.enumStart := by
  have hb := enumBegin_reads d
  unfold Dev.enumStart
  split
  · exact ⟨onlyFields_refl _ d, onlyTalk_refl d⟩
  split
  · exact ⟨onlyFields_of_regs rfl, onlyChain_chain d _⟩
  split
  · split
    · exact ⟨onlyFields_of_regs rfl, onlyChain_chain d _⟩
    · exact ⟨hb.fields, hb.only⟩
  · exact ⟨hb.fields, hb.only⟩

end Sys2Proof
end

section
/-! SUPPORT. The enumeration's tokens at a unit, its timer and its events, and the obligations about ports and enumeration (04 R127 to R135). -/

namespace Sys2Proof

open Machine

/-- EnumBegun looks at what enumeration starts from only: the registers it reads, the time, memory and the cadence. -/
theorem enumBegun_congr {a b e : Dev} (hr : OnlyFields [(F.OPEN_BREAK, [0]), (F.OPEN_BREAK, [1]), (F.OPEN_BREAK, [2]), (F.OPEN_BREAK, [3])] a b)
    (hn : b.now = a.now) (hm : b.mem = a.mem) (hc : b.cad = a.cad) (h : EnumBegun b e) : EnumBegun a e := by
  have hg : ∀ f ∈ [F.CHAIN_GEN, F.CHAIN_ID, F.U_STATE, F.D_STATE], b.get f = a.get f := fun f hf => by
    have ha : ∀ f ∈ [F.CHAIN_GEN, F.CHAIN_ID, F.U_STATE, F.D_STATE], ∀ x ∈ [(F.OPEN_BREAK, [0]), (F.OPEN_BREAK, [1]), (F.OPEN_BREAK, [2]), (F.OPEN_BREAK, [3])],
      Fld.apart x.1 x.2 f [] = true := by decide
    exact hr.get f [] (ha f hf)
  unfold EnumBegun at *
  rw [ringMode_eq, hg _ (by simp), hg F.CHAIN_ID (by simp), hg F.U_STATE (by simp), hg F.D_STATE (by simp), ← ringMode_eq, hn, hm, hc] at h
  exact h

/-- What is only sent after a start changes nothing of it. -/
theorem EnumBegun.sent {d e e' : Dev} (h : EnumBegun d e) (hs : OnlySends e e') : EnumBegun d e' := by
  unfold EnumBegun at *
  have hc := hs.chain
  rw [hs.get, hs.get, hs.get, hs.get, hs.get, hs.mem, hs.cad, hc]
  exact h

theorem markBreak_map (d : Dev) {a : Nat} (ha : a < 128) (broken : Bool) :
    OnlyFields [(F.OPEN_BREAK, [0]), (F.OPEN_BREAK, [1]), (F.OPEN_BREAK, [2]), (F.OPEN_BREAK, [3])] d (d.markBreak a broken) ∧
    OnlyRegs d (d.markBreak a broken) := by
  obtain ⟨-, k, o⟩ := markBreak_reads d ha broken
  refine ⟨onlyFields_mono ?_ k, o⟩
  have hc : a / 32 = 0 ∨ a / 32 = 1 ∨ a / 32 = 2 ∨ a / 32 = 3 := by omega
  rcases hc with h | h | h | h <;> rw [h] <;> simp

/-! ### The end of DRAIN -/

theorem drainExpiry_reads {d : Dev} (h : d.get F.U_STATE = pDrain) :
    let e := d.drainExpiry
    e.get F.U_STATE = pUp ∧ e.get F.UNWRAP_EV = 1 ∧ e.get F.CHAIN_MODE = (if d.dUp then 0 else 2) ∧ e.mem = d.mem ∧ e.cad = d.cad := by
  intro e
  obtain ⟨s1, hs1⟩ : ∃ s1, s1 = d.setPort portU pUp := ⟨_, rfl⟩
  obtain ⟨s2, hs2⟩ : ∃ s2, s2 = s1.event F.UNWRAP_EV F.CHAIN_IRQ_EN 4 2 := ⟨_, rfl⟩
  obtain ⟨s3, hs3⟩ : ∃ s3, s3 = s2.sendEvent 4 bcast (d.get F.NBR_ADDR [portU] * 2 ^ 8) := ⟨_, rfl⟩
  obtain ⟨s4, hs4⟩ : ∃ s4, s4 = s3.markBreak (d.get F.NBR_ADDR [portU]) false := ⟨_, rfl⟩
  have he : e = s4.enumStart := by
    change d.drainExpiry = _
    unfold Dev.drainExpiry Dev.portState
    rw [if_pos (c := d.get (portField portU) = pDrain) h, hs4, hs3, hs2, hs1]
    rfl
  obtain ⟨-, o1⟩ := setPort_only d portU pUp
  obtain ⟨v1, m1⟩ := setPort_reads d portU (st := pUp) (by decide)
  rw [← hs1] at o1 v1 m1
  have o2 : OnlyTalk s1 s2 := by rw [hs2]; exact (onlyRegsIrq_event _ _ _ _ _).talk
  have w3 : OnlySends s2 s3 := by rw [hs3]; exact onlySends_send _ _ _ _ _ _
  obtain ⟨k4, o4⟩ := markBreak_map s3 (a := d.get F.NBR_ADDR [portU]) (d.get_lt F.NBR_ADDR [portU]) false
  rw [← hs4] at k4 o4
  obtain ⟨k5, o5⟩ := enumStart_keeps s4
  rw [← he] at k5 o5
  have hu : portField portU = F.U_STATE := rfl
  have hm : (d.put0 F.U_STATE pUp).ringMode = if d.dUp then 0 else 2 := by
    have h1 : (d.put0 F.U_STATE pUp).get F.U_STATE = pUp := Dev.get_put0_fit _ (by decide) (by decide)
    have h2 : (d.put0 F.U_STATE pUp).get F.D_STATE = d.get F.D_STATE := Dev.get_put0_apart _ _ (by decide)
    rw [ringMode_eq, h1, h2]
    unfold Dev.dUp
    simp only [beq_iff_eq, if_true]
  have ht : OnlyTalk d s4 := onlyTalk_trans (onlyTalk_trans (onlyTalk_regs o1) o2) (onlyTalk_trans w3.talk (onlyTalk_regs o4))
  have h24 : ∀ f ∈ [F.U_STATE, F.UNWRAP_EV, F.CHAIN_MODE], e.get f = s2.get f := by
    intro f hf
    have ha : ∀ f ∈ [F.U_STATE, F.UNWRAP_EV, F.CHAIN_MODE], (∀ x ∈ enumRegs, Fld.apart x.1 x.2 f [] = true) ∧
      ∀ x ∈ [(F.OPEN_BREAK, [0]), (F.OPEN_BREAK, [1]), (F.OPEN_BREAK, [2]), (F.OPEN_BREAK, [3])], Fld.apart x.1 x.2 f [] = true := by decide
    rw [k5.get f [] (ha f hf).1, k4.get f [] (ha f hf).2, w3.get]
  refine ⟨?_, ?_, ?_, ?_, ?_⟩
  · rw [h24 _ (by simp), hs2, Dev.get_event_apart _ _ _ _ (by decide)]
    exact v1
  · rw [h24 _ (by simp), hs2]
    exact Dev.get_event_same _ _ _ _ (by decide) (by decide)
  · rw [h24 _ (by simp), hs2, Dev.get_event_apart _ _ _ _ (by decide), m1]
    exact hm
  · rw [o5.mem.1, ht]
  · rw [o5.mem.2, ht]

/-- Settles O10: the ports' states follow signals, HELLOs, timers and losses of the link. -/
theorem chainPortStates : Obligations.ChainPortStates := by
  unfold Obligations.ChainPortStates
  constructor
  · intro d port hp hlt state mw
    have hmod : port % 2 = port := Nat.mod_eq_of_lt hlt
    have hstate : state = portField port := rfl
    have hmw : mw = miswire port := rfl
    refine ⟨fun h => ?_, fun h => ?_, fun f hc hb ht => ?_, fun h => ?_⟩
    · refine gives_of_onDev (·.signalDetect (port % 2)) (fun _ => rfl) hp ?_
      have he : d.signalDetect port = d.setPort port pTrain := by
        unfold Dev.signalDetect Dev.portState
        exact if_pos h
      rw [hmod, he]
      exact ⟨(setPort_reads d port (by decide)).1, (setPort_only d port pTrain).1, (setPort_only d port pTrain).2⟩
    · refine gives_of_onDev (·.trainTimeout (port % 2)) (fun _ => rfl) hp ?_
      rw [hmod]
      exact trainTimeout_reads h
    · intro w
      refine ⟨fun hs htr hw => ?_, fun hs htr hw locked => ?_, fun hs h0 hu => ?_, ?_⟩
      · refine gives_of_onDev (fun d => d.receive (port % 2) f (fun d => if f.typ = tyRing then d.ringHello (port % 2) f true else d) id (·.forward f)) (fun _ => rfl) hp ?_
        rw [receive_ring _ _ _ _ hc hb ht, if_pos ht, hmod]
        exact ringHello_holds hlt hs htr hw
      · refine gives_of_onDev (fun d => d.receive (port % 2) f (fun d => if f.typ = tyRing then d.ringHello (port % 2) f locked else d) id (·.forward f)) (fun _ => rfl) hp ?_
        rw [receive_ring _ _ _ _ hc hb ht, if_pos ht, hmod, ringHello_miswire hs htr hw locked]
        exact ⟨Dev.get_put0_fit _ (miswire_fit port).1 (by rw [(miswire_fit port).2]; decide), onlyFields_put0 _ (onlyFields_refl _ d) (by simp [hmw]), onlyRegs_put0 _ _ _⟩
      · refine gives_of_onDev (fun d => d.receive (port % 2) f (fun d => if f.typ = tyRing then d.ringUnwrap (port % 2) f else d) id (·.forward f)) (fun _ => rfl) hp ?_
        have he : d.ringUnwrap port f = d.setPort portU pDrain := by
          unfold Dev.ringUnwrap
          exact if_pos ⟨hs, h0, hu⟩
        rw [receive_ring _ _ _ _ hc hb ht, if_pos ht, hmod, he]
        exact ⟨(setPort_reads d portU (by decide)).1, (setPort_only d portU pDrain).1, (setPort_only d portU pDrain).2⟩
      · refine gives_of_onDev (fun d => d.receive (port % 2) f id id (·.forward f)) (fun _ => rfl) hp ?_
        rw [receive_ring _ _ _ _ hc hb ht]
        rfl
    · refine gives_of_onDev (·.helloTimer (port % 2)) (fun _ => rfl) hp ?_
      rw [hmod]
      exact helloTimer_reads h
  · intro d hp
    refine ⟨fun port hlt h => ?_, fun h => gives_of_onDev Dev.holdoffExpiry (fun _ => rfl) hp (holdoffExpiry_reads h),
      fun h => gives_of_onDev Dev.drainExpiry (fun _ => rfl) hp (drainExpiry_reads h)⟩
    refine gives_of_onDev (·.linkDown (port % 2)) (fun _ => rfl) hp ?_
    rw [Nat.mod_eq_of_lt hlt]
    exact linkDown_reads hlt h

/-! ### Tokens -/

/-- An ENUM frame that a unit which is no head handles. -/
theorem receive_enum {d : Dev} {port : Nat} {f : Frame} (act home onward : Dev → Dev) (h : EnumArrives d port f) :
    d.receive port f act home onward = act d := by
  obtain ⟨hc, hb, ht, hu, hh, hr, -⟩ := h
  rw [receive_sound _ _ _ _ hc hb (by rw [ht]; decide) hu, if_neg (by omega), if_neg hr, if_pos ht]

theorem not_head {d : Dev} {port : Nat} {f : Frame} (h : EnumArrives d port f) : d.flag F.CHAIN_HEAD = false := by
  unfold Dev.flag
  rw [h.2.2.2.2.2.2]
  rfl

/-- The address a unit wants in the claim pass (04 Table 4.4 step 2). -/
def wanted (d : Dev) (f : Frame) : Option Nat :=
  match d.chain.sticky with
  | some (a, c) => if c = bitsOf (wordAt f.data 0) 0 8 then some a else d.prefAddr
  | none => d.prefAddr

/-- What the unit does about the address it wants: its own state, and the map it sends on. -/
def claimStep (s : Dev) (f : Frame) (want : Option Nat) : Dev × Nat :=
  match want with
  | some a =>
    if bitAt (tokenTaken f.data) a then
      ((({ s with chain := { s.chain with claimed := none, assigned := false } }).loseAddr).put0 F.DUP_ADDR 1, tokenTaken f.data)
    else ({ s with chain := { s.chain with claimed := some (a, tokenSerial f.data, bitsOf (wordAt f.data 0) 16 8) } }, setBit (tokenTaken f.data) a)
  | none => ({ s with chain := { s.chain with claimed := none } }, tokenTaken f.data)

theorem enumClaimUnit_eq (d : Dev) (f : Frame) : ∃ tok, d.enumClaimUnit f = (claimStep d f (wanted d f)).1.passEnum f tok := ⟨_, rfl⟩

/-- The address the unit has claimed with this token. -/
def claimOf (s : Dev) (f : Frame) : Option Nat :=
  match s.chain.claimed with
  | some (a, k) => if k = (tokenSerial f.data, bitsOf (wordAt f.data 0) 16 8) then some a else none
  | none => none

/-- The lowest free address. -/
def freeAddr (f : Frame) : Option Nat := ((List.range 127).drop 1).find? fun a => !bitAt (tokenTaken f.data) a

/-- What the assign pass does with the address the unit gets, or with none. -/
def assignStep (s : Dev) (f : Frame) (addr : Option Nat) : Dev :=
  let s := match addr with
    | some a => s.adoptAddr a (bitsOf (wordAt f.data 0) 0 8)
    | none => s.loseAddr.put0 F.CHAIN_FULL 1
  ({ s with chain := { s.chain with assigned := true } }).put0 F.CHAIN_GEN (bitsOf (wordAt f.data 0) 16 8)

/-- The address the unit gets, and the map it sends on. -/
def addrStep (f : Frame) (claim : Option Nat) : Option Nat × Nat :=
  match claim with
  | some a => (some a, tokenTaken f.data)
  | none => match freeAddr f with
    | some a => (some a, setBit (tokenTaken f.data) a)
    | none => (none, tokenTaken f.data)

theorem addrStep_addr (f : Frame) (claim : Option Nat) : (addrStep f claim).1 = claim.or (freeAddr f) := by
  unfold addrStep
  cases claim
  case some => rfl
  case none => cases freeAddr f <;> rfl

theorem enumAssignUnit_eq (d : Dev) (f : Frame) : ∃ tok, d.enumAssignUnit f = (assignStep d f ((claimOf d f).or (freeAddr f))).passEnum f tok := by
  rw [← addrStep_addr]
  exact ⟨_, rfl⟩

theorem passEnum_sends (s : Dev) (f : Frame) (tok : List Word) : OnlySends s (s.passEnum f tok) := onlySends_forward _ _

theorem gives_claim {d : Dev} {port : Nat} {f : Frame} {P : Dev → Prop} (hp : Powered d) (h : EnumArrives d (port % 2) f)
    (hb : bitAt (wordAt f.data 0) 8 = false) (hP : P (d.enumClaimUnit f)) : Gives (.enumClaim port f) d P := by
  refine gives_of_onDev (·.enumClaim (port % 2) f) (fun _ => rfl) hp ?_
  unfold Dev.enumClaim
  rw [receive_enum _ _ _ h, hb, if_neg (by rw [h.2.2.1]; simp), not_head h]
  exact hP

theorem gives_assign {d : Dev} {port : Nat} {f : Frame} {P : Dev → Prop} (hp : Powered d) (h : EnumArrives d (port % 2) f)
    (hb : bitAt (wordAt f.data 0) 8 = true) (hP : P (d.enumAssignUnit f)) : Gives (.enumAssign port f) d P := by
  refine gives_of_onDev (·.enumAssign (port % 2) f) (fun _ => rfl) hp ?_
  unfold Dev.enumAssign
  rw [receive_enum _ _ _ h, hb, if_neg (by rw [h.2.2.1]; simp), not_head h]
  exact hP


theorem claimOf_some {d : Dev} {f : Frame} {a : Nat} (h : d.chain.claimed = some (a, tokenSerial f.data, bitsOf (wordAt f.data 0) 16 8)) :
    claimOf d f = some a := by
  unfold claimOf
  rw [h]
  exact if_pos rfl

theorem claimOf_none {d : Dev} {f : Frame} (h : ∀ b, d.chain.claimed ≠ some (b, tokenSerial f.data, bitsOf (wordAt f.data 0) 16 8)) :
    claimOf d f = none := by
  unfold claimOf
  split
  · rename_i a k hk
    refine if_neg fun hkk => h a ?_
    rw [hk, hkk]
  · rfl

/-- The claim pass at a unit, by what it wants and whether that is taken. -/
theorem claim_reads (d : Dev) (f : Frame) :
    (∀ a, wanted d f = some a → bitAt (tokenTaken f.data) a = false →
      (d.enumClaimUnit f).chain.claimed = some (a, tokenSerial f.data, bitsOf (wordAt f.data 0) 16 8) ∧ (d.enumClaimUnit f).regs = d.regs ∧
      OnlyChain d (d.enumClaimUnit f)) ∧
    (∀ a, wanted d f = some a → bitAt (tokenTaken f.data) a = true →
      (d.enumClaimUnit f).chain.claimed = none ∧ (d.enumClaimUnit f).get F.CHAIN_ADDR = 0 ∧ (d.enumClaimUnit f).get F.DUP_ADDR = 1 ∧
      OnlyFields [(F.CHAIN_ADDR, []), (F.DUP_ADDR, [])] d (d.enumClaimUnit f) ∧ OnlyChain d (d.enumClaimUnit f)) ∧
    (wanted d f = none → (d.enumClaimUnit f).chain.claimed = none ∧ (d.enumClaimUnit f).regs = d.regs ∧ OnlyChain d (d.enumClaimUnit f)) := by
  obtain ⟨tok, he⟩ := enumClaimUnit_eq d f
  obtain ⟨x, hx⟩ : ∃ x, x = (claimStep d f (wanted d f)).1 := ⟨_, rfl⟩
  rw [← hx] at he
  have w := passEnum_sends x f tok
  rw [← he] at w
  generalize d.enumClaimUnit f = e at w
  have hc : e.chain.claimed = x.chain.claimed := by rw [w.chain]
  rw [hc, w.regs, w.get, w.get]
  refine ⟨fun a hw ht => ?_, fun a hw ht => ?_, fun hw => ?_⟩
  · have h1 : x = { d with chain := { d.chain with claimed := some (a, tokenSerial f.data, bitsOf (wordAt f.data 0) 16 8) } } := by
      rw [hx, hw]
      unfold claimStep
      dsimp only
      rw [ht]
      rfl
    refine ⟨by rw [h1], by rw [h1], onlyChain_trans ?_ w.talk.chain⟩
    rw [h1]
    exact onlyChain_chain d _
  · obtain ⟨y, hy⟩ : ∃ y : Dev, y = { d with chain := { d.chain with claimed := none, assigned := false } } := ⟨_, rfl⟩
    have h1 : x = y.loseAddr.put0 F.DUP_ADDR 1 := by
      rw [hx, hw, hy]
      unfold claimStep
      dsimp only
      rw [ht]
      rfl
    obtain ⟨l1, ⟨ch, l2⟩, l3, l4⟩ := loseAddr_reads y
    have hyr : y.regs = d.regs ∧ OnlyChain d y ∧ y.chain.claimed = none := by
      rw [hy]
      exact ⟨rfl, onlyChain_chain d _, rfl⟩
    have hcl : x.chain.claimed = none := by
      have : x.chain = y.loseAddr.chain := by rw [h1]; rfl
      rw [this, l2]
      exact hyr.2.2
    refine ⟨hcl, ?_, ?_, w.fields ?_, onlyChain_trans (onlyChain_trans hyr.2.1 (onlyChain_trans l4 ?_)) w.talk.chain⟩
    · rw [h1, Dev.get_put0_apart _ _ (by decide), l1]
    · rw [h1]
      exact Dev.get_put0_fit _ (by decide) (by decide)
    · rw [h1]
      exact onlyFields_put0 _ (onlyFields_trans (onlyFields_of_regs hyr.1) (onlyFields_mono (by simp) l3)) (by simp)
    · rw [h1]
      exact onlyChain_regs (onlyRegs_put0 _ _ _)
  · have h1 : x = { d with chain := { d.chain with claimed := none } } := by
      rw [hx, hw]
      rfl
    refine ⟨by rw [h1], by rw [h1], onlyChain_trans ?_ w.talk.chain⟩
    rw [h1]
    exact onlyChain_chain d _

/-- The assign pass at a unit that gets address `a`. -/
theorem assign_gets (d : Dev) {f : Frame} {a : Nat} (h : (claimOf d f).or (freeAddr f) = some a) :
    let e := d.enumAssignUnit f
    e.get F.CHAIN_ADDR = a % 128 ∧ e.get F.CHAIN_ADDR_ID = bitsOf (wordAt f.data 0) 0 8 ∧ e.get F.CHAIN_GEN = bitsOf (wordAt f.data 0) 16 8 ∧
    e.chain.sticky = some (a, bitsOf (wordAt f.data 0) 0 8) ∧ e.chain.assigned = true ∧
    OnlyFields [(F.CHAIN_ADDR, []), (F.CHAIN_ADDR_ID, []), (F.CHAIN_GEN, []), (F.DUP_ADDR, []), (F.CHAIN_FULL, [])] d e ∧ OnlyChain d e := by
  obtain ⟨tok, he⟩ := enumAssignUnit_eq d f
  obtain ⟨s1, hs1⟩ : ∃ s1, s1 = d.adoptAddr a (bitsOf (wordAt f.data 0) 0 8) := ⟨_, rfl⟩
  obtain ⟨s2, hs2⟩ : ∃ s2 : Dev, s2 = { s1 with chain := { s1.chain with assigned := true } } := ⟨_, rfl⟩
  obtain ⟨x, hx⟩ : ∃ x, x = s2.put0 F.CHAIN_GEN (bitsOf (wordAt f.data 0) 16 8) := ⟨_, rfl⟩
  have h1 : assignStep d f ((claimOf d f).or (freeAddr f)) = x := by
    rw [h, hx, hs2, hs1]
    rfl
  rw [h1] at he
  have w := passEnum_sends x f tok
  rw [← he] at w
  intro e
  change OnlySends x e at w
  obtain ⟨a1, a2, a3, -, a5, a6⟩ := adoptAddr_reads d a (cid := bitsOf (wordAt f.data 0) 0 8) (bitsOf_lt _ _ _)
  rw [← hs1] at a1 a2 a3 a5 a6
  have h2 : s2.regs = s1.regs ∧ s2.chain = { s1.chain with assigned := true } ∧ OnlyChain s1 s2 := by
    rw [hs2]
    exact ⟨rfl, rfl, onlyChain_chain s1 _⟩
  have h3 : x.get F.CHAIN_GEN = bitsOf (wordAt f.data 0) 16 8 ∧ OnlyFields [(F.CHAIN_GEN, [])] s2 x ∧ OnlyRegs s2 x := by
    rw [hx]
    exact ⟨Dev.get_put0_fit _ (by decide) (bitsOf_lt _ _ _), onlyFields_put0 _ (onlyFields_refl _ s2) (by simp), onlyRegs_put0 _ _ _⟩
  have hg : ∀ g ∈ [F.CHAIN_ADDR, F.CHAIN_ADDR_ID], e.get g = s1.get g := fun g hg => by
    have ha : ∀ g ∈ [F.CHAIN_ADDR, F.CHAIN_ADDR_ID], ∀ x ∈ [(F.CHAIN_GEN, ([] : List Nat))], Fld.apart x.1 x.2 g [] = true := by decide
    rw [w.get, h3.2.1.get g [] (ha g hg), Dev.get_eq, h2.1, ← Dev.get_eq]
  have hc : e.chain.sticky = s1.chain.sticky ∧ e.chain.assigned = true := by
    have : x.chain = s2.chain := by rw [h3.2.2]
    rw [w.chain, this, h2.2.1]
    exact ⟨rfl, rfl⟩
  refine ⟨by rw [hg _ (by simp), a1], by rw [hg _ (by simp), a2], by rw [w.get, h3.1], by rw [hc.1, a3], hc.2, w.fields ?_,
    onlyChain_trans a6 (onlyChain_trans h2.2.2 (onlyChain_trans (onlyChain_regs h3.2.2) w.talk.chain))⟩
  exact onlyFields_trans (onlyFields_mono (by simp) a5) (onlyFields_trans (onlyFields_of_regs h2.1) (onlyFields_mono (by simp) h3.2.1))

/-- The assign pass at a unit for which no address is left. -/
theorem assign_full (d : Dev) {f : Frame} (h : (claimOf d f).or (freeAddr f) = none) :
    (d.enumAssignUnit f).get F.CHAIN_ADDR = 0 ∧ (d.enumAssignUnit f).get F.CHAIN_FULL = 1 ∧ OnlyChain d (d.enumAssignUnit f) := by
  obtain ⟨tok, he⟩ := enumAssignUnit_eq d f
  obtain ⟨s1, hs1⟩ : ∃ s1, s1 = d.loseAddr.put0 F.CHAIN_FULL 1 := ⟨_, rfl⟩
  obtain ⟨s2, hs2⟩ : ∃ s2 : Dev, s2 = { s1 with chain := { s1.chain with assigned := true } } := ⟨_, rfl⟩
  obtain ⟨x, hx⟩ : ∃ x, x = s2.put0 F.CHAIN_GEN (bitsOf (wordAt f.data 0) 16 8) := ⟨_, rfl⟩
  have h1 : assignStep d f ((claimOf d f).or (freeAddr f)) = x := by
    rw [h, hx, hs2, hs1]
    rfl
  rw [h1] at he
  have w := passEnum_sends x f tok
  rw [← he] at w
  obtain ⟨l1, -, -, l4⟩ := loseAddr_reads d
  have h2 : s1.get F.CHAIN_ADDR = 0 ∧ s1.get F.CHAIN_FULL = 1 ∧ OnlyChain d s1 := by
    rw [hs1]
    exact ⟨by rw [Dev.get_put0_apart _ _ (by decide), l1], Dev.get_put0_fit _ (by decide) (by decide), onlyChain_trans l4 (onlyChain_regs (onlyRegs_put0 _ _ _))⟩
  have h3 : s2.regs = s1.regs ∧ OnlyChain s1 s2 := by
    rw [hs2]
    exact ⟨rfl, onlyChain_chain s1 _⟩
  have hg : ∀ g ∈ [F.CHAIN_ADDR, F.CHAIN_FULL], (d.enumAssignUnit f).get g = s1.get g := fun g hg => by
    have ha : ∀ g ∈ [F.CHAIN_ADDR, F.CHAIN_FULL], Fld.apart F.CHAIN_GEN [] g [] = true := by decide
    rw [w.get, hx, Dev.get_put0_apart _ _ (ha g hg), Dev.get_eq, h3.1, ← Dev.get_eq]
  refine ⟨by rw [hg _ (by simp), h2.1], by rw [hg _ (by simp), h2.2.1], onlyChain_trans h2.2.2 (onlyChain_trans h3.2 (onlyChain_trans ?_ w.talk.chain))⟩
  rw [hx]
  exact onlyChain_regs (onlyRegs_put0 _ _ _)

/-! ### The timer and the events -/

theorem enumTimeout_resends {d : Dev} {x : EnumRun} (h : d.chain.enum = some x) (hr : x.resends < 8) :
    d.enumTimeout.chain.enum = some { x with resends := x.resends + 1 } ∧ d.enumTimeout.regs = d.regs ∧ OnlyChain d d.enumTimeout := by
  obtain ⟨s1, hs1⟩ : ∃ s1, s1 = d.setEnum (some { x with resends := x.resends + 1 }) := ⟨_, rfl⟩
  have he : d.enumTimeout = s1.sendEnum x.token := by
    unfold Dev.enumTimeout
    rw [h]
    dsimp only
    rw [if_pos hr, hs1]
  have h1 : s1.regs = d.regs ∧ s1.chain.enum = some { x with resends := x.resends + 1 } ∧ OnlyChain d s1 := by
    rw [hs1]
    exact ⟨rfl, rfl, onlyChain_chain d _⟩
  have w : OnlySends s1 (s1.sendEnum x.token) := txPrimary_sends _ _ _
  rw [he]
  refine ⟨?_, w.regs.trans h1.1, onlyChain_trans h1.2.2 w.talk.chain⟩
  rw [w.chain]
  exact h1.2.1

theorem enumTimeout_fails {d : Dev} {x : EnumRun} (h : d.chain.enum = some x) (hr : 8 ≤ x.resends) :
    d.enumTimeout.chain.enum = none ∧ d.enumTimeout.get F.ENUM_FAIL = 1 ∧ OnlyFields [(F.ENUM_FAIL, [])] d d.enumTimeout ∧ OnlyChain d d.enumTimeout := by
  obtain ⟨s1, hs1⟩ : ∃ s1, s1 = d.setEnum none := ⟨_, rfl⟩
  have he : d.enumTimeout = s1.event F.ENUM_FAIL F.CHAIN_IRQ_EN 0 2 := by
    unfold Dev.enumTimeout
    rw [h]
    dsimp only
    rw [if_neg (by omega), hs1]
    rfl
  have h1 : s1.regs = d.regs ∧ s1.chain.enum = none ∧ OnlyChain d s1 := by
    rw [hs1]
    exact ⟨rfl, rfl, onlyChain_chain d _⟩
  rw [he]
  exact ⟨by rw [event_chain]; exact h1.2.1, Dev.get_event_same _ _ _ _ (by decide) (by decide),
    onlyFields_event _ _ _ (onlyFields_of_regs h1.1) (by simp), onlyChain_trans h1.2.2 (onlyRegsIrq_event _ _ _ _ _).talk.chain⟩

theorem onEnumDone_changed {d : Dev} (h : d.chain.changed = true) :
    d.onEnumDone.get F.ADDR_CHANGED = 1 ∧ d.onEnumDone.chain.changed = false ∧ OnlyFields [(F.ADDR_CHANGED, [])] d d.onEnumDone ∧ OnlyChain d d.onEnumDone := by
  obtain ⟨s1, hs1⟩ : ∃ s1 : Dev, s1 = { d with chain := { d.chain with changed := false } } := ⟨_, rfl⟩
  have he : d.onEnumDone = s1.event F.ADDR_CHANGED F.CHAIN_IRQ_EN 2 2 := by
    unfold Dev.onEnumDone
    rw [if_pos h, hs1]
    rfl
  have h1 : s1.regs = d.regs ∧ s1.chain.changed = false ∧ OnlyChain d s1 := by
    rw [hs1]
    exact ⟨rfl, rfl, onlyChain_chain d _⟩
  rw [he]
  exact ⟨Dev.get_event_same _ _ _ _ (by decide) (by decide), by rw [event_chain]; exact h1.2.1, onlyFields_event _ _ _ (onlyFields_of_regs h1.1) (by simp),
    onlyChain_trans h1.2.2 (onlyRegsIrq_event _ _ _ _ _).talk.chain⟩

theorem attachTimer_sends {d : Dev} (h : d.get F.CHAIN_ADDR = 0) (ha : d.chain.assigned = false) (hd : d.dUp = true) :
    (∃ x ∈ d.attachTimer.chain.txD, x.frame.typ = tyEvent ∧ x.frame.sub = 1 ∧ x.frame.dst = 1 ∧ x.frame.src = 0) ∧
    d.attachTimer = { d with chain := { d.chain with txD := d.attachTimer.chain.txD } } := by
  have he : d.attachTimer = d.txD false (d.ownFrame tyEvent 1 1 0 [BitVec.ofNat 32 0, BitVec.ofNat 32 (d.get F.POS_TICK)]) := by
    unfold Dev.attachTimer
    rw [if_pos ⟨h, by rw [ha]; rfl⟩]
    unfold Dev.sendEvent Dev.send
    rw [if_neg (by simp)]
    unfold Dev.txPrimary
    rw [if_pos hd]
  rw [he]
  exact ⟨⟨_, (mem_txInsert _ _ _).2 (.inl rfl), rfl, rfl, rfl, h⟩, rfl⟩

/-- Settles O11: enumerations start one at a time, are resent and fail; units claim, take and lose addresses as Table 4.4 says. -/
theorem chainEnumerationStarts : Obligations.ChainEnumerationStarts := by
  unfold Obligations.ChainEnumerationStarts
  constructor
  · intro d hp
    refine ⟨fun hh hn hl => ?_, fun hh hn => ?_, fun x hx => ⟨fun hr => ?_, fun hr => ?_⟩⟩
    · have hb := enumBegin_reads d
      have hs := enumStart_begins hh hn hl
      refine ⟨gives_of_onDev Dev.enumStart (fun _ => rfl) hp (by rw [hs]; exact hb.begun),
        gives_of_onDev Dev.headPortHold (fun _ => rfl) hp (by unfold Dev.headPortHold; rw [hs]; exact hb.begun), fun hq => ?_, fun port f ha => ⟨fun h1 => ?_, fun h4 => ?_⟩⟩
      · refine gives_of_onDev Dev.enumQueued (fun _ => rfl) hp ?_
        obtain ⟨y, hy⟩ : ∃ y : Dev, y = { d with chain := { d.chain with queued := false } } := ⟨_, rfl⟩
        have h2 : y.regs = d.regs ∧ y.now = d.now ∧ y.mem = d.mem ∧ y.cad = d.cad ∧ y.chain.queued = false := by
          rw [hy]
          exact ⟨rfl, rfl, rfl, rfl, rfl⟩
        have he : d.enumQueued = y.enumBegin := by
          unfold Dev.enumQueued
          rw [hq, hn, flag_of_one hh, hy]
          refine if_pos ?_
          rcases hl with hl | ⟨t, hl, ht⟩
          · rw [hl]; rfl
          · rw [hl]
            simpa using ht
        have hb := enumBegin_reads y
        rw [he]
        exact ⟨enumBegun_congr (onlyFields_of_regs h2.1) h2.2.1 h2.2.2.1 h2.2.2.2.1 hb.begun, hb.queued.trans h2.2.2.2.2⟩
      · refine gives_event Dev.enumStart (fun _ => rfl) hp ha h1 fun e he => ?_
        rw [hs] at he
        exact hb.begun.sent he
      · refine gives_event (·.onUnwrapDone f) (fun _ => rfl) hp ha h4 fun e he => ?_
        obtain ⟨y, hy⟩ : ∃ y, y = d.markBreak (bitsOf (wordAt f.data 0) 8 7) false := ⟨_, rfl⟩
        obtain ⟨k, o⟩ := markBreak_map d (a := bitsOf (wordAt f.data 0) 8 7) (bitsOf_lt _ _ _) false
        rw [← hy] at k o
        have hc : y.chain = d.chain := by rw [o]
        have hs' := enumStart_begins (d := y) (by rw [k.get F.CHAIN_HEAD [] (by decide)]; exact hh) (by rw [hc]; exact hn)
          (by rw [hc, o.now]; exact hl)
        have he' : d.onUnwrapDone f = y.enumBegin := by
          unfold Dev.onUnwrapDone
          rw [← hy, hs']
        rw [he'] at he
        exact (enumBegun_congr k o.now o.mem.1 o.cad (enumBegin_reads y).begun).sent he
    · refine gives_of_onDev Dev.enumStart (fun _ => rfl) hp ?_
      obtain ⟨x, hx⟩ := Option.ne_none_iff_exists'.1 hn
      unfold Dev.enumStart
      rw [flag_of_one hh, hx]
      rfl
    · exact gives_of_onDev Dev.enumTimeout (fun _ => rfl) hp (enumTimeout_resends hx hr)
    · exact gives_of_onDev Dev.enumTimeout (fun _ => rfl) hp (enumTimeout_fails hx hr)
  · intro d port f hp w key want
    have hwant : want = wanted d f := rfl
    refine ⟨fun ha => ⟨fun hb => ⟨fun a hw ht => ?_, fun a hw ht => ?_, fun hw => ?_⟩, fun hb => ?_⟩, fun h0 hna hd => ?_, fun ha hs => ⟨fun hc => ?_, fun hc => ?_⟩⟩
    · exact gives_claim hp ha hb ((claim_reads d f).1 a (hwant ▸ hw) ht)
    · exact gives_claim hp ha hb ((claim_reads d f).2.1 a (hwant ▸ hw) ht)
    · exact gives_claim hp ha hb ((claim_reads d f).2.2 (hwant ▸ hw))
    · intro free gets
      refine ⟨fun a hc => ?_, fun a hc hf => ?_, fun hc hf => ?_⟩
      · exact gives_assign hp ha hb (assign_gets d (by rw [claimOf_some hc]; rfl))
      · exact gives_assign hp ha hb (assign_gets d (by rw [claimOf_none hc]; exact hf))
      · exact gives_assign hp ha hb (assign_full d (by rw [claimOf_none hc]; exact hf))
    · exact gives_of_onDev Dev.attachTimer (fun _ => rfl) hp (attachTimer_sends h0 hna hd)
    · refine gives_event Dev.onEnumDone (fun _ => rfl) hp ha hs fun e he => ?_
      obtain ⟨c1, c2, c3, c4⟩ := onEnumDone_changed hc
      exact ⟨by rw [he.get]; exact c1, by rw [he.chain]; exact c2, he.fields c3, onlyChain_trans c4 he.talk.chain⟩
    · refine gives_event Dev.onEnumDone (fun _ => rfl) hp ha hs fun e he => ?_
      have : d.onEnumDone = d := by
        unfold Dev.onEnumDone
        rw [hc]
        rfl
      rw [this] at he
      exact ⟨he.regs, he.talk⟩

end Sys2Proof
end

section
/-! SUPPORT. Resets: what power-on reset and a warm reset keep (20 R715, R716, Table 20.1). -/

namespace Sys2Proof

open Machine

theorem Tab.get_filter_out {α : Type} (d : α) (t : Tab α) (p : Nat × α → Bool) (k : Nat) (h : ∀ v, p (k, v) = false) : Tab.get d (t.filter p) k = d := by
  refine tabGet_of_not_mem d _ k fun hm => ?_
  obtain ⟨⟨j, v⟩, he, rfl⟩ := List.mem_map.1 hm
  have := (List.mem_filter.1 he).2
  rw [h v] at this
  exact absurd this (by decide)

/-! ### Power-on reset -/

/-- A column of an array: T-array columns lie from 32 up (10 R363). -/
theorem screeOff_cells (s : Dev) (die k : Nat) :
    Tab.get none (s.screeOff die).scree.cells k =
      if k / 65536 / 44 / 16384 = die ∧ k / 65536 % 44 < 32 then none else Tab.get none s.scree.cells k := by
  have he : (s.screeOff die).scree.cells = s.scree.cells.filter fun e =>
      !(e.1 / 65536 / 44 / 16384 == die && decide (e.1 / 65536 % 44 < 32)) := rfl
  rw [he]
  split
  · rename_i h
    exact Tab.get_filter_out _ _ _ _ fun v => by simp [h.1, h.2]
  · rename_i h
    exact Tab.get_filter _ _ _ _ fun v => by rcases not_and_or.1 h with h | h <;> simp [h]

theorem keptScree_cells (s : Dev) (n k : Nat) :
    Tab.get none (s.forEach (List.range n) Dev.screeOff).scree.cells k =
      if k / 65536 / 44 / 16384 < n ∧ k / 65536 % 44 < 32 then none else Tab.get none s.scree.cells k := by
  induction n with
  | zero => simp [Dev.forEach]
  | succ n ih =>
    have he : s.forEach (List.range (n + 1)) Dev.screeOff = (s.forEach (List.range n) Dev.screeOff).screeOff n := by
      rw [Dev.forEach, List.range_succ, List.foldl_append]
      rfl
    rw [he, screeOff_cells, ih]
    by_cases h1 : k / 65536 % 44 < 32
    · by_cases h2 : k / 65536 / 44 / 16384 = n
      · rw [if_pos ⟨h2, h1⟩, if_pos ⟨by omega, h1⟩]
      · rw [if_neg fun h => h2 h.1]
        by_cases h3 : k / 65536 / 44 / 16384 < n
        · rw [if_pos ⟨h3, h1⟩, if_pos ⟨by omega, h1⟩]
        · rw [if_neg fun h => h3 h.1, if_neg fun h => by omega]
    · rw [if_neg fun h => h1 h.2, if_neg fun h => h1 h.2, if_neg fun h => h1 h.2]

theorem afterPowerReset (d e : Dev) (off : Nat) (he : e = { Dev.reset with
    free := d.free, hostMem := d.hostMem, hostPoison := d.hostPoison, scree := d.keptScree, host := { HostIf.reset with sent := d.host.sent }
    pwr := { Pwr.reset with off := off, wakeIn := d.pwr.wakeIn }, boot := { Boot.reset with plugged := d.boot.plugged, perst := d.boot.perst } }) :
    AfterPowerReset off d e := by
  have hs : e.scree = d.keptScree := by rw [he]
  have hr : e.regs = [] := by rw [he]; rfl
  refine ⟨fun o => by unfold Dev.reg; rw [hr]; rfl, fun k hk => ?_, fun k h1 h2 => ?_, by rw [hs]; exact he⟩
  · rw [hs, Dev.keptScree, keptScree_cells, if_neg fun h => by omega]
  · rw [hs, Dev.keptScree, keptScree_cells, if_pos ⟨h2, h1⟩]

/-! ### Warm reset -/

/-- The registers that the obligation speaks of after a warm reset: those outside the always-on blocks and the warden's, and three that are kept. -/
def warmSeen (off : Nat) : Prop :=
  (aonBlock off = false ∧ ¬(0x3800000 ≤ off ∧ off < 0x3A00000)) ∨ off = F.CHAIN_ADDR.off [] ∨ off = F.FAULT_HEAD.off [] ∨ off = F.FENCE_HISTORY.off []

/-- The steps after the new state is made write the always-on blocks, and three fields of BOOT_STAGE's and the warden's registers. -/
theorem not_warmSeen {off : Nat} (h : off < 0x104000 ∨ (0x3A00000 ≤ off ∧ off < 0x3E00000) ∨ off = 0x3800000) : ¬warmSeen off := by
  have h1 : F.CHAIN_ADDR.off [] = 0x200008 := rfl
  have h2 : F.FAULT_HEAD.off [] = 0x380000C := rfl
  have h3 : F.FENCE_HISTORY.off [] = 0x3800018 := rfl
  unfold warmSeen
  rw [h1, h2, h3]
  rintro (⟨ha, hw⟩ | h' | h' | h')
  · simp only [aonBlock, Bool.or_eq_false_iff, Bool.and_eq_false_iff, decide_eq_false_iff_not] at ha
    omega
  all_goals omega

/-- Registers change, and of those seen none. -/
structure WarmStep (a b : Dev) : Prop where
  regs : Stands warmSeen a b
  only : OnlyRegs a b

theorem warmStep_refl (s : Dev) : WarmStep s s := ⟨stands_refl _ s, onlyRegs_refl s⟩

theorem warmStep_trans {a b c : Dev} (h : WarmStep a b) (h' : WarmStep b c) : WarmStep a c :=
  ⟨stands_trans h.regs h'.regs, onlyRegs_trans h.only h'.only⟩

theorem warmStep_put (s : Dev) {f : Fld} {ix : List Nat} (v : Nat)
    (h : f.off ix < 0x104000 ∨ (0x3A00000 ≤ f.off ix ∧ f.off ix < 0x3E00000) ∨ f.off ix = 0x3800000) : WarmStep s (s.put f ix v) :=
  ⟨stands_put s v (not_warmSeen h), onlyRegs_put _ _ _ _⟩

theorem alLast_off (a : Nat) : F.AL_LAST.off [a] = 0x101018 + 32 * a := by simp [Fld.off]

theorem rail_offs (r : Nat) : ∀ f ∈ [F.RAIL_TARGET, F.RAIL_IN_FLIGHT, F.RAIL_ENABLED, F.RAIL_PENDING_VALID, F.RAIL_PENDING],
    0x3A01000 ≤ f.off [r] ∧ f.off [r] ≤ 0x3A01008 + 0x40 * r := by
  intro f hf
  simp only [List.mem_cons, List.not_mem_nil, or_false] at hf
  rcases hf with rfl | rfl | rfl | rfl | rfl <;> simp [Fld.off] <;> omega

theorem dom_offs (d : Nat) : ∀ f ∈ [F.DOM_STATE, F.DOM_REQUESTED, F.DOM_PENDING, F.DOM_BUSY, F.DOM_FLOOR], f.off [d] = 0x3A00020 + 4 * d := by
  intro f hf
  simp only [List.mem_cons, List.not_mem_nil, or_false] at hf
  rcases hf with rfl | rfl | rfl | rfl | rfl <;> simp [Fld.off]

theorem warmStep_rail (s : Dev) {r : Nat} (hr : r < 14) {f : Fld} (hf : f ∈ [F.RAIL_TARGET, F.RAIL_IN_FLIGHT, F.RAIL_ENABLED, F.RAIL_PENDING_VALID, F.RAIL_PENDING])
    (v : Nat) : WarmStep s (s.put f [r] v) := by
  obtain ⟨h1, h2⟩ := rail_offs r f hf
  exact warmStep_put s v (.inr (.inl ⟨by omega, by omega⟩))

theorem warmStep_dom (s : Dev) {d : Nat} (hd : d < 10) {f : Fld} (hf : f ∈ [F.DOM_STATE, F.DOM_REQUESTED, F.DOM_PENDING, F.DOM_BUSY, F.DOM_FLOOR])
    (v : Nat) : WarmStep s (s.put f [d] v) := by
  have h := dom_offs d f hf
  exact warmStep_put s v (.inr (.inl ⟨by omega, by omega⟩))

/-- The unit as a warm reset makes it, before the registers it then sets. -/
def warmBase (s : Dev) : Dev :=
  { s.powerReset with
    now := s.now
    regs := s.regs.filter fun e => warmKept e.1
    shadow := s.shadow.filter fun e => warmKept e.1
    caps := s.caps.filter fun e => aonBlock (e.1 % 2 ^ 26)
    held := s.held.filter fun e => aonBlock (e.1 % 2 ^ 26)
    cad := { s.cad with partMask := 0, issued := none, taking := none, resign := false, handing := false }
    chain := s.chain
    mem := s.mem.filter fun e => decide (2 ^ 48 ≤ e.1)
    ecc := s.ecc.filter fun e => decide (2 ^ 48 ≤ e.1 * 8)
    warden := { Warden.reset with ccAt := s.warden.ccAt }
    pauses := Tab.set false [] 1 (decide (2 ≤ s.get F.DRAIN_STATE))
    pwr := { Pwr.reset with
      resCyc := s.pwr.resCyc, resTick := s.pwr.resTick, auxRetry := s.pwr.auxRetry, auxDrive := s.pwr.auxDrive, auxShort := s.pwr.auxShort
      wakeIn := s.pwr.wakeIn
      emerg := [] }
    panel := s.panel
    boot := { Boot.reset with board := s.boot.board, warm := true, plugged := s.boot.plugged, perst := s.boot.perst } }

theorem warmBase_reg (s : Dev) (o : Nat) : (warmBase s).reg o = if warmKept o then s.reg o else regDefault o := by
  have he : (warmBase s).reg o = Tab.get (regDefault o) (s.regs.filter fun e => warmKept e.1) o := rfl
  rw [he]
  split
  · rename_i h
    exact Tab.get_filter _ _ _ _ fun _ => h
  · rename_i h
    exact Tab.get_filter_out _ _ _ _ fun _ => by simpa using h

/-- The end of a warm reset: of what it sets then, BOOT_STAGE is the last that matters here. -/
def warmEnd (n : Dev) (out : List Nat) : Dev :=
  let n := (n.put0 F.UNIT_STATE 0).put0 F.FENCED (out.map (2 ^ ·)).sum
  let n := if out.isEmpty then n else n.put0 F.WARDEN_MODE 1
  ((n.put0 F.BOOT_STAGE 2).put0 F.THROTTLED 0).put0 F.CAP_ACTIVE 0

theorem warmEnd_reads (n : Dev) (out : List Nat) : (warmEnd n out).get F.BOOT_STAGE = 2 ∧ WarmStep n (warmEnd n out) := by
  obtain ⟨s1, h1⟩ : ∃ s1, s1 = (n.put0 F.UNIT_STATE 0).put0 F.FENCED (out.map (2 ^ ·)).sum := ⟨_, rfl⟩
  obtain ⟨s2, h2⟩ : ∃ s2, s2 = if out.isEmpty then s1 else s1.put0 F.WARDEN_MODE 1 := ⟨_, rfl⟩
  have he : warmEnd n out = ((s2.put0 F.BOOT_STAGE 2).put0 F.THROTTLED 0).put0 F.CAP_ACTIVE 0 := by rw [h2, h1]; rfl
  have w1 : WarmStep n s1 := by
    rw [h1]
    exact warmStep_trans (warmStep_put _ _ (.inr (.inl (by decide)))) (warmStep_put _ _ (.inr (.inr rfl)))
  have w2 : WarmStep s1 s2 := by
    rw [h2]
    split
    · exact warmStep_refl s1
    · exact warmStep_put _ _ (.inr (.inr rfl))
  rw [he]
  refine ⟨?_, warmStep_trans w1 (warmStep_trans w2 (warmStep_trans (warmStep_put (f := F.BOOT_STAGE) _ _ (.inl (by decide)))
    (warmStep_trans (warmStep_put (f := F.THROTTLED) _ _ (.inr (.inl (by decide)))) (warmStep_put (f := F.CAP_ACTIVE) _ _ (.inr (.inl (by decide))))))) ⟩
  rw [Dev.get_put0_apart _ _ (by decide), Dev.get_put0_apart _ _ (by decide)]
  exact Dev.get_put0_fit _ (by decide) (by decide)

theorem warmReset_base (d : Dev) : ∃ s n, s = d.stopMaster ∧ (∃ out, d.warmReset = warmEnd n out) ∧ WarmStep (warmBase s) n := by
  obtain ⟨s, hs⟩ : ∃ s, s = d.stopMaster := ⟨_, rfl⟩
  obtain ⟨live, hl⟩ : ∃ live, live = (List.range 256).filter fun n => s.get F.AL_STATE [n] != 0 := ⟨_, rfl⟩
  obtain ⟨n1, h1⟩ : ∃ n1, n1 = (warmBase s).forEach live fun n a => n.put F.AL_LAST [a] stCANCELLED := ⟨_, rfl⟩
  obtain ⟨n2, h2⟩ : ∃ n2, n2 = n1.forEach [11, 0, 1, 2, 3, 4, 5, 6, 7] fun n r =>
    ((((n.put F.RAIL_TARGET [r] 0).put F.RAIL_IN_FLIGHT [r] 0).put F.RAIL_ENABLED [r] 0).put F.RAIL_PENDING_VALID [r] 0).put
      F.RAIL_PENDING [r] 0 := ⟨_, rfl⟩
  obtain ⟨n3, h3⟩ : ∃ n3, n3 = n2.forEach (List.range 10) fun n d =>
    ((((n.put F.DOM_STATE [d] 0).put F.DOM_REQUESTED [d] 0).put F.DOM_PENDING [d] 7).put F.DOM_BUSY [d] 0).put F.DOM_FLOOR [d] 0 := ⟨_, rfl⟩
  refine ⟨s, n3, hs, ?_, ?_⟩
  · rw [h3, h2, h1, hl, hs]
    exact ⟨_, rfl⟩
  · have w1 : WarmStep (warmBase s) n1 := by
      rw [h1]
      refine forEach_keeps warmStep_refl warmStep_trans _ _ (fun n a ha => ?_) _
      rw [hl] at ha
      have hlt := List.mem_range.1 (List.mem_filter.1 ha).1
      refine warmStep_put _ _ (.inl ?_)
      rw [alLast_off]
      omega
    have w2 : WarmStep n1 n2 := by
      rw [h2]
      refine forEach_keeps warmStep_refl warmStep_trans _ _ (fun n r hr => ?_) _
      have hlt : r < 14 := by revert r; decide
      exact warmStep_trans (warmStep_rail _ hlt (by simp) _) (warmStep_trans (warmStep_rail _ hlt (by simp) _) (warmStep_trans (warmStep_rail _ hlt (by simp) _)
        (warmStep_trans (warmStep_rail _ hlt (by simp) _) (warmStep_rail _ hlt (by simp) _))))
    have w3 : WarmStep n2 n3 := by
      rw [h3]
      refine forEach_keeps warmStep_refl warmStep_trans _ _ (fun n x hx => ?_) _
      have hlt := List.mem_range.1 hx
      exact warmStep_trans (warmStep_dom _ hlt (by simp) _) (warmStep_trans (warmStep_dom _ hlt (by simp) _) (warmStep_trans (warmStep_dom _ hlt (by simp) _)
        (warmStep_trans (warmStep_dom _ hlt (by simp) _) (warmStep_dom _ hlt (by simp) _))))
    exact warmStep_trans w1 (warmStep_trans w2 w3)

theorem warmReset_reads (d : Dev) :
    let e := d.warmReset
    e.get F.BOOT_STAGE = 2 ∧ e.boot.warm = true ∧ e.chain = d.chain ∧ e.get F.CHAIN_ADDR = d.get F.CHAIN_ADDR ∧
    e.get F.FAULT_HEAD = d.get F.FAULT_HEAD ∧ e.get F.FENCE_HISTORY = d.get F.FENCE_HISTORY ∧
    (∀ o, aonBlock o = false → ¬(0x3800000 ≤ o ∧ o < 0x3A00000) → e.reg o = regDefault o) ∧
    (∀ a, Tab.get 0 e.mem a = if 2 ^ 48 ≤ a then Tab.get 0 d.mem a else 0) ∧ e.queues = [] ∧ e.cores = [] ∧ e.parts = [] ∧
    e.engines = [] ∧ e.hostMem = d.hostMem := by
  obtain ⟨s, n, hs, ⟨out, he⟩, w1⟩ := warmReset_base d
  obtain ⟨-, m2, m3⟩ := stopMaster_reads d
  rw [← hs] at m2 m3
  obtain ⟨e1, w2⟩ := warmEnd_reads n out
  intro e
  change d.warmReset = _ at he
  have he' : e = warmEnd n out := he
  have w := warmStep_trans w1 w2
  rw [← he'] at w e1
  obtain ⟨o1, o2, o3, o4, o5, o6, o7, o8⟩ : e.boot.warm = true ∧ e.chain = s.chain ∧ e.mem = (warmBase s).mem ∧ e.queues = [] ∧ e.cores = [] ∧
      e.parts = [] ∧ e.engines = [] ∧ e.hostMem = s.hostMem := by
    rw [w.only]
    exact ⟨rfl, rfl, rfl, rfl, rfl, rfl, rfl, rfl⟩
  have hs1 : s.chain = d.chain ∧ s.mem = d.mem ∧ s.hostMem = d.hostMem := by
    rw [m3]
    exact ⟨rfl, rfl, rfl⟩
  have kept : ∀ f ∈ [F.CHAIN_ADDR, F.FAULT_HEAD, F.FENCE_HISTORY], e.get f = d.get f := fun f hf => by
    have hk : ∀ f ∈ [F.CHAIN_ADDR, F.FAULT_HEAD, F.FENCE_HISTORY], warmKept (f.off []) = true ∧ f.off [] ≠ 0x100004 := by decide
    have hw : warmSeen (f.off []) := by
      simp only [List.mem_cons, List.not_mem_nil, or_false] at hf
      rcases hf with rfl | rfl | rfl
      · exact .inr (.inl rfl)
      · exact .inr (.inr (.inl rfl))
      · exact .inr (.inr (.inr rfl))
    unfold Dev.get
    rw [w.regs _ hw, warmBase_reg, if_pos (hk f hf).1, m2 _ (hk f hf).2]
  refine ⟨e1, o1, o2.trans hs1.1, kept _ (by simp), kept _ (by simp), kept _ (by simp), fun o h1 h2 => ?_, fun a => ?_, o4, o5, o6, o7, o8.trans hs1.2.2⟩
  · rw [w.regs o (.inl ⟨h1, h2⟩), warmBase_reg]
    refine if_neg fun h => ?_
    unfold warmKept at h
    rw [if_neg h2, h1] at h
    simp at h
  · have hm : (warmBase s).mem = s.mem.filter fun e => decide (2 ^ 48 ≤ e.1) := rfl
    rw [o3, hm, ← hs1.2.1]
    split
    · rename_i h
      exact Tab.get_filter _ _ _ _ fun _ => by simpa using h
    · rename_i h
      exact Tab.get_filter_out _ _ _ _ fun _ => by simpa using h

theorem coreOk_reset (key : Nat) : CoreOk key Core.reset := by
  unfold CoreOk
  cases isLane key <;> decide

/-- Settles O26: what resets leave is the reset state, but for what each keeps. -/
theorem resetsKeepOnlyTheTArrays : Obligations.ResetsKeepOnlyTheTArrays := by
  unfold Obligations.ResetsKeepOnlyTheTArrays
  refine ⟨⟨fun d => ?_, fun d hoff => ?_⟩, ⟨fun d req hp => ?_, fun d req t hp ha ht hc => ?_⟩, ?_⟩
  · exact gives_of_onRaw (·.powerOff 3) (fun _ => rfl) (afterPowerReset d _ 3 rfl)
  · refine gives_of_onRaw Dev.supplyRestart (fun _ => rfl) ?_
    unfold Dev.supplyRestart
    rw [if_pos hoff]
    exact afterPowerReset d _ 0 rfl
  · exact gives_of_onDev (·.resetArm req) (fun _ => rfl) hp rfl
  · refine gives_of_onDev (·.resetGo req) (fun _ => rfl) hp ?_
    have he : d.resetGo req = d.warmReset := by
      unfold Dev.resetGo
      rw [ha]
      exact if_pos ⟨rfl, ht, hc⟩
    rw [he]
    exact warmReset_reads d
  · refine ⟨rfl, rfl, fun o => rfl, by decide +kernel, by decide +kernel, by decide +kernel, by decide +kernel, by decide +kernel, by decide +kernel,
      by decide +kernel, by decide +kernel, by decide +kernel, fun key => coreOk_reset key⟩

end Sys2Proof
end

section
/-! SUPPORT. Waits on fences and the cadence commands of lists, and the statement about them (07 R246 to R248, R252 to R254). -/

namespace Sys2Proof

open Machine

/-! ### A command changes, and ends -/

theorem updCmd_reads {d : Dev} {k : Nat} {c : Cmd} (h : d.cmdOf k = some c) (f : Cmd → Cmd) :
    (d.updCmd k f).cmdOf k = some (f c) ∧ (∀ j, j ≠ k → (d.updCmd k f).queue j = d.queue j) ∧
    d.updCmd k f = { d with queues := (d.updCmd k f).queues } := by
  refine ⟨?_, fun j hj => ?_, rfl⟩
  · rw [cmdOf_updCmd, if_pos rfl, h]
    rfl
  · exact (queue_updQ _ _ _ _).trans (if_neg hj)

theorem endCmd_reads {d : Dev} {k : Nat} {c : Cmd} (h : d.cmdOf k = some c) (st detail : Nat) :
    EndedAs k c st detail d (d.endCmd k st detail) ∧ d.endCmd k st detail = { d with queues := (d.endCmd k st detail).queues } := by
  obtain ⟨h1, h2, h3⟩ := updCmd_reads h fun c => { c with phase := .ended st detail }
  exact ⟨⟨h1, h2⟩, h3⟩

theorem cmdOf_congr {a b : Dev} {k : Nat} (h : b.queue k = a.queue k) : b.cmdOf k = a.cmdOf k := by
  rw [Dev.cmdOf, Dev.cmdOf, h]

theorem inWait_congr {a b : Dev} {k : Nat} (h : b.queue k = a.queue k) : b.inWait k = a.inWait k := by
  rw [Dev.inWait, Dev.inWait, cmdOf_congr h]

/-- A running command is of its OP. -/
theorem RunsOp.common {d : Dev} {k op : Nat} {c : Cmd} (h : RunsOp d k op c) : d.common k op = some c.words := by
  obtain ⟨-, -, hc, hr, ho⟩ := h
  simp only [Dev.common, hc, hr, ho, if_true]

theorem RunsOp.inWait {d : Dev} {k op : Nat} {c : Cmd} (h : RunsOp d k op c) : d.inWait k = false := by
  obtain ⟨-, -, hc, hr, -⟩ := h
  simp only [Dev.inWait, hc, hr]

theorem inWait_ended {d : Dev} {k st detail : Nat} {c : Cmd} (h : d.cmdOf k = some { c with phase := .ended st detail }) :
    d.inWait k = false := by
  simp only [Dev.inWait, h]

/-- The partition of a queue is one of the 64. -/
theorem part_lt {k : Nat} (h : queueOk k = true) : k / 32 < 64 := by
  rw [queueOk, Bool.and_eq_true, decide_eq_true_eq] at h
  exact h.1

/-! ### Waits that a signal wakes -/

/-- A WAIT in progress is evaluated again. -/
def Machine.Dev.rewait (s : Dev) (k : Nat) : Dev := if s.inWait k then s.evalWait k else s

theorem wakeWaits_eq (s : Dev) : s.wakeWaits = s.forEach (s.queues.map (·.1)) Dev.rewait := rfl

/-- Only queue `k`'s command changed. -/
def OnlyQueue (k : Nat) (a b : Dev) : Prop := (∀ j, j ≠ k → b.queue j = a.queue j) ∧ ∃ q, b = { a with queues := q }

theorem onlyQueue_refl (k : Nat) (a : Dev) : OnlyQueue k a a := ⟨fun _ _ => rfl, _, rfl⟩

theorem onlyQueue_updCmd (s : Dev) (k : Nat) (f : Cmd → Cmd) : OnlyQueue k s (s.updCmd k f) :=
  ⟨fun _ hj => (queue_updQ _ _ _ _).trans (if_neg hj), _, rfl⟩

theorem onlyQueue_evalWait (s : Dev) (k : Nat) : OnlyQueue k s (s.evalWait k) := by
  unfold Dev.evalWait
  cases s.common k 1 with
  | none => exact onlyQueue_refl k s
  | some w =>
    exact iteInduction (motive := OnlyQueue k s) (fun _ => onlyQueue_updCmd _ _ _) fun _ =>
      iteInduction (motive := OnlyQueue k s) (fun _ => onlyQueue_updCmd _ _ _) fun _ => onlyQueue_updCmd _ _ _

theorem onlyQueue_rewait (s : Dev) (k : Nat) : OnlyQueue k s (s.rewait k) :=
  iteInduction (motive := OnlyQueue k s) (fun _ => onlyQueue_evalWait s k) fun _ => onlyQueue_refl k s

/-- Waking waits changes the queues that wait, and nothing else. -/
theorem rewaits_rest (l : List Nat) (s : Dev) :
    (∀ j, s.inWait j = false → (s.forEach l Dev.rewait).queue j = s.queue j) ∧ ∃ q, s.forEach l Dev.rewait = { s with queues := q } := by
  constructor
  · intro j
    refine forEach_keeps (R := fun a b => a.inWait j = false → b.queue j = a.queue j) (fun _ _ => rfl)
      (fun {a b c} h1 h2 h => ?_) l _ (fun s k _ h => ?_) s
    · have hb := h1 h
      exact (h2 ((inWait_congr hb).trans h)).trans hb
    · by_cases hj : j = k
      · subst hj
        rw [Dev.rewait, h, if_neg Bool.false_ne_true]
      · exact (onlyQueue_rewait s k).1 j hj
  · refine forEach_keeps (R := fun a b => ∃ q, b = { a with queues := q }) (fun s => ⟨s.queues, rfl⟩) ?_ l _ (fun s k _ => (onlyQueue_rewait s k).2) s
    rintro a b c ⟨q, rfl⟩ ⟨q', rfl⟩
    exact ⟨q', rfl⟩

/-- A WAIT on a fence of the queue's own partition. -/
def WaitsOwn (s : Dev) (j f v : Nat) (c : Cmd) : Prop :=
  s.cmdOf j = some c ∧ s.inWait j = true ∧ bitsOf (wordAt c.words 0) 0 8 = 1 ∧ bitAt (wordAt c.words 2) 14 = false ∧
  bitsOf (wordAt c.words 2) 0 8 = f ∧ wordAt c.words 4 + 2 ^ 32 * wordAt c.words 5 = v

theorem fence_queues (s : Dev) (q : Tab Queue) (p f : Nat) : ({ s with queues := q } : Dev).fence p f = s.fence p f := rfl

/-- A WAIT whose value the fence has reached ends OK. -/
theorem rewait_met {s : Dev} {j f v : Nat} {c : Cmd} (h : WaitsOwn s j f v c) (hv : v ≤ s.fence (j / 32) f) :
    (s.rewait j).cmdOf j = some { c with phase := .ended stOK 0 } := by
  obtain ⟨hc, hw, ho, hp, rfl, rfl⟩ := h
  have hcom : s.common j 1 = some c.words := by
    unfold Dev.common
    rw [hc]
    dsimp only
    split
    · next he => simp only [Dev.inWait, hc, he, Bool.false_eq_true] at hw
    · rw [if_pos ho]
  unfold Dev.rewait Dev.evalWait
  rw [if_pos hw, hcom]
  simp only [hp, Bool.false_and, Bool.false_eq_true, if_false, if_pos hv]
  exact (endCmd_reads hc stOK 0).1.1

theorem rewaits_met (l : List Nat) {s : Dev} {j f v : Nat} {c : Cmd} (hm : j ∈ l) (h : WaitsOwn s j f v c) (hv : v ≤ s.fence (j / 32) f) :
    (s.forEach l Dev.rewait).cmdOf j = some { c with phase := .ended stOK 0 } := by
  induction l generalizing s with
  | nil => exact absurd hm List.not_mem_nil
  | cons k l ih =>
    change ((s.rewait k).forEach l Dev.rewait).cmdOf j = _
    by_cases hk : k = j
    · subst hk
      have he := rewait_met h hv
      exact (cmdOf_congr ((rewaits_rest l _).1 k (inWait_ended he))).trans he
    · obtain ⟨hq, q, hs⟩ := onlyQueue_rewait s k
      have hq := hq j (Ne.symm hk)
      refine ih ((List.mem_cons.mp hm).resolve_left (Ne.symm hk)) ?_ ?_
      · rw [WaitsOwn, cmdOf_congr hq, inWait_congr hq]
        exact h
      · rw [hs, fence_queues]
        exact hv

/-! ### WAIT, SIGNAL and FENCE_TIMEOUT -/

theorem gives_wait {d : Dev} {k : Nat} {c : Cmd} (h : RunsOp d k 1 c) {P : Dev → Prop} (hP : P (d.evalWait k)) : Gives (.wait k) d P :=
  gives_onQueue (f := (·.evalWait k)) (fun _ => rfl) h.1 h.2.1 hP

theorem fence_lt (s : Dev) (p f : Nat) : s.fence p f < 2 ^ 64 := by
  have h1 : s.get F.FENCE_VAL_LO [p, f] < 2 ^ 32 := bitsOf_lt _ _ _
  have h2 : s.get F.FENCE_VAL_HI [p, f] < 2 ^ 32 := bitsOf_lt _ _ _
  simp only [Dev.fence, Dev.get64]
  omega

theorem wordAt_lt (l : List Word) (i : Nat) : wordAt l i < 2 ^ 32 := (l.getD i 0).isLt

/-- The signal of a fence: the fence's new value, the other fences of its partition, and the waits that it meets. -/
theorem signalFence_reads (d : Dev) {p f v : Nat} {add : Bool} {new : Nat} (hp : p < 64)
    (hnew : new = if add then min (d.fence p f + v) (2 ^ 64 - 1) else max (d.fence p f) v) (hv : v < 2 ^ 64) :
    let e := d.signalFence p f v add
    e.fence p f = new ∧ (∀ g, g < 256 → g ≠ f → e.fence p g = d.fence p g) ∧
    OnlyFields [(F.FENCE_VAL_LO, [p, f]), (F.FENCE_VAL_HI, [p, f])] d e ∧ e = { d with regs := e.regs, queues := e.queues } ∧
    (∀ j, d.inWait j = false → e.queue j = d.queue j) ∧
    (∀ j v c, j ∈ d.queues.map (·.1) → j / 32 = p → WaitsOwn d j f v c → v ≤ new → e.cmdOf j = some { c with phase := .ended stOK 0 }) := by
  have hlt := fence_lt d p f
  have hnl : new < 2 ^ 64 := by
    rw [hnew]
    split <;> omega
  rw [Dev.signalFence, ← hnew]
  obtain ⟨s, hs⟩ : ∃ s, s = d.setFence p f new := ⟨_, rfl⟩
  have hsf : s.fence p f = new := by
    rw [hs, Dev.fence, Dev.setFence, Dev.get64_put64 _ _ _ (by decide) (by decide) (apart_of_off (by simp [Fld.off]) (by decide))]
    exact Nat.mod_eq_of_lt hnl
  have hsq : s.queues = d.queues := by rw [hs]; rfl
  have hso : OnlyFields [(F.FENCE_VAL_LO, [p, f]), (F.FENCE_VAL_HI, [p, f])] d s := by
    rw [hs]
    exact onlyFields_put64 _ (onlyFields_refl _ _) (List.mem_cons_self ..) (List.mem_cons_of_mem _ (List.mem_cons_self ..))
  have hsr : s = { d with regs := s.regs } := by rw [hs]; rfl
  have hqj : ∀ j, s.queue j = d.queue j := queue_congr hsq
  rw [← hs]
  clear hs
  obtain ⟨w1, q, w2⟩ := rewaits_rest (s.queues.map (·.1)) s
  have w3 : ∀ j v c, _ → _ → _ → _ := fun j v c hj => rewaits_met (s.queues.map (·.1)) (s := s) (j := j) (f := f) (v := v) (c := c) hj
  rw [← wakeWaits_eq] at w1 w2 w3
  have hreg : s.wakeWaits.regs = s.regs := by rw [w2]
  refine ⟨?_, fun g hg hgf => ?_, onlyFields_trans hso (onlyFields_of_regs hreg), ?_, fun j hj => ?_, fun j v c hj hjp hw hv => ?_⟩
  · rw [w2, fence_queues, hsf]
  · rw [w2, fence_queues]
    have hap : ∀ x ∈ [(F.FENCE_VAL_LO, [p, f]), (F.FENCE_VAL_HI, [p, f])], ∀ y ∈ [F.FENCE_VAL_LO, F.FENCE_VAL_HI],
        Fld.apart x.1 x.2 y [p, g] = true := by
      intro x hx y hy
      simp only [List.mem_cons, List.not_mem_nil, or_false] at hx hy
      refine apart_of_off ?_ ?_
      · rcases hx with rfl | rfl <;> rcases hy with rfl | rfl <;> simp only [Fld.off, List.zipWith_cons_cons, List.zipWith_nil_left,
          List.sum_cons, List.sum_nil] <;> omega
      · rcases hy with rfl | rfl <;> decide
    simp only [Dev.fence, Dev.get64, hso.get F.FENCE_VAL_LO [p, g] fun x hx => hap x hx _ (List.mem_cons_self ..),
      hso.get F.FENCE_VAL_HI [p, g] fun x hx => hap x hx _ (List.mem_cons_of_mem _ (List.mem_cons_self ..))]
  · rw [w2, hsr]
  · exact (w1 j ((inWait_congr (hqj j)).trans hj)).trans (hqj j)
  · subst hjp
    refine w3 j v c (by rw [hsq]; exact hj) ?_ (by rw [hsf]; exact hv)
    rw [WaitsOwn, cmdOf_congr (hqj j), inWait_congr (hqj j)]
    exact hw

/-- SIGNAL (07 R247). -/
theorem gives_signal {d : Dev} {k : Nat} {c : Cmd} (h : RunsOp d k 2 c) {P : Dev → Prop} (hP : P (d.cmdSignal k)) : Gives (.signal k) d P :=
  gives_onQueue (f := (·.cmdSignal k)) (fun _ => rfl) h.1 h.2.1 hP

theorem cmdSignal_eq {d : Dev} {k : Nat} {c : Cmd} (h : RunsOp d k 2 c) :
    d.cmdSignal k = (d.signalFence (k / 32) (bitsOf (wordAt c.words 2) 0 8) (wordAt c.words 4 + 2 ^ 32 * wordAt c.words 5)
      (bitAt (wordAt c.words 2) 8)).endCmd k stOK 0 := by
  unfold Dev.cmdSignal
  rw [h.common]

theorem fencesSignal (d : Dev) (k : Nat) (c : Cmd) (h : RunsOp d k 2 c) :
    let w := c.words
    let p := k / 32
    let f := bitsOf (wordAt w 2) 0 8
    let v := wordAt w 4 + 2 ^ 32 * wordAt w 5
    let new := if bitAt (wordAt w 2) 8 then min (d.fence p f + v) (2 ^ 64 - 1) else max (d.fence p f) v
    Gives (.signal k) d fun e =>
      e.cmdOf k = some { c with phase := .ended stOK 0 } ∧ e.fence p f = new ∧
      (∀ g, g < 256 → g ≠ f → e.fence p g = d.fence p g) ∧
      OnlyFields [(F.FENCE_VAL_LO, [p, f]), (F.FENCE_VAL_HI, [p, f])] d e ∧ e = { d with regs := e.regs, queues := e.queues } ∧
      (∀ j, j ≠ k → d.inWait j = false → e.queue j = d.queue j) ∧
      (∀ j c', j ∈ d.queues.map (·.1) → j ≠ k → j / 32 = p → d.inWait j = true → d.cmdOf j = some c' →
        bitsOf (wordAt c'.words 0) 0 8 = 1 → bitAt (wordAt c'.words 2) 14 = false → bitsOf (wordAt c'.words 2) 0 8 = f →
        wordAt c'.words 4 + 2 ^ 32 * wordAt c'.words 5 ≤ new → e.cmdOf j = some { c' with phase := .ended stOK 0 }) := by
  intro w p f v new
  refine gives_signal h ?_
  have hv : v < 2 ^ 64 := by
    have h1 := wordAt_lt w 4
    have h2 := wordAt_lt w 5
    omega
  obtain ⟨s1, s2, s3, s4, s5, s6⟩ := signalFence_reads d (f := f) (part_lt h.2.1) (rfl : new = _) hv
  rw [cmdSignal_eq h]
  obtain ⟨s, hs⟩ : ∃ s, s = d.signalFence p f v (bitAt (wordAt w 2) 8) := ⟨_, rfl⟩
  rw [← hs] at s1 s2 s3 s4 s5 s6 ⊢
  have hc : s.cmdOf k = some c := (cmdOf_congr (s5 k h.inWait)).trans h.2.2.1
  obtain ⟨⟨e1, e2⟩, e3⟩ := endCmd_reads hc stOK 0
  have hreg : (s.endCmd k stOK 0).regs = s.regs := by rw [e3]
  have hf : ∀ g, (s.endCmd k stOK 0).fence p g = s.fence p g := fun g => by rw [e3, fence_queues]
  refine ⟨e1, (hf f).trans s1, fun g hg hn => (hf g).trans (s2 g hg hn), onlyFields_trans s3 (onlyFields_of_regs hreg), ?_,
    fun j hj hw => (e2 j hj).trans (s5 j hw), fun j c' hm hj hjp hw hc' ho ho' hf' hv' => ?_⟩
  · rw [e3]
    exact (congrArg (fun x : Dev => { x with queues := (s.endCmd k stOK 0).queues }) s4)
  · exact (cmdOf_congr (e2 j hj)).trans (s6 j _ c' hm hjp ⟨hc', hw, ho, ho', hf', rfl⟩ hv')

/-- FENCE_TIMEOUT (07 R248). -/
theorem fenceTimeout_reads {d : Dev} {k o f v : Nat} {other : Bool} {c : Cmd} (hp : Powered d) (hk : queueOk k = true) (hc : d.cmdOf k = some c)
    (hw : c.phase = .waitFence o f v other true) : Gives (.fenceTimeout k) d fun e =>
      EndedAs k c stFAULT dFENCETIMEOUT d e ∧ e = { d with queues := e.queues } := by
  refine gives_onQueue (f := (·.fenceTimeout k)) (fun _ => rfl) hp hk ?_
  unfold Dev.fenceTimeout
  simp only [hc, hw]
  exact endCmd_reads hc stFAULT dFENCETIMEOUT

/-! ### CAD_WAIT and CAD_VOTE -/

theorem cmdCadWait_eq {d : Dev} {k : Nat} {c : Cmd} (h : RunsOp d k 3 c) (t : Target)
    (ht : t = ⟨wordAt c.words 2 + 2 ^ 32 * bitsOf (wordAt c.words 3) 0 16, bitsOf (wordAt c.words 4) 20 4, bitsOf (wordAt c.words 4) 0 20,
      bitAt (wordAt c.words 4) 24⟩) :
    d.cmdCadWait k = if d.targetPast t then d.endCmd k stLATE dWAITLATE
      else d.updCmd k fun c => { c with phase := .waitCad t.step t.phase t.tick t.boundary } := by
  subst ht
  unfold Dev.cmdCadWait
  simp only [h.common, h.2.2.1, h.2.2.2.1, ne_eq, not_true_eq_false, if_false]

theorem gives_cadWait {d : Dev} {k : Nat} {c : Cmd} (h : RunsOp d k 3 c) {P : Dev → Prop} (hP : P (d.cmdCadWait k)) : Gives (.cadWait k) d P :=
  gives_onQueue (f := (·.cmdCadWait k)) (fun _ => rfl) h.1 h.2.1 hP

theorem gives_cadVote {d : Dev} {k : Nat} {c : Cmd} (h : RunsOp d k 4 c) {P : Dev → Prop} (hP : P (d.cmdCadVote k)) : Gives (.cadVote k) d P :=
  gives_onQueue (f := (·.cmdCadVote k)) (fun _ => rfl) h.1 h.2.1 hP

/-- A vote for what is applied, by a partition that participates, is recorded and ends OK (03 R80). -/
theorem cadVote_now {d : Dev} {k : Nat} {c : Cmd} (h : RunsOp d k 4 c) (hj : d.cad.joined = true)
    (hs : wordAt c.words 2 + 2 ^ 32 * bitsOf (wordAt c.words 3) 0 16 = d.pos.step) (hph : bitsOf (wordAt c.words 3) 16 4 = d.pos.phase)
    (hm : bitAt d.cad.partMask (k / 32) = true) : Gives (.cadVote k) d fun e =>
      EndedAs k c stOK 0 d e ∧ bitAt e.votes (k / 32) = true ∧
      (∀ p < 64, p ≠ k / 32 → bitAt e.votes p = bitAt d.votes p) ∧
      OnlyFields [(F.VOTE_LO, []), (F.VOTE_HI, [])] d e ∧ OnlyCad { d with queues := e.queues } e := by
  refine gives_cadVote h ?_
  have hst : (d.recordVote (k / 32) d.pos.step d.pos.phase).1 = stOK := by
    unfold Dev.recordVote
    rw [if_pos (by simp [hj, hm])]
  obtain ⟨v1, v2, v3, -⟩ := recordVote_now d (part_lt h.2.1)
  have he : d.cmdCadVote k = (d.recordVote (k / 32) d.pos.step d.pos.phase).2.endCmd k stOK 0 := by
    unfold Dev.cmdCadVote
    simp only [h.common, hs, hph, hst, if_true]
  rw [he]
  generalize (d.recordVote (k / 32) d.pos.step d.pos.phase).2 = s at v1 v2 v3 ⊢
  have hq : s.queues = d.queues := by rw [v3]
  have hc : s.cmdOf k = some c := (cmdOf_congr (queue_congr hq k)).trans h.2.2.1
  obtain ⟨⟨e1, e2⟩, e3⟩ := endCmd_reads hc stOK 0
  have hreg : (s.endCmd k stOK 0).regs = s.regs := by rw [e3]
  have hvotes : (s.endCmd k stOK 0).votes = s.votes := by rw [e3]; rfl
  refine ⟨⟨e1, fun j hj => (e2 j hj).trans (queue_congr hq j)⟩, ?_, fun p _ hp => ?_, onlyFields_trans v2 (onlyFields_of_regs hreg), ?_⟩
  · rw [hvotes, v1]
    simp [hj, hm]
  · rw [hvotes, v1]
    simp [hp]
  · rw [e3]
    exact congrArg (fun x : Dev => { x with queues := (s.endCmd k stOK 0).queues }) v3

theorem cadVote_stale {d : Dev} {k : Nat} {c : Cmd} (h : RunsOp d k 4 c) (hn : ¬(d.cad.joined = true ∧
      wordAt c.words 2 + 2 ^ 32 * bitsOf (wordAt c.words 3) 0 16 = d.pos.step ∧ bitsOf (wordAt c.words 3) 16 4 = d.pos.phase ∧
      bitAt d.cad.partMask (k / 32) = true)) :
    Gives (.cadVote k) d fun e => EndedAs k c stSTATE dVOTESTALE d e ∧ e = { d with queues := e.queues } := by
  refine gives_cadVote h ?_
  have hrec : d.recordVote (k / 32) (wordAt c.words 2 + 2 ^ 32 * bitsOf (wordAt c.words 3) 0 16) (bitsOf (wordAt c.words 3) 16 4) = (stSTATE, d) := by
    unfold Dev.recordVote
    exact if_neg (by simpa [and_assoc] using hn)
  unfold Dev.cmdCadVote
  rw [h.common]
  dsimp only
  rw [hrec]
  dsimp only
  rw [if_neg (by decide)]
  exact endCmd_reads h.2.2.1 stSTATE dVOTESTALE

end Sys2Proof
end

section
/-! SUPPORT. Alarms that a list arms and disarms, and the statement about fences and the cadence commands (07 R246 to R248, R252 to
R254). -/

namespace Sys2Proof

open Machine

theorem gives_cadAlarm {d : Dev} {k : Nat} {c : Cmd} (h : RunsOp d k 5 c) {P : Dev → Prop} (hP : P (d.cmdCadAlarm k)) :
    Gives (.cadAlarm k) d P := gives_onQueue (f := (·.cmdCadAlarm k)) (fun _ => rfl) h.1 h.2.1 hP

/-! ### Staging -/

/-- What an action may do is judged by registers outside the alarm table. -/
theorem alarmAllowed_congr {a b : Dev} (hr : ∀ o, 0x800000 ≤ o → b.reg o = a.reg o) (hp : b.parts = a.parts) (c : AlarmCopy) :
    b.alarmAllowed c = a.alarmAllowed c := by
  have hst : ∀ p, b.get F.P_STATE [p] = a.get F.P_STATE [p] := fun p => get_of_reg (hr _ (by simp [Fld.off]; omega))
  have hgr : ∀ p d, b.get F.ACT_SCREE_GROUPS [p, d] = a.get F.ACT_SCREE_GROUPS [p, d] := fun p d =>
    get_of_reg (hr _ (by simp [Fld.off]; omega))
  have hact : ∀ p, b.actReg p = a.actReg p := fun p => funext fun x => by rw [Dev.actReg, Dev.actReg, hr _ (by omega)]
  have hpart : ∀ p, b.part p = a.part p := part_congr hp
  have hin : ∀ p i n, b.inActive p ⟨4, i, n, 1⟩ = a.inActive p ⟨4, i, n, 1⟩ := fun p i n => by
    have hag : b.activeGroups p i = a.activeGroups p i := by rw [Dev.activeGroups, Dev.activeGroups, hgr]
    exact decide_eq_decide.mpr (by rw [hag])
  have hown : ∀ x i n, b.owns x ⟨4, i, n, 1⟩ = a.owns x ⟨4, i, n, 1⟩ := fun x i n => by
    rw [Dev.owns, hpart, hin]
    rfl
  have hh : b.alarmHolds c = a.alarmHolds c := by
    unfold Dev.alarmHolds
    simp only [hst, hact, hown]
  unfold Dev.alarmAllowed
  simp only [hh]

/-- What CAD_ALARM stages from its words, for an owner (07 R254). -/
def stagedBy (w : List Word) (owner : Nat) (devOwned : Bool) : AlarmCopy :=
  { step := wordAt w 4 + 2 ^ 32 * bitsOf (wordAt w 5) 0 16, tick := bitsOf (wordAt w 6) 0 20, phase := bitsOf (wordAt w 6) 20 4
    boundary := bitAt (wordAt w 6) 24, rep := bitAt (wordAt w 6) 25, action := bitsOf (wordAt w 7) 0 4, owner := owner
    devOwned := devOwned, notify := bitAt (wordAt w 7) 11, arg := wordAt w 8 }

theorem bitsOf_bitsOf (v : Nat) {n lo w : Nat} (h : lo + w ≤ n) : bitsOf (bitsOf v 0 n) lo w = bitsOf v lo w := by
  apply Nat.eq_of_testBit_eq
  intro i
  simp only [bitsOf, Nat.testBit_mod_two_pow, Nat.testBit_div_two_pow]
  by_cases hi : i < w
  · simp [hi, show i + lo < n by omega]
  · simp [hi]

theorem onlyRegs_setReg (a : Dev) (o : Nat) (w : Word) : OnlyRegs a (a.setReg o w) := rfl

/-- Staging leaves every register but the five of the alarm's staging fields, and OWNER and DEV_OWNED of those. -/
theorem stage_reads (d : Dev) (n : Nat) (w : List Word) :
    (d.stage n w).staged n = stagedBy w (d.staged n).owner (d.staged n).devOwned ∧
    (∀ o, ¬(0x101000 + 32 * n ≤ o ∧ o < 0x101014 + 32 * n) → (d.stage n w).reg o = d.reg o) ∧
    OnlyRegs d (d.stage n w) := by
  have o0 : F.AL_STEP_LO.off [n] = 0x101000 + 32 * n := by simp [Fld.off]
  have o1 : F.AL_STEP_HI.off [n] = 0x101004 + 32 * n := by simp [Fld.off]
  have o2 : F.AL_TICK.off [n] = 0x101008 + 32 * n := by simp [Fld.off]
  have o3 : F.AL_ACTION.off [n] = 0x10100C + 32 * n := by simp [Fld.off]
  have o4 : F.AL_NOTIFY.off [n] = 0x10100C + 32 * n := by simp [Fld.off]
  have o5 : F.AL_ARG.off [n] = 0x101010 + 32 * n := by simp [Fld.off]
  obtain ⟨s1, h1⟩ : ∃ s, s = d.setReg (F.AL_STEP_LO.off [n]) (w.getD 4 0) := ⟨_, rfl⟩
  obtain ⟨s2, h2⟩ : ∃ s, s = s1.put F.AL_STEP_HI [n] (wordAt w 5) := ⟨_, rfl⟩
  obtain ⟨s3, h3⟩ : ∃ s, s = s2.setReg (F.AL_TICK.off [n]) (BitVec.ofNat 32 (bitsOf (wordAt w 6) 0 26)) := ⟨_, rfl⟩
  obtain ⟨s4, h4⟩ : ∃ s, s = s3.put F.AL_ACTION [n] (wordAt w 7) := ⟨_, rfl⟩
  obtain ⟨s5, h5⟩ : ∃ s, s = s4.put F.AL_NOTIFY [n] (bitsOf (wordAt w 7) 11 1) := ⟨_, rfl⟩
  obtain ⟨s6, h6⟩ : ∃ s, s = s5.setReg (F.AL_ARG.off [n]) (w.getD 8 0) := ⟨_, rfl⟩
  have he : d.stage n w = s6 := by
    rw [h6, h5, h4, h3, h2, h1]
    rfl
  have r1 : ∀ o, s1.reg o = if o = 0x101000 + 32 * n then w.getD 4 0 else d.reg o := fun o => by rw [h1, Dev.reg_setReg, o0]
  have r2 : ∀ o, o ≠ 0x101004 + 32 * n → s2.reg o = s1.reg o := fun o ho => by rw [h2, Dev.reg_put_ne _ _ _ _ _ (by rw [o1]; exact ho)]
  have r3 : ∀ o, s3.reg o = if o = 0x101008 + 32 * n then BitVec.ofNat 32 (bitsOf (wordAt w 6) 0 26) else s2.reg o := fun o => by
    rw [h3, Dev.reg_setReg, o2]
  have r4 : ∀ o, o ≠ 0x10100C + 32 * n → s4.reg o = s3.reg o := fun o ho => by rw [h4, Dev.reg_put_ne _ _ _ _ _ (by rw [o3]; exact ho)]
  have r5 : ∀ o, o ≠ 0x10100C + 32 * n → s5.reg o = s4.reg o := fun o ho => by rw [h5, Dev.reg_put_ne _ _ _ _ _ (by rw [o4]; exact ho)]
  have r6 : ∀ o, s6.reg o = if o = 0x101010 + 32 * n then w.getD 8 0 else s5.reg o := fun o => by rw [h6, Dev.reg_setReg, o5]
  have ho6 : OnlyRegs d s6 := by
    rw [h6, h5, h4, h3, h2, h1]
    exact onlyRegs_trans (onlyRegs_setReg _ _ _) (onlyRegs_trans (onlyRegs_put _ _ _ _) (onlyRegs_trans (onlyRegs_setReg _ _ _)
      (onlyRegs_trans (onlyRegs_put _ _ _ _) (onlyRegs_trans (onlyRegs_put _ _ _ _) (onlyRegs_setReg _ _ _)))))
  rw [he]
  refine ⟨?_, fun o ho => ?_, ho6⟩
  · have hlo : s6.get F.AL_STEP_LO [n] = wordAt w 4 := by
      rw [Dev.get, o0, r6, if_neg (by omega), r5 _ (by omega), r4 _ (by omega), r3, if_neg (by omega), r2 _ (by omega), r1, if_pos rfl]
      exact bitsOf_word _
    have hhi : s6.get F.AL_STEP_HI [n] = bitsOf (wordAt w 5) 0 16 := by
      have : s6.reg (F.AL_STEP_HI.off [n]) = s2.reg (F.AL_STEP_HI.off [n]) := by
        rw [o1, r6, if_neg (by omega), r5 _ (by omega), r4 _ (by omega), r3, if_neg (by omega)]
      rw [get_of_reg this, h2, Dev.get_put_same _ _ _ _ (by decide)]
      simp [bitsOf]
    have htick : s6.reg (0x101008 + 32 * n) = BitVec.ofNat 32 (bitsOf (wordAt w 6) 0 26) := by
      rw [r6, if_neg (by omega), r5 _ (by omega), r4 _ (by omega), r3, if_pos rfl]
    have htk : ∀ g ∈ [F.AL_TICK, F.AL_PHASE, F.AL_KIND, F.AL_REPEAT], s6.get g [n] = bitsOf (wordAt w 6) g.lo g.w := by
      intro g hg
      have hb : g.lo + g.w ≤ 26 := (by decide : ∀ g ∈ [F.AL_TICK, F.AL_PHASE, F.AL_KIND, F.AL_REPEAT], g.lo + g.w ≤ 26) g hg
      have ho : g.off [n] = 0x101008 + 32 * n := by
        simp only [List.mem_cons, List.not_mem_nil, or_false] at hg
        rcases hg with rfl | rfl | rfl | rfl <;> simp [Fld.off]
      rw [Dev.get, ho, htick, BitVec.toNat_ofNat, Nat.mod_eq_of_lt (Nat.lt_trans (bitsOf_lt _ _ _) (by decide)), bitsOf_bitsOf _ hb]
    simp only [List.mem_cons, List.not_mem_nil, or_false, forall_eq_or_imp, forall_eq] at htk
    obtain ⟨t1, t2, t3, t4⟩ := htk
    have hact : s6.reg (0x10100C + 32 * n) = s5.reg (0x10100C + 32 * n) := by rw [r6, if_neg (by omega)]
    have h36 : s3.reg (0x10100C + 32 * n) = d.reg (0x10100C + 32 * n) := by
      rw [r3, if_neg (by omega), r2 _ (by omega), r1, if_neg (by omega)]
    have ha : s6.get F.AL_ACTION [n] = bitsOf (wordAt w 7) 0 4 := by
      rw [get_of_reg (a := s5) (by rw [o3]; exact hact), h5, Dev.get_put_apart _ _ (apart_of_bits (by decide) (by decide)), h4,
        Dev.get_put_same _ _ _ _ (by decide)]
      simp [bitsOf]
    have hno : s6.get F.AL_NOTIFY [n] = bitsOf (wordAt w 7) 11 1 := by
      rw [get_of_reg (a := s5) (by rw [o4]; exact hact), h5, Dev.get_put_fit _ (by decide) (bitsOf_lt _ _ _)]
    have how : ∀ g ∈ [F.AL_OWNER, F.AL_DEV_OWNED], s6.get g [n] = d.get g [n] := by
      intro g hg
      have ho : g.off [n] = 0x10100C + 32 * n := by
        simp only [List.mem_cons, List.not_mem_nil, or_false] at hg
        rcases hg with rfl | rfl <;> simp [Fld.off]
      obtain ⟨b1, b2, b3⟩ := (by decide : ∀ g ∈ [F.AL_OWNER, F.AL_DEV_OWNED],
        (g.lo + g.w ≤ F.AL_NOTIFY.lo ∨ F.AL_NOTIFY.lo + F.AL_NOTIFY.w ≤ g.lo) ∧
        (g.lo + g.w ≤ F.AL_ACTION.lo ∨ F.AL_ACTION.lo + F.AL_ACTION.w ≤ g.lo) ∧ g.lo + g.w ≤ 32) g hg
      rw [get_of_reg (a := s5) (by rw [ho]; exact hact), h5, Dev.get_put_apart _ _ (apart_of_bits b1 b3), h4,
        Dev.get_put_apart _ _ (apart_of_bits b2 b3), get_of_reg (a := d) (by rw [ho]; exact h36)]
    simp only [List.mem_cons, List.not_mem_nil, or_false, forall_eq_or_imp, forall_eq] at how
    have harg : s6.get F.AL_ARG [n] = wordAt w 8 := by
      rw [Dev.get, o5, r6, if_pos rfl]
      exact bitsOf_word _
    unfold Dev.staged stagedBy
    simp only [Dev.flag, hlo, hhi, t1, t2, t3, t4, ha, hno, how.1, how.2, harg, bitAt]
  · rw [r6, if_neg (by omega), r5 _ (by omega), r4 _ (by omega), r3, if_neg (by omega), r2 _ (by omega), r1, if_neg (by omega)]

/-- ARM changes an alarm's entry and its STATE alone, and not what it was staged as. -/
theorem staged_congr {a b : Dev} {n : Nat} (h : ∀ o, 0x101000 + 32 * n ≤ o → o < 0x101014 + 32 * n → b.reg o = a.reg o) :
    b.staged n = a.staged n := by
  have hg : ∀ g ∈ [F.AL_STEP_LO, F.AL_STEP_HI, F.AL_TICK, F.AL_PHASE, F.AL_KIND, F.AL_REPEAT, F.AL_ACTION, F.AL_OWNER, F.AL_DEV_OWNED,
      F.AL_NOTIFY, F.AL_ARG], b.get g [n] = a.get g [n] := by
    intro g hg
    refine get_of_reg (h _ ?_ ?_) <;>
    · simp only [List.mem_cons, List.not_mem_nil, or_false] at hg
      rcases hg with rfl | rfl | rfl | rfl | rfl | rfl | rfl | rfl | rfl | rfl | rfl <;> simp [Fld.off]
  simp only [List.mem_cons, List.not_mem_nil, or_false, forall_eq_or_imp, forall_eq] at hg
  obtain ⟨g1, g2, g3, g4, g5, g6, g7, g8, g9, g10, g11⟩ := hg
  unfold Dev.staged
  simp only [Dev.flag, g1, g2, g3, g4, g5, g6, g7, g8, g9, g10, g11]

/-! ### CAD_ALARM -/

/-- The alarm is the partition's own (07 R254). -/
def Machine.Dev.alarmOf (d : Dev) (n p : Nat) : Prop := (d.staged n).devOwned = false ∧ (d.staged n).owner = p

theorem cmdCadAlarm_refused {d : Dev} {k : Nat} {c : Cmd} (h : RunsOp d k 5 c) (n : Nat) (hn : n = bitsOf (wordAt c.words 2) 0 8)
    (hr : ¬d.alarmOf n (k / 32) ∨ bitAt (wordAt c.words 2) 8 = false ∧ (d.stage n c.words).alarmAllowed ((d.stage n c.words).staged n) = false) :
    d.cmdCadAlarm k = (d.put F.AL_LAST [n] stPROT).endCmd k stPROT dALARMPROT := by
  subst hn
  unfold Dev.cmdCadAlarm
  rw [h.common]
  dsimp only
  by_cases hm : d.alarmOf (bitsOf (wordAt c.words 2) 0 8) (k / 32)
  · obtain ⟨h1, h2⟩ := hr.resolve_left (not_not.mpr hm)
    rw [if_neg (by simp [hm.1, hm.2]), h1, if_neg Bool.false_ne_true, h2, Bool.not_false, if_pos rfl]
  · refine if_pos (or_iff_not_imp_left.mpr fun h1 => ?_)
    exact fun h2 => hm ⟨Bool.eq_false_iff.mpr h1, h2⟩

theorem cmdCadAlarm_disarms {d : Dev} {k : Nat} {c : Cmd} (h : RunsOp d k 5 c) (n : Nat) (hn : n = bitsOf (wordAt c.words 2) 0 8)
    (hm : d.alarmOf n (k / 32)) (hd : bitAt (wordAt c.words 2) 8 = true) : d.cmdCadAlarm k = (d.disarm n).endCmd k stOK 0 := by
  subst hn
  unfold Dev.cmdCadAlarm
  rw [h.common]
  dsimp only
  rw [if_neg (by simp [hm.1, hm.2]), if_pos hd]

theorem cmdCadAlarm_arms {d : Dev} {k : Nat} {c : Cmd} (h : RunsOp d k 5 c) (n : Nat) (hn : n = bitsOf (wordAt c.words 2) 0 8)
    (hm : d.alarmOf n (k / 32)) (hd : bitAt (wordAt c.words 2) 8 = false)
    (ha : (d.stage n c.words).alarmAllowed ((d.stage n c.words).staged n) = true) :
    d.cmdCadAlarm k = if ((d.stage n c.words).arm n).1 = stLATE then ((d.stage n c.words).arm n).2.endCmd k stLATE dALARMLATE
      else ((d.stage n c.words).arm n).2.endCmd k stOK 0 := by
  subst hn
  unfold Dev.cmdCadAlarm
  rw [h.common]
  dsimp only
  rw [if_neg (by simp [hm.1, hm.2]), hd, if_neg Bool.false_ne_true, ha, Bool.not_true, if_neg Bool.false_ne_true]

/-- ARM answers LATE when the target is already applied, else OK (03 R98). -/
theorem arm_status {s : Dev} {n : Nat} (hn : n < 256) (ha : s.alarmAllowed (s.staged n) = true) :
    (s.arm n).1 = if s.targetPast (s.staged n).target then stLATE else stOK := by
  have ht : (({ s with alarms := Tab.set none s.alarms n (some (s.staged n)) } : Dev).put F.AL_STATE [n] 1).targetPast
      (s.staged n).target = s.targetPast (s.staged n).target :=
    (targetPast_put_al _ n 1 _ (by decide) hn).trans (targetPast_congr _ rfl rfl rfl)
  unfold Dev.arm
  simp only [ha, Bool.not_true, Bool.false_eq_true, if_false, ht]
  split <;> rfl

/-- What arming leaves of the registers and the state beside the alarm's entry. -/
def ArmRest (n : Nat) (s e : Dev) : Prop :=
  (∀ o, o ≠ 0x101018 + 32 * n → e.reg o = s.reg o) ∧ e = { s with regs := e.regs, alarms := e.alarms, dispatch := e.dispatch }

theorem arm_ahead {s : Dev} {n : Nat} {c : AlarmCopy} (hn : n < 256) (hc : s.staged n = c) (ha : s.alarmAllowed c = true)
    (ht : s.targetPast c.target = false) : (s.arm n).1 = stOK ∧ (s.arm n).2.get F.AL_STATE [n] = 1 ∧
      Tab.get none (s.arm n).2.alarms n = some c ∧ (s.arm n).2.dispatch = s.dispatch ∧ ArmRest n s (s.arm n).2 := by
  subst hc
  have h1 := arm_status hn ha
  have h2 := arm_eq s hn
  rw [if_neg (by rw [ht]; exact Bool.false_ne_true)] at h1
  simp only [ha, if_true, ht, Bool.false_eq_true, if_false] at h2
  obtain ⟨a1, a2, -, a4, a5, a6⟩ := alarmEntry s n (some (s.staged n)) (k := 1) (by decide)
  rw [h2]
  refine ⟨h1, a1, a2, a4, fun o ho => a5.reg o fun x hx => ?_, ?_⟩
  · rw [List.mem_singleton.mp hx, al_off (f := F.AL_STATE) (by decide)]
    exact ho
  · generalize (({ s with alarms := Tab.set none s.alarms n (some (s.staged n)) } : Dev).put F.AL_STATE [n] 1) = e at *
    rw [a4]
    exact a6

theorem arm_late {s : Dev} {n : Nat} {c : AlarmCopy} (hn : n < 256) (hc : s.staged n = c) (ha : s.alarmAllowed c = true)
    (ht : s.targetPast c.target = true) : (s.arm n).1 = stLATE ∧ (s.arm n).2.get F.AL_STATE [n] = 2 ∧
      Tab.get none (s.arm n).2.alarms n = some c ∧ (s.arm n).2.dispatch = s.dispatch ++ [⟨n, true, c, false⟩] ∧
      ArmRest n s (s.arm n).2 := by
  subst hc
  have h1 := arm_status hn ha
  have h2 := arm_eq s hn
  rw [if_pos ht] at h1
  simp only [ha, if_true, ht] at h2
  obtain ⟨-, a2, -, a4, a5, a6⟩ := alarmEntry s n (some (s.staged n)) (k := 1) (by decide)
  obtain ⟨b1, b2, b3, b4, b5⟩ := beginDispatch_reads
    (({ s with alarms := Tab.set none s.alarms n (some (s.staged n)) } : Dev).put F.AL_STATE [n] 1) n (s.staged n)
  rw [h2]
  generalize (({ s with alarms := Tab.set none s.alarms n (some (s.staged n)) } : Dev).put F.AL_STATE [n] 1) = m at *
  generalize m.beginDispatch n true (s.staged n) = e at *
  refine ⟨h1, b1, by rw [b3, a2], by rw [b2, a4], fun o ho => (onlyFields_trans a5 b4).reg o fun x hx => ?_, ?_⟩
  · rw [List.mem_singleton.mp hx, al_off (f := F.AL_STATE) (by decide)]
    exact ho
  · rw [a6] at b5
    exact b5.trans (by rw [b3])

theorem disarm_reads (d : Dev) (n : Nat) :
    Tab.get none (d.disarm n).alarms n = none ∧ (d.get F.AL_STATE [n] ≠ 2 → (d.disarm n).get F.AL_STATE [n] = 0) ∧
    OnlyFields [(F.AL_STATE, [n])] d (d.disarm n) ∧
    d.disarm n = { d with regs := (d.disarm n).regs, alarms := (d.disarm n).alarms, dispatch := (d.disarm n).dispatch } := by
  by_cases hs : d.get F.AL_STATE [n] = 2
  · rw [Dev.disarm, if_pos hs]
    exact ⟨Tab.get_set_same none d.alarms n none, fun h => absurd hs h, onlyFields_of_regs rfl, rfl⟩
  · rw [Dev.disarm, if_neg hs]
    obtain ⟨h1, h2, -, h4, h5, h6⟩ := alarmEntry d n none (k := 0) (by decide)
    refine ⟨h2, fun _ => h1, h5, ?_⟩
    generalize (({ d with alarms := Tab.set none d.alarms n none } : Dev).put F.AL_STATE [n] 0) = e at *
    rw [h4]
    exact h6

/-- Ending the command after an operation that leaves the queues. -/
theorem endCmd_after {d s : Dev} {k : Nat} {c : Cmd} (hc : d.cmdOf k = some c) (hq : s.queues = d.queues) (st detail : Nat) :
    EndedAs k c st detail d (s.endCmd k st detail) ∧ s.endCmd k st detail = { s with queues := (s.endCmd k st detail).queues } ∧
    (s.endCmd k st detail).regs = s.regs := by
  obtain ⟨⟨e1, e2⟩, e3⟩ := endCmd_reads ((cmdOf_congr (queue_congr hq k)).trans hc) st detail
  exact ⟨⟨e1, fun j hj => (e2 j hj).trans (queue_congr hq j)⟩, e3, by rw [e3]⟩

theorem fencesCadAlarm (d : Dev) (k : Nat) (c : Cmd) (h : RunsOp d k 5 c) :
    let w := c.words
    let n := bitsOf (wordAt w 2) 0 8
    let mine := (d.staged n).devOwned = false ∧ (d.staged n).owner = k / 32
    let cp : AlarmCopy := {
      step := wordAt w 4 + 2 ^ 32 * bitsOf (wordAt w 5) 0 16, tick := bitsOf (wordAt w 6) 0 20, phase := bitsOf (wordAt w 6) 20 4
      boundary := bitAt (wordAt w 6) 24, rep := bitAt (wordAt w 6) 25, action := bitsOf (wordAt w 7) 0 4, owner := k / 32
      devOwned := false, notify := bitAt (wordAt w 7) 11, arg := wordAt w 8 }
    (¬mine ∨ bitAt (wordAt w 2) 8 = false ∧ d.alarmAllowed cp = false → Gives (.cadAlarm k) d fun e =>
      EndedAs k c stPROT dALARMPROT d e ∧ e.get F.AL_LAST [n] = stPROT ∧ OnlyFields [(F.AL_LAST, [n])] d e ∧
      e = { d with regs := e.regs, queues := e.queues }) ∧
    (mine → bitAt (wordAt w 2) 8 = true → Gives (.cadAlarm k) d fun e =>
      EndedAs k c stOK 0 d e ∧ Tab.get none e.alarms n = none ∧ (d.get F.AL_STATE [n] ≠ 2 → e.get F.AL_STATE [n] = 0) ∧
      OnlyFields [(F.AL_STATE, [n])] d e ∧ e.mem = d.mem ∧ e.hostMem = d.hostMem) ∧
    (mine → bitAt (wordAt w 2) 8 = false → d.alarmAllowed cp = true → Gives (.cadAlarm k) d fun e =>
      e.staged n = cp ∧ Tab.get none e.alarms n = some cp ∧
      (∀ off, ¬(0x101000 + 32 * n ≤ off ∧ off < 0x10101C + 32 * n) → e.reg off = d.reg off) ∧
      e = { d with regs := e.regs, queues := e.queues, alarms := e.alarms, dispatch := e.dispatch } ∧
      (d.targetPast cp.target = false → EndedAs k c stOK 0 d e ∧ e.get F.AL_STATE [n] = 1 ∧ e.dispatch = d.dispatch) ∧
      (d.targetPast cp.target = true → EndedAs k c stLATE dALARMLATE d e ∧ e.get F.AL_STATE [n] = 2 ∧
        e.dispatch = d.dispatch ++ [⟨n, true, cp, false⟩])) := by
  intro w n mine cp
  have hc := h.2.2.1
  have hn : n < 256 := bitsOf_lt _ _ _
  obtain ⟨st1, st2, st3⟩ := stage_reads d n w
  have hcp : mine → (d.stage n w).staged n = cp := fun hm => by rw [st1, hm.1, hm.2]; rfl
  have hallow : ∀ a, (d.stage n w).alarmAllowed a = d.alarmAllowed a := fun a =>
    alarmAllowed_congr (fun o ho => st2 o (by omega)) (by rw [st3]) a
  have hpast : ∀ t, (d.stage n w).targetPast t = d.targetPast t := fun t => by
    have hg : ∀ g ∈ [F.POS_STEP_LO, F.POS_STEP_HI, F.POS_PHASE, F.POS_TICK, F.POS_END], (d.stage n w).get g = d.get g := fun g hg =>
      get_of_reg (st2 _ (by
        have := (by decide : ∀ g ∈ [F.POS_STEP_LO, F.POS_STEP_HI, F.POS_PHASE, F.POS_TICK, F.POS_END], g.off [] < 0x101000) g hg
        omega))
    simp only [List.mem_cons, List.not_mem_nil, or_false, forall_eq_or_imp, forall_eq] at hg
    obtain ⟨h1, h2, h3, h4, h5⟩ := hg
    exact targetPast_congr t (by simp only [Dev.pos, Dev.get64, h1, h2, h3, h4]) h5 (by rw [st3])
  refine ⟨fun hr => gives_cadAlarm h ?_, fun hm hd => gives_cadAlarm h ?_, fun hm hd ha => gives_cadAlarm h ?_⟩
  · rw [cmdCadAlarm_refused h n rfl (by
      by_cases hm : mine
      · obtain ⟨h1, h2⟩ := hr.resolve_left (not_not.mpr hm)
        exact .inr ⟨h1, by rw [hcp hm, hallow]; exact h2⟩
      · exact .inl hm)]
    obtain ⟨e1, e2, e3⟩ := endCmd_after (s := d.put F.AL_LAST [n] stPROT) hc rfl stPROT dALARMPROT
    refine ⟨e1, ?_, ?_, e2⟩
    · rw [Dev.get_eq, e3, ← Dev.get_eq]
      exact Dev.get_put_fit _ (by decide) (by decide)
    · exact onlyFields_trans (onlyFields_put _ (onlyFields_refl _ _) (List.mem_singleton.mpr rfl)) (onlyFields_of_regs e3)
  · rw [cmdCadAlarm_disarms h n rfl hm hd]
    obtain ⟨d1, d2, d3, d4⟩ := disarm_reads d n
    generalize d.disarm n = s at d1 d2 d3 d4 ⊢
    obtain ⟨e1, e2, e3⟩ := endCmd_after (s := s) hc (by rw [d4]) stOK 0
    refine ⟨e1, ?_, fun hs => ?_, onlyFields_trans d3 (onlyFields_of_regs e3), ?_, ?_⟩
    · rw [e2]
      exact d1
    · rw [Dev.get_eq, e3, ← Dev.get_eq]
      exact d2 hs
    · rw [e2, d4]
    · rw [e2, d4]
  · have hcp := hcp hm
    have hall : (d.stage n w).alarmAllowed cp = true := (hallow cp).trans ha
    rw [cmdCadAlarm_arms h n rfl hm hd (by rw [hcp]; exact hall)]
    generalize d.stage n w = s at st2 st3 hpast hcp hall ⊢
    have hsd : s.dispatch = d.dispatch := by rw [st3]
    -- what either way of arming keeps
    have rest : ∀ (a e : Dev) (st detail : Nat), e = a.endCmd k st detail → Tab.get none a.alarms n = some cp → ArmRest n s a →
        e.staged n = cp ∧ Tab.get none e.alarms n = some cp ∧
        (∀ off, ¬(0x101000 + 32 * n ≤ off ∧ off < 0x10101C + 32 * n) → e.reg off = d.reg off) ∧
        e = { d with regs := e.regs, queues := e.queues, alarms := e.alarms, dispatch := e.dispatch } ∧ EndedAs k c st detail d e ∧
        e.get F.AL_STATE [n] = a.get F.AL_STATE [n] ∧ e.dispatch = a.dispatch := by
      rintro a e st detail he halarm ⟨r1, r2⟩
      obtain ⟨e1, e2, e3⟩ := endCmd_after (s := a) hc (by rw [r2, st3]) st detail
      rw [← he] at e1 e2 e3
      have hreg : ∀ o, e.reg o = a.reg o := fun o => by rw [Dev.reg, e3]; rfl
      refine ⟨?_, by rw [e2]; exact halarm, fun o ho => ?_, ?_, e1, get_of_reg (hreg _), by rw [e2]⟩
      · rw [← hcp]
        exact staged_congr fun o h1 h2 => (hreg o).trans (r1 o (by omega))
      · exact (hreg o).trans ((r1 o (by omega)).trans (st2 o (by omega)))
      · rw [r2, st3] at e2
        generalize e.queues = q at e2
        rw [e2]
    cases ht : d.targetPast cp.target
    · obtain ⟨a1, a2, a3, a4, a5⟩ := arm_ahead hn hcp hall ((hpast _).trans ht)
      rw [if_neg (by rw [a1]; decide)]
      obtain ⟨q1, q2, q3, q4, q5, q6, q7⟩ := rest _ _ _ _ rfl a3 a5
      exact ⟨q1, q2, q3, q4, fun _ => ⟨q5, q6.trans a2, q7.trans (a4.trans hsd)⟩, fun h => absurd h Bool.false_ne_true⟩
    · obtain ⟨a1, a2, a3, a4, a5⟩ := arm_late hn hcp hall ((hpast _).trans ht)
      rw [if_pos a1]
      obtain ⟨q1, q2, q3, q4, q5, q6, q7⟩ := rest _ _ _ _ rfl a3 a5
      exact ⟨q1, q2, q3, q4, fun h => absurd h.symm Bool.false_ne_true, fun _ => ⟨q5, q6.trans a2, q7.trans (by rw [a4, hsd])⟩⟩

/-- Settles O39: waits, signals and the cadence commands of a list. -/
theorem fences : Obligations.Fences := by
  unfold Obligations.Fences
  refine ⟨⟨?_, fencesSignal, fun d k c o f v other hp hk hc hw => fenceTimeout_reads hp hk hc hw⟩, ?_, ?_, fencesCadAlarm⟩
  · intro d k c h w other o f v
    have hc := h.2.2.1
    refine ⟨fun ho hp => gives_wait h ?_, fun ho => ⟨fun hv => gives_wait h ?_, fun hv => gives_wait h ?_⟩⟩
    · have he : d.evalWait k = d.endCmd k stPROT dFENCEPROT := by
        unfold Dev.evalWait
        rw [h.common]
        exact if_pos (by
          change (other && !d.fencePeer o (k / 32)) = true
          rw [ho, hp]
          rfl)
      rw [he]
      exact endCmd_reads hc _ _
    all_goals
      have hno : ¬(other && !d.fencePeer o (k / 32)) = true := by
        rcases ho with ho | ho <;> simp [ho]
    · have he : d.evalWait k = d.endCmd k stOK 0 := by
        unfold Dev.evalWait
        rw [h.common]
        exact (if_neg hno).trans (if_pos hv)
      rw [he]
      exact endCmd_reads hc _ _
    · have he : d.evalWait k = d.updCmd k fun c => { c with phase := .waitFence o f v other (bitsOf (wordAt w 3) 0 24 != 0) } := by
        unfold Dev.evalWait
        rw [h.common]
        exact (if_neg hno).trans (if_neg (Nat.not_le.mpr hv))
      rw [he]
      exact updCmd_reads hc _
  · intro d k c h w t
    refine ⟨fun ht => gives_cadWait h ?_, fun ht => gives_cadWait h ?_⟩
    · rw [cmdCadWait_eq h t rfl, if_pos ht]
      exact endCmd_reads h.2.2.1 _ _
    · rw [cmdCadWait_eq h t rfl, if_neg (by rw [ht]; exact Bool.false_ne_true)]
      exact updCmd_reads h.2.2.1 _
  · intro d k c h w now
    exact ⟨fun hn => cadVote_now h hn.1 hn.2.1 hn.2.2.1 hn.2.2.2, fun hn => cadVote_stale h hn⟩

end Sys2Proof
end

section
/-! SUPPORT. The life of a command in its list, and the statement about it (07 R233, R234, R237, R243, R244). -/

namespace Sys2Proof

open Machine

/-- Dropping what the instances carry for a queue leaves what each of them runs. -/
theorem dropCarry_busy (s : Dev) (k i : Nat) :
    (Tab.get Engine.reset (s.dropCarry k).engines i).busy = (Tab.get Engine.reset s.engines i).busy := by
  change (Tab.get Engine.reset (s.engines.map fun e => (e.1, { e.2 with carry := Tab.erase e.2.carry k })) i).busy = _
  induction s.engines with
  | nil => rfl
  | cons x t ih =>
    simp only [List.map_cons, Tab.get]
    split
    · rfl
    · exact ih

/-! ### Stops -/

/-- A stop at the next chunk boundary, of a command that has not ended (07 Table 7.3). -/
theorem stopFor_reads (c : Cmd) (detail : Nat) (hp : ∀ st x, c.phase ≠ .ended st x) :
    (c.stopFor detail true).words = c.words ∧ (c.stopFor detail true).out = c.out ∧ (c.stopFor detail true).flags = c.flags ∧
    (c.out = [] → (c.stopFor detail true).phase = .ended stCANCELLED detail) ∧
    (c.out ≠ [] → 0x20 ≤ c.opcode → c.phase = .running →
      (c.stopFor detail true).phase = .running ∧ (c.stopFor detail true).stop = some detail ∧ (c.stopFor detail true).todo = []) := by
  cases hph : c.phase with
  | ended st x => exact absurd hph (hp st x)
  | waitFence o f v other timed =>
    simp only [Cmd.stopFor, hph]
    exact ⟨rfl, rfl, rfl, fun _ => rfl, fun _ _ h => by cases h⟩
  | waitCad st ph t b =>
    simp only [Cmd.stopFor, hph]
    exact ⟨rfl, rfl, rfl, fun _ => rfl, fun _ _ h => by cases h⟩
  | running =>
    simp only [Cmd.stopFor, hph, if_true]
    by_cases hw : c.words ≠ [] ∧ [1, 3].contains (bitsOf (wordAt c.words 0) 0 8) = true
    · rw [if_pos hw]
      refine ⟨rfl, rfl, rfl, fun _ => rfl, fun _ ho _ => ?_⟩
      obtain ⟨-, hw⟩ := hw
      simp only [Cmd.opcode] at ho
      simp only [List.contains_cons, List.contains_nil, Bool.or_false, Bool.or_eq_true, beq_iff_eq] at hw
      omega
    · rw [if_neg hw]
      cases ho : c.out with
      | nil => exact ⟨rfl, rfl, rfl, fun _ => rfl, fun h => absurd rfl h⟩
      | cons x l => exact ⟨rfl, rfl, rfl, fun h => absurd h (List.cons_ne_nil _ _), fun _ _ _ => ⟨rfl, rfl, rfl⟩⟩

theorem stopCmd_stops {d : Dev} {k : Nat} {c : Cmd} (detail : Nat) (hc : d.cmdOf k = some c) (hp : ∀ st x, c.phase ≠ .ended st x) :
    StoppedBy k c detail d (d.stopCmd k detail) := by
  obtain ⟨u1, u2, -⟩ := updCmd_reads hc fun c => c.stopFor detail true
  obtain ⟨p1, p2, p3, p4, p5⟩ := stopFor_reads c detail hp
  refine ⟨⟨c.stopFor detail true, u1, p1, p2, p3, p4, p5⟩, fun i => dropCarry_busy _ k i, u2, rfl⟩

/-! ### The start and the end of a command -/

theorem commandStart_ok {d : Dev} {k : Nat} {r : Run} {w : List Word} (hr : (d.queue k).run = some r) (hl : r.listPending = false)
    (hc : r.cmd = none) (hs : r.stop = none) (hn : r.list ≠ []) (hq : d.qState k = qENABLED) (hw : d.workHeld = false)
    (hh : d.homeSleeps k = false) (hb : d.qBus k = true) (hx : checkHeader (qClass k) r.list = .ok w) :
    ∃ c : Cmd, (d.commandStart k = (d.dropCarry k).updQ k fun q => { q with run := some { r with cmd := some c, list := r.list.drop w.length } }) ∧
      c.words = w ∧ c.phase = .running ∧ c.ready = false ∧ c.todo = [] ∧ c.out = [] ∧ c.fail = none ∧ c.flags = 0 ∧ c.stop = none := by
  unfold Dev.commandStart
  rw [hr]
  dsimp only
  rw [if_neg (by simp [hl, hc, hs, hn, hq, hb, hw, hh]), hx]
  exact ⟨_, rfl, rfl, rfl, rfl, rfl, rfl, rfl, rfl, rfl⟩

theorem commandStart_error {d : Dev} {k x : Nat} {r : Run} (hr : (d.queue k).run = some r) (hl : r.listPending = false)
    (hc : r.cmd = none) (hs : r.stop = none) (hn : r.list ≠ []) (hq : d.qState k = qENABLED) (hw : d.workHeld = false)
    (hh : d.homeSleeps k = false) (hb : d.qBus k = true) (hx : checkHeader (qClass k) r.list = .error x) :
    d.commandStart k = d.updQ k fun q => { q with run := some { r with stop := some (stFAULT, x), list := [] } } := by
  unfold Dev.commandStart
  rw [hr]
  dsimp only
  rw [if_neg (by simp [hl, hc, hs, hn, hq, hb, hw, hh]), hx]

/-- A command that ended and has no chunk at an instance ends with its status. -/
theorem outcome_ended {c : Cmd} {st x : Nat} (hp : c.phase = .ended st x) (ho : c.out = []) : c.outcome = some (st, x) := by
  simp [Cmd.outcome, hp, ho]

/-- The end of a common command is COMMAND_END's counting alone (07 R234). -/
theorem closeCmd_common {d : Dev} {k st x : Nat} {r : Run} {c : Cmd} (hr : (d.queue k).run = some r) (hc : r.cmd = some c)
    (hp : c.phase = .ended st x) (ho : c.out = []) (hop : c.opcode < 0x20) : d.closeCmd k = d.commandEnd k := by
  have hcmd : d.cmdOf k = some c := by rw [Dev.cmdOf, hr]; exact hc
  unfold Dev.closeCmd
  rw [hcmd]
  dsimp only
  rw [outcome_ended hp ho]
  exact if_pos hop

/-- Settles O38: how a command begins, ends and is stopped. -/
theorem commandLife : Obligations.CommandLife := by
  unfold Obligations.CommandLife
  refine ⟨fun d k r hp hk hr => ⟨fun hl hc hs hn hq hw hh hb => ⟨fun w hx => ?_, fun x hx => ?_⟩, ?_, ?_⟩, fun d k c h => ?_⟩
  · refine gives_onQueue (f := (·.commandStart k)) (fun _ => rfl) hp hk ?_
    obtain ⟨c, he, hfresh⟩ := commandStart_ok hr hl hc hs hn hq hw hh hb hx
    rw [he]
    refine ⟨⟨c, ?_, hfresh⟩, fun j hj => (queue_updQ _ _ _ _).trans (if_neg hj), fun i => dropCarry_busy d k i, rfl⟩
    rw [queue_updQ, if_pos rfl]
  · refine gives_onQueue (f := (·.commandStart k)) (fun _ => rfl) hp hk ?_
    exact commandStart_error hr hl hc hs hn hq hw hh hb hx
  · intro c st x hc hph ho hop r'
    refine gives_onQueue (f := (·.closeCmd k)) (fun _ => rfl) hp hk ?_
    rw [closeCmd_common hr hc hph ho hop]
    unfold Dev.commandEnd
    rw [hr]
    dsimp only
    rw [hc]
    dsimp only
    rw [outcome_ended hph ho]
  · intro c hc hph hq
    have hcmd : d.cmdOf k = some c := by rw [Dev.cmdOf, hr]; exact hc
    refine ⟨fun hcause => gives_onQueue (f := (·.stopReach k)) (fun _ => rfl) hp hk ?_,
      gives_onQueue (f := (·.disableGrace k)) (fun _ => rfl) hp hk ?_⟩
    · rw [Dev.stopReach, if_pos ⟨hq, hcause⟩]
      exact stopCmd_stops _ hcmd hph
    · rw [Dev.disableGrace, if_pos hq]
      exact stopCmd_stops _ hcmd hph
  · refine gives_onQueue (f := (·.cmdNop k)) (fun _ => rfl) h.1 h.2.1 ?_
    unfold Dev.cmdNop
    rw [h.common]
    exact endCmd_reads h.2.2.1 _ _

end Sys2Proof
end

section
/-! SUPPORT. The steps of bring-up: what each leaves as it was (20 Table 20.5). -/

namespace Sys2Proof

open Machine

/-! ### What the steps of bring-up keep -/

/-- The registers of identity and boot, of the secondary bus's restore, of the warden's mode, and of the expander ports. -/
def bootRegs (off : Nat) : Prop :=
  off < 0x300 ∨ off = 0x3A00000 ∨ off = 0x3800000 ∨ (0x2200000 ≤ off ∧ off < 0x3A00000 ∧ 0x200000 ≤ off % 0x400000)

/-- What a step of bring-up that reports nothing of its own keeps. -/
structure BootKeeps (a b : Dev) : Prop where
  stands : Stands bootRegs a b
  hostMem : b.hostMem = a.hostMem
  mem : b.mem = a.mem
  off : b.pwr.off = a.pwr.off
  boot : b.boot = a.boot
  rrs : b.host.rrs = a.host.rrs

theorem bootKeeps_refl (s : Dev) : BootKeeps s s := ⟨stands_refl _ s, rfl, rfl, rfl, rfl, rfl⟩

theorem bootKeeps_trans {a b c : Dev} (h : BootKeeps a b) (h' : BootKeeps b c) : BootKeeps a c :=
  ⟨stands_trans h.stands h'.stands, h'.hostMem.trans h.hostMem, h'.mem.trans h.mem, h'.off.trans h.off, h'.boot.trans h.boot, h'.rrs.trans h.rrs⟩

theorem bootKeeps_put (s : Dev) {f : Fld} {ix : List Nat} (v : Nat) (h : ¬bootRegs (f.off ix)) : BootKeeps s (s.put f ix v) :=
  ⟨stands_put s v h, rfl, rfl, rfl, rfl, rfl⟩

theorem bootKeeps_regs {a b : Dev} (h : OnlyRegsIrq a b) (hs : Stands bootRegs a b) : BootKeeps a b := by
  refine ⟨hs, ?_, ?_, ?_, ?_, ?_⟩ <;> rw [h]

theorem bootKeeps_forEach {α : Type} (l : List α) (f : Dev → α → Dev) (h : ∀ s, ∀ x ∈ l, BootKeeps s (f s x)) (s : Dev) :
    BootKeeps s (s.forEach l f) := forEach_keeps bootKeeps_refl bootKeeps_trans l f h s

/-- Registers of domains, rails and fabric ports are none of them. -/
theorem not_bootRegs {off : Nat} (h : 0x3A00000 < off) : ¬bootRegs off := by
  unfold bootRegs
  omega

theorem rail_high {f : Fld} (hf : f ∈ [F.RAIL_TARGET, F.RAIL_NOW, F.RAIL_ENABLED, F.RAIL_IN_FLIGHT, F.RAIL_ADDR, F.RAIL_SELECT]) (r : Nat) :
    ¬bootRegs (f.off [r]) := by
  refine not_bootRegs ?_
  simp only [List.mem_cons, List.not_mem_nil, or_false] at hf
  rcases hf with rfl | rfl | rfl | rfl | rfl | rfl <;> simp [Fld.off] <;> omega

theorem bootKeeps_railUp (s : Dev) (r mv now : Nat) : BootKeeps s (s.railUp r mv now) :=
  bootKeeps_trans (bootKeeps_trans (bootKeeps_put s _ (rail_high (by simp) r)) (bootKeeps_put _ _ (rail_high (by simp) r)))
    (bootKeeps_put _ _ (rail_high (by simp) r))

theorem bootKeeps_railDown (s : Dev) (r : Nat) : BootKeeps s (s.railDown r) :=
  bootKeeps_trans (bootKeeps_trans (bootKeeps_put s _ (rail_high (by simp) r)) (bootKeeps_put _ _ (rail_high (by simp) r)))
    (bootKeeps_put _ _ (rail_high (by simp) r))

theorem bootKeeps_dom (s : Dev) {f : Fld} (hf : f ∈ domFields) (x v : Nat) : BootKeeps s (s.put f [x] v) :=
  bootKeeps_put s v (not_bootRegs (by rw [dom_off hf]; omega))

theorem bootKeeps_loadFirmware (s : Dev) (key : Nat) (w : List Nat) : BootKeeps s (s.loadFirmware key w) :=
  ⟨stands_of_regs rfl, rfl, rfl, rfl, rfl, rfl⟩

theorem bootKeeps_updScree (s : Dev) (f : Scree → Scree) : BootKeeps s (s.updScree f) := ⟨stands_of_regs rfl, rfl, rfl, rfl, rfl, rfl⟩

theorem bootKeeps_scree {s : Dev} {f : Fld} (die v : Nat) (hf : f = F.SC_OUT_OF_TRIM ∨ f = F.SC_RESTORE_INVALID) :
    BootKeeps s (s.put f [die] v) := by
  refine bootKeeps_put s v ?_
  rcases hf with rfl | rfl <;> simp [Fld.off, bootRegs] <;> omega

theorem bootKeeps_calColumn (s : Dev) (die mk col : Nat) : BootKeeps s (s.calColumn die mk col) := by
  have h : ∀ (x : Dev) (c : Bool), BootKeeps s x → BootKeeps s (if c then x.put F.SC_OUT_OF_TRIM [die] 1 else x) := fun x c hx => by
    split
    · exact bootKeeps_trans hx (bootKeeps_scree die 1 (.inl rfl))
    · exact hx
  exact h _ _ ⟨stands_of_regs rfl, rfl, rfl, rfl, rfl, rfl⟩

theorem bootKeeps_calGroup (s : Dev) (die g pos cg : Nat) : BootKeeps s (s.calGroup die g pos cg) := by
  unfold Dev.calGroup
  refine bootKeeps_trans (bootKeeps_forEach (List.range 16) _ (fun s j _ => ?_) s) (bootKeeps_updScree _ _)
  exact bootKeeps_calColumn s die _ _

theorem bootKeeps_calMacro (s : Dev) (die g pos : Nat) : BootKeeps s (s.calMacro die g pos) := by
  unfold Dev.calMacro
  exact bootKeeps_forEach _ _ (fun s cg _ => bootKeeps_calGroup s die g pos cg) s

theorem bootKeeps_updGroup (s : Dev) (die g : Nat) (f : Group → Group) : BootKeeps s (s.updGroup die g f) :=
  ⟨stands_of_regs rfl, rfl, rfl, rfl, rfl, rfl⟩

/-- The return of a die's arrays (10 R363). -/
theorem bootKeeps_screeRestore (s : Dev) (die : Nat) : BootKeeps s (s.screeRestore die) := by
  unfold Dev.screeRestore
  extract_lets gs bad s1 s2
  have h1 : BootKeeps s s1 := bootKeeps_forEach gs _ (fun s g _ => bootKeeps_updGroup s die g _) s
  have h2 : BootKeeps s1 s2 := by
    change BootKeeps s1 (if bad then s1.put F.SC_RESTORE_INVALID [die] 1 else s1)
    split
    · exact bootKeeps_scree die 1 (.inr rfl)
    · exact bootKeeps_refl _
  refine bootKeeps_trans (bootKeeps_trans h1 h2) (bootKeeps_forEach _ _ (fun s g _ => bootKeeps_forEach _ _ (fun s pos _ => ?_) s) _)
  split
  · exact bootKeeps_calMacro s die g pos
  · exact bootKeeps_refl s

/-- The settings and the state of a fabric port. -/
theorem bootKeeps_port (s : Dev) {f : Fld} (hf : f ∈ [F.PORT_MODE, F.PORT_MEDIUM, F.PORT_DIM, F.PORT_ENABLE, F.PORT_STATE]) (n v : Nat) :
    BootKeeps s (s.put f (fix n) v) := by
  refine bootKeeps_put s v (not_bootRegs ?_)
  simp only [List.mem_cons, List.not_mem_nil, or_false] at hf
  rcases hf with rfl | rfl | rfl | rfl | rfl <;> simp [Fld.off, fix] <;> omega

theorem OnlyPorts.bootKeeps {a b : Dev} (h : OnlyPorts a b) (hs : Stands (fun off => off < 0x3E00000) a b) : BootKeeps a b := by
  refine ⟨stands_mono hs (fun off ho => by unfold bootRegs at ho; omega), ?_, ?_, ?_, ?_, ?_⟩ <;> rw [h]

theorem bootKeeps_portEnable (s : Dev) (n : Nat) (on signal : Bool) : BootKeeps s (s.portEnable n on signal) := by
  unfold Dev.portEnable
  split
  · exact bootKeeps_refl s
  · refine bootKeeps_trans (bootKeeps_port s (f := F.PORT_ENABLE) (by simp) n (b2n on)) ?_
    generalize s.put F.PORT_ENABLE (fix n) (b2n on) = s'
    cases on
    · obtain ⟨h1, h2, -⟩ := fabDown_reads s' n
      exact h1.bootKeeps h2
    · dsimp only
      rw [if_pos rfl]
      split
      · exact bootKeeps_port s' (by simp) n fpTRAIN
      · exact bootKeeps_refl s'

theorem bootKeeps_auxTry (s : Dev) : BootKeeps s s.auxTry := by
  unfold Dev.auxTry
  split
  · obtain ⟨-, -, h3, h4⟩ := auxGate_reads s true
    refine ⟨fun off ho => h3.reg off fun x hx => ?_, ?_, ?_, ?_, ?_, ?_⟩
    · rintro rfl
      simp only [List.mem_cons, List.not_mem_nil, or_false] at hx
      rcases hx with rfl | rfl
      · exact not_bootRegs (off := 0x3C01004) (by decide) ho
      · exact not_bootRegs (by rw [dom_off (by simp [domFields])]; omega) ho
    all_goals rw [h4]
  · exact bootKeeps_refl s

/-! ### Fields of the boot registers -/

/-- The fields that bring-up reports, beside its stage and the dies. -/
def bootFields : List Fld :=
  [F.STRAP_HEAD, F.STRAP_CHAIN_ID, F.STRAP_BOOT, F.SERIAL_LO, F.SERIAL_HI, F.SEC_RESTORE, F.BOOT_ERR, F.HOST_LOADED]

/-- The fields of the dies and the stage. -/
def dieFields : List Fld := [F.BOOT_STAGE, F.DIE_PRESENT, F.DIE_FUSED_OFF, F.DIE_TEST_FAIL]

theorem boot_offs : ∀ g ∈ bootFields ++ dieFields, g.off [] < 0x300 ∨ g.off [] = 0x3A00000 := by decide

theorem BootKeeps.get {a b : Dev} (h : BootKeeps a b) {g : Fld} (hg : g ∈ bootFields ++ dieFields) : b.get g [] = a.get g [] :=
  h.stands.get g [] ((boot_offs g hg).imp id .inl)

theorem BootKeeps.fenced {a b : Dev} (h : BootKeeps a b) : b.get F.FENCED = a.get F.FENCED := h.stands.get _ _ (.inr (.inr (.inl rfl)))

theorem boot_apart : ∀ f ∈ dieFields, ∀ g ∈ bootFields, Fld.apart f [] g [] = true := by decide

/-- The stage and the dies are fields of their own. -/
theorem bootField_put (s : Dev) {f g : Fld} (v : Nat) (hf : f ∈ dieFields) (hg : g ∈ bootFields) : (s.put0 f v).get g [] = s.get g [] :=
  Dev.get_put_apart _ _ (boot_apart f hf g hg)

theorem xpPresent_boot (p : Nat) (hp : p < 12) : bootRegs (F.XP_PRESENT.off (xpIx p)) := by
  simp [Fld.off, xpIx, bootRegs]
  omega

theorem BootKeeps.xp {a b : Dev} (h : BootKeeps a b) {p : Nat} (hp : p < 12) : b.flag F.XP_PRESENT (xpIx p) = a.flag F.XP_PRESENT (xpIx p) :=
  flag_of_get (h.stands.get _ _ (xpPresent_boot p hp))

theorem xpPresent_put (s : Dev) {f : Fld} (v : Nat) {p : Nat} (hf : f.off [] < 0x300) :
    (s.put0 f v).flag F.XP_PRESENT (xpIx p) = s.flag F.XP_PRESENT (xpIx p) :=
  flag_of_get (Dev.get_put_apart _ _ (apart_of_off (by simp [Fld.off, xpIx] at hf ⊢; omega) (by decide)))

end Sys2Proof
end

section
/-! SUPPORT. Bring-up from its first step to READY, or to the step that fails, and the statement about it (20 Table 20.5, R721 to
R724). -/

namespace Sys2Proof

open Machine

/-! ### Bring-up stops -/

/-- Bring-up that stops with a code keeps the fields it has reported (20 R722). -/
theorem bootFail_reads (s : Dev) {code : Nat} (hc : code < 16) :
    BootStopped code (s.bootFail code) ∧ (∀ g ∈ bootFields, g ≠ F.BOOT_ERR → (s.bootFail code).get g [] = s.get g []) ∧
    (s.bootFail code).get F.BOOT_STAGE = s.get F.BOOT_STAGE ∧ (s.bootFail code).pwr.off = s.pwr.off ∧ (s.bootFail code).mem = s.mem ∧
    (s.bootFail code).hostMem = s.hostMem := by
  obtain ⟨x, hx⟩ : ∃ x, x = (s.put0 F.BOOT_ERR code).forEach [0, 1, 2, 3, 4, 5, 6, 7, 9, 11] Dev.railDown := ⟨_, rfl⟩
  have hk : BootKeeps (s.put0 F.BOOT_ERR code) x := by
    rw [hx]
    exact bootKeeps_forEach _ _ (fun s r _ => bootKeeps_railDown s r) _
  have hrails : ∀ r ∈ [0, 1, 2, 3, 4, 5, 6, 7, 9, 11], x.get F.RAIL_ENABLED [r] = 0 := by
    rw [hx]
    refine forEach_all (Q := fun r s => s.get F.RAIL_ENABLED [r] = 0) Dev.railDown (fun s r => ?_) (fun s r q h => ?_) _ _
    · exact Dev.get_put_fit _ (by decide) (by decide)
    · by_cases hq : q = r
      · subst hq
        exact Dev.get_put_fit _ (by decide) (by decide)
      · have hap : ∀ f ∈ [F.RAIL_TARGET, F.RAIL_IN_FLIGHT, F.RAIL_ENABLED], Fld.apart f [r] F.RAIL_ENABLED [q] = true := by
          intro f hf
          refine apart_of_off ?_ (by decide)
          simp only [List.mem_cons, List.not_mem_nil, or_false] at hf
          rcases hf with rfl | rfl | rfl <;> simp [Fld.off] <;> omega
        unfold Dev.railDown
        rw [Dev.get_put_apart _ _ (hap F.RAIL_ENABLED (by simp)), Dev.get_put_apart _ _ (hap F.RAIL_IN_FLIGHT (by simp)),
          Dev.get_put_apart _ _ (hap F.RAIL_TARGET (by simp))]
        exact h
  have he : s.bootFail code = { x with
      host := { x.host with rrs := false, training := x.boot.perst && x.host.linkDown }, boot := { x.boot with hostUp := true } } := by
    rw [hx]; rfl
  have hreg : (s.bootFail code).regs = x.regs := by rw [he]
  have hget : ∀ g ix, (s.bootFail code).get g ix = x.get g ix := fun g ix => by rw [Dev.get_eq, hreg, ← Dev.get_eq]
  refine ⟨⟨?_, fun r hr => ?_, by rw [he]⟩, fun g hg hne => ?_, ?_, ?_, ?_, ?_⟩
  · rw [hget, hk.get (by decide : F.BOOT_ERR ∈ _)]
    exact Dev.get_put_fit _ (by decide) hc
  · rw [Dev.flag, hget, hrails r hr]
    rfl
  · rw [hget, hk.get (List.mem_append_left _ hg)]
    exact Dev.get_put_apart _ _ ((by decide : ∀ g ∈ bootFields, g ≠ F.BOOT_ERR → Fld.apart F.BOOT_ERR [] g [] = true) g hg hne)
  · rw [hget, hk.get (by decide : F.BOOT_STAGE ∈ _)]
    exact Dev.get_put_apart _ _ (by decide)
  · rw [he]
    exact hk.off
  · rw [he]
    exact hk.mem
  · rw [he]
    exact hk.hostMem

/-! ### The end of bring-up -/

theorem bootReady_eq {s : Dev} {b : BoardBlock} (hb : s.boot.board = some b) (hn : b.noDefaultPart = true) :
    s.bootReady = { s.put0 F.BOOT_STAGE 9 with host := { s.host with rrs := false } } := by
  unfold Dev.bootReady
  simp only [hb, hn, if_true]

/-- Without a layout to apply and a default partition to write, step 12 is READY (20 R730). -/
theorem bootExt_ready {s : Dev} {b : BoardBlock} (hb : s.boot.board = some b) (hm : b.extMode % 4 = 0) (hn : b.noDefaultPart = true) :
    s.bootExt = { s.put0 F.BOOT_STAGE 9 with host := { s.host with rrs := false }, boot := { s.boot with extWait := false } } := by
  have h : s.bootExt = ({ s with boot := { s.boot with extWait := false } } : Dev).bootReady := by
    unfold Dev.bootExt
    simp only [hb, hm, if_true]
  exact h.trans (bootReady_eq (s := { s with boot := { s.boot with extWait := false } }) hb hn)

/-! ### The expanders that bring-up waits for -/

/-- The ports at which an expander is plugged. -/
def plugList (a : BringAns) : Tab Bool := (List.range 12).foldl (fun t p => Tab.set false t p (bitAt a.plugged p)) []

theorem mem_of_get {α : Type} {dflt v : α} {t : Tab α} {k : Nat} (h : Tab.get dflt t k = v) (hv : v ≠ dflt) : (k, v) ∈ t := by
  induction t with
  | nil => exact absurd h.symm hv
  | cons x t ih =>
    obtain ⟨k', v'⟩ := x
    unfold Tab.get at h
    split at h
    · subst h
      rename_i hk
      rw [hk]
      exact List.mem_cons_self ..
    · exact List.mem_cons_of_mem _ (ih h)

theorem plugged_get (a : BringAns) (l : List Nat) (t : Tab Bool) (p : Nat) :
    Tab.get false (l.foldl (fun t p => Tab.set false t p (bitAt a.plugged p)) t) p =
      if p ∈ l then bitAt a.plugged p else Tab.get false t p := by
  induction l generalizing t with
  | nil => rfl
  | cons x l ih =>
    rw [List.foldl_cons, ih]
    by_cases hl : p ∈ l
    · rw [if_pos hl, if_pos (List.mem_cons_of_mem _ hl)]
    · rw [if_neg hl, Tab.get_set]
      by_cases hx : p = x
      · rw [if_pos hx, if_pos (by simp [hx]), hx]
      · rw [if_neg hx, if_neg (by simp [hx, hl])]

theorem mem_plugList {a : BringAns} {p : Nat} (hp : p < 12) (h : bitAt a.plugged p = true) : (p, true) ∈ plugList a := by
  refine mem_of_get (dflt := false) ?_ (by decide)
  rw [plugList, plugged_get, if_pos (List.mem_range.mpr hp), h]

theorem plugList_none {a : BringAns} (h : a.plugged % 2 ^ 12 = 0) : plugList a = [] := by
  have hb : ∀ p ∈ List.range 12, bitAt a.plugged p = false := by
    intro p hp
    rw [bitAt_eq_testBit]
    have := Nat.testBit_mod_two_pow a.plugged 12 p
    rw [h, Nat.zero_testBit] at this
    simpa [List.mem_range.mp hp] using this.symm
  have hf : ∀ l : List Nat, (∀ p ∈ l, bitAt a.plugged p = false) → l.foldl (fun t p => Tab.set false t p (bitAt a.plugged p)) [] = [] := by
    intro l
    induction l with
    | nil => exact fun _ => rfl
    | cons x l ih =>
      intro hl
      rw [List.foldl_cons, hl x (List.mem_cons_self ..)]
      exact ih fun p hp => hl p (List.mem_cons_of_mem _ hp)
  exact hf _ hb

/-! ### The dies -/

/-- The crest dies that come up. -/
def upDies (a : BringAns) : List Nat := (List.range 6).filter fun d => !bitAt a.fusedOff d && !bitAt a.crestBad d && !bitAt a.linkBad d

theorem sum_filter_map (b : Nat → Bool) (f : Nat → Nat) (l : List Nat) :
    ((l.filter b).map f).sum = (l.map fun p => if b p then f p else 0).sum := by
  induction l with
  | nil => rfl
  | cons x l ih =>
    rw [List.filter_cons, List.map_cons, List.sum_cons, ← ih]
    cases b x <;> simp

/-- The mask of the dies present: the crest dies that came up, Col-A, and Col-B when it is there. -/
theorem diesMask (a : BringAns) (colB : Bool) :
    ((upDies a).map (2 ^ ·)).sum + 64 + (if colB then 128 else 0) < 2 ^ 8 ∧
    ∀ k < 8, bitAt (((upDies a).map (2 ^ ·)).sum + 64 + (if colB then 128 else 0)) k =
      (if k < 6 then (upDies a).contains k else if k = 6 then true else colB) := by
  obtain ⟨b1, b2⟩ := bitAt_sum_pow (fun d => !bitAt a.fusedOff d && !bitAt a.crestBad d && !bitAt a.linkBad d) 6
  rw [← sum_filter_map] at b1 b2
  change ((upDies a).map (2 ^ ·)).sum < 2 ^ 6 at b1
  change ∀ p < 6, bitAt ((upDies a).map (2 ^ ·)).sum p = _ at b2
  generalize hS : ((upDies a).map (2 ^ ·)).sum = S at b1 b2 ⊢
  have hm : S + 64 + (if colB then 128 else 0) = 2 ^ 6 * (1 + 2 * b2n colB) + S := by cases colB <;> simp [b2n] <;> omega
  refine ⟨by cases colB <;> simp <;> omega, fun k hk => ?_⟩
  rw [hm, bitAt_eq_testBit, Nat.testBit_two_pow_mul_add _ b1]
  by_cases h6 : k < 6
  · rw [if_pos h6, if_pos h6, ← bitAt_eq_testBit, b2 k h6, Bool.eq_iff_iff]
    simp [upDies, h6]
  · rw [if_neg h6, if_neg h6]
    obtain rfl | rfl : k = 6 ∨ k = 7 := by omega
    · cases colB <;> rfl
    · cases colB <;> rfl

/-! ### Steps 7 to 11, in four parts -/

/-- The warden's firmware, the host's release, and the rails. -/
def Machine.Dev.bootRails (s : Dev) (a : BringAns) (fw : List Nat × List Nat) : Dev :=
  let s := (s.put0 F.BOOT_STAGE 5).loadFirmware (6 * 128 + 2 * 8) fw.1
  let s := (s.loadFirmware (6 * 128 + 3 * 8) fw.2).loadFirmware (6 * 128 + 3 * 8 + 1) fw.2
  let s := (s.releaseHost true).fixHost
  let s := ((s.railUp 6 800 (a.volts.getD 6 0)).railUp 7 800 (a.volts.getD 7 0)).railUp 11 2500 (a.volts.getD 11 0)
  s.forEach (upDies a) fun s d => s.railUp d 750 (a.volts.getD d 0)

/-- The crest dies that are there, and their arrays. -/
def Machine.Dev.bootDies (s : Dev) (a : BringAns) : Dev :=
  let s := s.put0 F.DIE_PRESENT (((upDies a).map (2 ^ ·)).sum + 64 + (if !bitAt (s.get F.SEC_RESTORE) 0 then 128 else 0))
  let s := s.put0 F.DIE_FUSED_OFF (((List.range 8).filter fun d => bitAt a.fusedOff d).map (2 ^ ·)).sum
  let s := s.put0 F.DIE_TEST_FAIL (((List.range 6).filter fun d => !bitAt a.fusedOff d && !bitAt a.linkBad d && bitAt a.crestBad d).map (2 ^ ·)).sum
  let s := s.forEach ((List.range 6).filter fun d => !(upDies a).contains d) fun s d =>
    (s.put F.DOM_STATE [d] stOff).put F.DOM_REQUESTED [d] stOff
  (s.forEach (upDies a) Dev.screeRestore).put0 F.BOOT_STAGE 8

/-- The expanders are waited for. -/
def Machine.Dev.bootPlug (s : Dev) (a : BringAns) : Dev :=
  { s with boot := { s.boot with extWait := true, plugged := plugList a, released := plugList a } }

/-- The fabric ports are set from the board block. -/
def Machine.Dev.initPorts (s : Dev) (b : BoardBlock) : Dev :=
  s.forEach (List.range 12) fun s n =>
    let w := b.ports.getD n 0
    let s := ((s.put F.PORT_MODE (fix n) (bitsOf w 1 2)).put F.PORT_MEDIUM (fix n) (bitsOf w 3 1)).put F.PORT_DIM (fix n) (bitsOf w 4 3)
    s.portEnable n (bitAt w 0) false

/-- Step 11's end: the layout, once all expanders are there. -/
def Machine.Dev.bootWaits (s : Dev) : Dev := if s.allAttached then s.bootExt else s

theorem bootGo_eq {s : Dev} (a : BringAns) (fw : List Nat × List Nat) {b : BoardBlock}
    (hb : (((s.bootRails a fw).bootDies a).bootPlug a).boot.board = some b) :
    s.bootGo a fw = ((((s.bootRails a fw).bootDies a).bootPlug a).initPorts b).bootWaits := by
  have h : s.bootGo a fw = Dev.bootWaits (match (((s.bootRails a fw).bootDies a).bootPlug a).boot.board with
      | none => ((s.bootRails a fw).bootDies a).bootPlug a
      | some b => (((s.bootRails a fw).bootDies a).bootPlug a).initPorts b) := rfl
  rw [h, hb]

theorem bootRails_reads (s : Dev) (a : BringAns) (fw : List Nat × List Nat) :
    (∀ g ∈ bootFields, (s.bootRails a fw).get g [] = s.get g []) ∧
    (∀ p < 12, (s.bootRails a fw).flag F.XP_PRESENT (xpIx p) = s.flag F.XP_PRESENT (xpIx p)) ∧
    (s.bootRails a fw).hostMem = s.hostMem ∧ (s.bootRails a fw).pwr.off = s.pwr.off ∧ (s.bootRails a fw).host.rrs = true ∧
    (s.bootRails a fw).boot = { s.boot with hostUp := true } := by
  obtain ⟨s2, h2⟩ : ∃ s2, s2 = (((s.put0 F.BOOT_STAGE 5).loadFirmware (6 * 128 + 2 * 8) fw.1).loadFirmware (6 * 128 + 3 * 8) fw.2).loadFirmware
    (6 * 128 + 3 * 8 + 1) fw.2 := ⟨_, rfl⟩
  obtain ⟨s3, h3⟩ : ∃ s3, s3 = (s2.releaseHost true).fixHost := ⟨_, rfl⟩
  have he : s.bootRails a fw = ((((s3.railUp 6 800 (a.volts.getD 6 0)).railUp 7 800 (a.volts.getD 7 0)).railUp 11 2500
      (a.volts.getD 11 0)).forEach (upDies a) fun s d => s.railUp d 750 (a.volts.getD d 0)) := by
    rw [h3, h2]
    rfl
  have k1 : BootKeeps (s.put0 F.BOOT_STAGE 5) s2 := by
    rw [h2]
    exact bootKeeps_trans (bootKeeps_loadFirmware _ _ _) (bootKeeps_trans (bootKeeps_loadFirmware _ _ _) (bootKeeps_loadFirmware _ _ _))
  have k2 : BootKeeps (s2.releaseHost true) s3 := by
    rw [h3]
    exact bootKeeps_dom _ (f := F.DOM_STATE) (by decide) 9 _
  have k3 : BootKeeps s3 (s.bootRails a fw) := by
    rw [he]
    exact bootKeeps_trans (bootKeeps_trans (bootKeeps_trans (bootKeeps_railUp _ _ _ _) (bootKeeps_railUp _ _ _ _))
      (bootKeeps_railUp _ _ _ _)) (bootKeeps_forEach _ _ (fun s d _ => bootKeeps_railUp s d _ _) _)
  have hg2 : ∀ g ix, (s2.releaseHost true).get g ix = s2.get g ix := fun _ _ => rfl
  generalize s.bootRails a fw = e at k3 ⊢
  refine ⟨fun g hg => ?_, fun p hp => ?_, ?_, ?_, ?_, ?_⟩
  · have hm := List.mem_append_left dieFields hg
    rw [k3.get hm, k2.get hm, hg2, k1.get hm, bootField_put _ _ (by decide) hg]
  · rw [k3.xp hp, k2.xp hp, Dev.flag, hg2, ← Dev.flag, k1.xp hp, xpPresent_put _ _ (by decide)]
  · exact k3.hostMem.trans (k2.hostMem.trans k1.hostMem)
  · exact k3.off.trans (k2.off.trans k1.off)
  · exact k3.rrs.trans k2.rrs
  · rw [k3.boot, k2.boot]
    change { s2.boot with hostUp := true } = _
    rw [k1.boot]
    rfl

theorem put0_rest (s : Dev) (f : Fld) (v : Nat) :
    (s.put0 f v).hostMem = s.hostMem ∧ (s.put0 f v).pwr = s.pwr ∧ (s.put0 f v).host = s.host ∧ (s.put0 f v).boot = s.boot :=
  ⟨rfl, rfl, rfl, rfl⟩

theorem bootDies_reads (s : Dev) (a : BringAns) :
    (∀ g ∈ bootFields, (s.bootDies a).get g [] = s.get g []) ∧ (s.bootDies a).get F.BOOT_STAGE = 8 ∧
    (∀ k < 8, bitAt ((s.bootDies a).get F.DIE_PRESENT) k =
      (if k < 6 then (upDies a).contains k else if k = 6 then true else !bitAt (s.get F.SEC_RESTORE) 0)) ∧
    (∀ p < 12, (s.bootDies a).flag F.XP_PRESENT (xpIx p) = s.flag F.XP_PRESENT (xpIx p)) ∧
    (s.bootDies a).hostMem = s.hostMem ∧ (s.bootDies a).pwr.off = s.pwr.off ∧ (s.bootDies a).host.rrs = s.host.rrs ∧
    (s.bootDies a).boot = s.boot := by
  obtain ⟨s6, h6⟩ : ∃ s6, s6 = s.put0 F.DIE_PRESENT
    (((upDies a).map (2 ^ ·)).sum + 64 + (if !bitAt (s.get F.SEC_RESTORE) 0 then 128 else 0)) := ⟨_, rfl⟩
  obtain ⟨v7, h7⟩ : ∃ v, v = (((List.range 8).filter fun d => bitAt a.fusedOff d).map (2 ^ ·)).sum := ⟨_, rfl⟩
  obtain ⟨v8, h8⟩ : ∃ v, v = (((List.range 6).filter fun d => !bitAt a.fusedOff d && !bitAt a.linkBad d && bitAt a.crestBad d).map (2 ^ ·)).sum :=
    ⟨_, rfl⟩
  obtain ⟨s8, hs8⟩ : ∃ s8, s8 = (s6.put0 F.DIE_FUSED_OFF v7).put0 F.DIE_TEST_FAIL v8 := ⟨_, rfl⟩
  obtain ⟨s9, h9⟩ : ∃ s9, s9 = (s8.forEach ((List.range 6).filter fun d => !(upDies a).contains d) fun s d =>
    (s.put F.DOM_STATE [d] stOff).put F.DOM_REQUESTED [d] stOff).forEach (upDies a) Dev.screeRestore := ⟨_, rfl⟩
  have he : s.bootDies a = s9.put0 F.BOOT_STAGE 8 := by
    rw [h9, hs8, h7, h8, h6]
    rfl
  have k : BootKeeps s8 s9 := by
    rw [h9]
    exact bootKeeps_trans (bootKeeps_forEach _ _ (fun s d _ => bootKeeps_trans (bootKeeps_dom s (by decide) d _)
      (bootKeeps_dom _ (by decide) d _)) _) (bootKeeps_forEach _ _ (fun s d _ => bootKeeps_screeRestore s d) _)
  have h8r : s8.hostMem = s.hostMem ∧ s8.pwr = s.pwr ∧ s8.host = s.host ∧ s8.boot = s.boot := by
    obtain ⟨p1, p2, p3, p4⟩ := put0_rest s F.DIE_PRESENT
      (((upDies a).map (2 ^ ·)).sum + 64 + (if !bitAt (s.get F.SEC_RESTORE) 0 then 128 else 0))
    rw [← h6] at p1 p2 p3 p4
    obtain ⟨q1, q2, q3, q4⟩ := put0_rest s6 F.DIE_FUSED_OFF v7
    obtain ⟨r1, r2, r3, r4⟩ := put0_rest (s6.put0 F.DIE_FUSED_OFF v7) F.DIE_TEST_FAIL v8
    rw [← hs8] at r1 r2 r3 r4
    exact ⟨r1.trans (q1.trans p1), r2.trans (q2.trans p2), r3.trans (q3.trans p3), r4.trans (q4.trans p4)⟩
  obtain ⟨m1, m2, m3, m4⟩ := h8r
  rw [he]
  refine ⟨fun g hg => ?_, Dev.get_put_fit _ (by decide) (by decide), fun n hn => ?_, fun p hp => ?_, ?_, ?_, ?_, ?_⟩
  · rw [bootField_put _ _ (by decide) hg, k.get (List.mem_append_left _ hg), hs8, bootField_put _ _ (by decide) hg,
      bootField_put _ _ (by decide) hg, h6, bootField_put _ _ (by decide) hg]
  · obtain ⟨b1, b2⟩ := diesMask a (!bitAt (s.get F.SEC_RESTORE) 0)
    have hd : s9.get F.DIE_PRESENT = ((upDies a).map (2 ^ ·)).sum + 64 + (if !bitAt (s.get F.SEC_RESTORE) 0 then 128 else 0) := by
      rw [k.get (by decide : F.DIE_PRESENT ∈ _), hs8, Dev.get_put0_apart _ _ (by decide), Dev.get_put0_apart _ _ (by decide), h6]
      exact Dev.get_put_fit _ (by decide) b1
    rw [Dev.get_put0_apart _ _ (by decide), hd, b2 n hn]
  · rw [xpPresent_put _ _ (by decide), k.xp hp, hs8, xpPresent_put _ _ (by decide), xpPresent_put _ _ (by decide), h6,
      xpPresent_put _ _ (by decide)]
  · exact k.hostMem.trans m1
  · exact k.off.trans (congrArg Pwr.off m2)
  · exact k.rrs.trans (by rw [m3])
  · exact k.boot.trans m4

theorem bootKeeps_initPorts (s : Dev) (b : BoardBlock) : BootKeeps s (s.initPorts b) := by
  unfold Dev.initPorts
  refine bootKeeps_forEach _ _ (fun s n _ => ?_) s
  exact bootKeeps_trans (bootKeeps_trans (bootKeeps_trans (bootKeeps_port s (f := F.PORT_MODE) (by decide) n _)
    (bootKeeps_port _ (f := F.PORT_MEDIUM) (by decide) n _)) (bootKeeps_port _ (f := F.PORT_DIM) (by decide) n _))
    (bootKeeps_portEnable _ n _ _)

/-- What stands when step 11 is reached. -/
structure AtExt (a : BringAns) (s x : Dev) : Prop where
  fields : ∀ g ∈ bootFields, x.get g [] = s.get g []
  stage : x.get F.BOOT_STAGE = 8
  dies : ∀ k < 8, bitAt (x.get F.DIE_PRESENT) k =
    (if k < 6 then (upDies a).contains k else if k = 6 then true else !bitAt (s.get F.SEC_RESTORE) 0)
  xp : ∀ p < 12, x.flag F.XP_PRESENT (xpIx p) = s.flag F.XP_PRESENT (xpIx p)
  hostMem : x.hostMem = s.hostMem
  off : x.pwr.off = s.pwr.off
  rrs : x.host.rrs = true
  boot : x.boot = { s.boot with hostUp := true, extWait := true, plugged := plugList a, released := plugList a }

theorem bootGo_reads {s : Dev} (a : BringAns) (fw : List Nat × List Nat) {b : BoardBlock} (hb : s.boot.board = some b) :
    ∃ x, s.bootGo a fw = x.bootWaits ∧ AtExt a s x := by
  obtain ⟨r1, r2, r3, r4, r5, r6⟩ := bootRails_reads s a fw
  obtain ⟨d1, d2, d3, d4, d5, d6, d7, d8⟩ := bootDies_reads (s.bootRails a fw) a
  have he := bootGo_eq (s := s) a fw (b := b) (by
    change ((s.bootRails a fw).bootDies a).boot.board = some b
    rw [d8, r6]
    exact hb)
  have k := bootKeeps_initPorts (((s.bootRails a fw).bootDies a).bootPlug a) b
  have hp : ∀ g ix, (((s.bootRails a fw).bootDies a).bootPlug a).get g ix = ((s.bootRails a fw).bootDies a).get g ix := fun _ _ => rfl
  have hpr : (((s.bootRails a fw).bootDies a).bootPlug a).boot = { s.boot with
      hostUp := true, extWait := true, plugged := plugList a, released := plugList a } := by
    change { ((s.bootRails a fw).bootDies a).boot with extWait := true, plugged := plugList a, released := plugList a } = _
    rw [d8, r6]
  refine ⟨_, he, fun g hg => ?_, ?_, fun n hn => ?_, fun p hp' => ?_, ?_, ?_, ?_, ?_⟩
  · rw [k.get (List.mem_append_left _ hg), hp, d1 g hg, r1 g hg]
  · rw [k.get (by decide : F.BOOT_STAGE ∈ _), hp, d2]
  · rw [k.get (by decide : F.DIE_PRESENT ∈ _), hp, d3 n hn, r1 F.SEC_RESTORE (by decide)]
  · rw [k.xp hp', Dev.flag, hp, ← Dev.flag, d4 p hp', r2 p hp']
  · exact k.hostMem.trans (d5.trans r3)
  · exact k.off.trans (d6.trans r4)
  · exact k.rrs.trans (d7.trans r5)
  · exact k.boot.trans hpr

end Sys2Proof
end

section
/-! SUPPORT. Steps 1 to 7 of bring-up, and the statement about it (20 Table 20.5, R721 to R724). -/

namespace Sys2Proof

open Machine

/-! ### Steps 4 to 7, in parts -/

/-- The rails of the col dies. -/
def Machine.Dev.bootColRails (s : Dev) (a : BringAns) : Dev :=
  let s := (s.put0 F.BOOT_STAGE 2)
  let s := (s.railUp 10 900 (a.volts.getD 10 0)).railUp 8 750 (a.volts.getD 8 0)
  (if a.hasColB then s.railUp 9 750 (a.volts.getD 9 0) else s).put0 F.BOOT_STAGE 3

/-- What Col-A reports of the unit. -/
def Machine.Dev.bootSerial (s : Dev) (a : BringAns) : Dev :=
  let s := (s.put0 F.SERIAL_LO (a.serial % 2 ^ 32)).put0 F.SERIAL_HI (a.serial / 2 ^ 32 % 2 ^ 32)
  let s := s.put0 F.SEC_RESTORE (b2n (!a.hasColB))
  s.put0 F.BOOT_STAGE 4

/-- WC is lost to the warden. -/
def Machine.Dev.losesWc (s : Dev) (a : BringAns) : Bool := (!a.hasColB || bitAt a.wardenBad 2) && !bitAt (s.get F.FENCED) 2

/-- The warden's cores that run. -/
def Machine.Dev.bootVoters (s : Dev) (a : BringAns) : Dev :=
  let s := if s.losesWc a && a.hasColB then s.fenceCore 2 else s
  (s.put0 F.WD_PRESENT (if a.hasColB then 7 else 3)).put0 F.WARDEN_MODE (if s.get F.FENCED = 0 ∧ a.hasColB then 0 else 1)

/-- The host's image is awaited. -/
def Machine.Dev.bootHost (s : Dev) (a : BringAns) : Dev :=
  { (s.put0 F.BOOT_STAGE 6).releaseHost false with boot := { s.boot with ans := some a, hostUp := true } }

/-- The firmware is the image's own. -/
def Machine.Dev.bootOwn (s : Dev) (a : BringAns) : Dev :=
  match a.firmware with
  | none => s.bootFail 5
  | some fw => s.bootGo a fw

theorem bootCol_eq (s : Dev) (a : BringAns) :
    s.bootCol a =
      if !a.colRails then (s.put0 F.BOOT_STAGE 2).bootFail 2
      else if !a.colA ∨ bitAt a.fusedOff 6 then (s.bootColRails a).bootFail 3
      else if bitAt a.wardenBad 0 ∨ bitAt a.wardenBad 1 then ((s.bootColRails a).bootSerial a).bootFail 4
      else if ((s.bootColRails a).bootSerial a).get F.FENCED ≠ 0 ∧ ((s.bootColRails a).bootSerial a).losesWc a then
        ((s.bootColRails a).bootSerial a).bootFail 4
      else if (((s.bootColRails a).bootSerial a).bootVoters a).get F.STRAP_BOOT = 1 then
        (((s.bootColRails a).bootSerial a).bootVoters a).bootHost a
      else (((s.bootColRails a).bootSerial a).bootVoters a).bootOwn a := by
  unfold Dev.bootCol
  refine ite_congr rfl (fun _ => rfl) fun _ => ?_
  refine ite_congr rfl (fun _ => rfl) fun _ => ?_
  refine ite_congr rfl (fun _ => rfl) fun _ => ?_
  refine ite_congr rfl (fun _ => rfl) fun _ => ?_
  refine ite_congr rfl (fun _ => rfl) fun _ => ?_
  rfl

/-- What a part of steps 1 to 7 leaves as it was: everything but the listed fields, of what bring-up reports. -/
structure BootPart (l : List Fld) (a b : Dev) : Prop where
  fields : ∀ g ∈ bootFields, g ∉ l → b.get g [] = a.get g []
  fenced : b.get F.FENCED = a.get F.FENCED
  xp : ∀ p < 12, b.flag F.XP_PRESENT (xpIx p) = a.flag F.XP_PRESENT (xpIx p)
  hostMem : b.hostMem = a.hostMem
  mem : b.mem = a.mem
  off : b.pwr.off = a.pwr.off
  boot : b.boot = a.boot

theorem bootPart_trans {l l' : List Fld} {a b c : Dev} (h : BootPart l a b) (h' : BootPart l' b c) : BootPart (l ++ l') a c := by
  refine ⟨fun g hg hn => ?_, h'.fenced.trans h.fenced, fun p hp => (h'.xp p hp).trans (h.xp p hp), h'.hostMem.trans h.hostMem,
    h'.mem.trans h.mem, h'.off.trans h.off, h'.boot.trans h.boot⟩
  rw [List.mem_append, not_or] at hn
  exact (h'.fields g hg hn.2).trans (h.fields g hg hn.1)

theorem BootKeeps.part {a b : Dev} (h : BootKeeps a b) : BootPart [] a b :=
  ⟨fun _ hg _ => h.get (List.mem_append_left _ hg), h.fenced, fun _ hp => h.xp hp, h.hostMem, h.mem, h.off, h.boot⟩

theorem bootPart_put (s : Dev) {f : Fld} (v : Nat) (hf : f ∈ [F.SERIAL_LO, F.SERIAL_HI, F.SEC_RESTORE, F.BOOT_STAGE, F.STRAP_HEAD,
    F.STRAP_CHAIN_ID, F.STRAP_BOOT, F.CHAIN_HEAD, F.CHAIN_ID, F.BACKUP_USED]) : BootPart [f] s (s.put0 f v) := by
  refine ⟨fun g hg hn => Dev.get_put_apart _ _ ?_, Dev.get_put_apart _ _ ?_, fun p hp => flag_of_get (Dev.get_put_apart _ _ ?_), rfl, rfl, rfl, rfl⟩
  · exact (by decide : ∀ f ∈ [F.SERIAL_LO, F.SERIAL_HI, F.SEC_RESTORE, F.BOOT_STAGE, F.STRAP_HEAD, F.STRAP_CHAIN_ID, F.STRAP_BOOT,
      F.CHAIN_HEAD, F.CHAIN_ID, F.BACKUP_USED], ∀ g ∈ bootFields, g ∉ [f] → Fld.apart f [] g [] = true) f hf g hg hn
  · revert f
    decide
  · have ho := (by decide : ∀ f ∈ [F.SERIAL_LO, F.SERIAL_HI, F.SEC_RESTORE, F.BOOT_STAGE, F.STRAP_HEAD, F.STRAP_CHAIN_ID, F.STRAP_BOOT,
      F.CHAIN_HEAD, F.CHAIN_ID, F.BACKUP_USED], f.off [] < 0x2200000 ∨ f.off [] = 0x3A00000) f hf
    refine apart_of_off ?_ (by decide)
    have hx : F.XP_PRESENT.off (xpIx p) = 0x2200000 + 0x400000 * (p / 2) + 0x1000 * (p % 2) := by simp [Fld.off, xpIx]; omega
    rw [hx]
    omega

theorem bootColRails_part (s : Dev) (a : BringAns) : BootPart [F.BOOT_STAGE, F.BOOT_STAGE] s (s.bootColRails a) ∧
    (s.bootColRails a).get F.BOOT_STAGE = 3 := by
  obtain ⟨x, hx⟩ : ∃ x, x = ((s.put0 F.BOOT_STAGE 2).railUp 10 900 (a.volts.getD 10 0)).railUp 8 750 (a.volts.getD 8 0) := ⟨_, rfl⟩
  obtain ⟨y, hy⟩ : ∃ y, y = if a.hasColB then x.railUp 9 750 (a.volts.getD 9 0) else x := ⟨_, rfl⟩
  have he : s.bootColRails a = y.put0 F.BOOT_STAGE 3 := by
    rw [hy, hx]
    rfl
  have k : BootKeeps (s.put0 F.BOOT_STAGE 2) y := by
    refine bootKeeps_trans (b := x) ?_ ?_
    · rw [hx]
      exact bootKeeps_trans (bootKeeps_railUp _ _ _ _) (bootKeeps_railUp _ _ _ _)
    · rw [hy]
      split
      · exact bootKeeps_railUp _ _ _ _
      · exact bootKeeps_refl x
  rw [he]
  exact ⟨bootPart_trans (l := [F.BOOT_STAGE]) (bootPart_trans (l' := []) (bootPart_put s _ (by decide)) k.part) (bootPart_put _ _ (by decide)),
    Dev.get_put_fit _ (by decide) (by decide)⟩

theorem bootSerial_part (s : Dev) (a : BringAns) :
    BootPart [F.SERIAL_LO, F.SERIAL_HI, F.SEC_RESTORE, F.BOOT_STAGE] s (s.bootSerial a) ∧
    (s.bootSerial a).get F.SERIAL_LO = a.serial % 2 ^ 32 ∧ (s.bootSerial a).get F.SERIAL_HI = a.serial / 2 ^ 32 % 2 ^ 32 ∧
    (s.bootSerial a).get F.SEC_RESTORE = b2n (!a.hasColB) ∧ (s.bootSerial a).get F.BOOT_STAGE = 4 := by
  obtain ⟨s1, h1⟩ : ∃ x, x = s.put0 F.SERIAL_LO (a.serial % 2 ^ 32) := ⟨_, rfl⟩
  obtain ⟨s2, h2⟩ : ∃ x, x = s1.put0 F.SERIAL_HI (a.serial / 2 ^ 32 % 2 ^ 32) := ⟨_, rfl⟩
  obtain ⟨s3, h3⟩ : ∃ x, x = s2.put0 F.SEC_RESTORE (b2n (!a.hasColB)) := ⟨_, rfl⟩
  have he : s.bootSerial a = s3.put0 F.BOOT_STAGE 4 := by
    rw [h3, h2, h1]
    rfl
  have g1 : s1.get F.SERIAL_LO = a.serial % 2 ^ 32 := by
    rw [h1]
    exact Dev.get_put_fit _ (by decide) (Nat.mod_lt _ (by decide))
  have g2 : s2.get F.SERIAL_HI = a.serial / 2 ^ 32 % 2 ^ 32 := by
    rw [h2]
    exact Dev.get_put_fit _ (by decide) (Nat.mod_lt _ (by decide))
  have g3 : s3.get F.SEC_RESTORE = b2n (!a.hasColB) := by
    rw [h3]
    exact Dev.get_put_fit _ (by decide) (b2n_lt _)
  have p1 : BootPart [F.SERIAL_LO] s s1 := by rw [h1]; exact bootPart_put s _ (by decide)
  have p2 : BootPart [F.SERIAL_HI] s1 s2 := by rw [h2]; exact bootPart_put s1 _ (by decide)
  have p3 : BootPart [F.SEC_RESTORE] s2 s3 := by rw [h3]; exact bootPart_put s2 _ (by decide)
  have p4 : BootPart [F.BOOT_STAGE] s3 (s.bootSerial a) := by rw [he]; exact bootPart_put s3 _ (by decide)
  refine ⟨bootPart_trans p1 (bootPart_trans p2 (bootPart_trans p3 p4)), ?_, ?_, ?_, ?_⟩
  · rw [p4.fields F.SERIAL_LO (by decide) (by decide), p3.fields F.SERIAL_LO (by decide) (by decide),
      p2.fields F.SERIAL_LO (by decide) (by decide), g1]
  · rw [p4.fields F.SERIAL_HI (by decide) (by decide), p3.fields F.SERIAL_HI (by decide) (by decide), g2]
  · rw [p4.fields F.SEC_RESTORE (by decide) (by decide), g3]
  · rw [he]
    exact Dev.get_put_fit _ (by decide) (by decide)

/-- The fields of the warden's cores. -/
def voterFields : List Fld := [F.FENCE_HISTORY, F.FENCED, F.WD_PRESENT, F.WARDEN_MODE]

/-- Counting the warden's cores changes their own fields alone. -/
theorem bootVoters_reads (s : Dev) (a : BringAns) :
    (∀ g ∈ bootFields ++ dieFields, (s.bootVoters a).get g [] = s.get g []) ∧
    (∀ p < 12, (s.bootVoters a).flag F.XP_PRESENT (xpIx p) = s.flag F.XP_PRESENT (xpIx p)) ∧ OnlyRegs s (s.bootVoters a) := by
  obtain ⟨x, hx⟩ : ∃ x, x = if s.losesWc a && a.hasColB then s.fenceCore 2 else s := ⟨_, rfl⟩
  have he : s.bootVoters a = (x.put0 F.WD_PRESENT (if a.hasColB then 7 else 3)).put0 F.WARDEN_MODE (if x.get F.FENCED = 0 ∧ a.hasColB then 0 else 1) := by
    rw [hx]
    rfl
  have o1 : OnlyFields (voterFields.map fun f => (f, [])) s x ∧ OnlyRegs s x := by
    rw [hx]
    split
    · exact ⟨onlyFields_put _ (onlyFields_put _ (onlyFields_refl _ _) (by decide)) (by decide), onlyRegs_trans (onlyRegs_put _ _ _ _) (onlyRegs_put _ _ _ _)⟩
    · exact ⟨onlyFields_refl _ _, onlyRegs_refl _⟩
  have o2 : OnlyFields (voterFields.map fun f => (f, [])) s (s.bootVoters a) := by
    rw [he]
    exact onlyFields_put _ (onlyFields_put _ o1.1 (by decide)) (by decide)
  refine ⟨fun g hg => o2.get g [] ((by decide : ∀ g ∈ bootFields ++ dieFields, ∀ x ∈ voterFields.map fun f => (f, []),
    Fld.apart x.1 x.2 g [] = true) g hg), fun p hp => flag_of_get (o2.get _ _ fun y hy => apart_of_off ?_ (by decide)), ?_⟩
  · have ho := (by decide : ∀ y ∈ voterFields.map fun f => (f, []), y.1.off y.2 = 0x3800000 ∨ y.1.off y.2 = 0x3800018) y hy
    have hxp : F.XP_PRESENT.off (xpIx p) = 0x2200000 + 0x400000 * (p / 2) + 0x1000 * (p % 2) := by simp [Fld.off, xpIx]; omega
    rw [hxp]
    omega
  · rw [he]
    exact onlyRegs_trans o1.2 (onlyRegs_trans (onlyRegs_put0 _ _ _) (onlyRegs_put0 _ _ _))

/-! ### From the held reset -/

/-- The straps are read. -/
def Machine.Dev.bootStraps (s : Dev) (a : BringAns) : Dev :=
  let s := s.updPwr fun p => { p with off := 0 }
  let s := (((s.put0 F.STRAP_HEAD (b2n a.head)).put0 F.STRAP_CHAIN_ID a.chainId).put0 F.STRAP_BOOT a.boot).put0 F.BOOT_STAGE 1
  (s.put0 F.CHAIN_HEAD (b2n a.head)).put0 F.CHAIN_ID a.chainId

/-- The rails are named by the board block. -/
def Machine.Dev.bootAddrs (s : Dev) (b : BoardBlock) : Dev :=
  s.forEach (List.range 14) fun s r =>
    (s.put F.RAIL_ADDR [r] (bitsOf (b.rails.getD r 0) 0 7)).put F.RAIL_SELECT [r] (bitsOf (b.rails.getD r 0) 8 4)

/-- The board block is in use. -/
def Machine.Dev.bootBoard (s : Dev) (a : BringAns) (b : BoardBlock) : Dev :=
  ((({ s with boot := { s.boot with board := some b } } : Dev).bootAddrs b).put0 F.BACKUP_USED (b2n a.onBackup)).auxTry

theorem bringUp_strap {d : Dev} {a : BringAns} (h : d.pwr.off = 3) (hb : 2 ≤ a.boot % 4) : d.bringUp a = (d.bootStraps a).bootFail 6 := by
  unfold Dev.bringUp
  rw [h, if_neg (by simp), if_neg (by simp)]
  exact if_pos hb

theorem bringUp_none {d : Dev} {a : BringAns} (h : d.pwr.off = 3) (hb : ¬2 ≤ a.boot % 4) (hn : a.board = none) :
    d.bringUp a = (d.bootStraps a).bootFail 1 := by
  unfold Dev.bringUp
  rw [h, if_neg (by simp), if_neg (by simp), hn]
  exact if_neg hb

theorem bringUp_some {d : Dev} {a : BringAns} {b : BoardBlock} (h : d.pwr.off = 3) (hb : ¬2 ≤ a.boot % 4) (hn : a.board = some b) :
    d.bringUp a = ((d.bootStraps a).bootBoard a b).bootCol a := by
  unfold Dev.bringUp
  rw [h, if_neg (by simp), if_neg (by simp), hn]
  exact if_neg hb

/-- What every stage after the straps shows. -/
structure Strapped (d : Dev) (a : BringAns) (s : Dev) : Prop where
  head : s.get F.STRAP_HEAD = b2n a.head
  chain : s.get F.STRAP_CHAIN_ID = a.chainId % 256
  boot : s.get F.STRAP_BOOT = a.boot % 4
  err : s.get F.BOOT_ERR = d.get F.BOOT_ERR
  xp : ∀ p < 12, s.flag F.XP_PRESENT (xpIx p) = d.flag F.XP_PRESENT (xpIx p)
  off : s.pwr.off = 0
  mem : s.mem = d.mem
  hostMem : s.hostMem = d.hostMem

theorem Strapped.part {d : Dev} {a : BringAns} {s t : Dev} {l : List Fld} (h : Strapped d a s) (hp : BootPart l s t)
    (hl : F.STRAP_HEAD ∉ l ∧ F.STRAP_CHAIN_ID ∉ l ∧ F.STRAP_BOOT ∉ l ∧ F.BOOT_ERR ∉ l) : Strapped d a t := by
  obtain ⟨h1, h2, h3, h4⟩ := hl
  exact ⟨(hp.fields F.STRAP_HEAD (by decide) h1).trans h.head, (hp.fields F.STRAP_CHAIN_ID (by decide) h2).trans h.chain,
    (hp.fields F.STRAP_BOOT (by decide) h3).trans h.boot, (hp.fields F.BOOT_ERR (by decide) h4).trans h.err,
    fun p hp' => (hp.xp p hp').trans (h.xp p hp'), hp.off.trans h.off, hp.mem.trans h.mem, hp.hostMem.trans h.hostMem⟩

theorem bootStraps_reads (d : Dev) (a : BringAns) :
    Strapped d a (d.bootStraps a) ∧ (d.bootStraps a).get F.BOOT_STAGE = 1 ∧ (d.bootStraps a).get F.FENCED = d.get F.FENCED := by
  obtain ⟨s0, h0⟩ : ∃ x, x = d.updPwr fun p => { p with off := 0 } := ⟨_, rfl⟩
  obtain ⟨s1, h1⟩ : ∃ x, x = s0.put0 F.STRAP_HEAD (b2n a.head) := ⟨_, rfl⟩
  obtain ⟨s2, h2⟩ : ∃ x, x = s1.put0 F.STRAP_CHAIN_ID a.chainId := ⟨_, rfl⟩
  obtain ⟨s3, h3⟩ : ∃ x, x = s2.put0 F.STRAP_BOOT a.boot := ⟨_, rfl⟩
  obtain ⟨s4, h4⟩ : ∃ x, x = s3.put0 F.BOOT_STAGE 1 := ⟨_, rfl⟩
  obtain ⟨s5, h5⟩ : ∃ x, x = s4.put0 F.CHAIN_HEAD (b2n a.head) := ⟨_, rfl⟩
  have he : d.bootStraps a = s5.put0 F.CHAIN_ID a.chainId := by
    rw [h5, h4, h3, h2, h1, h0]
    rfl
  have p0 : ∀ g ix, s0.get g ix = d.get g ix := fun g ix => by rw [h0]; rfl
  have p1 : BootPart [F.STRAP_HEAD] s0 s1 := by rw [h1]; exact bootPart_put _ _ (by decide)
  have p2 : BootPart [F.STRAP_CHAIN_ID] s1 s2 := by rw [h2]; exact bootPart_put _ _ (by decide)
  have p3 : BootPart [F.STRAP_BOOT] s2 s3 := by rw [h3]; exact bootPart_put _ _ (by decide)
  have p4 : BootPart [F.BOOT_STAGE] s3 s4 := by rw [h4]; exact bootPart_put _ _ (by decide)
  have p5 : BootPart [F.CHAIN_HEAD] s4 s5 := by rw [h5]; exact bootPart_put _ _ (by decide)
  have p6 : BootPart [F.CHAIN_ID] s5 (d.bootStraps a) := by rw [he]; exact bootPart_put _ _ (by decide)
  have p46 := bootPart_trans p4 (bootPart_trans p5 p6)
  have p26 := bootPart_trans p2 (bootPart_trans p3 p46)
  have p16 := bootPart_trans p1 p26
  refine ⟨⟨?_, ?_, ?_, ?_, fun p hp => ?_, ?_, ?_, ?_⟩, ?_, ?_⟩
  · rw [p26.fields F.STRAP_HEAD (by decide) (by decide), h1]
    exact Dev.get_put_fit _ (by decide) (b2n_lt _)
  · rw [p46.fields F.STRAP_CHAIN_ID (by decide) (by decide), p3.fields F.STRAP_CHAIN_ID (by decide) (by decide), h2]
    exact Dev.get_put_same _ _ _ _ (by decide)
  · rw [p46.fields F.STRAP_BOOT (by decide) (by decide), h3]
    exact Dev.get_put_same _ _ _ _ (by decide)
  · rw [p16.fields F.BOOT_ERR (by decide) (by decide), p0]
  · rw [p16.xp p hp, Dev.flag, p0, ← Dev.flag]
  · rw [p16.off, h0]
    rfl
  · rw [p16.mem, h0]
    rfl
  · rw [p16.hostMem, h0]
    rfl
  · rw [he, Dev.get_put0_apart _ _ (by decide), h5, Dev.get_put0_apart _ _ (by decide), h4]
    exact Dev.get_put_fit _ (by decide) (by decide)
  · rw [p16.fenced, p0]

theorem bootBoard_reads {d : Dev} {a : BringAns} {s : Dev} (b : BoardBlock) (h : Strapped d a s) :
    Strapped d a (s.bootBoard a b) ∧ (s.bootBoard a b).get F.FENCED = s.get F.FENCED ∧
    (s.bootBoard a b).boot.board = some b := by
  obtain ⟨s1, h1⟩ : ∃ x : Dev, x = { s with boot := { s.boot with board := some b } } := ⟨_, rfl⟩
  have k2 : BootKeeps s1 (s1.bootAddrs b) := by
    unfold Dev.bootAddrs
    exact bootKeeps_forEach _ _ (fun s r _ => bootKeeps_trans (bootKeeps_put s _ (rail_high (by simp) r))
      (bootKeeps_put _ _ (rail_high (by simp) r))) s1
  have p : BootPart [F.BACKUP_USED] s1 (s.bootBoard a b) := by
    have he : s.bootBoard a b = ((s1.bootAddrs b).put0 F.BACKUP_USED (b2n a.onBackup)).auxTry := by
      rw [h1]
      rfl
    rw [he]
    exact bootPart_trans (l := []) k2.part (bootPart_trans (l' := []) (bootPart_put _ _ (by decide)) (bootKeeps_auxTry _).part)
  have hs1 : Strapped d a s1 := by
    rw [h1]
    exact ⟨h.head, h.chain, h.boot, h.err, h.xp, h.off, h.mem, h.hostMem⟩
  refine ⟨hs1.part p (by decide), ?_, ?_⟩
  · rw [p.fenced, h1]
    rfl
  · rw [p.boot, h1]

/-- Bring-up stops with a code, from a stage that has the straps. -/
theorem Strapped.stopped {d : Dev} {a : BringAns} {s : Dev} {code : Nat} (h : Strapped d a s) (hc : code < 16) :
    BootStopped code (s.bootFail code) ∧
    ((s.bootFail code).get F.STRAP_HEAD = b2n a.head ∧ (s.bootFail code).get F.STRAP_CHAIN_ID = a.chainId % 256 ∧
      (s.bootFail code).get F.STRAP_BOOT = a.boot % 4) ∧
    (s.bootFail code).pwr.off = 0 ∧ (s.bootFail code).mem = d.mem ∧ (s.bootFail code).hostMem = d.hostMem ∧
    (s.bootFail code).get F.BOOT_STAGE = s.get F.BOOT_STAGE := by
  obtain ⟨f1, f2, f3, f4, f5, f6⟩ := bootFail_reads s hc
  exact ⟨f1, ⟨(f2 F.STRAP_HEAD (by decide) (by decide)).trans h.head, (f2 F.STRAP_CHAIN_ID (by decide) (by decide)).trans h.chain,
    (f2 F.STRAP_BOOT (by decide) (by decide)).trans h.boot⟩, f4.trans h.off, f5.trans h.mem, f6.trans h.hostMem, f3⟩

/-- What the col dies and the warden have reported when step 7 begins. -/
structure AtWarden (d : Dev) (a : BringAns) (s : Dev) : Prop extends Strapped d a s where
  serialLo : s.get F.SERIAL_LO = a.serial % 2 ^ 32
  serialHi : s.get F.SERIAL_HI = a.serial / 2 ^ 32 % 2 ^ 32
  sec : s.get F.SEC_RESTORE = b2n (!a.hasColB)
  stage : s.get F.BOOT_STAGE = 4

/-- Where bring-up stands after the parts that may fail before the warden runs. -/
theorem bootCol_parts {d : Dev} {a : BringAns} {s : Dev} (h : Strapped d a s) :
    (Strapped d a (s.bootColRails a) ∧ (s.bootColRails a).get F.BOOT_STAGE = 3) ∧
    AtWarden d a ((s.bootColRails a).bootSerial a) ∧ ((s.bootColRails a).bootSerial a).get F.FENCED = s.get F.FENCED ∧
    AtWarden d a (((s.bootColRails a).bootSerial a).bootVoters a) ∧
    (((s.bootColRails a).bootSerial a).bootVoters a).boot = s.boot := by
  obtain ⟨p1, g1⟩ := bootColRails_part s a
  have h1 := h.part p1 (by decide)
  obtain ⟨p2, g2, g3, g4, g5⟩ := bootSerial_part (s.bootColRails a) a
  have h2 := h1.part p2 (by decide)
  obtain ⟨v1, v2, v3⟩ := bootVoters_reads ((s.bootColRails a).bootSerial a) a
  generalize hv : ((s.bootColRails a).bootSerial a).bootVoters a = v at v1 v2 v3 ⊢
  generalize (s.bootColRails a).bootSerial a = t at p2 g2 g3 g4 g5 h2 v1 v2 v3 ⊢
  refine ⟨⟨h1, g1⟩, ⟨h2, g2, g3, g4, g5⟩, p2.fenced.trans p1.fenced, ⟨⟨?_, ?_, ?_, ?_, fun p hp => ?_, ?_, ?_, ?_⟩, ?_, ?_, ?_, ?_⟩, ?_⟩
  · exact (v1 F.STRAP_HEAD (by decide)).trans h2.head
  · exact (v1 F.STRAP_CHAIN_ID (by decide)).trans h2.chain
  · exact (v1 F.STRAP_BOOT (by decide)).trans h2.boot
  · exact (v1 F.BOOT_ERR (by decide)).trans h2.err
  · exact (v2 p hp).trans (h2.xp p hp)
  · rw [v3]
    exact h2.off
  · rw [v3]
    exact h2.mem
  · rw [v3]
    exact h2.hostMem
  · exact (v1 F.SERIAL_LO (by decide)).trans g2
  · exact (v1 F.SERIAL_HI (by decide)).trans g3
  · exact (v1 F.SEC_RESTORE (by decide)).trans g4
  · exact (v1 F.BOOT_STAGE (by decide)).trans g5
  · rw [v3]
    exact p2.boot.trans p1.boot

end Sys2Proof
end

section
/-! SUPPORT. Bring-up goes to the stage its environment allows, or stops with its code: the statement (20 Table 20.5, R721 to R724,
R730). -/

namespace Sys2Proof

open Machine

/-! ### Where each error stops bring-up -/

/-- Bring-up from the held reset runs the steps from the col dies on, when the straps and the image allow. -/
theorem bringUp_board {d : Dev} {a : BringAns} {b : BoardBlock} (h : d.pwr.off = 3) (hb : ¬2 ≤ a.boot % 4) (hn : a.board = some b) :
    ∃ s, d.bringUp a = s.bootCol a ∧ Strapped d a s ∧ s.get F.FENCED = d.get F.FENCED ∧ s.boot.board = some b := by
  obtain ⟨h1, -, h3⟩ := bootStraps_reads d a
  obtain ⟨b1, b2, b3⟩ := bootBoard_reads b h1
  exact ⟨_, bringUp_some h hb hn, b1, b2.trans h3, b3⟩

/-- The stage an error stops at (20 Table 20.5). -/
theorem bringUp_stops {d : Dev} {a : BringAns} (h : d.pwr.off = 3) (hf : d.get F.FENCED = 0) (he : bootErrOf a ≠ 0) :
    ∃ s, d.bringUp a = s.bootFail (bootErrOf a) ∧ Strapped d a s ∧ bootErrOf a < 16 ∧
      s.get F.BOOT_STAGE = (if bootErrOf a = 2 then 2 else if bootErrOf a = 3 then 3 else
        if bootErrOf a = 4 ∨ bootErrOf a = 5 then 4 else 1) := by
  obtain ⟨t1, t2, -⟩ := bootStraps_reads d a
  by_cases hb : 2 ≤ a.boot % 4
  · have hc : bootErrOf a = 6 := if_pos hb
    rw [hc]
    exact ⟨_, bringUp_strap h hb, t1, by decide, t2⟩
  have c1 : bootErrOf a = _ := if_neg hb
  cases hn : a.board with
  | none =>
    have hc : bootErrOf a = 1 := c1.trans (if_pos hn)
    rw [hc]
    exact ⟨_, bringUp_none h hb hn, t1, by decide, t2⟩
  | some b =>
    obtain ⟨s, hs, s1, s2, -⟩ := bringUp_board h hb hn
    have c2 := c1.trans (if_neg (by rw [hn]; exact Option.some_ne_none b))
    obtain ⟨⟨p1, p2⟩, q, qf, v, -⟩ := bootCol_parts s1
    have hcol := hs.trans (bootCol_eq s a)
    by_cases e2 : a.colRails = false
    · have hc : bootErrOf a = 2 := c2.trans (if_pos e2)
      rw [hc]
      exact ⟨_, hcol.trans (if_pos (by rw [e2]; rfl)), s1.part (bootPart_put s 2 (by decide)) (by decide), by decide,
        Dev.get_put_fit _ (by decide) (by decide)⟩
    have c3 := c2.trans (if_neg e2)
    have hcol := hcol.trans (if_neg (by simpa using e2))
    by_cases e3 : a.colA = false ∨ bitAt a.fusedOff 6 = true
    · have hc : bootErrOf a = 3 := c3.trans (if_pos e3)
      rw [hc]
      exact ⟨_, hcol.trans (if_pos (by simpa using e3)), p1, by decide, p2⟩
    have c4 := c3.trans (if_neg e3)
    have hcol := hcol.trans (if_neg (by simpa using e3))
    by_cases e4 : bitAt a.wardenBad 0 ∨ bitAt a.wardenBad 1
    · have hc : bootErrOf a = 4 := c4.trans (if_pos e4)
      rw [hc]
      exact ⟨_, hcol.trans (if_pos e4), q.toStrapped, by decide, q.stage⟩
    have c5 := c4.trans (if_neg e4)
    have hcol := (hcol.trans (if_neg e4)).trans (if_neg fun hx => hx.1 (qf.trans (s2.trans hf)))
    by_cases e5 : a.boot % 4 ≠ 1 ∧ a.firmware = none
    · have hc : bootErrOf a = 5 := c5.trans (if_pos e5)
      rw [hc]
      refine ⟨_, (hcol.trans (if_neg (by rw [v.boot]; exact e5.1))).trans ?_, v.toStrapped, by decide, v.stage⟩
      unfold Dev.bootOwn
      rw [e5.2]
    · exact absurd (c5.trans (if_neg e5)) he

/-- Without an error the warden runs. -/
theorem bringUp_runs {d : Dev} {a : BringAns} (h : d.pwr.off = 3) (hf : d.get F.FENCED = 0) (he : bootErrOf a = 0) :
    ∃ b v, a.board = some b ∧ v.boot.board = some b ∧ AtWarden d a v ∧
      d.bringUp a = if a.boot % 4 = 1 then v.bootHost a else v.bootOwn a := by
  by_cases hb : 2 ≤ a.boot % 4
  · exact absurd ((if_pos hb : bootErrOf a = 6).symm.trans he) (by decide)
  have c1 : bootErrOf a = _ := if_neg hb
  cases hn : a.board with
  | none => exact absurd ((c1.trans (if_pos hn)).symm.trans he) (by decide)
  | some b =>
    obtain ⟨s, hs, s1, s2, s3⟩ := bringUp_board h hb hn
    have c2 := c1.trans (if_neg (by rw [hn]; exact Option.some_ne_none b))
    obtain ⟨-, q, qf, v, vb⟩ := bootCol_parts s1
    have hcol := hs.trans (bootCol_eq s a)
    by_cases e2 : a.colRails = false
    · exact absurd ((c2.trans (if_pos e2)).symm.trans he) (by decide)
    have c3 := c2.trans (if_neg e2)
    have hcol := hcol.trans (if_neg (by simpa using e2))
    by_cases e3 : a.colA = false ∨ bitAt a.fusedOff 6 = true
    · exact absurd ((c3.trans (if_pos e3)).symm.trans he) (by decide)
    have c4 := c3.trans (if_neg e3)
    have hcol := hcol.trans (if_neg (by simpa using e3))
    by_cases e4 : bitAt a.wardenBad 0 ∨ bitAt a.wardenBad 1
    · exact absurd ((c4.trans (if_pos e4)).symm.trans he) (by decide)
    have hcol := (hcol.trans (if_neg e4)).trans (if_neg fun hx => hx.1 (qf.trans (s2.trans hf)))
    refine ⟨b, _, rfl, by rw [vb]; exact s3, v, ?_⟩
    rw [hcol, v.boot]

/-- The firmware is there when no error stops bring-up and the host is not to supply it. -/
theorem firmware_some {a : BringAns} (he : bootErrOf a = 0) (hb : a.boot % 4 ≠ 1) : ∃ fw, a.firmware = some fw := by
  cases hfw : a.firmware with
  | some fw => exact ⟨fw, rfl⟩
  | none =>
    unfold bootErrOf at he
    split_ifs at he with h1 h2 h3 h4 h5 h6
    exact absurd ⟨hb, hfw⟩ h6

/-! ### What stands at the end -/

theorem bootHost_reads {d : Dev} {a : BringAns} {v : Dev} (h : AtWarden d a v) :
    (∀ g ∈ bootFields, (v.bootHost a).get g [] = v.get g []) ∧ (v.bootHost a).get F.BOOT_STAGE = 6 ∧ (v.bootHost a).boot.ans = some a ∧
    (v.bootHost a).host.rrs = false ∧ (v.bootHost a).pwr.off = 0 ∧ (v.bootHost a).mem = d.mem ∧ (v.bootHost a).hostMem = d.hostMem := by
  have hg : ∀ g ix, (v.bootHost a).get g ix = (v.put0 F.BOOT_STAGE 6).get g ix := fun _ _ => rfl
  refine ⟨fun g hg' => (hg g []).trans (bootField_put _ _ (by decide) hg'), (hg _ _).trans (Dev.get_put_fit _ (by decide) (by decide)), rfl, rfl,
    h.off, h.mem, h.hostMem⟩

theorem bitAt_b2n (c : Bool) : bitAt (b2n c) 0 = c := by cases c <;> rfl

/-- Settles O27: bring-up goes to the stage its environment allows, or stops with its code. -/
theorem bringUp : Obligations.BringUp := by
  unfold Obligations.BringUp
  intro d a hoff hfen straps warden
  have hg : ∀ {P : Dev → Prop}, P (d.bringUp a) → Gives (.bringup a) d P := fun hP => gives_of_onRaw (·.bringUp a) (fun _ => rfl) hP
  refine ⟨fun he => hg ?_, fun he hb => hg ?_, ?_⟩
  · obtain ⟨s, hs, h1, h2, h3⟩ := bringUp_stops hoff hfen he
    obtain ⟨f1, f2, f3, f4, f5, f6⟩ := h1.stopped h2
    rw [hs]
    exact ⟨f1, f2, f3, f4, f5, f6.trans h3⟩
  · obtain ⟨b, v, -, -, hv, hs⟩ := bringUp_runs hoff hfen he
    obtain ⟨r1, r2, r3, r4, r5, r6, r7⟩ := bootHost_reads hv
    rw [hs, if_pos hb]
    exact ⟨⟨(r1 F.STRAP_HEAD (by decide)).trans hv.head, (r1 F.STRAP_CHAIN_ID (by decide)).trans hv.chain,
        (r1 F.STRAP_BOOT (by decide)).trans hv.boot⟩,
      ⟨(r1 F.SERIAL_LO (by decide)).trans hv.serialLo, (r1 F.SERIAL_HI (by decide)).trans hv.serialHi,
        (r1 F.SEC_RESTORE (by decide)).trans hv.sec, (r1 F.BOOT_ERR (by decide)).trans hv.err⟩, r2, r3, r4, r5, r6, r7⟩
  · intro b he hb hbd dies present
    obtain ⟨b', v, hb', hvb, hv, hs⟩ := bringUp_runs hoff hfen he
    obtain rfl : b' = b := Option.some.inj (hb'.symm.trans hbd)
    obtain ⟨fw, hfw⟩ := firmware_some he (by omega)
    have hs : d.bringUp a = v.bootGo a fw := by
      rw [hs, if_neg (by omega)]
      unfold Dev.bootOwn
      rw [hfw]
    obtain ⟨x, hx, hat⟩ := bootGo_reads a fw hvb
    -- what the fields show at step 11, and after a further stage
    have shows : ∀ e : Dev, (∀ g ∈ bootFields, e.get g [] = x.get g []) → e.get F.DIE_PRESENT = x.get F.DIE_PRESENT →
        straps e ∧ warden e ∧ present e := fun e hf hd => by
      have hg : ∀ g ∈ bootFields, e.get g [] = v.get g [] := fun g hg => (hf g hg).trans (hat.fields g hg)
      refine ⟨⟨(hg F.STRAP_HEAD (by decide)).trans hv.head, (hg F.STRAP_CHAIN_ID (by decide)).trans hv.chain,
          (hg F.STRAP_BOOT (by decide)).trans hv.boot⟩,
        ⟨(hg F.SERIAL_LO (by decide)).trans hv.serialLo, (hg F.SERIAL_HI (by decide)).trans hv.serialHi,
          (hg F.SEC_RESTORE (by decide)).trans hv.sec, (hg F.BOOT_ERR (by decide)).trans hv.err⟩, fun k hk => ?_⟩
      rw [hd, hat.dies k hk, hv.sec, bitAt_b2n, Bool.not_not]
      rfl
    refine ⟨fun hm hn hpl => hg ?_, fun p hp hpl hx' => hg ?_⟩
    · have hall : x.allAttached = true := by
        unfold Dev.allAttached
        rw [hat.boot]
        change (plugList a).all _ = true
        rw [plugList_none hpl]
        rfl
      have hxb : x.boot.board = some b' := by rw [hat.boot]; exact hvb
      rw [hs, hx, Dev.bootWaits, if_pos hall, bootExt_ready hxb hm hn]
      obtain ⟨k1, k2, k3⟩ := shows { x.put0 F.BOOT_STAGE 9 with host := { x.host with rrs := false }, boot := { x.boot with extWait := false } }
        (fun g hg => bootField_put x 9 (f := F.BOOT_STAGE) (by decide) hg) (Dev.get_put0_apart x 9 (by decide))
      refine ⟨k1, k2, k3, ?_, rfl, hat.off.trans hv.off, hat.hostMem.trans hv.hostMem⟩
      exact Dev.get_put_fit x (f := F.BOOT_STAGE) (by decide) (by decide)
    · have hall : ¬x.allAttached = true := by
        unfold Dev.allAttached
        rw [hat.boot]
        change ¬(plugList a).all _ = true
        intro h
        have := List.all_eq_true.mp h _ (mem_plugList hp hpl)
        rw [hat.xp p hp, hv.xp p hp] at this
        rw [show d.flag F.XP_PRESENT (xpIx p) = false from hx'] at this
        simp at this
      rw [hs, hx, Dev.bootWaits, if_neg hall]
      obtain ⟨k1, k2, k3⟩ := shows x (fun _ _ => rfl) rfl
      exact ⟨k1, k2, k3, hat.stage, by rw [hat.boot], hat.rrs, hat.off.trans hv.off, hat.hostMem.trans hv.hostMem⟩

end Sys2Proof
end

section
/-! SUPPORT. The host's image, expanders and dies that come late, and the statement about them (20 R724, R726, R731; 15 Table 15.8). -/

namespace Sys2Proof

open Machine

/-! ### BOOT_LOAD -/

theorem hostHolds_frame (d : Dev) (addr : Nat) (bs : List Byte) :
    (∀ g ix, (d.hostHolds addr bs).get g ix = d.get g ix) ∧ (∀ fn, (d.hostHolds addr bs).canMaster fn = d.canMaster fn) ∧
    (d.hostHolds addr bs).boot = d.boot := by
  obtain ⟨h, p, hx⟩ : ∃ h p, d.hostHolds addr bs = { d with hostMem := h, hostPoison := p } := ⟨_, _, onlyHostMem_holds d addr bs⟩
  rw [hx]
  exact ⟨fun _ _ => rfl, fun _ => rfl, rfl⟩

/-- The image is asked for. -/
def Machine.Dev.askImage (s : Dev) : Dev :=
  if s.canMaster 0 then
    s.issue 0 false (s.get64 F.BOOT_IMG_ADDR_LO F.BOOT_IMG_ADDR_HI / 4096 * 4096) (min (s.get F.BOOT_IMG_LEN) (2 ^ 24)) else s

theorem askImage_reads (s : Dev) :
    (∀ g ix, s.askImage.get g ix = s.get g ix) ∧ s.askImage.canMaster 0 = s.canMaster 0 ∧ s.askImage.boot = s.boot ∧
    s.askImage.hostImage = s.hostImage := by
  unfold Dev.askImage
  split
  · exact ⟨fun _ _ => rfl, rfl, rfl, rfl⟩
  · exact ⟨fun _ _ => rfl, rfl, rfl, rfl⟩

/-- Bring-up goes on with the host's firmware, or fails without it. -/
def Machine.Dev.bootWith (s : Dev) (img : Option (List Nat × List Nat)) : Dev :=
  match s.boot.ans, img with
  | some a, some fw => (({ s with boot := { s.boot with ans := none } } : Dev).put0 F.HOST_LOADED 1).bootGo a fw
  | _, _ => s.bootFail 7

theorem bootWith_none (s : Dev) : s.bootWith none = s.bootFail 7 := by
  unfold Dev.bootWith
  cases s.boot.ans <;> rfl

theorem bootWith_some {s : Dev} {a : BringAns} {fw : List Nat × List Nat} (h : s.boot.ans = some a) :
    s.bootWith (some fw) = (({ s with boot := { s.boot with ans := none } } : Dev).put0 F.HOST_LOADED 1).bootGo a fw := by
  unfold Dev.bootWith
  rw [h]

theorem bootLoad_eq {s : Dev} (fail : Bool) (hs : s.get F.BOOT_STAGE = 6) (he : s.get F.BOOT_ERR = 0) :
    s.bootLoad fail = s.askImage.bootWith (if fail || !s.canMaster 0 then none else s.hostImage) := by
  obtain ⟨-, a2, -, a4⟩ := askImage_reads s
  rw [← a2, ← a4]
  unfold Dev.bootLoad
  rw [if_neg (by simp [hs, he])]
  rfl

/-- A read that fails, or an image that does not check, stops bring-up (20 R724). -/
theorem bootLoad_fails {s : Dev} {fail : Bool} (hs : s.get F.BOOT_STAGE = 6) (he : s.get F.BOOT_ERR = 0)
    (h : fail = true ∨ s.canMaster 0 = false ∨ s.hostImage = none) : BootStopped 7 (s.bootLoad fail) := by
  have hn : (if fail || !s.canMaster 0 then none else s.hostImage) = none := by
    rcases h with h | h | h <;> simp [h]
  rw [bootLoad_eq fail hs he, hn, bootWith_none]
  exact (bootFail_reads _ (by decide)).1

/-- A good image goes on with bring-up, which reaches READY with nothing to wait for. -/
theorem bootLoad_goes {s : Dev} {a : BringAns} {b : BoardBlock} {img : List Nat × List Nat} (hs : s.get F.BOOT_STAGE = 6) (he : s.get F.BOOT_ERR = 0)
    (ha : s.boot.ans = some a) (hb : s.boot.board = some b) (hc : s.canMaster 0 = true) (hi : s.hostImage = some img) (hm : b.extMode % 4 = 0)
    (hn : b.noDefaultPart = true) (hpl : a.plugged % 2 ^ 12 = 0) :
    (s.bootLoad false).get F.HOST_LOADED = 1 ∧ (s.bootLoad false).get F.BOOT_STAGE = 9 ∧ (s.bootLoad false).get F.BOOT_ERR = 0 ∧
    (s.bootLoad false).host.rrs = false := by
  obtain ⟨a1, -, a3, -⟩ := askImage_reads s
  obtain ⟨v, hv⟩ : ∃ v : Dev, v = ({ s.askImage with boot := { s.askImage.boot with ans := none } } : Dev).put0 F.HOST_LOADED 1 := ⟨_, rfl⟩
  have he' : s.bootLoad false = v.bootGo a img := by
    rw [bootLoad_eq false hs he, if_neg (by simp [hc]), hi, bootWith_some (by rw [a3]; exact ha), hv]
  have hvb : v.boot.board = some b := by
    rw [hv]
    change s.askImage.boot.board = some b
    rw [a3]
    exact hb
  have hvl : v.get F.HOST_LOADED = 1 := by
    rw [hv]
    exact Dev.get_put_fit _ (by decide) (by decide)
  have hve : v.get F.BOOT_ERR = 0 := by
    rw [hv, Dev.get_put0_apart _ _ (by decide)]
    exact (a1 _ _).trans he
  obtain ⟨x, hx, hat⟩ := bootGo_reads a img hvb
  have hall : x.allAttached = true := by
    unfold Dev.allAttached
    rw [hat.boot]
    change (plugList a).all _ = true
    rw [plugList_none hpl]
    rfl
  have hxb : x.boot.board = some b := by rw [hat.boot]; exact hvb
  rw [he', hx, Dev.bootWaits, if_pos hall, bootExt_ready hxb hm hn]
  have hf : ∀ g ∈ bootFields, (x.put0 F.BOOT_STAGE 9).get g [] = v.get g [] := fun g hg =>
    (bootField_put x 9 (by decide) hg).trans (hat.fields g hg)
  exact ⟨(hf F.HOST_LOADED (by decide)).trans hvl, Dev.get_put_fit x (f := F.BOOT_STAGE) (by decide) (by decide),
    (hf F.BOOT_ERR (by decide)).trans hve, rfl⟩

/-! ### EXPANDER_ATTACH and DIE_STARTUP -/

/-- The registers of an expander port that an attachment writes. -/
def xpFields : List Fld := [F.XP_PRESENT, F.XP_LINK_UP, F.XP_RATE, F.XP_WIDTH, F.XP_CAP_GIB, F.XP_POISON_COUNT, F.XP_HEALTH]

theorem xpField_apart {f g : Fld} (hf : f ∈ xpFields) (hg : g ∈ xpFields) (hne : f ≠ g) (ix : List Nat) (hix : ∃ i j, ix = [i, j]) :
    Fld.apart f ix g ix = true := by
  obtain ⟨i, j, rfl⟩ := hix
  have hw : g.lo + g.w ≤ 32 := (by decide : ∀ g ∈ xpFields, g.lo + g.w ≤ 32) g hg
  have hd : g.dims = F.XP_PRESENT.dims ∧ f.dims = F.XP_PRESENT.dims :=
    ⟨(by decide : ∀ g ∈ xpFields, g.dims = F.XP_PRESENT.dims) g hg, (by decide : ∀ g ∈ xpFields, g.dims = F.XP_PRESENT.dims) f hf⟩
  have hs : f.base ≠ g.base ∨ (g.lo + g.w ≤ f.lo ∨ f.lo + f.w ≤ g.lo) :=
    (by decide : ∀ f ∈ xpFields, ∀ g ∈ xpFields, f ≠ g → f.base ≠ g.base ∨ (g.lo + g.w ≤ f.lo ∨ f.lo + f.w ≤ g.lo)) f hf g hg hne
  rcases hs with hs | hs
  · refine apart_of_off ?_ hw
    simp only [Fld.off, hd.1, hd.2]
    omega
  · exact apart_of_bits hs hw

/-- What an attachment shows at its port (15 Table 15.8). -/
theorem attach_reads {d : Dev} {p : Nat} (cap rate width poison health : Nat) (hp : p < 12) (hr : Tab.get false d.boot.released p = true)
    (hg : d.dieGone (p / 2) = false) (hw : d.boot.extWait = false) :
    let ix := [p / 2, p % 2]
    let e := d.attach p cap rate width poison health
    e.get F.XP_PRESENT ix = 1 ∧ e.get F.XP_LINK_UP ix = 1 ∧ e.get F.XP_RATE ix = rate % 4 ∧ e.get F.XP_WIDTH ix = width % 16 ∧
    e.get F.XP_CAP_GIB ix = min cap 64 ∧ e.get F.XP_POISON_COUNT ix = poison % 2 ^ 32 ∧ e.get F.XP_HEALTH ix = health % 2 ^ 32 ∧ OnlyRegs d e ∧
    OnlyFields [(F.XP_PRESENT, ix), (F.XP_LINK_UP, ix), (F.XP_RATE, ix), (F.XP_WIDTH, ix), (F.XP_CAP_GIB, ix),
      (F.XP_POISON_COUNT, ix), (F.XP_HEALTH, ix)] d e := by
  intro ix e
  obtain ⟨s1, h1⟩ : ∃ x, x = d.put F.XP_PRESENT ix 1 := ⟨_, rfl⟩
  obtain ⟨s2, h2⟩ : ∃ x, x = s1.put F.XP_LINK_UP ix 1 := ⟨_, rfl⟩
  obtain ⟨s3, h3⟩ : ∃ x, x = s2.put F.XP_RATE ix rate := ⟨_, rfl⟩
  obtain ⟨s4, h4⟩ : ∃ x, x = s3.put F.XP_WIDTH ix width := ⟨_, rfl⟩
  obtain ⟨s5, h5⟩ : ∃ x, x = s4.put F.XP_CAP_GIB ix (min cap 64) := ⟨_, rfl⟩
  obtain ⟨s6, h6⟩ : ∃ x, x = s5.put F.XP_POISON_COUNT ix poison := ⟨_, rfl⟩
  have o : OnlyRegs d s6 := by
    rw [h6, h5, h4, h3, h2, h1]
    exact onlyRegs_trans (onlyRegs_put _ _ _ _) (onlyRegs_trans (onlyRegs_put _ _ _ _) (onlyRegs_trans (onlyRegs_put _ _ _ _)
      (onlyRegs_trans (onlyRegs_put _ _ _ _) (onlyRegs_trans (onlyRegs_put _ _ _ _) (onlyRegs_put _ _ _ _)))))
  have he : e = s6.put F.XP_HEALTH ix health := by
    have hx : ¬(12 ≤ p ∨ (!d.xpPerstN p) = true) := by
      simp [Dev.xpPerstN, hr, hg]
      omega
    have hwait : ¬((s6.put F.XP_HEALTH ix health).boot.extWait && (s6.put F.XP_HEALTH ix health).allAttached) = true := by
      have : (s6.put F.XP_HEALTH ix health).boot.extWait = false := by
        rw [onlyRegs_trans o (onlyRegs_put s6 F.XP_HEALTH ix health)]
        exact hw
      rw [this]
      simp
    rw [h6, h5, h4, h3, h2, h1] at hwait ⊢
    exact (if_neg hx).trans (if_neg hwait)
  have ap : ∀ f ∈ xpFields, ∀ g ∈ xpFields, f ≠ g → Fld.apart f ix g ix = true := fun f hf g hg hne => xpField_apart hf hg hne ix ⟨_, _, rfl⟩
  rw [he]
  refine ⟨?_, ?_, ?_, ?_, ?_, ?_, Dev.get_put_same _ _ _ _ (by decide), onlyRegs_trans o (onlyRegs_put _ _ _ _), ?_⟩
  · rw [Dev.get_put_apart _ _ (ap F.XP_HEALTH (by decide) F.XP_PRESENT (by decide) (by decide)), h6,
      Dev.get_put_apart _ _ (ap F.XP_POISON_COUNT (by decide) F.XP_PRESENT (by decide) (by decide)), h5,
      Dev.get_put_apart _ _ (ap F.XP_CAP_GIB (by decide) F.XP_PRESENT (by decide) (by decide)), h4,
      Dev.get_put_apart _ _ (ap F.XP_WIDTH (by decide) F.XP_PRESENT (by decide) (by decide)), h3,
      Dev.get_put_apart _ _ (ap F.XP_RATE (by decide) F.XP_PRESENT (by decide) (by decide)), h2,
      Dev.get_put_apart _ _ (ap F.XP_LINK_UP (by decide) F.XP_PRESENT (by decide) (by decide)), h1]
    exact Dev.get_put_fit _ (by decide) (by decide)
  · rw [Dev.get_put_apart _ _ (ap F.XP_HEALTH (by decide) F.XP_LINK_UP (by decide) (by decide)), h6,
      Dev.get_put_apart _ _ (ap F.XP_POISON_COUNT (by decide) F.XP_LINK_UP (by decide) (by decide)), h5,
      Dev.get_put_apart _ _ (ap F.XP_CAP_GIB (by decide) F.XP_LINK_UP (by decide) (by decide)), h4,
      Dev.get_put_apart _ _ (ap F.XP_WIDTH (by decide) F.XP_LINK_UP (by decide) (by decide)), h3,
      Dev.get_put_apart _ _ (ap F.XP_RATE (by decide) F.XP_LINK_UP (by decide) (by decide)), h2]
    exact Dev.get_put_fit _ (by decide) (by decide)
  · rw [Dev.get_put_apart _ _ (ap F.XP_HEALTH (by decide) F.XP_RATE (by decide) (by decide)), h6,
      Dev.get_put_apart _ _ (ap F.XP_POISON_COUNT (by decide) F.XP_RATE (by decide) (by decide)), h5,
      Dev.get_put_apart _ _ (ap F.XP_CAP_GIB (by decide) F.XP_RATE (by decide) (by decide)), h4,
      Dev.get_put_apart _ _ (ap F.XP_WIDTH (by decide) F.XP_RATE (by decide) (by decide)), h3]
    exact Dev.get_put_same _ _ _ _ (by decide)
  · rw [Dev.get_put_apart _ _ (ap F.XP_HEALTH (by decide) F.XP_WIDTH (by decide) (by decide)), h6,
      Dev.get_put_apart _ _ (ap F.XP_POISON_COUNT (by decide) F.XP_WIDTH (by decide) (by decide)), h5,
      Dev.get_put_apart _ _ (ap F.XP_CAP_GIB (by decide) F.XP_WIDTH (by decide) (by decide)), h4]
    exact Dev.get_put_same _ _ _ _ (by decide)
  · rw [Dev.get_put_apart _ _ (ap F.XP_HEALTH (by decide) F.XP_CAP_GIB (by decide) (by decide)), h6,
      Dev.get_put_apart _ _ (ap F.XP_POISON_COUNT (by decide) F.XP_CAP_GIB (by decide) (by decide)), h5]
    exact Dev.get_put_fit _ (by decide) (lt_of_le_of_lt (min_le_right _ _) (by decide))
  · rw [Dev.get_put_apart _ _ (ap F.XP_HEALTH (by decide) F.XP_POISON_COUNT (by decide) (by decide)), h6]
    exact Dev.get_put_same _ _ _ _ (by decide)
  · rw [h6, h5, h4, h3, h2, h1]
    refine onlyFields_put _ (onlyFields_put _ (onlyFields_put _ (onlyFields_put _ (onlyFields_put _ (onlyFields_put _ (onlyFields_put _
      (onlyFields_refl _ _) ?_) ?_) ?_) ?_) ?_) ?_) ?_ <;> simp

theorem applyReq_mem (s : Dev) (x t : Nat) : (s.applyReq x t).mem = s.mem := by
  have hb : ∀ (s : Dev) t, (s.beginMove x t).mem = s.mem := fun s t => (domMoves_beginMove s x t).mem.1
  have hp : ∀ (s : Dev) f v, (s.put f [x] v).mem = s.mem := fun s f v => Dev.put_mem s f [x] v
  unfold Dev.applyReq
  dsimp only
  split_ifs
  · rw [hp, hp]
  · rw [hp, hb, hp]
  · rw [hp]
  · rw [hb, hp]

/-- A domain that reaches a state but Off leaves memory as it was. -/
theorem reachState_mem (s : Dev) {x st : Nat} (hx : x < 6) (hst : st < stOff) : (s.reachState x st).mem = s.mem := by
  unfold Dev.reachState
  extract_lets s1 s2 s3 s4 s5 pend s6 s7
  have h3 : s3.mem = s.mem := by
    change (if st = stOff ∧ x < 6 then s2.dieOff x else s2).mem = _
    rw [if_neg fun h => Nat.ne_of_lt hst h.1]
    rfl
  have h4 : s4.mem = s3.mem := by
    change (if st < stDoze then _ else s3).mem = _
    split <;> rfl
  have h5 : s5 = s4 := if_neg (by omega)
  have h6 : s6.mem = s5.mem := Dev.put_mem s5 F.DOM_PENDING [x] 7
  have h7 : s7.mem = s6.mem := by
    have hb : ∀ t, (s6.beginMove x t).mem = s6.mem := fun t => (domMoves_beginMove s6 x t).mem.1
    change (if pend ≠ 7 then (if s6.floored x pend = st then s6 else s6.beginMove x (s6.floored x pend))
      else if s6.floored x st ≠ st then s6.beginMove x (s6.floored x st)
      else if st = stDoze ∨ st = stKeep then (if s6.levelWake x then s6.startExit x else s6)
      else s6).mem = _
    split_ifs
    · rfl
    · exact hb _
    · exact hb _
    · exact (domMoves_startExit s6 x).mem.1
    · rfl
    · rfl
  have h8 : (if s7.pwr.unitKeep ∧ (List.range 8).all (fun y => decide (stKeep ≤ s7.get F.DOM_STATE [y]) && !s7.flag F.DOM_BUSY [y])
      then (s7.updPwr fun p => { p with unitKeep := false }).applyReq 8 stKeep else s7).mem = s7.mem := by
    split
    · exact applyReq_mem _ 8 stKeep
    · rfl
  exact h8.trans (h7.trans (h6.trans ((congrArg Dev.mem h5).trans (h4.trans h3))))

theorem dieStartup_ok {d : Dev} {die : Nat} {f : Flight} (hd : die < 6) (hf : Tab.get none d.pwr.flight die = some f)
    (hs : d.get F.DOM_STATE [die] = stOff) (ht : f.target < stOff) : d.dieStartup die true = (d.screeRestore die).reachState die f.target := by
  unfold Dev.dieStartup
  rw [hf]
  dsimp only
  rw [if_neg (by rw [hs]; omega), if_pos rfl]

/-- A die that fails its test stays Off (20 R731). -/
theorem dieStartup_bad {d : Dev} {die : Nat} {f : Flight} (hd : die < 6) (hf : Tab.get none d.pwr.flight die = some f)
    (hs : d.get F.DOM_STATE [die] = stOff) (ht : f.target < stOff) :
    (d.dieStartup die false).get F.DOM_STATE [die] = stOff ∧ (d.dieStartup die false).flag F.DOM_BUSY [die] = false ∧
    (d.dieStartup die false).diePresent die = false ∧ bitAt ((d.dieStartup die false).get F.DIE_TEST_FAIL) die = true ∧
    (d.dieStartup die false).get F.DOM_REFUSED = 1 ∧ (d.dieStartup die false).mem = d.mem ∧ (d.dieStartup die false).hostMem = d.hostMem := by
  obtain ⟨s0, h0⟩ : ∃ x, x = d.updPwr fun p => { p with flight := Tab.set none p.flight die none } := ⟨_, rfl⟩
  obtain ⟨s1, h1⟩ : ∃ x, x = (s0.put F.DOM_BUSY [die] 0).put F.DOM_PENDING [die] 7 := ⟨_, rfl⟩
  obtain ⟨s2, h2⟩ : ∃ x, x = s1.put0 F.DIE_PRESENT (clearBit (s1.get F.DIE_PRESENT) die) := ⟨_, rfl⟩
  obtain ⟨s3, h3⟩ : ∃ x, x = s2.put0 F.DIE_TEST_FAIL (setBit (s1.get F.DIE_TEST_FAIL) die) := ⟨_, rfl⟩
  obtain ⟨s4, h4⟩ : ∃ x, x = s3.railReq die 0 := ⟨_, rfl⟩
  have he : d.dieStartup die false = s4.pwrEvent F.DOM_REFUSED 6 := by
    rw [h4, h3, h2, h1, h0]
    unfold Dev.dieStartup
    rw [hf]
    dsimp only
    rw [if_neg (by rw [hs]; omega), if_neg Bool.false_ne_true]
  have hr : RailsOnly s3 s4 := by rw [h4]; exact railsOnly_railReq s3 die 0
  have h0g : ∀ g ix, s0.get g ix = d.get g ix := fun g ix => by rw [h0]; rfl
  have m0 : s0.mem = d.mem ∧ s0.hostMem = d.hostMem := by rw [h0]; exact ⟨rfl, rfl⟩
  have m1 : OnlyRegs s0 s3 := by
    rw [h3, h2, h1]
    exact onlyRegs_trans (onlyRegs_put _ _ _ _) (onlyRegs_trans (onlyRegs_put _ _ _ _) (onlyRegs_trans (onlyRegs_put0 _ _ _) (onlyRegs_put0 _ _ _)))
  have mr : OnlyRegsIrq s4 (d.dieStartup die false) := by rw [he]; exact onlyRegsIrq_event _ _ _ _ _
  have hdom : ∀ g ∈ [F.DOM_STATE, F.DOM_BUSY], (d.dieStartup die false).get g [die] = s1.get g [die] := by
    intro g hg
    have hgd : g ∈ domFields := (by decide : ∀ g ∈ [F.DOM_STATE, F.DOM_BUSY], g ∈ domFields) g hg
    have hgw : g.lo + g.w ≤ 32 := (by decide : ∀ g ∈ [F.DOM_STATE, F.DOM_BUSY], g.lo + g.w ≤ 32) g hg
    have hap : ∀ f : Fld, f.off [] < 0x3A00020 → Fld.apart f [] g [die] = true := fun f hf => apart_of_off (by rw [dom_off hgd]; omega) hgw
    rw [he, Dev.pwrEvent, Dev.get_event_apart _ _ _ _ (hap F.DOM_REFUSED (by decide)),
      get_of_reg (hr.2 _ (dom_not_rail hgd (by omega))), h3, Dev.get_put0_apart _ _ (hap F.DIE_TEST_FAIL (by decide)), h2,
      Dev.get_put0_apart _ _ (hap F.DIE_PRESENT (by decide))]
  have hdie : ∀ g ∈ [F.DIE_PRESENT, F.DIE_TEST_FAIL], (d.dieStartup die false).get g [] = s3.get g [] := by
    intro g hg
    have hgo : g.off [] = 0x204 := (by decide : ∀ g ∈ [F.DIE_PRESENT, F.DIE_TEST_FAIL], g.off [] = 0x204) g hg
    have hgw : g.lo + g.w ≤ 32 := (by decide : ∀ g ∈ [F.DIE_PRESENT, F.DIE_TEST_FAIL], g.lo + g.w ≤ 32) g hg
    rw [he, Dev.pwrEvent, Dev.get_event_apart _ _ _ _ (apart_of_off (by rw [hgo]; decide) hgw),
      get_of_reg (hr.2 _ (by rw [hgo]; unfold isRail; omega))]
  have hlt : clearBit (s1.get F.DIE_PRESENT) die < 2 ^ 8 := by
    refine Nat.lt_pow_two_of_testBit _ fun i hi => ?_
    have hb : bitAt (s1.get F.DIE_PRESENT) i = false := by
      rw [bitAt_eq_testBit]
      exact Nat.testBit_lt_two_pow (lt_of_lt_of_le (bitsOf_lt _ _ _) (Nat.pow_le_pow_right (by decide) hi))
    rw [← bitAt_eq_testBit, bitAt_clearBit, hb]
    simp
  refine ⟨?_, ?_, ?_, ?_, ?_, ?_, ?_⟩
  · rw [hdom F.DOM_STATE (by decide), h1, Dev.get_put_apart _ _ (dom_apart_state (by simp) die die),
      Dev.get_put_apart _ _ (dom_apart_state (by simp) die die), h0g, hs]
  · rw [Dev.flag, hdom F.DOM_BUSY (by decide), h1, Dev.get_put_apart _ _ (apart_of_bits (by decide) (by decide)),
      Dev.get_put_fit _ (by decide) (by decide)]
    rfl
  · rw [Dev.diePresent, hdie F.DIE_PRESENT (by decide), h3, Dev.get_put0_apart _ _ (by decide), h2]
    have hfit : (s1.put0 F.DIE_PRESENT (clearBit (s1.get F.DIE_PRESENT) die)).get F.DIE_PRESENT = clearBit (s1.get F.DIE_PRESENT) die :=
      Dev.get_put_fit s1 (f := F.DIE_PRESENT) (by decide) hlt
    rw [hfit, bitAt_clearBit, if_pos rfl]
  · have hfit : (s2.put0 F.DIE_TEST_FAIL (setBit (s1.get F.DIE_TEST_FAIL) die)).get F.DIE_TEST_FAIL = setBit (s1.get F.DIE_TEST_FAIL) die :=
      Dev.get_put_fit s2 (f := F.DIE_TEST_FAIL) (by decide) (setBit_lt _ (bitsOf_lt _ _ _) (by change die < 8; omega))
    rw [hdie F.DIE_TEST_FAIL (by decide), h3, hfit, bitAt_setBit, if_pos rfl]
  · rw [he]
    exact Dev.get_event_same _ _ _ _ (by decide) (by decide)
  · rw [mr, hr.1, m1]
    exact m0.1
  · rw [mr, hr.1, m1]
    exact m0.2

/-- Settles O28: the host's image, and the parts that come late. -/
theorem bootLoad : Obligations.BootLoad := by
  unfold Obligations.BootLoad
  refine ⟨?_, fun d p cap rate width poison health hp hlt hr hg hw => ?_, fun d b hp hw hb hm hn => ?_, fun d die f hp hd hf hs ht => ⟨?_, ?_⟩⟩
  · intro d data a b hp hs he ha hb held
    obtain ⟨f1, f2, f3⟩ := hostHolds_frame d (d.get64 F.BOOT_IMG_ADDR_LO F.BOOT_IMG_ADDR_HI / 4096 * 4096) data
    change (∀ g ix, held.get g ix = _) at f1
    change (∀ fn, held.canMaster fn = _) at f2
    change held.boot = _ at f3
    have hg : ∀ {fail : Bool} {P : Dev → Prop}, P (held.bootLoad fail) → Gives (.bootLoad data fail) d P := fun {fail} _ hP =>
      gives_of_onDev (fun d => (d.hostHolds (d.get64 F.BOOT_IMG_ADDR_LO F.BOOT_IMG_ADDR_HI / 4096 * 4096) data).bootLoad fail) (fun _ => rfl) hp hP
    clear_value held
    have hs' : held.get F.BOOT_STAGE = 6 := (f1 _ _).trans hs
    have he' : held.get F.BOOT_ERR = 0 := (f1 _ _).trans he
    refine ⟨hg (bootLoad_fails hs' he' (.inl rfl)), fun h => hg (bootLoad_fails hs' he' (.inr (h.imp (fun h => (f2 0).trans h) id))),
      fun img hc hi hm hn hpl => hg ?_⟩
    exact bootLoad_goes hs' he' (by rw [f3]; exact ha) (by rw [f3]; exact hb) ((f2 0).trans hc) hi hm hn hpl
  · exact gives_of_onDev (·.attach p cap rate width poison health) (fun _ => rfl) hp (attach_reads cap rate width poison health hlt hr hg hw)
  · refine gives_of_onDev Dev.xpWaitOver (fun _ => rfl) hp ?_
    unfold Dev.xpWaitOver
    rw [if_pos hw, bootExt_ready hb hm hn]
    exact ⟨Dev.get_put_fit d (f := F.BOOT_STAGE) (by decide) (by decide),
      onlyFields_trans (onlyFields_put (b := d) 9 (onlyFields_refl _ _) (List.mem_singleton.mpr rfl)) (onlyFields_of_regs rfl), rfl⟩
  · refine gives_of_onDev (·.dieStartup die true) (fun _ => rfl) hp ?_
    rw [dieStartup_ok hd hf hs ht]
    have k := bootKeeps_screeRestore d die
    obtain ⟨r1, r2, -⟩ := reachState_reads (d.screeRestore die) (x := die) (st := f.target) (by omega) (Nat.lt_trans ht (by decide))
    exact ⟨r1, (reachState_mem _ hd ht).trans k.mem, r2.trans k.hostMem⟩
  · exact gives_of_onDev (·.dieStartup die false) (fun _ => rfl) hp (dieStartup_bad hd hf hs ht)

end Sys2Proof
end

section
/-! SUPPORT. Fabric ports that go DOWN, and the messages that end with them (16 R577, R601, Table 16.4). -/

namespace Sys2Proof

open Machine

/-! ### Commands whose work fails -/

/-- The first failing status of queue `k`'s command is `v`. -/
def FailedWith (k : Nat) (v : Nat × Nat) (s : Dev) : Prop := ∃ c, s.cmdOf k = some c ∧ c.fail = some v

/-- Nothing of queue `k`'s command has failed, or the first of it with `v`. -/
def FailsWith (k : Nat) (v : Nat × Nat) (s : Dev) : Prop := ∃ c, s.cmdOf k = some c ∧ (c.fail = none ∨ c.fail = some v)

theorem cmdOf_failCmd (s : Dev) (k st d j : Nat) :
    (s.failCmd k st d).cmdOf j = if j = k then (s.cmdOf k).map fun c => { c with fail := some (c.fail.getD (st, d)), todo := [] } else s.cmdOf j :=
  cmdOf_updCmd s k j _

theorem FailedWith.failCmd {k : Nat} {v : Nat × Nat} {s : Dev} (h : FailedWith k v s) (j st d : Nat) : FailedWith k v (s.failCmd j st d) := by
  obtain ⟨c, hc, hf⟩ := h
  by_cases hk : k = j
  · subst hk
    refine ⟨{ c with fail := some (c.fail.getD (st, d)), todo := [] }, ?_, ?_⟩
    · rw [cmdOf_failCmd, if_pos rfl, hc]
      rfl
    · change some (c.fail.getD (st, d)) = some v
      rw [hf]
      rfl
  · exact ⟨c, by rw [cmdOf_failCmd, if_neg hk, hc], hf⟩

theorem FailsWith.failCmd {k : Nat} {st d : Nat} {s : Dev} (h : FailsWith k (st, d) s) (j : Nat) : FailsWith k (st, d) (s.failCmd j st d) := by
  obtain ⟨c, hc, hf⟩ := h
  by_cases hk : k = j
  · subst hk
    refine ⟨{ c with fail := some (c.fail.getD (st, d)), todo := [] }, ?_, .inr ?_⟩
    · rw [cmdOf_failCmd, if_pos rfl, hc]
      rfl
    · change some (c.fail.getD (st, d)) = some (st, d)
      rcases hf with hf | hf <;> rw [hf] <;> rfl
  · exact ⟨c, by rw [cmdOf_failCmd, if_neg hk, hc], hf⟩

theorem FailsWith.failed {k : Nat} {st d : Nat} {s : Dev} (h : FailsWith k (st, d) s) : FailedWith k (st, d) (s.failCmd k st d) := by
  obtain ⟨c, hc, hf⟩ := h
  refine ⟨{ c with fail := some (c.fail.getD (st, d)), todo := [] }, ?_, ?_⟩
  · rw [cmdOf_failCmd, if_pos rfl, hc]
    rfl
  · change some (c.fail.getD (st, d)) = some (st, d)
    rcases hf with hf | hf <;> rw [hf] <;> rfl

theorem FailedWith.congr {k : Nat} {v : Nat × Nat} {a b : Dev} (h : FailedWith k v a) (hq : b.queues = a.queues) : FailedWith k v b := by
  obtain ⟨c, hc, hf⟩ := h
  exact ⟨c, (cmdOf_congr (queue_congr hq k)).trans hc, hf⟩

/-! ### Messages that end -/

/-- Only messages of this unit and commands changed. -/
def OnlyMsgs (a b : Dev) : Prop := b = { a with queues := b.queues, fab := { a.fab with outMsgs := b.fab.outMsgs } }

theorem onlyMsgs_refl (a : Dev) : OnlyMsgs a a := rfl

theorem onlyMsgs_trans {a b c : Dev} (h : OnlyMsgs a b) (h' : OnlyMsgs b c) : OnlyMsgs a c := by
  unfold OnlyMsgs at *
  rw [h] at h'
  exact h'

theorem onlyMsgs_failCmd (s : Dev) (k st d : Nat) : OnlyMsgs s (s.failCmd k st d) := rfl

/-- A message that ends: forgotten, with its command failed. -/
theorem msgOver_eq (s : Dev) (m : OutMsg) (d : Nat) :
    s.msgOver m stFAULT d = if m.mute then { s with fab := { s.fab with outMsgs := s.fab.outMsgs.filter fun x => x != m } }
      else ({ s with fab := { s.fab with outMsgs := s.fab.outMsgs.filter fun x => x != m } } : Dev).failCmd m.queue stFAULT d := by
  unfold Dev.msgOver
  cases h : m.mute
  · exact if_neg (by simp)
  · exact if_pos (by simp)

theorem msgOver_reads (s : Dev) (m : OutMsg) (d : Nat) :
    OnlyMsgs s (s.msgOver m stFAULT d) ∧ (s.msgOver m stFAULT d).fab.outMsgs = s.fab.outMsgs.filter fun x => x != m := by
  rw [msgOver_eq]
  split <;> exact ⟨rfl, rfl⟩

theorem FailedWith.msgOver {k : Nat} {v : Nat × Nat} {s : Dev} (h : FailedWith k v s) (m : OutMsg) (d : Nat) : FailedWith k v (s.msgOver m stFAULT d) := by
  rw [msgOver_eq]
  split
  · exact h
  · exact FailedWith.failCmd (s := { s with fab := { s.fab with outMsgs := s.fab.outMsgs.filter fun x => x != m } }) h _ _ _

theorem FailsWith.msgOver {k d : Nat} {s : Dev} (h : FailsWith k (stFAULT, d) s) (m : OutMsg) : FailsWith k (stFAULT, d) (s.msgOver m stFAULT d) := by
  rw [msgOver_eq]
  split
  · exact h
  · exact FailsWith.failCmd (s := { s with fab := { s.fab with outMsgs := s.fab.outMsgs.filter fun x => x != m } }) h _

theorem FailsWith.over {d : Nat} {s : Dev} {m : OutMsg} (h : FailsWith m.queue (stFAULT, d) s) (hm : m.mute = false) :
    FailedWith m.queue (stFAULT, d) (s.msgOver m stFAULT d) := by
  rw [msgOver_eq, if_neg (by rw [hm]; exact Bool.false_ne_true)]
  exact FailsWith.failed (s := { s with fab := { s.fab with outMsgs := s.fab.outMsgs.filter fun x => x != m } }) h

/-- Messages of a list that end, one after the other. -/
def Machine.Dev.endMsgs (s : Dev) (l : List OutMsg) (d : Nat) : Dev := s.forEach l fun s m => s.msgOver m stFAULT d

theorem msgsOver_eq (s : Dev) (p : OutMsg → Bool) (d : Nat) : s.msgsOver p d = s.endMsgs (s.fab.outMsgs.filter p) d := rfl

theorem endMsgs_cons (s : Dev) (m : OutMsg) (l : List OutMsg) (d : Nat) : s.endMsgs (m :: l) d = (s.msgOver m stFAULT d).endMsgs l d := rfl

theorem onlyMsgs_endMsgs (s : Dev) (l : List OutMsg) (d : Nat) : OnlyMsgs s (s.endMsgs l d) :=
  forEach_keeps onlyMsgs_refl onlyMsgs_trans _ _ (fun s m _ => (msgOver_reads s m d).1) s

theorem endMsgs_out (l : List OutMsg) (s : Dev) (d : Nat) : (s.endMsgs l d).fab.outMsgs = s.fab.outMsgs.filter fun x => !l.contains x := by
  induction l generalizing s with
  | nil => exact (List.filter_true s.fab.outMsgs).symm
  | cons m l ih =>
    rw [endMsgs_cons, ih, (msgOver_reads s m d).2, List.filter_filter]
    refine List.filter_congr fun x _ => ?_
    rw [List.contains_cons, Bool.not_or, Bool.and_comm]
    rfl

theorem FailedWith.endMsgs {k : Nat} {v : Nat × Nat} {s : Dev} (h : FailedWith k v s) (l : List OutMsg) (d : Nat) : FailedWith k v (s.endMsgs l d) := by
  induction l generalizing s with
  | nil => exact h
  | cons m l ih => exact ih (h.msgOver m d)

theorem FailsWith.endMsgs {k d : Nat} {l : List OutMsg} {s : Dev} (h : FailsWith k (stFAULT, d) s) {m : OutMsg} (hm : m ∈ l) (hk : m.queue = k)
    (hmute : m.mute = false) : FailedWith k (stFAULT, d) (s.endMsgs l d) := by
  induction l generalizing s with
  | nil => exact absurd hm List.not_mem_nil
  | cons x l ih =>
    rw [endMsgs_cons]
    rcases List.mem_cons.mp hm with rfl | hm
    · subst hk
      exact (h.over hmute).endMsgs l d
    · exact ih (h.msgOver x) hm

/-- Messages that a test names have ended. -/
theorem msgsOver_reads (s : Dev) (p : OutMsg → Bool) (d : Nat) : OnlyMsgs s (s.msgsOver p d) ∧ MessagesEnd p d s (s.msgsOver p d) := by
  refine ⟨onlyMsgs_endMsgs s _ d, ?_, fun m hm hp hmute c hc hf => ?_⟩
  · rw [msgsOver_eq, endMsgs_out]
    refine List.filter_congr fun x hx => ?_
    cases hpx : p x <;> simp [hx, hpx]
  · exact FailsWith.endMsgs ⟨c, hc, .inl hf⟩ (List.mem_filter.mpr ⟨hm, hp⟩) rfl hmute

/-! ### A port that goes DOWN -/

theorem link_updLink (s : Dev) (n m : Nat) (f : Link → Link) : (s.updLink n f).link m = if m = n then f (s.link n) else s.link m :=
  Tab.get_set _ _ _ _ _

/-- A port's state and what it holds, emptied (16 Table 16.4). -/
theorem portEmptied_reads (s : Dev) (n : Nat) :
    (portEmptied s n).get F.PORT_STATE (fix n) = 0 ∧ (portEmptied s n).get F.PORT_LOCKED (fix n) = 0 ∧
    (portEmptied s n).link n = { Link.reset with out := (s.link n).out, retry := (s.link n).retry } ∧
    (∀ m, m ≠ n → (portEmptied s n).link m = s.link m) ∧
    portEmptied s n = { s with regs := (portEmptied s n).regs, fab := { s.fab with
      links := (portEmptied s n).fab.links, inMsgs := s.fab.inMsgs.filter fun m => m.port != n,
      heldIn := s.fab.heldIn.filter fun x => x.1 / 2 != n } } := by
  have hg : ∀ g, (portEmptied s n).get g (fix n) = ((s.put F.PORT_STATE (fix n) fpDOWN).put F.PORT_LOCKED (fix n) 0).get g (fix n) := fun _ => rfl
  obtain ⟨t, ht⟩ : ∃ t, t = (s.put F.PORT_STATE (fix n) fpDOWN).put F.PORT_LOCKED (fix n) 0 := ⟨_, rfl⟩
  have hl : ∀ m, (portEmptied s n).link m = (t.updLink n fun l => { Link.reset with out := l.out, retry := l.retry }).link m := fun m => by
    rw [ht]; rfl
  have htl : ∀ m, t.link m = s.link m := fun m => by rw [ht]; rfl
  refine ⟨?_, ?_, ?_, fun m hm => ?_, rfl⟩
  · rw [hg, Dev.get_put_apart _ _ (apart_of_bits (by decide) (by decide))]
    exact Dev.get_put_fit _ (by decide) (by decide)
  · rw [hg]
    exact Dev.get_put_fit _ (by decide) (by decide)
  · rw [hl, link_updLink, if_pos rfl, htl]
  · rw [hl, link_updLink, if_neg hm, htl]

/-- What a port that goes DOWN leaves of the port and the state beside it. -/
structure Downed (n : Nat) (d e : Dev) : Prop where
  state : e.get F.PORT_STATE (fix n) = 0
  locked : e.get F.PORT_LOCKED (fix n) = 0
  port : e.link n = { Link.reset with out := (d.link n).out, retry := (d.link n).retry }
  links : ∀ m, m ≠ n → e.link m = d.link m
  inMsgs : e.fab.inMsgs = d.fab.inMsgs.filter (fun m => m.port != n)
  inject : e.fab.inject = d.fab.inject
  mem : e.mem = d.mem
  cad : e.cad = d.cad
  reports : e.reports = d.reports

theorem portEmptied_downed (s : Dev) (n : Nat) : Downed n s (portEmptied s n) := by
  obtain ⟨h1, h2, h3, h4, h5⟩ := portEmptied_reads s n
  refine ⟨h1, h2, h3, h4, ?_, ?_, ?_, ?_, ?_⟩ <;> rw [h5]

theorem Downed.msgs {n : Nat} {a b c : Dev} (h : Downed n a b) (h' : OnlyMsgs b c) : Downed n a c := by
  have hr : c.regs = b.regs := by rw [h']
  have hl : ∀ m, c.link m = b.link m := fun m => by rw [h']; rfl
  refine ⟨?_, ?_, (hl n).trans h.port, fun m hm => (hl m).trans (h.links m hm), ?_, ?_, ?_, ?_, ?_⟩
  · rw [Dev.get_eq, hr, ← Dev.get_eq, h.state]
  · rw [Dev.get_eq, hr, ← Dev.get_eq, h.locked]
  · rw [h']
    exact h.inMsgs
  · rw [h']
    exact h.inject
  · rw [h']
    exact h.mem
  · rw [h']
    exact h.cad
  · rw [h']
    exact h.reports

theorem fabEvent_apart (s : Dev) {f g : Fld} (b n : Nat) (hf : f.off [] = 0x3E10000) (hg : g = F.PORT_STATE ∨ g = F.PORT_LOCKED) :
    (s.fabEvent f b).get g (fix n) = s.get g (fix n) := by
  refine Dev.get_event_apart _ _ _ _ (apart_of_off ?_ (by rcases hg with rfl | rfl <;> decide))
  rw [port_off hg, hf]
  omega

theorem fabEvent_only (s : Dev) (f : Fld) (b : Nat) : OnlyRegsIrq s (s.fabEvent f b) := onlyRegsIrq_event _ _ _ _ _

theorem Downed.event {n : Nat} {a b : Dev} (h : Downed n a b) {f : Fld} (i : Nat) (hf : f.off [] = 0x3E10000) : Downed n a (b.fabEvent f i) := by
  have ho := fabEvent_only b f i
  have h1 := fabEvent_apart b i n hf (.inl rfl)
  have h2 := fabEvent_apart b i n hf (.inr rfl)
  generalize b.fabEvent f i = e at ho h1 h2 ⊢
  have hl : ∀ m, e.link m = b.link m := fun m => by rw [ho]; rfl
  refine ⟨h1.trans h.state, h2.trans h.locked, (hl n).trans h.port, fun m hm => (hl m).trans (h.links m hm), ?_, ?_, ?_, ?_, ?_⟩
  · rw [ho]
    exact h.inMsgs
  · rw [ho]
    exact h.inject
  · rw [ho]
    exact h.mem
  · rw [ho]
    exact h.cad
  · rw [ho]
    exact h.reports

theorem Downed.portDown {n : Nat} {d e : Dev} (h : Downed n d e) (hev : d.get F.PORT_STATE (fix n) ≠ 0 → e.get F.FAB_PORT_DOWN = 1) :
    PortDown n d e :=
  ⟨h.state, h.locked, by rw [h.port], by rw [h.port], by rw [h.port], h.links, hev, h.inMsgs, h.inject, h.mem, h.cad⟩

theorem MessagesEnd.of_rest {p : OutMsg → Bool} {detail : Nat} {a b : Dev} (h : MessagesEnd p detail a b) {c : Dev} (hq : c.queues = b.queues)
    (hf : c.fab.outMsgs = b.fab.outMsgs) : MessagesEnd p detail a c := by
  refine ⟨hf.trans h.1, fun m hm hp hmute x hc hx => ?_⟩
  exact FailedWith.congr (h.2 m hm hp hmute x hc hx) hq

/-- A port goes DOWN: what it held is gone, and this unit's messages that left on it have ended (16 Table 16.4, R601). -/
theorem fabDown_downs (d : Dev) (n : Nat) :
    Downed n d (d.fabDown n false) ∧ (d.get F.PORT_STATE (fix n) ≠ 0 → (d.fabDown n false).get F.FAB_PORT_DOWN = 1) ∧
    MessagesEnd (fun m => m.port == n) dLINKLOST d (d.fabDown n false) := by
  have h0 := portEmptied_downed d n
  have hq : (portEmptied d n).queues = d.queues ∧ (portEmptied d n).fab.outMsgs = d.fab.outMsgs := ⟨rfl, rfl⟩
  obtain ⟨m1, m2⟩ := msgsOver_reads (portEmptied d n) (fun m => m.port == n) dLINKLOST
  have hd := h0.msgs m1
  have hm : MessagesEnd (fun m => m.port == n) dLINKLOST d ((portEmptied d n).msgsOver (fun m => m.port == n) dLINKLOST) :=
    ⟨m2.1, fun m hm hp hmute c hc hf => m2.2 m hm hp hmute c hc hf⟩
  rw [fabDown_eq]
  generalize (portEmptied d n).msgsOver (fun m => m.port == n) dLINKLOST = x at hd hm ⊢
  by_cases hs : d.fabSt n = fpDOWN
  · rw [if_pos hs]
    exact ⟨hd, fun h => absurd hs h, hm⟩
  · rw [if_neg hs]
    have ho := fabEvent_only x F.FAB_PORT_DOWN 1
    exact ⟨hd.event 1 rfl, fun _ => Dev.get_event_same _ _ _ _ (by decide) (by decide), hm.of_rest (by rw [ho]) (by rw [ho])⟩

end Sys2Proof
end

section
/-! SUPPORT. The states of fabric ports, and the statement about them (16 R567, R568, R601, Table 16.4; 03 R83). -/

namespace Sys2Proof

open Machine

/-! ### A partner that is lost -/

/-- A collective with a lost partner fails. -/
def Machine.Dev.failColl (partner : Nat) (s : Dev) (e : Nat × Option Coll) : Dev :=
  match e.2 with
  | some c => if c.group.any (·.1 == partner) then s.failCmd e.1 stFAULT dUNITLOST else s
  | none => s

/-- The collectives with a lost partner fail. -/
def Machine.Dev.failColls (s : Dev) (partner : Nat) : Dev := s.forEach s.fab.colls (Dev.failColl partner)

/-- A partner of the own chain leaves the phase. -/
def Machine.Dev.leaveUnit (s : Dev) (n partner : Nat) : Dev :=
  if s.flag F.PARTNER_VALID (fix n) ∧ partner / 128 = s.get F.CHAIN_ADDR_ID then s.unitGone (partner % 128) else s

/-- The messages and the collectives toward a lost partner end. -/
def Machine.Dev.lostMsgs (s : Dev) (n : Nat) : Dev :=
  ((portEmptied s n).msgsOver (fun m => m.dst == s.get F.PARTNER_IDENTITY (fix n)) dUNITLOST).failColls (s.get F.PARTNER_IDENTITY (fix n))

/-- The messages that left on the port end. -/
def Machine.Dev.lostEnd (s : Dev) (n : Nat) : Dev := (s.fabEvent F.PARTNER_LOST 2).msgsOver (fun m => m.port == n) dLINKLOST

/-- A port goes DOWN whose partner is lost, before its own end is reported. -/
def Machine.Dev.lostPort (s : Dev) (n : Nat) : Dev := ((s.lostMsgs n).leaveUnit n (s.get F.PARTNER_IDENTITY (fix n))).lostEnd n

theorem fabDown_lost (s : Dev) (n : Nat) :
    s.fabDown n true = if s.fabSt n = fpDOWN then s.lostPort n else (s.lostPort n).fabEvent F.FAB_PORT_DOWN 1 := rfl

theorem failColl_eq (partner : Nat) (s : Dev) (e : Nat × Option Coll) :
    s.failColl partner e = s ∨ ∃ k, s.failColl partner e = s.failCmd k stFAULT dUNITLOST := by
  unfold Dev.failColl
  cases e.2 with
  | none => exact .inl rfl
  | some c =>
    dsimp only
    split
    · exact .inr ⟨_, rfl⟩
    · exact .inl rfl

theorem failColls_reads (s : Dev) (partner : Nat) :
    OnlyMsgs s (s.failColls partner) ∧ (s.failColls partner).fab = s.fab ∧
    ∀ k v, FailedWith k v s → FailedWith k v (s.failColls partner) := by
  refine ⟨forEach_keeps onlyMsgs_refl onlyMsgs_trans _ _ (fun s e _ => ?_) s,
    forEach_keeps (R := fun a b => b.fab = a.fab) (fun _ => rfl) (fun h h' => h'.trans h) _ _ (fun s e _ => ?_) s,
    fun k v => forEach_keeps (R := fun a b => FailedWith k v a → FailedWith k v b) (fun _ h => h) (fun h h' x => h' (h x)) _ _
      (fun s e _ h => ?_) s⟩
  · rcases failColl_eq partner s e with he | ⟨k, he⟩ <;> rw [he]
    · exact onlyMsgs_refl s
    · exact onlyMsgs_failCmd s k stFAULT dUNITLOST
  · rcases failColl_eq partner s e with he | ⟨k, he⟩ <;> rw [he]
    rfl
  · rcases failColl_eq partner s e with he | ⟨j, he⟩ <;> rw [he]
    · exact h
    · exact h.failCmd j stFAULT dUNITLOST

/-! ### The registers of a port -/

/-- The fields of a port's own registers. -/
def portFields : List Fld :=
  [F.PORT_STATE, F.PORT_LOCKED, F.PORT_ENABLE, F.PORT_MODE, F.PARTNER_IDENTITY, F.PARTNER_PORT, F.PARTNER_VALID, F.MODE_MISMATCH, F.PORT_DELAY]

theorem portField_off {f : Fld} (hf : f ∈ portFields) (n : Nat) :
    f.off (fix n) = f.base + 0x100000 * (n / 6) + 0x400 * (n % 6) ∧ 0x3E01000 ≤ f.base ∧ f.base ≤ 0x3E01010 ∧ f.lo + f.w ≤ 32 := by
  have hd := (by decide : ∀ g ∈ portFields, g.dims = F.PORT_STATE.dims ∧ 0x3E01000 ≤ g.base ∧ g.base ≤ 0x3E01010 ∧ g.lo + g.w ≤ 32) f hf
  obtain ⟨h1, h2⟩ := hd
  refine ⟨?_, h2⟩
  simp [Fld.off, fix, h1, Nat.add_assoc]

/-- The fields of one port are apart. -/
theorem portField_apart {f g : Fld} (hf : f ∈ portFields) (hg : g ∈ portFields) (hne : f ≠ g) (n : Nat) : Fld.apart f (fix n) g (fix n) = true := by
  obtain ⟨h1, -⟩ := portField_off hf n
  obtain ⟨h2, -, -, hw⟩ := portField_off hg n
  have hs : f.base ≠ g.base ∨ (g.lo + g.w ≤ f.lo ∨ f.lo + f.w ≤ g.lo) :=
    (by decide : ∀ f ∈ portFields, ∀ g ∈ portFields, f ≠ g → f.base ≠ g.base ∨ (g.lo + g.w ≤ f.lo ∨ f.lo + f.w ≤ g.lo)) f hf g hg hne
  rcases hs with hs | hs
  · exact apart_of_off (by rw [h1, h2]; omega) hw
  · exact apart_of_bits hs hw

/-- The fabric's own events are apart from a port's registers. -/
theorem fabEvent_port (s : Dev) {f g : Fld} (b n : Nat) (hf : f.off [] = 0x3E10000) (hg : g ∈ portFields) :
    (s.fabEvent f b).get g (fix n) = s.get g (fix n) := by
  obtain ⟨h2, h3, h4, hw⟩ := portField_off hg n
  refine Dev.get_event_apart _ _ _ _ (apart_of_off ?_ hw)
  rw [h2, hf]
  omega

theorem portEmptied_port (s : Dev) (n : Nat) {g : Fld} (hg : g ∈ portFields) (h1 : F.PORT_STATE ≠ g) (h2 : F.PORT_LOCKED ≠ g) :
    (portEmptied s n).get g (fix n) = s.get g (fix n) := by
  have h : (portEmptied s n).get g (fix n) = ((s.put F.PORT_STATE (fix n) fpDOWN).put F.PORT_LOCKED (fix n) 0).get g (fix n) := rfl
  rw [h, Dev.get_put_apart _ _ (portField_apart (by decide) hg h2 n), Dev.get_put_apart _ _ (portField_apart (by decide) hg h1 n)]

theorem portEmptied_stands (s : Dev) (n : Nat) : Stands (fun off => off < 0x3E00000) s (portEmptied s n) := by
  have h : (portEmptied s n).regs = ((s.put F.PORT_STATE (fix n) fpDOWN).put F.PORT_LOCKED (fix n) 0).regs := rfl
  exact stands_trans (stands_trans (stands_put s fpDOWN (by rw [port_off (.inl rfl)]; omega)) (stands_put _ 0 (by rw [port_off (.inr rfl)]; omega)))
    (stands_of_regs h)

theorem chainSource_congr {a b : Dev} (hs : Stands (fun off => off < 0x3E00000) a b) (hc : b.cad = a.cad) : b.chainSource = a.chainSource := by
  simp only [Dev.chainSource, Dev.isMaster, Dev.flag, hs.get F.CAD_ROLE_NOW [] (by decide), hs.get F.RELAY [] (by decide),
    hs.get F.CHAIN_ADDR_ID [] (by decide), hc]

/-! ### UNIT_LOST -/

/-- Does the loss of port `n`'s partner take a unit out of the phase (03 R83)? -/
def lossLeaves (d : Dev) (n : Nat) : Prop :=
  d.get F.PARTNER_VALID (fix n) = 1 ∧ d.get F.PARTNER_IDENTITY (fix n) / 128 = d.get F.CHAIN_ADDR_ID ∧ d.chainSource = true ∧
  d.get F.PARTNER_IDENTITY (fix n) % 128 ∈ d.cad.unitPart

/-- What the messages toward a lost partner leave, before anyone leaves the phase. -/
theorem lostMsgs_reads (d : Dev) (n : Nat) :
    let p := d.get F.PARTNER_IDENTITY (fix n)
    let x := d.lostMsgs n
    Downed n d x ∧ MessagesEnd (fun m => m.dst == p) dUNITLOST d x ∧ x.regs = (portEmptied d n).regs ∧
    (¬lossLeaves d n → x.leaveUnit n p = x) ∧ (lossLeaves d n → x.leaveUnit n p = x.applyPart ⟨false, 0, p % 128, 0, 0⟩) := by
  intro p x
  obtain ⟨m1, m2⟩ := msgsOver_reads (portEmptied d n) (fun m => m.dst == p) dUNITLOST
  obtain ⟨c1, c2, c3⟩ := failColls_reads ((portEmptied d n).msgsOver (fun m => m.dst == p) dUNITLOST) p
  have hd : Downed n d x := ((portEmptied_downed d n).msgs m1).msgs c1
  have hr : x.regs = (portEmptied d n).regs := by
    change (((portEmptied d n).msgsOver (fun m => m.dst == p) dUNITLOST).failColls p).regs = _
    rw [c1]
    change ((portEmptied d n).msgsOver (fun m => m.dst == p) dUNITLOST).regs = _
    rw [m1]
  have hm : MessagesEnd (fun m => m.dst == p) dUNITLOST d x :=
    ⟨(congrArg Fab.outMsgs c2).trans m2.1, fun m hm hp hmute c hc hf => c3 _ _ (m2.2 m hm hp hmute c hc hf)⟩
  have hs : Stands (fun off => off < 0x3E00000) d x := stands_trans (portEmptied_stands d n) (stands_of_regs hr)
  have hv : x.get F.PARTNER_VALID (fix n) = d.get F.PARTNER_VALID (fix n) := by
    rw [Dev.get_eq, hr, ← Dev.get_eq]
    exact portEmptied_port d n (by decide) (by decide) (by decide)
  have hleave : x.leaveUnit n p = if (d.get F.PARTNER_VALID (fix n) = 1 ∧ p / 128 = d.get F.CHAIN_ADDR_ID) then
      (if (d.chainSource && d.cad.unitPart.contains (p % 128)) then x.applyPart ⟨false, 0, p % 128, 0, 0⟩ else x) else x := by
    unfold Dev.leaveUnit Dev.unitGone
    rw [Dev.flag, hv, hs.get F.CHAIN_ADDR_ID [] (by decide), chainSource_congr hs hd.cad, hd.cad]
    simp only [beq_iff_eq]
  clear_value x
  refine ⟨hd, hm, hr, fun hn => ?_, fun hl => ?_⟩
  · rw [hleave]
    by_cases h1 : d.get F.PARTNER_VALID (fix n) = 1 ∧ p / 128 = d.get F.CHAIN_ADDR_ID
    · rw [if_pos h1]
      refine if_neg fun h2 => hn ?_
      rw [Bool.and_eq_true, List.contains_iff_mem] at h2
      exact ⟨h1.1, h1.2, h2⟩
    · exact if_neg h1
  · obtain ⟨h1, h2, h3, h4⟩ := hl
    rw [hleave, if_pos ⟨h1, h2⟩, if_pos (by rw [h3, Bool.true_and, List.contains_iff_mem]; exact h4)]

/-- The end of a port whose partner is lost: the messages that left on it end too. -/
theorem lostPort_end {d y : Dev} {n : Nat} (h : d.lostPort n = y.lostEnd n) :
    (d.fabDown n true).get F.PARTNER_LOST = 1 ∧ (d.fabSt n ≠ fpDOWN → (d.fabDown n true).get F.FAB_PORT_DOWN = 1) ∧
    (∃ z, OnlyMsgs (y.fabEvent F.PARTNER_LOST 2) z ∧ MessagesEnd (fun m => m.port == n) dLINKLOST (y.fabEvent F.PARTNER_LOST 2) z ∧
      (∀ k v, FailedWith k v y → FailedWith k v z) ∧ OnlyRegsIrq z (d.fabDown n true) ∧
      (∀ a, Downed n a z → Downed n a (d.fabDown n true)) ∧ (∀ g ∈ portFields, (d.fabDown n true).get g (fix n) = z.get g (fix n))) := by
  obtain ⟨m1, m2⟩ := msgsOver_reads (y.fabEvent F.PARTNER_LOST 2) (fun m => m.port == n) dLINKLOST
  have ho := fabEvent_only y F.PARTNER_LOST 2
  have hk : ∀ k v, FailedWith k v y → FailedWith k v ((y.fabEvent F.PARTNER_LOST 2).msgsOver (fun m => m.port == n) dLINKLOST) := fun k v hf =>
    FailedWith.endMsgs (hf.congr (b := y.fabEvent F.PARTNER_LOST 2) (by rw [ho])) _ _
  have h1 : (y.fabEvent F.PARTNER_LOST 2).get F.PARTNER_LOST = 1 := Dev.get_event_same _ _ _ _ (by decide) (by decide)
  rw [fabDown_lost, h, Dev.lostEnd]
  generalize y.fabEvent F.PARTNER_LOST 2 = t at m1 m2 hk h1 ⊢
  generalize t.msgsOver (fun m => m.port == n) dLINKLOST = z at m1 m2 hk ⊢
  have hz : z.get F.PARTNER_LOST = 1 := by
    have hr : z.regs = t.regs := by rw [m1]
    rw [Dev.get_eq, hr, ← Dev.get_eq, h1]
  by_cases hs : d.fabSt n = fpDOWN
  · rw [if_pos hs]
    exact ⟨hz, fun h => absurd hs h, z, m1, m2, hk, rfl, fun _ h => h, fun _ _ => rfl⟩
  · rw [if_neg hs]
    refine ⟨?_, fun _ => Dev.get_event_same _ _ _ _ (by decide) (by decide), z, m1, m2, hk, fabEvent_only _ _ _, fun a ha => ha.event 1 rfl,
      fun g hg => fabEvent_port z 1 n rfl hg⟩
    rw [Dev.fabEvent, Dev.get_event_apart _ _ _ _ (by decide), hz]

/-- A port whose partner is lost, when nobody leaves the phase. -/
theorem fabDown_partner {d : Dev} {n : Nat} (hn : ¬lossLeaves d n) :
    Downed n d (d.fabDown n true) ∧ (d.fabSt n ≠ fpDOWN → (d.fabDown n true).get F.FAB_PORT_DOWN = 1) ∧
    (d.fabDown n true).get F.PARTNER_LOST = 1 ∧
    (d.fabDown n true).fab.outMsgs = d.fab.outMsgs.filter (fun m => !(m.port == n || m.dst == d.get F.PARTNER_IDENTITY (fix n))) ∧
    CommandsFail (fun m => m.dst == d.get F.PARTNER_IDENTITY (fix n)) dUNITLOST d (d.fabDown n true) := by
  obtain ⟨x1, x2, -, x4, -⟩ := lostMsgs_reads d n
  have hl : d.lostPort n = (d.lostMsgs n).lostEnd n := by rw [Dev.lostPort, x4 hn]
  obtain ⟨e1, e2, z, z1, z2, z3, z4, z5, -⟩ := lostPort_end hl
  generalize d.lostMsgs n = x at *
  have ho := fabEvent_only x F.PARTNER_LOST 2
  refine ⟨z5 d ((x1.event 2 rfl).msgs z1), e2, e1, ?_, fun m hm hp hmute c hc hf => ?_⟩
  · have h1 : (d.fabDown n true).fab = z.fab := by rw [z4]
    have h2 : (x.fabEvent F.PARTNER_LOST 2).fab = x.fab := by rw [ho]
    rw [h1, z2.1, h2, x2.1, List.filter_filter]
    refine List.filter_congr fun m _ => ?_
    rw [Bool.not_or]
  · have h1 : (d.fabDown n true).queues = z.queues := by rw [z4]
    exact FailedWith.congr (z3 _ _ (x2.2 m hm hp hmute c hc hf)) h1

/-- A port whose partner is lost and leaves the phase (03 R83). -/
theorem fabDown_leaves {d : Dev} {n : Nat} (hn : lossLeaves d n) :
    (d.fabDown n true).cad.unitPart = d.cad.unitPart.erase (d.get F.PARTNER_IDENTITY (fix n) % 128) ∧
    (d.fabDown n true).get F.PORT_STATE (fix n) = 0 ∧ (d.fabDown n true).get F.PARTNER_LOST = 1 ∧
    (d.fabDown n true).reports = d.reports ∧ (d.fabDown n true).mem = d.mem := by
  obtain ⟨x1, -, -, -, x5⟩ := lostMsgs_reads d n
  have hl : d.lostPort n = ((d.lostMsgs n).applyPart ⟨false, 0, d.get F.PARTNER_IDENTITY (fix n) % 128, 0, 0⟩).lostEnd n := by
    rw [Dev.lostPort, x5 hn]
  obtain ⟨e1, -, z, z1, -, -, z4, -, z6⟩ := lostPort_end hl
  clear hl x5
  generalize d.lostMsgs n = x at *
  obtain ⟨j1, j2⟩ := applyPart_unit x ⟨false, 0, d.get F.PARTNER_IDENTITY (fix n) % 128, 0, 0⟩ rfl
  generalize x.applyPart ⟨false, 0, d.get F.PARTNER_IDENTITY (fix n) % 128, 0, 0⟩ = y at j1 j2 z1 z4 z6 ⊢
  have ho := fabEvent_only y F.PARTNER_LOST 2
  have hcad : (d.fabDown n true).cad = y.cad := by rw [z4, z1, ho]
  have hrep : (d.fabDown n true).reports = y.reports := by rw [z4, z1, ho]
  have hmem : (d.fabDown n true).mem = y.mem := by rw [z4, z1, ho]
  have hst : (d.fabDown n true).get F.PORT_STATE (fix n) = y.get F.PORT_STATE (fix n) := by
    have hr : z.regs = (y.fabEvent F.PARTNER_LOST 2).regs := by rw [z1]
    rw [z6 _ (by decide), Dev.get_eq, hr, ← Dev.get_eq, fabEvent_port y 2 n rfl (by decide)]
  have hyr : y.regs = x.regs := by rw [j1]
  refine ⟨?_, ?_, e1, ?_, ?_⟩
  · rw [hcad, j2]
    exact congrArg (fun l => List.erase l (d.get F.PARTNER_IDENTITY (fix n) % 128)) (congrArg Cad.unitPart x1.cad)
  · rw [hst, Dev.get_eq, hyr, ← Dev.get_eq, x1.state]
  · rw [hrep, j1]
    exact x1.reports
  · rw [hmem, j1]
    exact x1.mem

end Sys2Proof
end

section
/-! SUPPORT. Flits that arrive, and the states of fabric ports: the statement (16 R563 to R568, Table 16.4; 03 R83). -/

namespace Sys2Proof

open Machine

/-! ### LINK flits sent -/

/-- Only the fabric's links changed. -/
def OnlyLinks (a b : Dev) : Prop := b = { a with fab := { a.fab with links := b.fab.links } }

theorem onlyLinks_refl (a : Dev) : OnlyLinks a a := rfl

theorem onlyLinks_trans {a b c : Dev} (h : OnlyLinks a b) (h' : OnlyLinks b c) : OnlyLinks a c := by
  unfold OnlyLinks at *
  rw [h] at h'
  exact h'

theorem OnlyLinks.regs {a b : Dev} (h : OnlyLinks a b) : b.regs = a.regs := by rw [h]

theorem OnlyLinks.get {a b : Dev} (h : OnlyLinks a b) (g : Fld) (ix : List Nat) : b.get g ix = a.get g ix := by
  rw [Dev.get_eq, h.regs, ← Dev.get_eq]

theorem updLink_reads (s : Dev) (n : Nat) (f : Link → Link) :
    (s.updLink n f).link n = f (s.link n) ∧ (∀ m, m ≠ n → (s.updLink n f).link m = s.link m) ∧ OnlyLinks s (s.updLink n f) :=
  ⟨(link_updLink s n n f).trans (if_pos rfl), fun m hm => (link_updLink s n m f).trans (if_neg hm), rfl⟩

theorem linkOut_talk (s : Dev) (n : Nat) (m : LinkMsg) : LinkTalk n [m] s (s.linkOut n m) ∧ OnlyLinks s (s.linkOut n m) := by
  obtain ⟨h1, h2, h3⟩ := updLink_reads s n fun l => { l with out := l.out ++ [m] }
  exact ⟨⟨h1, h2⟩, h3⟩

theorem linkTalk_nil (n : Nat) (d : Dev) : LinkTalk n [] d d := ⟨by rw [List.append_nil], fun _ _ => rfl⟩

/-- The credit of an input buffer of port `n` goes back. -/
theorem freeInput_talk (s : Dev) {n : Nat} (f : Flit) (hn : n < 12) :
    LinkTalk n (creditBack s n f) s (s.freeInput (2 * n + f.vc % 2) f.cls) ∧ OnlyLinks s (s.freeInput (2 * n + f.vc % 2) f.cls) := by
  have h1 : (2 * n + f.vc % 2) / 2 = n := by omega
  have h2 : (2 * n + f.vc % 2) % 2 = f.vc % 2 := by omega
  unfold Dev.freeInput creditBack
  rw [h1, h2]
  cases he : s.encapPort n
  · have hlt : 2 * n + f.vc % 2 < 24 := by omega
    rw [if_neg Bool.false_ne_true, if_pos ⟨hlt, rfl⟩]
    exact linkOut_talk _ _ _
  · rw [if_pos rfl, if_neg (by simp)]
    exact ⟨linkTalk_nil n s, onlyLinks_refl s⟩

/-! ### Flits taken -/

theorem heardOn_talk (d : Dev) (n : Nat) : LinkTalk n [.credit [] 1] d (heardOn d n) ∧ OnlyLinks d (heardOn d n) := linkOut_talk _ _ _

/-- A flit that passes its checks is acknowledged on its link and placed. -/
theorem FlitTaken.arrive {d : Dev} {n : Nat} {f : Flit} (h : FlitTaken d n f) (stay : Nat) :
    d.arrive n f stay = (heardOn d n).place (2 * n + f.vc % 2) f stay := by
  obtain ⟨-, hn, hs, hc, hw, hk⟩ := h
  unfold Dev.arrive
  rw [if_neg (by simp [Dev.fabUp, Dev.fabSt, hn, hs]), if_neg (by simp [hc])]
  exact if_neg (by simp [hw, hk])

/-- One for this unit is delivered. -/
theorem ForUs.arrive {d : Dev} {n : Nat} {f : Flit} (h : ForUs d n f) (stay : Nat) :
    d.arrive n f stay = (heardOn d n).consume (2 * n + f.vc % 2) f stay := by
  obtain ⟨ht, ha, hd, -⟩ := h
  rw [ht.arrive stay, Dev.place]
  refine if_pos ?_
  have hl := (heardOn_talk d n).2
  have hi : (heardOn d n).ident = d.ident := by simp only [Dev.ident, hl.get]
  simp only [Dev.isMine, hl.get, hi, hd, Bool.and_eq_true, bne_iff_ne, ne_eq, beq_self_eq_true, and_true]
  exact ha

theorem ForUs.heldIn {d : Dev} {n : Nat} {f : Flit} (h : ForUs d n f) : (heardOn d n).fab.heldIn = [] := by
  rw [(heardOn_talk d n).2]
  exact h.2.2.2

/-- A control flit is heard, and its buffer is free again. -/
theorem consume_ctrl0 {s : Dev} {f : Flit} (hk : f.kind = 7) (hh : s.fab.heldIn = []) (input stay : Nat) :
    s.consume input f stay = (s.onCtrl0 input f stay).freeInput input f.cls := by
  unfold Dev.consume
  simp only [hh, List.any_nil, Bool.false_eq_true, if_false, hk]

/-! ### What the events of a port leave -/

/-- A port that is DOWN stays so whatever it still sends. -/
theorem portDown_talk {n : Nat} {l : List LinkMsg} {d b e : Dev} (h : PortDown n d b) (hl : LinkTalk n l b e) (ho : OnlyLinks b e) : PortDown n d e := by
  obtain ⟨h1, h2, h3, h4, h5, h6, h7, h8, h9, h10, h11⟩ := h
  obtain ⟨l1, l2⟩ := hl
  refine ⟨(ho.get _ _).trans h1, (ho.get _ _).trans h2, by rw [l1]; exact h3, by rw [l1]; exact h4, by rw [l1]; exact h5,
    fun m hm => (l2 m hm).trans (h6 m hm), fun hs => (ho.get _ _).trans (h7 hs), ?_, ?_, ?_, ?_⟩
  · rw [ho]
    exact h8
  · rw [ho]
    exact h9
  · rw [ho]
    exact h10
  · rw [ho]
    exact h11

/-- A port that went DOWN after it had sent something went DOWN. -/
theorem portDown_after {n : Nat} {l : List LinkMsg} {d s e : Dev} (hl : LinkTalk n l d s) (ho : OnlyLinks d s) (h : PortDown n s e) :
    PortDown n d e := by
  obtain ⟨h1, h2, h3, h4, h5, h6, h7, h8, h9, h10, h11⟩ := h
  have hf : s.fab.inMsgs = d.fab.inMsgs ∧ s.fab.inject = d.fab.inject ∧ s.mem = d.mem ∧ s.cad = d.cad := by
    rw [ho]
    exact ⟨rfl, rfl, rfl, rfl⟩
  obtain ⟨f1, f2, f3, f4⟩ := hf
  exact ⟨h1, h2, h3, h4, h5, fun m hm => (h6 m hm).trans (hl.2 m hm), fun hs => h7 (by rw [ho.get]; exact hs), h8.trans (by rw [f1]),
    h9.trans f2, h10.trans f3, h11.trans f4⟩

/-- The report of a port's end changes nothing else. -/
theorem portDown_report {n : Nat} {d b : Dev} (h : PortDown n d b) (code die mid : Nat) (part : Option Nat) (addr arg : Nat) :
    PortDown n d (b.report code die mid part addr arg) := h

/-- What the loss of port `n`'s partner leaves, when nobody leaves the phase (16 R601). -/
def PartnerGone (n : Nat) (d e : Dev) : Prop :=
  PortDown n d e ∧ e.get F.PARTNER_LOST = 1 ∧
  e.fab.outMsgs = d.fab.outMsgs.filter (fun m => !(m.port == n || m.dst == d.get F.PARTNER_IDENTITY (fix n))) ∧
  CommandsFail (fun m => m.dst == d.get F.PARTNER_IDENTITY (fix n)) dUNITLOST d e ∧
  ∃ r, e.reports = d.reports ++ [r] ∧ r.code = 0x48 ∧ r.die = 6 + n / 6

theorem partnerGone_link {d : Dev} {n : Nat} (hl : ¬lossLeaves d n) : PartnerGone n d ((d.fabDown n true).report 0x48 (6 + n / 6) 0 none n 0) := by
  obtain ⟨f1, f2, f3, f4, f5⟩ := fabDown_partner hl
  exact ⟨portDown_report (f1.portDown f2) _ _ _ _ _ _, f3, f4, f5, _, congrArg (· ++ _) f1.reports, rfl, rfl⟩

/-- The same, when the loss came in a flit whose receipt was acknowledged and whose buffer is free again. -/
theorem partnerGone_flit {d s e : Dev} {n : Nat} {l l' : List LinkMsg} (hl : ¬lossLeaves d n) (hs : LinkTalk n l d s) (ho : OnlyLinks d s)
    (he : LinkTalk n l' ((s.fabDown n true).report 0x48 (6 + n / 6) 0 none n 0) e)
    (heo : OnlyLinks ((s.fabDown n true).report 0x48 (6 + n / 6) 0 none n 0) e) : PartnerGone n d e := by
  have hr : s.cad = d.cad ∧ s.queues = d.queues ∧ s.fab.outMsgs = d.fab.outMsgs ∧ s.reports = d.reports := by
    rw [ho]
    exact ⟨rfl, rfl, rfl, rfl⟩
  obtain ⟨r1, r2, r3, r4⟩ := hr
  have hl' : ¬lossLeaves s n := by
    unfold lossLeaves
    rw [ho.get, ho.get, ho.get, chainSource_congr (stands_of_regs ho.regs) r1, r1]
    exact hl
  obtain ⟨p1, p2, p3, p4, r, p5, p6⟩ := partnerGone_link hl'
  rw [ho.get] at p3 p4
  refine ⟨portDown_talk (portDown_after hs ho p1) he heo, (heo.get _ _).trans p2, ?_, fun m hm hp hmute c hc hf => ?_, r, ?_, p6⟩
  · rw [heo, ← r3]
    exact p3
  · refine FailedWith.congr (p4 m (by rw [r3]; exact hm) hp hmute c ((cmdOf_congr (queue_congr r2 _)).trans hc) hf) (by rw [heo])
  · rw [heo, ← r4]
    exact p5

end Sys2Proof
end

section
/-! SUPPORT. The states of fabric ports: the statement (16 R567, R568, R601, Table 16.4; 03 R83). -/

namespace Sys2Proof

open Machine

/-! ### ENABLE, and whether a port may train -/

/-- May port `n` train (16 Table 16.4; 20 R720)? -/
def mayTrain (d : Dev) (n : Nat) : Bool := !d.hostShut && d.portsMay && !d.dieGone (6 + n / 6)

theorem dieGone_congr {a b : Dev} (h : Stands (fun off => off < 0x3E00000) a b) {m : Nat} (hm : m < 12) : b.dieGone m = a.dieGone m := by
  have hd : F.DOM_STATE.off [m] < 0x3E00000 := by
    have : F.DOM_STATE.off [m] ≤ F.DOM_STATE.off [0] + 0x100 * m := by simp [Fld.off]; omega
    have h0 : F.DOM_STATE.off [0] < 0x3D00000 := by decide
    omega
  simp only [Dev.dieGone, Dev.diePresent, Dev.dieIsLost, dieDomain, h.get F.DIE_PRESENT [] (by decide), h.get F.DIE_LOST [] (by decide),
    h.get F.DOM_STATE [m] hd]

theorem mayTrain_congr {a b : Dev} (h : Stands (fun off => off < 0x3E00000) a b) (hp : b.pauses = a.pauses) (hb : b.boot = a.boot) {n : Nat}
    (hn : n < 12) : mayTrain b n = mayTrain a n := by
  have h1 : b.hostShut = a.hostShut := by unfold Dev.hostShut; rw [hp]
  have h2 : b.portsMay = a.portsMay := by unfold Dev.portsMay; rw [hb]
  unfold mayTrain
  rw [h1, h2, dieGone_congr h (by omega)]

theorem stands_portField (s : Dev) {f : Fld} (hf : f ∈ portFields) (n v : Nat) : Stands (fun off => off < 0x3E00000) s (s.put f (fix n) v) := by
  obtain ⟨h1, h2, -⟩ := portField_off hf n
  exact stands_put s v (by rw [h1]; omega)

/-- The condition under which a port leaves DOWN. -/
theorem mayTrain_iff (s : Dev) (n : Nat) : (!s.hostShut ∧ s.portsMay ∧ !s.dieGone (6 + n / 6)) ↔ mayTrain s n = true := by
  simp [mayTrain, and_assoc]

theorem portEnable_on {d : Dev} {n : Nat} (hn : n < 12) (signal : Bool) :
    d.portEnable n true signal =
      if signal = true ∧ d.get F.PORT_STATE (fix n) = 0 ∧ mayTrain d n = true then
        (d.put F.PORT_ENABLE (fix n) 1).put F.PORT_STATE (fix n) 1
      else d.put F.PORT_ENABLE (fix n) 1 := by
  have hst : (d.put F.PORT_ENABLE (fix n) 1).get F.PORT_STATE (fix n) = d.get F.PORT_STATE (fix n) :=
    Dev.get_put_apart _ _ (portField_apart (by decide) (by decide) (by decide) n)
  have hm := mayTrain_congr (stands_portField d (f := F.PORT_ENABLE) (by decide) n 1) rfl rfl hn
  rw [Dev.portEnable, if_neg (Nat.not_le.mpr hn)]
  refine (if_pos rfl).trans (ite_congr ?_ (fun _ => rfl) fun _ => rfl)
  show (signal = true ∧ (d.put F.PORT_ENABLE (fix n) 1).get F.PORT_STATE (fix n) = 0 ∧ _) = _
  rw [hst, ← hm]
  simp [mayTrain, b2n, and_assoc]

theorem fabDown_port (s : Dev) (n : Nat) {g : Fld} (hg : g ∈ portFields) (h1 : F.PORT_STATE ≠ g) (h2 : F.PORT_LOCKED ≠ g) :
    (s.fabDown n false).get g (fix n) = s.get g (fix n) := by
  have hm : ((portEmptied s n).msgsOver (fun m => m.port == n) dLINKLOST).get g (fix n) = s.get g (fix n) := by
    rw [Dev.get_eq, (msgsOver_reads (portEmptied s n) (fun m => m.port == n) dLINKLOST).1, ← Dev.get_eq]
    exact portEmptied_port s n hg h1 h2
  rw [fabDown_eq]
  refine iteInduction (motive := fun x : Dev => x.get g (fix n) = s.get g (fix n)) (fun _ => hm) fun _ => ?_
  rw [fabEvent_port _ 1 n rfl hg, hm]

/-- ENABLE cleared takes the port DOWN. -/
theorem portEnable_off {d : Dev} {n : Nat} (hn : n < 12) (signal : Bool) :
    (d.portEnable n false signal).get F.PORT_ENABLE (fix n) = 0 ∧ PortDown n d (d.portEnable n false signal) ∧
    MessagesEnd (fun m => m.port == n) dLINKLOST d (d.portEnable n false signal) := by
  have he : d.portEnable n false signal = (d.put F.PORT_ENABLE (fix n) 0).fabDown n false := if_neg (Nat.not_le.mpr hn)
  obtain ⟨s, hs⟩ : ∃ s, s = d.put F.PORT_ENABLE (fix n) 0 := ⟨_, rfl⟩
  have hst : s.get F.PORT_STATE (fix n) = d.get F.PORT_STATE (fix n) := by
    rw [hs]
    exact Dev.get_put_apart _ _ (portField_apart (by decide) (by decide) (by decide) n)
  have h0 : s.get F.PORT_ENABLE (fix n) = 0 := by
    rw [hs]
    exact Dev.get_put_fit _ (by decide) (by decide)
  have hr : s = { d with regs := s.regs } := by rw [hs]; rfl
  rw [he, ← hs]
  obtain ⟨f1, f2, f3⟩ := fabDown_downs s n
  have hp := f1.portDown f2
  have hen := fabDown_port s n (g := F.PORT_ENABLE) (by decide) (by decide) (by decide)
  generalize s.fabDown n false = e at *
  refine ⟨hen.trans h0, ?_, ?_⟩
  · obtain ⟨p1, p2, p3, p4, p5, p6, p7, p8, p9, p10, p11⟩ := hp
    rw [hst] at p7
    rw [hr] at p6 p8 p9 p10 p11
    exact ⟨p1, p2, p3, p4, p5, p6, p7, p8, p9, p10, p11⟩
  · rw [hr] at f3
    exact f3

/-! ### HELLO -/

theorem credits_get (h : Hello) (l : List Nat) (t : Tab Nat) (p : Nat) :
    Tab.get 0 (l.foldl (fun t p => Tab.set 0 t p (h.credits.getD p 0)) t) p = if p ∈ l then h.credits.getD p 0 else Tab.get 0 t p := by
  induction l generalizing t with
  | nil => rfl
  | cons x l ih =>
    rw [List.foldl_cons, ih]
    by_cases hl : p ∈ l
    · rw [if_pos hl, if_pos (List.mem_cons_of_mem _ hl)]
    · rw [if_neg hl, Tab.get_set]
      by_cases hx : p = x
      · rw [if_pos hx, if_pos (by simp [hx]), hx]
      · rw [if_neg hx, if_neg (by simp [hx, hl])]

/-- The registers that a HELLO from the port's partner sets. -/
def Machine.Dev.partnerPut (s : Dev) (n : Nat) (h : Hello) : Dev :=
  (((s.put F.PORT_STATE (fix n) fpUP).put F.PARTNER_IDENTITY (fix n) h.ident).put F.PARTNER_PORT (fix n) h.port).put F.PARTNER_VALID (fix n) 1

theorem partnerPut_reads (s : Dev) (n : Nat) (h : Hello) :
    (s.partnerPut n h).get F.PORT_STATE (fix n) = 3 ∧ (s.partnerPut n h).get F.PARTNER_IDENTITY (fix n) = h.ident % 2 ^ 15 ∧
    (s.partnerPut n h).get F.PARTNER_PORT (fix n) = h.port % 16 ∧ (s.partnerPut n h).get F.PARTNER_VALID (fix n) = 1 ∧
    OnlyFields [(F.PORT_STATE, fix n), (F.PARTNER_IDENTITY, fix n), (F.PARTNER_PORT, fix n), (F.PARTNER_VALID, fix n)] s (s.partnerPut n h) ∧
    OnlyRegs s (s.partnerPut n h) := by
  have ap : ∀ {f g : Fld}, f ∈ portFields → g ∈ portFields → f ≠ g → Fld.apart f (fix n) g (fix n) = true :=
    fun hf hg hne => portField_apart hf hg hne n
  unfold Dev.partnerPut
  refine ⟨?_, ?_, ?_, ?_, ?_, onlyRegs_trans (onlyRegs_trans (onlyRegs_trans (onlyRegs_put ..) (onlyRegs_put ..)) (onlyRegs_put ..)) (onlyRegs_put ..)⟩
  · rw [Dev.get_put_apart _ _ (ap (by decide) (by decide) (by decide)), Dev.get_put_apart _ _ (ap (by decide) (by decide) (by decide)),
      Dev.get_put_apart _ _ (ap (by decide) (by decide) (by decide))]
    exact Dev.get_put_fit _ (by decide) (by decide)
  · rw [Dev.get_put_apart _ _ (ap (by decide) (by decide) (by decide)), Dev.get_put_apart _ _ (ap (by decide) (by decide) (by decide))]
    rw [Dev.get_put_same _ _ _ _ (by decide), show F.PARTNER_IDENTITY.w = 15 by decide]
  · rw [Dev.get_put_apart _ _ (ap (by decide) (by decide) (by decide)), Dev.get_put_same _ _ _ _ (by decide), show 2 ^ F.PARTNER_PORT.w = 16 by decide]
  · exact Dev.get_put_fit _ (by decide) (by decide)
  · exact onlyFields_put _ (onlyFields_put _ (onlyFields_put _ (onlyFields_put _ (onlyFields_refl _ s) (by simp)) (by simp)) (by simp)) (by simp)

/-- The credits that a HELLO installs. -/
def helloCredits (h : Hello) : Tab Nat := (List.range 8).foldl (fun t p => Tab.set 0 t p (h.credits.getD p 0)) []

theorem helloCredits_get (h : Hello) {p : Nat} (hp : p < 8) : Tab.get 0 (helloCredits h) p = h.credits.getD p 0 :=
  (credits_get h _ _ _).trans (if_pos (List.mem_range.mpr hp))

theorem linkHello_up {d : Dev} {n : Nat} {h : Hello} (hs : d.get F.PORT_STATE (fix n) = 2) (hm : h.mode = d.get F.PORT_MODE (fix n)) :
    d.linkHello n h = (((d.partnerPut n h).updLink n fun l => { l with credits := helloCredits h, total := helloCredits h, unfreed := [] })).fabEvent
      F.FAB_PORT_UP 0 := by
  rw [Dev.linkHello, if_pos (show d.fabSt n = fpHELLO from hs), if_pos hm]
  rfl

end Sys2Proof
end

section
/-! SUPPORT. Fabric ports: the settling theorem (16 R567, R568, R601, Table 16.4; 03 R83). -/

namespace Sys2Proof

open Machine

/-- A port that locks. -/
def Machine.Dev.lockPut (s : Dev) (n : Nat) : Dev := (s.put F.PORT_STATE (fix n) fpHELLO).put F.PORT_LOCKED (fix n) 15

theorem portLock_eq {d : Dev} {n : Nat} (hn : n < 12) (hs : d.get F.PORT_STATE (fix n) = 1) :
    d.portLock n = (d.lockPut n).linkOut n (d.ownHello n) := by
  unfold Dev.portLock Dev.lockPut
  rw [if_pos ⟨hn, show d.fabSt n = fpTRAIN from hs⟩]

theorem lockPut_reads (d : Dev) (n : Nat) :
    (d.lockPut n).get F.PORT_STATE (fix n) = 2 ∧ (d.lockPut n).get F.PORT_LOCKED (fix n) = 15 ∧
    OnlyFields [(F.PORT_STATE, fix n), (F.PORT_LOCKED, fix n)] d (d.lockPut n) ∧ OnlyRegs d (d.lockPut n) := by
  refine ⟨?_, ?_, ?_, onlyRegs_trans (onlyRegs_put ..) (onlyRegs_put ..)⟩
  · rw [Dev.lockPut, Dev.get_put_apart _ _ (portField_apart (by decide) (by decide) (by decide) n)]
    exact Dev.get_put_fit _ (by decide) (by decide)
  · exact Dev.get_put_fit _ (by decide) (by decide)
  · exact onlyFields_put _ (onlyFields_put _ (onlyFields_refl _ d) (by simp)) (by simp)

theorem onCtrl0_lost {s : Dev} {f : Flit} (hw : wordAt f.data 0 = c0LOST) {input : Nat} (hi : input < 24) (stay : Nat) :
    s.onCtrl0 input f stay = (s.fabDown (input / 2) true).report 0x48 (6 + input / 12) 0 none (input / 2) 0 := by
  unfold Dev.onCtrl0
  simp only [hw, hi, and_self, if_true, show c0LOST ≠ tyTick by decide, show c0LOST ≠ tyVote by decide, show c0LOST ≠ tyJoin by decide,
    show c0LOST ≠ tyLeave by decide, show c0LOST ≠ tyBid by decide, show c0LOST ≠ tyHandover by decide, if_false]

theorem onlyRegs_rest {a b : Dev} (h : OnlyRegs a b) :
    b.mem = a.mem ∧ b.cad = a.cad ∧ b.queues = a.queues ∧ ∀ k, b.link k = a.link k := by
  rw [h]
  exact ⟨rfl, rfl, rfl, fun _ => rfl⟩

theorem fabEvent_link (s : Dev) (f : Fld) (b k : Nat) : (s.fabEvent f b).link k = s.link k := by
  have ho := fabEvent_only s f b
  generalize s.fabEvent f b = e at ho ⊢
  rw [ho]
  rfl

/-- A port that a HELLO took to UP. -/
theorem partnerUp_reads {d : Dev} {n : Nat} (h : Hello) (e : Dev)
    (he : e = ((d.partnerPut n h).updLink n fun l => { l with credits := helloCredits h, total := helloCredits h, unfreed := [] }).fabEvent F.FAB_PORT_UP 0) :
    e.get F.PORT_STATE (fix n) = 3 ∧ e.get F.PARTNER_IDENTITY (fix n) = h.ident % 2 ^ 15 ∧
    e.get F.PARTNER_PORT (fix n) = h.port % 16 ∧ e.get F.PARTNER_VALID (fix n) = 1 ∧ e.get F.FAB_PORT_UP = 1 ∧
    (∀ p < 8, Tab.get 0 (e.link n).credits p = h.credits.getD p 0 ∧ Tab.get 0 (e.link n).total p = h.credits.getD p 0) ∧
    (∀ k, k ≠ n → e.link k = d.link k) ∧
    OnlyFields [(F.PORT_STATE, fix n), (F.PARTNER_IDENTITY, fix n), (F.PARTNER_PORT, fix n), (F.PARTNER_VALID, fix n),
      (F.FAB_PORT_UP, [])] d e ∧ e.mem = d.mem ∧ e.cad = d.cad ∧ e.queues = d.queues := by
  subst he
  obtain ⟨g1, g2, g3, g4, g5, g6⟩ := partnerPut_reads d n h
  generalize d.partnerPut n h = s at *
  obtain ⟨rmem, rcad, rqueues, rlink⟩ := onlyRegs_rest g6
  obtain ⟨u1, u2, u3⟩ := updLink_reads s n fun l => { l with credits := helloCredits h, total := helloCredits h, unfreed := [] }
  generalize s.updLink n (fun l => { l with credits := helloCredits h, total := helloCredits h, unfreed := [] }) = s' at *
  have ho := fabEvent_only s' F.FAB_PORT_UP 0
  have hlink : ∀ k, (s'.fabEvent F.FAB_PORT_UP 0).link k = s'.link k := fun k => fabEvent_link _ _ _ k
  have hev : ∀ {g : Fld}, g ∈ portFields → (s'.fabEvent F.FAB_PORT_UP 0).get g (fix n) = s.get g (fix n) :=
    fun hg => (fabEvent_port _ _ _ (by decide) hg).trans (u3.get _ _)
  refine ⟨(hev (by decide)).trans g1, (hev (by decide)).trans g2, (hev (by decide)).trans g3, (hev (by decide)).trans g4,
    Dev.get_event_same _ _ _ _ (by decide) (by decide), fun p hp => ?_, fun k hk => ?_, ?_, ?_, ?_, ?_⟩
  · rw [hlink, u1]
    exact ⟨helloCredits_get h hp, helloCredits_get h hp⟩
  · exact ((hlink k).trans (u2 k hk)).trans (rlink k)
  · exact onlyFields_event _ _ _ (onlyFields_trans (onlyFields_mono (List.subset_append_left _ [(F.FAB_PORT_UP, [])]) g5) (onlyFields_of_regs u3.regs))
      (List.mem_append_right [(F.PORT_STATE, fix n), (F.PARTNER_IDENTITY, fix n), (F.PARTNER_PORT, fix n), (F.PARTNER_VALID, fix n)]
        (List.mem_singleton.mpr rfl))
  · exact (congrArg Dev.mem ho).trans ((congrArg Dev.mem u3).trans rmem)
  · exact (congrArg Dev.cad ho).trans ((congrArg Dev.cad u3).trans rcad)
  · exact (congrArg Dev.queues ho).trans ((congrArg Dev.queues u3).trans rqueues)

/-- Settles O52: each row's effect on its port, the loss of a port by what its end leaves. -/
theorem fabricPorts : Obligations.FabricPorts := by
  unfold Obligations.FabricPorts
  intro d n hp hn
  have ap : ∀ {f g : Fld}, f ∈ portFields → g ∈ portFields → f ≠ g → Fld.apart f (fix n) g (fix n) = true :=
    fun hf hg hne => portField_apart hf hg hne n
  intro st may ours hello
  have hmay : may = mayTrain d n := rfl
  refine ⟨fun signal => ?_, fun signal => ?_, fun hm hs hen => ?_, fun hs => ?_, fun hs => ?_, fun hr hm hs hen => ?_, fun h hs => ⟨fun hm => ?_, fun hm => ?_⟩,
    fun h t hs hd => ?_, fun hs => ?_, fun hs => ?_, ?_⟩
  · exact gives_of_onDev (·.portEnable n false signal) (fun _ => rfl) hp (portEnable_off hn signal)
  · refine gives_of_onDev (·.portEnable n true signal) (fun _ => rfl) hp ?_
    rw [portEnable_on hn, hmay]
    have hset : (d.put F.PORT_ENABLE (fix n) 1).get F.PORT_ENABLE (fix n) = 1 := Dev.get_put_fit _ (by decide) (by decide)
    by_cases hc : signal = true ∧ d.get F.PORT_STATE (fix n) = 0 ∧ mayTrain d n = true
    · rw [if_pos hc, if_pos hc]
      exact ⟨by rw [Dev.get_put_apart _ _ (ap (by decide) (by decide) (by decide)), hset], Dev.get_put_fit _ (by decide) (by decide),
        onlyFields_put _ (onlyFields_put _ (onlyFields_refl _ d) (by simp)) (by simp), onlyRegs_trans (onlyRegs_put ..) (onlyRegs_put ..)⟩
    · rw [if_neg hc, if_neg hc]
      exact ⟨hset, Dev.get_put_apart _ _ (ap (by decide) (by decide) (by decide)), onlyFields_put _ (onlyFields_refl _ d) (by simp), onlyRegs_put ..⟩
  · refine gives_of_onDev (·.portSignal n) (fun _ => rfl) hp ?_
    have he : d.portSignal n = d.put F.PORT_STATE (fix n) fpTRAIN :=
      if_pos ⟨hn, flag_of_one hen, hs, (mayTrain_iff d n).mpr hm⟩
    rw [he]
    exact ⟨Dev.get_put_fit _ (by decide) (by decide), onlyFields_put _ (onlyFields_refl _ d) (by simp), onlyRegs_put ..⟩
  · refine gives_of_onDev (·.portLock n) (fun _ => rfl) hp ?_
    rw [portLock_eq hn hs]
    obtain ⟨l1, l2, l3, l4⟩ := lockPut_reads d n
    generalize d.lockPut n = s at *
    obtain ⟨h1, h2⟩ := linkOut_talk s n (d.ownHello n)
    have hl : ∀ k, s.link k = d.link k := fun k => by rw [l4]; rfl
    exact ⟨(h2.get _ _).trans l1, (h2.get _ _).trans l2, ⟨by rw [h1.1, hl]; rfl, fun k hk => (h1.2 k hk).trans (hl k)⟩,
      onlyFields_trans l3 (onlyFields_of_regs h2.regs), by rw [h2, l4]⟩
  · refine gives_of_onDev (·.portTrainTimeout n) (fun _ => rfl) hp ?_
    have he : d.portTrainTimeout n = (d.fabDown n false).updLink n fun l => { l with retry := true } := if_pos ⟨hn, hs⟩
    rw [he]
    obtain ⟨f1, f2, f3⟩ := fabDown_downs d n
    generalize d.fabDown n false = s at *
    obtain ⟨p1, p2, p3, p4, p5, p6, p7, p8⟩ := f1.portDown f2
    obtain ⟨u1, u2, u3⟩ := updLink_reads s n fun l => { l with retry := true }
    refine ⟨⟨(u3.get _ _).trans p1, (u3.get _ _).trans p2, by rw [u1]; exact p3, by rw [u1]; exact p4, by rw [u1]; exact p5,
      fun m hm => (u2 m hm).trans (p6 m hm), fun h => (u3.get _ _).trans (p7 h), p8⟩, by rw [u1], f3.of_rest rfl rfl⟩
  · refine gives_of_onDev (·.portRetry n) (fun _ => rfl) hp ?_
    obtain ⟨u1, u2, u3⟩ := updLink_reads d n fun l => { l with retry := false }
    have he : d.portRetry n = (d.updLink n fun l => { l with retry := false }).put F.PORT_STATE (fix n) fpTRAIN := by
      refine (if_pos ⟨hn, hr⟩).trans (if_pos ⟨flag_of_one hen, hs, (mayTrain_iff d n).mpr hm⟩)
    rw [he]
    generalize d.updLink n (fun l => { l with retry := false }) = s at *
    exact ⟨Dev.get_put_fit _ (by decide) (by decide), u1, u2, onlyFields_put _ (onlyFields_of_regs u3.regs) (by simp), by rw [u3]; rfl⟩
  · refine gives_of_onDev (·.linkFlit n (.hello h)) (fun _ => rfl) hp ?_
    have he : d.linkFlit n (.hello h) = d.linkHello n h := if_neg (Nat.not_le.mpr hn)
    rw [he, linkHello_up hs hm]
    exact partnerUp_reads h _ rfl
  · refine gives_of_onDev (·.linkFlit n (.hello h)) (fun _ => rfl) hp ?_
    have he : d.linkFlit n (.hello h) = d.linkHello n h := if_neg (Nat.not_le.mpr hn)
    have hh : d.linkHello n h = d.put F.MODE_MISMATCH (fix n) 1 := (if_pos hs).trans (if_neg hm)
    rw [he, hh]
    exact ⟨Dev.get_put_fit _ (by decide) (by decide), onlyFields_put _ (onlyFields_refl _ d) (by simp), onlyRegs_put ..⟩
  · refine gives_of_onDev (·.linkFlit n (.hello h)) (fun _ => rfl) hp ?_
    have he : d.linkFlit n (.hello h) = d.linkHello n h := if_neg (Nat.not_le.mpr hn)
    have hh : d.linkHello n h = d.put F.PORT_DELAY (fix n) (min t 65535) := by
      rw [Dev.linkHello, if_neg (show ¬d.fabSt n = fpHELLO by rw [show d.fabSt n = 3 from hs]; decide), if_pos (show d.fabSt n = fpUP from hs), hd]
    rw [he, hh]
    exact ⟨Dev.get_put_fit _ (by decide) (lt_of_le_of_lt (min_le_right _ _) (by decide)), onlyFields_put _ (onlyFields_refl _ d) (by simp), onlyRegs_put ..⟩
  · refine gives_of_onDev (·.portHello n) (fun _ => rfl) hp ?_
    have he : d.portHello n = d.linkOut n (d.ownHello n) := if_pos (by simp [Dev.fabUp, Dev.fabSt, hn, show d.get F.PORT_STATE (fix n) = 3 from hs, fpUP])
    rw [he]
    exact ⟨(linkOut_talk d n _).1, rfl⟩
  · refine gives_of_onDev (·.portLost n) (fun _ => rfl) hp ?_
    have he : d.portLost n = (d.fabDown n false).report 0x47 (6 + n / 6) 0 none n 0 :=
      if_pos (by simp [Dev.fabUp, Dev.fabSt, hn, show d.get F.PORT_STATE (fix n) = 3 from hs, fpUP])
    rw [he]
    obtain ⟨f1, f2, f3⟩ := fabDown_downs d n
    exact ⟨portDown_report (f1.portDown f2) _ _ _ _ _ _, f3.of_rest rfl rfl, _, congrArg (· ++ _) f1.reports, rfl, rfl⟩
  · intro partner lost leaves
    have hlink : d.linkFlit n .unitLost = (d.fabDown n true).report 0x48 (6 + n / 6) 0 none n 0 := if_neg (Nat.not_le.mpr hn)
    refine ⟨fun hl => ⟨gives_of_onDev (·.linkFlit n .unitLost) (fun _ => rfl) hp ?_, fun f hf hk hw => ?_⟩, fun hl => ?_⟩
    · rw [hlink]
      exact partnerGone_link hl
    · refine gives_of_onDev (fun d => if wordAt f.data 0 = c0LOST then d.arriveKind 7 n f 0 else d) (fun _ => rfl) hp ?_
      obtain ⟨t1, t2⟩ := heardOn_talk d n
      have h1 : (2 * n + f.vc % 2) / 2 = n := by omega
      have h2 : (2 * n + f.vc % 2) / 12 = n / 6 := by omega
      have h3 : (heardOn d n).onCtrl0 (2 * n + f.vc % 2) f 0 = ((heardOn d n).fabDown n true).report 0x48 (6 + n / 6) 0 none n 0 := by
        rw [onCtrl0_lost hw (by omega), h1, h2]
      rw [if_pos hw, Dev.arriveKind, if_pos hk, hf.arrive, consume_ctrl0 hk hf.heldIn, h3]
      obtain ⟨t3, t4⟩ := freeInput_talk (((heardOn d n).fabDown n true).report 0x48 (6 + n / 6) 0 none n 0) f hn
      exact partnerGone_flit hl t1 t2 t3 t4
    · refine gives_of_onDev (·.linkFlit n .unitLost) (fun _ => rfl) hp ?_
      rw [hlink]
      obtain ⟨f1, f2, f3, f4, f5⟩ := fabDown_leaves hl
      exact ⟨f1, f2, f3, ⟨_, congrArg (· ++ _) f4, rfl, rfl⟩, f5⟩

end Sys2Proof
end

section
/-! SUPPORT. A port of the fabric that has one flit to send (16 R565, R566, R575). -/

namespace Sys2Proof

open Machine

/-! ### One waiting flit -/

theorem firstOfEach_one (cls : Nat) (w : Waiting) : firstOfEach cls [] [w] = if w.flit.cls = cls then [w] else [] := rfl

theorem sendable_one {s : Dev} {n : Nat} {w : Waiting} (hw : (s.link n).waiting = [w]) (cls : Nat) :
    s.sendable n cls = if w.flit.cls = cls ∧ s.mayGo n w = true then [w] else [] := by
  unfold Dev.sendable
  rw [hw, firstOfEach_one]
  by_cases h : w.flit.cls = cls
  · cases hg : s.mayGo n w
    · rw [if_pos h, if_neg (by simp), List.filter_cons_of_neg (by simp [hg]), List.filter_nil]
    · rw [if_pos h, if_pos ⟨h, rfl⟩, List.filter_cons_of_pos hg, List.filter_nil]
  · rw [if_neg h, if_neg fun x => h x.1]
    rfl

theorem nextInput_one (last : Nat) (w : Waiting) : nextInput last [w] = some w := by
  unfold nextInput
  by_cases h : last < w.input
  · simp [h]
  · simp [h]

/-- The three classes served in turn. -/
def classTurns (turn : Nat) : List Nat := [turn % 3 + 1, (turn + 1) % 3 + 1, (turn + 2) % 3 + 1]

theorem mem_classTurns {c : Nat} (h0 : c ≠ 0) (h4 : c < 4) (turn : Nat) : c ∈ classTurns turn := by
  simp only [classTurns, List.mem_cons, List.not_mem_nil, or_false]
  omega

theorem find_only {l : List Nat} {p : Nat → Bool} {c : Nat} (hc : c ∈ l) (hp : p c = true) (ho : ∀ x, p x = true → x = c) : l.find? p = some c := by
  cases h : l.find? p with
  | none => exact absurd hp (by simpa using List.find?_eq_none.mp h c hc)
  | some x => rw [ho x (List.find?_some h)]

/-- The class of the one flit that may go is served next. -/
theorem nextClass_one {s : Dev} {n : Nat} {w : Waiting} (hw : (s.link n).waiting = [w]) (hc : w.flit.cls < 4) (hg : s.mayGo n w = true) :
    ∃ left, s.nextClass n = some (w.flit.cls, left) := by
  have hs : ∀ c, s.sendable n c = if w.flit.cls = c then [w] else [] := fun c => by
    rw [sendable_one hw]
    exact if_congr (and_iff_left hg) rfl rfl
  have he : ∀ c, (!(s.sendable n c).isEmpty) = true ↔ c = w.flit.cls := fun c => by
    rw [hs]
    by_cases h : w.flit.cls = c
    · rw [if_pos h, h]
      exact iff_of_true rfl rfl
    · rw [if_neg h]
      exact iff_of_false (by decide) fun x => h x.symm
  unfold Dev.nextClass
  by_cases h0 : w.flit.cls = 0
  · rw [if_pos ((he 0).mpr h0.symm)]
    exact ⟨_, by rw [h0]⟩
  · rw [if_neg fun x => h0 ((he 0).mp x).symm]
    by_cases ht : (s.link n).left ≠ 0 ∧ !(s.sendable n (s.link n).turn).isEmpty
    · rw [if_pos ht]
      exact ⟨_, by rw [(he _).mp ht.2]⟩
    · rw [if_neg ht]
      have hf : (classTurns (s.link n).turn).find? (fun c => !(s.sendable n c).isEmpty) = some w.flit.cls :=
        find_only (mem_classTurns h0 hc _) ((he _).mpr rfl) fun x hx => (he x).mp hx
      exact ⟨_, congrArg (Option.map _) hf⟩

/-- A link that has sent a flit. -/
def sentLink (w : Waiting) (left : Nat) (l : Link) : Link :=
  { l with
    waiting := l.waiting.erase w
    credits := Tab.set 0 l.credits (pairOf w.flit.cls w.flit.vc) (Tab.get 0 l.credits (pairOf w.flit.cls w.flit.vc) - 1)
    unfreed := Tab.set [] l.unfreed (pairOf w.flit.cls w.flit.vc) (Tab.get [] l.unfreed (pairOf w.flit.cls w.flit.vc) ++ [w.part])
    replay := l.replay ++ [w.flit]
    turn := if w.flit.cls = 0 then l.turn else w.flit.cls
    left := left
    lastIn := Tab.set 0 l.lastIn w.flit.cls w.input }

theorem sendOne_one {s : Dev} {n : Nat} {w : Waiting} (hw : (s.link n).waiting = [w]) (hc : w.flit.cls < 4) (hg : s.mayGo n w = true) :
    ∃ left, s.sendOne n = (s.updLink n (sentLink w left)).freeInput w.input w.flit.cls := by
  obtain ⟨left, hn⟩ := nextClass_one hw hc hg
  have hs : s.sendable n w.flit.cls = [w] := by rw [sendable_one hw, if_pos ⟨rfl, hg⟩]
  refine ⟨left, ?_⟩
  unfold Dev.sendOne
  rw [hn]
  simp only [hs, nextInput_one]
  rfl

theorem nextClass_none {s : Dev} {n : Nat} (h : ∀ c, s.sendable n c = []) : s.nextClass n = none := by
  have he : ∀ c, ¬(!(s.sendable n c).isEmpty) = true := fun c => by rw [h]; decide
  have hf : (classTurns (s.link n).turn).find? (fun c => !(s.sendable n c).isEmpty) = none := List.find?_eq_none.mpr fun c _ => he c
  unfold Dev.nextClass
  rw [if_neg (he 0), if_neg fun x => he _ x.2]
  exact congrArg (Option.map _) hf

theorem drainPort_empty {s : Dev} {n : Nat} (h : (s.link n).waiting = []) : s.drainPort n = s := by
  unfold Dev.drainPort
  rw [h]
  exact ite_self _

theorem drainPort_one {s : Dev} {n : Nat} {w : Waiting} (hu : s.fabUp n = true) (hw : (s.link n).waiting = [w]) : s.drainPort n = s.sendOne n := by
  unfold Dev.drainPort
  rw [if_pos hu, hw]
  rfl

/-- A flit that may go leaves. -/
theorem drainPort_sends {s : Dev} {n : Nat} {w : Waiting} (hu : s.fabUp n = true) (hw : (s.link n).waiting = [w]) (hc : w.flit.cls < 4)
    (hg : s.mayGo n w = true) : ∃ left, s.drainPort n = (s.updLink n (sentLink w left)).freeInput w.input w.flit.cls := by
  rw [drainPort_one hu hw]
  exact sendOne_one hw hc hg

/-- One that may not stays. -/
theorem drainPort_stays {s : Dev} {n : Nat} {w : Waiting} (hu : s.fabUp n = true) (hw : (s.link n).waiting = [w]) (hg : s.mayGo n w = false) :
    s.drainPort n = s := by
  rw [drainPort_one hu hw]
  unfold Dev.sendOne
  rw [nextClass_none fun c => by rw [sendable_one hw, if_neg fun x => by simp [hg] at x]]

/-- A flit no partition is charged for may go when it has a credit and room in the replay buffer. -/
theorem mayGo_free {s : Dev} {n : Nat} {w : Waiting} (hw : w.part = 64) :
    s.mayGo n w = true ↔ 0 < Tab.get 0 (s.link n).credits (pairOf w.flit.cls w.flit.vc) ∧ (s.link n).replay.length < 8192 := by
  have hr : replayFlits = 8192 := by decide
  simp [Dev.mayGo, hw, hr]

/-! ### Returned credits -/

/-- The credits of a LINK flit put back. -/
def credited (pairs : List (Nat × Nat)) (l : Link) : Link :=
  pairs.foldl (fun l x => { l with
    credits := Tab.set 0 l.credits x.1 (Tab.get 0 l.credits x.1 + x.2)
    unfreed := Tab.set [] l.unfreed x.1 ((Tab.get [] l.unfreed x.1).drop x.2) }) l

theorem credited_reads (pairs : List (Nat × Nat)) (l : Link) :
    (∀ p, Tab.get 0 (credited pairs l).credits p = Tab.get 0 l.credits p + ((pairs.filter fun x => x.1 == p).map (·.2)).sum) ∧
    (credited pairs l).replay = l.replay ∧ (credited pairs l).waiting = l.waiting := by
  induction pairs generalizing l with
  | nil => exact ⟨fun p => rfl, rfl, rfl⟩
  | cons x t ih =>
    obtain ⟨h1, h2, h3⟩ := ih { l with
      credits := Tab.set 0 l.credits x.1 (Tab.get 0 l.credits x.1 + x.2)
      unfreed := Tab.set [] l.unfreed x.1 ((Tab.get [] l.unfreed x.1).drop x.2) }
    refine ⟨fun p => (h1 p).trans ?_, h2, h3⟩
    rw [Tab.get_set]
    by_cases hp : p = x.1
    · rw [if_pos hp, List.filter_cons_of_pos (by simp [hp]), List.map_cons, List.sum_cons, hp]
      omega
    · rw [if_neg hp, List.filter_cons_of_neg (by simpa using fun h => hp h.symm)]

/-- Credits come back to an UP port that has nothing waiting. -/
theorem linkCredit_reads {d : Dev} {n : Nat} (hu : d.fabUp n = true) (hw : (d.link n).waiting = []) (pairs : List (Nat × Nat)) (acked : Nat) :
    (∀ p, Tab.get 0 ((d.linkCredit n pairs acked).link n).credits p =
      Tab.get 0 (d.link n).credits p + ((pairs.filter fun x => x.1 == p).map (·.2)).sum) ∧
    ((d.linkCredit n pairs acked).link n).replay = (d.link n).replay.drop acked ∧
    (∀ k, k ≠ n → (d.linkCredit n pairs acked).link k = d.link k) ∧ OnlyLinks d (d.linkCredit n pairs acked) := by
  obtain ⟨u1, u2, u3⟩ := updLink_reads d n fun l =>
    credited pairs { l with replay := l.replay.drop acked, replays := if acked = 0 then l.replays else 0 }
  obtain ⟨c1, c2, c3⟩ := credited_reads pairs
    { d.link n with replay := (d.link n).replay.drop acked, replays := if acked = 0 then (d.link n).replays else 0 }
  have he : d.linkCredit n pairs acked = (d.updLink n fun l =>
      credited pairs { l with replay := l.replay.drop acked, replays := if acked = 0 then l.replays else 0 }).drainPort n := by
    rw [Dev.linkCredit, if_neg (by simp [hu])]
    rfl
  rw [he, drainPort_empty (by rw [u1, c3]; exact hw), u1]
  exact ⟨c1, c2, u2, u3⟩

end Sys2Proof
end

section
/-! SUPPORT. Flits that are routed on (16 R569 to R574). -/

namespace Sys2Proof

open Machine

/-! ### The route entry -/

/-- Only the samples of pair-generation blocks changed. -/
def OnlyPairs (a b : Dev) : Prop := b = { a with pairs := b.pairs }

/-- The two words of the entry toward an identity. -/
def entryWords (s : Dev) (dst : Nat) : List Word := (List.range 2).map fun i => s.reg (s.routeOff dst + 4 * i)

theorem routeEntry_eq (s : Dev) (dst : Nat) :
    s.routeEntry dst =
      if (routeGen (entryWords s dst)).1 = (routeGen (entryWords s dst)).2 then
        (wordAt (entryWords s dst) 0, wordAt (entryWords s dst) 1, { s with pairs := Tab.set [] s.pairs (s.routeOff dst) (entryWords s dst) })
      else (wordAt (Tab.get [] s.pairs (s.routeOff dst)) 0, wordAt (Tab.get [] s.pairs (s.routeOff dst)) 1, s) := by
  have h : runAct (samplePair (s.routeOff dst) 2 routeGen) s =
      if (routeGen (entryWords s dst)).1 = (routeGen (entryWords s dst)).2 then
        (.ok (entryWords s dst), { s with pairs := Tab.set [] s.pairs (s.routeOff dst) (entryWords s dst) })
      else (.ok (Tab.get [] s.pairs (s.routeOff dst)), s) := by
    by_cases hg : (routeGen (entryWords s dst)).1 = (routeGen (entryWords s dst)).2
    · rw [if_pos hg]
      refine runAct_ok.mpr ?_
      change (if (routeGen (entryWords s dst)).1 = (routeGen (entryWords s dst)).2 then (_ : Act (List Word)) else _) s = _
      rw [if_pos hg]
      rfl
    · rw [if_neg hg]
      refine runAct_ok.mpr ?_
      change (if (routeGen (entryWords s dst)).1 = (routeGen (entryWords s dst)).2 then (_ : Act (List Word)) else _) s = _
      rw [if_neg hg]
      rfl
  unfold Dev.routeEntry
  simp only [h]
  by_cases hg : (routeGen (entryWords s dst)).1 = (routeGen (entryWords s dst)).2
  · simp only [if_pos hg]
  · simp only [if_neg hg]

theorem routeEntry_only (s : Dev) (dst : Nat) : OnlyPairs s (s.routeEntry dst).2.2 := by
  rw [routeEntry_eq]
  exact iteInduction (motive := fun x : Nat × Nat × Dev => OnlyPairs s x.2.2) (fun _ => rfl) fun _ => rfl

theorem routeOff_congr {a b : Dev} (h : b.regs = a.regs) (dst : Nat) : b.routeOff dst = a.routeOff dst := by
  unfold Dev.routeOff
  rw [Dev.get_eq, Dev.get_eq, h, ← Dev.get_eq, ← Dev.get_eq]

theorem routeEntry_congr {a b : Dev} (h : b.regs = a.regs) (hp : b.pairs = a.pairs) (dst : Nat) :
    (b.routeEntry dst).1 = (a.routeEntry dst).1 ∧ (b.routeEntry dst).2.1 = (a.routeEntry dst).2.1 := by
  have hw : entryWords b dst = entryWords a dst := by simp only [entryWords, routeOff_congr h, Dev.reg, h]
  rw [routeEntry_eq, routeEntry_eq, hw, hp, routeOff_congr h]
  by_cases hg : (routeGen (entryWords a dst)).1 = (routeGen (entryWords a dst)).2
  · rw [if_pos hg, if_pos hg]
    exact ⟨rfl, rfl⟩
  · rw [if_neg hg, if_neg hg]
    exact ⟨rfl, rfl⟩

/-! ### The port of a flow -/

theorem portState_congr {a b : Dev} (h : b.regs = a.regs) (n : Nat) : b.get F.PORT_STATE (fix n) = a.get F.PORT_STATE (fix n) := by
  rw [Dev.get_eq, h, ← Dev.get_eq]

theorem fabUp_congr {a b : Dev} (h : b.regs = a.regs) (n : Nat) : b.fabUp n = a.fabUp n := by
  unfold Dev.fabUp Dev.fabSt
  rw [portState_congr h]

theorem fabUp_iff {s : Dev} {n : Nat} : s.fabUp n = true ↔ n < 12 ∧ s.get F.PORT_STATE (fix n) = 3 := by
  simp [Dev.fabUp, Dev.fabSt, fpUP]

/-- The ports of a mask that are UP. -/
def upPorts (s : Dev) (mask : Nat) : List Nat := (List.range 12).filter fun n => bitAt mask n && s.fabUp n

theorem mem_upPorts {s : Dev} {mask n : Nat} : n ∈ upPorts s mask ↔ bitAt mask n = true ∧ n < 12 ∧ s.get F.PORT_STATE (fix n) = 3 := by
  simp only [upPorts, List.mem_filter, List.mem_range, Bool.and_eq_true, fabUp_iff]
  tauto

theorem spread_eq (s : Dev) (mask flow : Nat) : s.spread mask flow = (upPorts s mask)[Config.flowHash flow % (upPorts s mask).length]? := rfl

theorem spread_congr {a b : Dev} (h : b.regs = a.regs) (mask flow : Nat) : b.spread mask flow = a.spread mask flow := by
  simp only [spread_eq, upPorts, fabUp_congr h]

theorem spread_none {s : Dev} {mask : Nat} (h : ∀ m < 12, bitAt mask m = true → s.get F.PORT_STATE (fix m) ≠ 3) (flow : Nat) :
    s.spread mask flow = none := by
  have he : upPorts s mask = [] := List.eq_nil_iff_forall_not_mem.mpr fun m hm => by
    obtain ⟨h1, h2, h3⟩ := mem_upPorts.mp hm
    exact h m h2 h1 h3
  rw [spread_eq, he]
  rfl

theorem spread_mem {s : Dev} {mask flow m : Nat} (h : s.spread mask flow = some m) : bitAt mask m = true ∧ m < 12 ∧ s.get F.PORT_STATE (fix m) = 3 :=
  mem_upPorts.mp (List.mem_of_getElem? h)

theorem spread_single {s : Dev} {p : Nat} (hp : p < 12) (hs : s.get F.PORT_STATE (fix p) = 3) (flow : Nat) : s.spread (2 ^ p) flow = some p := by
  have hb : ∀ n, bitAt (2 ^ p) n = true ↔ n = p := fun n => by
    rw [bitAt_eq_testBit, Nat.testBit_two_pow]
    simp [eq_comm]
  have hm : ∀ n, n ∈ upPorts s (2 ^ p) ↔ n = p := fun n => by
    rw [mem_upPorts, hb]
    exact ⟨fun h => h.1, fun h => by rw [h]; exact ⟨rfl, hp, hs⟩⟩
  have hn : (upPorts s (2 ^ p)).Nodup := List.nodup_range.filter _
  have he : upPorts s (2 ^ p) = [p] := by
    refine List.perm_singleton.mp ((List.perm_ext_iff_of_nodup hn (List.nodup_singleton p)).mpr fun n => ?_)
    rw [hm, List.mem_singleton]
  rw [spread_eq, he, List.length_singleton, Nat.mod_one]
  rfl

/-! ### Routing on -/

/-- A flit without a way on is dropped, its buffer free again. -/
def Machine.Dev.noRoute (s : Dev) (input : Nat) (f : Flit) : Dev := (s.count F.NO_ROUTE_COUNT).freeInput input f.cls

/-- A flit that leaves by the port it came on is counted. -/
def Machine.Dev.turned (s : Dev) (input m : Nat) : Dev := if input / 2 = m ∧ input < 24 then s.count F.MISROUTE_COUNT else s

/-- The port on which a message of this unit leaves is noted. -/
def Machine.Dev.leavesOn (s : Dev) (input m : Nat) (f : Flit) : Dev :=
  if input = 24 then { s with fab := { s.fab with outMsgs := s.fab.outMsgs.map fun o => if o.tag = f.msg ∧ o.kind = f.kind then { o with port := m } else o } }
  else s

/-- The flit as it goes on. -/
def passedFlit (s : Dev) (a b input stay : Nat) (f : Flit) : Flit :=
  { (if input < 24 then s.passTick (input / 2) stay f else f) with
    vc := outVc a b (input % 2) (if input < 24 then some (s.get F.PORT_DIM (fix (input / 2))) else none) }

/-- It waits at its port, and the port sends what it can. -/
def Machine.Dev.queueOn (s : Dev) (m : Nat) (w : Waiting) : Dev := (s.updLink m fun l => { l with waiting := l.waiting ++ [w] }).drainPort m

theorem routeOn_address {s : Dev} {f : Flit} (h : f.dst % 128 = 0 ∨ f.dst % 128 = 127) (input stay : Nat) :
    s.routeOn input f stay = s.noRoute input f := if_pos h

/-- The port that the entry gives a flit. -/
def nextPort (s : Dev) (input : Nat) (f : Flit) : Option Nat :=
  (s.routeEntry f.dst).2.2.spread ((s.routeEntry f.dst).2.2.flitMask (bitsOf (s.routeEntry f.dst).1 0 12) input f) (flowOf f.src f.dst f.dstPart f.cls)

theorem routeOn_none {s : Dev} {f : Flit} {input : Nat} (h : ¬(f.dst % 128 = 0 ∨ f.dst % 128 = 127)) (hn : nextPort s input f = none) (stay : Nat) :
    s.routeOn input f stay = (s.routeEntry f.dst).2.2.noRoute input f := by
  unfold Dev.routeOn
  unfold nextPort at hn
  rw [if_neg h]
  generalize s.routeEntry f.dst = r at hn ⊢
  obtain ⟨a, b, s'⟩ := r
  simp only at hn
  simp only [hn]
  rfl

theorem routeOn_some {s : Dev} {f : Flit} {input m : Nat} (h : ¬(f.dst % 128 = 0 ∨ f.dst % 128 = 127)) (hn : nextPort s input f = some m) (stay : Nat)
    (he : (((s.routeEntry f.dst).2.2.turned input m).leavesOn input m f).encapPort m = false) :
    s.routeOn input f stay = (((s.routeEntry f.dst).2.2.turned input m).leavesOn input m f).queueOn m
      ⟨input, if input = 24 ∧ f.charged then f.srcPart else 64, passedFlit (s.routeEntry f.dst).2.2 (s.routeEntry f.dst).1 (s.routeEntry f.dst).2.1 input stay f⟩ := by
  unfold Dev.routeOn
  unfold nextPort at hn
  rw [if_neg h]
  generalize s.routeEntry f.dst = r at hn he ⊢
  obtain ⟨a, b, s'⟩ := r
  simp only at hn he
  simp only [hn]
  exact if_neg (by rw [← Bool.not_eq_true] at he; exact he)

end Sys2Proof
end

section
/-! SUPPORT. What a flit that is routed on leaves (16 R563 to R574). -/

namespace Sys2Proof

open Machine

/-! ### What the switch touches -/

/-- Only registers, samples and the fabric's links changed. -/
def OnlySwitch (a b : Dev) : Prop := b = { a with regs := b.regs, pairs := b.pairs, fab := { a.fab with links := b.fab.links } }

theorem onlySwitch_trans {a b c : Dev} (h : OnlySwitch a b) (h' : OnlySwitch b c) : OnlySwitch a c := by
  unfold OnlySwitch at *
  rw [h] at h'
  exact h'

theorem OnlyLinks.switch {a b : Dev} (h : OnlyLinks a b) : OnlySwitch a b := by
  unfold OnlySwitch
  rw [h]

theorem OnlyPairs.switch {a b : Dev} (h : OnlyPairs a b) : OnlySwitch a b := by
  unfold OnlySwitch
  rw [h]

theorem OnlyRegs.switch {a b : Dev} (h : OnlyRegs a b) : OnlySwitch a b := by
  unfold OnlySwitch
  rw [h]

theorem OnlySwitch.quiet {a b : Dev} (h : OnlySwitch a b) :
    b.mem = a.mem ∧ b.cad = a.cad ∧ b.queues = a.queues ∧ b.fab.inject = a.fab.inject := by
  rw [h]
  exact ⟨rfl, rfl, rfl, rfl⟩

theorem OnlyPairs.regs {a b : Dev} (h : OnlyPairs a b) : b.regs = a.regs := by rw [h]

theorem link_of_fab {a b : Dev} (h : b.fab = a.fab) (k : Nat) : b.link k = a.link k := by
  unfold Dev.link
  rw [h]

theorem OnlyPairs.fab {a b : Dev} (h : OnlyPairs a b) : b.fab = a.fab := by rw [h]

/-! ### LINK flits sent one after another -/

theorem linkTalk_trans {n : Nat} {l l' : List LinkMsg} {a b c : Dev} (h : LinkTalk n l a b) (h' : LinkTalk n l' b c) : LinkTalk n (l ++ l') a c := by
  refine ⟨?_, fun k hk => (h'.2 k hk).trans (h.2 k hk)⟩
  rw [h'.1, h.1, List.append_assoc]

theorem linkTalk_of_fab {n : Nat} {a b : Dev} (h : b.fab = a.fab) : LinkTalk n [] a b :=
  ⟨by rw [link_of_fab h, List.append_nil], fun k _ => link_of_fab h k⟩

/-- Sending on a link leaves what waits there, what it may resend and its credits. -/
theorem LinkTalk.still {n : Nat} {l : List LinkMsg} {a b : Dev} (h : LinkTalk n l a b) (k : Nat) :
    (b.link k).replay = (a.link k).replay ∧ (b.link k).waiting = (a.link k).waiting ∧ (b.link k).credits = (a.link k).credits := by
  by_cases hk : k = n
  · subst hk
    rw [h.1]
    exact ⟨rfl, rfl, rfl⟩
  · rw [h.2 k hk]
    exact ⟨rfl, rfl, rfl⟩

theorem encapPort_congr {a b : Dev} {n : Nat} (h : b.get F.PORT_MODE (fix n) = a.get F.PORT_MODE (fix n)) : b.encapPort n = a.encapPort n := by
  unfold Dev.encapPort
  rw [h]

theorem creditBack_congr {a b : Dev} {n : Nat} (h : b.get F.PORT_MODE (fix n) = a.get F.PORT_MODE (fix n)) (f : Flit) :
    creditBack b n f = creditBack a n f := by
  unfold creditBack
  rw [encapPort_congr h]

/-! ### Dropped flits -/

/-- The fabric's own counters, apart from a port's registers. -/
theorem count_port (s : Dev) {f g : Fld} (n : Nat) (hf : f.off [] ≠ g.off (fix n)) : (s.count f).get g (fix n) = s.get g (fix n) :=
  Dev.get_put_ne _ _ _ _ _ _ hf.symm

theorem fabCount_off {f g : Fld} (hf : 0x3E10000 ≤ f.off [] ∧ f.off [] < 0x3E20000) (hg : g ∈ portFields ∨ g = F.PORT_DIM) (n : Nat) :
    f.off [] ≠ g.off (fix n) := by
  have h : g.off (fix n) = g.base + 0x100000 * (n / 6) + 0x400 * (n % 6) ∧ 0x3E01000 ≤ g.base ∧ g.base ≤ 0x3E01020 := by
    rcases hg with hg | rfl
    · obtain ⟨h1, h2, h3, -⟩ := portField_off hg n
      exact ⟨h1, h2, h3.trans (by decide)⟩
    · exact ⟨by simp [Fld.off, fix, Nat.add_assoc], by decide⟩
  obtain ⟨h1, h2, h3⟩ := h
  rw [h1]
  omega

/-- A flit dropped after its receipt was acknowledged: `s` is the unit then. -/
theorem dropped_reads {d s : Dev} {n : Nat} {f : Flit} {c : Fld} {l : List LinkMsg} (hn : n < 12) (hc : 0x3E10000 ≤ c.off [] ∧ c.off [] < 0x3E20000)
    (hw : c.lo + c.w ≤ 32) (h32 : c.w = 32) (hl : LinkTalk n l d s) (hr : s.regs = d.regs) (hs : OnlySwitch d s) :
    ((s.count c).freeInput (2 * n + f.vc % 2) f.cls).get c = min (d.get c + 1) (2 ^ 32 - 1) ∧
    LinkTalk n (l ++ creditBack d n f) d ((s.count c).freeInput (2 * n + f.vc % 2) f.cls) ∧
    OnlyFields [(c, [])] d ((s.count c).freeInput (2 * n + f.vc % 2) f.cls) ∧
    OnlySwitch d ((s.count c).freeInput (2 * n + f.vc % 2) f.cls) ∧
    OnlyLinks (s.count c) ((s.count c).freeInput (2 * n + f.vc % 2) f.cls) := by
  obtain ⟨t1, t2⟩ := freeInput_talk (s.count c) f hn
  have hg : ∀ (g : Fld) (ix : List Nat), s.get g ix = d.get g ix := fun g ix => by rw [Dev.get_eq, hr, ← Dev.get_eq]
  have hm : (s.count c).get F.PORT_MODE (fix n) = d.get F.PORT_MODE (fix n) :=
    (count_port s n (fabCount_off hc (.inl (by decide)) n)).trans (hg _ _)
  rw [creditBack_congr hm] at t1
  have hcount : LinkTalk n [] s (s.count c) := linkTalk_of_fab (Dev.count_fab s c [])
  refine ⟨?_, ?_, ?_, onlySwitch_trans hs (onlySwitch_trans (onlyRegs_count s c []).switch t2.switch), t2⟩
  · rw [t2.get, get_count_fit s hw h32, hg]
  · have h := linkTalk_trans (linkTalk_trans hl hcount) t1
    rwa [List.append_nil] at h
  · exact onlyFields_trans (onlyFields_count (onlyFields_of_regs hr) (List.mem_singleton.mpr rfl)) (onlyFields_of_regs t2.regs)

/-! ### Flits for others -/

/-- A flit for another unit is routed on once its receipt is acknowledged. -/
theorem FlitTaken.routed {d : Dev} {n : Nat} {f : Flit} (h : FlitTaken d n f) (ho : ¬(d.get F.CHAIN_ADDR ≠ 0 ∧ f.dst = d.ident)) (stay : Nat) :
    d.flitRoute n f stay = (heardOn d n).routeOn (2 * n + f.vc % 2) f stay := by
  have hl := (heardOn_talk d n).2
  have hi : (heardOn d n).ident = d.ident := by simp only [Dev.ident, hl.get]
  rw [Dev.flitRoute, if_pos h.2.1, h.arrive, Dev.place]
  refine if_neg ?_
  simpa [Dev.isMine, hl.get, hi] using ho

theorem flitMask_in {s : Dev} {input : Nat} (h : input ≠ 24) (mask : Nat) (f : Flit) : s.flitMask mask input f = mask := by
  rw [Dev.flitMask, if_neg fun x => h x.1, if_neg fun x => h x.1]

/-- The port that a flit from a link goes to, by the entry of the unit it came to. -/
theorem nextPort_in {d s : Dev} {input : Nat} (hi : input ≠ 24) (hr : s.regs = d.regs) (hp : s.pairs = d.pairs) (f : Flit) :
    nextPort s input f = d.spread (bitsOf (d.routeEntry f.dst).1 0 12) (flowOf f.src f.dst f.dstPart f.cls) := by
  unfold nextPort
  rw [flitMask_in hi, (routeEntry_congr hr hp f.dst).1]
  exact spread_congr ((routeEntry_only s f.dst).regs.trans hr) _ _

theorem heardOn_rest (d : Dev) (n : Nat) : (heardOn d n).regs = d.regs ∧ (heardOn d n).pairs = d.pairs := ⟨rfl, rfl⟩

/-- A flit without a way on. -/
theorem routed_none {d : Dev} {n : Nat} {f : Flit} (ht : FlitTaken d n f)
    (h : f.dst % 128 = 0 ∨ f.dst % 128 = 127 ∨ ∀ m < 12, bitAt (bitsOf (d.routeEntry f.dst).1 0 12) m = true → d.get F.PORT_STATE (fix m) ≠ 3) (stay : Nat) :
    ∃ s, OnlyPairs (heardOn d n) s ∧ (heardOn d n).routeOn (2 * n + f.vc % 2) f stay = s.noRoute (2 * n + f.vc % 2) f := by
  by_cases ha : f.dst % 128 = 0 ∨ f.dst % 128 = 127
  · exact ⟨heardOn d n, rfl, routeOn_address ha _ _⟩
  · refine ⟨_, routeEntry_only _ _, routeOn_none ha ?_ stay⟩
    have hn := ht.2.1
    have hm : ∀ m < 12, bitAt (bitsOf (d.routeEntry f.dst).1 0 12) m = true → d.get F.PORT_STATE (fix m) ≠ 3 := by tauto
    rw [nextPort_in (by omega) (heardOn_rest d n).1 (heardOn_rest d n).2]
    exact spread_none hm _

/-! ### Flits sent -/

/-- A port that had nothing waiting sends the flit put there, or keeps it. -/
theorem queueOn_reads {s : Dev} {m : Nat} {w : Waiting} (hu : s.fabUp m = true) (hw : (s.link m).waiting = []) (hc : w.flit.cls < 4) (hp : w.part = 64) :
    (0 < Tab.get 0 (s.link m).credits (pairOf w.flit.cls w.flit.vc) → (s.link m).replay.length < 8192 →
      ∃ s4, s.queueOn m w = s4.freeInput w.input w.flit.cls ∧ OnlyLinks s s4 ∧ (∀ k, k ≠ m → s4.link k = s.link k) ∧
        (s4.link m).replay = (s.link m).replay ++ [w.flit] ∧ (s4.link m).waiting = [] ∧ (s4.link m).out = (s.link m).out ∧
        Tab.get 0 (s4.link m).credits (pairOf w.flit.cls w.flit.vc) = Tab.get 0 (s.link m).credits (pairOf w.flit.cls w.flit.vc) - 1 ∧
        ∀ p, p ≠ pairOf w.flit.cls w.flit.vc → Tab.get 0 (s4.link m).credits p = Tab.get 0 (s.link m).credits p) ∧
    (Tab.get 0 (s.link m).credits (pairOf w.flit.cls w.flit.vc) = 0 ∨ 8192 ≤ (s.link m).replay.length →
      OnlyLinks s (s.queueOn m w) ∧ (∀ k, k ≠ m → (s.queueOn m w).link k = s.link k) ∧
        (s.queueOn m w).link m = { s.link m with waiting := [w] }) := by
  obtain ⟨u1, u2, u3⟩ := updLink_reads s m fun l => { l with waiting := l.waiting ++ [w] }
  unfold Dev.queueOn
  rw [hw, List.nil_append] at u1
  generalize s.updLink m (fun l => { l with waiting := l.waiting ++ [w] }) = s3 at *
  have hu3 : s3.fabUp m = true := (fabUp_congr u3.regs m).trans hu
  have hw3 : (s3.link m).waiting = [w] := by rw [u1]
  have hgo := mayGo_free (s := s3) (n := m) hp
  rw [u1] at hgo
  refine ⟨fun hcr hr => ?_, fun h => ?_⟩
  · obtain ⟨left, hd⟩ := drainPort_sends hu3 hw3 hc (hgo.mpr ⟨hcr, hr⟩)
    obtain ⟨v1, v2, v3⟩ := updLink_reads s3 m (sentLink w left)
    rw [u1] at v1
    refine ⟨_, hd, onlyLinks_trans u3 v3, fun k hk => (v2 k hk).trans (u2 k hk), ?_, ?_, ?_, ?_, fun p hp => ?_⟩
    · rw [v1]
      rfl
    · rw [v1]
      simp [sentLink]
    · rw [v1]
      rfl
    · rw [v1, sentLink, Tab.get_set, if_pos rfl]
    · rw [v1, sentLink, Tab.get_set, if_neg hp]
  · have hg : s3.mayGo m w = false := by
      rw [← Bool.not_eq_true, hgo]
      rintro ⟨h1, h2⟩
      rcases h with h | h
      · exact absurd (show 0 < Tab.get 0 (s.link m).credits _ from h1) (by omega)
      · exact absurd (show (s.link m).replay.length < 8192 from h2) (by omega)
    rw [drainPort_stays hu3 hw3 hg]
    exact ⟨u3, u2, u1⟩

end Sys2Proof
end

section
/-! SUPPORT. Flits routed, held for credit or dropped, and the link layer: the statement (16 R563 to R566, R569 to R574, R603). -/

namespace Sys2Proof

open Machine

/-! ### A flit that arrives is bad -/

theorem flitRoute_port {d : Dev} {n : Nat} (hn : n < 12) (f : Flit) (stay : Nat) : d.flitRoute n f stay = d.arrive n f stay := if_pos hn

theorem arrive_badCrc {d : Dev} {n : Nat} {f : Flit} (hu : d.fabUp n = true) (hc : f.crcOk = false) (stay : Nat) :
    d.arrive n f stay = (d.linkOut n .nak).report 0x46 (6 + n / 6) 0 none n 0 := by
  rw [Dev.arrive, if_neg (by simp [hu]), if_pos (by simp [hc])]

theorem arrive_badKind {d : Dev} {n : Nat} {f : Flit} (hu : d.fabUp n = true) (hc : f.crcOk = true) (hw : f.wellKind = false) (stay : Nat) :
    d.arrive n f stay = ((heardOn d n).count F.FAB_FORMAT_COUNT).freeInput (2 * n + f.vc % 2) f.cls := by
  rw [Dev.arrive, if_neg (by simp [hu]), if_neg (by simp [hc])]
  exact if_pos (by simp [hw])

/-! ### NAK -/

theorem linkNak_replay {d : Dev} {n : Nat} (hu : d.fabUp n = true) (hr : (d.link n).replay ≠ []) :
    d.linkNak n =
      if 15 ≤ (d.link n).replays then
        (((d.count F.REPLAY_COUNT (fix n)).updLink n fun l => { l with replays := l.replays + 1 }).fabDown n false).report 0x47 (6 + n / 6) 0 none n 0
      else (d.count F.REPLAY_COUNT (fix n)).updLink n fun l => { l with replays := l.replays + 1 } := by
  obtain ⟨u1, -, -⟩ := updLink_reads (d.count F.REPLAY_COUNT (fix n)) n fun l => { l with replays := l.replays + 1 }
  rw [Dev.linkNak, if_neg (by simp [hu, hr])]
  refine ite_congr ?_ (fun _ => rfl) fun _ => rfl
  rw [u1, link_of_fab (Dev.count_fab d _ _)]
  simp

/-- A port's REPLAY_COUNT is apart from its state. -/
theorem replayCount_apart (n : Nat) : Fld.apart F.REPLAY_COUNT (fix n) F.PORT_STATE (fix n) = true := by
  refine apart_of_off ?_ (by decide)
  simp [Fld.off, fix]

/-- The port goes DOWN at the sixteenth replay. -/
theorem portDown_counted {d s e : Dev} {n : Nat} (hs : s.get F.PORT_STATE (fix n) = d.get F.PORT_STATE (fix n))
    (hl : ∀ k, k ≠ n → s.link k = d.link k) (ho : OnlySwitch d s) (h : PortDown n s e) : PortDown n d e := by
  obtain ⟨h1, h2, h3, h4, h5, h6, h7, h8, h9, h10, h11⟩ := h
  have hf : s.fab.inMsgs = d.fab.inMsgs ∧ s.fab.inject = d.fab.inject ∧ s.mem = d.mem ∧ s.cad = d.cad := by
    rw [ho]
    exact ⟨rfl, rfl, rfl, rfl⟩
  obtain ⟨f1, f2, f3, f4⟩ := hf
  exact ⟨h1, h2, h3, h4, h5, fun m hm => (h6 m hm).trans (hl m hm), fun h => h7 (by rw [hs]; exact h), h8.trans (by rw [f1]),
    h9.trans f2, h10.trans f3, h11.trans f4⟩

theorem messagesEnd_switch {d s e : Dev} {p : OutMsg → Bool} {detail : Nat} (ho : OnlySwitch d s) (h : MessagesEnd p detail s e) :
    MessagesEnd p detail d e := by
  have hf : s.fab.outMsgs = d.fab.outMsgs ∧ s.queues = d.queues := by
    rw [ho]
    exact ⟨rfl, rfl⟩
  obtain ⟨f1, f2⟩ := hf
  refine ⟨h.1.trans (by rw [f1]), fun m hm hp hmute c hc hf => ?_⟩
  exact h.2 m (by rw [f1]; exact hm) hp hmute c ((cmdOf_congr (queue_congr f2 _)).trans hc) hf

/-! ### A flit that goes on -/

theorem outVc_eq (a b v dim0 : Nat) :
    outVc a b v (some dim0) = if bitAt b 3 = true ∨ (v = 1 ∧ dim0 = bitsOf b 0 3 ∧ bitsOf b 0 3 ≠ 7) then 1 else bitsOf a 12 1 := by
  unfold outVc
  refine if_congr ?_ rfl rfl
  simp [and_assoc]

theorem outVc_own (a b v : Nat) : outVc a b v none = if bitAt b 3 = true then 1 else bitsOf a 12 1 := by
  unfold outVc
  refine if_congr ?_ rfl rfl
  simp

/-- A flit from a link as it goes on: its VC, and a TICK's delay. -/
theorem passedFlit_in {s : Dev} {n v : Nat} (hn : n < 12) (hv : v < 2) (a b stay : Nat) (f : Flit) :
    passedFlit s a b (2 * n + v) stay f =
      { f with
        vc := if bitAt b 3 = true ∨ (v = 1 ∧ s.get F.PORT_DIM (fix n) = bitsOf b 0 3 ∧ bitsOf b 0 3 ≠ 7) then 1 else bitsOf a 12 1
        data := if f.kind = 7 ∧ wordAt f.data 0 = tyTick then
            ctrl0Words tyTick { TickMsg.ofWords (f.data.drop 1) with
              delay := min ((TickMsg.ofWords (f.data.drop 1)).delay + s.get F.PORT_DELAY (fix n) + stay) (2 ^ 24 - 1) : TickMsg }.toWords
          else f.data } := by
  have h1 : (2 * n + v) / 2 = n := by omega
  have h2 : (2 * n + v) % 2 = v := by omega
  have h3 : 2 * n + v < 24 := by omega
  rw [passedFlit, if_pos h3, if_pos h3, h1, h2, outVc_eq, Dev.passTick]
  by_cases ht : f.kind = 7 ∧ wordAt f.data 0 = tyTick
  · rw [if_pos ht, if_pos ht]
  · rw [if_neg ht, if_neg ht]

theorem turned_reads (s : Dev) {n v : Nat} (hn : n < 12) (hv : v < 2) (m : Nat) :
    (s.turned (2 * n + v) m).get F.MISROUTE_COUNT = (if m = n then min (s.get F.MISROUTE_COUNT + 1) (2 ^ 32 - 1) else s.get F.MISROUTE_COUNT) ∧
    OnlyFields [(F.MISROUTE_COUNT, [])] s (s.turned (2 * n + v) m) ∧ OnlyRegs s (s.turned (2 * n + v) m) := by
  have h1 : (2 * n + v) / 2 = n := by omega
  have h3 : 2 * n + v < 24 := by omega
  unfold Dev.turned
  rw [h1]
  by_cases h : m = n
  · rw [if_pos ⟨h.symm, h3⟩, if_pos h]
    exact ⟨get_count_fit s (by decide) (by decide) [], onlyFields_count (onlyFields_refl _ s) (List.mem_singleton.mpr rfl), onlyRegs_count ..⟩
  · rw [if_neg fun x => h x.1.symm, if_neg h]
    exact ⟨rfl, onlyFields_refl _ s, onlyRegs_refl s⟩

theorem FlitTaken.cls {d : Dev} {n : Nat} {f : Flit} (h : FlitTaken d n f) : f.cls < 4 := by
  obtain ⟨-, -, -, -, hw, hk⟩ := h
  unfold Flit.wellKind at hw
  split at hw
  case h_1 h0 => exact absurd h0 hk
  all_goals simp only [Bool.or_eq_true, beq_iff_eq, Bool.false_eq_true] at hw
  all_goals omega

/-- A flit from a link takes a port: the unit then, and the flit. -/
theorem routed_some {d : Dev} {n m : Nat} {f : Flit} (ht : FlitTaken d n f) (h0 : f.dst % 128 ≠ 0) (h127 : f.dst % 128 ≠ 127)
    (hm : d.spread (bitsOf (d.routeEntry f.dst).1 0 12) (flowOf f.src f.dst f.dstPart f.cls) = some m) (he : d.encapPort m = false) (stay : Nat) :
    ∃ s, OnlySwitch (heardOn d n) s ∧ (∀ k, s.link k = (heardOn d n).link k) ∧ OnlyFields [(F.MISROUTE_COUNT, [])] d s ∧
      s.get F.MISROUTE_COUNT = (if m = n then min (d.get F.MISROUTE_COUNT + 1) (2 ^ 32 - 1) else d.get F.MISROUTE_COUNT) ∧
      (heardOn d n).routeOn (2 * n + f.vc % 2) f stay = s.queueOn m ⟨2 * n + f.vc % 2, 64, { f with
        vc := if bitAt (d.routeEntry f.dst).2.1 3 = true ∨ (f.vc % 2 = 1 ∧ d.get F.PORT_DIM (fix n) = bitsOf (d.routeEntry f.dst).2.1 0 3 ∧
          bitsOf (d.routeEntry f.dst).2.1 0 3 ≠ 7) then 1 else bitsOf (d.routeEntry f.dst).1 12 1
        data := if f.kind = 7 ∧ wordAt f.data 0 = tyTick then
            ctrl0Words tyTick { TickMsg.ofWords (f.data.drop 1) with
              delay := min ((TickMsg.ofWords (f.data.drop 1)).delay + d.get F.PORT_DELAY (fix n) + stay) (2 ^ 24 - 1) : TickMsg }.toWords
          else f.data }⟩ := by
  have hn := ht.2.1
  have hv : f.vc % 2 < 2 := Nat.mod_lt _ (by decide)
  have hi : 2 * n + f.vc % 2 ≠ 24 := by omega
  obtain ⟨hr, hp⟩ := heardOn_rest d n
  obtain ⟨e1, e2⟩ := routeEntry_congr hr hp f.dst
  have hnext := nextPort_in hi hr hp f
  rw [hm] at hnext
  have hent := routeEntry_only (heardOn d n) f.dst
  obtain ⟨s', hs'⟩ : ∃ s', s' = ((heardOn d n).routeEntry f.dst).2.2 := ⟨_, rfl⟩
  have hregs : s'.regs = d.regs := by rw [hs', hent.regs, hr]
  have hg : ∀ (g : Fld) (ix : List Nat), s'.get g ix = d.get g ix := fun g ix => by rw [Dev.get_eq, hregs, ← Dev.get_eq]
  obtain ⟨t1, t2, t3⟩ := turned_reads s' hn hv m
  have hl : (s'.turned (2 * n + f.vc % 2) m).leavesOn (2 * n + f.vc % 2) m f = s'.turned (2 * n + f.vc % 2) m := if_neg hi
  have henc : (s'.turned (2 * n + f.vc % 2) m).encapPort m = false := by
    refine (encapPort_congr ?_).trans he
    rw [t2.get _ _ (fun x hx => ?_), hg]
    rw [List.mem_singleton.mp hx]
    exact apart_of_off (fabCount_off (by decide) (.inl (by decide)) m).symm (by decide)
  have hroute := routeOn_some (by tauto) hnext stay (by rw [← hs', hl]; exact henc)
  rw [← hs', hl, e1, e2, passedFlit_in hn hv, hg, hg, if_neg fun x => hi x.1] at hroute
  have hfab : (s'.turned (2 * n + f.vc % 2) m).fab = (heardOn d n).fab := by
    rw [t3, hs', hent]
  rw [hg] at t1
  refine ⟨_, ?_, fun k => link_of_fab hfab k, onlyFields_trans (onlyFields_of_regs hregs) t2, t1, hroute⟩
  exact onlySwitch_trans (by rw [hs']; exact hent.switch) t3.switch

end Sys2Proof
end

section
/-! SUPPORT. Flits of this unit, and the settling theorem of the switch (16 R563 to R566, R569 to R574, R603; 03 R71). -/

namespace Sys2Proof

open Machine

/-! ### Flits injected -/

/-- The oldest injected flit is taken. -/
def takenFrom (d : Dev) (l : List Flit) : Dev := { d with fab := { d.fab with inject := l } }

theorem flitRoute_inject {d : Dev} {g : Flit} {l : List Flit} (h : d.fab.inject = g :: l) (ho : g.dst ≠ d.ident) (f : Flit) (stay : Nat) :
    d.flitRoute 12 f stay = (takenFrom d l).routeOn 24 g 0 := by
  have hi : (takenFrom d l).ident = d.ident := rfl
  rw [Dev.flitRoute, if_neg (by decide)]
  simp only [h]
  exact if_neg (c := (takenFrom d l).isMine g = true) (by simp [Dev.isMine, hi, ho])

theorem colPorts_congr {a b : Dev} (h : b.regs = a.regs) (p : Nat) : b.colPorts p = a.colPorts p := by
  simp only [Dev.colPorts, Dev.actReg, Dev.reg, h]

/-- A charged flit without an UP port that its partition may use. -/
theorem nextPort_charged {d s : Dev} {g : Flit} (hr : s.regs = d.regs) (hp : s.pairs = d.pairs) (hc : g.charged = true)
    (h : ∀ m < 12, bitAt (bitsOf (d.routeEntry g.dst).1 0 12) m = true → bitAt (d.colPorts g.srcPart) m = true → d.get F.PORT_STATE (fix m) ≠ 3) :
    nextPort s 24 g = none := by
  have hs' : (s.routeEntry g.dst).2.2.regs = d.regs := (routeEntry_only s g.dst).regs.trans hr
  unfold nextPort
  rw [(routeEntry_congr hr hp g.dst).1, Dev.flitMask, if_pos ⟨rfl, hc⟩, spread_congr hs', colPorts_congr hs']
  refine spread_none (fun m hm hb => ?_) _
  rw [bitAt_eq_testBit, Nat.testBit_and, Bool.and_eq_true, ← bitAt_eq_testBit, ← bitAt_eq_testBit] at hb
  exact h m hm hb.1 hb.2

/-- The cadence of a relay takes its RELAY_PORT. -/
theorem nextPort_relay {d s : Dev} {g : Flit} (hr : s.regs = d.regs) (hp : s.pairs = d.pairs) (hk : g.kind = 7) (hrel : d.get F.RELAY = 1)
    (hw : wordAt g.data 0 ≤ tyHandover) (hport : d.get F.RELAY_PORT < 12)
    (hb : bitAt (bitsOf (d.routeEntry g.dst).1 0 12) (d.get F.RELAY_PORT) = true) (hs : d.get F.PORT_STATE (fix (d.get F.RELAY_PORT)) = 3) :
    nextPort s 24 g = some (d.get F.RELAY_PORT) := by
  have hs' : (s.routeEntry g.dst).2.2.regs = d.regs := (routeEntry_only s g.dst).regs.trans hr
  unfold nextPort
  generalize (s.routeEntry g.dst).2.2 = s' at hs' ⊢
  have hg : ∀ (f : Fld) (ix : List Nat), s'.get f ix = d.get f ix := fun f ix => by rw [Dev.get_eq, hs', ← Dev.get_eq]
  have hmask : s'.flitMask (bitsOf (s.routeEntry g.dst).1 0 12) 24 g = 2 ^ d.get F.RELAY_PORT := by
    rw [(routeEntry_congr hr hp g.dst).1, Dev.flitMask, if_neg (by simp [Flit.charged, hk])]
    refine (if_pos ⟨rfl, hk, ?_, hw, ?_, ?_⟩).trans (by rw [hg])
    · exact flag_of_one (by rw [hg, hrel])
    · rw [hg]
      exact hb
    · rw [hg, fabUp_congr hs', fabUp_iff]
      exact ⟨hport, hs⟩
  rw [hmask, spread_congr hs']
  exact spread_single hport hs _

/-- A flit of this unit that leaves on a native port: the unit then, and the flit. -/
theorem injected_some {d s : Dev} {g : Flit} {p : Nat} (hr : s.regs = d.regs) (hp : s.pairs = d.pairs) (h0 : g.dst % 128 ≠ 0)
    (h127 : g.dst % 128 ≠ 127) (hk : g.charged = false) (hn : nextPort s 24 g = some p) (he : d.encapPort p = false) :
    ∃ s' : Dev, s'.regs = d.regs ∧ (∀ k, s'.link k = s.link k) ∧ (s'.mem = s.mem ∧ s'.cad = s.cad ∧ s'.queues = s.queues ∧ s'.fab.inject = s.fab.inject) ∧
      s.routeOn 24 g 0 = s'.queueOn p ⟨24, 64, { g with
        vc := if bitAt (d.routeEntry g.dst).2.1 3 = true then 1 else bitsOf (d.routeEntry g.dst).1 12 1 }⟩ := by
  obtain ⟨e1, e2⟩ := routeEntry_congr hr hp g.dst
  have hent := routeEntry_only s g.dst
  obtain ⟨s', hs'⟩ : ∃ s', s' = (s.routeEntry g.dst).2.2 := ⟨_, rfl⟩
  have ht : s'.turned 24 p = s' := if_neg fun x => absurd x.2 (by decide)
  have hl : (s'.leavesOn 24 p g).regs = d.regs ∧ (∀ k, (s'.leavesOn 24 p g).link k = s'.link k) ∧
      ((s'.leavesOn 24 p g).mem = s'.mem ∧ (s'.leavesOn 24 p g).cad = s'.cad ∧ (s'.leavesOn 24 p g).queues = s'.queues ∧
        (s'.leavesOn 24 p g).fab.inject = s'.fab.inject) := by
    have hreg : s'.regs = d.regs := by rw [hs', hent.regs, hr]
    refine ⟨hreg, fun _ => rfl, rfl, rfl, rfl, rfl⟩
  obtain ⟨l1, l2, l3⟩ := hl
  have hroute := routeOn_some (by tauto) hn 0 (by rw [← hs', ht]; exact (encapPort_congr (by rw [Dev.get_eq, l1, ← Dev.get_eq])).trans he)
  rw [← hs', ht, if_neg (by simp [hk]), e1, e2] at hroute
  have hq := hent.switch.quiet
  rw [← hs'] at hent hq
  obtain ⟨q1, q2, q3, q4⟩ := hq
  obtain ⟨m1, m2, m3, m4⟩ := l3
  refine ⟨_, l1, fun k => (l2 k).trans (link_of_fab hent.fab k), ⟨m1.trans q1, m2.trans q2, m3.trans q3, m4.trans q4⟩, ?_⟩
  rw [hroute, passedFlit, if_neg (by decide), if_neg (by decide), outVc_own]

/-! ### The statement -/

/-- The link layer and flits that fail their checks. -/
theorem fabricLink (d : Dev) (n : Nat) (f : Flit) (stay : Nat) (hp : Powered d) (hn : n < 12) (hs : d.get F.PORT_STATE (fix n) = 3) :
    (f.crcOk = false → Gives (.flitRoute n f stay) d fun e =>
      LinkTalk n [.nak] d e ∧ (∃ r, e.reports = d.reports ++ [r] ∧ r.code = 0x46 ∧ r.die = 6 + n / 6) ∧
      e = { d with fab := { d.fab with links := e.fab.links }, reports := e.reports }) ∧
    (f.crcOk = true → f.wellKind = false → Gives (.flitRoute n f stay) d fun e =>
      e.get F.FAB_FORMAT_COUNT = min (d.get F.FAB_FORMAT_COUNT + 1) (2 ^ 32 - 1) ∧
      LinkTalk n (.credit [] 1 :: creditBack d n f) d e ∧ OnlyFields [(F.FAB_FORMAT_COUNT, [])] d e ∧
      e = { d with regs := e.regs, fab := { d.fab with links := e.fab.links } }) := by
  have hu := fabUp_iff.mpr ⟨hn, hs⟩
  refine ⟨fun hc => gives_of_onDev (·.flitRoute n f stay) (fun _ => rfl) hp ?_, fun hc hw => gives_of_onDev (·.flitRoute n f stay) (fun _ => rfl) hp ?_⟩
  · rw [flitRoute_port hn, arrive_badCrc hu hc]
    obtain ⟨t1, t2⟩ := linkOut_talk d n .nak
    exact ⟨t1, ⟨_, rfl, rfl, rfl⟩, rfl⟩
  · rw [flitRoute_port hn, arrive_badKind hu hc hw]
    obtain ⟨t1, t2⟩ := heardOn_talk d n
    obtain ⟨r1, r2, r3, -, r5⟩ := dropped_reads (f := f) (c := F.FAB_FORMAT_COUNT) hn (by decide) (by decide) (by decide) t1 t2.regs t2.switch
    exact ⟨r1, r2, r3, by rw [r5]; rfl⟩

end Sys2Proof
end

section
/-! SUPPORT. The switch: the settling theorem (16 R563 to R566, R569 to R574, R603; 03 R71). -/

namespace Sys2Proof

open Machine

/-- A NAK is a replay; the sixteenth takes the port DOWN. -/
theorem fabricNak (d : Dev) (n : Nat) (hp : Powered d) (hn : n < 12) (hs : d.get F.PORT_STATE (fix n) = 3) (hr : (d.link n).replay ≠ []) :
    ((d.link n).replays < 15 → Gives (.linkNak n) d fun e =>
      e.get F.REPLAY_COUNT (fix n) = min (d.get F.REPLAY_COUNT (fix n) + 1) (2 ^ 32 - 1) ∧
      e.link n = { d.link n with replays := (d.link n).replays + 1 } ∧ (∀ k, k ≠ n → e.link k = d.link k) ∧
      OnlyFields [(F.REPLAY_COUNT, fix n)] d e ∧ e = { d with regs := e.regs, fab := { d.fab with links := e.fab.links } }) ∧
    (15 ≤ (d.link n).replays → Gives (.linkNak n) d fun e =>
      PortDown n d e ∧ MessagesEnd (fun m => m.port == n) dLINKLOST d e ∧
      ∃ r, e.reports = d.reports ++ [r] ∧ r.code = 0x47 ∧ r.die = 6 + n / 6) := by
  have hlf : d.linkFlit n .nak = d.linkNak n := if_neg (Nat.not_le.mpr hn)
  have he := linkNak_replay (fabUp_iff.mpr ⟨hn, hs⟩) hr
  obtain ⟨u1, u2, u3⟩ := updLink_reads (d.count F.REPLAY_COUNT (fix n)) n fun l => { l with replays := l.replays + 1 }
  have hlink : ∀ k, (d.count F.REPLAY_COUNT (fix n)).link k = d.link k := link_of_fab (Dev.count_fab d _ _)
  rw [hlink] at u1
  have hst : (d.count F.REPLAY_COUNT (fix n)).get F.PORT_STATE (fix n) = d.get F.PORT_STATE (fix n) := Dev.get_count_apart d (replayCount_apart n)
  refine ⟨fun h => gives_of_onDev (·.linkFlit n .nak) (fun _ => rfl) hp ?_, fun h => gives_of_onDev (·.linkFlit n .nak) (fun _ => rfl) hp ?_⟩
  · rw [hlf, he, if_neg (by omega)]
    refine ⟨?_, u1, fun k hk => (u2 k hk).trans (hlink k), ?_, rfl⟩
    · rw [u3.get]
      exact get_count_fit d (by decide) (by decide) _
    · exact onlyFields_trans (onlyFields_count (onlyFields_refl _ d) (List.mem_singleton.mpr rfl)) (onlyFields_of_regs u3.regs)
  · rw [hlf, he, if_pos h]
    have hsw : OnlySwitch d ((d.count F.REPLAY_COUNT (fix n)).updLink n fun l => { l with replays := l.replays + 1 }) :=
      onlySwitch_trans (onlyRegs_count d _ _).switch u3.switch
    have hst' := (u3.get F.PORT_STATE (fix n)).trans hst
    have hlk : ∀ k, k ≠ n → ((d.count F.REPLAY_COUNT (fix n)).updLink n fun l => { l with replays := l.replays + 1 }).link k = d.link k :=
      fun k hk => (u2 k hk).trans (hlink k)
    generalize (d.count F.REPLAY_COUNT (fix n)).updLink n (fun l => { l with replays := l.replays + 1 }) = s at hsw hst' hlk ⊢
    obtain ⟨f1, f2, f3⟩ := fabDown_downs s n
    have hrep : s.reports = d.reports := by rw [hsw]
    exact ⟨portDown_report (portDown_counted hst' hlk hsw (f1.portDown f2)) _ _ _ _ _ _, (messagesEnd_switch hsw f3).of_rest rfl rfl, _,
      congrArg (· ++ _) (f1.reports.trans hrep), rfl, rfl⟩

/-- This unit's own flits hold no input buffer. -/
theorem freeInput_own (s : Dev) (cls : Nat) : s.freeInput 24 cls = s := by
  unfold Dev.freeInput
  rw [if_neg (by simp)]

theorem outs_same {a b : Dev} {m : Nat} (h : ∀ k, k ≠ m → b.link k = a.link k) (hm : (b.link m).out = (a.link m).out) (k : Nat) :
    (b.link k).out = (a.link k).out := by
  obtain rfl | hk := eq_or_ne k m
  · exact hm
  · rw [h k hk]

/-! ### Flits injected here -/

/-- A flit for another unit whose ports are none of them UP is dropped. -/
theorem injected_dropped {d : Dev} (f : Flit) {g : Flit} {l : List Flit} (stay : Nat) (hp : Powered d) (hi : d.fab.inject = g :: l)
    (hdst : g.dst ≠ d.ident) (hc : g.charged = true) (h0 : g.dst % 128 ≠ 0) (h127 : g.dst % 128 ≠ 127)
    (hup : ∀ m < 12, bitAt (bitsOf (d.routeEntry g.dst).1 0 12) m = true → bitAt (d.colPorts g.srcPart) m = true →
      d.get F.PORT_STATE (fix m) ≠ 3) : Gives (.flitRoute 12 f stay) d fun e =>
    e.fab = { d.fab with inject := l } ∧ e.get F.NO_ROUTE_COUNT = min (d.get F.NO_ROUTE_COUNT + 1) (2 ^ 32 - 1) ∧
    OnlyFields [(F.NO_ROUTE_COUNT, [])] d e ∧ e = { d with regs := e.regs, fab := e.fab, pairs := e.pairs } := by
  refine gives_of_onDev (·.flitRoute 12 f stay) (fun _ => rfl) hp ?_
  rw [flitRoute_inject hi hdst, routeOn_none (by tauto) (nextPort_charged (d := d) (s := takenFrom d l) rfl rfl hc hup)]
  have hent := routeEntry_only (takenFrom d l) g.dst
  generalize ((takenFrom d l).routeEntry g.dst).2.2 = s at hent ⊢
  have hfree : s.noRoute 24 g = s.count F.NO_ROUTE_COUNT := freeInput_own _ _
  rw [hfree]
  refine ⟨(Dev.count_fab s _ _).trans hent.fab, ?_, ?_, ?_⟩
  · rw [get_count_fit s (by decide) (by decide), Dev.get_eq, hent.regs, ← Dev.get_eq]
    rfl
  · exact onlyFields_count (onlyFields_of_regs hent.regs) (List.mem_singleton.mpr rfl)
  · rw [hent]
    rfl

/-- The VC on which the cadence of a relay leaves (16 R571). -/
def relayVc (d : Dev) (dst : Nat) : Nat := if bitAt (d.routeEntry dst).2.1 3 = true then 1 else bitsOf (d.routeEntry dst).1 12 1

/-- The cadence of a relay leaves on its port (03 R71). -/
theorem injected_relayed {d : Dev} (f : Flit) {g : Flit} {l : List Flit} (stay : Nat) {p : Nat} (hp : Powered d) (hi : d.fab.inject = g :: l)
    (hdst : g.dst ≠ d.ident) (h0 : g.dst % 128 ≠ 0) (h127 : g.dst % 128 ≠ 127) (hk : g.kind = 7) (hcls : g.cls = 0)
    (hrel : d.get F.RELAY = 1) (hw : wordAt g.data 0 ≤ tyHandover) (hport : d.get F.RELAY_PORT = p) (hp12 : p < 12)
    (hb : bitAt (bitsOf (d.routeEntry g.dst).1 0 12) p = true) (hst : d.get F.PORT_STATE (fix p) = 3) (henc : d.encapPort p = false)
    (hwait : (d.link p).waiting = []) (hlen : (d.link p).replay.length < 8192)
    (hcr : 0 < Tab.get 0 (d.link p).credits (pairOf 0 (relayVc d g.dst))) : Gives (.flitRoute 12 f stay) d fun e =>
    e.fab.inject = l ∧ (e.link p).replay = (d.link p).replay ++ [{ g with vc := relayVc d g.dst }] ∧ (∀ k, k ≠ p → e.link k = d.link k) ∧
    e.regs = d.regs ∧ e.mem = d.mem ∧ e.cad = d.cad ∧ e.queues = d.queues := by
  subst hport
  refine gives_of_onDev (·.flitRoute 12 f stay) (fun _ => rfl) hp ?_
  obtain ⟨s, s1, s2, s3, s4⟩ := injected_some (d := d) (s := takenFrom d l) rfl rfl h0 h127 (by simp [Flit.charged, hk])
    (nextPort_relay (d := d) rfl rfl hk hrel hw hp12 hb hst) henc
  have hlk : ∀ k, s.link k = d.link k := s2
  rw [flitRoute_inject hi hdst, s4, ← relayVc]
  have hq := (queueOn_reads (s := s) (m := d.get F.RELAY_PORT) (w := ⟨24, 64, { g with vc := relayVc d g.dst }⟩) (fabUp_iff.mpr ⟨hp12, (portState_congr s1 _).trans hst⟩)
    (by rw [hlk]; exact hwait) (by rw [hcls]; decide) rfl).1
  rw [hlk] at hq
  obtain ⟨x, x1, x2, x3, x4, -⟩ := hq (by rw [hcls]; exact hcr) hlen
  have hfree : x.freeInput 24 g.cls = x := freeInput_own x _
  have hx : s.queueOn (d.get F.RELAY_PORT) ⟨24, 64, { g with vc := relayVc d g.dst }⟩ = x := x1.trans hfree
  obtain ⟨m1, m2, m3, m4⟩ := s3
  obtain ⟨w1, w2, w3, w4⟩ := x2.switch.quiet
  change (s.queueOn (d.get F.RELAY_PORT) ⟨24, 64, { g with vc := relayVc d g.dst }⟩).fab.inject = l ∧ _
  rw [hx]
  exact ⟨w4.trans m4, x4, fun k hk => (x3 k hk).trans (hlk k), x2.regs.trans s1, w1.trans m1, w2.trans m2, w3.trans m3⟩

/-- Settles O53: what arrives is judged on its link; what is for others is dropped, sent or kept at its port. -/
theorem fabricLinkAndRouting : Obligations.FabricLinkAndRouting := by
  unfold Obligations.FabricLinkAndRouting
  refine ⟨fun d n f stay hp hn hs => ?_, fun d n f stay ht ho => ?_, fun d f g l stay => injected_dropped f stay,
    fun d f g l stay hp hi hdst h0 h127 hk hcls hrel hw => injected_relayed f stay hp hi hdst h0 h127 hk hcls hrel hw rfl⟩
  · obtain ⟨h1, h2⟩ := fabricLink d n f stay hp hn hs
    refine ⟨h1, h2, fun pairs acked hwait => gives_of_onDev (·.linkFlit n (.credit pairs acked)) (fun _ => rfl) hp ?_,
      fun hr => fabricNak d n hp hn hs hr⟩
    have hlf : d.linkFlit n (.credit pairs acked) = d.linkCredit n pairs acked := if_neg (Nat.not_le.mpr hn)
    rw [hlf]
    exact linkCredit_reads (fabUp_iff.mpr ⟨hn, hs⟩) hwait pairs acked
  · intro a b mask quiet
    have hp := ht.1
    have hn := ht.2.1
    obtain ⟨t1, t2⟩ := heardOn_talk d n
    refine ⟨fun h => gives_of_onDev (·.flitRoute n f stay) (fun _ => rfl) hp ?_, fun h0 h127 m hm henc hwait => ?_⟩
    · obtain ⟨s, hs, he⟩ := routed_none ht h stay
      rw [ht.routed ho, he]
      have hl : LinkTalk n [.credit [] 1] d s := by
        have := linkTalk_trans t1 (linkTalk_of_fab (n := n) hs.fab)
        rwa [List.append_nil] at this
      obtain ⟨r1, r2, r3, r4, -⟩ := dropped_reads (f := f) (c := F.NO_ROUTE_COUNT) hn (by decide) (by decide) (by decide) hl
        (hs.regs.trans t2.regs) (onlySwitch_trans t2.switch hs.switch)
      exact ⟨r1, r2, r3, r4.quiet⟩
    · intro dim vc t data g' pair counted
      obtain ⟨hb, hm12, hst⟩ := spread_mem hm
      obtain ⟨s, s1, s2, s3, s4, s5⟩ := routed_some ht h0 h127 hm henc stay
      have hsw := onlySwitch_trans t2.switch s1
      have hport : ∀ {x : Fld} (k : Nat), x ∈ portFields → s.get x (fix k) = d.get x (fix k) := fun {x} k hx => by
        refine s3.get _ _ fun y hy => ?_
        rw [List.mem_singleton.mp hy]
        obtain ⟨-, -, -, hw⟩ := portField_off hx k
        exact apart_of_off (fabCount_off (by decide) (.inl hx) k).symm hw
      have hum : s.fabUp m = true := fabUp_iff.mpr ⟨hm12, (hport m (by decide)).trans hst⟩
      obtain ⟨v1, v2, v3⟩ := t1.still m
      rw [← s2] at v1 v2 v3
      have hq := queueOn_reads (w := ⟨2 * n + f.vc % 2, 64, g'⟩) hum (v2.trans hwait) ht.cls rfl
      obtain ⟨q1, q2⟩ := hq
      rw [v1, v3] at q1 q2
      refine ⟨⟨hb, hst⟩, fun hcr hlen => gives_of_onDev (·.flitRoute n f stay) (fun _ => rfl) hp ?_,
        fun hno => gives_of_onDev (·.flitRoute n f stay) (fun _ => rfl) hp ?_⟩
      · obtain ⟨x, x1, x2, x3, x4, x5, x6, x7, x8⟩ := q1 hcr hlen
        rw [ht.routed ho, s5, x1]
        obtain ⟨y1, y2⟩ := freeInput_talk x f hn
        rw [creditBack_congr ((x2.get _ _).trans (hport n (by decide)))] at y1
        change LinkTalk n (creditBack d n f) x (x.freeInput (2 * n + f.vc % 2) f.cls) at y1
        obtain ⟨z1, z2, z3⟩ := y1.still m
        have hout := outs_same x3 x6 n
        refine ⟨⟨(y2.get _ _).trans ((x2.get _ _).trans s4), onlyFields_trans s3 (onlyFields_trans (onlyFields_of_regs x2.regs) (onlyFields_of_regs y2.regs)),
          (onlySwitch_trans hsw (onlySwitch_trans x2.switch y2.switch)).quiet, fun k hkn hkm => ?_⟩, z1.trans x4, z2.trans x5, (by rw [z3]; exact x7),
          (fun p hp => by rw [z3]; exact x8 p hp), ?_⟩
        · rw [y1.2 k hkn, x3 k hkm, s2, t1.2 k hkn]
        · rw [y1.1]
          change (x.link n).out ++ creditBack d n f = _
          rw [hout, s2, t1.1]
          exact List.append_assoc _ _ _
      · obtain ⟨x1, x2, x3⟩ := q2 hno
        rw [ht.routed ho, s5]
        have hout := outs_same x2 (by rw [x3]) n
        refine ⟨⟨(x1.get _ _).trans s4, onlyFields_trans s3 (onlyFields_of_regs x1.regs), (onlySwitch_trans hsw x1.switch).quiet, fun k hkn hkm => ?_⟩,
          (congrArg Link.replay x3).trans v1, (congrArg Link.credits x3).trans v3, congrArg Link.waiting x3, ?_⟩
        · exact (x2 k hkm).trans ((s2 k).trans (t1.2 k hkn))
        · refine hout.trans ?_
          rw [s2, t1.1]

end Sys2Proof
end

section
/-! SUPPORT. Flits delivered inside the unit, and the flits of an answer (16 R563, R569, R577 to R580). -/

namespace Sys2Proof

open Machine

/-! ### Delivery -/

/-- What the handling of a flit gives. -/
def Machine.Dev.handled (s : Dev) (input : Nat) (f : Flit) (stay : Nat) : Except Dev Dev :=
  match f.kind with
  | 1 => s.onPut input (xferMid (s.unitPort input f)) f
  | 2 => s.onGetReq (xferMid (s.unitPort input f)) f
  | 3 => s.onGetData input (xferMid (s.unitPort input f)) f
  | 4 => .ok (s.onAck f)
  | 5 => s.onCollData input (xferMid (s.unitPort input f)) f
  | 6 => .ok (s.onCollCtrl f)
  | 7 => .ok (s.onCtrl0 input f stay)
  | _ => .ok s

/-- A flit that is handled leaves its buffer. -/
theorem consume_ok {s e : Dev} {f : Flit} {input stay : Nat} (hh : s.fab.heldIn = []) (h : s.handled input f stay = .ok e) :
    s.consume input f stay = e.freeInput input f.cls := by
  unfold Dev.consume
  simp only [hh, List.any_nil, Bool.false_eq_true, if_false]
  change (match s.handled input f stay with
    | .ok s => s.freeInput input f.cls
    | .error t => _) = _
  rw [h]

theorem unitPort_in (s : Dev) {n : Nat} (hn : n < 12) (f : Flit) (v : Nat) : s.unitPort (2 * n + v % 2) f = n := by
  have h1 : 2 * n + v % 2 < 24 := by omega
  have h2 : (2 * n + v % 2) / 2 = n := by omega
  rw [Dev.unitPort, if_pos h1, h2]

/-! ### What a handled flit leaves -/

/-- Beside flits `l` injected, only the messages under way to this unit changed. -/
def OnlyInput (l : List Flit) (x s : Dev) : Prop := ∃ y, s = { x with fab := { x.fab with inject := x.fab.inject ++ l, inMsgs := y } }

theorem onlyInput_keepIn (x : Dev) (m : InMsg) (keep : Bool) : OnlyInput [] x (x.keepIn m keep) :=
  ⟨(x.keepIn m keep).fab.inMsgs, by rw [List.append_nil]; rfl⟩

theorem onlyInput_refl (x : Dev) : OnlyInput [] x x := ⟨x.fab.inMsgs, by rw [List.append_nil]⟩

theorem onlyInput_trans {l l' : List Flit} {a b c : Dev} (h : OnlyInput l a b) (h' : OnlyInput l' b c) : OnlyInput (l ++ l') a c := by
  obtain ⟨y, rfl⟩ := h
  obtain ⟨z, rfl⟩ := h'
  exact ⟨z, by rw [List.append_assoc]⟩

theorem OnlyInput.get {l : List Flit} {a b : Dev} (h : OnlyInput l a b) (g : Fld) (ix : List Nat) : b.get g ix = a.get g ix := by
  obtain ⟨y, rfl⟩ := h
  rfl

theorem OnlyInput.link {l : List Flit} {a b : Dev} (h : OnlyInput l a b) (k : Nat) : b.link k = a.link k := by
  obtain ⟨y, rfl⟩ := h
  rfl

theorem OnlyInput.ident {l : List Flit} {a b : Dev} (h : OnlyInput l a b) : b.ident = a.ident := by
  unfold Dev.ident
  rw [h.get, h.get]

theorem onlyInput_inject {x : Dev} (h : x.get F.CHAIN_ADDR ≠ 0) (f : Flit) : OnlyInput [f] x (x.injectFlit f) :=
  ⟨x.fab.inMsgs, if_neg h⟩

theorem onlyInput_ack {x : Dev} (h : x.get F.CHAIN_ADDR ≠ 0) (f : Flit) (status : Nat) : OnlyInput [ackFlit x f status] x (x.ack f status) :=
  onlyInput_inject h _

theorem onlyInput_injectAll (l : List Flit) {x : Dev} (h : x.get F.CHAIN_ADDR ≠ 0) : OnlyInput l x (x.injectAll l) := by
  induction l generalizing x with
  | nil => exact onlyInput_refl x
  | cons f l ih =>
    have h1 := onlyInput_inject h f
    exact onlyInput_trans h1 (ih (by rw [h1.get]; exact h))

theorem ackFlit_congr {a b : Dev} (h : b.ident = a.ident) (f : Flit) (status : Nat) : ackFlit b f status = ackFlit a f status := by
  unfold ackFlit Dev.ownFlit
  rw [h]

/-- The buffer of a handled flit is free again. -/
theorem OnlyInput.answered {l : List Flit} {x s : Dev} (h : OnlyInput l x s) {n : Nat} (hn : n < 12) (f : Flit) :
    Answered n f l x (s.freeInput (2 * n + f.vc % 2) f.cls) := by
  obtain ⟨t1, t2⟩ := freeInput_talk s f hn
  rw [creditBack_congr (h.get _ _)] at t1
  obtain ⟨l1, l2⟩ := t1
  have hl := h.link
  generalize s.freeInput (2 * n + f.vc % 2) f.cls = e at *
  obtain ⟨y, rfl⟩ := h
  have hf : e.fab.inject = x.fab.inject ++ l ∧ e.fab.inMsgs = y := by
    rw [t2]
    exact ⟨rfl, rfl⟩
  refine ⟨hf.1, ⟨l1.trans (by rw [hl]), fun k hk => (l2 k hk).trans (hl k)⟩, ?_⟩
  rw [hf.1, hf.2]
  exact t2

/-- A flit for this unit that is handled. -/
theorem ForUs.answered {d x s : Dev} {n : Nat} {f : Flit} {l : List Flit} (hf : ForUs d n f) (h : (heardOn d n).handled (2 * n + f.vc % 2) f 0 = .ok s)
    (hs : OnlyInput l x s) : Answered n f l x (d.arrive n f 0) := by
  rw [hf.arrive 0, consume_ok hf.heldIn h]
  exact hs.answered hf.1.2.1 f

/-! ### The flits of a message -/

theorem cutFuel_flatten {α : Type} {n : Nat} (hn : 0 < n) (fuel : Nat) (l : List α) (h : l.length < fuel) : (cutFuel n fuel l).flatten = l := by
  induction fuel generalizing l with
  | zero => omega
  | succ fuel ih =>
    rw [cutFuel]
    cases l with
    | nil => rfl
    | cons a t =>
      have hd : ((a :: t).drop n).length < fuel := by
        rw [List.length_drop]
        simp only [List.length_cons] at h ⊢
        omega
      rw [if_neg (by simp), List.flatten_cons, ih _ hd, List.take_append_drop]

theorem cutFuel_length {α : Type} (n fuel : Nat) (l : List α) : ∀ x ∈ cutFuel n fuel l, x.length ≤ n := by
  induction fuel generalizing l with
  | zero => simp [cutFuel]
  | succ fuel ih =>
    rw [cutFuel]
    cases l with
    | nil => simp
    | cons a t =>
      rw [if_neg (by simp)]
      intro x hx
      rcases List.mem_cons.mp hx with rfl | hx
      · exact List.length_take_le _ _
      · exact ih _ x hx

/-- The words of a message, flit by flit. -/
def messageParts (head : List Word) (bs : List Byte) : List (List Word) := (head ++ (padWords bs).take 54) :: cutBy 60 ((padWords bs).drop 54)

theorem flitsOf_data (base : Flit) (head : List Word) (bs : List Byte) : (flitsOf base head bs).map (·.data) = messageParts head bs := by
  have h : (flitsOf base head bs).map (·.data) = (List.range (messageParts head bs).length).map fun i => (messageParts head bs).getD i [] := by
    unfold flitsOf
    rw [List.map_map]
    rfl
  rw [h]
  refine List.ext_getElem (by simp) fun i h1 h2 => ?_
  rw [List.getElem_map, List.getElem_range, List.getD_eq_getElem _ _ h2]

theorem flitsOf_ne_nil (base : Flit) (head : List Word) (bs : List Byte) : flitsOf base head bs ≠ [] := fun h => by
  have := flitsOf_data base head bs
  rw [h] at this
  exact absurd this (by simp [messageParts])

theorem flitsOf_words (base : Flit) (head : List Word) (bs : List Byte) : (flitsOf base head bs).flatMap (·.data) = head ++ padWords bs := by
  rw [List.flatMap_def, flitsOf_data, messageParts, List.flatten_cons, cutBy, cutFuel_flatten (by decide) _ _ (Nat.lt_succ_self _), List.append_assoc,
    List.take_append_drop]

theorem flitsOf_mem {base g : Flit} {head : List Word} {bs : List Byte} (hh : head.length = 6) (hg : g ∈ flitsOf base head bs) :
    g.kind = base.kind ∧ g.cls = base.cls ∧ g.dst = base.dst ∧ g.dstPart = base.dstPart ∧ g.src = base.src ∧ g.srcPart = base.srcPart ∧
      g.msg = base.msg ∧ g.data.length ≤ 60 := by
  have hd : g.data.length ≤ 60 := by
    have hm : g.data ∈ messageParts head bs := by
      rw [← flitsOf_data base]
      exact List.mem_map_of_mem hg
    rcases List.mem_cons.mp hm with h | h
    · rw [h, List.length_append, hh]
      have := List.length_take_le 54 (padWords bs)
      omega
    · exact cutFuel_length _ _ _ _ h
  unfold flitsOf at hg
  obtain ⟨i, -, rfl⟩ := List.mem_map.mp hg
  exact ⟨rfl, rfl, rfl, rfl, rfl, rfl, rfl, hd⟩

end Sys2Proof
end

section
/-! SUPPORT. PUT, GET and ACK between units (16 R577 to R580). -/

namespace Sys2Proof

open Machine

/-! ### PUT -/

/-- The message of a first flit. -/
def firstMsg (input : Nat) (f : Flit) : InMsg :=
  { src := f.src, srcPart := f.srcPart, tag := f.msg, kind := f.kind, dstPart := f.dstPart, port := input / 2
    addr := wordAt f.data 0 + 2 ^ 32 * wordAt f.data 1, bytes := wordAt f.data 2, got := 0, aux := wordAt f.data 3
    rvalue := wordAt f.data 4 + 2 ^ 32 * wordAt f.data 5, status := 0, data := [] }

theorem inMsgOf_first {s : Dev} {f : Flit} (h : f.seqn = 0) (input : Nat) : s.inMsgOf input f = some (firstMsg input f) := if_pos h

/-- The bytes that a message of one flit carries. -/
def oneFlitBytes (f : Flit) : List Byte := (bytesOfWords (f.data.drop 6)).take (wordAt f.data 2)

theorem payload_first {f : Flit} (h : f.seqn = 0) (input : Nat) : payload f (firstMsg input f) = oneFlitBytes f := by
  unfold payload
  rw [if_pos h]
  rfl

/-- The write of a PUT of one flit: refused when the partition takes no inbound traffic. -/
def putWrite (s : Dev) (mid : Nat) (f : Flit) : Option (Nat × Nat) × Dev :=
  if s.partOpen f.dstPart then
    s.inboundWrite ⟨f.dstPart, 0, mid, false⟩ (wordAt f.data 0 + 2 ^ 32 * wordAt f.data 1) (oneFlitBytes f)
  else (some (stFAULT, 0), s)

/-- A PUT of one flit ends: its message is forgotten, its fence signalled where that is allowed, and its ACK sent. -/
def putEnd (s : Dev) (input : Nat) (f : Flit) (st : Nat) : Dev :=
  let s := s.keepIn { firstMsg input f with got := 0 + (oneFlitBytes f).length, status := ackStatus st } false
  let fence := bitsOf (wordAt f.data 3) 0 8
  if ackStatus st = stOK ∧ bitAt (wordAt f.data 3) 8 then
    if bitAt (s.get F.REMOTE_SIG [f.dstPart, fence / 32]) (fence % 32) then
      (s.signalFence f.dstPart fence (wordAt f.data 4 + 2 ^ 32 * wordAt f.data 5) false).ack f stOK
    else s.ack f stPROT
  else s.ack f (ackStatus st)

theorem onPut_one {s x : Dev} {f : Flit} {input mid st detail : Nat} (h0 : f.seqn = 0) (hl : f.last = true)
    (hw : putWrite s mid f = (some (st, detail), x)) : s.onPut input mid f = .ok (putEnd x input f st) := by
  have hw' : (if s.partOpen f.dstPart then
      s.inboundWrite ⟨f.dstPart, 0, mid, false⟩ ((firstMsg input f).addr + (firstMsg input f).got) (oneFlitBytes f)
    else (some (stFAULT, 0), s)) = (some (st, detail), x) := hw
  have hs : (if (firstMsg input f).status = stOK then ackStatus st else (firstMsg input f).status) = ackStatus st := if_pos rfl
  unfold Dev.onPut putEnd
  rw [inMsgOf_first h0]
  simp only [payload_first h0, hw', hs, hl, Bool.not_true, Bool.false_eq_true, if_false]
  by_cases h1 : ackStatus st = stOK ∧ bitAt (wordAt f.data 3) 8 = true
  · rw [if_pos h1]
    exact (if_pos h1).trans (apply_ite Except.ok _ _ _).symm
  · rw [if_neg h1]
    exact if_neg h1

/-- May the PUT's fence be signalled (16 R579)? -/
def fenceOpen (s : Dev) (f : Flit) : Bool :=
  bitAt (s.get F.REMOTE_SIG [f.dstPart, bitsOf (wordAt f.data 3) 0 8 / 32]) (bitsOf (wordAt f.data 3) 0 8 % 32)

theorem onlyInput_keepAck {x : Dev} (hc : x.get F.CHAIN_ADDR ≠ 0) (m : InMsg) (f : Flit) (status : Nat) :
    OnlyInput [ackFlit x f status] x ((x.keepIn m false).ack f status) := by
  have h1 := onlyInput_keepIn x m false
  have h2 := onlyInput_ack (x := x.keepIn m false) (by rw [h1.get]; exact hc) f status
  rw [ackFlit_congr h1.ident] at h2
  exact onlyInput_trans h1 h2

theorem putEnd_plain {x : Dev} {f : Flit} {st : Nat} (hc : x.get F.CHAIN_ADDR ≠ 0) (h : ackStatus st ≠ stOK ∨ bitAt (wordAt f.data 3) 8 = false)
    (input : Nat) : OnlyInput [ackFlit x f (ackStatus st)] x (putEnd x input f st) := by
  unfold putEnd
  rw [if_neg (by
    rintro ⟨h1, h2⟩
    rcases h with h | h
    · exact h h1
    · rw [h] at h2
      exact absurd h2 (by decide))]
  exact onlyInput_keepAck hc _ f _

theorem putEnd_refused {x : Dev} {f : Flit} {st : Nat} (hc : x.get F.CHAIN_ADDR ≠ 0) (hs : ackStatus st = stOK) (hb : bitAt (wordAt f.data 3) 8 = true)
    (ha : fenceOpen x f = false) (input : Nat) : OnlyInput [ackFlit x f stPROT] x (putEnd x input f st) := by
  unfold putEnd
  rw [if_pos ⟨hs, hb⟩, if_neg]
  · exact onlyInput_keepAck hc _ f _
  · rw [(onlyInput_keepIn x _ false).get]
    exact Bool.eq_false_iff.mp ha

theorem keepIn_none {x : Dev} (h : x.fab.inMsgs = []) (m : InMsg) : x.keepIn m false = x := by
  have he : x.keepIn m false = { x with fab := { x.fab with inMsgs := [] } } := by
    unfold Dev.keepIn
    rw [h]
    rfl
  rw [he, ← h]

theorem putEnd_signals {x : Dev} {f : Flit} {st : Nat} (hs : ackStatus st = stOK) (hb : bitAt (wordAt f.data 3) 8 = true)
    (ha : fenceOpen x f = true) (hi : x.fab.inMsgs = [])
    (hc : (x.signalFence f.dstPart (bitsOf (wordAt f.data 3) 0 8) (wordAt f.data 4 + 2 ^ 32 * wordAt f.data 5) false).get F.CHAIN_ADDR ≠ 0) (input : Nat) :
    OnlyInput [ackFlit (x.signalFence f.dstPart (bitsOf (wordAt f.data 3) 0 8) (wordAt f.data 4 + 2 ^ 32 * wordAt f.data 5) false) f stOK]
      (x.signalFence f.dstPart (bitsOf (wordAt f.data 3) 0 8) (wordAt f.data 4 + 2 ^ 32 * wordAt f.data 5) false) (putEnd x input f st) := by
  unfold putEnd
  unfold fenceOpen at ha
  simp only [keepIn_none hi]
  rw [if_pos ⟨hs, hb⟩, if_pos ha]
  exact onlyInput_ack hc f stOK

theorem handled_put {s : Dev} {f : Flit} (hk : f.kind = 1) {n : Nat} (hn : n < 12) (stay : Nat) :
    s.handled (2 * n + f.vc % 2) f stay = s.onPut (2 * n + f.vc % 2) (xferMid n) f := by
  unfold Dev.handled
  simp only [hk, unitPort_in s hn]

theorem partOpen_heardOn (d : Dev) (n p : Nat) : (heardOn d n).partOpen p = true ↔ d.get F.P_STATE [p] = pENABLED := by
  unfold Dev.partOpen
  rw [(heardOn_talk d n).2.get, beq_iff_eq]

/-! ### GET -/

theorem handled_getReq {s : Dev} {f : Flit} (hk : f.kind = 2) {n : Nat} (hn : n < 12) (stay : Nat) :
    s.handled (2 * n + f.vc % 2) f stay = s.onGetReq (xferMid n) f := by
  unfold Dev.handled
  simp only [hk, unitPort_in s hn]

/-- The flits of a reply. -/
def replyFlits (s : Dev) (f : Flit) (status : Nat) (bs : List Byte) : List Flit :=
  flitsOf (s.ownFlit f.src f.srcPart 2 3 f.dstPart f.msg []) (headWords (wordAt f.data 4 + 2 ^ 32 * wordAt f.data 5) bs.length status 0) bs

theorem onlyInput_reply {x : Dev} (h : x.get F.CHAIN_ADDR ≠ 0) (f : Flit) (status : Nat) (bs : List Byte) :
    OnlyInput (replyFlits x f status bs) x (x.reply f status bs) := onlyInput_injectAll _ h

theorem headWords_length (a b c r : Nat) : (headWords a b c r).length = 6 := rfl

/-- What a reply is: its words, and the flits it takes. -/
theorem replyFlits_reads (x : Dev) (f : Flit) (status : Nat) (bs : List Byte) :
    replyFlits x f status bs ≠ [] ∧
    (replyFlits x f status bs).flatMap (·.data) = headWords (wordAt f.data 4 + 2 ^ 32 * wordAt f.data 5) bs.length status 0 ++ padWords bs ∧
    ∀ g ∈ replyFlits x f status bs, g.kind = 3 ∧ g.cls = 2 ∧ g.dst = f.src ∧ g.dstPart = f.srcPart ∧ g.src = x.ident ∧ g.srcPart = f.dstPart ∧
      g.msg = f.msg ∧ g.data.length ≤ 60 :=
  ⟨flitsOf_ne_nil _ _ _, flitsOf_words _ _ _, fun _ hg => flitsOf_mem (headWords_length _ _ _ _) hg⟩

/-! ### GET_DATA -/

theorem handled_getData {s : Dev} {f : Flit} (hk : f.kind = 3) {n : Nat} (hn : n < 12) (stay : Nat) :
    s.handled (2 * n + f.vc % 2) f stay = s.onGetData (2 * n + f.vc % 2) (xferMid n) f := by
  unfold Dev.handled
  simp only [hk, unitPort_in s hn]

/-- A message is forgotten. -/
def endedMsg (x : Dev) (o : OutMsg) : Dev := { x with fab := { x.fab with outMsgs := x.fab.outMsgs.filter fun y => y != o } }

theorem msgOver_ok (x : Dev) (o : OutMsg) (d : Nat) : x.msgOver o stOK d = endedMsg x o := by
  unfold Dev.msgOver
  exact if_pos (.inl rfl)

theorem msgOver_fails {o : OutMsg} (hm : o.mute = false) {st : Nat} (hs : st ≠ stOK) (x : Dev) (d : Nat) :
    x.msgOver o st d = (endedMsg x o).failCmd o.queue st d := by
  unfold Dev.msgOver
  exact if_neg (by simp [hm, hs])

theorem onlyInput_endedMsg {x s : Dev} {l : List Flit} (h : OnlyInput l x s) (o : OutMsg) : OnlyInput l (endedMsg x o) (endedMsg s o) := by
  obtain ⟨y, rfl⟩ := h
  exact ⟨y, rfl⟩

theorem onlyInput_failCmd {x s : Dev} {l : List Flit} (h : OnlyInput l x s) (k st d : Nat) : OnlyInput l (x.failCmd k st d) (s.failCmd k st d) := by
  obtain ⟨y, rfl⟩ := h
  exact ⟨y, rfl⟩

/-- The end that a GET_DATA of one flit gives its message: the holder's status, or that of the write. -/
def getEnd (f : Flit) (st detail : Nat) : Nat × Nat :=
  if bitsOf (wordAt f.data 3) 0 4 ≠ stOK then remoteEnd (bitsOf (wordAt f.data 3) 0 4) else (st, detail)

/-- The write of a GET_DATA of one flit. -/
def getWrite (s : Dev) (o : OutMsg) (mid : Nat) (f : Flit) : Option (Nat × Nat) × Dev :=
  if bitsOf (wordAt f.data 3) 0 4 = stOK ∧ !o.mute then s.inboundWrite ⟨o.queue / 32, 0, mid, false⟩ o.addr (oneFlitBytes f) else (some (stOK, 0), s)

theorem onGetData_one {s x : Dev} {f : Flit} {o : OutMsg} {input mid st detail : Nat} (h0 : f.seqn = 0) (hl : f.last = true) (hst : st < 16)
    (ho : (s.fab.outMsgs.find? fun o => o.tag == f.msg && o.kind == 2 && o.dst == f.src) = some o)
    (hw : getWrite s o mid f = (some (st, detail), x)) :
    ∃ m, s.onGetData input mid f = .ok ((x.keepIn m false).msgOver o (getEnd f st detail).1 (getEnd f st detail).2) := by
  have hw' : (if bitsOf (firstMsg input f).aux 0 4 = stOK ∧ !o.mute then
      s.inboundWrite ⟨o.queue / 32, 0, mid, false⟩ (o.addr + (firstMsg input f).got) (oneFlitBytes f) else (some (stOK, 0), s)) =
        (some (st, detail), x) := hw
  have hs : (if (firstMsg input f).status = 0 then st + 16 * detail else (firstMsg input f).status) = st + 16 * detail := if_pos rfl
  have h1 : (st + 16 * detail) % 16 = st := by omega
  have h2 : (st + 16 * detail) / 16 = detail := by omega
  unfold Dev.onGetData
  rw [ho, inMsgOf_first h0]
  simp only [payload_first h0, hw', hs, hl, Bool.not_true, Bool.false_eq_true, if_false, h1, h2]
  exact ⟨_, rfl⟩

/-! ### ACK -/

theorem handled_ack {s : Dev} {f : Flit} (hk : f.kind = 4) (input stay : Nat) : s.handled input f stay = .ok (s.onAck f) := by
  unfold Dev.handled
  simp only [hk]

theorem onAck_put {s : Dev} {f : Flit} {o : OutMsg} (ho : (s.fab.outMsgs.find? fun o => o.tag == f.msg && o.kind != 2 && o.dst == f.src) = some o)
    (hk : o.kind = 1) : s.onAck f = s.msgOver o (remoteEnd (bitsOf (wordAt f.data 0) 0 4)).1 (remoteEnd (bitsOf (wordAt f.data 0) 0 4)).2 := by
  unfold Dev.onAck
  rw [ho]
  exact if_neg (by rw [hk]; decide)

end Sys2Proof
end

section
/-! SUPPORT. Transfers between units: the settling theorem (16 R577 to R580). -/

namespace Sys2Proof

open Machine

theorem arriveKind_same {d : Dev} {n : Nat} {f : Flit} {kind : Nat} (h : f.kind = kind) : d.arriveKind kind n f 0 = d.arrive n f 0 := if_pos h

theorem ackStatus_fault : ackStatus stFAULT = stFAULT := by decide

/-- A PUT that this unit handles: what `x`, the unit after its write, answers. -/
theorem put_answered {d x : Dev} {n st detail : Nat} {f : Flit} {y : Dev} {l : List Flit} (hf : ForUs d n f) (h0 : f.seqn = 0) (hl : f.last = true)
    (hk : f.kind = 1) (hw : putWrite (heardOn d n) (xferMid n) f = (some (st, detail), x))
    (he : OnlyInput l y (putEnd x (2 * n + f.vc % 2) f st)) : Gives (.put n f) d (Answered n f l y) := by
  refine gives_of_onDev (·.arriveKind 1 n f 0) (fun _ => rfl) hf.1.1 ?_
  rw [arriveKind_same hk]
  exact hf.answered ((handled_put hk hf.1.2.1 0).trans (onPut_one h0 hl hw)) he

/-- A GET_REQ answered from `x`, the unit after its read. -/
theorem getReq_answered {d x : Dev} {n : Nat} {f : Flit} {status : Nat} {bs : List Byte} (hf : ForUs d n f) (hk : f.kind = 2)
    (hx : x.get F.CHAIN_ADDR ≠ 0) (hr : (heardOn d n).onGetReq (xferMid n) f = .ok (x.reply f status bs)) :
    Gives (.getReq n f) d fun e => ∃ l, l ≠ [] ∧
      l.flatMap (·.data) = headWords (wordAt f.data 4 + 2 ^ 32 * wordAt f.data 5) bs.length status 0 ++ padWords bs ∧
      (∀ g ∈ l, g.kind = 3 ∧ g.cls = 2 ∧ g.dst = f.src ∧ g.dstPart = f.srcPart ∧ g.src = x.ident ∧ g.srcPart = f.dstPart ∧
        g.msg = f.msg ∧ g.data.length ≤ 60) ∧ Answered n f l x e := by
  refine gives_of_onDev (·.arriveKind 2 n f 0) (fun _ => rfl) hf.1.1 ?_
  rw [arriveKind_same hk]
  obtain ⟨r1, r2, r3⟩ := replyFlits_reads x f status bs
  exact ⟨_, r1, r2, r3, hf.answered ((handled_getReq hk hf.1.2.1 0).trans hr) (onlyInput_reply hx f status bs)⟩

/-- A GET_DATA that ends its message with `getEnd`. -/
theorem getData_answered {d x y : Dev} {n st detail : Nat} {f : Flit} {o : OutMsg} (hf : ForUs d n f) (h0 : f.seqn = 0) (hl : f.last = true)
    (hk : f.kind = 3) (ho : (d.fab.outMsgs.find? fun o => o.tag == f.msg && o.kind == 2 && o.dst == f.src) = some o) (hst : st < 16)
    (hw : getWrite (heardOn d n) o (xferMid n) f = (some (st, detail), x))
    (hy : ∀ z, OnlyInput [] x z → OnlyInput [] y (z.msgOver o (getEnd f st detail).1 (getEnd f st detail).2)) :
    Gives (.getData n f) d (Answered n f [] y) := by
  refine gives_of_onDev (·.arriveKind 3 n f 0) (fun _ => rfl) hf.1.1 ?_
  rw [arriveKind_same hk]
  obtain ⟨m, hm⟩ := onGetData_one (input := 2 * n + f.vc % 2) h0 hl hst (s := heardOn d n) ho hw
  exact hf.answered ((handled_getData hk hf.1.2.1 0).trans hm) (hy _ (onlyInput_keepIn x m false))

theorem onlyInput_over_ok {x z : Dev} (h : OnlyInput [] x z) (o : OutMsg) (d : Nat) : OnlyInput [] (endedMsg x o) (z.msgOver o stOK d) := by
  rw [msgOver_ok]
  exact onlyInput_endedMsg h o

theorem onlyInput_over_fails {x z : Dev} (h : OnlyInput [] x z) {o : OutMsg} (hm : o.mute = false) {st : Nat} (hs : st ≠ stOK) (d : Nat) :
    OnlyInput [] ((endedMsg x o).failCmd o.queue st d) (z.msgOver o st d) := by
  rw [msgOver_fails hm hs]
  exact onlyInput_failCmd (onlyInput_endedMsg h o) _ _ _

theorem getEnd_remote {f : Flit} {rem : Nat} (h : bitsOf (wordAt f.data 3) 0 4 = rem) (hr : rem ≠ stOK) (st detail : Nat) :
    getEnd f st detail = remoteEnd rem := by
  unfold getEnd
  rw [if_pos (by rw [h]; exact hr), h]

theorem getWrite_remote {f : Flit} {rem : Nat} (h : bitsOf (wordAt f.data 3) 0 4 = rem) (hr : rem ≠ stOK) (s : Dev) (o : OutMsg) (mid : Nat) :
    getWrite s o mid f = (some (stOK, 0), s) := if_neg fun x => hr (h.symm.trans x.1)

/-- An ACK that ends its message. -/
theorem ack_answered {d y : Dev} {n : Nat} {f : Flit} {o : OutMsg} (hf : ForUs d n f) (hk : f.kind = 4)
    (ho : (d.fab.outMsgs.find? fun o => o.tag == f.msg && o.kind != 2 && o.dst == f.src) = some o) (hp : o.kind = 1)
    (hy : OnlyInput [] y ((heardOn d n).msgOver o (remoteEnd (bitsOf (wordAt f.data 0) 0 4)).1 (remoteEnd (bitsOf (wordAt f.data 0) 0 4)).2)) :
    Gives (.ack n f) d (Answered n f [] y) := by
  refine gives_of_onDev (·.arriveKind 4 n f 0) (fun _ => rfl) hf.1.1 ?_
  rw [arriveKind_same hk]
  refine hf.answered (handled_ack hk _ 0) ?_
  rw [onAck_put (s := heardOn d n) ho hp]
  exact hy

/-- Settles O54: what the handling of each kind of flit leaves, from the unit that its access leaves. -/
theorem fabricTransfers : Obligations.FabricTransfers := by
  unfold Obligations.FabricTransfers
  refine ⟨fun d n f hf h0 hl => ?_, fun d tag hp => ?_⟩
  · intro h addr bytes aux at8 bs port isOpen fence allowed
    have hchain : h.get F.CHAIN_ADDR ≠ 0 := by
      rw [(heardOn_talk d n).2.get]
      exact hf.2.1
    have hopen : h.partOpen f.dstPart = true ↔ isOpen := partOpen_heardOn d n f.dstPart
    refine ⟨fun hk => ⟨fun hno => ?_, fun ho st detail x hw hx => ?_⟩, fun hk => ?_, fun hk o ho hm => ?_, fun hk o ho hkind hm => ?_⟩
    · have hw : putWrite h (xferMid n) f = (some (stFAULT, 0), h) := if_neg fun x => hno (hopen.mp x)
      have he := putEnd_plain (st := stFAULT) hchain (.inl (by decide)) (f := f) (2 * n + f.vc % 2)
      rw [ackStatus_fault, ackFlit_congr (a := d) (by simp only [Dev.ident, h, (heardOn_talk d n).2.get])] at he
      exact put_answered hf h0 hl hk hw he
    · have hw' : putWrite h (xferMid n) f = (some (st, detail), x) := (if_pos (hopen.mpr ho)).trans hw
      refine ⟨fun hs => put_answered hf h0 hl hk hw' (putEnd_plain hx hs _), fun hs hb => ⟨fun ha => ?_, fun ha hi hc => ?_⟩⟩
      · exact put_answered hf h0 hl hk hw' (putEnd_refused hx hs hb ha _)
      · exact put_answered hf h0 hl hk hw' (putEnd_signals hs hb ha hi hc _)
    · intro replies
      refine ⟨fun hno => getReq_answered hf hk hchain ?_, fun ho x hx => ⟨fun b hr => getReq_answered hf hk hx ?_, fun st detail hr => getReq_answered hf hk hx ?_⟩⟩
      · exact if_pos (by simpa using fun x => hno (hopen.mp x))
      · unfold Dev.onGetReq
        rw [if_neg (by simpa using hopen.mpr ho)]
        simp only [port, addr, bytes, h] at hr ⊢
        rw [hr]
      · unfold Dev.onGetReq
        rw [if_neg (by simpa using hopen.mpr ho)]
        simp only [port, addr, bytes, h] at hr ⊢
        rw [hr]
    · intro ended
      refine ⟨fun hrem st detail x hst hw => ?_, fun hrem => ?_, fun hrem => ?_⟩
      · have hw' : getWrite h o (xferMid n) f = (some (st, detail), x) := (if_pos ⟨hrem, by rw [hm]; rfl⟩).trans hw
        have he : getEnd f st detail = (st, detail) := if_neg fun x => x hrem
        refine ⟨fun hok => getData_answered hf h0 hl hk ho hst hw' fun z hz => ?_, fun hno => getData_answered hf h0 hl hk ho hst hw' fun z hz => ?_⟩
        · rw [he, hok]
          exact onlyInput_over_ok hz o detail
        · rw [he]
          exact onlyInput_over_fails hz hm hno detail
      · refine getData_answered hf h0 hl hk ho (by decide) (getWrite_remote hrem (by decide) h o _) fun z hz => ?_
        rw [getEnd_remote hrem (by decide)]
        exact onlyInput_over_fails hz hm (by decide) dREMOTEPROT
      · refine getData_answered hf h0 hl hk ho (by decide) (getWrite_remote hrem (by decide) h o _) fun z hz => ?_
        rw [getEnd_remote hrem (by decide)]
        exact onlyInput_over_fails hz hm (by decide) dREMOTEFAULT
    · intro ended st
      have hh := onlyInput_refl h
      refine ⟨fun hs => ack_answered hf hk ho hkind ?_, fun hs => ack_answered hf hk ho hkind ?_, fun hs => ack_answered hf hk ho hkind ?_⟩
      · rw [show bitsOf (wordAt f.data 0) 0 4 = stOK from hs]
        exact onlyInput_over_ok hh o 0
      · rw [show bitsOf (wordAt f.data 0) 0 4 = stPROT from hs]
        exact onlyInput_over_fails hh hm (by decide) dREMOTEPROT
      · rw [show bitsOf (wordAt f.data 0) 0 4 = stFAULT from hs]
        exact onlyInput_over_fails hh hm (by decide) dREMOTEFAULT
  · refine gives_of_onDev (·.ackTimeout tag) (fun _ => rfl) hp ?_
    obtain ⟨m1, m2⟩ := msgsOver_reads d (fun m => m.tag == tag) dACKTIMEOUT
    exact ⟨m2, m1⟩

end Sys2Proof
end

section
/-! SUPPORT. Collectives: control and data that arrive, repeated READYs and the time-out (16 R581 to R584, R606). -/

namespace Sys2Proof

open Machine

/-! ### COLL_CTRL sent -/

/-- Only flits `l` were injected. -/
def OnlyInject (l : List Flit) (x s : Dev) : Prop := s = { x with fab := { x.fab with inject := x.fab.inject ++ l } }

theorem OnlyInject.input {l : List Flit} {x s : Dev} (h : OnlyInject l x s) : OnlyInput l x s := ⟨x.fab.inMsgs, h⟩

theorem onlyInject_trans {l l' : List Flit} {a b c : Dev} (h : OnlyInject l a b) (h' : OnlyInject l' b c) : OnlyInject (l ++ l') a c := by
  unfold OnlyInject at *
  rw [h', h, List.append_assoc]

/-- A COLL_CTRL flit to member `j` of a collective. -/
def ctrlFlit (x : Dev) (k : Nat) (c : Coll) (op arg j : Nat) : Flit :=
  x.ownFlit (c.group.getD j (0, 0)).1 (c.group.getD j (0, 0)).2 3 6 (k / 32) 0 (ctrlWords op c.id arg)

theorem ctrlFlit_congr {a b : Dev} (h : b.ident = a.ident) (k : Nat) (c : Coll) (op arg : Nat) : ctrlFlit b k c op arg = ctrlFlit a k c op arg := by
  funext j
  unfold ctrlFlit Dev.ownFlit
  rw [h]

/-- COLL_CTRL sent to members in turn. -/
def Machine.Dev.sendCtrls (x : Dev) (l : List Nat) (k : Nat) (c : Coll) (op arg : Nat) : Dev := x.forEach l fun s m => s.sendCtrl k c m op arg

theorem onlyInject_sendCtrls (l : List Nat) {x : Dev} (h : x.get F.CHAIN_ADDR ≠ 0) (k : Nat) (c : Coll) (op arg : Nat) :
    OnlyInject (l.map (ctrlFlit x k c op arg)) x (x.sendCtrls l k c op arg) := by
  induction l generalizing x with
  | nil =>
    unfold OnlyInject
    rw [List.map_nil, List.append_nil]
    rfl
  | cons m l ih =>
    have h1 : OnlyInject [ctrlFlit x k c op arg m] x (x.sendCtrl k c m op arg) := if_neg h
    have h2 := ih (x := x.sendCtrl k c m op arg) (by rw [h1.input.get]; exact h)
    rw [ctrlFlit_congr h1.input.ident] at h2
    exact onlyInject_trans h1 h2

/-- The other members of a collective. -/
def Machine.Coll.others (c : Coll) : List Nat := (List.range c.nmemb).filter (· != c.self)

theorem onlyInject_abortAll {x : Dev} (h : x.get F.CHAIN_ADDR ≠ 0) (k : Nat) (c : Coll) :
    OnlyInject (c.others.map (ctrlFlit x k c ccABORT 0)) x (x.abortAll k c) := onlyInject_sendCtrls _ h k c ccABORT 0

theorem onlyInject_failed {x s : Dev} {l : List Flit} (h : OnlyInject l x s) (k detail : Nat) :
    OnlyInject l ((x.failCmd k stFAULT detail).setColl k none) ((s.failCmd k stFAULT detail).setColl k none) := by
  rw [h]
  rfl

/-- A collective that fails without a word. -/
theorem collFail_quiet {x : Dev} {k : Nat} {c : Coll} (hc : Tab.get none x.fab.colls k = some c) (detail : Nat) :
    x.collFail k detail false = (x.failCmd k stFAULT detail).setColl k none := by
  unfold Dev.collFail
  rw [hc]
  rfl

/-- One whose members hear of it. -/
theorem collFail_tells {x : Dev} {k : Nat} {c : Coll} (hx : x.get F.CHAIN_ADDR ≠ 0) (hc : Tab.get none x.fab.colls k = some c) (detail : Nat) :
    OnlyInject (c.others.map (ctrlFlit x k c ccABORT 0)) ((x.failCmd k stFAULT detail).setColl k none) (x.collFail k detail true) := by
  have he : x.collFail k detail true = ((x.abortAll k c).failCmd k stFAULT detail).setColl k none := by
    unfold Dev.collFail
    rw [hc]
    rfl
  rw [he]
  exact onlyInject_failed (onlyInject_abortAll hx k c) k detail

/-! ### COLL_CTRL that arrives -/

theorem handled_ctrl {s : Dev} {f : Flit} (hk : f.kind = 6) (input stay : Nat) : s.handled input f stay = .ok (s.onCollCtrl f) := by
  unfold Dev.handled
  simp only [hk]

theorem arriveCtrl_same {d : Dev} {n : Nat} {f : Flit} {op : Nat} (h : f.kind = 6 ∧ bitsOf (wordAt f.data 0) 0 4 = op) : d.arriveCtrl op n f = d.arrive n f 0 :=
  if_pos h

/-- The collective that a control flit is for has not begun here. -/
theorem onCollCtrl_ready_early {s : Dev} {f : Flit} (ho : bitsOf (wordAt f.data 0) 0 4 = ccREADY)
    (hc : s.collOf f.dstPart (bitsOf (wordAt f.data 0) 16 16) = none) :
    s.onCollCtrl f = s.injectFlit (s.ownFlit f.src f.srcPart 3 6 f.dstPart 0 (ctrlWords ccNAK (bitsOf (wordAt f.data 0) 16 16) 0)) := by
  unfold Dev.onCollCtrl
  simp only [hc]
  exact if_pos ho

/-- Room granted to member `m` lets a collective go on. -/
def Machine.Dev.granted (s : Dev) (k m bytes : Nat) : Dev :=
  (s.updColl k fun c => { c with grants := Tab.set none c.grants m (some ((Tab.get none c.grants m).getD 0 + bytes)) }).pump k

/-- What a control flit of member `m` does to a collective. -/
def Machine.Dev.ctrlDone (s : Dev) (k : Nat) (c : Coll) (m op arg : Nat) : Dev :=
  if op = ccREADY then (if arg = c.digest then s.granted k m grantBytes else s.collFail k dMISMATCH true)
  else if op = ccNAK then s.updColl k fun c => { c with naks := if c.naks.contains m then c.naks else c.naks ++ [m] }
  else if op = ccCREDIT then s.granted k m arg
  else if op = ccABORT then s.collFail k dABORT false
  else if op = ccDONE then (s.updColl k fun c => { c with dones := if c.dones.contains m then c.dones else c.dones ++ [m] }).pump k
  else s

theorem onCollCtrl_member {s : Dev} {f : Flit} {k m : Nat} {c : Coll}
    (hc : s.collOf f.dstPart (bitsOf (wordAt f.data 0) 16 16) = some (k, c)) (hm : c.member f.src f.srcPart = some m) :
    s.onCollCtrl f = s.ctrlDone k c m (bitsOf (wordAt f.data 0) 0 4) (wordAt f.data 1) := by
  unfold Dev.onCollCtrl
  simp only [hc, hm]
  rfl

theorem updColl_some {s : Dev} {k : Nat} {c : Coll} (hc : Tab.get none s.fab.colls k = some c) (f : Coll → Coll) :
    s.updColl k f = s.setColl k (some (f c)) := by
  unfold Dev.updColl
  rw [hc]
  rfl

/-! ### COLL_DATA that arrives -/

theorem handled_collData {s : Dev} {f : Flit} (hk : f.kind = 5) {n : Nat} (hn : n < 12) (stay : Nat) :
    s.handled (2 * n + f.vc % 2) f stay = s.onCollData (2 * n + f.vc % 2) (xferMid n) f := by
  unfold Dev.handled
  simp only [hk, unitPort_in s hn]

/-- The message of a flit of data that is its whole message. -/
def wholeMsg (input : Nat) (f : Flit) : InMsg := { firstMsg input f with got := 0 + (oneFlitBytes f).length, data := [] ++ oneFlitBytes f }

theorem onCollData_closed {s : Dev} {f : Flit} (h0 : f.seqn = 0) (hl : f.last = true) (ho : ¬s.partOpen f.dstPart = true) (input mid : Nat) :
    s.onCollData input mid f = .ok ((s.keepIn (wholeMsg input f) false).ack f stFAULT) := by
  unfold Dev.onCollData
  rw [inMsgOf_first h0]
  simp only [payload_first h0, hl, ho, Bool.not_true, Bool.not_false, Bool.false_eq_true, if_false, if_true]
  rfl

/-- Data of a collective that stages them. -/
theorem onCollData_stage {s : Dev} {f : Flit} {k m : Nat} {c : Coll} (h0 : f.seqn = 0) (hl : f.last = true) (ho : s.partOpen f.dstPart = true)
    (hc : s.collOf f.dstPart (wordAt f.data 3 % 65536) = some (k, c)) (hm : c.member f.src f.srcPart = some m) (hk : c.kind ≠ 4) (input mid : Nat) :
    s.onCollData input mid f = .ok ((((s.keepIn (wholeMsg input f) false).updColl k fun c =>
      { c with stage := c.stage ++ [(m, wordAt f.data 0 + 2 ^ 32 * wordAt f.data 1, oneFlitBytes f)] }).ack f stOK).pump k) := by
  unfold Dev.onCollData
  rw [inMsgOf_first h0]
  simp only [payload_first h0, hl, ho, Bool.not_true, Bool.false_eq_true, if_false, show (firstMsg input f).aux = wordAt f.data 3 from rfl, hc, hm, hk]
  rfl

/-- Data of an ALLTOALL, written at once. -/
theorem onCollData_direct {s x : Dev} {f : Flit} {k m st detail : Nat} {c : Coll} {input mid : Nat} (h0 : f.seqn = 0) (hl : f.last = true) (ho : s.partOpen f.dstPart = true)
    (hc : s.collOf f.dstPart (wordAt f.data 3 % 65536) = some (k, c)) (hm : c.member f.src f.srcPart = some m) (hk : c.kind = 4)
    (hw : s.inboundWrite ⟨f.dstPart, 0, mid, false⟩ (c.dst + (wordAt f.data 0 + 2 ^ 32 * wordAt f.data 1)) (oneFlitBytes f) = (some (st, detail), x)) :
    s.onCollData input mid f = .ok (((((x.keepIn (wholeMsg input f) false).updColl k fun c =>
      { c with direct := c.direct + (oneFlitBytes f).length }).sendCtrl k c m ccCREDIT (oneFlitBytes f).length).ack f (ackStatus st)).pump k) := by
  have hw' : s.inboundWrite ⟨f.dstPart, 0, mid, false⟩ (c.dst + (firstMsg input f).addr) ((firstMsg input f).data ++ oneFlitBytes f) = (some (st, detail), x) := hw
  unfold Dev.onCollData
  rw [inMsgOf_first h0]
  simp only [payload_first h0, hl, ho, Bool.not_true, Bool.false_eq_true, if_false, show (firstMsg input f).aux = wordAt f.data 3 from rfl, hc, hm, hk, if_true, hw']
  rfl

end Sys2Proof
end

section
/-! SUPPORT. Collectives: the settling theorem (16 R581 to R584, R606). -/

namespace Sys2Proof

open Machine

/-- A control flit that is handled. -/
theorem ctrl_answered {d x s : Dev} {n op : Nat} {f : Flit} {l : List Flit} (hf : ForUs d n f) (hk : f.kind = 6 ∧ bitsOf (wordAt f.data 0) 0 4 = op)
    (h : (heardOn d n).onCollCtrl f = s) (hs : OnlyInput l x s) : Answered n f l x (d.arriveCtrl op n f) := by
  rw [arriveCtrl_same hk]
  exact hf.answered ((handled_ctrl hk.1 _ _).trans (congrArg _ h)) hs

/-- A data flit that is handled. -/
theorem data_answered {d x s : Dev} {n : Nat} {f : Flit} {l : List Flit} (hf : ForUs d n f) (hk : f.kind = 5)
    (h : (heardOn d n).onCollData (2 * n + f.vc % 2) (xferMid n) f = .ok s) (hs : OnlyInput l x s) : Answered n f l x (d.arriveKind 5 n f 0) := by
  rw [arriveKind_same hk]
  exact hf.answered ((handled_collData hk hf.1.2.1 0).trans h) hs

theorem heardOn_chain {d : Dev} {n : Nat} {f : Flit} (hf : ForUs d n f) : (heardOn d n).get F.CHAIN_ADDR ≠ 0 := by
  rw [(heardOn_talk d n).2.get]
  exact hf.2.1

theorem ack_eq {x : Dev} {f : Flit} (status : Nat) : x.ack f status = x.injectFlit (ackFlit x f status) := rfl

/-- A collective whose time ran out (16 R584). -/
theorem collTimeout_fails {d : Dev} {k : Nat} {c : Coll} {cmd : Cmd} (hc : Tab.get none d.fab.colls k = some c) (hx : d.get F.CHAIN_ADDR ≠ 0)
    (hcmd : d.cmdOf k = some cmd) (ht : bitsOf (wordAt cmd.words 12) 0 24 ≠ 0) :
    ((d.collTimeout k).fab.inject = d.fab.inject ++ c.others.map (ctrlFlit d k c ccABORT 0)) ∧
    Tab.get none (d.collTimeout k).fab.colls k = none ∧
    (d.collTimeout k).cmdOf k = some { cmd with fail := some (cmd.fail.getD (stFAULT, dCLTIMEOUT)), todo := [] } ∧
    (∀ j, j ≠ k → (d.collTimeout k).queue j = d.queue j) ∧
    d.collTimeout k = { d with queues := (d.collTimeout k).queues, fab := { d.fab with inject := (d.collTimeout k).fab.inject, colls := (d.collTimeout k).fab.colls } } := by
  have he : d.collTimeout k = d.collFail k dCLTIMEOUT true := by
    unfold Dev.collTimeout
    rw [hcmd]
    exact if_neg ht
  obtain ⟨r1, r2, r3⟩ := updCmd_reads hcmd fun c => { c with fail := some (c.fail.getD (stFAULT, dCLTIMEOUT)), todo := [] }
  change (d.failCmd k stFAULT dCLTIMEOUT).cmdOf k = _ at r1
  change d.failCmd k stFAULT dCLTIMEOUT = _ at r3
  change ∀ j, j ≠ k → (d.failCmd k stFAULT dCLTIMEOUT).queue j = d.queue j at r2
  have hin := collFail_tells (k := k) (detail := dCLTIMEOUT) hx hc
  rw [he]
  unfold OnlyInject at hin
  rw [hin]
  generalize d.failCmd k stFAULT dCLTIMEOUT = z at *
  refine ⟨?_, Tab.get_set none z.fab.colls k k none |>.trans (if_pos rfl), r1, r2, ?_⟩
  · rw [r3]
    rfl
  · rw [r3]
    rfl

theorem setColl_reads (s : Dev) (k : Nat) (v : Option Coll) :
    Tab.get none (s.setColl k v).fab.colls k = v ∧ s.setColl k v = { s with fab := { s.fab with colls := (s.setColl k v).fab.colls } } :=
  ⟨Tab.get_set_same none s.fab.colls k v, rfl⟩

/-- READYs repeated to the members that answered NAK. -/
theorem readyRepeat_reads {d : Dev} {k : Nat} {c : Coll} (hc : Tab.get none d.fab.colls k = some c) (hx : d.get F.CHAIN_ADDR ≠ 0) :
    (d.readyRepeat k).fab.inject = d.fab.inject ++ c.naks.map (ctrlFlit d k c ccREADY c.digest) ∧
    Tab.get none (d.readyRepeat k).fab.colls k = some { c with naks := [] } ∧
    d.readyRepeat k = { d with fab := { d.fab with inject := (d.readyRepeat k).fab.inject, colls := (d.readyRepeat k).fab.colls } } := by
  have he : d.readyRepeat k = (d.setColl k (some { c with naks := [] })).sendCtrls c.naks k c ccREADY c.digest := by
    rw [← updColl_some hc fun c => { c with naks := [] }]
    unfold Dev.readyRepeat
    rw [hc]
    rfl
  obtain ⟨z1, z2⟩ := setColl_reads d k (some { c with naks := [] })
  generalize d.setColl k (some { c with naks := [] }) = z at he z1 z2
  have hz : z.get F.CHAIN_ADDR = d.get F.CHAIN_ADDR ∧ z.ident = d.ident := by
    rw [z2]
    exact ⟨rfl, rfl⟩
  have hin := onlyInject_sendCtrls c.naks (x := z) (by rw [hz.1]; exact hx) k c ccREADY c.digest
  rw [ctrlFlit_congr hz.2] at hin
  rw [he]
  generalize z.sendCtrls c.naks k c ccREADY c.digest = e at hin ⊢
  have hi : z.fab.inject = d.fab.inject := by rw [z2]
  rw [hin]
  exact ⟨by rw [← hi], z1, by rw [z2]⟩

/-- Settles O55: what each flit does to the collective it is for, and what a repeated READY and the time-out send. -/
theorem fabricCollectives : Obligations.FabricCollectives := by
  unfold Obligations.FabricCollectives
  refine ⟨fun d n f hf => ?_, fun d k c hp hq hc hx => ⟨?_, fun cmd hcmd ht => ?_⟩⟩
  · intro h id arg code
    have hchain : h.get F.CHAIN_ADDR ≠ 0 := heardOn_chain hf
    have hp := hf.1.1
    refine ⟨fun hk hc => gives_of_onDev (·.arriveCtrl ccREADY n f) (fun _ => rfl) hp ?_, fun k c m hc hm hcoll => ?_, fun hk h0 hl hin => ?_⟩
    · exact ctrl_answered hf hk (onCollCtrl_ready_early (s := heardOn d n) hk.2 hc) (onlyInput_inject hchain _)
    · intro gone room
      have hdone : ∀ op, code op → h.onCollCtrl f = h.ctrlDone k c m op arg := fun op hop => by
        rw [← hop.2]
        exact onCollCtrl_member (s := heardOn d n) hc hm
      have hcoll' : Tab.get none h.fab.colls k = some c := hcoll
      refine ⟨fun hk ha => gives_of_onDev (·.arriveCtrl ccREADY n f) (fun _ => rfl) hp ?_, fun hk ha => gives_of_onDev (·.arriveCtrl ccREADY n f) (fun _ => rfl) hp ?_,
        fun hk => gives_of_onDev (·.arriveCtrl ccCREDIT n f) (fun _ => rfl) hp ?_, fun hk => gives_of_onDev (·.arriveCtrl ccABORT n f) (fun _ => rfl) hp ?_,
        fun hk hn => gives_of_onDev (·.arriveCtrl ccNAK n f) (fun _ => rfl) hp ?_, fun hk hn => gives_of_onDev (·.arriveCtrl ccDONE n f) (fun _ => rfl) hp ?_⟩
      · refine ctrl_answered hf hk ((hdone _ hk).trans ((if_pos rfl).trans (if_neg ha))) ?_
        exact (collFail_tells hchain hcoll' dMISMATCH).input
      · exact ctrl_answered hf hk ((hdone _ hk).trans ((if_pos rfl).trans (if_pos ha))) (onlyInput_refl _)
      · exact ctrl_answered hf hk (hdone _ hk) (onlyInput_refl _)
      · refine ctrl_answered hf hk ((hdone _ hk).trans (collFail_quiet hcoll' dABORT)) (onlyInput_refl _)
      · refine ctrl_answered hf hk (hdone _ hk) ?_
        have he : h.ctrlDone k c m ccNAK arg = h.setColl k ((Tab.get none d.fab.colls k).map fun c => { c with naks := c.naks ++ [m] }) := by
          change h.updColl k _ = _
          rw [updColl_some hcoll', hcoll]
          simp [hn]
        rw [he]
        exact onlyInput_refl _
      · refine ctrl_answered hf hk (hdone _ hk) ?_
        have he : h.ctrlDone k c m ccDONE arg = (h.updColl k fun c => { c with dones := c.dones ++ [m] }).pump k := by
          change (h.updColl k _).pump k = _
          rw [updColl_some hcoll', updColl_some hcoll']
          simp [hn]
        rw [he]
        exact onlyInput_refl _
    · intro addr bs
      have hkeep : ∀ m, h.keepIn m false = h := fun m => keepIn_none (x := h) hin m
      have hopen := partOpen_heardOn d n f.dstPart
      refine ⟨fun hno => gives_of_onDev (·.arriveKind 5 n f 0) (fun _ => rfl) hp ?_, fun ho k c m hc hm hcoll => ⟨fun hk4 => gives_of_onDev (·.arriveKind 5 n f 0) (fun _ => rfl) hp ?_,
        fun hk4 st detail x hxin hw => ?_⟩⟩
      · refine data_answered hf hk (onCollData_closed h0 hl (fun x => hno (hopen.mp x)) _ _) ?_
        rw [hkeep, ← ackFlit_congr (b := h) (by simp only [Dev.ident, h, (heardOn_talk d n).2.get])]
        exact onlyInput_ack hchain f stFAULT
      · refine data_answered hf hk (onCollData_stage h0 hl (hopen.mpr ho) hc hm hk4 _ _) ?_
        rw [hkeep]
        exact onlyInput_refl _
      · intro y
        refine gives_of_onDev (·.arriveKind 5 n f 0) (fun _ => rfl) hp ?_
        refine data_answered hf hk (onCollData_direct h0 hl (hopen.mpr ho) hc hm hk4 hw) ?_
        rw [keepIn_none hxin]
        have hi : (y.sendCtrl k c m ccCREDIT bs.length).ident = y.ident := by
          unfold Dev.sendCtrl Dev.injectFlit
          exact iteInduction (motive := fun z : Dev => z.ident = y.ident) (fun _ => rfl) fun _ => rfl
        change OnlyInput [] _ (((y.sendCtrl k c m ccCREDIT bs.length).ack f (ackStatus st)).pump k)
        rw [ack_eq, ackFlit_congr hi]
        exact onlyInput_refl _
  · exact gives_onQueue (f := (·.readyRepeat k)) (fun _ => rfl) hp hq (readyRepeat_reads hc hx)
  · exact gives_onQueue (f := (·.collTimeout k)) (fun _ => rfl) hp hq (collTimeout_fails hc hx hcmd ht)

end Sys2Proof
end

section
/-! SUPPORT. Class 0 messages, and encapsulation (16 R568, R587, R588, R593, R607; 03 R76; 14 R510). -/

namespace Sys2Proof

open Machine

/-! ### CTRL0 -/

theorem handled_ctrl0 {s : Dev} {f : Flit} (hk : f.kind = 7) (input stay : Nat) : s.handled input f stay = .ok (s.onCtrl0 input f stay) := by
  unfold Dev.handled
  simp only [hk]

theorem toChain_none {s : Dev} (h : s.get F.RELAY = 0) (typ : Nat) (data : List Word) : s.toChain typ data = s := by
  unfold Dev.toChain Dev.flag
  rw [h]
  rfl

/-- A CTRL0 flit that the unit hears. -/
theorem ctrl0_answered {d s : Dev} {n stay : Nat} {f : Flit} (hf : ForUs d n f) (hk : f.kind = 7)
    (h : (heardOn d n).onCtrl0 (2 * n + f.vc % 2) f stay = s) : Gives (.ctrl0 n f stay) d (Answered n f [] s) := by
  refine gives_of_onDev (·.arriveKind 7 n f stay) (fun _ => rfl) hf.1.1 ?_
  have ha : d.arriveKind 7 n f stay = d.arrive n f stay := if_pos hk
  rw [ha, hf.arrive stay, consume_ok hf.heldIn ((handled_ctrl0 hk _ _).trans (congrArg _ h))]
  exact (onlyInput_refl s).answered hf.1.2.1 f

/-- What the cadence unit does with a message of the fabric. -/
def Machine.Dev.hearsCad (s : Dev) (link stay : Nat) (f : Flit) : Dev :=
  let data := f.data.drop 1
  let later := fun (d : Nat) => { TickMsg.ofWords data with delay := min ((TickMsg.ofWords data).delay + d) (2 ^ 24 - 1) }
  if wordAt f.data 0 = tyTick then (s.onTick (later link)).toChain tyTick (later (link + stay)).toWords
  else if wordAt f.data 0 = tyVote then s.onVote (VoteMsg.ofWords data)
  else if wordAt f.data 0 = tyJoin then s.onPart true (VoteMsg.ofWords data)
  else if wordAt f.data 0 = tyLeave then s.onPart false (VoteMsg.ofWords data)
  else if wordAt f.data 0 = tyBid then (s.onBid (BidMsg.ofWords data)).toChain tyBid data
  else s.onHandover data

theorem onCtrl0_cad {s : Dev} {f : Flit} {n v : Nat} (hn : n < 12) (hv : v < 2)
    (ht : wordAt f.data 0 ∈ [tyTick, tyVote, tyJoin, tyLeave, tyBid, tyHandover]) (stay : Nat) :
    s.onCtrl0 (2 * n + v) f stay = s.hearsCad (s.get F.PORT_DELAY (fix n)) stay f := by
  have h1 : (2 * n + v) / 2 = n := by omega
  have h2 : 2 * n + v < 24 := by omega
  unfold Dev.onCtrl0 Dev.hearsCad
  simp only [h1, h2, if_true]
  refine ite_congr rfl (fun _ => rfl) fun n1 => ite_congr rfl (fun _ => rfl) fun n2 => ite_congr rfl (fun _ => rfl) fun n3 =>
    ite_congr rfl (fun _ => rfl) fun n4 => ite_congr rfl (fun _ => rfl) fun n5 => ?_
  have hh : wordAt f.data 0 = tyHandover := by
    simp only [List.mem_cons, List.not_mem_nil, or_false] at ht
    tauto
  rw [if_pos hh]

/-- A stop sets line 15 of its core. -/
theorem onCtrl0_stop {s : Dev} {f : Flit} (ht : wordAt f.data 0 = c0STOP) (hc : Tab.has s.cores (wordAt (f.data.drop 1) 0) = true) (input stay : Nat) :
    s.onCtrl0 input f stay =
      { s with cores := Tab.upd Core.reset s.cores (wordAt (f.data.drop 1) 0) fun c => { c with lines := setBit c.lines 15 } } := by
  unfold Dev.onCtrl0
  simp only [ht, hc, show c0STOP ≠ tyTick by decide, show c0STOP ≠ tyVote by decide, show c0STOP ≠ tyJoin by decide,
    show c0STOP ≠ tyLeave by decide, show c0STOP ≠ tyBid by decide, show c0STOP ≠ tyHandover by decide, show c0STOP ≠ c0LOST by decide,
    false_and, if_false, if_true]

/-! ### Frames to a peer -/

/-- Only what the unit knows of its peers, and the frames it sent, changed. -/
def OnlyPeers (a b : Dev) : Prop := b = { a with fab := { a.fab with peers := b.fab.peers, frames := b.fab.frames } }

theorem onlyPeers_refl (a : Dev) : OnlyPeers a a := rfl

theorem onlyPeers_trans {a b c : Dev} (h : OnlyPeers a b) (h' : OnlyPeers b c) : OnlyPeers a c := by
  unfold OnlyPeers at *
  rw [h] at h'
  exact h'

theorem OnlyPeers.eframe {a b : Dev} (h : OnlyPeers a b) (e cls psn ackPsn : Nat) (nak ece : Bool) (flits : List Flit) :
    b.eframe e cls psn ackPsn nak ece flits = a.eframe e cls psn ackPsn nak ece flits := by
  rw [h]
  rfl

theorem setPeer_reads (s : Dev) (key : Nat) (p : Peer) :
    Tab.get none (s.setPeer key p).fab.peers key = some p ∧ (s.setPeer key p).fab.frames = s.fab.frames ∧ OnlyPeers s (s.setPeer key p) :=
  ⟨Tab.get_set_same none s.fab.peers key (some p), rfl, rfl⟩

/-- Frames sent: peers as they were. -/
theorem sendFrames_reads (l : List (Nat × List Flit)) (s : Dev) (key e : Nat) (p : Peer) :
    (s.forEach l fun s u => s.sendFrame p.port (s.eframe e (key % 4) u.1 p.expect false p.ece u.2)).fab.frames =
      s.fab.frames ++ l.map (fun u => (p.port, s.eframe e (key % 4) u.1 p.expect false p.ece u.2)) ∧
    (s.forEach l fun s u => s.sendFrame p.port (s.eframe e (key % 4) u.1 p.expect false p.ece u.2)).fab.peers = s.fab.peers ∧
    OnlyPeers s (s.forEach l fun s u => s.sendFrame p.port (s.eframe e (key % 4) u.1 p.expect false p.ece u.2)) := by
  induction l generalizing s with
  | nil => exact ⟨(List.append_nil _).symm, rfl, rfl⟩
  | cons u l ih =>
    obtain ⟨x, hx⟩ : ∃ x, x = s.sendFrame p.port (s.eframe e (key % 4) u.1 p.expect false p.ece u.2) := ⟨_, rfl⟩
    have h0 : OnlyPeers s x ∧ x.fab.frames = s.fab.frames ++ [(p.port, s.eframe e (key % 4) u.1 p.expect false p.ece u.2)] ∧
        x.fab.peers = s.fab.peers := by
      rw [hx]
      exact ⟨rfl, rfl, rfl⟩
    obtain ⟨x1, x2, x3⟩ := h0
    obtain ⟨h1, h2, h3⟩ := ih x
    rw [Dev.forEach, List.foldl_cons, ← hx]
    refine ⟨h1.trans ?_, h2.trans x3, onlyPeers_trans x1 h3⟩
    simp only [x2, x1.eframe, List.map_cons, List.append_assoc, List.singleton_append]

theorem resend_reads (s : Dev) (key e : Nat) (p : Peer) :
    (s.resend key e p).fab.frames = s.fab.frames ++ p.unacked.map (fun u => (p.port, s.eframe e (key % 4) u.1 p.expect false p.ece u.2)) ∧
    (s.resend key e p).fab.peers = s.fab.peers ∧ OnlyPeers s (s.resend key e p) := sendFrames_reads p.unacked s key e p

/-- Nothing waits for a peer. -/
theorem encapSend_none {s : Dev} {key : Nat} {p : Peer} (hp : Tab.get none s.fab.peers key = some p) (hw : p.waiting = []) (e fuel : Nat) :
    s.encapSend key e fuel = s := by
  cases fuel with
  | zero => rfl
  | succ n =>
    unfold Dev.encapSend
    simp only [hp, hw, List.isEmpty_nil, true_or, if_true]

theorem OnlyPeers.regs {a b : Dev} (h : OnlyPeers a b) : b.regs = a.regs := by rw [h]

theorem peerEntry_congr {a b : Dev} (h : OnlyPeers a b) (ident : Nat) : b.peerEntry ident = a.peerEntry ident := by
  rw [h]
  rfl

theorem peerOf_some {s : Dev} {key : Nat} {p : Peer} (h : Tab.get none s.fab.peers key = some p) (port : Nat) : s.peerOf key port = p := by
  unfold Dev.peerOf
  rw [h]
  rfl

/-- An acknowledgement to a peer. -/
theorem encapAck_reads {s : Dev} {ident cls entry : Nat} {p : Peer} (he : s.peerEntry ident = some entry)
    (hp : Tab.get none s.fab.peers (ident * 4 + cls) = some p) (port : Nat) (nak ece : Bool) :
    (s.encapAck ident cls port nak ece).fab.frames = s.fab.frames ++ [(port, s.eframe entry cls p.next p.expect nak ece [])] ∧
    (s.encapAck ident cls port nak ece).fab.peers = s.fab.peers ∧ OnlyPeers s (s.encapAck ident cls port nak ece) := by
  unfold Dev.encapAck
  simp only [he, peerOf_some hp]
  exact ⟨rfl, rfl, rfl⟩

end Sys2Proof
end

section
/-! SUPPORT. Class 0 messages, and encapsulation: the settling theorem (16 R568, R587, R588, R593, R607; 03 R76; 14 R510). -/

namespace Sys2Proof

open Machine

/-! ### What an acknowledgement does at the sender -/

theorem peerAck_kept (s : Dev) (p : Peer) (ack : Nat) (ece : Bool) :
    (s.peerAck p ack ece).unacked = (p.unacked.filter fun u => !psnAfter ack u.1) ∧ (s.peerAck p ack ece).expect = p.expect ∧
    (s.peerAck p ack ece).waiting = p.waiting := by
  unfold Dev.peerAck
  exact iteInduction (motive := fun q : Peer => q.unacked = (p.unacked.filter fun u => !psnAfter ack u.1) ∧ q.expect = p.expect ∧ q.waiting = p.waiting)
    (fun _ => ⟨rfl, rfl, rfl⟩) fun _ =>
      iteInduction (motive := fun q : Peer => q.unacked = (p.unacked.filter fun u => !psnAfter ack u.1) ∧ q.expect = p.expect ∧ q.waiting = p.waiting)
        (fun _ => ⟨rfl, rfl, rfl⟩) fun _ => ⟨rfl, rfl, rfl⟩

theorem peerAck_halves {s : Dev} {p : Peer} (hh : p.halved = none) (ack : Nat) :
    (s.peerAck p ack true).window = max 4 (p.window / 2) ∧ (s.peerAck p ack true).halved = some s.now := by
  unfold Dev.peerAck
  simp only [hh, Bool.and_self, if_true, and_self]

theorem peerAck_waits {s : Dev} {p : Peer} {t : Nat} (hh : p.halved = some t) (ht : s.now < t + 25 * s.get F.ENCAP_RTO) (ack : Nat) :
    (s.peerAck p ack true).halved = some t ∧ (s.peerAck p ack true).window ≤ max p.window (min (s.get F.ENCAP_WINDOW) (p.window + 1)) := by
  unfold Dev.peerAck
  simp only [hh, Bool.true_and, decide_eq_true_eq]
  rw [if_neg (Nat.not_le.mpr ht)]
  exact iteInduction (motive := fun q : Peer => q.halved = some t ∧ q.window ≤ max p.window (min (s.get F.ENCAP_WINDOW) (p.window + 1)))
    (fun _ => ⟨rfl, le_max_right _ _⟩) fun _ => ⟨rfl, le_max_left _ _⟩

/-! ### ENCAP_FRAME -/

/-- The acknowledgement that a frame carries: its peer's frames go, or are sent again. -/
def Machine.Dev.frameAck (s : Dev) (key entry : Nat) (q : Peer) (nak : Bool) : Dev :=
  (if nak then (s.setPeer key q).resend key entry q else s.setPeer key q).encapSend key entry (q.waiting.length + 1)

/-- What a frame then carries for this unit. -/
def Machine.Dev.frameData (s : Dev) (ident key port : Nat) (f : EFrame) : Dev :=
  if f.flits.isEmpty then s
  else if f.psn = (s.peerOf key port).expect then
    if ownCredits.getD (2 * (f.cls % 4)) 0 < s.inputUse port (f.cls % 4) + f.flits.length then s
    else
      ((s.setPeer key { s.peerOf key port with expect := ((s.peerOf key port).expect + 1) % 2 ^ 32 }).forEach f.flits fun s g =>
        if !g.crcOk then s
        else if !g.wellKind ∨ g.kind = 0 then s.count F.FAB_FORMAT_COUNT
        else s.place (2 * port + g.vc % 2) g 0).encapAck ident (f.cls % 4) port false f.ce
  else s.encapAck ident (f.cls % 4) port (!psnAfter (s.peerOf key port).expect f.psn) f.ce

theorem encapFrame_bad {d : Dev} {n : Nat} {f : EFrame} (hu : d.fabUp n = true) (he : d.encapPort n = true) (hf : d.frameOk f = false) :
    d.encapFrame n f = d.count F.ENCAP_DROP_COUNT := by
  unfold Dev.encapFrame
  rw [if_neg (by simp [hu, he]), if_pos (by simp [hf])]

theorem encapFrame_good {d : Dev} {n ident entry : Nat} {f : EFrame} {p : Peer} (hu : d.fabUp n = true) (he : d.encapPort n = true)
    (hf : d.frameOk f = true) (hi : d.framePeer f = some ident) (hent : d.peerEntry ident = some entry) (hc : f.cls < 4)
    (hp : Tab.get none d.fab.peers (ident * 4 + f.cls) = some p) :
    d.encapFrame n f =
      (d.frameAck (ident * 4 + f.cls) entry (d.peerAck p f.ackPsn f.ece) f.nak).frameData ident (ident * 4 + f.cls) n f := by
  have hmod : f.cls % 4 = f.cls := Nat.mod_eq_of_lt hc
  have hent' : (d.setPeer (ident * 4 + f.cls) (d.peerAck p f.ackPsn f.ece)).peerEntry ident = some entry :=
    (peerEntry_congr (setPeer_reads d _ _).2.2 ident).trans hent
  unfold Dev.encapFrame
  rw [if_neg (by simp [hu, he]), if_neg (by simp [hf])]
  simp only [hi, hmod, peerOf_some hp, hent']
  unfold Dev.frameAck Dev.frameData
  simp only [hmod]

theorem frameAck_reads {d : Dev} {key entry cls ident : Nat} {q : Peer} (hkey : key = ident * 4 + cls) (hc : cls < 4) (hw : q.waiting = []) (nak : Bool) :
    Tab.get none (d.frameAck key entry q nak).fab.peers key = some q ∧
    (d.frameAck key entry q nak).fab.frames = d.fab.frames ++
      (if nak = true then q.unacked.map fun u => (q.port, d.eframe entry cls u.1 q.expect false q.ece u.2) else []) ∧
    OnlyPeers d (d.frameAck key entry q nak) := by
  have hmod : key % 4 = cls := by omega
  obtain ⟨p1, p2, p3⟩ := setPeer_reads d key q
  obtain ⟨r1, r2, r3⟩ := resend_reads (d.setPeer key q) key entry q
  unfold Dev.frameAck
  cases nak
  · rw [if_neg Bool.false_ne_true, if_neg Bool.false_ne_true, encapSend_none (p := q) p1 hw]
    exact ⟨p1, p2.trans (List.append_nil _).symm, p3⟩
  · have hp : Tab.get none ((d.setPeer key q).resend key entry q).fab.peers key = some q := by rw [r2, p1]
    rw [if_pos rfl, if_pos rfl, encapSend_none (p := q) hp hw]
    refine ⟨hp, ?_, onlyPeers_trans p3 r3⟩
    rw [hmod] at r1
    simp only [p3.eframe] at r1
    exact r1.trans (by rw [p2])

end Sys2Proof
end

section
/-! SUPPORT. Class 0 messages, and encapsulation: the settling theorem (16 R568, R587, R588, R593, R607; 03 R76; 14 R510). -/

namespace Sys2Proof

open Machine

theorem core_upd {s e : Dev} {key : Nat} {f : Core → Core} (h : e.cores = Tab.upd Core.reset s.cores key f) (k : Nat) :
    e.core k = if k = key then f (s.core key) else s.core k := by
  unfold Dev.core
  rw [h]
  exact Tab.get_set _ _ _ _ _

/-- Class 0 messages for this unit. -/
theorem fabricControl (d : Dev) (n : Nat) (f : Flit) (stay : Nat) (hf : ForUs d n f) (hk : f.kind = 7)
    (ht : wordAt f.data 0 ∈ [tyTick, tyVote, tyJoin, tyLeave, tyBid, tyHandover]) {s : Dev}
    (hs : (heardOn d n).hearsCad (d.get F.PORT_DELAY (fix n)) stay f = s) : Gives (.ctrl0 n f stay) d (Answered n f [] s) := by
  refine ctrl0_answered hf hk ?_
  rw [onCtrl0_cad hf.1.2.1 (Nat.mod_lt _ (by decide)) ht, (heardOn_talk d n).2.get]
  exact hs

/-- A stop from the fabric. -/
theorem fabricStop {d : Dev} {n : Nat} {f : Flit} {stay : Nat} (hf : ForUs d n f) (hk : f.kind = 7) (ht : wordAt f.data 0 = c0STOP)
    (hc : Tab.has d.cores (wordAt (f.data.drop 1) 0) = true) : Gives (.ctrl0 n f stay) d fun e =>
      bitAt (e.core (wordAt (f.data.drop 1) 0)).lines 15 = true ∧ (∀ k, k ≠ wordAt (f.data.drop 1) 0 → e.core k = d.core k) ∧
      (e.core (wordAt (f.data.drop 1) 0)).pc = (d.core (wordAt (f.data.drop 1) 0)).pc ∧ e.regs = d.regs ∧ e.mem = d.mem := by
  obtain ⟨e, he, h1, h2, h3⟩ := ctrl0_answered (stay := stay) hf hk (onCtrl0_stop (s := heardOn d n) ht hc _ stay)
  obtain ⟨t1, t2⟩ := heardOn_talk d n
  obtain ⟨hcores, hregs, hmem⟩ : e.cores = Tab.upd Core.reset (heardOn d n).cores (wordAt (f.data.drop 1) 0) (fun c => { c with lines := setBit c.lines 15 }) ∧
      e.regs = (heardOn d n).regs ∧ e.mem = d.mem := by
    rw [h3]
    exact ⟨rfl, rfl, rfl⟩
  have hcore : ∀ k, e.core k = if k = wordAt (f.data.drop 1) 0 then { d.core (wordAt (f.data.drop 1) 0) with
      lines := setBit (d.core (wordAt (f.data.drop 1) 0)).lines 15 } else d.core k := fun k =>
    core_upd (s := heardOn d n) (f := fun c => { c with lines := setBit c.lines 15 }) hcores k
  refine ⟨e, he, ?_, fun k hk => (hcore k).trans (if_neg hk), ?_, ?_, ?_⟩
  · rw [hcore, if_pos rfl]
    exact (bitAt_setBit _ _ _).trans (by simp)
  · rw [hcore, if_pos rfl]
  · exact hregs.trans t2.regs
  · exact hmem

/-- No acknowledgement in time. -/
theorem encapRto_again {d : Dev} {ident cls entry : Nat} {p : Peer} (hp : Tab.get none d.fab.peers (ident * 4 + cls) = some p)
    (he : d.peerEntry ident = some entry) (hu : p.unacked ≠ []) (hr : p.resends < 8) :
    d.encapRto ident cls = (d.setPeer (ident * 4 + cls) { p with resends := p.resends + 1 }).resend (ident * 4 + cls) entry p := by
  unfold Dev.encapRto
  simp only [hp, he]
  rw [if_neg (by simpa using hu), if_neg (Nat.not_le.mpr hr)]

/-- The peer is unreachable. -/
theorem encapRto_lost {d : Dev} {ident cls entry : Nat} {p : Peer} (hp : Tab.get none d.fab.peers (ident * 4 + cls) = some p)
    (he : d.peerEntry ident = some entry) (hu : p.unacked ≠ []) (hr : 8 ≤ p.resends) :
    d.encapRto ident cls = ((d.setPeer (ident * 4 + cls) { p with unacked := [], waiting := [], resends := 0 }).msgsOver
      (fun m => m.dst == ident) dLINKLOST).fabEvent F.ENCAP_PEER_LOST 3 := by
  unfold Dev.encapRto
  simp only [hp, he]
  rw [if_neg (by simpa using hu), if_pos hr]

/-! ### A frame of a peer -/

section
variable {d s : Dev} {n ident entry key : Nat} {f : EFrame} {p q : Peer} (hqe : q.expect = p.expect) (hs : OnlyPeers d s)
  (hpeer : Tab.get none s.fab.peers key = some q) (hkey : key = ident * 4 + f.cls) (hc : f.cls < 4) (hent : s.peerEntry ident = some entry)
include hqe hs hpeer hkey hc hent

/-- Flits that are not the ones expected are answered, and not taken. -/
theorem frameData_answers (hfl : f.flits ≠ []) (hpsn : f.psn ≠ p.expect) :
    Tab.get none (s.frameData ident key n f).fab.peers key = some q ∧
    (s.frameData ident key n f).fab.frames = s.fab.frames ++ [(n, d.eframe entry f.cls q.next p.expect (!psnAfter p.expect f.psn) f.ce [])] ∧
    OnlyPeers d (s.frameData ident key n f) := by
  subst hkey
  have hof := peerOf_some hpeer n
  have he : s.frameData ident (ident * 4 + f.cls) n f = s.encapAck ident f.cls n (!psnAfter p.expect f.psn) f.ce := by
    unfold Dev.frameData
    rw [if_neg (by simpa using hfl), hof, hqe, if_neg hpsn, Nat.mod_eq_of_lt hc]
  obtain ⟨x1, x2, x3⟩ := encapAck_reads hent hpeer n (!psnAfter p.expect f.psn) f.ce
  rw [hs.eframe, hqe] at x1
  rw [he]
  exact ⟨by rw [x2]; exact hpeer, x1, onlyPeers_trans hs x3⟩

/-- The frame expected, with one flit whose CRC fails and room for it, is taken and acknowledged. -/
theorem frameData_takes (hpsn : f.psn = p.expect) {g : Flit} (hfl : f.flits = [g]) (hcrc : g.crcOk = false)
    (hroom : d.inputUse n f.cls + 1 ≤ ownCredits.getD (2 * f.cls) 0) :
    Tab.get none (s.frameData ident key n f).fab.peers key = some { q with expect := (p.expect + 1) % 2 ^ 32 } ∧
    (s.frameData ident key n f).fab.frames = s.fab.frames ++ [(n, d.eframe entry f.cls q.next ((p.expect + 1) % 2 ^ 32) false f.ce [])] ∧
    OnlyPeers d (s.frameData ident key n f) := by
  subst hkey
  have hof := peerOf_some hpeer n
  obtain ⟨y1, y2, y3⟩ := setPeer_reads s (ident * 4 + f.cls) { q with expect := (p.expect + 1) % 2 ^ 32 }
  have huse : s.inputUse n f.cls = d.inputUse n f.cls := by
    rw [hs]
    rfl
  have he : s.frameData ident (ident * 4 + f.cls) n f =
      (s.setPeer (ident * 4 + f.cls) { q with expect := (p.expect + 1) % 2 ^ 32 }).encapAck ident f.cls n false f.ce := by
    unfold Dev.frameData
    rw [if_neg (by simp [hfl]), hof, hqe, if_pos hpsn, Nat.mod_eq_of_lt hc, huse, hfl, List.length_singleton, if_neg (Nat.not_lt.mpr hroom)]
    have hg : ∀ x : Dev, (if (!g.crcOk) = true then x
        else if (!g.wellKind) = true ∨ g.kind = 0 then x.count F.FAB_FORMAT_COUNT else x.place (2 * n + g.vc % 2) g 0) = x :=
      fun x => if_pos (by rw [hcrc]; rfl)
    simp only [Dev.forEach, List.foldl_cons, List.foldl_nil, hg]
  obtain ⟨x1, x2, x3⟩ := encapAck_reads ((peerEntry_congr y3 ident).trans hent) y1 n false f.ce
  rw [y3.eframe, hs.eframe] at x1
  rw [he]
  exact ⟨by rw [x2]; exact y1, x1.trans (by rw [y2]), onlyPeers_trans hs (onlyPeers_trans y3 x3)⟩

end

/-! ### A peer that does not answer -/

section
variable {d : Dev} {ident cls entry : Nat} {p : Peer} (hp : Powered d) (hc : cls < 4) (hpeer : Tab.get none d.fab.peers (ident * 4 + cls) = some p)
  (hent : d.peerEntry ident = some entry) (hun : p.unacked ≠ [])
include hp hc hpeer hent hun

theorem encapRto_resends (hr : p.resends < 8) : Gives (.encapRto ident cls) d fun e =>
    e.fab.frames = d.fab.frames ++ p.unacked.map (fun u => (p.port, d.eframe entry cls u.1 p.expect false p.ece u.2)) ∧
    Tab.get none e.fab.peers (ident * 4 + cls) = some { p with resends := p.resends + 1 } ∧ OnlyPeers d e := by
  refine gives_of_onDev (·.encapRto ident (cls % 4)) (fun _ => rfl) hp ?_
  rw [Nat.mod_eq_of_lt hc, encapRto_again hpeer hent hun hr]
  obtain ⟨p1, p2, p3⟩ := setPeer_reads d (ident * 4 + cls) { p with resends := p.resends + 1 }
  obtain ⟨r1, r2, r3⟩ := resend_reads (d.setPeer (ident * 4 + cls) { p with resends := p.resends + 1 }) (ident * 4 + cls) entry p
  rw [show (ident * 4 + cls) % 4 = cls by omega] at r1
  simp only [p3.eframe] at r1
  exact ⟨r1.trans (by rw [p2]), by rw [r2]; exact p1, onlyPeers_trans p3 r3⟩

theorem encapRto_losesPeer (hr : 8 ≤ p.resends) : Gives (.encapRto ident cls) d fun e =>
    Tab.get none e.fab.peers (ident * 4 + cls) = some { p with unacked := [], waiting := [], resends := 0 } ∧
    MessagesEnd (fun m => m.dst == ident) dLINKLOST d e ∧ e.get F.ENCAP_PEER_LOST = 1 ∧
    OnlyFields [(F.ENCAP_PEER_LOST, [])] d e ∧ e.mem = d.mem ∧ e.cad = d.cad := by
  refine gives_of_onDev (·.encapRto ident (cls % 4)) (fun _ => rfl) hp ?_
  rw [Nat.mod_eq_of_lt hc, encapRto_lost hpeer hent hun hr]
  obtain ⟨p1, p2, p3⟩ := setPeer_reads d (ident * 4 + cls) { p with unacked := [], waiting := [], resends := 0 }
  generalize d.setPeer (ident * 4 + cls) { p with unacked := [], waiting := [], resends := 0 } = s at *
  obtain ⟨m1, m2⟩ := msgsOver_reads s (fun m => m.dst == ident) dLINKLOST
  generalize s.msgsOver (fun m => m.dst == ident) dLINKLOST = x at *
  have ho := fabEvent_only x F.ENCAP_PEER_LOST 3
  have hdx : x.fab.peers = s.fab.peers ∧ x.regs = d.regs ∧ x.mem = d.mem ∧ x.cad = d.cad := by
    rw [m1, p3]
    exact ⟨rfl, rfl, rfl, rfl⟩
  obtain ⟨x1, x2, x3, x4⟩ := hdx
  have hsd : s.fab.outMsgs = d.fab.outMsgs ∧ s.queues = d.queues := by
    rw [p3]
    exact ⟨rfl, rfl⟩
  refine ⟨?_, ?_, Dev.get_event_same _ _ _ _ (by decide) (by decide), onlyFields_event _ _ _ (onlyFields_of_regs x2) (List.mem_singleton.mpr rfl),
    (congrArg Dev.mem ho).trans x3, (congrArg Dev.cad ho).trans x4⟩
  · rw [congrArg Dev.fab ho]
    exact (congrArg (Tab.get none · _) x1).trans p1
  · have hend : MessagesEnd (fun m => m.dst == ident) dLINKLOST d x := by
      refine ⟨m2.1.trans (by rw [hsd.1]), fun m hm hp hmute c hc hf => ?_⟩
      exact m2.2 m (by rw [hsd.1]; exact hm) hp hmute c ((cmdOf_congr (queue_congr hsd.2 _)).trans hc) hf
    exact hend.of_rest (by rw [ho]) (by rw [ho])

end

/-- Settles O56: what is heard of the fabric's class 0, what each frame of a peer changes, and what its silence does. -/
theorem fabricControlAndEncap : Obligations.FabricControlAndEncap := by
  unfold Obligations.FabricControlAndEncap
  refine ⟨fun d n f stay hf hk => ?_, fun d n f hp hn hs henc => ⟨fun hbad => ?_, fun hok ident entry p hi hent hc => ?_⟩,
    fun d ident cls entry p hp hc hpeer hent hun =>
      ⟨encapRto_resends hp hc hpeer hent hun, encapRto_losesPeer hp hc hpeer hent hun⟩⟩
  · intro h typ w t link
    refine ⟨fun ht hrel => ?_, fun ht => ?_, fun ht => ?_, fun ht => ?_, fun ht hrel => ?_, fun ht => ?_, fun ht hcore => fabricStop hf hk ht hcore⟩
    · refine fabricControl d n f stay hf hk (by simp [show wordAt f.data 0 = tyTick from ht]) ?_
      exact (if_pos ht).trans (toChain_none hrel _ _)
    · refine fabricControl d n f stay hf hk (by simp [show wordAt f.data 0 = tyVote from ht]) ?_
      unfold Dev.hearsCad
      simp only [show wordAt f.data 0 = tyVote from ht, show tyVote ≠ tyTick by decide, if_false, if_true]
      rfl
    · refine fabricControl d n f stay hf hk (by simp [show wordAt f.data 0 = tyJoin from ht]) ?_
      unfold Dev.hearsCad
      simp only [show wordAt f.data 0 = tyJoin from ht, show tyJoin ≠ tyTick by decide, show tyJoin ≠ tyVote by decide, if_false, if_true]
      rfl
    · refine fabricControl d n f stay hf hk (by simp [show wordAt f.data 0 = tyLeave from ht]) ?_
      unfold Dev.hearsCad
      simp only [show wordAt f.data 0 = tyLeave from ht, show tyLeave ≠ tyTick by decide, show tyLeave ≠ tyVote by decide,
        show tyLeave ≠ tyJoin by decide, if_false, if_true]
      rfl
    · refine fabricControl d n f stay hf hk (by simp [show wordAt f.data 0 = tyBid from ht]) ?_
      unfold Dev.hearsCad
      simp only [show wordAt f.data 0 = tyBid from ht, show tyBid ≠ tyTick by decide, show tyBid ≠ tyVote by decide,
        show tyBid ≠ tyJoin by decide, show tyBid ≠ tyLeave by decide, if_false, if_true]
      exact toChain_none hrel _ _
    · refine fabricControl d n f stay hf hk (by simp [show wordAt f.data 0 = tyHandover from ht]) ?_
      unfold Dev.hearsCad
      simp only [show wordAt f.data 0 = tyHandover from ht, show tyHandover ≠ tyTick by decide, show tyHandover ≠ tyVote by decide,
        show tyHandover ≠ tyJoin by decide, show tyHandover ≠ tyLeave by decide, show tyHandover ≠ tyBid by decide, if_false]
      rfl
  · refine gives_of_onDev (·.encapFrame n f) (fun _ => rfl) hp ?_
    rw [encapFrame_bad (fabUp_iff.mpr ⟨hn, hs⟩) henc hbad]
    exact ⟨get_count_fit d (by decide) (by decide) [], onlyFields_count (onlyFields_refl _ d) (List.mem_singleton.mpr rfl), onlyRegs_count ..⟩
  · intro key hpeer hwait q left sends again answer
    obtain ⟨k1, k2, k3⟩ := peerAck_kept d p f.ackPsn f.ece
    have hgood := encapFrame_good (fabUp_iff.mpr ⟨hn, hs⟩) henc hok hi hent hc hpeer
    obtain ⟨a1, a2, a3⟩ := frameAck_reads (d := d) (entry := entry) (q := q) (ident := ident) rfl hc (k3.trans hwait) f.nak
    rw [show q.expect = p.expect from k2] at a2
    change (d.frameAck key entry q f.nak).fab.frames = d.fab.frames ++ again at a2
    change Tab.get none (d.frameAck key entry q f.nak).fab.peers key = some q at a1
    change OnlyPeers d (d.frameAck key entry q f.nak) at a3
    change d.encapFrame n f = (d.frameAck key entry q f.nak).frameData ident key n f at hgood
    generalize d.frameAck key entry q f.nak = s at *
    have hent' : s.peerEntry ident = some entry := (peerEntry_congr a3 ident).trans hent
    refine ⟨⟨k1, k2, k3.trans hwait, fun he hh => ?_, fun he t hh ht => ?_⟩, fun hfl => ?_, fun hfl hpsn => ?_, fun hpsn g hfl hcrc hroom => ?_⟩
    · change (d.peerAck p f.ackPsn f.ece).window = _ ∧ (d.peerAck p f.ackPsn f.ece).halved = _
      rw [he]
      exact peerAck_halves hh _
    · change (d.peerAck p f.ackPsn f.ece).halved = _ ∧ (d.peerAck p f.ackPsn f.ece).window ≤ _
      rw [he]
      exact peerAck_waits hh ht _
    · refine gives_of_onDev (·.encapFrame n f) (fun _ => rfl) hp ?_
      have he : s.frameData ident key n f = s := if_pos (by rw [hfl]; rfl)
      rw [hgood, he]
      exact ⟨a1, a2, a3⟩
    · refine gives_of_onDev (·.encapFrame n f) (fun _ => rfl) hp ?_
      obtain ⟨x1, x2, x3⟩ := frameData_answers (n := n) k2 a3 a1 rfl hc hent' hfl hpsn
      rw [hgood]
      exact ⟨x1, x2.trans (by rw [a2]), x3⟩
    · refine gives_of_onDev (·.encapFrame n f) (fun _ => rfl) hp ?_
      obtain ⟨x1, x2, x3⟩ := frameData_takes (n := n) k2 a3 a1 rfl hc hent' hpsn hfl hcrc hroom
      rw [hgood]
      exact ⟨x1, x2.trans (by rw [a2]), x3⟩

end Sys2Proof
end

section
/-! SUPPORT. Scree programming and face waits (10 R355, R360, R361). -/

namespace Sys2Proof

open Machine

/-! ### A table written twice at one key -/

theorem Tab.erase_erase {α : Type} (t : Tab α) (k : Nat) : Tab.erase (Tab.erase t k) k = Tab.erase t k := by
  induction t with
  | nil => rfl
  | cons x t ih =>
    by_cases h : k = x.1
    · rw [Tab.erase, if_pos h, ih]
    · rw [Tab.erase, if_neg h, Tab.erase, if_neg h, ih]

theorem Tab.erase_insert {α : Type} (t : Tab α) (k : Nat) (v : α) : Tab.erase (Tab.insert t k v) k = Tab.erase t k := by
  induction t with
  | nil => exact if_pos rfl
  | cons x t ih =>
    rw [Tab.insert]
    by_cases h1 : k < x.1
    · rw [if_pos h1, Tab.erase, if_pos rfl]
    · rw [if_neg h1]
      by_cases h2 : k = x.1
      · rw [if_pos h2, Tab.erase, if_pos rfl, Tab.erase, if_pos h2]
      · rw [if_neg h2, Tab.erase, if_neg h2, ih, Tab.erase, if_neg h2]

theorem Tab.insert_insert {α : Type} (t : Tab α) (k : Nat) (v w : α) : Tab.insert (Tab.insert t k v) k w = Tab.insert t k w := by
  induction t with
  | nil => simp [Tab.insert]
  | cons x t ih =>
    rw [Tab.insert, Tab.insert]
    by_cases h1 : k < x.1
    · rw [if_pos h1, if_pos h1, Tab.insert, if_neg (lt_irrefl k), if_pos rfl]
    · rw [if_neg h1, if_neg h1]
      by_cases h2 : k = x.1
      · rw [if_pos h2, if_pos h2, Tab.insert, if_neg (lt_irrefl k), if_pos rfl]
      · rw [if_neg h2, if_neg h2, Tab.insert, if_neg h1, if_neg h2, ih]

/-- The later write stands, unless the first one took the key off the list for good. -/
theorem Tab.set_set {α : Type} [DecidableEq α] {d v w : α} (h : v = d → w = d) (t : Tab α) (k : Nat) : Tab.set d (Tab.set d t k v) k w = Tab.set d t k w := by
  unfold Tab.set
  by_cases hw : w = d
  · rw [if_pos hw, if_pos hw]
    by_cases hv : v = d
    · rw [if_pos hv, Tab.erase_erase]
    · rw [if_neg hv, Tab.erase_insert]
  · rw [if_neg hw, if_neg hw, if_neg fun hv => hw (h hv), Tab.insert_insert]

/-- A queue whose command is changed. -/
def cmdMapped (f : Cmd → Cmd) (q : Queue) : Queue := { q with run := q.run.map fun r => { r with cmd := r.cmd.map f } }

theorem cmdMapped_reset {f : Cmd → Cmd} {q : Queue} (h : cmdMapped f q = Queue.reset) (g : Cmd → Cmd) : cmdMapped g (cmdMapped f q) = Queue.reset := by
  rw [h]
  rfl

/-- Two changes of a queue's command are one. -/
theorem updCmd_updCmd (s : Dev) (k : Nat) (f g : Cmd → Cmd) : (s.updCmd k f).updCmd k g = s.updCmd k fun c => g (f c) := by
  have hq : Tab.get Queue.reset (Tab.set Queue.reset s.queues k (cmdMapped f (s.queue k))) k = cmdMapped f (s.queue k) := Tab.get_set_same _ _ _ _
  have hm : cmdMapped g (cmdMapped f (s.queue k)) = cmdMapped (fun c => g (f c)) (s.queue k) := by
    unfold cmdMapped
    cases (s.queue k).run with
    | none => rfl
    | some r =>
      simp only [Option.map_some, Option.map_map]
      rfl
  have hset := Tab.set_set (w := cmdMapped g (cmdMapped f (s.queue k))) (fun h => cmdMapped_reset h g) s.queues k
  obtain ⟨t, ht⟩ : ∃ t, t = Tab.set Queue.reset s.queues k (cmdMapped f (s.queue k)) := ⟨_, rfl⟩
  have h2 : (s.updCmd k f).updCmd k g = { s with queues := Tab.set Queue.reset t k (cmdMapped g (Tab.get Queue.reset t k)) } := by
    rw [ht]
    rfl
  rw [h2, ht, hq, hset, hm]
  rfl

/-! ### T_BLOCK_PROGRAM -/

/-- What the flags of a T-block's arithmetic do to its command. -/
def flagged (fl trap : Nat) (y : Cmd) : Cmd :=
  if fl &&& trap = 0 then { y with flags := y.flags ||| fl }
  else { y with flags := y.flags ||| fl, fail := some (y.fail.getD (stNUMERIC, dNUMERICTRAP)), todo := [], carry := [] }

theorem tBlock_runs {d : Dev} {k : Nat} {c : Cmd} (hp : d.programming k = true) (hw : d.workHeld = false) (hc : d.cmdOf k = some c) (x : Nat) (pass : Bool)
    {s : Dev} : (runAct (programBlock k c x pass) { d with flagAcc := 0 } = (.ok (), s) →
      d.tBlock k x pass = s.updCmd k (flagged s.flagAcc c.trap)) ∧
    (∀ st detail, runAct (programBlock k c x pass) { d with flagAcc := 0 } = (.error (.ended st detail), s) →
      d.tBlock k x pass = s.updCmd k fun y =>
        { y with flags := y.flags ||| s.flagAcc, fail := some (y.fail.getD (st, detail)), todo := [], carry := [] }) := by
  unfold Dev.tBlock
  rw [if_neg (by simp [hp, hw]), hc]
  refine ⟨fun h => ?_, fun st detail h => ?_⟩
  · simp only [h]
    by_cases hf : s.flagAcc &&& c.trap = 0
    · rw [if_neg (by simp [hf])]
      refine congrArg (s.updCmd k) (funext fun y => ?_)
      exact (if_pos hf).symm
    · rw [if_pos hf, updCmd_updCmd]
      refine congrArg (s.updCmd k) (funext fun y => ?_)
      exact (if_neg hf).symm
  · simp only [h]
    rw [updCmd_updCmd]

/-! ### One programming of a row -/

theorem groupPiece_owned {s : Dev} {a : Acc} {die g : Nat} (h : s.owns a ⟨4, die, g, 1⟩ = true) (kind : Nat) : groupPiece a kind die g s = .ok () s := by
  change (if s.owns a ⟨4, die, g, 1⟩ = true then (pure () : Act Unit) else _) s = _
  rw [if_pos h]
  rfl

theorem spareRow_fresh {s : Dev} {die mk row : Nat} (h : s.wearOf mk (s.physRow mk row) < endurance) (n : Nat) : spareRow die mk row n s = .ok () s := by
  cases n with
  | zero => rfl
  | succ n =>
    unfold spareRow
    change (if endurance ≤ s.wearOf mk (s.physRow mk row) then (_ : Act Unit) else pure ()) s = _
    rw [if_neg (Nat.not_le.mpr h)]
    rfl

/-- One programming more of a physical row. -/
def Machine.Dev.worn (d : Dev) (mk ph : Nat) : Dev :=
  { d with scree := { d.scree with wear := Tab.set 0 d.scree.wear (mk * 514 + ph) (min (d.wearOf mk ph + 1) 65535) } }

/-- What follows the programming of a row. -/
def rowVerified (k : Nat) (p : ScProg) (a : Acc) (x row : Nat) (pass : Bool) : Act Unit :=
  if pass then do
    let es ← p.rowBlock a x row
    act fun s => (s.storeRow (p.m.key p.face x) row es).updCmd k fun c => { c with carry := c.carry.set (x + 1) (row + 1) }
  else do
    let s ← theDev
    let (ok, s) := s.retire p.m.die (p.m.key p.face x) row
    set s
    failIf (!ok) stEXHAUSTED dSPAREFAIL

theorem programRow_fresh {d : Dev} {p : ScProg} {a : Acc} {x row : Nat} (ho : d.owns a ⟨4, p.m.die, p.m.groupOf x, 1⟩ = true)
    (hw : d.wearOf (p.m.key p.face x) (d.physRow (p.m.key p.face x) row) < endurance) (k : Nat) (pass : Bool) :
    programRow k p a x row pass d = rowVerified k p a x row pass (d.worn (p.m.key p.face x) (d.physRow (p.m.key p.face x) row)) := by
  unfold programRow
  refine (act_bind (groupPiece_owned ho kWrite)).trans ((act_bind (spareRow_fresh hw 3)).trans ?_)
  cases pass <;> rfl

end Sys2Proof
end

section
/-! SUPPORT. Scree programming, calibration and face waits: the settling theorem (10 R349, R355, R360, R361, R364 to R366). -/

namespace Sys2Proof

open Machine

/-! ### Spares -/

theorem rowVerified_pass {s y : Dev} {p : ScProg} {a : Acc} {x row : Nat} {es : List (Nat × Nat)} (h : runAct (p.rowBlock a x row) s = (.ok es, y)) (k : Nat) :
    runAct (rowVerified k p a x row true) s =
      (.ok (), (y.storeRow (p.m.key p.face x) row es).updCmd k fun c => { c with carry := c.carry.set (x + 1) (row + 1) }) :=
  runAct_ok.mpr ((act_bind (runAct_ok.mp h)).trans rfl)

/-- A row retired to the next spare. -/
def Machine.Dev.spared (s : Dev) (die mk row : Nat) : Dev :=
  ((s.put F.SC_RETIRED [die] 1).count F.SC_RETIRE_COUNT [die]).updScree fun c => { c with
    spares := Tab.set 0 c.spares mk (Tab.get 0 s.scree.spares mk + 1)
    remap := Tab.set none c.remap (mk * 512 + row) (some (512 + Tab.get 0 s.scree.spares mk)) }

theorem spared_reads (s : Dev) (die mk row : Nat) :
    (s.spared die mk row).physRow mk row = 512 + Tab.get 0 s.scree.spares mk ∧
    Tab.get 0 (s.spared die mk row).scree.spares mk = Tab.get 0 s.scree.spares mk + 1 ∧
    (s.spared die mk row).scree.wear = s.scree.wear ∧ (s.spared die mk row).scree.cells = s.scree.cells ∧
    (s.spared die mk row).get F.SC_RETIRED [die] = 1 ∧
    s.spared die mk row = { s with regs := (s.spared die mk row).regs, scree := (s.spared die mk row).scree } := by
  refine ⟨?_, Tab.get_set_same 0 s.scree.spares mk (Tab.get 0 s.scree.spares mk + 1), rfl, rfl, ?_, rfl⟩
  · exact (congrArg (Option.getD · row) (Tab.get_set_same none s.scree.remap (mk * 512 + row) (some (512 + Tab.get 0 s.scree.spares mk)))).trans rfl
  · have h : ((s.put F.SC_RETIRED [die] 1).count F.SC_RETIRE_COUNT [die]).get F.SC_RETIRED [die] = 1 := by
      rw [Dev.get_count_apart _ (apart_of_off (by simp [Fld.off]) (by decide))]
      exact Dev.get_put_fit _ (by decide) (by decide)
    exact h

theorem rowVerified_spare {s : Dev} {p : ScProg} {x row : Nat} (h : Tab.get 0 s.scree.spares (p.m.key p.face x) < 2) (k : Nat) (a : Acc) :
    runAct (rowVerified k p a x row false) s = (.ok (), s.spared p.m.die (p.m.key p.face x) row) := by
  have hr : s.retire p.m.die (p.m.key p.face x) row = (true, s.spared p.m.die (p.m.key p.face x) row) := if_neg (Nat.not_le.mpr h)
  refine runAct_ok.mpr ?_
  change (set (s.retire p.m.die (p.m.key p.face x) row).2 >>= fun _ =>
    failIf (!(s.retire p.m.die (p.m.key p.face x) row).1) stEXHAUSTED dSPAREFAIL : Act Unit) s = _
  rw [hr]
  rfl

/-- A macro with no spare left is read-only. -/
theorem makeReadOnly_reads (s : Dev) (die mk : Nat) :
    Tab.get false (s.makeReadOnly die mk).scree.readOnly mk = true ∧ (s.makeReadOnly die mk).get F.SC_EXH [die] = 1 ∧
    (s.makeReadOnly die mk).scree.cells = s.scree.cells ∧
    s.makeReadOnly die mk = { s with regs := (s.makeReadOnly die mk).regs, scree := (s.makeReadOnly die mk).scree } := by
  refine ⟨Tab.get_set_same false s.scree.readOnly mk true, ?_, rfl, rfl⟩
  have h : ∀ n v, ((s.put F.SC_EXH [die] 1).put F.SC_EXH_COUNT [die] (n + v)).get F.SC_EXH [die] = 1 := fun n v => by
    rw [Dev.get_put_apart _ _ (apart_of_off (by simp [Fld.off]) (by decide))]
    exact Dev.get_put_fit _ (by decide) (by decide)
  exact h _ 0

theorem rowVerified_exhausted {s : Dev} {p : ScProg} {x row : Nat} (h : 2 ≤ Tab.get 0 s.scree.spares (p.m.key p.face x)) (k : Nat) (a : Acc) :
    runAct (rowVerified k p a x row false) s = (.error (.ended stEXHAUSTED dSPAREFAIL), s.makeReadOnly p.m.die (p.m.key p.face x)) := by
  have hr : s.retire p.m.die (p.m.key p.face x) row = (false, s.makeReadOnly p.m.die (p.m.key p.face x)) := if_pos h
  have he : rowVerified k p a x row false s = .error (.ended stEXHAUSTED dSPAREFAIL) (s.makeReadOnly p.m.die (p.m.key p.face x)) := by
    change (set (s.retire p.m.die (p.m.key p.face x) row).2 >>= fun _ =>
      failIf (!(s.retire p.m.die (p.m.key p.face x) row).1) stEXHAUSTED dSPAREFAIL : Act Unit) s = _
    rw [hr]
    rfl
  unfold runAct
  rw [he]

/-! ### Calibration -/

theorem calUnits_key {die g pos cg : Nat} (hp : pos < 44) (hc : cg < colGroups pos) : calUnits (mkey die g pos * 8 + cg) = if pos < 32 then 1 else 2 := by
  have h8 : cg < 8 := by
    unfold colGroups at hc
    split at hc <;> omega
  have h : (mkey die g pos * 8 + cg) / 8 % 44 = pos := by
    unfold mkey
    omega
  rw [calUnits, h]

/-- A column group begins calibrating. -/
def Machine.Dev.calBegun (d : Dev) (die key : Nat) (forced : Bool) : Dev :=
  (if forced then d.put F.SC_CAL_FORCED [die] 1 else d).updScree fun c => { c with calibrating := c.calibrating ++ [key] }

theorem calBegun_reads (d : Dev) (die key : Nat) (forced : Bool) :
    (d.calBegun die key forced).scree = { d.scree with calibrating := d.scree.calibrating ++ [key] } ∧
    (d.calBegun die key forced).get F.SC_CAL_FORCED [die] = (if forced then 1 else d.get F.SC_CAL_FORCED [die]) ∧
    OnlyFields [(F.SC_CAL_FORCED, [die])] d (d.calBegun die key forced) ∧
    d.calBegun die key forced = { d with regs := (d.calBegun die key forced).regs, scree := (d.calBegun die key forced).scree } := by
  cases forced
  · exact ⟨rfl, rfl, onlyFields_of_regs rfl, rfl⟩
  · have h : (d.put F.SC_CAL_FORCED [die] 1).get F.SC_CAL_FORCED [die] = 1 := Dev.get_put_fit _ (by decide) (by decide)
    exact ⟨rfl, h, onlyFields_trans (onlyFields_put _ (onlyFields_refl _ d) (List.mem_singleton.mpr rfl)) (onlyFields_of_regs rfl), rfl⟩

theorem calStart_begins {d : Dev} {die g pos cg : Nat} (hd : die < 6) (hg : g < 16384) (hp : pos < 44) (hc : cg < colGroups pos)
    (hgone : d.dieGone die = false) (hv : d.macroValid die g pos = true) (hn : d.macroNeeded die g pos = false)
    (ho : mkey die g pos * 8 + cg ∉ d.calsOn die)
    (hu : d.converting die + d.calHeld die + (if pos < 32 then 1 else 2) ≤ d.get F.SC_BUDGET [die])
    (hdue : d.calDue die (mkey die g pos) cg 4 10 = true ∨
      (d.calDue die (mkey die g pos) cg 1 5 = true ∧ bitAt (d.get F.CAL_PHASES [die]) d.pos.phase = true)) :
    d.calStart die g pos cg = d.calBegun die (mkey die g pos * 8 + cg) (d.calDue die (mkey die g pos) cg 4 10) := by
  rw [← calUnits_key hp hc (die := die) (g := g)] at hu
  unfold Dev.calStart
  rw [if_neg]
  · rfl
  · rcases hdue with h | ⟨h1, h2⟩
    · simp [hgone, hv, hn, ho, h]
      omega
    · simp [hgone, hv, hn, ho, h1, h2]
      omega

/-- The trim of a column lies within the bounds of GAIN. -/
def InTrim (s : Dev) (x : Nat) : Prop := ∃ t, Tab.get none s.scree.trims x = some t ∧ 12288 ≤ t.gain ∧ t.gain ≤ 20480

/-- Only trims changed, and none left its bounds. -/
structure TrimsKept (die : Nat) (a b : Dev) : Prop where
  trims : ∀ x, InTrim a x → InTrim b x
  rest : b.scree = { a.scree with trims := b.scree.trims }
  regs : OnlyFields [(F.SC_OUT_OF_TRIM, [die])] a b
  mems : b.mem = a.mem ∧ b.hostMem = a.hostMem

theorem trimsKept_refl (die : Nat) (a : Dev) : TrimsKept die a a := ⟨fun _ h => h, rfl, onlyFields_refl _ a, rfl, rfl⟩

theorem trimsKept_trans {die : Nat} {a b c : Dev} (h : TrimsKept die a b) (h' : TrimsKept die b c) : TrimsKept die a c :=
  ⟨fun x hx => h'.trims x (h.trims x hx), h'.rest.trans (by rw [h.rest]), onlyFields_trans h.regs h'.regs, h'.mems.1.trans h.mems.1, h'.mems.2.trans h.mems.2⟩

/-- The trim that calibration gives a column. -/
def calTrim (s : Dev) : Trim :=
  ⟨max 12288 (min 20480 (s.drawBelow 32768).1), sext ((s.drawBelow 32768).2.drawBelow 65536).1 16,
    max 12288 (min 20480 (s.drawBelow 32768).1) != (s.drawBelow 32768).1, Config.screeResidual ((s.drawBelow 32768).2.drawBelow 65536).2.free⟩

/-- A column with a trim. -/
def Machine.Dev.setTrim (s : Dev) (x : Nat) (t : Trim) : Dev :=
  { s with free := s.free + 3, scree := { s.scree with trims := Tab.set none s.scree.trims x (some t) } }

theorem calColumn_eq (s : Dev) (die mk col : Nat) :
    s.calColumn die mk col = if (calTrim s).clamped then (s.setTrim (mk * 128 + col) (calTrim s)).put F.SC_OUT_OF_TRIM [die] 1
      else s.setTrim (mk * 128 + col) (calTrim s) := rfl

theorem setTrim_kept (die : Nat) (s : Dev) {x : Nat} {t : Trim} (ht : 12288 ≤ t.gain ∧ t.gain ≤ 20480) :
    TrimsKept die s (s.setTrim x t) ∧ InTrim (s.setTrim x t) x := by
  have hx : InTrim (s.setTrim x t) x := ⟨t, Tab.get_set_same none s.scree.trims x (some t), ht⟩
  refine ⟨⟨fun y hy => ?_, rfl, onlyFields_of_regs rfl, rfl, rfl⟩, hx⟩
  by_cases h : y = x
  · rw [h]
    exact hx
  · obtain ⟨u, hu, hb⟩ := hy
    exact ⟨u, (Tab.get_set_ne none none s.scree.trims x y (some t) h).trans hu, hb⟩

theorem calColumn_kept (s : Dev) (die mk col : Nat) : TrimsKept die s (s.calColumn die mk col) ∧ InTrim (s.calColumn die mk col) (mk * 128 + col) := by
  have ht : 12288 ≤ (calTrim s).gain ∧ (calTrim s).gain ≤ 20480 := ⟨le_max_left _ _, max_le (by decide) (min_le_left _ _)⟩
  obtain ⟨h1, h2⟩ := setTrim_kept die s (x := mk * 128 + col) ht
  rw [calColumn_eq]
  refine iteInduction (motive := fun y : Dev => TrimsKept die s y ∧ InTrim y (mk * 128 + col)) (fun _ => ?_) fun _ => ⟨h1, h2⟩
  generalize s.setTrim (mk * 128 + col) (calTrim s) = y at h1 h2
  exact ⟨trimsKept_trans h1 ⟨fun _ h => h, rfl, onlyFields_put _ (onlyFields_refl _ y) (List.mem_singleton.mpr rfl), rfl, rfl⟩, h2⟩

theorem calColumns_kept (l : List Nat) (s : Dev) (die mk cg : Nat) :
    TrimsKept die s (s.forEach l fun s j => s.calColumn die mk (16 * cg + j)) ∧
    ∀ j ∈ l, InTrim (s.forEach l fun s j => s.calColumn die mk (16 * cg + j)) (mk * 128 + (16 * cg + j)) := by
  induction l generalizing s with
  | nil => exact ⟨trimsKept_refl die s, fun j hj => absurd hj (List.not_mem_nil)⟩
  | cons i l ih =>
    obtain ⟨h1, h2⟩ := calColumn_kept s die mk (16 * cg + i)
    obtain ⟨h3, h4⟩ := ih (s.calColumn die mk (16 * cg + i))
    refine ⟨trimsKept_trans h1 h3, fun j hj => ?_⟩
    rcases List.mem_cons.mp hj with rfl | hj
    · exact h3.trims _ h2
    · exact h4 j hj

/-- The end of a column group's calibration. -/
theorem calDone_reads {d : Dev} {die g pos cg : Nat} (hk : mkey die g pos * 8 + cg ∈ d.scree.calibrating) :
    (d.calDone die g pos cg).scree.calibrating = d.scree.calibrating.erase (mkey die g pos * 8 + cg) ∧
    (∀ j < 16, InTrim (d.calDone die g pos cg) (mkey die g pos * 128 + (16 * cg + j))) ∧
    Tab.get 0 (d.calDone die g pos cg).scree.calAt (mkey die g pos * 8 + cg) = Tab.get 0 d.scree.evals (mkey die g pos) ∧
    Tab.get 0 (d.calDone die g pos cg).scree.calTemp (mkey die g pos * 8 + cg) = d.get F.TEMP [die] ∧
    (d.calDone die g pos cg).scree.cells = d.scree.cells ∧ (d.calDone die g pos cg).scree.scales = d.scree.scales ∧
    OnlyFields [(F.SC_OUT_OF_TRIM, [die])] d (d.calDone die g pos cg) ∧ (d.calDone die g pos cg).mem = d.mem ∧
    (d.calDone die g pos cg).hostMem = d.hostMem := by
  obtain ⟨x, hx⟩ : ∃ x, x = d.updScree fun c => { c with calibrating := c.calibrating.erase (mkey die g pos * 8 + cg) } := ⟨_, rfl⟩
  obtain ⟨k1, k2⟩ := calColumns_kept (List.range 16) x die (mkey die g pos) cg
  obtain ⟨y, hy⟩ : ∃ y, y = x.forEach (List.range 16) fun s j => s.calColumn die (mkey die g pos) (16 * cg + j) := ⟨_, rfl⟩
  have he : d.calDone die g pos cg = y.updScree fun c => { c with
      calAt := Tab.set 0 c.calAt (mkey die g pos * 8 + cg) (Tab.get 0 c.evals (mkey die g pos))
      calTemp := Tab.set 0 c.calTemp (mkey die g pos * 8 + cg) (y.get F.TEMP [die]) } := by
    rw [hy, hx, Dev.calDone, if_pos (by simpa using hk)]
    rfl
  rw [← hy] at k1 k2
  have hd : x.scree = { d.scree with calibrating := d.scree.calibrating.erase (mkey die g pos * 8 + cg) } ∧ x.regs = d.regs ∧ x.mem = d.mem ∧
      x.hostMem = d.hostMem := by
    rw [hx]
    exact ⟨rfl, rfl, rfl, rfl⟩
  obtain ⟨d1, d2, d3, d4⟩ := hd
  have hev : y.scree.evals = d.scree.evals ∧ y.scree.calibrating = d.scree.calibrating.erase (mkey die g pos * 8 + cg) ∧
      y.scree.cells = d.scree.cells ∧ y.scree.scales = d.scree.scales := by
    rw [k1.rest, d1]
    exact ⟨rfl, rfl, rfl, rfl⟩
  obtain ⟨e1, e2, e3, e4⟩ := hev
  have htemp : y.get F.TEMP [die] = d.get F.TEMP [die] := by
    have h0 : x.get F.TEMP [die] = d.get F.TEMP [die] := by rw [Dev.get_eq, d2, ← Dev.get_eq]
    refine (k1.regs.get _ _ fun z hz => ?_).trans h0
    rw [List.mem_singleton.mp hz]
    exact apart_of_off (by simp [Fld.off]; omega) (by decide)
  rw [he]
  refine ⟨e2, fun j hj => k2 j (List.mem_range.mpr hj), ?_, ?_, e3, e4, ?_, k1.mems.1.trans d3, k1.mems.2.trans d4⟩
  · exact (Tab.get_set_same 0 y.scree.calAt _ _).trans (by rw [e1])
  · exact (Tab.get_set_same 0 y.scree.calTemp _ _).trans htemp
  · exact onlyFields_trans (onlyFields_of_regs d2) (onlyFields_trans k1.regs (onlyFields_of_regs rfl))

/-- A wait on a face that lasted too long. -/
theorem faceWaitTimeout_ends {d x : Dev} {k : Nat} {c : Cmd} {p : Mvm} (hr : RunsOp d k 0x40 c) (hp : runAct (Mvm.parse c.words) d = (.ok p, x))
    (hw : p.waitFace = true) (hf : p.rewriting d = true) :
    d.faceWaitTimeout k = d.updCmd k fun c => { c with phase := .ended stBUSYFACE dFACETIMEOUT, todo := [] } := by
  obtain ⟨-, -, hc, hph, hop⟩ := hr
  unfold Dev.faceWaitTimeout
  rw [hc]
  have hopc : c.opcode = 0x40 := hop
  simp only [hp, hopc, hph, hw, hf, ne_eq, not_true_eq_false, or_self, if_false, Bool.and_self, if_true]

/-- Work that ends as other work does from another state. -/
theorem runAct_moved {α : Type} {x y : Act α} {s s' e : Dev} {r : Except Stop α} (h : x s = y s') (hr : runAct y s' = (r, e)) (hw : r ≠ .error .wait) :
    runAct x s = (r, e) := by
  unfold runAct at hr ⊢
  rw [h]
  cases hy : y s' with
  | ok a t =>
    rw [hy] at hr
    exact hr
  | error st t =>
    rw [hy] at hr
    cases st with
    | wait => exact absurd (congrArg Prod.fst hr).symm hw
    | ended _ _ => exact hr

/-- Settles O43: a T-block by what `programBlock` gives, a row by its verify, calibration column by column. -/
theorem screeSteps : Obligations.ScreeSteps := by
  unfold Obligations.ScreeSteps
  refine ⟨fun d k x pass c hp hq hpr hw hc => ?_, fun d k p a x row hd => ?_, fun d die g pos cg hp hd hg hpos hcg => ?_, fun d k c p x hr hparse hwait hre => ?_⟩
  · intro r fl
    refine ⟨fun c' _ _ hok => ?_, fun st detail herr => ?_⟩
    · refine gives_onQueue (f := (·.tBlock k x pass)) (fun _ => rfl) hp hq ?_
      exact (tBlock_runs hpr hw hc x pass).1 (Prod.ext hok rfl)
    · refine gives_onQueue (f := (·.tBlock k x pass)) (fun _ => rfl) hp hq ?_
      exact (tBlock_runs hpr hw hc x pass).2 st detail (Prod.ext herr rfl)
  · intro mk ph used worn ho hw
    have hrow := programRow_fresh ho hw k
    refine ⟨fun es y hes => runAct_moved (hrow true) (rowVerified_pass hes k) (by simp), fun hu => ?_, fun hu => ?_⟩
    · obtain ⟨s1, s2, s3, s4, s5, s6⟩ := spared_reads worn p.m.die mk row
      exact ⟨_, runAct_moved (hrow false) (rowVerified_spare (s := worn) hu k a) (by simp), s1, s2, s3, s4, s5, s6⟩
    · obtain ⟨m1, m2, m3, m4⟩ := makeReadOnly_reads worn p.m.die mk
      exact ⟨_, runAct_moved (hrow false) (rowVerified_exhausted (s := worn) hu k a) (by simp), m1, m2, m3, m4⟩
  · intro key units forced
    refine ⟨fun hgone hv hn ho hu hdue => ?_, fun hk => ?_⟩
    · refine gives_of_onDev (·.calStart die g pos cg) (fun _ => rfl) hp ?_
      rw [calStart_begins hd hg hpos hcg hgone hv hn ho hu hdue]
      exact calBegun_reads d die key forced
    · refine gives_of_onDev (·.calDone die g pos cg) (fun _ => rfl) hp ?_
      exact calDone_reads hk
  · refine gives_onQueue (f := (·.faceWaitTimeout k)) (fun _ => rfl) hr.1 hr.2.1 ?_
    rw [faceWaitTimeout_ends hr hparse hwait hre]
    exact updCmd_reads hr.2.2.1 _

end Sys2Proof
end

section
/-! SUPPORT. Keys and gestures of the panel (19 R688 to R696). -/

namespace Sys2Proof

open Machine

/-- Nothing but registers and the panel's own state changed. -/
def OnlyKeys (a b : Dev) : Prop := b = { a with regs := b.regs, panel := b.panel }

theorem onlyKeys_trans {a b c : Dev} (h : OnlyKeys a b) (h' : OnlyKeys b c) : OnlyKeys a c := by
  unfold OnlyKeys at *
  rw [h] at h'
  exact h'

theorem OnlyRegs.keys {a b : Dev} (h : OnlyRegs a b) : OnlyKeys a b := by
  unfold OnlyRegs at h
  generalize b.regs = r at h
  subst h
  rfl

theorem OnlyRegs.panel {a b : Dev} (h : OnlyRegs a b) : b.panel = a.panel := by rw [h]

theorem onlyKeys_updKey (s : Dev) (k : Nat) (f : Key → Key) : OnlyKeys s (s.updKey k f) := rfl

theorem OnlyKeys.talk {a b : Dev} (h : OnlyKeys a b) : OnlyTalk { a with panel := b.panel } b := by
  unfold OnlyKeys at h
  generalize b.regs = r, b.panel = p at h
  subst h
  rfl

theorem onlyTalk_panel {a b : Dev} (h : OnlyTalk a b) : b.panel = a.panel := by rw [h]

theorem onlyTalk_afterKeys {a b c : Dev} (h : OnlyKeys a b) (h' : OnlyTalk b c) : OnlyTalk { a with panel := c.panel } c := by
  rw [onlyTalk_panel h']
  exact onlyTalk_trans h.talk h'

theorem key_updKey (s : Dev) (k : Nat) (f : Key → Key) : (s.updKey k f).key k = f (s.key k) :=
  Tab.get_set_same Key.reset s.panel.keys k (f (s.key k))

theorem key_updKey_ne (s : Dev) {k j : Nat} (f : Key → Key) (h : j ≠ k) : (s.updKey k f).key j = s.key j :=
  Tab.get_set_ne Key.reset Key.reset s.panel.keys k j (f (s.key k)) h

theorem get_updKey (s : Dev) (k : Nat) (f : Key → Key) (g : Fld) (jx : List Nat) : (s.updKey k f).get g jx = s.get g jx := rfl

/-! ### What a measurement leaves alone -/

/-- The fields a measurement of a key reads beside its own count. -/
def keyFields : List Fld :=
  [F.KEY_FAULT, F.KEY_ACTIVE, F.TOUCH_THRESH, F.RELEASE_THRESH, F.NEG_THRESH, F.KEY_WAKE, F.KEY_ACT_EN, F.PANEL_PRESENT, F.POS_TICK]

theorem keyFields_apart {k : Nat} (hk : k < 4) : ∀ g ∈ keyFields,
    Fld.apart F.KEY_COUNT [k] g [] = true ∧ Fld.apart F.KEY_BASELINE [k] g [] = true := by
  interval_cases k <;> decide

theorem baseline_apart (k j : Nat) : Fld.apart F.KEY_COUNT [k] F.KEY_BASELINE [j] = true := apart_of_bits (by decide) (by decide)

/-- The measured count stands in the key's register. -/
theorem countPut_reads (d : Dev) {k n : Nat} (hk : k < 4) (hn : n ≤ 4095) :
    (d.put F.KEY_COUNT [k] n).get F.KEY_COUNT [k] = n ∧
    (∀ j, (d.put F.KEY_COUNT [k] n).get F.KEY_BASELINE [j] = d.get F.KEY_BASELINE [j]) ∧
    (∀ g ∈ keyFields, (d.put F.KEY_COUNT [k] n).get g = d.get g) ∧
    OnlyFields [(F.KEY_COUNT, [k])] d (d.put F.KEY_COUNT [k] n) ∧ OnlyRegs d (d.put F.KEY_COUNT [k] n) :=
  ⟨Dev.get_put_fit _ (by decide) (show n < 2 ^ 12 by omega), fun j => Dev.get_put_apart _ _ (baseline_apart k j),
    fun g hg => Dev.get_put_apart _ _ (keyFields_apart hk g hg).1, onlyFields_put _ (onlyFields_refl _ _) (by simp), onlyRegs_put _ _ _ _⟩

/-! ### Gestures -/

/-- A gesture of a key whose action is disabled is reported, and that is all. -/
theorem gesture_reads (s : Dev) {k g : Nat} (hk : k < 4) (hg : g < 4) (ha : bitAt (s.get F.KEY_ACT_EN) k = false) :
    (s.gesture k g).get F.LG_KEY = k ∧ (s.gesture k g).get F.LG_GESTURE = g ∧ (s.gesture k g).get F.LG_TICK = s.pos.tick ∧
    (s.gesture k g).get F.GESTURE_EV = 1 ∧ OnlyTalk s (s.gesture k g) ∧
    OnlyFields [(F.LG_KEY, []), (F.LG_GESTURE, []), (F.LG_TICK, []), (F.GESTURE_EV, [])] s (s.gesture k g) := by
  obtain ⟨a, ha'⟩ : ∃ a, a = ((s.put0 F.LG_KEY k).put0 F.LG_GESTURE g).put0 F.LG_TICK s.pos.tick := ⟨_, rfl⟩
  obtain ⟨b, hb⟩ : ∃ b, b = a.panelEvent F.GESTURE_EV 1 := ⟨_, rfl⟩
  have ht : s.pos.tick < 2 ^ 20 := bitsOf_lt _ _ _
  have ka : OnlyFields [(F.LG_KEY, []), (F.LG_GESTURE, []), (F.LG_TICK, []), (F.GESTURE_EV, [])] s a := by
    rw [ha']
    exact onlyFields_put0 _ (onlyFields_put0 _ (onlyFields_put0 _ (onlyFields_refl _ _) (by simp)) (by simp)) (by simp)
  have ra : OnlyRegs s a := by
    rw [ha']; exact onlyRegs_trans (onlyRegs_trans (onlyRegs_put0 _ _ _) (onlyRegs_put0 _ _ _)) (onlyRegs_put0 _ _ _)
  have kb := onlyFields_event F.PANEL_IRQ_EN 1 5 ka (show (F.GESTURE_EV, []) ∈ _ by simp)
  have tb : OnlyTalk s (a.panelEvent F.GESTURE_EV 1) := (onlyRegsIrq_trans ra.irq (onlyRegsIrq_event a _ _ _ _)).talk
  have ks : OnlySends (a.panelEvent F.GESTURE_EV 1) ((a.panelEvent F.GESTURE_EV 1).notify 7 (k + g * 2 ^ 4)) :=
    onlySends_of_chain (Dev.notify_eq _ _ _)
  have he : s.gesture k g = (a.panelEvent F.GESTURE_EV 1).notify 7 (k + g * 2 ^ 4) := by
    rw [Dev.gesture, ← ha', ks.get, show (a.panelEvent F.GESTURE_EV 1).get F.KEY_ACT_EN [] = s.get F.KEY_ACT_EN from kb.get _ _ (by decide), ha]
    rfl
  rw [he]
  have hf : ∀ f v, Fld.apart F.GESTURE_EV [] f [] = true → a.get f = v →
      ((a.panelEvent F.GESTURE_EV 1).notify 7 (k + g * 2 ^ 4)).get f = v := fun f v hap hv => by
    rw [ks.get, Dev.panelEvent, Dev.get_event_apart _ _ _ _ hap, hv]
  refine ⟨hf F.LG_KEY _ (by decide) ?_, hf F.LG_GESTURE _ (by decide) ?_, hf F.LG_TICK _ (by decide) ?_, ?_,
    onlyTalk_trans tb ks.talk, ks.fields kb⟩
  · rw [ha', Dev.get_put0_apart _ _ (by decide), Dev.get_put0_apart _ _ (by decide)]
    exact Dev.get_put0_fit _ (by decide) (show k < 2 ^ 2 by omega)
  · rw [ha', Dev.get_put0_apart _ _ (by decide)]
    exact Dev.get_put0_fit _ (by decide) (show g < 2 ^ 4 by omega)
  · rw [ha']
    exact Dev.get_put0_fit _ (by decide) ht
  · rw [ks.get]
    exact Dev.get_event_same _ _ _ _ (by decide) (by decide)

/-! ### A key becomes inactive, or active -/

theorem clearBit_lt (v : Nat) {i n : Nat} (hv : v < 2 ^ n) (hi : i < n) : clearBit v i < 2 ^ n := by
  refine Nat.lt_pow_two_of_testBit _ fun j hj => ?_
  have h : bitAt (clearBit v i) j = bitAt v j := by rw [bitAt_clearBit, if_neg (by omega)]
  rw [bitAt_eq_testBit, bitAt_eq_testBit] at h
  rw [h]
  exact Nat.testBit_lt_two_pow (lt_of_lt_of_le hv (Nat.pow_le_pow_right (by norm_num) hj))

theorem setBit_zero (k : Nat) : setBit 0 k = 2 ^ k := by
  unfold setBit putBits
  simp [bitsOf]

theorem setBit_zero_lt {k : Nat} (hk : k < 4) : setBit 0 k < 2 ^ 4 := setBit_lt 0 (by norm_num) hk

theorem onlyKeys_multi (s : Dev) (b : Bool) : OnlyKeys s { s with panel := { s.panel with multi := b } } := rfl

theorem keyRelease_reads (s : Dev) {k : Nat} (hk : k < 4) :
    (s.keyRelease k).get F.KEY_ACTIVE = clearBit (s.get F.KEY_ACTIVE) k ∧ OnlyFields [(F.KEY_ACTIVE, [])] s (s.keyRelease k) ∧
    OnlyKeys s (s.keyRelease k) := by
  have hlt : clearBit (s.get F.KEY_ACTIVE) k < 2 ^ 4 := clearBit_lt _ (bitsOf_lt _ _ _) hk
  obtain ⟨a, ha⟩ : ∃ a, a = s.put0 F.KEY_ACTIVE (clearBit (s.get F.KEY_ACTIVE) k) := ⟨_, rfl⟩
  have h1 : a.get F.KEY_ACTIVE = clearBit (s.get F.KEY_ACTIVE) k := by rw [ha]; exact Dev.get_put0_fit _ (by decide) hlt
  have h2 : OnlyFields [(F.KEY_ACTIVE, [])] s a := by rw [ha]; exact onlyFields_put0 _ (onlyFields_refl _ _) (by simp)
  have h3 : OnlyRegs s a := by rw [ha]; exact onlyRegs_put0 _ _ _
  unfold Dev.keyRelease
  rw [← ha]
  dsimp only
  split
  · exact ⟨h1, onlyFields_congr rfl rfl h2, onlyKeys_trans h3.keys (onlyKeys_trans (onlyKeys_updKey _ _ _) (onlyKeys_multi _ _))⟩
  · exact ⟨h1, onlyFields_congr rfl rfl h2, onlyKeys_trans h3.keys (onlyKeys_updKey _ _ _)⟩

/-- The first key to become active, where no touch wakes the unit. -/
theorem keyTouch_reads (s : Dev) {k : Nat} (hk : k < 4) (h0 : s.get F.KEY_ACTIVE = 0) (hw : s.flag F.KEY_WAKE = false) :
    (s.keyTouch k).get F.KEY_ACTIVE = 2 ^ k ∧ ((s.keyTouch k).key k).hold = 0 ∧ OnlyFields [(F.KEY_ACTIVE, [])] s (s.keyTouch k) ∧
    OnlyKeys s (s.keyTouch k) := by
  have hlt : setBit 0 k < 2 ^ 4 := setBit_zero_lt hk
  have he : s.keyTouch k = (s.put0 F.KEY_ACTIVE (setBit 0 k)).updKey k fun x =>
      { x with touch := 0, release := 0, negative := 0, hold := 0, long := false } := by
    have h : ((s.put0 F.KEY_ACTIVE (setBit 0 k)).updKey k fun x =>
        { x with touch := 0, release := 0, negative := 0, hold := 0, long := false }).flag F.KEY_WAKE = false := by
      rw [Dev.flag, get_updKey, ← Dev.flag, Dev.flag_put0_apart _ _ (by decide), hw]
    unfold Dev.keyTouch
    rw [h0, show (0 != 0) = false from rfl]
    dsimp only
    rw [if_neg Bool.false_ne_true, h, if_neg Bool.false_ne_true]
  obtain ⟨a, ha⟩ : ∃ a, a = s.put0 F.KEY_ACTIVE (setBit 0 k) := ⟨_, rfl⟩
  have h1 : a.get F.KEY_ACTIVE = 2 ^ k := by rw [ha, ← setBit_zero]; exact Dev.get_put0_fit _ (by decide) hlt
  have h2 : OnlyFields [(F.KEY_ACTIVE, [])] s a := by rw [ha]; exact onlyFields_put0 _ (onlyFields_refl _ _) (by simp)
  have h3 : OnlyRegs s a := by rw [ha]; exact onlyRegs_put0 _ _ _
  rw [he, ← ha]
  exact ⟨h1, by rw [key_updKey], onlyFields_congr rfl rfl h2, onlyKeys_trans h3.keys (onlyKeys_updKey _ _ _)⟩

/-! ### A measurement -/

/-- An inactive key, with its counts of the touch and the negative condition. -/
def Machine.Dev.keyWatched (s : Dev) (k n touch negative : Nat) : Dev :=
  if 3 ≤ touch then (s.updKey k fun x => { x with touch := touch, negative := negative, sum := x.sum + n, cnt := x.cnt + 1 }).keyTouch k
  else if 3 ≤ negative then
    (((s.updKey k fun x => { x with touch := touch, negative := negative, sum := x.sum + n, cnt := x.cnt + 1 }).put F.KEY_BASELINE [k] n).count
      F.REBASE_COUNT).updKey k fun x => { x with negative := 0 }
  else s.updKey k fun x => { x with touch := touch, negative := negative, sum := x.sum + n, cnt := x.cnt + 1 }

/-- An active key, with the time it has been so and its count of the release condition. -/
def Machine.Dev.keyHeld (s : Dev) (k n hold release : Nat) : Dev :=
  if 3 ≤ release then
    if decide (hold ≤ 200) && !s.panel.multi && !(s.key k).long then
      ((s.updKey k fun x => { x with hold := hold, release := release }).keyRelease k).gesture k 1
    else (s.updKey k fun x => { x with hold := hold, release := release }).keyRelease k
  else if 6000 ≤ hold then
    ((((s.updKey k fun x => { x with hold := hold, release := release }).keyRelease k).put F.KEY_BASELINE [k] n).count F.FORCED_COUNT).gesture k 3
  else s.updKey k fun x => { x with hold := hold, release := release }

/-- How a key in service is judged by a measurement that is at neither end of its range: the key as the measurement before left it. -/
def Machine.Dev.keyJudged (s : Dev) (k n : Nat) : Dev :=
  if s.keyActive k then
    s.keyHeld k n ((s.key k).hold + 1) (if (s.get F.KEY_BASELINE [k] : Int) - n < s.get F.RELEASE_THRESH then (s.key k).release + 1 else 0)
  else s.keyWatched k n (if (s.get F.TOUCH_THRESH : Int) ≤ (s.get F.KEY_BASELINE [k] : Int) - n then (s.key k).touch + 1 else 0)
    (if (s.get F.KEY_BASELINE [k] : Int) - n ≤ -(s.get F.NEG_THRESH : Int) then (s.key k).negative + 1 else 0)

section
variable {d : Dev} {k count : Nat} (hk : k < 4) (hp : d.flag F.PANEL_PRESENT = true)
include hk hp

theorem keyMeasure_capture {sum c : Nat} (hc : (d.key k).capture = some (sum, c)) : d.keyMeasure k count =
    if c = 7 then ((d.put F.KEY_COUNT [k] (min count 4095)).put F.KEY_BASELINE [k] ((sum + min count 4095) / 8)).updKey k fun x =>
      { x with capture := none }
    else (d.put F.KEY_COUNT [k] (min count 4095)).updKey k fun x => { x with capture := some (sum + min count 4095, c + 1) } := by
  obtain ⟨n, hn⟩ : ∃ n, n = min count 4095 := ⟨_, rfl⟩
  obtain ⟨a, ha⟩ : ∃ a, a = d.put F.KEY_COUNT [k] n := ⟨_, rfl⟩
  have h : (a.key k).capture = some (sum, c) := by rw [ha]; exact hc
  unfold Dev.keyMeasure
  rw [if_neg (by rw [hp]; simp; omega), ← hn, ← ha]
  dsimp only
  rw [h]

theorem keyMeasure_judged (hc : (d.key k).capture = none) (hf : bitAt (d.get F.KEY_FAULT) k = false) (h0 : 0 < min count 4095)
    (h1 : min count 4095 < 4095) : d.keyMeasure k count =
    ((d.put F.KEY_COUNT [k] (min count 4095)).updKey k fun x => { x with stuck := 0 }).keyJudged k (min count 4095) := by
  obtain ⟨n, hn⟩ : ∃ n, n = min count 4095 := ⟨_, rfl⟩
  rw [← hn] at h0 h1 ⊢
  obtain ⟨-, c2, c3, -⟩ := countPut_reads d hk (show n ≤ 4095 by omega)
  obtain ⟨a, ha⟩ : ∃ a, a = d.put F.KEY_COUNT [k] n := ⟨_, rfl⟩
  obtain ⟨x, hx⟩ : ∃ x, x = a.key k := ⟨_, rfl⟩
  have hxc : x.capture = none := by rw [hx, ha]; exact hc
  obtain ⟨s, hs⟩ : ∃ s, s = a.updKey k fun x => { x with stuck := 0 } := ⟨_, rfl⟩
  have hsk : s.key k = { x with stuck := 0 } := by rw [hs, key_updKey, hx]
  have hsb : a.get F.KEY_BASELINE [k] = s.get F.KEY_BASELINE [k] := by rw [hs]; rfl
  rw [← ha, ← hs]
  unfold Dev.keyMeasure
  rw [if_neg (by rw [hp]; simp; omega), ← hn, ← ha]
  dsimp only
  rw [← hx, hxc]
  dsimp only
  rw [show a.get F.KEY_FAULT = d.get F.KEY_FAULT by rw [ha]; exact c3 F.KEY_FAULT (by simp [keyFields]), hf, if_neg Bool.false_ne_true,
    if_neg (show ¬(n = 0 ∨ n = 4095) by omega), if_neg (show ¬ 3 ≤ 0 by omega), ← hs, hsb, Dev.keyJudged, Dev.keyHeld, Dev.keyWatched, hsk]
  rfl

end

end Sys2Proof
end

section
/-! SUPPORT. The panel's measurements, drift and seating (19 R688 to R696; 18 R674). -/

namespace Sys2Proof

open Machine

/-! ### A measurement -/

theorem count_apart (k j : Nat) : Fld.apart F.KEY_BASELINE [k] F.KEY_COUNT [j] = true := apart_of_bits (by decide) (by decide)

section
variable {d : Dev} {k count : Nat} (hp : Powered d) (hk : k < 4) (hs : d.flag F.PANEL_PRESENT = true)
include hp hk hs

theorem measured_capture {sum c : Nat} (hc : (d.key k).capture = some (sum, c)) : Gives (.keyMeasure k count) d fun e =>
    e.get F.KEY_COUNT [k] = min count 4095 ∧
    e.get F.KEY_BASELINE [k] = (if c = 7 then (sum + min count 4095) / 8 % 4096 else d.get F.KEY_BASELINE [k]) ∧
    e.key k = { d.key k with capture := if c = 7 then none else some (sum + min count 4095, c + 1) } ∧
    OnlyFields [(F.KEY_COUNT, [k]), (F.KEY_BASELINE, [k])] d e ∧ OnlyKeys d e := by
  refine gives_of_onDev (·.keyMeasure k count) (fun _ => rfl) hp ?_
  rw [keyMeasure_capture hk hs hc]
  obtain ⟨n, hn⟩ : ∃ n, n = min count 4095 := ⟨_, rfl⟩
  rw [← hn]
  obtain ⟨c1, c2, -, c4, c5⟩ := countPut_reads d hk (show n ≤ 4095 by omega)
  obtain ⟨a, ha⟩ : ∃ a, a = d.put F.KEY_COUNT [k] n := ⟨_, rfl⟩
  have hak : a.key k = d.key k := by rw [ha]; rfl
  rw [← ha] at c1 c2 c4 c5 ⊢
  split
  · obtain ⟨b, hb⟩ : ∃ b, b = a.put F.KEY_BASELINE [k] ((sum + n) / 8) := ⟨_, rfl⟩
    have hbk : b.key k = d.key k := by rw [← hak, hb]; rfl
    have b1 : b.get F.KEY_COUNT [k] = n := by
      rw [hb, Dev.get_put_apart (f := F.KEY_BASELINE) (g := F.KEY_COUNT) _ _ (count_apart k k), c1]
    have b2 : b.get F.KEY_BASELINE [k] = (sum + n) / 8 % 4096 := by rw [hb]; exact Dev.get_put_same _ F.KEY_BASELINE [k] _ (by decide)
    have b3 : OnlyFields [(F.KEY_COUNT, [k]), (F.KEY_BASELINE, [k])] d b := by
      rw [hb]; exact onlyFields_put _ (onlyFields_mono (by simp) c4) (by simp)
    have b4 : OnlyRegs a b := by rw [hb]; exact onlyRegs_put _ _ _ _
    rw [← hb]
    refine ⟨b1, b2, by rw [key_updKey, hbk], ?_, ?_⟩
    · exact onlyFields_congr rfl rfl b3
    · exact onlyKeys_trans c5.keys (onlyKeys_trans b4.keys (onlyKeys_updKey _ _ _))
  · exact ⟨c1, c2 k, by rw [key_updKey, hak], onlyFields_congr rfl rfl (onlyFields_mono (by simp) c4),
      onlyKeys_trans c5.keys (onlyKeys_updKey _ _ _)⟩

variable (hc : (d.key k).capture = none) (hf : bitAt (d.get F.KEY_FAULT) k = false) (h0 : 0 < min count 4095)
  (h1 : min count 4095 < 4095)
include hc hf h0 h1

omit hp in
/-- The state in which a measurement is judged: the count is in its register, and the key is not stuck. -/
theorem judged_state : ∃ s : Dev, d.keyMeasure k count = s.keyJudged k (min count 4095) ∧ s.key k = { d.key k with stuck := 0 } ∧
    s.get F.KEY_COUNT [k] = min count 4095 ∧ s.get F.KEY_BASELINE [k] = d.get F.KEY_BASELINE [k] ∧ (∀ g ∈ keyFields, s.get g = d.get g) ∧
    s.panel.multi = d.panel.multi ∧ s.pos.tick = d.pos.tick ∧ OnlyFields [(F.KEY_COUNT, [k])] d s ∧ OnlyKeys d s := by
  obtain ⟨c1, c2, c3, c4, c5⟩ := countPut_reads d hk (Nat.min_le_right count 4095)
  refine ⟨_, keyMeasure_judged hk hs hc hf h0 h1, ?_⟩
  obtain ⟨a, ha⟩ : ∃ a, a = d.put F.KEY_COUNT [k] (min count 4095) := ⟨_, rfl⟩
  have hak : a.key k = d.key k := by rw [ha]; rfl
  rw [← ha] at c1 c2 c3 c4 c5 ⊢
  exact ⟨by rw [key_updKey, hak], c1, c2 k, c3, (congrArg Panel.multi c5.panel : a.panel.multi = d.panel.multi), c3 F.POS_TICK (by simp [keyFields]),
    onlyFields_congr rfl rfl c4, onlyKeys_trans c5.keys (onlyKeys_updKey _ _ _)⟩

theorem measured_touch (ht : min count 4095 + d.get F.TOUCH_THRESH ≤ d.get F.KEY_BASELINE [k]) (h2 : 2 ≤ (d.key k).touch)
    (ha : d.get F.KEY_ACTIVE = 0) (hw : d.flag F.KEY_WAKE = false) : Gives (.keyMeasure k count) d fun e =>
      e.get F.KEY_COUNT [k] = min count 4095 ∧ e.get F.KEY_ACTIVE = 2 ^ k ∧ (e.key k).hold = 0 ∧
      OnlyFields [(F.KEY_COUNT, [k]), (F.KEY_ACTIVE, [])] d e ∧ OnlyKeys d e := by
  refine gives_of_onDev (·.keyMeasure k count) (fun _ => rfl) hp ?_
  obtain ⟨s, he, s1, s2, s3, s4, -, -, s7, s8⟩ := judged_state hk hs hc hf h0 h1
  have g1 : s.get F.KEY_ACTIVE = 0 := (s4 F.KEY_ACTIVE (by simp [keyFields])).trans ha
  have g2 : s.flag F.KEY_WAKE = false := (flag_of_get (s4 F.KEY_WAKE (by simp [keyFields]))).trans hw
  have g3 : s.get F.TOUCH_THRESH = d.get F.TOUCH_THRESH := s4 F.TOUCH_THRESH (by simp [keyFields])
  have hact : ¬ s.keyActive k = true := by rw [Dev.keyActive, g1, bitAt_eq_testBit, Nat.zero_testBit]; exact Bool.false_ne_true
  have hx : ∃ f, d.keyMeasure k count = (s.updKey k f).keyTouch k := by
    rw [he, Dev.keyJudged, if_neg hact, s1, s3, g3, if_pos (by omega), Dev.keyWatched, if_pos (by change 3 ≤ (d.key k).touch + 1; omega)]
    exact ⟨_, rfl⟩
  obtain ⟨f, hx⟩ := hx
  obtain ⟨t1, t2, t3, t4⟩ := keyTouch_reads (s.updKey k f) hk g1 g2
  rw [hx]
  refine ⟨?_, t1, t2, ?_, onlyKeys_trans s8 (onlyKeys_trans (onlyKeys_updKey _ _ _) t4)⟩
  · rw [t3.get F.KEY_COUNT [k] (by interval_cases k <;> decide)]
    exact s2
  · exact onlyFields_trans (onlyFields_congr rfl rfl (onlyFields_mono (by simp) s7)) (onlyFields_mono (by simp) t3)

theorem measured_release (ha : d.keyActive k = true) (ht : d.get F.KEY_BASELINE [k] < min count 4095 + d.get F.RELEASE_THRESH)
    (h2 : 2 ≤ (d.key k).release) (hh : (d.key k).hold < 200) (hm : d.panel.multi = false) (hl : (d.key k).long = false)
    (he : bitAt (d.get F.KEY_ACT_EN) k = false) : Gives (.keyMeasure k count) d fun e =>
      e.keyActive k = false ∧ e.get F.LG_KEY = k ∧ e.get F.LG_GESTURE = 1 ∧ e.get F.LG_TICK = d.pos.tick ∧
      e.get F.GESTURE_EV = 1 ∧ OnlyTalk { d with panel := e.panel } e ∧
      OnlyFields [(F.KEY_COUNT, [k]), (F.KEY_ACTIVE, []), (F.LG_KEY, []), (F.LG_GESTURE, []), (F.LG_TICK, []), (F.GESTURE_EV, [])] d e := by
  refine gives_of_onDev (·.keyMeasure k count) (fun _ => rfl) hp ?_
  obtain ⟨s, hs', s1, s2, s3, s4, s5, s6, s7, s8⟩ := judged_state hk hs hc hf h0 h1
  have g1 : s.get F.KEY_ACTIVE = d.get F.KEY_ACTIVE := s4 F.KEY_ACTIVE (by simp [keyFields])
  have g3 : s.get F.RELEASE_THRESH = d.get F.RELEASE_THRESH := s4 F.RELEASE_THRESH (by simp [keyFields])
  have hact : s.keyActive k = true := by rw [Dev.keyActive, g1]; exact ha
  have hx : ∃ f, d.keyMeasure k count = ((s.updKey k f).keyRelease k).gesture k 1 := by
    rw [hs', Dev.keyJudged, if_pos hact, s1, s3, g3, if_pos (by omega), Dev.keyHeld, if_pos (by change 3 ≤ (d.key k).release + 1; omega), if_pos]
    · exact ⟨_, rfl⟩
    · rw [s1, s5, hm]
      change (decide ((d.key k).hold + 1 ≤ 200) && !false && !(d.key k).long) = true
      rw [hl, decide_eq_true (by omega)]
      rfl
  obtain ⟨f, hx⟩ := hx
  obtain ⟨r1, r2, r3⟩ := keyRelease_reads (s.updKey k f) hk
  obtain ⟨r, hr⟩ : ∃ r, r = (s.updKey k f).keyRelease k := ⟨_, rfl⟩
  rw [← hr] at r1 r2 r3
  have r4 : ∀ g ∈ keyFields, g ≠ F.KEY_ACTIVE → r.get g = d.get g := fun g hg hn => by
    rw [r2.get g [] (by revert g; decide)]
    exact s4 g hg
  obtain ⟨e1, e2, e3, e4, e5, e6⟩ := gesture_reads r hk (show 1 < 4 by norm_num)
    (by rw [r4 F.KEY_ACT_EN (by simp [keyFields]) (by decide)]; exact he)
  rw [hx, ← hr]
  refine ⟨?_, e1, e2, e3.trans (r4 F.POS_TICK (by simp [keyFields]) (by decide)), e4, ?_, ?_⟩
  · rw [Dev.keyActive, e6.get F.KEY_ACTIVE [] (by decide), r1, bitAt_clearBit, if_pos rfl]
  · exact onlyTalk_afterKeys (onlyKeys_trans s8 (onlyKeys_trans (onlyKeys_updKey _ _ _) r3)) e5
  · exact onlyFields_trans (onlyFields_trans (onlyFields_congr rfl rfl (onlyFields_mono (by simp) s7)) (onlyFields_mono (by simp) r2))
      (onlyFields_mono (by simp) e6)

end

/-- LONG. -/
theorem long_reported {d : Dev} (hp : Powered d) {k : Nat} (hk : k < 4) (hs : d.flag F.PANEL_PRESENT = true) (ha : d.keyActive k = true)
    (hm : d.panel.multi = false) (hl : (d.key k).long = false) (he : bitAt (d.get F.KEY_ACT_EN) k = false) : Gives (.long k) d fun e =>
      (e.key k).long = true ∧ e.get F.LG_KEY = k ∧ e.get F.LG_GESTURE = 2 ∧ e.get F.GESTURE_EV = 1 ∧
      OnlyTalk { d with panel := e.panel } e ∧
      OnlyFields [(F.LG_KEY, []), (F.LG_GESTURE, []), (F.LG_TICK, []), (F.GESTURE_EV, [])] d e := by
  refine gives_of_onDev (·.keyLong k) (fun _ => rfl) hp ?_
  obtain ⟨s, h⟩ : ∃ s, s = d.updKey k fun x => { x with long := true } := ⟨_, rfl⟩
  have hsk : (s.key k).long = true := by rw [h, key_updKey]
  obtain ⟨e1, e2, -, e4, e5, e6⟩ := gesture_reads s hk (show 2 < 4 by norm_num) (by rw [h]; exact he)
  rw [Dev.keyLong, if_pos ⟨hk, hs, ha, by rw [hm]; rfl, by rw [hl]; rfl⟩, ← h]
  refine ⟨?_, e1, e2, e4, onlyTalk_afterKeys (by rw [h]; exact onlyKeys_updKey _ _ _) e5, onlyFields_congr (by rw [h]; rfl) rfl e6⟩
  unfold Dev.key
  rw [onlyTalk_panel e5]
  exact hsk

/-! ### The drift of baselines -/

/-- One key's part of DRIFT_STEP. -/
def Machine.Dev.driftKey (s : Dev) (k : Nat) : Dev :=
  (if s.keyActive k || (s.key k).capture.isSome || bitAt (s.get F.KEY_FAULT) k || (s.key k).cnt == 0 ||
      !(decide (s.get F.KEY_BASELINE [k] < s.get F.KEY_COUNT [k] + s.get F.DRIFT_BAND) &&
        decide (s.get F.KEY_COUNT [k] < s.get F.KEY_BASELINE [k] + s.get F.DRIFT_BAND)) then s
    else if s.get F.KEY_BASELINE [k] < (s.key k).sum / (s.key k).cnt then s.put F.KEY_BASELINE [k] (s.get F.KEY_BASELINE [k] + 1)
    else if (s.key k).sum / (s.key k).cnt < s.get F.KEY_BASELINE [k] then s.put F.KEY_BASELINE [k] (s.get F.KEY_BASELINE [k] - 1)
    else s).updKey k fun x => { x with sum := 0, cnt := 0 }

theorem driftStep_eq (s : Dev) : s.driftStep = s.forEach [0, 1, 2, 3] Dev.driftKey := rfl

theorem driftKey_only (s : Dev) (k : Nat) : OnlyFields [(F.KEY_BASELINE, [k])] s (s.driftKey k) ∧ OnlyKeys s (s.driftKey k) := by
  unfold Dev.driftKey
  have h : ∀ {b : Dev}, OnlyFields [(F.KEY_BASELINE, [k])] s b → OnlyRegs s b → ∀ f, OnlyFields [(F.KEY_BASELINE, [k])] s (b.updKey k f) ∧
      OnlyKeys s (b.updKey k f) :=
    fun h1 h2 f => ⟨onlyFields_congr rfl rfl h1, onlyKeys_trans h2.keys (onlyKeys_updKey _ _ _)⟩
  have hput : ∀ v f, OnlyFields [(F.KEY_BASELINE, [k])] s ((s.put F.KEY_BASELINE [k] v).updKey k f) ∧
      OnlyKeys s ((s.put F.KEY_BASELINE [k] v).updKey k f) :=
    fun v => h (onlyFields_put v (onlyFields_refl _ _) (by simp)) (onlyRegs_put _ _ _ _)
  split
  · exact h (onlyFields_refl _ _) rfl _
  · split
    · exact hput _ _
    · split
      · exact hput _ _
      · exact h (onlyFields_refl _ _) rfl _

theorem driftKey_key (s : Dev) (k : Nat) : ((s.driftKey k).key k).sum = 0 ∧ ((s.driftKey k).key k).cnt = 0 := by
  unfold Dev.driftKey
  rw [key_updKey]
  exact ⟨rfl, rfl⟩

theorem driftKey_other (s : Dev) {k j : Nat} (h : j ≠ k) : (s.driftKey k).key j = s.key j := by
  unfold Dev.driftKey
  rw [key_updKey_ne _ _ h]
  split
  · rfl
  · split
    · rfl
    · split <;> rfl

/-- The baseline of a key whose delta is small. -/
theorem driftKey_moves (s : Dev) {k : Nat} (ha : s.keyActive k = false) (hc : (s.key k).capture = none) (hf : bitAt (s.get F.KEY_FAULT) k = false)
    (hn : (s.key k).cnt ≠ 0) (h1 : s.get F.KEY_BASELINE [k] < s.get F.KEY_COUNT [k] + s.get F.DRIFT_BAND)
    (h2 : s.get F.KEY_COUNT [k] < s.get F.KEY_BASELINE [k] + s.get F.DRIFT_BAND) (hb : s.get F.KEY_BASELINE [k] < 4095) :
    (s.driftKey k).get F.KEY_BASELINE [k] =
      if s.get F.KEY_BASELINE [k] < (s.key k).sum / (s.key k).cnt then s.get F.KEY_BASELINE [k] + 1
      else if (s.key k).sum / (s.key k).cnt < s.get F.KEY_BASELINE [k] then s.get F.KEY_BASELINE [k] - 1 else s.get F.KEY_BASELINE [k] := by
  unfold Dev.driftKey
  rw [ha, hc, hf, decide_eq_true h1, decide_eq_true h2, beq_false_of_ne hn, if_neg (by simp), get_updKey]
  split
  · exact Dev.get_put_fit _ (by decide) (show _ < 2 ^ 12 by omega)
  · split
    · exact Dev.get_put_fit _ (by decide) (show _ < 2 ^ 12 by omega)
    · rfl

theorem driftKey_active (s : Dev) {k : Nat} (ha : s.keyActive k = true) : (s.driftKey k).get F.KEY_BASELINE [k] = s.get F.KEY_BASELINE [k] := by
  unfold Dev.driftKey
  rw [ha, if_pos (by simp), get_updKey]

/-- What one key's drift reads. -/
def SameKey (k : Nat) (a b : Dev) : Prop :=
  b.key k = a.key k ∧ b.get F.KEY_BASELINE [k] = a.get F.KEY_BASELINE [k] ∧ b.get F.KEY_COUNT [k] = a.get F.KEY_COUNT [k] ∧
  b.get F.DRIFT_BAND = a.get F.DRIFT_BAND ∧ b.get F.KEY_ACTIVE = a.get F.KEY_ACTIVE ∧ b.get F.KEY_FAULT = a.get F.KEY_FAULT

/-- What it leaves of it. -/
def Drifted (k : Nat) (d e : Dev) : Prop :=
  ((e.key k).sum = 0 ∧ (e.key k).cnt = 0) ∧
  (d.keyActive k = false → (d.key k).capture = none → bitAt (d.get F.KEY_FAULT) k = false → (d.key k).cnt ≠ 0 →
    d.get F.KEY_BASELINE [k] < d.get F.KEY_COUNT [k] + d.get F.DRIFT_BAND →
    d.get F.KEY_COUNT [k] < d.get F.KEY_BASELINE [k] + d.get F.DRIFT_BAND → d.get F.KEY_BASELINE [k] < 4095 →
    e.get F.KEY_BASELINE [k] = (if d.get F.KEY_BASELINE [k] < (d.key k).sum / (d.key k).cnt then d.get F.KEY_BASELINE [k] + 1
      else if (d.key k).sum / (d.key k).cnt < d.get F.KEY_BASELINE [k] then d.get F.KEY_BASELINE [k] - 1 else d.get F.KEY_BASELINE [k])) ∧
  (d.keyActive k = true → e.get F.KEY_BASELINE [k] = d.get F.KEY_BASELINE [k])

theorem drift_apart {k j : Nat} (hj : j < 4) (h : j ≠ k) : (∀ f ∈ [F.KEY_BASELINE, F.KEY_COUNT],
    Fld.apart F.KEY_BASELINE [j] f [k] = true) ∧
    ∀ f ∈ [F.DRIFT_BAND, F.KEY_ACTIVE, F.KEY_FAULT], Fld.apart F.KEY_BASELINE [j] f [] = true := by
  have hb : ∀ n, F.KEY_BASELINE.off [n] = 0x3C00010 + 4 * n := fun n => by simp [Fld.off]
  have hc : ∀ n, F.KEY_COUNT.off [n] = 0x3C00010 + 4 * n := fun n => by simp [Fld.off]
  refine ⟨fun f hf => ?_, by interval_cases j <;> decide⟩
  rcases List.mem_pair.1 hf with rfl | rfl
  · exact apart_of_off (by rw [hb, hb]; omega) (by decide)
  · exact apart_of_off (by rw [hb, hc]; omega) (by decide)

theorem driftStep_drifts (d : Dev) {k : Nat} (hk : k < 4) : Drifted k d d.driftStep := by
  rw [driftStep_eq]
  refine forEach_at (P := SameKey k d) (Q := Drifted k d) Dev.driftKey k [0, 1, 2, 3] ?_ ?_ ?_ (by decide) (by interval_cases k <;> decide) d
    ⟨rfl, rfl, rfl, rfl, rfl, rfl⟩
  · intro s ⟨h1, h2, h3, h4, h5, h6⟩
    refine ⟨driftKey_key s k, ?_, ?_⟩
    · rw [Dev.keyActive, ← h1, ← h2, ← h3, ← h4, ← h5, ← h6, ← Dev.keyActive]
      exact driftKey_moves s
    · rw [Dev.keyActive, ← h2, ← h5, ← Dev.keyActive]
      exact driftKey_active s
  · intro s x hx hne ⟨h1, h2, h3, h4, h5, h6⟩
    obtain ⟨a1, a2⟩ := drift_apart (show x < 4 by simp at hx; omega) hne
    have ho := (driftKey_only s x).1
    have same : ∀ g jx, Fld.apart F.KEY_BASELINE [x] g jx = true → (s.driftKey x).get g jx = s.get g jx := fun g jx h => ho.get g jx (by simpa using h)
    exact ⟨(driftKey_other s hne.symm).trans h1, (same _ _ (a1 _ (by simp))).trans h2, (same _ _ (a1 _ (by simp))).trans h3,
      (same _ _ (a2 _ (by simp))).trans h4, (same _ _ (a2 _ (by simp))).trans h5, (same _ _ (a2 _ (by simp))).trans h6⟩
  · intro s x hx hne ⟨h1, h2, h3⟩
    obtain ⟨a1, -⟩ := drift_apart (show x < 4 by simp at hx; omega) hne
    have hb : (s.driftKey x).get F.KEY_BASELINE [k] = s.get F.KEY_BASELINE [k] :=
      (driftKey_only s x).1.get _ _ (by simpa using a1 _ (List.mem_cons_self ..))
    unfold Drifted
    rw [driftKey_other s hne.symm, hb]
    exact ⟨h1, h2, h3⟩

theorem driftStep_only (d : Dev) : OnlyFields ([0, 1, 2, 3].map fun k => (F.KEY_BASELINE, [k])) d d.driftStep ∧ OnlyKeys d d.driftStep := by
  rw [driftStep_eq]
  refine forEach_keeps (R := fun a b => OnlyFields ([0, 1, 2, 3].map fun k => (F.KEY_BASELINE, [k])) a b ∧ OnlyKeys a b)
    (fun s => ⟨onlyFields_refl _ _, rfl⟩) (fun h h' => ⟨onlyFields_trans h.1 h'.1, onlyKeys_trans h.2 h'.2⟩) _ _ (fun s x hx => ?_) d
  obtain ⟨h1, h2⟩ := driftKey_only s x
  exact ⟨onlyFields_mono (by simpa using hx) h1, h2⟩

/-! ### A panel newly seated -/

theorem rebase_reads (d : Dev) : d.rebase.get F.KEY_ACTIVE = 0 ∧ d.rebase.get F.KEY_FAULT = 0 ∧ (∀ k, d.rebase.key k = Key.reset) ∧
    OnlyFields [(F.KEY_ACTIVE, []), (F.KEY_FAULT, [])] d d.rebase ∧
    d.rebase = { d with regs := d.rebase.regs, panel := { d.panel with keys := [], multi := false } } := by
  obtain ⟨a, ha⟩ : ∃ a : Dev, a = { d with panel := { d.panel with keys := [], multi := false } } := ⟨_, rfl⟩
  have he : d.rebase = (a.put0 F.KEY_ACTIVE 0).put0 F.KEY_FAULT 0 := by rw [ha]; rfl
  have hr : OnlyRegs a ((a.put0 F.KEY_ACTIVE 0).put0 F.KEY_FAULT 0) := onlyRegs_trans (onlyRegs_put0 _ _ _) (onlyRegs_put0 _ _ _)
  have hk : OnlyFields [(F.KEY_ACTIVE, []), (F.KEY_FAULT, [])] a ((a.put0 F.KEY_ACTIVE 0).put0 F.KEY_FAULT 0) :=
    onlyFields_put0 _ (onlyFields_put0 _ (onlyFields_refl _ _) (by simp)) (by simp)
  rw [he]
  refine ⟨?_, Dev.get_put0_fit _ (by decide) (by decide), fun k => ?_, onlyFields_congr (by rw [ha]) rfl hk, ?_⟩
  · rw [Dev.get_put0_apart _ _ (by decide)]
    exact Dev.get_put0_fit _ (by decide) (by decide)
  · unfold Dev.key
    rw [hr.panel, ha]
    rfl
  · have h : _ = _ := hr
    rw [ha] at h ⊢
    exact h

theorem onlyRegs_panelPresent (d : Dev) (v : Nat) (hv : v < 2) : (d.put0 F.PANEL_PRESENT v).get F.PANEL_PRESENT = v ∧
    OnlyFields [(F.PANEL_PRESENT, [])] d (d.put0 F.PANEL_PRESENT v) ∧ OnlyRegs d (d.put0 F.PANEL_PRESENT v) :=
  ⟨Dev.get_put0_fit _ (by decide) (show v < 2 ^ 1 by omega), onlyFields_put0 _ (onlyFields_refl _ _) (by simp), onlyRegs_put0 _ _ _⟩

end Sys2Proof
end

section
/-! SUPPORT. The panel's seating, and the states of the drain (19 R688, R697 to R700; 18 R674). -/

namespace Sys2Proof

open Machine

/-! ### A panel newly seated -/

theorem auxTry_keeps (s : Dev) : OnlyFields [(F.AUX_ON, []), (F.DOM_STATE, [11])] s s.auxTry ∧ s.auxTry.panel = s.panel ∧
    s.auxTry.mem = s.mem ∧ s.auxTry.hostMem = s.hostMem := by
  unfold Dev.auxTry
  split
  · obtain ⟨-, -, h1, h2⟩ := auxGate_reads s true
    exact ⟨h1, by rw [h2], by rw [h2], by rw [h2]⟩
  · exact ⟨onlyFields_refl _ _, rfl, rfl, rfl⟩

theorem auxClear_reads (s : Dev) : s.auxClear.get F.AUX_LATCHED = 0 ∧
    OnlyFields [(F.AUX_LATCHED, []), (F.AUX_ATTEMPTS, []), (F.AUX_ON, []), (F.DOM_STATE, [11])] s s.auxClear ∧
    s.auxClear.panel = s.panel ∧ s.auxClear.mem = s.mem ∧ s.auxClear.hostMem = s.hostMem := by
  obtain ⟨a, ha⟩ : ∃ a, a = (s.put0 F.AUX_LATCHED 0).put0 F.AUX_ATTEMPTS 0 := ⟨_, rfl⟩
  have h1 : a.get F.AUX_LATCHED = 0 := by
    rw [ha, Dev.get_put0_apart _ _ (by decide)]
    exact Dev.get_put0_fit _ (by decide) (by decide)
  have h2 : OnlyFields [(F.AUX_LATCHED, []), (F.AUX_ATTEMPTS, []), (F.AUX_ON, []), (F.DOM_STATE, [11])] s a := by
    rw [ha]; exact onlyFields_put0 _ (onlyFields_put0 _ (onlyFields_refl _ _) (by simp)) (by simp)
  have h3 : OnlyRegs s a := by rw [ha]; exact onlyRegs_trans (onlyRegs_put0 _ _ _) (onlyRegs_put0 _ _ _)
  obtain ⟨t1, t2, t3, t4⟩ := auxTry_keeps a
  unfold Dev.auxClear
  rw [← ha]
  exact ⟨(t1.get F.AUX_LATCHED [] (by decide)).trans h1, onlyFields_trans h2 (onlyFields_mono (by simp) t1), t2.trans h3.panel,
    t3.trans h3.mem.1, t4.trans h3.mem.2⟩

theorem seated_reads (d : Dev) (ms : Nat) (h : d.flag F.PANEL_PRESENT = false) (hms : 50 ≤ ms) :
    (d.panelContact true ms).get F.PANEL_PRESENT = 1 ∧ (∀ k, (d.panelContact true ms).key k = Key.reset) ∧
    (d.panelContact true ms).get F.AUX_LATCHED = 0 ∧ (d.panelContact true ms).get F.KEY_ACTIVE = 0 ∧
    (d.panelContact true ms).mem = d.mem ∧ (d.panelContact true ms).hostMem = d.hostMem := by
  obtain ⟨p1, -, p3⟩ := onlyRegs_panelPresent d 1 (by norm_num)
  obtain ⟨a, ha⟩ : ∃ a, a = d.put0 F.PANEL_PRESENT 1 := ⟨_, rfl⟩
  rw [← ha] at p1 p3
  obtain ⟨r1, -, r3, r4, r5⟩ := rebase_reads a
  obtain ⟨c1, c2, c3, c4, c5⟩ := auxClear_reads a.rebase
  have he : d.panelContact true ms = a.rebase.auxClear := by
    rw [Dev.panelContact, if_pos rfl, h, ← ha, decide_eq_true hms]
    rfl
  rw [he]
  refine ⟨?_, fun k => ?_, c1, ?_, ?_, ?_⟩
  · rw [c2.get F.PANEL_PRESENT [] (by decide), r4.get F.PANEL_PRESENT [] (by decide), p1]
  · unfold Dev.key
    rw [c3]
    exact r3 k
  · rw [c2.get F.KEY_ACTIVE [] (by decide), r1]
  · exact c4.trans ((congrArg Dev.mem r5).trans p3.mem.1)
  · exact c5.trans ((congrArg Dev.hostMem r5).trans p3.mem.2)

/-! ### The drain -/

/-- The drain has gone to state `nst`. -/
def DrainGoes (nst : Nat) (d e : Dev) : Prop :=
  e.get F.DRAIN_STATE = nst ∧ e.get F.PAGE = 2 ∧ e.get F.DRAIN_EV = 1 ∧ Tab.get false e.pauses 1 = decide (2 ≤ nst) ∧
  OnlyFields [(F.DRAIN_STATE, []), (F.PAGE, []), (F.DRAIN_EV, []), (F.GRANTED, [])] d e ∧
  OnlyTalk { d with pauses := e.pauses, panel := { d.panel with out := e.panel.out } } e

theorem onlyTalk_paused {d s e : Dev} (h : OnlyTalk { d with panel := { d.panel with out := s.panel.out } } s)
    (h' : OnlyTalk { s with pauses := e.pauses } e) :
    OnlyTalk { d with pauses := e.pauses, panel := { d.panel with out := e.panel.out } } e := by
  rw [show e.panel = s.panel from onlyTalk_panel (a := { s with pauses := e.pauses }) h']
  exact onlyTalk_trans (onlyTalk_pauses h e.pauses) h'

theorem setDrain_reads (s : Dev) {st : Nat} (h : st < 8) : (s.setDrain st).get F.DRAIN_STATE = st ∧ (s.setDrain st).get F.PAGE = 2 ∧
    (s.setDrain st).get F.DRAIN_EV = 1 ∧ Tab.get false (s.setDrain st).pauses 1 = decide (2 ≤ st) ∧
    OnlyFields [(F.DRAIN_STATE, []), (F.PAGE, []), (F.DRAIN_EV, [])] s (s.setDrain st) ∧
    OnlyTalk { s with pauses := (s.setDrain st).pauses } (s.setDrain st) := by
  obtain ⟨a, ha⟩ : ∃ a : Dev, a = { s with pauses := Tab.set false s.pauses 1 (decide (2 ≤ st)) } := ⟨_, rfl⟩
  obtain ⟨b, hb⟩ : ∃ b, b = (a.put0 F.DRAIN_STATE st).put0 F.PAGE 2 := ⟨_, rfl⟩
  have h1 : OnlyFields [(F.DRAIN_STATE, []), (F.PAGE, []), (F.DRAIN_EV, [])] a b := by
    rw [hb]; exact onlyFields_put0 _ (onlyFields_put0 _ (onlyFields_refl _ _) (by simp)) (by simp)
  have h2 : OnlyRegs a b := by rw [hb]; exact onlyRegs_trans (onlyRegs_put0 _ _ _) (onlyRegs_put0 _ _ _)
  have hi : OnlyRegsIrq a (b.panelEvent F.DRAIN_EV 2) := onlyRegsIrq_trans h2.irq (onlyRegsIrq_event b _ _ _ _)
  have hz : (b.panelEvent F.DRAIN_EV 2).pauses = a.pauses := hi.talk.pwr.2
  have he : s.setDrain st = b.panelEvent F.DRAIN_EV 2 := by rw [hb, ha]; rfl
  rw [he]
  refine ⟨?_, ?_, Dev.get_event_same _ _ _ _ (by decide) (by decide), ?_, ?_, ?_⟩
  · rw [Dev.panelEvent, Dev.get_event_apart _ _ _ _ (by decide), hb, Dev.get_put0_apart _ _ (by decide)]
    exact Dev.get_put0_fit _ (by decide) (show st < 2 ^ 3 by omega)
  · rw [Dev.panelEvent, Dev.get_event_apart _ _ _ _ (by decide), hb]
    exact Dev.get_put0_fit _ (by decide) (by decide)
  · rw [hz, ha]
    exact Tab.get_set_same false s.pauses 1 _
  · exact onlyFields_congr (by rw [ha]) rfl (onlyFields_event F.PANEL_IRQ_EN 2 5 h1 (by simp))
  · rw [hz, ha]
    rw [ha] at hi
    exact hi.talk

theorem drainGoes_of {d s : Dev} {st : Nat} (h : st < 8) (hf : OnlyFields [(F.GRANTED, [])] d s)
    (ht : OnlyTalk { d with panel := { d.panel with out := s.panel.out } } s) :
    DrainGoes st d (s.setDrain st) ∧ (s.setDrain st).panel = s.panel ∧ (s.setDrain st).get F.GRANTED = s.get F.GRANTED := by
  obtain ⟨h1, h2, h3, h4, h5, h6⟩ := setDrain_reads s h
  exact ⟨⟨h1, h2, h3, h4, onlyFields_trans (onlyFields_mono (by simp) hf) (onlyFields_mono (by simp) h5), onlyTalk_paused ht h6⟩,
    onlyTalk_panel (a := { s with pauses := (s.setDrain st).pauses }) h6, h5.get F.GRANTED [] (by decide)⟩

theorem drainGoes_still {d : Dev} {st : Nat} (h : st < 8) : DrainGoes st d (d.setDrain st) ∧ (d.setDrain st).panel = d.panel ∧
    (d.setDrain st).get F.GRANTED = d.get F.GRANTED := drainGoes_of h (onlyFields_refl _ _) rfl

theorem onlySends_sendDrain (s : Dev) (on : Bool) : OnlySends s (s.sendDrain on) := onlySends_of_chain (Dev.sendEvent_eq _ _ _ _)

/-- A grant noted or withdrawn changes one field. -/
theorem granted_reads (s : Dev) {v : Nat} (h : v < 2) : (s.put0 F.GRANTED v).get F.GRANTED = v ∧
    OnlyFields [(F.GRANTED, [])] s (s.put0 F.GRANTED v) ∧ OnlyRegs s (s.put0 F.GRANTED v) :=
  ⟨Dev.get_put0_fit _ (by decide) (show v < 2 ^ 1 by omega), onlyFields_put0 _ (onlyFields_refl _ _) (by simp), onlyRegs_put0 _ _ _⟩

/-- The unit takes itself out of participation, or back, and tells every unit. -/
theorem drainTold_reads (d : Dev) (out on : Bool) : ∃ b : Dev, b = ({ d with panel := { d.panel with out := out } } : Dev).sendDrain on ∧
    b.panel.out = out ∧ (∀ f, b.get f = d.get f) ∧ b.regs = d.regs ∧
    OnlyTalk { d with panel := { d.panel with out := b.panel.out } } b := by
  have h := onlySends_sendDrain { d with panel := { d.panel with out := out } } on
  have hp : (({ d with panel := { d.panel with out := out } } : Dev).sendDrain on).panel = { d.panel with out := out } := onlyTalk_panel h.talk
  refine ⟨_, rfl, by rw [hp], fun f => h.get f [], h.regs, ?_⟩
  rw [hp]
  exact h.talk

theorem drainReq_first (d : Dev) (h0 : d.get F.DRAIN_STATE = 0) (hw : d.get F.WARDEN_MODE ≠ 2) : DrainGoes 1 d d.drainReq ∧
    d.drainReq.panel.out = true ∧ d.drainReq.get F.GRANTED = (if d.flag F.AUTO_GRANT then 1 else d.get F.GRANTED) := by
  obtain ⟨b, hb, b1, b2, b3, b4⟩ := drainTold_reads d true true
  obtain ⟨c, hc⟩ : ∃ c, c = if b.flag F.AUTO_GRANT then b.put0 F.GRANTED 1 else b := ⟨_, rfl⟩
  obtain ⟨g1, g2, g3⟩ := granted_reads b (show 1 < 2 by norm_num)
  have hfa : b.flag F.AUTO_GRANT = d.flag F.AUTO_GRANT := flag_of_get (b2 _)
  have c1 : OnlyFields [(F.GRANTED, [])] b c ∧ OnlyRegs b c := by
    rw [hc]; split
    · exact ⟨g2, g3⟩
    · exact ⟨onlyFields_refl _ _, rfl⟩
  have c2 : c.get F.GRANTED = if d.flag F.AUTO_GRANT then 1 else d.get F.GRANTED := by
    rw [hc, ← hfa, ← b2]
    split
    · exact g1
    · rfl
  have c3 : c.panel = b.panel := c1.2.panel
  have he : d.drainReq = c.setDrain 1 := by
    unfold Dev.drainReq
    dsimp only
    rw [if_pos h0, ← hb, ← hc, c1.1.get F.WARDEN_MODE [] (by decide), b2, if_neg hw]
  obtain ⟨e1, e2, e3⟩ := drainGoes_of (d := d) (s := c) (st := 1) (by norm_num) (onlyFields_congr b3.symm rfl c1.1)
    (by rw [c3]; exact onlyTalk_trans b4 (onlyTalk_regs c1.2))
  rw [he]
  exact ⟨e1, by rw [e2, c3, b1], e3.trans c2⟩

theorem drainWithdraw_ends (d : Dev) (h0 : d.get F.DRAIN_STATE ≠ 0) : DrainGoes 0 d d.drainWithdraw ∧ d.drainWithdraw.panel.out = false ∧
    d.drainWithdraw.get F.GRANTED = 0 := by
  obtain ⟨b, hb, b1, -, b3, b4⟩ := drainTold_reads d false false
  obtain ⟨g1, g2, g3⟩ := granted_reads b (show 0 < 2 by norm_num)
  obtain ⟨e1, e2, e3⟩ := drainGoes_of (d := d) (s := b.put0 F.GRANTED 0) (st := 0) (by norm_num) (onlyFields_congr b3.symm rfl g2)
    (by rw [g3.panel]; exact onlyTalk_trans b4 (onlyTalk_regs g3))
  have he : d.drainWithdraw = (b.put0 F.GRANTED 0).setDrain 0 := by
    unfold Dev.drainWithdraw
    dsimp only
    rw [if_neg h0, ← hb]
  rw [he]
  exact ⟨e1, by rw [e2, g3.panel, b1], e3.trans g1⟩

/-- SAFE is judged with the conditions of R699. -/
theorem safeConds_all (d : Dev) (hg : d.flag F.GRANTED = true) (hm : d.isMaster = false) (hr : d.flag F.RELAY = false) (hc : d.chainWhole = true) :
    d.safeConds.all id = true := by
  unfold Dev.safeConds
  rw [hg, hm, hr, hc]
  rfl

theorem safeConds_broken (d : Dev) (hc : d.chainWhole = false) : d.safeConds.all id = false := by
  unfold Dev.safeConds
  rw [hc]
  simp

end Sys2Proof
end

section
/-! SUPPORT. The display, and the panel's settling theorem (19 R688 to R704). -/

namespace Sys2Proof

open Machine

/-! ### The text of a line -/

/-- The bytes of a list of words, one by one. -/
theorem bytesOfWords_getD (l : List Word) (j : Nat) (h : j < 4 * l.length) :
    (bytesOfWords l).getD j 0 = BitVec.ofNat 8 ((l.getD (j / 4) 0).toNat / 2 ^ (8 * (j % 4))) := by
  induction l generalizing j with
  | nil => exact absurd h (Nat.not_lt_zero _)
  | cons w l ih =>
    rw [bytesOfWords]
    by_cases hj : j < 4
    · rw [List.getD_append _ _ _ _ (by rw [leBytes_length]; exact hj), leBytes_getD _ hj, Nat.div_eq_of_lt hj, Nat.mod_eq_of_lt hj]
      rfl
    · obtain ⟨i, rfl⟩ : ∃ i, j = 4 + i := ⟨j - 4, by omega⟩
      rw [List.getD_append_right _ _ _ _ (by rw [leBytes_length]; omega), leBytes_length, Nat.add_sub_cancel_left,
        ih i (by rw [List.length_cons] at h; omega), show (4 + i) / 4 = i / 4 + 1 by omega, show (4 + i) % 4 = i % 4 by omega]
      rfl

/-- A character that the display can show. -/
def Shown (b : Byte) : Prop := 0x20 ≤ b.toNat ∧ b.toNat ≤ 0x7E

theorem drawChar_shown (s : Dev) : Shown s.drawChar.1 := by
  have h : (0x20 + (Config.freeByte s.free).toNat % 95) < 2 ^ 8 := by omega
  change 0x20 ≤ (BitVec.ofNat 8 _).toNat ∧ (BitVec.ofNat 8 _).toNat ≤ 0x7E
  rw [BitVec.toNat_ofNat, Nat.mod_eq_of_lt h]
  omega

theorem drawChars_reads (s : Dev) (n : Nat) : (s.drawChars n).1.length = n ∧ (∀ b ∈ (s.drawChars n).1, Shown b) ∧
    (s.drawChars n).2 = { s with free := (s.drawChars n).2.free } := by
  induction n generalizing s with
  | zero => exact ⟨rfl, fun b hb => absurd hb List.not_mem_nil, rfl⟩
  | succ n ih =>
    obtain ⟨h1, h2, h3⟩ := ih s.drawChar.2
    have he : s.drawChars (n + 1) = (s.drawChar.1 :: (s.drawChar.2.drawChars n).1, (s.drawChar.2.drawChars n).2) := rfl
    rw [he]
    refine ⟨by rw [List.length_cons, h1], fun b hb => ?_, h3⟩
    rcases List.mem_cons.1 hb with rfl | hb
    · exact drawChar_shown s
    · exact h2 b hb

/-- A byte of PANEL_TEXT as it is shown. -/
def shownAs (b : Byte) : Byte := if 0x20 ≤ b.toNat ∧ b.toNat ≤ 0x7E then b else 0x2E

theorem shownAs_shown (b : Byte) : Shown (shownAs b) := by
  unfold shownAs
  split
  · assumption
  · exact ⟨by decide, by decide⟩

/-- The ten words of PANEL_TEXT. -/
def panelWords (d : Dev) : List Word := (List.range 10).map fun i => BitVec.ofNat 32 (d.get F.PANEL_TEXT [i])

theorem panelWords_getD (d : Dev) {i : Nat} (h : i < 10) : ((panelWords d).getD i 0).toNat = d.get F.PANEL_TEXT [i] := by
  unfold panelWords
  rw [List.getD_eq_getElem _ _ (by simpa using h), List.getElem_map, List.getElem_range, BitVec.toNat_ofNat]
  exact Nat.mod_eq_of_lt (bitsOf_lt _ _ 32)

/-- What a line shows on page 6. -/
def textLine (d : Dev) (line : Nat) : List Byte := (((bytesOfWords (panelWords d)).drop (20 * line)).take 20).map shownAs

theorem panelWords_length (d : Dev) : (panelWords d).length = 10 := by simp [panelWords]

theorem textLine_length (d : Dev) {line : Nat} (h : line < 2) : (textLine d line).length = 20 := by
  simp only [textLine, List.length_map, List.length_take, List.length_drop, bytesOfWords_length, panelWords_length]
  omega

theorem textLine_getD (d : Dev) {line i : Nat} (h : line < 2) (hi : i < 20) :
    (textLine d line).getD i 0 = shownAs (BitVec.ofNat 8 (d.get F.PANEL_TEXT [(20 * line + i) / 4] / 2 ^ (8 * ((20 * line + i) % 4)))) := by
  have hl : (bytesOfWords (panelWords d)).length = 40 := by rw [bytesOfWords_length, panelWords_length]
  rw [← panelWords_getD d (show (20 * line + i) / 4 < 10 by omega), ← bytesOfWords_getD _ _ (by rw [panelWords_length]; omega),
    List.getD_eq_getElem _ _ (by rw [textLine_length d h]; exact hi), List.getD_eq_getElem _ _ (by rw [hl]; omega)]
  unfold textLine
  rw [List.getElem_map, List.getElem_take, List.getElem_drop]

/-- The text of a line: twenty characters that can be shown; on page 6 those of PANEL_TEXT. -/
theorem lineText_reads (s : Dev) {line : Nat} (h : line < 2) : (s.lineText line).1.length = 20 ∧ (∀ b ∈ (s.lineText line).1, Shown b) ∧
    (s.get F.PAGE = 6 → (s.lineText line).1 = textLine s line) ∧ (s.lineText line).2 = { s with free := (s.lineText line).2.free } := by
  by_cases h6 : s.get F.PAGE = 6
  · have he : s.lineText line = (textLine s line, s) := by unfold Dev.lineText; rw [if_pos h6]; rfl
    rw [he]
    refine ⟨textLine_length s h, fun b hb => ?_, fun _ => rfl, rfl⟩
    obtain ⟨x, -, rfl⟩ := List.mem_map.1 hb
    exact shownAs_shown x
  · by_cases hu : s.get F.PAGE = 2 ∧ line = 1 ∧ s.get F.DRAIN_STATE = 4
    · obtain ⟨d1, d2, d3⟩ := drawChars_reads s 11
      have he : s.lineText line = ([0x55, 0x4E, 0x50, 0x4C, 0x55, 0x47, 0x20, 0x4F, 0x4B] ++ (s.drawChars 11).1, (s.drawChars 11).2) := by
        unfold Dev.lineText; rw [if_neg h6, if_pos hu]
      rw [he]
      refine ⟨by rw [List.length_append, d1]; rfl, fun b hb => ?_, fun h => absurd h h6, d3⟩
      rcases List.mem_append.1 hb with hb | hb
      · have hall : ∀ b ∈ ([0x55, 0x4E, 0x50, 0x4C, 0x55, 0x47, 0x20, 0x4F, 0x4B] : List Byte), Shown b := by unfold Shown; decide
        exact hall b hb
      · exact d2 b hb
    · obtain ⟨d1, d2, d3⟩ := drawChars_reads s 20
      have he : s.lineText line = s.drawChars 20 := by unfold Dev.lineText; rw [if_neg h6, if_neg hu]
      rw [he]
      exact ⟨d1, d2, fun h => absurd h h6, d3⟩

/-! ### The display -/

/-- A line written to the display. -/
def Machine.Dev.showLine (s : Dev) (line : Nat) : Dev :=
  { (s.lineText line).2 with panel := { (s.lineText line).2.panel with
      lines := Tab.set [] (s.lineText line).2.panel.lines line (BitVec.ofNat 8 (0x40 + line) :: (s.lineText line).1)
      addr := (s.lineText line).2.get F.DISP_ADDR } }

theorem showLine_eq (s : Dev) {line : Nat} (h : line < 2) : s.showLine line = { s with
    free := (s.showLine line).free
    panel := { s.panel with
      lines := Tab.set [] s.panel.lines line (BitVec.ofNat 8 (0x40 + line) :: (s.lineText line).1), addr := s.get F.DISP_ADDR } } := by
  obtain ⟨-, -, -, h4⟩ := lineText_reads s h
  generalize ht : s.lineText line = r at h4
  obtain ⟨t, u⟩ := r
  unfold Dev.showLine
  rw [ht]
  change u = _ at h4
  change ({ u with panel := _ } : Dev) = _
  rw [h4]
  rfl

/-- Nothing but what the display shows changed, and the text drawn for it. -/
def OnlyShown (a b : Dev) : Prop :=
  b = { a with free := b.free, panel := { a.panel with lines := b.panel.lines, addr := a.get F.DISP_ADDR } }

theorem onlyShown_of_line {a b : Dev} {l : Tab (List Byte)}
    (h : b = { a with free := b.free, panel := { a.panel with lines := l, addr := a.get F.DISP_ADDR } }) : OnlyShown a b := by
  have hl : b.panel.lines = l := by rw [h]
  rw [← hl] at h
  exact h

theorem onlyShown_trans {a b c : Dev} (h : OnlyShown a b) (h' : OnlyShown b c) : OnlyShown a c := by
  unfold OnlyShown at *
  rw [h] at h'
  exact h'

theorem display_silent (d : Dev) (h1 : d.flag F.AUX_ON = true) (h2 : d.flag F.DISPLAY_EN = true) : (d.display false).get F.DISPLAY_ERR = 1 ∧
    OnlyFields [(F.DISPLAY_ERR, [])] d (d.display false) ∧ OnlyRegsIrq d (d.display false) := by
  have he : d.display false = d.panelEvent F.DISPLAY_ERR 4 := by unfold Dev.display; rw [h1, h2]; rfl
  rw [he]
  exact ⟨Dev.get_event_same _ _ _ _ (by decide) (by decide), onlyFields_event _ _ _ (onlyFields_refl _ _) (by simp), onlyRegsIrq_event _ _ _ _ _⟩

theorem display_shows (d : Dev) (h1 : d.flag F.AUX_ON = true) (h2 : d.flag F.DISPLAY_EN = true) : ∃ t : Nat → List Byte,
    (∀ line < 2, (t line).length = 20 ∧ (∀ b ∈ t line, Shown b) ∧ (d.get F.PAGE = 6 → t line = textLine d line) ∧
      Tab.get [] (d.display true).panel.lines line = BitVec.ofNat 8 (0x40 + line) :: t line) ∧
    d.display true = { d with
      free := (d.display true).free, panel := { d.panel with lines := (d.display true).panel.lines, addr := d.get F.DISP_ADDR } } := by
  obtain ⟨a, ha⟩ : ∃ a, a = d.showLine 0 := ⟨_, rfl⟩
  obtain ⟨b, hb⟩ : ∃ b, b = a.showLine 1 := ⟨_, rfl⟩
  have he : d.display true = b := by rw [hb, ha]; unfold Dev.display; rw [h1, h2]; rfl
  have h3 := showLine_eq d (show 0 < 2 by norm_num)
  have h4 := showLine_eq a (show 1 < 2 by norm_num)
  rw [← ha] at h3
  rw [← hb] at h4
  have hg : ∀ g jx, a.get g jx = d.get g jx := fun g jx => by rw [h3]; rfl
  have hla : a.panel.lines = Tab.set [] d.panel.lines 0 (BitVec.ofNat 8 (0x40 + 0) :: (d.lineText 0).1) := by rw [h3]
  have hlb : b.panel.lines = Tab.set [] a.panel.lines 1 (BitVec.ofNat 8 (0x40 + 1) :: (a.lineText 1).1) := by rw [h4]
  obtain ⟨p1, p2, p3, -⟩ := lineText_reads d (show 0 < 2 by norm_num)
  obtain ⟨q1, q2, q3, -⟩ := lineText_reads a (show 1 < 2 by norm_num)
  have htl : textLine a 1 = textLine d 1 := by unfold textLine panelWords; simp only [hg]
  refine ⟨fun line => if line = 0 then (d.lineText 0).1 else (a.lineText 1).1, fun line hl => ?_, ?_⟩
  · rw [he, hlb]
    obtain rfl | rfl : line = 0 ∨ line = 1 := by omega
    · change (d.lineText 0).1.length = 20 ∧ (∀ b ∈ (d.lineText 0).1, Shown b) ∧ (d.get F.PAGE = 6 → (d.lineText 0).1 = textLine d 0) ∧ _ = _ :: (d.lineText 0).1
      rw [Tab.get_set_ne [] [] _ _ _ _ (by norm_num), hla]
      exact ⟨p1, p2, p3, Tab.get_set_same [] d.panel.lines 0 _⟩
    · refine ⟨q1, q2, fun h6 => ?_, Tab.get_set_same [] a.panel.lines 1 _⟩
      rw [← htl]
      exact q3 (by rw [hg, h6])
  · rw [he]
    exact onlyShown_trans (onlyShown_of_line h3) (onlyShown_of_line h4)

end Sys2Proof
end

section
/-! SUPPORT. The ledge panel: the settling theorem (19 R688 to R704). -/

namespace Sys2Proof

open Machine

theorem drain_states (d : Dev) (hp : Powered d) :
    (d.get F.DRAIN_STATE = 0 → d.get F.WARDEN_MODE ≠ 2 → Gives .drainReq d fun e =>
      DrainGoes 1 d e ∧ e.panel.out = true ∧ e.get F.GRANTED = (if d.flag F.AUTO_GRANT then 1 else d.get F.GRANTED)) ∧
    (d.get F.DRAIN_STATE = 1 → Gives .drainReq d fun e => DrainGoes 2 d e ∧ e.panel = d.panel ∧ e.get F.GRANTED = d.get F.GRANTED) ∧
    (d.get F.DRAIN_STATE ≠ 0 → Gives .drainWithdraw d fun e => DrainGoes 0 d e ∧ e.panel.out = false ∧ e.get F.GRANTED = 0) ∧
    (1 ≤ d.get F.DRAIN_STATE → d.get F.DRAIN_STATE ≤ 3 → Gives .drainGrant d fun e =>
      e.get F.GRANTED = 1 ∧ OnlyFields [(F.GRANTED, [])] d e ∧ OnlyRegs d e) ∧
    (d.get F.DRAIN_STATE = 2 → (∀ x ∈ d.queues, x.2.run = none) → d.fab.outMsgs = [] → Gives .drained d fun e =>
      DrainGoes 3 d e ∧ e.panel = d.panel ∧ e.get F.GRANTED = d.get F.GRANTED) := by
  refine ⟨fun h0 hw => gives_of_onDev Dev.drainReq (fun _ => rfl) hp (drainReq_first d h0 hw), fun h1 => ?_,
    fun h0 => gives_of_onDev Dev.drainWithdraw (fun _ => rfl) hp (drainWithdraw_ends d h0), fun h1 h3 => ?_, fun h2 hq hm => ?_⟩
  · refine gives_of_onDev Dev.drainReq (fun _ => rfl) hp ?_
    have he : d.drainReq = d.setDrain 2 := by
      unfold Dev.drainReq
      dsimp only
      rw [h1, if_neg (by norm_num), if_pos rfl]
    rw [he]
    exact drainGoes_still (by norm_num)
  · refine gives_of_onDev Dev.drainGrant (fun _ => rfl) hp ?_
    rw [Dev.drainGrant, if_pos ⟨h1, h3⟩]
    exact granted_reads d (by norm_num)
  · refine gives_of_onDev Dev.drainedNow (fun _ => rfl) hp ?_
    have hall : d.queues.all (·.2.run.isNone) = true := List.all_eq_true.2 fun x hx => by rw [hq x hx]; rfl
    rw [Dev.drainedNow, if_pos ⟨h2, hall, by rw [hm]; rfl⟩]
    exact drainGoes_still (by norm_num)

theorem safe_states (d : Dev) (hp : Powered d) :
    (d.get F.DRAIN_STATE = 3 → d.flag F.GRANTED = true → d.isMaster = false → d.flag F.RELAY = false → d.chainWhole = true →
      Gives .safe d fun e => DrainGoes 4 d e ∧ e.panel = d.panel ∧ e.get F.GRANTED = d.get F.GRANTED) ∧
    (d.get F.DRAIN_STATE = 4 → d.chainWhole = false → Gives .safe d fun e => DrainGoes 3 d e ∧ e.panel = d.panel) := by
  refine ⟨fun h3 hg hm hr hc => ?_, fun h4 hc => ?_⟩
  · refine gives_of_onDev Dev.judgeSafe (fun _ => rfl) hp ?_
    have he : d.judgeSafe = d.setDrain 4 := by
      unfold Dev.judgeSafe
      dsimp only
      rw [if_pos ⟨h3, safeConds_all d hg hm hr hc⟩]
    rw [he]
    exact drainGoes_still (by norm_num)
  · refine gives_of_onDev Dev.judgeSafe (fun _ => rfl) hp ?_
    have he : d.judgeSafe = d.setDrain 3 := by
      unfold Dev.judgeSafe
      dsimp only
      rw [h4, safeConds_broken d hc, if_neg (by norm_num), if_pos ⟨rfl, rfl⟩]
    rw [he]
    obtain ⟨h1, h2, -⟩ := drainGoes_still (d := d) (st := 3) (by norm_num)
    exact ⟨h1, h2⟩

theorem display_refreshes (d : Dev) (hp : Powered d) (h1 : d.flag F.AUX_ON = true) (h2 : d.flag F.DISPLAY_EN = true) :
    (Gives (.displayRefresh false) d fun e => e.get F.DISPLAY_ERR = 1 ∧ OnlyFields [(F.DISPLAY_ERR, [])] d e ∧ OnlyRegsIrq d e) ∧
    (Gives (.displayRefresh true) d fun e =>
      (∀ line < 2, ∃ t : List Byte, Tab.get [] e.panel.lines line = BitVec.ofNat 8 (0x40 + line) :: t ∧ t.length = 20 ∧ (∀ b ∈ t, Shown b) ∧
        (d.get F.PAGE = 6 → ∀ i < 20, t.getD i 0 =
          shownAs (BitVec.ofNat 8 (d.get F.PANEL_TEXT [(20 * line + i) / 4] / 2 ^ (8 * ((20 * line + i) % 4)))))) ∧ OnlyShown d e) := by
  refine ⟨gives_of_onDev (·.display false) (fun _ => rfl) hp (display_silent d h1 h2), gives_of_onDev (·.display true) (fun _ => rfl) hp ?_⟩
  obtain ⟨t, ht, he⟩ := display_shows d h1 h2
  refine ⟨fun line hl => ?_, he⟩
  obtain ⟨t1, t2, t3, t4⟩ := ht line hl
  exact ⟨t line, t4, t1, t2, fun h6 i hi => by rw [t3 h6]; exact textLine_getD d hl hi⟩

/-- Settles O37: a measurement is the count in its register and the judgement of Table 19.1, a key's drift touches its own baseline, every
change of the drain goes through one setting of its state, and a line is twenty characters that can be shown. -/
theorem panelKeys : Obligations.PanelKeys := by
  unfold Obligations.PanelKeys
  refine ⟨fun d hp => ⟨fun k count hs hk => ⟨fun sum c hc => measured_capture hp hk hs hc, fun hc hf h0 h1 =>
    ⟨fun _ => measured_touch hp hk hs hc hf h0 h1, measured_release hp hk hs hc hf h0 h1⟩⟩, fun k hk hs ha hm hl he =>
    long_reported hp hk hs ha hm hl he, ?_, gives_of_onDev Dev.rebase (fun _ => rfl) hp (rebase_reads d), fun ms => ?_, fun ms h0 =>
    ⟨fun hms => ?_, fun hms => gives_of_onDev (·.panelContact true ms) (fun _ => rfl) hp (seated_reads d ms h0 hms)⟩⟩, fun d hp => ?_⟩
  · refine gives_of_onDev Dev.driftStep (fun _ => rfl) hp ⟨fun k hk => ?_, (driftStep_only d).1, (driftStep_only d).2⟩
    obtain ⟨⟨h1, h2⟩, h3, h4⟩ := driftStep_drifts d hk
    exact ⟨h1, h2, h3, h4⟩
  · refine gives_of_onDev (·.panelContact false ms) (fun _ => rfl) hp ?_
    exact onlyRegs_panelPresent d 0 (by norm_num)
  · refine gives_of_onDev (·.panelContact true ms) (fun _ => rfl) hp ?_
    have he : d.panelContact true ms = d.put0 F.PANEL_PRESENT 1 := by
      rw [Dev.panelContact, if_pos rfl, decide_eq_false (by omega), Bool.and_false]
      rfl
    rw [he]
    exact onlyRegs_panelPresent d 1 (by norm_num)
  · obtain ⟨c1, c2, c3, c4, c5⟩ := drain_states d hp
    obtain ⟨s1, s2⟩ := safe_states d hp
    refine ⟨c1, c2, c3, c4, c5, s1, s2, ?_, display_refreshes d hp⟩
    exact gives_of_onDev (·.put0 F.PAGE 0) (fun _ => rfl) hp ⟨Dev.get_put0_fit _ (by decide) (by decide),
      onlyFields_put0 _ (onlyFields_refl _ _) (by simp), onlyRegs_put0 _ _ _⟩

end Sys2Proof
end

section
/-! SUPPORT. Ranges in pieces, and copies between ranges of host memory (07 R245; 05 R156). -/

namespace Sys2Proof

open Machine

/-! ### A range in pieces -/

/-- Is there fuel to cut `n` bytes at `a` into pieces of `b`? -/
def FuelFor (b fuel a n : Nat) : Prop := n = 0 ∨ n + a % b ≤ b * fuel

theorem fuelFor_piecesBy {b : Nat} (hb : 0 < b) (a n : Nat) : FuelFor b (n / b + 2) a n := by
  right
  have h1 := Nat.mod_lt a hb
  have h2 := Nat.mod_lt n hb
  have h3 := Nat.div_add_mod n b
  rw [Nat.mul_add, Nat.mul_two]
  omega

/-- After the first piece there is fuel for the rest. -/
theorem FuelFor.rest {b fuel a n : Nat} (hb : 0 < b) (h : FuelFor b (fuel + 1) a n) (hn : n ≠ 0) :
    FuelFor b fuel (a + min n (b - a % b)) (n - min n (b - a % b)) := by
  have hm := Nat.mod_lt a hb
  rcases h with h | h
  · exact absurd h hn
  · rw [Nat.mul_add, Nat.mul_one] at h
    by_cases hle : n ≤ b - a % b
    · left; omega
    · right
      rw [Nat.min_eq_right (by omega), show (a + (b - a % b)) % b = 0 by
        rw [← Nat.mod_add_div a b]
        have : (a % b + b * (a / b)) % b = a % b := by simp
        rw [this, show a % b + b * (a / b) + (b - a % b) = b * (a / b + 1) by rw [Nat.mul_add]; omega]
        exact Nat.mul_mod_right _ _]
      omega

/-- The pieces of a range lie in it, and each lies in one block. -/
theorem piecesFuel_in {b : Nat} (hb : 0 < b) (fuel a n : Nat) : ∀ p ∈ piecesFuel b fuel a n,
    a ≤ p.1 ∧ p.1 + p.2 ≤ a + n ∧ 0 < p.2 ∧ p.1 % b + p.2 ≤ b := by
  induction fuel generalizing a n with
  | zero => exact fun p hp => absurd hp List.not_mem_nil
  | succ fuel ih =>
    have hm := Nat.mod_lt a hb
    rw [piecesFuel]
    split
    · exact fun p hp => absurd hp List.not_mem_nil
    · intro p hp
      rcases List.mem_cons.1 hp with rfl | hp
      · dsimp only; omega
      · have := ih _ _ p hp
        omega

/-- Every address of a range lies in a piece of it. -/
theorem piecesFuel_covers {b : Nat} (hb : 0 < b) (fuel a n : Nat) (h : FuelFor b fuel a n) (y : Nat) (h1 : a ≤ y) (h2 : y < a + n) :
    ∃ p ∈ piecesFuel b fuel a n, p.1 ≤ y ∧ y < p.1 + p.2 := by
  induction fuel generalizing a n with
  | zero => rcases h with h | h <;> omega
  | succ fuel ih =>
    have hn : n ≠ 0 := by omega
    rw [piecesFuel, if_neg hn]
    by_cases hy : y < a + min n (b - a % b)
    · exact ⟨_, List.mem_cons_self .., h1, hy⟩
    · obtain ⟨p, hp, hp'⟩ := ih _ _ (h.rest hb hn) (by omega) (by omega)
      exact ⟨p, List.mem_cons_of_mem _ hp, hp'⟩

theorem listForM_cons {α : Type} (x : α) (l : List α) (f : α → Act Unit) : (x :: l).forM f = (f x >>= fun _ => l.forM f) := rfl

/-- Work on the pieces of a range, one after the other. -/
theorem forM_piecesFuel {P : Nat → Dev → Prop} {b : Nat} (hb : 0 < b) (f : Nat × Nat → Act Unit) (a N : Nat)
    (hf : ∀ m k s, P m s → 0 < k → m + k ≤ N → ∃ s', f (a + m, k) s = .ok () s' ∧ P (m + k) s') (fuel m n : Nat) (s : Dev)
    (h : FuelFor b fuel (a + m) n) (hN : m + n ≤ N) (hs : P m s) :
    ∃ s', (piecesFuel b fuel (a + m) n).forM f s = .ok () s' ∧ P (m + n) s' := by
  induction fuel generalizing m n s with
  | zero =>
    obtain rfl : n = 0 := by rcases h with h | h <;> omega
    exact ⟨s, rfl, hs⟩
  | succ fuel ih =>
    rw [piecesFuel]
    split
    · next hn => subst hn; exact ⟨s, rfl, hs⟩
    · next hn =>
      have hm := Nat.mod_lt (a + m) hb
      obtain ⟨s1, e1, p1⟩ := hf m (min n (b - (a + m) % b)) s hs (by omega) (by omega)
      have hr := h.rest hb hn
      rw [Nat.add_assoc] at hr
      obtain ⟨s2, e2, p2⟩ := ih (m + min n (b - (a + m) % b)) (n - min n (b - (a + m) % b)) s1 hr (by omega) p1
      refine ⟨s2, ?_, by rwa [show m + n = m + min n (b - (a + m) % b) + (n - min n (b - (a + m) % b)) by omega]⟩
      dsimp only
      rw [listForM_cons, act_bind e1, Nat.add_assoc]
      exact e2

theorem forM_piecesBy {P : Nat → Dev → Prop} {b : Nat} (hb : 0 < b) (f : Nat × Nat → Act Unit) (a N : Nat)
    (hf : ∀ m k s, P m s → 0 < k → m + k ≤ N → ∃ s', f (a + m, k) s = .ok () s' ∧ P (m + k) s') (m n : Nat) (s : Dev)
    (hN : m + n ≤ N) (hs : P m s) : ∃ s', (piecesBy b (a + m) n).forM f s = .ok () s' ∧ P (m + n) s' :=
  forM_piecesFuel hb f a N hf _ m n s (fuelFor_piecesBy hb _ _) hN hs

theorem forM_zipIdx {α : Type} (l : List α) (f : α → Act Unit) (j : Nat) : (l.zipIdx j).forM (fun r => f r.1) = l.forM f := by
  induction l generalizing j with
  | nil => rfl
  | cons x l ih => rw [List.zipIdx_cons, listForM_cons, listForM_cons, ih]

/-! ### Blocks of host memory that are poisoned -/

theorem hostBad_iff (s : Dev) (a n : Nat) : s.hostBad a n = false ↔ ∀ y, a ≤ y → y < a + n → Tab.get false s.hostPoison (y / 64) = false := by
  have hb : 0 < 64 := by norm_num
  unfold Dev.hostBad pieces
  rw [List.any_eq_false]
  constructor
  · intro h y h1 h2
    obtain ⟨p, hp, p1, p2⟩ := piecesFuel_covers hb _ _ _ (fuelFor_piecesBy hb a n) y h1 h2
    obtain ⟨-, -, -, p3⟩ := piecesFuel_in hb _ _ _ p hp
    rw [show y / 64 = p.1 / 64 by omega]
    simpa using h p hp
  · intro h p hp
    obtain ⟨p1, p2, p3, -⟩ := piecesFuel_in hb _ _ _ p hp
    rw [h p.1 p1 (by omega)]
    exact Bool.false_ne_true

theorem poison_cleared (l : List (Nat × Nat)) (t : Tab Bool) (b : Nat) (h : Tab.get false t b = false) :
    Tab.get false (l.foldl (fun t x => Tab.set false t (x.1 / 64) false) t) b = false := by
  induction l generalizing t with
  | nil => exact h
  | cons x l ih =>
    refine ih _ ?_
    by_cases hb : b = x.1 / 64
    · rw [hb]; exact Tab.get_set_same false t (x.1 / 64) false
    · rw [Tab.get_set_ne false false t (x.1 / 64) b false hb, h]

/-! ### A copy from host memory to host memory -/

/-- The first `m` bytes at `src` have been copied to `dst`, and nothing but host memory and its requests has changed. -/
def CopiedTo (src dst m : Nat) (d s : Dev) : Prop :=
  (∀ i < m, Tab.get 0 s.hostMem (dst + i) = Tab.get 0 d.hostMem (src + i)) ∧
  (∀ a, ¬(dst ≤ a ∧ a < dst + m) → Tab.get 0 s.hostMem a = Tab.get 0 d.hostMem a) ∧
  (∀ b, Tab.get false d.hostPoison b = false → Tab.get false s.hostPoison b = false) ∧
  s.queues = d.queues ∧ s.regs = d.regs ∧ s.mem = d.mem

theorem copiedTo_start (src dst : Nat) (d : Dev) : CopiedTo src dst 0 d d :=
  ⟨fun _ h => absurd h (Nat.not_lt_zero _), fun _ _ => rfl, fun _ h => h, rfl, rfl, rfl⟩

theorem CopiedTo.issue {src dst m : Nat} {d s : Dev} (h : CopiedTo src dst m d s) (fn : Nat) (w : Bool) (a n : Nat) :
    CopiedTo src dst m d (s.issue fn w a n) := h

theorem writeHost_hostMem (s : Dev) (fn addr : Nat) (bs : List Byte) : (s.writeHost fn addr bs).hostMem = Tab.setMany 0 s.hostMem addr bs ∧
    (s.writeHost fn addr bs).queues = s.queues ∧ (s.writeHost fn addr bs).regs = s.regs ∧ (s.writeHost fn addr bs).mem = s.mem ∧
    ∀ b, Tab.get false s.hostPoison b = false → Tab.get false (s.writeHost fn addr bs).hostPoison b = false :=
  ⟨rfl, rfl, rfl, rfl, poison_cleared _ _⟩

theorem getMany_getD (t : Tab Byte) (a n i : Nat) (h : i < n) : (Tab.getMany 0 t a n).getD i 0 = Tab.get 0 t (a + i) := by
  induction n generalizing a i with
  | zero => exact absurd h (Nat.not_lt_zero _)
  | succ n ih =>
    cases i with
    | zero => rfl
    | succ i =>
      rw [Tab.getMany, List.getD_cons_succ, ih _ _ (by omega)]
      congr 1
      omega

theorem getMany_length (t : Tab Byte) (a n : Nat) : (Tab.getMany 0 t a n).length = n := by
  induction n generalizing a with
  | zero => rfl
  | succ n ih => rw [Tab.getMany, List.length_cons, ih]

/-- One request of a copy within host memory that does not fail, and the pieces of what it supplies. -/
def copyRequest (k : Nat) (a : Acc) (src dst : Nat) (r : Nat × Nat) : Act Unit := do
  act fun s => s.issue (s.owner (k / 32)) false r.1 r.2
  (pieces r.1 r.2).forM fun x => copyPiece a true true x.1 (dst + (x.1 - src)) x.2

section
variable {d : Dev} {src dst n : Nat} (hd : src + n ≤ dst ∨ dst + n ≤ src) (hc : d.hostBad src n = false)
include hd hc

theorem copyPiece_host (a : Acc) (m k : Nat) (s : Dev) (hs : CopiedTo src dst m d s) (hn : m + k ≤ n) :
    ∃ s', copyPiece a true true (src + m) (dst + (src + m - src)) k s = .ok () s' ∧ CopiedTo src dst (m + k) d s' := by
  obtain ⟨c1, c2, c3, c4, c5, c6⟩ := hs
  have hb : s.hostBad (src + m) k = false := (hostBad_iff s _ _).2 fun y h1 h2 => c3 _ ((hostBad_iff d _ _).1 hc y (by omega) (by omega))
  have hrun : copyPiece a true true (src + m) (dst + (src + m - src)) k s =
      .ok () (s.writeHost (s.owner a.part) (dst + (src + m - src)) (s.readHost (src + m) k)) := by
    unfold copyPiece
    rw [act_bind (show theDev s = .ok s s from rfl), if_pos rfl, hb]
    rfl
  refine ⟨_, hrun, ?_⟩
  rw [Nat.add_sub_cancel_left]
  obtain ⟨w1, w2, w3, w4, w5⟩ := writeHost_hostMem s (s.owner a.part) (dst + m) (s.readHost (src + m) k)
  have hl : (s.readHost (src + m) k).length = k := getMany_length _ _ _
  refine ⟨fun i hi => ?_, fun x hx => ?_, fun b hb => w5 b (c3 b hb), w2.trans c4, w3.trans c5, w4.trans c6⟩
  · rw [w1]
    by_cases h : i < m
    · rw [Tab.get_setMany_out 0 _ _ _ _ (by omega), c1 i h]
    · obtain ⟨j, rfl⟩ : ∃ j, i = m + j := ⟨i - m, by omega⟩
      rw [← Nat.add_assoc, setMany_get_of_mem _ _ _ _ (by omega), Dev.readHost, getMany_getD _ _ _ _ (by omega), c2 _ (by omega), Nat.add_assoc]
  · rw [w1, Tab.get_setMany_out 0 _ _ _ _ (by omega), c2 x (by omega)]

/-- The pieces of one request's data are copied. -/
theorem copyRequest_host (a : Acc) (m k : Nat) (s : Dev) (hs : CopiedTo src dst m d s) (hn : m + k ≤ n) :
    ∃ s', (pieces (src + m) k).forM (fun x => copyPiece a true true x.1 (dst + (x.1 - src)) x.2) s = .ok () s' ∧ CopiedTo src dst (m + k) d s' :=
  forM_piecesBy (P := fun m s => CopiedTo src dst m d s) (by norm_num) _ src n (fun m k s h _ hk => copyPiece_host hd hc a m k s h hk) m k s hn hs

/-- All of a copy between two ranges of host memory. -/
theorem copyAll_host (k : Nat) (a : Acc) (b : Nat) (hb : 0 < b) : ∃ s',
    (piecesBy b src n).forM (copyRequest k a src dst) d = .ok () s' ∧ CopiedTo src dst n d s' := by
  have h := forM_piecesBy (P := fun m s => CopiedTo src dst m d s) hb (copyRequest k a src dst) src n
    (fun m j s h _ hk => copyRequest_host hd hc a m j _ (h.issue (s.owner (k / 32)) false (src + m) j) hk) 0 n d (by omega) (copiedTo_start _ _ _)
  rwa [Nat.add_zero, Nat.zero_add] at h

end

end Sys2Proof
end

section
/-! SUPPORT. COPY and WRITE_IMM: the settling theorem (07 R245). -/

namespace Sys2Proof

open Machine

theorem common_of_runsOp {d : Dev} {k op : Nat} {c : Cmd} (h : RunsOp d k op c) : d.common k op = some c.words := by
  obtain ⟨-, -, hc, hph, hop⟩ := h
  unfold Dev.common
  rw [hc]
  dsimp only
  rw [hph]
  dsimp only
  rw [if_pos hop]

/-- A copy that nothing holds runs its next chunk. -/
theorem cmdCopy_runs {d : Dev} {k : Nat} {c : Cmd} (h : RunsOp d k 6 c) (hw : d.workHeld = false) (hs : c.stop = none) (fail : Option Nat) :
    (∀ x, runAct (copyOne k c.words fail (c.carry.headD 0)) d = (.ok (), x) → d.cmdCopy k fail =
      if (c.carry.headD 0 + 1) * copyChunk < wordAt c.words 6 then x.updCmd k fun y => { y with carry := [c.carry.headD 0 + 1] }
      else x.endCmd k stOK 0) ∧
    (∀ x st detail, runAct (copyOne k c.words fail (c.carry.headD 0)) d = (.error (.ended st detail), x) →
      d.cmdCopy k fail = x.endCmd k st detail) := by
  have hn : ¬(d.workHeld = true ∨ c.stop.isSome = true) := by rw [hw, hs]; simp
  refine ⟨fun x hx => ?_, fun x st detail hx => ?_⟩
  · unfold Dev.cmdCopy
    rw [h.2.2.1, common_of_runsOp h]
    dsimp only
    rw [if_neg hn, hx]
  · unfold Dev.cmdCopy
    rw [h.2.2.1, common_of_runsOp h]
    dsimp only
    rw [if_neg hn, hx]
    rfl

theorem gives_copy {d : Dev} {k : Nat} (hp : Powered d) (hk : queueOk k = true) {fail : Option Nat} {R : Dev → Prop}
    (h : R (d.cmdCopy k fail)) : Gives (.copy k [] fail) d R :=
  gives_onQueue (f := fun d => (d.hostHolds (d.copySrc k) []).cmdCopy k fail) (fun _ => rfl) hp hk h

/-- The requests of a chunk whose source is host memory, the failing one among them. -/
def copyHost (k : Nat) (w : List Word) (fail : Option Nat) (dh : Bool) (a : Acc) (b src dst m : Nat) : Act Unit :=
  (piecesBy b src m).zipIdx.forM fun r => do
    act fun s => s.issue (s.owner (k / 32)) false r.1.1 r.1.2
    if fail == some r.2 then stopWith stFAULT dHOSTACCESS
    (pieces r.1.1 r.1.2).forM fun x => copyPiece a true dh x.1 (dst + (x.1 - (wordAt w 2 + 2 ^ 32 * wordAt w 3))) x.2

/-- The first chunk of a copy from host memory, of a queue whose owner reaches it. -/
theorem copyOne_host (d : Dev) (k : Nat) (w : List Word) (fail : Option Nat) (hs : bitAt (wordAt w 7) 0 = true) (hb : d.qBus k = true) :
    copyOne k w fail 0 d = copyHost k w fail (bitAt (wordAt w 7) 1) (d.spurAcc k) (max 64 d.host.ctl.maxRead) (wordAt w 2 + 2 ^ 32 * wordAt w 3)
      (wordAt w 4 + 2 ^ 32 * wordAt w 5) (min 65536 (wordAt w 6)) d := by
  have hm : d.mayEnd k = true := by unfold Dev.mayEnd; rw [hb]; rfl
  unfold copyOne
  rw [act_bind (show theDev d = .ok d d from rfl), hs, hm, hb]
  simp only [Bool.not_true, Bool.and_false, Bool.or_false, Bool.false_eq_true, if_false, if_true, Nat.zero_mul, Nat.add_zero, Nat.sub_zero]
  rfl

theorem copyHost_none (k : Nat) (w : List Word) (a : Acc) (b dst m : Nat) :
    copyHost k w none true a b (wordAt w 2 + 2 ^ 32 * wordAt w 3) dst m =
      (piecesBy b (wordAt w 2 + 2 ^ 32 * wordAt w 3) m).forM (copyRequest k a (wordAt w 2 + 2 ^ 32 * wordAt w 3) dst) := by
  rw [← forM_zipIdx _ _ 0]
  rfl

/-- The first request fails: nothing of it is written. -/
theorem copyHost_first (k : Nat) (w : List Word) (dh : Bool) (a : Acc) {b : Nat} (src dst m : Nat) (hm : 0 < m) (d : Dev) : ∃ n,
    copyHost k w (some 0) dh a b src dst m d = .error (.ended stFAULT dHOSTACCESS) (d.issue (d.owner (k / 32)) false src n) := by
  refine ⟨min m (b - src % b), ?_⟩
  unfold copyHost piecesBy
  rw [piecesFuel, if_neg (by omega)]
  dsimp only
  rw [List.zipIdx_cons, listForM_cons]
  rfl

/-- COPY. -/
theorem copy_copies {d : Dev} {k : Nat} {c : Cmd} (h : RunsOp d k 6 c) (hw : d.workHeld = false) (hs : c.stop = none) (hcar : c.carry = [])
    (h0 : 0 < wordAt c.words 6) (hh : bitAt (wordAt c.words 7) 0 = true) (hb : d.qBus k = true) :
    (wordAt c.words 6 ≤ 65536 → bitAt (wordAt c.words 7) 1 = true →
      (wordAt c.words 2 + 2 ^ 32 * wordAt c.words 3 + wordAt c.words 6 ≤ wordAt c.words 4 + 2 ^ 32 * wordAt c.words 5 ∨
        wordAt c.words 4 + 2 ^ 32 * wordAt c.words 5 + wordAt c.words 6 ≤ wordAt c.words 2 + 2 ^ 32 * wordAt c.words 3) →
      d.hostBad (wordAt c.words 2 + 2 ^ 32 * wordAt c.words 3) (wordAt c.words 6) = false → ∃ x, d.cmdCopy k none = x.endCmd k stOK 0 ∧
        CopiedTo (wordAt c.words 2 + 2 ^ 32 * wordAt c.words 3) (wordAt c.words 4 + 2 ^ 32 * wordAt c.words 5) (wordAt c.words 6) d x) ∧
    ∃ fn a n, d.cmdCopy k (some 0) = (d.issue fn false a n).endCmd k stFAULT dHOSTACCESS := by
  have hch : c.carry.headD 0 = 0 := by rw [hcar]; rfl
  refine ⟨fun hn hd ha hg => ?_, ?_⟩
  · obtain ⟨x, hx, hcp⟩ := copyAll_host ha hg k (d.spurAcc k) (max 64 d.host.ctl.maxRead) (by omega)
    refine ⟨x, ?_, hcp⟩
    have hr : runAct (copyOne k c.words none (c.carry.headD 0)) d = (.ok (), x) := by
      rw [runAct_ok, hch, copyOne_host d k c.words none hh hb, hd, copyHost_none, Nat.min_eq_right hn]
      exact hx
    rw [(cmdCopy_runs h hw hs none).1 x hr, hch, if_neg (by unfold copyChunk; omega)]
  · obtain ⟨n, hx⟩ := copyHost_first k c.words (bitAt (wordAt c.words 7) 1) (d.spurAcc k) (b := max 64 d.host.ctl.maxRead)
      (wordAt c.words 2 + 2 ^ 32 * wordAt c.words 3) (wordAt c.words 4 + 2 ^ 32 * wordAt c.words 5) (min 65536 (wordAt c.words 6)) (by omega) d
    refine ⟨d.owner (k / 32), wordAt c.words 2 + 2 ^ 32 * wordAt c.words 3, n, (cmdCopy_runs h hw hs (some 0)).2 _ _ _ ?_⟩
    unfold runAct
    rw [hch, copyOne_host d k c.words (some 0) hh hb, hx]

/-! ### WRITE_IMM -/

/-- The work of WRITE_IMM. -/
def writeWork (k : Nat) (w : List Word) : Act Unit := do
  let s ← theDev
  if bitAt (wordAt w 5) 0 && !s.qBus k then throw .wait
  putBytes (s.spurAcc k) (bitAt (wordAt w 5) 0) (wordAt w 2 + 2 ^ 32 * wordAt w 3) (leBytes (wordAt w 4) 4)

theorem cmdWriteImm_runs {d x : Dev} {k : Nat} {c : Cmd} (h : RunsOp d k 7 c) (hw : d.workHeld = false)
    (hx : runAct (writeWork k c.words) d = (.ok (), x)) : d.cmdWriteImm k = x.endCmd k stOK 0 := by
  unfold Dev.cmdWriteImm
  rw [common_of_runsOp h]
  dsimp only
  rw [hw, if_neg Bool.false_ne_true]
  change (runAct (writeWork k c.words) d).2.finish k (runAct (writeWork k c.words) d).1 = _
  rw [hx]
  rfl

theorem writeWork_host {d : Dev} {k : Nat} {w : List Word} (h : bitAt (wordAt w 5) 0 = true) (hb : d.qBus k = true) :
    runAct (writeWork k w) d = (.ok (), d.writeHost (d.owner (k / 32)) (wordAt w 2 + 2 ^ 32 * wordAt w 3) (leBytes (wordAt w 4) 4)) := by
  rw [runAct_ok]
  unfold writeWork
  rw [act_bind (show theDev d = .ok d d from rfl), h, hb]
  rfl

theorem writeWork_dev {d : Dev} {k : Nat} {w : List Word} (h : bitAt (wordAt w 5) 0 = false) :
    runAct (writeWork k w) d = runAct (writeMem (d.spurAcc k) (wordAt w 2 + 2 ^ 32 * wordAt w 3) (leBytes (wordAt w 4) 4)) d := by
  have he : writeWork k w d = writeMem (d.spurAcc k) (wordAt w 2 + 2 ^ 32 * wordAt w 3) (leBytes (wordAt w 4) 4) d := by
    unfold writeWork
    rw [act_bind (show theDev d = .ok d d from rfl), h]
    rfl
  unfold runAct
  rw [he]

theorem bits_of_three {v : Nat} (h : bitsOf v 0 2 = 3) : bitAt v 0 = true ∧ bitAt v 1 = true := by
  unfold bitAt
  rw [← bitsOf_bitsOf v (n := 2) (by norm_num), ← bitsOf_bitsOf v (n := 2) (lo := 1) (by norm_num), h]
  decide

/-- Settles O40: a copy within host memory goes piece by piece, each piece reading bytes of the source that no piece before it wrote; the other
clauses are the chunk's run and the end it gives its command. -/
theorem copyAndWrite : Obligations.CopyAndWrite := by
  unfold Obligations.CopyAndWrite
  refine ⟨fun d k c h hw hs => ?_, fun d k c h hw => ?_⟩
  · have hp := h.1
    have hk := h.2.1
    have hc := h.2.2.1
    refine ⟨fun hcar h0 hn hb3 hb hd hg => ?_, fun hcar h0 hh hb => ?_, fun fail x hx => ?_, fun fail x st detail hx => ?_⟩
    · obtain ⟨b0, b1⟩ := bits_of_three hb3
      obtain ⟨x, hx, c1, c2, -, c4, c5, c6⟩ := (copy_copies h hw hs hcar h0 b0 hb).1 hn b1 hd hg
      obtain ⟨e1, e2, e3⟩ := endCmd_after hc c4 stOK 0
      refine gives_copy hp hk ?_
      rw [hx]
      exact ⟨c1, c2, e1, e3.trans c5, (congrArg Dev.mem e2).trans c6⟩
    · obtain ⟨fn, a, n, hx⟩ := (copy_copies h hw hs hcar h0 hh hb).2
      obtain ⟨e1, e2, e3⟩ := endCmd_after (s := d.issue fn false a n) hc rfl stFAULT dHOSTACCESS
      refine gives_copy hp hk ?_
      rw [hx]
      exact ⟨e1, (congrArg Dev.hostMem e2).trans rfl, e3, (congrArg Dev.mem e2).trans rfl⟩
    · exact gives_copy hp hk ((cmdCopy_runs h hw hs fail).1 x hx)
    · exact gives_copy hp hk ((cmdCopy_runs h hw hs fail).2 x st detail hx)
  · have hp := h.1
    have hk := h.2.1
    have hc := h.2.2.1
    refine ⟨fun hh hb => ?_, fun hh x hx => ?_⟩
    · refine gives_onQueue (f := (·.cmdWriteImm k)) (fun _ => rfl) hp hk ?_
      rw [cmdWriteImm_runs h hw (writeWork_host hh hb)]
      obtain ⟨w1, w2⟩ := get_setMany_leBytes d.hostMem (wordAt c.words 2 + 2 ^ 32 * wordAt c.words 3) (wordAt c.words 4) 4
      obtain ⟨m1, m2, m3, m4, -⟩ := writeHost_hostMem d (d.owner (k / 32)) (wordAt c.words 2 + 2 ^ 32 * wordAt c.words 3) (leBytes (wordAt c.words 4) 4)
      obtain ⟨e1, e2, e3⟩ := endCmd_after hc m2 stOK 0
      have hm := (congrArg Dev.hostMem e2).trans m1
      exact ⟨fun i hi => by rw [hm]; exact w1 i hi, fun a ha => by rw [hm]; exact w2 a ha, e1, e3.trans m3, (congrArg Dev.mem e2).trans m4⟩
    · refine gives_onQueue (f := (·.cmdWriteImm k)) (fun _ => rfl) hp hk ?_
      exact cmdWriteImm_runs h hw ((writeWork_dev hh).trans hx)

end Sys2Proof
end

section
/-! SUPPORT. The end of a chunk at its instance (07 R239 to R243, R260). -/

namespace Sys2Proof

open Machine

/-! ### The instance -/

/-- An instance that falls idle: its own accounts and its partition's chunks of grace change. -/
theorem freeInst_reads (s : Dev) (i : Inst) (b : Busy) (n : Nat) :
    Tab.get Engine.reset (s.freeInst i b n).engines i.key = { Tab.get Engine.reset s.engines i.key with
      busy := none
      used := Tab.set 0 (Tab.get Engine.reset s.engines i.key).used (b.queue / 32)
        (Tab.get 0 (Tab.get Engine.reset s.engines i.key).used (b.queue / 32) + n) } ∧
    (∀ j, j ≠ i.key → Tab.get Engine.reset (s.freeInst i b n).engines j = Tab.get Engine.reset s.engines j) ∧
    (s.freeInst i b n).part (b.queue / 32) = { s.part (b.queue / 32) with
      grand := (s.part (b.queue / 32)).grand.filter fun x => !(x == (b.queue, b.chunk)) } ∧
    (∀ p, p ≠ b.queue / 32 → (s.freeInst i b n).part p = s.part p) ∧
    s.freeInst i b n = { s with engines := (s.freeInst i b n).engines, parts := (s.freeInst i b n).parts } :=
  ⟨Tab.get_set_same Engine.reset s.engines i.key _, fun j hj => Tab.get_set_ne Engine.reset Engine.reset s.engines i.key j _ hj,
    Tab.get_set_same Part.reset s.parts (b.queue / 32) _, fun p hp => Tab.get_set_ne Part.reset Part.reset s.parts (b.queue / 32) p _ hp, rfl⟩

/-! ### What its command learns -/

/-- The status that a chunk's end gives its command. -/
def Machine.Busy.gives (b : Busy) (trap : Nat) : Option (Nat × Nat) :=
  match b.fail with
  | some f => some f
  | none => if b.flags &&& trap ≠ 0 then some (stNUMERIC, dNUMERICTRAP) else none

/-- The status a command holds after one more of its chunks has failed, or not. -/
def failAfter (old : Option (Nat × Nat)) : Option (Nat × Nat) → Option (Nat × Nat)
  | some f => some (old.getD f)
  | none => old

/-- What is left to hand out after that: a chunk cut off goes on in a further one. -/
def Machine.Cmd.learn (c : Cmd) (b : Busy) : Option (Nat × Nat) → Cmd
  | some f => { c with fail := some (c.fail.getD f), todo := [] }
  | none => if b.cut ∧ c.fail.isNone ∧ c.stop.isNone then { c with todo := insertAsc b.chunk c.todo } else c

/-- A stopped command without a chunk at an instance is over. -/
def Machine.Cmd.settled (c : Cmd) : Cmd :=
  match c.stop with
  | some d => if c.out.isEmpty && c.fail.isNone then c.cancel d else c
  | none => c

theorem chunkOver_eq (c : Cmd) (i : Inst) (b : Busy) : c.chunkOver i b =
    (({ c with out := outBut c i b.chunk, flags := c.flags ||| b.flags } : Cmd).learn b (b.gives c.trap)).settled := rfl

/-- The phase of a command after one more of its chunks has ended. -/
def Machine.Cmd.phaseAfter (c : Cmd) (left : List ChunkRun) (fail : Option (Nat × Nat)) : CmdPhase :=
  match c.stop with
  | some detail => if left = [] ∧ fail = none ∧ c.fail = none then .ended stCANCELLED detail else c.phase
  | none => c.phase

theorem chunkEnds_iff (i : Inst) (b : Busy) (c c' : Cmd) : ChunkEnds i b c c' ↔ c' = { c with
    out := outBut c i b.chunk, flags := c.flags ||| b.flags, fail := failAfter c.fail (b.gives c.trap)
    todo := if (b.gives c.trap).isSome then [] else if b.cut ∧ c.fail = none ∧ c.stop = none then insertAsc b.chunk c.todo else c.todo
    phase := c.phaseAfter (outBut c i b.chunk) (b.gives c.trap) } := Iff.rfl

/-- What a command makes of the end of one of its chunks (07 R240, R242, R243, R260). -/
theorem chunkOver_ends (c : Cmd) (i : Inst) (b : Busy) : ChunkEnds i b c (c.chunkOver i b) := by
  rw [chunkEnds_iff, chunkOver_eq]
  generalize b.gives c.trap = verdict
  generalize outBut c i b.chunk = left
  obtain ⟨words, phase, ready, chunks, todo, out, fail, flags, stop, per, insts, asg, carry, slots, pages, done⟩ := c
  cases verdict with
  | some f => cases stop <;> simp [Cmd.learn, Cmd.settled, Cmd.phaseAfter, failAfter]
  | none =>
    cases stop with
    | none =>
      by_cases h : b.cut = true ∧ fail = none
      · simp [Cmd.learn, Cmd.settled, Cmd.phaseAfter, failAfter, h]
      · simp [Cmd.learn, Cmd.settled, Cmd.phaseAfter, failAfter, h]
    | some x =>
      by_cases h : left = [] ∧ fail = none
      · simp [Cmd.learn, Cmd.settled, Cmd.phaseAfter, failAfter, Cmd.cancel, h]
      · simp [Cmd.learn, Cmd.settled, Cmd.phaseAfter, failAfter, h]

/-! ### The unit after the end of a chunk -/

/-- Instance `i` has ended its chunk `b`, having used `cycles`. -/
def ChunkEnded (i : Inst) (b : Busy) (cycles : Nat) (d e : Dev) : Prop :=
  OnlyChunk i b.queue d e ∧
  Tab.get Engine.reset e.engines i.key = { Tab.get Engine.reset d.engines i.key with
    busy := none, used := (Tab.get Engine.reset e.engines i.key).used } ∧
  Tab.get 0 (Tab.get Engine.reset e.engines i.key).used (b.queue / 32) =
    Tab.get 0 (Tab.get Engine.reset d.engines i.key).used (b.queue / 32) + cycles ∧
  e.part (b.queue / 32) = { d.part (b.queue / 32) with
    grand := (d.part (b.queue / 32)).grand.filter fun x => !(x == (b.queue, b.chunk)) } ∧
  (∀ c, d.cmdOf b.queue = some c → ⟨b.chunk, i⟩ ∈ c.out → ∃ c', e.cmdOf b.queue = some c' ∧ ChunkEnds i b c c') ∧
  ((∀ c, d.cmdOf b.queue = some c → ⟨b.chunk, i⟩ ∉ c.out) → e.queues = d.queues)

theorem endOn_eq {d : Dev} {i : Inst} {b : Busy} (hb : (Tab.get Engine.reset d.engines i.key).busy = some b) (cycles : Nat) :
    d.endOn i cycles = if d.ownsChunk i b then (d.freeInst i b cycles).updCmd b.queue fun c => c.chunkOver i b else d.freeInst i b cycles := by
  unfold Dev.endOn Dev.overWith
  rw [hb]
  rfl

theorem ownsChunk_iff (d : Dev) (i : Inst) (b : Busy) : d.ownsChunk i b = true ↔ ∃ c, d.cmdOf b.queue = some c ∧ ⟨b.chunk, i⟩ ∈ c.out := by
  unfold Dev.ownsChunk
  cases h : d.cmdOf b.queue with
  | none => simp
  | some c =>
    simp only [Option.any_some, List.any_eq_true, Bool.and_eq_true, beq_iff_eq, Option.some.injEq, exists_eq_left']
    constructor
    · rintro ⟨⟨ch, j⟩, hx, h1, h2⟩
      dsimp only at h1 h2
      rwa [← h1, ← h2]
    · exact fun hx => ⟨_, hx, rfl, rfl⟩

theorem endOn_ends {d : Dev} {i : Inst} {b : Busy} (hb : (Tab.get Engine.reset d.engines i.key).busy = some b) (cycles : Nat) :
    ChunkEnded i b cycles d (d.endOn i cycles) := by
  obtain ⟨f1, f2, f3, f4, f5⟩ := freeInst_reads d i b cycles
  obtain ⟨s, hs⟩ : ∃ s, s = d.freeInst i b cycles := ⟨_, rfl⟩
  have hq : s.queues = d.queues := by rw [hs]; rfl
  rw [← hs] at f1 f2 f3 f4 f5
  have hused : Tab.get 0 (Tab.get Engine.reset s.engines i.key).used (b.queue / 32) =
      Tab.get 0 (Tab.get Engine.reset d.engines i.key).used (b.queue / 32) + cycles := by
    rw [f1]; exact Tab.get_set_same 0 _ _ _
  have heng : Tab.get Engine.reset s.engines i.key = { Tab.get Engine.reset d.engines i.key with
      busy := none, used := (Tab.get Engine.reset s.engines i.key).used } := by rw [f1]
  rw [endOn_eq hb, ← hs]
  by_cases ho : d.ownsChunk i b = true
  · obtain ⟨c, hc, hm⟩ := (ownsChunk_iff d i b).1 ho
    obtain ⟨u1, u2, -⟩ := updCmd_reads ((cmdOf_congr (queue_congr hq b.queue)).trans hc) fun c => c.chunkOver i b
    rw [if_pos ho]
    refine ⟨⟨fun j hj => (u2 j hj).trans (queue_congr hq j), f2, ?_, f4⟩, heng, hused, f3, fun c' hc' hm' => ⟨_, u1, ?_⟩, fun h => absurd hm (h c hc)⟩
    · rw [f5]; rfl
    · obtain rfl := Option.some.inj (hc.symm.trans hc')
      exact chunkOver_ends c i b
  · rw [if_neg ho]
    refine ⟨⟨fun j _ => queue_congr hq j, f2, ?_, f4⟩, heng, hused, f3, fun c hc hm => absurd ((ownsChunk_iff d i b).2 ⟨c, hc, hm⟩) ho, fun _ => hq⟩
    rw [f5]

/-- A cut-off ends the chunk that has more to do, and no other. -/
theorem cutOn_cuts {d : Dev} {i : Inst} {b : Busy} (hb : (Tab.get Engine.reset d.engines i.key).busy = some b) (cycles : Nat) :
    (b.cut = true → d.cutOn i cycles = d.endOn i cycles) ∧ (b.cut = false → d.cutOn i cycles = d) := by
  unfold Dev.cutOn
  rw [hb, Option.any_some]
  exact ⟨fun h => if_pos h, fun h => if_neg (by rw [h]; exact Bool.false_ne_true)⟩

/-- The cut-offs of the five classes of engines, each with its instance. -/
theorem cutoffs_exec (i : Inst) (cycles : Nat) :
    ∀ row ∈ [(Instr.summitCutoff i.die i.idx cycles, (⟨0, i.die, i.idx⟩ : Inst)), (Instr.screeCutoff i.die i.idx cycles, ⟨1, i.die, i.idx⟩),
      (Instr.cairnCutoff i.die cycles, ⟨2, i.die, 0⟩), (Instr.saddleCutoff i.die cycles, ⟨3, i.die, 0⟩), (Instr.colCutoff i.die cycles, ⟨4, i.die, 0⟩)],
    ∀ s, exec row.1 s = onDev (·.cutOn row.2 cycles) s := by
  simp only [List.forall_mem_cons]
  exact ⟨fun _ => rfl, fun _ => rfl, fun _ => rfl, fun _ => rfl, fun _ => rfl, fun _ h => absurd h List.not_mem_nil⟩

theorem chunkEnd_ends (d : Dev) (i : Inst) (b : Busy) (cycles : Nat) (hp : Powered d) (hb : (Tab.get Engine.reset d.engines i.key).busy = some b) :
    Gives (.chunkEnd i.cls i.die i.idx cycles) d (ChunkEnded i b cycles d) ∧
    ∀ row ∈ [(Instr.summitCutoff i.die i.idx cycles, (⟨0, i.die, i.idx⟩ : Inst)), (Instr.screeCutoff i.die i.idx cycles, ⟨1, i.die, i.idx⟩),
      (Instr.cairnCutoff i.die cycles, ⟨2, i.die, 0⟩), (Instr.saddleCutoff i.die cycles, ⟨3, i.die, 0⟩), (Instr.colCutoff i.die cycles, ⟨4, i.die, 0⟩)],
      row.2 = i → (b.cut = true → Gives row.1 d (ChunkEnded i b cycles d)) ∧ (b.cut = false → Gives row.1 d fun e => e = d) := by
  obtain ⟨h1, h2⟩ := cutOn_cuts hb cycles
  refine ⟨gives_of_onDev (·.endOn i cycles) (fun _ => rfl) hp (endOn_ends hb cycles), fun row hrow hi => ?_⟩
  have hx := cutoffs_exec i cycles row hrow
  rw [hi] at hx
  exact ⟨fun hc => gives_of_onDev (·.cutOn i cycles) hx hp (by rw [h1 hc]; exact endOn_ends hb cycles),
    fun hc => gives_of_onDev (·.cutOn i cycles) hx hp (h2 hc)⟩

end Sys2Proof
end

section
/-! SUPPORT. The start of a chunk at an instance, and the settling theorem about chunks (07 R239 to R243, R260, R263 to R265). -/

namespace Sys2Proof

open Machine

/-! ### A chunk begins -/

/-- The status with which a chunk's work ends, if it fails. -/
def endOf : Except Stop Bool → Option (Nat × Nat)
  | .error (.ended st detail) => some (st, detail)
  | _ => none

/-- What an instance keeps of a chunk that has begun and come to `r`. -/
def begun (k ch : Nat) (c : Cmd) (r : Except Stop Bool × Dev) : Busy :=
  { queue := k, chunk := ch, cmd := c, fail := endOf r.1, flags := r.2.flagAcc, cut := decide (r.1 = .ok false), holds := r.2.holdAcc }

/-- The unit `x` with a chunk handed to its instance, whose accounts are `e`. -/
def Machine.Dev.handed (x : Dev) (k : Nat) (i : Inst) (ch : Nat) (asg : List Inst) (b : Busy) (e : Engine) : Dev :=
  { x.updCmd k fun c => { c with todo := c.todo.erase ch, asg := asg, out := c.out ++ [⟨ch, i⟩] } with
    engines := Tab.upd Engine.reset x.engines i.key fun y => { y with busy := some b, used := e.used, ready := e.ready, last := e.last } }

section
variable (d : Dev) (k : Nat) (op : EngineOp) (c : Cmd) (i : Inst) (ch : Nat) (limit : Option Nat) (e : Engine)

theorem startChunk_waits (h : (chunkWork d k op c i ch limit).1 = .error .wait) :
    d.startChunk k op c i ch limit e = (false, { d with wakes := (chunkWork d k op c i ch limit).2.wakes }) := by
  have hb : d.beginChunk k op c i ch limit = (none, { d with wakes := (chunkWork d k op c i ch limit).2.wakes }) := by
    unfold Dev.beginChunk
    change (match (chunkWork d k op c i ch limit).1 with | .error .wait => _ | .error (.ended st d) => _ | .ok done => _) = _
    rw [h]
    rfl
  unfold Dev.startChunk
  rw [hb]

theorem beginChunk_begun (h : (chunkWork d k op c i ch limit).1 ≠ .error .wait) : d.beginChunk k op c i ch limit =
    (some (begun k ch c (chunkWork d k op c i ch limit)), (chunkWork d k op c i ch limit).2) := by
  unfold Dev.beginChunk
  change (match (chunkWork d k op c i ch limit).1 with | .error .wait => _ | .error (.ended st d) => _ | .ok done => _) = _
  have hfl : ∀ b, (begun k ch c (chunkWork d k op c i ch limit)).cut = b → (begun k ch c (chunkWork d k op c i ch limit)) =
      { begun k ch c (chunkWork d k op c i ch limit) with cut := b } := fun b hb => by rw [← hb]
  cases hr : (chunkWork d k op c i ch limit).1 with
  | error st =>
    cases st with
    | wait => exact absurd hr h
    | ended st detail =>
      rw [hfl false (by unfold begun; rw [hr]; rfl), begun, hr]
      rfl
  | ok done =>
    rw [hfl (!done) (by unfold begun; rw [hr]; cases done <;> rfl), begun, hr]
    rfl

theorem startChunk_starts (h : (chunkWork d k op c i ch limit).1 ≠ .error .wait) : d.startChunk k op c i ch limit e = (true,
    (chunkWork d k op c i ch limit).2.handed k i ch (d.assignment k c) (begun k ch c (chunkWork d k op c i ch limit)) e) := by
  unfold Dev.startChunk
  rw [beginChunk_begun d k op c i ch limit h]
  rfl

end

/-- Handing a chunk to an instance changes the instance and its own queue's command. -/
theorem handed_reads (x : Dev) (k : Nat) (i : Inst) (ch : Nat) (asg : List Inst) (b : Busy) (e : Engine) :
    OnlyChunk i k x (x.handed k i ch asg b e) ∧ (x.handed k i ch asg b e).parts = x.parts ∧
    Tab.get Engine.reset (x.handed k i ch asg b e).engines i.key =
      { Tab.get Engine.reset x.engines i.key with busy := some b, used := e.used, ready := e.ready, last := e.last } ∧
    ∀ c1, x.cmdOf k = some c1 → (x.handed k i ch asg b e).cmdOf k = some { c1 with
      todo := c1.todo.erase ch, asg := asg, out := c1.out ++ [⟨ch, i⟩] } := by
  have he : (x.handed k i ch asg b e).engines = Tab.set Engine.reset x.engines i.key
      { Tab.get Engine.reset x.engines i.key with busy := some b, used := e.used, ready := e.ready, last := e.last } := rfl
  have hq : (x.handed k i ch asg b e).queues =
    (x.updCmd k fun c => { c with todo := c.todo.erase ch, asg := asg, out := c.out ++ [⟨ch, i⟩] }).queues := rfl
  refine ⟨⟨fun j hj => ?_, fun j hj => ?_, rfl, fun _ _ => rfl⟩, rfl, ?_, fun c1 hc => ?_⟩
  · rw [queue_congr hq, Dev.updCmd, queue_updQ, if_neg hj]
  · rw [he, Tab.get_set_ne Engine.reset Engine.reset _ _ _ _ hj]
  · rw [he, Tab.get_set_same]
  · rw [cmdOf_congr (queue_congr hq k)]
    exact (updCmd_reads hc _).1

/-! ### Dispatch -/

/-- The spur cores find nothing to split where every running command is. -/
theorem prepare_ready {s : Dev} {k : Nat} (e : EngineOp) (h : ∀ c, s.cmdOf k = some c → c.ready = true ∨ c.phase ≠ .running) : s.prepare k e = s := by
  unfold Dev.prepare
  cases hc : s.cmdOf k with
  | none => rfl
  | some c => exact if_pos (h c hc)

/-- A spur core's turn before an instance picks: what waits on the queue is split. -/
def Machine.Dev.splitNext (s : Dev) (k : Nat) : Dev :=
  match s.cmdOf k with
  | some c => if 0x20 ≤ c.opcode ∧ c.stop.isNone then s.prepare k (engineOp c.opcode) else s
  | none => s

theorem chunkDispatch_eq {d : Dev} (i : Inst) (limit : Option Nat) (hw : d.workHeld = false) : d.chunkDispatch i limit =
    (d.forEach ((d.queues.map (·.1)).filter fun k => qClass k == i.cls) Dev.splitNext).dispatchOn i limit engineOp := by
  unfold Dev.chunkDispatch
  rw [hw]
  rfl

theorem splitNext_ready {s : Dev} {k : Nat} (h : ∀ c, s.cmdOf k = some c → c.ready = true ∨ c.phase ≠ .running) : s.splitNext k = s := by
  unfold Dev.splitNext
  split
  · split
    · exact prepare_ready _ h
    · rfl
  · rfl

theorem splitAll_ready {d : Dev} (l : List Nat) (h : ∀ j ∈ l, ∀ x, d.cmdOf j = some x → x.ready = true ∨ x.phase ≠ .running) :
    d.forEach l Dev.splitNext = d := by
  unfold Dev.forEach
  induction l with
  | nil => rfl
  | cons k l ih =>
    rw [List.foldl_cons, splitNext_ready (h k (List.mem_cons_self ..))]
    exact ih fun j hj => h j (List.mem_cons_of_mem _ hj)

/-- Of one queue with a chunk ready, the round-robin takes that queue. -/
theorem pick_one (s : Dev) (i : Inst) (k : Nat) : ∃ e, s.pick i [k] [k] = some (e, k) := by
  have hf : [k].filter (fun j => j / 32 == k / 32) = [k] := by simp
  have hq : ∀ n, pickQueue n [k] = some k := fun n => by
    unfold pickQueue
    by_cases h : n < k
    · rw [List.filter_cons_of_pos (by simpa using h)]; rfl
    · rw [List.filter_cons_of_neg (by simpa using h)]; rfl
  have hd : ([k].map (· / 32)).dedup = [k / 32] := by simp
  unfold Dev.pick
  dsimp only
  rw [hd]
  simp only [pickPart, hf, hq, Option.map_some]
  exact ⟨_, rfl⟩

/-- An idle instance with one queue to serve starts that queue's first chunk for it, or, where it must wait, nothing. -/
theorem dispatchOn_one {d : Dev} {i : Inst} {k : Nat} {c : Cmd} (limit : Option Nat) (op : Nat → EngineOp)
    (hb : (Tab.get Engine.reset d.engines i.key).busy = none) (hw : d.workHeld = false) (hq : d.readyQueues i = [k]) (hc : d.cmdOf k = some c) :
    ∃ e, d.dispatchOn i limit op =
      (d.startChunk k (op c.opcode) c i ((c.todo.find? fun ch => d.instOf k c ch == i).getD 0) limit e).2 := by
  obtain ⟨e, he⟩ := pick_one d i k
  refine ⟨e, ?_⟩
  unfold Dev.dispatchOn
  dsimp only
  rw [hb, hw, hq]
  rw [if_neg (by simp), if_neg (by simp), List.length_singleton, Dev.startFirst, he]
  dsimp only
  rw [hc]
  dsimp only
  generalize d.startChunk k (op c.opcode) c i ((c.todo.find? fun ch => d.instOf k c ch == i).getD 0) limit e = r
  obtain ⟨b, s⟩ := r
  cases b <;> rfl

theorem readyQueues_todo {d : Dev} {i : Inst} {k : Nat} {c : Cmd} (hk : k ∈ d.readyQueues i) (hc : d.cmdOf k = some c) :
    ∃ ch, c.todo.find? (fun x => d.instOf k c x == i) = some ch := by
  have h := (List.mem_filter.1 hk).2
  rw [hc] at h
  simp only [Bool.and_eq_true] at h
  obtain ⟨-, -, h⟩ := h
  obtain ⟨x, hx, hi⟩ := List.any_eq_true.1 h
  exact Option.isSome_iff_exists.1 (List.find?_isSome.2 ⟨x, hx, hi⟩)

/-! ### The end of a command of chunks -/

/-- A list after its command has ended with a status and a detail (07 R234, R258). -/
def Machine.Run.over (r : Run) (flags : Nat) : Option (Nat × Nat) → Run
  | none => { r with cmd := none, flags := r.flags ||| flags, result := r.result + 1 }
  | some (st, detail) =>
    if st = stOK then { r with cmd := none, flags := r.flags ||| flags, result := r.result + 1 }
    else if st = stLATE then { r with cmd := none, flags := r.flags ||| flags, result := r.result + 1, late := some (r.late.getD detail) }
    else { r with cmd := none, flags := r.flags ||| flags, stop := some (st, detail), list := [] }

theorem outcome_chunks {c : Cmd} (hp : c.phase = .running) (hr : c.ready = true) (ht : c.todo = []) (ho : c.out = []) :
    c.outcome = some (c.fail.getD (stOK, 0)) := by
  unfold Cmd.outcome
  rw [hp, hr, ht, ho]
  rfl

theorem over_getD (r : Run) (flags : Nat) (f : Option (Nat × Nat)) : r.over flags (some (f.getD (stOK, 0))) = r.over flags f := by
  cases f <;> rfl

/-- COMMAND_END of a command that has ended counts it, and drops what its instances saved. -/
theorem commandEnd_over {d : Dev} {k : Nat} {r : Run} {c : Cmd} {x : Nat × Nat} (hr : (d.queue k).run = some r) (hc : r.cmd = some c)
    (ho : c.outcome = some x) : d.commandEnd k = (d.dropCarry k).updQ k fun q => { q with run := some (r.over c.flags (some x)) } := by
  obtain ⟨st, detail⟩ := x
  unfold Dev.commandEnd
  rw [hr]
  dsimp only
  rw [hc]
  dsimp only
  rw [ho]
  dsimp only
  unfold Run.over
  rfl

/-- The command of chunks of a Summit or a Scree engine ends with its first failing status. -/
theorem closeCmd_chunks {d : Dev} {k : Nat} {r : Run} {c : Cmd} (hr : (d.queue k).run = some r) (hc : r.cmd = some c) (hp : c.phase = .running)
    (hrd : c.ready = true) (ht : c.todo = []) (ho : c.out = []) (h1 : 0x20 ≤ c.opcode) (h2 : c.opcode < 0x60) : ∃ s : Dev,
    d.closeCmd k = (s.dropCarry k).updQ k (fun q => { q with run := some (r.over c.flags c.fail) }) ∧
    (∀ j, j ≠ k → s.queue j = d.queue j) ∧ s = { d with queues := s.queues } := by
  have hcmd : d.cmdOf k = some c := by rw [Dev.cmdOf, hr]; exact hc
  obtain ⟨f, hf⟩ : ∃ f, f = c.fail.getD (stOK, 0) := ⟨_, rfl⟩
  obtain ⟨s, hs⟩ : ∃ s, s = d.updCmd k fun c => { c with phase := .ended f.1 f.2 } := ⟨_, rfl⟩
  have hq : (s.queue k).run = some { r with cmd := some { c with phase := .ended f.1 f.2 } } := by
    rw [hs, Dev.updCmd, queue_updQ, if_pos rfl, hr]
    dsimp only
    rw [Option.map_some, hc]
    rfl
  have he : d.closeCmd k = s.commandEnd k := by
    unfold Dev.closeCmd
    rw [hcmd]
    dsimp only
    rw [outcome_chunks hp hrd ht ho, ← hf]
    dsimp only
    rw [if_neg (by omega), if_neg (by omega), show runAct (closing k c f.1) d = (.ok (), d) by
      unfold closing
      rw [hrd, if_neg (by simp), if_neg (by omega), if_neg (by omega)]
      rfl]
    dsimp only
    rw [hrd, decide_eq_false (by omega), if_neg (by simp), ← hs]
  refine ⟨s, ?_, fun j hj => by rw [hs, Dev.updCmd, queue_updQ, if_neg hj], by rw [hs]; rfl⟩
  rw [he, commandEnd_over hq rfl (outcome_ended (st := f.1) (x := f.2) rfl ho)]
  have hov : (({ r with cmd := some { c with phase := .ended f.1 f.2 } } : Run)).over c.flags (some (f.1, f.2)) = r.over c.flags c.fail := by
    rw [← over_getD r, ← hf]
    rfl
  change (s.dropCarry k).updQ k (fun q => { q with run := some (({ r with cmd := some { c with phase := .ended f.1 f.2 } } : Run).over c.flags (some (f.1, f.2))) }) = _
  rw [hov]

end Sys2Proof
end

section
/-! SUPPORT. Chunks, from their dispatch to the end of their command: the settling theorem (07 R239 to R243, R260, R263 to R265). -/

namespace Sys2Proof

open Machine

theorem gives_mono {c : Instr} {d : Dev} {P Q : Dev → Prop} (h : Gives c d P) (hi : ∀ e, P e → Q e) : Gives c d Q := by
  obtain ⟨e, he, hP⟩ := h
  exact ⟨e, he, hi e hP⟩

/-- What an idle instance that serves one queue does with its first chunk. -/
theorem dispatch_one (d : Dev) (i : Inst) (k : Nat) (c : Cmd) (limit : Option Nat) (hp : Powered d)
    (hb : (Tab.get Engine.reset d.engines i.key).busy = none) (hw : d.workHeld = false) (hq : d.readyQueues i = [k]) (hc : d.cmdOf k = some c)
    (hs : ∀ j ∈ d.queues.map (·.1), ∀ x, d.cmdOf j = some x → x.ready = true ∨ x.phase ≠ .running) :
    ∃ ch, c.todo.find? (fun x => d.instOf k c x == i) = some ch ∧
      ((chunkWork d k (engineOp c.opcode) c i ch limit).1 = .error .wait → Gives (.chunkDispatch i.cls i.die ⟨i.idx, limit⟩) d fun e =>
        e = { d with wakes := (chunkWork d k (engineOp c.opcode) c i ch limit).2.wakes }) ∧
      ((chunkWork d k (engineOp c.opcode) c i ch limit).1 ≠ .error .wait → Gives (.chunkDispatch i.cls i.die ⟨i.idx, limit⟩) d fun e =>
        ∃ asg eng, asg = d.assignment k c ∧ e = (chunkWork d k (engineOp c.opcode) c i ch limit).2.handed k i ch asg
          (begun k ch c (chunkWork d k (engineOp c.opcode) c i ch limit)) eng) := by
  obtain ⟨ch, hch⟩ := readyQueues_todo (by rw [hq]; exact List.mem_singleton_self k) hc
  obtain ⟨eng, he⟩ := dispatchOn_one limit engineOp hb hw hq hc
  rw [hch, Option.getD_some] at he
  have hsplit := splitAll_ready ((d.queues.map (·.1)).filter fun k => qClass k == i.cls) fun j hj => hs j (List.mem_filter.1 hj).1
  refine ⟨ch, hch, fun hr => ?_, fun hr => ?_⟩
  · refine gives_of_onDev (·.chunkDispatch i limit) (fun _ => rfl) hp ?_
    rw [chunkDispatch_eq i limit hw, hsplit, he, startChunk_waits d k _ c i ch limit eng hr]
  · refine gives_of_onDev (·.chunkDispatch i limit) (fun _ => rfl) hp ⟨_, eng, rfl, ?_⟩
    rw [chunkDispatch_eq i limit hw, hsplit, he, startChunk_starts d k _ c i ch limit eng hr]

/-- Settles O42: a dispatch is the start of one chunk, whose work is done then and kept at the instance; the end of a chunk frees the instance
and tells its command; and the end of a command of chunks is its first failing status, counted. -/
theorem chunkLife : Obligations.ChunkLife := by
  unfold Obligations.ChunkLife
  refine ⟨fun d cls die idx k c limit hp hb hw hq hc hs => ?_, fun d i b cycles hp hb => chunkEnd_ends d i b cycles hp hb,
    fun d k r c hp hk hr hc hph hrd ht ho h1 h2 => ?_⟩
  · obtain ⟨ch, hch, hwait, hstart⟩ := dispatch_one d ⟨cls, die, idx⟩ k c limit hp hb hw hq hc hs
    refine ⟨ch, hch, hwait, fun hr => gives_mono (hstart hr) fun e => ?_⟩
    rintro ⟨asg, eng, rfl, rfl⟩
    obtain ⟨o1, o2, o3, o4⟩ := handed_reads (chunkWork d k (engineOp c.opcode) c ⟨cls, die, idx⟩ ch limit).2 k ⟨cls, die, idx⟩ ch (d.assignment k c)
      (begun k ch c (chunkWork d k (engineOp c.opcode) c ⟨cls, die, idx⟩ ch limit)) eng
    exact ⟨o1, o2, by rw [o3]; rfl, o4⟩
  · obtain ⟨s, he, hs, hsd⟩ := closeCmd_chunks hr hc hph hrd ht ho h1 h2
    refine gives_onQueue (f := (·.closeCmd k)) (fun _ => rfl) hp hk ?_
    rw [he]
    refine ⟨?_, fun j hj => ?_, ?_, fun i => ?_⟩
    · rw [queue_updQ, if_pos rfl]
      rfl
    · rw [queue_updQ, if_neg hj]
      exact hs j hj
    · rw [hsd]; rfl
    · exact (dropCarry_busy s k i).trans (by rw [hsd])

end Sys2Proof
end

section
/-! SUPPORT. Engine commands: their checks, their split into chunks, and the chunks one by one (07 R237 to R242). -/

namespace Sys2Proof

open Machine

theorem common_of_running {d : Dev} {k op : Nat} {c : Cmd} (hc : d.cmdOf k = some c) (hp : c.phase = .running)
    (ho : bitsOf (wordAt c.words 0) 0 8 = op) : d.common k op = some c.words := by
  unfold Dev.common
  rw [hc]
  dsimp only
  rw [hp]
  exact if_pos ho

theorem powered_updCmd {x : Dev} (h : Powered x) (k : Nat) (f : Cmd → Cmd) : Powered (x.updCmd k f) := h

theorem workHeld_updCmd (x : Dev) (k : Nat) (f : Cmd → Cmd) : (x.updCmd k f).workHeld = x.workHeld := rfl

/-- Two changes of a command that agree on the command there is are one. -/
theorem updCmd_at {x : Dev} {k : Nat} {c : Cmd} (hc : x.cmdOf k = some c) {f g : Cmd → Cmd} (h : f c = g c) : x.updCmd k f = x.updCmd k g := by
  have hq : (fun q : Queue => ({ q with run := q.run.map fun r => { r with cmd := r.cmd.map f } } : Queue)) (x.queue k) =
      (fun q : Queue => ({ q with run := q.run.map fun r => { r with cmd := r.cmd.map g } } : Queue)) (x.queue k) := by
    unfold Dev.cmdOf at hc
    dsimp only
    cases hr : (x.queue k).run with
    | none => rfl
    | some r =>
      rw [hr, Option.bind_some] at hc
      rw [Option.map_some, Option.map_some, hc, Option.map_some, Option.map_some, h]
  unfold Dev.updCmd Dev.updQ Tab.upd
  change ({ x with queues := Tab.set Queue.reset x.queues k ((fun q : Queue => ({ q with run := q.run.map fun r => { r with cmd := r.cmd.map f } } : Queue)) (x.queue k)) } : Dev) = _
  rw [hq]
  rfl

/-! ### The split -/

/-- A command split into `n` units of `per` chunks each, over the instances `is`. -/
def Machine.Cmd.split (n per : Nat) (is : List Inst) (c : Cmd) : Cmd :=
  { c with
    ready := true, chunks := n * per, per := per, todo := List.range (n * per), insts := is
    asg := if is.isEmpty then [] else (List.range n).map fun u => is.getD (u % is.length) ⟨0, 0, 0⟩ }

section
variable {d : Dev} {k : Nat} {c : Cmd} {e : EngineOp} (hc : d.cmdOf k = some c) (hp : c.phase = .running) (hr : c.ready = false)
include hc hp hr

theorem prepare_splits {x : Dev} {n per : Nat} (h : runAct (e.prep k c) d = (.ok (n, per), x)) :
    d.prepare k e = x.updCmd k (Cmd.split n per (x.named k c.words)) := by
  unfold Dev.prepare
  rw [hc]
  dsimp only
  rw [hr, hp, if_neg (by simp), h]
  rfl

theorem prepare_fails {x : Dev} {st detail : Nat} (h : runAct (e.prep k c) d = (.error (.ended st detail), x)) :
    d.prepare k e = x.endCmd k st detail := by
  unfold Dev.prepare
  rw [hc]
  dsimp only
  rw [hr, hp, if_neg (by simp), h]

end

theorem prepare_split {d : Dev} {k : Nat} {c : Cmd} (hc : d.cmdOf k = some c) (hr : c.ready = true) (e : EngineOp) : d.prepare k e = d :=
  prepare_ready e fun x hx => .inl (by rw [← Option.some.inj (hc.symm.trans hx)]; exact hr)

/-! ### A turn of an engine command -/

/-- What a turn does once its command is split. -/
def Machine.Dev.runSplit (s : Dev) (k cycles : Nat) (e : EngineOp) : Dev :=
  match s.cmdOf k with
  | some c => if c.stop.isSome then s else s.runChunks k e cycles c.todo.length
  | none => s

theorem engineCmd_runs {d : Dev} {k op : Nat} {c : Cmd} (cycles : Nat) (e : EngineOp) (hc : d.cmdOf k = some c) (hp : c.phase = .running)
    (ho : bitsOf (wordAt c.words 0) 0 8 = op) (hw : d.workHeld = false) : d.engineCmd k op cycles e = (d.prepare k e).runSplit k cycles e := by
  unfold Dev.engineCmd
  rw [common_of_running hc hp ho]
  dsimp only
  rw [hw]
  rfl

theorem engineCmd_held {d : Dev} (k op cycles : Nat) (e : EngineOp) (hw : d.workHeld = true) : d.engineCmd k op cycles e = d := by
  unfold Dev.engineCmd
  rw [hw]
  split <;> rfl

theorem runSplit_going {s : Dev} {k : Nat} {c : Cmd} (cycles : Nat) (e : EngineOp) (hc : s.cmdOf k = some c) (hs : c.stop = none) :
    s.runSplit k cycles e = s.runChunks k e cycles c.todo.length := by
  unfold Dev.runSplit
  rw [hc]
  dsimp only
  rw [hs]
  rfl

theorem runSplit_empty {s : Dev} {k : Nat} (cycles : Nat) (e : EngineOp) (h : ∀ c, s.cmdOf k = some c → c.todo = []) :
    s.runSplit k cycles e = s := by
  unfold Dev.runSplit
  split
  · next c hc =>
    rw [h c hc]
    split <;> rfl
  · rfl

/-! ### A chunk of the turn -/

/-- The state in which a turn goes on after its next chunk. -/
def Machine.Dev.afterChunk (d : Dev) (k : Nat) (e : EngineOp) (c : Cmd) (ch cycles : Nat) (eng : Engine) : Dev :=
  (d.startChunk k e c (d.instOf k c ch) ch none eng).2.endOn (d.instOf k c ch) cycles

section
variable {d : Dev} {k ch : Nat} {c : Cmd} {eng : Engine} (e : EngineOp) (cycles : Nat) (hc : d.cmdOf k = some c)
  (hm : ChunkMayRun d k c ch eng)
include hc hm

theorem runChunks_next (n : Nat) :
    ((chunkWork d k e c (d.instOf k c ch) ch none).1 = .error .wait → d.runChunks k e cycles (n + 1) =
      { d with wakes := (chunkWork d k e c (d.instOf k c ch) ch none).2.wakes }) ∧
    ((chunkWork d k e c (d.instOf k c ch) ch none).1 ≠ .error .wait → d.runChunks k e cycles (n + 1) =
      (d.afterChunk k e c ch cycles eng).runChunks k e cycles n) := by
  obtain ⟨-, -, ht, -, hb, hpk⟩ := hm
  obtain ⟨t, ht⟩ : ∃ t, c.todo = ch :: t := by
    cases hl : c.todo with
    | nil => rw [hl] at ht; simp at ht
    | cons x t => rw [hl] at ht; exact ⟨t, by rw [Option.some.inj ht]⟩
  have hrun : ∀ r : Bool × Dev, d.startChunk k e c (d.instOf k c ch) ch none eng = r → d.runChunks k e cycles (n + 1) =
      (bif r.1 then Dev.runChunks (r.2.endOn (d.instOf k c ch) cycles) k e cycles n else r.2) := fun r hr => by
    rw [Dev.runChunks, hc]
    dsimp only
    rw [ht]
    dsimp only
    rw [hpk]
    dsimp only
    rw [hb, if_neg (by simp), hr]
    obtain ⟨b, s⟩ := r
    cases b <;> rfl
  refine ⟨fun h => hrun _ (startChunk_waits d k e c _ ch none eng h), fun h => ?_⟩
  rw [hrun _ (startChunk_starts d k e c _ ch none eng h), Dev.afterChunk, startChunk_starts d k e c _ ch none eng h]
  rfl

end

end Sys2Proof
end

section
/-! SUPPORT. What one chunk of an engine command leaves, and SC_PROGRAM_T (07 R240 to R242, R260; 10 R360). -/

namespace Sys2Proof

open Machine

/-! ### A chunk that has begun and ended -/

theorem onlyChunk_trans {i : Inst} {k : Nat} {x y z : Dev} (h : OnlyChunk i k x y) (h' : OnlyChunk i k y z) : OnlyChunk i k x z := by
  obtain ⟨h1, h2, h3, h4⟩ := h
  obtain ⟨g1, g2, g3, g4⟩ := h'
  refine ⟨fun j hj => (g1 j hj).trans (h1 j hj), fun j hj => (g2 j hj).trans (h2 j hj), ?_, fun p hp => (g4 p hp).trans (h4 p hp)⟩
  rw [h3] at g3
  exact g3

/-- What is left to hand out after a chunk has come to `r1`, its failing status being `fail` and the command's before it `old`. -/
def todoAfter (fail old : Option (Nat × Nat)) (r1 : Except Stop Bool) (ch : Nat) (todo : List Nat) : List Nat :=
  match fail, r1 with
  | some _, _ => []
  | none, .ok false => if old.isNone then insertAsc ch todo else todo
  | none, _ => todo

theorem todoAfter_cut (fail old : Option (Nat × Nat)) (r1 : Except Stop Bool) (ch : Nat) (todo : List Nat) :
    (if fail.isSome then [] else if decide (r1 = .ok false) = true ∧ old = none ∧ (none : Option Nat) = none then insertAsc ch todo else todo) =
      todoAfter fail old r1 ch todo := by
  cases fail with
  | some f => rfl
  | none =>
    cases r1 with
    | error st => simp [todoAfter]
    | ok done => cases done <;> cases old <;> simp [todoAfter]

theorem gives_begun (k ch : Nat) (c : Cmd) (r : Except Stop Bool × Dev) : (begun k ch c r).gives c.trap = chunkFail c r := by
  obtain ⟨x, y⟩ := r
  cases x with
  | error st => cases st <;> rfl
  | ok done => rfl

theorem outBut_handed (c : Cmd) (i : Inst) (ch : Nat) (todo : List Nat) (asg : List Inst) :
    outBut { c with todo := todo, asg := asg, out := c.out ++ [⟨ch, i⟩] } i ch = outBut c i ch := by
  unfold outBut
  simp

theorem ran_cmd {d z : Dev} {k ch : Nat} {c c1 : Cmd} {i : Inst} {r : Except Stop Bool × Dev} {c' : Cmd} (hz : z.cmdOf k = some c')
    (he : ChunkEnds i (begun k ch c r) { c1 with todo := c1.todo.erase ch, asg := d.assignment k c, out := c1.out ++ [⟨ch, i⟩] } c')
    (hw : c1.words = c.words) (hs : c1.stop = none) : z.cmdOf k = some { c1 with
      asg := d.assignment k c, out := outBut c1 i ch, flags := c1.flags ||| r.2.flagAcc, fail := failAfter c1.fail (chunkFail c r)
      todo := todoAfter (chunkFail c r) c1.fail r.1 ch (c1.todo.erase ch) } := by
  have hg : (begun k ch c r).gives (Cmd.trap { c1 with todo := c1.todo.erase ch, asg := d.assignment k c, out := c1.out ++ [⟨ch, i⟩] }) =
      chunkFail c r := by
    rw [← gives_begun k ch]
    unfold Cmd.trap
    rw [hw]
  have ho := outBut_handed c1 i ch (c1.todo.erase ch) (d.assignment k c)
  have ht := todoAfter_cut (chunkFail c r) c1.fail r.1 ch (c1.todo.erase ch)
  rw [chunkEnds_iff, hg] at he
  rw [hz, he, ← ht]
  obtain ⟨words, phase, ready, chunks, todo, out, fail, flags, stop, per, insts, asg, carry, slots, pages, done⟩ := c1
  dsimp only at hs
  subst hs
  dsimp only [begun] at ho ⊢
  rw [ho]
  rfl

theorem afterChunk_ran {d : Dev} {k ch : Nat} {c : Cmd} {eng : Engine} (e : EngineOp) (cycles : Nat)
    (h : (chunkWork d k e c (d.instOf k c ch) ch none).1 ≠ .error .wait) :
    ChunkRan d k c (d.instOf k c ch) ch cycles eng (chunkWork d k e c (d.instOf k c ch) ch none) (d.afterChunk k e c ch cycles eng) := by
  obtain ⟨i, hi⟩ : ∃ i, i = d.instOf k c ch := ⟨_, rfl⟩
  unfold Dev.afterChunk
  rw [← hi] at h ⊢
  rw [startChunk_starts d k e c i ch none eng h]
  obtain ⟨r, hr⟩ : ∃ r, r = chunkWork d k e c i ch none := ⟨_, rfl⟩
  rw [← hr]
  obtain ⟨s, hs⟩ : ∃ s, s = r.2.handed k i ch (d.assignment k c) (begun k ch c r) eng := ⟨_, rfl⟩
  obtain ⟨o1, -, o3, o4⟩ := handed_reads r.2 k i ch (d.assignment k c) (begun k ch c r) eng
  rw [← hs] at o1 o3 o4
  have hb : (Tab.get Engine.reset s.engines i.key).busy = some (begun k ch c r) := by rw [o3]
  obtain ⟨e1, e2, e3, -, e5, -⟩ := endOn_ends hb cycles
  change ChunkRan d k c i ch cycles eng r ((r.2.handed k i ch (d.assignment k c) (begun k ch c r) eng).endOn i cycles)
  rw [← hs]
  refine ⟨onlyChunk_trans o1 e1, by rw [e2], ?_, fun c1 hc1 hw hstop => ?_⟩
  · refine e3.trans ?_
    rw [o3]
    rfl
  · obtain ⟨c', hz, he⟩ := e5 _ (o4 c1 hc1) (by simp [begun])
    exact ran_cmd hz he hw hstop

/-! ### SC_PROGRAM_T -/

theorem programStart_runs {d : Dev} {k : Nat} {c : Cmd} (hc : d.cmdOf k = some c) (hp : c.phase = .running)
    (ho : bitsOf (wordAt c.words 0) 0 8 = 0x42) (hw : d.workHeld = false) {s : Dev} (hs : d.prepare k programOp = s) :
    (∀ x, s.cmdOf k = none ∨ s.programming k = false → x = s → d.programStart k = x) ∧
    (∀ c2, s.cmdOf k = some c2 → s.programming k = true →
      (∀ x, runAct (programFill k c2) s = (.ok (), x) → d.programStart k = x) ∧
      ∀ st detail x, runAct (programFill k c2) s = (.error (.ended st detail), x) → d.programStart k =
        x.updCmd k fun y => { y with fail := some (y.fail.getD (st, detail)), todo := [], carry := [] }) := by
  unfold Dev.programStart
  rw [common_of_running hc hp ho, hw]
  dsimp only
  rw [if_neg Bool.false_ne_true, hs]
  refine ⟨fun x h hx => ?_, fun c2 h2 hpr => ⟨fun x hx => ?_, fun st detail x hx => ?_⟩⟩
  · subst hx
    rcases h with h | h
    · rw [h]
    · rw [h]
      cases x.cmdOf k <;> rfl
  · rw [h2]
    dsimp only
    rw [hpr, if_neg (by simp), hx]
  · rw [h2]
    dsimp only
    rw [hpr, if_neg (by simp), hx]

/-- A command split into one chunk of one unit. -/
theorem split_one (is : List Inst) (c : Cmd) : c.split 1 1 is =
    { c with ready := true, chunks := 1, per := 1, todo := [0], insts := is, asg := is.take 1 } := by
  unfold Cmd.split
  cases is with
  | nil => rfl
  | cons i l =>
    have h : (List.range 1).map (fun u => (i :: l).getD (u % (i :: l).length) ⟨0, 0, 0⟩) = [i] := by
      rw [List.range_one, List.map_singleton, Nat.zero_mod]
      rfl
    rw [h]
    rfl

end Sys2Proof
end

section
/-! SUPPORT. Engine commands: the settling theorem (07 R237 to R242; 10 R360). -/

namespace Sys2Proof

open Machine

/-- The engine commands, each with its OP and its engine's rules (09 Table 9.2, 10 Table 10.8, 11, 12, 16 Table 16.14). Nothing
runs it: the compiled runtime has no tag for so late a constructor. -/
noncomputable def engineRows : List ((EngineTurn → Instr) × Nat × EngineOp) :=
  [(Instr.matmul, 0x20, matmulOp), (Instr.convert, 0x22, convertOp), (Instr.optStep, 0x23, optOp),
    (Instr.rowop, 0x24, rowopOp), (Instr.scMvm, 0x40, mvmOp), (Instr.scWriteS, 0x41, writeSOp), (Instr.scSwap, 0x43, swapOp),
    (Instr.scCal, 0x44, calOp), (Instr.scQuery, 0x45, queryOp), (Instr.cnGather, 0x60, gatherOp),
    (Instr.cnScatter, 0x61, scatterOp), (Instr.cnUpdate, 0x62, updateOp), (Instr.sdSelect, 0x80, selectOp),
    (Instr.sdTake, 0x81, takeOp), (Instr.sdBuild, 0x82, buildOp), (Instr.sdProbe, 0x83, probeOp),
    (Instr.sdGroup, 0x84, groupOp), (Instr.sdNorm, 0x85, normOp), (Instr.sdTopk, 0x86, topkOp), (Instr.sdSort, 0x87, sortOp),
    (Instr.sdSample, 0x88, sampleOp), (Instr.clPut, 0xA0, putOp), (Instr.clGet, 0xA1, getOp), (Instr.clColl, 0xA2, collOp)]

theorem engineRows_exec : ∀ row ∈ engineRows, ∀ (k cycles : Nat) (s : State),
    exec (row.1 ⟨k, cycles⟩) s = onQueue k (·.engineCmd k row.2.1 cycles row.2.2) s := by
  unfold engineRows
  simp only [List.forall_mem_cons]
  refine ⟨?_, ?_, ?_, ?_, ?_, ?_, ?_, ?_, ?_, ?_, ?_, ?_, ?_, ?_, ?_, ?_, ?_, ?_, ?_, ?_, ?_, ?_, ?_, ?_, fun _ h => absurd h List.not_mem_nil⟩
  all_goals exact fun _ _ _ => rfl

theorem exec_onQueue {i : Instr} {k : Nat} {f : Dev → Dev} (hx : ∀ s, exec i s = onQueue k f s) {d : Dev} (hp : Powered d)
    (hk : queueOk k = true) (q : List Instr) : exec i ⟨d, q⟩ = .next ⟨f d, q⟩ := by
  obtain ⟨e, he, rfl⟩ := gives_onQueue (P := fun e => e = f d) hx hp hk rfl
  exact he q

section
variable {row : Instr} {op k cycles : Nat} {e : EngineOp} (hx : ∀ s, exec row s = onQueue k (·.engineCmd k op cycles e) s)
  {d : Dev} {c : Cmd} (h : RunsOp d k op c)
include hx h

/-- A command whose checks fail ends with their status. -/
theorem engine_fails (hr : c.ready = false) (hw : d.workHeld = false) {st detail : Nat} {x : Dev}
    (hf : runAct (e.prep k c) d = (.error (.ended st detail), x)) (ht : ∀ c', x.cmdOf k = some c' → c'.todo = []) :
    Gives row d fun y => y = x.endCmd k st detail := by
  obtain ⟨hp, hk, hc, hph, hop⟩ := h
  refine gives_onQueue hx hp hk ?_
  rw [engineCmd_runs cycles e hc hph hop hw, prepare_fails hc hph hr hf]
  refine runSplit_empty cycles e fun c' hc' => ?_
  rw [Dev.endCmd, cmdOf_updCmd, if_pos rfl] at hc'
  cases hxc : x.cmdOf k with
  | none => rw [hxc] at hc'; exact absurd hc' (by simp)
  | some c0 =>
    rw [hxc] at hc'
    rw [← Option.some.inj hc']
    exact ht c0 hxc

/-- One that passes goes on as the command it is split into. -/
theorem engine_splits (hr : c.ready = false) (hw : d.workHeld = false) {n per : Nat} {x : Dev} {c' : Cmd}
    (hf : runAct (e.prep k c) d = (.ok (n, per), x)) (hc' : x.cmdOf k = some c') (hph' : c'.phase = .running) (hww : c'.words = c.words)
    (hpx : Powered x) (hwx : x.workHeld = false) (q : List Instr) :
    exec row ⟨d, q⟩ = exec row ⟨x.updCmd k (Cmd.split n per (x.named k c.words)), q⟩ := by
  obtain ⟨hp, hk, hc, hph, hop⟩ := h
  have hy := (updCmd_reads hc' (Cmd.split n per (x.named k c.words))).1
  rw [exec_onQueue hx hp hk, exec_onQueue hx (powered_updCmd hpx k _) hk, engineCmd_runs cycles e hc hph hop hw, prepare_splits hc hph hr hf,
    engineCmd_runs cycles e hy hph' (by rw [← hop, ← hww]; rfl) hwx, prepare_split hy rfl]

/-- With no chunk left to hand out a turn does nothing. -/
theorem engine_idle (hr : c.ready = true) (ht : c.todo = []) : Gives row d fun y => y = d := by
  obtain ⟨hp, hk, hc, hph, hop⟩ := h
  refine gives_onQueue hx hp hk ?_
  cases hw : d.workHeld with
  | true => exact engineCmd_held k op cycles e hw
  | false =>
    rw [engineCmd_runs cycles e hc hph hop hw, prepare_split hc hr]
    exact runSplit_empty cycles e fun c' hc' => by rw [← Option.some.inj (hc.symm.trans hc')]; exact ht

section
variable {ch : Nat} {eng : Engine} (hm : ChunkMayRun d k c ch eng)
include hm

omit hx in
theorem engineCmd_next {n : Nat} (hn : c.todo.length = n + 1) :
    ((chunkWork d k e c (d.instOf k c ch) ch none).1 = .error .wait → d.engineCmd k op cycles e =
      { d with wakes := (chunkWork d k e c (d.instOf k c ch) ch none).2.wakes }) ∧
    ((chunkWork d k e c (d.instOf k c ch) ch none).1 ≠ .error .wait → d.engineCmd k op cycles e =
      (d.afterChunk k e c ch cycles eng).runChunks k e cycles n) := by
  obtain ⟨-, -, hc, hph, hop⟩ := h
  obtain ⟨hr, hs, -, hw, -⟩ := id hm
  rw [engineCmd_runs cycles e hc hph hop hw, prepare_split hc hr, runSplit_going cycles e hc hs, hn]
  exact runChunks_next e cycles hc hm n

omit hx h in
theorem todo_length : c.todo.length = c.todo.tail.length + 1 := by
  obtain ⟨-, -, ht, -⟩ := hm
  cases hl : c.todo with
  | nil => rw [hl] at ht; exact absurd ht (by simp)
  | cons x t => rfl

theorem engine_chunk :
    ((chunkWork d k e c (d.instOf k c ch) ch none).1 = .error .wait → Gives row d fun y =>
      y = { d with wakes := (chunkWork d k e c (d.instOf k c ch) ch none).2.wakes }) ∧
    ((chunkWork d k e c (d.instOf k c ch) ch none).1 ≠ .error .wait → c.todo = [ch] → Gives row d
      (ChunkRan d k c (d.instOf k c ch) ch cycles eng (chunkWork d k e c (d.instOf k c ch) ch none))) ∧
    ((chunkWork d k e c (d.instOf k c ch) ch none).1 ≠ .error .wait →
      ChunkRan d k c (d.instOf k c ch) ch cycles eng (chunkWork d k e c (d.instOf k c ch) ch none) (d.afterChunk k e c ch cycles eng) ∧
      (∀ c', (d.afterChunk k e c ch cycles eng).cmdOf k = some c' → c'.todo = c.todo.tail → c'.words = c.words → c'.phase = c.phase →
        c'.ready = true → c'.stop = none → Powered (d.afterChunk k e c ch cycles eng) → (d.afterChunk k e c ch cycles eng).workHeld = false →
        ∀ q, exec row ⟨d, q⟩ = exec row ⟨d.afterChunk k e c ch cycles eng, q⟩)) := by
  obtain ⟨hp, hk, -, hph, hop⟩ := id h
  obtain ⟨n1, n2⟩ := engineCmd_next (cycles := cycles) (e := e) h hm (todo_length hm)
  refine ⟨fun hr => gives_onQueue hx hp hk (n1 hr), fun hr ht => gives_onQueue hx hp hk ?_, fun hr =>
    ⟨afterChunk_ran e cycles hr, fun c' hz ht hww hph' hrd hs hpz hwz q => ?_⟩⟩
  · rw [n2 hr, ht]
    exact afterChunk_ran e cycles hr
  · rw [exec_onQueue hx hp hk, exec_onQueue hx hpz hk, n2 hr,
      engineCmd_runs cycles e hz (hph'.trans hph) (by rw [hww]; exact hop) hwz, prepare_split hz hrd, runSplit_going cycles e hz hs, ht]

end

end

/-- SC_PROGRAM_T is split into one chunk, and its first groups are selected. -/
theorem program_starts {d : Dev} {k : Nat} {c : Cmd} (h : RunsOp d k 0x42 c) (hr : c.ready = false) (hw : d.workHeld = false) :
    (∀ x c', runAct (programOp.prep k c) d = (.ok (1, 1), x) → x.cmdOf k = some c' → c'.words = c.words → c'.phase = .running →
      c'.fail = none → c'.stop = none → ∀ c2, c2 = Cmd.split 1 1 (x.named k c.words) c' →
      ((runAct (programFill k c2) (x.updCmd k fun _ => c2)).1 = .ok () → Gives (.scProgramT k) d fun e =>
        e = (runAct (programFill k c2) (x.updCmd k fun _ => c2)).2) ∧
      (∀ st detail, (runAct (programFill k c2) (x.updCmd k fun _ => c2)).1 = .error (.ended st detail) → Gives (.scProgramT k) d fun e =>
        e = (runAct (programFill k c2) (x.updCmd k fun _ => c2)).2.updCmd k fun y =>
          { y with fail := some (y.fail.getD (st, detail)), todo := [], carry := [] })) ∧
    (∀ st detail x, runAct (programOp.prep k c) d = (.error (.ended st detail), x) → Gives (.scProgramT k) d fun e =>
      e = x.endCmd k st detail) := by
  obtain ⟨hp, hk, hc, hph, hop⟩ := h
  refine ⟨fun x c' hf hc' hww hph' hfl hs c2 h2 => ?_, fun st detail x hf => ?_⟩
  · have hprep : d.prepare k programOp = x.updCmd k fun _ => c2 := by
      rw [prepare_splits hc hph hr hf]
      exact updCmd_at hc' h2.symm
    have hcmd : (x.updCmd k fun _ => c2).cmdOf k = some c2 := (updCmd_reads hc' fun _ => c2).1
    have hpr : (x.updCmd k fun _ => c2).programming k = true := by
      unfold Dev.programming
      rw [hcmd, h2]
      change (bitsOf (wordAt c'.words 0) 0 8 == 0x42 && true && c'.phase == .running && c'.fail.isNone && c'.stop.isNone) = true
      rw [hww, hop, hph', hfl, hs]
      rfl
    obtain ⟨p1, p2⟩ := (programStart_runs hc hph hop hw hprep).2 c2 hcmd hpr
    exact ⟨fun hr => gives_onQueue (f := (·.programStart k)) (fun _ => rfl) hp hk (p1 _ (Prod.ext hr rfl)),
      fun st detail hr => gives_onQueue (f := (·.programStart k)) (fun _ => rfl) hp hk (p2 st detail _ (Prod.ext hr rfl))⟩
  · refine gives_onQueue (f := (·.programStart k)) (fun _ => rfl) hp hk ?_
    refine (programStart_runs hc hph hop hw (prepare_fails hc hph hr hf)).1 _ ?_ rfl
    cases hx : (x.endCmd k st detail).cmdOf k with
    | none => exact .inl rfl
    | some c' =>
      right
      rw [Dev.endCmd, cmdOf_updCmd, if_pos rfl] at hx
      obtain ⟨c0, -, rfl⟩ := Option.map_eq_some_iff.1 hx
      unfold Dev.programming
      rw [Dev.endCmd, cmdOf_updCmd, if_pos rfl, hx]
      simp

/-- Settles O41: every engine row is one turn of its command, for any engine's rules; the turn splits the command, or runs its chunks one by
one, each the start of a chunk and its end. -/
theorem engineCommands : Obligations.EngineCommands := by
  unfold Obligations.EngineCommands
  refine ⟨fun row hrow d k cycles c h => ?_, fun d k c h hr hw => ?_⟩
  · have hx := engineRows_exec row hrow k cycles
    exact ⟨fun hr hw => ⟨fun st detail x hf ht => engine_fails hx h hr hw hf ht, fun n per x c' hf hc' hph' hww hpx hwx q =>
      engine_splits hx h hr hw hf hc' hph' hww hpx hwx q⟩, engine_idle hx h, fun ch eng hm => engine_chunk hx h hm⟩
  · obtain ⟨p1, p2⟩ := program_starts h hr hw
    exact ⟨fun x c' hf hc' hww hph' hfl hs => p1 x c' hf hc' hww hph' hfl hs _ (split_one _ _).symm, p2⟩

end Sys2Proof
end
